-- ==== Sys2Proof/Word.lean ====
section
/-! DEFINITION. Word types of the TRT1632: bytes, halfwords and the 32-bit register word (R8). -/

set_option Elab.async false

namespace Sys2Proof

abbrev Byte := BitVec 8
abbrev Word16 := BitVec 16
/-- A register, ring, table or binary32 word (R8: every register is 32 bits wide). -/
abbrev Word := BitVec 32
/-- A coded memory word's 128 data bits, or a ring entry (R473, R503). -/
abbrev Quad := BitVec 128

/-- Channel index c, 0 to 15 (R52). -/
abbrev Chan := Fin 16
/-- Leg index nn, 0 to 31 (R52). -/
abbrev Leg := Fin 32
/-- Marionette lane 0 to 16 (R37: 17 lanes). -/
abbrev Lane := Fin 17
/-- Sense slice 0 to 33 (32 active and 2 spare). -/
abbrev Slice := Fin 34
/-- Trace buffer b, 0 to 15. -/
abbrev Buf := Fin 16
/-- Ring index r of R473, 0 to 31. -/
abbrev Ring := Fin 32

end Sys2Proof
end

