-- ==== Sys2Proof/Syntax.lean ====
section
/-! DEFINITION. Syntax.lean: the commands of the block, one constructor per row of spec/opcode_table.json, and the types
of their operands. The table gives no operands and no bits; an operand is what the spec says the event brings from outside
(log entry 1). -/

set_option Elab.async false

namespace Sys2Proof

/-- The path by which a register access comes (R636). -/
inductive Path where
  | hostPrimary | hostGroup | hostManager | mgmtCore | ringEngine | cmdRing (c : Chan) | image | twinResync | debugPort
  deriving DecidableEq, Repr

/-- A network port, A or B (R58). -/
inductive NetPort where
  | a | b
  deriving DecidableEq, Repr

/-- The gates of R29; the two-way gates GT3 and GS3 once for each way. -/
inductive Gate where
  | gn1 | gn2 | gm1 | gm2 | gv1 | gv2 | gl1 | gl2 | gp1 | gp2
  | gd1 | gd2 | gd3 | gd4 | gd5 | gd6 | gd7
  | gt1 | gt2 | gt3p | gt3t | gs1 | gs2 | gs3s | gs3m
  deriving DecidableEq, Repr

/-- What an Announce message carries for the best master clock algorithm (R56; fields of IEEE 1588-2008, PRESUMED,
log entry 20). -/
structure Announce where
  prio1 : Byte
  clockClass : Byte
  accuracy : Byte
  variance : Word16
  prio2 : Byte
  gm : BitVec 64
  steps : Word16
  deriving DecidableEq, Repr

/-- The processors a debug halt can stop (R207, R37). -/
inductive Proc where
  | management | musicBox | ventriloquist | marionette | tinSoldier | device
  deriving DecidableEq, Repr

/-- A source of the PWM trip matrix (R173): LEGnn_FLT_N or TRIPn_N. -/
inductive FaultSrc where
  | leg (l : Leg)
  | trip (n : Fin 4)
  deriving DecidableEq, Repr

/-- What a slice calibration measures (R226): G in 2^-14, O in quarter LSB, and at the three points the RMS noise and the error of the
corrected mean in 1/1000 LSB. -/
structure CalOutcome where
  gain : Nat
  offs : Int
  noise : List Nat
  errs : List Int
  deriving DecidableEq, Repr

/-- The PLLs with a lock detector of their own besides the media PLL (R585). -/
inductive Pll where
  | network | system | twin
  deriving DecidableEq, Repr

/-- The straps sampled at the release of RESET_N (R551). -/
structure Straps where
  role : Bool
  mgr : Bool
  addr : BitVec 3
  bootsel : BitVec 2
  deriving DecidableEq, Repr

/-- The header of a Twin Link frame as received, but its TYPE, which the command says (R383). -/
structure LinkHead where
  flags : Byte
  blk : Word16
  len : Word16
  hcrc : Word16
  deriving DecidableEq, Repr

/-- A Twin Link frame as received (R383 to R386): its header, the index byte of each payload word in order, and the error patterns of the
coded words that arrived with one. What its words carry stands beside it. -/
structure LinkRx where
  head : LinkHead
  ixs : List Byte
  errs : List (BitVec 145)
  deriving DecidableEq, Repr

/-- What IDENT carries (R389, R426). -/
structure Ident where
  sysId : Word
  role : Bool
  owner : Bool
  lc : Byte
  devnum : BitVec 64
  digest : BitVec 256
  deriving DecidableEq, Repr

/-- The record of channel c in a snapshot (R397). The spec gives the words of each group and not the place of each element, so the
elements stand here by name; tokens stand for states the spec does not describe (log entry 40). -/
structure SnapChan where
  /-- Lane S and W, and the following-error delay line. -/
  s : List Int := []
  w : List Int := []
  rLine : List (List Int) := []
  /-- Chain states of the LIVE bank, which is the new chain's during a crossfade: DC blocker, biquads and both limiters. -/
  dcb : BitVec 64 := 0
  eq : List (Word × Word) := []
  peak : BitVec 64 := 0
  rms : BitVec 64 := 0
  /-- Both cone states as x, v, i; thermal states; current-square sum; resistance estimator sums; gT; last g, as delivered and as received;
  fallback gain and mean square; ρ_slow. -/
  pred : List Word := []
  track : List Word := []
  tc : Word := 0
  tm : Word := 0
  sumI2 : Word := 0
  reNum : Word := 0
  reDen : Word := 0
  gT : Word := 0
  g : Word := 0
  gain : Word := 0
  fbGain : Word := 0
  fbMs : Word := 0
  rhoSlow : Word := 0
  /-- Fit state, scale factors and Rms in use. -/
  fitTok : BitVec 64 := 0
  sB : Word := 0
  sK : Word := 0
  sL : Word := 0
  rmsMech : Option Word := none
  /-- Sweep: phase, point, samples, periods measured, DFT sums, phase accumulator and its advance, points measured, ramp-out. -/
  swPhase : Nat := 0
  swPoint : Nat := 0
  swCnt : Int := 0
  swMeas : Nat := 0
  swV : Word × Word := (0, 0)
  swI : Word × Word := (0, 0)
  swAcc : Nat := 0
  swInc : Nat := 0
  swPoints : List (Word × Word × Word) := []
  swTail : Nat × Int × Nat × Nat := (0, 0, 0, 0)
  deriving DecidableEq, Repr

/-- A snapshot S(B) (R396, R397): boundary B, ASRC states of the 8 domains, (WIDX, WSEQ) of the 32 rings, channel records. The elements
marked Own and Check only are not used by the receiver. -/
structure Snap where
  block : Nat := 0
  asrc : List (BitVec 64) := []
  rings : List (Nat × Nat) := []
  chans : List SnapChan := []
  deriving DecidableEq, Repr

/-- What an RSYNC frame carries (R407). The spec names the regions and not their layout, so their contents stand here by name (log
entry 40): words of the Music Box, table, lane and speaker banks with bank LIVE or NEXT, registers of the shared set, gain hold histories
and fit state of a channel, scene state, and END. -/
inductive Resync where
  | mbBank (c : Chan) (next : Bool) (offset : Nat) (ws : List Word)
  | table (next : Bool) (offset : Nat) (ws : List Word)
  | laneBank (c : Chan) (next : Bool) (offset : Nat) (ws : List Word)
  | spkBank (c : Chan) (next : Bool) (offset : Nat) (ws : List Word)
  | regs (l : List (Word16 × Word))
  | hist (c : Chan) (gr hold : List Word) (fitTok : BitVec 64) (sB sK sL : Word) (rmsMech : Option Word)
  | scene (state liveId idNext : Nat) (atBlock : Nat) (mask : Word16) (started : Bool) (blocks : List Nat) (need : Nat)
  | endMark (bR : Nat) (digest : Word)
  deriving DecidableEq, Repr

/-- A ring frame as received (R418 to R421): the header fields with HCRC, whether K29.7 follows at its place, the 32-byte command slot and the
32 node slots. -/
structure RingFrame where
  enum : Bool
  fold : Bool
  blk : BitVec 48
  origin : Word
  cluster : Byte
  nodes : Byte
  hcrc : Word16
  endOk : Bool
  cmd : List Byte
  slots : List (List Byte)
  deriving DecidableEq, Repr

/-- A fabric transaction waiting at a port (R490 to R494): a read of `beats` beats, or a write of the listed beats with their strobes and the
error patterns that their coded words meet in transit (R28, R508); the cycles it has waited. -/
structure FabReq where
  master : Fin 9
  addr : Word
  write : Bool
  beats : Nat
  data : List Quad
  strobes : List Word16
  errs : List (BitVec 145) := []
  waited : Nat
  deriving DecidableEq, Repr

/-- A fuse write of R574. -/
inductive FuseWrite where
  | key (slot : Fin 2) (bytes : List Byte)
  | credential (bytes : List Byte)
  | revoke (slot : Fin 2)
  deriving DecidableEq, Repr

/-- A command of the block: one constructor per row of spec/opcode_table.json. -/
inductive Instr where
  /-- REGISTER_WRITE (R13): An access of a commit that is granted at a register with no row of its own stores the value under its access code. -/
  | registerWrite (path : Path) (ptr : Word16) (val : Word)
  /-- W1C_CLEAR (R15): A write of 1 to a W1C flag bit clears the flag unless hardware sets it in the same cycle. -/
  | w1cClear (path : Path) (ptr : Word16) (mask : Word) (hwset : Word)
  /-- GATE_DELIVER (R27): A gate delivers a payload word whole to its destination island within its latency bound. -/
  | gateDeliver (gate : Gate)
  /-- UPDATE_BOUNDARY (R138): The period counter enters the first tick of an update, starting the update's reload and per-update work. -/
  | updateBoundary
  /-- BLOCK_BOUNDARY (R43): A block boundary is reached, at which sets made LIVE by commits and block-rate work take effect. -/
  | blockBoundary (muteN : Bool)
  /-- PTP_ANNOUNCE_RX (R56): An Announce message is received and fed to the best master clock algorithm. -/
  | ptpAnnounceRx (port : NetPort) (domain : Byte) (announce : Announce)
  /-- PTP_SYNC_RX (R59): A Sync message from the selected master is received and the servo measures offset and changes state. -/
  | ptpSyncRx (port : NetPort) (domain : Byte) (gm : BitVec 64) (twoStep : Bool) (offset : Int)
  /-- PTP_FOLLOW_UP_RX (R56): A Follow_Up message of a two-step master is received. -/
  | ptpFollowUpRx (port : NetPort) (domain : Byte) (gm : BitVec 64) (offset : Int)
  /-- PTP_DELAY_RESP_RX (R56): A delay response is received for the end-to-end delay mechanism. -/
  | ptpDelayRespRx (port : NetPort) (domain : Byte) (delay : Int)
  /-- DELAY_REQ_TX (R57): The delay-request interval expires and a delay-request frame is sent. -/
  | delayReqTx (port : NetPort)
  /-- ANNOUNCE_TIMEOUT (R59): No Sync from the selected master for ANN_TMO intervals changes port or enters HOLDOVER. -/
  | announceTimeout (port : NetPort)
  /-- PPS_IN_EDGE (R66): A rising edge on PPS_IN aligns sample index 0 of the second in PPS mode. -/
  | ppsInEdge
  /-- PPS_TIMEOUT (R59): No PPS_IN edge for 2 s moves the servo to HOLDOVER. -/
  | ppsTimeout
  /-- STEP_NOW (R62): A write of PTP_CTRL.STEP_NOW requests the pending step at the next block boundary. -/
  | stepNow
  /-- PPS_OUT_FALL (R66): PPS_OUT falls 10 ms after it rose. -/
  | ppsOutFall
  /-- AES67_PACKET_RX (R71): An AES67 packet is received and its samples written by play index within the window. -/
  | aes67PacketRx (port : NetPort) (dst : Word) (udp : Word16) (ssrc : Word) (ts : Word) (samples : List Word)
  /-- SSRC_TIMEOUT (R72): 100 ms without a packet from the learned SSRC lets the SSRC be learned again. -/
  | ssrcTimeout (stream : Fin 16)
  /-- STREAM_RX_TIMEOUT (R72): 100 ms without an accepted packet on a port clears RX_A or RX_B. -/
  | streamRxTimeout (stream : Fin 16) (port : NetPort)
  /-- RECEIVE_READ (R69): Once per sample period the receive reader carries the due AES67 samples through GD7. -/
  | receiveRead
  /-- STREAM_ENABLE (R75): A write setting AIN_SCFG.EN is checked and enables the stream or is refused with a reason. -/
  | streamEnable (stream : Fin 16) (val : Word)
  /-- STREAM_DISABLE (R76): A write clearing AIN_SCFG.EN stops the stream at the next block boundary. -/
  | streamDisable (stream : Fin 16) (val : Word)
  /-- TDM_FRAME_RX (R80): A TDM frame is received and used or discarded by its BCLK count. -/
  | tdmFrameRx (port : Fin 4) (bclks : Nat) (slots : List Word)
  /-- TDM_FS_TIMEOUT (R80): Four frame periods without FS make a TDM port lose lock. -/
  | tdmFsTimeout (port : Fin 4)
  /-- TDM_LOCK_LOSS (R80): Four consecutive discarded frames make a TDM port lose lock. -/
  | tdmLockLoss (port : Fin 4)
  /-- TDM_LOCK_GAIN (R80): Sixteen good frames make a TDM port gain lock. -/
  | tdmLockGain (port : Fin 4) (rate : BitVec 3)
  /-- AES3_SUBFRAME_RX (R86): An AES3 subframe is received; a parity error repeats the previous sample. -/
  | aes3SubframeRx (rx : Fin 4) (sub : Fin 2) (word : BitVec 24) (parityOk : Bool) (invalid : Bool)
  /-- AES3_CS_BLOCK_RX (R87): A channel-status block completes and is kept or counted as AES_CRC. -/
  | aes3CsBlockRx (rx : Fin 4) (bytes : List Byte) (crcGood : Bool)
  /-- AES3_LOCK (R85): An AES3 receiver completes locking to its input rate. -/
  | aes3Lock (rx : Fin 4) (rate : BitVec 3)
  /-- AES3_LOCK_LOSS (R91): An AES3 receiver loses lock and its slots fade out. -/
  | aes3LockLoss (rx : Fin 4)
  /-- ASRC_LOCK (R89): An ASRC domain locks and its slots fade in over 8 blocks. -/
  | asrcLock (domain : Fin 8)
  /-- ASRC_UNLOCK (R91): An ASRC domain loses lock and its slots fade to zero over 8 samples. -/
  | asrcUnlock (domain : Fin 8)
  /-- CS_SELECT (R87): A write of AIN_CSSEL latches the last good channel-status block and resets WORD. -/
  | csSelect (val : Word)
  /-- CS_DATA_READ (R88): A whole read of AIN_CSDATA returns four status bytes and advances WORD. -/
  | csDataRead
  /-- MIX_DATA_WRITE (R96): A write through an AIN_MIXDATA alias stores a mix gain at INDEX and advances INDEX. -/
  | mixDataWrite (val : Word)
  /-- MIX_DATA_READ (R98): A whole read through an AIN_MIXDATA alias returns a gain and advances INDEX. -/
  | mixDataRead
  /-- MB_UNIT_COMPLETE (R124): A Music Box core completes its work unit and hands off its samples. -/
  | mbUnitComplete (q : Fin 4)
  /-- LA_WRITE (R103): A write of CH_LA is accepted if the channel was muted, or refused with LA_REFUSED. -/
  | laWrite (c : Chan) (val : Word)
  /-- BANK_WORD_WRITE (R106): A write through a CH_BDATA alias stores a NEXT-bank word at OFFS and advances OFFS. -/
  | bankWordWrite (c : Chan) (val : Word)
  /-- BANK_WORD_READ (R106): A whole read through a CH_BDATA alias returns a NEXT-bank word and advances OFFS. -/
  | bankWordRead (c : Chan)
  /-- SCENE_ARM (R114): SCN_ARM.GO arms a commit or refuses it with a reason code. -/
  | sceneArm
  /-- SCENE_ABORT (R123): SCN_ARM.ABORT in ARMED stops the new chain and returns to IDLE. -/
  | sceneAbort
  /-- BLOCK_INDEX_READ (R135): A read of SCN_NOW_L latches the whole current block index. -/
  | blockIndexRead
  /-- MB_CORE_UE (R129): An uncorrectable error in a Music Box core triggers a swap as an overrun. -/
  | mbCoreUe (p : Fin 5)
  /-- MB_SWAP_REQUEST (R129): MB_CORE.SWAP requests a swap of logical core SWAP_Q to the spare. -/
  | mbSwapRequest (q : Fin 4)
  /-- K_SELECT (R137): A write of PWM_FSW.K_SEL is checked and applied at the next block boundary or refused. -/
  | kSelect (val : Word)
  /-- SHADOW_WRITE (R160): A compare word is captured into SHADOW and PENDING is set. -/
  | shadowWrite (leg : Leg) (word : Word16) (onEdge : Bool)
  /-- HOST_COMPARE_WRITE (R164): A write of MOD_CMPW in host mode sends a word to SHADOW or is refused. -/
  | hostCompareWrite (leg : Leg) (word : Word16) (onEdge : Bool)
  /-- COMPARE_EDGE (R154): A compare instant turns off the conducting switch of a leg. -/
  | compareEdge (leg : Leg)
  /-- DEAD_TIME_END (R154): The dead time after a compare edge ends and the other switch turns on. -/
  | deadTimeEnd (leg : Leg)
  /-- DL_CALIBRATION_START (R157): Every 3.906 ms Wind-up starts calibrating the next delay line. -/
  | dlCalibrationStart
  /-- DL_CALIBRATION_DONE (R158): A delay-line measurement completes and its table is loaded at the next update boundary or it fails. -/
  | dlCalibrationDone (line : Fin 64) (delays : List Nat)
  /-- CONVERTER_TRIGGER (R165): A trigger fires at POS taps into an update and reaches its sense slice. -/
  | converterTrigger (leg : Leg) (b : Bool)
  /-- CHANNEL_START (R168): A write of CH_MOD.SRC from 0b00 to loop or host mode starts the channel via PRECHARGE. -/
  | channelStart (c : Chan) (val : Word)
  /-- PRECHARGE_END (R168): PRECHARGE ends after its updates and switching starts at the period boundary. -/
  | prechargeEnd (c : Chan)
  /-- CHANNEL_STOP (R169): A write setting SRC to 0b00 or 0b11 puts the legs all-off at the next update boundary. -/
  | channelStop (c : Chan) (val : Word)
  /-- SRC_SWITCH (R641): A write changing SRC between loop and host mode switches the lane at the next update boundary. -/
  | srcSwitch (c : Chan) (val : Word)
  /-- FAULT_INPUT_ACCEPT (R174): A fault or trip input becomes active after FILT + 1 low samples and acts by its action code. -/
  | faultInputAccept (src : FaultSrc)
  /-- FAULT_INPUT_RELEASE (R174): A fault or trip input becomes inactive after FILT + 1 high samples. -/
  | faultInputRelease (src : FaultSrc)
  /-- BLANK_WINDOW_END (R178): A blanking window ends and a still-active fault input takes effect. -/
  | blankWindowEnd (leg : Leg)
  /-- SAFE_LO_ON (R191): Tin Soldier turns LO on 150 ns after the outputs went low in LOW states. -/
  | safeLoOn (c : Chan)
  /-- SAFE_HOLD_END (R189): HOLD ms of LOW_THEN_OFF expire and the channel goes ALL_OFF. -/
  | safeHoldEnd (c : Chan)
  /-- LATCH_CLEAR (R195): CH_TCLR.CLR clears the latch and restarts the channel, unless refused. -/
  | latchClear (c : Chan)
  /-- LATCH_FORCE (R188): CH_TCLR.FORCE latches the channel with CAUSE 0xD. -/
  | latchForce (c : Chan)
  /-- DEVICE_SAFE_CLEAR (R202): TS_CTRL.CLR leaves the device-level safe state or is refused. -/
  | deviceSafeClear
  /-- DEVICE_SAFE_FORCE (R197): TS_CTRL.FORCE enters the device-level safe state with CAUSE bit 10. -/
  | deviceSafeForce
  /-- LIMITS_LOCK (R210): A write of 1 to TS_CTRL.LOCK locks the safety limits until reset. -/
  | limitsLock
  /-- CLOCK_MONITOR_WINDOW (R204): A 1024-cycle frequency window ends and a clock failing twice is reported. -/
  | clockMonitorWindow (clk : Nat) (count : Nat)
  /-- PWM_ACTIVITY_TIMEOUT (R205): No PWM activity word for 3 SAFE cycles enters the device-level safe state. -/
  | pwmActivityTimeout
  /-- MEDIA_PLL_UNLOCK (R197): The media PLL lock detector reports loss of lock to Tin Soldier. -/
  | mediaPllUnlock
  /-- DIE_TEMP_MEASURE (R206): Every 1 ms the die temperature is measured, published and compared with the limits. -/
  | dieTempMeasure (t : Int)
  /-- DEBUG_HALT (R207): A debug halt of the device or a data-path processor turns outputs off and enters the safe state. -/
  | debugHalt (proc : Proc)
  /-- LOCKSTEP_MISMATCH (R197): The two Tin Soldier cores disagree and the device enters the safe state. -/
  | lockstepMismatch
  /-- CONVERSION_END (R215): A slice finishes a conversion and its result becomes usable or a retry starts. -/
  | conversionEnd (slice : Slice) (raw : Word16) (err : Bool)
  /-- RETRY_END (R222): A retry finishes with a result or a second redundancy error. -/
  | retryEnd (slice : Slice) (raw : Word16) (err : Bool)
  /-- DECIMATOR_OUTPUT (R220): The decimator produces a 192 kHz voltage and current value for GD4. -/
  | decimatorOutput
  /-- STARTUP_CAL_DONE (R225): The start-up calibration of every slice completes and slices are assigned. -/
  | startupCalDone (outcomes : List CalOutcome)
  /-- ROTATION_STEP_START (R227): At block indices multiple of 2820 a spare starts overlapping the oldest-calibrated slice. -/
  | rotationStepStart
  /-- ROTATION_OVERLAP_END (R227): After 256 triggers or updates the spare serves and the outgoing slice starts calibration. -/
  | rotationOverlapEnd
  /-- SLICE_CAL_DONE (R226): A slice calibration completes, latching its result and readying or retiring the slice. -/
  | sliceCalDone (outcome : CalOutcome)
  /-- RAIL_CONVERSION (R238): A rail converter produces a code and the averaged code and RFF are updated. -/
  | railConversion (n : Fin 4) (code : BitVec 12)
  /-- CAL_RESULT_READ (R243): A read of SNS_CALR0 latches SNS_CALR1 with it. -/
  | calResultRead
  /-- NOP (R255): The NOP instruction does nothing for one cycle. -/
  | nop (lane : Lane)
  /-- MAC (R255): The MAC instruction multiplies, accumulates and optionally stores ACC. -/
  | mac (lane : Lane)
  /-- MACD (R251): The MACD instruction forms a saturated difference, stores it and accumulates its product. -/
  | macd (lane : Lane)
  /-- INTG (R258): The INTG instruction integrates into a wide register unless frozen by its rule. -/
  | intg (lane : Lane)
  /-- WAIT (R261): The WAIT instruction waits for the sense results of the update. -/
  | wait (lane : Lane)
  /-- WAIT_COMPLETE (R261): The awaited results become usable and WAIT completes with VM and IM of this update. -/
  | waitComplete (lane : Lane)
  /-- OUT (R262): The OUT instruction clamps ACC to MLIM, sets SATI and passes m to the noise shapers. -/
  | out (lane : Lane)
  /-- SKIPO (R265): The SKIPO instruction skips instructions outside outer updates. -/
  | skipo (lane : Lane)
  /-- END (R255): The END instruction ends the lane's program for the update. -/
  | endProgram (lane : Lane)
  /-- LANE_OVERRUN (R266): A lane misses WDL, OUT_CYC or the update end and abandons the update, restoring state. -/
  | laneOverrun (lane : Lane)
  /-- LANE_SWAPNOW (R272): LPE_CTRL.SWAPNOW exchanges a stopped channel's lane banks at the next block boundary or is refused. -/
  | laneSwapnow (c : Chan)
  /-- COEF_WRITE (R274): A write of LPE_CWR queues a live coefficient write or is dropped or refused. -/
  | coefWrite (c : Chan) (val : Word)
  /-- LANE_NEXT_WRITE (R268): A write through an LPE_PDATA alias stores a NEXT-bank word and advances OFFS. -/
  | laneNextWrite (c : Chan) (val : Word)
  /-- LANE_NEXT_READ (R268): A whole read through an LPE_PDATA alias returns a NEXT-bank word and advances OFFS. -/
  | laneNextRead (c : Chan)
  /-- LANE_LIVE_READ (R268): A whole read through an LPE_LDATA alias returns a LIVE-bank word and advances LOFFS. -/
  | laneLiveRead (c : Chan)
  /-- SHADOW_SLOT_OPEN (R297): At each whole second a shadow slot opens and the spare copies a lane or self-tests. -/
  | shadowSlotOpen
  /-- SELF_TEST_DONE (R301): A lane self-test of 4096 updates ends and the lane passes or is retired. -/
  | selfTestDone (lane : Lane) (pass : Bool)
  /-- CONFIRM_SHADOW_END (R302): The 12,000-block confirmation shadow ends and the schedule resumes. -/
  | confirmShadowEnd
  /-- LANE_UE (R303): An uncorrectable error in a serving lane acts as a mismatch with immediate swap. -/
  | laneUe (lane : Lane)
  /-- FORCED_SWAP (R304): LANE_SHD.FSWAP moves channel FCH to the spare at the next block boundary or is refused. -/
  | forcedSwap
  /-- TRACE_ARM (R308): TRC_CTRL.ARM resets the buffer indices and enters ARMED. -/
  | traceArm (b : Buf)
  /-- TRACE_FORCE (R309): TRC_CTRL.FORCE triggers the buffer. -/
  | traceForce (b : Buf)
  /-- TRACE_STOP (R310): TRC_CTRL.STOP enters DONE at once. -/
  | traceStop (b : Buf)
  /-- TRACE_READ (R312): A whole read of TRC_RDATA returns an entry word and advances WORD and ENTRY. -/
  | traceRead
  /-- CLR_PK (R296): LPE_OCTL.CLR_PK sets FE_PK to 0. -/
  | clrPk (c : Chan)
  /-- CLR_MIN (R288): LPE_OCTL.CLR_MIN sets the minimum slack to 0xFF. -/
  | clrMin (c : Chan)
  /-- INJECTION_TOGGLE (R313): After 16 × HALF updates the square injection changes sign. -/
  | injectionToggle (c : Chan)
  /-- VENT_UNIT_COMPLETE (R317): A Ventriloquist work unit delivers its gain values through GD2. -/
  | ventUnitComplete (core : Fin 2) (cycles : Nat)
  /-- CONE_STEP (R325): Each cone instance advances one 192 kHz period. -/
  | coneStep (c : Chan)
  /-- RE_ESTIMATE (R330): Every 1200 blocks a resistance estimate is formed and corrects the thermal model. -/
  | reEstimate (c : Chan)
  /-- ID_PUBLISH (R334): Every 12,000 blocks the scale fit publishes a result set with a reason code. -/
  | idPublish (c : Chan)
  /-- VENT_CORE_UE (R346): An uncorrectable error stops a Ventriloquist core until the next block boundary or reset. -/
  | ventCoreUe (core : Fin 2)
  /-- SPK_NEXT_WRITE (R321): A write through an SPK_PDATA alias stores a NEXT parameter word and advances OFFS. -/
  | spkNextWrite (c : Chan) (val : Word)
  /-- SPK_NEXT_READ (R321): A whole read through an SPK_PDATA alias returns a NEXT word and advances OFFS. -/
  | spkNextRead (c : Chan)
  /-- SPK_LIVE_READ (R321): A whole read through an SPK_LDATA alias returns a LIVE word and advances LOFFS. -/
  | spkLiveRead (c : Chan)
  /-- CLR_LOAD (R339): VENT_CTRL.CLR_LOAD sets LOAD0 and LOAD1 to 0. -/
  | clrLoad
  /-- TEMP_RESULT_READ (R349): A read of SPK_TRES0 latches SPK_TRES1 with it. -/
  | tempResultRead (c : Chan)
  /-- ID_RESULT_READ (R349): A read of SPK_IDR0 latches SPK_IDR1 to SPK_IDR5 with it. -/
  | idResultRead (c : Chan)
  /-- LOAD_WINDOW_END (R358): Every 12 blocks a diagnosis window ends and its quantities and class are formed. -/
  | loadWindowEnd (c : Chan)
  /-- SWEEP_START (R363): DIA_SWCTRL.START begins an impedance sweep at the next block boundary or is refused. -/
  | sweepStart (c : Chan)
  /-- SWEEP_ABORT (R367): DIA_SWCTRL.ABORT abandons a running sweep with REASON 4. -/
  | sweepAbort (c : Chan)
  /-- SWEEP_PHASE_END (R366): A sweep ramp, settling time or point measurement ends and the sweep advances. -/
  | sweepPhaseEnd (c : Chan)
  /-- DIA_RESULT_READ (R370): A read of DIA_PRES0, DIA_LRES0 or DIA_SWSUM0 latches its companion registers. -/
  | diaResultRead (path : Path) (c : Chan) (which : Fin 3)
  /-- SWEEP_DATA_READ (R374): A whole read through a DIA_SWDATA alias returns a point word and advances WPTR. -/
  | sweepDataRead (c : Chan)
  /-- HB_IN_EDGE (R380): An edge on HB_IN is received and counts toward heartbeat presence. -/
  | hbInEdge (gapUs : Nat)
  /-- HB_TIMEOUT (R380): No HB_IN edge for HB_TMO marks the heartbeat line lost. -/
  | hbTimeout
  /-- MSG_TIMEOUT (R381): MSG_TMO blocks without a valid message mark messages lost. -/
  | msgTimeout
  /-- MARK_RX (R394): A MARK frame arrives and the receiver aligns or steers its counter and reference. -/
  | markRx (rx : LinkRx) (err : Int)
  /-- HBM_RX (R388): A heartbeat message frame is received and the partner's status recorded. -/
  | hbmRx (rx : LinkRx) (word : Quad)
  /-- SNAP_RX (R396): A SNAP frame is received whole or discarded. -/
  | snapRx (rx : LinkRx) (snap : Snap) (late : Bool)
  /-- RSYNC_RX (R407): An RSYNC frame writes its region into the standby, ending with END. -/
  | rsyncRx (rx : LinkRx) (data : Resync)
  /-- RSREQ_RX (R407): An owner receiving RSREQ starts a resynchronization and suspends SNAP. -/
  | rsreqRx (rx : LinkRx)
  /-- IDENT_RX (R390): An IDENT frame is received and the pairing decision is made. -/
  | identRx (rx : LinkRx) (ident : Ident)
  /-- REFUSE_RX (R391): A REFUSE frame reports a refused pairing. -/
  | refuseRx (rx : LinkRx)
  /-- IDENT_REPEAT (R391): After a refusal IDENT is sent again every 1 s. -/
  | identRepeat
  /-- TWIN_LANE_FAIL (R387): A Twin Link lane fails and the link degrades or goes down. -/
  | twinLaneFail (n : Fin 2) (codes : Nat)
  /-- LINK_RETRAIN (R387): Every 10 ms a down link retrains. -/
  | linkRetrain
  /-- RETRAIN (R389): TWN_CTRL.RETRAIN retrains the link now. -/
  | retrain
  /-- MARKER_TIMEOUT (R395): 8 blocks without a marker freeze the marker loop and return control to the PTP servo. -/
  | markerTimeout
  /-- CFG_DIGEST (R393): Every 1200 blocks CFG_DIG is computed and compared with the partner's. -/
  | cfgDigest
  /-- OWN_N_HIGH (R401): An eligible unit accepts OWN_N high and starts its claim wait. -/
  | ownNHigh
  /-- CLAIM_CHECK (R401): At the end of CLAIM_DLY the unit checks OWN_N and pulls it low. -/
  | claimCheck (high : Bool)
  /-- HANDOVER (R404): TWN_CTRL.HANDOVER hands ownership to a ready partner at the next block boundary or is refused. -/
  | handover
  /-- RESYNC_REQUEST (R409): TWN_CTRL.RESYNC on a standby repeats the resynchronization or is refused. -/
  | resyncRequest
  /-- SETTLE_END (R409): SETTLE ends after its blocks and PSTATE becomes PAIRED. -/
  | settleEnd
  /-- RING_FRAME_START (R418): The ring master sends a RUN or ENUM frame starting at B + 2 µs. -/
  | ringFrameStart
  /-- RING_FRAME_RX (R421): A node receives a ring frame, writes its slot, applies a command and forwards it. -/
  | ringFrameRx (frame : RingFrame)
  /-- RING_FRAME_RETURN (R435): The frame returns to the master, which stores slots and completes or fails the command. -/
  | ringFrameReturn (frame : RingFrame) (up : Bool)
  /-- RING_LOST_TIMEOUT (R423): No valid frame for 4 blocks puts the node in RING_LOST. -/
  | ringLostTimeout
  /-- STR_PORT_FAIL (R417): A Strings port loses alignment, shows code violations or misses SOFs and fails. -/
  | strPortFail (up : Bool) (codes : Nat) (lost : Bool)
  /-- STR_PORT_GOOD (R417): A port counts as good again after 12,000 blocks without failure. -/
  | strPortGood (up : Bool)
  /-- ADDRESS_TIMEOUT (R424): An address is freed after 24,000 blocks at the master or dropped after 12,000 at a node. -/
  | addressTimeout (n : Fin 32)
  /-- STR_REGW (R432): The REGW command performs up to four register writes at the node. -/
  | strRegw (cseq : Word16) (payload : List Byte)
  /-- STR_RINGW (R478): The RINGW command pushes an entry into a CMD ring, or waits if full. -/
  | strRingw (cseq : Word16) (payload : List Byte)
  /-- STR_COMMIT (R432): The COMMIT command writes the scene registers and arms the commit. -/
  | strCommit (cseq : Word16) (payload : List Byte)
  /-- STR_ABORT (R432): The ABORT command sets SCN_ARM.ABORT at the node. -/
  | strAbort (cseq : Word16)
  /-- UNFOLD (R430): The UNFOLD command schedules folding nodes to forward straight at AT. -/
  | unfold (cseq : Word16) (payload : List Byte)
  /-- ASSIGN (R427): The ASSIGN command sets the pair numbers of sixteen addresses. -/
  | assign (cseq : Word16) (payload : List Byte)
  /-- CMD_QUEUE_GO (R439): MGR_CQCTRL.GO queues a command, computing AT from time if set, or is refused when full. -/
  | cmdQueueGo (val : Word)
  /-- NODE_SLOT_READ (R439): A read of the first word of a MGR_NODE slot latches the other 15 words. -/
  | nodeSlotRead (n : Fin 32)
  /-- CMD_RESULT_READ (R439): A read of MGR_CQRES0 latches MGR_CQRES1 and MGR_CQRES2. -/
  | cmdResultRead
  /-- HOST_START (R453): A START condition begins a host bus transaction. -/
  | hostStart
  /-- HOST_ADDRESS (R440): An address byte is taken and acknowledged or refused. -/
  | hostAddress (byte : Byte) (err : BitVec 145)
  /-- HOST_BYTE_WRITE (R449): A pointer or data byte of a write is taken and fills a register lane. -/
  | hostByteWrite (byte : Byte)
  /-- HOST_BYTE_READ (R453): A byte is sent to the host and the pointer advances, fetching the next register. -/
  | hostByteRead (ack : Bool) (err : BitVec 145)
  /-- HOST_STOP (R464): A STOP ends the transaction and starts the commit of the formed accesses. -/
  | hostStop (midByte : Bool)
  /-- HOST_REPEATED_START (R458): A repeated START ends a transaction, committing a write, and begins a new one. -/
  | hostRepeatedStart (midByte : Bool)
  /-- COMMIT_END (R451): The last access of a commit is granted and the device answers addresses again. -/
  | commitEnd
  /-- SCL_TIMEOUT (R467): SCL low for 25 ms sets SCL_TMO and abandons the transaction where active. -/
  | sclTimeout
  /-- SDA_TIMEOUT (R467): SDA low for 25 ms with SCL high sets SDA_TMO and abandons the transaction where active. -/
  | sdaTimeout
  /-- IBR_START (R462): After 10 µs of idle with a pending source the device pulls SDA low for an in-band request. -/
  | ibrStart
  /-- IBR_END (R462): After 2.0 µs the device releases SDA, completing the in-band request. -/
  | ibrEnd
  /-- REQ_COLLIDE (R463): SCL falling during a request releases SDA and receives the controller's transaction. -/
  | reqCollide
  /-- RING_STAGE_WRITE (R488): A write of RNG_WDATA words 0 to 2 fills the staging entry. -/
  | ringStageWrite (path : Path) (r : Ring) (w : Fin 3) (val : Word)
  /-- RING_PUSH (R488): A write of RNG_WDATA word 3 pushes the staging entry with a new SEQ. -/
  | ringPush (path : Path) (r : Ring) (val : Word)
  /-- RING_FETCH (R488): A read of RNG_RDATA word 0 fetches the entry at RIDX into the read latch. -/
  | ringFetch (path : Path) (r : Ring)
  /-- RING_CONSUME (R488): Sending all of word 3 of RNG_RDATA advances RIDX. -/
  | ringConsume (path : Path) (r : Ring)
  /-- RING_CONFIG (R476): A write of RNG_CFG changes a ring's setup, empties it on disable, or is refused. -/
  | ringConfig (r : Ring) (val : Word)
  /-- REGW (R480): A REGW ring entry performs one register write of its channel at the boundary. -/
  | regw (c : Chan)
  /-- REGW2 (R480): A REGW2 ring entry performs two register writes at the boundary. -/
  | regw2 (c : Chan)
  /-- FENCE (R480): A FENCE ring entry places a FENCE entry in the channel's TEL ring. -/
  | fence (c : Chan)
  /-- TEL_ENTRY_PRODUCE (R486): An entry produced for a TEL ring is stored, or dropped and later reported by LOSS. -/
  | telEntryProduce (c : Chan) (type : Byte) (payload : List Word)
  /-- TELEMETRY_COLLECT (R483): Every 12 blocks Wind-up produces the LOOP entries of all channels. -/
  | telemetryCollect
  /-- FABRIC_GRANT (R494): A target port grants a master's transaction by class. -/
  | fabricGrant (port : Fin 15) (reqs : List FabReq)
  /-- FABRIC_RESPONSE (R493): A target completes the response to a fabric transaction. -/
  | fabricResponse (master : Fin 9) (data : List Quad) (errs : List (BitVec 145))
  /-- FABRIC_TIMEOUT (R495): No response within 120 cycles gives an error response and marks the port DOWN. -/
  | fabricTimeout (port : Fin 15)
  /-- PORT_PROBE (R495): Every 25.6 µs an empty handshake through a DOWN port marks it up when it completes. -/
  | portProbe (answered : List (Fin 15))
  /-- MASTER_RESET (R498): A master reset mid-burst completes the burst without strobes or discards read beats. -/
  | masterReset (m : Fin 9) (beats : Nat)
  /-- FAB_ELOG_READ (R492): A read of FAB_ELOG0 latches FAB_ELOG1 with it. -/
  | fabElogRead
  /-- CE_WRITEBACK (R509): A corrected word is written back in the next idle bank cycle unless a newer write cancels it. -/
  | ceWriteback (bank : Nat) (word : Nat)
  /-- SCRUB_STEP (R513): Every 64 blocks each bank and small array scrubs its next row or repairs a candidate. -/
  | scrubStep (struck : List (Nat × Nat × BitVec 145))
  /-- REPAIR_COPY (R515): A repair copies a row word by word in idle cycles and then maps the spare row. -/
  | repairCopy (bank : Nat)
  /-- LOG_STATE_RECORD (R526): Every 720,000 blocks a STATE record is written to the log. -/
  | logStateRecord
  /-- LOG_EVENT_RECORDS (R526): Every 12,000 blocks queued REPAIR and RETIRE records are written. -/
  | logEventRecords
  /-- LOG_FLUSH (R526): BKG_CTRL.FLUSH requests a STATE record at the next block boundary. -/
  | logFlush
  /-- FLASH_OP_DONE (R525): A flash program or erase completes as polling shows it ended. -/
  | flashOpDone (ok : Bool)
  /-- MEM_ELOG_READ (R529): A read of MEM_ELOG0 latches MEM_ELOG1 with it. -/
  | memElogRead
  /-- BKG_LOG_READ (R529): A read of BKG_LOG0 captures BKG_LOG0 to BKG_LOG2 together. -/
  | bkgLogRead
  /-- ERROR_INJECT_ARM (R575): MEM_INJ.ARM makes the next write to the chosen bank store inverted data bits. -/
  | errorInjectArm (val : Word)
  /-- QSPI_PROGRAM (R544): QSPI_CTRL.GO with OP program writes a 256-byte page or is refused. -/
  | qspiProgram
  /-- QSPI_ERASE (R544): QSPI_CTRL.GO with OP erase erases a 4 KB sector or is refused. -/
  | qspiErase
  /-- QSPI_READ_STATUS (R544): QSPI_CTRL.GO with OP read status reads status register 1 into QSPI_STAT. -/
  | qspiReadStatus (sr1 : Byte)
  /-- QSPI_BUFFER_WRITE (R549): A write through a QSPI_BDATA alias stores a buffer word and advances WPTR. -/
  | qspiBufferWrite (val : Word)
  /-- QSPI_BUFFER_READ (R549): A whole read through a QSPI_BDATA alias returns a buffer word and advances WPTR. -/
  | qspiBufferRead
  /-- POWER_UP (R550): Supplies come up and hold the device in reset until all detectors agree. -/
  | powerUp
  /-- SUPPLY_FALL (R553): A supply detector falls, gate outputs go low and the device resets. -/
  | supplyFall
  /-- RESET_PIN (R550): RESET_N held low for at least 1 µs resets the device. -/
  | resetPin (accepted : Bool)
  /-- SOFT_RESET (R550): A write of SYS_CTRL with RST_KEY 0xA5 and SWRST resets the device. -/
  | softReset
  /-- DEBUG_RESET (R550): A system reset request through the debug access port resets the device. -/
  | debugReset
  /-- MGMT_WATCHDOG_RESET (R498): The watchdog resets the management core alone. -/
  | mgmtWatchdogReset
  /-- RESET_RELEASE (R551): The internal reset ends, straps are sampled and the wipe starts. -/
  | resetRelease (straps : Straps)
  /-- WIPE_COMPLETE (R510): The wipe and its read-back complete and the scan starts. -/
  | wipeComplete (us : Nat) (bad : List (Nat × Nat))
  /-- SCAN_COMPLETE (R527): The JEDEC ID, log scan and repair map complete and loading or RECOVERY begins. -/
  | scanComplete (id : BitVec 24) (sectors : List (List Byte)) (slotA slotB : List Byte)
  /-- CANDIDATE_LOAD_END (R539): Loading a candidate ends, applying staged sections and starting processors or falling back. -/
  | candidateLoadEnd (bytes : List Byte)
  /-- FW_TIMEOUT (R558): RUN not entered 1 s after processor start counts FW_TMO and forces readiness. -/
  | fwTimeout
  /-- REL_START (R563): CH_MUTE.REL_START ends the START cause at the next block boundary. -/
  | relStart (c : Chan)
  /-- LIFECYCLE_REQUEST (R573): SYS_LCREQ.GO writes the LIFECYCLE record and blows fuses, or is refused. -/
  | lifecycleRequest (path : Path) (val : Word)
  /-- FUSE_BLOW_DONE (R573): The fuse bits are blown and the device resets with cause LCYCLE. -/
  | fuseBlowDone (ok : Bool)
  /-- CREDENTIAL_PRESENT (R572): A credential written through the debug port sets CRED_OK or counts a mismatch. -/
  | credentialPresent (bytes : List Byte)
  /-- FUSE_PROGRAM (R574): A key slot or credential is programmed or revoked through the debug port. -/
  | fuseProgram (what : FuseWrite)
  /-- DEBUG_RELEASE (R561): The debug access port releases processors held in DBGWAIT. -/
  | debugRelease
  /-- BOUNDARY_SCAN_LOAD (R575): Loading EXTEST or INTEST halts the device and hands the balls to the boundary register. -/
  | boundaryScanLoad
  /-- MEDIA_PLL_LOCK (R584): The media PLL locks and the period and block counters start. -/
  | mediaPllLock
  /-- PLL_LOCK (R585): The network or system PLL locks. -/
  | pllLock (which : Pll)
  /-- PLL_UNLOCK (R585): The network, system or Twin Link PLL loses lock and sets its flag. -/
  | pllUnlock (which : Pll)
  /-- TWIN_PLL_LOCK (R587): The Twin Link PLL locks after PAIR_EN is set and training starts. -/
  | twinPllLock
  /-- SAFE_WATCHDOG_TRIP (R586): Two bad SAFE clock counts assert the override, release OWN_N and drive FAULT_N low. -/
  | safeWatchdogTrip
  /-- CLOCK_MEASURE (R598): Every 10 ms the selected clock is measured against the crystal and published. -/
  | clockMeasure (count : Nat)
  /-- REF_SLEW_STEP (R583): The reference correction c moves one step toward its target within the slew limit. -/
  | refSlewStep
  /-- OWN_N_LOW (R401): The OWN_N line is pulled low by the partner during a unit's claim wait, so the claim is abandoned and restarts at step 1. -/
  | ownNLow
  /-- HANDOVER_HOLDOFF_END (R404): 100 µs after releasing OWN_N on a handover, the former owner becomes eligible to claim again. -/
  | handoverHoldoffEnd
  /-- FORWARDING_START (R416): 100 µs after the release of RESET_N, a node's Strings transmitters turn on and it starts forwarding characters. -/
  | forwardingStart
  deriving DecidableEq, Repr

end Sys2Proof
end

