-- ==== Sys2Proof/Decode.lean ====
section
/-! DEFINITION. Decode.lean: the commands that a word spells by the bits of spec/opcode_table.json. The table gives no row any bits. -/

set_option Elab.async false

namespace Sys2Proof

/-- The command that a word of n bits spells: none, since no row of the table has bits (log entry 1). -/
def decodeTableWord (_ _ : Nat) : Option Instr := none

end Sys2Proof
end

