-- ==== Sys2Proof/Machine/Codes.lean ====
section
/-! DEFINITION. Codes.lean: the block code of stored words (R505 to R507), CRC-16 and CRC-32 (R383, R521), and SHA-256 (R533, as FIPS
180-4 defines it; PRESUMED, log entry 41). -/

set_option Elab.async false

namespace Sys2Proof.Machine

/-! ### The code of a stored word (R505, R506) -/

/-- The product of two polynomials over GF(2), the second of n bits. -/
def gfMul (a b n : Nat) : Nat := (List.range n).foldl (fun r i => if b.testBit i then r ^^^ (a * 2 ^ i) else r) 0

/-- m1(x) = x^8 + x^4 + x^3 + x^2 + 1. -/
def bchM1 : Nat := 0x11D
/-- The minimal polynomial of α^3: x^8 + x^6 + x^5 + x^4 + x^2 + x + 1. -/
def bchM3 : Nat := 0x177
/-- g(x) = m1(x) m3(x). -/
def bchG : Nat := gfMul bchM1 bchM3 9

/-- One step of a division by g(x): the remainder r, of degree below 16, times x plus a bit. -/
def bchShift (r : Nat) (b : Bool) : Nat :=
  let s := 2 * r + if b then 1 else 0
  if s.testBit 16 then s ^^^ bchG else s

/-- The remainder of the polynomial with the low n bits of a number, most significant first. -/
def bchRem (v : Nat) : Nat → Nat → Nat
  | 0, r => r
  | n + 1, r => bchRem v n (bchShift r (v.testBit n))

/-- The exclusive OR of the low n bits. -/
def parityOf (v : Nat) : Nat → Bool
  | 0 => false
  | n + 1 => xor (v.testBit n) (parityOf v n)

/-- The 145-bit word of 128 data bits (R505). -/
def encodeWord (d : Quad) : BitVec 145 :=
  let c := bchRem (d.toNat * 2 ^ 16) 144 0
  let w := d.toNat * 2 ^ 16 + c
  BitVec.ofNat 145 (w + if parityOf w 144 then 2 ^ 144 else 0)

/-- The syndrome of W[143:0] and the parity of the word. -/
def syndrome (w : BitVec 145) : Nat × Bool := (bchRem (w.toNat % 2 ^ 144) 144 0, parityOf w.toNat 145)

/-- The syndromes of the single bits of W[143:0], with their positions. -/
def bitSyndromes : Nat → Nat → List (Nat × Nat)
  | 0, _ => []
  | n + 1, s => (143 - n, s) :: bitSyndromes n (bchShift s false)

/-- The bit with a syndrome. -/
def oneBit (tab : List (Nat × Nat)) (s : Nat) : Option Nat := (tab.find? fun e => e.2 == s).map (·.1)

/-- The two bits whose syndromes add up to s. -/
def twoBits (tab : List (Nat × Nat)) (s : Nat) : Option (Nat × Nat) :=
  tab.findSome? fun e => (oneBit tab (s ^^^ e.2)).bind fun j => if e.1 < j then some (e.1, j) else none

/-- The outcome of a check: no error, one or two bits corrected, or uncorrectable. -/
inductive Check where
  | good | ce1 | ce2 | ue
  deriving DecidableEq, Repr

/-- The check of R506: the outcome, and the bits that the correction inverts. -/
def checkWord (w : BitVec 145) : Check × BitVec 145 :=
  let (s, odd) := syndrome w
  let tab := bitSyndromes 144 1
  if s = 0 then (if odd then (.ce1, BitVec.ofNat 145 (2 ^ 144)) else (.good, 0))
  else if odd then
    match oneBit tab s with
    | some i => (.ce1, BitVec.ofNat 145 (2 ^ i))
    | none => (.ue, 0)
  else
    match twoBits tab s with
    | some (i, j) => (.ce2, BitVec.ofNat 145 (2 ^ i + 2 ^ j))
    | none => (.ue, 0)

/-- The poison word (R507). -/
def poison : BitVec 145 := 7

/-! ### CRCs -/

/-- One byte of the CRC of R383: polynomial 0x1021, not reflected. -/
def crc16Byte (c : Nat) (b : Byte) : Nat :=
  (List.range 8).foldl (fun c _ => if c.testBit 15 then ((2 * c) ^^^ 0x1021) % 65536 else (2 * c) % 65536) (c ^^^ (b.toNat * 256))

/-- The CRC-16 of R383. -/
def crc16 (bs : List Byte) : Nat := bs.foldl crc16Byte 0xFFFF

/-- One byte of the IEEE 802.3 CRC, reflected. -/
def crc32Byte (c : Nat) (b : Byte) : Nat :=
  (List.range 8).foldl (fun c _ => if c.testBit 0 then (c / 2) ^^^ 0xEDB88320 else c / 2) (c ^^^ b.toNat)

/-- The CRC-32 of the flash log and of the image: polynomial 0x04C1_1DB7, reflected, initial value and final inversion all ones. -/
def crc32 (bs : List Byte) : Word := ~~~(BitVec.ofNat 32 (bs.foldl crc32Byte 0xFFFFFFFF))

/-- One byte of AES3's CRCC: x^8 + x^4 + x^3 + x^2 + 1 from all ones, least significant bit first (PRESUMED, log entry 65). -/
def aesCrccByte (c : Nat) (b : Byte) : Nat :=
  (List.range 8).foldl (fun c _ => if c.testBit 0 then (c / 2) ^^^ 0xB8 else c / 2) (c ^^^ b.toNat)

/-- The 24 channel-status bytes that the AES3 transmitter sends (R84): professional use, 24-bit words, 96 kHz, all other fields zero, CRCC
in byte 23. The places of the fields are those of AES3 (PRESUMED, log entry 65). -/
def aesTxStatus : List Byte :=
  let bs : List Byte := [0x01#8, 0, 0x2C#8, 0, 0x10#8] ++ List.replicate 18 0
  bs ++ [BitVec.ofNat 8 (bs.foldl aesCrccByte 0xFF)]

/-- Most significant byte first. -/
def beBytes (n v : Nat) : List Byte := (List.range n).map fun i => BitVec.ofNat 8 (v / 256 ^ (n - 1 - i))
/-- The value of bytes, most significant first. -/
def beNat (bs : List Byte) : Nat := bs.foldl (fun a b => a * 256 + b.toNat) 0
/-- n bytes from an offset; bytes past the end read as 0. -/
def bytesAt (bs : List Byte) (o n : Nat) : List Byte :=
  let l := (bs.drop o).take n
  l ++ List.replicate (n - l.length) 0
/-- The value of n bytes at an offset. -/
def beAt (bs : List Byte) (o n : Nat) : Nat := beNat (bytesAt bs o n)

/-! ### SHA-256 -/

/-- The integer cube root of n below 2^k, bit by bit. -/
def icbrtFrom (n : Nat) : Nat → Nat → Nat
  | 0, a => a
  | k + 1, a => icbrtFrom n k (if (a + 2 ^ k) ^ 3 ≤ n then a + 2 ^ k else a)
/-- The integer square root of n below 2^k. -/
def isqrtBits (n : Nat) : Nat → Nat → Nat
  | 0, a => a
  | k + 1, a => isqrtBits n k (if (a + 2 ^ k) ^ 2 ≤ n then a + 2 ^ k else a)

/-- The primes below 312: the first 64. -/
def primes64 : List Nat := ((List.range 312).drop 2).filter fun n => ((List.range 18).drop 2).all fun d => d ≥ n || n % d != 0

/-- The round constants: the first 32 bits of the fractions of the cube roots of the primes. -/
def shaK : List Word := primes64.map fun p => BitVec.ofNat 32 (icbrtFrom (p * 2 ^ 96) 40 0)
/-- The initial hash: the same of the square roots of the first eight. -/
def shaH : List Word := (primes64.take 8).map fun p => BitVec.ofNat 32 (isqrtBits (p * 2 ^ 64) 40 0)

/-- The message schedule, newest first, from the sixteen words of a block newest first. -/
def shaSchedule : Nat → List Word → List Word
  | 0, w => w
  | n + 1, w =>
    let a := w.getD 14 0
    let b := w.getD 1 0
    let s0 := a.rotateRight 7 ^^^ a.rotateRight 18 ^^^ (a >>> 3)
    let s1 := b.rotateRight 17 ^^^ b.rotateRight 19 ^^^ (b >>> 10)
    shaSchedule n ((w.getD 15 0 + s0 + w.getD 6 0 + s1) :: w)

/-- One round on the working variables a to h. -/
def shaRound (v : List Word) (kw : Word) : List Word :=
  match v with
  | [a, b, c, d, e, f, g, h] =>
    let s1 := e.rotateRight 6 ^^^ e.rotateRight 11 ^^^ e.rotateRight 25
    let t1 := h + s1 + ((e &&& f) ^^^ (~~~e &&& g)) + kw
    let s0 := a.rotateRight 2 ^^^ a.rotateRight 13 ^^^ a.rotateRight 22
    let t2 := s0 + ((a &&& b) ^^^ (a &&& c) ^^^ (b &&& c))
    [t1 + t2, a, b, c, d + t1, e, f, g]
  | _ => v

/-- The hash after one block of 64 bytes. -/
def shaBlock (h : List Word) (block : List Byte) : List Word :=
  let w0 := (List.range 16).map fun i => BitVec.ofNat 32 (beAt block (4 * i) 4)
  let w := (shaSchedule 48 w0.reverse).reverse
  List.zipWith (· + ·) h ((List.zipWith (· + ·) shaK w).foldl shaRound h)

/-- The hash after n blocks. -/
def shaBlocks : Nat → List Byte → List Word → List Word
  | 0, _, h => h
  | n + 1, bs, h => shaBlocks n (bs.drop 64) (shaBlock h (bs.take 64))

/-- The 32 bytes of the SHA-256 hash. -/
def sha256 (bs : List Byte) : List Byte :=
  let pad := (119 - bs.length % 64) % 64
  let m := bs ++ [0x80#8] ++ List.replicate pad 0 ++ beBytes 8 (8 * bs.length)
  (shaBlocks (m.length / 64) m shaH).flatMap fun w => beBytes 4 w.toNat

end Sys2Proof.Machine
end

