-- ==== Sys2Proof/Machine/Kv.lean ====
section
/-! DEFINITION. Kv.lean: sparse memories as lists of (key, word) pairs in one canonical form: keys strictly rising, and no
entry equal to what an unlisted key reads as. -/

set_option Elab.async false

namespace Sys2Proof.Machine

/-- The word at key k; `d` says what an unlisted key reads as. -/
def kvGet {w : Nat} (d : Nat → BitVec w) : List (Nat × BitVec w) → Nat → BitVec w
  | [], k => d k
  | e :: m, k => if e.1 = k then e.2 else kvGet d m k

/-- The list without key k. -/
def kvDel {w : Nat} (m : List (Nat × BitVec w)) (k : Nat) : List (Nat × BitVec w) := m.filter fun e => e.1 != k

/-- The list with v at key k, in its place. -/
def kvIns {w : Nat} : List (Nat × BitVec w) → Nat → BitVec w → List (Nat × BitVec w)
  | [], k, v => [(k, v)]
  | e :: m, k, v => if e.1 = k then (k, v) :: m else if k < e.1 then (k, v) :: e :: m else e :: kvIns m k v

/-- Writing the word an unlisted key reads as removes the entry; any other word is listed. -/
def kvPut {w : Nat} (d : Nat → BitVec w) (m : List (Nat × BitVec w)) (k : Nat) (v : BitVec w) :
    List (Nat × BitVec w) :=
  if v = d k then kvDel m k else kvIns m k v

/-- Keys strictly rising. -/
def kvSorted {w : Nat} : List (Nat × BitVec w) → Bool
  | [] => true
  | [_] => true
  | a :: b :: m => decide (a.1 < b.1) && kvSorted (b :: m)

/-- The canonical form: keys strictly rising, no entry equal to the default. -/
def kvWf {w : Nat} (d : Nat → BitVec w) (m : List (Nat × BitVec w)) : Bool :=
  kvSorted m && m.all fun e => decide (e.2 ≠ d e.1)

/-- Is key k listed (for lists whose listing itself carries meaning, as a filled receive position, R73)? -/
def kvHas {w : Nat} (m : List (Nat × BitVec w)) (k : Nat) : Bool := m.any fun e => e.1 = k

end Sys2Proof.Machine
end

