-- ==== Sys2Proof/Config.lean ====
section
/-! DEFINITION. Config.lean: the values the spec leaves open, as constants with no body (nothing can be proved of their values),
and the constants of one device. Each group names the rule that leaves it open; log entries 5 to 12. -/

set_option Elab.async false

namespace Sys2Proof

/-- The state of a filter or sequence that the spec does not describe: only opaque functions read it. -/
abbrev Token := BitVec 64

namespace Config

/-- A fresh free value, applied to the model's own counter State.free (log entry 5). -/
opaque freeWord : Nat → Word

/-- The quotient of a binary32 division by zero, for its dividend (log entry 10). -/
opaque divByZero : Word → Word
/-- The logarithm of a binary32 value that is not above zero (log entry 10). -/
opaque logNonPos : Word → Word

/-- The DC blocker of the image's Music Box code (R643): next state and output from corner, state and input (log entry 6). -/
opaque dcNext : Word → Token → Word → Token
opaque dcOut : Word → Token → Word → Word
/-- The peak limiter (R100, R643): from threshold, attack, release, state and input (log entry 6). -/
opaque peakNext : Word → Word → Word → Token → Word → Token
opaque peakOut : Word → Word → Word → Token → Word → Word
/-- The RMS limiter (R100, R643): from threshold, window, attack, release, state and input (log entry 6). -/
opaque rmsNext : Word → Word → Word → Word → Token → Word → Token
opaque rmsOut : Word → Word → Word → Word → Token → Word → Word
/-- The asynchronous sample rate converter (R89 to R93) without its delay: state after an input frame, state after an output sample, and
the output of a channel (log entry 7). -/
opaque asrcIn : Token → List Word → Token
opaque asrcTick : Token → Token
opaque asrcOut : Token → Nat → Word
/-- The coefficients 0 to 16 of the 2x interpolator of 48 kHz sources, binary32; the others follow by symmetry (R92, log entry 7). -/
opaque interp2Coef : Nat → Word

/-- The channel interpolator's fixed coefficients at multiplier k (R144): the order of its polyphase stage, the coefficients of the first half
of each stage (the others follow by symmetry), and the fractional bits of a product of the two (log entry 8). -/
opaque interpOrder : Nat → Nat
opaque interpCoef1 : Nat → Nat → Int
opaque interpCoef2 : Nat → Nat → Int
opaque interpFrac : Nat → Nat
/-- The 192 kHz decimator of a sense input (R220): state after an update result, state after an output, output (log entry 8). -/
opaque decimIn : Token → Word16 → Token
opaque decimTick : Token → Token
opaque decimOut : Token → Word16
/-- The 96 kHz value of the further decimation that the monitor sources take (R220, log entry 8). -/
opaque decimMonitor : Token → Word16

/-- The scale fit (R333): state after a period from its state and ID_TAU, voltage, current, excursion, velocity, the bank's Bl(x), Kms(x),
Le(x) and Le'(x) at that excursion, and MMS; estimates 0 to 4 (Re, sB, sK, sL, Rms); the largest relative standard deviation is above 2 %
(log entry 9). -/
opaque fitIn : Token → List Word → Token
opaque fitOut : Token → Nat → Word
opaque fitSpread : Token → Bool
/-- The 2.0 kHz high-pass of the diagnosis (R358): next state and output (log entry 9). -/
opaque hpNext : Token → Word → Token
opaque hpOut : Token → Word → Word
/-- The place of a ring's entry in the ring banks 40 to 42, which the spec does not give (R473, log entry 44). -/
opaque ringPlace : Nat → Nat → Nat
/-- Word n of a snapshot record, within the ranges of words that R397 gives the groups; the places of a group's elements in them are not
given (log entry 40). -/
opaque snapWord : Snap → Nat → Quad
/-- Word n of the scale fit's state in a resynchronization (R407, log entry 40). -/
opaque fitWord : Token → Nat → Word
/-- The difference correction of R398 on a state that the spec does not describe: the unit's own state, the owner's and the unit's at the
boundary before (log entry 40). -/
opaque tokenDiff : Token → Token → Token → Token
/-- The Ed25519 check of a signature under RFC 8032: public key, message, signature (R540, log entry 41). -/
opaque ed25519 : List Byte → List Byte → List Byte → Bool

/-- What the boundary register drives on a gate ball while EXTEST or INTEST is loaded (R199, R575), for the counter of free values and the
ball (log entry 86). -/
opaque boundaryCell : Nat → Nat → Bool

end Config

end Sys2Proof
end

