-- ==== Sys2Proof/Machine/Num.lean ====
section
/-! DEFINITION. Num.lean: exact arithmetic on Int and its narrowing (R5: half to even; R6: saturation), and binary32. -/

set_option Elab.async false

namespace Sys2Proof.Machine

/-- n / d to the nearest integer, half to even (R5). -/
def rneDiv (n : Int) (d : Nat) : Int :=
  let q := n / (d : Int)
  let r2 := 2 * (n - q * (d : Int))
  if r2 < d then q else if (d : Int) < r2 then q + 1 else if q % 2 = 0 then q else q + 1

/-- The nearest value of the range lo..hi (R6). -/
def clampI (lo hi x : Int) : Int := if x < lo then lo else if hi < x then hi else x

/-- Saturation to a two's complement format of w bits (R6). -/
def satS (w : Nat) (x : Int) : Int := clampI (-(2 ^ (w - 1))) (2 ^ (w - 1) - 1) x

/-- Saturation to an unsigned format of w bits (R6). -/
def satU (w : Nat) (x : Int) : Nat := (clampI 0 (2 ^ w - 1) x).toNat

/-- Removes n fractional bits of a fixed-point value with half-to-even rounding (R5). -/
def rneShift (x : Int) (n : Nat) : Int := rneDiv x (2 ^ n)

/-- The two's complement value of the low w bits of a natural number. -/
def signed (w n : Nat) : Int :=
  let m := n % 2 ^ w
  if m < 2 ^ (w - 1) then (m : Int) else (m : Int) - 2 ^ w

/-- The w-bit two's complement pattern of an integer. -/
def pattern (w : Nat) (x : Int) : Nat := (x % (2 ^ w : Int)).toNat

/-- Bits hi..lo of a natural number. -/
def bitsN (n hi lo : Nat) : Nat := n / 2 ^ lo % 2 ^ (hi + 1 - lo)

/-- Bit b of a natural number. -/
def bitN (n b : Nat) : Bool := n / 2 ^ b % 2 = 1

/-- The integer square root, found bit by bit from bit k down. -/
def isqrtFrom (n : Nat) : Nat → Nat → Nat
  | 0, acc => acc
  | k + 1, acc => isqrtFrom n k (if (acc + 2 ^ k) * (acc + 2 ^ k) ≤ n then acc + 2 ^ k else acc)

/-- The integer square root. -/
def isqrt (n : Nat) : Nat := isqrtFrom n (Nat.log2 n / 2 + 1) 0

/-- The largest finite binary32 magnitude. -/
def f32Max : Nat := 0x7F7FFFFF

/-- The binary32 magnitude bits nearest to n / d, half to even, saturated to the largest finite value (R5, R6). -/
def f32Mag (n d : Nat) : Nat :=
  if n = 0 ∨ d = 0 then 0
  else
    -- the exponent e with 2^e ≤ n/d < 2^(e+1)
    let e0 : Int := (Nat.log2 n : Int) - (Nat.log2 d : Int)
    let ge : Bool := if 0 ≤ e0 then d * 2 ^ e0.toNat ≤ n else d ≤ n * 2 ^ (-e0).toNat
    let e : Int := if ge then e0 else e0 - 1
    let s : Int := if e < -126 then -149 else e - 23
    let m : Nat := (if 0 ≤ s then rneDiv (n : Int) (d * 2 ^ s.toNat) else rneDiv ((n * 2 ^ (-s).toNat : Nat) : Int) d).toNat
    let bits : Int := if e < -126 then (m : Int) else (m : Int) + (s + 149) * 2 ^ 23
    min bits.toNat f32Max

/-- The binary32 word nearest to the rational n / d (R5). An exact zero is +0.0, whatever the signs it came from, which no rule states
(DESIGN CHOICE, log entry 79). -/
def f32OfRat (n : Int) (d : Nat) : BitVec 32 :=
  BitVec.ofNat 32 (f32Mag n.natAbs d + if n < 0 then 2 ^ 31 else 0)

/-- The binary32 word nearest to m * 2^e. -/
def f32OfDyadic (m e : Int) : BitVec 32 :=
  if 0 ≤ e then f32OfRat (m * 2 ^ e.toNat) 1 else f32OfRat m (2 ^ (-e).toNat)

/-- The significand and exponent (m, e) of a finite binary32 word: its value is m * 2^e. -/
def f32Parts (x : BitVec 32) : Int × Int :=
  let n := x.toNat
  let ex : Nat := n / 2 ^ 23 % 256
  let fr : Nat := n % 2 ^ 23
  let m : Nat := if ex = 0 then fr else fr + 2 ^ 23
  let e : Int := if ex = 0 then -149 else (ex : Int) - 150
  (if n < 2 ^ 31 then (m : Int) else -(m : Int), e)

/-- The value of a finite binary32 word as a multiple of 2^-149. -/
def f32Units (x : BitVec 32) : Int :=
  let p := f32Parts x
  p.1 * 2 ^ (p.2 + 149).toNat

/-- True for NaN and the infinities. -/
def f32Special (x : BitVec 32) : Bool := x.toNat / 2 ^ 23 % 256 = 255
/-- True for a subnormal of either sign and for both zeros. -/
def f32Tiny (x : BitVec 32) : Bool := x.toNat / 2 ^ 23 % 256 = 0

/-- +0.0 -/
def f32Zero : BitVec 32 := 0
/-- 1.0 -/
def f32One : BitVec 32 := 0x3F800000#32

/-- Fused multiply-add a*b + c with one rounding (R5, R6, R95). -/
def f32Fma (a b c : BitVec 32) : BitVec 32 :=
  let p := f32Parts a
  let q := f32Parts b
  f32OfRat (p.1 * q.1 * 2 ^ (p.2 + q.2 + 298).toNat + f32Units c * 2 ^ 149) (2 ^ 298)

/-- The binary32 product. -/
def f32Mul (a b : BitVec 32) : BitVec 32 :=
  let p := f32Parts a
  let q := f32Parts b
  f32OfDyadic (p.1 * q.1) (p.2 + q.2)

/-- The binary32 sum. -/
def f32Add (a b : BitVec 32) : BitVec 32 := f32OfRat (f32Units a + f32Units b) (2 ^ 149)
/-- The binary32 difference. -/
def f32Sub (a b : BitVec 32) : BitVec 32 := f32OfRat (f32Units a - f32Units b) (2 ^ 149)
/-- The sign change of a binary32 word. -/
def f32Neg (a : BitVec 32) : BitVec 32 := a ^^^ 0x80000000#32
/-- The magnitude of a binary32 word. -/
def f32Abs (a : BitVec 32) : BitVec 32 := a &&& 0x7FFFFFFF#32

/-- The binary32 quotient; the spec states no result for a zero divisor, which is a free value of the dividend (log entry 10). -/
def f32Div (a b : BitVec 32) : BitVec 32 :=
  let n := f32Units a
  let d := f32Units b
  if d = 0 then Config.divByZero a else f32OfRat (if d < 0 then -n else n) d.natAbs

/-- The binary32 square root of a value not below zero (zero for a negative one). -/
def f32Sqrt (a : BitVec 32) : BitVec 32 :=
  let n := (f32Units a).toNat
  -- n * 2^-149 = (n * 2^151) * 2^-300
  let big := n * 2 ^ 151
  let r := isqrt big
  f32OfRat (2 * (r : Int) + if r * r = big then 0 else 1) (2 ^ 151)

/-- a < b as numbers. -/
def f32Lt (a b : BitVec 32) : Bool := f32Units a < f32Units b
/-- a ≤ b as numbers. -/
def f32Le (a b : BitVec 32) : Bool := f32Units a ≤ f32Units b

/-- The integer nearest to a binary32 word times 2^k, half to even. -/
def f32ToFixed (a : BitVec 32) (k : Nat) : Int := rneDiv (f32Units a * 2 ^ k) (2 ^ 149)

/-- The larger of two binary32 words. -/
def f32MaxOf (a b : BitVec 32) : BitVec 32 := if f32Lt a b then b else a
/-- The smaller of two binary32 words. -/
def f32MinOf (a b : BitVec 32) : BitVec 32 := if f32Lt b a then b else a

end Sys2Proof.Machine
end

