-- ==== Sys2Proof/Machine/Math.lean ====
section
/-! DEFINITION. Math.lean: exponentials, logarithms, powers and circular functions rounded once to binary32 (R5), by power series
in fixed point with 128 or 96 fractional bits. -/

set_option Elab.async false

namespace Sys2Proof.Machine

/-- sin or cos of x / 2^96 as a fixed-point value with 96 fractional bits, by its power series: each term is the one before times
-x² / (k (k + 1)). -/
def seriesFrom (x2 : Int) : Nat → Int → Nat → Int → Int
  | 0, _, _, acc => acc
  | n + 1, term, k, acc =>
    let t := -(term * x2 / 2 ^ 96) / ((k : Int) * (k + 1))
    seriesFrom x2 n t (k + 2) (acc + t)

/-- sin of a fixed-point angle from 0 to 2π with 96 fractional bits. -/
def sinFix (x : Int) : Int := seriesFrom (x * x / 2 ^ 96) 32 x 2 x
/-- cos of a fixed-point angle. -/
def cosFix (x : Int) : Int := seriesFrom (x * x / 2 ^ 96) 32 (2 ^ 96) 1 (2 ^ 96)

/-- A binary32 word as a fixed-point value with 96 fractional bits. -/
def fix96 (x : Word) : Int := rneDiv (f32Units x) (2 ^ 53)

/-- sin(x) rounded to binary32, for x from 0 to 2π. -/
def f32Sin (x : Word) : Word := f32OfDyadic (sinFix (fix96 x)) (-96)
/-- cos(x) rounded to binary32, for x from 0 to 2π. -/
def f32Cos (x : Word) : Word := f32OfDyadic (cosFix (fix96 x)) (-96)

/-- 2π with 96 fractional bits. -/
def twoPi96 : Int := 0x6487ed5110b4611a62633145c
/-- ln 2 and ln 10 with 128 fractional bits. -/
def ln2Fix : Int := 0xb17217f7d1cf79abc9e3b39803f2f6af
def ln10Fix : Int := 0x24d763776aaa2b05ba95b58ae0b4c28a3

/-- sin(2π n / d) rounded to binary32. -/
def sinTurn (n : Int) (d : Nat) : Word := f32OfDyadic (sinFix (twoPi96 * (n % d) / d)) (-96)
/-- cos(2π n / d) rounded to binary32. -/
def cosTurn (n : Int) (d : Nat) : Word := f32OfDyadic (cosFix (twoPi96 * (n % d) / d)) (-96)

/-- The terms of e^r. -/
def expTerms (r : Int) : Nat → Int → Nat → Int → Int
  | 0, _, _, acc => acc
  | n + 1, term, k, acc =>
    let t := term * r / 2 ^ 128 / (k : Int)
    expTerms r n t (k + 1) (acc + t)

/-- e^t rounded to binary32, t with 128 fractional bits. -/
def expFix (t : Int) : Word :=
  let k := t / ln2Fix
  f32OfDyadic (expTerms (t - k * ln2Fix) 40 (2 ^ 128) 1 (2 ^ 128)) (k - 128)

/-- The terms of atanh z: z^(2k+1) / (2k+1). -/
def atanhTerms (z2 : Int) : Nat → Int → Nat → Int → Int
  | 0, _, _, acc => acc
  | n + 1, p, k, acc =>
    let q := p * z2 / 2 ^ 128
    atanhTerms z2 n q (k + 2) (acc + q / (k : Int))

/-- The natural logarithm of a positive binary32 word, with 128 fractional bits; 0 for any other word. -/
def lnFix (x : Word) : Int :=
  let u := f32Units x
  if u ≤ 0 then 0
  else
    let k := Nat.log2 u.toNat
    let m := u * 2 ^ 128 / 2 ^ k
    let z := (m - 2 ^ 128) * 2 ^ 128 / (m + 2 ^ 128)
    2 * atanhTerms (z * z / 2 ^ 128) 60 z 3 z + ((k : Int) - 149) * ln2Fix

/-- A binary32 word with 128 fractional bits. -/
def fix128 (x : Word) : Int := rneDiv (f32Units x) (2 ^ 21)

/-- 10^x rounded to binary32. -/
def f32Pow10 (x : Word) : Word := expFix (fix128 x * ln10Fix / 2 ^ 128)
/-- x^y rounded to binary32, for x above 0. -/
def f32Pow (x y : Word) : Word := expFix (fix128 y * lnFix x / 2 ^ 128)
/-- log10(x) rounded to binary32; a free value for x not above 0 (log entry 10). -/
def f32Log10 (x : Word) : Word := if f32Units x ≤ 0 then Config.logNonPos x else f32OfRat (lnFix x) ln10Fix.toNat

/-- e^x rounded to binary32. -/
def f32Exp (x : Word) : Word := expFix (fix128 x)

/-- The terms of atan z with 128 fractional bits, for |z| below 1: (-1)^k z^(2k+1) / (2k+1). -/
def atanTerms (z2 : Int) : Nat → Int → Nat → Int → Int
  | 0, _, _, acc => acc
  | n + 1, p, k, acc =>
    let q := -(p * z2 / 2 ^ 128)
    atanTerms z2 n q (k + 2) (acc + q / (k : Int))

/-- tan of half the angle whose tangent is z, with 128 fractional bits: z / (1 + sqrt(1 + z²)). -/
def halfTan (z : Int) : Int := z * 2 ^ 128 / (2 ^ 128 + (isqrt (2 ^ 256 + z * z).toNat : Int))

/-- atan z with 128 fractional bits for z from 0 to 1, from the angle's eighth part. -/
def atanFix (z : Int) : Int :=
  let t := halfTan (halfTan (halfTan z))
  8 * atanTerms (t * t / 2 ^ 128) 40 t 3 t

/-- π with 128 fractional bits. -/
def piFix : Int := 0x3243f6a8885a308d313198a2e03707345

/-- The angle of the point (x, y) from -π to π, with 128 fractional bits; 0 at the origin. -/
def atan2Fix (y x : Int) : Int :=
  let a := (y.natAbs : Int)
  let b := (x.natAbs : Int)
  let q := if a = 0 then 0 else if a ≤ b then atanFix (a * 2 ^ 128 / b) else piFix / 2 - atanFix (b * 2 ^ 128 / a)
  let h := if x < 0 then piFix - q else q
  if y < 0 then -h else h

/-- The angle of the point (x, y) in degrees from -180 to +180, rounded to binary32. -/
def f32Angle (y x : Word) : Word := f32OfRat (atan2Fix (f32Units y) (f32Units x) * 180) piFix.toNat

/-- A nonnegative binary32 word in an unsigned fixed-point format of w bits with k fractional bits, rounded and saturated. -/
def f32ToU (x : Word) (w k : Nat) : Nat := satU w (f32ToFixed x k)
/-- A binary32 word in a two's complement format of w bits with k fractional bits, as its pattern. -/
def f32ToS (x : Word) (w k : Nat) : Nat := pattern w (satS w (f32ToFixed x k))

/-- The least integer not below n / d. -/
def ceilDiv (n d : Nat) : Nat := (n + d - 1) / d

end Sys2Proof.Machine
end

