-- ==== Sys2Proof/Machine/RegMap.lean ====
section
/-! DEFINITION. RegMap.lean: the register map of R633 to R637, written from the register tables of the chapters: one row
a register with its pointer, instances, access codes (R13) and reset value; R.* the pointers, F.* the fields, G.* the W1C
flags with their event counters (R16). The registers a stream has through AIN_SSEL (R77) stand at 0x10000 + 0x20 * stream. -/

set_option Elab.async false

namespace Sys2Proof.Machine

/-- A field: the pointer of its register and its bits msb:lsb. -/
structure Fld where
  ptr : Nat
  hi : Nat
  lo : Nat
  deriving DecidableEq, Repr

/-- A W1C flag: its register and bit, and the register and lowest bit of its 8-bit event counter (R16). -/
structure Flag where
  ptr : Nat
  bit : Nat
  cptr : Nat
  clo : Nat
  deriving DecidableEq, Repr

/-- A register of R637: base pointer, instance stride and count (R634), consecutive alias words, reset value, and the bits of
each access code of R13; `atUpdate` says that RWL bits take effect at an update boundary and not at a block boundary. -/
structure Row where
  base : Nat
  stride : Nat := 0
  count : Nat := 1
  words : Nat := 1
  reset : Nat := 0
  rw : Nat := 0
  rwl : Nat := 0
  rwb : Nat := 0
  w1c : Nat := 0
  sc : Nat := 0
  wo : Nat := 0
  atUpdate : Bool := false
  deriving DecidableEq, Repr

/-- The instance of a row that a pointer names, if it names one. -/
def Row.inst (r : Row) (p : Nat) : Option Nat :=
  if p < r.base then none
  else
    let d := p - r.base
    let i := if r.stride = 0 then 0 else d / r.stride
    let o := if r.stride = 0 then d else d % r.stride
    if i < r.count ∧ o < 4 * r.words ∧ o % 4 = 0 then some i else none

/-- The registers of the Sys block. -/
def rowsSys : List Row :=
  [{ base := 0x0, reset := 0x16320001 } /- SYS_ID -/,
   { base := 0x4, reset := 0x1 } /- SYS_RST -/,
   { base := 0x8 } /- SYS_BOOT -/,
   { base := 0xc, rw := 0x10000, wo := 0x1ff } /- SYS_CTRL -/,
   { base := 0x10 } /- SYS_LC -/,
   { base := 0x14, rw := 0x7, sc := 0x100 } /- SYS_LCREQ -/,
   { base := 0x18, reset := 0x800c000a, rwl := 0xc0ff00ff } /- SYS_MUTECFG -/,
   { base := 0x1c, w1c := 0x7 } /- SYS_FLAG -/,
   { base := 0x20, w1c := 0x7f } /- SYS_GSTALL -/,
   { base := 0x24 } /- SYS_GSCNT0 -/,
   { base := 0x28 } /- SYS_GSCNT1 -/,
   { base := 0x40 } /- TS_STAT -/,
   { base := 0x44, rw := 0x100, wo := 0x3 } /- TS_CTRL -/,
   { base := 0x48, w1c := 0x1fd } /- TS_FLAG -/,
   { base := 0x4c } /- TS_FCNT0 -/,
   { base := 0x50 } /- TS_FCNT1 -/,
   { base := 0x54 } /- TS_TEMP -/,
   { base := 0x58, reset := 0x7d6e, rw := 0xffff } /- TS_TLIM -/,
   { base := 0x60, reset := 0x200ffff, rw := 0xcf00ffff } /- SYS_TRIP0 -/,
   { base := 0x64, reset := 0x200ffff, rw := 0xcf00ffff } /- SYS_TRIP1 -/] ++
  [{ base := 0x68, reset := 0x200ffff, rw := 0xcf00ffff } /- SYS_TRIP2 -/,
   { base := 0x6c, reset := 0x200ffff, rw := 0xcf00ffff } /- SYS_TRIP3 -/,
   { base := 0x80, rw := 0x1 } /- FAB_CFG -/,
   { base := 0x84, w1c := 0x1f } /- FAB_FLAG -/,
   { base := 0x88 } /- FAB_FCNT0 -/,
   { base := 0x8c } /- FAB_FCNT1 -/,
   { base := 0x90 } /- FAB_ELOG0 -/,
   { base := 0x94 } /- FAB_ELOG1 -/,
   { base := 0x98 } /- FAB_PORT -/,
   { base := 0xa0 } /- SYS_FCNT -/,
   { base := 0xa4 } /- SYS_DEVNUM_H -/,
   { base := 0xa8 } /- SYS_DEVNUM_L -/]

/-- The registers of the Clk block. -/
def rowsClk : List Row :=
  [{ base := 0x100, reset := 0x210 } /- CLK_STAT -/,
   { base := 0x104, rw := 0xffffff } /- CLK_REFADJ -/,
   { base := 0x108 } /- CLK_REFBASE -/,
   { base := 0x10c, rw := 0xf } /- CLK_MSEL -/,
   { base := 0x110 } /- CLK_MRES -/,
   { base := 0x114, w1c := 0x7 } /- CLK_FLAG -/,
   { base := 0x118 } /- CLK_FCNT -/,
   { base := 0x140, reset := 0x30003, rw := 0x7 } /- PWM_FSW -/,
   { base := 0x144, w1c := 0x3 } /- PWM_FLAG -/,
   { base := 0x148 } /- PWM_FCNT -/,
   { base := 0x150, reset := 0xb0002800, rwl := 0xffffffff, atUpdate := true } /- PWM_NSC0 -/,
   { base := 0x154, reset := 0xd8005000, rwl := 0xffffffff, atUpdate := true } /- PWM_NSC1 -/,
   { base := 0x158, reset := 0x800, rwl := 0xffff, atUpdate := true } /- PWM_NSC2 -/,
   { base := 0x180, reset := 0x801, rw := 0xff01 } /- SNS_ROT -/,
   { base := 0x184 } /- SNS_RET -/,
   { base := 0x188, reset := 0x3f212000 } /- SNS_POOL -/,
   { base := 0x18c } /- SNS_CALR0 -/,
   { base := 0x190, reset := 0x40000000 } /- SNS_CALR1 -/,
   { base := 0x194, w1c := 0xf } /- SNS_DFLAG -/,
   { base := 0x198 } /- SNS_DFCNT -/] ++
  [{ base := 0x1a0, reset := 0x2fff0000, rwl := 0xffff0fff, atUpdate := true } /- RAIL_CFG0 -/,
   { base := 0x1a4, reset := 0x2fff0000, rwl := 0xffff0fff, atUpdate := true } /- RAIL_CFG1 -/,
   { base := 0x1a8, reset := 0x2fff0000, rwl := 0xffff0fff, atUpdate := true } /- RAIL_CFG2 -/,
   { base := 0x1ac, reset := 0x2fff0000, rwl := 0xffff0fff, atUpdate := true } /- RAIL_CFG3 -/,
   { base := 0x1b0, reset := 0x800, rwl := 0xffff0fff, atUpdate := true } /- RAIL_NOM0 -/,
   { base := 0x1b4, reset := 0x800, rwl := 0xffff0fff, atUpdate := true } /- RAIL_NOM1 -/,
   { base := 0x1b8, reset := 0x800, rwl := 0xffff0fff, atUpdate := true } /- RAIL_NOM2 -/,
   { base := 0x1bc, reset := 0x800, rwl := 0xffff0fff, atUpdate := true } /- RAIL_NOM3 -/,
   { base := 0x1c0, reset := 0xffff0000 } /- RAIL_RES0 -/,
   { base := 0x1c4, reset := 0xffff0000 } /- RAIL_RES1 -/,
   { base := 0x1c8, reset := 0xffff0000 } /- RAIL_RES2 -/,
   { base := 0x1cc, reset := 0xffff0000 } /- RAIL_RES3 -/,
   { base := 0x1d0, w1c := 0xff } /- RAIL_FLAG -/,
   { base := 0x1d4 } /- RAIL_FCNT0 -/,
   { base := 0x1d8 } /- RAIL_FCNT1 -/,
   { base := 0x1e0, reset := 0x1, rw := 0xf01, sc := 0x2 } /- LANE_SHD -/,
   { base := 0x1e4, reset := 0x10000000 } /- LANE_POOL -/,
   { base := 0x1e8, w1c := 0x1f } /- LANE_FLAG -/,
   { base := 0x1ec } /- LANE_FCNT0 -/,
   { base := 0x1f0 } /- LANE_FCNT1 -/] ++
  [{ base := 0x1f4 } /- LANE_LAST -/]

/-- The registers of the Img block. -/
def rowsImg : List Row :=
  [{ base := 0x200, reset := 0xffff } /- IMG_STAT -/,
   { base := 0x204 } /- IMG_SEQ -/,
   { base := 0x208 } /- IMG_DIG0 -/,
   { base := 0x20c } /- IMG_DIG1 -/,
   { base := 0x210 } /- IMG_DIG2 -/,
   { base := 0x214 } /- IMG_DIG3 -/,
   { base := 0x218 } /- IMG_DIG4 -/,
   { base := 0x21c } /- IMG_DIG5 -/,
   { base := 0x220 } /- IMG_DIG6 -/,
   { base := 0x224 } /- IMG_DIG7 -/,
   { base := 0x228, w1c := 0x7 } /- IMG_FLAG -/,
   { base := 0x22c } /- IMG_FCNT -/,
   { base := 0x230, rw := 0x3, sc := 0x80000000 } /- QSPI_CTRL -/,
   { base := 0x234, rw := 0x1ffffff } /- QSPI_ADDR -/,
   { base := 0x238 } /- QSPI_STAT -/,
   { base := 0x23c, rw := 0x3f } /- QSPI_BPTR -/,
   { base := 0x240, words := 8, rw := 0xffffffff } /- QSPI_BDATA -/,
   { base := 0x260 } /- QSPI_ID -/,
   { base := 0x264 } /- IMG_NET -/]

/-- The registers of the Hst block. -/
def rowsHst : List Row :=
  [{ base := 0x300, w1c := 0x3ff } /- HST_FLAG -/,
   { base := 0x304 } /- HST_FCNT0 -/,
   { base := 0x308 } /- HST_FCNT1 -/,
   { base := 0x30c } /- HST_FCNT2 -/,
   { base := 0x310, reset := 0x5000000, rw := 0x9f010000 } /- HST_CFG -/,
   { base := 0x314, reset := 0x807f0030, rw := 0x807f007f } /- HST_GRP -/,
   { base := 0x318, reset := 0x10001, rw := 0x80ff007f } /- HST_REQ -/,
   { base := 0x31c, rw := 0x10000 } /- HST_REQST -/,
   { base := 0x320 } /- HST_STAT -/]

/-- The registers of the Mem block. -/
def rowsMem : List Row :=
  [{ base := 0x400, w1c := 0x7f } /- MEM_FLAG -/,
   { base := 0x404 } /- MEM_FCNT0 -/,
   { base := 0x408 } /- MEM_FCNT1 -/,
   { base := 0x40c } /- MEM_ELOG0 -/,
   { base := 0x410 } /- MEM_ELOG1 -/,
   { base := 0x414, rw := 0x77f } /- MEM_BSEL -/,
   { base := 0x418 } /- MEM_BSTAT -/,
   { base := 0x41c } /- MEM_RMAP -/,
   { base := 0x420, reset := 0xc0003c03, rw := 0xc000ff0f } /- MEM_RCFG -/,
   { base := 0x424 } /- MEM_WIPE -/,
   { base := 0x428, reset := 0x10000000, rw := 0x307f0000, sc := 0x80000000 } /- MEM_INJ -/]

/-- The registers of the Bkg block. -/
def rowsBkg : List Row :=
  [{ base := 0x500, reset := 0xc0000000, rw := 0xc0000000 } /- BKG_CFG -/,
   { base := 0x504, sc := 0x1 } /- BKG_CTRL -/,
   { base := 0x508, w1c := 0x3f } /- BKG_FLAG -/,
   { base := 0x50c } /- BKG_FCNT0 -/,
   { base := 0x510 } /- BKG_FCNT1 -/,
   { base := 0x514 } /- BKG_SCRUB -/,
   { base := 0x518 } /- BKG_LOG0 -/,
   { base := 0x51c } /- BKG_LOG1 -/,
   { base := 0x520 } /- BKG_LOG2 -/]

/-- The registers of the Twn block. -/
def rowsTwn : List Row :=
  [{ base := 0x600, w1c := 0x1fff } /- TWN_FLAG -/,
   { base := 0x604 } /- TWN_FCNT0 -/,
   { base := 0x608 } /- TWN_FCNT1 -/,
   { base := 0x60c } /- TWN_FCNT2 -/,
   { base := 0x610 } /- TWN_FCNT3 -/,
   { base := 0x614, reset := 0x40200300, rw := 0xc0ff0f00 } /- TWN_CFG -/,
   { base := 0x618, sc := 0x7 } /- TWN_CTRL -/,
   { base := 0x61c } /- TWN_STAT -/,
   { base := 0x620 } /- TWN_MARK -/,
   { base := 0x624 } /- TWN_LAST -/,
   { base := 0x628 } /- TWN_CDIG -/,
   { base := 0x62c } /- TWN_PDIG -/,
   { base := 0x630 } /- TWN_LERR -/]

/-- The registers of the Str block. -/
def rowsStr : List Row :=
  [{ base := 0x700, w1c := 0xff } /- STR_FLAG -/,
   { base := 0x704 } /- STR_FCNT0 -/,
   { base := 0x708 } /- STR_FCNT1 -/,
   { base := 0x70c, reset := 0x80000000, rw := 0x800000ff } /- STR_CFG -/,
   { base := 0x710, reset := 0xff3f } /- STR_STAT -/,
   { base := 0x714 } /- STR_LERR -/]

/-- The registers of the Ain block. -/
def rowsAin : List Row :=
  [{ base := 0x800, w1c := 0x3ff } /- AIN_FLAG -/,
   { base := 0x804 } /- AIN_FCNT0 -/,
   { base := 0x808 } /- AIN_FCNT1 -/,
   { base := 0x80c } /- AIN_FCNT2 -/,
   { base := 0x810, reset := 0x30001, rw := 0xff0ff131 } /- PTP_CFG -/,
   { base := 0x814, sc := 0x1 } /- PTP_CTRL -/,
   { base := 0x818 } /- PTP_STAT -/,
   { base := 0x81c } /- PTP_OFFSET -/,
   { base := 0x820 } /- PTP_FREQ -/,
   { base := 0x824 } /- PTP_GMID_H -/,
   { base := 0x828 } /- PTP_GMID_L -/,
   { base := 0x830, rw := 0xf } /- AIN_SSEL -/,
   { base := 0x850, rw := 0xf8000000 } /- AIN_TDM0 -/,
   { base := 0x854, rw := 0xf8000000 } /- AIN_TDM1 -/,
   { base := 0x858, rw := 0xf8000000 } /- AIN_TDM2 -/,
   { base := 0x85c, rw := 0xf8000000 } /- AIN_TDM3 -/,
   { base := 0x860, rw := 0x3 } /- AIN_CSSEL -/,
   { base := 0x864 } /- AIN_CSDATA -/,
   { base := 0x868, reset := 0xffffffff, rwl := 0xffffffff } /- AIN_MSEL0 -/,
   { base := 0x86c, reset := 0xffffffff, rwl := 0xffffffff } /- AIN_MSEL1 -/] ++
  [{ base := 0x870, reset := 0xffffffff, rwl := 0xffffffff } /- AIN_MSEL2 -/,
   { base := 0x874, reset := 0xffffffff, rwl := 0xffffffff } /- AIN_MSEL3 -/,
   { base := 0x878, rwl := 0xc0000000 } /- AIN_TMON -/,
   { base := 0x87c, reset := 0x100, rwl := 0x80000f0f } /- AIN_AEST -/,
   { base := 0x880, rw := 0x80000000 } /- AIN_AES0 -/,
   { base := 0x884, rw := 0x80000000 } /- AIN_AES1 -/,
   { base := 0x888, rw := 0x80000000 } /- AIN_AES2 -/,
   { base := 0x88c, rw := 0x80000000 } /- AIN_AES3 -/,
   { base := 0x890, rw := 0x3ff } /- AIN_MIXPTR -/,
   { base := 0x8a0, words := 8, rwb := 0xffffffff } /- AIN_MIXDATA -/,
   { base := 0x8c0, rwb := 0xffffffff } /- AIN_ROUTE0 -/,
   { base := 0x8c4, rwb := 0xffffffff } /- AIN_ROUTE1 -/,
   { base := 0x8c8, rwb := 0xffffffff } /- AIN_ROUTE2 -/,
   { base := 0x8cc, rwb := 0xffffffff } /- AIN_ROUTE3 -/,
   { base := 0x8d0, rwb := 0xffffffff } /- AIN_ROUTE4 -/,
   { base := 0x8d4, rwb := 0xffffffff } /- AIN_ROUTE5 -/,
   { base := 0x8d8, rwb := 0xffffffff } /- AIN_ROUTE6 -/,
   { base := 0x8dc, rwb := 0xffffffff } /- AIN_ROUTE7 -/,
   { base := 0x8e0, rwb := 0xffffffff } /- AIN_ROUTE8 -/,
   { base := 0x8e4, rwb := 0xffffffff } /- AIN_ROUTE9 -/] ++
  [{ base := 0x8e8, rwb := 0xffffffff } /- AIN_ROUTE10 -/,
   { base := 0x8ec, rwb := 0xffffffff } /- AIN_ROUTE11 -/,
   { base := 0x8f0, rwb := 0xffffffff } /- AIN_ROUTE12 -/,
   { base := 0x8f4, rwb := 0xffffffff } /- AIN_ROUTE13 -/,
   { base := 0x8f8, rwb := 0xffffffff } /- AIN_ROUTE14 -/,
   { base := 0x8fc, rwb := 0xffffffff } /- AIN_ROUTE15 -/]

/-- The registers of the Scn block. -/
def rowsScn : List Row :=
  [{ base := 0x900, w1c := 0x7f } /- SCN_FLAG -/,
   { base := 0x904 } /- SCN_FCNT0 -/,
   { base := 0x908 } /- SCN_FCNT1 -/,
   { base := 0x910, rw := 0xffff3f25 } /- SCN_CFG -/,
   { base := 0x914, rw := 0xffff } /- SCN_MASK -/,
   { base := 0x918, rw := 0xffffffff } /- SCN_AT_L -/,
   { base := 0x91c, rw := 0xffff } /- SCN_AT_H -/,
   { base := 0x920, sc := 0x3 } /- SCN_ARM -/,
   { base := 0x924 } /- SCN_STAT -/,
   { base := 0x928 } /- SCN_NOW_L -/,
   { base := 0x92c } /- SCN_NOW_H -/,
   { base := 0x940, reset := 0x43210, rw := 0xc, sc := 0x1 } /- MB_CORE -/]

/-- The registers of the Ch block. -/
def rowsCh : List Row :=
  [{ base := 0x1000, stride := 0x100, count := 16, rw := 0x1ff } /- CH_LA -/,
   { base := 0x1004, stride := 0x100, count := 16, w1c := 0x100 } /- CH_MBST -/,
   { base := 0x1008, stride := 0x100, count := 16, reset := 0x1900, rwl := 0x1, wo := 0x2 } /- CH_MUTE -/,
   { base := 0x100c, stride := 0x100, count := 16 } /- CH_MBCNT -/,
   { base := 0x1010, stride := 0x100, count := 16, rw := 0xfff } /- CH_BPTR -/,
   { base := 0x1020, stride := 0x100, count := 16, words := 8, rwb := 0xffffffff } /- CH_BDATA -/,
   { base := 0x1040, stride := 0x100, count := 16, reset := 0x8000000, rw := 0xff000011, rwl := 0xff0300, atUpdate := true } /- CH_MOD -/,
   { base := 0x1044, stride := 0x100, count := 16, reset := 0x8a26400, rw := 0xfff3ff03 } /- CH_TRP -/,
   { base := 0x1048, stride := 0x100, count := 16 } /- CH_TRST -/,
   { base := 0x104c, stride := 0x100, count := 16, wo := 0x3 } /- CH_TCLR -/,
   { base := 0x1050, stride := 0x100, count := 16, w1c := 0x7 } /- CH_TFLAG -/,
   { base := 0x1054, stride := 0x100, count := 16 } /- CH_TFCNT -/]

/-- The registers of the Mod block. -/
def rowsMod : List Row :=
  [{ base := 0x2000, stride := 0x100, count := 32, wo := 0xffff } /- MOD_CMPW -/,
   { base := 0x2004, stride := 0x100, count := 32 } /- MOD_CMPS -/,
   { base := 0x2008, stride := 0x100, count := 32 } /- MOD_STAT -/,
   { base := 0x200c, stride := 0x100, count := 32, reset := 0x400040, rwl := 0x3ff03ff, atUpdate := true } /- MOD_DT -/,
   { base := 0x2010, stride := 0x100, count := 32, reset := 0x20040004, rwl := 0xffff00ff, atUpdate := true } /- MOD_LIM -/,
   { base := 0x2014, stride := 0x100, count := 32, rwl := 0xc003ffff, atUpdate := true } /- MOD_TRGA -/,
   { base := 0x2018, stride := 0x100, count := 32, rwl := 0xc003ffff, atUpdate := true } /- MOD_TRGB -/,
   { base := 0x2028, stride := 0x100, count := 32 } /- MOD_DLH -/,
   { base := 0x202c, stride := 0x100, count := 32 } /- MOD_DLL -/,
   { base := 0x2030, stride := 0x100, count := 32, w1c := 0x1f } /- MOD_FLAG -/,
   { base := 0x2034, stride := 0x100, count := 32 } /- MOD_FCNT0 -/,
   { base := 0x2038, stride := 0x100, count := 32 } /- MOD_FCNT1 -/,
   { base := 0x203c, stride := 0x100, count := 32 } /- MOD_HAPP -/,
   { base := 0x2080, stride := 0x100, count := 32, reset := 0x42001818, rw := 0xcf00ffff } /- TRP_CFG -/,
   { base := 0x2084, stride := 0x100, count := 32 } /- TRP_STAT -/,
   { base := 0x2088, stride := 0x100, count := 32, w1c := 0x3 } /- TRP_FLAG -/,
   { base := 0x208c, stride := 0x100, count := 32 } /- TRP_FCNT -/]

/-- The registers of the Sns block. -/
def rowsSns : List Row :=
  [{ base := 0x4000, stride := 0x100, count := 16, reset := 0x100, rwl := 0x30f03, atUpdate := true } /- SNS_CFG -/,
   { base := 0x4004, stride := 0x100, count := 16, reset := 0x3f800000, rw := 0xffffffff } /- SNS_VFS -/,
   { base := 0x4008, stride := 0x100, count := 16, reset := 0x3f800000, rw := 0xffffffff } /- SNS_IFS -/,
   { base := 0x400c, stride := 0x100, count := 16, reset := 0x7fff7fff, rwl := 0xffffffff, atUpdate := true } /- SNS_CMP -/,
   { base := 0x4010, stride := 0x100, count := 16 } /- SNS_RES -/,
   { base := 0x4014, stride := 0x100, count := 16 } /- SNS_SLC -/,
   { base := 0x4018, stride := 0x100, count := 16, w1c := 0x3f } /- SNS_FLAG -/,
   { base := 0x401c, stride := 0x100, count := 16 } /- SNS_FCNT0 -/,
   { base := 0x4020, stride := 0x100, count := 16 } /- SNS_FCNT1 -/]

/-- The registers of the Lpe block. -/
def rowsLpe : List Row :=
  [{ base := 0x5000, stride := 0x200, count := 16, sc := 0x1 } /- LPE_CTRL -/,
   { base := 0x5004, stride := 0x200, count := 16 } /- LPE_CWCNT -/,
   { base := 0x5008, stride := 0x200, count := 16, reset := 0x7fff7ae1, rwl := 0x7fff7fff, atUpdate := true } /- LPE_LIM -/,
   { base := 0x500c, stride := 0x200, count := 16, rwl := 0xffff } /- LPE_ZOUT -/,
   { base := 0x5010, stride := 0x200, count := 16, rwl := 0x3ff0ffff } /- LPE_CWR -/,
   { base := 0x5014, stride := 0x200, count := 16, reset := 0x30000 } /- LPE_STAT -/,
   { base := 0x5018, stride := 0x200, count := 16, w1c := 0x1f } /- LPE_FLAG -/,
   { base := 0x501c, stride := 0x200, count := 16 } /- LPE_FCNT -/,
   { base := 0x5020, stride := 0x200, count := 16, rw := 0xff } /- LPE_PPTR -/,
   { base := 0x5024, stride := 0x200, count := 16, reset := 0xff00 } /- LPE_PCHK -/,
   { base := 0x5028, stride := 0x200, count := 16, rw := 0xff } /- LPE_LPTR -/,
   { base := 0x5040, stride := 0x200, count := 16, reset := 0xff00 } /- LPE_SLK -/,
   { base := 0x5044, stride := 0x200, count := 16, reset := 0x2b004000, rwl := 0xeff0ff00, atUpdate := true } /- LPE_FE -/,
   { base := 0x5048, stride := 0x200, count := 16, reset := 0x1007fff, rwl := 0xffff7fff, atUpdate := true } /- LPE_FELIM -/,
   { base := 0x504c, stride := 0x200, count := 16 } /- LPE_FEST -/,
   { base := 0x5050, stride := 0x200, count := 16, reset := 0x10000, rwl := 0xc0ffffff } /- LPE_INJ -/,
   { base := 0x5054, stride := 0x200, count := 16, w1c := 0xf } /- LPE_OFLAG -/,
   { base := 0x5058, stride := 0x200, count := 16 } /- LPE_OFCNT -/,
   { base := 0x505c, stride := 0x200, count := 16, wo := 0x3 } /- LPE_OCTL -/,
   { base := 0x5100, stride := 0x200, count := 16, words := 8, rwb := 0xffffffff } /- LPE_PDATA -/] ++
  [{ base := 0x5140, stride := 0x200, count := 16, words := 8 } /- LPE_LDATA -/]

/-- The registers of the Spk block. -/
def rowsSpk : List Row :=
  [{ base := 0x7000, stride := 0x80, count := 16, rw := 0x3f } /- SPK_PPTR -/,
   { base := 0x7004, stride := 0x80, count := 16, rw := 0x3f } /- SPK_LPTR -/,
   { base := 0x7008, stride := 0x80, count := 16 } /- SPK_STAT -/,
   { base := 0x700c, stride := 0x80, count := 16 } /- SPK_XRES -/,
   { base := 0x7010, stride := 0x80, count := 16, w1c := 0x7 } /- SPK_FLAG -/,
   { base := 0x7014, stride := 0x80, count := 16 } /- SPK_FCNT -/,
   { base := 0x7020, stride := 0x80, count := 16, words := 8, rwb := 0xffffffff } /- SPK_PDATA -/,
   { base := 0x7040, stride := 0x80, count := 16, words := 8 } /- SPK_LDATA -/,
   { base := 0x7060, stride := 0x80, count := 16 } /- SPK_TRES0 -/,
   { base := 0x7064, stride := 0x80, count := 16 } /- SPK_TRES1 -/,
   { base := 0x7068, stride := 0x80, count := 16 } /- SPK_IDR0 -/,
   { base := 0x706c, stride := 0x80, count := 16 } /- SPK_IDR1 -/,
   { base := 0x7070, stride := 0x80, count := 16, reset := 0x3f800000 } /- SPK_IDR2 -/,
   { base := 0x7074, stride := 0x80, count := 16, reset := 0x3f800000 } /- SPK_IDR3 -/,
   { base := 0x7078, stride := 0x80, count := 16, reset := 0x3f800000 } /- SPK_IDR4 -/,
   { base := 0x707c, stride := 0x80, count := 16 } /- SPK_IDR5 -/,
   { base := 0x7800, w1c := 0xf } /- VENT_FLAG -/,
   { base := 0x7804 } /- VENT_FCNT -/,
   { base := 0x7808 } /- VENT_STAT -/,
   { base := 0x780c, wo := 0x1 } /- VENT_CTRL -/] ++
  [{ base := 0x7810, reset := 0x280, rwl := 0xffff } /- VENT_TAMB -/]

/-- The registers of the Dia block. -/
def rowsDia : List Row :=
  [{ base := 0x8000, stride := 0x80, count := 16, reset := 0xd0c05a28, rwl := 0xffffffff } /- DIA_PCFG -/,
   { base := 0x8004, stride := 0x80, count := 16, reset := 0x140a320a, rwl := 0xffffffff } /- DIA_TCFG -/,
   { base := 0x8008, stride := 0x80, count := 16, reset := 0x8820050a, rwl := 0xffffffff } /- DIA_LCFG -/,
   { base := 0x800c, stride := 0x80, count := 16, reset := 0xa1e00, rwl := 0xffff00 } /- DIA_LCFG2 -/,
   { base := 0x8010, stride := 0x80, count := 16 } /- DIA_STAT -/,
   { base := 0x8014, stride := 0x80, count := 16, w1c := 0xff } /- DIA_FLAG -/,
   { base := 0x8018, stride := 0x80, count := 16 } /- DIA_FCNT0 -/,
   { base := 0x801c, stride := 0x80, count := 16 } /- DIA_FCNT1 -/,
   { base := 0x8020, stride := 0x80, count := 16, reset := 0x8000 } /- DIA_PRES0 -/,
   { base := 0x8024, stride := 0x80, count := 16, reset := 0x80008000 } /- DIA_PRES1 -/,
   { base := 0x8028, stride := 0x80, count := 16 } /- DIA_PRES2 -/,
   { base := 0x802c, stride := 0x80, count := 16 } /- DIA_LRES0 -/,
   { base := 0x8030, stride := 0x80, count := 16, reset := 0x4000 } /- DIA_LRES1 -/,
   { base := 0x8034, stride := 0x80, count := 16, reset := 0x5c14000a, rw := 0xfcffffff } /- DIA_SWCFG -/,
   { base := 0x8038, stride := 0x80, count := 16, reset := 0x4e20, rw := 0xffff } /- DIA_SWCFG2 -/,
   { base := 0x803c, stride := 0x80, count := 16, sc := 0x1, wo := 0x2 } /- DIA_SWCTRL -/,
   { base := 0x8040, stride := 0x80, count := 16 } /- DIA_SWSTAT -/,
   { base := 0x8044, stride := 0x80, count := 16, reset := 0xffff } /- DIA_SWSUM0 -/,
   { base := 0x8048, stride := 0x80, count := 16 } /- DIA_SWSUM1 -/,
   { base := 0x804c, stride := 0x80, count := 16 } /- DIA_SWSUM2 -/] ++
  [{ base := 0x8050, stride := 0x80, count := 16 } /- DIA_SWSUM3 -/,
   { base := 0x8054, stride := 0x80, count := 16, rw := 0xff } /- DIA_SWPTR -/,
   { base := 0x8060, stride := 0x80, count := 16, words := 8 } /- DIA_SWDATA -/,
   { base := 0x8800 } /- DIA_SUM -/]

/-- The registers of the Rng block. -/
def rowsRng : List Row :=
  [{ base := 0x9000, stride := 0x80, count := 32, reset := 0x83000000, rw := 0x87010007 } /- RNG_CFG -/,
   { base := 0x9004, stride := 0x80, count := 32 } /- RNG_WPTR -/,
   { base := 0x9008, stride := 0x80, count := 32 } /- RNG_RPTR -/,
   { base := 0x900c, stride := 0x80, count := 32, reset := 0x800 } /- RNG_STAT -/,
   { base := 0x9010, stride := 0x80, count := 32, w1c := 0x7f } /- RNG_FLAG -/,
   { base := 0x9014, stride := 0x80, count := 32 } /- RNG_FCNT0 -/,
   { base := 0x9018, stride := 0x80, count := 32 } /- RNG_FCNT1 -/,
   { base := 0x901c, stride := 0x80, count := 32 } /- RNG_LOST -/,
   { base := 0x9020, stride := 0x80, count := 32, wo := 0xffffffff } /- RNG_WDATA0 -/,
   { base := 0x9024, stride := 0x80, count := 32, wo := 0xffffffff } /- RNG_WDATA1 -/,
   { base := 0x9028, stride := 0x80, count := 32, wo := 0xffffffff } /- RNG_WDATA2 -/,
   { base := 0x902c, stride := 0x80, count := 32, wo := 0xffffffff } /- RNG_WDATA3 -/,
   { base := 0x9040, stride := 0x80, count := 32 } /- RNG_RDATA0 -/,
   { base := 0x9044, stride := 0x80, count := 32 } /- RNG_RDATA1 -/,
   { base := 0x9048, stride := 0x80, count := 32 } /- RNG_RDATA2 -/,
   { base := 0x904c, stride := 0x80, count := 32 } /- RNG_RDATA3 -/]

/-- The registers of the Trc block. -/
def rowsTrc : List Row :=
  [{ base := 0xa000, stride := 0x20, count := 16, reset := 0x400, rw := 0xf7007ff } /- TRC_CFG -/,
   { base := 0xa004, stride := 0x20, count := 16, reset := 0x15101211, rw := 0xffffffff } /- TRC_NODE0 -/,
   { base := 0xa008, stride := 0x20, count := 16, reset := 0xb0201, rw := 0xffffff } /- TRC_NODE1 -/,
   { base := 0xa00c, stride := 0x20, count := 16, rw := 0xff00ffff } /- TRC_TRIG -/,
   { base := 0xa010, stride := 0x20, count := 16 } /- TRC_IDX -/,
   { base := 0xa014, stride := 0x20, count := 16, sc := 0x1, wo := 0x6 } /- TRC_CTRL -/,
   { base := 0xa200, rw := 0xf1fff } /- TRC_RPTR -/,
   { base := 0xa204, w1c := 0x7 } /- TRC_FLAG -/,
   { base := 0xa208 } /- TRC_FCNT -/,
   { base := 0xa220, words := 8 } /- TRC_RDATA -/]

/-- The registers of the Mgr block. -/
def rowsMgr : List Row :=
  [{ base := 0xb000, stride := 0x4, count := 512 } /- MGR_NODE -/,
   { base := 0xb800 } /- MGR_NVALID -/,
   { base := 0xb804 } /- MGR_STAT -/,
   { base := 0xb808, w1c := 0xf } /- MGR_FLAG -/,
   { base := 0xb80c } /- MGR_FCNT -/,
   { base := 0xb810, reset := 0xff000000, rw := 0xffff8000 } /- MGR_CQHDR -/,
   { base := 0xb814, rw := 0xffff } /- MGR_CQT0 -/,
   { base := 0xb818, rw := 0xffffffff } /- MGR_CQT1 -/,
   { base := 0xb81c, rw := 0xffffffff } /- MGR_CQT2 -/,
   { base := 0xb820, rw := 0xffffffff } /- MGR_CQDATA0 -/,
   { base := 0xb824, rw := 0xffffffff } /- MGR_CQDATA1 -/,
   { base := 0xb828, rw := 0xffffffff } /- MGR_CQDATA2 -/,
   { base := 0xb82c, rw := 0xffffffff } /- MGR_CQDATA3 -/,
   { base := 0xb830, rw := 0xffffffff } /- MGR_CQDATA4 -/,
   { base := 0xb834, rw := 0xffffffff } /- MGR_CQDATA5 -/,
   { base := 0xb838, rw := 0xffffffff } /- MGR_CQDATA6 -/,
   { base := 0xb83c, rw := 0xffffffff } /- MGR_CQDATA7 -/,
   { base := 0xb840, sc := 0x1 } /- MGR_CQCTRL -/,
   { base := 0xb844 } /- MGR_CQRES0 -/,
   { base := 0xb848 } /- MGR_CQRES1 -/] ++
  [{ base := 0xb84c } /- MGR_CQRES2 -/]

/-- The registers of the Stream block. -/
def rowsStream : List Row :=
  [{ base := 0x10000, stride := 0x20, count := 16, reset := 0x60, rw := 0xbfff83ff } /- AIN_SCFG -/,
   { base := 0x10004, stride := 0x20, count := 16, rw := 0xffffffff } /- AIN_SADDRA -/,
   { base := 0x10008, stride := 0x20, count := 16, rw := 0xffffffff } /- AIN_SADDRB -/,
   { base := 0x1000c, stride := 0x20, count := 16, reset := 0x138c138c, rw := 0xffffffff } /- AIN_SPORT -/,
   { base := 0x10010, stride := 0x20, count := 16, rw := 0xffffffff } /- AIN_SRTP -/,
   { base := 0x10014, stride := 0x20, count := 16 } /- AIN_SSTAT -/]

/-- The rows of the block that holds a pointer (R633). -/
def rowsAt (p : Nat) : List Row :=
  if 0x0 ≤ p ∧ p < 0x100 then rowsSys
  else if 0x100 ≤ p ∧ p < 0x200 then rowsClk
  else if 0x200 ≤ p ∧ p < 0x300 then rowsImg
  else if 0x300 ≤ p ∧ p < 0x400 then rowsHst
  else if 0x400 ≤ p ∧ p < 0x500 then rowsMem
  else if 0x500 ≤ p ∧ p < 0x600 then rowsBkg
  else if 0x600 ≤ p ∧ p < 0x700 then rowsTwn
  else if 0x700 ≤ p ∧ p < 0x800 then rowsStr
  else if 0x800 ≤ p ∧ p < 0x900 then rowsAin
  else if 0x900 ≤ p ∧ p < 0xa00 then rowsScn
  else if 0x1000 ≤ p ∧ p < 0x2000 then rowsCh
  else if 0x2000 ≤ p ∧ p < 0x4000 then rowsMod
  else if 0x4000 ≤ p ∧ p < 0x5000 then rowsSns
  else if 0x5000 ≤ p ∧ p < 0x7000 then rowsLpe
  else if 0x7000 ≤ p ∧ p < 0x8000 then rowsSpk
  else if 0x8000 ≤ p ∧ p < 0x9000 then rowsDia
  else if 0x9000 ≤ p ∧ p < 0xa000 then rowsRng
  else if 0xa000 ≤ p ∧ p < 0xb000 then rowsTrc
  else if 0xb000 ≤ p ∧ p < 0xc000 then rowsMgr
  else if 0x10000 ≤ p ∧ p < 0x10200 then rowsStream
  else []

/-- The register a pointer names, with its instance; none where the pointer belongs to no register (R12). -/
def rowOf (p : Nat) : Option (Row × Nat) :=
  (rowsAt p).findSome? fun r => (r.inst p).map fun i => (r, i)

/-- The W1C flags as a table: flag register, bit, counter register, counter bit, instance stride and count (R16). -/
def flagRows : List (Nat × Nat × Nat × Nat × Nat × Nat) :=
  [(0x1c, 2, 0xa0, 16, 0x0, 1), (0x1c, 1, 0xa0, 8, 0x0, 1), (0x1c, 0, 0xa0, 0, 0x0, 1),
   (0x20, 6, 0x28, 16, 0x0, 1), (0x20, 5, 0x28, 8, 0x0, 1), (0x20, 4, 0x28, 0, 0x0, 1),
   (0x20, 3, 0x24, 24, 0x0, 1), (0x20, 2, 0x24, 16, 0x0, 1), (0x20, 1, 0x24, 8, 0x0, 1),
   (0x20, 0, 0x24, 0, 0x0, 1), (0x48, 8, 0x50, 24, 0x0, 1), (0x48, 7, 0x50, 16, 0x0, 1),
   (0x48, 6, 0x50, 8, 0x0, 1), (0x48, 5, 0x50, 0, 0x0, 1), (0x48, 4, 0x4c, 24, 0x0, 1),
   (0x48, 3, 0x4c, 16, 0x0, 1), (0x48, 2, 0x4c, 8, 0x0, 1), (0x48, 0, 0x4c, 0, 0x0, 1),
   (0x84, 4, 0x8c, 0, 0x0, 1), (0x84, 3, 0x88, 24, 0x0, 1), (0x84, 2, 0x88, 16, 0x0, 1),
   (0x84, 1, 0x88, 8, 0x0, 1), (0x84, 0, 0x88, 0, 0x0, 1), (0x114, 2, 0x118, 16, 0x0, 1),
   (0x114, 1, 0x118, 8, 0x0, 1), (0x114, 0, 0x118, 0, 0x0, 1), (0x144, 1, 0x148, 8, 0x0, 1),
   (0x144, 0, 0x148, 0, 0x0, 1), (0x194, 3, 0x198, 24, 0x0, 1), (0x194, 2, 0x198, 16, 0x0, 1)] ++
  [(0x194, 1, 0x198, 8, 0x0, 1), (0x194, 0, 0x198, 0, 0x0, 1), (0x1d0, 7, 0x1d8, 24, 0x0, 1),
   (0x1d0, 6, 0x1d8, 16, 0x0, 1), (0x1d0, 5, 0x1d8, 8, 0x0, 1), (0x1d0, 4, 0x1d8, 0, 0x0, 1),
   (0x1d0, 3, 0x1d4, 24, 0x0, 1), (0x1d0, 2, 0x1d4, 16, 0x0, 1), (0x1d0, 1, 0x1d4, 8, 0x0, 1),
   (0x1d0, 0, 0x1d4, 0, 0x0, 1), (0x1e8, 4, 0x1f0, 0, 0x0, 1), (0x1e8, 3, 0x1ec, 24, 0x0, 1),
   (0x1e8, 2, 0x1ec, 16, 0x0, 1), (0x1e8, 1, 0x1ec, 8, 0x0, 1), (0x1e8, 0, 0x1ec, 0, 0x0, 1),
   (0x228, 2, 0x22c, 16, 0x0, 1), (0x228, 1, 0x22c, 8, 0x0, 1), (0x228, 0, 0x22c, 0, 0x0, 1),
   (0x300, 9, 0x30c, 8, 0x0, 1), (0x300, 8, 0x30c, 0, 0x0, 1), (0x300, 7, 0x308, 24, 0x0, 1),
   (0x300, 6, 0x308, 16, 0x0, 1), (0x300, 5, 0x308, 8, 0x0, 1), (0x300, 4, 0x308, 0, 0x0, 1),
   (0x300, 3, 0x304, 24, 0x0, 1), (0x300, 2, 0x304, 16, 0x0, 1), (0x300, 1, 0x304, 8, 0x0, 1),
   (0x300, 0, 0x304, 0, 0x0, 1), (0x400, 6, 0x408, 16, 0x0, 1), (0x400, 5, 0x408, 8, 0x0, 1)] ++
  [(0x400, 4, 0x408, 0, 0x0, 1), (0x400, 3, 0x404, 24, 0x0, 1), (0x400, 2, 0x404, 16, 0x0, 1),
   (0x400, 1, 0x404, 8, 0x0, 1), (0x400, 0, 0x404, 0, 0x0, 1), (0x508, 5, 0x510, 8, 0x0, 1),
   (0x508, 4, 0x510, 0, 0x0, 1), (0x508, 3, 0x50c, 24, 0x0, 1), (0x508, 2, 0x50c, 16, 0x0, 1),
   (0x508, 1, 0x50c, 8, 0x0, 1), (0x508, 0, 0x50c, 0, 0x0, 1), (0x600, 12, 0x610, 0, 0x0, 1),
   (0x600, 11, 0x60c, 24, 0x0, 1), (0x600, 10, 0x60c, 16, 0x0, 1), (0x600, 9, 0x60c, 8, 0x0, 1),
   (0x600, 8, 0x60c, 0, 0x0, 1), (0x600, 7, 0x608, 24, 0x0, 1), (0x600, 6, 0x608, 16, 0x0, 1),
   (0x600, 5, 0x608, 8, 0x0, 1), (0x600, 4, 0x608, 0, 0x0, 1), (0x600, 3, 0x604, 24, 0x0, 1),
   (0x600, 2, 0x604, 16, 0x0, 1), (0x600, 1, 0x604, 8, 0x0, 1), (0x600, 0, 0x604, 0, 0x0, 1),
   (0x700, 7, 0x708, 24, 0x0, 1), (0x700, 6, 0x708, 16, 0x0, 1), (0x700, 5, 0x708, 8, 0x0, 1),
   (0x700, 4, 0x708, 0, 0x0, 1), (0x700, 3, 0x704, 24, 0x0, 1), (0x700, 2, 0x704, 16, 0x0, 1)] ++
  [(0x700, 1, 0x704, 8, 0x0, 1), (0x700, 0, 0x704, 0, 0x0, 1), (0x800, 9, 0x80c, 8, 0x0, 1),
   (0x800, 8, 0x80c, 0, 0x0, 1), (0x800, 7, 0x808, 24, 0x0, 1), (0x800, 6, 0x808, 16, 0x0, 1),
   (0x800, 5, 0x808, 8, 0x0, 1), (0x800, 4, 0x808, 0, 0x0, 1), (0x800, 3, 0x804, 24, 0x0, 1),
   (0x800, 2, 0x804, 16, 0x0, 1), (0x800, 1, 0x804, 8, 0x0, 1), (0x800, 0, 0x804, 0, 0x0, 1),
   (0x900, 6, 0x908, 16, 0x0, 1), (0x900, 5, 0x908, 8, 0x0, 1), (0x900, 4, 0x904, 24, 0x0, 1),
   (0x900, 3, 0x904, 16, 0x0, 1), (0x900, 2, 0x904, 8, 0x0, 1), (0x900, 1, 0x908, 0, 0x0, 1),
   (0x900, 0, 0x904, 0, 0x0, 1), (0x1004, 8, 0x100c, 0, 0x100, 16), (0x1050, 2, 0x1054, 16, 0x100, 16),
   (0x1050, 1, 0x1054, 8, 0x100, 16), (0x1050, 0, 0x1054, 0, 0x100, 16), (0x2030, 4, 0x2038, 0, 0x100, 32),
   (0x2030, 3, 0x2034, 24, 0x100, 32), (0x2030, 2, 0x2034, 16, 0x100, 32), (0x2030, 1, 0x2034, 8, 0x100, 32),
   (0x2030, 0, 0x2034, 0, 0x100, 32), (0x2088, 1, 0x208c, 8, 0x100, 32), (0x2088, 0, 0x208c, 0, 0x100, 32)] ++
  [(0x4018, 5, 0x4020, 8, 0x100, 16), (0x4018, 4, 0x4020, 0, 0x100, 16), (0x4018, 3, 0x401c, 24, 0x100, 16),
   (0x4018, 2, 0x401c, 16, 0x100, 16), (0x4018, 1, 0x401c, 8, 0x100, 16), (0x4018, 0, 0x401c, 0, 0x100, 16),
   (0x5018, 4, 0x501c, 24, 0x200, 16), (0x5018, 3, 0x501c, 16, 0x200, 16), (0x5018, 2, 0x5004, 0, 0x200, 16),
   (0x5018, 1, 0x501c, 8, 0x200, 16), (0x5018, 0, 0x501c, 0, 0x200, 16), (0x5054, 3, 0x5058, 24, 0x200, 16),
   (0x5054, 2, 0x5058, 16, 0x200, 16), (0x5054, 1, 0x5058, 8, 0x200, 16), (0x5054, 0, 0x5058, 0, 0x200, 16),
   (0x7010, 2, 0x7014, 16, 0x80, 16), (0x7010, 1, 0x7014, 8, 0x80, 16), (0x7010, 0, 0x7014, 0, 0x80, 16),
   (0x7800, 3, 0x7804, 24, 0x0, 1), (0x7800, 2, 0x7804, 16, 0x0, 1), (0x7800, 1, 0x7804, 8, 0x0, 1),
   (0x7800, 0, 0x7804, 0, 0x0, 1), (0x8014, 7, 0x801c, 24, 0x80, 16), (0x8014, 6, 0x801c, 16, 0x80, 16),
   (0x8014, 5, 0x801c, 8, 0x80, 16), (0x8014, 4, 0x801c, 0, 0x80, 16), (0x8014, 3, 0x8018, 24, 0x80, 16),
   (0x8014, 2, 0x8018, 16, 0x80, 16), (0x8014, 1, 0x8018, 8, 0x80, 16), (0x8014, 0, 0x8018, 0, 0x80, 16)] ++
  [(0x9010, 6, 0x9018, 16, 0x80, 32), (0x9010, 5, 0x9018, 8, 0x80, 32), (0x9010, 4, 0x9018, 0, 0x80, 32),
   (0x9010, 3, 0x9014, 24, 0x80, 32), (0x9010, 2, 0x9014, 16, 0x80, 32), (0x9010, 1, 0x9014, 8, 0x80, 32),
   (0x9010, 0, 0x9014, 0, 0x80, 32), (0xa204, 2, 0xa208, 16, 0x0, 1), (0xa204, 1, 0xa208, 8, 0x0, 1),
   (0xa204, 0, 0xa208, 0, 0x0, 1), (0xb808, 3, 0xb80c, 24, 0x0, 1), (0xb808, 2, 0xb80c, 16, 0x0, 1),
   (0xb808, 1, 0xb80c, 8, 0x0, 1), (0xb808, 0, 0xb80c, 0, 0x0, 1)]

abbrev R.SYS_ID : Nat := 0x0
abbrev R.SYS_RST : Nat := 0x4
abbrev R.SYS_BOOT : Nat := 0x8
abbrev R.SYS_CTRL : Nat := 0xc
abbrev R.SYS_LC : Nat := 0x10
abbrev R.SYS_LCREQ : Nat := 0x14
abbrev R.SYS_MUTECFG : Nat := 0x18
abbrev R.SYS_FLAG : Nat := 0x1c
abbrev R.SYS_GSTALL : Nat := 0x20
abbrev R.SYS_GSCNT0 : Nat := 0x24
abbrev R.SYS_GSCNT1 : Nat := 0x28
abbrev R.TS_STAT : Nat := 0x40
abbrev R.TS_CTRL : Nat := 0x44
abbrev R.TS_FLAG : Nat := 0x48
abbrev R.TS_FCNT0 : Nat := 0x4c
abbrev R.TS_FCNT1 : Nat := 0x50
abbrev R.TS_TEMP : Nat := 0x54
abbrev R.TS_TLIM : Nat := 0x58
abbrev R.SYS_TRIP0 : Nat := 0x60
abbrev R.SYS_TRIP1 : Nat := 0x64
abbrev R.SYS_TRIP2 : Nat := 0x68
abbrev R.SYS_TRIP3 : Nat := 0x6c
abbrev R.FAB_CFG : Nat := 0x80
abbrev R.FAB_FLAG : Nat := 0x84
abbrev R.FAB_FCNT0 : Nat := 0x88
abbrev R.FAB_FCNT1 : Nat := 0x8c
abbrev R.FAB_ELOG0 : Nat := 0x90
abbrev R.FAB_ELOG1 : Nat := 0x94
abbrev R.FAB_PORT : Nat := 0x98
abbrev R.SYS_FCNT : Nat := 0xa0
abbrev R.SYS_DEVNUM_H : Nat := 0xa4
abbrev R.SYS_DEVNUM_L : Nat := 0xa8
abbrev R.CLK_STAT : Nat := 0x100
abbrev R.CLK_REFADJ : Nat := 0x104
abbrev R.CLK_REFBASE : Nat := 0x108
abbrev R.CLK_MSEL : Nat := 0x10c
abbrev R.CLK_MRES : Nat := 0x110
abbrev R.CLK_FLAG : Nat := 0x114
abbrev R.CLK_FCNT : Nat := 0x118
abbrev R.PWM_FSW : Nat := 0x140
abbrev R.PWM_FLAG : Nat := 0x144
abbrev R.PWM_FCNT : Nat := 0x148
abbrev R.PWM_NSC0 : Nat := 0x150
abbrev R.PWM_NSC1 : Nat := 0x154
abbrev R.PWM_NSC2 : Nat := 0x158
abbrev R.SNS_ROT : Nat := 0x180
abbrev R.SNS_RET : Nat := 0x184
abbrev R.SNS_POOL : Nat := 0x188
abbrev R.SNS_CALR0 : Nat := 0x18c
abbrev R.SNS_CALR1 : Nat := 0x190
abbrev R.SNS_DFLAG : Nat := 0x194
abbrev R.SNS_DFCNT : Nat := 0x198
abbrev R.RAIL_CFG0 : Nat := 0x1a0
abbrev R.RAIL_CFG1 : Nat := 0x1a4
abbrev R.RAIL_CFG2 : Nat := 0x1a8
abbrev R.RAIL_CFG3 : Nat := 0x1ac
abbrev R.RAIL_NOM0 : Nat := 0x1b0
abbrev R.RAIL_NOM1 : Nat := 0x1b4
abbrev R.RAIL_NOM2 : Nat := 0x1b8
abbrev R.RAIL_NOM3 : Nat := 0x1bc
abbrev R.RAIL_RES0 : Nat := 0x1c0
abbrev R.RAIL_RES1 : Nat := 0x1c4
abbrev R.RAIL_RES2 : Nat := 0x1c8
abbrev R.RAIL_RES3 : Nat := 0x1cc
abbrev R.RAIL_FLAG : Nat := 0x1d0
abbrev R.RAIL_FCNT0 : Nat := 0x1d4
abbrev R.RAIL_FCNT1 : Nat := 0x1d8
abbrev R.LANE_SHD : Nat := 0x1e0
abbrev R.LANE_POOL : Nat := 0x1e4
abbrev R.LANE_FLAG : Nat := 0x1e8
abbrev R.LANE_FCNT0 : Nat := 0x1ec
abbrev R.LANE_FCNT1 : Nat := 0x1f0
abbrev R.LANE_LAST : Nat := 0x1f4
abbrev R.IMG_STAT : Nat := 0x200
abbrev R.IMG_SEQ : Nat := 0x204
abbrev R.IMG_DIG0 : Nat := 0x208
abbrev R.IMG_DIG1 : Nat := 0x20c
abbrev R.IMG_DIG2 : Nat := 0x210
abbrev R.IMG_DIG3 : Nat := 0x214
abbrev R.IMG_DIG4 : Nat := 0x218
abbrev R.IMG_DIG5 : Nat := 0x21c
abbrev R.IMG_DIG6 : Nat := 0x220
abbrev R.IMG_DIG7 : Nat := 0x224
abbrev R.IMG_FLAG : Nat := 0x228
abbrev R.IMG_FCNT : Nat := 0x22c
abbrev R.QSPI_CTRL : Nat := 0x230
abbrev R.QSPI_ADDR : Nat := 0x234
abbrev R.QSPI_STAT : Nat := 0x238
abbrev R.QSPI_BPTR : Nat := 0x23c
abbrev R.QSPI_BDATA : Nat := 0x240
abbrev R.QSPI_ID : Nat := 0x260
abbrev R.IMG_NET : Nat := 0x264
abbrev R.HST_FLAG : Nat := 0x300
abbrev R.HST_FCNT0 : Nat := 0x304
abbrev R.HST_FCNT1 : Nat := 0x308
abbrev R.HST_FCNT2 : Nat := 0x30c
abbrev R.HST_CFG : Nat := 0x310
abbrev R.HST_GRP : Nat := 0x314
abbrev R.HST_REQ : Nat := 0x318
abbrev R.HST_REQST : Nat := 0x31c
abbrev R.HST_STAT : Nat := 0x320
abbrev R.MEM_FLAG : Nat := 0x400
abbrev R.MEM_FCNT0 : Nat := 0x404
abbrev R.MEM_FCNT1 : Nat := 0x408
abbrev R.MEM_ELOG0 : Nat := 0x40c
abbrev R.MEM_ELOG1 : Nat := 0x410
abbrev R.MEM_BSEL : Nat := 0x414
abbrev R.MEM_BSTAT : Nat := 0x418
abbrev R.MEM_RMAP : Nat := 0x41c
abbrev R.MEM_RCFG : Nat := 0x420
abbrev R.MEM_WIPE : Nat := 0x424
abbrev R.MEM_INJ : Nat := 0x428
abbrev R.BKG_CFG : Nat := 0x500
abbrev R.BKG_CTRL : Nat := 0x504
abbrev R.BKG_FLAG : Nat := 0x508
abbrev R.BKG_FCNT0 : Nat := 0x50c
abbrev R.BKG_FCNT1 : Nat := 0x510
abbrev R.BKG_SCRUB : Nat := 0x514
abbrev R.BKG_LOG0 : Nat := 0x518
abbrev R.BKG_LOG1 : Nat := 0x51c
abbrev R.BKG_LOG2 : Nat := 0x520
abbrev R.TWN_FLAG : Nat := 0x600
abbrev R.TWN_FCNT0 : Nat := 0x604
abbrev R.TWN_FCNT1 : Nat := 0x608
abbrev R.TWN_FCNT2 : Nat := 0x60c
abbrev R.TWN_FCNT3 : Nat := 0x610
abbrev R.TWN_CFG : Nat := 0x614
abbrev R.TWN_CTRL : Nat := 0x618
abbrev R.TWN_STAT : Nat := 0x61c
abbrev R.TWN_MARK : Nat := 0x620
abbrev R.TWN_LAST : Nat := 0x624
abbrev R.TWN_CDIG : Nat := 0x628
abbrev R.TWN_PDIG : Nat := 0x62c
abbrev R.TWN_LERR : Nat := 0x630
abbrev R.STR_FLAG : Nat := 0x700
abbrev R.STR_FCNT0 : Nat := 0x704
abbrev R.STR_FCNT1 : Nat := 0x708
abbrev R.STR_CFG : Nat := 0x70c
abbrev R.STR_STAT : Nat := 0x710
abbrev R.STR_LERR : Nat := 0x714
abbrev R.AIN_FLAG : Nat := 0x800
abbrev R.AIN_FCNT0 : Nat := 0x804
abbrev R.AIN_FCNT1 : Nat := 0x808
abbrev R.AIN_FCNT2 : Nat := 0x80c
abbrev R.PTP_CFG : Nat := 0x810
abbrev R.PTP_CTRL : Nat := 0x814
abbrev R.PTP_STAT : Nat := 0x818
abbrev R.PTP_OFFSET : Nat := 0x81c
abbrev R.PTP_FREQ : Nat := 0x820
abbrev R.PTP_GMID_H : Nat := 0x824
abbrev R.PTP_GMID_L : Nat := 0x828
abbrev R.AIN_SSEL : Nat := 0x830
abbrev R.AIN_SCFG (i : Nat) : Nat := 0x10000 + 0x20 * i
abbrev R.AIN_SADDRA (i : Nat) : Nat := 0x10004 + 0x20 * i
abbrev R.AIN_SADDRB (i : Nat) : Nat := 0x10008 + 0x20 * i
abbrev R.AIN_SPORT (i : Nat) : Nat := 0x1000c + 0x20 * i
abbrev R.AIN_SRTP (i : Nat) : Nat := 0x10010 + 0x20 * i
abbrev R.AIN_SSTAT (i : Nat) : Nat := 0x10014 + 0x20 * i
abbrev R.AIN_TDM0 : Nat := 0x850
abbrev R.AIN_TDM1 : Nat := 0x854
abbrev R.AIN_TDM2 : Nat := 0x858
abbrev R.AIN_TDM3 : Nat := 0x85c
abbrev R.AIN_CSSEL : Nat := 0x860
abbrev R.AIN_CSDATA : Nat := 0x864
abbrev R.AIN_MSEL0 : Nat := 0x868
abbrev R.AIN_MSEL1 : Nat := 0x86c
abbrev R.AIN_MSEL2 : Nat := 0x870
abbrev R.AIN_MSEL3 : Nat := 0x874
abbrev R.AIN_TMON : Nat := 0x878
abbrev R.AIN_AEST : Nat := 0x87c
abbrev R.AIN_AES0 : Nat := 0x880
abbrev R.AIN_AES1 : Nat := 0x884
abbrev R.AIN_AES2 : Nat := 0x888
abbrev R.AIN_AES3 : Nat := 0x88c
abbrev R.AIN_MIXPTR : Nat := 0x890
abbrev R.AIN_MIXDATA : Nat := 0x8a0
abbrev R.AIN_ROUTE0 : Nat := 0x8c0
abbrev R.AIN_ROUTE1 : Nat := 0x8c4
abbrev R.AIN_ROUTE2 : Nat := 0x8c8
abbrev R.AIN_ROUTE3 : Nat := 0x8cc
abbrev R.AIN_ROUTE4 : Nat := 0x8d0
abbrev R.AIN_ROUTE5 : Nat := 0x8d4
abbrev R.AIN_ROUTE6 : Nat := 0x8d8
abbrev R.AIN_ROUTE7 : Nat := 0x8dc
abbrev R.AIN_ROUTE8 : Nat := 0x8e0
abbrev R.AIN_ROUTE9 : Nat := 0x8e4
abbrev R.AIN_ROUTE10 : Nat := 0x8e8
abbrev R.AIN_ROUTE11 : Nat := 0x8ec
abbrev R.AIN_ROUTE12 : Nat := 0x8f0
abbrev R.AIN_ROUTE13 : Nat := 0x8f4
abbrev R.AIN_ROUTE14 : Nat := 0x8f8
abbrev R.AIN_ROUTE15 : Nat := 0x8fc
abbrev R.SCN_FLAG : Nat := 0x900
abbrev R.SCN_FCNT0 : Nat := 0x904
abbrev R.SCN_FCNT1 : Nat := 0x908
abbrev R.SCN_CFG : Nat := 0x910
abbrev R.SCN_MASK : Nat := 0x914
abbrev R.SCN_AT_L : Nat := 0x918
abbrev R.SCN_AT_H : Nat := 0x91c
abbrev R.SCN_ARM : Nat := 0x920
abbrev R.SCN_STAT : Nat := 0x924
abbrev R.SCN_NOW_L : Nat := 0x928
abbrev R.SCN_NOW_H : Nat := 0x92c
abbrev R.MB_CORE : Nat := 0x940
abbrev R.CH_LA (i : Nat) : Nat := 0x1000 + 0x100 * i
abbrev R.CH_MBST (i : Nat) : Nat := 0x1004 + 0x100 * i
abbrev R.CH_MUTE (i : Nat) : Nat := 0x1008 + 0x100 * i
abbrev R.CH_MBCNT (i : Nat) : Nat := 0x100c + 0x100 * i
abbrev R.CH_BPTR (i : Nat) : Nat := 0x1010 + 0x100 * i
abbrev R.CH_BDATA (i : Nat) : Nat := 0x1020 + 0x100 * i
abbrev R.CH_MOD (i : Nat) : Nat := 0x1040 + 0x100 * i
abbrev R.CH_TRP (i : Nat) : Nat := 0x1044 + 0x100 * i
abbrev R.CH_TRST (i : Nat) : Nat := 0x1048 + 0x100 * i
abbrev R.CH_TCLR (i : Nat) : Nat := 0x104c + 0x100 * i
abbrev R.CH_TFLAG (i : Nat) : Nat := 0x1050 + 0x100 * i
abbrev R.CH_TFCNT (i : Nat) : Nat := 0x1054 + 0x100 * i
abbrev R.MOD_CMPW (i : Nat) : Nat := 0x2000 + 0x100 * i
abbrev R.MOD_CMPS (i : Nat) : Nat := 0x2004 + 0x100 * i
abbrev R.MOD_STAT (i : Nat) : Nat := 0x2008 + 0x100 * i
abbrev R.MOD_DT (i : Nat) : Nat := 0x200c + 0x100 * i
abbrev R.MOD_LIM (i : Nat) : Nat := 0x2010 + 0x100 * i
abbrev R.MOD_TRGA (i : Nat) : Nat := 0x2014 + 0x100 * i
abbrev R.MOD_TRGB (i : Nat) : Nat := 0x2018 + 0x100 * i
abbrev R.MOD_DLH (i : Nat) : Nat := 0x2028 + 0x100 * i
abbrev R.MOD_DLL (i : Nat) : Nat := 0x202c + 0x100 * i
abbrev R.MOD_FLAG (i : Nat) : Nat := 0x2030 + 0x100 * i
abbrev R.MOD_FCNT0 (i : Nat) : Nat := 0x2034 + 0x100 * i
abbrev R.MOD_FCNT1 (i : Nat) : Nat := 0x2038 + 0x100 * i
abbrev R.MOD_HAPP (i : Nat) : Nat := 0x203c + 0x100 * i
abbrev R.TRP_CFG (i : Nat) : Nat := 0x2080 + 0x100 * i
abbrev R.TRP_STAT (i : Nat) : Nat := 0x2084 + 0x100 * i
abbrev R.TRP_FLAG (i : Nat) : Nat := 0x2088 + 0x100 * i
abbrev R.TRP_FCNT (i : Nat) : Nat := 0x208c + 0x100 * i
abbrev R.SNS_CFG (i : Nat) : Nat := 0x4000 + 0x100 * i
abbrev R.SNS_VFS (i : Nat) : Nat := 0x4004 + 0x100 * i
abbrev R.SNS_IFS (i : Nat) : Nat := 0x4008 + 0x100 * i
abbrev R.SNS_CMP (i : Nat) : Nat := 0x400c + 0x100 * i
abbrev R.SNS_RES (i : Nat) : Nat := 0x4010 + 0x100 * i
abbrev R.SNS_SLC (i : Nat) : Nat := 0x4014 + 0x100 * i
abbrev R.SNS_FLAG (i : Nat) : Nat := 0x4018 + 0x100 * i
abbrev R.SNS_FCNT0 (i : Nat) : Nat := 0x401c + 0x100 * i
abbrev R.SNS_FCNT1 (i : Nat) : Nat := 0x4020 + 0x100 * i
abbrev R.LPE_CTRL (i : Nat) : Nat := 0x5000 + 0x200 * i
abbrev R.LPE_CWCNT (i : Nat) : Nat := 0x5004 + 0x200 * i
abbrev R.LPE_LIM (i : Nat) : Nat := 0x5008 + 0x200 * i
abbrev R.LPE_ZOUT (i : Nat) : Nat := 0x500c + 0x200 * i
abbrev R.LPE_CWR (i : Nat) : Nat := 0x5010 + 0x200 * i
abbrev R.LPE_STAT (i : Nat) : Nat := 0x5014 + 0x200 * i
abbrev R.LPE_FLAG (i : Nat) : Nat := 0x5018 + 0x200 * i
abbrev R.LPE_FCNT (i : Nat) : Nat := 0x501c + 0x200 * i
abbrev R.LPE_PPTR (i : Nat) : Nat := 0x5020 + 0x200 * i
abbrev R.LPE_PCHK (i : Nat) : Nat := 0x5024 + 0x200 * i
abbrev R.LPE_LPTR (i : Nat) : Nat := 0x5028 + 0x200 * i
abbrev R.LPE_SLK (i : Nat) : Nat := 0x5040 + 0x200 * i
abbrev R.LPE_FE (i : Nat) : Nat := 0x5044 + 0x200 * i
abbrev R.LPE_FELIM (i : Nat) : Nat := 0x5048 + 0x200 * i
abbrev R.LPE_FEST (i : Nat) : Nat := 0x504c + 0x200 * i
abbrev R.LPE_INJ (i : Nat) : Nat := 0x5050 + 0x200 * i
abbrev R.LPE_OFLAG (i : Nat) : Nat := 0x5054 + 0x200 * i
abbrev R.LPE_OFCNT (i : Nat) : Nat := 0x5058 + 0x200 * i
abbrev R.LPE_OCTL (i : Nat) : Nat := 0x505c + 0x200 * i
abbrev R.LPE_PDATA (i : Nat) : Nat := 0x5100 + 0x200 * i
abbrev R.LPE_LDATA (i : Nat) : Nat := 0x5140 + 0x200 * i
abbrev R.SPK_PPTR (i : Nat) : Nat := 0x7000 + 0x80 * i
abbrev R.SPK_LPTR (i : Nat) : Nat := 0x7004 + 0x80 * i
abbrev R.SPK_STAT (i : Nat) : Nat := 0x7008 + 0x80 * i
abbrev R.SPK_XRES (i : Nat) : Nat := 0x700c + 0x80 * i
abbrev R.SPK_FLAG (i : Nat) : Nat := 0x7010 + 0x80 * i
abbrev R.SPK_FCNT (i : Nat) : Nat := 0x7014 + 0x80 * i
abbrev R.SPK_PDATA (i : Nat) : Nat := 0x7020 + 0x80 * i
abbrev R.SPK_LDATA (i : Nat) : Nat := 0x7040 + 0x80 * i
abbrev R.SPK_TRES0 (i : Nat) : Nat := 0x7060 + 0x80 * i
abbrev R.SPK_TRES1 (i : Nat) : Nat := 0x7064 + 0x80 * i
abbrev R.SPK_IDR0 (i : Nat) : Nat := 0x7068 + 0x80 * i
abbrev R.SPK_IDR1 (i : Nat) : Nat := 0x706c + 0x80 * i
abbrev R.SPK_IDR2 (i : Nat) : Nat := 0x7070 + 0x80 * i
abbrev R.SPK_IDR3 (i : Nat) : Nat := 0x7074 + 0x80 * i
abbrev R.SPK_IDR4 (i : Nat) : Nat := 0x7078 + 0x80 * i
abbrev R.SPK_IDR5 (i : Nat) : Nat := 0x707c + 0x80 * i
abbrev R.VENT_FLAG : Nat := 0x7800
abbrev R.VENT_FCNT : Nat := 0x7804
abbrev R.VENT_STAT : Nat := 0x7808
abbrev R.VENT_CTRL : Nat := 0x780c
abbrev R.VENT_TAMB : Nat := 0x7810
abbrev R.DIA_PCFG (i : Nat) : Nat := 0x8000 + 0x80 * i
abbrev R.DIA_TCFG (i : Nat) : Nat := 0x8004 + 0x80 * i
abbrev R.DIA_LCFG (i : Nat) : Nat := 0x8008 + 0x80 * i
abbrev R.DIA_LCFG2 (i : Nat) : Nat := 0x800c + 0x80 * i
abbrev R.DIA_STAT (i : Nat) : Nat := 0x8010 + 0x80 * i
abbrev R.DIA_FLAG (i : Nat) : Nat := 0x8014 + 0x80 * i
abbrev R.DIA_FCNT0 (i : Nat) : Nat := 0x8018 + 0x80 * i
abbrev R.DIA_FCNT1 (i : Nat) : Nat := 0x801c + 0x80 * i
abbrev R.DIA_PRES0 (i : Nat) : Nat := 0x8020 + 0x80 * i
abbrev R.DIA_PRES1 (i : Nat) : Nat := 0x8024 + 0x80 * i
abbrev R.DIA_PRES2 (i : Nat) : Nat := 0x8028 + 0x80 * i
abbrev R.DIA_LRES0 (i : Nat) : Nat := 0x802c + 0x80 * i
abbrev R.DIA_LRES1 (i : Nat) : Nat := 0x8030 + 0x80 * i
abbrev R.DIA_SWCFG (i : Nat) : Nat := 0x8034 + 0x80 * i
abbrev R.DIA_SWCFG2 (i : Nat) : Nat := 0x8038 + 0x80 * i
abbrev R.DIA_SWCTRL (i : Nat) : Nat := 0x803c + 0x80 * i
abbrev R.DIA_SWSTAT (i : Nat) : Nat := 0x8040 + 0x80 * i
abbrev R.DIA_SWSUM0 (i : Nat) : Nat := 0x8044 + 0x80 * i
abbrev R.DIA_SWSUM1 (i : Nat) : Nat := 0x8048 + 0x80 * i
abbrev R.DIA_SWSUM2 (i : Nat) : Nat := 0x804c + 0x80 * i
abbrev R.DIA_SWSUM3 (i : Nat) : Nat := 0x8050 + 0x80 * i
abbrev R.DIA_SWPTR (i : Nat) : Nat := 0x8054 + 0x80 * i
abbrev R.DIA_SWDATA (i : Nat) : Nat := 0x8060 + 0x80 * i
abbrev R.DIA_SUM : Nat := 0x8800
abbrev R.RNG_CFG (i : Nat) : Nat := 0x9000 + 0x80 * i
abbrev R.RNG_WPTR (i : Nat) : Nat := 0x9004 + 0x80 * i
abbrev R.RNG_RPTR (i : Nat) : Nat := 0x9008 + 0x80 * i
abbrev R.RNG_STAT (i : Nat) : Nat := 0x900c + 0x80 * i
abbrev R.RNG_FLAG (i : Nat) : Nat := 0x9010 + 0x80 * i
abbrev R.RNG_FCNT0 (i : Nat) : Nat := 0x9014 + 0x80 * i
abbrev R.RNG_FCNT1 (i : Nat) : Nat := 0x9018 + 0x80 * i
abbrev R.RNG_LOST (i : Nat) : Nat := 0x901c + 0x80 * i
abbrev R.RNG_WDATA0 (i : Nat) : Nat := 0x9020 + 0x80 * i
abbrev R.RNG_WDATA1 (i : Nat) : Nat := 0x9024 + 0x80 * i
abbrev R.RNG_WDATA2 (i : Nat) : Nat := 0x9028 + 0x80 * i
abbrev R.RNG_WDATA3 (i : Nat) : Nat := 0x902c + 0x80 * i
abbrev R.RNG_RDATA0 (i : Nat) : Nat := 0x9040 + 0x80 * i
abbrev R.RNG_RDATA1 (i : Nat) : Nat := 0x9044 + 0x80 * i
abbrev R.RNG_RDATA2 (i : Nat) : Nat := 0x9048 + 0x80 * i
abbrev R.RNG_RDATA3 (i : Nat) : Nat := 0x904c + 0x80 * i
abbrev R.TRC_CFG (i : Nat) : Nat := 0xa000 + 0x20 * i
abbrev R.TRC_NODE0 (i : Nat) : Nat := 0xa004 + 0x20 * i
abbrev R.TRC_NODE1 (i : Nat) : Nat := 0xa008 + 0x20 * i
abbrev R.TRC_TRIG (i : Nat) : Nat := 0xa00c + 0x20 * i
abbrev R.TRC_IDX (i : Nat) : Nat := 0xa010 + 0x20 * i
abbrev R.TRC_CTRL (i : Nat) : Nat := 0xa014 + 0x20 * i
abbrev R.TRC_RPTR : Nat := 0xa200
abbrev R.TRC_FLAG : Nat := 0xa204
abbrev R.TRC_FCNT : Nat := 0xa208
abbrev R.TRC_RDATA : Nat := 0xa220
abbrev R.MGR_NODE (i : Nat) : Nat := 0xb000 + 0x4 * i
abbrev R.MGR_NVALID : Nat := 0xb800
abbrev R.MGR_STAT : Nat := 0xb804
abbrev R.MGR_FLAG : Nat := 0xb808
abbrev R.MGR_FCNT : Nat := 0xb80c
abbrev R.MGR_CQHDR : Nat := 0xb810
abbrev R.MGR_CQT0 : Nat := 0xb814
abbrev R.MGR_CQT1 : Nat := 0xb818
abbrev R.MGR_CQT2 : Nat := 0xb81c
abbrev R.MGR_CQDATA0 : Nat := 0xb820
abbrev R.MGR_CQDATA1 : Nat := 0xb824
abbrev R.MGR_CQDATA2 : Nat := 0xb828
abbrev R.MGR_CQDATA3 : Nat := 0xb82c
abbrev R.MGR_CQDATA4 : Nat := 0xb830
abbrev R.MGR_CQDATA5 : Nat := 0xb834
abbrev R.MGR_CQDATA6 : Nat := 0xb838
abbrev R.MGR_CQDATA7 : Nat := 0xb83c
abbrev R.MGR_CQCTRL : Nat := 0xb840
abbrev R.MGR_CQRES0 : Nat := 0xb844
abbrev R.MGR_CQRES1 : Nat := 0xb848
abbrev R.MGR_CQRES2 : Nat := 0xb84c

abbrev F.SYS_ID_ID : Fld := ⟨0x0, 31, 0⟩
abbrev F.SYS_RST_DEBUG : Fld := ⟨0x4, 5, 5⟩
abbrev F.SYS_RST_LCYCLE : Fld := ⟨0x4, 4, 4⟩
abbrev F.SYS_RST_SOFT : Fld := ⟨0x4, 3, 3⟩
abbrev F.SYS_RST_PIN : Fld := ⟨0x4, 2, 2⟩
abbrev F.SYS_RST_SUPPLY : Fld := ⟨0x4, 1, 1⟩
abbrev F.SYS_RST_POWER : Fld := ⟨0x4, 0, 0⟩
abbrev F.SYS_BOOT_BSTATE : Fld := ⟨0x8, 31, 29⟩
abbrev F.SYS_BOOT_BOOTSEL : Fld := ⟨0x8, 25, 24⟩
abbrev F.SYS_BOOT_ROLE : Fld := ⟨0x8, 23, 23⟩
abbrev F.SYS_BOOT_MGR : Fld := ⟨0x8, 22, 22⟩
abbrev F.SYS_BOOT_RDY_MS : Fld := ⟨0x8, 15, 0⟩
abbrev F.SYS_CTRL_FW_RDY : Fld := ⟨0xc, 16, 16⟩
abbrev F.SYS_CTRL_SWRST : Fld := ⟨0xc, 8, 8⟩
abbrev F.SYS_CTRL_RST_KEY : Fld := ⟨0xc, 7, 0⟩
abbrev F.SYS_LC_CRED_OK : Fld := ⟨0x10, 20, 20⟩
abbrev F.SYS_LC_CRED_PRG : Fld := ⟨0x10, 19, 19⟩
abbrev F.SYS_LC_REV1 : Fld := ⟨0x10, 18, 18⟩
abbrev F.SYS_LC_REV0 : Fld := ⟨0x10, 17, 17⟩
abbrev F.SYS_LC_KEY1 : Fld := ⟨0x10, 16, 16⟩
abbrev F.SYS_LC_KEY0 : Fld := ⟨0x10, 15, 15⟩
abbrev F.SYS_LC_NBLOWN : Fld := ⟨0x10, 12, 8⟩
abbrev F.SYS_LC_STATE : Fld := ⟨0x10, 2, 0⟩
abbrev F.SYS_LCREQ_REASON : Fld := ⟨0x14, 19, 16⟩
abbrev F.SYS_LCREQ_GO : Fld := ⟨0x14, 8, 8⟩
abbrev F.SYS_LCREQ_TARGET : Fld := ⟨0x14, 2, 0⟩
abbrev F.SYS_MUTECFG_PIN_EN : Fld := ⟨0x18, 31, 31⟩
abbrev F.SYS_MUTECFG_WAIT_PTP : Fld := ⟨0x18, 30, 30⟩
abbrev F.SYS_MUTECFG_SETTLE : Fld := ⟨0x18, 23, 16⟩
abbrev F.SYS_MUTECFG_RAMP : Fld := ⟨0x18, 7, 0⟩
abbrev F.SYS_FLAG_MUTE_PIN : Fld := ⟨0x1c, 2, 2⟩
abbrev F.SYS_FLAG_LC_REFUSED : Fld := ⟨0x1c, 1, 1⟩
abbrev F.SYS_FLAG_FW_TMO : Fld := ⟨0x1c, 0, 0⟩
abbrev F.SYS_GSTALL_GD7_STALL : Fld := ⟨0x20, 6, 6⟩
abbrev F.SYS_GSTALL_GD6_STALL : Fld := ⟨0x20, 5, 5⟩
abbrev F.SYS_GSTALL_GD5_STALL : Fld := ⟨0x20, 4, 4⟩
abbrev F.SYS_GSTALL_GD4_STALL : Fld := ⟨0x20, 3, 3⟩
abbrev F.SYS_GSTALL_GD3_STALL : Fld := ⟨0x20, 2, 2⟩
abbrev F.SYS_GSTALL_GD2_STALL : Fld := ⟨0x20, 1, 1⟩
abbrev F.SYS_GSTALL_GD1_STALL : Fld := ⟨0x20, 0, 0⟩
abbrev F.SYS_GSCNT0_GD4_CNT : Fld := ⟨0x24, 31, 24⟩
abbrev F.SYS_GSCNT0_GD3_CNT : Fld := ⟨0x24, 23, 16⟩
abbrev F.SYS_GSCNT0_GD2_CNT : Fld := ⟨0x24, 15, 8⟩
abbrev F.SYS_GSCNT0_GD1_CNT : Fld := ⟨0x24, 7, 0⟩
abbrev F.SYS_GSCNT1_GD7_CNT : Fld := ⟨0x28, 23, 16⟩
abbrev F.SYS_GSCNT1_GD6_CNT : Fld := ⟨0x28, 15, 8⟩
abbrev F.SYS_GSCNT1_GD5_CNT : Fld := ⟨0x28, 7, 0⟩
abbrev F.TS_STAT_DEV_SAFE_NOW : Fld := ⟨0x40, 31, 31⟩
abbrev F.TS_STAT_LOCKED : Fld := ⟨0x40, 30, 30⟩
abbrev F.TS_STAT_CAUSE : Fld := ⟨0x40, 12, 0⟩
abbrev F.TS_CTRL_LOCK : Fld := ⟨0x44, 8, 8⟩
abbrev F.TS_CTRL_CLR : Fld := ⟨0x44, 1, 1⟩
abbrev F.TS_CTRL_FORCE : Fld := ⟨0x44, 0, 0⟩
abbrev F.TS_FLAG_CFG_LOCKED : Fld := ⟨0x48, 8, 8⟩
abbrev F.TS_FLAG_XTAL_CLK : Fld := ⟨0x48, 7, 7⟩
abbrev F.TS_FLAG_TWIN_CLK : Fld := ⟨0x48, 6, 6⟩
abbrev F.TS_FLAG_MGMT_CLK : Fld := ⟨0x48, 5, 5⟩
abbrev F.TS_FLAG_NET_CLK : Fld := ⟨0x48, 4, 4⟩
abbrev F.TS_FLAG_TEMP_WARN : Fld := ⟨0x48, 3, 3⟩
abbrev F.TS_FLAG_CLR_REFUSED : Fld := ⟨0x48, 2, 2⟩
abbrev F.TS_FLAG_DEV_SAFE : Fld := ⟨0x48, 0, 0⟩
abbrev F.TS_FCNT0_NET_CLK_CNT : Fld := ⟨0x4c, 31, 24⟩
abbrev F.TS_FCNT0_TEMP_WARN_CNT : Fld := ⟨0x4c, 23, 16⟩
abbrev F.TS_FCNT0_CLR_REFUSED_CNT : Fld := ⟨0x4c, 15, 8⟩
abbrev F.TS_FCNT0_DEV_SAFE_CNT : Fld := ⟨0x4c, 7, 0⟩
abbrev F.TS_FCNT1_CFG_LOCKED_CNT : Fld := ⟨0x50, 31, 24⟩
abbrev F.TS_FCNT1_XTAL_CLK_CNT : Fld := ⟨0x50, 23, 16⟩
abbrev F.TS_FCNT1_TWIN_CLK_CNT : Fld := ⟨0x50, 15, 8⟩
abbrev F.TS_FCNT1_MGMT_CLK_CNT : Fld := ⟨0x50, 7, 0⟩
abbrev F.TS_TEMP_SEQ : Fld := ⟨0x54, 31, 16⟩
abbrev F.TS_TEMP_TEMP : Fld := ⟨0x54, 15, 0⟩
abbrev F.TS_TLIM_TEMP_TRIP : Fld := ⟨0x58, 15, 8⟩
abbrev F.TS_TLIM_TEMP_WARN : Fld := ⟨0x58, 7, 0⟩
abbrev F.SYS_TRIP0_ACT : Fld := ⟨0x60, 31, 30⟩
abbrev F.SYS_TRIP0_FILT : Fld := ⟨0x60, 27, 24⟩
abbrev F.SYS_TRIP0_IN_ACT : Fld := ⟨0x60, 16, 16⟩
abbrev F.SYS_TRIP0_CH_MASK : Fld := ⟨0x60, 15, 0⟩
abbrev F.SYS_TRIP1_ACT : Fld := ⟨0x64, 31, 30⟩
abbrev F.SYS_TRIP1_FILT : Fld := ⟨0x64, 27, 24⟩
abbrev F.SYS_TRIP1_IN_ACT : Fld := ⟨0x64, 16, 16⟩
abbrev F.SYS_TRIP1_CH_MASK : Fld := ⟨0x64, 15, 0⟩
abbrev F.SYS_TRIP2_ACT : Fld := ⟨0x68, 31, 30⟩
abbrev F.SYS_TRIP2_FILT : Fld := ⟨0x68, 27, 24⟩
abbrev F.SYS_TRIP2_IN_ACT : Fld := ⟨0x68, 16, 16⟩
abbrev F.SYS_TRIP2_CH_MASK : Fld := ⟨0x68, 15, 0⟩
abbrev F.SYS_TRIP3_ACT : Fld := ⟨0x6c, 31, 30⟩
abbrev F.SYS_TRIP3_FILT : Fld := ⟨0x6c, 27, 24⟩
abbrev F.SYS_TRIP3_IN_ACT : Fld := ⟨0x6c, 16, 16⟩
abbrev F.SYS_TRIP3_CH_MASK : Fld := ⟨0x6c, 15, 0⟩
abbrev F.FAB_CFG_PARK_DEF : Fld := ⟨0x80, 0, 0⟩
abbrev F.FAB_FLAG_PORT_DOWN : Fld := ⟨0x84, 4, 4⟩
abbrev F.FAB_FLAG_BURST_CUT : Fld := ⟨0x84, 3, 3⟩
abbrev F.FAB_FLAG_UE_RESP : Fld := ⟨0x84, 2, 2⟩
abbrev F.FAB_FLAG_TIMEOUT : Fld := ⟨0x84, 1, 1⟩
abbrev F.FAB_FLAG_DECERR : Fld := ⟨0x84, 0, 0⟩
abbrev F.FAB_FCNT0_BURST_CUT_CNT : Fld := ⟨0x88, 31, 24⟩
abbrev F.FAB_FCNT0_UE_RESP_CNT : Fld := ⟨0x88, 23, 16⟩
abbrev F.FAB_FCNT0_TIMEOUT_CNT : Fld := ⟨0x88, 15, 8⟩
abbrev F.FAB_FCNT0_DECERR_CNT : Fld := ⟨0x88, 7, 0⟩
abbrev F.FAB_FCNT1_PORT_DOWN_CNT : Fld := ⟨0x8c, 7, 0⟩
abbrev F.FAB_ELOG0_SEQ : Fld := ⟨0x90, 31, 16⟩
abbrev F.FAB_ELOG0_MASTER : Fld := ⟨0x90, 15, 12⟩
abbrev F.FAB_ELOG0_TARGET : Fld := ⟨0x90, 11, 8⟩
abbrev F.FAB_ELOG0_WRITE : Fld := ⟨0x90, 7, 7⟩
abbrev F.FAB_ELOG0_KIND : Fld := ⟨0x90, 1, 0⟩
abbrev F.FAB_ELOG1_ADDR : Fld := ⟨0x94, 31, 0⟩
abbrev F.FAB_PORT_DOWN : Fld := ⟨0x98, 14, 0⟩
abbrev F.SYS_FCNT_MUTE_PIN_CNT : Fld := ⟨0xa0, 23, 16⟩
abbrev F.SYS_FCNT_LC_REFUSED_CNT : Fld := ⟨0xa0, 15, 8⟩
abbrev F.SYS_FCNT_FW_TMO_CNT : Fld := ⟨0xa0, 7, 0⟩
abbrev F.SYS_DEVNUM_H_DEVNUM : Fld := ⟨0xa4, 31, 0⟩
abbrev F.SYS_DEVNUM_L_DEVNUM : Fld := ⟨0xa8, 31, 0⟩
abbrev F.CLK_STAT_REF_MODE : Fld := ⟨0x100, 9, 8⟩
abbrev F.CLK_STAT_TWIN_PD : Fld := ⟨0x100, 4, 4⟩
abbrev F.CLK_STAT_TWIN_LOCK : Fld := ⟨0x100, 3, 3⟩
abbrev F.CLK_STAT_NET_LOCK : Fld := ⟨0x100, 2, 2⟩
abbrev F.CLK_STAT_SYS_LOCK : Fld := ⟨0x100, 1, 1⟩
abbrev F.CLK_STAT_MEDIA_LOCK : Fld := ⟨0x100, 0, 0⟩
abbrev F.CLK_REFADJ_SERVO : Fld := ⟨0x104, 23, 0⟩
abbrev F.CLK_REFBASE_BASE : Fld := ⟨0x108, 23, 0⟩
abbrev F.CLK_MSEL_CLK : Fld := ⟨0x10c, 3, 0⟩
abbrev F.CLK_MRES_SEQ : Fld := ⟨0x110, 31, 16⟩
abbrev F.CLK_MRES_CLK : Fld := ⟨0x110, 15, 12⟩
abbrev F.CLK_MRES_DEV : Fld := ⟨0x110, 11, 0⟩
abbrev F.CLK_FLAG_TWIN_UNLOCK : Fld := ⟨0x114, 2, 2⟩
abbrev F.CLK_FLAG_NET_UNLOCK : Fld := ⟨0x114, 1, 1⟩
abbrev F.CLK_FLAG_SYS_UNLOCK : Fld := ⟨0x114, 0, 0⟩
abbrev F.CLK_FCNT_TWIN_UNLOCK_CNT : Fld := ⟨0x118, 23, 16⟩
abbrev F.CLK_FCNT_NET_UNLOCK_CNT : Fld := ⟨0x118, 15, 8⟩
abbrev F.CLK_FCNT_SYS_UNLOCK_CNT : Fld := ⟨0x118, 7, 0⟩
abbrev F.PWM_FSW_K_LIVE : Fld := ⟨0x140, 18, 16⟩
abbrev F.PWM_FSW_K_SEL : Fld := ⟨0x140, 2, 0⟩
abbrev F.PWM_FLAG_MOD_REFUSED : Fld := ⟨0x144, 1, 1⟩
abbrev F.PWM_FLAG_FSW_REFUSED : Fld := ⟨0x144, 0, 0⟩
abbrev F.PWM_FCNT_MOD_REFUSED_CNT : Fld := ⟨0x148, 15, 8⟩
abbrev F.PWM_FCNT_FSW_REFUSED_CNT : Fld := ⟨0x148, 7, 0⟩
abbrev F.PWM_NSC0_A2 : Fld := ⟨0x150, 31, 16⟩
abbrev F.PWM_NSC0_A1 : Fld := ⟨0x150, 15, 0⟩
abbrev F.PWM_NSC1_A4 : Fld := ⟨0x154, 31, 16⟩
abbrev F.PWM_NSC1_A3 : Fld := ⟨0x154, 15, 0⟩
abbrev F.PWM_NSC2_A5 : Fld := ⟨0x158, 15, 0⟩
abbrev F.SNS_ROT_SWAP_TOL : Fld := ⟨0x180, 15, 8⟩
abbrev F.SNS_ROT_ROT_EN : Fld := ⟨0x180, 0, 0⟩
abbrev F.SNS_RET_RETIRED : Fld := ⟨0x184, 31, 0⟩
abbrev F.SNS_POOL_CAL : Fld := ⟨0x188, 29, 24⟩
abbrev F.SNS_POOL_SPARE_B : Fld := ⟨0x188, 21, 16⟩
abbrev F.SNS_POOL_SPARE_A : Fld := ⟨0x188, 13, 8⟩
abbrev F.SNS_POOL_RETIRED : Fld := ⟨0x188, 1, 0⟩
abbrev F.SNS_CALR0_SEQ : Fld := ⟨0x18c, 31, 16⟩
abbrev F.SNS_CALR0_SLICE : Fld := ⟨0x18c, 13, 8⟩
abbrev F.SNS_CALR0_PASS : Fld := ⟨0x18c, 0, 0⟩
abbrev F.SNS_CALR1_GAIN : Fld := ⟨0x190, 31, 16⟩
abbrev F.SNS_CALR1_OFFS : Fld := ⟨0x190, 15, 0⟩
abbrev F.SNS_DFLAG_NO_SPARE : Fld := ⟨0x194, 3, 3⟩
abbrev F.SNS_DFLAG_RETIRE : Fld := ⟨0x194, 2, 2⟩
abbrev F.SNS_DFLAG_SWAP_MISMATCH : Fld := ⟨0x194, 1, 1⟩
abbrev F.SNS_DFLAG_SWAP : Fld := ⟨0x194, 0, 0⟩
abbrev F.SNS_DFCNT_NO_SPARE_CNT : Fld := ⟨0x198, 31, 24⟩
abbrev F.SNS_DFCNT_RETIRE_CNT : Fld := ⟨0x198, 23, 16⟩
abbrev F.SNS_DFCNT_SWAP_MISMATCH_CNT : Fld := ⟨0x198, 15, 8⟩
abbrev F.SNS_DFCNT_SWAP_CNT : Fld := ⟨0x198, 7, 0⟩
abbrev F.RAIL_CFG0_OV_EN : Fld := ⟨0x1a0, 31, 31⟩
abbrev F.RAIL_CFG0_UV_EN : Fld := ⟨0x1a0, 30, 30⟩
abbrev F.RAIL_CFG0_AVG : Fld := ⟨0x1a0, 29, 28⟩
abbrev F.RAIL_CFG0_OV_LIM : Fld := ⟨0x1a0, 27, 16⟩
abbrev F.RAIL_CFG0_UV_LIM : Fld := ⟨0x1a0, 11, 0⟩
abbrev F.RAIL_CFG1_OV_EN : Fld := ⟨0x1a4, 31, 31⟩
abbrev F.RAIL_CFG1_UV_EN : Fld := ⟨0x1a4, 30, 30⟩
abbrev F.RAIL_CFG1_AVG : Fld := ⟨0x1a4, 29, 28⟩
abbrev F.RAIL_CFG1_OV_LIM : Fld := ⟨0x1a4, 27, 16⟩
abbrev F.RAIL_CFG1_UV_LIM : Fld := ⟨0x1a4, 11, 0⟩
abbrev F.RAIL_CFG2_OV_EN : Fld := ⟨0x1a8, 31, 31⟩
abbrev F.RAIL_CFG2_UV_EN : Fld := ⟨0x1a8, 30, 30⟩
abbrev F.RAIL_CFG2_AVG : Fld := ⟨0x1a8, 29, 28⟩
abbrev F.RAIL_CFG2_OV_LIM : Fld := ⟨0x1a8, 27, 16⟩
abbrev F.RAIL_CFG2_UV_LIM : Fld := ⟨0x1a8, 11, 0⟩
abbrev F.RAIL_CFG3_OV_EN : Fld := ⟨0x1ac, 31, 31⟩
abbrev F.RAIL_CFG3_UV_EN : Fld := ⟨0x1ac, 30, 30⟩
abbrev F.RAIL_CFG3_AVG : Fld := ⟨0x1ac, 29, 28⟩
abbrev F.RAIL_CFG3_OV_LIM : Fld := ⟨0x1ac, 27, 16⟩
abbrev F.RAIL_CFG3_UV_LIM : Fld := ⟨0x1ac, 11, 0⟩
abbrev F.RAIL_NOM0_CH_MASK : Fld := ⟨0x1b0, 31, 16⟩
abbrev F.RAIL_NOM0_NOM : Fld := ⟨0x1b0, 11, 0⟩
abbrev F.RAIL_NOM1_CH_MASK : Fld := ⟨0x1b4, 31, 16⟩
abbrev F.RAIL_NOM1_NOM : Fld := ⟨0x1b4, 11, 0⟩
abbrev F.RAIL_NOM2_CH_MASK : Fld := ⟨0x1b8, 31, 16⟩
abbrev F.RAIL_NOM2_NOM : Fld := ⟨0x1b8, 11, 0⟩
abbrev F.RAIL_NOM3_CH_MASK : Fld := ⟨0x1bc, 31, 16⟩
abbrev F.RAIL_NOM3_NOM : Fld := ⟨0x1bc, 11, 0⟩
abbrev F.RAIL_RES0_RFF : Fld := ⟨0x1c0, 31, 16⟩
abbrev F.RAIL_RES0_CODE : Fld := ⟨0x1c0, 11, 0⟩
abbrev F.RAIL_RES1_RFF : Fld := ⟨0x1c4, 31, 16⟩
abbrev F.RAIL_RES1_CODE : Fld := ⟨0x1c4, 11, 0⟩
abbrev F.RAIL_RES2_RFF : Fld := ⟨0x1c8, 31, 16⟩
abbrev F.RAIL_RES2_CODE : Fld := ⟨0x1c8, 11, 0⟩
abbrev F.RAIL_RES3_RFF : Fld := ⟨0x1cc, 31, 16⟩
abbrev F.RAIL_RES3_CODE : Fld := ⟨0x1cc, 11, 0⟩
abbrev F.RAIL_FLAG_UV3 : Fld := ⟨0x1d0, 7, 7⟩
abbrev F.RAIL_FLAG_UV2 : Fld := ⟨0x1d0, 6, 6⟩
abbrev F.RAIL_FLAG_UV1 : Fld := ⟨0x1d0, 5, 5⟩
abbrev F.RAIL_FLAG_UV0 : Fld := ⟨0x1d0, 4, 4⟩
abbrev F.RAIL_FLAG_OV3 : Fld := ⟨0x1d0, 3, 3⟩
abbrev F.RAIL_FLAG_OV2 : Fld := ⟨0x1d0, 2, 2⟩
abbrev F.RAIL_FLAG_OV1 : Fld := ⟨0x1d0, 1, 1⟩
abbrev F.RAIL_FLAG_OV0 : Fld := ⟨0x1d0, 0, 0⟩
abbrev F.RAIL_FCNT0_OV3_CNT : Fld := ⟨0x1d4, 31, 24⟩
abbrev F.RAIL_FCNT0_OV2_CNT : Fld := ⟨0x1d4, 23, 16⟩
abbrev F.RAIL_FCNT0_OV1_CNT : Fld := ⟨0x1d4, 15, 8⟩
abbrev F.RAIL_FCNT0_OV0_CNT : Fld := ⟨0x1d4, 7, 0⟩
abbrev F.RAIL_FCNT1_UV3_CNT : Fld := ⟨0x1d8, 31, 24⟩
abbrev F.RAIL_FCNT1_UV2_CNT : Fld := ⟨0x1d8, 23, 16⟩
abbrev F.RAIL_FCNT1_UV1_CNT : Fld := ⟨0x1d8, 15, 8⟩
abbrev F.RAIL_FCNT1_UV0_CNT : Fld := ⟨0x1d8, 7, 0⟩
abbrev F.LANE_SHD_CONFIRM : Fld := ⟨0x1e0, 24, 24⟩
abbrev F.LANE_SHD_SLOT : Fld := ⟨0x1e0, 20, 16⟩
abbrev F.LANE_SHD_FCH : Fld := ⟨0x1e0, 11, 8⟩
abbrev F.LANE_SHD_FSWAP : Fld := ⟨0x1e0, 1, 1⟩
abbrev F.LANE_SHD_SHD_EN : Fld := ⟨0x1e0, 0, 0⟩
abbrev F.LANE_POOL_SPARE : Fld := ⟨0x1e4, 28, 24⟩
abbrev F.LANE_POOL_RETIRED : Fld := ⟨0x1e4, 16, 0⟩
abbrev F.LANE_FLAG_FSWAP_REFUSED : Fld := ⟨0x1e8, 4, 4⟩
abbrev F.LANE_FLAG_NO_SPARE : Fld := ⟨0x1e8, 3, 3⟩
abbrev F.LANE_FLAG_RETIRE : Fld := ⟨0x1e8, 2, 2⟩
abbrev F.LANE_FLAG_LANE_SWAP : Fld := ⟨0x1e8, 1, 1⟩
abbrev F.LANE_FLAG_MISMATCH : Fld := ⟨0x1e8, 0, 0⟩
abbrev F.LANE_FCNT0_NO_SPARE_CNT : Fld := ⟨0x1ec, 31, 24⟩
abbrev F.LANE_FCNT0_RETIRE_CNT : Fld := ⟨0x1ec, 23, 16⟩
abbrev F.LANE_FCNT0_LANE_SWAP_CNT : Fld := ⟨0x1ec, 15, 8⟩
abbrev F.LANE_FCNT0_MISMATCH_CNT : Fld := ⟨0x1ec, 7, 0⟩
abbrev F.LANE_FCNT1_FSWAP_REFUSED_CNT : Fld := ⟨0x1f0, 7, 0⟩
abbrev F.LANE_LAST_SEQ : Fld := ⟨0x1f4, 31, 16⟩
abbrev F.LANE_LAST_UE : Fld := ⟨0x1f4, 13, 13⟩
abbrev F.LANE_LAST_LANE : Fld := ⟨0x1f4, 12, 8⟩
abbrev F.LANE_LAST_CH : Fld := ⟨0x1f4, 3, 0⟩
abbrev F.IMG_STAT_SLOT : Fld := ⟨0x200, 31, 30⟩
abbrev F.IMG_STAT_SIGNED : Fld := ⟨0x200, 29, 29⟩
abbrev F.IMG_STAT_KEY_ID : Fld := ⟨0x200, 28, 28⟩
abbrev F.IMG_STAT_QREAD : Fld := ⟨0x200, 27, 27⟩
abbrev F.IMG_STAT_NSECT_DIFF : Fld := ⟨0x200, 26, 26⟩
abbrev F.IMG_STAT_RSN_A : Fld := ⟨0x200, 15, 8⟩
abbrev F.IMG_STAT_RSN_B : Fld := ⟨0x200, 7, 0⟩
abbrev F.IMG_SEQ_SEQ : Fld := ⟨0x204, 31, 0⟩
abbrev F.IMG_DIG0_DIG : Fld := ⟨0x208, 31, 0⟩
abbrev F.IMG_DIG1_DIG : Fld := ⟨0x20c, 31, 0⟩
abbrev F.IMG_DIG2_DIG : Fld := ⟨0x210, 31, 0⟩
abbrev F.IMG_DIG3_DIG : Fld := ⟨0x214, 31, 0⟩
abbrev F.IMG_DIG4_DIG : Fld := ⟨0x218, 31, 0⟩
abbrev F.IMG_DIG5_DIG : Fld := ⟨0x21c, 31, 0⟩
abbrev F.IMG_DIG6_DIG : Fld := ⟨0x220, 31, 0⟩
abbrev F.IMG_DIG7_DIG : Fld := ⟨0x224, 31, 0⟩
abbrev F.IMG_FLAG_QSPI_REFUSED : Fld := ⟨0x228, 2, 2⟩
abbrev F.IMG_FLAG_SLOT_FALLBACK : Fld := ⟨0x228, 1, 1⟩
abbrev F.IMG_FLAG_REC_SKIP : Fld := ⟨0x228, 0, 0⟩
abbrev F.IMG_FCNT_QSPI_REFUSED_CNT : Fld := ⟨0x22c, 23, 16⟩
abbrev F.IMG_FCNT_SLOT_FALLBACK_CNT : Fld := ⟨0x22c, 15, 8⟩
abbrev F.IMG_FCNT_REC_SKIP_CNT : Fld := ⟨0x22c, 7, 0⟩
abbrev F.QSPI_CTRL_GO : Fld := ⟨0x230, 31, 31⟩
abbrev F.QSPI_CTRL_OP : Fld := ⟨0x230, 1, 0⟩
abbrev F.QSPI_ADDR_ADDR : Fld := ⟨0x234, 24, 0⟩
abbrev F.QSPI_STAT_BUSY : Fld := ⟨0x238, 31, 31⟩
abbrev F.QSPI_STAT_REASON : Fld := ⟨0x238, 19, 16⟩
abbrev F.QSPI_STAT_SR1 : Fld := ⟨0x238, 7, 0⟩
abbrev F.QSPI_BPTR_WPTR : Fld := ⟨0x23c, 5, 0⟩
abbrev F.QSPI_BDATA_WORD : Fld := ⟨0x240, 31, 0⟩
abbrev F.QSPI_ID_ID : Fld := ⟨0x260, 23, 0⟩
abbrev F.IMG_NET_PHY_B : Fld := ⟨0x264, 12, 8⟩
abbrev F.IMG_NET_PHY_A : Fld := ⟨0x264, 4, 0⟩
abbrev F.HST_FLAG_REQ_COLLIDE : Fld := ⟨0x300, 9, 9⟩
abbrev F.HST_FLAG_SDA_TMO : Fld := ⟨0x300, 8, 8⟩
abbrev F.HST_FLAG_SCL_TMO : Fld := ⟨0x300, 7, 7⟩
abbrev F.HST_FLAG_RD_FAIL : Fld := ⟨0x300, 6, 6⟩
abbrev F.HST_FLAG_GRP_READ : Fld := ⟨0x300, 5, 5⟩
abbrev F.HST_FLAG_GRP_MISS : Fld := ⟨0x300, 4, 4⟩
abbrev F.HST_FLAG_BUSY_NACK : Fld := ⟨0x300, 3, 3⟩
abbrev F.HST_FLAG_BYTE_DISC : Fld := ⟨0x300, 2, 2⟩
abbrev F.HST_FLAG_WR_OVER : Fld := ⟨0x300, 1, 1⟩
abbrev F.HST_FLAG_PARTIAL : Fld := ⟨0x300, 0, 0⟩
abbrev F.HST_FCNT0_BUSY_NACK_CNT : Fld := ⟨0x304, 31, 24⟩
abbrev F.HST_FCNT0_BYTE_DISC_CNT : Fld := ⟨0x304, 23, 16⟩
abbrev F.HST_FCNT0_WR_OVER_CNT : Fld := ⟨0x304, 15, 8⟩
abbrev F.HST_FCNT0_PARTIAL_CNT : Fld := ⟨0x304, 7, 0⟩
abbrev F.HST_FCNT1_SCL_TMO_CNT : Fld := ⟨0x308, 31, 24⟩
abbrev F.HST_FCNT1_RD_FAIL_CNT : Fld := ⟨0x308, 23, 16⟩
abbrev F.HST_FCNT1_GRP_READ_CNT : Fld := ⟨0x308, 15, 8⟩
abbrev F.HST_FCNT1_GRP_MISS_CNT : Fld := ⟨0x308, 7, 0⟩
abbrev F.HST_FCNT2_REQ_COLLIDE_CNT : Fld := ⟨0x30c, 15, 8⟩
abbrev F.HST_FCNT2_SDA_TMO_CNT : Fld := ⟨0x30c, 7, 0⟩
abbrev F.HST_CFG_FILT_SEL : Fld := ⟨0x310, 31, 31⟩
abbrev F.HST_CFG_DFILT_N : Fld := ⟨0x310, 28, 24⟩
abbrev F.HST_CFG_TEST_TMO : Fld := ⟨0x310, 16, 16⟩
abbrev F.HST_GRP_GEN : Fld := ⟨0x314, 31, 31⟩
abbrev F.HST_GRP_GMASK : Fld := ⟨0x314, 22, 16⟩
abbrev F.HST_GRP_GADDR : Fld := ⟨0x314, 6, 0⟩
abbrev F.HST_REQ_REQ_EN : Fld := ⟨0x318, 31, 31⟩
abbrev F.HST_REQ_REQ_INT : Fld := ⟨0x318, 23, 16⟩
abbrev F.HST_REQ_SRC_EN : Fld := ⟨0x318, 6, 0⟩
abbrev F.HST_REQST_SOFT : Fld := ⟨0x31c, 16, 16⟩
abbrev F.HST_REQST_PEND : Fld := ⟨0x31c, 6, 0⟩
abbrev F.HST_STAT_PHASE : Fld := ⟨0x320, 31, 30⟩
abbrev F.HST_STAT_READY : Fld := ⟨0x320, 29, 29⟩
abbrev F.HST_STAT_MGR_ANS : Fld := ⟨0x320, 28, 28⟩
abbrev F.HST_STAT_ADDR : Fld := ⟨0x320, 18, 16⟩
abbrev F.HST_STAT_PTR : Fld := ⟨0x320, 15, 0⟩
abbrev F.MEM_FLAG_VERIFY : Fld := ⟨0x400, 6, 6⟩
abbrev F.MEM_FLAG_NO_SPARE_ROW : Fld := ⟨0x400, 5, 5⟩
abbrev F.MEM_FLAG_REPAIR : Fld := ⟨0x400, 4, 4⟩
abbrev F.MEM_FLAG_PATH_UE : Fld := ⟨0x400, 3, 3⟩
abbrev F.MEM_FLAG_PATH_CE : Fld := ⟨0x400, 2, 2⟩
abbrev F.MEM_FLAG_UE : Fld := ⟨0x400, 1, 1⟩
abbrev F.MEM_FLAG_CE : Fld := ⟨0x400, 0, 0⟩
abbrev F.MEM_FCNT0_PATH_UE_CNT : Fld := ⟨0x404, 31, 24⟩
abbrev F.MEM_FCNT0_PATH_CE_CNT : Fld := ⟨0x404, 23, 16⟩
abbrev F.MEM_FCNT0_UE_CNT : Fld := ⟨0x404, 15, 8⟩
abbrev F.MEM_FCNT0_CE_CNT : Fld := ⟨0x404, 7, 0⟩
abbrev F.MEM_FCNT1_VERIFY_CNT : Fld := ⟨0x408, 23, 16⟩
abbrev F.MEM_FCNT1_NO_SPARE_ROW_CNT : Fld := ⟨0x408, 15, 8⟩
abbrev F.MEM_FCNT1_REPAIR_CNT : Fld := ⟨0x408, 7, 0⟩
abbrev F.MEM_ELOG0_SEQ : Fld := ⟨0x40c, 31, 16⟩
abbrev F.MEM_ELOG0_KIND : Fld := ⟨0x40c, 15, 14⟩
abbrev F.MEM_ELOG0_SRC : Fld := ⟨0x40c, 13, 12⟩
abbrev F.MEM_ELOG0_BANK : Fld := ⟨0x40c, 6, 0⟩
abbrev F.MEM_ELOG1_WORD : Fld := ⟨0x410, 29, 17⟩
abbrev F.MEM_ELOG1_SYND : Fld := ⟨0x410, 16, 0⟩
abbrev F.MEM_BSEL_SPARE : Fld := ⟨0x414, 10, 8⟩
abbrev F.MEM_BSEL_BANK : Fld := ⟨0x414, 6, 0⟩
abbrev F.MEM_BSTAT_CE_CNT : Fld := ⟨0x418, 31, 16⟩
abbrev F.MEM_BSTAT_USED : Fld := ⟨0x418, 11, 8⟩
abbrev F.MEM_BSTAT_DEGRADED : Fld := ⟨0x418, 1, 1⟩
abbrev F.MEM_BSTAT_CAND : Fld := ⟨0x418, 0, 0⟩
abbrev F.MEM_RMAP_VALID : Fld := ⟨0x41c, 31, 31⟩
abbrev F.MEM_RMAP_BAD : Fld := ⟨0x41c, 30, 30⟩
abbrev F.MEM_RMAP_ROW : Fld := ⟨0x41c, 8, 0⟩
abbrev F.MEM_RCFG_UE_REP : Fld := ⟨0x420, 31, 31⟩
abbrev F.MEM_RCFG_CE2_REP : Fld := ⟨0x420, 30, 30⟩
abbrev F.MEM_RCFG_REP_WIN : Fld := ⟨0x420, 15, 8⟩
abbrev F.MEM_RCFG_REP_THR : Fld := ⟨0x420, 3, 0⟩
abbrev F.MEM_WIPE_US : Fld := ⟨0x424, 15, 0⟩
abbrev F.MEM_INJ_ARM : Fld := ⟨0x428, 31, 31⟩
abbrev F.MEM_INJ_NBITS : Fld := ⟨0x428, 29, 28⟩
abbrev F.MEM_INJ_BANK : Fld := ⟨0x428, 22, 16⟩
abbrev F.BKG_CFG_SCRUB_EN : Fld := ⟨0x500, 31, 31⟩
abbrev F.BKG_CFG_LOG_EN : Fld := ⟨0x500, 30, 30⟩
abbrev F.BKG_CTRL_FLUSH : Fld := ⟨0x504, 0, 0⟩
abbrev F.BKG_FLAG_LOG_FALLBACK : Fld := ⟨0x508, 5, 5⟩
abbrev F.BKG_FLAG_LOG_EMPTY : Fld := ⟨0x508, 4, 4⟩
abbrev F.BKG_FLAG_FL_BUSY : Fld := ⟨0x508, 3, 3⟩
abbrev F.BKG_FLAG_LOG_OVER : Fld := ⟨0x508, 2, 2⟩
abbrev F.BKG_FLAG_LOG_FAIL : Fld := ⟨0x508, 1, 1⟩
abbrev F.BKG_FLAG_WU_LATE : Fld := ⟨0x508, 0, 0⟩
abbrev F.BKG_FCNT0_FL_BUSY_CNT : Fld := ⟨0x50c, 31, 24⟩
abbrev F.BKG_FCNT0_LOG_OVER_CNT : Fld := ⟨0x50c, 23, 16⟩
abbrev F.BKG_FCNT0_LOG_FAIL_CNT : Fld := ⟨0x50c, 15, 8⟩
abbrev F.BKG_FCNT0_WU_LATE_CNT : Fld := ⟨0x50c, 7, 0⟩
abbrev F.BKG_FCNT1_LOG_FALLBACK_CNT : Fld := ⟨0x510, 15, 8⟩
abbrev F.BKG_FCNT1_LOG_EMPTY_CNT : Fld := ⟨0x510, 7, 0⟩
abbrev F.BKG_SCRUB_SEQ : Fld := ⟨0x514, 31, 16⟩
abbrev F.BKG_SCRUB_PASS_BLK : Fld := ⟨0x514, 15, 0⟩
abbrev F.BKG_LOG0_NSECT : Fld := ⟨0x518, 31, 24⟩
abbrev F.BKG_LOG0_SECT : Fld := ⟨0x518, 23, 16⟩
abbrev F.BKG_LOG0_FREE : Fld := ⟨0x518, 11, 0⟩
abbrev F.BKG_LOG1_SSEQ : Fld := ⟨0x51c, 31, 0⟩
abbrev F.BKG_LOG2_ERASE_MAX : Fld := ⟨0x520, 31, 0⟩
abbrev F.TWN_FLAG_REQ_REFUSED : Fld := ⟨0x600, 12, 12⟩
abbrev F.TWN_FLAG_RESYNC_DONE : Fld := ⟨0x600, 11, 11⟩
abbrev F.TWN_FLAG_MARK_ERR : Fld := ⟨0x600, 10, 10⟩
abbrev F.TWN_FLAG_CFG_DIVERGED : Fld := ⟨0x600, 9, 9⟩
abbrev F.TWN_FLAG_PAIR_REFUSED : Fld := ⟨0x600, 8, 8⟩
abbrev F.TWN_FLAG_SNAP_BAD : Fld := ⟨0x600, 7, 7⟩
abbrev F.TWN_FLAG_SNAP_LATE : Fld := ⟨0x600, 6, 6⟩
abbrev F.TWN_FLAG_LANE_DEGRADED : Fld := ⟨0x600, 5, 5⟩
abbrev F.TWN_FLAG_LINK_DOWN : Fld := ⟨0x600, 4, 4⟩
abbrev F.TWN_FLAG_MSG_LOST : Fld := ⟨0x600, 3, 3⟩
abbrev F.TWN_FLAG_HB_LOST : Fld := ⟨0x600, 2, 2⟩
abbrev F.TWN_FLAG_DUAL_OWNER : Fld := ⟨0x600, 1, 1⟩
abbrev F.TWN_FLAG_TAKEOVER : Fld := ⟨0x600, 0, 0⟩
abbrev F.TWN_FCNT0_MSG_LOST_CNT : Fld := ⟨0x604, 31, 24⟩
abbrev F.TWN_FCNT0_HB_LOST_CNT : Fld := ⟨0x604, 23, 16⟩
abbrev F.TWN_FCNT0_DUAL_OWNER_CNT : Fld := ⟨0x604, 15, 8⟩
abbrev F.TWN_FCNT0_TAKEOVER_CNT : Fld := ⟨0x604, 7, 0⟩
abbrev F.TWN_FCNT1_SNAP_BAD_CNT : Fld := ⟨0x608, 31, 24⟩
abbrev F.TWN_FCNT1_SNAP_LATE_CNT : Fld := ⟨0x608, 23, 16⟩
abbrev F.TWN_FCNT1_LANE_DEGRADED_CNT : Fld := ⟨0x608, 15, 8⟩
abbrev F.TWN_FCNT1_LINK_DOWN_CNT : Fld := ⟨0x608, 7, 0⟩
abbrev F.TWN_FCNT2_RESYNC_DONE_CNT : Fld := ⟨0x60c, 31, 24⟩
abbrev F.TWN_FCNT2_MARK_ERR_CNT : Fld := ⟨0x60c, 23, 16⟩
abbrev F.TWN_FCNT2_CFG_DIVERGED_CNT : Fld := ⟨0x60c, 15, 8⟩
abbrev F.TWN_FCNT2_PAIR_REFUSED_CNT : Fld := ⟨0x60c, 7, 0⟩
abbrev F.TWN_FCNT3_REQ_REFUSED_CNT : Fld := ⟨0x610, 7, 0⟩
abbrev F.TWN_CFG_PAIR_EN : Fld := ⟨0x614, 31, 31⟩
abbrev F.TWN_CFG_CLAIM_EN : Fld := ⟨0x614, 30, 30⟩
abbrev F.TWN_CFG_HB_TMO : Fld := ⟨0x614, 23, 16⟩
abbrev F.TWN_CFG_MSG_TMO : Fld := ⟨0x614, 11, 8⟩
abbrev F.TWN_CTRL_RETRAIN : Fld := ⟨0x618, 2, 2⟩
abbrev F.TWN_CTRL_HANDOVER : Fld := ⟨0x618, 1, 1⟩
abbrev F.TWN_CTRL_RESYNC : Fld := ⟨0x618, 0, 0⟩
abbrev F.TWN_STAT_PSTATE : Fld := ⟨0x61c, 31, 29⟩
abbrev F.TWN_STAT_OWNER : Fld := ⟨0x61c, 28, 28⟩
abbrev F.TWN_STAT_ROLE : Fld := ⟨0x61c, 27, 27⟩
abbrev F.TWN_STAT_P_OWNER : Fld := ⟨0x61c, 26, 26⟩
abbrev F.TWN_STAT_P_READY : Fld := ⟨0x61c, 25, 25⟩
abbrev F.TWN_STAT_PAIR_DEGRADED : Fld := ⟨0x61c, 24, 24⟩
abbrev F.TWN_STAT_HB_OK : Fld := ⟨0x61c, 23, 23⟩
abbrev F.TWN_STAT_MSG_OK : Fld := ⟨0x61c, 22, 22⟩
abbrev F.TWN_STAT_LINK_UP : Fld := ⟨0x61c, 21, 21⟩
abbrev F.TWN_STAT_LANE_OK : Fld := ⟨0x61c, 20, 19⟩
abbrev F.TWN_STAT_ELIGIBLE : Fld := ⟨0x61c, 18, 18⟩
abbrev F.TWN_STAT_FROZEN : Fld := ⟨0x61c, 17, 17⟩
abbrev F.TWN_STAT_RESYNC_FAIL : Fld := ⟨0x61c, 16, 16⟩
abbrev F.TWN_STAT_REFUSE : Fld := ⟨0x61c, 11, 8⟩
abbrev F.TWN_MARK_ERR : Fld := ⟨0x620, 31, 16⟩
abbrev F.TWN_MARK_CORR : Fld := ⟨0x620, 15, 0⟩
abbrev F.TWN_LAST_SEQ : Fld := ⟨0x624, 31, 16⟩
abbrev F.TWN_LAST_DLY : Fld := ⟨0x624, 15, 0⟩
abbrev F.TWN_CDIG_DIG : Fld := ⟨0x628, 31, 0⟩
abbrev F.TWN_PDIG_DIG : Fld := ⟨0x62c, 31, 0⟩
abbrev F.TWN_LERR_CORR : Fld := ⟨0x630, 31, 16⟩
abbrev F.TWN_LERR_CODE : Fld := ⟨0x630, 15, 0⟩
abbrev F.STR_FLAG_ENUM_OVER : Fld := ⟨0x700, 7, 7⟩
abbrev F.STR_FLAG_MGR_CONFLICT : Fld := ⟨0x700, 6, 6⟩
abbrev F.STR_FLAG_CLUSTER_MISMATCH : Fld := ⟨0x700, 5, 5⟩
abbrev F.STR_FLAG_BLK_SKEW : Fld := ⟨0x700, 4, 4⟩
abbrev F.STR_FLAG_FRAME_BAD : Fld := ⟨0x700, 3, 3⟩
abbrev F.STR_FLAG_FOLD : Fld := ⟨0x700, 2, 2⟩
abbrev F.STR_FLAG_PORT_FAIL : Fld := ⟨0x700, 1, 1⟩
abbrev F.STR_FLAG_RING_LOST : Fld := ⟨0x700, 0, 0⟩
abbrev F.STR_FCNT0_FRAME_BAD_CNT : Fld := ⟨0x704, 31, 24⟩
abbrev F.STR_FCNT0_FOLD_CNT : Fld := ⟨0x704, 23, 16⟩
abbrev F.STR_FCNT0_PORT_FAIL_CNT : Fld := ⟨0x704, 15, 8⟩
abbrev F.STR_FCNT0_RING_LOST_CNT : Fld := ⟨0x704, 7, 0⟩
abbrev F.STR_FCNT1_ENUM_OVER_CNT : Fld := ⟨0x708, 31, 24⟩
abbrev F.STR_FCNT1_MGR_CONFLICT_CNT : Fld := ⟨0x708, 23, 16⟩
abbrev F.STR_FCNT1_CLUSTER_MISMATCH_CNT : Fld := ⟨0x708, 15, 8⟩
abbrev F.STR_FCNT1_BLK_SKEW_CNT : Fld := ⟨0x708, 7, 0⟩
abbrev F.STR_CFG_RING_EN : Fld := ⟨0x70c, 31, 31⟩
abbrev F.STR_CFG_CLUSTER : Fld := ⟨0x70c, 7, 0⟩
abbrev F.STR_STAT_RSTATE : Fld := ⟨0x710, 31, 30⟩
abbrev F.STR_STAT_FOLDED : Fld := ⟨0x710, 29, 29⟩
abbrev F.STR_STAT_UP_OK : Fld := ⟨0x710, 28, 28⟩
abbrev F.STR_STAT_DOWN_OK : Fld := ⟨0x710, 27, 27⟩
abbrev F.STR_STAT_MGR : Fld := ⟨0x710, 26, 26⟩
abbrev F.STR_STAT_NODES : Fld := ⟨0x710, 21, 16⟩
abbrev F.STR_STAT_PAIR : Fld := ⟨0x710, 15, 8⟩
abbrev F.STR_STAT_ADDR : Fld := ⟨0x710, 5, 0⟩
abbrev F.STR_LERR_UP_CV : Fld := ⟨0x714, 31, 16⟩
abbrev F.STR_LERR_DOWN_CV : Fld := ⟨0x714, 15, 0⟩
abbrev F.AIN_FLAG_AES_PARITY : Fld := ⟨0x800, 9, 9⟩
abbrev F.AIN_FLAG_AES_CRC : Fld := ⟨0x800, 8, 8⟩
abbrev F.AIN_FLAG_MIX_BADVAL : Fld := ⟨0x800, 7, 7⟩
abbrev F.AIN_FLAG_PTP_HOLD : Fld := ⟨0x800, 6, 6⟩
abbrev F.AIN_FLAG_PTP_STEP : Fld := ⟨0x800, 5, 5⟩
abbrev F.AIN_FLAG_SRC_LOST : Fld := ⟨0x800, 4, 4⟩
abbrev F.AIN_FLAG_SCFG_LOCKED : Fld := ⟨0x800, 3, 3⟩
abbrev F.AIN_FLAG_STRM_REFUSED : Fld := ⟨0x800, 2, 2⟩
abbrev F.AIN_FLAG_PKT_WINDOW : Fld := ⟨0x800, 1, 1⟩
abbrev F.AIN_FLAG_PKT_LOST : Fld := ⟨0x800, 0, 0⟩
abbrev F.AIN_FCNT0_SCFG_LOCKED_CNT : Fld := ⟨0x804, 31, 24⟩
abbrev F.AIN_FCNT0_STRM_REFUSED_CNT : Fld := ⟨0x804, 23, 16⟩
abbrev F.AIN_FCNT0_PKT_WINDOW_CNT : Fld := ⟨0x804, 15, 8⟩
abbrev F.AIN_FCNT0_PKT_LOST_CNT : Fld := ⟨0x804, 7, 0⟩
abbrev F.AIN_FCNT1_MIX_BADVAL_CNT : Fld := ⟨0x808, 31, 24⟩
abbrev F.AIN_FCNT1_PTP_HOLD_CNT : Fld := ⟨0x808, 23, 16⟩
abbrev F.AIN_FCNT1_PTP_STEP_CNT : Fld := ⟨0x808, 15, 8⟩
abbrev F.AIN_FCNT1_SRC_LOST_CNT : Fld := ⟨0x808, 7, 0⟩
abbrev F.AIN_FCNT2_AES_PARITY_CNT : Fld := ⟨0x80c, 15, 8⟩
abbrev F.AIN_FCNT2_AES_CRC_CNT : Fld := ⟨0x80c, 7, 0⟩
abbrev F.PTP_CFG_DOMAIN : Fld := ⟨0x810, 31, 24⟩
abbrev F.PTP_CFG_ANN_TMO : Fld := ⟨0x810, 19, 16⟩
abbrev F.PTP_CFG_DREQ_LOG : Fld := ⟨0x810, 15, 12⟩
abbrev F.PTP_CFG_PORT_POLICY : Fld := ⟨0x810, 8, 8⟩
abbrev F.PTP_CFG_SRC : Fld := ⟨0x810, 5, 4⟩
abbrev F.PTP_CFG_PTP_EN : Fld := ⟨0x810, 0, 0⟩
abbrev F.PTP_CTRL_STEP_NOW : Fld := ⟨0x814, 0, 0⟩
abbrev F.PTP_STAT_STEPS_RM : Fld := ⟨0x818, 15, 8⟩
abbrev F.PTP_STAT_PPS_SEEN : Fld := ⟨0x818, 5, 5⟩
abbrev F.PTP_STAT_PORT : Fld := ⟨0x818, 4, 4⟩
abbrev F.PTP_STAT_STATE : Fld := ⟨0x818, 2, 0⟩
abbrev F.PTP_OFFSET_OFFSET : Fld := ⟨0x81c, 31, 0⟩
abbrev F.PTP_FREQ_FREQ : Fld := ⟨0x820, 31, 0⟩
abbrev F.PTP_GMID_H_GMID : Fld := ⟨0x824, 31, 0⟩
abbrev F.PTP_GMID_L_GMID : Fld := ⟨0x828, 31, 0⟩
abbrev F.AIN_SSEL_STREAM : Fld := ⟨0x830, 3, 0⟩
abbrev F.AIN_SCFG_EN (i : Nat) : Fld := ⟨0x10000 + 0x20 * i, 31, 31⟩
abbrev F.AIN_SCFG_PATHS (i : Nat) : Fld := ⟨0x10000 + 0x20 * i, 29, 28⟩
abbrev F.AIN_SCFG_RATE (i : Nat) : Fld := ⟨0x10000 + 0x20 * i, 27, 27⟩
abbrev F.AIN_SCFG_PTIME (i : Nat) : Fld := ⟨0x10000 + 0x20 * i, 26, 25⟩
abbrev F.AIN_SCFG_FMT (i : Nat) : Fld := ⟨0x10000 + 0x20 * i, 24, 24⟩
abbrev F.AIN_SCFG_NCH_M1 (i : Nat) : Fld := ⟨0x10000 + 0x20 * i, 23, 21⟩
abbrev F.AIN_SCFG_BASE (i : Nat) : Fld := ⟨0x10000 + 0x20 * i, 20, 15⟩
abbrev F.AIN_SCFG_LINK_OFFS (i : Nat) : Fld := ⟨0x10000 + 0x20 * i, 9, 0⟩
abbrev F.AIN_SADDRA_MADDR (i : Nat) : Fld := ⟨0x10004 + 0x20 * i, 31, 0⟩
abbrev F.AIN_SADDRB_MADDR (i : Nat) : Fld := ⟨0x10008 + 0x20 * i, 31, 0⟩
abbrev F.AIN_SPORT_UDP_B (i : Nat) : Fld := ⟨0x1000c + 0x20 * i, 31, 16⟩
abbrev F.AIN_SPORT_UDP_A (i : Nat) : Fld := ⟨0x1000c + 0x20 * i, 15, 0⟩
abbrev F.AIN_SRTP_SRTP (i : Nat) : Fld := ⟨0x10010 + 0x20 * i, 31, 0⟩
abbrev F.AIN_SSTAT_LOST_CNT (i : Nat) : Fld := ⟨0x10014 + 0x20 * i, 31, 16⟩
abbrev F.AIN_SSTAT_REASON (i : Nat) : Fld := ⟨0x10014 + 0x20 * i, 15, 12⟩
abbrev F.AIN_SSTAT_SSRC_VALID (i : Nat) : Fld := ⟨0x10014 + 0x20 * i, 9, 9⟩
abbrev F.AIN_SSTAT_RX_B (i : Nat) : Fld := ⟨0x10014 + 0x20 * i, 8, 8⟩
abbrev F.AIN_SSTAT_RX_A (i : Nat) : Fld := ⟨0x10014 + 0x20 * i, 7, 7⟩
abbrev F.AIN_SSTAT_ACTIVE (i : Nat) : Fld := ⟨0x10014 + 0x20 * i, 0, 0⟩
abbrev F.AIN_TDM0_EN : Fld := ⟨0x850, 31, 31⟩
abbrev F.AIN_TDM0_MASTER : Fld := ⟨0x850, 30, 30⟩
abbrev F.AIN_TDM0_FRAMING : Fld := ⟨0x850, 29, 29⟩
abbrev F.AIN_TDM0_SLOTS8 : Fld := ⟨0x850, 28, 28⟩
abbrev F.AIN_TDM0_MRATE : Fld := ⟨0x850, 27, 27⟩
abbrev F.AIN_TDM0_LOCK : Fld := ⟨0x850, 7, 7⟩
abbrev F.AIN_TDM0_RATE_DET : Fld := ⟨0x850, 6, 4⟩
abbrev F.AIN_TDM1_EN : Fld := ⟨0x854, 31, 31⟩
abbrev F.AIN_TDM1_MASTER : Fld := ⟨0x854, 30, 30⟩
abbrev F.AIN_TDM1_FRAMING : Fld := ⟨0x854, 29, 29⟩
abbrev F.AIN_TDM1_SLOTS8 : Fld := ⟨0x854, 28, 28⟩
abbrev F.AIN_TDM1_MRATE : Fld := ⟨0x854, 27, 27⟩
abbrev F.AIN_TDM1_LOCK : Fld := ⟨0x854, 7, 7⟩
abbrev F.AIN_TDM1_RATE_DET : Fld := ⟨0x854, 6, 4⟩
abbrev F.AIN_TDM2_EN : Fld := ⟨0x858, 31, 31⟩
abbrev F.AIN_TDM2_MASTER : Fld := ⟨0x858, 30, 30⟩
abbrev F.AIN_TDM2_FRAMING : Fld := ⟨0x858, 29, 29⟩
abbrev F.AIN_TDM2_SLOTS8 : Fld := ⟨0x858, 28, 28⟩
abbrev F.AIN_TDM2_MRATE : Fld := ⟨0x858, 27, 27⟩
abbrev F.AIN_TDM2_LOCK : Fld := ⟨0x858, 7, 7⟩
abbrev F.AIN_TDM2_RATE_DET : Fld := ⟨0x858, 6, 4⟩
abbrev F.AIN_TDM3_EN : Fld := ⟨0x85c, 31, 31⟩
abbrev F.AIN_TDM3_MASTER : Fld := ⟨0x85c, 30, 30⟩
abbrev F.AIN_TDM3_FRAMING : Fld := ⟨0x85c, 29, 29⟩
abbrev F.AIN_TDM3_SLOTS8 : Fld := ⟨0x85c, 28, 28⟩
abbrev F.AIN_TDM3_MRATE : Fld := ⟨0x85c, 27, 27⟩
abbrev F.AIN_TDM3_LOCK : Fld := ⟨0x85c, 7, 7⟩
abbrev F.AIN_TDM3_RATE_DET : Fld := ⟨0x85c, 6, 4⟩
abbrev F.AIN_CSSEL_CS_VALID : Fld := ⟨0x860, 8, 8⟩
abbrev F.AIN_CSSEL_WORD : Fld := ⟨0x860, 4, 2⟩
abbrev F.AIN_CSSEL_RX : Fld := ⟨0x860, 1, 0⟩
abbrev F.AIN_CSDATA_CS : Fld := ⟨0x864, 31, 0⟩
abbrev F.AIN_MSEL0_SEL3 : Fld := ⟨0x868, 31, 24⟩
abbrev F.AIN_MSEL0_SEL2 : Fld := ⟨0x868, 23, 16⟩
abbrev F.AIN_MSEL0_SEL1 : Fld := ⟨0x868, 15, 8⟩
abbrev F.AIN_MSEL0_SEL0 : Fld := ⟨0x868, 7, 0⟩
abbrev F.AIN_MSEL1_SEL3 : Fld := ⟨0x86c, 31, 24⟩
abbrev F.AIN_MSEL1_SEL2 : Fld := ⟨0x86c, 23, 16⟩
abbrev F.AIN_MSEL1_SEL1 : Fld := ⟨0x86c, 15, 8⟩
abbrev F.AIN_MSEL1_SEL0 : Fld := ⟨0x86c, 7, 0⟩
abbrev F.AIN_MSEL2_SEL3 : Fld := ⟨0x870, 31, 24⟩
abbrev F.AIN_MSEL2_SEL2 : Fld := ⟨0x870, 23, 16⟩
abbrev F.AIN_MSEL2_SEL1 : Fld := ⟨0x870, 15, 8⟩
abbrev F.AIN_MSEL2_SEL0 : Fld := ⟨0x870, 7, 0⟩
abbrev F.AIN_MSEL3_SEL3 : Fld := ⟨0x874, 31, 24⟩
abbrev F.AIN_MSEL3_SEL2 : Fld := ⟨0x874, 23, 16⟩
abbrev F.AIN_MSEL3_SEL1 : Fld := ⟨0x874, 15, 8⟩
abbrev F.AIN_MSEL3_SEL0 : Fld := ⟨0x874, 7, 0⟩
abbrev F.AIN_TMON_EN : Fld := ⟨0x878, 31, 31⟩
abbrev F.AIN_TMON_FRAMING : Fld := ⟨0x878, 30, 30⟩
abbrev F.AIN_AEST_EN : Fld := ⟨0x87c, 31, 31⟩
abbrev F.AIN_AEST_SLOT_B : Fld := ⟨0x87c, 11, 8⟩
abbrev F.AIN_AEST_SLOT_A : Fld := ⟨0x87c, 3, 0⟩
abbrev F.AIN_AES0_EN : Fld := ⟨0x880, 31, 31⟩
abbrev F.AIN_AES0_LOCK : Fld := ⟨0x880, 7, 7⟩
abbrev F.AIN_AES0_RATE_DET : Fld := ⟨0x880, 6, 4⟩
abbrev F.AIN_AES0_VALIDITY : Fld := ⟨0x880, 3, 3⟩
abbrev F.AIN_AES0_PRO : Fld := ⟨0x880, 2, 2⟩
abbrev F.AIN_AES1_EN : Fld := ⟨0x884, 31, 31⟩
abbrev F.AIN_AES1_LOCK : Fld := ⟨0x884, 7, 7⟩
abbrev F.AIN_AES1_RATE_DET : Fld := ⟨0x884, 6, 4⟩
abbrev F.AIN_AES1_VALIDITY : Fld := ⟨0x884, 3, 3⟩
abbrev F.AIN_AES1_PRO : Fld := ⟨0x884, 2, 2⟩
abbrev F.AIN_AES2_EN : Fld := ⟨0x888, 31, 31⟩
abbrev F.AIN_AES2_LOCK : Fld := ⟨0x888, 7, 7⟩
abbrev F.AIN_AES2_RATE_DET : Fld := ⟨0x888, 6, 4⟩
abbrev F.AIN_AES2_VALIDITY : Fld := ⟨0x888, 3, 3⟩
abbrev F.AIN_AES2_PRO : Fld := ⟨0x888, 2, 2⟩
abbrev F.AIN_AES3_EN : Fld := ⟨0x88c, 31, 31⟩
abbrev F.AIN_AES3_LOCK : Fld := ⟨0x88c, 7, 7⟩
abbrev F.AIN_AES3_RATE_DET : Fld := ⟨0x88c, 6, 4⟩
abbrev F.AIN_AES3_VALIDITY : Fld := ⟨0x88c, 3, 3⟩
abbrev F.AIN_AES3_PRO : Fld := ⟨0x88c, 2, 2⟩
abbrev F.AIN_MIXPTR_INDEX : Fld := ⟨0x890, 9, 0⟩
abbrev F.AIN_MIXDATA_GAIN : Fld := ⟨0x8a0, 31, 0⟩
abbrev F.AIN_ROUTE0_SRC3 : Fld := ⟨0x8c0, 31, 24⟩
abbrev F.AIN_ROUTE0_SRC2 : Fld := ⟨0x8c0, 23, 16⟩
abbrev F.AIN_ROUTE0_SRC1 : Fld := ⟨0x8c0, 15, 8⟩
abbrev F.AIN_ROUTE0_SRC0 : Fld := ⟨0x8c0, 7, 0⟩
abbrev F.AIN_ROUTE1_SRC3 : Fld := ⟨0x8c4, 31, 24⟩
abbrev F.AIN_ROUTE1_SRC2 : Fld := ⟨0x8c4, 23, 16⟩
abbrev F.AIN_ROUTE1_SRC1 : Fld := ⟨0x8c4, 15, 8⟩
abbrev F.AIN_ROUTE1_SRC0 : Fld := ⟨0x8c4, 7, 0⟩
abbrev F.AIN_ROUTE2_SRC3 : Fld := ⟨0x8c8, 31, 24⟩
abbrev F.AIN_ROUTE2_SRC2 : Fld := ⟨0x8c8, 23, 16⟩
abbrev F.AIN_ROUTE2_SRC1 : Fld := ⟨0x8c8, 15, 8⟩
abbrev F.AIN_ROUTE2_SRC0 : Fld := ⟨0x8c8, 7, 0⟩
abbrev F.AIN_ROUTE3_SRC3 : Fld := ⟨0x8cc, 31, 24⟩
abbrev F.AIN_ROUTE3_SRC2 : Fld := ⟨0x8cc, 23, 16⟩
abbrev F.AIN_ROUTE3_SRC1 : Fld := ⟨0x8cc, 15, 8⟩
abbrev F.AIN_ROUTE3_SRC0 : Fld := ⟨0x8cc, 7, 0⟩
abbrev F.AIN_ROUTE4_SRC3 : Fld := ⟨0x8d0, 31, 24⟩
abbrev F.AIN_ROUTE4_SRC2 : Fld := ⟨0x8d0, 23, 16⟩
abbrev F.AIN_ROUTE4_SRC1 : Fld := ⟨0x8d0, 15, 8⟩
abbrev F.AIN_ROUTE4_SRC0 : Fld := ⟨0x8d0, 7, 0⟩
abbrev F.AIN_ROUTE5_SRC3 : Fld := ⟨0x8d4, 31, 24⟩
abbrev F.AIN_ROUTE5_SRC2 : Fld := ⟨0x8d4, 23, 16⟩
abbrev F.AIN_ROUTE5_SRC1 : Fld := ⟨0x8d4, 15, 8⟩
abbrev F.AIN_ROUTE5_SRC0 : Fld := ⟨0x8d4, 7, 0⟩
abbrev F.AIN_ROUTE6_SRC3 : Fld := ⟨0x8d8, 31, 24⟩
abbrev F.AIN_ROUTE6_SRC2 : Fld := ⟨0x8d8, 23, 16⟩
abbrev F.AIN_ROUTE6_SRC1 : Fld := ⟨0x8d8, 15, 8⟩
abbrev F.AIN_ROUTE6_SRC0 : Fld := ⟨0x8d8, 7, 0⟩
abbrev F.AIN_ROUTE7_SRC3 : Fld := ⟨0x8dc, 31, 24⟩
abbrev F.AIN_ROUTE7_SRC2 : Fld := ⟨0x8dc, 23, 16⟩
abbrev F.AIN_ROUTE7_SRC1 : Fld := ⟨0x8dc, 15, 8⟩
abbrev F.AIN_ROUTE7_SRC0 : Fld := ⟨0x8dc, 7, 0⟩
abbrev F.AIN_ROUTE8_SRC3 : Fld := ⟨0x8e0, 31, 24⟩
abbrev F.AIN_ROUTE8_SRC2 : Fld := ⟨0x8e0, 23, 16⟩
abbrev F.AIN_ROUTE8_SRC1 : Fld := ⟨0x8e0, 15, 8⟩
abbrev F.AIN_ROUTE8_SRC0 : Fld := ⟨0x8e0, 7, 0⟩
abbrev F.AIN_ROUTE9_SRC3 : Fld := ⟨0x8e4, 31, 24⟩
abbrev F.AIN_ROUTE9_SRC2 : Fld := ⟨0x8e4, 23, 16⟩
abbrev F.AIN_ROUTE9_SRC1 : Fld := ⟨0x8e4, 15, 8⟩
abbrev F.AIN_ROUTE9_SRC0 : Fld := ⟨0x8e4, 7, 0⟩
abbrev F.AIN_ROUTE10_SRC3 : Fld := ⟨0x8e8, 31, 24⟩
abbrev F.AIN_ROUTE10_SRC2 : Fld := ⟨0x8e8, 23, 16⟩
abbrev F.AIN_ROUTE10_SRC1 : Fld := ⟨0x8e8, 15, 8⟩
abbrev F.AIN_ROUTE10_SRC0 : Fld := ⟨0x8e8, 7, 0⟩
abbrev F.AIN_ROUTE11_SRC3 : Fld := ⟨0x8ec, 31, 24⟩
abbrev F.AIN_ROUTE11_SRC2 : Fld := ⟨0x8ec, 23, 16⟩
abbrev F.AIN_ROUTE11_SRC1 : Fld := ⟨0x8ec, 15, 8⟩
abbrev F.AIN_ROUTE11_SRC0 : Fld := ⟨0x8ec, 7, 0⟩
abbrev F.AIN_ROUTE12_SRC3 : Fld := ⟨0x8f0, 31, 24⟩
abbrev F.AIN_ROUTE12_SRC2 : Fld := ⟨0x8f0, 23, 16⟩
abbrev F.AIN_ROUTE12_SRC1 : Fld := ⟨0x8f0, 15, 8⟩
abbrev F.AIN_ROUTE12_SRC0 : Fld := ⟨0x8f0, 7, 0⟩
abbrev F.AIN_ROUTE13_SRC3 : Fld := ⟨0x8f4, 31, 24⟩
abbrev F.AIN_ROUTE13_SRC2 : Fld := ⟨0x8f4, 23, 16⟩
abbrev F.AIN_ROUTE13_SRC1 : Fld := ⟨0x8f4, 15, 8⟩
abbrev F.AIN_ROUTE13_SRC0 : Fld := ⟨0x8f4, 7, 0⟩
abbrev F.AIN_ROUTE14_SRC3 : Fld := ⟨0x8f8, 31, 24⟩
abbrev F.AIN_ROUTE14_SRC2 : Fld := ⟨0x8f8, 23, 16⟩
abbrev F.AIN_ROUTE14_SRC1 : Fld := ⟨0x8f8, 15, 8⟩
abbrev F.AIN_ROUTE14_SRC0 : Fld := ⟨0x8f8, 7, 0⟩
abbrev F.AIN_ROUTE15_SRC3 : Fld := ⟨0x8fc, 31, 24⟩
abbrev F.AIN_ROUTE15_SRC2 : Fld := ⟨0x8fc, 23, 16⟩
abbrev F.AIN_ROUTE15_SRC1 : Fld := ⟨0x8fc, 15, 8⟩
abbrev F.AIN_ROUTE15_SRC0 : Fld := ⟨0x8fc, 7, 0⟩
abbrev F.SCN_FLAG_CORE_FAIL : Fld := ⟨0x900, 6, 6⟩
abbrev F.SCN_FLAG_CORE_SWAP : Fld := ⟨0x900, 5, 5⟩
abbrev F.SCN_FLAG_MB_OVERRUN : Fld := ⟨0x900, 4, 4⟩
abbrev F.SCN_FLAG_COLD_XF : Fld := ⟨0x900, 3, 3⟩
abbrev F.SCN_FLAG_ARM_REFUSED : Fld := ⟨0x900, 2, 2⟩
abbrev F.SCN_FLAG_BANK_BADVAL : Fld := ⟨0x900, 1, 1⟩
abbrev F.SCN_FLAG_NXT_LOCKED : Fld := ⟨0x900, 0, 0⟩
abbrev F.SCN_FCNT0_MB_OVERRUN_CNT : Fld := ⟨0x904, 31, 24⟩
abbrev F.SCN_FCNT0_COLD_XF_CNT : Fld := ⟨0x904, 23, 16⟩
abbrev F.SCN_FCNT0_ARM_REFUSED_CNT : Fld := ⟨0x904, 15, 8⟩
abbrev F.SCN_FCNT0_NXT_LOCKED_CNT : Fld := ⟨0x904, 7, 0⟩
abbrev F.SCN_FCNT1_CORE_FAIL_CNT : Fld := ⟨0x908, 23, 16⟩
abbrev F.SCN_FCNT1_CORE_SWAP_CNT : Fld := ⟨0x908, 15, 8⟩
abbrev F.SCN_FCNT1_BANK_BADVAL_CNT : Fld := ⟨0x908, 7, 0⟩
abbrev F.SCN_CFG_ID_NEXT : Fld := ⟨0x910, 31, 16⟩
abbrev F.SCN_CFG_XF_M1 : Fld := ⟨0x910, 13, 8⟩
abbrev F.SCN_CFG_SHAPE : Fld := ⟨0x910, 5, 5⟩
abbrev F.SCN_CFG_ROUTE : Fld := ⟨0x910, 2, 2⟩
abbrev F.SCN_CFG_MODE : Fld := ⟨0x910, 0, 0⟩
abbrev F.SCN_MASK_CH_MASK : Fld := ⟨0x914, 15, 0⟩
abbrev F.SCN_AT_L_AT : Fld := ⟨0x918, 31, 0⟩
abbrev F.SCN_AT_H_AT : Fld := ⟨0x91c, 15, 0⟩
abbrev F.SCN_ARM_ABORT : Fld := ⟨0x920, 1, 1⟩
abbrev F.SCN_ARM_GO : Fld := ⟨0x920, 0, 0⟩
abbrev F.SCN_STAT_LIVE_ID : Fld := ⟨0x924, 31, 16⟩
abbrev F.SCN_STAT_REASON : Fld := ⟨0x924, 8, 6⟩
abbrev F.SCN_STAT_WARM : Fld := ⟨0x924, 5, 5⟩
abbrev F.SCN_STAT_STATE : Fld := ⟨0x924, 1, 0⟩
abbrev F.SCN_NOW_L_NOW : Fld := ⟨0x928, 31, 0⟩
abbrev F.SCN_NOW_H_NOW : Fld := ⟨0x92c, 15, 0⟩
abbrev F.MB_CORE_RETIRED : Fld := ⟨0x940, 28, 24⟩
abbrev F.MB_CORE_SPARE : Fld := ⟨0x940, 19, 16⟩
abbrev F.MB_CORE_MAP : Fld := ⟨0x940, 15, 4⟩
abbrev F.MB_CORE_SWAP_Q : Fld := ⟨0x940, 3, 2⟩
abbrev F.MB_CORE_SWAP : Fld := ⟨0x940, 0, 0⟩
abbrev F.CH_LA_LA (i : Nat) : Fld := ⟨0x1000 + 0x100 * i, 8, 0⟩
abbrev F.CH_MBST_LA_REFUSED (i : Nat) : Fld := ⟨0x1004 + 0x100 * i, 8, 8⟩
abbrev F.CH_MBST_MUTED_CORE (i : Nat) : Fld := ⟨0x1004 + 0x100 * i, 1, 1⟩
abbrev F.CH_MBST_FADE (i : Nat) : Fld := ⟨0x1004 + 0x100 * i, 0, 0⟩
abbrev F.CH_MUTE_RAMPING (i : Nat) : Fld := ⟨0x1008 + 0x100 * i, 13, 13⟩
abbrev F.CH_MUTE_MUTED (i : Nat) : Fld := ⟨0x1008 + 0x100 * i, 12, 12⟩
abbrev F.CH_MUTE_C_LOOP (i : Nat) : Fld := ⟨0x1008 + 0x100 * i, 11, 11⟩
abbrev F.CH_MUTE_C_SOFT (i : Nat) : Fld := ⟨0x1008 + 0x100 * i, 10, 10⟩
abbrev F.CH_MUTE_C_PIN (i : Nat) : Fld := ⟨0x1008 + 0x100 * i, 9, 9⟩
abbrev F.CH_MUTE_C_START (i : Nat) : Fld := ⟨0x1008 + 0x100 * i, 8, 8⟩
abbrev F.CH_MUTE_REL_START (i : Nat) : Fld := ⟨0x1008 + 0x100 * i, 1, 1⟩
abbrev F.CH_MUTE_SW (i : Nat) : Fld := ⟨0x1008 + 0x100 * i, 0, 0⟩
abbrev F.CH_MBCNT_LA_REFUSED_CNT (i : Nat) : Fld := ⟨0x100c + 0x100 * i, 7, 0⟩
abbrev F.CH_BPTR_OFFS (i : Nat) : Fld := ⟨0x1010 + 0x100 * i, 11, 0⟩
abbrev F.CH_BDATA_WORD (i : Nat) : Fld := ⟨0x1020 + 0x100 * i, 31, 0⟩
abbrev F.CH_MOD_PRECHG (i : Nat) : Fld := ⟨0x1040 + 0x100 * i, 31, 24⟩
abbrev F.CH_MOD_BAL (i : Nat) : Fld := ⟨0x1040 + 0x100 * i, 23, 16⟩
abbrev F.CH_MOD_SRC (i : Nat) : Fld := ⟨0x1040 + 0x100 * i, 9, 8⟩
abbrev F.CH_MOD_PAR (i : Nat) : Fld := ⟨0x1040 + 0x100 * i, 4, 4⟩
abbrev F.CH_MOD_MODE (i : Nat) : Fld := ⟨0x1040 + 0x100 * i, 0, 0⟩
abbrev F.CH_TRP_LATCH_N (i : Nat) : Fld := ⟨0x1044 + 0x100 * i, 31, 24⟩
abbrev F.CH_TRP_LEAK_SH (i : Nat) : Fld := ⟨0x1044 + 0x100 * i, 23, 20⟩
abbrev F.CH_TRP_CMP_ACT (i : Nat) : Fld := ⟨0x1044 + 0x100 * i, 17, 16⟩
abbrev F.CH_TRP_HOLD (i : Nat) : Fld := ⟨0x1044 + 0x100 * i, 15, 8⟩
abbrev F.CH_TRP_SAFE_SEL (i : Nat) : Fld := ⟨0x1044 + 0x100 * i, 1, 0⟩
abbrev F.CH_TRST_CAUSE (i : Nat) : Fld := ⟨0x1048 + 0x100 * i, 15, 12⟩
abbrev F.CH_TRST_CBC_NOW (i : Nat) : Fld := ⟨0x1048 + 0x100 * i, 9, 9⟩
abbrev F.CH_TRST_LATCHED (i : Nat) : Fld := ⟨0x1048 + 0x100 * i, 8, 8⟩
abbrev F.CH_TRST_TCNT (i : Nat) : Fld := ⟨0x1048 + 0x100 * i, 7, 0⟩
abbrev F.CH_TCLR_FORCE (i : Nat) : Fld := ⟨0x104c + 0x100 * i, 1, 1⟩
abbrev F.CH_TCLR_CLR (i : Nat) : Fld := ⟨0x104c + 0x100 * i, 0, 0⟩
abbrev F.CH_TFLAG_CLR_REFUSED (i : Nat) : Fld := ⟨0x1050 + 0x100 * i, 2, 2⟩
abbrev F.CH_TFLAG_LATCH (i : Nat) : Fld := ⟨0x1050 + 0x100 * i, 1, 1⟩
abbrev F.CH_TFLAG_CBC (i : Nat) : Fld := ⟨0x1050 + 0x100 * i, 0, 0⟩
abbrev F.CH_TFCNT_CLR_REFUSED_CNT (i : Nat) : Fld := ⟨0x1054 + 0x100 * i, 23, 16⟩
abbrev F.CH_TFCNT_LATCH_CNT (i : Nat) : Fld := ⟨0x1054 + 0x100 * i, 15, 8⟩
abbrev F.CH_TFCNT_CBC_CNT (i : Nat) : Fld := ⟨0x1054 + 0x100 * i, 7, 0⟩
abbrev F.MOD_CMPW_CMP (i : Nat) : Fld := ⟨0x2000 + 0x100 * i, 15, 0⟩
abbrev F.MOD_CMPS_SHADOW (i : Nat) : Fld := ⟨0x2004 + 0x100 * i, 31, 16⟩
abbrev F.MOD_CMPS_ACTIVE (i : Nat) : Fld := ⟨0x2004 + 0x100 * i, 15, 0⟩
abbrev F.MOD_STAT_STATE (i : Nat) : Fld := ⟨0x2008 + 0x100 * i, 2, 1⟩
abbrev F.MOD_STAT_PENDING (i : Nat) : Fld := ⟨0x2008 + 0x100 * i, 0, 0⟩
abbrev F.MOD_DT_DT_F (i : Nat) : Fld := ⟨0x200c + 0x100 * i, 25, 16⟩
abbrev F.MOD_DT_DT_R (i : Nat) : Fld := ⟨0x200c + 0x100 * i, 9, 0⟩
abbrev F.MOD_LIM_BOOT_MAX (i : Nat) : Fld := ⟨0x2010 + 0x100 * i, 31, 24⟩
abbrev F.MOD_LIM_MIN_OFF (i : Nat) : Fld := ⟨0x2010 + 0x100 * i, 23, 16⟩
abbrev F.MOD_LIM_MIN_ON (i : Nat) : Fld := ⟨0x2010 + 0x100 * i, 7, 0⟩
abbrev F.MOD_TRGA_EN_UP1 (i : Nat) : Fld := ⟨0x2014 + 0x100 * i, 31, 31⟩
abbrev F.MOD_TRGA_EN_UP0 (i : Nat) : Fld := ⟨0x2014 + 0x100 * i, 30, 30⟩
abbrev F.MOD_TRGA_TGT (i : Nat) : Fld := ⟨0x2014 + 0x100 * i, 17, 16⟩
abbrev F.MOD_TRGA_POS (i : Nat) : Fld := ⟨0x2014 + 0x100 * i, 15, 0⟩
abbrev F.MOD_TRGB_EN_UP1 (i : Nat) : Fld := ⟨0x2018 + 0x100 * i, 31, 31⟩
abbrev F.MOD_TRGB_EN_UP0 (i : Nat) : Fld := ⟨0x2018 + 0x100 * i, 30, 30⟩
abbrev F.MOD_TRGB_TGT (i : Nat) : Fld := ⟨0x2018 + 0x100 * i, 17, 16⟩
abbrev F.MOD_TRGB_POS (i : Nat) : Fld := ⟨0x2018 + 0x100 * i, 15, 0⟩
abbrev F.MOD_DLH_SPAN (i : Nat) : Fld := ⟨0x2028 + 0x100 * i, 31, 16⟩
abbrev F.MOD_DLH_CAL_CNT (i : Nat) : Fld := ⟨0x2028 + 0x100 * i, 15, 8⟩
abbrev F.MOD_DLH_DEGRADED (i : Nat) : Fld := ⟨0x2028 + 0x100 * i, 1, 1⟩
abbrev F.MOD_DLH_LAST_FAIL (i : Nat) : Fld := ⟨0x2028 + 0x100 * i, 0, 0⟩
abbrev F.MOD_DLL_SPAN (i : Nat) : Fld := ⟨0x202c + 0x100 * i, 31, 16⟩
abbrev F.MOD_DLL_CAL_CNT (i : Nat) : Fld := ⟨0x202c + 0x100 * i, 15, 8⟩
abbrev F.MOD_DLL_DEGRADED (i : Nat) : Fld := ⟨0x202c + 0x100 * i, 1, 1⟩
abbrev F.MOD_DLL_LAST_FAIL (i : Nat) : Fld := ⟨0x202c + 0x100 * i, 0, 0⟩
abbrev F.MOD_FLAG_DL_FAIL (i : Nat) : Fld := ⟨0x2030 + 0x100 * i, 4, 4⟩
abbrev F.MOD_FLAG_BOOT_RF (i : Nat) : Fld := ⟨0x2030 + 0x100 * i, 3, 3⟩
abbrev F.MOD_FLAG_MINPULSE (i : Nat) : Fld := ⟨0x2030 + 0x100 * i, 2, 2⟩
abbrev F.MOD_FLAG_SHD_OVW (i : Nat) : Fld := ⟨0x2030 + 0x100 * i, 1, 1⟩
abbrev F.MOD_FLAG_RELOAD_HIT (i : Nat) : Fld := ⟨0x2030 + 0x100 * i, 0, 0⟩
abbrev F.MOD_FCNT0_BOOT_RF_CNT (i : Nat) : Fld := ⟨0x2034 + 0x100 * i, 31, 24⟩
abbrev F.MOD_FCNT0_MINPULSE_CNT (i : Nat) : Fld := ⟨0x2034 + 0x100 * i, 23, 16⟩
abbrev F.MOD_FCNT0_SHD_OVW_CNT (i : Nat) : Fld := ⟨0x2034 + 0x100 * i, 15, 8⟩
abbrev F.MOD_FCNT0_RELOAD_HIT_CNT (i : Nat) : Fld := ⟨0x2034 + 0x100 * i, 7, 0⟩
abbrev F.MOD_FCNT1_DL_FAIL_CNT (i : Nat) : Fld := ⟨0x2038 + 0x100 * i, 7, 0⟩
abbrev F.MOD_HAPP_H (i : Nat) : Fld := ⟨0x203c + 0x100 * i, 15, 0⟩
abbrev F.TRP_CFG_FLT_ACT (i : Nat) : Fld := ⟨0x2080 + 0x100 * i, 31, 30⟩
abbrev F.TRP_CFG_FILT (i : Nat) : Fld := ⟨0x2080 + 0x100 * i, 27, 24⟩
abbrev F.TRP_CFG_BLANK_HI (i : Nat) : Fld := ⟨0x2080 + 0x100 * i, 15, 8⟩
abbrev F.TRP_CFG_BLANK_LO (i : Nat) : Fld := ⟨0x2080 + 0x100 * i, 7, 0⟩
abbrev F.TRP_STAT_BLANKING (i : Nat) : Fld := ⟨0x2084 + 0x100 * i, 1, 1⟩
abbrev F.TRP_STAT_IN_ACT (i : Nat) : Fld := ⟨0x2084 + 0x100 * i, 0, 0⟩
abbrev F.TRP_FLAG_FLT_BLANKED (i : Nat) : Fld := ⟨0x2088 + 0x100 * i, 1, 1⟩
abbrev F.TRP_FLAG_FLT_DT (i : Nat) : Fld := ⟨0x2088 + 0x100 * i, 0, 0⟩
abbrev F.TRP_FCNT_FLT_BLANKED_CNT (i : Nat) : Fld := ⟨0x208c + 0x100 * i, 15, 8⟩
abbrev F.TRP_FCNT_FLT_DT_CNT (i : Nat) : Fld := ⟨0x208c + 0x100 * i, 7, 0⟩
abbrev F.SNS_CFG_RAIL_SEL (i : Nat) : Fld := ⟨0x4000 + 0x100 * i, 17, 16⟩
abbrev F.SNS_CFG_CMP_N (i : Nat) : Fld := ⟨0x4000 + 0x100 * i, 11, 8⟩
abbrev F.SNS_CFG_I_INV (i : Nat) : Fld := ⟨0x4000 + 0x100 * i, 1, 1⟩
abbrev F.SNS_CFG_V_INV (i : Nat) : Fld := ⟨0x4000 + 0x100 * i, 0, 0⟩
abbrev F.SNS_VFS_FS (i : Nat) : Fld := ⟨0x4004 + 0x100 * i, 31, 0⟩
abbrev F.SNS_IFS_FS (i : Nat) : Fld := ⟨0x4008 + 0x100 * i, 31, 0⟩
abbrev F.SNS_CMP_I_EN (i : Nat) : Fld := ⟨0x400c + 0x100 * i, 31, 31⟩
abbrev F.SNS_CMP_ILIM (i : Nat) : Fld := ⟨0x400c + 0x100 * i, 30, 16⟩
abbrev F.SNS_CMP_V_EN (i : Nat) : Fld := ⟨0x400c + 0x100 * i, 15, 15⟩
abbrev F.SNS_CMP_VLIM (i : Nat) : Fld := ⟨0x400c + 0x100 * i, 14, 0⟩
abbrev F.SNS_RES_I (i : Nat) : Fld := ⟨0x4010 + 0x100 * i, 31, 16⟩
abbrev F.SNS_RES_V (i : Nat) : Fld := ⟨0x4010 + 0x100 * i, 15, 0⟩
abbrev F.SNS_SLC_I_SLICE (i : Nat) : Fld := ⟨0x4014 + 0x100 * i, 13, 8⟩
abbrev F.SNS_SLC_V_SLICE (i : Nat) : Fld := ⟨0x4014 + 0x100 * i, 5, 0⟩
abbrev F.SNS_FLAG_CMP_I (i : Nat) : Fld := ⟨0x4018 + 0x100 * i, 5, 5⟩
abbrev F.SNS_FLAG_CMP_V (i : Nat) : Fld := ⟨0x4018 + 0x100 * i, 4, 4⟩
abbrev F.SNS_FLAG_STALE (i : Nat) : Fld := ⟨0x4018 + 0x100 * i, 3, 3⟩
abbrev F.SNS_FLAG_RETRY_LOST (i : Nat) : Fld := ⟨0x4018 + 0x100 * i, 2, 2⟩
abbrev F.SNS_FLAG_RETRY (i : Nat) : Fld := ⟨0x4018 + 0x100 * i, 1, 1⟩
abbrev F.SNS_FLAG_TRG_BUSY (i : Nat) : Fld := ⟨0x4018 + 0x100 * i, 0, 0⟩
abbrev F.SNS_FCNT0_STALE_CNT (i : Nat) : Fld := ⟨0x401c + 0x100 * i, 31, 24⟩
abbrev F.SNS_FCNT0_RETRY_LOST_CNT (i : Nat) : Fld := ⟨0x401c + 0x100 * i, 23, 16⟩
abbrev F.SNS_FCNT0_RETRY_CNT (i : Nat) : Fld := ⟨0x401c + 0x100 * i, 15, 8⟩
abbrev F.SNS_FCNT0_TRG_BUSY_CNT (i : Nat) : Fld := ⟨0x401c + 0x100 * i, 7, 0⟩
abbrev F.SNS_FCNT1_CMP_I_CNT (i : Nat) : Fld := ⟨0x4020 + 0x100 * i, 15, 8⟩
abbrev F.SNS_FCNT1_CMP_V_CNT (i : Nat) : Fld := ⟨0x4020 + 0x100 * i, 7, 0⟩
abbrev F.LPE_CTRL_SWAPNOW (i : Nat) : Fld := ⟨0x5000 + 0x200 * i, 0, 0⟩
abbrev F.LPE_CWCNT_CW_REFUSED_CNT (i : Nat) : Fld := ⟨0x5004 + 0x200 * i, 7, 0⟩
abbrev F.LPE_LIM_ISP_LIM (i : Nat) : Fld := ⟨0x5008 + 0x200 * i, 30, 16⟩
abbrev F.LPE_LIM_MLIM (i : Nat) : Fld := ⟨0x5008 + 0x200 * i, 14, 0⟩
abbrev F.LPE_ZOUT_KZ (i : Nat) : Fld := ⟨0x500c + 0x200 * i, 31, 16⟩
abbrev F.LPE_ZOUT_ZOUT (i : Nat) : Fld := ⟨0x500c + 0x200 * i, 15, 0⟩
abbrev F.LPE_CWR_INDEX (i : Nat) : Fld := ⟨0x5010 + 0x200 * i, 29, 24⟩
abbrev F.LPE_CWR_EXP_WR (i : Nat) : Fld := ⟨0x5010 + 0x200 * i, 23, 23⟩
abbrev F.LPE_CWR_EXP (i : Nat) : Fld := ⟨0x5010 + 0x200 * i, 22, 20⟩
abbrev F.LPE_CWR_VALUE (i : Nat) : Fld := ⟨0x5010 + 0x200 * i, 15, 0⟩
abbrev F.LPE_STAT_LANE (i : Nat) : Fld := ⟨0x5014 + 0x200 * i, 28, 24⟩
abbrev F.LPE_STAT_K_PROG (i : Nat) : Fld := ⟨0x5014 + 0x200 * i, 18, 16⟩
abbrev F.LPE_STAT_QUEUE (i : Nat) : Fld := ⟨0x5014 + 0x200 * i, 11, 8⟩
abbrev F.LPE_STAT_PROG_OK (i : Nat) : Fld := ⟨0x5014 + 0x200 * i, 6, 6⟩
abbrev F.LPE_STAT_LO_SEEN (i : Nat) : Fld := ⟨0x5014 + 0x200 * i, 5, 5⟩
abbrev F.LPE_STAT_HI_SEEN (i : Nat) : Fld := ⟨0x5014 + 0x200 * i, 4, 4⟩
abbrev F.LPE_STAT_SATO (i : Nat) : Fld := ⟨0x5014 + 0x200 * i, 3, 2⟩
abbrev F.LPE_STAT_SATI (i : Nat) : Fld := ⟨0x5014 + 0x200 * i, 1, 0⟩
abbrev F.LPE_FLAG_ISP_SAT (i : Nat) : Fld := ⟨0x5018 + 0x200 * i, 4, 4⟩
abbrev F.LPE_FLAG_OUT_SAT (i : Nat) : Fld := ⟨0x5018 + 0x200 * i, 3, 3⟩
abbrev F.LPE_FLAG_CW_REFUSED (i : Nat) : Fld := ⟨0x5018 + 0x200 * i, 2, 2⟩
abbrev F.LPE_FLAG_CW_DROP (i : Nat) : Fld := ⟨0x5018 + 0x200 * i, 1, 1⟩
abbrev F.LPE_FLAG_PROG_REFUSED (i : Nat) : Fld := ⟨0x5018 + 0x200 * i, 0, 0⟩
abbrev F.LPE_FCNT_ISP_SAT_CNT (i : Nat) : Fld := ⟨0x501c + 0x200 * i, 31, 24⟩
abbrev F.LPE_FCNT_OUT_SAT_CNT (i : Nat) : Fld := ⟨0x501c + 0x200 * i, 23, 16⟩
abbrev F.LPE_FCNT_CW_DROP_CNT (i : Nat) : Fld := ⟨0x501c + 0x200 * i, 15, 8⟩
abbrev F.LPE_FCNT_PROG_REFUSED_CNT (i : Nat) : Fld := ⟨0x501c + 0x200 * i, 7, 0⟩
abbrev F.LPE_PPTR_OFFS (i : Nat) : Fld := ⟨0x5020 + 0x200 * i, 7, 0⟩
abbrev F.LPE_PCHK_FIRST_BAD (i : Nat) : Fld := ⟨0x5024 + 0x200 * i, 15, 8⟩
abbrev F.LPE_PCHK_CODE (i : Nat) : Fld := ⟨0x5024 + 0x200 * i, 3, 0⟩
abbrev F.LPE_LPTR_LOFFS (i : Nat) : Fld := ⟨0x5028 + 0x200 * i, 7, 0⟩
abbrev F.LPE_SLK_OVR_CONS (i : Nat) : Fld := ⟨0x5040 + 0x200 * i, 17, 16⟩
abbrev F.LPE_SLK_MIN (i : Nat) : Fld := ⟨0x5040 + 0x200 * i, 15, 8⟩
abbrev F.LPE_SLK_LAST (i : Nat) : Fld := ⟨0x5040 + 0x200 * i, 7, 0⟩
abbrev F.LPE_FE_FE_EN (i : Nat) : Fld := ⟨0x5044 + 0x200 * i, 31, 31⟩
abbrev F.LPE_FE_FE_MS (i : Nat) : Fld := ⟨0x5044 + 0x200 * i, 30, 30⟩
abbrev F.LPE_FE_FE_SAT (i : Nat) : Fld := ⟨0x5044 + 0x200 * i, 29, 29⟩
abbrev F.LPE_FE_FE_RS (i : Nat) : Fld := ⟨0x5044 + 0x200 * i, 27, 24⟩
abbrev F.LPE_FE_FE_DLY (i : Nat) : Fld := ⟨0x5044 + 0x200 * i, 23, 20⟩
abbrev F.LPE_FE_FE_TIME (i : Nat) : Fld := ⟨0x5044 + 0x200 * i, 15, 8⟩
abbrev F.LPE_FELIM_FE_START (i : Nat) : Fld := ⟨0x5048 + 0x200 * i, 31, 16⟩
abbrev F.LPE_FELIM_FE_LIMIT (i : Nat) : Fld := ⟨0x5048 + 0x200 * i, 14, 0⟩
abbrev F.LPE_FEST_FE_PK (i : Nat) : Fld := ⟨0x504c + 0x200 * i, 30, 16⟩
abbrev F.LPE_FEST_FE_CNT (i : Nat) : Fld := ⟨0x504c + 0x200 * i, 7, 0⟩
abbrev F.LPE_INJ_INJ_EN (i : Nat) : Fld := ⟨0x5050 + 0x200 * i, 31, 31⟩
abbrev F.LPE_INJ_SHAPE (i : Nat) : Fld := ⟨0x5050 + 0x200 * i, 30, 30⟩
abbrev F.LPE_INJ_HALF (i : Nat) : Fld := ⟨0x5050 + 0x200 * i, 23, 16⟩
abbrev F.LPE_INJ_AMP (i : Nat) : Fld := ⟨0x5050 + 0x200 * i, 15, 0⟩
abbrev F.LPE_OFLAG_FE_OVER (i : Nat) : Fld := ⟨0x5054 + 0x200 * i, 3, 3⟩
abbrev F.LPE_OFLAG_FE_TRIP (i : Nat) : Fld := ⟨0x5054 + 0x200 * i, 2, 2⟩
abbrev F.LPE_OFLAG_OVR_TRIP (i : Nat) : Fld := ⟨0x5054 + 0x200 * i, 1, 1⟩
abbrev F.LPE_OFLAG_OVERRUN (i : Nat) : Fld := ⟨0x5054 + 0x200 * i, 0, 0⟩
abbrev F.LPE_OFCNT_FE_OVER_CNT (i : Nat) : Fld := ⟨0x5058 + 0x200 * i, 31, 24⟩
abbrev F.LPE_OFCNT_FE_TRIP_CNT (i : Nat) : Fld := ⟨0x5058 + 0x200 * i, 23, 16⟩
abbrev F.LPE_OFCNT_OVR_TRIP_CNT (i : Nat) : Fld := ⟨0x5058 + 0x200 * i, 15, 8⟩
abbrev F.LPE_OFCNT_OVERRUN_CNT (i : Nat) : Fld := ⟨0x5058 + 0x200 * i, 7, 0⟩
abbrev F.LPE_OCTL_CLR_PK (i : Nat) : Fld := ⟨0x505c + 0x200 * i, 1, 1⟩
abbrev F.LPE_OCTL_CLR_MIN (i : Nat) : Fld := ⟨0x505c + 0x200 * i, 0, 0⟩
abbrev F.LPE_PDATA_WORD (i : Nat) : Fld := ⟨0x5100 + 0x200 * i, 31, 0⟩
abbrev F.LPE_LDATA_WORD (i : Nat) : Fld := ⟨0x5140 + 0x200 * i, 31, 0⟩
abbrev F.SPK_PPTR_OFFS (i : Nat) : Fld := ⟨0x7000 + 0x80 * i, 5, 0⟩
abbrev F.SPK_LPTR_LOFFS (i : Nat) : Fld := ⟨0x7004 + 0x80 * i, 5, 0⟩
abbrev F.SPK_STAT_ADAPTING (i : Nat) : Fld := ⟨0x7008 + 0x80 * i, 7, 6⟩
abbrev F.SPK_STAT_PILOT_ON (i : Nat) : Fld := ⟨0x7008 + 0x80 * i, 5, 5⟩
abbrev F.SPK_STAT_MODE (i : Nat) : Fld := ⟨0x7008 + 0x80 * i, 1, 0⟩
abbrev F.SPK_XRES_SEQ (i : Nat) : Fld := ⟨0x700c + 0x80 * i, 31, 16⟩
abbrev F.SPK_XRES_XPK (i : Nat) : Fld := ⟨0x700c + 0x80 * i, 15, 0⟩
abbrev F.SPK_FLAG_CORR_LIM (i : Nat) : Fld := ⟨0x7010 + 0x80 * i, 2, 2⟩
abbrev F.SPK_FLAG_ID_REJECT (i : Nat) : Fld := ⟨0x7010 + 0x80 * i, 1, 1⟩
abbrev F.SPK_FLAG_PARAM_BADVAL (i : Nat) : Fld := ⟨0x7010 + 0x80 * i, 0, 0⟩
abbrev F.SPK_FCNT_CORR_LIM_CNT (i : Nat) : Fld := ⟨0x7014 + 0x80 * i, 23, 16⟩
abbrev F.SPK_FCNT_ID_REJECT_CNT (i : Nat) : Fld := ⟨0x7014 + 0x80 * i, 15, 8⟩
abbrev F.SPK_FCNT_PARAM_BADVAL_CNT (i : Nat) : Fld := ⟨0x7014 + 0x80 * i, 7, 0⟩
abbrev F.SPK_PDATA_WORD (i : Nat) : Fld := ⟨0x7020 + 0x80 * i, 31, 0⟩
abbrev F.SPK_LDATA_WORD (i : Nat) : Fld := ⟨0x7040 + 0x80 * i, 31, 0⟩
abbrev F.SPK_TRES0_SEQ (i : Nat) : Fld := ⟨0x7060 + 0x80 * i, 31, 16⟩
abbrev F.SPK_TRES0_TC (i : Nat) : Fld := ⟨0x7060 + 0x80 * i, 15, 0⟩
abbrev F.SPK_TRES1_TM (i : Nat) : Fld := ⟨0x7064 + 0x80 * i, 31, 16⟩
abbrev F.SPK_TRES1_RE_EST (i : Nat) : Fld := ⟨0x7064 + 0x80 * i, 15, 0⟩
abbrev F.SPK_IDR0_SEQ (i : Nat) : Fld := ⟨0x7068 + 0x80 * i, 31, 16⟩
abbrev F.SPK_IDR0_REASON (i : Nat) : Fld := ⟨0x7068 + 0x80 * i, 3, 0⟩
abbrev F.SPK_IDR1_RE (i : Nat) : Fld := ⟨0x706c + 0x80 * i, 31, 0⟩
abbrev F.SPK_IDR2_SB (i : Nat) : Fld := ⟨0x7070 + 0x80 * i, 31, 0⟩
abbrev F.SPK_IDR3_SK (i : Nat) : Fld := ⟨0x7074 + 0x80 * i, 31, 0⟩
abbrev F.SPK_IDR4_SL (i : Nat) : Fld := ⟨0x7078 + 0x80 * i, 31, 0⟩
abbrev F.SPK_IDR5_RMS (i : Nat) : Fld := ⟨0x707c + 0x80 * i, 31, 0⟩
abbrev F.VENT_FLAG_CORE_STOP : Fld := ⟨0x7800, 3, 3⟩
abbrev F.VENT_FLAG_CORE_UE : Fld := ⟨0x7800, 2, 2⟩
abbrev F.VENT_FLAG_FB_ENTER : Fld := ⟨0x7800, 1, 1⟩
abbrev F.VENT_FLAG_V_OVERRUN : Fld := ⟨0x7800, 0, 0⟩
abbrev F.VENT_FCNT_CORE_STOP_CNT : Fld := ⟨0x7804, 31, 24⟩
abbrev F.VENT_FCNT_CORE_UE_CNT : Fld := ⟨0x7804, 23, 16⟩
abbrev F.VENT_FCNT_FB_ENTER_CNT : Fld := ⟨0x7804, 15, 8⟩
abbrev F.VENT_FCNT_V_OVERRUN_CNT : Fld := ⟨0x7804, 7, 0⟩
abbrev F.VENT_STAT_LOAD1 : Fld := ⟨0x7808, 31, 24⟩
abbrev F.VENT_STAT_LOAD0 : Fld := ⟨0x7808, 23, 16⟩
abbrev F.VENT_STAT_STOPPED1 : Fld := ⟨0x7808, 9, 9⟩
abbrev F.VENT_STAT_STOPPED0 : Fld := ⟨0x7808, 8, 8⟩
abbrev F.VENT_STAT_OVR_CONS1 : Fld := ⟨0x7808, 6, 4⟩
abbrev F.VENT_STAT_OVR_CONS0 : Fld := ⟨0x7808, 2, 0⟩
abbrev F.VENT_CTRL_CLR_LOAD : Fld := ⟨0x780c, 0, 0⟩
abbrev F.VENT_TAMB_TAMB : Fld := ⟨0x7810, 15, 0⟩
abbrev F.DIA_PCFG_XP_EN (i : Nat) : Fld := ⟨0x8000 + 0x80 * i, 31, 31⟩
abbrev F.DIA_PCFG_TH_EN (i : Nat) : Fld := ⟨0x8000 + 0x80 * i, 30, 30⟩
abbrev F.DIA_PCFG_PC_EN (i : Nat) : Fld := ⟨0x8000 + 0x80 * i, 29, 29⟩
abbrev F.DIA_PCFG_PC_MAX (i : Nat) : Fld := ⟨0x8000 + 0x80 * i, 28, 26⟩
abbrev F.DIA_PCFG_W (i : Nat) : Fld := ⟨0x8000 + 0x80 * i, 25, 16⟩
abbrev F.DIA_PCFG_XMARG (i : Nat) : Fld := ⟨0x8000 + 0x80 * i, 15, 8⟩
abbrev F.DIA_PCFG_REL (i : Nat) : Fld := ⟨0x8000 + 0x80 * i, 7, 0⟩
abbrev F.DIA_TCFG_KNEE (i : Nat) : Fld := ⟨0x8004 + 0x80 * i, 31, 24⟩
abbrev F.DIA_TCFG_TAU_T (i : Nat) : Fld := ⟨0x8004 + 0x80 * i, 23, 16⟩
abbrev F.DIA_TCFG_T_FALL (i : Nat) : Fld := ⟨0x8004 + 0x80 * i, 15, 8⟩
abbrev F.DIA_TCFG_T_RISE (i : Nat) : Fld := ⟨0x8004 + 0x80 * i, 7, 0⟩
abbrev F.DIA_LCFG_LD_EN (i : Nat) : Fld := ⟨0x8008 + 0x80 * i, 31, 31⟩
abbrev F.DIA_LCFG_NCAB_M1 (i : Nat) : Fld := ⟨0x8008 + 0x80 * i, 30, 28⟩
abbrev F.DIA_LCFG_DN (i : Nat) : Fld := ⟨0x8008 + 0x80 * i, 27, 24⟩
abbrev F.DIA_LCFG_SHORT_R (i : Nat) : Fld := ⟨0x8008 + 0x80 * i, 23, 16⟩
abbrev F.DIA_LCFG_MC_TOL (i : Nat) : Fld := ⟨0x8008 + 0x80 * i, 15, 8⟩
abbrev F.DIA_LCFG_DRIFT_TOL (i : Nat) : Fld := ⟨0x8008 + 0x80 * i, 7, 0⟩
abbrev F.DIA_LCFG2_DRIFT_TAU (i : Nat) : Fld := ⟨0x800c + 0x80 * i, 23, 16⟩
abbrev F.DIA_LCFG2_RUB_LIM (i : Nat) : Fld := ⟨0x800c + 0x80 * i, 15, 8⟩
abbrev F.DIA_STAT_LOAD (i : Nat) : Fld := ⟨0x8010 + 0x80 * i, 23, 20⟩
abbrev F.DIA_STAT_MISS (i : Nat) : Fld := ⟨0x8010 + 0x80 * i, 19, 16⟩
abbrev F.DIA_STAT_SW_RUN (i : Nat) : Fld := ⟨0x8010 + 0x80 * i, 8, 8⟩
abbrev F.DIA_STAT_RUB_ON (i : Nat) : Fld := ⟨0x8010 + 0x80 * i, 4, 4⟩
abbrev F.DIA_STAT_DRIFT_ON (i : Nat) : Fld := ⟨0x8010 + 0x80 * i, 3, 3⟩
abbrev F.DIA_STAT_TLIM (i : Nat) : Fld := ⟨0x8010 + 0x80 * i, 2, 2⟩
abbrev F.DIA_STAT_XLIM (i : Nat) : Fld := ⟨0x8010 + 0x80 * i, 1, 1⟩
abbrev F.DIA_STAT_VALID (i : Nat) : Fld := ⟨0x8010 + 0x80 * i, 0, 0⟩
abbrev F.DIA_FLAG_SW_REFUSED (i : Nat) : Fld := ⟨0x8014 + 0x80 * i, 7, 7⟩
abbrev F.DIA_FLAG_SW_ABORT (i : Nat) : Fld := ⟨0x8014 + 0x80 * i, 6, 6⟩
abbrev F.DIA_FLAG_X_OVER (i : Nat) : Fld := ⟨0x8014 + 0x80 * i, 5, 5⟩
abbrev F.DIA_FLAG_RUB (i : Nat) : Fld := ⟨0x8014 + 0x80 * i, 4, 4⟩
abbrev F.DIA_FLAG_DRIFT (i : Nat) : Fld := ⟨0x8014 + 0x80 * i, 3, 3⟩
abbrev F.DIA_FLAG_MISSING (i : Nat) : Fld := ⟨0x8014 + 0x80 * i, 2, 2⟩
abbrev F.DIA_FLAG_SHORT (i : Nat) : Fld := ⟨0x8014 + 0x80 * i, 1, 1⟩
abbrev F.DIA_FLAG_OPEN (i : Nat) : Fld := ⟨0x8014 + 0x80 * i, 0, 0⟩
abbrev F.DIA_FCNT0_DRIFT_CNT (i : Nat) : Fld := ⟨0x8018 + 0x80 * i, 31, 24⟩
abbrev F.DIA_FCNT0_MISSING_CNT (i : Nat) : Fld := ⟨0x8018 + 0x80 * i, 23, 16⟩
abbrev F.DIA_FCNT0_SHORT_CNT (i : Nat) : Fld := ⟨0x8018 + 0x80 * i, 15, 8⟩
abbrev F.DIA_FCNT0_OPEN_CNT (i : Nat) : Fld := ⟨0x8018 + 0x80 * i, 7, 0⟩
abbrev F.DIA_FCNT1_SW_REFUSED_CNT (i : Nat) : Fld := ⟨0x801c + 0x80 * i, 31, 24⟩
abbrev F.DIA_FCNT1_SW_ABORT_CNT (i : Nat) : Fld := ⟨0x801c + 0x80 * i, 23, 16⟩
abbrev F.DIA_FCNT1_X_OVER_CNT (i : Nat) : Fld := ⟨0x801c + 0x80 * i, 15, 8⟩
abbrev F.DIA_FCNT1_RUB_CNT (i : Nat) : Fld := ⟨0x801c + 0x80 * i, 7, 0⟩
abbrev F.DIA_PRES0_SEQ (i : Nat) : Fld := ⟨0x8020 + 0x80 * i, 31, 16⟩
abbrev F.DIA_PRES0_GMIN (i : Nat) : Fld := ⟨0x8020 + 0x80 * i, 15, 0⟩
abbrev F.DIA_PRES1_GXMIN (i : Nat) : Fld := ⟨0x8024 + 0x80 * i, 31, 16⟩
abbrev F.DIA_PRES1_GTC (i : Nat) : Fld := ⟨0x8024 + 0x80 * i, 15, 0⟩
abbrev F.DIA_PRES2_PCOMP (i : Nat) : Fld := ⟨0x8028 + 0x80 * i, 31, 16⟩
abbrev F.DIA_PRES2_PCOIL (i : Nat) : Fld := ⟨0x8028 + 0x80 * i, 15, 0⟩
abbrev F.DIA_LRES0_SEQ (i : Nat) : Fld := ⟨0x802c + 0x80 * i, 31, 16⟩
abbrev F.DIA_LRES0_RHO (i : Nat) : Fld := ⟨0x802c + 0x80 * i, 15, 0⟩
abbrev F.DIA_LRES1_RUB (i : Nat) : Fld := ⟨0x8030 + 0x80 * i, 31, 16⟩
abbrev F.DIA_LRES1_RHO_SLOW (i : Nat) : Fld := ⟨0x8030 + 0x80 * i, 15, 0⟩
abbrev F.DIA_SWCFG_NPTS_M1 (i : Nat) : Fld := ⟨0x8034 + 0x80 * i, 31, 26⟩
abbrev F.DIA_SWCFG_SW_A (i : Nat) : Fld := ⟨0x8034 + 0x80 * i, 23, 16⟩
abbrev F.DIA_SWCFG_F_LO (i : Nat) : Fld := ⟨0x8034 + 0x80 * i, 15, 0⟩
abbrev F.DIA_SWCFG2_F_HI (i : Nat) : Fld := ⟨0x8038 + 0x80 * i, 15, 0⟩
abbrev F.DIA_SWCTRL_ABORT (i : Nat) : Fld := ⟨0x803c + 0x80 * i, 1, 1⟩
abbrev F.DIA_SWCTRL_START (i : Nat) : Fld := ⟨0x803c + 0x80 * i, 0, 0⟩
abbrev F.DIA_SWSTAT_POINT (i : Nat) : Fld := ⟨0x8040 + 0x80 * i, 13, 8⟩
abbrev F.DIA_SWSTAT_REASON (i : Nat) : Fld := ⟨0x8040 + 0x80 * i, 6, 4⟩
abbrev F.DIA_SWSTAT_STATE (i : Nat) : Fld := ⟨0x8040 + 0x80 * i, 1, 0⟩
abbrev F.DIA_SWSUM0_SEQ (i : Nat) : Fld := ⟨0x8044 + 0x80 * i, 31, 16⟩
abbrev F.DIA_SWSUM0_IMAX (i : Nat) : Fld := ⟨0x8044 + 0x80 * i, 15, 8⟩
abbrev F.DIA_SWSUM0_IMIN (i : Nat) : Fld := ⟨0x8044 + 0x80 * i, 7, 0⟩
abbrev F.DIA_SWSUM1_ZMAX (i : Nat) : Fld := ⟨0x8048 + 0x80 * i, 31, 0⟩
abbrev F.DIA_SWSUM2_ZMIN (i : Nat) : Fld := ⟨0x804c + 0x80 * i, 31, 0⟩
abbrev F.DIA_SWSUM3_ZLOW (i : Nat) : Fld := ⟨0x8050 + 0x80 * i, 31, 0⟩
abbrev F.DIA_SWPTR_WPTR (i : Nat) : Fld := ⟨0x8054 + 0x80 * i, 7, 0⟩
abbrev F.DIA_SWDATA_WORD (i : Nat) : Fld := ⟨0x8060 + 0x80 * i, 31, 0⟩
abbrev F.DIA_SUM_CH : Fld := ⟨0x8800, 15, 0⟩
abbrev F.RNG_CFG_EN (i : Nat) : Fld := ⟨0x9000 + 0x80 * i, 31, 31⟩
abbrev F.RNG_CFG_BATCH_M1 (i : Nat) : Fld := ⟨0x9000 + 0x80 * i, 26, 24⟩
abbrev F.RNG_CFG_OWNER (i : Nat) : Fld := ⟨0x9000 + 0x80 * i, 16, 16⟩
abbrev F.RNG_CFG_SIZE (i : Nat) : Fld := ⟨0x9000 + 0x80 * i, 2, 0⟩
abbrev F.RNG_WPTR_WSEQ (i : Nat) : Fld := ⟨0x9004 + 0x80 * i, 31, 16⟩
abbrev F.RNG_WPTR_WIDX (i : Nat) : Fld := ⟨0x9004 + 0x80 * i, 9, 0⟩
abbrev F.RNG_RPTR_RSEQ (i : Nat) : Fld := ⟨0x9008 + 0x80 * i, 31, 16⟩
abbrev F.RNG_RPTR_RIDX (i : Nat) : Fld := ⟨0x9008 + 0x80 * i, 9, 0⟩
abbrev F.RNG_STAT_FULL (i : Nat) : Fld := ⟨0x900c + 0x80 * i, 12, 12⟩
abbrev F.RNG_STAT_EMPTY (i : Nat) : Fld := ⟨0x900c + 0x80 * i, 11, 11⟩
abbrev F.RNG_STAT_COUNT (i : Nat) : Fld := ⟨0x900c + 0x80 * i, 10, 0⟩
abbrev F.RNG_FLAG_NOT_OWNER (i : Nat) : Fld := ⟨0x9010 + 0x80 * i, 6, 6⟩
abbrev F.RNG_FLAG_RD_EMPTY (i : Nat) : Fld := ⟨0x9010 + 0x80 * i, 5, 5⟩
abbrev F.RNG_FLAG_CFG_REFUSED (i : Nat) : Fld := ⟨0x9010 + 0x80 * i, 4, 4⟩
abbrev F.RNG_FLAG_DROP (i : Nat) : Fld := ⟨0x9010 + 0x80 * i, 3, 3⟩
abbrev F.RNG_FLAG_UE (i : Nat) : Fld := ⟨0x9010 + 0x80 * i, 2, 2⟩
abbrev F.RNG_FLAG_CMD_REJ (i : Nat) : Fld := ⟨0x9010 + 0x80 * i, 1, 1⟩
abbrev F.RNG_FLAG_PUSH_REFUSED (i : Nat) : Fld := ⟨0x9010 + 0x80 * i, 0, 0⟩
abbrev F.RNG_FCNT0_DROP_CNT (i : Nat) : Fld := ⟨0x9014 + 0x80 * i, 31, 24⟩
abbrev F.RNG_FCNT0_UE_CNT (i : Nat) : Fld := ⟨0x9014 + 0x80 * i, 23, 16⟩
abbrev F.RNG_FCNT0_CMD_REJ_CNT (i : Nat) : Fld := ⟨0x9014 + 0x80 * i, 15, 8⟩
abbrev F.RNG_FCNT0_PUSH_REFUSED_CNT (i : Nat) : Fld := ⟨0x9014 + 0x80 * i, 7, 0⟩
abbrev F.RNG_FCNT1_NOT_OWNER_CNT (i : Nat) : Fld := ⟨0x9018 + 0x80 * i, 23, 16⟩
abbrev F.RNG_FCNT1_RD_EMPTY_CNT (i : Nat) : Fld := ⟨0x9018 + 0x80 * i, 15, 8⟩
abbrev F.RNG_FCNT1_CFG_REFUSED_CNT (i : Nat) : Fld := ⟨0x9018 + 0x80 * i, 7, 0⟩
abbrev F.RNG_LOST_LOST (i : Nat) : Fld := ⟨0x901c + 0x80 * i, 15, 0⟩
abbrev F.RNG_WDATA0_WORD (i : Nat) : Fld := ⟨0x9020 + 0x80 * i, 31, 0⟩
abbrev F.RNG_WDATA1_WORD (i : Nat) : Fld := ⟨0x9024 + 0x80 * i, 31, 0⟩
abbrev F.RNG_WDATA2_WORD (i : Nat) : Fld := ⟨0x9028 + 0x80 * i, 31, 0⟩
abbrev F.RNG_WDATA3_WORD (i : Nat) : Fld := ⟨0x902c + 0x80 * i, 31, 0⟩
abbrev F.RNG_RDATA0_WORD (i : Nat) : Fld := ⟨0x9040 + 0x80 * i, 31, 0⟩
abbrev F.RNG_RDATA1_WORD (i : Nat) : Fld := ⟨0x9044 + 0x80 * i, 31, 0⟩
abbrev F.RNG_RDATA2_WORD (i : Nat) : Fld := ⟨0x9048 + 0x80 * i, 31, 0⟩
abbrev F.RNG_RDATA3_WORD (i : Nat) : Fld := ⟨0x904c + 0x80 * i, 31, 0⟩
abbrev F.TRC_CFG_STATE (i : Nat) : Fld := ⟨0xa000 + 0x20 * i, 31, 30⟩
abbrev F.TRC_CFG_CH (i : Nat) : Fld := ⟨0xa000 + 0x20 * i, 27, 24⟩
abbrev F.TRC_CFG_DEC (i : Nat) : Fld := ⟨0xa000 + 0x20 * i, 22, 20⟩
abbrev F.TRC_CFG_POST (i : Nat) : Fld := ⟨0xa000 + 0x20 * i, 10, 0⟩
abbrev F.TRC_NODE0_N3 (i : Nat) : Fld := ⟨0xa004 + 0x20 * i, 31, 24⟩
abbrev F.TRC_NODE0_N2 (i : Nat) : Fld := ⟨0xa004 + 0x20 * i, 23, 16⟩
abbrev F.TRC_NODE0_N1 (i : Nat) : Fld := ⟨0xa004 + 0x20 * i, 15, 8⟩
abbrev F.TRC_NODE0_N0 (i : Nat) : Fld := ⟨0xa004 + 0x20 * i, 7, 0⟩
abbrev F.TRC_NODE1_N6 (i : Nat) : Fld := ⟨0xa008 + 0x20 * i, 23, 16⟩
abbrev F.TRC_NODE1_N5 (i : Nat) : Fld := ⟨0xa008 + 0x20 * i, 15, 8⟩
abbrev F.TRC_NODE1_N4 (i : Nat) : Fld := ⟨0xa008 + 0x20 * i, 7, 0⟩
abbrev F.TRC_TRIG_TSRC (i : Nat) : Fld := ⟨0xa00c + 0x20 * i, 31, 28⟩
abbrev F.TRC_TRIG_TBUF (i : Nat) : Fld := ⟨0xa00c + 0x20 * i, 27, 24⟩
abbrev F.TRC_TRIG_LEVEL (i : Nat) : Fld := ⟨0xa00c + 0x20 * i, 15, 0⟩
abbrev F.TRC_IDX_WRAPPED (i : Nat) : Fld := ⟨0xa010 + 0x20 * i, 31, 31⟩
abbrev F.TRC_IDX_TRIG_IDX (i : Nat) : Fld := ⟨0xa010 + 0x20 * i, 26, 16⟩
abbrev F.TRC_IDX_WR_IDX (i : Nat) : Fld := ⟨0xa010 + 0x20 * i, 10, 0⟩
abbrev F.TRC_CTRL_FORCE (i : Nat) : Fld := ⟨0xa014 + 0x20 * i, 2, 2⟩
abbrev F.TRC_CTRL_STOP (i : Nat) : Fld := ⟨0xa014 + 0x20 * i, 1, 1⟩
abbrev F.TRC_CTRL_ARM (i : Nat) : Fld := ⟨0xa014 + 0x20 * i, 0, 0⟩
abbrev F.TRC_RPTR_BUF : Fld := ⟨0xa200, 19, 16⟩
abbrev F.TRC_RPTR_ENTRY : Fld := ⟨0xa200, 12, 2⟩
abbrev F.TRC_RPTR_WORD : Fld := ⟨0xa200, 1, 0⟩
abbrev F.TRC_FLAG_CFG_BUSY : Fld := ⟨0xa204, 2, 2⟩
abbrev F.TRC_FLAG_RD_BUSY : Fld := ⟨0xa204, 1, 1⟩
abbrev F.TRC_FLAG_TRC_DROP : Fld := ⟨0xa204, 0, 0⟩
abbrev F.TRC_FCNT_CFG_BUSY_CNT : Fld := ⟨0xa208, 23, 16⟩
abbrev F.TRC_FCNT_RD_BUSY_CNT : Fld := ⟨0xa208, 15, 8⟩
abbrev F.TRC_FCNT_TRC_DROP_CNT : Fld := ⟨0xa208, 7, 0⟩
abbrev F.TRC_RDATA_DATA : Fld := ⟨0xa220, 31, 0⟩
abbrev F.MGR_NODE_SLOT (i : Nat) : Fld := ⟨0xb000 + 0x4 * i, 31, 0⟩
abbrev F.MGR_NVALID_VALID : Fld := ⟨0xb800, 31, 0⟩
abbrev F.MGR_STAT_MASTER : Fld := ⟨0xb804, 31, 31⟩
abbrev F.MGR_STAT_FOLDED : Fld := ⟨0xb804, 30, 30⟩
abbrev F.MGR_STAT_NODES : Fld := ⟨0xb804, 29, 24⟩
abbrev F.MGR_STAT_PAIRS : Fld := ⟨0xb804, 23, 16⟩
abbrev F.MGR_STAT_QUEUE : Fld := ⟨0xb804, 4, 0⟩
abbrev F.MGR_FLAG_NEW_MASTER : Fld := ⟨0xb808, 3, 3⟩
abbrev F.MGR_FLAG_CQ_FULL : Fld := ⟨0xb808, 2, 2⟩
abbrev F.MGR_FLAG_CMD_LATE : Fld := ⟨0xb808, 1, 1⟩
abbrev F.MGR_FLAG_CMD_FAIL : Fld := ⟨0xb808, 0, 0⟩
abbrev F.MGR_FCNT_NEW_MASTER_CNT : Fld := ⟨0xb80c, 31, 24⟩
abbrev F.MGR_FCNT_CQ_FULL_CNT : Fld := ⟨0xb80c, 23, 16⟩
abbrev F.MGR_FCNT_CMD_LATE_CNT : Fld := ⟨0xb80c, 15, 8⟩
abbrev F.MGR_FCNT_CMD_FAIL_CNT : Fld := ⟨0xb80c, 7, 0⟩
abbrev F.MGR_CQHDR_DEST : Fld := ⟨0xb810, 31, 24⟩
abbrev F.MGR_CQHDR_CTYPE : Fld := ⟨0xb810, 23, 16⟩
abbrev F.MGR_CQHDR_USE_TIME : Fld := ⟨0xb810, 15, 15⟩
abbrev F.MGR_CQT0_S : Fld := ⟨0xb814, 15, 0⟩
abbrev F.MGR_CQT1_S : Fld := ⟨0xb818, 31, 0⟩
abbrev F.MGR_CQT2_NS : Fld := ⟨0xb81c, 31, 0⟩
abbrev F.MGR_CQDATA0_PAYLOAD : Fld := ⟨0xb820, 31, 0⟩
abbrev F.MGR_CQDATA1_PAYLOAD : Fld := ⟨0xb824, 31, 0⟩
abbrev F.MGR_CQDATA2_PAYLOAD : Fld := ⟨0xb828, 31, 0⟩
abbrev F.MGR_CQDATA3_PAYLOAD : Fld := ⟨0xb82c, 31, 0⟩
abbrev F.MGR_CQDATA4_PAYLOAD : Fld := ⟨0xb830, 31, 0⟩
abbrev F.MGR_CQDATA5_PAYLOAD : Fld := ⟨0xb834, 31, 0⟩
abbrev F.MGR_CQDATA6_PAYLOAD : Fld := ⟨0xb838, 31, 0⟩
abbrev F.MGR_CQDATA7_PAYLOAD : Fld := ⟨0xb83c, 31, 0⟩
abbrev F.MGR_CQCTRL_CSEQ : Fld := ⟨0xb840, 31, 16⟩
abbrev F.MGR_CQCTRL_GO : Fld := ⟨0xb840, 0, 0⟩
abbrev F.MGR_CQRES0_SEQ : Fld := ⟨0xb844, 31, 16⟩
abbrev F.MGR_CQRES0_CSEQ : Fld := ⟨0xb844, 15, 0⟩
abbrev F.MGR_CQRES1_FAIL : Fld := ⟨0xb848, 31, 0⟩
abbrev F.MGR_CQRES2_STATUS : Fld := ⟨0xb84c, 1, 0⟩

abbrev G.SYS_MUTE_PIN : Flag := ⟨0x1c, 2, 0xa0, 16⟩
abbrev G.SYS_LC_REFUSED : Flag := ⟨0x1c, 1, 0xa0, 8⟩
abbrev G.SYS_FW_TMO : Flag := ⟨0x1c, 0, 0xa0, 0⟩
abbrev G.SYS_GD7_STALL : Flag := ⟨0x20, 6, 0x28, 16⟩
abbrev G.SYS_GD6_STALL : Flag := ⟨0x20, 5, 0x28, 8⟩
abbrev G.SYS_GD5_STALL : Flag := ⟨0x20, 4, 0x28, 0⟩
abbrev G.SYS_GD4_STALL : Flag := ⟨0x20, 3, 0x24, 24⟩
abbrev G.SYS_GD3_STALL : Flag := ⟨0x20, 2, 0x24, 16⟩
abbrev G.SYS_GD2_STALL : Flag := ⟨0x20, 1, 0x24, 8⟩
abbrev G.SYS_GD1_STALL : Flag := ⟨0x20, 0, 0x24, 0⟩
abbrev G.TS_CFG_LOCKED : Flag := ⟨0x48, 8, 0x50, 24⟩
abbrev G.TS_XTAL_CLK : Flag := ⟨0x48, 7, 0x50, 16⟩
abbrev G.TS_TWIN_CLK : Flag := ⟨0x48, 6, 0x50, 8⟩
abbrev G.TS_MGMT_CLK : Flag := ⟨0x48, 5, 0x50, 0⟩
abbrev G.TS_NET_CLK : Flag := ⟨0x48, 4, 0x4c, 24⟩
abbrev G.TS_TEMP_WARN : Flag := ⟨0x48, 3, 0x4c, 16⟩
abbrev G.TS_CLR_REFUSED : Flag := ⟨0x48, 2, 0x4c, 8⟩
abbrev G.TS_DEV_SAFE : Flag := ⟨0x48, 0, 0x4c, 0⟩
abbrev G.FAB_PORT_DOWN : Flag := ⟨0x84, 4, 0x8c, 0⟩
abbrev G.FAB_BURST_CUT : Flag := ⟨0x84, 3, 0x88, 24⟩
abbrev G.FAB_UE_RESP : Flag := ⟨0x84, 2, 0x88, 16⟩
abbrev G.FAB_TIMEOUT : Flag := ⟨0x84, 1, 0x88, 8⟩
abbrev G.FAB_DECERR : Flag := ⟨0x84, 0, 0x88, 0⟩
abbrev G.CLK_TWIN_UNLOCK : Flag := ⟨0x114, 2, 0x118, 16⟩
abbrev G.CLK_NET_UNLOCK : Flag := ⟨0x114, 1, 0x118, 8⟩
abbrev G.CLK_SYS_UNLOCK : Flag := ⟨0x114, 0, 0x118, 0⟩
abbrev G.PWM_MOD_REFUSED : Flag := ⟨0x144, 1, 0x148, 8⟩
abbrev G.PWM_FSW_REFUSED : Flag := ⟨0x144, 0, 0x148, 0⟩
abbrev G.SNSD_NO_SPARE : Flag := ⟨0x194, 3, 0x198, 24⟩
abbrev G.SNSD_RETIRE : Flag := ⟨0x194, 2, 0x198, 16⟩
abbrev G.SNSD_SWAP_MISMATCH : Flag := ⟨0x194, 1, 0x198, 8⟩
abbrev G.SNSD_SWAP : Flag := ⟨0x194, 0, 0x198, 0⟩
abbrev G.RAIL_UV3 : Flag := ⟨0x1d0, 7, 0x1d8, 24⟩
abbrev G.RAIL_UV2 : Flag := ⟨0x1d0, 6, 0x1d8, 16⟩
abbrev G.RAIL_UV1 : Flag := ⟨0x1d0, 5, 0x1d8, 8⟩
abbrev G.RAIL_UV0 : Flag := ⟨0x1d0, 4, 0x1d8, 0⟩
abbrev G.RAIL_OV3 : Flag := ⟨0x1d0, 3, 0x1d4, 24⟩
abbrev G.RAIL_OV2 : Flag := ⟨0x1d0, 2, 0x1d4, 16⟩
abbrev G.RAIL_OV1 : Flag := ⟨0x1d0, 1, 0x1d4, 8⟩
abbrev G.RAIL_OV0 : Flag := ⟨0x1d0, 0, 0x1d4, 0⟩
abbrev G.LANE_FSWAP_REFUSED : Flag := ⟨0x1e8, 4, 0x1f0, 0⟩
abbrev G.LANE_NO_SPARE : Flag := ⟨0x1e8, 3, 0x1ec, 24⟩
abbrev G.LANE_RETIRE : Flag := ⟨0x1e8, 2, 0x1ec, 16⟩
abbrev G.LANE_LANE_SWAP : Flag := ⟨0x1e8, 1, 0x1ec, 8⟩
abbrev G.LANE_MISMATCH : Flag := ⟨0x1e8, 0, 0x1ec, 0⟩
abbrev G.IMG_QSPI_REFUSED : Flag := ⟨0x228, 2, 0x22c, 16⟩
abbrev G.IMG_SLOT_FALLBACK : Flag := ⟨0x228, 1, 0x22c, 8⟩
abbrev G.IMG_REC_SKIP : Flag := ⟨0x228, 0, 0x22c, 0⟩
abbrev G.HST_REQ_COLLIDE : Flag := ⟨0x300, 9, 0x30c, 8⟩
abbrev G.HST_SDA_TMO : Flag := ⟨0x300, 8, 0x30c, 0⟩
abbrev G.HST_SCL_TMO : Flag := ⟨0x300, 7, 0x308, 24⟩
abbrev G.HST_RD_FAIL : Flag := ⟨0x300, 6, 0x308, 16⟩
abbrev G.HST_GRP_READ : Flag := ⟨0x300, 5, 0x308, 8⟩
abbrev G.HST_GRP_MISS : Flag := ⟨0x300, 4, 0x308, 0⟩
abbrev G.HST_BUSY_NACK : Flag := ⟨0x300, 3, 0x304, 24⟩
abbrev G.HST_BYTE_DISC : Flag := ⟨0x300, 2, 0x304, 16⟩
abbrev G.HST_WR_OVER : Flag := ⟨0x300, 1, 0x304, 8⟩
abbrev G.HST_PARTIAL : Flag := ⟨0x300, 0, 0x304, 0⟩
abbrev G.MEM_VERIFY : Flag := ⟨0x400, 6, 0x408, 16⟩
abbrev G.MEM_NO_SPARE_ROW : Flag := ⟨0x400, 5, 0x408, 8⟩
abbrev G.MEM_REPAIR : Flag := ⟨0x400, 4, 0x408, 0⟩
abbrev G.MEM_PATH_UE : Flag := ⟨0x400, 3, 0x404, 24⟩
abbrev G.MEM_PATH_CE : Flag := ⟨0x400, 2, 0x404, 16⟩
abbrev G.MEM_UE : Flag := ⟨0x400, 1, 0x404, 8⟩
abbrev G.MEM_CE : Flag := ⟨0x400, 0, 0x404, 0⟩
abbrev G.BKG_LOG_FALLBACK : Flag := ⟨0x508, 5, 0x510, 8⟩
abbrev G.BKG_LOG_EMPTY : Flag := ⟨0x508, 4, 0x510, 0⟩
abbrev G.BKG_FL_BUSY : Flag := ⟨0x508, 3, 0x50c, 24⟩
abbrev G.BKG_LOG_OVER : Flag := ⟨0x508, 2, 0x50c, 16⟩
abbrev G.BKG_LOG_FAIL : Flag := ⟨0x508, 1, 0x50c, 8⟩
abbrev G.BKG_WU_LATE : Flag := ⟨0x508, 0, 0x50c, 0⟩
abbrev G.TWN_REQ_REFUSED : Flag := ⟨0x600, 12, 0x610, 0⟩
abbrev G.TWN_RESYNC_DONE : Flag := ⟨0x600, 11, 0x60c, 24⟩
abbrev G.TWN_MARK_ERR : Flag := ⟨0x600, 10, 0x60c, 16⟩
abbrev G.TWN_CFG_DIVERGED : Flag := ⟨0x600, 9, 0x60c, 8⟩
abbrev G.TWN_PAIR_REFUSED : Flag := ⟨0x600, 8, 0x60c, 0⟩
abbrev G.TWN_SNAP_BAD : Flag := ⟨0x600, 7, 0x608, 24⟩
abbrev G.TWN_SNAP_LATE : Flag := ⟨0x600, 6, 0x608, 16⟩
abbrev G.TWN_LANE_DEGRADED : Flag := ⟨0x600, 5, 0x608, 8⟩
abbrev G.TWN_LINK_DOWN : Flag := ⟨0x600, 4, 0x608, 0⟩
abbrev G.TWN_MSG_LOST : Flag := ⟨0x600, 3, 0x604, 24⟩
abbrev G.TWN_HB_LOST : Flag := ⟨0x600, 2, 0x604, 16⟩
abbrev G.TWN_DUAL_OWNER : Flag := ⟨0x600, 1, 0x604, 8⟩
abbrev G.TWN_TAKEOVER : Flag := ⟨0x600, 0, 0x604, 0⟩
abbrev G.STR_ENUM_OVER : Flag := ⟨0x700, 7, 0x708, 24⟩
abbrev G.STR_MGR_CONFLICT : Flag := ⟨0x700, 6, 0x708, 16⟩
abbrev G.STR_CLUSTER_MISMATCH : Flag := ⟨0x700, 5, 0x708, 8⟩
abbrev G.STR_BLK_SKEW : Flag := ⟨0x700, 4, 0x708, 0⟩
abbrev G.STR_FRAME_BAD : Flag := ⟨0x700, 3, 0x704, 24⟩
abbrev G.STR_FOLD : Flag := ⟨0x700, 2, 0x704, 16⟩
abbrev G.STR_PORT_FAIL : Flag := ⟨0x700, 1, 0x704, 8⟩
abbrev G.STR_RING_LOST : Flag := ⟨0x700, 0, 0x704, 0⟩
abbrev G.AIN_AES_PARITY : Flag := ⟨0x800, 9, 0x80c, 8⟩
abbrev G.AIN_AES_CRC : Flag := ⟨0x800, 8, 0x80c, 0⟩
abbrev G.AIN_MIX_BADVAL : Flag := ⟨0x800, 7, 0x808, 24⟩
abbrev G.AIN_PTP_HOLD : Flag := ⟨0x800, 6, 0x808, 16⟩
abbrev G.AIN_PTP_STEP : Flag := ⟨0x800, 5, 0x808, 8⟩
abbrev G.AIN_SRC_LOST : Flag := ⟨0x800, 4, 0x808, 0⟩
abbrev G.AIN_SCFG_LOCKED : Flag := ⟨0x800, 3, 0x804, 24⟩
abbrev G.AIN_STRM_REFUSED : Flag := ⟨0x800, 2, 0x804, 16⟩
abbrev G.AIN_PKT_WINDOW : Flag := ⟨0x800, 1, 0x804, 8⟩
abbrev G.AIN_PKT_LOST : Flag := ⟨0x800, 0, 0x804, 0⟩
abbrev G.SCN_CORE_FAIL : Flag := ⟨0x900, 6, 0x908, 16⟩
abbrev G.SCN_CORE_SWAP : Flag := ⟨0x900, 5, 0x908, 8⟩
abbrev G.SCN_MB_OVERRUN : Flag := ⟨0x900, 4, 0x904, 24⟩
abbrev G.SCN_COLD_XF : Flag := ⟨0x900, 3, 0x904, 16⟩
abbrev G.SCN_ARM_REFUSED : Flag := ⟨0x900, 2, 0x904, 8⟩
abbrev G.SCN_BANK_BADVAL : Flag := ⟨0x900, 1, 0x908, 0⟩
abbrev G.SCN_NXT_LOCKED : Flag := ⟨0x900, 0, 0x904, 0⟩
abbrev G.CH_LA_REFUSED (i : Nat) : Flag := ⟨0x1004 + 0x100 * i, 8, 0x100c + 0x100 * i, 0⟩
abbrev G.CH_CLR_REFUSED (i : Nat) : Flag := ⟨0x1050 + 0x100 * i, 2, 0x1054 + 0x100 * i, 16⟩
abbrev G.CH_LATCH (i : Nat) : Flag := ⟨0x1050 + 0x100 * i, 1, 0x1054 + 0x100 * i, 8⟩
abbrev G.CH_CBC (i : Nat) : Flag := ⟨0x1050 + 0x100 * i, 0, 0x1054 + 0x100 * i, 0⟩
abbrev G.MOD_DL_FAIL (i : Nat) : Flag := ⟨0x2030 + 0x100 * i, 4, 0x2038 + 0x100 * i, 0⟩
abbrev G.MOD_BOOT_RF (i : Nat) : Flag := ⟨0x2030 + 0x100 * i, 3, 0x2034 + 0x100 * i, 24⟩
abbrev G.MOD_MINPULSE (i : Nat) : Flag := ⟨0x2030 + 0x100 * i, 2, 0x2034 + 0x100 * i, 16⟩
abbrev G.MOD_SHD_OVW (i : Nat) : Flag := ⟨0x2030 + 0x100 * i, 1, 0x2034 + 0x100 * i, 8⟩
abbrev G.MOD_RELOAD_HIT (i : Nat) : Flag := ⟨0x2030 + 0x100 * i, 0, 0x2034 + 0x100 * i, 0⟩
abbrev G.TRP_FLT_BLANKED (i : Nat) : Flag := ⟨0x2088 + 0x100 * i, 1, 0x208c + 0x100 * i, 8⟩
abbrev G.TRP_FLT_DT (i : Nat) : Flag := ⟨0x2088 + 0x100 * i, 0, 0x208c + 0x100 * i, 0⟩
abbrev G.SNS_CMP_I (i : Nat) : Flag := ⟨0x4018 + 0x100 * i, 5, 0x4020 + 0x100 * i, 8⟩
abbrev G.SNS_CMP_V (i : Nat) : Flag := ⟨0x4018 + 0x100 * i, 4, 0x4020 + 0x100 * i, 0⟩
abbrev G.SNS_STALE (i : Nat) : Flag := ⟨0x4018 + 0x100 * i, 3, 0x401c + 0x100 * i, 24⟩
abbrev G.SNS_RETRY_LOST (i : Nat) : Flag := ⟨0x4018 + 0x100 * i, 2, 0x401c + 0x100 * i, 16⟩
abbrev G.SNS_RETRY (i : Nat) : Flag := ⟨0x4018 + 0x100 * i, 1, 0x401c + 0x100 * i, 8⟩
abbrev G.SNS_TRG_BUSY (i : Nat) : Flag := ⟨0x4018 + 0x100 * i, 0, 0x401c + 0x100 * i, 0⟩
abbrev G.LPE_ISP_SAT (i : Nat) : Flag := ⟨0x5018 + 0x200 * i, 4, 0x501c + 0x200 * i, 24⟩
abbrev G.LPE_OUT_SAT (i : Nat) : Flag := ⟨0x5018 + 0x200 * i, 3, 0x501c + 0x200 * i, 16⟩
abbrev G.LPE_CW_REFUSED (i : Nat) : Flag := ⟨0x5018 + 0x200 * i, 2, 0x5004 + 0x200 * i, 0⟩
abbrev G.LPE_CW_DROP (i : Nat) : Flag := ⟨0x5018 + 0x200 * i, 1, 0x501c + 0x200 * i, 8⟩
abbrev G.LPE_PROG_REFUSED (i : Nat) : Flag := ⟨0x5018 + 0x200 * i, 0, 0x501c + 0x200 * i, 0⟩
abbrev G.LPEO_FE_OVER (i : Nat) : Flag := ⟨0x5054 + 0x200 * i, 3, 0x5058 + 0x200 * i, 24⟩
abbrev G.LPEO_FE_TRIP (i : Nat) : Flag := ⟨0x5054 + 0x200 * i, 2, 0x5058 + 0x200 * i, 16⟩
abbrev G.LPEO_OVR_TRIP (i : Nat) : Flag := ⟨0x5054 + 0x200 * i, 1, 0x5058 + 0x200 * i, 8⟩
abbrev G.LPEO_OVERRUN (i : Nat) : Flag := ⟨0x5054 + 0x200 * i, 0, 0x5058 + 0x200 * i, 0⟩
abbrev G.SPK_CORR_LIM (i : Nat) : Flag := ⟨0x7010 + 0x80 * i, 2, 0x7014 + 0x80 * i, 16⟩
abbrev G.SPK_ID_REJECT (i : Nat) : Flag := ⟨0x7010 + 0x80 * i, 1, 0x7014 + 0x80 * i, 8⟩
abbrev G.SPK_PARAM_BADVAL (i : Nat) : Flag := ⟨0x7010 + 0x80 * i, 0, 0x7014 + 0x80 * i, 0⟩
abbrev G.VENT_CORE_STOP : Flag := ⟨0x7800, 3, 0x7804, 24⟩
abbrev G.VENT_CORE_UE : Flag := ⟨0x7800, 2, 0x7804, 16⟩
abbrev G.VENT_FB_ENTER : Flag := ⟨0x7800, 1, 0x7804, 8⟩
abbrev G.VENT_V_OVERRUN : Flag := ⟨0x7800, 0, 0x7804, 0⟩
abbrev G.DIA_SW_REFUSED (i : Nat) : Flag := ⟨0x8014 + 0x80 * i, 7, 0x801c + 0x80 * i, 24⟩
abbrev G.DIA_SW_ABORT (i : Nat) : Flag := ⟨0x8014 + 0x80 * i, 6, 0x801c + 0x80 * i, 16⟩
abbrev G.DIA_X_OVER (i : Nat) : Flag := ⟨0x8014 + 0x80 * i, 5, 0x801c + 0x80 * i, 8⟩
abbrev G.DIA_RUB (i : Nat) : Flag := ⟨0x8014 + 0x80 * i, 4, 0x801c + 0x80 * i, 0⟩
abbrev G.DIA_DRIFT (i : Nat) : Flag := ⟨0x8014 + 0x80 * i, 3, 0x8018 + 0x80 * i, 24⟩
abbrev G.DIA_MISSING (i : Nat) : Flag := ⟨0x8014 + 0x80 * i, 2, 0x8018 + 0x80 * i, 16⟩
abbrev G.DIA_SHORT (i : Nat) : Flag := ⟨0x8014 + 0x80 * i, 1, 0x8018 + 0x80 * i, 8⟩
abbrev G.DIA_OPEN (i : Nat) : Flag := ⟨0x8014 + 0x80 * i, 0, 0x8018 + 0x80 * i, 0⟩
abbrev G.RNG_NOT_OWNER (i : Nat) : Flag := ⟨0x9010 + 0x80 * i, 6, 0x9018 + 0x80 * i, 16⟩
abbrev G.RNG_RD_EMPTY (i : Nat) : Flag := ⟨0x9010 + 0x80 * i, 5, 0x9018 + 0x80 * i, 8⟩
abbrev G.RNG_CFG_REFUSED (i : Nat) : Flag := ⟨0x9010 + 0x80 * i, 4, 0x9018 + 0x80 * i, 0⟩
abbrev G.RNG_DROP (i : Nat) : Flag := ⟨0x9010 + 0x80 * i, 3, 0x9014 + 0x80 * i, 24⟩
abbrev G.RNG_UE (i : Nat) : Flag := ⟨0x9010 + 0x80 * i, 2, 0x9014 + 0x80 * i, 16⟩
abbrev G.RNG_CMD_REJ (i : Nat) : Flag := ⟨0x9010 + 0x80 * i, 1, 0x9014 + 0x80 * i, 8⟩
abbrev G.RNG_PUSH_REFUSED (i : Nat) : Flag := ⟨0x9010 + 0x80 * i, 0, 0x9014 + 0x80 * i, 0⟩
abbrev G.TRC_CFG_BUSY : Flag := ⟨0xa204, 2, 0xa208, 16⟩
abbrev G.TRC_RD_BUSY : Flag := ⟨0xa204, 1, 0xa208, 8⟩
abbrev G.TRC_TRC_DROP : Flag := ⟨0xa204, 0, 0xa208, 0⟩
abbrev G.MGR_NEW_MASTER : Flag := ⟨0xb808, 3, 0xb80c, 24⟩
abbrev G.MGR_CQ_FULL : Flag := ⟨0xb808, 2, 0xb80c, 16⟩
abbrev G.MGR_CMD_LATE : Flag := ⟨0xb808, 1, 0xb80c, 8⟩
abbrev G.MGR_CMD_FAIL : Flag := ⟨0xb808, 0, 0xb80c, 0⟩

end Sys2Proof.Machine
end

