-- ==== Sys2Proof/Machine/State.lean ====
section
/-! DEFINITION. State.lean: everything the spec gives the block to hold, as plain data, and the state right after reset. Every
register of R637 stands in State.regs under its pointer; what the registers do not show stands in a structure a chapter. -/

set_option Elab.async false

namespace Sys2Proof.Machine

/-- The faults of the model. The spec stops the block on nothing (every fault it names is an effect), so none is ever raised; the
constructor is kept so that the type is not empty. Safe: no meaning answers with it. -/
inductive Fault where
  | none
  deriving DecidableEq, Repr

/-- The refusals of the model. -/
inductive Refusal where
  /-- Raised by an arm of exec that has no meaning yet. Safe: nothing is claimed of that command. -/
  | notModelled (mnemonic : String)
  /-- Raised by REGISTER_WRITE and FABRIC_GRANT for a write of a production test register (R635): the spec names them and says nothing of
  what they do. Safe: the machine stops where the hardware goes on. -/
  | testRegister
  deriving DecidableEq, Repr

/-- What a step answers. -/
abbrev Out (σ : Type) := Host.Outcome σ Fault Refusal

/-- The counters that boundaries advance (R7, R43, R137). -/
structure Time where
  /-- The index of the running block, counted from the PTP epoch, 48 bits. -/
  block : Nat := 0
  /-- Which half of the switching period runs: false UP0, true UP1 (R138). -/
  half : Bool := false
  /-- Updates since the period counter started, modulo 2^32, and since the last block boundary. -/
  updates : Nat := 0
  updInBlock : Nat := 0
  /-- Taps from the start of the period counter to the start of the running update (R216); a block starts at a multiple of 655,360. -/
  taps : Nat := 0
  /-- A block boundary was reached whose update boundary has not come yet: the next update is UP0 and the block's first. -/
  atBlock : Bool := true
  deriving DecidableEq, Repr

/-- The PTP servo's state beyond its registers (R56 to R66). -/
structure Ptp where
  /-- The last Announce of each master heard on port A and on port B, until the receipt timeout drops it (R56, R58). -/
  annA : List Announce := []
  annB : List Announce := []
  /-- The selected master (R58). -/
  sel : Option Announce := none
  /-- Consecutive Sync messages with |offset| below 1 µs in ACQUIRE (R59). -/
  good : Nat := 0
  /-- The one-way difference (device minus master, ns) of the last Sync, and the path delay (R56). -/
  diff : Int := 0
  delay : Int := 0
  /-- A two-step Sync waits for its Follow_Up on port A, on port B (R56). -/
  twoStepA : Bool := false
  twoStepB : Bool := false
  /-- The offset of a pending step, in ns (R63). -/
  stepOffset : Int := 0
  /-- Corrections of the last 16 s of LOCKED or PPS as (blocks, correction) runs, newest first (R61). -/
  hist : List (Nat × Int) := []
  /-- PPS_OUT (R66). -/
  ppsOut : Bool := false
  /-- Sample index 0 lies at the PPS_IN edges since PPS was entered (R66). -/
  ppsAligned : Bool := false
  deriving DecidableEq, Repr

/-- One AES67 stream beyond its registers (R68 to R76). -/
structure Stream where
  /-- The learned SSRC (R72); AIN_SSTAT.SSRC_VALID says whether one is learned. -/
  ssrc : Word := 0
  /-- Filled receive samples: (position * 2^52 + play index, binary32 sample) (R68, R71). -/
  rx : List (Nat × Word) := []
  /-- Own-rate samples in a row that no path filled (R74). -/
  missing : Nat := 0
  /-- EN was cleared and the stream stops at the next block boundary (R76). -/
  stopping : Bool := false
  deriving DecidableEq, Repr

/-- An ASRC domain: lock, fade position and the level it fades from in 1/64 (R91), and the phase and ratio state, which the
spec does not describe (R93): a token that only opaque Config functions read. The input frames of the last 32 input periods and the
output frames of the last 48 output samples are its delay (R90), newest first. -/
structure Asrc where
  locked : Bool := false
  pos : Nat := 64
  from64 : Nat := 0
  tok : Token := 0
  inLine : List (List Word) := []
  outLine : List (List Word) := []
  deriving DecidableEq, Repr

/-- A 2x interpolator of R92: the input frames its 33 coefficients reach, newest first, and the output samples since the newest one. -/
structure Interp2 where
  line : List (List Word) := []
  age : Nat := 0
  deriving DecidableEq, Repr

/-- A TDM input port (R80): lock, runs of good and of discarded frames, the slots of the frame in use. -/
structure Tdm where
  locked : Bool := false
  good : Nat := 0
  bad : Nat := 0
  slots : List Word := List.replicate 16 0
  /-- Whether EN is in force; a written EN takes effect at the next block boundary. -/
  enabled : Bool := false
  /-- The unit drives the port's BCLK and FS, and frames still to play as zeros after a takeover (R79, R82). -/
  drives : Bool := false
  zeros : Nat := 0
  deriving DecidableEq, Repr

/-- An AES3 receiver (R85 to R87): receiver lock, last samples of both subframes, last good channel-status block. -/
structure Aes3 where
  locked : Bool := false
  last : List Word := List.replicate 2 0
  vBits : List Bool := [false, false]
  status : Option (List Byte) := none
  enabled : Bool := false
  deriving DecidableEq, Repr

/-- The audio inputs (02). -/
structure Ain where
  ptp : Ptp := {}
  streams : List Stream := List.replicate 16 {}
  /-- RECEIVE_READ periods since the last block boundary (R69). -/
  sub : Nat := 0
  /-- The receive positions as delivered through GD7 for the sample being collected (R69). -/
  pos : List Word := List.replicate 64 0
  tdm : List Tdm := List.replicate 4 {}
  aes3 : List Aes3 := List.replicate 4 {}
  asrc : List Asrc := List.replicate 8 {}
  /-- The 2x interpolators of 48 kHz positions and TDM ports (R92). -/
  interpPos : List Interp2 := List.replicate 64 {}
  interpTdm : List Interp2 := List.replicate 4 {}
  /-- The channel-status bytes latched by AIN_CSSEL (R87). -/
  csLatch : List Byte := []
  /-- The routed input samples y_s collected in the running block, through route table 0 and through route table 1: one list of 64 words a
  sample for each (R94, R97). -/
  collect : List (List Word × List Word) := []
  /-- The captured monitor frames of 16 slot words that are not yet sent, oldest first: each is sent one block after its capture (R83). -/
  monitor : List (List Word) := []
  /-- The frame that TDMO_DOUT carries in this sample period; none while the port is disabled (R83). -/
  tdmo : List Word := []
  /-- The frame the AES3 transmitter sends in this sample period: subframes A and B; none while it is disabled (R84). -/
  aesOut : List Word := []
  /-- The place 0 to 191 of that frame in its channel-status block, and the channel-status bit it carries (R84). -/
  aesFrame : Nat := 0
  aesStatusBit : Bool := false
  deriving DecidableEq, Repr

/-- The states of one chain of one channel (R100, R643). The DC blocker and the limiters are sequences in the image's code that
the spec does not give: their states are tokens. -/
structure Chain where
  dcb : Token := 0
  /-- s1 and s2 of each biquad section. -/
  eq : List (Word × Word) := List.replicate 32 (0, 0)
  /-- x[n-1], x[n-2], … of the FIR. -/
  fir : List Word := []
  /-- The delay line, newest first. -/
  line : List Word := []
  peak : Token := 0
  rms : Token := 0
  deriving DecidableEq, Repr

/-- One channel of the Music Box. -/
structure MbChan where
  /-- The chain of the LIVE bank, and the new chain (ARMED) or the old chain (XFADE). -/
  live : Chain := {}
  other : Chain := {}
  /-- L in force (R103). -/
  la : Nat := 0
  /-- The look-ahead line, newest first. -/
  laLine : List Word := []
  /-- The output block waiting for its hand-off, and the one being handed off: tap and output samples (R101). -/
  tapNext : List Word := []
  outNext : List Word := []
  tap : List Word := []
  out : List Word := []
  /-- Last tap and last output sample handed off (R125). -/
  lastTap : Word := 0
  lastOut : Word := 0
  /-- Fade-in sample 0 to 63 of R126; 64 when no fade runs. -/
  fade : Nat := 64
  /-- The block being handed off, and the one waiting for its hand-off, carry a fade of R125 or R126 (R128). -/
  fading : Bool := false
  fadeNext : Bool := false
  /-- Envelope gains received through GD2 and not yet used, oldest first, and the last one used. -/
  gains : List Word := []
  gain : Word := 0x3F800000#32
  /-- Gain values of the running block, used from the next one on (R317); the last one received holds in the next unit, since the core lost
  its unit (R341). -/
  gainsIn : List Word := []
  gainHeld : Bool := false
  /-- The fallback limiter's gain and mean square (R344, R644). -/
  fbGain : Word := 0x3F800000#32
  fbMs : Word := 0
  /-- The mute gain gm, binary32 (R565). -/
  gm : Word := 0
  /-- The channel was muted at the last block boundary (R103, R62). -/
  muted : Bool := true
  deriving DecidableEq, Repr

/-- The Music Box (03). -/
structure Mb where
  chans : List MbChan := List.replicate 16 {}
  /-- The checkpoint of each channel at the start of the unit that its core completed (R124). -/
  ck : List MbChan := List.replicate 16 {}
  /-- Logical cores whose work unit of the running block is complete. -/
  done : List Bool := List.replicate 4 true
  /-- Input samples of the unit in work (the block before), through route table 0 and through route table 1. -/
  input : List (List Word × List Word) := []
  /-- Block indices of recent overruns of each logical core (R129). -/
  overruns : List (List Nat) := List.replicate 4 []
  /-- Swap triggers waiting for the next block boundary (R129). -/
  swapDue : List Bool := List.replicate 4 false
  /-- Logical cores whose unit of this block ends as an overrun because of an uncorrectable error. -/
  ue : List Bool := List.replicate 4 false
  /-- The bank that is LIVE, per channel (false: bank 0), and the LIVE route and mix tables (R104). -/
  liveBank : List Bool := List.replicate 16 false
  liveTab : Bool := false
  deriving DecidableEq, Repr

/-- The scene commit in progress (R114 to R123), beyond the SCN registers. -/
structure Scn where
  /-- The new chain has started, and the blocks it has processed in each logical core; how many it needs to be warm (R115). -/
  started : Bool := false
  blocks : List Nat := List.replicate 4 0
  need : Nat := 0
  /-- The activation boundary B of the running crossfade (R119). -/
  at_ : Nat := 0
  /-- The high part latched by a read of SCN_NOW_L (R135). -/
  nowHigh : Word := 0
  deriving DecidableEq, Repr

/-- The fuses (R569, R572, R574, R426): thermometer field, key slots with their revoke bits, debug credential, device number. -/
structure Fuses where
  lc : BitVec 16 := 0
  key0 : Option (List Byte) := none
  key1 : Option (List Byte) := none
  rev0 : Bool := false
  rev1 : Bool := false
  cred : Option (List Byte) := none
  devnum : BitVec 64 := 0
  deriving DecidableEq, Repr

/-- A section of an image's table (R534). -/
structure Section where
  type : Nat
  inst : Nat
  offset : Nat
  length : Nat
  crc : Nat
  dest : Nat
  entry : Nat
  deriving DecidableEq, Repr

/-- A slot that passed the checks of R538 up to 9: which slot, its header and its section table. -/
structure Candidate where
  slotB : Bool
  header : List Byte
  sections : List Section
  verified : Bool
  deriving DecidableEq, Repr

/-- Start-up and life-cycle state beyond the SYS registers (17). -/
structure Sys where
  /-- A reset is in progress (R550). -/
  inReset : Bool := false
  /-- Sources present in the reset in progress, bits of SYS_RST. -/
  cause : Nat := 0
  /-- The fuses as read at the last reset, with the key shadows of R512; as blown since; whether the shadows are zeroed. -/
  fuses : Fuses := {}
  blown : Fuses := {}
  shadowsZero : Bool := false
  /-- Bits of the fuse field that an accepted life-cycle request blows (R573). -/
  lcBits : Nat := 0
  /-- Mismatched credentials since reset (R572). -/
  credTries : Nat := 0
  /-- Slots that passed the checks, in loading order (R539), and whether the log area held a valid sector. -/
  candidates : List Candidate := []
  /-- The image is loaded and the processors are held in DBGWAIT (R561). -/
  held : Bool := false
  /-- The processors have started and run (R541, R557). -/
  procs : Bool := false
  /-- The management core is halted, hung or in reset (R39). -/
  mgmtStopped : Bool := false
  /-- The start-up calibration of every sense slice has completed (R225). -/
  calDone : Bool := false
  /-- Music Box cores 0 to 3 and Ventriloquist cores 0 and 1 whose running unit started after the processors, and those that have completed
  one without overrun (R557). -/
  unitIn : Bool := false
  unitOk : List Bool := List.replicate 6 false
  /-- FW_TMO has acted (R558). -/
  fwTmo : Bool := false
  /-- MUTE_N: last sample and accepted level, true low (R564). -/
  muteLast : Bool := false
  muteLow : Bool := false
  /-- Per channel: whole blocks since switching started, counted to 256; the START cause has ended; REL_START was written (R563, R567). -/
  swBlocks : List (Option Nat) := List.replicate 16 none
  started : List Bool := List.replicate 16 false
  released : List Bool := List.replicate 16 false
  /-- Block boundaries in a row at which the unit held OWN_N or applied a snapshot, counted to 256 (R567). -/
  shadowed : Nat := 0
  /-- The clock that the running measurement window counts (R598). -/
  msel : Nat := 0
  /-- The block and period counters run (R555). -/
  counting : Bool := false
  /-- EXTEST or INTEST is loaded (R575). -/
  boundaryScan : Bool := false
  deriving DecidableEq, Repr

/-- A leg generator (04) beyond its registers. -/
structure LegGen where
  /-- The generator's HI and LO outputs, before the override and the standby hold of the output buffers. -/
  hi : Bool := false
  lo : Bool := false
  /-- The side the last compare edge went to: true high (R148). -/
  level : Bool := false
  /-- A turn-on delayed by its dead time: true HI, false LO (R154), and its instant, in taps from the start of the update that placed it. -/
  pend : Option Bool := none
  due : Nat := 0
  /-- Where the last edge of the HI and of the LO output was placed: its tick in the update, and the physical tap of its delay line (R156). -/
  hiAt : Nat × Nat := (0, 0)
  loAt : Nat × Nat := (0, 0)
  /-- Compare edges still to come in this update, true rising (R148). -/
  edges : List Bool := []
  /-- e1 to e5 of the noise shaper in units of 2^-16 tap (R145). -/
  errs : List Int := List.replicate 5 0
  /-- Updates in a row at full high (R151); of an odd leg in AD, at full low of its even leg (R152). -/
  boot : Nat := 0
  /-- The high time applied in the running update. -/
  h : Nat := 0
  /-- TAPSEL of the HI and the LO line (R156), at reset the identity (DESIGN CHOICE, log entry 89), the tables waiting for the next update
  boundary (R157), failures in a row (R159). -/
  tapHi : List Nat := List.range 32
  tapLo : List Nat := List.range 32
  nextHi : Option (List Nat) := none
  nextLo : Option (List Nat) := none
  failsHi : Nat := 0
  failsLo : Nat := 0
  deriving DecidableEq, Repr

/-- A channel of the PWM island and of Tin Soldier beyond its registers (04, 05). -/
structure PwmChan where
  /-- The channel enters PRECHARGE at the next period boundary (R168). -/
  starting : Bool := false
  /-- Updates of PRECHARGE left. -/
  precharge : Nat := 0
  /-- The lane of the channel: 0 stopped, 1 to start from its initial state, 2 running (R168, R169, R641). -/
  loop : Nat := 0
  /-- The override's stage while latched (R189, R191): 0 none, 1 every output low, 2 LO on, 3 low again after HOLD. -/
  stage : Nat := 0
  /-- An accepted clear: the override is released at the next update boundary (R195). -/
  release : Bool := false
  /-- The sense comparator condition is present at its last evaluation (R194). -/
  cmpNow : Bool := false
  deriving DecidableEq, Repr

/-- The PWM island's and Tin Soldier's shared state (04, 05, 18). -/
structure Safe where
  /-- Device-level override release waits for the next update boundary (R202). -/
  release : Bool := false
  /-- Windows in a row outside the limits, for MEDIA, MODEL, LOOP, PWM, NET, MGMT, TWIN and the crystal (R204). -/
  bad : List Nat := List.replicate 8 0
  /-- No activity word from the PWM island since it last fell silent (R205). -/
  pwmSilent : Bool := false
  /-- The media PLL is out of lock (R197). -/
  pllOut : Bool := false
  /-- The die is at or above TEMP_TRIP, and has not been below TEMP_TRIP - 10 since (R201). -/
  hot : Bool := false
  /-- TEMP_WARN armed (R206). -/
  warnArmed : Bool := true
  /-- Processors under a debug halt (R207): Music Box, Ventriloquist, Marionette or the device. -/
  halted : Bool := false
  /-- A debug halt takes its outputs all-off at the next update boundary (R207). -/
  haltDue : Bool := false
  /-- The SAFE clock watchdog has tripped (R586). -/
  watchdog : Bool := false
  deriving DecidableEq, Repr

/-- Delay-line calibration by Wind-up (R157): the line in work and the next one. -/
structure DlCal where
  busy : Option Nat := none
  next : Nat := 0
  /-- Updates of the measurement that have passed, counted to 1024. -/
  upds : Nat := 0
  deriving DecidableEq, Repr

/-- The pins the device drives or holds, beyond the gate balls (19). -/
structure Pins where
  /-- OWN_N is pulled low by this unit (R378, R401). -/
  own : Bool := false
  /-- The hold of the output buffers is released (R401). -/
  released : Bool := false
  deriving DecidableEq, Repr

/-- A conversion in work in a slice (R215, R221): its input (2c voltage, 2c+1 current), the update of its trigger, whether it was the
first trigger accepted there, the trigger's position in taps, whether the overlap spare makes it, and whether it is a retry. -/
structure Conv where
  input : Nat
  upd : Nat
  first : Bool
  pos : Nat
  spare : Bool
  retry : Bool
  deriving DecidableEq, Repr

/-- A sense slice (R218, R223 to R226) beyond SNS_SLC, SNS_RET and SNS_POOL. -/
structure SliceSt where
  gain : Nat := 16384
  offs : Int := 0
  conv : Option Conv := none
  /-- Absolute tap of its last accepted trigger (R216). -/
  lastTap : Option Nat := none
  /-- Triggers accepted, and the trigger counts of retries that ended in a second redundancy error (R223). -/
  trigs : Nat := 0
  losses : List Nat := []
  /-- The slice has failed and waits for the next update boundary (R231). -/
  failed : Bool := false
  /-- The order of its last passing calibration, and whether that calibration passed (R227). -/
  calSeq : Nat := 0
  ready : Bool := false
  deriving DecidableEq, Repr

/-- A sense input (R219, R235): 2c is VSc and 2c+1 is ISc. -/
structure SnsInput where
  /-- Triggers fired in this update, and whether one was accepted. -/
  fired : Nat := 0
  accepted : Bool := false
  /-- The result of the first accepted trigger of this update; the trigger gave none. -/
  cur : Option Int := none
  lost : Bool := false
  /-- The cycle in which it is usable (R288, R289). -/
  usable : Nat := 0
  /-- The last update result (R219). -/
  last : Int := 0
  /-- The first trigger of an earlier update is still in retry. -/
  late : Bool := false
  /-- Absolute tap of the last issued trigger (R167). -/
  lastIssue : Option Nat := none
  /-- Comparator: consecutive valid results over the limit, and the condition (R235). -/
  count : Nat := 0
  isOver : Bool := false
  /-- The decimator, a filter whose coefficients the spec does not give (R220). -/
  tok : Token := 0
  deriving DecidableEq, Repr

/-- A rotation step in its overlap (R227, R228). -/
structure Rotation where
  out : Nat
  spare : Nat
  input : Nat
  trigs : Nat := 0
  upds : Nat := 0
  /-- Results of the outgoing slice and of the spare that wait for the other's, each with its trigger (R228). -/
  outRes : List (Nat × Int) := []
  spareRes : List (Nat × Int) := []
  maxDiff : Nat := 0
  /-- The overlap is over; the spare serves from the next update boundary. -/
  isOver : Bool := false
  deriving DecidableEq, Repr

/-- A rail converter (R238, R240): codes being averaged, averaged codes in a row over and under the limits, conditions. -/
structure Rail where
  codes : List Nat := []
  overs : Nat := 0
  unders : Nat := 0
  isOver : Bool := false
  under : Bool := false
  deriving DecidableEq, Repr

/-- The sense chain (06). -/
structure Sense where
  slices : List SliceSt := List.replicate 34 {}
  inputs : List SnsInput := List.replicate 32 {}
  rot : Option Rotation := none
  calCount : Nat := 0
  rails : List Rail := List.replicate 4 {}
  /-- SNS_CALR1 as latched by a read of SNS_CALR0 (R243). -/
  calLatch : Word := 0x40000000#32
  deriving DecidableEq, Repr

/-- The elements of R245 but the banks. -/
structure LaneRegs where
  acc : Int := 0
  s : List Int := List.replicate 16 0
  w : List Int := List.replicate 16 0
  sati : Nat := 0
  sato : Nat := 0
  hiSeen : Bool := false
  loSeen : Bool := false
  deriving DecidableEq, Repr

/-- A Marionette lane in its update (R261 to R266). -/
structure LaneSt where
  r : LaneRegs := {}
  /-- The elements at the start of the update (R266). -/
  snap : LaneRegs := {}
  pc : Nat := 0
  cycle : Nat := 0
  /-- 0 not running, 1 running, 2 waiting at WAIT, 3 ended, 4 abandoned. -/
  phase : Nat := 0
  /-- WAIT has completed; the operands before and from then on (R253). -/
  waited : Bool := false
  ref : Int := 0
  rff2 : Int := 0
  vm : Int := 0
  im : Int := 0
  usable : Nat := 0
  /-- The OUT value of this update and its clamp (0 none, 1 high, 2 low); whether each clamped store of this update clamped. -/
  m : Option Int := none
  clamp : Nat := 0
  ispRuns : List Bool := []
  /-- The bank that is LIVE. -/
  live : Bool := false
  /-- An uncorrectable error with no spare: every update is abandoned (R303). -/
  dead : Bool := false
  deriving DecidableEq, Repr

/-- A channel's loop beyond the LPE registers (07, 08). -/
structure LoopChan where
  /-- Live coefficient writes waiting, oldest first (R274). -/
  queue : List Word := []
  /-- A bank exchange waits for the first update of the block (R270). -/
  bankDue : Bool := false
  /-- VM and IM of the last update the lane completed (R253, R290); none before its first. -/
  res : Option (Int × Int) := none
  /-- The signal registers at the end of the last 16 updates in which the lane ran, newest first (R293). -/
  rLine : List (List Int) := []
  /-- Updates since switching started (R294). -/
  swUpd : Nat := 0
  efe : Int := 0
  /-- Injection: running, sign and updates since the last change (R313). -/
  injOn : Bool := false
  injNeg : Bool := false
  injCnt : Nat := 0
  /-- The interpolator's line of received samples in Q1.23, newest first, and the updates since the newest one (R144). -/
  line : List Int := []
  age : Nat := 0
  /-- The OUT of this update that a later overrun takes back (R146, R266): the shapers' errors of both legs and m, wordA and wordB before it. -/
  undo : Option (List Int × List Int × Int × Nat × Nat) := none
  /-- Update count, last delivered m, and the words last presented to GD5 (R306, R307). -/
  ucnt : Nat := 0
  m : Int := 0
  wordA : Nat := 0
  wordB : Nat := 0
  /-- Trace events of this update: bit 0 overrun, 1 following-error request, 2 latch, 3 CBC, 4 OUT clamp, 5 mismatch, 6 commit. -/
  ev : Nat := 0
  wasLatched : Bool := false
  /-- The comparator condition last presented at GS1 (R236). -/
  cmpSent : Bool := false
  /-- The third consecutive overrun has come in this update: the trip request follows at its end (R291). -/
  tripDue : Bool := false
  deriving DecidableEq, Repr

/-- The spare lane's work (R297 to R304). -/
structure LanePool where
  /-- Channel the spare shadows. -/
  shadow : Option Nat := none
  /-- Lane in self-test, and whether it is one after a swap. -/
  selfTest : Option Nat := none
  afterSwap : Bool := false
  /-- Channel of the confirmation shadow: waiting for the next block boundary, and running. -/
  confirmDue : Option Nat := none
  confirm : Option Nat := none
  /-- The slot that is open (R297), the updates of the self-test that have started, counted to 4096 (R301), and the blocks of the confirmation
  shadow that have started, counted to 12,000 (R302). -/
  slot : Option Nat := none
  upds : Nat := 0
  blocks : Nat := 0
  deriving DecidableEq, Repr

/-- A trace buffer beyond its registers (R308, R309). -/
structure TraceBuf where
  dec : Nat := 0
  /-- The trigger condition has held, and the next entry is the trigger entry. -/
  trig : Bool := false
  post : Nat := 0
  prev : Option Int := none
  /-- It triggered in this update (for TSRC 0xA of another buffer). -/
  fired : Bool := false
  deriving DecidableEq, Repr


/-- A cone instance (R325): excursion in mm, velocity in m/s, current in A, binary32. -/
structure Cone where
  x : Word := 0
  v : Word := 0
  i : Word := 0
  deriving DecidableEq, Repr

/-- The model and identification state of a channel, which the checkpoint of R340 covers. -/
structure VentModel where
  pred : Cone := {}
  track : Cone := {}
  /-- The last 768 values of x, v and i of the predictive instance, newest first (R327). -/
  hist : List (Word × Word × Word) := []
  /-- The newest tap sample of the unit before. -/
  lastTap : Word := 0
  /-- 192 kHz steps of the running unit that are done (0 to 16). -/
  steps : Nat := 16
  /-- Thermal states (R329, R331), binary32; Tamb at reset is 40.0. -/
  tc : Word := 0x42200000#32
  tm : Word := 0x42200000#32
  /-- Coil resistance of the last thermal step; none before the first. -/
  reT : Option Word := none
  power : Word := 0
  vrms : Word := 0
  /-- Sum of v² of the tracking instance over the block. -/
  v2 : Word := 0
  /-- The resistance estimator (R332): its weighted sums of e·i and i², Le·i of the period before, its last estimate, and the sum of i² of
  its window. -/
  reNum : Word := 0
  reDen : Word := 0
  reFlux : Word := 0
  reEst : Word := 0
  reI2 : Word := 0
  reBlocks : Nat := 0
  /-- The scale fit, whose form the spec does not give (R333). -/
  fitTok : Token := 0
  /-- Scale factors in use, and the Rms in use where it differs from the bank (R335). -/
  sB : Word := 0x3F800000#32
  sK : Word := 0x3F800000#32
  sL : Word := 0x3F800000#32
  rms : Option Word := none
  /-- The protection gain (R350 to R356): gT, gC, mean of g² of the last unit, gr and h newest first, last g delivered. -/
  gT : Word := 0x3F800000#32
  gC : Word := 0x3F800000#32
  g2 : Word := 0x3F800000#32
  gr : List Word := []
  hold : List Word := []
  g : Word := 0x3F800000#32
  /-- The diagnosis window (R358): (i_m, i_p) pairs, oldest last; sums of squared voltage and current; peak |x|; smallest g and gx. -/
  pairs : List (Word × Word) := []
  u2 : Word := 0
  i2 : Word := 0
  xpk : Word := 0
  gmin : Word := 0x3F800000#32
  gxmin : Word := 0x3F800000#32
  /-- The 2.0 kHz high-pass of R358, a filter whose arithmetic the spec does not give. -/
  hpTok : Token := 0
  /-- The largest |x| of the tracking instance in the block (R367). -/
  blkPk : Word := 0
  deriving DecidableEq, Repr

/-- An impedance sweep (R363 to R368). -/
structure Sweep where
  /-- 0 idle, 1 due at the next block boundary, 2 pilot off, 3 ramp in, 4 settling, 5 measuring, 6 ramp out of a complete sweep,
  7 waiting to publish. -/
  phase : Nat := 0
  point : Nat := 0
  /-- 96 kHz samples of this phase at the last block boundary; 192 kHz periods measured. -/
  cnt : Int := 0
  meas : Nat := 0
  /-- The phase accumulator, and its advance per sample in the running block (R365). -/
  acc : Nat := 0
  inc : Nat := 0
  /-- The single-bin DFTs of the measurement (R366): the sums of voltage and of current with the cosine and with the sine. -/
  vDft : Word × Word := (0, 0)
  iDft : Word × Word := (0, 0)
  /-- Points measured: f, |Z|, phase. -/
  points : List (Word × Word × Word) := []
  /-- The ramp-out of an abandoned sweep (R367): amplitude it starts from, of 960 (0: none runs), samples at the last block boundary, phase
  accumulator and its advance. -/
  tailFrom : Nat := 0
  tailCnt : Int := 0
  tailAcc : Nat := 0
  tailInc : Nat := 0
  deriving DecidableEq, Repr

/-- A channel of the Ventriloquist beyond the checkpoint. -/
structure VentChan where
  m : VentModel := {}
  /-- The checkpoint of the running unit (R340, R346). -/
  ck : VentModel := {}
  /-- The parameter bank that is LIVE. -/
  live : Bool := false
  /-- Tap samples and measured (voltage, current) values arriving, and those of the unit in work (R317). -/
  tapsIn : List Word := []
  taps : List Word := []
  measIn : List (Word16 × Word16) := []
  meas : List (Word16 × Word16) := []
  /-- SUMI2 and the blocks since the last thermal step (R319, R329). -/
  sumI2 : Word := 0
  blocks : Nat := 0
  /-- Completed units in a row with MOD_EN = 1, and blocks left of R345; a unit has started (R644). -/
  okUnits : Nat := 0
  leave : Nat := 0
  ran : Bool := false
  /-- The tone is on, and was in the block before; its ramp position of 9600 (R336). -/
  pilot : Bool := false
  pilotWas : Bool := false
  pilotPos : Nat := 0
  /-- Sum of i² of the running second, blocks since its start, quiet whole seconds in a row, and the gate of the gated tone (R337). -/
  secI2 : Word := 0
  secBlocks : Nat := 0
  quiet : Nat := 0
  gate : Bool := false
  /-- Blocks since the last window end; the run of R360 (class, count), and of R362. -/
  winBlocks : Nat := 0
  runClass : Nat × Nat := (0, 0)
  runLen : Nat := 0
  rubRun : Nat := 0
  clearRun : Nat := 0
  /-- ρ_slow, binary32. -/
  rhoSlow : Word := 0x3F800000#32
  /-- The DIA event counters at the last window end (R372). -/
  seen : Word × Word := (0, 0)
  sweep : Sweep := {}
  deriving DecidableEq, Repr

/-- A Ventriloquist core. -/
structure VentCore where
  done : Bool := true
  /-- Stopped for this block by an uncorrectable error; block indices of recent ones (R346). -/
  ue : Bool := false
  ues : List Nat := []
  /-- Blocks since the last lost unit (64 and above: none recent). -/
  sinceLost : Nat := 64
  deriving DecidableEq, Repr

/-- The Ventriloquist (09, 10). -/
structure Vent where
  chans : List VentChan := List.replicate 16 {}
  cores : List VentCore := List.replicate 2 {}
  /-- Companion registers latched by reads of first registers (R349, R370), by pointer, those of the fabric 0x100000 above those of the
  host; an unlisted one reads its reset value. -/
  latch : List (Nat × Word) := []
  deriving DecidableEq, Repr
/-- An SRAM bank's integrity state (R503, R515 to R517). -/
structure BankSt where
  /-- Correctable events, wrapping at 16 bits. -/
  ce : Nat := 0
  /-- Word addresses with correctable events, newest first: word, count, block of the first. -/
  hist : List (Nat × Nat × Nat) := []
  /-- Waiting candidates: physical row and reason of the record. -/
  cand : List (Nat × Nat) := []
  /-- Spare rows: the row one stands in for, and BAD. -/
  spares : List (Option Nat × Bool) := List.replicate 8 (none, false)
  /-- A repair in work: spare row, physical row, reason. -/
  repair : Option (Nat × Nat × Nat) := none
  degraded : Bool := false
  deriving DecidableEq, Repr

/-- Memory integrity (15). -/
structure Mem where
  banks : List BankSt := List.replicate 48 {}
  /-- Correctable events of small arrays 64 to 87. -/
  small : List Nat := List.replicate 24 0
  /-- Bits in error of stored words, by bank * 16384 + physical word address; small array a by a * 16384 + word. -/
  errs : List (Nat × BitVec 145) := []
  /-- Words whose correction waits for an idle cycle (R509). -/
  back : List Nat := []
  /-- The physical row the next scrub step reads, and the block of the pass's first step (R513). -/
  scrubRow : Nat := 0
  passStart : Nat := 0
  /-- The data words that fabric transactions see in banks 32 to 47, by bank * 8192 + word. -/
  words : List (Nat × Quad) := []
  deriving DecidableEq, Repr

/-- A flash operation of the log writer (R525): erase of a sector, or programming at a byte of the log area; whether the bytes are a record
that is read back. -/
inductive FlashOp where
  | erase (sector : Nat)
  | program (at_ : Nat) (bytes : List Byte) (record : Bool)
  deriving DecidableEq, Repr

/-- A record of the log: TYPE, LEN and the bytes from byte 8 on (R523, R524). -/
structure LogRec where
  type : Nat
  len : Nat
  body : List Byte
  deriving DecidableEq, Repr

/-- The log and the flash (15, 16) beyond the BKG and QSPI registers. -/
structure Bkg where
  /-- REPAIR and RETIRE records waiting for the log (R526). -/
  queue : List LogRec := []
  /-- The writer opens a new sector at its next trigger (R526, R527). -/
  newSector : Bool := false
  /-- Log operations still to do, the one in work first. -/
  ops : List FlashOp := []
  /-- LOG_FAIL events in a row; three stop the log. -/
  fails : Nat := 0
  stopped : Bool := false
  /-- A valid sector exists; next free byte in the newest one; RSEQ of the next record; erase counts; LOG_NSECT of the image. -/
  valid : Bool := false
  next : Nat := 0
  rseq : Nat := 0
  erases : List Nat := List.replicate 64 0
  imgNsect : Nat := 8
  /-- The logged thermal state of each channel, DRV_ID, Tc and Tm (R331). -/
  temps : List (Nat × Int × Int) := []
  /-- The running QSPI_CTRL operation (R544). -/
  qspi : Option FlashOp := none
  /-- Steps due (R520, R521): scrub steps, the LOOP entries of the last window, event records, STATE records, a rotation step, a delay
  line's calibration; a FLUSH that waits for the next block boundary. -/
  scrubDue : Nat := 0
  telDue : Bool := false
  eventsDue : Bool := false
  stateDue : Nat := 0
  rotDue : Bool := false
  dlDue : Bool := false
  flush : Bool := false
  /-- The payloads of the LOOP entries of the window that ended last, one for each channel (R483). -/
  loop : List (List Word) := []
  /-- The LOOP window of each channel: smallest slack, largest trip counter, overruns, CBC updates, largest |V| and |I| (R483). -/
  window : List (Nat × Nat × Nat × Nat × Nat × Nat) := List.replicate 16 (0xFF, 0, 0, 0, 0, 0)
  deriving DecidableEq, Repr

/-- A ring of R473 beyond its registers; its entries are in State.banks. -/
structure RingSt where
  /-- Entries at the tail pushed less than 5.0 µs before the coming boundary, and entries taken at this boundary (R479). -/
  late : Nat := 0
  taken : Nat := 0
  /-- The run of entries not stored: SEQ of the first, and their number (R486). -/
  lossSeq : Nat := 0
  lost : Nat := 0
  /-- Staging entry and read latch of the host window and of the fabric; whether the latch holds an entry (R488). -/
  stageH : List Word := List.replicate 4 0
  stageF : List Word := List.replicate 4 0
  latchH : List Word := List.replicate 4 0
  latchF : List Word := List.replicate 4 0
  heldH : Bool := false
  heldF : Bool := false
  deriving DecidableEq, Repr

/-- A fabric transaction in work: port, request and beats already done (R493, R498). -/
structure FabTxn where
  port : Nat
  req : FabReq
  done : Nat
  deriving DecidableEq, Repr

/-- The fabric (14) beyond its registers. -/
structure Fab where
  /-- The outstanding transaction of each master, and its last response: error and data. -/
  out : List (Option FabTxn) := List.replicate 9 none
  resp : List (Bool × List Quad) := List.replicate 9 (false, [])
  /-- The class-1 master each port granted last, and the master it is parked on (R494, R497). -/
  rr : List Nat := List.replicate 15 6
  park : List (Option Nat) := List.replicate 15 none
  deriving DecidableEq, Repr

/-- A character of a Twin Link lane: a control character, or a data byte (R382). -/
inductive LinkChar where
  | k277 | k297 | k285
  | d (b : Byte)
  deriving DecidableEq, Repr

/-- The twin pair (11) beyond the TWN registers. -/
structure Twin where
  /-- What the two transmit lanes carried last, each lane's last character being the one it goes on carrying (R382). -/
  tx : List (List LinkChar) := [[], []]
  /-- From the partner's last HBM. -/
  pSnapOk : Bool := false
  pDevSafe : Bool := false
  /-- Block boundaries left of a training attempt; the link has concluded training and not gone down since; a first attempt has started
  since PAIR_EN was set; boundaries the link has been down, counted to 120; a pairing was accepted since reset. -/
  train : Nat := 0
  concluded : Bool := false
  attempted : Bool := false
  down : Nat := 0
  accepted : Bool := false
  /-- HB_OUT; edges received in a row (R380). -/
  hbOut : Bool := false
  hbEdges : Nat := 0
  /-- The claim waits (R401); not eligible after a handover (R404); the handover is due; the hold is released at the next period
  boundary. -/
  claim : Bool := false
  holdoff : Bool := false
  handDue : Bool := false
  releaseDue : Bool := false
  /-- Markers steer the reference, boundaries since the last one, the first marker after training is still to come, and the block index to
  take at the next boundary (R394). -/
  marking : Bool := false
  markAge : Nat := 0
  firstMark : Bool := false
  setBlock : Option Nat := none
  /-- The unit's own S(B) of the last boundary, the owner's received for it, and the parts of the LOOP island still to apply. -/
  own : Option Snap := none
  got : Option Snap := none
  loopDue : Option (Snap × Snap) := none
  /-- A snapshot was applied at the last boundary, and at the one before. -/
  applied : Bool × Bool := (false, false)
  /-- WSEQ of the rings at the boundary of the last applied snapshot (R500). -/
  seqs : List Nat := List.replicate 32 0
  /-- Boundaries at which the owner still has part of a resynchronization to send, and sends no SNAP before the last; the data of the regions
  sent; the boundary B_R whose snapshot the standby waits for (R407). -/
  answering : Nat := 0
  sent : List (List Quad) := []
  bR : Option Nat := none
  /-- Boundaries left of SETTLE. -/
  settle : Nat := 0
  /-- Mismatched digests in a row (R393), and the partner's device number (R426). -/
  diverged : Nat := 0
  pDevnum : BitVec 64 := 0
  deriving DecidableEq, Repr

/-- A command of the ring master's queue (R420, R432). -/
structure StrCmd where
  dest : Nat
  ctype : Nat
  cseq : Nat
  payload : List Byte
  deriving DecidableEq, Repr

/-- The Strings ring (12) beyond the STR and MGR registers. -/
structure Str where
  /-- The transmitters are on and characters are forwarded (R416). -/
  forwarding : Bool := false
  /-- The device holds its own image (R413). -/
  image : Bool := false
  /-- The UP and the DOWN port have failed (R417); this node folds there (R428); the boundary at which it unfolds (R430). -/
  upBad : Bool := false
  downBad : Bool := false
  foldUp : Bool := false
  foldDown : Bool := false
  /-- Block boundaries since the last failure of the UP and the DOWN port, counted to 12,000 (R417). -/
  upAge : Nat := 12000
  downAge : Nat := 12000
  unfoldAt : Option Nat := none
  /-- Block boundaries since the last valid frame, counted to 12,000. -/
  quiet : Nat := 4
  /-- CSEQ and result of the last command applied (R433). -/
  ackSeq : Nat := 0
  ack : Nat := 0
  /-- Bytes 1 to 61 of the RUN slot as captured at the last block boundary (R421), and the slot this node put into the last frame that
  passed. -/
  captured : List Byte := List.replicate 61 0
  lastSlot : List Byte := []
  /-- The bytes between K27.7 and K29.7 of the last frame this unit sent, as master or forwarding it (R416, R418), and whether the master
  sent it on both transmitters (R428). -/
  sent : List Byte := []
  both : Bool := false
  /-- Ring master: it originates, it stops or starts at the next block boundary, the next frame is ENUM, and the frame of this block is
  out, and it is ENUM: the bit its header carries (R418, R424, R431). -/
  master : Bool := false
  stopDue : Bool := false
  startDue : Bool := false
  enumNext : Bool := true
  frameOut : Bool := false
  frameEnum : Bool := false
  /-- Copies of this block's frame that have returned, and the slots the DOWN receiver gave (R429). -/
  copies : Nat := 0
  downGave : List Bool := List.replicate 32 false
  /-- Addresses held, with the boundaries since the last valid slot (R424); the ENUM slots of the running enumeration; pair numbers;
  the slots that were valid in the frame before this one, and in this one. -/
  held : List (Option Nat) := List.replicate 32 none
  enumSlots : List (List Byte) := List.replicate 32 []
  pairs : List Nat := List.replicate 32 0xFF
  validLast : List Bool := List.replicate 32 false
  validNow : List Bool := List.replicate 32 false
  /-- Commands of the master itself, and queued ones, oldest first; the one being carried, its targets, those that have acknowledged it,
  and the frames it has been carried in; the next CSEQ. -/
  own : List StrCmd := []
  queue : List StrCmd := []
  cur : Option StrCmd := none
  /-- The command being carried is one of the master's own, not the head of the queue. -/
  curOwn : Bool := false
  targets : List Nat := []
  acked : List Nat := []
  carried : Nat := 0
  nextSeq : Nat := 1
  /-- The command in the command slot of the last valid frame, and the addresses the last ENUM frame showed as held (R431). -/
  seen : Option StrCmd := none
  seenHeld : List Bool := List.replicate 32 false
  deriving DecidableEq, Repr

/-- The two-wire host bus (13) beyond the HST registers. -/
structure Hst where
  /-- 0 idle, 1 address byte, 2 and 3 pointer bytes, 4 write data, 5 read, 6 ignored until the next START or STOP, 7 ignored until STOP. -/
  phase : Nat := 0
  /-- The address the transaction came to. -/
  path : Path := .hostPrimary
  /-- First pointer byte; data bytes taken; a byte beyond 32 came. -/
  ptrHigh : Nat := 0
  count : Nat := 0
  /-- The device acknowledged the last byte it received (R447, R448). -/
  acked : Bool := false
  isOver : Bool := false
  /-- Partly filled registers: pointer and the lanes filled; accesses formed (R449). -/
  lanes : List (Nat × List (Nat × Byte)) := []
  formed : List (Nat × Word) := []
  /-- The commit in work: accesses still to be granted, and its path (R451); a reset word was among those granted (R550). -/
  committing : Bool := false
  commit : List (Nat × Word) := []
  commitPath : Path := .hostPrimary
  resetDue : Bool := false
  /-- The register in the read latch with the companions captured with it, whether its fetch failed, and whether it is sent from lane 0 on
  (R455, R456, R457). -/
  fetched : Word := 0
  captured : List Word := []
  failed : Bool := false
  whole : Bool := false
  /-- A timeout has acted and no STOP has followed (R466). -/
  timedOut : Bool := false
  /-- An in-band request holds SDA low (R462). -/
  request : Bool := false
  /-- HST_CFG as in force: a new filter setting applies at the end of the commit that writes it (R468). -/
  filter : Word := 0x05000000#32
  deriving DecidableEq, Repr

/-- The state of the block. -/
structure State where
  /-- Every register, by pointer (R633); an unlisted pointer holds its reset value. -/
  regs : List (Nat × Word) := []
  /-- Values still in force of RWL registers written since the last update boundary (heldU) or block boundary (heldB) (R13). -/
  heldU : List (Nat × Word) := []
  heldB : List (Nat × Word) := []
  /-- The words behind the windows: channel, route, mix, lane and speaker banks, trace entries, sweep points, ring
  entries, QSPI buffer. -/
  banks : List (Nat × Word) := []
  /-- The persistent conditions present, by the key of their flag (R19). -/
  conds : List Nat := []
  /-- The gates of R29 by their order there: payload words presented and not yet delivered, oldest first. -/
  gates : List (List (List Word)) := List.replicate 25 []
  /-- The word the last read command returned to its path. -/
  rdata : Word := 0
  /-- The model's own counter of free values used (log entry 5). -/
  free : Nat := 0
  sys : Sys := {}
  time : Time := {}
  ain : Ain := {}
  mb : Mb := {}
  scn : Scn := {}
  legs : List LegGen := List.replicate 32 {}
  pwm : List PwmChan := List.replicate 16 {}
  safe : Safe := {}
  dlCal : DlCal := {}
  pins : Pins := {}
  sense : Sense := {}
  lanes : List LaneSt := List.replicate 17 {}
  loops : List LoopChan := List.replicate 16 {}
  lanePool : LanePool := {}
  trace : List TraceBuf := List.replicate 16 {}
  vent : Vent := {}
  mem : Mem := {}
  bkg : Bkg := {}
  rings : List RingSt := List.replicate 32 {}
  fab : Fab := {}
  twin : Twin := {}
  str : Str := {}
  hst : Hst := {}
  /-- Commands waiting, first in, first out. -/
  pending : List Instr := []
  deriving DecidableEq, Repr

/-- The state right after reset: every register at its reset value, memory wiped, no command waiting. -/
def State.reset : State := {}

end Sys2Proof.Machine
end

