-- ==== Sys2Proof/Machine/Ops.lean ====
section
/-! DEFINITION. Ops.lean: the named operations over registers, windows and free values that every meaning uses. -/

set_option Elab.async false

namespace Sys2Proof.Machine

/-- The reset value of the register at a pointer, with the values of the tables that differ by instance (R638). -/
def resetWord (p : Nat) : Word :=
  match rowOf p with
  | none => 0
  | some (r, i) =>
    if r.base = 0x2014 ∨ r.base = 0x2018 then
      -- MOD_TRGA and MOD_TRGB: enabled in even legs only, TRGA at the voltage and TRGB at the current input
      let tgt := if r.base = 0x2014 then 1 else 2
      let clear := r.reset
      if i % 2 = 0 then BitVec.ofNat 32 (clear + 0xC0000000 + tgt * 2 ^ 16) else BitVec.ofNat 32 clear
    else if r.base = 0x4000 then BitVec.ofNat 32 (r.reset + (i / 4) * 2 ^ 16)
    else if r.base = 0x4014 then BitVec.ofNat 32 (r.reset + (2 * i + 1) * 2 ^ 8 + 2 * i)
    else if r.base = 0x5014 then BitVec.ofNat 32 (r.reset + i * 2 ^ 24)
    else if r.base = 0x9000 then BitVec.ofNat 32 (r.reset + if i < 16 then 2 else 4)
    else if r.base = 0xA000 then BitVec.ofNat 32 (r.reset + i * 2 ^ 24)
    else BitVec.ofNat 32 r.reset

/-- An unlisted bank word reads as zero: the wipe of R510 leaves every word zero. -/
def bankDefault (_ : Nat) : Word := 0

namespace State

/-- The stored value of the register at a pointer. -/
def rd (s : State) (p : Nat) : Word := kvGet resetWord s.regs p

/-- The hardware writes a register whole. -/
def wr (s : State) (p : Nat) (v : Word) : State := { s with regs := kvPut resetWord s.regs p v }

/-- A field's stored value. -/
def get (s : State) (f : Fld) : Nat := bitsN (s.rd f.ptr).toNat f.hi f.lo

/-- A field's stored value as two's complement. -/
def getS (s : State) (f : Fld) : Int := signed (f.hi + 1 - f.lo) (s.get f)

/-- A one-bit field. -/
def on (s : State) (f : Fld) : Bool := s.get f != 0

/-- Word v with field f at value n (its low bits). -/
def putBits (v : Word) (f : Fld) (n : Nat) : Word :=
  let m := 2 ^ (f.hi + 1 - f.lo)
  BitVec.ofNat 32 (v.toNat - bitsN v.toNat f.hi f.lo * 2 ^ f.lo + n % m * 2 ^ f.lo)

/-- The hardware sets a field, leaving the register's other bits. -/
def set (s : State) (f : Fld) (n : Nat) : State := s.wr f.ptr (putBits (s.rd f.ptr) f n)

/-- The hardware sets a one-bit field. -/
def setB (s : State) (f : Fld) (b : Bool) : State := s.set f (if b then 1 else 0)

/-- The value in force of a register: the held one while an RWL write waits for its boundary (R13). -/
def live (s : State) (p : Nat) : Word :=
  match s.heldU.find? (fun e => e.1 = p) with
  | some e => e.2
  | none =>
    match s.heldB.find? (fun e => e.1 = p) with
    | some e => e.2
    | none => s.rd p

/-- A field of the register value in force. -/
def inForce (s : State) (f : Fld) : Nat := bitsN (s.live f.ptr).toNat f.hi f.lo
/-- A two's complement field of the register value in force. -/
def inForceS (s : State) (f : Fld) : Int := signed (f.hi + 1 - f.lo) (s.inForce f)
/-- A one-bit field in force. -/
def inForceB (s : State) (f : Fld) : Bool := s.inForce f != 0

/-- A word of a bank or table behind a window. -/
def bank (s : State) (k : Nat) : Word := kvGet bankDefault s.banks k
/-- Writes a word of a bank or table. -/
def putBank (s : State) (k : Nat) (v : Word) : State := { s with banks := kvPut bankDefault s.banks k v }

/-- A fresh free value. -/
def freshWord (s : State) : Word := Config.freeWord s.free
/-- The state after a free value is used. -/
def used (s : State) : State := { s with free := s.free + 1 }
/-- Stores a fresh free value into a field. -/
def setFree (s : State) (f : Fld) : State := (s.set f s.freshWord.toNat).used

/-- A read returns a word on its path. -/
def answer (s : State) (v : Word) : State := { s with rdata := v }

end State

/-- The pointer at which a register stands in State.regs: the stream registers are selected by AIN_SSEL (R77). -/
def canon (s : State) (p : Nat) : Nat :=
  if 0x834 ≤ p ∧ p ≤ 0x848 then 0x10000 + 0x20 * s.get F.AIN_SSEL_STREAM + (p - 0x834) else p

/-- The effect of the access codes of R13 on the stored value: RW and RWL bits take the written value, W1C bits written 1 clear, SC
bits written 1 set, every other bit stays. An RWL write keeps the value in force until its boundary. -/
def storeCoded (s : State) (p : Nat) (v : Word) : State :=
  match rowOf p with
  | none => s
  | some (r, _) =>
    let old := s.rd p
    let w := BitVec.ofNat 32 (r.rw ||| r.rwl)
    let new := ((old &&& ~~~w) ||| (v &&& w) ||| (v &&& BitVec.ofNat 32 r.sc)) &&& ~~~(v &&& BitVec.ofNat 32 r.w1c)
    let s1 := s.wr p new
    if r.rwl = 0 then s1
    else if r.atUpdate then
      if s.heldU.any (fun e => e.1 = p) then s1 else { s1 with heldU := (p, old) :: s1.heldU }
    else
      if s.heldB.any (fun e => e.1 = p) then s1 else { s1 with heldB := (p, old) :: s1.heldB }

end Sys2Proof.Machine
end

