-- ==== Sys2Proof/Machine/Flags.lean ====
section
/-! DEFINITION. Flags.lean: the event flags and their counters (R15 to R19). -/

set_option Elab.async false

namespace Sys2Proof.Machine

namespace State

/-- One set event of a flag: the flag is set and its counter rises by one, wrapping from 255 to 0 (R17, R18). -/
def raise (s : State) (g : Flag) : State :=
  let n := s.get ⟨g.cptr, g.clo + 7, g.clo⟩
  (s.set ⟨g.ptr, g.bit, g.bit⟩ 1).set ⟨g.cptr, g.clo + 7, g.clo⟩ ((n + 1) % 256)

/-- n set events of a flag (R36). -/
def raiseN (s : State) (g : Flag) (n : Nat) : State :=
  let f : Fld := ⟨g.cptr, g.clo + 7, g.clo⟩
  if n = 0 then s else (s.set ⟨g.ptr, g.bit, g.bit⟩ 1).set f ((s.get f + n) % 256)

/-- A flag of a persistent condition: one event when it begins, none while it lasts (R19). -/
def cond (s : State) (g : Flag) (present : Bool) : State :=
  let key := g.ptr * 32 + g.bit
  if present then
    if s.conds.contains key then s else ({ s with conds := key :: s.conds } : State).raise g
  else { s with conds := s.conds.filter (· != key) }

/-- Raises a flag when a test holds. -/
def raiseIf (s : State) (b : Bool) (g : Flag) : State := if b then s.raise g else s

end State

/-- The flag, with its counter, at a bit of a register (R16). -/
def flagAt (p bit : Nat) : Option Flag :=
  flagRows.findSome? fun (fp, b, cp, cl, st, n) =>
    let d := p - fp
    let i := if st = 0 then 0 else d / st
    if fp ≤ p ∧ b = bit ∧ i < n ∧ d = i * st then some ⟨p, bit, cp + i * st, cl⟩ else none

/-- W1C at one register: the bits of mask are cleared, then each bit of hwset has a set event of the same cycle, which leaves it set
and counts (R15, R17). -/
def w1cClear (s : State) (p : Nat) (mask hwset : Word) : State :=
  match rowOf p with
  | none => s
  | some (r, _) =>
    let w1c := BitVec.ofNat 32 r.w1c
    let s1 := s.wr p (s.rd p &&& ~~~(mask &&& w1c))
    (List.range 32).foldl (fun t b =>
      if bitN (hwset &&& w1c).toNat b then
        match flagAt p b with
        | some g => t.raise g
        | none => t
      else t) s1

end Sys2Proof.Machine
end

