-- ==== Sys2Proof/Machine/Gates.lean ====
section
/-! DEFINITION. Gates.lean: what the islands share: the gates between them (R27 to R36) and the queue of log records (R524, R526). -/

set_option Elab.async false

namespace Sys2Proof.Machine

/-- The order of the gates in State.gates. -/
def gateIdx : Gate → Nat
  | .gn1 => 0 | .gn2 => 1 | .gm1 => 2 | .gm2 => 3 | .gv1 => 4 | .gv2 => 5 | .gl1 => 6 | .gl2 => 7 | .gp1 => 8 | .gp2 => 9
  | .gd1 => 10 | .gd2 => 11 | .gd3 => 12 | .gd4 => 13 | .gd5 => 14 | .gd6 => 15 | .gd7 => 16
  | .gt1 => 17 | .gt2 => 18 | .gt3p => 19 | .gt3t => 20 | .gs1 => 21 | .gs2 => 22 | .gs3s => 23 | .gs3m => 24

/-- The stall flag of a data-path gate (R35). -/
def gateStall : Gate → Option Flag
  | .gd1 => some G.SYS_GD1_STALL | .gd2 => some G.SYS_GD2_STALL | .gd3 => some G.SYS_GD3_STALL
  | .gd4 => some G.SYS_GD4_STALL | .gd5 => some G.SYS_GD5_STALL | .gd6 => some G.SYS_GD6_STALL
  | .gd7 => some G.SYS_GD7_STALL
  | .gn1 | .gn2 | .gm1 | .gm2 | .gv1 | .gv2 | .gl1 | .gl2 | .gp1 | .gp2 | .gt1 | .gt2 | .gt3p | .gt3t | .gs1 | .gs2 | .gs3s
  | .gs3m => none

/-- The words a stream gate holds: its payload register and the two-entry queue before it (DEDUCED, log entry 13). -/
def gateCapacity : Nat := 3

/-- The payloads waiting at a gate, oldest first. -/
def State.gate (s : State) (g : Gate) : List (List Word) := s.gates.getD (gateIdx g) []

/-- The gates whose payloads begin with the source they come from: a core's unit at GD1 and GD2, a leg's word at GD5, the marker or an
input's notice at GD6. -/
def gateShared (g : Gate) : Bool := g == .gd1 || g == .gd2 || g == .gd5 || g == .gd6

/-- The payloads that wait in front of a new one. Where several sources share a gate each has its own place, since all of them may present
in the same cycle and none waits while both clocks run (R30, R34, R263; DEDUCED, log entry 13). -/
def gateWaiting (s : State) (g : Gate) (payload : List Word) : Nat :=
  if gateShared g then (s.gate g).countP fun q => q.head? == payload.head? else (s.gate g).length

/-- The words of R29 in a payload: those of a sample or of a unit's samples; at GD5 and GD6 one word. -/
def gateWords (g : Gate) (payload : List Word) : Nat :=
  if g = .gd5 ∨ g = .gd6 then 1 else if gateShared g then payload.length - 1 else payload.length

/-- The source presents a payload. A data-path gate that is full discards its words and counts its stall flag once for each (R34, R36); any
other source waits, so its payload is queued. -/
def gatePush (s : State) (g : Gate) (payload : List Word) : State :=
  match gateStall g with
  | some f =>
    if gateCapacity ≤ gateWaiting s g payload then s.raiseN f (gateWords g payload)
    else { s with gates := s.gates.modify (gateIdx g) (· ++ [payload]) }
  | none => { s with gates := s.gates.modify (gateIdx g) (· ++ [payload]) }

/-- The gate without its oldest payload. -/
def gatePop (s : State) (g : Gate) : State := { s with gates := s.gates.modify (gateIdx g) List.tail }

/-- n bytes of a number, most significant first. -/
def logBytes (n v : Nat) : List Byte := (List.range n).map fun i => BitVec.ofNat 8 (v / 256 ^ (n - 1 - i))

/-- A record waits for the log (R526): the queue holds 16, a record that finds it full is dropped, counts LOG_OVER and makes the writer
open a new sector; with LOG_EN = 0 none is queued. -/
def queueRecord (s : State) (r : LogRec) : State :=
  if !s.on F.BKG_CFG_LOG_EN then s
  else if 16 ≤ s.bkg.queue.length then
    ({ s with bkg := { s.bkg with newSector := true } } : State).raise G.BKG_LOG_OVER
  else { s with bkg := { s.bkg with queue := s.bkg.queue ++ [r] } }

/-- The kinds of RETIRE records (R524). -/
def retireCore : Nat := 1
def retireSlice : Nat := 2
def retireLane : Nat := 3

/-- A RETIRE record of a unit (R131, R234, R305, R524): bytes 8 and 9 are kind and index, bytes 16 to 21 the block index. -/
def queueRetire (s : State) (kind n : Nat) : State :=
  queueRecord s { type := 3, len := 2, body := logBytes 1 kind ++ logBytes 1 n ++ logBytes 6 0 ++ logBytes 6 s.time.block }

end Sys2Proof.Machine
end

