-- ==== Sys2Proof/Machine/Audio.lean ====
section
/-! DEFINITION. Audio.lean: network time, AES67, TDM and AES3 reception, ASRC domains, channel status and the mix table (02). -/

set_option Elab.async false

namespace Sys2Proof.Machine

/-- The state after an update of the audio inputs. -/
def State.ainUp (s : State) (f : Ain → Ain) : State := { s with ain := f s.ain }
/-- The state after an update of the servo. -/
def State.ptpUp (s : State) (f : Ptp → Ptp) : State := s.ainUp fun a => { a with ptp := f a.ptp }
/-- The state after an update of one stream. -/
def State.streamUp (s : State) (i : Nat) (f : Stream → Stream) : State :=
  s.ainUp fun a => { a with streams := a.streams.modify i f }
/-- The state after an update of one TDM port. -/
def State.tdmUp (s : State) (i : Nat) (f : Tdm → Tdm) : State := s.ainUp fun a => { a with tdm := a.tdm.modify i f }
/-- The state after an update of one AES3 receiver. -/
def State.aesUp (s : State) (i : Nat) (f : Aes3 → Aes3) : State := s.ainUp fun a => { a with aes3 := a.aes3.modify i f }
/-- The state after an update of one ASRC domain. -/
def State.asrcUp (s : State) (i : Nat) (f : Asrc → Asrc) : State := s.ainUp fun a => { a with asrc := a.asrc.modify i f }

/-- The management firmware runs: it holds the servo and the subscriptions (R37, R39). -/
def firmwareRuns (s : State) : Bool := s.sys.procs && !s.sys.mgmtStopped

/-! ### Network time (R56 to R66) -/

/-- The codes of PTP_STAT.STATE. -/
def ptpDisabled : Nat := 0
def ptpListen : Nat := 1
def ptpAcquire : Nat := 2
def ptpLocked : Nat := 3
def ptpHoldover : Nat := 4
def ptpStepPending : Nat := 5
def ptpPps : Nat := 6

/-- The order of the best master clock algorithm as a key: the smaller list in dictionary order is the better master (IEEE
1588-2008, PRESUMED, log entry 20). -/
def announceKey (a : Announce) : List Nat :=
  [a.prio1.toNat, a.clockClass.toNat, a.accuracy.toNat, a.variance.toNat, a.prio2.toNat, a.gm.toNat, a.steps.toNat]

/-- Dictionary order. -/
def lexLt : List Nat → List Nat → Bool
  | [], _ => false
  | _ :: _, [] => false
  | a :: as, b :: bs => if a < b then true else if b < a then false else lexLt as bs

/-- The best master among those heard on a port (R56). -/
def ptpBest (l : List Announce) : Option Announce :=
  l.foldl (fun b a => match b with
    | none => some a
    | some x => if lexLt (announceKey a) (announceKey x) then some a else some x) none

/-- The masters of a port with a new Announce, which takes the place of the last one of its grandmaster (R56). -/
def ptpHeard (a : Announce) (l : List Announce) : List Announce := a :: l.filter fun x => x.gm != a.gm

/-- The masters of a port without the best one, whose receipt timeout has run out (R58). -/
def ptpDropped (l : List Announce) : List Announce := match ptpBest l with
  | none => []
  | some b => l.filter fun x => x.gm != b.gm

/-- The selected port and master (R58): under policy 0 port A while it holds a master, under policy 1 the better one, A on a tie. -/
def ptpChoice (s : State) : Option (NetPort × Announce) :=
  match ptpBest s.ain.ptp.annA, ptpBest s.ain.ptp.annB with
  | none, none => none
  | some a, none => some (.a, a)
  | none, some b => some (.b, b)
  | some a, some b => if s.on F.PTP_CFG_PORT_POLICY && lexLt (announceKey b) (announceKey a) then some (.b, b) else some (.a, a)

/-- PPS_OUT runs in this state (R66). -/
def ppsRuns (st : Nat) : Bool := st == ptpPps || st == ptpLocked || st == ptpHoldover

/-- The servo enters a state: HOLDOVER and STEP_PENDING count their flags, the count of Sync messages starts again, LOCKED and PPS start
a mean of their own (R61), and PPS_OUT is low outside its states (R66). -/
def ptpEnter (s : State) (st : Nat) : State :=
  let was := s.get F.PTP_STAT_STATE
  let s1 := (s.set F.PTP_STAT_STATE st).ptpUp fun p => { p with
    good := 0, ppsOut := p.ppsOut && ppsRuns st, ppsAligned := p.ppsAligned && st == ptpPps
    hist := if (st == ptpLocked || st == ptpPps) && was != st then [] else p.hist }
  let s2 := s1.cond G.AIN_PTP_HOLD (st == ptpHoldover)
  let s3 := s2.cond G.AIN_PTP_STEP (st == ptpStepPending)
  if st == ptpHoldover && was != ptpHoldover then
    -- R61: the mean correction of the last 16 s of LOCKED or PPS, or the correction in force where there was none
    let h := s3.ain.ptp.hist
    let n := (h.map (·.1)).sum
    s3.set F.CLK_REFADJ_SERVO (pattern 24 (if n = 0 then s3.getS F.PTP_FREQ_FREQ else rneDiv ((h.map fun e => (e.1 : Int) * e.2).sum) n))
  else s3

/-- The servo target that the control law of the management firmware writes, which the spec bounds and does not give: a free value
within 100 ppm of nominal (R60, R582, log entry 21). -/
def ptpSteer (s : State) : State :=
  (s.set F.CLK_REFADJ_SERVO (pattern 24 (clampI (-100000) 100000 (signed 32 s.freshWord.toNat)))).used

/-- The selection of R58 and the rows of R59 that name a master. -/
def ptpSelect (s : State) : State :=
  match ptpChoice s with
  | none => s.ptpUp fun p => { p with sel := none }
  | some (port, a) =>
    let changed : Bool := match s.ain.ptp.sel with
      | none => false
      | some b => b.gm != a.gm
    let st := s.get F.PTP_STAT_STATE
    let s1 := (s.ptpUp fun p => { p with sel := some a }).set F.PTP_STAT_PORT (if port = .a then 0 else 1)
    let s2 := (s1.set F.PTP_STAT_STEPS_RM (min a.steps.toNat 255)).wr R.PTP_GMID_H (a.gm.extractLsb' 32 32)
    let s3 := s2.wr R.PTP_GMID_L (a.gm.extractLsb' 0 32)
    if st = ptpListen then ptpEnter s3 ptpAcquire
    else if (st = ptpAcquire ∨ st = ptpLocked) ∧ changed then ptpEnter s3 ptpAcquire
    else s3

/-- The masters heard are forgotten: PTP messages are not followed (R59). -/
def ptpForget (s : State) : State := s.ptpUp fun p => { p with annA := [], annB := [], sel := none }

/-- The rows of R59 that depend on PTP_CFG and PPS_SEEN alone, taken when the firmware sees the configuration; a new PORT_POLICY selects
the port again at once (DESIGN CHOICE, log entry 20). -/
def ptpConfigure (s : State) : State :=
  if !firmwareRuns s then s
  else
    let st := s.get F.PTP_STAT_STATE
    let src := s.get F.PTP_CFG_SRC
    if !s.on F.PTP_CFG_PTP_EN || src ≥ 2 then
      if st = ptpDisabled then s
      else ptpForget ((ptpEnter s ptpDisabled).set F.PTP_CTRL_STEP_NOW 0)
    else if src = 1 then
      if st = ptpPps then s
      else if s.on F.PTP_STAT_PPS_SEEN then ptpForget ((ptpEnter s ptpPps).set F.PTP_CTRL_STEP_NOW 0)
      else if st = ptpListen ∨ st = ptpAcquire ∨ st = ptpLocked ∨ st = ptpStepPending then
        ptpForget ((ptpEnter s ptpHoldover).set F.PTP_CTRL_STEP_NOW 0)
      else ptpForget s
    else if st = ptpDisabled then ptpSelect (ptpEnter s ptpListen)
    else if st = ptpPps then ptpEnter s ptpHoldover
    else ptpSelect s

/-- The servo takes PTP messages of this domain while it follows a master. -/
def ptpListens (s : State) (domain : Byte) : Bool :=
  firmwareRuns s && s.on F.PTP_CFG_PTP_EN && s.get F.PTP_CFG_SRC = 0 && domain.toNat = s.get F.PTP_CFG_DOMAIN
    && s.get F.PTP_STAT_STATE != ptpDisabled

/-- A message of the selected master on the port in use. -/
def ptpFromMaster (s : State) (port : NetPort) (gm : BitVec 64) : Bool :=
  (match s.ain.ptp.sel with
    | none => false
    | some a => a.gm == gm) && (s.get F.PTP_STAT_PORT == if port = .a then 0 else 1)

/-- A measured offset (device time minus master time, ns): PTP_OFFSET saturates, the rows of R59 that name an offset apply, and in
ACQUIRE and LOCKED the firmware steers the reference (R60). -/
def ptpMeasured (s : State) (off : Int) : State :=
  let s1 := s.set F.PTP_OFFSET_OFFSET (pattern 32 (satS 32 off))
  let st := s1.get F.PTP_STAT_STATE
  let big := 1000000 ≤ off.natAbs
  if big ∧ (st = ptpAcquire ∨ st = ptpLocked ∨ st = ptpHoldover ∨ st = ptpStepPending) then
    (if st = ptpStepPending then s1 else ptpEnter s1 ptpStepPending).ptpUp fun p => { p with stepOffset := off }
  else if st = ptpHoldover then ptpEnter s1 ptpAcquire
  else if st = ptpAcquire then
    let n := if off.natAbs < 1000 then s1.ain.ptp.good + 1 else 0
    let s2 := ptpSteer (s1.ptpUp fun p => { p with good := n })
    if 16 ≤ n then ptpEnter s2 ptpLocked else s2
  else if st = ptpLocked then ptpSteer s1
  else s1

/-- An Announce message (R56, R58). -/
def ptpAnnounce (s : State) (port : NetPort) (domain : Byte) (a : Announce) : State :=
  if !ptpListens s domain then s
  else
    ptpSelect (s.ptpUp fun p => match port with
      | .a => { p with annA := ptpHeard a p.annA }
      | .b => { p with annB := ptpHeard a p.annB })

/-- A Sync message (R59): a one-step master's is measured at once, a two-step master's with its Follow_Up. `diff` is the arrival
time less the origin time in ns; the path delay last measured is taken off (R56, log entry 20). -/
def ptpSync (s : State) (port : NetPort) (domain : Byte) (gm : BitVec 64) (twoStep : Bool) (diff : Int) : State :=
  if !(ptpListens s domain && ptpFromMaster s port gm) then s
  else
    let s1 := s.ptpUp fun p => match port with
      | .a => { p with twoStepA := twoStep }
      | .b => { p with twoStepB := twoStep }
    if twoStep then s1 else ptpMeasured (s1.ptpUp fun p => { p with diff := diff }) (diff - s1.ain.ptp.delay)

/-- A Follow_Up of a two-step master (R56). -/
def ptpFollowUp (s : State) (port : NetPort) (domain : Byte) (gm : BitVec 64) (diff : Int) : State :=
  let waits := match port with
    | .a => s.ain.ptp.twoStepA
    | .b => s.ain.ptp.twoStepB
  if !(ptpListens s domain && ptpFromMaster s port gm && waits) then s
  else
    let s1 := s.ptpUp fun p => match port with
      | .a => { p with twoStepA := false, diff := diff }
      | .b => { p with twoStepB := false, diff := diff }
    ptpMeasured s1 (diff - s1.ain.ptp.delay)

/-- A delay response (R56): with end-to-end delay the path delay is half the sum of both one-way differences. -/
def ptpDelayResp (s : State) (port : NetPort) (domain : Byte) (reqDiff : Int) : State :=
  if !(ptpListens s domain && (s.get F.PTP_STAT_PORT == if port = .a then 0 else 1)) then s
  else s.ptpUp fun p => { p with delay := rneDiv (p.diff + reqDiff) 2 }

/-- The announce receipt timeout of a port (R58, R59): its best master is dropped; another one is taken without a servo reset unless its
grandmaster differs, and with none ACQUIRE and LOCKED enter HOLDOVER. -/
def ptpTimeout (s : State) (port : NetPort) : State :=
  if !(firmwareRuns s && s.on F.PTP_CFG_PTP_EN && s.get F.PTP_CFG_SRC = 0) then s
  else
    let s1 := s.ptpUp fun p => match port with
      | .a => { p with annA := ptpDropped p.annA }
      | .b => { p with annB := ptpDropped p.annB }
    let st := s1.get F.PTP_STAT_STATE
    match ptpChoice s1 with
    | some _ => ptpSelect s1
    | none => if st = ptpAcquire ∨ st = ptpLocked then ptpSelect (ptpEnter s1 ptpHoldover) else ptpSelect s1

/-- Sample index 0 of the second at a PPS_IN edge (R66): the block counter takes the nearest whole second. -/
def ppsAlign (s : State) : State :=
  ({ s with time := { s.time with block := (s.time.block + 6000) / 12000 * 12000 % 2 ^ 48 } } : State).ptpUp fun p =>
    { p with ppsAligned := true }

/-- A PPS_IN edge (R59, R66): the first one in PPS mode aligns the seconds, which the servo then follows. -/
def ppsEdge (s : State) : State :=
  let s1 := s.set F.PTP_STAT_PPS_SEEN 1
  let st := s1.get F.PTP_STAT_STATE
  if firmwareRuns s1 && s1.on F.PTP_CFG_PTP_EN && s1.get F.PTP_CFG_SRC = 1 then
    if st = ptpPps then (if s1.ain.ptp.ppsAligned then ptpSteer s1 else ppsAlign s1)
    else ppsAlign ((ptpEnter s1 ptpPps).set F.PTP_CTRL_STEP_NOW 0)
  else s1

/-- No PPS_IN edge for 2 s (R59). -/
def ppsTimeout (s : State) : State :=
  let s1 := s.set F.PTP_STAT_PPS_SEEN 0
  if firmwareRuns s1 ∧ s1.get F.PTP_STAT_STATE = ptpPps then ptpEnter s1 ptpHoldover else ptpConfigure s1

/-- PTP_CTRL.STEP_NOW (R62): it stays set until the step is taken, and clears at once when none is pending. -/
def stepNow (s : State) : State :=
  if s.get F.PTP_STAT_STATE = ptpStepPending then s.set F.PTP_CTRL_STEP_NOW 1 else s.set F.PTP_CTRL_STEP_NOW 0

/-- The blocks by which a step moves the counter back: the offset in blocks of 83,333 1/3 ns, rounded (R63). -/
def stepBlocks (off : Int) : Int := rneDiv (off * 12000) 1000000000

/-- The servo's part of a block boundary: corrections of LOCKED and PPS are kept for R61 (16 s are 192,000 blocks). -/
def histPush (h : List (Nat × Int)) (c : Int) : List (Nat × Int) :=
  let h1 := match h with
    | (n, d) :: r => if d = c then (n + 1, d) :: r else (1, c) :: (n, d) :: r
    | [] => [(1, c)]
  let rec trim : Nat → List (Nat × Int) → List (Nat × Int)
    | _, [] => []
    | room, (n, d) :: r => if room = 0 then [] else (min n room, d) :: trim (room - min n room) r
  trim 192000 h1

/-- PPS_OUT at a block boundary (R66): it rises at each whole second in PPS, LOCKED and HOLDOVER, and is low in other states. -/
def ppsOutAtBlock (s : State) : State :=
  s.ptpUp fun p => { p with ppsOut := ppsRuns (s.get F.PTP_STAT_STATE) && (p.ppsOut || s.time.block % 12000 == 0) }

/-- The history of R61 at a block boundary. -/
def ptpHistAtBlock (s : State) : State :=
  let st := s.get F.PTP_STAT_STATE
  if st = ptpLocked ∨ st = ptpPps then s.ptpUp fun p => { p with hist := histPush p.hist (s.getS F.PTP_FREQ_FREQ) } else s

/-! ### AES67 streams (R67 to R77) -/

/-- The samples per packet at the stream's own rate (R67). -/
def packetSamples (s : State) (i : Nat) : Nat :=
  let n := [6, 12, 16, 48].getD (s.get (F.AIN_SCFG_PTIME i)) 6
  if s.on (F.AIN_SCFG_RATE i) then 2 * n else n

/-- 96 kHz samples per own-rate sample. -/
def rateMult (s : State) (i : Nat) : Nat := if s.on (F.AIN_SCFG_RATE i) then 1 else 2

/-- The channels of a stream. -/
def streamChans (s : State) (i : Nat) : Nat := s.get (F.AIN_SCFG_NCH_M1 i) + 1

/-- The key of a receive sample: its position and play index (R68). -/
def rxKey (pos play : Nat) : Nat := pos * 2 ^ 52 + play % 2 ^ 52

/-- The running sample index at the receive reader. -/
def sampleNow (s : State) : Nat := 8 * s.time.block + s.ain.sub

/-- L24 and L16 words as binary32 (R55). -/
def pcmToF32 (l16 : Bool) (w : Word) : Word :=
  if l16 then f32OfDyadic (signed 16 w.toNat) (-15) else f32OfDyadic (signed 24 w.toNat) (-23)

/-- One frame of a packet: its samples go to the stream's positions at its play index, where these are not yet filled (R73). -/
def rxFrame (l16 : Bool) (base play : Nat) : List Word → Nat → List (Nat × Word) → List (Nat × Word)
  | [], _, m => m
  | w :: ws, j, m =>
    let k := rxKey (base + j) play
    rxFrame l16 base play ws (j + 1) (if kvHas m k then m else kvIns m k (pcmToF32 l16 w))

/-- The words of frame f of a packet with n channels. -/
def frameOf (ws : List Word) (n f : Nat) : List Word := (ws.drop (f * n)).take n

/-- A packet at one stream (R70 to R73). A copy whose positions are all filled leaves RX_A and RX_B as they are (DESIGN CHOICE, log entry
82). -/
def streamPacket (s : State) (i : Nat) (port : NetPort) (ssrc ts : Word) (ws : List Word) : State :=
  let learned := s.on (F.AIN_SSTAT_SSRC_VALID i)
  let st := s.ain.streams.getD i {}
  if learned && st.ssrc != ssrc then s
  else
    let s0 := (s.set (F.AIN_SSTAT_SSRC_VALID i) 1).streamUp i fun t => { t with ssrc := ssrc }
    let n := streamChans s i
    let mult := rateMult s i
    let now := sampleNow s
    let ownNow := now / mult
    let d := signed 32 (pattern 32 ((ts.toNat : Int) - (s.rd (R.AIN_SRTP i)).toNat - ownNow))
    let first : Int := ((ownNow : Int) + d) * mult + s.get (F.AIN_SCFG_LINK_OFFS i)
    let frames := ws.length / n
    let play (f : Nat) : Int := first + (f * mult : Nat)
    let inside (f : Nat) : Bool := decide ((now : Int) < play f) && decide (play f ≤ (now : Int) + 1024)
    let fs := List.range frames
    let good := fs.filter inside
    let l16 := s.on (F.AIN_SCFG_FMT i)
    let base := s.get (F.AIN_SCFG_BASE i)
    let fresh := good.filter fun f => !kvHas st.rx (rxKey base (play f).toNat)
    let rx := fresh.foldl (fun m f => rxFrame l16 base (play f).toNat (frameOf ws n f) 0 m) st.rx
    let s1 := s0.streamUp i fun t => { t with rx := rx }
    let s2 := if fresh.isEmpty then s1
      else s1.set (match port with
        | .a => F.AIN_SSTAT_RX_A i
        | .b => F.AIN_SSTAT_RX_B i) 1
    s2.raiseIf (good.length < frames) G.AIN_PKT_WINDOW

/-- A packet matches a stream: enabled, the port among its paths, destination address and UDP port (R67, R77). -/
def streamMatches (s : State) (i : Nat) (port : NetPort) (dst : Word) (udp : Word16) : Bool :=
  s.on (F.AIN_SCFG_EN i) && match port with
  | .a => bitN (s.get (F.AIN_SCFG_PATHS i)) 0 && s.rd (R.AIN_SADDRA i) == dst && s.get (F.AIN_SPORT_UDP_A i) == udp.toNat
  | .b => bitN (s.get (F.AIN_SCFG_PATHS i)) 1 && s.rd (R.AIN_SADDRB i) == dst && s.get (F.AIN_SPORT_UDP_B i) == udp.toNat

/-- A received packet goes to every stream it matches; before the firmware enables the MACs every frame is dropped (R562). -/
def packetRx (s : State) (port : NetPort) (dst : Word) (udp : Word16) (ssrc ts : Word) (ws : List Word) : State :=
  if !s.sys.procs then s
  else (List.range 16).foldl (fun t i => if streamMatches t i port dst udp then streamPacket t i port ssrc ts ws else t) s

/-- The reason code for which an enable is refused, or 0 (R75). -/
def enableReason (s : State) (i : Nat) (v : Word) : Nat :=
  let f (x : Fld) : Nat := bitsN v.toNat x.hi x.lo
  let paths := f (F.AIN_SCFG_PATHS i)
  let nch := f (F.AIN_SCFG_NCH_M1 i) + 1
  let per := [6, 12, 16, 48].getD (f (F.AIN_SCFG_PTIME i)) 6
  let spp := if f (F.AIN_SCFG_RATE i) = 1 then 2 * per else per
  let bytes := if f (F.AIN_SCFG_FMT i) = 1 then 2 else 3
  let base := f (F.AIN_SCFG_BASE i)
  let offs := f (F.AIN_SCFG_LINK_OFFS i)
  let overlaps (j : Nat) : Bool :=
    j != i && s.on (F.AIN_SCFG_EN j) && decide (base < s.get (F.AIN_SCFG_BASE j) + streamChans s j)
      && decide (s.get (F.AIN_SCFG_BASE j) < base + nch)
  let multicast (w : Word) : Bool := w.toNat / 2 ^ 28 = 0xE
  if paths = 0 then 1
  else if 1440 < nch * spp * bytes then 2
  else if 64 < base + nch then 3
  else if (List.range 16).any overlaps then 4
  else if offs < 2 * per ∨ 960 < offs then 5
  else if (bitN paths 0 && !multicast (s.rd (R.AIN_SADDRA i))) || (bitN paths 1 && !multicast (s.rd (R.AIN_SADDRB i))) then 6
  else 0

/-- The bits of AIN_SCFG that hold fields (R11). -/
def scfgMask : Word := 0xBFFF83FF#32

/-- The IGMPv3 membership report of a group leaves through GN2 on a port: its words are 3 for the version, the port and the group (R67; no
row brings a query, so no querier is of version 2; log entry 80). -/
def sendReport (s : State) (port : NetPort) (group : Word) : State := gatePush s .gn2 [3, if port = .a then 0 else 1, group]

/-- The management firmware reports the groups of an enabled stream on its paths (R67). -/
def sendReports (s : State) (i : Nat) : State :=
  if !firmwareRuns s then s
  else
    let s1 := if bitN (s.get (F.AIN_SCFG_PATHS i)) 0 then sendReport s .a (s.rd (R.AIN_SADDRA i)) else s
    if bitN (s.get (F.AIN_SCFG_PATHS i)) 1 then sendReport s1 .b (s.rd (R.AIN_SADDRB i)) else s1

/-- A write of AIN_SCFG (R75, R76): with EN = 1 only a write that only clears EN is taken; a write that sets EN is checked. -/
def writeScfg (s : State) (i : Nat) (v0 : Word) : State :=
  let v := v0 &&& scfgMask
  let old := s.rd (R.AIN_SCFG i)
  if s.on (F.AIN_SCFG_EN i) then
    if v = old &&& 0x7FFFFFFF#32 then (s.wr (R.AIN_SCFG i) v).streamUp i fun t => { t with stopping := true }
    else s.raise G.AIN_SCFG_LOCKED
  else if !bitN v.toNat 31 then s.wr (R.AIN_SCFG i) v
  else
    let r := enableReason s i v
    if r != 0 then
      ((s.wr (R.AIN_SCFG i) (v &&& 0x7FFFFFFF#32)).set (F.AIN_SSTAT_REASON i) r).raise G.AIN_STRM_REFUSED
    else
      -- enabled: counters and the learned SSRC start anew, REASON is 0 and ACTIVE 1
      sendReports (((s.wr (R.AIN_SCFG i) v).wr (R.AIN_SSTAT i) 1#32).streamUp i fun _ => {}) i

/-- A write of a stream register other than AIN_SCFG: AIN_SADDRA, AIN_SADDRB, AIN_SPORT and AIN_SRTP are ignored and counted while EN = 1
(R76). -/
def writeStreamReg (s : State) (i : Nat) (p : Nat) (v : Word) : State :=
  if s.on (F.AIN_SCFG_EN i) && p != R.AIN_SSTAT i then s.raise G.AIN_SCFG_LOCKED else storeCoded s p v

/-- A stopped stream's positions play zeros from the block boundary on (R76). -/
def streamsAtBlock (s : State) : State :=
  (List.range 16).foldl (fun t i =>
    if (t.ain.streams.getD i {}).stopping then
      let t1 := t.streamUp i fun _ => {}
      if t.on (F.AIN_SCFG_EN i) then t1
      else (((t1.set (F.AIN_SSTAT_ACTIVE i) 0).set (F.AIN_SSTAT_RX_A i) 0).set (F.AIN_SSTAT_RX_B i) 0).set
        (F.AIN_SSTAT_SSRC_VALID i) 0
    else t) s

/-- The stream feeds its positions: enabled, or stopping until the next block boundary. -/
def streamFeeds (s : State) (i : Nat) : Bool := s.on (F.AIN_SSTAT_ACTIVE i)

/-- The words one stream presents at a play index, for each position, and its loss bookkeeping (R69, R74). A lost packet time counts at the
last of as many missing samples in a row as a packet holds (DESIGN CHOICE, log entry 82). -/
def streamRead (s : State) (i play : Nat) : State × List (Nat × Word) :=
  if !streamFeeds s i || play % rateMult s i != 0 then (s, [])
  else
    let base := s.get (F.AIN_SCFG_BASE i)
    let st := s.ain.streams.getD i {}
    let n := streamChans s i
    let has := kvHas st.rx (rxKey base play)
    let ws := (List.range n).map fun j => (base + j, kvGet bankDefault st.rx (rxKey (base + j) play))
    let rx := (List.range n).foldl (fun m j => kvDel m (rxKey (base + j) play)) st.rx
    let miss := if has then 0 else st.missing + 1
    let lost := miss = packetSamples s i
    let s1 := s.streamUp i fun t => { t with rx := rx, missing := if lost then 0 else miss }
    let s2 := if lost then
        (s1.set (F.AIN_SSTAT_LOST_CNT i) ((s1.get (F.AIN_SSTAT_LOST_CNT i) + 1) % 65536)).raise G.AIN_PKT_LOST
      else s1
    (s2, if has then ws else ws.map fun e => (e.1, 0))

/-- The MGMT clock is outside its limits (R69, R203). -/
def mgmtClockOut (s : State) : Bool := s.conds.contains (G.TS_MGMT_CLK.ptr * 32 + G.TS_MGMT_CLK.bit)

/-- The receive reader of one sample period presents the due samples to GD7, one entry of (position, word) pairs in ascending position
order; it stands still while the MGMT clock is outside its limits (R69). -/
def receiveReader (s : State) : State :=
  if mgmtClockOut s then s
  else
    let play := sampleNow s + 1
    let r := (List.range 16).foldl (fun (acc : State × List (Nat × Word)) i =>
      let x := streamRead acc.1 i play
      (x.1, acc.2 ++ x.2)) (s, [])
    let inOrder := (List.range 64).filterMap fun p => r.2.find? fun e => e.1 == p
    if r.2.isEmpty then r.1
    else gatePush r.1 .gd7 (inOrder.flatMap fun e => [BitVec.ofNat 32 e.1, e.2])

/-! ### ASRC domains (R89 to R93) -/

/-- The fade gain of a domain in 1/512 (a fade out of 8 samples from the level reached, a fade in of 64) (R91). -/
def asrcGain (a : Asrc) : Nat :=
  if a.locked then 8 * min (a.pos + 1) 64 else if a.pos < 8 then a.from64 * (7 - a.pos) else 0

/-- A domain that loses lock: it fades to zero from the level reached (R91). -/
def asrcFadeOut (a : Asrc) : Asrc := if a.locked then { a with locked := false, from64 := min (a.pos + 1) 64, pos := 0 } else a

/-- A TDM port is a master-mode port. -/
def tdmMaster (s : State) (i : Nat) : Bool := bitN (s.rd (0x850 + 4 * i)).toNat 30

/-- LOCK of a TDM port: port locked and, in slave mode, ASRC locked. -/
def tdmShowLock (s : State) (i : Nat) : State :=
  let l := (s.ain.tdm.getD i {}).locked && (tdmMaster s i || (s.ain.asrc.getD i {}).locked)
  s.setB ⟨0x850 + 4 * i, 7, 7⟩ l

/-- LOCK of an AES3 receiver: receiver and ASRC locked. -/
def aesShowLock (s : State) (i : Nat) : State :=
  s.setB ⟨0x880 + 4 * i, 7, 7⟩ ((s.ain.aes3.getD i {}).locked && (s.ain.asrc.getD (4 + i) {}).locked)

/-- The LOCK bit of the source of an ASRC domain: domains 0 to 3 are the TDM ports, 4 to 7 the AES3 receivers (R89). -/
def domainShowLock (s : State) (d : Nat) : State := if d < 4 then tdmShowLock s d else aesShowLock s (d - 4)

/-- The source of a domain can lock it: a slave-mode TDM port that is locked itself, or an AES3 receiver (R80, R89). -/
def asrcReady (s : State) (d : Nat) : Bool := !decide (d < 4) || ((s.ain.tdm.getD d {}).locked && !tdmMaster s d)

/-- A domain gains lock: its slots fade in from zero over 8 blocks, also where a fade to zero still ran (R91; DESIGN CHOICE, log entry 7). -/
def asrcLock (s : State) (d : Nat) : State :=
  if (s.ain.asrc.getD d {}).locked || !asrcReady s d then s
  else domainShowLock (s.asrcUp d fun a => { a with locked := true, pos := 0 }) d

/-- A domain loses lock: its slots fade to zero over 8 samples; SRC_LOST counts (R91). -/
def asrcUnlock (s : State) (d : Nat) : State :=
  if !(s.ain.asrc.getD d {}).locked then s
  else (domainShowLock (s.asrcUp d asrcFadeOut) d).raise G.AIN_SRC_LOST

/-- A frame enters a domain: the converter takes the one of 32 input periods before (R90). -/
def asrcFrame (a : Asrc) (frame : List Word) : Asrc :=
  { a with tok := Config.asrcIn a.tok (a.inLine.getD 31 []), inLine := (frame :: a.inLine).take 32 }

/-- A domain after an output sample: the converter's outputs enter the line of 48 output samples (R90). -/
def asrcAdvance (a : Asrc) : Asrc :=
  { a with outLine := (((List.range 16).map (Config.asrcOut a.tok)) :: a.outLine).take 48, tok := Config.asrcTick a.tok, pos := min (a.pos + 1) 64 }

/-- The sample of a channel of a domain: the one converted 48 output samples before (R90). -/
def asrcSample (a : Asrc) (ch : Nat) : Word := (a.outLine.getD 47 []).getD ch 0

/-! ### TDM ports (R78 to R82) and AES3 receivers (R85 to R88) -/

/-- The slots of a TDM port's frame (R78). -/
def tdmSlots (s : State) (i : Nat) : Nat :=
  let v := (s.rd (0x850 + 4 * i)).toNat
  if bitN v 29 || bitN v 28 then 8 else 16

/-- A TDM slot as binary32 (R55). -/
def tdmToF32 (w : Word) : Word := f32OfDyadic (signed 32 w.toNat) (-31)

/-- The BCLK frequency in Hz of a master-mode port at its frame rate (R79). -/
def tdmBclk (s : State) (i : Nat) : Nat := 32 * tdmSlots s i * (if bitN (s.rd (0x850 + 4 * i)).toNat 27 then 48000 else 96000)

/-- The clocks BCLK and FS that the unit drives on port i, in Hz; none where the balls are inputs (R79, R82). -/
def tdmClocks (s : State) (i : Nat) : Option (Nat × Nat) :=
  if (s.ain.tdm.getD i {}).drives then some (tdmBclk s i, if bitN (s.rd (0x850 + 4 * i)).toNat 27 then 48000 else 96000) else none

/-- The unit drives the clocks of port i from its next frame boundary on: a master-mode port's, in a twin pair as the holder of OWN_N
(R79, R82). -/
def tdmWants (s : State) (i : Nat) : Bool :=
  (s.ain.tdm.getD i {}).enabled && tdmMaster s i && (!s.on F.TWN_CFG_PAIR_EN || s.pins.own)

/-- A frame boundary of port i: the drive of its clocks changes, and at a takeover in a pair up to two frames play as zeros, how many the
spec leaves open (R82; a free value, log entry 81). -/
def tdmDrive (s : State) (i : Nat) : State :=
  let w := tdmWants s i
  let t := s.ain.tdm.getD i {}
  if t.drives = w then s
  else if s.on F.TWN_CFG_PAIR_EN && t.enabled && tdmMaster s i then
    (s.tdmUp i fun t => { t with drives := w, zeros := s.freshWord.toNat % 3 }).used
  else s.tdmUp i fun t => { t with drives := w }

/-- A 2x interpolator takes an input frame (R92). -/
def interp2Take (k : Interp2) (frame : List Word) : Interp2 := { line := (frame :: k.line).take 17, age := 0 }

/-- The interpolator at an output sample; where no input frame came in its two output samples it takes zeros. -/
def interp2Due (k : Interp2) : Interp2 := if 2 ≤ k.age then interp2Take k [] else k

/-- Coefficient j of the 33 of the 2x interpolator, symmetric about 16: linear phase with a group delay of 16 output samples (R92). -/
def interp2H (j : Nat) : Word := Config.interp2Coef (min j (32 - j))

/-- The output of a channel: the coefficients of its phase by the input samples, newest first, in fused multiply-adds (R92; the order of
the sum is a DESIGN CHOICE, log entry 7). -/
def interp2Sample (k : Interp2) (ch : Nat) : Word :=
  (List.range 17).foldl (fun acc m =>
    let j := 2 * m + k.age
    if j ≤ 32 then f32Fma (interp2H j) ((k.line.getD m []).getD ch 0) acc else acc) 0

/-- A received frame (R80, R81, R82): one of another BCLK count is discarded and its samples are zero; while the port is not locked its
frames are not used. -/
def tdmFrame (s0 : State) (i : Nat) (bclks : Nat) (ws : List Word) : State :=
  let s := tdmDrive s0 i
  let t := s.ain.tdm.getD i {}
  if !t.enabled then s
  else
    let n := tdmSlots s i
    let good := bclks = 32 * n
    let slots : List Word :=
      if good ∧ t.locked ∧ t.zeros = 0 then (List.range 16).map fun j => if j < n then tdmToF32 (ws.getD j 0) else 0
      else List.replicate 16 0
    let s1 := s.tdmUp i fun t =>
      { t with slots := slots, good := if good then t.good + 1 else 0, bad := if good then 0 else t.bad + 1, zeros := t.zeros - 1 }
    if tdmMaster s i then
      if bitN (s.rd (0x850 + 4 * i)).toNat 27 then
        s1.ainUp fun a => { a with interpTdm := a.interpTdm.modify i fun k => interp2Take k slots }
      else s1
    else s1.asrcUp i fun a => asrcFrame a slots

/-- A port loses lock: its slots play zero, its domain counts as unlocked, SRC_LOST counts (R80). -/
def tdmLose (s : State) (i : Nat) : State :=
  if !(s.ain.tdm.getD i {}).locked then s
  else
    let s1 := s.tdmUp i fun t => { t with locked := false, good := 0, slots := List.replicate 16 0 }
    let s2 := s1.raise G.AIN_SRC_LOST
    let s3 := if tdmMaster s i then s2
      else s2.asrcUp i asrcFadeOut
    (tdmShowLock s3 i).set ⟨0x850 + 4 * i, 6, 4⟩ 0

/-- The port accepts frames at a rate of the code of RATE_DET: a slave-mode port with 16 slots up to 96 kHz (R79). -/
def tdmRateOk (s : State) (i : Nat) (rate : BitVec 3) : Bool := tdmMaster s i || decide (tdmSlots s i = 8) || decide (rate.toNat ≤ 5)

/-- Lock after 16 good frames, with the detected rate (R80). At a locked slave-mode port another rate is a loss of lock of its domain
(R91). -/
def tdmGain (s : State) (i : Nat) (rate : BitVec 3) : State :=
  let t := s.ain.tdm.getD i {}
  let rateDet : Fld := ⟨0x850 + 4 * i, 6, 4⟩
  if !t.enabled || t.good < 16 || !tdmRateOk s i rate then s
  else if t.locked then
    if tdmMaster s i || s.get rateDet = rate.toNat then s else (asrcUnlock s i).set rateDet rate.toNat
  else
    let s1 := s.tdmUp i fun t => { t with locked := true, bad := 0 }
    (tdmShowLock s1 i).set rateDet rate.toNat

/-- An AES3 subframe (R86): a parity error repeats the previous sample and counts; the V bit is only reported. -/
def aesSubframe (s : State) (i sub : Nat) (w : BitVec 24) (parityOk invalid : Bool) : State :=
  let r := s.ain.aes3.getD i {}
  if !r.enabled then s
  else
    let x := if parityOk then f32OfDyadic (signed 24 w.toNat) (-23) else r.last.getD sub 0
    let last := r.last.set sub x
    let vs := r.vBits.set sub invalid
    let s1 := s.aesUp i fun r => { r with last := last, vBits := vs }
    let s2 := s1.setB ⟨0x880 + 4 * i, 3, 3⟩ (vs.any id)
    let s3 := if sub = 1 then s2.asrcUp (4 + i) fun a => asrcFrame a last else s2
    s3.raiseIf (!parityOk) G.AIN_AES_PARITY

/-- A completed channel-status block (R87): a bad CRCC is counted and the block is not kept. -/
def aesStatus (s : State) (i : Nat) (bytes : List Byte) (good : Bool) : State :=
  if !(s.ain.aes3.getD i {}).enabled then s
  else if !good then s.raise G.AIN_AES_CRC
  else
    (s.aesUp i fun r => { r with status := some (bytes.take 24) }).setB ⟨0x880 + 4 * i, 2, 2⟩ (bitN (bytes.getD 0 0).toNat 0)

/-- An AES3 receiver locks (R85); another rate than that of a lock it holds is a loss of lock of its domain (R91). -/
def aesLock (s : State) (i : Nat) (rate : BitVec 3) : State :=
  let r := s.ain.aes3.getD i {}
  let rateDet : Fld := ⟨0x880 + 4 * i, 6, 4⟩
  if !r.enabled then s
  else
    let s1 := if r.locked && s.get rateDet != rate.toNat then asrcUnlock s (4 + i) else s
    (aesShowLock (s1.aesUp i fun r => { r with locked := true }) i).set rateDet rate.toNat

/-- An AES3 receiver loses lock: its domain fades out (R91), SRC_LOST counts. -/
def aesLose (s : State) (i : Nat) : State :=
  if !(s.ain.aes3.getD i {}).locked then s
  else
    let s1 := (s.aesUp i fun r => { r with locked := false }).raise G.AIN_SRC_LOST
    let s2 := s1.asrcUp (4 + i) asrcFadeOut
    (aesShowLock s2 i).set ⟨0x880 + 4 * i, 6, 4⟩ 0

/-- Port and receiver enables take effect at the block boundary; a disabled one drops its lock, which counts SRC_LOST once, for the
port or receiver and its domain together (R99; DESIGN CHOICE, log entry 7). -/
def inputsAtBlock (s : State) : State :=
  let s1 := (List.range 4).foldl (fun t i =>
    let en := bitN (t.rd (0x850 + 4 * i)).toNat 31
    if en then tdmDrive (t.tdmUp i fun p => { p with enabled := true }) i
    else if (t.ain.tdm.getD i {}).enabled then
      (tdmLose t i).tdmUp i fun _ => {}
    else t) s
  (List.range 4).foldl (fun t i =>
    let en := bitN (t.rd (0x880 + 4 * i)).toNat 31
    if en then t.aesUp i fun p => { p with enabled := true }
    else if (t.ain.aes3.getD i {}).enabled then (aesLose t i).aesUp i fun r => { r with enabled := false }
    else t) s1

/-- A write of AIN_CSSEL (R87): the selected receiver's last good block is latched whole and WORD is 0. -/
def csSelect (s : State) (v : Word) : State :=
  let rx := v.toNat % 4
  let blk := (s.ain.aes3.getD rx {}).status
  let s1 := s.wr R.AIN_CSSEL (BitVec.ofNat 32 (rx + if blk.isSome then 256 else 0))
  s1.ainUp fun a => { a with csLatch := blk.getD [] }

/-- A whole read of AIN_CSDATA (R88). -/
def csRead (s : State) : State :=
  let w := s.get F.AIN_CSSEL_WORD
  let b (j : Nat) : Nat := (s.ain.csLatch.getD (4 * w + j) 0).toNat
  let x := BitVec.ofNat 32 (b 0 * 2 ^ 24 + b 1 * 2 ^ 16 + b 2 * 2 ^ 8 + b 3)
  (s.set F.AIN_CSSEL_WORD (if w ≥ 5 then 0 else w + 1)).answer x

/-! ### Routing and mix tables (R94 to R98) -/

/-- The key of a route word: table and register index. -/
def routeKey (tab : Bool) (n : Nat) : Nat := 0x2000000 + (if tab then 64 else 0) + n
/-- The key of a mix gain: table and INDEX = c * 64 + s. -/
def mixKey (tab : Bool) (i : Nat) : Nat := 0x2010000 + (if tab then 1024 else 0) + i

/-- The NEXT route and mix tables are frozen from the arming of a commit with ROUTE = 1 to the end of its crossfade (R97). -/
def tablesFrozen (s : State) : Bool := s.get F.SCN_STAT_STATE != 0 && s.on F.SCN_CFG_ROUTE

/-- A stored gain is finite with |g| at most 16; tiny values and specials are +0.0 (R96). -/
def storedGain (v : Word) : Word :=
  if f32Special v || f32Tiny v then 0
  else if f32Lt 0x41800000#32 (f32Abs v) then (v &&& 0x80000000#32) ||| 0x41800000#32
  else v

/-- The INDEX after a whole access of an alias. -/
def mixAdvance (s : State) : State :=
  s.set F.AIN_MIXPTR_INDEX ((s.get F.AIN_MIXPTR_INDEX + 1) % 1024)

/-- A write through an AIN_MIXDATA alias (R96 to R98); a frozen table keeps its gain and INDEX still advances (R47). -/
def mixWrite (s : State) (v : Word) : State :=
  if tablesFrozen s then mixAdvance (s.raise G.SCN_NXT_LOCKED)
  else
    let s1 := s.putBank (mixKey (!s.mb.liveTab) (s.get F.AIN_MIXPTR_INDEX)) (storedGain v)
    mixAdvance (s1.raiseIf (f32Special v) G.AIN_MIX_BADVAL)

/-- A whole read through an AIN_MIXDATA alias (R98). -/
def mixRead (s : State) : State :=
  mixAdvance (s.answer (s.bank (mixKey (!s.mb.liveTab) (s.get F.AIN_MIXPTR_INDEX))))

/-- A write of AIN_ROUTEn, an RWB register of the NEXT table (R97). -/
def routeWrite (s : State) (n : Nat) (v : Word) : State :=
  if tablesFrozen s then s.raise G.SCN_NXT_LOCKED else s.putBank (routeKey (!s.mb.liveTab) n) v

/-- The source code of routed slot j in a table. -/
def routeCode (s : State) (tab : Bool) (j : Nat) : Nat := (s.bank (routeKey tab (j / 4))).toNat / 2 ^ (8 * (j % 4)) % 256

/-- A slot value after its domain's fade (R91). -/
def faded (a : Asrc) (x : Word) : Word :=
  let g := asrcGain a
  if g = 512 then x else f32Mul (f32OfRat g 512) x

/-- The sample a source code selects (R94). -/
def sourceSample (s : State) (code : Nat) : Word :=
  let lo := code % 64
  if code / 64 = 0 then 0
  else if code / 64 = 1 then (if mgmtClockOut s then 0 else s.ain.pos.getD lo 0)
  else if code / 64 = 2 then
    let port := lo / 16
    let slot := lo % 16
    let t := s.ain.tdm.getD port {}
    if tdmMaster s port then
      if !t.locked then 0
      else if bitN (s.rd (0x850 + 4 * port)).toNat 27 then
        if slot < tdmSlots s port then interp2Sample (s.ain.interpTdm.getD port {}) slot else 0
      else t.slots.getD slot 0
    else if slot < tdmSlots s port then
      let a := s.ain.asrc.getD port {}
      faded a (asrcSample a slot)
    else 0
  else if 8 ≤ lo then 0
  else
    let a := s.ain.asrc.getD (4 + lo / 2) {}
    faded a (asrcSample a (lo % 2))

/-- The 64 routed slots of a table for the sample being collected. -/
def routedSlots (s : State) (tab : Bool) : List Word :=
  (List.range 64).map fun j => sourceSample s (routeCode s tab j)

/-- x_c of R95: fused multiply-adds in ascending slot order. -/
def mixInput (s : State) (tab : Bool) (c : Nat) (ys : List Word) : Word :=
  (List.range 64).foldl (fun acc j => f32Fma (s.bank (mixKey tab (64 * c + j))) (ys.getD j 0) acc) 0

/-- The filters' own advance at an output sample (R91, R92). -/
def filtersTick (s : State) : State :=
  s.ainUp fun a =>
    { a with
      asrc := a.asrc.map asrcAdvance
      interpTdm := a.interpTdm.map fun k => { k with age := k.age + 1 }
      interpPos := a.interpPos.map fun k => { k with age := k.age + 1 } }

/-- A GD7 entry's words become the positions of the sample being collected (R69). A 48 kHz position goes through its 2x
interpolator (R92). -/
def deliverPositions (s : State) : List Word → State
  | p :: w :: rest =>
    let pos := p.toNat
    let owner := (List.range 16).find? fun i =>
      streamFeeds s i && decide (s.get (F.AIN_SCFG_BASE i) ≤ pos) && decide (pos < s.get (F.AIN_SCFG_BASE i) + streamChans s i)
    let direct := match owner with
      | some i => s.on (F.AIN_SCFG_RATE i)
      | none => true
    let s1 := if direct then s.ainUp fun a => { a with pos := a.pos.set pos w }
      else s.ainUp fun a => { a with interpPos := a.interpPos.modify pos fun k => interp2Take k [w] }
    deliverPositions s1 rest
  | _ => s

/-- The interpolators at this sample, and the value each 48 kHz position has for it. -/
def interpolatedPositions (s0 : State) : State :=
  let s := s0.ainUp fun a => { a with interpPos := a.interpPos.map interp2Due, interpTdm := a.interpTdm.map interp2Due }
  (List.range 16).foldl (fun t i =>
    if streamFeeds t i && !t.on (F.AIN_SCFG_RATE i) then
      (List.range (streamChans t i)).foldl (fun u j =>
        let p := t.get (F.AIN_SCFG_BASE i) + j
        u.ainUp fun a => { a with pos := a.pos.set p (interp2Sample (a.interpPos.getD p {}) 0) }) t
    else t) s

/-- The routing matrix collects one sample (R69, R94): the slots of both route tables, so that a commit that activates before the unit runs
governs it (R97, R102), then the positions are empty again, so that a word that does not arrive in time plays zero. -/
def collectSample (s : State) : State :=
  let s1 := interpolatedPositions s
  let y := (routedSlots s1 false, routedSlots s1 true)
  filtersTick (s1.ainUp fun a => { a with collect := a.collect ++ [y], pos := List.replicate 64 0 })

end Sys2Proof.Machine
end

