-- ==== Sys2Proof/Machine/SpkBank.lean ====
section
/-! DEFINITION. SpkBank.lean: the speaker parameter banks (R321 to R324, R642) and the fallback limiter (R344). -/

set_option Elab.async false

namespace Sys2Proof.Machine

/-- The state after an update of one Ventriloquist channel. -/
def State.ventUp (s : State) (c : Nat) (f : VentChan → VentChan) : State :=
  { s with vent := { s.vent with chans := s.vent.chans.modify c f } }
/-- One Ventriloquist channel. -/
def State.ventCh (s : State) (c : Nat) : VentChan := s.vent.chans.getD c {}

/-- The key of a speaker bank word. -/
def spkKey (c : Nat) (b : Bool) (off : Nat) : Nat := 0x4000000 + (2 * c + if b then 1 else 0) * 64 + off
/-- A stored word of a channel's LIVE parameter bank. -/
def spkLiveWord (s : State) (c off : Nat) : Word := s.bank (spkKey c (s.ventCh c).live off)
/-- A stored word of the NEXT bank. -/
def spkNextWord (s : State) (c off : Nat) : Word := s.bank (spkKey c (!(s.ventCh c).live) off)

/-- The ranges of words 2 to 44 (R322), as numerator and denominator of both ends. -/
def spkRange (off : Nat) : Option ((Int × Nat) × (Int × Nat)) :=
  [((1, 1), (500, 1)), ((5, 10), (64, 1)), ((-40, 1), (60, 1)), ((30, 10000), (45, 10000)),
   ((1, 1), (100, 1)), ((-100, 1), (100, 1)), ((-100, 1), (100, 1)), ((-100, 1), (100, 1)), ((-100, 1), (100, 1)),
   ((1, 10), (1000, 1)), ((-1000, 1), (1000, 1)), ((-1000, 1), (1000, 1)), ((-1000, 1), (1000, 1)), ((-1000, 1), (1000, 1)),
   ((1, 1000), (20, 1)), ((-20, 1), (20, 1)), ((-20, 1), (20, 1)), ((-20, 1), (20, 1)), ((-20, 1), (20, 1)),
   ((1, 1), (2000, 1)), ((1, 100), (100, 1)), ((1, 10), (50, 1)), ((1, 10), (50, 1)),
   ((5, 100), (20, 1)), ((1, 10), (1000, 1)), ((1, 100), (10, 1)), ((10, 1), (100000, 1)), ((0, 1), (10, 1)),
   ((50, 1), (350, 1)), ((40, 1), (200, 1)), ((1, 10), (10, 1)), ((1, 1), (600, 1)), ((5, 100), (50, 100)),
   ((1, 100), (10, 1)), ((0, 1), (1, 1)), ((0, 1), (1, 1)), ((0, 1), (100, 1)), ((4, 1), (20, 1)), ((0, 1), (4, 1)),
   ((1, 100), (1, 1)), ((1, 100), (1, 1)), ((1, 10), (60, 1)), ((10, 1), (5000, 1))][off - 2]?

/-- A finite word at the nearest end of the range of its offset; NaN and infinities as R323 says. -/
def spkClamp (off : Nat) (v : Word) : Word :=
  if off = 0 then v &&& 0x3F#32
  else if off = 1 then v
  else if 45 ≤ off then 0
  else
    match spkRange off with
    | none => 0
    | some (a, b) =>
      let lo := f32OfRat a.1 a.2
      let hi := f32OfRat b.1 b.2
      if f32Special v then
        (if a.1 ≤ 0 ∧ 0 ≤ b.1 then 0 else if 0 < a.1 then lo else hi)
      else if f32Lt v lo then lo else if f32Lt hi v then hi else v

/-- The value with which a LIVE bank word acts (R642). -/
def spkParam (s : State) (c off : Nat) : Word := spkClamp off (spkLiveWord s c off)

/-- The bits of CTRL in the LIVE bank. -/
def modEn (s : State) (c : Nat) : Bool := bitN (spkLiveWord s c 0).toNat 0
def idEn (s : State) (c : Nat) : Bool := bitN (spkLiveWord s c 0).toNat 1
def adaptOn (s : State) (c : Nat) : Bool := bitN (spkLiveWord s c 0).toNat 2
def corrEn (s : State) (c : Nat) : Bool := bitN (spkLiveWord s c 0).toNat 3
def pilotMode (s : State) (c : Nat) : Nat := bitsN (spkLiveWord s c 0).toNat 5 4

/-- The pointer after a whole access: it wraps from 47 to 0 (R321). -/
def spkNextOff (o : Nat) : Nat := if 47 ≤ o then 0 else o + 1

/-- A write through an SPK_PDATA alias (R321, R323); a frozen bank keeps its word and OFFS still advances (R47, R324). -/
def spkPdataWrite (s : State) (c : Nat) (v : Word) : State :=
  let o := s.get (F.SPK_PPTR_OFFS c)
  let frozen := s.get F.SCN_STAT_STATE != 0 && bitN (s.get F.SCN_MASK_CH_MASK) c
  let s1 := if frozen then s.raise G.SCN_NXT_LOCKED
    else (s.putBank (spkKey c (!(s.ventCh c).live) o) (spkClamp o v)).raiseIf (decide (2 ≤ o) && decide (o < 45) && f32Special v)
      (G.SPK_PARAM_BADVAL c)
  s1.set (F.SPK_PPTR_OFFS c) (spkNextOff o)
/-- A whole read through an SPK_PDATA alias. -/
def spkPdataRead (s : State) (c : Nat) : State :=
  let o := s.get (F.SPK_PPTR_OFFS c)
  (s.answer (spkNextWord s c o)).set (F.SPK_PPTR_OFFS c) (spkNextOff o)
/-- A whole read through an SPK_LDATA alias. -/
def spkLdataRead (s : State) (c : Nat) : State :=
  let o := s.get (F.SPK_LPTR_LOFFS c)
  (s.answer (spkLiveWord s c o)).set (F.SPK_LPTR_LOFFS c) (spkNextOff o)
/-- A write of SPK_PPTR or SPK_LPTR: values above 47 are stored as 0. -/
def writeSpkPtr (s : State) (p : Nat) (v : Word) : State :=
  s.wr p (BitVec.ofNat 32 (if 47 < v.toNat % 64 then 0 else v.toNat % 64))

/-- XMAX of a bank that becomes LIVE is at most XPOLY (R323). -/
def clampXmax (s : State) (c : Nat) (b : Bool) : State :=
  let xp := s.bank (spkKey c b 23)
  let xm := s.bank (spkKey c b 24)
  if f32Lt xp xm then s.putBank (spkKey c b 24) xp else s

/-- The codes of SPK_STAT.MODE. -/
def modeModel : Nat := 0
def modeFallback : Nat := 1
def modeLeaving : Nat := 2
def modeNoModel : Nat := 3

/-- One sample of the fallback limiter (R344): `line` holds the look-ahead taps and the sample gained, newest first. -/
def fallbackStep (s : State) (c : Nat) (line : List Word) (g ms : Word) : Word × Word :=
  let m := line.foldl (fun a x => f32MaxOf a (f32Abs x)) 0
  let p := line.headD 0
  let gpk := if f32Units m = 0 then f32One else f32MinOf f32One (f32Div (spkParam s c 41) m)
  let ms1 := f32Add ms (f32Div (f32Sub (f32Mul p p) ms) (f32Mul (spkParam s c 43) (f32OfRat 96000 1)))
  let root := f32Sqrt ms1
  let grms := if f32Units root = 0 then f32One else f32MinOf f32One (f32Div (spkParam s c 42) root)
  let gt := f32MinOf gpk grms
  let g1 := if f32Lt gt g then gt else f32Add g (f32Div (f32Sub gt g) (f32Mul (spkParam s c 44) (f32OfRat 96 1)))
  (g1, ms1)

end Sys2Proof.Machine
end

