-- ==== Sys2Proof/Machine/MusicBox.lean ====
section
/-! DEFINITION. MusicBox.lean: the channel chain, banks, scene commits, block overrun and the spare core (03), and the mute gain of
R565. -/

set_option Elab.async false

namespace Sys2Proof.Machine

/-- The state after an update of one Music Box channel. -/
def State.mbUp (s : State) (c : Nat) (f : MbChan → MbChan) : State :=
  { s with mb := { s.mb with chans := s.mb.chans.modify c f } }

/-- One Music Box channel. -/
def State.mbCh (s : State) (c : Nat) : MbChan := s.mb.chans.getD c {}

/-! ### Banks (R104 to R109) -/

/-- The key of a channel bank word. -/
def mbKey (c : Nat) (b : Bool) (off : Nat) : Nat := 0x1000000 + (2 * c + if b then 1 else 0) * 4096 + off

/-- The bank that is LIVE for a channel. -/
def liveBankOf (s : State) (c : Nat) : Bool := s.mb.liveBank.getD c false

/-- A word of a channel's LIVE bank. -/
def mbLive (s : State) (c off : Nat) : Word := s.bank (mbKey c (liveBankOf s c) off)
/-- A word of a channel's other bank: NEXT, or the old chain's while a crossfade runs. -/
def mbOther (s : State) (c off : Nat) : Word := s.bank (mbKey c (!liveBankOf s c) off)

/-- Channel c takes part in the commit. -/
def inMask (s : State) (c : Nat) : Bool := bitN (s.get F.SCN_MASK_CH_MASK) c

/-- A channel's NEXT bank is frozen from the arming to the end of the crossfade (R47, R109). -/
def bankFrozen (s : State) (c : Nat) : Bool := s.get F.SCN_STAT_STATE != 0 && inMask s c

/-- A finite binary32 word clamped to lo..hi; NaN and the infinities are +0.0 (R108). -/
def clampF (lo hi v : Word) : Word :=
  if f32Special v then 0 else if f32Lt v lo then lo else if f32Lt hi v then hi
  else if lo = 0 ∧ f32Units v = 0 then 0 else v

/-- The binary32 word of n tenths. -/
def tenths (n : Nat) : Word := f32OfRat n 10

/-- The bank word stored for a written word at an offset (R107, R108). -/
def storedBankWord (off : Nat) (v : Word) : Word :=
  if off = 0 ∨ off = 5 then clampF 0 (f32OfRat 1585 100) v
  else if off = 1 then
    let n := v.toNat / 256 % 256
    BitVec.ofNat 32 (v.toNat % 8 + 256 * min n 32)
  else if off = 2 then clampF (tenths 10) (tenths 200) v
  else if off = 3 then BitVec.ofNat 32 (min v.toNat 2048)
  else if off = 4 then BitVec.ofNat 32 (min v.toNat 96000)
  else if off = 6 ∨ off = 10 then clampF 0 f32One v
  else if off = 7 then clampF (tenths 1) (tenths 1000) v
  else if off = 8 then clampF (tenths 100) (tenths 20000) v
  else if off = 11 then clampF (tenths 100) (tenths 50000) v
  else if off = 12 then clampF (tenths 10) (tenths 10000) v
  else if off = 13 then clampF (tenths 100) (tenths 50000) v
  else if off = 9 ∨ off = 14 ∨ off = 15 then 0
  else if f32Special v then 0 else v

/-- The offsets that hold binary32 values, where NaN and the infinities count BANK_BADVAL. -/
def bankIsFloat (off : Nat) : Bool :=
  !(off = 1 || off = 3 || off = 4 || off = 9 || off = 14 || off = 15)

/-- OFFS after a whole access of an alias: it wraps from 2223 to 0 (R106). -/
def bankAdvance (s : State) (c : Nat) : State :=
  let o := s.get (F.CH_BPTR_OFFS c)
  s.set (F.CH_BPTR_OFFS c) (if o ≥ 2223 then 0 else o + 1)

/-- A write through a CH_BDATA alias (R106 to R109); OFFS advances also where the write is ignored (R47). -/
def bankWrite (s : State) (c : Nat) (v : Word) : State :=
  if bankFrozen s c then bankAdvance (s.raise G.SCN_NXT_LOCKED) c
  else
    let o := s.get (F.CH_BPTR_OFFS c)
    let s1 := s.putBank (mbKey c (!liveBankOf s c) o) (storedBankWord o v)
    bankAdvance (s1.raiseIf (bankIsFloat o && f32Special v) G.SCN_BANK_BADVAL) c

/-- A whole read through a CH_BDATA alias (R106). -/
def bankRead (s : State) (c : Nat) : State := bankAdvance (s.answer (mbOther s c (s.get (F.CH_BPTR_OFFS c)))) c

/-! ### The chain (R100, R643) -/

/-- One biquad section, transposed direct form II (R643). -/
def biquad (b0 b1 b2 a1 a2 : Word) (st : Word × Word) (x : Word) : Word × (Word × Word) :=
  let y := f32Fma b0 x st.1
  (y, (f32Fma (f32Neg a1) y (f32Fma b1 x st.2), f32Fma (f32Neg a2) y (f32Mul b2 x)))

/-- The first n sections of the EQ in ascending order; states of further sections stay. -/
def eqSections (w : Nat → Word) : Nat → Nat → List (Word × Word) → Word → Word × List (Word × Word)
  | _, _, [], x => (x, [])
  | 0, _, sts, x => (x, sts)
  | n + 1, i, st :: sts, x =>
    let r := biquad (w (16 + 5 * i)) (w (17 + 5 * i)) (w (18 + 5 * i)) (w (19 + 5 * i)) (w (20 + 5 * i)) st x
    let q := eqSections w n (i + 1) sts r.1
    (q.1, r.2 :: q.2)

/-- The FIR sum over the history, newest sample first (R643). -/
def firSum (w : Nat → Word) (taps : Nat) (hist : List Word) : Word :=
  ((hist.take taps).foldl (fun (acc : Word × Nat) x =>
    ((if acc.2 = 0 then f32Mul (w 176) x else f32Fma (w (176 + acc.2)) x acc.1), acc.2 + 1)) (0, 0)).1

/-- One sample through a chain with bank words w: Mix to RMS limiter (R100). -/
def chainSample (w : Nat → Word) (ch : Chain) (x0 : Word) : Word × Chain :=
  let ctrl := (w 1).toNat
  let x1 := f32Mul (w 0) x0
  let x2 := if bitN ctrl 0 then f32Neg x1 else x1
  let x3 := if bitN ctrl 1 then Config.dcOut (w 2) ch.dcb x2 else x2
  let dcb := if bitN ctrl 1 then Config.dcNext (w 2) ch.dcb x2 else ch.dcb
  let e := eqSections w (ctrl / 256 % 256) 0 ch.eq x3
  let taps := (w 3).toNat
  let hist := e.1 :: ch.fir
  let x4 := if taps = 0 then e.1 else firSum w taps hist
  let d := (w 4).toNat
  let line := x4 :: ch.line
  let x5 := line.getD d 0
  let x6 := if bitN ctrl 2 then f32Zero else f32Mul (w 5) x5
  let x7 := if w 6 = 0 then f32Zero else Config.peakOut (w 6) (w 7) (w 8) ch.peak x6
  let x8 := if w 10 = 0 then f32Zero else Config.rmsOut (w 10) (w 11) (w 12) (w 13) ch.rms x7
  (x8, { dcb := dcb, eq := e.2, fir := hist.take (taps - 1), line := line.take d,
         peak := Config.peakNext (w 6) (w 7) (w 8) ch.peak x6, rms := Config.rmsNext (w 10) (w 11) (w 12) (w 13) ch.rms x7 })

/-! ### Crossfade weights (R119) -/

/-- The crossfade length in samples M (R119). -/
def xfadeSamples (s : State) : Nat := 96 * (s.get F.SCN_CFG_XF_M1 + 1)

/-- w_new and w_old at crossfade sample n (R119). -/
def xfadeWeights (s : State) (n : Nat) : Word × Word :=
  let r := f32OfRat (n + 1) (xfadeSamples s)
  if s.on F.SCN_CFG_SHAPE then
    let x := f32Mul 0x3FC90FDB#32 r
    (f32Sin x, f32Cos x)
  else (r, f32Sub f32One r)

/-! ### The mute gain (R565) -/

/-- One ramp step of gm for a sample. -/
def gmStep (s : State) (c : Nat) (gm : Word) : Word :=
  let st := f32OfRat 1 (96 * (max (s.inForce F.SYS_MUTECFG_RAMP) 1))
  if s.on (F.CH_MUTE_C_LOOP c) then 0
  else if s.on (F.CH_MUTE_C_SOFT c) || s.on (F.CH_MUTE_C_PIN c) || s.on (F.CH_MUTE_C_START c) then
    let g := f32Sub gm st
    if f32Lt g 0 then 0 else g
  else
    let g := f32Add gm st
    if f32Lt f32One g then f32One else g

/-! ### A work unit (R101, R119, R125, R126) -/

/-- The state of one channel's unit in work. -/
structure UnitAcc where
  ch : MbChan
  tap : List Word
  out : List Word

/-- The chain output of a channel for input sample j of the unit, crossfaded where a crossfade runs (R119, R121). -/
def chainOutput (s : State) (c j : Nat) (ch : MbChan) : Word × MbChan :=
  let ys := s.mb.input.getD j ([], [])
  let st := s.get F.SCN_STAT_STATE
  let tab := s.mb.liveTab
  let joins := inMask s c && s.scn.started
  let slots (t : Bool) : List Word := if t then ys.2 else ys.1
  let xLive := mixInput s tab c (slots tab)
  let r := chainSample (mbLive s c) ch.live xLive
  if st = 1 ∧ joins then
    let x := if s.on F.SCN_CFG_ROUTE then mixInput s (!tab) c (slots (!tab)) else xLive
    let q := chainSample (mbOther s c) ch.other x
    (r.1, { ch with live := r.2, other := q.2 })
  else if st = 2 ∧ inMask s c then
    let x := if s.on F.SCN_CFG_ROUTE then mixInput s (!tab) c (slots (!tab)) else xLive
    let q := chainSample (mbOther s c) ch.other x
    -- the position is that of the sample index alone (R120); below the activation index, after a step back, it is the first block's (DESIGN
    -- CHOICE, log entry 83)
    let n := (s.time.block - s.scn.at_) * 8 + j
    let w := xfadeWeights s n
    (if n < xfadeSamples s then f32Fma w.2 q.1 (f32Mul w.1 r.1) else r.1, { ch with live := r.2, other := q.2 })
  else (r.1, { ch with live := r.2 })

/-- The envelope gain of a sample with the new fallback state (R344, R345): the model's, the fallback limiter's, or the smaller one. -/
def envelope (s : State) (c : Nat) (ch : MbChan) (line : List Word) : Word × Word × Word :=
  let g := ch.gains.headD ch.gain
  let mode := s.get (F.SPK_STAT_MODE c)
  if mode = modeModel then (g, ch.fbGain, ch.fbMs)
  else
    let r := fallbackStep s c (line.take (ch.la + 1)) ch.fbGain ch.fbMs
    (if mode = modeLeaving then f32MinOf r.1 g else r.1, r.1, r.2)

/-- A sample under the fade-in of R126 at its position n. -/
def fadeIn (n : Nat) (x : Word) : Word := if n < 64 then f32Mul x (f32OfRat (n + 1) 64) else x

/-- One sample y of a channel's stages from the tap to Hand-off (R100, R126, R643); `add` are the pilot and sweep signals. The tap and the
output carry the fade-in, the look-ahead line does not (R126, R128). -/
def laterStages (s : State) (c : Nat) (add : List Word) (a : UnitAcc) (y : Word) : UnitAcc :=
  let ch := a.ch
  let line := y :: ch.laLine
  let y1 := line.getD ch.la 0
  let e := envelope s c ch line
  let gm := gmStep s c ch.gm
  let y2 := f32Mul gm (f32Mul e.1 y1)
  let y3 := add.foldl f32Add y2
  { ch := { ch with fade := min (ch.fade + 1) 64, laLine := line.take ch.la, gains := ch.gains.tail,
                    gain := ch.gains.headD ch.gain, gm := gm, fbGain := e.2.1, fbMs := e.2.2 }
    tap := a.tap ++ [fadeIn ch.fade y]
    out := a.out ++ [fadeIn ch.fade y3] }

/-- One sample of a work unit: the chain output through the later stages. -/
def unitSample (s : State) (c : Nat) (add : Nat → List Word) (a : UnitAcc) (j : Nat) : UnitAcc :=
  let r := chainOutput s c j a.ch
  laterStages s c (add j) { a with ch := r.2 } r.1

/-- A channel's whole unit of 8 samples; a channel of a failed core stays at zero (R132). -/
def unitChannel (s : State) (c : Nat) (add : Nat → List Word) : MbChan :=
  let a := (List.range 8).foldl (unitSample s c add) ⟨s.mbCh c, [], []⟩
  if s.on (F.CH_MBST_MUTED_CORE c) then { a.ch with tapNext := List.replicate 8 0, outNext := List.replicate 8 0 }
  else { a.ch with tapNext := a.tap, outNext := a.out, fadeNext := decide ((s.mbCh c).fade < 64) }

/-- The physical core that serves a logical core (MB_CORE.MAP; logical core 0 is served by the one left). -/
def physOf (s : State) (q : Nat) : Option Nat :=
  let m := s.get F.MB_CORE_MAP
  if q = 0 then
    (List.range 5).find? fun p =>
      p != m % 16 && p != m / 16 % 16 && p != m / 256 % 16 && p != s.get F.MB_CORE_SPARE
        && !bitN (s.get F.MB_CORE_RETIRED) p
  else
    let p := m / 16 ^ (q - 1) % 16
    if p < 5 then some p else none

/-- The tap samples of a core's unit: the core, then 8 for each of its channels in order. -/
def unitTapWords (s : State) (q : Nat) : List Word :=
  BitVec.ofNat 32 q :: (List.range 4).flatMap fun j => (List.range 8).map fun n => ((s.mbCh (4 * q + j)).tapNext).getD n 0

/-- Logical core q completes its work unit (R101, R124): only while the processors run and once a block; the checkpoint of its start is
kept until the boundary. Its taps cross GD1 in the block of the unit, L samples before their samples reach the envelope (R318). -/
def mbUnit (s : State) (q : Nat) (add : Nat → Nat → List Word) : State :=
  if !s.sys.procs || (physOf s q).isNone || s.mb.done.getD q true || s.mb.ue.getD q false then s
  else
    let chans := s.mb.chans.mapIdx fun c ch => if c / 4 = q then unitChannel s c (add c) else ch
    let ck := s.mb.ck.mapIdx fun c k => if c / 4 = q then s.mbCh c else k
    let s1 : State := { s with mb := { s.mb with chans := chans, done := s.mb.done.set q true, ck := ck } }
    gatePush s1 .gd1 (unitTapWords s1 q)

/-- The hand-off of one sample of the running block: the outputs, narrowed to Q1.23, go to GD3 (R29, R100). -/
def handOff (s : State) : State :=
  let n := s.ain.sub
  let outs := s.mb.chans.map fun ch => BitVec.ofInt 32 (satS 24 (f32ToFixed (ch.out.getD n 0) 23))
  if s.sys.procs then gatePush s .gd3 outs else s

/-- The 24-bit value of a monitor source at sample n of the running block (R83): a routed slot and a channel's output as Q1.23, a
measured voltage or current in the upper 16 bits, silence for the other codes. -/
def monitorSource (s : State) (n code : Nat) : Int :=
  let both := s.ain.collect.getLastD ([], [])
  let routed := if s.mb.liveTab then both.2 else both.1
  let measured := fun i => (Config.decimMonitor (s.sense.inputs.getD i {}).tok).toInt * 256
  if code < 0x40 then satS 24 (f32ToFixed (routed.getD code 0) 23)
  else if code < 0x50 then satS 24 (f32ToFixed (((s.mb.chans.getD (code % 16) {}).out).getD n 0) 23)
  else if code < 0x60 then measured (2 * (code % 16))
  else if code < 0x70 then measured (2 * (code % 16) + 1)
  else 0

/-- The select code in force of a monitor slot (AIN_MSEL0 to AIN_MSEL3). -/
def monitorCode (s : State) (k : Nat) : Nat := (s.live (R.AIN_MSEL0 + 4 * (k / 4))).toNat / 256 ^ (k % 4) % 256

/-- The 16 monitor slots captured at sample n: the value in slot bits [31:8], bits [7:0] zero (R83). -/
def monitorCapture (s : State) (n : Nat) : List Word :=
  (List.range 16).map fun k => BitVec.ofInt 32 (monitorSource s n (monitorCode s k) * 256)

/-- The slots the monitor port sends of a frame: 16 with native framing, 8 with TRT0808 framing, none while disabled (R83). -/
def monitorSlots (s : State) (frame : List Word) : List Word :=
  if !s.inForceB F.AIN_TMON_EN then [] else if s.inForceB F.AIN_TMON_FRAMING then frame.take 8 else frame

/-- The monitor port and the AES3 transmitter in one sample period: the running sample is captured, and the one of a block before is
sent (R83, R84). -/
def monitorPeriod (s : State) : State :=
  let q := s.ain.monitor ++ [monitorCapture s s.ain.sub]
  let ready := decide (8 < q.length)
  let frame := if ready then q.headD [] else List.replicate 16 0
  let aes := s.inForceB F.AIN_AEST_EN
  let k := if s.ain.aesOut.isEmpty then 0 else (s.ain.aesFrame + 1) % 192
  s.ainUp fun a => { a with
    monitor := if ready then q.tail else q
    tdmo := monitorSlots s frame
    aesOut := if aes then [frame.getD (s.inForce F.AIN_AEST_SLOT_A) 0, frame.getD (s.inForce F.AIN_AEST_SLOT_B) 0] else []
    aesFrame := k
    aesStatusBit := aes && bitN (aesTxStatus.getD (k / 8) 0).toNat (k % 8) }

/-- The work of one 96 kHz sample period: the matrix collects the running sample, the Music Box hands one sample off, the monitor port
captures and sends, and the receive reader presents the samples of the next one (R69; log entry 15). -/
def samplePeriod (s : State) : State :=
  if 8 ≤ s.ain.sub then s
  else (receiveReader (monitorPeriod (handOff (collectSample s)))).ainUp fun a => { a with sub := a.sub + 1 }

/-! ### Scene commits (R112 to R123) -/

/-- The scene cost of a channel from its bank words (R111). -/
def sceneCost (w : Nat → Word) : Nat :=
  128 + 64 + 12 * ((w 1).toNat / 256 % 256) + 2 * (w 3).toNat + 32 + 16 + 128

/-- The scene cost of logical core q after the commit (R112). -/
def coreCost (s : State) (q : Nat) : Nat :=
  ((List.range 4).map fun j => sceneCost (if inMask s (4 * q + j) then mbOther s (4 * q + j) else mbLive s (4 * q + j))).sum

/-- The delay pool the commit takes (R113). -/
def poolUse (s : State) : Nat :=
  ((List.range 16).map fun c => (mbLive s c 4).toNat + if inMask s c then (mbOther s c 4).toNat else 0).sum

/-- The refusal code of an arming, 0 if none (R114). -/
def armReason (s : State) : Nat :=
  if s.get F.SCN_STAT_STATE != 0 then 1
  else if 655360 < poolUse s then 2
  else if s.get F.SCN_MASK_CH_MASK = 0 && !s.on F.SCN_CFG_ROUTE then 3
  else if (List.range 4).any fun q => decide (19456 < coreCost s q) then 4
  else 0

/-- The blocks a new chain needs to be warm (R115). -/
def warmNeed (s : State) : Nat :=
  ((List.range 16).map fun c =>
    if inMask s c then ((mbOther s c 3).toNat + (mbOther s c 4).toNat + 7) / 8 + 12 else 0).foldl max 0

/-- SCN_ARM.GO (R114): GO stays set until STATE returns to IDLE. -/
def sceneGo (s : State) : State :=
  let r := armReason s
  if r != 0 then
    let s1 := (s.set F.SCN_STAT_REASON r).raise G.SCN_ARM_REFUSED
    s1.setB F.SCN_ARM_GO (s1.get F.SCN_STAT_STATE != 0)
  else
    let s1 := (((s.set F.SCN_STAT_REASON 0).set F.SCN_STAT_STATE 1).set F.SCN_STAT_WARM 0).set F.SCN_ARM_GO 1
    { s1 with scn := { s1.scn with started := false, blocks := List.replicate 4 0, need := warmNeed s } }

/-- The other chains stop; their states are lost. -/
def dropOther (s : State) : State :=
  { s with mb := { s.mb with chans := s.mb.chans.map fun ch => { ch with other := {} } } }

/-- SCN_ARM.ABORT (R123): in ARMED the new chain stops and STATE is IDLE; in any other state nothing happens. -/
def sceneAbort (s : State) : State :=
  let s1 := s.set F.SCN_ARM_ABORT 0
  if s.get F.SCN_STAT_STATE = 1 then
    let s2 := ((s1.set F.SCN_STAT_STATE 0).set F.SCN_STAT_WARM 0).set F.SCN_ARM_GO 0
    dropOther { s2 with scn := { s2.scn with started := false } }
  else s1

/-- A write of SCN_ARM: ABORT, then GO (R123). -/
def writeScnArm (s : State) (v : Word) : State :=
  let s1 := if bitN v.toNat 1 then sceneAbort s else s
  if bitN v.toNat 0 then sceneGo s1 else s1

/-- The block index AT of the commit. -/
def sceneAt (s : State) : Nat := s.get F.SCN_AT_H_AT * 2 ^ 32 + s.get F.SCN_AT_L_AT

/-- The end of a crossfade at boundary B + 12 × (XF_M1 + 1) (R120): the retired banks become NEXT (R105). -/
def sceneEndAtBlock (s : State) : State :=
  if s.get F.SCN_STAT_STATE = 2 ∧ s.scn.at_ + 12 * (s.get F.SCN_CFG_XF_M1 + 1) ≤ s.time.block then
    dropOther (((s.set F.SCN_STAT_STATE 0).set F.SCN_STAT_WARM 0).set F.SCN_ARM_GO 0)
  else s

/-- Logical core q has processed the block that ends: its unit is complete; a core without a physical core processes nothing that its
channels wait for. -/
def processed (s : State) (q : Nat) : Bool := (physOf s q).isNone || (s.mb.done.getD q true && !s.mb.ue.getD q false)

/-- The new chains of every core with a channel in SCN_MASK have processed the blocks that the commit needs (R115). -/
def chainsWarm (s : State) : Bool :=
  (List.range 16).all fun c => !inMask s c || decide (s.scn.need ≤ s.scn.blocks.getD (c / 4) 0)

/-- The start and the warming of the new chain at a block boundary (R115): a unit that was abandoned does not count; a chain that a commit
activated cold goes on warming. -/
def sceneWarmAtBlock (s : State) : State :=
  if s.get F.SCN_STAT_STATE = 0 then s
  else
    let s1 := if s.scn.started || s.get F.SCN_STAT_STATE != 1 then
        { s with scn := { s.scn with blocks := s.scn.blocks.mapIdx fun q n => if processed s q then n + 1 else n } }
      else dropOther { s with scn := { s.scn with started := true, blocks := List.replicate 4 0 } }
    s1.setB F.SCN_STAT_WARM (chainsWarm s1)

/-- The commit activates at this block boundary (R116, R117, R45). -/
def sceneDue (s : State) : Bool :=
  s.get F.SCN_STAT_STATE = 1 &&
    if s.on F.SCN_CFG_MODE then decide (sceneAt s ≤ s.time.block) else s.on F.SCN_STAT_WARM

/-- The activation in MEDIA (R116, R117, R121): the NEXT banks and, with ROUTE, the NEXT tables become LIVE. -/
def sceneActivate (s : State) : State :=
  let cold := !s.on F.SCN_STAT_WARM
  let mask := s.get F.SCN_MASK_CH_MASK
  let s1 := (s.set F.SCN_STAT_STATE 2).set F.SCN_STAT_LIVE_ID (s.get F.SCN_CFG_ID_NEXT)
  let mb := { s1.mb with
    liveBank := s1.mb.liveBank.mapIdx fun c b => if bitN mask c then !b else b
    chans := s1.mb.chans.mapIdx fun c ch => if bitN mask c then { ch with live := ch.other, other := ch.live } else ch
    liveTab := if s.on F.SCN_CFG_ROUTE then !s1.mb.liveTab else s1.mb.liveTab }
  (({ s1 with mb := mb, scn := { s1.scn with at_ := s.time.block } } : State)).raiseIf cold G.SCN_COLD_XF

/-- A read of SCN_NOW_L latches the whole block index (R135). -/
def blockIndexRead (s : State) : State :=
  { s with scn := { s.scn with nowHigh := BitVec.ofNat 32 (s.time.block / 2 ^ 32 % 2 ^ 16) },
           rdata := BitVec.ofNat 32 (s.time.block % 2 ^ 32) }

/-- A write of a commit register is ignored while STATE is not IDLE (R134). -/
def writeScnCfg (s : State) (p : Nat) (v : Word) : State :=
  if s.get F.SCN_STAT_STATE != 0 then s.raise G.SCN_NXT_LOCKED else storeCoded s p v

/-! ### Look-ahead (R103) -/

/-- A write of CH_LA: taken when the channel was muted at the last block boundary, else refused. -/
def laWrite (s : State) (c : Nat) (v : Word) : State :=
  if (s.mbCh c).muted then s.set (F.CH_LA_LA c) (min (v.toNat % 512) 384) else s.raise (G.CH_LA_REFUSED c)

/-- L takes effect at the first block boundary at which the channel is muted. -/
def laAtBlock (s : State) : State :=
  { s with mb := { s.mb with chans := s.mb.chans.mapIdx fun c ch =>
      if ch.muted then { ch with la := s.get (F.CH_LA_LA c) } else ch } }

/-! ### Block overrun and the spare core (R124 to R132) -/

/-- The eight samples that fade out from x (R125). -/
def fadeOut (x : Word) : List Word := (List.range 8).map fun n => f32Mul x (f32OfRat ((7 - n : Nat) : Int) 8)

/-- The fade of R125 for one channel: its samples are the last one handed off, times (7 - n)/8. -/
def overrunFade (ch : MbChan) : MbChan :=
  { ch with tap := fadeOut ch.lastTap, out := fadeOut ch.lastOut, fade := 0, fading := true }

/-- An output sample as Hand-off narrowed it, in binary32, which holds every Q1.23 value (R100, R125). -/
def handedOff (x : Word) : Word := f32OfDyadic (satS 24 (f32ToFixed x 23)) (-23)

/-- A channel whose unit is abandoned is back at the checkpoint of the unit's start, also where the unit was complete before an
uncorrectable error (R124, R129); what arrived from outside stays. -/
def backToStart (s : State) (c : Nat) (ch : MbChan) : MbChan :=
  if s.mb.done.getD (c / 4) true then { s.mb.ck.getD c ch with gainsIn := ch.gainsIn } else ch

/-- The hand-off of an abandoned unit (R124, R125, R128): the look-ahead line, the envelope and gm go on, with the faded tap samples as
input (DEDUCED, log entry 75). -/
def lostUnit (s : State) (c : Nat) (ch : MbChan) : MbChan :=
  overrunFade ((fadeOut ch.lastTap).foldl (laterStages s c []) ⟨ch, [], []⟩).ch

/-- The hand-off block changes at a block boundary: a complete unit's output, or the fade of an overrun (R101, R125). -/
def handOffAtBlock (s : State) : State :=
  let f (c : Nat) (ch : MbChan) : MbChan :=
    let sent (ch : MbChan) : MbChan :=
      { ch with lastTap := ch.tap.getLastD ch.lastTap, lastOut := ((ch.out.getLast?).map handedOff).getD ch.lastOut }
    let ch1 := sent ch
    if (physOf s (c / 4)).isNone || s.on (F.CH_MBST_MUTED_CORE c) then
      { ch1 with tap := ch1.tapNext, out := ch1.outNext, fade := 64, fading := false }
    else if s.mb.done.getD (c / 4) true && !s.mb.ue.getD (c / 4) false then
      { ch1 with tap := ch1.tapNext, out := ch1.outNext, fading := ch1.fadeNext }
    else lostUnit s c (sent (backToStart s c ch))
  { s with mb := { s.mb with chans := s.mb.chans.mapIdx f } }

/-- The overruns of a block boundary (R124, R128, R129): counted; the eighth within 64 blocks is a swap trigger. -/
def overrunsAtBlock (s : State) : State :=
  (List.range 4).foldl (fun t q =>
    if (physOf t q).isNone || t.on (F.CH_MBST_MUTED_CORE (4 * q)) || t.mb.done.getD q true && !t.mb.ue.getD q false then t
    else
      let recent := ((t.mb.overruns.getD q []).filter fun b => t.time.block < b + 64) ++ [t.time.block]
      let t1 := t.raise G.SCN_MB_OVERRUN
      { t1 with mb := { t1.mb with
          overruns := t1.mb.overruns.set q recent
          swapDue := if 8 ≤ recent.length then t1.mb.swapDue.set q true else t1.mb.swapDue } }) s

/-- The Ventriloquist core of channel c ends the block without its unit's gains (R340). -/
def modelLost (s : State) (c : Nat) : Bool := s.sys.procs && !(s.vent.cores.getD (c / 8) {}).done

/-- Gain values that arrived in a block serve the unit that starts at its end (R317). The last one received holds where none arrived, and
in the whole unit that starts a block after a lost one was due (R341). -/
def gainsAtBlock (s : State) : State :=
  { s with mb := { s.mb with chans := s.mb.chans.mapIdx fun c ch =>
      let lost := modelLost s c
      if ch.gainHeld then { ch with gain := (ch.gains ++ ch.gainsIn).getLastD ch.gain, gains := [], gainsIn := [], gainHeld := lost }
      else { ch with gain := ch.gains.getLastD ch.gain, gains := ch.gainsIn, gainsIn := [], gainHeld := lost } } }

/-- CH_MBST.FADE while R125 or R126 applies to the block handed off (R128). -/
def showFades (s : State) : State :=
  (List.range 16).foldl (fun t c => t.setB (F.CH_MBST_FADE c) (t.mbCh c).fading) s

/-- The logical core a physical core serves. -/
def logicalOf (s : State) (p : Nat) : Option Nat := (List.range 4).find? fun q => physOf s q == some p

/-- A swap of logical core q (R130): the spare serves it, the replaced core is retired. -/
def coreSwap (s : State) (q : Nat) : State :=
  let sp := s.get F.MB_CORE_SPARE
  let old := physOf s q
  let s1 := if q = 0 then s else
    s.set F.MB_CORE_MAP (let m := s.get F.MB_CORE_MAP; m - m / 16 ^ (q - 1) % 16 * 16 ^ (q - 1) + sp * 16 ^ (q - 1))
  let s2 := match old with
    | some p => queueRetire (s1.set F.MB_CORE_RETIRED (s1.get F.MB_CORE_RETIRED ||| 2 ^ p)) retireCore p
    | none => s1
  let s3 := (s2.set F.MB_CORE_SPARE 0xF).raise G.SCN_CORE_SWAP
  { s3 with mb := { s3.mb with overruns := s3.mb.overruns.set q [] } }

/-- A swap trigger with no spare (R132): the four channels fade to zero and stay there. -/
def coreFail (s : State) (q : Nat) : State :=
  let s1 := (List.range 4).foldl (fun t j => t.set (F.CH_MBST_MUTED_CORE (4 * q + j)) 1) s
  ({ s1 with mb := { s1.mb with chans := s1.mb.chans.mapIdx fun c ch =>
      if c / 4 = q then { overrunFade ch with tapNext := List.replicate 8 0, outNext := List.replicate 8 0 } else ch } } :
    State).raise G.SCN_CORE_FAIL

/-- MB_CORE.SWAP (R129): the swap is due at the next block boundary; SWAP clears at the swap. -/
def swapRequest (s : State) (q : Nat) : State :=
  let s1 := (s.set F.MB_CORE_SWAP_Q q).set F.MB_CORE_SWAP 1
  { s1 with mb := { s1.mb with swapDue := s1.mb.swapDue.set q true } }

/-- The spare core is retired (R131). -/
def retireSpareCore (s : State) : State :=
  let p := s.get F.MB_CORE_SPARE
  if p < 5 then
    queueRetire ((s.set F.MB_CORE_SPARE 0xF).set F.MB_CORE_RETIRED (s.get F.MB_CORE_RETIRED ||| 2 ^ p)) retireCore p
  else s

/-- An uncorrectable error of a physical core (R129): its logical core's unit ends as an overrun and a swap is due; an error of the
spare retires it (DEDUCED, log entry 16). -/
def mbCoreUe (s : State) (p : Nat) : State :=
  match logicalOf s p with
  | some q => { s with mb := { s.mb with ue := s.mb.ue.set q true, swapDue := s.mb.swapDue.set q true } }
  | none => if s.get F.MB_CORE_SPARE = p then retireSpareCore s else s

end Sys2Proof.Machine
end

