-- ==== Sys2Proof/Machine/Pwm.lean ====
section
/-! DEFINITION. Pwm.lean: switching frequency, modulation, noise shaper, compare words, gate signals, delay lines, shadow and
reload, and starting and stopping of channels (04). -/

set_option Elab.async false

namespace Sys2Proof.Machine

/-- The state after an update of one leg generator. -/
def State.legUp (s : State) (l : Nat) (f : LegGen → LegGen) : State := { s with legs := s.legs.modify l f }
/-- One leg generator. -/
def State.leg (s : State) (l : Nat) : LegGen := s.legs.getD l {}
/-- The state after an update of one PWM channel. -/
def State.pwmUp (s : State) (c : Nat) (f : PwmChan → PwmChan) : State := { s with pwm := s.pwm.modify c f }
/-- One PWM channel. -/
def State.pwmCh (s : State) (c : Nat) : PwmChan := s.pwm.getD c {}

/-- MOD_STAT.STATE. -/
def modOff : Nat := 0
def modPrecharge : Nat := 1
def modSwitching : Nat := 2
def modSafe : Nat := 3

/-- k of a K_SEL code (R136); codes above 4 are refused and never in force. -/
def kOfCode (code : Nat) : Nat := [4, 5, 8, 10, 16].getD code 10
/-- k in force. -/
def kLive (s : State) : Nat := kOfCode (s.get F.PWM_FSW_K_LIVE)
/-- The update length in taps at multiplier k (R140). -/
def u32At (k : Nat) : Nat := 40960 / k
/-- The update length in taps in force. -/
def u32 (s : State) : Nat := u32At (kLive s)
/-- Updates per block: 16 k (R7). -/
def updatesPerBlock (s : State) : Nat := 16 * kLive s
/-- The update index counted from the PTP epoch (R184). -/
def updateIndex (s : State) : Nat := s.time.block * updatesPerBlock s + s.time.updInBlock

/-- PAR of the pair that channel c belongs to (R142). -/
def paired (s : State) (c : Nat) : Bool := s.on (F.CH_MOD_PAR (c / 2 * 2))
/-- The channel whose registers govern channel c: the even one of a paralleled pair (R142, R192). -/
def governor (s : State) (c : Nat) : Nat := if paired s c then c / 2 * 2 else c
/-- Channel c is the odd half of a paralleled channel. -/
def oddHalf (s : State) (c : Nat) : Bool := paired s c && c % 2 = 1
/-- The legs a channel drives: four of a paralleled channel, none of its odd half. -/
def legsOf (s : State) (c : Nat) : List Nat :=
  if oddHalf s c then [] else if paired s c then [2 * c, 2 * c + 1, 2 * c + 2, 2 * c + 3] else [2 * c, 2 * c + 1]

/-- AD modulation governs a leg. -/
def legAd (s : State) (l : Nat) : Bool := s.on (F.CH_MOD_MODE (governor s (l / 2)))
/-- A leg whose edges are those of the leg before it in the opposite direction (R141). -/
def legFollows (s : State) (l : Nat) : Bool := legAd s l && l % 2 = 1

/-- A channel is stopped (R640). -/
def chanStopped (s : State) (c : Nat) : Bool :=
  (s.get (F.CH_MOD_SRC c) = 0 || s.get (F.CH_MOD_SRC c) = 3) && s.get (F.MOD_STAT_STATE (2 * c)) = modOff

/-- Sets the state of every leg of a channel. -/
def setLegStates (s : State) (c st : Nat) : State :=
  (legsOf s c).foldl (fun t l => t.set (F.MOD_STAT_STATE l) st) s

/-! ### Limits (R149, R150) -/

/-- Hmin from MIN_ON and DT_R, in taps. -/
def hminOf (minOn dtr : Nat) : Nat := max (32 * minOn) (dtr + 32)
/-- Lmin from MIN_OFF and DT_F, in taps. -/
def lminOf (minOff dtf : Nat) : Nat := max (32 * minOff) (dtf + 32)

/-- Hmin in force of a leg. -/
def hmin (s : State) (l : Nat) : Nat := hminOf (s.inForce (F.MOD_LIM_MIN_ON l)) (s.inForce (F.MOD_DT_DT_R l))
/-- Lmin in force of a leg. -/
def lmin (s : State) (l : Nat) : Nat := lminOf (s.inForce (F.MOD_LIM_MIN_OFF l)) (s.inForce (F.MOD_DT_DT_F l))

/-- MOD_LIM and MOD_DT words keep Hmin + Lmin within half an update at multiplier k (R150). -/
def limitsOk (k : Nat) (lim dt : Word) : Bool :=
  let f (v : Word) (x : Fld) : Nat := bitsN v.toNat x.hi x.lo
  decide (2 * (hminOf (f lim (F.MOD_LIM_MIN_ON 0)) (f dt (F.MOD_DT_DT_R 0))
    + lminOf (f lim (F.MOD_LIM_MIN_OFF 0)) (f dt (F.MOD_DT_DT_F 0))) ≤ u32At k)

/-- A write of PWM_FSW.K_SEL (R137). -/
def kSelect (s : State) (v : Word) : State :=
  let code := v.toNat % 8
  if code ≥ 5 || (List.range 16).any (fun c => !chanStopped s c)
      || (List.range 32).any (fun l => !limitsOk (kOfCode code) (s.rd (R.MOD_LIM l)) (s.rd (R.MOD_DT l))) then
    s.raise G.PWM_FSW_REFUSED
  else s.set F.PWM_FSW_K_SEL code

/-- An accepted K_SEL takes effect at the next block boundary (R137). -/
def kAtBlock (s : State) : State := s.set F.PWM_FSW_K_LIVE (s.get F.PWM_FSW_K_SEL)

/-- A dead time below 8 is stored as 8 (R155). -/
def storedDt (v : Word) : Word :=
  let r := max (v.toNat % 1024) 8
  let f := max (v.toNat / 2 ^ 16 % 1024) 8
  BitVec.ofNat 32 (f * 2 ^ 16 + r)

/-- A write of MOD_DT (R150, R155). -/
def writeDt (s : State) (l : Nat) (v : Word) : State :=
  if limitsOk (kLive s) (s.rd (R.MOD_LIM l)) (storedDt v) then storeCoded s (R.MOD_DT l) (storedDt v)
  else s.raise G.PWM_MOD_REFUSED

/-- A write of MOD_LIM (R150). -/
def writeLim (s : State) (l : Nat) (v : Word) : State :=
  if limitsOk (kLive s) v (s.rd (R.MOD_DT l)) then storeCoded s (R.MOD_LIM l) v else s.raise G.PWM_MOD_REFUSED

/-- The word a write of CH_MOD stores: PRECHG 0 is stored as 1 (R168), PAR exists in even channels only. -/
def chModWord (c : Nat) (v : Word) : Word :=
  let v1 := if v.toNat / 2 ^ 24 = 0 then v ||| 0x01000000#32 else v
  if c % 2 = 1 then v1 &&& ~~~(0x10#32) else v1

/-- A write of CH_MOD is refused (R143). -/
def chModRefused (s : State) (c : Nat) (v : Word) : Bool :=
  let w := (chModWord c v).toNat
  oddHalf s c || (bitN w 0 != s.on (F.CH_MOD_MODE c) && !chanStopped s c)
    || (bitN w 4 != s.on (F.CH_MOD_PAR c) && !(chanStopped s c && chanStopped s (c + 1)))

/-- A write of CH_MOD (R143, R168, R169, R641): refused changes are counted; SRC and BAL take effect at the next update boundary. -/
def writeChMod (s : State) (c : Nat) (v : Word) : State :=
  if chModRefused s c v then s.raise G.PWM_MOD_REFUSED else storeCoded s (R.CH_MOD c) (chModWord c v)

/-! ### The noise shaper (R145) -/

/-- One run of a leg's noise shaper: the sign of the leg, the lane's m, the coefficients a1 to a5 (Q5.11) and the errors e1 to e5 give
the word and the new errors. -/
def shape (u : Nat) (sgn m : Int) (a : List Int) (e : List Int) : Nat × List Int :=
  let t : Int := (u : Int) * (32768 + sgn * m)
  let fb := rneDiv ((List.zipWith (· * ·) a e).sum) 2048
  let v := clampI 0 ((u : Int) * 65536) (t - fb)
  let q := rneDiv v 65536
  (if q = u then 0xFFFF else q.toNat, (q * 65536 - v) :: e.take 4)

/-- The coefficients in force (R147). -/
def shaperCoefs (s : State) : List Int :=
  [s.inForceS F.PWM_NSC0_A1, s.inForceS F.PWM_NSC0_A2, s.inForceS F.PWM_NSC1_A3, s.inForceS F.PWM_NSC1_A4, s.inForceS F.PWM_NSC2_A5]

/-- The state of a channel's shapers resets to zero (R169, R186, R641). -/
def resetShapers (s : State) (c : Nat) : State :=
  (s.legUp (2 * c) fun g => { g with errs := List.replicate 5 0 }).legUp (2 * c + 1) fun g =>
    { g with errs := List.replicate 5 0 }

/-- A lane result m runs the channel's shapers, each leg's word going through GD5 (R140, R141, R145, R146). -/
def shapeChannel (s : State) (c : Nat) (m : Int) : State :=
  let a := shaperCoefs s
  let r0 := shape (u32 s) 1 m a (s.leg (2 * c)).errs
  let s1 := gatePush (s.legUp (2 * c) fun g => { g with errs := r0.2 }) .gd5 [BitVec.ofNat 32 (2 * c), BitVec.ofNat 32 r0.1]
  if legAd s (2 * c) then s1
  else
    let r1 := shape (u32 s) (-1) m a (s.leg (2 * c + 1)).errs
    gatePush (s1.legUp (2 * c + 1) fun g => { g with errs := r1.2 }) .gd5
      [BitVec.ofNat 32 (2 * c + 1), BitVec.ofNat 32 r1.1]

/-! ### The interpolator (R144) -/

/-- Twice the group delay at multiplier k, in updates (R144). -/
def interpDelay2 (k : Nat) : Nat := if k = 4 then 11 else if k = 5 then 13 else if k = 8 then 22 else if k = 10 then 27 else 44
/-- The order of the polyphase stage at fsw, whose group delay is that many updates, and of the half-band stage at the update rate: together
they make up the group delay of R144. -/
def interpOrder1 (k : Nat) : Nat := Config.interpOrder k % (interpDelay2 k / 2 + 1)
def interpOrder2 (k : Nat) : Nat := interpDelay2 k - 2 * interpOrder1 k

/-- The polyphase stage ×k, linear phase, at the fsw instant m counted from the newest sample. -/
def interpStage1 (k : Nat) (line : List Int) (m : Int) : Int :=
  ((List.range line.length).map fun (r : Nat) =>
    let i := m + (k * r : Nat)
    if 0 ≤ i ∧ i ≤ interpOrder1 k then Config.interpCoef1 k (min i.toNat (interpOrder1 k - i.toNat)) * line.getD r 0 else 0).sum

/-- The half-band stage ×2, linear phase, `age` updates after the newest sample. -/
def interpStage2 (k : Nat) (line : List Int) (age : Nat) : Int :=
  ((List.range (interpOrder2 k + 1)).map fun (j : Nat) =>
    let n : Int := (age : Int) - j
    if n % 2 = 0 then Config.interpCoef2 k (min j (interpOrder2 k - j)) * interpStage1 k line (n / 2) else 0).sum

/-- The reference of an update: the exact sum, rounded from Q1.23 to Q1.15 and saturated (R5, R6, R144). -/
def interpOut (k : Nat) (line : List Int) (age : Nat) : Int := satS 16 (rneShift (interpStage2 k line age) (Config.interpFrac k + 8))

/-- A Q1.23 sample reaches a channel's interpolator through GD3; that of channel 2m+1 of a paralleled channel does not run (R142, R144). -/
def interpTake (s : State) (ws : List Word) : State :=
  { s with loops := s.loops.mapIdx fun c l =>
      if oddHalf s c then l else { l with line := (signed 24 (ws.getD c 0).toNat :: l.line).take 3, age := 0 } }

/-! ### Shadow and reload (R160 to R164) -/

/-- A capture of a word into SHADOW: on the reload edge it counts RELOAD_HIT, over a waiting word SHD_OVW (R160 to R162). -/
def shadowWrite (s : State) (l : Nat) (w : Word16) (onEdge : Bool) : State :=
  let waiting := s.on (F.MOD_STAT_PENDING l)
  let s1 := (s.set (F.MOD_CMPS_SHADOW l) w.toNat).set (F.MOD_STAT_PENDING l) 1
  if onEdge then s1.raise (G.MOD_RELOAD_HIT l) else s1.raiseIf waiting (G.MOD_SHD_OVW l)

/-- A word of a leg, from its lane or the host: in a paralleled channel legs 4m+2 and 4m+3 take the words of legs 4m and 4m+1 (R142,
R164; DEDUCED, log entry 25). -/
def captureWord (s : State) (l : Nat) (w : Word16) (onEdge : Bool) : State :=
  let s1 := shadowWrite s l w onEdge
  if paired s (l / 2) && l % 4 < 2 then shadowWrite s1 (l + 2) w onEdge else s1

/-- A leg takes its own host words (R164). -/
def ownsWord (s : State) (l : Nat) : Bool := !(paired s (l / 2) && l % 4 ≥ 2) && !legFollows s l

/-- A write of MOD_CMPW (R164): accepted in host mode of the driving channel for a leg that takes its own word. -/
def hostCompare (s : State) (l : Nat) (w : Word16) (onEdge : Bool) : State :=
  if s.inForce (F.CH_MOD_SRC (governor s (l / 2))) = 2 && ownsWord s l then captureWord s l w onEdge
  else s.raise G.PWM_MOD_REFUSED

/-- The reload edge of a leg (R160). -/
def reload (s : State) (l : Nat) : State :=
  if s.on (F.MOD_STAT_PENDING l) then
    (s.set (F.MOD_CMPS_ACTIVE l) (s.get (F.MOD_CMPS_SHADOW l))).set (F.MOD_STAT_PENDING l) 0
  else s

/-! ### The applied high time (R142, R148 to R152, R159) -/

/-- The table of R149: the high time for q taps with limits H and L, and whether the limits changed it. A word other than 0xFFFF with q above
U32 is applied as U32 and not counted as changed (DESIGN CHOICE, log entry 84). -/
def limitHigh (u h l q : Nat) : Nat × Bool :=
  if u ≤ q then (u, false)
  else if q = 0 then (0, false)
  else if 2 * q < h then (0, true)
  else if q < h then (h, true)
  else if q + l ≤ u then (q, false)
  else if 2 * q + l ≤ 2 * u then (u - l, true)
  else (u, true)

/-- The taps a leg's word asks for, with the balance of a paralleled channel (R142). -/
def wordTaps (s : State) (l : Nat) : Nat :=
  let u := u32 s
  let c := l / 2
  if paired s c && l % 4 ≥ 2 then
    let w := s.get (F.MOD_CMPS_ACTIVE (l - 2))
    let bal := s.inForceS (F.CH_MOD_BAL (c / 2 * 2))
    let q : Int := if w = 0xFFFF then u else w
    (clampI 0 u (if l % 2 = 0 then q + bal else q - bal)).toNat
  else
    let w := s.get (F.MOD_CMPS_ACTIVE l)
    if w = 0xFFFF then u else w

/-- A degraded line of either gate output places its edges to tick resolution (R159). -/
def legDegraded (s : State) (l : Nat) : Bool := s.on (F.MOD_DLH_DEGRADED l) || s.on (F.MOD_DLL_DEGRADED l)

/-- h rounded to whole ticks where a line of the leg, or in AD of the leg that follows its edges, is degraded (R141, R159). -/
def placed (s : State) (l h : Nat) : Nat :=
  if legDegraded s l || (legAd s l && legDegraded s (l + 1)) then (rneDiv h 32).toNat * 32 else h

/-- An edge of a leg's HI or LO output at an instant in taps: its tick, and the physical tap that the line's TAPSEL gives its 5-bit tap (R156);
a degraded line places it to tick resolution (R159). -/
def placeEdge (s : State) (l : Nat) (high : Bool) (at_ : Nat) : State :=
  if high then
    let e := if s.on (F.MOD_DLH_DEGRADED l) then ((rneDiv at_ 32).toNat, 0) else (at_ / 32, (s.leg l).tapHi.getD (at_ % 32) 0)
    s.legUp l fun g => { g with hiAt := e }
  else
    let e := if s.on (F.MOD_DLL_DEGRADED l) then ((rneDiv at_ 32).toNat, 0) else (at_ / 32, (s.leg l).tapLo.getD (at_ % 32) 0)
    s.legUp l fun g => { g with loAt := e }

/-- The dead time before a leg's HI or LO turns on, in taps (R154, R155). -/
def deadTime (s : State) (l : Nat) (high : Bool) : Nat := if high then s.inForce (F.MOD_DT_DT_R l) else s.inForce (F.MOD_DT_DT_F l)

/-- The high time of a leg that is shaped or takes its own word, for the update that starts (R149, R151, R152, R159). In AD the
limits of both legs bind, and the odd leg's refresh raises h. -/
def applyHigh (s : State) (l : Nat) : State :=
  let u := u32 s
  let ad := legAd s l
  let hm := if ad then max (hmin s l) (lmin s (l + 1)) else hmin s l
  let lm := if ad then max (lmin s l) (hmin s (l + 1)) else lmin s l
  let r := limitHigh u hm lm (wordTaps s l)
  let s1 := s.cond (G.MOD_MINPULSE l) r.2
  let bootMax := s.inForce (F.MOD_LIM_BOOT_MAX l)
  let force := bootMax != 0 && decide (bootMax ≤ (s.leg l).boot)
  let h1 := if force then min r.1 (u - lm) else r.1
  let bootMax2 := s.inForce (F.MOD_LIM_BOOT_MAX (l + 1))
  let force2 := ad && bootMax2 != 0 && decide (bootMax2 ≤ (s.leg (l + 1)).boot)
  let h2 := if force2 then max h1 hm else h1
  let h := placed s l h2
  let s2 := (s1.raiseIf force (G.MOD_BOOT_RF l)).raiseIf force2 (G.MOD_BOOT_RF (l + 1))
  let s3 := s2.legUp l fun g => { g with h := h, boot := if force || h < u then 0 else g.boot + 1 }
  if ad then
    s3.legUp (l + 1) fun g => { g with h := u - h, boot := if force2 || 0 < h then 0 else g.boot + 1 }
  else s3

/-- The side a leg is on at the start of an update with high time h (R148). -/
def startLevel (u h : Nat) (up1 : Bool) : Bool := if up1 then decide (0 < h) else decide (h = u)

/-- The compare edges of an update with high time h for a leg that comes from `level` (R148, R154). -/
def planEdges (u h : Nat) (up1 level : Bool) : List Bool :=
  let first := if startLevel u h up1 = level then [] else [startLevel u h up1]
  if h = 0 ∨ h = u then first else first ++ [!up1]

/-! ### Gate signals (R154, R176 to R178) -/

/-- All outputs of a leg low, and a delayed turn-on cancelled. -/
def legOff (s : State) (l : Nat) : State := s.legUp l fun g => { g with hi := false, lo := false, pend := none }

/-- A gate output turns on and its blanking window starts (R154, R176, R177). -/
def turnOn (s : State) (l : Nat) (high : Bool) : State :=
  let s1 := s.legUp l fun g => { g with hi := high, lo := !high, pend := none }
  let w := if high then s.get (F.TRP_CFG_BLANK_HI l) else s.get (F.TRP_CFG_BLANK_LO l)
  if w = 0 then s1 else s1.set (F.TRP_STAT_BLANKING l) 1

/-- The legs of a channel are free to switch: no latch, no trip of this update and no device-level safe state holds them. -/
def legFree (s : State) (l : Nat) : Bool :=
  let g := governor s (l / 2)
  s.get (F.MOD_STAT_STATE l) = modSwitching && !s.on (F.CH_TRST_CBC_NOW g) && !s.on (F.CH_TRST_LATCHED g)

/-- A compare edge moves a leg to a side: the conducting switch turns off at the instant and the other one is delayed (R154). A leg that is
on that side already keeps its outputs: the odd leg of AD after PRECHARGE, whose LO turns off only where its even leg's HI does (R141). A leg
that is held all-off changes no output (R180). -/
def edgeTo (s : State) (l : Nat) (rising : Bool) (at_ : Nat) : State :=
  let g := s.leg l
  let s1 := s.legUp l fun g => { g with level := rising }
  if legFree s l && g.level != rising then
    let s2 := if g.hi || g.lo then placeEdge s1 l g.hi at_ else s1
    s2.legUp l fun g => { g with hi := false, lo := false, pend := some rising, due := at_ + deadTime s l rising }
  else s1

/-- The instant of a compare edge in taps from the start of the update (R148): the edge against the period centre lies h taps from it, any
other at the start. -/
def edgeInstant (s : State) (l : Nat) (rising : Bool) : Nat :=
  if rising = s.time.half then 0 else if s.time.half then (s.leg l).h else u32 s - (s.leg l).h

/-- The next compare instant of a leg (R154); in AD the odd leg goes the opposite way at the same instant (R141). -/
def compareEdge (s : State) (l : Nat) : State :=
  if legFollows s l then s
  else
    match (s.leg l).edges with
    | [] => s
    | r :: rest =>
      let s1 := edgeTo (s.legUp l fun g => { g with edges := rest }) l r (edgeInstant s l r)
      if legAd s l then edgeTo s1 (l + 1) (!r) (edgeInstant s l r) else s1

/-- A dead time ends and the delayed switch turns on (R154), in PRECHARGE the low side (R168); a channel that is all-off after a CBC trip stays
so (R181). -/
def deadTimeEnd (s : State) (l : Nat) : State :=
  match (s.leg l).pend with
  | none => s
  | some high =>
    let pre := s.get (F.MOD_STAT_STATE l) = modPrecharge ∧ high = false ∧ s.on (F.CH_TRST_CBC_NOW (governor s (l / 2))) = false
    if legFree s l ∨ pre then turnOn (placeEdge s l high (s.leg l).due) l high
    else s.legUp l fun g => { g with pend := none }

/-- A leg resumes at an update boundary from its word: the first turn-on comes a dead time after the boundary (R181). -/
def resume (s : State) (l : Nat) : State :=
  let g := s.leg l
  let lv := if legFollows s l then !startLevel (u32 s) (s.leg (l - 1)).h s.time.half else startLevel (u32 s) g.h s.time.half
  s.legUp l fun g =>
    { g with level := lv, pend := some lv, due := deadTime s l lv, hi := false, lo := false, edges := planEdges (u32 s) g.h s.time.half lv }

/-- The update's edges of a leg that goes on switching. -/
def planLeg (s : State) (l : Nat) : State :=
  s.legUp l fun g => { g with edges := planEdges (u32 s) g.h s.time.half g.level }

/-! ### Delay lines (R156 to R159) -/

/-- The physical tap for one j (R158): among the taps above `from_` whose delay is above that of the tap before, the one nearest to the
ideal, the lower index on a tie. Delays are in fs; the ideal is j × 390625000/3072 fs. -/
def nearestTap (d : List Nat) (from_ j : Nat) : Option Nat :=
  let dist (i : Nat) : Nat := ((d.getD i 0 * 3072 : Nat) - (j * 390625000 : Nat) : Int).natAbs
  let ok (i : Nat) : Bool := decide (from_ < i) && decide (d.getD (i - 1) 0 < d.getD i 0)
  ((List.range 40).filter ok).foldl (fun best i =>
    match best with
    | none => some i
    | some b => if dist i < dist b then some i else best) none

/-- The table for the rest of the taps, or none where the calibration fails (R158). -/
def chooseTaps (d : List Nat) : Nat → Nat → Nat → Option (List Nat)
  | 0, _, _ => some []
  | n + 1, from_, j =>
    match nearestTap d from_ j with
    | none => none
    | some i =>
      if ((d.getD i 0 * 3072 : Nat) - (j * 390625000 : Nat) : Int).natAbs ≤ 64000 * 3072 then
        (chooseTaps d n i (j + 1)).map (i :: ·)
      else none

/-- Wind-up starts on the next of the 64 lines (R157); line 2l is HI and 2l + 1 is LO of leg l (DESIGN CHOICE, log entry 24). -/
def dlStart (s : State) : State :=
  match s.dlCal.busy with
  | some _ => s
  | none => { s with dlCal := { busy := some s.dlCal.next, next := (s.dlCal.next + 1) % 64, upds := 0 }, bkg := { s.bkg with dlDue := false } }

/-- One more update of the measurement in work (R157). -/
def dlAtUpdate (s : State) : State := { s with dlCal := { s.dlCal with upds := min (s.dlCal.upds + 1) 1024 } }

/-- A measurement of a line over 1024 updates completes (R157 to R159): a passing table waits for the next update boundary; a failure keeps
the old one, and the third in a row degrades the line. -/
def dlDone (s : State) (line : Nat) (d : List Nat) : State :=
  if s.dlCal.busy ≠ some line ∨ s.dlCal.upds < 1024 then s
  else
    let l := line / 2
    let low := line % 2 = 1
    let p := if low then R.MOD_DLL l else R.MOD_DLH l
    let s0 := { s with dlCal := { s.dlCal with busy := none } }
    let s1 := (s0.set ⟨p, 31, 16⟩ (min ((rneDiv (d.getD 39 0) 1000).toNat) 65535)).set ⟨p, 15, 8⟩ ((s.get ⟨p, 15, 8⟩ + 1) % 256)
    match chooseTaps d 31 0 1 with
    | some t =>
      ((s1.set ⟨p, 0, 0⟩ 0).set ⟨p, 1, 1⟩ 0).legUp l fun g =>
        if low then { g with nextLo := some (0 :: t), failsLo := 0 } else { g with nextHi := some (0 :: t), failsHi := 0 }
    | none =>
      let n := (if low then (s.leg l).failsLo else (s.leg l).failsHi) + 1
      let s2 := (s1.set ⟨p, 0, 0⟩ 1).legUp l fun g => if low then { g with failsLo := n } else { g with failsHi := n }
      (if 3 ≤ n then s2.set ⟨p, 1, 1⟩ 1 else s2).raise (G.MOD_DL_FAIL l)

/-- New tables are loaded at the update boundary (R157). -/
def loadTables (s : State) : State :=
  { s with legs := s.legs.map fun g =>
      { g with tapHi := g.nextHi.getD g.tapHi, tapLo := g.nextLo.getD g.tapLo, nextHi := none, nextLo := none } }

/-! ### Starting and stopping (R168, R169, R641) -/

/-- A channel stops: legs all-off, lane and shapers stopped, shaper state zero (R169). -/
def stopChannel (s : State) (c : Nat) : State :=
  let s1 := (legsOf s c).foldl legOff s
  (resetShapers (setLegStates s1 c modOff) c).pwmUp c fun p => { p with starting := false, precharge := 0, loop := 0 }

/-- The start-up calibration of the sense slices has completed (R225, R556). -/
def calibrated (s : State) : Bool := s.sys.calDone

/-- PRECHARGE starts at a period boundary (R168): LO turns on DT_F after it. -/
def startPrecharge (s : State) (c : Nat) : State :=
  let n := max (s.get (F.CH_MOD_PRECHG c)) 1
  let s1 := setLegStates s c modPrecharge
  let s2 := (legsOf s c).foldl (fun t l =>
    t.legUp l fun g => { g with hi := false, lo := false, level := false, pend := some false, due := deadTime s l false, edges := [] }) s1
  s2.pwmUp c fun p => { p with starting := false, precharge := (n + 1) / 2 * 2 }

/-- What SRC does at an update boundary for one channel, from its value in force before and after (R168, R169, R641). -/
def srcAtUpdate (s : State) (c old new : Nat) : State :=
  let st := s.get (F.MOD_STAT_STATE (2 * c))
  let off (x : Nat) : Bool := x = 0 || x = 3
  if oddHalf s c then s
  else if off new then
    if st = modSafe then s.pwmUp c fun p => { p with starting := false, loop := 0 }
    else if st = modOff then s.pwmUp c fun p => { p with starting := false }
    else stopChannel s c
  else if off old then (if st = modOff then s.pwmUp c fun p => { p with starting := true } else s)
  else if old = 1 ∧ new = 2 then (resetShapers s c).pwmUp c fun p => { p with loop := 0 }
  else if old = 2 ∧ new = 1 then
    let s1 := resetShapers s c
    if st = modSwitching ∨ (st = modPrecharge ∧ (s.pwmCh c).precharge ≤ 1) then s1.pwmUp c fun p => { p with loop := 1 } else s1
  else s

/-- A channel's progress at an update boundary: PRECHARGE counts down, the lane starts in its last update, and a waiting start is
taken at a period boundary (R168). -/
def startAtUpdate (s : State) (c : Nat) : State :=
  let st := s.get (F.MOD_STAT_STATE (2 * c))
  let p := s.pwmCh c
  if oddHalf s c then s
  else if st = modPrecharge then
    let n := p.precharge - 1
    s.pwmUp c fun p =>
      { p with precharge := n, loop := if n = 1 && s.inForce (F.CH_MOD_SRC c) = 1 && p.loop = 0 then 1 else p.loop }
  else if p.starting && st = modOff && !s.time.half && calibrated s && !s.on F.TS_STAT_DEV_SAFE_NOW then startPrecharge s c
  else s

/-- PRECHARGE ends and switching starts from the word loaded at this period boundary (R168). -/
def prechargeEnd (s : State) (c : Nat) : State :=
  if s.get (F.MOD_STAT_STATE (2 * c)) = modPrecharge ∧ (s.pwmCh c).precharge = 0 ∧ oddHalf s c = false then
    let s1 := setLegStates s c modSwitching
    let s2 := (legsOf s c).foldl (fun t l => if legFollows t l then t else applyHigh t l) s1
    let s3 := (legsOf s c).foldl planLeg s2
    -- in AD the odd leg leaves the low side where its even leg starts low (R141; DEDUCED, log entry 25)
    (legsOf s c).foldl (fun t l =>
      if legFollows t l && !startLevel (u32 t) (t.leg (l - 1)).h t.time.half then edgeTo t l true 0 else t) s3
  else s

/-- A leg that does not switch applies no high time: MINPULSE's run and the count of R151 end (R19, R151, R170). -/
def idleLeg (s : State) (l : Nat) : State := (s.cond (G.MOD_MINPULSE l) false).legUp l fun g => { g with h := 0, boot := 0 }

/-- The words' part of an update boundary for the legs: MOD_HAPP shows the high time of the update that ended; tables, reload, the new high
time and its edges (R138, R148, R157, R160, R171). -/
def legsAtUpdate (s : State) : State :=
  let s1 := (List.range 32).foldl (fun t l => t.set (F.MOD_HAPP_H l) (t.leg l).h) (dlAtUpdate s)
  let s2 := (List.range 32).foldl reload (loadTables s1)
  let switching (t : State) (l : Nat) : Bool := t.get (F.MOD_STAT_STATE l) = modSwitching
  let s3 := (List.range 32).foldl (fun t l =>
    if !switching t l then idleLeg t l else if legFollows t l then t else applyHigh t l) s2
  (List.range 32).foldl (fun t l => if switching t l then planLeg t l else t) s3

end Sys2Proof.Machine
end

