-- ==== Sys2Proof/Machine/Trips.lean ====
section
/-! DEFINITION. Trips.lean: trip sources and actions, blanking, the trip counter, latches and safe states of channels, the
device-level safe state, clock monitors, die temperature and debug halts (05). -/

set_option Elab.async false

namespace Sys2Proof.Machine

/-- The state after an update of Tin Soldier. -/
def State.safeUp (s : State) (f : Safe → Safe) : State := { s with safe := f s.safe }

/-- The device-level safe state is in force. -/
def deviceSafe (s : State) : Bool := s.on F.TS_STAT_DEV_SAFE_NOW
/-- A channel is latched; the odd half of a paralleled channel with its governor (R192). -/
def latched (s : State) (c : Nat) : Bool := s.on (F.CH_TRST_LATCHED (governor s c))

/-- FAULT_N is driven low: a latched channel, the device-level safe state or the SAFE clock watchdog (R186, R195, R198, R586). -/
def faultNLow (s : State) : Bool :=
  deviceSafe s || s.safe.watchdog || (List.range 16).any fun c => !oddHalf s c && s.on (F.CH_TRST_LATCHED c)

/-- The output buffers drive the legs: the unit holds OWN_N and its hold is released (R139, R377), no override of R199 acts, and the
device is out of reset. -/
def buffersOpen (s : State) : Bool := s.pins.own && s.pins.released && !deviceSafe s && !s.safe.watchdog && !s.sys.inReset

/-- The level of LEGnn_HI at the ball; in boundary scan the boundary register drives it (R199, R575). -/
def ballHi (s : State) (l : Nat) : Bool :=
  if s.sys.boundaryScan then Config.boundaryCell s.free (2 * l) else buffersOpen s && (s.leg l).hi && !latched s (l / 2)
/-- The level of LEGnn_LO at the ball: a latched channel's LO comes from the override (R189, R191). -/
def ballLo (s : State) (l : Nat) : Bool :=
  if s.sys.boundaryScan then Config.boundaryCell s.free (2 * l + 1) else buffersOpen s && (s.leg l).lo

/-! ### Turning off, CBC and latch (R180 to R188) -/

/-- Every gate output of a channel goes low; for a source of the PWM trip matrix each leg inside its dead time counts FLT_DT (R180,
R182). -/
def channelOff (s : State) (c : Nat) (fromMatrix : Bool) : State :=
  (legsOf s c).foldl (fun t l => legOff (t.raiseIf (fromMatrix && (t.leg l).pend.isSome) (G.TRP_FLT_DT l)) l) s

/-- A channel latches with a cause; while latched further sources change nothing (R186, R187). -/
def latchChannel (s : State) (c cause : Nat) (fromMatrix : Bool) : State :=
  if s.on (F.CH_TRST_LATCHED c) then s
  else
    let s1 := channelOff s c fromMatrix
    let s2 := (s1.set (F.CH_TRST_CAUSE c) cause).set (F.CH_TRST_LATCHED c) 1
    let s3 := (setLegStates s2 c modSafe).raise (G.CH_LATCH c)
    (resetShapers s3 c).pwmUp c fun p =>
      { p with loop := 0, starting := false, precharge := 0, stage := 1, release := false }

/-- One more update with a CBC trip: the trip counter rises and is compared with LATCH_N (R184, R185). -/
def countTrip (s : State) (c : Nat) : State :=
  let n := min (s.get (F.CH_TRST_TCNT c) + 1) 255
  let s1 := (s.set (F.CH_TRST_TCNT c) n).raise (G.CH_CBC c)
  if max (s.get (F.CH_TRP_LATCH_N c)) 1 ≤ n then latchChannel s1 c 0xA true else s1

/-- A CBC source of a channel is accepted (R180, R184, R187). -/
def cbcTrip (s : State) (c : Nat) : State :=
  let s1 := channelOff s c true
  if s.on (F.CH_TRST_LATCHED c) then s
  else if s.on (F.CH_TRST_CBC_NOW c) then s1
  else countTrip (s1.set (F.CH_TRST_CBC_NOW c) 1) c

/-! ### The device-level safe state (R197 to R202) -/

/-- OWN_N is released and the output buffers are held (R198, R378); the integrators of a standby without snapshots are frozen (R399). -/
def releaseOwn (s : State) : State :=
  ({ s with pins := { s.pins with own := false, released := false } } : State).setB F.TWN_STAT_FROZEN
    (!s.twin.applied.1 && !s.twin.applied.2)

/-- Every leg low; with a Device action of the matrix the legs inside their dead time count FLT_DT (R182, R198). -/
def allOff (s : State) (fromMatrix : Bool) : State :=
  (List.range 32).foldl (fun t l => legOff (t.raiseIf (fromMatrix && (t.leg l).pend.isSome) (G.TRP_FLT_DT l)) l) s

/-- The channels' part of entering the device-level safe state: all off, every leg's state 0b11, lanes and shapers stopped, a latched
channel's override back at its first stage. -/
def holdAll (s : State) (fromMatrix : Bool) : State :=
  let s1 := allOff s fromMatrix
  let s2 := (List.range 32).foldl (fun t l => t.set (F.MOD_STAT_STATE l) modSafe) s1
  (List.range 16).foldl (fun t c =>
    (resetShapers t c).pwmUp c fun p =>
      { p with loop := 0, starting := false, precharge := 0, stage := if p.stage = 0 then 0 else 1 }) s2

/-- A source of R197 reaches Tin Soldier: its CAUSE bit is recorded, and the state is entered if it is not in force (R198). -/
def enterSafe (s : State) (bit : Nat) (fromMatrix : Bool) : State :=
  let s1 := s.set ⟨R.TS_STAT, bit, bit⟩ 1
  if deviceSafe s then s1
  else
    let s2 := (holdAll s1 fromMatrix).set F.TS_STAT_DEV_SAFE_NOW 1
    ((releaseOwn s2).safeUp fun t => { t with release := false }).raise G.TS_DEV_SAFE

/-! ### Trip sources (R172 to R179) -/

/-- The channels a TRIPn_N source acts on; bit 2m+1 of a paralleled channel acts on channel 2m (R192). -/
def tripChannels (s : State) (n : Nat) : List Nat :=
  let mask := bitsN (s.rd (0x60 + 4 * n)).toNat 15 0
  (List.range 16).filter fun c =>
    !oddHalf s c && (bitN mask c || (paired s c && bitN mask (c + 1)))

/-- A source of the trip matrix acts on one channel by its action code (R172). -/
def actOn (s : State) (c act cause : Nat) : State :=
  if act = 1 then cbcTrip s c
  else if act = 2 then latchChannel s c cause true
  else s

/-- A leg's fault input takes effect (R172, R178, R188). -/
def legFaultActs (s : State) (l : Nat) : State :=
  let act := s.get (F.TRP_CFG_FLT_ACT l)
  let c := governor s (l / 2)
  if act = 3 then enterSafe s 8 true else actOn s c act (l - 2 * c + 1)

/-- A trip input takes effect on the channels of its mask (R172, R188). -/
def tripActs (s : State) (n : Nat) : State :=
  let act := bitsN (s.rd (0x60 + 4 * n)).toNat 31 30
  if act = 3 then enterSafe s 8 true else (tripChannels s n).foldl (fun t c => actOn t c act (5 + n)) s

/-- The trip matrix reports an accepted source to Tin Soldier through GS2 (R175): legs are sources 0 to 31, TRIPn_N source 32 + n. The latch or
the device-level safe state that results stands within the same step. -/
def reportSource (s : State) (n : Nat) : State := gatePush s .gs2 [BitVec.ofNat 32 n]

/-- A fault or trip input becomes active after its filter (R174): a leg's input inside a blanking window is masked (R178), a trip input
never is (R179). -/
def faultAccept (s : State) (x : FaultSrc) : State :=
  match x with
  | .leg l =>
    let s1 := s.set (F.TRP_STAT_IN_ACT l.val) 1
    if s.on (F.TRP_STAT_BLANKING l.val) then s1 else legFaultActs (reportSource s1 l.val) l.val
  | .trip n => tripActs (reportSource (s.set ⟨0x60 + 4 * n.val, 16, 16⟩ 1) (32 + n.val)) n.val

/-- A word of the PWM island reaches SAFE through GS2: its clock runs (R205). -/
def pwmActive (s : State) : State := s.safeUp fun t => { t with pwmSilent := false }

/-- A fault or trip input becomes inactive; inside a window it counts FLT_BLANKED and causes no action (R178). -/
def faultRelease (s : State) (x : FaultSrc) : State :=
  match x with
  | .leg l =>
    let masked := s.on (F.TRP_STAT_IN_ACT l.val) && s.on (F.TRP_STAT_BLANKING l.val)
    (s.set (F.TRP_STAT_IN_ACT l.val) 0).raiseIf masked (G.TRP_FLT_BLANKED l.val)
  | .trip n => s.set ⟨0x60 + 4 * n.val, 16, 16⟩ 0

/-- A blanking window ends: an input still active takes effect as a newly accepted source (R178). -/
def blankEnd (s : State) (l : Nat) : State :=
  if !s.on (F.TRP_STAT_BLANKING l) then s
  else
    let s1 := s.set (F.TRP_STAT_BLANKING l) 0
    if s.on (F.TRP_STAT_IN_ACT l) then legFaultActs (reportSource s1 l) l else s1

/-- A source of a channel with one of the given actions is active: an accepted fault input that is not masked, or a trip input. -/
def matrixActive (s : State) (c : Nat) (acts : Nat → Bool) : Bool :=
  ((legsOf s c).any fun l =>
    s.on (F.TRP_STAT_IN_ACT l) && !s.on (F.TRP_STAT_BLANKING l) && acts (s.get (F.TRP_CFG_FLT_ACT l))) ||
  ((List.range 4).any fun n =>
    let v := (s.rd (0x60 + 4 * n)).toNat
    bitN v 16 && acts (bitsN v 31 30) && ((tripChannels s n).contains c || bitsN v 31 30 = 3))

/-- A request of the LOOP island at Tin Soldier (R173, R186): 0 comparator, 1 following error, 2 loop overrun, 3 an input without a slice,
which latches as a comparator whatever CMP_ACT holds (R231); `present` says whether
the condition holds at this evaluation. -/
def safeRequest (s : State) (kind c0 : Nat) (present : Bool) : State :=
  let c := governor s c0
  let s1 := if kind = 0 then s.pwmUp c fun p => { p with cmpNow := present } else s
  if !present then s1
  else if kind = 0 then
    let act := s.get (F.CH_TRP_CMP_ACT c)
    if act = 0 then s1 else if act = 3 then enterSafe s1 12 false else latchChannel s1 c 9 false
  else latchChannel s1 c (if kind = 1 then 0xB else if kind = 2 then 0xC else 9) false

/-! ### Safe states of a channel (R189 to R191) and clearing (R194 to R196) -/

/-- The channel's safe state turns LO on: LOW or LOW_THEN_OFF, and not after a leg fault (R189, R190). -/
def lowSelected (s : State) (c : Nat) : Bool :=
  let sel := s.get (F.CH_TRP_SAFE_SEL c)
  let cause := s.get (F.CH_TRST_CAUSE c)
  (sel = 1 || sel = 2) && !(1 ≤ cause && cause ≤ 4)

/-- Tin Soldier turns LO on in LOW states (R191); the turn-on starts a blanking window (R177). -/
def safeLoOn (s : State) (c : Nat) : State :=
  if s.on (F.CH_TRST_LATCHED c) && (s.pwmCh c).stage = 1 && lowSelected s c && !deviceSafe s then
    ((legsOf s c).foldl (fun t l => turnOn t l false) s).pwmUp c fun p => { p with stage := 2 }
  else s

/-- HOLD expires in LOW_THEN_OFF (R189). -/
def safeHoldEnd (s : State) (c : Nat) : State :=
  if s.on (F.CH_TRST_LATCHED c) && (s.pwmCh c).stage = 2 && s.get (F.CH_TRP_SAFE_SEL c) = 2 then
    ((legsOf s c).foldl legOff s).pwmUp c fun p => { p with stage := 3 }
  else s

/-- An input of the channel has no slice, a comparator condition that stays present whatever CMP_ACT holds (R231, R233). -/
def noSlice (s : State) (c : Nat) : Bool :=
  (if paired s c then [c, c + 1] else [c]).any fun d => s.get (F.SNS_SLC_V_SLICE d) = 0x3F || s.get (F.SNS_SLC_I_SLICE d) = 0x3F

/-- A clear is refused (R194): the comparator is the one SAFE-path condition that persists; following error and overrun are requests of
single updates (DEDUCED, log entry 26). -/
def clearRefused (s : State) (c : Nat) : Bool :=
  deviceSafe s || matrixActive s c (fun a => decide (2 ≤ a)) || ((s.pwmCh c).cmpNow && s.get (F.CH_TRP_CMP_ACT c) != 0)
    || noSlice s c

/-- CH_TCLR.CLR (R194 to R196); in a paralleled channel that of channel 2m governs (R192). -/
def latchClear (s : State) (c : Nat) : State :=
  if oddHalf s c || !s.on (F.CH_TRST_LATCHED c) then s
  else if clearRefused s c then s.raise (G.CH_CLR_REFUSED c)
  else
    (((s.set (F.CH_TRST_CAUSE c) 0).set (F.CH_TRST_LATCHED c) 0).set (F.CH_TRST_TCNT c) 0).pwmUp c fun p =>
      { p with release := true }

/-- CH_TCLR.FORCE (R188). -/
def latchForce (s : State) (c : Nat) : State := if oddHalf s c then s else latchChannel s c 0xD false

/-- A write of CH_TCLR: a clear and a new latch source of one cycle leave the channel latched (R196). -/
def writeTclr (s : State) (c : Nat) (v : Word) : State :=
  let s1 := if bitN v.toNat 0 then latchClear s c else s
  if bitN v.toNat 1 then latchForce s1 c else s1

/-- A source of R197 is still active (R201). -/
def deviceSourceActive (s : State) : Bool :=
  s.safe.pwmSilent || (List.range 4).any (fun i => decide (2 ≤ s.safe.bad.getD i 0)) || s.safe.pllOut || s.safe.hot
    || (List.range 16).any (fun c => !oddHalf s c && matrixActive s c (fun a => a == 3))
    || s.safe.halted
    || (List.range 16).any (fun c => !oddHalf s c && (s.pwmCh c).cmpNow && s.get (F.CH_TRP_CMP_ACT c) = 3)

/-- TS_CTRL.CLR (R201, R202). -/
def deviceClear (s : State) : State :=
  if !deviceSafe s then s
  else if deviceSourceActive s || s.on ⟨R.TS_STAT, 7, 7⟩ || s.on ⟨R.TS_STAT, 11, 11⟩ then s.raise G.TS_CLR_REFUSED
  else ((s.set F.TS_STAT_CAUSE 0).set F.TS_STAT_DEV_SAFE_NOW 0).safeUp fun t => { t with release := true }

/-- TS_CTRL.FORCE (R197). -/
def deviceForce (s : State) : State := enterSafe s 10 false

/-- TS_CTRL.LOCK: set only (R210). -/
def limitsLock (s : State) : State := (s.set F.TS_CTRL_LOCK 1).set F.TS_STAT_LOCKED 1

/-- A write of TS_CTRL (R210): CLR before FORCE, as a clear and a new source of one cycle leave the channel latched in R196 (DEDUCED, log
entry 27). -/
def writeTsCtrl (s : State) (v : Word) : State :=
  let s1 := if bitN v.toNat 1 then deviceClear s else s
  let s2 := if bitN v.toNat 0 then deviceForce s1 else s1
  if bitN v.toNat 8 then limitsLock s2 else s2

/-- A written SAFE_SEL chooses the state of a channel that is latched already (R189): LO goes low where the new state has it low, and a LOW
chosen after HOLD or ALL_OFF waits for its turn-on (R191). -/
def safeSelect (s : State) (c : Nat) : State :=
  if oddHalf s c || !s.on (F.CH_TRST_LATCHED c) then s
  else if (s.pwmCh c).stage = 2 && !lowSelected s c then ((legsOf s c).foldl legOff s).pwmUp c fun p => { p with stage := 1 }
  else if (s.pwmCh c).stage = 3 && s.get (F.CH_TRP_SAFE_SEL c) != 2 then s.pwmUp c fun p => { p with stage := 1 }
  else s

/-- A write of TS_TLIM, SYS_TRIPn, CH_TRP or TRP_CFG: ignored and counted while LOCK is 1 (R210); LATCH_N 0 is stored as 1 (R185) and the
temperature limits at the nearer end of their range. -/
def writeLimit (s : State) (p : Nat) (v : Word) : State :=
  if s.on F.TS_CTRL_LOCK then s.raise G.TS_CFG_LOCKED
  else if p = R.TS_TLIM then
    let warn := min (max (v.toNat % 256) 60) 130
    let trip := min (max (v.toNat / 256 % 256) 100) 135
    storeCoded s p (BitVec.ofNat 32 (trip * 256 + warn))
  else if 0x1000 ≤ p ∧ p < 0x2000 then
    -- a change of CMP_ACT acts on a condition that is present (R236)
    let c := (p - 0x1000) / 0x100
    let s1 := safeSelect (storeCoded s p (if v.toNat / 2 ^ 24 = 0 then v ||| 0x01000000#32 else v)) c
    if (s.pwmCh c).cmpNow && !oddHalf s c then safeRequest s1 0 c true else s1
  else storeCoded s p v

/-! ### Update boundary (R180, R181, R184, R195, R202) -/

/-- The leak of the trip counter (R184). -/
def leakAtUpdate (s : State) (c : Nat) : State :=
  let t := s.get (F.CH_TRST_TCNT c)
  if 0 < t ∧ updateIndex s % 2 ^ s.get (F.CH_TRP_LEAK_SH c) = 0 then s.set (F.CH_TRST_TCNT c) (t - 1) else s

/-- The retest of a channel's CBC sources at an update boundary (R181). -/
def cbcAtUpdate (s : State) (c : Nat) : State :=
  if !s.on (F.CH_TRST_CBC_NOW c) then s
  else if s.on (F.CH_TRST_LATCHED c) then s.set (F.CH_TRST_CBC_NOW c) 0
  else if matrixActive s c (fun a => a == 1) then countTrip (channelOff s c false) c
  else
    let s1 := s.set (F.CH_TRST_CBC_NOW c) 0
    (legsOf s c).foldl (fun t l =>
      if t.get (F.MOD_STAT_STATE l) = modSwitching then resume t l
      else if t.get (F.MOD_STAT_STATE l) = modPrecharge then t.legUp l fun g => { g with pend := some false }
      else t) s1

/-- A channel whose safe state ends goes to OFF, and restarts at the next period boundary when SRC asks for it (R195, R202). A CBC source that
is still active then is not tested again (DESIGN CHOICE, log entry 87): R181 tests after a CBC trip. -/
def backToOff (s : State) (c : Nat) : State :=
  let s1 := setLegStates ((legsOf s c).foldl legOff s) c modOff
  let src := s1.inForce (F.CH_MOD_SRC c)
  s1.pwmUp c fun p => { p with stage := 0, release := false, starting := src = 1 || src = 2 }

/-- The releases of overrides at an update boundary (R195, R202). -/
def releasesAtUpdate (s : State) : State :=
  let dev := s.safe.release
  let s1 := s.safeUp fun t => { t with release := false }
  (List.range 16).foldl (fun t c =>
    if oddHalf t c || deviceSafe t || t.on (F.CH_TRST_LATCHED c) then t
    else if dev || (t.pwmCh c).release then backToOff t c
    else t) s1

/-- A debug halt turns every output off at the first update boundary and enters the device-level safe state (R207). -/
def haltAtUpdate (s : State) : State :=
  if s.safe.haltDue then enterSafe (s.safeUp fun t => { t with haltDue := false }) 9 false else s

/-! ### Monitors (R203 to R209) -/

/-- The nominal frequencies of the monitored clocks in kHz (R22, R203): MEDIA, MODEL, LOOP, PWM, NET, MGMT, TWIN and the crystal. -/
def clockKhz (clk : Nat) : Nat := [491520, 614400, 122880, 245760, 125000, 400000, 500000, 25000].getD clk 0

/-- A count over 1024 SAFE cycles of 40 MHz lies more than 10 % off the nominal one (R203, R204). -/
def outsideLimit (clk count : Nat) : Bool :=
  decide (clockKhz clk * 1024 < 10 * ((count * 40000 : Nat) - (clockKhz clk * 1024 : Nat) : Int).natAbs)

/-- A frequency window ends with a count: the consequence of a clock outside its limits in two windows in a row (R203, R204); clocks 0 to 3
are MEDIA, MODEL, LOOP and PWM, 4 to 7 NET, MGMT, TWIN and the crystal. A PWM clock within its limits sends activity words again (R205). -/
def clockWindow (s : State) (clk count : Nat) : State :=
  let n := if outsideLimit clk count then s.safe.bad.getD clk 0 + 1 else 0
  let s0 := if clk = 3 && !outsideLimit clk count then pwmActive s else s
  let s1 := s0.safeUp fun t => { t with bad := t.bad.set clk n }
  let failed := decide (2 ≤ n)
  if clk < 4 then (if failed then enterSafe s1 (clk + 1) false else s1)
  else if clk = 4 then s1.cond G.TS_NET_CLK failed
  else if clk = 5 then s1.cond G.TS_MGMT_CLK failed
  else if clk = 6 then s1.cond G.TS_TWIN_CLK failed
  else if clk = 7 then s1.cond G.TS_XTAL_CLK failed
  else s

/-- No activity word for 3 SAFE cycles (R205). -/
def pwmSilence (s : State) : State := enterSafe (s.safeUp fun t => { t with pwmSilent := true }) 0 false

/-- The media PLL loses lock (R197). -/
def mediaUnlock (s : State) : State :=
  (enterSafe (s.safeUp fun t => { t with pllOut := true }) 5 false).set F.CLK_STAT_MEDIA_LOCK 0

/-- A die temperature reading in 1/16 °C (R206). -/
def dieTemp (s : State) (t : Int) : State :=
  let s1 := (s.set F.TS_TEMP_TEMP (pattern 16 t)).set F.TS_TEMP_SEQ ((s.get F.TS_TEMP_SEQ + 1) % 65536)
  let warn : Int := 16 * s.get F.TS_TLIM_TEMP_WARN
  let trip : Int := 16 * s.get F.TS_TLIM_TEMP_TRIP
  let fires := s.safe.warnArmed && decide (warn ≤ t)
  let armed := if t < warn - 80 then true else if warn ≤ t then false else s.safe.warnArmed
  let hot := if trip ≤ t then true else if t < trip - 160 then false else s.safe.hot
  let s2 := (s1.raiseIf fires G.TS_TEMP_WARN).safeUp fun x => { x with warnArmed := armed, hot := hot }
  if trip ≤ t then enterSafe s2 6 false else s2

/-- A debug halt (R207 to R209): the management core alone stops nothing else, Tin Soldier cannot be halted, any other processor or
the device turns the outputs off. -/
def debugHalt (s : State) (x : Proc) : State :=
  match x with
  | .management => { s with sys := { s.sys with mgmtStopped := true } }
  | .tinSoldier => s
  | .device =>
    ({ s with sys := { s.sys with mgmtStopped := true } } : State).safeUp fun t => { t with halted := true, haltDue := true }
  | .musicBox | .ventriloquist | .marionette => s.safeUp fun t => { t with halted := true, haltDue := true }

/-- The Tin Soldier cores disagree (R197). -/
def lockstep (s : State) : State := enterSafe s 11 false

end Sys2Proof.Machine
end

