-- ==== Sys2Proof/Machine/Sense.lean ====
section
/-! DEFINITION. Sense.lean: converter triggers, conversion and retry, slices and spares, comparators and rail sensing (06). -/

set_option Elab.async false

namespace Sys2Proof.Machine

/-- The state after an update of the sense chain. -/
def State.snsUp (s : State) (f : Sense → Sense) : State := { s with sense := f s.sense }
/-- The state after an update of one slice. -/
def State.sliceUp (s : State) (n : Nat) (f : SliceSt → SliceSt) : State :=
  s.snsUp fun x => { x with slices := x.slices.modify n f }
/-- The state after an update of one sense input. -/
def State.inputUp (s : State) (i : Nat) (f : SnsInput → SnsInput) : State :=
  s.snsUp fun x => { x with inputs := x.inputs.modify i f }
/-- One slice. -/
def State.slice (s : State) (n : Nat) : SliceSt := s.sense.slices.getD n {}
/-- One sense input. -/
def State.input (s : State) (i : Nat) : SnsInput := s.sense.inputs.getD i {}

/-- The SNS_SLC field of an input. -/
def sliceField (i : Nat) : Fld := if i % 2 = 0 then F.SNS_SLC_V_SLICE (i / 2) else F.SNS_SLC_I_SLICE (i / 2)
/-- The slice that serves an input (R224); none for 0x3F. -/
def servingSlice (s : State) (i : Nat) : Option Nat := let n := s.get (sliceField i); if n < 34 then some n else none
/-- The input a slice serves. -/
def servedInput (s : State) (n : Nat) : Option Nat := (List.range 32).find? fun i => s.get (sliceField i) == n

/-- Slice n is retired (SNS_RET, SNS_POOL). -/
def sliceRetired (s : State) (n : Nat) : Bool :=
  if n < 32 then bitN (s.get F.SNS_RET_RETIRED) n else bitN (s.get F.SNS_POOL_RETIRED) (n - 32)

/-- The spare slices in ascending order: neither serving, retired nor in calibration. -/
def spareSlices (s : State) : List Nat :=
  (List.range 34).filter fun n => !sliceRetired s n && (servedInput s n).isNone && s.get F.SNS_POOL_CAL != n

/-- SPARE_A and SPARE_B show the spares. -/
def showSpares (s : State) : State :=
  let sp := spareSlices s
  (s.set F.SNS_POOL_SPARE_A (sp.getD 0 0x3F)).set F.SNS_POOL_SPARE_B (sp.getD 1 0x3F)

/-- The lowest-numbered ready spare (R227). -/
def readySpare (s : State) : Option Nat := (spareSlices s).find? fun n => (s.slice n).ready && !(s.slice n).failed

/-- One update result of an input goes to its decimator (R220). -/
def decimTake (y : Int) (x : SnsInput) : SnsInput := { x with tok := Config.decimIn x.tok (BitVec.ofInt 16 y) }

/-- A first trigger yields no result: the update result repeats the previous one (R219, R222, R289). -/
def loseFirst (s : State) (v : Conv) (known : Nat) : State :=
  if !v.first || v.spare then s
  else if v.upd = s.time.updates then s.inputUp v.input fun x => { x with lost := true, usable := known }
  else (s.inputUp v.input fun x => decimTake x.last { x with late := false }).raise (G.SNS_STALE (v.input / 2))

/-- A slice is retired: a conversion in work yields no result, RETIRE counts and the log records it (R219, R231, R234). -/
def retireSliceNow (s : State) (n : Nat) : State :=
  let s0 := match (s.slice n).conv with
    | some v => loseFirst s v 0
    | none => s
  let s1 := if n < 32 then s0.set F.SNS_RET_RETIRED (s.get F.SNS_RET_RETIRED ||| 2 ^ n)
    else s0.set F.SNS_POOL_RETIRED (s.get F.SNS_POOL_RETIRED ||| 2 ^ (n - 32))
  let s2 := (s1.sliceUp n fun x => { x with conv := none, failed := false, ready := false }).raise G.SNSD_RETIRE
  let s3 := if s2.get F.SNS_POOL_CAL = n then s2.set F.SNS_POOL_CAL 0x3F else s2
  showSpares (queueRetire s3 retireSlice n)

/-! ### Comparators (R235, R236) -/

/-- The comparator condition of a channel: either input, or a rail that supplies it (R236, R240). An input without a slice stays a condition of
its own (R233), whatever this one is. -/
def channelCompares (s : State) (c : Nat) : Bool :=
  (s.input (2 * c)).isOver || (s.input (2 * c + 1)).isOver
    || (List.range 4).any fun n =>
      let r := s.sense.rails.getD n {}
      (r.isOver || r.under) && bitN (bitsN (s.live (0x1B0 + 4 * n)).toNat 31 16) c && s.get (F.MOD_STAT_STATE (2 * c)) != modOff

/-- The condition of a governing channel (R192, R236). -/
def governorCompares (s : State) (g : Nat) : Bool := channelCompares s g || (paired s g && g % 2 = 0 && channelCompares s (g + 1))

/-- An evaluation of a channel's condition: LOOP presents it to GS1 when it differs from the one last presented (R236). The odd half of a
paralleled channel presents none of its own. -/
def reportCompare (s : State) (c : Nat) : State :=
  let sent (t : State) (k : Nat) (b : Bool) : State := { t with loops := t.loops.modify k fun x => { x with cmpSent := b } }
  let g := governor s c
  let now := governorCompares s g
  let s1 := if oddHalf s c then sent s c false else s
  if now = (s.loops.getD g {}).cmpSent then s1 else gatePush (sent s1 g now) .gs1 [0, BitVec.ofNat 32 g, if now then 1 else 0]

/-- One valid result of an input is tested (R235). -/
def compare (s : State) (i : Nat) (y : Int) : State :=
  let c := i / 2
  let en := s.inForceB (if i % 2 = 0 then F.SNS_CMP_V_EN c else F.SNS_CMP_I_EN c)
  let lim := s.inForce (if i % 2 = 0 then F.SNS_CMP_VLIM c else F.SNS_CMP_ILIM c)
  if !en then s
  else
    let beyond := decide (lim < y.natAbs)
    let n := if beyond then (s.input i).count + 1 else 0
    let isOver := beyond && ((s.input i).isOver || decide (max (s.inForce (F.SNS_CFG_CMP_N c)) 1 ≤ n))
    let s1 := s.inputUp i fun x => { x with count := n, isOver := isOver }
    reportCompare (s1.cond (if i % 2 = 0 then G.SNS_CMP_V c else G.SNS_CMP_I c) isOver) c

/-- A comparator whose enable is cleared ends its condition at the update at which the write applies (R235); every channel's condition is
evaluated again, as MOD_STAT.STATE, CH_MASK and PAR stand from this update on (R192, R236, R240). -/
def comparatorsAtUpdate (s : State) : State :=
  let s1 := (List.range 32).foldl (fun t i =>
    let c := i / 2
    if t.inForceB (if i % 2 = 0 then F.SNS_CMP_V_EN c else F.SNS_CMP_I_EN c) then t
    else
      let t1 := t.inputUp i fun x => { x with count := 0, isOver := false }
      t1.cond (if i % 2 = 0 then G.SNS_CMP_V c else G.SNS_CMP_I c) false) s
  (List.range 16).foldl reportCompare s1

/-! ### Triggers and conversion (R165 to R167, R215 to R223) -/

/-- An enabled trigger register of a leg in the running update: its target input and position (R165). -/
def triggerOf (s : State) (l : Nat) (b : Bool) : Option (Nat × Nat) :=
  let p := if b then R.MOD_TRGB l else R.MOD_TRGA l
  let v := (s.live p).toNat
  let en := if s.time.half then bitN v 31 else bitN v 30
  let tgt := bitsN v 17 16
  let pos := v % 65536
  if en && decide (pos < u32 s) then
    (if tgt = 1 then some (2 * (l / 2), pos) else if tgt = 2 then some (2 * (l / 2) + 1, pos) else none)
  else none

/-- The trigger registers enabled for an input in this update, with distinct positions: triggers on one tap are one (R167). -/
def enabledTriggers (s : State) (i : Nat) : List Nat :=
  let c := i / 2
  let all := [(2 * c, false), (2 * c, true), (2 * c + 1, false), (2 * c + 1, true)].filterMap fun lb =>
    match triggerOf s lb.1 lb.2 with
    | some (j, pos) => if j = i then some pos else none
    | none => none
  all.eraseDups

/-- The cycle in which a result is usable (R288): q taps after the update start, plus 32 with a retry. -/
def usableCycle (q : Nat) (retry : Bool) : Nat := (1272 * q + 2762800) / 81380 + if retry then 32 else 0
/-- The LOOP cycle that follows an instant q taps after the update start (R289). -/
def cycleAfter (q : Nat) : Nat := 1272 * q / 81380 + 1

/-- A slice accepts a trigger; a retry in work is abandoned and its result lost (R216, R222). -/
def startConversion (s : State) (n i pos : Nat) (first spare : Bool) : State :=
  let s1 := match (s.slice n).conv with
    | some v => if v.retry then loseFirst (s.raise (G.SNS_RETRY_LOST (v.input / 2))) v (cycleAfter pos) else s
    | none => s
  s1.sliceUp n fun x =>
    { x with trigs := x.trigs + 1
             lastTap := some (s.time.taps + pos)
             conv := some { input := i, upd := s.time.updates, first := first, pos := pos, spare := spare, retry := false } }

/-- A slice ignores a trigger less than 80 ticks after its previous accepted one (R216). -/
def sliceBusy (s : State) (n pos : Nat) : Bool := match (s.slice n).lastTap with
  | some t => decide (s.time.taps + pos < t + 2560)
  | none => false

/-- A trigger at an input that its serving slice does not take: the input is usable from the next cycle (R216, R289). -/
def triggerIgnored (s : State) (i pos : Nat) : State :=
  s.inputUp i fun x => if x.accepted then x else { x with usable := cycleAfter pos }

/-- The spare of a rotation overlap converts the same trigger (R227). -/
def triggerSpare (s : State) (i pos : Nat) (first : Bool) : State :=
  match s.sense.rot with
  | some r =>
    if r.input = i ∧ r.isOver = false ∧ sliceBusy s r.spare pos = false then
      startConversion (s.snsUp fun y => { y with rot := some { r with trigs := r.trigs + 1 } }) r.spare i pos first true
    else s
  | none => s

/-- A trigger at an input at a tap of the running update, of which GD6 carries a notice to LOOP (R29, R165 to R167, R216). Until the start-up
calibration has completed every slice is disconnected from its input (R225, R226). -/
def triggerInput (s : State) (i pos : Nat) : State :=
  let now := s.time.taps + pos
  let x := s.input i
  if x.lastIssue = some now then s
  else
    let s0 := gatePush (s.inputUp i fun x => { x with fired := x.fired + 1, lastIssue := some now }) .gd6 [BitVec.ofNat 32 (i + 1), BitVec.ofNat 32 pos]
    if !s.sys.calDone then triggerIgnored s0 i pos
    else
      match servingSlice s0 i with
      | some n =>
        if sliceBusy s0 n pos then triggerSpare ((triggerIgnored s0 i pos).raise (G.SNS_TRG_BUSY (i / 2))) i pos (!x.accepted)
        else triggerSpare (startConversion (s0.inputUp i fun x => { x with accepted := true }) n i pos (!x.accepted) false) i pos (!x.accepted)
      | none => if x.accepted then s0 else s0.inputUp i fun x => { x with accepted := true, lost := true }

/-- MOD_TRGA or MOD_TRGB of a leg fires (R165, R166). -/
def converterTrigger (s : State) (l : Nat) (b : Bool) : State :=
  match triggerOf s l b with
  | some (i, pos) => triggerInput s i pos
  | none => s

/-- The corrected result of a raw code (R218). -/
def corrected (gain : Nat) (offs : Int) (inv : Bool) (raw : Word16) : Int :=
  let y := satS 16 (rneDiv (signed 16 raw.toNat * gain + offs * 4096) 16384)
  if inv then satS 16 (-y) else y

/-- The overlap compares the results of both slices for one trigger (R228). -/
def overlapResult (s : State) (spare : Bool) (trig : Nat) (y : Int) : State :=
  match s.sense.rot with
  | none => s
  | some r =>
    let others := if spare then r.outRes else r.spareRes
    let r1 : Rotation := match others.find? fun e => e.1 == trig with
      | some e => { r with outRes := r.outRes.filter (·.1 != trig), spareRes := r.spareRes.filter (·.1 != trig),
                           maxDiff := max r.maxDiff (e.2 - y).natAbs }
      | none => if spare then { r with spareRes := r.spareRes ++ [(trig, y)] } else { r with outRes := r.outRes ++ [(trig, y)] }
    s.snsUp fun x => { x with rot := some r1 }

/-- A valid result of a slice (R217, R219, R235): the first trigger's is the update result, every one is compared. -/
def deliverResult (s : State) (n : Nat) (v : Conv) (raw : Word16) (retry : Bool) : State :=
  let c := v.input / 2
  let inv := s.inForceB (if v.input % 2 = 0 then F.SNS_CFG_V_INV c else F.SNS_CFG_I_INV c)
  let y := corrected (s.slice n).gain (s.slice n).offs inv raw
  let s1 := s.sliceUp n fun x => { x with conv := none }
  let inOverlap : Bool := match s1.sense.rot with
    | some r => r.input == v.input && (v.spare || r.out == n)
    | none => false
  let s2 := if inOverlap then overlapResult s1 v.spare (v.upd * 65536 + v.pos) y else s1
  if v.spare then s2
  else
    let s3 := if !v.first then s2
      else if v.upd = s.time.updates then
        s2.inputUp v.input fun x => { x with cur := some y, usable := usableCycle v.pos retry }
      else
        -- the result of an update that has ended: it is that update's result, too late for its lane
        let s3 := s2.inputUp v.input fun x => decimTake y { x with last := y, late := false }
        s3.set (if v.input % 2 = 0 then F.SNS_RES_V c else F.SNS_RES_I c) (pattern 16 y)
    compare s3 v.input y

/-- A conversion ends (R215): a redundancy error starts a retry of the same array (R221). -/
def conversionEnd (s : State) (n : Nat) (raw : Word16) (err : Bool) : State :=
  match (s.slice n).conv with
  | none => s
  | some v =>
    if v.retry then s
    else if err then
      (s.sliceUp n fun x => { x with conv := some { v with retry := true } }).raise (G.SNS_RETRY (v.input / 2))
    else deliverResult s n v raw false

/-- A second redundancy error of a slice: two within 65,536 accepted triggers are a failure (R222, R223); a spare that fails in an
overlap is retired at once and the step abandoned (R232). -/
def sliceLoss (s : State) (n : Nat) : State :=
  let x := s.slice n
  let recent := x.losses.filter fun t => decide (x.trigs < t + 65536)
  let s1 := s.sliceUp n fun y => { y with losses := recent ++ [x.trigs] }
  if recent.isEmpty then s1
  else if (servedInput s1 n).isSome then s1.sliceUp n fun y => { y with failed := true }
  else
    let s2 := match s1.sense.rot with
      | some r => if r.spare = n then s1.snsUp fun y => { y with rot := none } else s1
      | none => s1
    retireSliceNow s2 n

/-- A retry ends (R221, R222), 520 ns after its trigger: a second error is known in the LOOP cycle that follows (R289). -/
def retryEnd (s : State) (n : Nat) (raw : Word16) (err : Bool) : State :=
  match (s.slice n).conv with
  | none => s
  | some v =>
    if !v.retry then s
    else if err then
      let s1 := (s.sliceUp n fun x => { x with conv := none }).raise (G.SNS_RETRY_LOST (v.input / 2))
      sliceLoss (loseFirst s1 v ((1272 * v.pos + 5200000) / 81380 + 1)) n
    else deliverResult s n v raw true

/-- The update boundary at one input (R219, R243): the update that ends gives its result, and a new one begins. -/
def inputAtUpdate (s : State) (i : Nat) : State :=
  let x := s.input i
  let f := if i % 2 = 0 then F.SNS_RES_V (i / 2) else F.SNS_RES_I (i / 2)
  let fresh (y : SnsInput) : SnsInput := { y with fired := 0, accepted := false, cur := none, lost := false, usable := 0 }
  match x.cur with
  | some y =>
    (s.set f (pattern 16 y)).inputUp i fun x => decimTake y { fresh x with last := y }
  | none =>
    -- a first trigger still in retry gives the ended update its one result when it ends
    if x.accepted && !x.lost then s.inputUp i fun x => { fresh x with late := true }
    else (s.inputUp i fun x => decimTake x.last (fresh x)).raise (G.SNS_STALE (i / 2))

/-- Every input at an update boundary. -/
def inputsAtUpdate (s : State) : State := (List.range 32).foldl inputAtUpdate s

/-- The decimators give their 192 kHz values, 32 words, to GD4 (R220). -/
def decimate (s : State) : State :=
  let ws := s.sense.inputs.map fun x => (Config.decimOut x.tok).setWidth 32
  gatePush (s.snsUp fun x => { x with inputs := x.inputs.map fun y => { y with tok := Config.decimTick y.tok } }) .gd4 ws

/-! ### Calibration, rotation and replacement (R225 to R233) -/

/-- A calibration passes (R226). -/
def calPasses (o : CalOutcome) : Bool :=
  decide (o.offs.natAbs ≤ 256) && decide (16056 ≤ o.gain) && decide (o.gain ≤ 16712)
    && o.noise.all (fun n => decide (n ≤ 2000)) && o.errs.all (fun e => decide (e.natAbs ≤ 2000))

/-- A calibration outcome of a slice is latched in SNS_CALR0 and SNS_CALR1, and taken by the slice if it passes (R226). -/
def latchCal (s : State) (n : Nat) (o : CalOutcome) : State :=
  let ok := calPasses o
  let s1 := ((s.set F.SNS_CALR0_SEQ ((s.get F.SNS_CALR0_SEQ + 1) % 65536)).set F.SNS_CALR0_SLICE n).setB F.SNS_CALR0_PASS ok
  let s2 := (s1.set F.SNS_CALR1_GAIN (min o.gain 65535)).set F.SNS_CALR1_OFFS (pattern 16 o.offs)
  if ok then s2.sliceUp n fun x => { x with gain := o.gain, offs := o.offs, ready := true } else s2.sliceUp n fun x => { x with ready := false }

/-- An input without a slice (R231, R233): the channel latches with CAUSE 0x9 whatever CMP_ACT holds, and NO_SPARE counts. -/
def inputWithoutSlice (s : State) (i : Nat) : State :=
  gatePush ((s.set (sliceField i) 0x3F).raise G.SNSD_NO_SPARE) .gs1 [3, BitVec.ofNat 32 (governor s (i / 2)), 1]

/-- The start-up calibration of all slices completes (R225): failures are retired, and the remaining slices serve the inputs in order. -/
def startupCal (s : State) (outcomes : List CalOutcome) : State :=
  if s.sys.calDone then s
  else
    let s1 := (List.range 34).foldl (fun t n =>
      match outcomes[n]? with
      | none => t
      | some o => if sliceRetired t n then t else
          let t1 := latchCal t n o
          if calPasses o then t1 else retireSliceNow t1 n) s
    let good := (List.range 34).filter fun n => !sliceRetired s1 n
    let s2 := (List.range 32).foldl (fun t i =>
      match good[i]? with
      | some n => t.set (sliceField i) n
      | none => inputWithoutSlice t i) s1
    { showSpares s2 with sys := { s2.sys with calDone := true } }

/-- The serving slice with the oldest calibration, the lowest number first (R227). -/
def oldestServing (s : State) : Option (Nat × Nat) :=
  (List.range 34).foldl (fun best n =>
    match servedInput s n with
    | none => best
    | some i =>
      match best with
      | none => some (n, i)
      | some (b, _) => if (s.slice n).calSeq < (s.slice b).calSeq then some (n, i) else best) none

/-- A rotation step can start (R227, R230): rotation is on, start-up calibration is over and a ready spare exists. -/
def rotationOn (s : State) : Bool := s.on F.SNS_ROT_ROT_EN && s.sys.calDone && (readySpare s).isSome

/-- A rotation step that fell due at a multiple of 2820 blocks starts (R227, R230, R521). -/
def rotationStart (s : State) : State :=
  if !rotationOn s || s.sense.rot.isSome || !s.bkg.rotDue then s
  else
    match readySpare s, oldestServing s with
    | some sp, some (out, i) =>
      let s1 : State := { s with bkg := { s.bkg with rotDue := false } }
      s1.snsUp fun x => { x with rot := some { out := out, spare := sp, input := i } }
    | _, _ => s

/-- The overlap is over after 256 accepted triggers or 256 updates (R227); the spare serves from the next update boundary. -/
def rotationOverlapEnd (s : State) : State :=
  match s.sense.rot with
  | some r => if 256 ≤ r.trigs ∨ 256 ≤ r.upds then s.snsUp fun x => { x with rot := some { r with isOver := true } } else s
  | none => s

/-- The swap of a rotation step at an update boundary, and the overlap's count of updates (R227, R228). -/
def rotationAtUpdate (s : State) : State :=
  match s.sense.rot with
  | none => s
  | some r =>
    if !r.isOver then s.snsUp fun x => { x with rot := some { r with upds := r.upds + 1 } }
    else
      -- a conversion in work ends as it began: the outgoing slice's belongs to its update, the spare's is for comparison only
      let s1 := ((s.set (sliceField r.input) r.spare).set F.SNS_POOL_CAL r.out).snsUp fun x => { x with rot := none }
      let s2 := s1.sliceUp r.out fun x => { x with ready := false }
      showSpares ((s2.raiseIf (decide (s.get F.SNS_ROT_SWAP_TOL < r.maxDiff)) G.SNSD_SWAP_MISMATCH).raise G.SNSD_SWAP)

/-- The calibration of the outgoing slice ends (R226, R227): it becomes a ready spare or is retired. -/
def sliceCalDone (s : State) (o : CalOutcome) : State :=
  let n := s.get F.SNS_POOL_CAL
  if 34 ≤ n then s
  else
    let s1 := (latchCal s n o).set F.SNS_POOL_CAL 0x3F
    if calPasses o then
      let k := s.sense.calCount + 1
      showSpares ((s1.sliceUp n fun x => { x with calSeq := k }).snsUp fun x => { x with calCount := k })
    else retireSliceNow s1 n

/-- A failed serving slice is replaced at the update boundary (R231). -/
def replaceSlice (s : State) (n : Nat) : State :=
  match servedInput s n with
  | none => s
  | some i =>
    let s0 := s.sliceUp n fun x => { x with failed := false }
    let s1 := match readySpare s0 with
      | some sp =>
        let t := match s0.sense.rot with
          | some r => if r.spare = sp ∨ r.out = n then s0.snsUp fun x => { x with rot := none } else s0
          | none => s0
        t.set (sliceField i) sp
      | none =>
        let k := s0.get F.SNS_POOL_CAL
        if k < 34 then (s0.set (sliceField i) k).set F.SNS_POOL_CAL 0x3F else inputWithoutSlice s0 i
    retireSliceNow s1 n

/-- Every failed serving slice is replaced. -/
def replacementsAtUpdate (s : State) : State :=
  (List.range 34).foldl (fun t n => if (t.slice n).failed then replaceSlice t n else t) s

/-! ### Rail sensing (R237 to R240) -/

/-- The feed-forward factor of an averaged code (R238). -/
def rff (nom code : Nat) : Nat := if code = 0 then 0xFFFF else satU 16 (rneDiv (nom * 16384 : Nat) code)

/-- A rail converter gives a code (R238, R240). -/
def railConversion (s : State) (n : Nat) (code : Nat) : State :=
  let cfg := (s.live (0x1A0 + 4 * n)).toNat
  let r := s.sense.rails.getD n {}
  let codes := r.codes ++ [code]
  let avg := 2 ^ bitsN cfg 29 28
  if codes.length < avg then s.snsUp fun x => { x with rails := x.rails.set n { r with codes := codes } }
  else
    let mean := (rneDiv (codes.sum : Nat) codes.length).toNat
    let nom := bitsN (s.live (0x1B0 + 4 * n)).toNat 11 0
    let isOver := bitN cfg 31 && decide (bitsN cfg 27 16 < mean)
    let isUnder := bitN cfg 30 && decide (mean < bitsN cfg 11 0)
    let o := if isOver then r.overs + 1 else 0
    let u := if isUnder then r.unders + 1 else 0
    let isOver := decide (2 ≤ o)
    let under := decide (2 ≤ u)
    let s1 := s.wr (0x1C0 + 4 * n) (BitVec.ofNat 32 (rff nom mean * 65536 + mean % 4096))
    let s2 := s1.snsUp fun x => { x with rails := x.rails.set n { codes := [], overs := o, unders := u, isOver := isOver, under := under } }
    let s3 := (s2.cond ⟨0x1D0, n, 0x1D4, 8 * n⟩ isOver).cond ⟨0x1D0, 4 + n, 0x1D8, 8 * n⟩ under
    (List.range 16).foldl reportCompare s3

/-- A read of SNS_CALR0 latches SNS_CALR1 with it (R243). -/
def calRead (s : State) : State := (s.snsUp fun x => { x with calLatch := s.rd R.SNS_CALR1 }).answer (s.rd R.SNS_CALR0)

end Sys2Proof.Machine
end

