-- ==== Sys2Proof/Machine/Lanes.lean ====
section
/-! DEFINITION. Lanes.lean: the Marionette lanes: banks and their checks, operands, instructions, the update cycle, live coefficient
writes and the impedance coefficient (07). -/

set_option Elab.async false

namespace Sys2Proof.Machine

/-- The state after an update of one lane. -/
def State.laneUp (s : State) (n : Nat) (f : LaneSt → LaneSt) : State := { s with lanes := s.lanes.modify n f }
/-- One lane. -/
def State.lane (s : State) (n : Nat) : LaneSt := s.lanes.getD n {}
/-- The state after an update of one channel's loop. -/
def State.loopUp (s : State) (c : Nat) (f : LoopChan → LoopChan) : State := { s with loops := s.loops.modify c f }
/-- One channel's loop. -/
def State.loopCh (s : State) (c : Nat) : LoopChan := s.loops.getD c {}

/-- The lane that serves a channel (R244). -/
def laneOf (s : State) (c : Nat) : Nat := s.get (F.LPE_STAT_LANE c)
/-- The channel a lane serves. -/
def servedChan (s : State) (n : Nat) : Option Nat := (List.range 16).find? fun c => laneOf s c == n
/-- The spare lane. -/
def spareLane (s : State) : Option Nat := let n := s.get F.LANE_POOL_SPARE; if n < 17 then some n else none
/-- The channel the spare shadows, on schedule or for confirmation. -/
def shadowedChan (s : State) : Option Nat := s.lanePool.confirm <|> s.lanePool.shadow
/-- The channel whose update a lane runs: the one it serves, or the one it shadows (R298). -/
def chanOf (s : State) (n : Nat) : Option Nat :=
  match servedChan s n with
  | some c => some c
  | none => if spareLane s == some n then shadowedChan s else none
/-- A lane serves its channel. -/
def serves (s : State) (n : Nat) : Bool := (servedChan s n).isSome
/-- The lanes that run a channel: its own, and the spare that shadows it. -/
def lanesFor (s : State) (c : Nat) : List Nat :=
  laneOf s c :: (match spareLane s with
    | some n => if shadowedChan s = some c then [n] else []
    | none => [])

/-! ### Banks (R267, R268) -/

/-- The key of a lane bank word. -/
def laneKey (n : Nat) (b : Bool) (off : Nat) : Nat := 0x3000000 + (2 * n + if b then 1 else 0) * 256 + off
/-- A word of a lane's LIVE bank. -/
def laneLive (s : State) (n off : Nat) : Word := s.bank (laneKey n (s.lane n).live off)
/-- A word of a lane's NEXT bank. -/
def laneNext (s : State) (n off : Nat) : Word := s.bank (laneKey n (!(s.lane n).live) off)

/-- Coefficient j of a bank. -/
def coefOf (w : Nat → Word) (j : Nat) : Int := signed 16 ((w (128 + j / 2)).toNat / 2 ^ (16 * (j % 2)))
/-- The exponent of section x. -/
def expOf (w : Nat → Word) (x : Nat) : Nat := (w 160).toNat / 2 ^ (3 * x) % 8
/-- Header fields: R, OUT_CYC, WDL and K. -/
def outerRatio (w : Nat → Word) : Nat := [2, 4, 8, 8].getD ((w 161).toNat / 2 ^ 25 % 4) 8
def outCyc (w : Nat → Word) : Nat := (w 161).toNat / 2 ^ 16 % 256
def wdlOf (w : Nat → Word) : Nat := (w 161).toNat / 2 ^ 8 % 256
def progK (w : Nat → Word) : Nat := (w 161).toNat % 8

/-- Writes a coefficient of a lane's LIVE bank. -/
def putCoef (s : State) (n j : Nat) (v : Nat) : State :=
  let k := laneKey n (s.lane n).live (128 + j / 2)
  s.putBank k (State.putBits (s.bank k) ⟨0, 16 * (j % 2) + 15, 16 * (j % 2)⟩ v)
/-- Writes a section exponent of a lane's LIVE bank. -/
def putExp (s : State) (n x e : Nat) : State :=
  let k := laneKey n (s.lane n).live 160
  s.putBank k (State.putBits (s.bank k) ⟨0, 3 * x + 2, 3 * x⟩ e)

/-- The fields of an instruction (R254). -/
structure LInstr where
  op : Nat
  exp : Nat
  neg : Bool
  msel : Bool
  mul : Nat
  init : Nat
  ii : Nat
  opa : Nat
  opb : Nat
  outer : Bool
  dst : Nat
  id : Nat
  ds : Nat

/-- Instruction i of a bank. -/
def fetchLane (w : Nat → Word) (i : Nat) : LInstr :=
  let h := (w (2 * i + 1)).toNat
  let l := (w (2 * i)).toNat
  { op := bitsN h 31 27, exp := bitsN h 26 24, neg := bitN h 23, msel := bitN h 22, mul := bitsN h 21 16, init := bitsN h 15 14,
    ii := bitsN h 13 10, opa := bitsN h 9 5, opb := bitsN h 4 0, outer := bitN l 10, dst := bitsN l 9 8, id := bitsN l 7 4,
    ds := bitsN l 3 0 }

/-- The opcodes of R255. -/
def opNop : Nat := 0
def opMac : Nat := 1
def opMacd : Nat := 2
def opIntg : Nat := 3
def opWait : Nat := 4
def opOut : Nat := 5
def opSkipo : Nat := 6
def opEnd : Nat := 7

/-- Cycles per update: 640 / k. -/
def upcOf (k : Nat) : Nat := 640 / k

/-! ### The checks (R269) -/

/-- Check 1 at one instruction. -/
def legalInstr (x : LInstr) : Bool :=
  decide (x.op ≤ opEnd)
    && (!x.msel || decide (x.mul < 16))
    && (!(x.op = opMac || x.op = opMacd || x.op = opIntg) || decide (x.opa ≤ 0x14))
    && (x.op != opMacd || decide (x.opb ≤ 0x14))

/-- The instructions that are checked: up to and including the first END. -/
def checkedProg (w : Nat → Word) : List (Nat × LInstr) :=
  let all := (List.range 64).map fun i => (i, fetchLane w i)
  match all.find? fun e => e.2.op = opEnd with
  | some e => all.take (e.1 + 1)
  | none => all

/-- Check 2, one instruction after the other; the state is what WAIT, OUT and END have been seen. -/
def orderCheck : List (Nat × LInstr) → Bool → Bool → Option Nat
  | [], _, _ => some 0xFF
  | (i, x) :: r, sw, so =>
    if x.op = opWait then (if sw then some i else orderCheck r true so)
    else if x.op = opOut then (if !sw || so then some i else orderCheck r sw true)
    else if x.op = opEnd then (if so then none else some i)
    else orderCheck r sw so

/-- The first check a bank fails with multiplier code kc, and FIRST_BAD; (0, 0xFF) if it passes (R269). -/
def checkBank (w : Nat → Word) (kc : Nat) : Nat × Nat :=
  let prog := checkedProg w
  match prog.find? fun e => !legalInstr e.2 with
  | some e => (1, e.1)
  | none =>
    match orderCheck prog false false with
    | some i => (2, i)
    | none =>
      let at_ (op : Nat) : Nat := ((prog.find? fun e => e.2.op = op).map (·.1)).getD 0
      let iw := at_ opWait
      let io := at_ opOut
      let ie := at_ opEnd
      let within (i n x : Nat) : Bool := decide (i < x) && decide (x ≤ i + n)
      match prog.find? fun e => e.2.op = opSkipo
          && (decide (ie ≤ e.1 + e.2.mul) || within e.1 e.2.mul iw || within e.1 e.2.mul io) with
      | some e => (3, e.1)
      | none =>
        let upc := upcOf (kOfCode kc)
        if progK w != kc then (4, 0xFF)
        else if upc < outCyc w + 5 ∨ outCyc w ≤ wdlOf w then (5, 0xFF)
        else if wdlOf w < iw then (6, iw)
        else if outCyc w < wdlOf w + (io - iw - 1) then (6, io)
        else if upc - 1 < outCyc w + (ie - io - 1) then (6, ie)
        else (0, 0xFF)

/-- The LIVE bank of the lane that serves a channel passes R269. -/
def progOk (s : State) (c : Nat) : Bool := (checkBank (laneLive s (laneOf s c)) (s.get F.PWM_FSW_K_LIVE)).1 = 0
/-- The NEXT bank passes. -/
def nextOk (s : State) (c : Nat) : Bool := (checkBank (laneNext s (laneOf s c)) (s.get F.PWM_FSW_K_LIVE)).1 = 0

/-- The bank window pointer after a whole access: it wraps from 161 to 0 (R268). -/
def nextOff (o : Nat) : Nat := if 161 ≤ o then 0 else o + 1

/-- The channel's NEXT lane bank is frozen: between arming and activation of a commit (R47, R271). -/
def nextFrozen (s : State) (c : Nat) : Bool := s.get F.SCN_STAT_STATE = 1 && inMask s c

/-- A write through an LPE_PDATA alias (R268, R271), which a spare that shadows the channel takes as well (R298); OFFS advances also where
the write is ignored (R47). -/
def lanePdataWrite (s : State) (c : Nat) (v : Word) : State :=
  let o := s.get (F.LPE_PPTR_OFFS c)
  let s1 := if nextFrozen s c then s.raise G.SCN_NXT_LOCKED
    else (lanesFor s c).foldl (fun t n => t.putBank (laneKey n (!(s.lane n).live) o) v) s
  s1.set (F.LPE_PPTR_OFFS c) (nextOff o)
/-- A whole read through an LPE_PDATA alias. -/
def lanePdataRead (s : State) (c : Nat) : State :=
  let o := s.get (F.LPE_PPTR_OFFS c)
  (s.answer (laneNext s (laneOf s c) o)).set (F.LPE_PPTR_OFFS c) (nextOff o)
/-- A whole read through an LPE_LDATA alias. -/
def laneLdataRead (s : State) (c : Nat) : State :=
  let o := s.get (F.LPE_LPTR_LOFFS c)
  (s.answer (laneLive s (laneOf s c) o)).set (F.LPE_LPTR_LOFFS c) (nextOff o)

/-- A write of CH_MOD through the check of R273: loop mode is refused while the LIVE bank fails R269. A write that R143 refuses as well counts
both events. -/
def chModWrite (s : State) (c : Nat) (v : Word) : State :=
  if s.get (F.CH_MOD_SRC c) != 1 && bitsN v.toNat (F.CH_MOD_SRC c).hi (F.CH_MOD_SRC c).lo = 1 && !progOk s c then
    (s.raise (G.LPE_PROG_REFUSED c)).raiseIf (chModRefused s c v) G.PWM_MOD_REFUSED
  else writeChMod s c v

/-! ### Arithmetic and operands (R248 to R253) -/

/-- A store of ACC to a signal register (R250). -/
def narrow (acc : Int) : Int := satS 16 (rneShift acc 15)
/-- The saturated difference of MACD (R251). -/
def diff16 (a b : Int) : Int := satS 16 (a - b)

/-- The value of an operand code (R252). -/
def operand (x : LaneSt) (code : Nat) : Int :=
  if code < 16 then x.r.s.getD code 0
  else if code = 0x10 then x.ref
  else if code = 0x11 then x.vm
  else if code = 0x12 then x.im
  else if code = 0x13 then x.rff2
  else 0

/-- The product an instruction adds: multiplicand times operand, shifted by the exponent (R248), negated with NEG. -/
def productOf (w : Nat → Word) (x : LaneSt) (i : LInstr) (v : Int) : Int :=
  let m := if i.msel then x.r.s.getD (i.mul % 16) 0 else coefOf w i.mul
  let e := if i.msel then i.exp else expOf w (i.mul / 8)
  let p := m * v * 2 ^ e
  if i.neg then -p else p

/-- The starting value of ACC (R254). -/
def initOf (x : LaneSt) (i : LInstr) : Int :=
  if i.init = 0 then x.r.acc
  else if i.init = 1 then 0
  else if i.init = 2 then x.r.w.getD i.ii 0
  else x.r.s.getD i.ii 0 * 2 ^ 15

/-- The store of ACC after an operation (R250, R257). -/
def dstStore (lim : Int) (x : LaneSt) (i : LInstr) : LaneSt :=
  let acc := x.r.acc
  if i.dst = 0 then x
  else if i.dst = 1 then { x with r := { x.r with w := x.r.w.set i.id acc } }
  else if i.dst = 2 then { x with r := { x.r with s := x.r.s.set i.id (narrow acc) } }
  else
    let v := narrow acc
    let y := clampI (-lim) lim v
    let o := if lim < v then 1 else if v < -lim then 2 else 0
    { x with r := { x.r with s := x.r.s.set i.id y, sato := o }, ispRuns := x.ispRuns ++ [o != 0] }

/-- MAC (R255). -/
def macStep (w : Nat → Word) (lim : Int) (x : LaneSt) (i : LInstr) : LaneSt :=
  let acc := satS 40 (initOf x i + productOf w x i (operand x i.opa))
  dstStore lim { x with r := { x.r with acc := acc } } i

/-- MACD (R255): multiplicand and INIT are read before S[DS] is written (R256). -/
def macdStep (w : Nat → Word) (lim : Int) (x : LaneSt) (i : LInstr) : LaneSt :=
  let d := diff16 (operand x i.opa) (operand x i.opb)
  let acc := satS 40 (initOf x i + productOf w x i d)
  dstStore lim { x with r := { x.r with acc := acc, s := x.r.s.set i.ds d } } i

/-- INTG is frozen for a product (R258). -/
def intgFrozen (x : LaneSt) (outer : Bool) (p : Int) : Bool :=
  if outer then
    (decide (0 < p) && (x.r.sato = 1 || x.r.hiSeen)) || (decide (p < 0) && (x.r.sato = 2 || x.r.loSeen))
  else (decide (0 < p) && x.r.sati = 1) || (decide (p < 0) && x.r.sati = 2)

/-- INTG (R255, R258); `held` is the freeze of a standby without snapshots (R399). -/
def intgStep (w : Nat → Word) (lim : Int) (held : Bool) (x : LaneSt) (i : LInstr) : LaneSt :=
  let p := productOf w x i (operand x i.opa)
  let acc := satS 40 (x.r.w.getD i.ii 0 + p)
  let ws := if held || intgFrozen x i.outer p then x.r.w else x.r.w.set i.ii acc
  let r := { x.r with acc := acc, w := ws }
  let r2 := if i.outer then { r with hiSeen := false, loSeen := false } else r
  dstStore lim { x with r := r2 } i

/-- OUT (R259, R262): the value and its clamp. -/
def outStep (mlim : Int) (x : LaneSt) : LaneSt :=
  let v := narrow x.r.acc
  let o := if mlim < v then 1 else if v < -mlim then 2 else 0
  { x with
    r := { x.r with sati := o, hiSeen := x.r.hiSeen || o = 1, loSeen := x.r.loSeen || o = 2 }
    m := some (clampI (-mlim) mlim v)
    clamp := o }

/-! ### The update cycle (R261 to R266) -/

/-- Trace event bit b of a channel in this update. -/
def markEvent (s : State) (c b : Nat) : State := s.loopUp c fun x => { x with ev := x.ev ||| 2 ^ b }

/-- OVR_CONS after one more overrun; with the third in a row the loop-overrun trip falls due at the end of the update (R291). -/
def countOverrun (s : State) (c : Nat) : State :=
  let n := s.get (F.LPE_SLK_OVR_CONS c)
  let s1 := markEvent ((s.raise (G.LPEO_OVERRUN c)).set (F.LPE_SLK_OVR_CONS c) (min (n + 1) 3)) c 0
  s1.loopUp c fun x => { x with tripDue := x.tripDue || n = 2 }

/-- The loop-overrun trip request at the end of the update in which OVR_CONS reached 3 (R291). -/
def overrunTrip (s : State) (c : Nat) : State :=
  if (s.loopCh c).tripDue then
    gatePush ((s.loopUp c fun x => { x with tripDue := false }).raise (G.LPEO_OVR_TRIP c)) .gs1 [2, BitVec.ofNat 32 c, 1]
  else s

/-- A word that OUT presented in the update is taken back: out of GD5, or out of SHADOW, so that the update repeats its word (R160, R266). -/
def withdrawWord (s : State) (l : Nat) (w : Nat) : State :=
  let queued := s.gate .gd5
  let s1 : State := { s with gates := s.gates.set (gateIdx .gd5) (queued.filter fun q => q.head? != some (BitVec.ofNat 32 l)) }
  if queued.any (fun q => q.head? == some (BitVec.ofNat 32 l)) then s1
  else if s.get (F.MOD_CMPS_SHADOW l) = w then s1.set (F.MOD_STAT_PENDING l) 0 else s1

/-- An overrun after OUT delivers no value: the shapers' errors, m and the words go back, and the words of the update are withdrawn (R146,
R266). -/
def undoOut (s : State) (c : Nat) : State :=
  match (s.loopCh c).undo with
  | none => s
  | some u =>
    let x := s.loopCh c
    let s1 := (s.legUp (2 * c) fun g => { g with errs := u.1 }).legUp (2 * c + 1) fun g => { g with errs := u.2.1 }
    let s2 := if legFollows s (2 * c + 1) then s1 else withdrawWord s1 (2 * c + 1) x.wordB
    let s3 := withdrawWord s2 (2 * c) x.wordA
    let s4 := if paired s c then (s3.set (F.MOD_STAT_PENDING (2 * c + 2)) (s3.get (F.MOD_STAT_PENDING (2 * c)))).set
      (F.MOD_STAT_PENDING (2 * c + 3)) (s3.get (F.MOD_STAT_PENDING (2 * c + 1))) else s3
    s4.loopUp c fun x => { x with m := u.2.2.1, wordA := u.2.2.2.1, wordB := u.2.2.2.2, undo := none }

/-- A lane abandons its update (R266): its elements are restored, no value is delivered; the serving lane counts the overrun (R291). -/
def abandon (s : State) (n : Nat) : State :=
  let s1 := s.laneUp n fun x => { x with r := x.snap, phase := 4, m := none, clamp := 0, ispRuns := [] }
  match servedChan s n with
  | some c => countOverrun (undoOut s1 c) c
  | none => s1

/-- The lane of a channel that latched or stopped in the running update stops where it stands (R169, R186; DEDUCED, log entry
78). -/
def laneHalted (s : State) (n : Nat) : Bool := match chanOf s n with
  | some c => (s.pwmCh c).loop = 0
  | none => false

/-- Lane n is about to execute an instruction with this opcode (R255): it runs, and its LIVE bank holds the opcode at its program
place. -/
def laneAt (s : State) (n op : Nat) : Bool :=
  let x := s.lane n
  x.phase = 1 && !x.dead && !laneHalted s n && decide (x.pc < 64) && (fetchLane (laneLive s n) x.pc).op = op

/-- One instruction of one cycle: past cycle UPC - 1 the lane overruns (R266). -/
def oneCycle (s : State) (n op : Nat) (f : LaneSt → LInstr → LaneSt) : State :=
  if !laneAt s n op then s
  else
    let x := s.lane n
    if upcOf (kLive s) ≤ x.cycle then abandon s n
    else s.laneUp n fun x =>
      let y := f x (fetchLane (laneLive s n) x.pc)
      { y with pc := y.pc + 1, cycle := x.cycle + 1 }

/-- ISP_LIM and MLIM in force for a lane. -/
def ispLim (s : State) (n : Nat) : Int := match chanOf s n with
  | some c => s.inForce (F.LPE_LIM_ISP_LIM c)
  | none => 0x7FFF
def mLim (s : State) (n : Nat) : Int := match chanOf s n with
  | some c => s.inForce (F.LPE_LIM_MLIM c)
  | none => 0x7FFF

/-- The update is an outer update of a bank (R265). -/
def outerUpdate (s : State) (w : Nat → Word) : Bool := s.time.updInBlock % outerRatio w = 0

def laneNop (s : State) (n : Nat) : State := oneCycle s n opNop fun x _ => x
def laneMac (s : State) (n : Nat) : State := oneCycle s n opMac (macStep (laneLive s n) (ispLim s n))
def laneMacd (s : State) (n : Nat) : State := oneCycle s n opMacd (macdStep (laneLive s n) (ispLim s n))
def laneIntg (s : State) (n : Nat) : State :=
  oneCycle s n opIntg (intgStep (laneLive s n) (ispLim s n) (s.on F.TWN_STAT_FROZEN))
/-- SKIPO: outside outer updates the next MUL instructions are skipped, taking no cycle. -/
def laneSkipo (s : State) (n : Nat) : State :=
  let w := laneLive s n
  oneCycle s n opSkipo fun x i => if outerUpdate s w then x else { x with pc := x.pc + i.mul }

/-- The cycle in which an input's result of this update is usable, if it is known (R261, R289). -/
def inputReady (s : State) (i : Nat) : Option Nat :=
  let x := s.input i
  let en := enabledTriggers s i
  if en.isEmpty then some 0
  else if x.cur.isSome || x.lost then some x.usable
  else if !x.accepted && decide (en.length ≤ x.fired) then some x.usable
  else none

/-- The inputs a channel waits for (R261). -/
def waitInputs (s : State) (c : Nat) : List Nat := if paired s c then [2 * c, 2 * c + 1, 2 * c + 3] else [2 * c, 2 * c + 1]

/-- The cycle in which the last awaited result is usable, if every one is known. -/
def allReady (s : State) (c : Nat) : Option Nat :=
  (waitInputs s c).foldl (fun acc i =>
    match acc, inputReady s i with
    | some a, some b => some (max a b)
    | _, _ => none) (some 0)

/-- The result of an input in this update, the repeated one where it gave none. -/
def updateResult (s : State) (i : Nat) : Int := let x := s.input i; x.cur.getD x.last

/-- IM of a channel from input results (R260). -/
def imOf (s : State) (c : Nat) (f : Nat → Int) : Int :=
  if paired s c then satS 16 (f (2 * c + 1) + f (2 * c + 3)) else f (2 * c + 1)

/-- WAIT completes in a cycle not after WDL, or the lane overruns (R261, R266). -/
def waitDone (s : State) (n c at_ usable : Nat) : State :=
  if wdlOf (laneLive s n) < at_ then abandon s n
  else s.laneUp n fun x =>
    { x with phase := 1, pc := x.pc + 1, cycle := at_, waited := true, usable := usable,
             vm := updateResult s (2 * c), im := imOf s c (updateResult s) }

/-- WAIT (R261): if every result is usable it takes no cycle. -/
def laneWait (s : State) (n : Nat) : State :=
  match chanOf s n with
  | none => s
  | some c =>
    if !laneAt s n opWait then s
    else
      match allReady s c with
      | some u => if u ≤ (s.lane n).cycle then waitDone s n c (s.lane n).cycle u else s.laneUp n fun x => { x with phase := 2 }
      | none => s.laneUp n fun x => { x with phase := 2 }

/-- The awaited results become usable (R261). -/
def laneWaitComplete (s : State) (n : Nat) : State :=
  match chanOf s n with
  | none => s
  | some c =>
    if (s.lane n).phase != 2 || laneHalted s n then s
    else
      match allReady s c with
      | some u => waitDone s n c (max (s.lane n).cycle u) u
      | none => s

/-- OUT (R262, R263, R266): in cycle OUT_CYC, at the latest in the update's last one, or the lane overruns. The serving lane's value goes to the
noise shapers. -/
def laneOut (s : State) (n : Nat) : State :=
  if !laneAt s n opOut then s
  else
    let oc := outCyc (laneLive s n)
    if oc < (s.lane n).cycle || upcOf (kLive s) ≤ oc then abandon s n
    else
      let s1 := s.laneUp n fun x => { outStep (mLim s n) x with pc := x.pc + 1, cycle := oc + 1 }
      match servedChan s n with
      | none => s1
      | some c =>
        let m := (s1.lane n).m.getD 0
        let s2 := shapeChannel s1 c m
        let wa := (shape (u32 s) 1 m (shaperCoefs s) (s.leg (2 * c)).errs).1
        let wb := (shape (u32 s) (-1) m (shaperCoefs s) (s.leg (2 * c + 1)).errs).1
        s2.loopUp c fun x =>
          { x with m := m, wordA := wa, wordB := if legAd s (2 * c) then x.wordB else wb,
                   undo := some ((s.leg (2 * c)).errs, (s.leg (2 * c + 1)).errs, x.m, x.wordA, x.wordB) }

/-- END (R255): the program ends for this update. -/
def laneEnd (s : State) (n : Nat) : State := if laneAt s n opEnd then s.laneUp n fun x => { x with phase := 3 } else s

/-- A lane misses WDL, OUT_CYC or the end of the update (R266): one that runs and has not ended abandons it. -/
def laneOverrun (s : State) (n : Nat) : State :=
  if !laneHalted s n && ((s.lane n).phase = 1 || (s.lane n).phase = 2) then abandon s n else s

/-! ### Live coefficient writes and bank exchange (R270 to R277) -/

/-- A write of LPE_CWR (R274, R275). -/
def coefWrite (s : State) (c : Nat) (v : Word) : State :=
  let idx := bitsN v.toNat 29 24
  if idx = 63 ∨ (bitN v.toNat 23 = true ∧ idx / 8 = 7) then s.raise (G.LPE_CW_REFUSED c)
  else if 4 ≤ (s.loopCh c).queue.length then s.raise (G.LPE_CW_DROP c)
  else (s.wr (R.LPE_CWR c) (v &&& 0x3FF0FFFF#32)).loopUp c fun x => { x with queue := x.queue ++ [v] }

/-- One queued write is applied to a lane's LIVE bank. -/
def applyCoef (v : Word) (s : State) (n : Nat) : State :=
  let idx := bitsN v.toNat 29 24
  let s1 := putCoef s n idx (bitsN v.toNat 15 0)
  if bitN v.toNat 23 then putExp s1 n (idx / 8) (bitsN v.toNat 22 20) else s1

/-- The oldest queued write is applied at an update boundary (R274, R292). -/
def queueAtUpdate (s : State) (c : Nat) : State :=
  match (s.loopCh c).queue with
  | [] => s
  | v :: rest => (lanesFor s c).foldl (applyCoef v) (s.loopUp c fun x => { x with queue := rest })

/-- The banks of a channel exchange roles (R270): queued writes are discarded, each one counted. -/
def exchangeBanks (s : State) (c : Nat) : State :=
  let s1 := (lanesFor s c).foldl (fun t n => t.laneUp n fun x => { x with live := !x.live }) s
  let s2 := (s1.loopCh c).queue.foldl (fun t _ => t.raise (G.LPE_CW_DROP c)) s1
  s2.loopUp c fun x => { x with queue := [], bankDue := false }

/-- LPE_CTRL.SWAPNOW (R272). -/
def swapNow (s : State) (c : Nat) : State :=
  if chanStopped s c then s.set (F.LPE_CTRL_SWAPNOW c) 1 else (s.set (F.LPE_CTRL_SWAPNOW c) 0).raise (G.LPE_PROG_REFUSED c)

/-- The Marionette part of an activation: the NEXT bank is checked, and taken at the first update of the block (R270). -/
def laneActivate (s : State) (c : Nat) : State :=
  let s1 := markEvent s c 6
  if nextOk s1 c then s1.loopUp c fun x => { x with bankDue := true } else s1.raise (G.LPE_PROG_REFUSED c)

/-- SWAPNOW at the block boundary (R272). -/
def swapNowAtBlock (s : State) (c : Nat) : State :=
  if !s.on (F.LPE_CTRL_SWAPNOW c) then s
  else
    let s1 := s.set (F.LPE_CTRL_SWAPNOW c) 0
    if chanStopped s1 c && nextOk s1 c then s1.loopUp c fun x => { x with bankDue := true } else s1.raise (G.LPE_PROG_REFUSED c)

/-- kz of R277 for the LIVE exponent e7. -/
def kzOf (zout : Int) (ifs vfs : Word) (e7 : Nat) : Int :=
  let z := f32Mul (f32OfRat zout 1) 0x3A83126F#32
  let q := f32Div (f32Mul z ifs) vfs
  clampI (-32768) 32767 (f32ToFixed (f32Mul q (f32OfDyadic 1 (15 - e7))) 0)

/-- Coefficient 63 at a block boundary (R277), in every lane that runs the channel; LPE_ZOUT.KZ shows it. -/
def impedanceAtBlock (s : State) (c : Nat) : State :=
  let kz (t : State) (n : Nat) : Nat :=
    pattern 16 (kzOf (s.inForceS (F.LPE_ZOUT_ZOUT c)) (s.live (R.SNS_IFS c)) (s.live (R.SNS_VFS c)) (expOf (laneLive t n) 7))
  let s1 := (lanesFor s c).foldl (fun t n => putCoef t n 63 (kz t n)) s
  s1.set (F.LPE_ZOUT_KZ c) (kz s (laneOf s c))

/-- A write of LPE_ZOUT: values outside the range are stored at the nearer end (R278). -/
def writeZout (s : State) (c : Nat) (v : Word) : State :=
  storeCoded s (R.LPE_ZOUT c) (BitVec.ofNat 32 (pattern 16 (clampI (-500) 2000 (signed 16 v.toNat))))

/-- A write of LPE_PPTR or LPE_LPTR: values above 161 are stored as 0. -/
def writeLanePtr (s : State) (p : Nat) (v : Word) : State :=
  s.wr p (BitVec.ofNat 32 (if 161 < v.toNat % 256 then 0 else v.toNat % 256))

/-- LPE_STAT as read (R283); until an image is in, K_PROG shows its reset value (DESIGN CHOICE, log entry 85). -/
def laneStat (s : State) (c : Nat) : Word :=
  let n := laneOf s c
  let r := (s.lane n).r
  let b (x : Bool) : Nat := if x then 1 else 0
  let k := if s.sys.procs || s.sys.held then progK (laneLive s n) else 3
  BitVec.ofNat 32 (n * 2 ^ 24 + k * 2 ^ 16 + (s.loopCh c).queue.length * 2 ^ 8 + b (progOk s c) * 64
    + b r.loSeen * 32 + b r.hiSeen * 16 + r.sato * 4 + r.sati)

/-- LPE_PCHK as read (R269); until an image is in, it shows its reset value (DESIGN CHOICE, log entry 85). -/
def lanePchk (s : State) (c : Nat) : Word :=
  let r := if s.sys.procs || s.sys.held then checkBank (laneNext s (laneOf s c)) (s.get F.PWM_FSW_K_LIVE) else (0, 0xFF)
  BitVec.ofNat 32 (r.2 * 256 + r.1)

end Sys2Proof.Machine
end

