-- ==== Sys2Proof/Machine/LoopRun.lean ====
section
/-! DEFINITION. LoopRun.lean: the end and start of a lane's update, following-error supervisor, spare-lane shadowing, trace buffers
and test injection (08). -/

set_option Elab.async false

namespace Sys2Proof.Machine

/-- The state after an update of the spare lane's work. -/
def State.poolUp (s : State) (f : LanePool → LanePool) : State := { s with lanePool := f s.lanePool }

/-- The lane of a channel ran in the update that ends. -/
def laneRan (s : State) (n : Nat) : Bool := (s.lane n).phase != 0

/-! ### Slack and following error (R288, R293 to R296) -/

/-- Slack of a completed update (R288). -/
def countSlack (s : State) (c : Nat) : State :=
  let n := laneOf s c
  let k := (clampI 0 255 ((wdlOf (laneLive s n) : Int) - (s.lane n).usable)).toNat
  (((s.set (F.LPE_SLK_LAST c) k).set (F.LPE_SLK_MIN c) (min (s.get (F.LPE_SLK_MIN c)) k))).set (F.LPE_SLK_OVR_CONS c) 0

/-- The following-error supervisor at the end of a completed update in SWITCHING (R293 to R296). -/
def followError (s : State) (c : Nat) : State :=
  if !s.inForceB (F.LPE_FE_FE_EN c) || s.get (F.MOD_STAT_STATE (2 * c)) != modSwitching then s
  else
    let x := s.loopCh c
    let n := laneOf s c
    let r := (x.rLine.getD (s.inForce (F.LPE_FE_FE_DLY c)) []).getD (s.inForce (F.LPE_FE_FE_RS c)) 0
    let e := diff16 r (if s.inForceB (F.LPE_FE_FE_MS c) then (s.lane n).im else (s.lane n).vm)
    let s1 := s.loopUp c fun y => { y with efe := e }
    if x.swUpd < s.inForce (F.LPE_FELIM_FE_START c) || (s.inForceB (F.LPE_FE_FE_SAT c) && (s.lane n).clamp != 0) then s1
    else
      let isOver := decide (s.inForce (F.LPE_FELIM_FE_LIMIT c) < e.natAbs)
      let cnt := if isOver then min (s.get (F.LPE_FEST_FE_CNT c) + 1) 255 else 0
      let s2 := (s1.set (F.LPE_FEST_FE_PK c) (max (s.get (F.LPE_FEST_FE_PK c)) (min e.natAbs 0x7FFF))).set (F.LPE_FEST_FE_CNT c) cnt
      let s3 := s2.cond (G.LPEO_FE_OVER c) isOver
      if isOver && cnt = s.inForce (F.LPE_FE_FE_TIME c) then
        gatePush (markEvent (s3.raise (G.LPEO_FE_TRIP c)) c 1) .gs1 [1, BitVec.ofNat 32 c, 1]
      else s3

/-- LPE_FE: an FE_TIME of 0 is stored as 1 (R295). -/
def writeFe (s : State) (c : Nat) (v : Word) : State :=
  storeCoded s (R.LPE_FE c) (if v.toNat / 256 % 256 = 0 then v ||| 0x100#32 else v)

/-! ### The end of an update -/

/-- Lanes that have not reached END abandon the update (R266); one that stopped with its channel did not run in it (R186, R291). -/
def closeLane (s : State) (n : Nat) : State :=
  if laneHalted s n && (s.lane n).phase != 3 && (s.lane n).phase != 4 then s.laneUp n fun x => { x with phase := 0 } else laneOverrun s n

/-- The completed or abandoned update of a channel is judged: clamps (R282), slack, supervisor, overrun trip, the delay line of r. -/
def judgeUpdate (s : State) (c : Nat) : State :=
  let n := laneOf s c
  let x := s.lane n
  let sw := s.get (F.MOD_STAT_STATE (2 * c)) = modSwitching
  let s0 := if x.phase = 0 then s
    else s.loopUp c fun y => { y with ucnt := y.ucnt + 1, rLine := (x.r.s :: y.rLine).take 16 }
  let s1 :=
    if x.phase != 3 then s0
    else
      let a := (x.ispRuns.foldl (fun t b => t.cond (G.LPE_ISP_SAT c) b) s0).cond (G.LPE_OUT_SAT c) (x.clamp != 0)
      let b := if x.clamp != 0 then markEvent a c 4 else a
      followError ((countSlack b c).loopUp c fun y => { y with res := some (x.vm, x.im) }) c
  let s2 := if s1.on (F.CH_TRST_CBC_NOW (governor s c)) then markEvent s1 c 3 else s1
  let lat := latched s c
  let s3 := overrunTrip (if lat && !(s.loopCh c).wasLatched then markEvent s2 c 2 else s2) c
  s3.loopUp c fun y => { y with wasLatched := lat, swUpd := if sw then y.swUpd + 1 else 0 }

/-! ### Shadowing (R297 to R305) -/

/-- A copy of everything a lane holds, with its banks, to another lane (R298). -/
def copyLane (s : State) (src dst : Nat) : State :=
  let s1 := { s with lanes := s.lanes.set dst { s.lane src with dead := false } }
  (List.range 2).foldl (fun t b =>
    (List.range 162).foldl (fun t o => t.putBank (laneKey dst (b = 1) o) (t.bank (laneKey src (b = 1) o))) t) s1

/-- The condition NO_SPARE of R305: no spare is left and no replaced lane is in its self-test (log entry 31). -/
def showSpare (s : State) : State :=
  s.cond G.LANE_NO_SPARE ((spareLane s).isNone && !(s.lanePool.afterSwap && s.lanePool.selfTest.isSome))

/-- A lane is retired (R301, R302, R305). -/
def retireLaneNow (s : State) (n : Nat) : State :=
  queueRetire ((s.set F.LANE_POOL_RETIRED (s.get F.LANE_POOL_RETIRED ||| 2 ^ n)).raise G.LANE_RETIRE) retireLane n

/-- The spare serves a channel and the replaced lane runs its self-test (R302). -/
def spareServes (s : State) (c sp : Nat) : State :=
  let old := laneOf s c
  let s1 := (((s.set (F.LPE_STAT_LANE c) sp).set F.LANE_POOL_SPARE 0x1F).set F.LANE_SHD_CONFIRM 1).raise G.LANE_LANE_SWAP
  showSpare ((s1.laneUp old fun x => { x with phase := 0, dead := false }).poolUp fun _ =>
    { shadow := none, selfTest := some old, afterSwap := true, confirmDue := some c, confirm := none })

/-- A mismatch is counted and latched in LANE_LAST (R302, R303). -/
def countMismatch (s : State) (c : Nat) (ue : Bool) : State :=
  let q := (s.get F.LANE_LAST_SEQ + 1) % 65536
  let w := q * 65536 + (if ue then 8192 else 0) + laneOf s c * 256 + c
  (s.raise G.LANE_MISMATCH).wr R.LANE_LAST (BitVec.ofNat 32 w)

/-- A mismatch at the end of an update: on schedule the spare takes over; during a confirmation the serving lane is retired (R302). -/
def mismatch (s : State) (c : Nat) : State :=
  match spareLane s with
  | none => s
  | some sp =>
    let s1 := countMismatch s c false
    if s1.lanePool.confirm.isSome then
      let bad := laneOf s1 c
      let s2 := ((s1.set (F.LPE_STAT_LANE c) sp).set F.LANE_POOL_SPARE 0x1F).set F.LANE_SHD_CONFIRM 0
      let s3 := retireLaneNow ((s2.laneUp bad fun x => { x with phase := 0 }).raise G.LANE_LANE_SWAP) bad
      showSpare (s3.poolUp fun _ => {})
    else spareServes s1 c sp

/-- The two lanes of the shadowed channel differ at the end of an update (R299): the channel. -/
def differing (s : State) : Option Nat :=
  match spareLane s, shadowedChan s with
  | some sp, some c =>
    let a := s.lane (laneOf s c)
    let b := s.lane sp
    if s.get (F.MOD_STAT_STATE (2 * c)) = modSwitching && a.phase != 0 && (a.m != b.m || a.r != b.r) then some c else none
  | _, _ => none

/-- A comparison ends at the update in which its channel leaves SWITCHING (R300). -/
def endComparison (s : State) : State :=
  match spareLane s, shadowedChan s with
  | some sp, some c =>
    if s.get (F.MOD_STAT_STATE (2 * c)) != modSwitching then
      (s.laneUp sp fun x => { x with phase := 0 }).poolUp fun p => { p with shadow := none, confirm := none }
    else s
  | _, _ => s

/-- A copy of the serving lane for a shadow that opens at a block boundary. -/
def openShadow (s : State) (c sp : Nat) : State := copyLane s (laneOf s c) sp

/-- The slot that the running block belongs to opens, where it is not open already (R297, R298, R300). -/
def shadowSlotOpen (s : State) : State :=
  let slot := s.time.block / 12000 % 17
  if !s.on F.LANE_SHD_SHD_EN || s.lanePool.slot = some slot || s.on F.LANE_SHD_CONFIRM then s
  else
    match spareLane s with
    | none => s
    | some sp =>
      let s1 := (s.set F.LANE_SHD_SLOT slot).laneUp sp fun x => { x with phase := 0 }
      if slot < 16 ∧ s.get (F.MOD_STAT_STATE (2 * slot)) = modSwitching ∧ oddHalf s slot = false then
        (openShadow s1 slot sp).poolUp fun p => { p with shadow := some slot, selfTest := none, afterSwap := false, slot := some slot }
      else s1.poolUp fun p => { p with shadow := none, selfTest := some sp, afterSwap := false, upds := 0, slot := some slot }

/-- A self-test of 4096 updates ends (R301, R302). -/
def selfTestDone (s : State) (n : Nat) (pass : Bool) : State :=
  if s.lanePool.selfTest ≠ some n ∨ s.lanePool.upds < 4096 then s
  else if s.lanePool.afterSwap then
    if pass then
      showSpare ((s.set F.LANE_POOL_SPARE n).poolUp fun p => { p with selfTest := none, afterSwap := false })
    else
      showSpare ((retireLaneNow (s.set F.LANE_SHD_CONFIRM 0) n).poolUp fun _ => {})
  else if pass then s.poolUp fun p => { p with selfTest := none }
  else showSpare ((retireLaneNow (s.set F.LANE_POOL_SPARE 0x1F) n).poolUp fun p => { p with selfTest := none, shadow := none })

/-- The confirmation shadow starts at a block boundary (R302). -/
def confirmAtBlock (s : State) : State :=
  match s.lanePool.confirmDue, spareLane s with
  | some c, some sp =>
    if s.lanePool.selfTest.isSome then s
    else (openShadow s c sp).poolUp fun p => { p with confirmDue := none, confirm := some c, blocks := 1 }
  | _, _ => s

/-- The confirmation shadow runs: neither the self-test before it nor its own start is still to come. -/
def confirming (s : State) : Bool := s.on F.LANE_SHD_CONFIRM && s.lanePool.selfTest.isNone && s.lanePool.confirmDue.isNone

/-- The confirmation shadow ends after its 12,000 blocks (R302). -/
def confirmEnd (s : State) : State :=
  if confirming s && decide (12000 ≤ s.lanePool.blocks) then
    let s1 := match spareLane s with
      | some sp => s.laneUp sp fun x => { x with phase := 0 }
      | none => s
    (s1.set F.LANE_SHD_CONFIRM 0).poolUp fun p => { p with confirm := none, slot := none }
  else s

/-- One more block of the confirmation shadow; it ends with the last (R302). -/
def confirmCount (s : State) : State :=
  if !confirming s then s
  else if 12000 ≤ s.lanePool.blocks then confirmEnd s
  else s.poolUp fun p => { p with blocks := p.blocks + 1 }

/-- The lane abandons the update it runs and every later one (R303). -/
def abandonDead (s : State) (n : Nat) : State := laneOverrun (s.laneUp n fun x => { x with dead := true }) n

/-- An uncorrectable error in a serving lane (R303): the spare serves at once, with its own state where it shadows the channel, else
with a copy (DESIGN CHOICE, log entry 32); without a spare the lane abandons every update. -/
def laneUe (s : State) (n : Nat) : State :=
  match servedChan s n with
  | none => s
  | some c =>
    let s1 := markEvent (countMismatch s c true) c 5
    match spareLane s1 with
    | some sp =>
      let s2 := if shadowedChan s1 = some c then s1 else copyLane s1 n sp
      if s1.lanePool.confirm = some c then
        let s3 := ((s2.set (F.LPE_STAT_LANE c) sp).set F.LANE_POOL_SPARE 0x1F).set F.LANE_SHD_CONFIRM 0
        showSpare ((retireLaneNow ((s3.laneUp n fun x => { x with phase := 0 }).raise G.LANE_LANE_SWAP) n).poolUp fun _ => {})
      else spareServes s2 c sp
    | none => abandonDead s1 n

/-- FSWAP is refused (R304). -/
def fswapRefused (s : State) : Bool :=
  (spareLane s).isNone || s.on F.LANE_SHD_CONFIRM || s.get (F.MOD_STAT_STATE (2 * s.get F.LANE_SHD_FCH)) != modSwitching

/-- LANE_SHD.FSWAP (R304): due at the next block boundary, or refused. -/
def forcedSwap (s : State) : State :=
  if fswapRefused s then (s.set F.LANE_SHD_FSWAP 0).raise G.LANE_FSWAP_REFUSED else s.set F.LANE_SHD_FSWAP 1

/-- The forced swap at a block boundary. -/
def fswapAtBlock (s : State) : State :=
  if !s.on F.LANE_SHD_FSWAP then s
  else
    let s1 := s.set F.LANE_SHD_FSWAP 0
    match spareLane s1 with
    | some sp =>
      let c := s1.get F.LANE_SHD_FCH
      if fswapRefused s1 then s1.raise G.LANE_FSWAP_REFUSED else spareServes (openShadow s1 c sp) c sp
    | none => s1.raise G.LANE_FSWAP_REFUSED

/-- The schedule stops with SHD_EN cleared (R297). -/
def shadowEnable (s : State) : State :=
  if s.on F.LANE_SHD_SHD_EN then s
  else s.poolUp fun p => { p with shadow := none, slot := none, selfTest := if p.afterSwap then p.selfTest else none }

/-! ### Trace buffers (R306 to R312) -/

/-- The state after an update of one trace buffer. -/
def State.trcUp (s : State) (b : Nat) (f : TraceBuf → TraceBuf) : State := { s with trace := s.trace.modify b f }
/-- One trace buffer. -/
def State.trc (s : State) (b : Nat) : TraceBuf := s.trace.getD b {}

/-- TRC_CFG.STATE. -/
def trcArmed : Nat := 1
def trcPost : Nat := 2
def trcDone : Nat := 3

/-- A buffer enters a state; TRC_CTRL.ARM reads 1 in ARMED and POST. -/
def trcEnter (s : State) (b st : Nat) : State := (s.set (F.TRC_CFG_STATE b) st).setB (F.TRC_CTRL_ARM b) (st = trcArmed || st = trcPost)
/-- A buffer records. -/
def trcBusy (s : State) (b : Nat) : Bool := s.get (F.TRC_CFG_STATE b) = trcArmed || s.get (F.TRC_CFG_STATE b) = trcPost

/-- TRC_CTRL.ARM (R308). -/
def traceArm (s : State) (b : Nat) : State :=
  trcEnter (((s.set (F.TRC_IDX_WR_IDX b) 0).set (F.TRC_IDX_WRAPPED b) 0).trcUp b fun _ => {}) b trcArmed
/-- TRC_CTRL.FORCE (R309). -/
def traceForce (s : State) (b : Nat) : State :=
  if s.get (F.TRC_CFG_STATE b) = trcArmed then s.trcUp b fun x => { x with trig := true, fired := true } else s
/-- TRC_CTRL.STOP (R310). -/
def traceStop (s : State) (b : Nat) : State := trcEnter s b trcDone

/-- A write of TRC_CTRL. -/
def writeTrcCtrl (s : State) (b : Nat) (v : Word) : State :=
  let s1 := if bitN v.toNat 0 then traceArm s b else s
  let s2 := if bitN v.toNat 2 then traceForce s1 b else s1
  if bitN v.toNat 1 then traceStop s2 b else s2

/-- A write of TRC_CFG, TRC_NODE0, TRC_NODE1 or TRC_TRIG is ignored while the buffer records (R310). -/
def writeTrc (s : State) (b p : Nat) (v : Word) : State := if trcBusy s b then s.raise G.TRC_CFG_BUSY else storeCoded s p v

/-- The value of a node (R307), 16 bits. -/
def nodeValue (s : State) (c code : Nat) : Int :=
  let x := s.lane (laneOf s c)
  let l := s.loopCh c
  if code < 16 then x.r.s.getD code 0
  else if code = 0x10 then x.ref
  else if code = 0x11 then x.vm
  else if code = 0x12 then x.im
  else if code = 0x13 then x.rff2
  else if code = 0x15 then l.m
  else if code = 0x16 then l.wordA
  else if code = 0x17 then l.wordB
  else if code = 0x18 then l.efe
  else if 0x20 ≤ code ∧ code < 0x30 then narrow (x.r.w.getD (code - 0x20) 0)
  else 0

/-- Node codes 0 to 6 of a buffer. -/
def nodeCode (s : State) (b i : Nat) : Nat :=
  if i < 4 then (s.rd (R.TRC_NODE0 b)).toNat / 2 ^ (8 * i) % 256 else (s.rd (R.TRC_NODE1 b)).toNat / 2 ^ (8 * (i - 4)) % 256

/-- An entry as four words, word 0 holding bits [127:96] (R306). -/
def traceEntry (s : State) (b c : Nat) (trg : Bool) : List Word :=
  let x := s.lane (laneOf s c)
  let l := s.loopCh c
  let o (y : Bool) (k : Nat) : Nat := if y then 2 ^ k else 0
  let head := l.ucnt % 256 * 256 + o (bitN l.ev 0) 7 + o (outerUpdate s (laneLive s (laneOf s c))) 6 + x.r.sati * 16 + x.r.sato * 4
    + o trg 1 + o (bitN l.ev 3) 0
  let n (i : Nat) : Nat := pattern 16 (nodeValue s c (nodeCode s b i))
  [BitVec.ofNat 32 (head * 65536 + n 6), BitVec.ofNat 32 (n 5 * 65536 + n 4), BitVec.ofNat 32 (n 3 * 65536 + n 2),
    BitVec.ofNat 32 (n 1 * 65536 + n 0)]

/-- The trigger condition of a buffer in this update, but for TSRC 0xA (R309); N0 is tested on recorded entries. -/
def trcCondition (s : State) (b c : Nat) (recorded : Bool) : Bool :=
  let t := s.get (F.TRC_TRIG_TSRC b)
  let lv := s.getS (F.TRC_TRIG_LEVEL b)
  let v := signed 16 (pattern 16 (nodeValue s c (nodeCode s b 0)))
  let ev (k : Nat) : Bool := bitN (s.loopCh c).ev k
  match (s.trc b).prev with
  | some p =>
    if t = 1 then recorded && decide (p < lv) && decide (lv ≤ v)
    else if t = 2 then recorded && decide (lv < p) && decide (v ≤ lv)
    else rest t lv v ev recorded
  | none => rest t lv v ev recorded
where
  /-- The sources that need no earlier entry. -/
  rest (t : Nat) (lv v : Int) (ev : Nat → Bool) (recorded : Bool) : Bool :=
    if t = 3 then recorded && decide (lv.natAbs < v.natAbs)
    else if 4 ≤ t ∧ t ≤ 8 then ev (t - 4)
    else if t = 9 then ev 5
    else if t = 0xB then ev 6
    else false

/-- The channel a buffer traces. -/
def trcChan (s : State) (b : Nat) : Nat := s.get (F.TRC_CFG_CH b)

/-- A buffer records this update: every 2^DEC-th one in which the lane runs (R308). -/
def trcDue (s : State) (b : Nat) : Bool :=
  trcBusy s b && laneRan s (laneOf s (trcChan s b)) && ((s.trc b).dec + 1) % 2 ^ s.get (F.TRC_CFG_DEC b) = 0

/-- The buffers that trigger in this update; TSRC 0xA follows its source buffer, through at most 16 links. -/
def trcFires (s : State) : List Bool :=
  let own := (List.range 16).map fun b => (s.trc b).fired ||
    (s.get (F.TRC_CFG_STATE b) = trcArmed && trcCondition s b (trcChan s b) (trcDue s b))
  (List.range 16).foldl (fun f _ =>
    f.mapIdx fun b x => x || (s.get (F.TRC_CFG_STATE b) = trcArmed && s.get (F.TRC_TRIG_TSRC b) = 0xA
      && f.getD (s.get (F.TRC_TRIG_TBUF b)) false)) own

/-- One entry is written: to the payload of this update, or dropped when the path cannot take it (R308, R309, R311). -/
def trcWrite (s : State) (b : Nat) (full : Bool) (out : List Word) : State × List Word :=
  let c := trcChan s b
  let st := s.get (F.TRC_CFG_STATE b)
  let v := signed 16 (pattern 16 (nodeValue s c (nodeCode s b 0)))
  if full then ((s.trcUp b fun x => { x with prev := some v }).raise G.TRC_TRC_DROP, out)
  else
    let i := s.get (F.TRC_IDX_WR_IDX b)
    let trg := st = trcArmed && (s.trc b).trig
    let e := traceEntry s b c trg
    let s1 := (s.set (F.TRC_IDX_WR_IDX b) ((i + 1) % 2048)).trcUp b fun x => { x with prev := some v }
    let s2 := if i = 2047 then s1.set (F.TRC_IDX_WRAPPED b) 1 else s1
    let n := s2.get (F.TRC_CFG_POST b)
    let s3 :=
      if trg then
        let t := s2.set (F.TRC_IDX_TRIG_IDX b) i
        if n = 0 then trcEnter t b trcDone else (trcEnter t b trcPost).trcUp b fun x => { x with post := n }
      else if st = trcPost then
        let t := s2.trcUp b fun x => { x with post := x.post - 1 }
        if (s2.trc b).post ≤ 1 then trcEnter t b trcDone else t
      else s2
    (s3, out ++ (1#32 :: BitVec.ofNat 32 b :: BitVec.ofNat 32 i :: e))

/-- Every trace buffer at the end of an update; the entries go through GL2 together. -/
def traceAtUpdate (s : State) : State :=
  let f := trcFires s
  let s1 : State := { s with trace := s.trace.mapIdx fun b x => { x with trig := x.trig || f.getD b false, fired := false } }
  let full := decide (gateCapacity ≤ (s.gate .gl2).length)
  let r := (List.range 16).foldl (fun (a : State × List Word) b =>
    let due := trcDue a.1 b
    let ran := trcBusy a.1 b && laneRan a.1 (laneOf a.1 (trcChan a.1 b))
    let q := if due then trcWrite a.1 b full a.2 else a
    (if ran then q.1.trcUp b fun x => { x with dec := x.dec + 1 } else q.1, q.2)) (s1, [])
  let s2 : State := { r.1 with loops := r.1.loops.map fun l => { l with ev := 0 } }
  if r.2.isEmpty then s2 else gatePush s2 .gl2 r.2

/-- The key of a trace word. -/
def traceKey (b e w : Nat) : Nat := 0x6000000 + (b * 2048 + e) * 4 + w

/-- Trace entries arrive through GL2. -/
def traceStore (s : State) (n : Nat) (ws : List Word) : State :=
  match n, ws with
  | n + 1, _ :: b :: i :: w0 :: w1 :: w2 :: w3 :: rest =>
    let k := traceKey b.toNat i.toNat 0
    traceStore ((((s.putBank k w0).putBank (k + 1) w1).putBank (k + 2) w2).putBank (k + 3) w3) n rest
  | _, _ => s

/-- A whole read of TRC_RDATA (R312). -/
def traceRead (s : State) : State :=
  let b := s.get F.TRC_RPTR_BUF
  let e := s.get F.TRC_RPTR_ENTRY
  let w := s.get F.TRC_RPTR_WORD
  let s1 := if trcBusy s b then (s.answer 0).raise G.TRC_RD_BUSY else s.answer (s.bank (traceKey b e w))
  if w = 3 then (s1.set F.TRC_RPTR_WORD 0).set F.TRC_RPTR_ENTRY ((e + 1) % 2048) else s1.set F.TRC_RPTR_WORD (w + 1)

/-! ### Supervisor resets and injection (R288, R296, R313) -/

/-- LPE_OCTL.CLR_PK. -/
def clrPk (s : State) (c : Nat) : State := s.set (F.LPE_FEST_FE_PK c) 0
/-- LPE_OCTL.CLR_MIN. -/
def clrMin (s : State) (c : Nat) : State := s.set (F.LPE_SLK_MIN c) 0xFF
/-- A write of LPE_OCTL. -/
def writeOctl (s : State) (c : Nat) (v : Word) : State :=
  let s1 := if bitN v.toNat 1 then clrPk s c else s
  if bitN v.toNat 0 then clrMin s1 c else s1

/-- Injection starts and stops at block boundaries (R313). -/
def injectionAtBlock (s : State) (c : Nat) : State :=
  if !s.inForceB (F.LPE_INJ_INJ_EN c) then s.loopUp c fun x => { x with injOn := false }
  else if (s.loopCh c).injOn then s
  else s.loopUp c fun x => { x with injOn := true, injNeg := false, injCnt := 0 }

/-- After 16 × HALF updates the square injection changes sign (R313). -/
def injectionToggle (s : State) (c : Nat) : State :=
  let x := s.loopCh c
  if x.injOn && s.inForceB (F.LPE_INJ_SHAPE c) && decide (16 * max (s.inForce (F.LPE_INJ_HALF c)) 1 ≤ x.injCnt) then
    s.loopUp c fun x => { x with injNeg := !x.injNeg, injCnt := 0 }
  else s

/-- The injected signal j of the update that starts. -/
def injected (s : State) (c : Nat) : Int :=
  let x := s.loopCh c
  let a := s.inForceS (F.LPE_INJ_AMP c)
  if !x.injOn then 0 else if s.inForceB (F.LPE_INJ_SHAPE c) && x.injNeg then -a else a

/-! ### The start of an update -/

/-- RFF2: min(RFF, 0x7FFF) of the rail of the channel (R239, R252). -/
def rff2Of (s : State) (c : Nat) : Int :=
  (min ((s.rd (0x1C0 + 4 * s.inForce (F.SNS_CFG_RAIL_SEL c))).toNat / 65536) 0x7FFF : Nat)

/-- One lane starts the update of its channel (R246, R253). -/
def startLane (s : State) (n : Nat) : State :=
  match chanOf s n with
  | none => s.laneUp n fun x => { x with phase := 0 }
  | some c =>
    if (s.pwmCh c).loop = 0 || oddHalf s c then s.laneUp n fun x => { x with phase := 0 }
    else
      let prev := (s.loopCh c).res.getD ((s.input (2 * c)).last, imOf s c fun i => (s.input i).last)
      let ref := satS 16 (interpOut (kLive s) (s.loopCh c).line (s.loopCh c).age + injected s c)
      s.laneUp n fun x =>
        let r0 : LaneRegs := if (s.pwmCh c).loop = 1 then {} else x.r
        let r : LaneRegs := { r0 with acc := 0 }
        { x with r := r, snap := r, pc := 0, cycle := 0, phase := 1, waited := false, ref := ref, rff2 := rff2Of s c,
                 vm := prev.1, im := prev.2, usable := 0, m := none, clamp := 0, ispRuns := [] }

/-- A channel whose lane starts from its initial state (R247): the delay line of r, the counts of R291 and R295. Until the lane has completed an
update, VM and IM before WAIT hold the results of the update before the start (DESIGN CHOICE, log entry 88): none of R290 exists yet. -/
def freshLoop (s : State) (c : Nat) : State :=
  if (s.pwmCh c).loop != 1 then s
  else
    ((s.loopUp c fun x =>
      { x with rLine := [], efe := 0, tripDue := false,
               res := some ((s.input (2 * c)).last, imOf s c fun i => (s.input i).last) }).set (F.LPE_FEST_FE_CNT c) 0).set (F.LPE_SLK_OVR_CONS c) 0

/-- Every lane at the start of an update: the interpolators advance, injection counts, and the lanes of running channels start. -/
def lanesStart (s : State) : State :=
  let s1 : State := { s with loops := s.loops.map fun l => { l with undo := none, injCnt := if l.injOn then l.injCnt + 1 else 0 } }
  let s2 := (List.range 16).foldl freshLoop s1
  let s3 := (List.range 17).foldl startLane s2
  { s3 with lanePool := { s3.lanePool with upds := if s3.lanePool.selfTest.isSome then min (s3.lanePool.upds + 1) 4096 else 0 },
            loops := s3.loops.mapIdx fun c l => if oddHalf s3 c then l else { l with age := min (l.age + 1) 255 },
            pwm := s3.pwm.map fun p => { p with loop := if p.loop = 1 then 2 else p.loop } }

/-- The end of an update in the LOOP island: lanes close, updates are judged, the buffers record, and the two lanes of the shadowed
channel are compared. -/
def lanesEnd (s : State) : State :=
  let s1 := (List.range 17).foldl closeLane s
  let s2 := (List.range 16).foldl judgeUpdate s1
  let s3 := match differing s2 with
    | some c => mismatch (traceAtUpdate (markEvent s2 c 5)) c
    | none => traceAtUpdate s2
  endComparison s3

/-- The boundary's own work on programs: queued writes, then exchanged banks and, in the first update of a block, the impedance
coefficient (R270, R274, R277). -/
def programsAtUpdate (s : State) : State :=
  let s1 := (List.range 16).foldl (fun t c =>
    let t1 := queueAtUpdate t c
    if (t1.loopCh c).bankDue then exchangeBanks t1 c else t1) s
  if s.time.updInBlock = 0 then (List.range 16).foldl impedanceAtBlock s1 else s1

/-- The block boundary's work in the LOOP island. -/
def loopAtBlock (s : State) : State :=
  let s1 := confirmCount ((List.range 16).foldl (fun t c => injectionAtBlock (swapNowAtBlock t c) c) s)
  shadowSlotOpen (confirmAtBlock (fswapAtBlock s1))

end Sys2Proof.Machine
end

