-- ==== Sys2Proof/Machine/Vent.lean ====
section
/-! DEFINITION. Vent.lean: the Ventriloquist's work units, cone and thermal models, identification, pilot tone, overrun and fallback
(09), and the protection gain (R350 to R357). -/

set_option Elab.async false

namespace Sys2Proof.Machine

/-- The state after an update of a channel's models. -/
def State.modelUp (s : State) (c : Nat) (f : VentModel → VentModel) : State := s.ventUp c fun x => { x with m := f x.m }
/-- The state after an update of a channel's models and of their checkpoint alike: a result that belongs to a block boundary stays where the
unit that started there is abandoned (R340; DEDUCED, log entry 71). -/
def State.modelBoth (s : State) (c : Nat) (f : VentModel → VentModel) : State :=
  s.ventUp c fun x => { x with m := f x.m, ck := f x.ck }
/-- The state after an update of a core. -/
def State.coreUp (s : State) (k : Nat) (f : VentCore → VentCore) : State :=
  { s with vent := { s.vent with cores := s.vent.cores.modify k f } }
/-- One core. -/
def State.core (s : State) (k : Nat) : VentCore := s.vent.cores.getD k {}
/-- The core of a channel (R316). -/
def coreOf (c : Nat) : Nat := c / 8
/-- STOPPED of a core (R346). -/
def coreStopped (s : State) (k : Nat) : Bool := s.on (if k = 0 then F.VENT_STAT_STOPPED0 else F.VENT_STAT_STOPPED1)

/-! ### Inputs (R317, R319) -/

/-- A measured word as binary32 in physical units: Q1.15 times the full scale of the sense input (R214). -/
def measured (fs : Word) (v : Word16) : Word := f32Mul (f32OfDyadic (signed 16 v.toNat) (-15)) fs

/-- The newest n elements of a list that grows at its end. -/
def newest {α : Type} (n : Nat) (l : List α) : List α := l.drop (l.length - n)

/-- The tap samples of a unit arrive through GD1: the Music Box core, then 8 samples for each of its channels (R317). -/
def tapArrives (s : State) (ws : List Word) : State :=
  { s with vent := { s.vent with chans := s.vent.chans.mapIdx fun c x =>
      if c / 4 = (ws.headD 0).toNat then { x with tapsIn := newest 8 (x.tapsIn ++ (ws.drop (1 + 8 * (c % 4))).take 8) } else x } }

/-- The periods of a sweep point (R366): its frequency, settling samples and measurement length. -/
def sweepFreq (s : State) (c k : Nat) : Word :=
  let lo := f32OfRat (s.get (F.DIA_SWCFG_F_LO c)) 1
  let hi := f32OfRat (s.get (F.DIA_SWCFG2_F_HI c)) 1
  f32Mul lo (f32Pow (f32Div hi lo) (f32Div (f32OfRat k 1) (f32OfRat (s.get (F.DIA_SWCFG_NPTS_M1 c)) 1)))
/-- f_k as a rational number: units of 2^-149. -/
def freqUnits (f : Word) : Nat := (f32Units f).toNat
/-- Settling samples: max(4 / f, 0.020 s) rounded up. -/
def settleSamples (f : Word) : Nat := max (ceilDiv (384000 * 2 ^ 149) (max (freqUnits f) 1)) 1920
/-- Measured periods: round(192,000 × N / f), N = ceil(max(4, 0.05 f)). -/
def measPeriods (f : Word) : Nat :=
  let n := max 4 (ceilDiv (freqUnits f) (20 * 2 ^ 149))
  (rneDiv ((192000 * n * 2 ^ 149 : Nat)) (max (freqUnits f) 1)).toNat

/-- A value of 192 kHz period n enters a single-bin DFT at f (R366): Σ v cos(2π f n / 192,000) and Σ v sin(2π f n / 192,000), in binary32
(DEDUCED, log entry 9). -/
def dftStep (f : Word) (n : Nat) (a : Word × Word) (v : Word16) : Word × Word :=
  let y := f32OfDyadic (signed 16 v.toNat) (-15)
  let turn : Int := (freqUnits f : Int) * n
  (f32Add a.1 (f32Mul y (cosTurn turn (192000 * 2 ^ 149))), f32Add a.2 (f32Mul y (sinTurn turn (192000 * 2 ^ 149))))

/-- A measured value of one channel arrives through GD4: it is collected, SUMI2 and the second's sum take its square (R317, R319,
R337), and a sweep measurement takes the pair (R366). -/
def measArrives (s : State) (ws : List Word) (c : Nat) : State :=
  let v : Word16 := (ws.getD (2 * c) 0).setWidth 16
  let i : Word16 := (ws.getD (2 * c + 1) 0).setWidth 16
  let a := measured (s.live (R.SNS_IFS c)) i
  let f := sweepFreq s c (s.ventCh c).sweep.point
  s.ventUp c fun x =>
    let sw := if x.sweep.phase = 5 && decide (x.sweep.meas < measPeriods f) then
        { x.sweep with meas := x.sweep.meas + 1, vDft := dftStep f x.sweep.meas x.sweep.vDft v, iDft := dftStep f x.sweep.meas x.sweep.iDft i }
      else x.sweep
    { x with measIn := newest 16 (x.measIn ++ [(v, i)]), sumI2 := f32Add x.sumI2 (f32Mul a a),
             secI2 := f32Add x.secI2 (f32Mul a a), sweep := sw }

/-- A 192 kHz word of GD4. -/
def measAll (s : State) (ws : List Word) : State := (List.range 16).foldl (fun t c => measArrives t ws c) s

/-! ### The cone model (R325) -/

/-- Σ cj x^j for coefficients c4 … c0 of the bank at offset o, by Horner's rule. -/
def polyAt (w : Nat → Word) (o : Nat) (x : Word) : Word :=
  [3, 2, 1, 0].foldl (fun a j => f32Add (f32Mul a x) (w (o + j))) (w (o + 4))
/-- Σ j cj x^(j-1). -/
def dpolyAt (w : Nat → Word) (o : Nat) (x : Word) : Word :=
  [3, 2, 1].foldl (fun a (j : Nat) => f32Add (f32Mul a x) (f32Mul (f32OfRat j 1) (w (o + j)))) (f32Mul (f32OfRat 4 1) (w (o + 4)))

/-- 0.05, 0.001 and h = 1/192,000 as binary32. -/
def c005 : Word := 0x3D4CCCCD#32
def c0001 : Word := 0x3A83126F#32
def hStep : Word := f32OfRat 1 192000
def c1000 : Word := f32OfRat 1000 1

/-- x within ±XPOLY. -/
def xClamp (w : Nat → Word) (x : Word) : Word := f32MinOf (f32MaxOf x (f32Neg (w 23))) (w 23)
/-- Bl, Kms and Le at xe, Lp at x (R325). -/
def blAt (w : Nat → Word) (m : VentModel) (xe : Word) : Word :=
  f32MaxOf (f32Mul m.sB (polyAt w 6 xe)) (f32Mul (f32Mul c005 m.sB) (w 6))
def kmsAt (w : Nat → Word) (m : VentModel) (xe : Word) : Word :=
  f32MaxOf (f32Mul m.sK (polyAt w 11 xe)) (f32Mul (f32Mul c005 m.sK) (w 11))
def leAt (w : Nat → Word) (m : VentModel) (xe : Word) : Word := f32Mul (f32MaxOf (f32Mul m.sL (polyAt w 16 xe)) c0001) c0001
def lpAt (w : Nat → Word) (m : VentModel) (x xe : Word) : Word :=
  if f32Lt (w 23) (f32Abs x) then 0 else f32Mul m.sL (dpolyAt w 16 xe)

/-- ReT of a coil temperature: RE0 (1 + ALPHA (Tc - T0)) (R329). -/
def reOfTemp (w : Nat → Word) (tc : Word) : Word := f32Mul (w 3) (f32Add f32One (f32Mul (w 5) (f32Sub tc (w 4))))
/-- The ReT that governs the cone instances. -/
def reTOf (w : Nat → Word) (m : VentModel) : Word := m.reT.getD (reOfTemp w m.tc)

/-- One 192 kHz step of a cone instance driven by u (R325). -/
def coneStepOf (w : Nat → Word) (m : VentModel) (k : Cone) (u : Word) : Cone :=
  let xe := xClamp w k.x
  let bl := blAt w m xe
  let km := kmsAt w m xe
  let lp := lpAt w m k.x xe
  let g := f32Div hStep (leAt w m xe)
  let num := f32Add k.i (f32Mul g (f32Sub (f32Sub u (f32Mul bl k.v)) (f32Mul (f32Mul k.i lp) k.v)))
  let i := f32Div num (f32Add f32One (f32Mul g (reTOf w m)))
  let rms := m.rms.getD (w 22)
  let f := f32Add (f32Sub (f32Sub (f32Mul bl i) (f32Mul km k.x)) (f32Mul rms k.v))
    (f32Mul (f32Mul (f32Mul 0x3F000000#32 i) i) lp)
  let v := f32Add k.v (f32Div (f32Mul hStep f) (f32Mul (w 21) c0001))
  { x := f32Add k.x (f32Mul (f32Mul hStep v) c1000), v := v, i := i }

/-- The LIVE parameters of a channel. -/
def spkW (s : State) (c : Nat) : Nat → Word := spkParam s c

/-! ### The pilot tone (R336, R337) -/

/-- The pilot voltage at a sample index with ramp position pos of 9600. -/
def pilotVolt (s : State) (c : Nat) (n : Int) (pos : Nat) : Word :=
  if pos = 0 then 0
  else
    f32Mul (f32Mul (f32OfRat pos 9600) (spkParam s c 40)) (sinTurn (f32Units (spkParam s c 39) * n) (96000 * 2 ^ 149))

/-- The ramp position after j samples of the block, or before it began for j below zero (R336). -/
def pilotRamp (x : VentChan) (j : Int) : Nat :=
  let up := if 0 ≤ j then x.pilot else x.pilotWas
  (clampI 0 9600 (if up then x.pilotPos + j else x.pilotPos - j)).toNat

/-- The gate of the gated tone after a whole second (R337): it opens at the second quiet second in a row and closes at a loud one. -/
def pilotGate (x : VentChan) (iMin rms : Word) : Bool × Nat :=
  let quiet := if f32Lt rms iMin then x.quiet + 1 else 0
  (if f32Lt (f32Mul (f32OfRat 2 1) iMin) rms then false else x.gate || decide (2 ≤ quiet), quiet)

/-- The switch of the tone at a block boundary: a whole second moves the gate (R337), one of which the device has not seen every block does
not (DEDUCED, log entry 9); a sweep holds the tone off (R364). -/
def pilotAtBlock (s : State) (c : Nat) : State :=
  let x := s.ventCh c
  let base := modEn s c && s.get (F.MOD_STAT_STATE (2 * c)) = modSwitching
  let second := s.time.block % 12000 = 0
  let g := if !second then (x.gate, x.quiet)
    else if x.secBlocks + 1 = 12000 then pilotGate x (spkParam s c 35) (f32Sqrt (f32Div x.secI2 (f32OfRat 192000 1)))
    else (x.gate, 0)
  let want := base && (pilotMode s c = 1 || pilotMode s c = 2 && g.1)
  let held := x.sweep.phase != 0 && x.sweep.phase != 7
  let pos := pilotRamp x 8
  let on := want && !held
  (s.ventUp c fun x => { x with pilotPos := pos, pilot := on, pilotWas := x.pilot, gate := g.1, quiet := g.2,
                                secBlocks := if second then 0 else x.secBlocks + 1, secI2 := if second then 0 else x.secI2 }).setB
    (F.SPK_STAT_PILOT_ON c) (on || 0 < pos)

/-! ### Cone steps of a unit (R325 to R328, R332, R333) -/

/-- The tap samples a unit works on, from the one before its first (R326). -/
def unitTaps (x : VentChan) : List Word := x.m.lastTap :: x.taps

/-- The pilot voltage of the predictive instance at its tap j (R326, R336): P(n) of the sample n at which that tap reaches the envelope, as
the tone's present switch foretells it. -/
def pilotAhead (s : State) (c j : Nat) : Word :=
  let d : Int := (j : Int) + (s.mbCh c).la - 9
  pilotVolt s c (8 * s.time.block + d) (pilotRamp (s.ventCh c) (d + 1))

/-- The resistance estimator after a period with voltage u, velocity v, Bl, Le and measured current i (R332):
e = u - Bl v - d(Le i)/dt; both sums decay by e^(-h / RE_TAU). The derivative is the difference to the period before (DEDUCED, log
entry 9). -/
def rePeriod (tau : Word) (m : VentModel) (u v bl le i : Word) : VentModel :=
  let flux := f32Mul le i
  let e := f32Sub (f32Sub u (f32Mul bl v)) (f32Div (f32Sub flux m.reFlux) hStep)
  let keep := f32Exp (f32Neg (f32Div hStep tau))
  { m with reNum := f32Add (f32Mul keep m.reNum) (f32Mul e i), reDen := f32Add (f32Mul keep m.reDen) (f32Mul i i), reFlux := flux,
           reI2 := f32Add m.reI2 (f32Mul i i) }

/-- What a period gives the scale fit (R333): the bank's shapes at the tracking excursion, without the scale factors in use. -/
def fitData (w : Nat → Word) (u i : Word) (k : Cone) : List Word :=
  let xe := xClamp w k.x
  [w 33, u, i, k.x, k.v, polyAt w 6 xe, polyAt w 11 xe, polyAt w 16 xe, dpolyAt w 16 xe, w 21]

/-- One 192 kHz period of a channel's unit: both instances advance, the residual enters the window, and the estimators take the
period. -/
def conePeriod (s : State) (c : Nat) : State :=
  let x := s.ventCh c
  let m := x.m
  if 16 ≤ m.steps || coreStopped s (coreOf c) || (s.core (coreOf c)).ue then s
  else
    let w := spkW s c
    let j := m.steps / 2
    let t := unitTaps x
    let p := if m.steps % 2 = 0 then t.getD j 0 else f32Div (f32Add (t.getD j 0) (t.getD (j + 1) 0)) (f32OfRat 2 1)
    let up := f32Add (f32Mul (w 2) p) (pilotAhead s c j)
    let pr := coneStepOf w m m.pred up
    let mv := x.meas.getD m.steps (0, 0)
    let u := measured (s.live (R.SNS_VFS c)) mv.1
    let i := measured (s.live (R.SNS_IFS c)) mv.2
    let tr := coneStepOf w m m.track u
    let xe := xClamp w tr.x
    let fits := idEn s c && m.steps % 8 = 7 && decide (64 ≤ (s.core (coreOf c)).sinceLost) && !f32Lt (w 23) (f32Abs tr.x)
    let fit := if fits then Config.fitIn m.fitTok (fitData w u i tr) else m.fitTok
    s.modelUp c fun m0 =>
      let m := rePeriod (w 32) m0 u tr.v (blAt w m0 xe) (leAt w m0 xe) i
      { m with pred := pr, track := tr, hist := ((pr.x, pr.v, pr.i) :: m.hist).take 768, steps := m.steps + 1,
               v2 := f32Add m.v2 (f32Mul tr.v tr.v), fitTok := fit,
               pairs := ((i, tr.i) :: m.pairs).take 192, u2 := f32Add m.u2 (f32Mul u u), i2 := f32Add m.i2 (f32Mul i i),
               xpk := f32MaxOf m.xpk (f32Abs tr.x), blkPk := f32MaxOf m.blkPk (f32Abs tr.x) }

/-- The rest of a channel's 16 periods. -/
def coneRest (s : State) (c : Nat) : State := (List.range 16).foldl (fun t _ => conePeriod t c) s

/-! ### The thermal model (R329) -/

/-- The ambient temperature in °C. -/
def tAmb (s : State) : Word := f32OfRat (s.inForceS F.VENT_TAMB_TAMB) 16

/-- One thermal step at the end of a completed unit. -/
def thermalStep (s : State) (c : Nat) : State :=
  let x := s.ventCh c
  let m := x.m
  let w := spkW s c
  let n := f32OfRat (max x.blocks 1) 1
  let dt := f32Div n (f32OfRat 12000 1)
  let reT := reOfTemp w m.tc
  let p := f32Div (f32Mul reT x.sumI2) (f32Mul (f32OfRat 16 1) n)
  let vrms := f32Sqrt (f32Div m.v2 (f32OfRat 16 1))
  let rv := f32Div (w 25) (f32Add f32One (f32Mul (w 29) vrms))
  let q := f32Div (f32Sub m.tc m.tm) rv
  let tc := f32Add m.tc (f32Div (f32Mul dt (f32Sub p q)) (w 26))
  let tm := f32Add m.tm (f32Div (f32Mul dt (f32Sub q (f32Div (f32Sub m.tm (tAmb s)) (w 27)))) (w 28))
  s.ventUp c fun x =>
    { x with sumI2 := 0, blocks := 0,
             m := { m with tc := tc, tm := tm, reT := some reT, power := p, vrms := vrms, v2 := 0 } }

/-! ### The protection gain (R350 to R356) -/

/-- The static holding current S(y) (R352). -/
def holdCurrent (w : Nat → Word) (m : VentModel) (y : Word) : Word :=
  let ye := xClamp w y
  f32Div (f32Mul (kmsAt w m ye) y) (blAt w m ye)

/-- The candidate of one excursion value. -/
def gxOf (w : Nat → Word) (m : VentModel) (xl x : Word) : Word :=
  if !f32Lt xl (f32Abs x) then f32One
  else
    let neg := f32Lt x 0
    let sg (y : Word) : Word := if neg then f32Neg y else y
    let c0 := f32Div xl (f32Abs x)
    let sx := holdCurrent w m x
    if f32Lt 0 (sg sx) then f32MinOf c0 (f32Div (holdCurrent w m (sg xl)) sx) else c0

/-- gx of one sample from its two values, clamped to 0 to 1. -/
def gxSample (w : Nat → Word) (m : VentModel) (xl a b : Word) : Word :=
  f32MaxOf 0 (f32MinOf f32One (f32MinOf (gxOf w m xl a) (gxOf w m xl b)))

/-- 10^(n / (20 · d)) for register values. -/
def dbRatio (n : Int) (nd d : Nat) : Word := f32Pow10 (f32Div (f32OfRat n nd) (f32OfRat (20 * d) 1))

/-- gC (R356). -/
def compGain (s : State) (c : Nat) (reT : Word) : Word :=
  if s.inForceB (F.DIA_PCFG_PC_EN c) then
    f32MinOf (f32Div reT (spkParam s c 3)) (f32Pow10 (f32Div (f32OfRat (s.inForce (F.DIA_PCFG_PC_MAX c)) 2) (f32OfRat 20 1)))
  else f32One

/-- The thermal limiter is active (R354). -/
def limiterActive (s : State) (c : Nat) (m : VentModel) : Bool :=
  let knee := f32OfRat (s.inForce (F.DIA_TCFG_KNEE c)) 1
  s.inForceB (F.DIA_PCFG_TH_EN c) &&
    (f32Le (f32Sub (spkParam s c 30) knee) m.tc || f32Le (f32Sub (spkParam s c 31) knee) m.tm)

/-- tT of R354 with the thermal state left by the unit before. -/
def thermalTarget (s : State) (c : Nat) (m : VentModel) (gC : Word) : Word :=
  if !limiterActive s c m then f32One
  else
    let w := spkW s c
    let tau := f32OfRat (s.inForce (F.DIA_TCFG_TAU_T c)) 1
    let rv := f32Div (w 25) (f32Add f32One (f32Mul (w 29) m.vrms))
    let pc := f32Add (f32Div (f32Sub (w 30) m.tm) rv) (f32Div (f32Mul (w 26) (f32Sub (w 30) m.tc)) tau)
    let pm := f32Add (f32Div (f32Sub (w 31) (tAmb s)) (w 27)) (f32Div (f32Mul (w 28) (f32Sub (w 31) m.tm)) tau)
    let pt := f32MaxOf 0 (f32MinOf pc pm)
    let pu := f32Div m.power (f32MaxOf m.g2 (f32OfRat 1 10000))
    if f32Units m.power = 0 then f32One else f32MinOf f32One (f32Div (f32Sqrt (f32Div pt pu)) gC)

/-- gT moves toward its target (R355). -/
def moveGain (s : State) (c : Nat) (gT tT : Word) : Word :=
  let fall := f32Mul gT (dbRatio (-(s.inForce (F.DIA_TCFG_T_FALL c) : Int)) 10 12000)
  let rise := f32Mul gT (dbRatio (s.inForce (F.DIA_TCFG_T_RISE c)) 10 12000)
  if f32Lt tT gT then f32MaxOf tT fall else f32MinOf tT rise

/-- The smoothing weights w[0] to w[We] (R350). -/
def smoothW (we : Nat) : List Word :=
  (List.range (we + 1)).map fun (j : Nat) =>
    f32Div (f32Sub f32One (cosTurn ((j + 1 : Nat) : Int) (we + 2))) (f32OfRat ((we + 2 : Nat) : Int) 1)

/-- gr of the unit's new samples, newest first (R350). -/
def grNew (gTC rrel : Word) : List Word → List Word → List Word
  | [], h => h
  | gx :: rest, h => grNew gTC rrel rest (f32MinOf (f32MinOf gx gTC) (f32Mul (h.headD f32One) rrel) :: h)

/-- The hold h of the sample k before the last one delivered, from the gr history, newest first, whose newest value belongs to the sample
H - 1 after that one (R350, R351). -/
def holdOf (h : Int) (we : Nat) (gr : List Word) (k : Nat) : Word :=
  let at_ (t : Nat) : Word := gr.getD ((h - 1) + k - t).toNat f32One
  (List.range (we + 1)).foldl (fun a t => f32MinOf a (at_ t)) (at_ 0)

/-- The holds that a unit's 8 gains smooth, newest first, formed anew from the gr history, so that a new W acts at once (R350, R357). -/
def holdsOf (h : Int) (we : Nat) (gr : List Word) : List Word := (List.range (we + 8)).map (holdOf h we gr)

/-- The gains of the 8 delivered samples in order: weighted sums over the past holds (R350). -/
def gainsOf (we : Nat) (holds : List Word) : List Word :=
  (List.range 8).map fun (j : Nat) =>
    (List.zip (smoothW we) (holds.drop (7 - j))).foldl (fun a p => f32Add a (f32Mul p.1 p.2)) 0

/-- The values of gr that holds of the longest W and look-ahead need (R351). -/
def grKept : Nat := 752

/-- DIA_STAT.TLIM: gT below 1.0 (R373). -/
def showTlim (s : State) (c : Nat) : State := s.setB (F.DIA_STAT_TLIM c) (f32Lt (s.ventCh c).m.gT f32One)

/-- gT starts at 1.0 when the channel starts (R355). -/
def gainRestart (s : State) (c : Nat) : State := showTlim (s.modelBoth c fun m => { m with gT := f32One }) c

/-- The protection gain of one channel for a unit: its 8 values, and the state after (R350 to R357). -/
def protect (s : State) (c : Nat) (prev : VentModel) : State × List Word :=
  let m := (s.ventCh c).m
  if !modEn s c then (s, List.replicate 8 f32One)
  else
    let w := spkW s c
    let xl := f32Mul (f32OfRat (s.inForce (F.DIA_PCFG_XMARG c)) 100) (w 24)
    let xs := (m.hist.take 16).reverse
    let gx := (List.range 8).map fun j =>
      if s.inForceB (F.DIA_PCFG_XP_EN c) then
        gxSample w m xl ((xs.getD (2 * j) (0, 0, 0)).1) ((xs.getD (2 * j + 1) (0, 0, 0)).1)
      else f32One
    let gC := compGain s c (reTOf w prev)
    let gT := moveGain s c m.gT (thermalTarget s c prev gC)
    let gTC := f32Mul gT gC
    let rrel := dbRatio (s.inForce (F.DIA_PCFG_REL c)) 1 96000
    let gr := (grNew gTC rrel gx m.gr).take grKept
    let h : Int := ((s.mbCh c).la : Int) - 16
    let we := (max 0 (min (s.inForce (F.DIA_PCFG_W c) : Int) (h - 1))).toNat
    let holds := holdsOf h we gr
    let out := gainsOf we holds
    let g2 := f32Div (out.foldl (fun a g => f32Add a (f32Mul g g)) 0) (f32OfRat 8 1)
    (showTlim (s.modelUp c fun m =>
      { m with gT := gT, gC := gC, gr := gr, hold := holds, g := out.getLastD m.g, g2 := g2,
               gmin := out.foldl f32MinOf m.gmin, gxmin := gx.foldl f32MinOf m.gxmin }) c, out)

/-! ### Work units, overrun and fallback (R317, R340 to R346) -/

/-- The unit of one channel: the rest of its periods, its gains, its thermal step. -/
def unitOf (s : State) (c : Nat) : State × List Word :=
  let s1 := coneRest s c
  let r := protect s1 c (s1.ventCh c).m
  let s2 := thermalStep r.1 c
  (s2.ventUp c fun x => { x with okUnits := if modEn s c then x.okUnits + 1 else 0,
                                 m := { x.m with lastTap := x.taps.getLastD x.m.lastTap } }, r.2)

/-- LOAD of a core keeps the largest number of cycles of a block, in units of 256, rounded and saturated (R5, R6, R339). -/
def showLoad (s : State) (k cycles : Nat) : State :=
  let f := if k = 0 then F.VENT_STAT_LOAD0 else F.VENT_STAT_LOAD1
  s.set f (max (s.get f) (satU 8 (rneDiv (cycles : Int) 256)))

/-- The cycles a core has in a block (R338). -/
def blockCycles : Nat := 51200

/-- A core's work unit completes (R317): its 8 gain values for each channel go through GD2 together, and VENT_STAT keeps its load
(R339). -/
def ventUnit (s : State) (k cycles : Nat) : State :=
  if !s.sys.procs || (s.core k).done || (s.core k).ue || coreStopped s k then s
  else
    let r := (List.range 8).foldl (fun (a : State × List Word) j =>
      let q := unitOf a.1 (8 * k + j)
      (q.1, a.2 ++ q.2)) (s, [])
    gatePush ((showLoad r.1 k cycles).coreUp k fun x => { x with done := true }) .gd2 (BitVec.ofNat 32 k :: r.2)

/-- Gain values arrive through GD2. -/
def gainsArrive (s : State) (ws : List Word) : State :=
  let k := (ws.headD 0).toNat
  { s with mb := { s.mb with chans := s.mb.chans.mapIdx fun c ch =>
      if c / 8 = k then { ch with gainsIn := ch.gainsIn ++ (ws.drop (1 + 8 * (c % 8))).take 8 } else ch } }

/-- OVR_CONS of a core. -/
def ovrCons (k : Nat) : Fld := if k = 0 then F.VENT_STAT_OVR_CONS0 else F.VENT_STAT_OVR_CONS1

/-- A channel's gain comes from the fallback limiter from now on: g starts at the last gain received, ms at 0 without a model (R344). -/
def enterFallback (s : State) (c mode : Nat) : State :=
  let ch := s.mbCh c
  (s.set (F.SPK_STAT_MODE c) mode).mbUp c fun x =>
    { x with fbGain := (ch.gains ++ ch.gainsIn).getLastD ch.gain, fbMs := if mode = modeNoModel then 0 else x.fbMs }

/-- The judgement of a core's unit at a block boundary (R340 to R343, R346): one that delivered its gains is complete, also where an
uncorrectable error stopped the core after it; an overrun restores the checkpoint, which the last completed unit left; the fourth in a row
brings FALLBACK. A core that ran to the boundary used every cycle of its block (R339). -/
def coreAtBlock (s : State) (k : Nat) : State :=
  let x := s.core k
  if !s.sys.procs then s
  else if x.done then
    (s.set (ovrCons k) 0).coreUp k fun y => { y with sinceLost := min (y.sinceLost + 1) 64 }
  else
    let n := min (s.get (ovrCons k) + 1) 7
    let s0 := if x.ue || coreStopped s k then s else showLoad s k blockCycles
    let s1 := ((s0.raise G.VENT_V_OVERRUN).set (ovrCons k) n).coreUp k fun y => { y with sinceLost := 0 }
    let back (c : Nat) (v : VentChan) : VentChan := if coreOf c = k then { v with m := v.ck, okUnits := 0 } else v
    let s2 : State := { s1 with vent := { s1.vent with chans := s1.vent.chans.mapIdx back } }
    if n = 4 then
      (List.range 8).foldl (fun t j =>
        let c := 8 * k + j
        if modEn t c && t.get (F.SPK_STAT_MODE c) != modeFallback then enterFallback t c modeFallback else t)
        (s2.raise G.VENT_FB_ENTER)
    else s2

/-- The mode of a channel at a block boundary (R343 to R345, R644). -/
def modeAtBlock (s : State) (c : Nat) : State :=
  let x := s.ventCh c
  let mode := s.get (F.SPK_STAT_MODE c)
  if !modEn s c then (if mode = modeNoModel then s else enterFallback s c modeNoModel)
  else if mode = modeNoModel then s.set (F.SPK_STAT_MODE c) (if x.ran || coreStopped s (coreOf c) then modeFallback else modeModel)
  else if mode = modeFallback then
    if 96 ≤ x.okUnits then (s.set (F.SPK_STAT_MODE c) modeLeaving).ventUp c fun y => { y with leave := 12 } else s
  else if mode = modeLeaving then
    if x.leave ≤ 1 then s.set (F.SPK_STAT_MODE c) modeModel else s.ventUp c fun y => { y with leave := y.leave - 1 }
  else s

/-- The new parameter bank of a channel at an activation (R324). -/
def speakerActivate (s : State) (c : Nat) : State :=
  let x := s.ventCh c
  let same := spkLiveWord s c 1 == spkNextWord s c 1
  let s1 := clampXmax s c (!x.live)
  s1.ventUp c fun y =>
    let m := y.m
    let m1 := if same then m else
      { m with pred := {}, track := {}, sB := f32One, sK := f32One, sL := f32One, rms := none, fitTok := 0 }
    { y with live := !y.live, m := m1 }

/-- The inputs of a unit are those of the block that ended, whether one starts or not (R317); the next thermal step covers that block
(R329). -/
def unitInputs (s : State) : State :=
  { s with vent := { s.vent with chans := s.vent.chans.map fun x =>
      { x with taps := x.tapsIn, tapsIn := [], meas := x.measIn, measIn := [], blocks := x.blocks + 1 } } }

/-- A new unit starts and its checkpoint is taken (R317, R340). -/
def unitStart (s : State) : State :=
  let chans := s.vent.chans.map fun x =>
    let m := { x.m with steps := 0, reBlocks := x.m.reBlocks + 1 }
    { x with winBlocks := x.winBlocks + 1, ran := true, m := { m with blkPk := 0 }, ck := m }
  { s with vent := { s.vent with chans := chans, cores := s.vent.cores.map fun y => { y with done := false, ue := false } } }

/-- An uncorrectable error stops a core (R346), whose units count as overrun from then on: it restarts at the next block boundary, but
for the third error within 720,000 blocks. -/
def ventCoreUe (s : State) (k : Nat) : State :=
  if coreStopped s k then s
  else
    let recent := ((s.core k).ues.filter fun b => s.time.block < b + 720000) ++ [s.time.block]
    let s1 := (s.raise G.VENT_CORE_UE).coreUp k fun y => { y with ue := true, ues := recent }
    if 3 ≤ recent.length then (s1.set (if k = 0 then F.VENT_STAT_STOPPED0 else F.VENT_STAT_STOPPED1) 1).raise G.VENT_CORE_STOP
    else s1

/-- VENT_CTRL.CLR_LOAD. -/
def clrLoad (s : State) : State := (s.set F.VENT_STAT_LOAD0 0).set F.VENT_STAT_LOAD1 0

/-! ### Estimates (R330, R334, R335) -/

/-- x lies within a fraction r of a reference (the accepted deviation of R334). -/
def within (r ref x : Word) : Bool := f32Le (f32Abs (f32Sub x ref)) (f32Mul r (f32Abs ref))

/-- The correction of the thermal model by an estimate that passes its range test (R330). -/
def correctThermal (s : State) (c : Nat) (est : Word) : State :=
  let w := spkW s c
  let m := (s.ventCh c).m
  let tcm := f32Add (w 4) (f32Div (f32Sub (f32Div est (w 3)) f32One) (w 5))
  let d0 := f32Sub tcm m.tc
  let low := f32Mul (f32Neg 0x3DCCCCCD#32) (w 38)
  let lim := f32Lt d0 low
  let d := if lim then low else d0
  (s.modelBoth c fun m => { m with tc := f32Add m.tc (f32Mul (w 36) d), tm := f32Add m.tm (f32Mul (w 37) d) }).raiseIf lim
    (G.SPK_CORR_LIM c)

/-- A resistance estimate every 1200 blocks, if the RMS current of its window is at least I_EMIN (R330, R332). -/
def reEstimate (s : State) (c : Nat) : State :=
  let m := (s.ventCh c).m
  if m.reBlocks < 1200 then s
  else
    let w := spkW s c
    let rms := f32Sqrt (f32Div m.reI2 (f32OfRat (16 * m.reBlocks) 1))
    let s1 := s.modelBoth c fun m => { m with reBlocks := 0, reI2 := 0 }
    if f32Lt rms (w 35) then s1
    else
      let est := f32Div m.reNum m.reDen
      let s2 := s1.modelBoth c fun m => { m with reEst := est }
      if corrEn s c && within (w 34) (reTOf w m) est then correctThermal s2 c est else s2

/-- The reason code of a published fit (R334). -/
def idReason (s : State) (c : Nat) (e : Nat → Word) : Nat :=
  let w := spkW s c
  let m := (s.ventCh c).m
  let r := w 34
  if (s.core (coreOf c)).sinceLost < 64 then 1
  else if Config.fitSpread m.fitTok then 2
  else if !(within r (reTOf w m) (e 0) && within r f32One (e 1) && within r f32One (e 2) && within r f32One (e 3)
      && within r (w 22) (e 4)) then 3
  else 0

/-- A value moves toward a target by at most a step. -/
def moveToward (step x target : Word) : Word :=
  if f32Lt (f32Add x step) target then f32Add x step else if f32Lt target (f32Sub x step) then f32Sub x step else target

/-- Adoption of an accepted result (R335). -/
def adopt (s : State) (c : Nat) (e : Nat → Word) : State :=
  let w := spkW s c
  let step := f32OfRat 1 100
  let m := (s.ventCh c).m
  let r0 := m.rms.getD (w 22)
  let r1 := moveToward (f32Mul step (w 22)) r0 (e 4)
  let b := moveToward step m.sB (e 1)
  let k := moveToward step m.sK (e 2)
  let l := moveToward step m.sL (e 3)
  let moving := b != m.sB || k != m.sK || l != m.sL || r1 != r0
  (s.modelBoth c fun m => { m with sB := b, sK := k, sL := l, rms := some r1 }).set (F.SPK_STAT_ADAPTING c) (if moving then 1 else 0)

/-- The fit publishes its result (R334, R349): at block indices that are multiples of 12,000, with ID_EN. -/
def idPublish (s : State) (c : Nat) : State :=
  if s.time.block % 12000 != 0 || !idEn s c then s
  else
    let e (j : Nat) : Word := Config.fitOut (s.ventCh c).m.fitTok j
    let reason := idReason s c e
    let q := (s.get (F.SPK_IDR0_SEQ c) + 1) % 65536
    let s1 := ((s.set (F.SPK_IDR0_SEQ c) q).set (F.SPK_IDR0_REASON c) reason).raiseIf (reason != 0) (G.SPK_ID_REJECT c)
    let s2 := (List.range 5).foldl (fun t j => t.wr (R.SPK_IDR0 c + 4 + 4 * j) (e j)) s1
    if reason = 0 ∧ adaptOn s c = true then adopt s2 c e else s2.set (F.SPK_STAT_ADAPTING c) 0

/-! ### Latched results (R349, R370) -/

/-- What an unlisted latch reads as: the register's reset value. -/
def latchDefault (k : Nat) : Word := resetWord (k % 0x100000)

/-- A read of a first register latches its n companions for one side: 0 the host window, 1 the fabric. -/
def latchRead (s : State) (side p n : Nat) : State :=
  let s1 := (List.range n).foldl (fun (t : State) j =>
    let k := p + 4 + 4 * j
    { t with vent := { t.vent with latch := kvPut latchDefault t.vent.latch (side * 0x100000 + k) (t.rd k) } }) s
  s1.answer (s.rd p)

/-- A latched companion as read. -/
def latchedWord (s : State) (side p : Nat) : Word := kvGet latchDefault s.vent.latch (side * 0x100000 + p)

end Sys2Proof.Machine
end

