-- ==== Sys2Proof/Machine/Diag.lean ====
section
/-! DEFINITION. Diag.lean: load diagnosis, impedance sweeps, their results and the Ventriloquist's telemetry (10). -/

set_option Elab.async false

namespace Sys2Proof.Machine

/-- The next sequence number of a result that starts at 0: it wraps from 0xFFFF to 1 (R369). -/
def nextSeq1 (q : Nat) : Nat := if q = 0xFFFF then 1 else q + 1

/-- Telemetry of the Ventriloquist goes through GV2: channel, type and the payload words [95:64], [63:32], [31:0]. -/
def ventTel (s : State) (c type : Nat) (a b d : Nat) : State :=
  gatePush s .gv2 [2, BitVec.ofNat 32 c, BitVec.ofNat 32 type, BitVec.ofNat 32 a, BitVec.ofNat 32 b, BitVec.ofNat 32 d]

/-! ### The window (R358 to R362) -/

/-- The quantities of a window (R358). -/
structure Window where
  ep : Word
  ei : Word
  rho : Word
  rub : Word
  hp : Token

/-- The quantities formed from the window's pairs, oldest first. -/
def windowOf (m : VentModel) : Window :=
  let ps := m.pairs.reverse
  let sum (f : Word × Word → Word) : Word := ps.foldl (fun a p => f32Add a (f p)) 0
  let ep := sum fun p => f32Mul p.2 p.2
  let ei := sum fun p => f32Mul p.1 p.1
  let rho := if f32Units ep = 0 then 0 else f32Div (sum fun p => f32Mul p.1 p.2) ep
  let r := ps.foldl (fun (a : Token × Word) p =>
    let x := f32Sub p.1 (f32Mul rho p.2)
    let y := Config.hpOut a.1 x
    (Config.hpNext a.1 x, f32Add a.2 (f32Mul y y))) (m.hpTok, 0)
  let rub := if f32Units ei = 0 then f32OfRat (-96) 1 else f32Mul (f32OfRat 10 1) (f32Log10 (f32Div r.2 ei))
  { ep := ep, ei := ei, rho := rho, rub := rub, hp := r.1 }

/-- DIA_STAT.LOAD codes. -/
def loadUnknown : Nat := 0
def loadNormal : Nat := 1
def loadOpen : Nat := 2
def loadShort : Nat := 3
def loadMissing : Nat := 4
def loadOther : Nat := 5

/-- The class of a window and the cabinets missing; none where it gives no evidence (R359). -/
def classify (s : State) (c : Nat) (x : Window) : Option (Nat × Nat) :=
  let iMin := spkParam s c 35
  let least := f32Mul (f32OfRat 192 1) (f32Mul iMin iMin)
  let sr := f32OfRat (max (s.inForce (F.DIA_LCFG_SHORT_R c)) 1) 8
  let n := s.inForce (F.DIA_LCFG_NCAB_M1 c) + 1
  let tol := f32OfRat (s.inForce (F.DIA_LCFG_MC_TOL c)) 100
  let near (k : Nat) : Bool := f32Le (f32Abs (f32Sub x.rho (f32OfRat ((n - k : Nat) : Int) n))) tol
  if f32Le least x.ei && f32Le (f32Mul (f32Mul sr sr) x.ep) x.ei then some (loadShort, 0)
  else if f32Lt x.ep least || s.get (F.MOD_STAT_STATE (2 * c)) != modSwitching || decide ((s.core (coreOf c)).sinceLost < 64) then none
  else if f32Lt x.rho (f32Div 0x3F000000#32 (f32OfRat n 1)) then some (loadOpen, 0)
  else if near 0 then some (loadNormal, 0)
  else
    match (List.range n).find? fun k => 0 < k && near k with
    | some k => some (loadMissing, k)
    | none => some (loadOther, 0)

/-- LOAD changes to a class (R360): the flags of its entry (R373). -/
def setLoad (s : State) (c : Nat) (k : Nat × Nat) : State :=
  let s1 := (s.set (F.DIA_STAT_LOAD c) k.1).set (F.DIA_STAT_MISS c) k.2
  if k.1 = loadOpen then s1.raise (G.DIA_OPEN c)
  else if k.1 = loadShort then s1.raise (G.DIA_SHORT c)
  else if k.1 = loadMissing then s1.raise (G.DIA_MISSING c)
  else s1

/-- The run of classes (R360). -/
def countClass (s : State) (c : Nat) (k : Nat × Nat) : State :=
  let x := s.ventCh c
  let n := if x.runClass = k then x.runLen + 1 else 1
  let s1 := s.ventUp c fun x => { x with runClass := k, runLen := n }
  let now := (s.get (F.DIA_STAT_LOAD c), s.get (F.DIA_STAT_MISS c))
  if max (s.inForce (F.DIA_LCFG_DN c)) 1 ≤ n ∧ now ≠ k then setLoad s1 c k else s1

/-- DRIFT (R361). -/
def driftJudge (s : State) (c : Nat) : State :=
  let x := s.ventCh c
  let tol := f32OfRat (s.inForce (F.DIA_LCFG_DRIFT_TOL c)) 100
  let low := f32Mul 0x3F4CCCCD#32 tol
  let dev := [x.rhoSlow, x.m.sB, x.m.sK, x.m.sL].map fun v => f32Abs (f32Sub v f32One)
  let load := s.get (F.DIA_STAT_LOAD c)
  let was := s.on (F.DIA_STAT_DRIFT_ON c)
  let on := (load = loadNormal || load = loadOther) && (dev.any (f32Lt tol) || (was && !dev.all fun d => f32Le d low))
  (s.setB (F.DIA_STAT_DRIFT_ON c) on).raiseIf (on && !was) (G.DIA_DRIFT c)

/-- RUB_ON (R362), judged on evidence windows. -/
def rubJudge (s : State) (c : Nat) (rub : Word) : State :=
  let x := s.ventCh c
  let loud := f32Lt (f32OfRat (-(s.inForce (F.DIA_LCFG2_RUB_LIM c) : Int)) 1) rub
  let a := if loud then x.rubRun + 1 else 0
  let b := if loud then 0 else x.clearRun + 1
  let dn := max (s.inForce (F.DIA_LCFG_DN c)) 1
  let was := s.on (F.DIA_STAT_RUB_ON c)
  let on := if dn ≤ a then true else if dn ≤ b then false else was
  ((s.ventUp c fun x => { x with rubRun := min a 255, clearRun := min b 255 }).setB (F.DIA_STAT_RUB_ON c) on).raiseIf (on && !was)
    (G.DIA_RUB c)

/-- The diagnosis of a window (R358 to R362): its results and what they decide. -/
def diagnose (s : State) (c : Nat) (x : Window) : State :=
  let k := classify s c x
  let s1 := (s.setB (F.DIA_STAT_VALID c) k.isSome).modelBoth c fun m => { m with hpTok := x.hp }
  let tau := f32OfRat (max (s.inForce (F.DIA_LCFG2_DRIFT_TAU c)) 1) 1
  let s2 := match k with
    | none => s1
    | some k =>
      let step (r : Word) : Word := f32Add r (f32Div (f32Sub x.rho r) (f32Mul tau (f32OfRat 1000 1)))
      rubJudge (countClass (s1.ventUp c fun y => { y with rhoSlow := step y.rhoSlow }) c k) c x.rub
  let s3 := driftJudge s2 c
  let q := nextSeq1 (s.get (F.DIA_LRES0_SEQ c))
  let s4 := (s3.set (F.DIA_LRES0_SEQ c) q).set (F.DIA_LRES0_RHO c) (f32ToU x.rho 16 14)
  (s4.set (F.DIA_LRES1_RUB c) (f32ToS x.rub 16 4)).set (F.DIA_LRES1_RHO_SLOW c) (f32ToU (s3.ventCh c).rhoSlow 16 14)

/-- The result registers of a window (R349, R353, R369): temperatures, peak excursion, protection. -/
def publishWindow (s : State) (c : Nat) : State :=
  let m := (s.ventCh c).m
  let w := spkW s c
  let gtc := f32Mul m.gT m.gC
  let pcomp := f32Mul (f32OfRat 20 1) (f32Log10 (f32Div (reTOf w m) (w 3)))
  let s1 := (s.set (F.SPK_TRES0_SEQ c) ((s.get (F.SPK_TRES0_SEQ c) + 1) % 65536)).set (F.SPK_TRES0_TC c) (f32ToS m.tc 16 4)
  let s2 := (s1.set (F.SPK_TRES1_TM c) (f32ToS m.tm 16 4)).set (F.SPK_TRES1_RE_EST c) (f32ToU (f32Mul m.reEst c1000) 16 0)
  let s3 := (s2.set (F.SPK_XRES_SEQ c) ((s.get (F.SPK_XRES_SEQ c) + 1) % 65536)).set (F.SPK_XRES_XPK c)
    (f32ToU (f32Mul m.xpk c1000) 16 0)
  let s4 := s3.cond (G.DIA_X_OVER c) (f32Lt (w 24) m.xpk)
  let s5 := (s4.set (F.DIA_PRES0_SEQ c) (nextSeq1 (s.get (F.DIA_PRES0_SEQ c)))).set (F.DIA_PRES0_GMIN c) (f32ToU m.gmin 16 15)
  let s6 := (s5.set (F.DIA_PRES1_GXMIN c) (f32ToU m.gxmin 16 15)).set (F.DIA_PRES1_GTC c) (f32ToU gtc 16 15)
  let s7 := (s6.set (F.DIA_PRES2_PCOMP c) (f32ToU pcomp 16 8)).set (F.DIA_PRES2_PCOIL c) (f32ToU m.power 16 4)
  (showTlim s7 c).setB (F.DIA_STAT_XLIM c) (f32Lt m.gxmin f32One)

/-- The DIA flags with a set event since the last window: their event counters changed (R372). -/
def flagEvents (old new : Word × Word) : Nat :=
  (List.range 8).foldl (fun a b =>
    let x := if b < 4 then old.1.toNat / 2 ^ (8 * b) % 256 else old.2.toNat / 2 ^ (8 * (b - 4)) % 256
    let y := if b < 4 then new.1.toNat / 2 ^ (8 * b) % 256 else new.2.toNat / 2 ^ (8 * (b - 4)) % 256
    if x = y then a else a + 2 ^ b) 0

/-- PROT, LOAD and EVENT entries of a window (R372). -/
def windowTelemetry (s : State) (c : Nat) (x : Window) : State :=
  let v := s.ventCh c
  let m := v.m
  let b (f : Fld) (k : Nat) : Nat := if s.on f then 2 ^ k else 0
  let rms (q : Word) : Word := f32Sqrt (f32Div q (f32OfRat 192 1))
  let prot := ventTel s c 0x21 (f32ToU m.gmin 16 15 * 65536 + f32ToU m.gxmin 16 15)
    (f32ToU (f32Mul m.gT m.gC) 16 15 * 65536 + s.get (F.SPK_XRES_XPK c)) (f32ToS m.tc 16 4 * 65536 + f32ToS m.tm 16 4)
  let st := b (F.DIA_STAT_DRIFT_ON c) 7 + b (F.DIA_STAT_RUB_ON c) 6 + b (F.DIA_STAT_VALID c) 5 + s.get (F.SPK_STAT_MODE c) * 8
    + b (F.DIA_STAT_TLIM c) 2 + b (F.DIA_STAT_XLIM c) 1 + b (F.DIA_STAT_SW_RUN c) 0
  let load := ventTel prot c 0x22 (f32ToU x.rho 16 14 * 65536 + f32ToS x.rub 16 4)
    (f32ToU m.power 16 4 * 65536 + f32ToU (rms m.u2) 16 6)
    (f32ToU (rms m.i2) 16 8 * 65536 + s.get (F.DIA_STAT_LOAD c) * 4096 + s.get (F.DIA_STAT_MISS c) * 256 + st)
  let now := (s.rd (R.DIA_FCNT0 c), s.rd (R.DIA_FCNT1 c))
  let ev := flagEvents v.seen now
  let s1 := load.ventUp c fun y => { y with seen := now }
  if ev = 0 then s1
  else ventTel s1 c 0x23 (ev * 65536) (s.time.block / 2 ^ 32 % 65536) (s.time.block % 2 ^ 32)

/-- The next window starts with nothing of this one, also where the unit that runs is abandoned (R353, R358, R372). -/
def windowClear (s : State) (c : Nat) : State :=
  (s.modelBoth c fun m => { m with pairs := [], u2 := 0, i2 := 0, xpk := 0, gmin := f32One, gxmin := f32One }).ventUp c fun y =>
    { y with winBlocks := 0 }

/-- A diagnosis window ends, at block indices that are multiples of 12 (R358, R372). -/
def loadWindowEnd (s : State) (c : Nat) : State :=
  if s.time.block % 12 != 0 || (s.ventCh c).winBlocks = 0 then s
  else
    let x := windowOf (s.ventCh c).m
    let s1 := publishWindow s c
    let s2 := if s.inForceB (F.DIA_LCFG_LD_EN c) then diagnose s1 c x else s1.set (F.DIA_STAT_VALID c) 0
    windowClear (windowTelemetry s2 c x) c

/-- After each start of the channel LOAD is UNKNOWN, so that DRIFT is off (R360, R361), and gT starts at 1.0 (R355). -/
def loadRestart (s : State) (c : Nat) : State :=
  let s1 := ((s.set (F.DIA_STAT_LOAD c) loadUnknown).set (F.DIA_STAT_MISS c) 0).set (F.DIA_STAT_DRIFT_ON c) 0
  (gainRestart s1 c).ventUp c fun x => { x with runClass := (0, 0), runLen := 0 }

/-! ### Impedance sweeps (R363 to R368) -/

/-- Samples of a ramp of 10 ms. -/
def rampSamples : Nat := 960

/-- The state after an update of a channel's sweep. -/
def State.sweepUp (s : State) (c : Nat) (f : Sweep → Sweep) : State := s.ventUp c fun x => { x with sweep := f x.sweep }
/-- A channel's sweep. -/
def State.sweepOf (s : State) (c : Nat) : Sweep := (s.ventCh c).sweep

/-- The signal plays: a ramp, settling or a measurement. -/
def sweepSounds (x : Sweep) : Bool := x.phase = 3 || x.phase = 4 || x.phase = 5 || x.phase = 6
/-- No sweep, but for the ramp-out of an abandoned one that is still under way. -/
def sweepOver (x : Sweep) : Sweep := { tailFrom := x.tailFrom, tailCnt := x.tailCnt, tailAcc := x.tailAcc, tailInc := x.tailInc }

/-- A sweep is running: from its accepted START to its end or abandonment; a START is accepted while the one before waits to be
published. -/
def sweepRuns (s : State) (c : Nat) : Bool :=
  let p := (s.sweepOf c).phase
  (decide (1 ≤ p) && decide (p ≤ 6)) || (p = 7 && s.on (F.DIA_SWCTRL_START c))

/-- The refusal code of a START, 0 if none, in the order of R363. -/
def sweepReason (s : State) (c : Nat) : Nat :=
  if s.get (F.MOD_STAT_STATE (2 * c)) != modSwitching || !(s.mbCh c).muted then 5
  else if !modEn s c then 6
  else if sweepRuns s c || decide (s.get (F.DIA_SWCFG2_F_HI c) < 2 * s.get (F.DIA_SWCFG_F_LO c)) then 7
  else 0

/-- DIA_SWCTRL.START (R363, R364). -/
def sweepStart (s : State) (c : Nat) : State :=
  let r := sweepReason s c
  if r != 0 then
    let s1 := (s.set (F.DIA_SWSTAT_REASON c) r).raise (G.DIA_SW_REFUSED c)
    s1.setB (F.DIA_SWCTRL_START c) (sweepRuns s c)
  else
    ((s.set (F.DIA_SWCTRL_START c) 1).set (F.DIA_STAT_SW_RUN c) 1).sweepUp c fun x => if x.phase = 7 then x else { sweepOver x with phase := 1 }

/-- The amplitude of the sweep signal at sample pos of its phase, of 960 (R364). -/
def sweepAmp (x : Sweep) (pos : Int) : Nat :=
  if x.phase = 3 then (clampI 0 rampSamples pos).toNat
  else if x.phase = 6 then (clampI 0 rampSamples (rampSamples - pos)).toNat
  else if x.phase = 4 ∨ x.phase = 5 then rampSamples
  else 0

/-- An abandoned sweep: its signal ramps out from the amplitude it has reached, from sample -at_ of the running block (R367). -/
def sweepTail (x : Sweep) (silent : Bool) (at_ : Int) : Sweep :=
  if silent then {} else if !sweepSounds x then sweepOver x
  else { tailFrom := sweepAmp x (x.cnt - at_), tailCnt := at_, tailAcc := x.acc, tailInc := x.inc }

/-- A sweep is abandoned (R367): the signal ramps out, or stops at once where the channel left SWITCHING. The ramp of one that a command
abandons starts with the next block. -/
def sweepAbandon (s : State) (c reason : Nat) : State :=
  if !sweepRuns s c then s
  else
    let silent := reason = 1
    let at_ : Int := if reason = 4 then -8 else 0
    let s1 := ((s.set (F.DIA_SWSTAT_REASON c) reason).raise (G.DIA_SW_ABORT c)).set (F.DIA_SWCTRL_START c) 0
    let s2 := (s1.set (F.DIA_STAT_SW_RUN c) 0).sweepUp c fun x =>
      if x.phase = 7 then x else sweepTail x silent at_
    s2.set (F.DIA_SWSTAT_STATE c) 0

/-- DIA_SWCTRL.ABORT. -/
def sweepAbort (s : State) (c : Nat) : State := sweepAbandon s c 4

/-- A write of DIA_SWCTRL. -/
def writeSwctrl (s : State) (c : Nat) (v : Word) : State :=
  let s1 := if bitN v.toNat 1 then sweepAbort s c else s
  if bitN v.toNat 0 then sweepStart s1 c else s1

/-- A write of DIA_SWCFG or DIA_SWCFG2 (R363): ignored while a sweep runs, values outside stored at the nearer end. -/
def writeSwcfg (s : State) (c p : Nat) (v : Word) : State :=
  if sweepRuns s c then (s.set (F.DIA_SWSTAT_REASON c) 7).raise (G.DIA_SW_REFUSED c)
  else if p = R.DIA_SWCFG c then
    let n := max (bitsN v.toNat 31 26) 1
    let a := max (bitsN v.toNat 23 16) 1
    let f := min (max (v.toNat % 65536) 5) 1000
    storeCoded s p (BitVec.ofNat 32 (n * 2 ^ 26 + a * 65536 + f))
  else storeCoded s p (BitVec.ofNat 32 (min (max (v.toNat % 65536) 100) 20000))

/-- The samples a phase lasts. -/
def phaseSamples (s : State) (c : Nat) : Nat :=
  let x := s.sweepOf c
  if x.phase = 4 then settleSamples (sweepFreq s c x.point) else rampSamples

/-- A phase of the sweep begins; its samples count from the end of the phase before. -/
def enterPhase (s : State) (c phase point : Nat) (isOver : Int) : State :=
  let st := if phase = 2 then 1 else if phase = 0 ∨ phase = 7 then 0 else 2
  ((s.set (F.DIA_SWSTAT_STATE c) st).set (F.DIA_SWSTAT_POINT c) point).sweepUp c fun x =>
    { x with phase := phase, point := point, cnt := isOver, meas := 0, vDft := (0, 0), iDft := (0, 0) }

/-- The sweep begins: with the pilot on it ramps off first (R364). -/
def sweepBegin (s : State) (c : Nat) : State :=
  if pilotRamp (s.ventCh c) 8 = 0 then enterPhase s c 3 0 0 else enterPhase s c 2 0 0

/-- |Z| of point i. -/
def sweepMag (ps : List (Word × Word × Word)) (i : Nat) : Word := (ps.getD i (0, 0, 0)).2.1

/-- The key of a sweep point word. -/
def sweepKey (c i : Nat) : Nat := 0x7000000 + c * 256 + i

/-- The completed sweep is published whole (R368). -/
def sweepPublish (s : State) (c : Nat) : State :=
  let ps := (s.sweepOf c).points
  let n := ps.length
  let imax := (List.range n).foldl (fun a i => if f32Lt (sweepMag ps a) (sweepMag ps i) then i else a) 0
  let above := (List.range n).filter fun i => imax < i
  let imin := above.foldl (fun (a : Option Nat) i => match a with
    | none => some i
    | some b => if f32Lt (sweepMag ps i) (sweepMag ps b) then some i else some b) none
  let s1 := (List.range 64).foldl (fun t i =>
    let p := if i < n then ps.getD i (0, 0, 0) else (0, 0, 0)
    ((t.putBank (sweepKey c (3 * i)) p.1).putBank (sweepKey c (3 * i + 1)) p.2.1).putBank (sweepKey c (3 * i + 2)) p.2.2) s
  let s2 := (((s1.set (F.DIA_SWSUM0_SEQ c) (nextSeq1 (s.get (F.DIA_SWSUM0_SEQ c)))).set (F.DIA_SWSUM0_IMAX c) imax).set
    (F.DIA_SWSUM0_IMIN c) (imin.getD 0xFF)).wr (R.DIA_SWSUM1 c) (sweepMag ps imax)
  let s3 := (s2.wr (R.DIA_SWSUM2 c) ((imin.map (sweepMag ps)).getD 0)).wr (R.DIA_SWSUM3 c) (sweepMag ps 0)
  (s3.set (F.DIA_SWSTAT_REASON c) 0).sweepUp c sweepOver

/-- The sweep part of a block boundary (R364, R367, R368): abandonment, a due start, a result to sweepPublish, the running counts. -/
def sweepAtBlock (s : State) (c : Nat) : State :=
  let v := s.ventCh c
  let hot := f32Le (f32Sub (spkParam s c 30) (f32OfRat (s.inForce (F.DIA_TCFG_KNEE c)) 1)) v.m.tc
  let far := f32Lt (spkParam s c 24) v.ck.blkPk
  let s1 :=
    if !sweepRuns s c then s
    else if s.get (F.MOD_STAT_STATE (2 * c)) != modSwitching then sweepAbandon s c 1
    else if !(s.mbCh c).muted then sweepAbandon s c 2
    else if far || hot then sweepAbandon s c 3
    else s
  let y := s1.sweepOf c
  if y.phase = 1 then sweepBegin s1 c
  else if y.phase = 7 then (if s1.on (F.DIA_SWCTRL_START c) then sweepBegin (sweepPublish s1 c) c else sweepPublish s1 c)
  else s1

/-- The measured point (R366): f, |Z| and its phase. -/
def pointOf (s : State) (c : Nat) : Word × Word × Word :=
  let x := s.sweepOf c
  let mag (a : Word × Word) : Word := f32Sqrt (f32Add (f32Mul a.1 a.1) (f32Mul a.2 a.2))
  let z := f32Div (f32Mul (s.live (R.SNS_VFS c)) (mag x.vDft)) (f32Mul (s.live (R.SNS_IFS c)) (mag x.iDft))
  -- with V = vc - j vs and I = ic - j is, V / I has the phase of (vc ic + vs is) + j (vc is - vs ic)
  let re := f32Add (f32Mul x.vDft.1 x.iDft.1) (f32Mul x.vDft.2 x.iDft.2)
  let im := f32Sub (f32Mul x.vDft.1 x.iDft.2) (f32Mul x.vDft.2 x.iDft.1)
  (sweepFreq s c x.point, z, f32Angle im re)

/-- A ramp, settling time or measurement ends and the sweep advances (R364, R366). What changes the signal (its start, a new frequency, the
ramp-out) starts with the next block (DESIGN CHOICE, log entry 71). -/
def sweepPhaseEnd (s : State) (c : Nat) : State :=
  let x := s.sweepOf c
  let timed := x.phase = 3 || x.phase = 4 || x.phase = 6
  let isOver : Int := x.cnt - phaseSamples s c
  let last := x.point = s.get (F.DIA_SWCFG_NPTS_M1 c)
  if x.phase = 2 then (if (s.ventCh c).pilotPos = 0 then enterPhase s c 3 0 (-8) else s)
  else if timed && decide (isOver + 8 < 0) then s
  else if x.phase = 3 then enterPhase s c 4 0 isOver
  else if x.phase = 4 then enterPhase s c 5 x.point 0
  else if x.phase = 5 then
    if x.meas < measPeriods (sweepFreq s c x.point) then s
    else
      let s1 := s.sweepUp c fun y => { y with points := y.points ++ [pointOf s c] }
      if last then enterPhase s1 c 6 x.point (-8) else enterPhase s1 c 4 (x.point + 1) (-8)
  else if x.phase = 6 then
    ((enterPhase s c 7 x.point 0).set (F.DIA_SWCTRL_START c) 0).set (F.DIA_STAT_SW_RUN c) 0
  else s

/-- A sine of the sweep signal (R365), in programme units: amplitude a of 960 times SW_A, at sample j of the block. -/
def sweepTone (s : State) (c : Nat) (a : Word) (acc inc j : Nat) : Word :=
  let phi : Nat := (acc + inc * j) % 2 ^ 32
  f32Div (f32Mul (f32Mul (f32OfRat (max (s.get (F.DIA_SWCFG_SW_A c)) 1) 10) a) (sinTurn (phi : Int) (2 ^ 32))) (spkParam s c 2)

/-- The sweep signal added to a channel's sample j of a block (R365). -/
def sweepSample (s : State) (c j : Nat) : Word :=
  let x := s.sweepOf c
  if sweepSounds x then sweepTone s c (f32OfRat (sweepAmp x (x.cnt + j)) rampSamples) x.acc x.inc j else 0

/-- The ramp-out of an abandoned sweep at sample j of a block (R367). -/
def tailSample (s : State) (c j : Nat) : Word :=
  let x := s.sweepOf c
  let a := f32OfRat ((x.tailFrom : Int) * clampI 0 rampSamples (rampSamples - (x.tailCnt + j))) (rampSamples * rampSamples)
  if x.tailFrom = 0 then 0 else sweepTone s c a x.tailAcc x.tailInc j

/-- The samples of the block that ended are counted: phase position, phase accumulator by the advance the block had (R365), ramp-out. -/
def sweepCount (x : Sweep) : Sweep :=
  let ended := decide (rampSamples ≤ x.tailCnt + 8)
  { x with cnt := if sweepSounds x then x.cnt + 8 else x.cnt, acc := if sweepSounds x then (x.acc + 8 * x.inc) % 2 ^ 32 else x.acc,
           tailFrom := if ended then 0 else x.tailFrom, tailCnt := if ended then 0 else x.tailCnt + 8,
           tailAcc := (x.tailAcc + 8 * x.tailInc) % 2 ^ 32 }

/-- The advance of the phase accumulator per sample at the point in progress, for the block that starts (R365). -/
def sweepInc (s : State) (c : Nat) : State :=
  let f := sweepFreq s c (s.sweepOf c).point
  s.sweepUp c fun x =>
    if sweepSounds x then { x with inc := (rneDiv ((freqUnits f * 2 ^ 32 : Nat)) (96000 * 2 ^ 149)).toNat } else x

/-- The sweep at a block boundary: the block that ended is counted, then what falls due at the boundary. -/
def sweepBoundary (s : State) (c : Nat) : State := sweepInc (sweepAtBlock (s.sweepUp c sweepCount) c) c

/-- The pilot and sweep signals of a channel's sample j (R336, R365), added after the gain envelope. -/
def addedSignals (s : State) (c j : Nat) : List Word :=
  let x := s.ventCh c
  let pos := pilotRamp x ((j : Int) + 1)
  (if pos = 0 then [] else [f32Div (pilotVolt s c (8 * s.time.block + j) pos) (spkParam s c 2)]) ++
    (if sweepSounds x.sweep then [sweepSample s c j] else []) ++ (if x.sweep.tailFrom = 0 then [] else [tailSample s c j])

/-- A whole read through a DIA_SWDATA alias (R374). -/
def sweepDataRead (s : State) (c : Nat) : State :=
  let w := s.get (F.DIA_SWPTR_WPTR c)
  (s.answer (s.bank (0x7000000 + c * 256 + w))).set (F.DIA_SWPTR_WPTR c) (if 191 ≤ w then 0 else w + 1)
/-- A write of DIA_SWPTR: values above 191 are stored as 0. -/
def writeSwptr (s : State) (c : Nat) (v : Word) : State :=
  s.set (F.DIA_SWPTR_WPTR c) (if 191 < v.toNat % 256 then 0 else v.toNat % 256)

/-- A write of DIA_PCFG, DIA_TCFG, DIA_LCFG or DIA_LCFG2 with its stored bounds. -/
def writeDiaCfg (s : State) (c p : Nat) (v : Word) : State :=
  let n := v.toNat
  let one (hi lo : Nat) (x : Nat) : Nat := if bitsN x hi lo = 0 then x + 2 ^ lo else x
  let field (x hi lo y : Nat) : Nat := x - bitsN x hi lo * 2 ^ lo + y * 2 ^ lo
  if p = R.DIA_PCFG c then
    let a := field n 25 16 (min (bitsN n 25 16) 383)
    let b := field a 15 8 (min (max (bitsN a 15 8) 50) 100)
    storeCoded s p (BitVec.ofNat 32 (one 7 0 b))
  else if p = R.DIA_TCFG c then storeCoded s p (BitVec.ofNat 32 (one 31 24 (one 23 16 (one 15 8 (one 7 0 n)))))
  else if p = R.DIA_LCFG c then storeCoded s p (BitVec.ofNat 32 (one 27 24 (one 23 16 n)))
  else storeCoded s p (BitVec.ofNat 32 (one 23 16 n))

/-- A read of DIA_PRES0, DIA_LRES0 or DIA_SWSUM0 latches its companions for the reader's side (R370). -/
def diaRead (s : State) (side c which : Nat) : State :=
  if which = 0 then latchRead s side (R.DIA_PRES0 c) 2
  else if which = 1 then latchRead s side (R.DIA_LRES0 c) 1
  else latchRead s side (R.DIA_SWSUM0 c) 3

/-- DIA_SUM as read: bit c while any flag of channel c is set. -/
def diaSum (s : State) : Word :=
  BitVec.ofNat 32 ((List.range 16).foldl (fun a c => if s.rd (R.DIA_FLAG c) = 0 then a else a + 2 ^ c) 0)

end Sys2Proof.Machine
end

