-- ==== Sys2Proof/Machine/Memory.lean ====
section
/-! DEFINITION. Memory.lean: memory errors and their correction, scrubbing, spare rows, the flash log and the flash controller (15, 16). -/

set_option Elab.async false

namespace Sys2Proof.Machine

/-- The state after an update of the memory state. -/
def State.memUp (s : State) (f : Mem → Mem) : State := { s with mem := f s.mem }
/-- The state after an update of one bank. -/
def State.bankUp (s : State) (b : Nat) (f : BankSt → BankSt) : State := s.memUp fun m => { m with banks := m.banks.modify b f }
/-- One bank. -/
def State.bankSt (s : State) (b : Nat) : BankSt := s.mem.banks.getD b {}
/-- The state after an update of the log and the flash. -/
def State.bkgUp (s : State) (f : Bkg → Bkg) : State := { s with bkg := f s.bkg }

/-- A word that nothing has struck holds no bit in error. -/
def noError (_ : Nat) : BitVec 145 := 0
/-- The key of a stored word's errors. -/
def errKey (b w : Nat) : Nat := b * 16384 + w
/-- The bits in error of a stored word. -/
def errAt (s : State) (k : Nat) : BitVec 145 := kvGet noError s.mem.errs k
/-- Sets the bits in error of a stored word; a write of the word cancels a waiting write-back (R509). -/
def setErr (s : State) (k : Nat) (e : BitVec 145) : State :=
  s.memUp fun m => { m with errs := kvPut noError m.errs k e, back := m.back.filter (· != k) }

/-- The spare row that stands in for a row of a bank. -/
def spareFor (s : State) (b row : Nat) : Option Nat := (s.bankSt b).spares.findIdx? fun e => e.1 == some row
/-- The physical word of a word address (R503, R515). -/
def physWord (s : State) (b w : Nat) : Nat :=
  match spareFor s b (w / 16) with
  | some k => (512 + k) * 16 + w % 16
  | none => w

/-- The code of an outcome in MEM_ELOG0.KIND. -/
def kindCode : Check → Nat
  | .good | .ce1 => 0
  | .ce2 => 1
  | .ue => 2

/-- The sources of MEM_ELOG0.SRC. -/
def srcRead : Nat := 0
def srcScrub : Nat := 1
def srcCopy : Nat := 2
def srcTransit : Nat := 3

/-- The error log of the last memory event (R529). -/
def memLog (s : State) (k : Check) (src b w : Nat) (e : BitVec 145) : State :=
  let y := syndrome e
  let s1 := (s.set F.MEM_ELOG0_SEQ (nextSeq1 (s.get F.MEM_ELOG0_SEQ))).set F.MEM_ELOG0_KIND (kindCode k)
  ((s1.set F.MEM_ELOG0_SRC src).set F.MEM_ELOG0_BANK b).wr R.MEM_ELOG1
    (BitVec.ofNat 32 (w % 8192 * 2 ^ 17 + (if y.2 then 2 ^ 16 else 0) + y.1))

/-- The bank number of a word that comes from no memory (R508). -/
def noBank : Nat := 0x7F

/-- An error of a word that arose in transit and that its consumer finds (R508): counted and logged with the bank and word it was read from;
a word of no memory has bank 0x7F and a word address that the spec does not give, a free value. The answer: the word is uncorrectable. -/
def transitError (s : State) (b w : Nat) (e : BitVec 145) : State × Bool :=
  let k := (checkWord e).1
  if k = .good then (s, false)
  else
    let s1 := memLog (s.raise (if k = .ue then G.MEM_PATH_UE else G.MEM_PATH_CE)) k srcTransit b w e
    (if b = noBank then s1.setFree F.MEM_ELOG1_WORD else s1, decide (k = .ue))

/-- A row becomes a candidate (R515): at most two wait, and one that waits or is being repaired is not taken twice. -/
def addCandidate (s : State) (b row reason : Nat) : State :=
  s.bankUp b fun x =>
    if x.cand.any (fun c => c.1 == row) || (match x.repair with | some r => r.2.1 == row | none => false) || 2 ≤ x.cand.length then x
    else { x with cand := x.cand ++ [(row, reason)] }

/-- A spare row in use makes its candidates carry reason 4 (R516). -/
def candReason (row reason : Nat) : Nat := if 512 ≤ row then 4 else reason

/-- A correctable event at a word enters the bank's history of four addresses (R515); the answer is whether the threshold is reached. -/
def historyStep (s : State) (b w : Nat) : State × Bool :=
  let win := 12000 * max (s.get F.MEM_RCFG_REP_WIN) 1
  let h := (s.bankSt b).hist
  let e := match h.find? fun e => e.1 == w with
    | some (_, n, t) => if s.time.block - t ≤ win then (w, n + 1, t) else (w, 1, s.time.block)
    | none => (w, 1, s.time.block)
  let h1 := if h.any fun x => x.1 == w && x.2.2 == e.2.2 then h.map fun x => if x.1 == w then e else x
    else (e :: h.filter fun x => x.1 != w).take 4
  (s.bankUp b fun x => { x with hist := h1 }, decide (max (s.get F.MEM_RCFG_REP_THR) 1 ≤ e.2.1))

/-- An error that a bank or small array finds in a word on a read (R508, R509): counted and logged; a correctable one waits for its
write-back and counts for its bank or array. `w` is the physical word. -/
def noteError (s : State) (src b w : Nat) : State × Check :=
  let e := errAt s (errKey b w)
  let (k, fix) := checkWord e
  match k with
  | .good => (s, k)
  | .ue => (memLog (s.raise G.MEM_UE) k src b w e, k)
  | .ce1 | .ce2 =>
    let s1 := memLog (s.raise G.MEM_CE) k src b w e
    let s2 := s1.memUp fun m => { m with back := if fix = 0 || m.back.contains (errKey b w) then m.back else m.back ++ [errKey b w] }
    if b < 48 then (s2.bankUp b fun x => { x with ce := (x.ce + 1) % 65536 }, k)
    else (s2.memUp fun m => { m with small := m.small.modify (b - 64) fun n => (n + 1) % 65536 }, k)

/-- An error that a read finds in a word (R508, R509, R515), in a bank judged for repair. -/
def foundError (s : State) (src b w : Nat) : State × Check :=
  let n := noteError s src b w
  if 48 ≤ b then n
  else
    match n.2 with
    | .good => n
    | .ue => (if s.on F.MEM_RCFG_UE_REP then addCandidate n.1 b (w / 16) (candReason (w / 16) 2) else n.1, .ue)
    | .ce1 | .ce2 =>
      let h := historyStep n.1 b w
      let two := n.2 == .ce2 && s.on F.MEM_RCFG_CE2_REP
      (if h.2 || two then addCandidate h.1 b (w / 16) (candReason (w / 16) 1) else h.1, n.2)

/-- An uncorrectable error in a small array acts on the array's owner (R504): a Music Box core (R129), a Ventriloquist core (R346) or a
lane (R303). -/
def ownerUe (s : State) (b : Nat) : State :=
  if b < 69 then mbCoreUe s (b - 64) else if b < 71 then ventCoreUe s (b - 69) else laneUe s (b - 71)

/-- The corrected word is written back in an idle cycle, unless a newer write cancelled it (R509). -/
def writeBack (s : State) (b w : Nat) : State :=
  let p := if b < 48 then physWord s b w else w
  let k := errKey b p
  if s.mem.back.contains k then
    let e := errAt s k
    setErr s k (e ^^^ (checkWord e).2)
  else s

/-- The bits that an armed injection inverts (MEM_INJ): data bits 0 to NBITS - 1, which are W[16] on. -/
def injectBits (s : State) : BitVec 145 :=
  BitVec.ofNat 145 ((2 ^ (max (s.get F.MEM_INJ_NBITS) 1) - 1) * 2 ^ 16)

/-- A write of a word of a bank stores it without error, or with the armed injection's bits inverted, which clears ARM. While a repair
copies the row, the spare row's word is written too (R515). -/
def bankWritten (s : State) (b w : Nat) : State :=
  let p := if b < 48 then physWord s b w else w
  let hit := s.on F.MEM_INJ_ARM && s.get F.MEM_INJ_BANK == b
  let s1 := setErr s (errKey b p) (if hit then injectBits s else 0)
  if hit then s1.set F.MEM_INJ_ARM 0 else s1

/-- A write of MEM_INJ: ignored in states other than DEVELOP (1) and SERVICE (3) (R575). -/
def injectArm (s : State) (v : Word) : State :=
  if s.get F.SYS_LC_STATE = 1 ∨ s.get F.SYS_LC_STATE = 3 then storeCoded s R.MEM_INJ v else s

/-! ### Scrubbing and repair (R513 to R517) -/

/-- The lowest spare row that is neither in use nor BAD nor being written. -/
def freeSpare (s : State) (b : Nat) : Option Nat :=
  let x := s.bankSt b
  (List.range 8).find? fun k =>
    x.spares.getD k (none, true) == (none, false) && (match x.repair with | some r => r.1 != k | none => true)

/-- A bank takes its oldest candidate into repair, or drops it where no spare row is free (R515, R517). -/
def startRepair (s : State) (b : Nat) : State :=
  match (s.bankSt b).cand with
  | [] => s
  | (row, reason) :: rest =>
    match freeSpare s b with
    | some k => s.bankUp b fun x => { x with cand := rest, repair := some (k, row, reason) }
    | none => (s.bankUp b fun x => { x with cand := rest, degraded := true }).raise G.MEM_NO_SPARE_ROW

/-- A physical row of a bank that a repair has replaced. -/
def rowReplaced (s : State) (b row : Nat) : Bool := decide (row < 512) && (spareFor s b row).isSome

/-- A bank reads the 16 words of a row (R513); a spare row not in use with any error is BAD (R514). -/
def scrubRowOf (s : State) (b row : Nat) : State :=
  if rowReplaced s b row then s
  else if decide (512 ≤ row) && (s.bankSt b).spares.getD (row - 512) (none, false) == (none, false)
      && (match (s.bankSt b).repair with | some r => r.1 != row - 512 | none => true) then
    let bad := (List.range 16).any fun i => errAt s (errKey b (row * 16 + i)) != 0
    let s1 := (List.range 16).foldl (fun t i =>
      if errAt t (errKey b (row * 16 + i)) = 0 then t else (noteError t srcScrub b (row * 16 + i)).1) s
    if bad then s1.bankUp b fun x => { x with spares := x.spares.set (row - 512) (none, true) } else s1
  else (List.range 16).foldl (fun t i => if errAt t (errKey b (row * 16 + i)) = 0 then t else (foundError t srcScrub b (row * 16 + i)).1) s

/-- The words of a small array that a scrub step reads: the spec gives the arrays no row numbers, so a step reads the struck ones (log
entry 43). An uncorrectable one acts on the array's owner (R504). -/
def scrubSmall (s : State) : State :=
  (s.mem.errs.filter fun e => decide (64 * 16384 ≤ e.1)).foldl (fun t e =>
    let r := foundError t srcScrub (e.1 / 16384) (e.1 % 16384)
    if r.2 = .ue then ownerUe r.1 (e.1 / 16384) else r.1) s

/-- Physical upsets strike words: (bank, physical word, bits inverted). -/
def struckWords (s : State) (l : List (Nat × Nat × BitVec 145)) : State :=
  l.foldl (fun t e =>
    let k := errKey e.1 e.2.1
    t.memUp fun m => { m with errs := kvPut noError m.errs k (errAt t k ^^^ e.2.2) }) s

/-- One scrub step of every bank and small array (R513, R515): a bank with a candidate repairs instead of scrubbing. `struck` are the words
that upsets have changed since the step before. -/
def scrubStep (s : State) (struck : List (Nat × Nat × BitVec 145)) : State :=
  let s0 := struckWords s struck
  if !s0.on F.BKG_CFG_SCRUB_EN then s0
  else
    let row := s0.mem.scrubRow
    let s1 := if row = 0 then s0.memUp fun m => { m with passStart := s0.time.block } else s0
    let s2 := (List.range 48).foldl (fun t b =>
      if (t.bankSt b).repair.isSome then t
      else if (t.bankSt b).cand.isEmpty then scrubRowOf t b row
      else startRepair t b) s1
    let s3 := scrubSmall s2
    let s4 := (s3.memUp fun m => { m with scrubRow := (row + 1) % 520 }).bkgUp fun b => { b with scrubDue := b.scrubDue - 1 }
    if row = 519 then
      (s4.set F.BKG_SCRUB_SEQ (nextSeq1 (s4.get F.BKG_SCRUB_SEQ))).set F.BKG_SCRUB_PASS_BLK
        (min (s4.time.block + 64 - s4.mem.passStart) 65535)
    else s4

/-- A REPAIR record (R524). -/
def repairRecord (s : State) (b k row reason : Nat) : LogRec :=
  { type := 2, len := 2,
    body := logBytes 1 b ++ logBytes 1 k ++ logBytes 2 row ++ logBytes 1 reason ++ logBytes 3 0 ++ logBytes 6 s.time.block }

/-- A row copy ends (R515, R516): each word is corrected, an uncorrectable one becomes the poison word; the map entry takes effect, REPAIR
counts and a record is queued. -/
def repairCopy (s : State) (b : Nat) : State :=
  match (s.bankSt b).repair with
  | none => s
  | some (k, row, reason) =>
    let s1 := (List.range 16).foldl (fun t i =>
      let w := row * 16 + i
      let r := if errAt t (errKey b w) = 0 then (t, Check.good) else foundError t srcCopy b w
      setErr r.1 (errKey b ((512 + k) * 16 + i)) (if r.2 = .ue then poison else 0)) s
    let target := if 512 ≤ row then ((s.bankSt b).spares.getD (row - 512) (none, false)).1 else some row
    let s2 := s1.bankUp b fun x =>
      let sp := if 512 ≤ row then x.spares.set (row - 512) (none, true) else x.spares
      { x with repair := none, cand := x.cand.filter (fun c => c.1 != row), spares := sp.set k (target, false) }
    queueRecord (s2.raise G.MEM_REPAIR) (repairRecord s2 b k (target.getD row) reason)

/-- A row that fails the wipe's read-back is repaired at once with nothing to copy (R511). -/
def repairAtWipe (s : State) (b row : Nat) : State :=
  if rowReplaced s b row then s
  else
    match freeSpare s b with
    | some k =>
      let s1 := s.bankUp b fun x => { x with spares := x.spares.set k (some row, false) }
      queueRecord (s1.raise G.MEM_REPAIR) (repairRecord s1 b k row 3)
    | none => (s.bankUp b fun x => { x with degraded := true }).raise G.MEM_NO_SPARE_ROW

/-- Spare rows in use or BAD. -/
def sparesUsed (x : BankSt) : Nat := x.spares.countP fun e => e != (none, false)

/-- MEM_BSTAT of the bank or small array that MEM_BSEL selects. -/
def memBstat (s : State) : Word :=
  let b := s.get F.MEM_BSEL_BANK
  if b < 48 then
    let x := s.bankSt b
    BitVec.ofNat 32 (x.ce * 65536 + sparesUsed x * 256 + (if x.degraded then 2 else 0) + if x.cand.isEmpty then 0 else 1)
  else if b < 64 then 0
  else BitVec.ofNat 32 (s.mem.small.getD (b - 64) 0 * 65536)

/-- MEM_RMAP of the spare row that MEM_BSEL selects. -/
def memRmap (s : State) : Word :=
  let e := (s.bankSt (s.get F.MEM_BSEL_BANK)).spares.getD (s.get F.MEM_BSEL_SPARE) (none, false)
  let bad := if e.2 then 2 ^ 30 else 0
  match e.1 with
  | some r => BitVec.ofNat 32 (2 ^ 31 + bad + r)
  | none => BitVec.ofNat 32 bad

/-! ### The flash log (R522 to R527) -/

/-- Sectors in the log area: those of the valid log, else LOG_NSECT of the loaded image (R543). -/
def logSectors (s : State) : Nat := if s.bkg.valid then s.get F.BKG_LOG0_NSECT else s.bkg.imgNsect

/-- The bytes of a record with its frame (R523). -/
def recordBytes (rseq : Nat) (r : LogRec) : List Byte :=
  let pre := logBytes 1 r.type ++ logBytes 1 r.len ++ logBytes 2 0 ++ logBytes 4 rseq
  let body := (pre ++ r.body ++ List.replicate (16 * r.len) 0).take (16 * r.len - 4)
  body ++ logBytes 4 (crc32 body).toNat

/-- A temperature in °C as a 16-bit two's complement number of 1/16 °C. -/
def temp16 (x : Word) : Nat := f32ToS x 16 4

/-- The STATE record (R524): block index, then Tc, Tm and DRV_ID of each channel. -/
def stateRecord (s : State) : LogRec :=
  { type := 1, len := 10,
    body := logBytes 6 s.time.block ++ logBytes 2 0 ++ (List.range 16).flatMap fun c =>
      let m := (s.ventCh c).m
      logBytes 2 (temp16 m.tc) ++ logBytes 2 (temp16 m.tm) ++ logBytes 4 (spkLiveWord s c 1).toNat }

/-- The retire set of a MAP record: Music Box cores, lanes, slices (R524). -/
def retireSet (s : State) : Nat :=
  s.get F.MB_CORE_RETIRED + s.get F.LANE_POOL_RETIRED * 2 ^ 5
    + ((List.range 34).filter fun n => sliceRetired s n).foldl (fun a n => a + 2 ^ (22 + n)) 0

/-- The entries of a MAP record: bank, spare row with BAD, row. -/
def mapEntries (s : State) : List (List Byte) :=
  (List.range 48).flatMap fun b => (List.range 8).filterMap fun k =>
    let e := (s.bankSt b).spares.getD k (none, false)
    if e = (none, false) then none
    else some (logBytes 1 b ++ logBytes 1 ((if e.2 then 128 else 0) + k) ++ logBytes 2 (e.1.getD 0xFFFF))

/-- The MAP record (R524). -/
def mapRecord (s : State) : LogRec :=
  let es := mapEntries s
  { type := 5, len := ceilDiv (36 + 4 * es.length) 16,
    body := logBytes 6 s.time.block ++ logBytes 2 es.length ++ logBytes 8 (retireSet s) ++ logBytes 1 (s.get F.SYS_LC_STATE)
      ++ logBytes 7 0 ++ es.flatten }

/-- The header of a sector (R522). -/
def sectorHeader (s : State) (sseq erases : Nat) : List Byte :=
  let b := logBytes 4 0x4C5A4C47 ++ logBytes 4 sseq ++ logBytes 4 erases ++ logBytes 2 1 ++ logBytes 1 (logSectors s) ++ logBytes 13 0
  b ++ logBytes 4 (crc32 b).toNat

/-- BUSY shows an operation in progress (QSPI_STAT). -/
def showBusy (s : State) : State := s.setB F.QSPI_STAT_BUSY (s.bkg.qspi.isSome || !s.bkg.ops.isEmpty)

/-- The writer puts a record at the end of the newest sector. -/
def placeRecord (s : State) (r : LogRec) : State :=
  let bs := recordBytes s.bkg.rseq r
  let at_ := s.get F.BKG_LOG0_SECT * 4096 + s.bkg.next
  (s.bkgUp fun b => { b with ops := b.ops ++ [.program at_ bs true], next := b.next + bs.length, rseq := (b.rseq + 1) % 2 ^ 32 }).set
    F.BKG_LOG0_FREE (4096 - (s.bkg.next + bs.length))

/-- The writer opens the next sector (R525): erase, header, MAP record and STATE record. -/
def openSector (s : State) : State :=
  let n := max (logSectors s) 1
  let sect := if s.bkg.valid then (s.get F.BKG_LOG0_SECT + 1) % n else 0
  let sseq := if s.bkg.valid then ((s.rd R.BKG_LOG1).toNat + 1) % 2 ^ 32 else 0
  let er := s.bkg.erases.getD sect 0 + 1
  let hdr := sectorHeader s sseq er
  let s1 := (s.set F.BKG_LOG0_NSECT (logSectors s)).set F.BKG_LOG0_SECT sect
  let s2 := (s1.wr R.BKG_LOG1 (BitVec.ofNat 32 sseq)).wr R.BKG_LOG2 (BitVec.ofNat 32 (max (s1.rd R.BKG_LOG2).toNat er))
  let s3 := s2.bkgUp fun b =>
    { b with valid := true, newSector := false, next := 32, erases := b.erases.set sect er,
             ops := b.ops ++ [.erase sect, .program (sect * 4096) hdr false] }
  placeRecord (placeRecord s3 (mapRecord s3)) (stateRecord s3)

/-- A record is written (R525): into the newest sector where it fits, else into the next one. -/
def writeRecord (s : State) (r : LogRec) : State :=
  if s.bkg.stopped then s
  else
    let s1 := if !s.bkg.valid || s.bkg.newSector || 4096 < s.bkg.next + 16 * r.len then openSector s else s
    showBusy (placeRecord s1 r)

/-- The queued REPAIR and RETIRE records of R526, at a multiple of 12,000 blocks. -/
def logEvents (s : State) : State :=
  if !s.bkg.eventsDue || !s.on F.BKG_CFG_LOG_EN then s
  else
    let q := s.bkg.queue
    let s1 := s.bkgUp fun b => { b with eventsDue := false, queue := [] }
    let s2 := if s1.bkg.newSector && q.isEmpty then showBusy (openSector s1) else s1
    q.foldl writeRecord s2

/-- The STATE record of R526: at a multiple of 720,000 blocks or after a FLUSH, after the event records of the same boundary. -/
def logState (s : State) : State :=
  if s.bkg.stateDue = 0 || !s.on F.BKG_CFG_LOG_EN then s
  else
    let s1 := logEvents s
    writeRecord (s1.bkgUp fun b => { b with stateDue := b.stateDue - 1 }) (stateRecord s)

/-- BKG_CTRL.FLUSH requests a STATE record at the next block boundary; it stays set until the record is programmed. -/
def logFlush (s : State) : State := (s.set F.BKG_CTRL_FLUSH 1).bkgUp fun b => { b with flush := true }

/-- The record that a program operation writes starts with TYPE STATE. -/
def isStateOp : FlashOp → Bool
  | .program _ bs true => (bs.headD 0).toNat == 1
  | .program _ _ false => false
  | .erase _ => false

/-- A record's bytes as the record (its frame taken off). -/
def recordOf (bs : List Byte) : LogRec :=
  { type := (bs.getD 0 0).toNat, len := (bs.getD 1 0).toNat, body := (bs.drop 8).take (bs.length - 12) }

/-- A log operation ends. A record whose read-back differs counts LOG_FAIL, and is written into the next sector; the third failure in a
row stops the log (R525). -/
def logOpDone (s : State) (op : FlashOp) (rest : List FlashOp) (ok : Bool) : State :=
  let s0 := s.bkgUp fun b => { b with ops := rest }
  match op with
  | .erase _ => s0
  | .program _ _ false => s0
  | .program _ bs true =>
    if ok then
      let s1 := s0.bkgUp fun b => { b with fails := 0 }
      if isStateOp op && !s1.bkg.flush && s1.bkg.stateDue = 0 then s1.set F.BKG_CTRL_FLUSH 0 else s1
    else
      let n := s0.bkg.fails + 1
      let s1 := (s0.raise G.BKG_LOG_FAIL).bkgUp fun b => { b with fails := n }
      if 3 ≤ n then s1.bkgUp fun b => { b with stopped := true, ops := [] }
      else
        -- the records that follow it go into the new sector too
        let later := rest.filterMap fun o => match o with
          | .program _ b2 true => some (recordOf b2)
          | .program _ _ false => none
          | .erase _ => none
        let s2 := openSector (s1.bkgUp fun b => { b with ops := [] })
        ((recordOf bs) :: later).foldl (fun t r => if r.type = 5 then t else placeRecord t r) s2

/-- A flash operation ends (R525, R544): the running QSPI_CTRL operation, else the log operation in work. -/
def flashOpDone (s : State) (ok : Bool) : State :=
  match s.bkg.qspi with
  | some _ => showBusy ((s.bkgUp fun b => { b with qspi := none }).set F.QSPI_CTRL_GO 0)
  | none =>
    match s.bkg.ops with
    | [] => s
    | op :: rest => showBusy (logOpDone s op rest ok)

/-! ### The flash controller (R544 to R549) -/

/-- The byte capacity the JEDEC ID gives (R531); none before an ID is read. -/
def flashBytes (s : State) : Nat := min (2 ^ (s.get F.QSPI_ID_ID % 256)) (2 ^ 25)

/-- An address lies in the slot loaded at the last reset or in the log area (R530, R544). -/
def protectedAddr (s : State) (a : Nat) : Bool :=
  (s.get F.IMG_STAT_SLOT = 1 && decide (a < 0x400000)) ||
  (s.get F.IMG_STAT_SLOT = 2 && decide (0x400000 ≤ a) && decide (a < 0x800000)) ||
  (decide (0x800000 ≤ a) && decide (a < 0x800000 + max (logSectors s) 8 * 4096))

/-- The refusal code of R544, 0 if none. -/
def qspiReason (s : State) : Nat :=
  let a := s.get F.QSPI_ADDR_ADDR
  let op := s.get F.QSPI_CTRL_OP
  if s.bkg.qspi.isSome || !s.bkg.ops.isEmpty then 1
  else if (op = 1 || op = 2) && protectedAddr s a then 2
  else if (op = 1 && a % 256 != 0) || (op = 2 && a % 4096 != 0) then 3
  else if (op = 1 || op = 2) && decide (flashBytes s ≤ a) then 4
  else 0

/-- The key of a program buffer word. -/
def qspiKey (i : Nat) : Nat := 0x9000000 + i
/-- The 256 bytes of the program buffer (R544). -/
def qspiBuffer (s : State) : List Byte := (List.range 64).flatMap fun i => beBytes 4 (s.bank (qspiKey i)).toNat

/-- QSPI_CTRL.GO with an operation that is refused: counted, with its reason; GO clears at once, but for that of an operation in
work. -/
def qspiRefuse (s : State) (reason : Nat) : State :=
  ((s.set F.QSPI_STAT_REASON reason).setB F.QSPI_CTRL_GO s.bkg.qspi.isSome).raise G.IMG_QSPI_REFUSED

/-- QSPI_CTRL.GO with OP program or erase (R544). -/
def qspiStart (s : State) (op : Nat) : State :=
  let s0 := s.set F.QSPI_CTRL_OP op
  let r := qspiReason s0
  if r ≠ 0 then qspiRefuse s0 r
  else
    let a := s0.get F.QSPI_ADDR_ADDR
    let o : FlashOp := if op = 1 then .program a (qspiBuffer s0) false else .erase (a / 4096)
    showBusy (((s0.set F.QSPI_STAT_REASON 0).set F.QSPI_CTRL_GO 1).bkgUp fun b => { b with qspi := some o })

/-- QSPI_CTRL.GO with OP read status (R544): status register 1 as the flash answers it. -/
def qspiStatus (s : State) (sr1 : Byte) : State :=
  let s0 := s.set F.QSPI_CTRL_OP 3
  let r := qspiReason s0
  if r ≠ 0 then qspiRefuse s0 r
  else ((s0.set F.QSPI_STAT_REASON 0).set F.QSPI_STAT_SR1 sr1.toNat).set F.QSPI_CTRL_GO 0

/-- A write through a QSPI_BDATA alias (R549). -/
def qspiBufWrite (s : State) (v : Word) : State :=
  if s.on F.QSPI_STAT_BUSY then qspiRefuse s 1
  else
    let i := s.get F.QSPI_BPTR_WPTR
    (s.putBank (qspiKey i) v).set F.QSPI_BPTR_WPTR (i + 1)

/-- A whole read through a QSPI_BDATA alias (R549). -/
def qspiBufRead (s : State) : State :=
  let i := s.get F.QSPI_BPTR_WPTR
  (s.answer (s.bank (qspiKey i))).set F.QSPI_BPTR_WPTR (i + 1)

end Sys2Proof.Machine
end

