-- ==== Sys2Proof/Machine/Rings.lean ====
section
/-! DEFINITION. Rings.lean: the 32 rings, their entries, window access and telemetry (14). -/

set_option Elab.async false

namespace Sys2Proof.Machine

/-- The state after an update of one ring. -/
def State.ringUp (s : State) (r : Nat) (f : RingSt → RingSt) : State := { s with rings := s.rings.modify r f }
/-- One ring. -/
def State.ring (s : State) (r : Nat) : RingSt := s.rings.getD r {}

/-- The key of word w of the entry at index i of ring r. -/
def ringKey (r i w : Nat) : Nat := 0x8000000 + (r * 1024 + i) * 4 + w
/-- The entries of a SIZE code (R476). -/
def sizeOfCode (code : Nat) : Nat := [64, 128, 256, 512].getD code 1024
/-- The entries of ring r. -/
def ringSize (s : State) (r : Nat) : Nat := sizeOfCode (s.get (F.RNG_CFG_SIZE r))
/-- Entries held. -/
def ringCount (s : State) (r : Nat) : Nat := s.get (F.RNG_STAT_COUNT r)
/-- The ring is full. -/
def ringFull (s : State) (r : Nat) : Bool := decide (ringSize s r ≤ ringCount s r)
/-- A CMD ring has index 0 to 15. -/
def isCmd (r : Nat) : Bool := decide (r < 16)
/-- Where the entry at index i of ring r is stored, as a key of the memory errors. -/
def ringErrKey (r i : Nat) : Nat := let x := Config.ringPlace r i; errKey (40 + x % 3) (x / 3 % 8192)

/-- Sets COUNT with FULL and EMPTY, and RSEQ, the SEQ of the entry at RIDX; of an empty ring, of the next entry (DEDUCED, log entry 45). -/
def setCount (s : State) (r n : Nat) : State :=
  let s1 := ((s.set (F.RNG_STAT_COUNT r) n).setB (F.RNG_STAT_EMPTY r) (n = 0)).setB (F.RNG_STAT_FULL r) (decide (ringSize s r ≤ n))
  s1.set (F.RNG_RPTR_RSEQ r)
    (if n = 0 then s1.get (F.RNG_WPTR_WSEQ r) else (s1.bank (ringKey r (s1.get (F.RNG_RPTR_RIDX r)) 0)).toNat / 65536)

/-- The next SEQ is taken (R475). -/
def takeSeq (s : State) (r : Nat) : State := s.set (F.RNG_WPTR_WSEQ r) ((s.get (F.RNG_WPTR_WSEQ r) + 1) % 65536)

/-- An entry is stored at WIDX with its SEQ, TYPE and CH (R474, R475). -/
def ringStore (s : State) (r type ch : Nat) (payload : List Word) : State :=
  let i := s.get (F.RNG_WPTR_WIDX r)
  let w0 := BitVec.ofNat 32 (s.get (F.RNG_WPTR_WSEQ r) * 65536 + type % 256 * 256 + ch % 256)
  let s1 := (s.putBank (ringKey r i 0) w0).putBank (ringKey r i 1) (payload.getD 0 0)
  let s2 := (s1.putBank (ringKey r i 2) (payload.getD 1 0)).putBank (ringKey r i 3) (payload.getD 2 0)
  let k := ringErrKey r i
  let s3 := bankWritten s2 (k / 16384) (k % 16384)
  let s4 := (takeSeq s3 r).set (F.RNG_WPTR_WIDX r) ((i + 1) % ringSize s r)
  setCount s4 r (ringCount s r + 1)

/-- RIDX moves on by one entry. -/
def ringDrop (s : State) (r : Nat) : State :=
  if ringCount s r = 0 then s
  else setCount (s.set (F.RNG_RPTR_RIDX r) ((s.get (F.RNG_RPTR_RIDX r) + 1) % ringSize s r)) r (ringCount s r - 1)

/-- The LOSS entry is stored once space for one entry exists (R486). -/
def flushLoss (s : State) (r : Nat) : State :=
  let x := s.ring r
  if x.lost = 0 || ringFull s r || !s.on (F.RNG_CFG_EN r) then s
  else
    let p0 := BitVec.ofNat 32 (x.lossSeq * 65536 + min x.lost 0xFFFF)
    let blk := s.time.block
    let s1 := ringStore s r 0x26 (r - 16) [p0, BitVec.ofNat 32 (blk / 2 ^ 32), BitVec.ofNat 32 blk]
    (s1.ringUp r fun y => { y with lost := 0 }).cond (G.RNG_DROP r) false

/-- An entry that cannot be stored takes its SEQ and is lost (R486). -/
def loseEntry (s : State) (r : Nat) : State :=
  let seq := s.get (F.RNG_WPTR_WSEQ r)
  let s1 := takeSeq s r
  let s2 := s1.ringUp r fun y => { y with lossSeq := if y.lost = 0 then seq else y.lossSeq, lost := y.lost + 1 }
  (s2.set (F.RNG_LOST_LOST r) (s2.get (F.RNG_LOST_LOST r) + 1)).cond (G.RNG_DROP r) true

/-- An entry is produced for the TEL ring of channel c (R475, R486, R487): in an owner it is stored or lost, in a standby a full ring
overwrites its oldest entry. -/
def telProduce (s : State) (c type : Nat) (payload : List Word) : State :=
  let r := 16 + c
  let s0 := flushLoss s r
  let en := s0.on (F.RNG_CFG_EN r)
  if en && !ringFull s0 r && (s0.ring r).lost = 0 then ringStore s0 r type c payload
  else if s0.pins.own then loseEntry s0 r
  else if en then ringStore (if ringFull s0 r then ringDrop s0 r else s0) r type c payload
  else setCount (takeSeq s0 r) r 0

/-- An entry delivered through a gate as type and payload words. -/
def telDeliver (s : State) (ws : List Word) : State :=
  telProduce s ((ws.getD 1 0).toNat % 16) (ws.getD 2 0).toNat (ws.drop 3)

/-- The push reaches its ring less than 5.0 µs before the coming block boundary (R479). The model knows the time within a block by its
updates, and takes a push as granted at the end of the running update (DESIGN CHOICE, log entry 46); 5.0 µs are 39,321.6 taps. -/
def pushLate (s : State) : Bool := decide (6553600 < 10 * (s.time.updInBlock + 1) * u32 s + 393216)

/-- A push into a CMD ring: whether it was taken (R478). -/
def cmdPush (s : State) (r : Nat) (ws : List Word) : State × Bool :=
  if !s.on (F.RNG_CFG_EN r) || ringFull s r then (s, false)
  else
    let w0 := (ws.getD 0 0).toNat
    let s1 := ringStore s r (w0 / 256 % 256) (w0 % 256) (ws.drop 1)
    (if pushLate s then s1.ringUp r fun x => { x with late := x.late + 1 } else s1, true)

/-! ### Window access (R485, R488, R489) -/

/-- A path uses the host's staging entry and read latch; every other path the fabric's. -/
def hostSide : Path → Bool
  | .hostPrimary | .hostGroup | .hostManager => true
  | .mgmtCore | .ringEngine | .cmdRing _ | .image | .twinResync | .debugPort => false

/-- A write of RNG_WDATA word 0, 1 or 2 fills the staging entry. -/
def ringStage (s : State) (host : Bool) (r w : Nat) (v : Word) : State :=
  s.ringUp r fun x => if host then { x with stageH := x.stageH.set w v } else { x with stageF := x.stageF.set w v }

/-- A write of RNG_WDATA word 3 pushes the staging entry and clears it (R488). A push into a full or disabled CMD ring, and a host push
into a TEL ring, is refused (R478, R485); the management core produces a TEL entry (R473). -/
def ringPush (s : State) (host : Bool) (r : Nat) (v : Word) : State :=
  let x := s.ring r
  let ws := (if host then x.stageH else x.stageF).set 3 v
  let s1 := s.ringUp r fun x =>
    if host then { x with stageH := List.replicate 4 0 } else { x with stageF := List.replicate 4 0 }
  if isCmd r then
    let p := cmdPush s1 r ws
    if p.2 then p.1 else p.1.raise (G.RNG_PUSH_REFUSED r)
  else if host then s1.raise (G.RNG_PUSH_REFUSED r)
  else telProduce s1 (r - 16) ((ws.getD 0 0).toNat / 256 % 256) (ws.drop 1)

/-- The entry at RIDX as it is returned, with the error its word holds found by the read (R489). -/
def headEntry (s : State) (r : Nat) : State × List Word × Bool :=
  let i := s.get (F.RNG_RPTR_RIDX r)
  let ws := (List.range 4).map fun w => s.bank (ringKey r i w)
  let k := ringErrKey r i
  if errAt s k = 0 then (s, ws, false)
  else
    let f := foundError s srcRead (k / 16384) (k % 16384)
    (f.1, ws, f.2 == .ue)

/-- The master named by OWNER reads a TEL ring (R485). -/
def ownsRing (s : State) (host : Bool) (r : Nat) : Bool := s.on (F.RNG_CFG_OWNER r) == host

/-- Sets a read latch. -/
def setLatch (s : State) (host : Bool) (r : Nat) (ws : List Word) (held : Bool) : State :=
  s.ringUp r fun x => if host then { x with latchH := ws, heldH := held } else { x with latchF := ws, heldF := held }

/-- A read of RNG_RDATA word 0 (R485, R488, R489). -/
def ringFetch (s : State) (host : Bool) (r : Nat) : State :=
  if isCmd r then s.answer 0
  else if !ownsRing s host r then (s.raise (G.RNG_NOT_OWNER r)).answer 0
  else if ringCount s r = 0 then ((setLatch s host r (List.replicate 4 0) false).raise (G.RNG_RD_EMPTY r)).answer 0
  else
    let (s1, ws, ue) := headEntry s r
    if ue then
      let w0 := BitVec.ofNat 32 (s1.get (F.RNG_RPTR_RSEQ r) * 65536 + 0xFF * 256 + (r - 16))
      ((setLatch s1 host r [w0, 0, 0, 0] true).raise (G.RNG_UE r)).answer w0
    else (setLatch s1 host r ws true).answer (ws.getD 0 0)

/-- RNG_RDATA words 1 to 3 return the latch; a read by a master that is not the owner counts NOT_OWNER at word 0 alone (DESIGN CHOICE, log
entry 45). -/
def ringLatched (s : State) (host : Bool) (r w : Nat) : Word :=
  let x := s.ring r
  if isCmd r || !ownsRing s host r then 0 else (if host then x.latchH else x.latchF).getD w 0

/-- All of word 3 has been sent: RIDX advances by one (R488), and a waiting LOSS entry takes the space (R486). -/
def ringConsume (s : State) (host : Bool) (r : Nat) : State :=
  let x := s.ring r
  let s0 := s.answer (ringLatched s host r 3)
  if isCmd r || !ownsRing s host r || !(if host then x.heldH else x.heldF) then s0
  else flushLoss (ringDrop (s0.ringUp r fun x => if host then { x with heldH := false } else { x with heldF := false }) r) r

/-- The sum of the sizes of all rings with the code of ring r changed (R476). -/
def sizeSum (s : State) (r code : Nat) : Nat :=
  ((List.range 32).map fun q => if q = r then sizeOfCode code else ringSize s q).sum

/-- A write of RNG_CFG (R476, R477): refused where it changes SIZE with EN = 1 or breaks the sum; clearing EN empties the ring. -/
def ringConfig (s : State) (r : Nat) (v : Word) : State :=
  let code := v.toNat % 8
  let change := sizeOfCode code != ringSize s r
  if (change && s.on (F.RNG_CFG_EN r)) || decide (24576 < sizeSum s r code) then s.raise (G.RNG_CFG_REFUSED r)
  else
    let s1 := storeCoded s (R.RNG_CFG r) v
    if v.toNat < 2 ^ 31 then
      let s2 := (s1.set (F.RNG_WPTR_WIDX r) 0).set (F.RNG_RPTR_RIDX r) 0
      (setCount s2 r 0).ringUp r fun x => { x with late := 0, heldH := false, heldF := false }
    else flushLoss s1 r

/-! ### CMD entries (R479 to R482) -/

/-- Entries of CMD ring c that the ring engine may take at this boundary (R479). -/
def cmdEligible (s : State) (c : Nat) : Nat :=
  if !s.on (F.RNG_CFG_EN c) then 0
  else min (ringCount s c - (s.ring c).late) (s.get (F.RNG_CFG_BATCH_M1 c) + 1 - (s.ring c).taken)

/-- A pointer names a whole register of channel c whose fields are all RW, RWL or RO (R481). -/
def cmdPointer (c p : Nat) : Bool :=
  let own :=
    (decide (0x1000 ≤ p) && decide (p < 0x2000) && (p - 0x1000) / 0x100 == c)
    || (decide (0x2000 ≤ p) && decide (p < 0x4000) && (p - 0x2000) / 0x200 == c)
    || (decide (0x4000 ≤ p) && decide (p < 0x5000) && (p - 0x4000) / 0x100 == c)
    || (decide (0x5000 ≤ p) && decide (p < 0x7000) && (p - 0x5000) / 0x200 == c)
    || (decide (0x7000 ≤ p) && decide (p < 0x7800) && (p - 0x7000) / 0x80 == c)
    || (decide (0x8000 ≤ p) && decide (p < 0x8800) && (p - 0x8000) / 0x80 == c)
  own && p % 4 == 0 && match rowOf p with
    | some (x, _) => x.w1c == 0 && x.sc == 0 && x.wo == 0 && x.rwb == 0
    | none => false

/-- The head entry of CMD ring c is taken: the state after it, the writes it makes (pointer, data) and the telemetry entry it answers with
(R480 to R483). -/
def cmdTake (s : State) (c : Nat) : State × List (Nat × Word) :=
  let (s0, ws, ue) := headEntry s c
  let seq := s0.get (F.RNG_RPTR_RSEQ c)
  let s1 := (ringDrop s0 c).ringUp c fun x => { x with taken := x.taken + 1 }
  let n (i : Nat) : Nat := (ws.getD i 0).toNat
  let type := n 0 / 256 % 256
  let ptrA := n 1 / 65536
  let dataA := BitVec.ofNat 32 (n 1 % 65536 * 65536 + n 2 / 65536)
  let ptrB := n 2 % 65536
  let dataB := ws.getD 3 0
  let blk := s1.time.block
  let answerEntry (t : State) (typ mid : Nat) : State :=
    telProduce t c typ [BitVec.ofNat 32 (seq * 65536 + mid), BitVec.ofNat 32 (blk / 2 ^ 32), BitVec.ofNat 32 blk]
  let reject (t : State) (reason : Nat) : State × List (Nat × Word) := (answerEntry (t.raise (G.RNG_CMD_REJ c)) 0x25 (reason * 256), [])
  if ue then reject (s1.raise (G.RNG_UE c)) 4
  else if type ≠ 1 ∧ type ≠ 2 ∧ type ≠ 3 then reject s1 1
  else if n 0 % 256 ≠ c then reject s1 2
  else if type = 3 then (answerEntry s1 0x24 0, [])
  else if !cmdPointer c ptrA || (type = 2 && !cmdPointer c ptrB) then reject s1 3
  else (s1, if type = 1 then [(ptrA, dataA)] else [(ptrA, dataA), (ptrB, dataB)])

/-- The TYPE of the head entry of CMD ring c. -/
def cmdHeadType (s : State) (c : Nat) : Nat := (s.bank (ringKey c (s.get (F.RNG_RPTR_RIDX c)) 0)).toNat / 256 % 256

/-- The boundary's work on the CMD rings is over: what is held is eligible at the next one. -/
def cmdBoundaryEnd (s : State) : State := { s with rings := s.rings.map fun x => { x with late := 0, taken := 0 } }

/-! ### LOOP telemetry (R483) -/

/-- The empty window of LOOP telemetry. -/
def emptyWindow : Nat × Nat × Nat × Nat × Nat × Nat := (0xFF, 0, 0, 0, 0, 0)

/-- One update of a channel enters its LOOP window: slack of an update in which its lane ran, trip counter, overrun, CBC trip, results. -/
def windowUpdate (s : State) (c : Nat) (ran overrun : Bool) : State :=
  s.bkgUp fun b => { b with window := b.window.modify c fun (sl, tc, ov, cb, v, i) =>
    (if ran then min sl (s.get (F.LPE_SLK_LAST c)) else sl, max tc (s.get (F.CH_TRST_TCNT c)), if overrun then min (ov + 1) 255 else ov,
      if s.on (F.CH_TRST_CBC_NOW c) then min (cb + 1) 255 else cb, max v (s.input (2 * c)).last.natAbs, max i (s.input (2 * c + 1)).last.natAbs) }

/-- The payload of channel c's LOOP entry at the end of a window (R483). -/
def loopPayload (s : State) (c : Nat) : List Word :=
  let (sl, tc, ov, cb, v, i) := s.bkg.window.getD c emptyWindow
  [BitVec.ofNat 32 (sl * 2 ^ 24 + tc * 2 ^ 16 + ov * 2 ^ 8 + cb), BitVec.ofNat 32 (min v 0x7FFF * 65536 + min i 0x7FFF),
    BitVec.ofNat 32 ((s.rd (R.CH_TRST c)).toNat % 65536 * 65536)]

/-- A window of LOOP telemetry ends at a block boundary and a new one begins (R483); the entries of the window before, if they have not
reached the ring engine yet, are not produced, and WU_LATE counts (R521). -/
def windowEnd (s : State) : State :=
  if s.time.block % 12 ≠ 0 then s
  else
    (s.raiseIf s.bkg.telDue G.BKG_WU_LATE).bkgUp fun b =>
      { b with telDue := true, loop := (List.range 16).map (loopPayload s), window := List.replicate 16 emptyWindow }

/-- Wind-up produces the LOOP entries of the window that ended, for all channels (R483); nothing reaches the ring engine while its port is
DOWN (R521). -/
def telemetryCollect (s : State) : State :=
  if bitN (s.get F.FAB_PORT_DOWN) 3 then s
  else
    let s1 := (List.range 16).foldl (fun t c => telProduce t c 0x20 (s.bkg.loop.getD c [])) s
    s1.bkgUp fun b => { b with telDue := false }

end Sys2Proof.Machine
end

