-- ==== Sys2Proof/Machine/Clocks.lean ====
section
/-! DEFINITION. Clocks.lean: the reference correction, lock detectors, the SAFE clock watchdog and clock measurement (18). -/

set_option Elab.async false

namespace Sys2Proof.Machine

/-- The state after an update of the start-up state. -/
def State.sysUp (s : State) (f : Sys → Sys) : State := { s with sys := f s.sys }
/-- The state after an update of the twin state. -/
def State.twinUp (s : State) (f : Twin → Twin) : State := { s with twin := f s.twin }

/-- The codes of CLK_STAT.REF_MODE. -/
def refServo : Nat := 0
def refMarker : Nat := 1
def refNominal : Nat := 2

/-- REF_MODE (R582). -/
def refMode (s : State) : Nat :=
  if s.twin.marking then refMarker
  else if s.get F.PTP_STAT_STATE ≠ ptpDisabled ∧ s.get F.PTP_STAT_STATE ≠ ptpListen then refServo
  else refNominal

/-- The target of c (R582). -/
def refTarget (s : State) : Int :=
  clampI (-100000) 100000
    (if s.twin.marking then s.getS F.CLK_REFBASE_BASE + s.getS F.TWN_MARK_CORR
     else if refMode s = refServo then s.getS F.CLK_REFADJ_SERVO
     else 0)

/-- c, the applied correction in 0.001 ppm (R581). -/
def refCorr (s : State) : Int := s.getS F.PTP_FREQ_FREQ
/-- Sets c. -/
def setCorr (s : State) (c : Int) : State := s.set F.PTP_FREQ_FREQ (pattern 32 (clampI (-100000) 100000 c))

/-- c moves one step of 0.001 ppm toward its target, or takes it at once in marker mode (R583). -/
def refSlew (s : State) : State :=
  let t := refTarget s
  let c := refCorr s
  if s.twin.marking then setCorr s t
  else if c < t then setCorr s (c + 1)
  else if t < c then setCorr s (c - 1)
  else s

/-- A write of CLK_REFADJ: the running management firmware's only, with values beyond ±100,000 at the nearer end. -/
def writeRefAdj (s : State) (path : Path) (v : Word) : State :=
  if path = .mgmtCore ∧ firmwareRuns s then
    s.set F.CLK_REFADJ_SERVO (pattern 24 (clampI (-100000) 100000 (signed 24 v.toNat)))
  else s

/-- CLK_STAT as it reads: REF_MODE and TWIN_PD follow their conditions (R582, R587). -/
def clkStat (s : State) : Word :=
  State.putBits (State.putBits (s.rd R.CLK_STAT) F.CLK_STAT_REF_MODE (refMode s)) F.CLK_STAT_TWIN_PD
    (if s.on F.TWN_CFG_PAIR_EN then 0 else 1)

/-- The media PLL locks (R584): the first lock after a reset starts the period and block counters at block index 0 (R555). -/
def mediaLock (s : State) : State :=
  let s1 := (s.set F.CLK_STAT_MEDIA_LOCK 1).safeUp fun t => { t with pllOut := false }
  if s1.sys.counting then s1
  else ({ s1 with time := {} } : State).sysUp fun x => { x with counting := true }

/-- The network or system PLL locks (R584, R597). -/
def pllLock (s : State) (x : Pll) : State :=
  match x with
  | .network => (s.set F.CLK_STAT_NET_LOCK 1).cond G.CLK_NET_UNLOCK false
  | .system => (s.set F.CLK_STAT_SYS_LOCK 1).cond G.CLK_SYS_UNLOCK false
  | .twin => (s.set F.CLK_STAT_TWIN_LOCK 1).cond G.CLK_TWIN_UNLOCK false

/-- A PLL loses lock (R585). -/
def pllUnlock (s : State) (x : Pll) : State :=
  match x with
  | .network => if s.on F.CLK_STAT_NET_LOCK then (s.set F.CLK_STAT_NET_LOCK 0).cond G.CLK_NET_UNLOCK true else s
  | .system => if s.on F.CLK_STAT_SYS_LOCK then (s.set F.CLK_STAT_SYS_LOCK 0).cond G.CLK_SYS_UNLOCK true else s
  | .twin => if s.on F.CLK_STAT_TWIN_LOCK then (s.set F.CLK_STAT_TWIN_LOCK 0).cond G.CLK_TWIN_UNLOCK true else s

/-- The SAFE clock watchdog trips (R586): the override is asserted, OWN_N released and FAULT_N driven low until a device reset. -/
def safeWatchdog (s : State) : State := releaseOwn ((allOff s false).safeUp fun t => { t with watchdog := true })

/-- Cycles of a clock of CLK_MSEL in 10 ms of the crystal at its nominal frequency (R579). -/
def nominalCount (clk : Nat) : Nat :=
  [4915200, 6144000, 1228800, 2457600, 1250000, 4000000, 5000000, 400000].getD clk 4915200

/-- A measurement window ends with a count of cycles (R598). A window during which CLK_MSEL changed gives no result. -/
def clockMeasure (s : State) (count : Nat) : State :=
  let sel := s.get F.CLK_MSEL_CLK
  let now := if sel < 8 then sel else 0
  if s.sys.msel ≠ now then s.sysUp fun x => { x with msel := now }
  else
    let nom := nominalCount now
    -- units of 5 ppm: (count / nom - 1) * 200000
    let dev := clampI (-2047) 2047 (rneDiv (((count : Int) - nom) * 200000) nom)
    ((s.set F.CLK_MRES_SEQ (nextSeq1 (s.get F.CLK_MRES_SEQ))).set F.CLK_MRES_CLK now).set F.CLK_MRES_DEV (pattern 12 dev)

end Sys2Proof.Machine
end

