-- ==== Sys2Proof/Machine/Startup.lean ====
section
/-! DEFINITION. Startup.lean: resets, readiness, muting, life-cycle states and debug access (17). -/

set_option Elab.async false

namespace Sys2Proof.Machine

/-- The codes of SYS_BOOT.BSTATE (R555). -/
def bsWipe : Nat := 0
def bsScan : Nat := 1
def bsLoad : Nat := 2
def bsStart : Nat := 3
def bsRun : Nat := 4
def bsRecovery : Nat := 5
def bsRetired : Nat := 6
def bsDbgwait : Nat := 7

/-- SYS_BOOT.BSTATE. -/
def bstate (s : State) : Nat := s.get F.SYS_BOOT_BSTATE
/-- The device is ready (R557, R559). -/
def ready (s : State) : Bool := bstate s = bsRun || bstate s = bsRecovery || bstate s = bsRetired
/-- The READY ball (R560). -/
def readyBall (s : State) : Bool := bstate s = bsRun && !s.sys.inReset

/-! ### Life-cycle states (R569 to R571) -/

/-- Bits blown from bit 0 upward; none for a field with a gap. -/
def blownBits (f : BitVec 16) : Option Nat := (List.range 17).find? fun n => f.toNat == 2 ^ n - 1
/-- n as SYS_LC.NBLOWN shows it. -/
def nblown (f : BitVec 16) : Nat := (blownBits f).getD 0x1F
/-- The code of the life-cycle state. -/
def lcCode (f : BitVec 16) : Nat :=
  match blownBits f with
  | none => 4
  | some n => if n = 0 then 0 else if n = 1 then 1 else if 15 ≤ n then 4 else if n % 2 = 0 then 2 else 3

def lcBlank : Nat := 0
def lcDevelop : Nat := 1
def lcField : Nat := 2
def lcService : Nat := 3
def lcRetired : Nat := 4

/-- SYS_LC.STATE. -/
def lcState (s : State) : Nat := s.get F.SYS_LC_STATE

/-- A key slot is programmed and not revoked. -/
def keyUsable (f : Fuses) : Bool := (f.key0.isSome && !f.rev0) || (f.key1.isSome && !f.rev1)

/-- A path of the host, the management core or the debug access port. -/
def lcPath : Path → Bool
  | .hostPrimary | .hostGroup | .hostManager | .mgmtCore | .debugPort => true
  | .ringEngine | .cmdRing _ | .image | .twinResync => false

/-- The transition to `target` is in R570 and came through the path it names. -/
def lcTransition (s : State) (path : Path) (target : Nat) : Bool :=
  let st := lcState s
  if (st = lcField && (target = lcService || target = lcRetired)) then path == .debugPort
  else lcPath path &&
    ((st = lcBlank && target = lcDevelop) || (st = lcDevelop && target = lcField) || (st = lcService && target = lcField)
      || ((st = lcBlank || st = lcDevelop || st = lcService) && target = lcRetired))

/-- The requirement of R570 holds. -/
def lcRequirement (s : State) (target : Nat) : Bool :=
  let st := lcState s
  if st = lcDevelop ∧ target = lcField then keyUsable s.sys.fuses && s.sys.fuses.cred.isSome
  else if st = lcService ∧ target = lcField then keyUsable s.sys.fuses
  else if st = lcField then s.on F.SYS_LC_CRED_OK
  else true

/-- The refusal code of R571, tests 1 to 4; 0 if none. -/
def lcReason (s : State) (path : Path) (target : Nat) : Nat :=
  if !lcTransition s path target then 1
  else if !lcRequirement s target then 2
  else if s.pins.own || (List.range 16).any (fun c => !chanStopped s c) then 3
  else if s.get F.SYS_LC_NBLOWN = 14 ∧ target = lcService then 4
  else 0

/-- A request is refused: REASON, one event, GO clear. -/
def lcRefuse (s : State) (reason : Nat) : State :=
  ((s.set F.SYS_LCREQ_REASON reason).set F.SYS_LCREQ_GO 0).raise G.SYS_LC_REFUSED

/-- A LIFECYCLE record (R524). -/
def lcRecord (s : State) (target : Nat) : LogRec :=
  { type := 4, len := 2,
    body := logBytes 1 (lcState s) ++ logBytes 1 target ++ logBytes 6 0 ++ logBytes 6 s.time.block }

/-- A write of SYS_LCREQ: TARGET is stored; GO with TARGET (R571, R573): tests 1 to 4, then the LIFECYCLE record is written. A log that writes no records fails it
(DEDUCED, log entry 47). -/
def lcRequest (s : State) (path : Path) (v : Word) : State :=
  let target := v.toNat % 8
  let s0 := s.set F.SYS_LCREQ_TARGET target
  let r := lcReason s0 path target
  if s0.sys.lcBits ≠ 0 ∨ bitN v.toNat 8 = false then s0
  else if r ≠ 0 then lcRefuse s0 r
  else if s0.bkg.stopped || !s0.on F.BKG_CFG_LOG_EN then lcRefuse (s0.raise G.BKG_LOG_FAIL) 5
  else
    let bits := if target = lcRetired then 16 else s0.get F.SYS_LC_NBLOWN + 1
    let s1 := ((s0.set F.SYS_LCREQ_REASON 0).set F.SYS_LCREQ_GO 1).sysUp fun x => { x with lcBits := bits }
    writeRecord s1 (lcRecord s1 target)

/-- The bytes of a log operation are a LIFECYCLE record. -/
def isLcOp : FlashOp → Bool
  | .program _ bs true => (bs.headD 0).toNat == 4
  | .program _ _ false => false
  | .erase _ => false

/-- A request whose LIFECYCLE record fails is given up with REASON 5 (R571, R573). -/
def lcDrop (s : State) : State := lcRefuse (s.sysUp fun x => { x with lcBits := 0 }) 5

/-- A flash operation ends: that of the LIFECYCLE record zeroes the key shadows, or refuses the request with REASON 5 (R512, R573); every
other as R525 and R544 say. -/
def flashDone (s : State) (ok : Bool) : State :=
  match s.bkg.qspi, s.bkg.ops with
  | none, op :: rest =>
    if isLcOp op then
      if ok then
        (flashOpDone s true).sysUp fun x =>
          { x with shadowsZero := true, fuses := { x.fuses with key0 := none, key1 := none, cred := none } }
      else
        let n := s.bkg.fails + 1
        lcDrop (showBusy ((s.bkgUp fun b =>
          { b with ops := if 3 ≤ n then [] else rest, newSector := true, fails := n, stopped := decide (3 ≤ n) }).raise G.BKG_LOG_FAIL))
    else
      let s1 := flashOpDone s ok
      if s1.bkg.stopped && !s.bkg.stopped && s1.sys.lcBits != 0 && !s1.sys.shadowsZero then lcDrop s1 else s1
  | _, _ => flashOpDone s ok

/-! ### Reset (R550 to R554) -/

/-- The bits of SYS_RST. -/
def rstPower : Nat := 1
def rstSupply : Nat := 2
def rstPin : Nat := 4
def rstSoft : Nat := 8
def rstLcycle : Nat := 16
def rstDebug : Nat := 32

/-- The device enters reset with a source (R550): everything takes its reset value but what lies outside the device's reset: the fuses, the
waiting commands, and the model's counter of free values. -/
def enterReset (s : State) (cause : Nat) : State :=
  { State.reset with
    sys := { inReset := true, cause := (if s.sys.inReset then s.sys.cause else 0) ||| cause, fuses := s.sys.fuses, blown := s.sys.blown },
    pending := s.pending, free := s.free }

/-- The internal reset ends (R551): the straps are sampled, the fuses and the reset's sources are shown (R375, R411, R441, R554, R638). -/
def resetRelease (s : State) (x : Straps) : State :=
  if !s.sys.inReset then s
  else
    let f := s.sys.blown
    let s0 : State := { State.reset with pending := s.pending, free := s.free, sys := { fuses := f, blown := f } }
    let s1 := (s0.wr R.SYS_RST (BitVec.ofNat 32 s.sys.cause)).set F.SYS_BOOT_BOOTSEL x.bootsel.toNat
    let s2 := (s1.setB F.SYS_BOOT_ROLE x.role).setB F.SYS_BOOT_MGR x.mgr
    let s3 := ((s2.setB F.SYS_LC_CRED_PRG f.cred.isSome).setB F.SYS_LC_REV1 f.rev1).setB F.SYS_LC_REV0 f.rev0
    let s4 := (s3.setB F.SYS_LC_KEY1 f.key1.isSome).setB F.SYS_LC_KEY0 f.key0.isSome
    let s5 := (s4.set F.SYS_LC_NBLOWN (nblown f.lc)).set F.SYS_LC_STATE (lcCode f.lc)
    let s6 := (s5.wr R.SYS_DEVNUM_H (f.devnum.extractLsb' 32 32)).wr R.SYS_DEVNUM_L (f.devnum.extractLsb' 0 32)
    ((s6.set F.HST_STAT_ADDR x.addr.toNat).setB F.TWN_STAT_ROLE x.role).setB F.STR_STAT_MGR x.mgr

/-- The fuse bits of an accepted request are blown, or did not blow, and the device resets (R573). -/
def fuseBlowDone (s : State) (ok : Bool) : State :=
  if s.sys.lcBits = 0 || !s.sys.shadowsZero then s
  else
    let b := if ok then { s.sys.blown with lc := BitVec.ofNat 16 (2 ^ s.sys.lcBits - 1) } else s.sys.blown
    enterReset (s.sysUp fun x => { x with blown := b }) rstLcycle

/-- A credential through the debug access port (R510, R572, R575). -/
def credential (s : State) (bytes : List Byte) : State :=
  if bstate s = bsWipe || lcState s = lcRetired || 3 ≤ s.sys.credTries then s
  else if s.sys.fuses.cred = some bytes then s.set F.SYS_LC_CRED_OK 1
  else s.sysUp fun x => { x with credTries := x.credTries + 1 }

/-- A fuse write through the debug access port (R574, R575), taking effect at the next reset; the port is closed until the wipe ends (R510).
A slot that is programmed keeps what it holds (DESIGN CHOICE, log entry 48). -/
def fuseProgram (s : State) (what : FuseWrite) : State :=
  let st := if bstate s = bsWipe then lcRetired else lcState s
  match what with
  | .key slot bytes =>
    if st ≠ lcBlank ∧ st ≠ lcDevelop then s
    else s.sysUp fun x =>
      { x with blown := if slot = 0 then { x.blown with key0 := x.blown.key0 <|> some (bytesAt bytes 0 32) }
                        else { x.blown with key1 := x.blown.key1 <|> some (bytesAt bytes 0 32) } }
  | .credential bytes =>
    if st ≠ lcBlank ∧ st ≠ lcDevelop then s
    else s.sysUp fun x => { x with blown := { x.blown with cred := x.blown.cred <|> some (bytesAt bytes 0 32) } }
  | .revoke slot =>
    if st ≠ lcDevelop ∧ st ≠ lcService then s
    else s.sysUp fun x => { x with blown := if slot = 0 then { x.blown with rev0 := true } else { x.blown with rev1 := true } }

/-- Debug access that R575 grants in BLANK, DEVELOP and SERVICE. -/
def debugOpen (s : State) : Bool := lcState s = lcBlank || lcState s = lcDevelop || lcState s = lcService
/-- The debug access port reaches the device: R575 grants it, and the wipe has ended (R510, R562). -/
def debugAccess (s : State) : Bool := debugOpen s && bstate s != bsWipe

/-- EXTEST or INTEST is loaded (R575): a debug halt of the whole device, OWN_N released, the balls at the boundary register. -/
def boundaryScanLoad (s : State) : State :=
  if debugOpen s then releaseOwn ((debugHalt s .device).sysUp fun x => { x with boundaryScan := true }) else s

/-! ### Muting (R563 to R568) -/

/-- A source of R94 is locked (R568). -/
def sourceLocked (s : State) (code : Nat) : Bool :=
  let lo := code % 64
  if code / 64 = 0 then true
  else if code / 64 = 1 then
    (s.get F.PTP_STAT_STATE = ptpLocked || s.get F.PTP_STAT_STATE = ptpPps) &&
    (List.range 16).any fun i =>
      s.on (F.AIN_SSTAT_ACTIVE i) && (s.on (F.AIN_SSTAT_RX_A i) || s.on (F.AIN_SSTAT_RX_B i))
        && decide (s.get (F.AIN_SCFG_BASE i) ≤ lo) && decide (lo < s.get (F.AIN_SCFG_BASE i) + streamChans s i)
  else if code / 64 = 2 then bitN (s.rd (0x850 + 4 * (lo / 16))).toNat 7
  else if lo < 8 then bitN (s.rd (0x880 + 4 * (lo / 2))).toNat 7
  else true

/-- Every routed slot with a non-zero LIVE gain into the channel has a locked source (R567). -/
def sourcesLocked (s : State) (c : Nat) : Bool :=
  (List.range 64).all fun j =>
    s.bank (mixKey s.mb.liveTab (64 * c + j)) &&& 0x7FFFFFFF#32 == 0 || sourceLocked s (routeCode s s.mb.liveTab j)

/-- MUTE_N is sampled at a block boundary (R564). -/
def samplePin (s : State) (low : Bool) : State :=
  let accepted := if low == s.sys.muteLast then low else s.sys.muteLow
  let s1 := s.sysUp fun x => { x with muteLast := low, muteLow := accepted }
  s1.raiseIf (accepted && !s.sys.muteLow) G.SYS_MUTE_PIN

/-- SETTLE in force (R563); 0 is stored as 1. -/
def settleBlocks (s : State) : Nat := max (s.inForce F.SYS_MUTECFG_SETTLE) 1

/-- Whole blocks since switching started, of a channel (R563). -/
def countSwitching (s : State) (c : Nat) : State :=
  let on := s.get (F.MOD_STAT_STATE (2 * c)) = modSwitching
  s.sysUp fun x => { x with swBlocks := x.swBlocks.modify c fun n =>
    if !on then none else match n with
      | none => some 0
      | some k => some (min (k + 1) 256) }

/-- The LOOP cause of a channel. -/
def loopCause (s : State) (c : Nat) : Bool :=
  match s.sys.swBlocks.getD c none with
  | none => true
  | some n => decide (n < settleBlocks s)

/-- The conditions of R567 for a channel. -/
def startEnds (s : State) (c : Nat) : Bool :=
  s.sys.released.getD c false ||
  (!loopCause s c && decide (settleBlocks s + 1 ≤ s.sys.shadowed) && sourcesLocked s c &&
    (!s.inForceB F.SYS_MUTECFG_WAIT_PTP || s.get F.PTP_STAT_STATE = ptpLocked || s.get F.PTP_STAT_STATE = ptpPps))

/-- The causes of a channel at a block boundary, shown in CH_MUTE, with gm and the muted test (R563, R565, R566). In a paralleled channel
those of channel 2m govern both. -/
def muteAtBlock (s : State) (c : Nat) : State :=
  let g := governor s c
  let loopC := loopCause s g
  let soft := s.inForceB (F.CH_MUTE_SW g)
  let pin := s.inForceB F.SYS_MUTECFG_PIN_EN && s.sys.muteLow
  let start := !s.sys.started.getD g false
  let s1 := ((s.setB (F.CH_MUTE_C_LOOP c) loopC).setB (F.CH_MUTE_C_SOFT c) soft).setB (F.CH_MUTE_C_PIN c) pin
  let s2 := s1.setB (F.CH_MUTE_C_START c) start
  let gm := if loopC then 0#32 else (s2.mbCh c).gm
  let muted := (loopC || soft || pin || start) && gm = 0
  (s2.setB (F.CH_MUTE_MUTED c) muted).mbUp c fun m => { m with gm := gm, muted := muted }

/-- The mutes at a block boundary: the pin, the switching counters, the START causes that end, then every channel. -/
def mutesAtBlock (s : State) (low : Bool) : State :=
  let s1 := samplePin s low
  let s2 := (List.range 16).foldl countSwitching s1
  let held := s2.pins.own || s2.twin.applied.1
  let s3 := s2.sysUp fun x => { x with shadowed := if held then min (x.shadowed + 1) 257 else 0 }
  let s4 := (List.range 16).foldl (fun t c =>
    if startEnds t c then t.sysUp fun x => { x with started := x.started.set c true, released := x.released.set c false } else t) s3
  (List.range 16).foldl muteAtBlock s4

/-- CH_MUTE.REL_START (R563). -/
def relStart (s : State) (c : Nat) : State := s.sysUp fun x => { x with released := x.released.set c true }

/-- CH_MUTE as it reads: RAMPING follows gm. -/
def muteWord (s : State) (c : Nat) : Word :=
  let gm := (s.mbCh c).gm
  State.putBits (s.rd (R.CH_MUTE c)) (F.CH_MUTE_RAMPING c) (if gm ≠ 0 ∧ f32Lt gm f32One then 1 else 0)

/-! ### Readiness (R556 to R558) -/

/-- The work units that ended at this boundary (R557, condition 3). A logical Music Box core with no physical core is not active. -/
def unitsAtBlock (s : State) : State :=
  if !s.sys.procs then s
  else
    let okMb (q : Nat) : Bool := (physOf s q).isNone || (s.sys.unitIn && s.mb.done.getD q false && !s.mb.ue.getD q false)
    let okVt (k : Nat) : Bool := s.sys.unitIn && (s.core k).done && !(s.core k).ue && !coreStopped s k
    s.sysUp fun x =>
      { x with unitIn := true,
               unitOk := x.unitOk.mapIdx fun i b => b || (if i < 4 then okMb i else okVt (i - 4)) }

/-- The device becomes ready in a boot state (R557 to R559). RDY_MS is a time the model does not hold: a free value (log entry 5). -/
def becomeReady (s : State) (b : Nat) : State := (s.set F.SYS_BOOT_BSTATE b).setFree F.SYS_BOOT_RDY_MS

/-- The device becomes ready at this block boundary (R557, R558). -/
def readyAtBlock (s : State) : State :=
  let basic := s.sys.procs && s.sys.calDone
  let full := s.sys.unitOk.all id && s.on F.TS_CTRL_LOCK && s.on F.SYS_CTRL_FW_RDY
  if bstate s = bsStart && basic && (full || s.sys.fwTmo) then becomeReady s bsRun else s

/-- 1 s after the processors started the device is not in RUN (R558). -/
def fwTimeout (s : State) : State :=
  if s.sys.procs && bstate s = bsStart && !s.sys.fwTmo then
    ((if s.on F.TS_CTRL_LOCK then s else limitsLock s).sysUp fun x => { x with fwTmo := true }).raise G.SYS_FW_TMO
  else s

/-- A write of SYS_CTRL (R576): FW_RDY is set by the running management firmware only, and never cleared. SWRST is the command SOFT_RESET. -/
def writeSysCtrl (s : State) (path : Path) (v : Word) : State :=
  if path = .mgmtCore ∧ firmwareRuns s ∧ bitN v.toNat 16 then s.set F.SYS_CTRL_FW_RDY 1 else s

/-- A word written to SYS_CTRL resets the device (R550). -/
def isSoftReset (v : Word) : Bool := v.toNat % 256 = 0xA5 && bitN v.toNat 8

/-- The thermal states at the start of the processors (R331): the larger of the logged value and Tamb where the log names the same
driver, else Tamb. Tamb is the stored VENT_TAMB, which an image record may have just written. -/
def thermalStart (s : State) (c : Nat) : State :=
  let amb := f32OfRat (signed 16 (s.get F.VENT_TAMB_TAMB)) 16
  let drv := (spkLiveWord s c 1).toNat
  match s.bkg.temps[c]? with
  | some (d, tc, tm) =>
    if d = drv then s.modelUp c fun m => { m with tc := f32MaxOf (f32OfRat tc 16) amb, tm := f32MaxOf (f32OfRat tm 16) amb }
    else s.modelUp c fun m => { m with tc := amb, tm := amb }
  | none => s.modelUp c fun m => { m with tc := amb, tm := amb }

/-- The processors start (R541): the firmware takes up PTP_CFG (R57), and a logical core left without a physical core is a swap trigger with
no spare (R131). -/
def startProcessors (s : State) : State :=
  let s1 := (List.range 16).foldl thermalStart s
  let s2 := (s1.set F.SYS_BOOT_BSTATE bsStart).sysUp fun x => { x with procs := true, held := false }
  ptpConfigure { s2 with mb := { s2.mb with swapDue := s2.mb.swapDue.mapIdx fun q d => d || (physOf s2 q).isNone } }

/-- The debugger releases the processors held in DBGWAIT (R561). -/
def debugRelease (s : State) : State :=
  let s1 := if s.sys.held then startProcessors s else s
  (s1.sysUp fun x => { x with mgmtStopped := false }).safeUp fun t => { t with halted := false }

end Sys2Proof.Machine
end

