-- ==== Sys2Proof/Machine/Link.lean ====
section
/-! DEFINITION. Link.lean: the frames of Twin Link: header, payload words, lanes, and the checks of a frame received (R382 to R386). -/

set_option Elab.async false

namespace Sys2Proof.Machine

/-- The frame types (R385). -/
def frMark : Nat := 1
def frHbm : Nat := 2
def frSnap : Nat := 3
def frRsync : Nat := 4
def frIdent : Nat := 5
def frRsreq : Nat := 6
def frRefuse : Nat := 7

/-- Header bytes 0 to 5 of a frame (R383). -/
def headBytes (type flags blk len : Nat) : List Byte := beBytes 1 type ++ beBytes 1 flags ++ beBytes 2 blk ++ beBytes 2 len

/-- The 20 bytes of payload word i (R384): the coded word, 7 zero bits, the index modulo 256. -/
def wordBytes (i : Nat) (d : Quad) : List Byte := beBytes 19 ((encodeWord d).toNat * 2 ^ 7) ++ beBytes 1 (i % 256)

/-- The bytes of a frame between its control characters (R382, R383). -/
def frameBytes (type flags blk : Nat) (ws : List Quad) : List Byte :=
  let h := headBytes type flags blk ws.length
  h ++ beBytes 2 (crc16 h) ++ (ws.mapIdx wordBytes).flatten

/-- The bytes at the even places of a list, and those at the odd places. -/
def striped : List Byte → List Byte × List Byte
  | [] => ([], [])
  | [b] => ([b], [])
  | a :: b :: r =>
    let q := striped r
    (a :: q.1, b :: q.2)

/-- A lane that carries these bytes of a frame and then idles (R382). -/
def laneOfBytes (bs : List Byte) : List LinkChar := .k277 :: bs.map .d ++ [.k297, .k285]

/-- The two lanes for the bytes of a frame (R382, R387): striped over both; with one lane in use every byte travels on it. -/
def lanesOf (laneOk : Nat) (bs : List Byte) : List (List LinkChar) :=
  if laneOk = 1 then [laneOfBytes bs, []]
  else if laneOk = 2 then [[], laneOfBytes bs]
  else [laneOfBytes (striped bs).1, laneOfBytes (striped bs).2]

/-- Both lanes idle (R382, R389). -/
def idleLanes : List (List LinkChar) := [[.k285], [.k285]]

/-- The lanes take a frame. -/
def linkSend (s : State) (type flags blk : Nat) (ws : List Quad) : State :=
  { s with twin := { s.twin with tx := lanesOf (s.get F.TWN_STAT_LANE_OK) (frameBytes type flags blk ws) } }

/-- FLAGS of a frame of this unit, with a reason in [3:0] (R383, R385). -/
def linkFlags (s : State) (reason : Nat) : Nat :=
  s.get F.TWN_STAT_ROLE * 128 + (if s.pins.own then 64 else 0) + reason % 16

/-- A 128-bit word as four 32-bit words, and back. -/
def quadWords (q : Quad) : List Word := (List.range 4).map fun i => BitVec.ofNat 32 (q.toNat / 2 ^ (96 - 32 * i))
/-- The 128-bit word of the first four words; missing ones are 0. -/
def quadOf (ws : List Word) : Quad := BitVec.ofNat 128 ((List.range 4).foldl (fun a i => a * 2 ^ 32 + (ws.getD i 0).toNat) 0)
/-- The 128-bit words of a list of 32-bit words, the first four in the first; the last one is filled with zeros. -/
def quadsOf (ws : List Word) : List Quad := (List.range ((ws.length + 3) / 4)).map fun i => quadOf ((ws.drop (4 * i)).take 4)

/-- What the gate GT1 carries of a frame of this unit: TYPE, FLAGS, BLK, then its payload words, four words each (R29, R385). -/
def framePayload (s : State) (type reason : Nat) (ws : List Quad) : List Word :=
  [BitVec.ofNat 32 type, BitVec.ofNat 32 (linkFlags s reason), BitVec.ofNat 32 (s.time.block % 65536)] ++ ws.flatMap quadWords

/-- A frame is presented to GT1. -/
def sendFrame (s : State) (type reason : Nat) (ws : List Quad) : State := gatePush s .gt1 (framePayload s type reason ws)

/-- A frame leaves GT1: the TWIN island sends it. -/
def frameLeaves (s : State) (ws : List Word) : State :=
  linkSend s (ws.getD 0 0).toNat (ws.getD 1 0).toNat (ws.getD 2 0).toNat (quadsOf (ws.drop 3))

/-- The marker leaves GT3 for the TWIN island, which sends MARK (R392). -/
def markLeaves (s : State) (ws : List Word) : State := linkSend s frMark (linkFlags s 0) ((ws.getD 0 0).toNat % 65536) []

/-! ### Frames received (R386) -/

/-- HCRC holds and the index bytes run from 0 in sequence, one for each of LEN words (R383, R384, R386). -/
def frameGood (type : Nat) (x : LinkRx) : Bool :=
  x.head.hcrc.toNat == crc16 (headBytes type x.head.flags.toNat x.head.blk.toNat x.head.len.toNat) &&
    x.ixs == (List.range x.head.len.toNat).map fun i => BitVec.ofNat 8 i

/-- The received words of a frame that arrived with errors, by their error patterns: a corrected one counts in TWN_LERR, and each one counts
as an error in transit (R386, R508). The answer: some word is uncorrectable. -/
def linkErrors (s : State) (errs : List (BitVec 145)) : State × Bool :=
  errs.foldl (fun acc e =>
    let x := transitError acc.1 noBank 0 e
    let s1 := if (checkWord e).1 = .good || x.2 then x.1 else x.1.set F.TWN_LERR_CORR (x.1.get F.TWN_LERR_CORR + 1)
    (s1, acc.2 || x.2)) (s, false)

/-- A frame is taken: its errors are counted; the answer says whether it is used or discarded (R386). -/
def frameTake (s : State) (type : Nat) (x : LinkRx) : State × Bool :=
  if frameGood type x then
    let r := linkErrors s x.errs
    (r.1, !r.2)
  else (s, false)

/-- The effect f of a frame that is used; without PAIR_EN no frame is received. -/
def frameUsed (s : State) (type : Nat) (x : LinkRx) (f : State → State) : State :=
  let r := frameTake s type x
  if !s.on F.TWN_CFG_PAIR_EN then s else if r.2 then f r.1 else r.1

end Sys2Proof.Machine
end

