-- ==== Sys2Proof/Machine/Twin.lean ====
section
/-! DEFINITION. Twin.lean: the pair: heartbeat, Twin Link, training, markers, snapshots, ownership and resynchronization (11). -/

set_option Elab.async false

namespace Sys2Proof.Machine

/-- The codes of TWN_STAT.PSTATE (R410). -/
def psSolo : Nat := 0
def psAlone : Nat := 1
def psTrain : Nat := 2
def psRefused : Nat := 3
def psResync : Nat := 4
def psSettle : Nat := 5
def psPaired : Nat := 6
def psFree : Nat := 7

/-- TWN_STAT.PSTATE. -/
def pstate (s : State) : Nat := s.get F.TWN_STAT_PSTATE
/-- Sets PSTATE. -/
def setPstate (s : State) (p : Nat) : State := s.set F.TWN_STAT_PSTATE p
/-- PAIR_EN. -/
def pairEn (s : State) : Bool := s.on F.TWN_CFG_PAIR_EN
/-- This unit holds OWN_N. -/
def owner (s : State) : Bool := s.pins.own
/-- ROLE B. -/
def roleB (s : State) : Bool := s.on F.TWN_STAT_ROLE
/-- The link is trained. -/
def linkUp (s : State) : Bool := s.on F.TWN_STAT_LINK_UP

/-- CLAIM_EN as it reads: 0 in RECOVERY and RETIRED (R559). -/
def claimEn (s : State) : Bool := s.on F.TWN_CFG_CLAIM_EN && bstate s != bsRecovery && bstate s != bsRetired

/-- The link has concluded training or has been down for at least 10 ms, which are 120 block boundaries (R400). -/
def linkSettled (s : State) : Bool := !pairEn s || s.twin.concluded || (s.twin.attempted && decide (120 ≤ s.twin.down))

/-- The unit is eligible to claim (R400, R404). -/
def eligible (s : State) : Bool :=
  !s.sys.inReset && !deviceSafe s && !s.safe.watchdog && claimEn s && ready s
    && pstate s != psTrain && pstate s != psRefused && pstate s != psResync && !s.on F.TWN_STAT_RESYNC_FAIL
    && linkSettled s && !s.twin.holdoff && !s.sys.boundaryScan

/-- PAIR_DEGRADED (R405). -/
def pairDegraded (s : State) : Bool :=
  pairEn s &&
    (!s.on F.TWN_STAT_HB_OK || !s.on F.TWN_STAT_MSG_OK || (owner s && s.twin.pDevSafe) || pstate s = psRefused || pstate s = psFree)

/-- TWN_STAT as it reads. -/
def twnStat (s : State) : Word :=
  let b (w : Word) (f : Fld) (v : Bool) : Word := State.putBits w f (if v then 1 else 0)
  b (b (b (s.rd R.TWN_STAT) F.TWN_STAT_OWNER (owner s)) F.TWN_STAT_PAIR_DEGRADED (pairDegraded s)) F.TWN_STAT_ELIGIBLE (eligible s)

/-! ### Frames sent -/

/-- The HBM payload word (R388). -/
def hbmWord (s : State) (snapOk : Bool) : Quad :=
  let bit (v : Bool) (n : Nat) : Nat := if v then 2 ^ n else 0
  let flags := bit (owner s) 15 + bit (deviceSafe s) 14 + bit (eligible s) 13 + bit (snapOk || owner s) 12
    + bit (pstate s = psSettle) 11 + s.get F.PTP_STAT_STATE % 8 * 2 ^ 5
  let mask (p : Nat → Bool) : Nat := ((List.range 16).filter p).foldl (fun a c => a + 2 ^ c) 0
  quadOf [BitVec.ofNat 32 (s.time.block / 2 ^ 16), BitVec.ofNat 32 (s.time.block % 2 ^ 16 * 2 ^ 16 + flags), s.rd R.TWN_CDIG,
    BitVec.ofNat 32 (mask (fun c => s.on (F.CH_TRST_LATCHED c)) * 2 ^ 16
      + mask (fun c => s.get (F.MOD_STAT_STATE (2 * c)) = modSwitching))]

/-- The payload of IDENT (R389, R426). -/
def identWords (s : State) : List Quad :=
  quadsOf <| [s.rd R.SYS_ID, BitVec.ofNat 32 ((if roleB s then 2 ^ 31 else 0) + (if owner s then 2 ^ 30 else 0) + lcState s * 2 ^ 16),
    s.rd R.SYS_DEVNUM_H, s.rd R.SYS_DEVNUM_L] ++ (List.range 8).map fun i => s.rd (R.IMG_DIG0 + 4 * i)

/-! ### Ownership (R400 to R405) -/

/-- The unit leaves ownership: OWN_N released, the standby hold on. -/
def giveUp (s : State) : State := (releaseOwn s).twinUp fun t => { t with releaseDue := false }

/-- OWN_N is accepted high (R401): an eligible unit that does not hold it starts its claim wait. An owner that releases before END fails
the resynchronization (R407). -/
def ownHigh (s : State) : State :=
  let s1 := if pstate s = psResync ∧ s.twin.bR = none then
      (setPstate (s.set F.TWN_STAT_RESYNC_FAIL 1) psFree).set F.TWN_CTRL_RESYNC 0
    else s
  if eligible s1 && !owner s1 then s1.twinUp fun t => { t with claim := true } else s1

/-- The partner pulls OWN_N low during the wait: the claim is abandoned (R401). -/
def ownLow (s : State) : State := s.twinUp fun t => { t with claim := false }

/-- The TEL rings of a unit that claims set RIDX to the entry whose SEQ is the ring's WSEQ at the boundary of the last applied snapshot
(R500); an entry that is no longer held leaves the oldest one. -/
def telResume (s : State) (c : Nat) : State :=
  let r := 16 + c
  let held := ringCount s r
  let newer := (s.get (F.RNG_WPTR_WSEQ r) + 65536 - s.twin.seqs.getD r 0) % 65536
  let keep := min newer held
  let size := ringSize s r
  setCount (s.set (F.RNG_RPTR_RIDX r) ((s.get (F.RNG_WPTR_WIDX r) + size - keep % size) % size)) r keep

/-- The last cycle of the claim wait (R401): with OWN_N high the unit pulls it low; its integrators are no longer a standby's (R399). -/
def claimCheck (s : State) (high : Bool) : State :=
  if !s.twin.claim then s
  else
    let s0 := s.twinUp fun t => { t with claim := false }
    if !high || !eligible s0 || owner s0 then s0
    else
      let s1 : State := { s0 with pins := { s0.pins with own := true, released := false } }
      let s2 := ((s1.set F.TWN_STAT_FROZEN 0).raise G.TWN_TAKEOVER).twinUp fun t => { t with releaseDue := true }
      let s3 := if s2.on F.STR_STAT_MGR then { s2 with str := { s2.str with startDue := true } } else s2
      -- a unit that has applied snapshots repeats what its partner produced since the last one
      if s3.twin.accepted then (List.range 16).foldl telResume s3 else s3

/-- The standby hold is released at a period boundary (R401): legs resume as in R181, in PRECHARGE with
the low side, and TWN_LAST takes its result; DLY counts cycles of
time the model does not hold, a free value (log entry 5). -/
def holdRelease (s : State) : State :=
  if !s.twin.releaseDue || s.time.half then s
  else if !owner s then s.twinUp fun t => { t with releaseDue := false }
  else
    let s1 : State := { s with pins := { s.pins with released := true } }
    let s2 := (List.range 32).foldl (fun t l =>
      if legFree t l then resume t l
      else if t.get (F.MOD_STAT_STATE l) = modPrecharge && !t.on (F.CH_TRST_CBC_NOW (governor t (l / 2))) then
        t.legUp l fun g => { g with lo := false, pend := some false }
      else t) s1
    ((s2.set F.TWN_LAST_SEQ (nextSeq1 (s2.get F.TWN_LAST_SEQ))).setFree F.TWN_LAST_DLY).twinUp fun t => { t with releaseDue := false }

/-- TWN_CTRL.HANDOVER (R404). -/
def handover (s : State) : State :=
  if owner s && s.on F.TWN_STAT_P_READY && s.twin.pSnapOk && pstate s = psPaired then
    (s.set F.TWN_CTRL_HANDOVER 1).twinUp fun t => { t with handDue := true }
  else (s.set F.TWN_CTRL_HANDOVER 0).raise G.TWN_REQ_REFUSED

/-- An accepted handover at the block boundary (R404). -/
def handoverAtBlock (s : State) : State :=
  if !s.twin.handDue then s
  else ((giveUp s).set F.TWN_CTRL_HANDOVER 0).twinUp fun t => { t with handDue := false, holdoff := true }

/-- 100 µs after the release the former owner is eligible again (R404). -/
def holdoffEnd (s : State) : State := s.twinUp fun t => { t with holdoff := false }

/-! ### Heartbeat (R379 to R381) -/

/-- HB_OUT at an update boundary: it changes level at every period boundary whose index within the block is a multiple of 4, and holds its
level in the device-level safe state. -/
def hbAtUpdate (s : State) : State :=
  if s.time.half || deviceSafe s || !s.sys.counting then s
  else if s.time.updInBlock / 2 % 4 = 0 then s.twinUp fun t => { t with hbOut := !t.hbOut }
  else s

/-- An HB_IN edge, with the time since the one before (R380). -/
def hbEdge (s : State) (gapUs : Nat) : State :=
  if s.on F.TWN_STAT_HB_OK then s
  else
    let n := if gapUs ≤ s.get F.TWN_CFG_HB_TMO then s.twin.hbEdges + 1 else 0
    if 4 ≤ n then ((s.twinUp fun t => { t with hbEdges := 0 }).set F.TWN_STAT_HB_OK 1).cond G.TWN_HB_LOST false
    else s.twinUp fun t => { t with hbEdges := n }

/-- No HB_IN edge for HB_TMO (R380). -/
def hbTimeout (s : State) : State :=
  ((s.twinUp fun t => { t with hbEdges := 0 }).set F.TWN_STAT_HB_OK 0).cond G.TWN_HB_LOST true

/-! ### Training and pairing (R387 to R391) -/

/-- A resynchronization under way ends without effect: before its END it fails (R407), and RESYNC clears (R13, R410). -/
def resyncEnds (s : State) : State :=
  let s1 := if pstate s = psResync then s.set F.TWN_STAT_RESYNC_FAIL 1 else s
  (s1.set F.TWN_CTRL_RESYNC 0).twinUp fun t => { t with got := none, answering := 0, sent := [], bR := none, settle := 0 }

/-- Training starts (R389), where PAIR_EN, the processors and the Twin Link PLL allow it: both lanes idle, then IDENT follows on both. The link
is not up while it trains, so a resynchronization that has not reached END fails. -/
def startTraining (s : State) : State :=
  if !pairEn s || !s.sys.procs || !s.on F.CLK_STAT_TWIN_LOCK then s
  else
    let s1 := ((setPstate (resyncEnds s) psTrain).set F.TWN_STAT_LINK_UP 0).twinUp fun t =>
      { t with train := 2, concluded := false, down := if t.attempted then t.down else 0, attempted := true, tx := idleLanes }
    sendFrame s1 frIdent 0 (identWords s1)

/-- The state of a link without a partner: FREE after an accepted pairing, else ALONE. -/
def unpaired (s : State) : Nat := if s.twin.accepted then psFree else psAlone

/-- The link goes down (R387): a resynchronization that has not reached END fails (R407). -/
def linkDown (s : State) : State :=
  let s1 := ((resyncEnds s).set F.TWN_STAT_LINK_UP 0).set F.TWN_STAT_LANE_OK 0
  let s2 := (if pairEn s1 then setPstate s1 (unpaired s1) else s1).twinUp fun t => { t with concluded := false, down := 0, train := 0 }
  (s2.cond G.TWN_LINK_DOWN true).cond G.TWN_LANE_DEGRADED false

/-- A lane of the link fails (R387); `codes` are the code violations it showed. -/
def laneFails (s : State) (n codes : Nat) : State :=
  if !pairEn s then s
  else
    let s1 := s.set F.TWN_LERR_CODE (s.get F.TWN_LERR_CODE + codes)
    let ok := s1.get F.TWN_STAT_LANE_OK
    let left := ok - (if bitN ok n then 2 ^ n else 0)
    if ok = left then s1
    else if left = 0 then linkDown s1
    else (s1.set F.TWN_STAT_LANE_OK left).cond G.TWN_LANE_DEGRADED true

/-- A down link retrains every 10 ms (R387). -/
def linkRetrain (s : State) : State := if linkUp s then s else startTraining s

/-- TWN_CTRL.RETRAIN (R410): it clears when training concludes. -/
def retrain (s : State) : State :=
  let s1 := startTraining s
  if pstate s1 = psTrain then s1.set F.TWN_CTRL_RETRAIN 1 else s1

/-- Training concludes: the link is trained on both lanes, so that it is neither down nor degraded (R387). -/
def conclude (s : State) : State :=
  let s1 := ((s.set F.TWN_STAT_LINK_UP 1).set F.TWN_STAT_LANE_OK 3).set F.TWN_CTRL_RETRAIN 0
  ((s1.cond G.TWN_LINK_DOWN false).cond G.TWN_LANE_DEGRADED false).twinUp fun t => { t with concluded := true, train := 0, down := 0 }

/-- The digest of the loaded image. -/
def ownDigest (s : State) : Nat := (List.range 8).foldl (fun a i => a * 2 ^ 32 + (s.rd (R.IMG_DIG0 + 4 * i)).toNat) 0

/-- The refusal reason of R390, 0 if none. -/
def pairReason (s : State) (x : Ident) : Nat :=
  if x.role == roleB s then 1 else if x.sysId != s.rd R.SYS_ID then 2 else if x.digest.toNat != ownDigest s then 3 else 0

/-- A pairing is refused (R391): REFUSE is sent and one event counted. -/
def refusePair (s : State) (reason : Nat) : State :=
  let s1 := (setPstate (conclude s) psRefused).set F.TWN_STAT_REFUSE reason
  sendFrame (s1.raiseIf (pstate s != psRefused) G.TWN_PAIR_REFUSED) frRefuse reason []

/-- The standby asks for a resynchronization (R407). -/
def requestResync (s : State) : State :=
  sendFrame ((setPstate s psResync).twinUp fun t => { t with bR := none, got := none, settle := 0 }) frRsreq 0 []

/-- A pairing is accepted (R390, rows 4 to 6). -/
def acceptPair (s : State) (x : Ident) : State :=
  let s1 := ((conclude s).set F.TWN_STAT_REFUSE 0).twinUp fun t =>
    { t with accepted := true, firstMark := true, pDevnum := x.devnum, diverged := 0 }
  if x.owner && (!owner s || roleB s) then
    requestResync (if owner s then (giveUp s1).raise G.TWN_DUAL_OWNER else s1)
  else setPstate s1 psPaired

/-- An IDENT frame (R389 to R391): in training, and repeated after a refusal. -/
def identRx (s : State) (x : Ident) : State :=
  if !pairEn s || (pstate s != psTrain && pstate s != psRefused) then s
  else
    let r := pairReason s x
    if r = 0 then acceptPair s x
    else if pstate s = psRefused then s.set F.TWN_STAT_REFUSE r
    else refusePair s r

/-- A REFUSE frame with its reason (R385, R391): a unit that learns of the refusal by it is refused alike. -/
def refuseRx (s : State) (reason : Nat) : State :=
  if !pairEn s || pstate s = psRefused then s else refusePair s reason

/-- IDENT is sent again after a refusal (R391). -/
def identRepeat (s : State) : State := if pstate s = psRefused then sendFrame s frIdent 0 (identWords s) else s

/-- Training that found no partner ends without a decision; the time the link is down goes on (R389, R400). -/
def trainAtBlock (s : State) : State :=
  let down (t : Twin) : Twin := if t.attempted && !t.concluded then { t with down := min (t.down + 1) 120 } else t
  let s1 := s.twinUp down
  if s1.twin.train = 0 then s1
  else if s1.twin.train = 1 then
    ((if pstate s1 = psTrain then setPstate s1 (unpaired s1) else s1).set F.TWN_CTRL_RETRAIN 0).twinUp fun t => { t with train := 0 }
  else s1.twinUp fun t => { t with train := t.train - 1 }

/-- No valid message for MSG_TMO blocks (R381, R405): the link retrains. -/
def msgTimeout (s : State) : State := startTraining ((s.set F.TWN_STAT_MSG_OK 0).cond G.TWN_MSG_LOST true)

/-- A write of TWN_CFG (R410): HB_TMO and MSG_TMO have lower ends; PAIR_EN powers the link up or down (R587), and an owner keeps OWN_N. -/
def writeTwnCfg (s : State) (v : Word) : State :=
  let hb := max (v.toNat / 2 ^ 16 % 256) 32
  let msg := max (v.toNat / 2 ^ 8 % 16) 2
  let was := pairEn s
  let s1 := storeCoded s R.TWN_CFG (State.putBits (State.putBits v F.TWN_CFG_HB_TMO hb) F.TWN_CFG_MSG_TMO msg)
  if was == pairEn s1 then s1
  else
    let t0 (t : Twin) : Twin :=
      { t with train := 0, concluded := false, attempted := false, down := 0, marking := false, got := none, own := none, bR := none, settle := 0,
               answering := 0, sent := [], tx := [[], []] }
    if pairEn s1 then (setPstate s1 psAlone).twinUp t0
    else
      let s2 := ((setPstate s1 psSolo).set F.TWN_STAT_LINK_UP 0).set F.TWN_STAT_LANE_OK 0
      let s3 := (s2.set F.TWN_CTRL_RETRAIN 0).set F.TWN_CTRL_RESYNC 0
      ((s3.set F.CLK_STAT_TWIN_LOCK 0).cond G.TWN_LANE_DEGRADED false).twinUp t0

/-- The Twin Link PLL locks (R587): training starts once the processors run. -/
def twinPllLock (s : State) : State := if pairEn s then startTraining (pllLock s .twin) else s

/-- The Twin Link PLL or clock fails: the link is down (R387, R585). -/
def twinClockLost (s : State) : State := if linkUp s || pstate s = psTrain then linkDown s else s

/-! ### Markers (R392 to R395) -/

/-- The block index nearest to the unit's own with these low 16 bits. -/
def nearestIndex (s : State) (low : Nat) : Nat := (((s.time.block : Int) + signed 16 (low + 65536 - s.time.block % 65536)) % 2 ^ 48).toNat

/-- A MARK frame: the low bits of the sender's block index at its boundary and the error e in taps (R392, R394). The frame carries 16 bits of
the index; the heartbeat message that follows it in the block gives the whole (DEDUCED, log entry 21). -/
def markRx (s : State) (low : Nat) (err : Int) : State :=
  if !pairEn s || owner s || !s.twin.concluded || pstate s = psRefused then s
  else
    let s0 := s.set F.TWN_MARK_ERR (pattern 16 (satS 16 err))
    let first := s0.twin.firstMark
    let s1 := if first then s0.set F.CLK_REFBASE_BASE (pattern 24 (refCorr s0)) else s0
    let s2 := s1.twinUp fun t => { t with firstMark := false, marking := true, markAge := 0 }
    if first || decide (1024 < err.natAbs) then
      let s3 := s2.twinUp fun t => { t with setBlock := some ((nearestIndex s low + 1) % 2 ^ 48) }
      if pstate s3 = psPaired then requestResync s3 else s3
    else
      -- the marker loop's correction, which the spec bounds and does not give: a free value (log entry 21)
      let c := clampI (-10000) 10000 (signed 16 s2.freshWord.toNat)
      ((s2.set F.TWN_MARK_CORR (pattern 16 c)).used).raiseIf (decide (32 < err.natAbs)) G.TWN_MARK_ERR

/-- 8 blocks without a marker: the marker loop freezes and the servo resumes control (R395). -/
def markerTimeout (s : State) : State := s.twinUp fun t => { t with marking := false }

/-- A heartbeat message (R388, R403). -/
def hbmRx (s : State) (w : Quad) : State :=
  if !pairEn s || !linkUp s || pstate s = psRefused then s
  else
    let n := w.toNat
    let s1 := ((s.setB F.TWN_STAT_P_OWNER (n.testBit 79)).setB F.TWN_STAT_P_READY (n.testBit 77)).wr R.TWN_PDIG (BitVec.ofNat 32 (n / 2 ^ 32))
    let s2 := ((s1.set F.TWN_STAT_MSG_OK 1).cond G.TWN_MSG_LOST false).twinUp fun t =>
      { t with pSnapOk := n.testBit 76, pDevSafe := n.testBit 78,
               setBlock := t.setBlock.map fun _ => (n / 2 ^ 80 + 1) % 2 ^ 48 }
    if owner s2 && n.testBit 79 then
      let s3 := s2.raise G.TWN_DUAL_OWNER
      if roleB s3 then giveUp s3 else s3
    else s2

/-! ### The configuration digest (R393, R408) -/

/-- The registers of the shared set in pointer order; the stream registers of stream i at the place of their pointers. -/
def sharedRegs : List Nat :=
  let per (n : Nat) (f : Nat → List Nat) : List Nat := (List.range n).flatMap f
  [R.PWM_FSW, R.PWM_NSC0, R.PWM_NSC0 + 4, R.PWM_NSC0 + 8]
    ++ (List.range 8).map (fun i => R.RAIL_CFG0 + 4 * i)
    ++ [R.PTP_CFG]
    ++ per 16 (fun i => (List.range 5).map fun j => R.AIN_SCFG i + 4 * j)
    ++ (List.range 4).map (fun i => R.AIN_MSEL0 + 4 * i) ++ [R.AIN_TMON, R.AIN_AEST]
    ++ (List.range 4).map (fun i => R.SCN_CFG + 4 * i)
    ++ per 16 (fun c => [R.CH_LA c, R.CH_MOD c])
    ++ per 32 (fun l => [R.MOD_DT l, R.MOD_LIM l, R.MOD_TRGA l, R.MOD_TRGB l])
    ++ per 16 (fun c => [R.SNS_CFG c, R.SNS_VFS c, R.SNS_IFS c, R.SNS_CMP c])
    ++ per 16 (fun c => [R.LPE_LIM c, R.LPE_ZOUT c, R.LPE_FE c, R.LPE_FELIM c])
    ++ [R.VENT_TAMB]
    ++ per 16 (fun c => (List.range 4).map fun j => R.DIA_PCFG c + 4 * j)

/-- Every bank word in bank order: Music Box, route and mix tables, lane and speaker banks, LIVE before NEXT (DESIGN CHOICE, log entry
49). -/
def sharedBanks (s : State) : List Word :=
  let both (f : Bool → List Word) : List Word := f false ++ f true
  (List.range 16).flatMap (fun c => both fun nx => (List.range 2224).map fun o => s.bank (mbKey c (xor (liveBankOf s c) nx) o))
    ++ both (fun nx => (List.range 16).map (fun n => s.bank (routeKey (xor s.mb.liveTab nx) n))
        ++ (List.range 1024).map (fun i => s.bank (mixKey (xor s.mb.liveTab nx) i)))
    ++ (List.range 16).flatMap (fun c => both fun nx =>
        (List.range 162).map fun o => s.bank (laneKey (laneOf s c) (xor (s.lane (laneOf s c)).live nx) o))
    ++ (List.range 16).flatMap (fun c => both fun nx => (List.range 48).map fun o => s.bank (spkKey c (xor (s.ventCh c).live nx) o))

/-- CFG_DIG: the CRC-32 over the words, each most significant byte first. -/
def cfgDigest (s : State) : Word :=
  crc32 ((sharedRegs.map s.rd ++ sharedBanks s).flatMap fun w => beBytes 4 w.toNat)

/-- CFG_DIG is computed and compared with the partner's (R393). -/
def digestNow (s : State) : State :=
  let s1 := s.wr R.TWN_CDIG (cfgDigest s)
  if !pairEn s1 || !linkUp s1 || pstate s1 = psRefused then s1
  else
    let n := if s1.rd R.TWN_CDIG = s1.rd R.TWN_PDIG then 0 else s1.twin.diverged + 1
    (s1.twinUp fun t => { t with diverged := n }).cond G.TWN_CFG_DIVERGED (decide (2 ≤ n))

/-! ### Snapshots (R396 to R399) -/

/-- A cone instance as words. -/
def coneWords (k : Cone) : List Word := [k.x, k.v, k.i]

/-- The record of channel c as it stands, but the LOOP island's part. -/
def captureChan (s : State) (c : Nat) : SnapChan :=
  let m := s.mbCh c
  let v := s.ventCh c
  { dcb := m.live.dcb, eq := m.live.eq, peak := m.live.peak, rms := m.live.rms, fbGain := m.fbGain, fbMs := m.fbMs,
    gain := (m.gains ++ m.gainsIn).getLastD m.gain,
    pred := coneWords v.m.pred, track := coneWords v.m.track, tc := v.m.tc, tm := v.m.tm, sumI2 := v.sumI2, reNum := v.m.reNum,
    reDen := v.m.reDen,
    gT := v.m.gT, g := v.m.g, rhoSlow := v.rhoSlow, fitTok := v.m.fitTok, sB := v.m.sB, sK := v.m.sK, sL := v.m.sL, rmsMech := v.m.rms,
    swPhase := v.sweep.phase, swPoint := v.sweep.point, swCnt := v.sweep.cnt, swMeas := v.sweep.meas, swV := v.sweep.vDft,
    swI := v.sweep.iDft, swAcc := v.sweep.acc, swInc := v.sweep.inc, swPoints := v.sweep.points,
    swTail := (v.sweep.tailFrom, v.sweep.tailCnt, v.sweep.tailAcc, v.sweep.tailInc) }

/-- S(B) as it stands, but the LOOP island's part. -/
def capture (s : State) : Snap :=
  { block := s.time.block, asrc := s.ain.asrc.map (·.tok),
    rings := (List.range 32).map fun r => (s.get (F.RNG_WPTR_WIDX r), s.get (F.RNG_WPTR_WSEQ r)),
    chans := (List.range 16).map (captureChan s) }

/-- The LOOP island's part of S(B). -/
def captureLoop (s : State) (x : Snap) : Snap :=
  { x with chans := x.chans.mapIdx fun c k =>
      { k with s := (s.lane (laneOf s c)).r.s, w := (s.lane (laneOf s c)).r.w, rLine := (s.loopCh c).rLine } }

/-- s_own(B + 1) + (s_S(B) - s_own(B)) of binary32 values, each operation rounded (R398). -/
def diffF (now sent own : Word) : Word := f32Add now (f32Sub sent own)
/-- The same of fixed-point values of w bits, exact and saturated. -/
def diffI (w : Nat) (now sent own : Int) : Int := satS w (now + (sent - own))
/-- The same of counters modulo n. -/
def diffN (n now sent own : Nat) : Nat := (((now : Int) + sent - own) % (n : Int)).toNat

/-- Difference correction of a list, element by element. -/
def diffList {α : Type} (f : α → α → α → α) (d : α) (now sent own : List α) : List α :=
  now.mapIdx fun i x => f x (sent.getD i d) (own.getD i d)

/-- The MEDIA part of a channel's record is applied (R397, R398). -/
def applyMedia (s : State) (c : Nat) (a o : SnapChan) : State :=
  s.mbUp c fun m =>
    { m with
      fbMs := diffF m.fbMs a.fbMs o.fbMs, fbGain := diffF m.fbGain a.fbGain o.fbGain, gain := diffF m.gain a.gain o.gain,
      live := { m.live with
        dcb := Config.tokenDiff m.live.dcb a.dcb o.dcb,
        peak := Config.tokenDiff m.live.peak a.peak o.peak,
        rms := Config.tokenDiff m.live.rms a.rms o.rms,
        eq := diffList (fun x y z => (diffF x.1 y.1 z.1, diffF x.2 y.2 z.2)) (0, 0) m.live.eq a.eq o.eq } }

/-- A cone instance corrected. -/
def diffCone (k : Cone) (a o : List Word) : Cone :=
  { x := diffF k.x (a.getD 0 0) (o.getD 0 0), v := diffF k.v (a.getD 1 0) (o.getD 1 0), i := diffF k.i (a.getD 2 0) (o.getD 2 0) }

/-- The sweep of a record. -/
def sweepOf (a : SnapChan) : Sweep :=
  { phase := a.swPhase, point := a.swPoint, cnt := a.swCnt, meas := a.swMeas, acc := a.swAcc, inc := a.swInc, vDft := a.swV, iDft := a.swI,
    points := a.swPoints, tailFrom := a.swTail.1, tailCnt := a.swTail.2.1, tailAcc := a.swTail.2.2.1, tailInc := a.swTail.2.2.2 }

/-- The MODEL part of a channel's record is applied: differences, and the fit and the sweep replaced. -/
def applyModel (s : State) (c : Nat) (a o : SnapChan) : State :=
  s.ventUp c fun v =>
    { v with
      sumI2 := diffF v.sumI2 a.sumI2 o.sumI2, rhoSlow := diffF v.rhoSlow a.rhoSlow o.rhoSlow,
      sweep := sweepOf a,
      m := { v.m with
        pred := diffCone v.m.pred a.pred o.pred, track := diffCone v.m.track a.track o.track,
        tc := diffF v.m.tc a.tc o.tc, tm := diffF v.m.tm a.tm o.tm, reNum := diffF v.m.reNum a.reNum o.reNum,
        reDen := diffF v.m.reDen a.reDen o.reDen,
        gT := diffF v.m.gT a.gT o.gT, g := diffF v.m.g a.g o.g,
        fitTok := a.fitTok, sB := a.sB, sK := a.sK, sL := a.sL, rms := a.rmsMech } }

/-- The ring counts are applied; COUNT follows the indices (log entry 50). -/
def applyRing (s : State) (r : Nat) (a o : Nat × Nat) : State :=
  let size := ringSize s r
  let i := s.get (F.RNG_WPTR_WIDX r)
  let j := diffN 1024 i a.1 o.1 % size
  let s1 := (s.set (F.RNG_WPTR_WIDX r) j).set (F.RNG_WPTR_WSEQ r) (diffN 65536 (s.get (F.RNG_WPTR_WSEQ r)) a.2 o.2)
  if i = j then setCount s1 r (ringCount s r) else setCount s1 r ((j + size - s.get (F.RNG_RPTR_RIDX r)) % size)

/-- A snapshot is applied at a boundary, but the LOOP island's part; MEDIA and MODEL apply where their own units did not overrun (R398). -/
def applySnap (s : State) (a o : Snap) (media model : Bool) : State :=
  let s1 := if media then
      s.ainUp fun x => { x with asrc := x.asrc.mapIdx fun i d => { d with tok := Config.tokenDiff d.tok (a.asrc.getD i 0) (o.asrc.getD i 0) } }
    else s
  let s2 := (List.range 32).foldl (fun t r => applyRing t r (a.rings.getD r (0, 0)) (o.rings.getD r (0, 0))) s1
  let s3 := if media then (List.range 16).foldl (fun t c => applyMedia t c (a.chans.getD c {}) (o.chans.getD c {})) s2 else s2
  let s4 := if model then (List.range 16).foldl (fun t c => applyModel t c (a.chans.getD c {}) (o.chans.getD c {})) s3 else s3
  s4.twinUp fun t => { t with loopDue := some (a, o), seqs := (List.range 32).map fun r => s4.get (F.RNG_WPTR_WSEQ r) }

/-- The LOOP island's part of a snapshot, before its first update of the block, and the capture of the island's own part. -/
def snapLoop (s : State) : State :=
  let s1 := match s.twin.loopDue with
    | none => s
    | some (a, o) =>
      (List.range 16).foldl (fun t c =>
        let x := a.chans.getD c {}
        let y := o.chans.getD c {}
        let t1 := t.laneUp (laneOf t c) fun l =>
          { l with r := { l.r with s := diffList (diffI 16) 0 l.r.s x.s y.s, w := diffList (diffI 40) 0 l.r.w x.w y.w } }
        t1.loopUp c fun k => { k with rLine := diffList (fun p q z => diffList (diffI 16) 0 p q z) [] k.rLine x.rLine y.rLine }) s
  s1.twinUp fun t => { t with loopDue := none, own := t.own.map (captureLoop s1) }

/-- A SNAP frame (R386, R396, R398): discarded where its HCRC or a word index is bad or a word is uncorrectable, late past B + 81.3 µs, else
kept for the next boundary. -/
def snapRx (s : State) (rx : LinkRx) (x : Snap) (late : Bool) : State :=
  if !pairEn s || !linkUp s || owner s || pstate s = psRefused then s
  else
    let r := frameTake s frSnap rx
    if !r.2 then r.1.raise G.TWN_SNAP_BAD
    else if late then r.1.raise G.TWN_SNAP_LATE
    else r.1.twinUp fun t => { t with got := some x }

/-- The received snapshot belongs to the boundary before this one, and PSTATE takes it: after a resynchronization's END only that of
B_R. -/
def snapFits (s : State) (x : Snap) : Bool :=
  x.block == (s.time.block + 2 ^ 48 - 1) % 2 ^ 48 &&
    (match s.twin.own with | some o => o.block == x.block | none => false) &&
    (if pstate s = psResync then s.twin.bR == some x.block else pstate s = psSettle || pstate s = psPaired)

/-- Blocks of SETTLE (R409). -/
def settleLength (s : State) : Nat :=
  let n := ((List.range 16).map fun c => (mbLive s c 4).toNat + (mbLive s c 3).toNat + (s.mbCh c).la).foldl max 0
  (n + 7) / 8 + 12

/-- The snapshot at a block boundary: applied or counted late (R398, R399), and FROZEN. `media` and `model`: no unit of the island
overran. -/
def snapAtBlock (s : State) (media model : Bool) : State :=
  let was := s.twin.applied.1
  let (s1, ok) : State × Bool := match s.twin.got with
    | none => (s, false)
    | some x =>
      match s.twin.own with
      | some o =>
        if !owner s && snapFits s x then
          let s1 := (applySnap s x o media model).raiseIf (!(media && model)) G.TWN_SNAP_LATE
          if pstate s = psResync then
            let s2 := ((setPstate s1 psSettle).raise G.TWN_RESYNC_DONE).set F.TWN_STAT_RESYNC_FAIL 0
            (s2.twinUp fun t => { t with settle := settleLength s2, bR := none }, media && model)
          else (s1, media && model)
        else (s.raiseIf (!owner s && pstate s != psResync) G.TWN_SNAP_LATE, false)
      | none => (s.raiseIf (!owner s) G.TWN_SNAP_LATE, false)
  (s1.twinUp fun t => { t with got := none, applied := (ok, was) }).setB F.TWN_STAT_FROZEN (!owner s && !ok && !was)

/-- SETTLE ends (R409). -/
def settleEnd (s : State) : State :=
  if pstate s = psSettle then (setPstate s psPaired).twinUp fun t => { t with settle := 0 } else s

/-- SETTLE counts down at a block boundary. -/
def settleAtBlock (s : State) : State :=
  if pstate s ≠ psSettle then s
  else if s.twin.settle ≤ 1 then settleEnd s
  else s.twinUp fun t => { t with settle := t.settle - 1 }

/-! ### Resynchronization (R407 to R409) -/

/-- TWN_CTRL.RESYNC (R409). -/
def resyncRequest (s : State) : State :=
  if owner s || !linkUp s || pstate s = psRefused then (s.set F.TWN_CTRL_RESYNC 0).raise G.TWN_REQ_REFUSED
  else requestResync (s.set F.TWN_CTRL_RESYNC 1)

/-- Word 11 + j of a snapshot: WSEQ and WIDX of rings 4j to 4j + 3, ring 4j in the lowest bits (R500). -/
def ringWord (x : Snap) (j : Nat) : Quad :=
  quadOf <| (List.range 4).map fun i => let r := x.rings.getD (4 * j + (3 - i)) (0, 0); BitVec.ofNat 32 (r.2 * 65536 + r.1)

/-- The words of a snapshot record: its zero words, its ring words, and the others by groups (R397, R500). -/
def snapWords (x : Snap) : List Quad :=
  (List.range 1000).map fun n =>
    if (decide (22 ≤ n) && decide (n < 40)) || (decide (40 ≤ n) && decide (55 ≤ (n - 40) % 60)) then 0
    else if 11 ≤ n ∧ n ≤ 18 then ringWord x (n - 11)
    else Config.snapWord x n

/-- The data words of a region of a resynchronization (R407): the banks LIVE before NEXT, the registers of the shared set in pointer order; for
each channel its gr history and fit state; the commit (DESIGN CHOICE, log entry 40). -/
def regionWords (s : State) (region : Nat) : List Word :=
  let both (f : Bool → List Word) : List Word := f false ++ f true
  let each (f : Nat → List Word) : List Word := (List.range 16).flatMap f
  if region = 1 then each fun c => both fun nx => (List.range 2224).map fun o => s.bank (mbKey c (xor (liveBankOf s c) nx) o)
  else if region = 2 then both fun nx => (List.range 16).map (fun n => s.bank (routeKey (xor s.mb.liveTab nx) n))
    ++ (List.range 1024).map (fun i => s.bank (mixKey (xor s.mb.liveTab nx) i))
  else if region = 3 then each fun c => both fun nx =>
    (List.range 162).map fun o => s.bank (laneKey (laneOf s c) (xor (s.lane (laneOf s c)).live nx) o)
  else if region = 4 then each fun c => both fun nx => (List.range 48).map fun o => s.bank (spkKey c (xor (s.ventCh c).live nx) o)
  else if region = 5 then sharedRegs.map s.rd
  else if region = 6 then each fun c =>
    let m := (s.ventCh c).m
    (List.range grKept).map (fun i => m.gr.getD i f32One) ++ [m.sB, m.sK, m.sL, m.rms.getD 0] ++ (List.range 76).map (Config.fitWord m.fitTok)
  else
    [s.get F.SCN_STAT_STATE, s.get F.SCN_STAT_LIVE_ID, s.get F.SCN_CFG_ID_NEXT, sceneAt s / 2 ^ 32, sceneAt s, s.get F.SCN_MASK_CH_MASK,
      if s.scn.started then 1 else 0, s.scn.need].map (BitVec.ofNat 32) ++ s.scn.blocks.map (BitVec.ofNat 32)

/-- The descriptor of an RSYNC frame: REGION, OFFSET and word count (R407). -/
def descriptor (region offset count : Nat) : Quad := BitVec.ofNat 128 (region * 2 ^ 120 + offset * 2 ^ 64 + count * 2 ^ 48)

/-- The data words one RSYNC frame carries beside its descriptor (R385). -/
def rsyncMost : Nat := 1023

/-- RSYNC frames for the data words of a region, as many as it takes (R385, R407). -/
def sendRegion (s : State) (region : Nat) (data : List Quad) : State :=
  (List.range ((data.length + rsyncMost - 1) / rsyncMost)).foldl (fun t i =>
    let part := (data.drop (rsyncMost * i)).take rsyncMost
    sendFrame t frRsync 0 (descriptor region (rsyncMost * i) part.length :: part)) s

/-- The words of a region that changed since they were sent are sent again (R407; a word written with the value it had is not, DEDUCED, log
entry 40). -/
def sendMarked (s : State) (region : Nat) : State :=
  let now := quadsOf (regionWords s region)
  let old := s.twin.sent.getD (region - 1) []
  (List.range now.length).foldl (fun t i =>
    if now.getD i 0 = old.getD i 0 then t else sendFrame t frRsync 0 [descriptor region i 1, now.getD i 0]) s

/-- END: the boundary B_R, this one, and CFG_DIG (R407). -/
def sendEnd (s : State) : State :=
  sendFrame s frRsync 0 [descriptor 0xFF 0 1, BitVec.ofNat 128 (s.time.block * 2 ^ 80 + (cfgDigest s).toNat)]

/-- The boundaries over which an owner answers RSREQ: one for each region, and one for the marked words and END, within 1 ms (R407; DESIGN
CHOICE, log entry 40). -/
def answerBlocks : Nat := 8

/-- The owner answers RSREQ and suspends SNAP until END (R407). -/
def rsreqRx (s : State) : State :=
  if owner s && linkUp s then s.twinUp fun t => { t with answering := answerBlocks, sent := [] } else s

/-- A resynchronization at a block boundary of the unit that answers it (R407). -/
def answerAtBlock (s : State) : State :=
  let n := s.twin.answering
  if n = 0 then s
  else if !owner s then s.twinUp fun t => { t with answering := 0, sent := [] }
  else if n = 1 then
    (sendEnd ((List.range 7).foldl (fun t r => sendMarked t (r + 1)) s)).twinUp fun t => { t with answering := 0, sent := [] }
  else
    let data := quadsOf (regionWords s (answerBlocks + 1 - n))
    (sendRegion s (answerBlocks + 1 - n) data).twinUp fun t => { t with answering := n - 1, sent := t.sent ++ [data] }

/-- Words written one after another into a bank, each straight (R407). -/
def putWords (key : Nat → Nat) (limit : Nat) : List Word → Nat → State → State
  | [], _, s => s
  | w :: ws, o, s => putWords key limit ws (o + 1) (if o < limit then s.putBank (key o) w else s)

/-- What an RSYNC frame carries enters the standby's own banks and registers; registers outside the shared set are left out (R407, R636). -/
def rsyncData (s : State) (x : Resync) : State :=
  match x with
  | .mbBank c next o ws => putWords (mbKey c (xor (liveBankOf s c) next)) 2224 ws o s
  | .table next o ws =>
    putWords (fun i => if i < 16 then routeKey (xor s.mb.liveTab next) i else mixKey (xor s.mb.liveTab next) (i - 16)) 1040 ws o s
  | .laneBank c next o ws => putWords (laneKey (laneOf s c) (xor (s.lane (laneOf s c)).live next)) 162 ws o s
  | .spkBank c next o ws => putWords (spkKey c (xor (s.ventCh c).live next)) 48 ws o s
  | .regs l => l.foldl (fun t e => if sharedRegs.contains e.1.toNat then t.wr e.1.toNat e.2 else t) s
  | .hist c gr hold tok sB sK sL rms =>
    s.modelUp c fun m => { m with gr := gr, hold := hold, fitTok := tok, sB := sB, sK := sK, sL := sL, rms := rms }
  | .scene st live next at_ mask started blocks need =>
    let s1 := ((s.set F.SCN_STAT_STATE st).set F.SCN_STAT_LIVE_ID live).set F.SCN_CFG_ID_NEXT next
    let s2 := (s1.set F.SCN_MASK_CH_MASK mask.toNat).set F.SCN_ARM_GO (if st = 0 then 0 else 1)
    let s3 := (s2.wr R.SCN_AT_L (BitVec.ofNat 32 at_)).wr (R.SCN_AT_L + 4) (BitVec.ofNat 32 (at_ / 2 ^ 32))
    { s3 with scn := { s3.scn with started := started, blocks := blocks, need := need } }
  | .endMark bR dig => ((s.wr R.TWN_PDIG dig).set F.TWN_CTRL_RESYNC 0).twinUp fun t => { t with bR := some bR }

/-- An RSYNC frame (R407): the standby writes its data, but that of a frame it discards (R386). -/
def rsyncRx (s : State) (rx : LinkRx) (x : Resync) : State :=
  if pstate s ≠ psResync || owner s then s else frameUsed s frRsync rx fun t => rsyncData t x

/-! ### The block boundary -/

/-- The frames of a block (R385, R392): MARK of the alignment sender, the heartbeat message, then the owner's part of a resynchronization or
its snapshot. -/
def framesAtBlock (s : State) : State :=
  let s1 := if owner s || (!s.on F.TWN_STAT_P_OWNER && !roleB s) then gatePush s .gt3t [BitVec.ofNat 32 (s.time.block % 65536)] else s
  let s2 := answerAtBlock (sendFrame s1 frHbm 0 [hbmWord s1 s1.twin.applied.1])
  if owner s2 && s2.twin.answering = 0 then
    match s2.twin.own with
    | some x => sendFrame s2 frSnap 0 (snapWords x)
    | none => s2
  else s2

/-- The pair's work at a block boundary: training, snapshot, settling, handover, the unit's own record, and the frames of the block (R385). -/
def twinAtBlock (s : State) (media model : Bool) : State :=
  let s1 := snapAtBlock (handoverAtBlock (trainAtBlock s)) media model
  let s2 := settleAtBlock s1
  if !pairEn s2 then s2
  else
    let s3 := s2.twinUp fun t => { t with own := some (capture s2), markAge := t.markAge + 1 }
    if !linkUp s3 || pstate s3 = psRefused then s3 else framesAtBlock s3

end Sys2Proof.Machine
end

