-- ==== Sys2Proof/Machine/Strings.lean ====
section
/-! DEFINITION. Strings.lean: the Strings ring (12) as far as its registers, ports, slots and addresses go. Commands and frames stand in
StringsRun.lean. -/

set_option Elab.async false

namespace Sys2Proof.Machine

/-- The state after an update of the ring's state. -/
def State.strUp (s : State) (f : Str → Str) : State := { s with str := f s.str }

/-- No address (STR_STAT.ADDR). -/
def noAddr : Nat := 0x3F
/-- The node's address. -/
def strAddr (s : State) : Nat := s.get F.STR_STAT_ADDR
/-- The node takes part in the ring (R413), the CLUSTER byte apart. -/
def takesPart (s : State) : Bool := s.str.image && s.on F.STR_CFG_RING_EN
/-- Addresses the master holds. -/
def heldCount (s : State) : Nat := (s.str.held.filter Option.isSome).length
/-- Pairs numbered under R427. -/
def pairCount (s : State) : Nat := ((List.range 16).filter fun p => s.str.pairs.contains p).length

/-- The unit is ring master: it stops at once when it releases OWN_N (R412, R431). -/
def isMaster (s : State) : Bool := s.str.master && owner s
/-- Commands in the manager's queue; its head stays there while it is carried (R435, R439). -/
def queueLength (x : Str) : Nat := x.queue.length + (if x.cur.isSome && !x.curOwn then 1 else 0)

/-- STR_STAT as read: RSTATE follows participation, mastership and the frames of the last 4 blocks (R413, R423). -/
def strStat (s : State) : Word :=
  let rs := if !takesPart s then 0 else if isMaster s then 3 else if s.str.quiet < 4 then 2 else 1
  State.putBits (s.rd R.STR_STAT) F.STR_STAT_RSTATE rs

/-- MGR_STAT as read (R439). -/
def mgrStat (s : State) : Word :=
  BitVec.ofNat 32 ((if isMaster s then 2 ^ 31 else 0) + (if s.on F.STR_STAT_FOLDED && isMaster s then 2 ^ 30 else 0)
    + heldCount s * 2 ^ 24 + pairCount s * 2 ^ 16 + queueLength s.str)

/-- A write of STR_CFG: a change of CLUSTER drops the address (R424). -/
def writeStrCfg (s : State) (v : Word) : State :=
  let s1 := storeCoded s R.STR_CFG v
  if s1.get F.STR_CFG_CLUSTER ≠ s.get F.STR_CFG_CLUSTER then s1.set F.STR_STAT_ADDR noAddr else s1

/-! ### Ports and folding (R417, R428) -/

/-- STR_STAT shows the ports that are good. -/
def showPorts (s : State) : State :=
  (s.setB F.STR_STAT_UP_OK (s.str.forwarding && !s.str.upBad)).setB F.STR_STAT_DOWN_OK (s.str.forwarding && !s.str.downBad)

/-- Code violations of one block count (R439), and the port fails with 64 of them or where its receiver has lost alignment or SOFs (R417).
Each port's failure is a condition of its own, which PORT_FAIL counts once until the port is good again (R19, R438). -/
def portFail (s : State) (up : Bool) (codes : Nat) (lost : Bool) : State :=
  let f := if up then F.STR_LERR_UP_CV else F.STR_LERR_DOWN_CV
  let fresh := !(if up then s.str.upBad else s.str.downBad)
  let s1 := s.set f (s.get f + codes)
  if codes < 64 && !lost then s1
  else
    showPorts ((s1.raiseIf fresh G.STR_PORT_FAIL).strUp fun x =>
      if up then { x with upBad := true, upAge := 0 } else { x with downBad := true, downAge := 0 })

/-- A port counts as good again after 12,000 blocks in a row without failure (R417). -/
def portGood (s : State) (up : Bool) : State :=
  if (if up then s.str.upAge else s.str.downAge) < 12000 then s
  else showPorts (s.strUp fun x => if up then { x with upBad := false } else { x with downBad := false })

/-- The turn-around of R428 takes effect at an SOF. -/
def foldAtSof (s : State) : State :=
  let x := s.str
  let s1 := s.strUp fun y => { y with foldUp := x.foldUp || x.upBad, foldDown := x.foldDown || x.downBad }
  s1.cond G.STR_FOLD (s1.str.foldUp || s1.str.foldDown)

/-- Every folding node returns to straight forwarding at boundary AT (R430). -/
def unfoldAtBlock (s : State) : State :=
  match s.str.unfoldAt with
  | none => s
  | some b =>
    if s.time.block < b then s
    else (s.strUp fun y => { y with unfoldAt := none, foldUp := false, foldDown := false }).cond G.STR_FOLD false

/-- The transmitters turn on 100 µs after the release of RESET_N (R416); a port that has not failed counts as good from then on (DEDUCED,
log entry 51). -/
def forwardingStart (s : State) : State := showPorts (s.strUp fun x => { x with forwarding := true })

/-- No valid frame for 4 blocks (R423). -/
def ringLostTimeout (s : State) : State := if s.str.quiet < 4 then s else s.cond G.STR_RING_LOST true

/-- An address times out: the master frees it after 24,000 blocks without a valid slot, a node drops its own after 12,000 without a valid
frame (R424). -/
def addressTimeout (s : State) (n : Nat) : State :=
  if s.str.master then
    match s.str.held.getD n none with
    | none => s
    | some age => if age < 24000 then s else s.strUp fun x => { x with held := x.held.set n none, pairs := x.pairs.set n 0xFF }
  else if strAddr s = n ∧ 12000 ≤ s.str.quiet then s.set F.STR_STAT_ADDR noAddr
  else s

/-! ### Slots (R421, R425) -/

/-- 62 bytes with their CRC. -/
def withScrc (bs : List Byte) : List Byte := bs ++ beBytes 2 (crc16 bs)

/-- A slot is valid: its CRC holds and byte 0 is its index (R422). -/
def slotValid (n : Nat) (bs : List Byte) : Bool :=
  bs.length == 64 && beAt bs 62 2 == crc16 (bs.take 62) && beAt bs 0 1 == n

/-- A flag at a bit. -/
def flagBit (b : Bool) (n : Nat) : Nat := if b then 2 ^ n else 0

/-- −20·log10 of an unsigned Q1.15 gain in 0.25 dB, saturating; a gain of 0 saturates too. -/
def gainDb (g : Nat) : Nat :=
  if g = 0 then 0xFF else satU 8 (rneDiv (-80 * lnFix (f32OfDyadic g (-15))) ln10Fix.toNat)

/-- The 24 bits of channel c in a RUN slot. -/
def slotChannel (s : State) (c : Nat) : Nat :=
  s.get (F.DIA_STAT_LOAD c) * 2 ^ 20 + flagBit (s.get (F.MOD_STAT_STATE (2 * c)) = modSwitching) 19
    + flagBit (s.on (F.CH_TRST_LATCHED c)) 18 + flagBit (s.on (F.DIA_STAT_XLIM c)) 17 + flagBit (s.on (F.DIA_STAT_TLIM c)) 16
    + gainDb (s.get (F.DIA_PRES0_GMIN c)) * 2 ^ 8 + satU 8 (rneDiv (s.getS (F.SPK_TRES0_TC c)) 32)

/-- Bytes 1 to 61 of the RUN slot, as captured at a block boundary (R421). -/
def captureSlot (s : State) : List Byte :=
  let nstat := flagBit (roleB s) 7 + flagBit (owner s) 6 + flagBit (s.on F.STR_STAT_MGR) 5 + flagBit (deviceSafe s) 4
    + flagBit (pairDegraded s) 3 + flagBit ((List.range 16).any fun c => s.get (F.SPK_STAT_MODE c) = modeFallback) 2
    + flagBit (s.on F.STR_STAT_UP_OK) 1 + flagBit (s.on F.STR_STAT_DOWN_OK) 0
  let head := beBytes 1 nstat ++ beBytes 1 (pstate s * 32 + s.get F.PTP_STAT_STATE % 8) ++ beBytes 1 (s.get F.STR_STAT_PAIR)
    ++ beBytes 2 s.str.ackSeq ++ beBytes 1 s.str.ack ++ beBytes 1 (pattern 8 (rneDiv (s.getS F.TS_TEMP_TEMP) 16))
    ++ beBytes 2 (s.get F.TS_STAT_CAUSE) ++ beBytes 2 (s.get F.SCN_STAT_LIVE_ID) ++ beBytes 2 (s.time.block % 65536)
  head ++ (List.range 16).flatMap fun c => beBytes 3 (slotChannel s c)

/-- The RUN slot of the node at address n. -/
def runSlot (s : State) (n : Nat) : List Byte := withScrc (beBytes 1 n ++ s.str.captured)

/-- The ENUM slot of the node at address n (R425); 0 stands for no partner. -/
def enumSlot (s : State) (n : Nat) : List Byte :=
  let b1 := flagBit (roleB s) 7 + flagBit (owner s) 6 + flagBit (s.on F.STR_STAT_MGR) 5 + flagBit (pairEn s) 4 + flagBit (linkUp s) 3
  withScrc (beBytes 1 n ++ beBytes 1 b1 ++ beBytes 4 (s.rd R.SYS_DEVNUM_H).toNat ++ beBytes 4 (s.rd R.SYS_DEVNUM_L).toNat
    ++ beBytes 8 s.twin.pDevnum.toNat ++ beBytes 44 0)

/-! ### The manager's queue (R436, R439) -/

/-- The payload bytes 0 to 25 of MGR_CQDATA. -/
def cqPayload (s : State) : List Byte :=
  ((List.range 8).flatMap fun j => beBytes 4 (s.rd (R.MGR_CQDATA0 + 4 * j)).toNat).take 26

/-- AT of a PTP time, in exact integer arithmetic (R436). -/
def timeToBlock (secs ns : Nat) : Nat := (secs * 12000 + ceilDiv (3 * ns) 250000) % 2 ^ 48

/-- MGR_CQCTRL.GO (R436, R439). The queue is held while the unit is not master too (DEDUCED, log entry 52). -/
def queueGo (s : State) : State :=
  if 16 ≤ queueLength s.str then s.raise G.MGR_CQ_FULL
  else
    let ctype := s.get F.MGR_CQHDR_CTYPE
    let at_ := timeToBlock (s.get F.MGR_CQT0_S * 2 ^ 32 + s.get F.MGR_CQT1_S) (s.get F.MGR_CQT2_NS)
    let p := if ctype = 3 ∧ s.on F.MGR_CQHDR_USE_TIME then beBytes 6 at_ ++ (cqPayload s).drop 6 else cqPayload s
    let cmd : StrCmd := { dest := s.get F.MGR_CQHDR_DEST, ctype := ctype, cseq := s.str.nextSeq, payload := p }
    let s1 := s.strUp fun x => { x with queue := x.queue ++ [cmd], nextSeq := (x.nextSeq + 1) % 65536 }
    s1.set F.MGR_CQCTRL_CSEQ cmd.cseq

/-- A write of MGR_CQCTRL. -/
def writeCqctrl (s : State) (v : Word) : State := if bitN v.toNat 0 then queueGo s else s

/-- A write of the nanoseconds; 10^9 and above are stored as 999,999,999 (R436). -/
def writeCqNs (s : State) (v : Word) : State :=
  storeCoded s R.MGR_CQT2 (if 1000000000 ≤ v.toNat then 999999999#32 else v)

/-- A read of the first word of a MGR_NODE slot, and of MGR_CQRES0 (R439). -/
def nodeSlotRead (s : State) (side n : Nat) : State := latchRead s side (R.MGR_NODE (16 * n)) 15
def cmdResultRead (s : State) (side : Nat) : State := latchRead s side R.MGR_CQRES0 2

/-- A command of the master ends: its result is published (R435, R437, R439). -/
def cqResult (s : State) (c : StrCmd) (fail : List Nat) (status : Nat) : State :=
  let mask := fail.foldl (fun a n => a + 2 ^ n) 0
  ((((s.set F.MGR_CQRES0_SEQ (nextSeq1 (s.get F.MGR_CQRES0_SEQ))).set F.MGR_CQRES0_CSEQ c.cseq).set F.MGR_CQRES1_FAIL mask).set
    F.MGR_CQRES2_STATUS status)

/-- The targets of the carried command that have not acknowledged it. -/
def unacked (x : Str) : List Nat := x.targets.filter fun n => !x.acked.contains n

/-! ### Frames as they are sent (R416, R418 to R420) -/

/-- Bytes 0 to 13 of the header (R419). -/
def ringHead (f : RingFrame) : List Byte :=
  beBytes 1 (if f.enum then 0x11 else 0x10) ++ beBytes 1 (flagBit f.fold 7) ++ beBytes 6 f.blk.toNat ++ beBytes 4 f.origin.toNat
    ++ [f.cluster] ++ [f.nodes]
/-- HCRC holds (R419). -/
def hcrcOk (f : RingFrame) : Bool := crc16 (ringHead f) == f.hcrc.toNat
/-- The frame with its HCRC computed. -/
def withHcrc (f : RingFrame) : RingFrame := { f with hcrc := BitVec.ofNat 16 (crc16 (ringHead f)) }
/-- The bytes of a frame between K27.7 and K29.7 (R418). -/
def ringBytes (f : RingFrame) : List Byte :=
  ringHead f ++ beBytes 2 f.hcrc.toNat ++ bytesAt f.cmd 0 32 ++ (List.range 32).flatMap fun n => bytesAt (f.slots.getD n []) 0 64

/-- The command slot that carries a command, or none: then every byte but CCRC is 0 (R420; DEST is a DESIGN CHOICE, log entry 54). -/
def commandSlot (c : Option StrCmd) : List Byte :=
  let bs := match c with
    | some c => beBytes 1 c.dest ++ beBytes 1 c.ctype ++ beBytes 2 c.cseq ++ bytesAt c.payload 0 26
    | none => beBytes 30 0
  bs ++ beBytes 2 (crc16 bs)

/-- A command carried in 8 frames without completing fails (R435). -/
def failCarried (s : State) : State :=
  match s.str.cur with
  | none => s
  | some c =>
    if s.str.carried < 8 then s
    else ((cqResult s c (unacked s.str) 1).raise G.MGR_CMD_FAIL).strUp fun x => { x with cur := none }

/-! ### The block boundary -/

/-- Mastership, unfolding, timers and the capture of the RUN slot at a block boundary (R421, R424, R431). A unit that has an address knows
the ring and takes it over; any other starts with ENUM (DEDUCED, log entry 53). -/
def strAtBlock (s0 : State) : State :=
  let s := unfoldAtBlock s0
  let x := s.str
  let stop := x.master && (x.stopDue || !owner s)
  let start := x.startDue && owner s && s.on F.STR_STAT_MGR
  let takeover := start && strAddr s != noAddr
  let age (a : Option Nat) : Option Nat := a.map (· + 1)
  let s1 := s.strUp fun x => { x with
    master := if start then true else x.master && !stop
    startDue := false, stopDue := false
    enumNext := if start then !takeover else x.enumNext
    held := if takeover then x.seenHeld.map fun h => if h then some 0 else none
      else if start then List.replicate 32 none else if x.master then x.held.map age else x.held
    queue := if start || stop then [] else x.queue
    own := if takeover then x.seen.toList else if start || stop then [] else x.own
    cur := if start || stop then none else x.cur
    validLast := if takeover then x.seenHeld else x.validLast
    quiet := min (x.quiet + 1) 12000
    upAge := min (x.upAge + 1) 12000, downAge := min (x.downAge + 1) 12000
    frameOut := false }
  let s2 := if takeover then s1.raise G.MGR_NEW_MASTER else s1
  let s3 := failCarried s2
  s3.strUp fun x => { x with captured := captureSlot s3 }

end Sys2Proof.Machine
end

