-- ==== Sys2Proof/Machine/Registers.lean ====
section
/-! DEFINITION. Registers.lean: reads and writes of the pointer space (00, 21): which path reaches what, the writes of registers with an
effect of their own, the registers that show live quantities, and the side effects of reads. -/

set_option Elab.async false

namespace Sys2Proof.Machine

/-! ### Paths and islands (R12, R633, R635, R636) -/

/-- The target port of the island that holds the register at a pointer (R633, codes of R491); 13 is MGMT itself. -/
def portOf (p : Nat) : Nat :=
  let o := p % 0x100
  if (0x40 ≤ p ∧ p < 0x70) then 12
  else if 0x140 ≤ p ∧ p < 0x180 then 9
  else if 0x180 ≤ p ∧ p < 0x200 then 8
  else if 0x800 ≤ p ∧ p < 0x810 then 6
  else if 0x810 ≤ p ∧ p < 0x850 then 10
  else if 0x850 ≤ p ∧ p < 0xA00 then 6
  else if 0x1000 ≤ p ∧ p < 0x2000 then (if o < 0x40 then 6 else if o < 0x44 then 9 else 12)
  else if 0x2000 ≤ p ∧ p < 0x4000 then 9
  else if 0x4000 ≤ p ∧ p < 0x7000 then 8
  else if 0x7000 ≤ p ∧ p < 0x9000 then 7
  else 13

/-- The port of the island that holds a pointer is DOWN (R495). -/
def islandDown (s : State) (p : Nat) : Bool := bitN (s.get F.FAB_PORT_DOWN) (portOf p)

/-- A pointer of the manager range is reached through the manager address, the management core and the debug access port (R12, R636). -/
def managerPath : Path → Bool
  | .hostManager | .mgmtCore | .debugPort => true
  | .hostPrimary | .hostGroup | .ringEngine | .cmdRing _ | .image | .twinResync => false

/-- The pointer names a register on this path (R12, R635); 0x0834 to 0x0848 are those of the stream that AIN_SSEL selects (R77). -/
def inSpace (path : Path) (p : Nat) : Bool :=
  (rowOf (if 0x834 ≤ p ∧ p ≤ 0x848 then 0x10000 + (p - 0x834) else p)).isSome && decide (p < 0xF000)
    && (decide (p < 0xB000) || managerPath path)

/-- The device's state lets writes through to the pointer (R559). -/
def stateAccepts (s : State) (p : Nat) : Bool :=
  if bstate s = bsRetired then false
  else if bstate s = bsRecovery then
    p = R.SYS_CTRL || p = R.SYS_LCREQ || decide (0x200 ≤ p ∧ p < 0x600)
  else true

/-- The debug access port reaches SYS_LCREQ in FIELD too: R570 names it as the path of the requests that leave FIELD (DEDUCED, log entry 64). -/
def debugRequest (s : State) (p : Nat) : Bool := decide (lcState s = lcField) && decide (p = R.SYS_LCREQ)

/-- The path lets a write through to the pointer (R408, R481, R537, R575, R636). -/
def pathAccepts (s : State) (path : Path) (p : Nat) : Bool :=
  match path with
  | .hostPrimary | .hostGroup | .hostManager => ready s
  | .mgmtCore => true
  | .ringEngine => decide (p < 0xB000)
  | .cmdRing c => cmdPointer c p
  | .image => !(decide (0x200 ≤ p ∧ p < 0x300) || decide (0xA000 ≤ p) || p = R.TS_CTRL || p = R.SYS_CTRL || p = R.CLK_REFADJ)
  | .twinResync => sharedRegs.contains p || decide (0x834 ≤ p ∧ p ≤ 0x848)
  | .debugPort => (debugOpen s || debugRequest s p) && bstate s != bsWipe

/-- A write by the path reaches the register at the pointer. -/
def writable (s : State) (path : Path) (p : Nat) : Bool :=
  !s.sys.inReset && inSpace path p && stateAccepts s p && pathAccepts s path p && !islandDown s p

/-- The pointer names a production test register: through the debug access port in BLANK only (R635). -/
def testRegister (s : State) (path : Path) (p : Nat) : Bool :=
  decide (0xF000 ≤ p) && path == .debugPort && decide (lcState s = lcBlank) && !s.sys.inReset

/-! ### Values stored other than as written -/

/-- The word with field hi:lo raised to 1 where it is 0. -/
def atLeastOne (v : Word) (f : Fld) : Word := if bitsN v.toNat f.hi f.lo = 0 then State.putBits v f 1 else v

/-- MEM_RCFG (R515): REP_WIN and REP_THR of 0 are stored as 1. -/
def storedRcfg (v : Word) : Word := atLeastOne (atLeastOne v F.MEM_RCFG_REP_WIN) F.MEM_RCFG_REP_THR

/-- A binary32 value is finite and positive (SNS_VFS, SNS_IFS). -/
def finitePositive (v : Word) : Bool := !f32Special v && decide (0 < f32Units v)

/-! ### Writes -/

/-- A write of QSPI_CTRL (R544). Status register 1 comes from the flash: a read-status operation through this path stores a free value. -/
def writeQspiCtrl (s : State) (v : Word) : State :=
  let op := v.toNat % 4
  if v.toNat < 2 ^ 31 then storeCoded s R.QSPI_CTRL v
  else if op = 3 then (qspiStatus s (s.freshWord.extractLsb' 0 8)).used
  else if op = 0 then s.set F.QSPI_CTRL_OP 0
  else qspiStart s op

/-- A write of LANE_SHD (R297, R304). -/
def writeLaneShd (s : State) (v : Word) : State :=
  let s1 := shadowEnable (storeCoded s R.LANE_SHD (v &&& ~~~(0x2#32)))
  if bitN v.toNat 1 then forcedSwap s1 else s1

/-- A write of TWN_CTRL. -/
def writeTwnCtrl (s : State) (v : Word) : State :=
  let s1 := if bitN v.toNat 2 then retrain s else s
  let s2 := if bitN v.toNat 1 then handover s1 else s1
  if bitN v.toNat 0 then resyncRequest s2 else s2

/-- A write of MB_CORE: SWAP_Q is stored, SWAP requests the swap (R129). -/
def writeMbCore (s : State) (v : Word) : State :=
  let s1 := storeCoded s R.MB_CORE (v &&& ~~~(0x1#32))
  if bitN v.toNat 0 then swapRequest s1 (v.toNat / 4 % 4) else s1

/-- A write of CH_MUTE (R563, R564). -/
def writeMute (s : State) (c : Nat) (v : Word) : State :=
  let s1 := storeCoded s (R.CH_MUTE c) (v &&& 0x1#32)
  if bitN v.toNat 1 then relStart s1 c else s1

/-- A write of SYS_CTRL (R550, R576): a reset word resets the device, at the end of the commit when the host writes it. -/
def writeCtrl (s : State) (path : Path) (v : Word) : State :=
  if isSoftReset v && (hostSide path || path == .mgmtCore) then
    if hostSide path then { s with hst := { s.hst with resetDue := true } } else enterReset s rstSoft
  else writeSysCtrl s path v

/-- A write of HST_CFG: DFILT_N 0 is stored as 1; the filter setting applies at the end of the host's commit, or at once where no commit
brings it (R468, R472). -/
def writeHstCfg (s : State) (path : Path) (v : Word) : State :=
  let s1 := storeCoded s R.HST_CFG (atLeastOne v F.HST_CFG_DFILT_N)
  if hostSide path then s1 else { s1 with hst := { s1.hst with filter := s1.rd R.HST_CFG } }

/-- Writes of the registers below 0x800, by pointer. -/
def writeSystem (s : State) (path : Path) (p : Nat) (v : Word) : State :=
  if p = R.SYS_CTRL then writeCtrl s path v
  else if p = R.SYS_LCREQ then lcRequest s path v
  else if p = R.SYS_MUTECFG then storeCoded s p (atLeastOne (atLeastOne v F.SYS_MUTECFG_SETTLE) F.SYS_MUTECFG_RAMP)
  else if p = R.TS_CTRL then writeTsCtrl s v
  else if p = R.TS_TLIM ∨ (0x60 ≤ p ∧ p < 0x70) then writeLimit s p v
  else if p = R.CLK_REFADJ then writeRefAdj s path v
  else if p = R.PWM_FSW then kSelect s v
  else if p = R.LANE_SHD then writeLaneShd s v
  else if p = R.QSPI_CTRL then writeQspiCtrl s v
  else if 0x240 ≤ p ∧ p < 0x260 then qspiBufWrite s v
  else if p = R.HST_CFG then writeHstCfg s path v
  else if p = R.HST_REQ then storeCoded s p (atLeastOne v F.HST_REQ_REQ_INT)
  else if p = R.MEM_RCFG then storeCoded s p (storedRcfg v)
  else if p = R.MEM_INJ then injectArm s v
  else if p = R.BKG_CTRL then (if bitN v.toNat 0 then logFlush s else s)
  else if p = R.TWN_CFG then writeTwnCfg s v
  else if p = R.TWN_CTRL then writeTwnCtrl s v
  else if p = R.STR_CFG then writeStrCfg s v
  else storeCoded s p v

/-- Writes of the audio input, scene and core registers, 0x800 to 0x9FF. -/
def writeAudio (s : State) (p : Nat) (v : Word) : State :=
  let i := s.get F.AIN_SSEL_STREAM
  if p = R.PTP_CFG then ptpConfigure (storeCoded s p v)
  else if p = R.PTP_CTRL then (if bitN v.toNat 0 then stepNow s else s)
  else if p = 0x834 then writeScfg s i v
  else if 0x838 ≤ p ∧ p ≤ 0x848 then writeStreamReg s i (canon s p) v
  else if p = R.AIN_CSSEL then csSelect s v
  else if 0x8A0 ≤ p ∧ p < 0x8C0 then mixWrite s v
  else if 0x8C0 ≤ p ∧ p < 0x900 then routeWrite s ((p - 0x8C0) / 4) v
  else if p = R.SCN_ARM then writeScnArm s v
  else if 0x910 ≤ p ∧ p < 0x920 then writeScnCfg s p v
  else if p = R.MB_CORE then writeMbCore s v
  else storeCoded s p v

/-- Writes of the channel block, 0x1000 to 0x1FFF. -/
def writeChannel (s : State) (p : Nat) (v : Word) : State :=
  let c := (p - 0x1000) / 0x100
  let o := p % 0x100
  if o = 0x00 then laWrite s c v
  else if o = 0x08 then writeMute s c v
  else if o = 0x10 then storeCoded s p (if 2223 < v.toNat % 4096 then 0 else v)
  else if 0x20 ≤ o ∧ o < 0x40 then bankWrite s c v
  else if o = 0x40 then chModWrite s c v
  else if o = 0x44 then writeLimit s p v
  else if o = 0x4C then writeTclr s c v
  else storeCoded s p v

/-- Writes of the leg and trip block, 0x2000 to 0x3FFF. -/
def writeLeg (s : State) (p : Nat) (v : Word) : State :=
  let l := (p - 0x2000) / 0x100
  let o := p % 0x100
  if o = 0x00 then hostCompare s l (v.extractLsb' 0 16) false
  else if o = 0x0C then writeDt s l v
  else if o = 0x10 then writeLim s l v
  else if o = 0x80 then writeLimit s p v
  else storeCoded s p v

/-- Writes of the sense block, 0x4000 to 0x4FFF: full-scale values that are not finite and positive are ignored, a CMP_N of 0 is
stored as 1. -/
def writeSense (s : State) (p : Nat) (v : Word) : State :=
  let c := (p - 0x4000) / 0x100
  let o := p % 0x100
  if o = 0x00 then storeCoded s p (atLeastOne v (F.SNS_CFG_CMP_N c))
  else if o = 0x04 ∨ o = 0x08 then (if finitePositive v then storeCoded s p v else s)
  else storeCoded s p v

/-- Writes of the lane block, 0x5000 to 0x6FFF. -/
def writeLane (s : State) (p : Nat) (v : Word) : State :=
  let c := (p - 0x5000) / 0x200
  let o := p % 0x200
  if o = 0x00 then (if bitN v.toNat 0 then swapNow s c else s)
  else if o = 0x0C then writeZout s c v
  else if o = 0x10 then coefWrite s c v
  else if o = 0x20 ∨ o = 0x28 then writeLanePtr s p v
  else if o = 0x44 then writeFe s c v
  else if o = 0x5C then writeOctl s c v
  else if 0x100 ≤ o ∧ o < 0x120 then lanePdataWrite s c v
  else storeCoded s p v

/-- Writes of the speaker block, 0x7000 to 0x7FFF. -/
def writeSpeaker (s : State) (p : Nat) (v : Word) : State :=
  if 0x7800 ≤ p then
    if p = R.VENT_CTRL then (if bitN v.toNat 0 then clrLoad s else s) else storeCoded s p v
  else
    let c := (p - 0x7000) / 0x80
    let o := p % 0x80
    if o = 0x00 ∨ o = 0x04 then writeSpkPtr s p v
    else if 0x20 ≤ o ∧ o < 0x40 then spkPdataWrite s c v
    else storeCoded s p v

/-- Writes of the diagnosis block, 0x8000 to 0x8FFF. -/
def writeDiag (s : State) (p : Nat) (v : Word) : State :=
  let c := (p - 0x8000) / 0x80
  let o := p % 0x80
  if 0x8800 ≤ p then storeCoded s p v
  else if o < 0x10 then writeDiaCfg s c p v
  else if o = 0x34 ∨ o = 0x38 then writeSwcfg s c p v
  else if o = 0x3C then writeSwctrl s c v
  else if o = 0x54 then writeSwptr s c v
  else storeCoded s p v

/-- Writes of the ring block, 0x9000 to 0x9FFF. -/
def writeRing (s : State) (path : Path) (p : Nat) (v : Word) : State :=
  let r := (p - 0x9000) / 0x80
  let o := p % 0x80
  if o = 0x00 then ringConfig s r v
  else if 0x20 ≤ o ∧ o < 0x2C then ringStage s (hostSide path) r ((o - 0x20) / 4) v
  else if o = 0x2C then ringPush s (hostSide path) r v
  else storeCoded s p v

/-- Writes of the trace block, 0xA000 to 0xAFFF. -/
def writeTraceBlock (s : State) (p : Nat) (v : Word) : State :=
  let b := (p - 0xA000) / 0x20
  let o := p % 0x20
  if 0xA200 ≤ p then storeCoded s p v
  else if o = 0x14 then writeTrcCtrl s b v
  else writeTrc s b p v

/-- Writes of the manager range. -/
def writeManager (s : State) (p : Nat) (v : Word) : State :=
  if p = R.MGR_CQT2 then writeCqNs s v
  else if p = R.MGR_CQCTRL then writeCqctrl s v
  else storeCoded s p v

/-- One register write that has been granted (R13, R450): nothing where the path, the state or the island does not let it through. -/
def regWrite (s : State) (path : Path) (p : Nat) (v : Word) : State :=
  if !writable s path p then s
  else if p < 0x800 then writeSystem s path p v
  else if p < 0x1000 then writeAudio s p v
  else if p < 0x2000 then writeChannel s p v
  else if p < 0x4000 then writeLeg s p v
  else if p < 0x5000 then writeSense s p v
  else if p < 0x7000 then writeLane s p v
  else if p < 0x8000 then writeSpeaker s p v
  else if p < 0x9000 then writeDiag s p v
  else if p < 0xA000 then writeRing s path p v
  else if p < 0xB000 then writeTraceBlock s p v
  else if p < 0xF000 then writeManager s p v
  else storeCoded s p v

/-- A list of writes, one after another. -/
def regWrites (s : State) (path : Path) (ws : List (Nat × Word)) : State :=
  ws.foldl (fun t e => regWrite t path e.1 e.2) s

/-! ### Registers that show live quantities -/

/-- The sources of HST_REQST.PEND (R461). -/
def requestPending (s : State) : Nat :=
  let any (p : Nat) : Bool := s.rd p != 0
  let c : List Bool := [faultNLow s, diaSum s != 0, any R.TWN_FLAG, any R.STR_FLAG, any R.AIN_FLAG, any R.SCN_FLAG,
    s.on F.HST_REQST_SOFT]
  let bits := (List.range 7).foldl (fun a i => if c.getD i false then a + 2 ^ i else a) 0
  bits &&& s.get F.HST_REQ_SRC_EN

/-- The phases of R466. -/
def hstPhase (s : State) : Nat :=
  if deviceSafe s || s.hst.timedOut then 3
  else if !ready s then 0
  else if (lcState s = lcDevelop || lcState s = lcService) && s.on F.HST_CFG_TEST_TMO then 2
  else 1

/-- The unit is ring master and answers its manager address (R412, R442). -/
def managerAnswers (s : State) : Bool := ready s && s.on F.STR_STAT_MGR && owner s

/-- HST_STAT as read. -/
def hstStat (s : State) : Word :=
  let w := State.putBits (State.putBits (s.rd R.HST_STAT) F.HST_STAT_PHASE (hstPhase s)) F.HST_STAT_READY (flagBit (ready s) 0)
  State.putBits w F.HST_STAT_MGR_ANS (flagBit (managerAnswers s) 0)

/-- The value that a register shows, where it is not its stored word. -/
def liveWord (s : State) (p : Nat) : Option Word :=
  if p = R.CLK_STAT then some (clkStat s)
  else if p = R.TWN_STAT then some (twnStat s)
  else if p = R.TWN_CFG then some (State.putBits (s.rd p) F.TWN_CFG_CLAIM_EN (flagBit (claimEn s) 0))
  else if p = R.STR_STAT then some (strStat s)
  else if p = R.MGR_STAT then some (mgrStat s)
  else if p = R.HST_REQST then some (State.putBits (s.rd p) F.HST_REQST_PEND (requestPending s))
  else if p = R.HST_STAT then some (hstStat s)
  else if p = R.MEM_BSTAT then some (memBstat s)
  else if p = R.MEM_RMAP then some (memRmap s)
  else if p = R.DIA_SUM then some (diaSum s)
  else if 0x1000 ≤ p ∧ p < 0x2000 ∧ p % 0x100 = 0x08 then some (muteWord s ((p - 0x1000) / 0x100))
  else if 0x5000 ≤ p ∧ p < 0x7000 ∧ p % 0x200 = 0x14 then some (laneStat s ((p - 0x5000) / 0x200))
  else if 0x5000 ≤ p ∧ p < 0x7000 ∧ p % 0x200 = 0x24 then some (lanePchk s ((p - 0x5000) / 0x200))
  else none

/-! ### Reads with side effects and latched companions -/

/-- A register whose read latches the n registers after it (R135, R243, R349, R370, R439, R492, R529): n, 0 for every other one. -/
def companions (p : Nat) : Nat :=
  if p = R.SCN_NOW_L ∨ p = R.SNS_CALR0 ∨ p = R.FAB_ELOG0 ∨ p = R.MEM_ELOG0 then 1
  else if p = R.BKG_LOG0 ∨ p = R.MGR_CQRES0 then 2
  else if 0xB000 ≤ p ∧ p < 0xB800 ∧ p % 0x40 = 0 then 15
  else if 0x7000 ≤ p ∧ p < 0x7800 ∧ p % 0x80 = 0x60 then 1
  else if 0x7000 ≤ p ∧ p < 0x7800 ∧ p % 0x80 = 0x68 then 5
  else if 0x8000 ≤ p ∧ p < 0x8800 ∧ p % 0x80 = 0x20 then 2
  else if 0x8000 ≤ p ∧ p < 0x8800 ∧ p % 0x80 = 0x2C then 1
  else if 0x8000 ≤ p ∧ p < 0x8800 ∧ p % 0x80 = 0x44 then 3
  else 0

/-- The register whose read latches the register at p, if there is one. -/
def latchedBy (p : Nat) : Option Nat :=
  ((List.range 15).map fun j => p - 4 * (j + 1)).find? fun f => p ≤ f + 4 * companions f && decide (f < p) && decide (0 < companions f)

/-- The current words of the registers that a read of p latches. -/
def companionWords (s : State) (p : Nat) : List Word :=
  if p = R.SCN_NOW_L then [BitVec.ofNat 32 (s.time.block / 2 ^ 32)]
  else (List.range (companions p)).map fun j => s.rd (p + 4 + 4 * j)

/-- Latches words as the companions of p on a reader's side. -/
def latchWords (s : State) (side p : Nat) (ws : List Word) : State :=
  if p = R.SCN_NOW_L then { s with scn := { s.scn with nowHigh := ws.headD 0 } }
  else if p = R.SNS_CALR0 then s.snsUp fun x => { x with calLatch := ws.headD 0 }
  else
    (List.range ws.length).foldl (fun (t : State) j =>
      { t with vent := { t.vent with
          latch := kvPut latchDefault t.vent.latch (side * 0x100000 + p + 4 + 4 * j) (ws.getD j 0) } }) s

/-- The window or alias at p with what a whole read of it does; none where p is none. -/
def windowRead (s : State) (host : Bool) (p : Nat) : Option State :=
  if p = R.AIN_CSDATA then some (csRead s)
  else if 0x8A0 ≤ p ∧ p < 0x8C0 then some (mixRead s)
  else if 0x8C0 ≤ p ∧ p < 0x900 then some (s.answer (s.bank (routeKey (!s.mb.liveTab) ((p - 0x8C0) / 4))))
  else if 0x240 ≤ p ∧ p < 0x260 then some (qspiBufRead s)
  else if 0x1000 ≤ p ∧ p < 0x2000 ∧ 0x20 ≤ p % 0x100 ∧ p % 0x100 < 0x40 then some (bankRead s ((p - 0x1000) / 0x100))
  else if 0x5000 ≤ p ∧ p < 0x7000 ∧ 0x100 ≤ p % 0x200 ∧ p % 0x200 < 0x120 then some (lanePdataRead s ((p - 0x5000) / 0x200))
  else if 0x5000 ≤ p ∧ p < 0x7000 ∧ 0x140 ≤ p % 0x200 ∧ p % 0x200 < 0x160 then some (laneLdataRead s ((p - 0x5000) / 0x200))
  else if 0x7000 ≤ p ∧ p < 0x7800 ∧ 0x20 ≤ p % 0x80 ∧ p % 0x80 < 0x40 then some (spkPdataRead s ((p - 0x7000) / 0x80))
  else if 0x7000 ≤ p ∧ p < 0x7800 ∧ 0x40 ≤ p % 0x80 ∧ p % 0x80 < 0x60 then some (spkLdataRead s ((p - 0x7000) / 0x80))
  else if 0x8000 ≤ p ∧ p < 0x8800 ∧ 0x60 ≤ p % 0x80 then some (sweepDataRead s ((p - 0x8000) / 0x80))
  else if 0xA220 ≤ p ∧ p < 0xA240 then some (traceRead s)
  else if 0x9000 ≤ p ∧ p < 0xA000 ∧ p % 0x80 = 0x40 then some (ringFetch s host ((p - 0x9000) / 0x80))
  else if 0x9000 ≤ p ∧ p < 0xA000 ∧ p % 0x80 = 0x4C then some (ringConsume s host ((p - 0x9000) / 0x80))
  else if 0x9000 ≤ p ∧ p < 0xA000 ∧ (p % 0x80 = 0x44 ∨ p % 0x80 = 0x48) then
    some (s.answer (ringLatched s host ((p - 0x9000) / 0x80) ((p % 0x80 - 0x40) / 4)))
  else none

/-- The pointer can be read: by the path, and in RETIRED in the SYS block only (R12, R559). -/
def readable (s : State) (path : Path) (p : Nat) : Bool :=
  !s.sys.inReset && inSpace path p && !(decide (bstate s = bsRetired) && decide (0x100 ≤ p)) && !islandDown s p

/-- The side of the latches that a path uses (R370, R488). -/
def sideOf (path : Path) : Nat := if hostSide path then 0 else 1

/-- The word a read captures at its fetch (R455), with no side effect. -/
def regPeek (s : State) (path : Path) (p : Nat) : Word :=
  if !readable s path p then 0
  else
    match windowRead s (hostSide path) p with
    | some t => t.rdata
    | none =>
      if p = R.SCN_NOW_L then BitVec.ofNat 32 s.time.block
      else if p = R.SCN_NOW_H then s.scn.nowHigh
      else if p = R.SNS_CALR1 then s.sense.calLatch
      else if (latchedBy p).isSome then latchedWord s (sideOf path) p
      else (liveWord s p).getD (s.rd (canon s p))

/-- What a read has captured beside the word itself. -/
def regCapture (s : State) (path : Path) (p : Nat) : List Word := if readable s path p then companionWords s p else []

/-- The side effect of a whole read of a register, with the companions its fetch captured (R456). -/
def readEffect (s : State) (path : Path) (p : Nat) (cap : List Word) : State :=
  if !readable s path p then s
  else
    match windowRead s (hostSide path) p with
    | some t => t.answer s.rdata
    | none => if companions p = 0 then s else latchWords s (sideOf path) p cap

/-- A whole read of a register in one step. -/
def regRead (s : State) (path : Path) (p : Nat) : State :=
  readEffect (s.answer (regPeek s path p)) path p (regCapture s path p)

end Sys2Proof.Machine
end

