-- ==== Sys2Proof/Machine/StringsRun.lean ====
section
/-! DEFINITION. StringsRun.lean: the commands of the Strings ring and its frames (12). -/

set_option Elab.async false

namespace Sys2Proof.Machine

/-! ### Commands at the node (R432 to R434) -/

/-- The result codes of ACK. -/
def ackApplied : Nat := 0x00
def ackIllegal : Nat := 0x30
def ackLate : Nat := 0x20

/-- A node applies a command: its result is reported from the next frame on. -/
def acknowledge (s : State) (cseq code : Nat) : State := s.strUp fun x => { x with ackSeq := cseq, ack := code }

/-- The register groups of REGW: pointer and data. -/
def regwGroups (p : List Byte) (n : Nat) : List (Nat × Word) :=
  (List.range n).map fun i => (beAt p (1 + 6 * i) 2, BitVec.ofNat 32 (beAt p (3 + 6 * i) 4))

/-- REGW: up to four register writes, in order. A group with a pointer of 0xB000 or above, a pointer that is not a multiple of 4, or an N
outside 1 to 4 makes the command illegal and none is performed (DEDUCED, log entry 54). -/
def applyRegw (s : State) (cseq : Nat) (p : List Byte) : State :=
  let n := beAt p 0 1
  let gs := regwGroups p n
  if n = 0 ∨ 4 < n ∨ gs.any (fun g => decide (0xB000 ≤ g.1) || g.1 % 4 != 0) then acknowledge s cseq ackIllegal
  else acknowledge (regWrites s .ringEngine gs) cseq ackApplied

/-- RINGW: one entry into a CMD ring; one that finds the ring full waits, so that nothing is reported (R42, R478). -/
def applyRingw (s : State) (cseq : Nat) (p : List Byte) : State :=
  let r := beAt p 0 1
  if 16 ≤ r then acknowledge s cseq ackIllegal
  else
    let t := cmdPush s r ((List.range 4).map fun i => BitVec.ofNat 32 (beAt p (1 + 4 * i) 4))
    if t.2 then acknowledge t.1 cseq ackApplied
    else if ringFull s r && s.on (F.RNG_CFG_EN r) then s.raise (G.RNG_PUSH_REFUSED r)
    else acknowledge (s.raise (G.RNG_PUSH_REFUSED r)) cseq ackApplied

/-- COMMIT: the scene registers, then SCN_ARM.GO; the result says whether arming was refused and whether AT had passed (R434). -/
def applyCommit (s : State) (cseq : Nat) (p : List Byte) : State :=
  let at_ := beAt p 0 6
  let w (n : Nat) : Word := BitVec.ofNat 32 n
  let cfg := w (beAt p 6 2 * 65536 + beAt p 10 2)
  let s1 := regWrites s .ringEngine
    [(R.SCN_CFG, cfg), (R.SCN_MASK, w (beAt p 8 2)), (R.SCN_AT_H, w (at_ / 2 ^ 32)), (R.SCN_AT_L, w (at_ % 2 ^ 32))]
  let late := decide (at_ ≤ s.time.block)
  let s2 := regWrite s1 .ringEngine R.SCN_ARM 1
  if s2.get F.SCN_STAT_REASON ≠ 0 ∨ s2.get F.SCN_STAT_STATE = 0 then
    acknowledge s2 cseq (0x10 + s2.get F.SCN_STAT_REASON % 16)
  else acknowledge s2 cseq (if late then ackLate else ackApplied)

/-- ABORT: SCN_ARM.ABORT. -/
def applyAbort (s : State) (cseq : Nat) : State := acknowledge (regWrite s .ringEngine R.SCN_ARM 2) cseq ackApplied

/-- UNFOLD: folding nodes return to straight forwarding at AT (R430). -/
def applyUnfold (s : State) (cseq : Nat) (p : List Byte) : State :=
  acknowledge (s.strUp fun x => { x with unfoldAt := some (beAt p 0 6) }) cseq ackApplied

/-- ASSIGN: the node's PAIR, where its address is one of the sixteen (R427); a node keeps every number for a takeover (R431). -/
def applyAssign (s : State) (cseq : Nat) (p : List Byte) : State :=
  let base := beAt p 0 1
  let a := strAddr s
  let s1 := if a ≠ noAddr ∧ base ≤ a ∧ a < base + 16 then s.set F.STR_STAT_PAIR (beAt p (1 + (a - base)) 1) else s
  let keep (l : List Nat) : List Nat := (List.range 16).foldl (fun l i => l.set (base + i) (beAt p (1 + i) 1)) l
  acknowledge (s1.strUp fun x => { x with pairs := keep x.pairs }) cseq ackApplied

/-- A command by its CTYPE. -/
def applyCommand (s : State) (ctype cseq : Nat) (p : List Byte) : State :=
  if ctype = 1 then applyRegw s cseq p
  else if ctype = 2 then applyRingw s cseq p
  else if ctype = 3 then applyCommit s cseq p
  else if ctype = 4 then applyAbort s cseq
  else if ctype = 5 then applyUnfold s cseq p
  else if ctype = 6 then applyAssign s cseq p
  else acknowledge s cseq ackIllegal

/-- A new CSEQ is applied once; a repeated one is only reported again (R433). -/
def onceOnly (s : State) (cseq : Nat) (f : State → State) : State := if s.str.ackSeq = cseq then s else f s

/-- DEST selects a node at an address with a pair number (R420). -/
def selects (dest addr pair : Nat) : Bool :=
  decide (dest = 0xFF) || (decide (dest < 0x20) && dest == addr) || (decide (0x20 ≤ dest) && decide (dest < 0x30) && dest - 0x20 == pair)

/-- A command that reaches this node (R433). -/
def deliver (s : State) (c : StrCmd) : State :=
  if selects c.dest (strAddr s) (s.get F.STR_STAT_PAIR) then onceOnly s c.cseq fun t => applyCommand t c.ctype c.cseq c.payload else s

/-- The command in a command slot: none for CTYPE 0 or a CCRC that fails. -/
def slotCommand (bs : List Byte) : Option StrCmd :=
  if beAt bs 1 1 = 0 ∨ bs.length ≠ 32 ∨ beAt bs 30 2 ≠ crc16 (bs.take 30) then none
  else some { dest := beAt bs 0 1, ctype := beAt bs 1 1, cseq := beAt bs 2 2, payload := (bs.drop 4).take 26 }

/-! ### A frame at a node (R413, R414, R421 to R425) -/

/-- Byte 0 of slot n of a frame. -/
def slotByte0 (f : RingFrame) (n : Nat) : Nat := beAt (f.slots.getD n []) 0 1

/-- The slot this node writes: its own, or in an ENUM frame the lowest free one when it has no address and the ring is straight. -/
def writeSlot (s : State) (f : RingFrame) : State :=
  let a := strAddr s
  if a < 32 then s.strUp fun x => { x with lastSlot := if f.enum then enumSlot s a else runSlot s a }
  else if !f.enum || f.fold then s
  else
    match (List.range 32).find? fun n => slotByte0 f n == 0xFF with
    | none => s.raise G.STR_ENUM_OVER
    | some n => (s.set F.STR_STAT_ADDR n).strUp fun x => { x with lastSlot := enumSlot s n }

/-- What a valid frame says to every node: NODES, FOLDED, the command slot and, in an ENUM frame, the addresses held after this node. -/
def frameSeen (s : State) (f : RingFrame) : State :=
  let s1 := ((s.set F.STR_STAT_NODES f.nodes.toNat).setB F.STR_STAT_FOLDED f.fold).cond G.STR_RING_LOST false
  let cmd := slotCommand f.cmd
  let held := (List.range 32).map fun n => slotByte0 f n != 0xFF || strAddr s == n
  s1.strUp fun x => { x with
    quiet := 0
    seen := cmd
    nextSeq := match cmd with | some c => if x.master then x.nextSeq else (c.cseq + 1) % 65536 | none => x.nextSeq
    seenHeld := if f.enum then held else x.seenHeld }

/-- The unit's own ORIGIN. -/
def ownOrigin (s : State) : Word := s.rd R.SYS_DEVNUM_L

/-- A frame of another originator reaches an originating master (R414). -/
def originConflict (s : State) (f : RingFrame) : State :=
  if s.str.master && f.origin != ownOrigin s then
    (s.strUp fun x => { x with stopDue := x.stopDue || decide (f.origin.toNat < (ownOrigin s).toNat) }).raise G.STR_MGR_CONFLICT
  else s

/-- The frame leaves the node again (R416, R421, R422, R428): with this node's slot where it wrote one, and from a node that turns it with
FOLD set and a new HCRC; a header that was damaged stays so. -/
def forwardFrame (s : State) (f : RingFrame) (wrote : Bool) : State :=
  let turned := s.str.foldUp || s.str.foldDown
  let f1 := if wrote then { f with slots := f.slots.set (beAt s.str.lastSlot 0 1) s.str.lastSlot } else f
  let f2 := if turned && hcrcOk f then withHcrc { f1 with fold := true } else f1
  s.strUp fun x => { x with sent := ringBytes f2 }

/-- A frame passes a node (R413, R416, R421 to R423): BLK and CLUSTER of a sound header are compared as it passes, and what else it says counts
where its end is sound too. -/
def frameRx (s : State) (f : RingFrame) : State :=
  if !s.str.forwarding then s
  else
    let s0 := foldAtSof s
    if !hcrcOk f then (forwardFrame s0 f false).raise G.STR_FRAME_BAD
    else
      let mine := takesPart s0 && f.cluster.toNat == s0.get F.STR_CFG_CLUSTER
      let s1 := if mine then writeSlot s0 f else s0
      let s2 := forwardFrame s1 f (mine && decide (strAddr s1 < 32))
      let s3 := (s2.raiseIf (f.blk.toNat != s.time.block) G.STR_BLK_SKEW).cond G.STR_CLUSTER_MISMATCH
        (f.cluster.toNat != s2.get F.STR_CFG_CLUSTER)
      if !f.endOk then s3.raise G.STR_FRAME_BAD
      else
        let s4 := originConflict (frameSeen s3 f) f
        match slotCommand f.cmd with
        | some c => if mine then deliver s4 c else s4
        | none => s4

/-! ### The ring master (R418, R424, R427, R430, R435, R437) -/

/-- The master may originate a frame in this block. -/
def originates (s : State) : Bool := s.str.master && owner s && s.str.forwarding && takesPart s && !s.str.frameOut

/-- The master has an address like every node; one without takes the lowest free one with its ENUM frame. -/
def masterAddress (s : State) (enum : Bool) : State :=
  if strAddr s < 32 || !enum then s
  else
    match (List.range 32).find? fun n => (s.str.held.getD n none).isNone with
    | some n => (s.set F.STR_STAT_ADDR n).strUp fun x => { x with held := x.held.set n (some 0) }
    | none => s.raise G.STR_ENUM_OVER

/-- The AT of a COMMIT. -/
def commitAt (c : StrCmd) : Nat := beAt c.payload 0 6

/-- The command the master takes up next: one of its own, whose UNFOLD gets its AT now, 16 blocks ahead (R430), or the head of the queue. -/
def nextCommand (s : State) : Option (StrCmd × Bool) :=
  match s.str.own with
  | c :: _ => some (if c.ctype = 5 then { c with payload := bytesAt (beBytes 6 (s.time.block + 16)) 0 26 } else c, true)
  | [] => s.str.queue.head?.map fun c => (c, false)

/-- The head of the master's commands is taken up: a COMMIT of the queue too late for its first frame is not sent (R437), while one that a
takeover sends again is past its first frame (R431); the targets are the selected nodes whose slot was valid in the frame before (R435). -/
def takeCommand (s : State) : State :=
  match s.str.cur with
  | some _ => s
  | none =>
    match nextCommand s with
    | none => s
    | some (c, own) =>
      let s1 := s.strUp fun x => if own then { x with own := x.own.tail } else { x with queue := x.queue.tail }
      if !own && decide (c.ctype = 3) && decide (commitAt c < s.time.block + 8) then (cqResult s1 c [] 2).raise G.MGR_CMD_LATE
      else
        let ts := (List.range 32).filter fun n => s1.str.validLast.getD n false && selects c.dest n (s1.str.pairs.getD n 0xFF)
        s1.strUp fun x => { x with cur := some c, curOwn := own, targets := ts, acked := [], carried := 0 }

/-- The master's own slot of a frame. -/
def ownSlot (s : State) (enum : Bool) : List Byte :=
  if enum then enumSlot s (strAddr s) else runSlot s (strAddr s)

/-- The frame the master sends (R418 to R421, R424): slots of 0xFF and zeros, in an ENUM frame with the address in byte 0 of a held one, and its
own slot written. -/
def masterFrame (s : State) (enum : Bool) : RingFrame :=
  let empty (n : Nat) : List Byte := beBytes 1 (if enum && (s.str.held.getD n none).isSome then n else 0xFF) ++ beBytes 63 0
  withHcrc {
    enum := enum
    fold := false
    blk := BitVec.ofNat 48 s.time.block
    origin := ownOrigin s
    cluster := BitVec.ofNat 8 (s.get F.STR_CFG_CLUSTER)
    nodes := BitVec.ofNat 8 (heldCount s)
    hcrc := 0
    endOk := true
    cmd := commandSlot s.str.cur
    slots := (List.range 32).map fun n => if strAddr s = n then ownSlot s enum else empty n }

/-- The master starts its frame of the block (R418, R424, R435); it is a node too, and applies a command addressed to it in the same
way. -/
def frameStart (s : State) : State :=
  if !originates s then s
  else
    let s0 := foldAtSof s
    let enum := s0.str.enumNext || decide (s0.time.block % 12000 = 0)
    let s1 := takeCommand (masterAddress s0 enum)
    let s2 := s1.strUp fun x => { x with
      frameOut := true, frameEnum := enum, enumNext := false, copies := 0
      downGave := List.replicate 32 false, validNow := List.replicate 32 false
      enumSlots := if enum then List.replicate 32 [] else x.enumSlots
      carried := if x.cur.isSome then x.carried + 1 else x.carried
      lastSlot := if strAddr s1 < 32 then ownSlot s1 enum else x.lastSlot
      sent := ringBytes (masterFrame s1 enum), both := s1.on F.STR_STAT_FOLDED }
    match s2.str.cur with
    | some c => deliver s2 c
    | none => s2

/-- The slots of a returned copy that count: valid ones, those of the DOWN receiver before those of the UP receiver (R422, R429). -/
def goodSlots (x : Str) (f : RingFrame) (up : Bool) : List Nat :=
  (List.range 32).filter fun n => slotValid n (f.slots.getD n []) && !(up && x.downGave.getD n false)

/-- A valid slot of node n is taken: address timer, ENUM slot or MGR_NODE words, acknowledgement. -/
def takeSlot (f : RingFrame) (up : Bool) (s : State) (n : Nat) : State :=
  let bs := f.slots.getD n []
  let s1 := s.strUp fun x => { x with
    held := if f.enum || (x.held.getD n none).isSome then x.held.set n (some 0) else x.held
    downGave := if up then x.downGave else x.downGave.set n true
    validNow := x.validNow.set n true
    enumSlots := if f.enum then x.enumSlots.set n bs else x.enumSlots
    acked := match x.cur with
      | some c => if !f.enum && beAt bs 4 2 == c.cseq && x.targets.contains n && !x.acked.contains n then x.acked ++ [n] else x.acked
      | none => x.acked }
  if f.enum then s1
  else (List.range 16).foldl (fun t j => t.wr (R.MGR_NODE (16 * n + j)) (BitVec.ofNat 32 (beAt bs (4 * j) 4))) s1

/-- Own and partner's device number in the ENUM slot of node n. -/
def enumIds (x : Str) (n : Nat) : Nat × Nat := let b := x.enumSlots.getD n []; (beAt b 2 8, beAt b 10 8)

/-- Nodes n and m name each other as partners. -/
def partners (x : Str) (n m : Nat) : Bool :=
  let a := enumIds x n
  let b := enumIds x m
  n != m && a.2 == b.1 && b.2 == a.1 && a.1 != 0 && b.1 != 0

/-- The pair numbers of R427 for the nodes present, in order of their lowest address: the master's pair is 0. -/
def numberPairs (x : Str) (self : Nat) : List Nat :=
  let present := (List.range 32).filter fun n => !(x.enumSlots.getD n []).isEmpty
  let inMaster (n : Nat) : Bool := n == self || partners x n self
  (present.foldl (fun (acc : List Nat × Nat) n =>
    if inMaster n then (acc.1.set n 0, acc.2)
    else
      match present.find? fun m => decide (m < n) && partners x n m && !inMaster m with
      | some m => (acc.1.set n (acc.1.getD m 0xFF), acc.2)
      | none => if acc.2 < 16 then (acc.1.set n acc.2, acc.2 + 1) else (acc.1.set n 0xFF, acc.2)) (List.replicate 32 0xFF, 1)).1

/-- A command of the master's own: its CSEQ is the next one. -/
def ownCommand (s : State) (ctype : Nat) (payload : List Byte) : State :=
  s.strUp fun x => { x with
    own := x.own ++ [{ dest := 0xFF, ctype := ctype, cseq := x.nextSeq, payload := bytesAt payload 0 26 }], nextSeq := (x.nextSeq + 1) % 65536 }

/-- The two ASSIGN commands of a numbering. -/
def sendAssigns (s : State) : State :=
  [0, 16].foldl (fun t b => ownCommand t 6 (beBytes 1 b ++ (List.range 16).flatMap fun i => beBytes 1 (t.str.pairs.getD (b + i) 0xFF))) s

/-- An enumeration is complete: pairs are numbered and sent; a frame with no free slot counts ENUM_OVER (R425, R427). -/
def enumerated (s : State) (f : RingFrame) : State :=
  let s1 := s.raiseIf ((List.range 32).all fun n => slotByte0 f n != 0xFF) G.STR_ENUM_OVER
  sendAssigns (s1.strUp fun x => { x with pairs := numberPairs x (strAddr s1) })

/-- The ring is folded and every node reports both ports good: UNFOLD goes out, 16 blocks ahead (R430). -/
def unfoldRing (s : State) (f : RingFrame) : State :=
  let nstat (n : Nat) : Nat := (s.rd (R.MGR_NODE (16 * n))).toNat / 65536
  let good := (List.range 32).all fun n => !s.str.validNow.getD n false || nstat n % 4 == 3
  let sent := (s.str.own ++ s.str.queue ++ s.str.cur.toList).any fun c => c.ctype == 5
  if f.fold && !f.enum && good && !sent && s.str.unfoldAt.isNone then ownCommand s 5 [] else s

/-- The carried command completes when every target has acknowledged it (R435). -/
def judgeCommand (s : State) : State :=
  match s.str.cur with
  | none => s
  | some c => if (unacked s.str).isEmpty then (cqResult s c [] 0).strUp fun x => { x with cur := none } else s

/-- The frame returns to the master (R422, R425, R429, R435): on a straight ring one copy, on the UP receiver; on a folded ring one on each
receiver, and what takes all slots waits for both. -/
def frameReturn (s : State) (f : RingFrame) (up : Bool) : State :=
  if !s.str.frameOut then s
  else if f.origin ≠ ownOrigin s then originConflict s f
  else if !hcrcOk f || !f.endOk then s.raise G.STR_FRAME_BAD
  else
    let s1 := ((s.setB F.STR_STAT_FOLDED f.fold).set F.STR_STAT_NODES f.nodes.toNat).cond G.STR_RING_LOST false
    let s2 := s1.strUp fun x => { x with quiet := 0, copies := x.copies + 1 }
    let s3 := (goodSlots s2.str f up).foldl (takeSlot f up) s2
    let mask := (List.range 32).foldl (fun a n => if s3.str.validNow.getD n false then a + 2 ^ n else a) 0
    let s4 := if f.enum then s3 else s3.set F.MGR_NVALID_VALID mask
    let s5 := judgeCommand (s4.strUp fun x => { x with validLast := x.validNow })
    if f.fold && s5.str.copies < 2 then s5
    else
      let s6 := failCarried s5
      if f.enum then enumerated s6 f else unfoldRing s6 f

end Sys2Proof.Machine
end

