-- ==== Sys2Proof/Machine/Fabric.lean ====
section
/-! DEFINITION. Fabric.lean: the fabric's targets, grants, responses, timeouts and master resets (14). -/

set_option Elab.async false

namespace Sys2Proof.Machine

/-- The state after an update of the fabric. -/
def State.fabUp (s : State) (f : Fab → Fab) : State := { s with fab := f s.fab }

/-- The target that an address lies in (R491). -/
def targetOf (a : Nat) : Nat :=
  if a < 0x80000 then 1
  else if a < 0x100000 then 2
  else if a < 0x180000 then 3
  else if a < 0x1C0000 then 4
  else if a < 0x200000 then 5
  else if 0x10000000 ≤ a ∧ a < 0x17000000 then 6 + (a - 0x10000000) / 0x1000000
  else if 0x20000000 ≤ a ∧ a < 0x20010000 then 13
  else if 0x30000000 ≤ a ∧ a < 0x32000000 then 14
  else 0

/-- A master reaches a target (R490); the ring command engine reaches the register space below 0xB000. -/
def reaches (s : State) (m t a : Nat) : Bool :=
  if m = 0 then true
  else if m = 1 then t == 13
  else if m = 2 then (t == 13 && decide (a < 0x2000B000)) || t == 3
  else if m = 3 then (decide (1 ≤ t) && decide (t ≤ 9)) || t == 14
  else if m = 4 then t == 3 || (decide (6 ≤ t) && decide (t ≤ 9))
  else if m = 5 then t == 4 || (decide (6 ≤ t) && decide (t ≤ 9)) || t == 13
  else if m = 6 then bstate s != bsWipe && (debugOpen s || (decide (a / 16 = 0x2000001) && debugRequest s R.SYS_LCREQ))
  else if m = 7 then t == 2
  else t == 5

/-- The target of a request (R491); a write to the read-only QSPI target decodes to the default target (DEDUCED, log entry 56). -/
def reqTarget (s : State) (r : FabReq) : Nat :=
  let t := targetOf r.addr.toNat
  if !reaches s r.master.val t r.addr.toNat || (t == 14 && r.write) then 0 else t

/-- The port at which a request waits: a register's is that of its island (R491, R633). -/
def reqPort (s : State) (r : FabReq) : Nat :=
  let t := reqTarget s r
  if t = 13 then portOf (r.addr.toNat % 0x10000) else t

/-- The path of a master's register accesses (R636). -/
def masterPath (s : State) (m : Nat) : Path :=
  if m = 0 then .mgmtCore
  else if m = 1 then (if s.hst.committing then s.hst.commitPath else s.hst.path)
  else if m = 2 then .ringEngine
  else if m = 5 then .twinResync
  else .debugPort

/-- Kinds of FAB_ELOG0. -/
def kindDecerr : Nat := 0
def kindTimeout : Nat := 1
def kindUe : Nat := 2
def kindCut : Nat := 3

/-- FAB_ELOG latches a request (R492, R501). -/
def fabLog (s : State) (r : FabReq) (kind : Nat) : State :=
  let s1 := (s.set F.FAB_ELOG0_SEQ (nextSeq1 (s.get F.FAB_ELOG0_SEQ))).set F.FAB_ELOG0_MASTER r.master.val
  let s2 := ((s1.set F.FAB_ELOG0_TARGET (reqTarget s r)).setB F.FAB_ELOG0_WRITE r.write).set F.FAB_ELOG0_KIND kind
  s2.wr R.FAB_ELOG1 r.addr

/-! ### Beats -/

/-- An unlisted word of banks 32 to 47 reads as zero (R510). -/
def quadDefault (_ : Nat) : Quad := 0
/-- The bank and word of a fabric address below 0x200000 (R502). -/
def fabWord (a : Nat) : Nat × Nat := (32 + a / 0x20000, a / 16 % 8192)

/-- Byte i of a beat; byte 0, at the lowest address, is bits 127:120 (DESIGN CHOICE, log entry 55). -/
def beatByte (q : Quad) (i : Nat) : Byte := BitVec.ofNat 8 (q.toNat / 2 ^ (8 * (15 - i)))
/-- Bytes with their strobe set come from the new beat, the others from the old word; strobe i belongs to byte i. -/
def mergeBeat (old new : Quad) (strobes : Word16) : Quad :=
  BitVec.ofNat 128 ((List.range 16).foldl (fun a i =>
    a * 256 + (if bitN strobes.toNat i then beatByte new i else beatByte old i).toNat) 0)

/-- A write beat of the register space (R9, R10): a register with all four strobes set is written, one with fewer is left unchanged. -/
def writeRegs (s : State) (m a : Nat) (q : Quad) (strobes : Word16) : State :=
  let path := masterPath s m
  (List.range 4).foldl (fun st j =>
    if strobes.toNat / 2 ^ (4 * j) % 16 = 15 then
      regWrite st path (a % 0x10000 / 16 * 16 + 4 * j) (q.extractLsb' (32 * (3 - j)) 32)
    else st) s

/-- A write beat at an address, whose coded word met the error pattern `err` in transit. A beat without strobes changes nothing. A whole word
goes into its bank as it came, errors and all; the registers and a partial write check it, and a word they cannot correct writes nothing
(R28, R508; DEDUCED, log entry 66). -/
def writeBeat (s0 : State) (m t a : Nat) (q : Quad) (strobes : Word16) (err : BitVec 145) : State :=
  let full := decide (1 ≤ t) && decide (t ≤ 5) && strobes == 0xFFFF#16
  let x := if full || strobes = 0 || decide (t = 0) then (s0, false) else transitError s0 noBank 0 err
  let s := x.1
  if strobes = 0 || x.2 then s
  else if t = 13 then writeRegs s m a q strobes
  else if 1 ≤ t ∧ t ≤ 5 then
    let (b, w) := fabWord a
    let k := b * 8192 + w
    let p := physWord s b w
    let old := kvGet quadDefault s.mem.words k
    let part := strobes != 0xFFFF#16 && errAt s (errKey b p) != 0
    -- a partial write reads the word first; merged into a lost word it stays lost
    let (s1, kind) := if part then foundError s srcRead b p else (s, Check.good)
    let s2 := s1.memUp fun x => { x with words := kvPut quadDefault x.words k (mergeBeat old q strobes) }
    let s3 := bankWritten s2 b w
    if kind == .ue then setErr s3 (errKey b p) poison
    else if full && err != 0 then setErr s3 (errKey b p) (errAt s3 (errKey b p) ^^^ err)
    else s3
  else s

/-- A read beat at an address: the state after it, its data, and whether it holds an uncorrectable error. A beat of the register space is the
register at its address, on its lane of the beat; the raw contents of an island are free values (log entries 55, 57). `err` is the
error pattern the beat met in transit: the master checks the word again, and counts only where the bank found nothing (R508). -/
def readBeat (s0 : State) (m t a : Nat) (flash : Quad) (err : BitVec 145) : State × Quad × Bool :=
  let x := if decide (1 ≤ t) && decide (t ≤ 5) then (s0, false) else transitError s0 noBank 0 err
  let s := x.1
  let lost := x.2
  if t = 13 then
    let p := a % 0x10000 / 4 * 4
    let s1 := regRead s (masterPath s m) p
    (s1, BitVec.ofNat 128 (s1.rdata.toNat * 2 ^ (32 * (3 - p / 4 % 4))), lost)
  else if 1 ≤ t ∧ t ≤ 5 then
    let (b, w) := fabWord a
    let p := physWord s b w
    let inBank := errAt s (errKey b p)
    let y := if inBank = 0 then transitError s b p err
      else ((foundError s srcRead b p).1, (checkWord (inBank ^^^ err)).1 == .ue)
    (y.1, kvGet quadDefault s.mem.words (b * 8192 + w), y.2)
  else if t = 14 then (s, flash, lost)
  else
    let f (n : Nat) : Nat := (Config.freeWord (s.free + n)).toNat
    ({ s with free := s.free + 4 }, BitVec.ofNat 128 (f 0 * 2 ^ 96 + f 1 * 2 ^ 64 + f 2 * 2 ^ 32 + f 3), lost)

/-- The beats of a request: 1 to 8. -/
def beatCount (r : FabReq) : Nat := min (max (if r.write then r.data.length else r.beats) 1) 8
/-- The address of beat i: registers lie 4 bytes apart in a read, banks 16. -/
def beatAddr (t : Nat) (r : FabReq) (i : Nat) : Nat := r.addr.toNat + (if t = 13 && !r.write then 4 * i else 16 * i)

/-- Beats from `first` to `last` - 1 of a write are applied. -/
def writeBeats (s : State) (t : Nat) (r : FabReq) (first last : Nat) : State :=
  (List.range (last - first)).foldl (fun st i =>
    writeBeat st r.master.val t (beatAddr t r (first + i)) (r.data.getD (first + i) 0) (r.strobes.getD (first + i) 0xFFFF#16)
      (r.errs.getD (first + i) 0)) s

/-- All beats of a read. -/
def readBeats (s : State) (t : Nat) (r : FabReq) (flash : List Quad) (errs : List (BitVec 145)) : State × List Quad × Bool :=
  (List.range (beatCount r)).foldl (fun (acc : State × List Quad × Bool) i =>
    let x := readBeat acc.1 r.master.val t (beatAddr t r i) (flash.getD i 0) (errs.getD i 0)
    (x.1, acc.2.1 ++ [x.2.1], acc.2.2 || x.2.2)) (s, [], false)

/-! ### Grant, response and timeout (R492 to R497) -/

/-- A response ends the transaction of a master. -/
def respond (s : State) (m : Nat) (err : Bool) (data : List Quad) : State :=
  s.fabUp fun f => { f with out := f.out.set m none, resp := f.resp.set m (err, data) }

/-- An error response: read beats return zero. -/
def errorResponse (s : State) (r : FabReq) : State :=
  respond s r.master.val true (if r.write then [] else List.replicate (beatCount r) 0)

/-- The class of a request (R494): Wind-up that has waited 256 cycles counts as class 1. -/
def classOf (r : FabReq) : Nat :=
  let m := r.master.val
  if m = 8 ∨ m = 7 ∨ m = 5 ∨ m = 4 then 0
  else if m = 3 then (if r.waited < 256 then 2 else 1)
  else 1

/-- The fixed order of class 0. -/
def class0Order (m : Nat) : Nat := if m = 8 then 0 else if m = 7 then 1 else if m = 5 then 2 else 3
/-- The place of a class-1 master after the one granted last, in round-robin. -/
def roundRobin (last m : Nat) : Nat := (m + 9 - (last + 1)) % 9

/-- The smallest rank wins: class, then the order within the class. -/
def rank (last : Nat) (r : FabReq) : Nat :=
  let c := classOf r
  c * 16 + if c = 0 then class0Order r.master.val else if c = 1 then roundRobin last r.master.val else 0

/-- The request granted among those that wait. -/
def winner (last : Nat) : List FabReq → Option FabReq
  | [] => none
  | r :: rs =>
    match winner last rs with
    | none => some r
    | some b => if rank last r ≤ rank last b then some r else some b

/-- A request can be granted at a port: it waits there, and its master has no transaction outstanding (R493). -/
def requestStands (s : State) (port : Nat) (r : FabReq) : Bool :=
  reqPort s r == port && (s.fab.out.getD r.master.val none).isNone

/-- A write of the host's commit that is granted leaves the commit (R450, R451). -/
def popCommit (s : State) (path : Path) (p : Nat) (v : Word) : State :=
  match s.hst.commit with
  | [] => s
  | e :: rest =>
    if s.hst.committing && s.hst.commitPath == path && e.1 == p && e.2 == v then { s with hst := { s.hst with commit := rest } } else s

/-- The host's commit loses the access that its granted request writes. -/
def popGranted (s : State) (r : FabReq) : State :=
  if r.master.val = 1 ∧ r.write then
    let p := r.addr.toNat % 0x10000 / 4 * 4
    popCommit s (masterPath s 1) p ((r.data.headD 0).extractLsb' (32 * (3 - p / 4 % 4)) 32)
  else s

/-- The grant itself: the default target answers with an error, a DOWN port too; elsewhere a write's first beat is applied. -/
def grantTo (s : State) (port : Nat) (r : FabReq) : State :=
  let t := reqTarget s r
  let m := r.master.val
  let s0 := s.fabUp fun f => { f with
    rr := if classOf r = 1 then f.rr.set port m else f.rr
    park := f.park.set port (if s.on F.FAB_CFG_PARK_DEF then some 0 else some m) }
  if t = 0 then errorResponse (fabLog (s0.raise G.FAB_DECERR) r kindDecerr) r
  else
    let s1 := s0.fabUp fun f => { f with out := f.out.set m (some { port := port, req := r, done := 1 }) }
    if r.write then writeBeats (popGranted s1 r) t r 0 1 else s1

/-- A burst at the port has not completed: the port is released only then (R48, R498). -/
def portBusy (s : State) (port : Nat) : Bool := s.fab.out.any fun o => match o with | some x => x.port == port | none => false

/-- FABRIC_GRANT: one port that no burst holds grants one of the requests that wait (R494); a DOWN port answers every one with an error at
once (R495). -/
def fabricGrant (s : State) (port : Nat) (reqs : List FabReq) : State :=
  let rs := reqs.filter (requestStands s port)
  if bitN (s.get F.FAB_PORT_DOWN) port then rs.foldl errorResponse s
  else if portBusy s port then s
  else
    match winner (s.fab.rr.getD port 6) rs with
    | none => s
    | some r => grantTo s port r

/-- A QSPI read meets a flash operation (R528, R545). -/
def flashBusy (s : State) : Bool := s.bkg.qspi.isSome || !s.bkg.ops.isEmpty

/-- FABRIC_RESPONSE: the target completes a master's transaction; `data` is what the flash gives for a QSPI read, `errs`
the error patterns that the beats of a read met in transit. -/
def fabricResponse (s : State) (m : Nat) (data : List Quad) (errs : List (BitVec 145)) : State :=
  match s.fab.out.getD m none with
  | none => s
  | some x =>
    let t := reqTarget s x.req
    if x.req.write then respond (writeBeats s t x.req x.done (beatCount x.req)) m false []
    else if t = 14 && flashBusy s then errorResponse (s.raise G.BKG_FL_BUSY) x.req
    else
      let (s1, qs, ue) := readBeats s t x.req data errs
      if ue then errorResponse (fabLog (s1.raise G.FAB_UE_RESP) x.req kindUe) x.req else respond s1 m false qs

/-- A port goes DOWN: counted once per DOWN period (R495, R501). -/
def portDown (s : State) (port : Nat) : State :=
  if bitN (s.get F.FAB_PORT_DOWN) port then s
  else (s.set F.FAB_PORT_DOWN (s.get F.FAB_PORT_DOWN + 2 ^ port)).raise G.FAB_PORT_DOWN

/-- FABRIC_TIMEOUT: no response within 120 cycles of the grant (R495). -/
def fabricTimeout (s : State) (port : Nat) : State :=
  match s.fab.out.findSome? fun o => match o with | some x => if x.port = port then some x else none | none => none with
  | none => s
  | some x => portDown (errorResponse (fabLog (s.raise G.FAB_TIMEOUT) x.req kindTimeout) x.req) port

/-- PORT_PROBE: the ports whose empty handshake completes are up again (R495). -/
def portProbe (s : State) (answered : List Nat) : State :=
  answered.foldl (fun t p => if bitN (t.get F.FAB_PORT_DOWN) p then t.set F.FAB_PORT_DOWN (t.get F.FAB_PORT_DOWN - 2 ^ p) else t) s

/-- A master that can be reset alone (R498). -/
def resettable (m : Nat) : Bool := m == 0 || m == 1 || m == 2 || m == 5 || m == 6

/-- A master is reset during its burst, of which `beats` beats have passed: what is written stands, the rest of a write carries no strobes, the
rest of a read is discarded (R498). -/
def masterReset (s : State) (m beats : Nat) : State :=
  if !resettable m then s
  else
    match s.fab.out.getD m none with
    | none => s
    | some x =>
      let s1 := if x.req.write then writeBeats s (reqTarget s x.req) x.req x.done (min beats (beatCount x.req)) else s
      (fabLog (s1.raise G.FAB_BURST_CUT) x.req kindCut).fabUp fun f => { f with out := f.out.set m none }

/-- The watchdog resets the management core alone (R498, R638): its burst is cut after the first beat, and its firmware starts again. -/
def mgmtReset (s : State) : State := (masterReset s 0 1).sysUp fun x => { x with mgmtStopped := false }

/-- A write that a request makes names a production test register (R635). -/
def reqTests (s : State) (r : FabReq) : Bool :=
  r.write && decide (r.master.val = 6) && decide (reqTarget s r = 13) && decide (0xF000 ≤ r.addr.toNat % 0x10000 + 16 * (beatCount r - 1))
    && decide (lcState s = lcBlank) && !s.sys.inReset

end Sys2Proof.Machine
end

