-- ==== Sys2Proof/Machine/Host.lean ====
section
/-! DEFINITION. Host.lean: the two-wire host bus (13): transactions, commits, in-band requests and timeouts. -/

set_option Elab.async false

namespace Sys2Proof.Machine

/-- The state after an update of the host bus. -/
def State.hstUp (s : State) (f : Hst → Hst) : State := { s with hst := f s.hst }

/-- The phases of a transaction. -/
def hbIdle : Nat := 0
def hbAddress : Nat := 1
def hbPtrHigh : Nat := 2
def hbPtrLow : Nat := 3
def hbData : Nat := 4
def hbRead : Nat := 5
def hbIgnore : Nat := 6
def hbDeaf : Nat := 7

/-- The current pointer (R454). -/
def hstPtr (s : State) : Nat := s.get F.HST_STAT_PTR

/-- SDA and SCL are high: the conditions of both timeouts end (R472). -/
def linesHigh (s : State) : State := (s.cond G.HST_SDA_TMO false).cond G.HST_SCL_TMO false

/-- A START condition; one after an abandoned transaction needs no STOP before it (R467; log entry 73). -/
def hostStart (s : State) : State :=
  if s.hst.request || (s.hst.phase != hbIdle && !(s.hst.timedOut && s.hst.phase == hbIgnore)) then s else (linesHigh s).hstUp fun h => { h with phase := hbAddress }

/-! ### The address (R440 to R446, R451, R452) -/

/-- What an address is to the device: primary, manager, group or none. -/
inductive HostAddr where
  | primary | manager | group | other
  deriving DecidableEq, Repr

/-- The address A of R440 to R445. -/
def hostAddr (s : State) (a : Nat) : HostAddr :=
  let n := s.get F.HST_STAT_ADDR
  let mask := s.get F.HST_GRP_GMASK
  if a = 0 ∨ a = 0x7C ∨ (0x78 ≤ a ∧ a ≤ 0x7B) ∨ (0x08 ≤ a ∧ a ≤ 0x0F) then .other
  else if a = 0x48 + n then .primary
  else if a = 0x38 + n then .manager
  else if s.on F.HST_GRP_GEN && (a &&& mask) == (s.get F.HST_GRP_GADDR &&& mask) then .group
  else .other

/-- The device answers with not-acknowledge: the rest is ignored up to the next START, or up to the STOP. -/
def refuseAddr (s : State) (deaf : Bool) : State :=
  s.hstUp fun h => { h with phase := if deaf then hbDeaf else hbIgnore, acked := false }

/-- SCL has been high, and SDA too where a 1 was on it: the conditions of the timeouts end (R472). -/
def clocked (s : State) (ones : Bool) : State :=
  let s1 := s.cond G.HST_SCL_TMO false
  if ones then s1.cond G.HST_SDA_TMO false else s1

/-- The fetch of a register (R455, R457): a DOWN port, or a word that its way has made uncorrectable, gives zero, no side effect and
RD_FAIL. -/
def hostFetch (s : State) (err : BitVec 145) : State :=
  let p := hstPtr s / 4 * 4
  let path := s.hst.path
  let down := islandDown s p
  let met := transitError s noBank 0 (if down then 0 else err)
  let fail := down || met.2
  let s1 := met.1.raiseIf fail G.HST_RD_FAIL
  s1.hstUp fun h => { h with
    fetched := if fail then 0 else regPeek s1 path p, captured := if fail then [] else regCapture s1 path p
    failed := fail, whole := hstPtr s % 4 == 0 }

/-- An accepted address begins a write or a read. -/
def acceptAddr (s : State) (path : Path) (read : Bool) (err : BitVec 145) : State :=
  let s1 := s.hstUp fun h => { h with
    path := path, phase := if read then hbRead else hbPtrHigh, count := 0, acked := true, isOver := false, lanes := [], formed := [] }
  if read then hostFetch s1 err else s1

/-- An address byte: the address in bits 7 to 1, R/W in bit 0. -/
def hostAddress (s0 : State) (byte : Byte) (err : BitVec 145) : State :=
  if s0.hst.phase ≠ hbAddress then s0
  else
    let s := clocked s0 (byte.toNat != 0)
    let read := byte.toNat % 2 = 1
    let kind := hostAddr s (byte.toNat / 2)
    if !ready s then refuseAddr s true
    else
      match kind with
      | .other => refuseAddr s true
      | .manager =>
        if !managerAnswers s then refuseAddr s true
        else if s.hst.committing then refuseAddr (s.raise G.HST_BUSY_NACK) false
        else acceptAddr s .hostManager read err
      | .primary =>
        if s.hst.committing then refuseAddr (s.raise G.HST_BUSY_NACK) false else acceptAddr s .hostPrimary read err
      | .group =>
        -- R443 and R451 both count a group read that meets a commit
        if read then refuseAddr ((s.raise G.HST_GRP_READ).raiseIf s.hst.committing G.HST_BUSY_NACK) false
        else if s.hst.committing then refuseAddr (s.raise G.HST_GRP_MISS) false
        else acceptAddr s .hostGroup false err

/-! ### Bytes (R447 to R449, R453 to R456) -/

/-- A lane of a register with a byte in it. -/
def fillLane (l : List (Nat × Byte)) (lane : Nat) (b : Byte) : List (Nat × Byte) := (lane, b) :: l.filter fun e => e.1 != lane

/-- The word of four filled lanes. -/
def laneWord (l : List (Nat × Byte)) : Word :=
  BitVec.ofNat 32 ((List.range 4).foldl (fun a i => a * 256 + (((l.find? fun e => e.1 == i).map fun e => e.2.toNat).getD 0)) 0)

/-- A data byte at the pointer fills its lane; four filled lanes form an access (R449). -/
def storeByte (h : Hst) (p : Nat) (b : Byte) : Hst :=
  let r := p / 4 * 4
  let old := ((h.lanes.find? fun e => e.1 == r).map Prod.snd).getD []
  let new := fillLane old (p % 4) b
  let rest := h.lanes.filter fun e => e.1 != r
  if new.length = 4 then { h with lanes := rest, formed := h.formed ++ [(r, laneWord new)], count := h.count + 1 }
  else { h with lanes := rest ++ [(r, new)], count := h.count + 1 }

/-- The pointer within its 32-byte page (R448). -/
def pageNext (p : Nat) : Nat := p / 32 * 32 + (p + 1) % 32

/-- A byte of a write is taken at its ninth clock; the 32 first data bytes are acknowledged (R447, R448, R454, R458). -/
def hostByteWrite (s0 : State) (b : Byte) : State :=
  let s := (clocked s0 (b.toNat != 0)).hstUp fun h => { h with acked := false }
  let h := s.hst
  if h.phase = hbPtrHigh then s.hstUp fun h => { h with ptrHigh := b.toNat, phase := hbPtrLow, acked := true }
  else if h.phase = hbPtrLow then
    (s.set F.HST_STAT_PTR (h.ptrHigh * 256 + b.toNat)).hstUp fun h => { h with phase := hbData, acked := true }
  else if h.phase = hbData then
    if h.count < 32 then
      let p := hstPtr s
      (s.hstUp fun h => { storeByte h p b with acked := true }).set F.HST_STAT_PTR (pageNext p)
    else if h.isOver then s
    else (s.hstUp fun h => { h with isOver := true }).raise G.HST_WR_OVER
  else s

/-- The byte that is sent: the lane of the latched register at the pointer. -/
def sentByte (s : State) : Nat := s.hst.fetched.toNat / 2 ^ (8 * (3 - hstPtr s % 4)) % 256

/-- A byte of a read is sent and its ninth clock completes (R453, R455, R456): at a register's last byte its side effect is applied, then the
next register is fetched. -/
def hostByteRead (s1 : State) (ack : Bool) (err : BitVec 145) : State :=
  if s1.hst.phase ≠ hbRead then s1
  else
    let s := clocked s1 (sentByte s1 != 0 || !ack)
    let p := hstPtr s
    let s0 := s.answer (BitVec.ofNat 32 (sentByte s))
    let s1 := if p % 4 = 3 && s.hst.whole && !s.hst.failed then readEffect s0 s.hst.path (p / 4 * 4) s.hst.captured else s0
    let s2 := s1.set F.HST_STAT_PTR ((p + 1) % 65536)
    let s3 := if p % 4 = 3 then hostFetch s2 err else s2
    if ack then s3 else s3.hstUp fun h => { h with phase := hbIgnore }

/-! ### The end of a transaction (R450, R451, R458, R464) -/

/-- A write transaction ends: every partly filled register counts PARTIAL, and formed accesses start a commit. -/
def endWrite (s : State) : State :=
  let h := s.hst
  let s1 := h.lanes.foldl (fun t _ => t.raise G.HST_PARTIAL) s
  let s2 := s1.hstUp fun h => { h with lanes := [], formed := [], count := 0, isOver := false }
  if h.formed.isEmpty then s2
  else s2.hstUp fun x => { x with committing := true, commit := h.formed, commitPath := h.path }

/-- A START or STOP before the ninth clock of a byte discards it (R458). -/
def discardByte (s : State) (midByte : Bool) : State :=
  s.raiseIf (midByte && decide (1 ≤ s.hst.phase) && decide (s.hst.phase ≤ 5)) G.HST_BYTE_DISC

/-- A STOP returns the target logic to idle. -/
def hostStop (s : State) (midByte : Bool) : State :=
  (endWrite (linesHigh (discardByte s midByte))).hstUp fun h => { h with phase := hbIdle, timedOut := false }

/-- A repeated START ends a transaction and begins one; after an address that is ignored up to the STOP it begins none. -/
def hostRepeatedStart (s : State) (midByte : Bool) : State :=
  if s.hst.phase = hbDeaf ∨ s.hst.phase = hbIdle then s
  else (endWrite (linesHigh (discardByte s midByte))).hstUp fun h => { h with phase := hbAddress }

/-- The last access of a commit is granted: those not granted yet apply in their order, a new filter setting comes into force, and a reset
word resets the device (R450, R451, R468, R550). -/
def commitEnd (s : State) : State :=
  if !s.hst.committing then s
  else
    let s1 := regWrites s s.hst.commitPath s.hst.commit
    let s2 := s1.hstUp fun h => { h with committing := false, commit := [], filter := s1.rd R.HST_CFG }
    if s2.hst.resetDue then enterReset s2 rstSoft else s2

/-! ### Timeouts and in-band requests (R461 to R467) -/

/-- A line is low for 25 ms: where the timeouts are active, the transaction is abandoned with all it has not committed (R466, R467). -/
def lineTimeout (s : State) (g : Flag) : State :=
  let s1 := s.cond g true
  if hstPhase s = 1 then s1
  else s1.hstUp fun h => { h with
    timedOut := true, phase := if h.phase = hbIdle ∨ h.phase = hbDeaf then h.phase else hbIgnore, lanes := [], formed := [], count := 0, isOver := false }

/-- An in-band request starts where one is enabled and pending and the bus is idle (R462); its waiting times are the sender's. -/
def ibrStart (s : State) : State :=
  if s.on F.HST_REQ_REQ_EN && requestPending s != 0 && s.hst.phase = hbIdle then s.hstUp fun h => { h with request := true }
  else s

/-- The request is complete after 2.0 µs. -/
def ibrEnd (s : State) : State := s.hstUp fun h => { h with request := false }

/-- SCL falls during a request: the fall of SDA was a START (R463). -/
def reqCollide (s : State) : State :=
  if !s.hst.request then s
  else (s.hstUp fun h => { h with request := false, phase := hbAddress }).raise G.HST_REQ_COLLIDE

end Sys2Proof.Machine
end

