-- ==== Sys2Proof/Machine/Boot.lean ====
section
/-! DEFINITION. Boot.lean: the wipe's end, the log scan and repair map, the slots' checks and the loading of an image (15, 16, 17). -/

set_option Elab.async false

namespace Sys2Proof.Machine

/-! ### Retired units at a reset (R131, R234, R305, R511) -/

/-- Physical cores not retired serve logical cores 0 to 3 in ascending order, and the next one is the spare (R131). -/
def assignCores (s : State) : State :=
  let ps := (List.range 5).filter fun p => !bitN (s.get F.MB_CORE_RETIRED) p
  let m (q : Nat) : Nat := ps.getD q 0xF
  (s.set F.MB_CORE_MAP (m 1 + m 2 * 16 + m 3 * 256)).set F.MB_CORE_SPARE (m 4)

/-- A channel whose lane is retired is served by the spare lane, the lowest such channel first; a further one has none (DEDUCED, log
entry 58). -/
def assignLanes (s : State) : State :=
  showSpare <| (List.range 16).foldl (fun t c =>
    if bitN (t.get F.LANE_POOL_RETIRED) (laneOf t c) then
      match spareLane t with
      | some sp =>
        if bitN (t.get F.LANE_POOL_RETIRED) sp then t.laneUp (laneOf t c) fun x => { x with dead := true }
        else (t.set (F.LPE_STAT_LANE c) sp).set F.LANE_POOL_SPARE 0x1F
      | none => t.laneUp (laneOf t c) fun x => { x with dead := true }
    else t)
    (if bitN (s.get F.LANE_POOL_RETIRED) 16 then s.set F.LANE_POOL_SPARE 0x1F else s)

/-- A small array fails the wipe's read-back: its owner is retired or stays stopped (R504, R511). -/
def arrayFails (s : State) (a : Nat) : State :=
  if a < 69 then
    let p := a - 64
    assignCores (queueRetire (s.set F.MB_CORE_RETIRED (s.get F.MB_CORE_RETIRED ||| 2 ^ p)) retireCore p)
  else if a < 71 then s.set (if a = 69 then F.VENT_STAT_STOPPED0 else F.VENT_STAT_STOPPED1) 1
  else if bitN (s.get F.LANE_POOL_RETIRED) (a - 71) then s
  else assignLanes (retireLaneNow s (a - 71))

/-- WIPE_COMPLETE: the wipe took `us` microseconds; `bad` are the words (bank or small array, word) that did not read back as zero (R510,
R511, R555, R559). -/
def wipeComplete (s : State) (us : Nat) (bad : List (Nat × Nat)) : State :=
  if s.sys.inReset || bstate s != bsWipe then s
  else
    let s1 := s.set F.MEM_WIPE_US us
    let s2 := bad.foldl (fun t e =>
      let t1 := t.raise G.MEM_VERIFY
      if e.1 < 48 then repairAtWipe t1 e.1 (e.2 / 16) else if 64 ≤ e.1 ∧ e.1 < 88 then arrayFails t1 e.1 else t1) s1
    if lcState s = lcRetired then becomeReady s2 bsRetired else s2.set F.SYS_BOOT_BSTATE bsScan

/-! ### The log scan (R522 to R527, R543) -/

/-- A sector header that holds. -/
def sectorValid (bs : List Byte) : Bool :=
  beAt bs 0 4 == 0x4C5A4C47 && beAt bs 12 2 == 1 && beAt bs 28 4 == (crc32 (bytesAt bs 0 28)).toNat

/-- Valid sectors as (index, SSEQ), the newest first. -/
def validSectors (sectors : List (List Byte)) : List (Nat × Nat) :=
  let l := (List.range (min sectors.length 64)).filter fun i => sectorValid (sectors.getD i [])
  let e := l.map fun i => (i, beAt (sectors.getD i []) 4 4)
  e.foldl (fun acc x => (acc.takeWhile fun y => decide (x.2 ≤ y.2)) ++ x :: (acc.dropWhile fun y => decide (x.2 ≤ y.2))) []

/-- Why the records of a sector end: an unused byte 0 or the sector's end, or a record that does not hold. -/
inductive LogEnd where
  | clean | broken
  deriving DecidableEq, Repr

/-- The records of a sector from an offset on: each with a CRC that holds and an RSEQ that follows; where they end, and how. -/
def sectorRecords (bs : List Byte) : Nat → Nat → Option Nat → List (Nat × List Byte) × Nat × LogEnd
  | 0, o, _ => ([], o, .clean)
  | n + 1, o, prev =>
    if 4096 < o + 16 then ([], o, .clean)
    else if beAt bs o 1 = 0xFF then ([], o, .clean)
    else
      let len := 16 * beAt bs (o + 1) 1
      let r := bytesAt bs o len
      let rseq := beAt r 4 4
      let follows := match prev with | some p => rseq == (p + 1) % 2 ^ 32 | none => true
      if len = 0 ∨ 4096 < o + len ∨ beAt r (len - 4) 4 ≠ (crc32 (r.take (len - 4))).toNat ∨ !follows then ([], o, .broken)
      else
        let (rs, e, k) := sectorRecords bs n (o + len) (some rseq)
        ((rseq, r) :: rs, e, k)

/-- The records of a sector whose first record is a MAP record. -/
def usableSector (bs : List Byte) : Option (List (Nat × List Byte) × Nat × LogEnd) :=
  let x := sectorRecords bs 254 32 none
  match x.1 with
  | (_, r) :: _ => if beAt r 0 1 = 5 then some x else none
  | [] => none

/-- A spare row is placed in a row; a spare row that the same row had before is BAD (R515, R516). -/
def placeSpare (s : State) (b k row : Nat) (bad : Bool) : State :=
  let entry : Option Nat × Bool := (if row = 0xFFFF then none else some row, bad)
  s.bankUp b fun x => { x with spares := (x.spares.map fun e => if e.1 == some row then (none, true) else e).set k entry }

/-- A retired unit of the log (R524). -/
def restoreRetired (s : State) (kind n : Nat) : State :=
  if kind = 1 then s.set F.MB_CORE_RETIRED (s.get F.MB_CORE_RETIRED ||| 2 ^ n)
  else if kind = 2 then
    if n < 32 then s.set F.SNS_RET_RETIRED (s.get F.SNS_RET_RETIRED ||| 2 ^ n)
    else s.set F.SNS_POOL_RETIRED (s.get F.SNS_POOL_RETIRED ||| 2 ^ (n - 32))
  else if kind = 3 then s.set F.LANE_POOL_RETIRED (s.get F.LANE_POOL_RETIRED ||| 2 ^ n)
  else s

/-- A MAP record: the retire set and the repair entries. -/
def applyMap (s : State) (r : List Byte) : State :=
  let set := beAt r 16 8
  let s1 := (List.range 56).foldl (fun t i =>
    if !bitN set i then t
    else if i < 5 then restoreRetired t 1 i else if i < 22 then restoreRetired t 3 (i - 5) else restoreRetired t 2 (i - 22)) s
  (List.range (min (beAt r 14 2) 384)).foldl (fun t i =>
    let o := 32 + 4 * i
    placeSpare t (beAt r o 1) (beAt r (o + 1) 1 % 8) (beAt r (o + 2) 2) (decide (128 ≤ beAt r (o + 1) 1))) s1

/-- A STATE record: the logged temperatures with the driver they belong to (R331). -/
def applyTemps (s : State) (r : List Byte) : State :=
  s.bkgUp fun b => { b with temps := (List.range 16).map fun c =>
    (beAt r (20 + 8 * c) 4, signed 16 (beAt r (16 + 8 * c) 2), signed 16 (beAt r (18 + 8 * c) 2)) }

/-- One record of the log is applied. -/
def applyRecord (s : State) (r : List Byte) : State :=
  let type := beAt r 0 1
  if type = 1 then applyTemps s r
  else if type = 2 then placeSpare s (beAt r 8 1) (beAt r 9 1 % 8) (beAt r 10 2) false
  else if type = 3 then restoreRetired s (beAt r 8 1) (beAt r 9 1)
  else if type = 5 then applyMap s r
  else s

/-- A REPAIR record of a verify failure waits in the queue. -/
def isVerifyRecord (r : LogRec) : Bool := r.type == 2 && beAt r.body 4 1 == 3

/-- Rows that the wipe repaired keep a spare row: one that the log's map does not place takes the lowest free spare row (DEDUCED, log entry
59). -/
def keepWipeRepairs (s : State) (rows : List (Nat × Nat)) : State :=
  let s0 := s.bkgUp fun b => { b with queue := b.queue.filter fun r => !isVerifyRecord r }
  rows.foldl (fun t e =>
    if (spareFor t e.1 e.2).isSome then t
    else
      match freeSpare t e.1 with
      | some k =>
        let t1 := t.bankUp e.1 fun x => { x with spares := x.spares.set k (some e.2, false) }
        queueRecord t1 (repairRecord t1 e.1 k e.2 3)
      | none => t.bankUp e.1 fun x => { x with degraded := true }) s0

/-- The rows in the repair map. -/
def mappedRows (s : State) : List (Nat × Nat) :=
  (List.range 48).flatMap fun b => (s.bankSt b).spares.filterMap fun e => e.1.map fun r => (b, r)

/-- A bank whose map is full starts DEGRADED (R518). -/
def degradeFull (s : State) : State :=
  s.memUp fun m => { m with banks := m.banks.map fun x => if sparesUsed x = 8 then { x with degraded := true } else x }

/-- The writer's place after the scan: the newest sector, the end of its records and the next RSEQ. -/
def logPlace (s : State) (sectors : List (List Byte)) (newest : Nat × Nat) (vs : List (Nat × Nat)) : State :=
  let bs := sectors.getD newest.1 []
  let er (i : Nat) : Nat := if sectorValid (sectors.getD i []) then beAt (sectors.getD i []) 8 4 else 0
  let s1 := (s.set F.BKG_LOG0_NSECT (beAt bs 14 1)).set F.BKG_LOG0_SECT newest.1
  let s2 := (s1.wr R.BKG_LOG1 (BitVec.ofNat 32 newest.2)).wr R.BKG_LOG2
    (BitVec.ofNat 32 (vs.foldl (fun a x => max a (er x.1)) 0))
  s2.bkgUp fun b => { b with valid := true, erases := (List.range 64).map er }

/-- The log scan (R527). -/
def logScan (s : State) (sectors : List (List Byte)) : State :=
  let all := validSectors sectors
  match all with
  | [] => s.raise G.BKG_LOG_EMPTY
  | newest :: _ =>
    let nsect := beAt (sectors.getD newest.1 []) 14 1
    let vs := all.filter fun x => decide (x.1 < nsect)
    let s1 := logPlace s sectors newest vs
    let first := usableSector (sectors.getD newest.1 [])
    let s2 := if first.isSome then s1 else (s1.raise G.BKG_LOG_FALLBACK).bkgUp fun b => { b with newSector := true }
    match vs.findSome? fun x => usableSector (sectors.getD x.1 []) with
    | none => s2
    | some (rs, e, k) =>
      let s3 := rs.foldl (fun t r => applyRecord t r.2) s2
      (s3.bkgUp fun b => { b with
        next := e, rseq := ((rs.getLast?.map Prod.fst).getD 0 + 1) % 2 ^ 32
        newSector := b.newSector || k == .broken }).set F.BKG_LOG0_FREE
          (4096 - (sectorRecords (sectors.getD newest.1 []) 254 32 none).2.1)

/-! ### The slots (R530 to R540) -/

/-- The JEDEC ID is one the device works with (R531). -/
def idOk (id : Nat) : Bool := id != 0 && id != 0xFFFFFF && decide (0x18 ≤ id % 256)

/-- Entry i of a section table. -/
def sectionAt (bs : List Byte) (i : Nat) : Section :=
  let o := 0x100 + 32 * i
  { type := beAt bs o 1, inst := beAt bs (o + 2) 2, offset := beAt bs (o + 4) 4, length := beAt bs (o + 8) 4, crc := beAt bs (o + 12) 4
    dest := beAt bs (o + 16) 4, entry := beAt bs (o + 20) 4 }

/-- The section table of a slot. -/
def sectionTable (bs : List Byte) : List Section := (List.range (beAt bs 6 2)).map (sectionAt bs)

/-- The size of the code area of a code type, 0 for other types. -/
def codeArea (type : Nat) : Nat := if type = 1 then 0x80000 else if type = 2 then 0x60000 else if type = 3 then 0x40000 else 0

/-- TYPE, INST and LENGTH of an entry are those of R535. -/
def entryShape (e : Section) : Bool :=
  let single := e.inst == 0xFFFF
  let chan := decide (e.inst < 16)
  decide (4 ≤ e.length) && e.length % 4 == 0 &&
    (if e.type = 1 ∨ e.type = 2 ∨ e.type = 3 then single && decide (e.dest + e.length ≤ codeArea e.type)
     else e.dest == 0 && e.entry == 0 &&
      (if e.type = 4 ∨ e.type = 5 then single && e.length % 8 == 0
       else if e.type = 6 then single && e.length == 528
       else if e.type = 7 then single && e.length == 4160
       else if e.type = 8 then chan && e.length == 8896
       else if e.type = 9 then chan && e.length == 648
       else if e.type = 0xA then chan && e.length == 192
       else e.type == 0xB && single))

/-- An entry lies in the image after the table (R534). -/
def entryInside (e : Section) (nsec len : Nat) : Bool :=
  e.offset % 256 == 0 && decide (0x100 + 32 * nsec ≤ e.offset) && decide (e.offset + e.length ≤ len)

/-- Two entries share no byte. -/
def disjoint (a b : Section) : Bool := decide (a.offset + a.length ≤ b.offset) || decide (b.offset + b.length ≤ a.offset)

/-- Every entry is disjoint from those after it. -/
def allDisjoint : List Section → Bool
  | [] => true
  | e :: es => es.all (disjoint e) && allDisjoint es

/-- Entries of a type. -/
def countType (es : List Section) (t : Nat) : Nat := es.countP fun e => e.type == t

/-- Required sections stand once, single ones at most once, per-channel ones at most once a channel; staged sections total at most 64 KB
(R535, R542). -/
def tableCounts (es : List Section) : Bool :=
  [1, 2, 3, 4].all (fun t => countType es t == 1) && decide (countType es 6 ≤ 1) && decide (countType es 7 ≤ 1)
    && [8, 9, 0xA].all (fun t => (List.range 16).all fun c => decide (es.countP (fun e => e.type == t && e.inst == c) ≤ 1))
    && decide (((es.filter fun e => e.type == 4 || e.type == 5 || e.type == 6).map Section.length).sum ≤ 0x10000)

/-- The bytes of entry i that R534 gives as 0 (DEDUCED: another value breaks R534; log entry 60). -/
def entryZeros (bs : List Byte) (i : Nat) : Bool := beAt bs (0x101 + 32 * i) 1 == 0 && beAt bs (0x118 + 32 * i) 8 == 0

/-- The table keeps R534, R535 and R542. -/
def tableOk (bs : List Byte) : Bool :=
  let es := sectionTable bs
  (List.range (beAt bs 6 2)).all (entryZeros bs) && es.all (fun e => entryShape e && entryInside e (beAt bs 6 2) (beAt bs 16 4)) && allDisjoint es && tableCounts es

/-- The key of a fuse slot, where it is programmed and not revoked. -/
def keyOf (f : Fuses) (n : Nat) : Option (List Byte) :=
  if n = 0 then (if f.rev0 then none else f.key0) else (if f.rev1 then none else f.key1)

/-- The signature of R540: whether it must be checked, and whether it fails. -/
def signatureFails (s : State) (bs : List Byte) : Bool :=
  let signed := bitN (beAt bs 20 1) 0
  match keyOf s.sys.fuses (beAt bs 21 1) with
  | some k => signed && !Config.ed25519 k (bytesAt bs 0 192) (bytesAt bs 192 64)
  | none => signed && lcState s = lcField

/-- The signature is checked and holds. -/
def signatureHolds (s : State) (bs : List Byte) : Bool :=
  bitN (beAt bs 20 1) 0 && match keyOf s.sys.fuses (beAt bs 21 1) with
    | some k => Config.ed25519 k (bytesAt bs 0 192) (bytesAt bs 192 64)
    | none => false

/-- The code of R538 for a slot from its header and table, 0 if it is a candidate. -/
def slotCode (s : State) (good : Bool) (bs : List Byte) : Nat :=
  let nsec := beAt bs 6 2
  let len := beAt bs 16 4
  let logN := beAt bs 22 1
  if !good then 1
  else if beAt bs 0 4 ≠ 0x4C5A494D ∨ beAt bs 4 2 ≠ 1 then 2
  else if beAt bs 188 4 ≠ (crc32 (bytesAt bs 0 188)).toNat then 3
  else if beAt bs 8 2 ≠ 0x1632 ∨ (s.rd R.SYS_ID).toNat % 65536 < beAt bs 10 2 then 4
  else if nsec = 0 ∨ 64 < nsec ∨ 0x400000 < len ∨ len < 0x100 + 32 * nsec ∨ logN < 8 ∨ 64 < logN ∨ 1 < beAt bs 21 1 then 5
  else if beAt bs 28 4 ≠ (crc32 (bytesAt bs 0x100 (32 * nsec))).toNat then 6
  else if lcState s = lcField ∧ !bitN (beAt bs 20 1) 0 then 7
  else if signatureFails s bs then 8
  else if !tableOk bs then 9
  else 0

/-- A slot as a candidate. -/
def candidateOf (s : State) (slotB : Bool) (bs : List Byte) : Candidate :=
  { slotB := slotB, header := bytesAt bs 0 256, sections := sectionTable bs, verified := signatureHolds s bs }

/-- BOOTSEL as it acts (R561). -/
def bootSel (s : State) : Nat :=
  let b := s.get F.SYS_BOOT_BOOTSEL
  if b = 1 then (if lcState s = lcRetired then 0 else 1)
  else if lcState s = lcBlank ∨ lcState s = lcDevelop ∨ lcState s = lcService then b
  else 0

/-- SEQ of a candidate. -/
def candSeq (c : Candidate) : Nat := beAt c.header 12 4

/-- The candidates in loading order (R539, R561). -/
def loadOrder (s : State) (a b : List Candidate) : List Candidate :=
  match a, b with
  | [x], [y] =>
    if bootSel s = 2 then (if candSeq x < candSeq y then [x, y] else [y, x])
    else (if candSeq x < candSeq y then [y, x] else [x, y])
  | _, _ => a ++ b

/-- SCAN_COMPLETE: the JEDEC ID, the log's sectors and the header and table of both slots are read (R527, R531, R538, R539, R559, R561). -/
def scanComplete (s : State) (id : Nat) (sectors : List (List Byte)) (slotA slotB : List Byte) : State :=
  if s.sys.inReset || bstate s != bsScan then s
  else
    let wiped := mappedRows s
    let s0 := s.memUp fun m => { m with banks := m.banks.map fun x => { x with spares := List.replicate 8 (none, false) } }
    let s1 := degradeFull (keepWipeRepairs (logScan (s0.set F.QSPI_ID_ID id) sectors) wiped)
    let s2 := assignLanes (assignCores s1)
    if bootSel s2 = 1 then becomeReady s2 bsRecovery
    else
      let a := slotCode s2 (idOk id) slotA
      let b := slotCode s2 (idOk id) slotB
      let s3 := (s2.set F.IMG_STAT_RSN_A a).set F.IMG_STAT_RSN_B b
      let cs := loadOrder s3 (if a = 0 then [candidateOf s3 false slotA] else []) (if b = 0 then [candidateOf s3 true slotB] else [])
      let s4 := s3.sysUp fun x => { x with candidates := cs }
      if cs.isEmpty then becomeReady s4 bsRecovery else s4.set F.SYS_BOOT_BSTATE bsLoad

/-! ### Loading (R536, R537, R541, R542) -/

/-- The bytes of a section in the slot's bytes from 0x100 on. -/
def sectionBytes (bytes : List Byte) (e : Section) : List Byte := bytesAt bytes (e.offset - 0x100) e.length

/-- The words of a byte sequence. -/
def wordsOf (bs : List Byte) (n : Nat) : List Word := (List.range n).map fun i => BitVec.ofNat 32 (beAt bs (4 * i) 4)

/-- Code 10 or 11 for a candidate that fails while loading (R538), 0 for none. -/
def loadCode (c : Candidate) (bytes : List Byte) : Nat :=
  if c.sections.any fun e => (crc32 (sectionBytes bytes e)).toNat != e.crc then 10
  else if sha256 (bytesAt bytes 0 (beAt c.header 16 4 - 0x100)) != bytesAt c.header 32 32 then 11
  else 0

/-- Words into both banks of a channel. -/
def bothBanks (key : Bool → Nat → Nat) (stored : Nat → Word → Word) (ws : List Word) (s : State) : State :=
  (List.range ws.length).foldl (fun t o =>
    let v := stored o (ws.getD o 0)
    (t.putBank (key false o) v).putBank (key true o) v) s

/-- The number of words that count as bad values. -/
def raiseTimes (s : State) (n : Nat) (g : Flag) : State := (List.range n).foldl (fun t _ => t.raise g) s

/-- Bytes of the management firmware go into banks 32 to 35 from DEST on. -/
def loadFirmware (s : State) (dest : Nat) (bs : List Byte) : State :=
  let first := dest / 16
  (List.range ((dest + bs.length + 15) / 16 - first)).foldl (fun t q =>
    let k := 32 * 8192 + first + q
    let old := kvGet quadDefault t.mem.words k
    let w := (List.range 16).foldl (fun a i =>
      let o := (first + q) * 16 + i
      a * 256 + if dest ≤ o ∧ o < dest + bs.length then (bs.getD (o - dest) 0).toNat else (beatByte old i).toNat) 0
    t.memUp fun m => { m with words := kvPut quadDefault m.words k (BitVec.ofNat 128 w) }) s

/-- A code, bank or route section is loaded (R536); XMAX of a LIVE bank is at most its XPOLY (R323). -/
def loadSection (bytes : List Byte) (s : State) (e : Section) : State :=
  let bs := sectionBytes bytes e
  let c := e.inst
  if e.type = 1 then loadFirmware s e.dest bs
  else if e.type = 7 then
    let ws := wordsOf bs 1040
    let gains := ws.drop 16
    let s1 := bothBanks routeKey (fun _ v => v) (ws.take 16) s
    raiseTimes (bothBanks mixKey (fun _ v => storedGain v) gains s1) (gains.countP f32Special) G.AIN_MIX_BADVAL
  else if e.type = 8 then
    let ws := wordsOf bs 2224
    let bad := ((List.range 2224).filter fun o => bankIsFloat o && f32Special (ws.getD o 0)).length
    raiseTimes (bothBanks (mbKey c) storedBankWord ws s) bad G.SCN_BANK_BADVAL
  else if e.type = 9 then bothBanks (laneKey (laneOf s c)) (fun _ v => v) (wordsOf bs 162) s
  else if e.type = 0xA then
    let ws := wordsOf bs 48
    let bad := ((List.range 48).filter fun o => decide (2 ≤ o) && decide (o < 45) && f32Special (ws.getD o 0)).length
    raiseTimes (clampXmax (bothBanks (spkKey c) spkClamp ws s) c (s.ventCh c).live) bad (G.SPK_PARAM_BADVAL c)
  else s

/-- The registers that SAFETY records may name (R535). -/
def safetyPointer (p : Nat) : Bool :=
  p == R.TS_TLIM || (decide (0x60 ≤ p) && decide (p < 0x70))
    || (decide (0x1000 ≤ p) && decide (p < 0x2000) && p % 0x100 == 0x44)
    || (decide (0x2000 ≤ p) && decide (p < 0x4000) && p % 0x100 == 0x80)

/-- A record is skipped (R537). -/
def recordSkipped (safety : Bool) (op p : Nat) : Bool :=
  op != 0 || p % 4 != 0 || (decide (0x200 ≤ p) && decide (p < 0x300)) || decide (0xA000 ≤ p) || p == R.TS_CTRL || p == R.SYS_CTRL
    || p == R.CLK_REFADJ || (safety && !safetyPointer p)

/-- The register records of a section, one after another (R537). -/
def applyRecords (s : State) (safety : Bool) (bs : List Byte) : State :=
  (List.range (bs.length / 8)).foldl (fun t i =>
    let p := beAt bs (8 * i) 2
    let op := beAt bs (8 * i + 2) 1
    if op = 0xFF then t
    else if recordSkipped safety op p then t.raise G.IMG_REC_SKIP
    else regWrite t .image p (BitVec.ofNat 32 (beAt bs (8 * i + 4) 4))) s

/-- The NETWORK section: PHY addresses, PTP_CFG and the streams, each stream's AIN_SCFG after its other registers, so that a stream that it
enables is not locked against them (DEDUCED, log entry 60). -/
def applyNetwork (s : State) (bs : List Byte) : State :=
  let s1 := (s.set F.IMG_NET_PHY_A (beAt bs 0 1 % 32)).set F.IMG_NET_PHY_B (beAt bs 1 1 % 32)
  let s2 := regWrite s1 .image R.PTP_CFG (BitVec.ofNat 32 (beAt bs 4 4))
  (List.range 16).foldl (fun t i =>
    let w (j : Nat) : Word := BitVec.ofNat 32 (beAt bs (16 + 32 * i + 4 * j) 4)
    regWrites t .image [(R.AIN_SSEL, BitVec.ofNat 32 i), (0x838, w 1), (0x83C, w 2), (0x840, w 3), (0x844, w 4), (0x834, w 0)]) s2

/-- The staged sections in their order: REGSET in table order, NETWORK, SAFETY (R541). -/
def applyStaged (c : Candidate) (bytes : List Byte) (s : State) : State :=
  let of_ (t : Nat) : List (List Byte) := (c.sections.filter fun e => e.type == t).map (sectionBytes bytes)
  let s1 := (of_ 5).foldl (fun t bs => applyRecords t false bs) s
  let s2 := (of_ 6).foldl applyNetwork s1
  (of_ 4).foldl (fun t bs => applyRecords t true bs) s2

/-- The sections in ascending order of OFFSET. -/
def byOffset (es : List Section) : List Section :=
  es.foldl (fun acc e => (acc.takeWhile fun y => decide (y.offset ≤ e.offset)) ++ e :: (acc.dropWhile fun y => decide (y.offset ≤ e.offset))) []

/-- What the registers show of the loaded image (R539, R543, R548). -/
def showImage (s : State) (c : Candidate) : State :=
  let h := c.header
  let s1 := (s.set F.IMG_STAT_SLOT (if c.slotB then 2 else 1)).setB F.IMG_STAT_SIGNED c.verified
  let s2 := ((s1.set F.IMG_STAT_KEY_ID (beAt h 21 1)).setB F.IMG_STAT_QREAD (bitN (beAt h 20 1) 1)).setB F.IMG_STAT_NSECT_DIFF
    (s.bkg.valid && beAt h 22 1 != s.get F.BKG_LOG0_NSECT)
  let s3 := s2.wr R.IMG_SEQ (BitVec.ofNat 32 (beAt h 12 4))
  let s4 := (List.range 8).foldl (fun t i => t.wr (R.IMG_DIG0 + 4 * i) (BitVec.ofNat 32 (beAt h (32 + 4 * i) 4))) s3
  s4.bkgUp fun b => { b with imgNsect := beAt h 22 1 }

/-- The image is held: CLUSTER and START_ID, then the processors start, or wait for the debugger (R541, R561). -/
def imageHeld (s : State) (c : Candidate) : State :=
  let s1 := (s.set F.STR_CFG_CLUSTER (beAt c.header 23 1)).set F.SCN_STAT_LIVE_ID (beAt c.header 24 2)
  let s2 := (s1.strUp fun x => { x with image := true }).sysUp fun x => { x with candidates := [] }
  if bootSel s2 = 3 then (s2.set F.SYS_BOOT_BSTATE bsDbgwait).sysUp fun x => { x with held := true } else startProcessors s2

/-- A candidate that fails is abandoned: nothing of it stays (R539, R542). -/
def abandonCandidate (s : State) (c : Candidate) (rest : List Candidate) (code : Nat) : State :=
  let s1 := (s.set (if c.slotB then F.IMG_STAT_RSN_B else F.IMG_STAT_RSN_A) code).raise G.IMG_SLOT_FALLBACK
  let s2 := s1.sysUp fun x => { x with candidates := rest }
  if rest.isEmpty then becomeReady s2 bsRecovery else s2

/-- CANDIDATE_LOAD_END: the slot's bytes from 0x100 on have been read (R539, R541). -/
def candidateLoadEnd (s : State) (bytes : List Byte) : State :=
  if s.sys.inReset || bstate s != bsLoad then s
  else
    match s.sys.candidates with
    | [] => s
    | c :: rest =>
      let code := loadCode c bytes
      if code ≠ 0 then abandonCandidate s c rest code
      else
        let s1 := (byOffset c.sections).foldl (loadSection bytes) s
        imageHeld (applyStaged c bytes (showImage s1 c)) c

end Sys2Proof.Machine
end

