-- ==== Sys2Proof/Machine/Boundaries.lean ====
section
/-! DEFINITION. Boundaries.lean: the work of an update boundary and of a block boundary, and the delivery of gate payloads. The order of
work that falls on one boundary is the model's where no rule gives it (DESIGN CHOICE, log entry 61). -/

set_option Elab.async false

namespace Sys2Proof.Machine

/-- A step for each of the n channels, lines or units in rising order. -/
def eachOf (n : Nat) (f : State → Nat → State) (s : State) : State := (List.range n).foldl f s

/-! ### The update boundary (R138) -/

/-- One update of LOOP telemetry for each channel. -/
def windowsAtUpdate (s : State) : State :=
  eachOf 16 (fun t c =>
    let ph := (t.lane (laneOf t c)).phase
    windowUpdate t c (ph = 3) (ph = 4)) s

/-- The running update ends: the lanes close, the sense results of the update are taken, time goes to the next update. -/
def endUpdate (s : State) : State :=
  if s.time.atBlock then s
  else
    let s1 := inputsAtUpdate (lanesEnd s)
    let s2 := windowsAtUpdate s1
    { s2 with time := { s2.time with half := !s2.time.half, updates := (s2.time.updates + 1) % 2 ^ 32,
                                     updInBlock := s2.time.updInBlock + 1, taps := s2.time.taps + u32 s2 } }

/-- CH_MOD.SRC at the update boundary: the values before and from this boundary on; a change from host to loop mode starts the channel under
R247, and with it gT (R355, R641); every other RWL write of an update register comes
into force with it (R13). -/
def sourcesAtUpdate (s : State) : State :=
  let old := (List.range 16).map fun c => s.inForce (F.CH_MOD_SRC c)
  let s1 : State := { s with heldU := [] }
  eachOf 16 (fun t c =>
    let new := t.inForce (F.CH_MOD_SRC c)
    let t1 := srcAtUpdate t c (old.getD c 0) new
    if old.getD c 0 = 2 ∧ new = 1 then gainRestart t1 c else t1) s1

/-- The starts at an update boundary; a channel that leaves OFF takes its load diagnosis back to its start (R168, R358). -/
def startsAtUpdate (s : State) : State :=
  eachOf 16 (fun t c =>
    let t1 := startAtUpdate t c
    if t.get (F.MOD_STAT_STATE (2 * c)) = modOff && t1.get (F.MOD_STAT_STATE (2 * c)) = modPrecharge then loadRestart t1 c else t1) s

/-- An update boundary (R138), of which GD6 carries a marker to LOOP (R29) and the running PWM clock's words reach SAFE (R205). No boundary
comes before the media PLL has locked (R555). -/
def updateBoundary (s : State) : State :=
  if !s.sys.counting then s
  else
    let first := s.time.atBlock
    let s1 := endUpdate (gatePush (pwmActive s) .gd6 [0, BitVec.ofNat 32 s.time.updates])
    let s2 : State := { s1 with time := { s1.time with atBlock := false } }
    let s3 := if first then snapLoop s2 else s2
    let s4 := rotationAtUpdate (replacementsAtUpdate (sourcesAtUpdate s3))
    let s5 := startsAtUpdate (haltAtUpdate (releasesAtUpdate s4))
    let s6 := eachOf 16 (fun t c => cbcAtUpdate (leakAtUpdate t c) c) (legsAtUpdate s5)
    let s7 := lanesStart (programsAtUpdate (comparatorsAtUpdate s6))
    holdRelease (hbAtUpdate s7)

/-! ### The block boundary (R43) -/

/-- The entries of one CMD ring that are eligible at this boundary are performed in order (R479, R480). -/
def cmdRun : Nat → State → Nat → State
  | 0, s, _ => s
  | n + 1, s, c =>
    let r := cmdTake s c
    cmdRun n (if h : c < 16 then regWrites r.1 (.cmdRing ⟨c, h⟩) r.2 else r.1) c

/-- Telemetry that still waits in GV2 enters its ring before anything of a later boundary (R29, R484). -/
def telDrain (s : State) : State :=
  (s.gate .gv2).foldl telDeliver { s with gates := s.gates.set (gateIdx .gv2) [] }

/-- Every CMD ring, in rising order. -/
def cmdRings (s : State) : State := cmdBoundaryEnd (eachOf 16 (fun t c => cmdRun (cmdEligible t c) t c) s)

/-- The swaps of Music Box cores that are due (R129 to R132): with a spare, by it; without one the four channels are muted, and with a
partner that can take over the device fault of CAUSE bit 7 follows. -/
def swapsAtBlock (s : State) (due : List Bool) : State :=
  eachOf 4 (fun t q =>
    if !due.getD q false then t
    else
      let t1 := if t.get F.MB_CORE_SPARE < 5 then coreSwap t q
        else
          let t2 := coreFail t q
          if pairEn t2 && t2.on F.TWN_STAT_P_READY && t2.twin.pSnapOk then enterSafe t2 7 false else t2
      let t3 : State := { t1 with mb := { t1.mb with swapDue := t1.mb.swapDue.set q false } }
      if t3.get F.MB_CORE_SWAP_Q = q then t3.set F.MB_CORE_SWAP 0 else t3) s

/-- The Music Box at a block boundary: hand-off, overruns, swaps. A swap trigger of this boundary acts at the next one. -/
def coresAtBlock (s : State) : State :=
  let due := s.mb.swapDue
  let s1 : State := { s with mb := { s.mb with swapDue := List.replicate 4 false } }
  if s.sys.procs then swapsAtBlock (overrunsAtBlock (handOffAtBlock s1)) due else s

/-- The scene commit at a block boundary (R115 to R119), in every island that holds part of it (R43). -/
def scenesAtBlock (s : State) : State :=
  let s1 := sceneWarmAtBlock (sceneEndAtBlock s)
  if sceneDue s1 then
    eachOf 16 (fun t c => if inMask t c then speakerActivate (laneActivate t c) c else t) (sceneActivate s1)
  else s1

/-- The taps of a unit that was lost are the fade's, which the boundary formed (zeros where no core serves): they stand among those of the
block that ended, so that the models see what the loop will play (R125, R317; DEDUCED, log entry 75). -/
def fadedTaps (s : State) : State :=
  (List.range 4).foldl (fun t q =>
    if !t.sys.procs || t.mb.done.getD q true && !t.mb.ue.getD q false then t
    else tapArrives t (BitVec.ofNat 32 q :: (List.range 4).flatMap fun j => (t.mbCh (4 * q + j)).tap)) s

/-- The new units start on the block that ended (R101, R317). -/
def unitsStart (s : State) : State :=
  let pad (l : List (List Word × List Word)) : List (List Word × List Word) :=
    l.take 8 ++ List.replicate (8 - l.length) (List.replicate 64 0, List.replicate 64 0)
  let done := if s.sys.procs then List.replicate 4 false else s.mb.done
  let s0 := fadedTaps s
  let s1 : State := { s0 with mb := { s0.mb with input := pad s.ain.collect, done := done, ue := List.replicate 4 false } }
  let s2 := s1.ainUp fun a => { a with collect := [], sub := 0 }
  let s3 := unitInputs s2
  if s3.sys.procs then unitStart s3 else s3

/-- The Ventriloquist's signals and sweeps at a block boundary (R336, R363 to R368). -/
def speakersAtBlock (s : State) : State :=
  eachOf 16 (fun t c => showTlim (pilotAtBlock (sweepBoundary t c) c) c) s

/-- Every channel counts as muted for a step: none in a standby that follows markers takes one (R62, R395). -/
def allMuted (s : State) : Bool := s.mb.chans.all (·.muted) || (pairEn s && !owner s)

/-- A pending step (R62 to R65) is the last thing a boundary does with time: the index moves by whole blocks, the part of the offset
that remains is left to the servo (DEDUCED, log entry 62). -/
def stepAtBlock (s : State) : State :=
  if s.get F.PTP_STAT_STATE ≠ ptpStepPending || s.twin.marking then s
  else if !allMuted s && !s.on F.PTP_CTRL_STEP_NOW then s
  else
    let n := stepBlocks s.ain.ptp.stepOffset
    let s1 : State := { s with time := { s.time with block := (((s.time.block : Int) - n) % (2 ^ 48 : Int)).toNat } }
    let s2 : State := if allMuted s then s1 else
      { s1 with mb := { s1.mb with chans := s1.mb.chans.map overrunFade } }
    (ptpEnter s2 ptpAcquire).set F.PTP_CTRL_STEP_NOW 0

/-- The delay lines' period of 3.906 ms, 46.875 blocks, ends within the block before index b (R157; DESIGN CHOICE, log entry 18). -/
def dlPeriod (b : Nat) : Bool := b * 8 / 375 != (b - 1) * 8 / 375

/-- Wind-up's tasks that fall due at a block index (R157, R227, R513, R526). One that has not started by then, a period after it fell due,
counts WU_LATE and is still to be performed (R521). What is switched off falls due no more; in RETIRED Wind-up is stopped (R559). -/
def tasksAtBlock (s : State) : State :=
  if bstate s = bsRetired then s else
  let b := s.time.block
  let scrub := s.on F.BKG_CFG_SCRUB_EN
  let log := s.on F.BKG_CFG_LOG_EN
  let k := s.bkg
  let at_ (n : Nat) : Bool := b % n == 0
  let s1 := s.raiseIf (scrub && at_ 64 && 0 < k.scrubDue) G.BKG_WU_LATE
  let s2 := s1.raiseIf (log && at_ 12000 && k.eventsDue) G.BKG_WU_LATE
  let s3 := s2.raiseIf (log && at_ 720000 && 0 < k.stateDue) G.BKG_WU_LATE
  let s4 := s3.raiseIf (rotationOn s && at_ 2820 && k.rotDue) G.BKG_WU_LATE
  let s5 := s4.raiseIf (dlPeriod b && k.dlDue) G.BKG_WU_LATE
  s5.bkgUp fun _ =>
    { k with scrubDue := if scrub then k.scrubDue + (if at_ 64 then 1 else 0) else 0
             eventsDue := log && (k.eventsDue || at_ 12000)
             stateDue := if log then k.stateDue + (if at_ 720000 then 1 else 0) + (if k.flush then 1 else 0) else 0
             flush := k.flush && !log
             rotDue := rotationOn s && (k.rotDue || at_ 2820)
             dlDue := k.dlDue || dlPeriod b }

/-- Time at a block boundary: the next index, or the one a marker gave (R7, R394). -/
def blockTime (s : State) : State :=
  let s1 := endUpdate s
  let b := s1.twin.setBlock.getD ((s1.time.block + 1) % 2 ^ 48)
  ({ s1 with time := { s1.time with block := b, atBlock := true, half := false, updInBlock := 0,
                                    taps := if s.time.atBlock then s1.time.taps else ceilDiv s1.time.taps 655360 * 655360 } } :
    State).twinUp fun t => { t with setBlock := none }

/-- A block boundary (R43), with the level of MUTE_N at it (R564). -/
def blockBoundary (s : State) (muteN : Bool) : State :=
  if !s.sys.counting then s
  else
    let s0 := telDrain (blockTime s)
    let s1 := cmdRings (if bstate s0 = bsRetired then s0 else windowEnd s0)
    let s2 := kAtBlock { s1 with heldB := [] }
    let media := !s2.sys.procs || (s2.mb.done.all id && !s2.mb.ue.any id)
    let model := !s2.sys.procs || s2.vent.cores.all (·.done)
    let s3 := eachOf 2 coreAtBlock (unitsAtBlock s2)
    let s4 := scenesAtBlock (coresAtBlock s3)
    let s5 := twinAtBlock (eachOf 16 modeAtBlock s4) media model
    let s6 := laAtBlock (mutesAtBlock (gainsAtBlock s5) (!muteN))
    let s7 := speakersAtBlock (unitsStart s6)
    let s8 := loopAtBlock (streamsAtBlock (inputsAtBlock s7))
    let s9 := showFades (sceneEndAtBlock (stepAtBlock (readyAtBlock s8)))
    tasksAtBlock (strAtBlock (ppsOutAtBlock (ptpHistAtBlock s9)))

/-! ### Gates (R27, R29) -/

/-- What a payload does in its destination island. -/
def gateArrives (s : State) (g : Gate) (ws : List Word) : State :=
  match g with
  | .gd1 => tapArrives s ws
  | .gd2 => gainsArrive s ws
  | .gd3 => interpTake s ws
  | .gd4 => measAll s ws
  | .gd5 => captureWord s (ws.getD 0 0).toNat ((ws.getD 1 0).setWidth 16) false
  | .gd7 => deliverPositions s ws
  | .gv2 => telDeliver s ws
  | .gl2 => traceStore s ws.length ws
  | .gs2 => pwmActive s
  | .gt1 => frameLeaves s ws
  | .gt3t => markLeaves s ws
  | .gs1 => safeRequest s (ws.getD 0 0).toNat (ws.getD 1 0).toNat (ws.getD 2 0 != 0)
  | .gn1 | .gn2 | .gm1 | .gm2 | .gv1 | .gl1 | .gp1 | .gp2 | .gd6 | .gt2 | .gt3p | .gs3s | .gs3m => s

/-- A gate delivers its oldest payload whole (R27); an empty gate delivers nothing, and the telemetry in GV2 waits for the LOOP entries that are
due at the same boundary (R484). -/
def gateDeliver (s : State) (g : Gate) : State :=
  if g = .gv2 ∧ s.bkg.telDue = true then s
  else
    match s.gate g with
    | [] => s
    | ws :: _ => gateArrives (gatePop s g) g ws

end Sys2Proof.Machine
end

