-- ==== Sys2Proof/Machine/Operands.lean ====
section
/-! DEFINITION. Operands.lean: how a command that is an access of a register reaches it, and the guard every command but those of a reset
has: a device in reset answers nothing (R550). -/

set_option Elab.async false

namespace Sys2Proof.Machine

/-- The state with this queue. -/
def State.queued (s : State) (q : List Instr) : State := { s with pending := q }

/-- A command has its effect, but in reset, where it has none (R550). The queue is the step's alone. -/
def awake (s : State) (t : State) : Out State := .next (if s.sys.inReset then s else t.queued s.pending)

/-- The first access of the host's commit names pointer p. -/
def headNames (s : State) (p : Nat) : Bool := s.hst.committing && (match s.hst.commit with | e :: _ => e.1 == p | [] => false)

/-- The path of an access of a register that has a command of its own: that of the host's commit while its first access names the register,
else the path given (log entry 63). -/
def pathAt (s : State) (d : Path) (p : Nat) : Path := if headNames s p then s.hst.commitPath else d

/-- The host's commit loses the access that is granted (R451). -/
def granted (s : State) (p : Nat) : State := if headNames s p then { s with hst := { s.hst with commit := s.hst.commit.tail } } else s

/-- The effect f of a write of a register with a command of its own, where the write reaches it. -/
def fieldAt (s : State) (d : Path) (p : Nat) (f : State → State) : State :=
  if writable s (pathAt s d p) p then f (granted s p) else granted s p

/-- The word that an access of a window of eight aliases at p names: the one the host's commit stands at, else the first (R98, R106). -/
def aliasPtr (s : State) (p : Nat) : Nat :=
  match s.hst.commit with
  | e :: _ => if s.hst.committing && e.1 / 32 == p / 32 then e.1 else p
  | [] => p

/-- The effect f of a write through one of the eight aliases of a window. -/
def aliasAt (s : State) (d : Path) (p : Nat) (f : State → State) : State := fieldAt s d (aliasPtr s p) f

/-- The whole read f of a register with a command of its own; where it does not reach the register it returns 0 (R12, R559). -/
def readAt (s : State) (path : Path) (p : Nat) (f : State → State) : State := if readable s path p then f s else s.answer 0

end Sys2Proof.Machine
end

