-- ==== Sys2Proof/Machine/AudioCmds.lean ====
section
/-! DEFINITION. AudioCmds.lean: the commands of the audio inputs and of network time (02). -/

set_option Elab.async false

namespace Sys2Proof.Machine

/-- PTP_ANNOUNCE_RX: an Announce feeds the best master clock algorithm (R56, R58, R59). -/
def execPtpAnnounceRx (port : NetPort) (domain : Byte) (a : Announce) (s : State) : Out State := awake s (ptpAnnounce s port domain a)

/-- PTP_SYNC_RX: a Sync of the selected master; a one-step one is measured (R56, R59). -/
def execPtpSyncRx (port : NetPort) (domain : Byte) (gm : BitVec 64) (twoStep : Bool) (diff : Int) (s : State) : Out State :=
  awake s (ptpSync s port domain gm twoStep diff)

/-- PTP_FOLLOW_UP_RX: the Follow_Up of a two-step master completes the measurement (R56). -/
def execPtpFollowUpRx (port : NetPort) (domain : Byte) (gm : BitVec 64) (diff : Int) (s : State) : Out State :=
  awake s (ptpFollowUp s port domain gm diff)

/-- PTP_DELAY_RESP_RX: the path delay of the end-to-end mechanism (R56). -/
def execPtpDelayRespRx (port : NetPort) (domain : Byte) (reqDiff : Int) (s : State) : Out State :=
  awake s (ptpDelayResp s port domain reqDiff)

/-- DELAY_REQ_TX: a delay-request frame leaves through GN2 while the firmware runs the servo from PTP (R29, R57); its word names the
port. -/
def execDelayReqTx (port : NetPort) (s : State) : Out State :=
  awake s (if firmwareRuns s && s.on F.PTP_CFG_PTP_EN && s.get F.PTP_CFG_SRC == 0 && s.get F.PTP_STAT_STATE != ptpDisabled then
      gatePush s .gn2 [if port = .a then 0 else 1]
    else s)

/-- ANNOUNCE_TIMEOUT (R59). -/
def execAnnounceTimeout (port : NetPort) (s : State) : Out State := awake s (ptpTimeout s port)

/-- PPS_IN_EDGE (R59, R66). -/
def execPpsInEdge (s : State) : Out State := awake s (ppsEdge s)

/-- PPS_TIMEOUT (R59). -/
def execPpsTimeout (s : State) : Out State := awake s (ppsTimeout s)

/-- STEP_NOW: a write of PTP_CTRL with STEP_NOW (R62). -/
def execStepNow (s : State) : Out State := awake s (fieldAt s .hostPrimary R.PTP_CTRL stepNow)

/-- PPS_OUT_FALL: PPS_OUT falls 10 ms after it rose (R66). -/
def execPpsOutFall (s : State) : Out State := awake s (s.ptpUp fun p => { p with ppsOut := false })

/-- AES67_PACKET_RX (R71 to R74). -/
def execAes67PacketRx (port : NetPort) (dst : Word) (udp : Word16) (ssrc ts : Word) (ws : List Word) (s : State) : Out State :=
  awake s (packetRx s port dst udp ssrc ts ws)

/-- SSRC_TIMEOUT: the SSRC can be learned again (R72). -/
def execSsrcTimeout (i : Fin 16) (s : State) : Out State := awake s (s.set (F.AIN_SSTAT_SSRC_VALID i) 0)

/-- STREAM_RX_TIMEOUT: RX_A or RX_B is cleared (R72). -/
def execStreamRxTimeout (i : Fin 16) (port : NetPort) (s : State) : Out State :=
  awake s (s.set (match port with | .a => F.AIN_SSTAT_RX_A i | .b => F.AIN_SSTAT_RX_B i) 0)

/-- RECEIVE_READ: the work of one sample period (R69, R94, R101). -/
def execReceiveRead (s : State) : Out State := awake s (samplePeriod s)

/-- STREAM_ENABLE: a write of AIN_SCFG of stream i with EN set (R75). -/
def execStreamEnable (i : Fin 16) (v : Word) (s : State) : Out State :=
  awake s (if bitsN v.toNat (F.AIN_SCFG_EN i).hi (F.AIN_SCFG_EN i).lo = 1 then
      fieldAt s .hostPrimary 0x834 fun t => writeScfg t i v
    else s)

/-- STREAM_DISABLE: a write of AIN_SCFG of stream i with EN clear (R76). -/
def execStreamDisable (i : Fin 16) (v : Word) (s : State) : Out State :=
  awake s (if bitsN v.toNat (F.AIN_SCFG_EN i).hi (F.AIN_SCFG_EN i).lo = 0 then
      fieldAt s .hostPrimary 0x834 fun t => writeScfg t i v
    else s)

/-- TDM_FRAME_RX (R80 to R83). -/
def execTdmFrameRx (i : Fin 4) (bclks : Nat) (ws : List Word) (s : State) : Out State := awake s (tdmFrame s i bclks ws)

/-- TDM_FS_TIMEOUT: four frame periods without FS (R80). -/
def execTdmFsTimeout (i : Fin 4) (s : State) : Out State := awake s (tdmLose s i)

/-- TDM_LOCK_LOSS: four discarded frames in a row (R80). -/
def execTdmLockLoss (i : Fin 4) (s : State) : Out State := awake s (if 4 ≤ (s.ain.tdm.getD i {}).bad then tdmLose s i else s)

/-- TDM_LOCK_GAIN: sixteen good frames (R80). -/
def execTdmLockGain (i : Fin 4) (rate : BitVec 3) (s : State) : Out State := awake s (tdmGain s i rate)

/-- AES3_SUBFRAME_RX (R86). -/
def execAes3SubframeRx (i : Fin 4) (sub : Fin 2) (w : BitVec 24) (parityOk invalid : Bool) (s : State) : Out State :=
  awake s (aesSubframe s i sub w parityOk invalid)

/-- AES3_CS_BLOCK_RX (R87). -/
def execAes3CsBlockRx (i : Fin 4) (bytes : List Byte) (good : Bool) (s : State) : Out State := awake s (aesStatus s i bytes good)

/-- AES3_LOCK (R85). -/
def execAes3Lock (i : Fin 4) (rate : BitVec 3) (s : State) : Out State := awake s (aesLock s i rate)

/-- AES3_LOCK_LOSS (R85, R91). -/
def execAes3LockLoss (i : Fin 4) (s : State) : Out State := awake s (aesLose s i)

/-- ASRC_LOCK (R89, R91). -/
def execAsrcLock (d : Fin 8) (s : State) : Out State := awake s (asrcLock s d)

/-- ASRC_UNLOCK (R91). -/
def execAsrcUnlock (d : Fin 8) (s : State) : Out State := awake s (asrcUnlock s d)

/-- CS_SELECT: a write of AIN_CSSEL (R87). -/
def execCsSelect (v : Word) (s : State) : Out State := awake s (fieldAt s .hostPrimary R.AIN_CSSEL fun t => csSelect t v)

/-- CS_DATA_READ: a whole read of AIN_CSDATA (R88). -/
def execCsDataRead (s : State) : Out State := awake s (readAt s .hostPrimary R.AIN_CSDATA csRead)

/-- MIX_DATA_WRITE: a write through an AIN_MIXDATA alias (R96 to R98). -/
def execMixDataWrite (v : Word) (s : State) : Out State := awake s (aliasAt s .hostPrimary R.AIN_MIXDATA fun t => mixWrite t v)

/-- MIX_DATA_READ: a whole read through an AIN_MIXDATA alias (R98). -/
def execMixDataRead (s : State) : Out State := awake s (readAt s .hostPrimary R.AIN_MIXDATA mixRead)

end Sys2Proof.Machine
end

