-- ==== Sys2Proof/Machine/BoxCmds.lean ====
section
/-! DEFINITION. BoxCmds.lean: the commands of the Music Box and of scenes (03), and the boundaries and gates that drive the data path
(01). -/

set_option Elab.async false

namespace Sys2Proof.Machine

/-- GATE_DELIVER: a gate delivers its oldest payload whole (R27). -/
def execGateDeliver (g : Gate) (s : State) : Out State := awake s (gateDeliver s g)

/-- UPDATE_BOUNDARY (R138). -/
def execUpdateBoundary (s : State) : Out State := awake s (updateBoundary s)

/-- BLOCK_BOUNDARY (R43). -/
def execBlockBoundary (muteN : Bool) (s : State) : Out State := awake s (blockBoundary s muteN)

/-- MB_UNIT_COMPLETE: logical core q completes its unit (R101, R124); pilot and sweep signals join it (R336, R365). -/
def execMbUnitComplete (q : Fin 4) (s : State) : Out State := awake s (mbUnit s q fun c j => addedSignals s c j)

/-- LA_WRITE: a write of CH_LA (R103). -/
def execLaWrite (c : Chan) (v : Word) (s : State) : Out State := awake s (fieldAt s .hostPrimary (R.CH_LA c) fun t => laWrite t c v)

/-- BANK_WORD_WRITE: a write through a CH_BDATA alias (R106). -/
def execBankWordWrite (c : Chan) (v : Word) (s : State) : Out State := awake s (aliasAt s .hostPrimary (R.CH_BDATA c) fun t => bankWrite t c v)

/-- BANK_WORD_READ: a whole read through a CH_BDATA alias (R106). -/
def execBankWordRead (c : Chan) (s : State) : Out State := awake s (readAt s .hostPrimary (R.CH_BDATA c) fun t => bankRead t c)

/-- SCENE_ARM: a write of SCN_ARM with GO (R112 to R114). -/
def execSceneArm (s : State) : Out State := awake s (fieldAt s .hostPrimary R.SCN_ARM sceneGo)

/-- SCENE_ABORT: a write of SCN_ARM with ABORT (R123). -/
def execSceneAbort (s : State) : Out State := awake s (fieldAt s .hostPrimary R.SCN_ARM sceneAbort)

/-- BLOCK_INDEX_READ: a read of SCN_NOW_L (R135). -/
def execBlockIndexRead (s : State) : Out State := awake s (readAt s .hostPrimary R.SCN_NOW_L blockIndexRead)

/-- MB_CORE_UE: an uncorrectable error in a physical Music Box core (R129). -/
def execMbCoreUe (p : Fin 5) (s : State) : Out State := awake s (mbCoreUe s p)

/-- MB_SWAP_REQUEST: a write of MB_CORE with SWAP and SWAP_Q (R129). -/
def execMbSwapRequest (q : Fin 4) (s : State) : Out State := awake s (fieldAt s .hostPrimary R.MB_CORE fun t => swapRequest t q)

end Sys2Proof.Machine
end

