-- ==== Sys2Proof/Machine/DriveCmds.lean ====
section
/-! DEFINITION. DriveCmds.lean: the commands of the modulator (04) and of trips and the safe state (05). -/

set_option Elab.async false

namespace Sys2Proof.Machine

/-- K_SELECT: a write of PWM_FSW (R137). -/
def execKSelect (v : Word) (s : State) : Out State := awake s (fieldAt s .hostPrimary R.PWM_FSW fun t => kSelect t v)

/-- SHADOW_WRITE: a compare word reaches SHADOW (R160). -/
def execShadowWrite (l : Leg) (w : Word16) (onEdge : Bool) (s : State) : Out State := awake s (shadowWrite s l w onEdge)

/-- HOST_COMPARE_WRITE: a write of MOD_CMPW (R164). -/
def execHostCompareWrite (l : Leg) (w : Word16) (onEdge : Bool) (s : State) : Out State :=
  awake s (fieldAt s .hostPrimary (R.MOD_CMPW l) fun t => hostCompare t l w onEdge)

/-- COMPARE_EDGE: a compare instant of a leg (R148, R154). -/
def execCompareEdge (l : Leg) (s : State) : Out State := awake s (compareEdge s l)

/-- DEAD_TIME_END: the other switch of a leg turns on (R154). -/
def execDeadTimeEnd (l : Leg) (s : State) : Out State := awake s (deadTimeEnd s l)

/-- DL_CALIBRATION_START: Wind-up starts on the next delay line (R157). -/
def execDlCalibrationStart (s : State) : Out State := awake s (dlStart s)

/-- DL_CALIBRATION_DONE: a delay line has been measured (R158, R159). -/
def execDlCalibrationDone (line : Fin 64) (d : List Nat) (s : State) : Out State := awake s (dlDone s line d)

/-- CONVERTER_TRIGGER: a converter trigger of a leg fires (R165, R216). -/
def execConverterTrigger (l : Leg) (b : Bool) (s : State) : Out State := awake s (converterTrigger s l b)

/-- SRC of a word written to CH_MOD, and the one the register holds. -/
def newSrc (c : Nat) (v : Word) : Nat := bitsN v.toNat (F.CH_MOD_SRC c).hi (F.CH_MOD_SRC c).lo
def oldSrc (s : State) (c : Nat) : Nat := s.get (F.CH_MOD_SRC c)
/-- The loop or the host drives the channel. -/
def srcRuns (x : Nat) : Bool := x == 1 || x == 2

/-- CHANNEL_START: a write of CH_MOD that takes SRC from off to loop or host mode (R168, R263). -/
def execChannelStart (c : Chan) (v : Word) (s : State) : Out State :=
  awake s (if !srcRuns (oldSrc s c) && srcRuns (newSrc c v) then fieldAt s .hostPrimary (R.CH_MOD c) fun t => chModWrite t c v else s)

/-- PRECHARGE_END: switching starts (R168). -/
def execPrechargeEnd (c : Chan) (s : State) : Out State := awake s (prechargeEnd s c)

/-- CHANNEL_STOP: a write of CH_MOD that takes SRC to 0b00 or 0b11 (R169). -/
def execChannelStop (c : Chan) (v : Word) (s : State) : Out State :=
  awake s (if !srcRuns (newSrc c v) then fieldAt s .hostPrimary (R.CH_MOD c) fun t => chModWrite t c v else s)

/-- SRC_SWITCH: a write of CH_MOD that takes SRC from loop to host mode or back (R641). -/
def execSrcSwitch (c : Chan) (v : Word) (s : State) : Out State :=
  awake s (if srcRuns (oldSrc s c) && srcRuns (newSrc c v) && oldSrc s c != newSrc c v then fieldAt s .hostPrimary (R.CH_MOD c) fun t => chModWrite t c v else s)

/-- FAULT_INPUT_ACCEPT: a fault or trip input becomes active (R174 to R187). -/
def execFaultInputAccept (src : FaultSrc) (s : State) : Out State := awake s (faultAccept s src)

/-- FAULT_INPUT_RELEASE: a fault or trip input becomes inactive (R174). -/
def execFaultInputRelease (src : FaultSrc) (s : State) : Out State := awake s (faultRelease s src)

/-- BLANK_WINDOW_END (R178). -/
def execBlankWindowEnd (l : Leg) (s : State) : Out State := awake s (blankEnd s l)

/-- SAFE_LO_ON: Tin Soldier turns LO on in the LOW states (R191). -/
def execSafeLoOn (c : Chan) (s : State) : Out State := awake s (safeLoOn s c)

/-- SAFE_HOLD_END: HOLD of LOW_THEN_OFF expires (R189). -/
def execSafeHoldEnd (c : Chan) (s : State) : Out State := awake s (safeHoldEnd s c)

/-- LATCH_CLEAR: a write of CH_TCLR with CLR (R195). -/
def execLatchClear (c : Chan) (s : State) : Out State := awake s (fieldAt s .hostPrimary (R.CH_TCLR c) fun t => latchClear t c)

/-- LATCH_FORCE: a write of CH_TCLR with FORCE (R188). -/
def execLatchForce (c : Chan) (s : State) : Out State := awake s (fieldAt s .hostPrimary (R.CH_TCLR c) fun t => latchForce t c)

/-- DEVICE_SAFE_CLEAR: a write of TS_CTRL with CLR (R202). -/
def execDeviceSafeClear (s : State) : Out State := awake s (fieldAt s .hostPrimary R.TS_CTRL deviceClear)

/-- DEVICE_SAFE_FORCE: a write of TS_CTRL with FORCE (R197). -/
def execDeviceSafeForce (s : State) : Out State := awake s (fieldAt s .hostPrimary R.TS_CTRL deviceForce)

/-- LIMITS_LOCK: a write of TS_CTRL with LOCK (R210). -/
def execLimitsLock (s : State) : Out State := awake s (fieldAt s .hostPrimary R.TS_CTRL limitsLock)

/-- CLOCK_MONITOR_WINDOW: a frequency window of Tin Soldier ends with a count of the clock's cycles (R203, R204). The Twin Link clock is not
monitored while the link is powered down (R587); its failure takes the link down (R387). -/
def execClockMonitorWindow (clk : Nat) (count : Nat) (s : State) : Out State :=
  awake s (if clk = 6 ∧ pairEn s = false then s
    else
      let t := clockWindow s clk count
      if clk = 6 ∧ 2 ≤ t.safe.bad.getD 6 0 then twinClockLost t else t)

/-- PWM_ACTIVITY_TIMEOUT: no activity word for 3 SAFE cycles (R205). -/
def execPwmActivityTimeout (s : State) : Out State := awake s (pwmSilence s)

/-- MEDIA_PLL_UNLOCK (R197, R585). -/
def execMediaPllUnlock (s : State) : Out State := awake s (mediaUnlock s)

/-- DIE_TEMP_MEASURE (R206). -/
def execDieTempMeasure (t : Int) (s : State) : Out State := awake s (dieTemp s t)

/-- DEBUG_HALT (R37, R207), where the debug access port is open (R575). -/
def execDebugHalt (p : Proc) (s : State) : Out State := awake s (if debugAccess s then debugHalt s p else s)

/-- LOCKSTEP_MISMATCH: the two Tin Soldier cores disagree (R197). -/
def execLockstepMismatch (s : State) : Out State := awake s (lockstep s)

end Sys2Proof.Machine
end

