-- ==== Sys2Proof/Machine/HostCmds.lean ====
section
/-! DEFINITION. HostCmds.lean: the commands of the host bus (13), the plain register accesses (00), and the fabric (14). -/

set_option Elab.async false

namespace Sys2Proof.Machine

/-- REGISTER_WRITE: a granted access of a register under its access codes (R13, R450). The production test registers that BLANK opens to
the debug access port are refused by name: the spec says nothing of them (R635). -/
def execRegisterWrite (path : Path) (p : Word16) (v : Word) (s : State) : Out State :=
  if testRegister s path p.toNat then .refused .testRegister
  else awake s (regWrite (popCommit s path p.toNat v) path p.toNat v)

/-- W1C_CLEAR: a write of 1 to flag bits clears them, but for those that hardware sets in the same cycle (R15). -/
def execW1cClear (path : Path) (p : Word16) (mask hwset : Word) (s : State) : Out State :=
  awake s (w1cClear (granted s p.toNat) p.toNat (if writable s path p.toNat then mask else 0) hwset)

/-- HOST_START (R440, R453). -/
def execHostStart (s : State) : Out State := awake s (hostStart s)
/-- HOST_ADDRESS: an address byte, with the error pattern that the word of a read's first fetch meets on its way (R440 to R443, R457). -/
def execHostAddress (b : Byte) (err : BitVec 145) (s : State) : Out State := awake s (hostAddress s b err)
/-- HOST_BYTE_WRITE (R447 to R450). -/
def execHostByteWrite (b : Byte) (s : State) : Out State := awake s (hostByteWrite s b)
/-- HOST_BYTE_READ: a byte is sent, with the error pattern that the word of the next fetch, where one follows, meets on its way (R453 to
R457). -/
def execHostByteRead (ack : Bool) (err : BitVec 145) (s : State) : Out State := awake s (hostByteRead s ack err)
/-- HOST_STOP (R451, R464). -/
def execHostStop (midByte : Bool) (s : State) : Out State := awake s (hostStop s midByte)
/-- HOST_REPEATED_START (R458). -/
def execHostRepeatedStart (midByte : Bool) (s : State) : Out State := awake s (hostRepeatedStart s midByte)
/-- COMMIT_END (R451, R468, R550). -/
def execCommitEnd (s : State) : Out State := awake s (commitEnd s)
/-- SCL_TIMEOUT (R467). -/
def execSclTimeout (s : State) : Out State := awake s (lineTimeout s G.HST_SCL_TMO)
/-- SDA_TIMEOUT (R467). -/
def execSdaTimeout (s : State) : Out State := awake s (lineTimeout s G.HST_SDA_TMO)
/-- IBR_START (R462). -/
def execIbrStart (s : State) : Out State := awake s (ibrStart s)
/-- IBR_END (R462). -/
def execIbrEnd (s : State) : Out State := awake s (ibrEnd s)
/-- REQ_COLLIDE (R463). -/
def execReqCollide (s : State) : Out State := awake s (reqCollide s)

/-- FABRIC_GRANT: a target port grants a request by class (R494). A standing request that writes a production test register is refused by
name (R635). -/
def execFabricGrant (port : Fin 15) (reqs : List FabReq) (s : State) : Out State :=
  if (reqs.filter (requestStands s port)).any (reqTests s) then .refused .testRegister else awake s (fabricGrant s port reqs)
/-- FABRIC_RESPONSE (R493). -/
def execFabricResponse (m : Fin 9) (data : List Quad) (errs : List (BitVec 145)) (s : State) : Out State :=
  awake s (fabricResponse s m data errs)
/-- FABRIC_TIMEOUT (R495). -/
def execFabricTimeout (port : Fin 15) (s : State) : Out State := awake s (fabricTimeout s port)
/-- PORT_PROBE (R495). -/
def execPortProbe (answered : List (Fin 15)) (s : State) : Out State := awake s (portProbe s (answered.map (·.val)))
/-- MASTER_RESET (R498). -/
def execMasterReset (m : Fin 9) (beats : Nat) (s : State) : Out State := awake s (masterReset s m beats)
/-- FAB_ELOG_READ: a read of FAB_ELOG0 (R492). -/
def execFabElogRead (s : State) : Out State := awake s (readAt s .hostPrimary R.FAB_ELOG0 fun t => latchRead t 0 R.FAB_ELOG0 1)

end Sys2Proof.Machine
end

