-- ==== Sys2Proof/Machine/LaneCmds.lean ====
section
/-! DEFINITION. LaneCmds.lean: the instructions of the Marionette lanes and the commands of loop operation (07, 08). -/

set_option Elab.async false

namespace Sys2Proof.Machine

/-- NOP (R255). -/
def execNop (n : Lane) (s : State) : Out State := awake s (laneNop s n)
/-- MAC (R255 to R257). -/
def execMac (n : Lane) (s : State) : Out State := awake s (laneMac s n)
/-- MACD (R251, R255). -/
def execMacd (n : Lane) (s : State) : Out State := awake s (laneMacd s n)
/-- INTG (R258 to R260). -/
def execIntg (n : Lane) (s : State) : Out State := awake s (laneIntg s n)
/-- WAIT (R261). -/
def execWait (n : Lane) (s : State) : Out State := awake s (laneWait s n)
/-- WAIT_COMPLETE (R261). -/
def execWaitComplete (n : Lane) (s : State) : Out State := awake s (laneWaitComplete s n)
/-- OUT (R262, R263). -/
def execOut (n : Lane) (s : State) : Out State := awake s (laneOut s n)
/-- SKIPO (R265). -/
def execSkipo (n : Lane) (s : State) : Out State := awake s (laneSkipo s n)
/-- END (R255). -/
def execEndProgram (n : Lane) (s : State) : Out State := awake s (laneEnd s n)
/-- LANE_OVERRUN: the lane abandons its update where it has not ended it (R266). -/
def execLaneOverrun (n : Lane) (s : State) : Out State := awake s (laneOverrun s n)

/-- LANE_SWAPNOW: a write of LPE_CTRL with SWAPNOW (R272). -/
def execLaneSwapnow (c : Chan) (s : State) : Out State := awake s (fieldAt s .hostPrimary (R.LPE_CTRL c) fun t => swapNow t c)
/-- COEF_WRITE: a write of LPE_CWR (R274). -/
def execCoefWrite (c : Chan) (v : Word) (s : State) : Out State := awake s (fieldAt s .hostPrimary (R.LPE_CWR c) fun t => coefWrite t c v)
/-- LANE_NEXT_WRITE: a write through an LPE_PDATA alias (R268). -/
def execLaneNextWrite (c : Chan) (v : Word) (s : State) : Out State := awake s (aliasAt s .hostPrimary (R.LPE_PDATA c) fun t => lanePdataWrite t c v)
/-- LANE_NEXT_READ: a whole read through an LPE_PDATA alias (R268). -/
def execLaneNextRead (c : Chan) (s : State) : Out State := awake s (readAt s .hostPrimary (R.LPE_PDATA c) fun t => lanePdataRead t c)
/-- LANE_LIVE_READ: a whole read through an LPE_LDATA alias (R268). -/
def execLaneLiveRead (c : Chan) (s : State) : Out State := awake s (readAt s .hostPrimary (R.LPE_LDATA c) fun t => laneLdataRead t c)

/-- SHADOW_SLOT_OPEN (R297 to R300). -/
def execShadowSlotOpen (s : State) : Out State := awake s (shadowSlotOpen s)
/-- SELF_TEST_DONE (R301). -/
def execSelfTestDone (n : Lane) (pass : Bool) (s : State) : Out State := awake s (selfTestDone s n pass)
/-- CONFIRM_SHADOW_END (R302). -/
def execConfirmShadowEnd (s : State) : Out State := awake s (confirmEnd s)
/-- LANE_UE: an uncorrectable error in a lane (R303). -/
def execLaneUe (n : Lane) (s : State) : Out State := awake s (laneUe s n)
/-- FORCED_SWAP: a write of LANE_SHD with FSWAP (R304). -/
def execForcedSwap (s : State) : Out State := awake s (fieldAt s .hostPrimary R.LANE_SHD forcedSwap)

/-- TRACE_ARM: a write of TRC_CTRL with ARM (R308). -/
def execTraceArm (b : Buf) (s : State) : Out State := awake s (fieldAt s .hostPrimary (R.TRC_CTRL b) fun t => traceArm t b)
/-- TRACE_FORCE: a write of TRC_CTRL with FORCE (R309). -/
def execTraceForce (b : Buf) (s : State) : Out State := awake s (fieldAt s .hostPrimary (R.TRC_CTRL b) fun t => traceForce t b)
/-- TRACE_STOP: a write of TRC_CTRL with STOP (R310). -/
def execTraceStop (b : Buf) (s : State) : Out State := awake s (fieldAt s .hostPrimary (R.TRC_CTRL b) fun t => traceStop t b)
/-- TRACE_READ: a whole read of TRC_RDATA (R312). -/
def execTraceRead (s : State) : Out State := awake s (readAt s .hostPrimary R.TRC_RDATA traceRead)

/-- CLR_PK: a write of LPE_OCTL with CLR_PK (R296). -/
def execClrPk (c : Chan) (s : State) : Out State := awake s (fieldAt s .hostPrimary (R.LPE_OCTL c) fun t => clrPk t c)
/-- CLR_MIN: a write of LPE_OCTL with CLR_MIN (R288). -/
def execClrMin (c : Chan) (s : State) : Out State := awake s (fieldAt s .hostPrimary (R.LPE_OCTL c) fun t => clrMin t c)
/-- INJECTION_TOGGLE (R313). -/
def execInjectionToggle (c : Chan) (s : State) : Out State := awake s (injectionToggle s c)

end Sys2Proof.Machine
end

