-- ==== Sys2Proof/Machine/MemoryCmds.lean ====
section
/-! DEFINITION. MemoryCmds.lean: the commands of memory integrity, background work and the flash (15, 16). -/

set_option Elab.async false

namespace Sys2Proof.Machine

/-- CE_WRITEBACK: a corrected word is written back (R509). -/
def execCeWriteback (b w : Nat) (s : State) : Out State := awake s (writeBack s b w)
/-- SCRUB_STEP: a scrub step that is due (R513, R514). Words in `struck` are in error before it. -/
def execScrubStep (struck : List (Nat × Nat × BitVec 145)) (s : State) : Out State :=
  awake s (if 0 < s.bkg.scrubDue then scrubStep s struck else struckWords s struck)
/-- REPAIR_COPY: a repair in bank b ends its copy (R515 to R517). -/
def execRepairCopy (b : Nat) (s : State) : Out State := awake s (repairCopy s b)
/-- LOG_STATE_RECORD (R526). -/
def execLogStateRecord (s : State) : Out State := awake s (logState s)
/-- LOG_EVENT_RECORDS (R526). -/
def execLogEventRecords (s : State) : Out State := awake s (logEvents s)
/-- LOG_FLUSH: a write of BKG_CTRL with FLUSH (R526). -/
def execLogFlush (s : State) : Out State := awake s (fieldAt s .hostPrimary R.BKG_CTRL logFlush)
/-- FLASH_OP_DONE: a program or erase of the flash ends (R525, R544). -/
def execFlashOpDone (ok : Bool) (s : State) : Out State := awake s (flashDone s ok)
/-- MEM_ELOG_READ: a read of MEM_ELOG0 (R529). -/
def execMemElogRead (s : State) : Out State := awake s (readAt s .hostPrimary R.MEM_ELOG0 fun t => latchRead t 0 R.MEM_ELOG0 1)
/-- BKG_LOG_READ: a read of BKG_LOG0 (R529). -/
def execBkgLogRead (s : State) : Out State := awake s (readAt s .hostPrimary R.BKG_LOG0 fun t => latchRead t 0 R.BKG_LOG0 2)
/-- ERROR_INJECT_ARM: a write of MEM_INJ (R575). -/
def execErrorInjectArm (v : Word) (s : State) : Out State := awake s (fieldAt s .hostPrimary R.MEM_INJ fun t => injectArm t v)

/-- QSPI_PROGRAM: a write of QSPI_CTRL with GO and OP program (R544, R545). -/
def execQspiProgram (s : State) : Out State := awake s (fieldAt s .hostPrimary R.QSPI_CTRL fun t => qspiStart t 1)
/-- QSPI_ERASE: a write of QSPI_CTRL with GO and OP erase (R544, R545). -/
def execQspiErase (s : State) : Out State := awake s (fieldAt s .hostPrimary R.QSPI_CTRL fun t => qspiStart t 2)
/-- QSPI_READ_STATUS: a write of QSPI_CTRL with GO and OP read status (R544). -/
def execQspiReadStatus (sr1 : Byte) (s : State) : Out State := awake s (fieldAt s .hostPrimary R.QSPI_CTRL fun t => qspiStatus t sr1)
/-- QSPI_BUFFER_WRITE: a write through a QSPI_BDATA alias (R549). -/
def execQspiBufferWrite (v : Word) (s : State) : Out State := awake s (aliasAt s .hostPrimary R.QSPI_BDATA fun t => qspiBufWrite t v)
/-- QSPI_BUFFER_READ: a whole read through a QSPI_BDATA alias (R549). -/
def execQspiBufferRead (s : State) : Out State := awake s (readAt s .hostPrimary R.QSPI_BDATA qspiBufRead)

end Sys2Proof.Machine
end

