-- ==== Sys2Proof/Machine/RingCmds.lean ====
section
/-! DEFINITION. RingCmds.lean: the commands of the command and telemetry rings (14). -/

set_option Elab.async false

namespace Sys2Proof.Machine

/-- RING_STAGE_WRITE: a write of RNG_WDATA word w, 0 to 2 (R488). -/
def execRingStageWrite (path : Path) (r : Ring) (w : Fin 3) (v : Word) (s : State) : Out State :=
  awake s (fieldAt s path (R.RNG_WDATA0 r + 4 * w) fun t =>
    ringStage t (hostSide (pathAt s path (R.RNG_WDATA0 r + 4 * w))) r w v)
/-- RING_PUSH: a write of RNG_WDATA word 3 (R476, R488). -/
def execRingPush (path : Path) (r : Ring) (v : Word) (s : State) : Out State := awake s (fieldAt s path (R.RNG_WDATA3 r) fun t =>
    ringPush t (hostSide (pathAt s path (R.RNG_WDATA3 r))) r v)
/-- RING_FETCH: a whole read of RNG_RDATA word 0 (R488). -/
def execRingFetch (path : Path) (r : Ring) (s : State) : Out State := awake s (readAt s path (R.RNG_RDATA0 r) fun t => ringFetch t (hostSide path) r)
/-- RING_CONSUME: a whole read of RNG_RDATA word 3 (R488). -/
def execRingConsume (path : Path) (r : Ring) (s : State) : Out State := awake s (readAt s path (R.RNG_RDATA3 r) fun t => ringConsume t (hostSide path) r)
/-- RING_CONFIG: a write of RNG_CFG (R474 to R476). -/
def execRingConfig (r : Ring) (v : Word) (s : State) : Out State := awake s (fieldAt s .hostPrimary (R.RNG_CFG r) fun t => ringConfig t r v)

/-- The head entry of CMD ring c is performed, where one is eligible at this boundary and has the type (R479, R480). -/
def cmdEntry (s : State) (c : Chan) (type : Nat) : State :=
  if 0 < cmdEligible s c ∧ cmdHeadType s c = type then cmdRun 1 s c else s

/-- REGW: one register write (R480, R481). -/
def execRegw (c : Chan) (s : State) : Out State := awake s (cmdEntry s c 1)
/-- REGW2: two register writes (R480, R481). -/
def execRegw2 (c : Chan) (s : State) : Out State := awake s (cmdEntry s c 2)
/-- FENCE: a FENCE entry in the channel's TEL ring (R480, R482). -/
def execFence (c : Chan) (s : State) : Out State := awake s (cmdEntry s c 3)

/-- TEL_ENTRY_PRODUCE (R486). -/
def execTelEntryProduce (c : Chan) (type : Byte) (payload : List Word) (s : State) : Out State :=
  awake s (telProduce s c type.toNat payload)
/-- TELEMETRY_COLLECT: Wind-up's LOOP entries, where they are due (R483). -/
def execTelemetryCollect (s : State) : Out State := awake s (if s.bkg.telDue then telemetryCollect s else s)

end Sys2Proof.Machine
end

