-- ==== Sys2Proof/Machine/SenseCmds.lean ====
section
/-! DEFINITION. SenseCmds.lean: the commands of the sense chain (06). -/

set_option Elab.async false

namespace Sys2Proof.Machine

/-- CONVERSION_END: a slice finishes a conversion (R215, R221). -/
def execConversionEnd (n : Slice) (raw : Word16) (err : Bool) (s : State) : Out State := awake s (conversionEnd s n raw err)

/-- RETRY_END: a retry finishes (R222). -/
def execRetryEnd (n : Slice) (raw : Word16) (err : Bool) (s : State) : Out State := awake s (retryEnd s n raw err)

/-- DECIMATOR_OUTPUT: a 192 kHz value of every input for GD4 (R220). -/
def execDecimatorOutput (s : State) : Out State := awake s (decimate s)

/-- STARTUP_CAL_DONE: the start-up calibration completes (R225). -/
def execStartupCalDone (o : List CalOutcome) (s : State) : Out State := awake s (startupCal s o)

/-- ROTATION_STEP_START (R227). -/
def execRotationStepStart (s : State) : Out State := awake s (rotationStart s)

/-- ROTATION_OVERLAP_END (R227, R228). -/
def execRotationOverlapEnd (s : State) : Out State := awake s (rotationOverlapEnd s)

/-- SLICE_CAL_DONE (R226, R227). -/
def execSliceCalDone (o : CalOutcome) (s : State) : Out State := awake s (sliceCalDone s o)

/-- RAIL_CONVERSION (R238 to R240). -/
def execRailConversion (n : Fin 4) (code : BitVec 12) (s : State) : Out State := awake s (railConversion s n code.toNat)

/-- CAL_RESULT_READ: a read of SNS_CALR0 (R243). -/
def execCalResultRead (s : State) : Out State := awake s (readAt s .hostPrimary R.SNS_CALR0 calRead)

end Sys2Proof.Machine
end

