-- ==== Sys2Proof/Machine/SpeakerCmds.lean ====
section
/-! DEFINITION. SpeakerCmds.lean: the commands of speaker models, protection and diagnostics (09, 10). -/

set_option Elab.async false

namespace Sys2Proof.Machine

/-- VENT_UNIT_COMPLETE: a core's unit delivers its gains through GD2 (R317, R339). -/
def execVentUnitComplete (k : Fin 2) (cycles : Nat) (s : State) : Out State := awake s (ventUnit s k cycles)
/-- CONE_STEP: a 192 kHz period of both cone instances (R325). -/
def execConeStep (c : Chan) (s : State) : Out State := awake s (conePeriod s c)
/-- RE_ESTIMATE (R330, R332). -/
def execReEstimate (c : Chan) (s : State) : Out State := awake s (reEstimate s c)
/-- ID_PUBLISH (R333 to R335). -/
def execIdPublish (c : Chan) (s : State) : Out State := awake s (idPublish s c)
/-- VENT_CORE_UE: an uncorrectable error in a Ventriloquist core (R346). -/
def execVentCoreUe (k : Fin 2) (s : State) : Out State := awake s (ventCoreUe s k)

/-- SPK_NEXT_WRITE: a write through an SPK_PDATA alias (R321, R322). -/
def execSpkNextWrite (c : Chan) (v : Word) (s : State) : Out State := awake s (aliasAt s .hostPrimary (R.SPK_PDATA c) fun t => spkPdataWrite t c v)
/-- SPK_NEXT_READ: a whole read through an SPK_PDATA alias (R321). -/
def execSpkNextRead (c : Chan) (s : State) : Out State := awake s (readAt s .hostPrimary (R.SPK_PDATA c) fun t => spkPdataRead t c)
/-- SPK_LIVE_READ: a whole read through an SPK_LDATA alias (R321). -/
def execSpkLiveRead (c : Chan) (s : State) : Out State := awake s (readAt s .hostPrimary (R.SPK_LDATA c) fun t => spkLdataRead t c)
/-- CLR_LOAD: a write of VENT_CTRL with CLR_LOAD (R339). -/
def execClrLoad (s : State) : Out State := awake s (fieldAt s .hostPrimary R.VENT_CTRL clrLoad)
/-- TEMP_RESULT_READ: a read of SPK_TRES0 (R349). -/
def execTempResultRead (c : Chan) (s : State) : Out State := awake s (readAt s .hostPrimary (R.SPK_TRES0 c) fun t => latchRead t 0 (R.SPK_TRES0 c) 1)
/-- ID_RESULT_READ: a read of SPK_IDR0 (R349). -/
def execIdResultRead (c : Chan) (s : State) : Out State := awake s (readAt s .hostPrimary (R.SPK_IDR0 c) fun t => latchRead t 0 (R.SPK_IDR0 c) 5)

/-- LOAD_WINDOW_END: a diagnosis window ends (R358 to R362). -/
def execLoadWindowEnd (c : Chan) (s : State) : Out State := awake s (loadWindowEnd s c)
/-- SWEEP_START: a write of DIA_SWCTRL with START (R363). -/
def execSweepStart (c : Chan) (s : State) : Out State := awake s (fieldAt s .hostPrimary (R.DIA_SWCTRL c) fun t => sweepStart t c)
/-- SWEEP_ABORT: a write of DIA_SWCTRL with ABORT (R367). -/
def execSweepAbort (c : Chan) (s : State) : Out State := awake s (fieldAt s .hostPrimary (R.DIA_SWCTRL c) fun t => sweepAbort t c)
/-- SWEEP_PHASE_END: a phase of a sweep ends (R364 to R366). -/
def execSweepPhaseEnd (c : Chan) (s : State) : Out State := awake s (sweepPhaseEnd s c)
/-- DIA_RESULT_READ: a read of DIA_PRES0, DIA_LRES0 or DIA_SWSUM0 (R370). -/
def execDiaResultRead (path : Path) (c : Chan) (which : Fin 3) (s : State) : Out State :=
  awake s (readAt s path (if which = 0 then R.DIA_PRES0 c else if which = 1 then R.DIA_LRES0 c else R.DIA_SWSUM0 c) fun t =>
    diaRead t (sideOf path) c which)
/-- SWEEP_DATA_READ: a whole read through a DIA_SWDATA alias (R374). -/
def execSweepDataRead (c : Chan) (s : State) : Out State := awake s (readAt s .hostPrimary (R.DIA_SWDATA c) fun t => sweepDataRead t c)

end Sys2Proof.Machine
end

