-- ==== Sys2Proof/Machine/StartCmds.lean ====
section
/-! DEFINITION. StartCmds.lean: the commands of reset, start-up and the life cycle (17), and of clocks and power (18). -/

set_option Elab.async false

namespace Sys2Proof.Machine

/-- POWER_UP: the device is held in reset with the source POWER (R550). -/
def execPowerUp (s : State) : Out State := .next (enterReset s rstPower)
/-- SUPPLY_FALL: a supply detector falls (R550, R553). -/
def execSupplyFall (s : State) : Out State := .next (enterReset s rstSupply)
/-- RESET_PIN: RESET_N is low for 1 µs; of a shorter pulse the operand says whether it is accepted (R550, R645). -/
def execResetPin (accepted : Bool) (s : State) : Out State := .next (if accepted then enterReset s rstPin else s)
/-- SOFT_RESET: a write of SYS_CTRL with RST_KEY and SWRST, acting at the end of the commit when it is the host's (R550). -/
def execSoftReset (s : State) : Out State := awake s (fieldAt s .mgmtCore R.SYS_CTRL fun t => writeCtrl t (pathAt s .mgmtCore R.SYS_CTRL) 0x1A5#32)
/-- DEBUG_RESET: a system reset request through the debug access port, where it is open (R550, R575). -/
def execDebugReset (s : State) : Out State := awake s (if debugAccess s then enterReset s rstDebug else s)
/-- MGMT_WATCHDOG_RESET: the management core alone is reset (R39, R498). -/
def execMgmtWatchdogReset (s : State) : Out State := awake s (mgmtReset s)
/-- RESET_RELEASE: the internal reset ends (R551). -/
def execResetRelease (x : Straps) (s : State) : Out State := .next (resetRelease s x)
/-- WIPE_COMPLETE: the wipe and its read-back end (R510, R511). -/
def execWipeComplete (us : Nat) (bad : List (Nat × Nat)) (s : State) : Out State := awake s (wipeComplete s us bad)
/-- SCAN_COMPLETE: JEDEC ID, log scan and slot checks end (R527, R538). -/
def execScanComplete (id : BitVec 24) (sectors : List (List Byte)) (a b : List Byte) (s : State) : Out State :=
  awake s (scanComplete s id.toNat sectors a b)
/-- CANDIDATE_LOAD_END (R539 to R541). -/
def execCandidateLoadEnd (bytes : List Byte) (s : State) : Out State := awake s (candidateLoadEnd s bytes)
/-- FW_TIMEOUT (R558). -/
def execFwTimeout (s : State) : Out State := awake s (fwTimeout s)
/-- REL_START: a write of CH_MUTE with REL_START (R563). -/
def execRelStart (c : Chan) (s : State) : Out State := awake s (fieldAt s .hostPrimary (R.CH_MUTE c) fun t => relStart t c)
/-- LIFECYCLE_REQUEST: a write of SYS_LCREQ (R573). -/
def execLifecycleRequest (path : Path) (v : Word) (s : State) : Out State := awake s (fieldAt s path R.SYS_LCREQ fun t => lcRequest t (pathAt s path R.SYS_LCREQ) v)
/-- FUSE_BLOW_DONE (R573). -/
def execFuseBlowDone (ok : Bool) (s : State) : Out State := awake s (fuseBlowDone s ok)
/-- CREDENTIAL_PRESENT (R572). -/
def execCredentialPresent (bytes : List Byte) (s : State) : Out State := awake s (credential s bytes)
/-- FUSE_PROGRAM (R574). -/
def execFuseProgram (what : FuseWrite) (s : State) : Out State := awake s (fuseProgram s what)
/-- DEBUG_RELEASE: processors held in DBGWAIT, or halted, run again (R561), where the debug access port is open (R575). -/
def execDebugRelease (s : State) : Out State := awake s (if debugAccess s then debugRelease s else s)
/-- BOUNDARY_SCAN_LOAD (R575). -/
def execBoundaryScanLoad (s : State) : Out State := awake s (boundaryScanLoad s)

/-- MEDIA_PLL_LOCK (R555, R584). -/
def execMediaPllLock (s : State) : Out State := awake s (mediaLock s)
/-- PLL_LOCK (R585). -/
def execPllLock (p : Pll) (s : State) : Out State := awake s (match p with | .twin => twinPllLock s | .network | .system => pllLock s p)
/-- PLL_UNLOCK (R585); without its PLL the Twin Link is down (R387). -/
def execPllUnlock (p : Pll) (s : State) : Out State :=
  awake s (match p with | .twin => twinClockLost (pllUnlock s .twin) | .network | .system => pllUnlock s p)
/-- SAFE_WATCHDOG_TRIP (R586). -/
def execSafeWatchdogTrip (s : State) : Out State := awake s (safeWatchdog s)
/-- CLOCK_MEASURE (R598). -/
def execClockMeasure (count : Nat) (s : State) : Out State := awake s (clockMeasure s count)
/-- REF_SLEW_STEP (R583). -/
def execRefSlewStep (s : State) : Out State := awake s (refSlew s)

end Sys2Proof.Machine
end

