-- ==== Sys2Proof/Machine/StringsCmds.lean ====
section
/-! DEFINITION. StringsCmds.lean: the commands of clusters and the Strings ring (12). -/

set_option Elab.async false

namespace Sys2Proof.Machine

/-- RING_FRAME_START: the ring master sends this block's frame (R418, R420). -/
def execRingFrameStart (s : State) : Out State := awake s (frameStart s)
/-- RING_FRAME_RX: a frame passes this node (R421, R422). -/
def execRingFrameRx (f : RingFrame) (s : State) : Out State := awake s (frameRx s f)
/-- RING_FRAME_RETURN: a copy of the frame returns to the master (R429, R435). -/
def execRingFrameReturn (f : RingFrame) (up : Bool) (s : State) : Out State := awake s (frameReturn s f up)
/-- RING_LOST_TIMEOUT (R423). -/
def execRingLostTimeout (s : State) : Out State := awake s (ringLostTimeout s)
/-- STR_PORT_FAIL: code violations of one block on a port, or its loss of alignment or of SOFs (R417, R428). -/
def execStrPortFail (up : Bool) (codes : Nat) (lost : Bool) (s : State) : Out State := awake s (portFail s up codes lost)
/-- STR_PORT_GOOD (R417, R430). -/
def execStrPortGood (up : Bool) (s : State) : Out State := awake s (portGood s up)
/-- ADDRESS_TIMEOUT (R424). -/
def execAddressTimeout (n : Fin 32) (s : State) : Out State := awake s (addressTimeout s n)
/-- FORWARDING_START (R416). -/
def execForwardingStart (s : State) : Out State := awake s (forwardingStart s)

/-- STR_REGW: a REGW command of the ring at this node (R432, R433). -/
def execStrRegw (cseq : Word16) (p : List Byte) (s : State) : Out State :=
  awake s (onceOnly s cseq.toNat fun t => applyRegw t cseq.toNat p)
/-- STR_RINGW (R433, R478). -/
def execStrRingw (cseq : Word16) (p : List Byte) (s : State) : Out State :=
  awake s (onceOnly s cseq.toNat fun t => applyRingw t cseq.toNat p)
/-- STR_COMMIT (R432 to R434). -/
def execStrCommit (cseq : Word16) (p : List Byte) (s : State) : Out State :=
  awake s (onceOnly s cseq.toNat fun t => applyCommit t cseq.toNat p)
/-- STR_ABORT (R432). -/
def execStrAbort (cseq : Word16) (s : State) : Out State := awake s (onceOnly s cseq.toNat fun t => applyAbort t cseq.toNat)
/-- UNFOLD (R430). -/
def execUnfold (cseq : Word16) (p : List Byte) (s : State) : Out State :=
  awake s (onceOnly s cseq.toNat fun t => applyUnfold t cseq.toNat p)
/-- ASSIGN (R427). -/
def execAssign (cseq : Word16) (p : List Byte) (s : State) : Out State :=
  awake s (onceOnly s cseq.toNat fun t => applyAssign t cseq.toNat p)

/-- CMD_QUEUE_GO: a write of MGR_CQCTRL (R439). -/
def execCmdQueueGo (v : Word) (s : State) : Out State := awake s (fieldAt s .hostManager R.MGR_CQCTRL fun t => writeCqctrl t v)
/-- NODE_SLOT_READ: a read of the first word of a MGR_NODE slot (R439). -/
def execNodeSlotRead (n : Fin 32) (s : State) : Out State := awake s (readAt s .hostManager (R.MGR_NODE (16 * n)) fun t => nodeSlotRead t 0 n)
/-- CMD_RESULT_READ: a read of MGR_CQRES0 (R439). -/
def execCmdResultRead (s : State) : Out State := awake s (readAt s .hostManager R.MGR_CQRES0 fun t => cmdResultRead t 0)

end Sys2Proof.Machine
end

