-- ==== Sys2Proof/Machine/TwinCmds.lean ====
section
/-! DEFINITION. TwinCmds.lean: the commands of twin pairs and takeover (11). -/

set_option Elab.async false

namespace Sys2Proof.Machine

/-- HB_IN_EDGE (R380). -/
def execHbInEdge (gapUs : Nat) (s : State) : Out State := awake s (hbEdge s gapUs)
/-- HB_TIMEOUT (R380). -/
def execHbTimeout (s : State) : Out State := awake s (hbTimeout s)
/-- MSG_TIMEOUT (R381). -/
def execMsgTimeout (s : State) : Out State := awake s (msgTimeout s)
/-- MARK_RX (R392, R394). -/
def execMarkRx (rx : LinkRx) (err : Int) (s : State) : Out State :=
  awake s (frameUsed s frMark rx fun t => markRx t rx.head.blk.toNat err)
/-- HBM_RX (R388, R403). -/
def execHbmRx (rx : LinkRx) (w : Quad) (s : State) : Out State := awake s (frameUsed s frHbm rx fun t => hbmRx t w)
/-- SNAP_RX (R396, R398). -/
def execSnapRx (rx : LinkRx) (x : Snap) (late : Bool) (s : State) : Out State := awake s (snapRx s rx x late)
/-- RSYNC_RX (R407). -/
def execRsyncRx (rx : LinkRx) (x : Resync) (s : State) : Out State := awake s (rsyncRx s rx x)
/-- RSREQ_RX (R407). -/
def execRsreqRx (rx : LinkRx) (s : State) : Out State := awake s (frameUsed s frRsreq rx rsreqRx)
/-- IDENT_RX (R389 to R391). -/
def execIdentRx (rx : LinkRx) (x : Ident) (s : State) : Out State := awake s (frameUsed s frIdent rx fun t => identRx t x)
/-- REFUSE_RX (R391). -/
def execRefuseRx (rx : LinkRx) (s : State) : Out State :=
  awake s (frameUsed s frRefuse rx fun t => refuseRx t (rx.head.flags.toNat % 16))
/-- IDENT_REPEAT (R391). -/
def execIdentRepeat (s : State) : Out State := awake s (identRepeat s)
/-- TWIN_LANE_FAIL (R387). -/
def execTwinLaneFail (n : Fin 2) (codes : Nat) (s : State) : Out State := awake s (laneFails s n codes)
/-- LINK_RETRAIN (R387). -/
def execLinkRetrain (s : State) : Out State := awake s (linkRetrain s)
/-- RETRAIN: a write of TWN_CTRL with RETRAIN (R389, R410). -/
def execRetrain (s : State) : Out State := awake s (fieldAt s .hostPrimary R.TWN_CTRL retrain)
/-- MARKER_TIMEOUT (R395). -/
def execMarkerTimeout (s : State) : Out State := awake s (markerTimeout s)
/-- CFG_DIGEST (R393, R408). -/
def execCfgDigest (s : State) : Out State := awake s (digestNow s)
/-- OWN_N_HIGH (R401). -/
def execOwnNHigh (s : State) : Out State := awake s (ownHigh s)
/-- CLAIM_CHECK (R401). -/
def execClaimCheck (high : Bool) (s : State) : Out State := awake s (claimCheck s high)
/-- OWN_N_LOW (R401). -/
def execOwnNLow (s : State) : Out State := awake s (ownLow s)
/-- HANDOVER: a write of TWN_CTRL with HANDOVER (R404). -/
def execHandover (s : State) : Out State := awake s (fieldAt s .hostPrimary R.TWN_CTRL handover)
/-- HANDOVER_HOLDOFF_END (R404). -/
def execHandoverHoldoffEnd (s : State) : Out State := awake s (holdoffEnd s)
/-- RESYNC_REQUEST: a write of TWN_CTRL with RESYNC (R409). -/
def execResyncRequest (s : State) : Out State := awake s (fieldAt s .hostPrimary R.TWN_CTRL resyncRequest)
/-- SETTLE_END (R409). -/
def execSettleEnd (s : State) : Out State := awake s (settleEnd s)
/-- TWIN_PLL_LOCK (R587). -/
def execTwinPllLock (s : State) : Out State := awake s (twinPllLock s)

end Sys2Proof.Machine
end

