-- ==== Sys2Proof/Machine/Dispatch.lean ====
section
/-! DEFINITION. Dispatch.lean: exec, one arm per command, each one direct call of its meaning. -/

namespace Sys2Proof.Machine

def exec (i : Instr) (s : State) : Host.Outcome State Fault Refusal :=
  match i with
  | .registerWrite path ptr val => Sys2Proof.Machine.execRegisterWrite path ptr val s
  | .w1cClear path ptr mask hwset => Sys2Proof.Machine.execW1cClear path ptr mask hwset s
  | .gateDeliver gate => Sys2Proof.Machine.execGateDeliver gate s
  | .updateBoundary => Sys2Proof.Machine.execUpdateBoundary s
  | .blockBoundary muteN => Sys2Proof.Machine.execBlockBoundary muteN s
  | .ptpAnnounceRx port domain announce => Sys2Proof.Machine.execPtpAnnounceRx port domain announce s
  | .ptpSyncRx port domain gm twoStep offset => Sys2Proof.Machine.execPtpSyncRx port domain gm twoStep offset s
  | .ptpFollowUpRx port domain gm offset => Sys2Proof.Machine.execPtpFollowUpRx port domain gm offset s
  | .ptpDelayRespRx port domain delay => Sys2Proof.Machine.execPtpDelayRespRx port domain delay s
  | .delayReqTx port => Sys2Proof.Machine.execDelayReqTx port s
  | .announceTimeout port => Sys2Proof.Machine.execAnnounceTimeout port s
  | .ppsInEdge => Sys2Proof.Machine.execPpsInEdge s
  | .ppsTimeout => Sys2Proof.Machine.execPpsTimeout s
  | .stepNow => Sys2Proof.Machine.execStepNow s
  | .ppsOutFall => Sys2Proof.Machine.execPpsOutFall s
  | .aes67PacketRx port dst udp ssrc ts samples => Sys2Proof.Machine.execAes67PacketRx port dst udp ssrc ts samples s
  | .ssrcTimeout stream => Sys2Proof.Machine.execSsrcTimeout stream s
  | .streamRxTimeout stream port => Sys2Proof.Machine.execStreamRxTimeout stream port s
  | .receiveRead => Sys2Proof.Machine.execReceiveRead s
  | .streamEnable stream val => Sys2Proof.Machine.execStreamEnable stream val s
  | .streamDisable stream val => Sys2Proof.Machine.execStreamDisable stream val s
  | .tdmFrameRx port bclks slots => Sys2Proof.Machine.execTdmFrameRx port bclks slots s
  | .tdmFsTimeout port => Sys2Proof.Machine.execTdmFsTimeout port s
  | .tdmLockLoss port => Sys2Proof.Machine.execTdmLockLoss port s
  | .tdmLockGain port rate => Sys2Proof.Machine.execTdmLockGain port rate s
  | .aes3SubframeRx rx sub word parityOk invalid => Sys2Proof.Machine.execAes3SubframeRx rx sub word parityOk invalid s
  | .aes3CsBlockRx rx bytes crcGood => Sys2Proof.Machine.execAes3CsBlockRx rx bytes crcGood s
  | .aes3Lock rx rate => Sys2Proof.Machine.execAes3Lock rx rate s
  | .aes3LockLoss rx => Sys2Proof.Machine.execAes3LockLoss rx s
  | .asrcLock domain => Sys2Proof.Machine.execAsrcLock domain s
  | .asrcUnlock domain => Sys2Proof.Machine.execAsrcUnlock domain s
  | .csSelect val => Sys2Proof.Machine.execCsSelect val s
  | .csDataRead => Sys2Proof.Machine.execCsDataRead s
  | .mixDataWrite val => Sys2Proof.Machine.execMixDataWrite val s
  | .mixDataRead => Sys2Proof.Machine.execMixDataRead s
  | .mbUnitComplete q => Sys2Proof.Machine.execMbUnitComplete q s
  | .laWrite c val => Sys2Proof.Machine.execLaWrite c val s
  | .bankWordWrite c val => Sys2Proof.Machine.execBankWordWrite c val s
  | .bankWordRead c => Sys2Proof.Machine.execBankWordRead c s
  | .sceneArm => Sys2Proof.Machine.execSceneArm s
  | .sceneAbort => Sys2Proof.Machine.execSceneAbort s
  | .blockIndexRead => Sys2Proof.Machine.execBlockIndexRead s
  | .mbCoreUe p => Sys2Proof.Machine.execMbCoreUe p s
  | .mbSwapRequest q => Sys2Proof.Machine.execMbSwapRequest q s
  | .kSelect val => Sys2Proof.Machine.execKSelect val s
  | .shadowWrite leg word onEdge => Sys2Proof.Machine.execShadowWrite leg word onEdge s
  | .hostCompareWrite leg word onEdge => Sys2Proof.Machine.execHostCompareWrite leg word onEdge s
  | .compareEdge leg => Sys2Proof.Machine.execCompareEdge leg s
  | .deadTimeEnd leg => Sys2Proof.Machine.execDeadTimeEnd leg s
  | .dlCalibrationStart => Sys2Proof.Machine.execDlCalibrationStart s
  | .dlCalibrationDone line delays => Sys2Proof.Machine.execDlCalibrationDone line delays s
  | .converterTrigger leg b => Sys2Proof.Machine.execConverterTrigger leg b s
  | .channelStart c val => Sys2Proof.Machine.execChannelStart c val s
  | .prechargeEnd c => Sys2Proof.Machine.execPrechargeEnd c s
  | .channelStop c val => Sys2Proof.Machine.execChannelStop c val s
  | .srcSwitch c val => Sys2Proof.Machine.execSrcSwitch c val s
  | .faultInputAccept src => Sys2Proof.Machine.execFaultInputAccept src s
  | .faultInputRelease src => Sys2Proof.Machine.execFaultInputRelease src s
  | .blankWindowEnd leg => Sys2Proof.Machine.execBlankWindowEnd leg s
  | .safeLoOn c => Sys2Proof.Machine.execSafeLoOn c s
  | .safeHoldEnd c => Sys2Proof.Machine.execSafeHoldEnd c s
  | .latchClear c => Sys2Proof.Machine.execLatchClear c s
  | .latchForce c => Sys2Proof.Machine.execLatchForce c s
  | .deviceSafeClear => Sys2Proof.Machine.execDeviceSafeClear s
  | .deviceSafeForce => Sys2Proof.Machine.execDeviceSafeForce s
  | .limitsLock => Sys2Proof.Machine.execLimitsLock s
  | .clockMonitorWindow clk count => Sys2Proof.Machine.execClockMonitorWindow clk count s
  | .pwmActivityTimeout => Sys2Proof.Machine.execPwmActivityTimeout s
  | .mediaPllUnlock => Sys2Proof.Machine.execMediaPllUnlock s
  | .dieTempMeasure t => Sys2Proof.Machine.execDieTempMeasure t s
  | .debugHalt proc => Sys2Proof.Machine.execDebugHalt proc s
  | .lockstepMismatch => Sys2Proof.Machine.execLockstepMismatch s
  | .conversionEnd slice raw err => Sys2Proof.Machine.execConversionEnd slice raw err s
  | .retryEnd slice raw err => Sys2Proof.Machine.execRetryEnd slice raw err s
  | .decimatorOutput => Sys2Proof.Machine.execDecimatorOutput s
  | .startupCalDone outcomes => Sys2Proof.Machine.execStartupCalDone outcomes s
  | .rotationStepStart => Sys2Proof.Machine.execRotationStepStart s
  | .rotationOverlapEnd => Sys2Proof.Machine.execRotationOverlapEnd s
  | .sliceCalDone outcome => Sys2Proof.Machine.execSliceCalDone outcome s
  | .railConversion n code => Sys2Proof.Machine.execRailConversion n code s
  | .calResultRead => Sys2Proof.Machine.execCalResultRead s
  | .nop lane => Sys2Proof.Machine.execNop lane s
  | .mac lane => Sys2Proof.Machine.execMac lane s
  | .macd lane => Sys2Proof.Machine.execMacd lane s
  | .intg lane => Sys2Proof.Machine.execIntg lane s
  | .wait lane => Sys2Proof.Machine.execWait lane s
  | .waitComplete lane => Sys2Proof.Machine.execWaitComplete lane s
  | .out lane => Sys2Proof.Machine.execOut lane s
  | .skipo lane => Sys2Proof.Machine.execSkipo lane s
  | .endProgram lane => Sys2Proof.Machine.execEndProgram lane s
  | .laneOverrun lane => Sys2Proof.Machine.execLaneOverrun lane s
  | .laneSwapnow c => Sys2Proof.Machine.execLaneSwapnow c s
  | .coefWrite c val => Sys2Proof.Machine.execCoefWrite c val s
  | .laneNextWrite c val => Sys2Proof.Machine.execLaneNextWrite c val s
  | .laneNextRead c => Sys2Proof.Machine.execLaneNextRead c s
  | .laneLiveRead c => Sys2Proof.Machine.execLaneLiveRead c s
  | .shadowSlotOpen => Sys2Proof.Machine.execShadowSlotOpen s
  | .selfTestDone lane pass => Sys2Proof.Machine.execSelfTestDone lane pass s
  | .confirmShadowEnd => Sys2Proof.Machine.execConfirmShadowEnd s
  | .laneUe lane => Sys2Proof.Machine.execLaneUe lane s
  | .forcedSwap => Sys2Proof.Machine.execForcedSwap s
  | .traceArm b => Sys2Proof.Machine.execTraceArm b s
  | .traceForce b => Sys2Proof.Machine.execTraceForce b s
  | .traceStop b => Sys2Proof.Machine.execTraceStop b s
  | .traceRead => Sys2Proof.Machine.execTraceRead s
  | .clrPk c => Sys2Proof.Machine.execClrPk c s
  | .clrMin c => Sys2Proof.Machine.execClrMin c s
  | .injectionToggle c => Sys2Proof.Machine.execInjectionToggle c s
  | .ventUnitComplete core cycles => Sys2Proof.Machine.execVentUnitComplete core cycles s
  | .coneStep c => Sys2Proof.Machine.execConeStep c s
  | .reEstimate c => Sys2Proof.Machine.execReEstimate c s
  | .idPublish c => Sys2Proof.Machine.execIdPublish c s
  | .ventCoreUe core => Sys2Proof.Machine.execVentCoreUe core s
  | .spkNextWrite c val => Sys2Proof.Machine.execSpkNextWrite c val s
  | .spkNextRead c => Sys2Proof.Machine.execSpkNextRead c s
  | .spkLiveRead c => Sys2Proof.Machine.execSpkLiveRead c s
  | .clrLoad => Sys2Proof.Machine.execClrLoad s
  | .tempResultRead c => Sys2Proof.Machine.execTempResultRead c s
  | .idResultRead c => Sys2Proof.Machine.execIdResultRead c s
  | .loadWindowEnd c => Sys2Proof.Machine.execLoadWindowEnd c s
  | .sweepStart c => Sys2Proof.Machine.execSweepStart c s
  | .sweepAbort c => Sys2Proof.Machine.execSweepAbort c s
  | .sweepPhaseEnd c => Sys2Proof.Machine.execSweepPhaseEnd c s
  | .diaResultRead path c which => Sys2Proof.Machine.execDiaResultRead path c which s
  | .sweepDataRead c => Sys2Proof.Machine.execSweepDataRead c s
  | .hbInEdge gapUs => Sys2Proof.Machine.execHbInEdge gapUs s
  | .hbTimeout => Sys2Proof.Machine.execHbTimeout s
  | .msgTimeout => Sys2Proof.Machine.execMsgTimeout s
  | .markRx rx err => Sys2Proof.Machine.execMarkRx rx err s
  | .hbmRx rx word => Sys2Proof.Machine.execHbmRx rx word s
  | .snapRx rx snap late => Sys2Proof.Machine.execSnapRx rx snap late s
  | .rsyncRx rx data => Sys2Proof.Machine.execRsyncRx rx data s
  | .rsreqRx rx => Sys2Proof.Machine.execRsreqRx rx s
  | .identRx rx ident => Sys2Proof.Machine.execIdentRx rx ident s
  | .refuseRx rx => Sys2Proof.Machine.execRefuseRx rx s
  | .identRepeat => Sys2Proof.Machine.execIdentRepeat s
  | .twinLaneFail n codes => Sys2Proof.Machine.execTwinLaneFail n codes s
  | .linkRetrain => Sys2Proof.Machine.execLinkRetrain s
  | .retrain => Sys2Proof.Machine.execRetrain s
  | .markerTimeout => Sys2Proof.Machine.execMarkerTimeout s
  | .cfgDigest => Sys2Proof.Machine.execCfgDigest s
  | .ownNHigh => Sys2Proof.Machine.execOwnNHigh s
  | .claimCheck high => Sys2Proof.Machine.execClaimCheck high s
  | .handover => Sys2Proof.Machine.execHandover s
  | .resyncRequest => Sys2Proof.Machine.execResyncRequest s
  | .settleEnd => Sys2Proof.Machine.execSettleEnd s
  | .ringFrameStart => Sys2Proof.Machine.execRingFrameStart s
  | .ringFrameRx frame => Sys2Proof.Machine.execRingFrameRx frame s
  | .ringFrameReturn frame up => Sys2Proof.Machine.execRingFrameReturn frame up s
  | .ringLostTimeout => Sys2Proof.Machine.execRingLostTimeout s
  | .strPortFail up codes lost => Sys2Proof.Machine.execStrPortFail up codes lost s
  | .strPortGood up => Sys2Proof.Machine.execStrPortGood up s
  | .addressTimeout n => Sys2Proof.Machine.execAddressTimeout n s
  | .strRegw cseq payload => Sys2Proof.Machine.execStrRegw cseq payload s
  | .strRingw cseq payload => Sys2Proof.Machine.execStrRingw cseq payload s
  | .strCommit cseq payload => Sys2Proof.Machine.execStrCommit cseq payload s
  | .strAbort cseq => Sys2Proof.Machine.execStrAbort cseq s
  | .unfold cseq payload => Sys2Proof.Machine.execUnfold cseq payload s
  | .assign cseq payload => Sys2Proof.Machine.execAssign cseq payload s
  | .cmdQueueGo val => Sys2Proof.Machine.execCmdQueueGo val s
  | .nodeSlotRead n => Sys2Proof.Machine.execNodeSlotRead n s
  | .cmdResultRead => Sys2Proof.Machine.execCmdResultRead s
  | .hostStart => Sys2Proof.Machine.execHostStart s
  | .hostAddress byte err => Sys2Proof.Machine.execHostAddress byte err s
  | .hostByteWrite byte => Sys2Proof.Machine.execHostByteWrite byte s
  | .hostByteRead ack err => Sys2Proof.Machine.execHostByteRead ack err s
  | .hostStop midByte => Sys2Proof.Machine.execHostStop midByte s
  | .hostRepeatedStart midByte => Sys2Proof.Machine.execHostRepeatedStart midByte s
  | .commitEnd => Sys2Proof.Machine.execCommitEnd s
  | .sclTimeout => Sys2Proof.Machine.execSclTimeout s
  | .sdaTimeout => Sys2Proof.Machine.execSdaTimeout s
  | .ibrStart => Sys2Proof.Machine.execIbrStart s
  | .ibrEnd => Sys2Proof.Machine.execIbrEnd s
  | .reqCollide => Sys2Proof.Machine.execReqCollide s
  | .ringStageWrite path r w val => Sys2Proof.Machine.execRingStageWrite path r w val s
  | .ringPush path r val => Sys2Proof.Machine.execRingPush path r val s
  | .ringFetch path r => Sys2Proof.Machine.execRingFetch path r s
  | .ringConsume path r => Sys2Proof.Machine.execRingConsume path r s
  | .ringConfig r val => Sys2Proof.Machine.execRingConfig r val s
  | .regw c => Sys2Proof.Machine.execRegw c s
  | .regw2 c => Sys2Proof.Machine.execRegw2 c s
  | .fence c => Sys2Proof.Machine.execFence c s
  | .telEntryProduce c type payload => Sys2Proof.Machine.execTelEntryProduce c type payload s
  | .telemetryCollect => Sys2Proof.Machine.execTelemetryCollect s
  | .fabricGrant port reqs => Sys2Proof.Machine.execFabricGrant port reqs s
  | .fabricResponse master data errs => Sys2Proof.Machine.execFabricResponse master data errs s
  | .fabricTimeout port => Sys2Proof.Machine.execFabricTimeout port s
  | .portProbe answered => Sys2Proof.Machine.execPortProbe answered s
  | .masterReset m beats => Sys2Proof.Machine.execMasterReset m beats s
  | .fabElogRead => Sys2Proof.Machine.execFabElogRead s
  | .ceWriteback bank word => Sys2Proof.Machine.execCeWriteback bank word s
  | .scrubStep struck => Sys2Proof.Machine.execScrubStep struck s
  | .repairCopy bank => Sys2Proof.Machine.execRepairCopy bank s
  | .logStateRecord => Sys2Proof.Machine.execLogStateRecord s
  | .logEventRecords => Sys2Proof.Machine.execLogEventRecords s
  | .logFlush => Sys2Proof.Machine.execLogFlush s
  | .flashOpDone ok => Sys2Proof.Machine.execFlashOpDone ok s
  | .memElogRead => Sys2Proof.Machine.execMemElogRead s
  | .bkgLogRead => Sys2Proof.Machine.execBkgLogRead s
  | .errorInjectArm val => Sys2Proof.Machine.execErrorInjectArm val s
  | .qspiProgram => Sys2Proof.Machine.execQspiProgram s
  | .qspiErase => Sys2Proof.Machine.execQspiErase s
  | .qspiReadStatus sr1 => Sys2Proof.Machine.execQspiReadStatus sr1 s
  | .qspiBufferWrite val => Sys2Proof.Machine.execQspiBufferWrite val s
  | .qspiBufferRead => Sys2Proof.Machine.execQspiBufferRead s
  | .powerUp => Sys2Proof.Machine.execPowerUp s
  | .supplyFall => Sys2Proof.Machine.execSupplyFall s
  | .resetPin accepted => Sys2Proof.Machine.execResetPin accepted s
  | .softReset => Sys2Proof.Machine.execSoftReset s
  | .debugReset => Sys2Proof.Machine.execDebugReset s
  | .mgmtWatchdogReset => Sys2Proof.Machine.execMgmtWatchdogReset s
  | .resetRelease straps => Sys2Proof.Machine.execResetRelease straps s
  | .wipeComplete us bad => Sys2Proof.Machine.execWipeComplete us bad s
  | .scanComplete id sectors slotA slotB => Sys2Proof.Machine.execScanComplete id sectors slotA slotB s
  | .candidateLoadEnd bytes => Sys2Proof.Machine.execCandidateLoadEnd bytes s
  | .fwTimeout => Sys2Proof.Machine.execFwTimeout s
  | .relStart c => Sys2Proof.Machine.execRelStart c s
  | .lifecycleRequest path val => Sys2Proof.Machine.execLifecycleRequest path val s
  | .fuseBlowDone ok => Sys2Proof.Machine.execFuseBlowDone ok s
  | .credentialPresent bytes => Sys2Proof.Machine.execCredentialPresent bytes s
  | .fuseProgram what => Sys2Proof.Machine.execFuseProgram what s
  | .debugRelease => Sys2Proof.Machine.execDebugRelease s
  | .boundaryScanLoad => Sys2Proof.Machine.execBoundaryScanLoad s
  | .mediaPllLock => Sys2Proof.Machine.execMediaPllLock s
  | .pllLock which => Sys2Proof.Machine.execPllLock which s
  | .pllUnlock which => Sys2Proof.Machine.execPllUnlock which s
  | .twinPllLock => Sys2Proof.Machine.execTwinPllLock s
  | .safeWatchdogTrip => Sys2Proof.Machine.execSafeWatchdogTrip s
  | .clockMeasure count => Sys2Proof.Machine.execClockMeasure count s
  | .refSlewStep => Sys2Proof.Machine.execRefSlewStep s
  | .ownNLow => Sys2Proof.Machine.execOwnNLow s
  | .handoverHoldoffEnd => Sys2Proof.Machine.execHandoverHoldoffEnd s
  | .forwardingStart => Sys2Proof.Machine.execForwardingStart s

end Sys2Proof.Machine
end

