-- ==== Sys2Proof/Machine/Step.lean ====
section
/-! DEFINITION. Step.lean: the block takes the command at the front of its queue. -/

set_option Elab.async false

namespace Sys2Proof.Machine

/-- One step: the command at the front runs with the queue's rest; on an empty queue the block idles (DESIGN CHOICE, log entry 2). -/
def step (s : State) : Host.Outcome State Fault Refusal :=
  match s.pending with
  | [] => .next s
  | i :: rest => exec i { s with pending := rest }

/-- The command that a word spells, put at the front of the queue; the table gives no bits, so no word spells one. -/
def State.withFetchWord (s : State) (nbits w : Nat) : State :=
  match Sys2Proof.decodeTableWord nbits w with
  | some i => { s with pending := i :: s.pending }
  | none => s

end Sys2Proof.Machine
end

