-- ==== Sys2Proof/Safety.lean ====
section
/-! DEFINITION. Safety.lean: what a safe run is on this block, in the terms that statements use. -/

set_option Elab.async false

namespace Sys2Proof.Machine

/-- The memories stand in their one canonical form: keys strictly rising, no entry equal to what an unlisted key reads as. -/
def Memory.wf (s : State) : Bool :=
  kvWf resetWord s.regs && kvWf bankDefault s.banks && kvWf noError s.mem.errs && kvWf quadDefault s.mem.words
    && kvWf latchDefault s.vent.latch

/-- No gate ball is high: neither HI nor LO of any leg (R197, R553). -/
def gatesLow (s : State) : Bool := (List.range 32).all fun l => !ballHi s l && !ballLo s l

/-- No leg drives both of its balls at once. -/
def noShootThrough (s : State) : Bool := (List.range 32).all fun l => !(ballHi s l && ballLo s l)

/-- The parts of the state, for frames: what a command may change and what it leaves as it was. -/
inductive Part where
  | regs | heldU | heldB | banks | conds | gates | rdata | free | sys | time | ain | mb | scn | legs | pwm | safe
  | dlCal | pins | sense | lanes | loops | lanePool | trace | vent | mem | bkg | rings | fab | twin | str | hst | pending
  deriving DecidableEq, Repr

/-- A part is the same in two states. -/
def Part.same (s t : State) : Part → Prop
  | .regs => t.regs = s.regs
  | .heldU => t.heldU = s.heldU
  | .heldB => t.heldB = s.heldB
  | .banks => t.banks = s.banks
  | .conds => t.conds = s.conds
  | .gates => t.gates = s.gates
  | .rdata => t.rdata = s.rdata
  | .free => t.free = s.free
  | .sys => t.sys = s.sys
  | .time => t.time = s.time
  | .ain => t.ain = s.ain
  | .mb => t.mb = s.mb
  | .scn => t.scn = s.scn
  | .legs => t.legs = s.legs
  | .pwm => t.pwm = s.pwm
  | .safe => t.safe = s.safe
  | .dlCal => t.dlCal = s.dlCal
  | .pins => t.pins = s.pins
  | .sense => t.sense = s.sense
  | .lanes => t.lanes = s.lanes
  | .loops => t.loops = s.loops
  | .lanePool => t.lanePool = s.lanePool
  | .trace => t.trace = s.trace
  | .vent => t.vent = s.vent
  | .mem => t.mem = s.mem
  | .bkg => t.bkg = s.bkg
  | .rings => t.rings = s.rings
  | .fab => t.fab = s.fab
  | .twin => t.twin = s.twin
  | .str => t.str = s.str
  | .hst => t.hst = s.hst
  | .pending => t.pending = s.pending

/-- Only the listed parts may differ. -/
def Only (l : List Part) (s t : State) : Prop := ∀ p : Part, p ∉ l → p.same s t

/-- Of the registers, only the listed ones may read otherwise than before. -/
def OnlyRegs (ps : List Nat) (s t : State) : Prop := ∀ p, p ∉ ps → t.rd p = s.rd p

/-- Of the parts, only the listed ones may differ; of the registers, only the listed ones may read otherwise. -/
def Changes (l : List Part) (ps : List Nat) (s t : State) : Prop := Only l s t ∧ OnlyRegs ps s t

/-- A write of the register at p reaches it: by the path of the host's commit while its first access names the register, else by the
primary path (log entry 63). -/
def reached (s : State) (p : Nat) : Bool := writable s (pathAt s .hostPrimary p) p

/-- One set event of a flag: the flag is 1 and its counter one higher, from 255 to 0 (R15 to R18). -/
def counted (g : Flag) (s t : State) : Prop :=
  t.get ⟨g.ptr, g.bit, g.bit⟩ = 1 ∧ t.get ⟨g.cptr, g.clo + 7, g.clo⟩ = (s.get ⟨g.cptr, g.clo + 7, g.clo⟩ + 1) % 256

/-- The device-level safe state is in force with a CAUSE bit, and no gate ball is high but in boundary scan (R197 to R199). -/
def safeWith (bit : Nat) (t : State) : Prop :=
  t.get F.TS_STAT_DEV_SAFE_NOW = 1 ∧ t.get ⟨R.TS_STAT, bit, bit⟩ = 1 ∧ (t.sys.boundaryScan = false → gatesLow t = true)

/-- Channel c is latched with a cause, and every leg it drives has both gate outputs low (R186, R198). -/
def latchedWith (c cause : Nat) (t : State) : Prop :=
  t.get (F.CH_TRST_LATCHED c) = 1 ∧ t.get (F.CH_TRST_CAUSE c) = cause ∧ ∀ l ∈ legsOf t c, (t.leg l).hi = false ∧ (t.leg l).lo = false

/-- A lane after an instruction that takes one cycle and leaves these elements (R255, R256). -/
def stepped (x : LaneSt) (r : LaneRegs) : LaneSt := { x with r := r, pc := x.pc + 1, cycle := x.cycle + 1 }

/-- Lane y is lane x after an instruction with elements r whose destination stores ACC = a (R250, R254, R257). -/
def stored (lim : Int) (i : LInstr) (a : Int) (x : LaneSt) (r : LaneRegs) (y : LaneSt) : Prop :=
  (i.dst = 0 → y = stepped x r) ∧ (i.dst = 1 → y = stepped x { r with w := r.w.set i.id a }) ∧
  (i.dst = 2 → y = stepped x { r with s := r.s.set i.id (narrow a) }) ∧
  (i.dst = 3 → y.r = { r with
      s := r.s.set i.id (clampI (-lim) lim (narrow a))
      sato := if lim < narrow a then 1 else if narrow a < -lim then 2 else 0 } ∧ y.pc = x.pc + 1 ∧ y.cycle = x.cycle + 1)

/-- Nothing but lane n differs. -/
def onlyLane (n : Nat) (s t : State) : Prop := t.lanes = s.lanes.set n (t.lane n) ∧ Changes [.lanes] [] s t

/-- A step that neither faults nor refuses. -/
def runs (s : State) : Prop := ∃ t, step s = .next t

end Sys2Proof.Machine
end

