-- ==== Sys2Proof/Certificates/Slice0/Obligations.lean ====
section
/-! DEFINITION. Obligations.lean: the statements for the provers. -/

set_option Elab.async false

open Sys2Proof Sys2Proof.Machine

/-- Network time (R56 to R59, R62, R66): an Announce in LISTEN selects its master, where no other was heard, and enters ACQUIRE; a Sync of a one-step master, and the
Follow_Up of a two-step one, are measured; a delay response gives the path delay; a delay request leaves through GN2; the announce timeout of a port drops its best master, and the servo
enters HOLDOVER with none left, or ACQUIRE with another one; an edge of PPS_IN in mode 1 enters PPS, its timeout HOLDOVER; STEP_NOW stands
while a step is pending; and PPS_OUT falls. -/
def Obligations.NetworkTimeMessages : Prop :=
  (∀ s : State, s.sys.inReset = false →
    (∀ (port : NetPort) (d : Byte) (a : Announce), ptpListens s d = true → s.get F.PTP_STAT_STATE = 1 →
      s.ain.ptp.annA = [] → s.ain.ptp.annB = [] →
      ∃ t, exec (.ptpAnnounceRx port d a) s = .next t ∧ t.get F.PTP_STAT_STATE = 2 ∧
        t.get F.PTP_STAT_PORT = (if port = .a then 0 else 1) ∧ t.get F.PTP_STAT_STEPS_RM = min a.steps.toNat 255 ∧
        t.rd R.PTP_GMID_H = a.gm.extractLsb' 32 32 ∧ t.rd R.PTP_GMID_L = a.gm.extractLsb' 0 32 ∧
        t.ain.ptp.sel = some a ∧ Changes [.regs, .conds, .ain] [R.PTP_STAT, R.PTP_GMID_H, R.PTP_GMID_L] s t) ∧
    (∀ (port : NetPort) (d : Byte) (gm : BitVec 64) (x : Int), ptpListens s d = true → ptpFromMaster s port gm = true →
      ∃ t, exec (.ptpSyncRx port d gm false x) s = .next t ∧
        t.get F.PTP_OFFSET_OFFSET = pattern 32 (satS 32 (x - s.ain.ptp.delay)) ∧ t.ain.ptp.diff = x ∧
        Only [.regs, .conds, .free, .ain] s t) ∧
    (∀ (port : NetPort) (d : Byte) (gm : BitVec 64) (x : Int), ptpListens s d = true → ptpFromMaster s port gm = true →
      ∃ t, exec (.ptpSyncRx port d gm true x) s = .next t ∧
        (match port with | .a => t.ain.ptp.twoStepA | .b => t.ain.ptp.twoStepB) = true ∧ Changes [.ain] [] s t) ∧
    (∀ (port : NetPort) (d : Byte) (gm : BitVec 64) (x : Int), ptpListens s d = true → ptpFromMaster s port gm = true →
      (match port with | .a => s.ain.ptp.twoStepA | .b => s.ain.ptp.twoStepB) = true →
      ∃ t, exec (.ptpFollowUpRx port d gm x) s = .next t ∧
        t.get F.PTP_OFFSET_OFFSET = pattern 32 (satS 32 (x - s.ain.ptp.delay)) ∧ t.ain.ptp.diff = x ∧
        (match port with | .a => t.ain.ptp.twoStepA | .b => t.ain.ptp.twoStepB) = false ∧ Only [.regs, .conds, .free, .ain] s t) ∧
    (∀ (port : NetPort) (d : Byte) (x : Int), ptpListens s d = true → s.get F.PTP_STAT_PORT = (if port = .a then 0 else 1) →
      ∃ t, exec (.ptpDelayRespRx port d x) s = .next t ∧ t.ain.ptp.delay = rneDiv (s.ain.ptp.diff + x) 2 ∧ Changes [.ain] [] s t) ∧
    (∀ port : NetPort, firmwareRuns s = true → s.get F.PTP_CFG_PTP_EN = 1 → s.get F.PTP_CFG_SRC = 0 → s.get F.PTP_STAT_STATE ≠ 0 →
      ∃ t, exec (.delayReqTx port) s = .next t ∧
        t.gates = s.gates.modify (gateIdx .gn2) (· ++ [[if port = .a then 0 else 1]]) ∧ Changes [.gates] [] s t)) ∧
  ∀ s : State, s.sys.inReset = false →
    (∀ port : NetPort, firmwareRuns s = true → s.get F.PTP_CFG_PTP_EN = 1 → s.get F.PTP_CFG_SRC = 0 →
      (s.get F.PTP_STAT_STATE = 2 ∨ s.get F.PTP_STAT_STATE = 3) →
      (match port with | .a => s.ain.ptp.annB | .b => s.ain.ptp.annA) = [] →
      ptpDropped (match port with | .a => s.ain.ptp.annA | .b => s.ain.ptp.annB) = [] →
      ∃ t, exec (.announceTimeout port) s = .next t ∧ t.get F.PTP_STAT_STATE = 4 ∧ t.ain.ptp.sel = none ∧
        (match port with | .a => t.ain.ptp.annA | .b => t.ain.ptp.annB) = [] ∧
        Changes [.regs, .conds, .ain] [R.PTP_STAT, R.CLK_REFADJ, R.AIN_FLAG, G.AIN_PTP_HOLD.cptr] s t) ∧
    (∀ (port : NetPort) (b m : Announce), firmwareRuns s = true → s.get F.PTP_CFG_PTP_EN = 1 → s.get F.PTP_CFG_SRC = 0 →
      (s.get F.PTP_STAT_STATE = 2 ∨ s.get F.PTP_STAT_STATE = 3) →
      (match port with | .a => s.ain.ptp.annB | .b => s.ain.ptp.annA) = [] →
      ptpDropped (match port with | .a => s.ain.ptp.annA | .b => s.ain.ptp.annB) = [m] → s.ain.ptp.sel = some b → b.gm ≠ m.gm →
      ∃ t, exec (.announceTimeout port) s = .next t ∧ t.get F.PTP_STAT_STATE = 2 ∧ t.ain.ptp.sel = some m ∧
        t.get F.PTP_STAT_PORT = (if port = .a then 0 else 1) ∧
        Changes [.regs, .conds, .ain] [R.PTP_STAT, R.PTP_GMID_H, R.PTP_GMID_L] s t) ∧
    (firmwareRuns s = true → s.get F.PTP_CFG_PTP_EN = 1 → s.get F.PTP_CFG_SRC = 1 →
      ∃ t, exec .ppsInEdge s = .next t ∧ t.get F.PTP_STAT_PPS_SEEN = 1 ∧ t.get F.PTP_STAT_STATE = 6 ∧
        Only [.regs, .conds, .free, .time, .ain] s t) ∧
    (firmwareRuns s = true → s.get F.PTP_STAT_STATE = 6 →
      ∃ t, exec .ppsTimeout s = .next t ∧ t.get F.PTP_STAT_PPS_SEEN = 0 ∧ t.get F.PTP_STAT_STATE = 4 ∧
        Changes [.regs, .conds, .ain] [R.PTP_STAT, R.CLK_REFADJ, R.AIN_FLAG, G.AIN_PTP_HOLD.cptr] s t) ∧
    (reached s R.PTP_CTRL = true →
      ∃ t, exec .stepNow s = .next t ∧ t.get F.PTP_CTRL_STEP_NOW = (if s.get F.PTP_STAT_STATE = 5 then 1 else 0) ∧
        Changes [.regs, .hst] [R.PTP_CTRL] s t) ∧
    ∃ t, exec .ppsOutFall s = .next t ∧ t.ain.ptp.ppsOut = false ∧ Changes [.ain] [] s t

/-- AES67 streams and the monitor port (R67 to R76, R83): a packet of an enabled stream teaches its SSRC; timeouts clear their bits; a write of AIN_SCFG with EN enables
the stream where no reason of R75 stands against it and reports its groups on its paths while the firmware runs, else is refused with the
reason and leaves EN at 0; a write that only clears EN stops it; a sample period counts, and the monitor port sends the frame captured
eight periods before. -/
def Obligations.StreamCommands : Prop :=
  (∀ (s : State) (port : NetPort) (dst : Word) (udp : Word16) (ssrc ts : Word) (ws : List Word) (i : Fin 16),
    s.sys.inReset = false → s.sys.procs = true → streamMatches s i port dst udp = true →
    ∃ t, exec (.aes67PacketRx port dst udp ssrc ts ws) s = .next t ∧ t.get (F.AIN_SSTAT_SSRC_VALID i) = 1 ∧ Only [.regs, .ain] s t) ∧
  (∀ (s : State) (i : Fin 16), s.sys.inReset = false →
    (∃ t, exec (.ssrcTimeout i) s = .next t ∧ t.get (F.AIN_SSTAT_SSRC_VALID i) = 0 ∧ Changes [.regs] [R.AIN_SSTAT i] s t) ∧
    (∃ t, exec (.streamRxTimeout i .a) s = .next t ∧ t.get (F.AIN_SSTAT_RX_A i) = 0 ∧ t.get (F.AIN_SSTAT_RX_B i) = s.get (F.AIN_SSTAT_RX_B i) ∧
      Changes [.regs] [R.AIN_SSTAT i] s t) ∧
    ∃ t, exec (.streamRxTimeout i .b) s = .next t ∧ t.get (F.AIN_SSTAT_RX_B i) = 0 ∧ t.get (F.AIN_SSTAT_RX_A i) = s.get (F.AIN_SSTAT_RX_A i) ∧
      Changes [.regs] [R.AIN_SSTAT i] s t) ∧
  (∀ (s : State) (i : Fin 16) (v : Word), reached s 0x834 = true → s.get (F.AIN_SCFG_EN i) = 0 → bitsN v.toNat 31 31 = 1 →
    (enableReason s i (v &&& scfgMask) = 0 →
      ∃ t, exec (.streamEnable i v) s = .next t ∧ t.rd (R.AIN_SCFG i) = v &&& scfgMask ∧ t.rd (R.AIN_SSTAT i) = 1 ∧
        t.ain.streams = s.ain.streams.modify i (fun _ => {}) ∧
        t.gates = (if firmwareRuns s then s.gates.modify (gateIdx .gn2) (· ++
            ((if bitN (t.get (F.AIN_SCFG_PATHS i)) 0 then [[3, 0, s.rd (R.AIN_SADDRA i)]] else []) ++
              if bitN (t.get (F.AIN_SCFG_PATHS i)) 1 then [[3, 1, s.rd (R.AIN_SADDRB i)]] else []))
          else s.gates) ∧
        Changes [.regs, .gates, .ain, .hst] [R.AIN_SCFG i, R.AIN_SSTAT i] s t) ∧
    (enableReason s i (v &&& scfgMask) ≠ 0 →
      ∃ t, exec (.streamEnable i v) s = .next t ∧ t.get (F.AIN_SCFG_EN i) = 0 ∧
        t.get (F.AIN_SSTAT_REASON i) = enableReason s i (v &&& scfgMask) ∧ t.ain = s.ain ∧
        Changes [.regs, .hst] [R.AIN_SCFG i, R.AIN_SSTAT i, G.AIN_STRM_REFUSED.ptr, G.AIN_STRM_REFUSED.cptr] s t)) ∧
  (∀ (s : State) (i : Fin 16), reached s 0x834 = true → s.get (F.AIN_SCFG_EN i) = 1 → s.rd (R.AIN_SCFG i) &&& scfgMask = s.rd (R.AIN_SCFG i) →
    ∃ t, exec (.streamDisable i (s.rd (R.AIN_SCFG i) &&& 0x7FFFFFFF#32)) s = .next t ∧
      t.rd (R.AIN_SCFG i) = s.rd (R.AIN_SCFG i) &&& 0x7FFFFFFF#32 ∧
      t.ain.streams = s.ain.streams.modify i (fun x => { x with stopping := true }) ∧ Changes [.regs, .ain, .hst] [R.AIN_SCFG i] s t) ∧
  (∀ s : State, s.sys.inReset = false → s.ain.sub < 8 →
    ∃ t, exec .receiveRead s = .next t ∧ t.ain.sub = s.ain.sub + 1 ∧ t.ain.collect.length = s.ain.collect.length + 1 ∧
      Only [.regs, .gates, .ain] s t) ∧
  (∀ s : State, s.sys.inReset = false → s.ain.sub < 8 → s.inForceB F.AIN_TMON_EN = false →
    ∃ t, exec .receiveRead s = .next t ∧ t.ain.tdmo = []) ∧
  (∀ (s : State) (f : List Word) (fs : List (List Word)), s.sys.inReset = false → s.ain.sub < 8 → s.inForceB F.AIN_TMON_EN = true →
    s.ain.monitor = f :: fs → fs.length = 7 →
    ∃ t, exec .receiveRead s = .next t ∧ t.ain.tdmo = (if s.inForceB F.AIN_TMON_FRAMING then f.take 8 else f) ∧
      t.ain.monitor.length = 8)

/-- TDM ports (R79 to R82, R91): a frame of another BCLK count is discarded and plays zeros; one of the right count is used while the port
is locked and no frame of a takeover plays zeros; at a frame boundary the drive of the clocks follows MASTER and OWN_N; lock is lost with
SRC_LOST, and gained after 16 good frames with the rate found, where the port accepts that rate; another rate at a locked slave port is a
loss of lock of its domain. -/
def Obligations.TdmCommands : Prop :=
  ∀ (s : State) (i : Fin 4), s.sys.inReset = false →
    (∀ (n : Nat) (ws : List Word), (s.ain.tdm.getD i {}).enabled = true → (s.ain.tdm.getD i {}).drives = tdmWants s i →
      n ≠ 32 * tdmSlots s i →
      ∃ t, exec (.tdmFrameRx i n ws) s = .next t ∧
        t.ain.tdm = s.ain.tdm.modify i (fun x => { x with
          slots := List.replicate 16 0, good := 0, bad := x.bad + 1, zeros := x.zeros - 1 }) ∧
        Changes [.ain] [] s t) ∧
    (∀ ws : List Word, (s.ain.tdm.getD i {}).enabled = true → (s.ain.tdm.getD i {}).drives = tdmWants s i →
      (s.ain.tdm.getD i {}).locked = true →
      ∃ t, exec (.tdmFrameRx i (32 * tdmSlots s i) ws) s = .next t ∧
        t.ain.tdm = s.ain.tdm.modify i (fun x => { x with
          slots := (if x.zeros = 0 then (List.range 16).map fun j => if j < tdmSlots s i then tdmToF32 (ws.getD j 0) else 0
            else List.replicate 16 0)
          good := x.good + 1
          bad := 0
          zeros := x.zeros - 1 }) ∧
        Changes [.ain] [] s t) ∧
    (∀ (n : Nat) (ws : List Word), (s.ain.tdm.getD i {}).enabled = true →
      ∃ t, exec (.tdmFrameRx i n ws) s = .next t ∧ (t.ain.tdm.getD i {}).drives = tdmWants s i ∧
        (t.ain.tdm.getD i {}).enabled = true ∧ (t.ain.tdm.getD i {}).locked = (s.ain.tdm.getD i {}).locked ∧
        Changes [.free, .ain] [] s t) ∧
    ((s.ain.tdm.getD i {}).locked = true →
      ∃ t, exec (.tdmFsTimeout i) s = .next t ∧ (t.ain.tdm.getD i {}).locked = false ∧ t.get ⟨0x850 + 4 * i, 7, 7⟩ = 0 ∧
        t.get ⟨0x850 + 4 * i, 6, 4⟩ = 0 ∧ t.get ⟨R.AIN_FLAG, G.AIN_SRC_LOST.bit, G.AIN_SRC_LOST.bit⟩ = 1 ∧
        Changes [.regs, .ain] [0x850 + 4 * i, G.AIN_SRC_LOST.ptr, G.AIN_SRC_LOST.cptr] s t) ∧
    ((s.ain.tdm.getD i {}).locked = true → 4 ≤ (s.ain.tdm.getD i {}).bad →
      ∃ t, exec (.tdmLockLoss i) s = .next t ∧ (t.ain.tdm.getD i {}).locked = false ∧ t.get ⟨0x850 + 4 * i, 7, 7⟩ = 0 ∧
        t.get ⟨0x850 + 4 * i, 6, 4⟩ = 0 ∧ t.get ⟨R.AIN_FLAG, G.AIN_SRC_LOST.bit, G.AIN_SRC_LOST.bit⟩ = 1 ∧
        Changes [.regs, .ain] [0x850 + 4 * i, G.AIN_SRC_LOST.ptr, G.AIN_SRC_LOST.cptr] s t) ∧
    (∀ rate : BitVec 3, (s.ain.tdm.getD i {}).enabled = true → (s.ain.tdm.getD i {}).locked = false → 16 ≤ (s.ain.tdm.getD i {}).good →
      tdmRateOk s i rate = true →
      ∃ t, exec (.tdmLockGain i rate) s = .next t ∧ t.get ⟨0x850 + 4 * i, 6, 4⟩ = rate.toNat ∧
        t.ain.tdm = s.ain.tdm.modify i (fun x => { x with locked := true, bad := 0 }) ∧ Changes [.regs, .ain] [0x850 + 4 * i] s t) ∧
    (∀ rate : BitVec 3, (s.ain.tdm.getD i {}).enabled = true → (s.ain.tdm.getD i {}).locked = true → 16 ≤ (s.ain.tdm.getD i {}).good →
      tdmMaster s i = false → tdmRateOk s i rate = true → s.get ⟨0x850 + 4 * i, 6, 4⟩ ≠ rate.toNat →
      ∃ t, exec (.tdmLockGain i rate) s = .next t ∧ t.get ⟨0x850 + 4 * i, 6, 4⟩ = rate.toNat ∧ (t.ain.asrc.getD i {}).locked = false ∧
        t.ain.tdm = s.ain.tdm ∧ Changes [.regs, .ain] [0x850 + 4 * i, G.AIN_SRC_LOST.ptr, G.AIN_SRC_LOST.cptr] s t) ∧
    ∀ rate : BitVec 3, tdmRateOk s i rate = false → exec (.tdmLockGain i rate) s = .next s

/-- AES3 receivers and ASRC domains (R80, R85 to R91): a subframe without parity error becomes the last sample, one with a parity error
counts; a good channel-status block is kept and a bad one only counted; a receiver locks with the rate found, and another rate than that
of its lock is a loss of lock of its domain; it loses lock with SRC_LOST; a domain locks while its source can lock it and begins its fade,
and begins the fade to zero from the level reached when it unlocks. -/
def Obligations.Aes3Commands : Prop :=
  ∀ s : State, s.sys.inReset = false →
    (∀ (i : Fin 4) (sub : Fin 2) (w : BitVec 24) (inv : Bool), (s.ain.aes3.getD i {}).enabled = true →
      (∃ t, exec (.aes3SubframeRx i sub w true inv) s = .next t ∧
        t.ain.aes3 = s.ain.aes3.modify i (fun x => { x with
          last := (s.ain.aes3.getD i {}).last.set sub (f32OfDyadic (signed 24 w.toNat) (-23)),
          vBits := (s.ain.aes3.getD i {}).vBits.set sub inv }) ∧
        Changes [.regs, .ain] [0x880 + 4 * i] s t) ∧
      ∃ t, exec (.aes3SubframeRx i sub w false inv) s = .next t ∧
        t.get ⟨R.AIN_FLAG, G.AIN_AES_PARITY.bit, G.AIN_AES_PARITY.bit⟩ = 1 ∧
        Changes [.regs, .ain] [0x880 + 4 * i, G.AIN_AES_PARITY.ptr, G.AIN_AES_PARITY.cptr] s t) ∧
    (∀ (i : Fin 4) (bs : List Byte), (s.ain.aes3.getD i {}).enabled = true →
      (∃ t, exec (.aes3CsBlockRx i bs true) s = .next t ∧
        t.ain.aes3 = s.ain.aes3.modify i (fun x => { x with status := some (bs.take 24) }) ∧ Changes [.regs, .ain] [0x880 + 4 * i] s t) ∧
      ∃ t, exec (.aes3CsBlockRx i bs false) s = .next t ∧ t.get ⟨R.AIN_FLAG, G.AIN_AES_CRC.bit, G.AIN_AES_CRC.bit⟩ = 1 ∧
        Changes [.regs] [G.AIN_AES_CRC.ptr, G.AIN_AES_CRC.cptr] s t) ∧
    (∀ (i : Fin 4) (rate : BitVec 3), (s.ain.aes3.getD i {}).enabled = true →
      ((s.ain.aes3.getD i {}).locked = false ∨ s.get ⟨0x880 + 4 * i, 6, 4⟩ = rate.toNat →
        ∃ t, exec (.aes3Lock i rate) s = .next t ∧ t.get ⟨0x880 + 4 * i, 6, 4⟩ = rate.toNat ∧
          t.ain.aes3 = s.ain.aes3.modify i (fun x => { x with locked := true }) ∧ t.ain.asrc = s.ain.asrc ∧
          Changes [.regs, .ain] [0x880 + 4 * i] s t) ∧
      ((s.ain.aes3.getD i {}).locked = true → s.get ⟨0x880 + 4 * i, 6, 4⟩ ≠ rate.toNat →
        ∃ t, exec (.aes3Lock i rate) s = .next t ∧ t.get ⟨0x880 + 4 * i, 6, 4⟩ = rate.toNat ∧
          (t.ain.aes3.getD i {}).locked = true ∧ (t.ain.asrc.getD (4 + i) {}).locked = false ∧
          ((s.ain.asrc.getD (4 + i) {}).locked = true → counted G.AIN_SRC_LOST s t) ∧
          Changes [.regs, .ain] [0x880 + 4 * i, G.AIN_SRC_LOST.ptr, G.AIN_SRC_LOST.cptr] s t)) ∧
    (∀ i : Fin 4, (s.ain.aes3.getD i {}).locked = true →
      ∃ t, exec (.aes3LockLoss i) s = .next t ∧ t.get ⟨0x880 + 4 * i, 6, 4⟩ = 0 ∧ t.get ⟨0x880 + 4 * i, 7, 7⟩ = 0 ∧
        (t.ain.aes3.getD i {}).locked = false ∧
        Changes [.regs, .ain] [0x880 + 4 * i, G.AIN_SRC_LOST.ptr, G.AIN_SRC_LOST.cptr] s t) ∧
    (∀ d : Fin 8, asrcReady s d = false → exec (.asrcLock d) s = .next s) ∧
    (∀ d : Fin 8, (s.ain.asrc.getD d {}).locked = false → asrcReady s d = true →
      ∃ t, exec (.asrcLock d) s = .next t ∧ t.ain.asrc = s.ain.asrc.modify d (fun a => { a with locked := true, pos := 0 }) ∧
        Only [.regs, .ain] s t) ∧
    ∀ d : Fin 8, (s.ain.asrc.getD d {}).locked = true →
      ∃ t, exec (.asrcUnlock d) s = .next t ∧
        t.ain.asrc = s.ain.asrc.modify d (fun a => { a with locked := false, from64 := min ((s.ain.asrc.getD d {}).pos + 1) 64, pos := 0 }) ∧
        t.get ⟨R.AIN_FLAG, G.AIN_SRC_LOST.bit, G.AIN_SRC_LOST.bit⟩ = 1 ∧ Only [.regs, .ain] s t

/-- The windows of the audio inputs (R87, R88, R96 to R98): AIN_CSSEL latches the last good block and starts at its first word; a whole read
of AIN_CSDATA gives four bytes and advances WORD; the mix window stores the gain of R96 in the NEXT table and advances INDEX. -/
def Obligations.InputWindows : Prop :=
  ∀ s : State,
    (∀ v : Word, reached s R.AIN_CSSEL = true →
      ∃ t, exec (.csSelect v) s = .next t ∧ t.get F.AIN_CSSEL_WORD = 0 ∧
        t.ain.csLatch = ((s.ain.aes3.getD (v.toNat % 4) {}).status).getD [] ∧ Changes [.regs, .ain, .hst] [R.AIN_CSSEL] s t) ∧
    (readable s .hostPrimary R.AIN_CSDATA = true → s.get F.AIN_CSSEL_WORD < 6 →
      ∃ t, exec .csDataRead s = .next t ∧ t.get F.AIN_CSSEL_WORD = (s.get F.AIN_CSSEL_WORD + 1) % 6 ∧
        (∀ j < 4, t.rdata.toNat / 2 ^ (8 * (3 - j)) % 256 = (s.ain.csLatch.getD (4 * s.get F.AIN_CSSEL_WORD + j) 0).toNat) ∧
        Changes [.regs, .rdata] [R.AIN_CSSEL] s t) ∧
    (∀ v : Word, reached s (aliasPtr s R.AIN_MIXDATA) = true → tablesFrozen s = false →
      ∃ t, exec (.mixDataWrite v) s = .next t ∧ t.bank (mixKey (!s.mb.liveTab) (s.get F.AIN_MIXPTR_INDEX)) = storedGain v ∧
        t.get F.AIN_MIXPTR_INDEX = (s.get F.AIN_MIXPTR_INDEX + 1) % 1024 ∧
        (∀ k, k ≠ mixKey (!s.mb.liveTab) (s.get F.AIN_MIXPTR_INDEX) → t.bank k = s.bank k) ∧
        Changes [.regs, .banks, .hst] [R.AIN_MIXPTR, G.AIN_MIX_BADVAL.ptr, G.AIN_MIX_BADVAL.cptr] s t) ∧
    (∀ v : Word, reached s (aliasPtr s R.AIN_MIXDATA) = true → tablesFrozen s = true →
      ∃ t, exec (.mixDataWrite v) s = .next t ∧ t.get F.AIN_MIXPTR_INDEX = (s.get F.AIN_MIXPTR_INDEX + 1) % 1024 ∧
        Changes [.regs, .hst] [R.AIN_MIXPTR, G.SCN_NXT_LOCKED.ptr, G.SCN_NXT_LOCKED.cptr] s t) ∧
    (readable s .hostPrimary R.AIN_MIXDATA = true →
      ∃ t, exec .mixDataRead s = .next t ∧ t.rdata = s.bank (mixKey (!s.mb.liveTab) (s.get F.AIN_MIXPTR_INDEX)) ∧
        t.get F.AIN_MIXPTR_INDEX = (s.get F.AIN_MIXPTR_INDEX + 1) % 1024 ∧ Changes [.regs, .rdata] [R.AIN_MIXPTR] s t)

/-- The update boundary (R138): the period enters its other half, the updates advance, and every RWL value of an update register
comes into force (R13). Before the media PLL has locked there is none (R555). -/
def Obligations.UpdateBoundary : Prop :=
  ∀ s : State, s.sys.inReset = false →
    (s.sys.counting = true → s.time.atBlock = false →
      ∃ t, exec .updateBoundary s = .next t ∧ t.time.half = (!s.time.half) ∧ t.time.updates = (s.time.updates + 1) % 2 ^ 32 ∧
        t.time.updInBlock = s.time.updInBlock + 1 ∧ t.time.block = s.time.block ∧ t.heldU = [] ∧
        Only [.regs, .heldU, .banks, .conds, .gates, .free, .time, .legs, .pwm, .safe, .dlCal, .pins, .sense, .lanes, .loops, .lanePool,
          .trace, .vent, .bkg, .twin] s t) ∧
    (s.sys.counting = true → s.time.atBlock = true →
      ∃ t, exec .updateBoundary s = .next t ∧ t.time = { s.time with atBlock := false } ∧ t.heldU = []) ∧
    (s.sys.counting = false → exec .updateBoundary s = .next s)

/-- The block boundary (R7, R43, R62): the input block and the receive count start again, every RWL value of a block register comes into
force, and where no CMD ring holds an entry that is eligible, the index goes up by one, the next update is UP0, and the parts that no island
changes at a boundary stay; the index advances by one, or to the index a marker gave, while no step of network time is pending. -/
def Obligations.BlockBoundary : Prop :=
  (∀ (s : State) (m : Bool), s.sys.inReset = false →
    (s.sys.counting = true →
      ∃ t, exec (.blockBoundary m) s = .next t ∧ t.heldB = [] ∧ t.ain.sub = 0 ∧ t.ain.collect = []) ∧
    (s.sys.counting = true → (∀ c < 16, cmdEligible (blockTime s) c = 0) →
      ∃ t, exec (.blockBoundary m) s = .next t ∧ t.time.atBlock = true ∧ t.time.half = false ∧ t.time.updInBlock = 0 ∧
        t.time.updates = (blockTime s).time.updates ∧
        Only [.regs, .heldB, .banks, .conds, .gates, .free, .sys, .time, .ain, .mb, .scn, .legs, .pwm, .safe, .pins, .sense, .lanes, .loops,
          .lanePool, .trace, .vent, .mem, .bkg, .rings, .twin, .str] s t) ∧
    (s.sys.counting = false → exec (.blockBoundary m) s = .next s)) ∧
  ∀ (s : State) (m : Bool), s.sys.inReset = false → s.sys.counting = true → (∀ c < 16, cmdEligible (blockTime s) c = 0) →
    s.get F.PTP_STAT_STATE ≠ 5 →
    ∃ t, exec (.blockBoundary m) s = .next t ∧ t.time.block = s.twin.setBlock.getD ((s.time.block + 1) % 2 ^ 48)

/-- Gates (R27, R29): the oldest payload leaves the gate and arrives in its island as gateArrives says: of GD1 the 8 taps of each channel of a
core, of GD3 the loop references, at GS2 a word of the PWM island, of GT1 and GT3 a frame that the Twin lanes take; a gate whose
payload the rules of its island use no further only empties; one without a payload delivers nothing, nor does GV2 while the LOOP entries of
the same boundary are still to come (R484). -/
def Obligations.GateDelivery : Prop :=
  ∀ (s : State) (g : Gate), s.sys.inReset = false →
    (s.gate g = [] → exec (.gateDeliver g) s = .next s) ∧
    (g = .gv2 → s.bkg.telDue = true → exec (.gateDeliver g) s = .next s) ∧
    (∀ (ws : List Word) (rest : List (List Word)), s.gate g = ws :: rest → g ≠ .gv2 ∨ s.bkg.telDue = false →
      exec (.gateDeliver g) s = .next ((gateArrives (gatePop s g) g ws).queued s.pending)) ∧
    (∀ (ws : List Word) (rest : List (List Word)), s.gate g = ws :: rest →
      g ∉ [.gd1, .gd2, .gd3, .gd4, .gd5, .gd7, .gv2, .gl2, .gs1, .gs2, .gt1, .gt3t] →
      ∃ t, exec (.gateDeliver g) s = .next t ∧ t.gates = s.gates.modify (gateIdx g) List.tail ∧ Changes [.gates] [] s t) ∧
    (∀ (ws : List Word) (rest : List (List Word)), s.gate g = ws :: rest → g = .gd1 →
      ∃ t, exec (.gateDeliver g) s = .next t ∧ t.gates = s.gates.modify (gateIdx g) List.tail ∧
        t.vent.chans = s.vent.chans.mapIdx (fun c x =>
          if c / 4 = (ws.headD 0).toNat then
            { x with tapsIn := newest 8 (x.tapsIn ++ (ws.drop (1 + 8 * (c % 4))).take 8) }
          else x) ∧
        Changes [.gates, .vent] [] s t) ∧
    (∀ (ws : List Word) (rest : List (List Word)), s.gate g = ws :: rest → g = .gs2 →
      ∃ t, exec (.gateDeliver g) s = .next t ∧ t.gates = s.gates.modify (gateIdx g) List.tail ∧
        t.safe = { s.safe with pwmSilent := false } ∧ Changes [.gates, .safe] [] s t) ∧
    (∀ (ws : List Word) (rest : List (List Word)), s.gate g = ws :: rest → g = .gt1 →
      ∃ t, exec (.gateDeliver g) s = .next t ∧ t.gates = s.gates.modify (gateIdx g) List.tail ∧
        t.twin = { s.twin with
          tx := lanesOf (s.get F.TWN_STAT_LANE_OK)
            (frameBytes (ws.getD 0 0).toNat (ws.getD 1 0).toNat (ws.getD 2 0).toNat (quadsOf (ws.drop 3))) } ∧
        Changes [.gates, .twin] [] s t) ∧
    (∀ (ws : List Word) (rest : List (List Word)), s.gate g = ws :: rest → g = .gt3t →
      ∃ t, exec (.gateDeliver g) s = .next t ∧ t.gates = s.gates.modify (gateIdx g) List.tail ∧
        t.twin = { s.twin with
          tx := lanesOf (s.get F.TWN_STAT_LANE_OK) (frameBytes frMark (linkFlags s 0) ((ws.getD 0 0).toNat % 65536) []) } ∧
        Changes [.gates, .twin] [] s t) ∧
    ∀ (ws : List Word) (rest : List (List Word)), s.gate g = ws :: rest → g = .gd3 →
      ∃ t, exec (.gateDeliver g) s = .next t ∧ t.gates = s.gates.modify (gateIdx g) List.tail ∧
        t.loops = s.loops.mapIdx (fun c l =>
          if oddHalf s c then l else { l with line := (signed 24 (ws.getD c 0).toNat :: l.line).take 3, age := 0 }) ∧
        Changes [.gates, .loops] [] s t

/-- The bank window of a channel (R106 to R109): a word is stored in the NEXT bank at OFFS under the limits of R107 and R108 and OFFS
advances, from 2223 to 0; a frozen bank keeps its word and OFFS advances all the same (R47); a read returns the word at OFFS. -/
def Obligations.BankWindow : Prop :=
  ∀ (s : State) (c : Chan),
    (∀ v : Word, reached s (aliasPtr s (R.CH_BDATA c)) = true → bankFrozen s c = false →
      ∃ t, exec (.bankWordWrite c v) s = .next t ∧
        t.bank (mbKey c (!liveBankOf s c) (s.get (F.CH_BPTR_OFFS c))) = storedBankWord (s.get (F.CH_BPTR_OFFS c)) v ∧
        (∀ k, k ≠ mbKey c (!liveBankOf s c) (s.get (F.CH_BPTR_OFFS c)) → t.bank k = s.bank k) ∧
        t.get (F.CH_BPTR_OFFS c) = (if s.get (F.CH_BPTR_OFFS c) ≥ 2223 then 0 else s.get (F.CH_BPTR_OFFS c) + 1) ∧
        Changes [.regs, .banks, .hst] [R.CH_BPTR c, G.SCN_BANK_BADVAL.ptr, G.SCN_BANK_BADVAL.cptr] s t) ∧
    (∀ v : Word, reached s (aliasPtr s (R.CH_BDATA c)) = true → bankFrozen s c = true →
      ∃ t, exec (.bankWordWrite c v) s = .next t ∧
        t.get (F.CH_BPTR_OFFS c) = (if s.get (F.CH_BPTR_OFFS c) ≥ 2223 then 0 else s.get (F.CH_BPTR_OFFS c) + 1) ∧
        t.get ⟨G.SCN_NXT_LOCKED.ptr, G.SCN_NXT_LOCKED.bit, G.SCN_NXT_LOCKED.bit⟩ = 1 ∧
        Changes [.regs, .hst] [R.CH_BPTR c, G.SCN_NXT_LOCKED.ptr, G.SCN_NXT_LOCKED.cptr] s t) ∧
    (readable s .hostPrimary (R.CH_BDATA c) = true →
      ∃ t, exec (.bankWordRead c) s = .next t ∧ t.rdata = mbOther s c (s.get (F.CH_BPTR_OFFS c)) ∧
        t.get (F.CH_BPTR_OFFS c) = (if s.get (F.CH_BPTR_OFFS c) ≥ 2223 then 0 else s.get (F.CH_BPTR_OFFS c) + 1) ∧
        Changes [.regs, .rdata] [R.CH_BPTR c] s t)

/-- Scene commits (R112 to R114, R123, R135): GO arms a commit that no reason of R114 stands against, and refuses any other with its reason;
ABORT in ARMED returns to IDLE and clears GO; a read of SCN_NOW_L gives the low part of the block index and latches the high one. -/
def Obligations.SceneCommands : Prop :=
  ∀ s : State,
    (reached s R.SCN_ARM = true → armReason s = 0 →
      ∃ t, exec .sceneArm s = .next t ∧ t.get F.SCN_STAT_STATE = 1 ∧ t.get F.SCN_STAT_REASON = 0 ∧ t.get F.SCN_ARM_GO = 1 ∧
        t.scn = { s.scn with started := false, blocks := List.replicate 4 0, need := warmNeed s } ∧
        Changes [.regs, .scn, .hst] [R.SCN_STAT, R.SCN_ARM] s t) ∧
    (reached s R.SCN_ARM = true → armReason s ≠ 0 →
      ∃ t, exec .sceneArm s = .next t ∧ t.get F.SCN_STAT_STATE = s.get F.SCN_STAT_STATE ∧ t.get F.SCN_STAT_REASON = armReason s ∧
        t.get ⟨G.SCN_ARM_REFUSED.ptr, G.SCN_ARM_REFUSED.bit, G.SCN_ARM_REFUSED.bit⟩ = 1 ∧
        Changes [.regs, .hst] [R.SCN_STAT, R.SCN_ARM, G.SCN_ARM_REFUSED.ptr, G.SCN_ARM_REFUSED.cptr] s t) ∧
    (reached s R.SCN_ARM = true → s.get F.SCN_STAT_STATE = 1 →
      ∃ t, exec .sceneAbort s = .next t ∧ t.get F.SCN_STAT_STATE = 0 ∧ t.get F.SCN_ARM_GO = 0 ∧ t.scn.started = false ∧
        Changes [.regs, .mb, .scn, .hst] [R.SCN_STAT, R.SCN_ARM] s t) ∧
    (reached s R.SCN_ARM = true → s.get F.SCN_STAT_STATE ≠ 1 →
      ∃ t, exec .sceneAbort s = .next t ∧ t.get F.SCN_ARM_ABORT = 0 ∧ Changes [.regs, .hst] [R.SCN_ARM] s t) ∧
    (readable s .hostPrimary R.SCN_NOW_L = true →
      ∃ t, exec .blockIndexRead s = .next t ∧ t.rdata.toNat = s.time.block % 2 ^ 32 ∧
        t.scn.nowHigh.toNat = s.time.block / 2 ^ 32 % 2 ^ 16 ∧ Changes [.rdata, .scn] [] s t)

/-- The Music Box cores (R29, R34, R101, R103, R124, R129, R131): a unit completes once a block, and its taps enter GD1, or are discarded and
flagged where the core's place there is full; CH_LA is taken while the channel is muted and refused
otherwise; an uncorrectable error in a core makes its unit an overrun and a swap due; a swap request makes a swap due; an error
of the spare retires it (the model's reading of R129, log entry 16). -/
def Obligations.MusicBoxCores : Prop :=
  ∀ s : State, s.sys.inReset = false →
    (∀ q : Fin 4, s.sys.procs = true → (physOf s q).isSome = true → s.mb.done.getD q true = false → s.mb.ue.getD q false = false →
      ((s.gate .gd1).countP (fun w => w.head? == some (BitVec.ofNat 32 q)) < gateCapacity →
        ∃ t w, exec (.mbUnitComplete q) s = .next t ∧ t.mb.done = s.mb.done.set q true ∧ w.length = 32 ∧
          t.gates = s.gates.modify (gateIdx .gd1) (· ++ [BitVec.ofNat 32 q :: w]) ∧ Changes [.gates, .mb] [] s t) ∧
      (gateCapacity ≤ (s.gate .gd1).countP (fun w => w.head? == some (BitVec.ofNat 32 q)) →
        ∃ t, exec (.mbUnitComplete q) s = .next t ∧ t.mb.done = s.mb.done.set q true ∧
          t.get ⟨G.SYS_GD1_STALL.ptr, G.SYS_GD1_STALL.bit, G.SYS_GD1_STALL.bit⟩ = 1 ∧
          Changes [.regs, .mb] [G.SYS_GD1_STALL.ptr, G.SYS_GD1_STALL.cptr] s t)) ∧
    (∀ (c : Chan) (v : Word), reached s (R.CH_LA c) = true → (s.mbCh c).muted = true →
      ∃ t, exec (.laWrite c v) s = .next t ∧ t.get (F.CH_LA_LA c) = min (v.toNat % 512) 384 ∧ Changes [.regs, .hst] [R.CH_LA c] s t) ∧
    (∀ (c : Chan) (v : Word), reached s (R.CH_LA c) = true → (s.mbCh c).muted = false →
      ∃ t, exec (.laWrite c v) s = .next t ∧ t.get ⟨(G.CH_LA_REFUSED c).ptr, (G.CH_LA_REFUSED c).bit, (G.CH_LA_REFUSED c).bit⟩ = 1 ∧
        t.get (F.CH_LA_LA c) = s.get (F.CH_LA_LA c) ∧
        Changes [.regs, .hst] [(G.CH_LA_REFUSED c).ptr, (G.CH_LA_REFUSED c).cptr] s t) ∧
    (∀ (p : Fin 5) (q : Nat), logicalOf s p = some q →
      ∃ t, exec (.mbCoreUe p) s = .next t ∧ t.mb = { s.mb with ue := s.mb.ue.set q true, swapDue := s.mb.swapDue.set q true } ∧
        Changes [.mb] [] s t) ∧
    (∀ p : Fin 5, logicalOf s p = none → s.get F.MB_CORE_SPARE = p →
      ∃ t, exec (.mbCoreUe p) s = .next t ∧ t.get F.MB_CORE_SPARE = 0xF ∧ bitN (t.get F.MB_CORE_RETIRED) p = true ∧
        Only [.regs, .bkg] s t) ∧
    (∀ q : Fin 4, reached s R.MB_CORE = true →
      ∃ t, exec (.mbSwapRequest q) s = .next t ∧ t.get F.MB_CORE_SWAP = 1 ∧ t.get F.MB_CORE_SWAP_Q = q ∧
        t.mb = { s.mb with swapDue := s.mb.swapDue.set q true } ∧ Changes [.regs, .mb, .hst] [R.MB_CORE] s t)

/-- Compare words and the switching frequency (R137, R142, R160 to R162, R164): a code of K_SEL below 5 is taken where every channel is stopped
and every leg's limits fit, and any other write is refused; a word is captured into SHADOW and waits there, counting SHD_OVW over a
waiting word and RELOAD_HIT on the reload edge; a host word does so in host mode for a leg that takes its own word, and in a paralleled
channel for the leg two above as well, else it is refused. -/
def Obligations.CompareWords : Prop :=
  ∀ s : State,
    (∀ v : Word, reached s R.PWM_FSW = true → v.toNat % 8 < 5 → (∀ c < 16, chanStopped s c = true) →
      (∀ l < 32, limitsOk (kOfCode (v.toNat % 8)) (s.rd (R.MOD_LIM l)) (s.rd (R.MOD_DT l)) = true) →
      ∃ t, exec (.kSelect v) s = .next t ∧ t.get F.PWM_FSW_K_SEL = v.toNat % 8 ∧ t.get F.PWM_FSW_K_LIVE = s.get F.PWM_FSW_K_LIVE ∧
        Changes [.regs, .hst] [R.PWM_FSW] s t) ∧
    (∀ v : Word, reached s R.PWM_FSW = true →
      5 ≤ v.toNat % 8 ∨ (∃ c < 16, chanStopped s c = false) ∨
        (∃ l < 32, limitsOk (kOfCode (v.toNat % 8)) (s.rd (R.MOD_LIM l)) (s.rd (R.MOD_DT l)) = false) →
      ∃ t, exec (.kSelect v) s = .next t ∧ counted G.PWM_FSW_REFUSED s t ∧ t.rd R.PWM_FSW = s.rd R.PWM_FSW ∧
        Changes [.regs, .hst] [G.PWM_FSW_REFUSED.ptr, G.PWM_FSW_REFUSED.cptr] s t) ∧
    (∀ (l : Leg) (w : Word16), s.sys.inReset = false → s.get (F.MOD_STAT_PENDING l) = 0 →
      ∃ t, exec (.shadowWrite l w false) s = .next t ∧ t.get (F.MOD_CMPS_SHADOW l) = w.toNat ∧ t.get (F.MOD_STAT_PENDING l) = 1 ∧
        Changes [.regs] [R.MOD_CMPS l, R.MOD_STAT l] s t) ∧
    (∀ (l : Leg) (w : Word16), s.sys.inReset = false → s.get (F.MOD_STAT_PENDING l) = 1 →
      ∃ t, exec (.shadowWrite l w false) s = .next t ∧ t.get (F.MOD_CMPS_SHADOW l) = w.toNat ∧ t.get (F.MOD_STAT_PENDING l) = 1 ∧
        counted (G.MOD_SHD_OVW l) s t ∧ Changes [.regs] [R.MOD_CMPS l, R.MOD_STAT l, (G.MOD_SHD_OVW l).ptr, (G.MOD_SHD_OVW l).cptr] s t) ∧
    (∀ (l : Leg) (w : Word16), s.sys.inReset = false →
      ∃ t, exec (.shadowWrite l w true) s = .next t ∧ t.get (F.MOD_CMPS_SHADOW l) = w.toNat ∧ t.get (F.MOD_STAT_PENDING l) = 1 ∧
        counted (G.MOD_RELOAD_HIT l) s t ∧
        Changes [.regs] [R.MOD_CMPS l, R.MOD_STAT l, (G.MOD_RELOAD_HIT l).ptr, (G.MOD_RELOAD_HIT l).cptr] s t) ∧
    (∀ (l : Leg) (w : Word16) (e : Bool), reached s (R.MOD_CMPW l) = true → s.inForce (F.CH_MOD_SRC (governor s (l / 2))) = 2 →
      ownsWord s l = true →
      ∃ t, exec (.hostCompareWrite l w e) s = .next t ∧ t.get (F.MOD_CMPS_SHADOW l) = w.toNat ∧ t.get (F.MOD_STAT_PENDING l) = 1 ∧
        (paired s (l / 2) = true → t.get (F.MOD_CMPS_SHADOW (l + 2)) = w.toNat ∧ t.get (F.MOD_STAT_PENDING (l + 2)) = 1) ∧
        Only [.regs, .hst] s t) ∧
    (∀ (l : Leg) (w : Word16) (e : Bool), reached s (R.MOD_CMPW l) = true →
      s.inForce (F.CH_MOD_SRC (governor s (l / 2))) ≠ 2 ∨ ownsWord s l = false →
      ∃ t, exec (.hostCompareWrite l w e) s = .next t ∧ counted G.PWM_MOD_REFUSED s t ∧
        Changes [.regs, .hst] [G.PWM_MOD_REFUSED.ptr, G.PWM_MOD_REFUSED.cptr] s t)

/-- Edges of a leg (R29, R141, R154, R157 to R159, R165, R167, R216): a compare instant that changes the side of a leg turns the conducting
switch off and delays the other, and one that does not keeps its outputs; at the end of the dead time that one turns on; Wind-up measures
one delay line after another over 1024 updates, keeps a table that passes for the next boundary and counts one that fails; a trigger that
is not enabled fires nothing; an enabled one sends its notice through GD6 and starts a conversion in the slice that serves its input, or
is ignored and counted where that slice took its last one less than 80 ticks before. -/
def Obligations.LegEdges : Prop :=
  ∀ s : State, s.sys.inReset = false →
    (∀ (l : Leg) (r : Bool) (rest : List Bool), (s.leg l).edges = r :: rest → legAd s l = false → legFree s l = true →
      ((s.leg l).level ≠ r →
        ∃ t, exec (.compareEdge l) s = .next t ∧ (t.leg l).hi = false ∧ (t.leg l).lo = false ∧ (t.leg l).pend = some r ∧
          (t.leg l).due = edgeInstant s l r + deadTime s l r ∧ (t.leg l).level = r ∧ (t.leg l).edges = rest ∧ Changes [.legs] [] s t) ∧
      ((s.leg l).level = r →
        ∃ t, exec (.compareEdge l) s = .next t ∧ t.legs = s.legs.modify l (fun g => { g with edges := rest }) ∧
          Changes [.legs] [] s t)) ∧
    (∀ (l : Leg) (high : Bool), (s.leg l).pend = some high → legFree s l = true →
      ∃ t, exec (.deadTimeEnd l) s = .next t ∧ (t.leg l).hi = high ∧ (t.leg l).lo = (!high) ∧ (t.leg l).pend = none ∧
        Changes [.regs, .legs] [R.TRP_STAT l] s t) ∧
    (s.dlCal.busy = none →
      ∃ t, exec .dlCalibrationStart s = .next t ∧ t.dlCal = { busy := some s.dlCal.next, next := (s.dlCal.next + 1) % 64 } ∧
        t.bkg = { s.bkg with dlDue := false } ∧ Changes [.dlCal, .bkg] [] s t) ∧
    (∀ (n : Fin 64) (ds : List Nat), s.dlCal.upds < 1024 → exec (.dlCalibrationDone n ds) s = .next s) ∧
    (∀ (n : Fin 64) (ds : List Nat) (tp : List Nat), s.dlCal.busy = some n.val → 1024 ≤ s.dlCal.upds → chooseTaps ds 31 0 1 = some tp →
      ∃ t, exec (.dlCalibrationDone n ds) s = .next t ∧ t.dlCal = { s.dlCal with busy := none } ∧
        t.get ⟨if n.val % 2 = 1 then R.MOD_DLL (n.val / 2) else R.MOD_DLH (n.val / 2), 1, 0⟩ = 0 ∧
        t.legs = s.legs.modify (n.val / 2) (fun g =>
          if n.val % 2 = 1 then { g with nextLo := some (0 :: tp), failsLo := 0 } else { g with nextHi := some (0 :: tp), failsHi := 0 }) ∧
        Changes [.regs, .legs, .dlCal] [if n.val % 2 = 1 then R.MOD_DLL (n.val / 2) else R.MOD_DLH (n.val / 2)] s t) ∧
    (∀ (n : Fin 64) (ds : List Nat), s.dlCal.busy = some n.val → 1024 ≤ s.dlCal.upds → chooseTaps ds 31 0 1 = none →
      ∃ t, exec (.dlCalibrationDone n ds) s = .next t ∧ t.dlCal = { s.dlCal with busy := none } ∧
        t.get ⟨if n.val % 2 = 1 then R.MOD_DLL (n.val / 2) else R.MOD_DLH (n.val / 2), 0, 0⟩ = 1 ∧ counted (G.MOD_DL_FAIL (n.val / 2)) s t ∧
        Only [.regs, .legs, .dlCal] s t) ∧
    (∀ (l : Leg) (b : Bool), triggerOf s l b = none → exec (.converterTrigger l b) s = .next s) ∧
    ∀ (l : Leg) (b : Bool) (i pos n : Nat), triggerOf s l b = some (i, pos) → (s.input i).lastIssue ≠ some (s.time.taps + pos) →
      i < s.sense.inputs.length → s.sense.rot = none → s.sys.calDone = true → servingSlice s i = some n → n < s.sense.slices.length →
      (s.gate .gd6).countP (fun w => w.head? == some (BitVec.ofNat 32 (i + 1))) < gateCapacity →
      (sliceBusy s n pos = false → (s.slice n).conv = none →
        ∃ t, exec (.converterTrigger l b) s = .next t ∧ (t.input i).accepted = true ∧ (t.slice n).lastTap = some (s.time.taps + pos) ∧
          (t.slice n).conv = some { input := i, upd := s.time.updates, first := !(s.input i).accepted, pos := pos, spare := false,
                                    retry := false } ∧
          t.gates = s.gates.modify (gateIdx .gd6) (· ++ [[BitVec.ofNat 32 (i + 1), BitVec.ofNat 32 pos]]) ∧
          Changes [.gates, .sense] [] s t) ∧
      (sliceBusy s n pos = true →
        ∃ t, exec (.converterTrigger l b) s = .next t ∧ (t.input i).accepted = (s.input i).accepted ∧ t.slice n = s.slice n ∧
          counted (G.SNS_TRG_BUSY (i / 2)) s t ∧
          Changes [.regs, .gates, .sense] [(G.SNS_TRG_BUSY (i / 2)).ptr, (G.SNS_TRG_BUSY (i / 2)).cptr] s t)

/-- Sources of a channel (R168, R169, R641): a write of CH_MOD that keeps MODE and PAR stores SRC, whose effect waits for the next update
boundary, whether it starts the channel, stops it or switches between loop and host mode; PRECHARGE ends and every leg switches. -/
def Obligations.ChannelSources : Prop :=
  ∀ (s : State) (c : Chan),
    (∀ v : Word, reached s (R.CH_MOD c) = true → oddHalf s c = false → bitsN v.toNat 0 0 = s.get (F.CH_MOD_MODE c) →
      (if c.val % 2 = 0 then bitsN v.toNat 4 4 else 0) = s.get (F.CH_MOD_PAR c) →
      (newSrc c v = 1 → oldSrc s c ≠ 1 → progOk s c = true) →
      (srcRuns (oldSrc s c) = false → srcRuns (newSrc c v) = true →
        ∃ t, exec (.channelStart c v) s = .next t ∧ t.get (F.CH_MOD_SRC c) = newSrc c v ∧ t.heldU.any (fun e => e.1 = R.CH_MOD c) = true ∧
          Changes [.regs, .heldU, .hst] [R.CH_MOD c] s t) ∧
      (srcRuns (newSrc c v) = false →
        ∃ t, exec (.channelStop c v) s = .next t ∧ t.get (F.CH_MOD_SRC c) = newSrc c v ∧ t.heldU.any (fun e => e.1 = R.CH_MOD c) = true ∧
          Changes [.regs, .heldU, .hst] [R.CH_MOD c] s t) ∧
      (srcRuns (oldSrc s c) = true → srcRuns (newSrc c v) = true → oldSrc s c ≠ newSrc c v →
        ∃ t, exec (.srcSwitch c v) s = .next t ∧ t.get (F.CH_MOD_SRC c) = newSrc c v ∧ t.heldU.any (fun e => e.1 = R.CH_MOD c) = true ∧
          Changes [.regs, .heldU, .hst] [R.CH_MOD c] s t)) ∧
    (s.sys.inReset = false → s.get (F.MOD_STAT_STATE (2 * c)) = 1 → (s.pwmCh c).precharge = 0 → oddHalf s c = false →
      ∃ t, exec (.prechargeEnd c) s = .next t ∧ (∀ l ∈ legsOf s c, t.get (F.MOD_STAT_STATE l) = 2) ∧ Only [.regs, .conds, .legs] s t)

/-- Fault and trip inputs (R172, R174, R175, R178, R179, R186, R188): an accepted input is shown, and outside a blanking window its source is
reported through GS2; without an action it does nothing more, a leg's with Latch latches the channel with its cause and every gate output
low, one with Device enters the device-level safe state; inside a blanking window a leg's input is only shown, and at the window's end
one that is still active with Device acts; a release takes it away, and counts inside a window. -/
def Obligations.FaultInputs : Prop :=
  ∀ s : State, s.sys.inReset = false →
    (∀ l : Leg, s.get (F.TRP_STAT_BLANKING l) = 1 →
      ∃ t, exec (.faultInputAccept (.leg l)) s = .next t ∧ t.get (F.TRP_STAT_IN_ACT l) = 1 ∧ Changes [.regs] [R.TRP_STAT l] s t) ∧
    (∀ l : Leg, s.get (F.TRP_STAT_BLANKING l) = 0 → s.get (F.TRP_CFG_FLT_ACT l) = 0 →
      ∃ t, exec (.faultInputAccept (.leg l)) s = .next t ∧ t.get (F.TRP_STAT_IN_ACT l) = 1 ∧
        t.gates = s.gates.modify (gateIdx .gs2) (· ++ [[BitVec.ofNat 32 l.val]]) ∧ Changes [.regs, .gates] [R.TRP_STAT l] s t) ∧
    (∀ l : Leg, s.get (F.TRP_STAT_BLANKING l) = 0 → s.get (F.TRP_CFG_FLT_ACT l) = 2 →
      s.get (F.CH_TRST_LATCHED (governor s (l / 2))) = 0 →
      ∃ t, exec (.faultInputAccept (.leg l)) s = .next t ∧ t.get (F.TRP_STAT_IN_ACT l) = 1 ∧
        latchedWith (governor s (l / 2)) (l - 2 * governor s (l / 2) + 1) t ∧ counted (G.CH_LATCH (governor s (l / 2))) s t ∧
        t.gates = s.gates.modify (gateIdx .gs2) (· ++ [[BitVec.ofNat 32 l.val]]) ∧ Only [.regs, .gates, .legs, .pwm] s t) ∧
    (∀ l : Leg, s.get (F.TRP_STAT_BLANKING l) = 0 → s.get (F.TRP_CFG_FLT_ACT l) = 3 →
      ∃ t, exec (.faultInputAccept (.leg l)) s = .next t ∧ t.get (F.TRP_STAT_IN_ACT l) = 1 ∧ safeWith 8 t ∧
        t.gates = s.gates.modify (gateIdx .gs2) (· ++ [[BitVec.ofNat 32 l.val]]) ∧ Only [.regs, .gates, .legs, .pwm, .safe, .pins] s t) ∧
    (∀ n : Fin 4, bitsN (s.rd (0x60 + 4 * n)).toNat 31 30 = 0 →
      ∃ t, exec (.faultInputAccept (.trip n)) s = .next t ∧ t.get ⟨0x60 + 4 * n, 16, 16⟩ = 1 ∧
        t.gates = s.gates.modify (gateIdx .gs2) (· ++ [[BitVec.ofNat 32 (32 + n.val)]]) ∧ Changes [.regs, .gates] [0x60 + 4 * n] s t) ∧
    (∀ n : Fin 4, bitsN (s.rd (0x60 + 4 * n)).toNat 31 30 = 3 →
      ∃ t, exec (.faultInputAccept (.trip n)) s = .next t ∧ t.get ⟨0x60 + 4 * n, 16, 16⟩ = 1 ∧ safeWith 8 t ∧
        t.gates = s.gates.modify (gateIdx .gs2) (· ++ [[BitVec.ofNat 32 (32 + n.val)]]) ∧ Only [.regs, .gates, .legs, .pwm, .safe, .pins] s t) ∧
    (∀ l : Leg,
      ∃ t, exec (.faultInputRelease (.leg l)) s = .next t ∧ t.get (F.TRP_STAT_IN_ACT l) = 0 ∧
        (s.get (F.TRP_STAT_IN_ACT l) = 1 → s.get (F.TRP_STAT_BLANKING l) = 1 → counted (G.TRP_FLT_BLANKED l) s t) ∧
        Changes [.regs] [R.TRP_STAT l, (G.TRP_FLT_BLANKED l).ptr, (G.TRP_FLT_BLANKED l).cptr] s t) ∧
    (∀ n : Fin 4, ∃ t, exec (.faultInputRelease (.trip n)) s = .next t ∧ t.get ⟨0x60 + 4 * n, 16, 16⟩ = 0 ∧
      Changes [.regs] [0x60 + 4 * n] s t) ∧
    (∀ l : Leg, s.get (F.TRP_STAT_BLANKING l) = 1 → s.get (F.TRP_STAT_IN_ACT l) = 0 →
      ∃ t, exec (.blankWindowEnd l) s = .next t ∧ t.get (F.TRP_STAT_BLANKING l) = 0 ∧ Changes [.regs] [R.TRP_STAT l] s t) ∧
    ∀ l : Leg, s.get (F.TRP_STAT_BLANKING l) = 1 → s.get (F.TRP_STAT_IN_ACT l) = 1 → s.get (F.TRP_CFG_FLT_ACT l) = 3 →
      ∃ t, exec (.blankWindowEnd l) s = .next t ∧ t.get (F.TRP_STAT_BLANKING l) = 0 ∧ safeWith 8 t ∧
        t.gates = s.gates.modify (gateIdx .gs2) (· ++ [[BitVec.ofNat 32 l.val]]) ∧ Only [.regs, .gates, .legs, .pwm, .safe, .pins] s t

/-- The safe states of a channel (R188 to R196): in the LOW states Tin Soldier turns LO on and HOLD turns it off again; CLR clears an
unopposed latch and asks for the restart, and is refused and counted where a condition persists; FORCE latches with cause 0xD. -/
def Obligations.ChannelSafeStates : Prop :=
  ∀ (s : State) (c : Chan),
    (s.sys.inReset = false → s.get (F.CH_TRST_LATCHED c) = 1 → (s.pwmCh c).stage = 1 → lowSelected s c = true → deviceSafe s = false →
      ∃ t, exec (.safeLoOn c) s = .next t ∧ (t.pwmCh c).stage = 2 ∧
        (∀ l ∈ legsOf s c, l < s.legs.length → (t.leg l).lo = true ∧ (t.leg l).hi = false) ∧ Only [.regs, .legs, .pwm] s t) ∧
    (s.sys.inReset = false → s.get (F.CH_TRST_LATCHED c) = 1 → (s.pwmCh c).stage = 2 → s.get (F.CH_TRP_SAFE_SEL c) = 2 →
      ∃ t, exec (.safeHoldEnd c) s = .next t ∧ (t.pwmCh c).stage = 3 ∧ (∀ l ∈ legsOf s c, (t.leg l).lo = false ∧ (t.leg l).hi = false) ∧
        Changes [.legs, .pwm] [] s t) ∧
    (reached s (R.CH_TCLR c) = true → oddHalf s c = false → s.get (F.CH_TRST_LATCHED c) = 1 → clearRefused s c = false →
      ∃ t, exec (.latchClear c) s = .next t ∧ t.get (F.CH_TRST_LATCHED c) = 0 ∧ t.get (F.CH_TRST_CAUSE c) = 0 ∧ t.get (F.CH_TRST_TCNT c) = 0 ∧
        t.pwm = s.pwm.modify c (fun p => { p with release := true }) ∧ Changes [.regs, .pwm, .hst] [R.CH_TRST c] s t) ∧
    (reached s (R.CH_TCLR c) = true → oddHalf s c = false → s.get (F.CH_TRST_LATCHED c) = 1 → clearRefused s c = true →
      ∃ t, exec (.latchClear c) s = .next t ∧ t.get (F.CH_TRST_LATCHED c) = 1 ∧ counted (G.CH_CLR_REFUSED c) s t ∧
        Changes [.regs, .hst] [(G.CH_CLR_REFUSED c).ptr, (G.CH_CLR_REFUSED c).cptr] s t) ∧
    (reached s (R.CH_TCLR c) = true → oddHalf s c = false → s.get (F.CH_TRST_LATCHED c) = 0 →
      ∃ t, exec (.latchForce c) s = .next t ∧ latchedWith c 0xD t ∧ counted (G.CH_LATCH c) s t ∧ Only [.regs, .legs, .pwm, .hst] s t)

/-- The sources of the device-level safe state (R197, R198, R203 to R206): FORCE, missing activity words, a media PLL out of lock, a die at
TEMP_TRIP, a mismatch of the Tin Soldier cores, and one of the clocks 0 to 3 outside its limits in two windows in a row; each
records its CAUSE bit and takes every gate ball low. -/
def Obligations.DeviceSafeSources : Prop :=
  ∀ s : State,
    (reached s R.TS_CTRL = true →
      ∃ t, exec .deviceSafeForce s = .next t ∧ safeWith 10 t ∧ Only [.regs, .legs, .pwm, .safe, .pins, .hst] s t) ∧
    (s.sys.inReset = false →
      ∃ t, exec .pwmActivityTimeout s = .next t ∧ safeWith 0 t ∧ Only [.regs, .legs, .pwm, .safe, .pins] s t) ∧
    (s.sys.inReset = false →
      ∃ t, exec .mediaPllUnlock s = .next t ∧ safeWith 5 t ∧ t.get F.CLK_STAT_MEDIA_LOCK = 0 ∧
        Only [.regs, .legs, .pwm, .safe, .pins] s t) ∧
    (∀ x : Int, s.sys.inReset = false → 16 * s.get F.TS_TLIM_TEMP_TRIP ≤ x →
      ∃ t, exec (.dieTempMeasure x) s = .next t ∧ safeWith 6 t ∧ t.get F.TS_TEMP_TEMP = pattern 16 x ∧ t.safe.hot = true ∧
        Only [.regs, .legs, .pwm, .safe, .pins] s t) ∧
    (s.sys.inReset = false →
      ∃ t, exec .lockstepMismatch s = .next t ∧ safeWith 11 t ∧ Only [.regs, .legs, .pwm, .safe, .pins] s t) ∧
    ∀ clk count : Nat, s.sys.inReset = false → clk < 4 → outsideLimit clk count = true → 1 ≤ s.safe.bad.getD clk 0 →
      ∃ t, exec (.clockMonitorWindow clk count) s = .next t ∧ safeWith (clk + 1) t ∧ Only [.regs, .legs, .pwm, .safe, .pins] s t

/-- Tin Soldier's other commands (R201, R203 to R210): CLR ends the device-level safe state where no source is active, and is refused and
counted where one is; LOCK sets; a temperature reading below TEMP_TRIP is published; a window of clock 0 to 3 inside its limits clears the
clock's count and the first one outside them only counts; the second one of the NET, MGMT or crystal clock counts its flag; a debug halt
of the management core stops it alone, one of any other processor asks for the outputs to go off, and one of Tin Soldier does nothing. -/
def Obligations.TinSoldier : Prop :=
  ∀ s : State,
    (reached s R.TS_CTRL = true → deviceSafe s = true → deviceSourceActive s = false → s.get ⟨R.TS_STAT, 7, 7⟩ = 0 →
      s.get ⟨R.TS_STAT, 11, 11⟩ = 0 →
      ∃ t, exec .deviceSafeClear s = .next t ∧ t.get F.TS_STAT_DEV_SAFE_NOW = 0 ∧ t.get F.TS_STAT_CAUSE = 0 ∧ t.safe.release = true ∧
        Changes [.regs, .safe, .hst] [R.TS_STAT] s t) ∧
    (reached s R.TS_CTRL = true → deviceSafe s = true →
      deviceSourceActive s = true ∨ s.get ⟨R.TS_STAT, 7, 7⟩ = 1 ∨ s.get ⟨R.TS_STAT, 11, 11⟩ = 1 →
      ∃ t, exec .deviceSafeClear s = .next t ∧ t.get F.TS_STAT_DEV_SAFE_NOW = 1 ∧ counted G.TS_CLR_REFUSED s t ∧
        Changes [.regs, .hst] [G.TS_CLR_REFUSED.ptr, G.TS_CLR_REFUSED.cptr] s t) ∧
    (reached s R.TS_CTRL = true →
      ∃ t, exec .limitsLock s = .next t ∧ t.get F.TS_CTRL_LOCK = 1 ∧ t.get F.TS_STAT_LOCKED = 1 ∧
        Changes [.regs, .hst] [R.TS_CTRL, R.TS_STAT] s t) ∧
    (∀ x : Int, s.sys.inReset = false → x < 16 * s.get F.TS_TLIM_TEMP_TRIP →
      ∃ t, exec (.dieTempMeasure x) s = .next t ∧ t.get F.TS_TEMP_TEMP = pattern 16 x ∧
        t.get F.TS_TEMP_SEQ = (s.get F.TS_TEMP_SEQ + 1) % 65536 ∧ t.legs = s.legs ∧
        (s.safe.warnArmed = true → 16 * s.get F.TS_TLIM_TEMP_WARN ≤ x → counted G.TS_TEMP_WARN s t ∧ t.safe.warnArmed = false) ∧
        Changes [.regs, .safe] [R.TS_TEMP, G.TS_TEMP_WARN.ptr, G.TS_TEMP_WARN.cptr] s t) ∧
    (∀ clk count : Nat, s.sys.inReset = false → clk < 4 → outsideLimit clk count = false →
      ∃ t, exec (.clockMonitorWindow clk count) s = .next t ∧
        t.safe = { s.safe with
          bad := s.safe.bad.set clk 0
          pwmSilent := if clk = 3 then false else s.safe.pwmSilent } ∧
        Changes [.safe] [] s t) ∧
    (∀ clk count : Nat, s.sys.inReset = false → clk < 4 → outsideLimit clk count = true → s.safe.bad.getD clk 0 = 0 →
      ∃ t, exec (.clockMonitorWindow clk count) s = .next t ∧ t.safe = { s.safe with bad := s.safe.bad.set clk 1 } ∧
        Changes [.safe] [] s t) ∧
    (∀ (clk count : Nat) (g : Flag), s.sys.inReset = false → (clk, g) ∈ [(4, G.TS_NET_CLK), (5, G.TS_MGMT_CLK), (7, G.TS_XTAL_CLK)] →
      outsideLimit clk count = true → 1 ≤ s.safe.bad.getD clk 0 → s.conds.contains (g.ptr * 32 + g.bit) = false →
      ∃ t, exec (.clockMonitorWindow clk count) s = .next t ∧ counted g s t ∧ Changes [.regs, .conds, .safe] [g.ptr, g.cptr] s t) ∧
    (s.sys.inReset = false → debugAccess s = true →
      (∃ t, exec (.debugHalt .management) s = .next t ∧ t.sys = { s.sys with mgmtStopped := true } ∧ Changes [.sys] [] s t) ∧
      (∀ p : Proc, p = .musicBox ∨ p = .ventriloquist ∨ p = .marionette →
        ∃ t, exec (.debugHalt p) s = .next t ∧ t.safe = { s.safe with halted := true, haltDue := true } ∧ Changes [.safe] [] s t) ∧
      (∃ t, exec (.debugHalt .device) s = .next t ∧ t.safe = { s.safe with halted := true, haltDue := true } ∧
        t.sys.mgmtStopped = true ∧ Changes [.sys, .safe] [] s t) ∧
      exec (.debugHalt .tinSoldier) s = .next s)

/-- Conversions (R215, R218, R219, R221 to R223, R288, R289): a good conversion, or a good retry, of the first trigger of the running update gives the update result by R218
and the instant at which it is usable; a redundancy error starts a retry and counts; a second one loses the result and counts. -/
def Obligations.Conversions : Prop :=
  ∀ (s : State) (n : Slice) (v : Conv) (raw : Word16), s.sys.inReset = false → (s.slice n).conv = some v → v.input < 32 →
    v.input < s.sense.inputs.length → v.first = true → v.spare = false → v.upd = s.time.updates → s.sense.rot = none →
    (v.retry = false →
      ∃ t, exec (.conversionEnd n raw false) s = .next t ∧ (t.slice n).conv = none ∧
        (t.input v.input).cur = some (corrected (s.slice n).gain (s.slice n).offs
          (s.inForceB (if v.input % 2 = 0 then F.SNS_CFG_V_INV (v.input / 2) else F.SNS_CFG_I_INV (v.input / 2))) raw) ∧
        (t.input v.input).usable = usableCycle v.pos false ∧ Only [.regs, .conds, .gates, .sense, .loops] s t) ∧
    (v.retry = false →
      ∃ t, exec (.conversionEnd n raw true) s = .next t ∧ (t.slice n).conv = some { v with retry := true } ∧
        counted (G.SNS_RETRY (v.input / 2)) s t ∧
        Changes [.regs, .sense] [(G.SNS_RETRY (v.input / 2)).ptr, (G.SNS_RETRY (v.input / 2)).cptr] s t) ∧
    (v.retry = true →
      ∃ t, exec (.retryEnd n raw false) s = .next t ∧ (t.slice n).conv = none ∧
        (t.input v.input).cur = some (corrected (s.slice n).gain (s.slice n).offs
          (s.inForceB (if v.input % 2 = 0 then F.SNS_CFG_V_INV (v.input / 2) else F.SNS_CFG_I_INV (v.input / 2))) raw) ∧
        (t.input v.input).usable = usableCycle v.pos true ∧ Only [.regs, .conds, .gates, .sense, .loops] s t) ∧
    (v.retry = true → ((s.slice n).losses.all fun x => decide (x + 65536 ≤ (s.slice n).trigs)) = true →
      ∃ t, exec (.retryEnd n raw true) s = .next t ∧ (t.slice n).conv = none ∧ (t.input v.input).lost = true ∧
        (t.input v.input).usable = (1272 * v.pos + 5200000) / 81380 + 1 ∧ (t.slice n).losses = [(s.slice n).trigs] ∧ counted (G.SNS_RETRY_LOST (v.input / 2)) s t ∧
        Changes [.regs, .sense] [(G.SNS_RETRY_LOST (v.input / 2)).ptr, (G.SNS_RETRY_LOST (v.input / 2)).cptr] s t)

/-- Decimation, calibration and rotation of the sense slices, rail sensing, and the latched read of a calibration (R34, R36, R220, R225 to R228,
R238, R243): the decimators' 32 words enter GD4, or each counts as a stall where it is full; the start-up calibration completes; a rotation
step starts with a ready spare and its overlap ends; the calibration of a slice that passes is published, and one that fails retires it;
a rail code is published with its factor; and a read of SNS_CALR0 latches SNS_CALR1. -/
def Obligations.SenseCommands : Prop :=
  ∀ s : State,
    (s.sys.inReset = false → (s.gate .gd4).length < 3 →
      ∃ t, exec .decimatorOutput s = .next t ∧
        t.gates = s.gates.modify (gateIdx .gd4) (· ++ [s.sense.inputs.map fun x => (Config.decimOut x.tok).setWidth 32]) ∧
        Changes [.gates, .sense] [] s t) ∧
    (s.sys.inReset = false → 3 ≤ (s.gate .gd4).length →
      ∃ t, exec .decimatorOutput s = .next t ∧ t.gates = s.gates ∧
        (s.sense.inputs.length = 32 →
          t.get ⟨G.SYS_GD4_STALL.ptr, G.SYS_GD4_STALL.bit, G.SYS_GD4_STALL.bit⟩ = 1 ∧
          t.get ⟨G.SYS_GD4_STALL.cptr, G.SYS_GD4_STALL.clo + 7, G.SYS_GD4_STALL.clo⟩ =
            (s.get ⟨G.SYS_GD4_STALL.cptr, G.SYS_GD4_STALL.clo + 7, G.SYS_GD4_STALL.clo⟩ + 32) % 256) ∧
        Changes [.regs, .sense] [G.SYS_GD4_STALL.ptr, G.SYS_GD4_STALL.cptr] s t) ∧
    (∀ o : List CalOutcome, s.sys.inReset = false → s.sys.calDone = false →
      ∃ t, exec (.startupCalDone o) s = .next t ∧ t.sys = { s.sys with calDone := true } ∧ Only [.regs, .gates, .sys, .sense, .bkg] s t) ∧
    (∀ (n : Nat) (m i : Nat), s.sys.inReset = false → s.get F.SNS_ROT_ROT_EN = 1 → s.sense.rot = none → s.bkg.rotDue = true →
      s.sys.calDone = true → readySpare s = some n → oldestServing s = some (m, i) →
      ∃ t, exec .rotationStepStart s = .next t ∧ t.sense.rot = some { out := m, spare := n, input := i } ∧
        t.bkg = { s.bkg with rotDue := false } ∧ Changes [.sense, .bkg] [] s t) ∧
    (∀ r : Rotation, s.sys.inReset = false → s.sense.rot = some r → 256 ≤ r.trigs ∨ 256 ≤ r.upds →
      ∃ t, exec .rotationOverlapEnd s = .next t ∧ t.sense.rot = some { r with isOver := true } ∧ Changes [.sense] [] s t) ∧
    (∀ o : CalOutcome, s.sys.inReset = false → s.get F.SNS_POOL_CAL < 34 → calPasses o = true →
      ∃ t, exec (.sliceCalDone o) s = .next t ∧ t.get F.SNS_POOL_CAL = 0x3F ∧ t.get F.SNS_CALR0_PASS = 1 ∧
        t.get F.SNS_CALR0_SLICE = s.get F.SNS_POOL_CAL ∧ t.get F.SNS_CALR1_GAIN = o.gain ∧
        t.sense.calCount = s.sense.calCount + 1 ∧ Changes [.regs, .sense] [R.SNS_POOL, R.SNS_CALR0, R.SNS_CALR1] s t) ∧
    (∀ o : CalOutcome, s.sys.inReset = false → s.get F.SNS_POOL_CAL < 34 → calPasses o = false →
      ∃ t, exec (.sliceCalDone o) s = .next t ∧ t.get F.SNS_POOL_CAL = 0x3F ∧ t.get F.SNS_CALR0_PASS = 0 ∧
        sliceRetired t (s.get F.SNS_POOL_CAL) = true ∧ Only [.regs, .sense, .bkg] s t) ∧
    (∀ (n : Fin 4) (code : BitVec 12), s.sys.inReset = false → bitsN (s.live (0x1A0 + 4 * n)).toNat 29 28 = 0 →
      (s.sense.rails.getD n {}).codes = [] →
      ∃ t, exec (.railConversion n code) s = .next t ∧
        t.rd (0x1C0 + 4 * n) = BitVec.ofNat 32 (rff (bitsN (s.live (0x1B0 + 4 * n)).toNat 11 0) code.toNat * 65536 + code.toNat) ∧
        Only [.regs, .conds, .gates, .sense, .loops] s t) ∧
    (readable s .hostPrimary R.SNS_CALR0 = true →
      ∃ t, exec .calResultRead s = .next t ∧ t.rdata = s.rd R.SNS_CALR0 ∧ t.sense = { s.sense with calLatch := s.rd R.SNS_CALR1 } ∧
        Changes [.rdata, .sense] [] s t)

/-- The arithmetic instructions of a lane (R248 to R258): NOP does nothing; MAC adds the exact product to ACC and saturates to 40 bits; MACD
does so with the saturated difference of two operands, which S[DS] takes; INTG sums W[II] and stores it unless it is frozen. The
destination is stored as DST says, and each takes one cycle and changes nothing outside its lane. -/
def Obligations.LaneArithmetic : Prop :=
  ∀ (s : State) (n : Lane), s.sys.inReset = false → (s.lane n).cycle < upcOf (kLive s) →
    (laneAt s n 0 = true → ∃ t, exec (.nop n) s = .next t ∧ t.lane n = stepped (s.lane n) (s.lane n).r ∧ onlyLane n s t) ∧
    (∀ (x : LaneSt) (i : LInstr) (a : Int), x = s.lane n → i = fetchLane (laneLive s n) x.pc → laneAt s n 1 = true →
      a = satS 40 (initOf x i + productOf (laneLive s n) x i (operand x i.opa)) →
      ∃ t, exec (.mac n) s = .next t ∧ (t.lane n).r.acc = a ∧ stored (ispLim s n) i a x { x.r with acc := a } (t.lane n) ∧ onlyLane n s t) ∧
    (∀ (x : LaneSt) (i : LInstr) (d a : Int), x = s.lane n → i = fetchLane (laneLive s n) x.pc → laneAt s n 2 = true →
      d = satS 16 (operand x i.opa - operand x i.opb) → a = satS 40 (initOf x i + productOf (laneLive s n) x i d) →
      ∃ t, exec (.macd n) s = .next t ∧ (t.lane n).r.acc = a ∧
        stored (ispLim s n) i a x { x.r with acc := a, s := x.r.s.set i.ds d } (t.lane n) ∧ onlyLane n s t) ∧
    ∀ (x : LaneSt) (i : LInstr) (p a : Int), x = s.lane n → i = fetchLane (laneLive s n) x.pc → laneAt s n 3 = true →
      p = productOf (laneLive s n) x i (operand x i.opa) → a = satS 40 (x.r.w.getD i.ii 0 + p) →
      ∃ t, exec (.intg n) s = .next t ∧ (t.lane n).r.acc = a ∧
        (i.outer = false → s.get F.TWN_STAT_FROZEN = 0 → ¬(0 < p ∧ x.r.sati = 1) → ¬(p < 0 ∧ x.r.sati = 2) →
          stored (ispLim s n) i a x { x.r with acc := a, w := x.r.w.set i.ii a } (t.lane n)) ∧
        (i.outer = false → (0 < p ∧ x.r.sati = 1) ∨ (p < 0 ∧ x.r.sati = 2) →
          stored (ispLim s n) i a x { x.r with acc := a } (t.lane n)) ∧
        (i.outer = true → s.get F.TWN_STAT_FROZEN = 0 → ¬(0 < p ∧ (x.r.sato = 1 ∨ x.r.hiSeen = true)) →
          ¬(p < 0 ∧ (x.r.sato = 2 ∨ x.r.loSeen = true)) →
          stored (ispLim s n) i a x { x.r with acc := a, w := x.r.w.set i.ii a, hiSeen := false, loSeen := false } (t.lane n)) ∧
        (i.outer = true → (0 < p ∧ (x.r.sato = 1 ∨ x.r.hiSeen = true)) ∨ (p < 0 ∧ (x.r.sato = 2 ∨ x.r.loSeen = true)) →
          stored (ispLim s n) i a x { x.r with acc := a, hiSeen := false, loSeen := false } (t.lane n)) ∧
        onlyLane n s t

/-- The sequencing instructions of a lane (R146, R255, R259 to R263, R265, R266, R291): WAIT completes at once where every result it waits for is usable, else the lane
waits, and completes when they become usable; SKIPO skips outside outer updates; OUT narrows and clamps ACC in cycle OUT_CYC; END ends the
program; a lane that misses a limit restores its elements and delivers nothing, takes back the value and shaper errors of an OUT of the
update, and the serving lane's overrun is counted, but that of a lane whose channel has latched or stopped is not; the third in a row
makes a trip due, whose operation at the end of an update counts it and sends its request. -/
def Obligations.LaneSequence : Prop :=
  ∀ (s : State) (n : Lane), s.sys.inReset = false →
    (∀ c u, chanOf s n = some c → laneAt s n 4 = true → allReady s c = some u → u ≤ (s.lane n).cycle →
      (s.lane n).cycle ≤ wdlOf (laneLive s n) →
      ∃ t, exec (.wait n) s = .next t ∧ t.lane n = { s.lane n with
        phase := 1, pc := (s.lane n).pc + 1, waited := true, usable := u, vm := updateResult s (2 * c), im := imOf s c (updateResult s) } ∧
        onlyLane n s t) ∧
    (∀ c, chanOf s n = some c → laneAt s n 4 = true → (∀ u, allReady s c = some u → (s.lane n).cycle < u) →
      ∃ t, exec (.wait n) s = .next t ∧ t.lane n = { s.lane n with phase := 2 } ∧ onlyLane n s t) ∧
    (∀ c u, chanOf s n = some c → laneHalted s n = false → (s.lane n).phase = 2 → allReady s c = some u → max (s.lane n).cycle u ≤ wdlOf (laneLive s n) →
      ∃ t, exec (.waitComplete n) s = .next t ∧ t.lane n = { s.lane n with
        phase := 1, pc := (s.lane n).pc + 1, cycle := max (s.lane n).cycle u, waited := true, usable := u,
        vm := updateResult s (2 * c), im := imOf s c (updateResult s) } ∧ onlyLane n s t) ∧
    (laneAt s n 6 = true → (s.lane n).cycle < upcOf (kLive s) →
      ∃ t, exec (.skipo n) s = .next t ∧ t.lane n = (if s.time.updInBlock % outerRatio (laneLive s n) = 0 then
          stepped (s.lane n) (s.lane n).r
        else { stepped (s.lane n) (s.lane n).r with
          pc := (s.lane n).pc + (fetchLane (laneLive s n) (s.lane n).pc).mul + 1 }) ∧ onlyLane n s t) ∧
    (∀ v : Int, v = narrow (s.lane n).r.acc → laneAt s n 5 = true → (s.lane n).cycle ≤ outCyc (laneLive s n) →
      outCyc (laneLive s n) < upcOf (kLive s) →
      ∃ t, exec (.out n) s = .next t ∧ (t.lane n).m = some (clampI (-mLim s n) (mLim s n) v) ∧
        (t.lane n).r.sati = (if mLim s n < v then 1 else if v < -mLim s n then 2 else 0) ∧
        (t.lane n).r.hiSeen = ((s.lane n).r.hiSeen || decide (mLim s n < v)) ∧
        (t.lane n).r.loSeen = ((s.lane n).r.loSeen || decide (¬ mLim s n < v ∧ v < -mLim s n)) ∧
        (t.lane n).cycle = outCyc (laneLive s n) + 1 ∧
        (servedChan s n = none → onlyLane n s t) ∧ Only [.regs, .gates, .legs, .lanes, .loops] s t) ∧
    (laneAt s n 5 = true → outCyc (laneLive s n) < (s.lane n).cycle ∨ upcOf (kLive s) ≤ outCyc (laneLive s n) →
      ∃ t, exec (.out n) s = .next t ∧ (t.lane n).r = (s.lane n).snap ∧ (t.lane n).phase = 4 ∧ (t.lane n).m = none ∧
        (∀ c, servedChan s n = some c → counted (G.LPEO_OVERRUN c) s t) ∧ Only [.regs, .gates, .legs, .lanes, .loops] s t) ∧
    (∀ c w, servedChan s n = some c → laneAt s n 5 = true → (s.lane n).cycle ≤ outCyc (laneLive s n) → legAd s (2 * c) = true →
      outCyc (laneLive s n) < upcOf (kLive s) →
      w = (shape (u32 s) 1 (clampI (-mLim s n) (mLim s n) (narrow (s.lane n).r.acc)) (shaperCoefs s) (s.leg (2 * c)).errs).1 →
      (s.gate .gd5).countP (fun x => x.head? == some (BitVec.ofNat 32 (2 * c))) < gateCapacity →
      ∃ t, exec (.out n) s = .next t ∧ t.gates = s.gates.modify (gateIdx .gd5) (· ++ [[BitVec.ofNat 32 (2 * c), BitVec.ofNat 32 w]]) ∧
        Only [.gates, .legs, .lanes, .loops] s t) ∧
    (laneAt s n 7 = true → ∃ t, exec (.endProgram n) s = .next t ∧ t.lane n = { s.lane n with phase := 3 } ∧ onlyLane n s t) ∧
    (laneHalted s n = true → exec (.laneOverrun n) s = .next s) ∧
    (∀ c : Nat, laneHalted s n = false → (s.lane n).phase = 1 ∨ (s.lane n).phase = 2 → servedChan s n = some c →
      c < s.loops.length → (s.loopCh c).undo = none →
      ∃ t, exec (.laneOverrun n) s = .next t ∧ (t.lane n).r = (s.lane n).snap ∧ (t.lane n).phase = 4 ∧ (t.lane n).m = none ∧
        t.get (F.LPE_SLK_OVR_CONS c) = min (s.get (F.LPE_SLK_OVR_CONS c) + 1) 3 ∧ counted (G.LPEO_OVERRUN c) s t ∧
        (t.loopCh c).tripDue = ((s.loopCh c).tripDue || decide (s.get (F.LPE_SLK_OVR_CONS c) = 2)) ∧ Only [.regs, .lanes, .loops] s t) ∧
    (∀ (c : Nat) (u : List Int × List Int × Int × Nat × Nat), laneHalted s n = false → (s.lane n).phase = 1 ∨ (s.lane n).phase = 2 →
      servedChan s n = some c → c < s.loops.length → 2 * c + 1 < s.legs.length → (s.loopCh c).undo = some u →
      ∃ t, exec (.laneOverrun n) s = .next t ∧ (t.lane n).r = (s.lane n).snap ∧ (t.loopCh c).m = u.2.2.1 ∧
        (t.leg (2 * c)).errs = u.1 ∧ (t.leg (2 * c + 1)).errs = u.2.1 ∧ (t.loopCh c).undo = none ∧
        Only [.regs, .gates, .legs, .lanes, .loops] s t) ∧
    ∀ c : Nat, (s.loopCh c).tripDue = true →
      counted (G.LPEO_OVR_TRIP c) s (overrunTrip s c) ∧
        (overrunTrip s c).gates = s.gates.modify (gateIdx .gs1) (· ++ [[2, BitVec.ofNat 32 c, 1]]) ∧
        ((overrunTrip s c).loopCh c).tripDue = false

/-- Program banks from outside (R47, R268, R271 to R276, R298): a word written through LPE_PDATA, or through the alias a host commit stands
at, enters the NEXT bank of the serving lane and of a spare that shadows the channel, where no commit holds it;
reads answer the NEXT and the LIVE word; the pointer goes from 161 to 0. SWAPNOW waits for the block boundary in a stopped channel and
is refused elsewhere; a live coefficient write is queued, dropped where four wait, and refused for an index it may not write. -/
def Obligations.LaneBanks : Prop :=
  ∀ (s : State) (c : Chan),
    (∀ (v : Word), reached s (aliasPtr s (R.LPE_PDATA c)) = true → nextFrozen s c = false →
      ∃ t, exec (.laneNextWrite c v) s = .next t ∧ (∀ n ∈ lanesFor s c, laneNext t n (s.get (F.LPE_PPTR_OFFS c)) = v) ∧
        t.get (F.LPE_PPTR_OFFS c) = (if 161 ≤ s.get (F.LPE_PPTR_OFFS c) then 0 else s.get (F.LPE_PPTR_OFFS c) + 1) ∧
        (∀ k, (∀ n ∈ lanesFor s c, k ≠ laneKey n (!(s.lane n).live) (s.get (F.LPE_PPTR_OFFS c))) → t.bank k = s.bank k) ∧
        Changes [.regs, .banks, .hst] [R.LPE_PPTR c] s t) ∧
    (∀ (v : Word), reached s (aliasPtr s (R.LPE_PDATA c)) = true → nextFrozen s c = true →
      ∃ t, exec (.laneNextWrite c v) s = .next t ∧ counted G.SCN_NXT_LOCKED s t ∧
        Changes [.regs, .hst] [R.LPE_PPTR c, G.SCN_NXT_LOCKED.ptr, G.SCN_NXT_LOCKED.cptr] s t) ∧
    (readable s .hostPrimary (R.LPE_PDATA c) = true →
      ∃ t, exec (.laneNextRead c) s = .next t ∧ t.rdata = laneNext s (laneOf s c) (s.get (F.LPE_PPTR_OFFS c)) ∧
        t.get (F.LPE_PPTR_OFFS c) = (if 161 ≤ s.get (F.LPE_PPTR_OFFS c) then 0 else s.get (F.LPE_PPTR_OFFS c) + 1) ∧
        Changes [.regs, .rdata] [R.LPE_PPTR c] s t) ∧
    (readable s .hostPrimary (R.LPE_LDATA c) = true →
      ∃ t, exec (.laneLiveRead c) s = .next t ∧ t.rdata = laneLive s (laneOf s c) (s.get (F.LPE_LPTR_LOFFS c)) ∧
        t.get (F.LPE_LPTR_LOFFS c) = (if 161 ≤ s.get (F.LPE_LPTR_LOFFS c) then 0 else s.get (F.LPE_LPTR_LOFFS c) + 1) ∧
        Changes [.regs, .rdata] [R.LPE_LPTR c] s t) ∧
    (reached s (R.LPE_CTRL c) = true → chanStopped s c = true →
      ∃ t, exec (.laneSwapnow c) s = .next t ∧ t.get (F.LPE_CTRL_SWAPNOW c) = 1 ∧ Changes [.regs, .hst] [R.LPE_CTRL c] s t) ∧
    (reached s (R.LPE_CTRL c) = true → chanStopped s c = false →
      ∃ t, exec (.laneSwapnow c) s = .next t ∧ t.get (F.LPE_CTRL_SWAPNOW c) = 0 ∧ counted (G.LPE_PROG_REFUSED c) s t ∧
        Changes [.regs, .hst] [R.LPE_CTRL c, (G.LPE_PROG_REFUSED c).ptr, (G.LPE_PROG_REFUSED c).cptr] s t) ∧
    ∀ (v : Word) (ix : Nat), reached s (R.LPE_CWR c) = true → ix = bitsN v.toNat 29 24 →
      (ix ≠ 63 → ¬(bitN v.toNat 23 = true ∧ ix / 8 = 7) → (s.loopCh c).queue.length < 4 →
        ∃ t, exec (.coefWrite c v) s = .next t ∧ t.loops = s.loops.modify c (fun x => { x with queue := x.queue ++ [v] }) ∧
          Changes [.regs, .loops, .hst] [R.LPE_CWR c] s t) ∧
      (ix ≠ 63 → ¬(bitN v.toNat 23 = true ∧ ix / 8 = 7) → 4 ≤ (s.loopCh c).queue.length →
        ∃ t, exec (.coefWrite c v) s = .next t ∧ counted (G.LPE_CW_DROP c) s t ∧
          Changes [.regs, .hst] [(G.LPE_CW_DROP c).ptr, (G.LPE_CW_DROP c).cptr] s t) ∧
      (ix = 63 ∨ (bitN v.toNat 23 = true ∧ ix / 8 = 7) →
        ∃ t, exec (.coefWrite c v) s = .next t ∧ counted (G.LPE_CW_REFUSED c) s t ∧
          Changes [.regs, .hst] [(G.LPE_CW_REFUSED c).ptr, (G.LPE_CW_REFUSED c).cptr] s t)

/-- The spare lane (R297 to R305): a slot that is not open yet opens and starts the copy or the self-test; a self-test of 4096 updates that
passes frees the lane and one that fails retires it; a confirmation shadow of 12,000 blocks ends; an uncorrectable error takes the serving lane out, or stops it where no spare
is left; a forced swap waits for the block boundary or is refused. -/
def Obligations.SpareLane : Prop :=
  ∀ s : State,
    (∀ sp : Nat, s.sys.inReset = false → s.get F.LANE_SHD_SHD_EN = 1 → s.get F.LANE_SHD_CONFIRM = 0 → s.lanePool.slot ≠ some 16 →
      spareLane s = some sp → s.time.block / 12000 % 17 = 16 →
      ∃ t, exec .shadowSlotOpen s = .next t ∧ t.get F.LANE_SHD_SLOT = 16 ∧
        t.lanePool = { s.lanePool with shadow := none, selfTest := some sp, afterSwap := false, upds := 0, slot := some 16 } ∧
        Changes [.regs, .lanes, .lanePool] [R.LANE_SHD] s t) ∧
    (∀ sp sl : Nat, s.sys.inReset = false → s.get F.LANE_SHD_SHD_EN = 1 → s.get F.LANE_SHD_CONFIRM = 0 → s.lanePool.slot ≠ some sl →
      spareLane s = some sp → sl = s.time.block / 12000 % 17 → sl < 16 → s.get (F.MOD_STAT_STATE (2 * sl)) = modSwitching →
      oddHalf s sl = false → sp < s.lanes.length → laneOf s sl ≠ sp →
      ∃ t, exec .shadowSlotOpen s = .next t ∧ t.get F.LANE_SHD_SLOT = sl ∧ (t.lane sp).r = (s.lane (laneOf s sl)).r ∧
        (∀ o < 162, laneLive t sp o = laneLive s (laneOf s sl) o ∧ laneNext t sp o = laneNext s (laneOf s sl) o) ∧
        t.lanePool = { s.lanePool with shadow := some sl, selfTest := none, afterSwap := false, slot := some sl } ∧
        Changes [.regs, .banks, .lanes, .lanePool] [R.LANE_SHD] s t) ∧
    (∀ n : Lane, s.sys.inReset = false → s.lanePool.selfTest = some n.val → 4096 ≤ s.lanePool.upds →
      s.lanePool.afterSwap = true →
      ∃ t, exec (.selfTestDone n true) s = .next t ∧ t.get F.LANE_POOL_SPARE = n ∧
        t.lanePool = { s.lanePool with selfTest := none, afterSwap := false } ∧ Only [.regs, .conds, .lanePool] s t) ∧
    (∀ n : Lane, s.sys.inReset = false → s.lanePool.selfTest = some n.val → 4096 ≤ s.lanePool.upds →
      ∃ t, exec (.selfTestDone n false) s = .next t ∧
        t.get F.LANE_POOL_RETIRED = s.get F.LANE_POOL_RETIRED ||| 2 ^ n.val ∧ counted G.LANE_RETIRE s t ∧ t.lanePool.selfTest = none ∧
        Only [.regs, .conds, .lanePool, .bkg] s t) ∧
    (s.sys.inReset = false → s.get F.LANE_SHD_CONFIRM = 1 → s.lanePool.selfTest = none → s.lanePool.confirmDue = none →
      12000 ≤ s.lanePool.blocks →
      ∃ t, exec .confirmShadowEnd s = .next t ∧ t.get F.LANE_SHD_CONFIRM = 0 ∧ t.lanePool = { s.lanePool with confirm := none, slot := none } ∧
        Changes [.regs, .lanes, .lanePool] [R.LANE_SHD] s t) ∧
    (∀ (n : Lane) (c sp : Nat), s.sys.inReset = false → servedChan s n = some c → spareLane s = some sp → s.lanePool.confirm = none →
      ∃ t, exec (.laneUe n) s = .next t ∧ t.get (F.LPE_STAT_LANE c) = sp ∧ t.get F.LANE_LAST_UE = 1 ∧ t.get F.LANE_LAST_CH = c ∧
        t.get F.LANE_LAST_LANE = n ∧ counted G.LANE_MISMATCH s t ∧ counted G.LANE_LANE_SWAP s t ∧ t.lanePool.selfTest = some n.val ∧
        Only [.regs, .banks, .conds, .lanes, .loops, .lanePool] s t) ∧
    (∀ (n : Lane) (c : Nat), s.sys.inReset = false → servedChan s n = some c → spareLane s = none → n.val < s.lanes.length →
      ∃ t, exec (.laneUe n) s = .next t ∧ (t.lane n).dead = true ∧ t.get F.LANE_LAST_UE = 1 ∧ counted G.LANE_MISMATCH s t ∧
        Only [.regs, .gates, .legs, .lanes, .loops] s t) ∧
    (reached s R.LANE_SHD = true → fswapRefused s = false →
      ∃ t, exec .forcedSwap s = .next t ∧ t.get F.LANE_SHD_FSWAP = 1 ∧ Changes [.regs, .hst] [R.LANE_SHD] s t) ∧
    (reached s R.LANE_SHD = true → fswapRefused s = true →
      ∃ t, exec .forcedSwap s = .next t ∧ t.get F.LANE_SHD_FSWAP = 0 ∧ counted G.LANE_FSWAP_REFUSED s t ∧
        Changes [.regs, .hst] [R.LANE_SHD, G.LANE_FSWAP_REFUSED.ptr, G.LANE_FSWAP_REFUSED.cptr] s t)

/-- Trace buffers, supervisor resets and injection (R288, R296, R308 to R313): ARM empties and arms a buffer, FORCE triggers an armed one, STOP
ends it; TRC_RDATA answers the word of the pointer, or 0 while the buffer records; CLR_PK and CLR_MIN reset the two records; the square
injection changes its sign after 16 x HALF updates. -/
def Obligations.TraceAndInjection : Prop :=
  ∀ s : State,
    (∀ b : Buf, reached s (R.TRC_CTRL b) = true →
      (∃ t, exec (.traceArm b) s = .next t ∧ t.get (F.TRC_CFG_STATE b) = 1 ∧ t.get (F.TRC_CTRL_ARM b) = 1 ∧ t.get (F.TRC_IDX_WR_IDX b) = 0 ∧
        t.get (F.TRC_IDX_WRAPPED b) = 0 ∧ t.trace = s.trace.modify b (fun _ => {}) ∧
        Changes [.regs, .trace, .hst] [R.TRC_CFG b, R.TRC_CTRL b, R.TRC_IDX b] s t) ∧
      (s.get (F.TRC_CFG_STATE b) = 1 →
        ∃ t, exec (.traceForce b) s = .next t ∧ t.trace = s.trace.modify b (fun x => { x with trig := true, fired := true }) ∧
          Changes [.trace, .hst] [] s t) ∧
      ∃ t, exec (.traceStop b) s = .next t ∧ t.get (F.TRC_CFG_STATE b) = 3 ∧ t.get (F.TRC_CTRL_ARM b) = 0 ∧
        Changes [.regs, .hst] [R.TRC_CFG b, R.TRC_CTRL b] s t) ∧
    (∀ b e w : Nat, readable s .hostPrimary R.TRC_RDATA = true → b = s.get F.TRC_RPTR_BUF → e = s.get F.TRC_RPTR_ENTRY →
      w = s.get F.TRC_RPTR_WORD →
      (trcBusy s b = false → w < 3 →
        ∃ t, exec .traceRead s = .next t ∧ t.rdata = s.bank (traceKey b e w) ∧ t.get F.TRC_RPTR_WORD = w + 1 ∧ t.get F.TRC_RPTR_ENTRY = e ∧
          Changes [.regs, .rdata] [R.TRC_RPTR] s t) ∧
      (trcBusy s b = false → w = 3 →
        ∃ t, exec .traceRead s = .next t ∧ t.rdata = s.bank (traceKey b e w) ∧ t.get F.TRC_RPTR_WORD = 0 ∧
          t.get F.TRC_RPTR_ENTRY = (e + 1) % 2048 ∧ Changes [.regs, .rdata] [R.TRC_RPTR] s t) ∧
      (trcBusy s b = true →
        ∃ t, exec .traceRead s = .next t ∧ t.rdata = 0 ∧ counted G.TRC_RD_BUSY s t ∧
          Changes [.regs, .rdata] [R.TRC_RPTR, G.TRC_RD_BUSY.ptr, G.TRC_RD_BUSY.cptr] s t)) ∧
    (∀ c : Chan, reached s (R.LPE_OCTL c) = true →
      (∃ t, exec (.clrPk c) s = .next t ∧ t.get (F.LPE_FEST_FE_PK c) = 0 ∧ Changes [.regs, .hst] [R.LPE_FEST c] s t) ∧
      ∃ t, exec (.clrMin c) s = .next t ∧ t.get (F.LPE_SLK_MIN c) = 0xFF ∧ Changes [.regs, .hst] [R.LPE_SLK c] s t) ∧
    ∀ c : Chan, s.sys.inReset = false → (s.loopCh c).injOn = true → s.inForce (F.LPE_INJ_SHAPE c) = 1 →
      16 * max (s.inForce (F.LPE_INJ_HALF c)) 1 ≤ (s.loopCh c).injCnt →
      ∃ t, exec (.injectionToggle c) s = .next t ∧
        t.loops = s.loops.modify c (fun x => { x with injNeg := !x.injNeg, injCnt := 0 }) ∧ Changes [.loops] [] s t

/-- The Ventriloquist's work (R316 to R317, R325, R330 to R335, R339, R346): a core's unit delivers 8 gain values for each of its channels and
records its load; a 192 kHz period advances both cone instances; an estimate is taken every 1200 blocks where the current suffices, and
corrects the temperatures only with CORR_EN; a fit is published every second; an uncorrectable error ends the core's unit, and the third
within a minute stops the core. -/
def Obligations.SpeakerModels : Prop :=
  ∀ s : State, s.sys.inReset = false →
    (∀ (k : Fin 2) (n : Nat), s.sys.procs = true → (s.core k).done = false → (s.core k).ue = false → coreStopped s k = false →
      (s.gate .gd2).countP (fun w => w.head? == some (BitVec.ofNat 32 k)) < gateCapacity →
      ∃ t w, exec (.ventUnitComplete k n) s = .next t ∧ w.length = 64 ∧
        t.gates = s.gates.modify (gateIdx .gd2) (· ++ [BitVec.ofNat 32 k :: w]) ∧
        t.vent.cores = s.vent.cores.modify k (fun x => { x with done := true }) ∧
        t.get (if k.val = 0 then F.VENT_STAT_LOAD0 else F.VENT_STAT_LOAD1) =
          max (s.get (if k.val = 0 then F.VENT_STAT_LOAD0 else F.VENT_STAT_LOAD1)) (satU 8 (rneDiv (n : Int) 256)) ∧
        Changes [.regs, .gates, .vent] [R.VENT_STAT] s t) ∧
    (∀ (c : Chan) (m : VentModel) (p : Word16 × Word16), m = (s.ventCh c).m → p = (s.ventCh c).meas.getD m.steps (0, 0) → m.steps < 16 →
      coreStopped s (c / 8) = false → (s.core (c / 8)).ue = false →
      ∃ t u, exec (.coneStep c) s = .next t ∧ (t.ventCh c).m.steps = m.steps + 1 ∧
        (t.ventCh c).m.track = coneStepOf (spkParam s c) m m.track (measured (s.live (R.SNS_VFS c)) p.1) ∧
        (t.ventCh c).m.pred = coneStepOf (spkParam s c) m m.pred u ∧
        (∀ d : Nat, d ≠ c.val → t.ventCh d = s.ventCh d) ∧ Changes [.vent] [] s t) ∧
    (∀ (c : Chan) (m : VentModel), m = (s.ventCh c).m → 1200 ≤ m.reBlocks →
      (f32Lt (f32Sqrt (f32Div m.reI2 (f32OfRat (16 * m.reBlocks) 1))) (spkParam s c 35) = true →
        ∃ t, exec (.reEstimate c) s = .next t ∧ (t.ventCh c).m = { m with reBlocks := 0, reI2 := 0 } ∧
          (t.ventCh c).ck = { (s.ventCh c).ck with reBlocks := 0, reI2 := 0 } ∧ Changes [.vent] [] s t) ∧
      (f32Lt (f32Sqrt (f32Div m.reI2 (f32OfRat (16 * m.reBlocks) 1))) (spkParam s c 35) = false → corrEn s c = false →
        ∃ t, exec (.reEstimate c) s = .next t ∧ (t.ventCh c).m = { m with reBlocks := 0, reI2 := 0, reEst := f32Div m.reNum m.reDen } ∧
          Changes [.vent] [] s t)) ∧
    (∀ c : Chan, s.time.block % 12000 = 0 → idEn s c = true →
      ∃ t, exec (.idPublish c) s = .next t ∧ t.get (F.SPK_IDR0_SEQ c) = (s.get (F.SPK_IDR0_SEQ c) + 1) % 65536 ∧
        t.get (F.SPK_IDR0_REASON c) = idReason s c (Config.fitOut (s.ventCh c).m.fitTok) ∧
        (∀ j < 5, t.rd (R.SPK_IDR0 c + 4 + 4 * j) = Config.fitOut (s.ventCh c).m.fitTok j) ∧
        (idReason s c (Config.fitOut (s.ventCh c).m.fitTok) ≠ 0 → counted (G.SPK_ID_REJECT c) s t ∧ t.vent = s.vent) ∧
        Only [.regs, .vent] s t) ∧
    ∀ (k : Fin 2) (u : List Nat), coreStopped s k = false → u = (s.core k).ues.filter (fun b => s.time.block < b + 720000) →
      (u.length < 2 →
        ∃ t, exec (.ventCoreUe k) s = .next t ∧ t.vent.cores = s.vent.cores.modify k (fun x => { x with ue := true, ues := u ++ [s.time.block] }) ∧
          counted G.VENT_CORE_UE s t ∧ Changes [.regs, .vent] [G.VENT_CORE_UE.ptr, G.VENT_CORE_UE.cptr] s t) ∧
      (2 ≤ u.length →
        ∃ t, exec (.ventCoreUe k) s = .next t ∧ coreStopped t k = true ∧ counted G.VENT_CORE_UE s t ∧ counted G.VENT_CORE_STOP s t ∧
          Changes [.regs, .vent] [R.VENT_STAT, G.VENT_CORE_UE.ptr, G.VENT_CORE_UE.cptr] s t)

/-- Speaker parameter banks and latched results (R47, R321 to R324, R339, R349): a word enters the NEXT bank at the nearest end of its range,
where no commit holds it, and a NaN or infinity is counted; reads answer the NEXT and the LIVE word; the pointer goes from 47 to 0; a
read of a first result register latches the others. -/
def Obligations.SpeakerBanks : Prop :=
  ∀ (s : State) (c : Chan) (o : Nat), o = s.get (F.SPK_PPTR_OFFS c) →
    (∀ v : Word, reached s (aliasPtr s (R.SPK_PDATA c)) = true → s.get F.SCN_STAT_STATE = 0 ∨ bitN (s.get F.SCN_MASK_CH_MASK) c = false →
      ∃ t, exec (.spkNextWrite c v) s = .next t ∧ spkNextWord t c o = spkClamp o v ∧
        t.get (F.SPK_PPTR_OFFS c) = (if 47 ≤ o then 0 else o + 1) ∧
        (2 ≤ o → o < 45 → f32Special v = true → counted (G.SPK_PARAM_BADVAL c) s t) ∧
        (∀ k, k ≠ spkKey c (!(s.ventCh c).live) o → t.bank k = s.bank k) ∧
        Changes [.regs, .banks, .hst] [R.SPK_PPTR c, (G.SPK_PARAM_BADVAL c).ptr, (G.SPK_PARAM_BADVAL c).cptr] s t) ∧
    (∀ v : Word, reached s (aliasPtr s (R.SPK_PDATA c)) = true → s.get F.SCN_STAT_STATE ≠ 0 → bitN (s.get F.SCN_MASK_CH_MASK) c = true →
      ∃ t, exec (.spkNextWrite c v) s = .next t ∧ counted G.SCN_NXT_LOCKED s t ∧
        t.get (F.SPK_PPTR_OFFS c) = (if 47 ≤ o then 0 else o + 1) ∧
        Changes [.regs, .hst] [R.SPK_PPTR c, G.SCN_NXT_LOCKED.ptr, G.SCN_NXT_LOCKED.cptr] s t) ∧
    (readable s .hostPrimary (R.SPK_PDATA c) = true →
      ∃ t, exec (.spkNextRead c) s = .next t ∧ t.rdata = spkNextWord s c o ∧ t.get (F.SPK_PPTR_OFFS c) = (if 47 ≤ o then 0 else o + 1) ∧
        Changes [.regs, .rdata] [R.SPK_PPTR c] s t) ∧
    (∀ q : Nat, readable s .hostPrimary (R.SPK_LDATA c) = true → q = s.get (F.SPK_LPTR_LOFFS c) →
      ∃ t, exec (.spkLiveRead c) s = .next t ∧ t.rdata = spkLiveWord s c q ∧ t.get (F.SPK_LPTR_LOFFS c) = (if 47 ≤ q then 0 else q + 1) ∧
        Changes [.regs, .rdata] [R.SPK_LPTR c] s t) ∧
    (reached s R.VENT_CTRL = true →
      ∃ t, exec .clrLoad s = .next t ∧ t.get F.VENT_STAT_LOAD0 = 0 ∧ t.get F.VENT_STAT_LOAD1 = 0 ∧ Changes [.regs, .hst] [R.VENT_STAT] s t) ∧
    (readable s .hostPrimary (R.SPK_TRES0 c) = true →
      ∃ t, exec (.tempResultRead c) s = .next t ∧ t.rdata = s.rd (R.SPK_TRES0 c) ∧
        latchedWord t 0 (R.SPK_TRES1 c) = s.rd (R.SPK_TRES1 c) ∧ Changes [.rdata, .vent] [] s t) ∧
    (readable s .hostPrimary (R.SPK_IDR0 c) = true →
      ∃ t, exec (.idResultRead c) s = .next t ∧ t.rdata = s.rd (R.SPK_IDR0 c) ∧
        (∀ j < 5, latchedWord t 0 (R.SPK_IDR1 c + 4 * j) = s.rd (R.SPK_IDR1 c + 4 * j)) ∧ Changes [.rdata, .vent] [] s t)

/-- Load diagnosis (R349, R353, R358 to R360, R369, R370, R372 to R374): a window publishes its results and starts afresh; without LD_EN it gives no class;
a read of a first result register latches the others for its side; the sweep window is read point by point. -/
def Obligations.LoadDiagnosis : Prop :=
  ∀ (s : State) (c : Chan),
    (∀ m : VentModel, s.sys.inReset = false → s.time.block % 12 = 0 → (s.ventCh c).winBlocks ≠ 0 → m = (s.ventCh c).m →
      ∃ t, exec (.loadWindowEnd c) s = .next t ∧ (t.ventCh c).winBlocks = 0 ∧ (t.ventCh c).m.pairs = [] ∧
        (t.ventCh c).ck.pairs = [] ∧ (t.ventCh c).ck.xpk = 0 ∧
        t.get (F.SPK_TRES0_SEQ c) = (s.get (F.SPK_TRES0_SEQ c) + 1) % 65536 ∧ t.get (F.SPK_TRES0_TC c) = f32ToS m.tc 16 4 ∧
        t.get (F.SPK_TRES1_TM c) = f32ToS m.tm 16 4 ∧ t.get (F.SPK_XRES_XPK c) = f32ToU (f32Mul m.xpk c1000) 16 0 ∧
        t.get (F.DIA_PRES0_SEQ c) = (if s.get (F.DIA_PRES0_SEQ c) = 0xFFFF then 1 else s.get (F.DIA_PRES0_SEQ c) + 1) ∧
        t.get (F.DIA_PRES0_GMIN c) = f32ToU m.gmin 16 15 ∧
        (s.inForce (F.DIA_LCFG_LD_EN c) = 0 → t.get (F.DIA_STAT_VALID c) = 0 ∧ t.get (F.DIA_STAT_LOAD c) = s.get (F.DIA_STAT_LOAD c)) ∧
        (s.inForce (F.DIA_LCFG_LD_EN c) = 1 → t.get (F.DIA_LRES0_RHO c) = f32ToU (windowOf m).rho 16 14 ∧
          t.get (F.DIA_LRES1_RUB c) = f32ToS (windowOf m).rub 16 4) ∧
        Only [.regs, .conds, .gates, .vent] s t) ∧
    (∀ p : Path, readable s p (R.DIA_PRES0 c) = true →
      ∃ t, exec (.diaResultRead p c 0) s = .next t ∧ t.rdata = s.rd (R.DIA_PRES0 c) ∧
        latchedWord t (sideOf p) (R.DIA_PRES0 c + 4) = s.rd (R.DIA_PRES0 c + 4) ∧
        latchedWord t (sideOf p) (R.DIA_PRES0 c + 8) = s.rd (R.DIA_PRES0 c + 8) ∧ Changes [.rdata, .vent] [] s t) ∧
    (∀ p : Path, readable s p (R.DIA_LRES0 c) = true →
      ∃ t, exec (.diaResultRead p c 1) s = .next t ∧ t.rdata = s.rd (R.DIA_LRES0 c) ∧
        latchedWord t (sideOf p) (R.DIA_LRES0 c + 4) = s.rd (R.DIA_LRES0 c + 4) ∧ Changes [.rdata, .vent] [] s t) ∧
    (∀ p : Path, readable s p (R.DIA_SWSUM0 c) = true →
      ∃ t, exec (.diaResultRead p c 2) s = .next t ∧ t.rdata = s.rd (R.DIA_SWSUM0 c) ∧
        (∀ j < 3, latchedWord t (sideOf p) (R.DIA_SWSUM0 c + 4 + 4 * j) = s.rd (R.DIA_SWSUM0 c + 4 + 4 * j)) ∧
        Changes [.rdata, .vent] [] s t) ∧
    ∀ w : Nat, readable s .hostPrimary (R.DIA_SWDATA c) = true → w = s.get (F.DIA_SWPTR_WPTR c) →
      ∃ t, exec (.sweepDataRead c) s = .next t ∧ t.rdata = s.bank (sweepKey c w) ∧
        t.get (F.DIA_SWPTR_WPTR c) = (if 191 ≤ w then 0 else w + 1) ∧ Changes [.regs, .rdata] [R.DIA_SWPTR c] s t

/-- Impedance sweeps (R363 to R368): START makes a sweep due, or is refused with its reason; ABORT ends a running one with reason 4 and ramps
its signal out; and the phases follow one another: ramp in, settling, measurement of each point, ramp out, publication due. -/
def Obligations.ImpedanceSweeps : Prop :=
  ∀ (s : State) (c : Chan) (x : Sweep), x = s.sweepOf c →
    (reached s (R.DIA_SWCTRL c) = true → sweepReason s c = 0 → x.phase = 0 → c.val < s.vent.chans.length →
      ∃ t, exec (.sweepStart c) s = .next t ∧ t.get (F.DIA_SWCTRL_START c) = 1 ∧ t.get (F.DIA_STAT_SW_RUN c) = 1 ∧
        t.sweepOf c = { sweepOver x with phase := 1 } ∧ Changes [.regs, .vent, .hst] [R.DIA_SWCTRL c, R.DIA_STAT c] s t) ∧
    (reached s (R.DIA_SWCTRL c) = true → sweepReason s c ≠ 0 →
      ∃ t, exec (.sweepStart c) s = .next t ∧ t.get (F.DIA_SWSTAT_REASON c) = sweepReason s c ∧ counted (G.DIA_SW_REFUSED c) s t ∧
        Changes [.regs, .hst] [R.DIA_SWCTRL c, R.DIA_SWSTAT c, (G.DIA_SW_REFUSED c).ptr, (G.DIA_SW_REFUSED c).cptr] s t) ∧
    (reached s (R.DIA_SWCTRL c) = true → 3 ≤ x.phase → x.phase ≤ 6 →
      ∃ t, exec (.sweepAbort c) s = .next t ∧ t.get (F.DIA_SWSTAT_REASON c) = 4 ∧ counted (G.DIA_SW_ABORT c) s t ∧
        t.get (F.DIA_SWCTRL_START c) = 0 ∧ t.get (F.DIA_STAT_SW_RUN c) = 0 ∧ t.get (F.DIA_SWSTAT_STATE c) = 0 ∧
        t.sweepOf c = { tailFrom := sweepAmp x (x.cnt + 8), tailCnt := -8, tailAcc := x.acc, tailInc := x.inc } ∧ Only [.regs, .vent, .hst] s t) ∧
    (s.sys.inReset = false → x.phase = 3 → 960 ≤ x.cnt + 8 →
      ∃ t, exec (.sweepPhaseEnd c) s = .next t ∧ (t.sweepOf c).phase = 4 ∧ (t.sweepOf c).point = 0 ∧ (t.sweepOf c).cnt = x.cnt - 960 ∧
        t.get (F.DIA_SWSTAT_STATE c) = 2 ∧ Changes [.regs, .vent] [R.DIA_SWSTAT c] s t) ∧
    (s.sys.inReset = false → x.phase = 4 → (settleSamples (sweepFreq s c x.point) : Int) ≤ x.cnt + 8 →
      ∃ t, exec (.sweepPhaseEnd c) s = .next t ∧ (t.sweepOf c).phase = 5 ∧ (t.sweepOf c).point = x.point ∧ (t.sweepOf c).meas = 0 ∧
        Changes [.regs, .vent] [R.DIA_SWSTAT c] s t) ∧
    (s.sys.inReset = false → x.phase = 5 → measPeriods (sweepFreq s c x.point) ≤ x.meas → x.point ≠ s.get (F.DIA_SWCFG_NPTS_M1 c) →
      ∃ t, exec (.sweepPhaseEnd c) s = .next t ∧ (t.sweepOf c).phase = 4 ∧ (t.sweepOf c).point = x.point + 1 ∧
        (t.sweepOf c).points = x.points ++ [pointOf s c] ∧ Changes [.regs, .vent] [R.DIA_SWSTAT c] s t) ∧
    (s.sys.inReset = false → x.phase = 5 → measPeriods (sweepFreq s c x.point) ≤ x.meas → x.point = s.get (F.DIA_SWCFG_NPTS_M1 c) →
      ∃ t, exec (.sweepPhaseEnd c) s = .next t ∧ (t.sweepOf c).phase = 6 ∧ (t.sweepOf c).points = x.points ++ [pointOf s c] ∧
        Changes [.regs, .vent] [R.DIA_SWSTAT c] s t) ∧
    (s.sys.inReset = false → x.phase = 6 → 960 ≤ x.cnt + 8 →
      ∃ t, exec (.sweepPhaseEnd c) s = .next t ∧ (t.sweepOf c).phase = 7 ∧ t.get (F.DIA_SWCTRL_START c) = 0 ∧
        t.get (F.DIA_STAT_SW_RUN c) = 0 ∧ t.get (F.DIA_SWSTAT_STATE c) = 0 ∧
        Changes [.regs, .vent] [R.DIA_SWSTAT c, R.DIA_SWCTRL c, R.DIA_STAT c] s t)

/-- The heartbeat and the link (R379 to R381, R385, R387, R389, R587): four edges in time restore HB_OK and a missing edge takes it; without messages
MSG_OK falls and the link trains again; a failing lane degrades the link and the last one takes it down; a down link, TWN_CTRL.RETRAIN and the lock
of the Twin Link PLL start training, in which IDENT is sent. -/
def Obligations.TwinLink : Prop :=
  ∀ s : State, s.sys.inReset = false →
    (∀ g : Nat, s.get F.TWN_STAT_HB_OK = 0 → g ≤ s.get F.TWN_CFG_HB_TMO → 3 ≤ s.twin.hbEdges →
      ∃ t, exec (.hbInEdge g) s = .next t ∧ t.get F.TWN_STAT_HB_OK = 1 ∧ t.twin = { s.twin with hbEdges := 0 } ∧
        Changes [.regs, .conds, .twin] [R.TWN_STAT] s t) ∧
    (∀ g : Nat, s.get F.TWN_STAT_HB_OK = 0 → g ≤ s.get F.TWN_CFG_HB_TMO → s.twin.hbEdges < 3 →
      ∃ t, exec (.hbInEdge g) s = .next t ∧ t.twin = { s.twin with hbEdges := s.twin.hbEdges + 1 } ∧ Changes [.twin] [] s t) ∧
    (s.conds.contains (G.TWN_HB_LOST.ptr * 32 + G.TWN_HB_LOST.bit) = false →
      ∃ t, exec .hbTimeout s = .next t ∧ t.get F.TWN_STAT_HB_OK = 0 ∧ t.twin = { s.twin with hbEdges := 0 } ∧ counted G.TWN_HB_LOST s t ∧
        Changes [.regs, .conds, .twin] [R.TWN_STAT, G.TWN_HB_LOST.ptr, G.TWN_HB_LOST.cptr] s t) ∧
    (pairEn s = true → s.sys.procs = true → s.get F.CLK_STAT_TWIN_LOCK = 1 →
      (∃ t, exec .msgTimeout s = .next t ∧ t.get F.TWN_STAT_MSG_OK = 0 ∧ t.get F.TWN_STAT_LINK_UP = 0 ∧ pstate t = psTrain ∧
        t.gates = s.gates.modify (gateIdx .gt1) (· ++ [framePayload s frIdent 0 (identWords s)]) ∧
        Only [.regs, .conds, .gates, .twin] s t) ∧
      (s.get F.TWN_STAT_LINK_UP = 0 → ∃ t, exec .linkRetrain s = .next t ∧ pstate t = psTrain ∧
        t.gates = s.gates.modify (gateIdx .gt1) (· ++ [framePayload s frIdent 0 (identWords s)]) ∧
        Changes [.regs, .gates, .twin] [R.TWN_STAT, R.TWN_CTRL] s t) ∧
      (reached s R.TWN_CTRL = true → ∃ t, exec .retrain s = .next t ∧ pstate t = psTrain ∧ t.get F.TWN_CTRL_RETRAIN = 1 ∧
        t.gates = s.gates.modify (gateIdx .gt1) (· ++ [framePayload s frIdent 0 (identWords s)]) ∧
        Changes [.regs, .gates, .twin, .hst] [R.TWN_STAT, R.TWN_CTRL] s t)) ∧
    (pairEn s = true → s.sys.procs = true →
      ∃ t, exec .twinPllLock s = .next t ∧ t.get F.CLK_STAT_TWIN_LOCK = 1 ∧ pstate t = psTrain ∧
        t.gates = s.gates.modify (gateIdx .gt1) (· ++ [framePayload s frIdent 0 (identWords s)]) ∧
        Only [.regs, .conds, .gates, .twin] s t) ∧
    (∀ (n : Fin 2) (k : Nat), pairEn s = true → s.get F.TWN_STAT_LANE_OK = 3 →
      ∃ t, exec (.twinLaneFail n k) s = .next t ∧ t.get F.TWN_STAT_LANE_OK = 3 - 2 ^ n.val ∧
        t.get F.TWN_LERR_CODE = (s.get F.TWN_LERR_CODE + k) % 65536 ∧ t.get F.TWN_STAT_LINK_UP = s.get F.TWN_STAT_LINK_UP ∧
        Only [.regs, .conds, .twin] s t) ∧
    ∀ (n : Fin 2) (k : Nat), pairEn s = true → s.get F.TWN_STAT_LANE_OK = 2 ^ n.val →
      ∃ t, exec (.twinLaneFail n k) s = .next t ∧ t.get F.TWN_STAT_LANE_OK = 0 ∧ t.get F.TWN_STAT_LINK_UP = 0 ∧
        pstate t = (if s.twin.accepted then psFree else psAlone) ∧ Only [.regs, .conds, .twin] s t

/-- Pairing (R385, R386, R389 to R391), for frames whose HCRC and index bytes hold and whose words arrived without an error: in training a
partner of the other role, with the same SYS_ID and digest, is accepted, and a standby of an owner asks for a resynchronization; any other is
refused with its reason, and REFUSE is sent; a received REFUSE refuses too and sends REFUSE, and IDENT is sent again; a frame whose HCRC or
index bytes fail changes nothing. -/
def Obligations.TwinPairing : Prop :=
  ∀ (s : State) (rx : LinkRx), s.sys.inReset = false → rx.errs = [] →
    (∀ x : Ident, frameGood frIdent rx = true → pairEn s = true → pstate s = psTrain → x.role ≠ roleB s → x.sysId = s.rd R.SYS_ID →
      x.digest.toNat = ownDigest s → x.owner = false →
      ∃ t, exec (.identRx rx x) s = .next t ∧ pstate t = psPaired ∧ t.get F.TWN_STAT_LINK_UP = 1 ∧ t.get F.TWN_STAT_LANE_OK = 3 ∧
        t.get F.TWN_STAT_REFUSE = 0 ∧ t.twin.accepted = true ∧ t.twin.pDevnum = x.devnum ∧ t.gates = s.gates ∧
        Only [.regs, .conds, .twin] s t) ∧
    (∀ x : Ident, frameGood frIdent rx = true → pairEn s = true → pstate s = psTrain → x.role ≠ roleB s → x.sysId = s.rd R.SYS_ID →
      x.digest.toNat = ownDigest s → x.owner = true → owner s = false →
      ∃ t, exec (.identRx rx x) s = .next t ∧ pstate t = psResync ∧ t.get F.TWN_STAT_LINK_UP = 1 ∧ t.twin.accepted = true ∧
        t.gates = s.gates.modify (gateIdx .gt1) (· ++ [framePayload s frRsreq 0 []]) ∧
        Only [.regs, .conds, .gates, .twin] s t) ∧
    (∀ (x : Ident) (r : Nat), frameGood frIdent rx = true → pairEn s = true → pstate s = psTrain → r ≠ 0 →
      r = (if x.role = roleB s then 1 else if x.sysId ≠ s.rd R.SYS_ID then 2 else if x.digest.toNat ≠ ownDigest s then 3 else 0) →
      ∃ t, exec (.identRx rx x) s = .next t ∧ pstate t = psRefused ∧ t.get F.TWN_STAT_REFUSE = r ∧ counted G.TWN_PAIR_REFUSED s t ∧
        t.gates = s.gates.modify (gateIdx .gt1) (· ++ [framePayload s frRefuse r []]) ∧
        Only [.regs, .conds, .gates, .twin] s t) ∧
    (∀ r : Nat, frameGood frRefuse rx = true → r = rx.head.flags.toNat % 16 → pairEn s = true → pstate s ≠ psRefused →
      ∃ t, exec (.refuseRx rx) s = .next t ∧ pstate t = psRefused ∧ t.get F.TWN_STAT_REFUSE = r ∧ counted G.TWN_PAIR_REFUSED s t ∧
        t.gates = s.gates.modify (gateIdx .gt1) (· ++ [framePayload s frRefuse r []]) ∧
        Only [.regs, .conds, .gates, .twin] s t) ∧
    (∀ x : Ident, frameGood frIdent rx = false → exec (.identRx rx x) s = .next s) ∧
    (frameGood frRefuse rx = false → exec (.refuseRx rx) s = .next s) ∧
    (pstate s = psRefused →
      ∃ t, exec .identRepeat s = .next t ∧ t.gates = s.gates.modify (gateIdx .gt1) (· ++ [framePayload s frIdent 0 (identWords s)]) ∧
        Changes [.gates] [] s t)

/-- Messages and markers (R386, R388, R392 to R395, R403), for frames whose HCRC and index bytes hold: a heartbeat message
shows the partner's state, and of two owners unit B gives up OWN_N; a marker within 1024 taps corrects
the frequency by at most 10000, and one outside asks for the block index nearest to its low 16 bits; without markers the loop freezes; the
digest is compared and a second difference in a row is CFG_DIVERGED; a frame whose HCRC or index bytes fail changes nothing. -/
def Obligations.TwinMessages : Prop :=
  ∀ (s : State) (rx : LinkRx), s.sys.inReset = false → rx.errs = [] →
    (∀ w : Quad, frameGood frHbm rx = false → exec (.hbmRx rx w) s = .next s) ∧
    (∀ e : Int, frameGood frMark rx = false → exec (.markRx rx e) s = .next s) ∧
    (∀ w : Quad, frameGood frHbm rx = true → pairEn s = true → linkUp s = true → pstate s ≠ psRefused →
      w.toNat.testBit 79 = false ∨ owner s = false →
      ∃ t, exec (.hbmRx rx w) s = .next t ∧ t.get F.TWN_STAT_P_OWNER = (if w.toNat.testBit 79 then 1 else 0) ∧
        t.get F.TWN_STAT_P_READY = (if w.toNat.testBit 77 then 1 else 0) ∧ t.rd R.TWN_PDIG = BitVec.ofNat 32 (w.toNat / 2 ^ 32) ∧
        t.get F.TWN_STAT_MSG_OK = 1 ∧ 
        t.twin = { s.twin with
          pSnapOk := w.toNat.testBit 76, pDevSafe := w.toNat.testBit 78
          setBlock := s.twin.setBlock.map fun _ => (w.toNat / 2 ^ 80 + 1) % 2 ^ 48 } ∧
        Changes [.regs, .conds, .twin] [R.TWN_STAT, R.TWN_PDIG] s t) ∧
    (∀ w : Quad, frameGood frHbm rx = true → pairEn s = true → linkUp s = true → pstate s ≠ psRefused → w.toNat.testBit 79 = true →
      owner s = true →
      ∃ t, exec (.hbmRx rx w) s = .next t ∧ counted G.TWN_DUAL_OWNER s t ∧ t.pins.own = (!roleB s) ∧
        (roleB s = true → s.sys.boundaryScan = false → gatesLow t = true) ∧ Only [.regs, .conds, .pins, .twin] s t) ∧
    (∀ e : Int, frameGood frMark rx = true → pairEn s = true → owner s = false → s.twin.concluded = true → pstate s ≠ psRefused →
      s.twin.firstMark = false → e.natAbs ≤ 1024 →
      ∃ t, exec (.markRx rx e) s = .next t ∧ t.get F.TWN_MARK_ERR = pattern 16 e ∧ -10000 ≤ t.getS F.TWN_MARK_CORR ∧
        t.getS F.TWN_MARK_CORR ≤ 10000 ∧ (32 < e.natAbs → counted G.TWN_MARK_ERR s t) ∧ t.twin.marking = true ∧ t.twin.markAge = 0 ∧
        Changes [.regs, .free, .twin] [R.TWN_MARK, G.TWN_MARK_ERR.ptr, G.TWN_MARK_ERR.cptr] s t) ∧
    (∀ e : Int, frameGood frMark rx = true → pairEn s = true → owner s = false → s.twin.concluded = true → pstate s ≠ psRefused →
      s.twin.firstMark = false → 1024 < e.natAbs →
      ∃ t, exec (.markRx rx e) s = .next t ∧ t.get F.TWN_MARK_ERR = pattern 16 (satS 16 e) ∧
        t.twin.setBlock = some ((nearestIndex s rx.head.blk.toNat + 1) % 2 ^ 48) ∧
        pstate t = (if pstate s = psPaired then psResync else pstate s) ∧
        Changes [.regs, .gates, .twin] [R.TWN_MARK, R.TWN_STAT] s t) ∧
    (∃ t, exec .markerTimeout s = .next t ∧ t.twin = { s.twin with marking := false } ∧ Changes [.twin] [] s t) ∧
    (pairEn s = false →
      ∃ t, exec .cfgDigest s = .next t ∧ t.rd R.TWN_CDIG = cfgDigest s ∧ Changes [.regs] [R.TWN_CDIG] s t) ∧
    (pairEn s = true → linkUp s = true → pstate s ≠ psRefused →
      ∃ t, exec .cfgDigest s = .next t ∧ t.rd R.TWN_CDIG = cfgDigest s ∧
        t.twin = { s.twin with diverged := if cfgDigest s = s.rd R.TWN_PDIG then 0 else s.twin.diverged + 1 } ∧
        (cfgDigest s ≠ s.rd R.TWN_PDIG → 1 ≤ s.twin.diverged →
          s.conds.contains (G.TWN_CFG_DIVERGED.ptr * 32 + G.TWN_CFG_DIVERGED.bit) = false → counted G.TWN_CFG_DIVERGED s t) ∧
        Changes [.regs, .conds, .twin] [R.TWN_CDIG, G.TWN_CFG_DIVERGED.ptr, G.TWN_CFG_DIVERGED.cptr] s t)

/-- Ownership (R400 to R404, R407): an eligible unit that finds OWN_N high waits to claim and, if it is still high, pulls it low and counts a
takeover; a pull by the partner ends the wait; a handover is taken where the partner is ready, else refused; the former owner is held
off until its time is over. -/
def Obligations.Ownership : Prop :=
  ∀ s : State,
    (s.sys.inReset = false → eligible s = true → owner s = false →
      ∃ t, exec .ownNHigh s = .next t ∧ t.twin = { s.twin with claim := true } ∧ Changes [.twin] [] s t) ∧
    (s.sys.inReset = false → pstate s = psResync → s.twin.bR = none →
      ∃ t, exec .ownNHigh s = .next t ∧ t.get F.TWN_STAT_RESYNC_FAIL = 1 ∧ pstate t = psFree ∧ t.get F.TWN_CTRL_RESYNC = 0 ∧
        Changes [.regs, .twin] [R.TWN_STAT, R.TWN_CTRL] s t) ∧
    (s.sys.inReset = false → s.twin.claim = true → eligible s = true → owner s = false → s.twin.accepted = false →
      ∃ t, exec (.claimCheck true) s = .next t ∧ t.pins = { s.pins with own := true, released := false } ∧ counted G.TWN_TAKEOVER s t ∧
        t.twin = { s.twin with claim := false, releaseDue := true } ∧ t.get F.TWN_STAT_FROZEN = 0 ∧
        Changes [.regs, .pins, .twin, .str] [R.TWN_STAT, G.TWN_TAKEOVER.ptr, G.TWN_TAKEOVER.cptr] s t) ∧
    (s.sys.inReset = false → s.twin.claim = true →
      ∃ t, exec (.claimCheck false) s = .next t ∧ t.twin = { s.twin with claim := false } ∧ Changes [.twin] [] s t) ∧
    (s.sys.inReset = false → ∃ t, exec .ownNLow s = .next t ∧ t.twin = { s.twin with claim := false } ∧ Changes [.twin] [] s t) ∧
    (reached s R.TWN_CTRL = true → owner s = true → s.get F.TWN_STAT_P_READY = 1 → s.twin.pSnapOk = true → pstate s = psPaired →
      ∃ t, exec .handover s = .next t ∧ t.get F.TWN_CTRL_HANDOVER = 1 ∧ t.twin = { s.twin with handDue := true } ∧
        Changes [.regs, .twin, .hst] [R.TWN_CTRL] s t) ∧
    (reached s R.TWN_CTRL = true → owner s = false ∨ s.get F.TWN_STAT_P_READY = 0 ∨ s.twin.pSnapOk = false ∨ pstate s ≠ psPaired →
      ∃ t, exec .handover s = .next t ∧ t.get F.TWN_CTRL_HANDOVER = 0 ∧ counted G.TWN_REQ_REFUSED s t ∧
        Changes [.regs, .hst] [R.TWN_CTRL, G.TWN_REQ_REFUSED.ptr, G.TWN_REQ_REFUSED.cptr] s t) ∧
    (s.sys.inReset = false →
      ∃ t, exec .handoverHoldoffEnd s = .next t ∧ t.twin = { s.twin with holdoff := false } ∧ Changes [.twin] [] s t)

/-- Snapshots and resynchronization (R386, R396, R398, R407 to R409, R508): a good snapshot in time waits for the next boundary, a bad or late one is
counted; a word with a corrected error is used and counted, one with an uncorrectable error discards the frame, each as an error in transit; the
standby asks for a resynchronization, or is refused; the owner suspends its snapshots to answer; data frames enter the banks, registers
outside the shared set stay; END names the boundary; and SETTLE ends in PAIRED. -/
def Obligations.Resynchronization : Prop :=
  ∀ s : State,
    (∀ (x : Snap) (rx : LinkRx), s.sys.inReset = false → pairEn s = true → linkUp s = true → owner s = false → pstate s ≠ psRefused →
      (frameGood frSnap rx = true → rx.errs = [] → ∃ t, exec (.snapRx rx x false) s = .next t ∧
        t.twin = { s.twin with got := some x } ∧ Changes [.twin] [] s t) ∧
      (∀ e : BitVec 145, frameGood frSnap rx = true → rx.errs = [e] → (checkWord e).1 = .ce1 ∨ (checkWord e).1 = .ce2 →
        ∃ t, exec (.snapRx rx x false) s = .next t ∧ t.twin = { s.twin with got := some x } ∧
          t.get F.TWN_LERR_CORR = (s.get F.TWN_LERR_CORR + 1) % 65536 ∧ counted G.MEM_PATH_CE s t ∧
          t.get F.MEM_ELOG0_SRC = 3 ∧ t.get F.MEM_ELOG0_BANK = 0x7F ∧
          Changes [.regs, .free, .twin] [R.TWN_LERR, R.MEM_ELOG0, R.MEM_ELOG1, G.MEM_PATH_CE.ptr, G.MEM_PATH_CE.cptr] s t) ∧
      (∀ e : BitVec 145, frameGood frSnap rx = true → rx.errs = [e] → (checkWord e).1 = .ue →
        ∃ t, exec (.snapRx rx x false) s = .next t ∧ counted G.MEM_PATH_UE s t ∧ counted G.TWN_SNAP_BAD s t ∧
          Changes [.regs, .free] [R.MEM_ELOG0, R.MEM_ELOG1, G.MEM_PATH_UE.ptr, G.MEM_PATH_UE.cptr, G.TWN_SNAP_BAD.ptr,
            G.TWN_SNAP_BAD.cptr] s t) ∧
      (∀ late, frameGood frSnap rx = false → ∃ t, exec (.snapRx rx x late) s = .next t ∧ counted G.TWN_SNAP_BAD s t ∧
        Changes [.regs] [G.TWN_SNAP_BAD.ptr, G.TWN_SNAP_BAD.cptr] s t) ∧
      (frameGood frSnap rx = true → rx.errs = [] → ∃ t, exec (.snapRx rx x true) s = .next t ∧ counted G.TWN_SNAP_LATE s t ∧
        Changes [.regs] [G.TWN_SNAP_LATE.ptr, G.TWN_SNAP_LATE.cptr] s t)) ∧
    (reached s R.TWN_CTRL = true → owner s = false → linkUp s = true → pstate s ≠ psRefused →
      ∃ t, exec .resyncRequest s = .next t ∧ pstate t = psResync ∧ t.get F.TWN_CTRL_RESYNC = 1 ∧
        t.gates = s.gates.modify (gateIdx .gt1) (· ++ [framePayload s frRsreq 0 []]) ∧
        Changes [.regs, .gates, .twin, .hst] [R.TWN_STAT, R.TWN_CTRL] s t) ∧
    (reached s R.TWN_CTRL = true → owner s = true ∨ linkUp s = false ∨ pstate s = psRefused →
      ∃ t, exec .resyncRequest s = .next t ∧ t.get F.TWN_CTRL_RESYNC = 0 ∧ counted G.TWN_REQ_REFUSED s t ∧
        Changes [.regs, .hst] [R.TWN_CTRL, G.TWN_REQ_REFUSED.ptr, G.TWN_REQ_REFUSED.cptr] s t) ∧
    (∀ rx : LinkRx, s.sys.inReset = false → frameGood frRsreq rx = true → rx.errs = [] → pairEn s = true →
      owner s = true → linkUp s = true →
      ∃ t, exec (.rsreqRx rx) s = .next t ∧ t.twin = { s.twin with answering := answerBlocks, sent := [] } ∧ Changes [.twin] [] s t) ∧
    (∀ rx : LinkRx, s.sys.inReset = false → frameGood frRsync rx = true → rx.errs = [] → pairEn s = true → pstate s = psResync →
      owner s = false →
      (∀ (c : Chan) (nx : Bool) (o : Nat) (w : Word), o < 2224 →
        ∃ t, exec (.rsyncRx rx (.mbBank c nx o [w])) s = .next t ∧ t.bank (mbKey c (xor (liveBankOf s c) nx) o) = w ∧
          (∀ k, k ≠ mbKey c (xor (liveBankOf s c) nx) o → t.bank k = s.bank k) ∧ Changes [.regs, .banks] [] s t) ∧
      (∀ (p : Word16) (w : Word), sharedRegs.contains p.toNat = true →
        ∃ t, exec (.rsyncRx rx (.regs [(p, w)])) s = .next t ∧ t.rd p.toNat = w ∧ Changes [.regs] [p.toNat] s t) ∧
      (∀ (p : Word16) (w : Word), sharedRegs.contains p.toNat = false →
        ∃ t, exec (.rsyncRx rx (.regs [(p, w)])) s = .next t ∧ Changes [.regs] [] s t) ∧
      ∀ (b : Nat) (w : Word),
        ∃ t, exec (.rsyncRx rx (.endMark b w)) s = .next t ∧ t.rd R.TWN_PDIG = w ∧ t.get F.TWN_CTRL_RESYNC = 0 ∧
          t.twin = { s.twin with bR := some b } ∧ Changes [.regs, .twin] [R.TWN_PDIG, R.TWN_CTRL] s t) ∧
    (s.sys.inReset = false → pstate s = psSettle →
      ∃ t, exec .settleEnd s = .next t ∧ pstate t = psPaired ∧ t.twin = { s.twin with settle := 0 } ∧ Changes [.regs, .twin] [R.TWN_STAT] s t)

/-- Ports and addresses of the Strings ring (R416, R417, R423, R424, R428, R438, R439): a port counts its code violations, and with 64 of a block or a lost receiver it is no longer OK,
until 12,000 blocks in a row have passed without failure; forwarding starts; four blocks without a frame are RING_LOST; the master frees an address after 24,000 blocks and a node drops its
own after 12,000. -/
def Obligations.StringsPorts : Prop :=
  ∀ s : State, s.sys.inReset = false →
    (∀ (k : Nat) (lost : Bool), 64 ≤ k ∨ lost = true →
      (∃ t, exec (.strPortFail true k lost) s = .next t ∧ t.get F.STR_STAT_UP_OK = 0 ∧ t.str = { s.str with upBad := true, upAge := 0 } ∧
        t.get F.STR_LERR_UP_CV = (s.get F.STR_LERR_UP_CV + k) % 65536 ∧
        (s.str.upBad = false → counted G.STR_PORT_FAIL s t) ∧
        Changes [.regs, .str] [R.STR_STAT, R.STR_LERR, G.STR_PORT_FAIL.ptr, G.STR_PORT_FAIL.cptr] s t) ∧
      ∃ t, exec (.strPortFail false k lost) s = .next t ∧ t.get F.STR_STAT_DOWN_OK = 0 ∧
        t.str = { s.str with downBad := true, downAge := 0 } ∧
        t.get F.STR_LERR_DOWN_CV = (s.get F.STR_LERR_DOWN_CV + k) % 65536 ∧
        (s.str.downBad = false → counted G.STR_PORT_FAIL s t) ∧
        Changes [.regs, .str] [R.STR_STAT, R.STR_LERR, G.STR_PORT_FAIL.ptr, G.STR_PORT_FAIL.cptr] s t) ∧
    (∀ k : Nat, k < 64 →
      (∃ t, exec (.strPortFail true k false) s = .next t ∧ t.get F.STR_LERR_UP_CV = (s.get F.STR_LERR_UP_CV + k) % 65536 ∧
        Changes [.regs] [R.STR_LERR] s t) ∧
      ∃ t, exec (.strPortFail false k false) s = .next t ∧ t.get F.STR_LERR_DOWN_CV = (s.get F.STR_LERR_DOWN_CV + k) % 65536 ∧
        Changes [.regs] [R.STR_LERR] s t) ∧
    (s.str.forwarding = true →
      (12000 ≤ s.str.upAge →
        ∃ t, exec (.strPortGood true) s = .next t ∧ t.get F.STR_STAT_UP_OK = 1 ∧ t.str = { s.str with upBad := false } ∧
          Changes [.regs, .str] [R.STR_STAT] s t) ∧
      (12000 ≤ s.str.downAge →
        ∃ t, exec (.strPortGood false) s = .next t ∧ t.get F.STR_STAT_DOWN_OK = 1 ∧ t.str = { s.str with downBad := false } ∧
          Changes [.regs, .str] [R.STR_STAT] s t)) ∧
    (s.str.upAge < 12000 → exec (.strPortGood true) s = .next s) ∧
    (s.str.downAge < 12000 → exec (.strPortGood false) s = .next s) ∧
    (∃ t, exec .forwardingStart s = .next t ∧ t.str = { s.str with forwarding := true } ∧
      t.get F.STR_STAT_UP_OK = (if s.str.upBad then 0 else 1) ∧ t.get F.STR_STAT_DOWN_OK = (if s.str.downBad then 0 else 1) ∧
      Changes [.regs, .str] [R.STR_STAT] s t) ∧
    (4 ≤ s.str.quiet → s.conds.contains (G.STR_RING_LOST.ptr * 32 + G.STR_RING_LOST.bit) = false →
      ∃ t, exec .ringLostTimeout s = .next t ∧ counted G.STR_RING_LOST s t ∧
        Changes [.regs, .conds] [G.STR_RING_LOST.ptr, G.STR_RING_LOST.cptr] s t) ∧
    (∀ (n : Fin 32) (a : Nat), s.str.master = true → s.str.held.getD n none = some a → 24000 ≤ a →
      ∃ t, exec (.addressTimeout n) s = .next t ∧
        t.str = { s.str with held := s.str.held.set n none, pairs := s.str.pairs.set n 0xFF } ∧ Changes [.str] [] s t) ∧
    ∀ n : Fin 32, s.str.master = false → strAddr s = n → 12000 ≤ s.str.quiet →
      ∃ t, exec (.addressTimeout n) s = .next t ∧ strAddr t = noAddr ∧ Changes [.regs] [R.STR_STAT] s t

/-- Frames of the Strings ring (R413, R414, R418, R421 to R425, R429): the master starts one frame a block; a node that takes part writes
its own slot, or joins at the lowest free one of an ENUM frame; a damaged frame is counted; a returning copy brings the slots that are valid
to MGR_NODE; and of two masters the one with the lower device number yields. -/
def Obligations.StringsFrames : Prop :=
  ∀ s : State, s.sys.inReset = false →
    (originates s = true → strAddr s < 32 → s.str.cur = none → s.str.own = [] → s.str.queue = [] → s.time.block % 12000 ≠ 0 →
      s.str.enumNext = false →
      ∃ t, exec .ringFrameStart s = .next t ∧ t.str.frameOut = true ∧ t.str.frameEnum = false ∧ t.str.lastSlot = runSlot s (strAddr s) ∧
        Only [.regs, .conds, .str] s t) ∧
    (originates s = true → strAddr s < 32 → s.str.cur = none → s.str.own = [] → s.str.queue = [] → s.str.enumNext = true →
      ∃ t, exec .ringFrameStart s = .next t ∧ t.str.frameOut = true ∧ t.str.frameEnum = true ∧ t.str.lastSlot = enumSlot s (strAddr s) ∧
        t.str.enumNext = false ∧ Only [.regs, .conds, .str] s t) ∧
    (∀ f : RingFrame, s.str.forwarding = true → hcrcOk f = true → f.endOk = true → takesPart s = true → f.cluster.toNat = s.get F.STR_CFG_CLUSTER →
      strAddr s < 32 → f.enum = false → slotCommand f.cmd = none → s.str.master = false →
      ∃ t, exec (.ringFrameRx f) s = .next t ∧ t.str.quiet = 0 ∧ t.str.lastSlot = runSlot s (strAddr s) ∧
        t.get F.STR_STAT_NODES = f.nodes.toNat % 64 ∧ t.get F.STR_STAT_FOLDED = (if f.fold then 1 else 0) ∧ strAddr t = strAddr s ∧
        (f.blk.toNat ≠ s.time.block → counted G.STR_BLK_SKEW s t) ∧ Only [.regs, .conds, .str] s t) ∧
    (∀ (f : RingFrame) (n : Nat), s.str.forwarding = true → hcrcOk f = true → f.endOk = true → takesPart s = true →
      f.cluster.toNat = s.get F.STR_CFG_CLUSTER → strAddr s = noAddr → f.enum = true → f.fold = false → slotCommand f.cmd = none →
      s.str.master = false → (List.range 32).find? (fun n => slotByte0 f n == 0xFF) = some n →
      ∃ t, exec (.ringFrameRx f) s = .next t ∧ strAddr t = n ∧ Only [.regs, .conds, .str] s t) ∧
    (∀ f : RingFrame, s.str.forwarding = true → hcrcOk f = false ∨ f.endOk = false →
      ∃ t, exec (.ringFrameRx f) s = .next t ∧ counted G.STR_FRAME_BAD s t ∧ (hcrcOk f = false → t.str.sent = ringBytes f) ∧
        Only [.regs, .conds, .str] s t) ∧
    (∀ (f : RingFrame) (up : Bool), s.str.frameOut = true → f.origin = ownOrigin s → hcrcOk f = true → f.endOk = true → f.enum = false →
      f.fold = false → s.str.cur = none → (up = true → ∀ n < 32, s.str.downGave.getD n false = false) →
      ∃ t, exec (.ringFrameReturn f up) s = .next t ∧ t.str.quiet = 0 ∧ t.str.copies = s.str.copies + 1 ∧
        (∀ n < 32, slotValid n (f.slots.getD n []) = true →
          ∀ j < 16, t.rd (R.MGR_NODE (16 * n + j)) = BitVec.ofNat 32 (beAt (f.slots.getD n []) (4 * j) 4)) ∧
        (∀ n < 32, slotValid n (f.slots.getD n []) = false → ∀ j < 16, t.rd (R.MGR_NODE (16 * n + j)) = s.rd (R.MGR_NODE (16 * n + j))) ∧
        Only [.regs, .conds, .str] s t) ∧
    ∀ (f : RingFrame) (up : Bool), s.str.frameOut = true → s.str.master = true → f.origin.toNat < (ownOrigin s).toNat →
      ∃ t, exec (.ringFrameReturn f up) s = .next t ∧ t.str = { s.str with stopDue := true } ∧ counted G.STR_MGR_CONFLICT s t ∧
        Changes [.regs, .str] [G.STR_MGR_CONFLICT.ptr, G.STR_MGR_CONFLICT.cptr] s t

/-- Commands of the Strings ring at a node (R427, R430, R432 to R434, R436, R439): each is applied once for its CSEQ and reported in ACK; REGW writes
registers in order or is illegal as a whole; RINGW puts one entry into a CMD ring; COMMIT reports how it armed; ABORT, UNFOLD and ASSIGN are
applied. At the manager, GO queues the command of MGR_CQHDR with the next CSEQ, or counts CQ_FULL; a read of the first word of a node's slot
or of a result latches the words after it. -/
def Obligations.StringsCommands : Prop :=
  (∀ (s : State) (q : Word16), s.sys.inReset = false →
    (s.str.ackSeq = q.toNat →
      ∀ p, exec (.strRegw q p) s = .next s ∧ exec (.strRingw q p) s = .next s ∧ exec (.strCommit q p) s = .next s ∧
        exec (.strAbort q) s = .next s ∧ exec (.unfold q p) s = .next s ∧ exec (.assign q p) s = .next s) ∧
    (s.str.ackSeq ≠ q.toNat → ∀ p : List Byte,
      (beAt p 0 1 = 0 ∨ 4 < beAt p 0 1 ∨
          (regwGroups p (beAt p 0 1)).any (fun g => decide (0xB000 ≤ g.1) || g.1 % 4 != 0) = true →
        ∃ t, exec (.strRegw q p) s = .next t ∧ t.str = { s.str with ackSeq := q.toNat, ack := 0x30 } ∧ Changes [.str] [] s t) ∧
      (1 ≤ beAt p 0 1 → beAt p 0 1 ≤ 4 →
          (regwGroups p (beAt p 0 1)).any (fun g => decide (0xB000 ≤ g.1) || g.1 % 4 != 0) = false →
        ∃ t, exec (.strRegw q p) s = .next t ∧ t.str.ackSeq = q.toNat ∧ t.str.ack = 0 ∧ t.pending = s.pending ∧
          ∀ x, t.rd x = (regWrites s .ringEngine (regwGroups p (beAt p 0 1))).rd x) ∧
      (∀ r : Nat, r = beAt p 0 1 → r < 16 → s.get (F.RNG_CFG_EN r) = 1 → ringFull s r = false →
        ∃ t, exec (.strRingw q p) s = .next t ∧ ringCount t r = ringCount s r + 1 ∧
          t.bank (ringKey r (s.get (F.RNG_WPTR_WIDX r)) 1) = BitVec.ofNat 32 (beAt p 5 4) ∧
          t.str = { s.str with ackSeq := q.toNat, ack := 0 } ∧ Only [.regs, .banks, .mem, .rings, .str] s t) ∧
      (∀ r : Nat, r = beAt p 0 1 → r < 16 → s.get (F.RNG_CFG_EN r) = 1 → ringFull s r = true →
        ∃ t, exec (.strRingw q p) s = .next t ∧ counted (G.RNG_PUSH_REFUSED r) s t ∧
          Changes [.regs] [(G.RNG_PUSH_REFUSED r).ptr, (G.RNG_PUSH_REFUSED r).cptr] s t) ∧
      (16 ≤ beAt p 0 1 →
        ∃ t, exec (.strRingw q p) s = .next t ∧ t.str = { s.str with ackSeq := q.toNat, ack := 0x30 } ∧ Changes [.str] [] s t) ∧
      (∃ t, exec (.strCommit q p) s = .next t ∧ t.str.ackSeq = q.toNat ∧
        (t.get F.SCN_STAT_REASON = 0 → t.get F.SCN_STAT_STATE ≠ 0 →
          t.str.ack = (if beAt p 0 6 ≤ s.time.block then 0x20 else 0)) ∧
        (t.get F.SCN_STAT_REASON ≠ 0 ∨ t.get F.SCN_STAT_STATE = 0 → t.str.ack = 0x10 + t.get F.SCN_STAT_REASON % 16)) ∧
      (∃ t, exec (.strAbort q) s = .next t ∧ t.str.ackSeq = q.toNat ∧ t.str.ack = 0 ∧
        ∀ x, t.rd x = (regWrite s .ringEngine R.SCN_ARM 2).rd x) ∧
      (∃ t, exec (.unfold q p) s = .next t ∧ t.str = { s.str with ackSeq := q.toNat, ack := 0, unfoldAt := some (beAt p 0 6) } ∧
        Changes [.str] [] s t) ∧
      (strAddr s ≠ noAddr → beAt p 0 1 ≤ strAddr s → strAddr s < beAt p 0 1 + 16 →
        ∃ t, exec (.assign q p) s = .next t ∧ t.get F.STR_STAT_PAIR = beAt p (1 + (strAddr s - beAt p 0 1)) 1 ∧
          t.str.ackSeq = q.toNat ∧ t.str.ack = 0 ∧ Changes [.regs, .str] [R.STR_STAT] s t))) ∧
  ∀ s : State,
    (∀ v : Word, writable s (pathAt s .hostManager R.MGR_CQCTRL) R.MGR_CQCTRL = true → bitN v.toNat 0 = true → queueLength s.str < 16 →
      s.get F.MGR_CQHDR_CTYPE ≠ 3 →
      ∃ t, exec (.cmdQueueGo v) s = .next t ∧
        t.str = { s.str with
          queue := s.str.queue ++ [⟨s.get F.MGR_CQHDR_DEST, s.get F.MGR_CQHDR_CTYPE, s.str.nextSeq, cqPayload s⟩]
          nextSeq := (s.str.nextSeq + 1) % 65536 } ∧
        t.get F.MGR_CQCTRL_CSEQ = s.str.nextSeq % 65536 ∧ Changes [.regs, .str, .hst] [R.MGR_CQCTRL] s t) ∧
    (∀ v : Word, writable s (pathAt s .hostManager R.MGR_CQCTRL) R.MGR_CQCTRL = true → bitN v.toNat 0 = true → queueLength s.str < 16 →
      s.get F.MGR_CQHDR_CTYPE = 3 → s.get F.MGR_CQHDR_USE_TIME = 1 →
      ∃ t, exec (.cmdQueueGo v) s = .next t ∧
        t.str.queue = s.str.queue ++ [⟨s.get F.MGR_CQHDR_DEST, 3, s.str.nextSeq,
          beBytes 6 (timeToBlock (s.get F.MGR_CQT0_S * 2 ^ 32 + s.get F.MGR_CQT1_S) (s.get F.MGR_CQT2_NS)) ++ (cqPayload s).drop 6⟩] ∧
        Changes [.regs, .str, .hst] [R.MGR_CQCTRL] s t) ∧
    (∀ v : Word, writable s (pathAt s .hostManager R.MGR_CQCTRL) R.MGR_CQCTRL = true → bitN v.toNat 0 = true → 16 ≤ queueLength s.str →
      ∃ t, exec (.cmdQueueGo v) s = .next t ∧ counted G.MGR_CQ_FULL s t ∧
        Changes [.regs, .hst] [G.MGR_CQ_FULL.ptr, G.MGR_CQ_FULL.cptr] s t) ∧
    (∀ n : Fin 32, readable s .hostManager (R.MGR_NODE (16 * n)) = true →
      ∃ t, exec (.nodeSlotRead n) s = .next t ∧ t.rdata = s.rd (R.MGR_NODE (16 * n)) ∧
        (∀ j < 15, latchedWord t 0 (R.MGR_NODE (16 * n) + 4 + 4 * j) = s.rd (R.MGR_NODE (16 * n) + 4 + 4 * j)) ∧
        Changes [.rdata, .vent] [] s t) ∧
    (readable s .hostManager R.MGR_CQRES0 = true →
      ∃ t, exec .cmdResultRead s = .next t ∧ t.rdata = s.rd R.MGR_CQRES0 ∧
        latchedWord t 0 R.MGR_CQRES1 = s.rd R.MGR_CQRES1 ∧ latchedWord t 0 R.MGR_CQRES2 = s.rd R.MGR_CQRES2 ∧ Changes [.rdata, .vent] [] s t)

/-- Register accesses (R12, R13, R15 to R17, R481, R559, R635, R636): a write that reaches a register of plain storage gives its RW and RWL bits the written value,
sets its SC bits and clears its W1C bits where 1 is written, and leaves its other bits and every other register; one that does not reach
a register has no effect; a W1C write clears flags, but a set event of the same cycle stands and counts; the production test registers are
refused by name. -/
def Obligations.RegisterAccesses : Prop :=
  ∀ (s : State) (path : Path) (p : Word16) (v : Word),
    (p.toNat ∈ [R.FAB_CFG, R.BKG_CFG, R.HST_GRP, R.VENT_TAMB, R.AIN_TMON, R.MGR_CQHDR, R.MGR_CQT0, R.MGR_CQT1, R.MGR_CQDATA0,
        R.MGR_CQDATA7] → writable s path p.toNat = true →
      ∃ t, exec (.registerWrite path p v) s = .next t ∧
        (∀ r i, rowOf p.toNat = some (r, i) → t.rd p.toNat = ((s.rd p.toNat &&& ~~~BitVec.ofNat 32 (r.rw ||| r.rwl)) |||
          (v &&& BitVec.ofNat 32 (r.rw ||| r.rwl)) ||| (v &&& BitVec.ofNat 32 r.sc)) &&& ~~~(v &&& BitVec.ofNat 32 r.w1c)) ∧
        Changes [.regs, .heldU, .heldB, .hst] [p.toNat] s t) ∧
    (writable s path p.toNat = false → testRegister s path p.toNat = false →
      ∃ t, exec (.registerWrite path p v) s = .next t ∧ Changes [.hst] [] s t) ∧
    (0xF000 ≤ p.toNat → path = .debugPort → lcState s = lcBlank → s.sys.inReset = false →
      exec (.registerWrite path p v) s = .refused .testRegister) ∧
    (∀ r i, rowOf p.toNat = some (r, i) → writable s path p.toNat = true →
      ∃ t, exec (.w1cClear path p v 0) s = .next t ∧ t.rd p.toNat = s.rd p.toNat &&& ~~~(v &&& BitVec.ofNat 32 r.w1c) ∧
        Changes [.regs, .hst] [p.toNat] s t) ∧
    ∀ r i b g, rowOf p.toNat = some (r, i) → writable s path p.toNat = true → b < 32 → bitN r.w1c b = true → flagAt p.toNat b = some g →
      ∃ t, exec (.w1cClear path p v (BitVec.ofNat 32 (2 ^ b))) s = .next t ∧ counted g s t ∧
        Changes [.regs, .hst] [p.toNat, g.cptr] s t

/-- Addresses on the host bus (R440 to R446, R451 to R453, R455, R457): the device answers its primary, manager and group addresses, turns the
rest away, is busy while a commit runs, and a read fetches the register at the pointer. -/
def Obligations.HostAddresses : Prop :=
  ∀ s : State, s.sys.inReset = false →
    (s.hst.request = false → s.hst.phase = hbIdle ∨ (s.hst.timedOut = true ∧ s.hst.phase = hbIgnore) →
      ∃ t, exec .hostStart s = .next t ∧ t.hst = { s.hst with phase := hbAddress } ∧ Changes [.conds, .hst] [] s t) ∧
    (∀ (b : Byte) (err : BitVec 145), s.hst.phase = hbAddress → ready s = true → s.hst.committing = false → hostAddr s (b.toNat / 2) = .primary →
      b.toNat % 2 = 0 →
      ∃ t, exec (.hostAddress b err) s = .next t ∧
        t.hst = { s.hst with path := .hostPrimary, phase := hbPtrHigh, count := 0, acked := true, isOver := false, lanes := [], formed := [] } ∧
        Changes [.conds, .hst] [] s t) ∧
    (∀ (b : Byte) (err : BitVec 145), s.hst.phase = hbAddress → ready s = true → s.hst.committing = false → hostAddr s (b.toNat / 2) = .primary →
      b.toNat % 2 = 1 → islandDown s (hstPtr s / 4 * 4) = false → (checkWord err).1 = .good →
      ∃ t, exec (.hostAddress b err) s = .next t ∧ t.hst.phase = hbRead ∧ t.hst.path = .hostPrimary ∧ t.hst.acked = true ∧ t.hst.failed = false ∧
        t.hst.whole = (hstPtr s % 4 == 0) ∧
        t.hst.fetched = regPeek t .hostPrimary (hstPtr s / 4 * 4) ∧ Changes [.conds, .hst] [] s t) ∧
    (∀ (b : Byte) (err : BitVec 145), s.hst.phase = hbAddress → ready s = true → s.hst.committing = false →
      hostAddr s (b.toNat / 2) = .primary → b.toNat % 2 = 1 → islandDown s (hstPtr s / 4 * 4) = false → (checkWord err).1 = .ue →
      ∃ t, exec (.hostAddress b err) s = .next t ∧ t.hst.phase = hbRead ∧ t.hst.acked = true ∧ t.hst.failed = true ∧ t.hst.fetched = 0 ∧
        counted G.HST_RD_FAIL s t ∧ counted G.MEM_PATH_UE s t ∧
        Changes [.regs, .conds, .free, .hst]
          [G.HST_RD_FAIL.ptr, G.HST_RD_FAIL.cptr, G.MEM_PATH_UE.ptr, G.MEM_PATH_UE.cptr, R.MEM_ELOG0, R.MEM_ELOG1] s t) ∧
    (∀ (b : Byte) (err : BitVec 145), s.hst.phase = hbAddress → ready s = true → s.hst.committing = true → hostAddr s (b.toNat / 2) = .primary →
      ∃ t, exec (.hostAddress b err) s = .next t ∧ t.hst = { s.hst with phase := hbIgnore, acked := false } ∧ counted G.HST_BUSY_NACK s t ∧
        Changes [.regs, .conds, .hst] [G.HST_BUSY_NACK.ptr, G.HST_BUSY_NACK.cptr] s t) ∧
    (∀ (b : Byte) (err : BitVec 145), s.hst.phase = hbAddress → ready s = true → s.hst.committing = false → hostAddr s (b.toNat / 2) = .group →
      b.toNat % 2 = 0 →
      ∃ t, exec (.hostAddress b err) s = .next t ∧ t.hst.path = .hostGroup ∧ t.hst.acked = true ∧ t.hst.phase = hbPtrHigh ∧ Changes [.conds, .hst] [] s t) ∧
    (∀ (b : Byte) (err : BitVec 145), s.hst.phase = hbAddress → ready s = true → s.hst.committing = false → hostAddr s (b.toNat / 2) = .group →
      b.toNat % 2 = 1 →
      ∃ t, exec (.hostAddress b err) s = .next t ∧ t.hst = { s.hst with phase := hbIgnore, acked := false } ∧ counted G.HST_GRP_READ s t ∧
        Changes [.regs, .conds, .hst] [G.HST_GRP_READ.ptr, G.HST_GRP_READ.cptr] s t) ∧
    (∀ (b : Byte) (err : BitVec 145), s.hst.phase = hbAddress → ready s = true → s.hst.committing = true → hostAddr s (b.toNat / 2) = .group →
      b.toNat % 2 = 1 →
      ∃ t, exec (.hostAddress b err) s = .next t ∧ t.hst = { s.hst with phase := hbIgnore, acked := false } ∧ counted G.HST_GRP_READ s t ∧
        counted G.HST_BUSY_NACK s t ∧
        Changes [.regs, .conds, .hst] [G.HST_GRP_READ.ptr, G.HST_GRP_READ.cptr, G.HST_BUSY_NACK.ptr, G.HST_BUSY_NACK.cptr] s t) ∧
    (∀ (b : Byte) (err : BitVec 145), s.hst.phase = hbAddress → ready s = true → s.hst.committing = true → hostAddr s (b.toNat / 2) = .group → b.toNat % 2 = 0 →
      ∃ t, exec (.hostAddress b err) s = .next t ∧ t.hst = { s.hst with phase := hbIgnore, acked := false } ∧ counted G.HST_GRP_MISS s t ∧
        Changes [.regs, .conds, .hst] [G.HST_GRP_MISS.ptr, G.HST_GRP_MISS.cptr] s t) ∧
    (∀ (b : Byte) (err : BitVec 145), s.hst.phase = hbAddress → ready s = true → s.hst.committing = false → hostAddr s (b.toNat / 2) = .manager →
      managerAnswers s = true → b.toNat % 2 = 0 →
      ∃ t, exec (.hostAddress b err) s = .next t ∧ t.hst.path = .hostManager ∧ t.hst.acked = true ∧ t.hst.phase = hbPtrHigh ∧ Changes [.conds, .hst] [] s t) ∧
    ∀ (b : Byte) (err : BitVec 145), s.hst.phase = hbAddress → ready s = false ∨ hostAddr s (b.toNat / 2) = .other ∨
        (hostAddr s (b.toNat / 2) = .manager ∧ managerAnswers s = false) →
      ∃ t, exec (.hostAddress b err) s = .next t ∧ t.hst = { s.hst with phase := hbDeaf, acked := false } ∧ Changes [.conds, .hst] [] s t

/-- Bytes on the host bus (R447 to R449, R453, R454, R456, R458): two pointer bytes, then data bytes that fill the lanes of registers within a 32-byte
page, at most 32 of them; a read sends the lane of the fetched register and moves the pointer on. -/
def Obligations.HostBytes : Prop :=
  ∀ s : State, s.sys.inReset = false →
    (∀ b : Byte, s.hst.phase = hbPtrHigh →
      ∃ t, exec (.hostByteWrite b) s = .next t ∧ t.hst = { s.hst with ptrHigh := b.toNat, phase := hbPtrLow, acked := true } ∧ Changes [.conds, .hst] [] s t) ∧
    (∀ b : Byte, s.hst.phase = hbPtrLow →
      ∃ t, exec (.hostByteWrite b) s = .next t ∧ hstPtr t = (s.hst.ptrHigh * 256 + b.toNat) % 65536 ∧
        t.hst = { s.hst with phase := hbData, acked := true } ∧ Changes [.regs, .conds, .hst] [R.HST_STAT] s t) ∧
    (∀ (b : Byte) (p : Nat), s.hst.phase = hbData → s.hst.count < 32 → p = hstPtr s → (∀ e ∈ s.hst.lanes, e.1 ≠ p / 4 * 4) →
      ∃ t, exec (.hostByteWrite b) s = .next t ∧ hstPtr t = p / 32 * 32 + (p + 1) % 32 ∧ t.hst.count = s.hst.count + 1 ∧
        t.hst.lanes = s.hst.lanes ++ [(p / 4 * 4, [(p % 4, b)])] ∧ t.hst.formed = s.hst.formed ∧
        Changes [.regs, .conds, .hst] [R.HST_STAT] s t) ∧
    (∀ (b : Byte) (p : Nat) (l : List (Nat × Byte)), s.hst.phase = hbData → s.hst.count < 32 → p = hstPtr s →
      s.hst.lanes.find? (fun e => e.1 == p / 4 * 4) = some (p / 4 * 4, l) → (fillLane l (p % 4) b).length = 4 →
      ∃ t, exec (.hostByteWrite b) s = .next t ∧ hstPtr t = p / 32 * 32 + (p + 1) % 32 ∧
        t.hst.formed = s.hst.formed ++ [(p / 4 * 4, laneWord (fillLane l (p % 4) b))] ∧ Changes [.regs, .conds, .hst] [R.HST_STAT] s t) ∧
    (∀ b : Byte, s.hst.phase = hbData → 32 ≤ s.hst.count → s.hst.isOver = false →
      ∃ t, exec (.hostByteWrite b) s = .next t ∧ t.hst = { s.hst with isOver := true, acked := false } ∧ counted G.HST_WR_OVER s t ∧
        Changes [.regs, .conds, .hst] [G.HST_WR_OVER.ptr, G.HST_WR_OVER.cptr] s t) ∧
    (∀ (ack : Bool) (err : BitVec 145), s.hst.phase = hbRead →
      ∃ t, exec (.hostByteRead ack err) s = .next t ∧
        t.rdata = BitVec.ofNat 32 (s.hst.fetched.toNat / 2 ^ (8 * (3 - hstPtr s % 4)) % 256) ∧ hstPtr t = (hstPtr s + 1) % 65536 ∧
        (hstPtr s % 4 ≠ 3 → t.hst = { s.hst with phase := if ack then hbRead else hbIgnore } ∧
          Changes [.regs, .rdata, .conds, .hst] [R.HST_STAT] s t))

/-- The end of a transaction, timeouts and in-band requests (R450, R451, R458, R461 to R468, R472): a STOP or repeated START starts the commit of the accesses formed; the end of the
commit brings the filter setting into force; a line low for 25 ms abandons the transaction where the timeouts are active; a request starts
where a source is enabled and pending, ends, or gives way to a START. -/
def Obligations.HostTransactions : Prop :=
  ∀ s : State, s.sys.inReset = false →
    (s.hst.lanes = [] → s.hst.formed ≠ [] →
      (∃ t, exec (.hostStop false) s = .next t ∧ t.hst.phase = hbIdle ∧ t.hst.timedOut = false ∧ t.hst.committing = true ∧
        t.hst.commit = s.hst.formed ∧ t.hst.commitPath = s.hst.path ∧ t.hst.formed = [] ∧ Changes [.conds, .hst] [] s t) ∧
      (s.hst.phase ≠ hbDeaf → s.hst.phase ≠ hbIdle →
        ∃ t, exec (.hostRepeatedStart false) s = .next t ∧ t.hst.phase = hbAddress ∧ t.hst.committing = true ∧
          t.hst.commit = s.hst.formed ∧ t.hst.commitPath = s.hst.path ∧ Changes [.conds, .hst] [] s t)) ∧
    (∀ l, s.hst.lanes = [l] → s.hst.formed = [] →
      ∃ t, exec (.hostStop false) s = .next t ∧ counted G.HST_PARTIAL s t ∧ t.hst.committing = s.hst.committing ∧ t.hst.phase = hbIdle ∧
        Changes [.regs, .conds, .hst] [G.HST_PARTIAL.ptr, G.HST_PARTIAL.cptr] s t) ∧
    (s.hst.lanes = [] → s.hst.formed = [] → s.hst.phase = hbData →
      ∃ t, exec (.hostStop true) s = .next t ∧ counted G.HST_BYTE_DISC s t ∧ t.hst.phase = hbIdle ∧
        Changes [.regs, .conds, .hst] [G.HST_BYTE_DISC.ptr, G.HST_BYTE_DISC.cptr] s t) ∧
    (s.hst.committing = true → s.hst.commit = [] → s.hst.resetDue = false →
      ∃ t, exec .commitEnd s = .next t ∧ t.hst = { s.hst with committing := false, filter := s.rd R.HST_CFG } ∧ Changes [.hst] [] s t) ∧
    (s.hst.committing = true → s.hst.commit = [] → s.hst.resetDue = true →
      ∃ t, exec .commitEnd s = .next t ∧ t.sys.inReset = true ∧ t.pending = s.pending) ∧
    (hstPhase s ≠ 1 → s.hst.phase ≠ hbIdle → s.hst.phase ≠ hbDeaf → s.conds = [] →
      (∃ t, exec .sclTimeout s = .next t ∧ t.hst.phase = hbIgnore ∧ t.hst.timedOut = true ∧ t.hst.lanes = [] ∧ t.hst.formed = [] ∧
        counted G.HST_SCL_TMO s t ∧ Changes [.regs, .conds, .hst] [G.HST_SCL_TMO.ptr, G.HST_SCL_TMO.cptr] s t) ∧
      ∃ t, exec .sdaTimeout s = .next t ∧ t.hst.phase = hbIgnore ∧ t.hst.timedOut = true ∧ t.hst.lanes = [] ∧ t.hst.formed = [] ∧
        counted G.HST_SDA_TMO s t ∧ Changes [.regs, .conds, .hst] [G.HST_SDA_TMO.ptr, G.HST_SDA_TMO.cptr] s t) ∧
    (hstPhase s = 1 →
      (∃ t, exec .sclTimeout s = .next t ∧ t.hst = s.hst ∧
        Changes [.regs, .conds] [G.HST_SCL_TMO.ptr, G.HST_SCL_TMO.cptr] s t) ∧
      ∃ t, exec .sdaTimeout s = .next t ∧ t.hst = s.hst ∧ Changes [.regs, .conds] [G.HST_SDA_TMO.ptr, G.HST_SDA_TMO.cptr] s t) ∧
    (s.get F.HST_REQ_REQ_EN = 1 → requestPending s ≠ 0 → s.hst.phase = hbIdle →
      ∃ t, exec .ibrStart s = .next t ∧ t.hst = { s.hst with request := true } ∧ Changes [.hst] [] s t) ∧
    (∃ t, exec .ibrEnd s = .next t ∧ t.hst = { s.hst with request := false } ∧ Changes [.hst] [] s t) ∧
    (s.hst.request = true →
      ∃ t, exec .reqCollide s = .next t ∧ t.hst = { s.hst with request := false, phase := hbAddress } ∧ counted G.HST_REQ_COLLIDE s t ∧
        Changes [.regs, .hst] [G.HST_REQ_COLLIDE.ptr, G.HST_REQ_COLLIDE.cptr] s t)

/-- Grants of the fabric (R490 to R495, R498, R501, R635): at a port that no burst holds, the request of
the best class among those that stand there goes first; a granted read is outstanding, a granted write applies its first beat, one
that reaches no target or a DOWN port is answered with an error at once, and one that writes a test register is refused by name. -/
def Obligations.FabricGrants : Prop :=
  (∀ (s : State) (p : Fin 15) (rs : List FabReq), (rs.filter (requestStands s p)).any (reqTests s) = true →
    exec (.fabricGrant p rs) s = .refused .testRegister) ∧
  (∀ (last : Nat) (rs : List FabReq) (r : FabReq), winner last rs = some r → r ∈ rs ∧ ∀ q ∈ rs, rank last r ≤ rank last q) ∧
  ∀ (s : State) (p : Fin 15) (rs : List FabReq) (r : FabReq), s.sys.inReset = false →
    (rs.filter (requestStands s p)).any (reqTests s) = false →
    (bitN (s.get F.FAB_PORT_DOWN) p = false → portBusy s p = false → winner (s.fab.rr.getD p 6) (rs.filter (requestStands s p)) = some r →
      reqTarget s r ≠ 0 → r.write = false →
      ∃ t, exec (.fabricGrant p rs) s = .next t ∧ t.fab.out = s.fab.out.set r.master (some { port := p, req := r, done := 1 }) ∧
        t.fab.resp = s.fab.resp ∧ t.fab.park = s.fab.park.set p (if s.get F.FAB_CFG_PARK_DEF = 1 then some 0 else some r.master.val) ∧
        Changes [.fab] [] s t) ∧
    (∀ s1 : State, bitN (s.get F.FAB_PORT_DOWN) p = false → portBusy s p = false →
      winner (s.fab.rr.getD p 6) (rs.filter (requestStands s p)) = some r → reqTarget s r ≠ 0 → r.write = true →
      s1 = { s with fab := { s.fab with
        rr := if classOf r = 1 then s.fab.rr.set p r.master else s.fab.rr
        park := s.fab.park.set p (if s.get F.FAB_CFG_PARK_DEF = 1 then some 0 else some r.master.val)
        out := s.fab.out.set r.master (some { port := p, req := r, done := 1 }) } } →
      exec (.fabricGrant p rs) s = .next (writeBeat (popGranted s1 r) r.master (reqTarget s r) r.addr.toNat (r.data.getD 0 0)
        (r.strobes.getD 0 0xFFFF) (r.errs.getD 0 0))) ∧
    (∀ b w : Nat, bitN (s.get F.FAB_PORT_DOWN) p = false → portBusy s p = false →
      winner (s.fab.rr.getD p 6) (rs.filter (requestStands s p)) = some r → 1 ≤ reqTarget s r → reqTarget s r ≤ 5 → r.write = true → r.master ≠ 1 → r.strobes.getD 0 0xFFFF = 0xFFFF → r.data ≠ [] →
      fabWord r.addr.toNat = (b, w) →
      ∃ t, exec (.fabricGrant p rs) s = .next t ∧ kvGet quadDefault t.mem.words (b * 8192 + w) = r.data.getD 0 0 ∧
        (∀ k, k ≠ b * 8192 + w → kvGet quadDefault t.mem.words k = kvGet quadDefault s.mem.words k) ∧
        t.fab.out = s.fab.out.set r.master (some { port := p, req := r, done := 1 }) ∧ Changes [.regs, .mem, .fab] [R.MEM_INJ] s t) ∧
    (bitN (s.get F.FAB_PORT_DOWN) p = false → portBusy s p = false → winner (s.fab.rr.getD p 6) (rs.filter (requestStands s p)) = some r →
      reqTarget s r = 0 →
      ∃ t, exec (.fabricGrant p rs) s = .next t ∧ counted G.FAB_DECERR s t ∧ t.rd R.FAB_ELOG1 = r.addr ∧ t.get F.FAB_ELOG0_MASTER = r.master ∧
        t.get F.FAB_ELOG0_KIND = 0 ∧ t.fab.out = s.fab.out.set r.master none ∧
        t.fab.resp = s.fab.resp.set r.master (true, if r.write then [] else List.replicate (beatCount r) 0) ∧
        Changes [.regs, .fab] [R.FAB_ELOG0, R.FAB_ELOG1, G.FAB_DECERR.ptr, G.FAB_DECERR.cptr] s t) ∧
    (bitN (s.get F.FAB_PORT_DOWN) p = false → portBusy s p = true → exec (.fabricGrant p rs) s = .next s) ∧
    (bitN (s.get F.FAB_PORT_DOWN) p = true → rs.filter (requestStands s p) = [r] →
      ∃ t, exec (.fabricGrant p rs) s = .next t ∧ t.fab.out = s.fab.out.set r.master none ∧
        t.fab.resp = s.fab.resp.set r.master (true, if r.write then [] else List.replicate (beatCount r) 0) ∧ Changes [.fab] [] s t)

/-- Responses, timeouts and resets on the fabric (R492, R493, R495, R496, R498, R501, R508, R528): a completed read of a bank, a register or
the flash answers its master, but of the flash during one of its operations, which is an error; an error the beat met in transit is counted,
and an uncorrectable one is an error response; a burst of whole words into a bank stores the rest; no response in time is an error and takes
the port DOWN until a probe is answered; a master reset cuts a burst; without a transaction nothing happens; a read of FAB_ELOG0 latches
FAB_ELOG1. -/
def Obligations.FabricResponses : Prop :=
  ∀ s : State,
    (∀ (m : Fin 9) (x : FabTxn) (b w : Nat), s.sys.inReset = false → s.fab.out.getD m none = some x → x.req.write = false →
      x.req.beats = 1 → 1 ≤ reqTarget s x.req → reqTarget s x.req ≤ 5 → fabWord x.req.addr.toNat = (b, w) →
      errAt s (errKey b (physWord s b w)) = 0 →
      (∃ t, exec (.fabricResponse m [] []) s = .next t ∧ t.fab.out = s.fab.out.set m none ∧
        t.fab.resp = s.fab.resp.set m (false, [kvGet quadDefault s.mem.words (b * 8192 + w)]) ∧ Changes [.fab] [] s t) ∧
      (∀ e : BitVec 145, (checkWord e).1 = .ce1 ∨ (checkWord e).1 = .ce2 →
        ∃ t, exec (.fabricResponse m [] [e]) s = .next t ∧ t.fab.out = s.fab.out.set m none ∧
          t.fab.resp = s.fab.resp.set m (false, [kvGet quadDefault s.mem.words (b * 8192 + w)]) ∧ counted G.MEM_PATH_CE s t ∧
          t.get F.MEM_ELOG0_SRC = 3 ∧ t.get F.MEM_ELOG0_BANK = b ∧
          Changes [.regs, .fab] [R.MEM_ELOG0, R.MEM_ELOG1, G.MEM_PATH_CE.ptr, G.MEM_PATH_CE.cptr] s t) ∧
      ∀ e : BitVec 145, (checkWord e).1 = .ue →
        ∃ t, exec (.fabricResponse m [] [e]) s = .next t ∧ t.fab.resp = s.fab.resp.set m (true, [0]) ∧ counted G.MEM_PATH_UE s t ∧
          counted G.FAB_UE_RESP s t ∧ t.get F.FAB_ELOG0_KIND = 2 ∧ Only [.regs, .fab] s t) ∧
    (∀ (m : Fin 9) (x : FabTxn), s.sys.inReset = false → s.fab.out.getD m none = some x → x.req.write = false →
      (1 ≤ reqTarget s x.req → reqTarget s x.req ≤ 5 →
        (∀ i < beatCount x.req, errAt s (errKey (fabWord (x.req.addr.toNat + 16 * i)).1
          (physWord s (fabWord (x.req.addr.toNat + 16 * i)).1 (fabWord (x.req.addr.toNat + 16 * i)).2)) = 0) →
        ∃ t, exec (.fabricResponse m [] []) s = .next t ∧ t.fab.out = s.fab.out.set m none ∧
          t.fab.resp = s.fab.resp.set m (false, (List.range (beatCount x.req)).map fun i =>
            kvGet quadDefault s.mem.words (262144 + x.req.addr.toNat / 16 + i)) ∧ Changes [.fab] [] s t) ∧
      (∀ p : Nat, reqTarget s x.req = 13 → x.req.beats = 1 → p = x.req.addr.toNat % 0x10000 / 4 * 4 →
        ∃ t, exec (.fabricResponse m [] []) s = .next t ∧ t.fab.out = s.fab.out.set m none ∧
          t.fab.resp = s.fab.resp.set m (false,
            [BitVec.ofNat 128 ((regRead s (masterPath s x.req.master) p).rdata.toNat * 2 ^ (32 * (3 - p / 4 % 4)))]) ∧
          ∀ k, t.rd k = (regRead s (masterPath s x.req.master) p).rd k) ∧
      (∀ data : List Quad, reqTarget s x.req = 14 → flashBusy s = false →
        ∃ t, exec (.fabricResponse m data []) s = .next t ∧ t.fab.out = s.fab.out.set m none ∧
          t.fab.resp = s.fab.resp.set m (false, (List.range (beatCount x.req)).map fun i => data.getD i 0) ∧ Changes [.fab] [] s t) ∧
      (∀ data : List Quad, x.req.master = m → reqTarget s x.req = 14 → flashBusy s = true →
        ∃ t, exec (.fabricResponse m data []) s = .next t ∧ t.fab.out = s.fab.out.set m none ∧ counted G.BKG_FL_BUSY s t ∧
          t.fab.resp = s.fab.resp.set m (true, List.replicate (beatCount x.req) 0) ∧
          Changes [.regs, .fab] [G.BKG_FL_BUSY.ptr, G.BKG_FL_BUSY.cptr] s t)) ∧
    (∀ (m : Fin 9) (x : FabTxn), s.sys.inReset = false → s.fab.out.getD m none = some x → x.req.write = true → 1 ≤ reqTarget s x.req →
      reqTarget s x.req ≤ 5 → (∀ i < 8, x.req.strobes.getD i 0xFFFF = 0xFFFF) →
      ∃ t, exec (.fabricResponse m [] []) s = .next t ∧ t.fab.out = s.fab.out.set m none ∧ t.fab.resp = s.fab.resp.set m (false, []) ∧
        (∀ i < beatCount x.req, x.done ≤ i →
          kvGet quadDefault t.mem.words (262144 + x.req.addr.toNat / 16 + i) = x.req.data.getD i 0) ∧
        (∀ k, (∀ i < beatCount x.req, x.done ≤ i → k ≠ 262144 + x.req.addr.toNat / 16 + i) →
          kvGet quadDefault t.mem.words k = kvGet quadDefault s.mem.words k) ∧ Only [.regs, .mem, .fab] s t) ∧
    (∀ (m : Fin 9) (n : Nat) (data : List Quad) (errs : List (BitVec 145)), s.sys.inReset = false → s.fab.out.getD m none = none →
      exec (.fabricResponse m data errs) s = .next s ∧ exec (.masterReset m n) s = .next s) ∧
    (∀ (m : Fin 9) (x : FabTxn), s.sys.inReset = false → s.fab.out.getD m none = some x → x.req.write = true → beatCount x.req ≤ x.done →
      ∃ t, exec (.fabricResponse m [] []) s = .next t ∧ t.fab.out = s.fab.out.set m none ∧ t.fab.resp = s.fab.resp.set m (false, []) ∧
        Changes [.fab] [] s t) ∧
    (∀ (p : Fin 15) (x : FabTxn), s.sys.inReset = false →
      (s.fab.out.findSome? fun o => match o with | some x => if x.port = p.val then some x else none | none => none) = some x →
      bitN (s.get F.FAB_PORT_DOWN) p = false →
      ∃ t, exec (.fabricTimeout p) s = .next t ∧ counted G.FAB_TIMEOUT s t ∧ counted G.FAB_PORT_DOWN s t ∧
        bitN (t.get F.FAB_PORT_DOWN) p = true ∧ t.get F.FAB_ELOG0_KIND = 1 ∧ t.rd R.FAB_ELOG1 = x.req.addr ∧
        t.fab.out = s.fab.out.set x.req.master none ∧ (t.fab.resp.getD x.req.master (true, [])).1 = true ∧ Only [.regs, .fab] s t) ∧
    (∀ p : Fin 15, s.sys.inReset = false → bitN (s.get F.FAB_PORT_DOWN) p = true →
      ∃ t, exec (.portProbe [p]) s = .next t ∧ t.get F.FAB_PORT_DOWN = s.get F.FAB_PORT_DOWN - 2 ^ p.val ∧
        Changes [.regs] [F.FAB_PORT_DOWN.ptr] s t) ∧
    (∀ (m : Fin 9) (n : Nat) (x : FabTxn), s.sys.inReset = false → resettable m = true → s.fab.out.getD m none = some x →
      x.req.write = false →
      ∃ t, exec (.masterReset m n) s = .next t ∧ counted G.FAB_BURST_CUT s t ∧ t.get F.FAB_ELOG0_KIND = 3 ∧
        t.fab = { s.fab with out := s.fab.out.set m none } ∧
        Changes [.regs, .fab] [R.FAB_ELOG0, R.FAB_ELOG1, G.FAB_BURST_CUT.ptr, G.FAB_BURST_CUT.cptr] s t) ∧
    (readable s .hostPrimary R.FAB_ELOG0 = true →
      ∃ t, exec .fabElogRead s = .next t ∧ t.rdata = s.rd R.FAB_ELOG0 ∧ latchedWord t 0 R.FAB_ELOG1 = s.rd R.FAB_ELOG1 ∧
        Changes [.rdata, .vent] [] s t)

/-- The window of a ring (R473 to R478, R485, R488, R489): words 0 to 2 stage an entry and word 3 pushes it into an enabled CMD ring with the
next SEQ, or is refused, and from the fabric produces an entry of a TEL ring; a read of word 0 returns the head of a TEL ring to its owner, or
the UE mark of a lost one, and one of word 3 takes it out where word 0 fetched it; RNG_CFG changes SIZE of a ring that is disabled, a write
that changes it with EN = 1 or breaks the sum is refused, and clearing EN empties the ring. -/
def Obligations.RingWindow : Prop :=
  ∀ (s : State) (path : Path) (r : Ring),
    (∀ (w : Fin 3) (v : Word) (p : Nat), p = R.RNG_WDATA0 r + 4 * w → writable s (pathAt s path p) p = true →
      ∃ t, exec (.ringStageWrite path r w v) s = .next t ∧
        t.rings = s.rings.modify r (fun x =>
          if hostSide (pathAt s path p) then { x with stageH := x.stageH.set w v } else { x with stageF := x.stageF.set w v }) ∧
        Changes [.rings, .hst] [] s t) ∧
    (∀ (v : Word) (ws : List Word), writable s (pathAt s path (R.RNG_WDATA3 r)) (R.RNG_WDATA3 r) = true → r.val < 16 →
      s.get (F.RNG_CFG_EN r) = 1 → ringFull s r = false →
      ws = (if hostSide (pathAt s path (R.RNG_WDATA3 r)) then (s.ring r).stageH else (s.ring r).stageF).set 3 v →
      ∃ t, exec (.ringPush path r v) s = .next t ∧ ringCount t r = ringCount s r + 1 ∧
        t.get (F.RNG_WPTR_WSEQ r) = (s.get (F.RNG_WPTR_WSEQ r) + 1) % 65536 ∧
        t.get (F.RNG_WPTR_WIDX r) = (s.get (F.RNG_WPTR_WIDX r) + 1) % ringSize s r ∧
        (t.bank (ringKey r (s.get (F.RNG_WPTR_WIDX r)) 0)).toNat =
          s.get (F.RNG_WPTR_WSEQ r) * 65536 + (ws.getD 0 0).toNat % 65536 ∧
        (∀ j < 3, t.bank (ringKey r (s.get (F.RNG_WPTR_WIDX r)) (j + 1)) = ws.getD (j + 1) 0) ∧
        Only [.regs, .banks, .mem, .rings, .hst] s t) ∧
    (∀ v : Word, writable s (pathAt s path (R.RNG_WDATA3 r)) (R.RNG_WDATA3 r) = true → r.val < 16 →
      s.get (F.RNG_CFG_EN r) = 0 ∨ ringFull s r = true →
      ∃ t, exec (.ringPush path r v) s = .next t ∧ counted (G.RNG_PUSH_REFUSED r) s t ∧
        Changes [.regs, .rings, .hst] [(G.RNG_PUSH_REFUSED r).ptr, (G.RNG_PUSH_REFUSED r).cptr] s t) ∧
    (∀ v : Word, writable s (pathAt s path (R.RNG_WDATA3 r)) (R.RNG_WDATA3 r) = true → 16 ≤ r.val →
      hostSide (pathAt s path (R.RNG_WDATA3 r)) = true →
      ∃ t, exec (.ringPush path r v) s = .next t ∧ counted (G.RNG_PUSH_REFUSED r) s t ∧
        Changes [.regs, .rings, .hst] [(G.RNG_PUSH_REFUSED r).ptr, (G.RNG_PUSH_REFUSED r).cptr] s t) ∧
    (∀ (v : Word) (ws : List Word), writable s (pathAt s path (R.RNG_WDATA3 r)) (R.RNG_WDATA3 r) = true → 16 ≤ r.val →
      hostSide (pathAt s path (R.RNG_WDATA3 r)) = false → s.get (F.RNG_CFG_EN r) = 1 → ringFull s r = false → (s.ring r).lost = 0 →
      ws = ((s.ring r).stageF).set 3 v →
      ∃ t, exec (.ringPush path r v) s = .next t ∧ ringCount t r = ringCount s r + 1 ∧
        t.get (F.RNG_WPTR_WSEQ r) = (s.get (F.RNG_WPTR_WSEQ r) + 1) % 65536 ∧
        t.get (F.RNG_WPTR_WIDX r) = (s.get (F.RNG_WPTR_WIDX r) + 1) % ringSize s r ∧
        (t.bank (ringKey r (s.get (F.RNG_WPTR_WIDX r)) 0)).toNat =
          s.get (F.RNG_WPTR_WSEQ r) * 65536 + (ws.getD 0 0).toNat / 256 % 256 * 256 + (r.val - 16) ∧
        (∀ j < 3, t.bank (ringKey r (s.get (F.RNG_WPTR_WIDX r)) (j + 1)) = ws.getD (j + 1) 0) ∧
        Only [.regs, .banks, .mem, .rings, .hst] s t) ∧
    (readable s path (R.RNG_RDATA0 r) = true → 16 ≤ r.val → ownsRing s (hostSide path) r = true → ringCount s r ≠ 0 →
      (checkWord (errAt s (ringErrKey r (s.get (F.RNG_RPTR_RIDX r))))).1 ≠ .ue →
      ∃ t, exec (.ringFetch path r) s = .next t ∧ t.rdata = s.bank (ringKey r (s.get (F.RNG_RPTR_RIDX r)) 0) ∧
        (r.val < s.rings.length → (if hostSide path then (t.ring r).latchH else (t.ring r).latchF) =
          (List.range 4).map (fun w => s.bank (ringKey r (s.get (F.RNG_RPTR_RIDX r)) w))) ∧
        ringCount t r = ringCount s r ∧ Only [.regs, .rdata, .mem, .rings] s t) ∧
    (readable s path (R.RNG_RDATA0 r) = true → 16 ≤ r.val → ownsRing s (hostSide path) r = true → ringCount s r ≠ 0 →
      (checkWord (errAt s (ringErrKey r (s.get (F.RNG_RPTR_RIDX r))))).1 = .ue →
      ∃ t, exec (.ringFetch path r) s = .next t ∧ t.rdata.toNat = s.get (F.RNG_RPTR_RSEQ r) * 65536 + 0xFF * 256 + (r.val - 16) ∧
        counted (G.RNG_UE r) s t ∧ ringCount t r = ringCount s r ∧ Only [.regs, .rdata, .mem, .rings] s t) ∧
    (readable s path (R.RNG_RDATA0 r) = true → 16 ≤ r.val → ownsRing s (hostSide path) r = true → ringCount s r ≠ 0 →
      errAt s (ringErrKey r (s.get (F.RNG_RPTR_RIDX r))) = 0 →
      ∃ t, exec (.ringFetch path r) s = .next t ∧ t.rdata = s.bank (ringKey r (s.get (F.RNG_RPTR_RIDX r)) 0) ∧
        Changes [.rdata, .rings] [] s t) ∧
    (readable s path (R.RNG_RDATA0 r) = true → 16 ≤ r.val → ownsRing s (hostSide path) r = true → ringCount s r = 0 →
      ∃ t, exec (.ringFetch path r) s = .next t ∧ t.rdata = 0 ∧ counted (G.RNG_RD_EMPTY r) s t ∧
        Changes [.regs, .rdata, .rings] [(G.RNG_RD_EMPTY r).ptr, (G.RNG_RD_EMPTY r).cptr] s t) ∧
    (readable s path (R.RNG_RDATA0 r) = true → 16 ≤ r.val → ownsRing s (hostSide path) r = false →
      ∃ t, exec (.ringFetch path r) s = .next t ∧ t.rdata = 0 ∧ counted (G.RNG_NOT_OWNER r) s t ∧
        Changes [.regs, .rdata] [(G.RNG_NOT_OWNER r).ptr, (G.RNG_NOT_OWNER r).cptr] s t) ∧
    (readable s path (R.RNG_RDATA0 r) = true → r.val < 16 →
      ∃ t, exec (.ringFetch path r) s = .next t ∧ t.rdata = 0 ∧ Changes [.rdata] [] s t) ∧
    (readable s path (R.RNG_RDATA3 r) = true → 16 ≤ r.val → ownsRing s (hostSide path) r = true →
      (if hostSide path then (s.ring r).heldH else (s.ring r).heldF) = true → ringCount s r ≠ 0 → (s.ring r).lost = 0 →
      ∃ t, exec (.ringConsume path r) s = .next t ∧
        t.rdata = (if hostSide path then (s.ring r).latchH else (s.ring r).latchF).getD 3 0 ∧ ringCount t r = ringCount s r - 1 ∧
        t.get (F.RNG_RPTR_RIDX r) = (s.get (F.RNG_RPTR_RIDX r) + 1) % ringSize s r ∧
        Changes [.regs, .rdata, .rings] [R.RNG_RPTR r, R.RNG_STAT r] s t) ∧
    (readable s path (R.RNG_RDATA3 r) = true → r.val < 16 ∨ ownsRing s (hostSide path) r = false ∨
        (if hostSide path then (s.ring r).heldH else (s.ring r).heldF) = false →
      ∃ t, exec (.ringConsume path r) s = .next t ∧ t.rdata = ringLatched s (hostSide path) r 3 ∧ Changes [.rdata] [] s t) ∧
    (∀ v : Word, reached s (R.RNG_CFG r) = true →
      (s.get (F.RNG_CFG_EN r) = 1 ∧ sizeOfCode (v.toNat % 8) ≠ ringSize s r) ∨ 24576 < sizeSum s r (v.toNat % 8) →
      ∃ t, exec (.ringConfig r v) s = .next t ∧ counted (G.RNG_CFG_REFUSED r) s t ∧
        Changes [.regs, .hst] [(G.RNG_CFG_REFUSED r).ptr, (G.RNG_CFG_REFUSED r).cptr] s t) ∧
    (∀ v : Word, reached s (R.RNG_CFG r) = true → s.get (F.RNG_CFG_EN r) = 0 → sizeSum s r (v.toNat % 8) ≤ 24576 → v.toNat < 2 ^ 31 →
      ∃ t, exec (.ringConfig r v) s = .next t ∧ ringSize t r = sizeOfCode (v.toNat % 8) ∧ ringCount t r = 0 ∧
        t.get (F.RNG_WPTR_WIDX r) = 0 ∧ t.get (F.RNG_RPTR_RIDX r) = 0 ∧ Only [.regs, .heldU, .heldB, .rings, .hst] s t) ∧
    (∀ v : Word, reached s (R.RNG_CFG r) = true → s.get (F.RNG_CFG_EN r) = 0 → sizeSum s r (v.toNat % 8) ≤ 24576 → 2 ^ 31 ≤ v.toNat →
      (s.ring r).lost = 0 →
      ∃ t, exec (.ringConfig r v) s = .next t ∧ ringSize t r = sizeOfCode (v.toNat % 8) ∧ t.get (F.RNG_CFG_EN r) = 1 ∧
        ringCount t r = ringCount s r ∧ t.get (F.RNG_WPTR_WIDX r) = s.get (F.RNG_WPTR_WIDX r) ∧
        t.get (F.RNG_RPTR_RIDX r) = s.get (F.RNG_RPTR_RIDX r) ∧ Only [.regs, .heldU, .heldB, .hst] s t) ∧
    ∀ v : Word, reached s (R.RNG_CFG r) = true → s.get (F.RNG_CFG_EN r) = 1 → sizeOfCode (v.toNat % 8) = ringSize s r →
      sizeSum s r (v.toNat % 8) ≤ 24576 → v.toNat < 2 ^ 31 →
      ∃ t, exec (.ringConfig r v) s = .next t ∧ t.get (F.RNG_CFG_EN r) = 0 ∧ ringSize t r = ringSize s r ∧ ringCount t r = 0 ∧
        t.get (F.RNG_WPTR_WIDX r) = 0 ∧ t.get (F.RNG_RPTR_RIDX r) = 0 ∧ t.get (F.RNG_WPTR_WSEQ r) = s.get (F.RNG_WPTR_WSEQ r) ∧
        Only [.regs, .heldU, .heldB, .rings, .hst] s t

/-- Entries of the rings (R475, R479 to R483, R486, R487, R521): an eligible REGW, REGW2 or FENCE at the head of a CMD ring is taken at a
boundary, its writes are made in order, or it is rejected for its CH, a pointer or an uncorrectable error, and FENCE answers in the TEL ring;
a telemetry entry is stored with the next SEQ where its ring has space, behind a LOSS entry where entries were lost; it takes its SEQ and is
lost in an owner's full or disabled ring, and overwrites the oldest in a standby's full one; a LOOP window that is due is collected, or late
with the ring port DOWN. -/
def Obligations.RingEntries : Prop :=
  ∀ (s : State) (c : Chan), s.sys.inReset = false →
    (∀ (ty : Nat) (ws : List Word), 0 < cmdEligible s c → cmdHeadType s c = ty → errAt s (ringErrKey c (s.get (F.RNG_RPTR_RIDX c))) = 0 →
      ws = (List.range 4).map (fun w => s.bank (ringKey c (s.get (F.RNG_RPTR_RIDX c)) w)) → (ws.getD 0 0).toNat % 256 = c →
      (ty = 1 → cmdPointer c ((ws.getD 1 0).toNat / 65536) = true →
        ∃ t s1, exec (.regw c) s = .next t ∧ ringCount s1 c = ringCount s c - 1 ∧ Only [.regs, .rings] s s1 ∧
          ∀ p, t.rd p = (regWrites s1 (.cmdRing c) [((ws.getD 1 0).toNat / 65536,
            BitVec.ofNat 32 ((ws.getD 1 0).toNat % 65536 * 65536 + (ws.getD 2 0).toNat / 65536))]).rd p) ∧
      (ty = 2 → cmdPointer c ((ws.getD 1 0).toNat / 65536) = true → cmdPointer c ((ws.getD 2 0).toNat % 65536) = true →
        ∃ t s1, exec (.regw2 c) s = .next t ∧ ringCount s1 c = ringCount s c - 1 ∧ Only [.regs, .rings] s s1 ∧
          ∀ p, t.rd p = (regWrites s1 (.cmdRing c) [((ws.getD 1 0).toNat / 65536,
            BitVec.ofNat 32 ((ws.getD 1 0).toNat % 65536 * 65536 + (ws.getD 2 0).toNat / 65536)),
            ((ws.getD 2 0).toNat % 65536, ws.getD 3 0)]).rd p) ∧
      (ty = 1 → cmdPointer c ((ws.getD 1 0).toNat / 65536) = false →
        ∃ t, exec (.regw c) s = .next t ∧ counted (G.RNG_CMD_REJ c) s t ∧ ringCount t c = ringCount s c - 1) ∧
      (ty = 2 → cmdPointer c ((ws.getD 1 0).toNat / 65536) = false ∨ cmdPointer c ((ws.getD 2 0).toNat % 65536) = false →
        ∃ t, exec (.regw2 c) s = .next t ∧ counted (G.RNG_CMD_REJ c) s t ∧ ringCount t c = ringCount s c - 1) ∧
      (ty = 3 → s.get (F.RNG_CFG_EN (16 + c)) = 1 → ringFull s (16 + c) = false → (s.ring (16 + c)).lost = 0 →
        ∃ t, exec (.fence c) s = .next t ∧ ringCount t c = ringCount s c - 1 ∧ ringCount t (16 + c) = ringCount s (16 + c) + 1 ∧
          (t.bank (ringKey (16 + c) (s.get (F.RNG_WPTR_WIDX (16 + c))) 0)).toNat =
            s.get (F.RNG_WPTR_WSEQ (16 + c)) * 65536 + 0x24 * 256 + c ∧
          (t.bank (ringKey (16 + c) (s.get (F.RNG_WPTR_WIDX (16 + c))) 1)).toNat = s.get (F.RNG_RPTR_RSEQ c) * 65536)) ∧
    (∀ (ty : Nat) (i : Instr), 0 < cmdEligible s c → cmdHeadType s c = ty →
      (ty = 1 ∧ i = .regw c) ∨ (ty = 2 ∧ i = .regw2 c) ∨ (ty = 3 ∧ i = .fence c) →
      (errAt s (ringErrKey c (s.get (F.RNG_RPTR_RIDX c))) = 0 → (s.bank (ringKey c (s.get (F.RNG_RPTR_RIDX c)) 0)).toNat % 256 ≠ c →
        ∃ t, exec i s = .next t ∧ counted (G.RNG_CMD_REJ c) s t ∧ ringCount t c = ringCount s c - 1) ∧
      ((checkWord (errAt s (ringErrKey c (s.get (F.RNG_RPTR_RIDX c))))).1 = .ue →
        ∃ t, exec i s = .next t ∧ counted (G.RNG_CMD_REJ c) s t ∧ counted (G.RNG_UE c) s t ∧ ringCount t c = ringCount s c - 1)) ∧
    (cmdEligible s c = 0 → exec (.regw c) s = .next s ∧ exec (.regw2 c) s = .next s ∧ exec (.fence c) s = .next s) ∧
    (∀ (ty : Byte) (ws : List Word), s.get (F.RNG_CFG_EN (16 + c)) = 1 → ringFull s (16 + c) = false → (s.ring (16 + c)).lost = 0 →
      ∃ t, exec (.telEntryProduce c ty ws) s = .next t ∧ ringCount t (16 + c) = ringCount s (16 + c) + 1 ∧
        t.get (F.RNG_WPTR_WSEQ (16 + c)) = (s.get (F.RNG_WPTR_WSEQ (16 + c)) + 1) % 65536 ∧
        (t.bank (ringKey (16 + c) (s.get (F.RNG_WPTR_WIDX (16 + c))) 0)).toNat =
          s.get (F.RNG_WPTR_WSEQ (16 + c)) * 65536 + ty.toNat * 256 + c ∧
        (∀ j < 3, t.bank (ringKey (16 + c) (s.get (F.RNG_WPTR_WIDX (16 + c))) (j + 1)) = ws.getD j 0) ∧
        Only [.regs, .banks, .mem] s t) ∧
    (∀ (ty : Byte) (ws : List Word), s.get (F.RNG_CFG_EN (16 + c)) = 1 → (s.ring (16 + c)).lost ≠ 0 →
      ringCount s (16 + c) + 1 < ringSize s (16 + c) →
      ∃ t, exec (.telEntryProduce c ty ws) s = .next t ∧ ringCount t (16 + c) = ringCount s (16 + c) + 2 ∧ (t.ring (16 + c)).lost = 0 ∧
        (t.bank (ringKey (16 + c) (s.get (F.RNG_WPTR_WIDX (16 + c))) 0)).toNat = s.get (F.RNG_WPTR_WSEQ (16 + c)) * 65536 + 0x26 * 256 + c ∧
        t.get (F.RNG_WPTR_WSEQ (16 + c)) = (s.get (F.RNG_WPTR_WSEQ (16 + c)) + 2) % 65536 ∧
        Only [.regs, .banks, .conds, .mem, .rings] s t) ∧
    (∀ (ty : Byte) (ws : List Word), s.get (F.RNG_CFG_EN (16 + c)) = 1 → ringFull s (16 + c) = true → s.pins.own = false →
      ∃ t, exec (.telEntryProduce c ty ws) s = .next t ∧ ringCount t (16 + c) = ringCount s (16 + c) ∧
        t.get (F.RNG_RPTR_RIDX (16 + c)) = (s.get (F.RNG_RPTR_RIDX (16 + c)) + 1) % ringSize s (16 + c) ∧
        t.get (F.RNG_WPTR_WSEQ (16 + c)) = (s.get (F.RNG_WPTR_WSEQ (16 + c)) + 1) % 65536 ∧
        t.get (F.RNG_LOST_LOST (16 + c)) = s.get (F.RNG_LOST_LOST (16 + c)) ∧ Only [.regs, .banks, .mem] s t) ∧
    (∀ (ty : Byte) (ws : List Word), s.get (F.RNG_CFG_EN (16 + c)) = 0 ∨ ringFull s (16 + c) = true → s.pins.own = true →
      ∃ t, exec (.telEntryProduce c ty ws) s = .next t ∧ ringCount t (16 + c) = ringCount s (16 + c) ∧
        t.get (F.RNG_WPTR_WSEQ (16 + c)) = (s.get (F.RNG_WPTR_WSEQ (16 + c)) + 1) % 65536 ∧
        t.get (F.RNG_LOST_LOST (16 + c)) = (s.get (F.RNG_LOST_LOST (16 + c)) + 1) % 65536 ∧ t.banks = s.banks ∧
        Only [.regs, .conds, .rings] s t) ∧
    (s.bkg.telDue = false → exec .telemetryCollect s = .next s) ∧
    (s.bkg.telDue = true → bitN (s.get F.FAB_PORT_DOWN) 3 = true →
      exec .telemetryCollect s = .next s) ∧
    (s.bkg.telDue = true → bitN (s.get F.FAB_PORT_DOWN) 3 = false →
      ∃ t, exec .telemetryCollect s = .next t ∧ t.bkg = { s.bkg with telDue := false } ∧
        Only [.regs, .banks, .conds, .mem, .bkg, .rings] s t)

/-- Errors in memory, scrubbing and spare rows (R503, R506, R507, R509, R513 to R517, R529, R575): a correction is written back once; a scrub step reads the
next row, counts and queues what it finds, and marks an unused spare row in error BAD; a candidate takes the lowest free spare row in place
of a scrub, and its copy ends with the map entry, an event and a record. -/
def Obligations.MemoryCorrection : Prop :=
  ∀ s : State, s.sys.inReset = false →
    (∀ b w k : Nat, b < 48 → k = errKey b (physWord s b w) →
      (s.mem.back.contains k = true →
        ∃ t, exec (.ceWriteback b w) s = .next t ∧ errAt t k = errAt s k ^^^ (checkWord (errAt s k)).2 ∧
          (∀ i < 145, errAt s k = BitVec.ofNat 145 (2 ^ i) → errAt t k = 0) ∧ (∀ j, j ≠ k → errAt t j = errAt s j) ∧
          t.mem.back = s.mem.back.filter (· != k) ∧ Changes [.mem] [] s t) ∧
      (s.mem.back.contains k = false → exec (.ceWriteback b w) s = .next s)) ∧
    (0 < s.bkg.scrubDue → s.get F.BKG_CFG_SCRUB_EN = 1 → s.mem.errs = [] → (∀ b < 48, (s.bankSt b).cand = []) →
      ∃ t, exec (.scrubStep []) s = .next t ∧
        t.mem = { s.mem with
          scrubRow := (s.mem.scrubRow + 1) % 520
          passStart := if s.mem.scrubRow = 0 then s.time.block else s.mem.passStart } ∧
        t.bkg = { s.bkg with scrubDue := s.bkg.scrubDue - 1 } ∧
        (s.mem.scrubRow = 519 → t.get F.BKG_SCRUB_SEQ = nextSeq1 (s.get F.BKG_SCRUB_SEQ)) ∧
        Changes [.regs, .mem, .bkg] [F.BKG_SCRUB_SEQ.ptr] s t) ∧
    (∀ b w i : Nat, 0 < s.bkg.scrubDue → s.get F.BKG_CFG_SCRUB_EN = 1 → s.mem.errs = [] → (∀ q < 48, (s.bankSt q).cand = []) →
      b < 48 → w < 8192 → w / 16 = s.mem.scrubRow → i < 145 → (s.bankSt b).repair = none → spareFor s b (w / 16) = none →
      ∃ t, exec (.scrubStep [(b, w, BitVec.ofNat 145 (2 ^ i))]) s = .next t ∧ counted G.MEM_CE s t ∧
        t.mem.back.contains (errKey b w) = true ∧ t.get F.MEM_ELOG0_SRC = 1 ∧ t.get F.MEM_ELOG0_BANK = b ∧
        t.get F.MEM_ELOG0_KIND = 0 ∧ Only [.regs, .mem, .bkg] s t) ∧
    (∀ b k w : Nat, 0 < s.bkg.scrubDue → s.get F.BKG_CFG_SCRUB_EN = 1 → s.mem.errs = [] → (s.bankSt b).cand = [] → b < 48 →
      b < s.mem.banks.length → k < 8 → k < (s.bankSt b).spares.length → s.mem.scrubRow = 512 + k → w / 16 = 512 + k →
      (s.bankSt b).repair = none → (s.bankSt b).spares.getD k (none, true) = (none, false) →
      ∃ t, exec (.scrubStep [(b, w, 1)]) s = .next t ∧ (t.bankSt b).spares = (s.bankSt b).spares.set k (none, true) ∧
        Only [.regs, .mem, .bkg] s t) ∧
    (∀ b row reason : Nat, 0 < s.bkg.scrubDue → s.get F.BKG_CFG_SCRUB_EN = 1 → s.mem.errs = [] → b < 48 → b < s.mem.banks.length →
      (s.bankSt b).cand = [(row, reason)] → (s.bankSt b).repair = none → (∀ q < 48, q ≠ b → (s.bankSt q).cand = []) →
      (∀ k : Nat, freeSpare s b = some k →
        ∃ t, exec (.scrubStep []) s = .next t ∧ t.bankSt b = { s.bankSt b with cand := [], repair := some (k, row, reason) } ∧
          Only [.regs, .mem, .bkg] s t) ∧
      (freeSpare s b = none →
        ∃ t, exec (.scrubStep []) s = .next t ∧ t.bankSt b = { s.bankSt b with cand := [], degraded := true } ∧
          counted G.MEM_NO_SPARE_ROW s t ∧ Only [.regs, .mem, .bkg] s t)) ∧
    (s.get F.BKG_CFG_SCRUB_EN = 0 ∨ s.bkg.scrubDue = 0 → exec (.scrubStep []) s = .next s) ∧
    (∀ b k row reason : Nat, b < s.mem.banks.length → (s.bankSt b).repair = some (k, row, reason) → row < 512 →
      ∃ t, exec (.repairCopy b) s = .next t ∧ counted G.MEM_REPAIR s t ∧ (t.bankSt b).repair = none ∧
        (t.bankSt b).spares = (s.bankSt b).spares.set k (some row, false) ∧
        (∀ i < 16, errAt s (errKey b (row * 16 + i)) = 0 → errAt t (errKey b ((512 + k) * 16 + i)) = 0) ∧
        (∀ i < 16, errAt s (errKey b (row * 16 + i)) = poison → errAt t (errKey b ((512 + k) * 16 + i)) = poison) ∧
        (s.get F.BKG_CFG_LOG_EN = 1 → s.bkg.queue.length < 16 →
          t.bkg.queue = s.bkg.queue ++ [repairRecord s b k row reason]) ∧ Only [.regs, .mem, .bkg] s t) ∧
    (∀ v : Word, reached s R.MEM_INJ = true → s.get F.SYS_LC_STATE = 1 ∨ s.get F.SYS_LC_STATE = 3 →
      ∃ t, exec (.errorInjectArm v) s = .next t ∧ t.get F.MEM_INJ_NBITS = v.toNat / 2 ^ 28 % 4 ∧
        t.get F.MEM_INJ_BANK = v.toNat / 2 ^ 16 % 128 ∧ (v.toNat / 2 ^ 31 = 1 → t.get F.MEM_INJ_ARM = 1) ∧
        Changes [.regs, .hst] [R.MEM_INJ] s t) ∧
    (∀ v : Word, s.get F.SYS_LC_STATE ≠ 1 → s.get F.SYS_LC_STATE ≠ 3 →
      ∃ t, exec (.errorInjectArm v) s = .next t ∧ Changes [.hst] [] s t) ∧
    (readable s .hostPrimary R.MEM_ELOG0 = true →
      ∃ t, exec .memElogRead s = .next t ∧ t.rdata = s.rd R.MEM_ELOG0 ∧ latchedWord t 0 R.MEM_ELOG1 = s.rd R.MEM_ELOG1 ∧
        Changes [.rdata, .vent] [] s t) ∧
    (readable s .hostPrimary R.BKG_LOG0 = true →
      ∃ t, exec .bkgLogRead s = .next t ∧ t.rdata = s.rd R.BKG_LOG0 ∧ latchedWord t 0 R.BKG_LOG1 = s.rd R.BKG_LOG1 ∧
        latchedWord t 0 R.BKG_LOG2 = s.rd R.BKG_LOG2 ∧ Changes [.rdata, .vent] [] s t)

/-- The flash log (R523 to R526, R528, R529): a STATE record that is due, or a queued record at its boundary, is placed behind the records of the newest sector,
or in the next sector where it does not fit; a record that ends well resets the count of failures, one that does not is counted, and the
third failure in a row stops the log; event records of the same boundary stand before the STATE record. -/
def Obligations.FlashLog : Prop :=
  ∀ s : State, s.sys.inReset = false →
    (0 < s.bkg.stateDue → s.bkg.eventsDue = false → s.get F.BKG_CFG_LOG_EN = 1 → s.bkg.stopped = false → s.bkg.valid = true →
      s.bkg.newSector = false → s.bkg.next + 160 ≤ 4096 →
      ∃ t, exec .logStateRecord s = .next t ∧
        t.bkg = { s.bkg with
          stateDue := s.bkg.stateDue - 1
          ops := s.bkg.ops ++ [.program (s.get F.BKG_LOG0_SECT * 4096 + s.bkg.next) (recordBytes s.bkg.rseq (stateRecord s)) true]
          next := s.bkg.next + 160
          rseq := (s.bkg.rseq + 1) % 2 ^ 32 } ∧
        t.get F.BKG_LOG0_FREE = 4096 - (s.bkg.next + 160) ∧ t.get F.QSPI_STAT_BUSY = 1 ∧
        Changes [.regs, .bkg] [R.BKG_LOG0, R.QSPI_STAT] s t) ∧
    (∀ n : Nat, 0 < s.bkg.stateDue → s.bkg.eventsDue = false → s.get F.BKG_CFG_LOG_EN = 1 → s.bkg.stopped = false → s.bkg.valid = true →
      4096 < s.bkg.next + 160 → n = (s.get F.BKG_LOG0_SECT + 1) % max (s.get F.BKG_LOG0_NSECT) 1 →
      ∃ t h, exec .logStateRecord s = .next t ∧ t.get F.BKG_LOG0_SECT = n ∧
        (t.rd R.BKG_LOG1).toNat = ((s.rd R.BKG_LOG1).toNat + 1) % 2 ^ 32 ∧
        (t.bkg.ops.drop s.bkg.ops.length).take 2 = [.erase n, .program (n * 4096) h false] ∧ h.length = 32 ∧
        t.bkg.erases = s.bkg.erases.set n (s.bkg.erases.getD n 0 + 1) ∧
        Changes [.regs, .bkg] [R.BKG_LOG0, R.BKG_LOG1, R.BKG_LOG2, R.QSPI_STAT] s t) ∧
    (s.bkg.stateDue = 0 ∨ s.get F.BKG_CFG_LOG_EN = 0 → exec .logStateRecord s = .next s) ∧
    (∀ r : LogRec, 0 < s.bkg.stateDue → s.bkg.eventsDue = true → s.get F.BKG_CFG_LOG_EN = 1 → s.bkg.queue = [r] → r.len = 2 →
      s.bkg.stopped = false → s.bkg.valid = true → s.bkg.newSector = false → s.bkg.next + 192 ≤ 4096 →
      ∃ t, exec .logStateRecord s = .next t ∧ t.bkg.queue = [] ∧ t.bkg.eventsDue = false ∧ t.bkg.next = s.bkg.next + 192 ∧
        t.bkg.ops = s.bkg.ops ++
          [.program (s.get F.BKG_LOG0_SECT * 4096 + s.bkg.next) (recordBytes s.bkg.rseq r) true,
            .program (s.get F.BKG_LOG0_SECT * 4096 + s.bkg.next + 32) (recordBytes ((s.bkg.rseq + 1) % 2 ^ 32) (stateRecord s)) true] ∧
        Changes [.regs, .bkg] [R.BKG_LOG0, R.QSPI_STAT] s t) ∧
    (∀ r : LogRec, s.bkg.eventsDue = true → s.get F.BKG_CFG_LOG_EN = 1 → s.bkg.queue = [r] → r.len = 2 → s.bkg.stopped = false →
      s.bkg.valid = true → s.bkg.newSector = false → s.bkg.next + 32 ≤ 4096 →
      ∃ t, exec .logEventRecords s = .next t ∧
        t.bkg = { s.bkg with
          eventsDue := false
          queue := []
          ops := s.bkg.ops ++ [.program (s.get F.BKG_LOG0_SECT * 4096 + s.bkg.next) (recordBytes s.bkg.rseq r) true]
          next := s.bkg.next + 32
          rseq := (s.bkg.rseq + 1) % 2 ^ 32 } ∧ Changes [.regs, .bkg] [R.BKG_LOG0, R.QSPI_STAT] s t) ∧
    (reached s R.BKG_CTRL = true →
      ∃ t, exec .logFlush s = .next t ∧ t.get F.BKG_CTRL_FLUSH = 1 ∧ t.bkg = { s.bkg with flush := true } ∧
        Changes [.regs, .bkg, .hst] [R.BKG_CTRL] s t) ∧
    (∀ (n : Nat) (bs : List Byte) (rest : List FlashOp), s.bkg.qspi = none → s.bkg.ops = .program n bs true :: rest →
      (bs.headD 0).toNat ≠ 4 →
      (∃ t, exec (.flashOpDone true) s = .next t ∧ t.bkg = { s.bkg with ops := rest, fails := 0 } ∧
        ((bs.headD 0).toNat = 1 → s.bkg.flush = false → s.bkg.stateDue = 0 → t.get F.BKG_CTRL_FLUSH = 0) ∧ Changes [.regs, .bkg] [R.BKG_CTRL, R.QSPI_STAT] s t) ∧
      (s.bkg.fails < 2 →
        ∃ t, exec (.flashOpDone false) s = .next t ∧ counted G.BKG_LOG_FAIL s t ∧ t.bkg.fails = s.bkg.fails + 1 ∧
          t.bkg.stopped = s.bkg.stopped ∧ (∃ m q, t.bkg.ops = .erase m :: q) ∧ Only [.regs, .bkg] s t) ∧
      (2 ≤ s.bkg.fails →
        ∃ t, exec (.flashOpDone false) s = .next t ∧ counted G.BKG_LOG_FAIL s t ∧ t.bkg.stopped = true ∧ t.bkg.ops = [] ∧
          (s.sys.lcBits = 0 → t.sys = s.sys) ∧ Only [.regs, .sys, .bkg] s t)) ∧
    (∀ (o : FlashOp) (ok : Bool), s.bkg.qspi = some o →
      ∃ t, exec (.flashOpDone ok) s = .next t ∧ t.bkg = { s.bkg with qspi := none } ∧ t.get F.QSPI_CTRL_GO = 0 ∧
        (s.bkg.ops = [] → t.get F.QSPI_STAT_BUSY = 0) ∧ Changes [.regs, .bkg] [R.QSPI_CTRL, R.QSPI_STAT] s t)

/-- The flash controller (R530, R531, R544): a program, an erase or a read of the status register starts, or is refused with the first reason
of R544 that holds. -/
def Obligations.FlashController : Prop :=
  ∀ (s : State) (a : Nat), s.sys.inReset = false → a = s.get F.QSPI_ADDR_ADDR →
    (reached s R.QSPI_CTRL = true →
      (s.bkg.qspi = none → s.bkg.ops = [] → protectedAddr s a = false → a < flashBytes s →
        (a % 256 = 0 →
          ∃ t, exec .qspiProgram s = .next t ∧ t.bkg = { s.bkg with qspi := some (.program a (qspiBuffer s) false) } ∧
            t.get F.QSPI_STAT_BUSY = 1 ∧ t.get F.QSPI_STAT_REASON = 0 ∧ t.get F.QSPI_CTRL_GO = 1 ∧
            Changes [.regs, .bkg, .hst] [R.QSPI_CTRL, R.QSPI_STAT] s t) ∧
        (a % 4096 = 0 →
          ∃ t, exec .qspiErase s = .next t ∧ t.bkg = { s.bkg with qspi := some (.erase (a / 4096)) } ∧
            t.get F.QSPI_STAT_BUSY = 1 ∧ t.get F.QSPI_STAT_REASON = 0 ∧ t.get F.QSPI_CTRL_GO = 1 ∧
            Changes [.regs, .bkg, .hst] [R.QSPI_CTRL, R.QSPI_STAT] s t)) ∧
      (∀ sr1 : Byte, s.bkg.qspi = none → s.bkg.ops = [] →
        ∃ t, exec (.qspiReadStatus sr1) s = .next t ∧ t.get F.QSPI_STAT_SR1 = sr1.toNat ∧ t.get F.QSPI_STAT_REASON = 0 ∧
          t.get F.QSPI_CTRL_GO = 0 ∧ Changes [.regs, .hst] [R.QSPI_CTRL, R.QSPI_STAT] s t) ∧
      (∀ (c : Instr) (reason : Nat), (c = .qspiProgram ∨ c = .qspiErase) →
        (reason = 1 ∧ (s.bkg.qspi ≠ none ∨ s.bkg.ops ≠ [])) ∨
        (reason = 2 ∧ s.bkg.qspi = none ∧ s.bkg.ops = [] ∧
          ((s.get F.IMG_STAT_SLOT = 1 ∧ a < 0x400000) ∨ (0x800000 ≤ a ∧ a < 0x808000))) ∨
        (reason = 3 ∧ s.bkg.qspi = none ∧ s.bkg.ops = [] ∧ protectedAddr s a = false ∧ a % 256 ≠ 0) ∨
        (reason = 4 ∧ s.bkg.qspi = none ∧ s.bkg.ops = [] ∧ protectedAddr s a = false ∧ a % 4096 = 0 ∧ flashBytes s ≤ a) →
        ∃ t, exec c s = .next t ∧ counted G.IMG_QSPI_REFUSED s t ∧ t.get F.QSPI_STAT_REASON = reason ∧
          Changes [.regs, .hst] [R.QSPI_CTRL, R.QSPI_STAT, G.IMG_QSPI_REFUSED.ptr, G.IMG_QSPI_REFUSED.cptr] s t))

/-- The program buffer (R549): every word of the QSPI_BDATA window is an alias of buffer word WPTR, which advances by one after each whole write
or read and wraps from 63 to 0; a write while BUSY is 1 is ignored and counts one QSPI_REFUSED event with REASON 1. -/
def Obligations.ProgramBuffer : Prop :=
  ∀ (s : State) (n : Nat), s.sys.inReset = false → n = s.get F.QSPI_BPTR_WPTR →
    (∀ (c : Instr) (v : Word), (c = .qspiBufferWrite v ∧ reached s (aliasPtr s R.QSPI_BDATA) = true) ∨
        (∃ (path : Path) (j : Nat), j < 8 ∧ c = .registerWrite path (BitVec.ofNat 16 (R.QSPI_BDATA + 4 * j)) v ∧
          writable s path (R.QSPI_BDATA + 4 * j) = true) →
      (s.get F.QSPI_STAT_BUSY = 0 →
        ∃ t, exec c s = .next t ∧ t.bank (qspiKey n) = v ∧ (∀ k, k ≠ qspiKey n → t.bank k = s.bank k) ∧
          t.get F.QSPI_BPTR_WPTR = (if n = 63 then 0 else n + 1) ∧ Changes [.regs, .banks, .hst] [F.QSPI_BPTR_WPTR.ptr] s t) ∧
      (s.get F.QSPI_STAT_BUSY = 1 →
        ∃ t, exec c s = .next t ∧ counted G.IMG_QSPI_REFUSED s t ∧ t.get F.QSPI_STAT_REASON = 1 ∧
          Changes [.regs, .hst] [R.QSPI_CTRL, R.QSPI_STAT, G.IMG_QSPI_REFUSED.ptr, G.IMG_QSPI_REFUSED.cptr] s t)) ∧
    (readable s .hostPrimary R.QSPI_BDATA = true →
      ∃ t, exec .qspiBufferRead s = .next t ∧ t.rdata = s.bank (qspiKey n) ∧ t.get F.QSPI_BPTR_WPTR = (if n = 63 then 0 else n + 1) ∧
        Changes [.regs, .rdata] [F.QSPI_BPTR_WPTR.ptr] s t) ∧
    ∀ (path : Path) (j : Nat), j < 8 → readable s path (R.QSPI_BDATA + 4 * j) = true →
      (regRead s path (R.QSPI_BDATA + 4 * j)).rdata = s.bank (qspiKey n) ∧
      (regRead s path (R.QSPI_BDATA + 4 * j)).get F.QSPI_BPTR_WPTR = (if n = 63 then 0 else n + 1)

/-- Resets (R39, R375, R498, R550 to R554, R575, R638): every source holds the device in reset with every register at its reset value and every gate ball low,
and its cause is shown after the release, at which the straps are sampled and the wipe starts; the watchdog of the management core
resets nothing else; in reset no command but the sources and the release has an effect. -/
def Obligations.Resets : Prop :=
  ∀ s : State,
    (∀ (c : Instr) (bit : Nat), (c = .powerUp ∧ bit = 1) ∨ (c = .supplyFall ∧ bit = 2) ∨ (c = .resetPin true ∧ bit = 4) ∨
        (c = .softReset ∧ bit = 8 ∧ s.sys.inReset = false ∧ writable s .mgmtCore R.SYS_CTRL = true ∧ headNames s R.SYS_CTRL = false) ∨
        (c = .debugReset ∧ bit = 32 ∧ s.sys.inReset = false ∧ debugAccess s = true) →
      ∃ t, exec c s = .next t ∧ t.sys.inReset = true ∧
        t.sys.cause = ((if s.sys.inReset then s.sys.cause else 0) ||| bit) ∧ gatesLow t = true ∧ readyBall t = false ∧
        t.pins.own = false ∧ (∀ p, t.rd p = resetWord p) ∧ t.sys.fuses = s.sys.fuses ∧ t.sys.blown = s.sys.blown ∧
        t.pending = s.pending) ∧
    (exec (.resetPin false) s = .next s) ∧
    (s.sys.inReset = false → headNames s R.SYS_CTRL = true → hostSide s.hst.commitPath = true →
      writable s s.hst.commitPath R.SYS_CTRL = true →
      ∃ t, exec .softReset s = .next t ∧ t.hst = { s.hst with commit := s.hst.commit.tail, resetDue := true } ∧ Changes [.hst] [] s t) ∧
    (s.sys.inReset = false → debugAccess s = false → exec .debugReset s = .next s) ∧
    (s.sys.inReset = false → s.fab.out.getD 0 none = none →
      ∃ t, exec .mgmtWatchdogReset s = .next t ∧ t.sys = { s.sys with mgmtStopped := false } ∧ Changes [.sys] [] s t) ∧
    (∀ x : Straps, s.sys.inReset = true →
      ∃ t, exec (.resetRelease x) s = .next t ∧ t.sys.inReset = false ∧ bstate t = bsWipe ∧
        (t.rd R.SYS_RST).toNat = s.sys.cause % 2 ^ 32 ∧ t.get F.SYS_BOOT_BOOTSEL = x.bootsel.toNat ∧
        t.get F.HST_STAT_ADDR = x.addr.toNat ∧ t.get F.TWN_STAT_ROLE = (if x.role then 1 else 0) ∧
        t.get F.STR_STAT_MGR = (if x.mgr then 1 else 0) ∧ lcState t = lcCode s.sys.blown.lc ∧
        t.get F.SYS_LC_KEY0 = (if s.sys.blown.key0.isSome then 1 else 0) ∧ t.sys.fuses = s.sys.blown ∧
        OnlyRegs [R.SYS_RST, R.SYS_BOOT, R.SYS_LC, R.SYS_DEVNUM_H, R.SYS_DEVNUM_L, R.HST_STAT, R.TWN_STAT, R.STR_STAT] State.reset t ∧
        Only [.regs, .sys, .pending, .free] State.reset t ∧ t.pending = s.pending) ∧
    (∀ x : Straps, s.sys.inReset = false → exec (.resetRelease x) s = .next s) ∧
    ∀ c : Instr, s.sys.inReset = true → c ≠ .powerUp → c ≠ .supplyFall → c ≠ .resetPin true → (∀ x, c ≠ .resetRelease x) →
      exec c s = .next s

/-- The boot sequence (R510, R511, R527, R531, R537 to R543, R555, R558, R559, R561, R563): the wipe records its time and repairs rows that do not read back;
the scan shows why a slot fails, or leads on to loading; a candidate that fails is abandoned, one that loads starts the processors or waits
for the debugger; after 1 s without readiness FW_TMO counts and the limits lock. -/
def Obligations.BootSequence : Prop :=
  ∀ s : State, s.sys.inReset = false →
    (∀ us : Nat, bstate s = bsWipe → us < 65536 →
      ∃ t, exec (.wipeComplete us []) s = .next t ∧ t.get F.MEM_WIPE_US = us ∧
        bstate t = (if lcState s = lcRetired then bsRetired else bsScan) ∧ Changes [.regs, .free] [F.MEM_WIPE_US.ptr, R.SYS_BOOT] s t) ∧
    (∀ us b w k : Nat, bstate s = bsWipe → b < 48 → b < s.mem.banks.length → w < 8192 → rowReplaced s b (w / 16) = false →
      freeSpare s b = some k → lcState s ≠ lcRetired →
      ∃ t, exec (.wipeComplete us [(b, w)]) s = .next t ∧ counted G.MEM_VERIFY s t ∧ counted G.MEM_REPAIR s t ∧
        (t.bankSt b).spares = (s.bankSt b).spares.set k (some (w / 16), false) ∧ Only [.regs, .mem, .bkg] s t) ∧
    (∀ us p : Nat, bstate s = bsWipe → p < 5 →
      ∃ t, exec (.wipeComplete us [(64 + p, 0)]) s = .next t ∧ bitN (t.get F.MB_CORE_RETIRED) p = true ∧ counted G.MEM_VERIFY s t) ∧
    (∀ (id : BitVec 24) (sectors : List (List Byte)) (a b : List Byte), bstate s = bsScan →
      (bootSel s = 1 → ∃ t, exec (.scanComplete id sectors a b) s = .next t ∧ bstate t = bsRecovery ∧ t.get F.QSPI_ID_ID = id.toNat) ∧
      (bootSel s ≠ 1 → idOk id.toNat = false →
        ∃ t, exec (.scanComplete id sectors a b) s = .next t ∧ bstate t = bsRecovery ∧ t.get F.IMG_STAT_RSN_A = 1 ∧
          t.get F.IMG_STAT_RSN_B = 1) ∧
      (bootSel s ≠ 1 →
        ∃ t, exec (.scanComplete id sectors a b) s = .next t ∧ t.get F.IMG_STAT_RSN_A = slotCode s (idOk id.toNat) a ∧
          t.get F.IMG_STAT_RSN_B = slotCode s (idOk id.toNat) b ∧
          (slotCode s (idOk id.toNat) a = 0 ∨ slotCode s (idOk id.toNat) b = 0 → bstate t = bsLoad ∧ t.sys.candidates ≠ [])) ∧
      (validSectors sectors = [] →
        ∃ t, exec (.scanComplete id sectors a b) s = .next t ∧ counted G.BKG_LOG_EMPTY s t)) ∧
    (∀ (bytes : List Byte) (x : Candidate) (rest : List Candidate), bstate s = bsLoad → s.sys.candidates = x :: rest →
      (loadCode x bytes ≠ 0 →
        ∃ t, exec (.candidateLoadEnd bytes) s = .next t ∧ counted G.IMG_SLOT_FALLBACK s t ∧
          t.get (if x.slotB then F.IMG_STAT_RSN_B else F.IMG_STAT_RSN_A) = loadCode x bytes ∧
          bstate t = (if rest = [] then bsRecovery else bsLoad) ∧ t.sys = { s.sys with candidates := rest } ∧
          Changes [.regs, .free, .sys] [R.IMG_STAT, R.SYS_BOOT, G.IMG_SLOT_FALLBACK.ptr, G.IMG_SLOT_FALLBACK.cptr] s t) ∧
      (loadCode x bytes = 0 →
        ∃ t, exec (.candidateLoadEnd bytes) s = .next t ∧ t.sys.candidates = [] ∧ t.get F.STR_CFG_CLUSTER = beAt x.header 23 1 ∧
          t.get F.SCN_STAT_LIVE_ID = beAt x.header 24 2 ∧
          ((bstate t = bsStart ∧ t.sys.procs = true) ∨ (bstate t = bsDbgwait ∧ t.sys.held = true)))) ∧
    (s.sys.procs = true → bstate s = bsStart → s.sys.fwTmo = false →
      ∃ t, exec .fwTimeout s = .next t ∧ counted G.SYS_FW_TMO s t ∧ t.sys = { s.sys with fwTmo := true } ∧ t.get F.TS_CTRL_LOCK = 1 ∧
        Changes [.regs, .sys] [R.TS_CTRL, R.TS_STAT, G.SYS_FW_TMO.ptr, G.SYS_FW_TMO.cptr] s t) ∧
    (s.sys.procs = false ∨ bstate s ≠ bsStart ∨ s.sys.fwTmo = true → exec .fwTimeout s = .next s) ∧
    ∀ c : Chan, reached s (R.CH_MUTE c) = true →
      ∃ t, exec (.relStart c) s = .next t ∧ t.sys = { s.sys with released := s.sys.released.set c true } ∧ Changes [.sys, .hst] [] s t

/-- Life-cycle states and debug access (R209, R512, R561, R570 to R575): a request is refused with the first reason of R571 that holds, or its record is
written, the key shadows are zeroed, the fuses blown and the device reset; credentials, fuse writes, the release of held processors and the
boundary scan act where the life-cycle state allows them; a word without GO stores its target alone. -/
def Obligations.LifeCycle : Prop :=
  ∀ s : State, s.sys.inReset = false →
    (∀ (path : Path) (v : Word) (path1 : Path) (target : Nat), path1 = pathAt s path R.SYS_LCREQ → target = v.toNat % 8 →
      writable s path1 R.SYS_LCREQ = true → s.sys.lcBits = 0 → bitN v.toNat 8 = true →
      (∀ reason : Nat,
        (reason = 1 ∧ lcTransition s path1 target = false) ∨
        (reason = 2 ∧ lcTransition s path1 target = true ∧ lcRequirement s target = false) ∨
        (reason = 3 ∧ lcTransition s path1 target = true ∧ lcRequirement s target = true ∧ s.pins.own = true) ∨
        (reason = 4 ∧ lcTransition s path1 target = true ∧ lcRequirement s target = true ∧ s.pins.own = false ∧
          (∀ c < 16, chanStopped s c = true) ∧ s.get F.SYS_LC_NBLOWN = 14 ∧ target = lcService) →
        ∃ t, exec (.lifecycleRequest path v) s = .next t ∧ counted G.SYS_LC_REFUSED s t ∧ t.get F.SYS_LCREQ_REASON = reason ∧
          t.get F.SYS_LCREQ_GO = 0 ∧ Changes [.regs, .hst] [R.SYS_LCREQ, G.SYS_LC_REFUSED.ptr, G.SYS_LC_REFUSED.cptr] s t) ∧
      (lcReason s path1 target = 0 → s.bkg.stopped = false → s.get F.BKG_CFG_LOG_EN = 1 →
        ∃ t, exec (.lifecycleRequest path v) s = .next t ∧
          t.sys = { s.sys with lcBits := if target = lcRetired then 16 else s.get F.SYS_LC_NBLOWN + 1 } ∧ t.get F.SYS_LCREQ_GO = 1 ∧
          t.get F.SYS_LCREQ_REASON = 0 ∧ t.bkg.ops.length ≥ s.bkg.ops.length + 1 ∧
          Changes [.regs, .sys, .bkg, .hst] [R.SYS_LCREQ, R.BKG_LOG0, R.BKG_LOG1, R.BKG_LOG2, R.QSPI_STAT] s t)) ∧
    (∀ (n : Nat) (bs : List Byte) (rest : List FlashOp), s.bkg.qspi = none → s.bkg.ops = .program n bs true :: rest →
      (bs.headD 0).toNat = 4 →
      (∃ t, exec (.flashOpDone true) s = .next t ∧ t.sys.shadowsZero = true ∧ t.sys.fuses.key0 = none ∧ t.sys.fuses.key1 = none ∧
        t.sys.fuses.cred = none ∧ t.sys.blown = s.sys.blown ∧ Only [.regs, .sys, .bkg] s t) ∧
      (∃ t, exec (.flashOpDone false) s = .next t ∧ t.get F.SYS_LCREQ_REASON = 5 ∧ counted G.BKG_LOG_FAIL s t ∧
        counted G.SYS_LC_REFUSED s t ∧ t.sys = { s.sys with lcBits := 0 } ∧ Only [.regs, .sys, .bkg] s t)) ∧
    (s.sys.lcBits ≠ 0 → s.sys.shadowsZero = true →
      (∃ t, exec (.fuseBlowDone true) s = .next t ∧ t.sys.inReset = true ∧ t.sys.cause = rstLcycle ∧
        t.sys.blown = { s.sys.blown with lc := BitVec.ofNat 16 (2 ^ s.sys.lcBits - 1) }) ∧
      (∃ t, exec (.fuseBlowDone false) s = .next t ∧ t.sys.inReset = true ∧ t.sys.cause = rstLcycle ∧ t.sys.blown = s.sys.blown)) ∧
    (∀ bytes : List Byte,
      (lcState s ≠ lcRetired → bstate s ≠ bsWipe → s.sys.credTries < 3 → s.sys.fuses.cred = some bytes →
        ∃ t, exec (.credentialPresent bytes) s = .next t ∧ t.get F.SYS_LC_CRED_OK = 1 ∧ Changes [.regs] [R.SYS_LC] s t) ∧
      (lcState s ≠ lcRetired → bstate s ≠ bsWipe → s.sys.credTries < 3 → s.sys.fuses.cred ≠ some bytes →
        ∃ t, exec (.credentialPresent bytes) s = .next t ∧ t.sys = { s.sys with credTries := s.sys.credTries + 1 } ∧
          Changes [.sys] [] s t) ∧
      (lcState s = lcRetired ∨ bstate s = bsWipe ∨ 3 ≤ s.sys.credTries → exec (.credentialPresent bytes) s = .next s)) ∧
    (∀ bytes : List Byte, bytes.length = 32 → bstate s ≠ bsWipe → lcState s = lcBlank ∨ lcState s = lcDevelop →
      (s.sys.blown.key0 = none →
        ∃ t, exec (.fuseProgram (.key 0 bytes)) s = .next t ∧ t.sys = { s.sys with blown := { s.sys.blown with key0 := some bytes } } ∧
          Changes [.sys] [] s t) ∧
      (s.sys.blown.cred = none →
        ∃ t, exec (.fuseProgram (.credential bytes)) s = .next t ∧
          t.sys = { s.sys with blown := { s.sys.blown with cred := some bytes } } ∧ Changes [.sys] [] s t)) ∧
    (bstate s ≠ bsWipe → lcState s = lcDevelop ∨ lcState s = lcService →
      ∃ t, exec (.fuseProgram (.revoke 1)) s = .next t ∧ t.sys = { s.sys with blown := { s.sys.blown with rev1 := true } } ∧
        Changes [.sys] [] s t) ∧
    (∀ what : FuseWrite, bstate s = bsWipe ∨ lcState s = lcField ∨ lcState s = lcRetired → exec (.fuseProgram what) s = .next s) ∧
    (debugAccess s = true → s.sys.held = true →
      ∃ t, exec .debugRelease s = .next t ∧ bstate t = bsStart ∧ t.sys.procs = true ∧ t.sys.held = false ∧ t.safe.halted = false) ∧
    (debugAccess s = true → s.sys.held = false →
      ∃ t, exec .debugRelease s = .next t ∧ t.sys = { s.sys with mgmtStopped := false } ∧ t.safe = { s.safe with halted := false } ∧
        Changes [.sys, .safe] [] s t) ∧
    (debugOpen s = true →
      ∃ t, exec .boundaryScanLoad s = .next t ∧ t.pins.own = false ∧ t.sys.boundaryScan = true ∧ t.safe.halted = true ∧
        Changes [.regs, .sys, .safe, .pins] [R.TWN_STAT] s t) ∧
    (debugAccess s = false → exec .debugRelease s = .next s) ∧ (debugOpen s = false → exec .boundaryScanLoad s = .next s) ∧
    ∀ (path : Path) (v : Word), writable s (pathAt s path R.SYS_LCREQ) R.SYS_LCREQ = true → bitN v.toNat 8 = false →
      ∃ t, exec (.lifecycleRequest path v) s = .next t ∧ t.get F.SYS_LCREQ_TARGET = v.toNat % 8 ∧
        t.get F.SYS_LCREQ_GO = s.get F.SYS_LCREQ_GO ∧ t.get F.SYS_LCREQ_REASON = s.get F.SYS_LCREQ_REASON ∧
        Changes [.regs, .hst] [R.SYS_LCREQ] s t

/-- Clocks (R197, R555, R581 to R584, R586, R587, R597, R598): the first lock of the media PLL starts the counters at block index 0; a lock is shown;
the SAFE clock watchdog turns every gate off; the reference correction slews by one step, and a clock measurement is published in units of
5 ppm. -/
def Obligations.Clocks : Prop :=
  ∀ s : State, s.sys.inReset = false →
    (∃ t, exec .mediaPllLock s = .next t ∧ t.get F.CLK_STAT_MEDIA_LOCK = 1 ∧ t.safe = { s.safe with pllOut := false } ∧
      (s.sys.counting = false → t.time = {} ∧ t.sys = { s.sys with counting := true }) ∧
      (s.sys.counting = true → t.time = s.time ∧ t.sys = s.sys) ∧ Changes [.regs, .time, .sys, .safe] [R.CLK_STAT] s t) ∧
    (∃ t, exec (.pllLock .network) s = .next t ∧ t.get F.CLK_STAT_NET_LOCK = 1 ∧ Changes [.regs, .conds] [R.CLK_STAT] s t) ∧
    (∃ t, exec (.pllLock .system) s = .next t ∧ t.get F.CLK_STAT_SYS_LOCK = 1 ∧ Changes [.regs, .conds] [R.CLK_STAT] s t) ∧
    (s.get F.TWN_CFG_PAIR_EN = 1 → s.sys.procs = true →
      ∃ t, exec (.pllLock .twin) s = .next t ∧ t.get F.CLK_STAT_TWIN_LOCK = 1 ∧ pstate t = psTrain ∧
        Only [.regs, .conds, .gates, .twin] s t) ∧
    (∃ t, exec .safeWatchdogTrip s = .next t ∧ t.safe = { s.safe with watchdog := true } ∧ (s.sys.boundaryScan = false → gatesLow t = true) ∧
      t.pins.own = false ∧
      Only [.regs, .legs, .safe, .pins] s t) ∧
    (∀ c g : Int, c = s.getS F.PTP_FREQ_FREQ → g = refTarget s → s.twin.marking = false → -100000 ≤ c → c ≤ 100000 →
      ∃ t, exec .refSlewStep s = .next t ∧
        t.getS F.PTP_FREQ_FREQ = (if c < g then c + 1 else if g < c then c - 1 else c) ∧ Changes [.regs] [R.PTP_FREQ] s t) ∧
    (s.twin.marking = true →
      ∃ t, exec .refSlewStep s = .next t ∧ t.getS F.PTP_FREQ_FREQ = refTarget s ∧ Changes [.regs] [R.PTP_FREQ] s t) ∧
    (∀ count clk : Nat, clk = s.get F.CLK_MSEL_CLK → clk < 8 →
      (s.sys.msel = clk →
        ∃ t, exec (.clockMeasure count) s = .next t ∧ t.get F.CLK_MRES_SEQ = nextSeq1 (s.get F.CLK_MRES_SEQ) ∧
          t.get F.CLK_MRES_CLK = clk ∧
          t.getS F.CLK_MRES_DEV = clampI (-2047) 2047 (rneDiv (((count : Int) - nominalCount clk) * 200000) (nominalCount clk)) ∧
          Changes [.regs] [F.CLK_MRES_SEQ.ptr] s t) ∧
      (s.sys.msel ≠ clk →
        ∃ t, exec (.clockMeasure count) s = .next t ∧ t.sys = { s.sys with msel := clk } ∧ Changes [.sys] [] s t))

/-- Lost locks (R585): each loss of lock of the network, system or Twin Link PLL sets its flag in CLK_FLAG, and CLK_STAT shows the lock
state. -/
def Obligations.PllLockLoss : Prop :=
  ∀ (s : State) (which : Pll) (lock : Fld) (g : Flag), s.sys.inReset = false →
    (which, lock, g) ∈ [(Pll.network, F.CLK_STAT_NET_LOCK, G.CLK_NET_UNLOCK), (Pll.system, F.CLK_STAT_SYS_LOCK, G.CLK_SYS_UNLOCK),
      (Pll.twin, F.CLK_STAT_TWIN_LOCK, G.CLK_TWIN_UNLOCK)] →
    s.get lock = 1 → s.conds.contains (g.ptr * 32 + g.bit) = false →
    ∃ t, exec (.pllUnlock which) s = .next t ∧ t.get lock = 0 ∧ counted g s t ∧ t.get ⟨R.CLK_FLAG, g.bit, g.bit⟩ = 1 ∧
      (which = .twin → linkUp t = false) ∧ (which ≠ .twin → Changes [.regs, .conds] [R.CLK_STAT, g.ptr, g.cptr] s t)

/-- A step takes the command at the front of the queue and runs it with the queue's rest; with nothing waiting the block idles (the model's
choice, log entry 2). -/
def Obligations.StepRunsFront : Prop :=
  ∀ (s : State) (c : Instr) (q : List Instr),
    step { s with pending := c :: q } = exec c { s with pending := q } ∧ step { s with pending := [] } = .next { s with pending := [] }

/-- Every command completes with a next state whose queue is the one it found, but a write of a production test register (R635), which is
refused by name, and only in the life-cycle state BLANK and out of reset. -/
def Obligations.CommandsComplete : Prop :=
  ∀ (s : State) (c : Instr),
    (∃ t, exec c s = .next t ∧ t.pending = s.pending) ∨
    (exec c s = .refused .testRegister ∧ lcState s = lcBlank ∧ s.sys.inReset = false ∧
      ((∃ path p v, c = .registerWrite path p v) ∨ (∃ p rs, c = .fabricGrant p rs)))

/-- Every step keeps the memories in their canonical form: registers, banks, bits in error, fabric words and latches (R3, R510). -/
def Obligations.MemoryFormKept : Prop := ∀ s t : State, Memory.wf s = true → step s = .next t → Memory.wf t = true

/-- The state of reset (R2, R510, R550): registers at the values that the chapters' tables give, the wiped memories in their canonical form, no
gate ball high, OWN_N released and an empty queue. -/
def Obligations.ResetState : Prop :=
  Memory.wf State.reset = true ∧
  (State.reset.rd R.SYS_ID = 0x16320001 ∧ State.reset.rd R.MEM_INJ = 0x10000000 ∧ State.reset.get F.MEM_RCFG_REP_WIN = 0x3C ∧
    State.reset.get F.BKG_CFG_SCRUB_EN = 1 ∧ State.reset.get F.BKG_CFG_LOG_EN = 1 ∧ State.reset.get F.TS_CTRL_LOCK = 0 ∧
    State.reset.rd (R.CH_TRP 15) = 0x08A26400 ∧ State.reset.rd (R.CH_MOD 0) = 0x08000000 ∧ State.reset.get F.QSPI_ID_ID = 0 ∧
    State.reset.get F.BKG_SCRUB_SEQ = 0 ∧ bstate State.reset = bsWipe) ∧
  (∀ k, State.reset.mem.words = [] ∧ kvGet quadDefault State.reset.mem.words k = 0) ∧ State.reset.mem.errs = [] ∧
  State.reset.pins.own = false ∧ gatesLow State.reset = true ∧ State.reset.pending = []

/-- A unit that does not hold OWN_N, is held in reset, is in the device-level safe state or whose SAFE clock watchdog tripped has no gate
ball high but in boundary scan, where the boundary register drives the balls whatever the legs do (R197, R199, R377, R552, R575, R586); what
it drives is free (log entry 86). -/
def Obligations.GatesHeldLow : Prop :=
  ∀ s : State,
    (s.sys.boundaryScan = false →
      s.pins.own = false ∨ s.sys.inReset = true ∨ deviceSafe s = true ∨ s.safe.watchdog = true → gatesLow s = true) ∧
    (∀ t : State, s.sys.boundaryScan = true → t.sys.boundaryScan = true → t.free = s.free →
      ∀ l, ballHi t l = ballHi s l ∧ ballLo t l = ballLo s l)
end

