-- ==== Sys2Proof/Laws/Kv.lean ====
section
/-! SUPPORT. Laws/Kv.lean: reading after writing a sparse memory, and that writing keeps its canonical form. -/

set_option Elab.async false
set_option linter.all false

namespace Sys2Proof.Machine

theorem kvGet_kvIns_same {w : Nat} (d : Nat → BitVec w) (m : List (Nat × BitVec w)) (k : Nat) (v : BitVec w) :
    kvGet d (kvIns m k v) k = v := by
  induction m with
  | nil => simp [kvIns, kvGet]
  | cons e m ih =>
    simp only [kvIns]
    split
    · simp [kvGet]
    · split
      · simp [kvGet]
      · rename_i h _; simp [kvGet, h, ih]

theorem kvGet_kvIns_other {w : Nat} (d : Nat → BitVec w) (m : List (Nat × BitVec w)) (j k : Nat) (v : BitVec w) (h : j ≠ k) :
    kvGet d (kvIns m k v) j = kvGet d m j := by
  induction m with
  | nil => simp [kvIns, kvGet, Ne.symm h]
  | cons e m ih =>
    simp only [kvIns]
    split
    · rename_i he; simp [kvGet, Ne.symm h, he]
    · split
      · simp [kvGet, Ne.symm h]
      · simp [kvGet, ih]

theorem kvGet_kvDel_same {w : Nat} (d : Nat → BitVec w) (m : List (Nat × BitVec w)) (k : Nat) : kvGet d (kvDel m k) k = d k := by
  induction m with
  | nil => rfl
  | cons e m ih =>
    by_cases h : e.1 = k
    · simpa [kvDel, h] using ih
    · have : kvDel (e :: m) k = e :: kvDel m k := by simp [kvDel, h]
      rw [this]; simp [kvGet, h, ih]

theorem kvGet_kvDel_other {w : Nat} (d : Nat → BitVec w) (m : List (Nat × BitVec w)) (j k : Nat) (h : j ≠ k) :
    kvGet d (kvDel m k) j = kvGet d m j := by
  induction m with
  | nil => rfl
  | cons e m ih =>
    by_cases he : e.1 = k
    · have : kvDel (e :: m) k = kvDel m k := by simp [kvDel, he]
      rw [this, ih]; simp [kvGet, he, Ne.symm h]
    · have : kvDel (e :: m) k = e :: kvDel m k := by simp [kvDel, he]
      rw [this]; simp [kvGet, ih]

/-- A read after a write gives the word written at its key and what was there before at every other one. -/
theorem kvGet_kvPut {w : Nat} (d : Nat → BitVec w) (m : List (Nat × BitVec w)) (j k : Nat) (v : BitVec w) :
    kvGet d (kvPut d m k v) j = if j = k then v else kvGet d m j := by
  unfold kvPut
  split
  · rename_i hv
    split
    · rename_i hj; subst hj; rw [kvGet_kvDel_same, hv]
    · rename_i hj; exact kvGet_kvDel_other d m j k hj
  · split
    · rename_i hj; subst hj; exact kvGet_kvIns_same d m j v
    · rename_i hj; exact kvGet_kvIns_other d m j k v hj

/-! ### The canonical form -/

theorem kvSorted_tail {w : Nat} {e : Nat × BitVec w} {m : List (Nat × BitVec w)} (h : kvSorted (e :: m) = true) :
    kvSorted m = true := by
  cases m with
  | nil => rfl
  | cons b m => simp only [kvSorted, Bool.and_eq_true] at h; exact h.2

theorem kvSorted_head {w : Nat} {e : Nat × BitVec w} {m : List (Nat × BitVec w)} (h : kvSorted (e :: m) = true) :
    ∀ x ∈ m, e.1 < x.1 := by
  induction m generalizing e with
  | nil => simp
  | cons b m ih =>
    simp only [kvSorted, Bool.and_eq_true, decide_eq_true_eq] at h
    intro x hx
    cases hx with
    | head => exact h.1
    | tail _ hx => exact Nat.lt_trans h.1 (ih h.2 x hx)

theorem kvSorted_cons {w : Nat} {e : Nat × BitVec w} {m : List (Nat × BitVec w)} (hm : kvSorted m = true)
    (h : ∀ x ∈ m, e.1 < x.1) : kvSorted (e :: m) = true := by
  cases m with
  | nil => rfl
  | cons b m => simp only [kvSorted, Bool.and_eq_true, decide_eq_true_eq]; exact ⟨h b (by simp), hm⟩

theorem mem_kvIns {w : Nat} {m : List (Nat × BitVec w)} {k : Nat} {v : BitVec w} {x : Nat × BitVec w} (h : x ∈ kvIns m k v) :
    x = (k, v) ∨ x ∈ m := by
  induction m with
  | nil => simp [kvIns] at h; exact Or.inl h
  | cons e m ih =>
    simp only [kvIns] at h
    split at h
    · cases h with
      | head => exact Or.inl rfl
      | tail _ h => exact Or.inr (List.mem_cons_of_mem _ h)
    · split at h
      · cases h with
        | head => exact Or.inl rfl
        | tail _ h => exact Or.inr h
      · cases h with
        | head => exact Or.inr (by simp)
        | tail _ h => exact (ih h).imp id (List.mem_cons_of_mem _)

theorem kvSorted_kvIns {w : Nat} (m : List (Nat × BitVec w)) (k : Nat) (v : BitVec w) (h : kvSorted m = true) :
    kvSorted (kvIns m k v) = true := by
  induction m with
  | nil => rfl
  | cons e m ih =>
    have hh := kvSorted_head h
    simp only [kvIns]
    split
    · rename_i he; exact kvSorted_cons (kvSorted_tail h) (fun x hx => he ▸ hh x hx)
    · split
      · rename_i hk
        refine kvSorted_cons h (fun x hx => ?_)
        cases hx with
        | head => exact hk
        | tail _ hx => exact Nat.lt_trans hk (hh x hx)
      · rename_i hne hk
        refine kvSorted_cons (ih (kvSorted_tail h)) (fun x hx => ?_)
        rcases mem_kvIns hx with rfl | hx
        · show e.1 < k; omega
        · exact hh x hx

theorem kvSorted_kvDel {w : Nat} (m : List (Nat × BitVec w)) (k : Nat) (h : kvSorted m = true) : kvSorted (kvDel m k) = true := by
  induction m with
  | nil => rfl
  | cons e m ih =>
    by_cases he : e.1 = k
    · have : kvDel (e :: m) k = kvDel m k := by simp [kvDel, he]
      rw [this]; exact ih (kvSorted_tail h)
    · have : kvDel (e :: m) k = e :: kvDel m k := by simp [kvDel, he]
      rw [this]
      refine kvSorted_cons (ih (kvSorted_tail h)) (fun x hx => ?_)
      exact kvSorted_head h x (List.mem_filter.mp hx).1

/-- Writing keeps the canonical form. -/
theorem kvWf_kvPut {w : Nat} (d : Nat → BitVec w) (m : List (Nat × BitVec w)) (k : Nat) (v : BitVec w) (h : kvWf d m = true) :
    kvWf d (kvPut d m k v) = true := by
  simp only [kvWf, Bool.and_eq_true, List.all_eq_true, decide_eq_true_eq] at h ⊢
  unfold kvPut
  split
  · exact ⟨kvSorted_kvDel m k h.1, fun x hx => h.2 x (List.mem_filter.mp hx).1⟩
  · rename_i hv
    refine ⟨kvSorted_kvIns m k v h.1, fun x hx => ?_⟩
    rcases mem_kvIns hx with rfl | hx
    · exact hv
    · exact h.2 x hx

end Sys2Proof.Machine
end

