-- ==== Sys2Proof/Laws/Only.lean ====
section
/-! SUPPORT. Laws/Only.lean: frames compose. -/

set_option Elab.async false
set_option linter.all false

namespace Sys2Proof.Machine

theorem Only.refl (l : List Part) (s : State) : Only l s s := by
  intro p _; cases p <;> rfl

theorem Only.trans {l : List Part} {s t u : State} (h : Only l s t) (k : Only l t u) : Only l s u := by
  intro p hp
  have a := h p hp
  have b := k p hp
  cases p <;> exact Eq.trans b a

theorem Only.mono {l m : List Part} {s t : State} (h : Only m s t) (hm : m ⊆ l) : Only l s t := fun p hp => h p fun hq => hp (hm hq)

/-- A further operation that changes fewer parts. -/
theorem Only.step {l m : List Part} {s t u : State} (h : Only l s t) (k : Only m t u) (hm : m ⊆ l) : Only l s u := h.trans (k.mono hm)

theorem Only.foldl {α : Type} {l : List Part} {s t : State} {g : State → α → State} {xs : List α}
    (hg : ∀ t a, Only l t (g t a)) (h : Only l s t) : Only l s (xs.foldl g t) := by
  induction xs generalizing t with
  | nil => exact h
  | cons a xs ih => exact ih (h.trans (hg t a))

theorem Only.ite {c : Prop} [Decidable c] {l : List Part} {s t u : State} (h : Only l s t) (k : Only l s u) :
    Only l s (if c then t else u) := by split; exact h; exact k

theorem Only.ite_fst {β : Type} {c : Prop} [Decidable c] {l : List Part} {s : State} {t u : State × β} (h : Only l s t.1)
    (k : Only l s u.1) : Only l s (if c then t else u).1 := by split; exact h; exact k

/-- A fold that carries the state beside something else. -/
theorem Only.foldl_fst {α β : Type} {l : List Part} {s : State} {g : State × β → α → State × β} {xs : List α} {a : State × β}
    (hg : ∀ a x, Only l a.1 (g a x).1) (h : Only l s a.1) : Only l s (xs.foldl g a).1 := by
  induction xs generalizing a with
  | nil => exact h
  | cons x xs ih => exact ih (h.trans (hg a x))

theorem Only.of_fst {β : Type} {l : List Part} {s x : State} {y : β} {e : State × β} (heq : e = (x, y)) (h : Only l s e.1) :
    Only l s x := by subst heq; exact h

/-! ### Operations that take an operation -/

theorem Only.eachOf {l : List Part} {r s : State} {n : Nat} {f : State → Nat → State} (hf : ∀ t a, Only l t (f t a)) (h : Only l r s) :
    Only l r (eachOf n f s) := Only.foldl hf h

theorem granted_only (s : State) (p : Nat) : Only [.hst] s (granted s p) := by
  unfold granted; split
  · intro q hq; cases q <;> first | rfl | exact absurd (by decide) hq
  · exact Only.refl _ _

theorem granted_step {l : List Part} {r : State} (s : State) (p : Nat) (h : Only l r s) (hm : [.hst] ⊆ l) : Only l r (granted s p) :=
  h.step (granted_only s p) hm

theorem Only.fieldAt {l : List Part} {r s : State} {d : Path} {p : Nat} {f : State → State} (hf : ∀ t, Only l t (f t))
    (hm : [.hst] ⊆ l) (h : Only l r s) : Only l r (fieldAt s d p f) := by
  unfold Machine.fieldAt; split
  · exact (h.step (granted_only s p) hm).trans (hf _)
  · exact h.step (granted_only s p) hm

theorem Only.readAt {l : List Part} {r s : State} {d : Path} {p : Nat} {f : State → State} (hf : ∀ t, Only l t (f t))
    (hm : [.rdata] ⊆ l) (h : Only l r s) : Only l r (readAt s d p f) := by
  unfold Machine.readAt; split
  · exact h.trans (hf _)
  · refine h.step (m := [.rdata]) ?_ hm
    intro q hq; cases q <;> first | rfl | exact absurd (by decide) hq

theorem Only.onceOnly {l : List Part} {r s : State} {c : Nat} {f : State → State} (hf : ∀ t, Only l t (f t)) (h : Only l r s) :
    Only l r (onceOnly s c f) := by
  unfold Machine.onceOnly; split
  · exact h
  · exact h.trans (hf _)

end Sys2Proof.Machine
end

