-- ==== Sys2Proof/Laws/FrameState.lean ====
section
/-! SUPPORT. Laws/FrameState.lean: a record update changes the fields it names, and keeps the memories' canonical form where it keeps the
memories; frames through conditionals and folds. -/

set_option Elab.async false
set_option linter.all false

namespace Sys2Proof.Machine

theorem only_with_ain (t : State) (x0 : Ain) : Only [.ain] t { t with ain := x0 } := by
  intro p hp; cases p <;> first | rfl | exact absurd (by decide) hp

theorem only_with_ain_step {l : List Part} {r : State} (t : State) (x0 : Ain) (h : Only l r t) (hm : [.ain] ⊆ l) : Only l r { t with ain := x0 } := h.step (only_with_ain t x0) hm

theorem only_with_banks (t : State) (x0 : List (Nat × Word)) : Only [.banks] t { t with banks := x0 } := by
  intro p hp; cases p <;> first | rfl | exact absurd (by decide) hp

theorem only_with_banks_step {l : List Part} {r : State} (t : State) (x0 : List (Nat × Word)) (h : Only l r t) (hm : [.banks] ⊆ l) : Only l r { t with banks := x0 } := h.step (only_with_banks t x0) hm

theorem only_with_bkg (t : State) (x0 : Bkg) : Only [.bkg] t { t with bkg := x0 } := by
  intro p hp; cases p <;> first | rfl | exact absurd (by decide) hp

theorem only_with_bkg_step {l : List Part} {r : State} (t : State) (x0 : Bkg) (h : Only l r t) (hm : [.bkg] ⊆ l) : Only l r { t with bkg := x0 } := h.step (only_with_bkg t x0) hm

theorem only_with_conds (t : State) (x0 : List Nat) : Only [.conds] t { t with conds := x0 } := by
  intro p hp; cases p <;> first | rfl | exact absurd (by decide) hp

theorem only_with_conds_step {l : List Part} {r : State} (t : State) (x0 : List Nat) (h : Only l r t) (hm : [.conds] ⊆ l) : Only l r { t with conds := x0 } := h.step (only_with_conds t x0) hm

theorem only_with_dlCal (t : State) (x0 : DlCal) : Only [.dlCal] t { t with dlCal := x0 } := by
  intro p hp; cases p <;> first | rfl | exact absurd (by decide) hp

theorem only_with_dlCal_step {l : List Part} {r : State} (t : State) (x0 : DlCal) (h : Only l r t) (hm : [.dlCal] ⊆ l) : Only l r { t with dlCal := x0 } := h.step (only_with_dlCal t x0) hm

theorem only_with_dlCal_bkg (t : State) (x0 : DlCal) (x1 : Bkg) : Only [.dlCal, .bkg] t { t with dlCal := x0, bkg := x1 } := by
  intro p hp; cases p <;> first | rfl | exact absurd (by decide) hp

theorem only_with_dlCal_bkg_step {l : List Part} {r : State} (t : State) (x0 : DlCal) (x1 : Bkg) (h : Only l r t) (hm : [.dlCal, .bkg] ⊆ l) : Only l r { t with dlCal := x0, bkg := x1 } := h.step (only_with_dlCal_bkg t x0 x1) hm

theorem only_with_fab (t : State) (x0 : Fab) : Only [.fab] t { t with fab := x0 } := by
  intro p hp; cases p <;> first | rfl | exact absurd (by decide) hp

theorem only_with_fab_step {l : List Part} {r : State} (t : State) (x0 : Fab) (h : Only l r t) (hm : [.fab] ⊆ l) : Only l r { t with fab := x0 } := h.step (only_with_fab t x0) hm

theorem only_with_free (t : State) (x0 : Nat) : Only [.free] t { t with free := x0 } := by
  intro p hp; cases p <;> first | rfl | exact absurd (by decide) hp

theorem only_with_free_step {l : List Part} {r : State} (t : State) (x0 : Nat) (h : Only l r t) (hm : [.free] ⊆ l) : Only l r { t with free := x0 } := h.step (only_with_free t x0) hm

theorem only_with_gates (t : State) (x0 : List (List (List Word))) : Only [.gates] t { t with gates := x0 } := by
  intro p hp; cases p <;> first | rfl | exact absurd (by decide) hp

theorem only_with_gates_step {l : List Part} {r : State} (t : State) (x0 : List (List (List Word))) (h : Only l r t) (hm : [.gates] ⊆ l) : Only l r { t with gates := x0 } := h.step (only_with_gates t x0) hm

theorem only_with_heldB (t : State) (x0 : List (Nat × Word)) : Only [.heldB] t { t with heldB := x0 } := by
  intro p hp; cases p <;> first | rfl | exact absurd (by decide) hp

theorem only_with_heldB_step {l : List Part} {r : State} (t : State) (x0 : List (Nat × Word)) (h : Only l r t) (hm : [.heldB] ⊆ l) : Only l r { t with heldB := x0 } := h.step (only_with_heldB t x0) hm

theorem only_with_heldU (t : State) (x0 : List (Nat × Word)) : Only [.heldU] t { t with heldU := x0 } := by
  intro p hp; cases p <;> first | rfl | exact absurd (by decide) hp

theorem only_with_heldU_step {l : List Part} {r : State} (t : State) (x0 : List (Nat × Word)) (h : Only l r t) (hm : [.heldU] ⊆ l) : Only l r { t with heldU := x0 } := h.step (only_with_heldU t x0) hm

theorem only_with_hst (t : State) (x0 : Hst) : Only [.hst] t { t with hst := x0 } := by
  intro p hp; cases p <;> first | rfl | exact absurd (by decide) hp

theorem only_with_hst_step {l : List Part} {r : State} (t : State) (x0 : Hst) (h : Only l r t) (hm : [.hst] ⊆ l) : Only l r { t with hst := x0 } := h.step (only_with_hst t x0) hm

theorem only_with_lanePool (t : State) (x0 : LanePool) : Only [.lanePool] t { t with lanePool := x0 } := by
  intro p hp; cases p <;> first | rfl | exact absurd (by decide) hp

theorem only_with_lanePool_step {l : List Part} {r : State} (t : State) (x0 : LanePool) (h : Only l r t) (hm : [.lanePool] ⊆ l) : Only l r { t with lanePool := x0 } := h.step (only_with_lanePool t x0) hm

theorem only_with_lanes (t : State) (x0 : List LaneSt) : Only [.lanes] t { t with lanes := x0 } := by
  intro p hp; cases p <;> first | rfl | exact absurd (by decide) hp

theorem only_with_lanes_step {l : List Part} {r : State} (t : State) (x0 : List LaneSt) (h : Only l r t) (hm : [.lanes] ⊆ l) : Only l r { t with lanes := x0 } := h.step (only_with_lanes t x0) hm

theorem only_with_legs (t : State) (x0 : List LegGen) : Only [.legs] t { t with legs := x0 } := by
  intro p hp; cases p <;> first | rfl | exact absurd (by decide) hp

theorem only_with_legs_step {l : List Part} {r : State} (t : State) (x0 : List LegGen) (h : Only l r t) (hm : [.legs] ⊆ l) : Only l r { t with legs := x0 } := h.step (only_with_legs t x0) hm

theorem only_with_loops (t : State) (x0 : List LoopChan) : Only [.loops] t { t with loops := x0 } := by
  intro p hp; cases p <;> first | rfl | exact absurd (by decide) hp

theorem only_with_loops_step {l : List Part} {r : State} (t : State) (x0 : List LoopChan) (h : Only l r t) (hm : [.loops] ⊆ l) : Only l r { t with loops := x0 } := h.step (only_with_loops t x0) hm

theorem only_with_mb (t : State) (x0 : Mb) : Only [.mb] t { t with mb := x0 } := by
  intro p hp; cases p <;> first | rfl | exact absurd (by decide) hp

theorem only_with_mb_step {l : List Part} {r : State} (t : State) (x0 : Mb) (h : Only l r t) (hm : [.mb] ⊆ l) : Only l r { t with mb := x0 } := h.step (only_with_mb t x0) hm

theorem only_with_mb_scn (t : State) (x0 : Mb) (x1 : Scn) : Only [.mb, .scn] t { t with mb := x0, scn := x1 } := by
  intro p hp; cases p <;> first | rfl | exact absurd (by decide) hp

theorem only_with_mb_scn_step {l : List Part} {r : State} (t : State) (x0 : Mb) (x1 : Scn) (h : Only l r t) (hm : [.mb, .scn] ⊆ l) : Only l r { t with mb := x0, scn := x1 } := h.step (only_with_mb_scn t x0 x1) hm

theorem only_with_mem (t : State) (x0 : Mem) : Only [.mem] t { t with mem := x0 } := by
  intro p hp; cases p <;> first | rfl | exact absurd (by decide) hp

theorem only_with_mem_step {l : List Part} {r : State} (t : State) (x0 : Mem) (h : Only l r t) (hm : [.mem] ⊆ l) : Only l r { t with mem := x0 } := h.step (only_with_mem t x0) hm

theorem only_with_pending (t : State) (x0 : List Instr) : Only [.pending] t { t with pending := x0 } := by
  intro p hp; cases p <;> first | rfl | exact absurd (by decide) hp

theorem only_with_pending_step {l : List Part} {r : State} (t : State) (x0 : List Instr) (h : Only l r t) (hm : [.pending] ⊆ l) : Only l r { t with pending := x0 } := h.step (only_with_pending t x0) hm

theorem only_with_pins (t : State) (x0 : Pins) : Only [.pins] t { t with pins := x0 } := by
  intro p hp; cases p <;> first | rfl | exact absurd (by decide) hp

theorem only_with_pins_step {l : List Part} {r : State} (t : State) (x0 : Pins) (h : Only l r t) (hm : [.pins] ⊆ l) : Only l r { t with pins := x0 } := h.step (only_with_pins t x0) hm

theorem only_with_pwm (t : State) (x0 : List PwmChan) : Only [.pwm] t { t with pwm := x0 } := by
  intro p hp; cases p <;> first | rfl | exact absurd (by decide) hp

theorem only_with_pwm_step {l : List Part} {r : State} (t : State) (x0 : List PwmChan) (h : Only l r t) (hm : [.pwm] ⊆ l) : Only l r { t with pwm := x0 } := h.step (only_with_pwm t x0) hm

theorem only_with_pwm_loops_lanePool (t : State) (x0 : List PwmChan) (x1 : List LoopChan) (x2 : LanePool) : Only [.pwm, .loops, .lanePool] t { t with pwm := x0, loops := x1, lanePool := x2 } := by
  intro p hp; cases p <;> first | rfl | exact absurd (by decide) hp

theorem only_with_pwm_loops_lanePool_step {l : List Part} {r : State} (t : State) (x0 : List PwmChan) (x1 : List LoopChan) (x2 : LanePool) (h : Only l r t) (hm : [.pwm, .loops, .lanePool] ⊆ l) : Only l r { t with pwm := x0, loops := x1, lanePool := x2 } := h.step (only_with_pwm_loops_lanePool t x0 x1 x2) hm

theorem only_with_rdata (t : State) (x0 : Word) : Only [.rdata] t { t with rdata := x0 } := by
  intro p hp; cases p <;> first | rfl | exact absurd (by decide) hp

theorem only_with_rdata_step {l : List Part} {r : State} (t : State) (x0 : Word) (h : Only l r t) (hm : [.rdata] ⊆ l) : Only l r { t with rdata := x0 } := h.step (only_with_rdata t x0) hm

theorem only_with_rdata_scn (t : State) (x0 : Word) (x1 : Scn) : Only [.rdata, .scn] t { t with rdata := x0, scn := x1 } := by
  intro p hp; cases p <;> first | rfl | exact absurd (by decide) hp

theorem only_with_rdata_scn_step {l : List Part} {r : State} (t : State) (x0 : Word) (x1 : Scn) (h : Only l r t) (hm : [.rdata, .scn] ⊆ l) : Only l r { t with rdata := x0, scn := x1 } := h.step (only_with_rdata_scn t x0 x1) hm

theorem only_with_regs (t : State) (x0 : List (Nat × Word)) : Only [.regs] t { t with regs := x0 } := by
  intro p hp; cases p <;> first | rfl | exact absurd (by decide) hp

theorem only_with_regs_step {l : List Part} {r : State} (t : State) (x0 : List (Nat × Word)) (h : Only l r t) (hm : [.regs] ⊆ l) : Only l r { t with regs := x0 } := h.step (only_with_regs t x0) hm

theorem only_with_rings (t : State) (x0 : List RingSt) : Only [.rings] t { t with rings := x0 } := by
  intro p hp; cases p <;> first | rfl | exact absurd (by decide) hp

theorem only_with_rings_step {l : List Part} {r : State} (t : State) (x0 : List RingSt) (h : Only l r t) (hm : [.rings] ⊆ l) : Only l r { t with rings := x0 } := h.step (only_with_rings t x0) hm

theorem only_with_safe (t : State) (x0 : Safe) : Only [.safe] t { t with safe := x0 } := by
  intro p hp; cases p <;> first | rfl | exact absurd (by decide) hp

theorem only_with_safe_step {l : List Part} {r : State} (t : State) (x0 : Safe) (h : Only l r t) (hm : [.safe] ⊆ l) : Only l r { t with safe := x0 } := h.step (only_with_safe t x0) hm

theorem only_with_scn (t : State) (x0 : Scn) : Only [.scn] t { t with scn := x0 } := by
  intro p hp; cases p <;> first | rfl | exact absurd (by decide) hp

theorem only_with_scn_step {l : List Part} {r : State} (t : State) (x0 : Scn) (h : Only l r t) (hm : [.scn] ⊆ l) : Only l r { t with scn := x0 } := h.step (only_with_scn t x0) hm

theorem only_with_sense (t : State) (x0 : Sense) : Only [.sense] t { t with sense := x0 } := by
  intro p hp; cases p <;> first | rfl | exact absurd (by decide) hp

theorem only_with_sense_step {l : List Part} {r : State} (t : State) (x0 : Sense) (h : Only l r t) (hm : [.sense] ⊆ l) : Only l r { t with sense := x0 } := h.step (only_with_sense t x0) hm

theorem only_with_str (t : State) (x0 : Str) : Only [.str] t { t with str := x0 } := by
  intro p hp; cases p <;> first | rfl | exact absurd (by decide) hp

theorem only_with_str_step {l : List Part} {r : State} (t : State) (x0 : Str) (h : Only l r t) (hm : [.str] ⊆ l) : Only l r { t with str := x0 } := h.step (only_with_str t x0) hm

theorem only_with_sys (t : State) (x0 : Sys) : Only [.sys] t { t with sys := x0 } := by
  intro p hp; cases p <;> first | rfl | exact absurd (by decide) hp

theorem only_with_sys_step {l : List Part} {r : State} (t : State) (x0 : Sys) (h : Only l r t) (hm : [.sys] ⊆ l) : Only l r { t with sys := x0 } := h.step (only_with_sys t x0) hm

theorem only_with_time (t : State) (x0 : Time) : Only [.time] t { t with time := x0 } := by
  intro p hp; cases p <;> first | rfl | exact absurd (by decide) hp

theorem only_with_time_step {l : List Part} {r : State} (t : State) (x0 : Time) (h : Only l r t) (hm : [.time] ⊆ l) : Only l r { t with time := x0 } := h.step (only_with_time t x0) hm

theorem only_with_time_mb (t : State) (x0 : Time) (x1 : Mb) : Only [.time, .mb] t { t with time := x0, mb := x1 } := by
  intro p hp; cases p <;> first | rfl | exact absurd (by decide) hp

theorem only_with_time_mb_step {l : List Part} {r : State} (t : State) (x0 : Time) (x1 : Mb) (h : Only l r t) (hm : [.time, .mb] ⊆ l) : Only l r { t with time := x0, mb := x1 } := h.step (only_with_time_mb t x0 x1) hm

theorem only_with_trace (t : State) (x0 : List TraceBuf) : Only [.trace] t { t with trace := x0 } := by
  intro p hp; cases p <;> first | rfl | exact absurd (by decide) hp

theorem only_with_trace_step {l : List Part} {r : State} (t : State) (x0 : List TraceBuf) (h : Only l r t) (hm : [.trace] ⊆ l) : Only l r { t with trace := x0 } := h.step (only_with_trace t x0) hm

theorem only_with_twin (t : State) (x0 : Twin) : Only [.twin] t { t with twin := x0 } := by
  intro p hp; cases p <;> first | rfl | exact absurd (by decide) hp

theorem only_with_twin_step {l : List Part} {r : State} (t : State) (x0 : Twin) (h : Only l r t) (hm : [.twin] ⊆ l) : Only l r { t with twin := x0 } := h.step (only_with_twin t x0) hm

theorem only_with_vent (t : State) (x0 : Vent) : Only [.vent] t { t with vent := x0 } := by
  intro p hp; cases p <;> first | rfl | exact absurd (by decide) hp

theorem only_with_vent_step {l : List Part} {r : State} (t : State) (x0 : Vent) (h : Only l r t) (hm : [.vent] ⊆ l) : Only l r { t with vent := x0 } := h.step (only_with_vent t x0) hm

/-! ### The canonical form -/

theorem Only.wf {l : List Part} {s t : State} (h : Only l s t)
    (hl : Part.regs ∉ l ∧ Part.banks ∉ l ∧ Part.mem ∉ l ∧ Part.vent ∉ l) (hs : Memory.wf s = true) : Memory.wf t = true := by
  have a : t.regs = s.regs := h _ hl.1
  have b : t.banks = s.banks := h _ hl.2.1
  have c : t.mem = s.mem := h _ hl.2.2.1
  have d : t.vent = s.vent := h _ hl.2.2.2
  unfold Memory.wf at *
  rw [a, b, c, d]; exact hs

theorem wf_ite {c : Prop} [Decidable c] {t u : State} (h : Memory.wf t = true) (k : Memory.wf u = true) :
    Memory.wf (if c then t else u) = true := by split; exact h; exact k

theorem wf_ite_fst {β : Type} {c : Prop} [Decidable c] {t u : State × β} (h : Memory.wf t.1 = true) (k : Memory.wf u.1 = true) :
    Memory.wf (if c then t else u).1 = true := by split; exact h; exact k

theorem wf_foldl {α : Type} {s : State} {g : State → α → State} {xs : List α} (hg : ∀ t a, Memory.wf t = true → Memory.wf (g t a) = true)
    (h : Memory.wf s = true) : Memory.wf (xs.foldl g s) = true := by
  induction xs generalizing s with
  | nil => exact h
  | cons a xs ih => exact ih (hg s a h)

theorem wf_foldl_fst {α β : Type} {g : State × β → α → State × β} {xs : List α} {a : State × β}
    (hg : ∀ a x, Memory.wf a.1 = true → Memory.wf (g a x).1 = true) (h : Memory.wf a.1 = true) : Memory.wf (xs.foldl g a).1 = true := by
  induction xs generalizing a with
  | nil => exact h
  | cons x xs ih => exact ih (hg a x h)

theorem wf_of_fst {β : Type} {x : State} {y : β} {e : State × β} (heq : e = (x, y)) (h : Memory.wf e.1 = true) : Memory.wf x = true := by
  subst heq; exact h

theorem eachOf_wf {s : State} {n : Nat} {f : State → Nat → State} (hf : ∀ t a, Memory.wf t = true → Memory.wf (f t a) = true)
    (h : Memory.wf s = true) : Memory.wf (eachOf n f s) = true := wf_foldl hf h

theorem fieldAt_wf {s : State} {d : Path} {p : Nat} {f : State → State} (hf : ∀ t, Memory.wf t = true → Memory.wf (f t) = true)
    (h : Memory.wf s = true) : Memory.wf (fieldAt s d p f) = true := by
  have k := Only.wf (granted_only s p) (by decide) h
  unfold Machine.fieldAt; split
  · exact hf _ k
  · exact k

theorem readAt_wf {s : State} {d : Path} {p : Nat} {f : State → State} (hf : ∀ t, Memory.wf t = true → Memory.wf (f t) = true)
    (h : Memory.wf s = true) : Memory.wf (readAt s d p f) = true := by
  unfold Machine.readAt; split
  · exact hf _ h
  · exact h

theorem onceOnly_wf {s : State} {c : Nat} {f : State → State} (hf : ∀ t, Memory.wf t = true → Memory.wf (f t) = true)
    (h : Memory.wf s = true) : Memory.wf (onceOnly s c f) = true := by
  unfold Machine.onceOnly; split
  · exact h
  · exact hf _ h

theorem wf_iff (s : State) : Memory.wf s = true ↔ kvWf resetWord s.regs = true ∧ kvWf bankDefault s.banks = true ∧
    kvWf noError s.mem.errs = true ∧ kvWf quadDefault s.mem.words = true ∧ kvWf latchDefault s.vent.latch = true := by
  unfold Memory.wf; simp only [Bool.and_eq_true, and_assoc]

theorem wf_with_ain (t : State) (x0 : Ain) (h : Memory.wf t = true) : Memory.wf { t with ain := x0 } = true := by
  rw [wf_iff] at *; dsimp only; exact h

theorem wf_with_bkg (t : State) (x0 : Bkg) (h : Memory.wf t = true) : Memory.wf { t with bkg := x0 } = true := by
  rw [wf_iff] at *; dsimp only; exact h

theorem wf_with_conds (t : State) (x0 : List Nat) (h : Memory.wf t = true) : Memory.wf { t with conds := x0 } = true := by
  rw [wf_iff] at *; dsimp only; exact h

theorem wf_with_dlCal (t : State) (x0 : DlCal) (h : Memory.wf t = true) : Memory.wf { t with dlCal := x0 } = true := by
  rw [wf_iff] at *; dsimp only; exact h

theorem wf_with_dlCal_bkg (t : State) (x0 : DlCal) (x1 : Bkg) (h : Memory.wf t = true) : Memory.wf { t with dlCal := x0, bkg := x1 } = true := by
  rw [wf_iff] at *; dsimp only; exact h

theorem wf_with_fab (t : State) (x0 : Fab) (h : Memory.wf t = true) : Memory.wf { t with fab := x0 } = true := by
  rw [wf_iff] at *; dsimp only; exact h

theorem wf_with_free (t : State) (x0 : Nat) (h : Memory.wf t = true) : Memory.wf { t with free := x0 } = true := by
  rw [wf_iff] at *; dsimp only; exact h

theorem wf_with_gates (t : State) (x0 : List (List (List Word))) (h : Memory.wf t = true) : Memory.wf { t with gates := x0 } = true := by
  rw [wf_iff] at *; dsimp only; exact h

theorem wf_with_heldB (t : State) (x0 : List (Nat × Word)) (h : Memory.wf t = true) : Memory.wf { t with heldB := x0 } = true := by
  rw [wf_iff] at *; dsimp only; exact h

theorem wf_with_heldU (t : State) (x0 : List (Nat × Word)) (h : Memory.wf t = true) : Memory.wf { t with heldU := x0 } = true := by
  rw [wf_iff] at *; dsimp only; exact h

theorem wf_with_hst (t : State) (x0 : Hst) (h : Memory.wf t = true) : Memory.wf { t with hst := x0 } = true := by
  rw [wf_iff] at *; dsimp only; exact h

theorem wf_with_lanePool (t : State) (x0 : LanePool) (h : Memory.wf t = true) : Memory.wf { t with lanePool := x0 } = true := by
  rw [wf_iff] at *; dsimp only; exact h

theorem wf_with_lanes (t : State) (x0 : List LaneSt) (h : Memory.wf t = true) : Memory.wf { t with lanes := x0 } = true := by
  rw [wf_iff] at *; dsimp only; exact h

theorem wf_with_legs (t : State) (x0 : List LegGen) (h : Memory.wf t = true) : Memory.wf { t with legs := x0 } = true := by
  rw [wf_iff] at *; dsimp only; exact h

theorem wf_with_loops (t : State) (x0 : List LoopChan) (h : Memory.wf t = true) : Memory.wf { t with loops := x0 } = true := by
  rw [wf_iff] at *; dsimp only; exact h

theorem wf_with_mb (t : State) (x0 : Mb) (h : Memory.wf t = true) : Memory.wf { t with mb := x0 } = true := by
  rw [wf_iff] at *; dsimp only; exact h

theorem wf_with_mb_scn (t : State) (x0 : Mb) (x1 : Scn) (h : Memory.wf t = true) : Memory.wf { t with mb := x0, scn := x1 } = true := by
  rw [wf_iff] at *; dsimp only; exact h

theorem wf_with_mem (t : State) (x0 : Mem) (he : x0.errs = t.mem.errs) (hw : x0.words = t.mem.words) (h : Memory.wf t = true) : Memory.wf { t with mem := x0 } = true := by
  rw [wf_iff] at *; dsimp only; rw [he, hw]; exact h

theorem wf_with_pending (t : State) (x0 : List Instr) (h : Memory.wf t = true) : Memory.wf { t with pending := x0 } = true := by
  rw [wf_iff] at *; dsimp only; exact h

theorem wf_with_pins (t : State) (x0 : Pins) (h : Memory.wf t = true) : Memory.wf { t with pins := x0 } = true := by
  rw [wf_iff] at *; dsimp only; exact h

theorem wf_with_pwm (t : State) (x0 : List PwmChan) (h : Memory.wf t = true) : Memory.wf { t with pwm := x0 } = true := by
  rw [wf_iff] at *; dsimp only; exact h

theorem wf_with_pwm_loops_lanePool (t : State) (x0 : List PwmChan) (x1 : List LoopChan) (x2 : LanePool) (h : Memory.wf t = true) : Memory.wf { t with pwm := x0, loops := x1, lanePool := x2 } = true := by
  rw [wf_iff] at *; dsimp only; exact h

theorem wf_with_rdata (t : State) (x0 : Word) (h : Memory.wf t = true) : Memory.wf { t with rdata := x0 } = true := by
  rw [wf_iff] at *; dsimp only; exact h

theorem wf_with_rdata_scn (t : State) (x0 : Word) (x1 : Scn) (h : Memory.wf t = true) : Memory.wf { t with rdata := x0, scn := x1 } = true := by
  rw [wf_iff] at *; dsimp only; exact h

theorem wf_with_rings (t : State) (x0 : List RingSt) (h : Memory.wf t = true) : Memory.wf { t with rings := x0 } = true := by
  rw [wf_iff] at *; dsimp only; exact h

theorem wf_with_safe (t : State) (x0 : Safe) (h : Memory.wf t = true) : Memory.wf { t with safe := x0 } = true := by
  rw [wf_iff] at *; dsimp only; exact h

theorem wf_with_scn (t : State) (x0 : Scn) (h : Memory.wf t = true) : Memory.wf { t with scn := x0 } = true := by
  rw [wf_iff] at *; dsimp only; exact h

theorem wf_with_sense (t : State) (x0 : Sense) (h : Memory.wf t = true) : Memory.wf { t with sense := x0 } = true := by
  rw [wf_iff] at *; dsimp only; exact h

theorem wf_with_str (t : State) (x0 : Str) (h : Memory.wf t = true) : Memory.wf { t with str := x0 } = true := by
  rw [wf_iff] at *; dsimp only; exact h

theorem wf_with_sys (t : State) (x0 : Sys) (h : Memory.wf t = true) : Memory.wf { t with sys := x0 } = true := by
  rw [wf_iff] at *; dsimp only; exact h

theorem wf_with_time (t : State) (x0 : Time) (h : Memory.wf t = true) : Memory.wf { t with time := x0 } = true := by
  rw [wf_iff] at *; dsimp only; exact h

theorem wf_with_time_mb (t : State) (x0 : Time) (x1 : Mb) (h : Memory.wf t = true) : Memory.wf { t with time := x0, mb := x1 } = true := by
  rw [wf_iff] at *; dsimp only; exact h

theorem wf_with_trace (t : State) (x0 : List TraceBuf) (h : Memory.wf t = true) : Memory.wf { t with trace := x0 } = true := by
  rw [wf_iff] at *; dsimp only; exact h

theorem wf_with_twin (t : State) (x0 : Twin) (h : Memory.wf t = true) : Memory.wf { t with twin := x0 } = true := by
  rw [wf_iff] at *; dsimp only; exact h

theorem wf_with_vent (t : State) (x0 : Vent) (hl : x0.latch = t.vent.latch) (h : Memory.wf t = true) : Memory.wf { t with vent := x0 } = true := by
  rw [wf_iff] at *; dsimp only; rw [hl]; exact h

end Sys2Proof.Machine
end

