-- ==== Sys2Proof/Laws/FrameOps.lean ====
section
/-! SUPPORT. Laws/FrameOps.lean: what the operations of Machine/Ops.lean may change (f_only; f_step after what went before), and
that each keeps the memories' canonical form (f_wf). -/

set_option Elab.async false
set_option linter.all false

namespace Sys2Proof.Machine

theorem State.wr_only (s : State) (p : Nat) (v : Word) : Only [.regs] s (State.wr s p v) := by
  unfold State.wr
  try dsimp only
  repeat' (first | (with_reducible exact Only.refl _ _) | (with_reducible apply Only.ite) | (with_reducible apply Only.ite_fst) | (with_reducible apply Only.foldl (hg := fun _ _ => ?_)) | (with_reducible apply Only.foldl_fst (hg := fun _ _ => ?_)) | split | dsimp only | (with_reducible apply only_with_regs_step (hm := by decide)))
theorem State.wr_step {l₀ : List Part} {s₀ : State} (s : State) (p : Nat) (v : Word) (h₀ : Only l₀ s₀ s) (hm : [.regs] ⊆ l₀) : Only l₀ s₀ (State.wr s p v) :=
  h₀.step (State.wr_only s p v) hm

theorem State.set_only (s : State) (f : Fld) (n : Nat) : Only [.regs] s (State.set s f n) := by
  unfold State.set
  try dsimp only
  repeat' (first | (with_reducible exact Only.refl _ _) | (with_reducible apply Only.ite) | (with_reducible apply Only.ite_fst) | (with_reducible apply State.wr_step (hm := by decide)) | (with_reducible apply Only.foldl (hg := fun _ _ => ?_)) | (with_reducible apply Only.foldl_fst (hg := fun _ _ => ?_)) | split | dsimp only)
theorem State.set_step {l₀ : List Part} {s₀ : State} (s : State) (f : Fld) (n : Nat) (h₀ : Only l₀ s₀ s) (hm : [.regs] ⊆ l₀) : Only l₀ s₀ (State.set s f n) :=
  h₀.step (State.set_only s f n) hm

theorem State.setB_only (s : State) (f : Fld) (b : Bool) : Only [.regs] s (State.setB s f b) := by
  unfold State.setB
  try dsimp only
  repeat' (first | (with_reducible exact Only.refl _ _) | (with_reducible apply Only.ite) | (with_reducible apply Only.ite_fst) | (with_reducible apply State.set_step (hm := by decide)) | (with_reducible apply Only.foldl (hg := fun _ _ => ?_)) | (with_reducible apply Only.foldl_fst (hg := fun _ _ => ?_)) | split | dsimp only)
theorem State.setB_step {l₀ : List Part} {s₀ : State} (s : State) (f : Fld) (b : Bool) (h₀ : Only l₀ s₀ s) (hm : [.regs] ⊆ l₀) : Only l₀ s₀ (State.setB s f b) :=
  h₀.step (State.setB_only s f b) hm

theorem State.putBank_only (s : State) (k : Nat) (v : Word) : Only [.banks] s (State.putBank s k v) := by
  unfold State.putBank
  try dsimp only
  repeat' (first | (with_reducible exact Only.refl _ _) | (with_reducible apply Only.ite) | (with_reducible apply Only.ite_fst) | (with_reducible apply Only.foldl (hg := fun _ _ => ?_)) | (with_reducible apply Only.foldl_fst (hg := fun _ _ => ?_)) | split | dsimp only | (with_reducible apply only_with_banks_step (hm := by decide)))
theorem State.putBank_step {l₀ : List Part} {s₀ : State} (s : State) (k : Nat) (v : Word) (h₀ : Only l₀ s₀ s) (hm : [.banks] ⊆ l₀) : Only l₀ s₀ (State.putBank s k v) :=
  h₀.step (State.putBank_only s k v) hm

theorem State.used_only (s : State) : Only [.free] s (State.used s) := by
  unfold State.used
  try dsimp only
  repeat' (first | (with_reducible exact Only.refl _ _) | (with_reducible apply Only.ite) | (with_reducible apply Only.ite_fst) | (with_reducible apply Only.foldl (hg := fun _ _ => ?_)) | (with_reducible apply Only.foldl_fst (hg := fun _ _ => ?_)) | split | dsimp only | (with_reducible apply only_with_free_step (hm := by decide)))
theorem State.used_step {l₀ : List Part} {s₀ : State} (s : State) (h₀ : Only l₀ s₀ s) (hm : [.free] ⊆ l₀) : Only l₀ s₀ (State.used s) :=
  h₀.step (State.used_only s) hm

theorem State.setFree_only (s : State) (f : Fld) : Only [.regs, .free] s (State.setFree s f) := by
  unfold State.setFree
  try dsimp only
  repeat' (first | (with_reducible exact Only.refl _ _) | (with_reducible apply Only.ite) | (with_reducible apply Only.ite_fst) | (with_reducible apply State.set_step (hm := by decide)) | (with_reducible apply State.used_step (hm := by decide)) | (with_reducible apply Only.foldl (hg := fun _ _ => ?_)) | (with_reducible apply Only.foldl_fst (hg := fun _ _ => ?_)) | split | dsimp only)
theorem State.setFree_step {l₀ : List Part} {s₀ : State} (s : State) (f : Fld) (h₀ : Only l₀ s₀ s) (hm : [.regs, .free] ⊆ l₀) : Only l₀ s₀ (State.setFree s f) :=
  h₀.step (State.setFree_only s f) hm

theorem State.answer_only (s : State) (v : Word) : Only [.rdata] s (State.answer s v) := by
  unfold State.answer
  try dsimp only
  repeat' (first | (with_reducible exact Only.refl _ _) | (with_reducible apply Only.ite) | (with_reducible apply Only.ite_fst) | (with_reducible apply Only.foldl (hg := fun _ _ => ?_)) | (with_reducible apply Only.foldl_fst (hg := fun _ _ => ?_)) | split | dsimp only | (with_reducible apply only_with_rdata_step (hm := by decide)))
theorem State.answer_step {l₀ : List Part} {s₀ : State} (s : State) (v : Word) (h₀ : Only l₀ s₀ s) (hm : [.rdata] ⊆ l₀) : Only l₀ s₀ (State.answer s v) :=
  h₀.step (State.answer_only s v) hm

theorem storeCoded_only (s : State) (p : Nat) (v : Word) : Only [.regs, .heldU, .heldB] s (storeCoded s p v) := by
  unfold storeCoded
  try dsimp only
  repeat' (first | (with_reducible exact Only.refl _ _) | (with_reducible apply Only.ite) | (with_reducible apply Only.ite_fst) | (with_reducible apply State.wr_step (hm := by decide)) | (with_reducible apply Only.foldl (hg := fun _ _ => ?_)) | (with_reducible apply Only.foldl_fst (hg := fun _ _ => ?_)) | split | dsimp only | (with_reducible apply only_with_heldU_step (hm := by decide)) | (with_reducible apply only_with_heldB_step (hm := by decide)))
theorem storeCoded_step {l₀ : List Part} {s₀ : State} (s : State) (p : Nat) (v : Word) (h₀ : Only l₀ s₀ s) (hm : [.regs, .heldU, .heldB] ⊆ l₀) : Only l₀ s₀ (storeCoded s p v) :=
  h₀.step (storeCoded_only s p v) hm

/-! ### The canonical form -/

theorem State.wr_wf (s : State) (p : Nat) (v : Word) (h₀ : Memory.wf s = true) : Memory.wf (State.wr s p v) = true := by
  rw [wf_iff] at *; exact ⟨kvWf_kvPut _ _ _ _ h₀.1, h₀.2⟩

theorem State.set_wf (s : State) (f : Fld) (n : Nat) (h₀ : Memory.wf s = true) : Memory.wf (State.set s f n) = true := by
  unfold State.set
  try dsimp only
  repeat' (first | (with_reducible assumption) | (with_reducible apply wf_ite) | (with_reducible apply wf_ite_fst) | (with_reducible apply State.wr_wf) | (with_reducible apply wf_foldl (hg := fun _ _ _ => ?_)) | (with_reducible apply wf_foldl_fst (hg := fun _ _ _ => ?_)) | split | dsimp only)

theorem State.setB_wf (s : State) (f : Fld) (b : Bool) (h₀ : Memory.wf s = true) : Memory.wf (State.setB s f b) = true := by
  unfold State.setB
  try dsimp only
  repeat' (first | (with_reducible assumption) | (with_reducible apply wf_ite) | (with_reducible apply wf_ite_fst) | (with_reducible apply State.set_wf) | (with_reducible apply wf_foldl (hg := fun _ _ _ => ?_)) | (with_reducible apply wf_foldl_fst (hg := fun _ _ _ => ?_)) | split | dsimp only)

theorem State.putBank_wf (s : State) (k : Nat) (v : Word) (h₀ : Memory.wf s = true) : Memory.wf (State.putBank s k v) = true := by
  rw [wf_iff] at *; exact ⟨h₀.1, kvWf_kvPut _ _ _ _ h₀.2.1, h₀.2.2⟩

theorem State.used_wf (s : State) (h₀ : Memory.wf s = true) : Memory.wf (State.used s) = true :=
  Only.wf (State.used_only s) (by decide) h₀

theorem State.setFree_wf (s : State) (f : Fld) (h₀ : Memory.wf s = true) : Memory.wf (State.setFree s f) = true := by
  unfold State.setFree
  try dsimp only
  repeat' (first | (with_reducible assumption) | (with_reducible apply wf_ite) | (with_reducible apply wf_ite_fst) | (with_reducible apply State.set_wf) | (with_reducible apply State.used_wf) | (with_reducible apply wf_foldl (hg := fun _ _ _ => ?_)) | (with_reducible apply wf_foldl_fst (hg := fun _ _ _ => ?_)) | split | dsimp only)

theorem State.answer_wf (s : State) (v : Word) (h₀ : Memory.wf s = true) : Memory.wf (State.answer s v) = true :=
  Only.wf (State.answer_only s v) (by decide) h₀

theorem storeCoded_wf (s : State) (p : Nat) (v : Word) (h₀ : Memory.wf s = true) : Memory.wf (storeCoded s p v) = true := by
  unfold storeCoded
  try dsimp only
  repeat' (first | (with_reducible assumption) | (with_reducible apply wf_ite) | (with_reducible apply wf_ite_fst) | (with_reducible apply State.wr_wf) | (with_reducible apply wf_foldl (hg := fun _ _ _ => ?_)) | (with_reducible apply wf_foldl_fst (hg := fun _ _ _ => ?_)) | split | dsimp only | (with_reducible apply wf_with_heldU) | (with_reducible apply wf_with_heldB))

end Sys2Proof.Machine
end

