-- ==== Sys2Proof/Laws/FrameFlags.lean ====
section
/-! SUPPORT. Laws/FrameFlags.lean: what the operations of Machine/Flags.lean may change (f_only; f_step after what went before), and
that each keeps the memories' canonical form (f_wf). -/

set_option Elab.async false
set_option linter.all false

namespace Sys2Proof.Machine

theorem State.raise_only (s : State) (g : Flag) : Only [.regs] s (State.raise s g) := by
  unfold State.raise
  try dsimp only
  repeat' (first | (with_reducible exact Only.refl _ _) | (with_reducible apply Only.ite) | (with_reducible apply Only.ite_fst) | (with_reducible apply State.set_step (hm := by decide)) | (with_reducible apply Only.foldl (hg := fun _ _ => ?_)) | (with_reducible apply Only.foldl_fst (hg := fun _ _ => ?_)) | split | dsimp only)
theorem State.raise_step {l₀ : List Part} {s₀ : State} (s : State) (g : Flag) (h₀ : Only l₀ s₀ s) (hm : [.regs] ⊆ l₀) : Only l₀ s₀ (State.raise s g) :=
  h₀.step (State.raise_only s g) hm

theorem State.raiseN_only (s : State) (g : Flag) (n : Nat) : Only [.regs] s (State.raiseN s g n) := by
  unfold State.raiseN
  try dsimp only
  repeat' (first | (with_reducible exact Only.refl _ _) | (with_reducible apply Only.ite) | (with_reducible apply Only.ite_fst) | (with_reducible apply State.set_step (hm := by decide)) | (with_reducible apply Only.foldl (hg := fun _ _ => ?_)) | (with_reducible apply Only.foldl_fst (hg := fun _ _ => ?_)) | split | dsimp only)
theorem State.raiseN_step {l₀ : List Part} {s₀ : State} (s : State) (g : Flag) (n : Nat) (h₀ : Only l₀ s₀ s) (hm : [.regs] ⊆ l₀) : Only l₀ s₀ (State.raiseN s g n) :=
  h₀.step (State.raiseN_only s g n) hm

theorem State.cond_only (s : State) (g : Flag) (present : Bool) : Only [.regs, .conds] s (State.cond s g present) := by
  unfold State.cond
  try dsimp only
  repeat' (first | (with_reducible exact Only.refl _ _) | (with_reducible apply Only.ite) | (with_reducible apply Only.ite_fst) | (with_reducible apply State.raise_step (hm := by decide)) | (with_reducible apply Only.foldl (hg := fun _ _ => ?_)) | (with_reducible apply Only.foldl_fst (hg := fun _ _ => ?_)) | split | dsimp only | (with_reducible apply only_with_conds_step (hm := by decide)))
theorem State.cond_step {l₀ : List Part} {s₀ : State} (s : State) (g : Flag) (present : Bool) (h₀ : Only l₀ s₀ s) (hm : [.regs, .conds] ⊆ l₀) : Only l₀ s₀ (State.cond s g present) :=
  h₀.step (State.cond_only s g present) hm

theorem State.raiseIf_only (s : State) (b : Bool) (g : Flag) : Only [.regs] s (State.raiseIf s b g) := by
  unfold State.raiseIf
  try dsimp only
  repeat' (first | (with_reducible exact Only.refl _ _) | (with_reducible apply Only.ite) | (with_reducible apply Only.ite_fst) | (with_reducible apply State.raise_step (hm := by decide)) | (with_reducible apply Only.foldl (hg := fun _ _ => ?_)) | (with_reducible apply Only.foldl_fst (hg := fun _ _ => ?_)) | split | dsimp only)
theorem State.raiseIf_step {l₀ : List Part} {s₀ : State} (s : State) (b : Bool) (g : Flag) (h₀ : Only l₀ s₀ s) (hm : [.regs] ⊆ l₀) : Only l₀ s₀ (State.raiseIf s b g) :=
  h₀.step (State.raiseIf_only s b g) hm

theorem w1cClear_only (s : State) (p : Nat) (mask hwset : Word) : Only [.regs] s (w1cClear s p mask hwset) := by
  unfold w1cClear
  try dsimp only
  repeat' (first | (with_reducible exact Only.refl _ _) | (with_reducible apply Only.ite) | (with_reducible apply Only.ite_fst) | (with_reducible apply State.raise_step (hm := by decide)) | (with_reducible apply State.wr_step (hm := by decide)) | (with_reducible apply Only.foldl (hg := fun _ _ => ?_)) | (with_reducible apply Only.foldl_fst (hg := fun _ _ => ?_)) | split | dsimp only)
theorem w1cClear_step {l₀ : List Part} {s₀ : State} (s : State) (p : Nat) (mask hwset : Word) (h₀ : Only l₀ s₀ s) (hm : [.regs] ⊆ l₀) : Only l₀ s₀ (w1cClear s p mask hwset) :=
  h₀.step (w1cClear_only s p mask hwset) hm

/-! ### The canonical form -/

theorem State.raise_wf (s : State) (g : Flag) (h₀ : Memory.wf s = true) : Memory.wf (State.raise s g) = true := by
  unfold State.raise
  try dsimp only
  repeat' (first | (with_reducible assumption) | (with_reducible apply wf_ite) | (with_reducible apply wf_ite_fst) | (with_reducible apply State.set_wf) | (with_reducible apply wf_foldl (hg := fun _ _ _ => ?_)) | (with_reducible apply wf_foldl_fst (hg := fun _ _ _ => ?_)) | split | dsimp only)

theorem State.raiseN_wf (s : State) (g : Flag) (n : Nat) (h₀ : Memory.wf s = true) : Memory.wf (State.raiseN s g n) = true := by
  unfold State.raiseN
  try dsimp only
  repeat' (first | (with_reducible assumption) | (with_reducible apply wf_ite) | (with_reducible apply wf_ite_fst) | (with_reducible apply State.set_wf) | (with_reducible apply wf_foldl (hg := fun _ _ _ => ?_)) | (with_reducible apply wf_foldl_fst (hg := fun _ _ _ => ?_)) | split | dsimp only)

theorem State.cond_wf (s : State) (g : Flag) (present : Bool) (h₀ : Memory.wf s = true) : Memory.wf (State.cond s g present) = true := by
  unfold State.cond
  try dsimp only
  repeat' (first | (with_reducible assumption) | (with_reducible apply wf_ite) | (with_reducible apply wf_ite_fst) | (with_reducible apply State.raise_wf) | (with_reducible apply wf_foldl (hg := fun _ _ _ => ?_)) | (with_reducible apply wf_foldl_fst (hg := fun _ _ _ => ?_)) | split | dsimp only | (with_reducible apply wf_with_conds))

theorem State.raiseIf_wf (s : State) (b : Bool) (g : Flag) (h₀ : Memory.wf s = true) : Memory.wf (State.raiseIf s b g) = true := by
  unfold State.raiseIf
  try dsimp only
  repeat' (first | (with_reducible assumption) | (with_reducible apply wf_ite) | (with_reducible apply wf_ite_fst) | (with_reducible apply State.raise_wf) | (with_reducible apply wf_foldl (hg := fun _ _ _ => ?_)) | (with_reducible apply wf_foldl_fst (hg := fun _ _ _ => ?_)) | split | dsimp only)

theorem w1cClear_wf (s : State) (p : Nat) (mask hwset : Word) (h₀ : Memory.wf s = true) : Memory.wf (w1cClear s p mask hwset) = true := by
  unfold w1cClear
  try dsimp only
  repeat' (first | (with_reducible assumption) | (with_reducible apply wf_ite) | (with_reducible apply wf_ite_fst) | (with_reducible apply State.raise_wf) | (with_reducible apply State.wr_wf) | (with_reducible apply wf_foldl (hg := fun _ _ _ => ?_)) | (with_reducible apply wf_foldl_fst (hg := fun _ _ _ => ?_)) | split | dsimp only)

end Sys2Proof.Machine
end

