-- ==== Sys2Proof/Laws/FrameGates.lean ====
section
/-! SUPPORT. Laws/FrameGates.lean: what the operations of Machine/Gates.lean may change (f_only; f_step after what went before), and
that each keeps the memories' canonical form (f_wf). -/

set_option Elab.async false
set_option linter.all false

namespace Sys2Proof.Machine

theorem gatePush_only (s : State) (g : Gate) (payload : List Word) : Only [.regs, .gates] s (gatePush s g payload) := by
  unfold gatePush
  try dsimp only
  repeat' (first | (with_reducible exact Only.refl _ _) | (with_reducible apply Only.ite) | (with_reducible apply Only.ite_fst) | (with_reducible apply State.raiseN_step (hm := by decide)) | (with_reducible apply Only.foldl (hg := fun _ _ => ?_)) | (with_reducible apply Only.foldl_fst (hg := fun _ _ => ?_)) | split | dsimp only | (with_reducible apply only_with_gates_step (hm := by decide)))
theorem gatePush_step {l₀ : List Part} {s₀ : State} (s : State) (g : Gate) (payload : List Word) (h₀ : Only l₀ s₀ s) (hm : [.regs, .gates] ⊆ l₀) : Only l₀ s₀ (gatePush s g payload) :=
  h₀.step (gatePush_only s g payload) hm

theorem gatePop_only (s : State) (g : Gate) : Only [.gates] s (gatePop s g) := by
  unfold gatePop
  try dsimp only
  repeat' (first | (with_reducible exact Only.refl _ _) | (with_reducible apply Only.ite) | (with_reducible apply Only.ite_fst) | (with_reducible apply Only.foldl (hg := fun _ _ => ?_)) | (with_reducible apply Only.foldl_fst (hg := fun _ _ => ?_)) | split | dsimp only | (with_reducible apply only_with_gates_step (hm := by decide)))
theorem gatePop_step {l₀ : List Part} {s₀ : State} (s : State) (g : Gate) (h₀ : Only l₀ s₀ s) (hm : [.gates] ⊆ l₀) : Only l₀ s₀ (gatePop s g) :=
  h₀.step (gatePop_only s g) hm

theorem queueRecord_only (s : State) (r : LogRec) : Only [.regs, .bkg] s (queueRecord s r) := by
  unfold queueRecord
  try dsimp only
  repeat' (first | (with_reducible exact Only.refl _ _) | (with_reducible apply Only.ite) | (with_reducible apply Only.ite_fst) | (with_reducible apply State.raise_step (hm := by decide)) | (with_reducible apply Only.foldl (hg := fun _ _ => ?_)) | (with_reducible apply Only.foldl_fst (hg := fun _ _ => ?_)) | split | dsimp only | (with_reducible apply only_with_bkg_step (hm := by decide)))
theorem queueRecord_step {l₀ : List Part} {s₀ : State} (s : State) (r : LogRec) (h₀ : Only l₀ s₀ s) (hm : [.regs, .bkg] ⊆ l₀) : Only l₀ s₀ (queueRecord s r) :=
  h₀.step (queueRecord_only s r) hm

theorem queueRetire_only (s : State) (kind n : Nat) : Only [.regs, .bkg] s (queueRetire s kind n) := by
  unfold queueRetire
  try dsimp only
  repeat' (first | (with_reducible exact Only.refl _ _) | (with_reducible apply Only.ite) | (with_reducible apply Only.ite_fst) | (with_reducible apply queueRecord_step (hm := by decide)) | (with_reducible apply Only.foldl (hg := fun _ _ => ?_)) | (with_reducible apply Only.foldl_fst (hg := fun _ _ => ?_)) | split | dsimp only)
theorem queueRetire_step {l₀ : List Part} {s₀ : State} (s : State) (kind n : Nat) (h₀ : Only l₀ s₀ s) (hm : [.regs, .bkg] ⊆ l₀) : Only l₀ s₀ (queueRetire s kind n) :=
  h₀.step (queueRetire_only s kind n) hm

/-! ### The canonical form -/

theorem gatePush_wf (s : State) (g : Gate) (payload : List Word) (h₀ : Memory.wf s = true) : Memory.wf (gatePush s g payload) = true := by
  unfold gatePush
  try dsimp only
  repeat' (first | (with_reducible assumption) | (with_reducible apply wf_ite) | (with_reducible apply wf_ite_fst) | (with_reducible apply State.raiseN_wf) | (with_reducible apply wf_foldl (hg := fun _ _ _ => ?_)) | (with_reducible apply wf_foldl_fst (hg := fun _ _ _ => ?_)) | split | dsimp only | (with_reducible apply wf_with_gates))

theorem gatePop_wf (s : State) (g : Gate) (h₀ : Memory.wf s = true) : Memory.wf (gatePop s g) = true :=
  Only.wf (gatePop_only s g) (by decide) h₀

theorem queueRecord_wf (s : State) (r : LogRec) (h₀ : Memory.wf s = true) : Memory.wf (queueRecord s r) = true := by
  unfold queueRecord
  try dsimp only
  repeat' (first | (with_reducible assumption) | (with_reducible apply wf_ite) | (with_reducible apply wf_ite_fst) | (with_reducible apply State.raise_wf) | (with_reducible apply wf_foldl (hg := fun _ _ _ => ?_)) | (with_reducible apply wf_foldl_fst (hg := fun _ _ _ => ?_)) | split | dsimp only | (with_reducible apply wf_with_bkg))

theorem queueRetire_wf (s : State) (kind n : Nat) (h₀ : Memory.wf s = true) : Memory.wf (queueRetire s kind n) = true := by
  unfold queueRetire
  try dsimp only
  repeat' (first | (with_reducible assumption) | (with_reducible apply wf_ite) | (with_reducible apply wf_ite_fst) | (with_reducible apply queueRecord_wf) | (with_reducible apply wf_foldl (hg := fun _ _ _ => ?_)) | (with_reducible apply wf_foldl_fst (hg := fun _ _ _ => ?_)) | split | dsimp only)

end Sys2Proof.Machine
end

