-- ==== Sys2Proof/Laws/FrameAudio.lean ====
section
/-! SUPPORT. Laws/FrameAudio.lean: what the operations of Machine/Audio.lean may change (f_only; f_step after what went before), and
that each keeps the memories' canonical form (f_wf). -/

set_option Elab.async false
set_option linter.all false

namespace Sys2Proof.Machine

theorem State.ainUp_only (s : State) (f : Ain → Ain) : Only [.ain] s (State.ainUp s f) := by
  unfold State.ainUp
  try dsimp only
  repeat' (first | (with_reducible exact Only.refl _ _) | (with_reducible apply Only.ite) | (with_reducible apply Only.ite_fst) | (with_reducible apply Only.foldl (hg := fun _ _ => ?_)) | (with_reducible apply Only.foldl_fst (hg := fun _ _ => ?_)) | split | dsimp only | (with_reducible apply only_with_ain_step (hm := by decide)))
theorem State.ainUp_step {l₀ : List Part} {s₀ : State} (s : State) (f : Ain → Ain) (h₀ : Only l₀ s₀ s) (hm : [.ain] ⊆ l₀) : Only l₀ s₀ (State.ainUp s f) :=
  h₀.step (State.ainUp_only s f) hm

theorem State.ptpUp_only (s : State) (f : Ptp → Ptp) : Only [.ain] s (State.ptpUp s f) := by
  unfold State.ptpUp
  try dsimp only
  repeat' (first | (with_reducible exact Only.refl _ _) | (with_reducible apply Only.ite) | (with_reducible apply Only.ite_fst) | (with_reducible apply State.ainUp_step (hm := by decide)) | (with_reducible apply Only.foldl (hg := fun _ _ => ?_)) | (with_reducible apply Only.foldl_fst (hg := fun _ _ => ?_)) | split | dsimp only)
theorem State.ptpUp_step {l₀ : List Part} {s₀ : State} (s : State) (f : Ptp → Ptp) (h₀ : Only l₀ s₀ s) (hm : [.ain] ⊆ l₀) : Only l₀ s₀ (State.ptpUp s f) :=
  h₀.step (State.ptpUp_only s f) hm

theorem State.streamUp_only (s : State) (i : Nat) (f : Stream → Stream) : Only [.ain] s (State.streamUp s i f) := by
  unfold State.streamUp
  try dsimp only
  repeat' (first | (with_reducible exact Only.refl _ _) | (with_reducible apply Only.ite) | (with_reducible apply Only.ite_fst) | (with_reducible apply State.ainUp_step (hm := by decide)) | (with_reducible apply Only.foldl (hg := fun _ _ => ?_)) | (with_reducible apply Only.foldl_fst (hg := fun _ _ => ?_)) | split | dsimp only)
theorem State.streamUp_step {l₀ : List Part} {s₀ : State} (s : State) (i : Nat) (f : Stream → Stream) (h₀ : Only l₀ s₀ s) (hm : [.ain] ⊆ l₀) : Only l₀ s₀ (State.streamUp s i f) :=
  h₀.step (State.streamUp_only s i f) hm

theorem State.tdmUp_only (s : State) (i : Nat) (f : Tdm → Tdm) : Only [.ain] s (State.tdmUp s i f) := by
  unfold State.tdmUp
  try dsimp only
  repeat' (first | (with_reducible exact Only.refl _ _) | (with_reducible apply Only.ite) | (with_reducible apply Only.ite_fst) | (with_reducible apply State.ainUp_step (hm := by decide)) | (with_reducible apply Only.foldl (hg := fun _ _ => ?_)) | (with_reducible apply Only.foldl_fst (hg := fun _ _ => ?_)) | split | dsimp only)
theorem State.tdmUp_step {l₀ : List Part} {s₀ : State} (s : State) (i : Nat) (f : Tdm → Tdm) (h₀ : Only l₀ s₀ s) (hm : [.ain] ⊆ l₀) : Only l₀ s₀ (State.tdmUp s i f) :=
  h₀.step (State.tdmUp_only s i f) hm

theorem State.aesUp_only (s : State) (i : Nat) (f : Aes3 → Aes3) : Only [.ain] s (State.aesUp s i f) := by
  unfold State.aesUp
  try dsimp only
  repeat' (first | (with_reducible exact Only.refl _ _) | (with_reducible apply Only.ite) | (with_reducible apply Only.ite_fst) | (with_reducible apply State.ainUp_step (hm := by decide)) | (with_reducible apply Only.foldl (hg := fun _ _ => ?_)) | (with_reducible apply Only.foldl_fst (hg := fun _ _ => ?_)) | split | dsimp only)
theorem State.aesUp_step {l₀ : List Part} {s₀ : State} (s : State) (i : Nat) (f : Aes3 → Aes3) (h₀ : Only l₀ s₀ s) (hm : [.ain] ⊆ l₀) : Only l₀ s₀ (State.aesUp s i f) :=
  h₀.step (State.aesUp_only s i f) hm

theorem State.asrcUp_only (s : State) (i : Nat) (f : Asrc → Asrc) : Only [.ain] s (State.asrcUp s i f) := by
  unfold State.asrcUp
  try dsimp only
  repeat' (first | (with_reducible exact Only.refl _ _) | (with_reducible apply Only.ite) | (with_reducible apply Only.ite_fst) | (with_reducible apply State.ainUp_step (hm := by decide)) | (with_reducible apply Only.foldl (hg := fun _ _ => ?_)) | (with_reducible apply Only.foldl_fst (hg := fun _ _ => ?_)) | split | dsimp only)
theorem State.asrcUp_step {l₀ : List Part} {s₀ : State} (s : State) (i : Nat) (f : Asrc → Asrc) (h₀ : Only l₀ s₀ s) (hm : [.ain] ⊆ l₀) : Only l₀ s₀ (State.asrcUp s i f) :=
  h₀.step (State.asrcUp_only s i f) hm

theorem ptpEnter_only (s : State) (st : Nat) : Only [.regs, .conds, .ain] s (ptpEnter s st) := by
  unfold ptpEnter
  try dsimp only
  repeat' (first | (with_reducible exact Only.refl _ _) | (with_reducible apply Only.ite) | (with_reducible apply Only.ite_fst) | (with_reducible apply State.set_step (hm := by decide)) | (with_reducible apply State.ptpUp_step (hm := by decide)) | (with_reducible apply State.cond_step (hm := by decide)) | (with_reducible apply Only.foldl (hg := fun _ _ => ?_)) | (with_reducible apply Only.foldl_fst (hg := fun _ _ => ?_)) | split | dsimp only)
theorem ptpEnter_step {l₀ : List Part} {s₀ : State} (s : State) (st : Nat) (h₀ : Only l₀ s₀ s) (hm : [.regs, .conds, .ain] ⊆ l₀) : Only l₀ s₀ (ptpEnter s st) :=
  h₀.step (ptpEnter_only s st) hm

theorem ptpSteer_only (s : State) : Only [.regs, .free] s (ptpSteer s) := by
  unfold ptpSteer
  try dsimp only
  repeat' (first | (with_reducible exact Only.refl _ _) | (with_reducible apply Only.ite) | (with_reducible apply Only.ite_fst) | (with_reducible apply State.set_step (hm := by decide)) | (with_reducible apply State.used_step (hm := by decide)) | (with_reducible apply Only.foldl (hg := fun _ _ => ?_)) | (with_reducible apply Only.foldl_fst (hg := fun _ _ => ?_)) | split | dsimp only)
theorem ptpSteer_step {l₀ : List Part} {s₀ : State} (s : State) (h₀ : Only l₀ s₀ s) (hm : [.regs, .free] ⊆ l₀) : Only l₀ s₀ (ptpSteer s) :=
  h₀.step (ptpSteer_only s) hm

theorem ptpSelect_only (s : State) : Only [.regs, .conds, .ain] s (ptpSelect s) := by
  unfold ptpSelect
  try dsimp only
  repeat' (first | (with_reducible exact Only.refl _ _) | (with_reducible apply Only.ite) | (with_reducible apply Only.ite_fst) | (with_reducible apply State.wr_step (hm := by decide)) | (with_reducible apply State.set_step (hm := by decide)) | (with_reducible apply State.ptpUp_step (hm := by decide)) | (with_reducible apply ptpEnter_step (hm := by decide)) | (with_reducible apply Only.foldl (hg := fun _ _ => ?_)) | (with_reducible apply Only.foldl_fst (hg := fun _ _ => ?_)) | split | dsimp only)
theorem ptpSelect_step {l₀ : List Part} {s₀ : State} (s : State) (h₀ : Only l₀ s₀ s) (hm : [.regs, .conds, .ain] ⊆ l₀) : Only l₀ s₀ (ptpSelect s) :=
  h₀.step (ptpSelect_only s) hm

theorem ptpForget_only (s : State) : Only [.ain] s (ptpForget s) := by
  unfold ptpForget
  try dsimp only
  repeat' (first | (with_reducible exact Only.refl _ _) | (with_reducible apply Only.ite) | (with_reducible apply Only.ite_fst) | (with_reducible apply State.ptpUp_step (hm := by decide)) | (with_reducible apply Only.foldl (hg := fun _ _ => ?_)) | (with_reducible apply Only.foldl_fst (hg := fun _ _ => ?_)) | split | dsimp only)
theorem ptpForget_step {l₀ : List Part} {s₀ : State} (s : State) (h₀ : Only l₀ s₀ s) (hm : [.ain] ⊆ l₀) : Only l₀ s₀ (ptpForget s) :=
  h₀.step (ptpForget_only s) hm

theorem ptpConfigure_only (s : State) : Only [.regs, .conds, .ain] s (ptpConfigure s) := by
  unfold ptpConfigure
  try dsimp only
  repeat' (first | (with_reducible exact Only.refl _ _) | (with_reducible apply Only.ite) | (with_reducible apply Only.ite_fst) | (with_reducible apply ptpForget_step (hm := by decide)) | (with_reducible apply ptpSelect_step (hm := by decide)) | (with_reducible apply State.set_step (hm := by decide)) | (with_reducible apply ptpEnter_step (hm := by decide)) | (with_reducible apply Only.foldl (hg := fun _ _ => ?_)) | (with_reducible apply Only.foldl_fst (hg := fun _ _ => ?_)) | split | dsimp only)
theorem ptpConfigure_step {l₀ : List Part} {s₀ : State} (s : State) (h₀ : Only l₀ s₀ s) (hm : [.regs, .conds, .ain] ⊆ l₀) : Only l₀ s₀ (ptpConfigure s) :=
  h₀.step (ptpConfigure_only s) hm

theorem ptpMeasured_only (s : State) (off : Int) : Only [.regs, .conds, .free, .ain] s (ptpMeasured s off) := by
  unfold ptpMeasured
  try dsimp only
  repeat' (first | (with_reducible exact Only.refl _ _) | (with_reducible apply Only.ite) | (with_reducible apply Only.ite_fst) | (with_reducible apply ptpSteer_step (hm := by decide)) | (with_reducible apply State.set_step (hm := by decide)) | (with_reducible apply State.ptpUp_step (hm := by decide)) | (with_reducible apply ptpEnter_step (hm := by decide)) | (with_reducible apply Only.foldl (hg := fun _ _ => ?_)) | (with_reducible apply Only.foldl_fst (hg := fun _ _ => ?_)) | split | dsimp only)
theorem ptpMeasured_step {l₀ : List Part} {s₀ : State} (s : State) (off : Int) (h₀ : Only l₀ s₀ s) (hm : [.regs, .conds, .free, .ain] ⊆ l₀) : Only l₀ s₀ (ptpMeasured s off) :=
  h₀.step (ptpMeasured_only s off) hm

theorem ptpAnnounce_only (s : State) (port : NetPort) (domain : Byte) (a : Announce) : Only [.regs, .conds, .ain] s (ptpAnnounce s port domain a) := by
  unfold ptpAnnounce
  try dsimp only
  repeat' (first | (with_reducible exact Only.refl _ _) | (with_reducible apply Only.ite) | (with_reducible apply Only.ite_fst) | (with_reducible apply ptpSelect_step (hm := by decide)) | (with_reducible apply State.ptpUp_step (hm := by decide)) | (with_reducible apply Only.foldl (hg := fun _ _ => ?_)) | (with_reducible apply Only.foldl_fst (hg := fun _ _ => ?_)) | split | dsimp only)
theorem ptpAnnounce_step {l₀ : List Part} {s₀ : State} (s : State) (port : NetPort) (domain : Byte) (a : Announce) (h₀ : Only l₀ s₀ s) (hm : [.regs, .conds, .ain] ⊆ l₀) : Only l₀ s₀ (ptpAnnounce s port domain a) :=
  h₀.step (ptpAnnounce_only s port domain a) hm

theorem ptpSync_only (s : State) (port : NetPort) (domain : Byte) (gm : BitVec 64) (twoStep : Bool) (diff : Int) : Only [.regs, .conds, .free, .ain] s (ptpSync s port domain gm twoStep diff) := by
  unfold ptpSync
  try dsimp only
  repeat' (first | (with_reducible exact Only.refl _ _) | (with_reducible apply Only.ite) | (with_reducible apply Only.ite_fst) | (with_reducible apply ptpMeasured_step (hm := by decide)) | (with_reducible apply State.ptpUp_step (hm := by decide)) | (with_reducible apply Only.foldl (hg := fun _ _ => ?_)) | (with_reducible apply Only.foldl_fst (hg := fun _ _ => ?_)) | split | dsimp only)
theorem ptpSync_step {l₀ : List Part} {s₀ : State} (s : State) (port : NetPort) (domain : Byte) (gm : BitVec 64) (twoStep : Bool) (diff : Int) (h₀ : Only l₀ s₀ s) (hm : [.regs, .conds, .free, .ain] ⊆ l₀) : Only l₀ s₀ (ptpSync s port domain gm twoStep diff) :=
  h₀.step (ptpSync_only s port domain gm twoStep diff) hm

theorem ptpFollowUp_only (s : State) (port : NetPort) (domain : Byte) (gm : BitVec 64) (diff : Int) : Only [.regs, .conds, .free, .ain] s (ptpFollowUp s port domain gm diff) := by
  unfold ptpFollowUp
  try dsimp only
  repeat' (first | (with_reducible exact Only.refl _ _) | (with_reducible apply Only.ite) | (with_reducible apply Only.ite_fst) | (with_reducible apply State.ptpUp_step (hm := by decide)) | (with_reducible apply ptpMeasured_step (hm := by decide)) | (with_reducible apply Only.foldl (hg := fun _ _ => ?_)) | (with_reducible apply Only.foldl_fst (hg := fun _ _ => ?_)) | split | dsimp only)
theorem ptpFollowUp_step {l₀ : List Part} {s₀ : State} (s : State) (port : NetPort) (domain : Byte) (gm : BitVec 64) (diff : Int) (h₀ : Only l₀ s₀ s) (hm : [.regs, .conds, .free, .ain] ⊆ l₀) : Only l₀ s₀ (ptpFollowUp s port domain gm diff) :=
  h₀.step (ptpFollowUp_only s port domain gm diff) hm

theorem ptpDelayResp_only (s : State) (port : NetPort) (domain : Byte) (reqDiff : Int) : Only [.ain] s (ptpDelayResp s port domain reqDiff) := by
  unfold ptpDelayResp
  try dsimp only
  repeat' (first | (with_reducible exact Only.refl _ _) | (with_reducible apply Only.ite) | (with_reducible apply Only.ite_fst) | (with_reducible apply State.ptpUp_step (hm := by decide)) | (with_reducible apply Only.foldl (hg := fun _ _ => ?_)) | (with_reducible apply Only.foldl_fst (hg := fun _ _ => ?_)) | split | dsimp only)
theorem ptpDelayResp_step {l₀ : List Part} {s₀ : State} (s : State) (port : NetPort) (domain : Byte) (reqDiff : Int) (h₀ : Only l₀ s₀ s) (hm : [.ain] ⊆ l₀) : Only l₀ s₀ (ptpDelayResp s port domain reqDiff) :=
  h₀.step (ptpDelayResp_only s port domain reqDiff) hm

theorem ptpTimeout_only (s : State) (port : NetPort) : Only [.regs, .conds, .ain] s (ptpTimeout s port) := by
  unfold ptpTimeout
  try dsimp only
  repeat' (first | (with_reducible exact Only.refl _ _) | (with_reducible apply Only.ite) | (with_reducible apply Only.ite_fst) | (with_reducible apply ptpSelect_step (hm := by decide)) | (with_reducible apply State.ptpUp_step (hm := by decide)) | (with_reducible apply ptpEnter_step (hm := by decide)) | (with_reducible apply Only.foldl (hg := fun _ _ => ?_)) | (with_reducible apply Only.foldl_fst (hg := fun _ _ => ?_)) | split | dsimp only)
theorem ptpTimeout_step {l₀ : List Part} {s₀ : State} (s : State) (port : NetPort) (h₀ : Only l₀ s₀ s) (hm : [.regs, .conds, .ain] ⊆ l₀) : Only l₀ s₀ (ptpTimeout s port) :=
  h₀.step (ptpTimeout_only s port) hm

theorem ppsAlign_only (s : State) : Only [.time, .ain] s (ppsAlign s) := by
  unfold ppsAlign
  try dsimp only
  repeat' (first | (with_reducible exact Only.refl _ _) | (with_reducible apply Only.ite) | (with_reducible apply Only.ite_fst) | (with_reducible apply State.ptpUp_step (hm := by decide)) | (with_reducible apply Only.foldl (hg := fun _ _ => ?_)) | (with_reducible apply Only.foldl_fst (hg := fun _ _ => ?_)) | split | dsimp only | (with_reducible apply only_with_time_step (hm := by decide)))
theorem ppsAlign_step {l₀ : List Part} {s₀ : State} (s : State) (h₀ : Only l₀ s₀ s) (hm : [.time, .ain] ⊆ l₀) : Only l₀ s₀ (ppsAlign s) :=
  h₀.step (ppsAlign_only s) hm

theorem ppsEdge_only (s : State) : Only [.regs, .conds, .free, .time, .ain] s (ppsEdge s) := by
  unfold ppsEdge
  try dsimp only
  repeat' (first | (with_reducible exact Only.refl _ _) | (with_reducible apply Only.ite) | (with_reducible apply Only.ite_fst) | (with_reducible apply ptpSteer_step (hm := by decide)) | (with_reducible apply State.set_step (hm := by decide)) | (with_reducible apply ppsAlign_step (hm := by decide)) | (with_reducible apply ptpEnter_step (hm := by decide)) | (with_reducible apply Only.foldl (hg := fun _ _ => ?_)) | (with_reducible apply Only.foldl_fst (hg := fun _ _ => ?_)) | split | dsimp only)
theorem ppsEdge_step {l₀ : List Part} {s₀ : State} (s : State) (h₀ : Only l₀ s₀ s) (hm : [.regs, .conds, .free, .time, .ain] ⊆ l₀) : Only l₀ s₀ (ppsEdge s) :=
  h₀.step (ppsEdge_only s) hm

theorem ppsTimeout_only (s : State) : Only [.regs, .conds, .ain] s (ppsTimeout s) := by
  unfold ppsTimeout
  try dsimp only
  repeat' (first | (with_reducible exact Only.refl _ _) | (with_reducible apply Only.ite) | (with_reducible apply Only.ite_fst) | (with_reducible apply State.set_step (hm := by decide)) | (with_reducible apply ptpConfigure_step (hm := by decide)) | (with_reducible apply ptpEnter_step (hm := by decide)) | (with_reducible apply Only.foldl (hg := fun _ _ => ?_)) | (with_reducible apply Only.foldl_fst (hg := fun _ _ => ?_)) | split | dsimp only)
theorem ppsTimeout_step {l₀ : List Part} {s₀ : State} (s : State) (h₀ : Only l₀ s₀ s) (hm : [.regs, .conds, .ain] ⊆ l₀) : Only l₀ s₀ (ppsTimeout s) :=
  h₀.step (ppsTimeout_only s) hm

theorem stepNow_only (s : State) : Only [.regs] s (stepNow s) := by
  unfold stepNow
  try dsimp only
  repeat' (first | (with_reducible exact Only.refl _ _) | (with_reducible apply Only.ite) | (with_reducible apply Only.ite_fst) | (with_reducible apply State.set_step (hm := by decide)) | (with_reducible apply Only.foldl (hg := fun _ _ => ?_)) | (with_reducible apply Only.foldl_fst (hg := fun _ _ => ?_)) | split | dsimp only)
theorem stepNow_step {l₀ : List Part} {s₀ : State} (s : State) (h₀ : Only l₀ s₀ s) (hm : [.regs] ⊆ l₀) : Only l₀ s₀ (stepNow s) :=
  h₀.step (stepNow_only s) hm

theorem ppsOutAtBlock_only (s : State) : Only [.ain] s (ppsOutAtBlock s) := by
  unfold ppsOutAtBlock
  try dsimp only
  repeat' (first | (with_reducible exact Only.refl _ _) | (with_reducible apply Only.ite) | (with_reducible apply Only.ite_fst) | (with_reducible apply State.ptpUp_step (hm := by decide)) | (with_reducible apply Only.foldl (hg := fun _ _ => ?_)) | (with_reducible apply Only.foldl_fst (hg := fun _ _ => ?_)) | split | dsimp only)
theorem ppsOutAtBlock_step {l₀ : List Part} {s₀ : State} (s : State) (h₀ : Only l₀ s₀ s) (hm : [.ain] ⊆ l₀) : Only l₀ s₀ (ppsOutAtBlock s) :=
  h₀.step (ppsOutAtBlock_only s) hm

theorem ptpHistAtBlock_only (s : State) : Only [.ain] s (ptpHistAtBlock s) := by
  unfold ptpHistAtBlock
  try dsimp only
  repeat' (first | (with_reducible exact Only.refl _ _) | (with_reducible apply Only.ite) | (with_reducible apply Only.ite_fst) | (with_reducible apply State.ptpUp_step (hm := by decide)) | (with_reducible apply Only.foldl (hg := fun _ _ => ?_)) | (with_reducible apply Only.foldl_fst (hg := fun _ _ => ?_)) | split | dsimp only)
theorem ptpHistAtBlock_step {l₀ : List Part} {s₀ : State} (s : State) (h₀ : Only l₀ s₀ s) (hm : [.ain] ⊆ l₀) : Only l₀ s₀ (ptpHistAtBlock s) :=
  h₀.step (ptpHistAtBlock_only s) hm

theorem streamPacket_only (s : State) (i : Nat) (port : NetPort) (ssrc ts : Word) (ws : List Word) : Only [.regs, .ain] s (streamPacket s i port ssrc ts ws) := by
  unfold streamPacket
  try dsimp only
  repeat' (first | (with_reducible exact Only.refl _ _) | (with_reducible apply Only.ite) | (with_reducible apply Only.ite_fst) | (with_reducible apply State.raiseIf_step (hm := by decide)) | (with_reducible apply State.set_step (hm := by decide)) | (with_reducible apply State.streamUp_step (hm := by decide)) | (with_reducible apply Only.foldl (hg := fun _ _ => ?_)) | (with_reducible apply Only.foldl_fst (hg := fun _ _ => ?_)) | split | dsimp only)
theorem streamPacket_step {l₀ : List Part} {s₀ : State} (s : State) (i : Nat) (port : NetPort) (ssrc ts : Word) (ws : List Word) (h₀ : Only l₀ s₀ s) (hm : [.regs, .ain] ⊆ l₀) : Only l₀ s₀ (streamPacket s i port ssrc ts ws) :=
  h₀.step (streamPacket_only s i port ssrc ts ws) hm

theorem packetRx_only (s : State) (port : NetPort) (dst : Word) (udp : Word16) (ssrc ts : Word) (ws : List Word) : Only [.regs, .ain] s (packetRx s port dst udp ssrc ts ws) := by
  unfold packetRx
  try dsimp only
  repeat' (first | (with_reducible exact Only.refl _ _) | (with_reducible apply Only.ite) | (with_reducible apply Only.ite_fst) | (with_reducible apply streamPacket_step (hm := by decide)) | (with_reducible apply Only.foldl (hg := fun _ _ => ?_)) | (with_reducible apply Only.foldl_fst (hg := fun _ _ => ?_)) | split | dsimp only)
theorem packetRx_step {l₀ : List Part} {s₀ : State} (s : State) (port : NetPort) (dst : Word) (udp : Word16) (ssrc ts : Word) (ws : List Word) (h₀ : Only l₀ s₀ s) (hm : [.regs, .ain] ⊆ l₀) : Only l₀ s₀ (packetRx s port dst udp ssrc ts ws) :=
  h₀.step (packetRx_only s port dst udp ssrc ts ws) hm

theorem sendReport_only (s : State) (port : NetPort) (group : Word) : Only [.regs, .gates] s (sendReport s port group) := by
  unfold sendReport
  try dsimp only
  repeat' (first | (with_reducible exact Only.refl _ _) | (with_reducible apply Only.ite) | (with_reducible apply Only.ite_fst) | (with_reducible apply gatePush_step (hm := by decide)) | (with_reducible apply Only.foldl (hg := fun _ _ => ?_)) | (with_reducible apply Only.foldl_fst (hg := fun _ _ => ?_)) | split | dsimp only)
theorem sendReport_step {l₀ : List Part} {s₀ : State} (s : State) (port : NetPort) (group : Word) (h₀ : Only l₀ s₀ s) (hm : [.regs, .gates] ⊆ l₀) : Only l₀ s₀ (sendReport s port group) :=
  h₀.step (sendReport_only s port group) hm

theorem sendReports_only (s : State) (i : Nat) : Only [.regs, .gates] s (sendReports s i) := by
  unfold sendReports
  try dsimp only
  repeat' (first | (with_reducible exact Only.refl _ _) | (with_reducible apply Only.ite) | (with_reducible apply Only.ite_fst) | (with_reducible apply sendReport_step (hm := by decide)) | (with_reducible apply Only.foldl (hg := fun _ _ => ?_)) | (with_reducible apply Only.foldl_fst (hg := fun _ _ => ?_)) | split | dsimp only)
theorem sendReports_step {l₀ : List Part} {s₀ : State} (s : State) (i : Nat) (h₀ : Only l₀ s₀ s) (hm : [.regs, .gates] ⊆ l₀) : Only l₀ s₀ (sendReports s i) :=
  h₀.step (sendReports_only s i) hm

theorem writeScfg_only (s : State) (i : Nat) (v0 : Word) : Only [.regs, .gates, .ain] s (writeScfg s i v0) := by
  unfold writeScfg
  try dsimp only
  repeat' (first | (with_reducible exact Only.refl _ _) | (with_reducible apply Only.ite) | (with_reducible apply Only.ite_fst) | (with_reducible apply sendReports_step (hm := by decide)) | (with_reducible apply State.raise_step (hm := by decide)) | (with_reducible apply State.wr_step (hm := by decide)) | (with_reducible apply State.set_step (hm := by decide)) | (with_reducible apply State.streamUp_step (hm := by decide)) | (with_reducible apply Only.foldl (hg := fun _ _ => ?_)) | (with_reducible apply Only.foldl_fst (hg := fun _ _ => ?_)) | split | dsimp only)
theorem writeScfg_step {l₀ : List Part} {s₀ : State} (s : State) (i : Nat) (v0 : Word) (h₀ : Only l₀ s₀ s) (hm : [.regs, .gates, .ain] ⊆ l₀) : Only l₀ s₀ (writeScfg s i v0) :=
  h₀.step (writeScfg_only s i v0) hm

theorem writeStreamReg_only (s : State) (i : Nat) (p : Nat) (v : Word) : Only [.regs, .heldU, .heldB] s (writeStreamReg s i p v) := by
  unfold writeStreamReg
  try dsimp only
  repeat' (first | (with_reducible exact Only.refl _ _) | (with_reducible apply Only.ite) | (with_reducible apply Only.ite_fst) | (with_reducible apply State.raise_step (hm := by decide)) | (with_reducible apply storeCoded_step (hm := by decide)) | (with_reducible apply Only.foldl (hg := fun _ _ => ?_)) | (with_reducible apply Only.foldl_fst (hg := fun _ _ => ?_)) | split | dsimp only)
theorem writeStreamReg_step {l₀ : List Part} {s₀ : State} (s : State) (i : Nat) (p : Nat) (v : Word) (h₀ : Only l₀ s₀ s) (hm : [.regs, .heldU, .heldB] ⊆ l₀) : Only l₀ s₀ (writeStreamReg s i p v) :=
  h₀.step (writeStreamReg_only s i p v) hm

theorem streamsAtBlock_only (s : State) : Only [.regs, .ain] s (streamsAtBlock s) := by
  unfold streamsAtBlock
  try dsimp only
  repeat' (first | (with_reducible exact Only.refl _ _) | (with_reducible apply Only.ite) | (with_reducible apply Only.ite_fst) | (with_reducible apply State.set_step (hm := by decide)) | (with_reducible apply State.streamUp_step (hm := by decide)) | (with_reducible apply Only.foldl (hg := fun _ _ => ?_)) | (with_reducible apply Only.foldl_fst (hg := fun _ _ => ?_)) | split | dsimp only)
theorem streamsAtBlock_step {l₀ : List Part} {s₀ : State} (s : State) (h₀ : Only l₀ s₀ s) (hm : [.regs, .ain] ⊆ l₀) : Only l₀ s₀ (streamsAtBlock s) :=
  h₀.step (streamsAtBlock_only s) hm

theorem streamRead_only (s : State) (i play : Nat) : Only [.regs, .ain] s (streamRead s i play).1 := by
  unfold streamRead
  try dsimp only
  repeat' (first | (with_reducible exact Only.refl _ _) | (with_reducible apply Only.ite) | (with_reducible apply Only.ite_fst) | (with_reducible apply State.raise_step (hm := by decide)) | (with_reducible apply State.set_step (hm := by decide)) | (with_reducible apply State.streamUp_step (hm := by decide)) | (with_reducible apply Only.foldl (hg := fun _ _ => ?_)) | (with_reducible apply Only.foldl_fst (hg := fun _ _ => ?_)) | split | dsimp only)
theorem streamRead_step {l₀ : List Part} {s₀ : State} (s : State) (i play : Nat) (h₀ : Only l₀ s₀ s) (hm : [.regs, .ain] ⊆ l₀) : Only l₀ s₀ (streamRead s i play).1 :=
  h₀.step (streamRead_only s i play) hm

theorem receiveReader_only (s : State) : Only [.regs, .gates, .ain] s (receiveReader s) := by
  unfold receiveReader
  try dsimp only
  repeat' (first | (with_reducible exact Only.refl _ _) | (with_reducible apply Only.ite) | (with_reducible apply Only.ite_fst) | (with_reducible apply gatePush_step (hm := by decide)) | (with_reducible apply streamRead_step (hm := by decide)) | (with_reducible apply Only.foldl (hg := fun _ _ => ?_)) | (with_reducible apply Only.foldl_fst (hg := fun _ _ => ?_)) | (with_reducible refine Only.of_fst (by assumption) ?_) | split | dsimp only)
theorem receiveReader_step {l₀ : List Part} {s₀ : State} (s : State) (h₀ : Only l₀ s₀ s) (hm : [.regs, .gates, .ain] ⊆ l₀) : Only l₀ s₀ (receiveReader s) :=
  h₀.step (receiveReader_only s) hm

theorem tdmShowLock_only (s : State) (i : Nat) : Only [.regs] s (tdmShowLock s i) := by
  unfold tdmShowLock
  try dsimp only
  repeat' (first | (with_reducible exact Only.refl _ _) | (with_reducible apply Only.ite) | (with_reducible apply Only.ite_fst) | (with_reducible apply State.setB_step (hm := by decide)) | (with_reducible apply Only.foldl (hg := fun _ _ => ?_)) | (with_reducible apply Only.foldl_fst (hg := fun _ _ => ?_)) | split | dsimp only)
theorem tdmShowLock_step {l₀ : List Part} {s₀ : State} (s : State) (i : Nat) (h₀ : Only l₀ s₀ s) (hm : [.regs] ⊆ l₀) : Only l₀ s₀ (tdmShowLock s i) :=
  h₀.step (tdmShowLock_only s i) hm

theorem aesShowLock_only (s : State) (i : Nat) : Only [.regs] s (aesShowLock s i) := by
  unfold aesShowLock
  try dsimp only
  repeat' (first | (with_reducible exact Only.refl _ _) | (with_reducible apply Only.ite) | (with_reducible apply Only.ite_fst) | (with_reducible apply State.setB_step (hm := by decide)) | (with_reducible apply Only.foldl (hg := fun _ _ => ?_)) | (with_reducible apply Only.foldl_fst (hg := fun _ _ => ?_)) | split | dsimp only)
theorem aesShowLock_step {l₀ : List Part} {s₀ : State} (s : State) (i : Nat) (h₀ : Only l₀ s₀ s) (hm : [.regs] ⊆ l₀) : Only l₀ s₀ (aesShowLock s i) :=
  h₀.step (aesShowLock_only s i) hm

theorem domainShowLock_only (s : State) (d : Nat) : Only [.regs] s (domainShowLock s d) := by
  unfold domainShowLock
  try dsimp only
  repeat' (first | (with_reducible exact Only.refl _ _) | (with_reducible apply Only.ite) | (with_reducible apply Only.ite_fst) | (with_reducible apply tdmShowLock_step (hm := by decide)) | (with_reducible apply aesShowLock_step (hm := by decide)) | (with_reducible apply Only.foldl (hg := fun _ _ => ?_)) | (with_reducible apply Only.foldl_fst (hg := fun _ _ => ?_)) | split | dsimp only)
theorem domainShowLock_step {l₀ : List Part} {s₀ : State} (s : State) (d : Nat) (h₀ : Only l₀ s₀ s) (hm : [.regs] ⊆ l₀) : Only l₀ s₀ (domainShowLock s d) :=
  h₀.step (domainShowLock_only s d) hm

theorem asrcLock_only (s : State) (d : Nat) : Only [.regs, .ain] s (asrcLock s d) := by
  unfold asrcLock
  try dsimp only
  repeat' (first | (with_reducible exact Only.refl _ _) | (with_reducible apply Only.ite) | (with_reducible apply Only.ite_fst) | (with_reducible apply domainShowLock_step (hm := by decide)) | (with_reducible apply State.asrcUp_step (hm := by decide)) | (with_reducible apply Only.foldl (hg := fun _ _ => ?_)) | (with_reducible apply Only.foldl_fst (hg := fun _ _ => ?_)) | split | dsimp only)
theorem asrcLock_step {l₀ : List Part} {s₀ : State} (s : State) (d : Nat) (h₀ : Only l₀ s₀ s) (hm : [.regs, .ain] ⊆ l₀) : Only l₀ s₀ (asrcLock s d) :=
  h₀.step (asrcLock_only s d) hm

theorem asrcUnlock_only (s : State) (d : Nat) : Only [.regs, .ain] s (asrcUnlock s d) := by
  unfold asrcUnlock
  try dsimp only
  repeat' (first | (with_reducible exact Only.refl _ _) | (with_reducible apply Only.ite) | (with_reducible apply Only.ite_fst) | (with_reducible apply State.raise_step (hm := by decide)) | (with_reducible apply domainShowLock_step (hm := by decide)) | (with_reducible apply State.asrcUp_step (hm := by decide)) | (with_reducible apply Only.foldl (hg := fun _ _ => ?_)) | (with_reducible apply Only.foldl_fst (hg := fun _ _ => ?_)) | split | dsimp only)
theorem asrcUnlock_step {l₀ : List Part} {s₀ : State} (s : State) (d : Nat) (h₀ : Only l₀ s₀ s) (hm : [.regs, .ain] ⊆ l₀) : Only l₀ s₀ (asrcUnlock s d) :=
  h₀.step (asrcUnlock_only s d) hm

theorem tdmDrive_only (s : State) (i : Nat) : Only [.free, .ain] s (tdmDrive s i) := by
  unfold tdmDrive
  try dsimp only
  repeat' (first | (with_reducible exact Only.refl _ _) | (with_reducible apply Only.ite) | (with_reducible apply Only.ite_fst) | (with_reducible apply State.tdmUp_step (hm := by decide)) | (with_reducible apply State.used_step (hm := by decide)) | (with_reducible apply Only.foldl (hg := fun _ _ => ?_)) | (with_reducible apply Only.foldl_fst (hg := fun _ _ => ?_)) | split | dsimp only)
theorem tdmDrive_step {l₀ : List Part} {s₀ : State} (s : State) (i : Nat) (h₀ : Only l₀ s₀ s) (hm : [.free, .ain] ⊆ l₀) : Only l₀ s₀ (tdmDrive s i) :=
  h₀.step (tdmDrive_only s i) hm

theorem tdmFrame_only (s0 : State) (i : Nat) (bclks : Nat) (ws : List Word) : Only [.free, .ain] s0 (tdmFrame s0 i bclks ws) := by
  unfold tdmFrame
  try dsimp only
  repeat' (first | (with_reducible exact Only.refl _ _) | (with_reducible apply Only.ite) | (with_reducible apply Only.ite_fst) | (with_reducible apply State.tdmUp_step (hm := by decide)) | (with_reducible apply tdmDrive_step (hm := by decide)) | (with_reducible apply State.asrcUp_step (hm := by decide)) | (with_reducible apply State.ainUp_step (hm := by decide)) | (with_reducible apply Only.foldl (hg := fun _ _ => ?_)) | (with_reducible apply Only.foldl_fst (hg := fun _ _ => ?_)) | split | dsimp only)
theorem tdmFrame_step {l₀ : List Part} {s₀ : State} (s0 : State) (i : Nat) (bclks : Nat) (ws : List Word) (h₀ : Only l₀ s₀ s0) (hm : [.free, .ain] ⊆ l₀) : Only l₀ s₀ (tdmFrame s0 i bclks ws) :=
  h₀.step (tdmFrame_only s0 i bclks ws) hm

theorem tdmLose_only (s : State) (i : Nat) : Only [.regs, .ain] s (tdmLose s i) := by
  unfold tdmLose
  try dsimp only
  repeat' (first | (with_reducible exact Only.refl _ _) | (with_reducible apply Only.ite) | (with_reducible apply Only.ite_fst) | (with_reducible apply tdmShowLock_step (hm := by decide)) | (with_reducible apply State.tdmUp_step (hm := by decide)) | (with_reducible apply State.raise_step (hm := by decide)) | (with_reducible apply State.asrcUp_step (hm := by decide)) | (with_reducible apply State.set_step (hm := by decide)) | (with_reducible apply Only.foldl (hg := fun _ _ => ?_)) | (with_reducible apply Only.foldl_fst (hg := fun _ _ => ?_)) | split | dsimp only)
theorem tdmLose_step {l₀ : List Part} {s₀ : State} (s : State) (i : Nat) (h₀ : Only l₀ s₀ s) (hm : [.regs, .ain] ⊆ l₀) : Only l₀ s₀ (tdmLose s i) :=
  h₀.step (tdmLose_only s i) hm

theorem tdmGain_only (s : State) (i : Nat) (rate : BitVec 3) : Only [.regs, .ain] s (tdmGain s i rate) := by
  unfold tdmGain
  try dsimp only
  repeat' (first | (with_reducible exact Only.refl _ _) | (with_reducible apply Only.ite) | (with_reducible apply Only.ite_fst) | (with_reducible apply asrcUnlock_step (hm := by decide)) | (with_reducible apply State.tdmUp_step (hm := by decide)) | (with_reducible apply tdmShowLock_step (hm := by decide)) | (with_reducible apply State.set_step (hm := by decide)) | (with_reducible apply Only.foldl (hg := fun _ _ => ?_)) | (with_reducible apply Only.foldl_fst (hg := fun _ _ => ?_)) | split | dsimp only)
theorem tdmGain_step {l₀ : List Part} {s₀ : State} (s : State) (i : Nat) (rate : BitVec 3) (h₀ : Only l₀ s₀ s) (hm : [.regs, .ain] ⊆ l₀) : Only l₀ s₀ (tdmGain s i rate) :=
  h₀.step (tdmGain_only s i rate) hm

theorem aesSubframe_only (s : State) (i sub : Nat) (w : BitVec 24) (parityOk invalid : Bool) : Only [.regs, .ain] s (aesSubframe s i sub w parityOk invalid) := by
  unfold aesSubframe
  try dsimp only
  repeat' (first | (with_reducible exact Only.refl _ _) | (with_reducible apply Only.ite) | (with_reducible apply Only.ite_fst) | (with_reducible apply State.aesUp_step (hm := by decide)) | (with_reducible apply State.raiseIf_step (hm := by decide)) | (with_reducible apply State.asrcUp_step (hm := by decide)) | (with_reducible apply State.set_step (hm := by decide)) | (with_reducible apply State.setB_step (hm := by decide)) | (with_reducible apply Only.foldl (hg := fun _ _ => ?_)) | (with_reducible apply Only.foldl_fst (hg := fun _ _ => ?_)) | split | dsimp only)
theorem aesSubframe_step {l₀ : List Part} {s₀ : State} (s : State) (i sub : Nat) (w : BitVec 24) (parityOk invalid : Bool) (h₀ : Only l₀ s₀ s) (hm : [.regs, .ain] ⊆ l₀) : Only l₀ s₀ (aesSubframe s i sub w parityOk invalid) :=
  h₀.step (aesSubframe_only s i sub w parityOk invalid) hm

theorem aesStatus_only (s : State) (i : Nat) (bytes : List Byte) (good : Bool) : Only [.regs, .ain] s (aesStatus s i bytes good) := by
  unfold aesStatus
  try dsimp only
  repeat' (first | (with_reducible exact Only.refl _ _) | (with_reducible apply Only.ite) | (with_reducible apply Only.ite_fst) | (with_reducible apply State.raise_step (hm := by decide)) | (with_reducible apply State.aesUp_step (hm := by decide)) | (with_reducible apply State.setB_step (hm := by decide)) | (with_reducible apply Only.foldl (hg := fun _ _ => ?_)) | (with_reducible apply Only.foldl_fst (hg := fun _ _ => ?_)) | split | dsimp only)
theorem aesStatus_step {l₀ : List Part} {s₀ : State} (s : State) (i : Nat) (bytes : List Byte) (good : Bool) (h₀ : Only l₀ s₀ s) (hm : [.regs, .ain] ⊆ l₀) : Only l₀ s₀ (aesStatus s i bytes good) :=
  h₀.step (aesStatus_only s i bytes good) hm

theorem aesLock_only (s : State) (i : Nat) (rate : BitVec 3) : Only [.regs, .ain] s (aesLock s i rate) := by
  unfold aesLock
  try dsimp only
  repeat' (first | (with_reducible exact Only.refl _ _) | (with_reducible apply Only.ite) | (with_reducible apply Only.ite_fst) | (with_reducible apply State.aesUp_step (hm := by decide)) | (with_reducible apply aesShowLock_step (hm := by decide)) | (with_reducible apply asrcUnlock_step (hm := by decide)) | (with_reducible apply State.set_step (hm := by decide)) | (with_reducible apply Only.foldl (hg := fun _ _ => ?_)) | (with_reducible apply Only.foldl_fst (hg := fun _ _ => ?_)) | split | dsimp only)
theorem aesLock_step {l₀ : List Part} {s₀ : State} (s : State) (i : Nat) (rate : BitVec 3) (h₀ : Only l₀ s₀ s) (hm : [.regs, .ain] ⊆ l₀) : Only l₀ s₀ (aesLock s i rate) :=
  h₀.step (aesLock_only s i rate) hm

theorem aesLose_only (s : State) (i : Nat) : Only [.regs, .ain] s (aesLose s i) := by
  unfold aesLose
  try dsimp only
  repeat' (first | (with_reducible exact Only.refl _ _) | (with_reducible apply Only.ite) | (with_reducible apply Only.ite_fst) | (with_reducible apply State.aesUp_step (hm := by decide)) | (with_reducible apply aesShowLock_step (hm := by decide)) | (with_reducible apply State.raise_step (hm := by decide)) | (with_reducible apply State.asrcUp_step (hm := by decide)) | (with_reducible apply State.set_step (hm := by decide)) | (with_reducible apply Only.foldl (hg := fun _ _ => ?_)) | (with_reducible apply Only.foldl_fst (hg := fun _ _ => ?_)) | split | dsimp only)
theorem aesLose_step {l₀ : List Part} {s₀ : State} (s : State) (i : Nat) (h₀ : Only l₀ s₀ s) (hm : [.regs, .ain] ⊆ l₀) : Only l₀ s₀ (aesLose s i) :=
  h₀.step (aesLose_only s i) hm

theorem inputsAtBlock_only (s : State) : Only [.regs, .free, .ain] s (inputsAtBlock s) := by
  unfold inputsAtBlock
  try dsimp only
  repeat' (first | (with_reducible exact Only.refl _ _) | (with_reducible apply Only.ite) | (with_reducible apply Only.ite_fst) | (with_reducible apply State.aesUp_step (hm := by decide)) | (with_reducible apply State.tdmUp_step (hm := by decide)) | (with_reducible apply tdmDrive_step (hm := by decide)) | (with_reducible apply tdmLose_step (hm := by decide)) | (with_reducible apply aesLose_step (hm := by decide)) | (with_reducible apply Only.foldl (hg := fun _ _ => ?_)) | (with_reducible apply Only.foldl_fst (hg := fun _ _ => ?_)) | split | dsimp only)
theorem inputsAtBlock_step {l₀ : List Part} {s₀ : State} (s : State) (h₀ : Only l₀ s₀ s) (hm : [.regs, .free, .ain] ⊆ l₀) : Only l₀ s₀ (inputsAtBlock s) :=
  h₀.step (inputsAtBlock_only s) hm

theorem csSelect_only (s : State) (v : Word) : Only [.regs, .ain] s (csSelect s v) := by
  unfold csSelect
  try dsimp only
  repeat' (first | (with_reducible exact Only.refl _ _) | (with_reducible apply Only.ite) | (with_reducible apply Only.ite_fst) | (with_reducible apply State.ainUp_step (hm := by decide)) | (with_reducible apply State.wr_step (hm := by decide)) | (with_reducible apply Only.foldl (hg := fun _ _ => ?_)) | (with_reducible apply Only.foldl_fst (hg := fun _ _ => ?_)) | split | dsimp only)
theorem csSelect_step {l₀ : List Part} {s₀ : State} (s : State) (v : Word) (h₀ : Only l₀ s₀ s) (hm : [.regs, .ain] ⊆ l₀) : Only l₀ s₀ (csSelect s v) :=
  h₀.step (csSelect_only s v) hm

theorem csRead_only (s : State) : Only [.regs, .rdata] s (csRead s) := by
  unfold csRead
  try dsimp only
  repeat' (first | (with_reducible exact Only.refl _ _) | (with_reducible apply Only.ite) | (with_reducible apply Only.ite_fst) | (with_reducible apply State.set_step (hm := by decide)) | (with_reducible apply State.answer_step (hm := by decide)) | (with_reducible apply Only.foldl (hg := fun _ _ => ?_)) | (with_reducible apply Only.foldl_fst (hg := fun _ _ => ?_)) | split | dsimp only)
theorem csRead_step {l₀ : List Part} {s₀ : State} (s : State) (h₀ : Only l₀ s₀ s) (hm : [.regs, .rdata] ⊆ l₀) : Only l₀ s₀ (csRead s) :=
  h₀.step (csRead_only s) hm

theorem mixAdvance_only (s : State) : Only [.regs] s (mixAdvance s) := by
  unfold mixAdvance
  try dsimp only
  repeat' (first | (with_reducible exact Only.refl _ _) | (with_reducible apply Only.ite) | (with_reducible apply Only.ite_fst) | (with_reducible apply State.set_step (hm := by decide)) | (with_reducible apply Only.foldl (hg := fun _ _ => ?_)) | (with_reducible apply Only.foldl_fst (hg := fun _ _ => ?_)) | split | dsimp only)
theorem mixAdvance_step {l₀ : List Part} {s₀ : State} (s : State) (h₀ : Only l₀ s₀ s) (hm : [.regs] ⊆ l₀) : Only l₀ s₀ (mixAdvance s) :=
  h₀.step (mixAdvance_only s) hm

theorem mixWrite_only (s : State) (v : Word) : Only [.regs, .banks] s (mixWrite s v) := by
  unfold mixWrite
  try dsimp only
  repeat' (first | (with_reducible exact Only.refl _ _) | (with_reducible apply Only.ite) | (with_reducible apply Only.ite_fst) | (with_reducible apply mixAdvance_step (hm := by decide)) | (with_reducible apply State.raiseIf_step (hm := by decide)) | (with_reducible apply State.raise_step (hm := by decide)) | (with_reducible apply State.putBank_step (hm := by decide)) | (with_reducible apply Only.foldl (hg := fun _ _ => ?_)) | (with_reducible apply Only.foldl_fst (hg := fun _ _ => ?_)) | split | dsimp only)
theorem mixWrite_step {l₀ : List Part} {s₀ : State} (s : State) (v : Word) (h₀ : Only l₀ s₀ s) (hm : [.regs, .banks] ⊆ l₀) : Only l₀ s₀ (mixWrite s v) :=
  h₀.step (mixWrite_only s v) hm

theorem mixRead_only (s : State) : Only [.regs, .rdata] s (mixRead s) := by
  unfold mixRead
  try dsimp only
  repeat' (first | (with_reducible exact Only.refl _ _) | (with_reducible apply Only.ite) | (with_reducible apply Only.ite_fst) | (with_reducible apply mixAdvance_step (hm := by decide)) | (with_reducible apply State.answer_step (hm := by decide)) | (with_reducible apply Only.foldl (hg := fun _ _ => ?_)) | (with_reducible apply Only.foldl_fst (hg := fun _ _ => ?_)) | split | dsimp only)
theorem mixRead_step {l₀ : List Part} {s₀ : State} (s : State) (h₀ : Only l₀ s₀ s) (hm : [.regs, .rdata] ⊆ l₀) : Only l₀ s₀ (mixRead s) :=
  h₀.step (mixRead_only s) hm

theorem routeWrite_only (s : State) (n : Nat) (v : Word) : Only [.regs, .banks] s (routeWrite s n v) := by
  unfold routeWrite
  try dsimp only
  repeat' (first | (with_reducible exact Only.refl _ _) | (with_reducible apply Only.ite) | (with_reducible apply Only.ite_fst) | (with_reducible apply State.raise_step (hm := by decide)) | (with_reducible apply State.putBank_step (hm := by decide)) | (with_reducible apply Only.foldl (hg := fun _ _ => ?_)) | (with_reducible apply Only.foldl_fst (hg := fun _ _ => ?_)) | split | dsimp only)
theorem routeWrite_step {l₀ : List Part} {s₀ : State} (s : State) (n : Nat) (v : Word) (h₀ : Only l₀ s₀ s) (hm : [.regs, .banks] ⊆ l₀) : Only l₀ s₀ (routeWrite s n v) :=
  h₀.step (routeWrite_only s n v) hm

theorem filtersTick_only (s : State) : Only [.ain] s (filtersTick s) := by
  unfold filtersTick
  try dsimp only
  repeat' (first | (with_reducible exact Only.refl _ _) | (with_reducible apply Only.ite) | (with_reducible apply Only.ite_fst) | (with_reducible apply State.ainUp_step (hm := by decide)) | (with_reducible apply Only.foldl (hg := fun _ _ => ?_)) | (with_reducible apply Only.foldl_fst (hg := fun _ _ => ?_)) | split | dsimp only)
theorem filtersTick_step {l₀ : List Part} {s₀ : State} (s : State) (h₀ : Only l₀ s₀ s) (hm : [.ain] ⊆ l₀) : Only l₀ s₀ (filtersTick s) :=
  h₀.step (filtersTick_only s) hm

theorem interpolatedPositions_only (s0 : State) : Only [.regs, .ain] s0 (interpolatedPositions s0) := by
  unfold interpolatedPositions
  try dsimp only
  repeat' (first | (with_reducible exact Only.refl _ _) | (with_reducible apply Only.ite) | (with_reducible apply Only.ite_fst) | (with_reducible apply State.set_step (hm := by decide)) | (with_reducible apply State.ainUp_step (hm := by decide)) | (with_reducible apply Only.foldl (hg := fun _ _ => ?_)) | (with_reducible apply Only.foldl_fst (hg := fun _ _ => ?_)) | split | dsimp only)
theorem interpolatedPositions_step {l₀ : List Part} {s₀ : State} (s0 : State) (h₀ : Only l₀ s₀ s0) (hm : [.regs, .ain] ⊆ l₀) : Only l₀ s₀ (interpolatedPositions s0) :=
  h₀.step (interpolatedPositions_only s0) hm

theorem collectSample_only (s : State) : Only [.regs, .ain] s (collectSample s) := by
  unfold collectSample
  try dsimp only
  repeat' (first | (with_reducible exact Only.refl _ _) | (with_reducible apply Only.ite) | (with_reducible apply Only.ite_fst) | (with_reducible apply interpolatedPositions_step (hm := by decide)) | (with_reducible apply State.ainUp_step (hm := by decide)) | (with_reducible apply filtersTick_step (hm := by decide)) | (with_reducible apply Only.foldl (hg := fun _ _ => ?_)) | (with_reducible apply Only.foldl_fst (hg := fun _ _ => ?_)) | split | dsimp only)
theorem collectSample_step {l₀ : List Part} {s₀ : State} (s : State) (h₀ : Only l₀ s₀ s) (hm : [.regs, .ain] ⊆ l₀) : Only l₀ s₀ (collectSample s) :=
  h₀.step (collectSample_only s) hm

/-! ### The canonical form -/

theorem State.ainUp_wf (s : State) (f : Ain → Ain) (h₀ : Memory.wf s = true) : Memory.wf (State.ainUp s f) = true :=
  Only.wf (State.ainUp_only s f) (by decide) h₀

theorem State.ptpUp_wf (s : State) (f : Ptp → Ptp) (h₀ : Memory.wf s = true) : Memory.wf (State.ptpUp s f) = true :=
  Only.wf (State.ptpUp_only s f) (by decide) h₀

theorem State.streamUp_wf (s : State) (i : Nat) (f : Stream → Stream) (h₀ : Memory.wf s = true) : Memory.wf (State.streamUp s i f) = true :=
  Only.wf (State.streamUp_only s i f) (by decide) h₀

theorem State.tdmUp_wf (s : State) (i : Nat) (f : Tdm → Tdm) (h₀ : Memory.wf s = true) : Memory.wf (State.tdmUp s i f) = true :=
  Only.wf (State.tdmUp_only s i f) (by decide) h₀

theorem State.aesUp_wf (s : State) (i : Nat) (f : Aes3 → Aes3) (h₀ : Memory.wf s = true) : Memory.wf (State.aesUp s i f) = true :=
  Only.wf (State.aesUp_only s i f) (by decide) h₀

theorem State.asrcUp_wf (s : State) (i : Nat) (f : Asrc → Asrc) (h₀ : Memory.wf s = true) : Memory.wf (State.asrcUp s i f) = true :=
  Only.wf (State.asrcUp_only s i f) (by decide) h₀

theorem ptpEnter_wf (s : State) (st : Nat) (h₀ : Memory.wf s = true) : Memory.wf (ptpEnter s st) = true := by
  unfold ptpEnter
  try dsimp only
  repeat' (first | (with_reducible assumption) | (with_reducible apply wf_ite) | (with_reducible apply wf_ite_fst) | (with_reducible apply State.ptpUp_wf) | (with_reducible apply State.set_wf) | (with_reducible apply State.cond_wf) | (with_reducible apply wf_foldl (hg := fun _ _ _ => ?_)) | (with_reducible apply wf_foldl_fst (hg := fun _ _ _ => ?_)) | split | dsimp only)

theorem ptpSteer_wf (s : State) (h₀ : Memory.wf s = true) : Memory.wf (ptpSteer s) = true := by
  unfold ptpSteer
  try dsimp only
  repeat' (first | (with_reducible assumption) | (with_reducible apply wf_ite) | (with_reducible apply wf_ite_fst) | (with_reducible apply State.set_wf) | (with_reducible apply State.used_wf) | (with_reducible apply wf_foldl (hg := fun _ _ _ => ?_)) | (with_reducible apply wf_foldl_fst (hg := fun _ _ _ => ?_)) | split | dsimp only)

theorem ptpSelect_wf (s : State) (h₀ : Memory.wf s = true) : Memory.wf (ptpSelect s) = true := by
  unfold ptpSelect
  try dsimp only
  repeat' (first | (with_reducible assumption) | (with_reducible apply wf_ite) | (with_reducible apply wf_ite_fst) | (with_reducible apply ptpEnter_wf) | (with_reducible apply State.set_wf) | (with_reducible apply State.ptpUp_wf) | (with_reducible apply State.wr_wf) | (with_reducible apply wf_foldl (hg := fun _ _ _ => ?_)) | (with_reducible apply wf_foldl_fst (hg := fun _ _ _ => ?_)) | split | dsimp only)

theorem ptpForget_wf (s : State) (h₀ : Memory.wf s = true) : Memory.wf (ptpForget s) = true :=
  Only.wf (ptpForget_only s) (by decide) h₀

theorem ptpConfigure_wf (s : State) (h₀ : Memory.wf s = true) : Memory.wf (ptpConfigure s) = true := by
  unfold ptpConfigure
  try dsimp only
  repeat' (first | (with_reducible assumption) | (with_reducible apply wf_ite) | (with_reducible apply wf_ite_fst) | (with_reducible apply ptpEnter_wf) | (with_reducible apply ptpForget_wf) | (with_reducible apply State.set_wf) | (with_reducible apply ptpSelect_wf) | (with_reducible apply wf_foldl (hg := fun _ _ _ => ?_)) | (with_reducible apply wf_foldl_fst (hg := fun _ _ _ => ?_)) | split | dsimp only)

theorem ptpMeasured_wf (s : State) (off : Int) (h₀ : Memory.wf s = true) : Memory.wf (ptpMeasured s off) = true := by
  unfold ptpMeasured
  try dsimp only
  repeat' (first | (with_reducible assumption) | (with_reducible apply wf_ite) | (with_reducible apply wf_ite_fst) | (with_reducible apply ptpEnter_wf) | (with_reducible apply ptpSteer_wf) | (with_reducible apply State.ptpUp_wf) | (with_reducible apply State.set_wf) | (with_reducible apply wf_foldl (hg := fun _ _ _ => ?_)) | (with_reducible apply wf_foldl_fst (hg := fun _ _ _ => ?_)) | split | dsimp only)

theorem ptpAnnounce_wf (s : State) (port : NetPort) (domain : Byte) (a : Announce) (h₀ : Memory.wf s = true) : Memory.wf (ptpAnnounce s port domain a) = true := by
  unfold ptpAnnounce
  try dsimp only
  repeat' (first | (with_reducible assumption) | (with_reducible apply wf_ite) | (with_reducible apply wf_ite_fst) | (with_reducible apply State.ptpUp_wf) | (with_reducible apply ptpSelect_wf) | (with_reducible apply wf_foldl (hg := fun _ _ _ => ?_)) | (with_reducible apply wf_foldl_fst (hg := fun _ _ _ => ?_)) | split | dsimp only)

theorem ptpSync_wf (s : State) (port : NetPort) (domain : Byte) (gm : BitVec 64) (twoStep : Bool) (diff : Int) (h₀ : Memory.wf s = true) : Memory.wf (ptpSync s port domain gm twoStep diff) = true := by
  unfold ptpSync
  try dsimp only
  repeat' (first | (with_reducible assumption) | (with_reducible apply wf_ite) | (with_reducible apply wf_ite_fst) | (with_reducible apply ptpMeasured_wf) | (with_reducible apply State.ptpUp_wf) | (with_reducible apply wf_foldl (hg := fun _ _ _ => ?_)) | (with_reducible apply wf_foldl_fst (hg := fun _ _ _ => ?_)) | split | dsimp only)

theorem ptpFollowUp_wf (s : State) (port : NetPort) (domain : Byte) (gm : BitVec 64) (diff : Int) (h₀ : Memory.wf s = true) : Memory.wf (ptpFollowUp s port domain gm diff) = true := by
  unfold ptpFollowUp
  try dsimp only
  repeat' (first | (with_reducible assumption) | (with_reducible apply wf_ite) | (with_reducible apply wf_ite_fst) | (with_reducible apply ptpMeasured_wf) | (with_reducible apply State.ptpUp_wf) | (with_reducible apply wf_foldl (hg := fun _ _ _ => ?_)) | (with_reducible apply wf_foldl_fst (hg := fun _ _ _ => ?_)) | split | dsimp only)

theorem ptpDelayResp_wf (s : State) (port : NetPort) (domain : Byte) (reqDiff : Int) (h₀ : Memory.wf s = true) : Memory.wf (ptpDelayResp s port domain reqDiff) = true :=
  Only.wf (ptpDelayResp_only s port domain reqDiff) (by decide) h₀

theorem ptpTimeout_wf (s : State) (port : NetPort) (h₀ : Memory.wf s = true) : Memory.wf (ptpTimeout s port) = true := by
  unfold ptpTimeout
  try dsimp only
  repeat' (first | (with_reducible assumption) | (with_reducible apply wf_ite) | (with_reducible apply wf_ite_fst) | (with_reducible apply ptpEnter_wf) | (with_reducible apply State.ptpUp_wf) | (with_reducible apply ptpSelect_wf) | (with_reducible apply wf_foldl (hg := fun _ _ _ => ?_)) | (with_reducible apply wf_foldl_fst (hg := fun _ _ _ => ?_)) | split | dsimp only)

theorem ppsAlign_wf (s : State) (h₀ : Memory.wf s = true) : Memory.wf (ppsAlign s) = true :=
  Only.wf (ppsAlign_only s) (by decide) h₀

theorem ppsEdge_wf (s : State) (h₀ : Memory.wf s = true) : Memory.wf (ppsEdge s) = true := by
  unfold ppsEdge
  try dsimp only
  repeat' (first | (with_reducible assumption) | (with_reducible apply wf_ite) | (with_reducible apply wf_ite_fst) | (with_reducible apply ptpEnter_wf) | (with_reducible apply ptpSteer_wf) | (with_reducible apply ppsAlign_wf) | (with_reducible apply State.set_wf) | (with_reducible apply wf_foldl (hg := fun _ _ _ => ?_)) | (with_reducible apply wf_foldl_fst (hg := fun _ _ _ => ?_)) | split | dsimp only)

theorem ppsTimeout_wf (s : State) (h₀ : Memory.wf s = true) : Memory.wf (ppsTimeout s) = true := by
  unfold ppsTimeout
  try dsimp only
  repeat' (first | (with_reducible assumption) | (with_reducible apply wf_ite) | (with_reducible apply wf_ite_fst) | (with_reducible apply ptpEnter_wf) | (with_reducible apply ptpConfigure_wf) | (with_reducible apply State.set_wf) | (with_reducible apply wf_foldl (hg := fun _ _ _ => ?_)) | (with_reducible apply wf_foldl_fst (hg := fun _ _ _ => ?_)) | split | dsimp only)

theorem stepNow_wf (s : State) (h₀ : Memory.wf s = true) : Memory.wf (stepNow s) = true := by
  unfold stepNow
  try dsimp only
  repeat' (first | (with_reducible assumption) | (with_reducible apply wf_ite) | (with_reducible apply wf_ite_fst) | (with_reducible apply State.set_wf) | (with_reducible apply wf_foldl (hg := fun _ _ _ => ?_)) | (with_reducible apply wf_foldl_fst (hg := fun _ _ _ => ?_)) | split | dsimp only)

theorem ppsOutAtBlock_wf (s : State) (h₀ : Memory.wf s = true) : Memory.wf (ppsOutAtBlock s) = true :=
  Only.wf (ppsOutAtBlock_only s) (by decide) h₀

theorem ptpHistAtBlock_wf (s : State) (h₀ : Memory.wf s = true) : Memory.wf (ptpHistAtBlock s) = true :=
  Only.wf (ptpHistAtBlock_only s) (by decide) h₀

theorem streamPacket_wf (s : State) (i : Nat) (port : NetPort) (ssrc ts : Word) (ws : List Word) (h₀ : Memory.wf s = true) : Memory.wf (streamPacket s i port ssrc ts ws) = true := by
  unfold streamPacket
  try dsimp only
  repeat' (first | (with_reducible assumption) | (with_reducible apply wf_ite) | (with_reducible apply wf_ite_fst) | (with_reducible apply State.raiseIf_wf) | (with_reducible apply State.set_wf) | (with_reducible apply State.streamUp_wf) | (with_reducible apply wf_foldl (hg := fun _ _ _ => ?_)) | (with_reducible apply wf_foldl_fst (hg := fun _ _ _ => ?_)) | split | dsimp only)

theorem packetRx_wf (s : State) (port : NetPort) (dst : Word) (udp : Word16) (ssrc ts : Word) (ws : List Word) (h₀ : Memory.wf s = true) : Memory.wf (packetRx s port dst udp ssrc ts ws) = true := by
  unfold packetRx
  try dsimp only
  repeat' (first | (with_reducible assumption) | (with_reducible apply wf_ite) | (with_reducible apply wf_ite_fst) | (with_reducible apply streamPacket_wf) | (with_reducible apply wf_foldl (hg := fun _ _ _ => ?_)) | (with_reducible apply wf_foldl_fst (hg := fun _ _ _ => ?_)) | split | dsimp only)

theorem sendReport_wf (s : State) (port : NetPort) (group : Word) (h₀ : Memory.wf s = true) : Memory.wf (sendReport s port group) = true := by
  unfold sendReport
  try dsimp only
  repeat' (first | (with_reducible assumption) | (with_reducible apply wf_ite) | (with_reducible apply wf_ite_fst) | (with_reducible apply gatePush_wf) | (with_reducible apply wf_foldl (hg := fun _ _ _ => ?_)) | (with_reducible apply wf_foldl_fst (hg := fun _ _ _ => ?_)) | split | dsimp only)

theorem sendReports_wf (s : State) (i : Nat) (h₀ : Memory.wf s = true) : Memory.wf (sendReports s i) = true := by
  unfold sendReports
  try dsimp only
  repeat' (first | (with_reducible assumption) | (with_reducible apply wf_ite) | (with_reducible apply wf_ite_fst) | (with_reducible apply sendReport_wf) | (with_reducible apply wf_foldl (hg := fun _ _ _ => ?_)) | (with_reducible apply wf_foldl_fst (hg := fun _ _ _ => ?_)) | split | dsimp only)

theorem writeScfg_wf (s : State) (i : Nat) (v0 : Word) (h₀ : Memory.wf s = true) : Memory.wf (writeScfg s i v0) = true := by
  unfold writeScfg
  try dsimp only
  repeat' (first | (with_reducible assumption) | (with_reducible apply wf_ite) | (with_reducible apply wf_ite_fst) | (with_reducible apply State.raise_wf) | (with_reducible apply State.set_wf) | (with_reducible apply State.streamUp_wf) | (with_reducible apply sendReports_wf) | (with_reducible apply State.wr_wf) | (with_reducible apply wf_foldl (hg := fun _ _ _ => ?_)) | (with_reducible apply wf_foldl_fst (hg := fun _ _ _ => ?_)) | split | dsimp only)

theorem writeStreamReg_wf (s : State) (i : Nat) (p : Nat) (v : Word) (h₀ : Memory.wf s = true) : Memory.wf (writeStreamReg s i p v) = true := by
  unfold writeStreamReg
  try dsimp only
  repeat' (first | (with_reducible assumption) | (with_reducible apply wf_ite) | (with_reducible apply wf_ite_fst) | (with_reducible apply storeCoded_wf) | (with_reducible apply State.raise_wf) | (with_reducible apply wf_foldl (hg := fun _ _ _ => ?_)) | (with_reducible apply wf_foldl_fst (hg := fun _ _ _ => ?_)) | split | dsimp only)

theorem streamsAtBlock_wf (s : State) (h₀ : Memory.wf s = true) : Memory.wf (streamsAtBlock s) = true := by
  unfold streamsAtBlock
  try dsimp only
  repeat' (first | (with_reducible assumption) | (with_reducible apply wf_ite) | (with_reducible apply wf_ite_fst) | (with_reducible apply State.set_wf) | (with_reducible apply State.streamUp_wf) | (with_reducible apply wf_foldl (hg := fun _ _ _ => ?_)) | (with_reducible apply wf_foldl_fst (hg := fun _ _ _ => ?_)) | split | dsimp only)

theorem streamRead_wf (s : State) (i play : Nat) (h₀ : Memory.wf s = true) : Memory.wf (streamRead s i play).1 = true := by
  unfold streamRead
  try dsimp only
  repeat' (first | (with_reducible assumption) | (with_reducible apply wf_ite) | (with_reducible apply wf_ite_fst) | (with_reducible apply State.set_wf) | (with_reducible apply State.streamUp_wf) | (with_reducible apply State.raise_wf) | (with_reducible apply wf_foldl (hg := fun _ _ _ => ?_)) | (with_reducible apply wf_foldl_fst (hg := fun _ _ _ => ?_)) | split | dsimp only)

theorem receiveReader_wf (s : State) (h₀ : Memory.wf s = true) : Memory.wf (receiveReader s) = true := by
  unfold receiveReader
  try dsimp only
  repeat' (first | (with_reducible assumption) | (with_reducible apply wf_ite) | (with_reducible apply wf_ite_fst) | (with_reducible apply gatePush_wf) | (with_reducible apply streamRead_wf) | (with_reducible apply wf_foldl (hg := fun _ _ _ => ?_)) | (with_reducible apply wf_foldl_fst (hg := fun _ _ _ => ?_)) | (with_reducible refine wf_of_fst (by assumption) ?_) | split | dsimp only)

theorem tdmShowLock_wf (s : State) (i : Nat) (h₀ : Memory.wf s = true) : Memory.wf (tdmShowLock s i) = true := by
  unfold tdmShowLock
  try dsimp only
  repeat' (first | (with_reducible assumption) | (with_reducible apply wf_ite) | (with_reducible apply wf_ite_fst) | (with_reducible apply State.setB_wf) | (with_reducible apply wf_foldl (hg := fun _ _ _ => ?_)) | (with_reducible apply wf_foldl_fst (hg := fun _ _ _ => ?_)) | split | dsimp only)

theorem aesShowLock_wf (s : State) (i : Nat) (h₀ : Memory.wf s = true) : Memory.wf (aesShowLock s i) = true := by
  unfold aesShowLock
  try dsimp only
  repeat' (first | (with_reducible assumption) | (with_reducible apply wf_ite) | (with_reducible apply wf_ite_fst) | (with_reducible apply State.setB_wf) | (with_reducible apply wf_foldl (hg := fun _ _ _ => ?_)) | (with_reducible apply wf_foldl_fst (hg := fun _ _ _ => ?_)) | split | dsimp only)

theorem domainShowLock_wf (s : State) (d : Nat) (h₀ : Memory.wf s = true) : Memory.wf (domainShowLock s d) = true := by
  unfold domainShowLock
  try dsimp only
  repeat' (first | (with_reducible assumption) | (with_reducible apply wf_ite) | (with_reducible apply wf_ite_fst) | (with_reducible apply aesShowLock_wf) | (with_reducible apply tdmShowLock_wf) | (with_reducible apply wf_foldl (hg := fun _ _ _ => ?_)) | (with_reducible apply wf_foldl_fst (hg := fun _ _ _ => ?_)) | split | dsimp only)

theorem asrcLock_wf (s : State) (d : Nat) (h₀ : Memory.wf s = true) : Memory.wf (asrcLock s d) = true := by
  unfold asrcLock
  try dsimp only
  repeat' (first | (with_reducible assumption) | (with_reducible apply wf_ite) | (with_reducible apply wf_ite_fst) | (with_reducible apply State.asrcUp_wf) | (with_reducible apply domainShowLock_wf) | (with_reducible apply wf_foldl (hg := fun _ _ _ => ?_)) | (with_reducible apply wf_foldl_fst (hg := fun _ _ _ => ?_)) | split | dsimp only)

theorem asrcUnlock_wf (s : State) (d : Nat) (h₀ : Memory.wf s = true) : Memory.wf (asrcUnlock s d) = true := by
  unfold asrcUnlock
  try dsimp only
  repeat' (first | (with_reducible assumption) | (with_reducible apply wf_ite) | (with_reducible apply wf_ite_fst) | (with_reducible apply State.asrcUp_wf) | (with_reducible apply domainShowLock_wf) | (with_reducible apply State.raise_wf) | (with_reducible apply wf_foldl (hg := fun _ _ _ => ?_)) | (with_reducible apply wf_foldl_fst (hg := fun _ _ _ => ?_)) | split | dsimp only)

theorem tdmDrive_wf (s : State) (i : Nat) (h₀ : Memory.wf s = true) : Memory.wf (tdmDrive s i) = true :=
  Only.wf (tdmDrive_only s i) (by decide) h₀

theorem tdmFrame_wf (s0 : State) (i : Nat) (bclks : Nat) (ws : List Word) (h₀ : Memory.wf s0 = true) : Memory.wf (tdmFrame s0 i bclks ws) = true :=
  Only.wf (tdmFrame_only s0 i bclks ws) (by decide) h₀

theorem tdmLose_wf (s : State) (i : Nat) (h₀ : Memory.wf s = true) : Memory.wf (tdmLose s i) = true := by
  unfold tdmLose
  try dsimp only
  repeat' (first | (with_reducible assumption) | (with_reducible apply wf_ite) | (with_reducible apply wf_ite_fst) | (with_reducible apply State.asrcUp_wf) | (with_reducible apply State.tdmUp_wf) | (with_reducible apply tdmShowLock_wf) | (with_reducible apply State.set_wf) | (with_reducible apply State.raise_wf) | (with_reducible apply wf_foldl (hg := fun _ _ _ => ?_)) | (with_reducible apply wf_foldl_fst (hg := fun _ _ _ => ?_)) | split | dsimp only)

theorem tdmGain_wf (s : State) (i : Nat) (rate : BitVec 3) (h₀ : Memory.wf s = true) : Memory.wf (tdmGain s i rate) = true := by
  unfold tdmGain
  try dsimp only
  repeat' (first | (with_reducible assumption) | (with_reducible apply wf_ite) | (with_reducible apply wf_ite_fst) | (with_reducible apply asrcUnlock_wf) | (with_reducible apply State.tdmUp_wf) | (with_reducible apply State.set_wf) | (with_reducible apply tdmShowLock_wf) | (with_reducible apply wf_foldl (hg := fun _ _ _ => ?_)) | (with_reducible apply wf_foldl_fst (hg := fun _ _ _ => ?_)) | split | dsimp only)

theorem aesSubframe_wf (s : State) (i sub : Nat) (w : BitVec 24) (parityOk invalid : Bool) (h₀ : Memory.wf s = true) : Memory.wf (aesSubframe s i sub w parityOk invalid) = true := by
  unfold aesSubframe
  try dsimp only
  repeat' (first | (with_reducible assumption) | (with_reducible apply wf_ite) | (with_reducible apply wf_ite_fst) | (with_reducible apply State.setB_wf) | (with_reducible apply State.aesUp_wf) | (with_reducible apply State.raiseIf_wf) | (with_reducible apply State.asrcUp_wf) | (with_reducible apply State.set_wf) | (with_reducible apply wf_foldl (hg := fun _ _ _ => ?_)) | (with_reducible apply wf_foldl_fst (hg := fun _ _ _ => ?_)) | split | dsimp only)

theorem aesStatus_wf (s : State) (i : Nat) (bytes : List Byte) (good : Bool) (h₀ : Memory.wf s = true) : Memory.wf (aesStatus s i bytes good) = true := by
  unfold aesStatus
  try dsimp only
  repeat' (first | (with_reducible assumption) | (with_reducible apply wf_ite) | (with_reducible apply wf_ite_fst) | (with_reducible apply State.aesUp_wf) | (with_reducible apply State.raise_wf) | (with_reducible apply State.setB_wf) | (with_reducible apply wf_foldl (hg := fun _ _ _ => ?_)) | (with_reducible apply wf_foldl_fst (hg := fun _ _ _ => ?_)) | split | dsimp only)

theorem aesLock_wf (s : State) (i : Nat) (rate : BitVec 3) (h₀ : Memory.wf s = true) : Memory.wf (aesLock s i rate) = true := by
  unfold aesLock
  try dsimp only
  repeat' (first | (with_reducible assumption) | (with_reducible apply wf_ite) | (with_reducible apply wf_ite_fst) | (with_reducible apply asrcUnlock_wf) | (with_reducible apply aesShowLock_wf) | (with_reducible apply State.aesUp_wf) | (with_reducible apply State.set_wf) | (with_reducible apply wf_foldl (hg := fun _ _ _ => ?_)) | (with_reducible apply wf_foldl_fst (hg := fun _ _ _ => ?_)) | split | dsimp only)

theorem aesLose_wf (s : State) (i : Nat) (h₀ : Memory.wf s = true) : Memory.wf (aesLose s i) = true := by
  unfold aesLose
  try dsimp only
  repeat' (first | (with_reducible assumption) | (with_reducible apply wf_ite) | (with_reducible apply wf_ite_fst) | (with_reducible apply aesShowLock_wf) | (with_reducible apply State.aesUp_wf) | (with_reducible apply State.asrcUp_wf) | (with_reducible apply State.set_wf) | (with_reducible apply State.raise_wf) | (with_reducible apply wf_foldl (hg := fun _ _ _ => ?_)) | (with_reducible apply wf_foldl_fst (hg := fun _ _ _ => ?_)) | split | dsimp only)

theorem inputsAtBlock_wf (s : State) (h₀ : Memory.wf s = true) : Memory.wf (inputsAtBlock s) = true := by
  unfold inputsAtBlock
  try dsimp only
  repeat' (first | (with_reducible assumption) | (with_reducible apply wf_ite) | (with_reducible apply wf_ite_fst) | (with_reducible apply aesLose_wf) | (with_reducible apply State.aesUp_wf) | (with_reducible apply tdmLose_wf) | (with_reducible apply tdmDrive_wf) | (with_reducible apply State.tdmUp_wf) | (with_reducible apply wf_foldl (hg := fun _ _ _ => ?_)) | (with_reducible apply wf_foldl_fst (hg := fun _ _ _ => ?_)) | split | dsimp only)

theorem csSelect_wf (s : State) (v : Word) (h₀ : Memory.wf s = true) : Memory.wf (csSelect s v) = true := by
  unfold csSelect
  try dsimp only
  repeat' (first | (with_reducible assumption) | (with_reducible apply wf_ite) | (with_reducible apply wf_ite_fst) | (with_reducible apply State.ainUp_wf) | (with_reducible apply State.wr_wf) | (with_reducible apply wf_foldl (hg := fun _ _ _ => ?_)) | (with_reducible apply wf_foldl_fst (hg := fun _ _ _ => ?_)) | split | dsimp only)

theorem csRead_wf (s : State) (h₀ : Memory.wf s = true) : Memory.wf (csRead s) = true := by
  unfold csRead
  try dsimp only
  repeat' (first | (with_reducible assumption) | (with_reducible apply wf_ite) | (with_reducible apply wf_ite_fst) | (with_reducible apply State.set_wf) | (with_reducible apply State.answer_wf) | (with_reducible apply wf_foldl (hg := fun _ _ _ => ?_)) | (with_reducible apply wf_foldl_fst (hg := fun _ _ _ => ?_)) | split | dsimp only)

theorem mixAdvance_wf (s : State) (h₀ : Memory.wf s = true) : Memory.wf (mixAdvance s) = true := by
  unfold mixAdvance
  try dsimp only
  repeat' (first | (with_reducible assumption) | (with_reducible apply wf_ite) | (with_reducible apply wf_ite_fst) | (with_reducible apply State.set_wf) | (with_reducible apply wf_foldl (hg := fun _ _ _ => ?_)) | (with_reducible apply wf_foldl_fst (hg := fun _ _ _ => ?_)) | split | dsimp only)

theorem mixWrite_wf (s : State) (v : Word) (h₀ : Memory.wf s = true) : Memory.wf (mixWrite s v) = true := by
  unfold mixWrite
  try dsimp only
  repeat' (first | (with_reducible assumption) | (with_reducible apply wf_ite) | (with_reducible apply wf_ite_fst) | (with_reducible apply State.raiseIf_wf) | (with_reducible apply mixAdvance_wf) | (with_reducible apply State.putBank_wf) | (with_reducible apply State.raise_wf) | (with_reducible apply wf_foldl (hg := fun _ _ _ => ?_)) | (with_reducible apply wf_foldl_fst (hg := fun _ _ _ => ?_)) | split | dsimp only)

theorem mixRead_wf (s : State) (h₀ : Memory.wf s = true) : Memory.wf (mixRead s) = true := by
  unfold mixRead
  try dsimp only
  repeat' (first | (with_reducible assumption) | (with_reducible apply wf_ite) | (with_reducible apply wf_ite_fst) | (with_reducible apply State.answer_wf) | (with_reducible apply mixAdvance_wf) | (with_reducible apply wf_foldl (hg := fun _ _ _ => ?_)) | (with_reducible apply wf_foldl_fst (hg := fun _ _ _ => ?_)) | split | dsimp only)

theorem routeWrite_wf (s : State) (n : Nat) (v : Word) (h₀ : Memory.wf s = true) : Memory.wf (routeWrite s n v) = true := by
  unfold routeWrite
  try dsimp only
  repeat' (first | (with_reducible assumption) | (with_reducible apply wf_ite) | (with_reducible apply wf_ite_fst) | (with_reducible apply State.raise_wf) | (with_reducible apply State.putBank_wf) | (with_reducible apply wf_foldl (hg := fun _ _ _ => ?_)) | (with_reducible apply wf_foldl_fst (hg := fun _ _ _ => ?_)) | split | dsimp only)

theorem filtersTick_wf (s : State) (h₀ : Memory.wf s = true) : Memory.wf (filtersTick s) = true :=
  Only.wf (filtersTick_only s) (by decide) h₀

theorem interpolatedPositions_wf (s0 : State) (h₀ : Memory.wf s0 = true) : Memory.wf (interpolatedPositions s0) = true := by
  unfold interpolatedPositions
  try dsimp only
  repeat' (first | (with_reducible assumption) | (with_reducible apply wf_ite) | (with_reducible apply wf_ite_fst) | (with_reducible apply State.ainUp_wf) | (with_reducible apply State.set_wf) | (with_reducible apply wf_foldl (hg := fun _ _ _ => ?_)) | (with_reducible apply wf_foldl_fst (hg := fun _ _ _ => ?_)) | split | dsimp only)

theorem collectSample_wf (s : State) (h₀ : Memory.wf s = true) : Memory.wf (collectSample s) = true := by
  unfold collectSample
  try dsimp only
  repeat' (first | (with_reducible assumption) | (with_reducible apply wf_ite) | (with_reducible apply wf_ite_fst) | (with_reducible apply State.ainUp_wf) | (with_reducible apply interpolatedPositions_wf) | (with_reducible apply filtersTick_wf) | (with_reducible apply wf_foldl (hg := fun _ _ _ => ?_)) | (with_reducible apply wf_foldl_fst (hg := fun _ _ _ => ?_)) | split | dsimp only)

end Sys2Proof.Machine
end

