-- ==== Sys2Proof/Laws/FrameSpkBank.lean ====
section
/-! SUPPORT. Laws/FrameSpkBank.lean: what the operations of Machine/SpkBank.lean may change (f_only; f_step after what went before), and
that each keeps the memories' canonical form (f_wf). -/

set_option Elab.async false
set_option linter.all false

namespace Sys2Proof.Machine

theorem State.ventUp_only (s : State) (c : Nat) (f : VentChan → VentChan) : Only [.vent] s (State.ventUp s c f) := by
  unfold State.ventUp
  try dsimp only
  repeat' (first | (with_reducible exact Only.refl _ _) | (with_reducible apply Only.ite) | (with_reducible apply Only.ite_fst) | (with_reducible apply Only.foldl (hg := fun _ _ => ?_)) | (with_reducible apply Only.foldl_fst (hg := fun _ _ => ?_)) | split | dsimp only | (with_reducible apply only_with_vent_step (hm := by decide)))
theorem State.ventUp_step {l₀ : List Part} {s₀ : State} (s : State) (c : Nat) (f : VentChan → VentChan) (h₀ : Only l₀ s₀ s) (hm : [.vent] ⊆ l₀) : Only l₀ s₀ (State.ventUp s c f) :=
  h₀.step (State.ventUp_only s c f) hm

theorem spkPdataWrite_only (s : State) (c : Nat) (v : Word) : Only [.regs, .banks] s (spkPdataWrite s c v) := by
  unfold spkPdataWrite
  try dsimp only
  repeat' (first | (with_reducible exact Only.refl _ _) | (with_reducible apply Only.ite) | (with_reducible apply Only.ite_fst) | (with_reducible apply State.raiseIf_step (hm := by decide)) | (with_reducible apply State.raise_step (hm := by decide)) | (with_reducible apply State.putBank_step (hm := by decide)) | (with_reducible apply State.set_step (hm := by decide)) | (with_reducible apply Only.foldl (hg := fun _ _ => ?_)) | (with_reducible apply Only.foldl_fst (hg := fun _ _ => ?_)) | split | dsimp only)
theorem spkPdataWrite_step {l₀ : List Part} {s₀ : State} (s : State) (c : Nat) (v : Word) (h₀ : Only l₀ s₀ s) (hm : [.regs, .banks] ⊆ l₀) : Only l₀ s₀ (spkPdataWrite s c v) :=
  h₀.step (spkPdataWrite_only s c v) hm

theorem spkPdataRead_only (s : State) (c : Nat) : Only [.regs, .rdata] s (spkPdataRead s c) := by
  unfold spkPdataRead
  try dsimp only
  repeat' (first | (with_reducible exact Only.refl _ _) | (with_reducible apply Only.ite) | (with_reducible apply Only.ite_fst) | (with_reducible apply State.set_step (hm := by decide)) | (with_reducible apply State.answer_step (hm := by decide)) | (with_reducible apply Only.foldl (hg := fun _ _ => ?_)) | (with_reducible apply Only.foldl_fst (hg := fun _ _ => ?_)) | split | dsimp only)
theorem spkPdataRead_step {l₀ : List Part} {s₀ : State} (s : State) (c : Nat) (h₀ : Only l₀ s₀ s) (hm : [.regs, .rdata] ⊆ l₀) : Only l₀ s₀ (spkPdataRead s c) :=
  h₀.step (spkPdataRead_only s c) hm

theorem spkLdataRead_only (s : State) (c : Nat) : Only [.regs, .rdata] s (spkLdataRead s c) := by
  unfold spkLdataRead
  try dsimp only
  repeat' (first | (with_reducible exact Only.refl _ _) | (with_reducible apply Only.ite) | (with_reducible apply Only.ite_fst) | (with_reducible apply State.set_step (hm := by decide)) | (with_reducible apply State.answer_step (hm := by decide)) | (with_reducible apply Only.foldl (hg := fun _ _ => ?_)) | (with_reducible apply Only.foldl_fst (hg := fun _ _ => ?_)) | split | dsimp only)
theorem spkLdataRead_step {l₀ : List Part} {s₀ : State} (s : State) (c : Nat) (h₀ : Only l₀ s₀ s) (hm : [.regs, .rdata] ⊆ l₀) : Only l₀ s₀ (spkLdataRead s c) :=
  h₀.step (spkLdataRead_only s c) hm

theorem writeSpkPtr_only (s : State) (p : Nat) (v : Word) : Only [.regs] s (writeSpkPtr s p v) := by
  unfold writeSpkPtr
  try dsimp only
  repeat' (first | (with_reducible exact Only.refl _ _) | (with_reducible apply Only.ite) | (with_reducible apply Only.ite_fst) | (with_reducible apply State.wr_step (hm := by decide)) | (with_reducible apply Only.foldl (hg := fun _ _ => ?_)) | (with_reducible apply Only.foldl_fst (hg := fun _ _ => ?_)) | split | dsimp only)
theorem writeSpkPtr_step {l₀ : List Part} {s₀ : State} (s : State) (p : Nat) (v : Word) (h₀ : Only l₀ s₀ s) (hm : [.regs] ⊆ l₀) : Only l₀ s₀ (writeSpkPtr s p v) :=
  h₀.step (writeSpkPtr_only s p v) hm

theorem clampXmax_only (s : State) (c : Nat) (b : Bool) : Only [.banks] s (clampXmax s c b) := by
  unfold clampXmax
  try dsimp only
  repeat' (first | (with_reducible exact Only.refl _ _) | (with_reducible apply Only.ite) | (with_reducible apply Only.ite_fst) | (with_reducible apply State.putBank_step (hm := by decide)) | (with_reducible apply Only.foldl (hg := fun _ _ => ?_)) | (with_reducible apply Only.foldl_fst (hg := fun _ _ => ?_)) | split | dsimp only)
theorem clampXmax_step {l₀ : List Part} {s₀ : State} (s : State) (c : Nat) (b : Bool) (h₀ : Only l₀ s₀ s) (hm : [.banks] ⊆ l₀) : Only l₀ s₀ (clampXmax s c b) :=
  h₀.step (clampXmax_only s c b) hm

/-! ### The canonical form -/

theorem State.ventUp_wf (s : State) (c : Nat) (f : VentChan → VentChan) (h₀ : Memory.wf s = true) : Memory.wf (State.ventUp s c f) = true := by
  unfold State.ventUp
  try dsimp only
  repeat' (first | (with_reducible assumption) | (with_reducible rfl) | (with_reducible apply wf_ite) | (with_reducible apply wf_ite_fst) | (with_reducible apply wf_foldl (hg := fun _ _ _ => ?_)) | (with_reducible apply wf_foldl_fst (hg := fun _ _ _ => ?_)) | split | dsimp only | (with_reducible apply wf_with_vent ))

theorem spkPdataWrite_wf (s : State) (c : Nat) (v : Word) (h₀ : Memory.wf s = true) : Memory.wf (spkPdataWrite s c v) = true := by
  unfold spkPdataWrite
  try dsimp only
  repeat' (first | (with_reducible assumption) | (with_reducible apply wf_ite) | (with_reducible apply wf_ite_fst) | (with_reducible apply State.raiseIf_wf) | (with_reducible apply State.putBank_wf) | (with_reducible apply State.set_wf) | (with_reducible apply State.raise_wf) | (with_reducible apply wf_foldl (hg := fun _ _ _ => ?_)) | (with_reducible apply wf_foldl_fst (hg := fun _ _ _ => ?_)) | split | dsimp only)

theorem spkPdataRead_wf (s : State) (c : Nat) (h₀ : Memory.wf s = true) : Memory.wf (spkPdataRead s c) = true := by
  unfold spkPdataRead
  try dsimp only
  repeat' (first | (with_reducible assumption) | (with_reducible apply wf_ite) | (with_reducible apply wf_ite_fst) | (with_reducible apply State.set_wf) | (with_reducible apply State.answer_wf) | (with_reducible apply wf_foldl (hg := fun _ _ _ => ?_)) | (with_reducible apply wf_foldl_fst (hg := fun _ _ _ => ?_)) | split | dsimp only)

theorem spkLdataRead_wf (s : State) (c : Nat) (h₀ : Memory.wf s = true) : Memory.wf (spkLdataRead s c) = true := by
  unfold spkLdataRead
  try dsimp only
  repeat' (first | (with_reducible assumption) | (with_reducible apply wf_ite) | (with_reducible apply wf_ite_fst) | (with_reducible apply State.set_wf) | (with_reducible apply State.answer_wf) | (with_reducible apply wf_foldl (hg := fun _ _ _ => ?_)) | (with_reducible apply wf_foldl_fst (hg := fun _ _ _ => ?_)) | split | dsimp only)

theorem writeSpkPtr_wf (s : State) (p : Nat) (v : Word) (h₀ : Memory.wf s = true) : Memory.wf (writeSpkPtr s p v) = true := by
  unfold writeSpkPtr
  try dsimp only
  repeat' (first | (with_reducible assumption) | (with_reducible apply wf_ite) | (with_reducible apply wf_ite_fst) | (with_reducible apply State.wr_wf) | (with_reducible apply wf_foldl (hg := fun _ _ _ => ?_)) | (with_reducible apply wf_foldl_fst (hg := fun _ _ _ => ?_)) | split | dsimp only)

theorem clampXmax_wf (s : State) (c : Nat) (b : Bool) (h₀ : Memory.wf s = true) : Memory.wf (clampXmax s c b) = true := by
  unfold clampXmax
  try dsimp only
  repeat' (first | (with_reducible assumption) | (with_reducible apply wf_ite) | (with_reducible apply wf_ite_fst) | (with_reducible apply State.putBank_wf) | (with_reducible apply wf_foldl (hg := fun _ _ _ => ?_)) | (with_reducible apply wf_foldl_fst (hg := fun _ _ _ => ?_)) | split | dsimp only)

end Sys2Proof.Machine
end

