-- ==== Sys2Proof/Laws/FrameMusicBox.lean ====
section
/-! SUPPORT. Laws/FrameMusicBox.lean: what the operations of Machine/MusicBox.lean may change (f_only; f_step after what went before), and
that each keeps the memories' canonical form (f_wf). -/

set_option Elab.async false
set_option linter.all false

namespace Sys2Proof.Machine

theorem State.mbUp_only (s : State) (c : Nat) (f : MbChan → MbChan) : Only [.mb] s (State.mbUp s c f) := by
  unfold State.mbUp
  try dsimp only
  repeat' (first | (with_reducible exact Only.refl _ _) | (with_reducible apply Only.ite) | (with_reducible apply Only.ite_fst) | (with_reducible apply Only.foldl (hg := fun _ _ => ?_)) | (with_reducible apply Only.foldl_fst (hg := fun _ _ => ?_)) | split | dsimp only | (with_reducible apply only_with_mb_step (hm := by decide)))
theorem State.mbUp_step {l₀ : List Part} {s₀ : State} (s : State) (c : Nat) (f : MbChan → MbChan) (h₀ : Only l₀ s₀ s) (hm : [.mb] ⊆ l₀) : Only l₀ s₀ (State.mbUp s c f) :=
  h₀.step (State.mbUp_only s c f) hm

theorem bankAdvance_only (s : State) (c : Nat) : Only [.regs] s (bankAdvance s c) := by
  unfold bankAdvance
  try dsimp only
  repeat' (first | (with_reducible exact Only.refl _ _) | (with_reducible apply Only.ite) | (with_reducible apply Only.ite_fst) | (with_reducible apply State.set_step (hm := by decide)) | (with_reducible apply Only.foldl (hg := fun _ _ => ?_)) | (with_reducible apply Only.foldl_fst (hg := fun _ _ => ?_)) | split | dsimp only)
theorem bankAdvance_step {l₀ : List Part} {s₀ : State} (s : State) (c : Nat) (h₀ : Only l₀ s₀ s) (hm : [.regs] ⊆ l₀) : Only l₀ s₀ (bankAdvance s c) :=
  h₀.step (bankAdvance_only s c) hm

theorem bankWrite_only (s : State) (c : Nat) (v : Word) : Only [.regs, .banks] s (bankWrite s c v) := by
  unfold bankWrite
  try dsimp only
  repeat' (first | (with_reducible exact Only.refl _ _) | (with_reducible apply Only.ite) | (with_reducible apply Only.ite_fst) | (with_reducible apply bankAdvance_step (hm := by decide)) | (with_reducible apply State.raiseIf_step (hm := by decide)) | (with_reducible apply State.raise_step (hm := by decide)) | (with_reducible apply State.putBank_step (hm := by decide)) | (with_reducible apply Only.foldl (hg := fun _ _ => ?_)) | (with_reducible apply Only.foldl_fst (hg := fun _ _ => ?_)) | split | dsimp only)
theorem bankWrite_step {l₀ : List Part} {s₀ : State} (s : State) (c : Nat) (v : Word) (h₀ : Only l₀ s₀ s) (hm : [.regs, .banks] ⊆ l₀) : Only l₀ s₀ (bankWrite s c v) :=
  h₀.step (bankWrite_only s c v) hm

theorem bankRead_only (s : State) (c : Nat) : Only [.regs, .rdata] s (bankRead s c) := by
  unfold bankRead
  try dsimp only
  repeat' (first | (with_reducible exact Only.refl _ _) | (with_reducible apply Only.ite) | (with_reducible apply Only.ite_fst) | (with_reducible apply bankAdvance_step (hm := by decide)) | (with_reducible apply State.answer_step (hm := by decide)) | (with_reducible apply Only.foldl (hg := fun _ _ => ?_)) | (with_reducible apply Only.foldl_fst (hg := fun _ _ => ?_)) | split | dsimp only)
theorem bankRead_step {l₀ : List Part} {s₀ : State} (s : State) (c : Nat) (h₀ : Only l₀ s₀ s) (hm : [.regs, .rdata] ⊆ l₀) : Only l₀ s₀ (bankRead s c) :=
  h₀.step (bankRead_only s c) hm

theorem mbUnit_only (s : State) (q : Nat) (add : Nat → Nat → List Word) : Only [.regs, .gates, .mb] s (mbUnit s q add) := by
  unfold mbUnit
  try dsimp only
  repeat' (first | (with_reducible exact Only.refl _ _) | (with_reducible apply Only.ite) | (with_reducible apply Only.ite_fst) | (with_reducible apply State.set_step (hm := by decide)) | (with_reducible apply gatePush_step (hm := by decide)) | (with_reducible apply Only.foldl (hg := fun _ _ => ?_)) | (with_reducible apply Only.foldl_fst (hg := fun _ _ => ?_)) | split | dsimp only | (with_reducible apply only_with_mb_step (hm := by decide)))
theorem mbUnit_step {l₀ : List Part} {s₀ : State} (s : State) (q : Nat) (add : Nat → Nat → List Word) (h₀ : Only l₀ s₀ s) (hm : [.regs, .gates, .mb] ⊆ l₀) : Only l₀ s₀ (mbUnit s q add) :=
  h₀.step (mbUnit_only s q add) hm

theorem handOff_only (s : State) : Only [.regs, .gates] s (handOff s) := by
  unfold handOff
  try dsimp only
  repeat' (first | (with_reducible exact Only.refl _ _) | (with_reducible apply Only.ite) | (with_reducible apply Only.ite_fst) | (with_reducible apply gatePush_step (hm := by decide)) | (with_reducible apply Only.foldl (hg := fun _ _ => ?_)) | (with_reducible apply Only.foldl_fst (hg := fun _ _ => ?_)) | split | dsimp only)
theorem handOff_step {l₀ : List Part} {s₀ : State} (s : State) (h₀ : Only l₀ s₀ s) (hm : [.regs, .gates] ⊆ l₀) : Only l₀ s₀ (handOff s) :=
  h₀.step (handOff_only s) hm

theorem monitorPeriod_only (s : State) : Only [.ain] s (monitorPeriod s) := by
  unfold monitorPeriod
  try dsimp only
  repeat' (first | (with_reducible exact Only.refl _ _) | (with_reducible apply Only.ite) | (with_reducible apply Only.ite_fst) | (with_reducible apply State.ainUp_step (hm := by decide)) | (with_reducible apply Only.foldl (hg := fun _ _ => ?_)) | (with_reducible apply Only.foldl_fst (hg := fun _ _ => ?_)) | split | dsimp only)
theorem monitorPeriod_step {l₀ : List Part} {s₀ : State} (s : State) (h₀ : Only l₀ s₀ s) (hm : [.ain] ⊆ l₀) : Only l₀ s₀ (monitorPeriod s) :=
  h₀.step (monitorPeriod_only s) hm

theorem samplePeriod_only (s : State) : Only [.regs, .gates, .ain] s (samplePeriod s) := by
  unfold samplePeriod
  try dsimp only
  repeat' (first | (with_reducible exact Only.refl _ _) | (with_reducible apply Only.ite) | (with_reducible apply Only.ite_fst) | (with_reducible apply monitorPeriod_step (hm := by decide)) | (with_reducible apply collectSample_step (hm := by decide)) | (with_reducible apply State.ainUp_step (hm := by decide)) | (with_reducible apply receiveReader_step (hm := by decide)) | (with_reducible apply handOff_step (hm := by decide)) | (with_reducible apply Only.foldl (hg := fun _ _ => ?_)) | (with_reducible apply Only.foldl_fst (hg := fun _ _ => ?_)) | split | dsimp only)
theorem samplePeriod_step {l₀ : List Part} {s₀ : State} (s : State) (h₀ : Only l₀ s₀ s) (hm : [.regs, .gates, .ain] ⊆ l₀) : Only l₀ s₀ (samplePeriod s) :=
  h₀.step (samplePeriod_only s) hm

theorem sceneGo_only (s : State) : Only [.regs, .scn] s (sceneGo s) := by
  unfold sceneGo
  try dsimp only
  repeat' (first | (with_reducible exact Only.refl _ _) | (with_reducible apply Only.ite) | (with_reducible apply Only.ite_fst) | (with_reducible apply State.raise_step (hm := by decide)) | (with_reducible apply State.set_step (hm := by decide)) | (with_reducible apply State.setB_step (hm := by decide)) | (with_reducible apply Only.foldl (hg := fun _ _ => ?_)) | (with_reducible apply Only.foldl_fst (hg := fun _ _ => ?_)) | split | dsimp only | (with_reducible apply only_with_scn_step (hm := by decide)))
theorem sceneGo_step {l₀ : List Part} {s₀ : State} (s : State) (h₀ : Only l₀ s₀ s) (hm : [.regs, .scn] ⊆ l₀) : Only l₀ s₀ (sceneGo s) :=
  h₀.step (sceneGo_only s) hm

theorem dropOther_only (s : State) : Only [.mb] s (dropOther s) := by
  unfold dropOther
  try dsimp only
  repeat' (first | (with_reducible exact Only.refl _ _) | (with_reducible apply Only.ite) | (with_reducible apply Only.ite_fst) | (with_reducible apply Only.foldl (hg := fun _ _ => ?_)) | (with_reducible apply Only.foldl_fst (hg := fun _ _ => ?_)) | split | dsimp only | (with_reducible apply only_with_mb_step (hm := by decide)))
theorem dropOther_step {l₀ : List Part} {s₀ : State} (s : State) (h₀ : Only l₀ s₀ s) (hm : [.mb] ⊆ l₀) : Only l₀ s₀ (dropOther s) :=
  h₀.step (dropOther_only s) hm

theorem sceneAbort_only (s : State) : Only [.regs, .mb, .scn] s (sceneAbort s) := by
  unfold sceneAbort
  try dsimp only
  repeat' (first | (with_reducible exact Only.refl _ _) | (with_reducible apply Only.ite) | (with_reducible apply Only.ite_fst) | (with_reducible apply State.set_step (hm := by decide)) | (with_reducible apply dropOther_step (hm := by decide)) | (with_reducible apply Only.foldl (hg := fun _ _ => ?_)) | (with_reducible apply Only.foldl_fst (hg := fun _ _ => ?_)) | split | dsimp only | (with_reducible apply only_with_scn_step (hm := by decide)))
theorem sceneAbort_step {l₀ : List Part} {s₀ : State} (s : State) (h₀ : Only l₀ s₀ s) (hm : [.regs, .mb, .scn] ⊆ l₀) : Only l₀ s₀ (sceneAbort s) :=
  h₀.step (sceneAbort_only s) hm

theorem writeScnArm_only (s : State) (v : Word) : Only [.regs, .mb, .scn] s (writeScnArm s v) := by
  unfold writeScnArm
  try dsimp only
  repeat' (first | (with_reducible exact Only.refl _ _) | (with_reducible apply Only.ite) | (with_reducible apply Only.ite_fst) | (with_reducible apply sceneAbort_step (hm := by decide)) | (with_reducible apply sceneGo_step (hm := by decide)) | (with_reducible apply Only.foldl (hg := fun _ _ => ?_)) | (with_reducible apply Only.foldl_fst (hg := fun _ _ => ?_)) | split | dsimp only)
theorem writeScnArm_step {l₀ : List Part} {s₀ : State} (s : State) (v : Word) (h₀ : Only l₀ s₀ s) (hm : [.regs, .mb, .scn] ⊆ l₀) : Only l₀ s₀ (writeScnArm s v) :=
  h₀.step (writeScnArm_only s v) hm

theorem sceneEndAtBlock_only (s : State) : Only [.regs, .mb] s (sceneEndAtBlock s) := by
  unfold sceneEndAtBlock
  try dsimp only
  repeat' (first | (with_reducible exact Only.refl _ _) | (with_reducible apply Only.ite) | (with_reducible apply Only.ite_fst) | (with_reducible apply State.set_step (hm := by decide)) | (with_reducible apply dropOther_step (hm := by decide)) | (with_reducible apply Only.foldl (hg := fun _ _ => ?_)) | (with_reducible apply Only.foldl_fst (hg := fun _ _ => ?_)) | split | dsimp only)
theorem sceneEndAtBlock_step {l₀ : List Part} {s₀ : State} (s : State) (h₀ : Only l₀ s₀ s) (hm : [.regs, .mb] ⊆ l₀) : Only l₀ s₀ (sceneEndAtBlock s) :=
  h₀.step (sceneEndAtBlock_only s) hm

theorem sceneWarmAtBlock_only (s : State) : Only [.regs, .mb, .scn] s (sceneWarmAtBlock s) := by
  unfold sceneWarmAtBlock
  try dsimp only
  repeat' (first | (with_reducible exact Only.refl _ _) | (with_reducible apply Only.ite) | (with_reducible apply Only.ite_fst) | (with_reducible apply dropOther_step (hm := by decide)) | (with_reducible apply State.setB_step (hm := by decide)) | (with_reducible apply Only.foldl (hg := fun _ _ => ?_)) | (with_reducible apply Only.foldl_fst (hg := fun _ _ => ?_)) | split | dsimp only | (with_reducible apply only_with_scn_step (hm := by decide)))
theorem sceneWarmAtBlock_step {l₀ : List Part} {s₀ : State} (s : State) (h₀ : Only l₀ s₀ s) (hm : [.regs, .mb, .scn] ⊆ l₀) : Only l₀ s₀ (sceneWarmAtBlock s) :=
  h₀.step (sceneWarmAtBlock_only s) hm

theorem sceneActivate_only (s : State) : Only [.regs, .mb, .scn] s (sceneActivate s) := by
  unfold sceneActivate
  try dsimp only
  repeat' (first | (with_reducible exact Only.refl _ _) | (with_reducible apply Only.ite) | (with_reducible apply Only.ite_fst) | (with_reducible apply State.raiseIf_step (hm := by decide)) | (with_reducible apply State.set_step (hm := by decide)) | (with_reducible apply Only.foldl (hg := fun _ _ => ?_)) | (with_reducible apply Only.foldl_fst (hg := fun _ _ => ?_)) | split | dsimp only | (with_reducible apply only_with_mb_scn_step (hm := by decide)))
theorem sceneActivate_step {l₀ : List Part} {s₀ : State} (s : State) (h₀ : Only l₀ s₀ s) (hm : [.regs, .mb, .scn] ⊆ l₀) : Only l₀ s₀ (sceneActivate s) :=
  h₀.step (sceneActivate_only s) hm

theorem blockIndexRead_only (s : State) : Only [.rdata, .scn] s (blockIndexRead s) := by
  unfold blockIndexRead
  try dsimp only
  repeat' (first | (with_reducible exact Only.refl _ _) | (with_reducible apply Only.ite) | (with_reducible apply Only.ite_fst) | (with_reducible apply Only.foldl (hg := fun _ _ => ?_)) | (with_reducible apply Only.foldl_fst (hg := fun _ _ => ?_)) | split | dsimp only | (with_reducible apply only_with_rdata_scn_step (hm := by decide)))
theorem blockIndexRead_step {l₀ : List Part} {s₀ : State} (s : State) (h₀ : Only l₀ s₀ s) (hm : [.rdata, .scn] ⊆ l₀) : Only l₀ s₀ (blockIndexRead s) :=
  h₀.step (blockIndexRead_only s) hm

theorem writeScnCfg_only (s : State) (p : Nat) (v : Word) : Only [.regs, .heldU, .heldB] s (writeScnCfg s p v) := by
  unfold writeScnCfg
  try dsimp only
  repeat' (first | (with_reducible exact Only.refl _ _) | (with_reducible apply Only.ite) | (with_reducible apply Only.ite_fst) | (with_reducible apply State.raise_step (hm := by decide)) | (with_reducible apply storeCoded_step (hm := by decide)) | (with_reducible apply Only.foldl (hg := fun _ _ => ?_)) | (with_reducible apply Only.foldl_fst (hg := fun _ _ => ?_)) | split | dsimp only)
theorem writeScnCfg_step {l₀ : List Part} {s₀ : State} (s : State) (p : Nat) (v : Word) (h₀ : Only l₀ s₀ s) (hm : [.regs, .heldU, .heldB] ⊆ l₀) : Only l₀ s₀ (writeScnCfg s p v) :=
  h₀.step (writeScnCfg_only s p v) hm

theorem laWrite_only (s : State) (c : Nat) (v : Word) : Only [.regs] s (laWrite s c v) := by
  unfold laWrite
  try dsimp only
  repeat' (first | (with_reducible exact Only.refl _ _) | (with_reducible apply Only.ite) | (with_reducible apply Only.ite_fst) | (with_reducible apply State.set_step (hm := by decide)) | (with_reducible apply State.raise_step (hm := by decide)) | (with_reducible apply Only.foldl (hg := fun _ _ => ?_)) | (with_reducible apply Only.foldl_fst (hg := fun _ _ => ?_)) | split | dsimp only)
theorem laWrite_step {l₀ : List Part} {s₀ : State} (s : State) (c : Nat) (v : Word) (h₀ : Only l₀ s₀ s) (hm : [.regs] ⊆ l₀) : Only l₀ s₀ (laWrite s c v) :=
  h₀.step (laWrite_only s c v) hm

theorem laAtBlock_only (s : State) : Only [.mb] s (laAtBlock s) := by
  unfold laAtBlock
  try dsimp only
  repeat' (first | (with_reducible exact Only.refl _ _) | (with_reducible apply Only.ite) | (with_reducible apply Only.ite_fst) | (with_reducible apply Only.foldl (hg := fun _ _ => ?_)) | (with_reducible apply Only.foldl_fst (hg := fun _ _ => ?_)) | split | dsimp only | (with_reducible apply only_with_mb_step (hm := by decide)))
theorem laAtBlock_step {l₀ : List Part} {s₀ : State} (s : State) (h₀ : Only l₀ s₀ s) (hm : [.mb] ⊆ l₀) : Only l₀ s₀ (laAtBlock s) :=
  h₀.step (laAtBlock_only s) hm

theorem handOffAtBlock_only (s : State) : Only [.mb] s (handOffAtBlock s) := by
  unfold handOffAtBlock
  try dsimp only
  repeat' (first | (with_reducible exact Only.refl _ _) | (with_reducible apply Only.ite) | (with_reducible apply Only.ite_fst) | (with_reducible apply Only.foldl (hg := fun _ _ => ?_)) | (with_reducible apply Only.foldl_fst (hg := fun _ _ => ?_)) | split | dsimp only | (with_reducible apply only_with_mb_step (hm := by decide)))
theorem handOffAtBlock_step {l₀ : List Part} {s₀ : State} (s : State) (h₀ : Only l₀ s₀ s) (hm : [.mb] ⊆ l₀) : Only l₀ s₀ (handOffAtBlock s) :=
  h₀.step (handOffAtBlock_only s) hm

theorem overrunsAtBlock_only (s : State) : Only [.regs, .mb] s (overrunsAtBlock s) := by
  unfold overrunsAtBlock
  try dsimp only
  repeat' (first | (with_reducible exact Only.refl _ _) | (with_reducible apply Only.ite) | (with_reducible apply Only.ite_fst) | (with_reducible apply State.set_step (hm := by decide)) | (with_reducible apply State.raise_step (hm := by decide)) | (with_reducible apply Only.foldl (hg := fun _ _ => ?_)) | (with_reducible apply Only.foldl_fst (hg := fun _ _ => ?_)) | split | dsimp only | (with_reducible apply only_with_mb_step (hm := by decide)))
theorem overrunsAtBlock_step {l₀ : List Part} {s₀ : State} (s : State) (h₀ : Only l₀ s₀ s) (hm : [.regs, .mb] ⊆ l₀) : Only l₀ s₀ (overrunsAtBlock s) :=
  h₀.step (overrunsAtBlock_only s) hm

theorem gainsAtBlock_only (s : State) : Only [.mb] s (gainsAtBlock s) := by
  unfold gainsAtBlock
  try dsimp only
  repeat' (first | (with_reducible exact Only.refl _ _) | (with_reducible apply Only.ite) | (with_reducible apply Only.ite_fst) | (with_reducible apply Only.foldl (hg := fun _ _ => ?_)) | (with_reducible apply Only.foldl_fst (hg := fun _ _ => ?_)) | split | dsimp only | (with_reducible apply only_with_mb_step (hm := by decide)))
theorem gainsAtBlock_step {l₀ : List Part} {s₀ : State} (s : State) (h₀ : Only l₀ s₀ s) (hm : [.mb] ⊆ l₀) : Only l₀ s₀ (gainsAtBlock s) :=
  h₀.step (gainsAtBlock_only s) hm

theorem showFades_only (s : State) : Only [.regs] s (showFades s) := by
  unfold showFades
  try dsimp only
  repeat' (first | (with_reducible exact Only.refl _ _) | (with_reducible apply Only.ite) | (with_reducible apply Only.ite_fst) | (with_reducible apply State.setB_step (hm := by decide)) | (with_reducible apply Only.foldl (hg := fun _ _ => ?_)) | (with_reducible apply Only.foldl_fst (hg := fun _ _ => ?_)) | split | dsimp only)
theorem showFades_step {l₀ : List Part} {s₀ : State} (s : State) (h₀ : Only l₀ s₀ s) (hm : [.regs] ⊆ l₀) : Only l₀ s₀ (showFades s) :=
  h₀.step (showFades_only s) hm

theorem coreSwap_only (s : State) (q : Nat) : Only [.regs, .mb, .bkg] s (coreSwap s q) := by
  unfold coreSwap
  try dsimp only
  repeat' (first | (with_reducible exact Only.refl _ _) | (with_reducible apply Only.ite) | (with_reducible apply Only.ite_fst) | (with_reducible apply State.raise_step (hm := by decide)) | (with_reducible apply queueRetire_step (hm := by decide)) | (with_reducible apply State.set_step (hm := by decide)) | (with_reducible apply Only.foldl (hg := fun _ _ => ?_)) | (with_reducible apply Only.foldl_fst (hg := fun _ _ => ?_)) | split | dsimp only | (with_reducible apply only_with_mb_step (hm := by decide)))
theorem coreSwap_step {l₀ : List Part} {s₀ : State} (s : State) (q : Nat) (h₀ : Only l₀ s₀ s) (hm : [.regs, .mb, .bkg] ⊆ l₀) : Only l₀ s₀ (coreSwap s q) :=
  h₀.step (coreSwap_only s q) hm

theorem coreFail_only (s : State) (q : Nat) : Only [.regs, .mb] s (coreFail s q) := by
  unfold coreFail
  try dsimp only
  repeat' (first | (with_reducible exact Only.refl _ _) | (with_reducible apply Only.ite) | (with_reducible apply Only.ite_fst) | (with_reducible apply State.set_step (hm := by decide)) | (with_reducible apply State.raise_step (hm := by decide)) | (with_reducible apply Only.foldl (hg := fun _ _ => ?_)) | (with_reducible apply Only.foldl_fst (hg := fun _ _ => ?_)) | split | dsimp only | (with_reducible apply only_with_mb_step (hm := by decide)))
theorem coreFail_step {l₀ : List Part} {s₀ : State} (s : State) (q : Nat) (h₀ : Only l₀ s₀ s) (hm : [.regs, .mb] ⊆ l₀) : Only l₀ s₀ (coreFail s q) :=
  h₀.step (coreFail_only s q) hm

theorem swapRequest_only (s : State) (q : Nat) : Only [.regs, .mb] s (swapRequest s q) := by
  unfold swapRequest
  try dsimp only
  repeat' (first | (with_reducible exact Only.refl _ _) | (with_reducible apply Only.ite) | (with_reducible apply Only.ite_fst) | (with_reducible apply State.set_step (hm := by decide)) | (with_reducible apply Only.foldl (hg := fun _ _ => ?_)) | (with_reducible apply Only.foldl_fst (hg := fun _ _ => ?_)) | split | dsimp only | (with_reducible apply only_with_mb_step (hm := by decide)))
theorem swapRequest_step {l₀ : List Part} {s₀ : State} (s : State) (q : Nat) (h₀ : Only l₀ s₀ s) (hm : [.regs, .mb] ⊆ l₀) : Only l₀ s₀ (swapRequest s q) :=
  h₀.step (swapRequest_only s q) hm

theorem retireSpareCore_only (s : State) : Only [.regs, .bkg] s (retireSpareCore s) := by
  unfold retireSpareCore
  try dsimp only
  repeat' (first | (with_reducible exact Only.refl _ _) | (with_reducible apply Only.ite) | (with_reducible apply Only.ite_fst) | (with_reducible apply State.set_step (hm := by decide)) | (with_reducible apply queueRetire_step (hm := by decide)) | (with_reducible apply Only.foldl (hg := fun _ _ => ?_)) | (with_reducible apply Only.foldl_fst (hg := fun _ _ => ?_)) | split | dsimp only)
theorem retireSpareCore_step {l₀ : List Part} {s₀ : State} (s : State) (h₀ : Only l₀ s₀ s) (hm : [.regs, .bkg] ⊆ l₀) : Only l₀ s₀ (retireSpareCore s) :=
  h₀.step (retireSpareCore_only s) hm

theorem mbCoreUe_only (s : State) (p : Nat) : Only [.regs, .mb, .bkg] s (mbCoreUe s p) := by
  unfold mbCoreUe
  try dsimp only
  repeat' (first | (with_reducible exact Only.refl _ _) | (with_reducible apply Only.ite) | (with_reducible apply Only.ite_fst) | (with_reducible apply State.set_step (hm := by decide)) | (with_reducible apply retireSpareCore_step (hm := by decide)) | (with_reducible apply Only.foldl (hg := fun _ _ => ?_)) | (with_reducible apply Only.foldl_fst (hg := fun _ _ => ?_)) | split | dsimp only | (with_reducible apply only_with_mb_step (hm := by decide)))
theorem mbCoreUe_step {l₀ : List Part} {s₀ : State} (s : State) (p : Nat) (h₀ : Only l₀ s₀ s) (hm : [.regs, .mb, .bkg] ⊆ l₀) : Only l₀ s₀ (mbCoreUe s p) :=
  h₀.step (mbCoreUe_only s p) hm

/-! ### The canonical form -/

theorem State.mbUp_wf (s : State) (c : Nat) (f : MbChan → MbChan) (h₀ : Memory.wf s = true) : Memory.wf (State.mbUp s c f) = true :=
  Only.wf (State.mbUp_only s c f) (by decide) h₀

theorem bankAdvance_wf (s : State) (c : Nat) (h₀ : Memory.wf s = true) : Memory.wf (bankAdvance s c) = true := by
  unfold bankAdvance
  try dsimp only
  repeat' (first | (with_reducible assumption) | (with_reducible apply wf_ite) | (with_reducible apply wf_ite_fst) | (with_reducible apply State.set_wf) | (with_reducible apply wf_foldl (hg := fun _ _ _ => ?_)) | (with_reducible apply wf_foldl_fst (hg := fun _ _ _ => ?_)) | split | dsimp only)

theorem bankWrite_wf (s : State) (c : Nat) (v : Word) (h₀ : Memory.wf s = true) : Memory.wf (bankWrite s c v) = true := by
  unfold bankWrite
  try dsimp only
  repeat' (first | (with_reducible assumption) | (with_reducible apply wf_ite) | (with_reducible apply wf_ite_fst) | (with_reducible apply State.raiseIf_wf) | (with_reducible apply State.putBank_wf) | (with_reducible apply bankAdvance_wf) | (with_reducible apply State.raise_wf) | (with_reducible apply wf_foldl (hg := fun _ _ _ => ?_)) | (with_reducible apply wf_foldl_fst (hg := fun _ _ _ => ?_)) | split | dsimp only)

theorem bankRead_wf (s : State) (c : Nat) (h₀ : Memory.wf s = true) : Memory.wf (bankRead s c) = true := by
  unfold bankRead
  try dsimp only
  repeat' (first | (with_reducible assumption) | (with_reducible apply wf_ite) | (with_reducible apply wf_ite_fst) | (with_reducible apply bankAdvance_wf) | (with_reducible apply State.answer_wf) | (with_reducible apply wf_foldl (hg := fun _ _ _ => ?_)) | (with_reducible apply wf_foldl_fst (hg := fun _ _ _ => ?_)) | split | dsimp only)

theorem mbUnit_wf (s : State) (q : Nat) (add : Nat → Nat → List Word) (h₀ : Memory.wf s = true) : Memory.wf (mbUnit s q add) = true := by
  unfold mbUnit
  try dsimp only
  repeat' (first | (with_reducible assumption) | (with_reducible apply wf_ite) | (with_reducible apply wf_ite_fst) | (with_reducible apply State.set_wf) | (with_reducible apply gatePush_wf) | (with_reducible apply wf_foldl (hg := fun _ _ _ => ?_)) | (with_reducible apply wf_foldl_fst (hg := fun _ _ _ => ?_)) | split | dsimp only | (with_reducible apply wf_with_mb))

theorem handOff_wf (s : State) (h₀ : Memory.wf s = true) : Memory.wf (handOff s) = true := by
  unfold handOff
  try dsimp only
  repeat' (first | (with_reducible assumption) | (with_reducible apply wf_ite) | (with_reducible apply wf_ite_fst) | (with_reducible apply gatePush_wf) | (with_reducible apply wf_foldl (hg := fun _ _ _ => ?_)) | (with_reducible apply wf_foldl_fst (hg := fun _ _ _ => ?_)) | split | dsimp only)

theorem monitorPeriod_wf (s : State) (h₀ : Memory.wf s = true) : Memory.wf (monitorPeriod s) = true :=
  Only.wf (monitorPeriod_only s) (by decide) h₀

theorem samplePeriod_wf (s : State) (h₀ : Memory.wf s = true) : Memory.wf (samplePeriod s) = true := by
  unfold samplePeriod
  try dsimp only
  repeat' (first | (with_reducible assumption) | (with_reducible apply wf_ite) | (with_reducible apply wf_ite_fst) | (with_reducible apply receiveReader_wf) | (with_reducible apply monitorPeriod_wf) | (with_reducible apply State.ainUp_wf) | (with_reducible apply collectSample_wf) | (with_reducible apply handOff_wf) | (with_reducible apply wf_foldl (hg := fun _ _ _ => ?_)) | (with_reducible apply wf_foldl_fst (hg := fun _ _ _ => ?_)) | split | dsimp only)

theorem sceneGo_wf (s : State) (h₀ : Memory.wf s = true) : Memory.wf (sceneGo s) = true := by
  unfold sceneGo
  try dsimp only
  repeat' (first | (with_reducible assumption) | (with_reducible apply wf_ite) | (with_reducible apply wf_ite_fst) | (with_reducible apply State.setB_wf) | (with_reducible apply State.set_wf) | (with_reducible apply State.raise_wf) | (with_reducible apply wf_foldl (hg := fun _ _ _ => ?_)) | (with_reducible apply wf_foldl_fst (hg := fun _ _ _ => ?_)) | split | dsimp only | (with_reducible apply wf_with_scn))

theorem dropOther_wf (s : State) (h₀ : Memory.wf s = true) : Memory.wf (dropOther s) = true :=
  Only.wf (dropOther_only s) (by decide) h₀

theorem sceneAbort_wf (s : State) (h₀ : Memory.wf s = true) : Memory.wf (sceneAbort s) = true := by
  unfold sceneAbort
  try dsimp only
  repeat' (first | (with_reducible assumption) | (with_reducible apply wf_ite) | (with_reducible apply wf_ite_fst) | (with_reducible apply State.set_wf) | (with_reducible apply dropOther_wf) | (with_reducible apply wf_foldl (hg := fun _ _ _ => ?_)) | (with_reducible apply wf_foldl_fst (hg := fun _ _ _ => ?_)) | split | dsimp only | (with_reducible apply wf_with_scn))

theorem writeScnArm_wf (s : State) (v : Word) (h₀ : Memory.wf s = true) : Memory.wf (writeScnArm s v) = true := by
  unfold writeScnArm
  try dsimp only
  repeat' (first | (with_reducible assumption) | (with_reducible apply wf_ite) | (with_reducible apply wf_ite_fst) | (with_reducible apply sceneGo_wf) | (with_reducible apply sceneAbort_wf) | (with_reducible apply wf_foldl (hg := fun _ _ _ => ?_)) | (with_reducible apply wf_foldl_fst (hg := fun _ _ _ => ?_)) | split | dsimp only)

theorem sceneEndAtBlock_wf (s : State) (h₀ : Memory.wf s = true) : Memory.wf (sceneEndAtBlock s) = true := by
  unfold sceneEndAtBlock
  try dsimp only
  repeat' (first | (with_reducible assumption) | (with_reducible apply wf_ite) | (with_reducible apply wf_ite_fst) | (with_reducible apply State.set_wf) | (with_reducible apply dropOther_wf) | (with_reducible apply wf_foldl (hg := fun _ _ _ => ?_)) | (with_reducible apply wf_foldl_fst (hg := fun _ _ _ => ?_)) | split | dsimp only)

theorem sceneWarmAtBlock_wf (s : State) (h₀ : Memory.wf s = true) : Memory.wf (sceneWarmAtBlock s) = true := by
  unfold sceneWarmAtBlock
  try dsimp only
  repeat' (first | (with_reducible assumption) | (with_reducible apply wf_ite) | (with_reducible apply wf_ite_fst) | (with_reducible apply State.setB_wf) | (with_reducible apply dropOther_wf) | (with_reducible apply wf_foldl (hg := fun _ _ _ => ?_)) | (with_reducible apply wf_foldl_fst (hg := fun _ _ _ => ?_)) | split | dsimp only | (with_reducible apply wf_with_scn))

theorem sceneActivate_wf (s : State) (h₀ : Memory.wf s = true) : Memory.wf (sceneActivate s) = true := by
  unfold sceneActivate
  try dsimp only
  repeat' (first | (with_reducible assumption) | (with_reducible apply wf_ite) | (with_reducible apply wf_ite_fst) | (with_reducible apply State.raiseIf_wf) | (with_reducible apply State.set_wf) | (with_reducible apply wf_foldl (hg := fun _ _ _ => ?_)) | (with_reducible apply wf_foldl_fst (hg := fun _ _ _ => ?_)) | split | dsimp only | (with_reducible apply wf_with_mb_scn))

theorem blockIndexRead_wf (s : State) (h₀ : Memory.wf s = true) : Memory.wf (blockIndexRead s) = true :=
  Only.wf (blockIndexRead_only s) (by decide) h₀

theorem writeScnCfg_wf (s : State) (p : Nat) (v : Word) (h₀ : Memory.wf s = true) : Memory.wf (writeScnCfg s p v) = true := by
  unfold writeScnCfg
  try dsimp only
  repeat' (first | (with_reducible assumption) | (with_reducible apply wf_ite) | (with_reducible apply wf_ite_fst) | (with_reducible apply State.raise_wf) | (with_reducible apply storeCoded_wf) | (with_reducible apply wf_foldl (hg := fun _ _ _ => ?_)) | (with_reducible apply wf_foldl_fst (hg := fun _ _ _ => ?_)) | split | dsimp only)

theorem laWrite_wf (s : State) (c : Nat) (v : Word) (h₀ : Memory.wf s = true) : Memory.wf (laWrite s c v) = true := by
  unfold laWrite
  try dsimp only
  repeat' (first | (with_reducible assumption) | (with_reducible apply wf_ite) | (with_reducible apply wf_ite_fst) | (with_reducible apply State.raise_wf) | (with_reducible apply State.set_wf) | (with_reducible apply wf_foldl (hg := fun _ _ _ => ?_)) | (with_reducible apply wf_foldl_fst (hg := fun _ _ _ => ?_)) | split | dsimp only)

theorem laAtBlock_wf (s : State) (h₀ : Memory.wf s = true) : Memory.wf (laAtBlock s) = true :=
  Only.wf (laAtBlock_only s) (by decide) h₀

theorem handOffAtBlock_wf (s : State) (h₀ : Memory.wf s = true) : Memory.wf (handOffAtBlock s) = true :=
  Only.wf (handOffAtBlock_only s) (by decide) h₀

theorem overrunsAtBlock_wf (s : State) (h₀ : Memory.wf s = true) : Memory.wf (overrunsAtBlock s) = true := by
  unfold overrunsAtBlock
  try dsimp only
  repeat' (first | (with_reducible assumption) | (with_reducible apply wf_ite) | (with_reducible apply wf_ite_fst) | (with_reducible apply State.raise_wf) | (with_reducible apply State.set_wf) | (with_reducible apply wf_foldl (hg := fun _ _ _ => ?_)) | (with_reducible apply wf_foldl_fst (hg := fun _ _ _ => ?_)) | split | dsimp only | (with_reducible apply wf_with_mb))

theorem gainsAtBlock_wf (s : State) (h₀ : Memory.wf s = true) : Memory.wf (gainsAtBlock s) = true :=
  Only.wf (gainsAtBlock_only s) (by decide) h₀

theorem showFades_wf (s : State) (h₀ : Memory.wf s = true) : Memory.wf (showFades s) = true := by
  unfold showFades
  try dsimp only
  repeat' (first | (with_reducible assumption) | (with_reducible apply wf_ite) | (with_reducible apply wf_ite_fst) | (with_reducible apply State.setB_wf) | (with_reducible apply wf_foldl (hg := fun _ _ _ => ?_)) | (with_reducible apply wf_foldl_fst (hg := fun _ _ _ => ?_)) | split | dsimp only)

theorem coreSwap_wf (s : State) (q : Nat) (h₀ : Memory.wf s = true) : Memory.wf (coreSwap s q) = true := by
  unfold coreSwap
  try dsimp only
  repeat' (first | (with_reducible assumption) | (with_reducible apply wf_ite) | (with_reducible apply wf_ite_fst) | (with_reducible apply State.raise_wf) | (with_reducible apply queueRetire_wf) | (with_reducible apply State.set_wf) | (with_reducible apply wf_foldl (hg := fun _ _ _ => ?_)) | (with_reducible apply wf_foldl_fst (hg := fun _ _ _ => ?_)) | split | dsimp only | (with_reducible apply wf_with_mb))

theorem coreFail_wf (s : State) (q : Nat) (h₀ : Memory.wf s = true) : Memory.wf (coreFail s q) = true := by
  unfold coreFail
  try dsimp only
  repeat' (first | (with_reducible assumption) | (with_reducible apply wf_ite) | (with_reducible apply wf_ite_fst) | (with_reducible apply State.raise_wf) | (with_reducible apply State.set_wf) | (with_reducible apply wf_foldl (hg := fun _ _ _ => ?_)) | (with_reducible apply wf_foldl_fst (hg := fun _ _ _ => ?_)) | split | dsimp only | (with_reducible apply wf_with_mb))

theorem swapRequest_wf (s : State) (q : Nat) (h₀ : Memory.wf s = true) : Memory.wf (swapRequest s q) = true := by
  unfold swapRequest
  try dsimp only
  repeat' (first | (with_reducible assumption) | (with_reducible apply wf_ite) | (with_reducible apply wf_ite_fst) | (with_reducible apply State.set_wf) | (with_reducible apply wf_foldl (hg := fun _ _ _ => ?_)) | (with_reducible apply wf_foldl_fst (hg := fun _ _ _ => ?_)) | split | dsimp only | (with_reducible apply wf_with_mb))

theorem retireSpareCore_wf (s : State) (h₀ : Memory.wf s = true) : Memory.wf (retireSpareCore s) = true := by
  unfold retireSpareCore
  try dsimp only
  repeat' (first | (with_reducible assumption) | (with_reducible apply wf_ite) | (with_reducible apply wf_ite_fst) | (with_reducible apply State.set_wf) | (with_reducible apply queueRetire_wf) | (with_reducible apply wf_foldl (hg := fun _ _ _ => ?_)) | (with_reducible apply wf_foldl_fst (hg := fun _ _ _ => ?_)) | split | dsimp only)

theorem mbCoreUe_wf (s : State) (p : Nat) (h₀ : Memory.wf s = true) : Memory.wf (mbCoreUe s p) = true := by
  unfold mbCoreUe
  try dsimp only
  repeat' (first | (with_reducible assumption) | (with_reducible apply wf_ite) | (with_reducible apply wf_ite_fst) | (with_reducible apply State.set_wf) | (with_reducible apply retireSpareCore_wf) | (with_reducible apply wf_foldl (hg := fun _ _ _ => ?_)) | (with_reducible apply wf_foldl_fst (hg := fun _ _ _ => ?_)) | split | dsimp only | (with_reducible apply wf_with_mb))

end Sys2Proof.Machine
end

