-- ==== Sys2Proof/Laws/FramePwm.lean ====
section
/-! SUPPORT. Laws/FramePwm.lean: what the operations of Machine/Pwm.lean may change (f_only; f_step after what went before), and
that each keeps the memories' canonical form (f_wf). -/

set_option Elab.async false
set_option linter.all false

namespace Sys2Proof.Machine

theorem State.legUp_only (s : State) (l : Nat) (f : LegGen → LegGen) : Only [.legs] s (State.legUp s l f) := by
  unfold State.legUp
  try dsimp only
  repeat' (first | (with_reducible exact Only.refl _ _) | (with_reducible apply Only.ite) | (with_reducible apply Only.ite_fst) | (with_reducible apply Only.foldl (hg := fun _ _ => ?_)) | (with_reducible apply Only.foldl_fst (hg := fun _ _ => ?_)) | split | dsimp only | (with_reducible apply only_with_legs_step (hm := by decide)))
theorem State.legUp_step {l₀ : List Part} {s₀ : State} (s : State) (l : Nat) (f : LegGen → LegGen) (h₀ : Only l₀ s₀ s) (hm : [.legs] ⊆ l₀) : Only l₀ s₀ (State.legUp s l f) :=
  h₀.step (State.legUp_only s l f) hm

theorem State.pwmUp_only (s : State) (c : Nat) (f : PwmChan → PwmChan) : Only [.pwm] s (State.pwmUp s c f) := by
  unfold State.pwmUp
  try dsimp only
  repeat' (first | (with_reducible exact Only.refl _ _) | (with_reducible apply Only.ite) | (with_reducible apply Only.ite_fst) | (with_reducible apply Only.foldl (hg := fun _ _ => ?_)) | (with_reducible apply Only.foldl_fst (hg := fun _ _ => ?_)) | split | dsimp only | (with_reducible apply only_with_pwm_step (hm := by decide)))
theorem State.pwmUp_step {l₀ : List Part} {s₀ : State} (s : State) (c : Nat) (f : PwmChan → PwmChan) (h₀ : Only l₀ s₀ s) (hm : [.pwm] ⊆ l₀) : Only l₀ s₀ (State.pwmUp s c f) :=
  h₀.step (State.pwmUp_only s c f) hm

theorem setLegStates_only (s : State) (c st : Nat) : Only [.regs] s (setLegStates s c st) := by
  unfold setLegStates
  try dsimp only
  repeat' (first | (with_reducible exact Only.refl _ _) | (with_reducible apply Only.ite) | (with_reducible apply Only.ite_fst) | (with_reducible apply State.set_step (hm := by decide)) | (with_reducible apply Only.foldl (hg := fun _ _ => ?_)) | (with_reducible apply Only.foldl_fst (hg := fun _ _ => ?_)) | split | dsimp only)
theorem setLegStates_step {l₀ : List Part} {s₀ : State} (s : State) (c st : Nat) (h₀ : Only l₀ s₀ s) (hm : [.regs] ⊆ l₀) : Only l₀ s₀ (setLegStates s c st) :=
  h₀.step (setLegStates_only s c st) hm

theorem kSelect_only (s : State) (v : Word) : Only [.regs] s (kSelect s v) := by
  unfold kSelect
  try dsimp only
  repeat' (first | (with_reducible exact Only.refl _ _) | (with_reducible apply Only.ite) | (with_reducible apply Only.ite_fst) | (with_reducible apply State.raise_step (hm := by decide)) | (with_reducible apply State.set_step (hm := by decide)) | (with_reducible apply Only.foldl (hg := fun _ _ => ?_)) | (with_reducible apply Only.foldl_fst (hg := fun _ _ => ?_)) | split | dsimp only)
theorem kSelect_step {l₀ : List Part} {s₀ : State} (s : State) (v : Word) (h₀ : Only l₀ s₀ s) (hm : [.regs] ⊆ l₀) : Only l₀ s₀ (kSelect s v) :=
  h₀.step (kSelect_only s v) hm

theorem kAtBlock_only (s : State) : Only [.regs] s (kAtBlock s) := by
  unfold kAtBlock
  try dsimp only
  repeat' (first | (with_reducible exact Only.refl _ _) | (with_reducible apply Only.ite) | (with_reducible apply Only.ite_fst) | (with_reducible apply State.set_step (hm := by decide)) | (with_reducible apply Only.foldl (hg := fun _ _ => ?_)) | (with_reducible apply Only.foldl_fst (hg := fun _ _ => ?_)) | split | dsimp only)
theorem kAtBlock_step {l₀ : List Part} {s₀ : State} (s : State) (h₀ : Only l₀ s₀ s) (hm : [.regs] ⊆ l₀) : Only l₀ s₀ (kAtBlock s) :=
  h₀.step (kAtBlock_only s) hm

theorem writeDt_only (s : State) (l : Nat) (v : Word) : Only [.regs, .heldU, .heldB] s (writeDt s l v) := by
  unfold writeDt
  try dsimp only
  repeat' (first | (with_reducible exact Only.refl _ _) | (with_reducible apply Only.ite) | (with_reducible apply Only.ite_fst) | (with_reducible apply State.raise_step (hm := by decide)) | (with_reducible apply storeCoded_step (hm := by decide)) | (with_reducible apply Only.foldl (hg := fun _ _ => ?_)) | (with_reducible apply Only.foldl_fst (hg := fun _ _ => ?_)) | split | dsimp only)
theorem writeDt_step {l₀ : List Part} {s₀ : State} (s : State) (l : Nat) (v : Word) (h₀ : Only l₀ s₀ s) (hm : [.regs, .heldU, .heldB] ⊆ l₀) : Only l₀ s₀ (writeDt s l v) :=
  h₀.step (writeDt_only s l v) hm

theorem writeLim_only (s : State) (l : Nat) (v : Word) : Only [.regs, .heldU, .heldB] s (writeLim s l v) := by
  unfold writeLim
  try dsimp only
  repeat' (first | (with_reducible exact Only.refl _ _) | (with_reducible apply Only.ite) | (with_reducible apply Only.ite_fst) | (with_reducible apply State.raise_step (hm := by decide)) | (with_reducible apply storeCoded_step (hm := by decide)) | (with_reducible apply Only.foldl (hg := fun _ _ => ?_)) | (with_reducible apply Only.foldl_fst (hg := fun _ _ => ?_)) | split | dsimp only)
theorem writeLim_step {l₀ : List Part} {s₀ : State} (s : State) (l : Nat) (v : Word) (h₀ : Only l₀ s₀ s) (hm : [.regs, .heldU, .heldB] ⊆ l₀) : Only l₀ s₀ (writeLim s l v) :=
  h₀.step (writeLim_only s l v) hm

theorem writeChMod_only (s : State) (c : Nat) (v : Word) : Only [.regs, .heldU, .heldB] s (writeChMod s c v) := by
  unfold writeChMod
  try dsimp only
  repeat' (first | (with_reducible exact Only.refl _ _) | (with_reducible apply Only.ite) | (with_reducible apply Only.ite_fst) | (with_reducible apply State.raise_step (hm := by decide)) | (with_reducible apply storeCoded_step (hm := by decide)) | (with_reducible apply Only.foldl (hg := fun _ _ => ?_)) | (with_reducible apply Only.foldl_fst (hg := fun _ _ => ?_)) | split | dsimp only)
theorem writeChMod_step {l₀ : List Part} {s₀ : State} (s : State) (c : Nat) (v : Word) (h₀ : Only l₀ s₀ s) (hm : [.regs, .heldU, .heldB] ⊆ l₀) : Only l₀ s₀ (writeChMod s c v) :=
  h₀.step (writeChMod_only s c v) hm

theorem resetShapers_only (s : State) (c : Nat) : Only [.legs] s (resetShapers s c) := by
  unfold resetShapers
  try dsimp only
  repeat' (first | (with_reducible exact Only.refl _ _) | (with_reducible apply Only.ite) | (with_reducible apply Only.ite_fst) | (with_reducible apply State.legUp_step (hm := by decide)) | (with_reducible apply Only.foldl (hg := fun _ _ => ?_)) | (with_reducible apply Only.foldl_fst (hg := fun _ _ => ?_)) | split | dsimp only)
theorem resetShapers_step {l₀ : List Part} {s₀ : State} (s : State) (c : Nat) (h₀ : Only l₀ s₀ s) (hm : [.legs] ⊆ l₀) : Only l₀ s₀ (resetShapers s c) :=
  h₀.step (resetShapers_only s c) hm

theorem shapeChannel_only (s : State) (c : Nat) (m : Int) : Only [.regs, .gates, .legs] s (shapeChannel s c m) := by
  unfold shapeChannel
  try dsimp only
  repeat' (first | (with_reducible exact Only.refl _ _) | (with_reducible apply Only.ite) | (with_reducible apply Only.ite_fst) | (with_reducible apply State.legUp_step (hm := by decide)) | (with_reducible apply gatePush_step (hm := by decide)) | (with_reducible apply Only.foldl (hg := fun _ _ => ?_)) | (with_reducible apply Only.foldl_fst (hg := fun _ _ => ?_)) | split | dsimp only)
theorem shapeChannel_step {l₀ : List Part} {s₀ : State} (s : State) (c : Nat) (m : Int) (h₀ : Only l₀ s₀ s) (hm : [.regs, .gates, .legs] ⊆ l₀) : Only l₀ s₀ (shapeChannel s c m) :=
  h₀.step (shapeChannel_only s c m) hm

theorem interpTake_only (s : State) (ws : List Word) : Only [.loops] s (interpTake s ws) := by
  unfold interpTake
  try dsimp only
  repeat' (first | (with_reducible exact Only.refl _ _) | (with_reducible apply Only.ite) | (with_reducible apply Only.ite_fst) | (with_reducible apply Only.foldl (hg := fun _ _ => ?_)) | (with_reducible apply Only.foldl_fst (hg := fun _ _ => ?_)) | split | dsimp only | (with_reducible apply only_with_loops_step (hm := by decide)))
theorem interpTake_step {l₀ : List Part} {s₀ : State} (s : State) (ws : List Word) (h₀ : Only l₀ s₀ s) (hm : [.loops] ⊆ l₀) : Only l₀ s₀ (interpTake s ws) :=
  h₀.step (interpTake_only s ws) hm

theorem shadowWrite_only (s : State) (l : Nat) (w : Word16) (onEdge : Bool) : Only [.regs] s (shadowWrite s l w onEdge) := by
  unfold shadowWrite
  try dsimp only
  repeat' (first | (with_reducible exact Only.refl _ _) | (with_reducible apply Only.ite) | (with_reducible apply Only.ite_fst) | (with_reducible apply State.set_step (hm := by decide)) | (with_reducible apply State.raise_step (hm := by decide)) | (with_reducible apply State.raiseIf_step (hm := by decide)) | (with_reducible apply Only.foldl (hg := fun _ _ => ?_)) | (with_reducible apply Only.foldl_fst (hg := fun _ _ => ?_)) | split | dsimp only)
theorem shadowWrite_step {l₀ : List Part} {s₀ : State} (s : State) (l : Nat) (w : Word16) (onEdge : Bool) (h₀ : Only l₀ s₀ s) (hm : [.regs] ⊆ l₀) : Only l₀ s₀ (shadowWrite s l w onEdge) :=
  h₀.step (shadowWrite_only s l w onEdge) hm

theorem captureWord_only (s : State) (l : Nat) (w : Word16) (onEdge : Bool) : Only [.regs] s (captureWord s l w onEdge) := by
  unfold captureWord
  try dsimp only
  repeat' (first | (with_reducible exact Only.refl _ _) | (with_reducible apply Only.ite) | (with_reducible apply Only.ite_fst) | (with_reducible apply shadowWrite_step (hm := by decide)) | (with_reducible apply Only.foldl (hg := fun _ _ => ?_)) | (with_reducible apply Only.foldl_fst (hg := fun _ _ => ?_)) | split | dsimp only)
theorem captureWord_step {l₀ : List Part} {s₀ : State} (s : State) (l : Nat) (w : Word16) (onEdge : Bool) (h₀ : Only l₀ s₀ s) (hm : [.regs] ⊆ l₀) : Only l₀ s₀ (captureWord s l w onEdge) :=
  h₀.step (captureWord_only s l w onEdge) hm

theorem hostCompare_only (s : State) (l : Nat) (w : Word16) (onEdge : Bool) : Only [.regs] s (hostCompare s l w onEdge) := by
  unfold hostCompare
  try dsimp only
  repeat' (first | (with_reducible exact Only.refl _ _) | (with_reducible apply Only.ite) | (with_reducible apply Only.ite_fst) | (with_reducible apply State.raise_step (hm := by decide)) | (with_reducible apply captureWord_step (hm := by decide)) | (with_reducible apply Only.foldl (hg := fun _ _ => ?_)) | (with_reducible apply Only.foldl_fst (hg := fun _ _ => ?_)) | split | dsimp only)
theorem hostCompare_step {l₀ : List Part} {s₀ : State} (s : State) (l : Nat) (w : Word16) (onEdge : Bool) (h₀ : Only l₀ s₀ s) (hm : [.regs] ⊆ l₀) : Only l₀ s₀ (hostCompare s l w onEdge) :=
  h₀.step (hostCompare_only s l w onEdge) hm

theorem reload_only (s : State) (l : Nat) : Only [.regs] s (reload s l) := by
  unfold reload
  try dsimp only
  repeat' (first | (with_reducible exact Only.refl _ _) | (with_reducible apply Only.ite) | (with_reducible apply Only.ite_fst) | (with_reducible apply State.set_step (hm := by decide)) | (with_reducible apply Only.foldl (hg := fun _ _ => ?_)) | (with_reducible apply Only.foldl_fst (hg := fun _ _ => ?_)) | split | dsimp only)
theorem reload_step {l₀ : List Part} {s₀ : State} (s : State) (l : Nat) (h₀ : Only l₀ s₀ s) (hm : [.regs] ⊆ l₀) : Only l₀ s₀ (reload s l) :=
  h₀.step (reload_only s l) hm

theorem placeEdge_only (s : State) (l : Nat) (high : Bool) (at_ : Nat) : Only [.legs] s (placeEdge s l high at_) := by
  unfold placeEdge
  try dsimp only
  repeat' (first | (with_reducible exact Only.refl _ _) | (with_reducible apply Only.ite) | (with_reducible apply Only.ite_fst) | (with_reducible apply State.legUp_step (hm := by decide)) | (with_reducible apply Only.foldl (hg := fun _ _ => ?_)) | (with_reducible apply Only.foldl_fst (hg := fun _ _ => ?_)) | split | dsimp only)
theorem placeEdge_step {l₀ : List Part} {s₀ : State} (s : State) (l : Nat) (high : Bool) (at_ : Nat) (h₀ : Only l₀ s₀ s) (hm : [.legs] ⊆ l₀) : Only l₀ s₀ (placeEdge s l high at_) :=
  h₀.step (placeEdge_only s l high at_) hm

theorem applyHigh_only (s : State) (l : Nat) : Only [.regs, .conds, .legs] s (applyHigh s l) := by
  unfold applyHigh
  try dsimp only
  repeat' (first | (with_reducible exact Only.refl _ _) | (with_reducible apply Only.ite) | (with_reducible apply Only.ite_fst) | (with_reducible apply State.raiseIf_step (hm := by decide)) | (with_reducible apply State.legUp_step (hm := by decide)) | (with_reducible apply State.cond_step (hm := by decide)) | (with_reducible apply Only.foldl (hg := fun _ _ => ?_)) | (with_reducible apply Only.foldl_fst (hg := fun _ _ => ?_)) | split | dsimp only)
theorem applyHigh_step {l₀ : List Part} {s₀ : State} (s : State) (l : Nat) (h₀ : Only l₀ s₀ s) (hm : [.regs, .conds, .legs] ⊆ l₀) : Only l₀ s₀ (applyHigh s l) :=
  h₀.step (applyHigh_only s l) hm

theorem legOff_only (s : State) (l : Nat) : Only [.legs] s (legOff s l) := by
  unfold legOff
  try dsimp only
  repeat' (first | (with_reducible exact Only.refl _ _) | (with_reducible apply Only.ite) | (with_reducible apply Only.ite_fst) | (with_reducible apply State.legUp_step (hm := by decide)) | (with_reducible apply Only.foldl (hg := fun _ _ => ?_)) | (with_reducible apply Only.foldl_fst (hg := fun _ _ => ?_)) | split | dsimp only)
theorem legOff_step {l₀ : List Part} {s₀ : State} (s : State) (l : Nat) (h₀ : Only l₀ s₀ s) (hm : [.legs] ⊆ l₀) : Only l₀ s₀ (legOff s l) :=
  h₀.step (legOff_only s l) hm

theorem turnOn_only (s : State) (l : Nat) (high : Bool) : Only [.regs, .legs] s (turnOn s l high) := by
  unfold turnOn
  try dsimp only
  repeat' (first | (with_reducible exact Only.refl _ _) | (with_reducible apply Only.ite) | (with_reducible apply Only.ite_fst) | (with_reducible apply State.set_step (hm := by decide)) | (with_reducible apply State.legUp_step (hm := by decide)) | (with_reducible apply Only.foldl (hg := fun _ _ => ?_)) | (with_reducible apply Only.foldl_fst (hg := fun _ _ => ?_)) | split | dsimp only)
theorem turnOn_step {l₀ : List Part} {s₀ : State} (s : State) (l : Nat) (high : Bool) (h₀ : Only l₀ s₀ s) (hm : [.regs, .legs] ⊆ l₀) : Only l₀ s₀ (turnOn s l high) :=
  h₀.step (turnOn_only s l high) hm

theorem edgeTo_only (s : State) (l : Nat) (rising : Bool) (at_ : Nat) : Only [.legs] s (edgeTo s l rising at_) := by
  unfold edgeTo
  try dsimp only
  repeat' (first | (with_reducible exact Only.refl _ _) | (with_reducible apply Only.ite) | (with_reducible apply Only.ite_fst) | (with_reducible apply State.legUp_step (hm := by decide)) | (with_reducible apply placeEdge_step (hm := by decide)) | (with_reducible apply Only.foldl (hg := fun _ _ => ?_)) | (with_reducible apply Only.foldl_fst (hg := fun _ _ => ?_)) | split | dsimp only)
theorem edgeTo_step {l₀ : List Part} {s₀ : State} (s : State) (l : Nat) (rising : Bool) (at_ : Nat) (h₀ : Only l₀ s₀ s) (hm : [.legs] ⊆ l₀) : Only l₀ s₀ (edgeTo s l rising at_) :=
  h₀.step (edgeTo_only s l rising at_) hm

theorem compareEdge_only (s : State) (l : Nat) : Only [.legs] s (compareEdge s l) := by
  unfold compareEdge
  try dsimp only
  repeat' (first | (with_reducible exact Only.refl _ _) | (with_reducible apply Only.ite) | (with_reducible apply Only.ite_fst) | (with_reducible apply State.legUp_step (hm := by decide)) | (with_reducible apply edgeTo_step (hm := by decide)) | (with_reducible apply Only.foldl (hg := fun _ _ => ?_)) | (with_reducible apply Only.foldl_fst (hg := fun _ _ => ?_)) | split | dsimp only)
theorem compareEdge_step {l₀ : List Part} {s₀ : State} (s : State) (l : Nat) (h₀ : Only l₀ s₀ s) (hm : [.legs] ⊆ l₀) : Only l₀ s₀ (compareEdge s l) :=
  h₀.step (compareEdge_only s l) hm

theorem deadTimeEnd_only (s : State) (l : Nat) : Only [.regs, .legs] s (deadTimeEnd s l) := by
  unfold deadTimeEnd
  try dsimp only
  repeat' (first | (with_reducible exact Only.refl _ _) | (with_reducible apply Only.ite) | (with_reducible apply Only.ite_fst) | (with_reducible apply State.legUp_step (hm := by decide)) | (with_reducible apply placeEdge_step (hm := by decide)) | (with_reducible apply turnOn_step (hm := by decide)) | (with_reducible apply Only.foldl (hg := fun _ _ => ?_)) | (with_reducible apply Only.foldl_fst (hg := fun _ _ => ?_)) | split | dsimp only)
theorem deadTimeEnd_step {l₀ : List Part} {s₀ : State} (s : State) (l : Nat) (h₀ : Only l₀ s₀ s) (hm : [.regs, .legs] ⊆ l₀) : Only l₀ s₀ (deadTimeEnd s l) :=
  h₀.step (deadTimeEnd_only s l) hm

theorem resume_only (s : State) (l : Nat) : Only [.legs] s (resume s l) := by
  unfold resume
  try dsimp only
  repeat' (first | (with_reducible exact Only.refl _ _) | (with_reducible apply Only.ite) | (with_reducible apply Only.ite_fst) | (with_reducible apply State.legUp_step (hm := by decide)) | (with_reducible apply Only.foldl (hg := fun _ _ => ?_)) | (with_reducible apply Only.foldl_fst (hg := fun _ _ => ?_)) | split | dsimp only)
theorem resume_step {l₀ : List Part} {s₀ : State} (s : State) (l : Nat) (h₀ : Only l₀ s₀ s) (hm : [.legs] ⊆ l₀) : Only l₀ s₀ (resume s l) :=
  h₀.step (resume_only s l) hm

theorem planLeg_only (s : State) (l : Nat) : Only [.legs] s (planLeg s l) := by
  unfold planLeg
  try dsimp only
  repeat' (first | (with_reducible exact Only.refl _ _) | (with_reducible apply Only.ite) | (with_reducible apply Only.ite_fst) | (with_reducible apply State.legUp_step (hm := by decide)) | (with_reducible apply Only.foldl (hg := fun _ _ => ?_)) | (with_reducible apply Only.foldl_fst (hg := fun _ _ => ?_)) | split | dsimp only)
theorem planLeg_step {l₀ : List Part} {s₀ : State} (s : State) (l : Nat) (h₀ : Only l₀ s₀ s) (hm : [.legs] ⊆ l₀) : Only l₀ s₀ (planLeg s l) :=
  h₀.step (planLeg_only s l) hm

theorem dlStart_only (s : State) : Only [.dlCal, .bkg] s (dlStart s) := by
  unfold dlStart
  try dsimp only
  repeat' (first | (with_reducible exact Only.refl _ _) | (with_reducible apply Only.ite) | (with_reducible apply Only.ite_fst) | (with_reducible apply Only.foldl (hg := fun _ _ => ?_)) | (with_reducible apply Only.foldl_fst (hg := fun _ _ => ?_)) | split | dsimp only | (with_reducible apply only_with_dlCal_bkg_step (hm := by decide)))
theorem dlStart_step {l₀ : List Part} {s₀ : State} (s : State) (h₀ : Only l₀ s₀ s) (hm : [.dlCal, .bkg] ⊆ l₀) : Only l₀ s₀ (dlStart s) :=
  h₀.step (dlStart_only s) hm

theorem dlAtUpdate_only (s : State) : Only [.dlCal] s (dlAtUpdate s) := by
  unfold dlAtUpdate
  try dsimp only
  repeat' (first | (with_reducible exact Only.refl _ _) | (with_reducible apply Only.ite) | (with_reducible apply Only.ite_fst) | (with_reducible apply Only.foldl (hg := fun _ _ => ?_)) | (with_reducible apply Only.foldl_fst (hg := fun _ _ => ?_)) | split | dsimp only | (with_reducible apply only_with_dlCal_step (hm := by decide)))
theorem dlAtUpdate_step {l₀ : List Part} {s₀ : State} (s : State) (h₀ : Only l₀ s₀ s) (hm : [.dlCal] ⊆ l₀) : Only l₀ s₀ (dlAtUpdate s) :=
  h₀.step (dlAtUpdate_only s) hm

theorem dlDone_only (s : State) (line : Nat) (d : List Nat) : Only [.regs, .legs, .dlCal] s (dlDone s line d) := by
  unfold dlDone
  try dsimp only
  repeat' (first | (with_reducible exact Only.refl _ _) | (with_reducible apply Only.ite) | (with_reducible apply Only.ite_fst) | (with_reducible apply State.raise_step (hm := by decide)) | (with_reducible apply State.legUp_step (hm := by decide)) | (with_reducible apply State.set_step (hm := by decide)) | (with_reducible apply Only.foldl (hg := fun _ _ => ?_)) | (with_reducible apply Only.foldl_fst (hg := fun _ _ => ?_)) | split | dsimp only | (with_reducible apply only_with_dlCal_step (hm := by decide)))
theorem dlDone_step {l₀ : List Part} {s₀ : State} (s : State) (line : Nat) (d : List Nat) (h₀ : Only l₀ s₀ s) (hm : [.regs, .legs, .dlCal] ⊆ l₀) : Only l₀ s₀ (dlDone s line d) :=
  h₀.step (dlDone_only s line d) hm

theorem loadTables_only (s : State) : Only [.legs] s (loadTables s) := by
  unfold loadTables
  try dsimp only
  repeat' (first | (with_reducible exact Only.refl _ _) | (with_reducible apply Only.ite) | (with_reducible apply Only.ite_fst) | (with_reducible apply Only.foldl (hg := fun _ _ => ?_)) | (with_reducible apply Only.foldl_fst (hg := fun _ _ => ?_)) | split | dsimp only | (with_reducible apply only_with_legs_step (hm := by decide)))
theorem loadTables_step {l₀ : List Part} {s₀ : State} (s : State) (h₀ : Only l₀ s₀ s) (hm : [.legs] ⊆ l₀) : Only l₀ s₀ (loadTables s) :=
  h₀.step (loadTables_only s) hm

theorem stopChannel_only (s : State) (c : Nat) : Only [.regs, .legs, .pwm] s (stopChannel s c) := by
  unfold stopChannel
  try dsimp only
  repeat' (first | (with_reducible exact Only.refl _ _) | (with_reducible apply Only.ite) | (with_reducible apply Only.ite_fst) | (with_reducible apply setLegStates_step (hm := by decide)) | (with_reducible apply legOff_step (hm := by decide)) | (with_reducible apply resetShapers_step (hm := by decide)) | (with_reducible apply State.pwmUp_step (hm := by decide)) | (with_reducible apply Only.foldl (hg := fun _ _ => ?_)) | (with_reducible apply Only.foldl_fst (hg := fun _ _ => ?_)) | split | dsimp only)
theorem stopChannel_step {l₀ : List Part} {s₀ : State} (s : State) (c : Nat) (h₀ : Only l₀ s₀ s) (hm : [.regs, .legs, .pwm] ⊆ l₀) : Only l₀ s₀ (stopChannel s c) :=
  h₀.step (stopChannel_only s c) hm

theorem startPrecharge_only (s : State) (c : Nat) : Only [.regs, .legs, .pwm] s (startPrecharge s c) := by
  unfold startPrecharge
  try dsimp only
  repeat' (first | (with_reducible exact Only.refl _ _) | (with_reducible apply Only.ite) | (with_reducible apply Only.ite_fst) | (with_reducible apply State.legUp_step (hm := by decide)) | (with_reducible apply setLegStates_step (hm := by decide)) | (with_reducible apply State.pwmUp_step (hm := by decide)) | (with_reducible apply Only.foldl (hg := fun _ _ => ?_)) | (with_reducible apply Only.foldl_fst (hg := fun _ _ => ?_)) | split | dsimp only)
theorem startPrecharge_step {l₀ : List Part} {s₀ : State} (s : State) (c : Nat) (h₀ : Only l₀ s₀ s) (hm : [.regs, .legs, .pwm] ⊆ l₀) : Only l₀ s₀ (startPrecharge s c) :=
  h₀.step (startPrecharge_only s c) hm

theorem srcAtUpdate_only (s : State) (c old new : Nat) : Only [.regs, .legs, .pwm] s (srcAtUpdate s c old new) := by
  unfold srcAtUpdate
  try dsimp only
  repeat' (first | (with_reducible exact Only.refl _ _) | (with_reducible apply Only.ite) | (with_reducible apply Only.ite_fst) | (with_reducible apply resetShapers_step (hm := by decide)) | (with_reducible apply State.pwmUp_step (hm := by decide)) | (with_reducible apply stopChannel_step (hm := by decide)) | (with_reducible apply Only.foldl (hg := fun _ _ => ?_)) | (with_reducible apply Only.foldl_fst (hg := fun _ _ => ?_)) | split | dsimp only)
theorem srcAtUpdate_step {l₀ : List Part} {s₀ : State} (s : State) (c old new : Nat) (h₀ : Only l₀ s₀ s) (hm : [.regs, .legs, .pwm] ⊆ l₀) : Only l₀ s₀ (srcAtUpdate s c old new) :=
  h₀.step (srcAtUpdate_only s c old new) hm

theorem startAtUpdate_only (s : State) (c : Nat) : Only [.regs, .legs, .pwm] s (startAtUpdate s c) := by
  unfold startAtUpdate
  try dsimp only
  repeat' (first | (with_reducible exact Only.refl _ _) | (with_reducible apply Only.ite) | (with_reducible apply Only.ite_fst) | (with_reducible apply startPrecharge_step (hm := by decide)) | (with_reducible apply State.pwmUp_step (hm := by decide)) | (with_reducible apply Only.foldl (hg := fun _ _ => ?_)) | (with_reducible apply Only.foldl_fst (hg := fun _ _ => ?_)) | split | dsimp only)
theorem startAtUpdate_step {l₀ : List Part} {s₀ : State} (s : State) (c : Nat) (h₀ : Only l₀ s₀ s) (hm : [.regs, .legs, .pwm] ⊆ l₀) : Only l₀ s₀ (startAtUpdate s c) :=
  h₀.step (startAtUpdate_only s c) hm

theorem prechargeEnd_only (s : State) (c : Nat) : Only [.regs, .conds, .legs] s (prechargeEnd s c) := by
  unfold prechargeEnd
  try dsimp only
  repeat' (first | (with_reducible exact Only.refl _ _) | (with_reducible apply Only.ite) | (with_reducible apply Only.ite_fst) | (with_reducible apply applyHigh_step (hm := by decide)) | (with_reducible apply planLeg_step (hm := by decide)) | (with_reducible apply edgeTo_step (hm := by decide)) | (with_reducible apply setLegStates_step (hm := by decide)) | (with_reducible apply Only.foldl (hg := fun _ _ => ?_)) | (with_reducible apply Only.foldl_fst (hg := fun _ _ => ?_)) | split | dsimp only)
theorem prechargeEnd_step {l₀ : List Part} {s₀ : State} (s : State) (c : Nat) (h₀ : Only l₀ s₀ s) (hm : [.regs, .conds, .legs] ⊆ l₀) : Only l₀ s₀ (prechargeEnd s c) :=
  h₀.step (prechargeEnd_only s c) hm

theorem idleLeg_only (s : State) (l : Nat) : Only [.regs, .conds, .legs] s (idleLeg s l) := by
  unfold idleLeg
  try dsimp only
  repeat' (first | (with_reducible exact Only.refl _ _) | (with_reducible apply Only.ite) | (with_reducible apply Only.ite_fst) | (with_reducible apply State.cond_step (hm := by decide)) | (with_reducible apply State.legUp_step (hm := by decide)) | (with_reducible apply Only.foldl (hg := fun _ _ => ?_)) | (with_reducible apply Only.foldl_fst (hg := fun _ _ => ?_)) | split | dsimp only)
theorem idleLeg_step {l₀ : List Part} {s₀ : State} (s : State) (l : Nat) (h₀ : Only l₀ s₀ s) (hm : [.regs, .conds, .legs] ⊆ l₀) : Only l₀ s₀ (idleLeg s l) :=
  h₀.step (idleLeg_only s l) hm

theorem legsAtUpdate_only (s : State) : Only [.regs, .conds, .legs, .dlCal] s (legsAtUpdate s) := by
  unfold legsAtUpdate
  try dsimp only
  repeat' (first | (with_reducible exact Only.refl _ _) | (with_reducible apply Only.ite) | (with_reducible apply Only.ite_fst) | (with_reducible apply applyHigh_step (hm := by decide)) | (with_reducible apply reload_step (hm := by decide)) | (with_reducible apply dlAtUpdate_step (hm := by decide)) | (with_reducible apply loadTables_step (hm := by decide)) | (with_reducible apply planLeg_step (hm := by decide)) | (with_reducible apply State.set_step (hm := by decide)) | (with_reducible apply idleLeg_step (hm := by decide)) | (with_reducible apply Only.foldl (hg := fun _ _ => ?_)) | (with_reducible apply Only.foldl_fst (hg := fun _ _ => ?_)) | split | dsimp only)
theorem legsAtUpdate_step {l₀ : List Part} {s₀ : State} (s : State) (h₀ : Only l₀ s₀ s) (hm : [.regs, .conds, .legs, .dlCal] ⊆ l₀) : Only l₀ s₀ (legsAtUpdate s) :=
  h₀.step (legsAtUpdate_only s) hm

/-! ### The canonical form -/

theorem State.legUp_wf (s : State) (l : Nat) (f : LegGen → LegGen) (h₀ : Memory.wf s = true) : Memory.wf (State.legUp s l f) = true :=
  Only.wf (State.legUp_only s l f) (by decide) h₀

theorem State.pwmUp_wf (s : State) (c : Nat) (f : PwmChan → PwmChan) (h₀ : Memory.wf s = true) : Memory.wf (State.pwmUp s c f) = true :=
  Only.wf (State.pwmUp_only s c f) (by decide) h₀

theorem setLegStates_wf (s : State) (c st : Nat) (h₀ : Memory.wf s = true) : Memory.wf (setLegStates s c st) = true := by
  unfold setLegStates
  try dsimp only
  repeat' (first | (with_reducible assumption) | (with_reducible apply wf_ite) | (with_reducible apply wf_ite_fst) | (with_reducible apply State.set_wf) | (with_reducible apply wf_foldl (hg := fun _ _ _ => ?_)) | (with_reducible apply wf_foldl_fst (hg := fun _ _ _ => ?_)) | split | dsimp only)

theorem kSelect_wf (s : State) (v : Word) (h₀ : Memory.wf s = true) : Memory.wf (kSelect s v) = true := by
  unfold kSelect
  try dsimp only
  repeat' (first | (with_reducible assumption) | (with_reducible apply wf_ite) | (with_reducible apply wf_ite_fst) | (with_reducible apply State.set_wf) | (with_reducible apply State.raise_wf) | (with_reducible apply wf_foldl (hg := fun _ _ _ => ?_)) | (with_reducible apply wf_foldl_fst (hg := fun _ _ _ => ?_)) | split | dsimp only)

theorem kAtBlock_wf (s : State) (h₀ : Memory.wf s = true) : Memory.wf (kAtBlock s) = true := by
  unfold kAtBlock
  try dsimp only
  repeat' (first | (with_reducible assumption) | (with_reducible apply wf_ite) | (with_reducible apply wf_ite_fst) | (with_reducible apply State.set_wf) | (with_reducible apply wf_foldl (hg := fun _ _ _ => ?_)) | (with_reducible apply wf_foldl_fst (hg := fun _ _ _ => ?_)) | split | dsimp only)

theorem writeDt_wf (s : State) (l : Nat) (v : Word) (h₀ : Memory.wf s = true) : Memory.wf (writeDt s l v) = true := by
  unfold writeDt
  try dsimp only
  repeat' (first | (with_reducible assumption) | (with_reducible apply wf_ite) | (with_reducible apply wf_ite_fst) | (with_reducible apply storeCoded_wf) | (with_reducible apply State.raise_wf) | (with_reducible apply wf_foldl (hg := fun _ _ _ => ?_)) | (with_reducible apply wf_foldl_fst (hg := fun _ _ _ => ?_)) | split | dsimp only)

theorem writeLim_wf (s : State) (l : Nat) (v : Word) (h₀ : Memory.wf s = true) : Memory.wf (writeLim s l v) = true := by
  unfold writeLim
  try dsimp only
  repeat' (first | (with_reducible assumption) | (with_reducible apply wf_ite) | (with_reducible apply wf_ite_fst) | (with_reducible apply storeCoded_wf) | (with_reducible apply State.raise_wf) | (with_reducible apply wf_foldl (hg := fun _ _ _ => ?_)) | (with_reducible apply wf_foldl_fst (hg := fun _ _ _ => ?_)) | split | dsimp only)

theorem writeChMod_wf (s : State) (c : Nat) (v : Word) (h₀ : Memory.wf s = true) : Memory.wf (writeChMod s c v) = true := by
  unfold writeChMod
  try dsimp only
  repeat' (first | (with_reducible assumption) | (with_reducible apply wf_ite) | (with_reducible apply wf_ite_fst) | (with_reducible apply State.raise_wf) | (with_reducible apply storeCoded_wf) | (with_reducible apply wf_foldl (hg := fun _ _ _ => ?_)) | (with_reducible apply wf_foldl_fst (hg := fun _ _ _ => ?_)) | split | dsimp only)

theorem resetShapers_wf (s : State) (c : Nat) (h₀ : Memory.wf s = true) : Memory.wf (resetShapers s c) = true :=
  Only.wf (resetShapers_only s c) (by decide) h₀

theorem shapeChannel_wf (s : State) (c : Nat) (m : Int) (h₀ : Memory.wf s = true) : Memory.wf (shapeChannel s c m) = true := by
  unfold shapeChannel
  try dsimp only
  repeat' (first | (with_reducible assumption) | (with_reducible apply wf_ite) | (with_reducible apply wf_ite_fst) | (with_reducible apply State.legUp_wf) | (with_reducible apply gatePush_wf) | (with_reducible apply wf_foldl (hg := fun _ _ _ => ?_)) | (with_reducible apply wf_foldl_fst (hg := fun _ _ _ => ?_)) | split | dsimp only)

theorem interpTake_wf (s : State) (ws : List Word) (h₀ : Memory.wf s = true) : Memory.wf (interpTake s ws) = true :=
  Only.wf (interpTake_only s ws) (by decide) h₀

theorem shadowWrite_wf (s : State) (l : Nat) (w : Word16) (onEdge : Bool) (h₀ : Memory.wf s = true) : Memory.wf (shadowWrite s l w onEdge) = true := by
  unfold shadowWrite
  try dsimp only
  repeat' (first | (with_reducible assumption) | (with_reducible apply wf_ite) | (with_reducible apply wf_ite_fst) | (with_reducible apply State.raiseIf_wf) | (with_reducible apply State.set_wf) | (with_reducible apply State.raise_wf) | (with_reducible apply wf_foldl (hg := fun _ _ _ => ?_)) | (with_reducible apply wf_foldl_fst (hg := fun _ _ _ => ?_)) | split | dsimp only)

theorem captureWord_wf (s : State) (l : Nat) (w : Word16) (onEdge : Bool) (h₀ : Memory.wf s = true) : Memory.wf (captureWord s l w onEdge) = true := by
  unfold captureWord
  try dsimp only
  repeat' (first | (with_reducible assumption) | (with_reducible apply wf_ite) | (with_reducible apply wf_ite_fst) | (with_reducible apply shadowWrite_wf) | (with_reducible apply wf_foldl (hg := fun _ _ _ => ?_)) | (with_reducible apply wf_foldl_fst (hg := fun _ _ _ => ?_)) | split | dsimp only)

theorem hostCompare_wf (s : State) (l : Nat) (w : Word16) (onEdge : Bool) (h₀ : Memory.wf s = true) : Memory.wf (hostCompare s l w onEdge) = true := by
  unfold hostCompare
  try dsimp only
  repeat' (first | (with_reducible assumption) | (with_reducible apply wf_ite) | (with_reducible apply wf_ite_fst) | (with_reducible apply captureWord_wf) | (with_reducible apply State.raise_wf) | (with_reducible apply wf_foldl (hg := fun _ _ _ => ?_)) | (with_reducible apply wf_foldl_fst (hg := fun _ _ _ => ?_)) | split | dsimp only)

theorem reload_wf (s : State) (l : Nat) (h₀ : Memory.wf s = true) : Memory.wf (reload s l) = true := by
  unfold reload
  try dsimp only
  repeat' (first | (with_reducible assumption) | (with_reducible apply wf_ite) | (with_reducible apply wf_ite_fst) | (with_reducible apply State.set_wf) | (with_reducible apply wf_foldl (hg := fun _ _ _ => ?_)) | (with_reducible apply wf_foldl_fst (hg := fun _ _ _ => ?_)) | split | dsimp only)

theorem placeEdge_wf (s : State) (l : Nat) (high : Bool) (at_ : Nat) (h₀ : Memory.wf s = true) : Memory.wf (placeEdge s l high at_) = true :=
  Only.wf (placeEdge_only s l high at_) (by decide) h₀

theorem applyHigh_wf (s : State) (l : Nat) (h₀ : Memory.wf s = true) : Memory.wf (applyHigh s l) = true := by
  unfold applyHigh
  try dsimp only
  repeat' (first | (with_reducible assumption) | (with_reducible apply wf_ite) | (with_reducible apply wf_ite_fst) | (with_reducible apply State.legUp_wf) | (with_reducible apply State.raiseIf_wf) | (with_reducible apply State.cond_wf) | (with_reducible apply wf_foldl (hg := fun _ _ _ => ?_)) | (with_reducible apply wf_foldl_fst (hg := fun _ _ _ => ?_)) | split | dsimp only)

theorem legOff_wf (s : State) (l : Nat) (h₀ : Memory.wf s = true) : Memory.wf (legOff s l) = true :=
  Only.wf (legOff_only s l) (by decide) h₀

theorem turnOn_wf (s : State) (l : Nat) (high : Bool) (h₀ : Memory.wf s = true) : Memory.wf (turnOn s l high) = true := by
  unfold turnOn
  try dsimp only
  repeat' (first | (with_reducible assumption) | (with_reducible apply wf_ite) | (with_reducible apply wf_ite_fst) | (with_reducible apply State.legUp_wf) | (with_reducible apply State.set_wf) | (with_reducible apply wf_foldl (hg := fun _ _ _ => ?_)) | (with_reducible apply wf_foldl_fst (hg := fun _ _ _ => ?_)) | split | dsimp only)

theorem edgeTo_wf (s : State) (l : Nat) (rising : Bool) (at_ : Nat) (h₀ : Memory.wf s = true) : Memory.wf (edgeTo s l rising at_) = true :=
  Only.wf (edgeTo_only s l rising at_) (by decide) h₀

theorem compareEdge_wf (s : State) (l : Nat) (h₀ : Memory.wf s = true) : Memory.wf (compareEdge s l) = true :=
  Only.wf (compareEdge_only s l) (by decide) h₀

theorem deadTimeEnd_wf (s : State) (l : Nat) (h₀ : Memory.wf s = true) : Memory.wf (deadTimeEnd s l) = true := by
  unfold deadTimeEnd
  try dsimp only
  repeat' (first | (with_reducible assumption) | (with_reducible apply wf_ite) | (with_reducible apply wf_ite_fst) | (with_reducible apply State.legUp_wf) | (with_reducible apply placeEdge_wf) | (with_reducible apply turnOn_wf) | (with_reducible apply wf_foldl (hg := fun _ _ _ => ?_)) | (with_reducible apply wf_foldl_fst (hg := fun _ _ _ => ?_)) | split | dsimp only)

theorem resume_wf (s : State) (l : Nat) (h₀ : Memory.wf s = true) : Memory.wf (resume s l) = true :=
  Only.wf (resume_only s l) (by decide) h₀

theorem planLeg_wf (s : State) (l : Nat) (h₀ : Memory.wf s = true) : Memory.wf (planLeg s l) = true :=
  Only.wf (planLeg_only s l) (by decide) h₀

theorem dlStart_wf (s : State) (h₀ : Memory.wf s = true) : Memory.wf (dlStart s) = true :=
  Only.wf (dlStart_only s) (by decide) h₀

theorem dlAtUpdate_wf (s : State) (h₀ : Memory.wf s = true) : Memory.wf (dlAtUpdate s) = true :=
  Only.wf (dlAtUpdate_only s) (by decide) h₀

theorem dlDone_wf (s : State) (line : Nat) (d : List Nat) (h₀ : Memory.wf s = true) : Memory.wf (dlDone s line d) = true := by
  unfold dlDone
  try dsimp only
  repeat' (first | (with_reducible assumption) | (with_reducible apply wf_ite) | (with_reducible apply wf_ite_fst) | (with_reducible apply State.legUp_wf) | (with_reducible apply State.set_wf) | (with_reducible apply State.raise_wf) | (with_reducible apply wf_foldl (hg := fun _ _ _ => ?_)) | (with_reducible apply wf_foldl_fst (hg := fun _ _ _ => ?_)) | split | dsimp only | (with_reducible apply wf_with_dlCal))

theorem loadTables_wf (s : State) (h₀ : Memory.wf s = true) : Memory.wf (loadTables s) = true :=
  Only.wf (loadTables_only s) (by decide) h₀

theorem stopChannel_wf (s : State) (c : Nat) (h₀ : Memory.wf s = true) : Memory.wf (stopChannel s c) = true := by
  unfold stopChannel
  try dsimp only
  repeat' (first | (with_reducible assumption) | (with_reducible apply wf_ite) | (with_reducible apply wf_ite_fst) | (with_reducible apply setLegStates_wf) | (with_reducible apply State.pwmUp_wf) | (with_reducible apply legOff_wf) | (with_reducible apply resetShapers_wf) | (with_reducible apply wf_foldl (hg := fun _ _ _ => ?_)) | (with_reducible apply wf_foldl_fst (hg := fun _ _ _ => ?_)) | split | dsimp only)

theorem startPrecharge_wf (s : State) (c : Nat) (h₀ : Memory.wf s = true) : Memory.wf (startPrecharge s c) = true := by
  unfold startPrecharge
  try dsimp only
  repeat' (first | (with_reducible assumption) | (with_reducible apply wf_ite) | (with_reducible apply wf_ite_fst) | (with_reducible apply State.legUp_wf) | (with_reducible apply setLegStates_wf) | (with_reducible apply State.pwmUp_wf) | (with_reducible apply wf_foldl (hg := fun _ _ _ => ?_)) | (with_reducible apply wf_foldl_fst (hg := fun _ _ _ => ?_)) | split | dsimp only)

theorem srcAtUpdate_wf (s : State) (c old new : Nat) (h₀ : Memory.wf s = true) : Memory.wf (srcAtUpdate s c old new) = true := by
  unfold srcAtUpdate
  try dsimp only
  repeat' (first | (with_reducible assumption) | (with_reducible apply wf_ite) | (with_reducible apply wf_ite_fst) | (with_reducible apply stopChannel_wf) | (with_reducible apply State.pwmUp_wf) | (with_reducible apply resetShapers_wf) | (with_reducible apply wf_foldl (hg := fun _ _ _ => ?_)) | (with_reducible apply wf_foldl_fst (hg := fun _ _ _ => ?_)) | split | dsimp only)

theorem startAtUpdate_wf (s : State) (c : Nat) (h₀ : Memory.wf s = true) : Memory.wf (startAtUpdate s c) = true := by
  unfold startAtUpdate
  try dsimp only
  repeat' (first | (with_reducible assumption) | (with_reducible apply wf_ite) | (with_reducible apply wf_ite_fst) | (with_reducible apply startPrecharge_wf) | (with_reducible apply State.pwmUp_wf) | (with_reducible apply wf_foldl (hg := fun _ _ _ => ?_)) | (with_reducible apply wf_foldl_fst (hg := fun _ _ _ => ?_)) | split | dsimp only)

theorem prechargeEnd_wf (s : State) (c : Nat) (h₀ : Memory.wf s = true) : Memory.wf (prechargeEnd s c) = true := by
  unfold prechargeEnd
  try dsimp only
  repeat' (first | (with_reducible assumption) | (with_reducible apply wf_ite) | (with_reducible apply wf_ite_fst) | (with_reducible apply planLeg_wf) | (with_reducible apply setLegStates_wf) | (with_reducible apply edgeTo_wf) | (with_reducible apply applyHigh_wf) | (with_reducible apply wf_foldl (hg := fun _ _ _ => ?_)) | (with_reducible apply wf_foldl_fst (hg := fun _ _ _ => ?_)) | split | dsimp only)

theorem idleLeg_wf (s : State) (l : Nat) (h₀ : Memory.wf s = true) : Memory.wf (idleLeg s l) = true := by
  unfold idleLeg
  try dsimp only
  repeat' (first | (with_reducible assumption) | (with_reducible apply wf_ite) | (with_reducible apply wf_ite_fst) | (with_reducible apply State.legUp_wf) | (with_reducible apply State.cond_wf) | (with_reducible apply wf_foldl (hg := fun _ _ _ => ?_)) | (with_reducible apply wf_foldl_fst (hg := fun _ _ _ => ?_)) | split | dsimp only)

theorem legsAtUpdate_wf (s : State) (h₀ : Memory.wf s = true) : Memory.wf (legsAtUpdate s) = true := by
  unfold legsAtUpdate
  try dsimp only
  repeat' (first | (with_reducible assumption) | (with_reducible apply wf_ite) | (with_reducible apply wf_ite_fst) | (with_reducible apply reload_wf) | (with_reducible apply planLeg_wf) | (with_reducible apply idleLeg_wf) | (with_reducible apply loadTables_wf) | (with_reducible apply dlAtUpdate_wf) | (with_reducible apply State.set_wf) | (with_reducible apply applyHigh_wf) | (with_reducible apply wf_foldl (hg := fun _ _ _ => ?_)) | (with_reducible apply wf_foldl_fst (hg := fun _ _ _ => ?_)) | split | dsimp only)

end Sys2Proof.Machine
end

