-- ==== Sys2Proof/Laws/FrameTrips.lean ====
section
/-! SUPPORT. Laws/FrameTrips.lean: what the operations of Machine/Trips.lean may change (f_only; f_step after what went before), and
that each keeps the memories' canonical form (f_wf). -/

set_option Elab.async false
set_option linter.all false

namespace Sys2Proof.Machine

theorem State.safeUp_only (s : State) (f : Safe → Safe) : Only [.safe] s (State.safeUp s f) := by
  unfold State.safeUp
  try dsimp only
  repeat' (first | (with_reducible exact Only.refl _ _) | (with_reducible apply Only.ite) | (with_reducible apply Only.ite_fst) | (with_reducible apply Only.foldl (hg := fun _ _ => ?_)) | (with_reducible apply Only.foldl_fst (hg := fun _ _ => ?_)) | split | dsimp only | (with_reducible apply only_with_safe_step (hm := by decide)))
theorem State.safeUp_step {l₀ : List Part} {s₀ : State} (s : State) (f : Safe → Safe) (h₀ : Only l₀ s₀ s) (hm : [.safe] ⊆ l₀) : Only l₀ s₀ (State.safeUp s f) :=
  h₀.step (State.safeUp_only s f) hm

theorem channelOff_only (s : State) (c : Nat) (fromMatrix : Bool) : Only [.regs, .legs] s (channelOff s c fromMatrix) := by
  unfold channelOff
  try dsimp only
  repeat' (first | (with_reducible exact Only.refl _ _) | (with_reducible apply Only.ite) | (with_reducible apply Only.ite_fst) | (with_reducible apply State.raiseIf_step (hm := by decide)) | (with_reducible apply legOff_step (hm := by decide)) | (with_reducible apply Only.foldl (hg := fun _ _ => ?_)) | (with_reducible apply Only.foldl_fst (hg := fun _ _ => ?_)) | split | dsimp only)
theorem channelOff_step {l₀ : List Part} {s₀ : State} (s : State) (c : Nat) (fromMatrix : Bool) (h₀ : Only l₀ s₀ s) (hm : [.regs, .legs] ⊆ l₀) : Only l₀ s₀ (channelOff s c fromMatrix) :=
  h₀.step (channelOff_only s c fromMatrix) hm

theorem latchChannel_only (s : State) (c cause : Nat) (fromMatrix : Bool) : Only [.regs, .legs, .pwm] s (latchChannel s c cause fromMatrix) := by
  unfold latchChannel
  try dsimp only
  repeat' (first | (with_reducible exact Only.refl _ _) | (with_reducible apply Only.ite) | (with_reducible apply Only.ite_fst) | (with_reducible apply State.raise_step (hm := by decide)) | (with_reducible apply State.set_step (hm := by decide)) | (with_reducible apply setLegStates_step (hm := by decide)) | (with_reducible apply channelOff_step (hm := by decide)) | (with_reducible apply resetShapers_step (hm := by decide)) | (with_reducible apply State.pwmUp_step (hm := by decide)) | (with_reducible apply Only.foldl (hg := fun _ _ => ?_)) | (with_reducible apply Only.foldl_fst (hg := fun _ _ => ?_)) | split | dsimp only)
theorem latchChannel_step {l₀ : List Part} {s₀ : State} (s : State) (c cause : Nat) (fromMatrix : Bool) (h₀ : Only l₀ s₀ s) (hm : [.regs, .legs, .pwm] ⊆ l₀) : Only l₀ s₀ (latchChannel s c cause fromMatrix) :=
  h₀.step (latchChannel_only s c cause fromMatrix) hm

theorem countTrip_only (s : State) (c : Nat) : Only [.regs, .legs, .pwm] s (countTrip s c) := by
  unfold countTrip
  try dsimp only
  repeat' (first | (with_reducible exact Only.refl _ _) | (with_reducible apply Only.ite) | (with_reducible apply Only.ite_fst) | (with_reducible apply State.set_step (hm := by decide)) | (with_reducible apply State.raise_step (hm := by decide)) | (with_reducible apply latchChannel_step (hm := by decide)) | (with_reducible apply Only.foldl (hg := fun _ _ => ?_)) | (with_reducible apply Only.foldl_fst (hg := fun _ _ => ?_)) | split | dsimp only)
theorem countTrip_step {l₀ : List Part} {s₀ : State} (s : State) (c : Nat) (h₀ : Only l₀ s₀ s) (hm : [.regs, .legs, .pwm] ⊆ l₀) : Only l₀ s₀ (countTrip s c) :=
  h₀.step (countTrip_only s c) hm

theorem cbcTrip_only (s : State) (c : Nat) : Only [.regs, .legs, .pwm] s (cbcTrip s c) := by
  unfold cbcTrip
  try dsimp only
  repeat' (first | (with_reducible exact Only.refl _ _) | (with_reducible apply Only.ite) | (with_reducible apply Only.ite_fst) | (with_reducible apply State.set_step (hm := by decide)) | (with_reducible apply countTrip_step (hm := by decide)) | (with_reducible apply channelOff_step (hm := by decide)) | (with_reducible apply Only.foldl (hg := fun _ _ => ?_)) | (with_reducible apply Only.foldl_fst (hg := fun _ _ => ?_)) | split | dsimp only)
theorem cbcTrip_step {l₀ : List Part} {s₀ : State} (s : State) (c : Nat) (h₀ : Only l₀ s₀ s) (hm : [.regs, .legs, .pwm] ⊆ l₀) : Only l₀ s₀ (cbcTrip s c) :=
  h₀.step (cbcTrip_only s c) hm

theorem releaseOwn_only (s : State) : Only [.regs, .pins] s (releaseOwn s) := by
  unfold releaseOwn
  try dsimp only
  repeat' (first | (with_reducible exact Only.refl _ _) | (with_reducible apply Only.ite) | (with_reducible apply Only.ite_fst) | (with_reducible apply State.setB_step (hm := by decide)) | (with_reducible apply Only.foldl (hg := fun _ _ => ?_)) | (with_reducible apply Only.foldl_fst (hg := fun _ _ => ?_)) | split | dsimp only | (with_reducible apply only_with_pins_step (hm := by decide)))
theorem releaseOwn_step {l₀ : List Part} {s₀ : State} (s : State) (h₀ : Only l₀ s₀ s) (hm : [.regs, .pins] ⊆ l₀) : Only l₀ s₀ (releaseOwn s) :=
  h₀.step (releaseOwn_only s) hm

theorem allOff_only (s : State) (fromMatrix : Bool) : Only [.regs, .legs] s (allOff s fromMatrix) := by
  unfold allOff
  try dsimp only
  repeat' (first | (with_reducible exact Only.refl _ _) | (with_reducible apply Only.ite) | (with_reducible apply Only.ite_fst) | (with_reducible apply State.raiseIf_step (hm := by decide)) | (with_reducible apply legOff_step (hm := by decide)) | (with_reducible apply Only.foldl (hg := fun _ _ => ?_)) | (with_reducible apply Only.foldl_fst (hg := fun _ _ => ?_)) | split | dsimp only)
theorem allOff_step {l₀ : List Part} {s₀ : State} (s : State) (fromMatrix : Bool) (h₀ : Only l₀ s₀ s) (hm : [.regs, .legs] ⊆ l₀) : Only l₀ s₀ (allOff s fromMatrix) :=
  h₀.step (allOff_only s fromMatrix) hm

theorem holdAll_only (s : State) (fromMatrix : Bool) : Only [.regs, .legs, .pwm] s (holdAll s fromMatrix) := by
  unfold holdAll
  try dsimp only
  repeat' (first | (with_reducible exact Only.refl _ _) | (with_reducible apply Only.ite) | (with_reducible apply Only.ite_fst) | (with_reducible apply allOff_step (hm := by decide)) | (with_reducible apply State.set_step (hm := by decide)) | (with_reducible apply resetShapers_step (hm := by decide)) | (with_reducible apply State.pwmUp_step (hm := by decide)) | (with_reducible apply Only.foldl (hg := fun _ _ => ?_)) | (with_reducible apply Only.foldl_fst (hg := fun _ _ => ?_)) | split | dsimp only)
theorem holdAll_step {l₀ : List Part} {s₀ : State} (s : State) (fromMatrix : Bool) (h₀ : Only l₀ s₀ s) (hm : [.regs, .legs, .pwm] ⊆ l₀) : Only l₀ s₀ (holdAll s fromMatrix) :=
  h₀.step (holdAll_only s fromMatrix) hm

theorem enterSafe_only (s : State) (bit : Nat) (fromMatrix : Bool) : Only [.regs, .legs, .pwm, .safe, .pins] s (enterSafe s bit fromMatrix) := by
  unfold enterSafe
  try dsimp only
  repeat' (first | (with_reducible exact Only.refl _ _) | (with_reducible apply Only.ite) | (with_reducible apply Only.ite_fst) | (with_reducible apply State.raise_step (hm := by decide)) | (with_reducible apply releaseOwn_step (hm := by decide)) | (with_reducible apply State.set_step (hm := by decide)) | (with_reducible apply holdAll_step (hm := by decide)) | (with_reducible apply State.safeUp_step (hm := by decide)) | (with_reducible apply Only.foldl (hg := fun _ _ => ?_)) | (with_reducible apply Only.foldl_fst (hg := fun _ _ => ?_)) | split | dsimp only)
theorem enterSafe_step {l₀ : List Part} {s₀ : State} (s : State) (bit : Nat) (fromMatrix : Bool) (h₀ : Only l₀ s₀ s) (hm : [.regs, .legs, .pwm, .safe, .pins] ⊆ l₀) : Only l₀ s₀ (enterSafe s bit fromMatrix) :=
  h₀.step (enterSafe_only s bit fromMatrix) hm

theorem actOn_only (s : State) (c act cause : Nat) : Only [.regs, .legs, .pwm] s (actOn s c act cause) := by
  unfold actOn
  try dsimp only
  repeat' (first | (with_reducible exact Only.refl _ _) | (with_reducible apply Only.ite) | (with_reducible apply Only.ite_fst) | (with_reducible apply cbcTrip_step (hm := by decide)) | (with_reducible apply latchChannel_step (hm := by decide)) | (with_reducible apply Only.foldl (hg := fun _ _ => ?_)) | (with_reducible apply Only.foldl_fst (hg := fun _ _ => ?_)) | split | dsimp only)
theorem actOn_step {l₀ : List Part} {s₀ : State} (s : State) (c act cause : Nat) (h₀ : Only l₀ s₀ s) (hm : [.regs, .legs, .pwm] ⊆ l₀) : Only l₀ s₀ (actOn s c act cause) :=
  h₀.step (actOn_only s c act cause) hm

theorem legFaultActs_only (s : State) (l : Nat) : Only [.regs, .legs, .pwm, .safe, .pins] s (legFaultActs s l) := by
  unfold legFaultActs
  try dsimp only
  repeat' (first | (with_reducible exact Only.refl _ _) | (with_reducible apply Only.ite) | (with_reducible apply Only.ite_fst) | (with_reducible apply actOn_step (hm := by decide)) | (with_reducible apply enterSafe_step (hm := by decide)) | (with_reducible apply Only.foldl (hg := fun _ _ => ?_)) | (with_reducible apply Only.foldl_fst (hg := fun _ _ => ?_)) | split | dsimp only)
theorem legFaultActs_step {l₀ : List Part} {s₀ : State} (s : State) (l : Nat) (h₀ : Only l₀ s₀ s) (hm : [.regs, .legs, .pwm, .safe, .pins] ⊆ l₀) : Only l₀ s₀ (legFaultActs s l) :=
  h₀.step (legFaultActs_only s l) hm

theorem tripActs_only (s : State) (n : Nat) : Only [.regs, .legs, .pwm, .safe, .pins] s (tripActs s n) := by
  unfold tripActs
  try dsimp only
  repeat' (first | (with_reducible exact Only.refl _ _) | (with_reducible apply Only.ite) | (with_reducible apply Only.ite_fst) | (with_reducible apply actOn_step (hm := by decide)) | (with_reducible apply enterSafe_step (hm := by decide)) | (with_reducible apply Only.foldl (hg := fun _ _ => ?_)) | (with_reducible apply Only.foldl_fst (hg := fun _ _ => ?_)) | split | dsimp only)
theorem tripActs_step {l₀ : List Part} {s₀ : State} (s : State) (n : Nat) (h₀ : Only l₀ s₀ s) (hm : [.regs, .legs, .pwm, .safe, .pins] ⊆ l₀) : Only l₀ s₀ (tripActs s n) :=
  h₀.step (tripActs_only s n) hm

theorem reportSource_only (s : State) (n : Nat) : Only [.regs, .gates] s (reportSource s n) := by
  unfold reportSource
  try dsimp only
  repeat' (first | (with_reducible exact Only.refl _ _) | (with_reducible apply Only.ite) | (with_reducible apply Only.ite_fst) | (with_reducible apply gatePush_step (hm := by decide)) | (with_reducible apply Only.foldl (hg := fun _ _ => ?_)) | (with_reducible apply Only.foldl_fst (hg := fun _ _ => ?_)) | split | dsimp only)
theorem reportSource_step {l₀ : List Part} {s₀ : State} (s : State) (n : Nat) (h₀ : Only l₀ s₀ s) (hm : [.regs, .gates] ⊆ l₀) : Only l₀ s₀ (reportSource s n) :=
  h₀.step (reportSource_only s n) hm

theorem faultAccept_only (s : State) (x : FaultSrc) : Only [.regs, .gates, .legs, .pwm, .safe, .pins] s (faultAccept s x) := by
  unfold faultAccept
  try dsimp only
  repeat' (first | (with_reducible exact Only.refl _ _) | (with_reducible apply Only.ite) | (with_reducible apply Only.ite_fst) | (with_reducible apply reportSource_step (hm := by decide)) | (with_reducible apply legFaultActs_step (hm := by decide)) | (with_reducible apply State.set_step (hm := by decide)) | (with_reducible apply tripActs_step (hm := by decide)) | (with_reducible apply Only.foldl (hg := fun _ _ => ?_)) | (with_reducible apply Only.foldl_fst (hg := fun _ _ => ?_)) | split | dsimp only)
theorem faultAccept_step {l₀ : List Part} {s₀ : State} (s : State) (x : FaultSrc) (h₀ : Only l₀ s₀ s) (hm : [.regs, .gates, .legs, .pwm, .safe, .pins] ⊆ l₀) : Only l₀ s₀ (faultAccept s x) :=
  h₀.step (faultAccept_only s x) hm

theorem pwmActive_only (s : State) : Only [.safe] s (pwmActive s) := by
  unfold pwmActive
  try dsimp only
  repeat' (first | (with_reducible exact Only.refl _ _) | (with_reducible apply Only.ite) | (with_reducible apply Only.ite_fst) | (with_reducible apply State.safeUp_step (hm := by decide)) | (with_reducible apply Only.foldl (hg := fun _ _ => ?_)) | (with_reducible apply Only.foldl_fst (hg := fun _ _ => ?_)) | split | dsimp only)
theorem pwmActive_step {l₀ : List Part} {s₀ : State} (s : State) (h₀ : Only l₀ s₀ s) (hm : [.safe] ⊆ l₀) : Only l₀ s₀ (pwmActive s) :=
  h₀.step (pwmActive_only s) hm

theorem faultRelease_only (s : State) (x : FaultSrc) : Only [.regs] s (faultRelease s x) := by
  unfold faultRelease
  try dsimp only
  repeat' (first | (with_reducible exact Only.refl _ _) | (with_reducible apply Only.ite) | (with_reducible apply Only.ite_fst) | (with_reducible apply State.set_step (hm := by decide)) | (with_reducible apply State.raiseIf_step (hm := by decide)) | (with_reducible apply Only.foldl (hg := fun _ _ => ?_)) | (with_reducible apply Only.foldl_fst (hg := fun _ _ => ?_)) | split | dsimp only)
theorem faultRelease_step {l₀ : List Part} {s₀ : State} (s : State) (x : FaultSrc) (h₀ : Only l₀ s₀ s) (hm : [.regs] ⊆ l₀) : Only l₀ s₀ (faultRelease s x) :=
  h₀.step (faultRelease_only s x) hm

theorem blankEnd_only (s : State) (l : Nat) : Only [.regs, .gates, .legs, .pwm, .safe, .pins] s (blankEnd s l) := by
  unfold blankEnd
  try dsimp only
  repeat' (first | (with_reducible exact Only.refl _ _) | (with_reducible apply Only.ite) | (with_reducible apply Only.ite_fst) | (with_reducible apply State.set_step (hm := by decide)) | (with_reducible apply reportSource_step (hm := by decide)) | (with_reducible apply legFaultActs_step (hm := by decide)) | (with_reducible apply Only.foldl (hg := fun _ _ => ?_)) | (with_reducible apply Only.foldl_fst (hg := fun _ _ => ?_)) | split | dsimp only)
theorem blankEnd_step {l₀ : List Part} {s₀ : State} (s : State) (l : Nat) (h₀ : Only l₀ s₀ s) (hm : [.regs, .gates, .legs, .pwm, .safe, .pins] ⊆ l₀) : Only l₀ s₀ (blankEnd s l) :=
  h₀.step (blankEnd_only s l) hm

theorem safeRequest_only (s : State) (kind c0 : Nat) (present : Bool) : Only [.regs, .legs, .pwm, .safe, .pins] s (safeRequest s kind c0 present) := by
  unfold safeRequest
  try dsimp only
  repeat' (first | (with_reducible exact Only.refl _ _) | (with_reducible apply Only.ite) | (with_reducible apply Only.ite_fst) | (with_reducible apply latchChannel_step (hm := by decide)) | (with_reducible apply State.pwmUp_step (hm := by decide)) | (with_reducible apply enterSafe_step (hm := by decide)) | (with_reducible apply Only.foldl (hg := fun _ _ => ?_)) | (with_reducible apply Only.foldl_fst (hg := fun _ _ => ?_)) | split | dsimp only)
theorem safeRequest_step {l₀ : List Part} {s₀ : State} (s : State) (kind c0 : Nat) (present : Bool) (h₀ : Only l₀ s₀ s) (hm : [.regs, .legs, .pwm, .safe, .pins] ⊆ l₀) : Only l₀ s₀ (safeRequest s kind c0 present) :=
  h₀.step (safeRequest_only s kind c0 present) hm

theorem safeLoOn_only (s : State) (c : Nat) : Only [.regs, .legs, .pwm] s (safeLoOn s c) := by
  unfold safeLoOn
  try dsimp only
  repeat' (first | (with_reducible exact Only.refl _ _) | (with_reducible apply Only.ite) | (with_reducible apply Only.ite_fst) | (with_reducible apply turnOn_step (hm := by decide)) | (with_reducible apply State.pwmUp_step (hm := by decide)) | (with_reducible apply Only.foldl (hg := fun _ _ => ?_)) | (with_reducible apply Only.foldl_fst (hg := fun _ _ => ?_)) | split | dsimp only)
theorem safeLoOn_step {l₀ : List Part} {s₀ : State} (s : State) (c : Nat) (h₀ : Only l₀ s₀ s) (hm : [.regs, .legs, .pwm] ⊆ l₀) : Only l₀ s₀ (safeLoOn s c) :=
  h₀.step (safeLoOn_only s c) hm

theorem safeHoldEnd_only (s : State) (c : Nat) : Only [.legs, .pwm] s (safeHoldEnd s c) := by
  unfold safeHoldEnd
  try dsimp only
  repeat' (first | (with_reducible exact Only.refl _ _) | (with_reducible apply Only.ite) | (with_reducible apply Only.ite_fst) | (with_reducible apply legOff_step (hm := by decide)) | (with_reducible apply State.pwmUp_step (hm := by decide)) | (with_reducible apply Only.foldl (hg := fun _ _ => ?_)) | (with_reducible apply Only.foldl_fst (hg := fun _ _ => ?_)) | split | dsimp only)
theorem safeHoldEnd_step {l₀ : List Part} {s₀ : State} (s : State) (c : Nat) (h₀ : Only l₀ s₀ s) (hm : [.legs, .pwm] ⊆ l₀) : Only l₀ s₀ (safeHoldEnd s c) :=
  h₀.step (safeHoldEnd_only s c) hm

theorem latchClear_only (s : State) (c : Nat) : Only [.regs, .pwm] s (latchClear s c) := by
  unfold latchClear
  try dsimp only
  repeat' (first | (with_reducible exact Only.refl _ _) | (with_reducible apply Only.ite) | (with_reducible apply Only.ite_fst) | (with_reducible apply State.raise_step (hm := by decide)) | (with_reducible apply State.set_step (hm := by decide)) | (with_reducible apply State.pwmUp_step (hm := by decide)) | (with_reducible apply Only.foldl (hg := fun _ _ => ?_)) | (with_reducible apply Only.foldl_fst (hg := fun _ _ => ?_)) | split | dsimp only)
theorem latchClear_step {l₀ : List Part} {s₀ : State} (s : State) (c : Nat) (h₀ : Only l₀ s₀ s) (hm : [.regs, .pwm] ⊆ l₀) : Only l₀ s₀ (latchClear s c) :=
  h₀.step (latchClear_only s c) hm

theorem latchForce_only (s : State) (c : Nat) : Only [.regs, .legs, .pwm] s (latchForce s c) := by
  unfold latchForce
  try dsimp only
  repeat' (first | (with_reducible exact Only.refl _ _) | (with_reducible apply Only.ite) | (with_reducible apply Only.ite_fst) | (with_reducible apply latchChannel_step (hm := by decide)) | (with_reducible apply Only.foldl (hg := fun _ _ => ?_)) | (with_reducible apply Only.foldl_fst (hg := fun _ _ => ?_)) | split | dsimp only)
theorem latchForce_step {l₀ : List Part} {s₀ : State} (s : State) (c : Nat) (h₀ : Only l₀ s₀ s) (hm : [.regs, .legs, .pwm] ⊆ l₀) : Only l₀ s₀ (latchForce s c) :=
  h₀.step (latchForce_only s c) hm

theorem writeTclr_only (s : State) (c : Nat) (v : Word) : Only [.regs, .legs, .pwm] s (writeTclr s c v) := by
  unfold writeTclr
  try dsimp only
  repeat' (first | (with_reducible exact Only.refl _ _) | (with_reducible apply Only.ite) | (with_reducible apply Only.ite_fst) | (with_reducible apply latchForce_step (hm := by decide)) | (with_reducible apply latchClear_step (hm := by decide)) | (with_reducible apply Only.foldl (hg := fun _ _ => ?_)) | (with_reducible apply Only.foldl_fst (hg := fun _ _ => ?_)) | split | dsimp only)
theorem writeTclr_step {l₀ : List Part} {s₀ : State} (s : State) (c : Nat) (v : Word) (h₀ : Only l₀ s₀ s) (hm : [.regs, .legs, .pwm] ⊆ l₀) : Only l₀ s₀ (writeTclr s c v) :=
  h₀.step (writeTclr_only s c v) hm

theorem deviceClear_only (s : State) : Only [.regs, .safe] s (deviceClear s) := by
  unfold deviceClear
  try dsimp only
  repeat' (first | (with_reducible exact Only.refl _ _) | (with_reducible apply Only.ite) | (with_reducible apply Only.ite_fst) | (with_reducible apply State.raise_step (hm := by decide)) | (with_reducible apply State.set_step (hm := by decide)) | (with_reducible apply State.safeUp_step (hm := by decide)) | (with_reducible apply Only.foldl (hg := fun _ _ => ?_)) | (with_reducible apply Only.foldl_fst (hg := fun _ _ => ?_)) | split | dsimp only)
theorem deviceClear_step {l₀ : List Part} {s₀ : State} (s : State) (h₀ : Only l₀ s₀ s) (hm : [.regs, .safe] ⊆ l₀) : Only l₀ s₀ (deviceClear s) :=
  h₀.step (deviceClear_only s) hm

theorem deviceForce_only (s : State) : Only [.regs, .legs, .pwm, .safe, .pins] s (deviceForce s) := by
  unfold deviceForce
  try dsimp only
  repeat' (first | (with_reducible exact Only.refl _ _) | (with_reducible apply Only.ite) | (with_reducible apply Only.ite_fst) | (with_reducible apply enterSafe_step (hm := by decide)) | (with_reducible apply Only.foldl (hg := fun _ _ => ?_)) | (with_reducible apply Only.foldl_fst (hg := fun _ _ => ?_)) | split | dsimp only)
theorem deviceForce_step {l₀ : List Part} {s₀ : State} (s : State) (h₀ : Only l₀ s₀ s) (hm : [.regs, .legs, .pwm, .safe, .pins] ⊆ l₀) : Only l₀ s₀ (deviceForce s) :=
  h₀.step (deviceForce_only s) hm

theorem limitsLock_only (s : State) : Only [.regs] s (limitsLock s) := by
  unfold limitsLock
  try dsimp only
  repeat' (first | (with_reducible exact Only.refl _ _) | (with_reducible apply Only.ite) | (with_reducible apply Only.ite_fst) | (with_reducible apply State.set_step (hm := by decide)) | (with_reducible apply Only.foldl (hg := fun _ _ => ?_)) | (with_reducible apply Only.foldl_fst (hg := fun _ _ => ?_)) | split | dsimp only)
theorem limitsLock_step {l₀ : List Part} {s₀ : State} (s : State) (h₀ : Only l₀ s₀ s) (hm : [.regs] ⊆ l₀) : Only l₀ s₀ (limitsLock s) :=
  h₀.step (limitsLock_only s) hm

theorem writeTsCtrl_only (s : State) (v : Word) : Only [.regs, .legs, .pwm, .safe, .pins] s (writeTsCtrl s v) := by
  unfold writeTsCtrl
  try dsimp only
  repeat' (first | (with_reducible exact Only.refl _ _) | (with_reducible apply Only.ite) | (with_reducible apply Only.ite_fst) | (with_reducible apply limitsLock_step (hm := by decide)) | (with_reducible apply deviceClear_step (hm := by decide)) | (with_reducible apply deviceForce_step (hm := by decide)) | (with_reducible apply Only.foldl (hg := fun _ _ => ?_)) | (with_reducible apply Only.foldl_fst (hg := fun _ _ => ?_)) | split | dsimp only)
theorem writeTsCtrl_step {l₀ : List Part} {s₀ : State} (s : State) (v : Word) (h₀ : Only l₀ s₀ s) (hm : [.regs, .legs, .pwm, .safe, .pins] ⊆ l₀) : Only l₀ s₀ (writeTsCtrl s v) :=
  h₀.step (writeTsCtrl_only s v) hm

theorem safeSelect_only (s : State) (c : Nat) : Only [.legs, .pwm] s (safeSelect s c) := by
  unfold safeSelect
  try dsimp only
  repeat' (first | (with_reducible exact Only.refl _ _) | (with_reducible apply Only.ite) | (with_reducible apply Only.ite_fst) | (with_reducible apply legOff_step (hm := by decide)) | (with_reducible apply State.pwmUp_step (hm := by decide)) | (with_reducible apply Only.foldl (hg := fun _ _ => ?_)) | (with_reducible apply Only.foldl_fst (hg := fun _ _ => ?_)) | split | dsimp only)
theorem safeSelect_step {l₀ : List Part} {s₀ : State} (s : State) (c : Nat) (h₀ : Only l₀ s₀ s) (hm : [.legs, .pwm] ⊆ l₀) : Only l₀ s₀ (safeSelect s c) :=
  h₀.step (safeSelect_only s c) hm

theorem writeLimit_only (s : State) (p : Nat) (v : Word) : Only [.regs, .heldU, .heldB, .legs, .pwm, .safe, .pins] s (writeLimit s p v) := by
  unfold writeLimit
  try dsimp only
  repeat' (first | (with_reducible exact Only.refl _ _) | (with_reducible apply Only.ite) | (with_reducible apply Only.ite_fst) | (with_reducible apply safeSelect_step (hm := by decide)) | (with_reducible apply State.raise_step (hm := by decide)) | (with_reducible apply safeRequest_step (hm := by decide)) | (with_reducible apply storeCoded_step (hm := by decide)) | (with_reducible apply Only.foldl (hg := fun _ _ => ?_)) | (with_reducible apply Only.foldl_fst (hg := fun _ _ => ?_)) | split | dsimp only)
theorem writeLimit_step {l₀ : List Part} {s₀ : State} (s : State) (p : Nat) (v : Word) (h₀ : Only l₀ s₀ s) (hm : [.regs, .heldU, .heldB, .legs, .pwm, .safe, .pins] ⊆ l₀) : Only l₀ s₀ (writeLimit s p v) :=
  h₀.step (writeLimit_only s p v) hm

theorem leakAtUpdate_only (s : State) (c : Nat) : Only [.regs] s (leakAtUpdate s c) := by
  unfold leakAtUpdate
  try dsimp only
  repeat' (first | (with_reducible exact Only.refl _ _) | (with_reducible apply Only.ite) | (with_reducible apply Only.ite_fst) | (with_reducible apply State.set_step (hm := by decide)) | (with_reducible apply Only.foldl (hg := fun _ _ => ?_)) | (with_reducible apply Only.foldl_fst (hg := fun _ _ => ?_)) | split | dsimp only)
theorem leakAtUpdate_step {l₀ : List Part} {s₀ : State} (s : State) (c : Nat) (h₀ : Only l₀ s₀ s) (hm : [.regs] ⊆ l₀) : Only l₀ s₀ (leakAtUpdate s c) :=
  h₀.step (leakAtUpdate_only s c) hm

theorem cbcAtUpdate_only (s : State) (c : Nat) : Only [.regs, .legs, .pwm] s (cbcAtUpdate s c) := by
  unfold cbcAtUpdate
  try dsimp only
  repeat' (first | (with_reducible exact Only.refl _ _) | (with_reducible apply Only.ite) | (with_reducible apply Only.ite_fst) | (with_reducible apply countTrip_step (hm := by decide)) | (with_reducible apply State.legUp_step (hm := by decide)) | (with_reducible apply State.set_step (hm := by decide)) | (with_reducible apply channelOff_step (hm := by decide)) | (with_reducible apply resume_step (hm := by decide)) | (with_reducible apply Only.foldl (hg := fun _ _ => ?_)) | (with_reducible apply Only.foldl_fst (hg := fun _ _ => ?_)) | split | dsimp only)
theorem cbcAtUpdate_step {l₀ : List Part} {s₀ : State} (s : State) (c : Nat) (h₀ : Only l₀ s₀ s) (hm : [.regs, .legs, .pwm] ⊆ l₀) : Only l₀ s₀ (cbcAtUpdate s c) :=
  h₀.step (cbcAtUpdate_only s c) hm

theorem backToOff_only (s : State) (c : Nat) : Only [.regs, .legs, .pwm] s (backToOff s c) := by
  unfold backToOff
  try dsimp only
  repeat' (first | (with_reducible exact Only.refl _ _) | (with_reducible apply Only.ite) | (with_reducible apply Only.ite_fst) | (with_reducible apply setLegStates_step (hm := by decide)) | (with_reducible apply legOff_step (hm := by decide)) | (with_reducible apply State.pwmUp_step (hm := by decide)) | (with_reducible apply Only.foldl (hg := fun _ _ => ?_)) | (with_reducible apply Only.foldl_fst (hg := fun _ _ => ?_)) | split | dsimp only)
theorem backToOff_step {l₀ : List Part} {s₀ : State} (s : State) (c : Nat) (h₀ : Only l₀ s₀ s) (hm : [.regs, .legs, .pwm] ⊆ l₀) : Only l₀ s₀ (backToOff s c) :=
  h₀.step (backToOff_only s c) hm

theorem releasesAtUpdate_only (s : State) : Only [.regs, .legs, .pwm, .safe] s (releasesAtUpdate s) := by
  unfold releasesAtUpdate
  try dsimp only
  repeat' (first | (with_reducible exact Only.refl _ _) | (with_reducible apply Only.ite) | (with_reducible apply Only.ite_fst) | (with_reducible apply backToOff_step (hm := by decide)) | (with_reducible apply State.safeUp_step (hm := by decide)) | (with_reducible apply Only.foldl (hg := fun _ _ => ?_)) | (with_reducible apply Only.foldl_fst (hg := fun _ _ => ?_)) | split | dsimp only)
theorem releasesAtUpdate_step {l₀ : List Part} {s₀ : State} (s : State) (h₀ : Only l₀ s₀ s) (hm : [.regs, .legs, .pwm, .safe] ⊆ l₀) : Only l₀ s₀ (releasesAtUpdate s) :=
  h₀.step (releasesAtUpdate_only s) hm

theorem haltAtUpdate_only (s : State) : Only [.regs, .legs, .pwm, .safe, .pins] s (haltAtUpdate s) := by
  unfold haltAtUpdate
  try dsimp only
  repeat' (first | (with_reducible exact Only.refl _ _) | (with_reducible apply Only.ite) | (with_reducible apply Only.ite_fst) | (with_reducible apply State.safeUp_step (hm := by decide)) | (with_reducible apply enterSafe_step (hm := by decide)) | (with_reducible apply Only.foldl (hg := fun _ _ => ?_)) | (with_reducible apply Only.foldl_fst (hg := fun _ _ => ?_)) | split | dsimp only)
theorem haltAtUpdate_step {l₀ : List Part} {s₀ : State} (s : State) (h₀ : Only l₀ s₀ s) (hm : [.regs, .legs, .pwm, .safe, .pins] ⊆ l₀) : Only l₀ s₀ (haltAtUpdate s) :=
  h₀.step (haltAtUpdate_only s) hm

theorem clockWindow_only (s : State) (clk count : Nat) : Only [.regs, .conds, .legs, .pwm, .safe, .pins] s (clockWindow s clk count) := by
  unfold clockWindow
  try dsimp only
  repeat' (first | (with_reducible exact Only.refl _ _) | (with_reducible apply Only.ite) | (with_reducible apply Only.ite_fst) | (with_reducible apply State.set_step (hm := by decide)) | (with_reducible apply pwmActive_step (hm := by decide)) | (with_reducible apply State.cond_step (hm := by decide)) | (with_reducible apply State.safeUp_step (hm := by decide)) | (with_reducible apply enterSafe_step (hm := by decide)) | (with_reducible apply Only.foldl (hg := fun _ _ => ?_)) | (with_reducible apply Only.foldl_fst (hg := fun _ _ => ?_)) | split | dsimp only)
theorem clockWindow_step {l₀ : List Part} {s₀ : State} (s : State) (clk count : Nat) (h₀ : Only l₀ s₀ s) (hm : [.regs, .conds, .legs, .pwm, .safe, .pins] ⊆ l₀) : Only l₀ s₀ (clockWindow s clk count) :=
  h₀.step (clockWindow_only s clk count) hm

theorem pwmSilence_only (s : State) : Only [.regs, .legs, .pwm, .safe, .pins] s (pwmSilence s) := by
  unfold pwmSilence
  try dsimp only
  repeat' (first | (with_reducible exact Only.refl _ _) | (with_reducible apply Only.ite) | (with_reducible apply Only.ite_fst) | (with_reducible apply State.safeUp_step (hm := by decide)) | (with_reducible apply enterSafe_step (hm := by decide)) | (with_reducible apply Only.foldl (hg := fun _ _ => ?_)) | (with_reducible apply Only.foldl_fst (hg := fun _ _ => ?_)) | split | dsimp only)
theorem pwmSilence_step {l₀ : List Part} {s₀ : State} (s : State) (h₀ : Only l₀ s₀ s) (hm : [.regs, .legs, .pwm, .safe, .pins] ⊆ l₀) : Only l₀ s₀ (pwmSilence s) :=
  h₀.step (pwmSilence_only s) hm

theorem mediaUnlock_only (s : State) : Only [.regs, .legs, .pwm, .safe, .pins] s (mediaUnlock s) := by
  unfold mediaUnlock
  try dsimp only
  repeat' (first | (with_reducible exact Only.refl _ _) | (with_reducible apply Only.ite) | (with_reducible apply Only.ite_fst) | (with_reducible apply State.set_step (hm := by decide)) | (with_reducible apply State.safeUp_step (hm := by decide)) | (with_reducible apply enterSafe_step (hm := by decide)) | (with_reducible apply Only.foldl (hg := fun _ _ => ?_)) | (with_reducible apply Only.foldl_fst (hg := fun _ _ => ?_)) | split | dsimp only)
theorem mediaUnlock_step {l₀ : List Part} {s₀ : State} (s : State) (h₀ : Only l₀ s₀ s) (hm : [.regs, .legs, .pwm, .safe, .pins] ⊆ l₀) : Only l₀ s₀ (mediaUnlock s) :=
  h₀.step (mediaUnlock_only s) hm

theorem dieTemp_only (s : State) (t : Int) : Only [.regs, .legs, .pwm, .safe, .pins] s (dieTemp s t) := by
  unfold dieTemp
  try dsimp only
  repeat' (first | (with_reducible exact Only.refl _ _) | (with_reducible apply Only.ite) | (with_reducible apply Only.ite_fst) | (with_reducible apply State.raiseIf_step (hm := by decide)) | (with_reducible apply State.set_step (hm := by decide)) | (with_reducible apply State.safeUp_step (hm := by decide)) | (with_reducible apply enterSafe_step (hm := by decide)) | (with_reducible apply Only.foldl (hg := fun _ _ => ?_)) | (with_reducible apply Only.foldl_fst (hg := fun _ _ => ?_)) | split | dsimp only)
theorem dieTemp_step {l₀ : List Part} {s₀ : State} (s : State) (t : Int) (h₀ : Only l₀ s₀ s) (hm : [.regs, .legs, .pwm, .safe, .pins] ⊆ l₀) : Only l₀ s₀ (dieTemp s t) :=
  h₀.step (dieTemp_only s t) hm

theorem debugHalt_only (s : State) (x : Proc) : Only [.sys, .safe] s (debugHalt s x) := by
  unfold debugHalt
  try dsimp only
  repeat' (first | (with_reducible exact Only.refl _ _) | (with_reducible apply Only.ite) | (with_reducible apply Only.ite_fst) | (with_reducible apply State.safeUp_step (hm := by decide)) | (with_reducible apply Only.foldl (hg := fun _ _ => ?_)) | (with_reducible apply Only.foldl_fst (hg := fun _ _ => ?_)) | split | dsimp only | (with_reducible apply only_with_sys_step (hm := by decide)))
theorem debugHalt_step {l₀ : List Part} {s₀ : State} (s : State) (x : Proc) (h₀ : Only l₀ s₀ s) (hm : [.sys, .safe] ⊆ l₀) : Only l₀ s₀ (debugHalt s x) :=
  h₀.step (debugHalt_only s x) hm

theorem lockstep_only (s : State) : Only [.regs, .legs, .pwm, .safe, .pins] s (lockstep s) := by
  unfold lockstep
  try dsimp only
  repeat' (first | (with_reducible exact Only.refl _ _) | (with_reducible apply Only.ite) | (with_reducible apply Only.ite_fst) | (with_reducible apply enterSafe_step (hm := by decide)) | (with_reducible apply Only.foldl (hg := fun _ _ => ?_)) | (with_reducible apply Only.foldl_fst (hg := fun _ _ => ?_)) | split | dsimp only)
theorem lockstep_step {l₀ : List Part} {s₀ : State} (s : State) (h₀ : Only l₀ s₀ s) (hm : [.regs, .legs, .pwm, .safe, .pins] ⊆ l₀) : Only l₀ s₀ (lockstep s) :=
  h₀.step (lockstep_only s) hm

/-! ### The canonical form -/

theorem State.safeUp_wf (s : State) (f : Safe → Safe) (h₀ : Memory.wf s = true) : Memory.wf (State.safeUp s f) = true :=
  Only.wf (State.safeUp_only s f) (by decide) h₀

theorem channelOff_wf (s : State) (c : Nat) (fromMatrix : Bool) (h₀ : Memory.wf s = true) : Memory.wf (channelOff s c fromMatrix) = true := by
  unfold channelOff
  try dsimp only
  repeat' (first | (with_reducible assumption) | (with_reducible apply wf_ite) | (with_reducible apply wf_ite_fst) | (with_reducible apply State.raiseIf_wf) | (with_reducible apply legOff_wf) | (with_reducible apply wf_foldl (hg := fun _ _ _ => ?_)) | (with_reducible apply wf_foldl_fst (hg := fun _ _ _ => ?_)) | split | dsimp only)

theorem latchChannel_wf (s : State) (c cause : Nat) (fromMatrix : Bool) (h₀ : Memory.wf s = true) : Memory.wf (latchChannel s c cause fromMatrix) = true := by
  unfold latchChannel
  try dsimp only
  repeat' (first | (with_reducible assumption) | (with_reducible apply wf_ite) | (with_reducible apply wf_ite_fst) | (with_reducible apply State.raise_wf) | (with_reducible apply setLegStates_wf) | (with_reducible apply State.set_wf) | (with_reducible apply State.pwmUp_wf) | (with_reducible apply channelOff_wf) | (with_reducible apply resetShapers_wf) | (with_reducible apply wf_foldl (hg := fun _ _ _ => ?_)) | (with_reducible apply wf_foldl_fst (hg := fun _ _ _ => ?_)) | split | dsimp only)

theorem countTrip_wf (s : State) (c : Nat) (h₀ : Memory.wf s = true) : Memory.wf (countTrip s c) = true := by
  unfold countTrip
  try dsimp only
  repeat' (first | (with_reducible assumption) | (with_reducible apply wf_ite) | (with_reducible apply wf_ite_fst) | (with_reducible apply State.raise_wf) | (with_reducible apply State.set_wf) | (with_reducible apply latchChannel_wf) | (with_reducible apply wf_foldl (hg := fun _ _ _ => ?_)) | (with_reducible apply wf_foldl_fst (hg := fun _ _ _ => ?_)) | split | dsimp only)

theorem cbcTrip_wf (s : State) (c : Nat) (h₀ : Memory.wf s = true) : Memory.wf (cbcTrip s c) = true := by
  unfold cbcTrip
  try dsimp only
  repeat' (first | (with_reducible assumption) | (with_reducible apply wf_ite) | (with_reducible apply wf_ite_fst) | (with_reducible apply channelOff_wf) | (with_reducible apply State.set_wf) | (with_reducible apply countTrip_wf) | (with_reducible apply wf_foldl (hg := fun _ _ _ => ?_)) | (with_reducible apply wf_foldl_fst (hg := fun _ _ _ => ?_)) | split | dsimp only)

theorem releaseOwn_wf (s : State) (h₀ : Memory.wf s = true) : Memory.wf (releaseOwn s) = true := by
  unfold releaseOwn
  try dsimp only
  repeat' (first | (with_reducible assumption) | (with_reducible apply wf_ite) | (with_reducible apply wf_ite_fst) | (with_reducible apply State.setB_wf) | (with_reducible apply wf_foldl (hg := fun _ _ _ => ?_)) | (with_reducible apply wf_foldl_fst (hg := fun _ _ _ => ?_)) | split | dsimp only | (with_reducible apply wf_with_pins))

theorem allOff_wf (s : State) (fromMatrix : Bool) (h₀ : Memory.wf s = true) : Memory.wf (allOff s fromMatrix) = true := by
  unfold allOff
  try dsimp only
  repeat' (first | (with_reducible assumption) | (with_reducible apply wf_ite) | (with_reducible apply wf_ite_fst) | (with_reducible apply State.raiseIf_wf) | (with_reducible apply legOff_wf) | (with_reducible apply wf_foldl (hg := fun _ _ _ => ?_)) | (with_reducible apply wf_foldl_fst (hg := fun _ _ _ => ?_)) | split | dsimp only)

theorem holdAll_wf (s : State) (fromMatrix : Bool) (h₀ : Memory.wf s = true) : Memory.wf (holdAll s fromMatrix) = true := by
  unfold holdAll
  try dsimp only
  repeat' (first | (with_reducible assumption) | (with_reducible apply wf_ite) | (with_reducible apply wf_ite_fst) | (with_reducible apply allOff_wf) | (with_reducible apply State.set_wf) | (with_reducible apply State.pwmUp_wf) | (with_reducible apply resetShapers_wf) | (with_reducible apply wf_foldl (hg := fun _ _ _ => ?_)) | (with_reducible apply wf_foldl_fst (hg := fun _ _ _ => ?_)) | split | dsimp only)

theorem enterSafe_wf (s : State) (bit : Nat) (fromMatrix : Bool) (h₀ : Memory.wf s = true) : Memory.wf (enterSafe s bit fromMatrix) = true := by
  unfold enterSafe
  try dsimp only
  repeat' (first | (with_reducible assumption) | (with_reducible apply wf_ite) | (with_reducible apply wf_ite_fst) | (with_reducible apply holdAll_wf) | (with_reducible apply releaseOwn_wf) | (with_reducible apply State.safeUp_wf) | (with_reducible apply State.set_wf) | (with_reducible apply State.raise_wf) | (with_reducible apply wf_foldl (hg := fun _ _ _ => ?_)) | (with_reducible apply wf_foldl_fst (hg := fun _ _ _ => ?_)) | split | dsimp only)

theorem actOn_wf (s : State) (c act cause : Nat) (h₀ : Memory.wf s = true) : Memory.wf (actOn s c act cause) = true := by
  unfold actOn
  try dsimp only
  repeat' (first | (with_reducible assumption) | (with_reducible apply wf_ite) | (with_reducible apply wf_ite_fst) | (with_reducible apply cbcTrip_wf) | (with_reducible apply latchChannel_wf) | (with_reducible apply wf_foldl (hg := fun _ _ _ => ?_)) | (with_reducible apply wf_foldl_fst (hg := fun _ _ _ => ?_)) | split | dsimp only)

theorem legFaultActs_wf (s : State) (l : Nat) (h₀ : Memory.wf s = true) : Memory.wf (legFaultActs s l) = true := by
  unfold legFaultActs
  try dsimp only
  repeat' (first | (with_reducible assumption) | (with_reducible apply wf_ite) | (with_reducible apply wf_ite_fst) | (with_reducible apply enterSafe_wf) | (with_reducible apply actOn_wf) | (with_reducible apply wf_foldl (hg := fun _ _ _ => ?_)) | (with_reducible apply wf_foldl_fst (hg := fun _ _ _ => ?_)) | split | dsimp only)

theorem tripActs_wf (s : State) (n : Nat) (h₀ : Memory.wf s = true) : Memory.wf (tripActs s n) = true := by
  unfold tripActs
  try dsimp only
  repeat' (first | (with_reducible assumption) | (with_reducible apply wf_ite) | (with_reducible apply wf_ite_fst) | (with_reducible apply actOn_wf) | (with_reducible apply enterSafe_wf) | (with_reducible apply wf_foldl (hg := fun _ _ _ => ?_)) | (with_reducible apply wf_foldl_fst (hg := fun _ _ _ => ?_)) | split | dsimp only)

theorem reportSource_wf (s : State) (n : Nat) (h₀ : Memory.wf s = true) : Memory.wf (reportSource s n) = true := by
  unfold reportSource
  try dsimp only
  repeat' (first | (with_reducible assumption) | (with_reducible apply wf_ite) | (with_reducible apply wf_ite_fst) | (with_reducible apply gatePush_wf) | (with_reducible apply wf_foldl (hg := fun _ _ _ => ?_)) | (with_reducible apply wf_foldl_fst (hg := fun _ _ _ => ?_)) | split | dsimp only)

theorem faultAccept_wf (s : State) (x : FaultSrc) (h₀ : Memory.wf s = true) : Memory.wf (faultAccept s x) = true := by
  unfold faultAccept
  try dsimp only
  repeat' (first | (with_reducible assumption) | (with_reducible apply wf_ite) | (with_reducible apply wf_ite_fst) | (with_reducible apply tripActs_wf) | (with_reducible apply legFaultActs_wf) | (with_reducible apply reportSource_wf) | (with_reducible apply State.set_wf) | (with_reducible apply wf_foldl (hg := fun _ _ _ => ?_)) | (with_reducible apply wf_foldl_fst (hg := fun _ _ _ => ?_)) | split | dsimp only)

theorem pwmActive_wf (s : State) (h₀ : Memory.wf s = true) : Memory.wf (pwmActive s) = true :=
  Only.wf (pwmActive_only s) (by decide) h₀

theorem faultRelease_wf (s : State) (x : FaultSrc) (h₀ : Memory.wf s = true) : Memory.wf (faultRelease s x) = true := by
  unfold faultRelease
  try dsimp only
  repeat' (first | (with_reducible assumption) | (with_reducible apply wf_ite) | (with_reducible apply wf_ite_fst) | (with_reducible apply State.raiseIf_wf) | (with_reducible apply State.set_wf) | (with_reducible apply wf_foldl (hg := fun _ _ _ => ?_)) | (with_reducible apply wf_foldl_fst (hg := fun _ _ _ => ?_)) | split | dsimp only)

theorem blankEnd_wf (s : State) (l : Nat) (h₀ : Memory.wf s = true) : Memory.wf (blankEnd s l) = true := by
  unfold blankEnd
  try dsimp only
  repeat' (first | (with_reducible assumption) | (with_reducible apply wf_ite) | (with_reducible apply wf_ite_fst) | (with_reducible apply legFaultActs_wf) | (with_reducible apply reportSource_wf) | (with_reducible apply State.set_wf) | (with_reducible apply wf_foldl (hg := fun _ _ _ => ?_)) | (with_reducible apply wf_foldl_fst (hg := fun _ _ _ => ?_)) | split | dsimp only)

theorem safeRequest_wf (s : State) (kind c0 : Nat) (present : Bool) (h₀ : Memory.wf s = true) : Memory.wf (safeRequest s kind c0 present) = true := by
  unfold safeRequest
  try dsimp only
  repeat' (first | (with_reducible assumption) | (with_reducible apply wf_ite) | (with_reducible apply wf_ite_fst) | (with_reducible apply enterSafe_wf) | (with_reducible apply State.pwmUp_wf) | (with_reducible apply latchChannel_wf) | (with_reducible apply wf_foldl (hg := fun _ _ _ => ?_)) | (with_reducible apply wf_foldl_fst (hg := fun _ _ _ => ?_)) | split | dsimp only)

theorem safeLoOn_wf (s : State) (c : Nat) (h₀ : Memory.wf s = true) : Memory.wf (safeLoOn s c) = true := by
  unfold safeLoOn
  try dsimp only
  repeat' (first | (with_reducible assumption) | (with_reducible apply wf_ite) | (with_reducible apply wf_ite_fst) | (with_reducible apply turnOn_wf) | (with_reducible apply State.pwmUp_wf) | (with_reducible apply wf_foldl (hg := fun _ _ _ => ?_)) | (with_reducible apply wf_foldl_fst (hg := fun _ _ _ => ?_)) | split | dsimp only)

theorem safeHoldEnd_wf (s : State) (c : Nat) (h₀ : Memory.wf s = true) : Memory.wf (safeHoldEnd s c) = true :=
  Only.wf (safeHoldEnd_only s c) (by decide) h₀

theorem latchClear_wf (s : State) (c : Nat) (h₀ : Memory.wf s = true) : Memory.wf (latchClear s c) = true := by
  unfold latchClear
  try dsimp only
  repeat' (first | (with_reducible assumption) | (with_reducible apply wf_ite) | (with_reducible apply wf_ite_fst) | (with_reducible apply State.raise_wf) | (with_reducible apply State.set_wf) | (with_reducible apply State.pwmUp_wf) | (with_reducible apply wf_foldl (hg := fun _ _ _ => ?_)) | (with_reducible apply wf_foldl_fst (hg := fun _ _ _ => ?_)) | split | dsimp only)

theorem latchForce_wf (s : State) (c : Nat) (h₀ : Memory.wf s = true) : Memory.wf (latchForce s c) = true := by
  unfold latchForce
  try dsimp only
  repeat' (first | (with_reducible assumption) | (with_reducible apply wf_ite) | (with_reducible apply wf_ite_fst) | (with_reducible apply latchChannel_wf) | (with_reducible apply wf_foldl (hg := fun _ _ _ => ?_)) | (with_reducible apply wf_foldl_fst (hg := fun _ _ _ => ?_)) | split | dsimp only)

theorem writeTclr_wf (s : State) (c : Nat) (v : Word) (h₀ : Memory.wf s = true) : Memory.wf (writeTclr s c v) = true := by
  unfold writeTclr
  try dsimp only
  repeat' (first | (with_reducible assumption) | (with_reducible apply wf_ite) | (with_reducible apply wf_ite_fst) | (with_reducible apply latchClear_wf) | (with_reducible apply latchForce_wf) | (with_reducible apply wf_foldl (hg := fun _ _ _ => ?_)) | (with_reducible apply wf_foldl_fst (hg := fun _ _ _ => ?_)) | split | dsimp only)

theorem deviceClear_wf (s : State) (h₀ : Memory.wf s = true) : Memory.wf (deviceClear s) = true := by
  unfold deviceClear
  try dsimp only
  repeat' (first | (with_reducible assumption) | (with_reducible apply wf_ite) | (with_reducible apply wf_ite_fst) | (with_reducible apply State.raise_wf) | (with_reducible apply State.safeUp_wf) | (with_reducible apply State.set_wf) | (with_reducible apply wf_foldl (hg := fun _ _ _ => ?_)) | (with_reducible apply wf_foldl_fst (hg := fun _ _ _ => ?_)) | split | dsimp only)

theorem deviceForce_wf (s : State) (h₀ : Memory.wf s = true) : Memory.wf (deviceForce s) = true := by
  unfold deviceForce
  try dsimp only
  repeat' (first | (with_reducible assumption) | (with_reducible apply wf_ite) | (with_reducible apply wf_ite_fst) | (with_reducible apply enterSafe_wf) | (with_reducible apply wf_foldl (hg := fun _ _ _ => ?_)) | (with_reducible apply wf_foldl_fst (hg := fun _ _ _ => ?_)) | split | dsimp only)

theorem limitsLock_wf (s : State) (h₀ : Memory.wf s = true) : Memory.wf (limitsLock s) = true := by
  unfold limitsLock
  try dsimp only
  repeat' (first | (with_reducible assumption) | (with_reducible apply wf_ite) | (with_reducible apply wf_ite_fst) | (with_reducible apply State.set_wf) | (with_reducible apply wf_foldl (hg := fun _ _ _ => ?_)) | (with_reducible apply wf_foldl_fst (hg := fun _ _ _ => ?_)) | split | dsimp only)

theorem writeTsCtrl_wf (s : State) (v : Word) (h₀ : Memory.wf s = true) : Memory.wf (writeTsCtrl s v) = true := by
  unfold writeTsCtrl
  try dsimp only
  repeat' (first | (with_reducible assumption) | (with_reducible apply wf_ite) | (with_reducible apply wf_ite_fst) | (with_reducible apply deviceClear_wf) | (with_reducible apply limitsLock_wf) | (with_reducible apply deviceForce_wf) | (with_reducible apply wf_foldl (hg := fun _ _ _ => ?_)) | (with_reducible apply wf_foldl_fst (hg := fun _ _ _ => ?_)) | split | dsimp only)

theorem safeSelect_wf (s : State) (c : Nat) (h₀ : Memory.wf s = true) : Memory.wf (safeSelect s c) = true :=
  Only.wf (safeSelect_only s c) (by decide) h₀

theorem writeLimit_wf (s : State) (p : Nat) (v : Word) (h₀ : Memory.wf s = true) : Memory.wf (writeLimit s p v) = true := by
  unfold writeLimit
  try dsimp only
  repeat' (first | (with_reducible assumption) | (with_reducible apply wf_ite) | (with_reducible apply wf_ite_fst) | (with_reducible apply safeSelect_wf) | (with_reducible apply State.raise_wf) | (with_reducible apply storeCoded_wf) | (with_reducible apply safeRequest_wf) | (with_reducible apply wf_foldl (hg := fun _ _ _ => ?_)) | (with_reducible apply wf_foldl_fst (hg := fun _ _ _ => ?_)) | split | dsimp only)

theorem leakAtUpdate_wf (s : State) (c : Nat) (h₀ : Memory.wf s = true) : Memory.wf (leakAtUpdate s c) = true := by
  unfold leakAtUpdate
  try dsimp only
  repeat' (first | (with_reducible assumption) | (with_reducible apply wf_ite) | (with_reducible apply wf_ite_fst) | (with_reducible apply State.set_wf) | (with_reducible apply wf_foldl (hg := fun _ _ _ => ?_)) | (with_reducible apply wf_foldl_fst (hg := fun _ _ _ => ?_)) | split | dsimp only)

theorem cbcAtUpdate_wf (s : State) (c : Nat) (h₀ : Memory.wf s = true) : Memory.wf (cbcAtUpdate s c) = true := by
  unfold cbcAtUpdate
  try dsimp only
  repeat' (first | (with_reducible assumption) | (with_reducible apply wf_ite) | (with_reducible apply wf_ite_fst) | (with_reducible apply State.legUp_wf) | (with_reducible apply countTrip_wf) | (with_reducible apply resume_wf) | (with_reducible apply State.set_wf) | (with_reducible apply channelOff_wf) | (with_reducible apply wf_foldl (hg := fun _ _ _ => ?_)) | (with_reducible apply wf_foldl_fst (hg := fun _ _ _ => ?_)) | split | dsimp only)

theorem backToOff_wf (s : State) (c : Nat) (h₀ : Memory.wf s = true) : Memory.wf (backToOff s c) = true := by
  unfold backToOff
  try dsimp only
  repeat' (first | (with_reducible assumption) | (with_reducible apply wf_ite) | (with_reducible apply wf_ite_fst) | (with_reducible apply setLegStates_wf) | (with_reducible apply State.pwmUp_wf) | (with_reducible apply legOff_wf) | (with_reducible apply wf_foldl (hg := fun _ _ _ => ?_)) | (with_reducible apply wf_foldl_fst (hg := fun _ _ _ => ?_)) | split | dsimp only)

theorem releasesAtUpdate_wf (s : State) (h₀ : Memory.wf s = true) : Memory.wf (releasesAtUpdate s) = true := by
  unfold releasesAtUpdate
  try dsimp only
  repeat' (first | (with_reducible assumption) | (with_reducible apply wf_ite) | (with_reducible apply wf_ite_fst) | (with_reducible apply State.safeUp_wf) | (with_reducible apply backToOff_wf) | (with_reducible apply wf_foldl (hg := fun _ _ _ => ?_)) | (with_reducible apply wf_foldl_fst (hg := fun _ _ _ => ?_)) | split | dsimp only)

theorem haltAtUpdate_wf (s : State) (h₀ : Memory.wf s = true) : Memory.wf (haltAtUpdate s) = true := by
  unfold haltAtUpdate
  try dsimp only
  repeat' (first | (with_reducible assumption) | (with_reducible apply wf_ite) | (with_reducible apply wf_ite_fst) | (with_reducible apply enterSafe_wf) | (with_reducible apply State.safeUp_wf) | (with_reducible apply wf_foldl (hg := fun _ _ _ => ?_)) | (with_reducible apply wf_foldl_fst (hg := fun _ _ _ => ?_)) | split | dsimp only)

theorem clockWindow_wf (s : State) (clk count : Nat) (h₀ : Memory.wf s = true) : Memory.wf (clockWindow s clk count) = true := by
  unfold clockWindow
  try dsimp only
  repeat' (first | (with_reducible assumption) | (with_reducible apply wf_ite) | (with_reducible apply wf_ite_fst) | (with_reducible apply pwmActive_wf) | (with_reducible apply State.safeUp_wf) | (with_reducible apply State.set_wf) | (with_reducible apply enterSafe_wf) | (with_reducible apply State.cond_wf) | (with_reducible apply wf_foldl (hg := fun _ _ _ => ?_)) | (with_reducible apply wf_foldl_fst (hg := fun _ _ _ => ?_)) | split | dsimp only)

theorem pwmSilence_wf (s : State) (h₀ : Memory.wf s = true) : Memory.wf (pwmSilence s) = true := by
  unfold pwmSilence
  try dsimp only
  repeat' (first | (with_reducible assumption) | (with_reducible apply wf_ite) | (with_reducible apply wf_ite_fst) | (with_reducible apply enterSafe_wf) | (with_reducible apply State.safeUp_wf) | (with_reducible apply wf_foldl (hg := fun _ _ _ => ?_)) | (with_reducible apply wf_foldl_fst (hg := fun _ _ _ => ?_)) | split | dsimp only)

theorem mediaUnlock_wf (s : State) (h₀ : Memory.wf s = true) : Memory.wf (mediaUnlock s) = true := by
  unfold mediaUnlock
  try dsimp only
  repeat' (first | (with_reducible assumption) | (with_reducible apply wf_ite) | (with_reducible apply wf_ite_fst) | (with_reducible apply State.set_wf) | (with_reducible apply enterSafe_wf) | (with_reducible apply State.safeUp_wf) | (with_reducible apply wf_foldl (hg := fun _ _ _ => ?_)) | (with_reducible apply wf_foldl_fst (hg := fun _ _ _ => ?_)) | split | dsimp only)

theorem dieTemp_wf (s : State) (t : Int) (h₀ : Memory.wf s = true) : Memory.wf (dieTemp s t) = true := by
  unfold dieTemp
  try dsimp only
  repeat' (first | (with_reducible assumption) | (with_reducible apply wf_ite) | (with_reducible apply wf_ite_fst) | (with_reducible apply State.raiseIf_wf) | (with_reducible apply State.safeUp_wf) | (with_reducible apply State.set_wf) | (with_reducible apply enterSafe_wf) | (with_reducible apply wf_foldl (hg := fun _ _ _ => ?_)) | (with_reducible apply wf_foldl_fst (hg := fun _ _ _ => ?_)) | split | dsimp only)

theorem debugHalt_wf (s : State) (x : Proc) (h₀ : Memory.wf s = true) : Memory.wf (debugHalt s x) = true :=
  Only.wf (debugHalt_only s x) (by decide) h₀

theorem lockstep_wf (s : State) (h₀ : Memory.wf s = true) : Memory.wf (lockstep s) = true := by
  unfold lockstep
  try dsimp only
  repeat' (first | (with_reducible assumption) | (with_reducible apply wf_ite) | (with_reducible apply wf_ite_fst) | (with_reducible apply enterSafe_wf) | (with_reducible apply wf_foldl (hg := fun _ _ _ => ?_)) | (with_reducible apply wf_foldl_fst (hg := fun _ _ _ => ?_)) | split | dsimp only)

end Sys2Proof.Machine
end

