-- ==== Sys2Proof/Laws/FrameSense.lean ====
section
/-! SUPPORT. Laws/FrameSense.lean: what the operations of Machine/Sense.lean may change (f_only; f_step after what went before), and
that each keeps the memories' canonical form (f_wf). -/

set_option Elab.async false
set_option linter.all false

namespace Sys2Proof.Machine

theorem State.snsUp_only (s : State) (f : Sense → Sense) : Only [.sense] s (State.snsUp s f) := by
  unfold State.snsUp
  try dsimp only
  repeat' (first | (with_reducible exact Only.refl _ _) | (with_reducible apply Only.ite) | (with_reducible apply Only.ite_fst) | (with_reducible apply Only.foldl (hg := fun _ _ => ?_)) | (with_reducible apply Only.foldl_fst (hg := fun _ _ => ?_)) | split | dsimp only | (with_reducible apply only_with_sense_step (hm := by decide)))
theorem State.snsUp_step {l₀ : List Part} {s₀ : State} (s : State) (f : Sense → Sense) (h₀ : Only l₀ s₀ s) (hm : [.sense] ⊆ l₀) : Only l₀ s₀ (State.snsUp s f) :=
  h₀.step (State.snsUp_only s f) hm

theorem State.sliceUp_only (s : State) (n : Nat) (f : SliceSt → SliceSt) : Only [.sense] s (State.sliceUp s n f) := by
  unfold State.sliceUp
  try dsimp only
  repeat' (first | (with_reducible exact Only.refl _ _) | (with_reducible apply Only.ite) | (with_reducible apply Only.ite_fst) | (with_reducible apply State.snsUp_step (hm := by decide)) | (with_reducible apply Only.foldl (hg := fun _ _ => ?_)) | (with_reducible apply Only.foldl_fst (hg := fun _ _ => ?_)) | split | dsimp only)
theorem State.sliceUp_step {l₀ : List Part} {s₀ : State} (s : State) (n : Nat) (f : SliceSt → SliceSt) (h₀ : Only l₀ s₀ s) (hm : [.sense] ⊆ l₀) : Only l₀ s₀ (State.sliceUp s n f) :=
  h₀.step (State.sliceUp_only s n f) hm

theorem State.inputUp_only (s : State) (i : Nat) (f : SnsInput → SnsInput) : Only [.sense] s (State.inputUp s i f) := by
  unfold State.inputUp
  try dsimp only
  repeat' (first | (with_reducible exact Only.refl _ _) | (with_reducible apply Only.ite) | (with_reducible apply Only.ite_fst) | (with_reducible apply State.snsUp_step (hm := by decide)) | (with_reducible apply Only.foldl (hg := fun _ _ => ?_)) | (with_reducible apply Only.foldl_fst (hg := fun _ _ => ?_)) | split | dsimp only)
theorem State.inputUp_step {l₀ : List Part} {s₀ : State} (s : State) (i : Nat) (f : SnsInput → SnsInput) (h₀ : Only l₀ s₀ s) (hm : [.sense] ⊆ l₀) : Only l₀ s₀ (State.inputUp s i f) :=
  h₀.step (State.inputUp_only s i f) hm

theorem showSpares_only (s : State) : Only [.regs] s (showSpares s) := by
  unfold showSpares
  try dsimp only
  repeat' (first | (with_reducible exact Only.refl _ _) | (with_reducible apply Only.ite) | (with_reducible apply Only.ite_fst) | (with_reducible apply State.set_step (hm := by decide)) | (with_reducible apply Only.foldl (hg := fun _ _ => ?_)) | (with_reducible apply Only.foldl_fst (hg := fun _ _ => ?_)) | split | dsimp only)
theorem showSpares_step {l₀ : List Part} {s₀ : State} (s : State) (h₀ : Only l₀ s₀ s) (hm : [.regs] ⊆ l₀) : Only l₀ s₀ (showSpares s) :=
  h₀.step (showSpares_only s) hm

theorem loseFirst_only (s : State) (v : Conv) (known : Nat) : Only [.regs, .sense] s (loseFirst s v known) := by
  unfold loseFirst
  try dsimp only
  repeat' (first | (with_reducible exact Only.refl _ _) | (with_reducible apply Only.ite) | (with_reducible apply Only.ite_fst) | (with_reducible apply State.raise_step (hm := by decide)) | (with_reducible apply State.inputUp_step (hm := by decide)) | (with_reducible apply Only.foldl (hg := fun _ _ => ?_)) | (with_reducible apply Only.foldl_fst (hg := fun _ _ => ?_)) | split | dsimp only)
theorem loseFirst_step {l₀ : List Part} {s₀ : State} (s : State) (v : Conv) (known : Nat) (h₀ : Only l₀ s₀ s) (hm : [.regs, .sense] ⊆ l₀) : Only l₀ s₀ (loseFirst s v known) :=
  h₀.step (loseFirst_only s v known) hm

theorem retireSliceNow_only (s : State) (n : Nat) : Only [.regs, .sense, .bkg] s (retireSliceNow s n) := by
  unfold retireSliceNow
  try dsimp only
  repeat' (first | (with_reducible exact Only.refl _ _) | (with_reducible apply Only.ite) | (with_reducible apply Only.ite_fst) | (with_reducible apply State.raise_step (hm := by decide)) | (with_reducible apply queueRetire_step (hm := by decide)) | (with_reducible apply State.set_step (hm := by decide)) | (with_reducible apply loseFirst_step (hm := by decide)) | (with_reducible apply State.sliceUp_step (hm := by decide)) | (with_reducible apply showSpares_step (hm := by decide)) | (with_reducible apply Only.foldl (hg := fun _ _ => ?_)) | (with_reducible apply Only.foldl_fst (hg := fun _ _ => ?_)) | split | dsimp only)
theorem retireSliceNow_step {l₀ : List Part} {s₀ : State} (s : State) (n : Nat) (h₀ : Only l₀ s₀ s) (hm : [.regs, .sense, .bkg] ⊆ l₀) : Only l₀ s₀ (retireSliceNow s n) :=
  h₀.step (retireSliceNow_only s n) hm

theorem reportCompare_only (s : State) (c : Nat) : Only [.regs, .gates, .loops] s (reportCompare s c) := by
  unfold reportCompare
  try dsimp only
  repeat' (first | (with_reducible exact Only.refl _ _) | (with_reducible apply Only.ite) | (with_reducible apply Only.ite_fst) | (with_reducible apply gatePush_step (hm := by decide)) | (with_reducible apply Only.foldl (hg := fun _ _ => ?_)) | (with_reducible apply Only.foldl_fst (hg := fun _ _ => ?_)) | split | dsimp only | (with_reducible apply only_with_loops_step (hm := by decide)))
theorem reportCompare_step {l₀ : List Part} {s₀ : State} (s : State) (c : Nat) (h₀ : Only l₀ s₀ s) (hm : [.regs, .gates, .loops] ⊆ l₀) : Only l₀ s₀ (reportCompare s c) :=
  h₀.step (reportCompare_only s c) hm

theorem compare_only (s : State) (i : Nat) (y : Int) : Only [.regs, .conds, .gates, .sense, .loops] s (compare s i y) := by
  unfold compare
  try dsimp only
  repeat' (first | (with_reducible exact Only.refl _ _) | (with_reducible apply Only.ite) | (with_reducible apply Only.ite_fst) | (with_reducible apply State.inputUp_step (hm := by decide)) | (with_reducible apply reportCompare_step (hm := by decide)) | (with_reducible apply State.cond_step (hm := by decide)) | (with_reducible apply Only.foldl (hg := fun _ _ => ?_)) | (with_reducible apply Only.foldl_fst (hg := fun _ _ => ?_)) | split | dsimp only)
theorem compare_step {l₀ : List Part} {s₀ : State} (s : State) (i : Nat) (y : Int) (h₀ : Only l₀ s₀ s) (hm : [.regs, .conds, .gates, .sense, .loops] ⊆ l₀) : Only l₀ s₀ (compare s i y) :=
  h₀.step (compare_only s i y) hm

theorem comparatorsAtUpdate_only (s : State) : Only [.regs, .conds, .gates, .sense, .loops] s (comparatorsAtUpdate s) := by
  unfold comparatorsAtUpdate
  try dsimp only
  repeat' (first | (with_reducible exact Only.refl _ _) | (with_reducible apply Only.ite) | (with_reducible apply Only.ite_fst) | (with_reducible apply reportCompare_step (hm := by decide)) | (with_reducible apply State.cond_step (hm := by decide)) | (with_reducible apply State.inputUp_step (hm := by decide)) | (with_reducible apply Only.foldl (hg := fun _ _ => ?_)) | (with_reducible apply Only.foldl_fst (hg := fun _ _ => ?_)) | split | dsimp only)
theorem comparatorsAtUpdate_step {l₀ : List Part} {s₀ : State} (s : State) (h₀ : Only l₀ s₀ s) (hm : [.regs, .conds, .gates, .sense, .loops] ⊆ l₀) : Only l₀ s₀ (comparatorsAtUpdate s) :=
  h₀.step (comparatorsAtUpdate_only s) hm

theorem startConversion_only (s : State) (n i pos : Nat) (first spare : Bool) : Only [.regs, .sense] s (startConversion s n i pos first spare) := by
  unfold startConversion
  try dsimp only
  repeat' (first | (with_reducible exact Only.refl _ _) | (with_reducible apply Only.ite) | (with_reducible apply Only.ite_fst) | (with_reducible apply State.raise_step (hm := by decide)) | (with_reducible apply loseFirst_step (hm := by decide)) | (with_reducible apply State.sliceUp_step (hm := by decide)) | (with_reducible apply Only.foldl (hg := fun _ _ => ?_)) | (with_reducible apply Only.foldl_fst (hg := fun _ _ => ?_)) | split | dsimp only)
theorem startConversion_step {l₀ : List Part} {s₀ : State} (s : State) (n i pos : Nat) (first spare : Bool) (h₀ : Only l₀ s₀ s) (hm : [.regs, .sense] ⊆ l₀) : Only l₀ s₀ (startConversion s n i pos first spare) :=
  h₀.step (startConversion_only s n i pos first spare) hm

theorem triggerIgnored_only (s : State) (i pos : Nat) : Only [.sense] s (triggerIgnored s i pos) := by
  unfold triggerIgnored
  try dsimp only
  repeat' (first | (with_reducible exact Only.refl _ _) | (with_reducible apply Only.ite) | (with_reducible apply Only.ite_fst) | (with_reducible apply State.inputUp_step (hm := by decide)) | (with_reducible apply Only.foldl (hg := fun _ _ => ?_)) | (with_reducible apply Only.foldl_fst (hg := fun _ _ => ?_)) | split | dsimp only)
theorem triggerIgnored_step {l₀ : List Part} {s₀ : State} (s : State) (i pos : Nat) (h₀ : Only l₀ s₀ s) (hm : [.sense] ⊆ l₀) : Only l₀ s₀ (triggerIgnored s i pos) :=
  h₀.step (triggerIgnored_only s i pos) hm

theorem triggerSpare_only (s : State) (i pos : Nat) (first : Bool) : Only [.regs, .sense] s (triggerSpare s i pos first) := by
  unfold triggerSpare
  try dsimp only
  repeat' (first | (with_reducible exact Only.refl _ _) | (with_reducible apply Only.ite) | (with_reducible apply Only.ite_fst) | (with_reducible apply startConversion_step (hm := by decide)) | (with_reducible apply State.snsUp_step (hm := by decide)) | (with_reducible apply Only.foldl (hg := fun _ _ => ?_)) | (with_reducible apply Only.foldl_fst (hg := fun _ _ => ?_)) | split | dsimp only)
theorem triggerSpare_step {l₀ : List Part} {s₀ : State} (s : State) (i pos : Nat) (first : Bool) (h₀ : Only l₀ s₀ s) (hm : [.regs, .sense] ⊆ l₀) : Only l₀ s₀ (triggerSpare s i pos first) :=
  h₀.step (triggerSpare_only s i pos first) hm

theorem triggerInput_only (s : State) (i pos : Nat) : Only [.regs, .gates, .sense] s (triggerInput s i pos) := by
  unfold triggerInput
  try dsimp only
  repeat' (first | (with_reducible exact Only.refl _ _) | (with_reducible apply Only.ite) | (with_reducible apply Only.ite_fst) | (with_reducible apply State.inputUp_step (hm := by decide)) | (with_reducible apply triggerIgnored_step (hm := by decide)) | (with_reducible apply State.raise_step (hm := by decide)) | (with_reducible apply triggerSpare_step (hm := by decide)) | (with_reducible apply gatePush_step (hm := by decide)) | (with_reducible apply startConversion_step (hm := by decide)) | (with_reducible apply Only.foldl (hg := fun _ _ => ?_)) | (with_reducible apply Only.foldl_fst (hg := fun _ _ => ?_)) | split | dsimp only)
theorem triggerInput_step {l₀ : List Part} {s₀ : State} (s : State) (i pos : Nat) (h₀ : Only l₀ s₀ s) (hm : [.regs, .gates, .sense] ⊆ l₀) : Only l₀ s₀ (triggerInput s i pos) :=
  h₀.step (triggerInput_only s i pos) hm

theorem converterTrigger_only (s : State) (l : Nat) (b : Bool) : Only [.regs, .gates, .sense] s (converterTrigger s l b) := by
  unfold converterTrigger
  try dsimp only
  repeat' (first | (with_reducible exact Only.refl _ _) | (with_reducible apply Only.ite) | (with_reducible apply Only.ite_fst) | (with_reducible apply triggerInput_step (hm := by decide)) | (with_reducible apply Only.foldl (hg := fun _ _ => ?_)) | (with_reducible apply Only.foldl_fst (hg := fun _ _ => ?_)) | split | dsimp only)
theorem converterTrigger_step {l₀ : List Part} {s₀ : State} (s : State) (l : Nat) (b : Bool) (h₀ : Only l₀ s₀ s) (hm : [.regs, .gates, .sense] ⊆ l₀) : Only l₀ s₀ (converterTrigger s l b) :=
  h₀.step (converterTrigger_only s l b) hm

theorem overlapResult_only (s : State) (spare : Bool) (trig : Nat) (y : Int) : Only [.sense] s (overlapResult s spare trig y) := by
  unfold overlapResult
  try dsimp only
  repeat' (first | (with_reducible exact Only.refl _ _) | (with_reducible apply Only.ite) | (with_reducible apply Only.ite_fst) | (with_reducible apply State.snsUp_step (hm := by decide)) | (with_reducible apply Only.foldl (hg := fun _ _ => ?_)) | (with_reducible apply Only.foldl_fst (hg := fun _ _ => ?_)) | split | dsimp only)
theorem overlapResult_step {l₀ : List Part} {s₀ : State} (s : State) (spare : Bool) (trig : Nat) (y : Int) (h₀ : Only l₀ s₀ s) (hm : [.sense] ⊆ l₀) : Only l₀ s₀ (overlapResult s spare trig y) :=
  h₀.step (overlapResult_only s spare trig y) hm

theorem deliverResult_only (s : State) (n : Nat) (v : Conv) (raw : Word16) (retry : Bool) : Only [.regs, .conds, .gates, .sense, .loops] s (deliverResult s n v raw retry) := by
  unfold deliverResult
  try dsimp only
  repeat' (first | (with_reducible exact Only.refl _ _) | (with_reducible apply Only.ite) | (with_reducible apply Only.ite_fst) | (with_reducible apply State.inputUp_step (hm := by decide)) | (with_reducible apply State.set_step (hm := by decide)) | (with_reducible apply compare_step (hm := by decide)) | (with_reducible apply State.sliceUp_step (hm := by decide)) | (with_reducible apply overlapResult_step (hm := by decide)) | (with_reducible apply Only.foldl (hg := fun _ _ => ?_)) | (with_reducible apply Only.foldl_fst (hg := fun _ _ => ?_)) | split | dsimp only)
theorem deliverResult_step {l₀ : List Part} {s₀ : State} (s : State) (n : Nat) (v : Conv) (raw : Word16) (retry : Bool) (h₀ : Only l₀ s₀ s) (hm : [.regs, .conds, .gates, .sense, .loops] ⊆ l₀) : Only l₀ s₀ (deliverResult s n v raw retry) :=
  h₀.step (deliverResult_only s n v raw retry) hm

theorem conversionEnd_only (s : State) (n : Nat) (raw : Word16) (err : Bool) : Only [.regs, .conds, .gates, .sense, .loops] s (conversionEnd s n raw err) := by
  unfold conversionEnd
  try dsimp only
  repeat' (first | (with_reducible exact Only.refl _ _) | (with_reducible apply Only.ite) | (with_reducible apply Only.ite_fst) | (with_reducible apply State.raise_step (hm := by decide)) | (with_reducible apply deliverResult_step (hm := by decide)) | (with_reducible apply State.sliceUp_step (hm := by decide)) | (with_reducible apply Only.foldl (hg := fun _ _ => ?_)) | (with_reducible apply Only.foldl_fst (hg := fun _ _ => ?_)) | split | dsimp only)
theorem conversionEnd_step {l₀ : List Part} {s₀ : State} (s : State) (n : Nat) (raw : Word16) (err : Bool) (h₀ : Only l₀ s₀ s) (hm : [.regs, .conds, .gates, .sense, .loops] ⊆ l₀) : Only l₀ s₀ (conversionEnd s n raw err) :=
  h₀.step (conversionEnd_only s n raw err) hm

theorem sliceLoss_only (s : State) (n : Nat) : Only [.regs, .sense, .bkg] s (sliceLoss s n) := by
  unfold sliceLoss
  try dsimp only
  repeat' (first | (with_reducible exact Only.refl _ _) | (with_reducible apply Only.ite) | (with_reducible apply Only.ite_fst) | (with_reducible apply State.snsUp_step (hm := by decide)) | (with_reducible apply State.sliceUp_step (hm := by decide)) | (with_reducible apply retireSliceNow_step (hm := by decide)) | (with_reducible apply Only.foldl (hg := fun _ _ => ?_)) | (with_reducible apply Only.foldl_fst (hg := fun _ _ => ?_)) | split | dsimp only)
theorem sliceLoss_step {l₀ : List Part} {s₀ : State} (s : State) (n : Nat) (h₀ : Only l₀ s₀ s) (hm : [.regs, .sense, .bkg] ⊆ l₀) : Only l₀ s₀ (sliceLoss s n) :=
  h₀.step (sliceLoss_only s n) hm

theorem retryEnd_only (s : State) (n : Nat) (raw : Word16) (err : Bool) : Only [.regs, .conds, .gates, .sense, .loops, .bkg] s (retryEnd s n raw err) := by
  unfold retryEnd
  try dsimp only
  repeat' (first | (with_reducible exact Only.refl _ _) | (with_reducible apply Only.ite) | (with_reducible apply Only.ite_fst) | (with_reducible apply sliceLoss_step (hm := by decide)) | (with_reducible apply State.raise_step (hm := by decide)) | (with_reducible apply deliverResult_step (hm := by decide)) | (with_reducible apply loseFirst_step (hm := by decide)) | (with_reducible apply State.sliceUp_step (hm := by decide)) | (with_reducible apply Only.foldl (hg := fun _ _ => ?_)) | (with_reducible apply Only.foldl_fst (hg := fun _ _ => ?_)) | split | dsimp only)
theorem retryEnd_step {l₀ : List Part} {s₀ : State} (s : State) (n : Nat) (raw : Word16) (err : Bool) (h₀ : Only l₀ s₀ s) (hm : [.regs, .conds, .gates, .sense, .loops, .bkg] ⊆ l₀) : Only l₀ s₀ (retryEnd s n raw err) :=
  h₀.step (retryEnd_only s n raw err) hm

theorem inputAtUpdate_only (s : State) (i : Nat) : Only [.regs, .sense] s (inputAtUpdate s i) := by
  unfold inputAtUpdate
  try dsimp only
  repeat' (first | (with_reducible exact Only.refl _ _) | (with_reducible apply Only.ite) | (with_reducible apply Only.ite_fst) | (with_reducible apply State.inputUp_step (hm := by decide)) | (with_reducible apply State.raise_step (hm := by decide)) | (with_reducible apply State.set_step (hm := by decide)) | (with_reducible apply Only.foldl (hg := fun _ _ => ?_)) | (with_reducible apply Only.foldl_fst (hg := fun _ _ => ?_)) | split | dsimp only)
theorem inputAtUpdate_step {l₀ : List Part} {s₀ : State} (s : State) (i : Nat) (h₀ : Only l₀ s₀ s) (hm : [.regs, .sense] ⊆ l₀) : Only l₀ s₀ (inputAtUpdate s i) :=
  h₀.step (inputAtUpdate_only s i) hm

theorem inputsAtUpdate_only (s : State) : Only [.regs, .sense] s (inputsAtUpdate s) := by
  unfold inputsAtUpdate
  try dsimp only
  repeat' (first | (with_reducible exact Only.refl _ _) | (with_reducible apply Only.ite) | (with_reducible apply Only.ite_fst) | (with_reducible apply inputAtUpdate_step (hm := by decide)) | (with_reducible apply Only.foldl (hg := fun _ _ => ?_)) | (with_reducible apply Only.foldl_fst (hg := fun _ _ => ?_)) | split | dsimp only)
theorem inputsAtUpdate_step {l₀ : List Part} {s₀ : State} (s : State) (h₀ : Only l₀ s₀ s) (hm : [.regs, .sense] ⊆ l₀) : Only l₀ s₀ (inputsAtUpdate s) :=
  h₀.step (inputsAtUpdate_only s) hm

theorem decimate_only (s : State) : Only [.regs, .gates, .sense] s (decimate s) := by
  unfold decimate
  try dsimp only
  repeat' (first | (with_reducible exact Only.refl _ _) | (with_reducible apply Only.ite) | (with_reducible apply Only.ite_fst) | (with_reducible apply State.snsUp_step (hm := by decide)) | (with_reducible apply gatePush_step (hm := by decide)) | (with_reducible apply Only.foldl (hg := fun _ _ => ?_)) | (with_reducible apply Only.foldl_fst (hg := fun _ _ => ?_)) | split | dsimp only)
theorem decimate_step {l₀ : List Part} {s₀ : State} (s : State) (h₀ : Only l₀ s₀ s) (hm : [.regs, .gates, .sense] ⊆ l₀) : Only l₀ s₀ (decimate s) :=
  h₀.step (decimate_only s) hm

theorem latchCal_only (s : State) (n : Nat) (o : CalOutcome) : Only [.regs, .sense] s (latchCal s n o) := by
  unfold latchCal
  try dsimp only
  repeat' (first | (with_reducible exact Only.refl _ _) | (with_reducible apply Only.ite) | (with_reducible apply Only.ite_fst) | (with_reducible apply State.set_step (hm := by decide)) | (with_reducible apply State.sliceUp_step (hm := by decide)) | (with_reducible apply State.setB_step (hm := by decide)) | (with_reducible apply Only.foldl (hg := fun _ _ => ?_)) | (with_reducible apply Only.foldl_fst (hg := fun _ _ => ?_)) | split | dsimp only)
theorem latchCal_step {l₀ : List Part} {s₀ : State} (s : State) (n : Nat) (o : CalOutcome) (h₀ : Only l₀ s₀ s) (hm : [.regs, .sense] ⊆ l₀) : Only l₀ s₀ (latchCal s n o) :=
  h₀.step (latchCal_only s n o) hm

theorem inputWithoutSlice_only (s : State) (i : Nat) : Only [.regs, .gates] s (inputWithoutSlice s i) := by
  unfold inputWithoutSlice
  try dsimp only
  repeat' (first | (with_reducible exact Only.refl _ _) | (with_reducible apply Only.ite) | (with_reducible apply Only.ite_fst) | (with_reducible apply State.raise_step (hm := by decide)) | (with_reducible apply State.set_step (hm := by decide)) | (with_reducible apply gatePush_step (hm := by decide)) | (with_reducible apply Only.foldl (hg := fun _ _ => ?_)) | (with_reducible apply Only.foldl_fst (hg := fun _ _ => ?_)) | split | dsimp only)
theorem inputWithoutSlice_step {l₀ : List Part} {s₀ : State} (s : State) (i : Nat) (h₀ : Only l₀ s₀ s) (hm : [.regs, .gates] ⊆ l₀) : Only l₀ s₀ (inputWithoutSlice s i) :=
  h₀.step (inputWithoutSlice_only s i) hm

theorem startupCal_only (s : State) (outcomes : List CalOutcome) : Only [.regs, .gates, .sys, .sense, .bkg] s (startupCal s outcomes) := by
  unfold startupCal
  try dsimp only
  repeat' (first | (with_reducible exact Only.refl _ _) | (with_reducible apply Only.ite) | (with_reducible apply Only.ite_fst) | (with_reducible apply latchCal_step (hm := by decide)) | (with_reducible apply State.set_step (hm := by decide)) | (with_reducible apply inputWithoutSlice_step (hm := by decide)) | (with_reducible apply retireSliceNow_step (hm := by decide)) | (with_reducible apply showSpares_step (hm := by decide)) | (with_reducible apply Only.foldl (hg := fun _ _ => ?_)) | (with_reducible apply Only.foldl_fst (hg := fun _ _ => ?_)) | split | dsimp only | (with_reducible apply only_with_sys_step (hm := by decide)))
theorem startupCal_step {l₀ : List Part} {s₀ : State} (s : State) (outcomes : List CalOutcome) (h₀ : Only l₀ s₀ s) (hm : [.regs, .gates, .sys, .sense, .bkg] ⊆ l₀) : Only l₀ s₀ (startupCal s outcomes) :=
  h₀.step (startupCal_only s outcomes) hm

theorem rotationStart_only (s : State) : Only [.sense, .bkg] s (rotationStart s) := by
  unfold rotationStart
  try dsimp only
  repeat' (first | (with_reducible exact Only.refl _ _) | (with_reducible apply Only.ite) | (with_reducible apply Only.ite_fst) | (with_reducible apply State.snsUp_step (hm := by decide)) | (with_reducible apply Only.foldl (hg := fun _ _ => ?_)) | (with_reducible apply Only.foldl_fst (hg := fun _ _ => ?_)) | split | dsimp only | (with_reducible apply only_with_bkg_step (hm := by decide)))
theorem rotationStart_step {l₀ : List Part} {s₀ : State} (s : State) (h₀ : Only l₀ s₀ s) (hm : [.sense, .bkg] ⊆ l₀) : Only l₀ s₀ (rotationStart s) :=
  h₀.step (rotationStart_only s) hm

theorem rotationOverlapEnd_only (s : State) : Only [.sense] s (rotationOverlapEnd s) := by
  unfold rotationOverlapEnd
  try dsimp only
  repeat' (first | (with_reducible exact Only.refl _ _) | (with_reducible apply Only.ite) | (with_reducible apply Only.ite_fst) | (with_reducible apply State.snsUp_step (hm := by decide)) | (with_reducible apply Only.foldl (hg := fun _ _ => ?_)) | (with_reducible apply Only.foldl_fst (hg := fun _ _ => ?_)) | split | dsimp only)
theorem rotationOverlapEnd_step {l₀ : List Part} {s₀ : State} (s : State) (h₀ : Only l₀ s₀ s) (hm : [.sense] ⊆ l₀) : Only l₀ s₀ (rotationOverlapEnd s) :=
  h₀.step (rotationOverlapEnd_only s) hm

theorem rotationAtUpdate_only (s : State) : Only [.regs, .sense] s (rotationAtUpdate s) := by
  unfold rotationAtUpdate
  try dsimp only
  repeat' (first | (with_reducible exact Only.refl _ _) | (with_reducible apply Only.ite) | (with_reducible apply Only.ite_fst) | (with_reducible apply State.raiseIf_step (hm := by decide)) | (with_reducible apply State.raise_step (hm := by decide)) | (with_reducible apply State.snsUp_step (hm := by decide)) | (with_reducible apply State.set_step (hm := by decide)) | (with_reducible apply showSpares_step (hm := by decide)) | (with_reducible apply State.sliceUp_step (hm := by decide)) | (with_reducible apply Only.foldl (hg := fun _ _ => ?_)) | (with_reducible apply Only.foldl_fst (hg := fun _ _ => ?_)) | split | dsimp only)
theorem rotationAtUpdate_step {l₀ : List Part} {s₀ : State} (s : State) (h₀ : Only l₀ s₀ s) (hm : [.regs, .sense] ⊆ l₀) : Only l₀ s₀ (rotationAtUpdate s) :=
  h₀.step (rotationAtUpdate_only s) hm

theorem sliceCalDone_only (s : State) (o : CalOutcome) : Only [.regs, .sense, .bkg] s (sliceCalDone s o) := by
  unfold sliceCalDone
  try dsimp only
  repeat' (first | (with_reducible exact Only.refl _ _) | (with_reducible apply Only.ite) | (with_reducible apply Only.ite_fst) | (with_reducible apply latchCal_step (hm := by decide)) | (with_reducible apply State.snsUp_step (hm := by decide)) | (with_reducible apply State.set_step (hm := by decide)) | (with_reducible apply State.sliceUp_step (hm := by decide)) | (with_reducible apply retireSliceNow_step (hm := by decide)) | (with_reducible apply showSpares_step (hm := by decide)) | (with_reducible apply Only.foldl (hg := fun _ _ => ?_)) | (with_reducible apply Only.foldl_fst (hg := fun _ _ => ?_)) | split | dsimp only)
theorem sliceCalDone_step {l₀ : List Part} {s₀ : State} (s : State) (o : CalOutcome) (h₀ : Only l₀ s₀ s) (hm : [.regs, .sense, .bkg] ⊆ l₀) : Only l₀ s₀ (sliceCalDone s o) :=
  h₀.step (sliceCalDone_only s o) hm

theorem replaceSlice_only (s : State) (n : Nat) : Only [.regs, .gates, .sense, .bkg] s (replaceSlice s n) := by
  unfold replaceSlice
  try dsimp only
  repeat' (first | (with_reducible exact Only.refl _ _) | (with_reducible apply Only.ite) | (with_reducible apply Only.ite_fst) | (with_reducible apply State.snsUp_step (hm := by decide)) | (with_reducible apply State.set_step (hm := by decide)) | (with_reducible apply inputWithoutSlice_step (hm := by decide)) | (with_reducible apply State.sliceUp_step (hm := by decide)) | (with_reducible apply retireSliceNow_step (hm := by decide)) | (with_reducible apply Only.foldl (hg := fun _ _ => ?_)) | (with_reducible apply Only.foldl_fst (hg := fun _ _ => ?_)) | split | dsimp only)
theorem replaceSlice_step {l₀ : List Part} {s₀ : State} (s : State) (n : Nat) (h₀ : Only l₀ s₀ s) (hm : [.regs, .gates, .sense, .bkg] ⊆ l₀) : Only l₀ s₀ (replaceSlice s n) :=
  h₀.step (replaceSlice_only s n) hm

theorem replacementsAtUpdate_only (s : State) : Only [.regs, .gates, .sense, .bkg] s (replacementsAtUpdate s) := by
  unfold replacementsAtUpdate
  try dsimp only
  repeat' (first | (with_reducible exact Only.refl _ _) | (with_reducible apply Only.ite) | (with_reducible apply Only.ite_fst) | (with_reducible apply replaceSlice_step (hm := by decide)) | (with_reducible apply Only.foldl (hg := fun _ _ => ?_)) | (with_reducible apply Only.foldl_fst (hg := fun _ _ => ?_)) | split | dsimp only)
theorem replacementsAtUpdate_step {l₀ : List Part} {s₀ : State} (s : State) (h₀ : Only l₀ s₀ s) (hm : [.regs, .gates, .sense, .bkg] ⊆ l₀) : Only l₀ s₀ (replacementsAtUpdate s) :=
  h₀.step (replacementsAtUpdate_only s) hm

theorem railConversion_only (s : State) (n : Nat) (code : Nat) : Only [.regs, .conds, .gates, .sense, .loops] s (railConversion s n code) := by
  unfold railConversion
  try dsimp only
  repeat' (first | (with_reducible exact Only.refl _ _) | (with_reducible apply Only.ite) | (with_reducible apply Only.ite_fst) | (with_reducible apply State.snsUp_step (hm := by decide)) | (with_reducible apply State.wr_step (hm := by decide)) | (with_reducible apply State.set_step (hm := by decide)) | (with_reducible apply reportCompare_step (hm := by decide)) | (with_reducible apply State.cond_step (hm := by decide)) | (with_reducible apply Only.foldl (hg := fun _ _ => ?_)) | (with_reducible apply Only.foldl_fst (hg := fun _ _ => ?_)) | split | dsimp only)
theorem railConversion_step {l₀ : List Part} {s₀ : State} (s : State) (n : Nat) (code : Nat) (h₀ : Only l₀ s₀ s) (hm : [.regs, .conds, .gates, .sense, .loops] ⊆ l₀) : Only l₀ s₀ (railConversion s n code) :=
  h₀.step (railConversion_only s n code) hm

theorem calRead_only (s : State) : Only [.rdata, .sense] s (calRead s) := by
  unfold calRead
  try dsimp only
  repeat' (first | (with_reducible exact Only.refl _ _) | (with_reducible apply Only.ite) | (with_reducible apply Only.ite_fst) | (with_reducible apply State.snsUp_step (hm := by decide)) | (with_reducible apply State.answer_step (hm := by decide)) | (with_reducible apply Only.foldl (hg := fun _ _ => ?_)) | (with_reducible apply Only.foldl_fst (hg := fun _ _ => ?_)) | split | dsimp only)
theorem calRead_step {l₀ : List Part} {s₀ : State} (s : State) (h₀ : Only l₀ s₀ s) (hm : [.rdata, .sense] ⊆ l₀) : Only l₀ s₀ (calRead s) :=
  h₀.step (calRead_only s) hm

/-! ### The canonical form -/

theorem State.snsUp_wf (s : State) (f : Sense → Sense) (h₀ : Memory.wf s = true) : Memory.wf (State.snsUp s f) = true :=
  Only.wf (State.snsUp_only s f) (by decide) h₀

theorem State.sliceUp_wf (s : State) (n : Nat) (f : SliceSt → SliceSt) (h₀ : Memory.wf s = true) : Memory.wf (State.sliceUp s n f) = true :=
  Only.wf (State.sliceUp_only s n f) (by decide) h₀

theorem State.inputUp_wf (s : State) (i : Nat) (f : SnsInput → SnsInput) (h₀ : Memory.wf s = true) : Memory.wf (State.inputUp s i f) = true :=
  Only.wf (State.inputUp_only s i f) (by decide) h₀

theorem showSpares_wf (s : State) (h₀ : Memory.wf s = true) : Memory.wf (showSpares s) = true := by
  unfold showSpares
  try dsimp only
  repeat' (first | (with_reducible assumption) | (with_reducible apply wf_ite) | (with_reducible apply wf_ite_fst) | (with_reducible apply State.set_wf) | (with_reducible apply wf_foldl (hg := fun _ _ _ => ?_)) | (with_reducible apply wf_foldl_fst (hg := fun _ _ _ => ?_)) | split | dsimp only)

theorem loseFirst_wf (s : State) (v : Conv) (known : Nat) (h₀ : Memory.wf s = true) : Memory.wf (loseFirst s v known) = true := by
  unfold loseFirst
  try dsimp only
  repeat' (first | (with_reducible assumption) | (with_reducible apply wf_ite) | (with_reducible apply wf_ite_fst) | (with_reducible apply State.raise_wf) | (with_reducible apply State.inputUp_wf) | (with_reducible apply wf_foldl (hg := fun _ _ _ => ?_)) | (with_reducible apply wf_foldl_fst (hg := fun _ _ _ => ?_)) | split | dsimp only)

theorem retireSliceNow_wf (s : State) (n : Nat) (h₀ : Memory.wf s = true) : Memory.wf (retireSliceNow s n) = true := by
  unfold retireSliceNow
  try dsimp only
  repeat' (first | (with_reducible assumption) | (with_reducible apply wf_ite) | (with_reducible apply wf_ite_fst) | (with_reducible apply showSpares_wf) | (with_reducible apply loseFirst_wf) | (with_reducible apply queueRetire_wf) | (with_reducible apply State.set_wf) | (with_reducible apply State.raise_wf) | (with_reducible apply State.sliceUp_wf) | (with_reducible apply wf_foldl (hg := fun _ _ _ => ?_)) | (with_reducible apply wf_foldl_fst (hg := fun _ _ _ => ?_)) | split | dsimp only)

theorem reportCompare_wf (s : State) (c : Nat) (h₀ : Memory.wf s = true) : Memory.wf (reportCompare s c) = true := by
  unfold reportCompare
  try dsimp only
  repeat' (first | (with_reducible assumption) | (with_reducible apply wf_ite) | (with_reducible apply wf_ite_fst) | (with_reducible apply gatePush_wf) | (with_reducible apply wf_foldl (hg := fun _ _ _ => ?_)) | (with_reducible apply wf_foldl_fst (hg := fun _ _ _ => ?_)) | split | dsimp only | (with_reducible apply wf_with_loops))

theorem compare_wf (s : State) (i : Nat) (y : Int) (h₀ : Memory.wf s = true) : Memory.wf (compare s i y) = true := by
  unfold compare
  try dsimp only
  repeat' (first | (with_reducible assumption) | (with_reducible apply wf_ite) | (with_reducible apply wf_ite_fst) | (with_reducible apply reportCompare_wf) | (with_reducible apply State.inputUp_wf) | (with_reducible apply State.cond_wf) | (with_reducible apply wf_foldl (hg := fun _ _ _ => ?_)) | (with_reducible apply wf_foldl_fst (hg := fun _ _ _ => ?_)) | split | dsimp only)

theorem comparatorsAtUpdate_wf (s : State) (h₀ : Memory.wf s = true) : Memory.wf (comparatorsAtUpdate s) = true := by
  unfold comparatorsAtUpdate
  try dsimp only
  repeat' (first | (with_reducible assumption) | (with_reducible apply wf_ite) | (with_reducible apply wf_ite_fst) | (with_reducible apply State.cond_wf) | (with_reducible apply reportCompare_wf) | (with_reducible apply State.inputUp_wf) | (with_reducible apply wf_foldl (hg := fun _ _ _ => ?_)) | (with_reducible apply wf_foldl_fst (hg := fun _ _ _ => ?_)) | split | dsimp only)

theorem startConversion_wf (s : State) (n i pos : Nat) (first spare : Bool) (h₀ : Memory.wf s = true) : Memory.wf (startConversion s n i pos first spare) = true := by
  unfold startConversion
  try dsimp only
  repeat' (first | (with_reducible assumption) | (with_reducible apply wf_ite) | (with_reducible apply wf_ite_fst) | (with_reducible apply loseFirst_wf) | (with_reducible apply State.raise_wf) | (with_reducible apply State.sliceUp_wf) | (with_reducible apply wf_foldl (hg := fun _ _ _ => ?_)) | (with_reducible apply wf_foldl_fst (hg := fun _ _ _ => ?_)) | split | dsimp only)

theorem triggerIgnored_wf (s : State) (i pos : Nat) (h₀ : Memory.wf s = true) : Memory.wf (triggerIgnored s i pos) = true :=
  Only.wf (triggerIgnored_only s i pos) (by decide) h₀

theorem triggerSpare_wf (s : State) (i pos : Nat) (first : Bool) (h₀ : Memory.wf s = true) : Memory.wf (triggerSpare s i pos first) = true := by
  unfold triggerSpare
  try dsimp only
  repeat' (first | (with_reducible assumption) | (with_reducible apply wf_ite) | (with_reducible apply wf_ite_fst) | (with_reducible apply startConversion_wf) | (with_reducible apply State.snsUp_wf) | (with_reducible apply wf_foldl (hg := fun _ _ _ => ?_)) | (with_reducible apply wf_foldl_fst (hg := fun _ _ _ => ?_)) | split | dsimp only)

theorem triggerInput_wf (s : State) (i pos : Nat) (h₀ : Memory.wf s = true) : Memory.wf (triggerInput s i pos) = true := by
  unfold triggerInput
  try dsimp only
  repeat' (first | (with_reducible assumption) | (with_reducible apply wf_ite) | (with_reducible apply wf_ite_fst) | (with_reducible apply triggerIgnored_wf) | (with_reducible apply State.inputUp_wf) | (with_reducible apply gatePush_wf) | (with_reducible apply startConversion_wf) | (with_reducible apply State.raise_wf) | (with_reducible apply triggerSpare_wf) | (with_reducible apply wf_foldl (hg := fun _ _ _ => ?_)) | (with_reducible apply wf_foldl_fst (hg := fun _ _ _ => ?_)) | split | dsimp only)

theorem converterTrigger_wf (s : State) (l : Nat) (b : Bool) (h₀ : Memory.wf s = true) : Memory.wf (converterTrigger s l b) = true := by
  unfold converterTrigger
  try dsimp only
  repeat' (first | (with_reducible assumption) | (with_reducible apply wf_ite) | (with_reducible apply wf_ite_fst) | (with_reducible apply triggerInput_wf) | (with_reducible apply wf_foldl (hg := fun _ _ _ => ?_)) | (with_reducible apply wf_foldl_fst (hg := fun _ _ _ => ?_)) | split | dsimp only)

theorem overlapResult_wf (s : State) (spare : Bool) (trig : Nat) (y : Int) (h₀ : Memory.wf s = true) : Memory.wf (overlapResult s spare trig y) = true :=
  Only.wf (overlapResult_only s spare trig y) (by decide) h₀

theorem deliverResult_wf (s : State) (n : Nat) (v : Conv) (raw : Word16) (retry : Bool) (h₀ : Memory.wf s = true) : Memory.wf (deliverResult s n v raw retry) = true := by
  unfold deliverResult
  try dsimp only
  repeat' (first | (with_reducible assumption) | (with_reducible apply wf_ite) | (with_reducible apply wf_ite_fst) | (with_reducible apply overlapResult_wf) | (with_reducible apply State.inputUp_wf) | (with_reducible apply State.set_wf) | (with_reducible apply compare_wf) | (with_reducible apply State.sliceUp_wf) | (with_reducible apply wf_foldl (hg := fun _ _ _ => ?_)) | (with_reducible apply wf_foldl_fst (hg := fun _ _ _ => ?_)) | split | dsimp only)

theorem conversionEnd_wf (s : State) (n : Nat) (raw : Word16) (err : Bool) (h₀ : Memory.wf s = true) : Memory.wf (conversionEnd s n raw err) = true := by
  unfold conversionEnd
  try dsimp only
  repeat' (first | (with_reducible assumption) | (with_reducible apply wf_ite) | (with_reducible apply wf_ite_fst) | (with_reducible apply deliverResult_wf) | (with_reducible apply State.raise_wf) | (with_reducible apply State.sliceUp_wf) | (with_reducible apply wf_foldl (hg := fun _ _ _ => ?_)) | (with_reducible apply wf_foldl_fst (hg := fun _ _ _ => ?_)) | split | dsimp only)

theorem sliceLoss_wf (s : State) (n : Nat) (h₀ : Memory.wf s = true) : Memory.wf (sliceLoss s n) = true := by
  unfold sliceLoss
  try dsimp only
  repeat' (first | (with_reducible assumption) | (with_reducible apply wf_ite) | (with_reducible apply wf_ite_fst) | (with_reducible apply retireSliceNow_wf) | (with_reducible apply State.snsUp_wf) | (with_reducible apply State.sliceUp_wf) | (with_reducible apply wf_foldl (hg := fun _ _ _ => ?_)) | (with_reducible apply wf_foldl_fst (hg := fun _ _ _ => ?_)) | split | dsimp only)

theorem retryEnd_wf (s : State) (n : Nat) (raw : Word16) (err : Bool) (h₀ : Memory.wf s = true) : Memory.wf (retryEnd s n raw err) = true := by
  unfold retryEnd
  try dsimp only
  repeat' (first | (with_reducible assumption) | (with_reducible apply wf_ite) | (with_reducible apply wf_ite_fst) | (with_reducible apply sliceLoss_wf) | (with_reducible apply loseFirst_wf) | (with_reducible apply deliverResult_wf) | (with_reducible apply State.raise_wf) | (with_reducible apply State.sliceUp_wf) | (with_reducible apply wf_foldl (hg := fun _ _ _ => ?_)) | (with_reducible apply wf_foldl_fst (hg := fun _ _ _ => ?_)) | split | dsimp only)

theorem inputAtUpdate_wf (s : State) (i : Nat) (h₀ : Memory.wf s = true) : Memory.wf (inputAtUpdate s i) = true := by
  unfold inputAtUpdate
  try dsimp only
  repeat' (first | (with_reducible assumption) | (with_reducible apply wf_ite) | (with_reducible apply wf_ite_fst) | (with_reducible apply State.inputUp_wf) | (with_reducible apply State.set_wf) | (with_reducible apply State.raise_wf) | (with_reducible apply wf_foldl (hg := fun _ _ _ => ?_)) | (with_reducible apply wf_foldl_fst (hg := fun _ _ _ => ?_)) | split | dsimp only)

theorem inputsAtUpdate_wf (s : State) (h₀ : Memory.wf s = true) : Memory.wf (inputsAtUpdate s) = true := by
  unfold inputsAtUpdate
  try dsimp only
  repeat' (first | (with_reducible assumption) | (with_reducible apply wf_ite) | (with_reducible apply wf_ite_fst) | (with_reducible apply inputAtUpdate_wf) | (with_reducible apply wf_foldl (hg := fun _ _ _ => ?_)) | (with_reducible apply wf_foldl_fst (hg := fun _ _ _ => ?_)) | split | dsimp only)

theorem decimate_wf (s : State) (h₀ : Memory.wf s = true) : Memory.wf (decimate s) = true := by
  unfold decimate
  try dsimp only
  repeat' (first | (with_reducible assumption) | (with_reducible apply wf_ite) | (with_reducible apply wf_ite_fst) | (with_reducible apply gatePush_wf) | (with_reducible apply State.snsUp_wf) | (with_reducible apply wf_foldl (hg := fun _ _ _ => ?_)) | (with_reducible apply wf_foldl_fst (hg := fun _ _ _ => ?_)) | split | dsimp only)

theorem latchCal_wf (s : State) (n : Nat) (o : CalOutcome) (h₀ : Memory.wf s = true) : Memory.wf (latchCal s n o) = true := by
  unfold latchCal
  try dsimp only
  repeat' (first | (with_reducible assumption) | (with_reducible apply wf_ite) | (with_reducible apply wf_ite_fst) | (with_reducible apply State.setB_wf) | (with_reducible apply State.set_wf) | (with_reducible apply State.sliceUp_wf) | (with_reducible apply wf_foldl (hg := fun _ _ _ => ?_)) | (with_reducible apply wf_foldl_fst (hg := fun _ _ _ => ?_)) | split | dsimp only)

theorem inputWithoutSlice_wf (s : State) (i : Nat) (h₀ : Memory.wf s = true) : Memory.wf (inputWithoutSlice s i) = true := by
  unfold inputWithoutSlice
  try dsimp only
  repeat' (first | (with_reducible assumption) | (with_reducible apply wf_ite) | (with_reducible apply wf_ite_fst) | (with_reducible apply State.set_wf) | (with_reducible apply gatePush_wf) | (with_reducible apply State.raise_wf) | (with_reducible apply wf_foldl (hg := fun _ _ _ => ?_)) | (with_reducible apply wf_foldl_fst (hg := fun _ _ _ => ?_)) | split | dsimp only)

theorem startupCal_wf (s : State) (outcomes : List CalOutcome) (h₀ : Memory.wf s = true) : Memory.wf (startupCal s outcomes) = true := by
  unfold startupCal
  try dsimp only
  repeat' (first | (with_reducible assumption) | (with_reducible apply wf_ite) | (with_reducible apply wf_ite_fst) | (with_reducible apply retireSliceNow_wf) | (with_reducible apply showSpares_wf) | (with_reducible apply latchCal_wf) | (with_reducible apply State.set_wf) | (with_reducible apply inputWithoutSlice_wf) | (with_reducible apply wf_foldl (hg := fun _ _ _ => ?_)) | (with_reducible apply wf_foldl_fst (hg := fun _ _ _ => ?_)) | split | dsimp only | (with_reducible apply wf_with_sys))

theorem rotationStart_wf (s : State) (h₀ : Memory.wf s = true) : Memory.wf (rotationStart s) = true :=
  Only.wf (rotationStart_only s) (by decide) h₀

theorem rotationOverlapEnd_wf (s : State) (h₀ : Memory.wf s = true) : Memory.wf (rotationOverlapEnd s) = true :=
  Only.wf (rotationOverlapEnd_only s) (by decide) h₀

theorem rotationAtUpdate_wf (s : State) (h₀ : Memory.wf s = true) : Memory.wf (rotationAtUpdate s) = true := by
  unfold rotationAtUpdate
  try dsimp only
  repeat' (first | (with_reducible assumption) | (with_reducible apply wf_ite) | (with_reducible apply wf_ite_fst) | (with_reducible apply showSpares_wf) | (with_reducible apply State.raiseIf_wf) | (with_reducible apply State.snsUp_wf) | (with_reducible apply State.set_wf) | (with_reducible apply State.raise_wf) | (with_reducible apply State.sliceUp_wf) | (with_reducible apply wf_foldl (hg := fun _ _ _ => ?_)) | (with_reducible apply wf_foldl_fst (hg := fun _ _ _ => ?_)) | split | dsimp only)

theorem sliceCalDone_wf (s : State) (o : CalOutcome) (h₀ : Memory.wf s = true) : Memory.wf (sliceCalDone s o) = true := by
  unfold sliceCalDone
  try dsimp only
  repeat' (first | (with_reducible assumption) | (with_reducible apply wf_ite) | (with_reducible apply wf_ite_fst) | (with_reducible apply retireSliceNow_wf) | (with_reducible apply showSpares_wf) | (with_reducible apply State.snsUp_wf) | (with_reducible apply latchCal_wf) | (with_reducible apply State.set_wf) | (with_reducible apply State.sliceUp_wf) | (with_reducible apply wf_foldl (hg := fun _ _ _ => ?_)) | (with_reducible apply wf_foldl_fst (hg := fun _ _ _ => ?_)) | split | dsimp only)

theorem replaceSlice_wf (s : State) (n : Nat) (h₀ : Memory.wf s = true) : Memory.wf (replaceSlice s n) = true := by
  unfold replaceSlice
  try dsimp only
  repeat' (first | (with_reducible assumption) | (with_reducible apply wf_ite) | (with_reducible apply wf_ite_fst) | (with_reducible apply retireSliceNow_wf) | (with_reducible apply State.snsUp_wf) | (with_reducible apply State.set_wf) | (with_reducible apply inputWithoutSlice_wf) | (with_reducible apply State.sliceUp_wf) | (with_reducible apply wf_foldl (hg := fun _ _ _ => ?_)) | (with_reducible apply wf_foldl_fst (hg := fun _ _ _ => ?_)) | split | dsimp only)

theorem replacementsAtUpdate_wf (s : State) (h₀ : Memory.wf s = true) : Memory.wf (replacementsAtUpdate s) = true := by
  unfold replacementsAtUpdate
  try dsimp only
  repeat' (first | (with_reducible assumption) | (with_reducible apply wf_ite) | (with_reducible apply wf_ite_fst) | (with_reducible apply replaceSlice_wf) | (with_reducible apply wf_foldl (hg := fun _ _ _ => ?_)) | (with_reducible apply wf_foldl_fst (hg := fun _ _ _ => ?_)) | split | dsimp only)

theorem railConversion_wf (s : State) (n : Nat) (code : Nat) (h₀ : Memory.wf s = true) : Memory.wf (railConversion s n code) = true := by
  unfold railConversion
  try dsimp only
  repeat' (first | (with_reducible assumption) | (with_reducible apply wf_ite) | (with_reducible apply wf_ite_fst) | (with_reducible apply State.snsUp_wf) | (with_reducible apply reportCompare_wf) | (with_reducible apply State.set_wf) | (with_reducible apply State.cond_wf) | (with_reducible apply State.wr_wf) | (with_reducible apply wf_foldl (hg := fun _ _ _ => ?_)) | (with_reducible apply wf_foldl_fst (hg := fun _ _ _ => ?_)) | split | dsimp only)

theorem calRead_wf (s : State) (h₀ : Memory.wf s = true) : Memory.wf (calRead s) = true :=
  Only.wf (calRead_only s) (by decide) h₀

end Sys2Proof.Machine
end

