-- ==== Sys2Proof/Laws/FrameLanes.lean ====
section
/-! SUPPORT. Laws/FrameLanes.lean: what the operations of Machine/Lanes.lean may change (f_only; f_step after what went before), and
that each keeps the memories' canonical form (f_wf). -/

set_option Elab.async false
set_option linter.all false

namespace Sys2Proof.Machine

theorem State.laneUp_only (s : State) (n : Nat) (f : LaneSt → LaneSt) : Only [.lanes] s (State.laneUp s n f) := by
  unfold State.laneUp
  try dsimp only
  repeat' (first | (with_reducible exact Only.refl _ _) | (with_reducible apply Only.ite) | (with_reducible apply Only.ite_fst) | (with_reducible apply Only.foldl (hg := fun _ _ => ?_)) | (with_reducible apply Only.foldl_fst (hg := fun _ _ => ?_)) | split | dsimp only | (with_reducible apply only_with_lanes_step (hm := by decide)))
theorem State.laneUp_step {l₀ : List Part} {s₀ : State} (s : State) (n : Nat) (f : LaneSt → LaneSt) (h₀ : Only l₀ s₀ s) (hm : [.lanes] ⊆ l₀) : Only l₀ s₀ (State.laneUp s n f) :=
  h₀.step (State.laneUp_only s n f) hm

theorem State.loopUp_only (s : State) (c : Nat) (f : LoopChan → LoopChan) : Only [.loops] s (State.loopUp s c f) := by
  unfold State.loopUp
  try dsimp only
  repeat' (first | (with_reducible exact Only.refl _ _) | (with_reducible apply Only.ite) | (with_reducible apply Only.ite_fst) | (with_reducible apply Only.foldl (hg := fun _ _ => ?_)) | (with_reducible apply Only.foldl_fst (hg := fun _ _ => ?_)) | split | dsimp only | (with_reducible apply only_with_loops_step (hm := by decide)))
theorem State.loopUp_step {l₀ : List Part} {s₀ : State} (s : State) (c : Nat) (f : LoopChan → LoopChan) (h₀ : Only l₀ s₀ s) (hm : [.loops] ⊆ l₀) : Only l₀ s₀ (State.loopUp s c f) :=
  h₀.step (State.loopUp_only s c f) hm

theorem putCoef_only (s : State) (n j : Nat) (v : Nat) : Only [.banks] s (putCoef s n j v) := by
  unfold putCoef
  try dsimp only
  repeat' (first | (with_reducible exact Only.refl _ _) | (with_reducible apply Only.ite) | (with_reducible apply Only.ite_fst) | (with_reducible apply State.putBank_step (hm := by decide)) | (with_reducible apply Only.foldl (hg := fun _ _ => ?_)) | (with_reducible apply Only.foldl_fst (hg := fun _ _ => ?_)) | split | dsimp only)
theorem putCoef_step {l₀ : List Part} {s₀ : State} (s : State) (n j : Nat) (v : Nat) (h₀ : Only l₀ s₀ s) (hm : [.banks] ⊆ l₀) : Only l₀ s₀ (putCoef s n j v) :=
  h₀.step (putCoef_only s n j v) hm

theorem putExp_only (s : State) (n x e : Nat) : Only [.banks] s (putExp s n x e) := by
  unfold putExp
  try dsimp only
  repeat' (first | (with_reducible exact Only.refl _ _) | (with_reducible apply Only.ite) | (with_reducible apply Only.ite_fst) | (with_reducible apply State.putBank_step (hm := by decide)) | (with_reducible apply Only.foldl (hg := fun _ _ => ?_)) | (with_reducible apply Only.foldl_fst (hg := fun _ _ => ?_)) | split | dsimp only)
theorem putExp_step {l₀ : List Part} {s₀ : State} (s : State) (n x e : Nat) (h₀ : Only l₀ s₀ s) (hm : [.banks] ⊆ l₀) : Only l₀ s₀ (putExp s n x e) :=
  h₀.step (putExp_only s n x e) hm

theorem lanePdataWrite_only (s : State) (c : Nat) (v : Word) : Only [.regs, .banks] s (lanePdataWrite s c v) := by
  unfold lanePdataWrite
  try dsimp only
  repeat' (first | (with_reducible exact Only.refl _ _) | (with_reducible apply Only.ite) | (with_reducible apply Only.ite_fst) | (with_reducible apply State.raise_step (hm := by decide)) | (with_reducible apply State.putBank_step (hm := by decide)) | (with_reducible apply State.set_step (hm := by decide)) | (with_reducible apply Only.foldl (hg := fun _ _ => ?_)) | (with_reducible apply Only.foldl_fst (hg := fun _ _ => ?_)) | split | dsimp only)
theorem lanePdataWrite_step {l₀ : List Part} {s₀ : State} (s : State) (c : Nat) (v : Word) (h₀ : Only l₀ s₀ s) (hm : [.regs, .banks] ⊆ l₀) : Only l₀ s₀ (lanePdataWrite s c v) :=
  h₀.step (lanePdataWrite_only s c v) hm

theorem lanePdataRead_only (s : State) (c : Nat) : Only [.regs, .rdata] s (lanePdataRead s c) := by
  unfold lanePdataRead
  try dsimp only
  repeat' (first | (with_reducible exact Only.refl _ _) | (with_reducible apply Only.ite) | (with_reducible apply Only.ite_fst) | (with_reducible apply State.set_step (hm := by decide)) | (with_reducible apply State.answer_step (hm := by decide)) | (with_reducible apply Only.foldl (hg := fun _ _ => ?_)) | (with_reducible apply Only.foldl_fst (hg := fun _ _ => ?_)) | split | dsimp only)
theorem lanePdataRead_step {l₀ : List Part} {s₀ : State} (s : State) (c : Nat) (h₀ : Only l₀ s₀ s) (hm : [.regs, .rdata] ⊆ l₀) : Only l₀ s₀ (lanePdataRead s c) :=
  h₀.step (lanePdataRead_only s c) hm

theorem laneLdataRead_only (s : State) (c : Nat) : Only [.regs, .rdata] s (laneLdataRead s c) := by
  unfold laneLdataRead
  try dsimp only
  repeat' (first | (with_reducible exact Only.refl _ _) | (with_reducible apply Only.ite) | (with_reducible apply Only.ite_fst) | (with_reducible apply State.set_step (hm := by decide)) | (with_reducible apply State.answer_step (hm := by decide)) | (with_reducible apply Only.foldl (hg := fun _ _ => ?_)) | (with_reducible apply Only.foldl_fst (hg := fun _ _ => ?_)) | split | dsimp only)
theorem laneLdataRead_step {l₀ : List Part} {s₀ : State} (s : State) (c : Nat) (h₀ : Only l₀ s₀ s) (hm : [.regs, .rdata] ⊆ l₀) : Only l₀ s₀ (laneLdataRead s c) :=
  h₀.step (laneLdataRead_only s c) hm

theorem chModWrite_only (s : State) (c : Nat) (v : Word) : Only [.regs, .heldU, .heldB] s (chModWrite s c v) := by
  unfold chModWrite
  try dsimp only
  repeat' (first | (with_reducible exact Only.refl _ _) | (with_reducible apply Only.ite) | (with_reducible apply Only.ite_fst) | (with_reducible apply State.raiseIf_step (hm := by decide)) | (with_reducible apply writeChMod_step (hm := by decide)) | (with_reducible apply State.raise_step (hm := by decide)) | (with_reducible apply Only.foldl (hg := fun _ _ => ?_)) | (with_reducible apply Only.foldl_fst (hg := fun _ _ => ?_)) | split | dsimp only)
theorem chModWrite_step {l₀ : List Part} {s₀ : State} (s : State) (c : Nat) (v : Word) (h₀ : Only l₀ s₀ s) (hm : [.regs, .heldU, .heldB] ⊆ l₀) : Only l₀ s₀ (chModWrite s c v) :=
  h₀.step (chModWrite_only s c v) hm

theorem markEvent_only (s : State) (c b : Nat) : Only [.loops] s (markEvent s c b) := by
  unfold markEvent
  try dsimp only
  repeat' (first | (with_reducible exact Only.refl _ _) | (with_reducible apply Only.ite) | (with_reducible apply Only.ite_fst) | (with_reducible apply State.loopUp_step (hm := by decide)) | (with_reducible apply Only.foldl (hg := fun _ _ => ?_)) | (with_reducible apply Only.foldl_fst (hg := fun _ _ => ?_)) | split | dsimp only)
theorem markEvent_step {l₀ : List Part} {s₀ : State} (s : State) (c b : Nat) (h₀ : Only l₀ s₀ s) (hm : [.loops] ⊆ l₀) : Only l₀ s₀ (markEvent s c b) :=
  h₀.step (markEvent_only s c b) hm

theorem countOverrun_only (s : State) (c : Nat) : Only [.regs, .loops] s (countOverrun s c) := by
  unfold countOverrun
  try dsimp only
  repeat' (first | (with_reducible exact Only.refl _ _) | (with_reducible apply Only.ite) | (with_reducible apply Only.ite_fst) | (with_reducible apply State.raise_step (hm := by decide)) | (with_reducible apply State.loopUp_step (hm := by decide)) | (with_reducible apply State.set_step (hm := by decide)) | (with_reducible apply markEvent_step (hm := by decide)) | (with_reducible apply Only.foldl (hg := fun _ _ => ?_)) | (with_reducible apply Only.foldl_fst (hg := fun _ _ => ?_)) | split | dsimp only)
theorem countOverrun_step {l₀ : List Part} {s₀ : State} (s : State) (c : Nat) (h₀ : Only l₀ s₀ s) (hm : [.regs, .loops] ⊆ l₀) : Only l₀ s₀ (countOverrun s c) :=
  h₀.step (countOverrun_only s c) hm

theorem overrunTrip_only (s : State) (c : Nat) : Only [.regs, .gates, .loops] s (overrunTrip s c) := by
  unfold overrunTrip
  try dsimp only
  repeat' (first | (with_reducible exact Only.refl _ _) | (with_reducible apply Only.ite) | (with_reducible apply Only.ite_fst) | (with_reducible apply State.raise_step (hm := by decide)) | (with_reducible apply State.loopUp_step (hm := by decide)) | (with_reducible apply gatePush_step (hm := by decide)) | (with_reducible apply Only.foldl (hg := fun _ _ => ?_)) | (with_reducible apply Only.foldl_fst (hg := fun _ _ => ?_)) | split | dsimp only)
theorem overrunTrip_step {l₀ : List Part} {s₀ : State} (s : State) (c : Nat) (h₀ : Only l₀ s₀ s) (hm : [.regs, .gates, .loops] ⊆ l₀) : Only l₀ s₀ (overrunTrip s c) :=
  h₀.step (overrunTrip_only s c) hm

theorem withdrawWord_only (s : State) (l : Nat) (w : Nat) : Only [.regs, .gates] s (withdrawWord s l w) := by
  unfold withdrawWord
  try dsimp only
  repeat' (first | (with_reducible exact Only.refl _ _) | (with_reducible apply Only.ite) | (with_reducible apply Only.ite_fst) | (with_reducible apply State.set_step (hm := by decide)) | (with_reducible apply Only.foldl (hg := fun _ _ => ?_)) | (with_reducible apply Only.foldl_fst (hg := fun _ _ => ?_)) | split | dsimp only | (with_reducible apply only_with_gates_step (hm := by decide)))
theorem withdrawWord_step {l₀ : List Part} {s₀ : State} (s : State) (l : Nat) (w : Nat) (h₀ : Only l₀ s₀ s) (hm : [.regs, .gates] ⊆ l₀) : Only l₀ s₀ (withdrawWord s l w) :=
  h₀.step (withdrawWord_only s l w) hm

theorem undoOut_only (s : State) (c : Nat) : Only [.regs, .gates, .legs, .loops] s (undoOut s c) := by
  unfold undoOut
  try dsimp only
  repeat' (first | (with_reducible exact Only.refl _ _) | (with_reducible apply Only.ite) | (with_reducible apply Only.ite_fst) | (with_reducible apply State.loopUp_step (hm := by decide)) | (with_reducible apply State.legUp_step (hm := by decide)) | (with_reducible apply State.set_step (hm := by decide)) | (with_reducible apply withdrawWord_step (hm := by decide)) | (with_reducible apply Only.foldl (hg := fun _ _ => ?_)) | (with_reducible apply Only.foldl_fst (hg := fun _ _ => ?_)) | split | dsimp only)
theorem undoOut_step {l₀ : List Part} {s₀ : State} (s : State) (c : Nat) (h₀ : Only l₀ s₀ s) (hm : [.regs, .gates, .legs, .loops] ⊆ l₀) : Only l₀ s₀ (undoOut s c) :=
  h₀.step (undoOut_only s c) hm

theorem abandon_only (s : State) (n : Nat) : Only [.regs, .gates, .legs, .lanes, .loops] s (abandon s n) := by
  unfold abandon
  try dsimp only
  repeat' (first | (with_reducible exact Only.refl _ _) | (with_reducible apply Only.ite) | (with_reducible apply Only.ite_fst) | (with_reducible apply undoOut_step (hm := by decide)) | (with_reducible apply State.laneUp_step (hm := by decide)) | (with_reducible apply countOverrun_step (hm := by decide)) | (with_reducible apply Only.foldl (hg := fun _ _ => ?_)) | (with_reducible apply Only.foldl_fst (hg := fun _ _ => ?_)) | split | dsimp only)
theorem abandon_step {l₀ : List Part} {s₀ : State} (s : State) (n : Nat) (h₀ : Only l₀ s₀ s) (hm : [.regs, .gates, .legs, .lanes, .loops] ⊆ l₀) : Only l₀ s₀ (abandon s n) :=
  h₀.step (abandon_only s n) hm

theorem oneCycle_only (s : State) (n op : Nat) (f : LaneSt → LInstr → LaneSt) : Only [.regs, .gates, .legs, .lanes, .loops] s (oneCycle s n op f) := by
  unfold oneCycle
  try dsimp only
  repeat' (first | (with_reducible exact Only.refl _ _) | (with_reducible apply Only.ite) | (with_reducible apply Only.ite_fst) | (with_reducible apply State.laneUp_step (hm := by decide)) | (with_reducible apply abandon_step (hm := by decide)) | (with_reducible apply Only.foldl (hg := fun _ _ => ?_)) | (with_reducible apply Only.foldl_fst (hg := fun _ _ => ?_)) | split | dsimp only)
theorem oneCycle_step {l₀ : List Part} {s₀ : State} (s : State) (n op : Nat) (f : LaneSt → LInstr → LaneSt) (h₀ : Only l₀ s₀ s) (hm : [.regs, .gates, .legs, .lanes, .loops] ⊆ l₀) : Only l₀ s₀ (oneCycle s n op f) :=
  h₀.step (oneCycle_only s n op f) hm

theorem laneNop_only (s : State) (n : Nat) : Only [.regs, .gates, .legs, .lanes, .loops] s (laneNop s n) := by
  unfold laneNop
  try dsimp only
  repeat' (first | (with_reducible exact Only.refl _ _) | (with_reducible apply Only.ite) | (with_reducible apply Only.ite_fst) | (with_reducible apply oneCycle_step (hm := by decide)) | (with_reducible apply Only.foldl (hg := fun _ _ => ?_)) | (with_reducible apply Only.foldl_fst (hg := fun _ _ => ?_)) | split | dsimp only)
theorem laneNop_step {l₀ : List Part} {s₀ : State} (s : State) (n : Nat) (h₀ : Only l₀ s₀ s) (hm : [.regs, .gates, .legs, .lanes, .loops] ⊆ l₀) : Only l₀ s₀ (laneNop s n) :=
  h₀.step (laneNop_only s n) hm

theorem laneMac_only (s : State) (n : Nat) : Only [.regs, .gates, .legs, .lanes, .loops] s (laneMac s n) := by
  unfold laneMac
  try dsimp only
  repeat' (first | (with_reducible exact Only.refl _ _) | (with_reducible apply Only.ite) | (with_reducible apply Only.ite_fst) | (with_reducible apply oneCycle_step (hm := by decide)) | (with_reducible apply Only.foldl (hg := fun _ _ => ?_)) | (with_reducible apply Only.foldl_fst (hg := fun _ _ => ?_)) | split | dsimp only)
theorem laneMac_step {l₀ : List Part} {s₀ : State} (s : State) (n : Nat) (h₀ : Only l₀ s₀ s) (hm : [.regs, .gates, .legs, .lanes, .loops] ⊆ l₀) : Only l₀ s₀ (laneMac s n) :=
  h₀.step (laneMac_only s n) hm

theorem laneMacd_only (s : State) (n : Nat) : Only [.regs, .gates, .legs, .lanes, .loops] s (laneMacd s n) := by
  unfold laneMacd
  try dsimp only
  repeat' (first | (with_reducible exact Only.refl _ _) | (with_reducible apply Only.ite) | (with_reducible apply Only.ite_fst) | (with_reducible apply oneCycle_step (hm := by decide)) | (with_reducible apply Only.foldl (hg := fun _ _ => ?_)) | (with_reducible apply Only.foldl_fst (hg := fun _ _ => ?_)) | split | dsimp only)
theorem laneMacd_step {l₀ : List Part} {s₀ : State} (s : State) (n : Nat) (h₀ : Only l₀ s₀ s) (hm : [.regs, .gates, .legs, .lanes, .loops] ⊆ l₀) : Only l₀ s₀ (laneMacd s n) :=
  h₀.step (laneMacd_only s n) hm

theorem laneIntg_only (s : State) (n : Nat) : Only [.regs, .gates, .legs, .lanes, .loops] s (laneIntg s n) := by
  unfold laneIntg
  try dsimp only
  repeat' (first | (with_reducible exact Only.refl _ _) | (with_reducible apply Only.ite) | (with_reducible apply Only.ite_fst) | (with_reducible apply oneCycle_step (hm := by decide)) | (with_reducible apply Only.foldl (hg := fun _ _ => ?_)) | (with_reducible apply Only.foldl_fst (hg := fun _ _ => ?_)) | split | dsimp only)
theorem laneIntg_step {l₀ : List Part} {s₀ : State} (s : State) (n : Nat) (h₀ : Only l₀ s₀ s) (hm : [.regs, .gates, .legs, .lanes, .loops] ⊆ l₀) : Only l₀ s₀ (laneIntg s n) :=
  h₀.step (laneIntg_only s n) hm

theorem laneSkipo_only (s : State) (n : Nat) : Only [.regs, .gates, .legs, .lanes, .loops] s (laneSkipo s n) := by
  unfold laneSkipo
  try dsimp only
  repeat' (first | (with_reducible exact Only.refl _ _) | (with_reducible apply Only.ite) | (with_reducible apply Only.ite_fst) | (with_reducible apply oneCycle_step (hm := by decide)) | (with_reducible apply Only.foldl (hg := fun _ _ => ?_)) | (with_reducible apply Only.foldl_fst (hg := fun _ _ => ?_)) | split | dsimp only)
theorem laneSkipo_step {l₀ : List Part} {s₀ : State} (s : State) (n : Nat) (h₀ : Only l₀ s₀ s) (hm : [.regs, .gates, .legs, .lanes, .loops] ⊆ l₀) : Only l₀ s₀ (laneSkipo s n) :=
  h₀.step (laneSkipo_only s n) hm

theorem waitDone_only (s : State) (n c at_ usable : Nat) : Only [.regs, .gates, .legs, .lanes, .loops] s (waitDone s n c at_ usable) := by
  unfold waitDone
  try dsimp only
  repeat' (first | (with_reducible exact Only.refl _ _) | (with_reducible apply Only.ite) | (with_reducible apply Only.ite_fst) | (with_reducible apply State.laneUp_step (hm := by decide)) | (with_reducible apply abandon_step (hm := by decide)) | (with_reducible apply Only.foldl (hg := fun _ _ => ?_)) | (with_reducible apply Only.foldl_fst (hg := fun _ _ => ?_)) | split | dsimp only)
theorem waitDone_step {l₀ : List Part} {s₀ : State} (s : State) (n c at_ usable : Nat) (h₀ : Only l₀ s₀ s) (hm : [.regs, .gates, .legs, .lanes, .loops] ⊆ l₀) : Only l₀ s₀ (waitDone s n c at_ usable) :=
  h₀.step (waitDone_only s n c at_ usable) hm

theorem laneWait_only (s : State) (n : Nat) : Only [.regs, .gates, .legs, .lanes, .loops] s (laneWait s n) := by
  unfold laneWait
  try dsimp only
  repeat' (first | (with_reducible exact Only.refl _ _) | (with_reducible apply Only.ite) | (with_reducible apply Only.ite_fst) | (with_reducible apply State.laneUp_step (hm := by decide)) | (with_reducible apply waitDone_step (hm := by decide)) | (with_reducible apply Only.foldl (hg := fun _ _ => ?_)) | (with_reducible apply Only.foldl_fst (hg := fun _ _ => ?_)) | split | dsimp only)
theorem laneWait_step {l₀ : List Part} {s₀ : State} (s : State) (n : Nat) (h₀ : Only l₀ s₀ s) (hm : [.regs, .gates, .legs, .lanes, .loops] ⊆ l₀) : Only l₀ s₀ (laneWait s n) :=
  h₀.step (laneWait_only s n) hm

theorem laneWaitComplete_only (s : State) (n : Nat) : Only [.regs, .gates, .legs, .lanes, .loops] s (laneWaitComplete s n) := by
  unfold laneWaitComplete
  try dsimp only
  repeat' (first | (with_reducible exact Only.refl _ _) | (with_reducible apply Only.ite) | (with_reducible apply Only.ite_fst) | (with_reducible apply waitDone_step (hm := by decide)) | (with_reducible apply Only.foldl (hg := fun _ _ => ?_)) | (with_reducible apply Only.foldl_fst (hg := fun _ _ => ?_)) | split | dsimp only)
theorem laneWaitComplete_step {l₀ : List Part} {s₀ : State} (s : State) (n : Nat) (h₀ : Only l₀ s₀ s) (hm : [.regs, .gates, .legs, .lanes, .loops] ⊆ l₀) : Only l₀ s₀ (laneWaitComplete s n) :=
  h₀.step (laneWaitComplete_only s n) hm

theorem laneOut_only (s : State) (n : Nat) : Only [.regs, .gates, .legs, .lanes, .loops] s (laneOut s n) := by
  unfold laneOut
  try dsimp only
  repeat' (first | (with_reducible exact Only.refl _ _) | (with_reducible apply Only.ite) | (with_reducible apply Only.ite_fst) | (with_reducible apply abandon_step (hm := by decide)) | (with_reducible apply State.laneUp_step (hm := by decide)) | (with_reducible apply State.loopUp_step (hm := by decide)) | (with_reducible apply shapeChannel_step (hm := by decide)) | (with_reducible apply Only.foldl (hg := fun _ _ => ?_)) | (with_reducible apply Only.foldl_fst (hg := fun _ _ => ?_)) | split | dsimp only)
theorem laneOut_step {l₀ : List Part} {s₀ : State} (s : State) (n : Nat) (h₀ : Only l₀ s₀ s) (hm : [.regs, .gates, .legs, .lanes, .loops] ⊆ l₀) : Only l₀ s₀ (laneOut s n) :=
  h₀.step (laneOut_only s n) hm

theorem laneEnd_only (s : State) (n : Nat) : Only [.lanes] s (laneEnd s n) := by
  unfold laneEnd
  try dsimp only
  repeat' (first | (with_reducible exact Only.refl _ _) | (with_reducible apply Only.ite) | (with_reducible apply Only.ite_fst) | (with_reducible apply State.laneUp_step (hm := by decide)) | (with_reducible apply Only.foldl (hg := fun _ _ => ?_)) | (with_reducible apply Only.foldl_fst (hg := fun _ _ => ?_)) | split | dsimp only)
theorem laneEnd_step {l₀ : List Part} {s₀ : State} (s : State) (n : Nat) (h₀ : Only l₀ s₀ s) (hm : [.lanes] ⊆ l₀) : Only l₀ s₀ (laneEnd s n) :=
  h₀.step (laneEnd_only s n) hm

theorem laneOverrun_only (s : State) (n : Nat) : Only [.regs, .gates, .legs, .lanes, .loops] s (laneOverrun s n) := by
  unfold laneOverrun
  try dsimp only
  repeat' (first | (with_reducible exact Only.refl _ _) | (with_reducible apply Only.ite) | (with_reducible apply Only.ite_fst) | (with_reducible apply abandon_step (hm := by decide)) | (with_reducible apply Only.foldl (hg := fun _ _ => ?_)) | (with_reducible apply Only.foldl_fst (hg := fun _ _ => ?_)) | split | dsimp only)
theorem laneOverrun_step {l₀ : List Part} {s₀ : State} (s : State) (n : Nat) (h₀ : Only l₀ s₀ s) (hm : [.regs, .gates, .legs, .lanes, .loops] ⊆ l₀) : Only l₀ s₀ (laneOverrun s n) :=
  h₀.step (laneOverrun_only s n) hm

theorem coefWrite_only (s : State) (c : Nat) (v : Word) : Only [.regs, .loops] s (coefWrite s c v) := by
  unfold coefWrite
  try dsimp only
  repeat' (first | (with_reducible exact Only.refl _ _) | (with_reducible apply Only.ite) | (with_reducible apply Only.ite_fst) | (with_reducible apply State.raise_step (hm := by decide)) | (with_reducible apply State.loopUp_step (hm := by decide)) | (with_reducible apply State.wr_step (hm := by decide)) | (with_reducible apply Only.foldl (hg := fun _ _ => ?_)) | (with_reducible apply Only.foldl_fst (hg := fun _ _ => ?_)) | split | dsimp only)
theorem coefWrite_step {l₀ : List Part} {s₀ : State} (s : State) (c : Nat) (v : Word) (h₀ : Only l₀ s₀ s) (hm : [.regs, .loops] ⊆ l₀) : Only l₀ s₀ (coefWrite s c v) :=
  h₀.step (coefWrite_only s c v) hm

theorem applyCoef_only (v : Word) (s : State) (n : Nat) : Only [.banks] s (applyCoef v s n) := by
  unfold applyCoef
  try dsimp only
  repeat' (first | (with_reducible exact Only.refl _ _) | (with_reducible apply Only.ite) | (with_reducible apply Only.ite_fst) | (with_reducible apply putCoef_step (hm := by decide)) | (with_reducible apply putExp_step (hm := by decide)) | (with_reducible apply Only.foldl (hg := fun _ _ => ?_)) | (with_reducible apply Only.foldl_fst (hg := fun _ _ => ?_)) | split | dsimp only)
theorem applyCoef_step {l₀ : List Part} {s₀ : State} (v : Word) (s : State) (n : Nat) (h₀ : Only l₀ s₀ s) (hm : [.banks] ⊆ l₀) : Only l₀ s₀ (applyCoef v s n) :=
  h₀.step (applyCoef_only v s n) hm

theorem queueAtUpdate_only (s : State) (c : Nat) : Only [.banks, .loops] s (queueAtUpdate s c) := by
  unfold queueAtUpdate
  try dsimp only
  repeat' (first | (with_reducible exact Only.refl _ _) | (with_reducible apply Only.ite) | (with_reducible apply Only.ite_fst) | (with_reducible apply applyCoef_step (hm := by decide)) | (with_reducible apply State.loopUp_step (hm := by decide)) | (with_reducible apply Only.foldl (hg := fun _ _ => ?_)) | (with_reducible apply Only.foldl_fst (hg := fun _ _ => ?_)) | split | dsimp only)
theorem queueAtUpdate_step {l₀ : List Part} {s₀ : State} (s : State) (c : Nat) (h₀ : Only l₀ s₀ s) (hm : [.banks, .loops] ⊆ l₀) : Only l₀ s₀ (queueAtUpdate s c) :=
  h₀.step (queueAtUpdate_only s c) hm

theorem exchangeBanks_only (s : State) (c : Nat) : Only [.regs, .lanes, .loops] s (exchangeBanks s c) := by
  unfold exchangeBanks
  try dsimp only
  repeat' (first | (with_reducible exact Only.refl _ _) | (with_reducible apply Only.ite) | (with_reducible apply Only.ite_fst) | (with_reducible apply State.laneUp_step (hm := by decide)) | (with_reducible apply State.raise_step (hm := by decide)) | (with_reducible apply State.loopUp_step (hm := by decide)) | (with_reducible apply Only.foldl (hg := fun _ _ => ?_)) | (with_reducible apply Only.foldl_fst (hg := fun _ _ => ?_)) | split | dsimp only)
theorem exchangeBanks_step {l₀ : List Part} {s₀ : State} (s : State) (c : Nat) (h₀ : Only l₀ s₀ s) (hm : [.regs, .lanes, .loops] ⊆ l₀) : Only l₀ s₀ (exchangeBanks s c) :=
  h₀.step (exchangeBanks_only s c) hm

theorem swapNow_only (s : State) (c : Nat) : Only [.regs] s (swapNow s c) := by
  unfold swapNow
  try dsimp only
  repeat' (first | (with_reducible exact Only.refl _ _) | (with_reducible apply Only.ite) | (with_reducible apply Only.ite_fst) | (with_reducible apply State.set_step (hm := by decide)) | (with_reducible apply State.raise_step (hm := by decide)) | (with_reducible apply Only.foldl (hg := fun _ _ => ?_)) | (with_reducible apply Only.foldl_fst (hg := fun _ _ => ?_)) | split | dsimp only)
theorem swapNow_step {l₀ : List Part} {s₀ : State} (s : State) (c : Nat) (h₀ : Only l₀ s₀ s) (hm : [.regs] ⊆ l₀) : Only l₀ s₀ (swapNow s c) :=
  h₀.step (swapNow_only s c) hm

theorem laneActivate_only (s : State) (c : Nat) : Only [.regs, .loops] s (laneActivate s c) := by
  unfold laneActivate
  try dsimp only
  repeat' (first | (with_reducible exact Only.refl _ _) | (with_reducible apply Only.ite) | (with_reducible apply Only.ite_fst) | (with_reducible apply State.raise_step (hm := by decide)) | (with_reducible apply State.loopUp_step (hm := by decide)) | (with_reducible apply markEvent_step (hm := by decide)) | (with_reducible apply Only.foldl (hg := fun _ _ => ?_)) | (with_reducible apply Only.foldl_fst (hg := fun _ _ => ?_)) | split | dsimp only)
theorem laneActivate_step {l₀ : List Part} {s₀ : State} (s : State) (c : Nat) (h₀ : Only l₀ s₀ s) (hm : [.regs, .loops] ⊆ l₀) : Only l₀ s₀ (laneActivate s c) :=
  h₀.step (laneActivate_only s c) hm

theorem swapNowAtBlock_only (s : State) (c : Nat) : Only [.regs, .loops] s (swapNowAtBlock s c) := by
  unfold swapNowAtBlock
  try dsimp only
  repeat' (first | (with_reducible exact Only.refl _ _) | (with_reducible apply Only.ite) | (with_reducible apply Only.ite_fst) | (with_reducible apply State.raise_step (hm := by decide)) | (with_reducible apply State.loopUp_step (hm := by decide)) | (with_reducible apply State.set_step (hm := by decide)) | (with_reducible apply Only.foldl (hg := fun _ _ => ?_)) | (with_reducible apply Only.foldl_fst (hg := fun _ _ => ?_)) | split | dsimp only)
theorem swapNowAtBlock_step {l₀ : List Part} {s₀ : State} (s : State) (c : Nat) (h₀ : Only l₀ s₀ s) (hm : [.regs, .loops] ⊆ l₀) : Only l₀ s₀ (swapNowAtBlock s c) :=
  h₀.step (swapNowAtBlock_only s c) hm

theorem impedanceAtBlock_only (s : State) (c : Nat) : Only [.regs, .banks] s (impedanceAtBlock s c) := by
  unfold impedanceAtBlock
  try dsimp only
  repeat' (first | (with_reducible exact Only.refl _ _) | (with_reducible apply Only.ite) | (with_reducible apply Only.ite_fst) | (with_reducible apply putCoef_step (hm := by decide)) | (with_reducible apply State.set_step (hm := by decide)) | (with_reducible apply Only.foldl (hg := fun _ _ => ?_)) | (with_reducible apply Only.foldl_fst (hg := fun _ _ => ?_)) | split | dsimp only)
theorem impedanceAtBlock_step {l₀ : List Part} {s₀ : State} (s : State) (c : Nat) (h₀ : Only l₀ s₀ s) (hm : [.regs, .banks] ⊆ l₀) : Only l₀ s₀ (impedanceAtBlock s c) :=
  h₀.step (impedanceAtBlock_only s c) hm

theorem writeZout_only (s : State) (c : Nat) (v : Word) : Only [.regs, .heldU, .heldB] s (writeZout s c v) := by
  unfold writeZout
  try dsimp only
  repeat' (first | (with_reducible exact Only.refl _ _) | (with_reducible apply Only.ite) | (with_reducible apply Only.ite_fst) | (with_reducible apply storeCoded_step (hm := by decide)) | (with_reducible apply Only.foldl (hg := fun _ _ => ?_)) | (with_reducible apply Only.foldl_fst (hg := fun _ _ => ?_)) | split | dsimp only)
theorem writeZout_step {l₀ : List Part} {s₀ : State} (s : State) (c : Nat) (v : Word) (h₀ : Only l₀ s₀ s) (hm : [.regs, .heldU, .heldB] ⊆ l₀) : Only l₀ s₀ (writeZout s c v) :=
  h₀.step (writeZout_only s c v) hm

theorem writeLanePtr_only (s : State) (p : Nat) (v : Word) : Only [.regs] s (writeLanePtr s p v) := by
  unfold writeLanePtr
  try dsimp only
  repeat' (first | (with_reducible exact Only.refl _ _) | (with_reducible apply Only.ite) | (with_reducible apply Only.ite_fst) | (with_reducible apply State.wr_step (hm := by decide)) | (with_reducible apply Only.foldl (hg := fun _ _ => ?_)) | (with_reducible apply Only.foldl_fst (hg := fun _ _ => ?_)) | split | dsimp only)
theorem writeLanePtr_step {l₀ : List Part} {s₀ : State} (s : State) (p : Nat) (v : Word) (h₀ : Only l₀ s₀ s) (hm : [.regs] ⊆ l₀) : Only l₀ s₀ (writeLanePtr s p v) :=
  h₀.step (writeLanePtr_only s p v) hm

/-! ### The canonical form -/

theorem State.laneUp_wf (s : State) (n : Nat) (f : LaneSt → LaneSt) (h₀ : Memory.wf s = true) : Memory.wf (State.laneUp s n f) = true :=
  Only.wf (State.laneUp_only s n f) (by decide) h₀

theorem State.loopUp_wf (s : State) (c : Nat) (f : LoopChan → LoopChan) (h₀ : Memory.wf s = true) : Memory.wf (State.loopUp s c f) = true :=
  Only.wf (State.loopUp_only s c f) (by decide) h₀

theorem putCoef_wf (s : State) (n j : Nat) (v : Nat) (h₀ : Memory.wf s = true) : Memory.wf (putCoef s n j v) = true := by
  unfold putCoef
  try dsimp only
  repeat' (first | (with_reducible assumption) | (with_reducible apply wf_ite) | (with_reducible apply wf_ite_fst) | (with_reducible apply State.putBank_wf) | (with_reducible apply wf_foldl (hg := fun _ _ _ => ?_)) | (with_reducible apply wf_foldl_fst (hg := fun _ _ _ => ?_)) | split | dsimp only)

theorem putExp_wf (s : State) (n x e : Nat) (h₀ : Memory.wf s = true) : Memory.wf (putExp s n x e) = true := by
  unfold putExp
  try dsimp only
  repeat' (first | (with_reducible assumption) | (with_reducible apply wf_ite) | (with_reducible apply wf_ite_fst) | (with_reducible apply State.putBank_wf) | (with_reducible apply wf_foldl (hg := fun _ _ _ => ?_)) | (with_reducible apply wf_foldl_fst (hg := fun _ _ _ => ?_)) | split | dsimp only)

theorem lanePdataWrite_wf (s : State) (c : Nat) (v : Word) (h₀ : Memory.wf s = true) : Memory.wf (lanePdataWrite s c v) = true := by
  unfold lanePdataWrite
  try dsimp only
  repeat' (first | (with_reducible assumption) | (with_reducible apply wf_ite) | (with_reducible apply wf_ite_fst) | (with_reducible apply State.putBank_wf) | (with_reducible apply State.set_wf) | (with_reducible apply State.raise_wf) | (with_reducible apply wf_foldl (hg := fun _ _ _ => ?_)) | (with_reducible apply wf_foldl_fst (hg := fun _ _ _ => ?_)) | split | dsimp only)

theorem lanePdataRead_wf (s : State) (c : Nat) (h₀ : Memory.wf s = true) : Memory.wf (lanePdataRead s c) = true := by
  unfold lanePdataRead
  try dsimp only
  repeat' (first | (with_reducible assumption) | (with_reducible apply wf_ite) | (with_reducible apply wf_ite_fst) | (with_reducible apply State.set_wf) | (with_reducible apply State.answer_wf) | (with_reducible apply wf_foldl (hg := fun _ _ _ => ?_)) | (with_reducible apply wf_foldl_fst (hg := fun _ _ _ => ?_)) | split | dsimp only)

theorem laneLdataRead_wf (s : State) (c : Nat) (h₀ : Memory.wf s = true) : Memory.wf (laneLdataRead s c) = true := by
  unfold laneLdataRead
  try dsimp only
  repeat' (first | (with_reducible assumption) | (with_reducible apply wf_ite) | (with_reducible apply wf_ite_fst) | (with_reducible apply State.set_wf) | (with_reducible apply State.answer_wf) | (with_reducible apply wf_foldl (hg := fun _ _ _ => ?_)) | (with_reducible apply wf_foldl_fst (hg := fun _ _ _ => ?_)) | split | dsimp only)

theorem chModWrite_wf (s : State) (c : Nat) (v : Word) (h₀ : Memory.wf s = true) : Memory.wf (chModWrite s c v) = true := by
  unfold chModWrite
  try dsimp only
  repeat' (first | (with_reducible assumption) | (with_reducible apply wf_ite) | (with_reducible apply wf_ite_fst) | (with_reducible apply writeChMod_wf) | (with_reducible apply State.raiseIf_wf) | (with_reducible apply State.raise_wf) | (with_reducible apply wf_foldl (hg := fun _ _ _ => ?_)) | (with_reducible apply wf_foldl_fst (hg := fun _ _ _ => ?_)) | split | dsimp only)

theorem markEvent_wf (s : State) (c b : Nat) (h₀ : Memory.wf s = true) : Memory.wf (markEvent s c b) = true :=
  Only.wf (markEvent_only s c b) (by decide) h₀

theorem countOverrun_wf (s : State) (c : Nat) (h₀ : Memory.wf s = true) : Memory.wf (countOverrun s c) = true := by
  unfold countOverrun
  try dsimp only
  repeat' (first | (with_reducible assumption) | (with_reducible apply wf_ite) | (with_reducible apply wf_ite_fst) | (with_reducible apply State.set_wf) | (with_reducible apply markEvent_wf) | (with_reducible apply State.loopUp_wf) | (with_reducible apply State.raise_wf) | (with_reducible apply wf_foldl (hg := fun _ _ _ => ?_)) | (with_reducible apply wf_foldl_fst (hg := fun _ _ _ => ?_)) | split | dsimp only)

theorem overrunTrip_wf (s : State) (c : Nat) (h₀ : Memory.wf s = true) : Memory.wf (overrunTrip s c) = true := by
  unfold overrunTrip
  try dsimp only
  repeat' (first | (with_reducible assumption) | (with_reducible apply wf_ite) | (with_reducible apply wf_ite_fst) | (with_reducible apply gatePush_wf) | (with_reducible apply State.loopUp_wf) | (with_reducible apply State.raise_wf) | (with_reducible apply wf_foldl (hg := fun _ _ _ => ?_)) | (with_reducible apply wf_foldl_fst (hg := fun _ _ _ => ?_)) | split | dsimp only)

theorem withdrawWord_wf (s : State) (l : Nat) (w : Nat) (h₀ : Memory.wf s = true) : Memory.wf (withdrawWord s l w) = true := by
  unfold withdrawWord
  try dsimp only
  repeat' (first | (with_reducible assumption) | (with_reducible apply wf_ite) | (with_reducible apply wf_ite_fst) | (with_reducible apply State.set_wf) | (with_reducible apply wf_foldl (hg := fun _ _ _ => ?_)) | (with_reducible apply wf_foldl_fst (hg := fun _ _ _ => ?_)) | split | dsimp only | (with_reducible apply wf_with_gates))

theorem undoOut_wf (s : State) (c : Nat) (h₀ : Memory.wf s = true) : Memory.wf (undoOut s c) = true := by
  unfold undoOut
  try dsimp only
  repeat' (first | (with_reducible assumption) | (with_reducible apply wf_ite) | (with_reducible apply wf_ite_fst) | (with_reducible apply State.legUp_wf) | (with_reducible apply withdrawWord_wf) | (with_reducible apply State.set_wf) | (with_reducible apply State.loopUp_wf) | (with_reducible apply wf_foldl (hg := fun _ _ _ => ?_)) | (with_reducible apply wf_foldl_fst (hg := fun _ _ _ => ?_)) | split | dsimp only)

theorem abandon_wf (s : State) (n : Nat) (h₀ : Memory.wf s = true) : Memory.wf (abandon s n) = true := by
  unfold abandon
  try dsimp only
  repeat' (first | (with_reducible assumption) | (with_reducible apply wf_ite) | (with_reducible apply wf_ite_fst) | (with_reducible apply countOverrun_wf) | (with_reducible apply undoOut_wf) | (with_reducible apply State.laneUp_wf) | (with_reducible apply wf_foldl (hg := fun _ _ _ => ?_)) | (with_reducible apply wf_foldl_fst (hg := fun _ _ _ => ?_)) | split | dsimp only)

theorem oneCycle_wf (s : State) (n op : Nat) (f : LaneSt → LInstr → LaneSt) (h₀ : Memory.wf s = true) : Memory.wf (oneCycle s n op f) = true := by
  unfold oneCycle
  try dsimp only
  repeat' (first | (with_reducible assumption) | (with_reducible apply wf_ite) | (with_reducible apply wf_ite_fst) | (with_reducible apply abandon_wf) | (with_reducible apply State.laneUp_wf) | (with_reducible apply wf_foldl (hg := fun _ _ _ => ?_)) | (with_reducible apply wf_foldl_fst (hg := fun _ _ _ => ?_)) | split | dsimp only)

theorem laneNop_wf (s : State) (n : Nat) (h₀ : Memory.wf s = true) : Memory.wf (laneNop s n) = true := by
  unfold laneNop
  try dsimp only
  repeat' (first | (with_reducible assumption) | (with_reducible apply wf_ite) | (with_reducible apply wf_ite_fst) | (with_reducible apply oneCycle_wf) | (with_reducible apply wf_foldl (hg := fun _ _ _ => ?_)) | (with_reducible apply wf_foldl_fst (hg := fun _ _ _ => ?_)) | split | dsimp only)

theorem laneMac_wf (s : State) (n : Nat) (h₀ : Memory.wf s = true) : Memory.wf (laneMac s n) = true := by
  unfold laneMac
  try dsimp only
  repeat' (first | (with_reducible assumption) | (with_reducible apply wf_ite) | (with_reducible apply wf_ite_fst) | (with_reducible apply oneCycle_wf) | (with_reducible apply wf_foldl (hg := fun _ _ _ => ?_)) | (with_reducible apply wf_foldl_fst (hg := fun _ _ _ => ?_)) | split | dsimp only)

theorem laneMacd_wf (s : State) (n : Nat) (h₀ : Memory.wf s = true) : Memory.wf (laneMacd s n) = true := by
  unfold laneMacd
  try dsimp only
  repeat' (first | (with_reducible assumption) | (with_reducible apply wf_ite) | (with_reducible apply wf_ite_fst) | (with_reducible apply oneCycle_wf) | (with_reducible apply wf_foldl (hg := fun _ _ _ => ?_)) | (with_reducible apply wf_foldl_fst (hg := fun _ _ _ => ?_)) | split | dsimp only)

theorem laneIntg_wf (s : State) (n : Nat) (h₀ : Memory.wf s = true) : Memory.wf (laneIntg s n) = true := by
  unfold laneIntg
  try dsimp only
  repeat' (first | (with_reducible assumption) | (with_reducible apply wf_ite) | (with_reducible apply wf_ite_fst) | (with_reducible apply oneCycle_wf) | (with_reducible apply wf_foldl (hg := fun _ _ _ => ?_)) | (with_reducible apply wf_foldl_fst (hg := fun _ _ _ => ?_)) | split | dsimp only)

theorem laneSkipo_wf (s : State) (n : Nat) (h₀ : Memory.wf s = true) : Memory.wf (laneSkipo s n) = true := by
  unfold laneSkipo
  try dsimp only
  repeat' (first | (with_reducible assumption) | (with_reducible apply wf_ite) | (with_reducible apply wf_ite_fst) | (with_reducible apply oneCycle_wf) | (with_reducible apply wf_foldl (hg := fun _ _ _ => ?_)) | (with_reducible apply wf_foldl_fst (hg := fun _ _ _ => ?_)) | split | dsimp only)

theorem waitDone_wf (s : State) (n c at_ usable : Nat) (h₀ : Memory.wf s = true) : Memory.wf (waitDone s n c at_ usable) = true := by
  unfold waitDone
  try dsimp only
  repeat' (first | (with_reducible assumption) | (with_reducible apply wf_ite) | (with_reducible apply wf_ite_fst) | (with_reducible apply abandon_wf) | (with_reducible apply State.laneUp_wf) | (with_reducible apply wf_foldl (hg := fun _ _ _ => ?_)) | (with_reducible apply wf_foldl_fst (hg := fun _ _ _ => ?_)) | split | dsimp only)

theorem laneWait_wf (s : State) (n : Nat) (h₀ : Memory.wf s = true) : Memory.wf (laneWait s n) = true := by
  unfold laneWait
  try dsimp only
  repeat' (first | (with_reducible assumption) | (with_reducible apply wf_ite) | (with_reducible apply wf_ite_fst) | (with_reducible apply waitDone_wf) | (with_reducible apply State.laneUp_wf) | (with_reducible apply wf_foldl (hg := fun _ _ _ => ?_)) | (with_reducible apply wf_foldl_fst (hg := fun _ _ _ => ?_)) | split | dsimp only)

theorem laneWaitComplete_wf (s : State) (n : Nat) (h₀ : Memory.wf s = true) : Memory.wf (laneWaitComplete s n) = true := by
  unfold laneWaitComplete
  try dsimp only
  repeat' (first | (with_reducible assumption) | (with_reducible apply wf_ite) | (with_reducible apply wf_ite_fst) | (with_reducible apply waitDone_wf) | (with_reducible apply wf_foldl (hg := fun _ _ _ => ?_)) | (with_reducible apply wf_foldl_fst (hg := fun _ _ _ => ?_)) | split | dsimp only)

theorem laneOut_wf (s : State) (n : Nat) (h₀ : Memory.wf s = true) : Memory.wf (laneOut s n) = true := by
  unfold laneOut
  try dsimp only
  repeat' (first | (with_reducible assumption) | (with_reducible apply wf_ite) | (with_reducible apply wf_ite_fst) | (with_reducible apply abandon_wf) | (with_reducible apply State.loopUp_wf) | (with_reducible apply shapeChannel_wf) | (with_reducible apply State.laneUp_wf) | (with_reducible apply wf_foldl (hg := fun _ _ _ => ?_)) | (with_reducible apply wf_foldl_fst (hg := fun _ _ _ => ?_)) | split | dsimp only)

theorem laneEnd_wf (s : State) (n : Nat) (h₀ : Memory.wf s = true) : Memory.wf (laneEnd s n) = true :=
  Only.wf (laneEnd_only s n) (by decide) h₀

theorem laneOverrun_wf (s : State) (n : Nat) (h₀ : Memory.wf s = true) : Memory.wf (laneOverrun s n) = true := by
  unfold laneOverrun
  try dsimp only
  repeat' (first | (with_reducible assumption) | (with_reducible apply wf_ite) | (with_reducible apply wf_ite_fst) | (with_reducible apply abandon_wf) | (with_reducible apply wf_foldl (hg := fun _ _ _ => ?_)) | (with_reducible apply wf_foldl_fst (hg := fun _ _ _ => ?_)) | split | dsimp only)

theorem coefWrite_wf (s : State) (c : Nat) (v : Word) (h₀ : Memory.wf s = true) : Memory.wf (coefWrite s c v) = true := by
  unfold coefWrite
  try dsimp only
  repeat' (first | (with_reducible assumption) | (with_reducible apply wf_ite) | (with_reducible apply wf_ite_fst) | (with_reducible apply State.loopUp_wf) | (with_reducible apply State.raise_wf) | (with_reducible apply State.wr_wf) | (with_reducible apply wf_foldl (hg := fun _ _ _ => ?_)) | (with_reducible apply wf_foldl_fst (hg := fun _ _ _ => ?_)) | split | dsimp only)

theorem applyCoef_wf (v : Word) (s : State) (n : Nat) (h₀ : Memory.wf s = true) : Memory.wf (applyCoef v s n) = true := by
  unfold applyCoef
  try dsimp only
  repeat' (first | (with_reducible assumption) | (with_reducible apply wf_ite) | (with_reducible apply wf_ite_fst) | (with_reducible apply putExp_wf) | (with_reducible apply putCoef_wf) | (with_reducible apply wf_foldl (hg := fun _ _ _ => ?_)) | (with_reducible apply wf_foldl_fst (hg := fun _ _ _ => ?_)) | split | dsimp only)

theorem queueAtUpdate_wf (s : State) (c : Nat) (h₀ : Memory.wf s = true) : Memory.wf (queueAtUpdate s c) = true := by
  unfold queueAtUpdate
  try dsimp only
  repeat' (first | (with_reducible assumption) | (with_reducible apply wf_ite) | (with_reducible apply wf_ite_fst) | (with_reducible apply applyCoef_wf) | (with_reducible apply State.loopUp_wf) | (with_reducible apply wf_foldl (hg := fun _ _ _ => ?_)) | (with_reducible apply wf_foldl_fst (hg := fun _ _ _ => ?_)) | split | dsimp only)

theorem exchangeBanks_wf (s : State) (c : Nat) (h₀ : Memory.wf s = true) : Memory.wf (exchangeBanks s c) = true := by
  unfold exchangeBanks
  try dsimp only
  repeat' (first | (with_reducible assumption) | (with_reducible apply wf_ite) | (with_reducible apply wf_ite_fst) | (with_reducible apply State.laneUp_wf) | (with_reducible apply State.loopUp_wf) | (with_reducible apply State.raise_wf) | (with_reducible apply wf_foldl (hg := fun _ _ _ => ?_)) | (with_reducible apply wf_foldl_fst (hg := fun _ _ _ => ?_)) | split | dsimp only)

theorem swapNow_wf (s : State) (c : Nat) (h₀ : Memory.wf s = true) : Memory.wf (swapNow s c) = true := by
  unfold swapNow
  try dsimp only
  repeat' (first | (with_reducible assumption) | (with_reducible apply wf_ite) | (with_reducible apply wf_ite_fst) | (with_reducible apply State.set_wf) | (with_reducible apply State.raise_wf) | (with_reducible apply wf_foldl (hg := fun _ _ _ => ?_)) | (with_reducible apply wf_foldl_fst (hg := fun _ _ _ => ?_)) | split | dsimp only)

theorem laneActivate_wf (s : State) (c : Nat) (h₀ : Memory.wf s = true) : Memory.wf (laneActivate s c) = true := by
  unfold laneActivate
  try dsimp only
  repeat' (first | (with_reducible assumption) | (with_reducible apply wf_ite) | (with_reducible apply wf_ite_fst) | (with_reducible apply State.loopUp_wf) | (with_reducible apply State.raise_wf) | (with_reducible apply markEvent_wf) | (with_reducible apply wf_foldl (hg := fun _ _ _ => ?_)) | (with_reducible apply wf_foldl_fst (hg := fun _ _ _ => ?_)) | split | dsimp only)

theorem swapNowAtBlock_wf (s : State) (c : Nat) (h₀ : Memory.wf s = true) : Memory.wf (swapNowAtBlock s c) = true := by
  unfold swapNowAtBlock
  try dsimp only
  repeat' (first | (with_reducible assumption) | (with_reducible apply wf_ite) | (with_reducible apply wf_ite_fst) | (with_reducible apply State.set_wf) | (with_reducible apply State.loopUp_wf) | (with_reducible apply State.raise_wf) | (with_reducible apply wf_foldl (hg := fun _ _ _ => ?_)) | (with_reducible apply wf_foldl_fst (hg := fun _ _ _ => ?_)) | split | dsimp only)

theorem impedanceAtBlock_wf (s : State) (c : Nat) (h₀ : Memory.wf s = true) : Memory.wf (impedanceAtBlock s c) = true := by
  unfold impedanceAtBlock
  try dsimp only
  repeat' (first | (with_reducible assumption) | (with_reducible apply wf_ite) | (with_reducible apply wf_ite_fst) | (with_reducible apply State.set_wf) | (with_reducible apply putCoef_wf) | (with_reducible apply wf_foldl (hg := fun _ _ _ => ?_)) | (with_reducible apply wf_foldl_fst (hg := fun _ _ _ => ?_)) | split | dsimp only)

theorem writeZout_wf (s : State) (c : Nat) (v : Word) (h₀ : Memory.wf s = true) : Memory.wf (writeZout s c v) = true := by
  unfold writeZout
  try dsimp only
  repeat' (first | (with_reducible assumption) | (with_reducible apply wf_ite) | (with_reducible apply wf_ite_fst) | (with_reducible apply storeCoded_wf) | (with_reducible apply wf_foldl (hg := fun _ _ _ => ?_)) | (with_reducible apply wf_foldl_fst (hg := fun _ _ _ => ?_)) | split | dsimp only)

theorem writeLanePtr_wf (s : State) (p : Nat) (v : Word) (h₀ : Memory.wf s = true) : Memory.wf (writeLanePtr s p v) = true := by
  unfold writeLanePtr
  try dsimp only
  repeat' (first | (with_reducible assumption) | (with_reducible apply wf_ite) | (with_reducible apply wf_ite_fst) | (with_reducible apply State.wr_wf) | (with_reducible apply wf_foldl (hg := fun _ _ _ => ?_)) | (with_reducible apply wf_foldl_fst (hg := fun _ _ _ => ?_)) | split | dsimp only)

end Sys2Proof.Machine
end

