-- ==== Sys2Proof/Laws/FrameLoopRun.lean ====
section
/-! SUPPORT. Laws/FrameLoopRun.lean: what the operations of Machine/LoopRun.lean may change (f_only; f_step after what went before), and
that each keeps the memories' canonical form (f_wf). -/

set_option Elab.async false
set_option linter.all false

namespace Sys2Proof.Machine

theorem State.poolUp_only (s : State) (f : LanePool → LanePool) : Only [.lanePool] s (State.poolUp s f) := by
  unfold State.poolUp
  try dsimp only
  repeat' (first | (with_reducible exact Only.refl _ _) | (with_reducible apply Only.ite) | (with_reducible apply Only.ite_fst) | (with_reducible apply Only.foldl (hg := fun _ _ => ?_)) | (with_reducible apply Only.foldl_fst (hg := fun _ _ => ?_)) | split | dsimp only | (with_reducible apply only_with_lanePool_step (hm := by decide)))
theorem State.poolUp_step {l₀ : List Part} {s₀ : State} (s : State) (f : LanePool → LanePool) (h₀ : Only l₀ s₀ s) (hm : [.lanePool] ⊆ l₀) : Only l₀ s₀ (State.poolUp s f) :=
  h₀.step (State.poolUp_only s f) hm

theorem countSlack_only (s : State) (c : Nat) : Only [.regs] s (countSlack s c) := by
  unfold countSlack
  try dsimp only
  repeat' (first | (with_reducible exact Only.refl _ _) | (with_reducible apply Only.ite) | (with_reducible apply Only.ite_fst) | (with_reducible apply State.set_step (hm := by decide)) | (with_reducible apply Only.foldl (hg := fun _ _ => ?_)) | (with_reducible apply Only.foldl_fst (hg := fun _ _ => ?_)) | split | dsimp only)
theorem countSlack_step {l₀ : List Part} {s₀ : State} (s : State) (c : Nat) (h₀ : Only l₀ s₀ s) (hm : [.regs] ⊆ l₀) : Only l₀ s₀ (countSlack s c) :=
  h₀.step (countSlack_only s c) hm

theorem followError_only (s : State) (c : Nat) : Only [.regs, .conds, .gates, .loops] s (followError s c) := by
  unfold followError
  try dsimp only
  repeat' (first | (with_reducible exact Only.refl _ _) | (with_reducible apply Only.ite) | (with_reducible apply Only.ite_fst) | (with_reducible apply State.raise_step (hm := by decide)) | (with_reducible apply State.loopUp_step (hm := by decide)) | (with_reducible apply State.set_step (hm := by decide)) | (with_reducible apply gatePush_step (hm := by decide)) | (with_reducible apply State.cond_step (hm := by decide)) | (with_reducible apply markEvent_step (hm := by decide)) | (with_reducible apply Only.foldl (hg := fun _ _ => ?_)) | (with_reducible apply Only.foldl_fst (hg := fun _ _ => ?_)) | split | dsimp only)
theorem followError_step {l₀ : List Part} {s₀ : State} (s : State) (c : Nat) (h₀ : Only l₀ s₀ s) (hm : [.regs, .conds, .gates, .loops] ⊆ l₀) : Only l₀ s₀ (followError s c) :=
  h₀.step (followError_only s c) hm

theorem writeFe_only (s : State) (c : Nat) (v : Word) : Only [.regs, .heldU, .heldB] s (writeFe s c v) := by
  unfold writeFe
  try dsimp only
  repeat' (first | (with_reducible exact Only.refl _ _) | (with_reducible apply Only.ite) | (with_reducible apply Only.ite_fst) | (with_reducible apply storeCoded_step (hm := by decide)) | (with_reducible apply Only.foldl (hg := fun _ _ => ?_)) | (with_reducible apply Only.foldl_fst (hg := fun _ _ => ?_)) | split | dsimp only)
theorem writeFe_step {l₀ : List Part} {s₀ : State} (s : State) (c : Nat) (v : Word) (h₀ : Only l₀ s₀ s) (hm : [.regs, .heldU, .heldB] ⊆ l₀) : Only l₀ s₀ (writeFe s c v) :=
  h₀.step (writeFe_only s c v) hm

theorem closeLane_only (s : State) (n : Nat) : Only [.regs, .gates, .legs, .lanes, .loops] s (closeLane s n) := by
  unfold closeLane
  try dsimp only
  repeat' (first | (with_reducible exact Only.refl _ _) | (with_reducible apply Only.ite) | (with_reducible apply Only.ite_fst) | (with_reducible apply laneOverrun_step (hm := by decide)) | (with_reducible apply State.laneUp_step (hm := by decide)) | (with_reducible apply Only.foldl (hg := fun _ _ => ?_)) | (with_reducible apply Only.foldl_fst (hg := fun _ _ => ?_)) | split | dsimp only)
theorem closeLane_step {l₀ : List Part} {s₀ : State} (s : State) (n : Nat) (h₀ : Only l₀ s₀ s) (hm : [.regs, .gates, .legs, .lanes, .loops] ⊆ l₀) : Only l₀ s₀ (closeLane s n) :=
  h₀.step (closeLane_only s n) hm

theorem judgeUpdate_only (s : State) (c : Nat) : Only [.regs, .conds, .gates, .loops] s (judgeUpdate s c) := by
  unfold judgeUpdate
  try dsimp only
  repeat' (first | (with_reducible exact Only.refl _ _) | (with_reducible apply Only.ite) | (with_reducible apply Only.ite_fst) | (with_reducible apply overrunTrip_step (hm := by decide)) | (with_reducible apply countSlack_step (hm := by decide)) | (with_reducible apply State.loopUp_step (hm := by decide)) | (with_reducible apply State.cond_step (hm := by decide)) | (with_reducible apply followError_step (hm := by decide)) | (with_reducible apply markEvent_step (hm := by decide)) | (with_reducible apply Only.foldl (hg := fun _ _ => ?_)) | (with_reducible apply Only.foldl_fst (hg := fun _ _ => ?_)) | split | dsimp only)
theorem judgeUpdate_step {l₀ : List Part} {s₀ : State} (s : State) (c : Nat) (h₀ : Only l₀ s₀ s) (hm : [.regs, .conds, .gates, .loops] ⊆ l₀) : Only l₀ s₀ (judgeUpdate s c) :=
  h₀.step (judgeUpdate_only s c) hm

theorem copyLane_only (s : State) (src dst : Nat) : Only [.regs, .banks, .lanes] s (copyLane s src dst) := by
  unfold copyLane
  try dsimp only
  repeat' (first | (with_reducible exact Only.refl _ _) | (with_reducible apply Only.ite) | (with_reducible apply Only.ite_fst) | (with_reducible apply State.putBank_step (hm := by decide)) | (with_reducible apply State.set_step (hm := by decide)) | (with_reducible apply Only.foldl (hg := fun _ _ => ?_)) | (with_reducible apply Only.foldl_fst (hg := fun _ _ => ?_)) | split | dsimp only | (with_reducible apply only_with_lanes_step (hm := by decide)))
theorem copyLane_step {l₀ : List Part} {s₀ : State} (s : State) (src dst : Nat) (h₀ : Only l₀ s₀ s) (hm : [.regs, .banks, .lanes] ⊆ l₀) : Only l₀ s₀ (copyLane s src dst) :=
  h₀.step (copyLane_only s src dst) hm

theorem showSpare_only (s : State) : Only [.regs, .conds] s (showSpare s) := by
  unfold showSpare
  try dsimp only
  repeat' (first | (with_reducible exact Only.refl _ _) | (with_reducible apply Only.ite) | (with_reducible apply Only.ite_fst) | (with_reducible apply State.cond_step (hm := by decide)) | (with_reducible apply Only.foldl (hg := fun _ _ => ?_)) | (with_reducible apply Only.foldl_fst (hg := fun _ _ => ?_)) | split | dsimp only)
theorem showSpare_step {l₀ : List Part} {s₀ : State} (s : State) (h₀ : Only l₀ s₀ s) (hm : [.regs, .conds] ⊆ l₀) : Only l₀ s₀ (showSpare s) :=
  h₀.step (showSpare_only s) hm

theorem retireLaneNow_only (s : State) (n : Nat) : Only [.regs, .bkg] s (retireLaneNow s n) := by
  unfold retireLaneNow
  try dsimp only
  repeat' (first | (with_reducible exact Only.refl _ _) | (with_reducible apply Only.ite) | (with_reducible apply Only.ite_fst) | (with_reducible apply State.raise_step (hm := by decide)) | (with_reducible apply queueRetire_step (hm := by decide)) | (with_reducible apply State.set_step (hm := by decide)) | (with_reducible apply Only.foldl (hg := fun _ _ => ?_)) | (with_reducible apply Only.foldl_fst (hg := fun _ _ => ?_)) | split | dsimp only)
theorem retireLaneNow_step {l₀ : List Part} {s₀ : State} (s : State) (n : Nat) (h₀ : Only l₀ s₀ s) (hm : [.regs, .bkg] ⊆ l₀) : Only l₀ s₀ (retireLaneNow s n) :=
  h₀.step (retireLaneNow_only s n) hm

theorem spareServes_only (s : State) (c sp : Nat) : Only [.regs, .conds, .lanes, .lanePool] s (spareServes s c sp) := by
  unfold spareServes
  try dsimp only
  repeat' (first | (with_reducible exact Only.refl _ _) | (with_reducible apply Only.ite) | (with_reducible apply Only.ite_fst) | (with_reducible apply State.laneUp_step (hm := by decide)) | (with_reducible apply State.raise_step (hm := by decide)) | (with_reducible apply State.set_step (hm := by decide)) | (with_reducible apply showSpare_step (hm := by decide)) | (with_reducible apply State.poolUp_step (hm := by decide)) | (with_reducible apply Only.foldl (hg := fun _ _ => ?_)) | (with_reducible apply Only.foldl_fst (hg := fun _ _ => ?_)) | split | dsimp only)
theorem spareServes_step {l₀ : List Part} {s₀ : State} (s : State) (c sp : Nat) (h₀ : Only l₀ s₀ s) (hm : [.regs, .conds, .lanes, .lanePool] ⊆ l₀) : Only l₀ s₀ (spareServes s c sp) :=
  h₀.step (spareServes_only s c sp) hm

theorem countMismatch_only (s : State) (c : Nat) (ue : Bool) : Only [.regs] s (countMismatch s c ue) := by
  unfold countMismatch
  try dsimp only
  repeat' (first | (with_reducible exact Only.refl _ _) | (with_reducible apply Only.ite) | (with_reducible apply Only.ite_fst) | (with_reducible apply State.raise_step (hm := by decide)) | (with_reducible apply State.wr_step (hm := by decide)) | (with_reducible apply Only.foldl (hg := fun _ _ => ?_)) | (with_reducible apply Only.foldl_fst (hg := fun _ _ => ?_)) | split | dsimp only)
theorem countMismatch_step {l₀ : List Part} {s₀ : State} (s : State) (c : Nat) (ue : Bool) (h₀ : Only l₀ s₀ s) (hm : [.regs] ⊆ l₀) : Only l₀ s₀ (countMismatch s c ue) :=
  h₀.step (countMismatch_only s c ue) hm

theorem mismatch_only (s : State) (c : Nat) : Only [.regs, .conds, .lanes, .lanePool, .bkg] s (mismatch s c) := by
  unfold mismatch
  try dsimp only
  repeat' (first | (with_reducible exact Only.refl _ _) | (with_reducible apply Only.ite) | (with_reducible apply Only.ite_fst) | (with_reducible apply countMismatch_step (hm := by decide)) | (with_reducible apply State.laneUp_step (hm := by decide)) | (with_reducible apply State.raise_step (hm := by decide)) | (with_reducible apply retireLaneNow_step (hm := by decide)) | (with_reducible apply State.set_step (hm := by decide)) | (with_reducible apply spareServes_step (hm := by decide)) | (with_reducible apply showSpare_step (hm := by decide)) | (with_reducible apply State.poolUp_step (hm := by decide)) | (with_reducible apply Only.foldl (hg := fun _ _ => ?_)) | (with_reducible apply Only.foldl_fst (hg := fun _ _ => ?_)) | split | dsimp only)
theorem mismatch_step {l₀ : List Part} {s₀ : State} (s : State) (c : Nat) (h₀ : Only l₀ s₀ s) (hm : [.regs, .conds, .lanes, .lanePool, .bkg] ⊆ l₀) : Only l₀ s₀ (mismatch s c) :=
  h₀.step (mismatch_only s c) hm

theorem endComparison_only (s : State) : Only [.lanes, .lanePool] s (endComparison s) := by
  unfold endComparison
  try dsimp only
  repeat' (first | (with_reducible exact Only.refl _ _) | (with_reducible apply Only.ite) | (with_reducible apply Only.ite_fst) | (with_reducible apply State.laneUp_step (hm := by decide)) | (with_reducible apply State.poolUp_step (hm := by decide)) | (with_reducible apply Only.foldl (hg := fun _ _ => ?_)) | (with_reducible apply Only.foldl_fst (hg := fun _ _ => ?_)) | split | dsimp only)
theorem endComparison_step {l₀ : List Part} {s₀ : State} (s : State) (h₀ : Only l₀ s₀ s) (hm : [.lanes, .lanePool] ⊆ l₀) : Only l₀ s₀ (endComparison s) :=
  h₀.step (endComparison_only s) hm

theorem openShadow_only (s : State) (c sp : Nat) : Only [.regs, .banks, .lanes] s (openShadow s c sp) := by
  unfold openShadow
  try dsimp only
  repeat' (first | (with_reducible exact Only.refl _ _) | (with_reducible apply Only.ite) | (with_reducible apply Only.ite_fst) | (with_reducible apply copyLane_step (hm := by decide)) | (with_reducible apply Only.foldl (hg := fun _ _ => ?_)) | (with_reducible apply Only.foldl_fst (hg := fun _ _ => ?_)) | split | dsimp only)
theorem openShadow_step {l₀ : List Part} {s₀ : State} (s : State) (c sp : Nat) (h₀ : Only l₀ s₀ s) (hm : [.regs, .banks, .lanes] ⊆ l₀) : Only l₀ s₀ (openShadow s c sp) :=
  h₀.step (openShadow_only s c sp) hm

theorem shadowSlotOpen_only (s : State) : Only [.regs, .banks, .lanes, .lanePool] s (shadowSlotOpen s) := by
  unfold shadowSlotOpen
  try dsimp only
  repeat' (first | (with_reducible exact Only.refl _ _) | (with_reducible apply Only.ite) | (with_reducible apply Only.ite_fst) | (with_reducible apply State.laneUp_step (hm := by decide)) | (with_reducible apply State.set_step (hm := by decide)) | (with_reducible apply State.poolUp_step (hm := by decide)) | (with_reducible apply openShadow_step (hm := by decide)) | (with_reducible apply Only.foldl (hg := fun _ _ => ?_)) | (with_reducible apply Only.foldl_fst (hg := fun _ _ => ?_)) | split | dsimp only)
theorem shadowSlotOpen_step {l₀ : List Part} {s₀ : State} (s : State) (h₀ : Only l₀ s₀ s) (hm : [.regs, .banks, .lanes, .lanePool] ⊆ l₀) : Only l₀ s₀ (shadowSlotOpen s) :=
  h₀.step (shadowSlotOpen_only s) hm

theorem selfTestDone_only (s : State) (n : Nat) (pass : Bool) : Only [.regs, .conds, .lanePool, .bkg] s (selfTestDone s n pass) := by
  unfold selfTestDone
  try dsimp only
  repeat' (first | (with_reducible exact Only.refl _ _) | (with_reducible apply Only.ite) | (with_reducible apply Only.ite_fst) | (with_reducible apply State.set_step (hm := by decide)) | (with_reducible apply showSpare_step (hm := by decide)) | (with_reducible apply State.poolUp_step (hm := by decide)) | (with_reducible apply retireLaneNow_step (hm := by decide)) | (with_reducible apply Only.foldl (hg := fun _ _ => ?_)) | (with_reducible apply Only.foldl_fst (hg := fun _ _ => ?_)) | split | dsimp only)
theorem selfTestDone_step {l₀ : List Part} {s₀ : State} (s : State) (n : Nat) (pass : Bool) (h₀ : Only l₀ s₀ s) (hm : [.regs, .conds, .lanePool, .bkg] ⊆ l₀) : Only l₀ s₀ (selfTestDone s n pass) :=
  h₀.step (selfTestDone_only s n pass) hm

theorem confirmAtBlock_only (s : State) : Only [.regs, .banks, .lanes, .lanePool] s (confirmAtBlock s) := by
  unfold confirmAtBlock
  try dsimp only
  repeat' (first | (with_reducible exact Only.refl _ _) | (with_reducible apply Only.ite) | (with_reducible apply Only.ite_fst) | (with_reducible apply State.poolUp_step (hm := by decide)) | (with_reducible apply openShadow_step (hm := by decide)) | (with_reducible apply Only.foldl (hg := fun _ _ => ?_)) | (with_reducible apply Only.foldl_fst (hg := fun _ _ => ?_)) | split | dsimp only)
theorem confirmAtBlock_step {l₀ : List Part} {s₀ : State} (s : State) (h₀ : Only l₀ s₀ s) (hm : [.regs, .banks, .lanes, .lanePool] ⊆ l₀) : Only l₀ s₀ (confirmAtBlock s) :=
  h₀.step (confirmAtBlock_only s) hm

theorem confirmEnd_only (s : State) : Only [.regs, .lanes, .lanePool] s (confirmEnd s) := by
  unfold confirmEnd
  try dsimp only
  repeat' (first | (with_reducible exact Only.refl _ _) | (with_reducible apply Only.ite) | (with_reducible apply Only.ite_fst) | (with_reducible apply State.laneUp_step (hm := by decide)) | (with_reducible apply State.set_step (hm := by decide)) | (with_reducible apply State.poolUp_step (hm := by decide)) | (with_reducible apply Only.foldl (hg := fun _ _ => ?_)) | (with_reducible apply Only.foldl_fst (hg := fun _ _ => ?_)) | split | dsimp only)
theorem confirmEnd_step {l₀ : List Part} {s₀ : State} (s : State) (h₀ : Only l₀ s₀ s) (hm : [.regs, .lanes, .lanePool] ⊆ l₀) : Only l₀ s₀ (confirmEnd s) :=
  h₀.step (confirmEnd_only s) hm

theorem confirmCount_only (s : State) : Only [.regs, .lanes, .lanePool] s (confirmCount s) := by
  unfold confirmCount
  try dsimp only
  repeat' (first | (with_reducible exact Only.refl _ _) | (with_reducible apply Only.ite) | (with_reducible apply Only.ite_fst) | (with_reducible apply confirmEnd_step (hm := by decide)) | (with_reducible apply State.poolUp_step (hm := by decide)) | (with_reducible apply Only.foldl (hg := fun _ _ => ?_)) | (with_reducible apply Only.foldl_fst (hg := fun _ _ => ?_)) | split | dsimp only)
theorem confirmCount_step {l₀ : List Part} {s₀ : State} (s : State) (h₀ : Only l₀ s₀ s) (hm : [.regs, .lanes, .lanePool] ⊆ l₀) : Only l₀ s₀ (confirmCount s) :=
  h₀.step (confirmCount_only s) hm

theorem abandonDead_only (s : State) (n : Nat) : Only [.regs, .gates, .legs, .lanes, .loops] s (abandonDead s n) := by
  unfold abandonDead
  try dsimp only
  repeat' (first | (with_reducible exact Only.refl _ _) | (with_reducible apply Only.ite) | (with_reducible apply Only.ite_fst) | (with_reducible apply State.laneUp_step (hm := by decide)) | (with_reducible apply laneOverrun_step (hm := by decide)) | (with_reducible apply Only.foldl (hg := fun _ _ => ?_)) | (with_reducible apply Only.foldl_fst (hg := fun _ _ => ?_)) | split | dsimp only)
theorem abandonDead_step {l₀ : List Part} {s₀ : State} (s : State) (n : Nat) (h₀ : Only l₀ s₀ s) (hm : [.regs, .gates, .legs, .lanes, .loops] ⊆ l₀) : Only l₀ s₀ (abandonDead s n) :=
  h₀.step (abandonDead_only s n) hm

theorem laneUe_only (s : State) (n : Nat) : Only [.regs, .banks, .conds, .gates, .legs, .lanes, .loops, .lanePool, .bkg] s (laneUe s n) := by
  unfold laneUe
  try dsimp only
  repeat' (first | (with_reducible exact Only.refl _ _) | (with_reducible apply Only.ite) | (with_reducible apply Only.ite_fst) | (with_reducible apply countMismatch_step (hm := by decide)) | (with_reducible apply State.laneUp_step (hm := by decide)) | (with_reducible apply copyLane_step (hm := by decide)) | (with_reducible apply abandonDead_step (hm := by decide)) | (with_reducible apply State.raise_step (hm := by decide)) | (with_reducible apply retireLaneNow_step (hm := by decide)) | (with_reducible apply State.set_step (hm := by decide)) | (with_reducible apply spareServes_step (hm := by decide)) | (with_reducible apply showSpare_step (hm := by decide)) | (with_reducible apply State.poolUp_step (hm := by decide)) | (with_reducible apply markEvent_step (hm := by decide)) | (with_reducible apply Only.foldl (hg := fun _ _ => ?_)) | (with_reducible apply Only.foldl_fst (hg := fun _ _ => ?_)) | split | dsimp only)
theorem laneUe_step {l₀ : List Part} {s₀ : State} (s : State) (n : Nat) (h₀ : Only l₀ s₀ s) (hm : [.regs, .banks, .conds, .gates, .legs, .lanes, .loops, .lanePool, .bkg] ⊆ l₀) : Only l₀ s₀ (laneUe s n) :=
  h₀.step (laneUe_only s n) hm

theorem forcedSwap_only (s : State) : Only [.regs] s (forcedSwap s) := by
  unfold forcedSwap
  try dsimp only
  repeat' (first | (with_reducible exact Only.refl _ _) | (with_reducible apply Only.ite) | (with_reducible apply Only.ite_fst) | (with_reducible apply State.set_step (hm := by decide)) | (with_reducible apply State.raise_step (hm := by decide)) | (with_reducible apply Only.foldl (hg := fun _ _ => ?_)) | (with_reducible apply Only.foldl_fst (hg := fun _ _ => ?_)) | split | dsimp only)
theorem forcedSwap_step {l₀ : List Part} {s₀ : State} (s : State) (h₀ : Only l₀ s₀ s) (hm : [.regs] ⊆ l₀) : Only l₀ s₀ (forcedSwap s) :=
  h₀.step (forcedSwap_only s) hm

theorem fswapAtBlock_only (s : State) : Only [.regs, .banks, .conds, .lanes, .lanePool] s (fswapAtBlock s) := by
  unfold fswapAtBlock
  try dsimp only
  repeat' (first | (with_reducible exact Only.refl _ _) | (with_reducible apply Only.ite) | (with_reducible apply Only.ite_fst) | (with_reducible apply State.raise_step (hm := by decide)) | (with_reducible apply State.set_step (hm := by decide)) | (with_reducible apply spareServes_step (hm := by decide)) | (with_reducible apply openShadow_step (hm := by decide)) | (with_reducible apply Only.foldl (hg := fun _ _ => ?_)) | (with_reducible apply Only.foldl_fst (hg := fun _ _ => ?_)) | split | dsimp only)
theorem fswapAtBlock_step {l₀ : List Part} {s₀ : State} (s : State) (h₀ : Only l₀ s₀ s) (hm : [.regs, .banks, .conds, .lanes, .lanePool] ⊆ l₀) : Only l₀ s₀ (fswapAtBlock s) :=
  h₀.step (fswapAtBlock_only s) hm

theorem shadowEnable_only (s : State) : Only [.lanePool] s (shadowEnable s) := by
  unfold shadowEnable
  try dsimp only
  repeat' (first | (with_reducible exact Only.refl _ _) | (with_reducible apply Only.ite) | (with_reducible apply Only.ite_fst) | (with_reducible apply State.poolUp_step (hm := by decide)) | (with_reducible apply Only.foldl (hg := fun _ _ => ?_)) | (with_reducible apply Only.foldl_fst (hg := fun _ _ => ?_)) | split | dsimp only)
theorem shadowEnable_step {l₀ : List Part} {s₀ : State} (s : State) (h₀ : Only l₀ s₀ s) (hm : [.lanePool] ⊆ l₀) : Only l₀ s₀ (shadowEnable s) :=
  h₀.step (shadowEnable_only s) hm

theorem State.trcUp_only (s : State) (b : Nat) (f : TraceBuf → TraceBuf) : Only [.trace] s (State.trcUp s b f) := by
  unfold State.trcUp
  try dsimp only
  repeat' (first | (with_reducible exact Only.refl _ _) | (with_reducible apply Only.ite) | (with_reducible apply Only.ite_fst) | (with_reducible apply Only.foldl (hg := fun _ _ => ?_)) | (with_reducible apply Only.foldl_fst (hg := fun _ _ => ?_)) | split | dsimp only | (with_reducible apply only_with_trace_step (hm := by decide)))
theorem State.trcUp_step {l₀ : List Part} {s₀ : State} (s : State) (b : Nat) (f : TraceBuf → TraceBuf) (h₀ : Only l₀ s₀ s) (hm : [.trace] ⊆ l₀) : Only l₀ s₀ (State.trcUp s b f) :=
  h₀.step (State.trcUp_only s b f) hm

theorem trcEnter_only (s : State) (b st : Nat) : Only [.regs] s (trcEnter s b st) := by
  unfold trcEnter
  try dsimp only
  repeat' (first | (with_reducible exact Only.refl _ _) | (with_reducible apply Only.ite) | (with_reducible apply Only.ite_fst) | (with_reducible apply State.set_step (hm := by decide)) | (with_reducible apply State.setB_step (hm := by decide)) | (with_reducible apply Only.foldl (hg := fun _ _ => ?_)) | (with_reducible apply Only.foldl_fst (hg := fun _ _ => ?_)) | split | dsimp only)
theorem trcEnter_step {l₀ : List Part} {s₀ : State} (s : State) (b st : Nat) (h₀ : Only l₀ s₀ s) (hm : [.regs] ⊆ l₀) : Only l₀ s₀ (trcEnter s b st) :=
  h₀.step (trcEnter_only s b st) hm

theorem traceArm_only (s : State) (b : Nat) : Only [.regs, .trace] s (traceArm s b) := by
  unfold traceArm
  try dsimp only
  repeat' (first | (with_reducible exact Only.refl _ _) | (with_reducible apply Only.ite) | (with_reducible apply Only.ite_fst) | (with_reducible apply State.set_step (hm := by decide)) | (with_reducible apply State.trcUp_step (hm := by decide)) | (with_reducible apply trcEnter_step (hm := by decide)) | (with_reducible apply Only.foldl (hg := fun _ _ => ?_)) | (with_reducible apply Only.foldl_fst (hg := fun _ _ => ?_)) | split | dsimp only)
theorem traceArm_step {l₀ : List Part} {s₀ : State} (s : State) (b : Nat) (h₀ : Only l₀ s₀ s) (hm : [.regs, .trace] ⊆ l₀) : Only l₀ s₀ (traceArm s b) :=
  h₀.step (traceArm_only s b) hm

theorem traceForce_only (s : State) (b : Nat) : Only [.trace] s (traceForce s b) := by
  unfold traceForce
  try dsimp only
  repeat' (first | (with_reducible exact Only.refl _ _) | (with_reducible apply Only.ite) | (with_reducible apply Only.ite_fst) | (with_reducible apply State.trcUp_step (hm := by decide)) | (with_reducible apply Only.foldl (hg := fun _ _ => ?_)) | (with_reducible apply Only.foldl_fst (hg := fun _ _ => ?_)) | split | dsimp only)
theorem traceForce_step {l₀ : List Part} {s₀ : State} (s : State) (b : Nat) (h₀ : Only l₀ s₀ s) (hm : [.trace] ⊆ l₀) : Only l₀ s₀ (traceForce s b) :=
  h₀.step (traceForce_only s b) hm

theorem traceStop_only (s : State) (b : Nat) : Only [.regs] s (traceStop s b) := by
  unfold traceStop
  try dsimp only
  repeat' (first | (with_reducible exact Only.refl _ _) | (with_reducible apply Only.ite) | (with_reducible apply Only.ite_fst) | (with_reducible apply trcEnter_step (hm := by decide)) | (with_reducible apply Only.foldl (hg := fun _ _ => ?_)) | (with_reducible apply Only.foldl_fst (hg := fun _ _ => ?_)) | split | dsimp only)
theorem traceStop_step {l₀ : List Part} {s₀ : State} (s : State) (b : Nat) (h₀ : Only l₀ s₀ s) (hm : [.regs] ⊆ l₀) : Only l₀ s₀ (traceStop s b) :=
  h₀.step (traceStop_only s b) hm

theorem writeTrcCtrl_only (s : State) (b : Nat) (v : Word) : Only [.regs, .trace] s (writeTrcCtrl s b v) := by
  unfold writeTrcCtrl
  try dsimp only
  repeat' (first | (with_reducible exact Only.refl _ _) | (with_reducible apply Only.ite) | (with_reducible apply Only.ite_fst) | (with_reducible apply traceForce_step (hm := by decide)) | (with_reducible apply traceStop_step (hm := by decide)) | (with_reducible apply traceArm_step (hm := by decide)) | (with_reducible apply Only.foldl (hg := fun _ _ => ?_)) | (with_reducible apply Only.foldl_fst (hg := fun _ _ => ?_)) | split | dsimp only)
theorem writeTrcCtrl_step {l₀ : List Part} {s₀ : State} (s : State) (b : Nat) (v : Word) (h₀ : Only l₀ s₀ s) (hm : [.regs, .trace] ⊆ l₀) : Only l₀ s₀ (writeTrcCtrl s b v) :=
  h₀.step (writeTrcCtrl_only s b v) hm

theorem writeTrc_only (s : State) (b p : Nat) (v : Word) : Only [.regs, .heldU, .heldB] s (writeTrc s b p v) := by
  unfold writeTrc
  try dsimp only
  repeat' (first | (with_reducible exact Only.refl _ _) | (with_reducible apply Only.ite) | (with_reducible apply Only.ite_fst) | (with_reducible apply State.raise_step (hm := by decide)) | (with_reducible apply storeCoded_step (hm := by decide)) | (with_reducible apply Only.foldl (hg := fun _ _ => ?_)) | (with_reducible apply Only.foldl_fst (hg := fun _ _ => ?_)) | split | dsimp only)
theorem writeTrc_step {l₀ : List Part} {s₀ : State} (s : State) (b p : Nat) (v : Word) (h₀ : Only l₀ s₀ s) (hm : [.regs, .heldU, .heldB] ⊆ l₀) : Only l₀ s₀ (writeTrc s b p v) :=
  h₀.step (writeTrc_only s b p v) hm

theorem trcWrite_only (s : State) (b : Nat) (full : Bool) (out : List Word) : Only [.regs, .trace] s (trcWrite s b full out).1 := by
  unfold trcWrite
  try dsimp only
  repeat' (first | (with_reducible exact Only.refl _ _) | (with_reducible apply Only.ite) | (with_reducible apply Only.ite_fst) | (with_reducible apply State.raise_step (hm := by decide)) | (with_reducible apply State.trcUp_step (hm := by decide)) | (with_reducible apply State.set_step (hm := by decide)) | (with_reducible apply trcEnter_step (hm := by decide)) | (with_reducible apply Only.foldl (hg := fun _ _ => ?_)) | (with_reducible apply Only.foldl_fst (hg := fun _ _ => ?_)) | split | dsimp only)
theorem trcWrite_step {l₀ : List Part} {s₀ : State} (s : State) (b : Nat) (full : Bool) (out : List Word) (h₀ : Only l₀ s₀ s) (hm : [.regs, .trace] ⊆ l₀) : Only l₀ s₀ (trcWrite s b full out).1 :=
  h₀.step (trcWrite_only s b full out) hm

theorem traceAtUpdate_only (s : State) : Only [.regs, .gates, .loops, .trace] s (traceAtUpdate s) := by
  unfold traceAtUpdate
  try dsimp only
  repeat' (first | (with_reducible exact Only.refl _ _) | (with_reducible apply Only.ite) | (with_reducible apply Only.ite_fst) | (with_reducible apply State.trcUp_step (hm := by decide)) | (with_reducible apply trcWrite_step (hm := by decide)) | (with_reducible apply gatePush_step (hm := by decide)) | (with_reducible apply Only.foldl (hg := fun _ _ => ?_)) | (with_reducible apply Only.foldl_fst (hg := fun _ _ => ?_)) | (with_reducible refine Only.of_fst (by assumption) ?_) | split | dsimp only | (with_reducible apply only_with_trace_step (hm := by decide)) | (with_reducible apply only_with_loops_step (hm := by decide)))
theorem traceAtUpdate_step {l₀ : List Part} {s₀ : State} (s : State) (h₀ : Only l₀ s₀ s) (hm : [.regs, .gates, .loops, .trace] ⊆ l₀) : Only l₀ s₀ (traceAtUpdate s) :=
  h₀.step (traceAtUpdate_only s) hm

theorem traceStore_only (s : State) (n : Nat) (ws : List Word) : Only [.banks] s (traceStore s n ws) := by
  fun_induction traceStore s n ws with
  | case1 => rename_i ih; refine Only.trans ?_ ih; (repeat' (first | (with_reducible exact Only.refl _ _) | (with_reducible apply State.putBank_step (hm := by decide))))
  | case2 => exact Only.refl _ _
theorem traceStore_step {l₀ : List Part} {s₀ : State} (s : State) (n : Nat) (ws : List Word) (h₀ : Only l₀ s₀ s) (hm : [.banks] ⊆ l₀) : Only l₀ s₀ (traceStore s n ws) :=
  h₀.step (traceStore_only s n ws) hm

theorem traceRead_only (s : State) : Only [.regs, .rdata] s (traceRead s) := by
  unfold traceRead
  try dsimp only
  repeat' (first | (with_reducible exact Only.refl _ _) | (with_reducible apply Only.ite) | (with_reducible apply Only.ite_fst) | (with_reducible apply State.raise_step (hm := by decide)) | (with_reducible apply State.set_step (hm := by decide)) | (with_reducible apply State.answer_step (hm := by decide)) | (with_reducible apply Only.foldl (hg := fun _ _ => ?_)) | (with_reducible apply Only.foldl_fst (hg := fun _ _ => ?_)) | split | dsimp only)
theorem traceRead_step {l₀ : List Part} {s₀ : State} (s : State) (h₀ : Only l₀ s₀ s) (hm : [.regs, .rdata] ⊆ l₀) : Only l₀ s₀ (traceRead s) :=
  h₀.step (traceRead_only s) hm

theorem clrPk_only (s : State) (c : Nat) : Only [.regs] s (clrPk s c) := by
  unfold clrPk
  try dsimp only
  repeat' (first | (with_reducible exact Only.refl _ _) | (with_reducible apply Only.ite) | (with_reducible apply Only.ite_fst) | (with_reducible apply State.set_step (hm := by decide)) | (with_reducible apply Only.foldl (hg := fun _ _ => ?_)) | (with_reducible apply Only.foldl_fst (hg := fun _ _ => ?_)) | split | dsimp only)
theorem clrPk_step {l₀ : List Part} {s₀ : State} (s : State) (c : Nat) (h₀ : Only l₀ s₀ s) (hm : [.regs] ⊆ l₀) : Only l₀ s₀ (clrPk s c) :=
  h₀.step (clrPk_only s c) hm

theorem clrMin_only (s : State) (c : Nat) : Only [.regs] s (clrMin s c) := by
  unfold clrMin
  try dsimp only
  repeat' (first | (with_reducible exact Only.refl _ _) | (with_reducible apply Only.ite) | (with_reducible apply Only.ite_fst) | (with_reducible apply State.set_step (hm := by decide)) | (with_reducible apply Only.foldl (hg := fun _ _ => ?_)) | (with_reducible apply Only.foldl_fst (hg := fun _ _ => ?_)) | split | dsimp only)
theorem clrMin_step {l₀ : List Part} {s₀ : State} (s : State) (c : Nat) (h₀ : Only l₀ s₀ s) (hm : [.regs] ⊆ l₀) : Only l₀ s₀ (clrMin s c) :=
  h₀.step (clrMin_only s c) hm

theorem writeOctl_only (s : State) (c : Nat) (v : Word) : Only [.regs] s (writeOctl s c v) := by
  unfold writeOctl
  try dsimp only
  repeat' (first | (with_reducible exact Only.refl _ _) | (with_reducible apply Only.ite) | (with_reducible apply Only.ite_fst) | (with_reducible apply clrPk_step (hm := by decide)) | (with_reducible apply clrMin_step (hm := by decide)) | (with_reducible apply Only.foldl (hg := fun _ _ => ?_)) | (with_reducible apply Only.foldl_fst (hg := fun _ _ => ?_)) | split | dsimp only)
theorem writeOctl_step {l₀ : List Part} {s₀ : State} (s : State) (c : Nat) (v : Word) (h₀ : Only l₀ s₀ s) (hm : [.regs] ⊆ l₀) : Only l₀ s₀ (writeOctl s c v) :=
  h₀.step (writeOctl_only s c v) hm

theorem injectionAtBlock_only (s : State) (c : Nat) : Only [.loops] s (injectionAtBlock s c) := by
  unfold injectionAtBlock
  try dsimp only
  repeat' (first | (with_reducible exact Only.refl _ _) | (with_reducible apply Only.ite) | (with_reducible apply Only.ite_fst) | (with_reducible apply State.loopUp_step (hm := by decide)) | (with_reducible apply Only.foldl (hg := fun _ _ => ?_)) | (with_reducible apply Only.foldl_fst (hg := fun _ _ => ?_)) | split | dsimp only)
theorem injectionAtBlock_step {l₀ : List Part} {s₀ : State} (s : State) (c : Nat) (h₀ : Only l₀ s₀ s) (hm : [.loops] ⊆ l₀) : Only l₀ s₀ (injectionAtBlock s c) :=
  h₀.step (injectionAtBlock_only s c) hm

theorem injectionToggle_only (s : State) (c : Nat) : Only [.loops] s (injectionToggle s c) := by
  unfold injectionToggle
  try dsimp only
  repeat' (first | (with_reducible exact Only.refl _ _) | (with_reducible apply Only.ite) | (with_reducible apply Only.ite_fst) | (with_reducible apply State.loopUp_step (hm := by decide)) | (with_reducible apply Only.foldl (hg := fun _ _ => ?_)) | (with_reducible apply Only.foldl_fst (hg := fun _ _ => ?_)) | split | dsimp only)
theorem injectionToggle_step {l₀ : List Part} {s₀ : State} (s : State) (c : Nat) (h₀ : Only l₀ s₀ s) (hm : [.loops] ⊆ l₀) : Only l₀ s₀ (injectionToggle s c) :=
  h₀.step (injectionToggle_only s c) hm

theorem startLane_only (s : State) (n : Nat) : Only [.lanes] s (startLane s n) := by
  unfold startLane
  try dsimp only
  repeat' (first | (with_reducible exact Only.refl _ _) | (with_reducible apply Only.ite) | (with_reducible apply Only.ite_fst) | (with_reducible apply State.laneUp_step (hm := by decide)) | (with_reducible apply Only.foldl (hg := fun _ _ => ?_)) | (with_reducible apply Only.foldl_fst (hg := fun _ _ => ?_)) | split | dsimp only)
theorem startLane_step {l₀ : List Part} {s₀ : State} (s : State) (n : Nat) (h₀ : Only l₀ s₀ s) (hm : [.lanes] ⊆ l₀) : Only l₀ s₀ (startLane s n) :=
  h₀.step (startLane_only s n) hm

theorem freshLoop_only (s : State) (c : Nat) : Only [.regs, .loops] s (freshLoop s c) := by
  unfold freshLoop
  try dsimp only
  repeat' (first | (with_reducible exact Only.refl _ _) | (with_reducible apply Only.ite) | (with_reducible apply Only.ite_fst) | (with_reducible apply State.loopUp_step (hm := by decide)) | (with_reducible apply State.set_step (hm := by decide)) | (with_reducible apply Only.foldl (hg := fun _ _ => ?_)) | (with_reducible apply Only.foldl_fst (hg := fun _ _ => ?_)) | split | dsimp only)
theorem freshLoop_step {l₀ : List Part} {s₀ : State} (s : State) (c : Nat) (h₀ : Only l₀ s₀ s) (hm : [.regs, .loops] ⊆ l₀) : Only l₀ s₀ (freshLoop s c) :=
  h₀.step (freshLoop_only s c) hm

theorem lanesStart_only (s : State) : Only [.regs, .pwm, .lanes, .loops, .lanePool] s (lanesStart s) := by
  unfold lanesStart
  try dsimp only
  repeat' (first | (with_reducible exact Only.refl _ _) | (with_reducible apply Only.ite) | (with_reducible apply Only.ite_fst) | (with_reducible apply startLane_step (hm := by decide)) | (with_reducible apply freshLoop_step (hm := by decide)) | (with_reducible apply Only.foldl (hg := fun _ _ => ?_)) | (with_reducible apply Only.foldl_fst (hg := fun _ _ => ?_)) | split | dsimp only | (with_reducible apply only_with_pwm_loops_lanePool_step (hm := by decide)) | (with_reducible apply only_with_loops_step (hm := by decide)))
theorem lanesStart_step {l₀ : List Part} {s₀ : State} (s : State) (h₀ : Only l₀ s₀ s) (hm : [.regs, .pwm, .lanes, .loops, .lanePool] ⊆ l₀) : Only l₀ s₀ (lanesStart s) :=
  h₀.step (lanesStart_only s) hm

theorem lanesEnd_only (s : State) : Only [.regs, .conds, .gates, .legs, .lanes, .loops, .lanePool, .trace, .bkg] s (lanesEnd s) := by
  unfold lanesEnd
  try dsimp only
  repeat' (first | (with_reducible exact Only.refl _ _) | (with_reducible apply Only.ite) | (with_reducible apply Only.ite_fst) | (with_reducible apply mismatch_step (hm := by decide)) | (with_reducible apply closeLane_step (hm := by decide)) | (with_reducible apply judgeUpdate_step (hm := by decide)) | (with_reducible apply traceAtUpdate_step (hm := by decide)) | (with_reducible apply endComparison_step (hm := by decide)) | (with_reducible apply markEvent_step (hm := by decide)) | (with_reducible apply Only.foldl (hg := fun _ _ => ?_)) | (with_reducible apply Only.foldl_fst (hg := fun _ _ => ?_)) | split | dsimp only)
theorem lanesEnd_step {l₀ : List Part} {s₀ : State} (s : State) (h₀ : Only l₀ s₀ s) (hm : [.regs, .conds, .gates, .legs, .lanes, .loops, .lanePool, .trace, .bkg] ⊆ l₀) : Only l₀ s₀ (lanesEnd s) :=
  h₀.step (lanesEnd_only s) hm

theorem programsAtUpdate_only (s : State) : Only [.regs, .banks, .lanes, .loops] s (programsAtUpdate s) := by
  unfold programsAtUpdate
  try dsimp only
  repeat' (first | (with_reducible exact Only.refl _ _) | (with_reducible apply Only.ite) | (with_reducible apply Only.ite_fst) | (with_reducible apply exchangeBanks_step (hm := by decide)) | (with_reducible apply impedanceAtBlock_step (hm := by decide)) | (with_reducible apply queueAtUpdate_step (hm := by decide)) | (with_reducible apply Only.foldl (hg := fun _ _ => ?_)) | (with_reducible apply Only.foldl_fst (hg := fun _ _ => ?_)) | split | dsimp only)
theorem programsAtUpdate_step {l₀ : List Part} {s₀ : State} (s : State) (h₀ : Only l₀ s₀ s) (hm : [.regs, .banks, .lanes, .loops] ⊆ l₀) : Only l₀ s₀ (programsAtUpdate s) :=
  h₀.step (programsAtUpdate_only s) hm

theorem loopAtBlock_only (s : State) : Only [.regs, .banks, .conds, .lanes, .loops, .lanePool] s (loopAtBlock s) := by
  unfold loopAtBlock
  try dsimp only
  repeat' (first | (with_reducible exact Only.refl _ _) | (with_reducible apply Only.ite) | (with_reducible apply Only.ite_fst) | (with_reducible apply shadowSlotOpen_step (hm := by decide)) | (with_reducible apply confirmAtBlock_step (hm := by decide)) | (with_reducible apply swapNowAtBlock_step (hm := by decide)) | (with_reducible apply fswapAtBlock_step (hm := by decide)) | (with_reducible apply injectionAtBlock_step (hm := by decide)) | (with_reducible apply confirmCount_step (hm := by decide)) | (with_reducible apply Only.foldl (hg := fun _ _ => ?_)) | (with_reducible apply Only.foldl_fst (hg := fun _ _ => ?_)) | split | dsimp only)
theorem loopAtBlock_step {l₀ : List Part} {s₀ : State} (s : State) (h₀ : Only l₀ s₀ s) (hm : [.regs, .banks, .conds, .lanes, .loops, .lanePool] ⊆ l₀) : Only l₀ s₀ (loopAtBlock s) :=
  h₀.step (loopAtBlock_only s) hm

/-! ### The canonical form -/

theorem State.poolUp_wf (s : State) (f : LanePool → LanePool) (h₀ : Memory.wf s = true) : Memory.wf (State.poolUp s f) = true :=
  Only.wf (State.poolUp_only s f) (by decide) h₀

theorem countSlack_wf (s : State) (c : Nat) (h₀ : Memory.wf s = true) : Memory.wf (countSlack s c) = true := by
  unfold countSlack
  try dsimp only
  repeat' (first | (with_reducible assumption) | (with_reducible apply wf_ite) | (with_reducible apply wf_ite_fst) | (with_reducible apply State.set_wf) | (with_reducible apply wf_foldl (hg := fun _ _ _ => ?_)) | (with_reducible apply wf_foldl_fst (hg := fun _ _ _ => ?_)) | split | dsimp only)

theorem followError_wf (s : State) (c : Nat) (h₀ : Memory.wf s = true) : Memory.wf (followError s c) = true := by
  unfold followError
  try dsimp only
  repeat' (first | (with_reducible assumption) | (with_reducible apply wf_ite) | (with_reducible apply wf_ite_fst) | (with_reducible apply gatePush_wf) | (with_reducible apply State.set_wf) | (with_reducible apply markEvent_wf) | (with_reducible apply State.loopUp_wf) | (with_reducible apply State.raise_wf) | (with_reducible apply State.cond_wf) | (with_reducible apply wf_foldl (hg := fun _ _ _ => ?_)) | (with_reducible apply wf_foldl_fst (hg := fun _ _ _ => ?_)) | split | dsimp only)

theorem writeFe_wf (s : State) (c : Nat) (v : Word) (h₀ : Memory.wf s = true) : Memory.wf (writeFe s c v) = true := by
  unfold writeFe
  try dsimp only
  repeat' (first | (with_reducible assumption) | (with_reducible apply wf_ite) | (with_reducible apply wf_ite_fst) | (with_reducible apply storeCoded_wf) | (with_reducible apply wf_foldl (hg := fun _ _ _ => ?_)) | (with_reducible apply wf_foldl_fst (hg := fun _ _ _ => ?_)) | split | dsimp only)

theorem closeLane_wf (s : State) (n : Nat) (h₀ : Memory.wf s = true) : Memory.wf (closeLane s n) = true := by
  unfold closeLane
  try dsimp only
  repeat' (first | (with_reducible assumption) | (with_reducible apply wf_ite) | (with_reducible apply wf_ite_fst) | (with_reducible apply laneOverrun_wf) | (with_reducible apply State.laneUp_wf) | (with_reducible apply wf_foldl (hg := fun _ _ _ => ?_)) | (with_reducible apply wf_foldl_fst (hg := fun _ _ _ => ?_)) | split | dsimp only)

theorem judgeUpdate_wf (s : State) (c : Nat) (h₀ : Memory.wf s = true) : Memory.wf (judgeUpdate s c) = true := by
  unfold judgeUpdate
  try dsimp only
  repeat' (first | (with_reducible assumption) | (with_reducible apply wf_ite) | (with_reducible apply wf_ite_fst) | (with_reducible apply followError_wf) | (with_reducible apply overrunTrip_wf) | (with_reducible apply markEvent_wf) | (with_reducible apply countSlack_wf) | (with_reducible apply State.loopUp_wf) | (with_reducible apply State.cond_wf) | (with_reducible apply wf_foldl (hg := fun _ _ _ => ?_)) | (with_reducible apply wf_foldl_fst (hg := fun _ _ _ => ?_)) | split | dsimp only)

theorem copyLane_wf (s : State) (src dst : Nat) (h₀ : Memory.wf s = true) : Memory.wf (copyLane s src dst) = true := by
  unfold copyLane
  try dsimp only
  repeat' (first | (with_reducible assumption) | (with_reducible apply wf_ite) | (with_reducible apply wf_ite_fst) | (with_reducible apply State.putBank_wf) | (with_reducible apply State.set_wf) | (with_reducible apply wf_foldl (hg := fun _ _ _ => ?_)) | (with_reducible apply wf_foldl_fst (hg := fun _ _ _ => ?_)) | split | dsimp only | (with_reducible apply wf_with_lanes))

theorem showSpare_wf (s : State) (h₀ : Memory.wf s = true) : Memory.wf (showSpare s) = true := by
  unfold showSpare
  try dsimp only
  repeat' (first | (with_reducible assumption) | (with_reducible apply wf_ite) | (with_reducible apply wf_ite_fst) | (with_reducible apply State.cond_wf) | (with_reducible apply wf_foldl (hg := fun _ _ _ => ?_)) | (with_reducible apply wf_foldl_fst (hg := fun _ _ _ => ?_)) | split | dsimp only)

theorem retireLaneNow_wf (s : State) (n : Nat) (h₀ : Memory.wf s = true) : Memory.wf (retireLaneNow s n) = true := by
  unfold retireLaneNow
  try dsimp only
  repeat' (first | (with_reducible assumption) | (with_reducible apply wf_ite) | (with_reducible apply wf_ite_fst) | (with_reducible apply queueRetire_wf) | (with_reducible apply State.set_wf) | (with_reducible apply State.raise_wf) | (with_reducible apply wf_foldl (hg := fun _ _ _ => ?_)) | (with_reducible apply wf_foldl_fst (hg := fun _ _ _ => ?_)) | split | dsimp only)

theorem spareServes_wf (s : State) (c sp : Nat) (h₀ : Memory.wf s = true) : Memory.wf (spareServes s c sp) = true := by
  unfold spareServes
  try dsimp only
  repeat' (first | (with_reducible assumption) | (with_reducible apply wf_ite) | (with_reducible apply wf_ite_fst) | (with_reducible apply State.poolUp_wf) | (with_reducible apply State.set_wf) | (with_reducible apply State.laneUp_wf) | (with_reducible apply State.raise_wf) | (with_reducible apply showSpare_wf) | (with_reducible apply wf_foldl (hg := fun _ _ _ => ?_)) | (with_reducible apply wf_foldl_fst (hg := fun _ _ _ => ?_)) | split | dsimp only)

theorem countMismatch_wf (s : State) (c : Nat) (ue : Bool) (h₀ : Memory.wf s = true) : Memory.wf (countMismatch s c ue) = true := by
  unfold countMismatch
  try dsimp only
  repeat' (first | (with_reducible assumption) | (with_reducible apply wf_ite) | (with_reducible apply wf_ite_fst) | (with_reducible apply State.wr_wf) | (with_reducible apply State.raise_wf) | (with_reducible apply wf_foldl (hg := fun _ _ _ => ?_)) | (with_reducible apply wf_foldl_fst (hg := fun _ _ _ => ?_)) | split | dsimp only)

theorem mismatch_wf (s : State) (c : Nat) (h₀ : Memory.wf s = true) : Memory.wf (mismatch s c) = true := by
  unfold mismatch
  try dsimp only
  repeat' (first | (with_reducible assumption) | (with_reducible apply wf_ite) | (with_reducible apply wf_ite_fst) | (with_reducible apply countMismatch_wf) | (with_reducible apply retireLaneNow_wf) | (with_reducible apply spareServes_wf) | (with_reducible apply State.poolUp_wf) | (with_reducible apply State.set_wf) | (with_reducible apply State.laneUp_wf) | (with_reducible apply State.raise_wf) | (with_reducible apply showSpare_wf) | (with_reducible apply wf_foldl (hg := fun _ _ _ => ?_)) | (with_reducible apply wf_foldl_fst (hg := fun _ _ _ => ?_)) | split | dsimp only)

theorem endComparison_wf (s : State) (h₀ : Memory.wf s = true) : Memory.wf (endComparison s) = true :=
  Only.wf (endComparison_only s) (by decide) h₀

theorem openShadow_wf (s : State) (c sp : Nat) (h₀ : Memory.wf s = true) : Memory.wf (openShadow s c sp) = true := by
  unfold openShadow
  try dsimp only
  repeat' (first | (with_reducible assumption) | (with_reducible apply wf_ite) | (with_reducible apply wf_ite_fst) | (with_reducible apply copyLane_wf) | (with_reducible apply wf_foldl (hg := fun _ _ _ => ?_)) | (with_reducible apply wf_foldl_fst (hg := fun _ _ _ => ?_)) | split | dsimp only)

theorem shadowSlotOpen_wf (s : State) (h₀ : Memory.wf s = true) : Memory.wf (shadowSlotOpen s) = true := by
  unfold shadowSlotOpen
  try dsimp only
  repeat' (first | (with_reducible assumption) | (with_reducible apply wf_ite) | (with_reducible apply wf_ite_fst) | (with_reducible apply State.poolUp_wf) | (with_reducible apply State.set_wf) | (with_reducible apply openShadow_wf) | (with_reducible apply State.laneUp_wf) | (with_reducible apply wf_foldl (hg := fun _ _ _ => ?_)) | (with_reducible apply wf_foldl_fst (hg := fun _ _ _ => ?_)) | split | dsimp only)

theorem selfTestDone_wf (s : State) (n : Nat) (pass : Bool) (h₀ : Memory.wf s = true) : Memory.wf (selfTestDone s n pass) = true := by
  unfold selfTestDone
  try dsimp only
  repeat' (first | (with_reducible assumption) | (with_reducible apply wf_ite) | (with_reducible apply wf_ite_fst) | (with_reducible apply retireLaneNow_wf) | (with_reducible apply State.set_wf) | (with_reducible apply showSpare_wf) | (with_reducible apply State.poolUp_wf) | (with_reducible apply wf_foldl (hg := fun _ _ _ => ?_)) | (with_reducible apply wf_foldl_fst (hg := fun _ _ _ => ?_)) | split | dsimp only)

theorem confirmAtBlock_wf (s : State) (h₀ : Memory.wf s = true) : Memory.wf (confirmAtBlock s) = true := by
  unfold confirmAtBlock
  try dsimp only
  repeat' (first | (with_reducible assumption) | (with_reducible apply wf_ite) | (with_reducible apply wf_ite_fst) | (with_reducible apply openShadow_wf) | (with_reducible apply State.poolUp_wf) | (with_reducible apply wf_foldl (hg := fun _ _ _ => ?_)) | (with_reducible apply wf_foldl_fst (hg := fun _ _ _ => ?_)) | split | dsimp only)

theorem confirmEnd_wf (s : State) (h₀ : Memory.wf s = true) : Memory.wf (confirmEnd s) = true := by
  unfold confirmEnd
  try dsimp only
  repeat' (first | (with_reducible assumption) | (with_reducible apply wf_ite) | (with_reducible apply wf_ite_fst) | (with_reducible apply State.poolUp_wf) | (with_reducible apply State.set_wf) | (with_reducible apply State.laneUp_wf) | (with_reducible apply wf_foldl (hg := fun _ _ _ => ?_)) | (with_reducible apply wf_foldl_fst (hg := fun _ _ _ => ?_)) | split | dsimp only)

theorem confirmCount_wf (s : State) (h₀ : Memory.wf s = true) : Memory.wf (confirmCount s) = true := by
  unfold confirmCount
  try dsimp only
  repeat' (first | (with_reducible assumption) | (with_reducible apply wf_ite) | (with_reducible apply wf_ite_fst) | (with_reducible apply confirmEnd_wf) | (with_reducible apply State.poolUp_wf) | (with_reducible apply wf_foldl (hg := fun _ _ _ => ?_)) | (with_reducible apply wf_foldl_fst (hg := fun _ _ _ => ?_)) | split | dsimp only)

theorem abandonDead_wf (s : State) (n : Nat) (h₀ : Memory.wf s = true) : Memory.wf (abandonDead s n) = true := by
  unfold abandonDead
  try dsimp only
  repeat' (first | (with_reducible assumption) | (with_reducible apply wf_ite) | (with_reducible apply wf_ite_fst) | (with_reducible apply laneOverrun_wf) | (with_reducible apply State.laneUp_wf) | (with_reducible apply wf_foldl (hg := fun _ _ _ => ?_)) | (with_reducible apply wf_foldl_fst (hg := fun _ _ _ => ?_)) | split | dsimp only)

theorem laneUe_wf (s : State) (n : Nat) (h₀ : Memory.wf s = true) : Memory.wf (laneUe s n) = true := by
  unfold laneUe
  try dsimp only
  repeat' (first | (with_reducible assumption) | (with_reducible apply wf_ite) | (with_reducible apply wf_ite_fst) | (with_reducible apply abandonDead_wf) | (with_reducible apply countMismatch_wf) | (with_reducible apply retireLaneNow_wf) | (with_reducible apply spareServes_wf) | (with_reducible apply State.poolUp_wf) | (with_reducible apply copyLane_wf) | (with_reducible apply State.set_wf) | (with_reducible apply markEvent_wf) | (with_reducible apply State.laneUp_wf) | (with_reducible apply State.raise_wf) | (with_reducible apply showSpare_wf) | (with_reducible apply wf_foldl (hg := fun _ _ _ => ?_)) | (with_reducible apply wf_foldl_fst (hg := fun _ _ _ => ?_)) | split | dsimp only)

theorem forcedSwap_wf (s : State) (h₀ : Memory.wf s = true) : Memory.wf (forcedSwap s) = true := by
  unfold forcedSwap
  try dsimp only
  repeat' (first | (with_reducible assumption) | (with_reducible apply wf_ite) | (with_reducible apply wf_ite_fst) | (with_reducible apply State.set_wf) | (with_reducible apply State.raise_wf) | (with_reducible apply wf_foldl (hg := fun _ _ _ => ?_)) | (with_reducible apply wf_foldl_fst (hg := fun _ _ _ => ?_)) | split | dsimp only)

theorem fswapAtBlock_wf (s : State) (h₀ : Memory.wf s = true) : Memory.wf (fswapAtBlock s) = true := by
  unfold fswapAtBlock
  try dsimp only
  repeat' (first | (with_reducible assumption) | (with_reducible apply wf_ite) | (with_reducible apply wf_ite_fst) | (with_reducible apply State.raise_wf) | (with_reducible apply spareServes_wf) | (with_reducible apply State.set_wf) | (with_reducible apply openShadow_wf) | (with_reducible apply wf_foldl (hg := fun _ _ _ => ?_)) | (with_reducible apply wf_foldl_fst (hg := fun _ _ _ => ?_)) | split | dsimp only)

theorem shadowEnable_wf (s : State) (h₀ : Memory.wf s = true) : Memory.wf (shadowEnable s) = true :=
  Only.wf (shadowEnable_only s) (by decide) h₀

theorem State.trcUp_wf (s : State) (b : Nat) (f : TraceBuf → TraceBuf) (h₀ : Memory.wf s = true) : Memory.wf (State.trcUp s b f) = true :=
  Only.wf (State.trcUp_only s b f) (by decide) h₀

theorem trcEnter_wf (s : State) (b st : Nat) (h₀ : Memory.wf s = true) : Memory.wf (trcEnter s b st) = true := by
  unfold trcEnter
  try dsimp only
  repeat' (first | (with_reducible assumption) | (with_reducible apply wf_ite) | (with_reducible apply wf_ite_fst) | (with_reducible apply State.setB_wf) | (with_reducible apply State.set_wf) | (with_reducible apply wf_foldl (hg := fun _ _ _ => ?_)) | (with_reducible apply wf_foldl_fst (hg := fun _ _ _ => ?_)) | split | dsimp only)

theorem traceArm_wf (s : State) (b : Nat) (h₀ : Memory.wf s = true) : Memory.wf (traceArm s b) = true := by
  unfold traceArm
  try dsimp only
  repeat' (first | (with_reducible assumption) | (with_reducible apply wf_ite) | (with_reducible apply wf_ite_fst) | (with_reducible apply trcEnter_wf) | (with_reducible apply State.set_wf) | (with_reducible apply State.trcUp_wf) | (with_reducible apply wf_foldl (hg := fun _ _ _ => ?_)) | (with_reducible apply wf_foldl_fst (hg := fun _ _ _ => ?_)) | split | dsimp only)

theorem traceForce_wf (s : State) (b : Nat) (h₀ : Memory.wf s = true) : Memory.wf (traceForce s b) = true :=
  Only.wf (traceForce_only s b) (by decide) h₀

theorem traceStop_wf (s : State) (b : Nat) (h₀ : Memory.wf s = true) : Memory.wf (traceStop s b) = true := by
  unfold traceStop
  try dsimp only
  repeat' (first | (with_reducible assumption) | (with_reducible apply wf_ite) | (with_reducible apply wf_ite_fst) | (with_reducible apply trcEnter_wf) | (with_reducible apply wf_foldl (hg := fun _ _ _ => ?_)) | (with_reducible apply wf_foldl_fst (hg := fun _ _ _ => ?_)) | split | dsimp only)

theorem writeTrcCtrl_wf (s : State) (b : Nat) (v : Word) (h₀ : Memory.wf s = true) : Memory.wf (writeTrcCtrl s b v) = true := by
  unfold writeTrcCtrl
  try dsimp only
  repeat' (first | (with_reducible assumption) | (with_reducible apply wf_ite) | (with_reducible apply wf_ite_fst) | (with_reducible apply traceArm_wf) | (with_reducible apply traceForce_wf) | (with_reducible apply traceStop_wf) | (with_reducible apply wf_foldl (hg := fun _ _ _ => ?_)) | (with_reducible apply wf_foldl_fst (hg := fun _ _ _ => ?_)) | split | dsimp only)

theorem writeTrc_wf (s : State) (b p : Nat) (v : Word) (h₀ : Memory.wf s = true) : Memory.wf (writeTrc s b p v) = true := by
  unfold writeTrc
  try dsimp only
  repeat' (first | (with_reducible assumption) | (with_reducible apply wf_ite) | (with_reducible apply wf_ite_fst) | (with_reducible apply State.raise_wf) | (with_reducible apply storeCoded_wf) | (with_reducible apply wf_foldl (hg := fun _ _ _ => ?_)) | (with_reducible apply wf_foldl_fst (hg := fun _ _ _ => ?_)) | split | dsimp only)

theorem trcWrite_wf (s : State) (b : Nat) (full : Bool) (out : List Word) (h₀ : Memory.wf s = true) : Memory.wf (trcWrite s b full out).1 = true := by
  unfold trcWrite
  try dsimp only
  repeat' (first | (with_reducible assumption) | (with_reducible apply wf_ite) | (with_reducible apply wf_ite_fst) | (with_reducible apply State.trcUp_wf) | (with_reducible apply State.set_wf) | (with_reducible apply trcEnter_wf) | (with_reducible apply State.raise_wf) | (with_reducible apply wf_foldl (hg := fun _ _ _ => ?_)) | (with_reducible apply wf_foldl_fst (hg := fun _ _ _ => ?_)) | split | dsimp only)

theorem traceAtUpdate_wf (s : State) (h₀ : Memory.wf s = true) : Memory.wf (traceAtUpdate s) = true := by
  unfold traceAtUpdate
  try dsimp only
  repeat' (first | (with_reducible assumption) | (with_reducible apply wf_ite) | (with_reducible apply wf_ite_fst) | (with_reducible apply State.trcUp_wf) | (with_reducible apply trcWrite_wf) | (with_reducible apply gatePush_wf) | (with_reducible apply wf_foldl (hg := fun _ _ _ => ?_)) | (with_reducible apply wf_foldl_fst (hg := fun _ _ _ => ?_)) | (with_reducible refine wf_of_fst (by assumption) ?_) | split | dsimp only | (with_reducible apply wf_with_loops) | (with_reducible apply wf_with_trace))

theorem traceStore_wf (s : State) (n : Nat) (ws : List Word) (h₀ : Memory.wf s = true) : Memory.wf (traceStore s n ws) = true := by
  fun_induction traceStore s n ws with
  | case1 => rename_i ih; refine ih ?_; (repeat' (first | (with_reducible assumption) | (with_reducible apply State.putBank_wf)))
  | case2 => exact h₀

theorem traceRead_wf (s : State) (h₀ : Memory.wf s = true) : Memory.wf (traceRead s) = true := by
  unfold traceRead
  try dsimp only
  repeat' (first | (with_reducible assumption) | (with_reducible apply wf_ite) | (with_reducible apply wf_ite_fst) | (with_reducible apply State.set_wf) | (with_reducible apply State.raise_wf) | (with_reducible apply State.answer_wf) | (with_reducible apply wf_foldl (hg := fun _ _ _ => ?_)) | (with_reducible apply wf_foldl_fst (hg := fun _ _ _ => ?_)) | split | dsimp only)

theorem clrPk_wf (s : State) (c : Nat) (h₀ : Memory.wf s = true) : Memory.wf (clrPk s c) = true := by
  unfold clrPk
  try dsimp only
  repeat' (first | (with_reducible assumption) | (with_reducible apply wf_ite) | (with_reducible apply wf_ite_fst) | (with_reducible apply State.set_wf) | (with_reducible apply wf_foldl (hg := fun _ _ _ => ?_)) | (with_reducible apply wf_foldl_fst (hg := fun _ _ _ => ?_)) | split | dsimp only)

theorem clrMin_wf (s : State) (c : Nat) (h₀ : Memory.wf s = true) : Memory.wf (clrMin s c) = true := by
  unfold clrMin
  try dsimp only
  repeat' (first | (with_reducible assumption) | (with_reducible apply wf_ite) | (with_reducible apply wf_ite_fst) | (with_reducible apply State.set_wf) | (with_reducible apply wf_foldl (hg := fun _ _ _ => ?_)) | (with_reducible apply wf_foldl_fst (hg := fun _ _ _ => ?_)) | split | dsimp only)

theorem writeOctl_wf (s : State) (c : Nat) (v : Word) (h₀ : Memory.wf s = true) : Memory.wf (writeOctl s c v) = true := by
  unfold writeOctl
  try dsimp only
  repeat' (first | (with_reducible assumption) | (with_reducible apply wf_ite) | (with_reducible apply wf_ite_fst) | (with_reducible apply clrPk_wf) | (with_reducible apply clrMin_wf) | (with_reducible apply wf_foldl (hg := fun _ _ _ => ?_)) | (with_reducible apply wf_foldl_fst (hg := fun _ _ _ => ?_)) | split | dsimp only)

theorem injectionAtBlock_wf (s : State) (c : Nat) (h₀ : Memory.wf s = true) : Memory.wf (injectionAtBlock s c) = true :=
  Only.wf (injectionAtBlock_only s c) (by decide) h₀

theorem injectionToggle_wf (s : State) (c : Nat) (h₀ : Memory.wf s = true) : Memory.wf (injectionToggle s c) = true :=
  Only.wf (injectionToggle_only s c) (by decide) h₀

theorem startLane_wf (s : State) (n : Nat) (h₀ : Memory.wf s = true) : Memory.wf (startLane s n) = true :=
  Only.wf (startLane_only s n) (by decide) h₀

theorem freshLoop_wf (s : State) (c : Nat) (h₀ : Memory.wf s = true) : Memory.wf (freshLoop s c) = true := by
  unfold freshLoop
  try dsimp only
  repeat' (first | (with_reducible assumption) | (with_reducible apply wf_ite) | (with_reducible apply wf_ite_fst) | (with_reducible apply State.set_wf) | (with_reducible apply State.loopUp_wf) | (with_reducible apply wf_foldl (hg := fun _ _ _ => ?_)) | (with_reducible apply wf_foldl_fst (hg := fun _ _ _ => ?_)) | split | dsimp only)

theorem lanesStart_wf (s : State) (h₀ : Memory.wf s = true) : Memory.wf (lanesStart s) = true := by
  unfold lanesStart
  try dsimp only
  repeat' (first | (with_reducible assumption) | (with_reducible apply wf_ite) | (with_reducible apply wf_ite_fst) | (with_reducible apply freshLoop_wf) | (with_reducible apply startLane_wf) | (with_reducible apply wf_foldl (hg := fun _ _ _ => ?_)) | (with_reducible apply wf_foldl_fst (hg := fun _ _ _ => ?_)) | split | dsimp only | (with_reducible apply wf_with_pwm_loops_lanePool) | (with_reducible apply wf_with_loops))

theorem lanesEnd_wf (s : State) (h₀ : Memory.wf s = true) : Memory.wf (lanesEnd s) = true := by
  unfold lanesEnd
  try dsimp only
  repeat' (first | (with_reducible assumption) | (with_reducible apply wf_ite) | (with_reducible apply wf_ite_fst) | (with_reducible apply closeLane_wf) | (with_reducible apply judgeUpdate_wf) | (with_reducible apply endComparison_wf) | (with_reducible apply traceAtUpdate_wf) | (with_reducible apply markEvent_wf) | (with_reducible apply mismatch_wf) | (with_reducible apply wf_foldl (hg := fun _ _ _ => ?_)) | (with_reducible apply wf_foldl_fst (hg := fun _ _ _ => ?_)) | split | dsimp only)

theorem programsAtUpdate_wf (s : State) (h₀ : Memory.wf s = true) : Memory.wf (programsAtUpdate s) = true := by
  unfold programsAtUpdate
  try dsimp only
  repeat' (first | (with_reducible assumption) | (with_reducible apply wf_ite) | (with_reducible apply wf_ite_fst) | (with_reducible apply queueAtUpdate_wf) | (with_reducible apply impedanceAtBlock_wf) | (with_reducible apply exchangeBanks_wf) | (with_reducible apply wf_foldl (hg := fun _ _ _ => ?_)) | (with_reducible apply wf_foldl_fst (hg := fun _ _ _ => ?_)) | split | dsimp only)

theorem loopAtBlock_wf (s : State) (h₀ : Memory.wf s = true) : Memory.wf (loopAtBlock s) = true := by
  unfold loopAtBlock
  try dsimp only
  repeat' (first | (with_reducible assumption) | (with_reducible apply wf_ite) | (with_reducible apply wf_ite_fst) | (with_reducible apply swapNowAtBlock_wf) | (with_reducible apply shadowSlotOpen_wf) | (with_reducible apply fswapAtBlock_wf) | (with_reducible apply confirmCount_wf) | (with_reducible apply injectionAtBlock_wf) | (with_reducible apply confirmAtBlock_wf) | (with_reducible apply wf_foldl (hg := fun _ _ _ => ?_)) | (with_reducible apply wf_foldl_fst (hg := fun _ _ _ => ?_)) | split | dsimp only)

end Sys2Proof.Machine
end

