-- ==== Sys2Proof/Laws/FrameVent.lean ====
section
/-! SUPPORT. Laws/FrameVent.lean: what the operations of Machine/Vent.lean may change (f_only; f_step after what went before), and
that each keeps the memories' canonical form (f_wf). -/

set_option Elab.async false
set_option linter.all false

namespace Sys2Proof.Machine

theorem State.modelUp_only (s : State) (c : Nat) (f : VentModel → VentModel) : Only [.vent] s (State.modelUp s c f) := by
  unfold State.modelUp
  try dsimp only
  repeat' (first | (with_reducible exact Only.refl _ _) | (with_reducible apply Only.ite) | (with_reducible apply Only.ite_fst) | (with_reducible apply State.ventUp_step (hm := by decide)) | (with_reducible apply Only.foldl (hg := fun _ _ => ?_)) | (with_reducible apply Only.foldl_fst (hg := fun _ _ => ?_)) | split | dsimp only)
theorem State.modelUp_step {l₀ : List Part} {s₀ : State} (s : State) (c : Nat) (f : VentModel → VentModel) (h₀ : Only l₀ s₀ s) (hm : [.vent] ⊆ l₀) : Only l₀ s₀ (State.modelUp s c f) :=
  h₀.step (State.modelUp_only s c f) hm

theorem State.modelBoth_only (s : State) (c : Nat) (f : VentModel → VentModel) : Only [.vent] s (State.modelBoth s c f) := by
  unfold State.modelBoth
  try dsimp only
  repeat' (first | (with_reducible exact Only.refl _ _) | (with_reducible apply Only.ite) | (with_reducible apply Only.ite_fst) | (with_reducible apply State.ventUp_step (hm := by decide)) | (with_reducible apply Only.foldl (hg := fun _ _ => ?_)) | (with_reducible apply Only.foldl_fst (hg := fun _ _ => ?_)) | split | dsimp only)
theorem State.modelBoth_step {l₀ : List Part} {s₀ : State} (s : State) (c : Nat) (f : VentModel → VentModel) (h₀ : Only l₀ s₀ s) (hm : [.vent] ⊆ l₀) : Only l₀ s₀ (State.modelBoth s c f) :=
  h₀.step (State.modelBoth_only s c f) hm

theorem State.coreUp_only (s : State) (k : Nat) (f : VentCore → VentCore) : Only [.vent] s (State.coreUp s k f) := by
  unfold State.coreUp
  try dsimp only
  repeat' (first | (with_reducible exact Only.refl _ _) | (with_reducible apply Only.ite) | (with_reducible apply Only.ite_fst) | (with_reducible apply Only.foldl (hg := fun _ _ => ?_)) | (with_reducible apply Only.foldl_fst (hg := fun _ _ => ?_)) | split | dsimp only | (with_reducible apply only_with_vent_step (hm := by decide)))
theorem State.coreUp_step {l₀ : List Part} {s₀ : State} (s : State) (k : Nat) (f : VentCore → VentCore) (h₀ : Only l₀ s₀ s) (hm : [.vent] ⊆ l₀) : Only l₀ s₀ (State.coreUp s k f) :=
  h₀.step (State.coreUp_only s k f) hm

theorem tapArrives_only (s : State) (ws : List Word) : Only [.vent] s (tapArrives s ws) := by
  unfold tapArrives
  try dsimp only
  repeat' (first | (with_reducible exact Only.refl _ _) | (with_reducible apply Only.ite) | (with_reducible apply Only.ite_fst) | (with_reducible apply Only.foldl (hg := fun _ _ => ?_)) | (with_reducible apply Only.foldl_fst (hg := fun _ _ => ?_)) | split | dsimp only | (with_reducible apply only_with_vent_step (hm := by decide)))
theorem tapArrives_step {l₀ : List Part} {s₀ : State} (s : State) (ws : List Word) (h₀ : Only l₀ s₀ s) (hm : [.vent] ⊆ l₀) : Only l₀ s₀ (tapArrives s ws) :=
  h₀.step (tapArrives_only s ws) hm

theorem measArrives_only (s : State) (ws : List Word) (c : Nat) : Only [.vent] s (measArrives s ws c) := by
  unfold measArrives
  try dsimp only
  repeat' (first | (with_reducible exact Only.refl _ _) | (with_reducible apply Only.ite) | (with_reducible apply Only.ite_fst) | (with_reducible apply State.ventUp_step (hm := by decide)) | (with_reducible apply Only.foldl (hg := fun _ _ => ?_)) | (with_reducible apply Only.foldl_fst (hg := fun _ _ => ?_)) | split | dsimp only)
theorem measArrives_step {l₀ : List Part} {s₀ : State} (s : State) (ws : List Word) (c : Nat) (h₀ : Only l₀ s₀ s) (hm : [.vent] ⊆ l₀) : Only l₀ s₀ (measArrives s ws c) :=
  h₀.step (measArrives_only s ws c) hm

theorem measAll_only (s : State) (ws : List Word) : Only [.vent] s (measAll s ws) := by
  unfold measAll
  try dsimp only
  repeat' (first | (with_reducible exact Only.refl _ _) | (with_reducible apply Only.ite) | (with_reducible apply Only.ite_fst) | (with_reducible apply measArrives_step (hm := by decide)) | (with_reducible apply Only.foldl (hg := fun _ _ => ?_)) | (with_reducible apply Only.foldl_fst (hg := fun _ _ => ?_)) | split | dsimp only)
theorem measAll_step {l₀ : List Part} {s₀ : State} (s : State) (ws : List Word) (h₀ : Only l₀ s₀ s) (hm : [.vent] ⊆ l₀) : Only l₀ s₀ (measAll s ws) :=
  h₀.step (measAll_only s ws) hm

theorem pilotAtBlock_only (s : State) (c : Nat) : Only [.regs, .vent] s (pilotAtBlock s c) := by
  unfold pilotAtBlock
  try dsimp only
  repeat' (first | (with_reducible exact Only.refl _ _) | (with_reducible apply Only.ite) | (with_reducible apply Only.ite_fst) | (with_reducible apply State.ventUp_step (hm := by decide)) | (with_reducible apply State.setB_step (hm := by decide)) | (with_reducible apply Only.foldl (hg := fun _ _ => ?_)) | (with_reducible apply Only.foldl_fst (hg := fun _ _ => ?_)) | split | dsimp only)
theorem pilotAtBlock_step {l₀ : List Part} {s₀ : State} (s : State) (c : Nat) (h₀ : Only l₀ s₀ s) (hm : [.regs, .vent] ⊆ l₀) : Only l₀ s₀ (pilotAtBlock s c) :=
  h₀.step (pilotAtBlock_only s c) hm

theorem conePeriod_only (s : State) (c : Nat) : Only [.vent] s (conePeriod s c) := by
  unfold conePeriod
  try dsimp only
  repeat' (first | (with_reducible exact Only.refl _ _) | (with_reducible apply Only.ite) | (with_reducible apply Only.ite_fst) | (with_reducible apply State.modelUp_step (hm := by decide)) | (with_reducible apply Only.foldl (hg := fun _ _ => ?_)) | (with_reducible apply Only.foldl_fst (hg := fun _ _ => ?_)) | split | dsimp only)
theorem conePeriod_step {l₀ : List Part} {s₀ : State} (s : State) (c : Nat) (h₀ : Only l₀ s₀ s) (hm : [.vent] ⊆ l₀) : Only l₀ s₀ (conePeriod s c) :=
  h₀.step (conePeriod_only s c) hm

theorem coneRest_only (s : State) (c : Nat) : Only [.vent] s (coneRest s c) := by
  unfold coneRest
  try dsimp only
  repeat' (first | (with_reducible exact Only.refl _ _) | (with_reducible apply Only.ite) | (with_reducible apply Only.ite_fst) | (with_reducible apply conePeriod_step (hm := by decide)) | (with_reducible apply Only.foldl (hg := fun _ _ => ?_)) | (with_reducible apply Only.foldl_fst (hg := fun _ _ => ?_)) | split | dsimp only)
theorem coneRest_step {l₀ : List Part} {s₀ : State} (s : State) (c : Nat) (h₀ : Only l₀ s₀ s) (hm : [.vent] ⊆ l₀) : Only l₀ s₀ (coneRest s c) :=
  h₀.step (coneRest_only s c) hm

theorem thermalStep_only (s : State) (c : Nat) : Only [.vent] s (thermalStep s c) := by
  unfold thermalStep
  try dsimp only
  repeat' (first | (with_reducible exact Only.refl _ _) | (with_reducible apply Only.ite) | (with_reducible apply Only.ite_fst) | (with_reducible apply State.ventUp_step (hm := by decide)) | (with_reducible apply Only.foldl (hg := fun _ _ => ?_)) | (with_reducible apply Only.foldl_fst (hg := fun _ _ => ?_)) | split | dsimp only)
theorem thermalStep_step {l₀ : List Part} {s₀ : State} (s : State) (c : Nat) (h₀ : Only l₀ s₀ s) (hm : [.vent] ⊆ l₀) : Only l₀ s₀ (thermalStep s c) :=
  h₀.step (thermalStep_only s c) hm

theorem showTlim_only (s : State) (c : Nat) : Only [.regs] s (showTlim s c) := by
  unfold showTlim
  try dsimp only
  repeat' (first | (with_reducible exact Only.refl _ _) | (with_reducible apply Only.ite) | (with_reducible apply Only.ite_fst) | (with_reducible apply State.setB_step (hm := by decide)) | (with_reducible apply Only.foldl (hg := fun _ _ => ?_)) | (with_reducible apply Only.foldl_fst (hg := fun _ _ => ?_)) | split | dsimp only)
theorem showTlim_step {l₀ : List Part} {s₀ : State} (s : State) (c : Nat) (h₀ : Only l₀ s₀ s) (hm : [.regs] ⊆ l₀) : Only l₀ s₀ (showTlim s c) :=
  h₀.step (showTlim_only s c) hm

theorem gainRestart_only (s : State) (c : Nat) : Only [.regs, .vent] s (gainRestart s c) := by
  unfold gainRestart
  try dsimp only
  repeat' (first | (with_reducible exact Only.refl _ _) | (with_reducible apply Only.ite) | (with_reducible apply Only.ite_fst) | (with_reducible apply showTlim_step (hm := by decide)) | (with_reducible apply State.modelBoth_step (hm := by decide)) | (with_reducible apply Only.foldl (hg := fun _ _ => ?_)) | (with_reducible apply Only.foldl_fst (hg := fun _ _ => ?_)) | split | dsimp only)
theorem gainRestart_step {l₀ : List Part} {s₀ : State} (s : State) (c : Nat) (h₀ : Only l₀ s₀ s) (hm : [.regs, .vent] ⊆ l₀) : Only l₀ s₀ (gainRestart s c) :=
  h₀.step (gainRestart_only s c) hm

theorem protect_only (s : State) (c : Nat) (prev : VentModel) : Only [.regs, .vent] s (protect s c prev).1 := by
  unfold protect
  try dsimp only
  repeat' (first | (with_reducible exact Only.refl _ _) | (with_reducible apply Only.ite) | (with_reducible apply Only.ite_fst) | (with_reducible apply showTlim_step (hm := by decide)) | (with_reducible apply State.modelUp_step (hm := by decide)) | (with_reducible apply Only.foldl (hg := fun _ _ => ?_)) | (with_reducible apply Only.foldl_fst (hg := fun _ _ => ?_)) | split | dsimp only)
theorem protect_step {l₀ : List Part} {s₀ : State} (s : State) (c : Nat) (prev : VentModel) (h₀ : Only l₀ s₀ s) (hm : [.regs, .vent] ⊆ l₀) : Only l₀ s₀ (protect s c prev).1 :=
  h₀.step (protect_only s c prev) hm

theorem unitOf_only (s : State) (c : Nat) : Only [.regs, .vent] s (unitOf s c).1 := by
  unfold unitOf
  try dsimp only
  repeat' (first | (with_reducible exact Only.refl _ _) | (with_reducible apply Only.ite) | (with_reducible apply Only.ite_fst) | (with_reducible apply protect_step (hm := by decide)) | (with_reducible apply State.ventUp_step (hm := by decide)) | (with_reducible apply coneRest_step (hm := by decide)) | (with_reducible apply thermalStep_step (hm := by decide)) | (with_reducible apply Only.foldl (hg := fun _ _ => ?_)) | (with_reducible apply Only.foldl_fst (hg := fun _ _ => ?_)) | (with_reducible refine Only.of_fst (by assumption) ?_) | split | dsimp only)
theorem unitOf_step {l₀ : List Part} {s₀ : State} (s : State) (c : Nat) (h₀ : Only l₀ s₀ s) (hm : [.regs, .vent] ⊆ l₀) : Only l₀ s₀ (unitOf s c).1 :=
  h₀.step (unitOf_only s c) hm

theorem showLoad_only (s : State) (k cycles : Nat) : Only [.regs] s (showLoad s k cycles) := by
  unfold showLoad
  try dsimp only
  repeat' (first | (with_reducible exact Only.refl _ _) | (with_reducible apply Only.ite) | (with_reducible apply Only.ite_fst) | (with_reducible apply State.set_step (hm := by decide)) | (with_reducible apply Only.foldl (hg := fun _ _ => ?_)) | (with_reducible apply Only.foldl_fst (hg := fun _ _ => ?_)) | split | dsimp only)
theorem showLoad_step {l₀ : List Part} {s₀ : State} (s : State) (k cycles : Nat) (h₀ : Only l₀ s₀ s) (hm : [.regs] ⊆ l₀) : Only l₀ s₀ (showLoad s k cycles) :=
  h₀.step (showLoad_only s k cycles) hm

theorem ventUnit_only (s : State) (k cycles : Nat) : Only [.regs, .gates, .vent] s (ventUnit s k cycles) := by
  unfold ventUnit
  try dsimp only
  repeat' (first | (with_reducible exact Only.refl _ _) | (with_reducible apply Only.ite) | (with_reducible apply Only.ite_fst) | (with_reducible apply unitOf_step (hm := by decide)) | (with_reducible apply gatePush_step (hm := by decide)) | (with_reducible apply State.coreUp_step (hm := by decide)) | (with_reducible apply showLoad_step (hm := by decide)) | (with_reducible apply Only.foldl (hg := fun _ _ => ?_)) | (with_reducible apply Only.foldl_fst (hg := fun _ _ => ?_)) | (with_reducible refine Only.of_fst (by assumption) ?_) | split | dsimp only)
theorem ventUnit_step {l₀ : List Part} {s₀ : State} (s : State) (k cycles : Nat) (h₀ : Only l₀ s₀ s) (hm : [.regs, .gates, .vent] ⊆ l₀) : Only l₀ s₀ (ventUnit s k cycles) :=
  h₀.step (ventUnit_only s k cycles) hm

theorem gainsArrive_only (s : State) (ws : List Word) : Only [.mb] s (gainsArrive s ws) := by
  unfold gainsArrive
  try dsimp only
  repeat' (first | (with_reducible exact Only.refl _ _) | (with_reducible apply Only.ite) | (with_reducible apply Only.ite_fst) | (with_reducible apply Only.foldl (hg := fun _ _ => ?_)) | (with_reducible apply Only.foldl_fst (hg := fun _ _ => ?_)) | split | dsimp only | (with_reducible apply only_with_mb_step (hm := by decide)))
theorem gainsArrive_step {l₀ : List Part} {s₀ : State} (s : State) (ws : List Word) (h₀ : Only l₀ s₀ s) (hm : [.mb] ⊆ l₀) : Only l₀ s₀ (gainsArrive s ws) :=
  h₀.step (gainsArrive_only s ws) hm

theorem enterFallback_only (s : State) (c mode : Nat) : Only [.regs, .mb] s (enterFallback s c mode) := by
  unfold enterFallback
  try dsimp only
  repeat' (first | (with_reducible exact Only.refl _ _) | (with_reducible apply Only.ite) | (with_reducible apply Only.ite_fst) | (with_reducible apply State.set_step (hm := by decide)) | (with_reducible apply State.mbUp_step (hm := by decide)) | (with_reducible apply Only.foldl (hg := fun _ _ => ?_)) | (with_reducible apply Only.foldl_fst (hg := fun _ _ => ?_)) | split | dsimp only)
theorem enterFallback_step {l₀ : List Part} {s₀ : State} (s : State) (c mode : Nat) (h₀ : Only l₀ s₀ s) (hm : [.regs, .mb] ⊆ l₀) : Only l₀ s₀ (enterFallback s c mode) :=
  h₀.step (enterFallback_only s c mode) hm

theorem coreAtBlock_only (s : State) (k : Nat) : Only [.regs, .mb, .vent] s (coreAtBlock s k) := by
  unfold coreAtBlock
  try dsimp only
  repeat' (first | (with_reducible exact Only.refl _ _) | (with_reducible apply Only.ite) | (with_reducible apply Only.ite_fst) | (with_reducible apply State.raise_step (hm := by decide)) | (with_reducible apply enterFallback_step (hm := by decide)) | (with_reducible apply State.set_step (hm := by decide)) | (with_reducible apply State.coreUp_step (hm := by decide)) | (with_reducible apply showLoad_step (hm := by decide)) | (with_reducible apply Only.foldl (hg := fun _ _ => ?_)) | (with_reducible apply Only.foldl_fst (hg := fun _ _ => ?_)) | split | dsimp only | (with_reducible apply only_with_vent_step (hm := by decide)))
theorem coreAtBlock_step {l₀ : List Part} {s₀ : State} (s : State) (k : Nat) (h₀ : Only l₀ s₀ s) (hm : [.regs, .mb, .vent] ⊆ l₀) : Only l₀ s₀ (coreAtBlock s k) :=
  h₀.step (coreAtBlock_only s k) hm

theorem modeAtBlock_only (s : State) (c : Nat) : Only [.regs, .mb, .vent] s (modeAtBlock s c) := by
  unfold modeAtBlock
  try dsimp only
  repeat' (first | (with_reducible exact Only.refl _ _) | (with_reducible apply Only.ite) | (with_reducible apply Only.ite_fst) | (with_reducible apply enterFallback_step (hm := by decide)) | (with_reducible apply State.set_step (hm := by decide)) | (with_reducible apply State.ventUp_step (hm := by decide)) | (with_reducible apply Only.foldl (hg := fun _ _ => ?_)) | (with_reducible apply Only.foldl_fst (hg := fun _ _ => ?_)) | split | dsimp only)
theorem modeAtBlock_step {l₀ : List Part} {s₀ : State} (s : State) (c : Nat) (h₀ : Only l₀ s₀ s) (hm : [.regs, .mb, .vent] ⊆ l₀) : Only l₀ s₀ (modeAtBlock s c) :=
  h₀.step (modeAtBlock_only s c) hm

theorem speakerActivate_only (s : State) (c : Nat) : Only [.banks, .vent] s (speakerActivate s c) := by
  unfold speakerActivate
  try dsimp only
  repeat' (first | (with_reducible exact Only.refl _ _) | (with_reducible apply Only.ite) | (with_reducible apply Only.ite_fst) | (with_reducible apply clampXmax_step (hm := by decide)) | (with_reducible apply State.ventUp_step (hm := by decide)) | (with_reducible apply Only.foldl (hg := fun _ _ => ?_)) | (with_reducible apply Only.foldl_fst (hg := fun _ _ => ?_)) | split | dsimp only)
theorem speakerActivate_step {l₀ : List Part} {s₀ : State} (s : State) (c : Nat) (h₀ : Only l₀ s₀ s) (hm : [.banks, .vent] ⊆ l₀) : Only l₀ s₀ (speakerActivate s c) :=
  h₀.step (speakerActivate_only s c) hm

theorem unitInputs_only (s : State) : Only [.vent] s (unitInputs s) := by
  unfold unitInputs
  try dsimp only
  repeat' (first | (with_reducible exact Only.refl _ _) | (with_reducible apply Only.ite) | (with_reducible apply Only.ite_fst) | (with_reducible apply Only.foldl (hg := fun _ _ => ?_)) | (with_reducible apply Only.foldl_fst (hg := fun _ _ => ?_)) | split | dsimp only | (with_reducible apply only_with_vent_step (hm := by decide)))
theorem unitInputs_step {l₀ : List Part} {s₀ : State} (s : State) (h₀ : Only l₀ s₀ s) (hm : [.vent] ⊆ l₀) : Only l₀ s₀ (unitInputs s) :=
  h₀.step (unitInputs_only s) hm

theorem unitStart_only (s : State) : Only [.vent] s (unitStart s) := by
  unfold unitStart
  try dsimp only
  repeat' (first | (with_reducible exact Only.refl _ _) | (with_reducible apply Only.ite) | (with_reducible apply Only.ite_fst) | (with_reducible apply Only.foldl (hg := fun _ _ => ?_)) | (with_reducible apply Only.foldl_fst (hg := fun _ _ => ?_)) | split | dsimp only | (with_reducible apply only_with_vent_step (hm := by decide)))
theorem unitStart_step {l₀ : List Part} {s₀ : State} (s : State) (h₀ : Only l₀ s₀ s) (hm : [.vent] ⊆ l₀) : Only l₀ s₀ (unitStart s) :=
  h₀.step (unitStart_only s) hm

theorem ventCoreUe_only (s : State) (k : Nat) : Only [.regs, .vent] s (ventCoreUe s k) := by
  unfold ventCoreUe
  try dsimp only
  repeat' (first | (with_reducible exact Only.refl _ _) | (with_reducible apply Only.ite) | (with_reducible apply Only.ite_fst) | (with_reducible apply State.raise_step (hm := by decide)) | (with_reducible apply State.set_step (hm := by decide)) | (with_reducible apply State.coreUp_step (hm := by decide)) | (with_reducible apply Only.foldl (hg := fun _ _ => ?_)) | (with_reducible apply Only.foldl_fst (hg := fun _ _ => ?_)) | split | dsimp only)
theorem ventCoreUe_step {l₀ : List Part} {s₀ : State} (s : State) (k : Nat) (h₀ : Only l₀ s₀ s) (hm : [.regs, .vent] ⊆ l₀) : Only l₀ s₀ (ventCoreUe s k) :=
  h₀.step (ventCoreUe_only s k) hm

theorem clrLoad_only (s : State) : Only [.regs] s (clrLoad s) := by
  unfold clrLoad
  try dsimp only
  repeat' (first | (with_reducible exact Only.refl _ _) | (with_reducible apply Only.ite) | (with_reducible apply Only.ite_fst) | (with_reducible apply State.set_step (hm := by decide)) | (with_reducible apply Only.foldl (hg := fun _ _ => ?_)) | (with_reducible apply Only.foldl_fst (hg := fun _ _ => ?_)) | split | dsimp only)
theorem clrLoad_step {l₀ : List Part} {s₀ : State} (s : State) (h₀ : Only l₀ s₀ s) (hm : [.regs] ⊆ l₀) : Only l₀ s₀ (clrLoad s) :=
  h₀.step (clrLoad_only s) hm

theorem correctThermal_only (s : State) (c : Nat) (est : Word) : Only [.regs, .vent] s (correctThermal s c est) := by
  unfold correctThermal
  try dsimp only
  repeat' (first | (with_reducible exact Only.refl _ _) | (with_reducible apply Only.ite) | (with_reducible apply Only.ite_fst) | (with_reducible apply State.modelBoth_step (hm := by decide)) | (with_reducible apply State.raiseIf_step (hm := by decide)) | (with_reducible apply Only.foldl (hg := fun _ _ => ?_)) | (with_reducible apply Only.foldl_fst (hg := fun _ _ => ?_)) | split | dsimp only)
theorem correctThermal_step {l₀ : List Part} {s₀ : State} (s : State) (c : Nat) (est : Word) (h₀ : Only l₀ s₀ s) (hm : [.regs, .vent] ⊆ l₀) : Only l₀ s₀ (correctThermal s c est) :=
  h₀.step (correctThermal_only s c est) hm

theorem reEstimate_only (s : State) (c : Nat) : Only [.regs, .vent] s (reEstimate s c) := by
  unfold reEstimate
  try dsimp only
  repeat' (first | (with_reducible exact Only.refl _ _) | (with_reducible apply Only.ite) | (with_reducible apply Only.ite_fst) | (with_reducible apply correctThermal_step (hm := by decide)) | (with_reducible apply State.modelBoth_step (hm := by decide)) | (with_reducible apply Only.foldl (hg := fun _ _ => ?_)) | (with_reducible apply Only.foldl_fst (hg := fun _ _ => ?_)) | split | dsimp only)
theorem reEstimate_step {l₀ : List Part} {s₀ : State} (s : State) (c : Nat) (h₀ : Only l₀ s₀ s) (hm : [.regs, .vent] ⊆ l₀) : Only l₀ s₀ (reEstimate s c) :=
  h₀.step (reEstimate_only s c) hm

theorem adopt_only (s : State) (c : Nat) (e : Nat → Word) : Only [.regs, .vent] s (adopt s c e) := by
  unfold adopt
  try dsimp only
  repeat' (first | (with_reducible exact Only.refl _ _) | (with_reducible apply Only.ite) | (with_reducible apply Only.ite_fst) | (with_reducible apply State.set_step (hm := by decide)) | (with_reducible apply State.modelBoth_step (hm := by decide)) | (with_reducible apply Only.foldl (hg := fun _ _ => ?_)) | (with_reducible apply Only.foldl_fst (hg := fun _ _ => ?_)) | split | dsimp only)
theorem adopt_step {l₀ : List Part} {s₀ : State} (s : State) (c : Nat) (e : Nat → Word) (h₀ : Only l₀ s₀ s) (hm : [.regs, .vent] ⊆ l₀) : Only l₀ s₀ (adopt s c e) :=
  h₀.step (adopt_only s c e) hm

theorem idPublish_only (s : State) (c : Nat) : Only [.regs, .vent] s (idPublish s c) := by
  unfold idPublish
  try dsimp only
  repeat' (first | (with_reducible exact Only.refl _ _) | (with_reducible apply Only.ite) | (with_reducible apply Only.ite_fst) | (with_reducible apply State.raiseIf_step (hm := by decide)) | (with_reducible apply State.wr_step (hm := by decide)) | (with_reducible apply State.set_step (hm := by decide)) | (with_reducible apply adopt_step (hm := by decide)) | (with_reducible apply Only.foldl (hg := fun _ _ => ?_)) | (with_reducible apply Only.foldl_fst (hg := fun _ _ => ?_)) | split | dsimp only)
theorem idPublish_step {l₀ : List Part} {s₀ : State} (s : State) (c : Nat) (h₀ : Only l₀ s₀ s) (hm : [.regs, .vent] ⊆ l₀) : Only l₀ s₀ (idPublish s c) :=
  h₀.step (idPublish_only s c) hm

theorem latchRead_only (s : State) (side p n : Nat) : Only [.rdata, .vent] s (latchRead s side p n) := by
  unfold latchRead
  try dsimp only
  repeat' (first | (with_reducible exact Only.refl _ _) | (with_reducible apply Only.ite) | (with_reducible apply Only.ite_fst) | (with_reducible apply State.answer_step (hm := by decide)) | (with_reducible apply Only.foldl (hg := fun _ _ => ?_)) | (with_reducible apply Only.foldl_fst (hg := fun _ _ => ?_)) | split | dsimp only | (with_reducible apply only_with_vent_step (hm := by decide)))
theorem latchRead_step {l₀ : List Part} {s₀ : State} (s : State) (side p n : Nat) (h₀ : Only l₀ s₀ s) (hm : [.rdata, .vent] ⊆ l₀) : Only l₀ s₀ (latchRead s side p n) :=
  h₀.step (latchRead_only s side p n) hm

/-! ### The canonical form -/

theorem State.modelUp_wf (s : State) (c : Nat) (f : VentModel → VentModel) (h₀ : Memory.wf s = true) : Memory.wf (State.modelUp s c f) = true := by
  unfold State.modelUp
  try dsimp only
  repeat' (first | (with_reducible assumption) | (with_reducible rfl) | (with_reducible apply wf_ite) | (with_reducible apply wf_ite_fst) | (with_reducible apply State.ventUp_wf) | (with_reducible apply wf_foldl (hg := fun _ _ _ => ?_)) | (with_reducible apply wf_foldl_fst (hg := fun _ _ _ => ?_)) | split | dsimp only)

theorem State.modelBoth_wf (s : State) (c : Nat) (f : VentModel → VentModel) (h₀ : Memory.wf s = true) : Memory.wf (State.modelBoth s c f) = true := by
  unfold State.modelBoth
  try dsimp only
  repeat' (first | (with_reducible assumption) | (with_reducible rfl) | (with_reducible apply wf_ite) | (with_reducible apply wf_ite_fst) | (with_reducible apply State.ventUp_wf) | (with_reducible apply wf_foldl (hg := fun _ _ _ => ?_)) | (with_reducible apply wf_foldl_fst (hg := fun _ _ _ => ?_)) | split | dsimp only)

theorem State.coreUp_wf (s : State) (k : Nat) (f : VentCore → VentCore) (h₀ : Memory.wf s = true) : Memory.wf (State.coreUp s k f) = true := by
  unfold State.coreUp
  try dsimp only
  repeat' (first | (with_reducible assumption) | (with_reducible rfl) | (with_reducible apply wf_ite) | (with_reducible apply wf_ite_fst) | (with_reducible apply wf_foldl (hg := fun _ _ _ => ?_)) | (with_reducible apply wf_foldl_fst (hg := fun _ _ _ => ?_)) | split | dsimp only | (with_reducible apply wf_with_vent ))

theorem tapArrives_wf (s : State) (ws : List Word) (h₀ : Memory.wf s = true) : Memory.wf (tapArrives s ws) = true := by
  unfold tapArrives
  try dsimp only
  repeat' (first | (with_reducible assumption) | (with_reducible rfl) | (with_reducible apply wf_ite) | (with_reducible apply wf_ite_fst) | (with_reducible apply wf_foldl (hg := fun _ _ _ => ?_)) | (with_reducible apply wf_foldl_fst (hg := fun _ _ _ => ?_)) | split | dsimp only | (with_reducible apply wf_with_vent ))

theorem measArrives_wf (s : State) (ws : List Word) (c : Nat) (h₀ : Memory.wf s = true) : Memory.wf (measArrives s ws c) = true := by
  unfold measArrives
  try dsimp only
  repeat' (first | (with_reducible assumption) | (with_reducible rfl) | (with_reducible apply wf_ite) | (with_reducible apply wf_ite_fst) | (with_reducible apply State.ventUp_wf) | (with_reducible apply wf_foldl (hg := fun _ _ _ => ?_)) | (with_reducible apply wf_foldl_fst (hg := fun _ _ _ => ?_)) | split | dsimp only)

theorem measAll_wf (s : State) (ws : List Word) (h₀ : Memory.wf s = true) : Memory.wf (measAll s ws) = true := by
  unfold measAll
  try dsimp only
  repeat' (first | (with_reducible assumption) | (with_reducible rfl) | (with_reducible apply wf_ite) | (with_reducible apply wf_ite_fst) | (with_reducible apply measArrives_wf) | (with_reducible apply wf_foldl (hg := fun _ _ _ => ?_)) | (with_reducible apply wf_foldl_fst (hg := fun _ _ _ => ?_)) | split | dsimp only)

theorem pilotAtBlock_wf (s : State) (c : Nat) (h₀ : Memory.wf s = true) : Memory.wf (pilotAtBlock s c) = true := by
  unfold pilotAtBlock
  try dsimp only
  repeat' (first | (with_reducible assumption) | (with_reducible rfl) | (with_reducible apply wf_ite) | (with_reducible apply wf_ite_fst) | (with_reducible apply State.setB_wf) | (with_reducible apply State.ventUp_wf) | (with_reducible apply wf_foldl (hg := fun _ _ _ => ?_)) | (with_reducible apply wf_foldl_fst (hg := fun _ _ _ => ?_)) | split | dsimp only)

theorem conePeriod_wf (s : State) (c : Nat) (h₀ : Memory.wf s = true) : Memory.wf (conePeriod s c) = true := by
  unfold conePeriod
  try dsimp only
  repeat' (first | (with_reducible assumption) | (with_reducible rfl) | (with_reducible apply wf_ite) | (with_reducible apply wf_ite_fst) | (with_reducible apply State.modelUp_wf) | (with_reducible apply wf_foldl (hg := fun _ _ _ => ?_)) | (with_reducible apply wf_foldl_fst (hg := fun _ _ _ => ?_)) | split | dsimp only)

theorem coneRest_wf (s : State) (c : Nat) (h₀ : Memory.wf s = true) : Memory.wf (coneRest s c) = true := by
  unfold coneRest
  try dsimp only
  repeat' (first | (with_reducible assumption) | (with_reducible rfl) | (with_reducible apply wf_ite) | (with_reducible apply wf_ite_fst) | (with_reducible apply conePeriod_wf) | (with_reducible apply wf_foldl (hg := fun _ _ _ => ?_)) | (with_reducible apply wf_foldl_fst (hg := fun _ _ _ => ?_)) | split | dsimp only)

theorem thermalStep_wf (s : State) (c : Nat) (h₀ : Memory.wf s = true) : Memory.wf (thermalStep s c) = true := by
  unfold thermalStep
  try dsimp only
  repeat' (first | (with_reducible assumption) | (with_reducible rfl) | (with_reducible apply wf_ite) | (with_reducible apply wf_ite_fst) | (with_reducible apply State.ventUp_wf) | (with_reducible apply wf_foldl (hg := fun _ _ _ => ?_)) | (with_reducible apply wf_foldl_fst (hg := fun _ _ _ => ?_)) | split | dsimp only)

theorem showTlim_wf (s : State) (c : Nat) (h₀ : Memory.wf s = true) : Memory.wf (showTlim s c) = true := by
  unfold showTlim
  try dsimp only
  repeat' (first | (with_reducible assumption) | (with_reducible apply wf_ite) | (with_reducible apply wf_ite_fst) | (with_reducible apply State.setB_wf) | (with_reducible apply wf_foldl (hg := fun _ _ _ => ?_)) | (with_reducible apply wf_foldl_fst (hg := fun _ _ _ => ?_)) | split | dsimp only)

theorem gainRestart_wf (s : State) (c : Nat) (h₀ : Memory.wf s = true) : Memory.wf (gainRestart s c) = true := by
  unfold gainRestart
  try dsimp only
  repeat' (first | (with_reducible assumption) | (with_reducible rfl) | (with_reducible apply wf_ite) | (with_reducible apply wf_ite_fst) | (with_reducible apply State.modelBoth_wf) | (with_reducible apply showTlim_wf) | (with_reducible apply wf_foldl (hg := fun _ _ _ => ?_)) | (with_reducible apply wf_foldl_fst (hg := fun _ _ _ => ?_)) | split | dsimp only)

theorem protect_wf (s : State) (c : Nat) (prev : VentModel) (h₀ : Memory.wf s = true) : Memory.wf (protect s c prev).1 = true := by
  unfold protect
  try dsimp only
  repeat' (first | (with_reducible assumption) | (with_reducible rfl) | (with_reducible apply wf_ite) | (with_reducible apply wf_ite_fst) | (with_reducible apply State.modelUp_wf) | (with_reducible apply showTlim_wf) | (with_reducible apply wf_foldl (hg := fun _ _ _ => ?_)) | (with_reducible apply wf_foldl_fst (hg := fun _ _ _ => ?_)) | split | dsimp only)

theorem unitOf_wf (s : State) (c : Nat) (h₀ : Memory.wf s = true) : Memory.wf (unitOf s c).1 = true := by
  unfold unitOf
  try dsimp only
  repeat' (first | (with_reducible assumption) | (with_reducible rfl) | (with_reducible apply wf_ite) | (with_reducible apply wf_ite_fst) | (with_reducible apply thermalStep_wf) | (with_reducible apply coneRest_wf) | (with_reducible apply protect_wf) | (with_reducible apply State.ventUp_wf) | (with_reducible apply wf_foldl (hg := fun _ _ _ => ?_)) | (with_reducible apply wf_foldl_fst (hg := fun _ _ _ => ?_)) | (with_reducible refine wf_of_fst (by assumption) ?_) | split | dsimp only)

theorem showLoad_wf (s : State) (k cycles : Nat) (h₀ : Memory.wf s = true) : Memory.wf (showLoad s k cycles) = true := by
  unfold showLoad
  try dsimp only
  repeat' (first | (with_reducible assumption) | (with_reducible apply wf_ite) | (with_reducible apply wf_ite_fst) | (with_reducible apply State.set_wf) | (with_reducible apply wf_foldl (hg := fun _ _ _ => ?_)) | (with_reducible apply wf_foldl_fst (hg := fun _ _ _ => ?_)) | split | dsimp only)

theorem ventUnit_wf (s : State) (k cycles : Nat) (h₀ : Memory.wf s = true) : Memory.wf (ventUnit s k cycles) = true := by
  unfold ventUnit
  try dsimp only
  repeat' (first | (with_reducible assumption) | (with_reducible rfl) | (with_reducible apply wf_ite) | (with_reducible apply wf_ite_fst) | (with_reducible apply State.coreUp_wf) | (with_reducible apply gatePush_wf) | (with_reducible apply unitOf_wf) | (with_reducible apply showLoad_wf) | (with_reducible apply wf_foldl (hg := fun _ _ _ => ?_)) | (with_reducible apply wf_foldl_fst (hg := fun _ _ _ => ?_)) | (with_reducible refine wf_of_fst (by assumption) ?_) | split | dsimp only)

theorem gainsArrive_wf (s : State) (ws : List Word) (h₀ : Memory.wf s = true) : Memory.wf (gainsArrive s ws) = true :=
  Only.wf (gainsArrive_only s ws) (by decide) h₀

theorem enterFallback_wf (s : State) (c mode : Nat) (h₀ : Memory.wf s = true) : Memory.wf (enterFallback s c mode) = true := by
  unfold enterFallback
  try dsimp only
  repeat' (first | (with_reducible assumption) | (with_reducible apply wf_ite) | (with_reducible apply wf_ite_fst) | (with_reducible apply State.mbUp_wf) | (with_reducible apply State.set_wf) | (with_reducible apply wf_foldl (hg := fun _ _ _ => ?_)) | (with_reducible apply wf_foldl_fst (hg := fun _ _ _ => ?_)) | split | dsimp only)

theorem coreAtBlock_wf (s : State) (k : Nat) (h₀ : Memory.wf s = true) : Memory.wf (coreAtBlock s k) = true := by
  unfold coreAtBlock
  try dsimp only
  repeat' (first | (with_reducible assumption) | (with_reducible rfl) | (with_reducible apply wf_ite) | (with_reducible apply wf_ite_fst) | (with_reducible apply State.coreUp_wf) | (with_reducible apply State.raise_wf) | (with_reducible apply enterFallback_wf) | (with_reducible apply State.set_wf) | (with_reducible apply showLoad_wf) | (with_reducible apply wf_foldl (hg := fun _ _ _ => ?_)) | (with_reducible apply wf_foldl_fst (hg := fun _ _ _ => ?_)) | split | dsimp only | (with_reducible apply wf_with_vent ))

theorem modeAtBlock_wf (s : State) (c : Nat) (h₀ : Memory.wf s = true) : Memory.wf (modeAtBlock s c) = true := by
  unfold modeAtBlock
  try dsimp only
  repeat' (first | (with_reducible assumption) | (with_reducible rfl) | (with_reducible apply wf_ite) | (with_reducible apply wf_ite_fst) | (with_reducible apply enterFallback_wf) | (with_reducible apply State.set_wf) | (with_reducible apply State.ventUp_wf) | (with_reducible apply wf_foldl (hg := fun _ _ _ => ?_)) | (with_reducible apply wf_foldl_fst (hg := fun _ _ _ => ?_)) | split | dsimp only)

theorem speakerActivate_wf (s : State) (c : Nat) (h₀ : Memory.wf s = true) : Memory.wf (speakerActivate s c) = true := by
  unfold speakerActivate
  try dsimp only
  repeat' (first | (with_reducible assumption) | (with_reducible rfl) | (with_reducible apply wf_ite) | (with_reducible apply wf_ite_fst) | (with_reducible apply clampXmax_wf) | (with_reducible apply State.ventUp_wf) | (with_reducible apply wf_foldl (hg := fun _ _ _ => ?_)) | (with_reducible apply wf_foldl_fst (hg := fun _ _ _ => ?_)) | split | dsimp only)

theorem unitInputs_wf (s : State) (h₀ : Memory.wf s = true) : Memory.wf (unitInputs s) = true := by
  unfold unitInputs
  try dsimp only
  repeat' (first | (with_reducible assumption) | (with_reducible rfl) | (with_reducible apply wf_ite) | (with_reducible apply wf_ite_fst) | (with_reducible apply wf_foldl (hg := fun _ _ _ => ?_)) | (with_reducible apply wf_foldl_fst (hg := fun _ _ _ => ?_)) | split | dsimp only | (with_reducible apply wf_with_vent ))

theorem unitStart_wf (s : State) (h₀ : Memory.wf s = true) : Memory.wf (unitStart s) = true := by
  unfold unitStart
  try dsimp only
  repeat' (first | (with_reducible assumption) | (with_reducible rfl) | (with_reducible apply wf_ite) | (with_reducible apply wf_ite_fst) | (with_reducible apply wf_foldl (hg := fun _ _ _ => ?_)) | (with_reducible apply wf_foldl_fst (hg := fun _ _ _ => ?_)) | split | dsimp only | (with_reducible apply wf_with_vent ))

theorem ventCoreUe_wf (s : State) (k : Nat) (h₀ : Memory.wf s = true) : Memory.wf (ventCoreUe s k) = true := by
  unfold ventCoreUe
  try dsimp only
  repeat' (first | (with_reducible assumption) | (with_reducible rfl) | (with_reducible apply wf_ite) | (with_reducible apply wf_ite_fst) | (with_reducible apply State.coreUp_wf) | (with_reducible apply State.set_wf) | (with_reducible apply State.raise_wf) | (with_reducible apply wf_foldl (hg := fun _ _ _ => ?_)) | (with_reducible apply wf_foldl_fst (hg := fun _ _ _ => ?_)) | split | dsimp only)

theorem clrLoad_wf (s : State) (h₀ : Memory.wf s = true) : Memory.wf (clrLoad s) = true := by
  unfold clrLoad
  try dsimp only
  repeat' (first | (with_reducible assumption) | (with_reducible apply wf_ite) | (with_reducible apply wf_ite_fst) | (with_reducible apply State.set_wf) | (with_reducible apply wf_foldl (hg := fun _ _ _ => ?_)) | (with_reducible apply wf_foldl_fst (hg := fun _ _ _ => ?_)) | split | dsimp only)

theorem correctThermal_wf (s : State) (c : Nat) (est : Word) (h₀ : Memory.wf s = true) : Memory.wf (correctThermal s c est) = true := by
  unfold correctThermal
  try dsimp only
  repeat' (first | (with_reducible assumption) | (with_reducible rfl) | (with_reducible apply wf_ite) | (with_reducible apply wf_ite_fst) | (with_reducible apply State.modelBoth_wf) | (with_reducible apply State.raiseIf_wf) | (with_reducible apply wf_foldl (hg := fun _ _ _ => ?_)) | (with_reducible apply wf_foldl_fst (hg := fun _ _ _ => ?_)) | split | dsimp only)

theorem reEstimate_wf (s : State) (c : Nat) (h₀ : Memory.wf s = true) : Memory.wf (reEstimate s c) = true := by
  unfold reEstimate
  try dsimp only
  repeat' (first | (with_reducible assumption) | (with_reducible rfl) | (with_reducible apply wf_ite) | (with_reducible apply wf_ite_fst) | (with_reducible apply State.modelBoth_wf) | (with_reducible apply correctThermal_wf) | (with_reducible apply wf_foldl (hg := fun _ _ _ => ?_)) | (with_reducible apply wf_foldl_fst (hg := fun _ _ _ => ?_)) | split | dsimp only)

theorem adopt_wf (s : State) (c : Nat) (e : Nat → Word) (h₀ : Memory.wf s = true) : Memory.wf (adopt s c e) = true := by
  unfold adopt
  try dsimp only
  repeat' (first | (with_reducible assumption) | (with_reducible rfl) | (with_reducible apply wf_ite) | (with_reducible apply wf_ite_fst) | (with_reducible apply State.set_wf) | (with_reducible apply State.modelBoth_wf) | (with_reducible apply wf_foldl (hg := fun _ _ _ => ?_)) | (with_reducible apply wf_foldl_fst (hg := fun _ _ _ => ?_)) | split | dsimp only)

theorem idPublish_wf (s : State) (c : Nat) (h₀ : Memory.wf s = true) : Memory.wf (idPublish s c) = true := by
  unfold idPublish
  try dsimp only
  repeat' (first | (with_reducible assumption) | (with_reducible rfl) | (with_reducible apply wf_ite) | (with_reducible apply wf_ite_fst) | (with_reducible apply State.raiseIf_wf) | (with_reducible apply State.set_wf) | (with_reducible apply adopt_wf) | (with_reducible apply State.wr_wf) | (with_reducible apply wf_foldl (hg := fun _ _ _ => ?_)) | (with_reducible apply wf_foldl_fst (hg := fun _ _ _ => ?_)) | split | dsimp only)

theorem latchRead_wf (s : State) (side p n : Nat) (h₀ : Memory.wf s = true) : Memory.wf (latchRead s side p n) = true := by
  unfold latchRead
  refine State.answer_wf _ _ (wf_foldl (fun t a h => ?_) h₀)
  rw [wf_iff] at *; exact ⟨h.1, h.2.1, h.2.2.1, h.2.2.2.1, kvWf_kvPut _ _ _ _ h.2.2.2.2⟩

end Sys2Proof.Machine
end

