-- ==== Sys2Proof/Laws/FrameDiag.lean ====
section
/-! SUPPORT. Laws/FrameDiag.lean: what the operations of Machine/Diag.lean may change (f_only; f_step after what went before), and
that each keeps the memories' canonical form (f_wf). -/

set_option Elab.async false
set_option linter.all false

namespace Sys2Proof.Machine

theorem ventTel_only (s : State) (c type : Nat) (a b d : Nat) : Only [.regs, .gates] s (ventTel s c type a b d) := by
  unfold ventTel
  try dsimp only
  repeat' (first | (with_reducible exact Only.refl _ _) | (with_reducible apply Only.ite) | (with_reducible apply Only.ite_fst) | (with_reducible apply gatePush_step (hm := by decide)) | (with_reducible apply Only.foldl (hg := fun _ _ => ?_)) | (with_reducible apply Only.foldl_fst (hg := fun _ _ => ?_)) | split | dsimp only)
theorem ventTel_step {l₀ : List Part} {s₀ : State} (s : State) (c type : Nat) (a b d : Nat) (h₀ : Only l₀ s₀ s) (hm : [.regs, .gates] ⊆ l₀) : Only l₀ s₀ (ventTel s c type a b d) :=
  h₀.step (ventTel_only s c type a b d) hm

theorem setLoad_only (s : State) (c : Nat) (k : Nat × Nat) : Only [.regs] s (setLoad s c k) := by
  unfold setLoad
  try dsimp only
  repeat' (first | (with_reducible exact Only.refl _ _) | (with_reducible apply Only.ite) | (with_reducible apply Only.ite_fst) | (with_reducible apply State.raise_step (hm := by decide)) | (with_reducible apply State.set_step (hm := by decide)) | (with_reducible apply Only.foldl (hg := fun _ _ => ?_)) | (with_reducible apply Only.foldl_fst (hg := fun _ _ => ?_)) | split | dsimp only)
theorem setLoad_step {l₀ : List Part} {s₀ : State} (s : State) (c : Nat) (k : Nat × Nat) (h₀ : Only l₀ s₀ s) (hm : [.regs] ⊆ l₀) : Only l₀ s₀ (setLoad s c k) :=
  h₀.step (setLoad_only s c k) hm

theorem countClass_only (s : State) (c : Nat) (k : Nat × Nat) : Only [.regs, .vent] s (countClass s c k) := by
  unfold countClass
  try dsimp only
  repeat' (first | (with_reducible exact Only.refl _ _) | (with_reducible apply Only.ite) | (with_reducible apply Only.ite_fst) | (with_reducible apply setLoad_step (hm := by decide)) | (with_reducible apply State.ventUp_step (hm := by decide)) | (with_reducible apply Only.foldl (hg := fun _ _ => ?_)) | (with_reducible apply Only.foldl_fst (hg := fun _ _ => ?_)) | split | dsimp only)
theorem countClass_step {l₀ : List Part} {s₀ : State} (s : State) (c : Nat) (k : Nat × Nat) (h₀ : Only l₀ s₀ s) (hm : [.regs, .vent] ⊆ l₀) : Only l₀ s₀ (countClass s c k) :=
  h₀.step (countClass_only s c k) hm

theorem driftJudge_only (s : State) (c : Nat) : Only [.regs] s (driftJudge s c) := by
  unfold driftJudge
  try dsimp only
  repeat' (first | (with_reducible exact Only.refl _ _) | (with_reducible apply Only.ite) | (with_reducible apply Only.ite_fst) | (with_reducible apply State.raiseIf_step (hm := by decide)) | (with_reducible apply State.setB_step (hm := by decide)) | (with_reducible apply Only.foldl (hg := fun _ _ => ?_)) | (with_reducible apply Only.foldl_fst (hg := fun _ _ => ?_)) | split | dsimp only)
theorem driftJudge_step {l₀ : List Part} {s₀ : State} (s : State) (c : Nat) (h₀ : Only l₀ s₀ s) (hm : [.regs] ⊆ l₀) : Only l₀ s₀ (driftJudge s c) :=
  h₀.step (driftJudge_only s c) hm

theorem rubJudge_only (s : State) (c : Nat) (rub : Word) : Only [.regs, .vent] s (rubJudge s c rub) := by
  unfold rubJudge
  try dsimp only
  repeat' (first | (with_reducible exact Only.refl _ _) | (with_reducible apply Only.ite) | (with_reducible apply Only.ite_fst) | (with_reducible apply State.raiseIf_step (hm := by decide)) | (with_reducible apply State.setB_step (hm := by decide)) | (with_reducible apply State.ventUp_step (hm := by decide)) | (with_reducible apply Only.foldl (hg := fun _ _ => ?_)) | (with_reducible apply Only.foldl_fst (hg := fun _ _ => ?_)) | split | dsimp only)
theorem rubJudge_step {l₀ : List Part} {s₀ : State} (s : State) (c : Nat) (rub : Word) (h₀ : Only l₀ s₀ s) (hm : [.regs, .vent] ⊆ l₀) : Only l₀ s₀ (rubJudge s c rub) :=
  h₀.step (rubJudge_only s c rub) hm

theorem diagnose_only (s : State) (c : Nat) (x : Window) : Only [.regs, .vent] s (diagnose s c x) := by
  unfold diagnose
  try dsimp only
  repeat' (first | (with_reducible exact Only.refl _ _) | (with_reducible apply Only.ite) | (with_reducible apply Only.ite_fst) | (with_reducible apply countClass_step (hm := by decide)) | (with_reducible apply State.set_step (hm := by decide)) | (with_reducible apply State.ventUp_step (hm := by decide)) | (with_reducible apply State.setB_step (hm := by decide)) | (with_reducible apply State.modelBoth_step (hm := by decide)) | (with_reducible apply rubJudge_step (hm := by decide)) | (with_reducible apply driftJudge_step (hm := by decide)) | (with_reducible apply Only.foldl (hg := fun _ _ => ?_)) | (with_reducible apply Only.foldl_fst (hg := fun _ _ => ?_)) | split | dsimp only)
theorem diagnose_step {l₀ : List Part} {s₀ : State} (s : State) (c : Nat) (x : Window) (h₀ : Only l₀ s₀ s) (hm : [.regs, .vent] ⊆ l₀) : Only l₀ s₀ (diagnose s c x) :=
  h₀.step (diagnose_only s c x) hm

theorem publishWindow_only (s : State) (c : Nat) : Only [.regs, .conds] s (publishWindow s c) := by
  unfold publishWindow
  try dsimp only
  repeat' (first | (with_reducible exact Only.refl _ _) | (with_reducible apply Only.ite) | (with_reducible apply Only.ite_fst) | (with_reducible apply showTlim_step (hm := by decide)) | (with_reducible apply State.set_step (hm := by decide)) | (with_reducible apply State.setB_step (hm := by decide)) | (with_reducible apply State.cond_step (hm := by decide)) | (with_reducible apply Only.foldl (hg := fun _ _ => ?_)) | (with_reducible apply Only.foldl_fst (hg := fun _ _ => ?_)) | split | dsimp only)
theorem publishWindow_step {l₀ : List Part} {s₀ : State} (s : State) (c : Nat) (h₀ : Only l₀ s₀ s) (hm : [.regs, .conds] ⊆ l₀) : Only l₀ s₀ (publishWindow s c) :=
  h₀.step (publishWindow_only s c) hm

theorem windowTelemetry_only (s : State) (c : Nat) (x : Window) : Only [.regs, .gates, .vent] s (windowTelemetry s c x) := by
  unfold windowTelemetry
  try dsimp only
  repeat' (first | (with_reducible exact Only.refl _ _) | (with_reducible apply Only.ite) | (with_reducible apply Only.ite_fst) | (with_reducible apply State.ventUp_step (hm := by decide)) | (with_reducible apply ventTel_step (hm := by decide)) | (with_reducible apply Only.foldl (hg := fun _ _ => ?_)) | (with_reducible apply Only.foldl_fst (hg := fun _ _ => ?_)) | split | dsimp only)
theorem windowTelemetry_step {l₀ : List Part} {s₀ : State} (s : State) (c : Nat) (x : Window) (h₀ : Only l₀ s₀ s) (hm : [.regs, .gates, .vent] ⊆ l₀) : Only l₀ s₀ (windowTelemetry s c x) :=
  h₀.step (windowTelemetry_only s c x) hm

theorem windowClear_only (s : State) (c : Nat) : Only [.vent] s (windowClear s c) := by
  unfold windowClear
  try dsimp only
  repeat' (first | (with_reducible exact Only.refl _ _) | (with_reducible apply Only.ite) | (with_reducible apply Only.ite_fst) | (with_reducible apply State.modelBoth_step (hm := by decide)) | (with_reducible apply State.ventUp_step (hm := by decide)) | (with_reducible apply Only.foldl (hg := fun _ _ => ?_)) | (with_reducible apply Only.foldl_fst (hg := fun _ _ => ?_)) | split | dsimp only)
theorem windowClear_step {l₀ : List Part} {s₀ : State} (s : State) (c : Nat) (h₀ : Only l₀ s₀ s) (hm : [.vent] ⊆ l₀) : Only l₀ s₀ (windowClear s c) :=
  h₀.step (windowClear_only s c) hm

theorem loadWindowEnd_only (s : State) (c : Nat) : Only [.regs, .conds, .gates, .vent] s (loadWindowEnd s c) := by
  unfold loadWindowEnd
  try dsimp only
  repeat' (first | (with_reducible exact Only.refl _ _) | (with_reducible apply Only.ite) | (with_reducible apply Only.ite_fst) | (with_reducible apply publishWindow_step (hm := by decide)) | (with_reducible apply State.set_step (hm := by decide)) | (with_reducible apply windowTelemetry_step (hm := by decide)) | (with_reducible apply windowClear_step (hm := by decide)) | (with_reducible apply diagnose_step (hm := by decide)) | (with_reducible apply Only.foldl (hg := fun _ _ => ?_)) | (with_reducible apply Only.foldl_fst (hg := fun _ _ => ?_)) | split | dsimp only)
theorem loadWindowEnd_step {l₀ : List Part} {s₀ : State} (s : State) (c : Nat) (h₀ : Only l₀ s₀ s) (hm : [.regs, .conds, .gates, .vent] ⊆ l₀) : Only l₀ s₀ (loadWindowEnd s c) :=
  h₀.step (loadWindowEnd_only s c) hm

theorem loadRestart_only (s : State) (c : Nat) : Only [.regs, .vent] s (loadRestart s c) := by
  unfold loadRestart
  try dsimp only
  repeat' (first | (with_reducible exact Only.refl _ _) | (with_reducible apply Only.ite) | (with_reducible apply Only.ite_fst) | (with_reducible apply State.set_step (hm := by decide)) | (with_reducible apply gainRestart_step (hm := by decide)) | (with_reducible apply State.ventUp_step (hm := by decide)) | (with_reducible apply Only.foldl (hg := fun _ _ => ?_)) | (with_reducible apply Only.foldl_fst (hg := fun _ _ => ?_)) | split | dsimp only)
theorem loadRestart_step {l₀ : List Part} {s₀ : State} (s : State) (c : Nat) (h₀ : Only l₀ s₀ s) (hm : [.regs, .vent] ⊆ l₀) : Only l₀ s₀ (loadRestart s c) :=
  h₀.step (loadRestart_only s c) hm

theorem State.sweepUp_only (s : State) (c : Nat) (f : Sweep → Sweep) : Only [.vent] s (State.sweepUp s c f) := by
  unfold State.sweepUp
  try dsimp only
  repeat' (first | (with_reducible exact Only.refl _ _) | (with_reducible apply Only.ite) | (with_reducible apply Only.ite_fst) | (with_reducible apply State.ventUp_step (hm := by decide)) | (with_reducible apply Only.foldl (hg := fun _ _ => ?_)) | (with_reducible apply Only.foldl_fst (hg := fun _ _ => ?_)) | split | dsimp only)
theorem State.sweepUp_step {l₀ : List Part} {s₀ : State} (s : State) (c : Nat) (f : Sweep → Sweep) (h₀ : Only l₀ s₀ s) (hm : [.vent] ⊆ l₀) : Only l₀ s₀ (State.sweepUp s c f) :=
  h₀.step (State.sweepUp_only s c f) hm

theorem sweepStart_only (s : State) (c : Nat) : Only [.regs, .vent] s (sweepStart s c) := by
  unfold sweepStart
  try dsimp only
  repeat' (first | (with_reducible exact Only.refl _ _) | (with_reducible apply Only.ite) | (with_reducible apply Only.ite_fst) | (with_reducible apply State.raise_step (hm := by decide)) | (with_reducible apply State.set_step (hm := by decide)) | (with_reducible apply State.setB_step (hm := by decide)) | (with_reducible apply State.sweepUp_step (hm := by decide)) | (with_reducible apply Only.foldl (hg := fun _ _ => ?_)) | (with_reducible apply Only.foldl_fst (hg := fun _ _ => ?_)) | split | dsimp only)
theorem sweepStart_step {l₀ : List Part} {s₀ : State} (s : State) (c : Nat) (h₀ : Only l₀ s₀ s) (hm : [.regs, .vent] ⊆ l₀) : Only l₀ s₀ (sweepStart s c) :=
  h₀.step (sweepStart_only s c) hm

theorem sweepAbandon_only (s : State) (c reason : Nat) : Only [.regs, .vent] s (sweepAbandon s c reason) := by
  unfold sweepAbandon
  try dsimp only
  repeat' (first | (with_reducible exact Only.refl _ _) | (with_reducible apply Only.ite) | (with_reducible apply Only.ite_fst) | (with_reducible apply State.raise_step (hm := by decide)) | (with_reducible apply State.set_step (hm := by decide)) | (with_reducible apply State.sweepUp_step (hm := by decide)) | (with_reducible apply Only.foldl (hg := fun _ _ => ?_)) | (with_reducible apply Only.foldl_fst (hg := fun _ _ => ?_)) | split | dsimp only)
theorem sweepAbandon_step {l₀ : List Part} {s₀ : State} (s : State) (c reason : Nat) (h₀ : Only l₀ s₀ s) (hm : [.regs, .vent] ⊆ l₀) : Only l₀ s₀ (sweepAbandon s c reason) :=
  h₀.step (sweepAbandon_only s c reason) hm

theorem sweepAbort_only (s : State) (c : Nat) : Only [.regs, .vent] s (sweepAbort s c) := by
  unfold sweepAbort
  try dsimp only
  repeat' (first | (with_reducible exact Only.refl _ _) | (with_reducible apply Only.ite) | (with_reducible apply Only.ite_fst) | (with_reducible apply sweepAbandon_step (hm := by decide)) | (with_reducible apply Only.foldl (hg := fun _ _ => ?_)) | (with_reducible apply Only.foldl_fst (hg := fun _ _ => ?_)) | split | dsimp only)
theorem sweepAbort_step {l₀ : List Part} {s₀ : State} (s : State) (c : Nat) (h₀ : Only l₀ s₀ s) (hm : [.regs, .vent] ⊆ l₀) : Only l₀ s₀ (sweepAbort s c) :=
  h₀.step (sweepAbort_only s c) hm

theorem writeSwctrl_only (s : State) (c : Nat) (v : Word) : Only [.regs, .vent] s (writeSwctrl s c v) := by
  unfold writeSwctrl
  try dsimp only
  repeat' (first | (with_reducible exact Only.refl _ _) | (with_reducible apply Only.ite) | (with_reducible apply Only.ite_fst) | (with_reducible apply sweepStart_step (hm := by decide)) | (with_reducible apply sweepAbort_step (hm := by decide)) | (with_reducible apply Only.foldl (hg := fun _ _ => ?_)) | (with_reducible apply Only.foldl_fst (hg := fun _ _ => ?_)) | split | dsimp only)
theorem writeSwctrl_step {l₀ : List Part} {s₀ : State} (s : State) (c : Nat) (v : Word) (h₀ : Only l₀ s₀ s) (hm : [.regs, .vent] ⊆ l₀) : Only l₀ s₀ (writeSwctrl s c v) :=
  h₀.step (writeSwctrl_only s c v) hm

theorem writeSwcfg_only (s : State) (c p : Nat) (v : Word) : Only [.regs, .heldU, .heldB] s (writeSwcfg s c p v) := by
  unfold writeSwcfg
  try dsimp only
  repeat' (first | (with_reducible exact Only.refl _ _) | (with_reducible apply Only.ite) | (with_reducible apply Only.ite_fst) | (with_reducible apply State.set_step (hm := by decide)) | (with_reducible apply State.raise_step (hm := by decide)) | (with_reducible apply storeCoded_step (hm := by decide)) | (with_reducible apply Only.foldl (hg := fun _ _ => ?_)) | (with_reducible apply Only.foldl_fst (hg := fun _ _ => ?_)) | split | dsimp only)
theorem writeSwcfg_step {l₀ : List Part} {s₀ : State} (s : State) (c p : Nat) (v : Word) (h₀ : Only l₀ s₀ s) (hm : [.regs, .heldU, .heldB] ⊆ l₀) : Only l₀ s₀ (writeSwcfg s c p v) :=
  h₀.step (writeSwcfg_only s c p v) hm

theorem enterPhase_only (s : State) (c phase point : Nat) (isOver : Int) : Only [.regs, .vent] s (enterPhase s c phase point isOver) := by
  unfold enterPhase
  try dsimp only
  repeat' (first | (with_reducible exact Only.refl _ _) | (with_reducible apply Only.ite) | (with_reducible apply Only.ite_fst) | (with_reducible apply State.set_step (hm := by decide)) | (with_reducible apply State.sweepUp_step (hm := by decide)) | (with_reducible apply Only.foldl (hg := fun _ _ => ?_)) | (with_reducible apply Only.foldl_fst (hg := fun _ _ => ?_)) | split | dsimp only)
theorem enterPhase_step {l₀ : List Part} {s₀ : State} (s : State) (c phase point : Nat) (isOver : Int) (h₀ : Only l₀ s₀ s) (hm : [.regs, .vent] ⊆ l₀) : Only l₀ s₀ (enterPhase s c phase point isOver) :=
  h₀.step (enterPhase_only s c phase point isOver) hm

theorem sweepBegin_only (s : State) (c : Nat) : Only [.regs, .vent] s (sweepBegin s c) := by
  unfold sweepBegin
  try dsimp only
  repeat' (first | (with_reducible exact Only.refl _ _) | (with_reducible apply Only.ite) | (with_reducible apply Only.ite_fst) | (with_reducible apply enterPhase_step (hm := by decide)) | (with_reducible apply Only.foldl (hg := fun _ _ => ?_)) | (with_reducible apply Only.foldl_fst (hg := fun _ _ => ?_)) | split | dsimp only)
theorem sweepBegin_step {l₀ : List Part} {s₀ : State} (s : State) (c : Nat) (h₀ : Only l₀ s₀ s) (hm : [.regs, .vent] ⊆ l₀) : Only l₀ s₀ (sweepBegin s c) :=
  h₀.step (sweepBegin_only s c) hm

theorem sweepPublish_only (s : State) (c : Nat) : Only [.regs, .banks, .vent] s (sweepPublish s c) := by
  unfold sweepPublish
  try dsimp only
  repeat' (first | (with_reducible exact Only.refl _ _) | (with_reducible apply Only.ite) | (with_reducible apply Only.ite_fst) | (with_reducible apply State.wr_step (hm := by decide)) | (with_reducible apply State.putBank_step (hm := by decide)) | (with_reducible apply State.set_step (hm := by decide)) | (with_reducible apply State.sweepUp_step (hm := by decide)) | (with_reducible apply Only.foldl (hg := fun _ _ => ?_)) | (with_reducible apply Only.foldl_fst (hg := fun _ _ => ?_)) | split | dsimp only)
theorem sweepPublish_step {l₀ : List Part} {s₀ : State} (s : State) (c : Nat) (h₀ : Only l₀ s₀ s) (hm : [.regs, .banks, .vent] ⊆ l₀) : Only l₀ s₀ (sweepPublish s c) :=
  h₀.step (sweepPublish_only s c) hm

theorem sweepAtBlock_only (s : State) (c : Nat) : Only [.regs, .banks, .vent] s (sweepAtBlock s c) := by
  unfold sweepAtBlock
  try dsimp only
  repeat' (first | (with_reducible exact Only.refl _ _) | (with_reducible apply Only.ite) | (with_reducible apply Only.ite_fst) | (with_reducible apply sweepAbandon_step (hm := by decide)) | (with_reducible apply sweepPublish_step (hm := by decide)) | (with_reducible apply sweepBegin_step (hm := by decide)) | (with_reducible apply Only.foldl (hg := fun _ _ => ?_)) | (with_reducible apply Only.foldl_fst (hg := fun _ _ => ?_)) | split | dsimp only)
theorem sweepAtBlock_step {l₀ : List Part} {s₀ : State} (s : State) (c : Nat) (h₀ : Only l₀ s₀ s) (hm : [.regs, .banks, .vent] ⊆ l₀) : Only l₀ s₀ (sweepAtBlock s c) :=
  h₀.step (sweepAtBlock_only s c) hm

theorem sweepPhaseEnd_only (s : State) (c : Nat) : Only [.regs, .vent] s (sweepPhaseEnd s c) := by
  unfold sweepPhaseEnd
  try dsimp only
  repeat' (first | (with_reducible exact Only.refl _ _) | (with_reducible apply Only.ite) | (with_reducible apply Only.ite_fst) | (with_reducible apply State.set_step (hm := by decide)) | (with_reducible apply enterPhase_step (hm := by decide)) | (with_reducible apply State.sweepUp_step (hm := by decide)) | (with_reducible apply Only.foldl (hg := fun _ _ => ?_)) | (with_reducible apply Only.foldl_fst (hg := fun _ _ => ?_)) | split | dsimp only)
theorem sweepPhaseEnd_step {l₀ : List Part} {s₀ : State} (s : State) (c : Nat) (h₀ : Only l₀ s₀ s) (hm : [.regs, .vent] ⊆ l₀) : Only l₀ s₀ (sweepPhaseEnd s c) :=
  h₀.step (sweepPhaseEnd_only s c) hm

theorem sweepInc_only (s : State) (c : Nat) : Only [.vent] s (sweepInc s c) := by
  unfold sweepInc
  try dsimp only
  repeat' (first | (with_reducible exact Only.refl _ _) | (with_reducible apply Only.ite) | (with_reducible apply Only.ite_fst) | (with_reducible apply State.sweepUp_step (hm := by decide)) | (with_reducible apply Only.foldl (hg := fun _ _ => ?_)) | (with_reducible apply Only.foldl_fst (hg := fun _ _ => ?_)) | split | dsimp only)
theorem sweepInc_step {l₀ : List Part} {s₀ : State} (s : State) (c : Nat) (h₀ : Only l₀ s₀ s) (hm : [.vent] ⊆ l₀) : Only l₀ s₀ (sweepInc s c) :=
  h₀.step (sweepInc_only s c) hm

theorem sweepBoundary_only (s : State) (c : Nat) : Only [.regs, .banks, .vent] s (sweepBoundary s c) := by
  unfold sweepBoundary
  try dsimp only
  repeat' (first | (with_reducible exact Only.refl _ _) | (with_reducible apply Only.ite) | (with_reducible apply Only.ite_fst) | (with_reducible apply State.sweepUp_step (hm := by decide)) | (with_reducible apply sweepAtBlock_step (hm := by decide)) | (with_reducible apply sweepInc_step (hm := by decide)) | (with_reducible apply Only.foldl (hg := fun _ _ => ?_)) | (with_reducible apply Only.foldl_fst (hg := fun _ _ => ?_)) | split | dsimp only)
theorem sweepBoundary_step {l₀ : List Part} {s₀ : State} (s : State) (c : Nat) (h₀ : Only l₀ s₀ s) (hm : [.regs, .banks, .vent] ⊆ l₀) : Only l₀ s₀ (sweepBoundary s c) :=
  h₀.step (sweepBoundary_only s c) hm

theorem sweepDataRead_only (s : State) (c : Nat) : Only [.regs, .rdata] s (sweepDataRead s c) := by
  unfold sweepDataRead
  try dsimp only
  repeat' (first | (with_reducible exact Only.refl _ _) | (with_reducible apply Only.ite) | (with_reducible apply Only.ite_fst) | (with_reducible apply State.set_step (hm := by decide)) | (with_reducible apply State.answer_step (hm := by decide)) | (with_reducible apply Only.foldl (hg := fun _ _ => ?_)) | (with_reducible apply Only.foldl_fst (hg := fun _ _ => ?_)) | split | dsimp only)
theorem sweepDataRead_step {l₀ : List Part} {s₀ : State} (s : State) (c : Nat) (h₀ : Only l₀ s₀ s) (hm : [.regs, .rdata] ⊆ l₀) : Only l₀ s₀ (sweepDataRead s c) :=
  h₀.step (sweepDataRead_only s c) hm

theorem writeSwptr_only (s : State) (c : Nat) (v : Word) : Only [.regs] s (writeSwptr s c v) := by
  unfold writeSwptr
  try dsimp only
  repeat' (first | (with_reducible exact Only.refl _ _) | (with_reducible apply Only.ite) | (with_reducible apply Only.ite_fst) | (with_reducible apply State.set_step (hm := by decide)) | (with_reducible apply Only.foldl (hg := fun _ _ => ?_)) | (with_reducible apply Only.foldl_fst (hg := fun _ _ => ?_)) | split | dsimp only)
theorem writeSwptr_step {l₀ : List Part} {s₀ : State} (s : State) (c : Nat) (v : Word) (h₀ : Only l₀ s₀ s) (hm : [.regs] ⊆ l₀) : Only l₀ s₀ (writeSwptr s c v) :=
  h₀.step (writeSwptr_only s c v) hm

theorem writeDiaCfg_only (s : State) (c p : Nat) (v : Word) : Only [.regs, .heldU, .heldB] s (writeDiaCfg s c p v) := by
  unfold writeDiaCfg
  try dsimp only
  repeat' (first | (with_reducible exact Only.refl _ _) | (with_reducible apply Only.ite) | (with_reducible apply Only.ite_fst) | (with_reducible apply storeCoded_step (hm := by decide)) | (with_reducible apply Only.foldl (hg := fun _ _ => ?_)) | (with_reducible apply Only.foldl_fst (hg := fun _ _ => ?_)) | split | dsimp only)
theorem writeDiaCfg_step {l₀ : List Part} {s₀ : State} (s : State) (c p : Nat) (v : Word) (h₀ : Only l₀ s₀ s) (hm : [.regs, .heldU, .heldB] ⊆ l₀) : Only l₀ s₀ (writeDiaCfg s c p v) :=
  h₀.step (writeDiaCfg_only s c p v) hm

theorem diaRead_only (s : State) (side c which : Nat) : Only [.rdata, .vent] s (diaRead s side c which) := by
  unfold diaRead
  try dsimp only
  repeat' (first | (with_reducible exact Only.refl _ _) | (with_reducible apply Only.ite) | (with_reducible apply Only.ite_fst) | (with_reducible apply latchRead_step (hm := by decide)) | (with_reducible apply Only.foldl (hg := fun _ _ => ?_)) | (with_reducible apply Only.foldl_fst (hg := fun _ _ => ?_)) | split | dsimp only)
theorem diaRead_step {l₀ : List Part} {s₀ : State} (s : State) (side c which : Nat) (h₀ : Only l₀ s₀ s) (hm : [.rdata, .vent] ⊆ l₀) : Only l₀ s₀ (diaRead s side c which) :=
  h₀.step (diaRead_only s side c which) hm

/-! ### The canonical form -/

theorem ventTel_wf (s : State) (c type : Nat) (a b d : Nat) (h₀ : Memory.wf s = true) : Memory.wf (ventTel s c type a b d) = true := by
  unfold ventTel
  try dsimp only
  repeat' (first | (with_reducible assumption) | (with_reducible apply wf_ite) | (with_reducible apply wf_ite_fst) | (with_reducible apply gatePush_wf) | (with_reducible apply wf_foldl (hg := fun _ _ _ => ?_)) | (with_reducible apply wf_foldl_fst (hg := fun _ _ _ => ?_)) | split | dsimp only)

theorem setLoad_wf (s : State) (c : Nat) (k : Nat × Nat) (h₀ : Memory.wf s = true) : Memory.wf (setLoad s c k) = true := by
  unfold setLoad
  try dsimp only
  repeat' (first | (with_reducible assumption) | (with_reducible apply wf_ite) | (with_reducible apply wf_ite_fst) | (with_reducible apply State.set_wf) | (with_reducible apply State.raise_wf) | (with_reducible apply wf_foldl (hg := fun _ _ _ => ?_)) | (with_reducible apply wf_foldl_fst (hg := fun _ _ _ => ?_)) | split | dsimp only)

theorem countClass_wf (s : State) (c : Nat) (k : Nat × Nat) (h₀ : Memory.wf s = true) : Memory.wf (countClass s c k) = true := by
  unfold countClass
  try dsimp only
  repeat' (first | (with_reducible assumption) | (with_reducible rfl) | (with_reducible apply wf_ite) | (with_reducible apply wf_ite_fst) | (with_reducible apply setLoad_wf) | (with_reducible apply State.ventUp_wf) | (with_reducible apply wf_foldl (hg := fun _ _ _ => ?_)) | (with_reducible apply wf_foldl_fst (hg := fun _ _ _ => ?_)) | split | dsimp only)

theorem driftJudge_wf (s : State) (c : Nat) (h₀ : Memory.wf s = true) : Memory.wf (driftJudge s c) = true := by
  unfold driftJudge
  try dsimp only
  repeat' (first | (with_reducible assumption) | (with_reducible apply wf_ite) | (with_reducible apply wf_ite_fst) | (with_reducible apply State.setB_wf) | (with_reducible apply State.raiseIf_wf) | (with_reducible apply wf_foldl (hg := fun _ _ _ => ?_)) | (with_reducible apply wf_foldl_fst (hg := fun _ _ _ => ?_)) | split | dsimp only)

theorem rubJudge_wf (s : State) (c : Nat) (rub : Word) (h₀ : Memory.wf s = true) : Memory.wf (rubJudge s c rub) = true := by
  unfold rubJudge
  try dsimp only
  repeat' (first | (with_reducible assumption) | (with_reducible rfl) | (with_reducible apply wf_ite) | (with_reducible apply wf_ite_fst) | (with_reducible apply State.setB_wf) | (with_reducible apply State.raiseIf_wf) | (with_reducible apply State.ventUp_wf) | (with_reducible apply wf_foldl (hg := fun _ _ _ => ?_)) | (with_reducible apply wf_foldl_fst (hg := fun _ _ _ => ?_)) | split | dsimp only)

theorem diagnose_wf (s : State) (c : Nat) (x : Window) (h₀ : Memory.wf s = true) : Memory.wf (diagnose s c x) = true := by
  unfold diagnose
  try dsimp only
  repeat' (first | (with_reducible assumption) | (with_reducible rfl) | (with_reducible apply wf_ite) | (with_reducible apply wf_ite_fst) | (with_reducible apply driftJudge_wf) | (with_reducible apply rubJudge_wf) | (with_reducible apply State.setB_wf) | (with_reducible apply countClass_wf) | (with_reducible apply State.set_wf) | (with_reducible apply State.modelBoth_wf) | (with_reducible apply State.ventUp_wf) | (with_reducible apply wf_foldl (hg := fun _ _ _ => ?_)) | (with_reducible apply wf_foldl_fst (hg := fun _ _ _ => ?_)) | split | dsimp only)

theorem publishWindow_wf (s : State) (c : Nat) (h₀ : Memory.wf s = true) : Memory.wf (publishWindow s c) = true := by
  unfold publishWindow
  try dsimp only
  repeat' (first | (with_reducible assumption) | (with_reducible apply wf_ite) | (with_reducible apply wf_ite_fst) | (with_reducible apply State.setB_wf) | (with_reducible apply State.set_wf) | (with_reducible apply State.cond_wf) | (with_reducible apply showTlim_wf) | (with_reducible apply wf_foldl (hg := fun _ _ _ => ?_)) | (with_reducible apply wf_foldl_fst (hg := fun _ _ _ => ?_)) | split | dsimp only)

theorem windowTelemetry_wf (s : State) (c : Nat) (x : Window) (h₀ : Memory.wf s = true) : Memory.wf (windowTelemetry s c x) = true := by
  unfold windowTelemetry
  try dsimp only
  repeat' (first | (with_reducible assumption) | (with_reducible rfl) | (with_reducible apply wf_ite) | (with_reducible apply wf_ite_fst) | (with_reducible apply ventTel_wf) | (with_reducible apply State.ventUp_wf) | (with_reducible apply wf_foldl (hg := fun _ _ _ => ?_)) | (with_reducible apply wf_foldl_fst (hg := fun _ _ _ => ?_)) | split | dsimp only)

theorem windowClear_wf (s : State) (c : Nat) (h₀ : Memory.wf s = true) : Memory.wf (windowClear s c) = true := by
  unfold windowClear
  try dsimp only
  repeat' (first | (with_reducible assumption) | (with_reducible rfl) | (with_reducible apply wf_ite) | (with_reducible apply wf_ite_fst) | (with_reducible apply State.ventUp_wf) | (with_reducible apply State.modelBoth_wf) | (with_reducible apply wf_foldl (hg := fun _ _ _ => ?_)) | (with_reducible apply wf_foldl_fst (hg := fun _ _ _ => ?_)) | split | dsimp only)

theorem loadWindowEnd_wf (s : State) (c : Nat) (h₀ : Memory.wf s = true) : Memory.wf (loadWindowEnd s c) = true := by
  unfold loadWindowEnd
  try dsimp only
  repeat' (first | (with_reducible assumption) | (with_reducible rfl) | (with_reducible apply wf_ite) | (with_reducible apply wf_ite_fst) | (with_reducible apply windowTelemetry_wf) | (with_reducible apply windowClear_wf) | (with_reducible apply diagnose_wf) | (with_reducible apply State.set_wf) | (with_reducible apply publishWindow_wf) | (with_reducible apply wf_foldl (hg := fun _ _ _ => ?_)) | (with_reducible apply wf_foldl_fst (hg := fun _ _ _ => ?_)) | split | dsimp only)

theorem loadRestart_wf (s : State) (c : Nat) (h₀ : Memory.wf s = true) : Memory.wf (loadRestart s c) = true := by
  unfold loadRestart
  try dsimp only
  repeat' (first | (with_reducible assumption) | (with_reducible rfl) | (with_reducible apply wf_ite) | (with_reducible apply wf_ite_fst) | (with_reducible apply State.ventUp_wf) | (with_reducible apply State.set_wf) | (with_reducible apply gainRestart_wf) | (with_reducible apply wf_foldl (hg := fun _ _ _ => ?_)) | (with_reducible apply wf_foldl_fst (hg := fun _ _ _ => ?_)) | split | dsimp only)

theorem State.sweepUp_wf (s : State) (c : Nat) (f : Sweep → Sweep) (h₀ : Memory.wf s = true) : Memory.wf (State.sweepUp s c f) = true := by
  unfold State.sweepUp
  try dsimp only
  repeat' (first | (with_reducible assumption) | (with_reducible rfl) | (with_reducible apply wf_ite) | (with_reducible apply wf_ite_fst) | (with_reducible apply State.ventUp_wf) | (with_reducible apply wf_foldl (hg := fun _ _ _ => ?_)) | (with_reducible apply wf_foldl_fst (hg := fun _ _ _ => ?_)) | split | dsimp only)

theorem sweepStart_wf (s : State) (c : Nat) (h₀ : Memory.wf s = true) : Memory.wf (sweepStart s c) = true := by
  unfold sweepStart
  try dsimp only
  repeat' (first | (with_reducible assumption) | (with_reducible rfl) | (with_reducible apply wf_ite) | (with_reducible apply wf_ite_fst) | (with_reducible apply State.setB_wf) | (with_reducible apply State.sweepUp_wf) | (with_reducible apply State.set_wf) | (with_reducible apply State.raise_wf) | (with_reducible apply wf_foldl (hg := fun _ _ _ => ?_)) | (with_reducible apply wf_foldl_fst (hg := fun _ _ _ => ?_)) | split | dsimp only)

theorem sweepAbandon_wf (s : State) (c reason : Nat) (h₀ : Memory.wf s = true) : Memory.wf (sweepAbandon s c reason) = true := by
  unfold sweepAbandon
  try dsimp only
  repeat' (first | (with_reducible assumption) | (with_reducible rfl) | (with_reducible apply wf_ite) | (with_reducible apply wf_ite_fst) | (with_reducible apply State.sweepUp_wf) | (with_reducible apply State.set_wf) | (with_reducible apply State.raise_wf) | (with_reducible apply wf_foldl (hg := fun _ _ _ => ?_)) | (with_reducible apply wf_foldl_fst (hg := fun _ _ _ => ?_)) | split | dsimp only)

theorem sweepAbort_wf (s : State) (c : Nat) (h₀ : Memory.wf s = true) : Memory.wf (sweepAbort s c) = true := by
  unfold sweepAbort
  try dsimp only
  repeat' (first | (with_reducible assumption) | (with_reducible rfl) | (with_reducible apply wf_ite) | (with_reducible apply wf_ite_fst) | (with_reducible apply sweepAbandon_wf) | (with_reducible apply wf_foldl (hg := fun _ _ _ => ?_)) | (with_reducible apply wf_foldl_fst (hg := fun _ _ _ => ?_)) | split | dsimp only)

theorem writeSwctrl_wf (s : State) (c : Nat) (v : Word) (h₀ : Memory.wf s = true) : Memory.wf (writeSwctrl s c v) = true := by
  unfold writeSwctrl
  try dsimp only
  repeat' (first | (with_reducible assumption) | (with_reducible rfl) | (with_reducible apply wf_ite) | (with_reducible apply wf_ite_fst) | (with_reducible apply sweepStart_wf) | (with_reducible apply sweepAbort_wf) | (with_reducible apply wf_foldl (hg := fun _ _ _ => ?_)) | (with_reducible apply wf_foldl_fst (hg := fun _ _ _ => ?_)) | split | dsimp only)

theorem writeSwcfg_wf (s : State) (c p : Nat) (v : Word) (h₀ : Memory.wf s = true) : Memory.wf (writeSwcfg s c p v) = true := by
  unfold writeSwcfg
  try dsimp only
  repeat' (first | (with_reducible assumption) | (with_reducible apply wf_ite) | (with_reducible apply wf_ite_fst) | (with_reducible apply State.raise_wf) | (with_reducible apply State.set_wf) | (with_reducible apply storeCoded_wf) | (with_reducible apply wf_foldl (hg := fun _ _ _ => ?_)) | (with_reducible apply wf_foldl_fst (hg := fun _ _ _ => ?_)) | split | dsimp only)

theorem enterPhase_wf (s : State) (c phase point : Nat) (isOver : Int) (h₀ : Memory.wf s = true) : Memory.wf (enterPhase s c phase point isOver) = true := by
  unfold enterPhase
  try dsimp only
  repeat' (first | (with_reducible assumption) | (with_reducible rfl) | (with_reducible apply wf_ite) | (with_reducible apply wf_ite_fst) | (with_reducible apply State.set_wf) | (with_reducible apply State.sweepUp_wf) | (with_reducible apply wf_foldl (hg := fun _ _ _ => ?_)) | (with_reducible apply wf_foldl_fst (hg := fun _ _ _ => ?_)) | split | dsimp only)

theorem sweepBegin_wf (s : State) (c : Nat) (h₀ : Memory.wf s = true) : Memory.wf (sweepBegin s c) = true := by
  unfold sweepBegin
  try dsimp only
  repeat' (first | (with_reducible assumption) | (with_reducible rfl) | (with_reducible apply wf_ite) | (with_reducible apply wf_ite_fst) | (with_reducible apply enterPhase_wf) | (with_reducible apply wf_foldl (hg := fun _ _ _ => ?_)) | (with_reducible apply wf_foldl_fst (hg := fun _ _ _ => ?_)) | split | dsimp only)

theorem sweepPublish_wf (s : State) (c : Nat) (h₀ : Memory.wf s = true) : Memory.wf (sweepPublish s c) = true := by
  unfold sweepPublish
  try dsimp only
  repeat' (first | (with_reducible assumption) | (with_reducible rfl) | (with_reducible apply wf_ite) | (with_reducible apply wf_ite_fst) | (with_reducible apply State.sweepUp_wf) | (with_reducible apply State.putBank_wf) | (with_reducible apply State.set_wf) | (with_reducible apply State.wr_wf) | (with_reducible apply wf_foldl (hg := fun _ _ _ => ?_)) | (with_reducible apply wf_foldl_fst (hg := fun _ _ _ => ?_)) | split | dsimp only)

theorem sweepAtBlock_wf (s : State) (c : Nat) (h₀ : Memory.wf s = true) : Memory.wf (sweepAtBlock s c) = true := by
  unfold sweepAtBlock
  try dsimp only
  repeat' (first | (with_reducible assumption) | (with_reducible rfl) | (with_reducible apply wf_ite) | (with_reducible apply wf_ite_fst) | (with_reducible apply sweepPublish_wf) | (with_reducible apply sweepBegin_wf) | (with_reducible apply sweepAbandon_wf) | (with_reducible apply wf_foldl (hg := fun _ _ _ => ?_)) | (with_reducible apply wf_foldl_fst (hg := fun _ _ _ => ?_)) | split | dsimp only)

theorem sweepPhaseEnd_wf (s : State) (c : Nat) (h₀ : Memory.wf s = true) : Memory.wf (sweepPhaseEnd s c) = true := by
  unfold sweepPhaseEnd
  try dsimp only
  repeat' (first | (with_reducible assumption) | (with_reducible rfl) | (with_reducible apply wf_ite) | (with_reducible apply wf_ite_fst) | (with_reducible apply enterPhase_wf) | (with_reducible apply State.sweepUp_wf) | (with_reducible apply State.set_wf) | (with_reducible apply wf_foldl (hg := fun _ _ _ => ?_)) | (with_reducible apply wf_foldl_fst (hg := fun _ _ _ => ?_)) | split | dsimp only)

theorem sweepInc_wf (s : State) (c : Nat) (h₀ : Memory.wf s = true) : Memory.wf (sweepInc s c) = true := by
  unfold sweepInc
  try dsimp only
  repeat' (first | (with_reducible assumption) | (with_reducible rfl) | (with_reducible apply wf_ite) | (with_reducible apply wf_ite_fst) | (with_reducible apply State.sweepUp_wf) | (with_reducible apply wf_foldl (hg := fun _ _ _ => ?_)) | (with_reducible apply wf_foldl_fst (hg := fun _ _ _ => ?_)) | split | dsimp only)

theorem sweepBoundary_wf (s : State) (c : Nat) (h₀ : Memory.wf s = true) : Memory.wf (sweepBoundary s c) = true := by
  unfold sweepBoundary
  try dsimp only
  repeat' (first | (with_reducible assumption) | (with_reducible rfl) | (with_reducible apply wf_ite) | (with_reducible apply wf_ite_fst) | (with_reducible apply sweepAtBlock_wf) | (with_reducible apply sweepInc_wf) | (with_reducible apply State.sweepUp_wf) | (with_reducible apply wf_foldl (hg := fun _ _ _ => ?_)) | (with_reducible apply wf_foldl_fst (hg := fun _ _ _ => ?_)) | split | dsimp only)

theorem sweepDataRead_wf (s : State) (c : Nat) (h₀ : Memory.wf s = true) : Memory.wf (sweepDataRead s c) = true := by
  unfold sweepDataRead
  try dsimp only
  repeat' (first | (with_reducible assumption) | (with_reducible apply wf_ite) | (with_reducible apply wf_ite_fst) | (with_reducible apply State.set_wf) | (with_reducible apply State.answer_wf) | (with_reducible apply wf_foldl (hg := fun _ _ _ => ?_)) | (with_reducible apply wf_foldl_fst (hg := fun _ _ _ => ?_)) | split | dsimp only)

theorem writeSwptr_wf (s : State) (c : Nat) (v : Word) (h₀ : Memory.wf s = true) : Memory.wf (writeSwptr s c v) = true := by
  unfold writeSwptr
  try dsimp only
  repeat' (first | (with_reducible assumption) | (with_reducible apply wf_ite) | (with_reducible apply wf_ite_fst) | (with_reducible apply State.set_wf) | (with_reducible apply wf_foldl (hg := fun _ _ _ => ?_)) | (with_reducible apply wf_foldl_fst (hg := fun _ _ _ => ?_)) | split | dsimp only)

theorem writeDiaCfg_wf (s : State) (c p : Nat) (v : Word) (h₀ : Memory.wf s = true) : Memory.wf (writeDiaCfg s c p v) = true := by
  unfold writeDiaCfg
  try dsimp only
  repeat' (first | (with_reducible assumption) | (with_reducible apply wf_ite) | (with_reducible apply wf_ite_fst) | (with_reducible apply storeCoded_wf) | (with_reducible apply wf_foldl (hg := fun _ _ _ => ?_)) | (with_reducible apply wf_foldl_fst (hg := fun _ _ _ => ?_)) | split | dsimp only)

theorem diaRead_wf (s : State) (side c which : Nat) (h₀ : Memory.wf s = true) : Memory.wf (diaRead s side c which) = true := by
  unfold diaRead
  try dsimp only
  repeat' (first | (with_reducible assumption) | (with_reducible rfl) | (with_reducible apply wf_ite) | (with_reducible apply wf_ite_fst) | (with_reducible apply latchRead_wf) | (with_reducible apply wf_foldl (hg := fun _ _ _ => ?_)) | (with_reducible apply wf_foldl_fst (hg := fun _ _ _ => ?_)) | split | dsimp only)

end Sys2Proof.Machine
end

