-- ==== Sys2Proof/Laws/FrameMemory.lean ====
section
/-! SUPPORT. Laws/FrameMemory.lean: what the operations of Machine/Memory.lean may change (f_only; f_step after what went before), and
that each keeps the memories' canonical form (f_wf). -/

set_option Elab.async false
set_option linter.all false

namespace Sys2Proof.Machine

theorem State.memUp_only (s : State) (f : Mem → Mem) : Only [.mem] s (State.memUp s f) := by
  unfold State.memUp
  try dsimp only
  repeat' (first | (with_reducible exact Only.refl _ _) | (with_reducible apply Only.ite) | (with_reducible apply Only.ite_fst) | (with_reducible apply Only.foldl (hg := fun _ _ => ?_)) | (with_reducible apply Only.foldl_fst (hg := fun _ _ => ?_)) | split | dsimp only | (with_reducible apply only_with_mem_step (hm := by decide)))
theorem State.memUp_step {l₀ : List Part} {s₀ : State} (s : State) (f : Mem → Mem) (h₀ : Only l₀ s₀ s) (hm : [.mem] ⊆ l₀) : Only l₀ s₀ (State.memUp s f) :=
  h₀.step (State.memUp_only s f) hm

theorem State.bankUp_only (s : State) (b : Nat) (f : BankSt → BankSt) : Only [.mem] s (State.bankUp s b f) := by
  unfold State.bankUp
  try dsimp only
  repeat' (first | (with_reducible exact Only.refl _ _) | (with_reducible apply Only.ite) | (with_reducible apply Only.ite_fst) | (with_reducible apply State.memUp_step (hm := by decide)) | (with_reducible apply Only.foldl (hg := fun _ _ => ?_)) | (with_reducible apply Only.foldl_fst (hg := fun _ _ => ?_)) | split | dsimp only | (with_reducible apply only_with_banks_step (hm := by decide)))
theorem State.bankUp_step {l₀ : List Part} {s₀ : State} (s : State) (b : Nat) (f : BankSt → BankSt) (h₀ : Only l₀ s₀ s) (hm : [.mem] ⊆ l₀) : Only l₀ s₀ (State.bankUp s b f) :=
  h₀.step (State.bankUp_only s b f) hm

theorem State.bkgUp_only (s : State) (f : Bkg → Bkg) : Only [.bkg] s (State.bkgUp s f) := by
  unfold State.bkgUp
  try dsimp only
  repeat' (first | (with_reducible exact Only.refl _ _) | (with_reducible apply Only.ite) | (with_reducible apply Only.ite_fst) | (with_reducible apply Only.foldl (hg := fun _ _ => ?_)) | (with_reducible apply Only.foldl_fst (hg := fun _ _ => ?_)) | split | dsimp only | (with_reducible apply only_with_bkg_step (hm := by decide)))
theorem State.bkgUp_step {l₀ : List Part} {s₀ : State} (s : State) (f : Bkg → Bkg) (h₀ : Only l₀ s₀ s) (hm : [.bkg] ⊆ l₀) : Only l₀ s₀ (State.bkgUp s f) :=
  h₀.step (State.bkgUp_only s f) hm

theorem setErr_only (s : State) (k : Nat) (e : BitVec 145) : Only [.mem] s (setErr s k e) := by
  unfold setErr
  try dsimp only
  repeat' (first | (with_reducible exact Only.refl _ _) | (with_reducible apply Only.ite) | (with_reducible apply Only.ite_fst) | (with_reducible apply State.memUp_step (hm := by decide)) | (with_reducible apply Only.foldl (hg := fun _ _ => ?_)) | (with_reducible apply Only.foldl_fst (hg := fun _ _ => ?_)) | split | dsimp only)
theorem setErr_step {l₀ : List Part} {s₀ : State} (s : State) (k : Nat) (e : BitVec 145) (h₀ : Only l₀ s₀ s) (hm : [.mem] ⊆ l₀) : Only l₀ s₀ (setErr s k e) :=
  h₀.step (setErr_only s k e) hm

theorem memLog_only (s : State) (k : Check) (src b w : Nat) (e : BitVec 145) : Only [.regs] s (memLog s k src b w e) := by
  unfold memLog
  try dsimp only
  repeat' (first | (with_reducible exact Only.refl _ _) | (with_reducible apply Only.ite) | (with_reducible apply Only.ite_fst) | (with_reducible apply State.wr_step (hm := by decide)) | (with_reducible apply State.set_step (hm := by decide)) | (with_reducible apply Only.foldl (hg := fun _ _ => ?_)) | (with_reducible apply Only.foldl_fst (hg := fun _ _ => ?_)) | split | dsimp only)
theorem memLog_step {l₀ : List Part} {s₀ : State} (s : State) (k : Check) (src b w : Nat) (e : BitVec 145) (h₀ : Only l₀ s₀ s) (hm : [.regs] ⊆ l₀) : Only l₀ s₀ (memLog s k src b w e) :=
  h₀.step (memLog_only s k src b w e) hm

theorem transitError_only (s : State) (b w : Nat) (e : BitVec 145) : Only [.regs, .free] s (transitError s b w e).1 := by
  unfold transitError
  try dsimp only
  repeat' (first | (with_reducible exact Only.refl _ _) | (with_reducible apply Only.ite) | (with_reducible apply Only.ite_fst) | (with_reducible apply State.raise_step (hm := by decide)) | (with_reducible apply State.setFree_step (hm := by decide)) | (with_reducible apply memLog_step (hm := by decide)) | (with_reducible apply Only.foldl (hg := fun _ _ => ?_)) | (with_reducible apply Only.foldl_fst (hg := fun _ _ => ?_)) | split | dsimp only)
theorem transitError_step {l₀ : List Part} {s₀ : State} (s : State) (b w : Nat) (e : BitVec 145) (h₀ : Only l₀ s₀ s) (hm : [.regs, .free] ⊆ l₀) : Only l₀ s₀ (transitError s b w e).1 :=
  h₀.step (transitError_only s b w e) hm

theorem addCandidate_only (s : State) (b row reason : Nat) : Only [.mem] s (addCandidate s b row reason) := by
  unfold addCandidate
  try dsimp only
  repeat' (first | (with_reducible exact Only.refl _ _) | (with_reducible apply Only.ite) | (with_reducible apply Only.ite_fst) | (with_reducible apply State.bankUp_step (hm := by decide)) | (with_reducible apply Only.foldl (hg := fun _ _ => ?_)) | (with_reducible apply Only.foldl_fst (hg := fun _ _ => ?_)) | split | dsimp only)
theorem addCandidate_step {l₀ : List Part} {s₀ : State} (s : State) (b row reason : Nat) (h₀ : Only l₀ s₀ s) (hm : [.mem] ⊆ l₀) : Only l₀ s₀ (addCandidate s b row reason) :=
  h₀.step (addCandidate_only s b row reason) hm

theorem historyStep_only (s : State) (b w : Nat) : Only [.mem] s (historyStep s b w).1 := by
  unfold historyStep
  try dsimp only
  repeat' (first | (with_reducible exact Only.refl _ _) | (with_reducible apply Only.ite) | (with_reducible apply Only.ite_fst) | (with_reducible apply State.bankUp_step (hm := by decide)) | (with_reducible apply Only.foldl (hg := fun _ _ => ?_)) | (with_reducible apply Only.foldl_fst (hg := fun _ _ => ?_)) | split | dsimp only)
theorem historyStep_step {l₀ : List Part} {s₀ : State} (s : State) (b w : Nat) (h₀ : Only l₀ s₀ s) (hm : [.mem] ⊆ l₀) : Only l₀ s₀ (historyStep s b w).1 :=
  h₀.step (historyStep_only s b w) hm

theorem noteError_only (s : State) (src b w : Nat) : Only [.regs, .mem] s (noteError s src b w).1 := by
  unfold noteError
  try dsimp only
  repeat' (first | (with_reducible exact Only.refl _ _) | (with_reducible apply Only.ite) | (with_reducible apply Only.ite_fst) | (with_reducible apply State.bankUp_step (hm := by decide)) | (with_reducible apply State.raise_step (hm := by decide)) | (with_reducible apply State.memUp_step (hm := by decide)) | (with_reducible apply memLog_step (hm := by decide)) | (with_reducible apply Only.foldl (hg := fun _ _ => ?_)) | (with_reducible apply Only.foldl_fst (hg := fun _ _ => ?_)) | split | dsimp only)
theorem noteError_step {l₀ : List Part} {s₀ : State} (s : State) (src b w : Nat) (h₀ : Only l₀ s₀ s) (hm : [.regs, .mem] ⊆ l₀) : Only l₀ s₀ (noteError s src b w).1 :=
  h₀.step (noteError_only s src b w) hm

theorem foundError_only (s : State) (src b w : Nat) : Only [.regs, .mem] s (foundError s src b w).1 := by
  unfold foundError
  try dsimp only
  repeat' (first | (with_reducible exact Only.refl _ _) | (with_reducible apply Only.ite) | (with_reducible apply Only.ite_fst) | (with_reducible apply addCandidate_step (hm := by decide)) | (with_reducible apply historyStep_step (hm := by decide)) | (with_reducible apply noteError_step (hm := by decide)) | (with_reducible apply Only.foldl (hg := fun _ _ => ?_)) | (with_reducible apply Only.foldl_fst (hg := fun _ _ => ?_)) | (with_reducible refine Only.of_fst (by assumption) ?_) | split | dsimp only)
theorem foundError_step {l₀ : List Part} {s₀ : State} (s : State) (src b w : Nat) (h₀ : Only l₀ s₀ s) (hm : [.regs, .mem] ⊆ l₀) : Only l₀ s₀ (foundError s src b w).1 :=
  h₀.step (foundError_only s src b w) hm

theorem ownerUe_only (s : State) (b : Nat) : Only [.regs, .banks, .conds, .gates, .mb, .legs, .lanes, .loops, .lanePool, .vent, .bkg] s (ownerUe s b) := by
  unfold ownerUe
  try dsimp only
  repeat' (first | (with_reducible exact Only.refl _ _) | (with_reducible apply Only.ite) | (with_reducible apply Only.ite_fst) | (with_reducible apply ventCoreUe_step (hm := by decide)) | (with_reducible apply laneUe_step (hm := by decide)) | (with_reducible apply mbCoreUe_step (hm := by decide)) | (with_reducible apply Only.foldl (hg := fun _ _ => ?_)) | (with_reducible apply Only.foldl_fst (hg := fun _ _ => ?_)) | split | dsimp only)
theorem ownerUe_step {l₀ : List Part} {s₀ : State} (s : State) (b : Nat) (h₀ : Only l₀ s₀ s) (hm : [.regs, .banks, .conds, .gates, .mb, .legs, .lanes, .loops, .lanePool, .vent, .bkg] ⊆ l₀) : Only l₀ s₀ (ownerUe s b) :=
  h₀.step (ownerUe_only s b) hm

theorem writeBack_only (s : State) (b w : Nat) : Only [.mem] s (writeBack s b w) := by
  unfold writeBack
  try dsimp only
  repeat' (first | (with_reducible exact Only.refl _ _) | (with_reducible apply Only.ite) | (with_reducible apply Only.ite_fst) | (with_reducible apply setErr_step (hm := by decide)) | (with_reducible apply Only.foldl (hg := fun _ _ => ?_)) | (with_reducible apply Only.foldl_fst (hg := fun _ _ => ?_)) | split | dsimp only)
theorem writeBack_step {l₀ : List Part} {s₀ : State} (s : State) (b w : Nat) (h₀ : Only l₀ s₀ s) (hm : [.mem] ⊆ l₀) : Only l₀ s₀ (writeBack s b w) :=
  h₀.step (writeBack_only s b w) hm

theorem bankWritten_only (s : State) (b w : Nat) : Only [.regs, .mem] s (bankWritten s b w) := by
  unfold bankWritten
  try dsimp only
  repeat' (first | (with_reducible exact Only.refl _ _) | (with_reducible apply Only.ite) | (with_reducible apply Only.ite_fst) | (with_reducible apply setErr_step (hm := by decide)) | (with_reducible apply State.set_step (hm := by decide)) | (with_reducible apply Only.foldl (hg := fun _ _ => ?_)) | (with_reducible apply Only.foldl_fst (hg := fun _ _ => ?_)) | split | dsimp only)
theorem bankWritten_step {l₀ : List Part} {s₀ : State} (s : State) (b w : Nat) (h₀ : Only l₀ s₀ s) (hm : [.regs, .mem] ⊆ l₀) : Only l₀ s₀ (bankWritten s b w) :=
  h₀.step (bankWritten_only s b w) hm

theorem injectArm_only (s : State) (v : Word) : Only [.regs, .heldU, .heldB] s (injectArm s v) := by
  unfold injectArm
  try dsimp only
  repeat' (first | (with_reducible exact Only.refl _ _) | (with_reducible apply Only.ite) | (with_reducible apply Only.ite_fst) | (with_reducible apply storeCoded_step (hm := by decide)) | (with_reducible apply Only.foldl (hg := fun _ _ => ?_)) | (with_reducible apply Only.foldl_fst (hg := fun _ _ => ?_)) | split | dsimp only)
theorem injectArm_step {l₀ : List Part} {s₀ : State} (s : State) (v : Word) (h₀ : Only l₀ s₀ s) (hm : [.regs, .heldU, .heldB] ⊆ l₀) : Only l₀ s₀ (injectArm s v) :=
  h₀.step (injectArm_only s v) hm

theorem startRepair_only (s : State) (b : Nat) : Only [.regs, .mem] s (startRepair s b) := by
  unfold startRepair
  try dsimp only
  repeat' (first | (with_reducible exact Only.refl _ _) | (with_reducible apply Only.ite) | (with_reducible apply Only.ite_fst) | (with_reducible apply State.bankUp_step (hm := by decide)) | (with_reducible apply State.raise_step (hm := by decide)) | (with_reducible apply Only.foldl (hg := fun _ _ => ?_)) | (with_reducible apply Only.foldl_fst (hg := fun _ _ => ?_)) | split | dsimp only)
theorem startRepair_step {l₀ : List Part} {s₀ : State} (s : State) (b : Nat) (h₀ : Only l₀ s₀ s) (hm : [.regs, .mem] ⊆ l₀) : Only l₀ s₀ (startRepair s b) :=
  h₀.step (startRepair_only s b) hm

theorem scrubRowOf_only (s : State) (b row : Nat) : Only [.regs, .mem] s (scrubRowOf s b row) := by
  unfold scrubRowOf
  try dsimp only
  repeat' (first | (with_reducible exact Only.refl _ _) | (with_reducible apply Only.ite) | (with_reducible apply Only.ite_fst) | (with_reducible apply State.bankUp_step (hm := by decide)) | (with_reducible apply State.set_step (hm := by decide)) | (with_reducible apply foundError_step (hm := by decide)) | (with_reducible apply noteError_step (hm := by decide)) | (with_reducible apply Only.foldl (hg := fun _ _ => ?_)) | (with_reducible apply Only.foldl_fst (hg := fun _ _ => ?_)) | (with_reducible refine Only.of_fst (by assumption) ?_) | split | dsimp only)
theorem scrubRowOf_step {l₀ : List Part} {s₀ : State} (s : State) (b row : Nat) (h₀ : Only l₀ s₀ s) (hm : [.regs, .mem] ⊆ l₀) : Only l₀ s₀ (scrubRowOf s b row) :=
  h₀.step (scrubRowOf_only s b row) hm

theorem scrubSmall_only (s : State) : Only [.regs, .banks, .conds, .gates, .mb, .legs, .lanes, .loops, .lanePool, .vent, .mem, .bkg] s (scrubSmall s) := by
  unfold scrubSmall
  try dsimp only
  repeat' (first | (with_reducible exact Only.refl _ _) | (with_reducible apply Only.ite) | (with_reducible apply Only.ite_fst) | (with_reducible apply foundError_step (hm := by decide)) | (with_reducible apply ownerUe_step (hm := by decide)) | (with_reducible apply Only.foldl (hg := fun _ _ => ?_)) | (with_reducible apply Only.foldl_fst (hg := fun _ _ => ?_)) | (with_reducible refine Only.of_fst (by assumption) ?_) | split | dsimp only)
theorem scrubSmall_step {l₀ : List Part} {s₀ : State} (s : State) (h₀ : Only l₀ s₀ s) (hm : [.regs, .banks, .conds, .gates, .mb, .legs, .lanes, .loops, .lanePool, .vent, .mem, .bkg] ⊆ l₀) : Only l₀ s₀ (scrubSmall s) :=
  h₀.step (scrubSmall_only s) hm

theorem struckWords_only (s : State) (l : List (Nat × Nat × BitVec 145)) : Only [.mem] s (struckWords s l) := by
  unfold struckWords
  try dsimp only
  repeat' (first | (with_reducible exact Only.refl _ _) | (with_reducible apply Only.ite) | (with_reducible apply Only.ite_fst) | (with_reducible apply State.memUp_step (hm := by decide)) | (with_reducible apply Only.foldl (hg := fun _ _ => ?_)) | (with_reducible apply Only.foldl_fst (hg := fun _ _ => ?_)) | split | dsimp only)
theorem struckWords_step {l₀ : List Part} {s₀ : State} (s : State) (l : List (Nat × Nat × BitVec 145)) (h₀ : Only l₀ s₀ s) (hm : [.mem] ⊆ l₀) : Only l₀ s₀ (struckWords s l) :=
  h₀.step (struckWords_only s l) hm

theorem scrubStep_only (s : State) (struck : List (Nat × Nat × BitVec 145)) : Only [.regs, .banks, .conds, .gates, .mb, .legs, .lanes, .loops, .lanePool, .vent, .mem, .bkg] s (scrubStep s struck) := by
  unfold scrubStep
  try dsimp only
  repeat' (first | (with_reducible exact Only.refl _ _) | (with_reducible apply Only.ite) | (with_reducible apply Only.ite_fst) | (with_reducible apply State.bkgUp_step (hm := by decide)) | (with_reducible apply State.memUp_step (hm := by decide)) | (with_reducible apply State.set_step (hm := by decide)) | (with_reducible apply struckWords_step (hm := by decide)) | (with_reducible apply startRepair_step (hm := by decide)) | (with_reducible apply scrubRowOf_step (hm := by decide)) | (with_reducible apply scrubSmall_step (hm := by decide)) | (with_reducible apply Only.foldl (hg := fun _ _ => ?_)) | (with_reducible apply Only.foldl_fst (hg := fun _ _ => ?_)) | split | dsimp only)
theorem scrubStep_step {l₀ : List Part} {s₀ : State} (s : State) (struck : List (Nat × Nat × BitVec 145)) (h₀ : Only l₀ s₀ s) (hm : [.regs, .banks, .conds, .gates, .mb, .legs, .lanes, .loops, .lanePool, .vent, .mem, .bkg] ⊆ l₀) : Only l₀ s₀ (scrubStep s struck) :=
  h₀.step (scrubStep_only s struck) hm

theorem repairCopy_only (s : State) (b : Nat) : Only [.regs, .mem, .bkg] s (repairCopy s b) := by
  unfold repairCopy
  try dsimp only
  repeat' (first | (with_reducible exact Only.refl _ _) | (with_reducible apply Only.ite) | (with_reducible apply Only.ite_fst) | (with_reducible apply setErr_step (hm := by decide)) | (with_reducible apply State.bankUp_step (hm := by decide)) | (with_reducible apply State.raise_step (hm := by decide)) | (with_reducible apply State.set_step (hm := by decide)) | (with_reducible apply foundError_step (hm := by decide)) | (with_reducible apply queueRecord_step (hm := by decide)) | (with_reducible apply Only.foldl (hg := fun _ _ => ?_)) | (with_reducible apply Only.foldl_fst (hg := fun _ _ => ?_)) | (with_reducible refine Only.of_fst (by assumption) ?_) | split | dsimp only)
theorem repairCopy_step {l₀ : List Part} {s₀ : State} (s : State) (b : Nat) (h₀ : Only l₀ s₀ s) (hm : [.regs, .mem, .bkg] ⊆ l₀) : Only l₀ s₀ (repairCopy s b) :=
  h₀.step (repairCopy_only s b) hm

theorem repairAtWipe_only (s : State) (b row : Nat) : Only [.regs, .mem, .bkg] s (repairAtWipe s b row) := by
  unfold repairAtWipe
  try dsimp only
  repeat' (first | (with_reducible exact Only.refl _ _) | (with_reducible apply Only.ite) | (with_reducible apply Only.ite_fst) | (with_reducible apply State.bankUp_step (hm := by decide)) | (with_reducible apply State.raise_step (hm := by decide)) | (with_reducible apply State.set_step (hm := by decide)) | (with_reducible apply queueRecord_step (hm := by decide)) | (with_reducible apply Only.foldl (hg := fun _ _ => ?_)) | (with_reducible apply Only.foldl_fst (hg := fun _ _ => ?_)) | split | dsimp only)
theorem repairAtWipe_step {l₀ : List Part} {s₀ : State} (s : State) (b row : Nat) (h₀ : Only l₀ s₀ s) (hm : [.regs, .mem, .bkg] ⊆ l₀) : Only l₀ s₀ (repairAtWipe s b row) :=
  h₀.step (repairAtWipe_only s b row) hm

theorem showBusy_only (s : State) : Only [.regs] s (showBusy s) := by
  unfold showBusy
  try dsimp only
  repeat' (first | (with_reducible exact Only.refl _ _) | (with_reducible apply Only.ite) | (with_reducible apply Only.ite_fst) | (with_reducible apply State.setB_step (hm := by decide)) | (with_reducible apply Only.foldl (hg := fun _ _ => ?_)) | (with_reducible apply Only.foldl_fst (hg := fun _ _ => ?_)) | split | dsimp only)
theorem showBusy_step {l₀ : List Part} {s₀ : State} (s : State) (h₀ : Only l₀ s₀ s) (hm : [.regs] ⊆ l₀) : Only l₀ s₀ (showBusy s) :=
  h₀.step (showBusy_only s) hm

theorem placeRecord_only (s : State) (r : LogRec) : Only [.regs, .bkg] s (placeRecord s r) := by
  unfold placeRecord
  try dsimp only
  repeat' (first | (with_reducible exact Only.refl _ _) | (with_reducible apply Only.ite) | (with_reducible apply Only.ite_fst) | (with_reducible apply State.set_step (hm := by decide)) | (with_reducible apply State.bkgUp_step (hm := by decide)) | (with_reducible apply Only.foldl (hg := fun _ _ => ?_)) | (with_reducible apply Only.foldl_fst (hg := fun _ _ => ?_)) | split | dsimp only)
theorem placeRecord_step {l₀ : List Part} {s₀ : State} (s : State) (r : LogRec) (h₀ : Only l₀ s₀ s) (hm : [.regs, .bkg] ⊆ l₀) : Only l₀ s₀ (placeRecord s r) :=
  h₀.step (placeRecord_only s r) hm

theorem openSector_only (s : State) : Only [.regs, .bkg] s (openSector s) := by
  unfold openSector
  try dsimp only
  repeat' (first | (with_reducible exact Only.refl _ _) | (with_reducible apply Only.ite) | (with_reducible apply Only.ite_fst) | (with_reducible apply placeRecord_step (hm := by decide)) | (with_reducible apply State.bkgUp_step (hm := by decide)) | (with_reducible apply State.wr_step (hm := by decide)) | (with_reducible apply State.set_step (hm := by decide)) | (with_reducible apply Only.foldl (hg := fun _ _ => ?_)) | (with_reducible apply Only.foldl_fst (hg := fun _ _ => ?_)) | split | dsimp only)
theorem openSector_step {l₀ : List Part} {s₀ : State} (s : State) (h₀ : Only l₀ s₀ s) (hm : [.regs, .bkg] ⊆ l₀) : Only l₀ s₀ (openSector s) :=
  h₀.step (openSector_only s) hm

theorem writeRecord_only (s : State) (r : LogRec) : Only [.regs, .bkg] s (writeRecord s r) := by
  unfold writeRecord
  try dsimp only
  repeat' (first | (with_reducible exact Only.refl _ _) | (with_reducible apply Only.ite) | (with_reducible apply Only.ite_fst) | (with_reducible apply placeRecord_step (hm := by decide)) | (with_reducible apply showBusy_step (hm := by decide)) | (with_reducible apply openSector_step (hm := by decide)) | (with_reducible apply Only.foldl (hg := fun _ _ => ?_)) | (with_reducible apply Only.foldl_fst (hg := fun _ _ => ?_)) | split | dsimp only)
theorem writeRecord_step {l₀ : List Part} {s₀ : State} (s : State) (r : LogRec) (h₀ : Only l₀ s₀ s) (hm : [.regs, .bkg] ⊆ l₀) : Only l₀ s₀ (writeRecord s r) :=
  h₀.step (writeRecord_only s r) hm

theorem logEvents_only (s : State) : Only [.regs, .bkg] s (logEvents s) := by
  unfold logEvents
  try dsimp only
  repeat' (first | (with_reducible exact Only.refl _ _) | (with_reducible apply Only.ite) | (with_reducible apply Only.ite_fst) | (with_reducible apply State.bkgUp_step (hm := by decide)) | (with_reducible apply showBusy_step (hm := by decide)) | (with_reducible apply writeRecord_step (hm := by decide)) | (with_reducible apply openSector_step (hm := by decide)) | (with_reducible apply Only.foldl (hg := fun _ _ => ?_)) | (with_reducible apply Only.foldl_fst (hg := fun _ _ => ?_)) | split | dsimp only)
theorem logEvents_step {l₀ : List Part} {s₀ : State} (s : State) (h₀ : Only l₀ s₀ s) (hm : [.regs, .bkg] ⊆ l₀) : Only l₀ s₀ (logEvents s) :=
  h₀.step (logEvents_only s) hm

theorem logState_only (s : State) : Only [.regs, .bkg] s (logState s) := by
  unfold logState
  try dsimp only
  repeat' (first | (with_reducible exact Only.refl _ _) | (with_reducible apply Only.ite) | (with_reducible apply Only.ite_fst) | (with_reducible apply State.bkgUp_step (hm := by decide)) | (with_reducible apply logEvents_step (hm := by decide)) | (with_reducible apply writeRecord_step (hm := by decide)) | (with_reducible apply Only.foldl (hg := fun _ _ => ?_)) | (with_reducible apply Only.foldl_fst (hg := fun _ _ => ?_)) | split | dsimp only)
theorem logState_step {l₀ : List Part} {s₀ : State} (s : State) (h₀ : Only l₀ s₀ s) (hm : [.regs, .bkg] ⊆ l₀) : Only l₀ s₀ (logState s) :=
  h₀.step (logState_only s) hm

theorem logFlush_only (s : State) : Only [.regs, .bkg] s (logFlush s) := by
  unfold logFlush
  try dsimp only
  repeat' (first | (with_reducible exact Only.refl _ _) | (with_reducible apply Only.ite) | (with_reducible apply Only.ite_fst) | (with_reducible apply State.set_step (hm := by decide)) | (with_reducible apply State.bkgUp_step (hm := by decide)) | (with_reducible apply Only.foldl (hg := fun _ _ => ?_)) | (with_reducible apply Only.foldl_fst (hg := fun _ _ => ?_)) | split | dsimp only)
theorem logFlush_step {l₀ : List Part} {s₀ : State} (s : State) (h₀ : Only l₀ s₀ s) (hm : [.regs, .bkg] ⊆ l₀) : Only l₀ s₀ (logFlush s) :=
  h₀.step (logFlush_only s) hm

theorem logOpDone_only (s : State) (op : FlashOp) (rest : List FlashOp) (ok : Bool) : Only [.regs, .bkg] s (logOpDone s op rest ok) := by
  unfold logOpDone
  try dsimp only
  repeat' (first | (with_reducible exact Only.refl _ _) | (with_reducible apply Only.ite) | (with_reducible apply Only.ite_fst) | (with_reducible apply State.bkgUp_step (hm := by decide)) | (with_reducible apply placeRecord_step (hm := by decide)) | (with_reducible apply State.raise_step (hm := by decide)) | (with_reducible apply State.set_step (hm := by decide)) | (with_reducible apply openSector_step (hm := by decide)) | (with_reducible apply Only.foldl (hg := fun _ _ => ?_)) | (with_reducible apply Only.foldl_fst (hg := fun _ _ => ?_)) | split | dsimp only)
theorem logOpDone_step {l₀ : List Part} {s₀ : State} (s : State) (op : FlashOp) (rest : List FlashOp) (ok : Bool) (h₀ : Only l₀ s₀ s) (hm : [.regs, .bkg] ⊆ l₀) : Only l₀ s₀ (logOpDone s op rest ok) :=
  h₀.step (logOpDone_only s op rest ok) hm

theorem flashOpDone_only (s : State) (ok : Bool) : Only [.regs, .bkg] s (flashOpDone s ok) := by
  unfold flashOpDone
  try dsimp only
  repeat' (first | (with_reducible exact Only.refl _ _) | (with_reducible apply Only.ite) | (with_reducible apply Only.ite_fst) | (with_reducible apply logOpDone_step (hm := by decide)) | (with_reducible apply State.set_step (hm := by decide)) | (with_reducible apply State.bkgUp_step (hm := by decide)) | (with_reducible apply showBusy_step (hm := by decide)) | (with_reducible apply Only.foldl (hg := fun _ _ => ?_)) | (with_reducible apply Only.foldl_fst (hg := fun _ _ => ?_)) | split | dsimp only)
theorem flashOpDone_step {l₀ : List Part} {s₀ : State} (s : State) (ok : Bool) (h₀ : Only l₀ s₀ s) (hm : [.regs, .bkg] ⊆ l₀) : Only l₀ s₀ (flashOpDone s ok) :=
  h₀.step (flashOpDone_only s ok) hm

theorem qspiRefuse_only (s : State) (reason : Nat) : Only [.regs] s (qspiRefuse s reason) := by
  unfold qspiRefuse
  try dsimp only
  repeat' (first | (with_reducible exact Only.refl _ _) | (with_reducible apply Only.ite) | (with_reducible apply Only.ite_fst) | (with_reducible apply State.set_step (hm := by decide)) | (with_reducible apply State.raise_step (hm := by decide)) | (with_reducible apply State.setB_step (hm := by decide)) | (with_reducible apply Only.foldl (hg := fun _ _ => ?_)) | (with_reducible apply Only.foldl_fst (hg := fun _ _ => ?_)) | split | dsimp only)
theorem qspiRefuse_step {l₀ : List Part} {s₀ : State} (s : State) (reason : Nat) (h₀ : Only l₀ s₀ s) (hm : [.regs] ⊆ l₀) : Only l₀ s₀ (qspiRefuse s reason) :=
  h₀.step (qspiRefuse_only s reason) hm

theorem qspiStart_only (s : State) (op : Nat) : Only [.regs, .bkg] s (qspiStart s op) := by
  unfold qspiStart
  try dsimp only
  repeat' (first | (with_reducible exact Only.refl _ _) | (with_reducible apply Only.ite) | (with_reducible apply Only.ite_fst) | (with_reducible apply State.bkgUp_step (hm := by decide)) | (with_reducible apply showBusy_step (hm := by decide)) | (with_reducible apply State.set_step (hm := by decide)) | (with_reducible apply qspiRefuse_step (hm := by decide)) | (with_reducible apply Only.foldl (hg := fun _ _ => ?_)) | (with_reducible apply Only.foldl_fst (hg := fun _ _ => ?_)) | split | dsimp only)
theorem qspiStart_step {l₀ : List Part} {s₀ : State} (s : State) (op : Nat) (h₀ : Only l₀ s₀ s) (hm : [.regs, .bkg] ⊆ l₀) : Only l₀ s₀ (qspiStart s op) :=
  h₀.step (qspiStart_only s op) hm

theorem qspiStatus_only (s : State) (sr1 : Byte) : Only [.regs] s (qspiStatus s sr1) := by
  unfold qspiStatus
  try dsimp only
  repeat' (first | (with_reducible exact Only.refl _ _) | (with_reducible apply Only.ite) | (with_reducible apply Only.ite_fst) | (with_reducible apply State.set_step (hm := by decide)) | (with_reducible apply qspiRefuse_step (hm := by decide)) | (with_reducible apply Only.foldl (hg := fun _ _ => ?_)) | (with_reducible apply Only.foldl_fst (hg := fun _ _ => ?_)) | split | dsimp only)
theorem qspiStatus_step {l₀ : List Part} {s₀ : State} (s : State) (sr1 : Byte) (h₀ : Only l₀ s₀ s) (hm : [.regs] ⊆ l₀) : Only l₀ s₀ (qspiStatus s sr1) :=
  h₀.step (qspiStatus_only s sr1) hm

theorem qspiBufWrite_only (s : State) (v : Word) : Only [.regs, .banks] s (qspiBufWrite s v) := by
  unfold qspiBufWrite
  try dsimp only
  repeat' (first | (with_reducible exact Only.refl _ _) | (with_reducible apply Only.ite) | (with_reducible apply Only.ite_fst) | (with_reducible apply State.putBank_step (hm := by decide)) | (with_reducible apply State.set_step (hm := by decide)) | (with_reducible apply qspiRefuse_step (hm := by decide)) | (with_reducible apply Only.foldl (hg := fun _ _ => ?_)) | (with_reducible apply Only.foldl_fst (hg := fun _ _ => ?_)) | split | dsimp only)
theorem qspiBufWrite_step {l₀ : List Part} {s₀ : State} (s : State) (v : Word) (h₀ : Only l₀ s₀ s) (hm : [.regs, .banks] ⊆ l₀) : Only l₀ s₀ (qspiBufWrite s v) :=
  h₀.step (qspiBufWrite_only s v) hm

theorem qspiBufRead_only (s : State) : Only [.regs, .rdata] s (qspiBufRead s) := by
  unfold qspiBufRead
  try dsimp only
  repeat' (first | (with_reducible exact Only.refl _ _) | (with_reducible apply Only.ite) | (with_reducible apply Only.ite_fst) | (with_reducible apply State.set_step (hm := by decide)) | (with_reducible apply State.answer_step (hm := by decide)) | (with_reducible apply Only.foldl (hg := fun _ _ => ?_)) | (with_reducible apply Only.foldl_fst (hg := fun _ _ => ?_)) | split | dsimp only)
theorem qspiBufRead_step {l₀ : List Part} {s₀ : State} (s : State) (h₀ : Only l₀ s₀ s) (hm : [.regs, .rdata] ⊆ l₀) : Only l₀ s₀ (qspiBufRead s) :=
  h₀.step (qspiBufRead_only s) hm

/-! ### The canonical form -/

theorem State.memUp_wf (s : State) (f : Mem → Mem) (h₀ : Memory.wf s = true) (he : (f s.mem).errs = s.mem.errs) (hw : (f s.mem).words = s.mem.words) : Memory.wf (State.memUp s f) = true := wf_with_mem s _ he hw h₀

theorem State.bankUp_wf (s : State) (b : Nat) (f : BankSt → BankSt) (h₀ : Memory.wf s = true) : Memory.wf (State.bankUp s b f) = true := by
  unfold State.bankUp
  try dsimp only
  repeat' (first | (with_reducible assumption) | (with_reducible rfl) | (with_reducible apply wf_ite) | (with_reducible apply wf_ite_fst) | (with_reducible apply State.memUp_wf) | (with_reducible apply wf_foldl (hg := fun _ _ _ => ?_)) | (with_reducible apply wf_foldl_fst (hg := fun _ _ _ => ?_)) | split | dsimp only)

theorem State.bkgUp_wf (s : State) (f : Bkg → Bkg) (h₀ : Memory.wf s = true) : Memory.wf (State.bkgUp s f) = true :=
  Only.wf (State.bkgUp_only s f) (by decide) h₀

theorem setErr_wf (s : State) (k : Nat) (e : BitVec 145) (h₀ : Memory.wf s = true) : Memory.wf (setErr s k e) = true := by
  unfold setErr State.memUp; rw [wf_iff] at *; exact ⟨h₀.1, h₀.2.1, kvWf_kvPut _ _ _ _ h₀.2.2.1, h₀.2.2.2⟩

theorem memLog_wf (s : State) (k : Check) (src b w : Nat) (e : BitVec 145) (h₀ : Memory.wf s = true) : Memory.wf (memLog s k src b w e) = true := by
  unfold memLog
  try dsimp only
  repeat' (first | (with_reducible assumption) | (with_reducible apply wf_ite) | (with_reducible apply wf_ite_fst) | (with_reducible apply State.set_wf) | (with_reducible apply State.wr_wf) | (with_reducible apply wf_foldl (hg := fun _ _ _ => ?_)) | (with_reducible apply wf_foldl_fst (hg := fun _ _ _ => ?_)) | split | dsimp only)

theorem transitError_wf (s : State) (b w : Nat) (e : BitVec 145) (h₀ : Memory.wf s = true) : Memory.wf (transitError s b w e).1 = true := by
  unfold transitError
  try dsimp only
  repeat' (first | (with_reducible assumption) | (with_reducible apply wf_ite) | (with_reducible apply wf_ite_fst) | (with_reducible apply memLog_wf) | (with_reducible apply State.setFree_wf) | (with_reducible apply State.raise_wf) | (with_reducible apply wf_foldl (hg := fun _ _ _ => ?_)) | (with_reducible apply wf_foldl_fst (hg := fun _ _ _ => ?_)) | split | dsimp only)

theorem addCandidate_wf (s : State) (b row reason : Nat) (h₀ : Memory.wf s = true) : Memory.wf (addCandidate s b row reason) = true := by
  unfold addCandidate
  try dsimp only
  repeat' (first | (with_reducible assumption) | (with_reducible rfl) | (with_reducible apply wf_ite) | (with_reducible apply wf_ite_fst) | (with_reducible apply State.bankUp_wf) | (with_reducible apply wf_foldl (hg := fun _ _ _ => ?_)) | (with_reducible apply wf_foldl_fst (hg := fun _ _ _ => ?_)) | split | dsimp only)

theorem historyStep_wf (s : State) (b w : Nat) (h₀ : Memory.wf s = true) : Memory.wf (historyStep s b w).1 = true := by
  unfold historyStep
  try dsimp only
  repeat' (first | (with_reducible assumption) | (with_reducible rfl) | (with_reducible apply wf_ite) | (with_reducible apply wf_ite_fst) | (with_reducible apply State.bankUp_wf) | (with_reducible apply wf_foldl (hg := fun _ _ _ => ?_)) | (with_reducible apply wf_foldl_fst (hg := fun _ _ _ => ?_)) | split | dsimp only)

theorem noteError_wf (s : State) (src b w : Nat) (h₀ : Memory.wf s = true) : Memory.wf (noteError s src b w).1 = true := by
  unfold noteError
  try dsimp only
  repeat' (first | (with_reducible assumption) | (with_reducible rfl) | (with_reducible apply wf_ite) | (with_reducible apply wf_ite_fst) | (with_reducible apply State.memUp_wf) | (with_reducible apply State.bankUp_wf) | (with_reducible apply memLog_wf) | (with_reducible apply State.raise_wf) | (with_reducible apply wf_foldl (hg := fun _ _ _ => ?_)) | (with_reducible apply wf_foldl_fst (hg := fun _ _ _ => ?_)) | split | dsimp only)

theorem foundError_wf (s : State) (src b w : Nat) (h₀ : Memory.wf s = true) : Memory.wf (foundError s src b w).1 = true := by
  unfold foundError
  try dsimp only
  repeat' (first | (with_reducible assumption) | (with_reducible rfl) | (with_reducible apply wf_ite) | (with_reducible apply wf_ite_fst) | (with_reducible apply noteError_wf) | (with_reducible apply historyStep_wf) | (with_reducible apply addCandidate_wf) | (with_reducible apply wf_foldl (hg := fun _ _ _ => ?_)) | (with_reducible apply wf_foldl_fst (hg := fun _ _ _ => ?_)) | (with_reducible refine wf_of_fst (by assumption) ?_) | split | dsimp only)

theorem ownerUe_wf (s : State) (b : Nat) (h₀ : Memory.wf s = true) : Memory.wf (ownerUe s b) = true := by
  unfold ownerUe
  try dsimp only
  repeat' (first | (with_reducible assumption) | (with_reducible rfl) | (with_reducible apply wf_ite) | (with_reducible apply wf_ite_fst) | (with_reducible apply ventCoreUe_wf) | (with_reducible apply laneUe_wf) | (with_reducible apply mbCoreUe_wf) | (with_reducible apply wf_foldl (hg := fun _ _ _ => ?_)) | (with_reducible apply wf_foldl_fst (hg := fun _ _ _ => ?_)) | split | dsimp only)

theorem writeBack_wf (s : State) (b w : Nat) (h₀ : Memory.wf s = true) : Memory.wf (writeBack s b w) = true := by
  unfold writeBack
  try dsimp only
  repeat' (first | (with_reducible assumption) | (with_reducible rfl) | (with_reducible apply wf_ite) | (with_reducible apply wf_ite_fst) | (with_reducible apply setErr_wf) | (with_reducible apply wf_foldl (hg := fun _ _ _ => ?_)) | (with_reducible apply wf_foldl_fst (hg := fun _ _ _ => ?_)) | split | dsimp only)

theorem bankWritten_wf (s : State) (b w : Nat) (h₀ : Memory.wf s = true) : Memory.wf (bankWritten s b w) = true := by
  unfold bankWritten
  try dsimp only
  repeat' (first | (with_reducible assumption) | (with_reducible rfl) | (with_reducible apply wf_ite) | (with_reducible apply wf_ite_fst) | (with_reducible apply State.set_wf) | (with_reducible apply setErr_wf) | (with_reducible apply wf_foldl (hg := fun _ _ _ => ?_)) | (with_reducible apply wf_foldl_fst (hg := fun _ _ _ => ?_)) | split | dsimp only)

theorem injectArm_wf (s : State) (v : Word) (h₀ : Memory.wf s = true) : Memory.wf (injectArm s v) = true := by
  unfold injectArm
  try dsimp only
  repeat' (first | (with_reducible assumption) | (with_reducible apply wf_ite) | (with_reducible apply wf_ite_fst) | (with_reducible apply storeCoded_wf) | (with_reducible apply wf_foldl (hg := fun _ _ _ => ?_)) | (with_reducible apply wf_foldl_fst (hg := fun _ _ _ => ?_)) | split | dsimp only)

theorem startRepair_wf (s : State) (b : Nat) (h₀ : Memory.wf s = true) : Memory.wf (startRepair s b) = true := by
  unfold startRepair
  try dsimp only
  repeat' (first | (with_reducible assumption) | (with_reducible rfl) | (with_reducible apply wf_ite) | (with_reducible apply wf_ite_fst) | (with_reducible apply State.raise_wf) | (with_reducible apply State.bankUp_wf) | (with_reducible apply wf_foldl (hg := fun _ _ _ => ?_)) | (with_reducible apply wf_foldl_fst (hg := fun _ _ _ => ?_)) | split | dsimp only)

theorem scrubRowOf_wf (s : State) (b row : Nat) (h₀ : Memory.wf s = true) : Memory.wf (scrubRowOf s b row) = true := by
  unfold scrubRowOf
  try dsimp only
  repeat' (first | (with_reducible assumption) | (with_reducible rfl) | (with_reducible apply wf_ite) | (with_reducible apply wf_ite_fst) | (with_reducible apply noteError_wf) | (with_reducible apply foundError_wf) | (with_reducible apply State.bankUp_wf) | (with_reducible apply State.set_wf) | (with_reducible apply wf_foldl (hg := fun _ _ _ => ?_)) | (with_reducible apply wf_foldl_fst (hg := fun _ _ _ => ?_)) | (with_reducible refine wf_of_fst (by assumption) ?_) | split | dsimp only)

theorem scrubSmall_wf (s : State) (h₀ : Memory.wf s = true) : Memory.wf (scrubSmall s) = true := by
  unfold scrubSmall
  try dsimp only
  repeat' (first | (with_reducible assumption) | (with_reducible rfl) | (with_reducible apply wf_ite) | (with_reducible apply wf_ite_fst) | (with_reducible apply ownerUe_wf) | (with_reducible apply foundError_wf) | (with_reducible apply wf_foldl (hg := fun _ _ _ => ?_)) | (with_reducible apply wf_foldl_fst (hg := fun _ _ _ => ?_)) | (with_reducible refine wf_of_fst (by assumption) ?_) | split | dsimp only)

theorem struckWords_wf (s : State) (l : List (Nat × Nat × BitVec 145)) (h₀ : Memory.wf s = true) : Memory.wf (struckWords s l) = true := by
  unfold struckWords
  refine wf_foldl (fun t a h => ?_) h₀
  unfold State.memUp; rw [wf_iff] at *; exact ⟨h.1, h.2.1, kvWf_kvPut _ _ _ _ h.2.2.1, h.2.2.2⟩

theorem scrubStep_wf (s : State) (struck : List (Nat × Nat × BitVec 145)) (h₀ : Memory.wf s = true) : Memory.wf (scrubStep s struck) = true := by
  unfold scrubStep
  try dsimp only
  repeat' (first | (with_reducible assumption) | (with_reducible rfl) | (with_reducible apply wf_ite) | (with_reducible apply wf_ite_fst) | (with_reducible apply scrubRowOf_wf) | (with_reducible apply struckWords_wf) | (with_reducible apply State.bkgUp_wf) | (with_reducible apply State.memUp_wf) | (with_reducible apply startRepair_wf) | (with_reducible apply State.set_wf) | (with_reducible apply scrubSmall_wf) | (with_reducible apply wf_foldl (hg := fun _ _ _ => ?_)) | (with_reducible apply wf_foldl_fst (hg := fun _ _ _ => ?_)) | split | dsimp only)

theorem repairCopy_wf (s : State) (b : Nat) (h₀ : Memory.wf s = true) : Memory.wf (repairCopy s b) = true := by
  unfold repairCopy
  try dsimp only
  repeat' (first | (with_reducible assumption) | (with_reducible rfl) | (with_reducible apply wf_ite) | (with_reducible apply wf_ite_fst) | (with_reducible apply foundError_wf) | (with_reducible apply setErr_wf) | (with_reducible apply State.bankUp_wf) | (with_reducible apply State.set_wf) | (with_reducible apply queueRecord_wf) | (with_reducible apply State.raise_wf) | (with_reducible apply wf_foldl (hg := fun _ _ _ => ?_)) | (with_reducible apply wf_foldl_fst (hg := fun _ _ _ => ?_)) | (with_reducible refine wf_of_fst (by assumption) ?_) | split | dsimp only)

theorem repairAtWipe_wf (s : State) (b row : Nat) (h₀ : Memory.wf s = true) : Memory.wf (repairAtWipe s b row) = true := by
  unfold repairAtWipe
  try dsimp only
  repeat' (first | (with_reducible assumption) | (with_reducible rfl) | (with_reducible apply wf_ite) | (with_reducible apply wf_ite_fst) | (with_reducible apply State.bankUp_wf) | (with_reducible apply State.set_wf) | (with_reducible apply queueRecord_wf) | (with_reducible apply State.raise_wf) | (with_reducible apply wf_foldl (hg := fun _ _ _ => ?_)) | (with_reducible apply wf_foldl_fst (hg := fun _ _ _ => ?_)) | split | dsimp only)

theorem showBusy_wf (s : State) (h₀ : Memory.wf s = true) : Memory.wf (showBusy s) = true := by
  unfold showBusy
  try dsimp only
  repeat' (first | (with_reducible assumption) | (with_reducible apply wf_ite) | (with_reducible apply wf_ite_fst) | (with_reducible apply State.setB_wf) | (with_reducible apply wf_foldl (hg := fun _ _ _ => ?_)) | (with_reducible apply wf_foldl_fst (hg := fun _ _ _ => ?_)) | split | dsimp only)

theorem placeRecord_wf (s : State) (r : LogRec) (h₀ : Memory.wf s = true) : Memory.wf (placeRecord s r) = true := by
  unfold placeRecord
  try dsimp only
  repeat' (first | (with_reducible assumption) | (with_reducible apply wf_ite) | (with_reducible apply wf_ite_fst) | (with_reducible apply State.bkgUp_wf) | (with_reducible apply State.set_wf) | (with_reducible apply wf_foldl (hg := fun _ _ _ => ?_)) | (with_reducible apply wf_foldl_fst (hg := fun _ _ _ => ?_)) | split | dsimp only)

theorem openSector_wf (s : State) (h₀ : Memory.wf s = true) : Memory.wf (openSector s) = true := by
  unfold openSector
  try dsimp only
  repeat' (first | (with_reducible assumption) | (with_reducible apply wf_ite) | (with_reducible apply wf_ite_fst) | (with_reducible apply placeRecord_wf) | (with_reducible apply State.bkgUp_wf) | (with_reducible apply State.set_wf) | (with_reducible apply State.wr_wf) | (with_reducible apply wf_foldl (hg := fun _ _ _ => ?_)) | (with_reducible apply wf_foldl_fst (hg := fun _ _ _ => ?_)) | split | dsimp only)

theorem writeRecord_wf (s : State) (r : LogRec) (h₀ : Memory.wf s = true) : Memory.wf (writeRecord s r) = true := by
  unfold writeRecord
  try dsimp only
  repeat' (first | (with_reducible assumption) | (with_reducible apply wf_ite) | (with_reducible apply wf_ite_fst) | (with_reducible apply placeRecord_wf) | (with_reducible apply showBusy_wf) | (with_reducible apply openSector_wf) | (with_reducible apply wf_foldl (hg := fun _ _ _ => ?_)) | (with_reducible apply wf_foldl_fst (hg := fun _ _ _ => ?_)) | split | dsimp only)

theorem logEvents_wf (s : State) (h₀ : Memory.wf s = true) : Memory.wf (logEvents s) = true := by
  unfold logEvents
  try dsimp only
  repeat' (first | (with_reducible assumption) | (with_reducible apply wf_ite) | (with_reducible apply wf_ite_fst) | (with_reducible apply State.bkgUp_wf) | (with_reducible apply showBusy_wf) | (with_reducible apply writeRecord_wf) | (with_reducible apply openSector_wf) | (with_reducible apply wf_foldl (hg := fun _ _ _ => ?_)) | (with_reducible apply wf_foldl_fst (hg := fun _ _ _ => ?_)) | split | dsimp only)

theorem logState_wf (s : State) (h₀ : Memory.wf s = true) : Memory.wf (logState s) = true := by
  unfold logState
  try dsimp only
  repeat' (first | (with_reducible assumption) | (with_reducible apply wf_ite) | (with_reducible apply wf_ite_fst) | (with_reducible apply State.bkgUp_wf) | (with_reducible apply logEvents_wf) | (with_reducible apply writeRecord_wf) | (with_reducible apply wf_foldl (hg := fun _ _ _ => ?_)) | (with_reducible apply wf_foldl_fst (hg := fun _ _ _ => ?_)) | split | dsimp only)

theorem logFlush_wf (s : State) (h₀ : Memory.wf s = true) : Memory.wf (logFlush s) = true := by
  unfold logFlush
  try dsimp only
  repeat' (first | (with_reducible assumption) | (with_reducible apply wf_ite) | (with_reducible apply wf_ite_fst) | (with_reducible apply State.bkgUp_wf) | (with_reducible apply State.set_wf) | (with_reducible apply wf_foldl (hg := fun _ _ _ => ?_)) | (with_reducible apply wf_foldl_fst (hg := fun _ _ _ => ?_)) | split | dsimp only)

theorem logOpDone_wf (s : State) (op : FlashOp) (rest : List FlashOp) (ok : Bool) (h₀ : Memory.wf s = true) : Memory.wf (logOpDone s op rest ok) = true := by
  unfold logOpDone
  try dsimp only
  repeat' (first | (with_reducible assumption) | (with_reducible apply wf_ite) | (with_reducible apply wf_ite_fst) | (with_reducible apply placeRecord_wf) | (with_reducible apply State.bkgUp_wf) | (with_reducible apply State.set_wf) | (with_reducible apply State.raise_wf) | (with_reducible apply openSector_wf) | (with_reducible apply wf_foldl (hg := fun _ _ _ => ?_)) | (with_reducible apply wf_foldl_fst (hg := fun _ _ _ => ?_)) | split | dsimp only)

theorem flashOpDone_wf (s : State) (ok : Bool) (h₀ : Memory.wf s = true) : Memory.wf (flashOpDone s ok) = true := by
  unfold flashOpDone
  try dsimp only
  repeat' (first | (with_reducible assumption) | (with_reducible apply wf_ite) | (with_reducible apply wf_ite_fst) | (with_reducible apply State.bkgUp_wf) | (with_reducible apply showBusy_wf) | (with_reducible apply State.set_wf) | (with_reducible apply logOpDone_wf) | (with_reducible apply wf_foldl (hg := fun _ _ _ => ?_)) | (with_reducible apply wf_foldl_fst (hg := fun _ _ _ => ?_)) | split | dsimp only)

theorem qspiRefuse_wf (s : State) (reason : Nat) (h₀ : Memory.wf s = true) : Memory.wf (qspiRefuse s reason) = true := by
  unfold qspiRefuse
  try dsimp only
  repeat' (first | (with_reducible assumption) | (with_reducible apply wf_ite) | (with_reducible apply wf_ite_fst) | (with_reducible apply State.setB_wf) | (with_reducible apply State.set_wf) | (with_reducible apply State.raise_wf) | (with_reducible apply wf_foldl (hg := fun _ _ _ => ?_)) | (with_reducible apply wf_foldl_fst (hg := fun _ _ _ => ?_)) | split | dsimp only)

theorem qspiStart_wf (s : State) (op : Nat) (h₀ : Memory.wf s = true) : Memory.wf (qspiStart s op) = true := by
  unfold qspiStart
  try dsimp only
  repeat' (first | (with_reducible assumption) | (with_reducible apply wf_ite) | (with_reducible apply wf_ite_fst) | (with_reducible apply State.bkgUp_wf) | (with_reducible apply showBusy_wf) | (with_reducible apply State.set_wf) | (with_reducible apply qspiRefuse_wf) | (with_reducible apply wf_foldl (hg := fun _ _ _ => ?_)) | (with_reducible apply wf_foldl_fst (hg := fun _ _ _ => ?_)) | split | dsimp only)

theorem qspiStatus_wf (s : State) (sr1 : Byte) (h₀ : Memory.wf s = true) : Memory.wf (qspiStatus s sr1) = true := by
  unfold qspiStatus
  try dsimp only
  repeat' (first | (with_reducible assumption) | (with_reducible apply wf_ite) | (with_reducible apply wf_ite_fst) | (with_reducible apply State.set_wf) | (with_reducible apply qspiRefuse_wf) | (with_reducible apply wf_foldl (hg := fun _ _ _ => ?_)) | (with_reducible apply wf_foldl_fst (hg := fun _ _ _ => ?_)) | split | dsimp only)

theorem qspiBufWrite_wf (s : State) (v : Word) (h₀ : Memory.wf s = true) : Memory.wf (qspiBufWrite s v) = true := by
  unfold qspiBufWrite
  try dsimp only
  repeat' (first | (with_reducible assumption) | (with_reducible apply wf_ite) | (with_reducible apply wf_ite_fst) | (with_reducible apply State.putBank_wf) | (with_reducible apply State.set_wf) | (with_reducible apply qspiRefuse_wf) | (with_reducible apply wf_foldl (hg := fun _ _ _ => ?_)) | (with_reducible apply wf_foldl_fst (hg := fun _ _ _ => ?_)) | split | dsimp only)

theorem qspiBufRead_wf (s : State) (h₀ : Memory.wf s = true) : Memory.wf (qspiBufRead s) = true := by
  unfold qspiBufRead
  try dsimp only
  repeat' (first | (with_reducible assumption) | (with_reducible apply wf_ite) | (with_reducible apply wf_ite_fst) | (with_reducible apply State.set_wf) | (with_reducible apply State.answer_wf) | (with_reducible apply wf_foldl (hg := fun _ _ _ => ?_)) | (with_reducible apply wf_foldl_fst (hg := fun _ _ _ => ?_)) | split | dsimp only)

end Sys2Proof.Machine
end

