-- ==== Sys2Proof/Laws/FrameRings.lean ====
section
/-! SUPPORT. Laws/FrameRings.lean: what the operations of Machine/Rings.lean may change (f_only; f_step after what went before), and
that each keeps the memories' canonical form (f_wf). -/

set_option Elab.async false
set_option linter.all false

namespace Sys2Proof.Machine

theorem State.ringUp_only (s : State) (r : Nat) (f : RingSt → RingSt) : Only [.rings] s (State.ringUp s r f) := by
  unfold State.ringUp
  try dsimp only
  repeat' (first | (with_reducible exact Only.refl _ _) | (with_reducible apply Only.ite) | (with_reducible apply Only.ite_fst) | (with_reducible apply Only.foldl (hg := fun _ _ => ?_)) | (with_reducible apply Only.foldl_fst (hg := fun _ _ => ?_)) | split | dsimp only | (with_reducible apply only_with_rings_step (hm := by decide)))
theorem State.ringUp_step {l₀ : List Part} {s₀ : State} (s : State) (r : Nat) (f : RingSt → RingSt) (h₀ : Only l₀ s₀ s) (hm : [.rings] ⊆ l₀) : Only l₀ s₀ (State.ringUp s r f) :=
  h₀.step (State.ringUp_only s r f) hm

theorem setCount_only (s : State) (r n : Nat) : Only [.regs] s (setCount s r n) := by
  unfold setCount
  try dsimp only
  repeat' (first | (with_reducible exact Only.refl _ _) | (with_reducible apply Only.ite) | (with_reducible apply Only.ite_fst) | (with_reducible apply State.set_step (hm := by decide)) | (with_reducible apply State.setB_step (hm := by decide)) | (with_reducible apply Only.foldl (hg := fun _ _ => ?_)) | (with_reducible apply Only.foldl_fst (hg := fun _ _ => ?_)) | split | dsimp only)
theorem setCount_step {l₀ : List Part} {s₀ : State} (s : State) (r n : Nat) (h₀ : Only l₀ s₀ s) (hm : [.regs] ⊆ l₀) : Only l₀ s₀ (setCount s r n) :=
  h₀.step (setCount_only s r n) hm

theorem takeSeq_only (s : State) (r : Nat) : Only [.regs] s (takeSeq s r) := by
  unfold takeSeq
  try dsimp only
  repeat' (first | (with_reducible exact Only.refl _ _) | (with_reducible apply Only.ite) | (with_reducible apply Only.ite_fst) | (with_reducible apply State.set_step (hm := by decide)) | (with_reducible apply Only.foldl (hg := fun _ _ => ?_)) | (with_reducible apply Only.foldl_fst (hg := fun _ _ => ?_)) | split | dsimp only)
theorem takeSeq_step {l₀ : List Part} {s₀ : State} (s : State) (r : Nat) (h₀ : Only l₀ s₀ s) (hm : [.regs] ⊆ l₀) : Only l₀ s₀ (takeSeq s r) :=
  h₀.step (takeSeq_only s r) hm

theorem ringStore_only (s : State) (r type ch : Nat) (payload : List Word) : Only [.regs, .banks, .mem] s (ringStore s r type ch payload) := by
  unfold ringStore
  try dsimp only
  repeat' (first | (with_reducible exact Only.refl _ _) | (with_reducible apply Only.ite) | (with_reducible apply Only.ite_fst) | (with_reducible apply takeSeq_step (hm := by decide)) | (with_reducible apply State.putBank_step (hm := by decide)) | (with_reducible apply State.set_step (hm := by decide)) | (with_reducible apply setCount_step (hm := by decide)) | (with_reducible apply bankWritten_step (hm := by decide)) | (with_reducible apply Only.foldl (hg := fun _ _ => ?_)) | (with_reducible apply Only.foldl_fst (hg := fun _ _ => ?_)) | split | dsimp only)
theorem ringStore_step {l₀ : List Part} {s₀ : State} (s : State) (r type ch : Nat) (payload : List Word) (h₀ : Only l₀ s₀ s) (hm : [.regs, .banks, .mem] ⊆ l₀) : Only l₀ s₀ (ringStore s r type ch payload) :=
  h₀.step (ringStore_only s r type ch payload) hm

theorem ringDrop_only (s : State) (r : Nat) : Only [.regs] s (ringDrop s r) := by
  unfold ringDrop
  try dsimp only
  repeat' (first | (with_reducible exact Only.refl _ _) | (with_reducible apply Only.ite) | (with_reducible apply Only.ite_fst) | (with_reducible apply State.set_step (hm := by decide)) | (with_reducible apply setCount_step (hm := by decide)) | (with_reducible apply Only.foldl (hg := fun _ _ => ?_)) | (with_reducible apply Only.foldl_fst (hg := fun _ _ => ?_)) | split | dsimp only)
theorem ringDrop_step {l₀ : List Part} {s₀ : State} (s : State) (r : Nat) (h₀ : Only l₀ s₀ s) (hm : [.regs] ⊆ l₀) : Only l₀ s₀ (ringDrop s r) :=
  h₀.step (ringDrop_only s r) hm

theorem flushLoss_only (s : State) (r : Nat) : Only [.regs, .banks, .conds, .mem, .rings] s (flushLoss s r) := by
  unfold flushLoss
  try dsimp only
  repeat' (first | (with_reducible exact Only.refl _ _) | (with_reducible apply Only.ite) | (with_reducible apply Only.ite_fst) | (with_reducible apply ringStore_step (hm := by decide)) | (with_reducible apply State.ringUp_step (hm := by decide)) | (with_reducible apply State.cond_step (hm := by decide)) | (with_reducible apply Only.foldl (hg := fun _ _ => ?_)) | (with_reducible apply Only.foldl_fst (hg := fun _ _ => ?_)) | split | dsimp only)
theorem flushLoss_step {l₀ : List Part} {s₀ : State} (s : State) (r : Nat) (h₀ : Only l₀ s₀ s) (hm : [.regs, .banks, .conds, .mem, .rings] ⊆ l₀) : Only l₀ s₀ (flushLoss s r) :=
  h₀.step (flushLoss_only s r) hm

theorem loseEntry_only (s : State) (r : Nat) : Only [.regs, .conds, .rings] s (loseEntry s r) := by
  unfold loseEntry
  try dsimp only
  repeat' (first | (with_reducible exact Only.refl _ _) | (with_reducible apply Only.ite) | (with_reducible apply Only.ite_fst) | (with_reducible apply takeSeq_step (hm := by decide)) | (with_reducible apply State.ringUp_step (hm := by decide)) | (with_reducible apply State.set_step (hm := by decide)) | (with_reducible apply State.cond_step (hm := by decide)) | (with_reducible apply Only.foldl (hg := fun _ _ => ?_)) | (with_reducible apply Only.foldl_fst (hg := fun _ _ => ?_)) | split | dsimp only)
theorem loseEntry_step {l₀ : List Part} {s₀ : State} (s : State) (r : Nat) (h₀ : Only l₀ s₀ s) (hm : [.regs, .conds, .rings] ⊆ l₀) : Only l₀ s₀ (loseEntry s r) :=
  h₀.step (loseEntry_only s r) hm

theorem telProduce_only (s : State) (c type : Nat) (payload : List Word) : Only [.regs, .banks, .conds, .mem, .rings] s (telProduce s c type payload) := by
  unfold telProduce
  try dsimp only
  repeat' (first | (with_reducible exact Only.refl _ _) | (with_reducible apply Only.ite) | (with_reducible apply Only.ite_fst) | (with_reducible apply ringDrop_step (hm := by decide)) | (with_reducible apply flushLoss_step (hm := by decide)) | (with_reducible apply takeSeq_step (hm := by decide)) | (with_reducible apply ringStore_step (hm := by decide)) | (with_reducible apply loseEntry_step (hm := by decide)) | (with_reducible apply setCount_step (hm := by decide)) | (with_reducible apply Only.foldl (hg := fun _ _ => ?_)) | (with_reducible apply Only.foldl_fst (hg := fun _ _ => ?_)) | split | dsimp only)
theorem telProduce_step {l₀ : List Part} {s₀ : State} (s : State) (c type : Nat) (payload : List Word) (h₀ : Only l₀ s₀ s) (hm : [.regs, .banks, .conds, .mem, .rings] ⊆ l₀) : Only l₀ s₀ (telProduce s c type payload) :=
  h₀.step (telProduce_only s c type payload) hm

theorem telDeliver_only (s : State) (ws : List Word) : Only [.regs, .banks, .conds, .mem, .rings] s (telDeliver s ws) := by
  unfold telDeliver
  try dsimp only
  repeat' (first | (with_reducible exact Only.refl _ _) | (with_reducible apply Only.ite) | (with_reducible apply Only.ite_fst) | (with_reducible apply telProduce_step (hm := by decide)) | (with_reducible apply Only.foldl (hg := fun _ _ => ?_)) | (with_reducible apply Only.foldl_fst (hg := fun _ _ => ?_)) | split | dsimp only)
theorem telDeliver_step {l₀ : List Part} {s₀ : State} (s : State) (ws : List Word) (h₀ : Only l₀ s₀ s) (hm : [.regs, .banks, .conds, .mem, .rings] ⊆ l₀) : Only l₀ s₀ (telDeliver s ws) :=
  h₀.step (telDeliver_only s ws) hm

theorem cmdPush_only (s : State) (r : Nat) (ws : List Word) : Only [.regs, .banks, .mem, .rings] s (cmdPush s r ws).1 := by
  unfold cmdPush
  try dsimp only
  repeat' (first | (with_reducible exact Only.refl _ _) | (with_reducible apply Only.ite) | (with_reducible apply Only.ite_fst) | (with_reducible apply ringStore_step (hm := by decide)) | (with_reducible apply State.ringUp_step (hm := by decide)) | (with_reducible apply Only.foldl (hg := fun _ _ => ?_)) | (with_reducible apply Only.foldl_fst (hg := fun _ _ => ?_)) | split | dsimp only)
theorem cmdPush_step {l₀ : List Part} {s₀ : State} (s : State) (r : Nat) (ws : List Word) (h₀ : Only l₀ s₀ s) (hm : [.regs, .banks, .mem, .rings] ⊆ l₀) : Only l₀ s₀ (cmdPush s r ws).1 :=
  h₀.step (cmdPush_only s r ws) hm

theorem ringStage_only (s : State) (host : Bool) (r w : Nat) (v : Word) : Only [.regs, .rings] s (ringStage s host r w v) := by
  unfold ringStage
  try dsimp only
  repeat' (first | (with_reducible exact Only.refl _ _) | (with_reducible apply Only.ite) | (with_reducible apply Only.ite_fst) | (with_reducible apply State.set_step (hm := by decide)) | (with_reducible apply State.ringUp_step (hm := by decide)) | (with_reducible apply Only.foldl (hg := fun _ _ => ?_)) | (with_reducible apply Only.foldl_fst (hg := fun _ _ => ?_)) | split | dsimp only)
theorem ringStage_step {l₀ : List Part} {s₀ : State} (s : State) (host : Bool) (r w : Nat) (v : Word) (h₀ : Only l₀ s₀ s) (hm : [.regs, .rings] ⊆ l₀) : Only l₀ s₀ (ringStage s host r w v) :=
  h₀.step (ringStage_only s host r w v) hm

theorem ringPush_only (s : State) (host : Bool) (r : Nat) (v : Word) : Only [.regs, .banks, .conds, .mem, .rings] s (ringPush s host r v) := by
  unfold ringPush
  try dsimp only
  repeat' (first | (with_reducible exact Only.refl _ _) | (with_reducible apply Only.ite) | (with_reducible apply Only.ite_fst) | (with_reducible apply State.raise_step (hm := by decide)) | (with_reducible apply State.ringUp_step (hm := by decide)) | (with_reducible apply State.set_step (hm := by decide)) | (with_reducible apply telProduce_step (hm := by decide)) | (with_reducible apply cmdPush_step (hm := by decide)) | (with_reducible apply Only.foldl (hg := fun _ _ => ?_)) | (with_reducible apply Only.foldl_fst (hg := fun _ _ => ?_)) | (with_reducible refine Only.of_fst (by assumption) ?_) | split | dsimp only)
theorem ringPush_step {l₀ : List Part} {s₀ : State} (s : State) (host : Bool) (r : Nat) (v : Word) (h₀ : Only l₀ s₀ s) (hm : [.regs, .banks, .conds, .mem, .rings] ⊆ l₀) : Only l₀ s₀ (ringPush s host r v) :=
  h₀.step (ringPush_only s host r v) hm

theorem headEntry_only (s : State) (r : Nat) : Only [.regs, .mem] s (headEntry s r).1 := by
  unfold headEntry
  try dsimp only
  repeat' (first | (with_reducible exact Only.refl _ _) | (with_reducible apply Only.ite) | (with_reducible apply Only.ite_fst) | (with_reducible apply foundError_step (hm := by decide)) | (with_reducible apply Only.foldl (hg := fun _ _ => ?_)) | (with_reducible apply Only.foldl_fst (hg := fun _ _ => ?_)) | (with_reducible refine Only.of_fst (by assumption) ?_) | split | dsimp only)
theorem headEntry_step {l₀ : List Part} {s₀ : State} (s : State) (r : Nat) (h₀ : Only l₀ s₀ s) (hm : [.regs, .mem] ⊆ l₀) : Only l₀ s₀ (headEntry s r).1 :=
  h₀.step (headEntry_only s r) hm

theorem setLatch_only (s : State) (host : Bool) (r : Nat) (ws : List Word) (held : Bool) : Only [.rings] s (setLatch s host r ws held) := by
  unfold setLatch
  try dsimp only
  repeat' (first | (with_reducible exact Only.refl _ _) | (with_reducible apply Only.ite) | (with_reducible apply Only.ite_fst) | (with_reducible apply State.ringUp_step (hm := by decide)) | (with_reducible apply Only.foldl (hg := fun _ _ => ?_)) | (with_reducible apply Only.foldl_fst (hg := fun _ _ => ?_)) | split | dsimp only)
theorem setLatch_step {l₀ : List Part} {s₀ : State} (s : State) (host : Bool) (r : Nat) (ws : List Word) (held : Bool) (h₀ : Only l₀ s₀ s) (hm : [.rings] ⊆ l₀) : Only l₀ s₀ (setLatch s host r ws held) :=
  h₀.step (setLatch_only s host r ws held) hm

theorem ringFetch_only (s : State) (host : Bool) (r : Nat) : Only [.regs, .rdata, .mem, .rings] s (ringFetch s host r) := by
  unfold ringFetch
  try dsimp only
  repeat' (first | (with_reducible exact Only.refl _ _) | (with_reducible apply Only.ite) | (with_reducible apply Only.ite_fst) | (with_reducible apply headEntry_step (hm := by decide)) | (with_reducible apply State.raise_step (hm := by decide)) | (with_reducible apply setLatch_step (hm := by decide)) | (with_reducible apply State.answer_step (hm := by decide)) | (with_reducible apply Only.foldl (hg := fun _ _ => ?_)) | (with_reducible apply Only.foldl_fst (hg := fun _ _ => ?_)) | (with_reducible refine Only.of_fst (by assumption) ?_) | split | dsimp only)
theorem ringFetch_step {l₀ : List Part} {s₀ : State} (s : State) (host : Bool) (r : Nat) (h₀ : Only l₀ s₀ s) (hm : [.regs, .rdata, .mem, .rings] ⊆ l₀) : Only l₀ s₀ (ringFetch s host r) :=
  h₀.step (ringFetch_only s host r) hm

theorem ringConsume_only (s : State) (host : Bool) (r : Nat) : Only [.regs, .banks, .conds, .rdata, .mem, .rings] s (ringConsume s host r) := by
  unfold ringConsume
  try dsimp only
  repeat' (first | (with_reducible exact Only.refl _ _) | (with_reducible apply Only.ite) | (with_reducible apply Only.ite_fst) | (with_reducible apply ringDrop_step (hm := by decide)) | (with_reducible apply flushLoss_step (hm := by decide)) | (with_reducible apply State.ringUp_step (hm := by decide)) | (with_reducible apply State.answer_step (hm := by decide)) | (with_reducible apply Only.foldl (hg := fun _ _ => ?_)) | (with_reducible apply Only.foldl_fst (hg := fun _ _ => ?_)) | split | dsimp only)
theorem ringConsume_step {l₀ : List Part} {s₀ : State} (s : State) (host : Bool) (r : Nat) (h₀ : Only l₀ s₀ s) (hm : [.regs, .banks, .conds, .rdata, .mem, .rings] ⊆ l₀) : Only l₀ s₀ (ringConsume s host r) :=
  h₀.step (ringConsume_only s host r) hm

theorem ringConfig_only (s : State) (r : Nat) (v : Word) : Only [.regs, .heldU, .heldB, .banks, .conds, .mem, .rings] s (ringConfig s r v) := by
  unfold ringConfig
  try dsimp only
  repeat' (first | (with_reducible exact Only.refl _ _) | (with_reducible apply Only.ite) | (with_reducible apply Only.ite_fst) | (with_reducible apply flushLoss_step (hm := by decide)) | (with_reducible apply State.raise_step (hm := by decide)) | (with_reducible apply State.set_step (hm := by decide)) | (with_reducible apply State.ringUp_step (hm := by decide)) | (with_reducible apply storeCoded_step (hm := by decide)) | (with_reducible apply setCount_step (hm := by decide)) | (with_reducible apply Only.foldl (hg := fun _ _ => ?_)) | (with_reducible apply Only.foldl_fst (hg := fun _ _ => ?_)) | split | dsimp only)
theorem ringConfig_step {l₀ : List Part} {s₀ : State} (s : State) (r : Nat) (v : Word) (h₀ : Only l₀ s₀ s) (hm : [.regs, .heldU, .heldB, .banks, .conds, .mem, .rings] ⊆ l₀) : Only l₀ s₀ (ringConfig s r v) :=
  h₀.step (ringConfig_only s r v) hm

theorem cmdTake_only (s : State) (c : Nat) : Only [.regs, .banks, .conds, .mem, .rings] s (cmdTake s c).1 := by
  unfold cmdTake
  try dsimp only
  repeat' (first | (with_reducible exact Only.refl _ _) | (with_reducible apply Only.ite) | (with_reducible apply Only.ite_fst) | (with_reducible apply ringDrop_step (hm := by decide)) | (with_reducible apply headEntry_step (hm := by decide)) | (with_reducible apply State.raise_step (hm := by decide)) | (with_reducible apply State.ringUp_step (hm := by decide)) | (with_reducible apply telProduce_step (hm := by decide)) | (with_reducible apply Only.foldl (hg := fun _ _ => ?_)) | (with_reducible apply Only.foldl_fst (hg := fun _ _ => ?_)) | (with_reducible refine Only.of_fst (by assumption) ?_) | split | dsimp only)
theorem cmdTake_step {l₀ : List Part} {s₀ : State} (s : State) (c : Nat) (h₀ : Only l₀ s₀ s) (hm : [.regs, .banks, .conds, .mem, .rings] ⊆ l₀) : Only l₀ s₀ (cmdTake s c).1 :=
  h₀.step (cmdTake_only s c) hm

theorem cmdBoundaryEnd_only (s : State) : Only [.rings] s (cmdBoundaryEnd s) := by
  unfold cmdBoundaryEnd
  try dsimp only
  repeat' (first | (with_reducible exact Only.refl _ _) | (with_reducible apply Only.ite) | (with_reducible apply Only.ite_fst) | (with_reducible apply Only.foldl (hg := fun _ _ => ?_)) | (with_reducible apply Only.foldl_fst (hg := fun _ _ => ?_)) | split | dsimp only | (with_reducible apply only_with_rings_step (hm := by decide)))
theorem cmdBoundaryEnd_step {l₀ : List Part} {s₀ : State} (s : State) (h₀ : Only l₀ s₀ s) (hm : [.rings] ⊆ l₀) : Only l₀ s₀ (cmdBoundaryEnd s) :=
  h₀.step (cmdBoundaryEnd_only s) hm

theorem windowUpdate_only (s : State) (c : Nat) (ran overrun : Bool) : Only [.bkg] s (windowUpdate s c ran overrun) := by
  unfold windowUpdate
  try dsimp only
  repeat' (first | (with_reducible exact Only.refl _ _) | (with_reducible apply Only.ite) | (with_reducible apply Only.ite_fst) | (with_reducible apply State.bkgUp_step (hm := by decide)) | (with_reducible apply Only.foldl (hg := fun _ _ => ?_)) | (with_reducible apply Only.foldl_fst (hg := fun _ _ => ?_)) | split | dsimp only)
theorem windowUpdate_step {l₀ : List Part} {s₀ : State} (s : State) (c : Nat) (ran overrun : Bool) (h₀ : Only l₀ s₀ s) (hm : [.bkg] ⊆ l₀) : Only l₀ s₀ (windowUpdate s c ran overrun) :=
  h₀.step (windowUpdate_only s c ran overrun) hm

theorem windowEnd_only (s : State) : Only [.regs, .bkg] s (windowEnd s) := by
  unfold windowEnd
  try dsimp only
  repeat' (first | (with_reducible exact Only.refl _ _) | (with_reducible apply Only.ite) | (with_reducible apply Only.ite_fst) | (with_reducible apply State.bkgUp_step (hm := by decide)) | (with_reducible apply State.raiseIf_step (hm := by decide)) | (with_reducible apply Only.foldl (hg := fun _ _ => ?_)) | (with_reducible apply Only.foldl_fst (hg := fun _ _ => ?_)) | split | dsimp only)
theorem windowEnd_step {l₀ : List Part} {s₀ : State} (s : State) (h₀ : Only l₀ s₀ s) (hm : [.regs, .bkg] ⊆ l₀) : Only l₀ s₀ (windowEnd s) :=
  h₀.step (windowEnd_only s) hm

theorem telemetryCollect_only (s : State) : Only [.regs, .banks, .conds, .mem, .bkg, .rings] s (telemetryCollect s) := by
  unfold telemetryCollect
  try dsimp only
  repeat' (first | (with_reducible exact Only.refl _ _) | (with_reducible apply Only.ite) | (with_reducible apply Only.ite_fst) | (with_reducible apply State.bkgUp_step (hm := by decide)) | (with_reducible apply telProduce_step (hm := by decide)) | (with_reducible apply Only.foldl (hg := fun _ _ => ?_)) | (with_reducible apply Only.foldl_fst (hg := fun _ _ => ?_)) | split | dsimp only)
theorem telemetryCollect_step {l₀ : List Part} {s₀ : State} (s : State) (h₀ : Only l₀ s₀ s) (hm : [.regs, .banks, .conds, .mem, .bkg, .rings] ⊆ l₀) : Only l₀ s₀ (telemetryCollect s) :=
  h₀.step (telemetryCollect_only s) hm

/-! ### The canonical form -/

theorem State.ringUp_wf (s : State) (r : Nat) (f : RingSt → RingSt) (h₀ : Memory.wf s = true) : Memory.wf (State.ringUp s r f) = true :=
  Only.wf (State.ringUp_only s r f) (by decide) h₀

theorem setCount_wf (s : State) (r n : Nat) (h₀ : Memory.wf s = true) : Memory.wf (setCount s r n) = true := by
  unfold setCount
  try dsimp only
  repeat' (first | (with_reducible assumption) | (with_reducible apply wf_ite) | (with_reducible apply wf_ite_fst) | (with_reducible apply State.setB_wf) | (with_reducible apply State.set_wf) | (with_reducible apply wf_foldl (hg := fun _ _ _ => ?_)) | (with_reducible apply wf_foldl_fst (hg := fun _ _ _ => ?_)) | split | dsimp only)

theorem takeSeq_wf (s : State) (r : Nat) (h₀ : Memory.wf s = true) : Memory.wf (takeSeq s r) = true := by
  unfold takeSeq
  try dsimp only
  repeat' (first | (with_reducible assumption) | (with_reducible apply wf_ite) | (with_reducible apply wf_ite_fst) | (with_reducible apply State.set_wf) | (with_reducible apply wf_foldl (hg := fun _ _ _ => ?_)) | (with_reducible apply wf_foldl_fst (hg := fun _ _ _ => ?_)) | split | dsimp only)

theorem ringStore_wf (s : State) (r type ch : Nat) (payload : List Word) (h₀ : Memory.wf s = true) : Memory.wf (ringStore s r type ch payload) = true := by
  unfold ringStore
  try dsimp only
  repeat' (first | (with_reducible assumption) | (with_reducible rfl) | (with_reducible apply wf_ite) | (with_reducible apply wf_ite_fst) | (with_reducible apply bankWritten_wf) | (with_reducible apply setCount_wf) | (with_reducible apply State.putBank_wf) | (with_reducible apply takeSeq_wf) | (with_reducible apply State.set_wf) | (with_reducible apply wf_foldl (hg := fun _ _ _ => ?_)) | (with_reducible apply wf_foldl_fst (hg := fun _ _ _ => ?_)) | split | dsimp only)

theorem ringDrop_wf (s : State) (r : Nat) (h₀ : Memory.wf s = true) : Memory.wf (ringDrop s r) = true := by
  unfold ringDrop
  try dsimp only
  repeat' (first | (with_reducible assumption) | (with_reducible apply wf_ite) | (with_reducible apply wf_ite_fst) | (with_reducible apply setCount_wf) | (with_reducible apply State.set_wf) | (with_reducible apply wf_foldl (hg := fun _ _ _ => ?_)) | (with_reducible apply wf_foldl_fst (hg := fun _ _ _ => ?_)) | split | dsimp only)

theorem flushLoss_wf (s : State) (r : Nat) (h₀ : Memory.wf s = true) : Memory.wf (flushLoss s r) = true := by
  unfold flushLoss
  try dsimp only
  repeat' (first | (with_reducible assumption) | (with_reducible rfl) | (with_reducible apply wf_ite) | (with_reducible apply wf_ite_fst) | (with_reducible apply ringStore_wf) | (with_reducible apply State.ringUp_wf) | (with_reducible apply State.cond_wf) | (with_reducible apply wf_foldl (hg := fun _ _ _ => ?_)) | (with_reducible apply wf_foldl_fst (hg := fun _ _ _ => ?_)) | split | dsimp only)

theorem loseEntry_wf (s : State) (r : Nat) (h₀ : Memory.wf s = true) : Memory.wf (loseEntry s r) = true := by
  unfold loseEntry
  try dsimp only
  repeat' (first | (with_reducible assumption) | (with_reducible apply wf_ite) | (with_reducible apply wf_ite_fst) | (with_reducible apply takeSeq_wf) | (with_reducible apply State.ringUp_wf) | (with_reducible apply State.set_wf) | (with_reducible apply State.cond_wf) | (with_reducible apply wf_foldl (hg := fun _ _ _ => ?_)) | (with_reducible apply wf_foldl_fst (hg := fun _ _ _ => ?_)) | split | dsimp only)

theorem telProduce_wf (s : State) (c type : Nat) (payload : List Word) (h₀ : Memory.wf s = true) : Memory.wf (telProduce s c type payload) = true := by
  unfold telProduce
  try dsimp only
  repeat' (first | (with_reducible assumption) | (with_reducible rfl) | (with_reducible apply wf_ite) | (with_reducible apply wf_ite_fst) | (with_reducible apply flushLoss_wf) | (with_reducible apply setCount_wf) | (with_reducible apply loseEntry_wf) | (with_reducible apply ringStore_wf) | (with_reducible apply ringDrop_wf) | (with_reducible apply takeSeq_wf) | (with_reducible apply wf_foldl (hg := fun _ _ _ => ?_)) | (with_reducible apply wf_foldl_fst (hg := fun _ _ _ => ?_)) | split | dsimp only)

theorem telDeliver_wf (s : State) (ws : List Word) (h₀ : Memory.wf s = true) : Memory.wf (telDeliver s ws) = true := by
  unfold telDeliver
  try dsimp only
  repeat' (first | (with_reducible assumption) | (with_reducible rfl) | (with_reducible apply wf_ite) | (with_reducible apply wf_ite_fst) | (with_reducible apply telProduce_wf) | (with_reducible apply wf_foldl (hg := fun _ _ _ => ?_)) | (with_reducible apply wf_foldl_fst (hg := fun _ _ _ => ?_)) | split | dsimp only)

theorem cmdPush_wf (s : State) (r : Nat) (ws : List Word) (h₀ : Memory.wf s = true) : Memory.wf (cmdPush s r ws).1 = true := by
  unfold cmdPush
  try dsimp only
  repeat' (first | (with_reducible assumption) | (with_reducible rfl) | (with_reducible apply wf_ite) | (with_reducible apply wf_ite_fst) | (with_reducible apply ringStore_wf) | (with_reducible apply State.ringUp_wf) | (with_reducible apply wf_foldl (hg := fun _ _ _ => ?_)) | (with_reducible apply wf_foldl_fst (hg := fun _ _ _ => ?_)) | split | dsimp only)

theorem ringStage_wf (s : State) (host : Bool) (r w : Nat) (v : Word) (h₀ : Memory.wf s = true) : Memory.wf (ringStage s host r w v) = true := by
  unfold ringStage
  try dsimp only
  repeat' (first | (with_reducible assumption) | (with_reducible apply wf_ite) | (with_reducible apply wf_ite_fst) | (with_reducible apply State.ringUp_wf) | (with_reducible apply State.set_wf) | (with_reducible apply wf_foldl (hg := fun _ _ _ => ?_)) | (with_reducible apply wf_foldl_fst (hg := fun _ _ _ => ?_)) | split | dsimp only)

theorem ringPush_wf (s : State) (host : Bool) (r : Nat) (v : Word) (h₀ : Memory.wf s = true) : Memory.wf (ringPush s host r v) = true := by
  unfold ringPush
  try dsimp only
  repeat' (first | (with_reducible assumption) | (with_reducible rfl) | (with_reducible apply wf_ite) | (with_reducible apply wf_ite_fst) | (with_reducible apply cmdPush_wf) | (with_reducible apply State.ringUp_wf) | (with_reducible apply State.set_wf) | (with_reducible apply telProduce_wf) | (with_reducible apply State.raise_wf) | (with_reducible apply wf_foldl (hg := fun _ _ _ => ?_)) | (with_reducible apply wf_foldl_fst (hg := fun _ _ _ => ?_)) | (with_reducible refine wf_of_fst (by assumption) ?_) | split | dsimp only)

theorem headEntry_wf (s : State) (r : Nat) (h₀ : Memory.wf s = true) : Memory.wf (headEntry s r).1 = true := by
  unfold headEntry
  try dsimp only
  repeat' (first | (with_reducible assumption) | (with_reducible rfl) | (with_reducible apply wf_ite) | (with_reducible apply wf_ite_fst) | (with_reducible apply foundError_wf) | (with_reducible apply wf_foldl (hg := fun _ _ _ => ?_)) | (with_reducible apply wf_foldl_fst (hg := fun _ _ _ => ?_)) | (with_reducible refine wf_of_fst (by assumption) ?_) | split | dsimp only)

theorem setLatch_wf (s : State) (host : Bool) (r : Nat) (ws : List Word) (held : Bool) (h₀ : Memory.wf s = true) : Memory.wf (setLatch s host r ws held) = true :=
  Only.wf (setLatch_only s host r ws held) (by decide) h₀

theorem ringFetch_wf (s : State) (host : Bool) (r : Nat) (h₀ : Memory.wf s = true) : Memory.wf (ringFetch s host r) = true := by
  unfold ringFetch
  try dsimp only
  repeat' (first | (with_reducible assumption) | (with_reducible rfl) | (with_reducible apply wf_ite) | (with_reducible apply wf_ite_fst) | (with_reducible apply headEntry_wf) | (with_reducible apply setLatch_wf) | (with_reducible apply State.raise_wf) | (with_reducible apply State.answer_wf) | (with_reducible apply wf_foldl (hg := fun _ _ _ => ?_)) | (with_reducible apply wf_foldl_fst (hg := fun _ _ _ => ?_)) | (with_reducible refine wf_of_fst (by assumption) ?_) | split | dsimp only)

theorem ringConsume_wf (s : State) (host : Bool) (r : Nat) (h₀ : Memory.wf s = true) : Memory.wf (ringConsume s host r) = true := by
  unfold ringConsume
  try dsimp only
  repeat' (first | (with_reducible assumption) | (with_reducible rfl) | (with_reducible apply wf_ite) | (with_reducible apply wf_ite_fst) | (with_reducible apply flushLoss_wf) | (with_reducible apply State.answer_wf) | (with_reducible apply ringDrop_wf) | (with_reducible apply State.ringUp_wf) | (with_reducible apply wf_foldl (hg := fun _ _ _ => ?_)) | (with_reducible apply wf_foldl_fst (hg := fun _ _ _ => ?_)) | split | dsimp only)

theorem ringConfig_wf (s : State) (r : Nat) (v : Word) (h₀ : Memory.wf s = true) : Memory.wf (ringConfig s r v) = true := by
  unfold ringConfig
  try dsimp only
  repeat' (first | (with_reducible assumption) | (with_reducible rfl) | (with_reducible apply wf_ite) | (with_reducible apply wf_ite_fst) | (with_reducible apply flushLoss_wf) | (with_reducible apply State.raise_wf) | (with_reducible apply setCount_wf) | (with_reducible apply storeCoded_wf) | (with_reducible apply State.ringUp_wf) | (with_reducible apply State.set_wf) | (with_reducible apply wf_foldl (hg := fun _ _ _ => ?_)) | (with_reducible apply wf_foldl_fst (hg := fun _ _ _ => ?_)) | split | dsimp only)

theorem cmdTake_wf (s : State) (c : Nat) (h₀ : Memory.wf s = true) : Memory.wf (cmdTake s c).1 = true := by
  unfold cmdTake
  try dsimp only
  repeat' (first | (with_reducible assumption) | (with_reducible rfl) | (with_reducible apply wf_ite) | (with_reducible apply wf_ite_fst) | (with_reducible apply headEntry_wf) | (with_reducible apply ringDrop_wf) | (with_reducible apply State.ringUp_wf) | (with_reducible apply telProduce_wf) | (with_reducible apply State.raise_wf) | (with_reducible apply wf_foldl (hg := fun _ _ _ => ?_)) | (with_reducible apply wf_foldl_fst (hg := fun _ _ _ => ?_)) | (with_reducible refine wf_of_fst (by assumption) ?_) | split | dsimp only)

theorem cmdBoundaryEnd_wf (s : State) (h₀ : Memory.wf s = true) : Memory.wf (cmdBoundaryEnd s) = true :=
  Only.wf (cmdBoundaryEnd_only s) (by decide) h₀

theorem windowUpdate_wf (s : State) (c : Nat) (ran overrun : Bool) (h₀ : Memory.wf s = true) : Memory.wf (windowUpdate s c ran overrun) = true :=
  Only.wf (windowUpdate_only s c ran overrun) (by decide) h₀

theorem windowEnd_wf (s : State) (h₀ : Memory.wf s = true) : Memory.wf (windowEnd s) = true := by
  unfold windowEnd
  try dsimp only
  repeat' (first | (with_reducible assumption) | (with_reducible apply wf_ite) | (with_reducible apply wf_ite_fst) | (with_reducible apply State.raiseIf_wf) | (with_reducible apply State.bkgUp_wf) | (with_reducible apply wf_foldl (hg := fun _ _ _ => ?_)) | (with_reducible apply wf_foldl_fst (hg := fun _ _ _ => ?_)) | split | dsimp only)

theorem telemetryCollect_wf (s : State) (h₀ : Memory.wf s = true) : Memory.wf (telemetryCollect s) = true := by
  unfold telemetryCollect
  try dsimp only
  repeat' (first | (with_reducible assumption) | (with_reducible rfl) | (with_reducible apply wf_ite) | (with_reducible apply wf_ite_fst) | (with_reducible apply State.bkgUp_wf) | (with_reducible apply telProduce_wf) | (with_reducible apply wf_foldl (hg := fun _ _ _ => ?_)) | (with_reducible apply wf_foldl_fst (hg := fun _ _ _ => ?_)) | split | dsimp only)

end Sys2Proof.Machine
end

