-- ==== Sys2Proof/Laws/FrameClocks.lean ====
section
/-! SUPPORT. Laws/FrameClocks.lean: what the operations of Machine/Clocks.lean may change (f_only; f_step after what went before), and
that each keeps the memories' canonical form (f_wf). -/

set_option Elab.async false
set_option linter.all false

namespace Sys2Proof.Machine

theorem State.sysUp_only (s : State) (f : Sys → Sys) : Only [.sys] s (State.sysUp s f) := by
  unfold State.sysUp
  try dsimp only
  repeat' (first | (with_reducible exact Only.refl _ _) | (with_reducible apply Only.ite) | (with_reducible apply Only.ite_fst) | (with_reducible apply Only.foldl (hg := fun _ _ => ?_)) | (with_reducible apply Only.foldl_fst (hg := fun _ _ => ?_)) | split | dsimp only | (with_reducible apply only_with_sys_step (hm := by decide)))
theorem State.sysUp_step {l₀ : List Part} {s₀ : State} (s : State) (f : Sys → Sys) (h₀ : Only l₀ s₀ s) (hm : [.sys] ⊆ l₀) : Only l₀ s₀ (State.sysUp s f) :=
  h₀.step (State.sysUp_only s f) hm

theorem State.twinUp_only (s : State) (f : Twin → Twin) : Only [.twin] s (State.twinUp s f) := by
  unfold State.twinUp
  try dsimp only
  repeat' (first | (with_reducible exact Only.refl _ _) | (with_reducible apply Only.ite) | (with_reducible apply Only.ite_fst) | (with_reducible apply Only.foldl (hg := fun _ _ => ?_)) | (with_reducible apply Only.foldl_fst (hg := fun _ _ => ?_)) | split | dsimp only | (with_reducible apply only_with_twin_step (hm := by decide)))
theorem State.twinUp_step {l₀ : List Part} {s₀ : State} (s : State) (f : Twin → Twin) (h₀ : Only l₀ s₀ s) (hm : [.twin] ⊆ l₀) : Only l₀ s₀ (State.twinUp s f) :=
  h₀.step (State.twinUp_only s f) hm

theorem setCorr_only (s : State) (c : Int) : Only [.regs] s (setCorr s c) := by
  unfold setCorr
  try dsimp only
  repeat' (first | (with_reducible exact Only.refl _ _) | (with_reducible apply Only.ite) | (with_reducible apply Only.ite_fst) | (with_reducible apply State.set_step (hm := by decide)) | (with_reducible apply Only.foldl (hg := fun _ _ => ?_)) | (with_reducible apply Only.foldl_fst (hg := fun _ _ => ?_)) | split | dsimp only)
theorem setCorr_step {l₀ : List Part} {s₀ : State} (s : State) (c : Int) (h₀ : Only l₀ s₀ s) (hm : [.regs] ⊆ l₀) : Only l₀ s₀ (setCorr s c) :=
  h₀.step (setCorr_only s c) hm

theorem refSlew_only (s : State) : Only [.regs] s (refSlew s) := by
  unfold refSlew
  try dsimp only
  repeat' (first | (with_reducible exact Only.refl _ _) | (with_reducible apply Only.ite) | (with_reducible apply Only.ite_fst) | (with_reducible apply setCorr_step (hm := by decide)) | (with_reducible apply Only.foldl (hg := fun _ _ => ?_)) | (with_reducible apply Only.foldl_fst (hg := fun _ _ => ?_)) | split | dsimp only)
theorem refSlew_step {l₀ : List Part} {s₀ : State} (s : State) (h₀ : Only l₀ s₀ s) (hm : [.regs] ⊆ l₀) : Only l₀ s₀ (refSlew s) :=
  h₀.step (refSlew_only s) hm

theorem writeRefAdj_only (s : State) (path : Path) (v : Word) : Only [.regs] s (writeRefAdj s path v) := by
  unfold writeRefAdj
  try dsimp only
  repeat' (first | (with_reducible exact Only.refl _ _) | (with_reducible apply Only.ite) | (with_reducible apply Only.ite_fst) | (with_reducible apply State.set_step (hm := by decide)) | (with_reducible apply Only.foldl (hg := fun _ _ => ?_)) | (with_reducible apply Only.foldl_fst (hg := fun _ _ => ?_)) | split | dsimp only)
theorem writeRefAdj_step {l₀ : List Part} {s₀ : State} (s : State) (path : Path) (v : Word) (h₀ : Only l₀ s₀ s) (hm : [.regs] ⊆ l₀) : Only l₀ s₀ (writeRefAdj s path v) :=
  h₀.step (writeRefAdj_only s path v) hm

theorem mediaLock_only (s : State) : Only [.regs, .sys, .time, .safe] s (mediaLock s) := by
  unfold mediaLock
  try dsimp only
  repeat' (first | (with_reducible exact Only.refl _ _) | (with_reducible apply Only.ite) | (with_reducible apply Only.ite_fst) | (with_reducible apply State.set_step (hm := by decide)) | (with_reducible apply State.safeUp_step (hm := by decide)) | (with_reducible apply State.sysUp_step (hm := by decide)) | (with_reducible apply Only.foldl (hg := fun _ _ => ?_)) | (with_reducible apply Only.foldl_fst (hg := fun _ _ => ?_)) | split | dsimp only | (with_reducible apply only_with_time_step (hm := by decide)))
theorem mediaLock_step {l₀ : List Part} {s₀ : State} (s : State) (h₀ : Only l₀ s₀ s) (hm : [.regs, .sys, .time, .safe] ⊆ l₀) : Only l₀ s₀ (mediaLock s) :=
  h₀.step (mediaLock_only s) hm

theorem pllLock_only (s : State) (x : Pll) : Only [.regs, .conds] s (pllLock s x) := by
  unfold pllLock
  try dsimp only
  repeat' (first | (with_reducible exact Only.refl _ _) | (with_reducible apply Only.ite) | (with_reducible apply Only.ite_fst) | (with_reducible apply State.set_step (hm := by decide)) | (with_reducible apply State.cond_step (hm := by decide)) | (with_reducible apply Only.foldl (hg := fun _ _ => ?_)) | (with_reducible apply Only.foldl_fst (hg := fun _ _ => ?_)) | split | dsimp only)
theorem pllLock_step {l₀ : List Part} {s₀ : State} (s : State) (x : Pll) (h₀ : Only l₀ s₀ s) (hm : [.regs, .conds] ⊆ l₀) : Only l₀ s₀ (pllLock s x) :=
  h₀.step (pllLock_only s x) hm

theorem pllUnlock_only (s : State) (x : Pll) : Only [.regs, .conds] s (pllUnlock s x) := by
  unfold pllUnlock
  try dsimp only
  repeat' (first | (with_reducible exact Only.refl _ _) | (with_reducible apply Only.ite) | (with_reducible apply Only.ite_fst) | (with_reducible apply State.set_step (hm := by decide)) | (with_reducible apply State.cond_step (hm := by decide)) | (with_reducible apply Only.foldl (hg := fun _ _ => ?_)) | (with_reducible apply Only.foldl_fst (hg := fun _ _ => ?_)) | split | dsimp only)
theorem pllUnlock_step {l₀ : List Part} {s₀ : State} (s : State) (x : Pll) (h₀ : Only l₀ s₀ s) (hm : [.regs, .conds] ⊆ l₀) : Only l₀ s₀ (pllUnlock s x) :=
  h₀.step (pllUnlock_only s x) hm

theorem safeWatchdog_only (s : State) : Only [.regs, .legs, .safe, .pins] s (safeWatchdog s) := by
  unfold safeWatchdog
  try dsimp only
  repeat' (first | (with_reducible exact Only.refl _ _) | (with_reducible apply Only.ite) | (with_reducible apply Only.ite_fst) | (with_reducible apply releaseOwn_step (hm := by decide)) | (with_reducible apply allOff_step (hm := by decide)) | (with_reducible apply State.safeUp_step (hm := by decide)) | (with_reducible apply Only.foldl (hg := fun _ _ => ?_)) | (with_reducible apply Only.foldl_fst (hg := fun _ _ => ?_)) | split | dsimp only)
theorem safeWatchdog_step {l₀ : List Part} {s₀ : State} (s : State) (h₀ : Only l₀ s₀ s) (hm : [.regs, .legs, .safe, .pins] ⊆ l₀) : Only l₀ s₀ (safeWatchdog s) :=
  h₀.step (safeWatchdog_only s) hm

theorem clockMeasure_only (s : State) (count : Nat) : Only [.regs, .sys] s (clockMeasure s count) := by
  unfold clockMeasure
  try dsimp only
  repeat' (first | (with_reducible exact Only.refl _ _) | (with_reducible apply Only.ite) | (with_reducible apply Only.ite_fst) | (with_reducible apply State.set_step (hm := by decide)) | (with_reducible apply State.sysUp_step (hm := by decide)) | (with_reducible apply Only.foldl (hg := fun _ _ => ?_)) | (with_reducible apply Only.foldl_fst (hg := fun _ _ => ?_)) | split | dsimp only)
theorem clockMeasure_step {l₀ : List Part} {s₀ : State} (s : State) (count : Nat) (h₀ : Only l₀ s₀ s) (hm : [.regs, .sys] ⊆ l₀) : Only l₀ s₀ (clockMeasure s count) :=
  h₀.step (clockMeasure_only s count) hm

/-! ### The canonical form -/

theorem State.sysUp_wf (s : State) (f : Sys → Sys) (h₀ : Memory.wf s = true) : Memory.wf (State.sysUp s f) = true :=
  Only.wf (State.sysUp_only s f) (by decide) h₀

theorem State.twinUp_wf (s : State) (f : Twin → Twin) (h₀ : Memory.wf s = true) : Memory.wf (State.twinUp s f) = true :=
  Only.wf (State.twinUp_only s f) (by decide) h₀

theorem setCorr_wf (s : State) (c : Int) (h₀ : Memory.wf s = true) : Memory.wf (setCorr s c) = true := by
  unfold setCorr
  try dsimp only
  repeat' (first | (with_reducible assumption) | (with_reducible apply wf_ite) | (with_reducible apply wf_ite_fst) | (with_reducible apply State.set_wf) | (with_reducible apply wf_foldl (hg := fun _ _ _ => ?_)) | (with_reducible apply wf_foldl_fst (hg := fun _ _ _ => ?_)) | split | dsimp only)

theorem refSlew_wf (s : State) (h₀ : Memory.wf s = true) : Memory.wf (refSlew s) = true := by
  unfold refSlew
  try dsimp only
  repeat' (first | (with_reducible assumption) | (with_reducible apply wf_ite) | (with_reducible apply wf_ite_fst) | (with_reducible apply setCorr_wf) | (with_reducible apply wf_foldl (hg := fun _ _ _ => ?_)) | (with_reducible apply wf_foldl_fst (hg := fun _ _ _ => ?_)) | split | dsimp only)

theorem writeRefAdj_wf (s : State) (path : Path) (v : Word) (h₀ : Memory.wf s = true) : Memory.wf (writeRefAdj s path v) = true := by
  unfold writeRefAdj
  try dsimp only
  repeat' (first | (with_reducible assumption) | (with_reducible apply wf_ite) | (with_reducible apply wf_ite_fst) | (with_reducible apply State.set_wf) | (with_reducible apply wf_foldl (hg := fun _ _ _ => ?_)) | (with_reducible apply wf_foldl_fst (hg := fun _ _ _ => ?_)) | split | dsimp only)

theorem mediaLock_wf (s : State) (h₀ : Memory.wf s = true) : Memory.wf (mediaLock s) = true := by
  unfold mediaLock
  try dsimp only
  repeat' (first | (with_reducible assumption) | (with_reducible apply wf_ite) | (with_reducible apply wf_ite_fst) | (with_reducible apply State.sysUp_wf) | (with_reducible apply State.set_wf) | (with_reducible apply State.safeUp_wf) | (with_reducible apply wf_foldl (hg := fun _ _ _ => ?_)) | (with_reducible apply wf_foldl_fst (hg := fun _ _ _ => ?_)) | split | dsimp only | (with_reducible apply wf_with_time))

theorem pllLock_wf (s : State) (x : Pll) (h₀ : Memory.wf s = true) : Memory.wf (pllLock s x) = true := by
  unfold pllLock
  try dsimp only
  repeat' (first | (with_reducible assumption) | (with_reducible apply wf_ite) | (with_reducible apply wf_ite_fst) | (with_reducible apply State.cond_wf) | (with_reducible apply State.set_wf) | (with_reducible apply wf_foldl (hg := fun _ _ _ => ?_)) | (with_reducible apply wf_foldl_fst (hg := fun _ _ _ => ?_)) | split | dsimp only)

theorem pllUnlock_wf (s : State) (x : Pll) (h₀ : Memory.wf s = true) : Memory.wf (pllUnlock s x) = true := by
  unfold pllUnlock
  try dsimp only
  repeat' (first | (with_reducible assumption) | (with_reducible apply wf_ite) | (with_reducible apply wf_ite_fst) | (with_reducible apply State.cond_wf) | (with_reducible apply State.set_wf) | (with_reducible apply wf_foldl (hg := fun _ _ _ => ?_)) | (with_reducible apply wf_foldl_fst (hg := fun _ _ _ => ?_)) | split | dsimp only)

theorem safeWatchdog_wf (s : State) (h₀ : Memory.wf s = true) : Memory.wf (safeWatchdog s) = true := by
  unfold safeWatchdog
  try dsimp only
  repeat' (first | (with_reducible assumption) | (with_reducible apply wf_ite) | (with_reducible apply wf_ite_fst) | (with_reducible apply allOff_wf) | (with_reducible apply releaseOwn_wf) | (with_reducible apply State.safeUp_wf) | (with_reducible apply wf_foldl (hg := fun _ _ _ => ?_)) | (with_reducible apply wf_foldl_fst (hg := fun _ _ _ => ?_)) | split | dsimp only)

theorem clockMeasure_wf (s : State) (count : Nat) (h₀ : Memory.wf s = true) : Memory.wf (clockMeasure s count) = true := by
  unfold clockMeasure
  try dsimp only
  repeat' (first | (with_reducible assumption) | (with_reducible apply wf_ite) | (with_reducible apply wf_ite_fst) | (with_reducible apply State.sysUp_wf) | (with_reducible apply State.set_wf) | (with_reducible apply wf_foldl (hg := fun _ _ _ => ?_)) | (with_reducible apply wf_foldl_fst (hg := fun _ _ _ => ?_)) | split | dsimp only)

end Sys2Proof.Machine
end

