-- ==== Sys2Proof/Laws/FrameStartup.lean ====
section
/-! SUPPORT. Laws/FrameStartup.lean: what the operations of Machine/Startup.lean may change (f_only; f_step after what went before), and
that each keeps the memories' canonical form (f_wf). -/

set_option Elab.async false
set_option linter.all false

namespace Sys2Proof.Machine

theorem lcRefuse_only (s : State) (reason : Nat) : Only [.regs] s (lcRefuse s reason) := by
  unfold lcRefuse
  try dsimp only
  repeat' (first | (with_reducible exact Only.refl _ _) | (with_reducible apply Only.ite) | (with_reducible apply Only.ite_fst) | (with_reducible apply State.set_step (hm := by decide)) | (with_reducible apply State.raise_step (hm := by decide)) | (with_reducible apply Only.foldl (hg := fun _ _ => ?_)) | (with_reducible apply Only.foldl_fst (hg := fun _ _ => ?_)) | split | dsimp only)
theorem lcRefuse_step {l₀ : List Part} {s₀ : State} (s : State) (reason : Nat) (h₀ : Only l₀ s₀ s) (hm : [.regs] ⊆ l₀) : Only l₀ s₀ (lcRefuse s reason) :=
  h₀.step (lcRefuse_only s reason) hm

theorem lcRequest_only (s : State) (path : Path) (v : Word) : Only [.regs, .sys, .bkg] s (lcRequest s path v) := by
  unfold lcRequest
  try dsimp only
  repeat' (first | (with_reducible exact Only.refl _ _) | (with_reducible apply Only.ite) | (with_reducible apply Only.ite_fst) | (with_reducible apply lcRefuse_step (hm := by decide)) | (with_reducible apply State.raise_step (hm := by decide)) | (with_reducible apply State.set_step (hm := by decide)) | (with_reducible apply writeRecord_step (hm := by decide)) | (with_reducible apply State.sysUp_step (hm := by decide)) | (with_reducible apply Only.foldl (hg := fun _ _ => ?_)) | (with_reducible apply Only.foldl_fst (hg := fun _ _ => ?_)) | split | dsimp only)
theorem lcRequest_step {l₀ : List Part} {s₀ : State} (s : State) (path : Path) (v : Word) (h₀ : Only l₀ s₀ s) (hm : [.regs, .sys, .bkg] ⊆ l₀) : Only l₀ s₀ (lcRequest s path v) :=
  h₀.step (lcRequest_only s path v) hm

theorem lcDrop_only (s : State) : Only [.regs, .sys] s (lcDrop s) := by
  unfold lcDrop
  try dsimp only
  repeat' (first | (with_reducible exact Only.refl _ _) | (with_reducible apply Only.ite) | (with_reducible apply Only.ite_fst) | (with_reducible apply State.sysUp_step (hm := by decide)) | (with_reducible apply lcRefuse_step (hm := by decide)) | (with_reducible apply Only.foldl (hg := fun _ _ => ?_)) | (with_reducible apply Only.foldl_fst (hg := fun _ _ => ?_)) | split | dsimp only)
theorem lcDrop_step {l₀ : List Part} {s₀ : State} (s : State) (h₀ : Only l₀ s₀ s) (hm : [.regs, .sys] ⊆ l₀) : Only l₀ s₀ (lcDrop s) :=
  h₀.step (lcDrop_only s) hm

theorem flashDone_only (s : State) (ok : Bool) : Only [.regs, .sys, .bkg] s (flashDone s ok) := by
  unfold flashDone
  try dsimp only
  repeat' (first | (with_reducible exact Only.refl _ _) | (with_reducible apply Only.ite) | (with_reducible apply Only.ite_fst) | (with_reducible apply State.bkgUp_step (hm := by decide)) | (with_reducible apply showBusy_step (hm := by decide)) | (with_reducible apply State.raise_step (hm := by decide)) | (with_reducible apply flashOpDone_step (hm := by decide)) | (with_reducible apply lcDrop_step (hm := by decide)) | (with_reducible apply State.sysUp_step (hm := by decide)) | (with_reducible apply Only.foldl (hg := fun _ _ => ?_)) | (with_reducible apply Only.foldl_fst (hg := fun _ _ => ?_)) | split | dsimp only)
theorem flashDone_step {l₀ : List Part} {s₀ : State} (s : State) (ok : Bool) (h₀ : Only l₀ s₀ s) (hm : [.regs, .sys, .bkg] ⊆ l₀) : Only l₀ s₀ (flashDone s ok) :=
  h₀.step (flashDone_only s ok) hm

theorem credential_only (s : State) (bytes : List Byte) : Only [.regs, .sys] s (credential s bytes) := by
  unfold credential
  try dsimp only
  repeat' (first | (with_reducible exact Only.refl _ _) | (with_reducible apply Only.ite) | (with_reducible apply Only.ite_fst) | (with_reducible apply State.set_step (hm := by decide)) | (with_reducible apply State.sysUp_step (hm := by decide)) | (with_reducible apply Only.foldl (hg := fun _ _ => ?_)) | (with_reducible apply Only.foldl_fst (hg := fun _ _ => ?_)) | split | dsimp only)
theorem credential_step {l₀ : List Part} {s₀ : State} (s : State) (bytes : List Byte) (h₀ : Only l₀ s₀ s) (hm : [.regs, .sys] ⊆ l₀) : Only l₀ s₀ (credential s bytes) :=
  h₀.step (credential_only s bytes) hm

theorem fuseProgram_only (s : State) (what : FuseWrite) : Only [.regs, .sys] s (fuseProgram s what) := by
  unfold fuseProgram
  try dsimp only
  repeat' (first | (with_reducible exact Only.refl _ _) | (with_reducible apply Only.ite) | (with_reducible apply Only.ite_fst) | (with_reducible apply credential_step (hm := by decide)) | (with_reducible apply State.sysUp_step (hm := by decide)) | (with_reducible apply Only.foldl (hg := fun _ _ => ?_)) | (with_reducible apply Only.foldl_fst (hg := fun _ _ => ?_)) | split | dsimp only)
theorem fuseProgram_step {l₀ : List Part} {s₀ : State} (s : State) (what : FuseWrite) (h₀ : Only l₀ s₀ s) (hm : [.regs, .sys] ⊆ l₀) : Only l₀ s₀ (fuseProgram s what) :=
  h₀.step (fuseProgram_only s what) hm

theorem boundaryScanLoad_only (s : State) : Only [.regs, .sys, .safe, .pins] s (boundaryScanLoad s) := by
  unfold boundaryScanLoad
  try dsimp only
  repeat' (first | (with_reducible exact Only.refl _ _) | (with_reducible apply Only.ite) | (with_reducible apply Only.ite_fst) | (with_reducible apply releaseOwn_step (hm := by decide)) | (with_reducible apply State.sysUp_step (hm := by decide)) | (with_reducible apply debugHalt_step (hm := by decide)) | (with_reducible apply Only.foldl (hg := fun _ _ => ?_)) | (with_reducible apply Only.foldl_fst (hg := fun _ _ => ?_)) | split | dsimp only)
theorem boundaryScanLoad_step {l₀ : List Part} {s₀ : State} (s : State) (h₀ : Only l₀ s₀ s) (hm : [.regs, .sys, .safe, .pins] ⊆ l₀) : Only l₀ s₀ (boundaryScanLoad s) :=
  h₀.step (boundaryScanLoad_only s) hm

theorem samplePin_only (s : State) (low : Bool) : Only [.regs, .sys] s (samplePin s low) := by
  unfold samplePin
  try dsimp only
  repeat' (first | (with_reducible exact Only.refl _ _) | (with_reducible apply Only.ite) | (with_reducible apply Only.ite_fst) | (with_reducible apply State.sysUp_step (hm := by decide)) | (with_reducible apply State.raiseIf_step (hm := by decide)) | (with_reducible apply Only.foldl (hg := fun _ _ => ?_)) | (with_reducible apply Only.foldl_fst (hg := fun _ _ => ?_)) | split | dsimp only)
theorem samplePin_step {l₀ : List Part} {s₀ : State} (s : State) (low : Bool) (h₀ : Only l₀ s₀ s) (hm : [.regs, .sys] ⊆ l₀) : Only l₀ s₀ (samplePin s low) :=
  h₀.step (samplePin_only s low) hm

theorem countSwitching_only (s : State) (c : Nat) : Only [.sys] s (countSwitching s c) := by
  unfold countSwitching
  try dsimp only
  repeat' (first | (with_reducible exact Only.refl _ _) | (with_reducible apply Only.ite) | (with_reducible apply Only.ite_fst) | (with_reducible apply State.sysUp_step (hm := by decide)) | (with_reducible apply Only.foldl (hg := fun _ _ => ?_)) | (with_reducible apply Only.foldl_fst (hg := fun _ _ => ?_)) | split | dsimp only)
theorem countSwitching_step {l₀ : List Part} {s₀ : State} (s : State) (c : Nat) (h₀ : Only l₀ s₀ s) (hm : [.sys] ⊆ l₀) : Only l₀ s₀ (countSwitching s c) :=
  h₀.step (countSwitching_only s c) hm

theorem muteAtBlock_only (s : State) (c : Nat) : Only [.regs, .mb] s (muteAtBlock s c) := by
  unfold muteAtBlock
  try dsimp only
  repeat' (first | (with_reducible exact Only.refl _ _) | (with_reducible apply Only.ite) | (with_reducible apply Only.ite_fst) | (with_reducible apply State.mbUp_step (hm := by decide)) | (with_reducible apply State.setB_step (hm := by decide)) | (with_reducible apply Only.foldl (hg := fun _ _ => ?_)) | (with_reducible apply Only.foldl_fst (hg := fun _ _ => ?_)) | split | dsimp only)
theorem muteAtBlock_step {l₀ : List Part} {s₀ : State} (s : State) (c : Nat) (h₀ : Only l₀ s₀ s) (hm : [.regs, .mb] ⊆ l₀) : Only l₀ s₀ (muteAtBlock s c) :=
  h₀.step (muteAtBlock_only s c) hm

theorem mutesAtBlock_only (s : State) (low : Bool) : Only [.regs, .sys, .mb] s (mutesAtBlock s low) := by
  unfold mutesAtBlock
  try dsimp only
  repeat' (first | (with_reducible exact Only.refl _ _) | (with_reducible apply Only.ite) | (with_reducible apply Only.ite_fst) | (with_reducible apply samplePin_step (hm := by decide)) | (with_reducible apply countSwitching_step (hm := by decide)) | (with_reducible apply State.set_step (hm := by decide)) | (with_reducible apply State.sysUp_step (hm := by decide)) | (with_reducible apply muteAtBlock_step (hm := by decide)) | (with_reducible apply Only.foldl (hg := fun _ _ => ?_)) | (with_reducible apply Only.foldl_fst (hg := fun _ _ => ?_)) | split | dsimp only)
theorem mutesAtBlock_step {l₀ : List Part} {s₀ : State} (s : State) (low : Bool) (h₀ : Only l₀ s₀ s) (hm : [.regs, .sys, .mb] ⊆ l₀) : Only l₀ s₀ (mutesAtBlock s low) :=
  h₀.step (mutesAtBlock_only s low) hm

theorem relStart_only (s : State) (c : Nat) : Only [.regs, .sys] s (relStart s c) := by
  unfold relStart
  try dsimp only
  repeat' (first | (with_reducible exact Only.refl _ _) | (with_reducible apply Only.ite) | (with_reducible apply Only.ite_fst) | (with_reducible apply State.set_step (hm := by decide)) | (with_reducible apply State.sysUp_step (hm := by decide)) | (with_reducible apply Only.foldl (hg := fun _ _ => ?_)) | (with_reducible apply Only.foldl_fst (hg := fun _ _ => ?_)) | split | dsimp only)
theorem relStart_step {l₀ : List Part} {s₀ : State} (s : State) (c : Nat) (h₀ : Only l₀ s₀ s) (hm : [.regs, .sys] ⊆ l₀) : Only l₀ s₀ (relStart s c) :=
  h₀.step (relStart_only s c) hm

theorem unitsAtBlock_only (s : State) : Only [.sys] s (unitsAtBlock s) := by
  unfold unitsAtBlock
  try dsimp only
  repeat' (first | (with_reducible exact Only.refl _ _) | (with_reducible apply Only.ite) | (with_reducible apply Only.ite_fst) | (with_reducible apply State.sysUp_step (hm := by decide)) | (with_reducible apply Only.foldl (hg := fun _ _ => ?_)) | (with_reducible apply Only.foldl_fst (hg := fun _ _ => ?_)) | split | dsimp only)
theorem unitsAtBlock_step {l₀ : List Part} {s₀ : State} (s : State) (h₀ : Only l₀ s₀ s) (hm : [.sys] ⊆ l₀) : Only l₀ s₀ (unitsAtBlock s) :=
  h₀.step (unitsAtBlock_only s) hm

theorem becomeReady_only (s : State) (b : Nat) : Only [.regs, .free] s (becomeReady s b) := by
  unfold becomeReady
  try dsimp only
  repeat' (first | (with_reducible exact Only.refl _ _) | (with_reducible apply Only.ite) | (with_reducible apply Only.ite_fst) | (with_reducible apply State.set_step (hm := by decide)) | (with_reducible apply State.setFree_step (hm := by decide)) | (with_reducible apply Only.foldl (hg := fun _ _ => ?_)) | (with_reducible apply Only.foldl_fst (hg := fun _ _ => ?_)) | split | dsimp only)
theorem becomeReady_step {l₀ : List Part} {s₀ : State} (s : State) (b : Nat) (h₀ : Only l₀ s₀ s) (hm : [.regs, .free] ⊆ l₀) : Only l₀ s₀ (becomeReady s b) :=
  h₀.step (becomeReady_only s b) hm

theorem readyAtBlock_only (s : State) : Only [.regs, .free] s (readyAtBlock s) := by
  unfold readyAtBlock
  try dsimp only
  repeat' (first | (with_reducible exact Only.refl _ _) | (with_reducible apply Only.ite) | (with_reducible apply Only.ite_fst) | (with_reducible apply becomeReady_step (hm := by decide)) | (with_reducible apply Only.foldl (hg := fun _ _ => ?_)) | (with_reducible apply Only.foldl_fst (hg := fun _ _ => ?_)) | split | dsimp only)
theorem readyAtBlock_step {l₀ : List Part} {s₀ : State} (s : State) (h₀ : Only l₀ s₀ s) (hm : [.regs, .free] ⊆ l₀) : Only l₀ s₀ (readyAtBlock s) :=
  h₀.step (readyAtBlock_only s) hm

theorem fwTimeout_only (s : State) : Only [.regs, .sys] s (fwTimeout s) := by
  unfold fwTimeout
  try dsimp only
  repeat' (first | (with_reducible exact Only.refl _ _) | (with_reducible apply Only.ite) | (with_reducible apply Only.ite_fst) | (with_reducible apply State.raise_step (hm := by decide)) | (with_reducible apply limitsLock_step (hm := by decide)) | (with_reducible apply State.sysUp_step (hm := by decide)) | (with_reducible apply Only.foldl (hg := fun _ _ => ?_)) | (with_reducible apply Only.foldl_fst (hg := fun _ _ => ?_)) | split | dsimp only)
theorem fwTimeout_step {l₀ : List Part} {s₀ : State} (s : State) (h₀ : Only l₀ s₀ s) (hm : [.regs, .sys] ⊆ l₀) : Only l₀ s₀ (fwTimeout s) :=
  h₀.step (fwTimeout_only s) hm

theorem writeSysCtrl_only (s : State) (path : Path) (v : Word) : Only [.regs] s (writeSysCtrl s path v) := by
  unfold writeSysCtrl
  try dsimp only
  repeat' (first | (with_reducible exact Only.refl _ _) | (with_reducible apply Only.ite) | (with_reducible apply Only.ite_fst) | (with_reducible apply State.set_step (hm := by decide)) | (with_reducible apply Only.foldl (hg := fun _ _ => ?_)) | (with_reducible apply Only.foldl_fst (hg := fun _ _ => ?_)) | split | dsimp only)
theorem writeSysCtrl_step {l₀ : List Part} {s₀ : State} (s : State) (path : Path) (v : Word) (h₀ : Only l₀ s₀ s) (hm : [.regs] ⊆ l₀) : Only l₀ s₀ (writeSysCtrl s path v) :=
  h₀.step (writeSysCtrl_only s path v) hm

theorem thermalStart_only (s : State) (c : Nat) : Only [.vent] s (thermalStart s c) := by
  unfold thermalStart
  try dsimp only
  repeat' (first | (with_reducible exact Only.refl _ _) | (with_reducible apply Only.ite) | (with_reducible apply Only.ite_fst) | (with_reducible apply State.modelUp_step (hm := by decide)) | (with_reducible apply Only.foldl (hg := fun _ _ => ?_)) | (with_reducible apply Only.foldl_fst (hg := fun _ _ => ?_)) | split | dsimp only)
theorem thermalStart_step {l₀ : List Part} {s₀ : State} (s : State) (c : Nat) (h₀ : Only l₀ s₀ s) (hm : [.vent] ⊆ l₀) : Only l₀ s₀ (thermalStart s c) :=
  h₀.step (thermalStart_only s c) hm

theorem startProcessors_only (s : State) : Only [.regs, .conds, .sys, .ain, .mb, .vent] s (startProcessors s) := by
  unfold startProcessors
  try dsimp only
  repeat' (first | (with_reducible exact Only.refl _ _) | (with_reducible apply Only.ite) | (with_reducible apply Only.ite_fst) | (with_reducible apply State.set_step (hm := by decide)) | (with_reducible apply ptpConfigure_step (hm := by decide)) | (with_reducible apply State.sysUp_step (hm := by decide)) | (with_reducible apply thermalStart_step (hm := by decide)) | (with_reducible apply Only.foldl (hg := fun _ _ => ?_)) | (with_reducible apply Only.foldl_fst (hg := fun _ _ => ?_)) | split | dsimp only | (with_reducible apply only_with_mb_step (hm := by decide)))
theorem startProcessors_step {l₀ : List Part} {s₀ : State} (s : State) (h₀ : Only l₀ s₀ s) (hm : [.regs, .conds, .sys, .ain, .mb, .vent] ⊆ l₀) : Only l₀ s₀ (startProcessors s) :=
  h₀.step (startProcessors_only s) hm

theorem debugRelease_only (s : State) : Only [.regs, .conds, .sys, .ain, .mb, .safe, .vent] s (debugRelease s) := by
  unfold debugRelease
  try dsimp only
  repeat' (first | (with_reducible exact Only.refl _ _) | (with_reducible apply Only.ite) | (with_reducible apply Only.ite_fst) | (with_reducible apply State.safeUp_step (hm := by decide)) | (with_reducible apply State.sysUp_step (hm := by decide)) | (with_reducible apply startProcessors_step (hm := by decide)) | (with_reducible apply Only.foldl (hg := fun _ _ => ?_)) | (with_reducible apply Only.foldl_fst (hg := fun _ _ => ?_)) | split | dsimp only)
theorem debugRelease_step {l₀ : List Part} {s₀ : State} (s : State) (h₀ : Only l₀ s₀ s) (hm : [.regs, .conds, .sys, .ain, .mb, .safe, .vent] ⊆ l₀) : Only l₀ s₀ (debugRelease s) :=
  h₀.step (debugRelease_only s) hm

/-! ### The canonical form -/

theorem lcRefuse_wf (s : State) (reason : Nat) (h₀ : Memory.wf s = true) : Memory.wf (lcRefuse s reason) = true := by
  unfold lcRefuse
  try dsimp only
  repeat' (first | (with_reducible assumption) | (with_reducible apply wf_ite) | (with_reducible apply wf_ite_fst) | (with_reducible apply State.raise_wf) | (with_reducible apply State.set_wf) | (with_reducible apply wf_foldl (hg := fun _ _ _ => ?_)) | (with_reducible apply wf_foldl_fst (hg := fun _ _ _ => ?_)) | split | dsimp only)

theorem lcRequest_wf (s : State) (path : Path) (v : Word) (h₀ : Memory.wf s = true) : Memory.wf (lcRequest s path v) = true := by
  unfold lcRequest
  try dsimp only
  repeat' (first | (with_reducible assumption) | (with_reducible apply wf_ite) | (with_reducible apply wf_ite_fst) | (with_reducible apply State.raise_wf) | (with_reducible apply State.sysUp_wf) | (with_reducible apply lcRefuse_wf) | (with_reducible apply State.set_wf) | (with_reducible apply writeRecord_wf) | (with_reducible apply wf_foldl (hg := fun _ _ _ => ?_)) | (with_reducible apply wf_foldl_fst (hg := fun _ _ _ => ?_)) | split | dsimp only)

theorem lcDrop_wf (s : State) (h₀ : Memory.wf s = true) : Memory.wf (lcDrop s) = true := by
  unfold lcDrop
  try dsimp only
  repeat' (first | (with_reducible assumption) | (with_reducible apply wf_ite) | (with_reducible apply wf_ite_fst) | (with_reducible apply State.sysUp_wf) | (with_reducible apply lcRefuse_wf) | (with_reducible apply wf_foldl (hg := fun _ _ _ => ?_)) | (with_reducible apply wf_foldl_fst (hg := fun _ _ _ => ?_)) | split | dsimp only)

theorem flashDone_wf (s : State) (ok : Bool) (h₀ : Memory.wf s = true) : Memory.wf (flashDone s ok) = true := by
  unfold flashDone
  try dsimp only
  repeat' (first | (with_reducible assumption) | (with_reducible apply wf_ite) | (with_reducible apply wf_ite_fst) | (with_reducible apply State.sysUp_wf) | (with_reducible apply State.bkgUp_wf) | (with_reducible apply showBusy_wf) | (with_reducible apply flashOpDone_wf) | (with_reducible apply lcDrop_wf) | (with_reducible apply State.raise_wf) | (with_reducible apply wf_foldl (hg := fun _ _ _ => ?_)) | (with_reducible apply wf_foldl_fst (hg := fun _ _ _ => ?_)) | split | dsimp only)

theorem enterReset_wf (s : State) (cause : Nat) (_ : Memory.wf s = true) : Memory.wf (enterReset s cause) = true := rfl

theorem resetRelease_wf (s : State) (x : Straps) (h₀ : Memory.wf s = true) : Memory.wf (resetRelease s x) = true := by
  unfold resetRelease
  refine wf_ite h₀ ?_
  dsimp only
  repeat' (first | (with_reducible apply State.set_wf) | (with_reducible apply State.setB_wf) | (with_reducible apply State.wr_wf))
  rfl

theorem fuseBlowDone_wf (s : State) (ok : Bool) (h₀ : Memory.wf s = true) : Memory.wf (fuseBlowDone s ok) = true := by
  unfold fuseBlowDone
  try dsimp only
  repeat' (first | (with_reducible assumption) | (with_reducible rfl) | (with_reducible apply wf_ite) | (with_reducible apply wf_ite_fst) | (with_reducible apply State.sysUp_wf) | (with_reducible apply enterReset_wf) | (with_reducible apply wf_foldl (hg := fun _ _ _ => ?_)) | (with_reducible apply wf_foldl_fst (hg := fun _ _ _ => ?_)) | split | dsimp only)

theorem credential_wf (s : State) (bytes : List Byte) (h₀ : Memory.wf s = true) : Memory.wf (credential s bytes) = true := by
  unfold credential
  try dsimp only
  repeat' (first | (with_reducible assumption) | (with_reducible apply wf_ite) | (with_reducible apply wf_ite_fst) | (with_reducible apply State.sysUp_wf) | (with_reducible apply State.set_wf) | (with_reducible apply wf_foldl (hg := fun _ _ _ => ?_)) | (with_reducible apply wf_foldl_fst (hg := fun _ _ _ => ?_)) | split | dsimp only)

theorem fuseProgram_wf (s : State) (what : FuseWrite) (h₀ : Memory.wf s = true) : Memory.wf (fuseProgram s what) = true := by
  unfold fuseProgram
  try dsimp only
  repeat' (first | (with_reducible assumption) | (with_reducible apply wf_ite) | (with_reducible apply wf_ite_fst) | (with_reducible apply State.sysUp_wf) | (with_reducible apply credential_wf) | (with_reducible apply wf_foldl (hg := fun _ _ _ => ?_)) | (with_reducible apply wf_foldl_fst (hg := fun _ _ _ => ?_)) | split | dsimp only)

theorem boundaryScanLoad_wf (s : State) (h₀ : Memory.wf s = true) : Memory.wf (boundaryScanLoad s) = true := by
  unfold boundaryScanLoad
  try dsimp only
  repeat' (first | (with_reducible assumption) | (with_reducible apply wf_ite) | (with_reducible apply wf_ite_fst) | (with_reducible apply State.sysUp_wf) | (with_reducible apply debugHalt_wf) | (with_reducible apply releaseOwn_wf) | (with_reducible apply wf_foldl (hg := fun _ _ _ => ?_)) | (with_reducible apply wf_foldl_fst (hg := fun _ _ _ => ?_)) | split | dsimp only)

theorem samplePin_wf (s : State) (low : Bool) (h₀ : Memory.wf s = true) : Memory.wf (samplePin s low) = true := by
  unfold samplePin
  try dsimp only
  repeat' (first | (with_reducible assumption) | (with_reducible apply wf_ite) | (with_reducible apply wf_ite_fst) | (with_reducible apply State.sysUp_wf) | (with_reducible apply State.raiseIf_wf) | (with_reducible apply wf_foldl (hg := fun _ _ _ => ?_)) | (with_reducible apply wf_foldl_fst (hg := fun _ _ _ => ?_)) | split | dsimp only)

theorem countSwitching_wf (s : State) (c : Nat) (h₀ : Memory.wf s = true) : Memory.wf (countSwitching s c) = true :=
  Only.wf (countSwitching_only s c) (by decide) h₀

theorem muteAtBlock_wf (s : State) (c : Nat) (h₀ : Memory.wf s = true) : Memory.wf (muteAtBlock s c) = true := by
  unfold muteAtBlock
  try dsimp only
  repeat' (first | (with_reducible assumption) | (with_reducible apply wf_ite) | (with_reducible apply wf_ite_fst) | (with_reducible apply State.setB_wf) | (with_reducible apply State.mbUp_wf) | (with_reducible apply wf_foldl (hg := fun _ _ _ => ?_)) | (with_reducible apply wf_foldl_fst (hg := fun _ _ _ => ?_)) | split | dsimp only)

theorem mutesAtBlock_wf (s : State) (low : Bool) (h₀ : Memory.wf s = true) : Memory.wf (mutesAtBlock s low) = true := by
  unfold mutesAtBlock
  try dsimp only
  repeat' (first | (with_reducible assumption) | (with_reducible apply wf_ite) | (with_reducible apply wf_ite_fst) | (with_reducible apply State.sysUp_wf) | (with_reducible apply samplePin_wf) | (with_reducible apply muteAtBlock_wf) | (with_reducible apply State.set_wf) | (with_reducible apply countSwitching_wf) | (with_reducible apply wf_foldl (hg := fun _ _ _ => ?_)) | (with_reducible apply wf_foldl_fst (hg := fun _ _ _ => ?_)) | split | dsimp only)

theorem relStart_wf (s : State) (c : Nat) (h₀ : Memory.wf s = true) : Memory.wf (relStart s c) = true := by
  unfold relStart
  try dsimp only
  repeat' (first | (with_reducible assumption) | (with_reducible apply wf_ite) | (with_reducible apply wf_ite_fst) | (with_reducible apply State.sysUp_wf) | (with_reducible apply State.set_wf) | (with_reducible apply wf_foldl (hg := fun _ _ _ => ?_)) | (with_reducible apply wf_foldl_fst (hg := fun _ _ _ => ?_)) | split | dsimp only)

theorem unitsAtBlock_wf (s : State) (h₀ : Memory.wf s = true) : Memory.wf (unitsAtBlock s) = true :=
  Only.wf (unitsAtBlock_only s) (by decide) h₀

theorem becomeReady_wf (s : State) (b : Nat) (h₀ : Memory.wf s = true) : Memory.wf (becomeReady s b) = true := by
  unfold becomeReady
  try dsimp only
  repeat' (first | (with_reducible assumption) | (with_reducible apply wf_ite) | (with_reducible apply wf_ite_fst) | (with_reducible apply State.set_wf) | (with_reducible apply State.setFree_wf) | (with_reducible apply wf_foldl (hg := fun _ _ _ => ?_)) | (with_reducible apply wf_foldl_fst (hg := fun _ _ _ => ?_)) | split | dsimp only)

theorem readyAtBlock_wf (s : State) (h₀ : Memory.wf s = true) : Memory.wf (readyAtBlock s) = true := by
  unfold readyAtBlock
  try dsimp only
  repeat' (first | (with_reducible assumption) | (with_reducible apply wf_ite) | (with_reducible apply wf_ite_fst) | (with_reducible apply becomeReady_wf) | (with_reducible apply wf_foldl (hg := fun _ _ _ => ?_)) | (with_reducible apply wf_foldl_fst (hg := fun _ _ _ => ?_)) | split | dsimp only)

theorem fwTimeout_wf (s : State) (h₀ : Memory.wf s = true) : Memory.wf (fwTimeout s) = true := by
  unfold fwTimeout
  try dsimp only
  repeat' (first | (with_reducible assumption) | (with_reducible apply wf_ite) | (with_reducible apply wf_ite_fst) | (with_reducible apply limitsLock_wf) | (with_reducible apply State.raise_wf) | (with_reducible apply State.sysUp_wf) | (with_reducible apply wf_foldl (hg := fun _ _ _ => ?_)) | (with_reducible apply wf_foldl_fst (hg := fun _ _ _ => ?_)) | split | dsimp only)

theorem writeSysCtrl_wf (s : State) (path : Path) (v : Word) (h₀ : Memory.wf s = true) : Memory.wf (writeSysCtrl s path v) = true := by
  unfold writeSysCtrl
  try dsimp only
  repeat' (first | (with_reducible assumption) | (with_reducible apply wf_ite) | (with_reducible apply wf_ite_fst) | (with_reducible apply State.set_wf) | (with_reducible apply wf_foldl (hg := fun _ _ _ => ?_)) | (with_reducible apply wf_foldl_fst (hg := fun _ _ _ => ?_)) | split | dsimp only)

theorem thermalStart_wf (s : State) (c : Nat) (h₀ : Memory.wf s = true) : Memory.wf (thermalStart s c) = true := by
  unfold thermalStart
  try dsimp only
  repeat' (first | (with_reducible assumption) | (with_reducible rfl) | (with_reducible apply wf_ite) | (with_reducible apply wf_ite_fst) | (with_reducible apply State.modelUp_wf) | (with_reducible apply wf_foldl (hg := fun _ _ _ => ?_)) | (with_reducible apply wf_foldl_fst (hg := fun _ _ _ => ?_)) | split | dsimp only)

theorem startProcessors_wf (s : State) (h₀ : Memory.wf s = true) : Memory.wf (startProcessors s) = true := by
  unfold startProcessors
  try dsimp only
  repeat' (first | (with_reducible assumption) | (with_reducible rfl) | (with_reducible apply wf_ite) | (with_reducible apply wf_ite_fst) | (with_reducible apply State.sysUp_wf) | (with_reducible apply ptpConfigure_wf) | (with_reducible apply thermalStart_wf) | (with_reducible apply State.set_wf) | (with_reducible apply wf_foldl (hg := fun _ _ _ => ?_)) | (with_reducible apply wf_foldl_fst (hg := fun _ _ _ => ?_)) | split | dsimp only | (with_reducible apply wf_with_mb))

theorem debugRelease_wf (s : State) (h₀ : Memory.wf s = true) : Memory.wf (debugRelease s) = true := by
  unfold debugRelease
  try dsimp only
  repeat' (first | (with_reducible assumption) | (with_reducible rfl) | (with_reducible apply wf_ite) | (with_reducible apply wf_ite_fst) | (with_reducible apply State.sysUp_wf) | (with_reducible apply startProcessors_wf) | (with_reducible apply State.safeUp_wf) | (with_reducible apply wf_foldl (hg := fun _ _ _ => ?_)) | (with_reducible apply wf_foldl_fst (hg := fun _ _ _ => ?_)) | split | dsimp only)

end Sys2Proof.Machine
end

