-- ==== Sys2Proof/Laws/FrameLink.lean ====
section
/-! SUPPORT. Laws/FrameLink.lean: what the operations of Machine/Link.lean may change (f_only; f_step after what went before), and
that each keeps the memories' canonical form (f_wf). -/

set_option Elab.async false
set_option linter.all false

namespace Sys2Proof.Machine

theorem linkSend_only (s : State) (type flags blk : Nat) (ws : List Quad) : Only [.twin] s (linkSend s type flags blk ws) := by
  unfold linkSend
  try dsimp only
  repeat' (first | (with_reducible exact Only.refl _ _) | (with_reducible apply Only.ite) | (with_reducible apply Only.ite_fst) | (with_reducible apply Only.foldl (hg := fun _ _ => ?_)) | (with_reducible apply Only.foldl_fst (hg := fun _ _ => ?_)) | split | dsimp only | (with_reducible apply only_with_twin_step (hm := by decide)))
theorem linkSend_step {l₀ : List Part} {s₀ : State} (s : State) (type flags blk : Nat) (ws : List Quad) (h₀ : Only l₀ s₀ s) (hm : [.twin] ⊆ l₀) : Only l₀ s₀ (linkSend s type flags blk ws) :=
  h₀.step (linkSend_only s type flags blk ws) hm

theorem sendFrame_only (s : State) (type reason : Nat) (ws : List Quad) : Only [.regs, .gates] s (sendFrame s type reason ws) := by
  unfold sendFrame
  try dsimp only
  repeat' (first | (with_reducible exact Only.refl _ _) | (with_reducible apply Only.ite) | (with_reducible apply Only.ite_fst) | (with_reducible apply gatePush_step (hm := by decide)) | (with_reducible apply Only.foldl (hg := fun _ _ => ?_)) | (with_reducible apply Only.foldl_fst (hg := fun _ _ => ?_)) | split | dsimp only)
theorem sendFrame_step {l₀ : List Part} {s₀ : State} (s : State) (type reason : Nat) (ws : List Quad) (h₀ : Only l₀ s₀ s) (hm : [.regs, .gates] ⊆ l₀) : Only l₀ s₀ (sendFrame s type reason ws) :=
  h₀.step (sendFrame_only s type reason ws) hm

theorem frameLeaves_only (s : State) (ws : List Word) : Only [.twin] s (frameLeaves s ws) := by
  unfold frameLeaves
  try dsimp only
  repeat' (first | (with_reducible exact Only.refl _ _) | (with_reducible apply Only.ite) | (with_reducible apply Only.ite_fst) | (with_reducible apply linkSend_step (hm := by decide)) | (with_reducible apply Only.foldl (hg := fun _ _ => ?_)) | (with_reducible apply Only.foldl_fst (hg := fun _ _ => ?_)) | split | dsimp only)
theorem frameLeaves_step {l₀ : List Part} {s₀ : State} (s : State) (ws : List Word) (h₀ : Only l₀ s₀ s) (hm : [.twin] ⊆ l₀) : Only l₀ s₀ (frameLeaves s ws) :=
  h₀.step (frameLeaves_only s ws) hm

theorem markLeaves_only (s : State) (ws : List Word) : Only [.twin] s (markLeaves s ws) := by
  unfold markLeaves
  try dsimp only
  repeat' (first | (with_reducible exact Only.refl _ _) | (with_reducible apply Only.ite) | (with_reducible apply Only.ite_fst) | (with_reducible apply linkSend_step (hm := by decide)) | (with_reducible apply Only.foldl (hg := fun _ _ => ?_)) | (with_reducible apply Only.foldl_fst (hg := fun _ _ => ?_)) | split | dsimp only)
theorem markLeaves_step {l₀ : List Part} {s₀ : State} (s : State) (ws : List Word) (h₀ : Only l₀ s₀ s) (hm : [.twin] ⊆ l₀) : Only l₀ s₀ (markLeaves s ws) :=
  h₀.step (markLeaves_only s ws) hm

theorem linkErrors_only (s : State) (errs : List (BitVec 145)) : Only [.regs, .free] s (linkErrors s errs).1 := by
  unfold linkErrors
  try dsimp only
  repeat' (first | (with_reducible exact Only.refl _ _) | (with_reducible apply Only.ite) | (with_reducible apply Only.ite_fst) | (with_reducible apply State.set_step (hm := by decide)) | (with_reducible apply transitError_step (hm := by decide)) | (with_reducible apply Only.foldl (hg := fun _ _ => ?_)) | (with_reducible apply Only.foldl_fst (hg := fun _ _ => ?_)) | (with_reducible refine Only.of_fst (by assumption) ?_) | split | dsimp only)
theorem linkErrors_step {l₀ : List Part} {s₀ : State} (s : State) (errs : List (BitVec 145)) (h₀ : Only l₀ s₀ s) (hm : [.regs, .free] ⊆ l₀) : Only l₀ s₀ (linkErrors s errs).1 :=
  h₀.step (linkErrors_only s errs) hm

theorem frameTake_only (s : State) (type : Nat) (x : LinkRx) : Only [.regs, .free] s (frameTake s type x).1 := by
  unfold frameTake
  try dsimp only
  repeat' (first | (with_reducible exact Only.refl _ _) | (with_reducible apply Only.ite) | (with_reducible apply Only.ite_fst) | (with_reducible apply linkErrors_step (hm := by decide)) | (with_reducible apply Only.foldl (hg := fun _ _ => ?_)) | (with_reducible apply Only.foldl_fst (hg := fun _ _ => ?_)) | (with_reducible refine Only.of_fst (by assumption) ?_) | split | dsimp only)
theorem frameTake_step {l₀ : List Part} {s₀ : State} (s : State) (type : Nat) (x : LinkRx) (h₀ : Only l₀ s₀ s) (hm : [.regs, .free] ⊆ l₀) : Only l₀ s₀ (frameTake s type x).1 :=
  h₀.step (frameTake_only s type x) hm

theorem Only.frameUsed {l : List Part} {r s : State} {ty : Nat} {x : LinkRx} {f : State → State} (hf : ∀ t, Only l t (f t))
    (hm : [.regs, .free] ⊆ l) (h : Only l r s) : Only l r (frameUsed s ty x f) := by
  have k : Only l r (frameTake s ty x).1 := frameTake_step s ty x h hm
  unfold Machine.frameUsed
  exact Only.ite h (Only.ite (k.trans (hf _)) k)

/-! ### The canonical form -/

theorem linkSend_wf (s : State) (type flags blk : Nat) (ws : List Quad) (h₀ : Memory.wf s = true) : Memory.wf (linkSend s type flags blk ws) = true :=
  Only.wf (linkSend_only s type flags blk ws) (by decide) h₀

theorem sendFrame_wf (s : State) (type reason : Nat) (ws : List Quad) (h₀ : Memory.wf s = true) : Memory.wf (sendFrame s type reason ws) = true := by
  unfold sendFrame
  try dsimp only
  repeat' (first | (with_reducible assumption) | (with_reducible apply wf_ite) | (with_reducible apply wf_ite_fst) | (with_reducible apply gatePush_wf) | (with_reducible apply wf_foldl (hg := fun _ _ _ => ?_)) | (with_reducible apply wf_foldl_fst (hg := fun _ _ _ => ?_)) | split | dsimp only)

theorem frameLeaves_wf (s : State) (ws : List Word) (h₀ : Memory.wf s = true) : Memory.wf (frameLeaves s ws) = true :=
  Only.wf (frameLeaves_only s ws) (by decide) h₀

theorem markLeaves_wf (s : State) (ws : List Word) (h₀ : Memory.wf s = true) : Memory.wf (markLeaves s ws) = true :=
  Only.wf (markLeaves_only s ws) (by decide) h₀

theorem linkErrors_wf (s : State) (errs : List (BitVec 145)) (h₀ : Memory.wf s = true) : Memory.wf (linkErrors s errs).1 = true := by
  unfold linkErrors
  try dsimp only
  repeat' (first | (with_reducible assumption) | (with_reducible apply wf_ite) | (with_reducible apply wf_ite_fst) | (with_reducible apply transitError_wf) | (with_reducible apply State.set_wf) | (with_reducible apply wf_foldl (hg := fun _ _ _ => ?_)) | (with_reducible apply wf_foldl_fst (hg := fun _ _ _ => ?_)) | (with_reducible refine wf_of_fst (by assumption) ?_) | split | dsimp only)

theorem frameTake_wf (s : State) (type : Nat) (x : LinkRx) (h₀ : Memory.wf s = true) : Memory.wf (frameTake s type x).1 = true := by
  unfold frameTake
  try dsimp only
  repeat' (first | (with_reducible assumption) | (with_reducible apply wf_ite) | (with_reducible apply wf_ite_fst) | (with_reducible apply linkErrors_wf) | (with_reducible apply wf_foldl (hg := fun _ _ _ => ?_)) | (with_reducible apply wf_foldl_fst (hg := fun _ _ _ => ?_)) | (with_reducible refine wf_of_fst (by assumption) ?_) | split | dsimp only)

theorem frameUsed_wf {s : State} {ty : Nat} {x : LinkRx} {f : State → State} (hf : ∀ t, Memory.wf t = true → Memory.wf (f t) = true)
    (h : Memory.wf s = true) : Memory.wf (frameUsed s ty x f) = true := by
  have k := frameTake_wf s ty x h
  unfold Machine.frameUsed
  exact wf_ite h (wf_ite (hf _ k) k)

end Sys2Proof.Machine
end

