-- ==== Sys2Proof/Laws/FrameTwin.lean ====
section
/-! SUPPORT. Laws/FrameTwin.lean: what the operations of Machine/Twin.lean may change (f_only; f_step after what went before), and
that each keeps the memories' canonical form (f_wf). -/

set_option Elab.async false
set_option linter.all false

namespace Sys2Proof.Machine

theorem setPstate_only (s : State) (p : Nat) : Only [.regs] s (setPstate s p) := by
  unfold setPstate
  try dsimp only
  repeat' (first | (with_reducible exact Only.refl _ _) | (with_reducible apply Only.ite) | (with_reducible apply Only.ite_fst) | (with_reducible apply State.set_step (hm := by decide)) | (with_reducible apply Only.foldl (hg := fun _ _ => ?_)) | (with_reducible apply Only.foldl_fst (hg := fun _ _ => ?_)) | split | dsimp only)
theorem setPstate_step {l₀ : List Part} {s₀ : State} (s : State) (p : Nat) (h₀ : Only l₀ s₀ s) (hm : [.regs] ⊆ l₀) : Only l₀ s₀ (setPstate s p) :=
  h₀.step (setPstate_only s p) hm

theorem giveUp_only (s : State) : Only [.regs, .pins, .twin] s (giveUp s) := by
  unfold giveUp
  try dsimp only
  repeat' (first | (with_reducible exact Only.refl _ _) | (with_reducible apply Only.ite) | (with_reducible apply Only.ite_fst) | (with_reducible apply releaseOwn_step (hm := by decide)) | (with_reducible apply State.twinUp_step (hm := by decide)) | (with_reducible apply Only.foldl (hg := fun _ _ => ?_)) | (with_reducible apply Only.foldl_fst (hg := fun _ _ => ?_)) | split | dsimp only)
theorem giveUp_step {l₀ : List Part} {s₀ : State} (s : State) (h₀ : Only l₀ s₀ s) (hm : [.regs, .pins, .twin] ⊆ l₀) : Only l₀ s₀ (giveUp s) :=
  h₀.step (giveUp_only s) hm

theorem ownHigh_only (s : State) : Only [.regs, .twin] s (ownHigh s) := by
  unfold ownHigh
  try dsimp only
  repeat' (first | (with_reducible exact Only.refl _ _) | (with_reducible apply Only.ite) | (with_reducible apply Only.ite_fst) | (with_reducible apply setPstate_step (hm := by decide)) | (with_reducible apply State.set_step (hm := by decide)) | (with_reducible apply State.twinUp_step (hm := by decide)) | (with_reducible apply Only.foldl (hg := fun _ _ => ?_)) | (with_reducible apply Only.foldl_fst (hg := fun _ _ => ?_)) | split | dsimp only)
theorem ownHigh_step {l₀ : List Part} {s₀ : State} (s : State) (h₀ : Only l₀ s₀ s) (hm : [.regs, .twin] ⊆ l₀) : Only l₀ s₀ (ownHigh s) :=
  h₀.step (ownHigh_only s) hm

theorem ownLow_only (s : State) : Only [.twin] s (ownLow s) := by
  unfold ownLow
  try dsimp only
  repeat' (first | (with_reducible exact Only.refl _ _) | (with_reducible apply Only.ite) | (with_reducible apply Only.ite_fst) | (with_reducible apply State.twinUp_step (hm := by decide)) | (with_reducible apply Only.foldl (hg := fun _ _ => ?_)) | (with_reducible apply Only.foldl_fst (hg := fun _ _ => ?_)) | split | dsimp only)
theorem ownLow_step {l₀ : List Part} {s₀ : State} (s : State) (h₀ : Only l₀ s₀ s) (hm : [.twin] ⊆ l₀) : Only l₀ s₀ (ownLow s) :=
  h₀.step (ownLow_only s) hm

theorem telResume_only (s : State) (c : Nat) : Only [.regs] s (telResume s c) := by
  unfold telResume
  try dsimp only
  repeat' (first | (with_reducible exact Only.refl _ _) | (with_reducible apply Only.ite) | (with_reducible apply Only.ite_fst) | (with_reducible apply State.set_step (hm := by decide)) | (with_reducible apply setCount_step (hm := by decide)) | (with_reducible apply Only.foldl (hg := fun _ _ => ?_)) | (with_reducible apply Only.foldl_fst (hg := fun _ _ => ?_)) | split | dsimp only)
theorem telResume_step {l₀ : List Part} {s₀ : State} (s : State) (c : Nat) (h₀ : Only l₀ s₀ s) (hm : [.regs] ⊆ l₀) : Only l₀ s₀ (telResume s c) :=
  h₀.step (telResume_only s c) hm

theorem claimCheck_only (s : State) (high : Bool) : Only [.regs, .pins, .twin, .str] s (claimCheck s high) := by
  unfold claimCheck
  try dsimp only
  repeat' (first | (with_reducible exact Only.refl _ _) | (with_reducible apply Only.ite) | (with_reducible apply Only.ite_fst) | (with_reducible apply State.raise_step (hm := by decide)) | (with_reducible apply State.set_step (hm := by decide)) | (with_reducible apply telResume_step (hm := by decide)) | (with_reducible apply State.twinUp_step (hm := by decide)) | (with_reducible apply Only.foldl (hg := fun _ _ => ?_)) | (with_reducible apply Only.foldl_fst (hg := fun _ _ => ?_)) | split | dsimp only | (with_reducible apply only_with_str_step (hm := by decide)) | (with_reducible apply only_with_pins_step (hm := by decide)))
theorem claimCheck_step {l₀ : List Part} {s₀ : State} (s : State) (high : Bool) (h₀ : Only l₀ s₀ s) (hm : [.regs, .pins, .twin, .str] ⊆ l₀) : Only l₀ s₀ (claimCheck s high) :=
  h₀.step (claimCheck_only s high) hm

theorem holdRelease_only (s : State) : Only [.regs, .free, .legs, .pins, .twin] s (holdRelease s) := by
  unfold holdRelease
  try dsimp only
  repeat' (first | (with_reducible exact Only.refl _ _) | (with_reducible apply Only.ite) | (with_reducible apply Only.ite_fst) | (with_reducible apply State.legUp_step (hm := by decide)) | (with_reducible apply State.set_step (hm := by decide)) | (with_reducible apply State.setFree_step (hm := by decide)) | (with_reducible apply State.twinUp_step (hm := by decide)) | (with_reducible apply resume_step (hm := by decide)) | (with_reducible apply Only.foldl (hg := fun _ _ => ?_)) | (with_reducible apply Only.foldl_fst (hg := fun _ _ => ?_)) | split | dsimp only | (with_reducible apply only_with_pins_step (hm := by decide)))
theorem holdRelease_step {l₀ : List Part} {s₀ : State} (s : State) (h₀ : Only l₀ s₀ s) (hm : [.regs, .free, .legs, .pins, .twin] ⊆ l₀) : Only l₀ s₀ (holdRelease s) :=
  h₀.step (holdRelease_only s) hm

theorem handover_only (s : State) : Only [.regs, .twin] s (handover s) := by
  unfold handover
  try dsimp only
  repeat' (first | (with_reducible exact Only.refl _ _) | (with_reducible apply Only.ite) | (with_reducible apply Only.ite_fst) | (with_reducible apply State.raise_step (hm := by decide)) | (with_reducible apply State.set_step (hm := by decide)) | (with_reducible apply State.twinUp_step (hm := by decide)) | (with_reducible apply Only.foldl (hg := fun _ _ => ?_)) | (with_reducible apply Only.foldl_fst (hg := fun _ _ => ?_)) | split | dsimp only)
theorem handover_step {l₀ : List Part} {s₀ : State} (s : State) (h₀ : Only l₀ s₀ s) (hm : [.regs, .twin] ⊆ l₀) : Only l₀ s₀ (handover s) :=
  h₀.step (handover_only s) hm

theorem handoverAtBlock_only (s : State) : Only [.regs, .pins, .twin] s (handoverAtBlock s) := by
  unfold handoverAtBlock
  try dsimp only
  repeat' (first | (with_reducible exact Only.refl _ _) | (with_reducible apply Only.ite) | (with_reducible apply Only.ite_fst) | (with_reducible apply State.set_step (hm := by decide)) | (with_reducible apply giveUp_step (hm := by decide)) | (with_reducible apply State.twinUp_step (hm := by decide)) | (with_reducible apply Only.foldl (hg := fun _ _ => ?_)) | (with_reducible apply Only.foldl_fst (hg := fun _ _ => ?_)) | split | dsimp only)
theorem handoverAtBlock_step {l₀ : List Part} {s₀ : State} (s : State) (h₀ : Only l₀ s₀ s) (hm : [.regs, .pins, .twin] ⊆ l₀) : Only l₀ s₀ (handoverAtBlock s) :=
  h₀.step (handoverAtBlock_only s) hm

theorem holdoffEnd_only (s : State) : Only [.twin] s (holdoffEnd s) := by
  unfold holdoffEnd
  try dsimp only
  repeat' (first | (with_reducible exact Only.refl _ _) | (with_reducible apply Only.ite) | (with_reducible apply Only.ite_fst) | (with_reducible apply State.twinUp_step (hm := by decide)) | (with_reducible apply Only.foldl (hg := fun _ _ => ?_)) | (with_reducible apply Only.foldl_fst (hg := fun _ _ => ?_)) | split | dsimp only)
theorem holdoffEnd_step {l₀ : List Part} {s₀ : State} (s : State) (h₀ : Only l₀ s₀ s) (hm : [.twin] ⊆ l₀) : Only l₀ s₀ (holdoffEnd s) :=
  h₀.step (holdoffEnd_only s) hm

theorem hbAtUpdate_only (s : State) : Only [.twin] s (hbAtUpdate s) := by
  unfold hbAtUpdate
  try dsimp only
  repeat' (first | (with_reducible exact Only.refl _ _) | (with_reducible apply Only.ite) | (with_reducible apply Only.ite_fst) | (with_reducible apply State.twinUp_step (hm := by decide)) | (with_reducible apply Only.foldl (hg := fun _ _ => ?_)) | (with_reducible apply Only.foldl_fst (hg := fun _ _ => ?_)) | split | dsimp only)
theorem hbAtUpdate_step {l₀ : List Part} {s₀ : State} (s : State) (h₀ : Only l₀ s₀ s) (hm : [.twin] ⊆ l₀) : Only l₀ s₀ (hbAtUpdate s) :=
  h₀.step (hbAtUpdate_only s) hm

theorem hbEdge_only (s : State) (gapUs : Nat) : Only [.regs, .conds, .twin] s (hbEdge s gapUs) := by
  unfold hbEdge
  try dsimp only
  repeat' (first | (with_reducible exact Only.refl _ _) | (with_reducible apply Only.ite) | (with_reducible apply Only.ite_fst) | (with_reducible apply State.set_step (hm := by decide)) | (with_reducible apply State.twinUp_step (hm := by decide)) | (with_reducible apply State.cond_step (hm := by decide)) | (with_reducible apply Only.foldl (hg := fun _ _ => ?_)) | (with_reducible apply Only.foldl_fst (hg := fun _ _ => ?_)) | split | dsimp only)
theorem hbEdge_step {l₀ : List Part} {s₀ : State} (s : State) (gapUs : Nat) (h₀ : Only l₀ s₀ s) (hm : [.regs, .conds, .twin] ⊆ l₀) : Only l₀ s₀ (hbEdge s gapUs) :=
  h₀.step (hbEdge_only s gapUs) hm

theorem hbTimeout_only (s : State) : Only [.regs, .conds, .twin] s (hbTimeout s) := by
  unfold hbTimeout
  try dsimp only
  repeat' (first | (with_reducible exact Only.refl _ _) | (with_reducible apply Only.ite) | (with_reducible apply Only.ite_fst) | (with_reducible apply State.set_step (hm := by decide)) | (with_reducible apply State.cond_step (hm := by decide)) | (with_reducible apply State.twinUp_step (hm := by decide)) | (with_reducible apply Only.foldl (hg := fun _ _ => ?_)) | (with_reducible apply Only.foldl_fst (hg := fun _ _ => ?_)) | split | dsimp only)
theorem hbTimeout_step {l₀ : List Part} {s₀ : State} (s : State) (h₀ : Only l₀ s₀ s) (hm : [.regs, .conds, .twin] ⊆ l₀) : Only l₀ s₀ (hbTimeout s) :=
  h₀.step (hbTimeout_only s) hm

theorem resyncEnds_only (s : State) : Only [.regs, .twin] s (resyncEnds s) := by
  unfold resyncEnds
  try dsimp only
  repeat' (first | (with_reducible exact Only.refl _ _) | (with_reducible apply Only.ite) | (with_reducible apply Only.ite_fst) | (with_reducible apply State.set_step (hm := by decide)) | (with_reducible apply State.twinUp_step (hm := by decide)) | (with_reducible apply Only.foldl (hg := fun _ _ => ?_)) | (with_reducible apply Only.foldl_fst (hg := fun _ _ => ?_)) | split | dsimp only)
theorem resyncEnds_step {l₀ : List Part} {s₀ : State} (s : State) (h₀ : Only l₀ s₀ s) (hm : [.regs, .twin] ⊆ l₀) : Only l₀ s₀ (resyncEnds s) :=
  h₀.step (resyncEnds_only s) hm

theorem startTraining_only (s : State) : Only [.regs, .gates, .twin] s (startTraining s) := by
  unfold startTraining
  try dsimp only
  repeat' (first | (with_reducible exact Only.refl _ _) | (with_reducible apply Only.ite) | (with_reducible apply Only.ite_fst) | (with_reducible apply setPstate_step (hm := by decide)) | (with_reducible apply State.set_step (hm := by decide)) | (with_reducible apply resyncEnds_step (hm := by decide)) | (with_reducible apply State.twinUp_step (hm := by decide)) | (with_reducible apply sendFrame_step (hm := by decide)) | (with_reducible apply Only.foldl (hg := fun _ _ => ?_)) | (with_reducible apply Only.foldl_fst (hg := fun _ _ => ?_)) | split | dsimp only)
theorem startTraining_step {l₀ : List Part} {s₀ : State} (s : State) (h₀ : Only l₀ s₀ s) (hm : [.regs, .gates, .twin] ⊆ l₀) : Only l₀ s₀ (startTraining s) :=
  h₀.step (startTraining_only s) hm

theorem linkDown_only (s : State) : Only [.regs, .conds, .twin] s (linkDown s) := by
  unfold linkDown
  try dsimp only
  repeat' (first | (with_reducible exact Only.refl _ _) | (with_reducible apply Only.ite) | (with_reducible apply Only.ite_fst) | (with_reducible apply setPstate_step (hm := by decide)) | (with_reducible apply State.set_step (hm := by decide)) | (with_reducible apply resyncEnds_step (hm := by decide)) | (with_reducible apply State.twinUp_step (hm := by decide)) | (with_reducible apply State.cond_step (hm := by decide)) | (with_reducible apply Only.foldl (hg := fun _ _ => ?_)) | (with_reducible apply Only.foldl_fst (hg := fun _ _ => ?_)) | split | dsimp only)
theorem linkDown_step {l₀ : List Part} {s₀ : State} (s : State) (h₀ : Only l₀ s₀ s) (hm : [.regs, .conds, .twin] ⊆ l₀) : Only l₀ s₀ (linkDown s) :=
  h₀.step (linkDown_only s) hm

theorem laneFails_only (s : State) (n codes : Nat) : Only [.regs, .conds, .twin] s (laneFails s n codes) := by
  unfold laneFails
  try dsimp only
  repeat' (first | (with_reducible exact Only.refl _ _) | (with_reducible apply Only.ite) | (with_reducible apply Only.ite_fst) | (with_reducible apply State.set_step (hm := by decide)) | (with_reducible apply State.cond_step (hm := by decide)) | (with_reducible apply linkDown_step (hm := by decide)) | (with_reducible apply Only.foldl (hg := fun _ _ => ?_)) | (with_reducible apply Only.foldl_fst (hg := fun _ _ => ?_)) | split | dsimp only)
theorem laneFails_step {l₀ : List Part} {s₀ : State} (s : State) (n codes : Nat) (h₀ : Only l₀ s₀ s) (hm : [.regs, .conds, .twin] ⊆ l₀) : Only l₀ s₀ (laneFails s n codes) :=
  h₀.step (laneFails_only s n codes) hm

theorem linkRetrain_only (s : State) : Only [.regs, .gates, .twin] s (linkRetrain s) := by
  unfold linkRetrain
  try dsimp only
  repeat' (first | (with_reducible exact Only.refl _ _) | (with_reducible apply Only.ite) | (with_reducible apply Only.ite_fst) | (with_reducible apply startTraining_step (hm := by decide)) | (with_reducible apply Only.foldl (hg := fun _ _ => ?_)) | (with_reducible apply Only.foldl_fst (hg := fun _ _ => ?_)) | split | dsimp only)
theorem linkRetrain_step {l₀ : List Part} {s₀ : State} (s : State) (h₀ : Only l₀ s₀ s) (hm : [.regs, .gates, .twin] ⊆ l₀) : Only l₀ s₀ (linkRetrain s) :=
  h₀.step (linkRetrain_only s) hm

theorem retrain_only (s : State) : Only [.regs, .gates, .twin] s (retrain s) := by
  unfold retrain
  try dsimp only
  repeat' (first | (with_reducible exact Only.refl _ _) | (with_reducible apply Only.ite) | (with_reducible apply Only.ite_fst) | (with_reducible apply State.set_step (hm := by decide)) | (with_reducible apply startTraining_step (hm := by decide)) | (with_reducible apply Only.foldl (hg := fun _ _ => ?_)) | (with_reducible apply Only.foldl_fst (hg := fun _ _ => ?_)) | split | dsimp only)
theorem retrain_step {l₀ : List Part} {s₀ : State} (s : State) (h₀ : Only l₀ s₀ s) (hm : [.regs, .gates, .twin] ⊆ l₀) : Only l₀ s₀ (retrain s) :=
  h₀.step (retrain_only s) hm

theorem conclude_only (s : State) : Only [.regs, .conds, .twin] s (conclude s) := by
  unfold conclude
  try dsimp only
  repeat' (first | (with_reducible exact Only.refl _ _) | (with_reducible apply Only.ite) | (with_reducible apply Only.ite_fst) | (with_reducible apply State.set_step (hm := by decide)) | (with_reducible apply State.cond_step (hm := by decide)) | (with_reducible apply State.twinUp_step (hm := by decide)) | (with_reducible apply Only.foldl (hg := fun _ _ => ?_)) | (with_reducible apply Only.foldl_fst (hg := fun _ _ => ?_)) | split | dsimp only)
theorem conclude_step {l₀ : List Part} {s₀ : State} (s : State) (h₀ : Only l₀ s₀ s) (hm : [.regs, .conds, .twin] ⊆ l₀) : Only l₀ s₀ (conclude s) :=
  h₀.step (conclude_only s) hm

theorem refusePair_only (s : State) (reason : Nat) : Only [.regs, .conds, .gates, .twin] s (refusePair s reason) := by
  unfold refusePair
  try dsimp only
  repeat' (first | (with_reducible exact Only.refl _ _) | (with_reducible apply Only.ite) | (with_reducible apply Only.ite_fst) | (with_reducible apply setPstate_step (hm := by decide)) | (with_reducible apply State.raiseIf_step (hm := by decide)) | (with_reducible apply State.set_step (hm := by decide)) | (with_reducible apply conclude_step (hm := by decide)) | (with_reducible apply sendFrame_step (hm := by decide)) | (with_reducible apply Only.foldl (hg := fun _ _ => ?_)) | (with_reducible apply Only.foldl_fst (hg := fun _ _ => ?_)) | split | dsimp only)
theorem refusePair_step {l₀ : List Part} {s₀ : State} (s : State) (reason : Nat) (h₀ : Only l₀ s₀ s) (hm : [.regs, .conds, .gates, .twin] ⊆ l₀) : Only l₀ s₀ (refusePair s reason) :=
  h₀.step (refusePair_only s reason) hm

theorem requestResync_only (s : State) : Only [.regs, .gates, .twin] s (requestResync s) := by
  unfold requestResync
  try dsimp only
  repeat' (first | (with_reducible exact Only.refl _ _) | (with_reducible apply Only.ite) | (with_reducible apply Only.ite_fst) | (with_reducible apply setPstate_step (hm := by decide)) | (with_reducible apply State.twinUp_step (hm := by decide)) | (with_reducible apply sendFrame_step (hm := by decide)) | (with_reducible apply Only.foldl (hg := fun _ _ => ?_)) | (with_reducible apply Only.foldl_fst (hg := fun _ _ => ?_)) | split | dsimp only)
theorem requestResync_step {l₀ : List Part} {s₀ : State} (s : State) (h₀ : Only l₀ s₀ s) (hm : [.regs, .gates, .twin] ⊆ l₀) : Only l₀ s₀ (requestResync s) :=
  h₀.step (requestResync_only s) hm

theorem acceptPair_only (s : State) (x : Ident) : Only [.regs, .conds, .gates, .pins, .twin] s (acceptPair s x) := by
  unfold acceptPair
  try dsimp only
  repeat' (first | (with_reducible exact Only.refl _ _) | (with_reducible apply Only.ite) | (with_reducible apply Only.ite_fst) | (with_reducible apply setPstate_step (hm := by decide)) | (with_reducible apply requestResync_step (hm := by decide)) | (with_reducible apply State.raise_step (hm := by decide)) | (with_reducible apply State.set_step (hm := by decide)) | (with_reducible apply giveUp_step (hm := by decide)) | (with_reducible apply conclude_step (hm := by decide)) | (with_reducible apply State.twinUp_step (hm := by decide)) | (with_reducible apply Only.foldl (hg := fun _ _ => ?_)) | (with_reducible apply Only.foldl_fst (hg := fun _ _ => ?_)) | split | dsimp only)
theorem acceptPair_step {l₀ : List Part} {s₀ : State} (s : State) (x : Ident) (h₀ : Only l₀ s₀ s) (hm : [.regs, .conds, .gates, .pins, .twin] ⊆ l₀) : Only l₀ s₀ (acceptPair s x) :=
  h₀.step (acceptPair_only s x) hm

theorem identRx_only (s : State) (x : Ident) : Only [.regs, .conds, .gates, .pins, .twin] s (identRx s x) := by
  unfold identRx
  try dsimp only
  repeat' (first | (with_reducible exact Only.refl _ _) | (with_reducible apply Only.ite) | (with_reducible apply Only.ite_fst) | (with_reducible apply State.set_step (hm := by decide)) | (with_reducible apply refusePair_step (hm := by decide)) | (with_reducible apply acceptPair_step (hm := by decide)) | (with_reducible apply Only.foldl (hg := fun _ _ => ?_)) | (with_reducible apply Only.foldl_fst (hg := fun _ _ => ?_)) | split | dsimp only)
theorem identRx_step {l₀ : List Part} {s₀ : State} (s : State) (x : Ident) (h₀ : Only l₀ s₀ s) (hm : [.regs, .conds, .gates, .pins, .twin] ⊆ l₀) : Only l₀ s₀ (identRx s x) :=
  h₀.step (identRx_only s x) hm

theorem refuseRx_only (s : State) (reason : Nat) : Only [.regs, .conds, .gates, .twin] s (refuseRx s reason) := by
  unfold refuseRx
  try dsimp only
  repeat' (first | (with_reducible exact Only.refl _ _) | (with_reducible apply Only.ite) | (with_reducible apply Only.ite_fst) | (with_reducible apply refusePair_step (hm := by decide)) | (with_reducible apply Only.foldl (hg := fun _ _ => ?_)) | (with_reducible apply Only.foldl_fst (hg := fun _ _ => ?_)) | split | dsimp only)
theorem refuseRx_step {l₀ : List Part} {s₀ : State} (s : State) (reason : Nat) (h₀ : Only l₀ s₀ s) (hm : [.regs, .conds, .gates, .twin] ⊆ l₀) : Only l₀ s₀ (refuseRx s reason) :=
  h₀.step (refuseRx_only s reason) hm

theorem identRepeat_only (s : State) : Only [.regs, .gates] s (identRepeat s) := by
  unfold identRepeat
  try dsimp only
  repeat' (first | (with_reducible exact Only.refl _ _) | (with_reducible apply Only.ite) | (with_reducible apply Only.ite_fst) | (with_reducible apply sendFrame_step (hm := by decide)) | (with_reducible apply Only.foldl (hg := fun _ _ => ?_)) | (with_reducible apply Only.foldl_fst (hg := fun _ _ => ?_)) | split | dsimp only)
theorem identRepeat_step {l₀ : List Part} {s₀ : State} (s : State) (h₀ : Only l₀ s₀ s) (hm : [.regs, .gates] ⊆ l₀) : Only l₀ s₀ (identRepeat s) :=
  h₀.step (identRepeat_only s) hm

theorem trainAtBlock_only (s : State) : Only [.regs, .twin] s (trainAtBlock s) := by
  unfold trainAtBlock
  try dsimp only
  repeat' (first | (with_reducible exact Only.refl _ _) | (with_reducible apply Only.ite) | (with_reducible apply Only.ite_fst) | (with_reducible apply setPstate_step (hm := by decide)) | (with_reducible apply State.set_step (hm := by decide)) | (with_reducible apply State.twinUp_step (hm := by decide)) | (with_reducible apply Only.foldl (hg := fun _ _ => ?_)) | (with_reducible apply Only.foldl_fst (hg := fun _ _ => ?_)) | split | dsimp only)
theorem trainAtBlock_step {l₀ : List Part} {s₀ : State} (s : State) (h₀ : Only l₀ s₀ s) (hm : [.regs, .twin] ⊆ l₀) : Only l₀ s₀ (trainAtBlock s) :=
  h₀.step (trainAtBlock_only s) hm

theorem msgTimeout_only (s : State) : Only [.regs, .conds, .gates, .twin] s (msgTimeout s) := by
  unfold msgTimeout
  try dsimp only
  repeat' (first | (with_reducible exact Only.refl _ _) | (with_reducible apply Only.ite) | (with_reducible apply Only.ite_fst) | (with_reducible apply State.set_step (hm := by decide)) | (with_reducible apply State.cond_step (hm := by decide)) | (with_reducible apply startTraining_step (hm := by decide)) | (with_reducible apply Only.foldl (hg := fun _ _ => ?_)) | (with_reducible apply Only.foldl_fst (hg := fun _ _ => ?_)) | split | dsimp only)
theorem msgTimeout_step {l₀ : List Part} {s₀ : State} (s : State) (h₀ : Only l₀ s₀ s) (hm : [.regs, .conds, .gates, .twin] ⊆ l₀) : Only l₀ s₀ (msgTimeout s) :=
  h₀.step (msgTimeout_only s) hm

theorem writeTwnCfg_only (s : State) (v : Word) : Only [.regs, .heldU, .heldB, .conds, .twin] s (writeTwnCfg s v) := by
  unfold writeTwnCfg
  try dsimp only
  repeat' (first | (with_reducible exact Only.refl _ _) | (with_reducible apply Only.ite) | (with_reducible apply Only.ite_fst) | (with_reducible apply setPstate_step (hm := by decide)) | (with_reducible apply State.set_step (hm := by decide)) | (with_reducible apply State.cond_step (hm := by decide)) | (with_reducible apply State.twinUp_step (hm := by decide)) | (with_reducible apply storeCoded_step (hm := by decide)) | (with_reducible apply Only.foldl (hg := fun _ _ => ?_)) | (with_reducible apply Only.foldl_fst (hg := fun _ _ => ?_)) | split | dsimp only)
theorem writeTwnCfg_step {l₀ : List Part} {s₀ : State} (s : State) (v : Word) (h₀ : Only l₀ s₀ s) (hm : [.regs, .heldU, .heldB, .conds, .twin] ⊆ l₀) : Only l₀ s₀ (writeTwnCfg s v) :=
  h₀.step (writeTwnCfg_only s v) hm

theorem twinPllLock_only (s : State) : Only [.regs, .conds, .gates, .twin] s (twinPllLock s) := by
  unfold twinPllLock
  try dsimp only
  repeat' (first | (with_reducible exact Only.refl _ _) | (with_reducible apply Only.ite) | (with_reducible apply Only.ite_fst) | (with_reducible apply pllLock_step (hm := by decide)) | (with_reducible apply startTraining_step (hm := by decide)) | (with_reducible apply Only.foldl (hg := fun _ _ => ?_)) | (with_reducible apply Only.foldl_fst (hg := fun _ _ => ?_)) | split | dsimp only)
theorem twinPllLock_step {l₀ : List Part} {s₀ : State} (s : State) (h₀ : Only l₀ s₀ s) (hm : [.regs, .conds, .gates, .twin] ⊆ l₀) : Only l₀ s₀ (twinPllLock s) :=
  h₀.step (twinPllLock_only s) hm

theorem twinClockLost_only (s : State) : Only [.regs, .conds, .twin] s (twinClockLost s) := by
  unfold twinClockLost
  try dsimp only
  repeat' (first | (with_reducible exact Only.refl _ _) | (with_reducible apply Only.ite) | (with_reducible apply Only.ite_fst) | (with_reducible apply linkDown_step (hm := by decide)) | (with_reducible apply Only.foldl (hg := fun _ _ => ?_)) | (with_reducible apply Only.foldl_fst (hg := fun _ _ => ?_)) | split | dsimp only)
theorem twinClockLost_step {l₀ : List Part} {s₀ : State} (s : State) (h₀ : Only l₀ s₀ s) (hm : [.regs, .conds, .twin] ⊆ l₀) : Only l₀ s₀ (twinClockLost s) :=
  h₀.step (twinClockLost_only s) hm

theorem markRx_only (s : State) (low : Nat) (err : Int) : Only [.regs, .gates, .free, .twin] s (markRx s low err) := by
  unfold markRx
  try dsimp only
  repeat' (first | (with_reducible exact Only.refl _ _) | (with_reducible apply Only.ite) | (with_reducible apply Only.ite_fst) | (with_reducible apply requestResync_step (hm := by decide)) | (with_reducible apply State.raiseIf_step (hm := by decide)) | (with_reducible apply State.set_step (hm := by decide)) | (with_reducible apply State.twinUp_step (hm := by decide)) | (with_reducible apply State.used_step (hm := by decide)) | (with_reducible apply Only.foldl (hg := fun _ _ => ?_)) | (with_reducible apply Only.foldl_fst (hg := fun _ _ => ?_)) | split | dsimp only)
theorem markRx_step {l₀ : List Part} {s₀ : State} (s : State) (low : Nat) (err : Int) (h₀ : Only l₀ s₀ s) (hm : [.regs, .gates, .free, .twin] ⊆ l₀) : Only l₀ s₀ (markRx s low err) :=
  h₀.step (markRx_only s low err) hm

theorem markerTimeout_only (s : State) : Only [.twin] s (markerTimeout s) := by
  unfold markerTimeout
  try dsimp only
  repeat' (first | (with_reducible exact Only.refl _ _) | (with_reducible apply Only.ite) | (with_reducible apply Only.ite_fst) | (with_reducible apply State.twinUp_step (hm := by decide)) | (with_reducible apply Only.foldl (hg := fun _ _ => ?_)) | (with_reducible apply Only.foldl_fst (hg := fun _ _ => ?_)) | split | dsimp only)
theorem markerTimeout_step {l₀ : List Part} {s₀ : State} (s : State) (h₀ : Only l₀ s₀ s) (hm : [.twin] ⊆ l₀) : Only l₀ s₀ (markerTimeout s) :=
  h₀.step (markerTimeout_only s) hm

theorem hbmRx_only (s : State) (w : Quad) : Only [.regs, .conds, .pins, .twin] s (hbmRx s w) := by
  unfold hbmRx
  try dsimp only
  repeat' (first | (with_reducible exact Only.refl _ _) | (with_reducible apply Only.ite) | (with_reducible apply Only.ite_fst) | (with_reducible apply State.raise_step (hm := by decide)) | (with_reducible apply State.wr_step (hm := by decide)) | (with_reducible apply giveUp_step (hm := by decide)) | (with_reducible apply State.set_step (hm := by decide)) | (with_reducible apply State.setB_step (hm := by decide)) | (with_reducible apply State.twinUp_step (hm := by decide)) | (with_reducible apply State.cond_step (hm := by decide)) | (with_reducible apply Only.foldl (hg := fun _ _ => ?_)) | (with_reducible apply Only.foldl_fst (hg := fun _ _ => ?_)) | split | dsimp only)
theorem hbmRx_step {l₀ : List Part} {s₀ : State} (s : State) (w : Quad) (h₀ : Only l₀ s₀ s) (hm : [.regs, .conds, .pins, .twin] ⊆ l₀) : Only l₀ s₀ (hbmRx s w) :=
  h₀.step (hbmRx_only s w) hm

theorem digestNow_only (s : State) : Only [.regs, .conds, .twin] s (digestNow s) := by
  unfold digestNow
  try dsimp only
  repeat' (first | (with_reducible exact Only.refl _ _) | (with_reducible apply Only.ite) | (with_reducible apply Only.ite_fst) | (with_reducible apply State.wr_step (hm := by decide)) | (with_reducible apply State.cond_step (hm := by decide)) | (with_reducible apply State.twinUp_step (hm := by decide)) | (with_reducible apply Only.foldl (hg := fun _ _ => ?_)) | (with_reducible apply Only.foldl_fst (hg := fun _ _ => ?_)) | split | dsimp only)
theorem digestNow_step {l₀ : List Part} {s₀ : State} (s : State) (h₀ : Only l₀ s₀ s) (hm : [.regs, .conds, .twin] ⊆ l₀) : Only l₀ s₀ (digestNow s) :=
  h₀.step (digestNow_only s) hm

theorem applyMedia_only (s : State) (c : Nat) (a o : SnapChan) : Only [.mb] s (applyMedia s c a o) := by
  unfold applyMedia
  try dsimp only
  repeat' (first | (with_reducible exact Only.refl _ _) | (with_reducible apply Only.ite) | (with_reducible apply Only.ite_fst) | (with_reducible apply State.mbUp_step (hm := by decide)) | (with_reducible apply Only.foldl (hg := fun _ _ => ?_)) | (with_reducible apply Only.foldl_fst (hg := fun _ _ => ?_)) | split | dsimp only)
theorem applyMedia_step {l₀ : List Part} {s₀ : State} (s : State) (c : Nat) (a o : SnapChan) (h₀ : Only l₀ s₀ s) (hm : [.mb] ⊆ l₀) : Only l₀ s₀ (applyMedia s c a o) :=
  h₀.step (applyMedia_only s c a o) hm

theorem applyModel_only (s : State) (c : Nat) (a o : SnapChan) : Only [.vent] s (applyModel s c a o) := by
  unfold applyModel
  try dsimp only
  repeat' (first | (with_reducible exact Only.refl _ _) | (with_reducible apply Only.ite) | (with_reducible apply Only.ite_fst) | (with_reducible apply State.ventUp_step (hm := by decide)) | (with_reducible apply Only.foldl (hg := fun _ _ => ?_)) | (with_reducible apply Only.foldl_fst (hg := fun _ _ => ?_)) | split | dsimp only)
theorem applyModel_step {l₀ : List Part} {s₀ : State} (s : State) (c : Nat) (a o : SnapChan) (h₀ : Only l₀ s₀ s) (hm : [.vent] ⊆ l₀) : Only l₀ s₀ (applyModel s c a o) :=
  h₀.step (applyModel_only s c a o) hm

theorem applyRing_only (s : State) (r : Nat) (a o : Nat × Nat) : Only [.regs] s (applyRing s r a o) := by
  unfold applyRing
  try dsimp only
  repeat' (first | (with_reducible exact Only.refl _ _) | (with_reducible apply Only.ite) | (with_reducible apply Only.ite_fst) | (with_reducible apply State.set_step (hm := by decide)) | (with_reducible apply setCount_step (hm := by decide)) | (with_reducible apply Only.foldl (hg := fun _ _ => ?_)) | (with_reducible apply Only.foldl_fst (hg := fun _ _ => ?_)) | split | dsimp only)
theorem applyRing_step {l₀ : List Part} {s₀ : State} (s : State) (r : Nat) (a o : Nat × Nat) (h₀ : Only l₀ s₀ s) (hm : [.regs] ⊆ l₀) : Only l₀ s₀ (applyRing s r a o) :=
  h₀.step (applyRing_only s r a o) hm

theorem applySnap_only (s : State) (a o : Snap) (media model : Bool) : Only [.regs, .ain, .mb, .vent, .twin] s (applySnap s a o media model) := by
  unfold applySnap
  try dsimp only
  repeat' (first | (with_reducible exact Only.refl _ _) | (with_reducible apply Only.ite) | (with_reducible apply Only.ite_fst) | (with_reducible apply applyModel_step (hm := by decide)) | (with_reducible apply applyRing_step (hm := by decide)) | (with_reducible apply State.ainUp_step (hm := by decide)) | (with_reducible apply State.twinUp_step (hm := by decide)) | (with_reducible apply applyMedia_step (hm := by decide)) | (with_reducible apply Only.foldl (hg := fun _ _ => ?_)) | (with_reducible apply Only.foldl_fst (hg := fun _ _ => ?_)) | split | dsimp only)
theorem applySnap_step {l₀ : List Part} {s₀ : State} (s : State) (a o : Snap) (media model : Bool) (h₀ : Only l₀ s₀ s) (hm : [.regs, .ain, .mb, .vent, .twin] ⊆ l₀) : Only l₀ s₀ (applySnap s a o media model) :=
  h₀.step (applySnap_only s a o media model) hm

theorem snapLoop_only (s : State) : Only [.lanes, .loops, .twin] s (snapLoop s) := by
  unfold snapLoop
  try dsimp only
  repeat' (first | (with_reducible exact Only.refl _ _) | (with_reducible apply Only.ite) | (with_reducible apply Only.ite_fst) | (with_reducible apply State.laneUp_step (hm := by decide)) | (with_reducible apply State.loopUp_step (hm := by decide)) | (with_reducible apply State.twinUp_step (hm := by decide)) | (with_reducible apply Only.foldl (hg := fun _ _ => ?_)) | (with_reducible apply Only.foldl_fst (hg := fun _ _ => ?_)) | split | dsimp only)
theorem snapLoop_step {l₀ : List Part} {s₀ : State} (s : State) (h₀ : Only l₀ s₀ s) (hm : [.lanes, .loops, .twin] ⊆ l₀) : Only l₀ s₀ (snapLoop s) :=
  h₀.step (snapLoop_only s) hm

theorem snapRx_only (s : State) (rx : LinkRx) (x : Snap) (late : Bool) : Only [.regs, .free, .twin] s (snapRx s rx x late) := by
  unfold snapRx
  try dsimp only
  repeat' (first | (with_reducible exact Only.refl _ _) | (with_reducible apply Only.ite) | (with_reducible apply Only.ite_fst) | (with_reducible apply frameTake_step (hm := by decide)) | (with_reducible apply State.raise_step (hm := by decide)) | (with_reducible apply State.twinUp_step (hm := by decide)) | (with_reducible apply Only.foldl (hg := fun _ _ => ?_)) | (with_reducible apply Only.foldl_fst (hg := fun _ _ => ?_)) | (with_reducible refine Only.of_fst (by assumption) ?_) | split | dsimp only)
theorem snapRx_step {l₀ : List Part} {s₀ : State} (s : State) (rx : LinkRx) (x : Snap) (late : Bool) (h₀ : Only l₀ s₀ s) (hm : [.regs, .free, .twin] ⊆ l₀) : Only l₀ s₀ (snapRx s rx x late) :=
  h₀.step (snapRx_only s rx x late) hm

theorem snapAtBlock_only (s : State) (media model : Bool) : Only [.regs, .ain, .mb, .vent, .twin] s (snapAtBlock s media model) := by
  unfold snapAtBlock
  try dsimp only
  repeat' (first | (with_reducible exact Only.refl _ _) | (with_reducible apply Only.ite) | (with_reducible apply Only.ite_fst) | (with_reducible apply applySnap_step (hm := by decide)) | (with_reducible apply setPstate_step (hm := by decide)) | (with_reducible apply State.raiseIf_step (hm := by decide)) | (with_reducible apply State.raise_step (hm := by decide)) | (with_reducible apply State.set_step (hm := by decide)) | (with_reducible apply State.twinUp_step (hm := by decide)) | (with_reducible apply State.setB_step (hm := by decide)) | (with_reducible apply Only.foldl (hg := fun _ _ => ?_)) | (with_reducible apply Only.foldl_fst (hg := fun _ _ => ?_)) | split | dsimp only)
theorem snapAtBlock_step {l₀ : List Part} {s₀ : State} (s : State) (media model : Bool) (h₀ : Only l₀ s₀ s) (hm : [.regs, .ain, .mb, .vent, .twin] ⊆ l₀) : Only l₀ s₀ (snapAtBlock s media model) :=
  h₀.step (snapAtBlock_only s media model) hm

theorem settleEnd_only (s : State) : Only [.regs, .twin] s (settleEnd s) := by
  unfold settleEnd
  try dsimp only
  repeat' (first | (with_reducible exact Only.refl _ _) | (with_reducible apply Only.ite) | (with_reducible apply Only.ite_fst) | (with_reducible apply setPstate_step (hm := by decide)) | (with_reducible apply State.twinUp_step (hm := by decide)) | (with_reducible apply Only.foldl (hg := fun _ _ => ?_)) | (with_reducible apply Only.foldl_fst (hg := fun _ _ => ?_)) | split | dsimp only)
theorem settleEnd_step {l₀ : List Part} {s₀ : State} (s : State) (h₀ : Only l₀ s₀ s) (hm : [.regs, .twin] ⊆ l₀) : Only l₀ s₀ (settleEnd s) :=
  h₀.step (settleEnd_only s) hm

theorem settleAtBlock_only (s : State) : Only [.regs, .twin] s (settleAtBlock s) := by
  unfold settleAtBlock
  try dsimp only
  repeat' (first | (with_reducible exact Only.refl _ _) | (with_reducible apply Only.ite) | (with_reducible apply Only.ite_fst) | (with_reducible apply State.twinUp_step (hm := by decide)) | (with_reducible apply settleEnd_step (hm := by decide)) | (with_reducible apply Only.foldl (hg := fun _ _ => ?_)) | (with_reducible apply Only.foldl_fst (hg := fun _ _ => ?_)) | split | dsimp only)
theorem settleAtBlock_step {l₀ : List Part} {s₀ : State} (s : State) (h₀ : Only l₀ s₀ s) (hm : [.regs, .twin] ⊆ l₀) : Only l₀ s₀ (settleAtBlock s) :=
  h₀.step (settleAtBlock_only s) hm

theorem resyncRequest_only (s : State) : Only [.regs, .gates, .twin] s (resyncRequest s) := by
  unfold resyncRequest
  try dsimp only
  repeat' (first | (with_reducible exact Only.refl _ _) | (with_reducible apply Only.ite) | (with_reducible apply Only.ite_fst) | (with_reducible apply requestResync_step (hm := by decide)) | (with_reducible apply State.raise_step (hm := by decide)) | (with_reducible apply State.set_step (hm := by decide)) | (with_reducible apply Only.foldl (hg := fun _ _ => ?_)) | (with_reducible apply Only.foldl_fst (hg := fun _ _ => ?_)) | split | dsimp only)
theorem resyncRequest_step {l₀ : List Part} {s₀ : State} (s : State) (h₀ : Only l₀ s₀ s) (hm : [.regs, .gates, .twin] ⊆ l₀) : Only l₀ s₀ (resyncRequest s) :=
  h₀.step (resyncRequest_only s) hm

theorem sendRegion_only (s : State) (region : Nat) (data : List Quad) : Only [.regs, .gates] s (sendRegion s region data) := by
  unfold sendRegion
  try dsimp only
  repeat' (first | (with_reducible exact Only.refl _ _) | (with_reducible apply Only.ite) | (with_reducible apply Only.ite_fst) | (with_reducible apply sendFrame_step (hm := by decide)) | (with_reducible apply Only.foldl (hg := fun _ _ => ?_)) | (with_reducible apply Only.foldl_fst (hg := fun _ _ => ?_)) | split | dsimp only)
theorem sendRegion_step {l₀ : List Part} {s₀ : State} (s : State) (region : Nat) (data : List Quad) (h₀ : Only l₀ s₀ s) (hm : [.regs, .gates] ⊆ l₀) : Only l₀ s₀ (sendRegion s region data) :=
  h₀.step (sendRegion_only s region data) hm

theorem sendMarked_only (s : State) (region : Nat) : Only [.regs, .gates] s (sendMarked s region) := by
  unfold sendMarked
  try dsimp only
  repeat' (first | (with_reducible exact Only.refl _ _) | (with_reducible apply Only.ite) | (with_reducible apply Only.ite_fst) | (with_reducible apply sendFrame_step (hm := by decide)) | (with_reducible apply Only.foldl (hg := fun _ _ => ?_)) | (with_reducible apply Only.foldl_fst (hg := fun _ _ => ?_)) | split | dsimp only)
theorem sendMarked_step {l₀ : List Part} {s₀ : State} (s : State) (region : Nat) (h₀ : Only l₀ s₀ s) (hm : [.regs, .gates] ⊆ l₀) : Only l₀ s₀ (sendMarked s region) :=
  h₀.step (sendMarked_only s region) hm

theorem sendEnd_only (s : State) : Only [.regs, .gates] s (sendEnd s) := by
  unfold sendEnd
  try dsimp only
  repeat' (first | (with_reducible exact Only.refl _ _) | (with_reducible apply Only.ite) | (with_reducible apply Only.ite_fst) | (with_reducible apply sendFrame_step (hm := by decide)) | (with_reducible apply Only.foldl (hg := fun _ _ => ?_)) | (with_reducible apply Only.foldl_fst (hg := fun _ _ => ?_)) | split | dsimp only)
theorem sendEnd_step {l₀ : List Part} {s₀ : State} (s : State) (h₀ : Only l₀ s₀ s) (hm : [.regs, .gates] ⊆ l₀) : Only l₀ s₀ (sendEnd s) :=
  h₀.step (sendEnd_only s) hm

theorem rsreqRx_only (s : State) : Only [.twin] s (rsreqRx s) := by
  unfold rsreqRx
  try dsimp only
  repeat' (first | (with_reducible exact Only.refl _ _) | (with_reducible apply Only.ite) | (with_reducible apply Only.ite_fst) | (with_reducible apply State.twinUp_step (hm := by decide)) | (with_reducible apply Only.foldl (hg := fun _ _ => ?_)) | (with_reducible apply Only.foldl_fst (hg := fun _ _ => ?_)) | split | dsimp only)
theorem rsreqRx_step {l₀ : List Part} {s₀ : State} (s : State) (h₀ : Only l₀ s₀ s) (hm : [.twin] ⊆ l₀) : Only l₀ s₀ (rsreqRx s) :=
  h₀.step (rsreqRx_only s) hm

theorem answerAtBlock_only (s : State) : Only [.regs, .gates, .twin] s (answerAtBlock s) := by
  unfold answerAtBlock
  try dsimp only
  repeat' (first | (with_reducible exact Only.refl _ _) | (with_reducible apply Only.ite) | (with_reducible apply Only.ite_fst) | (with_reducible apply sendRegion_step (hm := by decide)) | (with_reducible apply sendEnd_step (hm := by decide)) | (with_reducible apply State.twinUp_step (hm := by decide)) | (with_reducible apply sendMarked_step (hm := by decide)) | (with_reducible apply Only.foldl (hg := fun _ _ => ?_)) | (with_reducible apply Only.foldl_fst (hg := fun _ _ => ?_)) | split | dsimp only)
theorem answerAtBlock_step {l₀ : List Part} {s₀ : State} (s : State) (h₀ : Only l₀ s₀ s) (hm : [.regs, .gates, .twin] ⊆ l₀) : Only l₀ s₀ (answerAtBlock s) :=
  h₀.step (answerAtBlock_only s) hm

theorem putWords_step {l₀ : List Part} {s₀ : State} (key : Nat → Nat) (limit : Nat) (ws : List Word) (o : Nat) (s : State)
    (h₀ : Only l₀ s₀ s) (hm : [.banks] ⊆ l₀) : Only l₀ s₀ (putWords key limit ws o s) := by
  induction ws generalizing o s with
  | nil => exact h₀
  | cons w ws ih =>
    refine ih _ _ ?_
    exact Only.ite (State.putBank_step _ _ _ h₀ hm) h₀

theorem rsyncData_only (s : State) (x : Resync) : Only [.regs, .banks, .scn, .vent, .twin] s (rsyncData s x) := by
  unfold rsyncData
  cases x <;> dsimp only
  all_goals repeat' (first | (with_reducible exact Only.refl _ _) | (with_reducible apply putWords_step (hm := by decide)) | (with_reducible apply State.set_step (hm := by decide)) | (with_reducible apply State.wr_step (hm := by decide)) | (with_reducible apply State.modelUp_step (hm := by decide)) | (with_reducible apply State.twinUp_step (hm := by decide)) | (with_reducible apply Only.foldl (hg := fun _ _ => ?_)) | (with_reducible apply Only.ite) | (with_reducible apply only_with_scn_step (hm := by decide)))
theorem rsyncData_step {l₀ : List Part} {s₀ : State} (s : State) (x : Resync) (h₀ : Only l₀ s₀ s) (hm : [.regs, .banks, .scn, .vent, .twin] ⊆ l₀) : Only l₀ s₀ (rsyncData s x) :=
  h₀.step (rsyncData_only s x) hm

theorem rsyncRx_only (s : State) (rx : LinkRx) (x : Resync) : Only [.regs, .banks, .free, .scn, .vent, .twin] s (rsyncRx s rx x) := by
  unfold rsyncRx
  try dsimp only
  repeat' (first | (with_reducible exact Only.refl _ _) | (with_reducible apply Only.ite) | (with_reducible apply Only.ite_fst) | (with_reducible apply Only.frameUsed (hf := fun _ => ?_) (hm := by decide)) | (with_reducible apply rsyncData_step (hm := by decide)) | (with_reducible apply Only.foldl (hg := fun _ _ => ?_)) | (with_reducible apply Only.foldl_fst (hg := fun _ _ => ?_)) | split | dsimp only)
theorem rsyncRx_step {l₀ : List Part} {s₀ : State} (s : State) (rx : LinkRx) (x : Resync) (h₀ : Only l₀ s₀ s) (hm : [.regs, .banks, .free, .scn, .vent, .twin] ⊆ l₀) : Only l₀ s₀ (rsyncRx s rx x) :=
  h₀.step (rsyncRx_only s rx x) hm

theorem framesAtBlock_only (s : State) : Only [.regs, .gates, .twin] s (framesAtBlock s) := by
  unfold framesAtBlock
  try dsimp only
  repeat' (first | (with_reducible exact Only.refl _ _) | (with_reducible apply Only.ite) | (with_reducible apply Only.ite_fst) | (with_reducible apply answerAtBlock_step (hm := by decide)) | (with_reducible apply gatePush_step (hm := by decide)) | (with_reducible apply sendFrame_step (hm := by decide)) | (with_reducible apply Only.foldl (hg := fun _ _ => ?_)) | (with_reducible apply Only.foldl_fst (hg := fun _ _ => ?_)) | split | dsimp only)
theorem framesAtBlock_step {l₀ : List Part} {s₀ : State} (s : State) (h₀ : Only l₀ s₀ s) (hm : [.regs, .gates, .twin] ⊆ l₀) : Only l₀ s₀ (framesAtBlock s) :=
  h₀.step (framesAtBlock_only s) hm

theorem twinAtBlock_only (s : State) (media model : Bool) : Only [.regs, .gates, .ain, .mb, .pins, .vent, .twin] s (twinAtBlock s media model) := by
  unfold twinAtBlock
  try dsimp only
  repeat' (first | (with_reducible exact Only.refl _ _) | (with_reducible apply Only.ite) | (with_reducible apply Only.ite_fst) | (with_reducible apply settleAtBlock_step (hm := by decide)) | (with_reducible apply handoverAtBlock_step (hm := by decide)) | (with_reducible apply framesAtBlock_step (hm := by decide)) | (with_reducible apply trainAtBlock_step (hm := by decide)) | (with_reducible apply State.twinUp_step (hm := by decide)) | (with_reducible apply snapAtBlock_step (hm := by decide)) | (with_reducible apply Only.foldl (hg := fun _ _ => ?_)) | (with_reducible apply Only.foldl_fst (hg := fun _ _ => ?_)) | split | dsimp only)
theorem twinAtBlock_step {l₀ : List Part} {s₀ : State} (s : State) (media model : Bool) (h₀ : Only l₀ s₀ s) (hm : [.regs, .gates, .ain, .mb, .pins, .vent, .twin] ⊆ l₀) : Only l₀ s₀ (twinAtBlock s media model) :=
  h₀.step (twinAtBlock_only s media model) hm

/-! ### The canonical form -/

theorem setPstate_wf (s : State) (p : Nat) (h₀ : Memory.wf s = true) : Memory.wf (setPstate s p) = true := by
  unfold setPstate
  try dsimp only
  repeat' (first | (with_reducible assumption) | (with_reducible apply wf_ite) | (with_reducible apply wf_ite_fst) | (with_reducible apply State.set_wf) | (with_reducible apply wf_foldl (hg := fun _ _ _ => ?_)) | (with_reducible apply wf_foldl_fst (hg := fun _ _ _ => ?_)) | split | dsimp only)

theorem giveUp_wf (s : State) (h₀ : Memory.wf s = true) : Memory.wf (giveUp s) = true := by
  unfold giveUp
  try dsimp only
  repeat' (first | (with_reducible assumption) | (with_reducible apply wf_ite) | (with_reducible apply wf_ite_fst) | (with_reducible apply State.twinUp_wf) | (with_reducible apply releaseOwn_wf) | (with_reducible apply wf_foldl (hg := fun _ _ _ => ?_)) | (with_reducible apply wf_foldl_fst (hg := fun _ _ _ => ?_)) | split | dsimp only)

theorem ownHigh_wf (s : State) (h₀ : Memory.wf s = true) : Memory.wf (ownHigh s) = true := by
  unfold ownHigh
  try dsimp only
  repeat' (first | (with_reducible assumption) | (with_reducible apply wf_ite) | (with_reducible apply wf_ite_fst) | (with_reducible apply setPstate_wf) | (with_reducible apply State.twinUp_wf) | (with_reducible apply State.set_wf) | (with_reducible apply wf_foldl (hg := fun _ _ _ => ?_)) | (with_reducible apply wf_foldl_fst (hg := fun _ _ _ => ?_)) | split | dsimp only)

theorem ownLow_wf (s : State) (h₀ : Memory.wf s = true) : Memory.wf (ownLow s) = true :=
  Only.wf (ownLow_only s) (by decide) h₀

theorem telResume_wf (s : State) (c : Nat) (h₀ : Memory.wf s = true) : Memory.wf (telResume s c) = true := by
  unfold telResume
  try dsimp only
  repeat' (first | (with_reducible assumption) | (with_reducible apply wf_ite) | (with_reducible apply wf_ite_fst) | (with_reducible apply setCount_wf) | (with_reducible apply State.set_wf) | (with_reducible apply wf_foldl (hg := fun _ _ _ => ?_)) | (with_reducible apply wf_foldl_fst (hg := fun _ _ _ => ?_)) | split | dsimp only)

theorem claimCheck_wf (s : State) (high : Bool) (h₀ : Memory.wf s = true) : Memory.wf (claimCheck s high) = true := by
  unfold claimCheck
  try dsimp only
  repeat' (first | (with_reducible assumption) | (with_reducible apply wf_ite) | (with_reducible apply wf_ite_fst) | (with_reducible apply State.raise_wf) | (with_reducible apply telResume_wf) | (with_reducible apply State.twinUp_wf) | (with_reducible apply State.set_wf) | (with_reducible apply wf_foldl (hg := fun _ _ _ => ?_)) | (with_reducible apply wf_foldl_fst (hg := fun _ _ _ => ?_)) | split | dsimp only | (with_reducible apply wf_with_str) | (with_reducible apply wf_with_pins))

theorem holdRelease_wf (s : State) (h₀ : Memory.wf s = true) : Memory.wf (holdRelease s) = true := by
  unfold holdRelease
  try dsimp only
  repeat' (first | (with_reducible assumption) | (with_reducible apply wf_ite) | (with_reducible apply wf_ite_fst) | (with_reducible apply State.legUp_wf) | (with_reducible apply State.twinUp_wf) | (with_reducible apply State.setFree_wf) | (with_reducible apply resume_wf) | (with_reducible apply State.set_wf) | (with_reducible apply wf_foldl (hg := fun _ _ _ => ?_)) | (with_reducible apply wf_foldl_fst (hg := fun _ _ _ => ?_)) | split | dsimp only | (with_reducible apply wf_with_pins))

theorem handover_wf (s : State) (h₀ : Memory.wf s = true) : Memory.wf (handover s) = true := by
  unfold handover
  try dsimp only
  repeat' (first | (with_reducible assumption) | (with_reducible apply wf_ite) | (with_reducible apply wf_ite_fst) | (with_reducible apply State.raise_wf) | (with_reducible apply State.twinUp_wf) | (with_reducible apply State.set_wf) | (with_reducible apply wf_foldl (hg := fun _ _ _ => ?_)) | (with_reducible apply wf_foldl_fst (hg := fun _ _ _ => ?_)) | split | dsimp only)

theorem handoverAtBlock_wf (s : State) (h₀ : Memory.wf s = true) : Memory.wf (handoverAtBlock s) = true := by
  unfold handoverAtBlock
  try dsimp only
  repeat' (first | (with_reducible assumption) | (with_reducible apply wf_ite) | (with_reducible apply wf_ite_fst) | (with_reducible apply State.twinUp_wf) | (with_reducible apply giveUp_wf) | (with_reducible apply State.set_wf) | (with_reducible apply wf_foldl (hg := fun _ _ _ => ?_)) | (with_reducible apply wf_foldl_fst (hg := fun _ _ _ => ?_)) | split | dsimp only)

theorem holdoffEnd_wf (s : State) (h₀ : Memory.wf s = true) : Memory.wf (holdoffEnd s) = true :=
  Only.wf (holdoffEnd_only s) (by decide) h₀

theorem hbAtUpdate_wf (s : State) (h₀ : Memory.wf s = true) : Memory.wf (hbAtUpdate s) = true :=
  Only.wf (hbAtUpdate_only s) (by decide) h₀

theorem hbEdge_wf (s : State) (gapUs : Nat) (h₀ : Memory.wf s = true) : Memory.wf (hbEdge s gapUs) = true := by
  unfold hbEdge
  try dsimp only
  repeat' (first | (with_reducible assumption) | (with_reducible apply wf_ite) | (with_reducible apply wf_ite_fst) | (with_reducible apply State.twinUp_wf) | (with_reducible apply State.set_wf) | (with_reducible apply State.cond_wf) | (with_reducible apply wf_foldl (hg := fun _ _ _ => ?_)) | (with_reducible apply wf_foldl_fst (hg := fun _ _ _ => ?_)) | split | dsimp only)

theorem hbTimeout_wf (s : State) (h₀ : Memory.wf s = true) : Memory.wf (hbTimeout s) = true := by
  unfold hbTimeout
  try dsimp only
  repeat' (first | (with_reducible assumption) | (with_reducible apply wf_ite) | (with_reducible apply wf_ite_fst) | (with_reducible apply State.twinUp_wf) | (with_reducible apply State.set_wf) | (with_reducible apply State.cond_wf) | (with_reducible apply wf_foldl (hg := fun _ _ _ => ?_)) | (with_reducible apply wf_foldl_fst (hg := fun _ _ _ => ?_)) | split | dsimp only)

theorem resyncEnds_wf (s : State) (h₀ : Memory.wf s = true) : Memory.wf (resyncEnds s) = true := by
  unfold resyncEnds
  try dsimp only
  repeat' (first | (with_reducible assumption) | (with_reducible apply wf_ite) | (with_reducible apply wf_ite_fst) | (with_reducible apply State.twinUp_wf) | (with_reducible apply State.set_wf) | (with_reducible apply wf_foldl (hg := fun _ _ _ => ?_)) | (with_reducible apply wf_foldl_fst (hg := fun _ _ _ => ?_)) | split | dsimp only)

theorem startTraining_wf (s : State) (h₀ : Memory.wf s = true) : Memory.wf (startTraining s) = true := by
  unfold startTraining
  try dsimp only
  repeat' (first | (with_reducible assumption) | (with_reducible apply wf_ite) | (with_reducible apply wf_ite_fst) | (with_reducible apply setPstate_wf) | (with_reducible apply resyncEnds_wf) | (with_reducible apply State.twinUp_wf) | (with_reducible apply sendFrame_wf) | (with_reducible apply State.set_wf) | (with_reducible apply wf_foldl (hg := fun _ _ _ => ?_)) | (with_reducible apply wf_foldl_fst (hg := fun _ _ _ => ?_)) | split | dsimp only)

theorem linkDown_wf (s : State) (h₀ : Memory.wf s = true) : Memory.wf (linkDown s) = true := by
  unfold linkDown
  try dsimp only
  repeat' (first | (with_reducible assumption) | (with_reducible apply wf_ite) | (with_reducible apply wf_ite_fst) | (with_reducible apply setPstate_wf) | (with_reducible apply resyncEnds_wf) | (with_reducible apply State.twinUp_wf) | (with_reducible apply State.set_wf) | (with_reducible apply State.cond_wf) | (with_reducible apply wf_foldl (hg := fun _ _ _ => ?_)) | (with_reducible apply wf_foldl_fst (hg := fun _ _ _ => ?_)) | split | dsimp only)

theorem laneFails_wf (s : State) (n codes : Nat) (h₀ : Memory.wf s = true) : Memory.wf (laneFails s n codes) = true := by
  unfold laneFails
  try dsimp only
  repeat' (first | (with_reducible assumption) | (with_reducible apply wf_ite) | (with_reducible apply wf_ite_fst) | (with_reducible apply linkDown_wf) | (with_reducible apply State.set_wf) | (with_reducible apply State.cond_wf) | (with_reducible apply wf_foldl (hg := fun _ _ _ => ?_)) | (with_reducible apply wf_foldl_fst (hg := fun _ _ _ => ?_)) | split | dsimp only)

theorem linkRetrain_wf (s : State) (h₀ : Memory.wf s = true) : Memory.wf (linkRetrain s) = true := by
  unfold linkRetrain
  try dsimp only
  repeat' (first | (with_reducible assumption) | (with_reducible apply wf_ite) | (with_reducible apply wf_ite_fst) | (with_reducible apply startTraining_wf) | (with_reducible apply wf_foldl (hg := fun _ _ _ => ?_)) | (with_reducible apply wf_foldl_fst (hg := fun _ _ _ => ?_)) | split | dsimp only)

theorem retrain_wf (s : State) (h₀ : Memory.wf s = true) : Memory.wf (retrain s) = true := by
  unfold retrain
  try dsimp only
  repeat' (first | (with_reducible assumption) | (with_reducible apply wf_ite) | (with_reducible apply wf_ite_fst) | (with_reducible apply startTraining_wf) | (with_reducible apply State.set_wf) | (with_reducible apply wf_foldl (hg := fun _ _ _ => ?_)) | (with_reducible apply wf_foldl_fst (hg := fun _ _ _ => ?_)) | split | dsimp only)

theorem conclude_wf (s : State) (h₀ : Memory.wf s = true) : Memory.wf (conclude s) = true := by
  unfold conclude
  try dsimp only
  repeat' (first | (with_reducible assumption) | (with_reducible apply wf_ite) | (with_reducible apply wf_ite_fst) | (with_reducible apply State.twinUp_wf) | (with_reducible apply State.cond_wf) | (with_reducible apply State.set_wf) | (with_reducible apply wf_foldl (hg := fun _ _ _ => ?_)) | (with_reducible apply wf_foldl_fst (hg := fun _ _ _ => ?_)) | split | dsimp only)

theorem refusePair_wf (s : State) (reason : Nat) (h₀ : Memory.wf s = true) : Memory.wf (refusePair s reason) = true := by
  unfold refusePair
  try dsimp only
  repeat' (first | (with_reducible assumption) | (with_reducible apply wf_ite) | (with_reducible apply wf_ite_fst) | (with_reducible apply setPstate_wf) | (with_reducible apply State.raiseIf_wf) | (with_reducible apply conclude_wf) | (with_reducible apply sendFrame_wf) | (with_reducible apply State.set_wf) | (with_reducible apply wf_foldl (hg := fun _ _ _ => ?_)) | (with_reducible apply wf_foldl_fst (hg := fun _ _ _ => ?_)) | split | dsimp only)

theorem requestResync_wf (s : State) (h₀ : Memory.wf s = true) : Memory.wf (requestResync s) = true := by
  unfold requestResync
  try dsimp only
  repeat' (first | (with_reducible assumption) | (with_reducible apply wf_ite) | (with_reducible apply wf_ite_fst) | (with_reducible apply setPstate_wf) | (with_reducible apply State.twinUp_wf) | (with_reducible apply sendFrame_wf) | (with_reducible apply wf_foldl (hg := fun _ _ _ => ?_)) | (with_reducible apply wf_foldl_fst (hg := fun _ _ _ => ?_)) | split | dsimp only)

theorem acceptPair_wf (s : State) (x : Ident) (h₀ : Memory.wf s = true) : Memory.wf (acceptPair s x) = true := by
  unfold acceptPair
  try dsimp only
  repeat' (first | (with_reducible assumption) | (with_reducible apply wf_ite) | (with_reducible apply wf_ite_fst) | (with_reducible apply setPstate_wf) | (with_reducible apply State.twinUp_wf) | (with_reducible apply conclude_wf) | (with_reducible apply giveUp_wf) | (with_reducible apply requestResync_wf) | (with_reducible apply State.set_wf) | (with_reducible apply State.raise_wf) | (with_reducible apply wf_foldl (hg := fun _ _ _ => ?_)) | (with_reducible apply wf_foldl_fst (hg := fun _ _ _ => ?_)) | split | dsimp only)

theorem identRx_wf (s : State) (x : Ident) (h₀ : Memory.wf s = true) : Memory.wf (identRx s x) = true := by
  unfold identRx
  try dsimp only
  repeat' (first | (with_reducible assumption) | (with_reducible apply wf_ite) | (with_reducible apply wf_ite_fst) | (with_reducible apply acceptPair_wf) | (with_reducible apply State.set_wf) | (with_reducible apply refusePair_wf) | (with_reducible apply wf_foldl (hg := fun _ _ _ => ?_)) | (with_reducible apply wf_foldl_fst (hg := fun _ _ _ => ?_)) | split | dsimp only)

theorem refuseRx_wf (s : State) (reason : Nat) (h₀ : Memory.wf s = true) : Memory.wf (refuseRx s reason) = true := by
  unfold refuseRx
  try dsimp only
  repeat' (first | (with_reducible assumption) | (with_reducible apply wf_ite) | (with_reducible apply wf_ite_fst) | (with_reducible apply refusePair_wf) | (with_reducible apply wf_foldl (hg := fun _ _ _ => ?_)) | (with_reducible apply wf_foldl_fst (hg := fun _ _ _ => ?_)) | split | dsimp only)

theorem identRepeat_wf (s : State) (h₀ : Memory.wf s = true) : Memory.wf (identRepeat s) = true := by
  unfold identRepeat
  try dsimp only
  repeat' (first | (with_reducible assumption) | (with_reducible apply wf_ite) | (with_reducible apply wf_ite_fst) | (with_reducible apply sendFrame_wf) | (with_reducible apply wf_foldl (hg := fun _ _ _ => ?_)) | (with_reducible apply wf_foldl_fst (hg := fun _ _ _ => ?_)) | split | dsimp only)

theorem trainAtBlock_wf (s : State) (h₀ : Memory.wf s = true) : Memory.wf (trainAtBlock s) = true := by
  unfold trainAtBlock
  try dsimp only
  repeat' (first | (with_reducible assumption) | (with_reducible apply wf_ite) | (with_reducible apply wf_ite_fst) | (with_reducible apply setPstate_wf) | (with_reducible apply State.twinUp_wf) | (with_reducible apply State.set_wf) | (with_reducible apply wf_foldl (hg := fun _ _ _ => ?_)) | (with_reducible apply wf_foldl_fst (hg := fun _ _ _ => ?_)) | split | dsimp only)

theorem msgTimeout_wf (s : State) (h₀ : Memory.wf s = true) : Memory.wf (msgTimeout s) = true := by
  unfold msgTimeout
  try dsimp only
  repeat' (first | (with_reducible assumption) | (with_reducible apply wf_ite) | (with_reducible apply wf_ite_fst) | (with_reducible apply startTraining_wf) | (with_reducible apply State.set_wf) | (with_reducible apply State.cond_wf) | (with_reducible apply wf_foldl (hg := fun _ _ _ => ?_)) | (with_reducible apply wf_foldl_fst (hg := fun _ _ _ => ?_)) | split | dsimp only)

theorem writeTwnCfg_wf (s : State) (v : Word) (h₀ : Memory.wf s = true) : Memory.wf (writeTwnCfg s v) = true := by
  unfold writeTwnCfg
  try dsimp only
  repeat' (first | (with_reducible assumption) | (with_reducible apply wf_ite) | (with_reducible apply wf_ite_fst) | (with_reducible apply setPstate_wf) | (with_reducible apply State.twinUp_wf) | (with_reducible apply storeCoded_wf) | (with_reducible apply State.set_wf) | (with_reducible apply State.cond_wf) | (with_reducible apply wf_foldl (hg := fun _ _ _ => ?_)) | (with_reducible apply wf_foldl_fst (hg := fun _ _ _ => ?_)) | split | dsimp only)

theorem twinPllLock_wf (s : State) (h₀ : Memory.wf s = true) : Memory.wf (twinPllLock s) = true := by
  unfold twinPllLock
  try dsimp only
  repeat' (first | (with_reducible assumption) | (with_reducible apply wf_ite) | (with_reducible apply wf_ite_fst) | (with_reducible apply startTraining_wf) | (with_reducible apply pllLock_wf) | (with_reducible apply wf_foldl (hg := fun _ _ _ => ?_)) | (with_reducible apply wf_foldl_fst (hg := fun _ _ _ => ?_)) | split | dsimp only)

theorem twinClockLost_wf (s : State) (h₀ : Memory.wf s = true) : Memory.wf (twinClockLost s) = true := by
  unfold twinClockLost
  try dsimp only
  repeat' (first | (with_reducible assumption) | (with_reducible apply wf_ite) | (with_reducible apply wf_ite_fst) | (with_reducible apply linkDown_wf) | (with_reducible apply wf_foldl (hg := fun _ _ _ => ?_)) | (with_reducible apply wf_foldl_fst (hg := fun _ _ _ => ?_)) | split | dsimp only)

theorem markRx_wf (s : State) (low : Nat) (err : Int) (h₀ : Memory.wf s = true) : Memory.wf (markRx s low err) = true := by
  unfold markRx
  try dsimp only
  repeat' (first | (with_reducible assumption) | (with_reducible apply wf_ite) | (with_reducible apply wf_ite_fst) | (with_reducible apply State.twinUp_wf) | (with_reducible apply State.raiseIf_wf) | (with_reducible apply requestResync_wf) | (with_reducible apply State.set_wf) | (with_reducible apply State.used_wf) | (with_reducible apply wf_foldl (hg := fun _ _ _ => ?_)) | (with_reducible apply wf_foldl_fst (hg := fun _ _ _ => ?_)) | split | dsimp only)

theorem markerTimeout_wf (s : State) (h₀ : Memory.wf s = true) : Memory.wf (markerTimeout s) = true :=
  Only.wf (markerTimeout_only s) (by decide) h₀

theorem hbmRx_wf (s : State) (w : Quad) (h₀ : Memory.wf s = true) : Memory.wf (hbmRx s w) = true := by
  unfold hbmRx
  try dsimp only
  repeat' (first | (with_reducible assumption) | (with_reducible apply wf_ite) | (with_reducible apply wf_ite_fst) | (with_reducible apply State.setB_wf) | (with_reducible apply State.raise_wf) | (with_reducible apply State.twinUp_wf) | (with_reducible apply giveUp_wf) | (with_reducible apply State.set_wf) | (with_reducible apply State.cond_wf) | (with_reducible apply State.wr_wf) | (with_reducible apply wf_foldl (hg := fun _ _ _ => ?_)) | (with_reducible apply wf_foldl_fst (hg := fun _ _ _ => ?_)) | split | dsimp only)

theorem digestNow_wf (s : State) (h₀ : Memory.wf s = true) : Memory.wf (digestNow s) = true := by
  unfold digestNow
  try dsimp only
  repeat' (first | (with_reducible assumption) | (with_reducible apply wf_ite) | (with_reducible apply wf_ite_fst) | (with_reducible apply State.twinUp_wf) | (with_reducible apply State.cond_wf) | (with_reducible apply State.wr_wf) | (with_reducible apply wf_foldl (hg := fun _ _ _ => ?_)) | (with_reducible apply wf_foldl_fst (hg := fun _ _ _ => ?_)) | split | dsimp only)

theorem applyMedia_wf (s : State) (c : Nat) (a o : SnapChan) (h₀ : Memory.wf s = true) : Memory.wf (applyMedia s c a o) = true :=
  Only.wf (applyMedia_only s c a o) (by decide) h₀

theorem applyModel_wf (s : State) (c : Nat) (a o : SnapChan) (h₀ : Memory.wf s = true) : Memory.wf (applyModel s c a o) = true := by
  unfold applyModel
  try dsimp only
  repeat' (first | (with_reducible assumption) | (with_reducible rfl) | (with_reducible apply wf_ite) | (with_reducible apply wf_ite_fst) | (with_reducible apply State.ventUp_wf) | (with_reducible apply wf_foldl (hg := fun _ _ _ => ?_)) | (with_reducible apply wf_foldl_fst (hg := fun _ _ _ => ?_)) | split | dsimp only)

theorem applyRing_wf (s : State) (r : Nat) (a o : Nat × Nat) (h₀ : Memory.wf s = true) : Memory.wf (applyRing s r a o) = true := by
  unfold applyRing
  try dsimp only
  repeat' (first | (with_reducible assumption) | (with_reducible apply wf_ite) | (with_reducible apply wf_ite_fst) | (with_reducible apply setCount_wf) | (with_reducible apply State.set_wf) | (with_reducible apply wf_foldl (hg := fun _ _ _ => ?_)) | (with_reducible apply wf_foldl_fst (hg := fun _ _ _ => ?_)) | split | dsimp only)

theorem applySnap_wf (s : State) (a o : Snap) (media model : Bool) (h₀ : Memory.wf s = true) : Memory.wf (applySnap s a o media model) = true := by
  unfold applySnap
  try dsimp only
  repeat' (first | (with_reducible assumption) | (with_reducible rfl) | (with_reducible apply wf_ite) | (with_reducible apply wf_ite_fst) | (with_reducible apply State.twinUp_wf) | (with_reducible apply applyRing_wf) | (with_reducible apply applyModel_wf) | (with_reducible apply State.ainUp_wf) | (with_reducible apply applyMedia_wf) | (with_reducible apply wf_foldl (hg := fun _ _ _ => ?_)) | (with_reducible apply wf_foldl_fst (hg := fun _ _ _ => ?_)) | split | dsimp only)

theorem snapLoop_wf (s : State) (h₀ : Memory.wf s = true) : Memory.wf (snapLoop s) = true :=
  Only.wf (snapLoop_only s) (by decide) h₀

theorem snapRx_wf (s : State) (rx : LinkRx) (x : Snap) (late : Bool) (h₀ : Memory.wf s = true) : Memory.wf (snapRx s rx x late) = true := by
  unfold snapRx
  try dsimp only
  repeat' (first | (with_reducible assumption) | (with_reducible apply wf_ite) | (with_reducible apply wf_ite_fst) | (with_reducible apply frameTake_wf) | (with_reducible apply State.raise_wf) | (with_reducible apply State.twinUp_wf) | (with_reducible apply wf_foldl (hg := fun _ _ _ => ?_)) | (with_reducible apply wf_foldl_fst (hg := fun _ _ _ => ?_)) | (with_reducible refine wf_of_fst (by assumption) ?_) | split | dsimp only)

theorem snapAtBlock_wf (s : State) (media model : Bool) (h₀ : Memory.wf s = true) : Memory.wf (snapAtBlock s media model) = true := by
  unfold snapAtBlock
  try dsimp only
  repeat' (first | (with_reducible assumption) | (with_reducible rfl) | (with_reducible apply wf_ite) | (with_reducible apply wf_ite_fst) | (with_reducible apply setPstate_wf) | (with_reducible apply State.setB_wf) | (with_reducible apply State.twinUp_wf) | (with_reducible apply State.raiseIf_wf) | (with_reducible apply State.raise_wf) | (with_reducible apply applySnap_wf) | (with_reducible apply State.set_wf) | (with_reducible apply wf_foldl (hg := fun _ _ _ => ?_)) | (with_reducible apply wf_foldl_fst (hg := fun _ _ _ => ?_)) | split | dsimp only)

theorem settleEnd_wf (s : State) (h₀ : Memory.wf s = true) : Memory.wf (settleEnd s) = true := by
  unfold settleEnd
  try dsimp only
  repeat' (first | (with_reducible assumption) | (with_reducible apply wf_ite) | (with_reducible apply wf_ite_fst) | (with_reducible apply setPstate_wf) | (with_reducible apply State.twinUp_wf) | (with_reducible apply wf_foldl (hg := fun _ _ _ => ?_)) | (with_reducible apply wf_foldl_fst (hg := fun _ _ _ => ?_)) | split | dsimp only)

theorem settleAtBlock_wf (s : State) (h₀ : Memory.wf s = true) : Memory.wf (settleAtBlock s) = true := by
  unfold settleAtBlock
  try dsimp only
  repeat' (first | (with_reducible assumption) | (with_reducible apply wf_ite) | (with_reducible apply wf_ite_fst) | (with_reducible apply settleEnd_wf) | (with_reducible apply State.twinUp_wf) | (with_reducible apply wf_foldl (hg := fun _ _ _ => ?_)) | (with_reducible apply wf_foldl_fst (hg := fun _ _ _ => ?_)) | split | dsimp only)

theorem resyncRequest_wf (s : State) (h₀ : Memory.wf s = true) : Memory.wf (resyncRequest s) = true := by
  unfold resyncRequest
  try dsimp only
  repeat' (first | (with_reducible assumption) | (with_reducible apply wf_ite) | (with_reducible apply wf_ite_fst) | (with_reducible apply State.raise_wf) | (with_reducible apply requestResync_wf) | (with_reducible apply State.set_wf) | (with_reducible apply wf_foldl (hg := fun _ _ _ => ?_)) | (with_reducible apply wf_foldl_fst (hg := fun _ _ _ => ?_)) | split | dsimp only)

theorem sendRegion_wf (s : State) (region : Nat) (data : List Quad) (h₀ : Memory.wf s = true) : Memory.wf (sendRegion s region data) = true := by
  unfold sendRegion
  try dsimp only
  repeat' (first | (with_reducible assumption) | (with_reducible apply wf_ite) | (with_reducible apply wf_ite_fst) | (with_reducible apply sendFrame_wf) | (with_reducible apply wf_foldl (hg := fun _ _ _ => ?_)) | (with_reducible apply wf_foldl_fst (hg := fun _ _ _ => ?_)) | split | dsimp only)

theorem sendMarked_wf (s : State) (region : Nat) (h₀ : Memory.wf s = true) : Memory.wf (sendMarked s region) = true := by
  unfold sendMarked
  try dsimp only
  repeat' (first | (with_reducible assumption) | (with_reducible apply wf_ite) | (with_reducible apply wf_ite_fst) | (with_reducible apply sendFrame_wf) | (with_reducible apply wf_foldl (hg := fun _ _ _ => ?_)) | (with_reducible apply wf_foldl_fst (hg := fun _ _ _ => ?_)) | split | dsimp only)

theorem sendEnd_wf (s : State) (h₀ : Memory.wf s = true) : Memory.wf (sendEnd s) = true := by
  unfold sendEnd
  try dsimp only
  repeat' (first | (with_reducible assumption) | (with_reducible apply wf_ite) | (with_reducible apply wf_ite_fst) | (with_reducible apply sendFrame_wf) | (with_reducible apply wf_foldl (hg := fun _ _ _ => ?_)) | (with_reducible apply wf_foldl_fst (hg := fun _ _ _ => ?_)) | split | dsimp only)

theorem rsreqRx_wf (s : State) (h₀ : Memory.wf s = true) : Memory.wf (rsreqRx s) = true :=
  Only.wf (rsreqRx_only s) (by decide) h₀

theorem answerAtBlock_wf (s : State) (h₀ : Memory.wf s = true) : Memory.wf (answerAtBlock s) = true := by
  unfold answerAtBlock
  try dsimp only
  repeat' (first | (with_reducible assumption) | (with_reducible apply wf_ite) | (with_reducible apply wf_ite_fst) | (with_reducible apply sendMarked_wf) | (with_reducible apply sendRegion_wf) | (with_reducible apply State.twinUp_wf) | (with_reducible apply sendEnd_wf) | (with_reducible apply wf_foldl (hg := fun _ _ _ => ?_)) | (with_reducible apply wf_foldl_fst (hg := fun _ _ _ => ?_)) | split | dsimp only)

theorem putWords_wf (key : Nat → Nat) (limit : Nat) (ws : List Word) (o : Nat) (s : State)
    (h₀ : Memory.wf s = true) : Memory.wf (putWords key limit ws o s) = true := by
  induction ws generalizing o s with
  | nil => exact h₀
  | cons w ws ih =>
    refine ih _ _ ?_
    exact wf_ite (State.putBank_wf _ _ _ h₀) h₀
theorem rsyncData_wf (s : State) (x : Resync) (h₀ : Memory.wf s = true) : Memory.wf (rsyncData s x) = true := by
  unfold rsyncData
  cases x <;> dsimp only
  all_goals repeat' (first | (with_reducible assumption) | (with_reducible apply putWords_wf) | (with_reducible apply State.set_wf) | (with_reducible apply State.wr_wf) | (with_reducible apply State.modelUp_wf) | (with_reducible apply State.twinUp_wf) | (with_reducible apply wf_foldl (hg := fun _ _ _ => ?_)) | (with_reducible apply wf_ite) | (with_reducible apply wf_with_scn))

theorem rsyncRx_wf (s : State) (rx : LinkRx) (x : Resync) (h₀ : Memory.wf s = true) : Memory.wf (rsyncRx s rx x) = true := by
  unfold rsyncRx
  try dsimp only
  repeat' (first | (with_reducible assumption) | (with_reducible rfl) | (with_reducible apply wf_ite) | (with_reducible apply wf_ite_fst) | (with_reducible apply frameUsed_wf (hf := fun _ _ => ?_)) | (with_reducible apply rsyncData_wf) | (with_reducible apply wf_foldl (hg := fun _ _ _ => ?_)) | (with_reducible apply wf_foldl_fst (hg := fun _ _ _ => ?_)) | split | dsimp only)

theorem framesAtBlock_wf (s : State) (h₀ : Memory.wf s = true) : Memory.wf (framesAtBlock s) = true := by
  unfold framesAtBlock
  try dsimp only
  repeat' (first | (with_reducible assumption) | (with_reducible apply wf_ite) | (with_reducible apply wf_ite_fst) | (with_reducible apply answerAtBlock_wf) | (with_reducible apply sendFrame_wf) | (with_reducible apply gatePush_wf) | (with_reducible apply wf_foldl (hg := fun _ _ _ => ?_)) | (with_reducible apply wf_foldl_fst (hg := fun _ _ _ => ?_)) | split | dsimp only)

theorem twinAtBlock_wf (s : State) (media model : Bool) (h₀ : Memory.wf s = true) : Memory.wf (twinAtBlock s media model) = true := by
  unfold twinAtBlock
  try dsimp only
  repeat' (first | (with_reducible assumption) | (with_reducible rfl) | (with_reducible apply wf_ite) | (with_reducible apply wf_ite_fst) | (with_reducible apply handoverAtBlock_wf) | (with_reducible apply framesAtBlock_wf) | (with_reducible apply State.twinUp_wf) | (with_reducible apply settleAtBlock_wf) | (with_reducible apply snapAtBlock_wf) | (with_reducible apply trainAtBlock_wf) | (with_reducible apply wf_foldl (hg := fun _ _ _ => ?_)) | (with_reducible apply wf_foldl_fst (hg := fun _ _ _ => ?_)) | split | dsimp only)

end Sys2Proof.Machine
end

