-- ==== Sys2Proof/Laws/FrameStrings.lean ====
section
/-! SUPPORT. Laws/FrameStrings.lean: what the operations of Machine/Strings.lean may change (f_only; f_step after what went before), and
that each keeps the memories' canonical form (f_wf). -/

set_option Elab.async false
set_option linter.all false

namespace Sys2Proof.Machine

theorem State.strUp_only (s : State) (f : Str → Str) : Only [.str] s (State.strUp s f) := by
  unfold State.strUp
  try dsimp only
  repeat' (first | (with_reducible exact Only.refl _ _) | (with_reducible apply Only.ite) | (with_reducible apply Only.ite_fst) | (with_reducible apply Only.foldl (hg := fun _ _ => ?_)) | (with_reducible apply Only.foldl_fst (hg := fun _ _ => ?_)) | split | dsimp only | (with_reducible apply only_with_str_step (hm := by decide)))
theorem State.strUp_step {l₀ : List Part} {s₀ : State} (s : State) (f : Str → Str) (h₀ : Only l₀ s₀ s) (hm : [.str] ⊆ l₀) : Only l₀ s₀ (State.strUp s f) :=
  h₀.step (State.strUp_only s f) hm

theorem writeStrCfg_only (s : State) (v : Word) : Only [.regs, .heldU, .heldB] s (writeStrCfg s v) := by
  unfold writeStrCfg
  try dsimp only
  repeat' (first | (with_reducible exact Only.refl _ _) | (with_reducible apply Only.ite) | (with_reducible apply Only.ite_fst) | (with_reducible apply State.set_step (hm := by decide)) | (with_reducible apply storeCoded_step (hm := by decide)) | (with_reducible apply Only.foldl (hg := fun _ _ => ?_)) | (with_reducible apply Only.foldl_fst (hg := fun _ _ => ?_)) | split | dsimp only)
theorem writeStrCfg_step {l₀ : List Part} {s₀ : State} (s : State) (v : Word) (h₀ : Only l₀ s₀ s) (hm : [.regs, .heldU, .heldB] ⊆ l₀) : Only l₀ s₀ (writeStrCfg s v) :=
  h₀.step (writeStrCfg_only s v) hm

theorem showPorts_only (s : State) : Only [.regs] s (showPorts s) := by
  unfold showPorts
  try dsimp only
  repeat' (first | (with_reducible exact Only.refl _ _) | (with_reducible apply Only.ite) | (with_reducible apply Only.ite_fst) | (with_reducible apply State.setB_step (hm := by decide)) | (with_reducible apply Only.foldl (hg := fun _ _ => ?_)) | (with_reducible apply Only.foldl_fst (hg := fun _ _ => ?_)) | split | dsimp only)
theorem showPorts_step {l₀ : List Part} {s₀ : State} (s : State) (h₀ : Only l₀ s₀ s) (hm : [.regs] ⊆ l₀) : Only l₀ s₀ (showPorts s) :=
  h₀.step (showPorts_only s) hm

theorem portFail_only (s : State) (up : Bool) (codes : Nat) (lost : Bool) : Only [.regs, .str] s (portFail s up codes lost) := by
  unfold portFail
  try dsimp only
  repeat' (first | (with_reducible exact Only.refl _ _) | (with_reducible apply Only.ite) | (with_reducible apply Only.ite_fst) | (with_reducible apply State.raiseIf_step (hm := by decide)) | (with_reducible apply State.set_step (hm := by decide)) | (with_reducible apply showPorts_step (hm := by decide)) | (with_reducible apply State.strUp_step (hm := by decide)) | (with_reducible apply Only.foldl (hg := fun _ _ => ?_)) | (with_reducible apply Only.foldl_fst (hg := fun _ _ => ?_)) | split | dsimp only)
theorem portFail_step {l₀ : List Part} {s₀ : State} (s : State) (up : Bool) (codes : Nat) (lost : Bool) (h₀ : Only l₀ s₀ s) (hm : [.regs, .str] ⊆ l₀) : Only l₀ s₀ (portFail s up codes lost) :=
  h₀.step (portFail_only s up codes lost) hm

theorem portGood_only (s : State) (up : Bool) : Only [.regs, .str] s (portGood s up) := by
  unfold portGood
  try dsimp only
  repeat' (first | (with_reducible exact Only.refl _ _) | (with_reducible apply Only.ite) | (with_reducible apply Only.ite_fst) | (with_reducible apply State.strUp_step (hm := by decide)) | (with_reducible apply showPorts_step (hm := by decide)) | (with_reducible apply Only.foldl (hg := fun _ _ => ?_)) | (with_reducible apply Only.foldl_fst (hg := fun _ _ => ?_)) | split | dsimp only)
theorem portGood_step {l₀ : List Part} {s₀ : State} (s : State) (up : Bool) (h₀ : Only l₀ s₀ s) (hm : [.regs, .str] ⊆ l₀) : Only l₀ s₀ (portGood s up) :=
  h₀.step (portGood_only s up) hm

theorem foldAtSof_only (s : State) : Only [.regs, .conds, .str] s (foldAtSof s) := by
  unfold foldAtSof
  try dsimp only
  repeat' (first | (with_reducible exact Only.refl _ _) | (with_reducible apply Only.ite) | (with_reducible apply Only.ite_fst) | (with_reducible apply State.cond_step (hm := by decide)) | (with_reducible apply State.strUp_step (hm := by decide)) | (with_reducible apply Only.foldl (hg := fun _ _ => ?_)) | (with_reducible apply Only.foldl_fst (hg := fun _ _ => ?_)) | split | dsimp only)
theorem foldAtSof_step {l₀ : List Part} {s₀ : State} (s : State) (h₀ : Only l₀ s₀ s) (hm : [.regs, .conds, .str] ⊆ l₀) : Only l₀ s₀ (foldAtSof s) :=
  h₀.step (foldAtSof_only s) hm

theorem unfoldAtBlock_only (s : State) : Only [.regs, .conds, .str] s (unfoldAtBlock s) := by
  unfold unfoldAtBlock
  try dsimp only
  repeat' (first | (with_reducible exact Only.refl _ _) | (with_reducible apply Only.ite) | (with_reducible apply Only.ite_fst) | (with_reducible apply State.cond_step (hm := by decide)) | (with_reducible apply State.strUp_step (hm := by decide)) | (with_reducible apply Only.foldl (hg := fun _ _ => ?_)) | (with_reducible apply Only.foldl_fst (hg := fun _ _ => ?_)) | split | dsimp only)
theorem unfoldAtBlock_step {l₀ : List Part} {s₀ : State} (s : State) (h₀ : Only l₀ s₀ s) (hm : [.regs, .conds, .str] ⊆ l₀) : Only l₀ s₀ (unfoldAtBlock s) :=
  h₀.step (unfoldAtBlock_only s) hm

theorem forwardingStart_only (s : State) : Only [.regs, .str] s (forwardingStart s) := by
  unfold forwardingStart
  try dsimp only
  repeat' (first | (with_reducible exact Only.refl _ _) | (with_reducible apply Only.ite) | (with_reducible apply Only.ite_fst) | (with_reducible apply State.strUp_step (hm := by decide)) | (with_reducible apply showPorts_step (hm := by decide)) | (with_reducible apply Only.foldl (hg := fun _ _ => ?_)) | (with_reducible apply Only.foldl_fst (hg := fun _ _ => ?_)) | split | dsimp only)
theorem forwardingStart_step {l₀ : List Part} {s₀ : State} (s : State) (h₀ : Only l₀ s₀ s) (hm : [.regs, .str] ⊆ l₀) : Only l₀ s₀ (forwardingStart s) :=
  h₀.step (forwardingStart_only s) hm

theorem ringLostTimeout_only (s : State) : Only [.regs, .conds] s (ringLostTimeout s) := by
  unfold ringLostTimeout
  try dsimp only
  repeat' (first | (with_reducible exact Only.refl _ _) | (with_reducible apply Only.ite) | (with_reducible apply Only.ite_fst) | (with_reducible apply State.cond_step (hm := by decide)) | (with_reducible apply Only.foldl (hg := fun _ _ => ?_)) | (with_reducible apply Only.foldl_fst (hg := fun _ _ => ?_)) | split | dsimp only)
theorem ringLostTimeout_step {l₀ : List Part} {s₀ : State} (s : State) (h₀ : Only l₀ s₀ s) (hm : [.regs, .conds] ⊆ l₀) : Only l₀ s₀ (ringLostTimeout s) :=
  h₀.step (ringLostTimeout_only s) hm

theorem addressTimeout_only (s : State) (n : Nat) : Only [.regs, .str] s (addressTimeout s n) := by
  unfold addressTimeout
  try dsimp only
  repeat' (first | (with_reducible exact Only.refl _ _) | (with_reducible apply Only.ite) | (with_reducible apply Only.ite_fst) | (with_reducible apply State.set_step (hm := by decide)) | (with_reducible apply State.strUp_step (hm := by decide)) | (with_reducible apply Only.foldl (hg := fun _ _ => ?_)) | (with_reducible apply Only.foldl_fst (hg := fun _ _ => ?_)) | split | dsimp only)
theorem addressTimeout_step {l₀ : List Part} {s₀ : State} (s : State) (n : Nat) (h₀ : Only l₀ s₀ s) (hm : [.regs, .str] ⊆ l₀) : Only l₀ s₀ (addressTimeout s n) :=
  h₀.step (addressTimeout_only s n) hm

theorem queueGo_only (s : State) : Only [.regs, .str] s (queueGo s) := by
  unfold queueGo
  try dsimp only
  repeat' (first | (with_reducible exact Only.refl _ _) | (with_reducible apply Only.ite) | (with_reducible apply Only.ite_fst) | (with_reducible apply State.raise_step (hm := by decide)) | (with_reducible apply State.set_step (hm := by decide)) | (with_reducible apply State.strUp_step (hm := by decide)) | (with_reducible apply Only.foldl (hg := fun _ _ => ?_)) | (with_reducible apply Only.foldl_fst (hg := fun _ _ => ?_)) | split | dsimp only)
theorem queueGo_step {l₀ : List Part} {s₀ : State} (s : State) (h₀ : Only l₀ s₀ s) (hm : [.regs, .str] ⊆ l₀) : Only l₀ s₀ (queueGo s) :=
  h₀.step (queueGo_only s) hm

theorem writeCqctrl_only (s : State) (v : Word) : Only [.regs, .str] s (writeCqctrl s v) := by
  unfold writeCqctrl
  try dsimp only
  repeat' (first | (with_reducible exact Only.refl _ _) | (with_reducible apply Only.ite) | (with_reducible apply Only.ite_fst) | (with_reducible apply queueGo_step (hm := by decide)) | (with_reducible apply Only.foldl (hg := fun _ _ => ?_)) | (with_reducible apply Only.foldl_fst (hg := fun _ _ => ?_)) | split | dsimp only)
theorem writeCqctrl_step {l₀ : List Part} {s₀ : State} (s : State) (v : Word) (h₀ : Only l₀ s₀ s) (hm : [.regs, .str] ⊆ l₀) : Only l₀ s₀ (writeCqctrl s v) :=
  h₀.step (writeCqctrl_only s v) hm

theorem writeCqNs_only (s : State) (v : Word) : Only [.regs, .heldU, .heldB] s (writeCqNs s v) := by
  unfold writeCqNs
  try dsimp only
  repeat' (first | (with_reducible exact Only.refl _ _) | (with_reducible apply Only.ite) | (with_reducible apply Only.ite_fst) | (with_reducible apply storeCoded_step (hm := by decide)) | (with_reducible apply Only.foldl (hg := fun _ _ => ?_)) | (with_reducible apply Only.foldl_fst (hg := fun _ _ => ?_)) | split | dsimp only)
theorem writeCqNs_step {l₀ : List Part} {s₀ : State} (s : State) (v : Word) (h₀ : Only l₀ s₀ s) (hm : [.regs, .heldU, .heldB] ⊆ l₀) : Only l₀ s₀ (writeCqNs s v) :=
  h₀.step (writeCqNs_only s v) hm

theorem nodeSlotRead_only (s : State) (side n : Nat) : Only [.rdata, .vent] s (nodeSlotRead s side n) := by
  unfold nodeSlotRead
  try dsimp only
  repeat' (first | (with_reducible exact Only.refl _ _) | (with_reducible apply Only.ite) | (with_reducible apply Only.ite_fst) | (with_reducible apply latchRead_step (hm := by decide)) | (with_reducible apply Only.foldl (hg := fun _ _ => ?_)) | (with_reducible apply Only.foldl_fst (hg := fun _ _ => ?_)) | split | dsimp only)
theorem nodeSlotRead_step {l₀ : List Part} {s₀ : State} (s : State) (side n : Nat) (h₀ : Only l₀ s₀ s) (hm : [.rdata, .vent] ⊆ l₀) : Only l₀ s₀ (nodeSlotRead s side n) :=
  h₀.step (nodeSlotRead_only s side n) hm

theorem cmdResultRead_only (s : State) (side : Nat) : Only [.rdata, .vent] s (cmdResultRead s side) := by
  unfold cmdResultRead
  try dsimp only
  repeat' (first | (with_reducible exact Only.refl _ _) | (with_reducible apply Only.ite) | (with_reducible apply Only.ite_fst) | (with_reducible apply latchRead_step (hm := by decide)) | (with_reducible apply Only.foldl (hg := fun _ _ => ?_)) | (with_reducible apply Only.foldl_fst (hg := fun _ _ => ?_)) | split | dsimp only)
theorem cmdResultRead_step {l₀ : List Part} {s₀ : State} (s : State) (side : Nat) (h₀ : Only l₀ s₀ s) (hm : [.rdata, .vent] ⊆ l₀) : Only l₀ s₀ (cmdResultRead s side) :=
  h₀.step (cmdResultRead_only s side) hm

theorem cqResult_only (s : State) (c : StrCmd) (fail : List Nat) (status : Nat) : Only [.regs] s (cqResult s c fail status) := by
  unfold cqResult
  try dsimp only
  repeat' (first | (with_reducible exact Only.refl _ _) | (with_reducible apply Only.ite) | (with_reducible apply Only.ite_fst) | (with_reducible apply State.set_step (hm := by decide)) | (with_reducible apply Only.foldl (hg := fun _ _ => ?_)) | (with_reducible apply Only.foldl_fst (hg := fun _ _ => ?_)) | split | dsimp only)
theorem cqResult_step {l₀ : List Part} {s₀ : State} (s : State) (c : StrCmd) (fail : List Nat) (status : Nat) (h₀ : Only l₀ s₀ s) (hm : [.regs] ⊆ l₀) : Only l₀ s₀ (cqResult s c fail status) :=
  h₀.step (cqResult_only s c fail status) hm

theorem failCarried_only (s : State) : Only [.regs, .str] s (failCarried s) := by
  unfold failCarried
  try dsimp only
  repeat' (first | (with_reducible exact Only.refl _ _) | (with_reducible apply Only.ite) | (with_reducible apply Only.ite_fst) | (with_reducible apply State.raise_step (hm := by decide)) | (with_reducible apply State.strUp_step (hm := by decide)) | (with_reducible apply cqResult_step (hm := by decide)) | (with_reducible apply Only.foldl (hg := fun _ _ => ?_)) | (with_reducible apply Only.foldl_fst (hg := fun _ _ => ?_)) | split | dsimp only)
theorem failCarried_step {l₀ : List Part} {s₀ : State} (s : State) (h₀ : Only l₀ s₀ s) (hm : [.regs, .str] ⊆ l₀) : Only l₀ s₀ (failCarried s) :=
  h₀.step (failCarried_only s) hm

theorem strAtBlock_only (s0 : State) : Only [.regs, .conds, .str] s0 (strAtBlock s0) := by
  unfold strAtBlock
  try dsimp only
  repeat' (first | (with_reducible exact Only.refl _ _) | (with_reducible apply Only.ite) | (with_reducible apply Only.ite_fst) | (with_reducible apply State.raise_step (hm := by decide)) | (with_reducible apply unfoldAtBlock_step (hm := by decide)) | (with_reducible apply failCarried_step (hm := by decide)) | (with_reducible apply State.strUp_step (hm := by decide)) | (with_reducible apply Only.foldl (hg := fun _ _ => ?_)) | (with_reducible apply Only.foldl_fst (hg := fun _ _ => ?_)) | split | dsimp only)
theorem strAtBlock_step {l₀ : List Part} {s₀ : State} (s0 : State) (h₀ : Only l₀ s₀ s0) (hm : [.regs, .conds, .str] ⊆ l₀) : Only l₀ s₀ (strAtBlock s0) :=
  h₀.step (strAtBlock_only s0) hm

/-! ### The canonical form -/

theorem State.strUp_wf (s : State) (f : Str → Str) (h₀ : Memory.wf s = true) : Memory.wf (State.strUp s f) = true :=
  Only.wf (State.strUp_only s f) (by decide) h₀

theorem writeStrCfg_wf (s : State) (v : Word) (h₀ : Memory.wf s = true) : Memory.wf (writeStrCfg s v) = true := by
  unfold writeStrCfg
  try dsimp only
  repeat' (first | (with_reducible assumption) | (with_reducible apply wf_ite) | (with_reducible apply wf_ite_fst) | (with_reducible apply State.set_wf) | (with_reducible apply storeCoded_wf) | (with_reducible apply wf_foldl (hg := fun _ _ _ => ?_)) | (with_reducible apply wf_foldl_fst (hg := fun _ _ _ => ?_)) | split | dsimp only)

theorem showPorts_wf (s : State) (h₀ : Memory.wf s = true) : Memory.wf (showPorts s) = true := by
  unfold showPorts
  try dsimp only
  repeat' (first | (with_reducible assumption) | (with_reducible apply wf_ite) | (with_reducible apply wf_ite_fst) | (with_reducible apply State.setB_wf) | (with_reducible apply wf_foldl (hg := fun _ _ _ => ?_)) | (with_reducible apply wf_foldl_fst (hg := fun _ _ _ => ?_)) | split | dsimp only)

theorem portFail_wf (s : State) (up : Bool) (codes : Nat) (lost : Bool) (h₀ : Memory.wf s = true) : Memory.wf (portFail s up codes lost) = true := by
  unfold portFail
  try dsimp only
  repeat' (first | (with_reducible assumption) | (with_reducible apply wf_ite) | (with_reducible apply wf_ite_fst) | (with_reducible apply State.raiseIf_wf) | (with_reducible apply State.strUp_wf) | (with_reducible apply showPorts_wf) | (with_reducible apply State.set_wf) | (with_reducible apply wf_foldl (hg := fun _ _ _ => ?_)) | (with_reducible apply wf_foldl_fst (hg := fun _ _ _ => ?_)) | split | dsimp only)

theorem portGood_wf (s : State) (up : Bool) (h₀ : Memory.wf s = true) : Memory.wf (portGood s up) = true := by
  unfold portGood
  try dsimp only
  repeat' (first | (with_reducible assumption) | (with_reducible apply wf_ite) | (with_reducible apply wf_ite_fst) | (with_reducible apply showPorts_wf) | (with_reducible apply State.strUp_wf) | (with_reducible apply wf_foldl (hg := fun _ _ _ => ?_)) | (with_reducible apply wf_foldl_fst (hg := fun _ _ _ => ?_)) | split | dsimp only)

theorem foldAtSof_wf (s : State) (h₀ : Memory.wf s = true) : Memory.wf (foldAtSof s) = true := by
  unfold foldAtSof
  try dsimp only
  repeat' (first | (with_reducible assumption) | (with_reducible apply wf_ite) | (with_reducible apply wf_ite_fst) | (with_reducible apply State.strUp_wf) | (with_reducible apply State.cond_wf) | (with_reducible apply wf_foldl (hg := fun _ _ _ => ?_)) | (with_reducible apply wf_foldl_fst (hg := fun _ _ _ => ?_)) | split | dsimp only)

theorem unfoldAtBlock_wf (s : State) (h₀ : Memory.wf s = true) : Memory.wf (unfoldAtBlock s) = true := by
  unfold unfoldAtBlock
  try dsimp only
  repeat' (first | (with_reducible assumption) | (with_reducible apply wf_ite) | (with_reducible apply wf_ite_fst) | (with_reducible apply State.cond_wf) | (with_reducible apply State.strUp_wf) | (with_reducible apply wf_foldl (hg := fun _ _ _ => ?_)) | (with_reducible apply wf_foldl_fst (hg := fun _ _ _ => ?_)) | split | dsimp only)

theorem forwardingStart_wf (s : State) (h₀ : Memory.wf s = true) : Memory.wf (forwardingStart s) = true := by
  unfold forwardingStart
  try dsimp only
  repeat' (first | (with_reducible assumption) | (with_reducible apply wf_ite) | (with_reducible apply wf_ite_fst) | (with_reducible apply showPorts_wf) | (with_reducible apply State.strUp_wf) | (with_reducible apply wf_foldl (hg := fun _ _ _ => ?_)) | (with_reducible apply wf_foldl_fst (hg := fun _ _ _ => ?_)) | split | dsimp only)

theorem ringLostTimeout_wf (s : State) (h₀ : Memory.wf s = true) : Memory.wf (ringLostTimeout s) = true := by
  unfold ringLostTimeout
  try dsimp only
  repeat' (first | (with_reducible assumption) | (with_reducible apply wf_ite) | (with_reducible apply wf_ite_fst) | (with_reducible apply State.cond_wf) | (with_reducible apply wf_foldl (hg := fun _ _ _ => ?_)) | (with_reducible apply wf_foldl_fst (hg := fun _ _ _ => ?_)) | split | dsimp only)

theorem addressTimeout_wf (s : State) (n : Nat) (h₀ : Memory.wf s = true) : Memory.wf (addressTimeout s n) = true := by
  unfold addressTimeout
  try dsimp only
  repeat' (first | (with_reducible assumption) | (with_reducible apply wf_ite) | (with_reducible apply wf_ite_fst) | (with_reducible apply State.strUp_wf) | (with_reducible apply State.set_wf) | (with_reducible apply wf_foldl (hg := fun _ _ _ => ?_)) | (with_reducible apply wf_foldl_fst (hg := fun _ _ _ => ?_)) | split | dsimp only)

theorem queueGo_wf (s : State) (h₀ : Memory.wf s = true) : Memory.wf (queueGo s) = true := by
  unfold queueGo
  try dsimp only
  repeat' (first | (with_reducible assumption) | (with_reducible apply wf_ite) | (with_reducible apply wf_ite_fst) | (with_reducible apply State.raise_wf) | (with_reducible apply State.strUp_wf) | (with_reducible apply State.set_wf) | (with_reducible apply wf_foldl (hg := fun _ _ _ => ?_)) | (with_reducible apply wf_foldl_fst (hg := fun _ _ _ => ?_)) | split | dsimp only)

theorem writeCqctrl_wf (s : State) (v : Word) (h₀ : Memory.wf s = true) : Memory.wf (writeCqctrl s v) = true := by
  unfold writeCqctrl
  try dsimp only
  repeat' (first | (with_reducible assumption) | (with_reducible apply wf_ite) | (with_reducible apply wf_ite_fst) | (with_reducible apply queueGo_wf) | (with_reducible apply wf_foldl (hg := fun _ _ _ => ?_)) | (with_reducible apply wf_foldl_fst (hg := fun _ _ _ => ?_)) | split | dsimp only)

theorem writeCqNs_wf (s : State) (v : Word) (h₀ : Memory.wf s = true) : Memory.wf (writeCqNs s v) = true := by
  unfold writeCqNs
  try dsimp only
  repeat' (first | (with_reducible assumption) | (with_reducible apply wf_ite) | (with_reducible apply wf_ite_fst) | (with_reducible apply storeCoded_wf) | (with_reducible apply wf_foldl (hg := fun _ _ _ => ?_)) | (with_reducible apply wf_foldl_fst (hg := fun _ _ _ => ?_)) | split | dsimp only)

theorem nodeSlotRead_wf (s : State) (side n : Nat) (h₀ : Memory.wf s = true) : Memory.wf (nodeSlotRead s side n) = true := by
  unfold nodeSlotRead
  try dsimp only
  repeat' (first | (with_reducible assumption) | (with_reducible rfl) | (with_reducible apply wf_ite) | (with_reducible apply wf_ite_fst) | (with_reducible apply latchRead_wf) | (with_reducible apply wf_foldl (hg := fun _ _ _ => ?_)) | (with_reducible apply wf_foldl_fst (hg := fun _ _ _ => ?_)) | split | dsimp only)

theorem cmdResultRead_wf (s : State) (side : Nat) (h₀ : Memory.wf s = true) : Memory.wf (cmdResultRead s side) = true := by
  unfold cmdResultRead
  try dsimp only
  repeat' (first | (with_reducible assumption) | (with_reducible rfl) | (with_reducible apply wf_ite) | (with_reducible apply wf_ite_fst) | (with_reducible apply latchRead_wf) | (with_reducible apply wf_foldl (hg := fun _ _ _ => ?_)) | (with_reducible apply wf_foldl_fst (hg := fun _ _ _ => ?_)) | split | dsimp only)

theorem cqResult_wf (s : State) (c : StrCmd) (fail : List Nat) (status : Nat) (h₀ : Memory.wf s = true) : Memory.wf (cqResult s c fail status) = true := by
  unfold cqResult
  try dsimp only
  repeat' (first | (with_reducible assumption) | (with_reducible apply wf_ite) | (with_reducible apply wf_ite_fst) | (with_reducible apply State.set_wf) | (with_reducible apply wf_foldl (hg := fun _ _ _ => ?_)) | (with_reducible apply wf_foldl_fst (hg := fun _ _ _ => ?_)) | split | dsimp only)

theorem failCarried_wf (s : State) (h₀ : Memory.wf s = true) : Memory.wf (failCarried s) = true := by
  unfold failCarried
  try dsimp only
  repeat' (first | (with_reducible assumption) | (with_reducible apply wf_ite) | (with_reducible apply wf_ite_fst) | (with_reducible apply State.strUp_wf) | (with_reducible apply cqResult_wf) | (with_reducible apply State.raise_wf) | (with_reducible apply wf_foldl (hg := fun _ _ _ => ?_)) | (with_reducible apply wf_foldl_fst (hg := fun _ _ _ => ?_)) | split | dsimp only)

theorem strAtBlock_wf (s0 : State) (h₀ : Memory.wf s0 = true) : Memory.wf (strAtBlock s0) = true := by
  unfold strAtBlock
  try dsimp only
  repeat' (first | (with_reducible assumption) | (with_reducible apply wf_ite) | (with_reducible apply wf_ite_fst) | (with_reducible apply State.strUp_wf) | (with_reducible apply unfoldAtBlock_wf) | (with_reducible apply failCarried_wf) | (with_reducible apply State.raise_wf) | (with_reducible apply wf_foldl (hg := fun _ _ _ => ?_)) | (with_reducible apply wf_foldl_fst (hg := fun _ _ _ => ?_)) | split | dsimp only)

end Sys2Proof.Machine
end

