-- ==== Sys2Proof/Laws/FrameRegisters.lean ====
section
/-! SUPPORT. Laws/FrameRegisters.lean: what the operations of Machine/Registers.lean may change (f_only; f_step after what went before), and
that each keeps the memories' canonical form (f_wf). -/

set_option Elab.async false
set_option linter.all false

namespace Sys2Proof.Machine

theorem writeQspiCtrl_only (s : State) (v : Word) : Only [.regs, .heldU, .heldB, .free, .bkg] s (writeQspiCtrl s v) := by
  unfold writeQspiCtrl
  try dsimp only
  repeat' (first | (with_reducible exact Only.refl _ _) | (with_reducible apply Only.ite) | (with_reducible apply Only.ite_fst) | (with_reducible apply State.set_step (hm := by decide)) | (with_reducible apply State.used_step (hm := by decide)) | (with_reducible apply qspiStart_step (hm := by decide)) | (with_reducible apply qspiStatus_step (hm := by decide)) | (with_reducible apply storeCoded_step (hm := by decide)) | (with_reducible apply Only.foldl (hg := fun _ _ => ?_)) | (with_reducible apply Only.foldl_fst (hg := fun _ _ => ?_)) | split | dsimp only)
theorem writeQspiCtrl_step {l₀ : List Part} {s₀ : State} (s : State) (v : Word) (h₀ : Only l₀ s₀ s) (hm : [.regs, .heldU, .heldB, .free, .bkg] ⊆ l₀) : Only l₀ s₀ (writeQspiCtrl s v) :=
  h₀.step (writeQspiCtrl_only s v) hm

theorem writeLaneShd_only (s : State) (v : Word) : Only [.regs, .heldU, .heldB, .lanePool] s (writeLaneShd s v) := by
  unfold writeLaneShd
  try dsimp only
  repeat' (first | (with_reducible exact Only.refl _ _) | (with_reducible apply Only.ite) | (with_reducible apply Only.ite_fst) | (with_reducible apply storeCoded_step (hm := by decide)) | (with_reducible apply forcedSwap_step (hm := by decide)) | (with_reducible apply shadowEnable_step (hm := by decide)) | (with_reducible apply Only.foldl (hg := fun _ _ => ?_)) | (with_reducible apply Only.foldl_fst (hg := fun _ _ => ?_)) | split | dsimp only)
theorem writeLaneShd_step {l₀ : List Part} {s₀ : State} (s : State) (v : Word) (h₀ : Only l₀ s₀ s) (hm : [.regs, .heldU, .heldB, .lanePool] ⊆ l₀) : Only l₀ s₀ (writeLaneShd s v) :=
  h₀.step (writeLaneShd_only s v) hm

theorem writeTwnCtrl_only (s : State) (v : Word) : Only [.regs, .gates, .twin] s (writeTwnCtrl s v) := by
  unfold writeTwnCtrl
  try dsimp only
  repeat' (first | (with_reducible exact Only.refl _ _) | (with_reducible apply Only.ite) | (with_reducible apply Only.ite_fst) | (with_reducible apply handover_step (hm := by decide)) | (with_reducible apply resyncRequest_step (hm := by decide)) | (with_reducible apply retrain_step (hm := by decide)) | (with_reducible apply Only.foldl (hg := fun _ _ => ?_)) | (with_reducible apply Only.foldl_fst (hg := fun _ _ => ?_)) | split | dsimp only)
theorem writeTwnCtrl_step {l₀ : List Part} {s₀ : State} (s : State) (v : Word) (h₀ : Only l₀ s₀ s) (hm : [.regs, .gates, .twin] ⊆ l₀) : Only l₀ s₀ (writeTwnCtrl s v) :=
  h₀.step (writeTwnCtrl_only s v) hm

theorem writeMbCore_only (s : State) (v : Word) : Only [.regs, .heldU, .heldB, .mb] s (writeMbCore s v) := by
  unfold writeMbCore
  try dsimp only
  repeat' (first | (with_reducible exact Only.refl _ _) | (with_reducible apply Only.ite) | (with_reducible apply Only.ite_fst) | (with_reducible apply storeCoded_step (hm := by decide)) | (with_reducible apply swapRequest_step (hm := by decide)) | (with_reducible apply Only.foldl (hg := fun _ _ => ?_)) | (with_reducible apply Only.foldl_fst (hg := fun _ _ => ?_)) | split | dsimp only)
theorem writeMbCore_step {l₀ : List Part} {s₀ : State} (s : State) (v : Word) (h₀ : Only l₀ s₀ s) (hm : [.regs, .heldU, .heldB, .mb] ⊆ l₀) : Only l₀ s₀ (writeMbCore s v) :=
  h₀.step (writeMbCore_only s v) hm

theorem writeMute_only (s : State) (c : Nat) (v : Word) : Only [.regs, .heldU, .heldB, .sys] s (writeMute s c v) := by
  unfold writeMute
  try dsimp only
  repeat' (first | (with_reducible exact Only.refl _ _) | (with_reducible apply Only.ite) | (with_reducible apply Only.ite_fst) | (with_reducible apply storeCoded_step (hm := by decide)) | (with_reducible apply relStart_step (hm := by decide)) | (with_reducible apply Only.foldl (hg := fun _ _ => ?_)) | (with_reducible apply Only.foldl_fst (hg := fun _ _ => ?_)) | split | dsimp only)
theorem writeMute_step {l₀ : List Part} {s₀ : State} (s : State) (c : Nat) (v : Word) (h₀ : Only l₀ s₀ s) (hm : [.regs, .heldU, .heldB, .sys] ⊆ l₀) : Only l₀ s₀ (writeMute s c v) :=
  h₀.step (writeMute_only s c v) hm

theorem writeHstCfg_only (s : State) (path : Path) (v : Word) : Only [.regs, .heldU, .heldB, .hst] s (writeHstCfg s path v) := by
  unfold writeHstCfg
  try dsimp only
  repeat' (first | (with_reducible exact Only.refl _ _) | (with_reducible apply Only.ite) | (with_reducible apply Only.ite_fst) | (with_reducible apply storeCoded_step (hm := by decide)) | (with_reducible apply Only.foldl (hg := fun _ _ => ?_)) | (with_reducible apply Only.foldl_fst (hg := fun _ _ => ?_)) | split | dsimp only | (with_reducible apply only_with_hst_step (hm := by decide)))
theorem writeHstCfg_step {l₀ : List Part} {s₀ : State} (s : State) (path : Path) (v : Word) (h₀ : Only l₀ s₀ s) (hm : [.regs, .heldU, .heldB, .hst] ⊆ l₀) : Only l₀ s₀ (writeHstCfg s path v) :=
  h₀.step (writeHstCfg_only s path v) hm

theorem writeAudio_only (s : State) (p : Nat) (v : Word) : Only [.regs, .heldU, .heldB, .banks, .conds, .gates, .ain, .mb, .scn] s (writeAudio s p v) := by
  unfold writeAudio
  try dsimp only
  repeat' (first | (with_reducible exact Only.refl _ _) | (with_reducible apply Only.ite) | (with_reducible apply Only.ite_fst) | (with_reducible apply mixWrite_step (hm := by decide)) | (with_reducible apply writeStreamReg_step (hm := by decide)) | (with_reducible apply csSelect_step (hm := by decide)) | (with_reducible apply writeScnCfg_step (hm := by decide)) | (with_reducible apply routeWrite_step (hm := by decide)) | (with_reducible apply writeScnArm_step (hm := by decide)) | (with_reducible apply ptpConfigure_step (hm := by decide)) | (with_reducible apply writeScfg_step (hm := by decide)) | (with_reducible apply writeMbCore_step (hm := by decide)) | (with_reducible apply storeCoded_step (hm := by decide)) | (with_reducible apply stepNow_step (hm := by decide)) | (with_reducible apply Only.foldl (hg := fun _ _ => ?_)) | (with_reducible apply Only.foldl_fst (hg := fun _ _ => ?_)) | split | dsimp only)
theorem writeAudio_step {l₀ : List Part} {s₀ : State} (s : State) (p : Nat) (v : Word) (h₀ : Only l₀ s₀ s) (hm : [.regs, .heldU, .heldB, .banks, .conds, .gates, .ain, .mb, .scn] ⊆ l₀) : Only l₀ s₀ (writeAudio s p v) :=
  h₀.step (writeAudio_only s p v) hm

theorem writeChannel_only (s : State) (p : Nat) (v : Word) : Only [.regs, .heldU, .heldB, .banks, .sys, .legs, .pwm, .safe, .pins] s (writeChannel s p v) := by
  unfold writeChannel
  try dsimp only
  repeat' (first | (with_reducible exact Only.refl _ _) | (with_reducible apply Only.ite) | (with_reducible apply Only.ite_fst) | (with_reducible apply bankWrite_step (hm := by decide)) | (with_reducible apply laWrite_step (hm := by decide)) | (with_reducible apply writeMute_step (hm := by decide)) | (with_reducible apply chModWrite_step (hm := by decide)) | (with_reducible apply writeTclr_step (hm := by decide)) | (with_reducible apply writeLimit_step (hm := by decide)) | (with_reducible apply storeCoded_step (hm := by decide)) | (with_reducible apply Only.foldl (hg := fun _ _ => ?_)) | (with_reducible apply Only.foldl_fst (hg := fun _ _ => ?_)) | split | dsimp only)
theorem writeChannel_step {l₀ : List Part} {s₀ : State} (s : State) (p : Nat) (v : Word) (h₀ : Only l₀ s₀ s) (hm : [.regs, .heldU, .heldB, .banks, .sys, .legs, .pwm, .safe, .pins] ⊆ l₀) : Only l₀ s₀ (writeChannel s p v) :=
  h₀.step (writeChannel_only s p v) hm

theorem writeLeg_only (s : State) (p : Nat) (v : Word) : Only [.regs, .heldU, .heldB, .legs, .pwm, .safe, .pins] s (writeLeg s p v) := by
  unfold writeLeg
  try dsimp only
  repeat' (first | (with_reducible exact Only.refl _ _) | (with_reducible apply Only.ite) | (with_reducible apply Only.ite_fst) | (with_reducible apply writeDt_step (hm := by decide)) | (with_reducible apply writeLimit_step (hm := by decide)) | (with_reducible apply hostCompare_step (hm := by decide)) | (with_reducible apply storeCoded_step (hm := by decide)) | (with_reducible apply writeLim_step (hm := by decide)) | (with_reducible apply Only.foldl (hg := fun _ _ => ?_)) | (with_reducible apply Only.foldl_fst (hg := fun _ _ => ?_)) | split | dsimp only)
theorem writeLeg_step {l₀ : List Part} {s₀ : State} (s : State) (p : Nat) (v : Word) (h₀ : Only l₀ s₀ s) (hm : [.regs, .heldU, .heldB, .legs, .pwm, .safe, .pins] ⊆ l₀) : Only l₀ s₀ (writeLeg s p v) :=
  h₀.step (writeLeg_only s p v) hm

theorem writeSense_only (s : State) (p : Nat) (v : Word) : Only [.regs, .heldU, .heldB] s (writeSense s p v) := by
  unfold writeSense
  try dsimp only
  repeat' (first | (with_reducible exact Only.refl _ _) | (with_reducible apply Only.ite) | (with_reducible apply Only.ite_fst) | (with_reducible apply storeCoded_step (hm := by decide)) | (with_reducible apply Only.foldl (hg := fun _ _ => ?_)) | (with_reducible apply Only.foldl_fst (hg := fun _ _ => ?_)) | split | dsimp only)
theorem writeSense_step {l₀ : List Part} {s₀ : State} (s : State) (p : Nat) (v : Word) (h₀ : Only l₀ s₀ s) (hm : [.regs, .heldU, .heldB] ⊆ l₀) : Only l₀ s₀ (writeSense s p v) :=
  h₀.step (writeSense_only s p v) hm

theorem writeLane_only (s : State) (p : Nat) (v : Word) : Only [.regs, .heldU, .heldB, .banks, .loops] s (writeLane s p v) := by
  unfold writeLane
  try dsimp only
  repeat' (first | (with_reducible exact Only.refl _ _) | (with_reducible apply Only.ite) | (with_reducible apply Only.ite_fst) | (with_reducible apply writeFe_step (hm := by decide)) | (with_reducible apply writeLanePtr_step (hm := by decide)) | (with_reducible apply writeZout_step (hm := by decide)) | (with_reducible apply coefWrite_step (hm := by decide)) | (with_reducible apply swapNow_step (hm := by decide)) | (with_reducible apply lanePdataWrite_step (hm := by decide)) | (with_reducible apply storeCoded_step (hm := by decide)) | (with_reducible apply writeOctl_step (hm := by decide)) | (with_reducible apply Only.foldl (hg := fun _ _ => ?_)) | (with_reducible apply Only.foldl_fst (hg := fun _ _ => ?_)) | split | dsimp only)
theorem writeLane_step {l₀ : List Part} {s₀ : State} (s : State) (p : Nat) (v : Word) (h₀ : Only l₀ s₀ s) (hm : [.regs, .heldU, .heldB, .banks, .loops] ⊆ l₀) : Only l₀ s₀ (writeLane s p v) :=
  h₀.step (writeLane_only s p v) hm

theorem writeSpeaker_only (s : State) (p : Nat) (v : Word) : Only [.regs, .heldU, .heldB, .banks] s (writeSpeaker s p v) := by
  unfold writeSpeaker
  try dsimp only
  repeat' (first | (with_reducible exact Only.refl _ _) | (with_reducible apply Only.ite) | (with_reducible apply Only.ite_fst) | (with_reducible apply clrLoad_step (hm := by decide)) | (with_reducible apply writeSpkPtr_step (hm := by decide)) | (with_reducible apply spkPdataWrite_step (hm := by decide)) | (with_reducible apply storeCoded_step (hm := by decide)) | (with_reducible apply Only.foldl (hg := fun _ _ => ?_)) | (with_reducible apply Only.foldl_fst (hg := fun _ _ => ?_)) | split | dsimp only)
theorem writeSpeaker_step {l₀ : List Part} {s₀ : State} (s : State) (p : Nat) (v : Word) (h₀ : Only l₀ s₀ s) (hm : [.regs, .heldU, .heldB, .banks] ⊆ l₀) : Only l₀ s₀ (writeSpeaker s p v) :=
  h₀.step (writeSpeaker_only s p v) hm

theorem writeDiag_only (s : State) (p : Nat) (v : Word) : Only [.regs, .heldU, .heldB, .vent] s (writeDiag s p v) := by
  unfold writeDiag
  try dsimp only
  repeat' (first | (with_reducible exact Only.refl _ _) | (with_reducible apply Only.ite) | (with_reducible apply Only.ite_fst) | (with_reducible apply writeDiaCfg_step (hm := by decide)) | (with_reducible apply writeSwptr_step (hm := by decide)) | (with_reducible apply writeSwctrl_step (hm := by decide)) | (with_reducible apply writeSwcfg_step (hm := by decide)) | (with_reducible apply storeCoded_step (hm := by decide)) | (with_reducible apply Only.foldl (hg := fun _ _ => ?_)) | (with_reducible apply Only.foldl_fst (hg := fun _ _ => ?_)) | split | dsimp only)
theorem writeDiag_step {l₀ : List Part} {s₀ : State} (s : State) (p : Nat) (v : Word) (h₀ : Only l₀ s₀ s) (hm : [.regs, .heldU, .heldB, .vent] ⊆ l₀) : Only l₀ s₀ (writeDiag s p v) :=
  h₀.step (writeDiag_only s p v) hm

theorem writeRing_only (s : State) (path : Path) (p : Nat) (v : Word) : Only [.regs, .heldU, .heldB, .banks, .conds, .mem, .rings] s (writeRing s path p v) := by
  unfold writeRing
  try dsimp only
  repeat' (first | (with_reducible exact Only.refl _ _) | (with_reducible apply Only.ite) | (with_reducible apply Only.ite_fst) | (with_reducible apply ringStage_step (hm := by decide)) | (with_reducible apply ringConfig_step (hm := by decide)) | (with_reducible apply storeCoded_step (hm := by decide)) | (with_reducible apply ringPush_step (hm := by decide)) | (with_reducible apply Only.foldl (hg := fun _ _ => ?_)) | (with_reducible apply Only.foldl_fst (hg := fun _ _ => ?_)) | split | dsimp only)
theorem writeRing_step {l₀ : List Part} {s₀ : State} (s : State) (path : Path) (p : Nat) (v : Word) (h₀ : Only l₀ s₀ s) (hm : [.regs, .heldU, .heldB, .banks, .conds, .mem, .rings] ⊆ l₀) : Only l₀ s₀ (writeRing s path p v) :=
  h₀.step (writeRing_only s path p v) hm

theorem writeTraceBlock_only (s : State) (p : Nat) (v : Word) : Only [.regs, .heldU, .heldB, .trace] s (writeTraceBlock s p v) := by
  unfold writeTraceBlock
  try dsimp only
  repeat' (first | (with_reducible exact Only.refl _ _) | (with_reducible apply Only.ite) | (with_reducible apply Only.ite_fst) | (with_reducible apply writeTrc_step (hm := by decide)) | (with_reducible apply storeCoded_step (hm := by decide)) | (with_reducible apply writeTrcCtrl_step (hm := by decide)) | (with_reducible apply Only.foldl (hg := fun _ _ => ?_)) | (with_reducible apply Only.foldl_fst (hg := fun _ _ => ?_)) | split | dsimp only)
theorem writeTraceBlock_step {l₀ : List Part} {s₀ : State} (s : State) (p : Nat) (v : Word) (h₀ : Only l₀ s₀ s) (hm : [.regs, .heldU, .heldB, .trace] ⊆ l₀) : Only l₀ s₀ (writeTraceBlock s p v) :=
  h₀.step (writeTraceBlock_only s p v) hm

theorem writeManager_only (s : State) (p : Nat) (v : Word) : Only [.regs, .heldU, .heldB, .str] s (writeManager s p v) := by
  unfold writeManager
  try dsimp only
  repeat' (first | (with_reducible exact Only.refl _ _) | (with_reducible apply Only.ite) | (with_reducible apply Only.ite_fst) | (with_reducible apply writeCqctrl_step (hm := by decide)) | (with_reducible apply storeCoded_step (hm := by decide)) | (with_reducible apply writeCqNs_step (hm := by decide)) | (with_reducible apply Only.foldl (hg := fun _ _ => ?_)) | (with_reducible apply Only.foldl_fst (hg := fun _ _ => ?_)) | split | dsimp only)
theorem writeManager_step {l₀ : List Part} {s₀ : State} (s : State) (p : Nat) (v : Word) (h₀ : Only l₀ s₀ s) (hm : [.regs, .heldU, .heldB, .str] ⊆ l₀) : Only l₀ s₀ (writeManager s p v) :=
  h₀.step (writeManager_only s p v) hm

theorem latchWords_only (s : State) (side p : Nat) (ws : List Word) : Only [.scn, .sense, .vent] s (latchWords s side p ws) := by
  unfold latchWords
  try dsimp only
  repeat' (first | (with_reducible exact Only.refl _ _) | (with_reducible apply Only.ite) | (with_reducible apply Only.ite_fst) | (with_reducible apply State.snsUp_step (hm := by decide)) | (with_reducible apply Only.foldl (hg := fun _ _ => ?_)) | (with_reducible apply Only.foldl_fst (hg := fun _ _ => ?_)) | split | dsimp only | (with_reducible apply only_with_scn_step (hm := by decide)) | (with_reducible apply only_with_vent_step (hm := by decide)))
theorem latchWords_step {l₀ : List Part} {s₀ : State} (s : State) (side p : Nat) (ws : List Word) (h₀ : Only l₀ s₀ s) (hm : [.scn, .sense, .vent] ⊆ l₀) : Only l₀ s₀ (latchWords s side p ws) :=
  h₀.step (latchWords_only s side p ws) hm

theorem ite_some_cases {σ : Type} {P : σ → Prop} {c : Prop} [Decidable c] {a t : σ} {r : Option σ} (h : (if c then some a else r) = some t)
    (ha : P a) (hr : r = some t → P t) : P t := by
  split at h
  · cases h; exact ha
  · exact hr h

theorem windowRead_only {s t : State} {host : Bool} {p : Nat} (h : windowRead s host p = some t) :
    Only [.regs, .banks, .conds, .rdata, .mem, .rings] s t := by
  unfold windowRead at h
  refine ite_some_cases (P := Only _ s) h ((csRead_only _ ).mono (by decide)) (fun h => ?_)
  refine ite_some_cases (P := Only _ s) h ((mixRead_only _ ).mono (by decide)) (fun h => ?_)
  refine ite_some_cases (P := Only _ s) h ((State.answer_only _ _ ).mono (by decide)) (fun h => ?_)
  refine ite_some_cases (P := Only _ s) h ((qspiBufRead_only _ ).mono (by decide)) (fun h => ?_)
  refine ite_some_cases (P := Only _ s) h ((bankRead_only _ _ ).mono (by decide)) (fun h => ?_)
  refine ite_some_cases (P := Only _ s) h ((lanePdataRead_only _ _ ).mono (by decide)) (fun h => ?_)
  refine ite_some_cases (P := Only _ s) h ((laneLdataRead_only _ _ ).mono (by decide)) (fun h => ?_)
  refine ite_some_cases (P := Only _ s) h ((spkPdataRead_only _ _ ).mono (by decide)) (fun h => ?_)
  refine ite_some_cases (P := Only _ s) h ((spkLdataRead_only _ _ ).mono (by decide)) (fun h => ?_)
  refine ite_some_cases (P := Only _ s) h ((sweepDataRead_only _ _ ).mono (by decide)) (fun h => ?_)
  refine ite_some_cases (P := Only _ s) h ((traceRead_only _ ).mono (by decide)) (fun h => ?_)
  refine ite_some_cases (P := Only _ s) h ((ringFetch_only _ _ _ ).mono (by decide)) (fun h => ?_)
  refine ite_some_cases (P := Only _ s) h ((ringConsume_only _ _ _ ).mono (by decide)) (fun h => ?_)
  refine ite_some_cases (P := Only _ s) h ((State.answer_only _ _ ).mono (by decide)) (fun h => ?_)
  exact nomatch h

theorem readEffect_only (s : State) (path : Path) (p : Nat) (cap : List Word) : Only [.regs, .banks, .conds, .rdata, .scn, .sense, .vent, .mem, .rings] s (readEffect s path p cap) := by
  unfold readEffect
  refine Only.ite (Only.refl _ _) ?_
  split
  · rename_i h; exact State.answer_step _ _ ((windowRead_only h).mono (by decide)) (by decide)
  · exact Only.ite (Only.refl _ _) ((latchWords_only _ _ _ _).mono (by decide))
theorem readEffect_step {l₀ : List Part} {s₀ : State} (s : State) (path : Path) (p : Nat) (cap : List Word) (h₀ : Only l₀ s₀ s) (hm : [.regs, .banks, .conds, .rdata, .scn, .sense, .vent, .mem, .rings] ⊆ l₀) : Only l₀ s₀ (readEffect s path p cap) :=
  h₀.step (readEffect_only s path p cap) hm

theorem regRead_only (s : State) (path : Path) (p : Nat) : Only [.regs, .banks, .conds, .rdata, .scn, .sense, .vent, .mem, .rings] s (regRead s path p) := by
  unfold regRead
  try dsimp only
  repeat' (first | (with_reducible exact Only.refl _ _) | (with_reducible apply Only.ite) | (with_reducible apply Only.ite_fst) | (with_reducible apply readEffect_step (hm := by decide)) | (with_reducible apply State.answer_step (hm := by decide)) | (with_reducible apply Only.foldl (hg := fun _ _ => ?_)) | (with_reducible apply Only.foldl_fst (hg := fun _ _ => ?_)) | split | dsimp only)
theorem regRead_step {l₀ : List Part} {s₀ : State} (s : State) (path : Path) (p : Nat) (h₀ : Only l₀ s₀ s) (hm : [.regs, .banks, .conds, .rdata, .scn, .sense, .vent, .mem, .rings] ⊆ l₀) : Only l₀ s₀ (regRead s path p) :=
  h₀.step (regRead_only s path p) hm

/-! ### The canonical form -/

theorem writeQspiCtrl_wf (s : State) (v : Word) (h₀ : Memory.wf s = true) : Memory.wf (writeQspiCtrl s v) = true := by
  unfold writeQspiCtrl
  try dsimp only
  repeat' (first | (with_reducible assumption) | (with_reducible apply wf_ite) | (with_reducible apply wf_ite_fst) | (with_reducible apply qspiStatus_wf) | (with_reducible apply storeCoded_wf) | (with_reducible apply qspiStart_wf) | (with_reducible apply State.set_wf) | (with_reducible apply State.used_wf) | (with_reducible apply wf_foldl (hg := fun _ _ _ => ?_)) | (with_reducible apply wf_foldl_fst (hg := fun _ _ _ => ?_)) | split | dsimp only)

theorem writeLaneShd_wf (s : State) (v : Word) (h₀ : Memory.wf s = true) : Memory.wf (writeLaneShd s v) = true := by
  unfold writeLaneShd
  try dsimp only
  repeat' (first | (with_reducible assumption) | (with_reducible apply wf_ite) | (with_reducible apply wf_ite_fst) | (with_reducible apply forcedSwap_wf) | (with_reducible apply shadowEnable_wf) | (with_reducible apply storeCoded_wf) | (with_reducible apply wf_foldl (hg := fun _ _ _ => ?_)) | (with_reducible apply wf_foldl_fst (hg := fun _ _ _ => ?_)) | split | dsimp only)

theorem writeTwnCtrl_wf (s : State) (v : Word) (h₀ : Memory.wf s = true) : Memory.wf (writeTwnCtrl s v) = true := by
  unfold writeTwnCtrl
  try dsimp only
  repeat' (first | (with_reducible assumption) | (with_reducible apply wf_ite) | (with_reducible apply wf_ite_fst) | (with_reducible apply handover_wf) | (with_reducible apply retrain_wf) | (with_reducible apply resyncRequest_wf) | (with_reducible apply wf_foldl (hg := fun _ _ _ => ?_)) | (with_reducible apply wf_foldl_fst (hg := fun _ _ _ => ?_)) | split | dsimp only)

theorem writeMbCore_wf (s : State) (v : Word) (h₀ : Memory.wf s = true) : Memory.wf (writeMbCore s v) = true := by
  unfold writeMbCore
  try dsimp only
  repeat' (first | (with_reducible assumption) | (with_reducible apply wf_ite) | (with_reducible apply wf_ite_fst) | (with_reducible apply swapRequest_wf) | (with_reducible apply storeCoded_wf) | (with_reducible apply wf_foldl (hg := fun _ _ _ => ?_)) | (with_reducible apply wf_foldl_fst (hg := fun _ _ _ => ?_)) | split | dsimp only)

theorem writeMute_wf (s : State) (c : Nat) (v : Word) (h₀ : Memory.wf s = true) : Memory.wf (writeMute s c v) = true := by
  unfold writeMute
  try dsimp only
  repeat' (first | (with_reducible assumption) | (with_reducible apply wf_ite) | (with_reducible apply wf_ite_fst) | (with_reducible apply relStart_wf) | (with_reducible apply storeCoded_wf) | (with_reducible apply wf_foldl (hg := fun _ _ _ => ?_)) | (with_reducible apply wf_foldl_fst (hg := fun _ _ _ => ?_)) | split | dsimp only)

theorem writeCtrl_wf (s : State) (path : Path) (v : Word) (h₀ : Memory.wf s = true) : Memory.wf (writeCtrl s path v) = true := by
  unfold writeCtrl
  try dsimp only
  repeat' (first | (with_reducible assumption) | (with_reducible rfl) | (with_reducible apply wf_ite) | (with_reducible apply wf_ite_fst) | (with_reducible apply enterReset_wf) | (with_reducible apply writeSysCtrl_wf) | (with_reducible apply wf_foldl (hg := fun _ _ _ => ?_)) | (with_reducible apply wf_foldl_fst (hg := fun _ _ _ => ?_)) | split | dsimp only | (with_reducible apply wf_with_hst))

theorem writeHstCfg_wf (s : State) (path : Path) (v : Word) (h₀ : Memory.wf s = true) : Memory.wf (writeHstCfg s path v) = true := by
  unfold writeHstCfg
  try dsimp only
  repeat' (first | (with_reducible assumption) | (with_reducible apply wf_ite) | (with_reducible apply wf_ite_fst) | (with_reducible apply storeCoded_wf) | (with_reducible apply wf_foldl (hg := fun _ _ _ => ?_)) | (with_reducible apply wf_foldl_fst (hg := fun _ _ _ => ?_)) | split | dsimp only | (with_reducible apply wf_with_hst))

theorem writeSystem_wf (s : State) (path : Path) (p : Nat) (v : Word) (h₀ : Memory.wf s = true) : Memory.wf (writeSystem s path p v) = true := by
  unfold writeSystem
  try dsimp only
  repeat' (first | (with_reducible assumption) | (with_reducible rfl) | (with_reducible apply wf_ite) | (with_reducible apply wf_ite_fst) | (with_reducible apply writeLaneShd_wf) | (with_reducible apply writeCtrl_wf) | (with_reducible apply writeRefAdj_wf) | (with_reducible apply writeStrCfg_wf) | (with_reducible apply lcRequest_wf) | (with_reducible apply writeTsCtrl_wf) | (with_reducible apply writeQspiCtrl_wf) | (with_reducible apply kSelect_wf) | (with_reducible apply storeCoded_wf) | (with_reducible apply qspiBufWrite_wf) | (with_reducible apply injectArm_wf) | (with_reducible apply writeTwnCfg_wf) | (with_reducible apply writeHstCfg_wf) | (with_reducible apply writeLimit_wf) | (with_reducible apply writeTwnCtrl_wf) | (with_reducible apply logFlush_wf) | (with_reducible apply wf_foldl (hg := fun _ _ _ => ?_)) | (with_reducible apply wf_foldl_fst (hg := fun _ _ _ => ?_)) | split | dsimp only)

theorem writeAudio_wf (s : State) (p : Nat) (v : Word) (h₀ : Memory.wf s = true) : Memory.wf (writeAudio s p v) = true := by
  unfold writeAudio
  try dsimp only
  repeat' (first | (with_reducible assumption) | (with_reducible apply wf_ite) | (with_reducible apply wf_ite_fst) | (with_reducible apply routeWrite_wf) | (with_reducible apply writeScnCfg_wf) | (with_reducible apply writeMbCore_wf) | (with_reducible apply csSelect_wf) | (with_reducible apply storeCoded_wf) | (with_reducible apply writeScfg_wf) | (with_reducible apply ptpConfigure_wf) | (with_reducible apply writeScnArm_wf) | (with_reducible apply writeStreamReg_wf) | (with_reducible apply stepNow_wf) | (with_reducible apply mixWrite_wf) | (with_reducible apply wf_foldl (hg := fun _ _ _ => ?_)) | (with_reducible apply wf_foldl_fst (hg := fun _ _ _ => ?_)) | split | dsimp only)

theorem writeChannel_wf (s : State) (p : Nat) (v : Word) (h₀ : Memory.wf s = true) : Memory.wf (writeChannel s p v) = true := by
  unfold writeChannel
  try dsimp only
  repeat' (first | (with_reducible assumption) | (with_reducible apply wf_ite) | (with_reducible apply wf_ite_fst) | (with_reducible apply laWrite_wf) | (with_reducible apply storeCoded_wf) | (with_reducible apply writeMute_wf) | (with_reducible apply chModWrite_wf) | (with_reducible apply writeLimit_wf) | (with_reducible apply bankWrite_wf) | (with_reducible apply writeTclr_wf) | (with_reducible apply wf_foldl (hg := fun _ _ _ => ?_)) | (with_reducible apply wf_foldl_fst (hg := fun _ _ _ => ?_)) | split | dsimp only)

theorem writeLeg_wf (s : State) (p : Nat) (v : Word) (h₀ : Memory.wf s = true) : Memory.wf (writeLeg s p v) = true := by
  unfold writeLeg
  try dsimp only
  repeat' (first | (with_reducible assumption) | (with_reducible apply wf_ite) | (with_reducible apply wf_ite_fst) | (with_reducible apply writeLim_wf) | (with_reducible apply hostCompare_wf) | (with_reducible apply storeCoded_wf) | (with_reducible apply writeDt_wf) | (with_reducible apply writeLimit_wf) | (with_reducible apply wf_foldl (hg := fun _ _ _ => ?_)) | (with_reducible apply wf_foldl_fst (hg := fun _ _ _ => ?_)) | split | dsimp only)

theorem writeSense_wf (s : State) (p : Nat) (v : Word) (h₀ : Memory.wf s = true) : Memory.wf (writeSense s p v) = true := by
  unfold writeSense
  try dsimp only
  repeat' (first | (with_reducible assumption) | (with_reducible apply wf_ite) | (with_reducible apply wf_ite_fst) | (with_reducible apply storeCoded_wf) | (with_reducible apply wf_foldl (hg := fun _ _ _ => ?_)) | (with_reducible apply wf_foldl_fst (hg := fun _ _ _ => ?_)) | split | dsimp only)

theorem writeLane_wf (s : State) (p : Nat) (v : Word) (h₀ : Memory.wf s = true) : Memory.wf (writeLane s p v) = true := by
  unfold writeLane
  try dsimp only
  repeat' (first | (with_reducible assumption) | (with_reducible apply wf_ite) | (with_reducible apply wf_ite_fst) | (with_reducible apply writeZout_wf) | (with_reducible apply writeOctl_wf) | (with_reducible apply storeCoded_wf) | (with_reducible apply lanePdataWrite_wf) | (with_reducible apply writeLanePtr_wf) | (with_reducible apply writeFe_wf) | (with_reducible apply coefWrite_wf) | (with_reducible apply swapNow_wf) | (with_reducible apply wf_foldl (hg := fun _ _ _ => ?_)) | (with_reducible apply wf_foldl_fst (hg := fun _ _ _ => ?_)) | split | dsimp only)

theorem writeSpeaker_wf (s : State) (p : Nat) (v : Word) (h₀ : Memory.wf s = true) : Memory.wf (writeSpeaker s p v) = true := by
  unfold writeSpeaker
  try dsimp only
  repeat' (first | (with_reducible assumption) | (with_reducible apply wf_ite) | (with_reducible apply wf_ite_fst) | (with_reducible apply spkPdataWrite_wf) | (with_reducible apply storeCoded_wf) | (with_reducible apply writeSpkPtr_wf) | (with_reducible apply clrLoad_wf) | (with_reducible apply wf_foldl (hg := fun _ _ _ => ?_)) | (with_reducible apply wf_foldl_fst (hg := fun _ _ _ => ?_)) | split | dsimp only)

theorem writeDiag_wf (s : State) (p : Nat) (v : Word) (h₀ : Memory.wf s = true) : Memory.wf (writeDiag s p v) = true := by
  unfold writeDiag
  try dsimp only
  repeat' (first | (with_reducible assumption) | (with_reducible rfl) | (with_reducible apply wf_ite) | (with_reducible apply wf_ite_fst) | (with_reducible apply writeDiaCfg_wf) | (with_reducible apply writeSwcfg_wf) | (with_reducible apply writeSwctrl_wf) | (with_reducible apply writeSwptr_wf) | (with_reducible apply storeCoded_wf) | (with_reducible apply wf_foldl (hg := fun _ _ _ => ?_)) | (with_reducible apply wf_foldl_fst (hg := fun _ _ _ => ?_)) | split | dsimp only)

theorem writeRing_wf (s : State) (path : Path) (p : Nat) (v : Word) (h₀ : Memory.wf s = true) : Memory.wf (writeRing s path p v) = true := by
  unfold writeRing
  try dsimp only
  repeat' (first | (with_reducible assumption) | (with_reducible rfl) | (with_reducible apply wf_ite) | (with_reducible apply wf_ite_fst) | (with_reducible apply ringConfig_wf) | (with_reducible apply ringPush_wf) | (with_reducible apply ringStage_wf) | (with_reducible apply storeCoded_wf) | (with_reducible apply wf_foldl (hg := fun _ _ _ => ?_)) | (with_reducible apply wf_foldl_fst (hg := fun _ _ _ => ?_)) | split | dsimp only)

theorem writeTraceBlock_wf (s : State) (p : Nat) (v : Word) (h₀ : Memory.wf s = true) : Memory.wf (writeTraceBlock s p v) = true := by
  unfold writeTraceBlock
  try dsimp only
  repeat' (first | (with_reducible assumption) | (with_reducible apply wf_ite) | (with_reducible apply wf_ite_fst) | (with_reducible apply writeTrc_wf) | (with_reducible apply storeCoded_wf) | (with_reducible apply writeTrcCtrl_wf) | (with_reducible apply wf_foldl (hg := fun _ _ _ => ?_)) | (with_reducible apply wf_foldl_fst (hg := fun _ _ _ => ?_)) | split | dsimp only)

theorem writeManager_wf (s : State) (p : Nat) (v : Word) (h₀ : Memory.wf s = true) : Memory.wf (writeManager s p v) = true := by
  unfold writeManager
  try dsimp only
  repeat' (first | (with_reducible assumption) | (with_reducible apply wf_ite) | (with_reducible apply wf_ite_fst) | (with_reducible apply writeCqNs_wf) | (with_reducible apply storeCoded_wf) | (with_reducible apply writeCqctrl_wf) | (with_reducible apply wf_foldl (hg := fun _ _ _ => ?_)) | (with_reducible apply wf_foldl_fst (hg := fun _ _ _ => ?_)) | split | dsimp only)

theorem regWrite_wf (s : State) (path : Path) (p : Nat) (v : Word) (h₀ : Memory.wf s = true) : Memory.wf (regWrite s path p v) = true := by
  unfold regWrite
  try dsimp only
  repeat' (first | (with_reducible assumption) | (with_reducible rfl) | (with_reducible apply wf_ite) | (with_reducible apply wf_ite_fst) | (with_reducible apply writeLane_wf) | (with_reducible apply writeLeg_wf) | (with_reducible apply writeSpeaker_wf) | (with_reducible apply writeRing_wf) | (with_reducible apply writeChannel_wf) | (with_reducible apply writeManager_wf) | (with_reducible apply writeAudio_wf) | (with_reducible apply storeCoded_wf) | (with_reducible apply writeTraceBlock_wf) | (with_reducible apply writeSense_wf) | (with_reducible apply writeSystem_wf) | (with_reducible apply writeDiag_wf) | (with_reducible apply wf_foldl (hg := fun _ _ _ => ?_)) | (with_reducible apply wf_foldl_fst (hg := fun _ _ _ => ?_)) | split | dsimp only)

theorem regWrites_wf (s : State) (path : Path) (ws : List (Nat × Word)) (h₀ : Memory.wf s = true) : Memory.wf (regWrites s path ws) = true := by
  unfold regWrites
  try dsimp only
  repeat' (first | (with_reducible assumption) | (with_reducible rfl) | (with_reducible apply wf_ite) | (with_reducible apply wf_ite_fst) | (with_reducible apply regWrite_wf) | (with_reducible apply wf_foldl (hg := fun _ _ _ => ?_)) | (with_reducible apply wf_foldl_fst (hg := fun _ _ _ => ?_)) | split | dsimp only)

theorem latchWords_wf (s : State) (side p : Nat) (ws : List Word) (h₀ : Memory.wf s = true) : Memory.wf (latchWords s side p ws) = true := by
  unfold latchWords
  refine wf_ite (wf_with_scn _ _ h₀) (wf_ite (State.snsUp_wf _ _ h₀) ?_)
  refine wf_foldl (fun t a h => ?_) h₀
  rw [wf_iff] at *; exact ⟨h.1, h.2.1, h.2.2.1, h.2.2.2.1, kvWf_kvPut _ _ _ _ h.2.2.2.2⟩

theorem windowRead_wf {s t : State} {host : Bool} {p : Nat} (h₀ : Memory.wf s = true) (h : windowRead s host p = some t) :
    Memory.wf t = true := by
  unfold windowRead at h
  refine ite_some_cases (P := fun t => Memory.wf t = true) h (csRead_wf _ h₀) (fun h => ?_)
  refine ite_some_cases (P := fun t => Memory.wf t = true) h (mixRead_wf _ h₀) (fun h => ?_)
  refine ite_some_cases (P := fun t => Memory.wf t = true) h (State.answer_wf _ _ h₀) (fun h => ?_)
  refine ite_some_cases (P := fun t => Memory.wf t = true) h (qspiBufRead_wf _ h₀) (fun h => ?_)
  refine ite_some_cases (P := fun t => Memory.wf t = true) h (bankRead_wf _ _ h₀) (fun h => ?_)
  refine ite_some_cases (P := fun t => Memory.wf t = true) h (lanePdataRead_wf _ _ h₀) (fun h => ?_)
  refine ite_some_cases (P := fun t => Memory.wf t = true) h (laneLdataRead_wf _ _ h₀) (fun h => ?_)
  refine ite_some_cases (P := fun t => Memory.wf t = true) h (spkPdataRead_wf _ _ h₀) (fun h => ?_)
  refine ite_some_cases (P := fun t => Memory.wf t = true) h (spkLdataRead_wf _ _ h₀) (fun h => ?_)
  refine ite_some_cases (P := fun t => Memory.wf t = true) h (sweepDataRead_wf _ _ h₀) (fun h => ?_)
  refine ite_some_cases (P := fun t => Memory.wf t = true) h (traceRead_wf _ h₀) (fun h => ?_)
  refine ite_some_cases (P := fun t => Memory.wf t = true) h (ringFetch_wf _ _ _ h₀) (fun h => ?_)
  refine ite_some_cases (P := fun t => Memory.wf t = true) h (ringConsume_wf _ _ _ h₀) (fun h => ?_)
  refine ite_some_cases (P := fun t => Memory.wf t = true) h (State.answer_wf _ _ h₀) (fun h => ?_)
  exact nomatch h
theorem readEffect_wf (s : State) (path : Path) (p : Nat) (cap : List Word) (h₀ : Memory.wf s = true) : Memory.wf (readEffect s path p cap) = true := by
  unfold readEffect
  refine wf_ite h₀ ?_
  split
  · rename_i h; exact State.answer_wf _ _ (windowRead_wf h₀ h)
  · exact wf_ite h₀ (latchWords_wf _ _ _ _ h₀)

theorem regRead_wf (s : State) (path : Path) (p : Nat) (h₀ : Memory.wf s = true) : Memory.wf (regRead s path p) = true := by
  unfold regRead
  try dsimp only
  repeat' (first | (with_reducible assumption) | (with_reducible rfl) | (with_reducible apply wf_ite) | (with_reducible apply wf_ite_fst) | (with_reducible apply readEffect_wf) | (with_reducible apply State.answer_wf) | (with_reducible apply wf_foldl (hg := fun _ _ _ => ?_)) | (with_reducible apply wf_foldl_fst (hg := fun _ _ _ => ?_)) | split | dsimp only)

end Sys2Proof.Machine
end

