-- ==== Sys2Proof/Laws/FrameStringsRun.lean ====
section
/-! SUPPORT. Laws/FrameStringsRun.lean: what the operations of Machine/StringsRun.lean may change (f_only; f_step after what went before), and
that each keeps the memories' canonical form (f_wf). -/

set_option Elab.async false
set_option linter.all false

namespace Sys2Proof.Machine

theorem acknowledge_only (s : State) (cseq code : Nat) : Only [.str] s (acknowledge s cseq code) := by
  unfold acknowledge
  try dsimp only
  repeat' (first | (with_reducible exact Only.refl _ _) | (with_reducible apply Only.ite) | (with_reducible apply Only.ite_fst) | (with_reducible apply State.strUp_step (hm := by decide)) | (with_reducible apply Only.foldl (hg := fun _ _ => ?_)) | (with_reducible apply Only.foldl_fst (hg := fun _ _ => ?_)) | split | dsimp only)
theorem acknowledge_step {l₀ : List Part} {s₀ : State} (s : State) (cseq code : Nat) (h₀ : Only l₀ s₀ s) (hm : [.str] ⊆ l₀) : Only l₀ s₀ (acknowledge s cseq code) :=
  h₀.step (acknowledge_only s cseq code) hm

theorem applyRingw_only (s : State) (cseq : Nat) (p : List Byte) : Only [.regs, .banks, .mem, .rings, .str] s (applyRingw s cseq p) := by
  unfold applyRingw
  try dsimp only
  repeat' (first | (with_reducible exact Only.refl _ _) | (with_reducible apply Only.ite) | (with_reducible apply Only.ite_fst) | (with_reducible apply State.raise_step (hm := by decide)) | (with_reducible apply acknowledge_step (hm := by decide)) | (with_reducible apply cmdPush_step (hm := by decide)) | (with_reducible apply Only.foldl (hg := fun _ _ => ?_)) | (with_reducible apply Only.foldl_fst (hg := fun _ _ => ?_)) | (with_reducible refine Only.of_fst (by assumption) ?_) | split | dsimp only)
theorem applyRingw_step {l₀ : List Part} {s₀ : State} (s : State) (cseq : Nat) (p : List Byte) (h₀ : Only l₀ s₀ s) (hm : [.regs, .banks, .mem, .rings, .str] ⊆ l₀) : Only l₀ s₀ (applyRingw s cseq p) :=
  h₀.step (applyRingw_only s cseq p) hm

theorem applyUnfold_only (s : State) (cseq : Nat) (p : List Byte) : Only [.str] s (applyUnfold s cseq p) := by
  unfold applyUnfold
  try dsimp only
  repeat' (first | (with_reducible exact Only.refl _ _) | (with_reducible apply Only.ite) | (with_reducible apply Only.ite_fst) | (with_reducible apply State.strUp_step (hm := by decide)) | (with_reducible apply acknowledge_step (hm := by decide)) | (with_reducible apply Only.foldl (hg := fun _ _ => ?_)) | (with_reducible apply Only.foldl_fst (hg := fun _ _ => ?_)) | split | dsimp only)
theorem applyUnfold_step {l₀ : List Part} {s₀ : State} (s : State) (cseq : Nat) (p : List Byte) (h₀ : Only l₀ s₀ s) (hm : [.str] ⊆ l₀) : Only l₀ s₀ (applyUnfold s cseq p) :=
  h₀.step (applyUnfold_only s cseq p) hm

theorem applyAssign_only (s : State) (cseq : Nat) (p : List Byte) : Only [.regs, .str] s (applyAssign s cseq p) := by
  unfold applyAssign
  try dsimp only
  repeat' (first | (with_reducible exact Only.refl _ _) | (with_reducible apply Only.ite) | (with_reducible apply Only.ite_fst) | (with_reducible apply acknowledge_step (hm := by decide)) | (with_reducible apply State.set_step (hm := by decide)) | (with_reducible apply State.strUp_step (hm := by decide)) | (with_reducible apply Only.foldl (hg := fun _ _ => ?_)) | (with_reducible apply Only.foldl_fst (hg := fun _ _ => ?_)) | split | dsimp only)
theorem applyAssign_step {l₀ : List Part} {s₀ : State} (s : State) (cseq : Nat) (p : List Byte) (h₀ : Only l₀ s₀ s) (hm : [.regs, .str] ⊆ l₀) : Only l₀ s₀ (applyAssign s cseq p) :=
  h₀.step (applyAssign_only s cseq p) hm

theorem writeSlot_only (s : State) (f : RingFrame) : Only [.regs, .str] s (writeSlot s f) := by
  unfold writeSlot
  try dsimp only
  repeat' (first | (with_reducible exact Only.refl _ _) | (with_reducible apply Only.ite) | (with_reducible apply Only.ite_fst) | (with_reducible apply State.raise_step (hm := by decide)) | (with_reducible apply State.set_step (hm := by decide)) | (with_reducible apply State.strUp_step (hm := by decide)) | (with_reducible apply Only.foldl (hg := fun _ _ => ?_)) | (with_reducible apply Only.foldl_fst (hg := fun _ _ => ?_)) | split | dsimp only)
theorem writeSlot_step {l₀ : List Part} {s₀ : State} (s : State) (f : RingFrame) (h₀ : Only l₀ s₀ s) (hm : [.regs, .str] ⊆ l₀) : Only l₀ s₀ (writeSlot s f) :=
  h₀.step (writeSlot_only s f) hm

theorem frameSeen_only (s : State) (f : RingFrame) : Only [.regs, .conds, .str] s (frameSeen s f) := by
  unfold frameSeen
  try dsimp only
  repeat' (first | (with_reducible exact Only.refl _ _) | (with_reducible apply Only.ite) | (with_reducible apply Only.ite_fst) | (with_reducible apply State.set_step (hm := by decide)) | (with_reducible apply State.setB_step (hm := by decide)) | (with_reducible apply State.cond_step (hm := by decide)) | (with_reducible apply State.strUp_step (hm := by decide)) | (with_reducible apply Only.foldl (hg := fun _ _ => ?_)) | (with_reducible apply Only.foldl_fst (hg := fun _ _ => ?_)) | split | dsimp only)
theorem frameSeen_step {l₀ : List Part} {s₀ : State} (s : State) (f : RingFrame) (h₀ : Only l₀ s₀ s) (hm : [.regs, .conds, .str] ⊆ l₀) : Only l₀ s₀ (frameSeen s f) :=
  h₀.step (frameSeen_only s f) hm

theorem originConflict_only (s : State) (f : RingFrame) : Only [.regs, .str] s (originConflict s f) := by
  unfold originConflict
  try dsimp only
  repeat' (first | (with_reducible exact Only.refl _ _) | (with_reducible apply Only.ite) | (with_reducible apply Only.ite_fst) | (with_reducible apply State.raise_step (hm := by decide)) | (with_reducible apply State.strUp_step (hm := by decide)) | (with_reducible apply Only.foldl (hg := fun _ _ => ?_)) | (with_reducible apply Only.foldl_fst (hg := fun _ _ => ?_)) | split | dsimp only)
theorem originConflict_step {l₀ : List Part} {s₀ : State} (s : State) (f : RingFrame) (h₀ : Only l₀ s₀ s) (hm : [.regs, .str] ⊆ l₀) : Only l₀ s₀ (originConflict s f) :=
  h₀.step (originConflict_only s f) hm

theorem forwardFrame_only (s : State) (f : RingFrame) (wrote : Bool) : Only [.regs, .str] s (forwardFrame s f wrote) := by
  unfold forwardFrame
  try dsimp only
  repeat' (first | (with_reducible exact Only.refl _ _) | (with_reducible apply Only.ite) | (with_reducible apply Only.ite_fst) | (with_reducible apply State.set_step (hm := by decide)) | (with_reducible apply State.strUp_step (hm := by decide)) | (with_reducible apply Only.foldl (hg := fun _ _ => ?_)) | (with_reducible apply Only.foldl_fst (hg := fun _ _ => ?_)) | split | dsimp only)
theorem forwardFrame_step {l₀ : List Part} {s₀ : State} (s : State) (f : RingFrame) (wrote : Bool) (h₀ : Only l₀ s₀ s) (hm : [.regs, .str] ⊆ l₀) : Only l₀ s₀ (forwardFrame s f wrote) :=
  h₀.step (forwardFrame_only s f wrote) hm

theorem masterAddress_only (s : State) (enum : Bool) : Only [.regs, .str] s (masterAddress s enum) := by
  unfold masterAddress
  try dsimp only
  repeat' (first | (with_reducible exact Only.refl _ _) | (with_reducible apply Only.ite) | (with_reducible apply Only.ite_fst) | (with_reducible apply State.set_step (hm := by decide)) | (with_reducible apply State.raise_step (hm := by decide)) | (with_reducible apply State.strUp_step (hm := by decide)) | (with_reducible apply Only.foldl (hg := fun _ _ => ?_)) | (with_reducible apply Only.foldl_fst (hg := fun _ _ => ?_)) | split | dsimp only)
theorem masterAddress_step {l₀ : List Part} {s₀ : State} (s : State) (enum : Bool) (h₀ : Only l₀ s₀ s) (hm : [.regs, .str] ⊆ l₀) : Only l₀ s₀ (masterAddress s enum) :=
  h₀.step (masterAddress_only s enum) hm

theorem takeCommand_only (s : State) : Only [.regs, .str] s (takeCommand s) := by
  unfold takeCommand
  try dsimp only
  repeat' (first | (with_reducible exact Only.refl _ _) | (with_reducible apply Only.ite) | (with_reducible apply Only.ite_fst) | (with_reducible apply State.raise_step (hm := by decide)) | (with_reducible apply cqResult_step (hm := by decide)) | (with_reducible apply State.strUp_step (hm := by decide)) | (with_reducible apply Only.foldl (hg := fun _ _ => ?_)) | (with_reducible apply Only.foldl_fst (hg := fun _ _ => ?_)) | split | dsimp only)
theorem takeCommand_step {l₀ : List Part} {s₀ : State} (s : State) (h₀ : Only l₀ s₀ s) (hm : [.regs, .str] ⊆ l₀) : Only l₀ s₀ (takeCommand s) :=
  h₀.step (takeCommand_only s) hm

theorem takeSlot_only (f : RingFrame) (up : Bool) (s : State) (n : Nat) : Only [.regs, .str] s (takeSlot f up s n) := by
  unfold takeSlot
  try dsimp only
  repeat' (first | (with_reducible exact Only.refl _ _) | (with_reducible apply Only.ite) | (with_reducible apply Only.ite_fst) | (with_reducible apply State.set_step (hm := by decide)) | (with_reducible apply State.strUp_step (hm := by decide)) | (with_reducible apply State.wr_step (hm := by decide)) | (with_reducible apply Only.foldl (hg := fun _ _ => ?_)) | (with_reducible apply Only.foldl_fst (hg := fun _ _ => ?_)) | split | dsimp only)
theorem takeSlot_step {l₀ : List Part} {s₀ : State} (f : RingFrame) (up : Bool) (s : State) (n : Nat) (h₀ : Only l₀ s₀ s) (hm : [.regs, .str] ⊆ l₀) : Only l₀ s₀ (takeSlot f up s n) :=
  h₀.step (takeSlot_only f up s n) hm

theorem ownCommand_only (s : State) (ctype : Nat) (payload : List Byte) : Only [.str] s (ownCommand s ctype payload) := by
  unfold ownCommand
  try dsimp only
  repeat' (first | (with_reducible exact Only.refl _ _) | (with_reducible apply Only.ite) | (with_reducible apply Only.ite_fst) | (with_reducible apply State.strUp_step (hm := by decide)) | (with_reducible apply Only.foldl (hg := fun _ _ => ?_)) | (with_reducible apply Only.foldl_fst (hg := fun _ _ => ?_)) | split | dsimp only)
theorem ownCommand_step {l₀ : List Part} {s₀ : State} (s : State) (ctype : Nat) (payload : List Byte) (h₀ : Only l₀ s₀ s) (hm : [.str] ⊆ l₀) : Only l₀ s₀ (ownCommand s ctype payload) :=
  h₀.step (ownCommand_only s ctype payload) hm

theorem sendAssigns_only (s : State) : Only [.str] s (sendAssigns s) := by
  unfold sendAssigns
  try dsimp only
  repeat' (first | (with_reducible exact Only.refl _ _) | (with_reducible apply Only.ite) | (with_reducible apply Only.ite_fst) | (with_reducible apply ownCommand_step (hm := by decide)) | (with_reducible apply Only.foldl (hg := fun _ _ => ?_)) | (with_reducible apply Only.foldl_fst (hg := fun _ _ => ?_)) | split | dsimp only)
theorem sendAssigns_step {l₀ : List Part} {s₀ : State} (s : State) (h₀ : Only l₀ s₀ s) (hm : [.str] ⊆ l₀) : Only l₀ s₀ (sendAssigns s) :=
  h₀.step (sendAssigns_only s) hm

theorem enumerated_only (s : State) (f : RingFrame) : Only [.regs, .str] s (enumerated s f) := by
  unfold enumerated
  try dsimp only
  repeat' (first | (with_reducible exact Only.refl _ _) | (with_reducible apply Only.ite) | (with_reducible apply Only.ite_fst) | (with_reducible apply State.raiseIf_step (hm := by decide)) | (with_reducible apply sendAssigns_step (hm := by decide)) | (with_reducible apply State.strUp_step (hm := by decide)) | (with_reducible apply Only.foldl (hg := fun _ _ => ?_)) | (with_reducible apply Only.foldl_fst (hg := fun _ _ => ?_)) | split | dsimp only)
theorem enumerated_step {l₀ : List Part} {s₀ : State} (s : State) (f : RingFrame) (h₀ : Only l₀ s₀ s) (hm : [.regs, .str] ⊆ l₀) : Only l₀ s₀ (enumerated s f) :=
  h₀.step (enumerated_only s f) hm

theorem unfoldRing_only (s : State) (f : RingFrame) : Only [.str] s (unfoldRing s f) := by
  unfold unfoldRing
  try dsimp only
  repeat' (first | (with_reducible exact Only.refl _ _) | (with_reducible apply Only.ite) | (with_reducible apply Only.ite_fst) | (with_reducible apply ownCommand_step (hm := by decide)) | (with_reducible apply Only.foldl (hg := fun _ _ => ?_)) | (with_reducible apply Only.foldl_fst (hg := fun _ _ => ?_)) | split | dsimp only)
theorem unfoldRing_step {l₀ : List Part} {s₀ : State} (s : State) (f : RingFrame) (h₀ : Only l₀ s₀ s) (hm : [.str] ⊆ l₀) : Only l₀ s₀ (unfoldRing s f) :=
  h₀.step (unfoldRing_only s f) hm

theorem judgeCommand_only (s : State) : Only [.regs, .str] s (judgeCommand s) := by
  unfold judgeCommand
  try dsimp only
  repeat' (first | (with_reducible exact Only.refl _ _) | (with_reducible apply Only.ite) | (with_reducible apply Only.ite_fst) | (with_reducible apply State.strUp_step (hm := by decide)) | (with_reducible apply cqResult_step (hm := by decide)) | (with_reducible apply Only.foldl (hg := fun _ _ => ?_)) | (with_reducible apply Only.foldl_fst (hg := fun _ _ => ?_)) | split | dsimp only)
theorem judgeCommand_step {l₀ : List Part} {s₀ : State} (s : State) (h₀ : Only l₀ s₀ s) (hm : [.regs, .str] ⊆ l₀) : Only l₀ s₀ (judgeCommand s) :=
  h₀.step (judgeCommand_only s) hm

theorem frameReturn_only (s : State) (f : RingFrame) (up : Bool) : Only [.regs, .conds, .str] s (frameReturn s f up) := by
  unfold frameReturn
  try dsimp only
  repeat' (first | (with_reducible exact Only.refl _ _) | (with_reducible apply Only.ite) | (with_reducible apply Only.ite_fst) | (with_reducible apply enumerated_step (hm := by decide)) | (with_reducible apply State.raise_step (hm := by decide)) | (with_reducible apply unfoldRing_step (hm := by decide)) | (with_reducible apply judgeCommand_step (hm := by decide)) | (with_reducible apply State.set_step (hm := by decide)) | (with_reducible apply failCarried_step (hm := by decide)) | (with_reducible apply originConflict_step (hm := by decide)) | (with_reducible apply takeSlot_step (hm := by decide)) | (with_reducible apply State.setB_step (hm := by decide)) | (with_reducible apply State.cond_step (hm := by decide)) | (with_reducible apply State.strUp_step (hm := by decide)) | (with_reducible apply Only.foldl (hg := fun _ _ => ?_)) | (with_reducible apply Only.foldl_fst (hg := fun _ _ => ?_)) | split | dsimp only)
theorem frameReturn_step {l₀ : List Part} {s₀ : State} (s : State) (f : RingFrame) (up : Bool) (h₀ : Only l₀ s₀ s) (hm : [.regs, .conds, .str] ⊆ l₀) : Only l₀ s₀ (frameReturn s f up) :=
  h₀.step (frameReturn_only s f up) hm

/-! ### The canonical form -/

theorem acknowledge_wf (s : State) (cseq code : Nat) (h₀ : Memory.wf s = true) : Memory.wf (acknowledge s cseq code) = true :=
  Only.wf (acknowledge_only s cseq code) (by decide) h₀

theorem applyRegw_wf (s : State) (cseq : Nat) (p : List Byte) (h₀ : Memory.wf s = true) : Memory.wf (applyRegw s cseq p) = true := by
  unfold applyRegw
  try dsimp only
  repeat' (first | (with_reducible assumption) | (with_reducible rfl) | (with_reducible apply wf_ite) | (with_reducible apply wf_ite_fst) | (with_reducible apply acknowledge_wf) | (with_reducible apply regWrites_wf) | (with_reducible apply wf_foldl (hg := fun _ _ _ => ?_)) | (with_reducible apply wf_foldl_fst (hg := fun _ _ _ => ?_)) | split | dsimp only)

theorem applyRingw_wf (s : State) (cseq : Nat) (p : List Byte) (h₀ : Memory.wf s = true) : Memory.wf (applyRingw s cseq p) = true := by
  unfold applyRingw
  try dsimp only
  repeat' (first | (with_reducible assumption) | (with_reducible rfl) | (with_reducible apply wf_ite) | (with_reducible apply wf_ite_fst) | (with_reducible apply cmdPush_wf) | (with_reducible apply State.raise_wf) | (with_reducible apply acknowledge_wf) | (with_reducible apply wf_foldl (hg := fun _ _ _ => ?_)) | (with_reducible apply wf_foldl_fst (hg := fun _ _ _ => ?_)) | (with_reducible refine wf_of_fst (by assumption) ?_) | split | dsimp only)

theorem applyCommit_wf (s : State) (cseq : Nat) (p : List Byte) (h₀ : Memory.wf s = true) : Memory.wf (applyCommit s cseq p) = true := by
  unfold applyCommit
  try dsimp only
  repeat' (first | (with_reducible assumption) | (with_reducible rfl) | (with_reducible apply wf_ite) | (with_reducible apply wf_ite_fst) | (with_reducible apply acknowledge_wf) | (with_reducible apply regWrites_wf) | (with_reducible apply regWrite_wf) | (with_reducible apply wf_foldl (hg := fun _ _ _ => ?_)) | (with_reducible apply wf_foldl_fst (hg := fun _ _ _ => ?_)) | split | dsimp only)

theorem applyAbort_wf (s : State) (cseq : Nat) (h₀ : Memory.wf s = true) : Memory.wf (applyAbort s cseq) = true := by
  unfold applyAbort
  try dsimp only
  repeat' (first | (with_reducible assumption) | (with_reducible rfl) | (with_reducible apply wf_ite) | (with_reducible apply wf_ite_fst) | (with_reducible apply regWrite_wf) | (with_reducible apply acknowledge_wf) | (with_reducible apply wf_foldl (hg := fun _ _ _ => ?_)) | (with_reducible apply wf_foldl_fst (hg := fun _ _ _ => ?_)) | split | dsimp only)

theorem applyUnfold_wf (s : State) (cseq : Nat) (p : List Byte) (h₀ : Memory.wf s = true) : Memory.wf (applyUnfold s cseq p) = true :=
  Only.wf (applyUnfold_only s cseq p) (by decide) h₀

theorem applyAssign_wf (s : State) (cseq : Nat) (p : List Byte) (h₀ : Memory.wf s = true) : Memory.wf (applyAssign s cseq p) = true := by
  unfold applyAssign
  try dsimp only
  repeat' (first | (with_reducible assumption) | (with_reducible apply wf_ite) | (with_reducible apply wf_ite_fst) | (with_reducible apply State.strUp_wf) | (with_reducible apply State.set_wf) | (with_reducible apply acknowledge_wf) | (with_reducible apply wf_foldl (hg := fun _ _ _ => ?_)) | (with_reducible apply wf_foldl_fst (hg := fun _ _ _ => ?_)) | split | dsimp only)

theorem applyCommand_wf (s : State) (ctype cseq : Nat) (p : List Byte) (h₀ : Memory.wf s = true) : Memory.wf (applyCommand s ctype cseq p) = true := by
  unfold applyCommand
  try dsimp only
  repeat' (first | (with_reducible assumption) | (with_reducible rfl) | (with_reducible apply wf_ite) | (with_reducible apply wf_ite_fst) | (with_reducible apply applyAbort_wf) | (with_reducible apply applyUnfold_wf) | (with_reducible apply applyRegw_wf) | (with_reducible apply applyCommit_wf) | (with_reducible apply applyAssign_wf) | (with_reducible apply acknowledge_wf) | (with_reducible apply applyRingw_wf) | (with_reducible apply wf_foldl (hg := fun _ _ _ => ?_)) | (with_reducible apply wf_foldl_fst (hg := fun _ _ _ => ?_)) | split | dsimp only)

theorem deliver_wf (s : State) (c : StrCmd) (h₀ : Memory.wf s = true) : Memory.wf (deliver s c) = true := by
  unfold deliver
  try dsimp only
  repeat' (first | (with_reducible assumption) | (with_reducible rfl) | (with_reducible apply wf_ite) | (with_reducible apply wf_ite_fst) | (with_reducible apply onceOnly_wf (hf := fun _ _ => ?_)) | (with_reducible apply applyCommand_wf) | (with_reducible apply wf_foldl (hg := fun _ _ _ => ?_)) | (with_reducible apply wf_foldl_fst (hg := fun _ _ _ => ?_)) | split | dsimp only)

theorem writeSlot_wf (s : State) (f : RingFrame) (h₀ : Memory.wf s = true) : Memory.wf (writeSlot s f) = true := by
  unfold writeSlot
  try dsimp only
  repeat' (first | (with_reducible assumption) | (with_reducible apply wf_ite) | (with_reducible apply wf_ite_fst) | (with_reducible apply State.strUp_wf) | (with_reducible apply State.set_wf) | (with_reducible apply State.raise_wf) | (with_reducible apply wf_foldl (hg := fun _ _ _ => ?_)) | (with_reducible apply wf_foldl_fst (hg := fun _ _ _ => ?_)) | split | dsimp only)

theorem frameSeen_wf (s : State) (f : RingFrame) (h₀ : Memory.wf s = true) : Memory.wf (frameSeen s f) = true := by
  unfold frameSeen
  try dsimp only
  repeat' (first | (with_reducible assumption) | (with_reducible apply wf_ite) | (with_reducible apply wf_ite_fst) | (with_reducible apply State.setB_wf) | (with_reducible apply State.strUp_wf) | (with_reducible apply State.set_wf) | (with_reducible apply State.cond_wf) | (with_reducible apply wf_foldl (hg := fun _ _ _ => ?_)) | (with_reducible apply wf_foldl_fst (hg := fun _ _ _ => ?_)) | split | dsimp only)

theorem originConflict_wf (s : State) (f : RingFrame) (h₀ : Memory.wf s = true) : Memory.wf (originConflict s f) = true := by
  unfold originConflict
  try dsimp only
  repeat' (first | (with_reducible assumption) | (with_reducible apply wf_ite) | (with_reducible apply wf_ite_fst) | (with_reducible apply State.raise_wf) | (with_reducible apply State.strUp_wf) | (with_reducible apply wf_foldl (hg := fun _ _ _ => ?_)) | (with_reducible apply wf_foldl_fst (hg := fun _ _ _ => ?_)) | split | dsimp only)

theorem forwardFrame_wf (s : State) (f : RingFrame) (wrote : Bool) (h₀ : Memory.wf s = true) : Memory.wf (forwardFrame s f wrote) = true := by
  unfold forwardFrame
  try dsimp only
  repeat' (first | (with_reducible assumption) | (with_reducible apply wf_ite) | (with_reducible apply wf_ite_fst) | (with_reducible apply State.strUp_wf) | (with_reducible apply State.set_wf) | (with_reducible apply wf_foldl (hg := fun _ _ _ => ?_)) | (with_reducible apply wf_foldl_fst (hg := fun _ _ _ => ?_)) | split | dsimp only)

theorem frameRx_wf (s : State) (f : RingFrame) (h₀ : Memory.wf s = true) : Memory.wf (frameRx s f) = true := by
  unfold frameRx
  try dsimp only
  repeat' (first | (with_reducible assumption) | (with_reducible rfl) | (with_reducible apply wf_ite) | (with_reducible apply wf_ite_fst) | (with_reducible apply frameSeen_wf) | (with_reducible apply writeSlot_wf) | (with_reducible apply State.raiseIf_wf) | (with_reducible apply foldAtSof_wf) | (with_reducible apply forwardFrame_wf) | (with_reducible apply deliver_wf) | (with_reducible apply State.raise_wf) | (with_reducible apply State.cond_wf) | (with_reducible apply originConflict_wf) | (with_reducible apply wf_foldl (hg := fun _ _ _ => ?_)) | (with_reducible apply wf_foldl_fst (hg := fun _ _ _ => ?_)) | split | dsimp only)

theorem masterAddress_wf (s : State) (enum : Bool) (h₀ : Memory.wf s = true) : Memory.wf (masterAddress s enum) = true := by
  unfold masterAddress
  try dsimp only
  repeat' (first | (with_reducible assumption) | (with_reducible apply wf_ite) | (with_reducible apply wf_ite_fst) | (with_reducible apply State.strUp_wf) | (with_reducible apply State.raise_wf) | (with_reducible apply State.set_wf) | (with_reducible apply wf_foldl (hg := fun _ _ _ => ?_)) | (with_reducible apply wf_foldl_fst (hg := fun _ _ _ => ?_)) | split | dsimp only)

theorem takeCommand_wf (s : State) (h₀ : Memory.wf s = true) : Memory.wf (takeCommand s) = true := by
  unfold takeCommand
  try dsimp only
  repeat' (first | (with_reducible assumption) | (with_reducible apply wf_ite) | (with_reducible apply wf_ite_fst) | (with_reducible apply State.strUp_wf) | (with_reducible apply cqResult_wf) | (with_reducible apply State.raise_wf) | (with_reducible apply wf_foldl (hg := fun _ _ _ => ?_)) | (with_reducible apply wf_foldl_fst (hg := fun _ _ _ => ?_)) | split | dsimp only)

theorem frameStart_wf (s : State) (h₀ : Memory.wf s = true) : Memory.wf (frameStart s) = true := by
  unfold frameStart
  try dsimp only
  repeat' (first | (with_reducible assumption) | (with_reducible rfl) | (with_reducible apply wf_ite) | (with_reducible apply wf_ite_fst) | (with_reducible apply takeCommand_wf) | (with_reducible apply State.strUp_wf) | (with_reducible apply masterAddress_wf) | (with_reducible apply deliver_wf) | (with_reducible apply foldAtSof_wf) | (with_reducible apply wf_foldl (hg := fun _ _ _ => ?_)) | (with_reducible apply wf_foldl_fst (hg := fun _ _ _ => ?_)) | split | dsimp only)

theorem takeSlot_wf (f : RingFrame) (up : Bool) (s : State) (n : Nat) (h₀ : Memory.wf s = true) : Memory.wf (takeSlot f up s n) = true := by
  unfold takeSlot
  try dsimp only
  repeat' (first | (with_reducible assumption) | (with_reducible apply wf_ite) | (with_reducible apply wf_ite_fst) | (with_reducible apply State.strUp_wf) | (with_reducible apply State.set_wf) | (with_reducible apply State.wr_wf) | (with_reducible apply wf_foldl (hg := fun _ _ _ => ?_)) | (with_reducible apply wf_foldl_fst (hg := fun _ _ _ => ?_)) | split | dsimp only)

theorem ownCommand_wf (s : State) (ctype : Nat) (payload : List Byte) (h₀ : Memory.wf s = true) : Memory.wf (ownCommand s ctype payload) = true :=
  Only.wf (ownCommand_only s ctype payload) (by decide) h₀

theorem sendAssigns_wf (s : State) (h₀ : Memory.wf s = true) : Memory.wf (sendAssigns s) = true :=
  Only.wf (sendAssigns_only s) (by decide) h₀

theorem enumerated_wf (s : State) (f : RingFrame) (h₀ : Memory.wf s = true) : Memory.wf (enumerated s f) = true := by
  unfold enumerated
  try dsimp only
  repeat' (first | (with_reducible assumption) | (with_reducible apply wf_ite) | (with_reducible apply wf_ite_fst) | (with_reducible apply State.raiseIf_wf) | (with_reducible apply State.strUp_wf) | (with_reducible apply sendAssigns_wf) | (with_reducible apply wf_foldl (hg := fun _ _ _ => ?_)) | (with_reducible apply wf_foldl_fst (hg := fun _ _ _ => ?_)) | split | dsimp only)

theorem unfoldRing_wf (s : State) (f : RingFrame) (h₀ : Memory.wf s = true) : Memory.wf (unfoldRing s f) = true :=
  Only.wf (unfoldRing_only s f) (by decide) h₀

theorem judgeCommand_wf (s : State) (h₀ : Memory.wf s = true) : Memory.wf (judgeCommand s) = true := by
  unfold judgeCommand
  try dsimp only
  repeat' (first | (with_reducible assumption) | (with_reducible apply wf_ite) | (with_reducible apply wf_ite_fst) | (with_reducible apply State.strUp_wf) | (with_reducible apply cqResult_wf) | (with_reducible apply wf_foldl (hg := fun _ _ _ => ?_)) | (with_reducible apply wf_foldl_fst (hg := fun _ _ _ => ?_)) | split | dsimp only)

theorem frameReturn_wf (s : State) (f : RingFrame) (up : Bool) (h₀ : Memory.wf s = true) : Memory.wf (frameReturn s f up) = true := by
  unfold frameReturn
  try dsimp only
  repeat' (first | (with_reducible assumption) | (with_reducible apply wf_ite) | (with_reducible apply wf_ite_fst) | (with_reducible apply takeSlot_wf) | (with_reducible apply State.setB_wf) | (with_reducible apply State.strUp_wf) | (with_reducible apply unfoldRing_wf) | (with_reducible apply failCarried_wf) | (with_reducible apply judgeCommand_wf) | (with_reducible apply State.set_wf) | (with_reducible apply enumerated_wf) | (with_reducible apply State.raise_wf) | (with_reducible apply State.cond_wf) | (with_reducible apply originConflict_wf) | (with_reducible apply wf_foldl (hg := fun _ _ _ => ?_)) | (with_reducible apply wf_foldl_fst (hg := fun _ _ _ => ?_)) | split | dsimp only)

end Sys2Proof.Machine
end

