-- ==== Sys2Proof/Laws/FrameFabric.lean ====
section
/-! SUPPORT. Laws/FrameFabric.lean: what the operations of Machine/Fabric.lean may change (f_only; f_step after what went before), and
that each keeps the memories' canonical form (f_wf). -/

set_option Elab.async false
set_option linter.all false

namespace Sys2Proof.Machine

theorem State.fabUp_only (s : State) (f : Fab → Fab) : Only [.fab] s (State.fabUp s f) := by
  unfold State.fabUp
  try dsimp only
  repeat' (first | (with_reducible exact Only.refl _ _) | (with_reducible apply Only.ite) | (with_reducible apply Only.ite_fst) | (with_reducible apply Only.foldl (hg := fun _ _ => ?_)) | (with_reducible apply Only.foldl_fst (hg := fun _ _ => ?_)) | split | dsimp only | (with_reducible apply only_with_fab_step (hm := by decide)))
theorem State.fabUp_step {l₀ : List Part} {s₀ : State} (s : State) (f : Fab → Fab) (h₀ : Only l₀ s₀ s) (hm : [.fab] ⊆ l₀) : Only l₀ s₀ (State.fabUp s f) :=
  h₀.step (State.fabUp_only s f) hm

theorem fabLog_only (s : State) (r : FabReq) (kind : Nat) : Only [.regs] s (fabLog s r kind) := by
  unfold fabLog
  try dsimp only
  repeat' (first | (with_reducible exact Only.refl _ _) | (with_reducible apply Only.ite) | (with_reducible apply Only.ite_fst) | (with_reducible apply State.wr_step (hm := by decide)) | (with_reducible apply State.set_step (hm := by decide)) | (with_reducible apply State.setB_step (hm := by decide)) | (with_reducible apply Only.foldl (hg := fun _ _ => ?_)) | (with_reducible apply Only.foldl_fst (hg := fun _ _ => ?_)) | split | dsimp only)
theorem fabLog_step {l₀ : List Part} {s₀ : State} (s : State) (r : FabReq) (kind : Nat) (h₀ : Only l₀ s₀ s) (hm : [.regs] ⊆ l₀) : Only l₀ s₀ (fabLog s r kind) :=
  h₀.step (fabLog_only s r kind) hm

theorem readBeat_only (s0 : State) (m t a : Nat) (flash : Quad) (err : BitVec 145) : Only [.regs, .banks, .conds, .rdata, .free, .scn, .sense, .vent, .mem, .rings] s0 (readBeat s0 m t a flash err).1 := by
  unfold readBeat
  try dsimp only
  repeat' (first | (with_reducible exact Only.refl _ _) | (with_reducible apply Only.ite) | (with_reducible apply Only.ite_fst) | (with_reducible apply regRead_step (hm := by decide)) | (with_reducible apply foundError_step (hm := by decide)) | (with_reducible apply transitError_step (hm := by decide)) | (with_reducible apply Only.foldl (hg := fun _ _ => ?_)) | (with_reducible apply Only.foldl_fst (hg := fun _ _ => ?_)) | (with_reducible refine Only.of_fst (by assumption) ?_) | split | dsimp only | (with_reducible apply only_with_free_step (hm := by decide)))
theorem readBeat_step {l₀ : List Part} {s₀ : State} (s0 : State) (m t a : Nat) (flash : Quad) (err : BitVec 145) (h₀ : Only l₀ s₀ s0) (hm : [.regs, .banks, .conds, .rdata, .free, .scn, .sense, .vent, .mem, .rings] ⊆ l₀) : Only l₀ s₀ (readBeat s0 m t a flash err).1 :=
  h₀.step (readBeat_only s0 m t a flash err) hm

theorem readBeats_only (s : State) (t : Nat) (r : FabReq) (flash : List Quad) (errs : List (BitVec 145)) : Only [.regs, .banks, .conds, .rdata, .free, .scn, .sense, .vent, .mem, .rings] s (readBeats s t r flash errs).1 := by
  unfold readBeats
  try dsimp only
  repeat' (first | (with_reducible exact Only.refl _ _) | (with_reducible apply Only.ite) | (with_reducible apply Only.ite_fst) | (with_reducible apply readBeat_step (hm := by decide)) | (with_reducible apply Only.foldl (hg := fun _ _ => ?_)) | (with_reducible apply Only.foldl_fst (hg := fun _ _ => ?_)) | (with_reducible refine Only.of_fst (by assumption) ?_) | split | dsimp only)
theorem readBeats_step {l₀ : List Part} {s₀ : State} (s : State) (t : Nat) (r : FabReq) (flash : List Quad) (errs : List (BitVec 145)) (h₀ : Only l₀ s₀ s) (hm : [.regs, .banks, .conds, .rdata, .free, .scn, .sense, .vent, .mem, .rings] ⊆ l₀) : Only l₀ s₀ (readBeats s t r flash errs).1 :=
  h₀.step (readBeats_only s t r flash errs) hm

theorem respond_only (s : State) (m : Nat) (err : Bool) (data : List Quad) : Only [.regs, .fab] s (respond s m err data) := by
  unfold respond
  try dsimp only
  repeat' (first | (with_reducible exact Only.refl _ _) | (with_reducible apply Only.ite) | (with_reducible apply Only.ite_fst) | (with_reducible apply State.set_step (hm := by decide)) | (with_reducible apply State.fabUp_step (hm := by decide)) | (with_reducible apply Only.foldl (hg := fun _ _ => ?_)) | (with_reducible apply Only.foldl_fst (hg := fun _ _ => ?_)) | split | dsimp only)
theorem respond_step {l₀ : List Part} {s₀ : State} (s : State) (m : Nat) (err : Bool) (data : List Quad) (h₀ : Only l₀ s₀ s) (hm : [.regs, .fab] ⊆ l₀) : Only l₀ s₀ (respond s m err data) :=
  h₀.step (respond_only s m err data) hm

theorem errorResponse_only (s : State) (r : FabReq) : Only [.regs, .fab] s (errorResponse s r) := by
  unfold errorResponse
  try dsimp only
  repeat' (first | (with_reducible exact Only.refl _ _) | (with_reducible apply Only.ite) | (with_reducible apply Only.ite_fst) | (with_reducible apply respond_step (hm := by decide)) | (with_reducible apply Only.foldl (hg := fun _ _ => ?_)) | (with_reducible apply Only.foldl_fst (hg := fun _ _ => ?_)) | split | dsimp only)
theorem errorResponse_step {l₀ : List Part} {s₀ : State} (s : State) (r : FabReq) (h₀ : Only l₀ s₀ s) (hm : [.regs, .fab] ⊆ l₀) : Only l₀ s₀ (errorResponse s r) :=
  h₀.step (errorResponse_only s r) hm

theorem popCommit_only (s : State) (path : Path) (p : Nat) (v : Word) : Only [.hst] s (popCommit s path p v) := by
  unfold popCommit
  try dsimp only
  repeat' (first | (with_reducible exact Only.refl _ _) | (with_reducible apply Only.ite) | (with_reducible apply Only.ite_fst) | (with_reducible apply Only.foldl (hg := fun _ _ => ?_)) | (with_reducible apply Only.foldl_fst (hg := fun _ _ => ?_)) | split | dsimp only | (with_reducible apply only_with_hst_step (hm := by decide)))
theorem popCommit_step {l₀ : List Part} {s₀ : State} (s : State) (path : Path) (p : Nat) (v : Word) (h₀ : Only l₀ s₀ s) (hm : [.hst] ⊆ l₀) : Only l₀ s₀ (popCommit s path p v) :=
  h₀.step (popCommit_only s path p v) hm

theorem popGranted_only (s : State) (r : FabReq) : Only [.hst] s (popGranted s r) := by
  unfold popGranted
  try dsimp only
  repeat' (first | (with_reducible exact Only.refl _ _) | (with_reducible apply Only.ite) | (with_reducible apply Only.ite_fst) | (with_reducible apply popCommit_step (hm := by decide)) | (with_reducible apply Only.foldl (hg := fun _ _ => ?_)) | (with_reducible apply Only.foldl_fst (hg := fun _ _ => ?_)) | split | dsimp only)
theorem popGranted_step {l₀ : List Part} {s₀ : State} (s : State) (r : FabReq) (h₀ : Only l₀ s₀ s) (hm : [.hst] ⊆ l₀) : Only l₀ s₀ (popGranted s r) :=
  h₀.step (popGranted_only s r) hm

theorem portDown_only (s : State) (port : Nat) : Only [.regs] s (portDown s port) := by
  unfold portDown
  try dsimp only
  repeat' (first | (with_reducible exact Only.refl _ _) | (with_reducible apply Only.ite) | (with_reducible apply Only.ite_fst) | (with_reducible apply State.set_step (hm := by decide)) | (with_reducible apply State.raise_step (hm := by decide)) | (with_reducible apply Only.foldl (hg := fun _ _ => ?_)) | (with_reducible apply Only.foldl_fst (hg := fun _ _ => ?_)) | split | dsimp only)
theorem portDown_step {l₀ : List Part} {s₀ : State} (s : State) (port : Nat) (h₀ : Only l₀ s₀ s) (hm : [.regs] ⊆ l₀) : Only l₀ s₀ (portDown s port) :=
  h₀.step (portDown_only s port) hm

theorem fabricTimeout_only (s : State) (port : Nat) : Only [.regs, .fab] s (fabricTimeout s port) := by
  unfold fabricTimeout
  try dsimp only
  repeat' (first | (with_reducible exact Only.refl _ _) | (with_reducible apply Only.ite) | (with_reducible apply Only.ite_fst) | (with_reducible apply State.raise_step (hm := by decide)) | (with_reducible apply portDown_step (hm := by decide)) | (with_reducible apply errorResponse_step (hm := by decide)) | (with_reducible apply fabLog_step (hm := by decide)) | (with_reducible apply Only.foldl (hg := fun _ _ => ?_)) | (with_reducible apply Only.foldl_fst (hg := fun _ _ => ?_)) | split | dsimp only)
theorem fabricTimeout_step {l₀ : List Part} {s₀ : State} (s : State) (port : Nat) (h₀ : Only l₀ s₀ s) (hm : [.regs, .fab] ⊆ l₀) : Only l₀ s₀ (fabricTimeout s port) :=
  h₀.step (fabricTimeout_only s port) hm

theorem portProbe_only (s : State) (answered : List Nat) : Only [.regs] s (portProbe s answered) := by
  unfold portProbe
  try dsimp only
  repeat' (first | (with_reducible exact Only.refl _ _) | (with_reducible apply Only.ite) | (with_reducible apply Only.ite_fst) | (with_reducible apply State.set_step (hm := by decide)) | (with_reducible apply Only.foldl (hg := fun _ _ => ?_)) | (with_reducible apply Only.foldl_fst (hg := fun _ _ => ?_)) | split | dsimp only)
theorem portProbe_step {l₀ : List Part} {s₀ : State} (s : State) (answered : List Nat) (h₀ : Only l₀ s₀ s) (hm : [.regs] ⊆ l₀) : Only l₀ s₀ (portProbe s answered) :=
  h₀.step (portProbe_only s answered) hm

/-! ### The canonical form -/

theorem State.fabUp_wf (s : State) (f : Fab → Fab) (h₀ : Memory.wf s = true) : Memory.wf (State.fabUp s f) = true :=
  Only.wf (State.fabUp_only s f) (by decide) h₀

theorem fabLog_wf (s : State) (r : FabReq) (kind : Nat) (h₀ : Memory.wf s = true) : Memory.wf (fabLog s r kind) = true := by
  unfold fabLog
  try dsimp only
  repeat' (first | (with_reducible assumption) | (with_reducible apply wf_ite) | (with_reducible apply wf_ite_fst) | (with_reducible apply State.setB_wf) | (with_reducible apply State.set_wf) | (with_reducible apply State.wr_wf) | (with_reducible apply wf_foldl (hg := fun _ _ _ => ?_)) | (with_reducible apply wf_foldl_fst (hg := fun _ _ _ => ?_)) | split | dsimp only)

theorem writeRegs_wf (s : State) (m a : Nat) (q : Quad) (strobes : Word16) (h₀ : Memory.wf s = true) : Memory.wf (writeRegs s m a q strobes) = true := by
  unfold writeRegs
  try dsimp only
  repeat' (first | (with_reducible assumption) | (with_reducible rfl) | (with_reducible apply wf_ite) | (with_reducible apply wf_ite_fst) | (with_reducible apply regWrite_wf) | (with_reducible apply wf_foldl (hg := fun _ _ _ => ?_)) | (with_reducible apply wf_foldl_fst (hg := fun _ _ _ => ?_)) | split | dsimp only)

theorem putWord_wf (s : State) (k : Nat) (v : Quad) (h : Memory.wf s = true) :
    Memory.wf (s.memUp fun x => { x with words := kvPut quadDefault x.words k v }) = true := by
  unfold State.memUp; rw [wf_iff] at *; exact ⟨h.1, h.2.1, h.2.2.1, kvWf_kvPut _ _ _ _ h.2.2.2.1, h.2.2.2.2⟩

theorem writeBeat_wf (s0 : State) (m t a : Nat) (q : Quad) (strobes : Word16) (err : BitVec 145) (h₀ : Memory.wf s0 = true) : Memory.wf (writeBeat s0 m t a q strobes err) = true := by
  unfold writeBeat
  try dsimp only
  repeat' (first | (with_reducible assumption) | (with_reducible apply wf_ite) | (with_reducible apply wf_ite_fst) | (with_reducible apply transitError_wf) | (with_reducible apply foundError_wf) | (with_reducible apply writeRegs_wf) | (with_reducible apply setErr_wf) | (with_reducible apply bankWritten_wf) | (with_reducible apply putWord_wf) | (with_reducible apply regWrite_wf) | (with_reducible apply wf_foldl (hg := fun _ _ _ => ?_)))

theorem readBeat_wf (s0 : State) (m t a : Nat) (flash : Quad) (err : BitVec 145) (h₀ : Memory.wf s0 = true) : Memory.wf (readBeat s0 m t a flash err).1 = true := by
  unfold readBeat
  try dsimp only
  repeat' (first | (with_reducible assumption) | (with_reducible rfl) | (with_reducible apply wf_ite) | (with_reducible apply wf_ite_fst) | (with_reducible apply foundError_wf) | (with_reducible apply regRead_wf) | (with_reducible apply transitError_wf) | (with_reducible apply wf_foldl (hg := fun _ _ _ => ?_)) | (with_reducible apply wf_foldl_fst (hg := fun _ _ _ => ?_)) | (with_reducible refine wf_of_fst (by assumption) ?_) | split | dsimp only | (with_reducible apply wf_with_free))

theorem writeBeats_wf (s : State) (t : Nat) (r : FabReq) (first last : Nat) (h₀ : Memory.wf s = true) : Memory.wf (writeBeats s t r first last) = true := by
  unfold writeBeats
  try dsimp only
  repeat' (first | (with_reducible assumption) | (with_reducible rfl) | (with_reducible apply wf_ite) | (with_reducible apply wf_ite_fst) | (with_reducible apply writeBeat_wf) | (with_reducible apply wf_foldl (hg := fun _ _ _ => ?_)) | (with_reducible apply wf_foldl_fst (hg := fun _ _ _ => ?_)) | split | dsimp only)

theorem readBeats_wf (s : State) (t : Nat) (r : FabReq) (flash : List Quad) (errs : List (BitVec 145)) (h₀ : Memory.wf s = true) : Memory.wf (readBeats s t r flash errs).1 = true := by
  unfold readBeats
  try dsimp only
  repeat' (first | (with_reducible assumption) | (with_reducible rfl) | (with_reducible apply wf_ite) | (with_reducible apply wf_ite_fst) | (with_reducible apply readBeat_wf) | (with_reducible apply wf_foldl (hg := fun _ _ _ => ?_)) | (with_reducible apply wf_foldl_fst (hg := fun _ _ _ => ?_)) | (with_reducible refine wf_of_fst (by assumption) ?_) | split | dsimp only)

theorem respond_wf (s : State) (m : Nat) (err : Bool) (data : List Quad) (h₀ : Memory.wf s = true) : Memory.wf (respond s m err data) = true := by
  unfold respond
  try dsimp only
  repeat' (first | (with_reducible assumption) | (with_reducible apply wf_ite) | (with_reducible apply wf_ite_fst) | (with_reducible apply State.fabUp_wf) | (with_reducible apply State.set_wf) | (with_reducible apply wf_foldl (hg := fun _ _ _ => ?_)) | (with_reducible apply wf_foldl_fst (hg := fun _ _ _ => ?_)) | split | dsimp only)

theorem errorResponse_wf (s : State) (r : FabReq) (h₀ : Memory.wf s = true) : Memory.wf (errorResponse s r) = true := by
  unfold errorResponse
  try dsimp only
  repeat' (first | (with_reducible assumption) | (with_reducible apply wf_ite) | (with_reducible apply wf_ite_fst) | (with_reducible apply respond_wf) | (with_reducible apply wf_foldl (hg := fun _ _ _ => ?_)) | (with_reducible apply wf_foldl_fst (hg := fun _ _ _ => ?_)) | split | dsimp only)

theorem popCommit_wf (s : State) (path : Path) (p : Nat) (v : Word) (h₀ : Memory.wf s = true) : Memory.wf (popCommit s path p v) = true :=
  Only.wf (popCommit_only s path p v) (by decide) h₀

theorem popGranted_wf (s : State) (r : FabReq) (h₀ : Memory.wf s = true) : Memory.wf (popGranted s r) = true :=
  Only.wf (popGranted_only s r) (by decide) h₀

theorem grantTo_wf (s : State) (port : Nat) (r : FabReq) (h₀ : Memory.wf s = true) : Memory.wf (grantTo s port r) = true := by
  unfold grantTo
  try dsimp only
  repeat' (first | (with_reducible assumption) | (with_reducible rfl) | (with_reducible apply wf_ite) | (with_reducible apply wf_ite_fst) | (with_reducible apply State.raise_wf) | (with_reducible apply writeBeats_wf) | (with_reducible apply errorResponse_wf) | (with_reducible apply State.set_wf) | (with_reducible apply popGranted_wf) | (with_reducible apply State.fabUp_wf) | (with_reducible apply fabLog_wf) | (with_reducible apply wf_foldl (hg := fun _ _ _ => ?_)) | (with_reducible apply wf_foldl_fst (hg := fun _ _ _ => ?_)) | split | dsimp only)

theorem fabricGrant_wf (s : State) (port : Nat) (reqs : List FabReq) (h₀ : Memory.wf s = true) : Memory.wf (fabricGrant s port reqs) = true := by
  unfold fabricGrant
  try dsimp only
  repeat' (first | (with_reducible assumption) | (with_reducible rfl) | (with_reducible apply wf_ite) | (with_reducible apply wf_ite_fst) | (with_reducible apply errorResponse_wf) | (with_reducible apply grantTo_wf) | (with_reducible apply wf_foldl (hg := fun _ _ _ => ?_)) | (with_reducible apply wf_foldl_fst (hg := fun _ _ _ => ?_)) | split | dsimp only)

theorem fabricResponse_wf (s : State) (m : Nat) (data : List Quad) (errs : List (BitVec 145)) (h₀ : Memory.wf s = true) : Memory.wf (fabricResponse s m data errs) = true := by
  unfold fabricResponse
  try dsimp only
  repeat' (first | (with_reducible assumption) | (with_reducible rfl) | (with_reducible apply wf_ite) | (with_reducible apply wf_ite_fst) | (with_reducible apply writeBeats_wf) | (with_reducible apply readBeats_wf) | (with_reducible apply errorResponse_wf) | (with_reducible apply respond_wf) | (with_reducible apply State.raise_wf) | (with_reducible apply fabLog_wf) | (with_reducible apply wf_foldl (hg := fun _ _ _ => ?_)) | (with_reducible apply wf_foldl_fst (hg := fun _ _ _ => ?_)) | (with_reducible refine wf_of_fst (by assumption) ?_) | split | dsimp only)

theorem portDown_wf (s : State) (port : Nat) (h₀ : Memory.wf s = true) : Memory.wf (portDown s port) = true := by
  unfold portDown
  try dsimp only
  repeat' (first | (with_reducible assumption) | (with_reducible apply wf_ite) | (with_reducible apply wf_ite_fst) | (with_reducible apply State.raise_wf) | (with_reducible apply State.set_wf) | (with_reducible apply wf_foldl (hg := fun _ _ _ => ?_)) | (with_reducible apply wf_foldl_fst (hg := fun _ _ _ => ?_)) | split | dsimp only)

theorem fabricTimeout_wf (s : State) (port : Nat) (h₀ : Memory.wf s = true) : Memory.wf (fabricTimeout s port) = true := by
  unfold fabricTimeout
  try dsimp only
  repeat' (first | (with_reducible assumption) | (with_reducible apply wf_ite) | (with_reducible apply wf_ite_fst) | (with_reducible apply portDown_wf) | (with_reducible apply errorResponse_wf) | (with_reducible apply State.raise_wf) | (with_reducible apply fabLog_wf) | (with_reducible apply wf_foldl (hg := fun _ _ _ => ?_)) | (with_reducible apply wf_foldl_fst (hg := fun _ _ _ => ?_)) | split | dsimp only)

theorem portProbe_wf (s : State) (answered : List Nat) (h₀ : Memory.wf s = true) : Memory.wf (portProbe s answered) = true := by
  unfold portProbe
  try dsimp only
  repeat' (first | (with_reducible assumption) | (with_reducible apply wf_ite) | (with_reducible apply wf_ite_fst) | (with_reducible apply State.set_wf) | (with_reducible apply wf_foldl (hg := fun _ _ _ => ?_)) | (with_reducible apply wf_foldl_fst (hg := fun _ _ _ => ?_)) | split | dsimp only)

theorem masterReset_wf (s : State) (m beats : Nat) (h₀ : Memory.wf s = true) : Memory.wf (masterReset s m beats) = true := by
  unfold masterReset
  try dsimp only
  repeat' (first | (with_reducible assumption) | (with_reducible rfl) | (with_reducible apply wf_ite) | (with_reducible apply wf_ite_fst) | (with_reducible apply writeBeats_wf) | (with_reducible apply State.set_wf) | (with_reducible apply State.raise_wf) | (with_reducible apply State.fabUp_wf) | (with_reducible apply fabLog_wf) | (with_reducible apply wf_foldl (hg := fun _ _ _ => ?_)) | (with_reducible apply wf_foldl_fst (hg := fun _ _ _ => ?_)) | split | dsimp only)

theorem mgmtReset_wf (s : State) (h₀ : Memory.wf s = true) : Memory.wf (mgmtReset s) = true := by
  unfold mgmtReset
  try dsimp only
  repeat' (first | (with_reducible assumption) | (with_reducible rfl) | (with_reducible apply wf_ite) | (with_reducible apply wf_ite_fst) | (with_reducible apply State.sysUp_wf) | (with_reducible apply masterReset_wf) | (with_reducible apply wf_foldl (hg := fun _ _ _ => ?_)) | (with_reducible apply wf_foldl_fst (hg := fun _ _ _ => ?_)) | split | dsimp only)

end Sys2Proof.Machine
end

