-- ==== Sys2Proof/Laws/FrameHost.lean ====
section
/-! SUPPORT. Laws/FrameHost.lean: what the operations of Machine/Host.lean may change (f_only; f_step after what went before), and
that each keeps the memories' canonical form (f_wf). -/

set_option Elab.async false
set_option linter.all false

namespace Sys2Proof.Machine

theorem State.hstUp_only (s : State) (f : Hst → Hst) : Only [.hst] s (State.hstUp s f) := by
  unfold State.hstUp
  try dsimp only
  repeat' (first | (with_reducible exact Only.refl _ _) | (with_reducible apply Only.ite) | (with_reducible apply Only.ite_fst) | (with_reducible apply Only.foldl (hg := fun _ _ => ?_)) | (with_reducible apply Only.foldl_fst (hg := fun _ _ => ?_)) | split | dsimp only | (with_reducible apply only_with_hst_step (hm := by decide)))
theorem State.hstUp_step {l₀ : List Part} {s₀ : State} (s : State) (f : Hst → Hst) (h₀ : Only l₀ s₀ s) (hm : [.hst] ⊆ l₀) : Only l₀ s₀ (State.hstUp s f) :=
  h₀.step (State.hstUp_only s f) hm

theorem linesHigh_only (s : State) : Only [.regs, .conds] s (linesHigh s) := by
  unfold linesHigh
  try dsimp only
  repeat' (first | (with_reducible exact Only.refl _ _) | (with_reducible apply Only.ite) | (with_reducible apply Only.ite_fst) | (with_reducible apply State.cond_step (hm := by decide)) | (with_reducible apply Only.foldl (hg := fun _ _ => ?_)) | (with_reducible apply Only.foldl_fst (hg := fun _ _ => ?_)) | split | dsimp only)
theorem linesHigh_step {l₀ : List Part} {s₀ : State} (s : State) (h₀ : Only l₀ s₀ s) (hm : [.regs, .conds] ⊆ l₀) : Only l₀ s₀ (linesHigh s) :=
  h₀.step (linesHigh_only s) hm

theorem hostStart_only (s : State) : Only [.regs, .conds, .hst] s (hostStart s) := by
  unfold hostStart
  try dsimp only
  repeat' (first | (with_reducible exact Only.refl _ _) | (with_reducible apply Only.ite) | (with_reducible apply Only.ite_fst) | (with_reducible apply linesHigh_step (hm := by decide)) | (with_reducible apply State.hstUp_step (hm := by decide)) | (with_reducible apply Only.foldl (hg := fun _ _ => ?_)) | (with_reducible apply Only.foldl_fst (hg := fun _ _ => ?_)) | split | dsimp only)
theorem hostStart_step {l₀ : List Part} {s₀ : State} (s : State) (h₀ : Only l₀ s₀ s) (hm : [.regs, .conds, .hst] ⊆ l₀) : Only l₀ s₀ (hostStart s) :=
  h₀.step (hostStart_only s) hm

theorem refuseAddr_only (s : State) (deaf : Bool) : Only [.hst] s (refuseAddr s deaf) := by
  unfold refuseAddr
  try dsimp only
  repeat' (first | (with_reducible exact Only.refl _ _) | (with_reducible apply Only.ite) | (with_reducible apply Only.ite_fst) | (with_reducible apply State.hstUp_step (hm := by decide)) | (with_reducible apply Only.foldl (hg := fun _ _ => ?_)) | (with_reducible apply Only.foldl_fst (hg := fun _ _ => ?_)) | split | dsimp only)
theorem refuseAddr_step {l₀ : List Part} {s₀ : State} (s : State) (deaf : Bool) (h₀ : Only l₀ s₀ s) (hm : [.hst] ⊆ l₀) : Only l₀ s₀ (refuseAddr s deaf) :=
  h₀.step (refuseAddr_only s deaf) hm

theorem clocked_only (s : State) (ones : Bool) : Only [.regs, .conds] s (clocked s ones) := by
  unfold clocked
  try dsimp only
  repeat' (first | (with_reducible exact Only.refl _ _) | (with_reducible apply Only.ite) | (with_reducible apply Only.ite_fst) | (with_reducible apply State.cond_step (hm := by decide)) | (with_reducible apply Only.foldl (hg := fun _ _ => ?_)) | (with_reducible apply Only.foldl_fst (hg := fun _ _ => ?_)) | split | dsimp only)
theorem clocked_step {l₀ : List Part} {s₀ : State} (s : State) (ones : Bool) (h₀ : Only l₀ s₀ s) (hm : [.regs, .conds] ⊆ l₀) : Only l₀ s₀ (clocked s ones) :=
  h₀.step (clocked_only s ones) hm

theorem hostFetch_only (s : State) (err : BitVec 145) : Only [.regs, .free, .hst] s (hostFetch s err) := by
  unfold hostFetch
  try dsimp only
  repeat' (first | (with_reducible exact Only.refl _ _) | (with_reducible apply Only.ite) | (with_reducible apply Only.ite_fst) | (with_reducible apply State.raiseIf_step (hm := by decide)) | (with_reducible apply State.hstUp_step (hm := by decide)) | (with_reducible apply transitError_step (hm := by decide)) | (with_reducible apply Only.foldl (hg := fun _ _ => ?_)) | (with_reducible apply Only.foldl_fst (hg := fun _ _ => ?_)) | (with_reducible refine Only.of_fst (by assumption) ?_) | split | dsimp only)
theorem hostFetch_step {l₀ : List Part} {s₀ : State} (s : State) (err : BitVec 145) (h₀ : Only l₀ s₀ s) (hm : [.regs, .free, .hst] ⊆ l₀) : Only l₀ s₀ (hostFetch s err) :=
  h₀.step (hostFetch_only s err) hm

theorem acceptAddr_only (s : State) (path : Path) (read : Bool) (err : BitVec 145) : Only [.regs, .free, .hst] s (acceptAddr s path read err) := by
  unfold acceptAddr
  try dsimp only
  repeat' (first | (with_reducible exact Only.refl _ _) | (with_reducible apply Only.ite) | (with_reducible apply Only.ite_fst) | (with_reducible apply State.hstUp_step (hm := by decide)) | (with_reducible apply hostFetch_step (hm := by decide)) | (with_reducible apply Only.foldl (hg := fun _ _ => ?_)) | (with_reducible apply Only.foldl_fst (hg := fun _ _ => ?_)) | split | dsimp only)
theorem acceptAddr_step {l₀ : List Part} {s₀ : State} (s : State) (path : Path) (read : Bool) (err : BitVec 145) (h₀ : Only l₀ s₀ s) (hm : [.regs, .free, .hst] ⊆ l₀) : Only l₀ s₀ (acceptAddr s path read err) :=
  h₀.step (acceptAddr_only s path read err) hm

theorem hostAddress_only (s0 : State) (byte : Byte) (err : BitVec 145) : Only [.regs, .conds, .free, .hst] s0 (hostAddress s0 byte err) := by
  unfold hostAddress
  try dsimp only
  repeat' (first | (with_reducible exact Only.refl _ _) | (with_reducible apply Only.ite) | (with_reducible apply Only.ite_fst) | (with_reducible apply clocked_step (hm := by decide)) | (with_reducible apply State.raiseIf_step (hm := by decide)) | (with_reducible apply acceptAddr_step (hm := by decide)) | (with_reducible apply State.raise_step (hm := by decide)) | (with_reducible apply refuseAddr_step (hm := by decide)) | (with_reducible apply Only.foldl (hg := fun _ _ => ?_)) | (with_reducible apply Only.foldl_fst (hg := fun _ _ => ?_)) | split | dsimp only)
theorem hostAddress_step {l₀ : List Part} {s₀ : State} (s0 : State) (byte : Byte) (err : BitVec 145) (h₀ : Only l₀ s₀ s0) (hm : [.regs, .conds, .free, .hst] ⊆ l₀) : Only l₀ s₀ (hostAddress s0 byte err) :=
  h₀.step (hostAddress_only s0 byte err) hm

theorem hostByteWrite_only (s0 : State) (b : Byte) : Only [.regs, .conds, .hst] s0 (hostByteWrite s0 b) := by
  unfold hostByteWrite
  try dsimp only
  repeat' (first | (with_reducible exact Only.refl _ _) | (with_reducible apply Only.ite) | (with_reducible apply Only.ite_fst) | (with_reducible apply clocked_step (hm := by decide)) | (with_reducible apply State.raise_step (hm := by decide)) | (with_reducible apply State.set_step (hm := by decide)) | (with_reducible apply State.hstUp_step (hm := by decide)) | (with_reducible apply Only.foldl (hg := fun _ _ => ?_)) | (with_reducible apply Only.foldl_fst (hg := fun _ _ => ?_)) | split | dsimp only)
theorem hostByteWrite_step {l₀ : List Part} {s₀ : State} (s0 : State) (b : Byte) (h₀ : Only l₀ s₀ s0) (hm : [.regs, .conds, .hst] ⊆ l₀) : Only l₀ s₀ (hostByteWrite s0 b) :=
  h₀.step (hostByteWrite_only s0 b) hm

theorem hostByteRead_only (s1 : State) (ack : Bool) (err : BitVec 145) : Only [.regs, .banks, .conds, .rdata, .free, .scn, .sense, .vent, .mem, .rings, .hst] s1 (hostByteRead s1 ack err) := by
  unfold hostByteRead
  try dsimp only
  repeat' (first | (with_reducible exact Only.refl _ _) | (with_reducible apply Only.ite) | (with_reducible apply Only.ite_fst) | (with_reducible apply clocked_step (hm := by decide)) | (with_reducible apply hostFetch_step (hm := by decide)) | (with_reducible apply State.set_step (hm := by decide)) | (with_reducible apply readEffect_step (hm := by decide)) | (with_reducible apply State.hstUp_step (hm := by decide)) | (with_reducible apply State.answer_step (hm := by decide)) | (with_reducible apply Only.foldl (hg := fun _ _ => ?_)) | (with_reducible apply Only.foldl_fst (hg := fun _ _ => ?_)) | split | dsimp only)
theorem hostByteRead_step {l₀ : List Part} {s₀ : State} (s1 : State) (ack : Bool) (err : BitVec 145) (h₀ : Only l₀ s₀ s1) (hm : [.regs, .banks, .conds, .rdata, .free, .scn, .sense, .vent, .mem, .rings, .hst] ⊆ l₀) : Only l₀ s₀ (hostByteRead s1 ack err) :=
  h₀.step (hostByteRead_only s1 ack err) hm

theorem endWrite_only (s : State) : Only [.regs, .hst] s (endWrite s) := by
  unfold endWrite
  try dsimp only
  repeat' (first | (with_reducible exact Only.refl _ _) | (with_reducible apply Only.ite) | (with_reducible apply Only.ite_fst) | (with_reducible apply State.raise_step (hm := by decide)) | (with_reducible apply State.hstUp_step (hm := by decide)) | (with_reducible apply Only.foldl (hg := fun _ _ => ?_)) | (with_reducible apply Only.foldl_fst (hg := fun _ _ => ?_)) | split | dsimp only)
theorem endWrite_step {l₀ : List Part} {s₀ : State} (s : State) (h₀ : Only l₀ s₀ s) (hm : [.regs, .hst] ⊆ l₀) : Only l₀ s₀ (endWrite s) :=
  h₀.step (endWrite_only s) hm

theorem discardByte_only (s : State) (midByte : Bool) : Only [.regs] s (discardByte s midByte) := by
  unfold discardByte
  try dsimp only
  repeat' (first | (with_reducible exact Only.refl _ _) | (with_reducible apply Only.ite) | (with_reducible apply Only.ite_fst) | (with_reducible apply State.raiseIf_step (hm := by decide)) | (with_reducible apply Only.foldl (hg := fun _ _ => ?_)) | (with_reducible apply Only.foldl_fst (hg := fun _ _ => ?_)) | split | dsimp only)
theorem discardByte_step {l₀ : List Part} {s₀ : State} (s : State) (midByte : Bool) (h₀ : Only l₀ s₀ s) (hm : [.regs] ⊆ l₀) : Only l₀ s₀ (discardByte s midByte) :=
  h₀.step (discardByte_only s midByte) hm

theorem hostStop_only (s : State) (midByte : Bool) : Only [.regs, .conds, .hst] s (hostStop s midByte) := by
  unfold hostStop
  try dsimp only
  repeat' (first | (with_reducible exact Only.refl _ _) | (with_reducible apply Only.ite) | (with_reducible apply Only.ite_fst) | (with_reducible apply linesHigh_step (hm := by decide)) | (with_reducible apply endWrite_step (hm := by decide)) | (with_reducible apply State.hstUp_step (hm := by decide)) | (with_reducible apply discardByte_step (hm := by decide)) | (with_reducible apply Only.foldl (hg := fun _ _ => ?_)) | (with_reducible apply Only.foldl_fst (hg := fun _ _ => ?_)) | split | dsimp only)
theorem hostStop_step {l₀ : List Part} {s₀ : State} (s : State) (midByte : Bool) (h₀ : Only l₀ s₀ s) (hm : [.regs, .conds, .hst] ⊆ l₀) : Only l₀ s₀ (hostStop s midByte) :=
  h₀.step (hostStop_only s midByte) hm

theorem hostRepeatedStart_only (s : State) (midByte : Bool) : Only [.regs, .conds, .hst] s (hostRepeatedStart s midByte) := by
  unfold hostRepeatedStart
  try dsimp only
  repeat' (first | (with_reducible exact Only.refl _ _) | (with_reducible apply Only.ite) | (with_reducible apply Only.ite_fst) | (with_reducible apply linesHigh_step (hm := by decide)) | (with_reducible apply endWrite_step (hm := by decide)) | (with_reducible apply State.hstUp_step (hm := by decide)) | (with_reducible apply discardByte_step (hm := by decide)) | (with_reducible apply Only.foldl (hg := fun _ _ => ?_)) | (with_reducible apply Only.foldl_fst (hg := fun _ _ => ?_)) | split | dsimp only)
theorem hostRepeatedStart_step {l₀ : List Part} {s₀ : State} (s : State) (midByte : Bool) (h₀ : Only l₀ s₀ s) (hm : [.regs, .conds, .hst] ⊆ l₀) : Only l₀ s₀ (hostRepeatedStart s midByte) :=
  h₀.step (hostRepeatedStart_only s midByte) hm

theorem lineTimeout_only (s : State) (g : Flag) : Only [.regs, .conds, .hst] s (lineTimeout s g) := by
  unfold lineTimeout
  try dsimp only
  repeat' (first | (with_reducible exact Only.refl _ _) | (with_reducible apply Only.ite) | (with_reducible apply Only.ite_fst) | (with_reducible apply State.hstUp_step (hm := by decide)) | (with_reducible apply State.cond_step (hm := by decide)) | (with_reducible apply Only.foldl (hg := fun _ _ => ?_)) | (with_reducible apply Only.foldl_fst (hg := fun _ _ => ?_)) | split | dsimp only)
theorem lineTimeout_step {l₀ : List Part} {s₀ : State} (s : State) (g : Flag) (h₀ : Only l₀ s₀ s) (hm : [.regs, .conds, .hst] ⊆ l₀) : Only l₀ s₀ (lineTimeout s g) :=
  h₀.step (lineTimeout_only s g) hm

theorem ibrStart_only (s : State) : Only [.hst] s (ibrStart s) := by
  unfold ibrStart
  try dsimp only
  repeat' (first | (with_reducible exact Only.refl _ _) | (with_reducible apply Only.ite) | (with_reducible apply Only.ite_fst) | (with_reducible apply State.hstUp_step (hm := by decide)) | (with_reducible apply Only.foldl (hg := fun _ _ => ?_)) | (with_reducible apply Only.foldl_fst (hg := fun _ _ => ?_)) | split | dsimp only)
theorem ibrStart_step {l₀ : List Part} {s₀ : State} (s : State) (h₀ : Only l₀ s₀ s) (hm : [.hst] ⊆ l₀) : Only l₀ s₀ (ibrStart s) :=
  h₀.step (ibrStart_only s) hm

theorem ibrEnd_only (s : State) : Only [.hst] s (ibrEnd s) := by
  unfold ibrEnd
  try dsimp only
  repeat' (first | (with_reducible exact Only.refl _ _) | (with_reducible apply Only.ite) | (with_reducible apply Only.ite_fst) | (with_reducible apply State.hstUp_step (hm := by decide)) | (with_reducible apply Only.foldl (hg := fun _ _ => ?_)) | (with_reducible apply Only.foldl_fst (hg := fun _ _ => ?_)) | split | dsimp only)
theorem ibrEnd_step {l₀ : List Part} {s₀ : State} (s : State) (h₀ : Only l₀ s₀ s) (hm : [.hst] ⊆ l₀) : Only l₀ s₀ (ibrEnd s) :=
  h₀.step (ibrEnd_only s) hm

theorem reqCollide_only (s : State) : Only [.regs, .hst] s (reqCollide s) := by
  unfold reqCollide
  try dsimp only
  repeat' (first | (with_reducible exact Only.refl _ _) | (with_reducible apply Only.ite) | (with_reducible apply Only.ite_fst) | (with_reducible apply State.raise_step (hm := by decide)) | (with_reducible apply State.hstUp_step (hm := by decide)) | (with_reducible apply Only.foldl (hg := fun _ _ => ?_)) | (with_reducible apply Only.foldl_fst (hg := fun _ _ => ?_)) | split | dsimp only)
theorem reqCollide_step {l₀ : List Part} {s₀ : State} (s : State) (h₀ : Only l₀ s₀ s) (hm : [.regs, .hst] ⊆ l₀) : Only l₀ s₀ (reqCollide s) :=
  h₀.step (reqCollide_only s) hm

/-! ### The canonical form -/

theorem State.hstUp_wf (s : State) (f : Hst → Hst) (h₀ : Memory.wf s = true) : Memory.wf (State.hstUp s f) = true :=
  Only.wf (State.hstUp_only s f) (by decide) h₀

theorem linesHigh_wf (s : State) (h₀ : Memory.wf s = true) : Memory.wf (linesHigh s) = true := by
  unfold linesHigh
  try dsimp only
  repeat' (first | (with_reducible assumption) | (with_reducible apply wf_ite) | (with_reducible apply wf_ite_fst) | (with_reducible apply State.cond_wf) | (with_reducible apply wf_foldl (hg := fun _ _ _ => ?_)) | (with_reducible apply wf_foldl_fst (hg := fun _ _ _ => ?_)) | split | dsimp only)

theorem hostStart_wf (s : State) (h₀ : Memory.wf s = true) : Memory.wf (hostStart s) = true := by
  unfold hostStart
  try dsimp only
  repeat' (first | (with_reducible assumption) | (with_reducible apply wf_ite) | (with_reducible apply wf_ite_fst) | (with_reducible apply State.hstUp_wf) | (with_reducible apply linesHigh_wf) | (with_reducible apply wf_foldl (hg := fun _ _ _ => ?_)) | (with_reducible apply wf_foldl_fst (hg := fun _ _ _ => ?_)) | split | dsimp only)

theorem refuseAddr_wf (s : State) (deaf : Bool) (h₀ : Memory.wf s = true) : Memory.wf (refuseAddr s deaf) = true :=
  Only.wf (refuseAddr_only s deaf) (by decide) h₀

theorem clocked_wf (s : State) (ones : Bool) (h₀ : Memory.wf s = true) : Memory.wf (clocked s ones) = true := by
  unfold clocked
  try dsimp only
  repeat' (first | (with_reducible assumption) | (with_reducible apply wf_ite) | (with_reducible apply wf_ite_fst) | (with_reducible apply State.cond_wf) | (with_reducible apply wf_foldl (hg := fun _ _ _ => ?_)) | (with_reducible apply wf_foldl_fst (hg := fun _ _ _ => ?_)) | split | dsimp only)

theorem hostFetch_wf (s : State) (err : BitVec 145) (h₀ : Memory.wf s = true) : Memory.wf (hostFetch s err) = true := by
  unfold hostFetch
  try dsimp only
  repeat' (first | (with_reducible assumption) | (with_reducible apply wf_ite) | (with_reducible apply wf_ite_fst) | (with_reducible apply State.hstUp_wf) | (with_reducible apply State.raiseIf_wf) | (with_reducible apply transitError_wf) | (with_reducible apply wf_foldl (hg := fun _ _ _ => ?_)) | (with_reducible apply wf_foldl_fst (hg := fun _ _ _ => ?_)) | (with_reducible refine wf_of_fst (by assumption) ?_) | split | dsimp only)

theorem acceptAddr_wf (s : State) (path : Path) (read : Bool) (err : BitVec 145) (h₀ : Memory.wf s = true) : Memory.wf (acceptAddr s path read err) = true := by
  unfold acceptAddr
  try dsimp only
  repeat' (first | (with_reducible assumption) | (with_reducible apply wf_ite) | (with_reducible apply wf_ite_fst) | (with_reducible apply hostFetch_wf) | (with_reducible apply State.hstUp_wf) | (with_reducible apply wf_foldl (hg := fun _ _ _ => ?_)) | (with_reducible apply wf_foldl_fst (hg := fun _ _ _ => ?_)) | split | dsimp only)

theorem hostAddress_wf (s0 : State) (byte : Byte) (err : BitVec 145) (h₀ : Memory.wf s0 = true) : Memory.wf (hostAddress s0 byte err) = true := by
  unfold hostAddress
  try dsimp only
  repeat' (first | (with_reducible assumption) | (with_reducible apply wf_ite) | (with_reducible apply wf_ite_fst) | (with_reducible apply State.raiseIf_wf) | (with_reducible apply acceptAddr_wf) | (with_reducible apply clocked_wf) | (with_reducible apply refuseAddr_wf) | (with_reducible apply State.raise_wf) | (with_reducible apply wf_foldl (hg := fun _ _ _ => ?_)) | (with_reducible apply wf_foldl_fst (hg := fun _ _ _ => ?_)) | split | dsimp only)

theorem hostByteWrite_wf (s0 : State) (b : Byte) (h₀ : Memory.wf s0 = true) : Memory.wf (hostByteWrite s0 b) = true := by
  unfold hostByteWrite
  try dsimp only
  repeat' (first | (with_reducible assumption) | (with_reducible apply wf_ite) | (with_reducible apply wf_ite_fst) | (with_reducible apply State.hstUp_wf) | (with_reducible apply clocked_wf) | (with_reducible apply State.set_wf) | (with_reducible apply State.raise_wf) | (with_reducible apply wf_foldl (hg := fun _ _ _ => ?_)) | (with_reducible apply wf_foldl_fst (hg := fun _ _ _ => ?_)) | split | dsimp only)

theorem hostByteRead_wf (s1 : State) (ack : Bool) (err : BitVec 145) (h₀ : Memory.wf s1 = true) : Memory.wf (hostByteRead s1 ack err) = true := by
  unfold hostByteRead
  try dsimp only
  repeat' (first | (with_reducible assumption) | (with_reducible rfl) | (with_reducible apply wf_ite) | (with_reducible apply wf_ite_fst) | (with_reducible apply readEffect_wf) | (with_reducible apply State.hstUp_wf) | (with_reducible apply hostFetch_wf) | (with_reducible apply clocked_wf) | (with_reducible apply State.set_wf) | (with_reducible apply State.answer_wf) | (with_reducible apply wf_foldl (hg := fun _ _ _ => ?_)) | (with_reducible apply wf_foldl_fst (hg := fun _ _ _ => ?_)) | split | dsimp only)

theorem endWrite_wf (s : State) (h₀ : Memory.wf s = true) : Memory.wf (endWrite s) = true := by
  unfold endWrite
  try dsimp only
  repeat' (first | (with_reducible assumption) | (with_reducible apply wf_ite) | (with_reducible apply wf_ite_fst) | (with_reducible apply State.raise_wf) | (with_reducible apply State.hstUp_wf) | (with_reducible apply wf_foldl (hg := fun _ _ _ => ?_)) | (with_reducible apply wf_foldl_fst (hg := fun _ _ _ => ?_)) | split | dsimp only)

theorem discardByte_wf (s : State) (midByte : Bool) (h₀ : Memory.wf s = true) : Memory.wf (discardByte s midByte) = true := by
  unfold discardByte
  try dsimp only
  repeat' (first | (with_reducible assumption) | (with_reducible apply wf_ite) | (with_reducible apply wf_ite_fst) | (with_reducible apply State.raiseIf_wf) | (with_reducible apply wf_foldl (hg := fun _ _ _ => ?_)) | (with_reducible apply wf_foldl_fst (hg := fun _ _ _ => ?_)) | split | dsimp only)

theorem hostStop_wf (s : State) (midByte : Bool) (h₀ : Memory.wf s = true) : Memory.wf (hostStop s midByte) = true := by
  unfold hostStop
  try dsimp only
  repeat' (first | (with_reducible assumption) | (with_reducible apply wf_ite) | (with_reducible apply wf_ite_fst) | (with_reducible apply State.hstUp_wf) | (with_reducible apply endWrite_wf) | (with_reducible apply linesHigh_wf) | (with_reducible apply discardByte_wf) | (with_reducible apply wf_foldl (hg := fun _ _ _ => ?_)) | (with_reducible apply wf_foldl_fst (hg := fun _ _ _ => ?_)) | split | dsimp only)

theorem hostRepeatedStart_wf (s : State) (midByte : Bool) (h₀ : Memory.wf s = true) : Memory.wf (hostRepeatedStart s midByte) = true := by
  unfold hostRepeatedStart
  try dsimp only
  repeat' (first | (with_reducible assumption) | (with_reducible apply wf_ite) | (with_reducible apply wf_ite_fst) | (with_reducible apply State.hstUp_wf) | (with_reducible apply endWrite_wf) | (with_reducible apply linesHigh_wf) | (with_reducible apply discardByte_wf) | (with_reducible apply wf_foldl (hg := fun _ _ _ => ?_)) | (with_reducible apply wf_foldl_fst (hg := fun _ _ _ => ?_)) | split | dsimp only)

theorem commitEnd_wf (s : State) (h₀ : Memory.wf s = true) : Memory.wf (commitEnd s) = true := by
  unfold commitEnd
  try dsimp only
  repeat' (first | (with_reducible assumption) | (with_reducible rfl) | (with_reducible apply wf_ite) | (with_reducible apply wf_ite_fst) | (with_reducible apply State.hstUp_wf) | (with_reducible apply enterReset_wf) | (with_reducible apply regWrites_wf) | (with_reducible apply wf_foldl (hg := fun _ _ _ => ?_)) | (with_reducible apply wf_foldl_fst (hg := fun _ _ _ => ?_)) | split | dsimp only)

theorem lineTimeout_wf (s : State) (g : Flag) (h₀ : Memory.wf s = true) : Memory.wf (lineTimeout s g) = true := by
  unfold lineTimeout
  try dsimp only
  repeat' (first | (with_reducible assumption) | (with_reducible apply wf_ite) | (with_reducible apply wf_ite_fst) | (with_reducible apply State.hstUp_wf) | (with_reducible apply State.cond_wf) | (with_reducible apply wf_foldl (hg := fun _ _ _ => ?_)) | (with_reducible apply wf_foldl_fst (hg := fun _ _ _ => ?_)) | split | dsimp only)

theorem ibrStart_wf (s : State) (h₀ : Memory.wf s = true) : Memory.wf (ibrStart s) = true :=
  Only.wf (ibrStart_only s) (by decide) h₀

theorem ibrEnd_wf (s : State) (h₀ : Memory.wf s = true) : Memory.wf (ibrEnd s) = true :=
  Only.wf (ibrEnd_only s) (by decide) h₀

theorem reqCollide_wf (s : State) (h₀ : Memory.wf s = true) : Memory.wf (reqCollide s) = true := by
  unfold reqCollide
  try dsimp only
  repeat' (first | (with_reducible assumption) | (with_reducible apply wf_ite) | (with_reducible apply wf_ite_fst) | (with_reducible apply State.raise_wf) | (with_reducible apply State.hstUp_wf) | (with_reducible apply wf_foldl (hg := fun _ _ _ => ?_)) | (with_reducible apply wf_foldl_fst (hg := fun _ _ _ => ?_)) | split | dsimp only)

end Sys2Proof.Machine
end

