-- ==== Sys2Proof/Laws/FrameBoot.lean ====
section
/-! SUPPORT. Laws/FrameBoot.lean: what the operations of Machine/Boot.lean may change (f_only; f_step after what went before), and
that each keeps the memories' canonical form (f_wf). -/

set_option Elab.async false
set_option linter.all false

namespace Sys2Proof.Machine

theorem assignCores_only (s : State) : Only [.regs] s (assignCores s) := by
  unfold assignCores
  try dsimp only
  repeat' (first | (with_reducible exact Only.refl _ _) | (with_reducible apply Only.ite) | (with_reducible apply Only.ite_fst) | (with_reducible apply State.set_step (hm := by decide)) | (with_reducible apply Only.foldl (hg := fun _ _ => ?_)) | (with_reducible apply Only.foldl_fst (hg := fun _ _ => ?_)) | split | dsimp only)
theorem assignCores_step {l₀ : List Part} {s₀ : State} (s : State) (h₀ : Only l₀ s₀ s) (hm : [.regs] ⊆ l₀) : Only l₀ s₀ (assignCores s) :=
  h₀.step (assignCores_only s) hm

theorem assignLanes_only (s : State) : Only [.regs, .conds, .lanes] s (assignLanes s) := by
  unfold assignLanes
  try dsimp only
  repeat' (first | (with_reducible exact Only.refl _ _) | (with_reducible apply Only.ite) | (with_reducible apply Only.ite_fst) | (with_reducible apply State.laneUp_step (hm := by decide)) | (with_reducible apply State.set_step (hm := by decide)) | (with_reducible apply showSpare_step (hm := by decide)) | (with_reducible apply Only.foldl (hg := fun _ _ => ?_)) | (with_reducible apply Only.foldl_fst (hg := fun _ _ => ?_)) | split | dsimp only)
theorem assignLanes_step {l₀ : List Part} {s₀ : State} (s : State) (h₀ : Only l₀ s₀ s) (hm : [.regs, .conds, .lanes] ⊆ l₀) : Only l₀ s₀ (assignLanes s) :=
  h₀.step (assignLanes_only s) hm

theorem arrayFails_only (s : State) (a : Nat) : Only [.regs, .conds, .lanes, .bkg] s (arrayFails s a) := by
  unfold arrayFails
  try dsimp only
  repeat' (first | (with_reducible exact Only.refl _ _) | (with_reducible apply Only.ite) | (with_reducible apply Only.ite_fst) | (with_reducible apply queueRetire_step (hm := by decide)) | (with_reducible apply retireLaneNow_step (hm := by decide)) | (with_reducible apply State.set_step (hm := by decide)) | (with_reducible apply assignCores_step (hm := by decide)) | (with_reducible apply assignLanes_step (hm := by decide)) | (with_reducible apply Only.foldl (hg := fun _ _ => ?_)) | (with_reducible apply Only.foldl_fst (hg := fun _ _ => ?_)) | split | dsimp only)
theorem arrayFails_step {l₀ : List Part} {s₀ : State} (s : State) (a : Nat) (h₀ : Only l₀ s₀ s) (hm : [.regs, .conds, .lanes, .bkg] ⊆ l₀) : Only l₀ s₀ (arrayFails s a) :=
  h₀.step (arrayFails_only s a) hm

theorem wipeComplete_only (s : State) (us : Nat) (bad : List (Nat × Nat)) : Only [.regs, .conds, .free, .lanes, .mem, .bkg] s (wipeComplete s us bad) := by
  unfold wipeComplete
  try dsimp only
  repeat' (first | (with_reducible exact Only.refl _ _) | (with_reducible apply Only.ite) | (with_reducible apply Only.ite_fst) | (with_reducible apply State.raise_step (hm := by decide)) | (with_reducible apply becomeReady_step (hm := by decide)) | (with_reducible apply State.set_step (hm := by decide)) | (with_reducible apply repairAtWipe_step (hm := by decide)) | (with_reducible apply arrayFails_step (hm := by decide)) | (with_reducible apply Only.foldl (hg := fun _ _ => ?_)) | (with_reducible apply Only.foldl_fst (hg := fun _ _ => ?_)) | split | dsimp only)
theorem wipeComplete_step {l₀ : List Part} {s₀ : State} (s : State) (us : Nat) (bad : List (Nat × Nat)) (h₀ : Only l₀ s₀ s) (hm : [.regs, .conds, .free, .lanes, .mem, .bkg] ⊆ l₀) : Only l₀ s₀ (wipeComplete s us bad) :=
  h₀.step (wipeComplete_only s us bad) hm

theorem placeSpare_only (s : State) (b k row : Nat) (bad : Bool) : Only [.regs, .mem] s (placeSpare s b k row bad) := by
  unfold placeSpare
  try dsimp only
  repeat' (first | (with_reducible exact Only.refl _ _) | (with_reducible apply Only.ite) | (with_reducible apply Only.ite_fst) | (with_reducible apply State.set_step (hm := by decide)) | (with_reducible apply State.bankUp_step (hm := by decide)) | (with_reducible apply Only.foldl (hg := fun _ _ => ?_)) | (with_reducible apply Only.foldl_fst (hg := fun _ _ => ?_)) | split | dsimp only)
theorem placeSpare_step {l₀ : List Part} {s₀ : State} (s : State) (b k row : Nat) (bad : Bool) (h₀ : Only l₀ s₀ s) (hm : [.regs, .mem] ⊆ l₀) : Only l₀ s₀ (placeSpare s b k row bad) :=
  h₀.step (placeSpare_only s b k row bad) hm

theorem restoreRetired_only (s : State) (kind n : Nat) : Only [.regs] s (restoreRetired s kind n) := by
  unfold restoreRetired
  try dsimp only
  repeat' (first | (with_reducible exact Only.refl _ _) | (with_reducible apply Only.ite) | (with_reducible apply Only.ite_fst) | (with_reducible apply State.set_step (hm := by decide)) | (with_reducible apply Only.foldl (hg := fun _ _ => ?_)) | (with_reducible apply Only.foldl_fst (hg := fun _ _ => ?_)) | split | dsimp only)
theorem restoreRetired_step {l₀ : List Part} {s₀ : State} (s : State) (kind n : Nat) (h₀ : Only l₀ s₀ s) (hm : [.regs] ⊆ l₀) : Only l₀ s₀ (restoreRetired s kind n) :=
  h₀.step (restoreRetired_only s kind n) hm

theorem applyMap_only (s : State) (r : List Byte) : Only [.regs, .mem] s (applyMap s r) := by
  unfold applyMap
  try dsimp only
  repeat' (first | (with_reducible exact Only.refl _ _) | (with_reducible apply Only.ite) | (with_reducible apply Only.ite_fst) | (with_reducible apply placeSpare_step (hm := by decide)) | (with_reducible apply restoreRetired_step (hm := by decide)) | (with_reducible apply Only.foldl (hg := fun _ _ => ?_)) | (with_reducible apply Only.foldl_fst (hg := fun _ _ => ?_)) | split | dsimp only)
theorem applyMap_step {l₀ : List Part} {s₀ : State} (s : State) (r : List Byte) (h₀ : Only l₀ s₀ s) (hm : [.regs, .mem] ⊆ l₀) : Only l₀ s₀ (applyMap s r) :=
  h₀.step (applyMap_only s r) hm

theorem applyTemps_only (s : State) (r : List Byte) : Only [.bkg] s (applyTemps s r) := by
  unfold applyTemps
  try dsimp only
  repeat' (first | (with_reducible exact Only.refl _ _) | (with_reducible apply Only.ite) | (with_reducible apply Only.ite_fst) | (with_reducible apply State.bkgUp_step (hm := by decide)) | (with_reducible apply Only.foldl (hg := fun _ _ => ?_)) | (with_reducible apply Only.foldl_fst (hg := fun _ _ => ?_)) | split | dsimp only)
theorem applyTemps_step {l₀ : List Part} {s₀ : State} (s : State) (r : List Byte) (h₀ : Only l₀ s₀ s) (hm : [.bkg] ⊆ l₀) : Only l₀ s₀ (applyTemps s r) :=
  h₀.step (applyTemps_only s r) hm

theorem applyRecord_only (s : State) (r : List Byte) : Only [.regs, .mem, .bkg] s (applyRecord s r) := by
  unfold applyRecord
  try dsimp only
  repeat' (first | (with_reducible exact Only.refl _ _) | (with_reducible apply Only.ite) | (with_reducible apply Only.ite_fst) | (with_reducible apply applyTemps_step (hm := by decide)) | (with_reducible apply applyMap_step (hm := by decide)) | (with_reducible apply restoreRetired_step (hm := by decide)) | (with_reducible apply placeSpare_step (hm := by decide)) | (with_reducible apply Only.foldl (hg := fun _ _ => ?_)) | (with_reducible apply Only.foldl_fst (hg := fun _ _ => ?_)) | split | dsimp only)
theorem applyRecord_step {l₀ : List Part} {s₀ : State} (s : State) (r : List Byte) (h₀ : Only l₀ s₀ s) (hm : [.regs, .mem, .bkg] ⊆ l₀) : Only l₀ s₀ (applyRecord s r) :=
  h₀.step (applyRecord_only s r) hm

theorem keepWipeRepairs_only (s : State) (rows : List (Nat × Nat)) : Only [.regs, .mem, .bkg] s (keepWipeRepairs s rows) := by
  unfold keepWipeRepairs
  try dsimp only
  repeat' (first | (with_reducible exact Only.refl _ _) | (with_reducible apply Only.ite) | (with_reducible apply Only.ite_fst) | (with_reducible apply State.bankUp_step (hm := by decide)) | (with_reducible apply State.bkgUp_step (hm := by decide)) | (with_reducible apply State.set_step (hm := by decide)) | (with_reducible apply queueRecord_step (hm := by decide)) | (with_reducible apply Only.foldl (hg := fun _ _ => ?_)) | (with_reducible apply Only.foldl_fst (hg := fun _ _ => ?_)) | split | dsimp only)
theorem keepWipeRepairs_step {l₀ : List Part} {s₀ : State} (s : State) (rows : List (Nat × Nat)) (h₀ : Only l₀ s₀ s) (hm : [.regs, .mem, .bkg] ⊆ l₀) : Only l₀ s₀ (keepWipeRepairs s rows) :=
  h₀.step (keepWipeRepairs_only s rows) hm

theorem degradeFull_only (s : State) : Only [.mem] s (degradeFull s) := by
  unfold degradeFull
  try dsimp only
  repeat' (first | (with_reducible exact Only.refl _ _) | (with_reducible apply Only.ite) | (with_reducible apply Only.ite_fst) | (with_reducible apply State.memUp_step (hm := by decide)) | (with_reducible apply Only.foldl (hg := fun _ _ => ?_)) | (with_reducible apply Only.foldl_fst (hg := fun _ _ => ?_)) | split | dsimp only | (with_reducible apply only_with_banks_step (hm := by decide)))
theorem degradeFull_step {l₀ : List Part} {s₀ : State} (s : State) (h₀ : Only l₀ s₀ s) (hm : [.mem] ⊆ l₀) : Only l₀ s₀ (degradeFull s) :=
  h₀.step (degradeFull_only s) hm

theorem logPlace_only (s : State) (sectors : List (List Byte)) (newest : Nat × Nat) (vs : List (Nat × Nat)) : Only [.regs, .bkg] s (logPlace s sectors newest vs) := by
  unfold logPlace
  try dsimp only
  repeat' (first | (with_reducible exact Only.refl _ _) | (with_reducible apply Only.ite) | (with_reducible apply Only.ite_fst) | (with_reducible apply State.set_step (hm := by decide)) | (with_reducible apply State.wr_step (hm := by decide)) | (with_reducible apply State.bkgUp_step (hm := by decide)) | (with_reducible apply Only.foldl (hg := fun _ _ => ?_)) | (with_reducible apply Only.foldl_fst (hg := fun _ _ => ?_)) | split | dsimp only)
theorem logPlace_step {l₀ : List Part} {s₀ : State} (s : State) (sectors : List (List Byte)) (newest : Nat × Nat) (vs : List (Nat × Nat)) (h₀ : Only l₀ s₀ s) (hm : [.regs, .bkg] ⊆ l₀) : Only l₀ s₀ (logPlace s sectors newest vs) :=
  h₀.step (logPlace_only s sectors newest vs) hm

theorem logScan_only (s : State) (sectors : List (List Byte)) : Only [.regs, .mem, .bkg] s (logScan s sectors) := by
  unfold logScan
  try dsimp only
  repeat' (first | (with_reducible exact Only.refl _ _) | (with_reducible apply Only.ite) | (with_reducible apply Only.ite_fst) | (with_reducible apply State.bkgUp_step (hm := by decide)) | (with_reducible apply State.raise_step (hm := by decide)) | (with_reducible apply applyRecord_step (hm := by decide)) | (with_reducible apply State.set_step (hm := by decide)) | (with_reducible apply logPlace_step (hm := by decide)) | (with_reducible apply Only.foldl (hg := fun _ _ => ?_)) | (with_reducible apply Only.foldl_fst (hg := fun _ _ => ?_)) | split | dsimp only)
theorem logScan_step {l₀ : List Part} {s₀ : State} (s : State) (sectors : List (List Byte)) (h₀ : Only l₀ s₀ s) (hm : [.regs, .mem, .bkg] ⊆ l₀) : Only l₀ s₀ (logScan s sectors) :=
  h₀.step (logScan_only s sectors) hm

theorem scanComplete_only (s : State) (id : Nat) (sectors : List (List Byte)) (slotA slotB : List Byte) : Only [.regs, .conds, .free, .sys, .lanes, .mem, .bkg] s (scanComplete s id sectors slotA slotB) := by
  unfold scanComplete
  try dsimp only
  repeat' (first | (with_reducible exact Only.refl _ _) | (with_reducible apply Only.ite) | (with_reducible apply Only.ite_fst) | (with_reducible apply keepWipeRepairs_step (hm := by decide)) | (with_reducible apply State.memUp_step (hm := by decide)) | (with_reducible apply becomeReady_step (hm := by decide)) | (with_reducible apply State.set_step (hm := by decide)) | (with_reducible apply State.sysUp_step (hm := by decide)) | (with_reducible apply assignCores_step (hm := by decide)) | (with_reducible apply assignLanes_step (hm := by decide)) | (with_reducible apply degradeFull_step (hm := by decide)) | (with_reducible apply logScan_step (hm := by decide)) | (with_reducible apply Only.foldl (hg := fun _ _ => ?_)) | (with_reducible apply Only.foldl_fst (hg := fun _ _ => ?_)) | split | dsimp only | (with_reducible apply only_with_banks_step (hm := by decide)))
theorem scanComplete_step {l₀ : List Part} {s₀ : State} (s : State) (id : Nat) (sectors : List (List Byte)) (slotA slotB : List Byte) (h₀ : Only l₀ s₀ s) (hm : [.regs, .conds, .free, .sys, .lanes, .mem, .bkg] ⊆ l₀) : Only l₀ s₀ (scanComplete s id sectors slotA slotB) :=
  h₀.step (scanComplete_only s id sectors slotA slotB) hm

theorem bothBanks_only (key : Bool → Nat → Nat) (stored : Nat → Word → Word) (ws : List Word) (s : State) : Only [.banks] s (bothBanks key stored ws s) := by
  unfold bothBanks
  try dsimp only
  repeat' (first | (with_reducible exact Only.refl _ _) | (with_reducible apply Only.ite) | (with_reducible apply Only.ite_fst) | (with_reducible apply State.putBank_step (hm := by decide)) | (with_reducible apply Only.foldl (hg := fun _ _ => ?_)) | (with_reducible apply Only.foldl_fst (hg := fun _ _ => ?_)) | split | dsimp only)
theorem bothBanks_step {l₀ : List Part} {s₀ : State} (key : Bool → Nat → Nat) (stored : Nat → Word → Word) (ws : List Word) (s : State) (h₀ : Only l₀ s₀ s) (hm : [.banks] ⊆ l₀) : Only l₀ s₀ (bothBanks key stored ws s) :=
  h₀.step (bothBanks_only key stored ws s) hm

theorem raiseTimes_only (s : State) (n : Nat) (g : Flag) : Only [.regs] s (raiseTimes s n g) := by
  unfold raiseTimes
  try dsimp only
  repeat' (first | (with_reducible exact Only.refl _ _) | (with_reducible apply Only.ite) | (with_reducible apply Only.ite_fst) | (with_reducible apply State.raise_step (hm := by decide)) | (with_reducible apply Only.foldl (hg := fun _ _ => ?_)) | (with_reducible apply Only.foldl_fst (hg := fun _ _ => ?_)) | split | dsimp only)
theorem raiseTimes_step {l₀ : List Part} {s₀ : State} (s : State) (n : Nat) (g : Flag) (h₀ : Only l₀ s₀ s) (hm : [.regs] ⊆ l₀) : Only l₀ s₀ (raiseTimes s n g) :=
  h₀.step (raiseTimes_only s n g) hm

theorem loadFirmware_only (s : State) (dest : Nat) (bs : List Byte) : Only [.mem] s (loadFirmware s dest bs) := by
  unfold loadFirmware
  try dsimp only
  repeat' (first | (with_reducible exact Only.refl _ _) | (with_reducible apply Only.ite) | (with_reducible apply Only.ite_fst) | (with_reducible apply State.memUp_step (hm := by decide)) | (with_reducible apply Only.foldl (hg := fun _ _ => ?_)) | (with_reducible apply Only.foldl_fst (hg := fun _ _ => ?_)) | split | dsimp only)
theorem loadFirmware_step {l₀ : List Part} {s₀ : State} (s : State) (dest : Nat) (bs : List Byte) (h₀ : Only l₀ s₀ s) (hm : [.mem] ⊆ l₀) : Only l₀ s₀ (loadFirmware s dest bs) :=
  h₀.step (loadFirmware_only s dest bs) hm

theorem loadSection_only (bytes : List Byte) (s : State) (e : Section) : Only [.regs, .banks, .mem] s (loadSection bytes s e) := by
  unfold loadSection
  try dsimp only
  repeat' (first | (with_reducible exact Only.refl _ _) | (with_reducible apply Only.ite) | (with_reducible apply Only.ite_fst) | (with_reducible apply clampXmax_step (hm := by decide)) | (with_reducible apply loadFirmware_step (hm := by decide)) | (with_reducible apply raiseTimes_step (hm := by decide)) | (with_reducible apply bothBanks_step (hm := by decide)) | (with_reducible apply Only.foldl (hg := fun _ _ => ?_)) | (with_reducible apply Only.foldl_fst (hg := fun _ _ => ?_)) | split | dsimp only)
theorem loadSection_step {l₀ : List Part} {s₀ : State} (bytes : List Byte) (s : State) (e : Section) (h₀ : Only l₀ s₀ s) (hm : [.regs, .banks, .mem] ⊆ l₀) : Only l₀ s₀ (loadSection bytes s e) :=
  h₀.step (loadSection_only bytes s e) hm

theorem showImage_only (s : State) (c : Candidate) : Only [.regs, .bkg] s (showImage s c) := by
  unfold showImage
  try dsimp only
  repeat' (first | (with_reducible exact Only.refl _ _) | (with_reducible apply Only.ite) | (with_reducible apply Only.ite_fst) | (with_reducible apply State.bkgUp_step (hm := by decide)) | (with_reducible apply State.wr_step (hm := by decide)) | (with_reducible apply State.set_step (hm := by decide)) | (with_reducible apply State.setB_step (hm := by decide)) | (with_reducible apply Only.foldl (hg := fun _ _ => ?_)) | (with_reducible apply Only.foldl_fst (hg := fun _ _ => ?_)) | split | dsimp only)
theorem showImage_step {l₀ : List Part} {s₀ : State} (s : State) (c : Candidate) (h₀ : Only l₀ s₀ s) (hm : [.regs, .bkg] ⊆ l₀) : Only l₀ s₀ (showImage s c) :=
  h₀.step (showImage_only s c) hm

theorem imageHeld_only (s : State) (c : Candidate) : Only [.regs, .conds, .sys, .ain, .mb, .vent, .str] s (imageHeld s c) := by
  unfold imageHeld
  try dsimp only
  repeat' (first | (with_reducible exact Only.refl _ _) | (with_reducible apply Only.ite) | (with_reducible apply Only.ite_fst) | (with_reducible apply State.set_step (hm := by decide)) | (with_reducible apply State.sysUp_step (hm := by decide)) | (with_reducible apply State.strUp_step (hm := by decide)) | (with_reducible apply startProcessors_step (hm := by decide)) | (with_reducible apply Only.foldl (hg := fun _ _ => ?_)) | (with_reducible apply Only.foldl_fst (hg := fun _ _ => ?_)) | split | dsimp only)
theorem imageHeld_step {l₀ : List Part} {s₀ : State} (s : State) (c : Candidate) (h₀ : Only l₀ s₀ s) (hm : [.regs, .conds, .sys, .ain, .mb, .vent, .str] ⊆ l₀) : Only l₀ s₀ (imageHeld s c) :=
  h₀.step (imageHeld_only s c) hm

theorem abandonCandidate_only (s : State) (c : Candidate) (rest : List Candidate) (code : Nat) : Only [.regs, .free, .sys] s (abandonCandidate s c rest code) := by
  unfold abandonCandidate
  try dsimp only
  repeat' (first | (with_reducible exact Only.refl _ _) | (with_reducible apply Only.ite) | (with_reducible apply Only.ite_fst) | (with_reducible apply State.raise_step (hm := by decide)) | (with_reducible apply becomeReady_step (hm := by decide)) | (with_reducible apply State.set_step (hm := by decide)) | (with_reducible apply State.sysUp_step (hm := by decide)) | (with_reducible apply Only.foldl (hg := fun _ _ => ?_)) | (with_reducible apply Only.foldl_fst (hg := fun _ _ => ?_)) | split | dsimp only)
theorem abandonCandidate_step {l₀ : List Part} {s₀ : State} (s : State) (c : Candidate) (rest : List Candidate) (code : Nat) (h₀ : Only l₀ s₀ s) (hm : [.regs, .free, .sys] ⊆ l₀) : Only l₀ s₀ (abandonCandidate s c rest code) :=
  h₀.step (abandonCandidate_only s c rest code) hm

/-! ### The canonical form -/

theorem assignCores_wf (s : State) (h₀ : Memory.wf s = true) : Memory.wf (assignCores s) = true := by
  unfold assignCores
  try dsimp only
  repeat' (first | (with_reducible assumption) | (with_reducible apply wf_ite) | (with_reducible apply wf_ite_fst) | (with_reducible apply State.set_wf) | (with_reducible apply wf_foldl (hg := fun _ _ _ => ?_)) | (with_reducible apply wf_foldl_fst (hg := fun _ _ _ => ?_)) | split | dsimp only)

theorem assignLanes_wf (s : State) (h₀ : Memory.wf s = true) : Memory.wf (assignLanes s) = true := by
  unfold assignLanes
  try dsimp only
  repeat' (first | (with_reducible assumption) | (with_reducible apply wf_ite) | (with_reducible apply wf_ite_fst) | (with_reducible apply State.set_wf) | (with_reducible apply State.laneUp_wf) | (with_reducible apply showSpare_wf) | (with_reducible apply wf_foldl (hg := fun _ _ _ => ?_)) | (with_reducible apply wf_foldl_fst (hg := fun _ _ _ => ?_)) | split | dsimp only)

theorem arrayFails_wf (s : State) (a : Nat) (h₀ : Memory.wf s = true) : Memory.wf (arrayFails s a) = true := by
  unfold arrayFails
  try dsimp only
  repeat' (first | (with_reducible assumption) | (with_reducible apply wf_ite) | (with_reducible apply wf_ite_fst) | (with_reducible apply retireLaneNow_wf) | (with_reducible apply assignLanes_wf) | (with_reducible apply queueRetire_wf) | (with_reducible apply assignCores_wf) | (with_reducible apply State.set_wf) | (with_reducible apply wf_foldl (hg := fun _ _ _ => ?_)) | (with_reducible apply wf_foldl_fst (hg := fun _ _ _ => ?_)) | split | dsimp only)

theorem wipeComplete_wf (s : State) (us : Nat) (bad : List (Nat × Nat)) (h₀ : Memory.wf s = true) : Memory.wf (wipeComplete s us bad) = true := by
  unfold wipeComplete
  try dsimp only
  repeat' (first | (with_reducible assumption) | (with_reducible rfl) | (with_reducible apply wf_ite) | (with_reducible apply wf_ite_fst) | (with_reducible apply arrayFails_wf) | (with_reducible apply becomeReady_wf) | (with_reducible apply State.set_wf) | (with_reducible apply State.raise_wf) | (with_reducible apply repairAtWipe_wf) | (with_reducible apply wf_foldl (hg := fun _ _ _ => ?_)) | (with_reducible apply wf_foldl_fst (hg := fun _ _ _ => ?_)) | split | dsimp only)

theorem placeSpare_wf (s : State) (b k row : Nat) (bad : Bool) (h₀ : Memory.wf s = true) : Memory.wf (placeSpare s b k row bad) = true := by
  unfold placeSpare
  try dsimp only
  repeat' (first | (with_reducible assumption) | (with_reducible rfl) | (with_reducible apply wf_ite) | (with_reducible apply wf_ite_fst) | (with_reducible apply State.set_wf) | (with_reducible apply State.bankUp_wf) | (with_reducible apply wf_foldl (hg := fun _ _ _ => ?_)) | (with_reducible apply wf_foldl_fst (hg := fun _ _ _ => ?_)) | split | dsimp only)

theorem restoreRetired_wf (s : State) (kind n : Nat) (h₀ : Memory.wf s = true) : Memory.wf (restoreRetired s kind n) = true := by
  unfold restoreRetired
  try dsimp only
  repeat' (first | (with_reducible assumption) | (with_reducible apply wf_ite) | (with_reducible apply wf_ite_fst) | (with_reducible apply State.set_wf) | (with_reducible apply wf_foldl (hg := fun _ _ _ => ?_)) | (with_reducible apply wf_foldl_fst (hg := fun _ _ _ => ?_)) | split | dsimp only)

theorem applyMap_wf (s : State) (r : List Byte) (h₀ : Memory.wf s = true) : Memory.wf (applyMap s r) = true := by
  unfold applyMap
  try dsimp only
  repeat' (first | (with_reducible assumption) | (with_reducible rfl) | (with_reducible apply wf_ite) | (with_reducible apply wf_ite_fst) | (with_reducible apply placeSpare_wf) | (with_reducible apply restoreRetired_wf) | (with_reducible apply wf_foldl (hg := fun _ _ _ => ?_)) | (with_reducible apply wf_foldl_fst (hg := fun _ _ _ => ?_)) | split | dsimp only)

theorem applyTemps_wf (s : State) (r : List Byte) (h₀ : Memory.wf s = true) : Memory.wf (applyTemps s r) = true :=
  Only.wf (applyTemps_only s r) (by decide) h₀

theorem applyRecord_wf (s : State) (r : List Byte) (h₀ : Memory.wf s = true) : Memory.wf (applyRecord s r) = true := by
  unfold applyRecord
  try dsimp only
  repeat' (first | (with_reducible assumption) | (with_reducible rfl) | (with_reducible apply wf_ite) | (with_reducible apply wf_ite_fst) | (with_reducible apply placeSpare_wf) | (with_reducible apply applyMap_wf) | (with_reducible apply applyTemps_wf) | (with_reducible apply restoreRetired_wf) | (with_reducible apply wf_foldl (hg := fun _ _ _ => ?_)) | (with_reducible apply wf_foldl_fst (hg := fun _ _ _ => ?_)) | split | dsimp only)

theorem keepWipeRepairs_wf (s : State) (rows : List (Nat × Nat)) (h₀ : Memory.wf s = true) : Memory.wf (keepWipeRepairs s rows) = true := by
  unfold keepWipeRepairs
  try dsimp only
  repeat' (first | (with_reducible assumption) | (with_reducible rfl) | (with_reducible apply wf_ite) | (with_reducible apply wf_ite_fst) | (with_reducible apply State.bkgUp_wf) | (with_reducible apply State.bankUp_wf) | (with_reducible apply State.set_wf) | (with_reducible apply queueRecord_wf) | (with_reducible apply wf_foldl (hg := fun _ _ _ => ?_)) | (with_reducible apply wf_foldl_fst (hg := fun _ _ _ => ?_)) | split | dsimp only)

theorem degradeFull_wf (s : State) (h₀ : Memory.wf s = true) : Memory.wf (degradeFull s) = true := by
  unfold degradeFull
  try dsimp only
  repeat' (first | (with_reducible assumption) | (with_reducible rfl) | (with_reducible apply wf_ite) | (with_reducible apply wf_ite_fst) | (with_reducible apply State.memUp_wf) | (with_reducible apply wf_foldl (hg := fun _ _ _ => ?_)) | (with_reducible apply wf_foldl_fst (hg := fun _ _ _ => ?_)) | split | dsimp only)

theorem logPlace_wf (s : State) (sectors : List (List Byte)) (newest : Nat × Nat) (vs : List (Nat × Nat)) (h₀ : Memory.wf s = true) : Memory.wf (logPlace s sectors newest vs) = true := by
  unfold logPlace
  try dsimp only
  repeat' (first | (with_reducible assumption) | (with_reducible apply wf_ite) | (with_reducible apply wf_ite_fst) | (with_reducible apply State.bkgUp_wf) | (with_reducible apply State.set_wf) | (with_reducible apply State.wr_wf) | (with_reducible apply wf_foldl (hg := fun _ _ _ => ?_)) | (with_reducible apply wf_foldl_fst (hg := fun _ _ _ => ?_)) | split | dsimp only)

theorem logScan_wf (s : State) (sectors : List (List Byte)) (h₀ : Memory.wf s = true) : Memory.wf (logScan s sectors) = true := by
  unfold logScan
  try dsimp only
  repeat' (first | (with_reducible assumption) | (with_reducible rfl) | (with_reducible apply wf_ite) | (with_reducible apply wf_ite_fst) | (with_reducible apply State.bkgUp_wf) | (with_reducible apply applyRecord_wf) | (with_reducible apply logPlace_wf) | (with_reducible apply State.set_wf) | (with_reducible apply State.raise_wf) | (with_reducible apply wf_foldl (hg := fun _ _ _ => ?_)) | (with_reducible apply wf_foldl_fst (hg := fun _ _ _ => ?_)) | split | dsimp only)

theorem scanComplete_wf (s : State) (id : Nat) (sectors : List (List Byte)) (slotA slotB : List Byte) (h₀ : Memory.wf s = true) : Memory.wf (scanComplete s id sectors slotA slotB) = true := by
  unfold scanComplete
  try dsimp only
  repeat' (first | (with_reducible assumption) | (with_reducible rfl) | (with_reducible apply wf_ite) | (with_reducible apply wf_ite_fst) | (with_reducible apply logScan_wf) | (with_reducible apply keepWipeRepairs_wf) | (with_reducible apply assignLanes_wf) | (with_reducible apply State.memUp_wf) | (with_reducible apply State.set_wf) | (with_reducible apply assignCores_wf) | (with_reducible apply degradeFull_wf) | (with_reducible apply State.sysUp_wf) | (with_reducible apply becomeReady_wf) | (with_reducible apply wf_foldl (hg := fun _ _ _ => ?_)) | (with_reducible apply wf_foldl_fst (hg := fun _ _ _ => ?_)) | split | dsimp only)

theorem bothBanks_wf (key : Bool → Nat → Nat) (stored : Nat → Word → Word) (ws : List Word) (s : State) (h₀ : Memory.wf s = true) : Memory.wf (bothBanks key stored ws s) = true := by
  unfold bothBanks
  try dsimp only
  repeat' (first | (with_reducible assumption) | (with_reducible apply wf_ite) | (with_reducible apply wf_ite_fst) | (with_reducible apply State.putBank_wf) | (with_reducible apply wf_foldl (hg := fun _ _ _ => ?_)) | (with_reducible apply wf_foldl_fst (hg := fun _ _ _ => ?_)) | split | dsimp only)

theorem raiseTimes_wf (s : State) (n : Nat) (g : Flag) (h₀ : Memory.wf s = true) : Memory.wf (raiseTimes s n g) = true := by
  unfold raiseTimes
  try dsimp only
  repeat' (first | (with_reducible assumption) | (with_reducible apply wf_ite) | (with_reducible apply wf_ite_fst) | (with_reducible apply State.raise_wf) | (with_reducible apply wf_foldl (hg := fun _ _ _ => ?_)) | (with_reducible apply wf_foldl_fst (hg := fun _ _ _ => ?_)) | split | dsimp only)

theorem loadFirmware_wf (s : State) (dest : Nat) (bs : List Byte) (h₀ : Memory.wf s = true) : Memory.wf (loadFirmware s dest bs) = true := by
  unfold loadFirmware
  refine wf_foldl (fun t a h => ?_) h₀
  unfold State.memUp; rw [wf_iff] at *; exact ⟨h.1, h.2.1, h.2.2.1, kvWf_kvPut _ _ _ _ h.2.2.2.1, h.2.2.2.2⟩

theorem loadSection_wf (bytes : List Byte) (s : State) (e : Section) (h₀ : Memory.wf s = true) : Memory.wf (loadSection bytes s e) = true := by
  unfold loadSection
  try dsimp only
  repeat' (first | (with_reducible assumption) | (with_reducible rfl) | (with_reducible apply wf_ite) | (with_reducible apply wf_ite_fst) | (with_reducible apply loadFirmware_wf) | (with_reducible apply bothBanks_wf) | (with_reducible apply raiseTimes_wf) | (with_reducible apply clampXmax_wf) | (with_reducible apply wf_foldl (hg := fun _ _ _ => ?_)) | (with_reducible apply wf_foldl_fst (hg := fun _ _ _ => ?_)) | split | dsimp only)

theorem applyRecords_wf (s : State) (safety : Bool) (bs : List Byte) (h₀ : Memory.wf s = true) : Memory.wf (applyRecords s safety bs) = true := by
  unfold applyRecords
  try dsimp only
  repeat' (first | (with_reducible assumption) | (with_reducible rfl) | (with_reducible apply wf_ite) | (with_reducible apply wf_ite_fst) | (with_reducible apply regWrite_wf) | (with_reducible apply State.raise_wf) | (with_reducible apply wf_foldl (hg := fun _ _ _ => ?_)) | (with_reducible apply wf_foldl_fst (hg := fun _ _ _ => ?_)) | split | dsimp only)

theorem applyNetwork_wf (s : State) (bs : List Byte) (h₀ : Memory.wf s = true) : Memory.wf (applyNetwork s bs) = true := by
  unfold applyNetwork
  try dsimp only
  repeat' (first | (with_reducible assumption) | (with_reducible rfl) | (with_reducible apply wf_ite) | (with_reducible apply wf_ite_fst) | (with_reducible apply regWrites_wf) | (with_reducible apply regWrite_wf) | (with_reducible apply State.set_wf) | (with_reducible apply wf_foldl (hg := fun _ _ _ => ?_)) | (with_reducible apply wf_foldl_fst (hg := fun _ _ _ => ?_)) | split | dsimp only)

theorem applyStaged_wf (c : Candidate) (bytes : List Byte) (s : State) (h₀ : Memory.wf s = true) : Memory.wf (applyStaged c bytes s) = true := by
  unfold applyStaged
  try dsimp only
  repeat' (first | (with_reducible assumption) | (with_reducible rfl) | (with_reducible apply wf_ite) | (with_reducible apply wf_ite_fst) | (with_reducible apply applyRecords_wf) | (with_reducible apply applyNetwork_wf) | (with_reducible apply wf_foldl (hg := fun _ _ _ => ?_)) | (with_reducible apply wf_foldl_fst (hg := fun _ _ _ => ?_)) | split | dsimp only)

theorem showImage_wf (s : State) (c : Candidate) (h₀ : Memory.wf s = true) : Memory.wf (showImage s c) = true := by
  unfold showImage
  try dsimp only
  repeat' (first | (with_reducible assumption) | (with_reducible apply wf_ite) | (with_reducible apply wf_ite_fst) | (with_reducible apply State.setB_wf) | (with_reducible apply State.bkgUp_wf) | (with_reducible apply State.set_wf) | (with_reducible apply State.wr_wf) | (with_reducible apply wf_foldl (hg := fun _ _ _ => ?_)) | (with_reducible apply wf_foldl_fst (hg := fun _ _ _ => ?_)) | split | dsimp only)

theorem imageHeld_wf (s : State) (c : Candidate) (h₀ : Memory.wf s = true) : Memory.wf (imageHeld s c) = true := by
  unfold imageHeld
  try dsimp only
  repeat' (first | (with_reducible assumption) | (with_reducible rfl) | (with_reducible apply wf_ite) | (with_reducible apply wf_ite_fst) | (with_reducible apply State.sysUp_wf) | (with_reducible apply State.strUp_wf) | (with_reducible apply State.set_wf) | (with_reducible apply startProcessors_wf) | (with_reducible apply wf_foldl (hg := fun _ _ _ => ?_)) | (with_reducible apply wf_foldl_fst (hg := fun _ _ _ => ?_)) | split | dsimp only)

theorem abandonCandidate_wf (s : State) (c : Candidate) (rest : List Candidate) (code : Nat) (h₀ : Memory.wf s = true) : Memory.wf (abandonCandidate s c rest code) = true := by
  unfold abandonCandidate
  try dsimp only
  repeat' (first | (with_reducible assumption) | (with_reducible apply wf_ite) | (with_reducible apply wf_ite_fst) | (with_reducible apply State.sysUp_wf) | (with_reducible apply becomeReady_wf) | (with_reducible apply State.set_wf) | (with_reducible apply State.raise_wf) | (with_reducible apply wf_foldl (hg := fun _ _ _ => ?_)) | (with_reducible apply wf_foldl_fst (hg := fun _ _ _ => ?_)) | split | dsimp only)

theorem candidateLoadEnd_wf (s : State) (bytes : List Byte) (h₀ : Memory.wf s = true) : Memory.wf (candidateLoadEnd s bytes) = true := by
  unfold candidateLoadEnd
  try dsimp only
  repeat' (first | (with_reducible assumption) | (with_reducible rfl) | (with_reducible apply wf_ite) | (with_reducible apply wf_ite_fst) | (with_reducible apply loadSection_wf) | (with_reducible apply imageHeld_wf) | (with_reducible apply applyStaged_wf) | (with_reducible apply abandonCandidate_wf) | (with_reducible apply showImage_wf) | (with_reducible apply wf_foldl (hg := fun _ _ _ => ?_)) | (with_reducible apply wf_foldl_fst (hg := fun _ _ _ => ?_)) | split | dsimp only)

end Sys2Proof.Machine
end

