-- ==== Sys2Proof/Laws/FrameBoundaries.lean ====
section
/-! SUPPORT. Laws/FrameBoundaries.lean: what the operations of Machine/Boundaries.lean may change (f_only; f_step after what went before), and
that each keeps the memories' canonical form (f_wf). -/

set_option Elab.async false
set_option linter.all false

namespace Sys2Proof.Machine

theorem windowsAtUpdate_only (s : State) : Only [.bkg] s (windowsAtUpdate s) := by
  unfold windowsAtUpdate
  try dsimp only
  repeat' (first | (with_reducible exact Only.refl _ _) | (with_reducible apply Only.ite) | (with_reducible apply Only.ite_fst) | (with_reducible apply Only.eachOf (hf := fun _ _ => ?_)) | (with_reducible apply windowUpdate_step (hm := by decide)) | (with_reducible apply Only.foldl (hg := fun _ _ => ?_)) | (with_reducible apply Only.foldl_fst (hg := fun _ _ => ?_)) | split | dsimp only)
theorem windowsAtUpdate_step {l₀ : List Part} {s₀ : State} (s : State) (h₀ : Only l₀ s₀ s) (hm : [.bkg] ⊆ l₀) : Only l₀ s₀ (windowsAtUpdate s) :=
  h₀.step (windowsAtUpdate_only s) hm

theorem endUpdate_only (s : State) : Only [.regs, .conds, .gates, .time, .legs, .sense, .lanes, .loops, .lanePool, .trace, .bkg] s (endUpdate s) := by
  unfold endUpdate
  try dsimp only
  repeat' (first | (with_reducible exact Only.refl _ _) | (with_reducible apply Only.ite) | (with_reducible apply Only.ite_fst) | (with_reducible apply windowsAtUpdate_step (hm := by decide)) | (with_reducible apply inputsAtUpdate_step (hm := by decide)) | (with_reducible apply lanesEnd_step (hm := by decide)) | (with_reducible apply Only.foldl (hg := fun _ _ => ?_)) | (with_reducible apply Only.foldl_fst (hg := fun _ _ => ?_)) | split | dsimp only | (with_reducible apply only_with_time_step (hm := by decide)))
theorem endUpdate_step {l₀ : List Part} {s₀ : State} (s : State) (h₀ : Only l₀ s₀ s) (hm : [.regs, .conds, .gates, .time, .legs, .sense, .lanes, .loops, .lanePool, .trace, .bkg] ⊆ l₀) : Only l₀ s₀ (endUpdate s) :=
  h₀.step (endUpdate_only s) hm

theorem sourcesAtUpdate_only (s : State) : Only [.regs, .heldU, .legs, .pwm, .vent] s (sourcesAtUpdate s) := by
  unfold sourcesAtUpdate
  try dsimp only
  repeat' (first | (with_reducible exact Only.refl _ _) | (with_reducible apply Only.ite) | (with_reducible apply Only.ite_fst) | (with_reducible apply Only.eachOf (hf := fun _ _ => ?_)) | (with_reducible apply srcAtUpdate_step (hm := by decide)) | (with_reducible apply gainRestart_step (hm := by decide)) | (with_reducible apply Only.foldl (hg := fun _ _ => ?_)) | (with_reducible apply Only.foldl_fst (hg := fun _ _ => ?_)) | split | dsimp only | (with_reducible apply only_with_heldU_step (hm := by decide)))
theorem sourcesAtUpdate_step {l₀ : List Part} {s₀ : State} (s : State) (h₀ : Only l₀ s₀ s) (hm : [.regs, .heldU, .legs, .pwm, .vent] ⊆ l₀) : Only l₀ s₀ (sourcesAtUpdate s) :=
  h₀.step (sourcesAtUpdate_only s) hm

theorem startsAtUpdate_only (s : State) : Only [.regs, .legs, .pwm, .vent] s (startsAtUpdate s) := by
  unfold startsAtUpdate
  try dsimp only
  repeat' (first | (with_reducible exact Only.refl _ _) | (with_reducible apply Only.ite) | (with_reducible apply Only.ite_fst) | (with_reducible apply Only.eachOf (hf := fun _ _ => ?_)) | (with_reducible apply startAtUpdate_step (hm := by decide)) | (with_reducible apply loadRestart_step (hm := by decide)) | (with_reducible apply Only.foldl (hg := fun _ _ => ?_)) | (with_reducible apply Only.foldl_fst (hg := fun _ _ => ?_)) | split | dsimp only)
theorem startsAtUpdate_step {l₀ : List Part} {s₀ : State} (s : State) (h₀ : Only l₀ s₀ s) (hm : [.regs, .legs, .pwm, .vent] ⊆ l₀) : Only l₀ s₀ (startsAtUpdate s) :=
  h₀.step (startsAtUpdate_only s) hm

theorem updateBoundary_only (s : State) : Only [.regs, .heldU, .banks, .conds, .gates, .free, .time, .legs, .pwm, .safe, .dlCal, .pins, .sense, .lanes, .loops, .lanePool, .trace, .vent, .bkg, .twin] s (updateBoundary s) := by
  unfold updateBoundary
  try dsimp only
  repeat' (first | (with_reducible exact Only.refl _ _) | (with_reducible apply Only.ite) | (with_reducible apply Only.ite_fst) | (with_reducible apply Only.eachOf (hf := fun _ _ => ?_)) | (with_reducible apply startsAtUpdate_step (hm := by decide)) | (with_reducible apply legsAtUpdate_step (hm := by decide)) | (with_reducible apply programsAtUpdate_step (hm := by decide)) | (with_reducible apply holdRelease_step (hm := by decide)) | (with_reducible apply replacementsAtUpdate_step (hm := by decide)) | (with_reducible apply comparatorsAtUpdate_step (hm := by decide)) | (with_reducible apply pwmActive_step (hm := by decide)) | (with_reducible apply hbAtUpdate_step (hm := by decide)) | (with_reducible apply haltAtUpdate_step (hm := by decide)) | (with_reducible apply lanesStart_step (hm := by decide)) | (with_reducible apply endUpdate_step (hm := by decide)) | (with_reducible apply gatePush_step (hm := by decide)) | (with_reducible apply snapLoop_step (hm := by decide)) | (with_reducible apply cbcAtUpdate_step (hm := by decide)) | (with_reducible apply leakAtUpdate_step (hm := by decide)) | (with_reducible apply sourcesAtUpdate_step (hm := by decide)) | (with_reducible apply releasesAtUpdate_step (hm := by decide)) | (with_reducible apply rotationAtUpdate_step (hm := by decide)) | (with_reducible apply Only.foldl (hg := fun _ _ => ?_)) | (with_reducible apply Only.foldl_fst (hg := fun _ _ => ?_)) | split | dsimp only | (with_reducible apply only_with_time_step (hm := by decide)))
theorem updateBoundary_step {l₀ : List Part} {s₀ : State} (s : State) (h₀ : Only l₀ s₀ s) (hm : [.regs, .heldU, .banks, .conds, .gates, .free, .time, .legs, .pwm, .safe, .dlCal, .pins, .sense, .lanes, .loops, .lanePool, .trace, .vent, .bkg, .twin] ⊆ l₀) : Only l₀ s₀ (updateBoundary s) :=
  h₀.step (updateBoundary_only s) hm

theorem telDrain_only (s : State) : Only [.regs, .banks, .conds, .gates, .mem, .rings] s (telDrain s) := by
  unfold telDrain
  try dsimp only
  repeat' (first | (with_reducible exact Only.refl _ _) | (with_reducible apply Only.ite) | (with_reducible apply Only.ite_fst) | (with_reducible apply State.set_step (hm := by decide)) | (with_reducible apply telDeliver_step (hm := by decide)) | (with_reducible apply Only.foldl (hg := fun _ _ => ?_)) | (with_reducible apply Only.foldl_fst (hg := fun _ _ => ?_)) | split | dsimp only | (with_reducible apply only_with_gates_step (hm := by decide)))
theorem telDrain_step {l₀ : List Part} {s₀ : State} (s : State) (h₀ : Only l₀ s₀ s) (hm : [.regs, .banks, .conds, .gates, .mem, .rings] ⊆ l₀) : Only l₀ s₀ (telDrain s) :=
  h₀.step (telDrain_only s) hm

theorem swapsAtBlock_only (s : State) (due : List Bool) : Only [.regs, .mb, .legs, .pwm, .safe, .pins, .bkg] s (swapsAtBlock s due) := by
  unfold swapsAtBlock
  try dsimp only
  repeat' (first | (with_reducible exact Only.refl _ _) | (with_reducible apply Only.ite) | (with_reducible apply Only.ite_fst) | (with_reducible apply Only.eachOf (hf := fun _ _ => ?_)) | (with_reducible apply coreFail_step (hm := by decide)) | (with_reducible apply coreSwap_step (hm := by decide)) | (with_reducible apply State.set_step (hm := by decide)) | (with_reducible apply enterSafe_step (hm := by decide)) | (with_reducible apply Only.foldl (hg := fun _ _ => ?_)) | (with_reducible apply Only.foldl_fst (hg := fun _ _ => ?_)) | split | dsimp only | (with_reducible apply only_with_mb_step (hm := by decide)))
theorem swapsAtBlock_step {l₀ : List Part} {s₀ : State} (s : State) (due : List Bool) (h₀ : Only l₀ s₀ s) (hm : [.regs, .mb, .legs, .pwm, .safe, .pins, .bkg] ⊆ l₀) : Only l₀ s₀ (swapsAtBlock s due) :=
  h₀.step (swapsAtBlock_only s due) hm

theorem coresAtBlock_only (s : State) : Only [.regs, .mb, .legs, .pwm, .safe, .pins, .bkg] s (coresAtBlock s) := by
  unfold coresAtBlock
  try dsimp only
  repeat' (first | (with_reducible exact Only.refl _ _) | (with_reducible apply Only.ite) | (with_reducible apply Only.ite_fst) | (with_reducible apply handOffAtBlock_step (hm := by decide)) | (with_reducible apply swapsAtBlock_step (hm := by decide)) | (with_reducible apply overrunsAtBlock_step (hm := by decide)) | (with_reducible apply Only.foldl (hg := fun _ _ => ?_)) | (with_reducible apply Only.foldl_fst (hg := fun _ _ => ?_)) | split | dsimp only | (with_reducible apply only_with_mb_step (hm := by decide)))
theorem coresAtBlock_step {l₀ : List Part} {s₀ : State} (s : State) (h₀ : Only l₀ s₀ s) (hm : [.regs, .mb, .legs, .pwm, .safe, .pins, .bkg] ⊆ l₀) : Only l₀ s₀ (coresAtBlock s) :=
  h₀.step (coresAtBlock_only s) hm

theorem scenesAtBlock_only (s : State) : Only [.regs, .banks, .mb, .scn, .loops, .vent] s (scenesAtBlock s) := by
  unfold scenesAtBlock
  try dsimp only
  repeat' (first | (with_reducible exact Only.refl _ _) | (with_reducible apply Only.ite) | (with_reducible apply Only.ite_fst) | (with_reducible apply Only.eachOf (hf := fun _ _ => ?_)) | (with_reducible apply sceneWarmAtBlock_step (hm := by decide)) | (with_reducible apply speakerActivate_step (hm := by decide)) | (with_reducible apply sceneEndAtBlock_step (hm := by decide)) | (with_reducible apply laneActivate_step (hm := by decide)) | (with_reducible apply sceneActivate_step (hm := by decide)) | (with_reducible apply Only.foldl (hg := fun _ _ => ?_)) | (with_reducible apply Only.foldl_fst (hg := fun _ _ => ?_)) | split | dsimp only)
theorem scenesAtBlock_step {l₀ : List Part} {s₀ : State} (s : State) (h₀ : Only l₀ s₀ s) (hm : [.regs, .banks, .mb, .scn, .loops, .vent] ⊆ l₀) : Only l₀ s₀ (scenesAtBlock s) :=
  h₀.step (scenesAtBlock_only s) hm

theorem fadedTaps_only (s : State) : Only [.vent] s (fadedTaps s) := by
  unfold fadedTaps
  try dsimp only
  repeat' (first | (with_reducible exact Only.refl _ _) | (with_reducible apply Only.ite) | (with_reducible apply Only.ite_fst) | (with_reducible apply tapArrives_step (hm := by decide)) | (with_reducible apply Only.foldl (hg := fun _ _ => ?_)) | (with_reducible apply Only.foldl_fst (hg := fun _ _ => ?_)) | split | dsimp only)
theorem fadedTaps_step {l₀ : List Part} {s₀ : State} (s : State) (h₀ : Only l₀ s₀ s) (hm : [.vent] ⊆ l₀) : Only l₀ s₀ (fadedTaps s) :=
  h₀.step (fadedTaps_only s) hm

theorem unitsStart_only (s : State) : Only [.ain, .mb, .vent] s (unitsStart s) := by
  unfold unitsStart
  try dsimp only
  repeat' (first | (with_reducible exact Only.refl _ _) | (with_reducible apply Only.ite) | (with_reducible apply Only.ite_fst) | (with_reducible apply State.ainUp_step (hm := by decide)) | (with_reducible apply fadedTaps_step (hm := by decide)) | (with_reducible apply unitInputs_step (hm := by decide)) | (with_reducible apply unitStart_step (hm := by decide)) | (with_reducible apply Only.foldl (hg := fun _ _ => ?_)) | (with_reducible apply Only.foldl_fst (hg := fun _ _ => ?_)) | split | dsimp only | (with_reducible apply only_with_mb_step (hm := by decide)))
theorem unitsStart_step {l₀ : List Part} {s₀ : State} (s : State) (h₀ : Only l₀ s₀ s) (hm : [.ain, .mb, .vent] ⊆ l₀) : Only l₀ s₀ (unitsStart s) :=
  h₀.step (unitsStart_only s) hm

theorem speakersAtBlock_only (s : State) : Only [.regs, .banks, .vent] s (speakersAtBlock s) := by
  unfold speakersAtBlock
  try dsimp only
  repeat' (first | (with_reducible exact Only.refl _ _) | (with_reducible apply Only.ite) | (with_reducible apply Only.ite_fst) | (with_reducible apply Only.eachOf (hf := fun _ _ => ?_)) | (with_reducible apply pilotAtBlock_step (hm := by decide)) | (with_reducible apply sweepBoundary_step (hm := by decide)) | (with_reducible apply showTlim_step (hm := by decide)) | (with_reducible apply Only.foldl (hg := fun _ _ => ?_)) | (with_reducible apply Only.foldl_fst (hg := fun _ _ => ?_)) | split | dsimp only)
theorem speakersAtBlock_step {l₀ : List Part} {s₀ : State} (s : State) (h₀ : Only l₀ s₀ s) (hm : [.regs, .banks, .vent] ⊆ l₀) : Only l₀ s₀ (speakersAtBlock s) :=
  h₀.step (speakersAtBlock_only s) hm

theorem stepAtBlock_only (s : State) : Only [.regs, .conds, .time, .ain, .mb] s (stepAtBlock s) := by
  unfold stepAtBlock
  try dsimp only
  repeat' (first | (with_reducible exact Only.refl _ _) | (with_reducible apply Only.ite) | (with_reducible apply Only.ite_fst) | (with_reducible apply State.set_step (hm := by decide)) | (with_reducible apply ptpEnter_step (hm := by decide)) | (with_reducible apply Only.foldl (hg := fun _ _ => ?_)) | (with_reducible apply Only.foldl_fst (hg := fun _ _ => ?_)) | split | dsimp only | (with_reducible apply only_with_time_mb_step (hm := by decide)) | (with_reducible apply only_with_time_step (hm := by decide)) | (with_reducible apply only_with_mb_step (hm := by decide)))
theorem stepAtBlock_step {l₀ : List Part} {s₀ : State} (s : State) (h₀ : Only l₀ s₀ s) (hm : [.regs, .conds, .time, .ain, .mb] ⊆ l₀) : Only l₀ s₀ (stepAtBlock s) :=
  h₀.step (stepAtBlock_only s) hm

theorem tasksAtBlock_only (s : State) : Only [.regs, .bkg] s (tasksAtBlock s) := by
  unfold tasksAtBlock
  try dsimp only
  repeat' (first | (with_reducible exact Only.refl _ _) | (with_reducible apply Only.ite) | (with_reducible apply Only.ite_fst) | (with_reducible apply State.bkgUp_step (hm := by decide)) | (with_reducible apply State.raiseIf_step (hm := by decide)) | (with_reducible apply Only.foldl (hg := fun _ _ => ?_)) | (with_reducible apply Only.foldl_fst (hg := fun _ _ => ?_)) | split | dsimp only)
theorem tasksAtBlock_step {l₀ : List Part} {s₀ : State} (s : State) (h₀ : Only l₀ s₀ s) (hm : [.regs, .bkg] ⊆ l₀) : Only l₀ s₀ (tasksAtBlock s) :=
  h₀.step (tasksAtBlock_only s) hm

theorem blockTime_only (s : State) : Only [.regs, .conds, .gates, .time, .legs, .sense, .lanes, .loops, .lanePool, .trace, .bkg, .twin] s (blockTime s) := by
  unfold blockTime
  try dsimp only
  repeat' (first | (with_reducible exact Only.refl _ _) | (with_reducible apply Only.ite) | (with_reducible apply Only.ite_fst) | (with_reducible apply endUpdate_step (hm := by decide)) | (with_reducible apply State.twinUp_step (hm := by decide)) | (with_reducible apply Only.foldl (hg := fun _ _ => ?_)) | (with_reducible apply Only.foldl_fst (hg := fun _ _ => ?_)) | split | dsimp only | (with_reducible apply only_with_time_step (hm := by decide)))
theorem blockTime_step {l₀ : List Part} {s₀ : State} (s : State) (h₀ : Only l₀ s₀ s) (hm : [.regs, .conds, .gates, .time, .legs, .sense, .lanes, .loops, .lanePool, .trace, .bkg, .twin] ⊆ l₀) : Only l₀ s₀ (blockTime s) :=
  h₀.step (blockTime_only s) hm

theorem deliverPositions_only (s : State) (ws : List Word) : Only [.ain] s (deliverPositions s ws) := by
  fun_induction deliverPositions s ws with
  | case1 s p w rest pos owner direct s1 ih =>
    refine Only.trans ?_ ih
    show Only _ _ (if direct then _ else _)
    exact Only.ite (State.ainUp_only _ _) (State.ainUp_only _ _)
  | case2 => exact Only.refl _ _

theorem gateArrives_only (s : State) (g : Gate) (ws : List Word) : Only [.regs, .banks, .conds, .ain, .mb, .legs, .pwm, .safe, .pins, .loops, .vent, .mem, .rings, .twin] s (gateArrives s g ws) := by
  cases g
  case gd7 => exact (deliverPositions_only s ws).mono (by decide)
  case gd1 => exact (tapArrives_only s ws).mono (by decide)
  case gd2 => exact (gainsArrive_only s ws).mono (by decide)
  case gd3 => exact (interpTake_only s ws).mono (by decide)
  case gd4 => exact (measAll_only s ws).mono (by decide)
  case gd5 => exact (captureWord_only s _ _ _).mono (by decide)
  case gv2 => exact (telDeliver_only s ws).mono (by decide)
  case gl2 => exact (traceStore_only s _ ws).mono (by decide)
  case gs1 => exact (safeRequest_only s _ _ _).mono (by decide)
  case gs2 => exact (pwmActive_only s).mono (by decide)
  case gt1 => exact (frameLeaves_only s ws).mono (by decide)
  case gt3t => exact (markLeaves_only s ws).mono (by decide)
  all_goals exact Only.refl _ s
theorem gateArrives_step {l₀ : List Part} {s₀ : State} (s : State) (g : Gate) (ws : List Word) (h₀ : Only l₀ s₀ s) (hm : [.regs, .banks, .conds, .ain, .mb, .legs, .pwm, .safe, .pins, .loops, .vent, .mem, .rings, .twin] ⊆ l₀) : Only l₀ s₀ (gateArrives s g ws) :=
  h₀.step (gateArrives_only s g ws) hm

theorem gateDeliver_only (s : State) (g : Gate) : Only [.regs, .banks, .conds, .gates, .ain, .mb, .legs, .pwm, .safe, .pins, .loops, .vent, .mem, .rings, .twin] s (gateDeliver s g) := by
  unfold gateDeliver
  try dsimp only
  repeat' (first | (with_reducible exact Only.refl _ _) | (with_reducible apply Only.ite) | (with_reducible apply Only.ite_fst) | (with_reducible apply gatePop_step (hm := by decide)) | (with_reducible apply gateArrives_step (hm := by decide)) | (with_reducible apply Only.foldl (hg := fun _ _ => ?_)) | (with_reducible apply Only.foldl_fst (hg := fun _ _ => ?_)) | split | dsimp only)
theorem gateDeliver_step {l₀ : List Part} {s₀ : State} (s : State) (g : Gate) (h₀ : Only l₀ s₀ s) (hm : [.regs, .banks, .conds, .gates, .ain, .mb, .legs, .pwm, .safe, .pins, .loops, .vent, .mem, .rings, .twin] ⊆ l₀) : Only l₀ s₀ (gateDeliver s g) :=
  h₀.step (gateDeliver_only s g) hm

/-! ### The canonical form -/

theorem windowsAtUpdate_wf (s : State) (h₀ : Memory.wf s = true) : Memory.wf (windowsAtUpdate s) = true :=
  Only.wf (windowsAtUpdate_only s) (by decide) h₀

theorem endUpdate_wf (s : State) (h₀ : Memory.wf s = true) : Memory.wf (endUpdate s) = true := by
  unfold endUpdate
  try dsimp only
  repeat' (first | (with_reducible assumption) | (with_reducible apply wf_ite) | (with_reducible apply wf_ite_fst) | (with_reducible apply inputsAtUpdate_wf) | (with_reducible apply lanesEnd_wf) | (with_reducible apply windowsAtUpdate_wf) | (with_reducible apply wf_foldl (hg := fun _ _ _ => ?_)) | (with_reducible apply wf_foldl_fst (hg := fun _ _ _ => ?_)) | split | dsimp only | (with_reducible apply wf_with_time))

theorem sourcesAtUpdate_wf (s : State) (h₀ : Memory.wf s = true) : Memory.wf (sourcesAtUpdate s) = true := by
  unfold sourcesAtUpdate
  try dsimp only
  repeat' (first | (with_reducible assumption) | (with_reducible rfl) | (with_reducible apply wf_ite) | (with_reducible apply wf_ite_fst) | (with_reducible apply eachOf_wf (hf := fun _ _ _ => ?_)) | (with_reducible apply srcAtUpdate_wf) | (with_reducible apply gainRestart_wf) | (with_reducible apply wf_foldl (hg := fun _ _ _ => ?_)) | (with_reducible apply wf_foldl_fst (hg := fun _ _ _ => ?_)) | split | dsimp only | (with_reducible apply wf_with_heldU))

theorem startsAtUpdate_wf (s : State) (h₀ : Memory.wf s = true) : Memory.wf (startsAtUpdate s) = true := by
  unfold startsAtUpdate
  try dsimp only
  repeat' (first | (with_reducible assumption) | (with_reducible rfl) | (with_reducible apply wf_ite) | (with_reducible apply wf_ite_fst) | (with_reducible apply eachOf_wf (hf := fun _ _ _ => ?_)) | (with_reducible apply startAtUpdate_wf) | (with_reducible apply loadRestart_wf) | (with_reducible apply wf_foldl (hg := fun _ _ _ => ?_)) | (with_reducible apply wf_foldl_fst (hg := fun _ _ _ => ?_)) | split | dsimp only)

theorem updateBoundary_wf (s : State) (h₀ : Memory.wf s = true) : Memory.wf (updateBoundary s) = true := by
  unfold updateBoundary
  try dsimp only
  repeat' (first | (with_reducible assumption) | (with_reducible rfl) | (with_reducible apply wf_ite) | (with_reducible apply wf_ite_fst) | (with_reducible apply eachOf_wf (hf := fun _ _ _ => ?_)) | (with_reducible apply lanesStart_wf) | (with_reducible apply leakAtUpdate_wf) | (with_reducible apply comparatorsAtUpdate_wf) | (with_reducible apply legsAtUpdate_wf) | (with_reducible apply replacementsAtUpdate_wf) | (with_reducible apply sourcesAtUpdate_wf) | (with_reducible apply gatePush_wf) | (with_reducible apply programsAtUpdate_wf) | (with_reducible apply hbAtUpdate_wf) | (with_reducible apply haltAtUpdate_wf) | (with_reducible apply snapLoop_wf) | (with_reducible apply startsAtUpdate_wf) | (with_reducible apply endUpdate_wf) | (with_reducible apply cbcAtUpdate_wf) | (with_reducible apply holdRelease_wf) | (with_reducible apply pwmActive_wf) | (with_reducible apply releasesAtUpdate_wf) | (with_reducible apply rotationAtUpdate_wf) | (with_reducible apply wf_foldl (hg := fun _ _ _ => ?_)) | (with_reducible apply wf_foldl_fst (hg := fun _ _ _ => ?_)) | split | dsimp only | (with_reducible apply wf_with_time))

theorem telDrain_wf (s : State) (h₀ : Memory.wf s = true) : Memory.wf (telDrain s) = true := by
  unfold telDrain
  try dsimp only
  repeat' (first | (with_reducible assumption) | (with_reducible rfl) | (with_reducible apply wf_ite) | (with_reducible apply wf_ite_fst) | (with_reducible apply telDeliver_wf) | (with_reducible apply State.set_wf) | (with_reducible apply wf_foldl (hg := fun _ _ _ => ?_)) | (with_reducible apply wf_foldl_fst (hg := fun _ _ _ => ?_)) | split | dsimp only | (with_reducible apply wf_with_gates))

theorem cmdRun_wf (n : Nat) (s : State) (c : Nat) (h : Memory.wf s = true) : Memory.wf (cmdRun n s c) = true := by
  induction n generalizing s with
  | zero => exact h
  | succ n ih =>
    refine ih _ ?_
    split
    · exact regWrites_wf _ _ _ (cmdTake_wf _ _ h)
    · exact cmdTake_wf _ _ h
theorem cmdRings_wf (s : State) (h₀ : Memory.wf s = true) : Memory.wf (cmdRings s) = true := by
  unfold cmdRings
  exact cmdBoundaryEnd_wf _ (eachOf_wf (fun t c h => cmdRun_wf _ _ _ h) h₀)

theorem swapsAtBlock_wf (s : State) (due : List Bool) (h₀ : Memory.wf s = true) : Memory.wf (swapsAtBlock s due) = true := by
  unfold swapsAtBlock
  try dsimp only
  repeat' (first | (with_reducible assumption) | (with_reducible apply wf_ite) | (with_reducible apply wf_ite_fst) | (with_reducible apply eachOf_wf (hf := fun _ _ _ => ?_)) | (with_reducible apply coreFail_wf) | (with_reducible apply State.set_wf) | (with_reducible apply coreSwap_wf) | (with_reducible apply enterSafe_wf) | (with_reducible apply wf_foldl (hg := fun _ _ _ => ?_)) | (with_reducible apply wf_foldl_fst (hg := fun _ _ _ => ?_)) | split | dsimp only | (with_reducible apply wf_with_mb))

theorem coresAtBlock_wf (s : State) (h₀ : Memory.wf s = true) : Memory.wf (coresAtBlock s) = true := by
  unfold coresAtBlock
  try dsimp only
  repeat' (first | (with_reducible assumption) | (with_reducible apply wf_ite) | (with_reducible apply wf_ite_fst) | (with_reducible apply overrunsAtBlock_wf) | (with_reducible apply swapsAtBlock_wf) | (with_reducible apply handOffAtBlock_wf) | (with_reducible apply wf_foldl (hg := fun _ _ _ => ?_)) | (with_reducible apply wf_foldl_fst (hg := fun _ _ _ => ?_)) | split | dsimp only | (with_reducible apply wf_with_mb))

theorem scenesAtBlock_wf (s : State) (h₀ : Memory.wf s = true) : Memory.wf (scenesAtBlock s) = true := by
  unfold scenesAtBlock
  try dsimp only
  repeat' (first | (with_reducible assumption) | (with_reducible rfl) | (with_reducible apply wf_ite) | (with_reducible apply wf_ite_fst) | (with_reducible apply eachOf_wf (hf := fun _ _ _ => ?_)) | (with_reducible apply laneActivate_wf) | (with_reducible apply sceneEndAtBlock_wf) | (with_reducible apply sceneWarmAtBlock_wf) | (with_reducible apply sceneActivate_wf) | (with_reducible apply speakerActivate_wf) | (with_reducible apply wf_foldl (hg := fun _ _ _ => ?_)) | (with_reducible apply wf_foldl_fst (hg := fun _ _ _ => ?_)) | split | dsimp only)

theorem fadedTaps_wf (s : State) (h₀ : Memory.wf s = true) : Memory.wf (fadedTaps s) = true := by
  unfold fadedTaps
  try dsimp only
  repeat' (first | (with_reducible assumption) | (with_reducible rfl) | (with_reducible apply wf_ite) | (with_reducible apply wf_ite_fst) | (with_reducible apply tapArrives_wf) | (with_reducible apply wf_foldl (hg := fun _ _ _ => ?_)) | (with_reducible apply wf_foldl_fst (hg := fun _ _ _ => ?_)) | split | dsimp only)

theorem unitsStart_wf (s : State) (h₀ : Memory.wf s = true) : Memory.wf (unitsStart s) = true := by
  unfold unitsStart
  try dsimp only
  repeat' (first | (with_reducible assumption) | (with_reducible rfl) | (with_reducible apply wf_ite) | (with_reducible apply wf_ite_fst) | (with_reducible apply unitStart_wf) | (with_reducible apply State.ainUp_wf) | (with_reducible apply unitInputs_wf) | (with_reducible apply fadedTaps_wf) | (with_reducible apply wf_foldl (hg := fun _ _ _ => ?_)) | (with_reducible apply wf_foldl_fst (hg := fun _ _ _ => ?_)) | split | dsimp only | (with_reducible apply wf_with_mb))

theorem speakersAtBlock_wf (s : State) (h₀ : Memory.wf s = true) : Memory.wf (speakersAtBlock s) = true := by
  unfold speakersAtBlock
  try dsimp only
  repeat' (first | (with_reducible assumption) | (with_reducible rfl) | (with_reducible apply wf_ite) | (with_reducible apply wf_ite_fst) | (with_reducible apply eachOf_wf (hf := fun _ _ _ => ?_)) | (with_reducible apply sweepBoundary_wf) | (with_reducible apply pilotAtBlock_wf) | (with_reducible apply showTlim_wf) | (with_reducible apply wf_foldl (hg := fun _ _ _ => ?_)) | (with_reducible apply wf_foldl_fst (hg := fun _ _ _ => ?_)) | split | dsimp only)

theorem stepAtBlock_wf (s : State) (h₀ : Memory.wf s = true) : Memory.wf (stepAtBlock s) = true := by
  unfold stepAtBlock
  try dsimp only
  repeat' (first | (with_reducible assumption) | (with_reducible apply wf_ite) | (with_reducible apply wf_ite_fst) | (with_reducible apply ptpEnter_wf) | (with_reducible apply State.set_wf) | (with_reducible apply wf_foldl (hg := fun _ _ _ => ?_)) | (with_reducible apply wf_foldl_fst (hg := fun _ _ _ => ?_)) | split | dsimp only | (with_reducible apply wf_with_time) | (with_reducible apply wf_with_mb) | (with_reducible apply wf_with_time_mb))

theorem tasksAtBlock_wf (s : State) (h₀ : Memory.wf s = true) : Memory.wf (tasksAtBlock s) = true := by
  unfold tasksAtBlock
  try dsimp only
  repeat' (first | (with_reducible assumption) | (with_reducible apply wf_ite) | (with_reducible apply wf_ite_fst) | (with_reducible apply State.bkgUp_wf) | (with_reducible apply State.raiseIf_wf) | (with_reducible apply wf_foldl (hg := fun _ _ _ => ?_)) | (with_reducible apply wf_foldl_fst (hg := fun _ _ _ => ?_)) | split | dsimp only)

theorem blockTime_wf (s : State) (h₀ : Memory.wf s = true) : Memory.wf (blockTime s) = true := by
  unfold blockTime
  try dsimp only
  repeat' (first | (with_reducible assumption) | (with_reducible apply wf_ite) | (with_reducible apply wf_ite_fst) | (with_reducible apply State.twinUp_wf) | (with_reducible apply endUpdate_wf) | (with_reducible apply wf_foldl (hg := fun _ _ _ => ?_)) | (with_reducible apply wf_foldl_fst (hg := fun _ _ _ => ?_)) | split | dsimp only | (with_reducible apply wf_with_time))

theorem blockBoundary_wf (s : State) (muteN : Bool) (h₀ : Memory.wf s = true) : Memory.wf (blockBoundary s muteN) = true := by
  unfold blockBoundary
  try dsimp only
  repeat' (first | (with_reducible assumption) | (with_reducible rfl) | (with_reducible apply wf_ite) | (with_reducible apply wf_ite_fst) | (with_reducible apply eachOf_wf (hf := fun _ _ _ => ?_)) | (with_reducible apply windowEnd_wf) | (with_reducible apply gainsAtBlock_wf) | (with_reducible apply laAtBlock_wf) | (with_reducible apply unitsStart_wf) | (with_reducible apply mutesAtBlock_wf) | (with_reducible apply coreAtBlock_wf) | (with_reducible apply scenesAtBlock_wf) | (with_reducible apply showFades_wf) | (with_reducible apply telDrain_wf) | (with_reducible apply modeAtBlock_wf) | (with_reducible apply sceneEndAtBlock_wf) | (with_reducible apply twinAtBlock_wf) | (with_reducible apply tasksAtBlock_wf) | (with_reducible apply stepAtBlock_wf) | (with_reducible apply unitsAtBlock_wf) | (with_reducible apply streamsAtBlock_wf) | (with_reducible apply coresAtBlock_wf) | (with_reducible apply kAtBlock_wf) | (with_reducible apply speakersAtBlock_wf) | (with_reducible apply strAtBlock_wf) | (with_reducible apply ptpHistAtBlock_wf) | (with_reducible apply loopAtBlock_wf) | (with_reducible apply readyAtBlock_wf) | (with_reducible apply inputsAtBlock_wf) | (with_reducible apply cmdRings_wf) | (with_reducible apply blockTime_wf) | (with_reducible apply ppsOutAtBlock_wf) | (with_reducible apply wf_foldl (hg := fun _ _ _ => ?_)) | (with_reducible apply wf_foldl_fst (hg := fun _ _ _ => ?_)) | split | dsimp only | (with_reducible apply wf_with_heldB))

theorem gateArrives_wf (s : State) (g : Gate) (ws : List Word) (h₀ : Memory.wf s = true) : Memory.wf (gateArrives s g ws) = true := by
  cases g
  case gd7 => exact Only.wf (deliverPositions_only s ws) (by decide) h₀
  case gd1 => exact tapArrives_wf s ws h₀
  case gd2 => exact gainsArrive_wf s ws h₀
  case gd3 => exact interpTake_wf s ws h₀
  case gd4 => exact measAll_wf s ws h₀
  case gd5 => exact captureWord_wf s _ _ _ h₀
  case gv2 => exact telDeliver_wf s ws h₀
  case gl2 => exact traceStore_wf s _ ws h₀
  case gs1 => exact safeRequest_wf s _ _ _ h₀
  case gs2 => exact pwmActive_wf s h₀
  case gt1 => exact frameLeaves_wf s ws h₀
  case gt3t => exact markLeaves_wf s ws h₀
  all_goals exact h₀

theorem gateDeliver_wf (s : State) (g : Gate) (h₀ : Memory.wf s = true) : Memory.wf (gateDeliver s g) = true := by
  unfold gateDeliver
  try dsimp only
  repeat' (first | (with_reducible assumption) | (with_reducible rfl) | (with_reducible apply wf_ite) | (with_reducible apply wf_ite_fst) | (with_reducible apply gateArrives_wf) | (with_reducible apply gatePop_wf) | (with_reducible apply wf_foldl (hg := fun _ _ _ => ?_)) | (with_reducible apply wf_foldl_fst (hg := fun _ _ _ => ?_)) | split | dsimp only)

end Sys2Proof.Machine
end

