-- ==== Sys2Proof/Laws/FrameOperands.lean ====
section
/-! SUPPORT. Laws/FrameOperands.lean: what the operations of Machine/Operands.lean may change (f_only; f_step after what went before), and
that each keeps the memories' canonical form (f_wf). -/

set_option Elab.async false
set_option linter.all false

namespace Sys2Proof.Machine

theorem Only.aliasAt {l : List Part} {r s : State} {d : Path} {p : Nat} {f : State → State} (hf : ∀ t, Only l t (f t))
    (hm : [.hst] ⊆ l) (h : Only l r s) : Only l r (aliasAt s d p f) := Only.fieldAt hf hm h

/-! ### The canonical form -/

theorem granted_wf (s : State) (p : Nat) (h₀ : Memory.wf s = true) : Memory.wf (granted s p) = true :=
  Only.wf (granted_only s p) (by decide) h₀

theorem aliasAt_wf {s : State} {d : Path} {p : Nat} {f : State → State} (hf : ∀ t, Memory.wf t = true → Memory.wf (f t) = true)
    (h : Memory.wf s = true) : Memory.wf (aliasAt s d p f) = true := fieldAt_wf hf h

end Sys2Proof.Machine
end

