-- ==== Sys2Proof/Laws/FrameCommands.lean ====
section
/-! SUPPORT. Laws/FrameCommands.lean: what each command may change where it answers a next state (execC_only), and that each keeps the
memories' canonical form (execC_wf). The queue is in no list: no command changes it. -/

set_option Elab.async false
set_option linter.all false

namespace Sys2Proof.Machine

theorem awake_only {l : List Part} {s u t : State} (h : awake s u = .next t) (k : Only l s u) : Only l s t := by
  unfold awake at h
  cases h
  refine Only.ite (Only.refl _ _) ?_
  intro p hp
  have a := k p hp
  cases p <;> first | exact a | rfl

theorem awake_wf {s u t : State} (h : awake s u = .next t) (k : Memory.wf u = true) (hs : Memory.wf s = true) :
    Memory.wf t = true := by
  unfold awake at h
  cases h
  exact wf_ite hs k

theorem execPtpAnnounceRx_only (port : NetPort) (domain : Byte) (a : Announce) {s s1 : State} (h : execPtpAnnounceRx port domain a s = .next s1) :
    Only [.regs, .conds, .ain] s s1 := by
  unfold execPtpAnnounceRx at h
  refine awake_only h ?_
  repeat' (first | (with_reducible exact Only.refl _ _) | (with_reducible apply Only.ite) | (with_reducible apply ptpAnnounce_step (hm := by decide)) | split | dsimp only)

theorem execPtpAnnounceRx_wf (port : NetPort) (domain : Byte) (a : Announce) {s s1 : State} (h : execPtpAnnounceRx port domain a s = .next s1) (h₀ : Memory.wf s = true) : Memory.wf s1 = true := by
  unfold execPtpAnnounceRx at h
  refine awake_wf h ?_ h₀
  repeat' (first | (with_reducible assumption) | (with_reducible apply wf_ite) | (with_reducible apply ptpAnnounce_wf) | split | dsimp only)

theorem execPtpSyncRx_only (port : NetPort) (domain : Byte) (gm : BitVec 64) (twoStep : Bool) (diff : Int) {s s1 : State} (h : execPtpSyncRx port domain gm twoStep diff s = .next s1) :
    Only [.regs, .conds, .free, .ain] s s1 := by
  unfold execPtpSyncRx at h
  refine awake_only h ?_
  repeat' (first | (with_reducible exact Only.refl _ _) | (with_reducible apply Only.ite) | (with_reducible apply ptpSync_step (hm := by decide)) | split | dsimp only)

theorem execPtpSyncRx_wf (port : NetPort) (domain : Byte) (gm : BitVec 64) (twoStep : Bool) (diff : Int) {s s1 : State} (h : execPtpSyncRx port domain gm twoStep diff s = .next s1) (h₀ : Memory.wf s = true) : Memory.wf s1 = true := by
  unfold execPtpSyncRx at h
  refine awake_wf h ?_ h₀
  repeat' (first | (with_reducible assumption) | (with_reducible apply wf_ite) | (with_reducible apply ptpSync_wf) | split | dsimp only)

theorem execPtpFollowUpRx_only (port : NetPort) (domain : Byte) (gm : BitVec 64) (diff : Int) {s s1 : State} (h : execPtpFollowUpRx port domain gm diff s = .next s1) :
    Only [.regs, .conds, .free, .ain] s s1 := by
  unfold execPtpFollowUpRx at h
  refine awake_only h ?_
  repeat' (first | (with_reducible exact Only.refl _ _) | (with_reducible apply Only.ite) | (with_reducible apply ptpFollowUp_step (hm := by decide)) | split | dsimp only)

theorem execPtpFollowUpRx_wf (port : NetPort) (domain : Byte) (gm : BitVec 64) (diff : Int) {s s1 : State} (h : execPtpFollowUpRx port domain gm diff s = .next s1) (h₀ : Memory.wf s = true) : Memory.wf s1 = true := by
  unfold execPtpFollowUpRx at h
  refine awake_wf h ?_ h₀
  repeat' (first | (with_reducible assumption) | (with_reducible apply wf_ite) | (with_reducible apply ptpFollowUp_wf) | split | dsimp only)

theorem execPtpDelayRespRx_only (port : NetPort) (domain : Byte) (reqDiff : Int) {s s1 : State} (h : execPtpDelayRespRx port domain reqDiff s = .next s1) :
    Only [.ain] s s1 := by
  unfold execPtpDelayRespRx at h
  refine awake_only h ?_
  repeat' (first | (with_reducible exact Only.refl _ _) | (with_reducible apply Only.ite) | (with_reducible apply ptpDelayResp_step (hm := by decide)) | split | dsimp only)

theorem execPtpDelayRespRx_wf (port : NetPort) (domain : Byte) (reqDiff : Int) {s s1 : State} (h : execPtpDelayRespRx port domain reqDiff s = .next s1) (h₀ : Memory.wf s = true) : Memory.wf s1 = true := by
  unfold execPtpDelayRespRx at h
  refine awake_wf h ?_ h₀
  repeat' (first | (with_reducible assumption) | (with_reducible apply wf_ite) | (with_reducible apply ptpDelayResp_wf) | split | dsimp only)

theorem execDelayReqTx_only (port : NetPort) {s s1 : State} (h : execDelayReqTx port s = .next s1) :
    Only [.regs, .gates] s s1 := by
  unfold execDelayReqTx at h
  refine awake_only h ?_
  repeat' (first | (with_reducible exact Only.refl _ _) | (with_reducible apply Only.ite) | (with_reducible apply gatePush_step (hm := by decide)) | split | dsimp only)

theorem execDelayReqTx_wf (port : NetPort) {s s1 : State} (h : execDelayReqTx port s = .next s1) (h₀ : Memory.wf s = true) : Memory.wf s1 = true := by
  unfold execDelayReqTx at h
  refine awake_wf h ?_ h₀
  repeat' (first | (with_reducible assumption) | (with_reducible apply wf_ite) | (with_reducible apply gatePush_wf) | split | dsimp only)

theorem execAnnounceTimeout_only (port : NetPort) {s s1 : State} (h : execAnnounceTimeout port s = .next s1) :
    Only [.regs, .conds, .ain] s s1 := by
  unfold execAnnounceTimeout at h
  refine awake_only h ?_
  repeat' (first | (with_reducible exact Only.refl _ _) | (with_reducible apply Only.ite) | (with_reducible apply ptpTimeout_step (hm := by decide)) | split | dsimp only)

theorem execAnnounceTimeout_wf (port : NetPort) {s s1 : State} (h : execAnnounceTimeout port s = .next s1) (h₀ : Memory.wf s = true) : Memory.wf s1 = true := by
  unfold execAnnounceTimeout at h
  refine awake_wf h ?_ h₀
  repeat' (first | (with_reducible assumption) | (with_reducible apply wf_ite) | (with_reducible apply ptpTimeout_wf) | split | dsimp only)

theorem execPpsInEdge_only {s s1 : State} (h : execPpsInEdge s = .next s1) :
    Only [.regs, .conds, .free, .time, .ain] s s1 := by
  unfold execPpsInEdge at h
  refine awake_only h ?_
  repeat' (first | (with_reducible exact Only.refl _ _) | (with_reducible apply Only.ite) | (with_reducible apply ppsEdge_step (hm := by decide)) | split | dsimp only)

theorem execPpsInEdge_wf {s s1 : State} (h : execPpsInEdge s = .next s1) (h₀ : Memory.wf s = true) : Memory.wf s1 = true := by
  unfold execPpsInEdge at h
  refine awake_wf h ?_ h₀
  repeat' (first | (with_reducible assumption) | (with_reducible apply wf_ite) | (with_reducible apply ppsEdge_wf) | split | dsimp only)

theorem execPpsTimeout_only {s s1 : State} (h : execPpsTimeout s = .next s1) :
    Only [.regs, .conds, .ain] s s1 := by
  unfold execPpsTimeout at h
  refine awake_only h ?_
  repeat' (first | (with_reducible exact Only.refl _ _) | (with_reducible apply Only.ite) | (with_reducible apply ppsTimeout_step (hm := by decide)) | split | dsimp only)

theorem execPpsTimeout_wf {s s1 : State} (h : execPpsTimeout s = .next s1) (h₀ : Memory.wf s = true) : Memory.wf s1 = true := by
  unfold execPpsTimeout at h
  refine awake_wf h ?_ h₀
  repeat' (first | (with_reducible assumption) | (with_reducible apply wf_ite) | (with_reducible apply ppsTimeout_wf) | split | dsimp only)

theorem execStepNow_only {s s1 : State} (h : execStepNow s = .next s1) :
    Only [.regs, .hst] s s1 := by
  unfold execStepNow at h
  refine awake_only h ?_
  repeat' (first | (with_reducible exact Only.refl _ _) | (with_reducible apply Only.ite) | (with_reducible apply Only.fieldAt (hf := fun _ => ?_) (hm := by decide)) | (with_reducible apply stepNow_step (hm := by decide)) | split | dsimp only)

theorem execStepNow_wf {s s1 : State} (h : execStepNow s = .next s1) (h₀ : Memory.wf s = true) : Memory.wf s1 = true := by
  unfold execStepNow at h
  refine awake_wf h ?_ h₀
  repeat' (first | (with_reducible assumption) | (with_reducible apply wf_ite) | (with_reducible apply fieldAt_wf (hf := fun _ _ => ?_)) | (with_reducible apply stepNow_wf) | split | dsimp only)

theorem execPpsOutFall_only {s s1 : State} (h : execPpsOutFall s = .next s1) :
    Only [.ain] s s1 := by
  unfold execPpsOutFall at h
  refine awake_only h ?_
  repeat' (first | (with_reducible exact Only.refl _ _) | (with_reducible apply Only.ite) | (with_reducible apply State.ptpUp_step (hm := by decide)) | split | dsimp only)

theorem execPpsOutFall_wf {s s1 : State} (h : execPpsOutFall s = .next s1) (h₀ : Memory.wf s = true) : Memory.wf s1 = true := by
  unfold execPpsOutFall at h
  refine awake_wf h ?_ h₀
  repeat' (first | (with_reducible assumption) | (with_reducible apply wf_ite) | (with_reducible apply State.ptpUp_wf) | split | dsimp only)

theorem execAes67PacketRx_only (port : NetPort) (dst : Word) (udp : Word16) (ssrc ts : Word) (ws : List Word) {s s1 : State} (h : execAes67PacketRx port dst udp ssrc ts ws s = .next s1) :
    Only [.regs, .ain] s s1 := by
  unfold execAes67PacketRx at h
  refine awake_only h ?_
  repeat' (first | (with_reducible exact Only.refl _ _) | (with_reducible apply Only.ite) | (with_reducible apply packetRx_step (hm := by decide)) | split | dsimp only)

theorem execAes67PacketRx_wf (port : NetPort) (dst : Word) (udp : Word16) (ssrc ts : Word) (ws : List Word) {s s1 : State} (h : execAes67PacketRx port dst udp ssrc ts ws s = .next s1) (h₀ : Memory.wf s = true) : Memory.wf s1 = true := by
  unfold execAes67PacketRx at h
  refine awake_wf h ?_ h₀
  repeat' (first | (with_reducible assumption) | (with_reducible apply wf_ite) | (with_reducible apply packetRx_wf) | split | dsimp only)

theorem execSsrcTimeout_only (i : Fin 16) {s s1 : State} (h : execSsrcTimeout i s = .next s1) :
    Only [.regs] s s1 := by
  unfold execSsrcTimeout at h
  refine awake_only h ?_
  repeat' (first | (with_reducible exact Only.refl _ _) | (with_reducible apply Only.ite) | (with_reducible apply State.set_step (hm := by decide)) | split | dsimp only)

theorem execSsrcTimeout_wf (i : Fin 16) {s s1 : State} (h : execSsrcTimeout i s = .next s1) (h₀ : Memory.wf s = true) : Memory.wf s1 = true := by
  unfold execSsrcTimeout at h
  refine awake_wf h ?_ h₀
  repeat' (first | (with_reducible assumption) | (with_reducible apply wf_ite) | (with_reducible apply State.set_wf) | split | dsimp only)

theorem execStreamRxTimeout_only (i : Fin 16) (port : NetPort) {s s1 : State} (h : execStreamRxTimeout i port s = .next s1) :
    Only [.regs] s s1 := by
  unfold execStreamRxTimeout at h
  refine awake_only h ?_
  repeat' (first | (with_reducible exact Only.refl _ _) | (with_reducible apply Only.ite) | (with_reducible apply State.set_step (hm := by decide)) | split | dsimp only)

theorem execStreamRxTimeout_wf (i : Fin 16) (port : NetPort) {s s1 : State} (h : execStreamRxTimeout i port s = .next s1) (h₀ : Memory.wf s = true) : Memory.wf s1 = true := by
  unfold execStreamRxTimeout at h
  refine awake_wf h ?_ h₀
  repeat' (first | (with_reducible assumption) | (with_reducible apply wf_ite) | (with_reducible apply State.set_wf) | split | dsimp only)

theorem execReceiveRead_only {s s1 : State} (h : execReceiveRead s = .next s1) :
    Only [.regs, .gates, .ain] s s1 := by
  unfold execReceiveRead at h
  refine awake_only h ?_
  repeat' (first | (with_reducible exact Only.refl _ _) | (with_reducible apply Only.ite) | (with_reducible apply samplePeriod_step (hm := by decide)) | split | dsimp only)

theorem execReceiveRead_wf {s s1 : State} (h : execReceiveRead s = .next s1) (h₀ : Memory.wf s = true) : Memory.wf s1 = true := by
  unfold execReceiveRead at h
  refine awake_wf h ?_ h₀
  repeat' (first | (with_reducible assumption) | (with_reducible apply wf_ite) | (with_reducible apply samplePeriod_wf) | split | dsimp only)

theorem execStreamEnable_only (i : Fin 16) (v : Word) {s s1 : State} (h : execStreamEnable i v s = .next s1) :
    Only [.regs, .gates, .ain, .hst] s s1 := by
  unfold execStreamEnable at h
  refine awake_only h ?_
  repeat' (first | (with_reducible exact Only.refl _ _) | (with_reducible apply Only.ite) | (with_reducible apply Only.fieldAt (hf := fun _ => ?_) (hm := by decide)) | (with_reducible apply writeScfg_step (hm := by decide)) | split | dsimp only)

theorem execStreamEnable_wf (i : Fin 16) (v : Word) {s s1 : State} (h : execStreamEnable i v s = .next s1) (h₀ : Memory.wf s = true) : Memory.wf s1 = true := by
  unfold execStreamEnable at h
  refine awake_wf h ?_ h₀
  repeat' (first | (with_reducible assumption) | (with_reducible apply wf_ite) | (with_reducible apply fieldAt_wf (hf := fun _ _ => ?_)) | (with_reducible apply writeScfg_wf) | split | dsimp only)

theorem execStreamDisable_only (i : Fin 16) (v : Word) {s s1 : State} (h : execStreamDisable i v s = .next s1) :
    Only [.regs, .gates, .ain, .hst] s s1 := by
  unfold execStreamDisable at h
  refine awake_only h ?_
  repeat' (first | (with_reducible exact Only.refl _ _) | (with_reducible apply Only.ite) | (with_reducible apply Only.fieldAt (hf := fun _ => ?_) (hm := by decide)) | (with_reducible apply writeScfg_step (hm := by decide)) | split | dsimp only)

theorem execStreamDisable_wf (i : Fin 16) (v : Word) {s s1 : State} (h : execStreamDisable i v s = .next s1) (h₀ : Memory.wf s = true) : Memory.wf s1 = true := by
  unfold execStreamDisable at h
  refine awake_wf h ?_ h₀
  repeat' (first | (with_reducible assumption) | (with_reducible apply wf_ite) | (with_reducible apply fieldAt_wf (hf := fun _ _ => ?_)) | (with_reducible apply writeScfg_wf) | split | dsimp only)

theorem execTdmFrameRx_only (i : Fin 4) (bclks : Nat) (ws : List Word) {s s1 : State} (h : execTdmFrameRx i bclks ws s = .next s1) :
    Only [.free, .ain] s s1 := by
  unfold execTdmFrameRx at h
  refine awake_only h ?_
  repeat' (first | (with_reducible exact Only.refl _ _) | (with_reducible apply Only.ite) | (with_reducible apply tdmFrame_step (hm := by decide)) | split | dsimp only)

theorem execTdmFrameRx_wf (i : Fin 4) (bclks : Nat) (ws : List Word) {s s1 : State} (h : execTdmFrameRx i bclks ws s = .next s1) (h₀ : Memory.wf s = true) : Memory.wf s1 = true := by
  unfold execTdmFrameRx at h
  refine awake_wf h ?_ h₀
  repeat' (first | (with_reducible assumption) | (with_reducible apply wf_ite) | (with_reducible apply tdmFrame_wf) | split | dsimp only)

theorem execTdmFsTimeout_only (i : Fin 4) {s s1 : State} (h : execTdmFsTimeout i s = .next s1) :
    Only [.regs, .ain] s s1 := by
  unfold execTdmFsTimeout at h
  refine awake_only h ?_
  repeat' (first | (with_reducible exact Only.refl _ _) | (with_reducible apply Only.ite) | (with_reducible apply tdmLose_step (hm := by decide)) | split | dsimp only)

theorem execTdmFsTimeout_wf (i : Fin 4) {s s1 : State} (h : execTdmFsTimeout i s = .next s1) (h₀ : Memory.wf s = true) : Memory.wf s1 = true := by
  unfold execTdmFsTimeout at h
  refine awake_wf h ?_ h₀
  repeat' (first | (with_reducible assumption) | (with_reducible apply wf_ite) | (with_reducible apply tdmLose_wf) | split | dsimp only)

theorem execTdmLockLoss_only (i : Fin 4) {s s1 : State} (h : execTdmLockLoss i s = .next s1) :
    Only [.regs, .ain] s s1 := by
  unfold execTdmLockLoss at h
  refine awake_only h ?_
  repeat' (first | (with_reducible exact Only.refl _ _) | (with_reducible apply Only.ite) | (with_reducible apply tdmLose_step (hm := by decide)) | split | dsimp only)

theorem execTdmLockLoss_wf (i : Fin 4) {s s1 : State} (h : execTdmLockLoss i s = .next s1) (h₀ : Memory.wf s = true) : Memory.wf s1 = true := by
  unfold execTdmLockLoss at h
  refine awake_wf h ?_ h₀
  repeat' (first | (with_reducible assumption) | (with_reducible apply wf_ite) | (with_reducible apply tdmLose_wf) | split | dsimp only)

theorem execTdmLockGain_only (i : Fin 4) (rate : BitVec 3) {s s1 : State} (h : execTdmLockGain i rate s = .next s1) :
    Only [.regs, .ain] s s1 := by
  unfold execTdmLockGain at h
  refine awake_only h ?_
  repeat' (first | (with_reducible exact Only.refl _ _) | (with_reducible apply Only.ite) | (with_reducible apply tdmGain_step (hm := by decide)) | split | dsimp only)

theorem execTdmLockGain_wf (i : Fin 4) (rate : BitVec 3) {s s1 : State} (h : execTdmLockGain i rate s = .next s1) (h₀ : Memory.wf s = true) : Memory.wf s1 = true := by
  unfold execTdmLockGain at h
  refine awake_wf h ?_ h₀
  repeat' (first | (with_reducible assumption) | (with_reducible apply wf_ite) | (with_reducible apply tdmGain_wf) | split | dsimp only)

theorem execAes3SubframeRx_only (i : Fin 4) (sub : Fin 2) (w : BitVec 24) (parityOk invalid : Bool) {s s1 : State} (h : execAes3SubframeRx i sub w parityOk invalid s = .next s1) :
    Only [.regs, .ain] s s1 := by
  unfold execAes3SubframeRx at h
  refine awake_only h ?_
  repeat' (first | (with_reducible exact Only.refl _ _) | (with_reducible apply Only.ite) | (with_reducible apply aesSubframe_step (hm := by decide)) | split | dsimp only)

theorem execAes3SubframeRx_wf (i : Fin 4) (sub : Fin 2) (w : BitVec 24) (parityOk invalid : Bool) {s s1 : State} (h : execAes3SubframeRx i sub w parityOk invalid s = .next s1) (h₀ : Memory.wf s = true) : Memory.wf s1 = true := by
  unfold execAes3SubframeRx at h
  refine awake_wf h ?_ h₀
  repeat' (first | (with_reducible assumption) | (with_reducible apply wf_ite) | (with_reducible apply aesSubframe_wf) | split | dsimp only)

theorem execAes3CsBlockRx_only (i : Fin 4) (bytes : List Byte) (good : Bool) {s s1 : State} (h : execAes3CsBlockRx i bytes good s = .next s1) :
    Only [.regs, .ain] s s1 := by
  unfold execAes3CsBlockRx at h
  refine awake_only h ?_
  repeat' (first | (with_reducible exact Only.refl _ _) | (with_reducible apply Only.ite) | (with_reducible apply aesStatus_step (hm := by decide)) | split | dsimp only)

theorem execAes3CsBlockRx_wf (i : Fin 4) (bytes : List Byte) (good : Bool) {s s1 : State} (h : execAes3CsBlockRx i bytes good s = .next s1) (h₀ : Memory.wf s = true) : Memory.wf s1 = true := by
  unfold execAes3CsBlockRx at h
  refine awake_wf h ?_ h₀
  repeat' (first | (with_reducible assumption) | (with_reducible apply wf_ite) | (with_reducible apply aesStatus_wf) | split | dsimp only)

theorem execAes3Lock_only (i : Fin 4) (rate : BitVec 3) {s s1 : State} (h : execAes3Lock i rate s = .next s1) :
    Only [.regs, .ain] s s1 := by
  unfold execAes3Lock at h
  refine awake_only h ?_
  repeat' (first | (with_reducible exact Only.refl _ _) | (with_reducible apply Only.ite) | (with_reducible apply aesLock_step (hm := by decide)) | split | dsimp only)

theorem execAes3Lock_wf (i : Fin 4) (rate : BitVec 3) {s s1 : State} (h : execAes3Lock i rate s = .next s1) (h₀ : Memory.wf s = true) : Memory.wf s1 = true := by
  unfold execAes3Lock at h
  refine awake_wf h ?_ h₀
  repeat' (first | (with_reducible assumption) | (with_reducible apply wf_ite) | (with_reducible apply aesLock_wf) | split | dsimp only)

theorem execAes3LockLoss_only (i : Fin 4) {s s1 : State} (h : execAes3LockLoss i s = .next s1) :
    Only [.regs, .ain] s s1 := by
  unfold execAes3LockLoss at h
  refine awake_only h ?_
  repeat' (first | (with_reducible exact Only.refl _ _) | (with_reducible apply Only.ite) | (with_reducible apply aesLose_step (hm := by decide)) | split | dsimp only)

theorem execAes3LockLoss_wf (i : Fin 4) {s s1 : State} (h : execAes3LockLoss i s = .next s1) (h₀ : Memory.wf s = true) : Memory.wf s1 = true := by
  unfold execAes3LockLoss at h
  refine awake_wf h ?_ h₀
  repeat' (first | (with_reducible assumption) | (with_reducible apply wf_ite) | (with_reducible apply aesLose_wf) | split | dsimp only)

theorem execAsrcLock_only (d : Fin 8) {s s1 : State} (h : execAsrcLock d s = .next s1) :
    Only [.regs, .ain] s s1 := by
  unfold execAsrcLock at h
  refine awake_only h ?_
  repeat' (first | (with_reducible exact Only.refl _ _) | (with_reducible apply Only.ite) | (with_reducible apply asrcLock_step (hm := by decide)) | split | dsimp only)

theorem execAsrcLock_wf (d : Fin 8) {s s1 : State} (h : execAsrcLock d s = .next s1) (h₀ : Memory.wf s = true) : Memory.wf s1 = true := by
  unfold execAsrcLock at h
  refine awake_wf h ?_ h₀
  repeat' (first | (with_reducible assumption) | (with_reducible apply wf_ite) | (with_reducible apply asrcLock_wf) | split | dsimp only)

theorem execAsrcUnlock_only (d : Fin 8) {s s1 : State} (h : execAsrcUnlock d s = .next s1) :
    Only [.regs, .ain] s s1 := by
  unfold execAsrcUnlock at h
  refine awake_only h ?_
  repeat' (first | (with_reducible exact Only.refl _ _) | (with_reducible apply Only.ite) | (with_reducible apply asrcUnlock_step (hm := by decide)) | split | dsimp only)

theorem execAsrcUnlock_wf (d : Fin 8) {s s1 : State} (h : execAsrcUnlock d s = .next s1) (h₀ : Memory.wf s = true) : Memory.wf s1 = true := by
  unfold execAsrcUnlock at h
  refine awake_wf h ?_ h₀
  repeat' (first | (with_reducible assumption) | (with_reducible apply wf_ite) | (with_reducible apply asrcUnlock_wf) | split | dsimp only)

theorem execCsSelect_only (v : Word) {s s1 : State} (h : execCsSelect v s = .next s1) :
    Only [.regs, .ain, .hst] s s1 := by
  unfold execCsSelect at h
  refine awake_only h ?_
  repeat' (first | (with_reducible exact Only.refl _ _) | (with_reducible apply Only.ite) | (with_reducible apply Only.fieldAt (hf := fun _ => ?_) (hm := by decide)) | (with_reducible apply csSelect_step (hm := by decide)) | split | dsimp only)

theorem execCsSelect_wf (v : Word) {s s1 : State} (h : execCsSelect v s = .next s1) (h₀ : Memory.wf s = true) : Memory.wf s1 = true := by
  unfold execCsSelect at h
  refine awake_wf h ?_ h₀
  repeat' (first | (with_reducible assumption) | (with_reducible apply wf_ite) | (with_reducible apply fieldAt_wf (hf := fun _ _ => ?_)) | (with_reducible apply csSelect_wf) | split | dsimp only)

theorem execCsDataRead_only {s s1 : State} (h : execCsDataRead s = .next s1) :
    Only [.regs, .rdata] s s1 := by
  unfold execCsDataRead at h
  refine awake_only h ?_
  repeat' (first | (with_reducible exact Only.refl _ _) | (with_reducible apply Only.ite) | (with_reducible apply Only.readAt (hf := fun _ => ?_) (hm := by decide)) | (with_reducible apply csRead_step (hm := by decide)) | split | dsimp only)

theorem execCsDataRead_wf {s s1 : State} (h : execCsDataRead s = .next s1) (h₀ : Memory.wf s = true) : Memory.wf s1 = true := by
  unfold execCsDataRead at h
  refine awake_wf h ?_ h₀
  repeat' (first | (with_reducible assumption) | (with_reducible apply wf_ite) | (with_reducible apply readAt_wf (hf := fun _ _ => ?_)) | (with_reducible apply csRead_wf) | split | dsimp only)

theorem execMixDataWrite_only (v : Word) {s s1 : State} (h : execMixDataWrite v s = .next s1) :
    Only [.regs, .banks, .hst] s s1 := by
  unfold execMixDataWrite at h
  refine awake_only h ?_
  repeat' (first | (with_reducible exact Only.refl _ _) | (with_reducible apply Only.ite) | (with_reducible apply Only.aliasAt (hf := fun _ => ?_) (hm := by decide)) | (with_reducible apply mixWrite_step (hm := by decide)) | split | dsimp only)

theorem execMixDataWrite_wf (v : Word) {s s1 : State} (h : execMixDataWrite v s = .next s1) (h₀ : Memory.wf s = true) : Memory.wf s1 = true := by
  unfold execMixDataWrite at h
  refine awake_wf h ?_ h₀
  repeat' (first | (with_reducible assumption) | (with_reducible apply wf_ite) | (with_reducible apply aliasAt_wf (hf := fun _ _ => ?_)) | (with_reducible apply mixWrite_wf) | split | dsimp only)

theorem execMixDataRead_only {s s1 : State} (h : execMixDataRead s = .next s1) :
    Only [.regs, .rdata] s s1 := by
  unfold execMixDataRead at h
  refine awake_only h ?_
  repeat' (first | (with_reducible exact Only.refl _ _) | (with_reducible apply Only.ite) | (with_reducible apply Only.readAt (hf := fun _ => ?_) (hm := by decide)) | (with_reducible apply mixRead_step (hm := by decide)) | split | dsimp only)

theorem execMixDataRead_wf {s s1 : State} (h : execMixDataRead s = .next s1) (h₀ : Memory.wf s = true) : Memory.wf s1 = true := by
  unfold execMixDataRead at h
  refine awake_wf h ?_ h₀
  repeat' (first | (with_reducible assumption) | (with_reducible apply wf_ite) | (with_reducible apply readAt_wf (hf := fun _ _ => ?_)) | (with_reducible apply mixRead_wf) | split | dsimp only)

theorem execGateDeliver_only (g : Gate) {s s1 : State} (h : execGateDeliver g s = .next s1) :
    Only [.regs, .banks, .conds, .gates, .ain, .mb, .legs, .pwm, .safe, .pins, .loops, .vent, .mem, .rings, .twin] s s1 := by
  unfold execGateDeliver at h
  refine awake_only h ?_
  repeat' (first | (with_reducible exact Only.refl _ _) | (with_reducible apply Only.ite) | (with_reducible apply gateDeliver_step (hm := by decide)) | split | dsimp only)

theorem execGateDeliver_wf (g : Gate) {s s1 : State} (h : execGateDeliver g s = .next s1) (h₀ : Memory.wf s = true) : Memory.wf s1 = true := by
  unfold execGateDeliver at h
  refine awake_wf h ?_ h₀
  repeat' (first | (with_reducible assumption) | (with_reducible apply wf_ite) | (with_reducible apply gateDeliver_wf) | split | dsimp only)

theorem execUpdateBoundary_only {s s1 : State} (h : execUpdateBoundary s = .next s1) :
    Only [.regs, .heldU, .banks, .conds, .gates, .free, .time, .legs, .pwm, .safe, .dlCal, .pins, .sense, .lanes, .loops, .lanePool, .trace, .vent, .bkg, .twin] s s1 := by
  unfold execUpdateBoundary at h
  refine awake_only h ?_
  repeat' (first | (with_reducible exact Only.refl _ _) | (with_reducible apply Only.ite) | (with_reducible apply updateBoundary_step (hm := by decide)) | split | dsimp only)

theorem execUpdateBoundary_wf {s s1 : State} (h : execUpdateBoundary s = .next s1) (h₀ : Memory.wf s = true) : Memory.wf s1 = true := by
  unfold execUpdateBoundary at h
  refine awake_wf h ?_ h₀
  repeat' (first | (with_reducible assumption) | (with_reducible apply wf_ite) | (with_reducible apply updateBoundary_wf) | split | dsimp only)

theorem execBlockBoundary_wf (muteN : Bool) {s s1 : State} (h : execBlockBoundary muteN s = .next s1) (h₀ : Memory.wf s = true) : Memory.wf s1 = true := by
  unfold execBlockBoundary at h
  refine awake_wf h ?_ h₀
  repeat' (first | (with_reducible assumption) | (with_reducible apply wf_ite) | (with_reducible apply blockBoundary_wf) | split | dsimp only)

theorem execMbUnitComplete_only (q : Fin 4) {s s1 : State} (h : execMbUnitComplete q s = .next s1) :
    Only [.regs, .gates, .mb] s s1 := by
  unfold execMbUnitComplete at h
  refine awake_only h ?_
  repeat' (first | (with_reducible exact Only.refl _ _) | (with_reducible apply Only.ite) | (with_reducible apply mbUnit_step (hm := by decide)) | split | dsimp only)

theorem execMbUnitComplete_wf (q : Fin 4) {s s1 : State} (h : execMbUnitComplete q s = .next s1) (h₀ : Memory.wf s = true) : Memory.wf s1 = true := by
  unfold execMbUnitComplete at h
  refine awake_wf h ?_ h₀
  repeat' (first | (with_reducible assumption) | (with_reducible apply wf_ite) | (with_reducible apply mbUnit_wf) | split | dsimp only)

theorem execLaWrite_only (c : Chan) (v : Word) {s s1 : State} (h : execLaWrite c v s = .next s1) :
    Only [.regs, .hst] s s1 := by
  unfold execLaWrite at h
  refine awake_only h ?_
  repeat' (first | (with_reducible exact Only.refl _ _) | (with_reducible apply Only.ite) | (with_reducible apply Only.fieldAt (hf := fun _ => ?_) (hm := by decide)) | (with_reducible apply laWrite_step (hm := by decide)) | split | dsimp only)

theorem execLaWrite_wf (c : Chan) (v : Word) {s s1 : State} (h : execLaWrite c v s = .next s1) (h₀ : Memory.wf s = true) : Memory.wf s1 = true := by
  unfold execLaWrite at h
  refine awake_wf h ?_ h₀
  repeat' (first | (with_reducible assumption) | (with_reducible apply wf_ite) | (with_reducible apply fieldAt_wf (hf := fun _ _ => ?_)) | (with_reducible apply laWrite_wf) | split | dsimp only)

theorem execBankWordWrite_only (c : Chan) (v : Word) {s s1 : State} (h : execBankWordWrite c v s = .next s1) :
    Only [.regs, .banks, .hst] s s1 := by
  unfold execBankWordWrite at h
  refine awake_only h ?_
  repeat' (first | (with_reducible exact Only.refl _ _) | (with_reducible apply Only.ite) | (with_reducible apply Only.aliasAt (hf := fun _ => ?_) (hm := by decide)) | (with_reducible apply bankWrite_step (hm := by decide)) | split | dsimp only)

theorem execBankWordWrite_wf (c : Chan) (v : Word) {s s1 : State} (h : execBankWordWrite c v s = .next s1) (h₀ : Memory.wf s = true) : Memory.wf s1 = true := by
  unfold execBankWordWrite at h
  refine awake_wf h ?_ h₀
  repeat' (first | (with_reducible assumption) | (with_reducible apply wf_ite) | (with_reducible apply aliasAt_wf (hf := fun _ _ => ?_)) | (with_reducible apply bankWrite_wf) | split | dsimp only)

theorem execBankWordRead_only (c : Chan) {s s1 : State} (h : execBankWordRead c s = .next s1) :
    Only [.regs, .rdata] s s1 := by
  unfold execBankWordRead at h
  refine awake_only h ?_
  repeat' (first | (with_reducible exact Only.refl _ _) | (with_reducible apply Only.ite) | (with_reducible apply Only.readAt (hf := fun _ => ?_) (hm := by decide)) | (with_reducible apply bankRead_step (hm := by decide)) | split | dsimp only)

theorem execBankWordRead_wf (c : Chan) {s s1 : State} (h : execBankWordRead c s = .next s1) (h₀ : Memory.wf s = true) : Memory.wf s1 = true := by
  unfold execBankWordRead at h
  refine awake_wf h ?_ h₀
  repeat' (first | (with_reducible assumption) | (with_reducible apply wf_ite) | (with_reducible apply readAt_wf (hf := fun _ _ => ?_)) | (with_reducible apply bankRead_wf) | split | dsimp only)

theorem execSceneArm_only {s s1 : State} (h : execSceneArm s = .next s1) :
    Only [.regs, .scn, .hst] s s1 := by
  unfold execSceneArm at h
  refine awake_only h ?_
  repeat' (first | (with_reducible exact Only.refl _ _) | (with_reducible apply Only.ite) | (with_reducible apply Only.fieldAt (hf := fun _ => ?_) (hm := by decide)) | (with_reducible apply sceneGo_step (hm := by decide)) | split | dsimp only)

theorem execSceneArm_wf {s s1 : State} (h : execSceneArm s = .next s1) (h₀ : Memory.wf s = true) : Memory.wf s1 = true := by
  unfold execSceneArm at h
  refine awake_wf h ?_ h₀
  repeat' (first | (with_reducible assumption) | (with_reducible apply wf_ite) | (with_reducible apply fieldAt_wf (hf := fun _ _ => ?_)) | (with_reducible apply sceneGo_wf) | split | dsimp only)

theorem execSceneAbort_only {s s1 : State} (h : execSceneAbort s = .next s1) :
    Only [.regs, .mb, .scn, .hst] s s1 := by
  unfold execSceneAbort at h
  refine awake_only h ?_
  repeat' (first | (with_reducible exact Only.refl _ _) | (with_reducible apply Only.ite) | (with_reducible apply Only.fieldAt (hf := fun _ => ?_) (hm := by decide)) | (with_reducible apply sceneAbort_step (hm := by decide)) | split | dsimp only)

theorem execSceneAbort_wf {s s1 : State} (h : execSceneAbort s = .next s1) (h₀ : Memory.wf s = true) : Memory.wf s1 = true := by
  unfold execSceneAbort at h
  refine awake_wf h ?_ h₀
  repeat' (first | (with_reducible assumption) | (with_reducible apply wf_ite) | (with_reducible apply fieldAt_wf (hf := fun _ _ => ?_)) | (with_reducible apply sceneAbort_wf) | split | dsimp only)

theorem execBlockIndexRead_only {s s1 : State} (h : execBlockIndexRead s = .next s1) :
    Only [.rdata, .scn] s s1 := by
  unfold execBlockIndexRead at h
  refine awake_only h ?_
  repeat' (first | (with_reducible exact Only.refl _ _) | (with_reducible apply Only.ite) | (with_reducible apply Only.readAt (hf := fun _ => ?_) (hm := by decide)) | (with_reducible apply blockIndexRead_step (hm := by decide)) | split | dsimp only)

theorem execBlockIndexRead_wf {s s1 : State} (h : execBlockIndexRead s = .next s1) (h₀ : Memory.wf s = true) : Memory.wf s1 = true := by
  unfold execBlockIndexRead at h
  refine awake_wf h ?_ h₀
  repeat' (first | (with_reducible assumption) | (with_reducible apply wf_ite) | (with_reducible apply readAt_wf (hf := fun _ _ => ?_)) | (with_reducible apply blockIndexRead_wf) | split | dsimp only)

theorem execMbCoreUe_only (p : Fin 5) {s s1 : State} (h : execMbCoreUe p s = .next s1) :
    Only [.regs, .mb, .bkg] s s1 := by
  unfold execMbCoreUe at h
  refine awake_only h ?_
  repeat' (first | (with_reducible exact Only.refl _ _) | (with_reducible apply Only.ite) | (with_reducible apply mbCoreUe_step (hm := by decide)) | split | dsimp only)

theorem execMbCoreUe_wf (p : Fin 5) {s s1 : State} (h : execMbCoreUe p s = .next s1) (h₀ : Memory.wf s = true) : Memory.wf s1 = true := by
  unfold execMbCoreUe at h
  refine awake_wf h ?_ h₀
  repeat' (first | (with_reducible assumption) | (with_reducible apply wf_ite) | (with_reducible apply mbCoreUe_wf) | split | dsimp only)

theorem execMbSwapRequest_only (q : Fin 4) {s s1 : State} (h : execMbSwapRequest q s = .next s1) :
    Only [.regs, .mb, .hst] s s1 := by
  unfold execMbSwapRequest at h
  refine awake_only h ?_
  repeat' (first | (with_reducible exact Only.refl _ _) | (with_reducible apply Only.ite) | (with_reducible apply Only.fieldAt (hf := fun _ => ?_) (hm := by decide)) | (with_reducible apply swapRequest_step (hm := by decide)) | split | dsimp only)

theorem execMbSwapRequest_wf (q : Fin 4) {s s1 : State} (h : execMbSwapRequest q s = .next s1) (h₀ : Memory.wf s = true) : Memory.wf s1 = true := by
  unfold execMbSwapRequest at h
  refine awake_wf h ?_ h₀
  repeat' (first | (with_reducible assumption) | (with_reducible apply wf_ite) | (with_reducible apply fieldAt_wf (hf := fun _ _ => ?_)) | (with_reducible apply swapRequest_wf) | split | dsimp only)

theorem execKSelect_only (v : Word) {s s1 : State} (h : execKSelect v s = .next s1) :
    Only [.regs, .hst] s s1 := by
  unfold execKSelect at h
  refine awake_only h ?_
  repeat' (first | (with_reducible exact Only.refl _ _) | (with_reducible apply Only.ite) | (with_reducible apply Only.fieldAt (hf := fun _ => ?_) (hm := by decide)) | (with_reducible apply kSelect_step (hm := by decide)) | split | dsimp only)

theorem execKSelect_wf (v : Word) {s s1 : State} (h : execKSelect v s = .next s1) (h₀ : Memory.wf s = true) : Memory.wf s1 = true := by
  unfold execKSelect at h
  refine awake_wf h ?_ h₀
  repeat' (first | (with_reducible assumption) | (with_reducible apply wf_ite) | (with_reducible apply fieldAt_wf (hf := fun _ _ => ?_)) | (with_reducible apply kSelect_wf) | split | dsimp only)

theorem execShadowWrite_only (l : Leg) (w : Word16) (onEdge : Bool) {s s1 : State} (h : execShadowWrite l w onEdge s = .next s1) :
    Only [.regs] s s1 := by
  unfold execShadowWrite at h
  refine awake_only h ?_
  repeat' (first | (with_reducible exact Only.refl _ _) | (with_reducible apply Only.ite) | (with_reducible apply shadowWrite_step (hm := by decide)) | split | dsimp only)

theorem execShadowWrite_wf (l : Leg) (w : Word16) (onEdge : Bool) {s s1 : State} (h : execShadowWrite l w onEdge s = .next s1) (h₀ : Memory.wf s = true) : Memory.wf s1 = true := by
  unfold execShadowWrite at h
  refine awake_wf h ?_ h₀
  repeat' (first | (with_reducible assumption) | (with_reducible apply wf_ite) | (with_reducible apply shadowWrite_wf) | split | dsimp only)

theorem execHostCompareWrite_only (l : Leg) (w : Word16) (onEdge : Bool) {s s1 : State} (h : execHostCompareWrite l w onEdge s = .next s1) :
    Only [.regs, .hst] s s1 := by
  unfold execHostCompareWrite at h
  refine awake_only h ?_
  repeat' (first | (with_reducible exact Only.refl _ _) | (with_reducible apply Only.ite) | (with_reducible apply Only.fieldAt (hf := fun _ => ?_) (hm := by decide)) | (with_reducible apply hostCompare_step (hm := by decide)) | split | dsimp only)

theorem execHostCompareWrite_wf (l : Leg) (w : Word16) (onEdge : Bool) {s s1 : State} (h : execHostCompareWrite l w onEdge s = .next s1) (h₀ : Memory.wf s = true) : Memory.wf s1 = true := by
  unfold execHostCompareWrite at h
  refine awake_wf h ?_ h₀
  repeat' (first | (with_reducible assumption) | (with_reducible apply wf_ite) | (with_reducible apply fieldAt_wf (hf := fun _ _ => ?_)) | (with_reducible apply hostCompare_wf) | split | dsimp only)

theorem execCompareEdge_only (l : Leg) {s s1 : State} (h : execCompareEdge l s = .next s1) :
    Only [.legs] s s1 := by
  unfold execCompareEdge at h
  refine awake_only h ?_
  repeat' (first | (with_reducible exact Only.refl _ _) | (with_reducible apply Only.ite) | (with_reducible apply compareEdge_step (hm := by decide)) | split | dsimp only)

theorem execCompareEdge_wf (l : Leg) {s s1 : State} (h : execCompareEdge l s = .next s1) (h₀ : Memory.wf s = true) : Memory.wf s1 = true := by
  unfold execCompareEdge at h
  refine awake_wf h ?_ h₀
  repeat' (first | (with_reducible assumption) | (with_reducible apply wf_ite) | (with_reducible apply compareEdge_wf) | split | dsimp only)

theorem execDeadTimeEnd_only (l : Leg) {s s1 : State} (h : execDeadTimeEnd l s = .next s1) :
    Only [.regs, .legs] s s1 := by
  unfold execDeadTimeEnd at h
  refine awake_only h ?_
  repeat' (first | (with_reducible exact Only.refl _ _) | (with_reducible apply Only.ite) | (with_reducible apply deadTimeEnd_step (hm := by decide)) | split | dsimp only)

theorem execDeadTimeEnd_wf (l : Leg) {s s1 : State} (h : execDeadTimeEnd l s = .next s1) (h₀ : Memory.wf s = true) : Memory.wf s1 = true := by
  unfold execDeadTimeEnd at h
  refine awake_wf h ?_ h₀
  repeat' (first | (with_reducible assumption) | (with_reducible apply wf_ite) | (with_reducible apply deadTimeEnd_wf) | split | dsimp only)

theorem execDlCalibrationStart_only {s s1 : State} (h : execDlCalibrationStart s = .next s1) :
    Only [.dlCal, .bkg] s s1 := by
  unfold execDlCalibrationStart at h
  refine awake_only h ?_
  repeat' (first | (with_reducible exact Only.refl _ _) | (with_reducible apply Only.ite) | (with_reducible apply dlStart_step (hm := by decide)) | split | dsimp only)

theorem execDlCalibrationStart_wf {s s1 : State} (h : execDlCalibrationStart s = .next s1) (h₀ : Memory.wf s = true) : Memory.wf s1 = true := by
  unfold execDlCalibrationStart at h
  refine awake_wf h ?_ h₀
  repeat' (first | (with_reducible assumption) | (with_reducible apply wf_ite) | (with_reducible apply dlStart_wf) | split | dsimp only)

theorem execDlCalibrationDone_only (line : Fin 64) (d : List Nat) {s s1 : State} (h : execDlCalibrationDone line d s = .next s1) :
    Only [.regs, .legs, .dlCal] s s1 := by
  unfold execDlCalibrationDone at h
  refine awake_only h ?_
  repeat' (first | (with_reducible exact Only.refl _ _) | (with_reducible apply Only.ite) | (with_reducible apply dlDone_step (hm := by decide)) | split | dsimp only)

theorem execDlCalibrationDone_wf (line : Fin 64) (d : List Nat) {s s1 : State} (h : execDlCalibrationDone line d s = .next s1) (h₀ : Memory.wf s = true) : Memory.wf s1 = true := by
  unfold execDlCalibrationDone at h
  refine awake_wf h ?_ h₀
  repeat' (first | (with_reducible assumption) | (with_reducible apply wf_ite) | (with_reducible apply dlDone_wf) | split | dsimp only)

theorem execConverterTrigger_only (l : Leg) (b : Bool) {s s1 : State} (h : execConverterTrigger l b s = .next s1) :
    Only [.regs, .gates, .sense] s s1 := by
  unfold execConverterTrigger at h
  refine awake_only h ?_
  repeat' (first | (with_reducible exact Only.refl _ _) | (with_reducible apply Only.ite) | (with_reducible apply converterTrigger_step (hm := by decide)) | split | dsimp only)

theorem execConverterTrigger_wf (l : Leg) (b : Bool) {s s1 : State} (h : execConverterTrigger l b s = .next s1) (h₀ : Memory.wf s = true) : Memory.wf s1 = true := by
  unfold execConverterTrigger at h
  refine awake_wf h ?_ h₀
  repeat' (first | (with_reducible assumption) | (with_reducible apply wf_ite) | (with_reducible apply converterTrigger_wf) | split | dsimp only)

theorem execChannelStart_only (c : Chan) (v : Word) {s s1 : State} (h : execChannelStart c v s = .next s1) :
    Only [.regs, .heldU, .heldB, .hst] s s1 := by
  unfold execChannelStart at h
  refine awake_only h ?_
  repeat' (first | (with_reducible exact Only.refl _ _) | (with_reducible apply Only.ite) | (with_reducible apply Only.fieldAt (hf := fun _ => ?_) (hm := by decide)) | (with_reducible apply chModWrite_step (hm := by decide)) | split | dsimp only)

theorem execChannelStart_wf (c : Chan) (v : Word) {s s1 : State} (h : execChannelStart c v s = .next s1) (h₀ : Memory.wf s = true) : Memory.wf s1 = true := by
  unfold execChannelStart at h
  refine awake_wf h ?_ h₀
  repeat' (first | (with_reducible assumption) | (with_reducible apply wf_ite) | (with_reducible apply fieldAt_wf (hf := fun _ _ => ?_)) | (with_reducible apply chModWrite_wf) | split | dsimp only)

theorem execPrechargeEnd_only (c : Chan) {s s1 : State} (h : execPrechargeEnd c s = .next s1) :
    Only [.regs, .conds, .legs] s s1 := by
  unfold execPrechargeEnd at h
  refine awake_only h ?_
  repeat' (first | (with_reducible exact Only.refl _ _) | (with_reducible apply Only.ite) | (with_reducible apply prechargeEnd_step (hm := by decide)) | split | dsimp only)

theorem execPrechargeEnd_wf (c : Chan) {s s1 : State} (h : execPrechargeEnd c s = .next s1) (h₀ : Memory.wf s = true) : Memory.wf s1 = true := by
  unfold execPrechargeEnd at h
  refine awake_wf h ?_ h₀
  repeat' (first | (with_reducible assumption) | (with_reducible apply wf_ite) | (with_reducible apply prechargeEnd_wf) | split | dsimp only)

theorem execChannelStop_only (c : Chan) (v : Word) {s s1 : State} (h : execChannelStop c v s = .next s1) :
    Only [.regs, .heldU, .heldB, .hst] s s1 := by
  unfold execChannelStop at h
  refine awake_only h ?_
  repeat' (first | (with_reducible exact Only.refl _ _) | (with_reducible apply Only.ite) | (with_reducible apply Only.fieldAt (hf := fun _ => ?_) (hm := by decide)) | (with_reducible apply chModWrite_step (hm := by decide)) | split | dsimp only)

theorem execChannelStop_wf (c : Chan) (v : Word) {s s1 : State} (h : execChannelStop c v s = .next s1) (h₀ : Memory.wf s = true) : Memory.wf s1 = true := by
  unfold execChannelStop at h
  refine awake_wf h ?_ h₀
  repeat' (first | (with_reducible assumption) | (with_reducible apply wf_ite) | (with_reducible apply fieldAt_wf (hf := fun _ _ => ?_)) | (with_reducible apply chModWrite_wf) | split | dsimp only)

theorem execSrcSwitch_only (c : Chan) (v : Word) {s s1 : State} (h : execSrcSwitch c v s = .next s1) :
    Only [.regs, .heldU, .heldB, .hst] s s1 := by
  unfold execSrcSwitch at h
  refine awake_only h ?_
  repeat' (first | (with_reducible exact Only.refl _ _) | (with_reducible apply Only.ite) | (with_reducible apply Only.fieldAt (hf := fun _ => ?_) (hm := by decide)) | (with_reducible apply chModWrite_step (hm := by decide)) | split | dsimp only)

theorem execSrcSwitch_wf (c : Chan) (v : Word) {s s1 : State} (h : execSrcSwitch c v s = .next s1) (h₀ : Memory.wf s = true) : Memory.wf s1 = true := by
  unfold execSrcSwitch at h
  refine awake_wf h ?_ h₀
  repeat' (first | (with_reducible assumption) | (with_reducible apply wf_ite) | (with_reducible apply fieldAt_wf (hf := fun _ _ => ?_)) | (with_reducible apply chModWrite_wf) | split | dsimp only)

theorem execFaultInputAccept_only (src : FaultSrc) {s s1 : State} (h : execFaultInputAccept src s = .next s1) :
    Only [.regs, .gates, .legs, .pwm, .safe, .pins] s s1 := by
  unfold execFaultInputAccept at h
  refine awake_only h ?_
  repeat' (first | (with_reducible exact Only.refl _ _) | (with_reducible apply Only.ite) | (with_reducible apply faultAccept_step (hm := by decide)) | split | dsimp only)

theorem execFaultInputAccept_wf (src : FaultSrc) {s s1 : State} (h : execFaultInputAccept src s = .next s1) (h₀ : Memory.wf s = true) : Memory.wf s1 = true := by
  unfold execFaultInputAccept at h
  refine awake_wf h ?_ h₀
  repeat' (first | (with_reducible assumption) | (with_reducible apply wf_ite) | (with_reducible apply faultAccept_wf) | split | dsimp only)

theorem execFaultInputRelease_only (src : FaultSrc) {s s1 : State} (h : execFaultInputRelease src s = .next s1) :
    Only [.regs] s s1 := by
  unfold execFaultInputRelease at h
  refine awake_only h ?_
  repeat' (first | (with_reducible exact Only.refl _ _) | (with_reducible apply Only.ite) | (with_reducible apply faultRelease_step (hm := by decide)) | split | dsimp only)

theorem execFaultInputRelease_wf (src : FaultSrc) {s s1 : State} (h : execFaultInputRelease src s = .next s1) (h₀ : Memory.wf s = true) : Memory.wf s1 = true := by
  unfold execFaultInputRelease at h
  refine awake_wf h ?_ h₀
  repeat' (first | (with_reducible assumption) | (with_reducible apply wf_ite) | (with_reducible apply faultRelease_wf) | split | dsimp only)

theorem execBlankWindowEnd_only (l : Leg) {s s1 : State} (h : execBlankWindowEnd l s = .next s1) :
    Only [.regs, .gates, .legs, .pwm, .safe, .pins] s s1 := by
  unfold execBlankWindowEnd at h
  refine awake_only h ?_
  repeat' (first | (with_reducible exact Only.refl _ _) | (with_reducible apply Only.ite) | (with_reducible apply blankEnd_step (hm := by decide)) | split | dsimp only)

theorem execBlankWindowEnd_wf (l : Leg) {s s1 : State} (h : execBlankWindowEnd l s = .next s1) (h₀ : Memory.wf s = true) : Memory.wf s1 = true := by
  unfold execBlankWindowEnd at h
  refine awake_wf h ?_ h₀
  repeat' (first | (with_reducible assumption) | (with_reducible apply wf_ite) | (with_reducible apply blankEnd_wf) | split | dsimp only)

theorem execSafeLoOn_only (c : Chan) {s s1 : State} (h : execSafeLoOn c s = .next s1) :
    Only [.regs, .legs, .pwm] s s1 := by
  unfold execSafeLoOn at h
  refine awake_only h ?_
  repeat' (first | (with_reducible exact Only.refl _ _) | (with_reducible apply Only.ite) | (with_reducible apply safeLoOn_step (hm := by decide)) | split | dsimp only)

theorem execSafeLoOn_wf (c : Chan) {s s1 : State} (h : execSafeLoOn c s = .next s1) (h₀ : Memory.wf s = true) : Memory.wf s1 = true := by
  unfold execSafeLoOn at h
  refine awake_wf h ?_ h₀
  repeat' (first | (with_reducible assumption) | (with_reducible apply wf_ite) | (with_reducible apply safeLoOn_wf) | split | dsimp only)

theorem execSafeHoldEnd_only (c : Chan) {s s1 : State} (h : execSafeHoldEnd c s = .next s1) :
    Only [.legs, .pwm] s s1 := by
  unfold execSafeHoldEnd at h
  refine awake_only h ?_
  repeat' (first | (with_reducible exact Only.refl _ _) | (with_reducible apply Only.ite) | (with_reducible apply safeHoldEnd_step (hm := by decide)) | split | dsimp only)

theorem execSafeHoldEnd_wf (c : Chan) {s s1 : State} (h : execSafeHoldEnd c s = .next s1) (h₀ : Memory.wf s = true) : Memory.wf s1 = true := by
  unfold execSafeHoldEnd at h
  refine awake_wf h ?_ h₀
  repeat' (first | (with_reducible assumption) | (with_reducible apply wf_ite) | (with_reducible apply safeHoldEnd_wf) | split | dsimp only)

theorem execLatchClear_only (c : Chan) {s s1 : State} (h : execLatchClear c s = .next s1) :
    Only [.regs, .pwm, .hst] s s1 := by
  unfold execLatchClear at h
  refine awake_only h ?_
  repeat' (first | (with_reducible exact Only.refl _ _) | (with_reducible apply Only.ite) | (with_reducible apply Only.fieldAt (hf := fun _ => ?_) (hm := by decide)) | (with_reducible apply latchClear_step (hm := by decide)) | split | dsimp only)

theorem execLatchClear_wf (c : Chan) {s s1 : State} (h : execLatchClear c s = .next s1) (h₀ : Memory.wf s = true) : Memory.wf s1 = true := by
  unfold execLatchClear at h
  refine awake_wf h ?_ h₀
  repeat' (first | (with_reducible assumption) | (with_reducible apply wf_ite) | (with_reducible apply fieldAt_wf (hf := fun _ _ => ?_)) | (with_reducible apply latchClear_wf) | split | dsimp only)

theorem execLatchForce_only (c : Chan) {s s1 : State} (h : execLatchForce c s = .next s1) :
    Only [.regs, .legs, .pwm, .hst] s s1 := by
  unfold execLatchForce at h
  refine awake_only h ?_
  repeat' (first | (with_reducible exact Only.refl _ _) | (with_reducible apply Only.ite) | (with_reducible apply Only.fieldAt (hf := fun _ => ?_) (hm := by decide)) | (with_reducible apply latchForce_step (hm := by decide)) | split | dsimp only)

theorem execLatchForce_wf (c : Chan) {s s1 : State} (h : execLatchForce c s = .next s1) (h₀ : Memory.wf s = true) : Memory.wf s1 = true := by
  unfold execLatchForce at h
  refine awake_wf h ?_ h₀
  repeat' (first | (with_reducible assumption) | (with_reducible apply wf_ite) | (with_reducible apply fieldAt_wf (hf := fun _ _ => ?_)) | (with_reducible apply latchForce_wf) | split | dsimp only)

theorem execDeviceSafeClear_only {s s1 : State} (h : execDeviceSafeClear s = .next s1) :
    Only [.regs, .safe, .hst] s s1 := by
  unfold execDeviceSafeClear at h
  refine awake_only h ?_
  repeat' (first | (with_reducible exact Only.refl _ _) | (with_reducible apply Only.ite) | (with_reducible apply Only.fieldAt (hf := fun _ => ?_) (hm := by decide)) | (with_reducible apply deviceClear_step (hm := by decide)) | split | dsimp only)

theorem execDeviceSafeClear_wf {s s1 : State} (h : execDeviceSafeClear s = .next s1) (h₀ : Memory.wf s = true) : Memory.wf s1 = true := by
  unfold execDeviceSafeClear at h
  refine awake_wf h ?_ h₀
  repeat' (first | (with_reducible assumption) | (with_reducible apply wf_ite) | (with_reducible apply fieldAt_wf (hf := fun _ _ => ?_)) | (with_reducible apply deviceClear_wf) | split | dsimp only)

theorem execDeviceSafeForce_only {s s1 : State} (h : execDeviceSafeForce s = .next s1) :
    Only [.regs, .legs, .pwm, .safe, .pins, .hst] s s1 := by
  unfold execDeviceSafeForce at h
  refine awake_only h ?_
  repeat' (first | (with_reducible exact Only.refl _ _) | (with_reducible apply Only.ite) | (with_reducible apply Only.fieldAt (hf := fun _ => ?_) (hm := by decide)) | (with_reducible apply deviceForce_step (hm := by decide)) | split | dsimp only)

theorem execDeviceSafeForce_wf {s s1 : State} (h : execDeviceSafeForce s = .next s1) (h₀ : Memory.wf s = true) : Memory.wf s1 = true := by
  unfold execDeviceSafeForce at h
  refine awake_wf h ?_ h₀
  repeat' (first | (with_reducible assumption) | (with_reducible apply wf_ite) | (with_reducible apply fieldAt_wf (hf := fun _ _ => ?_)) | (with_reducible apply deviceForce_wf) | split | dsimp only)

theorem execLimitsLock_only {s s1 : State} (h : execLimitsLock s = .next s1) :
    Only [.regs, .hst] s s1 := by
  unfold execLimitsLock at h
  refine awake_only h ?_
  repeat' (first | (with_reducible exact Only.refl _ _) | (with_reducible apply Only.ite) | (with_reducible apply Only.fieldAt (hf := fun _ => ?_) (hm := by decide)) | (with_reducible apply limitsLock_step (hm := by decide)) | split | dsimp only)

theorem execLimitsLock_wf {s s1 : State} (h : execLimitsLock s = .next s1) (h₀ : Memory.wf s = true) : Memory.wf s1 = true := by
  unfold execLimitsLock at h
  refine awake_wf h ?_ h₀
  repeat' (first | (with_reducible assumption) | (with_reducible apply wf_ite) | (with_reducible apply fieldAt_wf (hf := fun _ _ => ?_)) | (with_reducible apply limitsLock_wf) | split | dsimp only)

theorem execClockMonitorWindow_only (clk : Nat) (count : Nat) {s s1 : State} (h : execClockMonitorWindow clk count s = .next s1) :
    Only [.regs, .conds, .legs, .pwm, .safe, .pins, .twin] s s1 := by
  unfold execClockMonitorWindow at h
  refine awake_only h ?_
  repeat' (first | (with_reducible exact Only.refl _ _) | (with_reducible apply Only.ite) | (with_reducible apply twinClockLost_step (hm := by decide)) | (with_reducible apply clockWindow_step (hm := by decide)) | split | dsimp only)

theorem execClockMonitorWindow_wf (clk : Nat) (count : Nat) {s s1 : State} (h : execClockMonitorWindow clk count s = .next s1) (h₀ : Memory.wf s = true) : Memory.wf s1 = true := by
  unfold execClockMonitorWindow at h
  refine awake_wf h ?_ h₀
  repeat' (first | (with_reducible assumption) | (with_reducible apply wf_ite) | (with_reducible apply twinClockLost_wf) | (with_reducible apply clockWindow_wf) | split | dsimp only)

theorem execPwmActivityTimeout_only {s s1 : State} (h : execPwmActivityTimeout s = .next s1) :
    Only [.regs, .legs, .pwm, .safe, .pins] s s1 := by
  unfold execPwmActivityTimeout at h
  refine awake_only h ?_
  repeat' (first | (with_reducible exact Only.refl _ _) | (with_reducible apply Only.ite) | (with_reducible apply pwmSilence_step (hm := by decide)) | split | dsimp only)

theorem execPwmActivityTimeout_wf {s s1 : State} (h : execPwmActivityTimeout s = .next s1) (h₀ : Memory.wf s = true) : Memory.wf s1 = true := by
  unfold execPwmActivityTimeout at h
  refine awake_wf h ?_ h₀
  repeat' (first | (with_reducible assumption) | (with_reducible apply wf_ite) | (with_reducible apply pwmSilence_wf) | split | dsimp only)

theorem execMediaPllUnlock_only {s s1 : State} (h : execMediaPllUnlock s = .next s1) :
    Only [.regs, .legs, .pwm, .safe, .pins] s s1 := by
  unfold execMediaPllUnlock at h
  refine awake_only h ?_
  repeat' (first | (with_reducible exact Only.refl _ _) | (with_reducible apply Only.ite) | (with_reducible apply mediaUnlock_step (hm := by decide)) | split | dsimp only)

theorem execMediaPllUnlock_wf {s s1 : State} (h : execMediaPllUnlock s = .next s1) (h₀ : Memory.wf s = true) : Memory.wf s1 = true := by
  unfold execMediaPllUnlock at h
  refine awake_wf h ?_ h₀
  repeat' (first | (with_reducible assumption) | (with_reducible apply wf_ite) | (with_reducible apply mediaUnlock_wf) | split | dsimp only)

theorem execDieTempMeasure_only (t : Int) {s s1 : State} (h : execDieTempMeasure t s = .next s1) :
    Only [.regs, .legs, .pwm, .safe, .pins] s s1 := by
  unfold execDieTempMeasure at h
  refine awake_only h ?_
  repeat' (first | (with_reducible exact Only.refl _ _) | (with_reducible apply Only.ite) | (with_reducible apply dieTemp_step (hm := by decide)) | split | dsimp only)

theorem execDieTempMeasure_wf (t : Int) {s s1 : State} (h : execDieTempMeasure t s = .next s1) (h₀ : Memory.wf s = true) : Memory.wf s1 = true := by
  unfold execDieTempMeasure at h
  refine awake_wf h ?_ h₀
  repeat' (first | (with_reducible assumption) | (with_reducible apply wf_ite) | (with_reducible apply dieTemp_wf) | split | dsimp only)

theorem execDebugHalt_only (p : Proc) {s s1 : State} (h : execDebugHalt p s = .next s1) :
    Only [.sys, .safe] s s1 := by
  unfold execDebugHalt at h
  refine awake_only h ?_
  repeat' (first | (with_reducible exact Only.refl _ _) | (with_reducible apply Only.ite) | (with_reducible apply debugHalt_step (hm := by decide)) | split | dsimp only)

theorem execDebugHalt_wf (p : Proc) {s s1 : State} (h : execDebugHalt p s = .next s1) (h₀ : Memory.wf s = true) : Memory.wf s1 = true := by
  unfold execDebugHalt at h
  refine awake_wf h ?_ h₀
  repeat' (first | (with_reducible assumption) | (with_reducible apply wf_ite) | (with_reducible apply debugHalt_wf) | split | dsimp only)

theorem execLockstepMismatch_only {s s1 : State} (h : execLockstepMismatch s = .next s1) :
    Only [.regs, .legs, .pwm, .safe, .pins] s s1 := by
  unfold execLockstepMismatch at h
  refine awake_only h ?_
  repeat' (first | (with_reducible exact Only.refl _ _) | (with_reducible apply Only.ite) | (with_reducible apply lockstep_step (hm := by decide)) | split | dsimp only)

theorem execLockstepMismatch_wf {s s1 : State} (h : execLockstepMismatch s = .next s1) (h₀ : Memory.wf s = true) : Memory.wf s1 = true := by
  unfold execLockstepMismatch at h
  refine awake_wf h ?_ h₀
  repeat' (first | (with_reducible assumption) | (with_reducible apply wf_ite) | (with_reducible apply lockstep_wf) | split | dsimp only)

theorem execRegisterWrite_wf (path : Path) (p : Word16) (v : Word) {s s1 : State} (h : execRegisterWrite path p v s = .next s1) (h₀ : Memory.wf s = true) : Memory.wf s1 = true := by
  unfold execRegisterWrite at h
  split at h
  · exact nomatch h
  · refine awake_wf h ?_ h₀
    repeat' (first | (with_reducible assumption) | (with_reducible apply wf_ite) | (with_reducible apply regWrite_wf) | (with_reducible apply popCommit_wf) | split | dsimp only)

theorem execW1cClear_only (path : Path) (p : Word16) (mask hwset : Word) {s s1 : State} (h : execW1cClear path p mask hwset s = .next s1) :
    Only [.regs, .hst] s s1 := by
  unfold execW1cClear at h
  refine awake_only h ?_
  repeat' (first | (with_reducible exact Only.refl _ _) | (with_reducible apply Only.ite) | (with_reducible apply granted_step (hm := by decide)) | (with_reducible apply w1cClear_step (hm := by decide)) | (with_reducible apply granted_step (hm := by decide)) | split | dsimp only)

theorem execW1cClear_wf (path : Path) (p : Word16) (mask hwset : Word) {s s1 : State} (h : execW1cClear path p mask hwset s = .next s1) (h₀ : Memory.wf s = true) : Memory.wf s1 = true := by
  unfold execW1cClear at h
  refine awake_wf h ?_ h₀
  repeat' (first | (with_reducible assumption) | (with_reducible apply wf_ite) | (with_reducible apply granted_wf) | (with_reducible apply w1cClear_wf) | split | dsimp only)

theorem execHostStart_only {s s1 : State} (h : execHostStart s = .next s1) :
    Only [.regs, .conds, .hst] s s1 := by
  unfold execHostStart at h
  refine awake_only h ?_
  repeat' (first | (with_reducible exact Only.refl _ _) | (with_reducible apply Only.ite) | (with_reducible apply hostStart_step (hm := by decide)) | split | dsimp only)

theorem execHostStart_wf {s s1 : State} (h : execHostStart s = .next s1) (h₀ : Memory.wf s = true) : Memory.wf s1 = true := by
  unfold execHostStart at h
  refine awake_wf h ?_ h₀
  repeat' (first | (with_reducible assumption) | (with_reducible apply wf_ite) | (with_reducible apply hostStart_wf) | split | dsimp only)

theorem execHostAddress_only (b : Byte) (err : BitVec 145) {s s1 : State} (h : execHostAddress b err s = .next s1) :
    Only [.regs, .conds, .free, .hst] s s1 := by
  unfold execHostAddress at h
  refine awake_only h ?_
  repeat' (first | (with_reducible exact Only.refl _ _) | (with_reducible apply Only.ite) | (with_reducible apply hostAddress_step (hm := by decide)) | split | dsimp only)

theorem execHostAddress_wf (b : Byte) (err : BitVec 145) {s s1 : State} (h : execHostAddress b err s = .next s1) (h₀ : Memory.wf s = true) : Memory.wf s1 = true := by
  unfold execHostAddress at h
  refine awake_wf h ?_ h₀
  repeat' (first | (with_reducible assumption) | (with_reducible apply wf_ite) | (with_reducible apply hostAddress_wf) | split | dsimp only)

theorem execHostByteWrite_only (b : Byte) {s s1 : State} (h : execHostByteWrite b s = .next s1) :
    Only [.regs, .conds, .hst] s s1 := by
  unfold execHostByteWrite at h
  refine awake_only h ?_
  repeat' (first | (with_reducible exact Only.refl _ _) | (with_reducible apply Only.ite) | (with_reducible apply hostByteWrite_step (hm := by decide)) | split | dsimp only)

theorem execHostByteWrite_wf (b : Byte) {s s1 : State} (h : execHostByteWrite b s = .next s1) (h₀ : Memory.wf s = true) : Memory.wf s1 = true := by
  unfold execHostByteWrite at h
  refine awake_wf h ?_ h₀
  repeat' (first | (with_reducible assumption) | (with_reducible apply wf_ite) | (with_reducible apply hostByteWrite_wf) | split | dsimp only)

theorem execHostByteRead_only (ack : Bool) (err : BitVec 145) {s s1 : State} (h : execHostByteRead ack err s = .next s1) :
    Only [.regs, .banks, .conds, .rdata, .free, .scn, .sense, .vent, .mem, .rings, .hst] s s1 := by
  unfold execHostByteRead at h
  refine awake_only h ?_
  repeat' (first | (with_reducible exact Only.refl _ _) | (with_reducible apply Only.ite) | (with_reducible apply hostByteRead_step (hm := by decide)) | split | dsimp only)

theorem execHostByteRead_wf (ack : Bool) (err : BitVec 145) {s s1 : State} (h : execHostByteRead ack err s = .next s1) (h₀ : Memory.wf s = true) : Memory.wf s1 = true := by
  unfold execHostByteRead at h
  refine awake_wf h ?_ h₀
  repeat' (first | (with_reducible assumption) | (with_reducible apply wf_ite) | (with_reducible apply hostByteRead_wf) | split | dsimp only)

theorem execHostStop_only (midByte : Bool) {s s1 : State} (h : execHostStop midByte s = .next s1) :
    Only [.regs, .conds, .hst] s s1 := by
  unfold execHostStop at h
  refine awake_only h ?_
  repeat' (first | (with_reducible exact Only.refl _ _) | (with_reducible apply Only.ite) | (with_reducible apply hostStop_step (hm := by decide)) | split | dsimp only)

theorem execHostStop_wf (midByte : Bool) {s s1 : State} (h : execHostStop midByte s = .next s1) (h₀ : Memory.wf s = true) : Memory.wf s1 = true := by
  unfold execHostStop at h
  refine awake_wf h ?_ h₀
  repeat' (first | (with_reducible assumption) | (with_reducible apply wf_ite) | (with_reducible apply hostStop_wf) | split | dsimp only)

theorem execHostRepeatedStart_only (midByte : Bool) {s s1 : State} (h : execHostRepeatedStart midByte s = .next s1) :
    Only [.regs, .conds, .hst] s s1 := by
  unfold execHostRepeatedStart at h
  refine awake_only h ?_
  repeat' (first | (with_reducible exact Only.refl _ _) | (with_reducible apply Only.ite) | (with_reducible apply hostRepeatedStart_step (hm := by decide)) | split | dsimp only)

theorem execHostRepeatedStart_wf (midByte : Bool) {s s1 : State} (h : execHostRepeatedStart midByte s = .next s1) (h₀ : Memory.wf s = true) : Memory.wf s1 = true := by
  unfold execHostRepeatedStart at h
  refine awake_wf h ?_ h₀
  repeat' (first | (with_reducible assumption) | (with_reducible apply wf_ite) | (with_reducible apply hostRepeatedStart_wf) | split | dsimp only)

theorem execCommitEnd_wf {s s1 : State} (h : execCommitEnd s = .next s1) (h₀ : Memory.wf s = true) : Memory.wf s1 = true := by
  unfold execCommitEnd at h
  refine awake_wf h ?_ h₀
  repeat' (first | (with_reducible assumption) | (with_reducible apply wf_ite) | (with_reducible apply commitEnd_wf) | split | dsimp only)

theorem execSclTimeout_only {s s1 : State} (h : execSclTimeout s = .next s1) :
    Only [.regs, .conds, .hst] s s1 := by
  unfold execSclTimeout at h
  refine awake_only h ?_
  repeat' (first | (with_reducible exact Only.refl _ _) | (with_reducible apply Only.ite) | (with_reducible apply lineTimeout_step (hm := by decide)) | split | dsimp only)

theorem execSclTimeout_wf {s s1 : State} (h : execSclTimeout s = .next s1) (h₀ : Memory.wf s = true) : Memory.wf s1 = true := by
  unfold execSclTimeout at h
  refine awake_wf h ?_ h₀
  repeat' (first | (with_reducible assumption) | (with_reducible apply wf_ite) | (with_reducible apply lineTimeout_wf) | split | dsimp only)

theorem execSdaTimeout_only {s s1 : State} (h : execSdaTimeout s = .next s1) :
    Only [.regs, .conds, .hst] s s1 := by
  unfold execSdaTimeout at h
  refine awake_only h ?_
  repeat' (first | (with_reducible exact Only.refl _ _) | (with_reducible apply Only.ite) | (with_reducible apply lineTimeout_step (hm := by decide)) | split | dsimp only)

theorem execSdaTimeout_wf {s s1 : State} (h : execSdaTimeout s = .next s1) (h₀ : Memory.wf s = true) : Memory.wf s1 = true := by
  unfold execSdaTimeout at h
  refine awake_wf h ?_ h₀
  repeat' (first | (with_reducible assumption) | (with_reducible apply wf_ite) | (with_reducible apply lineTimeout_wf) | split | dsimp only)

theorem execIbrStart_only {s s1 : State} (h : execIbrStart s = .next s1) :
    Only [.hst] s s1 := by
  unfold execIbrStart at h
  refine awake_only h ?_
  repeat' (first | (with_reducible exact Only.refl _ _) | (with_reducible apply Only.ite) | (with_reducible apply ibrStart_step (hm := by decide)) | split | dsimp only)

theorem execIbrStart_wf {s s1 : State} (h : execIbrStart s = .next s1) (h₀ : Memory.wf s = true) : Memory.wf s1 = true := by
  unfold execIbrStart at h
  refine awake_wf h ?_ h₀
  repeat' (first | (with_reducible assumption) | (with_reducible apply wf_ite) | (with_reducible apply ibrStart_wf) | split | dsimp only)

theorem execIbrEnd_only {s s1 : State} (h : execIbrEnd s = .next s1) :
    Only [.hst] s s1 := by
  unfold execIbrEnd at h
  refine awake_only h ?_
  repeat' (first | (with_reducible exact Only.refl _ _) | (with_reducible apply Only.ite) | (with_reducible apply ibrEnd_step (hm := by decide)) | split | dsimp only)

theorem execIbrEnd_wf {s s1 : State} (h : execIbrEnd s = .next s1) (h₀ : Memory.wf s = true) : Memory.wf s1 = true := by
  unfold execIbrEnd at h
  refine awake_wf h ?_ h₀
  repeat' (first | (with_reducible assumption) | (with_reducible apply wf_ite) | (with_reducible apply ibrEnd_wf) | split | dsimp only)

theorem execReqCollide_only {s s1 : State} (h : execReqCollide s = .next s1) :
    Only [.regs, .hst] s s1 := by
  unfold execReqCollide at h
  refine awake_only h ?_
  repeat' (first | (with_reducible exact Only.refl _ _) | (with_reducible apply Only.ite) | (with_reducible apply reqCollide_step (hm := by decide)) | split | dsimp only)

theorem execReqCollide_wf {s s1 : State} (h : execReqCollide s = .next s1) (h₀ : Memory.wf s = true) : Memory.wf s1 = true := by
  unfold execReqCollide at h
  refine awake_wf h ?_ h₀
  repeat' (first | (with_reducible assumption) | (with_reducible apply wf_ite) | (with_reducible apply reqCollide_wf) | split | dsimp only)

theorem execFabricGrant_wf (port : Fin 15) (reqs : List FabReq) {s s1 : State} (h : execFabricGrant port reqs s = .next s1) (h₀ : Memory.wf s = true) : Memory.wf s1 = true := by
  unfold execFabricGrant at h
  split at h
  · exact nomatch h
  · refine awake_wf h ?_ h₀
    repeat' (first | (with_reducible assumption) | (with_reducible apply wf_ite) | (with_reducible apply fabricGrant_wf) | split | dsimp only)

theorem execFabricResponse_wf (m : Fin 9) (data : List Quad) (errs : List (BitVec 145)) {s s1 : State} (h : execFabricResponse m data errs s = .next s1) (h₀ : Memory.wf s = true) : Memory.wf s1 = true := by
  unfold execFabricResponse at h
  refine awake_wf h ?_ h₀
  repeat' (first | (with_reducible assumption) | (with_reducible apply wf_ite) | (with_reducible apply fabricResponse_wf) | split | dsimp only)

theorem execFabricTimeout_only (port : Fin 15) {s s1 : State} (h : execFabricTimeout port s = .next s1) :
    Only [.regs, .fab] s s1 := by
  unfold execFabricTimeout at h
  refine awake_only h ?_
  repeat' (first | (with_reducible exact Only.refl _ _) | (with_reducible apply Only.ite) | (with_reducible apply fabricTimeout_step (hm := by decide)) | split | dsimp only)

theorem execFabricTimeout_wf (port : Fin 15) {s s1 : State} (h : execFabricTimeout port s = .next s1) (h₀ : Memory.wf s = true) : Memory.wf s1 = true := by
  unfold execFabricTimeout at h
  refine awake_wf h ?_ h₀
  repeat' (first | (with_reducible assumption) | (with_reducible apply wf_ite) | (with_reducible apply fabricTimeout_wf) | split | dsimp only)

theorem execPortProbe_only (answered : List (Fin 15)) {s s1 : State} (h : execPortProbe answered s = .next s1) :
    Only [.regs] s s1 := by
  unfold execPortProbe at h
  refine awake_only h ?_
  repeat' (first | (with_reducible exact Only.refl _ _) | (with_reducible apply Only.ite) | (with_reducible apply portProbe_step (hm := by decide)) | split | dsimp only)

theorem execPortProbe_wf (answered : List (Fin 15)) {s s1 : State} (h : execPortProbe answered s = .next s1) (h₀ : Memory.wf s = true) : Memory.wf s1 = true := by
  unfold execPortProbe at h
  refine awake_wf h ?_ h₀
  repeat' (first | (with_reducible assumption) | (with_reducible apply wf_ite) | (with_reducible apply portProbe_wf) | split | dsimp only)

theorem execMasterReset_wf (m : Fin 9) (beats : Nat) {s s1 : State} (h : execMasterReset m beats s = .next s1) (h₀ : Memory.wf s = true) : Memory.wf s1 = true := by
  unfold execMasterReset at h
  refine awake_wf h ?_ h₀
  repeat' (first | (with_reducible assumption) | (with_reducible apply wf_ite) | (with_reducible apply masterReset_wf) | split | dsimp only)

theorem execFabElogRead_only {s s1 : State} (h : execFabElogRead s = .next s1) :
    Only [.rdata, .vent] s s1 := by
  unfold execFabElogRead at h
  refine awake_only h ?_
  repeat' (first | (with_reducible exact Only.refl _ _) | (with_reducible apply Only.ite) | (with_reducible apply Only.readAt (hf := fun _ => ?_) (hm := by decide)) | (with_reducible apply latchRead_step (hm := by decide)) | split | dsimp only)

theorem execFabElogRead_wf {s s1 : State} (h : execFabElogRead s = .next s1) (h₀ : Memory.wf s = true) : Memory.wf s1 = true := by
  unfold execFabElogRead at h
  refine awake_wf h ?_ h₀
  repeat' (first | (with_reducible assumption) | (with_reducible apply wf_ite) | (with_reducible apply readAt_wf (hf := fun _ _ => ?_)) | (with_reducible apply latchRead_wf) | split | dsimp only)

theorem execNop_only (n : Lane) {s s1 : State} (h : execNop n s = .next s1) :
    Only [.regs, .gates, .legs, .lanes, .loops] s s1 := by
  unfold execNop at h
  refine awake_only h ?_
  repeat' (first | (with_reducible exact Only.refl _ _) | (with_reducible apply Only.ite) | (with_reducible apply laneNop_step (hm := by decide)) | split | dsimp only)

theorem execNop_wf (n : Lane) {s s1 : State} (h : execNop n s = .next s1) (h₀ : Memory.wf s = true) : Memory.wf s1 = true := by
  unfold execNop at h
  refine awake_wf h ?_ h₀
  repeat' (first | (with_reducible assumption) | (with_reducible apply wf_ite) | (with_reducible apply laneNop_wf) | split | dsimp only)

theorem execMac_only (n : Lane) {s s1 : State} (h : execMac n s = .next s1) :
    Only [.regs, .gates, .legs, .lanes, .loops] s s1 := by
  unfold execMac at h
  refine awake_only h ?_
  repeat' (first | (with_reducible exact Only.refl _ _) | (with_reducible apply Only.ite) | (with_reducible apply laneMac_step (hm := by decide)) | split | dsimp only)

theorem execMac_wf (n : Lane) {s s1 : State} (h : execMac n s = .next s1) (h₀ : Memory.wf s = true) : Memory.wf s1 = true := by
  unfold execMac at h
  refine awake_wf h ?_ h₀
  repeat' (first | (with_reducible assumption) | (with_reducible apply wf_ite) | (with_reducible apply laneMac_wf) | split | dsimp only)

theorem execMacd_only (n : Lane) {s s1 : State} (h : execMacd n s = .next s1) :
    Only [.regs, .gates, .legs, .lanes, .loops] s s1 := by
  unfold execMacd at h
  refine awake_only h ?_
  repeat' (first | (with_reducible exact Only.refl _ _) | (with_reducible apply Only.ite) | (with_reducible apply laneMacd_step (hm := by decide)) | split | dsimp only)

theorem execMacd_wf (n : Lane) {s s1 : State} (h : execMacd n s = .next s1) (h₀ : Memory.wf s = true) : Memory.wf s1 = true := by
  unfold execMacd at h
  refine awake_wf h ?_ h₀
  repeat' (first | (with_reducible assumption) | (with_reducible apply wf_ite) | (with_reducible apply laneMacd_wf) | split | dsimp only)

theorem execIntg_only (n : Lane) {s s1 : State} (h : execIntg n s = .next s1) :
    Only [.regs, .gates, .legs, .lanes, .loops] s s1 := by
  unfold execIntg at h
  refine awake_only h ?_
  repeat' (first | (with_reducible exact Only.refl _ _) | (with_reducible apply Only.ite) | (with_reducible apply laneIntg_step (hm := by decide)) | split | dsimp only)

theorem execIntg_wf (n : Lane) {s s1 : State} (h : execIntg n s = .next s1) (h₀ : Memory.wf s = true) : Memory.wf s1 = true := by
  unfold execIntg at h
  refine awake_wf h ?_ h₀
  repeat' (first | (with_reducible assumption) | (with_reducible apply wf_ite) | (with_reducible apply laneIntg_wf) | split | dsimp only)

theorem execWait_only (n : Lane) {s s1 : State} (h : execWait n s = .next s1) :
    Only [.regs, .gates, .legs, .lanes, .loops] s s1 := by
  unfold execWait at h
  refine awake_only h ?_
  repeat' (first | (with_reducible exact Only.refl _ _) | (with_reducible apply Only.ite) | (with_reducible apply laneWait_step (hm := by decide)) | split | dsimp only)

theorem execWait_wf (n : Lane) {s s1 : State} (h : execWait n s = .next s1) (h₀ : Memory.wf s = true) : Memory.wf s1 = true := by
  unfold execWait at h
  refine awake_wf h ?_ h₀
  repeat' (first | (with_reducible assumption) | (with_reducible apply wf_ite) | (with_reducible apply laneWait_wf) | split | dsimp only)

theorem execWaitComplete_only (n : Lane) {s s1 : State} (h : execWaitComplete n s = .next s1) :
    Only [.regs, .gates, .legs, .lanes, .loops] s s1 := by
  unfold execWaitComplete at h
  refine awake_only h ?_
  repeat' (first | (with_reducible exact Only.refl _ _) | (with_reducible apply Only.ite) | (with_reducible apply laneWaitComplete_step (hm := by decide)) | split | dsimp only)

theorem execWaitComplete_wf (n : Lane) {s s1 : State} (h : execWaitComplete n s = .next s1) (h₀ : Memory.wf s = true) : Memory.wf s1 = true := by
  unfold execWaitComplete at h
  refine awake_wf h ?_ h₀
  repeat' (first | (with_reducible assumption) | (with_reducible apply wf_ite) | (with_reducible apply laneWaitComplete_wf) | split | dsimp only)

theorem execOut_only (n : Lane) {s s1 : State} (h : execOut n s = .next s1) :
    Only [.regs, .gates, .legs, .lanes, .loops] s s1 := by
  unfold execOut at h
  refine awake_only h ?_
  repeat' (first | (with_reducible exact Only.refl _ _) | (with_reducible apply Only.ite) | (with_reducible apply laneOut_step (hm := by decide)) | split | dsimp only)

theorem execOut_wf (n : Lane) {s s1 : State} (h : execOut n s = .next s1) (h₀ : Memory.wf s = true) : Memory.wf s1 = true := by
  unfold execOut at h
  refine awake_wf h ?_ h₀
  repeat' (first | (with_reducible assumption) | (with_reducible apply wf_ite) | (with_reducible apply laneOut_wf) | split | dsimp only)

theorem execSkipo_only (n : Lane) {s s1 : State} (h : execSkipo n s = .next s1) :
    Only [.regs, .gates, .legs, .lanes, .loops] s s1 := by
  unfold execSkipo at h
  refine awake_only h ?_
  repeat' (first | (with_reducible exact Only.refl _ _) | (with_reducible apply Only.ite) | (with_reducible apply laneSkipo_step (hm := by decide)) | split | dsimp only)

theorem execSkipo_wf (n : Lane) {s s1 : State} (h : execSkipo n s = .next s1) (h₀ : Memory.wf s = true) : Memory.wf s1 = true := by
  unfold execSkipo at h
  refine awake_wf h ?_ h₀
  repeat' (first | (with_reducible assumption) | (with_reducible apply wf_ite) | (with_reducible apply laneSkipo_wf) | split | dsimp only)

theorem execEndProgram_only (n : Lane) {s s1 : State} (h : execEndProgram n s = .next s1) :
    Only [.lanes] s s1 := by
  unfold execEndProgram at h
  refine awake_only h ?_
  repeat' (first | (with_reducible exact Only.refl _ _) | (with_reducible apply Only.ite) | (with_reducible apply laneEnd_step (hm := by decide)) | split | dsimp only)

theorem execEndProgram_wf (n : Lane) {s s1 : State} (h : execEndProgram n s = .next s1) (h₀ : Memory.wf s = true) : Memory.wf s1 = true := by
  unfold execEndProgram at h
  refine awake_wf h ?_ h₀
  repeat' (first | (with_reducible assumption) | (with_reducible apply wf_ite) | (with_reducible apply laneEnd_wf) | split | dsimp only)

theorem execLaneOverrun_only (n : Lane) {s s1 : State} (h : execLaneOverrun n s = .next s1) :
    Only [.regs, .gates, .legs, .lanes, .loops] s s1 := by
  unfold execLaneOverrun at h
  refine awake_only h ?_
  repeat' (first | (with_reducible exact Only.refl _ _) | (with_reducible apply Only.ite) | (with_reducible apply laneOverrun_step (hm := by decide)) | split | dsimp only)

theorem execLaneOverrun_wf (n : Lane) {s s1 : State} (h : execLaneOverrun n s = .next s1) (h₀ : Memory.wf s = true) : Memory.wf s1 = true := by
  unfold execLaneOverrun at h
  refine awake_wf h ?_ h₀
  repeat' (first | (with_reducible assumption) | (with_reducible apply wf_ite) | (with_reducible apply laneOverrun_wf) | split | dsimp only)

theorem execLaneSwapnow_only (c : Chan) {s s1 : State} (h : execLaneSwapnow c s = .next s1) :
    Only [.regs, .hst] s s1 := by
  unfold execLaneSwapnow at h
  refine awake_only h ?_
  repeat' (first | (with_reducible exact Only.refl _ _) | (with_reducible apply Only.ite) | (with_reducible apply Only.fieldAt (hf := fun _ => ?_) (hm := by decide)) | (with_reducible apply swapNow_step (hm := by decide)) | split | dsimp only)

theorem execLaneSwapnow_wf (c : Chan) {s s1 : State} (h : execLaneSwapnow c s = .next s1) (h₀ : Memory.wf s = true) : Memory.wf s1 = true := by
  unfold execLaneSwapnow at h
  refine awake_wf h ?_ h₀
  repeat' (first | (with_reducible assumption) | (with_reducible apply wf_ite) | (with_reducible apply fieldAt_wf (hf := fun _ _ => ?_)) | (with_reducible apply swapNow_wf) | split | dsimp only)

theorem execCoefWrite_only (c : Chan) (v : Word) {s s1 : State} (h : execCoefWrite c v s = .next s1) :
    Only [.regs, .loops, .hst] s s1 := by
  unfold execCoefWrite at h
  refine awake_only h ?_
  repeat' (first | (with_reducible exact Only.refl _ _) | (with_reducible apply Only.ite) | (with_reducible apply Only.fieldAt (hf := fun _ => ?_) (hm := by decide)) | (with_reducible apply coefWrite_step (hm := by decide)) | split | dsimp only)

theorem execCoefWrite_wf (c : Chan) (v : Word) {s s1 : State} (h : execCoefWrite c v s = .next s1) (h₀ : Memory.wf s = true) : Memory.wf s1 = true := by
  unfold execCoefWrite at h
  refine awake_wf h ?_ h₀
  repeat' (first | (with_reducible assumption) | (with_reducible apply wf_ite) | (with_reducible apply fieldAt_wf (hf := fun _ _ => ?_)) | (with_reducible apply coefWrite_wf) | split | dsimp only)

theorem execLaneNextWrite_only (c : Chan) (v : Word) {s s1 : State} (h : execLaneNextWrite c v s = .next s1) :
    Only [.regs, .banks, .hst] s s1 := by
  unfold execLaneNextWrite at h
  refine awake_only h ?_
  repeat' (first | (with_reducible exact Only.refl _ _) | (with_reducible apply Only.ite) | (with_reducible apply Only.aliasAt (hf := fun _ => ?_) (hm := by decide)) | (with_reducible apply lanePdataWrite_step (hm := by decide)) | split | dsimp only)

theorem execLaneNextWrite_wf (c : Chan) (v : Word) {s s1 : State} (h : execLaneNextWrite c v s = .next s1) (h₀ : Memory.wf s = true) : Memory.wf s1 = true := by
  unfold execLaneNextWrite at h
  refine awake_wf h ?_ h₀
  repeat' (first | (with_reducible assumption) | (with_reducible apply wf_ite) | (with_reducible apply aliasAt_wf (hf := fun _ _ => ?_)) | (with_reducible apply lanePdataWrite_wf) | split | dsimp only)

theorem execLaneNextRead_only (c : Chan) {s s1 : State} (h : execLaneNextRead c s = .next s1) :
    Only [.regs, .rdata] s s1 := by
  unfold execLaneNextRead at h
  refine awake_only h ?_
  repeat' (first | (with_reducible exact Only.refl _ _) | (with_reducible apply Only.ite) | (with_reducible apply Only.readAt (hf := fun _ => ?_) (hm := by decide)) | (with_reducible apply lanePdataRead_step (hm := by decide)) | split | dsimp only)

theorem execLaneNextRead_wf (c : Chan) {s s1 : State} (h : execLaneNextRead c s = .next s1) (h₀ : Memory.wf s = true) : Memory.wf s1 = true := by
  unfold execLaneNextRead at h
  refine awake_wf h ?_ h₀
  repeat' (first | (with_reducible assumption) | (with_reducible apply wf_ite) | (with_reducible apply readAt_wf (hf := fun _ _ => ?_)) | (with_reducible apply lanePdataRead_wf) | split | dsimp only)

theorem execLaneLiveRead_only (c : Chan) {s s1 : State} (h : execLaneLiveRead c s = .next s1) :
    Only [.regs, .rdata] s s1 := by
  unfold execLaneLiveRead at h
  refine awake_only h ?_
  repeat' (first | (with_reducible exact Only.refl _ _) | (with_reducible apply Only.ite) | (with_reducible apply Only.readAt (hf := fun _ => ?_) (hm := by decide)) | (with_reducible apply laneLdataRead_step (hm := by decide)) | split | dsimp only)

theorem execLaneLiveRead_wf (c : Chan) {s s1 : State} (h : execLaneLiveRead c s = .next s1) (h₀ : Memory.wf s = true) : Memory.wf s1 = true := by
  unfold execLaneLiveRead at h
  refine awake_wf h ?_ h₀
  repeat' (first | (with_reducible assumption) | (with_reducible apply wf_ite) | (with_reducible apply readAt_wf (hf := fun _ _ => ?_)) | (with_reducible apply laneLdataRead_wf) | split | dsimp only)

theorem execShadowSlotOpen_only {s s1 : State} (h : execShadowSlotOpen s = .next s1) :
    Only [.regs, .banks, .lanes, .lanePool] s s1 := by
  unfold execShadowSlotOpen at h
  refine awake_only h ?_
  repeat' (first | (with_reducible exact Only.refl _ _) | (with_reducible apply Only.ite) | (with_reducible apply shadowSlotOpen_step (hm := by decide)) | split | dsimp only)

theorem execShadowSlotOpen_wf {s s1 : State} (h : execShadowSlotOpen s = .next s1) (h₀ : Memory.wf s = true) : Memory.wf s1 = true := by
  unfold execShadowSlotOpen at h
  refine awake_wf h ?_ h₀
  repeat' (first | (with_reducible assumption) | (with_reducible apply wf_ite) | (with_reducible apply shadowSlotOpen_wf) | split | dsimp only)

theorem execSelfTestDone_only (n : Lane) (pass : Bool) {s s1 : State} (h : execSelfTestDone n pass s = .next s1) :
    Only [.regs, .conds, .lanePool, .bkg] s s1 := by
  unfold execSelfTestDone at h
  refine awake_only h ?_
  repeat' (first | (with_reducible exact Only.refl _ _) | (with_reducible apply Only.ite) | (with_reducible apply selfTestDone_step (hm := by decide)) | split | dsimp only)

theorem execSelfTestDone_wf (n : Lane) (pass : Bool) {s s1 : State} (h : execSelfTestDone n pass s = .next s1) (h₀ : Memory.wf s = true) : Memory.wf s1 = true := by
  unfold execSelfTestDone at h
  refine awake_wf h ?_ h₀
  repeat' (first | (with_reducible assumption) | (with_reducible apply wf_ite) | (with_reducible apply selfTestDone_wf) | split | dsimp only)

theorem execConfirmShadowEnd_only {s s1 : State} (h : execConfirmShadowEnd s = .next s1) :
    Only [.regs, .lanes, .lanePool] s s1 := by
  unfold execConfirmShadowEnd at h
  refine awake_only h ?_
  repeat' (first | (with_reducible exact Only.refl _ _) | (with_reducible apply Only.ite) | (with_reducible apply confirmEnd_step (hm := by decide)) | split | dsimp only)

theorem execConfirmShadowEnd_wf {s s1 : State} (h : execConfirmShadowEnd s = .next s1) (h₀ : Memory.wf s = true) : Memory.wf s1 = true := by
  unfold execConfirmShadowEnd at h
  refine awake_wf h ?_ h₀
  repeat' (first | (with_reducible assumption) | (with_reducible apply wf_ite) | (with_reducible apply confirmEnd_wf) | split | dsimp only)

theorem execLaneUe_only (n : Lane) {s s1 : State} (h : execLaneUe n s = .next s1) :
    Only [.regs, .banks, .conds, .gates, .legs, .lanes, .loops, .lanePool, .bkg] s s1 := by
  unfold execLaneUe at h
  refine awake_only h ?_
  repeat' (first | (with_reducible exact Only.refl _ _) | (with_reducible apply Only.ite) | (with_reducible apply laneUe_step (hm := by decide)) | split | dsimp only)

theorem execLaneUe_wf (n : Lane) {s s1 : State} (h : execLaneUe n s = .next s1) (h₀ : Memory.wf s = true) : Memory.wf s1 = true := by
  unfold execLaneUe at h
  refine awake_wf h ?_ h₀
  repeat' (first | (with_reducible assumption) | (with_reducible apply wf_ite) | (with_reducible apply laneUe_wf) | split | dsimp only)

theorem execForcedSwap_only {s s1 : State} (h : execForcedSwap s = .next s1) :
    Only [.regs, .hst] s s1 := by
  unfold execForcedSwap at h
  refine awake_only h ?_
  repeat' (first | (with_reducible exact Only.refl _ _) | (with_reducible apply Only.ite) | (with_reducible apply Only.fieldAt (hf := fun _ => ?_) (hm := by decide)) | (with_reducible apply forcedSwap_step (hm := by decide)) | split | dsimp only)

theorem execForcedSwap_wf {s s1 : State} (h : execForcedSwap s = .next s1) (h₀ : Memory.wf s = true) : Memory.wf s1 = true := by
  unfold execForcedSwap at h
  refine awake_wf h ?_ h₀
  repeat' (first | (with_reducible assumption) | (with_reducible apply wf_ite) | (with_reducible apply fieldAt_wf (hf := fun _ _ => ?_)) | (with_reducible apply forcedSwap_wf) | split | dsimp only)

theorem execTraceArm_only (b : Buf) {s s1 : State} (h : execTraceArm b s = .next s1) :
    Only [.regs, .trace, .hst] s s1 := by
  unfold execTraceArm at h
  refine awake_only h ?_
  repeat' (first | (with_reducible exact Only.refl _ _) | (with_reducible apply Only.ite) | (with_reducible apply Only.fieldAt (hf := fun _ => ?_) (hm := by decide)) | (with_reducible apply traceArm_step (hm := by decide)) | split | dsimp only)

theorem execTraceArm_wf (b : Buf) {s s1 : State} (h : execTraceArm b s = .next s1) (h₀ : Memory.wf s = true) : Memory.wf s1 = true := by
  unfold execTraceArm at h
  refine awake_wf h ?_ h₀
  repeat' (first | (with_reducible assumption) | (with_reducible apply wf_ite) | (with_reducible apply fieldAt_wf (hf := fun _ _ => ?_)) | (with_reducible apply traceArm_wf) | split | dsimp only)

theorem execTraceForce_only (b : Buf) {s s1 : State} (h : execTraceForce b s = .next s1) :
    Only [.trace, .hst] s s1 := by
  unfold execTraceForce at h
  refine awake_only h ?_
  repeat' (first | (with_reducible exact Only.refl _ _) | (with_reducible apply Only.ite) | (with_reducible apply Only.fieldAt (hf := fun _ => ?_) (hm := by decide)) | (with_reducible apply traceForce_step (hm := by decide)) | split | dsimp only)

theorem execTraceForce_wf (b : Buf) {s s1 : State} (h : execTraceForce b s = .next s1) (h₀ : Memory.wf s = true) : Memory.wf s1 = true := by
  unfold execTraceForce at h
  refine awake_wf h ?_ h₀
  repeat' (first | (with_reducible assumption) | (with_reducible apply wf_ite) | (with_reducible apply fieldAt_wf (hf := fun _ _ => ?_)) | (with_reducible apply traceForce_wf) | split | dsimp only)

theorem execTraceStop_only (b : Buf) {s s1 : State} (h : execTraceStop b s = .next s1) :
    Only [.regs, .hst] s s1 := by
  unfold execTraceStop at h
  refine awake_only h ?_
  repeat' (first | (with_reducible exact Only.refl _ _) | (with_reducible apply Only.ite) | (with_reducible apply Only.fieldAt (hf := fun _ => ?_) (hm := by decide)) | (with_reducible apply traceStop_step (hm := by decide)) | split | dsimp only)

theorem execTraceStop_wf (b : Buf) {s s1 : State} (h : execTraceStop b s = .next s1) (h₀ : Memory.wf s = true) : Memory.wf s1 = true := by
  unfold execTraceStop at h
  refine awake_wf h ?_ h₀
  repeat' (first | (with_reducible assumption) | (with_reducible apply wf_ite) | (with_reducible apply fieldAt_wf (hf := fun _ _ => ?_)) | (with_reducible apply traceStop_wf) | split | dsimp only)

theorem execTraceRead_only {s s1 : State} (h : execTraceRead s = .next s1) :
    Only [.regs, .rdata] s s1 := by
  unfold execTraceRead at h
  refine awake_only h ?_
  repeat' (first | (with_reducible exact Only.refl _ _) | (with_reducible apply Only.ite) | (with_reducible apply Only.readAt (hf := fun _ => ?_) (hm := by decide)) | (with_reducible apply traceRead_step (hm := by decide)) | split | dsimp only)

theorem execTraceRead_wf {s s1 : State} (h : execTraceRead s = .next s1) (h₀ : Memory.wf s = true) : Memory.wf s1 = true := by
  unfold execTraceRead at h
  refine awake_wf h ?_ h₀
  repeat' (first | (with_reducible assumption) | (with_reducible apply wf_ite) | (with_reducible apply readAt_wf (hf := fun _ _ => ?_)) | (with_reducible apply traceRead_wf) | split | dsimp only)

theorem execClrPk_only (c : Chan) {s s1 : State} (h : execClrPk c s = .next s1) :
    Only [.regs, .hst] s s1 := by
  unfold execClrPk at h
  refine awake_only h ?_
  repeat' (first | (with_reducible exact Only.refl _ _) | (with_reducible apply Only.ite) | (with_reducible apply Only.fieldAt (hf := fun _ => ?_) (hm := by decide)) | (with_reducible apply clrPk_step (hm := by decide)) | split | dsimp only)

theorem execClrPk_wf (c : Chan) {s s1 : State} (h : execClrPk c s = .next s1) (h₀ : Memory.wf s = true) : Memory.wf s1 = true := by
  unfold execClrPk at h
  refine awake_wf h ?_ h₀
  repeat' (first | (with_reducible assumption) | (with_reducible apply wf_ite) | (with_reducible apply fieldAt_wf (hf := fun _ _ => ?_)) | (with_reducible apply clrPk_wf) | split | dsimp only)

theorem execClrMin_only (c : Chan) {s s1 : State} (h : execClrMin c s = .next s1) :
    Only [.regs, .hst] s s1 := by
  unfold execClrMin at h
  refine awake_only h ?_
  repeat' (first | (with_reducible exact Only.refl _ _) | (with_reducible apply Only.ite) | (with_reducible apply Only.fieldAt (hf := fun _ => ?_) (hm := by decide)) | (with_reducible apply clrMin_step (hm := by decide)) | split | dsimp only)

theorem execClrMin_wf (c : Chan) {s s1 : State} (h : execClrMin c s = .next s1) (h₀ : Memory.wf s = true) : Memory.wf s1 = true := by
  unfold execClrMin at h
  refine awake_wf h ?_ h₀
  repeat' (first | (with_reducible assumption) | (with_reducible apply wf_ite) | (with_reducible apply fieldAt_wf (hf := fun _ _ => ?_)) | (with_reducible apply clrMin_wf) | split | dsimp only)

theorem execInjectionToggle_only (c : Chan) {s s1 : State} (h : execInjectionToggle c s = .next s1) :
    Only [.loops] s s1 := by
  unfold execInjectionToggle at h
  refine awake_only h ?_
  repeat' (first | (with_reducible exact Only.refl _ _) | (with_reducible apply Only.ite) | (with_reducible apply injectionToggle_step (hm := by decide)) | split | dsimp only)

theorem execInjectionToggle_wf (c : Chan) {s s1 : State} (h : execInjectionToggle c s = .next s1) (h₀ : Memory.wf s = true) : Memory.wf s1 = true := by
  unfold execInjectionToggle at h
  refine awake_wf h ?_ h₀
  repeat' (first | (with_reducible assumption) | (with_reducible apply wf_ite) | (with_reducible apply injectionToggle_wf) | split | dsimp only)

theorem execCeWriteback_only (b w : Nat) {s s1 : State} (h : execCeWriteback b w s = .next s1) :
    Only [.mem] s s1 := by
  unfold execCeWriteback at h
  refine awake_only h ?_
  repeat' (first | (with_reducible exact Only.refl _ _) | (with_reducible apply Only.ite) | (with_reducible apply writeBack_step (hm := by decide)) | split | dsimp only)

theorem execCeWriteback_wf (b w : Nat) {s s1 : State} (h : execCeWriteback b w s = .next s1) (h₀ : Memory.wf s = true) : Memory.wf s1 = true := by
  unfold execCeWriteback at h
  refine awake_wf h ?_ h₀
  repeat' (first | (with_reducible assumption) | (with_reducible apply wf_ite) | (with_reducible apply writeBack_wf) | split | dsimp only)

theorem execScrubStep_only (struck : List (Nat × Nat × BitVec 145)) {s s1 : State} (h : execScrubStep struck s = .next s1) :
    Only [.regs, .banks, .conds, .gates, .mb, .legs, .lanes, .loops, .lanePool, .vent, .mem, .bkg] s s1 := by
  unfold execScrubStep at h
  refine awake_only h ?_
  repeat' (first | (with_reducible exact Only.refl _ _) | (with_reducible apply Only.ite) | (with_reducible apply scrubStep_step (hm := by decide)) | (with_reducible apply struckWords_step (hm := by decide)) | split | dsimp only)

theorem execScrubStep_wf (struck : List (Nat × Nat × BitVec 145)) {s s1 : State} (h : execScrubStep struck s = .next s1) (h₀ : Memory.wf s = true) : Memory.wf s1 = true := by
  unfold execScrubStep at h
  refine awake_wf h ?_ h₀
  repeat' (first | (with_reducible assumption) | (with_reducible apply wf_ite) | (with_reducible apply scrubStep_wf) | (with_reducible apply struckWords_wf) | split | dsimp only)

theorem execRepairCopy_only (b : Nat) {s s1 : State} (h : execRepairCopy b s = .next s1) :
    Only [.regs, .mem, .bkg] s s1 := by
  unfold execRepairCopy at h
  refine awake_only h ?_
  repeat' (first | (with_reducible exact Only.refl _ _) | (with_reducible apply Only.ite) | (with_reducible apply repairCopy_step (hm := by decide)) | split | dsimp only)

theorem execRepairCopy_wf (b : Nat) {s s1 : State} (h : execRepairCopy b s = .next s1) (h₀ : Memory.wf s = true) : Memory.wf s1 = true := by
  unfold execRepairCopy at h
  refine awake_wf h ?_ h₀
  repeat' (first | (with_reducible assumption) | (with_reducible apply wf_ite) | (with_reducible apply repairCopy_wf) | split | dsimp only)

theorem execLogStateRecord_only {s s1 : State} (h : execLogStateRecord s = .next s1) :
    Only [.regs, .bkg] s s1 := by
  unfold execLogStateRecord at h
  refine awake_only h ?_
  repeat' (first | (with_reducible exact Only.refl _ _) | (with_reducible apply Only.ite) | (with_reducible apply logState_step (hm := by decide)) | split | dsimp only)

theorem execLogStateRecord_wf {s s1 : State} (h : execLogStateRecord s = .next s1) (h₀ : Memory.wf s = true) : Memory.wf s1 = true := by
  unfold execLogStateRecord at h
  refine awake_wf h ?_ h₀
  repeat' (first | (with_reducible assumption) | (with_reducible apply wf_ite) | (with_reducible apply logState_wf) | split | dsimp only)

theorem execLogEventRecords_only {s s1 : State} (h : execLogEventRecords s = .next s1) :
    Only [.regs, .bkg] s s1 := by
  unfold execLogEventRecords at h
  refine awake_only h ?_
  repeat' (first | (with_reducible exact Only.refl _ _) | (with_reducible apply Only.ite) | (with_reducible apply logEvents_step (hm := by decide)) | split | dsimp only)

theorem execLogEventRecords_wf {s s1 : State} (h : execLogEventRecords s = .next s1) (h₀ : Memory.wf s = true) : Memory.wf s1 = true := by
  unfold execLogEventRecords at h
  refine awake_wf h ?_ h₀
  repeat' (first | (with_reducible assumption) | (with_reducible apply wf_ite) | (with_reducible apply logEvents_wf) | split | dsimp only)

theorem execLogFlush_only {s s1 : State} (h : execLogFlush s = .next s1) :
    Only [.regs, .bkg, .hst] s s1 := by
  unfold execLogFlush at h
  refine awake_only h ?_
  repeat' (first | (with_reducible exact Only.refl _ _) | (with_reducible apply Only.ite) | (with_reducible apply Only.fieldAt (hf := fun _ => ?_) (hm := by decide)) | (with_reducible apply logFlush_step (hm := by decide)) | split | dsimp only)

theorem execLogFlush_wf {s s1 : State} (h : execLogFlush s = .next s1) (h₀ : Memory.wf s = true) : Memory.wf s1 = true := by
  unfold execLogFlush at h
  refine awake_wf h ?_ h₀
  repeat' (first | (with_reducible assumption) | (with_reducible apply wf_ite) | (with_reducible apply fieldAt_wf (hf := fun _ _ => ?_)) | (with_reducible apply logFlush_wf) | split | dsimp only)

theorem execFlashOpDone_only (ok : Bool) {s s1 : State} (h : execFlashOpDone ok s = .next s1) :
    Only [.regs, .sys, .bkg] s s1 := by
  unfold execFlashOpDone at h
  refine awake_only h ?_
  repeat' (first | (with_reducible exact Only.refl _ _) | (with_reducible apply Only.ite) | (with_reducible apply flashDone_step (hm := by decide)) | split | dsimp only)

theorem execFlashOpDone_wf (ok : Bool) {s s1 : State} (h : execFlashOpDone ok s = .next s1) (h₀ : Memory.wf s = true) : Memory.wf s1 = true := by
  unfold execFlashOpDone at h
  refine awake_wf h ?_ h₀
  repeat' (first | (with_reducible assumption) | (with_reducible apply wf_ite) | (with_reducible apply flashDone_wf) | split | dsimp only)

theorem execMemElogRead_only {s s1 : State} (h : execMemElogRead s = .next s1) :
    Only [.rdata, .vent] s s1 := by
  unfold execMemElogRead at h
  refine awake_only h ?_
  repeat' (first | (with_reducible exact Only.refl _ _) | (with_reducible apply Only.ite) | (with_reducible apply Only.readAt (hf := fun _ => ?_) (hm := by decide)) | (with_reducible apply latchRead_step (hm := by decide)) | split | dsimp only)

theorem execMemElogRead_wf {s s1 : State} (h : execMemElogRead s = .next s1) (h₀ : Memory.wf s = true) : Memory.wf s1 = true := by
  unfold execMemElogRead at h
  refine awake_wf h ?_ h₀
  repeat' (first | (with_reducible assumption) | (with_reducible apply wf_ite) | (with_reducible apply readAt_wf (hf := fun _ _ => ?_)) | (with_reducible apply latchRead_wf) | split | dsimp only)

theorem execBkgLogRead_only {s s1 : State} (h : execBkgLogRead s = .next s1) :
    Only [.rdata, .vent] s s1 := by
  unfold execBkgLogRead at h
  refine awake_only h ?_
  repeat' (first | (with_reducible exact Only.refl _ _) | (with_reducible apply Only.ite) | (with_reducible apply Only.readAt (hf := fun _ => ?_) (hm := by decide)) | (with_reducible apply latchRead_step (hm := by decide)) | split | dsimp only)

theorem execBkgLogRead_wf {s s1 : State} (h : execBkgLogRead s = .next s1) (h₀ : Memory.wf s = true) : Memory.wf s1 = true := by
  unfold execBkgLogRead at h
  refine awake_wf h ?_ h₀
  repeat' (first | (with_reducible assumption) | (with_reducible apply wf_ite) | (with_reducible apply readAt_wf (hf := fun _ _ => ?_)) | (with_reducible apply latchRead_wf) | split | dsimp only)

theorem execErrorInjectArm_only (v : Word) {s s1 : State} (h : execErrorInjectArm v s = .next s1) :
    Only [.regs, .heldU, .heldB, .hst] s s1 := by
  unfold execErrorInjectArm at h
  refine awake_only h ?_
  repeat' (first | (with_reducible exact Only.refl _ _) | (with_reducible apply Only.ite) | (with_reducible apply Only.fieldAt (hf := fun _ => ?_) (hm := by decide)) | (with_reducible apply injectArm_step (hm := by decide)) | split | dsimp only)

theorem execErrorInjectArm_wf (v : Word) {s s1 : State} (h : execErrorInjectArm v s = .next s1) (h₀ : Memory.wf s = true) : Memory.wf s1 = true := by
  unfold execErrorInjectArm at h
  refine awake_wf h ?_ h₀
  repeat' (first | (with_reducible assumption) | (with_reducible apply wf_ite) | (with_reducible apply fieldAt_wf (hf := fun _ _ => ?_)) | (with_reducible apply injectArm_wf) | split | dsimp only)

theorem execQspiProgram_only {s s1 : State} (h : execQspiProgram s = .next s1) :
    Only [.regs, .bkg, .hst] s s1 := by
  unfold execQspiProgram at h
  refine awake_only h ?_
  repeat' (first | (with_reducible exact Only.refl _ _) | (with_reducible apply Only.ite) | (with_reducible apply Only.fieldAt (hf := fun _ => ?_) (hm := by decide)) | (with_reducible apply qspiStart_step (hm := by decide)) | split | dsimp only)

theorem execQspiProgram_wf {s s1 : State} (h : execQspiProgram s = .next s1) (h₀ : Memory.wf s = true) : Memory.wf s1 = true := by
  unfold execQspiProgram at h
  refine awake_wf h ?_ h₀
  repeat' (first | (with_reducible assumption) | (with_reducible apply wf_ite) | (with_reducible apply fieldAt_wf (hf := fun _ _ => ?_)) | (with_reducible apply qspiStart_wf) | split | dsimp only)

theorem execQspiErase_only {s s1 : State} (h : execQspiErase s = .next s1) :
    Only [.regs, .bkg, .hst] s s1 := by
  unfold execQspiErase at h
  refine awake_only h ?_
  repeat' (first | (with_reducible exact Only.refl _ _) | (with_reducible apply Only.ite) | (with_reducible apply Only.fieldAt (hf := fun _ => ?_) (hm := by decide)) | (with_reducible apply qspiStart_step (hm := by decide)) | split | dsimp only)

theorem execQspiErase_wf {s s1 : State} (h : execQspiErase s = .next s1) (h₀ : Memory.wf s = true) : Memory.wf s1 = true := by
  unfold execQspiErase at h
  refine awake_wf h ?_ h₀
  repeat' (first | (with_reducible assumption) | (with_reducible apply wf_ite) | (with_reducible apply fieldAt_wf (hf := fun _ _ => ?_)) | (with_reducible apply qspiStart_wf) | split | dsimp only)

theorem execQspiReadStatus_only (sr1 : Byte) {s s1 : State} (h : execQspiReadStatus sr1 s = .next s1) :
    Only [.regs, .hst] s s1 := by
  unfold execQspiReadStatus at h
  refine awake_only h ?_
  repeat' (first | (with_reducible exact Only.refl _ _) | (with_reducible apply Only.ite) | (with_reducible apply Only.fieldAt (hf := fun _ => ?_) (hm := by decide)) | (with_reducible apply qspiStatus_step (hm := by decide)) | split | dsimp only)

theorem execQspiReadStatus_wf (sr1 : Byte) {s s1 : State} (h : execQspiReadStatus sr1 s = .next s1) (h₀ : Memory.wf s = true) : Memory.wf s1 = true := by
  unfold execQspiReadStatus at h
  refine awake_wf h ?_ h₀
  repeat' (first | (with_reducible assumption) | (with_reducible apply wf_ite) | (with_reducible apply fieldAt_wf (hf := fun _ _ => ?_)) | (with_reducible apply qspiStatus_wf) | split | dsimp only)

theorem execQspiBufferWrite_only (v : Word) {s s1 : State} (h : execQspiBufferWrite v s = .next s1) :
    Only [.regs, .banks, .hst] s s1 := by
  unfold execQspiBufferWrite at h
  refine awake_only h ?_
  repeat' (first | (with_reducible exact Only.refl _ _) | (with_reducible apply Only.ite) | (with_reducible apply Only.aliasAt (hf := fun _ => ?_) (hm := by decide)) | (with_reducible apply qspiBufWrite_step (hm := by decide)) | split | dsimp only)

theorem execQspiBufferWrite_wf (v : Word) {s s1 : State} (h : execQspiBufferWrite v s = .next s1) (h₀ : Memory.wf s = true) : Memory.wf s1 = true := by
  unfold execQspiBufferWrite at h
  refine awake_wf h ?_ h₀
  repeat' (first | (with_reducible assumption) | (with_reducible apply wf_ite) | (with_reducible apply aliasAt_wf (hf := fun _ _ => ?_)) | (with_reducible apply qspiBufWrite_wf) | split | dsimp only)

theorem execQspiBufferRead_only {s s1 : State} (h : execQspiBufferRead s = .next s1) :
    Only [.regs, .rdata] s s1 := by
  unfold execQspiBufferRead at h
  refine awake_only h ?_
  repeat' (first | (with_reducible exact Only.refl _ _) | (with_reducible apply Only.ite) | (with_reducible apply Only.readAt (hf := fun _ => ?_) (hm := by decide)) | (with_reducible apply qspiBufRead_step (hm := by decide)) | split | dsimp only)

theorem execQspiBufferRead_wf {s s1 : State} (h : execQspiBufferRead s = .next s1) (h₀ : Memory.wf s = true) : Memory.wf s1 = true := by
  unfold execQspiBufferRead at h
  refine awake_wf h ?_ h₀
  repeat' (first | (with_reducible assumption) | (with_reducible apply wf_ite) | (with_reducible apply readAt_wf (hf := fun _ _ => ?_)) | (with_reducible apply qspiBufRead_wf) | split | dsimp only)

theorem execRingStageWrite_only (path : Path) (r : Ring) (w : Fin 3) (v : Word) {s s1 : State} (h : execRingStageWrite path r w v s = .next s1) :
    Only [.regs, .rings, .hst] s s1 := by
  unfold execRingStageWrite at h
  refine awake_only h ?_
  repeat' (first | (with_reducible exact Only.refl _ _) | (with_reducible apply Only.ite) | (with_reducible apply Only.fieldAt (hf := fun _ => ?_) (hm := by decide)) | (with_reducible apply ringStage_step (hm := by decide)) | split | dsimp only)

theorem execRingStageWrite_wf (path : Path) (r : Ring) (w : Fin 3) (v : Word) {s s1 : State} (h : execRingStageWrite path r w v s = .next s1) (h₀ : Memory.wf s = true) : Memory.wf s1 = true := by
  unfold execRingStageWrite at h
  refine awake_wf h ?_ h₀
  repeat' (first | (with_reducible assumption) | (with_reducible apply wf_ite) | (with_reducible apply fieldAt_wf (hf := fun _ _ => ?_)) | (with_reducible apply ringStage_wf) | split | dsimp only)

theorem execRingPush_only (path : Path) (r : Ring) (v : Word) {s s1 : State} (h : execRingPush path r v s = .next s1) :
    Only [.regs, .banks, .conds, .mem, .rings, .hst] s s1 := by
  unfold execRingPush at h
  refine awake_only h ?_
  repeat' (first | (with_reducible exact Only.refl _ _) | (with_reducible apply Only.ite) | (with_reducible apply Only.fieldAt (hf := fun _ => ?_) (hm := by decide)) | (with_reducible apply ringPush_step (hm := by decide)) | split | dsimp only)

theorem execRingPush_wf (path : Path) (r : Ring) (v : Word) {s s1 : State} (h : execRingPush path r v s = .next s1) (h₀ : Memory.wf s = true) : Memory.wf s1 = true := by
  unfold execRingPush at h
  refine awake_wf h ?_ h₀
  repeat' (first | (with_reducible assumption) | (with_reducible apply wf_ite) | (with_reducible apply fieldAt_wf (hf := fun _ _ => ?_)) | (with_reducible apply ringPush_wf) | split | dsimp only)

theorem execRingFetch_only (path : Path) (r : Ring) {s s1 : State} (h : execRingFetch path r s = .next s1) :
    Only [.regs, .rdata, .mem, .rings] s s1 := by
  unfold execRingFetch at h
  refine awake_only h ?_
  repeat' (first | (with_reducible exact Only.refl _ _) | (with_reducible apply Only.ite) | (with_reducible apply Only.readAt (hf := fun _ => ?_) (hm := by decide)) | (with_reducible apply ringFetch_step (hm := by decide)) | split | dsimp only)

theorem execRingFetch_wf (path : Path) (r : Ring) {s s1 : State} (h : execRingFetch path r s = .next s1) (h₀ : Memory.wf s = true) : Memory.wf s1 = true := by
  unfold execRingFetch at h
  refine awake_wf h ?_ h₀
  repeat' (first | (with_reducible assumption) | (with_reducible apply wf_ite) | (with_reducible apply readAt_wf (hf := fun _ _ => ?_)) | (with_reducible apply ringFetch_wf) | split | dsimp only)

theorem execRingConsume_only (path : Path) (r : Ring) {s s1 : State} (h : execRingConsume path r s = .next s1) :
    Only [.regs, .banks, .conds, .rdata, .mem, .rings] s s1 := by
  unfold execRingConsume at h
  refine awake_only h ?_
  repeat' (first | (with_reducible exact Only.refl _ _) | (with_reducible apply Only.ite) | (with_reducible apply Only.readAt (hf := fun _ => ?_) (hm := by decide)) | (with_reducible apply ringConsume_step (hm := by decide)) | split | dsimp only)

theorem execRingConsume_wf (path : Path) (r : Ring) {s s1 : State} (h : execRingConsume path r s = .next s1) (h₀ : Memory.wf s = true) : Memory.wf s1 = true := by
  unfold execRingConsume at h
  refine awake_wf h ?_ h₀
  repeat' (first | (with_reducible assumption) | (with_reducible apply wf_ite) | (with_reducible apply readAt_wf (hf := fun _ _ => ?_)) | (with_reducible apply ringConsume_wf) | split | dsimp only)

theorem execRingConfig_only (r : Ring) (v : Word) {s s1 : State} (h : execRingConfig r v s = .next s1) :
    Only [.regs, .heldU, .heldB, .banks, .conds, .mem, .rings, .hst] s s1 := by
  unfold execRingConfig at h
  refine awake_only h ?_
  repeat' (first | (with_reducible exact Only.refl _ _) | (with_reducible apply Only.ite) | (with_reducible apply Only.fieldAt (hf := fun _ => ?_) (hm := by decide)) | (with_reducible apply ringConfig_step (hm := by decide)) | split | dsimp only)

theorem execRingConfig_wf (r : Ring) (v : Word) {s s1 : State} (h : execRingConfig r v s = .next s1) (h₀ : Memory.wf s = true) : Memory.wf s1 = true := by
  unfold execRingConfig at h
  refine awake_wf h ?_ h₀
  repeat' (first | (with_reducible assumption) | (with_reducible apply wf_ite) | (with_reducible apply fieldAt_wf (hf := fun _ _ => ?_)) | (with_reducible apply ringConfig_wf) | split | dsimp only)

theorem cmdEntry_wf (s : State) (c : Chan) (type : Nat) (h₀ : Memory.wf s = true) : Memory.wf (cmdEntry s c type) = true := by
  unfold cmdEntry
  repeat' (first | (with_reducible assumption) | (with_reducible apply wf_ite) | (with_reducible apply cmdRun_wf) | split | dsimp only)

theorem execRegw_wf (c : Chan) {s s1 : State} (h : execRegw c s = .next s1) (h₀ : Memory.wf s = true) : Memory.wf s1 = true := by
  unfold execRegw at h
  refine awake_wf h ?_ h₀
  repeat' (first | (with_reducible assumption) | (with_reducible apply wf_ite) | (with_reducible apply cmdEntry_wf) | split | dsimp only)

theorem execRegw2_wf (c : Chan) {s s1 : State} (h : execRegw2 c s = .next s1) (h₀ : Memory.wf s = true) : Memory.wf s1 = true := by
  unfold execRegw2 at h
  refine awake_wf h ?_ h₀
  repeat' (first | (with_reducible assumption) | (with_reducible apply wf_ite) | (with_reducible apply cmdEntry_wf) | split | dsimp only)

theorem execFence_wf (c : Chan) {s s1 : State} (h : execFence c s = .next s1) (h₀ : Memory.wf s = true) : Memory.wf s1 = true := by
  unfold execFence at h
  refine awake_wf h ?_ h₀
  repeat' (first | (with_reducible assumption) | (with_reducible apply wf_ite) | (with_reducible apply cmdEntry_wf) | split | dsimp only)

theorem execTelEntryProduce_only (c : Chan) (type : Byte) (payload : List Word) {s s1 : State} (h : execTelEntryProduce c type payload s = .next s1) :
    Only [.regs, .banks, .conds, .mem, .rings] s s1 := by
  unfold execTelEntryProduce at h
  refine awake_only h ?_
  repeat' (first | (with_reducible exact Only.refl _ _) | (with_reducible apply Only.ite) | (with_reducible apply telProduce_step (hm := by decide)) | split | dsimp only)

theorem execTelEntryProduce_wf (c : Chan) (type : Byte) (payload : List Word) {s s1 : State} (h : execTelEntryProduce c type payload s = .next s1) (h₀ : Memory.wf s = true) : Memory.wf s1 = true := by
  unfold execTelEntryProduce at h
  refine awake_wf h ?_ h₀
  repeat' (first | (with_reducible assumption) | (with_reducible apply wf_ite) | (with_reducible apply telProduce_wf) | split | dsimp only)

theorem execTelemetryCollect_only {s s1 : State} (h : execTelemetryCollect s = .next s1) :
    Only [.regs, .banks, .conds, .mem, .bkg, .rings] s s1 := by
  unfold execTelemetryCollect at h
  refine awake_only h ?_
  repeat' (first | (with_reducible exact Only.refl _ _) | (with_reducible apply Only.ite) | (with_reducible apply telemetryCollect_step (hm := by decide)) | split | dsimp only)

theorem execTelemetryCollect_wf {s s1 : State} (h : execTelemetryCollect s = .next s1) (h₀ : Memory.wf s = true) : Memory.wf s1 = true := by
  unfold execTelemetryCollect at h
  refine awake_wf h ?_ h₀
  repeat' (first | (with_reducible assumption) | (with_reducible apply wf_ite) | (with_reducible apply telemetryCollect_wf) | split | dsimp only)

theorem execConversionEnd_only (n : Slice) (raw : Word16) (err : Bool) {s s1 : State} (h : execConversionEnd n raw err s = .next s1) :
    Only [.regs, .conds, .gates, .sense, .loops] s s1 := by
  unfold execConversionEnd at h
  refine awake_only h ?_
  repeat' (first | (with_reducible exact Only.refl _ _) | (with_reducible apply Only.ite) | (with_reducible apply conversionEnd_step (hm := by decide)) | split | dsimp only)

theorem execConversionEnd_wf (n : Slice) (raw : Word16) (err : Bool) {s s1 : State} (h : execConversionEnd n raw err s = .next s1) (h₀ : Memory.wf s = true) : Memory.wf s1 = true := by
  unfold execConversionEnd at h
  refine awake_wf h ?_ h₀
  repeat' (first | (with_reducible assumption) | (with_reducible apply wf_ite) | (with_reducible apply conversionEnd_wf) | split | dsimp only)

theorem execRetryEnd_only (n : Slice) (raw : Word16) (err : Bool) {s s1 : State} (h : execRetryEnd n raw err s = .next s1) :
    Only [.regs, .conds, .gates, .sense, .loops, .bkg] s s1 := by
  unfold execRetryEnd at h
  refine awake_only h ?_
  repeat' (first | (with_reducible exact Only.refl _ _) | (with_reducible apply Only.ite) | (with_reducible apply retryEnd_step (hm := by decide)) | split | dsimp only)

theorem execRetryEnd_wf (n : Slice) (raw : Word16) (err : Bool) {s s1 : State} (h : execRetryEnd n raw err s = .next s1) (h₀ : Memory.wf s = true) : Memory.wf s1 = true := by
  unfold execRetryEnd at h
  refine awake_wf h ?_ h₀
  repeat' (first | (with_reducible assumption) | (with_reducible apply wf_ite) | (with_reducible apply retryEnd_wf) | split | dsimp only)

theorem execDecimatorOutput_only {s s1 : State} (h : execDecimatorOutput s = .next s1) :
    Only [.regs, .gates, .sense] s s1 := by
  unfold execDecimatorOutput at h
  refine awake_only h ?_
  repeat' (first | (with_reducible exact Only.refl _ _) | (with_reducible apply Only.ite) | (with_reducible apply decimate_step (hm := by decide)) | split | dsimp only)

theorem execDecimatorOutput_wf {s s1 : State} (h : execDecimatorOutput s = .next s1) (h₀ : Memory.wf s = true) : Memory.wf s1 = true := by
  unfold execDecimatorOutput at h
  refine awake_wf h ?_ h₀
  repeat' (first | (with_reducible assumption) | (with_reducible apply wf_ite) | (with_reducible apply decimate_wf) | split | dsimp only)

theorem execStartupCalDone_only (o : List CalOutcome) {s s1 : State} (h : execStartupCalDone o s = .next s1) :
    Only [.regs, .gates, .sys, .sense, .bkg] s s1 := by
  unfold execStartupCalDone at h
  refine awake_only h ?_
  repeat' (first | (with_reducible exact Only.refl _ _) | (with_reducible apply Only.ite) | (with_reducible apply startupCal_step (hm := by decide)) | split | dsimp only)

theorem execStartupCalDone_wf (o : List CalOutcome) {s s1 : State} (h : execStartupCalDone o s = .next s1) (h₀ : Memory.wf s = true) : Memory.wf s1 = true := by
  unfold execStartupCalDone at h
  refine awake_wf h ?_ h₀
  repeat' (first | (with_reducible assumption) | (with_reducible apply wf_ite) | (with_reducible apply startupCal_wf) | split | dsimp only)

theorem execRotationStepStart_only {s s1 : State} (h : execRotationStepStart s = .next s1) :
    Only [.sense, .bkg] s s1 := by
  unfold execRotationStepStart at h
  refine awake_only h ?_
  repeat' (first | (with_reducible exact Only.refl _ _) | (with_reducible apply Only.ite) | (with_reducible apply rotationStart_step (hm := by decide)) | split | dsimp only)

theorem execRotationStepStart_wf {s s1 : State} (h : execRotationStepStart s = .next s1) (h₀ : Memory.wf s = true) : Memory.wf s1 = true := by
  unfold execRotationStepStart at h
  refine awake_wf h ?_ h₀
  repeat' (first | (with_reducible assumption) | (with_reducible apply wf_ite) | (with_reducible apply rotationStart_wf) | split | dsimp only)

theorem execRotationOverlapEnd_only {s s1 : State} (h : execRotationOverlapEnd s = .next s1) :
    Only [.sense] s s1 := by
  unfold execRotationOverlapEnd at h
  refine awake_only h ?_
  repeat' (first | (with_reducible exact Only.refl _ _) | (with_reducible apply Only.ite) | (with_reducible apply rotationOverlapEnd_step (hm := by decide)) | split | dsimp only)

theorem execRotationOverlapEnd_wf {s s1 : State} (h : execRotationOverlapEnd s = .next s1) (h₀ : Memory.wf s = true) : Memory.wf s1 = true := by
  unfold execRotationOverlapEnd at h
  refine awake_wf h ?_ h₀
  repeat' (first | (with_reducible assumption) | (with_reducible apply wf_ite) | (with_reducible apply rotationOverlapEnd_wf) | split | dsimp only)

theorem execSliceCalDone_only (o : CalOutcome) {s s1 : State} (h : execSliceCalDone o s = .next s1) :
    Only [.regs, .sense, .bkg] s s1 := by
  unfold execSliceCalDone at h
  refine awake_only h ?_
  repeat' (first | (with_reducible exact Only.refl _ _) | (with_reducible apply Only.ite) | (with_reducible apply sliceCalDone_step (hm := by decide)) | split | dsimp only)

theorem execSliceCalDone_wf (o : CalOutcome) {s s1 : State} (h : execSliceCalDone o s = .next s1) (h₀ : Memory.wf s = true) : Memory.wf s1 = true := by
  unfold execSliceCalDone at h
  refine awake_wf h ?_ h₀
  repeat' (first | (with_reducible assumption) | (with_reducible apply wf_ite) | (with_reducible apply sliceCalDone_wf) | split | dsimp only)

theorem execRailConversion_only (n : Fin 4) (code : BitVec 12) {s s1 : State} (h : execRailConversion n code s = .next s1) :
    Only [.regs, .conds, .gates, .sense, .loops] s s1 := by
  unfold execRailConversion at h
  refine awake_only h ?_
  repeat' (first | (with_reducible exact Only.refl _ _) | (with_reducible apply Only.ite) | (with_reducible apply railConversion_step (hm := by decide)) | split | dsimp only)

theorem execRailConversion_wf (n : Fin 4) (code : BitVec 12) {s s1 : State} (h : execRailConversion n code s = .next s1) (h₀ : Memory.wf s = true) : Memory.wf s1 = true := by
  unfold execRailConversion at h
  refine awake_wf h ?_ h₀
  repeat' (first | (with_reducible assumption) | (with_reducible apply wf_ite) | (with_reducible apply railConversion_wf) | split | dsimp only)

theorem execCalResultRead_only {s s1 : State} (h : execCalResultRead s = .next s1) :
    Only [.rdata, .sense] s s1 := by
  unfold execCalResultRead at h
  refine awake_only h ?_
  repeat' (first | (with_reducible exact Only.refl _ _) | (with_reducible apply Only.ite) | (with_reducible apply Only.readAt (hf := fun _ => ?_) (hm := by decide)) | (with_reducible apply calRead_step (hm := by decide)) | split | dsimp only)

theorem execCalResultRead_wf {s s1 : State} (h : execCalResultRead s = .next s1) (h₀ : Memory.wf s = true) : Memory.wf s1 = true := by
  unfold execCalResultRead at h
  refine awake_wf h ?_ h₀
  repeat' (first | (with_reducible assumption) | (with_reducible apply wf_ite) | (with_reducible apply readAt_wf (hf := fun _ _ => ?_)) | (with_reducible apply calRead_wf) | split | dsimp only)

theorem execVentUnitComplete_only (k : Fin 2) (cycles : Nat) {s s1 : State} (h : execVentUnitComplete k cycles s = .next s1) :
    Only [.regs, .gates, .vent] s s1 := by
  unfold execVentUnitComplete at h
  refine awake_only h ?_
  repeat' (first | (with_reducible exact Only.refl _ _) | (with_reducible apply Only.ite) | (with_reducible apply ventUnit_step (hm := by decide)) | split | dsimp only)

theorem execVentUnitComplete_wf (k : Fin 2) (cycles : Nat) {s s1 : State} (h : execVentUnitComplete k cycles s = .next s1) (h₀ : Memory.wf s = true) : Memory.wf s1 = true := by
  unfold execVentUnitComplete at h
  refine awake_wf h ?_ h₀
  repeat' (first | (with_reducible assumption) | (with_reducible apply wf_ite) | (with_reducible apply ventUnit_wf) | split | dsimp only)

theorem execConeStep_only (c : Chan) {s s1 : State} (h : execConeStep c s = .next s1) :
    Only [.vent] s s1 := by
  unfold execConeStep at h
  refine awake_only h ?_
  repeat' (first | (with_reducible exact Only.refl _ _) | (with_reducible apply Only.ite) | (with_reducible apply conePeriod_step (hm := by decide)) | split | dsimp only)

theorem execConeStep_wf (c : Chan) {s s1 : State} (h : execConeStep c s = .next s1) (h₀ : Memory.wf s = true) : Memory.wf s1 = true := by
  unfold execConeStep at h
  refine awake_wf h ?_ h₀
  repeat' (first | (with_reducible assumption) | (with_reducible apply wf_ite) | (with_reducible apply conePeriod_wf) | split | dsimp only)

theorem execReEstimate_only (c : Chan) {s s1 : State} (h : execReEstimate c s = .next s1) :
    Only [.regs, .vent] s s1 := by
  unfold execReEstimate at h
  refine awake_only h ?_
  repeat' (first | (with_reducible exact Only.refl _ _) | (with_reducible apply Only.ite) | (with_reducible apply reEstimate_step (hm := by decide)) | split | dsimp only)

theorem execReEstimate_wf (c : Chan) {s s1 : State} (h : execReEstimate c s = .next s1) (h₀ : Memory.wf s = true) : Memory.wf s1 = true := by
  unfold execReEstimate at h
  refine awake_wf h ?_ h₀
  repeat' (first | (with_reducible assumption) | (with_reducible apply wf_ite) | (with_reducible apply reEstimate_wf) | split | dsimp only)

theorem execIdPublish_only (c : Chan) {s s1 : State} (h : execIdPublish c s = .next s1) :
    Only [.regs, .vent] s s1 := by
  unfold execIdPublish at h
  refine awake_only h ?_
  repeat' (first | (with_reducible exact Only.refl _ _) | (with_reducible apply Only.ite) | (with_reducible apply idPublish_step (hm := by decide)) | split | dsimp only)

theorem execIdPublish_wf (c : Chan) {s s1 : State} (h : execIdPublish c s = .next s1) (h₀ : Memory.wf s = true) : Memory.wf s1 = true := by
  unfold execIdPublish at h
  refine awake_wf h ?_ h₀
  repeat' (first | (with_reducible assumption) | (with_reducible apply wf_ite) | (with_reducible apply idPublish_wf) | split | dsimp only)

theorem execVentCoreUe_only (k : Fin 2) {s s1 : State} (h : execVentCoreUe k s = .next s1) :
    Only [.regs, .vent] s s1 := by
  unfold execVentCoreUe at h
  refine awake_only h ?_
  repeat' (first | (with_reducible exact Only.refl _ _) | (with_reducible apply Only.ite) | (with_reducible apply ventCoreUe_step (hm := by decide)) | split | dsimp only)

theorem execVentCoreUe_wf (k : Fin 2) {s s1 : State} (h : execVentCoreUe k s = .next s1) (h₀ : Memory.wf s = true) : Memory.wf s1 = true := by
  unfold execVentCoreUe at h
  refine awake_wf h ?_ h₀
  repeat' (first | (with_reducible assumption) | (with_reducible apply wf_ite) | (with_reducible apply ventCoreUe_wf) | split | dsimp only)

theorem execSpkNextWrite_only (c : Chan) (v : Word) {s s1 : State} (h : execSpkNextWrite c v s = .next s1) :
    Only [.regs, .banks, .hst] s s1 := by
  unfold execSpkNextWrite at h
  refine awake_only h ?_
  repeat' (first | (with_reducible exact Only.refl _ _) | (with_reducible apply Only.ite) | (with_reducible apply Only.aliasAt (hf := fun _ => ?_) (hm := by decide)) | (with_reducible apply spkPdataWrite_step (hm := by decide)) | split | dsimp only)

theorem execSpkNextWrite_wf (c : Chan) (v : Word) {s s1 : State} (h : execSpkNextWrite c v s = .next s1) (h₀ : Memory.wf s = true) : Memory.wf s1 = true := by
  unfold execSpkNextWrite at h
  refine awake_wf h ?_ h₀
  repeat' (first | (with_reducible assumption) | (with_reducible apply wf_ite) | (with_reducible apply aliasAt_wf (hf := fun _ _ => ?_)) | (with_reducible apply spkPdataWrite_wf) | split | dsimp only)

theorem execSpkNextRead_only (c : Chan) {s s1 : State} (h : execSpkNextRead c s = .next s1) :
    Only [.regs, .rdata] s s1 := by
  unfold execSpkNextRead at h
  refine awake_only h ?_
  repeat' (first | (with_reducible exact Only.refl _ _) | (with_reducible apply Only.ite) | (with_reducible apply Only.readAt (hf := fun _ => ?_) (hm := by decide)) | (with_reducible apply spkPdataRead_step (hm := by decide)) | split | dsimp only)

theorem execSpkNextRead_wf (c : Chan) {s s1 : State} (h : execSpkNextRead c s = .next s1) (h₀ : Memory.wf s = true) : Memory.wf s1 = true := by
  unfold execSpkNextRead at h
  refine awake_wf h ?_ h₀
  repeat' (first | (with_reducible assumption) | (with_reducible apply wf_ite) | (with_reducible apply readAt_wf (hf := fun _ _ => ?_)) | (with_reducible apply spkPdataRead_wf) | split | dsimp only)

theorem execSpkLiveRead_only (c : Chan) {s s1 : State} (h : execSpkLiveRead c s = .next s1) :
    Only [.regs, .rdata] s s1 := by
  unfold execSpkLiveRead at h
  refine awake_only h ?_
  repeat' (first | (with_reducible exact Only.refl _ _) | (with_reducible apply Only.ite) | (with_reducible apply Only.readAt (hf := fun _ => ?_) (hm := by decide)) | (with_reducible apply spkLdataRead_step (hm := by decide)) | split | dsimp only)

theorem execSpkLiveRead_wf (c : Chan) {s s1 : State} (h : execSpkLiveRead c s = .next s1) (h₀ : Memory.wf s = true) : Memory.wf s1 = true := by
  unfold execSpkLiveRead at h
  refine awake_wf h ?_ h₀
  repeat' (first | (with_reducible assumption) | (with_reducible apply wf_ite) | (with_reducible apply readAt_wf (hf := fun _ _ => ?_)) | (with_reducible apply spkLdataRead_wf) | split | dsimp only)

theorem execClrLoad_only {s s1 : State} (h : execClrLoad s = .next s1) :
    Only [.regs, .hst] s s1 := by
  unfold execClrLoad at h
  refine awake_only h ?_
  repeat' (first | (with_reducible exact Only.refl _ _) | (with_reducible apply Only.ite) | (with_reducible apply Only.fieldAt (hf := fun _ => ?_) (hm := by decide)) | (with_reducible apply clrLoad_step (hm := by decide)) | split | dsimp only)

theorem execClrLoad_wf {s s1 : State} (h : execClrLoad s = .next s1) (h₀ : Memory.wf s = true) : Memory.wf s1 = true := by
  unfold execClrLoad at h
  refine awake_wf h ?_ h₀
  repeat' (first | (with_reducible assumption) | (with_reducible apply wf_ite) | (with_reducible apply fieldAt_wf (hf := fun _ _ => ?_)) | (with_reducible apply clrLoad_wf) | split | dsimp only)

theorem execTempResultRead_only (c : Chan) {s s1 : State} (h : execTempResultRead c s = .next s1) :
    Only [.rdata, .vent] s s1 := by
  unfold execTempResultRead at h
  refine awake_only h ?_
  repeat' (first | (with_reducible exact Only.refl _ _) | (with_reducible apply Only.ite) | (with_reducible apply Only.readAt (hf := fun _ => ?_) (hm := by decide)) | (with_reducible apply latchRead_step (hm := by decide)) | split | dsimp only)

theorem execTempResultRead_wf (c : Chan) {s s1 : State} (h : execTempResultRead c s = .next s1) (h₀ : Memory.wf s = true) : Memory.wf s1 = true := by
  unfold execTempResultRead at h
  refine awake_wf h ?_ h₀
  repeat' (first | (with_reducible assumption) | (with_reducible apply wf_ite) | (with_reducible apply readAt_wf (hf := fun _ _ => ?_)) | (with_reducible apply latchRead_wf) | split | dsimp only)

theorem execIdResultRead_only (c : Chan) {s s1 : State} (h : execIdResultRead c s = .next s1) :
    Only [.rdata, .vent] s s1 := by
  unfold execIdResultRead at h
  refine awake_only h ?_
  repeat' (first | (with_reducible exact Only.refl _ _) | (with_reducible apply Only.ite) | (with_reducible apply Only.readAt (hf := fun _ => ?_) (hm := by decide)) | (with_reducible apply latchRead_step (hm := by decide)) | split | dsimp only)

theorem execIdResultRead_wf (c : Chan) {s s1 : State} (h : execIdResultRead c s = .next s1) (h₀ : Memory.wf s = true) : Memory.wf s1 = true := by
  unfold execIdResultRead at h
  refine awake_wf h ?_ h₀
  repeat' (first | (with_reducible assumption) | (with_reducible apply wf_ite) | (with_reducible apply readAt_wf (hf := fun _ _ => ?_)) | (with_reducible apply latchRead_wf) | split | dsimp only)

theorem execLoadWindowEnd_only (c : Chan) {s s1 : State} (h : execLoadWindowEnd c s = .next s1) :
    Only [.regs, .conds, .gates, .vent] s s1 := by
  unfold execLoadWindowEnd at h
  refine awake_only h ?_
  repeat' (first | (with_reducible exact Only.refl _ _) | (with_reducible apply Only.ite) | (with_reducible apply loadWindowEnd_step (hm := by decide)) | split | dsimp only)

theorem execLoadWindowEnd_wf (c : Chan) {s s1 : State} (h : execLoadWindowEnd c s = .next s1) (h₀ : Memory.wf s = true) : Memory.wf s1 = true := by
  unfold execLoadWindowEnd at h
  refine awake_wf h ?_ h₀
  repeat' (first | (with_reducible assumption) | (with_reducible apply wf_ite) | (with_reducible apply loadWindowEnd_wf) | split | dsimp only)

theorem execSweepStart_only (c : Chan) {s s1 : State} (h : execSweepStart c s = .next s1) :
    Only [.regs, .vent, .hst] s s1 := by
  unfold execSweepStart at h
  refine awake_only h ?_
  repeat' (first | (with_reducible exact Only.refl _ _) | (with_reducible apply Only.ite) | (with_reducible apply Only.fieldAt (hf := fun _ => ?_) (hm := by decide)) | (with_reducible apply sweepStart_step (hm := by decide)) | split | dsimp only)

theorem execSweepStart_wf (c : Chan) {s s1 : State} (h : execSweepStart c s = .next s1) (h₀ : Memory.wf s = true) : Memory.wf s1 = true := by
  unfold execSweepStart at h
  refine awake_wf h ?_ h₀
  repeat' (first | (with_reducible assumption) | (with_reducible apply wf_ite) | (with_reducible apply fieldAt_wf (hf := fun _ _ => ?_)) | (with_reducible apply sweepStart_wf) | split | dsimp only)

theorem execSweepAbort_only (c : Chan) {s s1 : State} (h : execSweepAbort c s = .next s1) :
    Only [.regs, .vent, .hst] s s1 := by
  unfold execSweepAbort at h
  refine awake_only h ?_
  repeat' (first | (with_reducible exact Only.refl _ _) | (with_reducible apply Only.ite) | (with_reducible apply Only.fieldAt (hf := fun _ => ?_) (hm := by decide)) | (with_reducible apply sweepAbort_step (hm := by decide)) | split | dsimp only)

theorem execSweepAbort_wf (c : Chan) {s s1 : State} (h : execSweepAbort c s = .next s1) (h₀ : Memory.wf s = true) : Memory.wf s1 = true := by
  unfold execSweepAbort at h
  refine awake_wf h ?_ h₀
  repeat' (first | (with_reducible assumption) | (with_reducible apply wf_ite) | (with_reducible apply fieldAt_wf (hf := fun _ _ => ?_)) | (with_reducible apply sweepAbort_wf) | split | dsimp only)

theorem execSweepPhaseEnd_only (c : Chan) {s s1 : State} (h : execSweepPhaseEnd c s = .next s1) :
    Only [.regs, .vent] s s1 := by
  unfold execSweepPhaseEnd at h
  refine awake_only h ?_
  repeat' (first | (with_reducible exact Only.refl _ _) | (with_reducible apply Only.ite) | (with_reducible apply sweepPhaseEnd_step (hm := by decide)) | split | dsimp only)

theorem execSweepPhaseEnd_wf (c : Chan) {s s1 : State} (h : execSweepPhaseEnd c s = .next s1) (h₀ : Memory.wf s = true) : Memory.wf s1 = true := by
  unfold execSweepPhaseEnd at h
  refine awake_wf h ?_ h₀
  repeat' (first | (with_reducible assumption) | (with_reducible apply wf_ite) | (with_reducible apply sweepPhaseEnd_wf) | split | dsimp only)

theorem execDiaResultRead_only (path : Path) (c : Chan) (which : Fin 3) {s s1 : State} (h : execDiaResultRead path c which s = .next s1) :
    Only [.rdata, .vent] s s1 := by
  unfold execDiaResultRead at h
  refine awake_only h ?_
  repeat' (first | (with_reducible exact Only.refl _ _) | (with_reducible apply Only.ite) | (with_reducible apply Only.readAt (hf := fun _ => ?_) (hm := by decide)) | (with_reducible apply diaRead_step (hm := by decide)) | split | dsimp only)

theorem execDiaResultRead_wf (path : Path) (c : Chan) (which : Fin 3) {s s1 : State} (h : execDiaResultRead path c which s = .next s1) (h₀ : Memory.wf s = true) : Memory.wf s1 = true := by
  unfold execDiaResultRead at h
  refine awake_wf h ?_ h₀
  repeat' (first | (with_reducible assumption) | (with_reducible apply wf_ite) | (with_reducible apply readAt_wf (hf := fun _ _ => ?_)) | (with_reducible apply diaRead_wf) | split | dsimp only)

theorem execSweepDataRead_only (c : Chan) {s s1 : State} (h : execSweepDataRead c s = .next s1) :
    Only [.regs, .rdata] s s1 := by
  unfold execSweepDataRead at h
  refine awake_only h ?_
  repeat' (first | (with_reducible exact Only.refl _ _) | (with_reducible apply Only.ite) | (with_reducible apply Only.readAt (hf := fun _ => ?_) (hm := by decide)) | (with_reducible apply sweepDataRead_step (hm := by decide)) | split | dsimp only)

theorem execSweepDataRead_wf (c : Chan) {s s1 : State} (h : execSweepDataRead c s = .next s1) (h₀ : Memory.wf s = true) : Memory.wf s1 = true := by
  unfold execSweepDataRead at h
  refine awake_wf h ?_ h₀
  repeat' (first | (with_reducible assumption) | (with_reducible apply wf_ite) | (with_reducible apply readAt_wf (hf := fun _ _ => ?_)) | (with_reducible apply sweepDataRead_wf) | split | dsimp only)

theorem execPowerUp_wf {s s1 : State} (h : execPowerUp s = .next s1) (h₀ : Memory.wf s = true) : Memory.wf s1 = true := by
  unfold execPowerUp at h
  cases h
  repeat' (first | (with_reducible assumption) | (with_reducible apply wf_ite) | (with_reducible apply enterReset_wf) | split | dsimp only)

theorem execSupplyFall_wf {s s1 : State} (h : execSupplyFall s = .next s1) (h₀ : Memory.wf s = true) : Memory.wf s1 = true := by
  unfold execSupplyFall at h
  cases h
  repeat' (first | (with_reducible assumption) | (with_reducible apply wf_ite) | (with_reducible apply enterReset_wf) | split | dsimp only)

theorem execResetPin_wf (accepted : Bool) {s s1 : State} (h : execResetPin accepted s = .next s1) (h₀ : Memory.wf s = true) : Memory.wf s1 = true := by
  unfold execResetPin at h
  cases h
  repeat' (first | (with_reducible assumption) | (with_reducible apply wf_ite) | (with_reducible apply enterReset_wf) | split | dsimp only)

theorem execSoftReset_wf {s s1 : State} (h : execSoftReset s = .next s1) (h₀ : Memory.wf s = true) : Memory.wf s1 = true := by
  unfold execSoftReset at h
  refine awake_wf h ?_ h₀
  repeat' (first | (with_reducible assumption) | (with_reducible apply wf_ite) | (with_reducible apply fieldAt_wf (hf := fun _ _ => ?_)) | (with_reducible apply writeCtrl_wf) | split | dsimp only)

theorem execDebugReset_wf {s s1 : State} (h : execDebugReset s = .next s1) (h₀ : Memory.wf s = true) : Memory.wf s1 = true := by
  unfold execDebugReset at h
  refine awake_wf h ?_ h₀
  repeat' (first | (with_reducible assumption) | (with_reducible apply wf_ite) | (with_reducible apply enterReset_wf) | split | dsimp only)

theorem execMgmtWatchdogReset_wf {s s1 : State} (h : execMgmtWatchdogReset s = .next s1) (h₀ : Memory.wf s = true) : Memory.wf s1 = true := by
  unfold execMgmtWatchdogReset at h
  refine awake_wf h ?_ h₀
  repeat' (first | (with_reducible assumption) | (with_reducible apply wf_ite) | (with_reducible apply mgmtReset_wf) | split | dsimp only)

theorem execResetRelease_wf (x : Straps) {s s1 : State} (h : execResetRelease x s = .next s1) (h₀ : Memory.wf s = true) : Memory.wf s1 = true := by
  unfold execResetRelease at h
  cases h
  repeat' (first | (with_reducible assumption) | (with_reducible apply wf_ite) | (with_reducible apply resetRelease_wf) | split | dsimp only)

theorem execWipeComplete_only (us : Nat) (bad : List (Nat × Nat)) {s s1 : State} (h : execWipeComplete us bad s = .next s1) :
    Only [.regs, .conds, .free, .lanes, .mem, .bkg] s s1 := by
  unfold execWipeComplete at h
  refine awake_only h ?_
  repeat' (first | (with_reducible exact Only.refl _ _) | (with_reducible apply Only.ite) | (with_reducible apply wipeComplete_step (hm := by decide)) | split | dsimp only)

theorem execWipeComplete_wf (us : Nat) (bad : List (Nat × Nat)) {s s1 : State} (h : execWipeComplete us bad s = .next s1) (h₀ : Memory.wf s = true) : Memory.wf s1 = true := by
  unfold execWipeComplete at h
  refine awake_wf h ?_ h₀
  repeat' (first | (with_reducible assumption) | (with_reducible apply wf_ite) | (with_reducible apply wipeComplete_wf) | split | dsimp only)

theorem execScanComplete_only (id : BitVec 24) (sectors : List (List Byte)) (a b : List Byte) {s s1 : State} (h : execScanComplete id sectors a b s = .next s1) :
    Only [.regs, .conds, .free, .sys, .lanes, .mem, .bkg] s s1 := by
  unfold execScanComplete at h
  refine awake_only h ?_
  repeat' (first | (with_reducible exact Only.refl _ _) | (with_reducible apply Only.ite) | (with_reducible apply scanComplete_step (hm := by decide)) | split | dsimp only)

theorem execScanComplete_wf (id : BitVec 24) (sectors : List (List Byte)) (a b : List Byte) {s s1 : State} (h : execScanComplete id sectors a b s = .next s1) (h₀ : Memory.wf s = true) : Memory.wf s1 = true := by
  unfold execScanComplete at h
  refine awake_wf h ?_ h₀
  repeat' (first | (with_reducible assumption) | (with_reducible apply wf_ite) | (with_reducible apply scanComplete_wf) | split | dsimp only)

theorem execCandidateLoadEnd_wf (bytes : List Byte) {s s1 : State} (h : execCandidateLoadEnd bytes s = .next s1) (h₀ : Memory.wf s = true) : Memory.wf s1 = true := by
  unfold execCandidateLoadEnd at h
  refine awake_wf h ?_ h₀
  repeat' (first | (with_reducible assumption) | (with_reducible apply wf_ite) | (with_reducible apply candidateLoadEnd_wf) | split | dsimp only)

theorem execFwTimeout_only {s s1 : State} (h : execFwTimeout s = .next s1) :
    Only [.regs, .sys] s s1 := by
  unfold execFwTimeout at h
  refine awake_only h ?_
  repeat' (first | (with_reducible exact Only.refl _ _) | (with_reducible apply Only.ite) | (with_reducible apply fwTimeout_step (hm := by decide)) | split | dsimp only)

theorem execFwTimeout_wf {s s1 : State} (h : execFwTimeout s = .next s1) (h₀ : Memory.wf s = true) : Memory.wf s1 = true := by
  unfold execFwTimeout at h
  refine awake_wf h ?_ h₀
  repeat' (first | (with_reducible assumption) | (with_reducible apply wf_ite) | (with_reducible apply fwTimeout_wf) | split | dsimp only)

theorem execRelStart_only (c : Chan) {s s1 : State} (h : execRelStart c s = .next s1) :
    Only [.regs, .sys, .hst] s s1 := by
  unfold execRelStart at h
  refine awake_only h ?_
  repeat' (first | (with_reducible exact Only.refl _ _) | (with_reducible apply Only.ite) | (with_reducible apply Only.fieldAt (hf := fun _ => ?_) (hm := by decide)) | (with_reducible apply relStart_step (hm := by decide)) | split | dsimp only)

theorem execRelStart_wf (c : Chan) {s s1 : State} (h : execRelStart c s = .next s1) (h₀ : Memory.wf s = true) : Memory.wf s1 = true := by
  unfold execRelStart at h
  refine awake_wf h ?_ h₀
  repeat' (first | (with_reducible assumption) | (with_reducible apply wf_ite) | (with_reducible apply fieldAt_wf (hf := fun _ _ => ?_)) | (with_reducible apply relStart_wf) | split | dsimp only)

theorem execLifecycleRequest_only (path : Path) (v : Word) {s s1 : State} (h : execLifecycleRequest path v s = .next s1) :
    Only [.regs, .sys, .bkg, .hst] s s1 := by
  unfold execLifecycleRequest at h
  refine awake_only h ?_
  repeat' (first | (with_reducible exact Only.refl _ _) | (with_reducible apply Only.ite) | (with_reducible apply Only.fieldAt (hf := fun _ => ?_) (hm := by decide)) | (with_reducible apply lcRequest_step (hm := by decide)) | split | dsimp only)

theorem execLifecycleRequest_wf (path : Path) (v : Word) {s s1 : State} (h : execLifecycleRequest path v s = .next s1) (h₀ : Memory.wf s = true) : Memory.wf s1 = true := by
  unfold execLifecycleRequest at h
  refine awake_wf h ?_ h₀
  repeat' (first | (with_reducible assumption) | (with_reducible apply wf_ite) | (with_reducible apply fieldAt_wf (hf := fun _ _ => ?_)) | (with_reducible apply lcRequest_wf) | split | dsimp only)

theorem execFuseBlowDone_wf (ok : Bool) {s s1 : State} (h : execFuseBlowDone ok s = .next s1) (h₀ : Memory.wf s = true) : Memory.wf s1 = true := by
  unfold execFuseBlowDone at h
  refine awake_wf h ?_ h₀
  repeat' (first | (with_reducible assumption) | (with_reducible apply wf_ite) | (with_reducible apply fuseBlowDone_wf) | split | dsimp only)

theorem execCredentialPresent_only (bytes : List Byte) {s s1 : State} (h : execCredentialPresent bytes s = .next s1) :
    Only [.regs, .sys] s s1 := by
  unfold execCredentialPresent at h
  refine awake_only h ?_
  repeat' (first | (with_reducible exact Only.refl _ _) | (with_reducible apply Only.ite) | (with_reducible apply credential_step (hm := by decide)) | split | dsimp only)

theorem execCredentialPresent_wf (bytes : List Byte) {s s1 : State} (h : execCredentialPresent bytes s = .next s1) (h₀ : Memory.wf s = true) : Memory.wf s1 = true := by
  unfold execCredentialPresent at h
  refine awake_wf h ?_ h₀
  repeat' (first | (with_reducible assumption) | (with_reducible apply wf_ite) | (with_reducible apply credential_wf) | split | dsimp only)

theorem execFuseProgram_only (what : FuseWrite) {s s1 : State} (h : execFuseProgram what s = .next s1) :
    Only [.regs, .sys] s s1 := by
  unfold execFuseProgram at h
  refine awake_only h ?_
  repeat' (first | (with_reducible exact Only.refl _ _) | (with_reducible apply Only.ite) | (with_reducible apply fuseProgram_step (hm := by decide)) | split | dsimp only)

theorem execFuseProgram_wf (what : FuseWrite) {s s1 : State} (h : execFuseProgram what s = .next s1) (h₀ : Memory.wf s = true) : Memory.wf s1 = true := by
  unfold execFuseProgram at h
  refine awake_wf h ?_ h₀
  repeat' (first | (with_reducible assumption) | (with_reducible apply wf_ite) | (with_reducible apply fuseProgram_wf) | split | dsimp only)

theorem execDebugRelease_only {s s1 : State} (h : execDebugRelease s = .next s1) :
    Only [.regs, .conds, .sys, .ain, .mb, .safe, .vent] s s1 := by
  unfold execDebugRelease at h
  refine awake_only h ?_
  repeat' (first | (with_reducible exact Only.refl _ _) | (with_reducible apply Only.ite) | (with_reducible apply debugRelease_step (hm := by decide)) | split | dsimp only)

theorem execDebugRelease_wf {s s1 : State} (h : execDebugRelease s = .next s1) (h₀ : Memory.wf s = true) : Memory.wf s1 = true := by
  unfold execDebugRelease at h
  refine awake_wf h ?_ h₀
  repeat' (first | (with_reducible assumption) | (with_reducible apply wf_ite) | (with_reducible apply debugRelease_wf) | split | dsimp only)

theorem execBoundaryScanLoad_only {s s1 : State} (h : execBoundaryScanLoad s = .next s1) :
    Only [.regs, .sys, .safe, .pins] s s1 := by
  unfold execBoundaryScanLoad at h
  refine awake_only h ?_
  repeat' (first | (with_reducible exact Only.refl _ _) | (with_reducible apply Only.ite) | (with_reducible apply boundaryScanLoad_step (hm := by decide)) | split | dsimp only)

theorem execBoundaryScanLoad_wf {s s1 : State} (h : execBoundaryScanLoad s = .next s1) (h₀ : Memory.wf s = true) : Memory.wf s1 = true := by
  unfold execBoundaryScanLoad at h
  refine awake_wf h ?_ h₀
  repeat' (first | (with_reducible assumption) | (with_reducible apply wf_ite) | (with_reducible apply boundaryScanLoad_wf) | split | dsimp only)

theorem execMediaPllLock_only {s s1 : State} (h : execMediaPllLock s = .next s1) :
    Only [.regs, .sys, .time, .safe] s s1 := by
  unfold execMediaPllLock at h
  refine awake_only h ?_
  repeat' (first | (with_reducible exact Only.refl _ _) | (with_reducible apply Only.ite) | (with_reducible apply mediaLock_step (hm := by decide)) | split | dsimp only)

theorem execMediaPllLock_wf {s s1 : State} (h : execMediaPllLock s = .next s1) (h₀ : Memory.wf s = true) : Memory.wf s1 = true := by
  unfold execMediaPllLock at h
  refine awake_wf h ?_ h₀
  repeat' (first | (with_reducible assumption) | (with_reducible apply wf_ite) | (with_reducible apply mediaLock_wf) | split | dsimp only)

theorem execPllLock_only (p : Pll) {s s1 : State} (h : execPllLock p s = .next s1) :
    Only [.regs, .conds, .gates, .twin] s s1 := by
  unfold execPllLock at h
  refine awake_only h ?_
  repeat' (first | (with_reducible exact Only.refl _ _) | (with_reducible apply Only.ite) | (with_reducible apply pllLock_step (hm := by decide)) | (with_reducible apply twinPllLock_step (hm := by decide)) | split | dsimp only)

theorem execPllLock_wf (p : Pll) {s s1 : State} (h : execPllLock p s = .next s1) (h₀ : Memory.wf s = true) : Memory.wf s1 = true := by
  unfold execPllLock at h
  refine awake_wf h ?_ h₀
  repeat' (first | (with_reducible assumption) | (with_reducible apply wf_ite) | (with_reducible apply pllLock_wf) | (with_reducible apply twinPllLock_wf) | split | dsimp only)

theorem execPllUnlock_only (p : Pll) {s s1 : State} (h : execPllUnlock p s = .next s1) :
    Only [.regs, .conds, .twin] s s1 := by
  unfold execPllUnlock at h
  refine awake_only h ?_
  repeat' (first | (with_reducible exact Only.refl _ _) | (with_reducible apply Only.ite) | (with_reducible apply twinClockLost_step (hm := by decide)) | (with_reducible apply pllUnlock_step (hm := by decide)) | split | dsimp only)

theorem execPllUnlock_wf (p : Pll) {s s1 : State} (h : execPllUnlock p s = .next s1) (h₀ : Memory.wf s = true) : Memory.wf s1 = true := by
  unfold execPllUnlock at h
  refine awake_wf h ?_ h₀
  repeat' (first | (with_reducible assumption) | (with_reducible apply wf_ite) | (with_reducible apply twinClockLost_wf) | (with_reducible apply pllUnlock_wf) | split | dsimp only)

theorem execSafeWatchdogTrip_only {s s1 : State} (h : execSafeWatchdogTrip s = .next s1) :
    Only [.regs, .legs, .safe, .pins] s s1 := by
  unfold execSafeWatchdogTrip at h
  refine awake_only h ?_
  repeat' (first | (with_reducible exact Only.refl _ _) | (with_reducible apply Only.ite) | (with_reducible apply safeWatchdog_step (hm := by decide)) | split | dsimp only)

theorem execSafeWatchdogTrip_wf {s s1 : State} (h : execSafeWatchdogTrip s = .next s1) (h₀ : Memory.wf s = true) : Memory.wf s1 = true := by
  unfold execSafeWatchdogTrip at h
  refine awake_wf h ?_ h₀
  repeat' (first | (with_reducible assumption) | (with_reducible apply wf_ite) | (with_reducible apply safeWatchdog_wf) | split | dsimp only)

theorem execClockMeasure_only (count : Nat) {s s1 : State} (h : execClockMeasure count s = .next s1) :
    Only [.regs, .sys] s s1 := by
  unfold execClockMeasure at h
  refine awake_only h ?_
  repeat' (first | (with_reducible exact Only.refl _ _) | (with_reducible apply Only.ite) | (with_reducible apply clockMeasure_step (hm := by decide)) | split | dsimp only)

theorem execClockMeasure_wf (count : Nat) {s s1 : State} (h : execClockMeasure count s = .next s1) (h₀ : Memory.wf s = true) : Memory.wf s1 = true := by
  unfold execClockMeasure at h
  refine awake_wf h ?_ h₀
  repeat' (first | (with_reducible assumption) | (with_reducible apply wf_ite) | (with_reducible apply clockMeasure_wf) | split | dsimp only)

theorem execRefSlewStep_only {s s1 : State} (h : execRefSlewStep s = .next s1) :
    Only [.regs] s s1 := by
  unfold execRefSlewStep at h
  refine awake_only h ?_
  repeat' (first | (with_reducible exact Only.refl _ _) | (with_reducible apply Only.ite) | (with_reducible apply refSlew_step (hm := by decide)) | split | dsimp only)

theorem execRefSlewStep_wf {s s1 : State} (h : execRefSlewStep s = .next s1) (h₀ : Memory.wf s = true) : Memory.wf s1 = true := by
  unfold execRefSlewStep at h
  refine awake_wf h ?_ h₀
  repeat' (first | (with_reducible assumption) | (with_reducible apply wf_ite) | (with_reducible apply refSlew_wf) | split | dsimp only)

theorem execRingFrameStart_wf {s s1 : State} (h : execRingFrameStart s = .next s1) (h₀ : Memory.wf s = true) : Memory.wf s1 = true := by
  unfold execRingFrameStart at h
  refine awake_wf h ?_ h₀
  repeat' (first | (with_reducible assumption) | (with_reducible apply wf_ite) | (with_reducible apply frameStart_wf) | split | dsimp only)

theorem execRingFrameRx_wf (f : RingFrame) {s s1 : State} (h : execRingFrameRx f s = .next s1) (h₀ : Memory.wf s = true) : Memory.wf s1 = true := by
  unfold execRingFrameRx at h
  refine awake_wf h ?_ h₀
  repeat' (first | (with_reducible assumption) | (with_reducible apply wf_ite) | (with_reducible apply frameRx_wf) | split | dsimp only)

theorem execRingFrameReturn_only (f : RingFrame) (up : Bool) {s s1 : State} (h : execRingFrameReturn f up s = .next s1) :
    Only [.regs, .conds, .str] s s1 := by
  unfold execRingFrameReturn at h
  refine awake_only h ?_
  repeat' (first | (with_reducible exact Only.refl _ _) | (with_reducible apply Only.ite) | (with_reducible apply frameReturn_step (hm := by decide)) | split | dsimp only)

theorem execRingFrameReturn_wf (f : RingFrame) (up : Bool) {s s1 : State} (h : execRingFrameReturn f up s = .next s1) (h₀ : Memory.wf s = true) : Memory.wf s1 = true := by
  unfold execRingFrameReturn at h
  refine awake_wf h ?_ h₀
  repeat' (first | (with_reducible assumption) | (with_reducible apply wf_ite) | (with_reducible apply frameReturn_wf) | split | dsimp only)

theorem execRingLostTimeout_only {s s1 : State} (h : execRingLostTimeout s = .next s1) :
    Only [.regs, .conds] s s1 := by
  unfold execRingLostTimeout at h
  refine awake_only h ?_
  repeat' (first | (with_reducible exact Only.refl _ _) | (with_reducible apply Only.ite) | (with_reducible apply ringLostTimeout_step (hm := by decide)) | split | dsimp only)

theorem execRingLostTimeout_wf {s s1 : State} (h : execRingLostTimeout s = .next s1) (h₀ : Memory.wf s = true) : Memory.wf s1 = true := by
  unfold execRingLostTimeout at h
  refine awake_wf h ?_ h₀
  repeat' (first | (with_reducible assumption) | (with_reducible apply wf_ite) | (with_reducible apply ringLostTimeout_wf) | split | dsimp only)

theorem execStrPortFail_only (up : Bool) (codes : Nat) (lost : Bool) {s s1 : State} (h : execStrPortFail up codes lost s = .next s1) :
    Only [.regs, .str] s s1 := by
  unfold execStrPortFail at h
  refine awake_only h ?_
  repeat' (first | (with_reducible exact Only.refl _ _) | (with_reducible apply Only.ite) | (with_reducible apply portFail_step (hm := by decide)) | split | dsimp only)

theorem execStrPortFail_wf (up : Bool) (codes : Nat) (lost : Bool) {s s1 : State} (h : execStrPortFail up codes lost s = .next s1) (h₀ : Memory.wf s = true) : Memory.wf s1 = true := by
  unfold execStrPortFail at h
  refine awake_wf h ?_ h₀
  repeat' (first | (with_reducible assumption) | (with_reducible apply wf_ite) | (with_reducible apply portFail_wf) | split | dsimp only)

theorem execStrPortGood_only (up : Bool) {s s1 : State} (h : execStrPortGood up s = .next s1) :
    Only [.regs, .str] s s1 := by
  unfold execStrPortGood at h
  refine awake_only h ?_
  repeat' (first | (with_reducible exact Only.refl _ _) | (with_reducible apply Only.ite) | (with_reducible apply portGood_step (hm := by decide)) | split | dsimp only)

theorem execStrPortGood_wf (up : Bool) {s s1 : State} (h : execStrPortGood up s = .next s1) (h₀ : Memory.wf s = true) : Memory.wf s1 = true := by
  unfold execStrPortGood at h
  refine awake_wf h ?_ h₀
  repeat' (first | (with_reducible assumption) | (with_reducible apply wf_ite) | (with_reducible apply portGood_wf) | split | dsimp only)

theorem execAddressTimeout_only (n : Fin 32) {s s1 : State} (h : execAddressTimeout n s = .next s1) :
    Only [.regs, .str] s s1 := by
  unfold execAddressTimeout at h
  refine awake_only h ?_
  repeat' (first | (with_reducible exact Only.refl _ _) | (with_reducible apply Only.ite) | (with_reducible apply addressTimeout_step (hm := by decide)) | split | dsimp only)

theorem execAddressTimeout_wf (n : Fin 32) {s s1 : State} (h : execAddressTimeout n s = .next s1) (h₀ : Memory.wf s = true) : Memory.wf s1 = true := by
  unfold execAddressTimeout at h
  refine awake_wf h ?_ h₀
  repeat' (first | (with_reducible assumption) | (with_reducible apply wf_ite) | (with_reducible apply addressTimeout_wf) | split | dsimp only)

theorem execForwardingStart_only {s s1 : State} (h : execForwardingStart s = .next s1) :
    Only [.regs, .str] s s1 := by
  unfold execForwardingStart at h
  refine awake_only h ?_
  repeat' (first | (with_reducible exact Only.refl _ _) | (with_reducible apply Only.ite) | (with_reducible apply forwardingStart_step (hm := by decide)) | split | dsimp only)

theorem execForwardingStart_wf {s s1 : State} (h : execForwardingStart s = .next s1) (h₀ : Memory.wf s = true) : Memory.wf s1 = true := by
  unfold execForwardingStart at h
  refine awake_wf h ?_ h₀
  repeat' (first | (with_reducible assumption) | (with_reducible apply wf_ite) | (with_reducible apply forwardingStart_wf) | split | dsimp only)

theorem execStrRegw_wf (cseq : Word16) (p : List Byte) {s s1 : State} (h : execStrRegw cseq p s = .next s1) (h₀ : Memory.wf s = true) : Memory.wf s1 = true := by
  unfold execStrRegw at h
  refine awake_wf h ?_ h₀
  repeat' (first | (with_reducible assumption) | (with_reducible apply wf_ite) | (with_reducible apply onceOnly_wf (hf := fun _ _ => ?_)) | (with_reducible apply applyRegw_wf) | split | dsimp only)

theorem execStrRingw_only (cseq : Word16) (p : List Byte) {s s1 : State} (h : execStrRingw cseq p s = .next s1) :
    Only [.regs, .banks, .mem, .rings, .str] s s1 := by
  unfold execStrRingw at h
  refine awake_only h ?_
  repeat' (first | (with_reducible exact Only.refl _ _) | (with_reducible apply Only.ite) | (with_reducible apply Only.onceOnly (hf := fun _ => ?_)) | (with_reducible apply applyRingw_step (hm := by decide)) | split | dsimp only)

theorem execStrRingw_wf (cseq : Word16) (p : List Byte) {s s1 : State} (h : execStrRingw cseq p s = .next s1) (h₀ : Memory.wf s = true) : Memory.wf s1 = true := by
  unfold execStrRingw at h
  refine awake_wf h ?_ h₀
  repeat' (first | (with_reducible assumption) | (with_reducible apply wf_ite) | (with_reducible apply onceOnly_wf (hf := fun _ _ => ?_)) | (with_reducible apply applyRingw_wf) | split | dsimp only)

theorem execStrCommit_wf (cseq : Word16) (p : List Byte) {s s1 : State} (h : execStrCommit cseq p s = .next s1) (h₀ : Memory.wf s = true) : Memory.wf s1 = true := by
  unfold execStrCommit at h
  refine awake_wf h ?_ h₀
  repeat' (first | (with_reducible assumption) | (with_reducible apply wf_ite) | (with_reducible apply onceOnly_wf (hf := fun _ _ => ?_)) | (with_reducible apply applyCommit_wf) | split | dsimp only)

theorem execStrAbort_wf (cseq : Word16) {s s1 : State} (h : execStrAbort cseq s = .next s1) (h₀ : Memory.wf s = true) : Memory.wf s1 = true := by
  unfold execStrAbort at h
  refine awake_wf h ?_ h₀
  repeat' (first | (with_reducible assumption) | (with_reducible apply wf_ite) | (with_reducible apply onceOnly_wf (hf := fun _ _ => ?_)) | (with_reducible apply applyAbort_wf) | split | dsimp only)

theorem execUnfold_only (cseq : Word16) (p : List Byte) {s s1 : State} (h : execUnfold cseq p s = .next s1) :
    Only [.str] s s1 := by
  unfold execUnfold at h
  refine awake_only h ?_
  repeat' (first | (with_reducible exact Only.refl _ _) | (with_reducible apply Only.ite) | (with_reducible apply Only.onceOnly (hf := fun _ => ?_)) | (with_reducible apply applyUnfold_step (hm := by decide)) | split | dsimp only)

theorem execUnfold_wf (cseq : Word16) (p : List Byte) {s s1 : State} (h : execUnfold cseq p s = .next s1) (h₀ : Memory.wf s = true) : Memory.wf s1 = true := by
  unfold execUnfold at h
  refine awake_wf h ?_ h₀
  repeat' (first | (with_reducible assumption) | (with_reducible apply wf_ite) | (with_reducible apply onceOnly_wf (hf := fun _ _ => ?_)) | (with_reducible apply applyUnfold_wf) | split | dsimp only)

theorem execAssign_only (cseq : Word16) (p : List Byte) {s s1 : State} (h : execAssign cseq p s = .next s1) :
    Only [.regs, .str] s s1 := by
  unfold execAssign at h
  refine awake_only h ?_
  repeat' (first | (with_reducible exact Only.refl _ _) | (with_reducible apply Only.ite) | (with_reducible apply Only.onceOnly (hf := fun _ => ?_)) | (with_reducible apply applyAssign_step (hm := by decide)) | split | dsimp only)

theorem execAssign_wf (cseq : Word16) (p : List Byte) {s s1 : State} (h : execAssign cseq p s = .next s1) (h₀ : Memory.wf s = true) : Memory.wf s1 = true := by
  unfold execAssign at h
  refine awake_wf h ?_ h₀
  repeat' (first | (with_reducible assumption) | (with_reducible apply wf_ite) | (with_reducible apply onceOnly_wf (hf := fun _ _ => ?_)) | (with_reducible apply applyAssign_wf) | split | dsimp only)

theorem execCmdQueueGo_only (v : Word) {s s1 : State} (h : execCmdQueueGo v s = .next s1) :
    Only [.regs, .str, .hst] s s1 := by
  unfold execCmdQueueGo at h
  refine awake_only h ?_
  repeat' (first | (with_reducible exact Only.refl _ _) | (with_reducible apply Only.ite) | (with_reducible apply Only.fieldAt (hf := fun _ => ?_) (hm := by decide)) | (with_reducible apply writeCqctrl_step (hm := by decide)) | split | dsimp only)

theorem execCmdQueueGo_wf (v : Word) {s s1 : State} (h : execCmdQueueGo v s = .next s1) (h₀ : Memory.wf s = true) : Memory.wf s1 = true := by
  unfold execCmdQueueGo at h
  refine awake_wf h ?_ h₀
  repeat' (first | (with_reducible assumption) | (with_reducible apply wf_ite) | (with_reducible apply fieldAt_wf (hf := fun _ _ => ?_)) | (with_reducible apply writeCqctrl_wf) | split | dsimp only)

theorem execNodeSlotRead_only (n : Fin 32) {s s1 : State} (h : execNodeSlotRead n s = .next s1) :
    Only [.rdata, .vent] s s1 := by
  unfold execNodeSlotRead at h
  refine awake_only h ?_
  repeat' (first | (with_reducible exact Only.refl _ _) | (with_reducible apply Only.ite) | (with_reducible apply Only.readAt (hf := fun _ => ?_) (hm := by decide)) | (with_reducible apply nodeSlotRead_step (hm := by decide)) | split | dsimp only)

theorem execNodeSlotRead_wf (n : Fin 32) {s s1 : State} (h : execNodeSlotRead n s = .next s1) (h₀ : Memory.wf s = true) : Memory.wf s1 = true := by
  unfold execNodeSlotRead at h
  refine awake_wf h ?_ h₀
  repeat' (first | (with_reducible assumption) | (with_reducible apply wf_ite) | (with_reducible apply readAt_wf (hf := fun _ _ => ?_)) | (with_reducible apply nodeSlotRead_wf) | split | dsimp only)

theorem execCmdResultRead_only {s s1 : State} (h : execCmdResultRead s = .next s1) :
    Only [.rdata, .vent] s s1 := by
  unfold execCmdResultRead at h
  refine awake_only h ?_
  repeat' (first | (with_reducible exact Only.refl _ _) | (with_reducible apply Only.ite) | (with_reducible apply Only.readAt (hf := fun _ => ?_) (hm := by decide)) | (with_reducible apply cmdResultRead_step (hm := by decide)) | split | dsimp only)

theorem execCmdResultRead_wf {s s1 : State} (h : execCmdResultRead s = .next s1) (h₀ : Memory.wf s = true) : Memory.wf s1 = true := by
  unfold execCmdResultRead at h
  refine awake_wf h ?_ h₀
  repeat' (first | (with_reducible assumption) | (with_reducible apply wf_ite) | (with_reducible apply readAt_wf (hf := fun _ _ => ?_)) | (with_reducible apply cmdResultRead_wf) | split | dsimp only)

theorem execHbInEdge_only (gapUs : Nat) {s s1 : State} (h : execHbInEdge gapUs s = .next s1) :
    Only [.regs, .conds, .twin] s s1 := by
  unfold execHbInEdge at h
  refine awake_only h ?_
  repeat' (first | (with_reducible exact Only.refl _ _) | (with_reducible apply Only.ite) | (with_reducible apply hbEdge_step (hm := by decide)) | split | dsimp only)

theorem execHbInEdge_wf (gapUs : Nat) {s s1 : State} (h : execHbInEdge gapUs s = .next s1) (h₀ : Memory.wf s = true) : Memory.wf s1 = true := by
  unfold execHbInEdge at h
  refine awake_wf h ?_ h₀
  repeat' (first | (with_reducible assumption) | (with_reducible apply wf_ite) | (with_reducible apply hbEdge_wf) | split | dsimp only)

theorem execHbTimeout_only {s s1 : State} (h : execHbTimeout s = .next s1) :
    Only [.regs, .conds, .twin] s s1 := by
  unfold execHbTimeout at h
  refine awake_only h ?_
  repeat' (first | (with_reducible exact Only.refl _ _) | (with_reducible apply Only.ite) | (with_reducible apply hbTimeout_step (hm := by decide)) | split | dsimp only)

theorem execHbTimeout_wf {s s1 : State} (h : execHbTimeout s = .next s1) (h₀ : Memory.wf s = true) : Memory.wf s1 = true := by
  unfold execHbTimeout at h
  refine awake_wf h ?_ h₀
  repeat' (first | (with_reducible assumption) | (with_reducible apply wf_ite) | (with_reducible apply hbTimeout_wf) | split | dsimp only)

theorem execMsgTimeout_only {s s1 : State} (h : execMsgTimeout s = .next s1) :
    Only [.regs, .conds, .gates, .twin] s s1 := by
  unfold execMsgTimeout at h
  refine awake_only h ?_
  repeat' (first | (with_reducible exact Only.refl _ _) | (with_reducible apply Only.ite) | (with_reducible apply msgTimeout_step (hm := by decide)) | split | dsimp only)

theorem execMsgTimeout_wf {s s1 : State} (h : execMsgTimeout s = .next s1) (h₀ : Memory.wf s = true) : Memory.wf s1 = true := by
  unfold execMsgTimeout at h
  refine awake_wf h ?_ h₀
  repeat' (first | (with_reducible assumption) | (with_reducible apply wf_ite) | (with_reducible apply msgTimeout_wf) | split | dsimp only)

theorem execMarkRx_only (rx : LinkRx) (err : Int) {s s1 : State} (h : execMarkRx rx err s = .next s1) :
    Only [.regs, .gates, .free, .twin] s s1 := by
  unfold execMarkRx at h
  refine awake_only h ?_
  repeat' (first | (with_reducible exact Only.refl _ _) | (with_reducible apply Only.ite) | (with_reducible apply Only.frameUsed (hf := fun _ => ?_) (hm := by decide)) | (with_reducible apply markRx_step (hm := by decide)) | split | dsimp only)

theorem execMarkRx_wf (rx : LinkRx) (err : Int) {s s1 : State} (h : execMarkRx rx err s = .next s1) (h₀ : Memory.wf s = true) : Memory.wf s1 = true := by
  unfold execMarkRx at h
  refine awake_wf h ?_ h₀
  repeat' (first | (with_reducible assumption) | (with_reducible apply wf_ite) | (with_reducible apply frameUsed_wf (hf := fun _ _ => ?_)) | (with_reducible apply markRx_wf) | split | dsimp only)

theorem execHbmRx_only (rx : LinkRx) (w : Quad) {s s1 : State} (h : execHbmRx rx w s = .next s1) :
    Only [.regs, .conds, .free, .pins, .twin] s s1 := by
  unfold execHbmRx at h
  refine awake_only h ?_
  repeat' (first | (with_reducible exact Only.refl _ _) | (with_reducible apply Only.ite) | (with_reducible apply Only.frameUsed (hf := fun _ => ?_) (hm := by decide)) | (with_reducible apply hbmRx_step (hm := by decide)) | split | dsimp only)

theorem execHbmRx_wf (rx : LinkRx) (w : Quad) {s s1 : State} (h : execHbmRx rx w s = .next s1) (h₀ : Memory.wf s = true) : Memory.wf s1 = true := by
  unfold execHbmRx at h
  refine awake_wf h ?_ h₀
  repeat' (first | (with_reducible assumption) | (with_reducible apply wf_ite) | (with_reducible apply frameUsed_wf (hf := fun _ _ => ?_)) | (with_reducible apply hbmRx_wf) | split | dsimp only)

theorem execSnapRx_only (rx : LinkRx) (x : Snap) (late : Bool) {s s1 : State} (h : execSnapRx rx x late s = .next s1) :
    Only [.regs, .free, .twin] s s1 := by
  unfold execSnapRx at h
  refine awake_only h ?_
  repeat' (first | (with_reducible exact Only.refl _ _) | (with_reducible apply Only.ite) | (with_reducible apply snapRx_step (hm := by decide)) | split | dsimp only)

theorem execSnapRx_wf (rx : LinkRx) (x : Snap) (late : Bool) {s s1 : State} (h : execSnapRx rx x late s = .next s1) (h₀ : Memory.wf s = true) : Memory.wf s1 = true := by
  unfold execSnapRx at h
  refine awake_wf h ?_ h₀
  repeat' (first | (with_reducible assumption) | (with_reducible apply wf_ite) | (with_reducible apply snapRx_wf) | split | dsimp only)

theorem execRsyncRx_only (rx : LinkRx) (x : Resync) {s s1 : State} (h : execRsyncRx rx x s = .next s1) :
    Only [.regs, .banks, .free, .scn, .vent, .twin] s s1 := by
  unfold execRsyncRx at h
  refine awake_only h ?_
  repeat' (first | (with_reducible exact Only.refl _ _) | (with_reducible apply Only.ite) | (with_reducible apply rsyncRx_step (hm := by decide)) | split | dsimp only)

theorem execRsyncRx_wf (rx : LinkRx) (x : Resync) {s s1 : State} (h : execRsyncRx rx x s = .next s1) (h₀ : Memory.wf s = true) : Memory.wf s1 = true := by
  unfold execRsyncRx at h
  refine awake_wf h ?_ h₀
  repeat' (first | (with_reducible assumption) | (with_reducible apply wf_ite) | (with_reducible apply rsyncRx_wf) | split | dsimp only)

theorem execRsreqRx_only (rx : LinkRx) {s s1 : State} (h : execRsreqRx rx s = .next s1) :
    Only [.regs, .free, .twin] s s1 := by
  unfold execRsreqRx at h
  refine awake_only h ?_
  repeat' (first | (with_reducible exact Only.refl _ _) | (with_reducible apply Only.ite) | (with_reducible apply Only.frameUsed (hf := fun _ => ?_) (hm := by decide)) | (with_reducible apply rsreqRx_step (hm := by decide)) | split | dsimp only)

theorem execRsreqRx_wf (rx : LinkRx) {s s1 : State} (h : execRsreqRx rx s = .next s1) (h₀ : Memory.wf s = true) : Memory.wf s1 = true := by
  unfold execRsreqRx at h
  refine awake_wf h ?_ h₀
  repeat' (first | (with_reducible assumption) | (with_reducible apply wf_ite) | (with_reducible apply frameUsed_wf (hf := fun _ _ => ?_)) | (with_reducible apply rsreqRx_wf) | split | dsimp only)

theorem execIdentRx_only (rx : LinkRx) (x : Ident) {s s1 : State} (h : execIdentRx rx x s = .next s1) :
    Only [.regs, .conds, .gates, .free, .pins, .twin] s s1 := by
  unfold execIdentRx at h
  refine awake_only h ?_
  repeat' (first | (with_reducible exact Only.refl _ _) | (with_reducible apply Only.ite) | (with_reducible apply Only.frameUsed (hf := fun _ => ?_) (hm := by decide)) | (with_reducible apply identRx_step (hm := by decide)) | split | dsimp only)

theorem execIdentRx_wf (rx : LinkRx) (x : Ident) {s s1 : State} (h : execIdentRx rx x s = .next s1) (h₀ : Memory.wf s = true) : Memory.wf s1 = true := by
  unfold execIdentRx at h
  refine awake_wf h ?_ h₀
  repeat' (first | (with_reducible assumption) | (with_reducible apply wf_ite) | (with_reducible apply frameUsed_wf (hf := fun _ _ => ?_)) | (with_reducible apply identRx_wf) | split | dsimp only)

theorem execRefuseRx_only (rx : LinkRx) {s s1 : State} (h : execRefuseRx rx s = .next s1) :
    Only [.regs, .conds, .gates, .free, .twin] s s1 := by
  unfold execRefuseRx at h
  refine awake_only h ?_
  repeat' (first | (with_reducible exact Only.refl _ _) | (with_reducible apply Only.ite) | (with_reducible apply Only.frameUsed (hf := fun _ => ?_) (hm := by decide)) | (with_reducible apply refuseRx_step (hm := by decide)) | split | dsimp only)

theorem execRefuseRx_wf (rx : LinkRx) {s s1 : State} (h : execRefuseRx rx s = .next s1) (h₀ : Memory.wf s = true) : Memory.wf s1 = true := by
  unfold execRefuseRx at h
  refine awake_wf h ?_ h₀
  repeat' (first | (with_reducible assumption) | (with_reducible apply wf_ite) | (with_reducible apply frameUsed_wf (hf := fun _ _ => ?_)) | (with_reducible apply refuseRx_wf) | split | dsimp only)

theorem execIdentRepeat_only {s s1 : State} (h : execIdentRepeat s = .next s1) :
    Only [.regs, .gates] s s1 := by
  unfold execIdentRepeat at h
  refine awake_only h ?_
  repeat' (first | (with_reducible exact Only.refl _ _) | (with_reducible apply Only.ite) | (with_reducible apply identRepeat_step (hm := by decide)) | split | dsimp only)

theorem execIdentRepeat_wf {s s1 : State} (h : execIdentRepeat s = .next s1) (h₀ : Memory.wf s = true) : Memory.wf s1 = true := by
  unfold execIdentRepeat at h
  refine awake_wf h ?_ h₀
  repeat' (first | (with_reducible assumption) | (with_reducible apply wf_ite) | (with_reducible apply identRepeat_wf) | split | dsimp only)

theorem execTwinLaneFail_only (n : Fin 2) (codes : Nat) {s s1 : State} (h : execTwinLaneFail n codes s = .next s1) :
    Only [.regs, .conds, .twin] s s1 := by
  unfold execTwinLaneFail at h
  refine awake_only h ?_
  repeat' (first | (with_reducible exact Only.refl _ _) | (with_reducible apply Only.ite) | (with_reducible apply laneFails_step (hm := by decide)) | split | dsimp only)

theorem execTwinLaneFail_wf (n : Fin 2) (codes : Nat) {s s1 : State} (h : execTwinLaneFail n codes s = .next s1) (h₀ : Memory.wf s = true) : Memory.wf s1 = true := by
  unfold execTwinLaneFail at h
  refine awake_wf h ?_ h₀
  repeat' (first | (with_reducible assumption) | (with_reducible apply wf_ite) | (with_reducible apply laneFails_wf) | split | dsimp only)

theorem execLinkRetrain_only {s s1 : State} (h : execLinkRetrain s = .next s1) :
    Only [.regs, .gates, .twin] s s1 := by
  unfold execLinkRetrain at h
  refine awake_only h ?_
  repeat' (first | (with_reducible exact Only.refl _ _) | (with_reducible apply Only.ite) | (with_reducible apply linkRetrain_step (hm := by decide)) | split | dsimp only)

theorem execLinkRetrain_wf {s s1 : State} (h : execLinkRetrain s = .next s1) (h₀ : Memory.wf s = true) : Memory.wf s1 = true := by
  unfold execLinkRetrain at h
  refine awake_wf h ?_ h₀
  repeat' (first | (with_reducible assumption) | (with_reducible apply wf_ite) | (with_reducible apply linkRetrain_wf) | split | dsimp only)

theorem execRetrain_only {s s1 : State} (h : execRetrain s = .next s1) :
    Only [.regs, .gates, .twin, .hst] s s1 := by
  unfold execRetrain at h
  refine awake_only h ?_
  repeat' (first | (with_reducible exact Only.refl _ _) | (with_reducible apply Only.ite) | (with_reducible apply Only.fieldAt (hf := fun _ => ?_) (hm := by decide)) | (with_reducible apply retrain_step (hm := by decide)) | split | dsimp only)

theorem execRetrain_wf {s s1 : State} (h : execRetrain s = .next s1) (h₀ : Memory.wf s = true) : Memory.wf s1 = true := by
  unfold execRetrain at h
  refine awake_wf h ?_ h₀
  repeat' (first | (with_reducible assumption) | (with_reducible apply wf_ite) | (with_reducible apply fieldAt_wf (hf := fun _ _ => ?_)) | (with_reducible apply retrain_wf) | split | dsimp only)

theorem execMarkerTimeout_only {s s1 : State} (h : execMarkerTimeout s = .next s1) :
    Only [.twin] s s1 := by
  unfold execMarkerTimeout at h
  refine awake_only h ?_
  repeat' (first | (with_reducible exact Only.refl _ _) | (with_reducible apply Only.ite) | (with_reducible apply markerTimeout_step (hm := by decide)) | split | dsimp only)

theorem execMarkerTimeout_wf {s s1 : State} (h : execMarkerTimeout s = .next s1) (h₀ : Memory.wf s = true) : Memory.wf s1 = true := by
  unfold execMarkerTimeout at h
  refine awake_wf h ?_ h₀
  repeat' (first | (with_reducible assumption) | (with_reducible apply wf_ite) | (with_reducible apply markerTimeout_wf) | split | dsimp only)

theorem execCfgDigest_only {s s1 : State} (h : execCfgDigest s = .next s1) :
    Only [.regs, .conds, .twin] s s1 := by
  unfold execCfgDigest at h
  refine awake_only h ?_
  repeat' (first | (with_reducible exact Only.refl _ _) | (with_reducible apply Only.ite) | (with_reducible apply digestNow_step (hm := by decide)) | split | dsimp only)

theorem execCfgDigest_wf {s s1 : State} (h : execCfgDigest s = .next s1) (h₀ : Memory.wf s = true) : Memory.wf s1 = true := by
  unfold execCfgDigest at h
  refine awake_wf h ?_ h₀
  repeat' (first | (with_reducible assumption) | (with_reducible apply wf_ite) | (with_reducible apply digestNow_wf) | split | dsimp only)

theorem execOwnNHigh_only {s s1 : State} (h : execOwnNHigh s = .next s1) :
    Only [.regs, .twin] s s1 := by
  unfold execOwnNHigh at h
  refine awake_only h ?_
  repeat' (first | (with_reducible exact Only.refl _ _) | (with_reducible apply Only.ite) | (with_reducible apply ownHigh_step (hm := by decide)) | split | dsimp only)

theorem execOwnNHigh_wf {s s1 : State} (h : execOwnNHigh s = .next s1) (h₀ : Memory.wf s = true) : Memory.wf s1 = true := by
  unfold execOwnNHigh at h
  refine awake_wf h ?_ h₀
  repeat' (first | (with_reducible assumption) | (with_reducible apply wf_ite) | (with_reducible apply ownHigh_wf) | split | dsimp only)

theorem execClaimCheck_only (high : Bool) {s s1 : State} (h : execClaimCheck high s = .next s1) :
    Only [.regs, .pins, .twin, .str] s s1 := by
  unfold execClaimCheck at h
  refine awake_only h ?_
  repeat' (first | (with_reducible exact Only.refl _ _) | (with_reducible apply Only.ite) | (with_reducible apply claimCheck_step (hm := by decide)) | split | dsimp only)

theorem execClaimCheck_wf (high : Bool) {s s1 : State} (h : execClaimCheck high s = .next s1) (h₀ : Memory.wf s = true) : Memory.wf s1 = true := by
  unfold execClaimCheck at h
  refine awake_wf h ?_ h₀
  repeat' (first | (with_reducible assumption) | (with_reducible apply wf_ite) | (with_reducible apply claimCheck_wf) | split | dsimp only)

theorem execOwnNLow_only {s s1 : State} (h : execOwnNLow s = .next s1) :
    Only [.twin] s s1 := by
  unfold execOwnNLow at h
  refine awake_only h ?_
  repeat' (first | (with_reducible exact Only.refl _ _) | (with_reducible apply Only.ite) | (with_reducible apply ownLow_step (hm := by decide)) | split | dsimp only)

theorem execOwnNLow_wf {s s1 : State} (h : execOwnNLow s = .next s1) (h₀ : Memory.wf s = true) : Memory.wf s1 = true := by
  unfold execOwnNLow at h
  refine awake_wf h ?_ h₀
  repeat' (first | (with_reducible assumption) | (with_reducible apply wf_ite) | (with_reducible apply ownLow_wf) | split | dsimp only)

theorem execHandover_only {s s1 : State} (h : execHandover s = .next s1) :
    Only [.regs, .twin, .hst] s s1 := by
  unfold execHandover at h
  refine awake_only h ?_
  repeat' (first | (with_reducible exact Only.refl _ _) | (with_reducible apply Only.ite) | (with_reducible apply Only.fieldAt (hf := fun _ => ?_) (hm := by decide)) | (with_reducible apply handover_step (hm := by decide)) | split | dsimp only)

theorem execHandover_wf {s s1 : State} (h : execHandover s = .next s1) (h₀ : Memory.wf s = true) : Memory.wf s1 = true := by
  unfold execHandover at h
  refine awake_wf h ?_ h₀
  repeat' (first | (with_reducible assumption) | (with_reducible apply wf_ite) | (with_reducible apply fieldAt_wf (hf := fun _ _ => ?_)) | (with_reducible apply handover_wf) | split | dsimp only)

theorem execHandoverHoldoffEnd_only {s s1 : State} (h : execHandoverHoldoffEnd s = .next s1) :
    Only [.twin] s s1 := by
  unfold execHandoverHoldoffEnd at h
  refine awake_only h ?_
  repeat' (first | (with_reducible exact Only.refl _ _) | (with_reducible apply Only.ite) | (with_reducible apply holdoffEnd_step (hm := by decide)) | split | dsimp only)

theorem execHandoverHoldoffEnd_wf {s s1 : State} (h : execHandoverHoldoffEnd s = .next s1) (h₀ : Memory.wf s = true) : Memory.wf s1 = true := by
  unfold execHandoverHoldoffEnd at h
  refine awake_wf h ?_ h₀
  repeat' (first | (with_reducible assumption) | (with_reducible apply wf_ite) | (with_reducible apply holdoffEnd_wf) | split | dsimp only)

theorem execResyncRequest_only {s s1 : State} (h : execResyncRequest s = .next s1) :
    Only [.regs, .gates, .twin, .hst] s s1 := by
  unfold execResyncRequest at h
  refine awake_only h ?_
  repeat' (first | (with_reducible exact Only.refl _ _) | (with_reducible apply Only.ite) | (with_reducible apply Only.fieldAt (hf := fun _ => ?_) (hm := by decide)) | (with_reducible apply resyncRequest_step (hm := by decide)) | split | dsimp only)

theorem execResyncRequest_wf {s s1 : State} (h : execResyncRequest s = .next s1) (h₀ : Memory.wf s = true) : Memory.wf s1 = true := by
  unfold execResyncRequest at h
  refine awake_wf h ?_ h₀
  repeat' (first | (with_reducible assumption) | (with_reducible apply wf_ite) | (with_reducible apply fieldAt_wf (hf := fun _ _ => ?_)) | (with_reducible apply resyncRequest_wf) | split | dsimp only)

theorem execSettleEnd_only {s s1 : State} (h : execSettleEnd s = .next s1) :
    Only [.regs, .twin] s s1 := by
  unfold execSettleEnd at h
  refine awake_only h ?_
  repeat' (first | (with_reducible exact Only.refl _ _) | (with_reducible apply Only.ite) | (with_reducible apply settleEnd_step (hm := by decide)) | split | dsimp only)

theorem execSettleEnd_wf {s s1 : State} (h : execSettleEnd s = .next s1) (h₀ : Memory.wf s = true) : Memory.wf s1 = true := by
  unfold execSettleEnd at h
  refine awake_wf h ?_ h₀
  repeat' (first | (with_reducible assumption) | (with_reducible apply wf_ite) | (with_reducible apply settleEnd_wf) | split | dsimp only)

theorem execTwinPllLock_only {s s1 : State} (h : execTwinPllLock s = .next s1) :
    Only [.regs, .conds, .gates, .twin] s s1 := by
  unfold execTwinPllLock at h
  refine awake_only h ?_
  repeat' (first | (with_reducible exact Only.refl _ _) | (with_reducible apply Only.ite) | (with_reducible apply twinPllLock_step (hm := by decide)) | split | dsimp only)

theorem execTwinPllLock_wf {s s1 : State} (h : execTwinPllLock s = .next s1) (h₀ : Memory.wf s = true) : Memory.wf s1 = true := by
  unfold execTwinPllLock at h
  refine awake_wf h ?_ h₀
  repeat' (first | (with_reducible assumption) | (with_reducible apply wf_ite) | (with_reducible apply twinPllLock_wf) | split | dsimp only)

end Sys2Proof.Machine
end

