-- ==== Sys2Proof/Laws/State.lean ====
section
/-! SUPPORT. Laws/State.lean: one lemma a field and update, so that no proof unfolds a record update. -/

namespace Sys2Proof.Machine

/-! ### State.wr -/

@[simp] theorem State.wr_heldU (s : State) (p : Nat) (v : Word) : (s.wr p v).heldU = s.heldU := rfl
@[simp] theorem State.wr_heldB (s : State) (p : Nat) (v : Word) : (s.wr p v).heldB = s.heldB := rfl
@[simp] theorem State.wr_banks (s : State) (p : Nat) (v : Word) : (s.wr p v).banks = s.banks := rfl
@[simp] theorem State.wr_conds (s : State) (p : Nat) (v : Word) : (s.wr p v).conds = s.conds := rfl
@[simp] theorem State.wr_gates (s : State) (p : Nat) (v : Word) : (s.wr p v).gates = s.gates := rfl
@[simp] theorem State.wr_rdata (s : State) (p : Nat) (v : Word) : (s.wr p v).rdata = s.rdata := rfl
@[simp] theorem State.wr_free (s : State) (p : Nat) (v : Word) : (s.wr p v).free = s.free := rfl
@[simp] theorem State.wr_sys (s : State) (p : Nat) (v : Word) : (s.wr p v).sys = s.sys := rfl
@[simp] theorem State.wr_time (s : State) (p : Nat) (v : Word) : (s.wr p v).time = s.time := rfl
@[simp] theorem State.wr_ain (s : State) (p : Nat) (v : Word) : (s.wr p v).ain = s.ain := rfl
@[simp] theorem State.wr_mb (s : State) (p : Nat) (v : Word) : (s.wr p v).mb = s.mb := rfl
@[simp] theorem State.wr_scn (s : State) (p : Nat) (v : Word) : (s.wr p v).scn = s.scn := rfl
@[simp] theorem State.wr_legs (s : State) (p : Nat) (v : Word) : (s.wr p v).legs = s.legs := rfl
@[simp] theorem State.wr_pwm (s : State) (p : Nat) (v : Word) : (s.wr p v).pwm = s.pwm := rfl
@[simp] theorem State.wr_safe (s : State) (p : Nat) (v : Word) : (s.wr p v).safe = s.safe := rfl
@[simp] theorem State.wr_dlCal (s : State) (p : Nat) (v : Word) : (s.wr p v).dlCal = s.dlCal := rfl
@[simp] theorem State.wr_pins (s : State) (p : Nat) (v : Word) : (s.wr p v).pins = s.pins := rfl
@[simp] theorem State.wr_sense (s : State) (p : Nat) (v : Word) : (s.wr p v).sense = s.sense := rfl
@[simp] theorem State.wr_lanes (s : State) (p : Nat) (v : Word) : (s.wr p v).lanes = s.lanes := rfl
@[simp] theorem State.wr_loops (s : State) (p : Nat) (v : Word) : (s.wr p v).loops = s.loops := rfl
@[simp] theorem State.wr_lanePool (s : State) (p : Nat) (v : Word) : (s.wr p v).lanePool = s.lanePool := rfl
@[simp] theorem State.wr_trace (s : State) (p : Nat) (v : Word) : (s.wr p v).trace = s.trace := rfl
@[simp] theorem State.wr_vent (s : State) (p : Nat) (v : Word) : (s.wr p v).vent = s.vent := rfl
@[simp] theorem State.wr_mem (s : State) (p : Nat) (v : Word) : (s.wr p v).mem = s.mem := rfl
@[simp] theorem State.wr_bkg (s : State) (p : Nat) (v : Word) : (s.wr p v).bkg = s.bkg := rfl
@[simp] theorem State.wr_rings (s : State) (p : Nat) (v : Word) : (s.wr p v).rings = s.rings := rfl
@[simp] theorem State.wr_fab (s : State) (p : Nat) (v : Word) : (s.wr p v).fab = s.fab := rfl
@[simp] theorem State.wr_twin (s : State) (p : Nat) (v : Word) : (s.wr p v).twin = s.twin := rfl
@[simp] theorem State.wr_str (s : State) (p : Nat) (v : Word) : (s.wr p v).str = s.str := rfl
@[simp] theorem State.wr_hst (s : State) (p : Nat) (v : Word) : (s.wr p v).hst = s.hst := rfl
@[simp] theorem State.wr_pending (s : State) (p : Nat) (v : Word) : (s.wr p v).pending = s.pending := rfl
@[simp] theorem State.wr_bank (s : State) (p : Nat) (v : Word) (j : Nat) : (s.wr p v).bank j = s.bank j := rfl

/-! ### State.set -/

@[simp] theorem State.set_heldU (s : State) (g : Fld) (n : Nat) : (s.set g n).heldU = s.heldU := rfl
@[simp] theorem State.set_heldB (s : State) (g : Fld) (n : Nat) : (s.set g n).heldB = s.heldB := rfl
@[simp] theorem State.set_banks (s : State) (g : Fld) (n : Nat) : (s.set g n).banks = s.banks := rfl
@[simp] theorem State.set_conds (s : State) (g : Fld) (n : Nat) : (s.set g n).conds = s.conds := rfl
@[simp] theorem State.set_gates (s : State) (g : Fld) (n : Nat) : (s.set g n).gates = s.gates := rfl
@[simp] theorem State.set_rdata (s : State) (g : Fld) (n : Nat) : (s.set g n).rdata = s.rdata := rfl
@[simp] theorem State.set_free (s : State) (g : Fld) (n : Nat) : (s.set g n).free = s.free := rfl
@[simp] theorem State.set_sys (s : State) (g : Fld) (n : Nat) : (s.set g n).sys = s.sys := rfl
@[simp] theorem State.set_time (s : State) (g : Fld) (n : Nat) : (s.set g n).time = s.time := rfl
@[simp] theorem State.set_ain (s : State) (g : Fld) (n : Nat) : (s.set g n).ain = s.ain := rfl
@[simp] theorem State.set_mb (s : State) (g : Fld) (n : Nat) : (s.set g n).mb = s.mb := rfl
@[simp] theorem State.set_scn (s : State) (g : Fld) (n : Nat) : (s.set g n).scn = s.scn := rfl
@[simp] theorem State.set_legs (s : State) (g : Fld) (n : Nat) : (s.set g n).legs = s.legs := rfl
@[simp] theorem State.set_pwm (s : State) (g : Fld) (n : Nat) : (s.set g n).pwm = s.pwm := rfl
@[simp] theorem State.set_safe (s : State) (g : Fld) (n : Nat) : (s.set g n).safe = s.safe := rfl
@[simp] theorem State.set_dlCal (s : State) (g : Fld) (n : Nat) : (s.set g n).dlCal = s.dlCal := rfl
@[simp] theorem State.set_pins (s : State) (g : Fld) (n : Nat) : (s.set g n).pins = s.pins := rfl
@[simp] theorem State.set_sense (s : State) (g : Fld) (n : Nat) : (s.set g n).sense = s.sense := rfl
@[simp] theorem State.set_lanes (s : State) (g : Fld) (n : Nat) : (s.set g n).lanes = s.lanes := rfl
@[simp] theorem State.set_loops (s : State) (g : Fld) (n : Nat) : (s.set g n).loops = s.loops := rfl
@[simp] theorem State.set_lanePool (s : State) (g : Fld) (n : Nat) : (s.set g n).lanePool = s.lanePool := rfl
@[simp] theorem State.set_trace (s : State) (g : Fld) (n : Nat) : (s.set g n).trace = s.trace := rfl
@[simp] theorem State.set_vent (s : State) (g : Fld) (n : Nat) : (s.set g n).vent = s.vent := rfl
@[simp] theorem State.set_mem (s : State) (g : Fld) (n : Nat) : (s.set g n).mem = s.mem := rfl
@[simp] theorem State.set_bkg (s : State) (g : Fld) (n : Nat) : (s.set g n).bkg = s.bkg := rfl
@[simp] theorem State.set_rings (s : State) (g : Fld) (n : Nat) : (s.set g n).rings = s.rings := rfl
@[simp] theorem State.set_fab (s : State) (g : Fld) (n : Nat) : (s.set g n).fab = s.fab := rfl
@[simp] theorem State.set_twin (s : State) (g : Fld) (n : Nat) : (s.set g n).twin = s.twin := rfl
@[simp] theorem State.set_str (s : State) (g : Fld) (n : Nat) : (s.set g n).str = s.str := rfl
@[simp] theorem State.set_hst (s : State) (g : Fld) (n : Nat) : (s.set g n).hst = s.hst := rfl
@[simp] theorem State.set_pending (s : State) (g : Fld) (n : Nat) : (s.set g n).pending = s.pending := rfl
@[simp] theorem State.set_bank (s : State) (g : Fld) (n : Nat) (j : Nat) : (s.set g n).bank j = s.bank j := rfl

/-! ### State.setB -/

@[simp] theorem State.setB_heldU (s : State) (g : Fld) (b : Bool) : (s.setB g b).heldU = s.heldU := rfl
@[simp] theorem State.setB_heldB (s : State) (g : Fld) (b : Bool) : (s.setB g b).heldB = s.heldB := rfl
@[simp] theorem State.setB_banks (s : State) (g : Fld) (b : Bool) : (s.setB g b).banks = s.banks := rfl
@[simp] theorem State.setB_conds (s : State) (g : Fld) (b : Bool) : (s.setB g b).conds = s.conds := rfl
@[simp] theorem State.setB_gates (s : State) (g : Fld) (b : Bool) : (s.setB g b).gates = s.gates := rfl
@[simp] theorem State.setB_rdata (s : State) (g : Fld) (b : Bool) : (s.setB g b).rdata = s.rdata := rfl
@[simp] theorem State.setB_free (s : State) (g : Fld) (b : Bool) : (s.setB g b).free = s.free := rfl
@[simp] theorem State.setB_sys (s : State) (g : Fld) (b : Bool) : (s.setB g b).sys = s.sys := rfl
@[simp] theorem State.setB_time (s : State) (g : Fld) (b : Bool) : (s.setB g b).time = s.time := rfl
@[simp] theorem State.setB_ain (s : State) (g : Fld) (b : Bool) : (s.setB g b).ain = s.ain := rfl
@[simp] theorem State.setB_mb (s : State) (g : Fld) (b : Bool) : (s.setB g b).mb = s.mb := rfl
@[simp] theorem State.setB_scn (s : State) (g : Fld) (b : Bool) : (s.setB g b).scn = s.scn := rfl
@[simp] theorem State.setB_legs (s : State) (g : Fld) (b : Bool) : (s.setB g b).legs = s.legs := rfl
@[simp] theorem State.setB_pwm (s : State) (g : Fld) (b : Bool) : (s.setB g b).pwm = s.pwm := rfl
@[simp] theorem State.setB_safe (s : State) (g : Fld) (b : Bool) : (s.setB g b).safe = s.safe := rfl
@[simp] theorem State.setB_dlCal (s : State) (g : Fld) (b : Bool) : (s.setB g b).dlCal = s.dlCal := rfl
@[simp] theorem State.setB_pins (s : State) (g : Fld) (b : Bool) : (s.setB g b).pins = s.pins := rfl
@[simp] theorem State.setB_sense (s : State) (g : Fld) (b : Bool) : (s.setB g b).sense = s.sense := rfl
@[simp] theorem State.setB_lanes (s : State) (g : Fld) (b : Bool) : (s.setB g b).lanes = s.lanes := rfl
@[simp] theorem State.setB_loops (s : State) (g : Fld) (b : Bool) : (s.setB g b).loops = s.loops := rfl
@[simp] theorem State.setB_lanePool (s : State) (g : Fld) (b : Bool) : (s.setB g b).lanePool = s.lanePool := rfl
@[simp] theorem State.setB_trace (s : State) (g : Fld) (b : Bool) : (s.setB g b).trace = s.trace := rfl
@[simp] theorem State.setB_vent (s : State) (g : Fld) (b : Bool) : (s.setB g b).vent = s.vent := rfl
@[simp] theorem State.setB_mem (s : State) (g : Fld) (b : Bool) : (s.setB g b).mem = s.mem := rfl
@[simp] theorem State.setB_bkg (s : State) (g : Fld) (b : Bool) : (s.setB g b).bkg = s.bkg := rfl
@[simp] theorem State.setB_rings (s : State) (g : Fld) (b : Bool) : (s.setB g b).rings = s.rings := rfl
@[simp] theorem State.setB_fab (s : State) (g : Fld) (b : Bool) : (s.setB g b).fab = s.fab := rfl
@[simp] theorem State.setB_twin (s : State) (g : Fld) (b : Bool) : (s.setB g b).twin = s.twin := rfl
@[simp] theorem State.setB_str (s : State) (g : Fld) (b : Bool) : (s.setB g b).str = s.str := rfl
@[simp] theorem State.setB_hst (s : State) (g : Fld) (b : Bool) : (s.setB g b).hst = s.hst := rfl
@[simp] theorem State.setB_pending (s : State) (g : Fld) (b : Bool) : (s.setB g b).pending = s.pending := rfl
@[simp] theorem State.setB_bank (s : State) (g : Fld) (b : Bool) (j : Nat) : (s.setB g b).bank j = s.bank j := rfl

/-! ### State.raise -/

@[simp] theorem State.raise_heldU (s : State) (g : Flag) : (s.raise g).heldU = s.heldU := rfl
@[simp] theorem State.raise_heldB (s : State) (g : Flag) : (s.raise g).heldB = s.heldB := rfl
@[simp] theorem State.raise_banks (s : State) (g : Flag) : (s.raise g).banks = s.banks := rfl
@[simp] theorem State.raise_conds (s : State) (g : Flag) : (s.raise g).conds = s.conds := rfl
@[simp] theorem State.raise_gates (s : State) (g : Flag) : (s.raise g).gates = s.gates := rfl
@[simp] theorem State.raise_rdata (s : State) (g : Flag) : (s.raise g).rdata = s.rdata := rfl
@[simp] theorem State.raise_free (s : State) (g : Flag) : (s.raise g).free = s.free := rfl
@[simp] theorem State.raise_sys (s : State) (g : Flag) : (s.raise g).sys = s.sys := rfl
@[simp] theorem State.raise_time (s : State) (g : Flag) : (s.raise g).time = s.time := rfl
@[simp] theorem State.raise_ain (s : State) (g : Flag) : (s.raise g).ain = s.ain := rfl
@[simp] theorem State.raise_mb (s : State) (g : Flag) : (s.raise g).mb = s.mb := rfl
@[simp] theorem State.raise_scn (s : State) (g : Flag) : (s.raise g).scn = s.scn := rfl
@[simp] theorem State.raise_legs (s : State) (g : Flag) : (s.raise g).legs = s.legs := rfl
@[simp] theorem State.raise_pwm (s : State) (g : Flag) : (s.raise g).pwm = s.pwm := rfl
@[simp] theorem State.raise_safe (s : State) (g : Flag) : (s.raise g).safe = s.safe := rfl
@[simp] theorem State.raise_dlCal (s : State) (g : Flag) : (s.raise g).dlCal = s.dlCal := rfl
@[simp] theorem State.raise_pins (s : State) (g : Flag) : (s.raise g).pins = s.pins := rfl
@[simp] theorem State.raise_sense (s : State) (g : Flag) : (s.raise g).sense = s.sense := rfl
@[simp] theorem State.raise_lanes (s : State) (g : Flag) : (s.raise g).lanes = s.lanes := rfl
@[simp] theorem State.raise_loops (s : State) (g : Flag) : (s.raise g).loops = s.loops := rfl
@[simp] theorem State.raise_lanePool (s : State) (g : Flag) : (s.raise g).lanePool = s.lanePool := rfl
@[simp] theorem State.raise_trace (s : State) (g : Flag) : (s.raise g).trace = s.trace := rfl
@[simp] theorem State.raise_vent (s : State) (g : Flag) : (s.raise g).vent = s.vent := rfl
@[simp] theorem State.raise_mem (s : State) (g : Flag) : (s.raise g).mem = s.mem := rfl
@[simp] theorem State.raise_bkg (s : State) (g : Flag) : (s.raise g).bkg = s.bkg := rfl
@[simp] theorem State.raise_rings (s : State) (g : Flag) : (s.raise g).rings = s.rings := rfl
@[simp] theorem State.raise_fab (s : State) (g : Flag) : (s.raise g).fab = s.fab := rfl
@[simp] theorem State.raise_twin (s : State) (g : Flag) : (s.raise g).twin = s.twin := rfl
@[simp] theorem State.raise_str (s : State) (g : Flag) : (s.raise g).str = s.str := rfl
@[simp] theorem State.raise_hst (s : State) (g : Flag) : (s.raise g).hst = s.hst := rfl
@[simp] theorem State.raise_pending (s : State) (g : Flag) : (s.raise g).pending = s.pending := rfl
@[simp] theorem State.raise_bank (s : State) (g : Flag) (j : Nat) : (s.raise g).bank j = s.bank j := rfl

/-! ### State.setFree -/

@[simp] theorem State.setFree_heldU (s : State) (g : Fld) : (s.setFree g).heldU = s.heldU := rfl
@[simp] theorem State.setFree_heldB (s : State) (g : Fld) : (s.setFree g).heldB = s.heldB := rfl
@[simp] theorem State.setFree_banks (s : State) (g : Fld) : (s.setFree g).banks = s.banks := rfl
@[simp] theorem State.setFree_conds (s : State) (g : Fld) : (s.setFree g).conds = s.conds := rfl
@[simp] theorem State.setFree_gates (s : State) (g : Fld) : (s.setFree g).gates = s.gates := rfl
@[simp] theorem State.setFree_rdata (s : State) (g : Fld) : (s.setFree g).rdata = s.rdata := rfl
@[simp] theorem State.setFree_sys (s : State) (g : Fld) : (s.setFree g).sys = s.sys := rfl
@[simp] theorem State.setFree_time (s : State) (g : Fld) : (s.setFree g).time = s.time := rfl
@[simp] theorem State.setFree_ain (s : State) (g : Fld) : (s.setFree g).ain = s.ain := rfl
@[simp] theorem State.setFree_mb (s : State) (g : Fld) : (s.setFree g).mb = s.mb := rfl
@[simp] theorem State.setFree_scn (s : State) (g : Fld) : (s.setFree g).scn = s.scn := rfl
@[simp] theorem State.setFree_legs (s : State) (g : Fld) : (s.setFree g).legs = s.legs := rfl
@[simp] theorem State.setFree_pwm (s : State) (g : Fld) : (s.setFree g).pwm = s.pwm := rfl
@[simp] theorem State.setFree_safe (s : State) (g : Fld) : (s.setFree g).safe = s.safe := rfl
@[simp] theorem State.setFree_dlCal (s : State) (g : Fld) : (s.setFree g).dlCal = s.dlCal := rfl
@[simp] theorem State.setFree_pins (s : State) (g : Fld) : (s.setFree g).pins = s.pins := rfl
@[simp] theorem State.setFree_sense (s : State) (g : Fld) : (s.setFree g).sense = s.sense := rfl
@[simp] theorem State.setFree_lanes (s : State) (g : Fld) : (s.setFree g).lanes = s.lanes := rfl
@[simp] theorem State.setFree_loops (s : State) (g : Fld) : (s.setFree g).loops = s.loops := rfl
@[simp] theorem State.setFree_lanePool (s : State) (g : Fld) : (s.setFree g).lanePool = s.lanePool := rfl
@[simp] theorem State.setFree_trace (s : State) (g : Fld) : (s.setFree g).trace = s.trace := rfl
@[simp] theorem State.setFree_vent (s : State) (g : Fld) : (s.setFree g).vent = s.vent := rfl
@[simp] theorem State.setFree_mem (s : State) (g : Fld) : (s.setFree g).mem = s.mem := rfl
@[simp] theorem State.setFree_bkg (s : State) (g : Fld) : (s.setFree g).bkg = s.bkg := rfl
@[simp] theorem State.setFree_rings (s : State) (g : Fld) : (s.setFree g).rings = s.rings := rfl
@[simp] theorem State.setFree_fab (s : State) (g : Fld) : (s.setFree g).fab = s.fab := rfl
@[simp] theorem State.setFree_twin (s : State) (g : Fld) : (s.setFree g).twin = s.twin := rfl
@[simp] theorem State.setFree_str (s : State) (g : Fld) : (s.setFree g).str = s.str := rfl
@[simp] theorem State.setFree_hst (s : State) (g : Fld) : (s.setFree g).hst = s.hst := rfl
@[simp] theorem State.setFree_pending (s : State) (g : Fld) : (s.setFree g).pending = s.pending := rfl
@[simp] theorem State.setFree_bank (s : State) (g : Fld) (j : Nat) : (s.setFree g).bank j = s.bank j := rfl

/-! ### State.raiseIf -/

@[simp] theorem State.raiseIf_heldU (s : State) (b : Bool) (g : Flag) : (s.raiseIf b g).heldU = s.heldU := State.raiseIf_only s b g .heldU (by decide)
@[simp] theorem State.raiseIf_heldB (s : State) (b : Bool) (g : Flag) : (s.raiseIf b g).heldB = s.heldB := State.raiseIf_only s b g .heldB (by decide)
@[simp] theorem State.raiseIf_banks (s : State) (b : Bool) (g : Flag) : (s.raiseIf b g).banks = s.banks := State.raiseIf_only s b g .banks (by decide)
@[simp] theorem State.raiseIf_conds (s : State) (b : Bool) (g : Flag) : (s.raiseIf b g).conds = s.conds := State.raiseIf_only s b g .conds (by decide)
@[simp] theorem State.raiseIf_gates (s : State) (b : Bool) (g : Flag) : (s.raiseIf b g).gates = s.gates := State.raiseIf_only s b g .gates (by decide)
@[simp] theorem State.raiseIf_rdata (s : State) (b : Bool) (g : Flag) : (s.raiseIf b g).rdata = s.rdata := State.raiseIf_only s b g .rdata (by decide)
@[simp] theorem State.raiseIf_free (s : State) (b : Bool) (g : Flag) : (s.raiseIf b g).free = s.free := State.raiseIf_only s b g .free (by decide)
@[simp] theorem State.raiseIf_sys (s : State) (b : Bool) (g : Flag) : (s.raiseIf b g).sys = s.sys := State.raiseIf_only s b g .sys (by decide)
@[simp] theorem State.raiseIf_time (s : State) (b : Bool) (g : Flag) : (s.raiseIf b g).time = s.time := State.raiseIf_only s b g .time (by decide)
@[simp] theorem State.raiseIf_ain (s : State) (b : Bool) (g : Flag) : (s.raiseIf b g).ain = s.ain := State.raiseIf_only s b g .ain (by decide)
@[simp] theorem State.raiseIf_mb (s : State) (b : Bool) (g : Flag) : (s.raiseIf b g).mb = s.mb := State.raiseIf_only s b g .mb (by decide)
@[simp] theorem State.raiseIf_scn (s : State) (b : Bool) (g : Flag) : (s.raiseIf b g).scn = s.scn := State.raiseIf_only s b g .scn (by decide)
@[simp] theorem State.raiseIf_legs (s : State) (b : Bool) (g : Flag) : (s.raiseIf b g).legs = s.legs := State.raiseIf_only s b g .legs (by decide)
@[simp] theorem State.raiseIf_pwm (s : State) (b : Bool) (g : Flag) : (s.raiseIf b g).pwm = s.pwm := State.raiseIf_only s b g .pwm (by decide)
@[simp] theorem State.raiseIf_safe (s : State) (b : Bool) (g : Flag) : (s.raiseIf b g).safe = s.safe := State.raiseIf_only s b g .safe (by decide)
@[simp] theorem State.raiseIf_dlCal (s : State) (b : Bool) (g : Flag) : (s.raiseIf b g).dlCal = s.dlCal := State.raiseIf_only s b g .dlCal (by decide)
@[simp] theorem State.raiseIf_pins (s : State) (b : Bool) (g : Flag) : (s.raiseIf b g).pins = s.pins := State.raiseIf_only s b g .pins (by decide)
@[simp] theorem State.raiseIf_sense (s : State) (b : Bool) (g : Flag) : (s.raiseIf b g).sense = s.sense := State.raiseIf_only s b g .sense (by decide)
@[simp] theorem State.raiseIf_lanes (s : State) (b : Bool) (g : Flag) : (s.raiseIf b g).lanes = s.lanes := State.raiseIf_only s b g .lanes (by decide)
@[simp] theorem State.raiseIf_loops (s : State) (b : Bool) (g : Flag) : (s.raiseIf b g).loops = s.loops := State.raiseIf_only s b g .loops (by decide)
@[simp] theorem State.raiseIf_lanePool (s : State) (b : Bool) (g : Flag) : (s.raiseIf b g).lanePool = s.lanePool := State.raiseIf_only s b g .lanePool (by decide)
@[simp] theorem State.raiseIf_trace (s : State) (b : Bool) (g : Flag) : (s.raiseIf b g).trace = s.trace := State.raiseIf_only s b g .trace (by decide)
@[simp] theorem State.raiseIf_vent (s : State) (b : Bool) (g : Flag) : (s.raiseIf b g).vent = s.vent := State.raiseIf_only s b g .vent (by decide)
@[simp] theorem State.raiseIf_mem (s : State) (b : Bool) (g : Flag) : (s.raiseIf b g).mem = s.mem := State.raiseIf_only s b g .mem (by decide)
@[simp] theorem State.raiseIf_bkg (s : State) (b : Bool) (g : Flag) : (s.raiseIf b g).bkg = s.bkg := State.raiseIf_only s b g .bkg (by decide)
@[simp] theorem State.raiseIf_rings (s : State) (b : Bool) (g : Flag) : (s.raiseIf b g).rings = s.rings := State.raiseIf_only s b g .rings (by decide)
@[simp] theorem State.raiseIf_fab (s : State) (b : Bool) (g : Flag) : (s.raiseIf b g).fab = s.fab := State.raiseIf_only s b g .fab (by decide)
@[simp] theorem State.raiseIf_twin (s : State) (b : Bool) (g : Flag) : (s.raiseIf b g).twin = s.twin := State.raiseIf_only s b g .twin (by decide)
@[simp] theorem State.raiseIf_str (s : State) (b : Bool) (g : Flag) : (s.raiseIf b g).str = s.str := State.raiseIf_only s b g .str (by decide)
@[simp] theorem State.raiseIf_hst (s : State) (b : Bool) (g : Flag) : (s.raiseIf b g).hst = s.hst := State.raiseIf_only s b g .hst (by decide)
@[simp] theorem State.raiseIf_pending (s : State) (b : Bool) (g : Flag) : (s.raiseIf b g).pending = s.pending := State.raiseIf_only s b g .pending (by decide)

/-! ### State.cond -/

@[simp] theorem State.cond_heldU (s : State) (g : Flag) (b : Bool) : (s.cond g b).heldU = s.heldU := State.cond_only s g b .heldU (by decide)
@[simp] theorem State.cond_heldB (s : State) (g : Flag) (b : Bool) : (s.cond g b).heldB = s.heldB := State.cond_only s g b .heldB (by decide)
@[simp] theorem State.cond_banks (s : State) (g : Flag) (b : Bool) : (s.cond g b).banks = s.banks := State.cond_only s g b .banks (by decide)
@[simp] theorem State.cond_gates (s : State) (g : Flag) (b : Bool) : (s.cond g b).gates = s.gates := State.cond_only s g b .gates (by decide)
@[simp] theorem State.cond_rdata (s : State) (g : Flag) (b : Bool) : (s.cond g b).rdata = s.rdata := State.cond_only s g b .rdata (by decide)
@[simp] theorem State.cond_free (s : State) (g : Flag) (b : Bool) : (s.cond g b).free = s.free := State.cond_only s g b .free (by decide)
@[simp] theorem State.cond_sys (s : State) (g : Flag) (b : Bool) : (s.cond g b).sys = s.sys := State.cond_only s g b .sys (by decide)
@[simp] theorem State.cond_time (s : State) (g : Flag) (b : Bool) : (s.cond g b).time = s.time := State.cond_only s g b .time (by decide)
@[simp] theorem State.cond_ain (s : State) (g : Flag) (b : Bool) : (s.cond g b).ain = s.ain := State.cond_only s g b .ain (by decide)
@[simp] theorem State.cond_mb (s : State) (g : Flag) (b : Bool) : (s.cond g b).mb = s.mb := State.cond_only s g b .mb (by decide)
@[simp] theorem State.cond_scn (s : State) (g : Flag) (b : Bool) : (s.cond g b).scn = s.scn := State.cond_only s g b .scn (by decide)
@[simp] theorem State.cond_legs (s : State) (g : Flag) (b : Bool) : (s.cond g b).legs = s.legs := State.cond_only s g b .legs (by decide)
@[simp] theorem State.cond_pwm (s : State) (g : Flag) (b : Bool) : (s.cond g b).pwm = s.pwm := State.cond_only s g b .pwm (by decide)
@[simp] theorem State.cond_safe (s : State) (g : Flag) (b : Bool) : (s.cond g b).safe = s.safe := State.cond_only s g b .safe (by decide)
@[simp] theorem State.cond_dlCal (s : State) (g : Flag) (b : Bool) : (s.cond g b).dlCal = s.dlCal := State.cond_only s g b .dlCal (by decide)
@[simp] theorem State.cond_pins (s : State) (g : Flag) (b : Bool) : (s.cond g b).pins = s.pins := State.cond_only s g b .pins (by decide)
@[simp] theorem State.cond_sense (s : State) (g : Flag) (b : Bool) : (s.cond g b).sense = s.sense := State.cond_only s g b .sense (by decide)
@[simp] theorem State.cond_lanes (s : State) (g : Flag) (b : Bool) : (s.cond g b).lanes = s.lanes := State.cond_only s g b .lanes (by decide)
@[simp] theorem State.cond_loops (s : State) (g : Flag) (b : Bool) : (s.cond g b).loops = s.loops := State.cond_only s g b .loops (by decide)
@[simp] theorem State.cond_lanePool (s : State) (g : Flag) (b : Bool) : (s.cond g b).lanePool = s.lanePool := State.cond_only s g b .lanePool (by decide)
@[simp] theorem State.cond_trace (s : State) (g : Flag) (b : Bool) : (s.cond g b).trace = s.trace := State.cond_only s g b .trace (by decide)
@[simp] theorem State.cond_vent (s : State) (g : Flag) (b : Bool) : (s.cond g b).vent = s.vent := State.cond_only s g b .vent (by decide)
@[simp] theorem State.cond_mem (s : State) (g : Flag) (b : Bool) : (s.cond g b).mem = s.mem := State.cond_only s g b .mem (by decide)
@[simp] theorem State.cond_bkg (s : State) (g : Flag) (b : Bool) : (s.cond g b).bkg = s.bkg := State.cond_only s g b .bkg (by decide)
@[simp] theorem State.cond_rings (s : State) (g : Flag) (b : Bool) : (s.cond g b).rings = s.rings := State.cond_only s g b .rings (by decide)
@[simp] theorem State.cond_fab (s : State) (g : Flag) (b : Bool) : (s.cond g b).fab = s.fab := State.cond_only s g b .fab (by decide)
@[simp] theorem State.cond_twin (s : State) (g : Flag) (b : Bool) : (s.cond g b).twin = s.twin := State.cond_only s g b .twin (by decide)
@[simp] theorem State.cond_str (s : State) (g : Flag) (b : Bool) : (s.cond g b).str = s.str := State.cond_only s g b .str (by decide)
@[simp] theorem State.cond_hst (s : State) (g : Flag) (b : Bool) : (s.cond g b).hst = s.hst := State.cond_only s g b .hst (by decide)
@[simp] theorem State.cond_pending (s : State) (g : Flag) (b : Bool) : (s.cond g b).pending = s.pending := State.cond_only s g b .pending (by decide)

/-! ### State.putBank -/

@[simp] theorem State.putBank_regs (s : State) (k : Nat) (v : Word) : (s.putBank k v).regs = s.regs := rfl
@[simp] theorem State.putBank_heldU (s : State) (k : Nat) (v : Word) : (s.putBank k v).heldU = s.heldU := rfl
@[simp] theorem State.putBank_heldB (s : State) (k : Nat) (v : Word) : (s.putBank k v).heldB = s.heldB := rfl
@[simp] theorem State.putBank_conds (s : State) (k : Nat) (v : Word) : (s.putBank k v).conds = s.conds := rfl
@[simp] theorem State.putBank_gates (s : State) (k : Nat) (v : Word) : (s.putBank k v).gates = s.gates := rfl
@[simp] theorem State.putBank_rdata (s : State) (k : Nat) (v : Word) : (s.putBank k v).rdata = s.rdata := rfl
@[simp] theorem State.putBank_free (s : State) (k : Nat) (v : Word) : (s.putBank k v).free = s.free := rfl
@[simp] theorem State.putBank_sys (s : State) (k : Nat) (v : Word) : (s.putBank k v).sys = s.sys := rfl
@[simp] theorem State.putBank_time (s : State) (k : Nat) (v : Word) : (s.putBank k v).time = s.time := rfl
@[simp] theorem State.putBank_ain (s : State) (k : Nat) (v : Word) : (s.putBank k v).ain = s.ain := rfl
@[simp] theorem State.putBank_mb (s : State) (k : Nat) (v : Word) : (s.putBank k v).mb = s.mb := rfl
@[simp] theorem State.putBank_scn (s : State) (k : Nat) (v : Word) : (s.putBank k v).scn = s.scn := rfl
@[simp] theorem State.putBank_legs (s : State) (k : Nat) (v : Word) : (s.putBank k v).legs = s.legs := rfl
@[simp] theorem State.putBank_pwm (s : State) (k : Nat) (v : Word) : (s.putBank k v).pwm = s.pwm := rfl
@[simp] theorem State.putBank_safe (s : State) (k : Nat) (v : Word) : (s.putBank k v).safe = s.safe := rfl
@[simp] theorem State.putBank_dlCal (s : State) (k : Nat) (v : Word) : (s.putBank k v).dlCal = s.dlCal := rfl
@[simp] theorem State.putBank_pins (s : State) (k : Nat) (v : Word) : (s.putBank k v).pins = s.pins := rfl
@[simp] theorem State.putBank_sense (s : State) (k : Nat) (v : Word) : (s.putBank k v).sense = s.sense := rfl
@[simp] theorem State.putBank_lanes (s : State) (k : Nat) (v : Word) : (s.putBank k v).lanes = s.lanes := rfl
@[simp] theorem State.putBank_loops (s : State) (k : Nat) (v : Word) : (s.putBank k v).loops = s.loops := rfl
@[simp] theorem State.putBank_lanePool (s : State) (k : Nat) (v : Word) : (s.putBank k v).lanePool = s.lanePool := rfl
@[simp] theorem State.putBank_trace (s : State) (k : Nat) (v : Word) : (s.putBank k v).trace = s.trace := rfl
@[simp] theorem State.putBank_vent (s : State) (k : Nat) (v : Word) : (s.putBank k v).vent = s.vent := rfl
@[simp] theorem State.putBank_mem (s : State) (k : Nat) (v : Word) : (s.putBank k v).mem = s.mem := rfl
@[simp] theorem State.putBank_bkg (s : State) (k : Nat) (v : Word) : (s.putBank k v).bkg = s.bkg := rfl
@[simp] theorem State.putBank_rings (s : State) (k : Nat) (v : Word) : (s.putBank k v).rings = s.rings := rfl
@[simp] theorem State.putBank_fab (s : State) (k : Nat) (v : Word) : (s.putBank k v).fab = s.fab := rfl
@[simp] theorem State.putBank_twin (s : State) (k : Nat) (v : Word) : (s.putBank k v).twin = s.twin := rfl
@[simp] theorem State.putBank_str (s : State) (k : Nat) (v : Word) : (s.putBank k v).str = s.str := rfl
@[simp] theorem State.putBank_hst (s : State) (k : Nat) (v : Word) : (s.putBank k v).hst = s.hst := rfl
@[simp] theorem State.putBank_pending (s : State) (k : Nat) (v : Word) : (s.putBank k v).pending = s.pending := rfl
@[simp] theorem State.putBank_rd (s : State) (k : Nat) (v : Word) (a : Nat) : (s.putBank k v).rd a = s.rd a := rfl
@[simp] theorem State.putBank_get (s : State) (k : Nat) (v : Word) (h : Fld) : (s.putBank k v).get h = s.get h := rfl
@[simp] theorem State.putBank_getS (s : State) (k : Nat) (v : Word) (h : Fld) : (s.putBank k v).getS h = s.getS h := rfl
@[simp] theorem State.putBank_on (s : State) (k : Nat) (v : Word) (h : Fld) : (s.putBank k v).on h = s.on h := rfl

/-! ### State.answer -/

@[simp] theorem State.answer_regs (s : State) (v : Word) : (s.answer v).regs = s.regs := rfl
@[simp] theorem State.answer_heldU (s : State) (v : Word) : (s.answer v).heldU = s.heldU := rfl
@[simp] theorem State.answer_heldB (s : State) (v : Word) : (s.answer v).heldB = s.heldB := rfl
@[simp] theorem State.answer_banks (s : State) (v : Word) : (s.answer v).banks = s.banks := rfl
@[simp] theorem State.answer_conds (s : State) (v : Word) : (s.answer v).conds = s.conds := rfl
@[simp] theorem State.answer_gates (s : State) (v : Word) : (s.answer v).gates = s.gates := rfl
@[simp] theorem State.answer_free (s : State) (v : Word) : (s.answer v).free = s.free := rfl
@[simp] theorem State.answer_sys (s : State) (v : Word) : (s.answer v).sys = s.sys := rfl
@[simp] theorem State.answer_time (s : State) (v : Word) : (s.answer v).time = s.time := rfl
@[simp] theorem State.answer_ain (s : State) (v : Word) : (s.answer v).ain = s.ain := rfl
@[simp] theorem State.answer_mb (s : State) (v : Word) : (s.answer v).mb = s.mb := rfl
@[simp] theorem State.answer_scn (s : State) (v : Word) : (s.answer v).scn = s.scn := rfl
@[simp] theorem State.answer_legs (s : State) (v : Word) : (s.answer v).legs = s.legs := rfl
@[simp] theorem State.answer_pwm (s : State) (v : Word) : (s.answer v).pwm = s.pwm := rfl
@[simp] theorem State.answer_safe (s : State) (v : Word) : (s.answer v).safe = s.safe := rfl
@[simp] theorem State.answer_dlCal (s : State) (v : Word) : (s.answer v).dlCal = s.dlCal := rfl
@[simp] theorem State.answer_pins (s : State) (v : Word) : (s.answer v).pins = s.pins := rfl
@[simp] theorem State.answer_sense (s : State) (v : Word) : (s.answer v).sense = s.sense := rfl
@[simp] theorem State.answer_lanes (s : State) (v : Word) : (s.answer v).lanes = s.lanes := rfl
@[simp] theorem State.answer_loops (s : State) (v : Word) : (s.answer v).loops = s.loops := rfl
@[simp] theorem State.answer_lanePool (s : State) (v : Word) : (s.answer v).lanePool = s.lanePool := rfl
@[simp] theorem State.answer_trace (s : State) (v : Word) : (s.answer v).trace = s.trace := rfl
@[simp] theorem State.answer_vent (s : State) (v : Word) : (s.answer v).vent = s.vent := rfl
@[simp] theorem State.answer_mem (s : State) (v : Word) : (s.answer v).mem = s.mem := rfl
@[simp] theorem State.answer_bkg (s : State) (v : Word) : (s.answer v).bkg = s.bkg := rfl
@[simp] theorem State.answer_rings (s : State) (v : Word) : (s.answer v).rings = s.rings := rfl
@[simp] theorem State.answer_fab (s : State) (v : Word) : (s.answer v).fab = s.fab := rfl
@[simp] theorem State.answer_twin (s : State) (v : Word) : (s.answer v).twin = s.twin := rfl
@[simp] theorem State.answer_str (s : State) (v : Word) : (s.answer v).str = s.str := rfl
@[simp] theorem State.answer_hst (s : State) (v : Word) : (s.answer v).hst = s.hst := rfl
@[simp] theorem State.answer_pending (s : State) (v : Word) : (s.answer v).pending = s.pending := rfl
@[simp] theorem State.answer_rd (s : State) (v : Word) (a : Nat) : (s.answer v).rd a = s.rd a := rfl
@[simp] theorem State.answer_get (s : State) (v : Word) (h : Fld) : (s.answer v).get h = s.get h := rfl
@[simp] theorem State.answer_getS (s : State) (v : Word) (h : Fld) : (s.answer v).getS h = s.getS h := rfl
@[simp] theorem State.answer_on (s : State) (v : Word) (h : Fld) : (s.answer v).on h = s.on h := rfl
@[simp] theorem State.answer_bank (s : State) (v : Word) (j : Nat) : (s.answer v).bank j = s.bank j := rfl
@[simp] theorem State.answer_rdata (s : State) (v : Word) : (s.answer v).rdata = v := rfl

/-! ### State.used -/

@[simp] theorem State.used_regs (s : State) : (s.used).regs = s.regs := rfl
@[simp] theorem State.used_heldU (s : State) : (s.used).heldU = s.heldU := rfl
@[simp] theorem State.used_heldB (s : State) : (s.used).heldB = s.heldB := rfl
@[simp] theorem State.used_banks (s : State) : (s.used).banks = s.banks := rfl
@[simp] theorem State.used_conds (s : State) : (s.used).conds = s.conds := rfl
@[simp] theorem State.used_gates (s : State) : (s.used).gates = s.gates := rfl
@[simp] theorem State.used_rdata (s : State) : (s.used).rdata = s.rdata := rfl
@[simp] theorem State.used_sys (s : State) : (s.used).sys = s.sys := rfl
@[simp] theorem State.used_time (s : State) : (s.used).time = s.time := rfl
@[simp] theorem State.used_ain (s : State) : (s.used).ain = s.ain := rfl
@[simp] theorem State.used_mb (s : State) : (s.used).mb = s.mb := rfl
@[simp] theorem State.used_scn (s : State) : (s.used).scn = s.scn := rfl
@[simp] theorem State.used_legs (s : State) : (s.used).legs = s.legs := rfl
@[simp] theorem State.used_pwm (s : State) : (s.used).pwm = s.pwm := rfl
@[simp] theorem State.used_safe (s : State) : (s.used).safe = s.safe := rfl
@[simp] theorem State.used_dlCal (s : State) : (s.used).dlCal = s.dlCal := rfl
@[simp] theorem State.used_pins (s : State) : (s.used).pins = s.pins := rfl
@[simp] theorem State.used_sense (s : State) : (s.used).sense = s.sense := rfl
@[simp] theorem State.used_lanes (s : State) : (s.used).lanes = s.lanes := rfl
@[simp] theorem State.used_loops (s : State) : (s.used).loops = s.loops := rfl
@[simp] theorem State.used_lanePool (s : State) : (s.used).lanePool = s.lanePool := rfl
@[simp] theorem State.used_trace (s : State) : (s.used).trace = s.trace := rfl
@[simp] theorem State.used_vent (s : State) : (s.used).vent = s.vent := rfl
@[simp] theorem State.used_mem (s : State) : (s.used).mem = s.mem := rfl
@[simp] theorem State.used_bkg (s : State) : (s.used).bkg = s.bkg := rfl
@[simp] theorem State.used_rings (s : State) : (s.used).rings = s.rings := rfl
@[simp] theorem State.used_fab (s : State) : (s.used).fab = s.fab := rfl
@[simp] theorem State.used_twin (s : State) : (s.used).twin = s.twin := rfl
@[simp] theorem State.used_str (s : State) : (s.used).str = s.str := rfl
@[simp] theorem State.used_hst (s : State) : (s.used).hst = s.hst := rfl
@[simp] theorem State.used_pending (s : State) : (s.used).pending = s.pending := rfl
@[simp] theorem State.used_rd (s : State) (a : Nat) : (s.used).rd a = s.rd a := rfl
@[simp] theorem State.used_get (s : State) (h : Fld) : (s.used).get h = s.get h := rfl
@[simp] theorem State.used_getS (s : State) (h : Fld) : (s.used).getS h = s.getS h := rfl
@[simp] theorem State.used_on (s : State) (h : Fld) : (s.used).on h = s.on h := rfl
@[simp] theorem State.used_bank (s : State) (j : Nat) : (s.used).bank j = s.bank j := rfl
@[simp] theorem State.used_free (s : State) : s.used.free = s.free + 1 := rfl

/-! ### State.ainUp -/

@[simp] theorem State.ainUp_regs (s : State) (f : Ain → Ain) : (s.ainUp f).regs = s.regs := rfl
@[simp] theorem State.ainUp_heldU (s : State) (f : Ain → Ain) : (s.ainUp f).heldU = s.heldU := rfl
@[simp] theorem State.ainUp_heldB (s : State) (f : Ain → Ain) : (s.ainUp f).heldB = s.heldB := rfl
@[simp] theorem State.ainUp_banks (s : State) (f : Ain → Ain) : (s.ainUp f).banks = s.banks := rfl
@[simp] theorem State.ainUp_conds (s : State) (f : Ain → Ain) : (s.ainUp f).conds = s.conds := rfl
@[simp] theorem State.ainUp_gates (s : State) (f : Ain → Ain) : (s.ainUp f).gates = s.gates := rfl
@[simp] theorem State.ainUp_rdata (s : State) (f : Ain → Ain) : (s.ainUp f).rdata = s.rdata := rfl
@[simp] theorem State.ainUp_free (s : State) (f : Ain → Ain) : (s.ainUp f).free = s.free := rfl
@[simp] theorem State.ainUp_sys (s : State) (f : Ain → Ain) : (s.ainUp f).sys = s.sys := rfl
@[simp] theorem State.ainUp_time (s : State) (f : Ain → Ain) : (s.ainUp f).time = s.time := rfl
@[simp] theorem State.ainUp_mb (s : State) (f : Ain → Ain) : (s.ainUp f).mb = s.mb := rfl
@[simp] theorem State.ainUp_scn (s : State) (f : Ain → Ain) : (s.ainUp f).scn = s.scn := rfl
@[simp] theorem State.ainUp_legs (s : State) (f : Ain → Ain) : (s.ainUp f).legs = s.legs := rfl
@[simp] theorem State.ainUp_pwm (s : State) (f : Ain → Ain) : (s.ainUp f).pwm = s.pwm := rfl
@[simp] theorem State.ainUp_safe (s : State) (f : Ain → Ain) : (s.ainUp f).safe = s.safe := rfl
@[simp] theorem State.ainUp_dlCal (s : State) (f : Ain → Ain) : (s.ainUp f).dlCal = s.dlCal := rfl
@[simp] theorem State.ainUp_pins (s : State) (f : Ain → Ain) : (s.ainUp f).pins = s.pins := rfl
@[simp] theorem State.ainUp_sense (s : State) (f : Ain → Ain) : (s.ainUp f).sense = s.sense := rfl
@[simp] theorem State.ainUp_lanes (s : State) (f : Ain → Ain) : (s.ainUp f).lanes = s.lanes := rfl
@[simp] theorem State.ainUp_loops (s : State) (f : Ain → Ain) : (s.ainUp f).loops = s.loops := rfl
@[simp] theorem State.ainUp_lanePool (s : State) (f : Ain → Ain) : (s.ainUp f).lanePool = s.lanePool := rfl
@[simp] theorem State.ainUp_trace (s : State) (f : Ain → Ain) : (s.ainUp f).trace = s.trace := rfl
@[simp] theorem State.ainUp_vent (s : State) (f : Ain → Ain) : (s.ainUp f).vent = s.vent := rfl
@[simp] theorem State.ainUp_mem (s : State) (f : Ain → Ain) : (s.ainUp f).mem = s.mem := rfl
@[simp] theorem State.ainUp_bkg (s : State) (f : Ain → Ain) : (s.ainUp f).bkg = s.bkg := rfl
@[simp] theorem State.ainUp_rings (s : State) (f : Ain → Ain) : (s.ainUp f).rings = s.rings := rfl
@[simp] theorem State.ainUp_fab (s : State) (f : Ain → Ain) : (s.ainUp f).fab = s.fab := rfl
@[simp] theorem State.ainUp_twin (s : State) (f : Ain → Ain) : (s.ainUp f).twin = s.twin := rfl
@[simp] theorem State.ainUp_str (s : State) (f : Ain → Ain) : (s.ainUp f).str = s.str := rfl
@[simp] theorem State.ainUp_hst (s : State) (f : Ain → Ain) : (s.ainUp f).hst = s.hst := rfl
@[simp] theorem State.ainUp_pending (s : State) (f : Ain → Ain) : (s.ainUp f).pending = s.pending := rfl
@[simp] theorem State.ainUp_rd (s : State) (f : Ain → Ain) (a : Nat) : (s.ainUp f).rd a = s.rd a := rfl
@[simp] theorem State.ainUp_get (s : State) (f : Ain → Ain) (h : Fld) : (s.ainUp f).get h = s.get h := rfl
@[simp] theorem State.ainUp_getS (s : State) (f : Ain → Ain) (h : Fld) : (s.ainUp f).getS h = s.getS h := rfl
@[simp] theorem State.ainUp_on (s : State) (f : Ain → Ain) (h : Fld) : (s.ainUp f).on h = s.on h := rfl
@[simp] theorem State.ainUp_bank (s : State) (f : Ain → Ain) (j : Nat) : (s.ainUp f).bank j = s.bank j := rfl
@[simp] theorem State.ainUp_ain (s : State) (f : Ain → Ain) : (s.ainUp f).ain = f s.ain := rfl

/-! ### State.ptpUp -/

@[simp] theorem State.ptpUp_regs (s : State) (f : Ptp → Ptp) : (s.ptpUp f).regs = s.regs := rfl
@[simp] theorem State.ptpUp_heldU (s : State) (f : Ptp → Ptp) : (s.ptpUp f).heldU = s.heldU := rfl
@[simp] theorem State.ptpUp_heldB (s : State) (f : Ptp → Ptp) : (s.ptpUp f).heldB = s.heldB := rfl
@[simp] theorem State.ptpUp_banks (s : State) (f : Ptp → Ptp) : (s.ptpUp f).banks = s.banks := rfl
@[simp] theorem State.ptpUp_conds (s : State) (f : Ptp → Ptp) : (s.ptpUp f).conds = s.conds := rfl
@[simp] theorem State.ptpUp_gates (s : State) (f : Ptp → Ptp) : (s.ptpUp f).gates = s.gates := rfl
@[simp] theorem State.ptpUp_rdata (s : State) (f : Ptp → Ptp) : (s.ptpUp f).rdata = s.rdata := rfl
@[simp] theorem State.ptpUp_free (s : State) (f : Ptp → Ptp) : (s.ptpUp f).free = s.free := rfl
@[simp] theorem State.ptpUp_sys (s : State) (f : Ptp → Ptp) : (s.ptpUp f).sys = s.sys := rfl
@[simp] theorem State.ptpUp_time (s : State) (f : Ptp → Ptp) : (s.ptpUp f).time = s.time := rfl
@[simp] theorem State.ptpUp_mb (s : State) (f : Ptp → Ptp) : (s.ptpUp f).mb = s.mb := rfl
@[simp] theorem State.ptpUp_scn (s : State) (f : Ptp → Ptp) : (s.ptpUp f).scn = s.scn := rfl
@[simp] theorem State.ptpUp_legs (s : State) (f : Ptp → Ptp) : (s.ptpUp f).legs = s.legs := rfl
@[simp] theorem State.ptpUp_pwm (s : State) (f : Ptp → Ptp) : (s.ptpUp f).pwm = s.pwm := rfl
@[simp] theorem State.ptpUp_safe (s : State) (f : Ptp → Ptp) : (s.ptpUp f).safe = s.safe := rfl
@[simp] theorem State.ptpUp_dlCal (s : State) (f : Ptp → Ptp) : (s.ptpUp f).dlCal = s.dlCal := rfl
@[simp] theorem State.ptpUp_pins (s : State) (f : Ptp → Ptp) : (s.ptpUp f).pins = s.pins := rfl
@[simp] theorem State.ptpUp_sense (s : State) (f : Ptp → Ptp) : (s.ptpUp f).sense = s.sense := rfl
@[simp] theorem State.ptpUp_lanes (s : State) (f : Ptp → Ptp) : (s.ptpUp f).lanes = s.lanes := rfl
@[simp] theorem State.ptpUp_loops (s : State) (f : Ptp → Ptp) : (s.ptpUp f).loops = s.loops := rfl
@[simp] theorem State.ptpUp_lanePool (s : State) (f : Ptp → Ptp) : (s.ptpUp f).lanePool = s.lanePool := rfl
@[simp] theorem State.ptpUp_trace (s : State) (f : Ptp → Ptp) : (s.ptpUp f).trace = s.trace := rfl
@[simp] theorem State.ptpUp_vent (s : State) (f : Ptp → Ptp) : (s.ptpUp f).vent = s.vent := rfl
@[simp] theorem State.ptpUp_mem (s : State) (f : Ptp → Ptp) : (s.ptpUp f).mem = s.mem := rfl
@[simp] theorem State.ptpUp_bkg (s : State) (f : Ptp → Ptp) : (s.ptpUp f).bkg = s.bkg := rfl
@[simp] theorem State.ptpUp_rings (s : State) (f : Ptp → Ptp) : (s.ptpUp f).rings = s.rings := rfl
@[simp] theorem State.ptpUp_fab (s : State) (f : Ptp → Ptp) : (s.ptpUp f).fab = s.fab := rfl
@[simp] theorem State.ptpUp_twin (s : State) (f : Ptp → Ptp) : (s.ptpUp f).twin = s.twin := rfl
@[simp] theorem State.ptpUp_str (s : State) (f : Ptp → Ptp) : (s.ptpUp f).str = s.str := rfl
@[simp] theorem State.ptpUp_hst (s : State) (f : Ptp → Ptp) : (s.ptpUp f).hst = s.hst := rfl
@[simp] theorem State.ptpUp_pending (s : State) (f : Ptp → Ptp) : (s.ptpUp f).pending = s.pending := rfl
@[simp] theorem State.ptpUp_rd (s : State) (f : Ptp → Ptp) (a : Nat) : (s.ptpUp f).rd a = s.rd a := rfl
@[simp] theorem State.ptpUp_get (s : State) (f : Ptp → Ptp) (h : Fld) : (s.ptpUp f).get h = s.get h := rfl
@[simp] theorem State.ptpUp_getS (s : State) (f : Ptp → Ptp) (h : Fld) : (s.ptpUp f).getS h = s.getS h := rfl
@[simp] theorem State.ptpUp_on (s : State) (f : Ptp → Ptp) (h : Fld) : (s.ptpUp f).on h = s.on h := rfl
@[simp] theorem State.ptpUp_bank (s : State) (f : Ptp → Ptp) (j : Nat) : (s.ptpUp f).bank j = s.bank j := rfl
@[simp] theorem State.ptpUp_ain_ptp (s : State) (f : Ptp → Ptp) : (s.ptpUp f).ain.ptp = f s.ain.ptp := rfl
@[simp] theorem State.ptpUp_ain_streams (s : State) (f : Ptp → Ptp) : (s.ptpUp f).ain.streams = s.ain.streams := rfl
@[simp] theorem State.ptpUp_ain_sub (s : State) (f : Ptp → Ptp) : (s.ptpUp f).ain.sub = s.ain.sub := rfl
@[simp] theorem State.ptpUp_ain_pos (s : State) (f : Ptp → Ptp) : (s.ptpUp f).ain.pos = s.ain.pos := rfl
@[simp] theorem State.ptpUp_ain_tdm (s : State) (f : Ptp → Ptp) : (s.ptpUp f).ain.tdm = s.ain.tdm := rfl
@[simp] theorem State.ptpUp_ain_aes3 (s : State) (f : Ptp → Ptp) : (s.ptpUp f).ain.aes3 = s.ain.aes3 := rfl
@[simp] theorem State.ptpUp_ain_asrc (s : State) (f : Ptp → Ptp) : (s.ptpUp f).ain.asrc = s.ain.asrc := rfl
@[simp] theorem State.ptpUp_ain_interpPos (s : State) (f : Ptp → Ptp) : (s.ptpUp f).ain.interpPos = s.ain.interpPos := rfl
@[simp] theorem State.ptpUp_ain_interpTdm (s : State) (f : Ptp → Ptp) : (s.ptpUp f).ain.interpTdm = s.ain.interpTdm := rfl
@[simp] theorem State.ptpUp_ain_csLatch (s : State) (f : Ptp → Ptp) : (s.ptpUp f).ain.csLatch = s.ain.csLatch := rfl
@[simp] theorem State.ptpUp_ain_collect (s : State) (f : Ptp → Ptp) : (s.ptpUp f).ain.collect = s.ain.collect := rfl
@[simp] theorem State.ptpUp_ain_monitor (s : State) (f : Ptp → Ptp) : (s.ptpUp f).ain.monitor = s.ain.monitor := rfl

/-! ### State.streamUp -/

@[simp] theorem State.streamUp_regs (s : State) (i : Nat) (f : Stream → Stream) : (s.streamUp i f).regs = s.regs := rfl
@[simp] theorem State.streamUp_heldU (s : State) (i : Nat) (f : Stream → Stream) : (s.streamUp i f).heldU = s.heldU := rfl
@[simp] theorem State.streamUp_heldB (s : State) (i : Nat) (f : Stream → Stream) : (s.streamUp i f).heldB = s.heldB := rfl
@[simp] theorem State.streamUp_banks (s : State) (i : Nat) (f : Stream → Stream) : (s.streamUp i f).banks = s.banks := rfl
@[simp] theorem State.streamUp_conds (s : State) (i : Nat) (f : Stream → Stream) : (s.streamUp i f).conds = s.conds := rfl
@[simp] theorem State.streamUp_gates (s : State) (i : Nat) (f : Stream → Stream) : (s.streamUp i f).gates = s.gates := rfl
@[simp] theorem State.streamUp_rdata (s : State) (i : Nat) (f : Stream → Stream) : (s.streamUp i f).rdata = s.rdata := rfl
@[simp] theorem State.streamUp_free (s : State) (i : Nat) (f : Stream → Stream) : (s.streamUp i f).free = s.free := rfl
@[simp] theorem State.streamUp_sys (s : State) (i : Nat) (f : Stream → Stream) : (s.streamUp i f).sys = s.sys := rfl
@[simp] theorem State.streamUp_time (s : State) (i : Nat) (f : Stream → Stream) : (s.streamUp i f).time = s.time := rfl
@[simp] theorem State.streamUp_mb (s : State) (i : Nat) (f : Stream → Stream) : (s.streamUp i f).mb = s.mb := rfl
@[simp] theorem State.streamUp_scn (s : State) (i : Nat) (f : Stream → Stream) : (s.streamUp i f).scn = s.scn := rfl
@[simp] theorem State.streamUp_legs (s : State) (i : Nat) (f : Stream → Stream) : (s.streamUp i f).legs = s.legs := rfl
@[simp] theorem State.streamUp_pwm (s : State) (i : Nat) (f : Stream → Stream) : (s.streamUp i f).pwm = s.pwm := rfl
@[simp] theorem State.streamUp_safe (s : State) (i : Nat) (f : Stream → Stream) : (s.streamUp i f).safe = s.safe := rfl
@[simp] theorem State.streamUp_dlCal (s : State) (i : Nat) (f : Stream → Stream) : (s.streamUp i f).dlCal = s.dlCal := rfl
@[simp] theorem State.streamUp_pins (s : State) (i : Nat) (f : Stream → Stream) : (s.streamUp i f).pins = s.pins := rfl
@[simp] theorem State.streamUp_sense (s : State) (i : Nat) (f : Stream → Stream) : (s.streamUp i f).sense = s.sense := rfl
@[simp] theorem State.streamUp_lanes (s : State) (i : Nat) (f : Stream → Stream) : (s.streamUp i f).lanes = s.lanes := rfl
@[simp] theorem State.streamUp_loops (s : State) (i : Nat) (f : Stream → Stream) : (s.streamUp i f).loops = s.loops := rfl
@[simp] theorem State.streamUp_lanePool (s : State) (i : Nat) (f : Stream → Stream) : (s.streamUp i f).lanePool = s.lanePool := rfl
@[simp] theorem State.streamUp_trace (s : State) (i : Nat) (f : Stream → Stream) : (s.streamUp i f).trace = s.trace := rfl
@[simp] theorem State.streamUp_vent (s : State) (i : Nat) (f : Stream → Stream) : (s.streamUp i f).vent = s.vent := rfl
@[simp] theorem State.streamUp_mem (s : State) (i : Nat) (f : Stream → Stream) : (s.streamUp i f).mem = s.mem := rfl
@[simp] theorem State.streamUp_bkg (s : State) (i : Nat) (f : Stream → Stream) : (s.streamUp i f).bkg = s.bkg := rfl
@[simp] theorem State.streamUp_rings (s : State) (i : Nat) (f : Stream → Stream) : (s.streamUp i f).rings = s.rings := rfl
@[simp] theorem State.streamUp_fab (s : State) (i : Nat) (f : Stream → Stream) : (s.streamUp i f).fab = s.fab := rfl
@[simp] theorem State.streamUp_twin (s : State) (i : Nat) (f : Stream → Stream) : (s.streamUp i f).twin = s.twin := rfl
@[simp] theorem State.streamUp_str (s : State) (i : Nat) (f : Stream → Stream) : (s.streamUp i f).str = s.str := rfl
@[simp] theorem State.streamUp_hst (s : State) (i : Nat) (f : Stream → Stream) : (s.streamUp i f).hst = s.hst := rfl
@[simp] theorem State.streamUp_pending (s : State) (i : Nat) (f : Stream → Stream) : (s.streamUp i f).pending = s.pending := rfl
@[simp] theorem State.streamUp_rd (s : State) (i : Nat) (f : Stream → Stream) (a : Nat) : (s.streamUp i f).rd a = s.rd a := rfl
@[simp] theorem State.streamUp_get (s : State) (i : Nat) (f : Stream → Stream) (h : Fld) : (s.streamUp i f).get h = s.get h := rfl
@[simp] theorem State.streamUp_getS (s : State) (i : Nat) (f : Stream → Stream) (h : Fld) : (s.streamUp i f).getS h = s.getS h := rfl
@[simp] theorem State.streamUp_on (s : State) (i : Nat) (f : Stream → Stream) (h : Fld) : (s.streamUp i f).on h = s.on h := rfl
@[simp] theorem State.streamUp_bank (s : State) (i : Nat) (f : Stream → Stream) (j : Nat) : (s.streamUp i f).bank j = s.bank j := rfl
@[simp] theorem State.streamUp_ain_streams (s : State) (i : Nat) (f : Stream → Stream) : (s.streamUp i f).ain.streams = s.ain.streams.modify i f := rfl
@[simp] theorem State.streamUp_ain_ptp (s : State) (i : Nat) (f : Stream → Stream) : (s.streamUp i f).ain.ptp = s.ain.ptp := rfl
@[simp] theorem State.streamUp_ain_sub (s : State) (i : Nat) (f : Stream → Stream) : (s.streamUp i f).ain.sub = s.ain.sub := rfl
@[simp] theorem State.streamUp_ain_pos (s : State) (i : Nat) (f : Stream → Stream) : (s.streamUp i f).ain.pos = s.ain.pos := rfl
@[simp] theorem State.streamUp_ain_tdm (s : State) (i : Nat) (f : Stream → Stream) : (s.streamUp i f).ain.tdm = s.ain.tdm := rfl
@[simp] theorem State.streamUp_ain_aes3 (s : State) (i : Nat) (f : Stream → Stream) : (s.streamUp i f).ain.aes3 = s.ain.aes3 := rfl
@[simp] theorem State.streamUp_ain_asrc (s : State) (i : Nat) (f : Stream → Stream) : (s.streamUp i f).ain.asrc = s.ain.asrc := rfl
@[simp] theorem State.streamUp_ain_interpPos (s : State) (i : Nat) (f : Stream → Stream) : (s.streamUp i f).ain.interpPos = s.ain.interpPos := rfl
@[simp] theorem State.streamUp_ain_interpTdm (s : State) (i : Nat) (f : Stream → Stream) : (s.streamUp i f).ain.interpTdm = s.ain.interpTdm := rfl
@[simp] theorem State.streamUp_ain_csLatch (s : State) (i : Nat) (f : Stream → Stream) : (s.streamUp i f).ain.csLatch = s.ain.csLatch := rfl
@[simp] theorem State.streamUp_ain_collect (s : State) (i : Nat) (f : Stream → Stream) : (s.streamUp i f).ain.collect = s.ain.collect := rfl
@[simp] theorem State.streamUp_ain_monitor (s : State) (i : Nat) (f : Stream → Stream) : (s.streamUp i f).ain.monitor = s.ain.monitor := rfl

/-! ### State.tdmUp -/

@[simp] theorem State.tdmUp_regs (s : State) (i : Nat) (f : Tdm → Tdm) : (s.tdmUp i f).regs = s.regs := rfl
@[simp] theorem State.tdmUp_heldU (s : State) (i : Nat) (f : Tdm → Tdm) : (s.tdmUp i f).heldU = s.heldU := rfl
@[simp] theorem State.tdmUp_heldB (s : State) (i : Nat) (f : Tdm → Tdm) : (s.tdmUp i f).heldB = s.heldB := rfl
@[simp] theorem State.tdmUp_banks (s : State) (i : Nat) (f : Tdm → Tdm) : (s.tdmUp i f).banks = s.banks := rfl
@[simp] theorem State.tdmUp_conds (s : State) (i : Nat) (f : Tdm → Tdm) : (s.tdmUp i f).conds = s.conds := rfl
@[simp] theorem State.tdmUp_gates (s : State) (i : Nat) (f : Tdm → Tdm) : (s.tdmUp i f).gates = s.gates := rfl
@[simp] theorem State.tdmUp_rdata (s : State) (i : Nat) (f : Tdm → Tdm) : (s.tdmUp i f).rdata = s.rdata := rfl
@[simp] theorem State.tdmUp_free (s : State) (i : Nat) (f : Tdm → Tdm) : (s.tdmUp i f).free = s.free := rfl
@[simp] theorem State.tdmUp_sys (s : State) (i : Nat) (f : Tdm → Tdm) : (s.tdmUp i f).sys = s.sys := rfl
@[simp] theorem State.tdmUp_time (s : State) (i : Nat) (f : Tdm → Tdm) : (s.tdmUp i f).time = s.time := rfl
@[simp] theorem State.tdmUp_mb (s : State) (i : Nat) (f : Tdm → Tdm) : (s.tdmUp i f).mb = s.mb := rfl
@[simp] theorem State.tdmUp_scn (s : State) (i : Nat) (f : Tdm → Tdm) : (s.tdmUp i f).scn = s.scn := rfl
@[simp] theorem State.tdmUp_legs (s : State) (i : Nat) (f : Tdm → Tdm) : (s.tdmUp i f).legs = s.legs := rfl
@[simp] theorem State.tdmUp_pwm (s : State) (i : Nat) (f : Tdm → Tdm) : (s.tdmUp i f).pwm = s.pwm := rfl
@[simp] theorem State.tdmUp_safe (s : State) (i : Nat) (f : Tdm → Tdm) : (s.tdmUp i f).safe = s.safe := rfl
@[simp] theorem State.tdmUp_dlCal (s : State) (i : Nat) (f : Tdm → Tdm) : (s.tdmUp i f).dlCal = s.dlCal := rfl
@[simp] theorem State.tdmUp_pins (s : State) (i : Nat) (f : Tdm → Tdm) : (s.tdmUp i f).pins = s.pins := rfl
@[simp] theorem State.tdmUp_sense (s : State) (i : Nat) (f : Tdm → Tdm) : (s.tdmUp i f).sense = s.sense := rfl
@[simp] theorem State.tdmUp_lanes (s : State) (i : Nat) (f : Tdm → Tdm) : (s.tdmUp i f).lanes = s.lanes := rfl
@[simp] theorem State.tdmUp_loops (s : State) (i : Nat) (f : Tdm → Tdm) : (s.tdmUp i f).loops = s.loops := rfl
@[simp] theorem State.tdmUp_lanePool (s : State) (i : Nat) (f : Tdm → Tdm) : (s.tdmUp i f).lanePool = s.lanePool := rfl
@[simp] theorem State.tdmUp_trace (s : State) (i : Nat) (f : Tdm → Tdm) : (s.tdmUp i f).trace = s.trace := rfl
@[simp] theorem State.tdmUp_vent (s : State) (i : Nat) (f : Tdm → Tdm) : (s.tdmUp i f).vent = s.vent := rfl
@[simp] theorem State.tdmUp_mem (s : State) (i : Nat) (f : Tdm → Tdm) : (s.tdmUp i f).mem = s.mem := rfl
@[simp] theorem State.tdmUp_bkg (s : State) (i : Nat) (f : Tdm → Tdm) : (s.tdmUp i f).bkg = s.bkg := rfl
@[simp] theorem State.tdmUp_rings (s : State) (i : Nat) (f : Tdm → Tdm) : (s.tdmUp i f).rings = s.rings := rfl
@[simp] theorem State.tdmUp_fab (s : State) (i : Nat) (f : Tdm → Tdm) : (s.tdmUp i f).fab = s.fab := rfl
@[simp] theorem State.tdmUp_twin (s : State) (i : Nat) (f : Tdm → Tdm) : (s.tdmUp i f).twin = s.twin := rfl
@[simp] theorem State.tdmUp_str (s : State) (i : Nat) (f : Tdm → Tdm) : (s.tdmUp i f).str = s.str := rfl
@[simp] theorem State.tdmUp_hst (s : State) (i : Nat) (f : Tdm → Tdm) : (s.tdmUp i f).hst = s.hst := rfl
@[simp] theorem State.tdmUp_pending (s : State) (i : Nat) (f : Tdm → Tdm) : (s.tdmUp i f).pending = s.pending := rfl
@[simp] theorem State.tdmUp_rd (s : State) (i : Nat) (f : Tdm → Tdm) (a : Nat) : (s.tdmUp i f).rd a = s.rd a := rfl
@[simp] theorem State.tdmUp_get (s : State) (i : Nat) (f : Tdm → Tdm) (h : Fld) : (s.tdmUp i f).get h = s.get h := rfl
@[simp] theorem State.tdmUp_getS (s : State) (i : Nat) (f : Tdm → Tdm) (h : Fld) : (s.tdmUp i f).getS h = s.getS h := rfl
@[simp] theorem State.tdmUp_on (s : State) (i : Nat) (f : Tdm → Tdm) (h : Fld) : (s.tdmUp i f).on h = s.on h := rfl
@[simp] theorem State.tdmUp_bank (s : State) (i : Nat) (f : Tdm → Tdm) (j : Nat) : (s.tdmUp i f).bank j = s.bank j := rfl
@[simp] theorem State.tdmUp_ain_tdm (s : State) (i : Nat) (f : Tdm → Tdm) : (s.tdmUp i f).ain.tdm = s.ain.tdm.modify i f := rfl
@[simp] theorem State.tdmUp_ain_ptp (s : State) (i : Nat) (f : Tdm → Tdm) : (s.tdmUp i f).ain.ptp = s.ain.ptp := rfl
@[simp] theorem State.tdmUp_ain_streams (s : State) (i : Nat) (f : Tdm → Tdm) : (s.tdmUp i f).ain.streams = s.ain.streams := rfl
@[simp] theorem State.tdmUp_ain_sub (s : State) (i : Nat) (f : Tdm → Tdm) : (s.tdmUp i f).ain.sub = s.ain.sub := rfl
@[simp] theorem State.tdmUp_ain_pos (s : State) (i : Nat) (f : Tdm → Tdm) : (s.tdmUp i f).ain.pos = s.ain.pos := rfl
@[simp] theorem State.tdmUp_ain_aes3 (s : State) (i : Nat) (f : Tdm → Tdm) : (s.tdmUp i f).ain.aes3 = s.ain.aes3 := rfl
@[simp] theorem State.tdmUp_ain_asrc (s : State) (i : Nat) (f : Tdm → Tdm) : (s.tdmUp i f).ain.asrc = s.ain.asrc := rfl
@[simp] theorem State.tdmUp_ain_interpPos (s : State) (i : Nat) (f : Tdm → Tdm) : (s.tdmUp i f).ain.interpPos = s.ain.interpPos := rfl
@[simp] theorem State.tdmUp_ain_interpTdm (s : State) (i : Nat) (f : Tdm → Tdm) : (s.tdmUp i f).ain.interpTdm = s.ain.interpTdm := rfl
@[simp] theorem State.tdmUp_ain_csLatch (s : State) (i : Nat) (f : Tdm → Tdm) : (s.tdmUp i f).ain.csLatch = s.ain.csLatch := rfl
@[simp] theorem State.tdmUp_ain_collect (s : State) (i : Nat) (f : Tdm → Tdm) : (s.tdmUp i f).ain.collect = s.ain.collect := rfl
@[simp] theorem State.tdmUp_ain_monitor (s : State) (i : Nat) (f : Tdm → Tdm) : (s.tdmUp i f).ain.monitor = s.ain.monitor := rfl

/-! ### State.aesUp -/

@[simp] theorem State.aesUp_regs (s : State) (i : Nat) (f : Aes3 → Aes3) : (s.aesUp i f).regs = s.regs := rfl
@[simp] theorem State.aesUp_heldU (s : State) (i : Nat) (f : Aes3 → Aes3) : (s.aesUp i f).heldU = s.heldU := rfl
@[simp] theorem State.aesUp_heldB (s : State) (i : Nat) (f : Aes3 → Aes3) : (s.aesUp i f).heldB = s.heldB := rfl
@[simp] theorem State.aesUp_banks (s : State) (i : Nat) (f : Aes3 → Aes3) : (s.aesUp i f).banks = s.banks := rfl
@[simp] theorem State.aesUp_conds (s : State) (i : Nat) (f : Aes3 → Aes3) : (s.aesUp i f).conds = s.conds := rfl
@[simp] theorem State.aesUp_gates (s : State) (i : Nat) (f : Aes3 → Aes3) : (s.aesUp i f).gates = s.gates := rfl
@[simp] theorem State.aesUp_rdata (s : State) (i : Nat) (f : Aes3 → Aes3) : (s.aesUp i f).rdata = s.rdata := rfl
@[simp] theorem State.aesUp_free (s : State) (i : Nat) (f : Aes3 → Aes3) : (s.aesUp i f).free = s.free := rfl
@[simp] theorem State.aesUp_sys (s : State) (i : Nat) (f : Aes3 → Aes3) : (s.aesUp i f).sys = s.sys := rfl
@[simp] theorem State.aesUp_time (s : State) (i : Nat) (f : Aes3 → Aes3) : (s.aesUp i f).time = s.time := rfl
@[simp] theorem State.aesUp_mb (s : State) (i : Nat) (f : Aes3 → Aes3) : (s.aesUp i f).mb = s.mb := rfl
@[simp] theorem State.aesUp_scn (s : State) (i : Nat) (f : Aes3 → Aes3) : (s.aesUp i f).scn = s.scn := rfl
@[simp] theorem State.aesUp_legs (s : State) (i : Nat) (f : Aes3 → Aes3) : (s.aesUp i f).legs = s.legs := rfl
@[simp] theorem State.aesUp_pwm (s : State) (i : Nat) (f : Aes3 → Aes3) : (s.aesUp i f).pwm = s.pwm := rfl
@[simp] theorem State.aesUp_safe (s : State) (i : Nat) (f : Aes3 → Aes3) : (s.aesUp i f).safe = s.safe := rfl
@[simp] theorem State.aesUp_dlCal (s : State) (i : Nat) (f : Aes3 → Aes3) : (s.aesUp i f).dlCal = s.dlCal := rfl
@[simp] theorem State.aesUp_pins (s : State) (i : Nat) (f : Aes3 → Aes3) : (s.aesUp i f).pins = s.pins := rfl
@[simp] theorem State.aesUp_sense (s : State) (i : Nat) (f : Aes3 → Aes3) : (s.aesUp i f).sense = s.sense := rfl
@[simp] theorem State.aesUp_lanes (s : State) (i : Nat) (f : Aes3 → Aes3) : (s.aesUp i f).lanes = s.lanes := rfl
@[simp] theorem State.aesUp_loops (s : State) (i : Nat) (f : Aes3 → Aes3) : (s.aesUp i f).loops = s.loops := rfl
@[simp] theorem State.aesUp_lanePool (s : State) (i : Nat) (f : Aes3 → Aes3) : (s.aesUp i f).lanePool = s.lanePool := rfl
@[simp] theorem State.aesUp_trace (s : State) (i : Nat) (f : Aes3 → Aes3) : (s.aesUp i f).trace = s.trace := rfl
@[simp] theorem State.aesUp_vent (s : State) (i : Nat) (f : Aes3 → Aes3) : (s.aesUp i f).vent = s.vent := rfl
@[simp] theorem State.aesUp_mem (s : State) (i : Nat) (f : Aes3 → Aes3) : (s.aesUp i f).mem = s.mem := rfl
@[simp] theorem State.aesUp_bkg (s : State) (i : Nat) (f : Aes3 → Aes3) : (s.aesUp i f).bkg = s.bkg := rfl
@[simp] theorem State.aesUp_rings (s : State) (i : Nat) (f : Aes3 → Aes3) : (s.aesUp i f).rings = s.rings := rfl
@[simp] theorem State.aesUp_fab (s : State) (i : Nat) (f : Aes3 → Aes3) : (s.aesUp i f).fab = s.fab := rfl
@[simp] theorem State.aesUp_twin (s : State) (i : Nat) (f : Aes3 → Aes3) : (s.aesUp i f).twin = s.twin := rfl
@[simp] theorem State.aesUp_str (s : State) (i : Nat) (f : Aes3 → Aes3) : (s.aesUp i f).str = s.str := rfl
@[simp] theorem State.aesUp_hst (s : State) (i : Nat) (f : Aes3 → Aes3) : (s.aesUp i f).hst = s.hst := rfl
@[simp] theorem State.aesUp_pending (s : State) (i : Nat) (f : Aes3 → Aes3) : (s.aesUp i f).pending = s.pending := rfl
@[simp] theorem State.aesUp_rd (s : State) (i : Nat) (f : Aes3 → Aes3) (a : Nat) : (s.aesUp i f).rd a = s.rd a := rfl
@[simp] theorem State.aesUp_get (s : State) (i : Nat) (f : Aes3 → Aes3) (h : Fld) : (s.aesUp i f).get h = s.get h := rfl
@[simp] theorem State.aesUp_getS (s : State) (i : Nat) (f : Aes3 → Aes3) (h : Fld) : (s.aesUp i f).getS h = s.getS h := rfl
@[simp] theorem State.aesUp_on (s : State) (i : Nat) (f : Aes3 → Aes3) (h : Fld) : (s.aesUp i f).on h = s.on h := rfl
@[simp] theorem State.aesUp_bank (s : State) (i : Nat) (f : Aes3 → Aes3) (j : Nat) : (s.aesUp i f).bank j = s.bank j := rfl
@[simp] theorem State.aesUp_ain_aes3 (s : State) (i : Nat) (f : Aes3 → Aes3) : (s.aesUp i f).ain.aes3 = s.ain.aes3.modify i f := rfl
@[simp] theorem State.aesUp_ain_ptp (s : State) (i : Nat) (f : Aes3 → Aes3) : (s.aesUp i f).ain.ptp = s.ain.ptp := rfl
@[simp] theorem State.aesUp_ain_streams (s : State) (i : Nat) (f : Aes3 → Aes3) : (s.aesUp i f).ain.streams = s.ain.streams := rfl
@[simp] theorem State.aesUp_ain_sub (s : State) (i : Nat) (f : Aes3 → Aes3) : (s.aesUp i f).ain.sub = s.ain.sub := rfl
@[simp] theorem State.aesUp_ain_pos (s : State) (i : Nat) (f : Aes3 → Aes3) : (s.aesUp i f).ain.pos = s.ain.pos := rfl
@[simp] theorem State.aesUp_ain_tdm (s : State) (i : Nat) (f : Aes3 → Aes3) : (s.aesUp i f).ain.tdm = s.ain.tdm := rfl
@[simp] theorem State.aesUp_ain_asrc (s : State) (i : Nat) (f : Aes3 → Aes3) : (s.aesUp i f).ain.asrc = s.ain.asrc := rfl
@[simp] theorem State.aesUp_ain_interpPos (s : State) (i : Nat) (f : Aes3 → Aes3) : (s.aesUp i f).ain.interpPos = s.ain.interpPos := rfl
@[simp] theorem State.aesUp_ain_interpTdm (s : State) (i : Nat) (f : Aes3 → Aes3) : (s.aesUp i f).ain.interpTdm = s.ain.interpTdm := rfl
@[simp] theorem State.aesUp_ain_csLatch (s : State) (i : Nat) (f : Aes3 → Aes3) : (s.aesUp i f).ain.csLatch = s.ain.csLatch := rfl
@[simp] theorem State.aesUp_ain_collect (s : State) (i : Nat) (f : Aes3 → Aes3) : (s.aesUp i f).ain.collect = s.ain.collect := rfl
@[simp] theorem State.aesUp_ain_monitor (s : State) (i : Nat) (f : Aes3 → Aes3) : (s.aesUp i f).ain.monitor = s.ain.monitor := rfl

/-! ### State.asrcUp -/

@[simp] theorem State.asrcUp_regs (s : State) (i : Nat) (f : Asrc → Asrc) : (s.asrcUp i f).regs = s.regs := rfl
@[simp] theorem State.asrcUp_heldU (s : State) (i : Nat) (f : Asrc → Asrc) : (s.asrcUp i f).heldU = s.heldU := rfl
@[simp] theorem State.asrcUp_heldB (s : State) (i : Nat) (f : Asrc → Asrc) : (s.asrcUp i f).heldB = s.heldB := rfl
@[simp] theorem State.asrcUp_banks (s : State) (i : Nat) (f : Asrc → Asrc) : (s.asrcUp i f).banks = s.banks := rfl
@[simp] theorem State.asrcUp_conds (s : State) (i : Nat) (f : Asrc → Asrc) : (s.asrcUp i f).conds = s.conds := rfl
@[simp] theorem State.asrcUp_gates (s : State) (i : Nat) (f : Asrc → Asrc) : (s.asrcUp i f).gates = s.gates := rfl
@[simp] theorem State.asrcUp_rdata (s : State) (i : Nat) (f : Asrc → Asrc) : (s.asrcUp i f).rdata = s.rdata := rfl
@[simp] theorem State.asrcUp_free (s : State) (i : Nat) (f : Asrc → Asrc) : (s.asrcUp i f).free = s.free := rfl
@[simp] theorem State.asrcUp_sys (s : State) (i : Nat) (f : Asrc → Asrc) : (s.asrcUp i f).sys = s.sys := rfl
@[simp] theorem State.asrcUp_time (s : State) (i : Nat) (f : Asrc → Asrc) : (s.asrcUp i f).time = s.time := rfl
@[simp] theorem State.asrcUp_mb (s : State) (i : Nat) (f : Asrc → Asrc) : (s.asrcUp i f).mb = s.mb := rfl
@[simp] theorem State.asrcUp_scn (s : State) (i : Nat) (f : Asrc → Asrc) : (s.asrcUp i f).scn = s.scn := rfl
@[simp] theorem State.asrcUp_legs (s : State) (i : Nat) (f : Asrc → Asrc) : (s.asrcUp i f).legs = s.legs := rfl
@[simp] theorem State.asrcUp_pwm (s : State) (i : Nat) (f : Asrc → Asrc) : (s.asrcUp i f).pwm = s.pwm := rfl
@[simp] theorem State.asrcUp_safe (s : State) (i : Nat) (f : Asrc → Asrc) : (s.asrcUp i f).safe = s.safe := rfl
@[simp] theorem State.asrcUp_dlCal (s : State) (i : Nat) (f : Asrc → Asrc) : (s.asrcUp i f).dlCal = s.dlCal := rfl
@[simp] theorem State.asrcUp_pins (s : State) (i : Nat) (f : Asrc → Asrc) : (s.asrcUp i f).pins = s.pins := rfl
@[simp] theorem State.asrcUp_sense (s : State) (i : Nat) (f : Asrc → Asrc) : (s.asrcUp i f).sense = s.sense := rfl
@[simp] theorem State.asrcUp_lanes (s : State) (i : Nat) (f : Asrc → Asrc) : (s.asrcUp i f).lanes = s.lanes := rfl
@[simp] theorem State.asrcUp_loops (s : State) (i : Nat) (f : Asrc → Asrc) : (s.asrcUp i f).loops = s.loops := rfl
@[simp] theorem State.asrcUp_lanePool (s : State) (i : Nat) (f : Asrc → Asrc) : (s.asrcUp i f).lanePool = s.lanePool := rfl
@[simp] theorem State.asrcUp_trace (s : State) (i : Nat) (f : Asrc → Asrc) : (s.asrcUp i f).trace = s.trace := rfl
@[simp] theorem State.asrcUp_vent (s : State) (i : Nat) (f : Asrc → Asrc) : (s.asrcUp i f).vent = s.vent := rfl
@[simp] theorem State.asrcUp_mem (s : State) (i : Nat) (f : Asrc → Asrc) : (s.asrcUp i f).mem = s.mem := rfl
@[simp] theorem State.asrcUp_bkg (s : State) (i : Nat) (f : Asrc → Asrc) : (s.asrcUp i f).bkg = s.bkg := rfl
@[simp] theorem State.asrcUp_rings (s : State) (i : Nat) (f : Asrc → Asrc) : (s.asrcUp i f).rings = s.rings := rfl
@[simp] theorem State.asrcUp_fab (s : State) (i : Nat) (f : Asrc → Asrc) : (s.asrcUp i f).fab = s.fab := rfl
@[simp] theorem State.asrcUp_twin (s : State) (i : Nat) (f : Asrc → Asrc) : (s.asrcUp i f).twin = s.twin := rfl
@[simp] theorem State.asrcUp_str (s : State) (i : Nat) (f : Asrc → Asrc) : (s.asrcUp i f).str = s.str := rfl
@[simp] theorem State.asrcUp_hst (s : State) (i : Nat) (f : Asrc → Asrc) : (s.asrcUp i f).hst = s.hst := rfl
@[simp] theorem State.asrcUp_pending (s : State) (i : Nat) (f : Asrc → Asrc) : (s.asrcUp i f).pending = s.pending := rfl
@[simp] theorem State.asrcUp_rd (s : State) (i : Nat) (f : Asrc → Asrc) (a : Nat) : (s.asrcUp i f).rd a = s.rd a := rfl
@[simp] theorem State.asrcUp_get (s : State) (i : Nat) (f : Asrc → Asrc) (h : Fld) : (s.asrcUp i f).get h = s.get h := rfl
@[simp] theorem State.asrcUp_getS (s : State) (i : Nat) (f : Asrc → Asrc) (h : Fld) : (s.asrcUp i f).getS h = s.getS h := rfl
@[simp] theorem State.asrcUp_on (s : State) (i : Nat) (f : Asrc → Asrc) (h : Fld) : (s.asrcUp i f).on h = s.on h := rfl
@[simp] theorem State.asrcUp_bank (s : State) (i : Nat) (f : Asrc → Asrc) (j : Nat) : (s.asrcUp i f).bank j = s.bank j := rfl
@[simp] theorem State.asrcUp_ain_asrc (s : State) (i : Nat) (f : Asrc → Asrc) : (s.asrcUp i f).ain.asrc = s.ain.asrc.modify i f := rfl
@[simp] theorem State.asrcUp_ain_ptp (s : State) (i : Nat) (f : Asrc → Asrc) : (s.asrcUp i f).ain.ptp = s.ain.ptp := rfl
@[simp] theorem State.asrcUp_ain_streams (s : State) (i : Nat) (f : Asrc → Asrc) : (s.asrcUp i f).ain.streams = s.ain.streams := rfl
@[simp] theorem State.asrcUp_ain_sub (s : State) (i : Nat) (f : Asrc → Asrc) : (s.asrcUp i f).ain.sub = s.ain.sub := rfl
@[simp] theorem State.asrcUp_ain_pos (s : State) (i : Nat) (f : Asrc → Asrc) : (s.asrcUp i f).ain.pos = s.ain.pos := rfl
@[simp] theorem State.asrcUp_ain_tdm (s : State) (i : Nat) (f : Asrc → Asrc) : (s.asrcUp i f).ain.tdm = s.ain.tdm := rfl
@[simp] theorem State.asrcUp_ain_aes3 (s : State) (i : Nat) (f : Asrc → Asrc) : (s.asrcUp i f).ain.aes3 = s.ain.aes3 := rfl
@[simp] theorem State.asrcUp_ain_interpPos (s : State) (i : Nat) (f : Asrc → Asrc) : (s.asrcUp i f).ain.interpPos = s.ain.interpPos := rfl
@[simp] theorem State.asrcUp_ain_interpTdm (s : State) (i : Nat) (f : Asrc → Asrc) : (s.asrcUp i f).ain.interpTdm = s.ain.interpTdm := rfl
@[simp] theorem State.asrcUp_ain_csLatch (s : State) (i : Nat) (f : Asrc → Asrc) : (s.asrcUp i f).ain.csLatch = s.ain.csLatch := rfl
@[simp] theorem State.asrcUp_ain_collect (s : State) (i : Nat) (f : Asrc → Asrc) : (s.asrcUp i f).ain.collect = s.ain.collect := rfl
@[simp] theorem State.asrcUp_ain_monitor (s : State) (i : Nat) (f : Asrc → Asrc) : (s.asrcUp i f).ain.monitor = s.ain.monitor := rfl

/-! ### State.mbUp -/

@[simp] theorem State.mbUp_regs (s : State) (c : Nat) (f : MbChan → MbChan) : (s.mbUp c f).regs = s.regs := rfl
@[simp] theorem State.mbUp_heldU (s : State) (c : Nat) (f : MbChan → MbChan) : (s.mbUp c f).heldU = s.heldU := rfl
@[simp] theorem State.mbUp_heldB (s : State) (c : Nat) (f : MbChan → MbChan) : (s.mbUp c f).heldB = s.heldB := rfl
@[simp] theorem State.mbUp_banks (s : State) (c : Nat) (f : MbChan → MbChan) : (s.mbUp c f).banks = s.banks := rfl
@[simp] theorem State.mbUp_conds (s : State) (c : Nat) (f : MbChan → MbChan) : (s.mbUp c f).conds = s.conds := rfl
@[simp] theorem State.mbUp_gates (s : State) (c : Nat) (f : MbChan → MbChan) : (s.mbUp c f).gates = s.gates := rfl
@[simp] theorem State.mbUp_rdata (s : State) (c : Nat) (f : MbChan → MbChan) : (s.mbUp c f).rdata = s.rdata := rfl
@[simp] theorem State.mbUp_free (s : State) (c : Nat) (f : MbChan → MbChan) : (s.mbUp c f).free = s.free := rfl
@[simp] theorem State.mbUp_sys (s : State) (c : Nat) (f : MbChan → MbChan) : (s.mbUp c f).sys = s.sys := rfl
@[simp] theorem State.mbUp_time (s : State) (c : Nat) (f : MbChan → MbChan) : (s.mbUp c f).time = s.time := rfl
@[simp] theorem State.mbUp_ain (s : State) (c : Nat) (f : MbChan → MbChan) : (s.mbUp c f).ain = s.ain := rfl
@[simp] theorem State.mbUp_scn (s : State) (c : Nat) (f : MbChan → MbChan) : (s.mbUp c f).scn = s.scn := rfl
@[simp] theorem State.mbUp_legs (s : State) (c : Nat) (f : MbChan → MbChan) : (s.mbUp c f).legs = s.legs := rfl
@[simp] theorem State.mbUp_pwm (s : State) (c : Nat) (f : MbChan → MbChan) : (s.mbUp c f).pwm = s.pwm := rfl
@[simp] theorem State.mbUp_safe (s : State) (c : Nat) (f : MbChan → MbChan) : (s.mbUp c f).safe = s.safe := rfl
@[simp] theorem State.mbUp_dlCal (s : State) (c : Nat) (f : MbChan → MbChan) : (s.mbUp c f).dlCal = s.dlCal := rfl
@[simp] theorem State.mbUp_pins (s : State) (c : Nat) (f : MbChan → MbChan) : (s.mbUp c f).pins = s.pins := rfl
@[simp] theorem State.mbUp_sense (s : State) (c : Nat) (f : MbChan → MbChan) : (s.mbUp c f).sense = s.sense := rfl
@[simp] theorem State.mbUp_lanes (s : State) (c : Nat) (f : MbChan → MbChan) : (s.mbUp c f).lanes = s.lanes := rfl
@[simp] theorem State.mbUp_loops (s : State) (c : Nat) (f : MbChan → MbChan) : (s.mbUp c f).loops = s.loops := rfl
@[simp] theorem State.mbUp_lanePool (s : State) (c : Nat) (f : MbChan → MbChan) : (s.mbUp c f).lanePool = s.lanePool := rfl
@[simp] theorem State.mbUp_trace (s : State) (c : Nat) (f : MbChan → MbChan) : (s.mbUp c f).trace = s.trace := rfl
@[simp] theorem State.mbUp_vent (s : State) (c : Nat) (f : MbChan → MbChan) : (s.mbUp c f).vent = s.vent := rfl
@[simp] theorem State.mbUp_mem (s : State) (c : Nat) (f : MbChan → MbChan) : (s.mbUp c f).mem = s.mem := rfl
@[simp] theorem State.mbUp_bkg (s : State) (c : Nat) (f : MbChan → MbChan) : (s.mbUp c f).bkg = s.bkg := rfl
@[simp] theorem State.mbUp_rings (s : State) (c : Nat) (f : MbChan → MbChan) : (s.mbUp c f).rings = s.rings := rfl
@[simp] theorem State.mbUp_fab (s : State) (c : Nat) (f : MbChan → MbChan) : (s.mbUp c f).fab = s.fab := rfl
@[simp] theorem State.mbUp_twin (s : State) (c : Nat) (f : MbChan → MbChan) : (s.mbUp c f).twin = s.twin := rfl
@[simp] theorem State.mbUp_str (s : State) (c : Nat) (f : MbChan → MbChan) : (s.mbUp c f).str = s.str := rfl
@[simp] theorem State.mbUp_hst (s : State) (c : Nat) (f : MbChan → MbChan) : (s.mbUp c f).hst = s.hst := rfl
@[simp] theorem State.mbUp_pending (s : State) (c : Nat) (f : MbChan → MbChan) : (s.mbUp c f).pending = s.pending := rfl
@[simp] theorem State.mbUp_rd (s : State) (c : Nat) (f : MbChan → MbChan) (a : Nat) : (s.mbUp c f).rd a = s.rd a := rfl
@[simp] theorem State.mbUp_get (s : State) (c : Nat) (f : MbChan → MbChan) (h : Fld) : (s.mbUp c f).get h = s.get h := rfl
@[simp] theorem State.mbUp_getS (s : State) (c : Nat) (f : MbChan → MbChan) (h : Fld) : (s.mbUp c f).getS h = s.getS h := rfl
@[simp] theorem State.mbUp_on (s : State) (c : Nat) (f : MbChan → MbChan) (h : Fld) : (s.mbUp c f).on h = s.on h := rfl
@[simp] theorem State.mbUp_bank (s : State) (c : Nat) (f : MbChan → MbChan) (j : Nat) : (s.mbUp c f).bank j = s.bank j := rfl
@[simp] theorem State.mbUp_mb_chans (s : State) (c : Nat) (f : MbChan → MbChan) : (s.mbUp c f).mb.chans = s.mb.chans.modify c f := rfl
@[simp] theorem State.mbUp_mb_done (s : State) (c : Nat) (f : MbChan → MbChan) : (s.mbUp c f).mb.done = s.mb.done := rfl
@[simp] theorem State.mbUp_mb_input (s : State) (c : Nat) (f : MbChan → MbChan) : (s.mbUp c f).mb.input = s.mb.input := rfl
@[simp] theorem State.mbUp_mb_overruns (s : State) (c : Nat) (f : MbChan → MbChan) : (s.mbUp c f).mb.overruns = s.mb.overruns := rfl
@[simp] theorem State.mbUp_mb_swapDue (s : State) (c : Nat) (f : MbChan → MbChan) : (s.mbUp c f).mb.swapDue = s.mb.swapDue := rfl
@[simp] theorem State.mbUp_mb_ue (s : State) (c : Nat) (f : MbChan → MbChan) : (s.mbUp c f).mb.ue = s.mb.ue := rfl
@[simp] theorem State.mbUp_mb_liveBank (s : State) (c : Nat) (f : MbChan → MbChan) : (s.mbUp c f).mb.liveBank = s.mb.liveBank := rfl
@[simp] theorem State.mbUp_mb_liveTab (s : State) (c : Nat) (f : MbChan → MbChan) : (s.mbUp c f).mb.liveTab = s.mb.liveTab := rfl

/-! ### State.ventUp -/

@[simp] theorem State.ventUp_regs (s : State) (c : Nat) (f : VentChan → VentChan) : (s.ventUp c f).regs = s.regs := rfl
@[simp] theorem State.ventUp_heldU (s : State) (c : Nat) (f : VentChan → VentChan) : (s.ventUp c f).heldU = s.heldU := rfl
@[simp] theorem State.ventUp_heldB (s : State) (c : Nat) (f : VentChan → VentChan) : (s.ventUp c f).heldB = s.heldB := rfl
@[simp] theorem State.ventUp_banks (s : State) (c : Nat) (f : VentChan → VentChan) : (s.ventUp c f).banks = s.banks := rfl
@[simp] theorem State.ventUp_conds (s : State) (c : Nat) (f : VentChan → VentChan) : (s.ventUp c f).conds = s.conds := rfl
@[simp] theorem State.ventUp_gates (s : State) (c : Nat) (f : VentChan → VentChan) : (s.ventUp c f).gates = s.gates := rfl
@[simp] theorem State.ventUp_rdata (s : State) (c : Nat) (f : VentChan → VentChan) : (s.ventUp c f).rdata = s.rdata := rfl
@[simp] theorem State.ventUp_free (s : State) (c : Nat) (f : VentChan → VentChan) : (s.ventUp c f).free = s.free := rfl
@[simp] theorem State.ventUp_sys (s : State) (c : Nat) (f : VentChan → VentChan) : (s.ventUp c f).sys = s.sys := rfl
@[simp] theorem State.ventUp_time (s : State) (c : Nat) (f : VentChan → VentChan) : (s.ventUp c f).time = s.time := rfl
@[simp] theorem State.ventUp_ain (s : State) (c : Nat) (f : VentChan → VentChan) : (s.ventUp c f).ain = s.ain := rfl
@[simp] theorem State.ventUp_mb (s : State) (c : Nat) (f : VentChan → VentChan) : (s.ventUp c f).mb = s.mb := rfl
@[simp] theorem State.ventUp_scn (s : State) (c : Nat) (f : VentChan → VentChan) : (s.ventUp c f).scn = s.scn := rfl
@[simp] theorem State.ventUp_legs (s : State) (c : Nat) (f : VentChan → VentChan) : (s.ventUp c f).legs = s.legs := rfl
@[simp] theorem State.ventUp_pwm (s : State) (c : Nat) (f : VentChan → VentChan) : (s.ventUp c f).pwm = s.pwm := rfl
@[simp] theorem State.ventUp_safe (s : State) (c : Nat) (f : VentChan → VentChan) : (s.ventUp c f).safe = s.safe := rfl
@[simp] theorem State.ventUp_dlCal (s : State) (c : Nat) (f : VentChan → VentChan) : (s.ventUp c f).dlCal = s.dlCal := rfl
@[simp] theorem State.ventUp_pins (s : State) (c : Nat) (f : VentChan → VentChan) : (s.ventUp c f).pins = s.pins := rfl
@[simp] theorem State.ventUp_sense (s : State) (c : Nat) (f : VentChan → VentChan) : (s.ventUp c f).sense = s.sense := rfl
@[simp] theorem State.ventUp_lanes (s : State) (c : Nat) (f : VentChan → VentChan) : (s.ventUp c f).lanes = s.lanes := rfl
@[simp] theorem State.ventUp_loops (s : State) (c : Nat) (f : VentChan → VentChan) : (s.ventUp c f).loops = s.loops := rfl
@[simp] theorem State.ventUp_lanePool (s : State) (c : Nat) (f : VentChan → VentChan) : (s.ventUp c f).lanePool = s.lanePool := rfl
@[simp] theorem State.ventUp_trace (s : State) (c : Nat) (f : VentChan → VentChan) : (s.ventUp c f).trace = s.trace := rfl
@[simp] theorem State.ventUp_mem (s : State) (c : Nat) (f : VentChan → VentChan) : (s.ventUp c f).mem = s.mem := rfl
@[simp] theorem State.ventUp_bkg (s : State) (c : Nat) (f : VentChan → VentChan) : (s.ventUp c f).bkg = s.bkg := rfl
@[simp] theorem State.ventUp_rings (s : State) (c : Nat) (f : VentChan → VentChan) : (s.ventUp c f).rings = s.rings := rfl
@[simp] theorem State.ventUp_fab (s : State) (c : Nat) (f : VentChan → VentChan) : (s.ventUp c f).fab = s.fab := rfl
@[simp] theorem State.ventUp_twin (s : State) (c : Nat) (f : VentChan → VentChan) : (s.ventUp c f).twin = s.twin := rfl
@[simp] theorem State.ventUp_str (s : State) (c : Nat) (f : VentChan → VentChan) : (s.ventUp c f).str = s.str := rfl
@[simp] theorem State.ventUp_hst (s : State) (c : Nat) (f : VentChan → VentChan) : (s.ventUp c f).hst = s.hst := rfl
@[simp] theorem State.ventUp_pending (s : State) (c : Nat) (f : VentChan → VentChan) : (s.ventUp c f).pending = s.pending := rfl
@[simp] theorem State.ventUp_rd (s : State) (c : Nat) (f : VentChan → VentChan) (a : Nat) : (s.ventUp c f).rd a = s.rd a := rfl
@[simp] theorem State.ventUp_get (s : State) (c : Nat) (f : VentChan → VentChan) (h : Fld) : (s.ventUp c f).get h = s.get h := rfl
@[simp] theorem State.ventUp_getS (s : State) (c : Nat) (f : VentChan → VentChan) (h : Fld) : (s.ventUp c f).getS h = s.getS h := rfl
@[simp] theorem State.ventUp_on (s : State) (c : Nat) (f : VentChan → VentChan) (h : Fld) : (s.ventUp c f).on h = s.on h := rfl
@[simp] theorem State.ventUp_bank (s : State) (c : Nat) (f : VentChan → VentChan) (j : Nat) : (s.ventUp c f).bank j = s.bank j := rfl
@[simp] theorem State.ventUp_vent_chans (s : State) (c : Nat) (f : VentChan → VentChan) : (s.ventUp c f).vent.chans = s.vent.chans.modify c f := rfl
@[simp] theorem State.ventUp_vent_cores (s : State) (c : Nat) (f : VentChan → VentChan) : (s.ventUp c f).vent.cores = s.vent.cores := rfl
@[simp] theorem State.ventUp_vent_latch (s : State) (c : Nat) (f : VentChan → VentChan) : (s.ventUp c f).vent.latch = s.vent.latch := rfl

/-! ### State.modelUp -/

@[simp] theorem State.modelUp_regs (s : State) (c : Nat) (f : VentModel → VentModel) : (s.modelUp c f).regs = s.regs := rfl
@[simp] theorem State.modelUp_heldU (s : State) (c : Nat) (f : VentModel → VentModel) : (s.modelUp c f).heldU = s.heldU := rfl
@[simp] theorem State.modelUp_heldB (s : State) (c : Nat) (f : VentModel → VentModel) : (s.modelUp c f).heldB = s.heldB := rfl
@[simp] theorem State.modelUp_banks (s : State) (c : Nat) (f : VentModel → VentModel) : (s.modelUp c f).banks = s.banks := rfl
@[simp] theorem State.modelUp_conds (s : State) (c : Nat) (f : VentModel → VentModel) : (s.modelUp c f).conds = s.conds := rfl
@[simp] theorem State.modelUp_gates (s : State) (c : Nat) (f : VentModel → VentModel) : (s.modelUp c f).gates = s.gates := rfl
@[simp] theorem State.modelUp_rdata (s : State) (c : Nat) (f : VentModel → VentModel) : (s.modelUp c f).rdata = s.rdata := rfl
@[simp] theorem State.modelUp_free (s : State) (c : Nat) (f : VentModel → VentModel) : (s.modelUp c f).free = s.free := rfl
@[simp] theorem State.modelUp_sys (s : State) (c : Nat) (f : VentModel → VentModel) : (s.modelUp c f).sys = s.sys := rfl
@[simp] theorem State.modelUp_time (s : State) (c : Nat) (f : VentModel → VentModel) : (s.modelUp c f).time = s.time := rfl
@[simp] theorem State.modelUp_ain (s : State) (c : Nat) (f : VentModel → VentModel) : (s.modelUp c f).ain = s.ain := rfl
@[simp] theorem State.modelUp_mb (s : State) (c : Nat) (f : VentModel → VentModel) : (s.modelUp c f).mb = s.mb := rfl
@[simp] theorem State.modelUp_scn (s : State) (c : Nat) (f : VentModel → VentModel) : (s.modelUp c f).scn = s.scn := rfl
@[simp] theorem State.modelUp_legs (s : State) (c : Nat) (f : VentModel → VentModel) : (s.modelUp c f).legs = s.legs := rfl
@[simp] theorem State.modelUp_pwm (s : State) (c : Nat) (f : VentModel → VentModel) : (s.modelUp c f).pwm = s.pwm := rfl
@[simp] theorem State.modelUp_safe (s : State) (c : Nat) (f : VentModel → VentModel) : (s.modelUp c f).safe = s.safe := rfl
@[simp] theorem State.modelUp_dlCal (s : State) (c : Nat) (f : VentModel → VentModel) : (s.modelUp c f).dlCal = s.dlCal := rfl
@[simp] theorem State.modelUp_pins (s : State) (c : Nat) (f : VentModel → VentModel) : (s.modelUp c f).pins = s.pins := rfl
@[simp] theorem State.modelUp_sense (s : State) (c : Nat) (f : VentModel → VentModel) : (s.modelUp c f).sense = s.sense := rfl
@[simp] theorem State.modelUp_lanes (s : State) (c : Nat) (f : VentModel → VentModel) : (s.modelUp c f).lanes = s.lanes := rfl
@[simp] theorem State.modelUp_loops (s : State) (c : Nat) (f : VentModel → VentModel) : (s.modelUp c f).loops = s.loops := rfl
@[simp] theorem State.modelUp_lanePool (s : State) (c : Nat) (f : VentModel → VentModel) : (s.modelUp c f).lanePool = s.lanePool := rfl
@[simp] theorem State.modelUp_trace (s : State) (c : Nat) (f : VentModel → VentModel) : (s.modelUp c f).trace = s.trace := rfl
@[simp] theorem State.modelUp_mem (s : State) (c : Nat) (f : VentModel → VentModel) : (s.modelUp c f).mem = s.mem := rfl
@[simp] theorem State.modelUp_bkg (s : State) (c : Nat) (f : VentModel → VentModel) : (s.modelUp c f).bkg = s.bkg := rfl
@[simp] theorem State.modelUp_rings (s : State) (c : Nat) (f : VentModel → VentModel) : (s.modelUp c f).rings = s.rings := rfl
@[simp] theorem State.modelUp_fab (s : State) (c : Nat) (f : VentModel → VentModel) : (s.modelUp c f).fab = s.fab := rfl
@[simp] theorem State.modelUp_twin (s : State) (c : Nat) (f : VentModel → VentModel) : (s.modelUp c f).twin = s.twin := rfl
@[simp] theorem State.modelUp_str (s : State) (c : Nat) (f : VentModel → VentModel) : (s.modelUp c f).str = s.str := rfl
@[simp] theorem State.modelUp_hst (s : State) (c : Nat) (f : VentModel → VentModel) : (s.modelUp c f).hst = s.hst := rfl
@[simp] theorem State.modelUp_pending (s : State) (c : Nat) (f : VentModel → VentModel) : (s.modelUp c f).pending = s.pending := rfl
@[simp] theorem State.modelUp_rd (s : State) (c : Nat) (f : VentModel → VentModel) (a : Nat) : (s.modelUp c f).rd a = s.rd a := rfl
@[simp] theorem State.modelUp_get (s : State) (c : Nat) (f : VentModel → VentModel) (h : Fld) : (s.modelUp c f).get h = s.get h := rfl
@[simp] theorem State.modelUp_getS (s : State) (c : Nat) (f : VentModel → VentModel) (h : Fld) : (s.modelUp c f).getS h = s.getS h := rfl
@[simp] theorem State.modelUp_on (s : State) (c : Nat) (f : VentModel → VentModel) (h : Fld) : (s.modelUp c f).on h = s.on h := rfl
@[simp] theorem State.modelUp_bank (s : State) (c : Nat) (f : VentModel → VentModel) (j : Nat) : (s.modelUp c f).bank j = s.bank j := rfl

/-! ### State.coreUp -/

@[simp] theorem State.coreUp_regs (s : State) (k : Nat) (f : VentCore → VentCore) : (s.coreUp k f).regs = s.regs := rfl
@[simp] theorem State.coreUp_heldU (s : State) (k : Nat) (f : VentCore → VentCore) : (s.coreUp k f).heldU = s.heldU := rfl
@[simp] theorem State.coreUp_heldB (s : State) (k : Nat) (f : VentCore → VentCore) : (s.coreUp k f).heldB = s.heldB := rfl
@[simp] theorem State.coreUp_banks (s : State) (k : Nat) (f : VentCore → VentCore) : (s.coreUp k f).banks = s.banks := rfl
@[simp] theorem State.coreUp_conds (s : State) (k : Nat) (f : VentCore → VentCore) : (s.coreUp k f).conds = s.conds := rfl
@[simp] theorem State.coreUp_gates (s : State) (k : Nat) (f : VentCore → VentCore) : (s.coreUp k f).gates = s.gates := rfl
@[simp] theorem State.coreUp_rdata (s : State) (k : Nat) (f : VentCore → VentCore) : (s.coreUp k f).rdata = s.rdata := rfl
@[simp] theorem State.coreUp_free (s : State) (k : Nat) (f : VentCore → VentCore) : (s.coreUp k f).free = s.free := rfl
@[simp] theorem State.coreUp_sys (s : State) (k : Nat) (f : VentCore → VentCore) : (s.coreUp k f).sys = s.sys := rfl
@[simp] theorem State.coreUp_time (s : State) (k : Nat) (f : VentCore → VentCore) : (s.coreUp k f).time = s.time := rfl
@[simp] theorem State.coreUp_ain (s : State) (k : Nat) (f : VentCore → VentCore) : (s.coreUp k f).ain = s.ain := rfl
@[simp] theorem State.coreUp_mb (s : State) (k : Nat) (f : VentCore → VentCore) : (s.coreUp k f).mb = s.mb := rfl
@[simp] theorem State.coreUp_scn (s : State) (k : Nat) (f : VentCore → VentCore) : (s.coreUp k f).scn = s.scn := rfl
@[simp] theorem State.coreUp_legs (s : State) (k : Nat) (f : VentCore → VentCore) : (s.coreUp k f).legs = s.legs := rfl
@[simp] theorem State.coreUp_pwm (s : State) (k : Nat) (f : VentCore → VentCore) : (s.coreUp k f).pwm = s.pwm := rfl
@[simp] theorem State.coreUp_safe (s : State) (k : Nat) (f : VentCore → VentCore) : (s.coreUp k f).safe = s.safe := rfl
@[simp] theorem State.coreUp_dlCal (s : State) (k : Nat) (f : VentCore → VentCore) : (s.coreUp k f).dlCal = s.dlCal := rfl
@[simp] theorem State.coreUp_pins (s : State) (k : Nat) (f : VentCore → VentCore) : (s.coreUp k f).pins = s.pins := rfl
@[simp] theorem State.coreUp_sense (s : State) (k : Nat) (f : VentCore → VentCore) : (s.coreUp k f).sense = s.sense := rfl
@[simp] theorem State.coreUp_lanes (s : State) (k : Nat) (f : VentCore → VentCore) : (s.coreUp k f).lanes = s.lanes := rfl
@[simp] theorem State.coreUp_loops (s : State) (k : Nat) (f : VentCore → VentCore) : (s.coreUp k f).loops = s.loops := rfl
@[simp] theorem State.coreUp_lanePool (s : State) (k : Nat) (f : VentCore → VentCore) : (s.coreUp k f).lanePool = s.lanePool := rfl
@[simp] theorem State.coreUp_trace (s : State) (k : Nat) (f : VentCore → VentCore) : (s.coreUp k f).trace = s.trace := rfl
@[simp] theorem State.coreUp_mem (s : State) (k : Nat) (f : VentCore → VentCore) : (s.coreUp k f).mem = s.mem := rfl
@[simp] theorem State.coreUp_bkg (s : State) (k : Nat) (f : VentCore → VentCore) : (s.coreUp k f).bkg = s.bkg := rfl
@[simp] theorem State.coreUp_rings (s : State) (k : Nat) (f : VentCore → VentCore) : (s.coreUp k f).rings = s.rings := rfl
@[simp] theorem State.coreUp_fab (s : State) (k : Nat) (f : VentCore → VentCore) : (s.coreUp k f).fab = s.fab := rfl
@[simp] theorem State.coreUp_twin (s : State) (k : Nat) (f : VentCore → VentCore) : (s.coreUp k f).twin = s.twin := rfl
@[simp] theorem State.coreUp_str (s : State) (k : Nat) (f : VentCore → VentCore) : (s.coreUp k f).str = s.str := rfl
@[simp] theorem State.coreUp_hst (s : State) (k : Nat) (f : VentCore → VentCore) : (s.coreUp k f).hst = s.hst := rfl
@[simp] theorem State.coreUp_pending (s : State) (k : Nat) (f : VentCore → VentCore) : (s.coreUp k f).pending = s.pending := rfl
@[simp] theorem State.coreUp_rd (s : State) (k : Nat) (f : VentCore → VentCore) (a : Nat) : (s.coreUp k f).rd a = s.rd a := rfl
@[simp] theorem State.coreUp_get (s : State) (k : Nat) (f : VentCore → VentCore) (h : Fld) : (s.coreUp k f).get h = s.get h := rfl
@[simp] theorem State.coreUp_getS (s : State) (k : Nat) (f : VentCore → VentCore) (h : Fld) : (s.coreUp k f).getS h = s.getS h := rfl
@[simp] theorem State.coreUp_on (s : State) (k : Nat) (f : VentCore → VentCore) (h : Fld) : (s.coreUp k f).on h = s.on h := rfl
@[simp] theorem State.coreUp_bank (s : State) (k : Nat) (f : VentCore → VentCore) (j : Nat) : (s.coreUp k f).bank j = s.bank j := rfl
@[simp] theorem State.coreUp_vent_cores (s : State) (k : Nat) (f : VentCore → VentCore) : (s.coreUp k f).vent.cores = s.vent.cores.modify k f := rfl
@[simp] theorem State.coreUp_vent_chans (s : State) (k : Nat) (f : VentCore → VentCore) : (s.coreUp k f).vent.chans = s.vent.chans := rfl
@[simp] theorem State.coreUp_vent_latch (s : State) (k : Nat) (f : VentCore → VentCore) : (s.coreUp k f).vent.latch = s.vent.latch := rfl

/-! ### State.sweepUp -/

@[simp] theorem State.sweepUp_regs (s : State) (c : Nat) (f : Sweep → Sweep) : (s.sweepUp c f).regs = s.regs := rfl
@[simp] theorem State.sweepUp_heldU (s : State) (c : Nat) (f : Sweep → Sweep) : (s.sweepUp c f).heldU = s.heldU := rfl
@[simp] theorem State.sweepUp_heldB (s : State) (c : Nat) (f : Sweep → Sweep) : (s.sweepUp c f).heldB = s.heldB := rfl
@[simp] theorem State.sweepUp_banks (s : State) (c : Nat) (f : Sweep → Sweep) : (s.sweepUp c f).banks = s.banks := rfl
@[simp] theorem State.sweepUp_conds (s : State) (c : Nat) (f : Sweep → Sweep) : (s.sweepUp c f).conds = s.conds := rfl
@[simp] theorem State.sweepUp_gates (s : State) (c : Nat) (f : Sweep → Sweep) : (s.sweepUp c f).gates = s.gates := rfl
@[simp] theorem State.sweepUp_rdata (s : State) (c : Nat) (f : Sweep → Sweep) : (s.sweepUp c f).rdata = s.rdata := rfl
@[simp] theorem State.sweepUp_free (s : State) (c : Nat) (f : Sweep → Sweep) : (s.sweepUp c f).free = s.free := rfl
@[simp] theorem State.sweepUp_sys (s : State) (c : Nat) (f : Sweep → Sweep) : (s.sweepUp c f).sys = s.sys := rfl
@[simp] theorem State.sweepUp_time (s : State) (c : Nat) (f : Sweep → Sweep) : (s.sweepUp c f).time = s.time := rfl
@[simp] theorem State.sweepUp_ain (s : State) (c : Nat) (f : Sweep → Sweep) : (s.sweepUp c f).ain = s.ain := rfl
@[simp] theorem State.sweepUp_mb (s : State) (c : Nat) (f : Sweep → Sweep) : (s.sweepUp c f).mb = s.mb := rfl
@[simp] theorem State.sweepUp_scn (s : State) (c : Nat) (f : Sweep → Sweep) : (s.sweepUp c f).scn = s.scn := rfl
@[simp] theorem State.sweepUp_legs (s : State) (c : Nat) (f : Sweep → Sweep) : (s.sweepUp c f).legs = s.legs := rfl
@[simp] theorem State.sweepUp_pwm (s : State) (c : Nat) (f : Sweep → Sweep) : (s.sweepUp c f).pwm = s.pwm := rfl
@[simp] theorem State.sweepUp_safe (s : State) (c : Nat) (f : Sweep → Sweep) : (s.sweepUp c f).safe = s.safe := rfl
@[simp] theorem State.sweepUp_dlCal (s : State) (c : Nat) (f : Sweep → Sweep) : (s.sweepUp c f).dlCal = s.dlCal := rfl
@[simp] theorem State.sweepUp_pins (s : State) (c : Nat) (f : Sweep → Sweep) : (s.sweepUp c f).pins = s.pins := rfl
@[simp] theorem State.sweepUp_sense (s : State) (c : Nat) (f : Sweep → Sweep) : (s.sweepUp c f).sense = s.sense := rfl
@[simp] theorem State.sweepUp_lanes (s : State) (c : Nat) (f : Sweep → Sweep) : (s.sweepUp c f).lanes = s.lanes := rfl
@[simp] theorem State.sweepUp_loops (s : State) (c : Nat) (f : Sweep → Sweep) : (s.sweepUp c f).loops = s.loops := rfl
@[simp] theorem State.sweepUp_lanePool (s : State) (c : Nat) (f : Sweep → Sweep) : (s.sweepUp c f).lanePool = s.lanePool := rfl
@[simp] theorem State.sweepUp_trace (s : State) (c : Nat) (f : Sweep → Sweep) : (s.sweepUp c f).trace = s.trace := rfl
@[simp] theorem State.sweepUp_mem (s : State) (c : Nat) (f : Sweep → Sweep) : (s.sweepUp c f).mem = s.mem := rfl
@[simp] theorem State.sweepUp_bkg (s : State) (c : Nat) (f : Sweep → Sweep) : (s.sweepUp c f).bkg = s.bkg := rfl
@[simp] theorem State.sweepUp_rings (s : State) (c : Nat) (f : Sweep → Sweep) : (s.sweepUp c f).rings = s.rings := rfl
@[simp] theorem State.sweepUp_fab (s : State) (c : Nat) (f : Sweep → Sweep) : (s.sweepUp c f).fab = s.fab := rfl
@[simp] theorem State.sweepUp_twin (s : State) (c : Nat) (f : Sweep → Sweep) : (s.sweepUp c f).twin = s.twin := rfl
@[simp] theorem State.sweepUp_str (s : State) (c : Nat) (f : Sweep → Sweep) : (s.sweepUp c f).str = s.str := rfl
@[simp] theorem State.sweepUp_hst (s : State) (c : Nat) (f : Sweep → Sweep) : (s.sweepUp c f).hst = s.hst := rfl
@[simp] theorem State.sweepUp_pending (s : State) (c : Nat) (f : Sweep → Sweep) : (s.sweepUp c f).pending = s.pending := rfl
@[simp] theorem State.sweepUp_rd (s : State) (c : Nat) (f : Sweep → Sweep) (a : Nat) : (s.sweepUp c f).rd a = s.rd a := rfl
@[simp] theorem State.sweepUp_get (s : State) (c : Nat) (f : Sweep → Sweep) (h : Fld) : (s.sweepUp c f).get h = s.get h := rfl
@[simp] theorem State.sweepUp_getS (s : State) (c : Nat) (f : Sweep → Sweep) (h : Fld) : (s.sweepUp c f).getS h = s.getS h := rfl
@[simp] theorem State.sweepUp_on (s : State) (c : Nat) (f : Sweep → Sweep) (h : Fld) : (s.sweepUp c f).on h = s.on h := rfl
@[simp] theorem State.sweepUp_bank (s : State) (c : Nat) (f : Sweep → Sweep) (j : Nat) : (s.sweepUp c f).bank j = s.bank j := rfl

/-! ### State.legUp -/

@[simp] theorem State.legUp_regs (s : State) (l : Nat) (f : LegGen → LegGen) : (s.legUp l f).regs = s.regs := rfl
@[simp] theorem State.legUp_heldU (s : State) (l : Nat) (f : LegGen → LegGen) : (s.legUp l f).heldU = s.heldU := rfl
@[simp] theorem State.legUp_heldB (s : State) (l : Nat) (f : LegGen → LegGen) : (s.legUp l f).heldB = s.heldB := rfl
@[simp] theorem State.legUp_banks (s : State) (l : Nat) (f : LegGen → LegGen) : (s.legUp l f).banks = s.banks := rfl
@[simp] theorem State.legUp_conds (s : State) (l : Nat) (f : LegGen → LegGen) : (s.legUp l f).conds = s.conds := rfl
@[simp] theorem State.legUp_gates (s : State) (l : Nat) (f : LegGen → LegGen) : (s.legUp l f).gates = s.gates := rfl
@[simp] theorem State.legUp_rdata (s : State) (l : Nat) (f : LegGen → LegGen) : (s.legUp l f).rdata = s.rdata := rfl
@[simp] theorem State.legUp_free (s : State) (l : Nat) (f : LegGen → LegGen) : (s.legUp l f).free = s.free := rfl
@[simp] theorem State.legUp_sys (s : State) (l : Nat) (f : LegGen → LegGen) : (s.legUp l f).sys = s.sys := rfl
@[simp] theorem State.legUp_time (s : State) (l : Nat) (f : LegGen → LegGen) : (s.legUp l f).time = s.time := rfl
@[simp] theorem State.legUp_ain (s : State) (l : Nat) (f : LegGen → LegGen) : (s.legUp l f).ain = s.ain := rfl
@[simp] theorem State.legUp_mb (s : State) (l : Nat) (f : LegGen → LegGen) : (s.legUp l f).mb = s.mb := rfl
@[simp] theorem State.legUp_scn (s : State) (l : Nat) (f : LegGen → LegGen) : (s.legUp l f).scn = s.scn := rfl
@[simp] theorem State.legUp_pwm (s : State) (l : Nat) (f : LegGen → LegGen) : (s.legUp l f).pwm = s.pwm := rfl
@[simp] theorem State.legUp_safe (s : State) (l : Nat) (f : LegGen → LegGen) : (s.legUp l f).safe = s.safe := rfl
@[simp] theorem State.legUp_dlCal (s : State) (l : Nat) (f : LegGen → LegGen) : (s.legUp l f).dlCal = s.dlCal := rfl
@[simp] theorem State.legUp_pins (s : State) (l : Nat) (f : LegGen → LegGen) : (s.legUp l f).pins = s.pins := rfl
@[simp] theorem State.legUp_sense (s : State) (l : Nat) (f : LegGen → LegGen) : (s.legUp l f).sense = s.sense := rfl
@[simp] theorem State.legUp_lanes (s : State) (l : Nat) (f : LegGen → LegGen) : (s.legUp l f).lanes = s.lanes := rfl
@[simp] theorem State.legUp_loops (s : State) (l : Nat) (f : LegGen → LegGen) : (s.legUp l f).loops = s.loops := rfl
@[simp] theorem State.legUp_lanePool (s : State) (l : Nat) (f : LegGen → LegGen) : (s.legUp l f).lanePool = s.lanePool := rfl
@[simp] theorem State.legUp_trace (s : State) (l : Nat) (f : LegGen → LegGen) : (s.legUp l f).trace = s.trace := rfl
@[simp] theorem State.legUp_vent (s : State) (l : Nat) (f : LegGen → LegGen) : (s.legUp l f).vent = s.vent := rfl
@[simp] theorem State.legUp_mem (s : State) (l : Nat) (f : LegGen → LegGen) : (s.legUp l f).mem = s.mem := rfl
@[simp] theorem State.legUp_bkg (s : State) (l : Nat) (f : LegGen → LegGen) : (s.legUp l f).bkg = s.bkg := rfl
@[simp] theorem State.legUp_rings (s : State) (l : Nat) (f : LegGen → LegGen) : (s.legUp l f).rings = s.rings := rfl
@[simp] theorem State.legUp_fab (s : State) (l : Nat) (f : LegGen → LegGen) : (s.legUp l f).fab = s.fab := rfl
@[simp] theorem State.legUp_twin (s : State) (l : Nat) (f : LegGen → LegGen) : (s.legUp l f).twin = s.twin := rfl
@[simp] theorem State.legUp_str (s : State) (l : Nat) (f : LegGen → LegGen) : (s.legUp l f).str = s.str := rfl
@[simp] theorem State.legUp_hst (s : State) (l : Nat) (f : LegGen → LegGen) : (s.legUp l f).hst = s.hst := rfl
@[simp] theorem State.legUp_pending (s : State) (l : Nat) (f : LegGen → LegGen) : (s.legUp l f).pending = s.pending := rfl
@[simp] theorem State.legUp_rd (s : State) (l : Nat) (f : LegGen → LegGen) (a : Nat) : (s.legUp l f).rd a = s.rd a := rfl
@[simp] theorem State.legUp_get (s : State) (l : Nat) (f : LegGen → LegGen) (h : Fld) : (s.legUp l f).get h = s.get h := rfl
@[simp] theorem State.legUp_getS (s : State) (l : Nat) (f : LegGen → LegGen) (h : Fld) : (s.legUp l f).getS h = s.getS h := rfl
@[simp] theorem State.legUp_on (s : State) (l : Nat) (f : LegGen → LegGen) (h : Fld) : (s.legUp l f).on h = s.on h := rfl
@[simp] theorem State.legUp_bank (s : State) (l : Nat) (f : LegGen → LegGen) (j : Nat) : (s.legUp l f).bank j = s.bank j := rfl
@[simp] theorem State.legUp_legs (s : State) (l : Nat) (f : LegGen → LegGen) : (s.legUp l f).legs = s.legs.modify l f := rfl

/-! ### State.pwmUp -/

@[simp] theorem State.pwmUp_regs (s : State) (c : Nat) (f : PwmChan → PwmChan) : (s.pwmUp c f).regs = s.regs := rfl
@[simp] theorem State.pwmUp_heldU (s : State) (c : Nat) (f : PwmChan → PwmChan) : (s.pwmUp c f).heldU = s.heldU := rfl
@[simp] theorem State.pwmUp_heldB (s : State) (c : Nat) (f : PwmChan → PwmChan) : (s.pwmUp c f).heldB = s.heldB := rfl
@[simp] theorem State.pwmUp_banks (s : State) (c : Nat) (f : PwmChan → PwmChan) : (s.pwmUp c f).banks = s.banks := rfl
@[simp] theorem State.pwmUp_conds (s : State) (c : Nat) (f : PwmChan → PwmChan) : (s.pwmUp c f).conds = s.conds := rfl
@[simp] theorem State.pwmUp_gates (s : State) (c : Nat) (f : PwmChan → PwmChan) : (s.pwmUp c f).gates = s.gates := rfl
@[simp] theorem State.pwmUp_rdata (s : State) (c : Nat) (f : PwmChan → PwmChan) : (s.pwmUp c f).rdata = s.rdata := rfl
@[simp] theorem State.pwmUp_free (s : State) (c : Nat) (f : PwmChan → PwmChan) : (s.pwmUp c f).free = s.free := rfl
@[simp] theorem State.pwmUp_sys (s : State) (c : Nat) (f : PwmChan → PwmChan) : (s.pwmUp c f).sys = s.sys := rfl
@[simp] theorem State.pwmUp_time (s : State) (c : Nat) (f : PwmChan → PwmChan) : (s.pwmUp c f).time = s.time := rfl
@[simp] theorem State.pwmUp_ain (s : State) (c : Nat) (f : PwmChan → PwmChan) : (s.pwmUp c f).ain = s.ain := rfl
@[simp] theorem State.pwmUp_mb (s : State) (c : Nat) (f : PwmChan → PwmChan) : (s.pwmUp c f).mb = s.mb := rfl
@[simp] theorem State.pwmUp_scn (s : State) (c : Nat) (f : PwmChan → PwmChan) : (s.pwmUp c f).scn = s.scn := rfl
@[simp] theorem State.pwmUp_legs (s : State) (c : Nat) (f : PwmChan → PwmChan) : (s.pwmUp c f).legs = s.legs := rfl
@[simp] theorem State.pwmUp_safe (s : State) (c : Nat) (f : PwmChan → PwmChan) : (s.pwmUp c f).safe = s.safe := rfl
@[simp] theorem State.pwmUp_dlCal (s : State) (c : Nat) (f : PwmChan → PwmChan) : (s.pwmUp c f).dlCal = s.dlCal := rfl
@[simp] theorem State.pwmUp_pins (s : State) (c : Nat) (f : PwmChan → PwmChan) : (s.pwmUp c f).pins = s.pins := rfl
@[simp] theorem State.pwmUp_sense (s : State) (c : Nat) (f : PwmChan → PwmChan) : (s.pwmUp c f).sense = s.sense := rfl
@[simp] theorem State.pwmUp_lanes (s : State) (c : Nat) (f : PwmChan → PwmChan) : (s.pwmUp c f).lanes = s.lanes := rfl
@[simp] theorem State.pwmUp_loops (s : State) (c : Nat) (f : PwmChan → PwmChan) : (s.pwmUp c f).loops = s.loops := rfl
@[simp] theorem State.pwmUp_lanePool (s : State) (c : Nat) (f : PwmChan → PwmChan) : (s.pwmUp c f).lanePool = s.lanePool := rfl
@[simp] theorem State.pwmUp_trace (s : State) (c : Nat) (f : PwmChan → PwmChan) : (s.pwmUp c f).trace = s.trace := rfl
@[simp] theorem State.pwmUp_vent (s : State) (c : Nat) (f : PwmChan → PwmChan) : (s.pwmUp c f).vent = s.vent := rfl
@[simp] theorem State.pwmUp_mem (s : State) (c : Nat) (f : PwmChan → PwmChan) : (s.pwmUp c f).mem = s.mem := rfl
@[simp] theorem State.pwmUp_bkg (s : State) (c : Nat) (f : PwmChan → PwmChan) : (s.pwmUp c f).bkg = s.bkg := rfl
@[simp] theorem State.pwmUp_rings (s : State) (c : Nat) (f : PwmChan → PwmChan) : (s.pwmUp c f).rings = s.rings := rfl
@[simp] theorem State.pwmUp_fab (s : State) (c : Nat) (f : PwmChan → PwmChan) : (s.pwmUp c f).fab = s.fab := rfl
@[simp] theorem State.pwmUp_twin (s : State) (c : Nat) (f : PwmChan → PwmChan) : (s.pwmUp c f).twin = s.twin := rfl
@[simp] theorem State.pwmUp_str (s : State) (c : Nat) (f : PwmChan → PwmChan) : (s.pwmUp c f).str = s.str := rfl
@[simp] theorem State.pwmUp_hst (s : State) (c : Nat) (f : PwmChan → PwmChan) : (s.pwmUp c f).hst = s.hst := rfl
@[simp] theorem State.pwmUp_pending (s : State) (c : Nat) (f : PwmChan → PwmChan) : (s.pwmUp c f).pending = s.pending := rfl
@[simp] theorem State.pwmUp_rd (s : State) (c : Nat) (f : PwmChan → PwmChan) (a : Nat) : (s.pwmUp c f).rd a = s.rd a := rfl
@[simp] theorem State.pwmUp_get (s : State) (c : Nat) (f : PwmChan → PwmChan) (h : Fld) : (s.pwmUp c f).get h = s.get h := rfl
@[simp] theorem State.pwmUp_getS (s : State) (c : Nat) (f : PwmChan → PwmChan) (h : Fld) : (s.pwmUp c f).getS h = s.getS h := rfl
@[simp] theorem State.pwmUp_on (s : State) (c : Nat) (f : PwmChan → PwmChan) (h : Fld) : (s.pwmUp c f).on h = s.on h := rfl
@[simp] theorem State.pwmUp_bank (s : State) (c : Nat) (f : PwmChan → PwmChan) (j : Nat) : (s.pwmUp c f).bank j = s.bank j := rfl
@[simp] theorem State.pwmUp_pwm (s : State) (c : Nat) (f : PwmChan → PwmChan) : (s.pwmUp c f).pwm = s.pwm.modify c f := rfl

/-! ### State.safeUp -/

@[simp] theorem State.safeUp_regs (s : State) (f : Safe → Safe) : (s.safeUp f).regs = s.regs := rfl
@[simp] theorem State.safeUp_heldU (s : State) (f : Safe → Safe) : (s.safeUp f).heldU = s.heldU := rfl
@[simp] theorem State.safeUp_heldB (s : State) (f : Safe → Safe) : (s.safeUp f).heldB = s.heldB := rfl
@[simp] theorem State.safeUp_banks (s : State) (f : Safe → Safe) : (s.safeUp f).banks = s.banks := rfl
@[simp] theorem State.safeUp_conds (s : State) (f : Safe → Safe) : (s.safeUp f).conds = s.conds := rfl
@[simp] theorem State.safeUp_gates (s : State) (f : Safe → Safe) : (s.safeUp f).gates = s.gates := rfl
@[simp] theorem State.safeUp_rdata (s : State) (f : Safe → Safe) : (s.safeUp f).rdata = s.rdata := rfl
@[simp] theorem State.safeUp_free (s : State) (f : Safe → Safe) : (s.safeUp f).free = s.free := rfl
@[simp] theorem State.safeUp_sys (s : State) (f : Safe → Safe) : (s.safeUp f).sys = s.sys := rfl
@[simp] theorem State.safeUp_time (s : State) (f : Safe → Safe) : (s.safeUp f).time = s.time := rfl
@[simp] theorem State.safeUp_ain (s : State) (f : Safe → Safe) : (s.safeUp f).ain = s.ain := rfl
@[simp] theorem State.safeUp_mb (s : State) (f : Safe → Safe) : (s.safeUp f).mb = s.mb := rfl
@[simp] theorem State.safeUp_scn (s : State) (f : Safe → Safe) : (s.safeUp f).scn = s.scn := rfl
@[simp] theorem State.safeUp_legs (s : State) (f : Safe → Safe) : (s.safeUp f).legs = s.legs := rfl
@[simp] theorem State.safeUp_pwm (s : State) (f : Safe → Safe) : (s.safeUp f).pwm = s.pwm := rfl
@[simp] theorem State.safeUp_dlCal (s : State) (f : Safe → Safe) : (s.safeUp f).dlCal = s.dlCal := rfl
@[simp] theorem State.safeUp_pins (s : State) (f : Safe → Safe) : (s.safeUp f).pins = s.pins := rfl
@[simp] theorem State.safeUp_sense (s : State) (f : Safe → Safe) : (s.safeUp f).sense = s.sense := rfl
@[simp] theorem State.safeUp_lanes (s : State) (f : Safe → Safe) : (s.safeUp f).lanes = s.lanes := rfl
@[simp] theorem State.safeUp_loops (s : State) (f : Safe → Safe) : (s.safeUp f).loops = s.loops := rfl
@[simp] theorem State.safeUp_lanePool (s : State) (f : Safe → Safe) : (s.safeUp f).lanePool = s.lanePool := rfl
@[simp] theorem State.safeUp_trace (s : State) (f : Safe → Safe) : (s.safeUp f).trace = s.trace := rfl
@[simp] theorem State.safeUp_vent (s : State) (f : Safe → Safe) : (s.safeUp f).vent = s.vent := rfl
@[simp] theorem State.safeUp_mem (s : State) (f : Safe → Safe) : (s.safeUp f).mem = s.mem := rfl
@[simp] theorem State.safeUp_bkg (s : State) (f : Safe → Safe) : (s.safeUp f).bkg = s.bkg := rfl
@[simp] theorem State.safeUp_rings (s : State) (f : Safe → Safe) : (s.safeUp f).rings = s.rings := rfl
@[simp] theorem State.safeUp_fab (s : State) (f : Safe → Safe) : (s.safeUp f).fab = s.fab := rfl
@[simp] theorem State.safeUp_twin (s : State) (f : Safe → Safe) : (s.safeUp f).twin = s.twin := rfl
@[simp] theorem State.safeUp_str (s : State) (f : Safe → Safe) : (s.safeUp f).str = s.str := rfl
@[simp] theorem State.safeUp_hst (s : State) (f : Safe → Safe) : (s.safeUp f).hst = s.hst := rfl
@[simp] theorem State.safeUp_pending (s : State) (f : Safe → Safe) : (s.safeUp f).pending = s.pending := rfl
@[simp] theorem State.safeUp_rd (s : State) (f : Safe → Safe) (a : Nat) : (s.safeUp f).rd a = s.rd a := rfl
@[simp] theorem State.safeUp_get (s : State) (f : Safe → Safe) (h : Fld) : (s.safeUp f).get h = s.get h := rfl
@[simp] theorem State.safeUp_getS (s : State) (f : Safe → Safe) (h : Fld) : (s.safeUp f).getS h = s.getS h := rfl
@[simp] theorem State.safeUp_on (s : State) (f : Safe → Safe) (h : Fld) : (s.safeUp f).on h = s.on h := rfl
@[simp] theorem State.safeUp_bank (s : State) (f : Safe → Safe) (j : Nat) : (s.safeUp f).bank j = s.bank j := rfl
@[simp] theorem State.safeUp_safe (s : State) (f : Safe → Safe) : (s.safeUp f).safe = f s.safe := rfl

/-! ### State.snsUp -/

@[simp] theorem State.snsUp_regs (s : State) (f : Sense → Sense) : (s.snsUp f).regs = s.regs := rfl
@[simp] theorem State.snsUp_heldU (s : State) (f : Sense → Sense) : (s.snsUp f).heldU = s.heldU := rfl
@[simp] theorem State.snsUp_heldB (s : State) (f : Sense → Sense) : (s.snsUp f).heldB = s.heldB := rfl
@[simp] theorem State.snsUp_banks (s : State) (f : Sense → Sense) : (s.snsUp f).banks = s.banks := rfl
@[simp] theorem State.snsUp_conds (s : State) (f : Sense → Sense) : (s.snsUp f).conds = s.conds := rfl
@[simp] theorem State.snsUp_gates (s : State) (f : Sense → Sense) : (s.snsUp f).gates = s.gates := rfl
@[simp] theorem State.snsUp_rdata (s : State) (f : Sense → Sense) : (s.snsUp f).rdata = s.rdata := rfl
@[simp] theorem State.snsUp_free (s : State) (f : Sense → Sense) : (s.snsUp f).free = s.free := rfl
@[simp] theorem State.snsUp_sys (s : State) (f : Sense → Sense) : (s.snsUp f).sys = s.sys := rfl
@[simp] theorem State.snsUp_time (s : State) (f : Sense → Sense) : (s.snsUp f).time = s.time := rfl
@[simp] theorem State.snsUp_ain (s : State) (f : Sense → Sense) : (s.snsUp f).ain = s.ain := rfl
@[simp] theorem State.snsUp_mb (s : State) (f : Sense → Sense) : (s.snsUp f).mb = s.mb := rfl
@[simp] theorem State.snsUp_scn (s : State) (f : Sense → Sense) : (s.snsUp f).scn = s.scn := rfl
@[simp] theorem State.snsUp_legs (s : State) (f : Sense → Sense) : (s.snsUp f).legs = s.legs := rfl
@[simp] theorem State.snsUp_pwm (s : State) (f : Sense → Sense) : (s.snsUp f).pwm = s.pwm := rfl
@[simp] theorem State.snsUp_safe (s : State) (f : Sense → Sense) : (s.snsUp f).safe = s.safe := rfl
@[simp] theorem State.snsUp_dlCal (s : State) (f : Sense → Sense) : (s.snsUp f).dlCal = s.dlCal := rfl
@[simp] theorem State.snsUp_pins (s : State) (f : Sense → Sense) : (s.snsUp f).pins = s.pins := rfl
@[simp] theorem State.snsUp_lanes (s : State) (f : Sense → Sense) : (s.snsUp f).lanes = s.lanes := rfl
@[simp] theorem State.snsUp_loops (s : State) (f : Sense → Sense) : (s.snsUp f).loops = s.loops := rfl
@[simp] theorem State.snsUp_lanePool (s : State) (f : Sense → Sense) : (s.snsUp f).lanePool = s.lanePool := rfl
@[simp] theorem State.snsUp_trace (s : State) (f : Sense → Sense) : (s.snsUp f).trace = s.trace := rfl
@[simp] theorem State.snsUp_vent (s : State) (f : Sense → Sense) : (s.snsUp f).vent = s.vent := rfl
@[simp] theorem State.snsUp_mem (s : State) (f : Sense → Sense) : (s.snsUp f).mem = s.mem := rfl
@[simp] theorem State.snsUp_bkg (s : State) (f : Sense → Sense) : (s.snsUp f).bkg = s.bkg := rfl
@[simp] theorem State.snsUp_rings (s : State) (f : Sense → Sense) : (s.snsUp f).rings = s.rings := rfl
@[simp] theorem State.snsUp_fab (s : State) (f : Sense → Sense) : (s.snsUp f).fab = s.fab := rfl
@[simp] theorem State.snsUp_twin (s : State) (f : Sense → Sense) : (s.snsUp f).twin = s.twin := rfl
@[simp] theorem State.snsUp_str (s : State) (f : Sense → Sense) : (s.snsUp f).str = s.str := rfl
@[simp] theorem State.snsUp_hst (s : State) (f : Sense → Sense) : (s.snsUp f).hst = s.hst := rfl
@[simp] theorem State.snsUp_pending (s : State) (f : Sense → Sense) : (s.snsUp f).pending = s.pending := rfl
@[simp] theorem State.snsUp_rd (s : State) (f : Sense → Sense) (a : Nat) : (s.snsUp f).rd a = s.rd a := rfl
@[simp] theorem State.snsUp_get (s : State) (f : Sense → Sense) (h : Fld) : (s.snsUp f).get h = s.get h := rfl
@[simp] theorem State.snsUp_getS (s : State) (f : Sense → Sense) (h : Fld) : (s.snsUp f).getS h = s.getS h := rfl
@[simp] theorem State.snsUp_on (s : State) (f : Sense → Sense) (h : Fld) : (s.snsUp f).on h = s.on h := rfl
@[simp] theorem State.snsUp_bank (s : State) (f : Sense → Sense) (j : Nat) : (s.snsUp f).bank j = s.bank j := rfl
@[simp] theorem State.snsUp_sense (s : State) (f : Sense → Sense) : (s.snsUp f).sense = f s.sense := rfl

/-! ### State.sliceUp -/

@[simp] theorem State.sliceUp_regs (s : State) (n : Nat) (f : SliceSt → SliceSt) : (s.sliceUp n f).regs = s.regs := rfl
@[simp] theorem State.sliceUp_heldU (s : State) (n : Nat) (f : SliceSt → SliceSt) : (s.sliceUp n f).heldU = s.heldU := rfl
@[simp] theorem State.sliceUp_heldB (s : State) (n : Nat) (f : SliceSt → SliceSt) : (s.sliceUp n f).heldB = s.heldB := rfl
@[simp] theorem State.sliceUp_banks (s : State) (n : Nat) (f : SliceSt → SliceSt) : (s.sliceUp n f).banks = s.banks := rfl
@[simp] theorem State.sliceUp_conds (s : State) (n : Nat) (f : SliceSt → SliceSt) : (s.sliceUp n f).conds = s.conds := rfl
@[simp] theorem State.sliceUp_gates (s : State) (n : Nat) (f : SliceSt → SliceSt) : (s.sliceUp n f).gates = s.gates := rfl
@[simp] theorem State.sliceUp_rdata (s : State) (n : Nat) (f : SliceSt → SliceSt) : (s.sliceUp n f).rdata = s.rdata := rfl
@[simp] theorem State.sliceUp_free (s : State) (n : Nat) (f : SliceSt → SliceSt) : (s.sliceUp n f).free = s.free := rfl
@[simp] theorem State.sliceUp_sys (s : State) (n : Nat) (f : SliceSt → SliceSt) : (s.sliceUp n f).sys = s.sys := rfl
@[simp] theorem State.sliceUp_time (s : State) (n : Nat) (f : SliceSt → SliceSt) : (s.sliceUp n f).time = s.time := rfl
@[simp] theorem State.sliceUp_ain (s : State) (n : Nat) (f : SliceSt → SliceSt) : (s.sliceUp n f).ain = s.ain := rfl
@[simp] theorem State.sliceUp_mb (s : State) (n : Nat) (f : SliceSt → SliceSt) : (s.sliceUp n f).mb = s.mb := rfl
@[simp] theorem State.sliceUp_scn (s : State) (n : Nat) (f : SliceSt → SliceSt) : (s.sliceUp n f).scn = s.scn := rfl
@[simp] theorem State.sliceUp_legs (s : State) (n : Nat) (f : SliceSt → SliceSt) : (s.sliceUp n f).legs = s.legs := rfl
@[simp] theorem State.sliceUp_pwm (s : State) (n : Nat) (f : SliceSt → SliceSt) : (s.sliceUp n f).pwm = s.pwm := rfl
@[simp] theorem State.sliceUp_safe (s : State) (n : Nat) (f : SliceSt → SliceSt) : (s.sliceUp n f).safe = s.safe := rfl
@[simp] theorem State.sliceUp_dlCal (s : State) (n : Nat) (f : SliceSt → SliceSt) : (s.sliceUp n f).dlCal = s.dlCal := rfl
@[simp] theorem State.sliceUp_pins (s : State) (n : Nat) (f : SliceSt → SliceSt) : (s.sliceUp n f).pins = s.pins := rfl
@[simp] theorem State.sliceUp_lanes (s : State) (n : Nat) (f : SliceSt → SliceSt) : (s.sliceUp n f).lanes = s.lanes := rfl
@[simp] theorem State.sliceUp_loops (s : State) (n : Nat) (f : SliceSt → SliceSt) : (s.sliceUp n f).loops = s.loops := rfl
@[simp] theorem State.sliceUp_lanePool (s : State) (n : Nat) (f : SliceSt → SliceSt) : (s.sliceUp n f).lanePool = s.lanePool := rfl
@[simp] theorem State.sliceUp_trace (s : State) (n : Nat) (f : SliceSt → SliceSt) : (s.sliceUp n f).trace = s.trace := rfl
@[simp] theorem State.sliceUp_vent (s : State) (n : Nat) (f : SliceSt → SliceSt) : (s.sliceUp n f).vent = s.vent := rfl
@[simp] theorem State.sliceUp_mem (s : State) (n : Nat) (f : SliceSt → SliceSt) : (s.sliceUp n f).mem = s.mem := rfl
@[simp] theorem State.sliceUp_bkg (s : State) (n : Nat) (f : SliceSt → SliceSt) : (s.sliceUp n f).bkg = s.bkg := rfl
@[simp] theorem State.sliceUp_rings (s : State) (n : Nat) (f : SliceSt → SliceSt) : (s.sliceUp n f).rings = s.rings := rfl
@[simp] theorem State.sliceUp_fab (s : State) (n : Nat) (f : SliceSt → SliceSt) : (s.sliceUp n f).fab = s.fab := rfl
@[simp] theorem State.sliceUp_twin (s : State) (n : Nat) (f : SliceSt → SliceSt) : (s.sliceUp n f).twin = s.twin := rfl
@[simp] theorem State.sliceUp_str (s : State) (n : Nat) (f : SliceSt → SliceSt) : (s.sliceUp n f).str = s.str := rfl
@[simp] theorem State.sliceUp_hst (s : State) (n : Nat) (f : SliceSt → SliceSt) : (s.sliceUp n f).hst = s.hst := rfl
@[simp] theorem State.sliceUp_pending (s : State) (n : Nat) (f : SliceSt → SliceSt) : (s.sliceUp n f).pending = s.pending := rfl
@[simp] theorem State.sliceUp_rd (s : State) (n : Nat) (f : SliceSt → SliceSt) (a : Nat) : (s.sliceUp n f).rd a = s.rd a := rfl
@[simp] theorem State.sliceUp_get (s : State) (n : Nat) (f : SliceSt → SliceSt) (h : Fld) : (s.sliceUp n f).get h = s.get h := rfl
@[simp] theorem State.sliceUp_getS (s : State) (n : Nat) (f : SliceSt → SliceSt) (h : Fld) : (s.sliceUp n f).getS h = s.getS h := rfl
@[simp] theorem State.sliceUp_on (s : State) (n : Nat) (f : SliceSt → SliceSt) (h : Fld) : (s.sliceUp n f).on h = s.on h := rfl
@[simp] theorem State.sliceUp_bank (s : State) (n : Nat) (f : SliceSt → SliceSt) (j : Nat) : (s.sliceUp n f).bank j = s.bank j := rfl
@[simp] theorem State.sliceUp_sense_slices (s : State) (n : Nat) (f : SliceSt → SliceSt) : (s.sliceUp n f).sense.slices = s.sense.slices.modify n f := rfl
@[simp] theorem State.sliceUp_sense_inputs (s : State) (n : Nat) (f : SliceSt → SliceSt) : (s.sliceUp n f).sense.inputs = s.sense.inputs := rfl
@[simp] theorem State.sliceUp_sense_rot (s : State) (n : Nat) (f : SliceSt → SliceSt) : (s.sliceUp n f).sense.rot = s.sense.rot := rfl
@[simp] theorem State.sliceUp_sense_calCount (s : State) (n : Nat) (f : SliceSt → SliceSt) : (s.sliceUp n f).sense.calCount = s.sense.calCount := rfl
@[simp] theorem State.sliceUp_sense_rails (s : State) (n : Nat) (f : SliceSt → SliceSt) : (s.sliceUp n f).sense.rails = s.sense.rails := rfl
@[simp] theorem State.sliceUp_sense_calLatch (s : State) (n : Nat) (f : SliceSt → SliceSt) : (s.sliceUp n f).sense.calLatch = s.sense.calLatch := rfl

/-! ### State.inputUp -/

@[simp] theorem State.inputUp_regs (s : State) (i : Nat) (f : SnsInput → SnsInput) : (s.inputUp i f).regs = s.regs := rfl
@[simp] theorem State.inputUp_heldU (s : State) (i : Nat) (f : SnsInput → SnsInput) : (s.inputUp i f).heldU = s.heldU := rfl
@[simp] theorem State.inputUp_heldB (s : State) (i : Nat) (f : SnsInput → SnsInput) : (s.inputUp i f).heldB = s.heldB := rfl
@[simp] theorem State.inputUp_banks (s : State) (i : Nat) (f : SnsInput → SnsInput) : (s.inputUp i f).banks = s.banks := rfl
@[simp] theorem State.inputUp_conds (s : State) (i : Nat) (f : SnsInput → SnsInput) : (s.inputUp i f).conds = s.conds := rfl
@[simp] theorem State.inputUp_gates (s : State) (i : Nat) (f : SnsInput → SnsInput) : (s.inputUp i f).gates = s.gates := rfl
@[simp] theorem State.inputUp_rdata (s : State) (i : Nat) (f : SnsInput → SnsInput) : (s.inputUp i f).rdata = s.rdata := rfl
@[simp] theorem State.inputUp_free (s : State) (i : Nat) (f : SnsInput → SnsInput) : (s.inputUp i f).free = s.free := rfl
@[simp] theorem State.inputUp_sys (s : State) (i : Nat) (f : SnsInput → SnsInput) : (s.inputUp i f).sys = s.sys := rfl
@[simp] theorem State.inputUp_time (s : State) (i : Nat) (f : SnsInput → SnsInput) : (s.inputUp i f).time = s.time := rfl
@[simp] theorem State.inputUp_ain (s : State) (i : Nat) (f : SnsInput → SnsInput) : (s.inputUp i f).ain = s.ain := rfl
@[simp] theorem State.inputUp_mb (s : State) (i : Nat) (f : SnsInput → SnsInput) : (s.inputUp i f).mb = s.mb := rfl
@[simp] theorem State.inputUp_scn (s : State) (i : Nat) (f : SnsInput → SnsInput) : (s.inputUp i f).scn = s.scn := rfl
@[simp] theorem State.inputUp_legs (s : State) (i : Nat) (f : SnsInput → SnsInput) : (s.inputUp i f).legs = s.legs := rfl
@[simp] theorem State.inputUp_pwm (s : State) (i : Nat) (f : SnsInput → SnsInput) : (s.inputUp i f).pwm = s.pwm := rfl
@[simp] theorem State.inputUp_safe (s : State) (i : Nat) (f : SnsInput → SnsInput) : (s.inputUp i f).safe = s.safe := rfl
@[simp] theorem State.inputUp_dlCal (s : State) (i : Nat) (f : SnsInput → SnsInput) : (s.inputUp i f).dlCal = s.dlCal := rfl
@[simp] theorem State.inputUp_pins (s : State) (i : Nat) (f : SnsInput → SnsInput) : (s.inputUp i f).pins = s.pins := rfl
@[simp] theorem State.inputUp_lanes (s : State) (i : Nat) (f : SnsInput → SnsInput) : (s.inputUp i f).lanes = s.lanes := rfl
@[simp] theorem State.inputUp_loops (s : State) (i : Nat) (f : SnsInput → SnsInput) : (s.inputUp i f).loops = s.loops := rfl
@[simp] theorem State.inputUp_lanePool (s : State) (i : Nat) (f : SnsInput → SnsInput) : (s.inputUp i f).lanePool = s.lanePool := rfl
@[simp] theorem State.inputUp_trace (s : State) (i : Nat) (f : SnsInput → SnsInput) : (s.inputUp i f).trace = s.trace := rfl
@[simp] theorem State.inputUp_vent (s : State) (i : Nat) (f : SnsInput → SnsInput) : (s.inputUp i f).vent = s.vent := rfl
@[simp] theorem State.inputUp_mem (s : State) (i : Nat) (f : SnsInput → SnsInput) : (s.inputUp i f).mem = s.mem := rfl
@[simp] theorem State.inputUp_bkg (s : State) (i : Nat) (f : SnsInput → SnsInput) : (s.inputUp i f).bkg = s.bkg := rfl
@[simp] theorem State.inputUp_rings (s : State) (i : Nat) (f : SnsInput → SnsInput) : (s.inputUp i f).rings = s.rings := rfl
@[simp] theorem State.inputUp_fab (s : State) (i : Nat) (f : SnsInput → SnsInput) : (s.inputUp i f).fab = s.fab := rfl
@[simp] theorem State.inputUp_twin (s : State) (i : Nat) (f : SnsInput → SnsInput) : (s.inputUp i f).twin = s.twin := rfl
@[simp] theorem State.inputUp_str (s : State) (i : Nat) (f : SnsInput → SnsInput) : (s.inputUp i f).str = s.str := rfl
@[simp] theorem State.inputUp_hst (s : State) (i : Nat) (f : SnsInput → SnsInput) : (s.inputUp i f).hst = s.hst := rfl
@[simp] theorem State.inputUp_pending (s : State) (i : Nat) (f : SnsInput → SnsInput) : (s.inputUp i f).pending = s.pending := rfl
@[simp] theorem State.inputUp_rd (s : State) (i : Nat) (f : SnsInput → SnsInput) (a : Nat) : (s.inputUp i f).rd a = s.rd a := rfl
@[simp] theorem State.inputUp_get (s : State) (i : Nat) (f : SnsInput → SnsInput) (h : Fld) : (s.inputUp i f).get h = s.get h := rfl
@[simp] theorem State.inputUp_getS (s : State) (i : Nat) (f : SnsInput → SnsInput) (h : Fld) : (s.inputUp i f).getS h = s.getS h := rfl
@[simp] theorem State.inputUp_on (s : State) (i : Nat) (f : SnsInput → SnsInput) (h : Fld) : (s.inputUp i f).on h = s.on h := rfl
@[simp] theorem State.inputUp_bank (s : State) (i : Nat) (f : SnsInput → SnsInput) (j : Nat) : (s.inputUp i f).bank j = s.bank j := rfl
@[simp] theorem State.inputUp_sense_inputs (s : State) (i : Nat) (f : SnsInput → SnsInput) : (s.inputUp i f).sense.inputs = s.sense.inputs.modify i f := rfl
@[simp] theorem State.inputUp_sense_slices (s : State) (i : Nat) (f : SnsInput → SnsInput) : (s.inputUp i f).sense.slices = s.sense.slices := rfl
@[simp] theorem State.inputUp_sense_rot (s : State) (i : Nat) (f : SnsInput → SnsInput) : (s.inputUp i f).sense.rot = s.sense.rot := rfl
@[simp] theorem State.inputUp_sense_calCount (s : State) (i : Nat) (f : SnsInput → SnsInput) : (s.inputUp i f).sense.calCount = s.sense.calCount := rfl
@[simp] theorem State.inputUp_sense_rails (s : State) (i : Nat) (f : SnsInput → SnsInput) : (s.inputUp i f).sense.rails = s.sense.rails := rfl
@[simp] theorem State.inputUp_sense_calLatch (s : State) (i : Nat) (f : SnsInput → SnsInput) : (s.inputUp i f).sense.calLatch = s.sense.calLatch := rfl

/-! ### State.laneUp -/

@[simp] theorem State.laneUp_regs (s : State) (n : Nat) (f : LaneSt → LaneSt) : (s.laneUp n f).regs = s.regs := rfl
@[simp] theorem State.laneUp_heldU (s : State) (n : Nat) (f : LaneSt → LaneSt) : (s.laneUp n f).heldU = s.heldU := rfl
@[simp] theorem State.laneUp_heldB (s : State) (n : Nat) (f : LaneSt → LaneSt) : (s.laneUp n f).heldB = s.heldB := rfl
@[simp] theorem State.laneUp_banks (s : State) (n : Nat) (f : LaneSt → LaneSt) : (s.laneUp n f).banks = s.banks := rfl
@[simp] theorem State.laneUp_conds (s : State) (n : Nat) (f : LaneSt → LaneSt) : (s.laneUp n f).conds = s.conds := rfl
@[simp] theorem State.laneUp_gates (s : State) (n : Nat) (f : LaneSt → LaneSt) : (s.laneUp n f).gates = s.gates := rfl
@[simp] theorem State.laneUp_rdata (s : State) (n : Nat) (f : LaneSt → LaneSt) : (s.laneUp n f).rdata = s.rdata := rfl
@[simp] theorem State.laneUp_free (s : State) (n : Nat) (f : LaneSt → LaneSt) : (s.laneUp n f).free = s.free := rfl
@[simp] theorem State.laneUp_sys (s : State) (n : Nat) (f : LaneSt → LaneSt) : (s.laneUp n f).sys = s.sys := rfl
@[simp] theorem State.laneUp_time (s : State) (n : Nat) (f : LaneSt → LaneSt) : (s.laneUp n f).time = s.time := rfl
@[simp] theorem State.laneUp_ain (s : State) (n : Nat) (f : LaneSt → LaneSt) : (s.laneUp n f).ain = s.ain := rfl
@[simp] theorem State.laneUp_mb (s : State) (n : Nat) (f : LaneSt → LaneSt) : (s.laneUp n f).mb = s.mb := rfl
@[simp] theorem State.laneUp_scn (s : State) (n : Nat) (f : LaneSt → LaneSt) : (s.laneUp n f).scn = s.scn := rfl
@[simp] theorem State.laneUp_legs (s : State) (n : Nat) (f : LaneSt → LaneSt) : (s.laneUp n f).legs = s.legs := rfl
@[simp] theorem State.laneUp_pwm (s : State) (n : Nat) (f : LaneSt → LaneSt) : (s.laneUp n f).pwm = s.pwm := rfl
@[simp] theorem State.laneUp_safe (s : State) (n : Nat) (f : LaneSt → LaneSt) : (s.laneUp n f).safe = s.safe := rfl
@[simp] theorem State.laneUp_dlCal (s : State) (n : Nat) (f : LaneSt → LaneSt) : (s.laneUp n f).dlCal = s.dlCal := rfl
@[simp] theorem State.laneUp_pins (s : State) (n : Nat) (f : LaneSt → LaneSt) : (s.laneUp n f).pins = s.pins := rfl
@[simp] theorem State.laneUp_sense (s : State) (n : Nat) (f : LaneSt → LaneSt) : (s.laneUp n f).sense = s.sense := rfl
@[simp] theorem State.laneUp_loops (s : State) (n : Nat) (f : LaneSt → LaneSt) : (s.laneUp n f).loops = s.loops := rfl
@[simp] theorem State.laneUp_lanePool (s : State) (n : Nat) (f : LaneSt → LaneSt) : (s.laneUp n f).lanePool = s.lanePool := rfl
@[simp] theorem State.laneUp_trace (s : State) (n : Nat) (f : LaneSt → LaneSt) : (s.laneUp n f).trace = s.trace := rfl
@[simp] theorem State.laneUp_vent (s : State) (n : Nat) (f : LaneSt → LaneSt) : (s.laneUp n f).vent = s.vent := rfl
@[simp] theorem State.laneUp_mem (s : State) (n : Nat) (f : LaneSt → LaneSt) : (s.laneUp n f).mem = s.mem := rfl
@[simp] theorem State.laneUp_bkg (s : State) (n : Nat) (f : LaneSt → LaneSt) : (s.laneUp n f).bkg = s.bkg := rfl
@[simp] theorem State.laneUp_rings (s : State) (n : Nat) (f : LaneSt → LaneSt) : (s.laneUp n f).rings = s.rings := rfl
@[simp] theorem State.laneUp_fab (s : State) (n : Nat) (f : LaneSt → LaneSt) : (s.laneUp n f).fab = s.fab := rfl
@[simp] theorem State.laneUp_twin (s : State) (n : Nat) (f : LaneSt → LaneSt) : (s.laneUp n f).twin = s.twin := rfl
@[simp] theorem State.laneUp_str (s : State) (n : Nat) (f : LaneSt → LaneSt) : (s.laneUp n f).str = s.str := rfl
@[simp] theorem State.laneUp_hst (s : State) (n : Nat) (f : LaneSt → LaneSt) : (s.laneUp n f).hst = s.hst := rfl
@[simp] theorem State.laneUp_pending (s : State) (n : Nat) (f : LaneSt → LaneSt) : (s.laneUp n f).pending = s.pending := rfl
@[simp] theorem State.laneUp_rd (s : State) (n : Nat) (f : LaneSt → LaneSt) (a : Nat) : (s.laneUp n f).rd a = s.rd a := rfl
@[simp] theorem State.laneUp_get (s : State) (n : Nat) (f : LaneSt → LaneSt) (h : Fld) : (s.laneUp n f).get h = s.get h := rfl
@[simp] theorem State.laneUp_getS (s : State) (n : Nat) (f : LaneSt → LaneSt) (h : Fld) : (s.laneUp n f).getS h = s.getS h := rfl
@[simp] theorem State.laneUp_on (s : State) (n : Nat) (f : LaneSt → LaneSt) (h : Fld) : (s.laneUp n f).on h = s.on h := rfl
@[simp] theorem State.laneUp_bank (s : State) (n : Nat) (f : LaneSt → LaneSt) (j : Nat) : (s.laneUp n f).bank j = s.bank j := rfl
@[simp] theorem State.laneUp_lanes (s : State) (n : Nat) (f : LaneSt → LaneSt) : (s.laneUp n f).lanes = s.lanes.modify n f := rfl

/-! ### State.loopUp -/

@[simp] theorem State.loopUp_regs (s : State) (c : Nat) (f : LoopChan → LoopChan) : (s.loopUp c f).regs = s.regs := rfl
@[simp] theorem State.loopUp_heldU (s : State) (c : Nat) (f : LoopChan → LoopChan) : (s.loopUp c f).heldU = s.heldU := rfl
@[simp] theorem State.loopUp_heldB (s : State) (c : Nat) (f : LoopChan → LoopChan) : (s.loopUp c f).heldB = s.heldB := rfl
@[simp] theorem State.loopUp_banks (s : State) (c : Nat) (f : LoopChan → LoopChan) : (s.loopUp c f).banks = s.banks := rfl
@[simp] theorem State.loopUp_conds (s : State) (c : Nat) (f : LoopChan → LoopChan) : (s.loopUp c f).conds = s.conds := rfl
@[simp] theorem State.loopUp_gates (s : State) (c : Nat) (f : LoopChan → LoopChan) : (s.loopUp c f).gates = s.gates := rfl
@[simp] theorem State.loopUp_rdata (s : State) (c : Nat) (f : LoopChan → LoopChan) : (s.loopUp c f).rdata = s.rdata := rfl
@[simp] theorem State.loopUp_free (s : State) (c : Nat) (f : LoopChan → LoopChan) : (s.loopUp c f).free = s.free := rfl
@[simp] theorem State.loopUp_sys (s : State) (c : Nat) (f : LoopChan → LoopChan) : (s.loopUp c f).sys = s.sys := rfl
@[simp] theorem State.loopUp_time (s : State) (c : Nat) (f : LoopChan → LoopChan) : (s.loopUp c f).time = s.time := rfl
@[simp] theorem State.loopUp_ain (s : State) (c : Nat) (f : LoopChan → LoopChan) : (s.loopUp c f).ain = s.ain := rfl
@[simp] theorem State.loopUp_mb (s : State) (c : Nat) (f : LoopChan → LoopChan) : (s.loopUp c f).mb = s.mb := rfl
@[simp] theorem State.loopUp_scn (s : State) (c : Nat) (f : LoopChan → LoopChan) : (s.loopUp c f).scn = s.scn := rfl
@[simp] theorem State.loopUp_legs (s : State) (c : Nat) (f : LoopChan → LoopChan) : (s.loopUp c f).legs = s.legs := rfl
@[simp] theorem State.loopUp_pwm (s : State) (c : Nat) (f : LoopChan → LoopChan) : (s.loopUp c f).pwm = s.pwm := rfl
@[simp] theorem State.loopUp_safe (s : State) (c : Nat) (f : LoopChan → LoopChan) : (s.loopUp c f).safe = s.safe := rfl
@[simp] theorem State.loopUp_dlCal (s : State) (c : Nat) (f : LoopChan → LoopChan) : (s.loopUp c f).dlCal = s.dlCal := rfl
@[simp] theorem State.loopUp_pins (s : State) (c : Nat) (f : LoopChan → LoopChan) : (s.loopUp c f).pins = s.pins := rfl
@[simp] theorem State.loopUp_sense (s : State) (c : Nat) (f : LoopChan → LoopChan) : (s.loopUp c f).sense = s.sense := rfl
@[simp] theorem State.loopUp_lanes (s : State) (c : Nat) (f : LoopChan → LoopChan) : (s.loopUp c f).lanes = s.lanes := rfl
@[simp] theorem State.loopUp_lanePool (s : State) (c : Nat) (f : LoopChan → LoopChan) : (s.loopUp c f).lanePool = s.lanePool := rfl
@[simp] theorem State.loopUp_trace (s : State) (c : Nat) (f : LoopChan → LoopChan) : (s.loopUp c f).trace = s.trace := rfl
@[simp] theorem State.loopUp_vent (s : State) (c : Nat) (f : LoopChan → LoopChan) : (s.loopUp c f).vent = s.vent := rfl
@[simp] theorem State.loopUp_mem (s : State) (c : Nat) (f : LoopChan → LoopChan) : (s.loopUp c f).mem = s.mem := rfl
@[simp] theorem State.loopUp_bkg (s : State) (c : Nat) (f : LoopChan → LoopChan) : (s.loopUp c f).bkg = s.bkg := rfl
@[simp] theorem State.loopUp_rings (s : State) (c : Nat) (f : LoopChan → LoopChan) : (s.loopUp c f).rings = s.rings := rfl
@[simp] theorem State.loopUp_fab (s : State) (c : Nat) (f : LoopChan → LoopChan) : (s.loopUp c f).fab = s.fab := rfl
@[simp] theorem State.loopUp_twin (s : State) (c : Nat) (f : LoopChan → LoopChan) : (s.loopUp c f).twin = s.twin := rfl
@[simp] theorem State.loopUp_str (s : State) (c : Nat) (f : LoopChan → LoopChan) : (s.loopUp c f).str = s.str := rfl
@[simp] theorem State.loopUp_hst (s : State) (c : Nat) (f : LoopChan → LoopChan) : (s.loopUp c f).hst = s.hst := rfl
@[simp] theorem State.loopUp_pending (s : State) (c : Nat) (f : LoopChan → LoopChan) : (s.loopUp c f).pending = s.pending := rfl
@[simp] theorem State.loopUp_rd (s : State) (c : Nat) (f : LoopChan → LoopChan) (a : Nat) : (s.loopUp c f).rd a = s.rd a := rfl
@[simp] theorem State.loopUp_get (s : State) (c : Nat) (f : LoopChan → LoopChan) (h : Fld) : (s.loopUp c f).get h = s.get h := rfl
@[simp] theorem State.loopUp_getS (s : State) (c : Nat) (f : LoopChan → LoopChan) (h : Fld) : (s.loopUp c f).getS h = s.getS h := rfl
@[simp] theorem State.loopUp_on (s : State) (c : Nat) (f : LoopChan → LoopChan) (h : Fld) : (s.loopUp c f).on h = s.on h := rfl
@[simp] theorem State.loopUp_bank (s : State) (c : Nat) (f : LoopChan → LoopChan) (j : Nat) : (s.loopUp c f).bank j = s.bank j := rfl
@[simp] theorem State.loopUp_loops (s : State) (c : Nat) (f : LoopChan → LoopChan) : (s.loopUp c f).loops = s.loops.modify c f := rfl

/-! ### State.poolUp -/

@[simp] theorem State.poolUp_regs (s : State) (f : LanePool → LanePool) : (s.poolUp f).regs = s.regs := rfl
@[simp] theorem State.poolUp_heldU (s : State) (f : LanePool → LanePool) : (s.poolUp f).heldU = s.heldU := rfl
@[simp] theorem State.poolUp_heldB (s : State) (f : LanePool → LanePool) : (s.poolUp f).heldB = s.heldB := rfl
@[simp] theorem State.poolUp_banks (s : State) (f : LanePool → LanePool) : (s.poolUp f).banks = s.banks := rfl
@[simp] theorem State.poolUp_conds (s : State) (f : LanePool → LanePool) : (s.poolUp f).conds = s.conds := rfl
@[simp] theorem State.poolUp_gates (s : State) (f : LanePool → LanePool) : (s.poolUp f).gates = s.gates := rfl
@[simp] theorem State.poolUp_rdata (s : State) (f : LanePool → LanePool) : (s.poolUp f).rdata = s.rdata := rfl
@[simp] theorem State.poolUp_free (s : State) (f : LanePool → LanePool) : (s.poolUp f).free = s.free := rfl
@[simp] theorem State.poolUp_sys (s : State) (f : LanePool → LanePool) : (s.poolUp f).sys = s.sys := rfl
@[simp] theorem State.poolUp_time (s : State) (f : LanePool → LanePool) : (s.poolUp f).time = s.time := rfl
@[simp] theorem State.poolUp_ain (s : State) (f : LanePool → LanePool) : (s.poolUp f).ain = s.ain := rfl
@[simp] theorem State.poolUp_mb (s : State) (f : LanePool → LanePool) : (s.poolUp f).mb = s.mb := rfl
@[simp] theorem State.poolUp_scn (s : State) (f : LanePool → LanePool) : (s.poolUp f).scn = s.scn := rfl
@[simp] theorem State.poolUp_legs (s : State) (f : LanePool → LanePool) : (s.poolUp f).legs = s.legs := rfl
@[simp] theorem State.poolUp_pwm (s : State) (f : LanePool → LanePool) : (s.poolUp f).pwm = s.pwm := rfl
@[simp] theorem State.poolUp_safe (s : State) (f : LanePool → LanePool) : (s.poolUp f).safe = s.safe := rfl
@[simp] theorem State.poolUp_dlCal (s : State) (f : LanePool → LanePool) : (s.poolUp f).dlCal = s.dlCal := rfl
@[simp] theorem State.poolUp_pins (s : State) (f : LanePool → LanePool) : (s.poolUp f).pins = s.pins := rfl
@[simp] theorem State.poolUp_sense (s : State) (f : LanePool → LanePool) : (s.poolUp f).sense = s.sense := rfl
@[simp] theorem State.poolUp_lanes (s : State) (f : LanePool → LanePool) : (s.poolUp f).lanes = s.lanes := rfl
@[simp] theorem State.poolUp_loops (s : State) (f : LanePool → LanePool) : (s.poolUp f).loops = s.loops := rfl
@[simp] theorem State.poolUp_trace (s : State) (f : LanePool → LanePool) : (s.poolUp f).trace = s.trace := rfl
@[simp] theorem State.poolUp_vent (s : State) (f : LanePool → LanePool) : (s.poolUp f).vent = s.vent := rfl
@[simp] theorem State.poolUp_mem (s : State) (f : LanePool → LanePool) : (s.poolUp f).mem = s.mem := rfl
@[simp] theorem State.poolUp_bkg (s : State) (f : LanePool → LanePool) : (s.poolUp f).bkg = s.bkg := rfl
@[simp] theorem State.poolUp_rings (s : State) (f : LanePool → LanePool) : (s.poolUp f).rings = s.rings := rfl
@[simp] theorem State.poolUp_fab (s : State) (f : LanePool → LanePool) : (s.poolUp f).fab = s.fab := rfl
@[simp] theorem State.poolUp_twin (s : State) (f : LanePool → LanePool) : (s.poolUp f).twin = s.twin := rfl
@[simp] theorem State.poolUp_str (s : State) (f : LanePool → LanePool) : (s.poolUp f).str = s.str := rfl
@[simp] theorem State.poolUp_hst (s : State) (f : LanePool → LanePool) : (s.poolUp f).hst = s.hst := rfl
@[simp] theorem State.poolUp_pending (s : State) (f : LanePool → LanePool) : (s.poolUp f).pending = s.pending := rfl
@[simp] theorem State.poolUp_rd (s : State) (f : LanePool → LanePool) (a : Nat) : (s.poolUp f).rd a = s.rd a := rfl
@[simp] theorem State.poolUp_get (s : State) (f : LanePool → LanePool) (h : Fld) : (s.poolUp f).get h = s.get h := rfl
@[simp] theorem State.poolUp_getS (s : State) (f : LanePool → LanePool) (h : Fld) : (s.poolUp f).getS h = s.getS h := rfl
@[simp] theorem State.poolUp_on (s : State) (f : LanePool → LanePool) (h : Fld) : (s.poolUp f).on h = s.on h := rfl
@[simp] theorem State.poolUp_bank (s : State) (f : LanePool → LanePool) (j : Nat) : (s.poolUp f).bank j = s.bank j := rfl
@[simp] theorem State.poolUp_lanePool (s : State) (f : LanePool → LanePool) : (s.poolUp f).lanePool = f s.lanePool := rfl

/-! ### State.trcUp -/

@[simp] theorem State.trcUp_regs (s : State) (b : Nat) (f : TraceBuf → TraceBuf) : (s.trcUp b f).regs = s.regs := rfl
@[simp] theorem State.trcUp_heldU (s : State) (b : Nat) (f : TraceBuf → TraceBuf) : (s.trcUp b f).heldU = s.heldU := rfl
@[simp] theorem State.trcUp_heldB (s : State) (b : Nat) (f : TraceBuf → TraceBuf) : (s.trcUp b f).heldB = s.heldB := rfl
@[simp] theorem State.trcUp_banks (s : State) (b : Nat) (f : TraceBuf → TraceBuf) : (s.trcUp b f).banks = s.banks := rfl
@[simp] theorem State.trcUp_conds (s : State) (b : Nat) (f : TraceBuf → TraceBuf) : (s.trcUp b f).conds = s.conds := rfl
@[simp] theorem State.trcUp_gates (s : State) (b : Nat) (f : TraceBuf → TraceBuf) : (s.trcUp b f).gates = s.gates := rfl
@[simp] theorem State.trcUp_rdata (s : State) (b : Nat) (f : TraceBuf → TraceBuf) : (s.trcUp b f).rdata = s.rdata := rfl
@[simp] theorem State.trcUp_free (s : State) (b : Nat) (f : TraceBuf → TraceBuf) : (s.trcUp b f).free = s.free := rfl
@[simp] theorem State.trcUp_sys (s : State) (b : Nat) (f : TraceBuf → TraceBuf) : (s.trcUp b f).sys = s.sys := rfl
@[simp] theorem State.trcUp_time (s : State) (b : Nat) (f : TraceBuf → TraceBuf) : (s.trcUp b f).time = s.time := rfl
@[simp] theorem State.trcUp_ain (s : State) (b : Nat) (f : TraceBuf → TraceBuf) : (s.trcUp b f).ain = s.ain := rfl
@[simp] theorem State.trcUp_mb (s : State) (b : Nat) (f : TraceBuf → TraceBuf) : (s.trcUp b f).mb = s.mb := rfl
@[simp] theorem State.trcUp_scn (s : State) (b : Nat) (f : TraceBuf → TraceBuf) : (s.trcUp b f).scn = s.scn := rfl
@[simp] theorem State.trcUp_legs (s : State) (b : Nat) (f : TraceBuf → TraceBuf) : (s.trcUp b f).legs = s.legs := rfl
@[simp] theorem State.trcUp_pwm (s : State) (b : Nat) (f : TraceBuf → TraceBuf) : (s.trcUp b f).pwm = s.pwm := rfl
@[simp] theorem State.trcUp_safe (s : State) (b : Nat) (f : TraceBuf → TraceBuf) : (s.trcUp b f).safe = s.safe := rfl
@[simp] theorem State.trcUp_dlCal (s : State) (b : Nat) (f : TraceBuf → TraceBuf) : (s.trcUp b f).dlCal = s.dlCal := rfl
@[simp] theorem State.trcUp_pins (s : State) (b : Nat) (f : TraceBuf → TraceBuf) : (s.trcUp b f).pins = s.pins := rfl
@[simp] theorem State.trcUp_sense (s : State) (b : Nat) (f : TraceBuf → TraceBuf) : (s.trcUp b f).sense = s.sense := rfl
@[simp] theorem State.trcUp_lanes (s : State) (b : Nat) (f : TraceBuf → TraceBuf) : (s.trcUp b f).lanes = s.lanes := rfl
@[simp] theorem State.trcUp_loops (s : State) (b : Nat) (f : TraceBuf → TraceBuf) : (s.trcUp b f).loops = s.loops := rfl
@[simp] theorem State.trcUp_lanePool (s : State) (b : Nat) (f : TraceBuf → TraceBuf) : (s.trcUp b f).lanePool = s.lanePool := rfl
@[simp] theorem State.trcUp_vent (s : State) (b : Nat) (f : TraceBuf → TraceBuf) : (s.trcUp b f).vent = s.vent := rfl
@[simp] theorem State.trcUp_mem (s : State) (b : Nat) (f : TraceBuf → TraceBuf) : (s.trcUp b f).mem = s.mem := rfl
@[simp] theorem State.trcUp_bkg (s : State) (b : Nat) (f : TraceBuf → TraceBuf) : (s.trcUp b f).bkg = s.bkg := rfl
@[simp] theorem State.trcUp_rings (s : State) (b : Nat) (f : TraceBuf → TraceBuf) : (s.trcUp b f).rings = s.rings := rfl
@[simp] theorem State.trcUp_fab (s : State) (b : Nat) (f : TraceBuf → TraceBuf) : (s.trcUp b f).fab = s.fab := rfl
@[simp] theorem State.trcUp_twin (s : State) (b : Nat) (f : TraceBuf → TraceBuf) : (s.trcUp b f).twin = s.twin := rfl
@[simp] theorem State.trcUp_str (s : State) (b : Nat) (f : TraceBuf → TraceBuf) : (s.trcUp b f).str = s.str := rfl
@[simp] theorem State.trcUp_hst (s : State) (b : Nat) (f : TraceBuf → TraceBuf) : (s.trcUp b f).hst = s.hst := rfl
@[simp] theorem State.trcUp_pending (s : State) (b : Nat) (f : TraceBuf → TraceBuf) : (s.trcUp b f).pending = s.pending := rfl
@[simp] theorem State.trcUp_rd (s : State) (b : Nat) (f : TraceBuf → TraceBuf) (a : Nat) : (s.trcUp b f).rd a = s.rd a := rfl
@[simp] theorem State.trcUp_get (s : State) (b : Nat) (f : TraceBuf → TraceBuf) (h : Fld) : (s.trcUp b f).get h = s.get h := rfl
@[simp] theorem State.trcUp_getS (s : State) (b : Nat) (f : TraceBuf → TraceBuf) (h : Fld) : (s.trcUp b f).getS h = s.getS h := rfl
@[simp] theorem State.trcUp_on (s : State) (b : Nat) (f : TraceBuf → TraceBuf) (h : Fld) : (s.trcUp b f).on h = s.on h := rfl
@[simp] theorem State.trcUp_bank (s : State) (b : Nat) (f : TraceBuf → TraceBuf) (j : Nat) : (s.trcUp b f).bank j = s.bank j := rfl
@[simp] theorem State.trcUp_trace (s : State) (b : Nat) (f : TraceBuf → TraceBuf) : (s.trcUp b f).trace = s.trace.modify b f := rfl

/-! ### State.memUp -/

@[simp] theorem State.memUp_regs (s : State) (f : Mem → Mem) : (s.memUp f).regs = s.regs := rfl
@[simp] theorem State.memUp_heldU (s : State) (f : Mem → Mem) : (s.memUp f).heldU = s.heldU := rfl
@[simp] theorem State.memUp_heldB (s : State) (f : Mem → Mem) : (s.memUp f).heldB = s.heldB := rfl
@[simp] theorem State.memUp_banks (s : State) (f : Mem → Mem) : (s.memUp f).banks = s.banks := rfl
@[simp] theorem State.memUp_conds (s : State) (f : Mem → Mem) : (s.memUp f).conds = s.conds := rfl
@[simp] theorem State.memUp_gates (s : State) (f : Mem → Mem) : (s.memUp f).gates = s.gates := rfl
@[simp] theorem State.memUp_rdata (s : State) (f : Mem → Mem) : (s.memUp f).rdata = s.rdata := rfl
@[simp] theorem State.memUp_free (s : State) (f : Mem → Mem) : (s.memUp f).free = s.free := rfl
@[simp] theorem State.memUp_sys (s : State) (f : Mem → Mem) : (s.memUp f).sys = s.sys := rfl
@[simp] theorem State.memUp_time (s : State) (f : Mem → Mem) : (s.memUp f).time = s.time := rfl
@[simp] theorem State.memUp_ain (s : State) (f : Mem → Mem) : (s.memUp f).ain = s.ain := rfl
@[simp] theorem State.memUp_mb (s : State) (f : Mem → Mem) : (s.memUp f).mb = s.mb := rfl
@[simp] theorem State.memUp_scn (s : State) (f : Mem → Mem) : (s.memUp f).scn = s.scn := rfl
@[simp] theorem State.memUp_legs (s : State) (f : Mem → Mem) : (s.memUp f).legs = s.legs := rfl
@[simp] theorem State.memUp_pwm (s : State) (f : Mem → Mem) : (s.memUp f).pwm = s.pwm := rfl
@[simp] theorem State.memUp_safe (s : State) (f : Mem → Mem) : (s.memUp f).safe = s.safe := rfl
@[simp] theorem State.memUp_dlCal (s : State) (f : Mem → Mem) : (s.memUp f).dlCal = s.dlCal := rfl
@[simp] theorem State.memUp_pins (s : State) (f : Mem → Mem) : (s.memUp f).pins = s.pins := rfl
@[simp] theorem State.memUp_sense (s : State) (f : Mem → Mem) : (s.memUp f).sense = s.sense := rfl
@[simp] theorem State.memUp_lanes (s : State) (f : Mem → Mem) : (s.memUp f).lanes = s.lanes := rfl
@[simp] theorem State.memUp_loops (s : State) (f : Mem → Mem) : (s.memUp f).loops = s.loops := rfl
@[simp] theorem State.memUp_lanePool (s : State) (f : Mem → Mem) : (s.memUp f).lanePool = s.lanePool := rfl
@[simp] theorem State.memUp_trace (s : State) (f : Mem → Mem) : (s.memUp f).trace = s.trace := rfl
@[simp] theorem State.memUp_vent (s : State) (f : Mem → Mem) : (s.memUp f).vent = s.vent := rfl
@[simp] theorem State.memUp_bkg (s : State) (f : Mem → Mem) : (s.memUp f).bkg = s.bkg := rfl
@[simp] theorem State.memUp_rings (s : State) (f : Mem → Mem) : (s.memUp f).rings = s.rings := rfl
@[simp] theorem State.memUp_fab (s : State) (f : Mem → Mem) : (s.memUp f).fab = s.fab := rfl
@[simp] theorem State.memUp_twin (s : State) (f : Mem → Mem) : (s.memUp f).twin = s.twin := rfl
@[simp] theorem State.memUp_str (s : State) (f : Mem → Mem) : (s.memUp f).str = s.str := rfl
@[simp] theorem State.memUp_hst (s : State) (f : Mem → Mem) : (s.memUp f).hst = s.hst := rfl
@[simp] theorem State.memUp_pending (s : State) (f : Mem → Mem) : (s.memUp f).pending = s.pending := rfl
@[simp] theorem State.memUp_rd (s : State) (f : Mem → Mem) (a : Nat) : (s.memUp f).rd a = s.rd a := rfl
@[simp] theorem State.memUp_get (s : State) (f : Mem → Mem) (h : Fld) : (s.memUp f).get h = s.get h := rfl
@[simp] theorem State.memUp_getS (s : State) (f : Mem → Mem) (h : Fld) : (s.memUp f).getS h = s.getS h := rfl
@[simp] theorem State.memUp_on (s : State) (f : Mem → Mem) (h : Fld) : (s.memUp f).on h = s.on h := rfl
@[simp] theorem State.memUp_bank (s : State) (f : Mem → Mem) (j : Nat) : (s.memUp f).bank j = s.bank j := rfl
@[simp] theorem State.memUp_mem (s : State) (f : Mem → Mem) : (s.memUp f).mem = f s.mem := rfl

/-! ### State.bankUp -/

@[simp] theorem State.bankUp_regs (s : State) (b : Nat) (f : BankSt → BankSt) : (s.bankUp b f).regs = s.regs := rfl
@[simp] theorem State.bankUp_heldU (s : State) (b : Nat) (f : BankSt → BankSt) : (s.bankUp b f).heldU = s.heldU := rfl
@[simp] theorem State.bankUp_heldB (s : State) (b : Nat) (f : BankSt → BankSt) : (s.bankUp b f).heldB = s.heldB := rfl
@[simp] theorem State.bankUp_banks (s : State) (b : Nat) (f : BankSt → BankSt) : (s.bankUp b f).banks = s.banks := rfl
@[simp] theorem State.bankUp_conds (s : State) (b : Nat) (f : BankSt → BankSt) : (s.bankUp b f).conds = s.conds := rfl
@[simp] theorem State.bankUp_gates (s : State) (b : Nat) (f : BankSt → BankSt) : (s.bankUp b f).gates = s.gates := rfl
@[simp] theorem State.bankUp_rdata (s : State) (b : Nat) (f : BankSt → BankSt) : (s.bankUp b f).rdata = s.rdata := rfl
@[simp] theorem State.bankUp_free (s : State) (b : Nat) (f : BankSt → BankSt) : (s.bankUp b f).free = s.free := rfl
@[simp] theorem State.bankUp_sys (s : State) (b : Nat) (f : BankSt → BankSt) : (s.bankUp b f).sys = s.sys := rfl
@[simp] theorem State.bankUp_time (s : State) (b : Nat) (f : BankSt → BankSt) : (s.bankUp b f).time = s.time := rfl
@[simp] theorem State.bankUp_ain (s : State) (b : Nat) (f : BankSt → BankSt) : (s.bankUp b f).ain = s.ain := rfl
@[simp] theorem State.bankUp_mb (s : State) (b : Nat) (f : BankSt → BankSt) : (s.bankUp b f).mb = s.mb := rfl
@[simp] theorem State.bankUp_scn (s : State) (b : Nat) (f : BankSt → BankSt) : (s.bankUp b f).scn = s.scn := rfl
@[simp] theorem State.bankUp_legs (s : State) (b : Nat) (f : BankSt → BankSt) : (s.bankUp b f).legs = s.legs := rfl
@[simp] theorem State.bankUp_pwm (s : State) (b : Nat) (f : BankSt → BankSt) : (s.bankUp b f).pwm = s.pwm := rfl
@[simp] theorem State.bankUp_safe (s : State) (b : Nat) (f : BankSt → BankSt) : (s.bankUp b f).safe = s.safe := rfl
@[simp] theorem State.bankUp_dlCal (s : State) (b : Nat) (f : BankSt → BankSt) : (s.bankUp b f).dlCal = s.dlCal := rfl
@[simp] theorem State.bankUp_pins (s : State) (b : Nat) (f : BankSt → BankSt) : (s.bankUp b f).pins = s.pins := rfl
@[simp] theorem State.bankUp_sense (s : State) (b : Nat) (f : BankSt → BankSt) : (s.bankUp b f).sense = s.sense := rfl
@[simp] theorem State.bankUp_lanes (s : State) (b : Nat) (f : BankSt → BankSt) : (s.bankUp b f).lanes = s.lanes := rfl
@[simp] theorem State.bankUp_loops (s : State) (b : Nat) (f : BankSt → BankSt) : (s.bankUp b f).loops = s.loops := rfl
@[simp] theorem State.bankUp_lanePool (s : State) (b : Nat) (f : BankSt → BankSt) : (s.bankUp b f).lanePool = s.lanePool := rfl
@[simp] theorem State.bankUp_trace (s : State) (b : Nat) (f : BankSt → BankSt) : (s.bankUp b f).trace = s.trace := rfl
@[simp] theorem State.bankUp_vent (s : State) (b : Nat) (f : BankSt → BankSt) : (s.bankUp b f).vent = s.vent := rfl
@[simp] theorem State.bankUp_bkg (s : State) (b : Nat) (f : BankSt → BankSt) : (s.bankUp b f).bkg = s.bkg := rfl
@[simp] theorem State.bankUp_rings (s : State) (b : Nat) (f : BankSt → BankSt) : (s.bankUp b f).rings = s.rings := rfl
@[simp] theorem State.bankUp_fab (s : State) (b : Nat) (f : BankSt → BankSt) : (s.bankUp b f).fab = s.fab := rfl
@[simp] theorem State.bankUp_twin (s : State) (b : Nat) (f : BankSt → BankSt) : (s.bankUp b f).twin = s.twin := rfl
@[simp] theorem State.bankUp_str (s : State) (b : Nat) (f : BankSt → BankSt) : (s.bankUp b f).str = s.str := rfl
@[simp] theorem State.bankUp_hst (s : State) (b : Nat) (f : BankSt → BankSt) : (s.bankUp b f).hst = s.hst := rfl
@[simp] theorem State.bankUp_pending (s : State) (b : Nat) (f : BankSt → BankSt) : (s.bankUp b f).pending = s.pending := rfl
@[simp] theorem State.bankUp_rd (s : State) (b : Nat) (f : BankSt → BankSt) (a : Nat) : (s.bankUp b f).rd a = s.rd a := rfl
@[simp] theorem State.bankUp_get (s : State) (b : Nat) (f : BankSt → BankSt) (h : Fld) : (s.bankUp b f).get h = s.get h := rfl
@[simp] theorem State.bankUp_getS (s : State) (b : Nat) (f : BankSt → BankSt) (h : Fld) : (s.bankUp b f).getS h = s.getS h := rfl
@[simp] theorem State.bankUp_on (s : State) (b : Nat) (f : BankSt → BankSt) (h : Fld) : (s.bankUp b f).on h = s.on h := rfl
@[simp] theorem State.bankUp_bank (s : State) (b : Nat) (f : BankSt → BankSt) (j : Nat) : (s.bankUp b f).bank j = s.bank j := rfl
@[simp] theorem State.bankUp_mem_banks (s : State) (b : Nat) (f : BankSt → BankSt) : (s.bankUp b f).mem.banks = s.mem.banks.modify b f := rfl
@[simp] theorem State.bankUp_mem_small (s : State) (b : Nat) (f : BankSt → BankSt) : (s.bankUp b f).mem.small = s.mem.small := rfl
@[simp] theorem State.bankUp_mem_errs (s : State) (b : Nat) (f : BankSt → BankSt) : (s.bankUp b f).mem.errs = s.mem.errs := rfl
@[simp] theorem State.bankUp_mem_back (s : State) (b : Nat) (f : BankSt → BankSt) : (s.bankUp b f).mem.back = s.mem.back := rfl
@[simp] theorem State.bankUp_mem_scrubRow (s : State) (b : Nat) (f : BankSt → BankSt) : (s.bankUp b f).mem.scrubRow = s.mem.scrubRow := rfl
@[simp] theorem State.bankUp_mem_passStart (s : State) (b : Nat) (f : BankSt → BankSt) : (s.bankUp b f).mem.passStart = s.mem.passStart := rfl
@[simp] theorem State.bankUp_mem_words (s : State) (b : Nat) (f : BankSt → BankSt) : (s.bankUp b f).mem.words = s.mem.words := rfl

/-! ### State.bkgUp -/

@[simp] theorem State.bkgUp_regs (s : State) (f : Bkg → Bkg) : (s.bkgUp f).regs = s.regs := rfl
@[simp] theorem State.bkgUp_heldU (s : State) (f : Bkg → Bkg) : (s.bkgUp f).heldU = s.heldU := rfl
@[simp] theorem State.bkgUp_heldB (s : State) (f : Bkg → Bkg) : (s.bkgUp f).heldB = s.heldB := rfl
@[simp] theorem State.bkgUp_banks (s : State) (f : Bkg → Bkg) : (s.bkgUp f).banks = s.banks := rfl
@[simp] theorem State.bkgUp_conds (s : State) (f : Bkg → Bkg) : (s.bkgUp f).conds = s.conds := rfl
@[simp] theorem State.bkgUp_gates (s : State) (f : Bkg → Bkg) : (s.bkgUp f).gates = s.gates := rfl
@[simp] theorem State.bkgUp_rdata (s : State) (f : Bkg → Bkg) : (s.bkgUp f).rdata = s.rdata := rfl
@[simp] theorem State.bkgUp_free (s : State) (f : Bkg → Bkg) : (s.bkgUp f).free = s.free := rfl
@[simp] theorem State.bkgUp_sys (s : State) (f : Bkg → Bkg) : (s.bkgUp f).sys = s.sys := rfl
@[simp] theorem State.bkgUp_time (s : State) (f : Bkg → Bkg) : (s.bkgUp f).time = s.time := rfl
@[simp] theorem State.bkgUp_ain (s : State) (f : Bkg → Bkg) : (s.bkgUp f).ain = s.ain := rfl
@[simp] theorem State.bkgUp_mb (s : State) (f : Bkg → Bkg) : (s.bkgUp f).mb = s.mb := rfl
@[simp] theorem State.bkgUp_scn (s : State) (f : Bkg → Bkg) : (s.bkgUp f).scn = s.scn := rfl
@[simp] theorem State.bkgUp_legs (s : State) (f : Bkg → Bkg) : (s.bkgUp f).legs = s.legs := rfl
@[simp] theorem State.bkgUp_pwm (s : State) (f : Bkg → Bkg) : (s.bkgUp f).pwm = s.pwm := rfl
@[simp] theorem State.bkgUp_safe (s : State) (f : Bkg → Bkg) : (s.bkgUp f).safe = s.safe := rfl
@[simp] theorem State.bkgUp_dlCal (s : State) (f : Bkg → Bkg) : (s.bkgUp f).dlCal = s.dlCal := rfl
@[simp] theorem State.bkgUp_pins (s : State) (f : Bkg → Bkg) : (s.bkgUp f).pins = s.pins := rfl
@[simp] theorem State.bkgUp_sense (s : State) (f : Bkg → Bkg) : (s.bkgUp f).sense = s.sense := rfl
@[simp] theorem State.bkgUp_lanes (s : State) (f : Bkg → Bkg) : (s.bkgUp f).lanes = s.lanes := rfl
@[simp] theorem State.bkgUp_loops (s : State) (f : Bkg → Bkg) : (s.bkgUp f).loops = s.loops := rfl
@[simp] theorem State.bkgUp_lanePool (s : State) (f : Bkg → Bkg) : (s.bkgUp f).lanePool = s.lanePool := rfl
@[simp] theorem State.bkgUp_trace (s : State) (f : Bkg → Bkg) : (s.bkgUp f).trace = s.trace := rfl
@[simp] theorem State.bkgUp_vent (s : State) (f : Bkg → Bkg) : (s.bkgUp f).vent = s.vent := rfl
@[simp] theorem State.bkgUp_mem (s : State) (f : Bkg → Bkg) : (s.bkgUp f).mem = s.mem := rfl
@[simp] theorem State.bkgUp_rings (s : State) (f : Bkg → Bkg) : (s.bkgUp f).rings = s.rings := rfl
@[simp] theorem State.bkgUp_fab (s : State) (f : Bkg → Bkg) : (s.bkgUp f).fab = s.fab := rfl
@[simp] theorem State.bkgUp_twin (s : State) (f : Bkg → Bkg) : (s.bkgUp f).twin = s.twin := rfl
@[simp] theorem State.bkgUp_str (s : State) (f : Bkg → Bkg) : (s.bkgUp f).str = s.str := rfl
@[simp] theorem State.bkgUp_hst (s : State) (f : Bkg → Bkg) : (s.bkgUp f).hst = s.hst := rfl
@[simp] theorem State.bkgUp_pending (s : State) (f : Bkg → Bkg) : (s.bkgUp f).pending = s.pending := rfl
@[simp] theorem State.bkgUp_rd (s : State) (f : Bkg → Bkg) (a : Nat) : (s.bkgUp f).rd a = s.rd a := rfl
@[simp] theorem State.bkgUp_get (s : State) (f : Bkg → Bkg) (h : Fld) : (s.bkgUp f).get h = s.get h := rfl
@[simp] theorem State.bkgUp_getS (s : State) (f : Bkg → Bkg) (h : Fld) : (s.bkgUp f).getS h = s.getS h := rfl
@[simp] theorem State.bkgUp_on (s : State) (f : Bkg → Bkg) (h : Fld) : (s.bkgUp f).on h = s.on h := rfl
@[simp] theorem State.bkgUp_bank (s : State) (f : Bkg → Bkg) (j : Nat) : (s.bkgUp f).bank j = s.bank j := rfl
@[simp] theorem State.bkgUp_bkg (s : State) (f : Bkg → Bkg) : (s.bkgUp f).bkg = f s.bkg := rfl

/-! ### State.ringUp -/

@[simp] theorem State.ringUp_regs (s : State) (r : Nat) (f : RingSt → RingSt) : (s.ringUp r f).regs = s.regs := rfl
@[simp] theorem State.ringUp_heldU (s : State) (r : Nat) (f : RingSt → RingSt) : (s.ringUp r f).heldU = s.heldU := rfl
@[simp] theorem State.ringUp_heldB (s : State) (r : Nat) (f : RingSt → RingSt) : (s.ringUp r f).heldB = s.heldB := rfl
@[simp] theorem State.ringUp_banks (s : State) (r : Nat) (f : RingSt → RingSt) : (s.ringUp r f).banks = s.banks := rfl
@[simp] theorem State.ringUp_conds (s : State) (r : Nat) (f : RingSt → RingSt) : (s.ringUp r f).conds = s.conds := rfl
@[simp] theorem State.ringUp_gates (s : State) (r : Nat) (f : RingSt → RingSt) : (s.ringUp r f).gates = s.gates := rfl
@[simp] theorem State.ringUp_rdata (s : State) (r : Nat) (f : RingSt → RingSt) : (s.ringUp r f).rdata = s.rdata := rfl
@[simp] theorem State.ringUp_free (s : State) (r : Nat) (f : RingSt → RingSt) : (s.ringUp r f).free = s.free := rfl
@[simp] theorem State.ringUp_sys (s : State) (r : Nat) (f : RingSt → RingSt) : (s.ringUp r f).sys = s.sys := rfl
@[simp] theorem State.ringUp_time (s : State) (r : Nat) (f : RingSt → RingSt) : (s.ringUp r f).time = s.time := rfl
@[simp] theorem State.ringUp_ain (s : State) (r : Nat) (f : RingSt → RingSt) : (s.ringUp r f).ain = s.ain := rfl
@[simp] theorem State.ringUp_mb (s : State) (r : Nat) (f : RingSt → RingSt) : (s.ringUp r f).mb = s.mb := rfl
@[simp] theorem State.ringUp_scn (s : State) (r : Nat) (f : RingSt → RingSt) : (s.ringUp r f).scn = s.scn := rfl
@[simp] theorem State.ringUp_legs (s : State) (r : Nat) (f : RingSt → RingSt) : (s.ringUp r f).legs = s.legs := rfl
@[simp] theorem State.ringUp_pwm (s : State) (r : Nat) (f : RingSt → RingSt) : (s.ringUp r f).pwm = s.pwm := rfl
@[simp] theorem State.ringUp_safe (s : State) (r : Nat) (f : RingSt → RingSt) : (s.ringUp r f).safe = s.safe := rfl
@[simp] theorem State.ringUp_dlCal (s : State) (r : Nat) (f : RingSt → RingSt) : (s.ringUp r f).dlCal = s.dlCal := rfl
@[simp] theorem State.ringUp_pins (s : State) (r : Nat) (f : RingSt → RingSt) : (s.ringUp r f).pins = s.pins := rfl
@[simp] theorem State.ringUp_sense (s : State) (r : Nat) (f : RingSt → RingSt) : (s.ringUp r f).sense = s.sense := rfl
@[simp] theorem State.ringUp_lanes (s : State) (r : Nat) (f : RingSt → RingSt) : (s.ringUp r f).lanes = s.lanes := rfl
@[simp] theorem State.ringUp_loops (s : State) (r : Nat) (f : RingSt → RingSt) : (s.ringUp r f).loops = s.loops := rfl
@[simp] theorem State.ringUp_lanePool (s : State) (r : Nat) (f : RingSt → RingSt) : (s.ringUp r f).lanePool = s.lanePool := rfl
@[simp] theorem State.ringUp_trace (s : State) (r : Nat) (f : RingSt → RingSt) : (s.ringUp r f).trace = s.trace := rfl
@[simp] theorem State.ringUp_vent (s : State) (r : Nat) (f : RingSt → RingSt) : (s.ringUp r f).vent = s.vent := rfl
@[simp] theorem State.ringUp_mem (s : State) (r : Nat) (f : RingSt → RingSt) : (s.ringUp r f).mem = s.mem := rfl
@[simp] theorem State.ringUp_bkg (s : State) (r : Nat) (f : RingSt → RingSt) : (s.ringUp r f).bkg = s.bkg := rfl
@[simp] theorem State.ringUp_fab (s : State) (r : Nat) (f : RingSt → RingSt) : (s.ringUp r f).fab = s.fab := rfl
@[simp] theorem State.ringUp_twin (s : State) (r : Nat) (f : RingSt → RingSt) : (s.ringUp r f).twin = s.twin := rfl
@[simp] theorem State.ringUp_str (s : State) (r : Nat) (f : RingSt → RingSt) : (s.ringUp r f).str = s.str := rfl
@[simp] theorem State.ringUp_hst (s : State) (r : Nat) (f : RingSt → RingSt) : (s.ringUp r f).hst = s.hst := rfl
@[simp] theorem State.ringUp_pending (s : State) (r : Nat) (f : RingSt → RingSt) : (s.ringUp r f).pending = s.pending := rfl
@[simp] theorem State.ringUp_rd (s : State) (r : Nat) (f : RingSt → RingSt) (a : Nat) : (s.ringUp r f).rd a = s.rd a := rfl
@[simp] theorem State.ringUp_get (s : State) (r : Nat) (f : RingSt → RingSt) (h : Fld) : (s.ringUp r f).get h = s.get h := rfl
@[simp] theorem State.ringUp_getS (s : State) (r : Nat) (f : RingSt → RingSt) (h : Fld) : (s.ringUp r f).getS h = s.getS h := rfl
@[simp] theorem State.ringUp_on (s : State) (r : Nat) (f : RingSt → RingSt) (h : Fld) : (s.ringUp r f).on h = s.on h := rfl
@[simp] theorem State.ringUp_bank (s : State) (r : Nat) (f : RingSt → RingSt) (j : Nat) : (s.ringUp r f).bank j = s.bank j := rfl
@[simp] theorem State.ringUp_rings (s : State) (r : Nat) (f : RingSt → RingSt) : (s.ringUp r f).rings = s.rings.modify r f := rfl

/-! ### State.sysUp -/

@[simp] theorem State.sysUp_regs (s : State) (f : Sys → Sys) : (s.sysUp f).regs = s.regs := rfl
@[simp] theorem State.sysUp_heldU (s : State) (f : Sys → Sys) : (s.sysUp f).heldU = s.heldU := rfl
@[simp] theorem State.sysUp_heldB (s : State) (f : Sys → Sys) : (s.sysUp f).heldB = s.heldB := rfl
@[simp] theorem State.sysUp_banks (s : State) (f : Sys → Sys) : (s.sysUp f).banks = s.banks := rfl
@[simp] theorem State.sysUp_conds (s : State) (f : Sys → Sys) : (s.sysUp f).conds = s.conds := rfl
@[simp] theorem State.sysUp_gates (s : State) (f : Sys → Sys) : (s.sysUp f).gates = s.gates := rfl
@[simp] theorem State.sysUp_rdata (s : State) (f : Sys → Sys) : (s.sysUp f).rdata = s.rdata := rfl
@[simp] theorem State.sysUp_free (s : State) (f : Sys → Sys) : (s.sysUp f).free = s.free := rfl
@[simp] theorem State.sysUp_time (s : State) (f : Sys → Sys) : (s.sysUp f).time = s.time := rfl
@[simp] theorem State.sysUp_ain (s : State) (f : Sys → Sys) : (s.sysUp f).ain = s.ain := rfl
@[simp] theorem State.sysUp_mb (s : State) (f : Sys → Sys) : (s.sysUp f).mb = s.mb := rfl
@[simp] theorem State.sysUp_scn (s : State) (f : Sys → Sys) : (s.sysUp f).scn = s.scn := rfl
@[simp] theorem State.sysUp_legs (s : State) (f : Sys → Sys) : (s.sysUp f).legs = s.legs := rfl
@[simp] theorem State.sysUp_pwm (s : State) (f : Sys → Sys) : (s.sysUp f).pwm = s.pwm := rfl
@[simp] theorem State.sysUp_safe (s : State) (f : Sys → Sys) : (s.sysUp f).safe = s.safe := rfl
@[simp] theorem State.sysUp_dlCal (s : State) (f : Sys → Sys) : (s.sysUp f).dlCal = s.dlCal := rfl
@[simp] theorem State.sysUp_pins (s : State) (f : Sys → Sys) : (s.sysUp f).pins = s.pins := rfl
@[simp] theorem State.sysUp_sense (s : State) (f : Sys → Sys) : (s.sysUp f).sense = s.sense := rfl
@[simp] theorem State.sysUp_lanes (s : State) (f : Sys → Sys) : (s.sysUp f).lanes = s.lanes := rfl
@[simp] theorem State.sysUp_loops (s : State) (f : Sys → Sys) : (s.sysUp f).loops = s.loops := rfl
@[simp] theorem State.sysUp_lanePool (s : State) (f : Sys → Sys) : (s.sysUp f).lanePool = s.lanePool := rfl
@[simp] theorem State.sysUp_trace (s : State) (f : Sys → Sys) : (s.sysUp f).trace = s.trace := rfl
@[simp] theorem State.sysUp_vent (s : State) (f : Sys → Sys) : (s.sysUp f).vent = s.vent := rfl
@[simp] theorem State.sysUp_mem (s : State) (f : Sys → Sys) : (s.sysUp f).mem = s.mem := rfl
@[simp] theorem State.sysUp_bkg (s : State) (f : Sys → Sys) : (s.sysUp f).bkg = s.bkg := rfl
@[simp] theorem State.sysUp_rings (s : State) (f : Sys → Sys) : (s.sysUp f).rings = s.rings := rfl
@[simp] theorem State.sysUp_fab (s : State) (f : Sys → Sys) : (s.sysUp f).fab = s.fab := rfl
@[simp] theorem State.sysUp_twin (s : State) (f : Sys → Sys) : (s.sysUp f).twin = s.twin := rfl
@[simp] theorem State.sysUp_str (s : State) (f : Sys → Sys) : (s.sysUp f).str = s.str := rfl
@[simp] theorem State.sysUp_hst (s : State) (f : Sys → Sys) : (s.sysUp f).hst = s.hst := rfl
@[simp] theorem State.sysUp_pending (s : State) (f : Sys → Sys) : (s.sysUp f).pending = s.pending := rfl
@[simp] theorem State.sysUp_rd (s : State) (f : Sys → Sys) (a : Nat) : (s.sysUp f).rd a = s.rd a := rfl
@[simp] theorem State.sysUp_get (s : State) (f : Sys → Sys) (h : Fld) : (s.sysUp f).get h = s.get h := rfl
@[simp] theorem State.sysUp_getS (s : State) (f : Sys → Sys) (h : Fld) : (s.sysUp f).getS h = s.getS h := rfl
@[simp] theorem State.sysUp_on (s : State) (f : Sys → Sys) (h : Fld) : (s.sysUp f).on h = s.on h := rfl
@[simp] theorem State.sysUp_bank (s : State) (f : Sys → Sys) (j : Nat) : (s.sysUp f).bank j = s.bank j := rfl
@[simp] theorem State.sysUp_sys (s : State) (f : Sys → Sys) : (s.sysUp f).sys = f s.sys := rfl

/-! ### State.twinUp -/

@[simp] theorem State.twinUp_regs (s : State) (f : Twin → Twin) : (s.twinUp f).regs = s.regs := rfl
@[simp] theorem State.twinUp_heldU (s : State) (f : Twin → Twin) : (s.twinUp f).heldU = s.heldU := rfl
@[simp] theorem State.twinUp_heldB (s : State) (f : Twin → Twin) : (s.twinUp f).heldB = s.heldB := rfl
@[simp] theorem State.twinUp_banks (s : State) (f : Twin → Twin) : (s.twinUp f).banks = s.banks := rfl
@[simp] theorem State.twinUp_conds (s : State) (f : Twin → Twin) : (s.twinUp f).conds = s.conds := rfl
@[simp] theorem State.twinUp_gates (s : State) (f : Twin → Twin) : (s.twinUp f).gates = s.gates := rfl
@[simp] theorem State.twinUp_rdata (s : State) (f : Twin → Twin) : (s.twinUp f).rdata = s.rdata := rfl
@[simp] theorem State.twinUp_free (s : State) (f : Twin → Twin) : (s.twinUp f).free = s.free := rfl
@[simp] theorem State.twinUp_sys (s : State) (f : Twin → Twin) : (s.twinUp f).sys = s.sys := rfl
@[simp] theorem State.twinUp_time (s : State) (f : Twin → Twin) : (s.twinUp f).time = s.time := rfl
@[simp] theorem State.twinUp_ain (s : State) (f : Twin → Twin) : (s.twinUp f).ain = s.ain := rfl
@[simp] theorem State.twinUp_mb (s : State) (f : Twin → Twin) : (s.twinUp f).mb = s.mb := rfl
@[simp] theorem State.twinUp_scn (s : State) (f : Twin → Twin) : (s.twinUp f).scn = s.scn := rfl
@[simp] theorem State.twinUp_legs (s : State) (f : Twin → Twin) : (s.twinUp f).legs = s.legs := rfl
@[simp] theorem State.twinUp_pwm (s : State) (f : Twin → Twin) : (s.twinUp f).pwm = s.pwm := rfl
@[simp] theorem State.twinUp_safe (s : State) (f : Twin → Twin) : (s.twinUp f).safe = s.safe := rfl
@[simp] theorem State.twinUp_dlCal (s : State) (f : Twin → Twin) : (s.twinUp f).dlCal = s.dlCal := rfl
@[simp] theorem State.twinUp_pins (s : State) (f : Twin → Twin) : (s.twinUp f).pins = s.pins := rfl
@[simp] theorem State.twinUp_sense (s : State) (f : Twin → Twin) : (s.twinUp f).sense = s.sense := rfl
@[simp] theorem State.twinUp_lanes (s : State) (f : Twin → Twin) : (s.twinUp f).lanes = s.lanes := rfl
@[simp] theorem State.twinUp_loops (s : State) (f : Twin → Twin) : (s.twinUp f).loops = s.loops := rfl
@[simp] theorem State.twinUp_lanePool (s : State) (f : Twin → Twin) : (s.twinUp f).lanePool = s.lanePool := rfl
@[simp] theorem State.twinUp_trace (s : State) (f : Twin → Twin) : (s.twinUp f).trace = s.trace := rfl
@[simp] theorem State.twinUp_vent (s : State) (f : Twin → Twin) : (s.twinUp f).vent = s.vent := rfl
@[simp] theorem State.twinUp_mem (s : State) (f : Twin → Twin) : (s.twinUp f).mem = s.mem := rfl
@[simp] theorem State.twinUp_bkg (s : State) (f : Twin → Twin) : (s.twinUp f).bkg = s.bkg := rfl
@[simp] theorem State.twinUp_rings (s : State) (f : Twin → Twin) : (s.twinUp f).rings = s.rings := rfl
@[simp] theorem State.twinUp_fab (s : State) (f : Twin → Twin) : (s.twinUp f).fab = s.fab := rfl
@[simp] theorem State.twinUp_str (s : State) (f : Twin → Twin) : (s.twinUp f).str = s.str := rfl
@[simp] theorem State.twinUp_hst (s : State) (f : Twin → Twin) : (s.twinUp f).hst = s.hst := rfl
@[simp] theorem State.twinUp_pending (s : State) (f : Twin → Twin) : (s.twinUp f).pending = s.pending := rfl
@[simp] theorem State.twinUp_rd (s : State) (f : Twin → Twin) (a : Nat) : (s.twinUp f).rd a = s.rd a := rfl
@[simp] theorem State.twinUp_get (s : State) (f : Twin → Twin) (h : Fld) : (s.twinUp f).get h = s.get h := rfl
@[simp] theorem State.twinUp_getS (s : State) (f : Twin → Twin) (h : Fld) : (s.twinUp f).getS h = s.getS h := rfl
@[simp] theorem State.twinUp_on (s : State) (f : Twin → Twin) (h : Fld) : (s.twinUp f).on h = s.on h := rfl
@[simp] theorem State.twinUp_bank (s : State) (f : Twin → Twin) (j : Nat) : (s.twinUp f).bank j = s.bank j := rfl
@[simp] theorem State.twinUp_twin (s : State) (f : Twin → Twin) : (s.twinUp f).twin = f s.twin := rfl

/-! ### State.strUp -/

@[simp] theorem State.strUp_regs (s : State) (f : Str → Str) : (s.strUp f).regs = s.regs := rfl
@[simp] theorem State.strUp_heldU (s : State) (f : Str → Str) : (s.strUp f).heldU = s.heldU := rfl
@[simp] theorem State.strUp_heldB (s : State) (f : Str → Str) : (s.strUp f).heldB = s.heldB := rfl
@[simp] theorem State.strUp_banks (s : State) (f : Str → Str) : (s.strUp f).banks = s.banks := rfl
@[simp] theorem State.strUp_conds (s : State) (f : Str → Str) : (s.strUp f).conds = s.conds := rfl
@[simp] theorem State.strUp_gates (s : State) (f : Str → Str) : (s.strUp f).gates = s.gates := rfl
@[simp] theorem State.strUp_rdata (s : State) (f : Str → Str) : (s.strUp f).rdata = s.rdata := rfl
@[simp] theorem State.strUp_free (s : State) (f : Str → Str) : (s.strUp f).free = s.free := rfl
@[simp] theorem State.strUp_sys (s : State) (f : Str → Str) : (s.strUp f).sys = s.sys := rfl
@[simp] theorem State.strUp_time (s : State) (f : Str → Str) : (s.strUp f).time = s.time := rfl
@[simp] theorem State.strUp_ain (s : State) (f : Str → Str) : (s.strUp f).ain = s.ain := rfl
@[simp] theorem State.strUp_mb (s : State) (f : Str → Str) : (s.strUp f).mb = s.mb := rfl
@[simp] theorem State.strUp_scn (s : State) (f : Str → Str) : (s.strUp f).scn = s.scn := rfl
@[simp] theorem State.strUp_legs (s : State) (f : Str → Str) : (s.strUp f).legs = s.legs := rfl
@[simp] theorem State.strUp_pwm (s : State) (f : Str → Str) : (s.strUp f).pwm = s.pwm := rfl
@[simp] theorem State.strUp_safe (s : State) (f : Str → Str) : (s.strUp f).safe = s.safe := rfl
@[simp] theorem State.strUp_dlCal (s : State) (f : Str → Str) : (s.strUp f).dlCal = s.dlCal := rfl
@[simp] theorem State.strUp_pins (s : State) (f : Str → Str) : (s.strUp f).pins = s.pins := rfl
@[simp] theorem State.strUp_sense (s : State) (f : Str → Str) : (s.strUp f).sense = s.sense := rfl
@[simp] theorem State.strUp_lanes (s : State) (f : Str → Str) : (s.strUp f).lanes = s.lanes := rfl
@[simp] theorem State.strUp_loops (s : State) (f : Str → Str) : (s.strUp f).loops = s.loops := rfl
@[simp] theorem State.strUp_lanePool (s : State) (f : Str → Str) : (s.strUp f).lanePool = s.lanePool := rfl
@[simp] theorem State.strUp_trace (s : State) (f : Str → Str) : (s.strUp f).trace = s.trace := rfl
@[simp] theorem State.strUp_vent (s : State) (f : Str → Str) : (s.strUp f).vent = s.vent := rfl
@[simp] theorem State.strUp_mem (s : State) (f : Str → Str) : (s.strUp f).mem = s.mem := rfl
@[simp] theorem State.strUp_bkg (s : State) (f : Str → Str) : (s.strUp f).bkg = s.bkg := rfl
@[simp] theorem State.strUp_rings (s : State) (f : Str → Str) : (s.strUp f).rings = s.rings := rfl
@[simp] theorem State.strUp_fab (s : State) (f : Str → Str) : (s.strUp f).fab = s.fab := rfl
@[simp] theorem State.strUp_twin (s : State) (f : Str → Str) : (s.strUp f).twin = s.twin := rfl
@[simp] theorem State.strUp_hst (s : State) (f : Str → Str) : (s.strUp f).hst = s.hst := rfl
@[simp] theorem State.strUp_pending (s : State) (f : Str → Str) : (s.strUp f).pending = s.pending := rfl
@[simp] theorem State.strUp_rd (s : State) (f : Str → Str) (a : Nat) : (s.strUp f).rd a = s.rd a := rfl
@[simp] theorem State.strUp_get (s : State) (f : Str → Str) (h : Fld) : (s.strUp f).get h = s.get h := rfl
@[simp] theorem State.strUp_getS (s : State) (f : Str → Str) (h : Fld) : (s.strUp f).getS h = s.getS h := rfl
@[simp] theorem State.strUp_on (s : State) (f : Str → Str) (h : Fld) : (s.strUp f).on h = s.on h := rfl
@[simp] theorem State.strUp_bank (s : State) (f : Str → Str) (j : Nat) : (s.strUp f).bank j = s.bank j := rfl
@[simp] theorem State.strUp_str (s : State) (f : Str → Str) : (s.strUp f).str = f s.str := rfl

/-! ### State.fabUp -/

@[simp] theorem State.fabUp_regs (s : State) (f : Fab → Fab) : (s.fabUp f).regs = s.regs := rfl
@[simp] theorem State.fabUp_heldU (s : State) (f : Fab → Fab) : (s.fabUp f).heldU = s.heldU := rfl
@[simp] theorem State.fabUp_heldB (s : State) (f : Fab → Fab) : (s.fabUp f).heldB = s.heldB := rfl
@[simp] theorem State.fabUp_banks (s : State) (f : Fab → Fab) : (s.fabUp f).banks = s.banks := rfl
@[simp] theorem State.fabUp_conds (s : State) (f : Fab → Fab) : (s.fabUp f).conds = s.conds := rfl
@[simp] theorem State.fabUp_gates (s : State) (f : Fab → Fab) : (s.fabUp f).gates = s.gates := rfl
@[simp] theorem State.fabUp_rdata (s : State) (f : Fab → Fab) : (s.fabUp f).rdata = s.rdata := rfl
@[simp] theorem State.fabUp_free (s : State) (f : Fab → Fab) : (s.fabUp f).free = s.free := rfl
@[simp] theorem State.fabUp_sys (s : State) (f : Fab → Fab) : (s.fabUp f).sys = s.sys := rfl
@[simp] theorem State.fabUp_time (s : State) (f : Fab → Fab) : (s.fabUp f).time = s.time := rfl
@[simp] theorem State.fabUp_ain (s : State) (f : Fab → Fab) : (s.fabUp f).ain = s.ain := rfl
@[simp] theorem State.fabUp_mb (s : State) (f : Fab → Fab) : (s.fabUp f).mb = s.mb := rfl
@[simp] theorem State.fabUp_scn (s : State) (f : Fab → Fab) : (s.fabUp f).scn = s.scn := rfl
@[simp] theorem State.fabUp_legs (s : State) (f : Fab → Fab) : (s.fabUp f).legs = s.legs := rfl
@[simp] theorem State.fabUp_pwm (s : State) (f : Fab → Fab) : (s.fabUp f).pwm = s.pwm := rfl
@[simp] theorem State.fabUp_safe (s : State) (f : Fab → Fab) : (s.fabUp f).safe = s.safe := rfl
@[simp] theorem State.fabUp_dlCal (s : State) (f : Fab → Fab) : (s.fabUp f).dlCal = s.dlCal := rfl
@[simp] theorem State.fabUp_pins (s : State) (f : Fab → Fab) : (s.fabUp f).pins = s.pins := rfl
@[simp] theorem State.fabUp_sense (s : State) (f : Fab → Fab) : (s.fabUp f).sense = s.sense := rfl
@[simp] theorem State.fabUp_lanes (s : State) (f : Fab → Fab) : (s.fabUp f).lanes = s.lanes := rfl
@[simp] theorem State.fabUp_loops (s : State) (f : Fab → Fab) : (s.fabUp f).loops = s.loops := rfl
@[simp] theorem State.fabUp_lanePool (s : State) (f : Fab → Fab) : (s.fabUp f).lanePool = s.lanePool := rfl
@[simp] theorem State.fabUp_trace (s : State) (f : Fab → Fab) : (s.fabUp f).trace = s.trace := rfl
@[simp] theorem State.fabUp_vent (s : State) (f : Fab → Fab) : (s.fabUp f).vent = s.vent := rfl
@[simp] theorem State.fabUp_mem (s : State) (f : Fab → Fab) : (s.fabUp f).mem = s.mem := rfl
@[simp] theorem State.fabUp_bkg (s : State) (f : Fab → Fab) : (s.fabUp f).bkg = s.bkg := rfl
@[simp] theorem State.fabUp_rings (s : State) (f : Fab → Fab) : (s.fabUp f).rings = s.rings := rfl
@[simp] theorem State.fabUp_twin (s : State) (f : Fab → Fab) : (s.fabUp f).twin = s.twin := rfl
@[simp] theorem State.fabUp_str (s : State) (f : Fab → Fab) : (s.fabUp f).str = s.str := rfl
@[simp] theorem State.fabUp_hst (s : State) (f : Fab → Fab) : (s.fabUp f).hst = s.hst := rfl
@[simp] theorem State.fabUp_pending (s : State) (f : Fab → Fab) : (s.fabUp f).pending = s.pending := rfl
@[simp] theorem State.fabUp_rd (s : State) (f : Fab → Fab) (a : Nat) : (s.fabUp f).rd a = s.rd a := rfl
@[simp] theorem State.fabUp_get (s : State) (f : Fab → Fab) (h : Fld) : (s.fabUp f).get h = s.get h := rfl
@[simp] theorem State.fabUp_getS (s : State) (f : Fab → Fab) (h : Fld) : (s.fabUp f).getS h = s.getS h := rfl
@[simp] theorem State.fabUp_on (s : State) (f : Fab → Fab) (h : Fld) : (s.fabUp f).on h = s.on h := rfl
@[simp] theorem State.fabUp_bank (s : State) (f : Fab → Fab) (j : Nat) : (s.fabUp f).bank j = s.bank j := rfl
@[simp] theorem State.fabUp_fab (s : State) (f : Fab → Fab) : (s.fabUp f).fab = f s.fab := rfl

/-! ### State.hstUp -/

@[simp] theorem State.hstUp_regs (s : State) (f : Hst → Hst) : (s.hstUp f).regs = s.regs := rfl
@[simp] theorem State.hstUp_heldU (s : State) (f : Hst → Hst) : (s.hstUp f).heldU = s.heldU := rfl
@[simp] theorem State.hstUp_heldB (s : State) (f : Hst → Hst) : (s.hstUp f).heldB = s.heldB := rfl
@[simp] theorem State.hstUp_banks (s : State) (f : Hst → Hst) : (s.hstUp f).banks = s.banks := rfl
@[simp] theorem State.hstUp_conds (s : State) (f : Hst → Hst) : (s.hstUp f).conds = s.conds := rfl
@[simp] theorem State.hstUp_gates (s : State) (f : Hst → Hst) : (s.hstUp f).gates = s.gates := rfl
@[simp] theorem State.hstUp_rdata (s : State) (f : Hst → Hst) : (s.hstUp f).rdata = s.rdata := rfl
@[simp] theorem State.hstUp_free (s : State) (f : Hst → Hst) : (s.hstUp f).free = s.free := rfl
@[simp] theorem State.hstUp_sys (s : State) (f : Hst → Hst) : (s.hstUp f).sys = s.sys := rfl
@[simp] theorem State.hstUp_time (s : State) (f : Hst → Hst) : (s.hstUp f).time = s.time := rfl
@[simp] theorem State.hstUp_ain (s : State) (f : Hst → Hst) : (s.hstUp f).ain = s.ain := rfl
@[simp] theorem State.hstUp_mb (s : State) (f : Hst → Hst) : (s.hstUp f).mb = s.mb := rfl
@[simp] theorem State.hstUp_scn (s : State) (f : Hst → Hst) : (s.hstUp f).scn = s.scn := rfl
@[simp] theorem State.hstUp_legs (s : State) (f : Hst → Hst) : (s.hstUp f).legs = s.legs := rfl
@[simp] theorem State.hstUp_pwm (s : State) (f : Hst → Hst) : (s.hstUp f).pwm = s.pwm := rfl
@[simp] theorem State.hstUp_safe (s : State) (f : Hst → Hst) : (s.hstUp f).safe = s.safe := rfl
@[simp] theorem State.hstUp_dlCal (s : State) (f : Hst → Hst) : (s.hstUp f).dlCal = s.dlCal := rfl
@[simp] theorem State.hstUp_pins (s : State) (f : Hst → Hst) : (s.hstUp f).pins = s.pins := rfl
@[simp] theorem State.hstUp_sense (s : State) (f : Hst → Hst) : (s.hstUp f).sense = s.sense := rfl
@[simp] theorem State.hstUp_lanes (s : State) (f : Hst → Hst) : (s.hstUp f).lanes = s.lanes := rfl
@[simp] theorem State.hstUp_loops (s : State) (f : Hst → Hst) : (s.hstUp f).loops = s.loops := rfl
@[simp] theorem State.hstUp_lanePool (s : State) (f : Hst → Hst) : (s.hstUp f).lanePool = s.lanePool := rfl
@[simp] theorem State.hstUp_trace (s : State) (f : Hst → Hst) : (s.hstUp f).trace = s.trace := rfl
@[simp] theorem State.hstUp_vent (s : State) (f : Hst → Hst) : (s.hstUp f).vent = s.vent := rfl
@[simp] theorem State.hstUp_mem (s : State) (f : Hst → Hst) : (s.hstUp f).mem = s.mem := rfl
@[simp] theorem State.hstUp_bkg (s : State) (f : Hst → Hst) : (s.hstUp f).bkg = s.bkg := rfl
@[simp] theorem State.hstUp_rings (s : State) (f : Hst → Hst) : (s.hstUp f).rings = s.rings := rfl
@[simp] theorem State.hstUp_fab (s : State) (f : Hst → Hst) : (s.hstUp f).fab = s.fab := rfl
@[simp] theorem State.hstUp_twin (s : State) (f : Hst → Hst) : (s.hstUp f).twin = s.twin := rfl
@[simp] theorem State.hstUp_str (s : State) (f : Hst → Hst) : (s.hstUp f).str = s.str := rfl
@[simp] theorem State.hstUp_pending (s : State) (f : Hst → Hst) : (s.hstUp f).pending = s.pending := rfl
@[simp] theorem State.hstUp_rd (s : State) (f : Hst → Hst) (a : Nat) : (s.hstUp f).rd a = s.rd a := rfl
@[simp] theorem State.hstUp_get (s : State) (f : Hst → Hst) (h : Fld) : (s.hstUp f).get h = s.get h := rfl
@[simp] theorem State.hstUp_getS (s : State) (f : Hst → Hst) (h : Fld) : (s.hstUp f).getS h = s.getS h := rfl
@[simp] theorem State.hstUp_on (s : State) (f : Hst → Hst) (h : Fld) : (s.hstUp f).on h = s.on h := rfl
@[simp] theorem State.hstUp_bank (s : State) (f : Hst → Hst) (j : Nat) : (s.hstUp f).bank j = s.bank j := rfl
@[simp] theorem State.hstUp_hst (s : State) (f : Hst → Hst) : (s.hstUp f).hst = f s.hst := rfl

/-! ### State.queued -/

@[simp] theorem State.queued_regs (s : State) (q : List Instr) : (s.queued q).regs = s.regs := rfl
@[simp] theorem State.queued_heldU (s : State) (q : List Instr) : (s.queued q).heldU = s.heldU := rfl
@[simp] theorem State.queued_heldB (s : State) (q : List Instr) : (s.queued q).heldB = s.heldB := rfl
@[simp] theorem State.queued_banks (s : State) (q : List Instr) : (s.queued q).banks = s.banks := rfl
@[simp] theorem State.queued_conds (s : State) (q : List Instr) : (s.queued q).conds = s.conds := rfl
@[simp] theorem State.queued_gates (s : State) (q : List Instr) : (s.queued q).gates = s.gates := rfl
@[simp] theorem State.queued_rdata (s : State) (q : List Instr) : (s.queued q).rdata = s.rdata := rfl
@[simp] theorem State.queued_free (s : State) (q : List Instr) : (s.queued q).free = s.free := rfl
@[simp] theorem State.queued_sys (s : State) (q : List Instr) : (s.queued q).sys = s.sys := rfl
@[simp] theorem State.queued_time (s : State) (q : List Instr) : (s.queued q).time = s.time := rfl
@[simp] theorem State.queued_ain (s : State) (q : List Instr) : (s.queued q).ain = s.ain := rfl
@[simp] theorem State.queued_mb (s : State) (q : List Instr) : (s.queued q).mb = s.mb := rfl
@[simp] theorem State.queued_scn (s : State) (q : List Instr) : (s.queued q).scn = s.scn := rfl
@[simp] theorem State.queued_legs (s : State) (q : List Instr) : (s.queued q).legs = s.legs := rfl
@[simp] theorem State.queued_pwm (s : State) (q : List Instr) : (s.queued q).pwm = s.pwm := rfl
@[simp] theorem State.queued_safe (s : State) (q : List Instr) : (s.queued q).safe = s.safe := rfl
@[simp] theorem State.queued_dlCal (s : State) (q : List Instr) : (s.queued q).dlCal = s.dlCal := rfl
@[simp] theorem State.queued_pins (s : State) (q : List Instr) : (s.queued q).pins = s.pins := rfl
@[simp] theorem State.queued_sense (s : State) (q : List Instr) : (s.queued q).sense = s.sense := rfl
@[simp] theorem State.queued_lanes (s : State) (q : List Instr) : (s.queued q).lanes = s.lanes := rfl
@[simp] theorem State.queued_loops (s : State) (q : List Instr) : (s.queued q).loops = s.loops := rfl
@[simp] theorem State.queued_lanePool (s : State) (q : List Instr) : (s.queued q).lanePool = s.lanePool := rfl
@[simp] theorem State.queued_trace (s : State) (q : List Instr) : (s.queued q).trace = s.trace := rfl
@[simp] theorem State.queued_vent (s : State) (q : List Instr) : (s.queued q).vent = s.vent := rfl
@[simp] theorem State.queued_mem (s : State) (q : List Instr) : (s.queued q).mem = s.mem := rfl
@[simp] theorem State.queued_bkg (s : State) (q : List Instr) : (s.queued q).bkg = s.bkg := rfl
@[simp] theorem State.queued_rings (s : State) (q : List Instr) : (s.queued q).rings = s.rings := rfl
@[simp] theorem State.queued_fab (s : State) (q : List Instr) : (s.queued q).fab = s.fab := rfl
@[simp] theorem State.queued_twin (s : State) (q : List Instr) : (s.queued q).twin = s.twin := rfl
@[simp] theorem State.queued_str (s : State) (q : List Instr) : (s.queued q).str = s.str := rfl
@[simp] theorem State.queued_hst (s : State) (q : List Instr) : (s.queued q).hst = s.hst := rfl
@[simp] theorem State.queued_rd (s : State) (q : List Instr) (a : Nat) : (s.queued q).rd a = s.rd a := rfl
@[simp] theorem State.queued_get (s : State) (q : List Instr) (h : Fld) : (s.queued q).get h = s.get h := rfl
@[simp] theorem State.queued_getS (s : State) (q : List Instr) (h : Fld) : (s.queued q).getS h = s.getS h := rfl
@[simp] theorem State.queued_on (s : State) (q : List Instr) (h : Fld) : (s.queued q).on h = s.on h := rfl
@[simp] theorem State.queued_bank (s : State) (q : List Instr) (j : Nat) : (s.queued q).bank j = s.bank j := rfl

end Sys2Proof.Machine
end

