-- ==== Sys2Proof/Laws/Registers.lean ====
section
/-! SUPPORT. Laws/Registers.lean: what a read of a register or a field gives after a write of one. -/

set_option Elab.async false
set_option linter.all false

namespace Sys2Proof.Machine

/-- A field lies in a word. -/
def Fld.ok (f : Fld) : Prop := f.lo ≤ f.hi ∧ f.hi < 32

/-! ### The bits of a word after a field is put into it -/

/-- The number that putBits makes, before it is narrowed. -/
theorem putBits_parts (x n lo w : Nat) :
    (x - x / 2 ^ lo % 2 ^ w * 2 ^ lo + n % 2 ^ w * 2 ^ lo) % 2 ^ lo = x % 2 ^ lo ∧
    (x - x / 2 ^ lo % 2 ^ w * 2 ^ lo + n % 2 ^ w * 2 ^ lo) / 2 ^ lo % 2 ^ w = n % 2 ^ w ∧
    (x - x / 2 ^ lo % 2 ^ w * 2 ^ lo + n % 2 ^ w * 2 ^ lo) / 2 ^ lo / 2 ^ w = x / 2 ^ lo / 2 ^ w := by
  have hL : 0 < 2 ^ lo := Nat.two_pow_pos _
  have hM : 0 < 2 ^ w := Nat.two_pow_pos _
  generalize hl : 2 ^ lo = l at *
  generalize hm : 2 ^ w = m at *
  have e1 : x = l * (x / l) + x % l := (Nat.div_add_mod x l).symm
  have e2 : x / l = m * (x / l / m) + x / l % m := (Nat.div_add_mod _ m).symm
  generalize hc : x % l = c at *
  generalize hb : x / l % m = b at *
  generalize ha : x / l / m = a at *
  have hcl : c < l := hc ▸ Nat.mod_lt x hL
  have hnm : n % m < m := Nat.mod_lt n hM
  generalize n % m = k at *
  have e3 : x = c + l * (m * a + b) := by rw [e2] at e1; omega
  have e4 : x - b * l + k * l = c + l * (m * a + k) := by
    rw [e3, Nat.mul_add, Nat.mul_add, Nat.mul_comm b l, Nat.mul_comm k l]; omega
  rw [e4]
  refine ⟨by rw [Nat.add_mul_mod_self_left]; exact Nat.mod_eq_of_lt hcl, ?_, ?_⟩
  · rw [Nat.add_mul_div_left _ _ hL, Nat.div_eq_of_lt hcl, Nat.zero_add, Nat.add_comm, Nat.add_mul_mod_self_left]
    exact Nat.mod_eq_of_lt hnm
  · rw [Nat.add_mul_div_left _ _ hL, Nat.div_eq_of_lt hcl, Nat.zero_add, Nat.add_comm, Nat.add_mul_div_left _ _ hM,
      Nat.div_eq_of_lt hnm, Nat.zero_add]

/-- The word with the field put in is not narrowed. -/
theorem toNat_putBits (v : Word) (f : Fld) (n : Nat) (hf : f.ok) :
    (State.putBits v f n).toNat =
      v.toNat - v.toNat / 2 ^ f.lo % 2 ^ (f.hi + 1 - f.lo) * 2 ^ f.lo + n % 2 ^ (f.hi + 1 - f.lo) * 2 ^ f.lo := by
  obtain ⟨h1, h2⟩ := hf
  have p := putBits_parts v.toNat n f.lo (f.hi + 1 - f.lo)
  show (BitVec.ofNat 32 _).toNat = _
  rw [BitVec.toNat_ofNat]
  apply Nat.mod_eq_of_lt
  show _ < 2 ^ 32
  unfold bitsN
  generalize hy : v.toNat - v.toNat / 2 ^ f.lo % 2 ^ (f.hi + 1 - f.lo) * 2 ^ f.lo + n % 2 ^ (f.hi + 1 - f.lo) * 2 ^ f.lo = y at *
  have e : 2 ^ f.lo * 2 ^ (f.hi + 1 - f.lo) = 2 ^ (f.hi + 1) := by rw [← Nat.pow_add]; congr 1; omega
  have q : y / 2 ^ (f.hi + 1) = v.toNat / 2 ^ (f.hi + 1) := by
    rw [← e, ← Nat.div_div_eq_div_mul, ← Nat.div_div_eq_div_mul]; exact p.2.2
  have e32 : 2 ^ (f.hi + 1) * 2 ^ (31 - f.hi) = 2 ^ 32 := by rw [← Nat.pow_add]; congr 1; omega
  have b : v.toNat / 2 ^ (f.hi + 1) < 2 ^ (31 - f.hi) := by
    apply Nat.div_lt_of_lt_mul; rw [e32]; exact v.isLt
  rw [← q] at b
  rw [← e32]
  rw [Nat.mul_comm]; exact (Nat.div_lt_iff_lt_mul (Nat.two_pow_pos _)).mp b

theorem bitsN_putBits_same (v : Word) (f : Fld) (n : Nat) (hf : f.ok) :
    bitsN (State.putBits v f n).toNat f.hi f.lo = n % 2 ^ (f.hi + 1 - f.lo) := by
  rw [toNat_putBits v f n hf]
  exact (putBits_parts v.toNat n f.lo (f.hi + 1 - f.lo)).2.1

/-- Bits hi..lo of a number depend on its low part alone, or on its high part alone. -/
theorem bitsN_congr_low (x y hi lo k : Nat) (h : x % 2 ^ k = y % 2 ^ k) (hk : hi < k) (hl : lo ≤ hi) : bitsN x hi lo = bitsN y hi lo := by
  have e (z : Nat) : bitsN z hi lo = z % 2 ^ k / 2 ^ lo % 2 ^ (hi + 1 - lo) := by
    have hkk : 2 ^ k = 2 ^ lo * 2 ^ (k - lo) := by rw [← Nat.pow_add]; congr 1; omega
    have hd : 2 ^ (hi + 1 - lo) ∣ 2 ^ (k - lo) := Nat.pow_dvd_pow 2 (by omega)
    unfold bitsN
    rw [hkk, Nat.mod_mul_right_div_self, Nat.mod_mod_of_dvd _ hd]
  rw [e x, e y, h]

theorem bitsN_congr_high (x y hi lo k : Nat) (h : x / 2 ^ k = y / 2 ^ k) (hk : k ≤ lo) : bitsN x hi lo = bitsN y hi lo := by
  have e (z : Nat) : bitsN z hi lo = z / 2 ^ k / 2 ^ (lo - k) % 2 ^ (hi + 1 - lo) := by
    unfold bitsN
    rw [Nat.div_div_eq_div_mul, ← Nat.pow_add]
    congr 3; omega
  rw [e x, e y, h]

/-- Two fields of one register share no bit. -/
def Fld.apart (f g : Fld) : Prop := f.hi < g.lo ∨ g.hi < f.lo

theorem bitsN_putBits_apart (v : Word) (f g : Fld) (n : Nat) (hf : f.ok) (hg : g.ok) (h : f.apart g) :
    bitsN (State.putBits v f n).toNat g.hi g.lo = bitsN v.toNat g.hi g.lo := by
  rw [toNat_putBits v f n hf]
  have p := putBits_parts v.toNat n f.lo (f.hi + 1 - f.lo)
  rcases h with h | h
  · refine bitsN_congr_high _ _ _ _ (f.hi + 1) ?_ h
    have e : 2 ^ f.lo * 2 ^ (f.hi + 1 - f.lo) = 2 ^ (f.hi + 1) := by rw [← Nat.pow_add]; congr 1; have := hf.1; omega
    rw [← e, ← Nat.div_div_eq_div_mul, ← Nat.div_div_eq_div_mul]; exact p.2.2
  · exact bitsN_congr_low _ _ _ _ f.lo p.1 h hg.1

namespace State

/-! ### Registers -/

theorem rd_wr (s : State) (p q : Nat) (v : Word) : (s.wr p v).rd q = if q = p then v else s.rd q := kvGet_kvPut _ _ _ _ _
@[simp] theorem rd_wr_same (s : State) (p : Nat) (v : Word) : (s.wr p v).rd p = v := by rw [rd_wr, if_pos rfl]
theorem rd_wr_other (s : State) (p q : Nat) (v : Word) (h : q ≠ p) : (s.wr p v).rd q = s.rd q := by rw [rd_wr, if_neg h]

theorem rd_set_other (s : State) (f : Fld) (n q : Nat) (h : q ≠ f.ptr) : (s.set f n).rd q = s.rd q := rd_wr_other _ _ _ _ h
theorem rd_set_same (s : State) (f : Fld) (n : Nat) : (s.set f n).rd f.ptr = putBits (s.rd f.ptr) f n := rd_wr_same _ _ _
theorem rd_setB_other (s : State) (f : Fld) (b : Bool) (q : Nat) (h : q ≠ f.ptr) : (s.setB f b).rd q = s.rd q := rd_set_other _ _ _ _ h
theorem rd_setFree_other (s : State) (f : Fld) (q : Nat) (h : q ≠ f.ptr) : (s.setFree f).rd q = s.rd q := rd_set_other _ _ _ _ h

/-! ### Fields -/

theorem get_set_same (s : State) (f : Fld) (n : Nat) (hf : f.ok) : (s.set f n).get f = n % 2 ^ (f.hi + 1 - f.lo) := by
  unfold State.get; rw [rd_set_same]; exact bitsN_putBits_same _ _ _ hf

theorem get_set_other (s : State) (f g : Fld) (n : Nat) (h : g.ptr ≠ f.ptr) : (s.set f n).get g = s.get g := by
  unfold State.get; rw [rd_set_other _ _ _ _ h]

theorem get_set_apart (s : State) (f g : Fld) (n : Nat) (hf : f.ok) (hg : g.ok) (h : f.apart g) : (s.set f n).get g = s.get g := by
  by_cases hp : g.ptr = f.ptr
  · unfold State.get; rw [hp, rd_set_same]; exact bitsN_putBits_apart _ _ _ _ hf hg h
  · exact get_set_other _ _ _ _ hp

theorem get_setB_same (s : State) (f : Fld) (b : Bool) (hf : f.ok) : (s.setB f b).get f = if b then 1 else 0 := by
  unfold State.setB; rw [get_set_same _ _ _ hf]
  have : 2 ≤ 2 ^ (f.hi + 1 - f.lo) := by
    have := hf.1
    calc 2 = 2 ^ 1 := rfl
      _ ≤ 2 ^ (f.hi + 1 - f.lo) := Nat.pow_le_pow_right (by decide) (by omega)
  cases b
  · simp
  · exact Nat.mod_eq_of_lt this

theorem on_setB_same (s : State) (f : Fld) (b : Bool) (hf : f.ok) : (s.setB f b).on f = b := by
  unfold State.on; rw [get_setB_same _ _ _ hf]; cases b <;> rfl

theorem get_setB_other (s : State) (f g : Fld) (b : Bool) (h : g.ptr ≠ f.ptr) : (s.setB f b).get g = s.get g := get_set_other _ _ _ _ h

theorem get_setB_apart (s : State) (f g : Fld) (b : Bool) (hf : f.ok) (hg : g.ok) (h : f.apart g) : (s.setB f b).get g = s.get g :=
  get_set_apart _ _ _ _ hf hg h

theorem get_wr_same (s : State) (f : Fld) (v : Word) : (s.wr f.ptr v).get f = bitsN v.toNat f.hi f.lo := by
  unfold State.get; rw [rd_wr_same]

theorem get_wr_other (s : State) (p : Nat) (v : Word) (g : Fld) (h : g.ptr ≠ p) : (s.wr p v).get g = s.get g := by
  unfold State.get; rw [rd_wr_other _ _ _ _ h]

theorem on_set_other (s : State) (f g : Fld) (n : Nat) (h : g.ptr ≠ f.ptr) : (s.set f n).on g = s.on g := by
  unfold State.on; rw [get_set_other _ _ _ _ h]
theorem on_wr_other (s : State) (p : Nat) (v : Word) (g : Fld) (h : g.ptr ≠ p) : (s.wr p v).on g = s.on g := by
  unfold State.on; rw [get_wr_other _ _ _ _ h]

/-! ### Flags -/

theorem rd_raise_other (s : State) (g : Flag) (q : Nat) (h : q ≠ g.ptr) (k : q ≠ g.cptr) : (s.raise g).rd q = s.rd q := by
  unfold State.raise; rw [rd_set_other _ _ _ _ k, rd_set_other _ _ _ _ h]

theorem get_raise_other (s : State) (g : Flag) (f : Fld) (h : f.ptr ≠ g.ptr) (k : f.ptr ≠ g.cptr) : (s.raise g).get f = s.get f := by
  unfold State.get; rw [rd_raise_other _ _ _ h k]

/-- A set event leaves the flag at 1 (R15). -/
theorem get_raise_flag (s : State) (g : Flag) (hp : g.ptr ≠ g.cptr) (hb : g.bit < 32) : (s.raise g).get ⟨g.ptr, g.bit, g.bit⟩ = 1 := by
  unfold State.raise
  rw [get_set_other _ _ _ _ hp, get_set_same _ _ _ ⟨Nat.le_refl _, hb⟩]
  simp

/-- A set event raises the counter by one, from 255 to 0 (R17, R18). -/
theorem get_raise_count (s : State) (g : Flag) (hc : g.clo < 25) :
    (s.raise g).get ⟨g.cptr, g.clo + 7, g.clo⟩ = (s.get ⟨g.cptr, g.clo + 7, g.clo⟩ + 1) % 256 := by
  unfold State.raise
  rw [get_set_same _ _ _ ⟨by show g.clo ≤ g.clo + 7; omega, by show g.clo + 7 < 32; omega⟩]
  have e : g.clo + 7 + 1 - g.clo = 8 := by omega
  simp [e]

/-- A set event leaves the other fields of the flag's register. -/
theorem get_raise_apart (s : State) (g : Flag) (f : Fld) (hf : f.ok) (hb : g.bit < 32) (hp : f.ptr ≠ g.cptr)
    (h : g.bit < f.lo ∨ f.hi < g.bit) : (s.raise g).get f = s.get f := by
  unfold State.raise
  rw [get_set_other _ _ _ _ hp, get_set_apart _ ⟨g.ptr, g.bit, g.bit⟩ _ _ ⟨Nat.le_refl _, hb⟩ hf h]

/-! ### Banks -/

theorem bank_putBank (s : State) (k j : Nat) (v : Word) : (s.putBank k v).bank j = if j = k then v else s.bank j := kvGet_kvPut _ _ _ _ _

end State

end Sys2Proof.Machine
end

