-- ==== Sys2Proof/Laws/OnlyRegs.lean ====
section
/-! SUPPORT. Laws/OnlyRegs.lean: frames of registers compose, and what a command out of reset answers. -/

set_option Elab.async false
set_option linter.all false

namespace Sys2Proof.Machine

theorem OnlyRegs.refl (l : List Nat) (s : State) : OnlyRegs l s s := fun _ _ => rfl

theorem OnlyRegs.trans {l : List Nat} {s t u : State} (a : OnlyRegs l s t) (b : OnlyRegs l t u) : OnlyRegs l s u :=
  fun p h => (b p h).trans (a p h)

theorem OnlyRegs.mono {l m : List Nat} {s t : State} (a : OnlyRegs l s t) (h : l ⊆ m) : OnlyRegs m s t := fun p hp => a p fun q => hp (h q)

theorem OnlyRegs.wr {l : List Nat} {s t : State} {p : Nat} {v : Word} (h : OnlyRegs l s t) (hp : p ∈ l) : OnlyRegs l s (t.wr p v) := by
  intro q hq
  rw [State.rd_wr, if_neg (fun e => by subst e; exact hq hp)]
  exact h q hq

theorem OnlyRegs.set {l : List Nat} {s t : State} {f : Fld} {n : Nat} (h : OnlyRegs l s t) (hp : f.ptr ∈ l) :
    OnlyRegs l s (t.set f n) := OnlyRegs.wr h hp

theorem OnlyRegs.setB {l : List Nat} {s t : State} {f : Fld} {b : Bool} (h : OnlyRegs l s t) (hp : f.ptr ∈ l) :
    OnlyRegs l s (t.setB f b) := OnlyRegs.wr h hp

theorem OnlyRegs.setFree {l : List Nat} {s t : State} {f : Fld} (h : OnlyRegs l s t) (hp : f.ptr ∈ l) :
    OnlyRegs l s (t.setFree f) := OnlyRegs.wr h hp

theorem OnlyRegs.raise {l : List Nat} {s t : State} {g : Flag} (h : OnlyRegs l s t) (hp : g.ptr ∈ l) (hc : g.cptr ∈ l) :
    OnlyRegs l s (t.raise g) := (h.set hp).set hc

theorem OnlyRegs.raiseIf {l : List Nat} {s t : State} {g : Flag} {b : Bool} (h : OnlyRegs l s t) (hp : g.ptr ∈ l) (hc : g.cptr ∈ l) :
    OnlyRegs l s (t.raiseIf b g) := by
  unfold State.raiseIf
  split
  · exact h.raise hp hc
  · exact h

theorem OnlyRegs.cond {l : List Nat} {s t : State} {g : Flag} {b : Bool} (h : OnlyRegs l s t) (hp : g.ptr ∈ l) (hc : g.cptr ∈ l) :
    OnlyRegs l s (t.cond g b) := by
  unfold State.cond
  dsimp only
  cases b
  · exact h
  · rw [if_pos rfl]
    split
    · exact h
    · exact OnlyRegs.raise (t := { t with conds := _ }) h hp hc

/-- An operation that leaves the registers leaves every one of them. -/
theorem OnlyRegs.of_only {m : List Part} {l : List Nat} {s t u : State} (h : OnlyRegs l s t) (k : Only m t u) (hr : Part.regs ∉ m) :
    OnlyRegs l s u := by
  intro q hq
  have e : u.regs = t.regs := k _ hr
  show kvGet _ u.regs q = _
  rw [e]
  exact h q hq

theorem OnlyRegs.ite {l : List Nat} {s t u : State} {c : Prop} [Decidable c] (h : OnlyRegs l s t) (k : OnlyRegs l s u) :
    OnlyRegs l s (if c then t else u) := by
  split
  · exact h
  · exact k

theorem OnlyRegs.foldl {α : Type} {l : List Nat} {s t : State} {g : State → α → State} {xs : List α}
    (hg : ∀ u a, OnlyRegs l u (g u a)) (h : OnlyRegs l s t) : OnlyRegs l s (xs.foldl g t) := by
  induction xs generalizing t with
  | nil => exact h
  | cons a xs ih => exact ih (h.trans (hg t a))

/-! ### Commands -/

/-- Out of reset a command answers its effect, with the queue as it was. -/
theorem awake_next {s : State} (u : State) (h : s.sys.inReset = false) : awake s u = .next (u.queued s.pending) := by
  unfold awake
  rw [h]
  rfl

/-- A command changes no more than its effect. -/
theorem Only.queued {l : List Part} {s u : State} (h : Only l s u) : Only l s (u.queued s.pending) := by
  intro p hp
  have a := h p hp
  cases p <;> first | exact a | rfl

/-- In reset a command has no effect. -/
theorem awake_reset {s : State} (u : State) (h : s.sys.inReset = true) : awake s u = .next s := by
  unfold awake
  rw [h]
  rfl

theorem fieldAt_reached {s : State} {p : Nat} (f : State → State) (h : reached s p = true) :
    fieldAt s .hostPrimary p f = f (granted s p) := by
  unfold fieldAt
  exact if_pos h

theorem readAt_readable {s : State} {d : Path} {p : Nat} (f : State → State) (h : readable s d p = true) : readAt s d p f = f s := by
  unfold readAt
  exact if_pos h

/-- A write that reaches a register comes out of reset. -/
theorem reached_awake {s : State} {p : Nat} (h : reached s p = true) : s.sys.inReset = false := by
  unfold reached writable at h
  simp only [Bool.and_eq_true, Bool.not_eq_true'] at h
  exact h.1.1.1.1

theorem readable_awake {s : State} {d : Path} {p : Nat} (h : readable s d p = true) : s.sys.inReset = false := by
  unfold readable at h
  simp only [Bool.and_eq_true, Bool.not_eq_true'] at h
  exact h.1.1.1

/-- The access of the host's commit that a command is leaves the registers and every other part. -/
@[simp] theorem granted_rd (s : State) (p q : Nat) : (granted s p).rd q = s.rd q := by
  have e : (granted s p).regs = s.regs := granted_only s p .regs (by decide)
  show kvGet _ (granted s p).regs q = _
  rw [e]; rfl
@[simp] theorem granted_get (s : State) (p : Nat) (f : Fld) : (granted s p).get f = s.get f := by
  unfold State.get; rw [granted_rd]
@[simp] theorem granted_on (s : State) (p : Nat) (f : Fld) : (granted s p).on f = s.on f := by
  unfold State.on; rw [granted_get]

@[simp] theorem granted_regs (s : State) (p : Nat) : (granted s p).regs = s.regs := granted_only s p .regs (by decide)
@[simp] theorem granted_heldU (s : State) (p : Nat) : (granted s p).heldU = s.heldU := granted_only s p .heldU (by decide)
@[simp] theorem granted_heldB (s : State) (p : Nat) : (granted s p).heldB = s.heldB := granted_only s p .heldB (by decide)
@[simp] theorem granted_banks (s : State) (p : Nat) : (granted s p).banks = s.banks := granted_only s p .banks (by decide)
@[simp] theorem granted_conds (s : State) (p : Nat) : (granted s p).conds = s.conds := granted_only s p .conds (by decide)
@[simp] theorem granted_gates (s : State) (p : Nat) : (granted s p).gates = s.gates := granted_only s p .gates (by decide)
@[simp] theorem granted_rdata (s : State) (p : Nat) : (granted s p).rdata = s.rdata := granted_only s p .rdata (by decide)
@[simp] theorem granted_free (s : State) (p : Nat) : (granted s p).free = s.free := granted_only s p .free (by decide)
@[simp] theorem granted_sys (s : State) (p : Nat) : (granted s p).sys = s.sys := granted_only s p .sys (by decide)
@[simp] theorem granted_time (s : State) (p : Nat) : (granted s p).time = s.time := granted_only s p .time (by decide)
@[simp] theorem granted_ain (s : State) (p : Nat) : (granted s p).ain = s.ain := granted_only s p .ain (by decide)
@[simp] theorem granted_mb (s : State) (p : Nat) : (granted s p).mb = s.mb := granted_only s p .mb (by decide)
@[simp] theorem granted_scn (s : State) (p : Nat) : (granted s p).scn = s.scn := granted_only s p .scn (by decide)
@[simp] theorem granted_legs (s : State) (p : Nat) : (granted s p).legs = s.legs := granted_only s p .legs (by decide)
@[simp] theorem granted_pwm (s : State) (p : Nat) : (granted s p).pwm = s.pwm := granted_only s p .pwm (by decide)
@[simp] theorem granted_safe (s : State) (p : Nat) : (granted s p).safe = s.safe := granted_only s p .safe (by decide)
@[simp] theorem granted_dlCal (s : State) (p : Nat) : (granted s p).dlCal = s.dlCal := granted_only s p .dlCal (by decide)
@[simp] theorem granted_pins (s : State) (p : Nat) : (granted s p).pins = s.pins := granted_only s p .pins (by decide)
@[simp] theorem granted_sense (s : State) (p : Nat) : (granted s p).sense = s.sense := granted_only s p .sense (by decide)
@[simp] theorem granted_lanes (s : State) (p : Nat) : (granted s p).lanes = s.lanes := granted_only s p .lanes (by decide)
@[simp] theorem granted_loops (s : State) (p : Nat) : (granted s p).loops = s.loops := granted_only s p .loops (by decide)
@[simp] theorem granted_lanePool (s : State) (p : Nat) : (granted s p).lanePool = s.lanePool := granted_only s p .lanePool (by decide)
@[simp] theorem granted_trace (s : State) (p : Nat) : (granted s p).trace = s.trace := granted_only s p .trace (by decide)
@[simp] theorem granted_vent (s : State) (p : Nat) : (granted s p).vent = s.vent := granted_only s p .vent (by decide)
@[simp] theorem granted_mem (s : State) (p : Nat) : (granted s p).mem = s.mem := granted_only s p .mem (by decide)
@[simp] theorem granted_bkg (s : State) (p : Nat) : (granted s p).bkg = s.bkg := granted_only s p .bkg (by decide)
@[simp] theorem granted_rings (s : State) (p : Nat) : (granted s p).rings = s.rings := granted_only s p .rings (by decide)
@[simp] theorem granted_fab (s : State) (p : Nat) : (granted s p).fab = s.fab := granted_only s p .fab (by decide)
@[simp] theorem granted_twin (s : State) (p : Nat) : (granted s p).twin = s.twin := granted_only s p .twin (by decide)
@[simp] theorem granted_str (s : State) (p : Nat) : (granted s p).str = s.str := granted_only s p .str (by decide)
@[simp] theorem granted_pending (s : State) (p : Nat) : (granted s p).pending = s.pending := granted_only s p .pending (by decide)

end Sys2Proof.Machine
end

