-- ==== Sys2Proof/WellFormed.lean ====
section
/-! DEFINITION. WellFormed.lean: the operands that an event can bring. exec is total on every operand; these are the ones the spec's
tables and frames give. -/

set_option Elab.async false

namespace Sys2Proof

/-- A pointer of the register space is a multiple of 4 (R8). -/
def wfPointer (p : Word16) : Bool := p.toNat % 4 == 0

/-- A slice calibration gives three points of noise and error (R226). -/
def wfOutcome (o : CalOutcome) : Bool := o.noise.length == 3 && o.errs.length == 3

/-- A ring frame has a 32-byte command slot and 32 slots of 64 bytes (R418 to R420). -/
def wfFrame (f : RingFrame) : Bool := f.cmd.length == 32 && f.slots.length == 32 && f.slots.all fun b => b.length == 64

/-- A command of the ring carries 26 payload bytes (R420). -/
def wfPayload (p : List Byte) : Bool := p.length == 26

/-- A fabric request moves 1 to 8 beats of 16 bytes, each write beat with its strobes (R490, R493). -/
def wfRequest (r : FabReq) : Bool :=
  if r.write then decide (1 ≤ r.data.length) && decide (r.data.length ≤ 8) && r.strobes.length == r.data.length
  else decide (1 ≤ r.beats) && decide (r.beats ≤ 8)

/-- A snapshot covers 8 ASRC domains, 32 rings and 16 channels (R397). -/
def wfSnap (x : Snap) : Bool := x.asrc.length == 8 && x.rings.length == 32 && x.chans.length == 16

/-- A word of a bank: banks 0 to 47 with up to 16,384 physical words, small arrays 64 to 87 (R503). -/
def wfBankWord (b w : Nat) : Bool := (decide (b < 48) || (decide (64 ≤ b) && decide (b < 88))) && decide (w < 16384)

/-- The words of a resynchronization frame lie inside their bank (R407). -/
def wfResync : Resync → Bool
  | .mbBank _ _ o ws => decide (o + ws.length ≤ 2224)
  | .table _ o ws => decide (o + ws.length ≤ 1040)
  | .laneBank _ _ o ws => decide (o + ws.length ≤ 162)
  | .spkBank _ _ o ws => decide (o + ws.length ≤ 48)
  | .regs l => l.all fun e => wfPointer e.1
  | .hist _ _ _ _ _ _ _ _ => true
  | .scene st _ _ _ _ _ _ _ => decide (st ≤ 2)
  | .endMark bR _ => decide (bR < 2 ^ 48)

/-- Keys and credentials have 32 bytes (R572, R574). -/
def wfFuse : FuseWrite → Bool
  | .key _ bs => bs.length == 32
  | .credential bs => bs.length == 32
  | .revoke _ => true

/-- The operands of a command are ones an event can bring. -/
def Instr.wf : Instr → Bool
  | .registerWrite _ p _ => wfPointer p
  | .w1cClear _ p _ _ => wfPointer p
  | .tdmFrameRx _ _ slots => decide (slots.length ≤ 16)
  | .aes3CsBlockRx _ bytes _ => bytes.length == 24
  | .dlCalibrationDone _ d => d.length == 40
  | .clockMonitorWindow clk _ => decide (clk < 8)
  | .startupCalDone o => o.length == 34 && o.all wfOutcome
  | .sliceCalDone o => wfOutcome o
  | .snapRx _ x _ => wfSnap x
  | .rsyncRx _ x => wfResync x
  | .ringFrameRx f => wfFrame f
  | .ringFrameReturn f _ => wfFrame f
  | .strRegw _ p => wfPayload p
  | .strRingw _ p => wfPayload p
  | .strCommit _ p => wfPayload p
  | .unfold _ p => wfPayload p
  | .assign _ p => wfPayload p
  | .telEntryProduce _ _ p => p.length == 3
  | .fabricGrant _ rs => rs.all wfRequest
  | .fabricResponse _ d es => decide (d.length ≤ 8) && decide (es.length ≤ 8)
  | .masterReset _ n => decide (n ≤ 8)
  | .ceWriteback b w => wfBankWord b w
  | .scrubStep l => l.all fun e => wfBankWord e.1 e.2.1
  | .repairCopy b => decide (b < 48)
  | .wipeComplete _ bad => bad.all fun e => wfBankWord e.1 0
  | .scanComplete _ sectors _ _ => decide (sectors.length ≤ 64) && sectors.all fun b => b.length == 4096
  | .credentialPresent bs => bs.length == 32
  | .fuseProgram x => wfFuse x
  | .gateDeliver _ | .updateBoundary | .blockBoundary _ | .ptpAnnounceRx _ _ _ | .ptpSyncRx _ _ _ _ _ | .ptpFollowUpRx _ _ _ _
  | .ptpDelayRespRx _ _ _ | .delayReqTx _ | .announceTimeout _ | .ppsInEdge | .ppsTimeout | .stepNow | .ppsOutFall
  | .aes67PacketRx _ _ _ _ _ _ | .ssrcTimeout _ | .streamRxTimeout _ _ | .receiveRead | .streamEnable _ _ | .streamDisable _ _
  | .tdmFsTimeout _ | .tdmLockLoss _ | .tdmLockGain _ _ | .aes3SubframeRx _ _ _ _ _ | .aes3Lock _ _ | .aes3LockLoss _ | .asrcLock _
  | .asrcUnlock _ | .csSelect _ | .csDataRead | .mixDataWrite _ | .mixDataRead | .mbUnitComplete _ | .laWrite _ _ | .bankWordWrite _ _
  | .bankWordRead _ | .sceneArm | .sceneAbort | .blockIndexRead | .mbCoreUe _ | .mbSwapRequest _ | .kSelect _ | .shadowWrite _ _ _
  | .hostCompareWrite _ _ _ | .compareEdge _ | .deadTimeEnd _ | .dlCalibrationStart | .converterTrigger _ _ | .channelStart _ _
  | .prechargeEnd _ | .channelStop _ _ | .srcSwitch _ _ | .faultInputAccept _ | .faultInputRelease _ | .blankWindowEnd _ | .safeLoOn _
  | .safeHoldEnd _ | .latchClear _ | .latchForce _ | .deviceSafeClear | .deviceSafeForce | .limitsLock | .pwmActivityTimeout
  | .mediaPllUnlock | .dieTempMeasure _ | .debugHalt _ | .lockstepMismatch | .conversionEnd _ _ _ | .retryEnd _ _ _ | .decimatorOutput
  | .rotationStepStart | .rotationOverlapEnd | .railConversion _ _ | .calResultRead | .nop _ | .mac _ | .macd _ | .intg _ | .wait _
  | .waitComplete _ | .out _ | .skipo _ | .endProgram _ | .laneOverrun _ | .laneSwapnow _ | .coefWrite _ _ | .laneNextWrite _ _
  | .laneNextRead _ | .laneLiveRead _ | .shadowSlotOpen | .selfTestDone _ _ | .confirmShadowEnd | .laneUe _ | .forcedSwap | .traceArm _
  | .traceForce _ | .traceStop _ | .traceRead | .clrPk _ | .clrMin _ | .injectionToggle _ | .ventUnitComplete _ _ | .coneStep _
  | .reEstimate _ | .idPublish _ | .ventCoreUe _ | .spkNextWrite _ _ | .spkNextRead _ | .spkLiveRead _ | .clrLoad | .tempResultRead _
  | .idResultRead _ | .loadWindowEnd _ | .sweepStart _ | .sweepAbort _ | .sweepPhaseEnd _ | .diaResultRead _ _ _ | .sweepDataRead _
  | .hbInEdge _ | .hbTimeout | .msgTimeout | .markRx _ _ | .hbmRx _ _ | .rsreqRx _ | .identRx _ _ | .refuseRx _ | .identRepeat
  | .twinLaneFail _ _ | .linkRetrain | .retrain | .markerTimeout | .cfgDigest | .ownNHigh | .claimCheck _ | .handover | .resyncRequest
  | .settleEnd | .ringFrameStart | .ringLostTimeout | .strPortFail _ _ _ | .strPortGood _ | .addressTimeout _ | .strAbort _
  | .cmdQueueGo _ | .nodeSlotRead _ | .cmdResultRead | .hostStart | .hostAddress _ _ | .hostByteWrite _ | .hostByteRead _ _ | .hostStop _
  | .hostRepeatedStart _ | .commitEnd | .sclTimeout | .sdaTimeout | .ibrStart | .ibrEnd | .reqCollide | .ringStageWrite _ _ _ _
  | .ringPush _ _ _ | .ringFetch _ _ | .ringConsume _ _ | .ringConfig _ _ | .regw _ | .regw2 _ | .fence _ | .telemetryCollect
  | .fabricTimeout _ | .portProbe _ | .fabElogRead | .logStateRecord | .logEventRecords | .logFlush | .flashOpDone _ | .memElogRead
  | .bkgLogRead | .errorInjectArm _ | .qspiProgram | .qspiErase | .qspiReadStatus _ | .qspiBufferWrite _ | .qspiBufferRead | .powerUp
  | .supplyFall | .resetPin _ | .softReset | .debugReset | .mgmtWatchdogReset | .resetRelease _ | .candidateLoadEnd _ | .fwTimeout
  | .relStart _ | .lifecycleRequest _ _ | .fuseBlowDone _ | .debugRelease | .boundaryScanLoad | .mediaPllLock | .pllLock _ | .pllUnlock _
  | .twinPllLock | .safeWatchdogTrip | .clockMeasure _ | .refSlewStep | .ownNLow | .handoverHoldoffEnd | .forwardingStart => true

end Sys2Proof
end

