-- ==== Sys2Proof/Laws/PerInstr.lean ====
section
/-! SUPPORT. Laws/PerInstr.lean: the family Formed: every command can be brought with well-formed operands. -/

set_option Elab.async false
set_option linter.all false

namespace Sys2Proof.Laws.Formed

/-- Some command of the same row has operands that an event can bring. -/
def Statement (i : Instr) : Prop := ∃ j : Instr, j.ctorIdx = i.ctorIdx ∧ j.wf = true

theorem registerWrite : ∀ x0 x1 x2, Statement (.registerWrite x0 x1 x2) := fun _ _ _ => ⟨.registerWrite .hostPrimary 0 0, rfl, rfl⟩
theorem w1cClear : ∀ x0 x1 x2 x3, Statement (.w1cClear x0 x1 x2 x3) := fun _ _ _ _ => ⟨.w1cClear .hostPrimary 0 0 0, rfl, rfl⟩
theorem gateDeliver : ∀ x0, Statement (.gateDeliver x0) := fun x0 => ⟨.gateDeliver x0, rfl, rfl⟩
theorem updateBoundary : Statement .updateBoundary := ⟨.updateBoundary, rfl, rfl⟩
theorem blockBoundary : ∀ x0, Statement (.blockBoundary x0) := fun x0 => ⟨.blockBoundary x0, rfl, rfl⟩
theorem ptpAnnounceRx : ∀ x0 x1 x2, Statement (.ptpAnnounceRx x0 x1 x2) := fun x0 x1 x2 => ⟨.ptpAnnounceRx x0 x1 x2, rfl, rfl⟩
theorem ptpSyncRx : ∀ x0 x1 x2 x3 x4, Statement (.ptpSyncRx x0 x1 x2 x3 x4) := fun x0 x1 x2 x3 x4 => ⟨.ptpSyncRx x0 x1 x2 x3 x4, rfl, rfl⟩
theorem ptpFollowUpRx : ∀ x0 x1 x2 x3, Statement (.ptpFollowUpRx x0 x1 x2 x3) := fun x0 x1 x2 x3 => ⟨.ptpFollowUpRx x0 x1 x2 x3, rfl, rfl⟩
theorem ptpDelayRespRx : ∀ x0 x1 x2, Statement (.ptpDelayRespRx x0 x1 x2) := fun x0 x1 x2 => ⟨.ptpDelayRespRx x0 x1 x2, rfl, rfl⟩
theorem delayReqTx : ∀ x0, Statement (.delayReqTx x0) := fun x0 => ⟨.delayReqTx x0, rfl, rfl⟩
theorem announceTimeout : ∀ x0, Statement (.announceTimeout x0) := fun x0 => ⟨.announceTimeout x0, rfl, rfl⟩
theorem ppsInEdge : Statement .ppsInEdge := ⟨.ppsInEdge, rfl, rfl⟩
theorem ppsTimeout : Statement .ppsTimeout := ⟨.ppsTimeout, rfl, rfl⟩
theorem stepNow : Statement .stepNow := ⟨.stepNow, rfl, rfl⟩
theorem ppsOutFall : Statement .ppsOutFall := ⟨.ppsOutFall, rfl, rfl⟩
theorem aes67PacketRx : ∀ x0 x1 x2 x3 x4 x5, Statement (.aes67PacketRx x0 x1 x2 x3 x4 x5) := fun x0 x1 x2 x3 x4 x5 => ⟨.aes67PacketRx x0 x1 x2 x3 x4 x5, rfl, rfl⟩
theorem ssrcTimeout : ∀ x0, Statement (.ssrcTimeout x0) := fun x0 => ⟨.ssrcTimeout x0, rfl, rfl⟩
theorem streamRxTimeout : ∀ x0 x1, Statement (.streamRxTimeout x0 x1) := fun x0 x1 => ⟨.streamRxTimeout x0 x1, rfl, rfl⟩
theorem receiveRead : Statement .receiveRead := ⟨.receiveRead, rfl, rfl⟩
theorem streamEnable : ∀ x0 x1, Statement (.streamEnable x0 x1) := fun x0 x1 => ⟨.streamEnable x0 x1, rfl, rfl⟩
theorem streamDisable : ∀ x0 x1, Statement (.streamDisable x0 x1) := fun x0 x1 => ⟨.streamDisable x0 x1, rfl, rfl⟩
theorem tdmFrameRx : ∀ x0 x1 x2, Statement (.tdmFrameRx x0 x1 x2) := fun _ _ _ => ⟨.tdmFrameRx 0 0 [], rfl, rfl⟩
theorem tdmFsTimeout : ∀ x0, Statement (.tdmFsTimeout x0) := fun x0 => ⟨.tdmFsTimeout x0, rfl, rfl⟩
theorem tdmLockLoss : ∀ x0, Statement (.tdmLockLoss x0) := fun x0 => ⟨.tdmLockLoss x0, rfl, rfl⟩
theorem tdmLockGain : ∀ x0 x1, Statement (.tdmLockGain x0 x1) := fun x0 x1 => ⟨.tdmLockGain x0 x1, rfl, rfl⟩
theorem aes3SubframeRx : ∀ x0 x1 x2 x3 x4, Statement (.aes3SubframeRx x0 x1 x2 x3 x4) := fun x0 x1 x2 x3 x4 => ⟨.aes3SubframeRx x0 x1 x2 x3 x4, rfl, rfl⟩
theorem aes3CsBlockRx : ∀ x0 x1 x2, Statement (.aes3CsBlockRx x0 x1 x2) := fun _ _ _ => ⟨.aes3CsBlockRx 0 (List.replicate 24 0) true, rfl, rfl⟩
theorem aes3Lock : ∀ x0 x1, Statement (.aes3Lock x0 x1) := fun x0 x1 => ⟨.aes3Lock x0 x1, rfl, rfl⟩
theorem aes3LockLoss : ∀ x0, Statement (.aes3LockLoss x0) := fun x0 => ⟨.aes3LockLoss x0, rfl, rfl⟩
theorem asrcLock : ∀ x0, Statement (.asrcLock x0) := fun x0 => ⟨.asrcLock x0, rfl, rfl⟩
theorem asrcUnlock : ∀ x0, Statement (.asrcUnlock x0) := fun x0 => ⟨.asrcUnlock x0, rfl, rfl⟩
theorem csSelect : ∀ x0, Statement (.csSelect x0) := fun x0 => ⟨.csSelect x0, rfl, rfl⟩
theorem csDataRead : Statement .csDataRead := ⟨.csDataRead, rfl, rfl⟩
theorem mixDataWrite : ∀ x0, Statement (.mixDataWrite x0) := fun x0 => ⟨.mixDataWrite x0, rfl, rfl⟩
theorem mixDataRead : Statement .mixDataRead := ⟨.mixDataRead, rfl, rfl⟩
theorem mbUnitComplete : ∀ x0, Statement (.mbUnitComplete x0) := fun x0 => ⟨.mbUnitComplete x0, rfl, rfl⟩
theorem laWrite : ∀ x0 x1, Statement (.laWrite x0 x1) := fun x0 x1 => ⟨.laWrite x0 x1, rfl, rfl⟩
theorem bankWordWrite : ∀ x0 x1, Statement (.bankWordWrite x0 x1) := fun x0 x1 => ⟨.bankWordWrite x0 x1, rfl, rfl⟩
theorem bankWordRead : ∀ x0, Statement (.bankWordRead x0) := fun x0 => ⟨.bankWordRead x0, rfl, rfl⟩
theorem sceneArm : Statement .sceneArm := ⟨.sceneArm, rfl, rfl⟩
theorem sceneAbort : Statement .sceneAbort := ⟨.sceneAbort, rfl, rfl⟩
theorem blockIndexRead : Statement .blockIndexRead := ⟨.blockIndexRead, rfl, rfl⟩
theorem mbCoreUe : ∀ x0, Statement (.mbCoreUe x0) := fun x0 => ⟨.mbCoreUe x0, rfl, rfl⟩
theorem mbSwapRequest : ∀ x0, Statement (.mbSwapRequest x0) := fun x0 => ⟨.mbSwapRequest x0, rfl, rfl⟩
theorem kSelect : ∀ x0, Statement (.kSelect x0) := fun x0 => ⟨.kSelect x0, rfl, rfl⟩
theorem shadowWrite : ∀ x0 x1 x2, Statement (.shadowWrite x0 x1 x2) := fun x0 x1 x2 => ⟨.shadowWrite x0 x1 x2, rfl, rfl⟩
theorem hostCompareWrite : ∀ x0 x1 x2, Statement (.hostCompareWrite x0 x1 x2) := fun x0 x1 x2 => ⟨.hostCompareWrite x0 x1 x2, rfl, rfl⟩
theorem compareEdge : ∀ x0, Statement (.compareEdge x0) := fun x0 => ⟨.compareEdge x0, rfl, rfl⟩
theorem deadTimeEnd : ∀ x0, Statement (.deadTimeEnd x0) := fun x0 => ⟨.deadTimeEnd x0, rfl, rfl⟩
theorem dlCalibrationStart : Statement .dlCalibrationStart := ⟨.dlCalibrationStart, rfl, rfl⟩
theorem dlCalibrationDone : ∀ x0 x1, Statement (.dlCalibrationDone x0 x1) := fun _ _ => ⟨.dlCalibrationDone 0 (List.replicate 40 0), rfl, rfl⟩
theorem converterTrigger : ∀ x0 x1, Statement (.converterTrigger x0 x1) := fun x0 x1 => ⟨.converterTrigger x0 x1, rfl, rfl⟩
theorem channelStart : ∀ x0 x1, Statement (.channelStart x0 x1) := fun x0 x1 => ⟨.channelStart x0 x1, rfl, rfl⟩
theorem prechargeEnd : ∀ x0, Statement (.prechargeEnd x0) := fun x0 => ⟨.prechargeEnd x0, rfl, rfl⟩
theorem channelStop : ∀ x0 x1, Statement (.channelStop x0 x1) := fun x0 x1 => ⟨.channelStop x0 x1, rfl, rfl⟩
theorem srcSwitch : ∀ x0 x1, Statement (.srcSwitch x0 x1) := fun x0 x1 => ⟨.srcSwitch x0 x1, rfl, rfl⟩
theorem faultInputAccept : ∀ x0, Statement (.faultInputAccept x0) := fun x0 => ⟨.faultInputAccept x0, rfl, rfl⟩
theorem faultInputRelease : ∀ x0, Statement (.faultInputRelease x0) := fun x0 => ⟨.faultInputRelease x0, rfl, rfl⟩
theorem blankWindowEnd : ∀ x0, Statement (.blankWindowEnd x0) := fun x0 => ⟨.blankWindowEnd x0, rfl, rfl⟩
theorem safeLoOn : ∀ x0, Statement (.safeLoOn x0) := fun x0 => ⟨.safeLoOn x0, rfl, rfl⟩
theorem safeHoldEnd : ∀ x0, Statement (.safeHoldEnd x0) := fun x0 => ⟨.safeHoldEnd x0, rfl, rfl⟩
theorem latchClear : ∀ x0, Statement (.latchClear x0) := fun x0 => ⟨.latchClear x0, rfl, rfl⟩
theorem latchForce : ∀ x0, Statement (.latchForce x0) := fun x0 => ⟨.latchForce x0, rfl, rfl⟩
theorem deviceSafeClear : Statement .deviceSafeClear := ⟨.deviceSafeClear, rfl, rfl⟩
theorem deviceSafeForce : Statement .deviceSafeForce := ⟨.deviceSafeForce, rfl, rfl⟩
theorem limitsLock : Statement .limitsLock := ⟨.limitsLock, rfl, rfl⟩
theorem clockMonitorWindow : ∀ x0 x1, Statement (.clockMonitorWindow x0 x1) := fun _ _ => ⟨.clockMonitorWindow 0 0, rfl, rfl⟩
theorem pwmActivityTimeout : Statement .pwmActivityTimeout := ⟨.pwmActivityTimeout, rfl, rfl⟩
theorem mediaPllUnlock : Statement .mediaPllUnlock := ⟨.mediaPllUnlock, rfl, rfl⟩
theorem dieTempMeasure : ∀ x0, Statement (.dieTempMeasure x0) := fun x0 => ⟨.dieTempMeasure x0, rfl, rfl⟩
theorem debugHalt : ∀ x0, Statement (.debugHalt x0) := fun x0 => ⟨.debugHalt x0, rfl, rfl⟩
theorem lockstepMismatch : Statement .lockstepMismatch := ⟨.lockstepMismatch, rfl, rfl⟩
theorem conversionEnd : ∀ x0 x1 x2, Statement (.conversionEnd x0 x1 x2) := fun x0 x1 x2 => ⟨.conversionEnd x0 x1 x2, rfl, rfl⟩
theorem retryEnd : ∀ x0 x1 x2, Statement (.retryEnd x0 x1 x2) := fun x0 x1 x2 => ⟨.retryEnd x0 x1 x2, rfl, rfl⟩
theorem decimatorOutput : Statement .decimatorOutput := ⟨.decimatorOutput, rfl, rfl⟩
theorem startupCalDone : ∀ x0, Statement (.startupCalDone x0) := fun _ => ⟨.startupCalDone (List.replicate 34 ⟨0, 0, [0, 0, 0], [0, 0, 0]⟩), rfl, rfl⟩
theorem rotationStepStart : Statement .rotationStepStart := ⟨.rotationStepStart, rfl, rfl⟩
theorem rotationOverlapEnd : Statement .rotationOverlapEnd := ⟨.rotationOverlapEnd, rfl, rfl⟩
theorem sliceCalDone : ∀ x0, Statement (.sliceCalDone x0) := fun _ => ⟨.sliceCalDone ⟨0, 0, [0, 0, 0], [0, 0, 0]⟩, rfl, rfl⟩
theorem railConversion : ∀ x0 x1, Statement (.railConversion x0 x1) := fun x0 x1 => ⟨.railConversion x0 x1, rfl, rfl⟩
theorem calResultRead : Statement .calResultRead := ⟨.calResultRead, rfl, rfl⟩
theorem nop : ∀ x0, Statement (.nop x0) := fun x0 => ⟨.nop x0, rfl, rfl⟩
theorem mac : ∀ x0, Statement (.mac x0) := fun x0 => ⟨.mac x0, rfl, rfl⟩
theorem macd : ∀ x0, Statement (.macd x0) := fun x0 => ⟨.macd x0, rfl, rfl⟩
theorem intg : ∀ x0, Statement (.intg x0) := fun x0 => ⟨.intg x0, rfl, rfl⟩
theorem wait : ∀ x0, Statement (.wait x0) := fun x0 => ⟨.wait x0, rfl, rfl⟩
theorem waitComplete : ∀ x0, Statement (.waitComplete x0) := fun x0 => ⟨.waitComplete x0, rfl, rfl⟩
theorem out : ∀ x0, Statement (.out x0) := fun x0 => ⟨.out x0, rfl, rfl⟩
theorem skipo : ∀ x0, Statement (.skipo x0) := fun x0 => ⟨.skipo x0, rfl, rfl⟩
theorem endProgram : ∀ x0, Statement (.endProgram x0) := fun x0 => ⟨.endProgram x0, rfl, rfl⟩
theorem laneOverrun : ∀ x0, Statement (.laneOverrun x0) := fun x0 => ⟨.laneOverrun x0, rfl, rfl⟩
theorem laneSwapnow : ∀ x0, Statement (.laneSwapnow x0) := fun x0 => ⟨.laneSwapnow x0, rfl, rfl⟩
theorem coefWrite : ∀ x0 x1, Statement (.coefWrite x0 x1) := fun x0 x1 => ⟨.coefWrite x0 x1, rfl, rfl⟩
theorem laneNextWrite : ∀ x0 x1, Statement (.laneNextWrite x0 x1) := fun x0 x1 => ⟨.laneNextWrite x0 x1, rfl, rfl⟩
theorem laneNextRead : ∀ x0, Statement (.laneNextRead x0) := fun x0 => ⟨.laneNextRead x0, rfl, rfl⟩
theorem laneLiveRead : ∀ x0, Statement (.laneLiveRead x0) := fun x0 => ⟨.laneLiveRead x0, rfl, rfl⟩
theorem shadowSlotOpen : Statement .shadowSlotOpen := ⟨.shadowSlotOpen, rfl, rfl⟩
theorem selfTestDone : ∀ x0 x1, Statement (.selfTestDone x0 x1) := fun x0 x1 => ⟨.selfTestDone x0 x1, rfl, rfl⟩
theorem confirmShadowEnd : Statement .confirmShadowEnd := ⟨.confirmShadowEnd, rfl, rfl⟩
theorem laneUe : ∀ x0, Statement (.laneUe x0) := fun x0 => ⟨.laneUe x0, rfl, rfl⟩
theorem forcedSwap : Statement .forcedSwap := ⟨.forcedSwap, rfl, rfl⟩
theorem traceArm : ∀ x0, Statement (.traceArm x0) := fun x0 => ⟨.traceArm x0, rfl, rfl⟩
theorem traceForce : ∀ x0, Statement (.traceForce x0) := fun x0 => ⟨.traceForce x0, rfl, rfl⟩
theorem traceStop : ∀ x0, Statement (.traceStop x0) := fun x0 => ⟨.traceStop x0, rfl, rfl⟩
theorem traceRead : Statement .traceRead := ⟨.traceRead, rfl, rfl⟩
theorem clrPk : ∀ x0, Statement (.clrPk x0) := fun x0 => ⟨.clrPk x0, rfl, rfl⟩
theorem clrMin : ∀ x0, Statement (.clrMin x0) := fun x0 => ⟨.clrMin x0, rfl, rfl⟩
theorem injectionToggle : ∀ x0, Statement (.injectionToggle x0) := fun x0 => ⟨.injectionToggle x0, rfl, rfl⟩
theorem ventUnitComplete : ∀ x0 x1, Statement (.ventUnitComplete x0 x1) := fun x0 x1 => ⟨.ventUnitComplete x0 x1, rfl, rfl⟩
theorem coneStep : ∀ x0, Statement (.coneStep x0) := fun x0 => ⟨.coneStep x0, rfl, rfl⟩
theorem reEstimate : ∀ x0, Statement (.reEstimate x0) := fun x0 => ⟨.reEstimate x0, rfl, rfl⟩
theorem idPublish : ∀ x0, Statement (.idPublish x0) := fun x0 => ⟨.idPublish x0, rfl, rfl⟩
theorem ventCoreUe : ∀ x0, Statement (.ventCoreUe x0) := fun x0 => ⟨.ventCoreUe x0, rfl, rfl⟩
theorem spkNextWrite : ∀ x0 x1, Statement (.spkNextWrite x0 x1) := fun x0 x1 => ⟨.spkNextWrite x0 x1, rfl, rfl⟩
theorem spkNextRead : ∀ x0, Statement (.spkNextRead x0) := fun x0 => ⟨.spkNextRead x0, rfl, rfl⟩
theorem spkLiveRead : ∀ x0, Statement (.spkLiveRead x0) := fun x0 => ⟨.spkLiveRead x0, rfl, rfl⟩
theorem clrLoad : Statement .clrLoad := ⟨.clrLoad, rfl, rfl⟩
theorem tempResultRead : ∀ x0, Statement (.tempResultRead x0) := fun x0 => ⟨.tempResultRead x0, rfl, rfl⟩
theorem idResultRead : ∀ x0, Statement (.idResultRead x0) := fun x0 => ⟨.idResultRead x0, rfl, rfl⟩
theorem loadWindowEnd : ∀ x0, Statement (.loadWindowEnd x0) := fun x0 => ⟨.loadWindowEnd x0, rfl, rfl⟩
theorem sweepStart : ∀ x0, Statement (.sweepStart x0) := fun x0 => ⟨.sweepStart x0, rfl, rfl⟩
theorem sweepAbort : ∀ x0, Statement (.sweepAbort x0) := fun x0 => ⟨.sweepAbort x0, rfl, rfl⟩
theorem sweepPhaseEnd : ∀ x0, Statement (.sweepPhaseEnd x0) := fun x0 => ⟨.sweepPhaseEnd x0, rfl, rfl⟩
theorem diaResultRead : ∀ x0 x1 x2, Statement (.diaResultRead x0 x1 x2) := fun x0 x1 x2 => ⟨.diaResultRead x0 x1 x2, rfl, rfl⟩
theorem sweepDataRead : ∀ x0, Statement (.sweepDataRead x0) := fun x0 => ⟨.sweepDataRead x0, rfl, rfl⟩
theorem hbInEdge : ∀ x0, Statement (.hbInEdge x0) := fun x0 => ⟨.hbInEdge x0, rfl, rfl⟩
theorem hbTimeout : Statement .hbTimeout := ⟨.hbTimeout, rfl, rfl⟩
theorem msgTimeout : Statement .msgTimeout := ⟨.msgTimeout, rfl, rfl⟩
theorem markRx : ∀ x0 x1, Statement (.markRx x0 x1) := fun x0 x1 => ⟨.markRx x0 x1, rfl, rfl⟩
theorem hbmRx : ∀ x0 x1, Statement (.hbmRx x0 x1) := fun x0 x1 => ⟨.hbmRx x0 x1, rfl, rfl⟩
theorem snapRx : ∀ x0 x1 x2, Statement (.snapRx x0 x1 x2) := fun x0 _ x2 =>
  ⟨.snapRx x0 ⟨0, List.replicate 8 0, List.replicate 32 (0, 0), List.replicate 16 {}⟩ x2, rfl, rfl⟩
theorem rsyncRx : ∀ x0 x1, Statement (.rsyncRx x0 x1) := fun x0 _ => ⟨.rsyncRx x0 (.endMark 0 0), rfl, rfl⟩
theorem rsreqRx : ∀ x0, Statement (.rsreqRx x0) := fun x0 => ⟨.rsreqRx x0, rfl, rfl⟩
theorem identRx : ∀ x0 x1, Statement (.identRx x0 x1) := fun x0 x1 => ⟨.identRx x0 x1, rfl, rfl⟩
theorem refuseRx : ∀ x0, Statement (.refuseRx x0) := fun x0 => ⟨.refuseRx x0, rfl, rfl⟩
theorem identRepeat : Statement .identRepeat := ⟨.identRepeat, rfl, rfl⟩
theorem twinLaneFail : ∀ x0 x1, Statement (.twinLaneFail x0 x1) := fun x0 x1 => ⟨.twinLaneFail x0 x1, rfl, rfl⟩
theorem linkRetrain : Statement .linkRetrain := ⟨.linkRetrain, rfl, rfl⟩
theorem retrain : Statement .retrain := ⟨.retrain, rfl, rfl⟩
theorem markerTimeout : Statement .markerTimeout := ⟨.markerTimeout, rfl, rfl⟩
theorem cfgDigest : Statement .cfgDigest := ⟨.cfgDigest, rfl, rfl⟩
theorem ownNHigh : Statement .ownNHigh := ⟨.ownNHigh, rfl, rfl⟩
theorem claimCheck : ∀ x0, Statement (.claimCheck x0) := fun x0 => ⟨.claimCheck x0, rfl, rfl⟩
theorem handover : Statement .handover := ⟨.handover, rfl, rfl⟩
theorem resyncRequest : Statement .resyncRequest := ⟨.resyncRequest, rfl, rfl⟩
theorem settleEnd : Statement .settleEnd := ⟨.settleEnd, rfl, rfl⟩
theorem ringFrameStart : Statement .ringFrameStart := ⟨.ringFrameStart, rfl, rfl⟩
theorem ringFrameRx : ∀ x0, Statement (.ringFrameRx x0) := fun _ => ⟨.ringFrameRx ⟨false, false, 0, 0, 0, 0, 0, true, List.replicate 32 0, List.replicate 32 (List.replicate 64 0)⟩, rfl, rfl⟩
theorem ringFrameReturn : ∀ x0 x1, Statement (.ringFrameReturn x0 x1) := fun _ _ => ⟨.ringFrameReturn ⟨false, false, 0, 0, 0, 0, 0, true, List.replicate 32 0, List.replicate 32 (List.replicate 64 0)⟩ false, rfl, rfl⟩
theorem ringLostTimeout : Statement .ringLostTimeout := ⟨.ringLostTimeout, rfl, rfl⟩
theorem strPortFail : ∀ x0 x1 x2, Statement (.strPortFail x0 x1 x2) := fun x0 x1 x2 => ⟨.strPortFail x0 x1 x2, rfl, rfl⟩
theorem strPortGood : ∀ x0, Statement (.strPortGood x0) := fun x0 => ⟨.strPortGood x0, rfl, rfl⟩
theorem addressTimeout : ∀ x0, Statement (.addressTimeout x0) := fun x0 => ⟨.addressTimeout x0, rfl, rfl⟩
theorem strRegw : ∀ x0 x1, Statement (.strRegw x0 x1) := fun _ _ => ⟨.strRegw 0 (List.replicate 26 0), rfl, rfl⟩
theorem strRingw : ∀ x0 x1, Statement (.strRingw x0 x1) := fun _ _ => ⟨.strRingw 0 (List.replicate 26 0), rfl, rfl⟩
theorem strCommit : ∀ x0 x1, Statement (.strCommit x0 x1) := fun _ _ => ⟨.strCommit 0 (List.replicate 26 0), rfl, rfl⟩
theorem strAbort : ∀ x0, Statement (.strAbort x0) := fun x0 => ⟨.strAbort x0, rfl, rfl⟩
theorem unfold : ∀ x0 x1, Statement (.unfold x0 x1) := fun _ _ => ⟨.unfold 0 (List.replicate 26 0), rfl, rfl⟩
theorem assign : ∀ x0 x1, Statement (.assign x0 x1) := fun _ _ => ⟨.assign 0 (List.replicate 26 0), rfl, rfl⟩
theorem cmdQueueGo : ∀ x0, Statement (.cmdQueueGo x0) := fun x0 => ⟨.cmdQueueGo x0, rfl, rfl⟩
theorem nodeSlotRead : ∀ x0, Statement (.nodeSlotRead x0) := fun x0 => ⟨.nodeSlotRead x0, rfl, rfl⟩
theorem cmdResultRead : Statement .cmdResultRead := ⟨.cmdResultRead, rfl, rfl⟩
theorem hostStart : Statement .hostStart := ⟨.hostStart, rfl, rfl⟩
theorem hostAddress : ∀ x0 x1, Statement (.hostAddress x0 x1) := fun x0 x1 => ⟨.hostAddress x0 x1, rfl, rfl⟩
theorem hostByteWrite : ∀ x0, Statement (.hostByteWrite x0) := fun x0 => ⟨.hostByteWrite x0, rfl, rfl⟩
theorem hostByteRead : ∀ x0 x1, Statement (.hostByteRead x0 x1) := fun x0 x1 => ⟨.hostByteRead x0 x1, rfl, rfl⟩
theorem hostStop : ∀ x0, Statement (.hostStop x0) := fun x0 => ⟨.hostStop x0, rfl, rfl⟩
theorem hostRepeatedStart : ∀ x0, Statement (.hostRepeatedStart x0) := fun x0 => ⟨.hostRepeatedStart x0, rfl, rfl⟩
theorem commitEnd : Statement .commitEnd := ⟨.commitEnd, rfl, rfl⟩
theorem sclTimeout : Statement .sclTimeout := ⟨.sclTimeout, rfl, rfl⟩
theorem sdaTimeout : Statement .sdaTimeout := ⟨.sdaTimeout, rfl, rfl⟩
theorem ibrStart : Statement .ibrStart := ⟨.ibrStart, rfl, rfl⟩
theorem ibrEnd : Statement .ibrEnd := ⟨.ibrEnd, rfl, rfl⟩
theorem reqCollide : Statement .reqCollide := ⟨.reqCollide, rfl, rfl⟩
theorem ringStageWrite : ∀ x0 x1 x2 x3, Statement (.ringStageWrite x0 x1 x2 x3) := fun x0 x1 x2 x3 => ⟨.ringStageWrite x0 x1 x2 x3, rfl, rfl⟩
theorem ringPush : ∀ x0 x1 x2, Statement (.ringPush x0 x1 x2) := fun x0 x1 x2 => ⟨.ringPush x0 x1 x2, rfl, rfl⟩
theorem ringFetch : ∀ x0 x1, Statement (.ringFetch x0 x1) := fun x0 x1 => ⟨.ringFetch x0 x1, rfl, rfl⟩
theorem ringConsume : ∀ x0 x1, Statement (.ringConsume x0 x1) := fun x0 x1 => ⟨.ringConsume x0 x1, rfl, rfl⟩
theorem ringConfig : ∀ x0 x1, Statement (.ringConfig x0 x1) := fun x0 x1 => ⟨.ringConfig x0 x1, rfl, rfl⟩
theorem regw : ∀ x0, Statement (.regw x0) := fun x0 => ⟨.regw x0, rfl, rfl⟩
theorem regw2 : ∀ x0, Statement (.regw2 x0) := fun x0 => ⟨.regw2 x0, rfl, rfl⟩
theorem fence : ∀ x0, Statement (.fence x0) := fun x0 => ⟨.fence x0, rfl, rfl⟩
theorem telEntryProduce : ∀ x0 x1 x2, Statement (.telEntryProduce x0 x1 x2) := fun _ _ _ => ⟨.telEntryProduce 0 0 [0, 0, 0], rfl, rfl⟩
theorem telemetryCollect : Statement .telemetryCollect := ⟨.telemetryCollect, rfl, rfl⟩
theorem fabricGrant : ∀ x0 x1, Statement (.fabricGrant x0 x1) := fun _ _ => ⟨.fabricGrant 0 [⟨0, 0, false, 8, [], [], [], 0⟩], rfl, rfl⟩
theorem fabricResponse : ∀ x0 x1 x2, Statement (.fabricResponse x0 x1 x2) := fun _ _ _ => ⟨.fabricResponse 0 [] [], rfl, rfl⟩
theorem fabricTimeout : ∀ x0, Statement (.fabricTimeout x0) := fun x0 => ⟨.fabricTimeout x0, rfl, rfl⟩
theorem portProbe : ∀ x0, Statement (.portProbe x0) := fun x0 => ⟨.portProbe x0, rfl, rfl⟩
theorem masterReset : ∀ x0 x1, Statement (.masterReset x0 x1) := fun _ _ => ⟨.masterReset 0 8, rfl, rfl⟩
theorem fabElogRead : Statement .fabElogRead := ⟨.fabElogRead, rfl, rfl⟩
theorem ceWriteback : ∀ x0 x1, Statement (.ceWriteback x0 x1) := fun _ _ => ⟨.ceWriteback 0 0, rfl, rfl⟩
theorem scrubStep : ∀ x0, Statement (.scrubStep x0) := fun _ => ⟨.scrubStep [], rfl, rfl⟩
theorem repairCopy : ∀ x0, Statement (.repairCopy x0) := fun _ => ⟨.repairCopy 0, rfl, rfl⟩
theorem logStateRecord : Statement .logStateRecord := ⟨.logStateRecord, rfl, rfl⟩
theorem logEventRecords : Statement .logEventRecords := ⟨.logEventRecords, rfl, rfl⟩
theorem logFlush : Statement .logFlush := ⟨.logFlush, rfl, rfl⟩
theorem flashOpDone : ∀ x0, Statement (.flashOpDone x0) := fun x0 => ⟨.flashOpDone x0, rfl, rfl⟩
theorem memElogRead : Statement .memElogRead := ⟨.memElogRead, rfl, rfl⟩
theorem bkgLogRead : Statement .bkgLogRead := ⟨.bkgLogRead, rfl, rfl⟩
theorem errorInjectArm : ∀ x0, Statement (.errorInjectArm x0) := fun x0 => ⟨.errorInjectArm x0, rfl, rfl⟩
theorem qspiProgram : Statement .qspiProgram := ⟨.qspiProgram, rfl, rfl⟩
theorem qspiErase : Statement .qspiErase := ⟨.qspiErase, rfl, rfl⟩
theorem qspiReadStatus : ∀ x0, Statement (.qspiReadStatus x0) := fun x0 => ⟨.qspiReadStatus x0, rfl, rfl⟩
theorem qspiBufferWrite : ∀ x0, Statement (.qspiBufferWrite x0) := fun x0 => ⟨.qspiBufferWrite x0, rfl, rfl⟩
theorem qspiBufferRead : Statement .qspiBufferRead := ⟨.qspiBufferRead, rfl, rfl⟩
theorem powerUp : Statement .powerUp := ⟨.powerUp, rfl, rfl⟩
theorem supplyFall : Statement .supplyFall := ⟨.supplyFall, rfl, rfl⟩
theorem resetPin : ∀ x0, Statement (.resetPin x0) := fun x0 => ⟨.resetPin x0, rfl, rfl⟩
theorem softReset : Statement .softReset := ⟨.softReset, rfl, rfl⟩
theorem debugReset : Statement .debugReset := ⟨.debugReset, rfl, rfl⟩
theorem mgmtWatchdogReset : Statement .mgmtWatchdogReset := ⟨.mgmtWatchdogReset, rfl, rfl⟩
theorem resetRelease : ∀ x0, Statement (.resetRelease x0) := fun x0 => ⟨.resetRelease x0, rfl, rfl⟩
theorem wipeComplete : ∀ x0 x1, Statement (.wipeComplete x0 x1) := fun _ _ => ⟨.wipeComplete 0 [], rfl, rfl⟩
theorem scanComplete : ∀ x0 x1 x2 x3, Statement (.scanComplete x0 x1 x2 x3) := fun _ _ _ _ => ⟨.scanComplete 0 [] [] [], rfl, rfl⟩
theorem candidateLoadEnd : ∀ x0, Statement (.candidateLoadEnd x0) := fun x0 => ⟨.candidateLoadEnd x0, rfl, rfl⟩
theorem fwTimeout : Statement .fwTimeout := ⟨.fwTimeout, rfl, rfl⟩
theorem relStart : ∀ x0, Statement (.relStart x0) := fun x0 => ⟨.relStart x0, rfl, rfl⟩
theorem lifecycleRequest : ∀ x0 x1, Statement (.lifecycleRequest x0 x1) := fun x0 x1 => ⟨.lifecycleRequest x0 x1, rfl, rfl⟩
theorem fuseBlowDone : ∀ x0, Statement (.fuseBlowDone x0) := fun x0 => ⟨.fuseBlowDone x0, rfl, rfl⟩
theorem credentialPresent : ∀ x0, Statement (.credentialPresent x0) := fun _ => ⟨.credentialPresent (List.replicate 32 0), rfl, rfl⟩
theorem fuseProgram : ∀ x0, Statement (.fuseProgram x0) := fun _ => ⟨.fuseProgram (.revoke 0), rfl, rfl⟩
theorem debugRelease : Statement .debugRelease := ⟨.debugRelease, rfl, rfl⟩
theorem boundaryScanLoad : Statement .boundaryScanLoad := ⟨.boundaryScanLoad, rfl, rfl⟩
theorem mediaPllLock : Statement .mediaPllLock := ⟨.mediaPllLock, rfl, rfl⟩
theorem pllLock : ∀ x0, Statement (.pllLock x0) := fun x0 => ⟨.pllLock x0, rfl, rfl⟩
theorem pllUnlock : ∀ x0, Statement (.pllUnlock x0) := fun x0 => ⟨.pllUnlock x0, rfl, rfl⟩
theorem twinPllLock : Statement .twinPllLock := ⟨.twinPllLock, rfl, rfl⟩
theorem safeWatchdogTrip : Statement .safeWatchdogTrip := ⟨.safeWatchdogTrip, rfl, rfl⟩
theorem clockMeasure : ∀ x0, Statement (.clockMeasure x0) := fun x0 => ⟨.clockMeasure x0, rfl, rfl⟩
theorem refSlewStep : Statement .refSlewStep := ⟨.refSlewStep, rfl, rfl⟩
theorem ownNLow : Statement .ownNLow := ⟨.ownNLow, rfl, rfl⟩
theorem handoverHoldoffEnd : Statement .handoverHoldoffEnd := ⟨.handoverHoldoffEnd, rfl, rfl⟩
theorem forwardingStart : Statement .forwardingStart := ⟨.forwardingStart, rfl, rfl⟩

end Sys2Proof.Laws.Formed
end

