-- ==== Sys2Proof/Tests/Slice0.lean ====
section
/-! SUPPORT. Tests/Slice0.lean: ill-formed operands that the checks refuse, small tests on values of the spec's worked examples, and for each
obligation concrete states and operands that meet the hypotheses of every clause. -/

set_option Elab.async false
set_option linter.all false

namespace Sys2Proof.Tests

open Sys2Proof Sys2Proof.Machine

/-! ### Ill-formed operands -/

theorem test_wf_pointer : (Instr.registerWrite .hostPrimary 2 0).wf = false := by decide
theorem test_wf_w1c_pointer : (Instr.w1cClear .hostPrimary 1 0 0).wf = false := by decide
theorem test_wf_tdm_slots : (Instr.tdmFrameRx 0 256 (List.replicate 17 0)).wf = false := by decide
theorem test_wf_channel_status : (Instr.aes3CsBlockRx 0 [] true).wf = false := by decide
theorem test_wf_delays : (Instr.dlCalibrationDone 0 []).wf = false := by decide
theorem test_wf_clock : (Instr.clockMonitorWindow 8 0).wf = false := by decide
theorem test_wf_startup_calibration : (Instr.startupCalDone []).wf = false := by decide
theorem test_wf_calibration : (Instr.sliceCalDone ⟨16384, 0, [], [0, 0, 0]⟩).wf = false := by decide
/-- A frame with an empty payload. -/
def rx0 : LinkRx := ⟨⟨0, 0, 0, 0⟩, [], []⟩
theorem test_wf_snapshot : (Instr.snapRx rx0 {} false).wf = false := by decide
theorem test_wf_resync : (Instr.rsyncRx rx0 (.laneBank 0 false 162 [0])).wf = false := by decide
theorem test_wf_resync_end : wfResync (.endMark (2 ^ 48) 0) = false := by decide
theorem test_wf_frame : (Instr.ringFrameRx ⟨false, false, 0, 0, 0, 0, 0, true, [], []⟩).wf = false := by decide
theorem test_wf_payload : (Instr.strRegw 1 [0]).wf = false := by decide
theorem test_wf_telemetry : (Instr.telEntryProduce 0 1 []).wf = false := by decide
theorem test_wf_write_request : wfRequest ⟨0, 0, true, 0, [], [], [], 0⟩ = false := by decide
theorem test_wf_read_request : wfRequest ⟨0, 0, false, 9, [], [], [], 0⟩ = false := by decide
theorem test_wf_response : (Instr.fabricResponse 0 (List.replicate 9 0) []).wf = false := by decide
theorem test_wf_master_reset : (Instr.masterReset 0 9).wf = false := by decide
theorem test_wf_bank : (Instr.ceWriteback 48 0).wf = false := by decide
theorem test_wf_struck : (Instr.scrubStep [(0, 16384, 1)]).wf = false := by decide
theorem test_wf_repair : (Instr.repairCopy 64).wf = false := by decide
theorem test_wf_wipe : (Instr.wipeComplete 0 [(88, 0)]).wf = false := by decide
theorem test_wf_sectors : (Instr.scanComplete 0 [[]] [] []).wf = false := by decide
theorem test_wf_credential : (Instr.credentialPresent []).wf = false := by decide
theorem test_wf_key : (Instr.fuseProgram (.key 0 [])).wf = false := by decide

/-! ### Values of the worked examples -/

/-- 00_scope.md: 0x00_0000_4000 of Q10.30 narrows to 0x0000, 0x00_0000_C000 to 0x0002, 0x00_4000_0000 to 0x7FFF. -/
theorem test_narrow : (narrow 0x4000, narrow 0xC000, narrow 0x40000000) = (0, 2, 0x7FFF) := by decide
/-- 06_sense_chain.md: a raw code of 0x4000 with G = 16,420 and O = -40 gives 16,410. -/
theorem test_conversion_result : corrected 16420 (-40) false 0x4000 = 16410 := by decide
/-- 06_sense_chain.md: NOM = 3277 and CODE = 2949 give RFF = 18,206. -/
theorem test_rail_feedforward : rff 3277 2949 = 18206 := by decide
/-- 12_clusters.md: 7200 s and 250,000 ns give AT = 86,400,003. -/
theorem test_command_time : timeToBlock 7200 250000 = 86400003 := by decide
/-- 13_host_bus.md: GADDR = 0x30 with GMASK = 0x7C answers 0x30 to 0x33, and not 0x34. -/
def groupMask : State := ((State.reset.set F.HST_GRP_GEN 1).set F.HST_GRP_GMASK 0x7C).set F.HST_GRP_GADDR 0x30
theorem test_group_mask : (hostAddr groupMask 0x30, hostAddr groupMask 0x33, hostAddr groupMask 0x34) = (.group, .group, .other) := by
  decide +kernel
/-- 17_start_up.md: 14 bits blown are FIELD, 13 SERVICE, 15 RETIRED, and a field with a gap is RETIRED. -/
theorem test_life_cycle_codes : (lcCode 0x3FFF, lcCode 0x1FFF, lcCode 0x7FFF, lcCode 0x5) = (2, 3, 4, 4) := by decide
/-- 06_sense_chain.md: VFS = 225.0 V is 0x4361_0000, IFS = 62.5 A is 0x427A_0000. -/
theorem test_binary32 : (f32OfRat 225 1, f32OfRat 625 10) = (0x43610000#32, 0x427A0000#32) := by decide +kernel
/-- 15_memory_and_background.md: with 10 repairs the MAP record takes 80 bytes. -/
theorem test_map_record : ceilDiv (36 + 4 * 10) 16 * 16 = 80 := by decide
/-- R507: the poison word is uncorrectable; R506: one bit in error is corrected. -/
theorem test_poison : (checkWord poison).1 = .ue := by decide +kernel
theorem test_single_error : checkWord 1 = (.ce1, 1) := by decide +kernel

/-- No row of the table has bits. -/
theorem test_decode_none : decodeTableWord 32 0 = none := by decide
/-- A step on an empty queue idles. -/
theorem test_idle : step State.reset = .next State.reset := rfl
/-- POWER_UP in front of the queue is taken and holds the device in reset. -/
theorem test_power_up : (match step (State.reset.queued [.powerUp]) with
    | .next t => t.sys.inReset && t.pending.isEmpty && t.sys.cause == 1
    | .fault _ => false
    | .refused _ => false) = true := by decide +kernel

/-! ### Witnesses: states and operands that meet the hypotheses of the obligations -/

/-- A device in RUN with its processors started. -/
def run0 : State := (State.reset.set F.SYS_BOOT_BSTATE 4).sysUp fun x => { x with procs := true, counting := true }
/-- A word whose bits in error are 7 is uncorrectable, wherever it stands. -/
theorem ueAt (s : State) (k : Nat) : (checkWord (errAt (setErr s k 7) k)).1 = .ue := by
  rw [show errAt (setErr s k 7) k = 7 from by simp [errAt, setErr, State.memUp, kvGet_kvPut]]; decide +kernel

def an : Announce := ⟨1,2,3,4,5,0x1122334455667788,300⟩
def sa : State := (run0.set F.PTP_CFG_PTP_EN 1).set F.PTP_STAT_STATE 1
def sb : State := ((sa.ptpUp fun p => {p with sel := some an, twoStepB := true, twoStepA := true}).set F.PTP_STAT_STATE 4).set F.PTP_STAT_PORT 1
def sc_1 : State := sb.set F.PTP_STAT_STATE 3
def an2 : Announce := { an with prio1 := 2, gm := 5 }
def sc2 : State := sc_1.ptpUp fun p => {p with annB := [an, an2]}
def sP (n : Nat) : State := (sa.set F.PTP_CFG_SRC 1).set F.PTP_STAT_STATE n

theorem witness_NetworkTimeMessages :
    ((sa.sys.inReset = false) ∧ (ptpListens sa 0 = true) ∧ (sa.get F.PTP_STAT_STATE = 1) ∧ (sa.ain.ptp.annA = []) ∧
      (sa.ain.ptp.annB = [])) ∧
    ((sb.sys.inReset = false) ∧ (ptpListens sb 0 = true) ∧ (ptpFromMaster sb NetPort.b an.gm = true)) ∧
    ((sb.sys.inReset = false) ∧ (ptpListens sb 0 = true) ∧ (ptpFromMaster sb NetPort.b an.gm = true) ∧
      ((match NetPort.b with | NetPort.a => sb.ain.ptp.twoStepA | NetPort.b => sb.ain.ptp.twoStepB) = true)) ∧
    ((sb.sys.inReset = false) ∧ (ptpListens sb 0 = true) ∧ (sb.get F.PTP_STAT_PORT = if NetPort.b = NetPort.a then 0 else 1)) ∧
    ((sb.sys.inReset = false) ∧ (firmwareRuns sb = true) ∧ (sb.get F.PTP_CFG_PTP_EN = 1) ∧ (sb.get F.PTP_CFG_SRC = 0) ∧
      (sb.get F.PTP_STAT_STATE ≠ 0)) ∧
    ((sc_1.sys.inReset = false) ∧ (firmwareRuns sc_1 = true) ∧ (sc_1.get F.PTP_CFG_PTP_EN = 1) ∧ (sc_1.get F.PTP_CFG_SRC = 0) ∧
      (sc_1.get F.PTP_STAT_STATE = 2 ∨ sc_1.get F.PTP_STAT_STATE = 3) ∧
      ((match NetPort.b with | NetPort.a => sc_1.ain.ptp.annB | NetPort.b => sc_1.ain.ptp.annA) = []) ∧
      (ptpDropped (match NetPort.b with | NetPort.a => sc_1.ain.ptp.annA | NetPort.b => sc_1.ain.ptp.annB) = [])) ∧
    ((sc2.sys.inReset = false) ∧ (firmwareRuns sc2 = true) ∧ (sc2.get F.PTP_CFG_PTP_EN = 1) ∧ (sc2.get F.PTP_CFG_SRC = 0) ∧
      (sc2.get F.PTP_STAT_STATE = 2 ∨ sc2.get F.PTP_STAT_STATE = 3) ∧
      ((match NetPort.b with | NetPort.a => sc2.ain.ptp.annB | NetPort.b => sc2.ain.ptp.annA) = []) ∧
      (ptpDropped (match NetPort.b with | NetPort.a => sc2.ain.ptp.annA | NetPort.b => sc2.ain.ptp.annB) = [an2]) ∧
      (sc2.ain.ptp.sel = some an) ∧ (an.gm ≠ an2.gm)) ∧
    (((sP 1).sys.inReset = false) ∧ (firmwareRuns (sP 1) = true) ∧ ((sP 1).get F.PTP_CFG_PTP_EN = 1) ∧ ((sP 1).get F.PTP_CFG_SRC = 1)) ∧
    (((sP 6).sys.inReset = false) ∧ (firmwareRuns (sP 6) = true) ∧ ((sP 6).get F.PTP_STAT_STATE = 6)) ∧
    (((sP 5).sys.inReset = false) ∧ (reached (sP 5) R.PTP_CTRL = true)) ∧
    ((sP 6).sys.inReset = false) := by
  (repeat' apply And.intro) <;> decide +kernel

def st1 : State := ((run0.wr (R.AIN_SCFG 15) 0x80000000#32).wr (R.AIN_SADDRA 15) 0xE0000001#32).set (F.AIN_SCFG_PATHS 15) 1
def monS : State := (run0.wr R.AIN_TMON 0xC0000000#32).ainUp fun a => { a with monitor := [1, 2, 3, 4, 5, 6, 7, 8, 9] :: List.replicate 7 [] }
def td : State := (run0.tdmUp 3 fun x => {x with enabled := true, locked := true, good := 5, bad := 4}).tdmUp 0 fun x => {x with enabled := true, good := 16}
def td2 : State := td.tdmUp 3 fun x => {x with good := 16}
def tdo : State := td.tdmUp 3 fun x => {x with drives := !(tdmWants td 3)}
def ae : State := ((run0.aesUp 3 fun x => {x with enabled := true, locked := true, status := some [1,2,3,4,5,6,7,8]}).aesUp 0 fun x => {x with enabled := true}).asrcUp 7 fun a => {a with locked := true, pos := 3}
def aer : State := ae.aesUp 0 fun x => {x with locked := true}
def ae2 : State := ae.set ⟨0x880 + 12, 6, 4⟩ 1
def iw : State := ((ae.set F.AIN_CSSEL_WORD 5).ainUp fun a => {a with csLatch := (List.range 24).map (BitVec.ofNat 8)}).set F.AIN_MIXPTR_INDEX 1023
def iwF : State := (iw.set F.SCN_STAT_STATE 2).set F.SCN_CFG_ROUTE 1

theorem witness_StreamCommands :
    ((st1.sys.inReset = false) ∧ (st1.sys.procs = true) ∧
      (streamMatches st1 15 NetPort.a 3758096385 (BitVec.ofNat 16 (st1.get (F.AIN_SPORT_UDP_A 15))) = true)) ∧
    (st1.sys.inReset = false) ∧
    ((reached (st1.wr (R.AIN_SCFG 15) 0) 2100 = true) ∧ ((st1.wr (R.AIN_SCFG 15) 0).get (F.AIN_SCFG_EN 15) = 0) ∧
      (bitsN (2415919104#32).toNat 31 31 = 1) ∧ (enableReason (st1.wr (R.AIN_SCFG 15) 0) 15 (2415919104#32 &&& scfgMask) ≠ 0)) ∧
    ((reached (st1.wr (R.AIN_SCFG 15) 0) 2100 = true) ∧ ((st1.wr (R.AIN_SCFG 15) 0).get (F.AIN_SCFG_EN 15) = 0) ∧
      (bitsN (2415919128#32).toNat 31 31 = 1) ∧ (enableReason (st1.wr (R.AIN_SCFG 15) 0) 15 (2415919128#32 &&& scfgMask) = 0)) ∧
    ((reached st1 2100 = true) ∧ (st1.get (F.AIN_SCFG_EN 15) = 1) ∧ (st1.rd (R.AIN_SCFG 15) &&& scfgMask = st1.rd (R.AIN_SCFG 15))) ∧
    ((st1.sys.inReset = false) ∧ (st1.ain.sub < 8)) ∧
    ((st1.sys.inReset = false) ∧ (st1.ain.sub < 8) ∧ (st1.inForceB F.AIN_TMON_EN = false)) ∧
    ((monS.sys.inReset = false) ∧ (monS.ain.sub < 8) ∧ (monS.inForceB F.AIN_TMON_EN = true) ∧
      (monS.ain.monitor = [[1, 2, 3, 4, 5, 6, 7, 8, 9], [], [], [], [], [], [], []]) ∧
      (([[], [], [], [], [], [], []] : List (List Word)).length = 7)) := by
  (repeat' apply And.intro) <;> decide +kernel

theorem witness_TdmCommands :
    ((td.sys.inReset = false) ∧ ((td.ain.tdm.getD 3 { }).enabled = true) ∧ ((td.ain.tdm.getD 3 { }).drives = tdmWants td 3) ∧
      (511 ≠ 32 * tdmSlots td 3)) ∧
    ((td.sys.inReset = false) ∧ ((td.ain.tdm.getD 3 { }).enabled = true) ∧ ((td.ain.tdm.getD 3 { }).drives = tdmWants td 3) ∧
      ((td.ain.tdm.getD 3 { }).locked = true)) ∧
    ((tdo.sys.inReset = false) ∧ ((tdo.ain.tdm.getD 3 { }).enabled = true)) ∧
    ((td.sys.inReset = false) ∧ ((td.ain.tdm.getD 3 { }).locked = true)) ∧
    ((td.sys.inReset = false) ∧ ((td.ain.tdm.getD 3 { }).locked = true) ∧ (4 ≤ (td.ain.tdm.getD 3 { }).bad)) ∧
    ((td.sys.inReset = false) ∧ ((td.ain.tdm.getD 0 { }).enabled = true) ∧ ((td.ain.tdm.getD 0 { }).locked = false) ∧
      (16 ≤ (td.ain.tdm.getD 0 { }).good) ∧ (tdmRateOk td 0 5 = true)) ∧
    ((td2.sys.inReset = false) ∧ ((td2.ain.tdm.getD 3 { }).enabled = true) ∧ ((td2.ain.tdm.getD 3 { }).locked = true) ∧
      (16 ≤ (td2.ain.tdm.getD 3 { }).good) ∧ (tdmMaster td2 3 = false) ∧ (tdmRateOk td2 3 5 = true) ∧
      (td2.get { ptr := 2128 + 4 * 3, hi := 6, lo := 4 } ≠ 5)) ∧
    ((td.sys.inReset = false) ∧ (tdmRateOk td 3 7 = false)) := by
  (repeat' apply And.intro) <;> decide +kernel

theorem witness_Aes3Commands :
    ((ae.sys.inReset = false) ∧ ((ae.ain.aes3.getD 3 { }).enabled = true)) ∧
    ((ae.sys.inReset = false) ∧ ((ae.ain.aes3.getD 0 { }).enabled = true) ∧ ((ae.ain.aes3.getD 0 { }).locked = false ∨
      ae.get { ptr := 2176 + 4 * 0, hi := 6, lo := 4 } = 5)) ∧
    ((ae2.sys.inReset = false) ∧ ((ae2.ain.aes3.getD 3 { }).enabled = true) ∧ ((ae2.ain.aes3.getD 3 { }).locked = true) ∧
      (ae2.get { ptr := 2176 + 4 * 3, hi := 6, lo := 4 } ≠ 5)) ∧
    ((ae.sys.inReset = false) ∧ ((ae.ain.aes3.getD 3 { }).locked = true)) ∧
    ((aer.sys.inReset = false) ∧ ((aer.ain.asrc.getD 4 { }).locked = false) ∧ (asrcReady aer 4 = true)) ∧
    ((ae.sys.inReset = false) ∧ (asrcReady ae 3 = false)) ∧
    ((ae.sys.inReset = false) ∧ ((ae.ain.asrc.getD 7 { }).locked = true)) := by
  (repeat' apply And.intro) <;> decide +kernel

theorem witness_InputWindows :
    (reached iw R.AIN_CSSEL = true) ∧
    ((readable iw Path.hostPrimary R.AIN_CSDATA = true) ∧ (iw.get F.AIN_CSSEL_WORD < 6)) ∧
    ((reached iw (aliasPtr iw R.AIN_MIXDATA) = true) ∧ (tablesFrozen iw = false)) ∧
    ((reached iwF (aliasPtr iwF R.AIN_MIXDATA) = true) ∧ (tablesFrozen iwF = true)) ∧
    (readable iw Path.hostPrimary R.AIN_MIXDATA = true) := by
  (repeat' apply And.intro) <;> decide +kernel

def ub : State := { run0 with time := { block := 2^48-1, atBlock := false, half := true, updates := 2^32-1, taps := 5, updInBlock := 3}, heldU := [(0x1040,0)], heldB := [(0x140,0)] }
def uc : State := { run0 with heldU := [(0x1040,0)] }
def gg : State := gatePush (gatePush (gatePush (gatePush run0 .gd1 [1,2]) .gd3 [3]) .gn1 [5]) .gs3m [6]
def gv : State := gatePush run0 .gv2 [3]
def gvd : State := gv.bkgUp fun b => {b with telDue := true}
def gg2 : State := gatePush (gatePush (gatePush run0 .gs2 [3]) .gt1 [6, 0, 5]) .gt3t [0xFFFF]
def bw : State := run0.set (F.CH_BPTR_OFFS 15) 2223
def bf : State := (bw.set F.SCN_STAT_STATE 2).set F.SCN_MASK_CH_MASK 0x8000
def sc_3 : State := (run0.set F.SCN_STAT_STATE 0).set F.SCN_MASK_CH_MASK 0x8000
def sd : State := {sc_3.set F.SCN_STAT_STATE 1 with time := {block := 0x123456789abc}}
def mbs : State := { run0 with mb := { run0.mb with done := [false,false,true,false], chans := run0.mb.chans.set 15 {muted := false} } }
def mbf : State := gatePush (gatePush (gatePush mbs .gd1 [3]) .gd1 [3]) .gd1 [3]

theorem witness_UpdateBoundary :
    ((ub.sys.inReset = false) ∧ (ub.sys.counting = true) ∧ (ub.time.atBlock = false)) ∧
    ((uc.sys.inReset = false) ∧ (uc.sys.counting = true) ∧ (uc.time.atBlock = true)) := by
  (repeat' apply And.intro) <;> decide +kernel

theorem witness_BlockBoundary :
    ((ub.sys.inReset = false) ∧ (ub.sys.counting = true)) ∧
    ((ub.sys.inReset = false) ∧ (ub.sys.counting = true) ∧ (∀ (c : Nat), c < 16 → cmdEligible (blockTime ub) c = 0)) ∧
    ((ub.sys.inReset = false) ∧ (ub.sys.counting = true) ∧ (∀ (c : Nat), c < 16 → cmdEligible (blockTime ub) c = 0) ∧
      (ub.get F.PTP_STAT_STATE ≠ 5)) := by
  (repeat' apply And.intro) <;> decide +kernel

theorem witness_GateDelivery :
    ((gg.sys.inReset = false) ∧ (gg.gate Gate.gn1 = [[5]]) ∧
      (¬Gate.gn1 ∈ [Gate.gd1, Gate.gd2, Gate.gd3, Gate.gd4, Gate.gd5, Gate.gd7, Gate.gv2, Gate.gl2, Gate.gs1, Gate.gs2, Gate.gt1,
      Gate.gt3t])) ∧
    ((gg.sys.inReset = false) ∧ (gg.gate Gate.gs3m = [[6]]) ∧
      (¬Gate.gs3m ∈ [Gate.gd1, Gate.gd2, Gate.gd3, Gate.gd4, Gate.gd5, Gate.gd7, Gate.gv2, Gate.gl2, Gate.gs1, Gate.gs2, Gate.gt1,
      Gate.gt3t])) ∧
    ((gg.sys.inReset = false) ∧ (gg.gate Gate.gd3 = [[3]])) ∧
    ((gg2.sys.inReset = false) ∧ (gg2.gate Gate.gs2 = [[3]])) ∧
    ((gg2.sys.inReset = false) ∧ (gg2.gate Gate.gt1 = [[6, 0, 5]])) ∧
    ((gg2.sys.inReset = false) ∧ (gg2.gate Gate.gt3t = [[65535]])) ∧
    ((gg.sys.inReset = false) ∧ (gg.gate Gate.gd3 = [[3]]) ∧ (Gate.gd3 ≠ Gate.gv2 ∨ gg.bkg.telDue = false)) ∧
    ((gv.sys.inReset = false) ∧ (gv.gate Gate.gv2 = [[3]]) ∧ (Gate.gv2 ≠ Gate.gv2 ∨ gv.bkg.telDue = false)) ∧
    ((gvd.sys.inReset = false) ∧ (gvd.bkg.telDue = true)) ∧
    ((run0.sys.inReset = false) ∧ (run0.gate Gate.gd3 = [])) ∧
    ((gg.sys.inReset = false) ∧ (gg.gate Gate.gd1 = [[1, 2]])) := by
  (repeat' apply And.intro) <;> decide +kernel

theorem witness_BankWindow :
    ((reached bw (aliasPtr bw (R.CH_BDATA 15)) = true) ∧ (bankFrozen bw 15 = false)) ∧
    ((reached bf (aliasPtr bf (R.CH_BDATA 15)) = true) ∧ (bankFrozen bf 15 = true)) ∧
    (readable bw Path.hostPrimary (R.CH_BDATA 15) = true) := by
  (repeat' apply And.intro) <;> decide +kernel

theorem witness_SceneCommands :
    ((reached sc_3 R.SCN_ARM = true) ∧ (armReason sc_3 = 0)) ∧
    ((reached sd R.SCN_ARM = true) ∧ (armReason sd ≠ 0)) ∧
    ((reached sd R.SCN_ARM = true) ∧ (sd.get F.SCN_STAT_STATE = 1)) ∧
    ((reached sc_3 R.SCN_ARM = true) ∧ (sc_3.get F.SCN_STAT_STATE ≠ 1)) ∧
    (readable sd Path.hostPrimary R.SCN_NOW_L = true) := by
  (repeat' apply And.intro) <;> decide +kernel

theorem witness_MusicBoxCores :
    ((mbs.sys.inReset = false) ∧ (mbs.sys.procs = true) ∧ ((physOf mbs 3).isSome = true) ∧ (mbs.mb.done.getD 3 true = false) ∧
      (mbs.mb.ue.getD 3 false = false) ∧ (List.countP (fun w => w.head? == some (BitVec.ofNat 32 3)) (mbs.gate Gate.gd1) < gateCapacity)) ∧
    ((mbf.sys.inReset = false) ∧ (mbf.sys.procs = true) ∧ ((physOf mbf 3).isSome = true) ∧ (mbf.mb.done.getD 3 true = false) ∧
      (mbf.mb.ue.getD 3 false = false) ∧ (gateCapacity ≤ List.countP (fun w => w.head? == some (BitVec.ofNat 32 3)) (mbf.gate Gate.gd1))) ∧
    ((mbs.sys.inReset = false) ∧ (reached mbs (R.CH_LA 14) = true) ∧ ((mbs.mbCh 14).muted = true)) ∧
    ((mbs.sys.inReset = false) ∧ (reached mbs (R.CH_LA 15) = true) ∧ ((mbs.mbCh 15).muted = false)) ∧
    ((mbs.sys.inReset = false) ∧ (logicalOf mbs 3 = some 3)) ∧
    ((mbs.sys.inReset = false) ∧ (logicalOf mbs 4 = none) ∧ (mbs.get F.MB_CORE_SPARE = 4)) ∧
    ((mbs.sys.inReset = false) ∧ (reached mbs R.MB_CORE = true)) := by
  (repeat' apply And.intro) <;> decide +kernel

def cw : State := ((run0.set (F.MOD_STAT_PENDING 31) 1).set (F.CH_MOD_SRC 0) 2)
def cwr : State := run0.set (F.MOD_STAT_STATE 30) 2
def cwl : State := run0.wr (R.MOD_DT 31) 0xFFFFFFFF
def le : State := ((((run0.legUp 31 fun g => {g with edges := [true], hi := true}).legUp 0 fun g => {g with pend := some true}).set (F.MOD_STAT_STATE 31) 2).set (F.MOD_STAT_STATE 0) 2)
def le3 : State := le.legUp 31 fun g => {g with level := true}
def le2 : State := {le with dlCal := {busy := some 63, next := 0, upds := 1024}}
def goodTaps : List Nat := (List.range 40).map fun i => i * 390625000 / 3072
def tr : State := ({run0 with sys := {run0.sys with calDone := true}}.wr (R.MOD_TRGA 30) 0x40010005#32).wr (R.MOD_TRGB 30) 0
def trb : State := tr.sliceUp 30 fun x => {x with lastTap := some tr.time.taps}
def cs1 : State := run0
def cs2 : State := (run0.set (F.CH_MOD_SRC 15) 1)
def pe : State := ((run0.set (F.MOD_STAT_STATE 30) 1).set (F.MOD_STAT_STATE 31) 1)

theorem witness_CompareWords :
    ((reached run0 R.PWM_FSW = true) ∧ (4 % 8 < 5) ∧ (∀ (c : Nat), c < 16 → chanStopped run0 c = true) ∧
      (∀ (l : Nat), l < 32 → limitsOk (kOfCode (4 % 8)) (run0.rd (R.MOD_LIM l)) (run0.rd (R.MOD_DT l)) = true)) ∧
    ((reached cw R.PWM_FSW = true) ∧ (5 ≤ 7 % 8 ∨ (∃ c, c < 16 ∧ chanStopped cw c = false) ∨ ∃ l, l < 32 ∧
      limitsOk (kOfCode (7 % 8)) (cw.rd (R.MOD_LIM l)) (cw.rd (R.MOD_DT l)) = false)) ∧
    ((reached cwr R.PWM_FSW = true) ∧ (5 ≤ 0 % 8 ∨ (∃ c, c < 16 ∧ chanStopped cwr c = false) ∨ ∃ l, l < 32 ∧
      limitsOk (kOfCode (0 % 8)) (cwr.rd (R.MOD_LIM l)) (cwr.rd (R.MOD_DT l)) = false)) ∧
    ((reached cwl R.PWM_FSW = true) ∧ (5 ≤ 4 % 8 ∨ (∃ c, c < 16 ∧ chanStopped cwl c = false) ∨ ∃ l, l < 32 ∧
      limitsOk (kOfCode (4 % 8)) (cwl.rd (R.MOD_LIM l)) (cwl.rd (R.MOD_DT l)) = false)) ∧
    ((cw.sys.inReset = false) ∧ (cw.get (F.MOD_STAT_PENDING 0) = 0)) ∧
    ((cw.sys.inReset = false) ∧ (cw.get (F.MOD_STAT_PENDING 31) = 1)) ∧
    (cw.sys.inReset = false) ∧
    ((reached cw (R.MOD_CMPW 0) = true) ∧ (cw.inForce (F.CH_MOD_SRC (governor cw (0 / 2))) = 2) ∧ (ownsWord cw 0 = true)) ∧
    ((reached cw (R.MOD_CMPW 31) = true) ∧ (cw.inForce (F.CH_MOD_SRC (governor cw (31 / 2))) ≠ 2 ∨ ownsWord cw 31 = false)) := by
  (repeat' apply And.intro) <;> decide +kernel

theorem witness_LegEdges :
    ((le.sys.inReset = false) ∧ ((le.leg 31).edges = [true]) ∧ (legAd le 31 = false) ∧ (legFree le 31 = true) ∧
      ((le.leg 31).level ≠ true)) ∧
    ((le3.sys.inReset = false) ∧ ((le3.leg 31).edges = [true]) ∧ (legAd le3 31 = false) ∧ (legFree le3 31 = true) ∧
      ((le3.leg 31).level = true)) ∧
    ((le.sys.inReset = false) ∧ ((le.leg 0).pend = some true) ∧ (legFree le 0 = true)) ∧
    ((le.sys.inReset = false) ∧ (le.dlCal.busy = none)) ∧
    ((le2.sys.inReset = false) ∧ (le2.dlCal.busy = some 63) ∧ (1024 ≤ le2.dlCal.upds) ∧
      (chooseTaps goodTaps 31 0 1 = some ((chooseTaps goodTaps 31 0 1).getD []))) ∧
    ((le.sys.inReset = false) ∧ (le.dlCal.upds < 1024)) ∧
    ((le2.sys.inReset = false) ∧ (le2.dlCal.busy = some 63) ∧ (1024 ≤ le2.dlCal.upds) ∧ (chooseTaps [] 31 0 1 = none)) ∧
    ((tr.sys.inReset = false) ∧ (triggerOf tr 30 true = none)) ∧
    ((tr.sys.inReset = false) ∧ (triggerOf tr 30 false = some (30, 5)) ∧ ((tr.input 30).lastIssue ≠ some (tr.time.taps + 5)) ∧
      (30 < tr.sense.inputs.length) ∧ (tr.sense.rot = none) ∧ (tr.sys.calDone = true) ∧ (servingSlice tr 30 = some 30) ∧
      (30 < tr.sense.slices.length) ∧
      (List.countP (fun w => w.head? == some (BitVec.ofNat 32 (30 + 1))) (tr.gate Gate.gd6) < gateCapacity) ∧
      (sliceBusy tr 30 5 = false) ∧ ((tr.slice 30).conv = none)) ∧
    ((trb.sys.inReset = false) ∧ (triggerOf trb 30 false = some (30, 5)) ∧ ((trb.input 30).lastIssue ≠ some (trb.time.taps + 5)) ∧
      (30 < trb.sense.inputs.length) ∧ (trb.sense.rot = none) ∧ (trb.sys.calDone = true) ∧ (servingSlice trb 30 = some 30) ∧
      (30 < trb.sense.slices.length) ∧
      (List.countP (fun w => w.head? == some (BitVec.ofNat 32 (30 + 1))) (trb.gate Gate.gd6) < gateCapacity) ∧
      (sliceBusy trb 30 5 = true)) := by
  (repeat' apply And.intro) <;> decide +kernel

theorem witness_ChannelSources :
    ((reached cs1 (R.CH_MOD 15) = true) ∧ (oddHalf cs1 15 = false) ∧ (bitsN (16777728) 0 0 = cs1.get (F.CH_MOD_MODE 15)) ∧
      ((if 15 % 2 = 0 then bitsN (16777728) 4 4 else 0) = cs1.get (F.CH_MOD_PAR 15)) ∧
      (newSrc 15 16777728 = 1 → oldSrc cs1 15 ≠ 1 → progOk cs1 15 = true) ∧ (srcRuns (oldSrc cs1 15) = false) ∧
      (srcRuns (newSrc 15 16777728) = true)) ∧
    ((reached cs2 (R.CH_MOD 15) = true) ∧ (oddHalf cs2 15 = false) ∧ (bitsN (16777216) 0 0 = cs2.get (F.CH_MOD_MODE 15)) ∧
      ((if 15 % 2 = 0 then bitsN (16777216) 4 4 else 0) = cs2.get (F.CH_MOD_PAR 15)) ∧
      (newSrc 15 16777216 = 1 → oldSrc cs2 15 ≠ 1 → progOk cs2 15 = true) ∧ (srcRuns (newSrc 15 16777216) = false)) ∧
    ((reached cs2 (R.CH_MOD 15) = true) ∧ (oddHalf cs2 15 = false) ∧ (bitsN (16777728) 0 0 = cs2.get (F.CH_MOD_MODE 15)) ∧
      ((if 15 % 2 = 0 then bitsN (16777728) 4 4 else 0) = cs2.get (F.CH_MOD_PAR 15)) ∧
      (newSrc 15 16777728 = 1 → oldSrc cs2 15 ≠ 1 → progOk cs2 15 = true) ∧ (srcRuns (oldSrc cs2 15) = true) ∧
      (srcRuns (newSrc 15 16777728) = true) ∧ (oldSrc cs2 15 ≠ newSrc 15 16777728)) ∧
    ((pe.sys.inReset = false) ∧ (pe.get (F.MOD_STAT_STATE (2 * 15)) = 1) ∧ ((pe.pwmCh 15).precharge = 0) ∧ (oddHalf pe 15 = false)) := by
  (repeat' apply And.intro) <;> decide +kernel

def fi : State := ((((run0.set (F.TRP_STAT_BLANKING 31) 1).set (F.TRP_STAT_IN_ACT 31) 1).set (F.TRP_CFG_FLT_ACT 31) 3).set (F.TRP_CFG_FLT_ACT 1) 2).set (F.TRP_CFG_FLT_ACT 2) 3 |>.set (F.TRP_CFG_FLT_ACT 5) 0
def fj : State := ((fi.wr 0x6C 0xC0000000#32).wr 0x60 0#32).set (F.TRP_STAT_BLANKING 0) 1
def ss1 : State := ((run0.set (F.CH_TRST_LATCHED 15) 1).set (F.CH_TRP_SAFE_SEL 15) 2).pwmUp 15 fun p => {p with stage := 1}
def ss2 : State := ss1.pwmUp 15 fun p => {p with stage := 2}
def ss3 : State := ss1.set F.TS_STAT_DEV_SAFE_NOW 1
def ds : State := run0.safeUp fun x => {x with bad := [1,1,1,1,0,0,0,0], warnArmed := true}
def dsx : State := run0.safeUp fun x => {x with bad := List.replicate 8 1}
def dt1 : State := (run0.set F.TS_STAT_DEV_SAFE_NOW 1).set ⟨R.TS_STAT, 10, 10⟩ 1
def dt2 : State := dt1.set ⟨R.TS_STAT, 11, 11⟩ 1

theorem witness_FaultInputs :
    ((fi.sys.inReset = false) ∧ (fi.get (F.TRP_STAT_BLANKING 31) = 1)) ∧
    ((fi.sys.inReset = false) ∧ (fi.get (F.TRP_STAT_BLANKING 5) = 0) ∧ (fi.get (F.TRP_CFG_FLT_ACT 5) = 0)) ∧
    ((fi.sys.inReset = false) ∧ (fi.get (F.TRP_STAT_BLANKING 1) = 0) ∧ (fi.get (F.TRP_CFG_FLT_ACT 1) = 2) ∧
      (fi.get (F.CH_TRST_LATCHED (governor fi (1 / 2))) = 0)) ∧
    ((fi.sys.inReset = false) ∧ (fi.get (F.TRP_STAT_BLANKING 2) = 0) ∧ (fi.get (F.TRP_CFG_FLT_ACT 2) = 3)) ∧
    ((fj.sys.inReset = false) ∧ (bitsN (BitVec.toNat (fj.rd (96 + 4 * 0))) 31 30 = 0)) ∧
    ((fj.sys.inReset = false) ∧ (bitsN (BitVec.toNat (fj.rd (96 + 4 * 3))) 31 30 = 3)) ∧
    (fi.sys.inReset = false) ∧
    ((fj.sys.inReset = false) ∧ (fj.get (F.TRP_STAT_BLANKING 0) = 1) ∧ (fj.get (F.TRP_STAT_IN_ACT 0) = 0)) ∧
    ((fj.sys.inReset = false) ∧ (fj.get (F.TRP_STAT_BLANKING 31) = 1) ∧ (fj.get (F.TRP_STAT_IN_ACT 31) = 1) ∧
      (fj.get (F.TRP_CFG_FLT_ACT 31) = 3)) := by
  (repeat' apply And.intro) <;> decide +kernel

theorem witness_ChannelSafeStates :
    ((ss1.sys.inReset = false) ∧ (ss1.get (F.CH_TRST_LATCHED 15) = 1) ∧ ((ss1.pwmCh 15).stage = 1) ∧ (lowSelected ss1 15 = true) ∧
      (deviceSafe ss1 = false)) ∧
    ((ss2.sys.inReset = false) ∧ (ss2.get (F.CH_TRST_LATCHED 15) = 1) ∧ ((ss2.pwmCh 15).stage = 2) ∧ (ss2.get (F.CH_TRP_SAFE_SEL 15) = 2)) ∧
    ((reached ss2 (R.CH_TCLR 15) = true) ∧ (oddHalf ss2 15 = false) ∧ (ss2.get (F.CH_TRST_LATCHED 15) = 1) ∧
      (clearRefused ss2 15 = false)) ∧
    ((reached ss3 (R.CH_TCLR 15) = true) ∧ (oddHalf ss3 15 = false) ∧ (ss3.get (F.CH_TRST_LATCHED 15) = 1) ∧ (clearRefused ss3 15 = true)) ∧
    ((reached ss3 (R.CH_TCLR 0) = true) ∧ (oddHalf ss3 0 = false) ∧ (ss3.get (F.CH_TRST_LATCHED 0) = 0)) := by
  (repeat' apply And.intro) <;> decide +kernel

theorem witness_DeviceSafeSources :
    (reached ds R.TS_CTRL = true) ∧
    (ds.sys.inReset = false) ∧
    ((ds.sys.inReset = false) ∧ (16 * ↑(ds.get F.TS_TLIM_TEMP_TRIP) ≤ 2160)) ∧
    ((ds.sys.inReset = false) ∧ (3 < 4) ∧ (outsideLimit 3 0 = true) ∧ (1 ≤ ds.safe.bad.getD 3 0)) := by
  (repeat' apply And.intro) <;> decide +kernel

theorem witness_TinSoldier :
    ((reached dt1 R.TS_CTRL = true) ∧ (deviceSafe dt1 = true) ∧ (deviceSourceActive dt1 = false) ∧
      (dt1.get { ptr := R.TS_STAT, hi := 7, lo := 7 } = 0) ∧ (dt1.get { ptr := R.TS_STAT, hi := 11, lo := 11 } = 0)) ∧
    ((reached dt2 R.TS_CTRL = true) ∧ (deviceSafe dt2 = true) ∧ (deviceSourceActive dt2 = true ∨
      dt2.get { ptr := R.TS_STAT, hi := 7, lo := 7 } = 1 ∨ dt2.get { ptr := R.TS_STAT, hi := 11, lo := 11 } = 1)) ∧
    (reached dt2 R.TS_CTRL = true) ∧
    ((ds.sys.inReset = false) ∧ (1900 < 16 * ↑(ds.get F.TS_TLIM_TEMP_TRIP))) ∧
    ((ds.sys.inReset = false) ∧ (3 < 4) ∧ (outsideLimit 3 (clockKhz 3 * 1024 / 40000) = false)) ∧
    ((run0.sys.inReset = false) ∧ (0 < 4) ∧ (outsideLimit 0 0 = true) ∧ (run0.safe.bad.getD 0 0 = 0)) ∧
    ((dsx.sys.inReset = false) ∧ ((5, G.TS_MGMT_CLK) ∈ [(4, G.TS_NET_CLK), (5, G.TS_MGMT_CLK), (7, G.TS_XTAL_CLK)]) ∧
      (outsideLimit 5 0 = true) ∧ (1 ≤ dsx.safe.bad.getD 5 0) ∧ (dsx.conds.contains (G.TS_MGMT_CLK.ptr * 32 + G.TS_MGMT_CLK.bit) = false)) ∧
    ((ds.sys.inReset = false) ∧ (debugAccess ds = true)) ∧
    ((ds.sys.inReset = false) ∧ (debugAccess ds = true) ∧ (Proc.marionette = Proc.musicBox ∨ Proc.marionette = Proc.ventriloquist ∨
      Proc.marionette = Proc.marionette)) := by
  (repeat' apply And.intro) <;> decide +kernel

def cvA : Conv := { input := 31, upd := 0, first := true, pos := 100, spare := false, retry := false }
def cvB : Conv := { cvA with retry := true }
def cv1 : State := run0.sliceUp 33 fun x => {x with conv := some cvA}
def cv2 : State := run0.sliceUp 0 fun x => {x with conv := some cvB, trigs := 65536, losses := [0]}
def gfull : State := gatePush (gatePush (gatePush run0 .gd4 [1]) .gd4 [2]) .gd4 [3]
def goodCal : CalOutcome := ⟨16384, 0, [0,0,0],[0,0,0]⟩
def badCal : CalOutcome := ⟨16713, 0, [0,0,0],[0,0,0]⟩
def rt1 : State := ({run0 with sys := {run0.sys with calDone := true}, bkg := {run0.bkg with rotDue := true}}.set F.SNS_ROT_ROT_EN 1).sliceUp 33 fun x => {x with ready := true}
def rt2 : State := (rt1.snsUp fun x => {x with rot := some {out := 0, spare := 33, input := 0, trigs := 256}}).set F.SNS_POOL_CAL 33
def ro : Rotation := {out := 0, spare := 33, input := 0, trigs := 256}

theorem witness_Conversions :
    ((cv1.sys.inReset = false) ∧ ((cv1.slice 33).conv = some cvA) ∧ (cvA.input < 32) ∧ (cvA.input < cv1.sense.inputs.length) ∧
      (cvA.first = true) ∧ (cvA.spare = false) ∧ (cvA.upd = cv1.time.updates) ∧ (cv1.sense.rot = none) ∧ (cvA.retry = false)) ∧
    ((cv2.sys.inReset = false) ∧ ((cv2.slice 0).conv = some cvB) ∧ (cvB.input < 32) ∧ (cvB.input < cv2.sense.inputs.length) ∧
      (cvB.first = true) ∧ (cvB.spare = false) ∧ (cvB.upd = cv2.time.updates) ∧ (cv2.sense.rot = none) ∧ (cvB.retry = true)) ∧
    ((cv2.sys.inReset = false) ∧ ((cv2.slice 0).conv = some cvB) ∧ (cvB.input < 32) ∧ (cvB.input < cv2.sense.inputs.length) ∧
      (cvB.first = true) ∧ (cvB.spare = false) ∧ (cvB.upd = cv2.time.updates) ∧ (cv2.sense.rot = none) ∧ (cvB.retry = true) ∧
      (((cv2.slice 0).losses.all fun x => decide (x + 65536 ≤ (cv2.slice 0).trigs)) = true)) := by
  (repeat' apply And.intro) <;> decide +kernel

theorem witness_SenseCommands :
    ((run0.sys.inReset = false) ∧ ((run0.gate Gate.gd4).length < 3)) ∧
    ((gfull.sys.inReset = false) ∧ (3 ≤ (gfull.gate Gate.gd4).length)) ∧
    ((run0.sys.inReset = false) ∧ (run0.sys.calDone = false)) ∧
    ((rt1.sys.inReset = false) ∧ (rt1.get F.SNS_ROT_ROT_EN = 1) ∧ (rt1.sense.rot = none) ∧ (rt1.bkg.rotDue = true) ∧
      (rt1.sys.calDone = true) ∧ (readySpare rt1 = some 33) ∧ (oldestServing rt1 = some (0, 0))) ∧
    ((rt2.sys.inReset = false) ∧ (rt2.sense.rot = some ro) ∧ (256 ≤ ro.trigs ∨ 256 ≤ ro.upds)) ∧
    ((rt2.sys.inReset = false) ∧ (rt2.get F.SNS_POOL_CAL < 34) ∧ (calPasses goodCal = true)) ∧
    ((rt2.sys.inReset = false) ∧ (rt2.get F.SNS_POOL_CAL < 34) ∧ (calPasses badCal = false)) ∧
    (((run0.wr (416 + 12) 0).sys.inReset = false) ∧ (bitsN (BitVec.toNat ((run0.wr (416 + 12) 0).live (416 + 4 * 3))) 29 28 = 0) ∧
      (((run0.wr (416 + 12) 0).sense.rails.getD 3 { }).codes = [])) ∧
    (readable run0 Path.hostPrimary R.SNS_CALR0 = true) := by
  (repeat' apply And.intro) <;> decide +kernel

def lprog (hi lo : Word) (x : LaneSt) : State :=
  let s := (run0.putBank (laneKey 15 false 126) lo).putBank (laneKey 15 false 127) hi
  (s.laneUp 15 fun _ => { x with phase := 1, pc := 63 }).pwmUp 15 fun p => { p with loop := 2 }
def lx : LaneSt := { r := { acc := 5, s := List.replicate 16 32767, w := List.replicate 16 (2^39-1), sati := 1 } }
def lnop : State := lprog 0x00000000 0 lx
def lmac : State := lprog 0x08408000 0x3F0 lx
def lmac1 : State := lprog 0x08008000 0x1F0 lx
def lmacd : State := lprog 0x10408000 0x2F1 lx
def lint : State := lprog 0x18408000 0x001 lx
def lint2 : State := lprog 0x18C08000 0x401 lx
def lint3 : State := lprog 0x18C08000 0x401 {lx with r := {lx.r with sato := 2}}
def lint4 : State := lprog 0x18C08000 0x001 lx
def hdr_7 (s : State) : State := s.putBank (laneKey 15 false 161) (0x00640000 + 0x5500)
def lwait : State := hdr_7 (lprog 0x20000000 0 {lx with cycle := 0x55})
def lwait2 : State := (((lwait.wr (R.MOD_TRGA 30) 0).wr (R.MOD_TRGB 30) 0).wr (R.MOD_TRGA 31) 0).wr (R.MOD_TRGB 31) 0
def lwt2 : State := lwait2.laneUp 15 fun x => {x with phase := 2}
def lskip : State := lprog 0x303F0000 0 lx
def lskip1 : State := {lskip with time := {lskip.time with updInBlock := 1}}
def hdr2 (s : State) : State := s.putBank (laneKey 15 false 161) (0x003F0000 + 0x2000)
def lout : State := hdr2 (lprog 0x28000000 0 {lx with cycle := 0x3F, r := {lx.r with acc := -2^38}})
def lout2 : State := lout.set F.LANE_POOL_SPARE 15 |>.set (F.LPE_STAT_LANE 15) 16
def lend : State := lprog 0x38000000 0 lx
def lovr : State := lskip.set (F.LPE_SLK_OVR_CONS 15) 2
def lstop : State := lskip.pwmUp 15 fun p => { p with loop := 0 }
def lad : State := lout.wr (R.CH_MOD 15) 0x00000001
def lbad : State := (lout.wr (R.CH_MOD 15) 0x00000001).laneUp 15 fun x => { x with cycle := 0x40 }
def lund : State := lskip.loopUp 15 fun x => { x with undo := some ([1, 2, 3], [4], 77, 5, 6) }
def ldue : State := lskip.loopUp 15 fun x => { x with tripDue := true }

theorem witness_LaneArithmetic :
    ((lnop.sys.inReset = false) ∧ ((lnop.lane 15).cycle < upcOf (kLive lnop)) ∧ (laneAt lnop 15 0 = true)) ∧
    ((lmac.sys.inReset = false) ∧ ((lmac.lane 15).cycle < upcOf (kLive lmac)) ∧ (laneAt lmac 15 1 = true)) ∧
    ((lmac1.sys.inReset = false) ∧ ((lmac1.lane 15).cycle < upcOf (kLive lmac1)) ∧ (laneAt lmac1 15 1 = true)) ∧
    ((lmacd.sys.inReset = false) ∧ ((lmacd.lane 15).cycle < upcOf (kLive lmacd)) ∧ (laneAt lmacd 15 2 = true)) ∧
    ((lint.sys.inReset = false) ∧ ((lint.lane 15).cycle < upcOf (kLive lint)) ∧ (laneAt lint 15 3 = true)) ∧
    ((lint2.sys.inReset = false) ∧ ((lint2.lane 15).cycle < upcOf (kLive lint2)) ∧ (laneAt lint2 15 3 = true)) ∧
    ((lint3.sys.inReset = false) ∧ ((lint3.lane 15).cycle < upcOf (kLive lint3)) ∧ (laneAt lint3 15 3 = true)) ∧
    ((lint4.sys.inReset = false) ∧ ((lint4.lane 15).cycle < upcOf (kLive lint4)) ∧ (laneAt lint4 15 3 = true)) := by
  (repeat' apply And.intro) <;> decide +kernel

theorem witness_LaneSequence :
    ((lwait2.sys.inReset = false) ∧ (chanOf lwait2 15 = some 15) ∧ (laneAt lwait2 15 4 = true) ∧ (allReady lwait2 15 = some 0) ∧
      (0 ≤ (lwait2.lane 15).cycle) ∧ ((lwait2.lane 15).cycle ≤ wdlOf (laneLive lwait2 15))) ∧
    ((lwait.sys.inReset = false) ∧ (chanOf lwait 15 = some 15) ∧ (laneAt lwait 15 4 = true) ∧
      (∀ (u : Nat), allReady lwait 15 = some u → (lwait.lane 15).cycle < u)) ∧
    ((lwt2.sys.inReset = false) ∧ (chanOf lwt2 15 = some 15) ∧ (laneHalted lwt2 15 = false) ∧ ((lwt2.lane 15).phase = 2) ∧
      (allReady lwt2 15 = some 0) ∧ (max (lwt2.lane 15).cycle 0 ≤ wdlOf (laneLive lwt2 15))) ∧
    ((lskip.sys.inReset = false) ∧ (laneAt lskip 15 6 = true) ∧ ((lskip.lane 15).cycle < upcOf (kLive lskip))) ∧
    ((lskip1.sys.inReset = false) ∧ (laneAt lskip1 15 6 = true) ∧ ((lskip1.lane 15).cycle < upcOf (kLive lskip1))) ∧
    ((lout.sys.inReset = false) ∧ (laneAt lout 15 5 = true) ∧ ((lout.lane 15).cycle ≤ outCyc (laneLive lout 15)) ∧
      (outCyc (laneLive lout 15) < upcOf (kLive lout))) ∧
    ((lout2.sys.inReset = false) ∧ (laneAt lout2 15 5 = true) ∧ ((lout2.lane 15).cycle ≤ outCyc (laneLive lout2 15)) ∧
      (outCyc (laneLive lout2 15) < upcOf (kLive lout2))) ∧
    ((lbad.sys.inReset = false) ∧ (laneAt lbad 15 5 = true) ∧ (outCyc (laneLive lbad 15) < (lbad.lane 15).cycle ∨
      upcOf (kLive lbad) ≤ outCyc (laneLive lbad 15))) ∧
    ((lad.sys.inReset = false) ∧ (servedChan lad 15 = some 15) ∧ (laneAt lad 15 5 = true) ∧
      ((lad.lane 15).cycle ≤ outCyc (laneLive lad 15)) ∧ (legAd lad (2 * 15) = true) ∧ (outCyc (laneLive lad 15) < upcOf (kLive lad)) ∧
      (List.countP (fun x => x.head? == some (BitVec.ofNat 32 (2 * 15))) (lad.gate Gate.gd5) < gateCapacity)) ∧
    ((lend.sys.inReset = false) ∧ (laneAt lend 15 7 = true)) ∧
    ((lstop.sys.inReset = false) ∧ (laneHalted lstop 15 = true)) ∧
    ((lskip.sys.inReset = false) ∧ (laneHalted lskip 15 = false) ∧ ((lskip.lane 15).phase = 1 ∨ (lskip.lane 15).phase = 2) ∧
      (servedChan lskip 15 = some 15) ∧ (15 < lskip.loops.length) ∧ ((lskip.loopCh 15).undo = none)) ∧
    ((lovr.sys.inReset = false) ∧ (laneHalted lovr 15 = false) ∧ ((lovr.lane 15).phase = 1 ∨ (lovr.lane 15).phase = 2) ∧
      (servedChan lovr 15 = some 15) ∧ (15 < lovr.loops.length) ∧ ((lovr.loopCh 15).undo = none)) ∧
    ((lund.sys.inReset = false) ∧ (laneHalted lund 15 = false) ∧ ((lund.lane 15).phase = 1 ∨ (lund.lane 15).phase = 2) ∧
      (servedChan lund 15 = some 15) ∧ (15 < lund.loops.length) ∧ (2 * 15 + 1 < lund.legs.length)) ∧
    ((ldue.sys.inReset = false) ∧ ((ldue.loopCh 15).tripDue = true)) := by
  (repeat' apply And.intro) <;> decide +kernel

def lb : State := ((run0.set (F.LPE_PPTR_OFFS 15) 161).set (F.LPE_LPTR_LOFFS 15) 160).putBank (laneKey 15 true 161) 7
def lbf : State := (lb.set F.SCN_STAT_STATE 1).set F.SCN_MASK_CH_MASK 0x8000
def lsh : State := lb.poolUp fun p => {p with shadow := some 15, slot := some 15}
def lsw : State := (run0.set (F.MOD_STAT_STATE 30) 3).set (F.CH_MOD_SRC 15) 1
def lq : State := run0.loopUp 15 fun x => {x with queue := [1,2,3,4]}
def lq3 : State := run0.loopUp 15 fun x => {x with queue := [1,2,3]}
def so1 : State := ({run0 with time := {run0.time with block := 12000 * 33}}.set F.LANE_SHD_SHD_EN 1)
def so2 : State := ({run0 with time := {run0.time with block := 12000 * 15}}.set F.LANE_SHD_SHD_EN 1 |>.set (F.MOD_STAT_STATE 30) modSwitching)
def stp : State := (so2.set F.LANE_POOL_SPARE 0x1F).poolUp fun p => {p with selfTest := some 16, afterSwap := true, upds := 4096}
def stq : State := run0.poolUp fun p => {p with selfTest := some 16, upds := 4096}
def stc : State := (run0.set F.LANE_SHD_CONFIRM 1).poolUp fun p => {p with confirm := some 15, blocks := 12000}
def stn : State := (so2.set F.LANE_POOL_SPARE 0x1F)
def sfs : State := so2.set F.LANE_SHD_FCH 15
def ta : State := (run0.set (F.TRC_CFG_STATE 15) 1).set F.TRC_RPTR_WORD 3 |>.set F.TRC_RPTR_ENTRY 2047 |>.set F.TRC_RPTR_BUF 14
def ta2 : State := ta.set F.TRC_RPTR_BUF 15 |>.set F.TRC_RPTR_WORD 2
def inj : State := (run0.wr (R.LPE_INJ 15) 0xC0000000).loopUp 15 fun x => {x with injOn := true, injCnt := 16}

theorem witness_LaneBanks :
    ((reached lb (aliasPtr lb (R.LPE_PDATA 15)) = true) ∧ (nextFrozen lb 15 = false)) ∧
    ((reached lsh (aliasPtr lsh (R.LPE_PDATA 15)) = true) ∧ (nextFrozen lsh 15 = false)) ∧
    ((reached lbf (aliasPtr lbf (R.LPE_PDATA 15)) = true) ∧ (nextFrozen lbf 15 = true)) ∧
    (readable lb Path.hostPrimary (R.LPE_PDATA 15) = true) ∧
    (readable lb Path.hostPrimary (R.LPE_LDATA 15) = true) ∧
    ((reached lb (R.LPE_CTRL 15) = true) ∧ (chanStopped lb 15 = true)) ∧
    ((reached lsw (R.LPE_CTRL 15) = true) ∧ (chanStopped lsw 15 = false)) ∧
    ((reached lq3 (R.LPE_CWR 15) = true) ∧ (55 = bitsN (938541055) 29 24) ∧ (55 ≠ 63) ∧ (¬(bitN (938541055) 23 = true ∧ 55 / 8 = 7)) ∧
      ((lq3.loopCh 15).queue.length < 4)) ∧
    ((reached lq (R.LPE_CWR 15) = true) ∧ (62 = bitsN (1047592959) 29 24) ∧ (62 ≠ 63) ∧ (¬(bitN (1047592959) 23 = true ∧ 62 / 8 = 7)) ∧
      (4 ≤ (lq.loopCh 15).queue.length)) ∧
    ((reached lq (R.LPE_CWR 15) = true) ∧ (56 = bitsN (956301311) 29 24) ∧ (56 = 63 ∨ bitN (956301311) 23 = true ∧ 56 / 8 = 7)) := by
  (repeat' apply And.intro) <;> decide +kernel

theorem witness_SpareLane :
    ((so1.sys.inReset = false) ∧ (so1.get F.LANE_SHD_SHD_EN = 1) ∧ (so1.get F.LANE_SHD_CONFIRM = 0) ∧ (so1.lanePool.slot ≠ some 16) ∧
      (spareLane so1 = some 16) ∧ (so1.time.block / 12000 % 17 = 16)) ∧
    ((so2.sys.inReset = false) ∧ (so2.get F.LANE_SHD_SHD_EN = 1) ∧ (so2.get F.LANE_SHD_CONFIRM = 0) ∧ (so2.lanePool.slot ≠ some 15) ∧
      (spareLane so2 = some 16) ∧ (15 = so2.time.block / 12000 % 17) ∧ (15 < 16) ∧ (so2.get (F.MOD_STAT_STATE (2 * 15)) = modSwitching) ∧
      (oddHalf so2 15 = false) ∧ (16 < so2.lanes.length) ∧ (laneOf so2 15 ≠ 16)) ∧
    ((stp.sys.inReset = false) ∧ (stp.lanePool.selfTest = some 16) ∧ (4096 ≤ stp.lanePool.upds) ∧ (stp.lanePool.afterSwap = true)) ∧
    ((stp.sys.inReset = false) ∧ (stp.lanePool.selfTest = some 16) ∧ (4096 ≤ stp.lanePool.upds)) ∧
    ((stq.sys.inReset = false) ∧ (stq.lanePool.selfTest = some 16) ∧ (4096 ≤ stq.lanePool.upds)) ∧
    ((stc.sys.inReset = false) ∧ (stc.get F.LANE_SHD_CONFIRM = 1) ∧ (stc.lanePool.selfTest = none) ∧ (stc.lanePool.confirmDue = none) ∧
      (12000 ≤ stc.lanePool.blocks)) ∧
    ((so2.sys.inReset = false) ∧ (servedChan so2 15 = some 15) ∧ (spareLane so2 = some 16) ∧ (so2.lanePool.confirm = none)) ∧
    ((stn.sys.inReset = false) ∧ (servedChan stn 15 = some 15) ∧ (spareLane stn = none) ∧ (15 < stn.lanes.length)) ∧
    ((reached sfs R.LANE_SHD = true) ∧ (fswapRefused sfs = false)) ∧
    ((reached stn R.LANE_SHD = true) ∧ (fswapRefused stn = true)) := by
  (repeat' apply And.intro) <;> decide +kernel

theorem witness_TraceAndInjection :
    (reached ta (R.TRC_CTRL 15) = true) ∧
    ((reached ta (R.TRC_CTRL 15) = true) ∧ (ta.get (F.TRC_CFG_STATE 15) = 1)) ∧
    ((readable run0 Path.hostPrimary R.TRC_RDATA = true) ∧ (0 = run0.get F.TRC_RPTR_BUF) ∧ (0 = run0.get F.TRC_RPTR_ENTRY) ∧
      (0 = run0.get F.TRC_RPTR_WORD) ∧ (trcBusy run0 0 = false) ∧ (0 < 3)) ∧
    ((readable ta Path.hostPrimary R.TRC_RDATA = true) ∧ (14 = ta.get F.TRC_RPTR_BUF) ∧ (2047 = ta.get F.TRC_RPTR_ENTRY) ∧
      (3 = ta.get F.TRC_RPTR_WORD) ∧ (trcBusy ta 14 = false)) ∧
    ((readable ta2 Path.hostPrimary R.TRC_RDATA = true) ∧ (15 = ta2.get F.TRC_RPTR_BUF) ∧ (2047 = ta2.get F.TRC_RPTR_ENTRY) ∧
      (2 = ta2.get F.TRC_RPTR_WORD) ∧ (trcBusy ta2 15 = true)) ∧
    (reached run0 (R.LPE_OCTL 15) = true) ∧
    ((inj.sys.inReset = false) ∧ ((inj.loopCh 15).injOn = true) ∧ (inj.inForce (F.LPE_INJ_SHAPE 15) = 1) ∧
      (16 * max (inj.inForce (F.LPE_INJ_HALF 15)) 1 ≤ (inj.loopCh 15).injCnt)) := by
  (repeat' apply And.intro) <;> decide +kernel

def vs : State := (run0.set F.VENT_STAT_LOAD1 9).coreUp 1 fun x => {x with done := false}
def cs : State := {vs with vent := {vs.vent with chans := vs.vent.chans.modify 15 fun x => {x with m := {x.m with steps := 14}, meas := List.replicate 16 (0x4000, 0x1000), taps := List.replicate 8 0x3F000000#32}}}
def re1 : State := run0.modelUp 15 fun m => {m with reBlocks := 1200}
def re2 : State := run0.modelUp 15 fun m => {m with reBlocks := 1200, reI2 := 0x4E000000#32, reNum := 0x40800000#32, reDen := 0x3F800000#32}
def ip : State := {run0 with time := {run0.time with block := 24000}}.putBank (spkKey 15 false 0) 2
def vu3 : State := run0.coreUp 1 fun x => {x with ues := [0, 0]}
def vu2 : State := {run0 with time := {run0.time with block := 720000}}.coreUp 1 fun x => {x with ues := [0, 1]}
def sk : State := ((run0.set (F.SPK_PPTR_OFFS 15) 47).set (F.SPK_LPTR_LOFFS 15) 46)
def sk2 : State := ((run0.set (F.SPK_PPTR_OFFS 15) 44).set F.SCN_STAT_STATE 1).set F.SCN_MASK_CH_MASK 0x7FFF
def sk3 : State := sk2.set F.SCN_MASK_CH_MASK 0x8000
def ld_9 : State := (run0.ventUp 15 fun x => {x with winBlocks := 12, m := {x.m with pairs := [(0x3F800000#32,0x3F800000#32)]}}).set (F.DIA_PRES0_SEQ 15) 0xFFFF
def ld2 : State := ld_9.wr (R.DIA_LCFG 15) 0
def sw0 : State := (((run0.set (F.MOD_STAT_STATE 30) modSwitching).putBank (spkKey 15 false 0) 1)).mbUp 15 fun x => {x with muted := true}
def swS : State := run0.set (F.MOD_STAT_STATE 30) modSwitching
def swP (p : Sweep) : State := (sw0.sweepUp 15 fun _ => p)
def p3 : Sweep := {phase := 3, cnt := 952, acc := 7}
def p4 : Sweep := {phase := 4, cnt := 38400 - 8, point := 0}
def p5 : Sweep := {phase := 5, meas := 800000, point := 0}
def p5l : Sweep := {phase := 5, meas := 800000, point := 23}
def p6 : Sweep := {phase := 6, cnt := 952, point := 47}

theorem witness_SpeakerModels :
    ((vs.sys.inReset = false) ∧ (vs.sys.procs = true) ∧ ((vs.core 1).done = false) ∧ ((vs.core 1).ue = false) ∧
      (coreStopped vs 1 = false) ∧ (List.countP (fun w => w.head? == some (BitVec.ofNat 32 1)) (vs.gate Gate.gd2) < gateCapacity)) ∧
    ((cs.sys.inReset = false) ∧ ((cs.ventCh 15).m.steps < 16) ∧ (coreStopped cs (15 / 8) = false) ∧ ((cs.core (15 / 8)).ue = false)) ∧
    ((re1.sys.inReset = false) ∧ (1200 ≤ (re1.ventCh 15).m.reBlocks) ∧
      (f32Lt (f32Sqrt (f32Div (re1.ventCh 15).m.reI2 (f32OfRat (16 * ↑(re1.ventCh 15).m.reBlocks) 1))) (spkParam re1 15 35) = true)) ∧
    ((re2.sys.inReset = false) ∧ (1200 ≤ (re2.ventCh 15).m.reBlocks) ∧
      (f32Lt (f32Sqrt (f32Div (re2.ventCh 15).m.reI2 (f32OfRat (16 * ↑(re2.ventCh 15).m.reBlocks) 1))) (spkParam re2 15 35) = false) ∧
      (corrEn re2 15 = false)) ∧
    ((ip.sys.inReset = false) ∧ (ip.time.block % 12000 = 0) ∧ (idEn ip 15 = true)) ∧
    ((vu2.sys.inReset = false) ∧ (coreStopped vu2 1 = false) ∧
      ([1] = List.filter (fun b => decide (vu2.time.block < b + 720000)) (vu2.core 1).ues) ∧ ([1].length < 2)) ∧
    ((vu3.sys.inReset = false) ∧ (coreStopped vu3 1 = false) ∧
      ([0, 0] = List.filter (fun b => decide (vu3.time.block < b + 720000)) (vu3.core 1).ues) ∧ (2 ≤ [0, 0].length)) := by
  (repeat' apply And.intro) <;> decide +kernel

theorem witness_SpeakerBanks :
    ((47 = sk.get (F.SPK_PPTR_OFFS 15)) ∧ (reached sk (aliasPtr sk (R.SPK_PDATA 15)) = true) ∧ (sk.get F.SCN_STAT_STATE = 0 ∨
      bitN (sk.get F.SCN_MASK_CH_MASK) 15 = false)) ∧
    ((44 = sk2.get (F.SPK_PPTR_OFFS 15)) ∧ (reached sk2 (aliasPtr sk2 (R.SPK_PDATA 15)) = true) ∧ (sk2.get F.SCN_STAT_STATE = 0 ∨
      bitN (sk2.get F.SCN_MASK_CH_MASK) 15 = false)) ∧
    ((44 = sk3.get (F.SPK_PPTR_OFFS 15)) ∧ (reached sk3 (aliasPtr sk3 (R.SPK_PDATA 15)) = true) ∧ (sk3.get F.SCN_STAT_STATE ≠ 0) ∧
      (bitN (sk3.get F.SCN_MASK_CH_MASK) 15 = true)) ∧
    ((47 = sk.get (F.SPK_PPTR_OFFS 15)) ∧ (readable sk Path.hostPrimary (R.SPK_PDATA 15) = true)) ∧
    ((47 = sk.get (F.SPK_PPTR_OFFS 15)) ∧ (readable sk Path.hostPrimary (R.SPK_LDATA 15) = true) ∧ (46 = sk.get (F.SPK_LPTR_LOFFS 15))) ∧
    ((0 = vs.get (F.SPK_PPTR_OFFS 15)) ∧ (reached vs R.VENT_CTRL = true)) ∧
    ((0 = vs.get (F.SPK_PPTR_OFFS 15)) ∧ (readable vs Path.hostPrimary (R.SPK_TRES0 15) = true)) ∧
    ((0 = vs.get (F.SPK_PPTR_OFFS 15)) ∧ (readable vs Path.hostPrimary (R.SPK_IDR0 15) = true)) := by
  (repeat' apply And.intro) <;> decide +kernel

theorem witness_LoadDiagnosis :
    ((ld_9.sys.inReset = false) ∧ (ld_9.time.block % 12 = 0) ∧ ((ld_9.ventCh 15).winBlocks ≠ 0)) ∧
    ((ld2.sys.inReset = false) ∧ (ld2.time.block % 12 = 0) ∧ ((ld2.ventCh 15).winBlocks ≠ 0)) ∧
    (readable ld_9 Path.hostPrimary (R.DIA_PRES0 15) = true) ∧
    (readable ld_9 Path.mgmtCore (R.DIA_PRES0 15) = true) ∧
    (readable ld_9 Path.mgmtCore (R.DIA_LRES0 15) = true) ∧
    (readable ld_9 Path.hostPrimary (R.DIA_SWSUM0 15) = true) ∧
    ((readable (run0.set (F.DIA_SWPTR_WPTR 15) 191) Path.hostPrimary (R.DIA_SWDATA 15) = true) ∧
      (191 = (run0.set (F.DIA_SWPTR_WPTR 15) 191).get (F.DIA_SWPTR_WPTR 15))) := by
  (repeat' apply And.intro) <;> decide +kernel

theorem witness_ImpedanceSweeps :
    ((reached sw0 (R.DIA_SWCTRL 15) = true) ∧ (sweepReason sw0 15 = 0) ∧ ((sw0.sweepOf 15).phase = 0) ∧ (15 < sw0.vent.chans.length)) ∧
    ((reached run0 (R.DIA_SWCTRL 15) = true) ∧ (sweepReason run0 15 ≠ 0)) ∧
    ((reached swS (R.DIA_SWCTRL 15) = true) ∧ (sweepReason swS 15 ≠ 0)) ∧
    ((p3 = (swP p3).sweepOf 15) ∧ (reached (swP p3) (R.DIA_SWCTRL 15) = true) ∧ (3 ≤ p3.phase) ∧ (p3.phase ≤ 6)) ∧
    ((p3 = (swP p3).sweepOf 15) ∧ ((swP p3).sys.inReset = false) ∧ (p3.phase = 3) ∧ (960 ≤ p3.cnt + 8)) ∧
    ((p4 = (swP p4).sweepOf 15) ∧ ((swP p4).sys.inReset = false) ∧ (p4.phase = 4) ∧
      (↑(settleSamples (sweepFreq (swP p4) 15 p4.point)) ≤ p4.cnt + 8)) ∧
    ((p5 = (swP p5).sweepOf 15) ∧ ((swP p5).sys.inReset = false) ∧ (p5.phase = 5) ∧
      (measPeriods (sweepFreq (swP p5) 15 p5.point) ≤ p5.meas) ∧ (p5.point ≠ (swP p5).get (F.DIA_SWCFG_NPTS_M1 15))) ∧
    ((p5l = (swP p5l).sweepOf 15) ∧ ((swP p5l).sys.inReset = false) ∧ (p5l.phase = 5) ∧
      (measPeriods (sweepFreq (swP p5l) 15 p5l.point) ≤ p5l.meas) ∧ (p5l.point = (swP p5l).get (F.DIA_SWCFG_NPTS_M1 15))) ∧
    ((p6 = (swP p6).sweepOf 15) ∧ ((swP p6).sys.inReset = false) ∧ (p6.phase = 6) ∧ (960 ≤ p6.cnt + 8)) := by
  (repeat' apply And.intro) <;> decide +kernel

def pr0 : State := ((run0.set F.TWN_CFG_PAIR_EN 1).set F.CLK_STAT_TWIN_LOCK 1).twinUp fun t => {t with hbEdges := 3}
def prL : State := (pr0.set F.TWN_STAT_LANE_OK 3).set F.TWN_STAT_LINK_UP 1
def prL1 : State := (pr0.set F.TWN_STAT_LANE_OK 2).set F.TWN_STAT_LINK_UP 1
def ptn : State := pr0.set F.TWN_STAT_PSTATE psTrain
def prf : State := pr0.set F.TWN_STAT_PSTATE psRefused
def idA (o : Bool) : Ident := { sysId := ptn.rd R.SYS_ID, role := true, owner := o, lc := 2, devnum := 5, digest := BitVec.ofNat 256 (ownDigest ptn) }
def idR : Ident := {idA false with role := false}
def idS : Ident := {idA false with sysId := 77}
def idD : Ident := {idA false with digest := 77}
def frx (ty : Nat) (n : Nat := 0) (flags : Byte := 0) (e : List (BitVec 145) := []) : LinkRx := { head := ⟨flags, 0xFFFF, BitVec.ofNat 16 n, BitVec.ofNat 16 (crc16 (headBytes ty flags.toNat 0xFFFF n))⟩, ixs := (List.range n).map (BitVec.ofNat 8 ·), errs := e }
def frb : LinkRx := { head := ⟨0, 0, 1, 0⟩, ixs := [1], errs := [] }
def ppd : State := (prL.set F.TWN_STAT_PSTATE psPaired).twinUp fun t => {t with concluded := true, diverged := 1}
def ppo : State := {ppd.set F.TWN_STAT_ROLE 1 with pins := {ppd.pins with own := true}}
def elg : State := (run0.set F.TWN_CFG_CLAIM_EN 1).twinUp fun t => {t with claim := true}
def rsn : State := prL.set F.TWN_STAT_PSTATE psResync
def hov : State := ((ppo.set F.TWN_STAT_P_READY 1).twinUp fun t => {t with pSnapOk := true})
def stl : State := prL.set F.TWN_STAT_PSTATE psSettle

theorem witness_TwinLink :
    ((pr0.sys.inReset = false) ∧ (pr0.get F.TWN_STAT_HB_OK = 0) ∧ (0 ≤ pr0.get F.TWN_CFG_HB_TMO) ∧ (3 ≤ pr0.twin.hbEdges)) ∧
    ((run0.sys.inReset = false) ∧ (run0.get F.TWN_STAT_HB_OK = 0) ∧ (0 ≤ run0.get F.TWN_CFG_HB_TMO) ∧ (run0.twin.hbEdges < 3)) ∧
    ((pr0.sys.inReset = false) ∧ (pr0.conds.contains (G.TWN_HB_LOST.ptr * 32 + G.TWN_HB_LOST.bit) = false)) ∧
    ((prL.sys.inReset = false) ∧ (pairEn prL = true) ∧ (prL.sys.procs = true) ∧ (prL.get F.CLK_STAT_TWIN_LOCK = 1)) ∧
    ((pr0.sys.inReset = false) ∧ (pairEn pr0 = true) ∧ (pr0.sys.procs = true) ∧ (pr0.get F.CLK_STAT_TWIN_LOCK = 1) ∧
      (pr0.get F.TWN_STAT_LINK_UP = 0)) ∧
    ((pr0.sys.inReset = false) ∧ (pairEn pr0 = true) ∧ (pr0.sys.procs = true) ∧ (pr0.get F.CLK_STAT_TWIN_LOCK = 1) ∧
      (reached pr0 R.TWN_CTRL = true)) ∧
    ((pr0.sys.inReset = false) ∧ (pairEn pr0 = true) ∧ (pr0.sys.procs = true)) ∧
    ((prL.sys.inReset = false) ∧ (pairEn prL = true) ∧ (prL.get F.TWN_STAT_LANE_OK = 3)) ∧
    ((prL1.sys.inReset = false) ∧ (pairEn prL1 = true) ∧ (prL1.get F.TWN_STAT_LANE_OK = 2 ^ 1)) := by
  (repeat' apply And.intro) <;> decide +kernel

theorem witness_TwinPairing :
    ((ptn.sys.inReset = false) ∧ ((frx 5 3).errs = []) ∧ (frameGood frIdent (frx 5 3) = true) ∧ (pairEn ptn = true) ∧
      (pstate ptn = psTrain) ∧ ((idA false).role ≠ roleB ptn) ∧ ((idA false).sysId = ptn.rd R.SYS_ID) ∧
      ((idA false).digest.toNat = ownDigest ptn) ∧ ((idA false).owner = false)) ∧
    ((ptn.sys.inReset = false) ∧ ((frx 5 3).errs = []) ∧ (frameGood frIdent (frx 5 3) = true) ∧ (pairEn ptn = true) ∧
      (pstate ptn = psTrain) ∧ ((idA true).role ≠ roleB ptn) ∧ ((idA true).sysId = ptn.rd R.SYS_ID) ∧
      ((idA true).digest.toNat = ownDigest ptn) ∧ ((idA true).owner = true) ∧ (owner ptn = false)) ∧
    ((ptn.sys.inReset = false) ∧ ((frx 5 3).errs = []) ∧ (frameGood frIdent (frx 5 3) = true) ∧ (pairEn ptn = true) ∧
      (pstate ptn = psTrain) ∧ (1 ≠ 0) ∧
      (1 = if idR.role = roleB ptn then 1 else if idR.sysId ≠ ptn.rd R.SYS_ID then 2 else if idR.digest.toNat ≠ ownDigest ptn then 3 else 0)) ∧
    ((ptn.sys.inReset = false) ∧ ((frx 5 3).errs = []) ∧ (frameGood frIdent (frx 5 3) = true) ∧ (pairEn ptn = true) ∧
      (pstate ptn = psTrain) ∧ (2 ≠ 0) ∧
      (2 = if idS.role = roleB ptn then 1 else if idS.sysId ≠ ptn.rd R.SYS_ID then 2 else if idS.digest.toNat ≠ ownDigest ptn then 3 else 0)) ∧
    ((ptn.sys.inReset = false) ∧ ((frx 5 3).errs = []) ∧ (frameGood frIdent (frx 5 3) = true) ∧ (pairEn ptn = true) ∧
      (pstate ptn = psTrain) ∧ (3 ≠ 0) ∧
      (3 = if idD.role = roleB ptn then 1 else if idD.sysId ≠ ptn.rd R.SYS_ID then 2 else if idD.digest.toNat ≠ ownDigest ptn then 3 else 0)) ∧
    ((pr0.sys.inReset = false) ∧ ((frx 7 0 242).errs = []) ∧ (frameGood frRefuse (frx 7 0 242) = true) ∧
      (2 = BitVec.toNat (frx 7 0 242).head.flags % 16) ∧ (pairEn pr0 = true) ∧ (pstate pr0 ≠ psRefused)) ∧
    ((ptn.sys.inReset = false) ∧ (frb.errs = []) ∧ (frameGood frIdent frb = false)) ∧
    ((pr0.sys.inReset = false) ∧ (frb.errs = []) ∧ (frameGood frRefuse frb = false)) ∧
    ((prf.sys.inReset = false) ∧ (frb.errs = []) ∧ (pstate prf = psRefused)) := by
  (repeat' apply And.intro) <;> decide +kernel

theorem witness_TwinMessages :
    ((ppd.sys.inReset = false) ∧ (frb.errs = []) ∧ (frameGood frHbm frb = false)) ∧
    ((ppd.sys.inReset = false) ∧ (frb.errs = []) ∧ (frameGood frMark frb = false)) ∧
    ((ppd.sys.inReset = false) ∧ ((frx 2 1).errs = []) ∧ (frameGood frHbm (frx 2 1) = true) ∧ (pairEn ppd = true) ∧ (linkUp ppd = true) ∧
      (pstate ppd ≠ psRefused) ∧ ((340282366920938463463374607431768211455).testBit 79 = false ∨ owner ppd = false)) ∧
    ((ppo.sys.inReset = false) ∧ ((frx 2 1).errs = []) ∧ (frameGood frHbm (frx 2 1) = true) ∧ (pairEn ppo = true) ∧ (linkUp ppo = true) ∧
      (pstate ppo ≠ psRefused) ∧ ((340282366920938463463374607431768211455).testBit 79 = true) ∧ (owner ppo = true)) ∧
    ((ppd.sys.inReset = false) ∧ ((frx 1).errs = []) ∧ (frameGood frMark (frx 1) = true) ∧ (pairEn ppd = true) ∧ (owner ppd = false) ∧
      (ppd.twin.concluded = true) ∧ (pstate ppd ≠ psRefused) ∧ (ppd.twin.firstMark = false) ∧ ((-1024).natAbs ≤ 1024)) ∧
    ((ppd.sys.inReset = false) ∧ ((frx 1).errs = []) ∧ (frameGood frMark (frx 1) = true) ∧ (pairEn ppd = true) ∧ (owner ppd = false) ∧
      (ppd.twin.concluded = true) ∧ (pstate ppd ≠ psRefused) ∧ (ppd.twin.firstMark = false) ∧ (1024 < (-100000).natAbs)) ∧
    ((ppd.sys.inReset = false) ∧ (frb.errs = [])) ∧
    ((run0.sys.inReset = false) ∧ (frb.errs = []) ∧ (pairEn run0 = false)) ∧
    ((ppd.sys.inReset = false) ∧ (frb.errs = []) ∧ (pairEn ppd = true) ∧ (linkUp ppd = true) ∧ (pstate ppd ≠ psRefused)) := by
  (repeat' apply And.intro) <;> decide +kernel

theorem witness_Ownership :
    ((elg.sys.inReset = false) ∧ (eligible elg = true) ∧ (owner elg = false)) ∧
    ((rsn.sys.inReset = false) ∧ (pstate rsn = psResync) ∧ (rsn.twin.bR = none)) ∧
    ((elg.sys.inReset = false) ∧ (elg.twin.claim = true) ∧ (eligible elg = true) ∧ (owner elg = false) ∧ (elg.twin.accepted = false)) ∧
    ((elg.sys.inReset = false) ∧ (elg.twin.claim = true)) ∧
    (elg.sys.inReset = false) ∧
    ((reached hov R.TWN_CTRL = true) ∧ (owner hov = true) ∧ (hov.get F.TWN_STAT_P_READY = 1) ∧ (hov.twin.pSnapOk = true) ∧
      (pstate hov = psPaired)) ∧
    ((reached ppo R.TWN_CTRL = true) ∧ (owner ppo = false ∨ ppo.get F.TWN_STAT_P_READY = 0 ∨ ppo.twin.pSnapOk = false ∨
      pstate ppo ≠ psPaired)) ∧
    (ppo.sys.inReset = false) := by
  (repeat' apply And.intro) <;> decide +kernel

theorem witness_Resynchronization :
    ((ppd.sys.inReset = false) ∧ (pairEn ppd = true) ∧ (linkUp ppd = true) ∧ (owner ppd = false) ∧ (pstate ppd ≠ psRefused) ∧
      (frameGood frSnap (frx 3 3) = true) ∧ ((frx 3 3).errs = [])) ∧
    ((ppd.sys.inReset = false) ∧ (pairEn ppd = true) ∧ (linkUp ppd = true) ∧ (owner ppd = false) ∧ (pstate ppd ≠ psRefused) ∧
      (frameGood frSnap (frx 3 3 0 [1]) = true) ∧ ((frx 3 3 0 [1]).errs = [1]) ∧ ((checkWord 1).fst = Check.ce1 ∨
      (checkWord 1).fst = Check.ce2)) ∧
    ((ppd.sys.inReset = false) ∧ (pairEn ppd = true) ∧ (linkUp ppd = true) ∧ (owner ppd = false) ∧ (pstate ppd ≠ psRefused) ∧
      (frameGood frSnap (frx 3 3 0 [7]) = true) ∧ ((frx 3 3 0 [7]).errs = [7]) ∧ ((checkWord 7).fst = Check.ue)) ∧
    ((ppd.sys.inReset = false) ∧ (pairEn ppd = true) ∧ (linkUp ppd = true) ∧ (owner ppd = false) ∧ (pstate ppd ≠ psRefused) ∧
      (frameGood frSnap frb = false)) ∧
    ((reached ppd R.TWN_CTRL = true) ∧ (owner ppd = false) ∧ (linkUp ppd = true) ∧ (pstate ppd ≠ psRefused)) ∧
    ((reached ppo R.TWN_CTRL = true) ∧ (owner ppo = true ∨ linkUp ppo = false ∨ pstate ppo = psRefused)) ∧
    ((ppo.sys.inReset = false) ∧ (frameGood frRsreq (frx 6) = true) ∧ ((frx 6).errs = []) ∧ (pairEn ppo = true) ∧ (owner ppo = true) ∧
      (linkUp ppo = true)) ∧
    ((rsn.sys.inReset = false) ∧ (frameGood frRsync (frx 4 2) = true) ∧ ((frx 4 2).errs = []) ∧ (pairEn rsn = true) ∧
      (pstate rsn = psResync) ∧ (owner rsn = false) ∧ (2223 < 2224)) ∧
    ((rsn.sys.inReset = false) ∧ (frameGood frRsync (frx 4 2) = true) ∧ ((frx 4 2).errs = []) ∧ (pairEn rsn = true) ∧
      (pstate rsn = psResync) ∧ (owner rsn = false) ∧ (sharedRegs.contains (32768) = true)) ∧
    ((rsn.sys.inReset = false) ∧ (frameGood frRsync (frx 4 2) = true) ∧ ((frx 4 2).errs = []) ∧ (pairEn rsn = true) ∧
      (pstate rsn = psResync) ∧ (owner rsn = false) ∧ (sharedRegs.contains (30736) = true)) ∧
    ((rsn.sys.inReset = false) ∧ (frameGood frRsync (frx 4 2) = true) ∧ ((frx 4 2).errs = []) ∧ (pairEn rsn = true) ∧
      (pstate rsn = psResync) ∧ (owner rsn = false) ∧ (sharedRegs.contains (0) = false)) ∧
    ((rsn.sys.inReset = false) ∧ (frameGood frRsync (frx 4 2) = true) ∧ ((frx 4 2).errs = []) ∧ (pairEn rsn = true) ∧
      (pstate rsn = psResync) ∧ (owner rsn = false)) ∧
    ((stl.sys.inReset = false) ∧ (pstate stl = psSettle)) := by
  (repeat' apply And.intro) <;> decide +kernel

def sp : State := run0.strUp fun x => {x with forwarding := true, upBad := true, upAge := 12000, downAge := 12000}
def spy : State := sp.strUp fun x => {x with upAge := 11999, downAge := 11999}
def spm : State := run0.strUp fun x => {x with master := true, held := List.replicate 32 (some 24000)}
def spa : State := (run0.strUp fun x => {x with quiet := 12000}).set F.STR_STAT_ADDR 31
def tp : State := (((run0.set F.STR_CFG_RING_EN 1).set F.STR_CFG_CLUSTER 7).set F.STR_STAT_ADDR 31).strUp fun x => {x with forwarding := true, image := true}
def mst : State := {tp.strUp (fun x => {x with master := true, enumNext := false}) with pins := {run0.pins with own := true}, time := {run0.time with block := 1}}
def mst2 : State := mst.strUp fun x => {x with enumNext := true}
def mst3 : State := {(mst.strUp fun x => {x with frameOut := true}).wr R.SYS_DEVNUM_L 9 with time := mst.time}
def fr : RingFrame := withHcrc {enum := false, fold := false, blk := 0xFFFFFFFFFFFF, origin := 9, cluster := 7, nodes := 32, hcrc := 0, endOk := true, cmd := List.replicate 32 0, slots := (List.range 32).map fun n => if n % 2 = 1 then withScrc (beBytes 1 n ++ List.replicate 61 5) else []}
def fe : RingFrame := withHcrc {fr with enum := true, slots := List.replicate 31 (List.replicate 64 0) ++ [List.replicate 64 0xFF]}
def frH : RingFrame := {fr with hcrc := fr.hcrc ^^^ 1}
def frE_11 : RingFrame := {fr with endOk := false}
def frO : RingFrame := withHcrc {fr with origin := 8}
def tpn : State := tp.set F.STR_STAT_ADDR 0x3F
def pr (l : List Nat) : List Byte := l.map (BitVec.ofNat 8)
def rgE : State := run0.set (F.RNG_CFG_EN 15) 1 |>.set (F.RNG_WPTR_WIDX 15) 63
def rgF : State := rgE.set (F.RNG_STAT_COUNT 15) 1024
def cd1 : State := tp.strUp fun x => {x with ackSeq := 65535}
def mg : State := {run0.set F.STR_STAT_MGR 1 with pins := {run0.pins with own := true}}
def mg3 : State := ((mg.set F.MGR_CQHDR_CTYPE 3).set F.MGR_CQHDR_USE_TIME 1).set F.MGR_CQT2_NS 999999999
def mgq : State := mg.strUp fun x => {x with queue := List.replicate 16 ⟨0,1,2,[]⟩}

theorem witness_StringsPorts :
    ((sp.sys.inReset = false) ∧ (64 ≤ 65535 ∨ true = true)) ∧
    ((sp.sys.inReset = false) ∧ (64 ≤ 64 ∨ false = true)) ∧
    ((sp.sys.inReset = false) ∧ (63 < 64)) ∧
    ((sp.sys.inReset = false) ∧ (sp.str.forwarding = true) ∧ (12000 ≤ sp.str.upAge)) ∧
    ((sp.sys.inReset = false) ∧ (sp.str.forwarding = true) ∧ (12000 ≤ sp.str.downAge)) ∧
    ((spy.sys.inReset = false) ∧ (spy.str.upAge < 12000)) ∧
    ((spy.sys.inReset = false) ∧ (spy.str.downAge < 12000)) ∧
    (run0.sys.inReset = false) ∧
    ((run0.sys.inReset = false) ∧ (4 ≤ run0.str.quiet) ∧ (run0.conds.contains (G.STR_RING_LOST.ptr * 32 + G.STR_RING_LOST.bit) = false)) ∧
    ((spm.sys.inReset = false) ∧ (spm.str.master = true) ∧ (spm.str.held.getD 31 none = some 24000) ∧ (24000 ≤ 24000)) ∧
    ((spa.sys.inReset = false) ∧ (spa.str.master = false) ∧ (strAddr spa = 31) ∧ (12000 ≤ spa.str.quiet)) := by
  (repeat' apply And.intro) <;> decide +kernel

theorem witness_StringsFrames :
    ((mst.sys.inReset = false) ∧ (originates mst = true) ∧ (strAddr mst < 32) ∧ (mst.str.cur = none) ∧ (mst.str.own = []) ∧
      (mst.str.queue = []) ∧ (mst.time.block % 12000 ≠ 0) ∧ (mst.str.enumNext = false)) ∧
    ((mst2.sys.inReset = false) ∧ (originates mst2 = true) ∧ (strAddr mst2 < 32) ∧ (mst2.str.cur = none) ∧ (mst2.str.own = []) ∧
      (mst2.str.queue = []) ∧ (mst2.str.enumNext = true)) ∧
    ((tp.sys.inReset = false) ∧ (tp.str.forwarding = true) ∧ (hcrcOk fr = true) ∧ (fr.endOk = true) ∧ (takesPart tp = true) ∧
      (BitVec.toNat fr.cluster = tp.get F.STR_CFG_CLUSTER) ∧ (strAddr tp < 32) ∧ (fr.enum = false) ∧ (slotCommand fr.cmd = none) ∧
      (tp.str.master = false)) ∧
    ((tpn.sys.inReset = false) ∧ (tpn.str.forwarding = true) ∧ (hcrcOk fe = true) ∧ (fe.endOk = true) ∧ (takesPart tpn = true) ∧
      (BitVec.toNat fe.cluster = tpn.get F.STR_CFG_CLUSTER) ∧ (strAddr tpn = noAddr) ∧ (fe.enum = true) ∧ (fe.fold = false) ∧
      (slotCommand fe.cmd = none) ∧ (tpn.str.master = false) ∧ (List.find? (fun n => slotByte0 fe n == 255) (List.range 32) = some 31)) ∧
    ((tp.sys.inReset = false) ∧ (tp.str.forwarding = true) ∧ (hcrcOk frH = false ∨ frH.endOk = false)) ∧
    ((tp.sys.inReset = false) ∧ (tp.str.forwarding = true) ∧ (hcrcOk frE_11 = false ∨ frE_11.endOk = false)) ∧
    ((mst3.sys.inReset = false) ∧ (mst3.str.frameOut = true) ∧ (fr.origin = ownOrigin mst3) ∧ (hcrcOk fr = true) ∧ (fr.endOk = true) ∧
      (fr.enum = false) ∧ (fr.fold = false) ∧ (mst3.str.cur = none) ∧
      (true = true → ∀ (n : Nat), n < 32 → mst3.str.downGave.getD n false = false)) ∧
    ((mst3.sys.inReset = false) ∧ (mst3.str.frameOut = true) ∧ (fr.origin = ownOrigin mst3) ∧ (hcrcOk fr = true) ∧ (fr.endOk = true) ∧
      (fr.enum = false) ∧ (fr.fold = false) ∧ (mst3.str.cur = none) ∧
      (false = true → ∀ (n : Nat), n < 32 → mst3.str.downGave.getD n false = false)) ∧
    ((mst3.sys.inReset = false) ∧ (mst3.str.frameOut = true) ∧ (mst3.str.master = true) ∧
      (BitVec.toNat frO.origin < BitVec.toNat (ownOrigin mst3))) := by
  (repeat' apply And.intro) <;> decide +kernel

theorem witness_StringsCommands :
    ((cd1.sys.inReset = false) ∧ (cd1.str.ackSeq = 65535)) ∧
    ((run0.sys.inReset = false) ∧ (run0.str.ackSeq ≠ 65535) ∧ (beAt (pr [5]) 0 1 = 0 ∨ 4 < beAt (pr [5]) 0 1 ∨
      ((regwGroups (pr [5]) (beAt (pr [5]) 0 1)).any fun g => decide (45056 ≤ g.fst) || g.fst % 4 != 0) = true)) ∧
    ((run0.sys.inReset = false) ∧ (run0.str.ackSeq ≠ 65535) ∧ (beAt (pr [1, 176, 0]) 0 1 = 0 ∨ 4 < beAt (pr [1, 176, 0]) 0 1 ∨
      ((regwGroups (pr [1, 176, 0]) (beAt (pr [1, 176, 0]) 0 1)).any fun g => decide (45056 ≤ g.fst) || g.fst % 4 != 0) = true)) ∧
    ((run0.sys.inReset = false) ∧ (run0.str.ackSeq ≠ 65535) ∧
      (1 ≤ beAt (pr [4, 120, 16, 0, 0, 0, 1, 120, 16, 0, 0, 0, 2, 120, 16, 0, 0, 0, 3, 120, 16, 0, 0, 0, 4]) 0 1) ∧
      (beAt (pr [4, 120, 16, 0, 0, 0, 1, 120, 16, 0, 0, 0, 2, 120, 16, 0, 0, 0, 3, 120, 16, 0, 0, 0, 4]) 0 1 ≤ 4) ∧
      (((regwGroups (pr [4, 120, 16, 0, 0, 0, 1, 120, 16, 0, 0, 0, 2, 120, 16, 0, 0, 0, 3, 120, 16, 0, 0, 0, 4]) (beAt (pr [4, 120, 16,
      0, 0, 0, 1, 120, 16, 0, 0, 0, 2, 120, 16, 0, 0, 0, 3, 120, 16, 0, 0, 0,
      4]) 0 1)).any fun g => decide (45056 ≤ g.fst) || g.fst % 4 != 0) = false)) ∧
    ((rgE.sys.inReset = false) ∧ (rgE.str.ackSeq ≠ 65535) ∧ (15 = beAt (pr [15, 1, 2, 3, 4, 5, 6, 7, 8]) 0 1) ∧ (15 < 16) ∧
      (rgE.get (F.RNG_CFG_EN 15) = 1) ∧ (ringFull rgE 15 = false)) ∧
    ((rgF.sys.inReset = false) ∧ (rgF.str.ackSeq ≠ 65535) ∧ (15 = beAt (pr [15, 1, 2, 3, 4, 5, 6, 7, 8]) 0 1) ∧ (15 < 16) ∧
      (rgF.get (F.RNG_CFG_EN 15) = 1) ∧ (ringFull rgF 15 = true)) ∧
    ((rgF.sys.inReset = false) ∧ (rgF.str.ackSeq ≠ 65535) ∧ (16 ≤ beAt (pr [16]) 0 1)) ∧
    ((run0.sys.inReset = false) ∧ (run0.str.ackSeq ≠ 65535)) ∧
    ((tp.sys.inReset = false) ∧ (tp.str.ackSeq ≠ 65535) ∧ (strAddr tp ≠ noAddr) ∧
      (beAt (pr [16, 2, 3, 4, 5, 6, 7, 8, 9, 10, 11, 12, 13, 14, 15, 16, 17]) 0 1 ≤ strAddr tp) ∧
      (strAddr tp < beAt (pr [16, 2, 3, 4, 5, 6, 7, 8, 9, 10, 11, 12, 13, 14, 15, 16, 17]) 0 1 + 16)) ∧
    ((writable mg (pathAt mg Path.hostManager R.MGR_CQCTRL) R.MGR_CQCTRL = true) ∧ (bitN (1) 0 = true) ∧ (queueLength mg.str < 16) ∧
      (mg.get F.MGR_CQHDR_CTYPE ≠ 3)) ∧
    ((writable mg3 (pathAt mg3 Path.hostManager R.MGR_CQCTRL) R.MGR_CQCTRL = true) ∧ (bitN (1) 0 = true) ∧ (queueLength mg3.str < 16) ∧
      (mg3.get F.MGR_CQHDR_CTYPE = 3) ∧ (mg3.get F.MGR_CQHDR_USE_TIME = 1)) ∧
    ((writable mgq (pathAt mgq Path.hostManager R.MGR_CQCTRL) R.MGR_CQCTRL = true) ∧ (bitN (1) 0 = true) ∧ (16 ≤ queueLength mgq.str)) ∧
    (readable mgq Path.hostManager (R.MGR_NODE (16 * 31)) = true) ∧
    (readable mgq Path.hostManager R.MGR_CQRES0 = true) := by
  (repeat' apply And.intro) <;> decide +kernel

def tst : State := (run0.set F.SYS_LC_STATE 0)
def rtd : State := run0.set F.SYS_BOOT_BSTATE 6
def fl1 : State := run0.wr 0x84 0x1F
def fabFlagRow : Row := { base := 0x84, w1c := 31 }
def ha (n : Nat) : State := (run0.set F.HST_STAT_ADDR 7).hstUp fun h => {h with phase := n, path := .hostManager}
def hac (n : Nat) : State := (ha n).hstUp fun h => {h with committing := true}
def hag (n : Nat) : State := ((ha n).set F.HST_GRP_GEN 1 |>.set F.HST_GRP_GMASK 0x70).set F.HST_GRP_GADDR 0x60
def hagc : State := (hag 1).hstUp fun h => {h with committing := true}
def ham : State := {(ha 1).set F.STR_STAT_MGR 1 with pins := {run0.pins with own := true}}
def hto : State := (ha 6).hstUp fun h => {h with timedOut := true}
def hb (n : Nat) : State := (((ha n).set F.HST_STAT_PTR 0xFFFF)).hstUp fun h => {h with ptrHigh := 255, count := 31, fetched := 0x12345678}
def hb3 : State := (hb 4).hstUp fun h => {h with lanes := [(0xFFFC, [(2,7),(1,7),(0,7)])]}
def hbo : State := (hb 4).hstUp fun h => {h with count := 32}
def hbr : State := ((ha 5).set F.HST_STAT_PTR 0x82).hstUp fun h => {h with fetched := 0x12345678, whole := true}
def hf : State := (hb 4).hstUp fun h => {h with formed := [(0x80, 1)]}
def hp : State := (hb 4).hstUp fun h => {h with lanes := [(0x80, [(0, 1)])]}
def hcr : State := (hac 0).hstUp fun h => {h with resetDue := true}
def hs2 : State := {(hb 4).set F.TS_STAT_DEV_SAFE_NOW 1 with conds := []}
def hrq : State := (((ha 0).set F.HST_REQ_REQ_EN 1).set F.HST_REQ_SRC_EN 0x7F).set F.HST_REQST_SOFT 1
def hrc : State := hrq.hstUp fun h => {h with request := true}

theorem witness_RegisterAccesses :
    ((128 ∈ [R.FAB_CFG, R.BKG_CFG, R.HST_GRP, R.VENT_TAMB, R.AIN_TMON, R.MGR_CQHDR, R.MGR_CQT0, R.MGR_CQT1, R.MGR_CQDATA0,
      R.MGR_CQDATA7]) ∧ (writable run0 Path.hostPrimary (128) = true)) ∧
    ((47164 ∈ [R.FAB_CFG, R.BKG_CFG, R.HST_GRP, R.VENT_TAMB, R.AIN_TMON, R.MGR_CQHDR, R.MGR_CQT0, R.MGR_CQT1, R.MGR_CQDATA0,
      R.MGR_CQDATA7]) ∧ (writable run0 Path.mgmtCore (47164) = true)) ∧
    ((writable rtd Path.hostPrimary (128) = false) ∧ (testRegister rtd Path.hostPrimary (128) = false)) ∧
    ((61440 ≤ 61440) ∧ (lcState tst = lcBlank) ∧ (tst.sys.inReset = false)) ∧
    ((rowOf (132) = some (fabFlagRow, 0)) ∧ (writable fl1 Path.hostPrimary (132) = true)) ∧
    ((rowOf (132) = some (fabFlagRow, 0)) ∧ (writable fl1 Path.hostPrimary (132) = true) ∧ (4 < 32) ∧ (bitN fabFlagRow.w1c 4 = true) ∧
      (flagAt (132) 4 = some G.FAB_PORT_DOWN)) := by
  (repeat' apply And.intro) <;> decide +kernel

theorem witness_HostAddresses :
    (((ha 0).sys.inReset = false) ∧ ((ha 0).hst.request = false) ∧ ((ha 0).hst.phase = hbIdle ∨ (ha 0).hst.timedOut = true ∧
      (ha 0).hst.phase = hbIgnore)) ∧
    ((hto.sys.inReset = false) ∧ (hto.hst.request = false) ∧ (hto.hst.phase = hbIdle ∨ hto.hst.timedOut = true ∧
      hto.hst.phase = hbIgnore)) ∧
    (((ha 1).sys.inReset = false) ∧ ((ha 1).hst.phase = hbAddress) ∧ (ready (ha 1) = true) ∧ ((ha 1).hst.committing = false) ∧
      (hostAddr (ha 1) (158 / 2) = HostAddr.primary) ∧ (158 % 2 = 0)) ∧
    (((ha 1).sys.inReset = false) ∧ ((ha 1).hst.phase = hbAddress) ∧ (ready (ha 1) = true) ∧ ((ha 1).hst.committing = false) ∧
      (hostAddr (ha 1) (159 / 2) = HostAddr.primary) ∧ (159 % 2 = 1) ∧ (islandDown (ha 1) (hstPtr (ha 1) / 4 * 4) = false) ∧
      ((checkWord 0).fst = Check.good)) ∧
    (((ha 1).sys.inReset = false) ∧ ((ha 1).hst.phase = hbAddress) ∧ (ready (ha 1) = true) ∧ ((ha 1).hst.committing = false) ∧
      (hostAddr (ha 1) (159 / 2) = HostAddr.primary) ∧ (159 % 2 = 1) ∧ (islandDown (ha 1) (hstPtr (ha 1) / 4 * 4) = false) ∧
      ((checkWord 7).fst = Check.ue)) ∧
    (((hac 1).sys.inReset = false) ∧ ((hac 1).hst.phase = hbAddress) ∧ (ready (hac 1) = true) ∧ ((hac 1).hst.committing = true) ∧
      (hostAddr (hac 1) (158 / 2) = HostAddr.primary)) ∧
    (((hag 1).sys.inReset = false) ∧ ((hag 1).hst.phase = hbAddress) ∧ (ready (hag 1) = true) ∧ ((hag 1).hst.committing = false) ∧
      (hostAddr (hag 1) (222 / 2) = HostAddr.group) ∧ (222 % 2 = 0)) ∧
    (((hag 1).sys.inReset = false) ∧ ((hag 1).hst.phase = hbAddress) ∧ (ready (hag 1) = true) ∧ ((hag 1).hst.committing = false) ∧
      (hostAddr (hag 1) (223 / 2) = HostAddr.group) ∧ (223 % 2 = 1)) ∧
    ((hagc.sys.inReset = false) ∧ (hagc.hst.phase = hbAddress) ∧ (ready hagc = true) ∧ (hagc.hst.committing = true) ∧
      (hostAddr hagc (223 / 2) = HostAddr.group) ∧ (223 % 2 = 1)) ∧
    ((hagc.sys.inReset = false) ∧ (hagc.hst.phase = hbAddress) ∧ (ready hagc = true) ∧ (hagc.hst.committing = true) ∧
      (hostAddr hagc (222 / 2) = HostAddr.group) ∧ (222 % 2 = 0)) ∧
    ((ham.sys.inReset = false) ∧ (ham.hst.phase = hbAddress) ∧ (ready ham = true) ∧ (ham.hst.committing = false) ∧
      (hostAddr ham (126 / 2) = HostAddr.manager) ∧ (managerAnswers ham = true) ∧ (126 % 2 = 0)) ∧
    (((ha 1).sys.inReset = false) ∧ ((ha 1).hst.phase = hbAddress) ∧ (ready (ha 1) = false ∨ hostAddr (ha 1) (126 / 2) = HostAddr.other ∨
      hostAddr (ha 1) (126 / 2) = HostAddr.manager ∧ managerAnswers (ha 1) = false)) ∧
    (((ha 1).sys.inReset = false) ∧ ((ha 1).hst.phase = hbAddress) ∧ (ready (ha 1) = false ∨ hostAddr (ha 1) (0 / 2) = HostAddr.other ∨
      hostAddr (ha 1) (0 / 2) = HostAddr.manager ∧ managerAnswers (ha 1) = false)) := by
  (repeat' apply And.intro) <;> decide +kernel

theorem witness_HostBytes :
    (((hb 2).sys.inReset = false) ∧ ((hb 2).hst.phase = hbPtrHigh)) ∧
    (((hb 3).sys.inReset = false) ∧ ((hb 3).hst.phase = hbPtrLow)) ∧
    (((hb 4).sys.inReset = false) ∧ ((hb 4).hst.phase = hbData) ∧ ((hb 4).hst.count < 32) ∧ (65535 = hstPtr (hb 4)) ∧
      (∀ (e : Nat × List (Nat × Byte)), e ∈ (hb 4).hst.lanes → e.fst ≠ 65535 / 4 * 4)) ∧
    ((hb3.sys.inReset = false) ∧ (hb3.hst.phase = hbData) ∧ (hb3.hst.count < 32) ∧ (65535 = hstPtr hb3) ∧
      (List.find? (fun e => e.fst == 65535 / 4 * 4) hb3.hst.lanes = some (65535 / 4 * 4, [(2, 7), (1, 7), (0, 7)])) ∧
      ((fillLane [(2, 7), (1, 7), (0, 7)] (65535 % 4) 255).length = 4)) ∧
    ((hbo.sys.inReset = false) ∧ (hbo.hst.phase = hbData) ∧ (32 ≤ hbo.hst.count) ∧ (hbo.hst.isOver = false)) ∧
    (((hb 5).sys.inReset = false) ∧ ((hb 5).hst.phase = hbRead)) ∧
    ((hbr.sys.inReset = false) ∧ (hbr.hst.phase = hbRead)) := by
  (repeat' apply And.intro) <;> decide +kernel

theorem witness_HostTransactions :
    ((hf.sys.inReset = false) ∧ (hf.hst.lanes = []) ∧ (hf.hst.formed ≠ [])) ∧
    ((hf.sys.inReset = false) ∧ (hf.hst.lanes = []) ∧ (hf.hst.formed ≠ []) ∧ (hf.hst.phase ≠ hbDeaf) ∧ (hf.hst.phase ≠ hbIdle)) ∧
    ((hp.sys.inReset = false) ∧ (hp.hst.lanes = [(128, [(0, 1)])]) ∧ (hp.hst.formed = [])) ∧
    (((hb 4).sys.inReset = false) ∧ ((hb 4).hst.lanes = []) ∧ ((hb 4).hst.formed = []) ∧ ((hb 4).hst.phase = hbData)) ∧
    (((hac 0).sys.inReset = false) ∧ ((hac 0).hst.committing = true) ∧ ((hac 0).hst.commit = []) ∧ ((hac 0).hst.resetDue = false)) ∧
    ((hcr.sys.inReset = false) ∧ (hcr.hst.committing = true) ∧ (hcr.hst.commit = []) ∧ (hcr.hst.resetDue = true)) ∧
    ((hs2.sys.inReset = false) ∧ (hstPhase hs2 ≠ 1) ∧ (hs2.hst.phase ≠ hbIdle) ∧ (hs2.hst.phase ≠ hbDeaf) ∧ (hs2.conds = [])) ∧
    ((run0.sys.inReset = false) ∧ (hstPhase run0 = 1)) ∧
    ((hrq.sys.inReset = false) ∧ (hrq.get F.HST_REQ_REQ_EN = 1) ∧ (requestPending hrq ≠ 0) ∧ (hrq.hst.phase = hbIdle)) ∧
    (hrc.sys.inReset = false) ∧
    ((hrc.sys.inReset = false) ∧ (hrc.hst.request = true)) := by
  (repeat' apply And.intro) <;> decide +kernel

def frR : FabReq := { master := 0, addr := 0x00100040, write := false, beats := 1, data := [], strobes := [], waited := 0 }
def frW : FabReq := { frR with write := true, data := [0x1234], strobes := [0xFFFF] }
def frE_13 : FabReq := { frR with master := 2, addr := 0x40000000 }
def frM (n : Nat) : FabReq := { frR with master := 3, waited := n }
def blkS : State := run0.set F.SYS_LC_STATE 0
def frTst : FabReq := { frW with master := 6, addr := 0x2000F000 }
def frRg : FabReq := { frR with addr := 0x20000004 }
def frQ : FabReq := { frR with addr := 0x30000000, beats := 2 }
def frR3 : FabReq := { frR with addr := 0x0017FFF0, beats := 3 }
def frW3 : FabReq := { frW with data := [1, 2, 3], strobes := [] }
def fDn : State := run0.set F.FAB_PORT_DOWN (2 ^ 3)
def txnOf (r : FabReq) : FabTxn := { port := 3, req := r, done := 1 }
def fOut (r : FabReq) : State := run0.fabUp fun f => { f with out := f.out.set r.master (some { port := 3, req := r, done := 1 }) }
def fQb : State := (fOut frQ).bkgUp fun b => { b with ops := [.erase 0] }

theorem witness_FabricGrants :
    ((List.filter (requestStands blkS 13) [frTst]).any (reqTests blkS) = true) ∧
    (winner 6 [frM 0, frR] = some frR) ∧
    ((run0.sys.inReset = false) ∧ ((List.filter (requestStands run0 3) [frR, frM 0]).any (reqTests run0) = false) ∧
      (bitN (run0.get F.FAB_PORT_DOWN) 3 = false) ∧ (portBusy run0 3 = false) ∧
      (winner (run0.fab.rr.getD 3 6) (List.filter (requestStands run0 3) [frR, frM 0]) = some frR) ∧ (reqTarget run0 frR ≠ 0) ∧
      (frR.write = false)) ∧
    ((run0.sys.inReset = false) ∧ ((List.filter (requestStands run0 3) [frW, frM 0]).any (reqTests run0) = false) ∧
      (bitN (run0.get F.FAB_PORT_DOWN) 3 = false) ∧ (portBusy run0 3 = false) ∧
      (winner (run0.fab.rr.getD 3 6) (List.filter (requestStands run0 3) [frW, frM 0]) = some frW) ∧ (1 ≤ reqTarget run0 frW) ∧
      (reqTarget run0 frW ≤ 5) ∧ (frW.write = true) ∧ (frW.master ≠ 1) ∧ (frW.strobes.getD 0 65535 = 65535) ∧ (frW.data ≠ []) ∧
      (fabWord (BitVec.toNat frW.addr) = (40, 4))) ∧
    ((run0.sys.inReset = false) ∧ ((List.filter (requestStands run0 3) [frW, frM 0]).any (reqTests run0) = false) ∧
      (bitN (run0.get F.FAB_PORT_DOWN) 3 = false) ∧ (portBusy run0 3 = false) ∧
      (winner (run0.fab.rr.getD 3 6) (List.filter (requestStands run0 3) [frW, frM 0]) = some frW) ∧ (reqTarget run0 frW ≠ 0) ∧
      (frW.write = true)) ∧
    ((run0.sys.inReset = false) ∧ ((List.filter (requestStands run0 0) [frE_13]).any (reqTests run0) = false) ∧
      (bitN (run0.get F.FAB_PORT_DOWN) 0 = false) ∧ (portBusy run0 0 = false) ∧
      (winner (run0.fab.rr.getD 0 6) (List.filter (requestStands run0 0) [frE_13]) = some frE_13) ∧ (reqTarget run0 frE_13 = 0)) ∧
    (((fOut frR).sys.inReset = false) ∧ ((List.filter (requestStands (fOut frR) 3) [frM 0]).any (reqTests (fOut frR)) = false) ∧
      (bitN ((fOut frR).get F.FAB_PORT_DOWN) 3 = false) ∧ (portBusy (fOut frR) 3 = true)) ∧
    ((fDn.sys.inReset = false) ∧ ((List.filter (requestStands fDn 3) [frR]).any (reqTests fDn) = false) ∧
      (bitN (fDn.get F.FAB_PORT_DOWN) 3 = true) ∧ (List.filter (requestStands fDn 3) [frR] = [frR])) := by
  (repeat' apply And.intro) <;> decide +kernel

theorem witness_FabricResponses :
    (((fOut frR).sys.inReset = false) ∧ ((fOut frR).fab.out.getD 0 none = some (txnOf frR)) ∧ ((txnOf frR).req.write = false) ∧
      ((txnOf frR).req.beats = 1) ∧ (1 ≤ reqTarget (fOut frR) (txnOf frR).req) ∧ (reqTarget (fOut frR) (txnOf frR).req ≤ 5) ∧
      (fabWord (BitVec.toNat (txnOf frR).req.addr) = (40, 4)) ∧ (errAt (fOut frR) (errKey 40 (physWord (fOut frR) 40 4)) = 0)) ∧
    (((fOut frR).sys.inReset = false) ∧ ((fOut frR).fab.out.getD 0 none = some (txnOf frR)) ∧ ((txnOf frR).req.write = false) ∧
      ((txnOf frR).req.beats = 1) ∧ (1 ≤ reqTarget (fOut frR) (txnOf frR).req) ∧ (reqTarget (fOut frR) (txnOf frR).req ≤ 5) ∧
      (fabWord (BitVec.toNat (txnOf frR).req.addr) = (40, 4)) ∧ (errAt (fOut frR) (errKey 40 (physWord (fOut frR) 40 4)) = 0) ∧
      ((checkWord 1).fst = Check.ce1 ∨ (checkWord 1).fst = Check.ce2)) ∧
    (((fOut frR).sys.inReset = false) ∧ ((fOut frR).fab.out.getD 0 none = some (txnOf frR)) ∧ ((txnOf frR).req.write = false) ∧
      ((txnOf frR).req.beats = 1) ∧ (1 ≤ reqTarget (fOut frR) (txnOf frR).req) ∧ (reqTarget (fOut frR) (txnOf frR).req ≤ 5) ∧
      (fabWord (BitVec.toNat (txnOf frR).req.addr) = (40, 4)) ∧ (errAt (fOut frR) (errKey 40 (physWord (fOut frR) 40 4)) = 0) ∧
      ((checkWord 7).fst = Check.ue)) ∧
    (((fOut frR3).sys.inReset = false) ∧ ((fOut frR3).fab.out.getD 0 none = some (txnOf frR3)) ∧ ((txnOf frR3).req.write = false) ∧
      (1 ≤ reqTarget (fOut frR3) (txnOf frR3).req) ∧ (reqTarget (fOut frR3) (txnOf frR3).req ≤ 5) ∧
      (∀ (i : Nat), i < beatCount (txnOf frR3).req → errAt (fOut frR3) (errKey (fabWord (BitVec.toNat (txnOf frR3).req.addr + 16 * i)).fst (physWord (fOut frR3) (fabWord (BitVec.toNat (txnOf frR3).req.addr + 16 * i)).fst (fabWord (BitVec.toNat (txnOf frR3).req.addr + 16 * i)).snd)) = 0)) ∧
    (((fOut frRg).sys.inReset = false) ∧ ((fOut frRg).fab.out.getD 0 none = some (txnOf frRg)) ∧ ((txnOf frRg).req.write = false) ∧
      (reqTarget (fOut frRg) (txnOf frRg).req = 13) ∧ ((txnOf frRg).req.beats = 1) ∧
      (4 = BitVec.toNat (txnOf frRg).req.addr % 65536 / 4 * 4)) ∧
    (((fOut frQ).sys.inReset = false) ∧ ((fOut frQ).fab.out.getD 0 none = some (txnOf frQ)) ∧ ((txnOf frQ).req.write = false) ∧
      (reqTarget (fOut frQ) (txnOf frQ).req = 14) ∧ (flashBusy (fOut frQ) = false)) ∧
    ((fQb.sys.inReset = false) ∧ (fQb.fab.out.getD 0 none = some (txnOf frQ)) ∧ ((txnOf frQ).req.write = false) ∧
      ((txnOf frQ).req.master = 0) ∧ (reqTarget fQb (txnOf frQ).req = 14) ∧ (flashBusy fQb = true)) ∧
    (((fOut frW3).sys.inReset = false) ∧ ((fOut frW3).fab.out.getD 0 none = some (txnOf frW3)) ∧ ((txnOf frW3).req.write = true) ∧
      (1 ≤ reqTarget (fOut frW3) (txnOf frW3).req) ∧ (reqTarget (fOut frW3) (txnOf frW3).req ≤ 5) ∧
      (∀ (i : Nat), i < 8 → (txnOf frW3).req.strobes.getD i 65535 = 65535)) ∧
    ((run0.sys.inReset = false) ∧ (run0.fab.out.getD 0 none = none)) ∧
    (((fOut frW).sys.inReset = false) ∧ ((fOut frW).fab.out.getD 0 none = some (txnOf frW)) ∧ ((txnOf frW).req.write = true) ∧
      (beatCount (txnOf frW).req ≤ (txnOf frW).done)) ∧
    (((fOut frR).sys.inReset = false) ∧
      (List.findSome? (fun o => match o with | some x => if x.port = 3 then some x else none | none => none) (fOut frR).fab.out = some (txnOf frR)) ∧ (bitN ((fOut frR).get F.FAB_PORT_DOWN) 3 = false)) ∧
    ((fDn.sys.inReset = false) ∧ (bitN (fDn.get F.FAB_PORT_DOWN) 3 = true)) ∧
    (((fOut frR).sys.inReset = false) ∧ (resettable 0 = true) ∧ ((fOut frR).fab.out.getD 0 none = some (txnOf frR)) ∧
      ((txnOf frR).req.write = false)) ∧
    (readable run0 Path.hostPrimary R.FAB_ELOG0 = true) := by
  (repeat' apply And.intro) <;> decide +kernel

def rE (r : Nat) : State := run0.set (F.RNG_CFG_EN r) 1
def rFull (r : Nat) : State := (rE r).set (F.RNG_STAT_COUNT r) (ringSize run0 r)
def tOne (o : Nat) : State := ((((rE 20).set (F.RNG_CFG_OWNER 20) o).putBank (ringKey 20 0 0) 0x00070104).putBank (ringKey 20 0 3) 9).set (F.RNG_STAT_COUNT 20) 1
def tErr (o : Nat) : State := setErr (tOne o) (ringErrKey 20 ((tOne o).get (F.RNG_RPTR_RIDX 20))) 7
def tHeld : State := (tOne 1).ringUp 20 fun x => { x with heldH := true, latchH := [1, 2, 3, 9] }
def rNo : State := run0.set (F.RNG_CFG_EN 2) 0
def cE (w0 w1 w2 w3 : Word) : State := ((((((rE 2).putBank (ringKey 2 0 0) w0).putBank (ringKey 2 0 1) w1).putBank (ringKey 2 0 2) w2).putBank (ringKey 2 0 3) w3).set (F.RNG_STAT_COUNT 2) 1)
def cG : State := cE 0x00050102 0x12000000 0x12340000 0
def cG2 : State := cE 0x00050202 0x12000000 0x00341210 7
def cBad : State := cE 0x00050102 0x00000000 0x12340000 0
def cBad2 : State := cE 0x00050202 0x12000000 0x00340000 7
def cOth : State := cE 0x00050303 0 0 0
def cLost : State := setErr cG (ringErrKey 2 (cG.get (F.RNG_RPTR_RIDX 2))) 7
def tLoss : State := (rE 18).ringUp 18 fun x => { x with lost := 3, lossSeq := 2 }
def cF : State := ((cE 0x00050302 0 0 0).set (F.RNG_CFG_EN 18) 1).set (F.RNG_RPTR_RSEQ 2) 5
def tFull : State := ((rE 18).set (F.RNG_STAT_COUNT 18) (ringSize run0 18))
def tOwn (s : State) : State := { s with pins := { s.pins with own := true } }
def wDue : State := run0.bkgUp fun b => { b with telDue := true }
def wDn : State := wDue.set F.FAB_PORT_DOWN 8

theorem witness_RingWindow :
    ((R.RNG_WDATA0 2 + 4 = R.RNG_WDATA0 2 + 4 * 1) ∧
      (writable run0 (pathAt run0 Path.hostPrimary (R.RNG_WDATA0 2 + 4)) (R.RNG_WDATA0 2 + 4) = true)) ∧
    ((writable (rE 2) (pathAt (rE 2) Path.hostPrimary (R.RNG_WDATA3 2)) (R.RNG_WDATA3 2) = true) ∧ (2 < 16) ∧
      ((rE 2).get (F.RNG_CFG_EN 2) = 1) ∧ (ringFull (rE 2) 2 = false) ∧
      ([0, 0, 0, 85] = (if hostSide (pathAt (rE 2) Path.hostPrimary (R.RNG_WDATA3 2)) = true then ((rE 2).ring 2).stageH else ((rE 2).ring 2).stageF).set 3 85)) ∧
    ((writable rNo (pathAt rNo Path.hostPrimary (R.RNG_WDATA3 2)) (R.RNG_WDATA3 2) = true) ∧ (2 < 16) ∧ (rNo.get (F.RNG_CFG_EN 2) = 0 ∨
      ringFull rNo 2 = true)) ∧
    ((writable (rFull 2) (pathAt (rFull 2) Path.hostPrimary (R.RNG_WDATA3 2)) (R.RNG_WDATA3 2) = true) ∧ (2 < 16) ∧
      ((rFull 2).get (F.RNG_CFG_EN 2) = 0 ∨ ringFull (rFull 2) 2 = true)) ∧
    ((writable (rE 20) (pathAt (rE 20) Path.hostPrimary (R.RNG_WDATA3 20)) (R.RNG_WDATA3 20) = true) ∧ (16 ≤ 20) ∧
      (hostSide (pathAt (rE 20) Path.hostPrimary (R.RNG_WDATA3 20)) = true)) ∧
    ((writable (rE 20) (pathAt (rE 20) Path.mgmtCore (R.RNG_WDATA3 20)) (R.RNG_WDATA3 20) = true) ∧ (16 ≤ 20) ∧
      (hostSide (pathAt (rE 20) Path.mgmtCore (R.RNG_WDATA3 20)) = false) ∧ ((rE 20).get (F.RNG_CFG_EN 20) = 1) ∧
      (ringFull (rE 20) 20 = false) ∧ (((rE 20).ring 20).lost = 0) ∧ ([0, 0, 0, 85] = ((rE 20).ring 20).stageF.set 3 85)) ∧
    ((readable (tOne 1) Path.hostPrimary (R.RNG_RDATA0 20) = true) ∧ (16 ≤ 20) ∧
      (ownsRing (tOne 1) (hostSide Path.hostPrimary) 20 = true) ∧ (ringCount (tOne 1) 20 ≠ 0) ∧
      ((checkWord (errAt (tOne 1) (ringErrKey 20 ((tOne 1).get (F.RNG_RPTR_RIDX 20))))).fst ≠ Check.ue)) ∧
    ((readable (tErr 1) Path.hostPrimary (R.RNG_RDATA0 20) = true) ∧ (16 ≤ 20) ∧
      (ownsRing (tErr 1) (hostSide Path.hostPrimary) 20 = true) ∧ (ringCount (tErr 1) 20 ≠ 0) ∧
      ((checkWord (errAt (setErr (tOne 1) (ringErrKey 20 ((tOne 1).get (F.RNG_RPTR_RIDX 20))) 7) (ringErrKey 20 ((tOne 1).get (F.RNG_RPTR_RIDX 20))))).fst = Check.ue)) ∧
    ((readable (tOne 1) Path.hostPrimary (R.RNG_RDATA0 20) = true) ∧ (16 ≤ 20) ∧
      (ownsRing (tOne 1) (hostSide Path.hostPrimary) 20 = true) ∧ (ringCount (tOne 1) 20 ≠ 0) ∧
      (errAt (tOne 1) (ringErrKey 20 ((tOne 1).get (F.RNG_RPTR_RIDX 20))) = 0)) ∧
    ((readable (rE 20) Path.mgmtCore (R.RNG_RDATA0 20) = true) ∧ (16 ≤ 20) ∧ (ownsRing (rE 20) (hostSide Path.mgmtCore) 20 = true) ∧
      (ringCount (rE 20) 20 = 0)) ∧
    ((readable (tOne 0) Path.hostPrimary (R.RNG_RDATA0 20) = true) ∧ (16 ≤ 20) ∧
      (ownsRing (tOne 0) (hostSide Path.hostPrimary) 20 = false)) ∧
    ((readable run0 Path.hostPrimary (R.RNG_RDATA0 2) = true) ∧ (2 < 16)) ∧
    ((readable tHeld Path.hostPrimary (R.RNG_RDATA3 20) = true) ∧ (16 ≤ 20) ∧ (ownsRing tHeld (hostSide Path.hostPrimary) 20 = true) ∧
      ((if hostSide Path.hostPrimary = true then (tHeld.ring 20).heldH else (tHeld.ring 20).heldF) = true) ∧ (ringCount tHeld 20 ≠ 0) ∧
      ((tHeld.ring 20).lost = 0)) ∧
    ((readable (tOne 1) Path.hostPrimary (R.RNG_RDATA3 20) = true) ∧ (20 < 16 ∨
      ownsRing (tOne 1) (hostSide Path.hostPrimary) 20 = false ∨
      (if hostSide Path.hostPrimary = true then ((tOne 1).ring 20).heldH else ((tOne 1).ring 20).heldF) = false)) ∧
    ((reached (rE 2) (R.RNG_CFG 2) = true) ∧ ((rE 2).get (F.RNG_CFG_EN 2) = 1 ∧ sizeOfCode (1 % 8) ≠ ringSize (rE 2) 2 ∨
      24576 < sizeSum (rE 2) 2 (1 % 8))) ∧
    ((reached rNo (R.RNG_CFG 2) = true) ∧ (rNo.get (F.RNG_CFG_EN 2) = 0) ∧ (sizeSum rNo 2 (1 % 8) ≤ 24576) ∧ (1 < 2 ^ 31)) ∧
    ((reached rNo (R.RNG_CFG 2) = true) ∧ (rNo.get (F.RNG_CFG_EN 2) = 0) ∧ (sizeSum rNo 2 (2197815297 % 8) ≤ 24576) ∧
      (2 ^ 31 ≤ 2197815297) ∧ ((rNo.ring 2).lost = 0)) ∧
    ((reached (rFull 2) (R.RNG_CFG 2) = true) ∧ ((rFull 2).get (F.RNG_CFG_EN 2) = 1) ∧ (sizeOfCode (2 % 8) = ringSize (rFull 2) 2) ∧
      (sizeSum (rFull 2) 2 (2 % 8) ≤ 24576) ∧ (2 < 2 ^ 31)) := by
  (repeat' apply And.intro) <;> first | exact ueAt _ _ | decide +kernel

theorem witness_RingEntries :
    ((cG.sys.inReset = false) ∧ (0 < cmdEligible cG 2) ∧ (cmdHeadType cG 2 = 1) ∧
      (errAt cG (ringErrKey 2 (cG.get (F.RNG_RPTR_RIDX 2))) = 0) ∧
      ([327938, 301989888, 305397760, 0] = List.map (fun w => cG.bank (ringKey 2 (cG.get (F.RNG_RPTR_RIDX 2)) w)) (List.range 4)) ∧
      (BitVec.toNat (([327938, 301989888, 305397760, 0] : List Word).getD 0 0) % 256 = 2) ∧
      (cmdPointer 2 (BitVec.toNat (([327938, 301989888, 305397760, 0] : List Word).getD 1 0) / 65536) = true)) ∧
    ((cG2.sys.inReset = false) ∧ (0 < cmdEligible cG2 2) ∧ (cmdHeadType cG2 2 = 2) ∧
      (errAt cG2 (ringErrKey 2 (cG2.get (F.RNG_RPTR_RIDX 2))) = 0) ∧
      ([328194, 301989888, 3412496, 7] = List.map (fun w => cG2.bank (ringKey 2 (cG2.get (F.RNG_RPTR_RIDX 2)) w)) (List.range 4)) ∧
      (BitVec.toNat (([328194, 301989888, 3412496, 7] : List Word).getD 0 0) % 256 = 2) ∧
      (cmdPointer 2 (BitVec.toNat (([328194, 301989888, 3412496, 7] : List Word).getD 1 0) / 65536) = true) ∧
      (cmdPointer 2 (BitVec.toNat (([328194, 301989888, 3412496, 7] : List Word).getD 2 0) % 65536) = true)) ∧
    ((cBad.sys.inReset = false) ∧ (0 < cmdEligible cBad 2) ∧ (cmdHeadType cBad 2 = 1) ∧
      (errAt cBad (ringErrKey 2 (cBad.get (F.RNG_RPTR_RIDX 2))) = 0) ∧
      ([327938, 0, 305397760, 0] = List.map (fun w => cBad.bank (ringKey 2 (cBad.get (F.RNG_RPTR_RIDX 2)) w)) (List.range 4)) ∧
      (BitVec.toNat (([327938, 0, 305397760, 0] : List Word).getD 0 0) % 256 = 2) ∧
      (cmdPointer 2 (BitVec.toNat (([327938, 0, 305397760, 0] : List Word).getD 1 0) / 65536) = false)) ∧
    ((cF.sys.inReset = false) ∧ (0 < cmdEligible cF 2) ∧ (cmdHeadType cF 2 = 3) ∧
      (errAt cF (ringErrKey 2 (cF.get (F.RNG_RPTR_RIDX 2))) = 0) ∧
      ([328450, 0, 0, 0] = List.map (fun w => cF.bank (ringKey 2 (cF.get (F.RNG_RPTR_RIDX 2)) w)) (List.range 4)) ∧
      (BitVec.toNat (([328450, 0, 0, 0] : List Word).getD 0 0) % 256 = 2) ∧ (cF.get (F.RNG_CFG_EN (16 + 2)) = 1) ∧
      (ringFull cF (16 + 2) = false) ∧ ((cF.ring (16 + 2)).lost = 0)) ∧
    ((cBad2.sys.inReset = false) ∧ (0 < cmdEligible cBad2 2) ∧ (cmdHeadType cBad2 2 = 2) ∧
      (errAt cBad2 (ringErrKey 2 (cBad2.get (F.RNG_RPTR_RIDX 2))) = 0) ∧
      ([328194, 301989888, 3407872, 7] = List.map (fun w => cBad2.bank (ringKey 2 (cBad2.get (F.RNG_RPTR_RIDX 2)) w)) (List.range 4)) ∧
      (BitVec.toNat (([328194, 301989888, 3407872, 7] : List Word).getD 0 0) % 256 = 2) ∧
      (cmdPointer 2 (BitVec.toNat (([328194, 301989888, 3407872, 7] : List Word).getD 1 0) / 65536) = false ∨
      cmdPointer 2 (BitVec.toNat (([328194, 301989888, 3407872, 7] : List Word).getD 2 0) % 65536) = false)) ∧
    ((cOth.sys.inReset = false) ∧ (0 < cmdEligible cOth 2) ∧ (cmdHeadType cOth 2 = 3) ∧ (3 = 1 ∧ Instr.fence 2 = Instr.regw 2 ∨ 3 = 2 ∧
      Instr.fence 2 = Instr.regw2 2 ∨ 3 = 3 ∧ Instr.fence 2 = Instr.fence 2) ∧
      (errAt cOth (ringErrKey 2 (cOth.get (F.RNG_RPTR_RIDX 2))) = 0) ∧
      (BitVec.toNat (cOth.bank (ringKey 2 (cOth.get (F.RNG_RPTR_RIDX 2)) 0)) % 256 ≠ 2)) ∧
    ((cLost.sys.inReset = false) ∧ (0 < cmdEligible cLost 2) ∧ (cmdHeadType cLost 2 = 1) ∧ (1 = 1 ∧ Instr.regw 2 = Instr.regw 2 ∨ 1 = 2 ∧
      Instr.regw 2 = Instr.regw2 2 ∨ 1 = 3 ∧ Instr.regw 2 = Instr.fence 2) ∧
      ((checkWord (errAt (setErr cG (ringErrKey 2 (cG.get (F.RNG_RPTR_RIDX 2))) 7) (ringErrKey 2 (cG.get (F.RNG_RPTR_RIDX 2))))).fst = Check.ue)) ∧
    ((run0.sys.inReset = false) ∧ (cmdEligible run0 2 = 0)) ∧
    (((rE 18).sys.inReset = false) ∧ ((rE 18).get (F.RNG_CFG_EN (16 + 2)) = 1) ∧ (ringFull (rE 18) (16 + 2) = false) ∧
      (((rE 18).ring (16 + 2)).lost = 0)) ∧
    ((tLoss.sys.inReset = false) ∧ (tLoss.get (F.RNG_CFG_EN (16 + 2)) = 1) ∧ ((tLoss.ring (16 + 2)).lost ≠ 0) ∧
      (ringCount tLoss (16 + 2) + 1 < ringSize tLoss (16 + 2))) ∧
    ((tFull.sys.inReset = false) ∧ (tFull.get (F.RNG_CFG_EN (16 + 2)) = 1) ∧ (ringFull tFull (16 + 2) = true) ∧ (tFull.pins.own = false)) ∧
    (((tOwn tFull).sys.inReset = false) ∧ ((tOwn tFull).get (F.RNG_CFG_EN (16 + 2)) = 0 ∨ ringFull (tOwn tFull) (16 + 2) = true) ∧
      ((tOwn tFull).pins.own = true)) ∧
    ((run0.sys.inReset = false) ∧ (run0.bkg.telDue = false)) ∧
    ((wDn.sys.inReset = false) ∧ (wDn.bkg.telDue = true) ∧ (bitN (wDn.get F.FAB_PORT_DOWN) 3 = true)) ∧
    ((wDue.sys.inReset = false) ∧ (wDue.bkg.telDue = true) ∧ (bitN (wDue.get F.FAB_PORT_DOWN) 3 = false)) := by
  (repeat' apply And.intro) <;> first | exact ueAt _ _ | decide +kernel

def mEr (b w : Nat) (e : BitVec 145) : State := struckWords run0 [(b, w, e)]
def mBk : State := (mEr 41 7 1).memUp fun m => { m with back := [errKey 41 7] }
def mDue (row : Nat) : State := (run0.memUp fun m => { m with scrubRow := row }).bkgUp fun b => { b with scrubDue := 1 }
def mCand : State := (mDue 5).bankUp 41 fun x => { x with cand := [(163, 1)] }
def mFull : State := mCand.bankUp 41 fun x => { x with spares := List.replicate 8 (some 9, false) }
def mRep : State := ((mEr 41 (163 * 16 + 7) poison).bankUp 41 fun x => { x with repair := some (0, 163, 1) })
def mNoScrub : State := run0.set F.BKG_CFG_SCRUB_EN 0
def mDev : State := run0.set F.SYS_LC_STATE 1

theorem witness_MemoryCorrection :
    ((mBk.sys.inReset = false) ∧ (41 < 48) ∧ (errKey 41 7 = errKey 41 (physWord mBk 41 7)) ∧ (mBk.mem.back.contains (errKey 41 7) = true)) ∧
    ((mBk.sys.inReset = false) ∧ (41 < 48) ∧ (errKey 41 8 = errKey 41 (physWord mBk 41 8)) ∧
      (mBk.mem.back.contains (errKey 41 8) = false)) ∧
    (((mDue 519).sys.inReset = false) ∧ (0 < (mDue 519).bkg.scrubDue) ∧ ((mDue 519).get F.BKG_CFG_SCRUB_EN = 1) ∧
      ((mDue 519).mem.errs = []) ∧ (∀ (b : Nat), b < 48 → ((mDue 519).bankSt b).cand = [])) ∧
    (((mDue 0).sys.inReset = false) ∧ (0 < (mDue 0).bkg.scrubDue) ∧ ((mDue 0).get F.BKG_CFG_SCRUB_EN = 1) ∧ ((mDue 0).mem.errs = []) ∧
      (∀ (b : Nat), b < 48 → ((mDue 0).bankSt b).cand = [])) ∧
    (((mDue 511).sys.inReset = false) ∧ (0 < (mDue 511).bkg.scrubDue) ∧ ((mDue 511).get F.BKG_CFG_SCRUB_EN = 1) ∧
      ((mDue 511).mem.errs = []) ∧ (∀ (q : Nat), q < 48 → ((mDue 511).bankSt q).cand = []) ∧ (47 < 48) ∧ (8191 < 8192) ∧
      (8191 / 16 = (mDue 511).mem.scrubRow) ∧ (144 < 145) ∧ (((mDue 511).bankSt 47).repair = none) ∧
      (spareFor (mDue 511) 47 (8191 / 16) = none)) ∧
    (((mDue 519).sys.inReset = false) ∧ (0 < (mDue 519).bkg.scrubDue) ∧ ((mDue 519).get F.BKG_CFG_SCRUB_EN = 1) ∧
      ((mDue 519).mem.errs = []) ∧ (((mDue 519).bankSt 47).cand = []) ∧ (47 < 48) ∧ (47 < (mDue 519).mem.banks.length) ∧ (7 < 8) ∧
      (7 < ((mDue 519).bankSt 47).spares.length) ∧ ((mDue 519).mem.scrubRow = 512 + 7) ∧ (8304 / 16 = 512 + 7) ∧
      (((mDue 519).bankSt 47).repair = none) ∧ (((mDue 519).bankSt 47).spares.getD 7 (none, true) = (none, false))) ∧
    ((mCand.sys.inReset = false) ∧ (0 < mCand.bkg.scrubDue) ∧ (mCand.get F.BKG_CFG_SCRUB_EN = 1) ∧ (mCand.mem.errs = []) ∧ (41 < 48) ∧
      (41 < mCand.mem.banks.length) ∧ ((mCand.bankSt 41).cand = [(163, 1)]) ∧ ((mCand.bankSt 41).repair = none) ∧
      (∀ (q : Nat), q < 48 → q ≠ 41 → (mCand.bankSt q).cand = []) ∧ (freeSpare mCand 41 = some 0)) ∧
    ((mFull.sys.inReset = false) ∧ (0 < mFull.bkg.scrubDue) ∧ (mFull.get F.BKG_CFG_SCRUB_EN = 1) ∧ (mFull.mem.errs = []) ∧ (41 < 48) ∧
      (41 < mFull.mem.banks.length) ∧ ((mFull.bankSt 41).cand = [(163, 1)]) ∧ ((mFull.bankSt 41).repair = none) ∧
      (∀ (q : Nat), q < 48 → q ≠ 41 → (mFull.bankSt q).cand = []) ∧ (freeSpare mFull 41 = none)) ∧
    ((mNoScrub.sys.inReset = false) ∧ (mNoScrub.get F.BKG_CFG_SCRUB_EN = 0 ∨ mNoScrub.bkg.scrubDue = 0)) ∧
    ((run0.sys.inReset = false) ∧ (run0.get F.BKG_CFG_SCRUB_EN = 0 ∨ run0.bkg.scrubDue = 0)) ∧
    ((mRep.sys.inReset = false) ∧ (41 < mRep.mem.banks.length) ∧ ((mRep.bankSt 41).repair = some (0, 163, 1)) ∧ (163 < 512)) ∧
    ((mDev.sys.inReset = false) ∧ (reached mDev R.MEM_INJ = true) ∧ (mDev.get F.SYS_LC_STATE = 1 ∨ mDev.get F.SYS_LC_STATE = 3)) ∧
    ((run0.sys.inReset = false) ∧ (run0.get F.SYS_LC_STATE ≠ 1) ∧ (run0.get F.SYS_LC_STATE ≠ 3)) ∧
    ((run0.sys.inReset = false) ∧ (readable run0 Path.hostPrimary R.MEM_ELOG0 = true)) ∧
    ((run0.sys.inReset = false) ∧ (readable run0 Path.hostPrimary R.BKG_LOG0 = true)) := by
  (repeat' apply And.intro) <;> decide +kernel

def lgV (n : Nat) : State := ((run0.set F.BKG_LOG0_NSECT 8).set F.BKG_LOG0_SECT 7).bkgUp fun b => { b with valid := true, next := n, stateDue := 1 }
def rec2 : LogRec := { type := 2, len := 2, body := [1, 2, 3] }
def lgQ : State := (lgV 4064).bkgUp fun b => { b with eventsDue := true, queue := [rec2] }
def lgQ2 : State := (lgV 3904).bkgUp fun b => { b with eventsDue := true, queue := [rec2] }
def lgOp (f : Nat) (b : Byte) : State := (lgV 192).bkgUp fun x => { x with stateDue := 0, fails := f, ops := [.program 0x7000 (b :: List.replicate 159 0) true] }
def qBusy : State := run0.bkgUp fun b => { b with qspi := some (.erase 0) }
def qId (a : Nat) : State := ((run0.set F.QSPI_ID_ID 0x18).set F.QSPI_ADDR_ADDR a).set F.IMG_STAT_SLOT 1
def qB (a : Nat) : State := (qId a).bkgUp fun b => { b with qspi := some (.erase 0) }
def qW (n : Nat) : State := run0.set F.QSPI_BPTR_WPTR n
def qWB : State := (qW 63).set F.QSPI_STAT_BUSY 1

theorem witness_FlashLog :
    (((lgV 3936).sys.inReset = false) ∧ (0 < (lgV 3936).bkg.stateDue) ∧ ((lgV 3936).bkg.eventsDue = false) ∧
      ((lgV 3936).get F.BKG_CFG_LOG_EN = 1) ∧ ((lgV 3936).bkg.stopped = false) ∧ ((lgV 3936).bkg.valid = true) ∧
      ((lgV 3936).bkg.newSector = false) ∧ ((lgV 3936).bkg.next + 160 ≤ 4096)) ∧
    (((lgV 4000).sys.inReset = false) ∧ (0 < (lgV 4000).bkg.stateDue) ∧ ((lgV 4000).bkg.eventsDue = false) ∧
      ((lgV 4000).get F.BKG_CFG_LOG_EN = 1) ∧ ((lgV 4000).bkg.stopped = false) ∧ ((lgV 4000).bkg.valid = true) ∧
      (4096 < (lgV 4000).bkg.next + 160) ∧ (0 = ((lgV 4000).get F.BKG_LOG0_SECT + 1) % max ((lgV 4000).get F.BKG_LOG0_NSECT) 1)) ∧
    ((run0.sys.inReset = false) ∧ (run0.bkg.stateDue = 0 ∨ run0.get F.BKG_CFG_LOG_EN = 0)) ∧
    ((lgQ2.sys.inReset = false) ∧ (0 < lgQ2.bkg.stateDue) ∧ (lgQ2.bkg.eventsDue = true) ∧ (lgQ2.get F.BKG_CFG_LOG_EN = 1) ∧
      (lgQ2.bkg.queue = [rec2]) ∧ (rec2.len = 2) ∧ (lgQ2.bkg.stopped = false) ∧ (lgQ2.bkg.valid = true) ∧ (lgQ2.bkg.newSector = false) ∧
      (lgQ2.bkg.next + 192 ≤ 4096)) ∧
    ((lgQ.sys.inReset = false) ∧ (lgQ.bkg.eventsDue = true) ∧ (lgQ.get F.BKG_CFG_LOG_EN = 1) ∧ (lgQ.bkg.queue = [rec2]) ∧
      (rec2.len = 2) ∧ (lgQ.bkg.stopped = false) ∧ (lgQ.bkg.valid = true) ∧ (lgQ.bkg.newSector = false) ∧ (lgQ.bkg.next + 32 ≤ 4096)) ∧
    ((run0.sys.inReset = false) ∧ (reached run0 R.BKG_CTRL = true)) ∧
    (((lgOp 2 1).sys.inReset = false) ∧ ((lgOp 2 1).bkg.qspi = none) ∧
      ((lgOp 2 1).bkg.ops = [FlashOp.program 28672 (1 :: List.replicate 159 0) true]) ∧
      (BitVec.toNat ((1 :: List.replicate 159 0 : List Byte).headD 0) ≠ 4)) ∧
    (((lgOp 1 2).sys.inReset = false) ∧ ((lgOp 1 2).bkg.qspi = none) ∧
      ((lgOp 1 2).bkg.ops = [FlashOp.program 28672 (2 :: List.replicate 159 0) true]) ∧
      (BitVec.toNat ((2 :: List.replicate 159 0 : List Byte).headD 0) ≠ 4) ∧ ((lgOp 1 2).bkg.fails < 2)) ∧
    (((lgOp 2 2).sys.inReset = false) ∧ ((lgOp 2 2).bkg.qspi = none) ∧
      ((lgOp 2 2).bkg.ops = [FlashOp.program 28672 (2 :: List.replicate 159 0) true]) ∧
      (BitVec.toNat ((2 :: List.replicate 159 0 : List Byte).headD 0) ≠ 4) ∧ (2 ≤ (lgOp 2 2).bkg.fails)) ∧
    ((qBusy.sys.inReset = false) ∧ (qBusy.bkg.qspi = some (FlashOp.erase 0))) := by
  (repeat' apply And.intro) <;> decide +kernel

theorem witness_FlashController :
    (((qId 16776960).sys.inReset = false) ∧ (16776960 = (qId 16776960).get F.QSPI_ADDR_ADDR) ∧
      (reached (qId 16776960) R.QSPI_CTRL = true) ∧ ((qId 16776960).bkg.qspi = none) ∧ ((qId 16776960).bkg.ops = []) ∧
      (protectedAddr (qId 16776960) 16776960 = false) ∧ (16776960 < flashBytes (qId 16776960)) ∧ (16776960 % 256 = 0)) ∧
    (((qId 16773120).sys.inReset = false) ∧ (16773120 = (qId 16773120).get F.QSPI_ADDR_ADDR) ∧
      (reached (qId 16773120) R.QSPI_CTRL = true) ∧ ((qId 16773120).bkg.qspi = none) ∧ ((qId 16773120).bkg.ops = []) ∧
      (protectedAddr (qId 16773120) 16773120 = false) ∧ (16773120 < flashBytes (qId 16773120)) ∧ (16773120 % 4096 = 0)) ∧
    (((qId 0).sys.inReset = false) ∧ (0 = (qId 0).get F.QSPI_ADDR_ADDR) ∧ (reached (qId 0) R.QSPI_CTRL = true) ∧
      ((qId 0).bkg.qspi = none) ∧ ((qId 0).bkg.ops = [])) ∧
    (((qB 0).sys.inReset = false) ∧ (0 = (qB 0).get F.QSPI_ADDR_ADDR) ∧ (reached (qB 0) R.QSPI_CTRL = true) ∧
      (Instr.qspiErase = Instr.qspiProgram ∨ Instr.qspiErase = Instr.qspiErase) ∧ (1 = 1 ∧ ((qB 0).bkg.qspi ≠ none ∨
      (qB 0).bkg.ops ≠ []) ∨ 1 = 2 ∧ (qB 0).bkg.qspi = none ∧ (qB 0).bkg.ops = [] ∧ ((qB 0).get F.IMG_STAT_SLOT = 1 ∧ 0 < 4194304 ∨
      8388608 ≤ 0 ∧ 0 < 8421376) ∨ 1 = 3 ∧ (qB 0).bkg.qspi = none ∧ (qB 0).bkg.ops = [] ∧ protectedAddr (qB 0) 0 = false ∧ 0 % 256 ≠ 0 ∨
      1 = 4 ∧ (qB 0).bkg.qspi = none ∧ (qB 0).bkg.ops = [] ∧ protectedAddr (qB 0) 0 = false ∧ 0 % 4096 = 0 ∧ flashBytes (qB 0) ≤ 0)) ∧
    (((qId 4194303).sys.inReset = false) ∧ (4194303 = (qId 4194303).get F.QSPI_ADDR_ADDR) ∧ (reached (qId 4194303) R.QSPI_CTRL = true) ∧
      (Instr.qspiProgram = Instr.qspiProgram ∨ Instr.qspiProgram = Instr.qspiErase) ∧ (2 = 1 ∧ ((qId 4194303).bkg.qspi ≠ none ∨
      (qId 4194303).bkg.ops ≠ []) ∨ 2 = 2 ∧ (qId 4194303).bkg.qspi = none ∧ (qId 4194303).bkg.ops = [] ∧
      ((qId 4194303).get F.IMG_STAT_SLOT = 1 ∧ 4194303 < 4194304 ∨ 8388608 ≤ 4194303 ∧ 4194303 < 8421376) ∨ 2 = 3 ∧
      (qId 4194303).bkg.qspi = none ∧ (qId 4194303).bkg.ops = [] ∧ protectedAddr (qId 4194303) 4194303 = false ∧ 4194303 % 256 ≠ 0 ∨
      2 = 4 ∧ (qId 4194303).bkg.qspi = none ∧ (qId 4194303).bkg.ops = [] ∧ protectedAddr (qId 4194303) 4194303 = false ∧
      4194303 % 4096 = 0 ∧ flashBytes (qId 4194303) ≤ 4194303)) ∧
    (((qId 8421375).sys.inReset = false) ∧ (8421375 = (qId 8421375).get F.QSPI_ADDR_ADDR) ∧ (reached (qId 8421375) R.QSPI_CTRL = true) ∧
      (Instr.qspiProgram = Instr.qspiProgram ∨ Instr.qspiProgram = Instr.qspiErase) ∧ (2 = 1 ∧ ((qId 8421375).bkg.qspi ≠ none ∨
      (qId 8421375).bkg.ops ≠ []) ∨ 2 = 2 ∧ (qId 8421375).bkg.qspi = none ∧ (qId 8421375).bkg.ops = [] ∧
      ((qId 8421375).get F.IMG_STAT_SLOT = 1 ∧ 8421375 < 4194304 ∨ 8388608 ≤ 8421375 ∧ 8421375 < 8421376) ∨ 2 = 3 ∧
      (qId 8421375).bkg.qspi = none ∧ (qId 8421375).bkg.ops = [] ∧ protectedAddr (qId 8421375) 8421375 = false ∧ 8421375 % 256 ≠ 0 ∨
      2 = 4 ∧ (qId 8421375).bkg.qspi = none ∧ (qId 8421375).bkg.ops = [] ∧ protectedAddr (qId 8421375) 8421375 = false ∧
      8421375 % 4096 = 0 ∧ flashBytes (qId 8421375) ≤ 8421375)) ∧
    (((qId 4194305).sys.inReset = false) ∧ (4194305 = (qId 4194305).get F.QSPI_ADDR_ADDR) ∧ (reached (qId 4194305) R.QSPI_CTRL = true) ∧
      (Instr.qspiErase = Instr.qspiProgram ∨ Instr.qspiErase = Instr.qspiErase) ∧ (3 = 1 ∧ ((qId 4194305).bkg.qspi ≠ none ∨
      (qId 4194305).bkg.ops ≠ []) ∨ 3 = 2 ∧ (qId 4194305).bkg.qspi = none ∧ (qId 4194305).bkg.ops = [] ∧
      ((qId 4194305).get F.IMG_STAT_SLOT = 1 ∧ 4194305 < 4194304 ∨ 8388608 ≤ 4194305 ∧ 4194305 < 8421376) ∨ 3 = 3 ∧
      (qId 4194305).bkg.qspi = none ∧ (qId 4194305).bkg.ops = [] ∧ protectedAddr (qId 4194305) 4194305 = false ∧ 4194305 % 256 ≠ 0 ∨
      3 = 4 ∧ (qId 4194305).bkg.qspi = none ∧ (qId 4194305).bkg.ops = [] ∧ protectedAddr (qId 4194305) 4194305 = false ∧
      4194305 % 4096 = 0 ∧ flashBytes (qId 4194305) ≤ 4194305)) ∧
    (((qId 16777216).sys.inReset = false) ∧ (16777216 = (qId 16777216).get F.QSPI_ADDR_ADDR) ∧
      (reached (qId 16777216) R.QSPI_CTRL = true) ∧ (Instr.qspiErase = Instr.qspiProgram ∨ Instr.qspiErase = Instr.qspiErase) ∧ (4 = 1 ∧
      ((qId 16777216).bkg.qspi ≠ none ∨ (qId 16777216).bkg.ops ≠ []) ∨ 4 = 2 ∧ (qId 16777216).bkg.qspi = none ∧
      (qId 16777216).bkg.ops = [] ∧ ((qId 16777216).get F.IMG_STAT_SLOT = 1 ∧ 16777216 < 4194304 ∨ 8388608 ≤ 16777216 ∧
      16777216 < 8421376) ∨ 4 = 3 ∧ (qId 16777216).bkg.qspi = none ∧ (qId 16777216).bkg.ops = [] ∧
      protectedAddr (qId 16777216) 16777216 = false ∧ 16777216 % 256 ≠ 0 ∨ 4 = 4 ∧ (qId 16777216).bkg.qspi = none ∧
      (qId 16777216).bkg.ops = [] ∧ protectedAddr (qId 16777216) 16777216 = false ∧ 16777216 % 4096 = 0 ∧
      flashBytes (qId 16777216) ≤ 16777216)) := by
  (repeat' apply And.intro) <;> decide +kernel

theorem witness_ProgramBuffer :
    (((qW 63).sys.inReset = false) ∧ (63 = (qW 63).get F.QSPI_BPTR_WPTR) ∧ (Instr.qspiBufferWrite 4660 = Instr.qspiBufferWrite 4660 ∧
      reached (qW 63) (aliasPtr (qW 63) R.QSPI_BDATA) = true ∨ ∃ path j, j < 8 ∧
      Instr.qspiBufferWrite 4660 = Instr.registerWrite path (BitVec.ofNat 16 (R.QSPI_BDATA + 4 * j)) 4660 ∧
      writable (qW 63) path (R.QSPI_BDATA + 4 * j) = true) ∧ ((qW 63).get F.QSPI_STAT_BUSY = 0)) ∧
    (((qW 5).sys.inReset = false) ∧ (5 = (qW 5).get F.QSPI_BPTR_WPTR) ∧
      (Instr.registerWrite Path.mgmtCore 604 4660 = Instr.qspiBufferWrite 4660 ∧ reached (qW 5) (aliasPtr (qW 5) R.QSPI_BDATA) = true ∨
      ∃ path j, j < 8 ∧
      Instr.registerWrite Path.mgmtCore 604 4660 = Instr.registerWrite path (BitVec.ofNat 16 (R.QSPI_BDATA + 4 * j)) 4660 ∧
      writable (qW 5) path (R.QSPI_BDATA + 4 * j) = true) ∧ ((qW 5).get F.QSPI_STAT_BUSY = 0)) ∧
    ((qWB.sys.inReset = false) ∧ (63 = qWB.get F.QSPI_BPTR_WPTR) ∧ (Instr.qspiBufferWrite 4660 = Instr.qspiBufferWrite 4660 ∧
      reached qWB (aliasPtr qWB R.QSPI_BDATA) = true ∨ ∃ path j, j < 8 ∧
      Instr.qspiBufferWrite 4660 = Instr.registerWrite path (BitVec.ofNat 16 (R.QSPI_BDATA + 4 * j)) 4660 ∧
      writable qWB path (R.QSPI_BDATA + 4 * j) = true) ∧ (qWB.get F.QSPI_STAT_BUSY = 1)) ∧
    (((qW 63).sys.inReset = false) ∧ (63 = (qW 63).get F.QSPI_BPTR_WPTR) ∧ (readable (qW 63) Path.hostPrimary R.QSPI_BDATA = true)) ∧
    (((qW 63).sys.inReset = false) ∧ (63 = (qW 63).get F.QSPI_BPTR_WPTR) ∧ (7 < 8) ∧
      (readable (qW 63) Path.hostPrimary (R.QSPI_BDATA + 4 * 7) = true)) := by
  (repeat' apply And.intro) <;>
    first
    | decide +kernel
    | exact .inl ⟨rfl, by decide +kernel⟩
    | exact .inr ⟨.mgmtCore, 7, by decide, rfl, by decide +kernel⟩

def inR : State := enterReset run0 4
def inF : State := enterReset (run0.sysUp fun x => { x with blown := { lc := 3, key0 := some (List.replicate 32 7), devnum := 0x123456789 } }) 4
def swH : State := run0.hstUp fun h => { h with committing := true, commitPath := .hostPrimary, commit := [(R.SYS_CTRL, 0x1A5)] }
def fld : State := run0.set F.SYS_LC_STATE 2
def bs (n : Nat) : State := (run0.set F.SYS_BOOT_BSTATE n).sysUp fun x => { x with procs := n == 3 }
def bsR (n : Nat) : State := (bs n).set F.SYS_BOOT_BOOTSEL 1
def candBad : Candidate := { slotB := true, header := [], sections := [{ type := 1, inst := 0xFFFF, offset := 0x100, length := 4, crc := 1, dest := 0, entry := 0 }], verified := false }
def candOk : Candidate := { slotB := false, header := [0, 0, 0, 0, 0, 0, 0, 0, 0, 0, 0, 0, 0, 0, 0, 0, 0, 0, 1, 0, 0, 0, 0, 0, 0, 0, 0, 0, 0, 0, 0, 0, 227, 176, 196, 66, 152, 252, 28, 20, 154, 251, 244, 200, 153, 111, 185, 36, 39, 174, 65, 228, 100, 155, 147, 76, 164, 149, 153, 27, 120, 82, 184, 85], sections := [], verified := false }
def ldBad : State := (bs 2).sysUp fun x => { x with candidates := [candBad] }
def ldOk : State := (bs 2).sysUp fun x => { x with candidates := [candOk] }

theorem witness_Resets :
    ((Instr.powerUp = Instr.powerUp ∧ 1 = 1 ∨ Instr.powerUp = Instr.supplyFall ∧ 1 = 2 ∨ Instr.powerUp = Instr.resetPin true ∧ 1 = 4 ∨
      Instr.powerUp = Instr.softReset ∧ 1 = 8 ∧ run0.sys.inReset = false ∧ writable run0 Path.mgmtCore R.SYS_CTRL = true ∧
      headNames run0 R.SYS_CTRL = false ∨ Instr.powerUp = Instr.debugReset ∧ 1 = 32 ∧ run0.sys.inReset = false ∧ debugAccess run0 = true)) ∧
    ((Instr.supplyFall = Instr.powerUp ∧ 2 = 1 ∨ Instr.supplyFall = Instr.supplyFall ∧ 2 = 2 ∨ Instr.supplyFall = Instr.resetPin true ∧
      2 = 4 ∨ Instr.supplyFall = Instr.softReset ∧ 2 = 8 ∧ inR.sys.inReset = false ∧ writable inR Path.mgmtCore R.SYS_CTRL = true ∧
      headNames inR R.SYS_CTRL = false ∨ Instr.supplyFall = Instr.debugReset ∧ 2 = 32 ∧ inR.sys.inReset = false ∧ debugAccess inR = true)) ∧
    ((Instr.resetPin true = Instr.powerUp ∧ 4 = 1 ∨ Instr.resetPin true = Instr.supplyFall ∧ 4 = 2 ∨
      Instr.resetPin true = Instr.resetPin true ∧ 4 = 4 ∨ Instr.resetPin true = Instr.softReset ∧ 4 = 8 ∧ run0.sys.inReset = false ∧
      writable run0 Path.mgmtCore R.SYS_CTRL = true ∧ headNames run0 R.SYS_CTRL = false ∨ Instr.resetPin true = Instr.debugReset ∧
      4 = 32 ∧ run0.sys.inReset = false ∧ debugAccess run0 = true)) ∧
    ((Instr.softReset = Instr.powerUp ∧ 8 = 1 ∨ Instr.softReset = Instr.supplyFall ∧ 8 = 2 ∨ Instr.softReset = Instr.resetPin true ∧
      8 = 4 ∨ Instr.softReset = Instr.softReset ∧ 8 = 8 ∧ run0.sys.inReset = false ∧ writable run0 Path.mgmtCore R.SYS_CTRL = true ∧
      headNames run0 R.SYS_CTRL = false ∨ Instr.softReset = Instr.debugReset ∧ 8 = 32 ∧ run0.sys.inReset = false ∧
      debugAccess run0 = true)) ∧
    ((Instr.debugReset = Instr.powerUp ∧ 32 = 1 ∨ Instr.debugReset = Instr.supplyFall ∧ 32 = 2 ∨ Instr.debugReset = Instr.resetPin true ∧
      32 = 4 ∨ Instr.debugReset = Instr.softReset ∧ 32 = 8 ∧ run0.sys.inReset = false ∧ writable run0 Path.mgmtCore R.SYS_CTRL = true ∧
      headNames run0 R.SYS_CTRL = false ∨ Instr.debugReset = Instr.debugReset ∧ 32 = 32 ∧ run0.sys.inReset = false ∧
      debugAccess run0 = true)) ∧
    ((swH.sys.inReset = false) ∧ (headNames swH R.SYS_CTRL = true) ∧ (hostSide swH.hst.commitPath = true) ∧
      (writable swH swH.hst.commitPath R.SYS_CTRL = true)) ∧
    ((fld.sys.inReset = false) ∧ (debugAccess fld = false)) ∧
    ((run0.sys.inReset = false) ∧ (run0.fab.out.getD 0 none = none)) ∧
    (inF.sys.inReset = true) ∧
    (run0.sys.inReset = false) ∧
    ((inR.sys.inReset = true) ∧ (Instr.scrubStep [] ≠ Instr.powerUp) ∧ (Instr.scrubStep [] ≠ Instr.supplyFall) ∧
      (Instr.scrubStep [] ≠ Instr.resetPin true) ∧ (∀ (x : Straps), ¬Instr.scrubStep [] = Instr.resetRelease x)) := by
  (repeat' apply And.intro) <;> first | decide +kernel | (intro x h; cases h)

theorem witness_BootSequence :
    (((bs 0).sys.inReset = false) ∧ (bstate (bs 0) = bsWipe) ∧ (65535 < 65536)) ∧
    (((bs 0).sys.inReset = false) ∧ (bstate (bs 0) = bsWipe) ∧ (47 < 48) ∧ (47 < (bs 0).mem.banks.length) ∧ (8191 < 8192) ∧
      (rowReplaced (bs 0) 47 (8191 / 16) = false) ∧ (freeSpare (bs 0) 47 = some 0) ∧ (lcState (bs 0) ≠ lcRetired)) ∧
    (((bs 0).sys.inReset = false) ∧ (bstate (bs 0) = bsWipe) ∧ (4 < 5)) ∧
    (((bsR 1).sys.inReset = false) ∧ (bstate (bsR 1) = bsScan) ∧ (bootSel (bsR 1) = 1)) ∧
    (((bs 1).sys.inReset = false) ∧ (bstate (bs 1) = bsScan) ∧ (bootSel (bs 1) ≠ 1) ∧ (idOk (0) = false)) ∧
    (((bs 1).sys.inReset = false) ∧ (bstate (bs 1) = bsScan) ∧ (bootSel (bs 1) ≠ 1)) ∧
    (((bs 1).sys.inReset = false) ∧ (bstate (bs 1) = bsScan) ∧ (validSectors [] = [])) ∧
    ((ldBad.sys.inReset = false) ∧ (bstate ldBad = bsLoad) ∧ (ldBad.sys.candidates = [candBad]) ∧ (loadCode candBad [] ≠ 0)) ∧
    ((ldOk.sys.inReset = false) ∧ (bstate ldOk = bsLoad) ∧ (ldOk.sys.candidates = [candOk]) ∧ (loadCode candOk [] = 0)) ∧
    (((bs 3).sys.inReset = false) ∧ ((bs 3).sys.procs = true) ∧ (bstate (bs 3) = bsStart) ∧ ((bs 3).sys.fwTmo = false)) ∧
    ((run0.sys.inReset = false) ∧ (run0.sys.procs = false ∨ bstate run0 ≠ bsStart ∨ run0.sys.fwTmo = true)) ∧
    ((run0.sys.inReset = false) ∧ (reached run0 (R.CH_MUTE 15) = true)) := by
  (repeat' apply And.intro) <;> decide +kernel

def lc (n b : Nat) : State := (run0.set F.SYS_LC_STATE n).set F.SYS_LC_NBLOWN b
def lcK : State := (lc 1 1).sysUp fun x => { x with fuses := { x.fuses with key0 := some [], cred := some [] } }
def lcO : State := let s := lc 0 0; { s with pins := { s.pins with own := true } }
def lc14 : State := (lc 2 14).set F.SYS_LC_CRED_OK 1
def lcOp : State := (lc 0 0).bkgUp fun b => { b with ops := [.program 0x7000 (4 :: List.replicate 31 0) true] }
def lcBl : State := (lc 0 0).sysUp fun x => { x with lcBits := 16, shadowsZero := true }
def wip : State := (lc 1 1).set F.SYS_BOOT_BSTATE 0
def crd : List Byte := List.replicate 32 7
def lcC (n t : Nat) : State := (lc n 1).sysUp fun x => { x with credTries := t, fuses := { x.fuses with cred := some crd } }
def lcH : State := (lc 0 0).sysUp fun x => { x with held := true }

theorem witness_LifeCycle :
    (((lc 0 0).sys.inReset = false) ∧ (Path.hostPrimary = pathAt (lc 0 0) Path.hostPrimary R.SYS_LCREQ) ∧ (2 = 258 % 8) ∧
      (writable (lc 0 0) Path.hostPrimary R.SYS_LCREQ = true) ∧ ((lc 0 0).sys.lcBits = 0) ∧ (bitN (258) 8 = true) ∧ (1 = 1 ∧
      lcTransition (lc 0 0) Path.hostPrimary 2 = false ∨ 1 = 2 ∧ lcTransition (lc 0 0) Path.hostPrimary 2 = true ∧
      lcRequirement (lc 0 0) 2 = false ∨ 1 = 3 ∧ lcTransition (lc 0 0) Path.hostPrimary 2 = true ∧ lcRequirement (lc 0 0) 2 = true ∧
      (lc 0 0).pins.own = true ∨ 1 = 4 ∧ lcTransition (lc 0 0) Path.hostPrimary 2 = true ∧ lcRequirement (lc 0 0) 2 = true ∧
      (lc 0 0).pins.own = false ∧ (∀ (c : Nat), c < 16 → chanStopped (lc 0 0) c = true) ∧ (lc 0 0).get F.SYS_LC_NBLOWN = 14 ∧
      2 = lcService)) ∧
    (((lc 1 1).sys.inReset = false) ∧ (Path.hostPrimary = pathAt (lc 1 1) Path.hostPrimary R.SYS_LCREQ) ∧ (2 = 258 % 8) ∧
      (writable (lc 1 1) Path.hostPrimary R.SYS_LCREQ = true) ∧ ((lc 1 1).sys.lcBits = 0) ∧ (bitN (258) 8 = true) ∧ (2 = 1 ∧
      lcTransition (lc 1 1) Path.hostPrimary 2 = false ∨ 2 = 2 ∧ lcTransition (lc 1 1) Path.hostPrimary 2 = true ∧
      lcRequirement (lc 1 1) 2 = false ∨ 2 = 3 ∧ lcTransition (lc 1 1) Path.hostPrimary 2 = true ∧ lcRequirement (lc 1 1) 2 = true ∧
      (lc 1 1).pins.own = true ∨ 2 = 4 ∧ lcTransition (lc 1 1) Path.hostPrimary 2 = true ∧ lcRequirement (lc 1 1) 2 = true ∧
      (lc 1 1).pins.own = false ∧ (∀ (c : Nat), c < 16 → chanStopped (lc 1 1) c = true) ∧ (lc 1 1).get F.SYS_LC_NBLOWN = 14 ∧
      2 = lcService)) ∧
    ((lcO.sys.inReset = false) ∧ (Path.hostPrimary = pathAt lcO Path.hostPrimary R.SYS_LCREQ) ∧ (1 = 257 % 8) ∧
      (writable lcO Path.hostPrimary R.SYS_LCREQ = true) ∧ (lcO.sys.lcBits = 0) ∧ (bitN (257) 8 = true) ∧ (3 = 1 ∧
      lcTransition lcO Path.hostPrimary 1 = false ∨ 3 = 2 ∧ lcTransition lcO Path.hostPrimary 1 = true ∧ lcRequirement lcO 1 = false ∨
      3 = 3 ∧ lcTransition lcO Path.hostPrimary 1 = true ∧ lcRequirement lcO 1 = true ∧ lcO.pins.own = true ∨ 3 = 4 ∧
      lcTransition lcO Path.hostPrimary 1 = true ∧ lcRequirement lcO 1 = true ∧ lcO.pins.own = false ∧
      (∀ (c : Nat), c < 16 → chanStopped lcO c = true) ∧ lcO.get F.SYS_LC_NBLOWN = 14 ∧ 1 = lcService)) ∧
    ((lc14.sys.inReset = false) ∧ (Path.debugPort = pathAt lc14 Path.debugPort R.SYS_LCREQ) ∧ (3 = 259 % 8) ∧
      (writable lc14 Path.debugPort R.SYS_LCREQ = true) ∧ (lc14.sys.lcBits = 0) ∧ (bitN (259) 8 = true) ∧ (4 = 1 ∧
      lcTransition lc14 Path.debugPort 3 = false ∨ 4 = 2 ∧ lcTransition lc14 Path.debugPort 3 = true ∧ lcRequirement lc14 3 = false ∨
      4 = 3 ∧ lcTransition lc14 Path.debugPort 3 = true ∧ lcRequirement lc14 3 = true ∧ lc14.pins.own = true ∨ 4 = 4 ∧
      lcTransition lc14 Path.debugPort 3 = true ∧ lcRequirement lc14 3 = true ∧ lc14.pins.own = false ∧
      (∀ (c : Nat), c < 16 → chanStopped lc14 c = true) ∧ lc14.get F.SYS_LC_NBLOWN = 14 ∧ 3 = lcService)) ∧
    (((lc 0 0).sys.inReset = false) ∧ (Path.hostPrimary = pathAt (lc 0 0) Path.hostPrimary R.SYS_LCREQ) ∧ (1 = 257 % 8) ∧
      (writable (lc 0 0) Path.hostPrimary R.SYS_LCREQ = true) ∧ ((lc 0 0).sys.lcBits = 0) ∧ (bitN (257) 8 = true) ∧
      (lcReason (lc 0 0) Path.hostPrimary 1 = 0) ∧ ((lc 0 0).bkg.stopped = false) ∧ ((lc 0 0).get F.BKG_CFG_LOG_EN = 1)) ∧
    ((lcK.sys.inReset = false) ∧ (Path.debugPort = pathAt lcK Path.debugPort R.SYS_LCREQ) ∧ (4 = 260 % 8) ∧
      (writable lcK Path.debugPort R.SYS_LCREQ = true) ∧ (lcK.sys.lcBits = 0) ∧ (bitN (260) 8 = true) ∧
      (lcReason lcK Path.debugPort 4 = 0) ∧ (lcK.bkg.stopped = false) ∧ (lcK.get F.BKG_CFG_LOG_EN = 1)) ∧
    ((lcOp.sys.inReset = false) ∧ (lcOp.bkg.qspi = none) ∧ (lcOp.bkg.ops = [FlashOp.program 28672 (4 :: List.replicate 31 0) true]) ∧
      (BitVec.toNat ((4 :: List.replicate 31 0 : List Byte).headD 0) = 4)) ∧
    ((lcBl.sys.inReset = false) ∧ (lcBl.sys.lcBits ≠ 0) ∧ (lcBl.sys.shadowsZero = true)) ∧
    (((lcC 2 2).sys.inReset = false) ∧ (lcState (lcC 2 2) ≠ lcRetired) ∧ (bstate (lcC 2 2) ≠ bsWipe) ∧ ((lcC 2 2).sys.credTries < 3) ∧
      ((lcC 2 2).sys.fuses.cred = some crd)) ∧
    (((lcC 2 2).sys.inReset = false) ∧ (lcState (lcC 2 2) ≠ lcRetired) ∧ (bstate (lcC 2 2) ≠ bsWipe) ∧ ((lcC 2 2).sys.credTries < 3) ∧
      ((lcC 2 2).sys.fuses.cred ≠ some [])) ∧
    (((lcC 4 0).sys.inReset = false) ∧ (lcState (lcC 4 0) = lcRetired ∨ bstate (lcC 4 0) = bsWipe ∨ 3 ≤ (lcC 4 0).sys.credTries)) ∧
    (((lcC 2 3).sys.inReset = false) ∧ (lcState (lcC 2 3) = lcRetired ∨ bstate (lcC 2 3) = bsWipe ∨ 3 ≤ (lcC 2 3).sys.credTries)) ∧
    ((wip.sys.inReset = false) ∧ (lcState wip = lcRetired ∨ bstate wip = bsWipe ∨ 3 ≤ wip.sys.credTries)) ∧
    (((lc 0 0).sys.inReset = false) ∧ (crd.length = 32) ∧ (bstate (lc 0 0) ≠ bsWipe) ∧ (lcState (lc 0 0) = lcBlank ∨
      lcState (lc 0 0) = lcDevelop) ∧ ((lc 0 0).sys.blown.key0 = none)) ∧
    (((lc 1 1).sys.inReset = false) ∧ (crd.length = 32) ∧ (bstate (lc 1 1) ≠ bsWipe) ∧ (lcState (lc 1 1) = lcBlank ∨
      lcState (lc 1 1) = lcDevelop) ∧ ((lc 1 1).sys.blown.cred = none)) ∧
    (((lc 3 3).sys.inReset = false) ∧ (bstate (lc 3 3) ≠ bsWipe) ∧ (lcState (lc 3 3) = lcDevelop ∨ lcState (lc 3 3) = lcService)) ∧
    (((lc 2 2).sys.inReset = false) ∧ (bstate (lc 2 2) = bsWipe ∨ lcState (lc 2 2) = lcField ∨ lcState (lc 2 2) = lcRetired)) ∧
    ((wip.sys.inReset = false) ∧ (bstate wip = bsWipe ∨ lcState wip = lcField ∨ lcState wip = lcRetired)) ∧
    ((lcH.sys.inReset = false) ∧ (debugAccess lcH = true) ∧ (lcH.sys.held = true)) ∧
    (((lc 3 3).sys.inReset = false) ∧ (debugAccess (lc 3 3) = true) ∧ ((lc 3 3).sys.held = false)) ∧
    (((lc 1 1).sys.inReset = false) ∧ (debugOpen (lc 1 1) = true)) ∧
    ((wip.sys.inReset = false) ∧ (debugAccess wip = false)) ∧
    (((lc 2 2).sys.inReset = false) ∧ (debugOpen (lc 2 2) = false)) ∧
    (((lc 0 0).sys.inReset = false) ∧ (writable (lc 0 0) (pathAt (lc 0 0) Path.hostPrimary R.SYS_LCREQ) R.SYS_LCREQ = true) ∧
      (bitN (2) 8 = false)) := by
  (repeat' apply And.intro) <;> decide +kernel

def ckL (f : Fld) : State := { run0.set f 1 with conds := [] }
def ckT : State := { ((run0.set F.TWN_CFG_PAIR_EN 1).set F.CLK_STAT_TWIN_LOCK 1).set F.TWN_STAT_LINK_UP 1 with conds := [] }
def ckC (c : Int) : State := run0.set F.PTP_FREQ_FREQ (pattern 32 c)
def ckM : State := ((run0.set F.CLK_REFBASE_BASE (pattern 24 (-5))).twinUp fun t => { t with marking := true })
def ckS (m : Nat) : State := (run0.set F.CLK_MSEL_CLK 7).sysUp fun x => { x with msel := m }
def nc : State := run0.sysUp fun x => { x with counting := false }

theorem witness_Clocks :
    (nc.sys.inReset = false) ∧
    (run0.sys.inReset = false) ∧
    ((ckT.sys.inReset = false) ∧ (ckT.get F.TWN_CFG_PAIR_EN = 1) ∧ (ckT.sys.procs = true)) ∧
    (((ckC 100000).sys.inReset = false) ∧ (100000 = (ckC 100000).getS F.PTP_FREQ_FREQ) ∧ (0 = refTarget (ckC 100000)) ∧
      ((ckC 100000).twin.marking = false) ∧ (-100000 ≤ 100000) ∧ (100000 ≤ 100000)) ∧
    (((ckC (-100000)).sys.inReset = false) ∧ (-100000 = (ckC (-100000)).getS F.PTP_FREQ_FREQ) ∧ (0 = refTarget (ckC (-100000))) ∧
      ((ckC (-100000)).twin.marking = false) ∧ (-100000 ≤ -100000) ∧ (-100000 ≤ 100000)) ∧
    ((ckM.sys.inReset = false) ∧ (ckM.twin.marking = true)) ∧
    (((ckS 7).sys.inReset = false) ∧ (7 = (ckS 7).get F.CLK_MSEL_CLK) ∧ (7 < 8) ∧ ((ckS 7).sys.msel = 7)) ∧
    (((ckS 0).sys.inReset = false) ∧ (7 = (ckS 0).get F.CLK_MSEL_CLK) ∧ (7 < 8) ∧ ((ckS 0).sys.msel ≠ 7)) := by
  (repeat' apply And.intro) <;> decide +kernel

theorem witness_PllLockLoss :
    (((ckL F.CLK_STAT_NET_LOCK).sys.inReset = false) ∧
      ((Pll.network, F.CLK_STAT_NET_LOCK, G.CLK_NET_UNLOCK) ∈ [(Pll.network, F.CLK_STAT_NET_LOCK, G.CLK_NET_UNLOCK), (Pll.system,
      F.CLK_STAT_SYS_LOCK, G.CLK_SYS_UNLOCK), (Pll.twin, F.CLK_STAT_TWIN_LOCK, G.CLK_TWIN_UNLOCK)]) ∧
      ((ckL F.CLK_STAT_NET_LOCK).get F.CLK_STAT_NET_LOCK = 1) ∧
      ((ckL F.CLK_STAT_NET_LOCK).conds.contains (G.CLK_NET_UNLOCK.ptr * 32 + G.CLK_NET_UNLOCK.bit) = false)) ∧
    (((ckL F.CLK_STAT_SYS_LOCK).sys.inReset = false) ∧
      ((Pll.system, F.CLK_STAT_SYS_LOCK, G.CLK_SYS_UNLOCK) ∈ [(Pll.network, F.CLK_STAT_NET_LOCK, G.CLK_NET_UNLOCK), (Pll.system,
      F.CLK_STAT_SYS_LOCK, G.CLK_SYS_UNLOCK), (Pll.twin, F.CLK_STAT_TWIN_LOCK, G.CLK_TWIN_UNLOCK)]) ∧
      ((ckL F.CLK_STAT_SYS_LOCK).get F.CLK_STAT_SYS_LOCK = 1) ∧
      ((ckL F.CLK_STAT_SYS_LOCK).conds.contains (G.CLK_SYS_UNLOCK.ptr * 32 + G.CLK_SYS_UNLOCK.bit) = false)) ∧
    ((ckT.sys.inReset = false) ∧
      ((Pll.twin, F.CLK_STAT_TWIN_LOCK, G.CLK_TWIN_UNLOCK) ∈ [(Pll.network, F.CLK_STAT_NET_LOCK, G.CLK_NET_UNLOCK), (Pll.system,
      F.CLK_STAT_SYS_LOCK, G.CLK_SYS_UNLOCK), (Pll.twin, F.CLK_STAT_TWIN_LOCK, G.CLK_TWIN_UNLOCK)]) ∧
      (ckT.get F.CLK_STAT_TWIN_LOCK = 1) ∧ (ckT.conds.contains (G.CLK_TWIN_UNLOCK.ptr * 32 + G.CLK_TWIN_UNLOCK.bit) = false)) ∧
    (((ckL F.CLK_STAT_TWIN_LOCK).sys.inReset = false) ∧
      ((Pll.twin, F.CLK_STAT_TWIN_LOCK, G.CLK_TWIN_UNLOCK) ∈ [(Pll.network, F.CLK_STAT_NET_LOCK, G.CLK_NET_UNLOCK), (Pll.system,
      F.CLK_STAT_SYS_LOCK, G.CLK_SYS_UNLOCK), (Pll.twin, F.CLK_STAT_TWIN_LOCK, G.CLK_TWIN_UNLOCK)]) ∧
      ((ckL F.CLK_STAT_TWIN_LOCK).get F.CLK_STAT_TWIN_LOCK = 1) ∧
      ((ckL F.CLK_STAT_TWIN_LOCK).conds.contains (G.CLK_TWIN_UNLOCK.ptr * 32 + G.CLK_TWIN_UNLOCK.bit) = false)) := by
  (repeat' apply And.intro) <;> decide +kernel

theorem witness_GatesHeldLow :
    (State.reset.sys.boundaryScan = false ∧ State.reset.pins.own = false) ∧
      (State.reset.sysUp fun x => { x with boundaryScan := true }).sys.boundaryScan = true := by decide +kernel
theorem witness_MemoryFormKept :
    Memory.wf (run0.queued [.safeWatchdogTrip]) = true ∧
      (match step (run0.queued [.safeWatchdogTrip]) with | .next t => t.safe.watchdog | .fault _ => false | .refused _ => false) = true := by
  decide +kernel

end Sys2Proof.Tests
end

section
/-! The state of reset (R2, R510, R550). -/

namespace Sys2Proof.Machine

/-- A unit that does not hold OWN_N keeps every gate ball low outside boundary scan (R553). -/
theorem gatesLow_of_own_released {s : State} (hscan : s.sys.boundaryScan = false) (hown : s.pins.own = false) : gatesLow s = true := by
  have hbuf : buffersOpen s = false := by simp [buffersOpen, hown]
  simp [gatesLow, ballHi, ballLo, hscan, hbuf]

/-- Nothing is written right after reset, so every memory is the empty list, which is in canonical form. -/
theorem reset_wf : Memory.wf State.reset = true := rfl

/-- Every register reads its table's reset value right after reset. -/
theorem reset_rd (p : Nat) : State.reset.rd p = resetWord p := rfl

theorem reset_get (f : Fld) : State.reset.get f = bitsN (resetWord f.ptr).toNat f.hi f.lo := rfl

end Sys2Proof.Machine

open Sys2Proof Sys2Proof.Machine in
/-- Settles O58: the memories are empty lists, each named register's reset value is looked up in its table, and OWN_N is released. -/
theorem resetState : Obligations.ResetState := by
  unfold Obligations.ResetState
  refine ⟨reset_wf, ?_, fun k => ⟨rfl, rfl⟩, rfl, rfl, gatesLow_of_own_released rfl rfl, rfl⟩
  simp only [bstate, reset_rd, reset_get]
  decide

end

section
/-! Register accesses (R12, R13, R15 to R17, R635, R636). -/

namespace Sys2Proof.Machine

/-! ### What a command answers -/

/-- A command that changes no more than its effect does. -/
theorem Changes.queued {l : List Part} {ps : List Nat} {s u : State} (h : Changes l ps s u) : Changes l ps s (u.queued s.pending) :=
  ⟨h.1.queued, h.2⟩

/-! ### Whether a write reaches its register -/

theorem writable_awake {s : State} {path : Path} {p : Nat} (h : writable s path p = true) : s.sys.inReset = false := by
  unfold writable at h
  simp only [Bool.and_eq_true, Bool.not_eq_true'] at h
  obtain ⟨⟨⟨⟨hres, -⟩, -⟩, -⟩, -⟩ := h
  exact hres

/-- The write's access leaves the host's commit, and nothing else of the state. -/
theorem popCommit_eq_with_hst (s : State) (path : Path) (p : Nat) (v : Word) :
    popCommit s path p v = { s with hst := (popCommit s path p v).hst } := by
  unfold popCommit
  split
  · rfl
  · split <;> rfl

@[simp] theorem popCommit_rd (s : State) (path : Path) (p : Nat) (v : Word) (q : Nat) : (popCommit s path p v).rd q = s.rd q := by
  rw [popCommit_eq_with_hst]; rfl

@[simp] theorem popCommit_writable (s : State) (path path' : Path) (p q : Nat) (v : Word) :
    writable (popCommit s path p v) path' q = writable s path' q := by
  rw [popCommit_eq_with_hst]; rfl

theorem popCommit_changes (s : State) (path : Path) (p : Nat) (v : Word) : Changes [.hst] [] s (popCommit s path p v) :=
  ⟨popCommit_only s path p v, fun q _ => popCommit_rd s path p v q⟩

/-! ### The access codes of R13 -/

/-- A write under the access codes writes its own register, the RW, RWL, SC and W1C bits of it each in their way. -/
theorem storeCoded_regs {s : State} {p : Nat} {r : Row} {i : Nat} (v : Word) (hrow : rowOf p = some (r, i)) :
    (storeCoded s p v).regs = (s.wr p (((s.rd p &&& ~~~BitVec.ofNat 32 (r.rw ||| r.rwl)) |||
      (v &&& BitVec.ofNat 32 (r.rw ||| r.rwl)) ||| (v &&& BitVec.ofNat 32 r.sc)) &&& ~~~(v &&& BitVec.ofNat 32 r.w1c))).regs := by
  simp only [storeCoded, hrow]
  split
  · rfl
  · split
    · split <;> rfl
    · split <;> rfl

theorem State.rd_congr {s t : State} (h : t.regs = s.regs) (p : Nat) : t.rd p = s.rd p := by
  unfold State.rd
  rw [h]

theorem storeCoded_rd_same {s : State} {p : Nat} {r : Row} {i : Nat} (v : Word) (hrow : rowOf p = some (r, i)) :
    (storeCoded s p v).rd p = ((s.rd p &&& ~~~BitVec.ofNat 32 (r.rw ||| r.rwl)) |||
      (v &&& BitVec.ofNat 32 (r.rw ||| r.rwl)) ||| (v &&& BitVec.ofNat 32 r.sc)) &&& ~~~(v &&& BitVec.ofNat 32 r.w1c) := by
  rw [State.rd_congr (storeCoded_regs v hrow), State.rd_wr_same]

theorem storeCoded_onlyRegs (s : State) (p : Nat) (v : Word) : OnlyRegs [p] s (storeCoded s p v) := by
  intro q hq
  cases hrow : rowOf p with
  | none => simp only [storeCoded, hrow]
  | some x => rw [State.rd_congr (storeCoded_regs v hrow), State.rd_wr_other _ _ _ _ (by simpa using hq)]

/-- The registers of plain storage that the statement on register accesses lists. -/
def plainRegisters : List Nat :=
  [R.FAB_CFG, R.BKG_CFG, R.HST_GRP, R.VENT_TAMB, R.AIN_TMON, R.MGR_CQHDR, R.MGR_CQT0, R.MGR_CQT1, R.MGR_CQDATA0, R.MGR_CQDATA7]

/-- A write of a register of plain storage has no effect beside that of the access codes. -/
theorem regWrite_plain {s : State} {path : Path} {p : Nat} (v : Word) (hp : p ∈ plainRegisters) (hw : writable s path p = true) :
    regWrite s path p v = storeCoded s p v := by
  simp only [plainRegisters, List.mem_cons, List.not_mem_nil, or_false] at hp
  rcases hp with rfl | rfl | rfl | rfl | rfl | rfl | rfl | rfl | rfl | rfl <;>
    (rw [regWrite, hw]; rfl)

theorem regWrite_unreached {s : State} {path : Path} {p : Nat} (v : Word) (hw : writable s path p = false) :
    regWrite s path p v = s := by
  simp [regWrite, hw]

/-- A write that reaches a register is none of a production test register (R12, R635). -/
theorem testRegister_of_writable {s : State} {path : Path} {p : Nat} (h : writable s path p = true) :
    testRegister s path p = false := by
  unfold writable inSpace at h
  simp only [Bool.and_eq_true, decide_eq_true_eq] at h
  obtain ⟨⟨⟨⟨-, ⟨-, hp⟩, -⟩, -⟩, -⟩, -⟩ := h
  simp [testRegister, Nat.not_le.mpr hp]

/-- A register write that is no test register's runs. -/
theorem exec_registerWrite {s : State} {path : Path} {p : Word16} (v : Word) (ht : testRegister s path p.toNat = false) :
    exec (.registerWrite path p v) s = awake s (regWrite (popCommit s path p.toNat v) path p.toNat v) := by
  show execRegisterWrite path p v s = _
  simp [execRegisterWrite, ht]

theorem exec_registerWrite_testRegister {s : State} {path : Path} {p : Word16} (v : Word) (ht : testRegister s path p.toNat = true) :
    exec (.registerWrite path p v) s = .refused .testRegister := by
  show execRegisterWrite path p v s = _
  simp [execRegisterWrite, ht]

/-- A write that reaches no register has no effect (R12). -/
theorem registerWrite_unreached {s : State} {path : Path} {p : Word16} (v : Word) (hw : writable s path p.toNat = false)
    (ht : testRegister s path p.toNat = false) :
    ∃ t, exec (.registerWrite path p v) s = .next t ∧ Changes [.hst] [] s t := by
  rw [exec_registerWrite v ht, regWrite_unreached v (by simpa using hw)]
  cases hres : s.sys.inReset with
  | true => exact ⟨s, awake_reset _ hres, Only.refl _ s, OnlyRegs.refl _ s⟩
  | false => exact ⟨_, awake_next _ hres, (popCommit_changes s path p.toNat v).queued⟩

/-- A write of a register of plain storage acts by the access codes on that register alone (R13). -/
theorem registerWrite_plain {s : State} {path : Path} {p : Word16} (v : Word) (hp : p.toNat ∈ plainRegisters)
    (hw : writable s path p.toNat = true) :
    ∃ t, exec (.registerWrite path p v) s = .next t ∧
      (∀ r i, rowOf p.toNat = some (r, i) → t.rd p.toNat = ((s.rd p.toNat &&& ~~~BitVec.ofNat 32 (r.rw ||| r.rwl)) |||
        (v &&& BitVec.ofNat 32 (r.rw ||| r.rwl)) ||| (v &&& BitVec.ofNat 32 r.sc)) &&& ~~~(v &&& BitVec.ofNat 32 r.w1c)) ∧
      Changes [.regs, .heldU, .heldB, .hst] [p.toNat] s t := by
  rw [exec_registerWrite v (testRegister_of_writable hw), regWrite_plain v hp (by simpa using hw)]
  have hpop := popCommit_changes s path p.toNat v
  refine ⟨_, awake_next _ (writable_awake hw), fun r i hrow => ?_, Changes.queued ⟨?_, ?_⟩⟩
  · show (storeCoded (popCommit s path p.toNat v) p.toNat v).rd p.toNat = _
    rw [storeCoded_rd_same v hrow, popCommit_rd]
  · exact storeCoded_step _ _ _ (hpop.1.mono (by decide)) (by decide)
  · exact (hpop.2.mono (by simp)).trans (storeCoded_onlyRegs _ _ _)

/-! ### W1C bits (R15) -/

theorem bitN_eq_testBit (n b : Nat) : bitN n b = n.testBit b := by
  simp [bitN, Nat.testBit_eq_decide_div_mod_eq]

/-- Of the hardware's set events in a register, the one of bit b stands at bit b alone. -/
theorem bitN_oneBit_and {b : Nat} (m k : Nat) (hb : b < 32) :
    bitN (BitVec.ofNat 32 (2 ^ b) &&& BitVec.ofNat 32 m).toNat k = (decide (b = k) && bitN m b) := by
  have hlt : 2 ^ b < 2 ^ 32 := Nat.pow_lt_pow_right (by decide) hb
  rw [bitN_eq_testBit, bitN_eq_testBit, BitVec.toNat_and, BitVec.toNat_ofNat, BitVec.toNat_ofNat, Nat.mod_eq_of_lt hlt,
    Nat.testBit_and, Nat.testBit_mod_two_pow, Nat.testBit_two_pow]
  by_cases hk : b = k
  · subst hk; simp [hb]
  · simp [hk]

/-- A fold whose every step leaves some part of what it carries leaves it. -/
theorem foldl_keeps {σ α β : Type} {part : σ → β} {f : σ → α → σ} (hf : ∀ t a, part (f t a) = part t) (xs : List α) (s : σ) :
    part (xs.foldl f s) = part s := by
  induction xs generalizing s with
  | nil => rfl
  | cons a xs ih => exact (ih _).trans (hf s a)

/-- A fold over the indices below n that acts at one of them alone acts there once. -/
theorem foldl_range_single {α : Type} {f : α → Nat → α} {n b : Nat} (s : α) (hb : b < n) (hf : ∀ t k, k ≠ b → f t k = t) :
    (List.range n).foldl f s = f s b := by
  induction n with
  | zero => omega
  | succ n ih =>
    rw [List.range_succ, List.foldl_append, List.foldl_cons, List.foldl_nil]
    by_cases hn : b = n
    · subst hn
      have hid : (List.range b).foldl f s = s := by
        refine List.foldlRecOn (motive := fun t => t = s) _ f rfl fun t ht k hk => ?_
        rw [hf t k (by have := List.mem_range.mp hk; omega), ht]
      rw [hid]
    · rw [ih (by omega), hf _ _ (Ne.symm hn)]

/-- With no set event of hardware the written bits clear and nothing else happens. -/
theorem w1cClear_zero {s : State} {p : Nat} {r : Row} {i : Nat} (mask : Word) (hrow : rowOf p = some (r, i)) :
    w1cClear s p mask 0 = s.wr p (s.rd p &&& ~~~(mask &&& BitVec.ofNat 32 r.w1c)) := by
  have hbit (b : Nat) : bitN ((0 : Word) &&& BitVec.ofNat 32 r.w1c).toNat b = false := by simp [bitN]
  simp only [w1cClear, hrow, hbit, Bool.false_eq_true, if_false]
  exact foldl_keeps (part := id) (fun _ _ => rfl) _ _

/-- With a set event of bit b the flag there is raised after the written bits have cleared (R15). -/
theorem w1cClear_oneBit {s : State} {p b : Nat} {r : Row} {i : Nat} {g : Flag} (mask : Word) (hrow : rowOf p = some (r, i)) (hb : b < 32)
    (hw : bitN r.w1c b = true) (hg : flagAt p b = some g) :
    w1cClear s p mask (BitVec.ofNat 32 (2 ^ b)) = (s.wr p (s.rd p &&& ~~~(mask &&& BitVec.ofNat 32 r.w1c))).raise g := by
  simp only [w1cClear, hrow, bitN_oneBit_and _ _ hb, hw, Bool.and_true, decide_eq_true_eq]
  rw [foldl_range_single _ hb fun t k hk => if_neg (Ne.symm hk), if_pos rfl, hg]

/-- The table of flags keeps each counter in another register than its flag, and in eight bits of it (R16). -/
theorem flagRows_counter_apart : ∀ e ∈ flagRows, e.1 ≠ e.2.2.1 ∧ e.2.2.2.1 < 25 := by decide +kernel

/-- The flag at a bit of a register stands at that bit, and its counter in another register. -/
theorem flagAt_some {p b : Nat} {g : Flag} (h : flagAt p b = some g) : g.ptr = p ∧ g.bit = b ∧ p ≠ g.cptr ∧ g.clo < 25 := by
  obtain ⟨⟨fp, b', cp, cl, st, n⟩, hmem, hrow⟩ := List.exists_of_findSome?_eq_some h
  obtain ⟨hne, hcl⟩ := flagRows_counter_apart _ hmem
  simp only [Option.ite_none_right_eq_some, Option.some.injEq] at hrow
  obtain ⟨⟨hle, -, -, hd⟩, rfl⟩ := hrow
  refine ⟨rfl, rfl, ?_, hcl⟩
  have hptr : p = fp + (if st = 0 then 0 else (p - fp) / st) * st := by rw [← hd]; omega
  intro heq
  exact hne (Nat.add_right_cancel (hptr.symm.trans heq))

/-- One set event counts once, in its flag and in its counter (R15 to R18). -/
theorem counted_raise (s : State) (g : Flag) (hp : g.ptr ≠ g.cptr) (hb : g.bit < 32) (hc : g.clo < 25) : counted g s (s.raise g) :=
  ⟨State.get_raise_flag s g hp hb, State.get_raise_count s g hc⟩

theorem exec_w1cClear {s : State} {path : Path} {p : Word16} (v hwset : Word) (hw : writable s path p.toNat = true) :
    exec (.w1cClear path p v hwset) s = .next ((w1cClear (granted s p.toNat) p.toNat v hwset).queued s.pending) := by
  show execW1cClear path p v hwset s = _
  rw [execW1cClear, if_pos hw, awake_next _ (writable_awake hw)]

theorem granted_changes (s : State) (p : Nat) : Changes [.hst] [] s (granted s p) := ⟨granted_only s p, fun q _ => granted_rd s p q⟩

/-- A W1C write clears the flags it names (R15). -/
theorem w1cClear_clears {s : State} {path : Path} {p : Word16} {r : Row} {i : Nat} (v : Word) (hrow : rowOf p.toNat = some (r, i))
    (hw : writable s path p.toNat = true) :
    ∃ t, exec (.w1cClear path p v 0) s = .next t ∧ t.rd p.toNat = s.rd p.toNat &&& ~~~(v &&& BitVec.ofNat 32 r.w1c) ∧
      Changes [.regs, .hst] [p.toNat] s t := by
  have hgr := granted_changes s p.toNat
  refine ⟨_, exec_w1cClear v 0 hw, ?_, Changes.queued ⟨?_, ?_⟩⟩
  · rw [w1cClear_zero v hrow, granted_rd]
    exact State.rd_wr_same _ _ _
  · exact w1cClear_step _ _ _ _ (hgr.1.mono (by decide)) (by decide)
  · rw [w1cClear_zero v hrow]
    exact (hgr.2.mono (by simp)).wr (by simp)

/-- A set event of the cycle of a W1C write stands and counts (R15, R17). -/
theorem w1cClear_event_stands {s : State} {path : Path} {p : Word16} {r : Row} {i b : Nat} {g : Flag} (v : Word)
    (hrow : rowOf p.toNat = some (r, i)) (hw : writable s path p.toNat = true) (hb : b < 32) (hbit : bitN r.w1c b = true)
    (hg : flagAt p.toNat b = some g) :
    ∃ t, exec (.w1cClear path p v (BitVec.ofNat 32 (2 ^ b))) s = .next t ∧ counted g s t ∧
      Changes [.regs, .hst] [p.toNat, g.cptr] s t := by
  obtain ⟨hptr, hgb, hne, hclo⟩ := flagAt_some hg
  have hgr := granted_changes s p.toNat
  refine ⟨_, exec_w1cClear v _ hw, ?_, Changes.queued ⟨?_, ?_⟩⟩
  · rw [w1cClear_oneBit v hrow hb hbit hg]
    obtain ⟨hflag, hcount⟩ := counted_raise ((granted s p.toNat).wr p.toNat _) g (hptr ▸ hne) (hgb ▸ hb) hclo
    refine ⟨hflag, hcount.trans ?_⟩
    rw [State.get_wr_other _ _ _ _ (Ne.symm hne), granted_get]
  · exact w1cClear_step _ _ _ _ (hgr.1.mono (by decide)) (by decide)
  · rw [w1cClear_oneBit v hrow hb hbit hg]
    exact ((hgr.2.mono (by simp)).wr (by simp)).raise (by simp [hptr]) (by simp)

end Sys2Proof.Machine

open Sys2Proof Sys2Proof.Machine in
/-- Settles O38, a clause at a time: a plain register, a write that reaches none, a production test register, and the two W1C clauses. -/
theorem registerAccesses : Obligations.RegisterAccesses := by
  unfold Obligations.RegisterAccesses
  intro s path p v
  refine ⟨fun hp hw => registerWrite_plain v hp hw, fun hw ht => registerWrite_unreached v hw ht, fun hp hpath hlc hres => ?_,
    fun r i hrow hw => w1cClear_clears v hrow hw,
    fun r i b g hrow hw hb hbit hg => w1cClear_event_stands v hrow hw hb hbit hg⟩
  exact exec_registerWrite_testRegister v (by subst hpath; simp [testRegister, hp, hlc, hres])

end

section
/-! The sense chain: decimation, calibration, rotation and rails (R220 to R243). -/

namespace Sys2Proof.Machine

/-! ### Gates of data paths (R34 to R36) -/

theorem State.rd_raiseN_other (s : State) (g : Flag) (n q : Nat) (h : q ≠ g.ptr) (k : q ≠ g.cptr) : (s.raiseN g n).rd q = s.rd q := by
  unfold State.raiseN
  dsimp only
  split
  · rfl
  · rw [State.rd_set_other _ _ _ _ k, State.rd_set_other _ _ _ _ h]

/-- n events leave the flag at 1 and the counter n higher (R36). -/
theorem State.get_raiseN (s : State) (g : Flag) (n : Nat) (hn : n ≠ 0) (hp : g.ptr ≠ g.cptr) (hb : g.bit < 32) (hc : g.clo < 25) :
    (s.raiseN g n).get ⟨g.ptr, g.bit, g.bit⟩ = 1 ∧
      (s.raiseN g n).get ⟨g.cptr, g.clo + 7, g.clo⟩ = (s.get ⟨g.cptr, g.clo + 7, g.clo⟩ + n) % 256 := by
  have hok : Fld.ok ⟨g.cptr, g.clo + 7, g.clo⟩ := ⟨Nat.le_add_right _ _, by show g.clo + 7 < 32; omega⟩
  have hwidth : g.clo + 7 + 1 - g.clo = 8 := by omega
  unfold State.raiseN
  rw [if_neg hn]
  constructor
  · rw [State.get_set_other _ _ _ _ hp, State.get_set_same _ _ _ ⟨Nat.le_refl _, hb⟩]
    simp
  · rw [State.get_set_same _ _ _ hok]
    simp [hwidth]

/-- GD4 takes a payload while fewer than three wait in it. -/
theorem gatePush_gd4_room {s : State} (ws : List Word) (h : (s.gate .gd4).length < 3) :
    gatePush s .gd4 ws = { s with gates := s.gates.modify (gateIdx .gd4) (· ++ [ws]) } :=
  if_neg (by simpa [gateCapacity, gateWaiting, gateShared] using h)

/-- A full GD4 discards the payload and counts each word of it as a stall (R36). -/
theorem gatePush_gd4_full {s : State} (ws : List Word) (h : 3 ≤ (s.gate .gd4).length) :
    gatePush s .gd4 ws = s.raiseN G.SYS_GD4_STALL ws.length :=
  if_pos (by simpa [gateCapacity, gateWaiting, gateShared] using h)

/-- GS1 is no data path: what is presented waits, and no register changes. -/
theorem gatePush_gs1_rd (s : State) (ws : List Word) (p : Nat) : (gatePush s .gs1 ws).rd p = s.rd p := rfl

/-- The words that the decimators give. -/
def decimatorWords (s : State) : List Word := s.sense.inputs.map fun x => (Config.decimOut x.tok).setWidth 32

/-- The state in which the decimators present their words. -/
def decimated (s : State) : State := s.snsUp fun x => { x with inputs := x.inputs.map fun y => { y with tok := Config.decimTick y.tok } }

theorem decimate_eq (s : State) : decimate s = gatePush (decimated s) .gd4 (decimatorWords s) := rfl

theorem decimated_changes (s : State) : Changes [.sense] [] s (decimated s) := ⟨State.snsUp_only s _, fun _ _ => rfl⟩

theorem decimate_room {s : State} (h : (s.gate .gd4).length < 3) :
    (decimate s).gates = s.gates.modify (gateIdx .gd4) (· ++ [decimatorWords s]) ∧ Changes [.gates, .sense] [] s (decimate s) := by
  rw [decimate_eq, gatePush_gd4_room (s := decimated s) _ h]
  exact ⟨rfl, only_with_gates_step _ _ ((decimated_changes s).1.mono (by decide)) (by decide), fun _ _ => rfl⟩

theorem decimate_full {s : State} (h : 3 ≤ (s.gate .gd4).length) :
    decimate s = (decimated s).raiseN G.SYS_GD4_STALL s.sense.inputs.length := by
  rw [decimate_eq, gatePush_gd4_full (s := decimated s) _ h, decimatorWords, List.length_map]

theorem decimate_full_changes {s : State} (h : 3 ≤ (s.gate .gd4).length) :
    Changes [.regs, .sense] [G.SYS_GD4_STALL.ptr, G.SYS_GD4_STALL.cptr] s (decimate s) := by
  rw [decimate_full h]
  refine ⟨State.raiseN_step _ _ _ ((decimated_changes s).1.mono (by decide)) (by decide), fun q hq => ?_⟩
  simp only [List.mem_cons, List.not_mem_nil, or_false, not_or] at hq
  exact State.rd_raiseN_other (decimated s) _ _ q hq.1 hq.2

theorem exec_decimatorOutput {s : State} (h : s.sys.inReset = false) :
    exec .decimatorOutput s = .next ((decimate s).queued s.pending) := awake_next _ h

/-! ### Slices and their calibration (R225, R226) -/

theorem showSpares_rd (s : State) (p : Nat) (h : p ≠ R.SNS_POOL) : (showSpares s).rd p = s.rd p := by
  unfold showSpares
  rw [State.rd_set_other _ _ _ _ h, State.rd_set_other _ _ _ _ h]

/-- The spares that are shown stand beside CAL and RETIRED in SNS_POOL. -/
theorem showSpares_get (s : State) (f : Fld) (hf : f.ok) (ha : F.SNS_POOL_SPARE_A.apart f) (hb : F.SNS_POOL_SPARE_B.apart f) :
    (showSpares s).get f = s.get f := by
  unfold showSpares
  rw [State.get_set_apart _ _ _ _ ⟨by decide, by decide⟩ hf hb, State.get_set_apart _ _ _ _ ⟨by decide, by decide⟩ hf ha]

theorem showSpares_get_cal (s : State) : (showSpares s).get F.SNS_POOL_CAL = s.get F.SNS_POOL_CAL :=
  showSpares_get s _ ⟨by decide, by decide⟩ (.inl (by decide)) (.inl (by decide))

theorem showSpares_get_retired (s : State) : (showSpares s).get F.SNS_POOL_RETIRED = s.get F.SNS_POOL_RETIRED :=
  showSpares_get s _ ⟨by decide, by decide⟩ (.inr (by decide)) (.inr (by decide))

/-- The registers that a latched outcome writes are SNS_CALR0 and SNS_CALR1. -/
theorem latchCal_onlyRegs (s : State) (n : Nat) (o : CalOutcome) : OnlyRegs [R.SNS_CALR0, R.SNS_CALR1] s (latchCal s n o) := by
  have hregs : OnlyRegs [R.SNS_CALR0, R.SNS_CALR1] s
      (((((s.set F.SNS_CALR0_SEQ ((s.get F.SNS_CALR0_SEQ + 1) % 65536)).set F.SNS_CALR0_SLICE n).setB F.SNS_CALR0_PASS
        (calPasses o)).set F.SNS_CALR1_GAIN (min o.gain 65535)).set F.SNS_CALR1_OFFS (pattern 16 o.offs)) :=
    (((((OnlyRegs.refl _ s).set (by simp)).set (by simp)).setB (by simp)).set (by simp)).set (by simp)
  unfold latchCal
  dsimp only
  split
  · exact hregs.of_only (State.sliceUp_only _ _ _) (by decide)
  · exact hregs.of_only (State.sliceUp_only _ _ _) (by decide)

theorem latchCal_get_pass (s : State) (n : Nat) (o : CalOutcome) :
    (latchCal s n o).get F.SNS_CALR0_PASS = if calPasses o then 1 else 0 := by
  unfold latchCal
  dsimp only
  rw [← State.get_setB_same ((s.set F.SNS_CALR0_SEQ ((s.get F.SNS_CALR0_SEQ + 1) % 65536)).set F.SNS_CALR0_SLICE n) F.SNS_CALR0_PASS _
    ⟨by decide, by decide⟩]
  split <;>
    rw [State.sliceUp_get, State.get_set_other _ _ _ _ (by decide), State.get_set_other _ _ _ _ (by decide)]

theorem latchCal_get_slice (s : State) (n : Nat) (o : CalOutcome) (hn : n < 64) : (latchCal s n o).get F.SNS_CALR0_SLICE = n := by
  unfold latchCal
  dsimp only
  split <;>
    rw [State.sliceUp_get, State.get_set_other _ _ _ _ (by decide), State.get_set_other _ _ _ _ (by decide),
      State.get_setB_apart _ _ _ _ ⟨by decide, by decide⟩ ⟨by decide, by decide⟩ (.inl (by decide)),
      State.get_set_same _ _ _ ⟨by decide, by decide⟩] <;>
    exact Nat.mod_eq_of_lt hn

theorem latchCal_get_gain (s : State) (n : Nat) (o : CalOutcome) : (latchCal s n o).get F.SNS_CALR1_GAIN = min o.gain 65535 := by
  have hlt : min o.gain 65535 < 2 ^ 16 := by omega
  unfold latchCal
  dsimp only
  split <;>
    rw [State.sliceUp_get, State.get_set_apart _ _ _ _ ⟨by decide, by decide⟩ ⟨by decide, by decide⟩ (.inl (by decide)),
      State.get_set_same _ _ _ ⟨by decide, by decide⟩] <;>
    exact Nat.mod_eq_of_lt hlt

theorem latchCal_calCount (s : State) (n : Nat) (o : CalOutcome) : (latchCal s n o).sense.calCount = s.sense.calCount := by
  unfold latchCal
  dsimp only
  split <;> simp only [State.sliceUp_sense_calCount, State.set_sense, State.setB_sense]

/-- The gain of a calibration that passes fits its field. -/
theorem calPasses_gain {o : CalOutcome} (h : calPasses o = true) : min o.gain 65535 = o.gain := by
  unfold calPasses at h
  simp only [Bool.and_eq_true, decide_eq_true_eq] at h
  obtain ⟨⟨⟨-, hgain⟩, -⟩, -⟩ := h
  omega

/-! ### A slice is retired (R231, R234) -/

theorem queueRetire_rd (s : State) (kind n p : Nat) (hp : p ≠ G.BKG_LOG_OVER.ptr) (hc : p ≠ G.BKG_LOG_OVER.cptr) :
    (queueRetire s kind n).rd p = s.rd p := by
  unfold queueRetire queueRecord
  split
  · rfl
  · split
    · exact State.rd_raise_other _ _ _ hp hc
    · rfl

/-- A first trigger that is lost counts in its own channel, above 0x4000. -/
theorem loseFirst_rd (s : State) (v : Conv) (known p : Nat) (hp : p < 0x4000) : (loseFirst s v known).rd p = s.rd p := by
  unfold loseFirst
  split
  · rfl
  · split
    · rfl
    · refine State.rd_raise_other _ _ _ ?_ ?_
      · show p ≠ 0x4018 + 0x100 * (v.input / 2); omega
      · show p ≠ 0x401c + 0x100 * (v.input / 2); omega

/-- Giving up the conversion in work of slice n, if it has one: its first trigger is lost. -/
def conversionLost (s : State) (n : Nat) : State :=
  match (s.slice n).conv with
  | some v => loseFirst s v 0
  | none => s

/-- The first part of retiring slice n: its conversion in work yields no result, its RETIRED bit is set and RETIRE counts. -/
def retirementMarked (s : State) (n : Nat) : State :=
  let s0 := conversionLost s n
  let s1 := if n < 32 then s0.set F.SNS_RET_RETIRED (s.get F.SNS_RET_RETIRED ||| 2 ^ n)
    else s0.set F.SNS_POOL_RETIRED (s.get F.SNS_POOL_RETIRED ||| 2 ^ (n - 32))
  (s1.sliceUp n fun x => { x with conv := none, failed := false, ready := false }).raise G.SNSD_RETIRE

theorem retireSliceNow_eq (s : State) (n : Nat) :
    retireSliceNow s n = showSpares (queueRetire
      (if (retirementMarked s n).get F.SNS_POOL_CAL = n then (retirementMarked s n).set F.SNS_POOL_CAL 0x3F else retirementMarked s n)
      retireSlice n) := by
  unfold retireSliceNow retirementMarked conversionLost
  rfl

/-- Giving up a conversion leaves the registers below those of the channels. -/
theorem conversionLost_rd (s : State) (n p : Nat) (hp : p < 0x4000) : (conversionLost s n).rd p = s.rd p := by
  unfold conversionLost
  split
  · exact loseFirst_rd s _ 0 p hp
  · rfl

theorem retirementMarked_rd (s : State) (n p : Nat) (hlow : p < 0x4000)
    (hp : p ∉ [R.SNS_RET, R.SNS_POOL, G.SNSD_RETIRE.ptr, G.SNSD_RETIRE.cptr]) : (retirementMarked s n).rd p = s.rd p := by
  simp only [List.mem_cons, List.not_mem_nil, or_false, not_or] at hp
  obtain ⟨hret, hpool, hflag, hcount⟩ := hp
  unfold retirementMarked
  dsimp only
  rw [State.rd_raise_other _ _ _ hflag hcount, State.sliceUp_rd]
  split
  · exact (State.rd_set_other _ _ _ _ hret).trans (conversionLost_rd s n p hlow)
  · exact (State.rd_set_other _ _ _ _ hpool).trans (conversionLost_rd s n p hlow)

theorem retirementMarked_get_cal (s : State) (n : Nat) : (retirementMarked s n).get F.SNS_POOL_CAL = s.get F.SNS_POOL_CAL := by
  have h0 := conversionLost_rd s n R.SNS_POOL (by decide)
  unfold retirementMarked
  dsimp only
  rw [State.get_raise_other _ _ _ (by decide) (by decide), State.sliceUp_get]
  split
  · rw [State.get_set_other _ _ _ _ (by decide)]
    unfold State.get; rw [h0]
  · rw [State.get_set_apart _ _ _ _ ⟨by decide, by decide⟩ ⟨by decide, by decide⟩ (.inl (by decide))]
    unfold State.get; rw [h0]

/-- A bit put into a number stands there, where the number's field has room for it. -/
theorem bitN_or_two_pow (a : Nat) {n w : Nat} (h : n < w) : bitN ((a ||| 2 ^ n) % 2 ^ w) n = true := by
  rw [bitN_eq_testBit, Nat.testBit_mod_two_pow, Nat.testBit_or, Nat.testBit_two_pow]
  simp [h]

theorem retirementMarked_get_retired (s : State) (n : Nat) (hn : n < 34) :
    if n < 32 then bitN ((retirementMarked s n).get F.SNS_RET_RETIRED) n = true
    else bitN ((retirementMarked s n).get F.SNS_POOL_RETIRED) (n - 32) = true := by
  unfold retirementMarked
  dsimp only
  split
  · rw [State.get_raise_other _ _ _ (by decide) (by decide), State.sliceUp_get,
      State.get_set_same _ _ _ ⟨by decide, by decide⟩]
    exact bitN_or_two_pow _ ‹_›
  · rw [State.get_raise_other _ _ _ (by decide) (by decide), State.sliceUp_get,
      State.get_set_same _ _ _ ⟨by decide, by decide⟩]
    exact bitN_or_two_pow _ (show n - 32 < 2 by omega)

/-- A register other than those of slices and of the log keeps its word when a slice is retired. -/
theorem retireSliceNow_rd (s : State) (n p : Nat) (hlow : p < 0x4000)
    (hp : p ∉ [R.SNS_RET, R.SNS_POOL, G.SNSD_RETIRE.ptr, G.SNSD_RETIRE.cptr, G.BKG_LOG_OVER.ptr, G.BKG_LOG_OVER.cptr]) :
    (retireSliceNow s n).rd p = s.rd p := by
  have hmarked := retirementMarked_rd s n p hlow (fun h => hp (List.mem_append_left [G.BKG_LOG_OVER.ptr, G.BKG_LOG_OVER.cptr] h))
  simp only [List.mem_cons, List.not_mem_nil, or_false, not_or] at hp
  obtain ⟨-, hpool, -, -, hover, hcount⟩ := hp
  rw [retireSliceNow_eq, showSpares_rd _ _ hpool, queueRetire_rd _ _ _ _ hover hcount]
  split
  · rw [State.rd_set_other _ _ _ _ hpool, hmarked]
  · exact hmarked

theorem queueRetire_get (s : State) (kind n : Nat) (f : Fld) (hp : f.ptr ≠ G.BKG_LOG_OVER.ptr) (hc : f.ptr ≠ G.BKG_LOG_OVER.cptr) :
    (queueRetire s kind n).get f = s.get f := by
  unfold State.get
  rw [queueRetire_rd _ _ _ _ hp hc]

/-- CAL does not name a slice that has been retired. -/
theorem retireSliceNow_get_cal (s : State) (n : Nat) (h : s.get F.SNS_POOL_CAL = 0x3F) :
    (retireSliceNow s n).get F.SNS_POOL_CAL = 0x3F := by
  rw [retireSliceNow_eq, showSpares_get_cal, queueRetire_get _ _ _ _ (by decide) (by decide)]
  split
  · exact State.get_set_same _ _ _ ⟨by decide, by decide⟩
  · rw [retirementMarked_get_cal, h]

theorem retireSliceNow_retired (s : State) (n : Nat) (hn : n < 34) : sliceRetired (retireSliceNow s n) n = true := by
  have hmarked := retirementMarked_get_retired s n hn
  unfold sliceRetired
  rw [retireSliceNow_eq]
  split at hmarked
  · rw [if_pos ‹_›]
    unfold State.get
    rw [showSpares_rd _ _ (by decide), queueRetire_rd _ _ _ _ (by decide) (by decide)]
    split
    · rw [State.rd_set_other _ _ _ _ (by decide)]
      exact hmarked
    · exact hmarked
  · rw [if_neg ‹_›, showSpares_get_retired, queueRetire_get _ _ _ _ (by decide) (by decide)]
    split
    · rw [State.get_set_apart _ _ _ _ ⟨by decide, by decide⟩ ⟨by decide, by decide⟩ (.inr (by decide))]
      exact hmarked
    · exact hmarked

/-! ### The commands of slices (R225 to R227) -/

/-- The start-up calibration of one slice: a slice that fails is retired. -/
def calibrateSlice (outcomes : List CalOutcome) (t : State) (n : Nat) : State :=
  match outcomes[n]? with
  | none => t
  | some o => if sliceRetired t n then t else
      let t1 := latchCal t n o
      if calPasses o then t1 else retireSliceNow t1 n

/-- An input is served by the next good slice, where one is left. -/
def serveInput (good : List Nat) (t : State) (i : Nat) : State :=
  match good[i]? with
  | some n => t.set (sliceField i) n
  | none => inputWithoutSlice t i

theorem calibrateSlice_only (o : List CalOutcome) (t : State) (n : Nat) : Only [.regs, .gates, .sense, .bkg] t (calibrateSlice o t n) := by
  unfold calibrateSlice
  split
  · exact Only.refl _ _
  · refine Only.ite (Only.refl _ _) (Only.ite ?_ ?_)
    · exact (latchCal_only t n _).mono (by decide)
    · exact retireSliceNow_step _ _ ((latchCal_only t n _).mono (by decide)) (by decide)

theorem serveInput_only (good : List Nat) (t : State) (i : Nat) : Only [.regs, .gates, .sense, .bkg] t (serveInput good t i) := by
  unfold serveInput
  split
  · exact (State.set_only t _ _).mono (by decide)
  · exact (inputWithoutSlice_only t i).mono (by decide)

/-- The slices after the start-up calibration, before the inputs are served. -/
def slicesCalibrated (s : State) (o : List CalOutcome) : State := (List.range 34).foldl (calibrateSlice o) s

/-- The inputs served by the slices that are left. -/
def inputsServed (s : State) : State :=
  (List.range 32).foldl (serveInput ((List.range 34).filter fun n => !sliceRetired s n)) s

theorem startupCal_eq {s : State} (o : List CalOutcome) (h : s.sys.calDone = false) :
    startupCal s o = { showSpares (inputsServed (slicesCalibrated s o)) with
      sys := { (inputsServed (slicesCalibrated s o)).sys with calDone := true } } := by
  unfold startupCal
  rw [if_neg (by simp [h])]
  rfl

/-- The start-up calibration completes and leaves the rest of the device's own state. -/
theorem startupCal_sys {s : State} (o : List CalOutcome) (h : s.sys.calDone = false) :
    (startupCal s o).sys = { s.sys with calDone := true } := by
  have hcal : Only [.regs, .gates, .sense, .bkg] s (slicesCalibrated s o) := Only.foldl (calibrateSlice_only o) (Only.refl _ s)
  have hserve : Only [.regs, .gates, .sense, .bkg] s (inputsServed (slicesCalibrated s o)) := Only.foldl (serveInput_only _) hcal
  have hsys : (inputsServed (slicesCalibrated s o)).sys = s.sys := hserve .sys (by decide)
  rw [startupCal_eq o h, hsys]

theorem rotationStart_starts {s : State} {n m i : Nat} (hon : s.get F.SNS_ROT_ROT_EN = 1) (hrot : s.sense.rot = none)
    (hdue : s.bkg.rotDue = true) (hcal : s.sys.calDone = true) (hready : readySpare s = some n) (hold : oldestServing s = some (m, i)) :
    rotationStart s = ({ s with bkg := { s.bkg with rotDue := false } } : State).snsUp
      fun x => { x with rot := some { out := m, spare := n, input := i } } := by
  simp [rotationStart, rotationOn, State.on, hon, hrot, hdue, hcal, hready, hold]

theorem rotationOverlapEnd_ends {s : State} {r : Rotation} (hrot : s.sense.rot = some r) (hover : 256 ≤ r.trigs ∨ 256 ≤ r.upds) :
    rotationOverlapEnd s = s.snsUp fun x => { x with rot := some { r with isOver := true } } := by
  simp [rotationOverlapEnd, hrot, hover]

/-- The state in which the outcome of the slice in calibration is latched and no slice is in calibration any more. -/
def calLatched (s : State) (o : CalOutcome) : State := (latchCal s (s.get F.SNS_POOL_CAL) o).set F.SNS_POOL_CAL 0x3F

theorem calLatched_only (s : State) (o : CalOutcome) : Only [.regs, .sense] s (calLatched s o) :=
  State.set_step _ _ _ (latchCal_only s _ o) (by decide)

theorem calLatched_get_cal (s : State) (o : CalOutcome) : (calLatched s o).get F.SNS_POOL_CAL = 0x3F :=
  State.get_set_same _ _ _ ⟨by decide, by decide⟩

theorem calLatched_get (s : State) (o : CalOutcome) (f : Fld) (h : f.ptr ≠ R.SNS_POOL) :
    (calLatched s o).get f = (latchCal s (s.get F.SNS_POOL_CAL) o).get f := State.get_set_other _ _ _ _ h

theorem calLatched_onlyRegs (s : State) (o : CalOutcome) : OnlyRegs [R.SNS_POOL, R.SNS_CALR0, R.SNS_CALR1] s (calLatched s o) :=
  ((latchCal_onlyRegs s _ o).mono (by simp)).set (by simp)

/-- The state after the calibration of a slice that passes. -/
theorem sliceCalDone_pass {s : State} {o : CalOutcome} (hcal : s.get F.SNS_POOL_CAL < 34) (hpass : calPasses o = true) :
    sliceCalDone s o = showSpares (((calLatched s o).sliceUp (s.get F.SNS_POOL_CAL) fun x => { x with calSeq := s.sense.calCount + 1 }).snsUp
      fun x => { x with calCount := s.sense.calCount + 1 }) := by
  unfold sliceCalDone
  rw [if_neg (by omega), if_pos hpass]
  rfl

theorem sliceCalDone_fail {s : State} {o : CalOutcome} (hcal : s.get F.SNS_POOL_CAL < 34) (hfail : calPasses o = false) :
    sliceCalDone s o = retireSliceNow (calLatched s o) (s.get F.SNS_POOL_CAL) := by
  unfold sliceCalDone
  rw [if_neg (by omega), if_neg (by simp [hfail])]
  rfl

/-- A field of another register than SNS_POOL after a calibration that passes is the one that was latched. -/
theorem sliceCalDone_pass_get {s : State} {o : CalOutcome} (hcal : s.get F.SNS_POOL_CAL < 34) (hpass : calPasses o = true) (f : Fld)
    (hf : f.ptr ≠ R.SNS_POOL) : (sliceCalDone s o).get f = (latchCal s (s.get F.SNS_POOL_CAL) o).get f := by
  rw [sliceCalDone_pass hcal hpass]
  unfold State.get
  rw [showSpares_rd _ _ hf, State.snsUp_rd, State.sliceUp_rd]
  exact calLatched_get s o f hf

theorem sliceCalDone_pass_publishes {s : State} {o : CalOutcome} (hcal : s.get F.SNS_POOL_CAL < 34) (hpass : calPasses o = true) :
    (sliceCalDone s o).get F.SNS_POOL_CAL = 0x3F ∧ (sliceCalDone s o).get F.SNS_CALR0_PASS = 1 ∧
      (sliceCalDone s o).get F.SNS_CALR0_SLICE = s.get F.SNS_POOL_CAL ∧ (sliceCalDone s o).get F.SNS_CALR1_GAIN = o.gain ∧
      (sliceCalDone s o).sense.calCount = s.sense.calCount + 1 := by
  refine ⟨?_, ?_, ?_, ?_, ?_⟩
  · rw [sliceCalDone_pass hcal hpass, showSpares_get_cal, State.snsUp_get, State.sliceUp_get]
    exact calLatched_get_cal s o
  · rw [sliceCalDone_pass_get hcal hpass _ (by decide), latchCal_get_pass, if_pos hpass]
  · rw [sliceCalDone_pass_get hcal hpass _ (by decide), latchCal_get_slice _ _ _ (by omega)]
  · rw [sliceCalDone_pass_get hcal hpass _ (by decide), latchCal_get_gain, calPasses_gain hpass]
  · rw [sliceCalDone_pass hcal hpass, showSpares_only _ .sense (by decide)]
    rfl

theorem sliceCalDone_pass_changes {s : State} {o : CalOutcome} (hcal : s.get F.SNS_POOL_CAL < 34) (hpass : calPasses o = true) :
    Changes [.regs, .sense] [R.SNS_POOL, R.SNS_CALR0, R.SNS_CALR1] s (sliceCalDone s o) := by
  rw [sliceCalDone_pass hcal hpass]
  refine ⟨showSpares_step _ (State.snsUp_step _ _ (State.sliceUp_step _ _ _ (calLatched_only s o) (by decide)) (by decide)) (by decide),
    fun p hp => ?_⟩
  rw [showSpares_rd _ _ (fun h => hp (by simp [h])), State.snsUp_rd, State.sliceUp_rd]
  exact calLatched_onlyRegs s o p hp

theorem sliceCalDone_fail_retires {s : State} {o : CalOutcome} (hcal : s.get F.SNS_POOL_CAL < 34) (hfail : calPasses o = false) :
    (sliceCalDone s o).get F.SNS_POOL_CAL = 0x3F ∧ (sliceCalDone s o).get F.SNS_CALR0_PASS = 0 ∧
      sliceRetired (sliceCalDone s o) (s.get F.SNS_POOL_CAL) = true := by
  rw [sliceCalDone_fail hcal hfail]
  refine ⟨retireSliceNow_get_cal _ _ (calLatched_get_cal s o), ?_, retireSliceNow_retired _ _ hcal⟩
  have hpass : (calLatched s o).get F.SNS_CALR0_PASS = 0 := by
    rw [calLatched_get _ _ _ (by decide), latchCal_get_pass, hfail]
    rfl
  unfold State.get at hpass ⊢
  rw [retireSliceNow_rd _ _ _ (by decide) (by decide)]
  exact hpass

/-! ### Rails (R238) -/

/-- An integer over 1 is itself. -/
theorem rneDiv_one (n : Int) : rneDiv n 1 = n := by
  simp [rneDiv]

theorem State.rd_cond_other (s : State) (g : Flag) (b : Bool) (q : Nat) (h : q ≠ g.ptr) (k : q ≠ g.cptr) : (s.cond g b).rd q = s.rd q := by
  unfold State.cond
  dsimp only
  split
  · split
    · rfl
    · exact State.rd_raise_other _ g q h k
  · rfl

/-- Presenting a comparator condition changes no register. -/
theorem reportCompare_rd (s : State) (c p : Nat) : (reportCompare s c).rd p = s.rd p := by
  have hodd : (if oddHalf s c then { s with loops := s.loops.modify c fun x => { x with cmpSent := false } } else s : State).rd p =
      s.rd p := by
    split <;> rfl
  unfold reportCompare
  dsimp only
  split
  · exact hodd
  · rw [gatePush_gs1_rd]
    exact hodd

/-- With an average over one code each code is published at once, with its factor. -/
theorem railConversion_publishes {s : State} {n : Nat} (code : BitVec 12) (hn : n < 4) (havg : bitsN (s.live (0x1A0 + 4 * n)).toNat 29 28 = 0)
    (hcodes : (s.sense.rails.getD n {}).codes = []) :
    (railConversion s n code.toNat).rd (0x1C0 + 4 * n) =
      BitVec.ofNat 32 (rff (bitsN (s.live (0x1B0 + 4 * n)).toNat 11 0) code.toNat * 65536 + code.toNat) := by
  have hmean : code.toNat % 4096 = code.toNat := Nat.mod_eq_of_lt code.isLt
  have hreport (t : State) (cs : List Nat) : (cs.foldl reportCompare t).rd (0x1C0 + 4 * n) = t.rd (0x1C0 + 4 * n) :=
    List.foldlRecOn (motive := fun u => u.rd (0x1C0 + 4 * n) = t.rd (0x1C0 + 4 * n)) cs reportCompare rfl
      fun u hu c _ => (reportCompare_rd u c _).trans hu
  unfold railConversion
  simp only [havg, hcodes, List.nil_append, List.length_singleton, List.sum_singleton, Nat.pow_zero, Nat.lt_irrefl, if_false, rneDiv_one,
    Int.toNat_natCast, hmean]
  rw [hreport, State.rd_cond_other _ _ _ _ (by show _ ≠ 0x1D0; omega) (by show _ ≠ 0x1D8; omega),
    State.rd_cond_other _ _ _ _ (by show _ ≠ 0x1D0; omega) (by show _ ≠ 0x1D4; omega), State.snsUp_rd, State.rd_wr_same]

end Sys2Proof.Machine

open Sys2Proof Sys2Proof.Machine in
/-- Settles O20, a command at a time. -/
theorem senseCommands : Obligations.SenseCommands := by
  unfold Obligations.SenseCommands
  intro s
  refine ⟨fun hres hroom => ?_, fun hres hfull => ?_, fun o hres hdone => ?_, fun n m i hres hon hrot hdue hcal hready hold => ?_,
    fun r hres hrot hover => ?_, fun o hres hcal hpass => ?_, fun o hres hcal hfail => ?_, fun n code hres havg hcodes => ?_, fun hread => ?_⟩
  · obtain ⟨hgates, hchanges⟩ := decimate_room hroom
    exact ⟨_, exec_decimatorOutput hres, hgates, hchanges.queued⟩
  · refine ⟨_, exec_decimatorOutput hres, ?_, fun hlen => ?_, (decimate_full_changes hfull).queued⟩
    · exact (decimate_full_changes hfull).1 .gates (by decide)
    · show (decimate s).get _ = 1 ∧ (decimate s).get _ = _
      rw [decimate_full hfull, hlen]
      exact State.get_raiseN (decimated s) _ 32 (by decide) (by decide) (by decide) (by decide)
  · exact ⟨_, awake_next _ hres, startupCal_sys o hdone, (startupCal_only s o).queued⟩
  · refine ⟨_, awake_next _ hres, ?_⟩
    rw [rotationStart_starts hon hrot hdue hcal hready hold]
    exact ⟨rfl, rfl, Changes.queued ⟨State.snsUp_step _ _ (only_with_bkg_step s _ (Only.refl _ s) (by decide)) (by decide), fun _ _ => rfl⟩⟩
  · refine ⟨_, awake_next _ hres, ?_⟩
    rw [rotationOverlapEnd_ends hrot hover]
    exact ⟨rfl, Changes.queued ⟨State.snsUp_only s _, fun _ _ => rfl⟩⟩
  · obtain ⟨hpool, hok, hslice, hgain, hcount⟩ := sliceCalDone_pass_publishes hcal hpass
    exact ⟨_, awake_next _ hres, hpool, hok, hslice, hgain, hcount, (sliceCalDone_pass_changes hcal hpass).queued⟩
  · obtain ⟨hpool, hok, hret⟩ := sliceCalDone_fail_retires hcal hfail
    exact ⟨_, awake_next _ hres, hpool, hok, hret, (sliceCalDone_only s o).queued⟩
  · exact ⟨_, awake_next _ hres, railConversion_publishes code n.isLt havg hcodes, (railConversion_only s n _).queued⟩
  · refine ⟨_, awake_next _ (readable_awake hread), ?_⟩
    rw [readAt_readable calRead hread]
    exact ⟨rfl, rfl, Changes.queued ⟨State.answer_step _ _ ((State.snsUp_only s _).mono (by decide)) (by decide), fun _ _ => rfl⟩⟩

end

section
/-! The update boundary (R13, R138). -/

namespace Sys2Proof.Machine

/-! ### The update boundary (R138) -/

/-- The work of an update boundary once the values of the update registers have come into force. -/
def updateWork (s : State) : State :=
  let s5 := startsAtUpdate (haltAtUpdate (releasesAtUpdate (rotationAtUpdate (replacementsAtUpdate s))))
  let s6 := eachOf 16 (fun t c => cbcAtUpdate (leakAtUpdate t c) c) (legsAtUpdate s5)
  let s7 := lanesStart (programsAtUpdate (comparatorsAtUpdate s6))
  holdRelease (hbAtUpdate s7)

/-- The state in which an update boundary begins: the compare words have reached SAFE and the marker stands in GD6. -/
def updateMarked (s : State) : State := gatePush (pwmActive s) .gd6 [0, BitVec.ofNat 32 s.time.updates]

/-- The update that runs has ended, and the boundary is no longer the first of its block. -/
def updateEnded (s : State) : State :=
  { endUpdate (updateMarked s) with time := { (endUpdate (updateMarked s)).time with atBlock := false } }

theorem updateBoundary_eq {s : State} (h : s.sys.counting = true) :
    updateBoundary s = updateWork (sourcesAtUpdate (if s.time.atBlock then snapLoop (updateEnded s) else updateEnded s)) := by
  unfold updateBoundary
  rw [if_neg (by simp [h])]
  rfl

/-- Neither time nor a value that is held moves in the boundary's work. -/
theorem updateWork_only (s : State) :
    Only [.regs, .banks, .conds, .gates, .free, .legs, .pwm, .safe, .dlCal, .pins, .sense, .lanes, .loops, .lanePool, .vent, .bkg, .twin] s
      (updateWork s) := by
  refine holdRelease_step _ (hbAtUpdate_step _ (lanesStart_step _ (programsAtUpdate_step _ (comparatorsAtUpdate_step _
    (Only.eachOf (fun t c => cbcAtUpdate_step _ _ ((leakAtUpdate_only t c).mono (by decide)) (by decide)) ?_) ?_) ?_) ?_) ?_) ?_
  · exact legsAtUpdate_step _ (startsAtUpdate_step _ (haltAtUpdate_step _ (releasesAtUpdate_step _ (rotationAtUpdate_step _
      ((replacementsAtUpdate_only s).mono (by decide)) (by decide)) (by decide)) (by decide)) (by decide)) (by decide)
  all_goals decide

/-- One channel's source at an update boundary, from the value before it. -/
def sourceAtUpdate (old : List Nat) (t : State) (c : Nat) : State :=
  let new := t.inForce (F.CH_MOD_SRC c)
  let t1 := srcAtUpdate t c (old.getD c 0) new
  if old.getD c 0 = 2 ∧ new = 1 then gainRestart t1 c else t1

theorem sourceAtUpdate_only (old : List Nat) (t : State) (c : Nat) : Only [.regs, .legs, .pwm, .vent] t (sourceAtUpdate old t c) := by
  have hsrc := (srcAtUpdate_only t c (old.getD c 0) (t.inForce (F.CH_MOD_SRC c))).mono (l := [.regs, .legs, .pwm, .vent]) (by decide)
  exact Only.ite (gainRestart_step _ _ hsrc (by decide)) hsrc

/-- Every RWL value of an update register is in force after the boundary's first work (R13). -/
theorem sourcesAtUpdate_heldU (s : State) : (sourcesAtUpdate s).heldU = [] := by
  have hsources : Only [.regs, .legs, .pwm, .vent] { s with heldU := [] } (sourcesAtUpdate s) :=
    Only.eachOf (sourceAtUpdate_only _) (Only.refl _ _)
  exact hsources .heldU (by decide)

/-- The end of an update moves time to the next one. -/
theorem endUpdate_time {s : State} (h : s.time.atBlock = false) :
    (endUpdate s).time.half = (!s.time.half) ∧ (endUpdate s).time.updates = (s.time.updates + 1) % 2 ^ 32 ∧
      (endUpdate s).time.updInBlock = s.time.updInBlock + 1 ∧ (endUpdate s).time.block = s.time.block := by
  have htime : (windowsAtUpdate (inputsAtUpdate (lanesEnd s))).time = s.time :=
    windowsAtUpdate_step (l₀ := [.regs, .conds, .gates, .legs, .sense, .lanes, .loops, .lanePool, .trace, .bkg]) _
      (inputsAtUpdate_step _ ((lanesEnd_only s).mono (by decide)) (by decide)) (by decide) .time (by decide)
  unfold endUpdate
  rw [if_neg (by simp [h])]
  simp [htime]

/-- At a block boundary the update that runs has ended already. -/
theorem endUpdate_atBlock {s : State} (h : s.time.atBlock = true) : endUpdate s = s := if_pos h

theorem updateMarked_time (s : State) : (updateMarked s).time = s.time :=
  gatePush_step (l₀ := [.regs, .gates, .safe]) _ _ _ ((pwmActive_only s).mono (by decide)) (by decide) .time (by decide)

theorem updateEnded_time {s : State} (h : s.time.atBlock = false) :
    (updateEnded s).time.half = (!s.time.half) ∧ (updateEnded s).time.updates = (s.time.updates + 1) % 2 ^ 32 ∧
      (updateEnded s).time.updInBlock = s.time.updInBlock + 1 ∧ (updateEnded s).time.block = s.time.block := by
  have hend := endUpdate_time (s := updateMarked s) (by rw [updateMarked_time, h])
  rw [updateMarked_time] at hend
  exact hend

theorem updateEnded_time_atBlock {s : State} (h : s.time.atBlock = true) :
    (updateEnded s).time = { s.time with atBlock := false } := by
  unfold updateEnded
  rw [endUpdate_atBlock (by rw [updateMarked_time, h]), updateMarked_time]

/-- The time after an update boundary is that of the update's end. -/
theorem updateBoundary_time {s : State} (h : s.sys.counting = true) : (updateBoundary s).time = (updateEnded s).time := by
  have hsnap : (if s.time.atBlock then snapLoop (updateEnded s) else updateEnded s).time = (updateEnded s).time := by
    split
    · exact snapLoop_only _ .time (by decide)
    · rfl
  rw [updateBoundary_eq h, updateWork_only _ .time (by decide), sourcesAtUpdate_only _ .time (by decide), hsnap]

/-- Every RWL value of an update register comes into force at an update boundary (R13). -/
theorem updateBoundary_heldU {s : State} (h : s.sys.counting = true) : (updateBoundary s).heldU = [] := by
  rw [updateBoundary_eq h, updateWork_only _ .heldU (by decide), sourcesAtUpdate_heldU]

/-- Before the media PLL has locked there is no update boundary (R555). -/
theorem updateBoundary_not_counting {s : State} (h : s.sys.counting = false) : updateBoundary s = s := if_pos (by simp [h])

theorem exec_updateBoundary {s : State} (h : s.sys.inReset = false) :
    exec .updateBoundary s = .next ((updateBoundary s).queued s.pending) := awake_next _ h

end Sys2Proof.Machine

open Sys2Proof Sys2Proof.Machine in
/-- Settles O6: within a block, at a block boundary, and before the media PLL has locked. -/
theorem updateBoundary : Obligations.UpdateBoundary := by
  unfold Obligations.UpdateBoundary
  refine fun s hres => ⟨fun hcount hat => ?_, fun hcount hat => ?_, fun hcount => ?_⟩
  · obtain ⟨hhalf, hupdates, hin, hblock⟩ := updateEnded_time hat
    rw [← updateBoundary_time hcount] at hhalf hupdates hin hblock
    exact ⟨_, exec_updateBoundary hres, hhalf, hupdates, hin, hblock, updateBoundary_heldU hcount, (updateBoundary_only s).queued⟩
  · exact ⟨_, exec_updateBoundary hres, (updateBoundary_time hcount).trans (updateEnded_time_atBlock hat), updateBoundary_heldU hcount⟩
  · rw [exec_updateBoundary hres, updateBoundary_not_counting hcount]
    rfl

end

section
/-! One register through an operation, and the rings of commands through the telemetry of a block boundary (R473 to R486). -/

namespace Sys2Proof.Machine

/-! ### One register through an operation -/

/-- The word at a pointer in a list of registers: what `State.rd` reads, as a function of the registers alone. -/
@[irreducible] def wordAt (regs : List (Nat × Word)) (p : Nat) : Word := kvGet resetWord regs p

theorem wordAt_regs (s : State) (p : Nat) : wordAt s.regs p = s.rd p := by
  unfold wordAt
  rfl

theorem wordAt_wr {s : State} {q p : Nat} {v : Word} (h : q ≠ p) : wordAt (s.wr q v).regs p = wordAt s.regs p := by
  rw [wordAt_regs, wordAt_regs, State.rd_wr_other _ _ _ _ (Ne.symm h)]

theorem wordAt_set {s : State} {f : Fld} {n p : Nat} (h : f.ptr ≠ p) : wordAt (s.set f n).regs p = wordAt s.regs p := wordAt_wr h

theorem wordAt_setB {s : State} {f : Fld} {b : Bool} {p : Nat} (h : f.ptr ≠ p) : wordAt (s.setB f b).regs p = wordAt s.regs p :=
  wordAt_set h

theorem wordAt_setFree {s : State} {f : Fld} {p : Nat} (h : f.ptr ≠ p) : wordAt (s.setFree f).regs p = wordAt s.regs p := wordAt_set h

theorem wordAt_raise {s : State} {g : Flag} {p : Nat} (h : g.ptr ≠ p) (k : g.cptr ≠ p) : wordAt (s.raise g).regs p = wordAt s.regs p :=
  (wordAt_set k).trans (wordAt_set h)

theorem wordAt_raiseN {s : State} {g : Flag} {n p : Nat} (h : g.ptr ≠ p) (k : g.cptr ≠ p) :
    wordAt (s.raiseN g n).regs p = wordAt s.regs p := by
  rw [wordAt_regs, wordAt_regs, State.rd_raiseN_other _ _ _ _ (Ne.symm h) (Ne.symm k)]

theorem wordAt_raiseIf {s : State} {b : Bool} {g : Flag} {p : Nat} (h : g.ptr ≠ p) (k : g.cptr ≠ p) :
    wordAt (s.raiseIf b g).regs p = wordAt s.regs p := by
  unfold State.raiseIf
  split
  · exact wordAt_raise h k
  · rfl

theorem wordAt_cond {s : State} {g : Flag} {b : Bool} {p : Nat} (h : g.ptr ≠ p) (k : g.cptr ≠ p) :
    wordAt (s.cond g b).regs p = wordAt s.regs p := by
  rw [wordAt_regs, wordAt_regs, State.rd_cond_other _ _ _ _ (Ne.symm h) (Ne.symm k)]

/-- An operation that leaves the registers leaves the word at every pointer. -/
theorem Only.wordAt {l : List Part} {s t : State} (h : Only l s t) (hl : .regs ∉ l) (p : Nat) : wordAt t.regs p = wordAt s.regs p :=
  congrArg (Machine.wordAt · p) (h .regs hl)

theorem wordAt_ite {c : Prop} [Decidable c] {t u : State} {p : Nat} {w : Word} (h : wordAt t.regs p = w) (k : wordAt u.regs p = w) :
    wordAt (if c then t else u).regs p = w := by
  split
  · exact h
  · exact k

theorem wordAt_foldl {α : Type} {p : Nat} {f : State → α → State} (hf : ∀ t a, wordAt (f t a).regs p = wordAt t.regs p) (xs : List α)
    (s : State) : wordAt (xs.foldl f s).regs p = wordAt s.regs p :=
  foldl_keeps (part := fun t : State => wordAt t.regs p) hf xs s

/-! ### Telemetry leaves the registers and the rings of commands (R473, R475, R486) -/

/-- A change of one ring leaves the others. -/
theorem ringUp_getD {s : State} {r c : Nat} {f : RingSt → RingSt} (h : r ≠ c) : (s.ringUp r f).rings.getD c {} = s.rings.getD c {} := by
  show (s.rings.modify r f).getD c {} = _
  simp [h]

section
variable {s : State} {r p : Nat}

/-- Every register of ring r stands at or above its first one. -/
theorem setCount_wordAt {n : Nat} (hp : p < R.RNG_CFG r) : wordAt (setCount s r n).regs p = wordAt s.regs p := by
  unfold setCount
  grind [wordAt_set, wordAt_setB]

theorem takeSeq_wordAt (hp : p < R.RNG_CFG r) : wordAt (takeSeq s r).regs p = wordAt s.regs p := by
  unfold takeSeq
  grind [wordAt_set]

/-- A word written to a memory may meet the injected error, which is then no longer armed. -/
theorem bankWritten_wordAt {b w : Nat} (hm : p ≠ R.MEM_INJ) : wordAt (bankWritten s b w).regs p = wordAt s.regs p := by
  have herr (k : Nat) (e : BitVec 145) : wordAt (setErr s k e).regs p = wordAt s.regs p := (setErr_only s k e).wordAt (by decide) p
  unfold bankWritten
  grind [wordAt_set]

theorem ringStore_wordAt {type ch : Nat} {payload : List Word} (hp : p < R.RNG_CFG r) (hm : p ≠ R.MEM_INJ) :
    wordAt (ringStore s r type ch payload).regs p = wordAt s.regs p := by
  unfold ringStore
  grind [wordAt_set, State.putBank_regs, setCount_wordAt, takeSeq_wordAt, bankWritten_wordAt]

theorem ringDrop_wordAt (hp : p < R.RNG_CFG r) : wordAt (ringDrop s r).regs p = wordAt s.regs p := by
  unfold ringDrop
  grind [wordAt_set, setCount_wordAt]

theorem flushLoss_wordAt (hp : p < R.RNG_CFG r) (hm : p ≠ R.MEM_INJ) : wordAt (flushLoss s r).regs p = wordAt s.regs p := by
  unfold flushLoss
  grind [wordAt_cond, State.ringUp_regs, ringStore_wordAt]

theorem loseEntry_wordAt (hp : p < R.RNG_CFG r) : wordAt (loseEntry s r).regs p = wordAt s.regs p := by
  unfold loseEntry
  grind [wordAt_set, wordAt_cond, State.ringUp_regs, takeSeq_wordAt]

theorem telProduce_wordAt {c type : Nat} {payload : List Word} (hp : p < R.RNG_CFG 16) (hm : p ≠ R.MEM_INJ) :
    wordAt (telProduce s c type payload).regs p = wordAt s.regs p := by
  have hr : p < R.RNG_CFG (16 + c) := by grind
  unfold telProduce
  grind [setCount_wordAt, takeSeq_wordAt, ringStore_wordAt, ringDrop_wordAt, flushLoss_wordAt, loseEntry_wordAt]

theorem telDrain_wordAt (hp : p < R.RNG_CFG 16) (hm : p ≠ R.MEM_INJ) : wordAt (telDrain s).regs p = wordAt s.regs p := by
  unfold telDrain
  exact wordAt_foldl (fun t ws => telProduce_wordAt hp hm) _ _

theorem windowEnd_wordAt (hf : G.BKG_WU_LATE.ptr ≠ p) (hc : G.BKG_WU_LATE.cptr ≠ p) :
    wordAt (windowEnd s).regs p = wordAt s.regs p := by
  unfold windowEnd
  grind [wordAt_raiseIf, State.bkgUp_regs]

end

section
variable {s : State} {r c : Nat}

theorem ringStore_rings {type ch : Nat} {payload : List Word} : (ringStore s r type ch payload).rings = s.rings :=
  ringStore_only s r type ch payload .rings (by decide)

theorem flushLoss_getD (h : r ≠ c) : (flushLoss s r).rings.getD c {} = s.rings.getD c {} := by
  unfold flushLoss
  grind [State.cond_rings, ringUp_getD, ringStore_rings]

theorem loseEntry_getD (h : r ≠ c) : (loseEntry s r).rings.getD c {} = s.rings.getD c {} := by
  have hseq : (takeSeq s r).rings = s.rings := takeSeq_only s r .rings (by decide)
  unfold loseEntry
  grind [State.cond_rings, State.set_rings, ringUp_getD]

theorem telProduce_getD {k type : Nat} {payload : List Word} (h : c < 16) :
    (telProduce s k type payload).rings.getD c {} = s.rings.getD c {} := by
  have hdrop (t : State) : (ringDrop t (16 + k)).rings = t.rings := ringDrop_only t _ .rings (by decide)
  have hcount (t : State) : (setCount (takeSeq t (16 + k)) (16 + k) 0).rings = t.rings :=
    setCount_step (l₀ := [.regs]) _ _ _ (takeSeq_only t _) (by decide) .rings (by decide)
  have hne : 16 + k ≠ c := by omega
  have hflush : (flushLoss s (16 + k)).rings.getD c {} = s.rings.getD c {} := flushLoss_getD hne
  unfold telProduce
  dsimp only
  split
  · rw [ringStore_rings, hflush]
  · split
    · rw [loseEntry_getD hne, hflush]
    · split
      · rw [ringStore_rings]
        split
        · rw [hdrop, hflush]
        · exact hflush
      · rw [hcount, hflush]

theorem telDrain_getD (h : c < 16) : (telDrain s).rings.getD c {} = s.rings.getD c {} := by
  unfold telDrain
  exact foldl_keeps (part := fun t : State => t.rings.getD c {}) (fun t ws => telProduce_getD h) _ _

end

/-! ### Boundaries at which no CMD ring has an eligible entry (R479) -/

/-- What is eligible in a CMD ring is a matter of its configuration, its status and what it has taken. -/
theorem cmdEligible_congr {s t : State} {c : Nat} (hcfg : wordAt t.regs (R.RNG_CFG c) = wordAt s.regs (R.RNG_CFG c))
    (hstat : wordAt t.regs (R.RNG_STAT c) = wordAt s.regs (R.RNG_STAT c)) (hring : t.rings.getD c {} = s.rings.getD c {}) :
    cmdEligible t c = cmdEligible s c := by
  rw [wordAt_regs, wordAt_regs] at hcfg hstat
  unfold cmdEligible ringCount State.on State.get State.ring
  rw [hcfg, hstat, hring]

/-- The telemetry that a boundary still stores leaves the CMD rings as they were. -/
theorem cmdEligible_telDrain {s : State} {c : Nat} (h : c < 16) : cmdEligible (telDrain s) c = cmdEligible s c :=
  cmdEligible_congr (telDrain_wordAt (by grind) (by grind)) (telDrain_wordAt (by grind) (by grind)) (telDrain_getD h)

/-- So does the end of a window of LOOP telemetry. -/
theorem cmdEligible_windowEnd (s : State) (c : Nat) : cmdEligible (windowEnd s) c = cmdEligible s c :=
  cmdEligible_congr (windowEnd_wordAt (by grind) (by grind)) (windowEnd_wordAt (by grind) (by grind))
    (by rw [windowEnd_only s .rings (by decide)])

/-- Where nothing is eligible the CMD rings only begin anew. -/
theorem cmdRings_quiet {s : State} (h : ∀ c < 16, cmdEligible s c = 0) : cmdRings s = cmdBoundaryEnd s := by
  have hidle : eachOf 16 (fun t c => cmdRun (cmdEligible t c) t c) s = s := by
    refine List.foldlRecOn (motive := fun t => t = s) _ _ rfl fun t ht c hc => ?_
    rw [ht, h c (List.mem_range.mp hc)]
    rfl
  unfold cmdRings
  rw [hidle]

end Sys2Proof.Machine

end

section
/-! Network time through a block boundary (R62): no stage of one but the step itself writes PTP_STAT. -/

namespace Sys2Proof.Machine

/-! PTP_STAT, whose STATE says whether a step of network time is pending (R62), keeps its word through each stage of the block
boundary. A stage whose whole frame the model's laws state takes it from there; of any other one the proof names the writes it
makes, each of another register. -/

theorem tdmDrive_ptpStat (s : State) (i : Nat) :
    wordAt (tdmDrive s i).regs R.PTP_STAT = wordAt s.regs R.PTP_STAT :=
  (tdmDrive_only s i).wordAt (by decide) _

theorem dropOther_ptpStat (s : State) : wordAt (dropOther s).regs R.PTP_STAT = wordAt s.regs R.PTP_STAT :=
  (dropOther_only s).wordAt (by decide) _

theorem legOff_ptpStat (s : State) (l : Nat) :
    wordAt (legOff s l).regs R.PTP_STAT = wordAt s.regs R.PTP_STAT :=
  (legOff_only s l).wordAt (by decide) _

theorem resetShapers_ptpStat (s : State) (c : Nat) :
    wordAt (resetShapers s c).regs R.PTP_STAT = wordAt s.regs R.PTP_STAT :=
  (resetShapers_only s c).wordAt (by decide) _

theorem markEvent_ptpStat (s : State) (c b : Nat) :
    wordAt (markEvent s c b).regs R.PTP_STAT = wordAt s.regs R.PTP_STAT :=
  (markEvent_only s c b).wordAt (by decide) _

theorem endComparison_ptpStat (s : State) :
    wordAt (endComparison s).regs R.PTP_STAT = wordAt s.regs R.PTP_STAT :=
  (endComparison_only s).wordAt (by decide) _

theorem injectionAtBlock_ptpStat (s : State) (c : Nat) :
    wordAt (injectionAtBlock s c).regs R.PTP_STAT = wordAt s.regs R.PTP_STAT :=
  (injectionAtBlock_only s c).wordAt (by decide) _

theorem sweepInc_ptpStat (s : State) (c : Nat) :
    wordAt (sweepInc s c).regs R.PTP_STAT = wordAt s.regs R.PTP_STAT :=
  (sweepInc_only s c).wordAt (by decide) _

theorem countSwitching_ptpStat (s : State) (c : Nat) :
    wordAt (countSwitching s c).regs R.PTP_STAT = wordAt s.regs R.PTP_STAT :=
  (countSwitching_only s c).wordAt (by decide) _

theorem applyMedia_ptpStat (s : State) (c : Nat) (a o : SnapChan) :
    wordAt (applyMedia s c a o).regs R.PTP_STAT = wordAt s.regs R.PTP_STAT :=
  (applyMedia_only s c a o).wordAt (by decide) _

theorem applyModel_ptpStat (s : State) (c : Nat) (a o : SnapChan) :
    wordAt (applyModel s c a o).regs R.PTP_STAT = wordAt s.regs R.PTP_STAT :=
  (applyModel_only s c a o).wordAt (by decide) _

theorem windowsAtUpdate_ptpStat (s : State) :
    wordAt (windowsAtUpdate s).regs R.PTP_STAT = wordAt s.regs R.PTP_STAT :=
  (windowsAtUpdate_only s).wordAt (by decide) _

theorem handOffAtBlock_ptpStat (s : State) :
    wordAt (handOffAtBlock s).regs R.PTP_STAT = wordAt s.regs R.PTP_STAT :=
  (handOffAtBlock_only s).wordAt (by decide) _

theorem speakerActivate_ptpStat (s : State) (c : Nat) :
    wordAt (speakerActivate s c).regs R.PTP_STAT = wordAt s.regs R.PTP_STAT :=
  (speakerActivate_only s c).wordAt (by decide) _

theorem gatePush_ptpStat (s : State) (g : Gate) (payload : List Word) :
    wordAt (gatePush s g payload).regs R.PTP_STAT = wordAt s.regs R.PTP_STAT := by
  have hstall (f : Flag) (hf : gateStall g = some f) : f.ptr ≠ R.PTP_STAT ∧ f.cptr ≠ R.PTP_STAT := by
    cases g <;> simp only [gateStall, Option.some.injEq, reduceCtorEq] at hf <;> subst hf <;> decide
  unfold gatePush
  split
  · rename_i f hf
    obtain ⟨hptr, hcptr⟩ := hstall f hf
    split
    · exact wordAt_raiseN hptr hcptr
    · rfl
  · rfl

theorem queueRecord_ptpStat (s : State) (r : LogRec) :
    wordAt (queueRecord s r).regs R.PTP_STAT = wordAt s.regs R.PTP_STAT := by
  unfold queueRecord
  grind [wordAt_raise]

theorem queueRetire_ptpStat (s : State) (kind n : Nat) :
    wordAt (queueRetire s kind n).regs R.PTP_STAT = wordAt s.regs R.PTP_STAT := by
  unfold queueRetire
  grind [queueRecord_ptpStat]

theorem streamsAtBlock_ptpStat (s : State) :
    wordAt (streamsAtBlock s).regs R.PTP_STAT = wordAt s.regs R.PTP_STAT := by
  refine wordAt_foldl (fun t i => ?_) _ s
  grind [wordAt_set, State.streamUp_regs]

theorem tdmShowLock_ptpStat (s : State) (i : Nat) :
    wordAt (tdmShowLock s i).regs R.PTP_STAT = wordAt s.regs R.PTP_STAT := by
  unfold tdmShowLock
  grind [wordAt_setB]

theorem aesShowLock_ptpStat (s : State) (i : Nat) :
    wordAt (aesShowLock s i).regs R.PTP_STAT = wordAt s.regs R.PTP_STAT := by
  unfold aesShowLock
  grind [wordAt_setB]

theorem tdmLose_ptpStat (s : State) (i : Nat) :
    wordAt (tdmLose s i).regs R.PTP_STAT = wordAt s.regs R.PTP_STAT := by
  unfold tdmLose
  grind [wordAt_set, wordAt_raise, State.tdmUp_regs, State.asrcUp_regs, tdmShowLock_ptpStat]

theorem aesLose_ptpStat (s : State) (i : Nat) :
    wordAt (aesLose s i).regs R.PTP_STAT = wordAt s.regs R.PTP_STAT := by
  unfold aesLose
  grind [wordAt_set, wordAt_raise, State.aesUp_regs, State.asrcUp_regs, aesShowLock_ptpStat]

theorem inputsAtBlock_ptpStat (s : State) :
    wordAt (inputsAtBlock s).regs R.PTP_STAT = wordAt s.regs R.PTP_STAT := by
  refine (wordAt_foldl (fun t i => ?_) _ _).trans (wordAt_foldl (fun t i => ?_) _ s)
  · grind [State.aesUp_regs, aesLose_ptpStat]
  · grind [State.tdmUp_regs, tdmDrive_ptpStat, tdmLose_ptpStat]

theorem sceneEndAtBlock_ptpStat (s : State) :
    wordAt (sceneEndAtBlock s).regs R.PTP_STAT = wordAt s.regs R.PTP_STAT := by
  unfold sceneEndAtBlock
  grind [wordAt_set, dropOther_ptpStat]

theorem sceneWarmAtBlock_ptpStat (s : State) :
    wordAt (sceneWarmAtBlock s).regs R.PTP_STAT = wordAt s.regs R.PTP_STAT := by
  unfold sceneWarmAtBlock
  grind [wordAt_setB, dropOther_ptpStat]

theorem sceneActivate_ptpStat (s : State) :
    wordAt (sceneActivate s).regs R.PTP_STAT = wordAt s.regs R.PTP_STAT := by
  unfold sceneActivate
  grind [wordAt_set, wordAt_raiseIf]

theorem overrunsAtBlock_ptpStat (s : State) :
    wordAt (overrunsAtBlock s).regs R.PTP_STAT = wordAt s.regs R.PTP_STAT := by
  refine wordAt_foldl (fun t q => ?_) _ s
  grind [wordAt_raise]

theorem coreSwap_ptpStat (s : State) (q : Nat) :
    wordAt (coreSwap s q).regs R.PTP_STAT = wordAt s.regs R.PTP_STAT := by
  unfold coreSwap
  grind [wordAt_set, wordAt_raise, queueRetire_ptpStat]

theorem coreFail_ptpStat (s : State) (q : Nat) :
    wordAt (coreFail s q).regs R.PTP_STAT = wordAt s.regs R.PTP_STAT := by
  have hmuted (t : State) (xs : List Nat) :
      wordAt (xs.foldl (fun t j => t.set (F.CH_MBST_MUTED_CORE (4 * q + j)) 1) t).regs R.PTP_STAT =
        wordAt t.regs R.PTP_STAT := wordAt_foldl (fun t j => wordAt_set (by grind)) xs t
  unfold coreFail
  dsimp only
  rw [wordAt_raise (by decide) (by decide), hmuted]

theorem kAtBlock_ptpStat (s : State) : wordAt (kAtBlock s).regs R.PTP_STAT = wordAt s.regs R.PTP_STAT := by
  unfold kAtBlock
  grind [wordAt_set]

theorem releaseOwn_ptpStat (s : State) :
    wordAt (releaseOwn s).regs R.PTP_STAT = wordAt s.regs R.PTP_STAT := by
  unfold releaseOwn
  grind [wordAt_setB]

theorem allOff_ptpStat (s : State) (fromMatrix : Bool) :
    wordAt (allOff s fromMatrix).regs R.PTP_STAT = wordAt s.regs R.PTP_STAT := by
  refine wordAt_foldl (fun t l => ?_) _ s
  rw [legOff_ptpStat, wordAt_raiseIf (by grind) (by grind)]

theorem holdAll_ptpStat (s : State) (fromMatrix : Bool) :
    wordAt (holdAll s fromMatrix).regs R.PTP_STAT = wordAt s.regs R.PTP_STAT := by
  have hstates (t : State) (l : Nat) : wordAt (t.set (F.MOD_STAT_STATE l) modSafe).regs R.PTP_STAT = wordAt t.regs R.PTP_STAT :=
    wordAt_set (by grind)
  refine (wordAt_foldl (fun t c => ?_) _ _).trans ((wordAt_foldl hstates _ _).trans (allOff_ptpStat s fromMatrix))
  rw [State.pwmUp_regs, resetShapers_ptpStat]

theorem enterSafe_ptpStat (s : State) (bit : Nat) (fromMatrix : Bool) :
    wordAt (enterSafe s bit fromMatrix).regs R.PTP_STAT = wordAt s.regs R.PTP_STAT := by
  unfold enterSafe
  grind [wordAt_set, wordAt_raise, State.safeUp_regs, releaseOwn_ptpStat, holdAll_ptpStat]

theorem inputAtUpdate_ptpStat (s : State) (i : Nat) :
    wordAt (inputAtUpdate s i).regs R.PTP_STAT = wordAt s.regs R.PTP_STAT := by
  unfold inputAtUpdate
  grind [wordAt_set, wordAt_raise, State.inputUp_regs]

theorem inputsAtUpdate_ptpStat (s : State) :
    wordAt (inputsAtUpdate s).regs R.PTP_STAT = wordAt s.regs R.PTP_STAT :=
  wordAt_foldl inputAtUpdate_ptpStat _ s

theorem countOverrun_ptpStat (s : State) (c : Nat) :
    wordAt (countOverrun s c).regs R.PTP_STAT = wordAt s.regs R.PTP_STAT := by
  unfold countOverrun
  grind [wordAt_set, wordAt_raise, State.loopUp_regs, markEvent_ptpStat]

theorem overrunTrip_ptpStat (s : State) (c : Nat) :
    wordAt (overrunTrip s c).regs R.PTP_STAT = wordAt s.regs R.PTP_STAT := by
  unfold overrunTrip
  grind [wordAt_raise, State.loopUp_regs, gatePush_ptpStat]

theorem withdrawWord_ptpStat (s : State) (l : Nat) (w : Nat) :
    wordAt (withdrawWord s l w).regs R.PTP_STAT = wordAt s.regs R.PTP_STAT := by
  unfold withdrawWord
  grind [wordAt_set]

theorem undoOut_ptpStat (s : State) (c : Nat) :
    wordAt (undoOut s c).regs R.PTP_STAT = wordAt s.regs R.PTP_STAT := by
  unfold undoOut
  grind [wordAt_set, State.legUp_regs, State.loopUp_regs, withdrawWord_ptpStat]

theorem abandon_ptpStat (s : State) (n : Nat) :
    wordAt (abandon s n).regs R.PTP_STAT = wordAt s.regs R.PTP_STAT := by
  unfold abandon
  grind [State.laneUp_regs, countOverrun_ptpStat, undoOut_ptpStat]

theorem laneOverrun_ptpStat (s : State) (n : Nat) :
    wordAt (laneOverrun s n).regs R.PTP_STAT = wordAt s.regs R.PTP_STAT := by
  unfold laneOverrun
  grind [abandon_ptpStat]

theorem laneActivate_ptpStat (s : State) (c : Nat) :
    wordAt (laneActivate s c).regs R.PTP_STAT = wordAt s.regs R.PTP_STAT := by
  unfold laneActivate
  grind [wordAt_raise, State.loopUp_regs, markEvent_ptpStat]

theorem swapNowAtBlock_ptpStat (s : State) (c : Nat) :
    wordAt (swapNowAtBlock s c).regs R.PTP_STAT = wordAt s.regs R.PTP_STAT := by
  unfold swapNowAtBlock
  split
  · rfl
  · dsimp only
    split
    · rw [State.loopUp_regs, wordAt_set (by grind)]
    · rw [wordAt_raise (by grind) (by grind), wordAt_set (by grind)]

theorem countSlack_ptpStat (s : State) (c : Nat) :
    wordAt (countSlack s c).regs R.PTP_STAT = wordAt s.regs R.PTP_STAT := by
  unfold countSlack
  grind [wordAt_set]

theorem followError_ptpStat (s : State) (c : Nat) :
    wordAt (followError s c).regs R.PTP_STAT = wordAt s.regs R.PTP_STAT := by
  unfold followError
  grind [wordAt_set, wordAt_raise, wordAt_cond, State.loopUp_regs, gatePush_ptpStat, markEvent_ptpStat]

theorem closeLane_ptpStat (s : State) (n : Nat) :
    wordAt (closeLane s n).regs R.PTP_STAT = wordAt s.regs R.PTP_STAT := by
  unfold closeLane
  grind [State.laneUp_regs, laneOverrun_ptpStat]

theorem judgeUpdate_ptpStat (s : State) (c : Nat) :
    wordAt (judgeUpdate s c).regs R.PTP_STAT = wordAt s.regs R.PTP_STAT := by
  have hclamp (t : State) (bs : List Bool) : wordAt (bs.foldl (fun t b => t.cond (G.LPE_ISP_SAT c) b) t).regs R.PTP_STAT =
      wordAt t.regs R.PTP_STAT := wordAt_foldl (fun t b => wordAt_cond (by grind) (by grind)) bs t
  unfold judgeUpdate
  grind [wordAt_cond, State.loopUp_regs, markEvent_ptpStat, overrunTrip_ptpStat, countSlack_ptpStat, followError_ptpStat]

theorem copyLane_ptpStat (s : State) (src dst : Nat) :
    wordAt (copyLane s src dst).regs R.PTP_STAT = wordAt s.regs R.PTP_STAT := by
  have hwords (b : Bool) (t : State) (xs : List Nat) : wordAt (xs.foldl (fun t o => t.putBank (laneKey dst b o)
      (t.bank (laneKey src b o))) t).regs R.PTP_STAT = wordAt t.regs R.PTP_STAT :=
    wordAt_foldl (fun t o => by rw [State.putBank_regs]) xs t
  unfold copyLane
  dsimp only
  rw [wordAt_foldl fun t b => hwords _ t _]

theorem showSpare_ptpStat (s : State) : wordAt (showSpare s).regs R.PTP_STAT = wordAt s.regs R.PTP_STAT := by
  unfold showSpare
  grind [wordAt_cond]

theorem retireLaneNow_ptpStat (s : State) (n : Nat) :
    wordAt (retireLaneNow s n).regs R.PTP_STAT = wordAt s.regs R.PTP_STAT := by
  unfold retireLaneNow
  grind [wordAt_set, wordAt_raise, queueRetire_ptpStat]

theorem spareServes_ptpStat (s : State) (c sp : Nat) :
    wordAt (spareServes s c sp).regs R.PTP_STAT = wordAt s.regs R.PTP_STAT := by
  rw [spareServes, showSpare_ptpStat, State.poolUp_regs, State.laneUp_regs,
    wordAt_raise (by decide) (by decide), wordAt_set (by decide), wordAt_set (by decide), wordAt_set (by grind)]

theorem countMismatch_ptpStat (s : State) (c : Nat) (ue : Bool) :
    wordAt (countMismatch s c ue).regs R.PTP_STAT = wordAt s.regs R.PTP_STAT := by
  unfold countMismatch
  grind [wordAt_wr, wordAt_raise]

theorem mismatch_ptpStat (s : State) (c : Nat) :
    wordAt (mismatch s c).regs R.PTP_STAT = wordAt s.regs R.PTP_STAT := by
  unfold mismatch
  grind [wordAt_set, wordAt_raise, State.laneUp_regs, State.poolUp_regs, showSpare_ptpStat,
    retireLaneNow_ptpStat, spareServes_ptpStat, countMismatch_ptpStat]

theorem openShadow_ptpStat (s : State) (c sp : Nat) :
    wordAt (openShadow s c sp).regs R.PTP_STAT = wordAt s.regs R.PTP_STAT := by
  unfold openShadow
  grind [copyLane_ptpStat]

theorem shadowSlotOpen_ptpStat (s : State) :
    wordAt (shadowSlotOpen s).regs R.PTP_STAT = wordAt s.regs R.PTP_STAT := by
  unfold shadowSlotOpen
  grind [wordAt_set, State.laneUp_regs, State.poolUp_regs, openShadow_ptpStat]

theorem confirmAtBlock_ptpStat (s : State) :
    wordAt (confirmAtBlock s).regs R.PTP_STAT = wordAt s.regs R.PTP_STAT := by
  unfold confirmAtBlock
  grind [State.poolUp_regs, openShadow_ptpStat]

theorem confirmEnd_ptpStat (s : State) :
    wordAt (confirmEnd s).regs R.PTP_STAT = wordAt s.regs R.PTP_STAT := by
  unfold confirmEnd
  grind [wordAt_set, State.laneUp_regs, State.poolUp_regs]

theorem confirmCount_ptpStat (s : State) :
    wordAt (confirmCount s).regs R.PTP_STAT = wordAt s.regs R.PTP_STAT := by
  unfold confirmCount
  grind [State.poolUp_regs, confirmEnd_ptpStat]

theorem fswapAtBlock_ptpStat (s : State) :
    wordAt (fswapAtBlock s).regs R.PTP_STAT = wordAt s.regs R.PTP_STAT := by
  unfold fswapAtBlock
  grind [wordAt_set, wordAt_raise, spareServes_ptpStat, openShadow_ptpStat]

theorem trcEnter_ptpStat (s : State) (b st : Nat) :
    wordAt (trcEnter s b st).regs R.PTP_STAT = wordAt s.regs R.PTP_STAT := by
  unfold trcEnter
  grind [wordAt_set, wordAt_setB]

theorem trcWrite_ptpStat (s : State) (b : Nat) (full : Bool) (out : List Word) :
    wordAt (trcWrite s b full out).1.regs R.PTP_STAT = wordAt s.regs R.PTP_STAT := by
  unfold trcWrite
  grind [wordAt_set, wordAt_raise, State.trcUp_regs, trcEnter_ptpStat]

theorem traceAtUpdate_ptpStat (s : State) :
    wordAt (traceAtUpdate s).regs R.PTP_STAT = wordAt s.regs R.PTP_STAT := by
  have hbuffer (full : Bool) (a : State × List Word) (b : Nat) : wordAt (
      let due := trcDue a.1 b
      let ran := trcBusy a.1 b && laneRan a.1 (laneOf a.1 (trcChan a.1 b))
      let q := if due then trcWrite a.1 b full a.2 else a
      ((if ran then q.1.trcUp b fun x => { x with dec := x.dec + 1 } else q.1), q.2)).1.regs R.PTP_STAT =
        wordAt a.1.regs R.PTP_STAT := by
    grind [State.trcUp_regs, trcWrite_ptpStat]
  have hbuffers (full : Bool) :=
    foldl_keeps (part := fun a : State × List Word => wordAt a.1.regs R.PTP_STAT) (hbuffer full) (List.range 16)
  unfold traceAtUpdate
  dsimp only
  split
  · exact hbuffers _ _
  · rw [gatePush_ptpStat]
    exact hbuffers _ _

theorem lanesEnd_ptpStat (s : State) : wordAt (lanesEnd s).regs R.PTP_STAT = wordAt s.regs R.PTP_STAT := by
  have hclosed := (wordAt_foldl judgeUpdate_ptpStat (List.range 16) _).trans (wordAt_foldl closeLane_ptpStat (List.range 17) s)
  unfold lanesEnd
  dsimp only
  rw [endComparison_ptpStat]
  split
  · rw [mismatch_ptpStat, traceAtUpdate_ptpStat, markEvent_ptpStat, hclosed]
  · rw [traceAtUpdate_ptpStat, hclosed]

theorem loopAtBlock_ptpStat (s : State) :
    wordAt (loopAtBlock s).regs R.PTP_STAT = wordAt s.regs R.PTP_STAT := by
  have hchans := wordAt_foldl (p := R.PTP_STAT) (f := fun t c => injectionAtBlock (swapNowAtBlock t c) c)
    (fun t c => by rw [injectionAtBlock_ptpStat, swapNowAtBlock_ptpStat]) (List.range 16) s
  unfold loopAtBlock
  dsimp only
  rw [shadowSlotOpen_ptpStat, confirmAtBlock_ptpStat, fswapAtBlock_ptpStat, confirmCount_ptpStat, hchans]

theorem pilotAtBlock_ptpStat (s : State) (c : Nat) :
    wordAt (pilotAtBlock s c).regs R.PTP_STAT = wordAt s.regs R.PTP_STAT := by
  unfold pilotAtBlock
  grind [wordAt_setB, State.ventUp_regs]

theorem showTlim_ptpStat (s : State) (c : Nat) :
    wordAt (showTlim s c).regs R.PTP_STAT = wordAt s.regs R.PTP_STAT := by
  unfold showTlim
  grind [wordAt_setB]

theorem showLoad_ptpStat (s : State) (k cycles : Nat) :
    wordAt (showLoad s k cycles).regs R.PTP_STAT = wordAt s.regs R.PTP_STAT := by
  unfold showLoad
  grind [wordAt_set]

theorem enterFallback_ptpStat (s : State) (c mode : Nat) :
    wordAt (enterFallback s c mode).regs R.PTP_STAT = wordAt s.regs R.PTP_STAT := by
  unfold enterFallback
  grind [wordAt_set, State.mbUp_regs]

theorem coreAtBlock_ptpStat (s : State) (k : Nat) :
    wordAt (coreAtBlock s k).regs R.PTP_STAT = wordAt s.regs R.PTP_STAT := by
  have hcons : (ovrCons k).ptr ≠ R.PTP_STAT := by
    unfold ovrCons
    split <;> decide
  have hfallback (t : State) (xs : List Nat) : wordAt (xs.foldl (fun t j =>
      let c := 8 * k + j
      if modEn t c && t.get (F.SPK_STAT_MODE c) != modeFallback then enterFallback t c modeFallback else t) t).regs R.PTP_STAT =
      wordAt t.regs R.PTP_STAT := by
    refine wordAt_foldl (fun t j => ?_) xs t
    grind [enterFallback_ptpStat]
  unfold coreAtBlock
  grind [wordAt_set, wordAt_raise, State.coreUp_regs, showLoad_ptpStat]

theorem modeAtBlock_ptpStat (s : State) (c : Nat) :
    wordAt (modeAtBlock s c).regs R.PTP_STAT = wordAt s.regs R.PTP_STAT := by
  unfold modeAtBlock
  grind [wordAt_set, State.ventUp_regs, enterFallback_ptpStat]

theorem sweepAbandon_ptpStat (s : State) (c reason : Nat) :
    wordAt (sweepAbandon s c reason).regs R.PTP_STAT = wordAt s.regs R.PTP_STAT := by
  unfold sweepAbandon
  grind [wordAt_set, wordAt_raise, State.sweepUp_regs]

theorem enterPhase_ptpStat (s : State) (c phase point : Nat) (isOver : Int) :
    wordAt (enterPhase s c phase point isOver).regs R.PTP_STAT = wordAt s.regs R.PTP_STAT := by
  unfold enterPhase
  grind [wordAt_set, State.sweepUp_regs]

theorem sweepBegin_ptpStat (s : State) (c : Nat) :
    wordAt (sweepBegin s c).regs R.PTP_STAT = wordAt s.regs R.PTP_STAT := by
  unfold sweepBegin
  grind [enterPhase_ptpStat]

theorem sweepPublish_ptpStat (s : State) (c : Nat) :
    wordAt (sweepPublish s c).regs R.PTP_STAT = wordAt s.regs R.PTP_STAT := by
  unfold sweepPublish
  dsimp only
  rw [State.sweepUp_regs, wordAt_set (by grind), wordAt_wr (by grind), wordAt_wr (by grind), wordAt_wr (by grind),
    wordAt_set (by grind), wordAt_set (by grind), wordAt_set (by grind)]
  exact wordAt_foldl (fun t i => by simp only [State.putBank_regs]) _ s

theorem sweepAtBlock_ptpStat (s : State) (c : Nat) :
    wordAt (sweepAtBlock s c).regs R.PTP_STAT = wordAt s.regs R.PTP_STAT := by
  unfold sweepAtBlock
  grind [sweepAbandon_ptpStat, sweepBegin_ptpStat, sweepPublish_ptpStat]

theorem sweepBoundary_ptpStat (s : State) (c : Nat) :
    wordAt (sweepBoundary s c).regs R.PTP_STAT = wordAt s.regs R.PTP_STAT := by
  unfold sweepBoundary
  grind [State.sweepUp_regs, sweepAtBlock_ptpStat, sweepInc_ptpStat]

theorem samplePin_ptpStat (s : State) (low : Bool) :
    wordAt (samplePin s low).regs R.PTP_STAT = wordAt s.regs R.PTP_STAT := by
  unfold samplePin
  grind [wordAt_raiseIf, State.sysUp_regs]

theorem muteAtBlock_ptpStat (s : State) (c : Nat) :
    wordAt (muteAtBlock s c).regs R.PTP_STAT = wordAt s.regs R.PTP_STAT := by
  unfold muteAtBlock
  grind [wordAt_setB, State.mbUp_regs]

theorem mutesAtBlock_ptpStat (s : State) (low : Bool) :
    wordAt (mutesAtBlock s low).regs R.PTP_STAT = wordAt s.regs R.PTP_STAT := by
  have hstarts (t : State) : wordAt ((List.range 16).foldl (fun t c => if startEnds t c then t.sysUp fun x =>
      { x with started := x.started.set c true, released := x.released.set c false } else t) t).regs R.PTP_STAT =
      wordAt t.regs R.PTP_STAT := wordAt_foldl (fun t c => wordAt_ite (by rw [State.sysUp_regs]) rfl) _ t
  unfold mutesAtBlock
  dsimp only
  rw [wordAt_foldl muteAtBlock_ptpStat, hstarts, State.sysUp_regs, wordAt_foldl countSwitching_ptpStat, samplePin_ptpStat]

theorem becomeReady_ptpStat (s : State) (b : Nat) :
    wordAt (becomeReady s b).regs R.PTP_STAT = wordAt s.regs R.PTP_STAT := by
  unfold becomeReady
  grind [wordAt_set, wordAt_setFree]

theorem readyAtBlock_ptpStat (s : State) :
    wordAt (readyAtBlock s).regs R.PTP_STAT = wordAt s.regs R.PTP_STAT := by
  unfold readyAtBlock
  grind [becomeReady_ptpStat]

theorem sendFrame_ptpStat (s : State) (type reason : Nat) (ws : List Quad) :
    wordAt (sendFrame s type reason ws).regs R.PTP_STAT = wordAt s.regs R.PTP_STAT := by
  unfold sendFrame
  grind [gatePush_ptpStat]

theorem setPstate_ptpStat (s : State) (p : Nat) :
    wordAt (setPstate s p).regs R.PTP_STAT = wordAt s.regs R.PTP_STAT := by
  unfold setPstate
  grind [wordAt_set]

theorem giveUp_ptpStat (s : State) : wordAt (giveUp s).regs R.PTP_STAT = wordAt s.regs R.PTP_STAT := by
  unfold giveUp
  grind [State.twinUp_regs, releaseOwn_ptpStat]

theorem handoverAtBlock_ptpStat (s : State) :
    wordAt (handoverAtBlock s).regs R.PTP_STAT = wordAt s.regs R.PTP_STAT := by
  unfold handoverAtBlock
  grind [wordAt_set, State.twinUp_regs, giveUp_ptpStat]

theorem trainAtBlock_ptpStat (s : State) :
    wordAt (trainAtBlock s).regs R.PTP_STAT = wordAt s.regs R.PTP_STAT := by
  unfold trainAtBlock
  grind [wordAt_set, State.twinUp_regs, setPstate_ptpStat]

theorem applyRing_ptpStat (s : State) (r : Nat) (a o : Nat × Nat) :
    wordAt (applyRing s r a o).regs R.PTP_STAT = wordAt s.regs R.PTP_STAT := by
  unfold applyRing
  grind [wordAt_set, setCount_wordAt]

theorem applySnap_ptpStat (s : State) (a o : Snap) (media model : Bool) :
    wordAt (applySnap s a o media model).regs R.PTP_STAT = wordAt s.regs R.PTP_STAT := by
  have hrings (t : State) :=
    wordAt_foldl (fun t r => applyRing_ptpStat t r (a.rings.getD r (0, 0)) (o.rings.getD r (0, 0))) (List.range 32) t
  have hmedia (t : State) :=
    wordAt_foldl (fun t c => applyMedia_ptpStat t c (a.chans.getD c {}) (o.chans.getD c {})) (List.range 16) t
  have hmodel (t : State) :=
    wordAt_foldl (fun t c => applyModel_ptpStat t c (a.chans.getD c {}) (o.chans.getD c {})) (List.range 16) t
  have happlied (f : Ain → Ain) :=
    (hrings _).trans (wordAt_ite (c := media) (congrArg (wordAt · R.PTP_STAT) (State.ainUp_regs s f)) rfl)
  have hmedias (f : Ain → Ain) := wordAt_ite (c := media) ((hmedia _).trans (happlied f)) (happlied f)
  unfold applySnap
  dsimp only
  rw [State.twinUp_regs]
  exact wordAt_ite ((hmodel _).trans (hmedias _)) (hmedias _)

theorem snapAtBlock_ptpStat (s : State) (media model : Bool) :
    wordAt (snapAtBlock s media model).regs R.PTP_STAT = wordAt s.regs R.PTP_STAT := by
  unfold snapAtBlock
  grind [wordAt_set, wordAt_setB, wordAt_raise, wordAt_raiseIf, State.twinUp_regs, setPstate_ptpStat, applySnap_ptpStat]

theorem settleEnd_ptpStat (s : State) : wordAt (settleEnd s).regs R.PTP_STAT = wordAt s.regs R.PTP_STAT := by
  unfold settleEnd
  grind [State.twinUp_regs, setPstate_ptpStat]

theorem settleAtBlock_ptpStat (s : State) :
    wordAt (settleAtBlock s).regs R.PTP_STAT = wordAt s.regs R.PTP_STAT := by
  unfold settleAtBlock
  grind [State.twinUp_regs, settleEnd_ptpStat]

theorem sendRegion_ptpStat (s : State) (region : Nat) (data : List Quad) :
    wordAt (sendRegion s region data).regs R.PTP_STAT = wordAt s.regs R.PTP_STAT :=
  wordAt_foldl (fun t _ => sendFrame_ptpStat t _ _ _) _ s

theorem sendMarked_ptpStat (s : State) (region : Nat) :
    wordAt (sendMarked s region).regs R.PTP_STAT = wordAt s.regs R.PTP_STAT := by
  refine wordAt_foldl (fun t i => ?_) _ s
  grind [sendFrame_ptpStat]

theorem sendEnd_ptpStat (s : State) : wordAt (sendEnd s).regs R.PTP_STAT = wordAt s.regs R.PTP_STAT := by
  unfold sendEnd
  grind [sendFrame_ptpStat]

theorem answerAtBlock_ptpStat (s : State) :
    wordAt (answerAtBlock s).regs R.PTP_STAT = wordAt s.regs R.PTP_STAT := by
  have hmarked (t : State) : wordAt ((List.range 7).foldl (fun t r => sendMarked t (r + 1)) t).regs R.PTP_STAT =
      wordAt t.regs R.PTP_STAT := wordAt_foldl (fun t r => sendMarked_ptpStat t _) _ t
  unfold answerAtBlock
  grind [State.twinUp_regs, sendRegion_ptpStat, sendEnd_ptpStat]

theorem framesAtBlock_ptpStat (s : State) :
    wordAt (framesAtBlock s).regs R.PTP_STAT = wordAt s.regs R.PTP_STAT := by
  unfold framesAtBlock
  grind [gatePush_ptpStat, sendFrame_ptpStat, answerAtBlock_ptpStat]

theorem twinAtBlock_ptpStat (s : State) (media model : Bool) :
    wordAt (twinAtBlock s media model).regs R.PTP_STAT = wordAt s.regs R.PTP_STAT := by
  have hpair : wordAt (settleAtBlock (snapAtBlock (handoverAtBlock (trainAtBlock s)) media model)).regs R.PTP_STAT =
      wordAt s.regs R.PTP_STAT := by
    rw [settleAtBlock_ptpStat, snapAtBlock_ptpStat, handoverAtBlock_ptpStat, trainAtBlock_ptpStat]
  unfold twinAtBlock
  dsimp only
  split
  · exact hpair
  · split
    · exact hpair
    · rw [framesAtBlock_ptpStat, State.twinUp_regs]
      exact hpair

theorem endUpdate_ptpStat (s : State) : wordAt (endUpdate s).regs R.PTP_STAT = wordAt s.regs R.PTP_STAT := by
  unfold endUpdate
  grind [inputsAtUpdate_ptpStat, lanesEnd_ptpStat, windowsAtUpdate_ptpStat]

theorem swapsAtBlock_ptpStat (s : State) (due : List Bool) :
    wordAt (swapsAtBlock s due).regs R.PTP_STAT = wordAt s.regs R.PTP_STAT := by
  refine wordAt_foldl (fun t q => ?_) _ s
  grind [wordAt_set, coreSwap_ptpStat, coreFail_ptpStat, enterSafe_ptpStat]

theorem coresAtBlock_ptpStat (s : State) :
    wordAt (coresAtBlock s).regs R.PTP_STAT = wordAt s.regs R.PTP_STAT := by
  unfold coresAtBlock
  grind [handOffAtBlock_ptpStat, overrunsAtBlock_ptpStat, swapsAtBlock_ptpStat]

theorem scenesAtBlock_ptpStat (s : State) :
    wordAt (scenesAtBlock s).regs R.PTP_STAT = wordAt s.regs R.PTP_STAT := by
  have hactive (t : State) : wordAt (eachOf 16 (fun t c => if inMask t c then speakerActivate (laneActivate t c) c else t) t).regs
      R.PTP_STAT = wordAt t.regs R.PTP_STAT := by
    refine wordAt_foldl (fun t c => ?_) _ t
    grind [speakerActivate_ptpStat, laneActivate_ptpStat]
  unfold scenesAtBlock
  grind [sceneEndAtBlock_ptpStat, sceneWarmAtBlock_ptpStat, sceneActivate_ptpStat]

theorem speakersAtBlock_ptpStat (s : State) :
    wordAt (speakersAtBlock s).regs R.PTP_STAT = wordAt s.regs R.PTP_STAT := by
  refine wordAt_foldl (fun t c => ?_) _ s
  rw [showTlim_ptpStat, pilotAtBlock_ptpStat, sweepBoundary_ptpStat]

end Sys2Proof.Machine

end

section
/-! The block boundary (R7, R13, R43, R62). -/

namespace Sys2Proof.Machine

/-! ### The stages of a block boundary (R43) -/

/-- The end of a window of LOOP telemetry; in RETIRED there is none. -/
def windowAtBlock (s : State) : State := if bstate s = bsRetired then s else windowEnd s

/-- Time, the telemetry that still waits, the window's end and the CMD rings. -/
def ringsAtBlock (s : State) : State := cmdRings (windowAtBlock (telDrain (blockTime s)))

/-- The islands from the units of the block that ends to the look-ahead. -/
def endBlock (s : State) (muteN : Bool) : State :=
  let media := !s.sys.procs || (s.mb.done.all id && !s.mb.ue.any id)
  let model := !s.sys.procs || s.vent.cores.all (·.done)
  let s4 := scenesAtBlock (coresAtBlock (eachOf 2 coreAtBlock (unitsAtBlock s)))
  laAtBlock (mutesAtBlock (gainsAtBlock (twinAtBlock (eachOf 16 modeAtBlock s4) media model)) (!muteN))

/-- The islands from the new units' start to readiness. -/
def beginBlock (s : State) : State := readyAtBlock (loopAtBlock (streamsAtBlock (inputsAtBlock (speakersAtBlock s))))

/-- What follows the step of network time. -/
def closeBoundary (s : State) : State := tasksAtBlock (strAtBlock (ppsOutAtBlock (ptpHistAtBlock (showFades (sceneEndAtBlock s)))))

/-- The state in which every RWL value of a block register has come into force. -/
def blockRegistersInForce (s : State) : State := kAtBlock { s with heldB := [] }

theorem blockBoundary_eq {s : State} (m : Bool) (h : s.sys.counting = true) :
    blockBoundary s m =
      closeBoundary (stepAtBlock (beginBlock (unitsStart (endBlock (blockRegistersInForce (ringsAtBlock s)) m)))) := by
  unfold blockBoundary
  rw [if_neg (by simp [h])]
  rfl

/-! ### What the stages leave -/

/-- The parts that a stage of a block boundary may change beside time and the values that are held. -/
def blockParts : List Part :=
  [.regs, .banks, .conds, .gates, .free, .sys, .ain, .mb, .scn, .legs, .pwm, .safe, .pins, .sense, .lanes, .loops, .lanePool, .trace, .vent,
    .mem, .bkg, .rings, .twin, .str]

theorem endBlock_only (s : State) (m : Bool) : Only blockParts s (endBlock s m) := by
  have hcores : Only blockParts s (scenesAtBlock (coresAtBlock (eachOf 2 coreAtBlock (unitsAtBlock s)))) :=
    scenesAtBlock_step _ (coresAtBlock_step _ (Only.eachOf (fun t k => (coreAtBlock_only t k).mono (by decide))
      ((unitsAtBlock_only s).mono (by decide))) (by decide)) (by decide)
  exact laAtBlock_step _ (mutesAtBlock_step _ _ (gainsAtBlock_step _ (twinAtBlock_step _ _ _
    (Only.eachOf (fun t c => (modeAtBlock_only t c).mono (by decide)) hcores) (by decide)) (by decide)) (by decide)) (by decide)

theorem beginBlock_only (s : State) : Only blockParts s (beginBlock s) :=
  readyAtBlock_step _ (loopAtBlock_step _ (streamsAtBlock_step _ (inputsAtBlock_step _ ((speakersAtBlock_only s).mono (by decide))
    (by decide)) (by decide)) (by decide)) (by decide)

theorem closeBoundary_only (s : State) : Only blockParts s (closeBoundary s) :=
  tasksAtBlock_step _ (strAtBlock_step _ (ppsOutAtBlock_step _ (ptpHistAtBlock_step _ (showFades_step _
    ((sceneEndAtBlock_only s).mono (by decide)) (by decide)) (by decide)) (by decide)) (by decide)) (by decide)

/-- The islands' work up to the step of network time. -/
def islandsAtBlock (s : State) (m : Bool) : State := beginBlock (unitsStart (endBlock (blockRegistersInForce s) m))

theorem islandsAtBlock_only (s : State) (m : Bool) : Only blockParts { s with heldB := [] } (islandsAtBlock s m) := by
  have hk : Only blockParts { s with heldB := [] } (blockRegistersInForce s) := (kAtBlock_only _).mono (by decide)
  exact (unitsStart_step _ (hk.trans (endBlock_only _ m)) (by decide)).trans (beginBlock_only _)

theorem blockBoundary_eq_islands {s : State} (m : Bool) (h : s.sys.counting = true) :
    blockBoundary s m = closeBoundary (stepAtBlock (islandsAtBlock (ringsAtBlock s) m)) := blockBoundary_eq m h

/-- Every RWL value of a block register comes into force at a block boundary (R13). -/
theorem blockBoundary_heldB {s : State} (m : Bool) (h : s.sys.counting = true) : (blockBoundary s m).heldB = [] := by
  rw [blockBoundary_eq_islands m h, closeBoundary_only _ .heldB (by decide), stepAtBlock_only _ .heldB (by decide),
    islandsAtBlock_only _ m .heldB (by decide)]

/-! ### The input block (R43, R69) -/

/-- The samples received and collected in the running block. -/
def inputBlock (s : State) : Nat × List (List Word × List Word) := (s.ain.sub, s.ain.collect)

/-- An operation that leaves the audio inputs leaves the input block. -/
theorem Only.inputBlock {l : List Part} {s t : State} (h : Only l s t) (hl : .ain ∉ l) : inputBlock t = inputBlock s := by
  unfold Machine.inputBlock
  rw [h .ain hl]

theorem unitsStart_inputBlock (s : State) : inputBlock (unitsStart s) = (0, []) := by
  have hunits (t : State) : (if t.sys.procs then unitStart t else t).ain = t.ain := by
    split
    · exact unitStart_only t .ain (by decide)
    · rfl
  unfold inputBlock unitsStart
  dsimp only
  rw [hunits, unitInputs_only _ .ain (by decide), State.ainUp_ain]

theorem tdmLose_inputBlock (s : State) (i : Nat) : inputBlock (tdmLose s i) = inputBlock s := by
  unfold inputBlock tdmLose tdmShowLock
  grind [State.set_ain, State.setB_ain, State.raise_ain, State.tdmUp_ain_sub, State.tdmUp_ain_collect, State.asrcUp_ain_sub,
    State.asrcUp_ain_collect]

theorem aesLose_inputBlock (s : State) (i : Nat) : inputBlock (aesLose s i) = inputBlock s := by
  unfold inputBlock aesLose aesShowLock
  grind [State.set_ain, State.setB_ain, State.raise_ain, State.aesUp_ain_sub, State.aesUp_ain_collect, State.asrcUp_ain_sub,
    State.asrcUp_ain_collect]

theorem tdmDrive_inputBlock (s : State) (i : Nat) : inputBlock (tdmDrive s i) = inputBlock s := by
  unfold inputBlock tdmDrive
  grind [State.used_ain, State.tdmUp_ain_sub, State.tdmUp_ain_collect]

theorem tdmUp_inputBlock (s : State) (i : Nat) (f : Tdm → Tdm) : inputBlock (s.tdmUp i f) = inputBlock s := rfl
theorem aesUp_inputBlock (s : State) (i : Nat) (f : Aes3 → Aes3) : inputBlock (s.aesUp i f) = inputBlock s := rfl
theorem streamUp_inputBlock (s : State) (i : Nat) (f : Stream → Stream) : inputBlock (s.streamUp i f) = inputBlock s := rfl
theorem ptpUp_inputBlock (s : State) (f : Ptp → Ptp) : inputBlock (s.ptpUp f) = inputBlock s := rfl

theorem inputsAtBlock_inputBlock (s : State) : inputBlock (inputsAtBlock s) = inputBlock s := by
  unfold inputsAtBlock
  refine (foldl_keeps (part := inputBlock) (fun t i => ?_) _ _).trans (foldl_keeps (part := inputBlock) (fun t i => ?_) _ s)
  · grind [aesUp_inputBlock, aesLose_inputBlock]
  · grind [tdmUp_inputBlock, tdmDrive_inputBlock, tdmLose_inputBlock]

theorem streamsAtBlock_inputBlock (s : State) : inputBlock (streamsAtBlock s) = inputBlock s := by
  have hset (t : State) (f : Fld) (n : Nat) : inputBlock (t.set f n) = inputBlock t := rfl
  unfold streamsAtBlock
  refine foldl_keeps (part := inputBlock) (fun t i => ?_) _ s
  grind [streamUp_inputBlock]

theorem beginBlock_inputBlock (s : State) : inputBlock (beginBlock s) = inputBlock s := by
  unfold beginBlock
  rw [(readyAtBlock_only _).inputBlock (by decide), (loopAtBlock_only _).inputBlock (by decide), streamsAtBlock_inputBlock,
    inputsAtBlock_inputBlock, (speakersAtBlock_only s).inputBlock (by decide)]

theorem ptpEnter_inputBlock (s : State) (st : Nat) : inputBlock (ptpEnter s st) = inputBlock s := by
  have hset (t : State) (f : Fld) (n : Nat) : inputBlock (t.set f n) = inputBlock t := rfl
  have hcond (t : State) (g : Flag) (b : Bool) : inputBlock (t.cond g b) = inputBlock t := (State.cond_only t g b).inputBlock (by decide)
  unfold ptpEnter
  grind [ptpUp_inputBlock]

theorem stepAtBlock_inputBlock (s : State) : inputBlock (stepAtBlock s) = inputBlock s := by
  have hset (t : State) (f : Fld) (n : Nat) : inputBlock (t.set f n) = inputBlock t := rfl
  have hmuted (t : State) : inputBlock (if allMuted s then t else
      { t with mb := { t.mb with chans := t.mb.chans.map overrunFade } }) = inputBlock t := by
    split <;> rfl
  unfold stepAtBlock
  split
  · rfl
  · split
    · rfl
    · dsimp only
      rw [hset, ptpEnter_inputBlock, hmuted]
      rfl

theorem closeBoundary_inputBlock (s : State) : inputBlock (closeBoundary s) = inputBlock s := by
  have hhist (t : State) : inputBlock (ptpHistAtBlock t) = inputBlock t := by
    unfold ptpHistAtBlock
    dsimp only
    split <;> rfl
  have hpps (t : State) : inputBlock (ppsOutAtBlock t) = inputBlock t := rfl
  unfold closeBoundary
  rw [(tasksAtBlock_only _).inputBlock (by decide), (strAtBlock_only _).inputBlock (by decide), hpps, hhist,
    (showFades_only _).inputBlock (by decide), (sceneEndAtBlock_only s).inputBlock (by decide)]

/-- A block boundary begins a new input block. -/
theorem blockBoundary_inputBlock {s : State} (m : Bool) (h : s.sys.counting = true) : inputBlock (blockBoundary s m) = (0, []) := by
  rw [blockBoundary_eq_islands m h, closeBoundary_inputBlock, stepAtBlock_inputBlock, islandsAtBlock, beginBlock_inputBlock,
    unitsStart_inputBlock]

/-! ### Time (R7, R394) -/

/-- Time at a block boundary but for the index, which a step moves. -/
theorem stepAtBlock_time (s : State) : (stepAtBlock s).time = { s.time with block := (stepAtBlock s).time.block } := by
  have henter (t : State) (st : Nat) (f : Fld) (n : Nat) : ((ptpEnter t st).set f n).time = t.time :=
    State.set_step (l₀ := [.regs, .conds, .ain]) _ _ _ (ptpEnter_only t st) (by decide) .time (by decide)
  have hmuted (t : State) : (if allMuted s then t else
      { t with mb := { t.mb with chans := t.mb.chans.map overrunFade } }).time = t.time := by
    split <;> rfl
  unfold stepAtBlock
  split
  · rfl
  · split
    · rfl
    · dsimp only
      rw [henter, hmuted]

/-- With no step pending there is none. -/
theorem stepAtBlock_idle {s : State} (h : s.get F.PTP_STAT_STATE ≠ ptpStepPending) : stepAtBlock s = s := by
  unfold stepAtBlock
  rw [if_pos (by simp [h])]

theorem blockTime_time (s : State) : (blockTime s).time.atBlock = true ∧ (blockTime s).time.half = false ∧ (blockTime s).time.updInBlock = 0 :=
  ⟨rfl, rfl, rfl⟩

/-- The next index, or the one a marker gave. -/
theorem blockTime_block (s : State) : (blockTime s).time.block = s.twin.setBlock.getD ((s.time.block + 1) % 2 ^ 48) := by
  have hblock : (endUpdate s).time.block = s.time.block := by
    cases hat : s.time.atBlock with
    | true => rw [endUpdate_atBlock hat]
    | false =>
      obtain ⟨-, -, -, hb⟩ := endUpdate_time hat
      exact hb
  show (endUpdate s).twin.setBlock.getD (((endUpdate s).time.block + 1) % 2 ^ 48) = _
  rw [hblock, endUpdate_only s .twin (by decide)]

/-! ### A boundary at which no CMD ring has an eligible entry -/

theorem windowAtBlock_only (s : State) : Only [.regs, .bkg] s (windowAtBlock s) := Only.ite (Only.refl _ s) (windowEnd_only s)

/-- The state before the CMD rings are run. -/
theorem cmdEligible_beforeRings {s : State} {c : Nat} (h : c < 16) :
    cmdEligible (windowAtBlock (telDrain (blockTime s))) c = cmdEligible (blockTime s) c := by
  unfold windowAtBlock
  split
  · exact cmdEligible_telDrain h
  · rw [cmdEligible_windowEnd, cmdEligible_telDrain h]

theorem ringsAtBlock_quiet {s : State} (h : ∀ c < 16, cmdEligible (blockTime s) c = 0) :
    ringsAtBlock s = cmdBoundaryEnd (windowAtBlock (telDrain (blockTime s))) :=
  cmdRings_quiet fun c hc => (cmdEligible_beforeRings hc).trans (h c hc)

/-- The parts that the telemetry and the CMD rings of a boundary may change where nothing is eligible. -/
theorem ringsAtBlock_only {s : State} (h : ∀ c < 16, cmdEligible (blockTime s) c = 0) :
    Only [.regs, .banks, .conds, .gates, .mem, .bkg, .rings] (blockTime s) (ringsAtBlock s) := by
  rw [ringsAtBlock_quiet h]
  have hdrain := (telDrain_only (blockTime s)).mono (l := [.regs, .banks, .conds, .gates, .mem, .bkg, .rings]) (by decide)
  have hwindow := hdrain.trans ((windowAtBlock_only _).mono (by decide))
  exact hwindow.trans ((cmdBoundaryEnd_only _).mono (by decide))

/-- Up to the step of network time a quiet boundary moves time as blockTime says. -/
theorem islandsAtBlock_time {s : State} (m : Bool) (h : ∀ c < 16, cmdEligible (blockTime s) c = 0) :
    (islandsAtBlock (ringsAtBlock s) m).time = (blockTime s).time := by
  rw [islandsAtBlock_only _ m .time (by decide)]
  exact ringsAtBlock_only h .time (by decide)

/-- Only the index of a quiet boundary's time is left to the step of network time. -/
theorem blockBoundary_time {s : State} (m : Bool) (hcount : s.sys.counting = true) (h : ∀ c < 16, cmdEligible (blockTime s) c = 0) :
    ∃ b, (blockBoundary s m).time = { (blockTime s).time with block := b } := by
  rw [blockBoundary_eq_islands m hcount, closeBoundary_only _ .time (by decide), stepAtBlock_time, islandsAtBlock_time m h]
  exact ⟨_, rfl⟩

theorem blockBoundary_only_quiet {s : State} (m : Bool) (hcount : s.sys.counting = true)
    (h : ∀ c < 16, cmdEligible (blockTime s) c = 0) : Only (.heldB :: .time :: blockParts) s (blockBoundary s m) := by
  have hrings : Only (.heldB :: .time :: blockParts) s (ringsAtBlock s) :=
    ((blockTime_only s).mono (by decide)).trans ((ringsAtBlock_only h).mono (by decide))
  have hheld : Only (.heldB :: .time :: blockParts) s { ringsAtBlock s with heldB := [] } := only_with_heldB_step _ _ hrings (by decide)
  rw [blockBoundary_eq_islands m hcount]
  exact ((stepAtBlock_step _ (hheld.trans ((islandsAtBlock_only _ m).mono (by decide))) (by decide))).trans
    ((closeBoundary_only _).mono (by decide))

/-! ### A pending step of network time -/

theorem blockTime_ptpStat (s : State) : wordAt (blockTime s).regs R.PTP_STAT = wordAt s.regs R.PTP_STAT := endUpdate_ptpStat s

/-- No stage of a quiet boundary before the step changes the state of network time. -/
theorem ringsAtBlock_ptpStat {s : State} (h : ∀ c < 16, cmdEligible (blockTime s) c = 0) :
    wordAt (ringsAtBlock s).regs R.PTP_STAT = wordAt s.regs R.PTP_STAT := by
  have hwindow (t : State) : wordAt (windowAtBlock t).regs R.PTP_STAT = wordAt t.regs R.PTP_STAT :=
    wordAt_ite rfl (windowEnd_wordAt (by decide) (by decide))
  rw [ringsAtBlock_quiet h, (cmdBoundaryEnd_only _).wordAt (by decide), hwindow, telDrain_wordAt (by decide) (by decide), blockTime_ptpStat]

theorem endBlock_ptpStat (s : State) (m : Bool) : wordAt (endBlock s m).regs R.PTP_STAT = wordAt s.regs R.PTP_STAT := by
  have hcores (t : State) : wordAt (eachOf 2 coreAtBlock t).regs R.PTP_STAT = wordAt t.regs R.PTP_STAT := wordAt_foldl coreAtBlock_ptpStat _ t
  have hmodes (t : State) : wordAt (eachOf 16 modeAtBlock t).regs R.PTP_STAT = wordAt t.regs R.PTP_STAT := wordAt_foldl modeAtBlock_ptpStat _ t
  unfold endBlock
  dsimp only
  rw [(laAtBlock_only _).wordAt (by decide), mutesAtBlock_ptpStat, (gainsAtBlock_only _).wordAt (by decide), twinAtBlock_ptpStat, hmodes,
    scenesAtBlock_ptpStat, coresAtBlock_ptpStat, hcores, (unitsAtBlock_only s).wordAt (by decide)]

theorem beginBlock_ptpStat (s : State) : wordAt (beginBlock s).regs R.PTP_STAT = wordAt s.regs R.PTP_STAT := by
  unfold beginBlock
  rw [readyAtBlock_ptpStat, loopAtBlock_ptpStat, streamsAtBlock_ptpStat, inputsAtBlock_ptpStat, speakersAtBlock_ptpStat]

theorem islandsAtBlock_ptpStat (s : State) (m : Bool) : wordAt (islandsAtBlock s m).regs R.PTP_STAT = wordAt s.regs R.PTP_STAT := by
  unfold islandsAtBlock blockRegistersInForce
  rw [beginBlock_ptpStat, (unitsStart_only _).wordAt (by decide), endBlock_ptpStat, kAtBlock_ptpStat]

/-- With no step of network time pending the index is that of blockTime. -/
theorem blockBoundary_block {s : State} (m : Bool) (hcount : s.sys.counting = true) (h : ∀ c < 16, cmdEligible (blockTime s) c = 0)
    (hptp : s.get F.PTP_STAT_STATE ≠ ptpStepPending) :
    (blockBoundary s m).time.block = s.twin.setBlock.getD ((s.time.block + 1) % 2 ^ 48) := by
  have hstat := (islandsAtBlock_ptpStat (ringsAtBlock s) m).trans (ringsAtBlock_ptpStat h)
  rw [wordAt_regs, wordAt_regs] at hstat
  have hidle : (islandsAtBlock (ringsAtBlock s) m).get F.PTP_STAT_STATE ≠ ptpStepPending := by
    unfold State.get at hptp ⊢
    rw [hstat]
    exact hptp
  rw [blockBoundary_eq_islands m hcount, closeBoundary_only _ .time (by decide), stepAtBlock_idle hidle, islandsAtBlock_time m h,
    blockTime_block]

/-- Before the media PLL has locked there is no block boundary (R555). -/
theorem blockBoundary_not_counting {s : State} (m : Bool) (h : s.sys.counting = false) : blockBoundary s m = s := if_pos (by simp [h])

theorem exec_blockBoundary {s : State} (m : Bool) (h : s.sys.inReset = false) :
    exec (.blockBoundary m) s = .next ((blockBoundary s m).queued s.pending) := awake_next _ h

end Sys2Proof.Machine

open Sys2Proof Sys2Proof.Machine in
/-- Settles O7: the RWL values and the input block at every boundary, time and frame at a quiet one, and its index with no step pending. -/
theorem blockBoundary : Obligations.BlockBoundary := by
  unfold Obligations.BlockBoundary
  refine ⟨fun s m hres => ⟨fun hcount => ?_, fun hcount hquiet => ?_, fun hcount => ?_⟩, fun s m hres hcount hquiet hptp => ?_⟩
  · obtain ⟨hsub, hcollect⟩ := Prod.mk.inj (blockBoundary_inputBlock m hcount)
    exact ⟨_, exec_blockBoundary m hres, blockBoundary_heldB m hcount, hsub, hcollect⟩
  · obtain ⟨b, htime⟩ := blockBoundary_time m hcount hquiet
    exact ⟨_, exec_blockBoundary m hres, congrArg Time.atBlock htime, congrArg Time.half htime, congrArg Time.updInBlock htime,
      (congrArg Time.updates htime).trans rfl, ((blockBoundary_only_quiet m hcount hquiet).mono (by decide)).queued⟩
  · rw [exec_blockBoundary m hres, blockBoundary_not_counting m hcount]
    rfl
  · exact ⟨_, exec_blockBoundary m hres, blockBoundary_block m hcount hquiet hptp⟩

end

section
/-! Scene commits: arming, refusal, abort, and the block index as software reads it (R112 to R114, R123, R135). -/

namespace Sys2Proof.Machine

/-- A field depends on the registers alone. -/
theorem State.get_congr {s t : State} (h : t.regs = s.regs) (f : Fld) : t.get f = s.get f := by
  unfold State.get
  rw [State.rd_congr h]

/-! ### The access that a command is part of leaves what arming tests -/

theorem armReason_granted (s : State) (p : Nat) : armReason (granted s p) = armReason s := by
  unfold granted
  split <;> rfl

theorem warmNeed_granted (s : State) (p : Nat) : warmNeed (granted s p) = warmNeed s := by
  unfold granted
  split <;> rfl

/-- A command that has its effect after its access leaves the host's commit. -/
theorem Changes.of_granted {l : List Part} {ps : List Nat} {s t : State} {p : Nat} (h : Changes l ps (granted s p) t) (hm : .hst ∈ l) :
    Changes l ps s t := by
  obtain ⟨honly, hregs⟩ := h
  refine ⟨((granted_only s p).mono (by simpa using hm)).trans honly, fun q hq => ?_⟩
  rw [hregs q hq, granted_rd]

/-! ### SCN_ARM.GO (R114) -/

/-- SCN_ARM and SCN_STAT once a commit is armed. -/
def armedRegisters (s : State) : State :=
  (((s.set F.SCN_STAT_REASON 0).set F.SCN_STAT_STATE 1).set F.SCN_STAT_WARM 0).set F.SCN_ARM_GO 1

theorem sceneGo_armed {s : State} (h : armReason s = 0) :
    sceneGo s = { armedRegisters s with
      scn := { s.scn with started := false, blocks := List.replicate 4 0, need := warmNeed s } } := by
  unfold sceneGo
  dsimp only
  rw [if_neg (by simp [h])]
  rfl

theorem sceneGo_refused {s : State} (h : armReason s ≠ 0) :
    sceneGo s = ((s.set F.SCN_STAT_REASON (armReason s)).raise G.SCN_ARM_REFUSED).setB F.SCN_ARM_GO
      (((s.set F.SCN_STAT_REASON (armReason s)).raise G.SCN_ARM_REFUSED).get F.SCN_STAT_STATE != 0) := by
  unfold sceneGo
  dsimp only
  rw [if_pos (by simp [h])]

theorem armedRegisters_state (s : State) : (armedRegisters s).get F.SCN_STAT_STATE = 1 := by
  unfold armedRegisters
  rw [State.get_set_other _ _ _ _ (by decide),
    State.get_set_apart _ _ _ _ ⟨by decide, by decide⟩ ⟨by decide, by decide⟩ (.inr (by decide)),
    State.get_set_same _ _ _ ⟨by decide, by decide⟩]
  rfl

theorem armedRegisters_reason (s : State) : (armedRegisters s).get F.SCN_STAT_REASON = 0 := by
  unfold armedRegisters
  rw [State.get_set_other _ _ _ _ (by decide),
    State.get_set_apart _ _ _ _ ⟨by decide, by decide⟩ ⟨by decide, by decide⟩ (.inl (by decide)),
    State.get_set_apart _ _ _ _ ⟨by decide, by decide⟩ ⟨by decide, by decide⟩ (.inl (by decide)),
    State.get_set_same _ _ _ ⟨by decide, by decide⟩]
  rfl

theorem armedRegisters_go (s : State) : (armedRegisters s).get F.SCN_ARM_GO = 1 :=
  State.get_set_same _ _ _ ⟨by decide, by decide⟩

theorem armedRegisters_onlyRegs (s : State) : OnlyRegs [R.SCN_STAT, R.SCN_ARM] s (armedRegisters s) :=
  ((((OnlyRegs.refl _ s).set (by decide)).set (by decide)).set (by decide)).set (by decide)

/-- Arming writes no other register than those two. -/
theorem sceneGo_armed_get {s : State} (h : armReason s = 0) (f : Fld) : (sceneGo s).get f = (armedRegisters s).get f :=
  State.get_congr (by rw [sceneGo_armed h]) f

/-- An armed commit has no chain yet, and the need of its own to be warm (R115). -/
theorem sceneGo_armed_scn {s : State} (h : armReason s = 0) :
    (sceneGo s).scn = { s.scn with started := false, blocks := List.replicate 4 0, need := warmNeed s } := by
  rw [sceneGo_armed h]

theorem sceneGo_armed_changes {s : State} (h : armReason s = 0) :
    Changes [.regs, .scn, .hst] [R.SCN_STAT, R.SCN_ARM] s (sceneGo s) := by
  refine ⟨(sceneGo_only s).mono (by decide), ?_⟩
  rw [sceneGo_armed h]
  exact armedRegisters_onlyRegs s

/-- A reason of R114 fits in SCN_STAT.REASON. -/
theorem armReason_lt (s : State) : armReason s < 8 := by
  unfold armReason
  repeat' split
  all_goals decide

/-- A refused arming gives its reason. -/
theorem sceneGo_refused_reason {s : State} (h : armReason s ≠ 0) : (sceneGo s).get F.SCN_STAT_REASON = armReason s := by
  rw [sceneGo_refused h, State.get_setB_other _ _ _ _ (by decide), State.get_raise_other _ _ _ (by decide) (by decide),
    State.get_set_same _ _ _ ⟨by decide, by decide⟩]
  exact Nat.mod_eq_of_lt (armReason_lt s)

theorem sceneGo_refused_state {s : State} (h : armReason s ≠ 0) : (sceneGo s).get F.SCN_STAT_STATE = s.get F.SCN_STAT_STATE := by
  rw [sceneGo_refused h, State.get_setB_other _ _ _ _ (by decide), State.get_raise_other _ _ _ (by decide) (by decide),
    State.get_set_apart _ _ _ _ ⟨by decide, by decide⟩ ⟨by decide, by decide⟩ (.inr (by decide))]

theorem sceneGo_refused_flag {s : State} (h : armReason s ≠ 0) :
    (sceneGo s).get ⟨G.SCN_ARM_REFUSED.ptr, G.SCN_ARM_REFUSED.bit, G.SCN_ARM_REFUSED.bit⟩ = 1 := by
  rw [sceneGo_refused h, State.get_setB_other _ _ _ _ (by decide), State.get_raise_flag _ _ (by decide) (by decide)]

theorem sceneGo_refused_changes {s : State} (h : armReason s ≠ 0) :
    Changes [.regs, .hst] [R.SCN_STAT, R.SCN_ARM, G.SCN_ARM_REFUSED.ptr, G.SCN_ARM_REFUSED.cptr] s (sceneGo s) := by
  rw [sceneGo_refused h]
  exact ⟨State.setB_step _ _ _ (State.raise_step _ _ (State.set_step _ _ _ (Only.refl _ s) (by decide)) (by decide)) (by decide),
    (((OnlyRegs.refl _ s).set (by decide)).raise (by decide) (by decide)).setB (by decide)⟩

theorem exec_sceneArm {s : State} (h : reached s R.SCN_ARM = true) :
    exec .sceneArm s = .next ((sceneGo (granted s R.SCN_ARM)).queued s.pending) := by
  show awake s (fieldAt s .hostPrimary R.SCN_ARM sceneGo) = _
  rw [fieldAt_reached sceneGo h, awake_next _ (reached_awake h)]

/-! ### SCN_ARM.ABORT (R123) -/

/-- SCN_ARM and SCN_STAT once a commit is abandoned. -/
def abandonedRegisters (s : State) : State :=
  (((s.set F.SCN_ARM_ABORT 0).set F.SCN_STAT_STATE 0).set F.SCN_STAT_WARM 0).set F.SCN_ARM_GO 0

theorem sceneAbort_armed {s : State} (h : s.get F.SCN_STAT_STATE = 1) :
    sceneAbort s = dropOther { abandonedRegisters s with scn := { s.scn with started := false } } := if_pos h

theorem sceneAbort_not_armed {s : State} (h : s.get F.SCN_STAT_STATE ≠ 1) : sceneAbort s = s.set F.SCN_ARM_ABORT 0 := if_neg h

theorem abandonedRegisters_state (s : State) : (abandonedRegisters s).get F.SCN_STAT_STATE = 0 := by
  unfold abandonedRegisters
  rw [State.get_set_other _ _ _ _ (by decide),
    State.get_set_apart _ _ _ _ ⟨by decide, by decide⟩ ⟨by decide, by decide⟩ (.inr (by decide)),
    State.get_set_same _ _ _ ⟨by decide, by decide⟩]
  rfl

theorem abandonedRegisters_go (s : State) : (abandonedRegisters s).get F.SCN_ARM_GO = 0 :=
  State.get_set_same _ _ _ ⟨by decide, by decide⟩

theorem abandonedRegisters_onlyRegs (s : State) : OnlyRegs [R.SCN_STAT, R.SCN_ARM] s (abandonedRegisters s) :=
  ((((OnlyRegs.refl _ s).set (by decide)).set (by decide)).set (by decide)).set (by decide)

theorem sceneAbort_armed_get {s : State} (h : s.get F.SCN_STAT_STATE = 1) (f : Fld) :
    (sceneAbort s).get f = (abandonedRegisters s).get f :=
  State.get_congr (by rw [sceneAbort_armed h]; rfl) f

theorem sceneAbort_armed_started {s : State} (h : s.get F.SCN_STAT_STATE = 1) : (sceneAbort s).scn.started = false := by
  rw [sceneAbort_armed h]
  rfl

theorem sceneAbort_armed_changes {s : State} (h : s.get F.SCN_STAT_STATE = 1) :
    Changes [.regs, .mb, .scn, .hst] [R.SCN_STAT, R.SCN_ARM] s (sceneAbort s) := by
  refine ⟨(sceneAbort_only s).mono (by decide), ?_⟩
  rw [sceneAbort_armed h]
  exact abandonedRegisters_onlyRegs s

theorem sceneAbort_not_armed_abort {s : State} (h : s.get F.SCN_STAT_STATE ≠ 1) : (sceneAbort s).get F.SCN_ARM_ABORT = 0 := by
  rw [sceneAbort_not_armed h]
  exact State.get_set_same _ _ _ ⟨by decide, by decide⟩

theorem sceneAbort_not_armed_changes {s : State} (h : s.get F.SCN_STAT_STATE ≠ 1) :
    Changes [.regs, .hst] [R.SCN_ARM] s (sceneAbort s) := by
  rw [sceneAbort_not_armed h]
  exact ⟨State.set_step _ _ _ (Only.refl _ s) (by decide), (OnlyRegs.refl _ s).set (by decide)⟩

theorem exec_sceneAbort {s : State} (h : reached s R.SCN_ARM = true) :
    exec .sceneAbort s = .next ((sceneAbort (granted s R.SCN_ARM)).queued s.pending) := by
  show awake s (fieldAt s .hostPrimary R.SCN_ARM sceneAbort) = _
  rw [fieldAt_reached sceneAbort h, awake_next _ (reached_awake h)]

/-! ### SCN_NOW_L (R135) -/

theorem blockIndexRead_rdata (s : State) : (blockIndexRead s).rdata.toNat = s.time.block % 2 ^ 32 := by
  show (BitVec.ofNat 32 (s.time.block % 2 ^ 32)).toNat = _
  rw [BitVec.toNat_ofNat, Nat.mod_mod]

/-- The high part has 16 bits, so the word that latches it does not narrow it. -/
theorem blockIndexRead_nowHigh (s : State) : (blockIndexRead s).scn.nowHigh.toNat = s.time.block / 2 ^ 32 % 2 ^ 16 := by
  show (BitVec.ofNat 32 (s.time.block / 2 ^ 32 % 2 ^ 16)).toNat = _
  rw [BitVec.toNat_ofNat]
  omega

theorem exec_blockIndexRead {s : State} (h : readable s .hostPrimary R.SCN_NOW_L = true) :
    exec .blockIndexRead s = .next ((blockIndexRead s).queued s.pending) := by
  show awake s (readAt s .hostPrimary R.SCN_NOW_L blockIndexRead) = _
  rw [readAt_readable blockIndexRead h, awake_next _ (readable_awake h)]

end Sys2Proof.Machine

open Sys2Proof Sys2Proof.Machine in
/-- Settles O10, a command and its case at a time: GO armed and refused, ABORT in ARMED and in another state, the read of SCN_NOW_L. -/
theorem sceneCommands : Obligations.SceneCommands := by
  unfold Obligations.SceneCommands
  refine fun s => ⟨fun hw hreason => ?_, fun hw hreason => ?_, fun hw hstate => ?_, fun hw hstate => ?_, fun hr => ?_⟩
  · rw [← armReason_granted s R.SCN_ARM] at hreason
    have hscn := sceneGo_armed_scn hreason
    rw [warmNeed_granted, granted_scn] at hscn
    exact ⟨_, exec_sceneArm hw, (sceneGo_armed_get hreason _).trans (armedRegisters_state _),
      (sceneGo_armed_get hreason _).trans (armedRegisters_reason _), (sceneGo_armed_get hreason _).trans (armedRegisters_go _), hscn,
      ((sceneGo_armed_changes hreason).of_granted (by decide)).queued⟩
  · rw [← armReason_granted s R.SCN_ARM] at hreason ⊢
    have hstate := sceneGo_refused_state hreason
    rw [granted_get] at hstate
    exact ⟨_, exec_sceneArm hw, hstate, sceneGo_refused_reason hreason, sceneGo_refused_flag hreason,
      ((sceneGo_refused_changes hreason).of_granted (by decide)).queued⟩
  · rw [← granted_get s R.SCN_ARM] at hstate
    exact ⟨_, exec_sceneAbort hw, (sceneAbort_armed_get hstate _).trans (abandonedRegisters_state _),
      (sceneAbort_armed_get hstate _).trans (abandonedRegisters_go _), sceneAbort_armed_started hstate,
      ((sceneAbort_armed_changes hstate).of_granted (by decide)).queued⟩
  · rw [← granted_get s R.SCN_ARM] at hstate
    exact ⟨_, exec_sceneAbort hw, sceneAbort_not_armed_abort hstate,
      ((sceneAbort_not_armed_changes hstate).of_granted (by decide)).queued⟩
  · exact ⟨_, exec_blockIndexRead hr, blockIndexRead_rdata s, blockIndexRead_nowHigh s,
      Changes.queued ⟨blockIndexRead_only s, fun _ _ => rfl⟩⟩

end

section
/-! Conversions: the result of a first trigger, a redundancy error and its retry (R215 to R223, R288, R289). -/

namespace Sys2Proof.Machine

/-! ### One slice and one input -/

/-- A slice with a conversion in work is one of those that the state lists. -/
theorem slice_lt_of_conv {s : State} {n : Nat} {v : Conv} (h : (s.slice n).conv = some v) : n < s.sense.slices.length := by
  refine Nat.lt_of_not_le fun hn => ?_
  have hdefault : s.slice n = {} := by
    rw [State.slice, List.getD_eq_getElem?_getD, List.getElem?_eq_none hn, Option.getD_none]
  rw [hdefault] at h
  exact nomatch h

theorem slice_sliceUp_same {s : State} {n : Nat} (f : SliceSt → SliceSt) (h : n < s.sense.slices.length) :
    (s.sliceUp n f).slice n = f (s.slice n) := by
  show (s.sense.slices.modify n f).getD n {} = f (s.sense.slices.getD n {})
  simp [h]

theorem input_inputUp_same {s : State} {i : Nat} (f : SnsInput → SnsInput) (h : i < s.sense.inputs.length) :
    (s.inputUp i f).input i = f (s.input i) := by
  show (s.sense.inputs.modify i f).getD i {} = f (s.sense.inputs.getD i {})
  simp [h]

theorem slice_inputUp (s : State) (i n : Nat) (f : SnsInput → SnsInput) : (s.inputUp i f).slice n = s.slice n := rfl

theorem input_sliceUp (s : State) (n i : Nat) (f : SliceSt → SliceSt) : (s.sliceUp n f).input i = s.input i := rfl

theorem slice_raise (s : State) (g : Flag) (n : Nat) : (s.raise g).slice n = s.slice n := rfl

theorem input_raise (s : State) (g : Flag) (i : Nat) : (s.raise g).input i = s.input i := rfl

theorem slice_queued (s : State) (l : List Instr) (n : Nat) : (s.queued l).slice n = s.slice n := rfl

theorem input_queued (s : State) (l : List Instr) (i : Nat) : (s.queued l).input i = s.input i := rfl

/-! ### Comparators (R235) -/

theorem reportCompare_sense (s : State) (c : Nat) : (reportCompare s c).sense = s.sense := reportCompare_only s c .sense (by decide)

/-- Testing a result changes the comparator's count and condition of its input, or nothing where the comparator is disabled. -/
theorem compare_sense (s : State) (i : Nat) (y : Int) :
    (compare s i y).sense = s.sense ∨
      ∃ count isOver, (compare s i y).sense = (s.inputUp i fun x => { x with count := count, isOver := isOver }).sense := by
  unfold compare
  dsimp only
  generalize s.inForceB _ = enabled
  cases enabled with
  | false => exact .inl rfl
  | true =>
    rw [Bool.not_true, if_neg Bool.false_ne_true, reportCompare_sense, State.cond_sense]
    exact .inr ⟨_, _, rfl⟩

theorem compare_slice (s : State) (i n : Nat) (y : Int) : (compare s i y).slice n = s.slice n := by
  unfold State.slice
  obtain h | ⟨count, isOver, h⟩ := compare_sense s i y
  · rw [h]
  · rw [h]
    rfl

/-- The update result and its cycle stay as they are when a result is tested. -/
theorem compare_input {s : State} {i : Nat} (y : Int) (hi : i < s.sense.inputs.length) :
    ((compare s i y).input i).cur = (s.input i).cur ∧ ((compare s i y).input i).usable = (s.input i).usable := by
  unfold State.input
  obtain h | ⟨count, isOver, h⟩ := compare_sense s i y
  · rw [h]
    exact ⟨rfl, rfl⟩
  · have hinput : (s.inputUp i fun x => { x with count := count, isOver := isOver }).sense.inputs.getD i {} = _ := input_inputUp_same _ hi
    rw [h, hinput]
    exact ⟨rfl, rfl⟩

/-! ### The first trigger of the running update -/

/-- The result of a conversion by R218. -/
def conversionResult (s : State) (n : Nat) (v : Conv) (raw : Word16) : Int :=
  corrected (s.slice n).gain (s.slice n).offs
    (s.inForceB (if v.input % 2 = 0 then F.SNS_CFG_V_INV (v.input / 2) else F.SNS_CFG_I_INV (v.input / 2))) raw

/-- The state in which the conversion of slice n is over and its result is the update result, before it is compared. -/
def resultTaken (s : State) (n : Nat) (v : Conv) (raw : Word16) (retry : Bool) : State :=
  (s.sliceUp n fun x => { x with conv := none }).inputUp v.input fun x =>
    { x with cur := some (conversionResult s n v raw), usable := usableCycle v.pos retry }

section
variable {s : State} {n : Nat} {v : Conv} (hfirst : v.first = true) (hspare : v.spare = false) (hupd : v.upd = s.time.updates)
include hfirst hspare hupd

/-- Outside an overlap a valid result is taken and compared. -/
theorem deliverResult_first (raw : Word16) (retry : Bool) (hrot : s.sense.rot = none) :
    deliverResult s n v raw retry = compare (resultTaken s n v raw retry) v.input (conversionResult s n v raw) := by
  simp only [deliverResult, State.sliceUp_sense_rot, hrot, hspare, hfirst, hupd, if_true, if_false, Bool.not_true, Bool.false_eq_true]
  rfl

theorem deliverResult_first_publishes (raw : Word16) (retry : Bool) (hrot : s.sense.rot = none) (hconv : (s.slice n).conv = some v)
    (hi : v.input < s.sense.inputs.length) :
    ((deliverResult s n v raw retry).slice n).conv = none ∧
      ((deliverResult s n v raw retry).input v.input).cur = some (conversionResult s n v raw) ∧
      ((deliverResult s n v raw retry).input v.input).usable = usableCycle v.pos retry := by
  have hinput : (resultTaken s n v raw retry).input v.input = _ := input_inputUp_same _ hi
  have hslice : (resultTaken s n v raw retry).slice n = _ := slice_sliceUp_same _ (slice_lt_of_conv hconv)
  obtain ⟨hcur, husable⟩ := compare_input (s := resultTaken s n v raw retry) (conversionResult s n v raw)
    (Nat.lt_of_lt_of_eq hi (List.length_modify ..).symm)
  rw [deliverResult_first hfirst hspare hupd raw retry hrot, compare_slice, hcur, husable, hinput, hslice]
  exact ⟨rfl, rfl, rfl⟩

/-- The update has no result, which is known at the given cycle (R289). -/
theorem loseFirst_first (known : Nat) : loseFirst s v known = s.inputUp v.input fun x => { x with lost := true, usable := known } := by
  simp [loseFirst, hfirst, hspare, hupd]

end

/-! ### The ends of a conversion and of a retry (R215, R221, R222) -/

section
variable {s : State} {n : Nat} {v : Conv} (hconv : (s.slice n).conv = some v)
include hconv

theorem conversionEnd_good (raw : Word16) (hretry : v.retry = false) : conversionEnd s n raw false = deliverResult s n v raw false := by
  simp [conversionEnd, hconv, hretry]

theorem conversionEnd_error (raw : Word16) (hretry : v.retry = false) :
    conversionEnd s n raw true =
      (s.sliceUp n fun x => { x with conv := some { v with retry := true } }).raise (G.SNS_RETRY (v.input / 2)) := by
  simp [conversionEnd, hconv, hretry]

theorem retryEnd_good (raw : Word16) (hretry : v.retry = true) : retryEnd s n raw false = deliverResult s n v raw true := by
  simp [retryEnd, hconv, hretry]

theorem retryEnd_error (raw : Word16) (hretry : v.retry = true) :
    retryEnd s n raw true = sliceLoss (loseFirst
      ((s.sliceUp n fun x => { x with conv := none }).raise (G.SNS_RETRY_LOST (v.input / 2))) v
      ((1272 * v.pos + 5200000) / 81380 + 1)) n := by
  simp [retryEnd, hconv, hretry]

end

/-- A loss that follows no other within 65,536 accepted triggers is noted and fails no slice (R223). -/
theorem sliceLoss_alone {s : State} {n : Nat} (h : ((s.slice n).losses.all fun x => decide (x + 65536 ≤ (s.slice n).trigs)) = true) :
    sliceLoss s n = s.sliceUp n fun y => { y with losses := [(s.slice n).trigs] } := by
  have hrecent : ((s.slice n).losses.filter fun t => decide ((s.slice n).trigs < t + 65536)) = [] := by
    simpa using h
  simp [sliceLoss, hrecent]

/-! ### Redundancy errors (R221 to R223) -/

/-- A flag of SNS_FLAG counts in SNS_FCNT0 of its channel (R15, R17), after a change of a slice. -/
theorem counted_senseFlag (s : State) (n : Nat) (f : SliceSt → SliceSt) (c : Nat) {bit clo : Nat} (hb : bit < 32) (hc : clo < 25) :
    counted ⟨R.SNS_FLAG c, bit, R.SNS_FCNT0 c, clo⟩ s ((s.sliceUp n f).raise ⟨R.SNS_FLAG c, bit, R.SNS_FCNT0 c, clo⟩) := by
  have hapart : 0x4018 + 0x100 * c ≠ 0x401c + 0x100 * c := by omega
  exact counted_raise (s.sliceUp n f) _ hapart hb hc

/-- A set event is counted where every field reads as right after it. -/
theorem counted_of_get {g : Flag} {s t u : State} (h : counted g s t) (hget : ∀ f, u.get f = t.get f) : counted g s u := by
  unfold counted
  rw [hget, hget]
  exact h

/-- A change of a slice and one set event change the flag's registers alone. -/
theorem sliceUp_raise_changes (s : State) (n : Nat) (f : SliceSt → SliceSt) (g : Flag) :
    Changes [.regs, .sense] [g.ptr, g.cptr] s ((s.sliceUp n f).raise g) :=
  ⟨State.raise_step _ _ ((State.sliceUp_only s n f).mono (by decide)) (by decide),
    ((OnlyRegs.refl _ s).of_only (State.sliceUp_only s n f) (by decide)).raise (by simp) (by simp)⟩

/-- The state in which a retry of slice n has ended without a result: RETRY_LOST counts, and the update has none, known at a cycle. -/
def retryDropped (s : State) (n : Nat) (v : Conv) (known : Nat) : State :=
  ((s.sliceUp n fun x => { x with conv := none }).raise (G.SNS_RETRY_LOST (v.input / 2))).inputUp v.input fun x =>
    { x with lost := true, usable := known }

/-- The state after a dropped retry in which the losses of its slice are noted. -/
def retryNoted (s : State) (n : Nat) (v : Conv) (known : Nat) (losses : List Nat) : State :=
  (retryDropped s n v known).sliceUp n fun x => { x with losses := losses }

section
variable {s : State} {n : Nat} {v : Conv} {known : Nat} {losses : List Nat}

theorem retryDropped_slice (h : n < s.sense.slices.length) : (retryDropped s n v known).slice n = { s.slice n with conv := none } := by
  rw [retryDropped, slice_inputUp, slice_raise, slice_sliceUp_same _ h]

theorem retryDropped_slices_length : (retryDropped s n v known).sense.slices.length = s.sense.slices.length := by
  rw [retryDropped, State.inputUp_sense_slices, State.raise_sense, State.sliceUp_sense_slices, List.length_modify]

theorem retryNoted_slice (h : n < s.sense.slices.length) :
    (retryNoted s n v known losses).slice n = { s.slice n with conv := none, losses := losses } := by
  rw [retryNoted, slice_sliceUp_same _ (retryDropped_slices_length.symm ▸ h), retryDropped_slice h]

theorem retryNoted_input (h : v.input < s.sense.inputs.length) :
    (retryNoted s n v known losses).input v.input = { s.input v.input with lost := true, usable := known } := by
  rw [retryNoted, input_sliceUp, retryDropped, input_inputUp_same _ (by rw [State.raise_sense]; exact h), input_raise, input_sliceUp]

theorem retryNoted_counted : counted (G.SNS_RETRY_LOST (v.input / 2)) s (retryNoted s n v known losses) :=
  counted_of_get (counted_senseFlag s n (fun x => { x with conv := none }) (v.input / 2) (by decide) (by decide)) fun f => by
    rw [retryNoted, State.sliceUp_get, retryDropped, State.inputUp_get]

theorem retryNoted_changes :
    Changes [.regs, .sense] [(G.SNS_RETRY_LOST (v.input / 2)).ptr, (G.SNS_RETRY_LOST (v.input / 2)).cptr] s
      (retryNoted s n v known losses) := by
  obtain ⟨honly, hregs⟩ := sliceUp_raise_changes s n (fun x => { x with conv := none }) (G.SNS_RETRY_LOST (v.input / 2))
  have hsense : Only [.sense] _ (retryNoted s n v known losses) := State.sliceUp_step _ _ _ (State.inputUp_only _ _ _) (by decide)
  exact ⟨honly.step hsense (by decide), hregs.of_only hsense (by decide)⟩

/-- A dropped retry with no other loss near is noted as the slice's one loss. -/
theorem sliceLoss_retryDropped (h : n < s.sense.slices.length)
    (halone : ((s.slice n).losses.all fun x => decide (x + 65536 ≤ (s.slice n).trigs)) = true) :
    sliceLoss (retryDropped s n v known) n = retryNoted s n v known [(s.slice n).trigs] := by
  rw [sliceLoss_alone (by rw [retryDropped_slice h]; exact halone), retryDropped_slice h, retryNoted]

end

/-- The retry of a first trigger that ends in a second redundancy error gives the update no result. -/
theorem retryEnd_lost {s : State} {n : Nat} {v : Conv} (raw : Word16) (hconv : (s.slice n).conv = some v) (hretry : v.retry = true)
    (hfirst : v.first = true) (hspare : v.spare = false) (hupd : v.upd = s.time.updates) :
    retryEnd s n raw true = sliceLoss (retryDropped s n v ((1272 * v.pos + 5200000) / 81380 + 1)) n := by
  rw [retryEnd_error hconv raw hretry, loseFirst_first hfirst hspare (by rw [State.raise_time, State.sliceUp_time, hupd]), retryDropped]

end Sys2Proof.Machine

open Sys2Proof Sys2Proof.Machine in
/-- Settles O19: a good conversion, a first redundancy error, a good retry, and a second redundancy error. -/
theorem conversions : Obligations.Conversions := by
  unfold Obligations.Conversions
  intro s n v raw hres hconv _ hi hfirst hspare hupd hrot
  have hn := slice_lt_of_conv hconv
  refine ⟨fun hretry => ?_, fun hretry => ?_, fun hretry => ?_, fun hretry halone => ?_⟩
  · refine ⟨_, awake_next _ hres, ?_⟩
    rw [conversionEnd_good hconv raw hretry, slice_queued, input_queued]
    obtain ⟨hdone, hcur, husable⟩ := deliverResult_first_publishes hfirst hspare hupd raw false hrot hconv hi
    exact ⟨hdone, hcur, husable, (deliverResult_only s n v raw false).queued⟩
  · refine ⟨_, awake_next _ hres, ?_⟩
    rw [conversionEnd_error hconv raw hretry, slice_queued, slice_raise, slice_sliceUp_same _ hn]
    exact ⟨rfl, counted_of_get (counted_senseFlag s n _ _ (by decide) (by decide)) (State.queued_get _ _),
      (sliceUp_raise_changes s n _ _).queued⟩
  · refine ⟨_, awake_next _ hres, ?_⟩
    rw [retryEnd_good hconv raw hretry, slice_queued, input_queued]
    obtain ⟨hdone, hcur, husable⟩ := deliverResult_first_publishes hfirst hspare hupd raw true hrot hconv hi
    exact ⟨hdone, hcur, husable, (deliverResult_only s n v raw true).queued⟩
  · refine ⟨_, awake_next _ hres, ?_⟩
    rw [retryEnd_lost raw hconv hretry hfirst hspare hupd, sliceLoss_retryDropped hn halone, slice_queued, retryNoted_slice hn,
      input_queued, retryNoted_input hi]
    exact ⟨rfl, rfl, rfl, rfl, counted_of_get retryNoted_counted (State.queued_get _ _), retryNoted_changes.queued⟩

end

section
/-! The arithmetic of a lane: NOP, MAC, MACD, INTG and the store of ACC (R248 to R258). -/

namespace Sys2Proof.Machine

/-! ### One lane -/

/-- A lane that runs is one of those that the state lists. -/
theorem lane_lt_of_phase {s : State} {n : Nat} (h : (s.lane n).phase = 1) : n < s.lanes.length := by
  refine Nat.lt_of_not_le fun hn => ?_
  have hdefault : s.lane n = {} := by
    rw [State.lane, List.getD_eq_getElem?_getD, List.getElem?_eq_none hn, Option.getD_none]
  rw [hdefault] at h
  exact absurd h (by decide)

theorem lane_lt_of_laneAt {s : State} {n op : Nat} (h : laneAt s n op = true) : n < s.lanes.length := by
  unfold laneAt at h
  simp only [Bool.and_eq_true, decide_eq_true_eq] at h
  obtain ⟨⟨⟨⟨hphase, -⟩, -⟩, -⟩, -⟩ := h
  exact lane_lt_of_phase hphase

theorem lane_laneUp_same {s : State} {n : Nat} (f : LaneSt → LaneSt) (h : n < s.lanes.length) :
    (s.laneUp n f).lane n = f (s.lane n) := by
  show (s.lanes.modify n f).getD n {} = f (s.lanes.getD n {})
  simp [h]

theorem lane_queued (s : State) (l : List Instr) (n : Nat) : (s.queued l).lane n = s.lane n := rfl

/-- An update of a lane writes no other lane, no register and no other part. -/
theorem laneUp_onlyLane {s : State} {n : Nat} (f : LaneSt → LaneSt) (h : n < s.lanes.length) : onlyLane n s (s.laneUp n f) := by
  refine ⟨?_, State.laneUp_only s n f, fun _ _ => rfl⟩
  rw [lane_laneUp_same f h]
  exact @List.modify_eq_set LaneSt ⟨{}⟩ f n s.lanes

theorem onlyLane.queued {n : Nat} {s t : State} (h : onlyLane n s t) : onlyLane n s (t.queued s.pending) :=
  ⟨h.1, h.2.queued⟩

/-! ### An instruction of one cycle (R255, R266) -/

/-- Lane x after an instruction of one cycle whose effect on it is y. -/
def afterCycle (x y : LaneSt) : LaneSt := { y with pc := y.pc + 1, cycle := x.cycle + 1 }

/-- An instruction of one cycle in a cycle of the update updates its lane. -/
theorem oneCycle_in_time {s : State} {n op : Nat} (f : LaneSt → LInstr → LaneSt) (hat : laneAt s n op = true)
    (hc : (s.lane n).cycle < upcOf (kLive s)) :
    oneCycle s n op f = s.laneUp n fun x => afterCycle x (f x (fetchLane (laneLive s n) x.pc)) := by
  simp only [oneCycle, hat, Nat.not_le.2 hc, Bool.not_true, Bool.false_eq_true, if_false, afterCycle]

/-- The command of an instruction of one cycle answers a state in which its effect stands in its lane and nowhere else. -/
theorem oneCycle_next {s : State} {n op : Nat} (f : LaneSt → LInstr → LaneSt) (hres : s.sys.inReset = false)
    (hat : laneAt s n op = true) (hc : (s.lane n).cycle < upcOf (kLive s)) :
    ∃ t, awake s (oneCycle s n op f) = .next t ∧
      t.lane n = afterCycle (s.lane n) (f (s.lane n) (fetchLane (laneLive s n) (s.lane n).pc)) ∧ onlyLane n s t := by
  have hn := lane_lt_of_laneAt hat
  rw [oneCycle_in_time f hat hc]
  exact ⟨_, awake_next _ hres, lane_laneUp_same _ hn, (laneUp_onlyLane _ hn).queued⟩

/-! ### The store of ACC (R250, R257) -/

@[simp] theorem dstStore_acc (lim : Int) (x : LaneSt) (i : LInstr) : (dstStore lim x i).r.acc = x.r.acc := by
  unfold dstStore
  dsimp only
  split
  · rfl
  split
  · rfl
  split <;> rfl

/-- The store of ACC is what each value of DST says it is. -/
theorem dstStore_stored (lim : Int) (x : LaneSt) (r : LaneRegs) (i : LInstr) :
    stored lim i r.acc x r (afterCycle x (dstStore lim { x with r := r } i)) := by
  refine ⟨fun h => ?_, fun h => ?_, fun h => ?_, fun h => ?_⟩ <;> simp [dstStore, h, afterCycle, stepped]

/-- An instruction of one cycle that leaves elements r and then stores ACC. -/
theorem oneCycle_stores {s : State} {n op : Nat} (lim : Int) {f : LaneSt → LInstr → LaneSt} {i : LInstr} {r : LaneRegs}
    (hres : s.sys.inReset = false) (hat : laneAt s n op = true) (hc : (s.lane n).cycle < upcOf (kLive s))
    (hi : i = fetchLane (laneLive s n) (s.lane n).pc) (hf : f (s.lane n) i = dstStore lim { s.lane n with r := r } i) :
    ∃ t, awake s (oneCycle s n op f) = .next t ∧ (t.lane n).r.acc = r.acc ∧ stored lim i r.acc (s.lane n) r (t.lane n) ∧
      onlyLane n s t := by
  obtain ⟨t, hnext, hlane, honly⟩ := oneCycle_next f hres hat hc
  rw [← hi, hf] at hlane
  exact ⟨t, hnext, by rw [hlane]; exact dstStore_acc _ _ _, hlane ▸ dstStore_stored lim _ r i, honly⟩

/-! ### INTG (R258) -/

/-- The elements after the sum a of an INTG whose integrator is frozen or not, before DST. -/
def summed (x : LaneSt) (i : LInstr) (frozen : Bool) (a : Int) : LaneRegs :=
  { x.r with
    acc := a
    w := if frozen then x.r.w else x.r.w.set i.ii a
    hiSeen := !i.outer && x.r.hiSeen
    loSeen := !i.outer && x.r.loSeen }

theorem intgStep_eq_dstStore (w : Nat → Word) (lim : Int) (held : Bool) (x : LaneSt) (i : LInstr) :
    intgStep w lim held x i =
      dstStore lim { x with
        r := summed x i (held || intgFrozen x i.outer (productOf w x i (operand x i.opa)))
          (satS 40 (x.r.w.getD i.ii 0 + productOf w x i (operand x i.opa))) } i := by
  unfold intgStep summed
  cases i.outer <;> rfl

theorem intgFrozen_inner_iff (x : LaneSt) (p : Int) :
    intgFrozen x false p = true ↔ (0 < p ∧ x.r.sati = 1) ∨ (p < 0 ∧ x.r.sati = 2) := by
  simp [intgFrozen]

theorem intgFrozen_outer_iff (x : LaneSt) (p : Int) :
    intgFrozen x true p = true ↔
      (0 < p ∧ (x.r.sato = 1 ∨ x.r.hiSeen = true)) ∨ (p < 0 ∧ (x.r.sato = 2 ∨ x.r.loSeen = true)) := by
  simp [intgFrozen]

section
variable {x : LaneSt} {i : LInstr} {a : Int}

theorem summed_inner_free (h : i.outer = false) : summed x i false a = { x.r with acc := a, w := x.r.w.set i.ii a } := by
  simp [summed, h]

theorem summed_inner_frozen (h : i.outer = false) : summed x i true a = { x.r with acc := a } := by
  simp [summed, h]

theorem summed_outer_free (h : i.outer = true) :
    summed x i false a = { x.r with acc := a, w := x.r.w.set i.ii a, hiSeen := false, loSeen := false } := by
  simp [summed, h]

theorem summed_outer_frozen (h : i.outer = true) : summed x i true a = { x.r with acc := a, hiSeen := false, loSeen := false } := by
  simp [summed, h]

end

theorem on_of_get_zero {s : State} {f : Fld} (h : s.get f = 0) : s.on f = false := by
  simp [State.on, h]

end Sys2Proof.Machine

open Sys2Proof Sys2Proof.Machine in
/-- Settles O21: each instruction leaves its elements and stores ACC by DST; INTG in the four cases of its integrator and its freeze. -/
theorem laneArithmetic : Obligations.LaneArithmetic := by
  unfold Obligations.LaneArithmetic
  refine fun s n hres hc => ⟨fun hat => ?_, fun x i a hx hi hat ha => ?_, fun x i d a hx hi hat hd ha => ?_,
    fun x i p a hx hi hat hp ha => ?_⟩
  · exact oneCycle_next _ hres hat hc
  · subst hx ha
    exact oneCycle_stores (ispLim s n) (r := { (s.lane n).r with acc := _ }) hres hat hc hi rfl
  · subst hx hd ha
    exact oneCycle_stores (ispLim s n) (r := { (s.lane n).r with acc := _, s := _ }) hres hat hc hi rfl
  · subst hx hp ha
    obtain ⟨t, hnext, hacc, hstored, honly⟩ :=
      oneCycle_stores (ispLim s n) hres hat hc hi (intgStep_eq_dstStore (laneLive s n) _ (s.on F.TWN_STAT_FROZEN) _ i)
    refine ⟨t, hnext, hacc, fun hin hheld hhi hlo => ?_, fun hin hfrozen => ?_, fun hout hheld hhi hlo => ?_,
      fun hout hfrozen => ?_, honly⟩
    · have hfree := Bool.eq_false_iff.2 (mt (intgFrozen_inner_iff _ _).1 (not_or.2 ⟨hhi, hlo⟩))
      simpa only [hin, on_of_get_zero hheld, hfree, Bool.or_false, summed_inner_free hin] using hstored
    · simpa only [hin, (intgFrozen_inner_iff _ _).2 hfrozen, Bool.or_true, summed_inner_frozen hin] using hstored
    · have hfree := Bool.eq_false_iff.2 (mt (intgFrozen_outer_iff _ _).1 (not_or.2 ⟨hhi, hlo⟩))
      simpa only [hout, on_of_get_zero hheld, hfree, Bool.or_false, summed_outer_free hout] using hstored
    · simpa only [hout, (intgFrozen_outer_iff _ _).2 hfrozen, Bool.or_true, summed_outer_frozen hout] using hstored

end

section
/-! Trace buffers, the resets of the loop's records and the square injection (R288, R296, R308 to R313). -/

namespace Sys2Proof.Machine

/-! ### Commands that write a register -/

/-- A command that is a write of a register answers its effect after the access, where the write reaches the register. -/
theorem awake_fieldAt {s : State} {p : Nat} (f : State → State) (h : reached s p = true) :
    awake s (fieldAt s .hostPrimary p f) = .next ((f (granted s p)).queued s.pending) := by
  rw [fieldAt_reached f h, awake_next _ (reached_awake h)]

/-- A command whose effect after its access changes no more than this changes no more than this and the host's commit. -/
theorem Changes.after_granted {l : List Part} {ps : List Nat} {s t : State} {p : Nat} (h : Changes l ps (granted s p) t) (hm : .hst ∈ l) :
    Changes l ps s (t.queued s.pending) := (h.of_granted hm).queued

/-- What an effect does within some parts it does within more. -/
theorem Changes.mono_parts {l m : List Part} {ps : List Nat} {s t : State} (h : Changes m ps s t) (hm : m ⊆ l) : Changes l ps s t :=
  ⟨h.1.mono hm, h.2⟩

/-- The hardware's write of a field leaves every other register. -/
theorem set_changes (s : State) (f : Fld) (n : Nat) : Changes [.regs] [f.ptr] s (s.set f n) :=
  ⟨State.set_only s f n, (OnlyRegs.refl _ s).set (by simp)⟩

/-! ### The states of a trace buffer (R308 to R310) -/

section
variable (s : State) (b : Nat)

theorem trcEnter_changes (st : Nat) : Changes [.regs] [R.TRC_CFG b, R.TRC_CTRL b] s (trcEnter s b st) :=
  ⟨trcEnter_only s b st, ((OnlyRegs.refl _ s).set (by simp)).setB (by simp)⟩

theorem trcEnter_state {st : Nat} (h : st < 4) : (trcEnter s b st).get (F.TRC_CFG_STATE b) = st := by
  unfold trcEnter
  rw [State.get_setB_other _ _ _ _ (by simp), State.get_set_same _ _ _ ⟨by simp, by simp⟩]
  exact Nat.mod_eq_of_lt h

theorem trcEnter_arm (st : Nat) :
    (trcEnter s b st).get (F.TRC_CTRL_ARM b) = if st = trcArmed || st = trcPost then 1 else 0 :=
  State.get_setB_same _ _ _ ⟨by simp, by simp⟩

/-- Entering a state leaves the buffer's indices. -/
theorem trcEnter_get_index (st : Nat) (f : Fld) (h : f.ptr = R.TRC_IDX b) : (trcEnter s b st).get f = s.get f := by
  unfold trcEnter
  rw [State.get_setB_other _ _ _ _ (by simp [h]), State.get_set_other _ _ _ _ (by simp [h])]

/-- The buffer emptied: both parts of its index at 0, no entry and no trigger behind it (R308). -/
def trcEmptied : State := ((s.set (F.TRC_IDX_WR_IDX b) 0).set (F.TRC_IDX_WRAPPED b) 0).trcUp b fun _ => {}

theorem traceArm_eq : traceArm s b = trcEnter (trcEmptied s b) b trcArmed := rfl

theorem trcEmptied_index :
    (trcEmptied s b).get (F.TRC_IDX_WR_IDX b) = 0 ∧ (trcEmptied s b).get (F.TRC_IDX_WRAPPED b) = 0 := by
  unfold trcEmptied
  rw [State.trcUp_get, State.trcUp_get, State.get_set_same _ _ _ ⟨by simp, by simp⟩,
    State.get_set_apart _ _ _ _ ⟨by simp, by simp⟩ ⟨by simp, by simp⟩ (.inr (by simp)),
    State.get_set_same _ _ _ ⟨by simp, by simp⟩]
  simp

theorem traceArm_registers :
    (traceArm s b).get (F.TRC_CFG_STATE b) = 1 ∧ (traceArm s b).get (F.TRC_CTRL_ARM b) = 1 ∧
      (traceArm s b).get (F.TRC_IDX_WR_IDX b) = 0 ∧ (traceArm s b).get (F.TRC_IDX_WRAPPED b) = 0 := by
  obtain ⟨hidx, hwrapped⟩ := trcEmptied_index s b
  rw [traceArm_eq]
  exact ⟨trcEnter_state _ b (by decide), trcEnter_arm _ b _, (trcEnter_get_index _ b _ _ rfl).trans hidx,
    (trcEnter_get_index _ b _ _ rfl).trans hwrapped⟩

theorem traceArm_changes : Changes [.regs, .trace] [R.TRC_CFG b, R.TRC_CTRL b, R.TRC_IDX b] s (traceArm s b) := by
  refine ⟨traceArm_only s b, ?_⟩
  have hempty : OnlyRegs [R.TRC_CFG b, R.TRC_CTRL b, R.TRC_IDX b] s (trcEmptied s b) :=
    (((OnlyRegs.refl _ s).set (by simp)).set (by simp)).of_only (State.trcUp_only _ _ _) (by decide)
  exact hempty.trans ((trcEnter_changes _ b _).2.mono (by simp))

theorem traceArm_trace : (traceArm s b).trace = s.trace.modify b fun _ => {} := by
  have henter : (trcEnter (trcEmptied s b) b trcArmed).trace = (trcEmptied s b).trace :=
    (trcEnter_changes _ b _).1 .trace (by decide)
  rw [traceArm_eq, henter, trcEmptied, State.trcUp_trace, State.set_trace, State.set_trace]

theorem traceForce_armed {s : State} {b : Nat} (h : s.get (F.TRC_CFG_STATE b) = 1) :
    traceForce s b = s.trcUp b fun x => { x with trig := true, fired := true } := if_pos h

theorem traceStop_registers : (traceStop s b).get (F.TRC_CFG_STATE b) = 3 ∧ (traceStop s b).get (F.TRC_CTRL_ARM b) = 0 :=
  ⟨trcEnter_state s b (by decide), trcEnter_arm s b _⟩

end

/-! ### TRC_RDATA (R312) -/

/-- The pointer moves from a word to the next, and from the last word to the first one of the next entry (R312). -/
def trcAdvance (s : State) (e w : Nat) : State :=
  if w = 3 then (s.set F.TRC_RPTR_WORD 0).set F.TRC_RPTR_ENTRY ((e + 1) % 2048) else s.set F.TRC_RPTR_WORD (w + 1)

theorem trcAdvance_changes (s : State) (e w : Nat) : Changes [.regs] [R.TRC_RPTR] s (trcAdvance s e w) := by
  unfold trcAdvance
  split
  · exact ⟨State.set_step _ _ _ (State.set_only s _ _) (by decide), ((OnlyRegs.refl _ s).set (by simp)).set (by simp)⟩
  · exact set_changes s _ _

theorem trcAdvance_rdata (s : State) (e w : Nat) : (trcAdvance s e w).rdata = s.rdata := (trcAdvance_changes s e w).1 .rdata (by decide)

theorem trcAdvance_within (s : State) (e : Nat) {w : Nat} (h : w < 3) :
    (trcAdvance s e w).get F.TRC_RPTR_WORD = w + 1 ∧ (trcAdvance s e w).get F.TRC_RPTR_ENTRY = s.get F.TRC_RPTR_ENTRY := by
  rw [trcAdvance, if_neg (by omega), State.get_set_same _ _ _ ⟨by decide, by decide⟩,
    State.get_set_apart _ _ _ _ ⟨by decide, by decide⟩ ⟨by decide, by decide⟩ (.inl (by decide))]
  exact ⟨Nat.mod_eq_of_lt (show w + 1 < 4 by omega), rfl⟩

theorem trcAdvance_last (s : State) (e : Nat) :
    (trcAdvance s e 3).get F.TRC_RPTR_WORD = 0 ∧ (trcAdvance s e 3).get F.TRC_RPTR_ENTRY = (e + 1) % 2048 := by
  rw [trcAdvance, if_pos rfl, State.get_set_same _ _ _ ⟨by decide, by decide⟩,
    State.get_set_apart _ _ _ _ ⟨by decide, by decide⟩ ⟨by decide, by decide⟩ (.inr (by decide)),
    State.get_set_same _ _ _ ⟨by decide, by decide⟩]
  exact ⟨rfl, Nat.mod_mod _ _⟩

section
variable {s : State} {b e w : Nat} (hb : b = s.get F.TRC_RPTR_BUF) (he : e = s.get F.TRC_RPTR_ENTRY) (hw : w = s.get F.TRC_RPTR_WORD)
include hb he hw

theorem traceRead_idle (h : trcBusy s b = false) : traceRead s = trcAdvance (s.answer (s.bank (traceKey b e w))) e w := by
  subst hb he hw
  simp only [traceRead, h, Bool.false_eq_true, if_false]
  rfl

theorem traceRead_busy (h : trcBusy s b = true) : traceRead s = trcAdvance ((s.answer 0).raise G.TRC_RD_BUSY) e w := by
  subst hb he hw
  simp only [traceRead, h, if_true]
  rfl

end

/-- A read that answers a word and moves the pointer changes the pointer's register alone. -/
theorem trcAdvance_answer_changes (s : State) (v : Word) (e w : Nat) :
    Changes [.regs, .rdata] [R.TRC_RPTR] s (trcAdvance (s.answer v) e w) := by
  obtain ⟨honly, hregs⟩ := trcAdvance_changes (s.answer v) e w
  exact ⟨((State.answer_only s v).mono (by decide)).step honly (by decide), hregs⟩

/-- A read of a buffer that records counts RD_BUSY once. -/
theorem trcAdvance_counted (s : State) (e w : Nat) : counted G.TRC_RD_BUSY s (trcAdvance ((s.answer 0).raise G.TRC_RD_BUSY) e w) := by
  have hraise := counted_raise (s.answer 0) G.TRC_RD_BUSY (by decide) (by decide) (by decide)
  have hregs := (trcAdvance_changes ((s.answer 0).raise G.TRC_RD_BUSY) e w).2
  unfold counted State.get at hraise ⊢
  rw [hregs _ (by decide), hregs _ (by decide)]
  exact hraise

theorem trcAdvance_busy_changes (s : State) (e w : Nat) :
    Changes [.regs, .rdata] [R.TRC_RPTR, G.TRC_RD_BUSY.ptr, G.TRC_RD_BUSY.cptr] s
      (trcAdvance ((s.answer 0).raise G.TRC_RD_BUSY) e w) := by
  obtain ⟨honly, hregs⟩ := trcAdvance_changes ((s.answer 0).raise G.TRC_RD_BUSY) e w
  have hcount : OnlyRegs [R.TRC_RPTR, G.TRC_RD_BUSY.ptr, G.TRC_RD_BUSY.cptr] s ((s.answer 0).raise G.TRC_RD_BUSY) :=
    ((OnlyRegs.refl _ s).of_only (State.answer_only s 0) (by decide)).raise (by decide) (by decide)
  exact ⟨(State.raise_step _ _ ((State.answer_only s 0).mono (by decide)) (by decide)).step honly (by decide),
    hcount.trans (hregs.mono (by simp))⟩

theorem exec_traceRead {s : State} (h : readable s .hostPrimary R.TRC_RDATA = true) :
    exec .traceRead s = .next ((traceRead s).queued s.pending) := by
  show awake s (readAt s .hostPrimary R.TRC_RDATA traceRead) = _
  rw [readAt_readable traceRead h, awake_next _ (readable_awake h)]

/-! ### The records of LPE_OCTL (R288, R296) and the square injection (R313) -/

theorem clrPk_get (s : State) (c : Nat) : (clrPk s c).get (F.LPE_FEST_FE_PK c) = 0 := by
  rw [clrPk, State.get_set_same _ _ _ ⟨by simp, by simp⟩, Nat.zero_mod]

theorem clrMin_get (s : State) (c : Nat) : (clrMin s c).get (F.LPE_SLK_MIN c) = 0xFF :=
  State.get_set_same _ _ _ ⟨by simp, by simp⟩

/-- A running square injection that has held its sign for 16 x HALF updates changes it. -/
theorem injectionToggle_due {s : State} {c : Nat} (hon : (s.loopCh c).injOn = true) (hshape : s.inForce (F.LPE_INJ_SHAPE c) = 1)
    (hdue : 16 * max (s.inForce (F.LPE_INJ_HALF c)) 1 ≤ (s.loopCh c).injCnt) :
    injectionToggle s c = s.loopUp c fun x => { x with injNeg := !x.injNeg, injCnt := 0 } := by
  simp only [injectionToggle, State.inForceB, hon, hshape, hdue, decide_true, bne_iff_ne, ne_eq, Nat.one_ne_zero, not_false_eq_true,
    Bool.and_true, Bool.true_and, if_true]

end Sys2Proof.Machine

open Sys2Proof Sys2Proof.Machine in
/-- Settles O25, a command and its case at a time: ARM, FORCE and STOP; the read of a word before the last, of the last word and of a
buffer that records; the two resets; the toggle. -/
theorem traceAndInjection : Obligations.TraceAndInjection := by
  unfold Obligations.TraceAndInjection
  refine fun s => ⟨fun b hw => ⟨?_, fun harmed => ?_, ?_⟩,
    fun b e w hr hb he hword => ⟨fun hidle hlt => ?_, fun hidle hlast => ?_, fun hbusy => ?_⟩, fun c hw => ⟨?_, ?_⟩,
    fun c hres hon hshape hdue => ?_⟩
  · obtain ⟨hstate, harm, hidx, hwrapped⟩ := traceArm_registers (granted s (R.TRC_CTRL b)) b
    refine ⟨_, awake_fieldAt (traceArm · b) hw, (State.queued_get _ _ _).trans hstate, (State.queued_get _ _ _).trans harm,
      (State.queued_get _ _ _).trans hidx, (State.queued_get _ _ _).trans hwrapped, ?_,
      ((traceArm_changes _ b).mono_parts (by decide)).after_granted (by decide)⟩
    rw [State.queued_trace, traceArm_trace, granted_trace]
  · rw [← granted_get s (R.TRC_CTRL b)] at harmed
    refine ⟨_, awake_fieldAt (traceForce · b) hw, ?_, ?_⟩
    · rw [traceForce_armed harmed, State.queued_trace, State.trcUp_trace, granted_trace]
    · rw [traceForce_armed harmed]
      exact Changes.after_granted ⟨(State.trcUp_only _ _ _).mono (by decide), fun _ _ => rfl⟩ (by decide)
  · obtain ⟨hstate, harm⟩ := traceStop_registers (granted s (R.TRC_CTRL b)) b
    exact ⟨_, awake_fieldAt (traceStop · b) hw, (State.queued_get _ _ _).trans hstate, (State.queued_get _ _ _).trans harm,
      ((trcEnter_changes _ _ _).mono_parts (by decide)).after_granted (by decide)⟩
  · obtain ⟨hnext, hentry⟩ := trcAdvance_within (s.answer (s.bank (traceKey b e w))) e hlt
    refine ⟨_, exec_traceRead hr, ?_⟩
    rw [traceRead_idle hb he hword hidle]
    exact ⟨trcAdvance_rdata _ _ _, hnext, hentry.trans he.symm, (trcAdvance_answer_changes _ _ _ _).queued⟩
  · subst hlast
    obtain ⟨hnext, hentry⟩ := trcAdvance_last (s.answer (s.bank (traceKey b e 3))) e
    refine ⟨_, exec_traceRead hr, ?_⟩
    rw [traceRead_idle hb he hword hidle]
    exact ⟨trcAdvance_rdata _ _ _, hnext, hentry, (trcAdvance_answer_changes _ _ _ _).queued⟩
  · refine ⟨_, exec_traceRead hr, ?_⟩
    rw [traceRead_busy hb he hword hbusy]
    exact ⟨trcAdvance_rdata _ _ _, trcAdvance_counted s e w, (trcAdvance_busy_changes s e w).queued⟩
  · exact ⟨_, awake_fieldAt (clrPk · c) hw, (State.queued_get _ _ _).trans (clrPk_get _ _),
      ((set_changes _ _ _).mono_parts (by decide)).after_granted (by decide)⟩
  · exact ⟨_, awake_fieldAt (clrMin · c) hw, (State.queued_get _ _ _).trans (clrMin_get _ _),
      ((set_changes _ _ _).mono_parts (by decide)).after_granted (by decide)⟩
  · refine ⟨_, awake_next _ hres, ?_⟩
    rw [injectionToggle_due hon hshape hdue]
    exact ⟨rfl, Changes.queued ⟨State.loopUp_only _ _ _, fun _ _ => rfl⟩⟩

end

section
/-! The spare lane: schedule, self-test, confirmation, uncorrectable errors and forced swaps (R297 to R305). -/

namespace Sys2Proof.Machine

/-! ### Fields that share no bit -/

/-- Two fields of words that share no bit, of one register or of two. -/
abbrev Fld.disjoint (f g : Fld) : Prop :=
  (f.lo ≤ f.hi ∧ f.hi < 32) ∧ (g.lo ≤ g.hi ∧ g.hi < 32) ∧ (g.ptr ≠ f.ptr ∨ f.hi < g.lo ∨ g.hi < f.lo)

/-- The field of a flag, and that of its counter. -/
abbrev Flag.flagField (g : Flag) : Fld := ⟨g.ptr, g.bit, g.bit⟩
abbrev Flag.countField (g : Flag) : Fld := ⟨g.cptr, g.clo + 7, g.clo⟩

section
variable (s : State) {f h : Fld} {g : Flag}

theorem State.get_set_disjoint (n : Nat) (hd : f.disjoint h) : (s.set f n).get h = s.get h := by
  obtain ⟨hf, hh, hptr | hbits⟩ := hd
  · exact State.get_set_other _ _ _ _ hptr
  · exact State.get_set_apart _ _ _ _ hf hh hbits

theorem State.get_raise_disjoint (hflag : g.flagField.disjoint h) (hcount : g.countField.disjoint h) : (s.raise g).get h = s.get h := by
  unfold State.raise
  dsimp only
  rw [State.get_set_disjoint _ _ hcount, State.get_set_disjoint _ _ hflag]

theorem State.get_cond_disjoint (present : Bool) (hflag : g.flagField.disjoint h) (hcount : g.countField.disjoint h) :
    (s.cond g present).get h = s.get h := by
  unfold State.cond
  dsimp only
  split
  · split
    · rfl
    · exact State.get_raise_disjoint _ hflag hcount
  · rfl

/-- A set event is counted from a state with the same count to a state with the same flag and count. -/
theorem counted_congr {s s' t t' : State} (h : counted g s' t') (hfrom : s'.get g.countField = s.get g.countField)
    (hflag : t.get g.flagField = t'.get g.flagField) (hcount : t.get g.countField = t'.get g.countField) : counted g s t := by
  obtain ⟨h1, hn⟩ := h
  exact ⟨hflag.trans h1, hcount.trans (hn.trans (by rw [hfrom]))⟩

theorem State.get_lt (f : Fld) : s.get f < 2 ^ (f.hi + 1 - f.lo) := Nat.mod_lt _ (Nat.two_pow_pos _)

end

/-! ### Lanes and their banks -/

theorem lane_laneUp_other {s : State} {n m : Nat} (f : LaneSt → LaneSt) (h : n ≠ m) : (s.laneUp n f).lane m = s.lane m := by
  show (s.lanes.modify n f).getD m {} = s.lanes.getD m {}
  simp [h]

theorem lane_poolUp (s : State) (f : LanePool → LanePool) (n : Nat) : (s.poolUp f).lane n = s.lane n := rfl

/-- The keys of two lanes' banks differ. -/
theorem laneKey_ne {n m o p : Nat} (a b : Bool) (h : n ≠ m) (ho : o < 256) (hp : p < 256) : laneKey n a o ≠ laneKey m b p := by
  unfold laneKey
  cases a <;> cases b <;> simp only [Bool.false_eq_true, if_true, if_false] <;> omega

/-- The two banks of a lane, and the words of a bank, have keys of their own. -/
theorem laneKey_inj {n o p : Nat} {a b : Bool} (ho : o < 256) (hp : p < 256) (h : laneKey n a o = laneKey n b p) : a = b ∧ o = p := by
  unfold laneKey at h
  cases a <;> cases b <;> simp only [Bool.false_eq_true, if_true, if_false] at h <;> simp <;> omega

/-- The first m words of one bank of a lane copied to another lane. -/
def copyWords (s : State) (src dst : Nat) (b : Bool) (m : Nat) : State :=
  (List.range m).foldl (fun t o => t.putBank (laneKey dst b o) (t.bank (laneKey src b o))) s

theorem copyWords_succ (s : State) (src dst : Nat) (b : Bool) (m : Nat) :
    copyWords s src dst b (m + 1) =
      (copyWords s src dst b m).putBank (laneKey dst b m) ((copyWords s src dst b m).bank (laneKey src b m)) := by
  simp only [copyWords, List.range_succ, List.foldl_append, List.foldl_cons, List.foldl_nil]

theorem copyWords_only (s : State) (src dst : Nat) (b : Bool) (m : Nat) : Only [.banks] s (copyWords s src dst b m) :=
  Only.foldl (fun t _ => State.putBank_only t _ _) (Only.refl _ s)

section
variable (s : State) {src dst m : Nat} (b : Bool)

theorem copyWords_bank_other {k : Nat} (hk : ∀ o < m, k ≠ laneKey dst b o) : (copyWords s src dst b m).bank k = s.bank k := by
  induction m with
  | zero => rfl
  | succ m ih =>
    rw [copyWords_succ, State.bank_putBank, if_neg (hk m (Nat.lt_succ_self m))]
    exact ih fun o ho => hk o (Nat.lt_succ_of_lt ho)

theorem copyWords_bank_copied (hne : src ≠ dst) (hm : m ≤ 256) {o : Nat} (ho : o < m) :
    (copyWords s src dst b m).bank (laneKey dst b o) = s.bank (laneKey src b o) := by
  induction m with
  | zero => omega
  | succ m ih =>
    rw [copyWords_succ, State.bank_putBank]
    by_cases hlast : o = m
    · subst hlast
      rw [if_pos rfl]
      exact copyWords_bank_other s b fun p hp => laneKey_ne b b hne (by omega) (by omega)
    · rw [if_neg fun h => hlast (laneKey_inj (by omega) (by omega) h).2]
      exact ih (by omega) (by omega)

end

/-- The lane that gets the copy holds what the other holds (R298). -/
def lanesCopied (s : State) (src dst : Nat) : State := { s with lanes := s.lanes.set dst { s.lane src with dead := false } }

theorem copyLane_eq (s : State) (src dst : Nat) :
    copyLane s src dst = copyWords (copyWords (lanesCopied s src dst) src dst false 162) src dst true 162 := by
  have hbanks : copyLane s src dst = (List.range 2).foldl (fun t b => copyWords t src dst (b = 1) 162) (lanesCopied s src dst) := rfl
  rw [hbanks, List.range_succ, List.range_one]
  simp

/-- A copy writes the banks and the one lane. -/
theorem copyLane_parts (s : State) (src dst : Nat) : Only [.banks, .lanes] s (copyLane s src dst) := by
  have hwords (t : State) (b : Bool) : Only [.banks, .lanes] t (copyWords t src dst b 162) :=
    (copyWords_only t src dst b 162).mono (by decide)
  rw [copyLane_eq]
  exact ((only_with_lanes_step s _ (Only.refl _ s) (by decide)).trans (hwords _ false)).trans (hwords _ true)

theorem copyLane_regs (s : State) (src dst : Nat) : (copyLane s src dst).regs = s.regs := copyLane_parts s src dst .regs (by decide)

theorem copyLane_lanes (s : State) (src dst : Nat) :
    (copyLane s src dst).lanes = s.lanes.set dst { s.lane src with dead := false } := by
  rw [copyLane_eq, copyWords_only _ _ _ _ _ .lanes (by decide), copyWords_only _ _ _ _ _ .lanes (by decide)]
  rfl

theorem copyLane_lane {s : State} {dst : Nat} (src : Nat) (h : dst < s.lanes.length) :
    (copyLane s src dst).lane dst = { s.lane src with dead := false } := by
  rw [State.lane, copyLane_lanes]
  simp [h]

theorem copyLane_bank (s : State) {src dst o : Nat} (b : Bool) (hne : src ≠ dst) (ho : o < 162) :
    (copyLane s src dst).bank (laneKey dst b o) = s.bank (laneKey src b o) := by
  rw [copyLane_eq]
  cases b with
  | false =>
    rw [copyWords_bank_other _ true fun p hp h => by simpa using (laneKey_inj (by omega) (by omega) h).1,
      copyWords_bank_copied _ false hne (by decide) ho]
    rfl
  | true =>
    rw [copyWords_bank_copied _ true hne (by decide) ho, copyWords_bank_other _ false fun p hp => laneKey_ne _ _ hne (by omega) (by omega)]
    rfl

/-- The copy runs the same programs (R298). -/
theorem copyLane_programs {s : State} {src dst o : Nat} (hne : src ≠ dst) (hdst : dst < s.lanes.length) (ho : o < 162) :
    laneLive (copyLane s src dst) dst o = laneLive s src o ∧ laneNext (copyLane s src dst) dst o = laneNext s src o := by
  unfold laneLive laneNext
  rw [copyLane_lane src hdst]
  exact ⟨copyLane_bank s _ hne ho, copyLane_bank s _ hne ho⟩

/-- The programs of a lane depend on its banks and on which one is LIVE. -/
theorem lanePrograms_congr {s t : State} {n : Nat} (hbanks : t.banks = s.banks) (hlane : t.lane n = s.lane n) (o : Nat) :
    laneLive t n o = laneLive s n o ∧ laneNext t n o = laneNext s n o := by
  unfold laneLive laneNext State.bank
  rw [hbanks, hlane]
  exact ⟨rfl, rfl⟩

/-! ### The schedule (R297, R298, R301) -/

/-- The slot that opens shows, and the spare leaves the update it ran. -/
def slotShown (s : State) (sp slot : Nat) : State := (s.set F.LANE_SHD_SLOT slot).laneUp sp fun x => { x with phase := 0 }

theorem slotShown_changes (s : State) (sp slot : Nat) : Changes [.regs, .lanes] [R.LANE_SHD] s (slotShown s sp slot) :=
  ⟨State.laneUp_step _ _ _ ((State.set_only s _ _).mono (by decide)) (by decide),
    ((OnlyRegs.refl _ s).set (by simp)).of_only (State.laneUp_only _ _ _) (by decide)⟩

theorem slotShown_slot (s : State) (sp : Nat) {slot : Nat} (h : slot < 17) : (slotShown s sp slot).get F.LANE_SHD_SLOT = slot := by
  rw [slotShown, State.laneUp_get, State.get_set_same _ _ _ ⟨by decide, by decide⟩]
  exact Nat.mod_eq_of_lt (show slot < 32 by omega)

/-- The lane that serves a channel is shown in another register. -/
theorem slotShown_laneOf (s : State) (sp slot c : Nat) : laneOf (slotShown s sp slot) c = laneOf s c := by
  rw [laneOf, slotShown, State.laneUp_get, State.get_set_other _ _ _ _ (by show 0x5014 + 0x200 * c ≠ 0x1e0; omega), ← laneOf]

section
variable {s : State} {sp slot : Nat} (hen : s.get F.LANE_SHD_SHD_EN = 1) (hconfirm : s.get F.LANE_SHD_CONFIRM = 0)
  (hclosed : s.lanePool.slot ≠ some slot) (hspare : spareLane s = some sp) (hslot : s.time.block / 12000 % 17 = slot)
include hen hconfirm hclosed hspare hslot

theorem shadowSlotOpen_copies (hlt : slot < 16) (hswitching : s.get (F.MOD_STAT_STATE (2 * slot)) = modSwitching)
    (hodd : oddHalf s slot = false) :
    shadowSlotOpen s = (openShadow (slotShown s sp slot) slot sp).poolUp fun p =>
      { p with shadow := some slot, selfTest := none, afterSwap := false, slot := some slot } := by
  simp [shadowSlotOpen, slotShown, State.on, hen, hconfirm, hclosed, hspare, hslot, hlt, hswitching, hodd]

theorem shadowSlotOpen_tests (hlt : 16 ≤ slot) :
    shadowSlotOpen s = (slotShown s sp slot).poolUp fun p =>
      { p with shadow := none, selfTest := some sp, afterSwap := false, upds := 0, slot := some slot } := by
  simp [shadowSlotOpen, slotShown, State.on, hen, hconfirm, hclosed, hspare, hslot, Nat.not_lt.2 hlt]

end

/-- The shown slot with the spare as a copy of another lane: that lane's elements and programs in the spare, and LANE_SHD the one
register that differs. -/
theorem slotShown_copied {s : State} {sp slot src : Nat} (hsp : sp < s.lanes.length) (hne : src ≠ sp) :
    ((copyLane (slotShown s sp slot) src sp).lane sp).r = (s.lane src).r ∧
      (∀ o < 162, laneLive (copyLane (slotShown s sp slot) src sp) sp o = laneLive s src o ∧
        laneNext (copyLane (slotShown s sp slot) src sp) sp o = laneNext s src o) ∧
      Changes [.regs, .banks, .lanes] [R.LANE_SHD] s (copyLane (slotShown s sp slot) src sp) := by
  obtain ⟨honly, hregs⟩ := slotShown_changes s sp slot
  have hother : (slotShown s sp slot).lane src = s.lane src := by
    rw [slotShown, lane_laneUp_other _ (Ne.symm hne), State.lane, State.set_lanes, ← State.lane]
  have hlen : sp < (slotShown s sp slot).lanes.length := by
    rw [slotShown, State.laneUp_lanes, List.length_modify, State.set_lanes]
    exact hsp
  refine ⟨?_, fun o ho => ?_, copyLane_step _ _ _ (honly.mono (by decide)) (by decide), fun p hp => ?_⟩
  · rw [copyLane_lane src hlen, hother]
  · obtain ⟨hlive, hnext⟩ := copyLane_programs hne hlen ho
    obtain ⟨hlive', hnext'⟩ := lanePrograms_congr (honly .banks (by decide)) hother o
    exact ⟨hlive.trans hlive', hnext.trans hnext'⟩
  · rw [State.rd_congr (copyLane_regs _ _ _), hregs p hp]

/-- A slot of a switching channel opens with a copy of its lane (R298). -/
theorem shadowSlotOpen_copies_changes {s : State} {sp slot : Nat} (hen : s.get F.LANE_SHD_SHD_EN = 1)
    (hconfirm : s.get F.LANE_SHD_CONFIRM = 0) (hclosed : s.lanePool.slot ≠ some slot) (hspare : spareLane s = some sp)
    (hslot : s.time.block / 12000 % 17 = slot) (hlt : slot < 16) (hswitching : s.get (F.MOD_STAT_STATE (2 * slot)) = modSwitching)
    (hodd : oddHalf s slot = false) (hsp : sp < s.lanes.length) (hne : laneOf s slot ≠ sp) :
    (shadowSlotOpen s).get F.LANE_SHD_SLOT = slot ∧ ((shadowSlotOpen s).lane sp).r = (s.lane (laneOf s slot)).r ∧
      (∀ o < 162, laneLive (shadowSlotOpen s) sp o = laneLive s (laneOf s slot) o ∧
        laneNext (shadowSlotOpen s) sp o = laneNext s (laneOf s slot) o) ∧
      (shadowSlotOpen s).lanePool =
        { s.lanePool with shadow := some slot, selfTest := none, afterSwap := false, slot := some slot } ∧
      Changes [.regs, .banks, .lanes, .lanePool] [R.LANE_SHD] s (shadowSlotOpen s) := by
  rw [shadowSlotOpen_copies hen hconfirm hclosed hspare hslot hlt hswitching hodd, openShadow, slotShown_laneOf]
  generalize laneOf s slot = src at hne ⊢
  obtain ⟨hlane, hprog, honly, hregs⟩ := slotShown_copied (slot := slot) hsp hne
  refine ⟨?_, ?_, fun o ho => ?_, ?_, State.poolUp_step _ _ (honly.mono (by decide)) (by decide), fun p hp => ?_⟩
  · rw [State.poolUp_get, State.get_congr (copyLane_regs _ _ _), slotShown_slot s sp (by omega)]
  · rw [lane_poolUp, hlane]
  · obtain ⟨hlive, hnext⟩ := hprog o ho
    obtain ⟨hlive', hnext'⟩ := lanePrograms_congr (State.poolUp_banks _ _) (lane_poolUp _ _ sp) o
    exact ⟨hlive'.trans hlive, hnext'.trans hnext⟩
  · rw [State.poolUp_lanePool, honly .lanePool (by decide)]
  · rw [State.poolUp_rd, hregs p hp]

/-- The slot of the self-test opens with the spare in it (R301). -/
theorem shadowSlotOpen_tests_changes {s : State} {sp : Nat} (hen : s.get F.LANE_SHD_SHD_EN = 1)
    (hconfirm : s.get F.LANE_SHD_CONFIRM = 0) (hclosed : s.lanePool.slot ≠ some 16) (hspare : spareLane s = some sp)
    (hslot : s.time.block / 12000 % 17 = 16) :
    (shadowSlotOpen s).get F.LANE_SHD_SLOT = 16 ∧
      (shadowSlotOpen s).lanePool =
        { s.lanePool with shadow := none, selfTest := some sp, afterSwap := false, upds := 0, slot := some 16 } ∧
      Changes [.regs, .lanes, .lanePool] [R.LANE_SHD] s (shadowSlotOpen s) := by
  obtain ⟨honly, hregs⟩ := slotShown_changes s sp 16
  rw [shadowSlotOpen_tests hen hconfirm hclosed hspare hslot (by decide)]
  refine ⟨?_, ?_, State.poolUp_step _ _ (honly.mono (by decide)) (by decide), hregs.of_only (State.poolUp_only _ _) (by decide)⟩
  · rw [State.poolUp_get, slotShown_slot s sp (by decide)]
  · rw [State.poolUp_lanePool, honly .lanePool (by decide)]

/-! ### The condition NO_SPARE (R305) -/

theorem showSpare_get (s : State) {f : Fld} (hflag : G.LANE_NO_SPARE.flagField.disjoint f) (hcount : G.LANE_NO_SPARE.countField.disjoint f) :
    (showSpare s).get f = s.get f := State.get_cond_disjoint s _ hflag hcount

theorem showSpare_lanePool (s : State) : (showSpare s).lanePool = s.lanePool := showSpare_only s .lanePool (by decide)

/-- While a replaced lane is in its self-test the condition is absent, and no register changes. -/
theorem showSpare_regs_in_test {s : State} {n : Nat} (hswap : s.lanePool.afterSwap = true) (htest : s.lanePool.selfTest = some n) :
    (showSpare s).regs = s.regs := by
  have habsent : ((spareLane s).isNone && !(s.lanePool.afterSwap && s.lanePool.selfTest.isSome)) = false := by simp [hswap, htest]
  rw [showSpare, habsent]
  rfl

/-! ### Retirement (R301, R302, R305) -/

theorem spareLane_lt {s : State} {sp : Nat} (h : spareLane s = some sp) : sp < 17 := by
  unfold spareLane at h
  dsimp only at h
  split at h
  · exact Option.some.inj h ▸ ‹_›
  · cases h

section
variable (s : State) {n : Nat}

theorem retireLaneNow_retired (hn : n < 17) :
    (retireLaneNow s n).get F.LANE_POOL_RETIRED = s.get F.LANE_POOL_RETIRED ||| 2 ^ n := by
  have hlt : s.get F.LANE_POOL_RETIRED ||| 2 ^ n < 2 ^ 17 :=
    Nat.or_lt_two_pow (State.get_lt s F.LANE_POOL_RETIRED) (Nat.pow_lt_pow_right (by decide) hn)
  rw [retireLaneNow, queueRetire_get _ _ _ _ (by decide) (by decide), State.get_raise_other _ _ _ (by decide) (by decide),
    State.get_set_same _ _ _ ⟨by decide, by decide⟩]
  exact Nat.mod_eq_of_lt hlt

theorem retireLaneNow_counted : counted G.LANE_RETIRE s (retireLaneNow s n) :=
  counted_congr (counted_raise (s.set F.LANE_POOL_RETIRED _) G.LANE_RETIRE (by decide) (by decide) (by decide))
    (State.get_set_other _ _ _ _ (by decide)) (queueRetire_get _ _ _ _ (by decide) (by decide))
    (queueRetire_get _ _ _ _ (by decide) (by decide))

end

/-! ### The end of a self-test (R301, R302) -/

/-- With a failed test the confirmation that waits for it ends, or the spare is none any more. -/
def testFailed (s : State) : State := if s.lanePool.afterSwap then s.set F.LANE_SHD_CONFIRM 0 else s.set F.LANE_POOL_SPARE 0x1F

/-- The spare's work after a failed test. -/
def poolFailed (afterSwap : Bool) (p : LanePool) : LanePool := if afterSwap then {} else { p with selfTest := none, shadow := none }

theorem testFailed_get (s : State) {f : Fld} (hconfirm : F.LANE_SHD_CONFIRM.disjoint f) (hspare : F.LANE_POOL_SPARE.disjoint f) :
    (testFailed s).get f = s.get f := by
  unfold testFailed
  split
  · exact State.get_set_disjoint _ _ hconfirm
  · exact State.get_set_disjoint _ _ hspare

theorem poolFailed_selfTest (afterSwap : Bool) (p : LanePool) : (poolFailed afterSwap p).selfTest = none := by
  cases afterSwap <;> rfl

section
variable {s : State} {n : Nat} (htest : s.lanePool.selfTest = some n) (hupds : 4096 ≤ s.lanePool.upds)
include htest hupds

theorem selfTestDone_passed (hswap : s.lanePool.afterSwap = true) :
    selfTestDone s n true = showSpare ((s.set F.LANE_POOL_SPARE n).poolUp fun p => { p with selfTest := none, afterSwap := false }) := by
  simp [selfTestDone, htest, Nat.not_lt.2 hupds, hswap]

/-- A lane that fails is retired, and the spare's work that its test was part of ends. -/
theorem selfTestDone_failed :
    selfTestDone s n false = showSpare ((retireLaneNow (testFailed s) n).poolUp (poolFailed s.lanePool.afterSwap)) := by
  unfold selfTestDone testFailed poolFailed
  cases hswap : s.lanePool.afterSwap <;> simp [htest, Nat.not_lt.2 hupds]

theorem selfTestDone_passed_frees (hn : n < 17) (hswap : s.lanePool.afterSwap = true) :
    (selfTestDone s n true).get F.LANE_POOL_SPARE = n ∧
      (selfTestDone s n true).lanePool = { s.lanePool with selfTest := none, afterSwap := false } ∧
      Only [.regs, .conds, .lanePool] s (selfTestDone s n true) := by
  rw [selfTestDone_passed htest hupds hswap]
  refine ⟨?_, ?_, showSpare_step _ (State.poolUp_step _ _ ((State.set_only s _ _).mono (by decide)) (by decide)) (by decide)⟩
  · rw [showSpare_get _ (by decide) (by decide), State.poolUp_get, State.get_set_same _ _ _ ⟨by decide, by decide⟩]
    exact Nat.mod_eq_of_lt (show n < 32 by omega)
  · rw [showSpare_lanePool, State.poolUp_lanePool, State.set_lanePool]

theorem selfTestDone_failed_retires (hn : n < 17) :
    (selfTestDone s n false).get F.LANE_POOL_RETIRED = s.get F.LANE_POOL_RETIRED ||| 2 ^ n ∧
      counted G.LANE_RETIRE s (selfTestDone s n false) ∧ (selfTestDone s n false).lanePool.selfTest = none := by
  have hget (f : Fld) (hflag : G.LANE_NO_SPARE.flagField.disjoint f) (hcount : G.LANE_NO_SPARE.countField.disjoint f) :
      (selfTestDone s n false).get f = (retireLaneNow (testFailed s) n).get f := by
    rw [selfTestDone_failed htest hupds, showSpare_get _ hflag hcount, State.poolUp_get]
  refine ⟨?_, counted_congr (retireLaneNow_counted (testFailed s)) (testFailed_get s (by decide) (by decide))
    (hget _ (by decide) (by decide)) (hget _ (by decide) (by decide)), ?_⟩
  · rw [hget _ (by decide) (by decide), retireLaneNow_retired _ hn, testFailed_get s (by decide) (by decide)]
  · rw [selfTestDone_failed htest hupds, showSpare_lanePool]
    exact poolFailed_selfTest _ _

end

/-! ### The end of the confirmation shadow (R302) -/

/-- The spare, where there is one, leaves the update it runs. -/
def spareStopped (s : State) : State :=
  match spareLane s with
  | some sp => s.laneUp sp fun x => { x with phase := 0 }
  | none => s

theorem spareStopped_only (s : State) : Only [.lanes] s (spareStopped s) := by
  unfold spareStopped
  split
  · exact State.laneUp_only _ _ _
  · exact Only.refl _ s

theorem confirmEnd_due {s : State} (hon : s.get F.LANE_SHD_CONFIRM = 1) (htest : s.lanePool.selfTest = none)
    (hdue : s.lanePool.confirmDue = none) (hblocks : 12000 ≤ s.lanePool.blocks) :
    confirmEnd s = ((spareStopped s).set F.LANE_SHD_CONFIRM 0).poolUp fun p => { p with confirm := none, slot := none } := by
  have hover : (confirming s && decide (12000 ≤ s.lanePool.blocks)) = true := by
    simp [confirming, State.on, hon, htest, hdue, hblocks]
  rw [confirmEnd, if_pos hover]
  rfl

theorem confirmEnd_due_changes {s : State} (hon : s.get F.LANE_SHD_CONFIRM = 1) (htest : s.lanePool.selfTest = none)
    (hdue : s.lanePool.confirmDue = none) (hblocks : 12000 ≤ s.lanePool.blocks) :
    (confirmEnd s).get F.LANE_SHD_CONFIRM = 0 ∧ (confirmEnd s).lanePool = { s.lanePool with confirm := none, slot := none } ∧
      Changes [.regs, .lanes, .lanePool] [R.LANE_SHD] s (confirmEnd s) := by
  have hstop := spareStopped_only s
  refine ⟨?_, ?_, confirmEnd_only s, ?_⟩ <;> rw [confirmEnd_due hon htest hdue hblocks]
  · rw [State.poolUp_get, State.get_set_same _ _ _ ⟨by decide, by decide⟩, Nat.zero_mod]
  · have hpool : (spareStopped s).lanePool = s.lanePool := hstop .lanePool (by decide)
    rw [State.poolUp_lanePool, State.set_lanePool, hpool]
  · exact (((OnlyRegs.refl _ s).of_only hstop (by decide)).set (by simp)).of_only (State.poolUp_only _ _) (by decide)

/-! ### A mismatch counted (R302, R303) -/

theorem servedChan_some {s : State} {n c : Nat} (h : servedChan s n = some c) : laneOf s c = n ∧ c < 16 :=
  ⟨by simpa using List.find?_some h, List.mem_range.1 (List.mem_of_find?_eq_some h)⟩

section
variable (s : State) (c : Nat) (ue : Bool)

theorem countMismatch_get {f : Fld} (hlast : f.ptr ≠ R.LANE_LAST) (hflag : G.LANE_MISMATCH.flagField.disjoint f)
    (hcount : G.LANE_MISMATCH.countField.disjoint f) : (countMismatch s c ue).get f = s.get f := by
  rw [countMismatch, State.get_wr_other _ _ _ _ hlast, State.get_raise_disjoint _ hflag hcount]

theorem countMismatch_counted : counted G.LANE_MISMATCH s (countMismatch s c ue) :=
  counted_congr (counted_raise s G.LANE_MISMATCH (by decide) (by decide) (by decide)) rfl
    (State.get_wr_other _ _ _ _ (by decide)) (State.get_wr_other _ _ _ _ (by decide))

theorem countMismatch_last {f : Fld} (h : f.ptr = R.LANE_LAST) :
    (countMismatch s c ue).get f = bitsN (((s.get F.LANE_LAST_SEQ + 1) % 65536 * 65536 + (if ue then 8192 else 0) +
      laneOf s c * 256 + c) % 2 ^ 32) f.hi f.lo := by
  rw [countMismatch, ← h, State.get_wr_same, BitVec.toNat_ofNat]

/-- LANE_LAST names the channel and the lane of an uncorrectable error. -/
theorem countMismatch_ue_last (hc : c < 16) :
    (countMismatch s c true).get F.LANE_LAST_UE = 1 ∧ (countMismatch s c true).get F.LANE_LAST_CH = c ∧
      (countMismatch s c true).get F.LANE_LAST_LANE = laneOf s c := by
  have hlane : laneOf s c < 32 := State.get_lt s (F.LPE_STAT_LANE c)
  rw [countMismatch_last s c true rfl, countMismatch_last s c true rfl, countMismatch_last s c true rfl]
  simp only [bitsN, if_true]
  omega

end

/-- The state in which an uncorrectable error of the lane of channel c is counted, latched and marked for the trace buffers. -/
def ueNoted (s : State) (c : Nat) : State := markEvent (countMismatch s c true) c 5

theorem ueNoted_only (s : State) (c : Nat) : Only [.regs, .loops] s (ueNoted s c) :=
  markEvent_step _ _ _ ((countMismatch_only s c true).mono (by decide)) (by decide)

theorem ueNoted_regs (s : State) (c : Nat) : (ueNoted s c).regs = (countMismatch s c true).regs :=
  markEvent_only _ _ _ .regs (by decide)

theorem ueNoted_get (s : State) (c : Nat) {f : Fld} (hlast : f.ptr ≠ R.LANE_LAST) (hflag : G.LANE_MISMATCH.flagField.disjoint f)
    (hcount : G.LANE_MISMATCH.countField.disjoint f) : (ueNoted s c).get f = s.get f :=
  (State.get_congr (ueNoted_regs s c) f).trans (countMismatch_get s c true hlast hflag hcount)

theorem ueNoted_spareLane (s : State) (c : Nat) : spareLane (ueNoted s c) = spareLane s := by
  unfold spareLane
  rw [ueNoted_get s c (by decide) (by decide) (by decide)]

/-- The lane of a channel is shown above the registers of lanes. -/
theorem laneField_disjoint (c : Nat) {f : Fld} (hf : f.ok) (hptr : f.ptr < 0x5000) : (F.LPE_STAT_LANE c).disjoint f :=
  ⟨⟨by simp, by simp⟩, hf, .inl (by show f.ptr ≠ 0x5014 + 0x200 * c; omega)⟩

theorem disjoint_laneField (c : Nat) {f : Fld} (hf : f.ok) (hptr : f.ptr < 0x5000) : f.disjoint (F.LPE_STAT_LANE c) :=
  ⟨hf, ⟨by simp, by simp⟩, .inl (by show 0x5014 + 0x200 * c ≠ f.ptr; omega)⟩

theorem ueNoted_laneOf (s : State) (c d : Nat) : laneOf (ueNoted s c) d = laneOf s d :=
  ueNoted_get s c (by show 0x5014 + 0x200 * d ≠ 0x1f4; omega) (disjoint_laneField d ⟨by decide, by decide⟩ (by decide))
    (disjoint_laneField d ⟨by decide, by decide⟩ (by decide))

/-! ### The spare serves in a lane's place (R302, R303) -/

/-- The registers once the spare sp serves channel c: the lane shows, the spare is none any more, and LANE_SWAP counts. -/
def swapShown (s : State) (c sp : Nat) : State :=
  (((s.set (F.LPE_STAT_LANE c) sp).set F.LANE_POOL_SPARE 0x1F).set F.LANE_SHD_CONFIRM 1).raise G.LANE_LANE_SWAP

theorem spareServes_lanePool (s : State) (c sp : Nat) :
    (spareServes s c sp).lanePool =
      { shadow := none, selfTest := some (laneOf s c), afterSwap := true, confirmDue := some c, confirm := none } := by
  rw [spareServes, showSpare_lanePool]
  rfl

theorem spareServes_get (s : State) (c sp : Nat) (f : Fld) : (spareServes s c sp).get f = (swapShown s c sp).get f := by
  rw [spareServes, State.get_congr (showSpare_regs_in_test rfl rfl), State.poolUp_get, State.laneUp_get]
  rfl

section
variable (s : State) (c : Nat) {sp : Nat}

theorem swapShown_lane (h : sp < 17) : (swapShown s c sp).get (F.LPE_STAT_LANE c) = sp := by
  have hok {f : Fld} (hf : f.ok) (hptr : f.ptr < 0x5000) := disjoint_laneField c hf hptr
  rw [swapShown, State.get_raise_disjoint _ (hok ⟨by decide, by decide⟩ (by decide)) (hok ⟨by decide, by decide⟩ (by decide)),
    State.get_set_disjoint _ _ (hok ⟨by decide, by decide⟩ (by decide)),
    State.get_set_disjoint _ _ (hok ⟨by decide, by decide⟩ (by decide)), State.get_set_same _ _ _ ⟨by simp, by simp⟩]
  simp only [Nat.reduceAdd, Nat.reduceSub]
  omega

theorem swapShown_get {f : Fld} (hptr : f.ptr < 0x5000) (hpool : F.LANE_POOL_SPARE.disjoint f) (hshd : F.LANE_SHD_CONFIRM.disjoint f)
    (hflag : G.LANE_LANE_SWAP.flagField.disjoint f) (hcount : G.LANE_LANE_SWAP.countField.disjoint f) :
    (swapShown s c sp).get f = s.get f := by
  rw [swapShown, State.get_raise_disjoint _ hflag hcount, State.get_set_disjoint _ _ hshd, State.get_set_disjoint _ _ hpool,
    State.get_set_disjoint _ _ (laneField_disjoint c hpool.2.1 hptr)]

theorem swapShown_counted : counted G.LANE_LANE_SWAP s (swapShown s c sp) := by
  refine counted_congr (counted_raise _ G.LANE_LANE_SWAP (by decide) (by decide) (by decide)) ?_ rfl rfl
  rw [State.get_set_disjoint _ _ (by decide), State.get_set_disjoint _ _ (by decide),
    State.get_set_disjoint _ _ (laneField_disjoint c ⟨by decide, by decide⟩ (by decide))]

end

/-- The spare holds the state of the lane it takes over: it shadows the channel, or gets a copy (R303). -/
def spareReady (s : State) (c n sp : Nat) : State := if shadowedChan s = some c then s else copyLane s n sp

theorem spareReady_only (s : State) (c n sp : Nat) : Only [.banks, .lanes] s (spareReady s c n sp) := by
  unfold spareReady
  split
  · exact Only.refl _ s
  · exact copyLane_parts s n sp

section
variable {s : State} {n c : Nat} (hserved : servedChan s n = some c)
include hserved

theorem laneUe_spare {sp : Nat} (hspare : spareLane s = some sp) (hconfirm : s.lanePool.confirm = none) :
    laneUe s n = spareServes (spareReady (ueNoted s c) c n sp) c sp := by
  have hpool : (ueNoted s c).lanePool.confirm ≠ some c := by
    rw [ueNoted_only s c .lanePool (by decide), hconfirm]
    nofun
  have hspare' := (ueNoted_spareLane s c).trans hspare
  rw [laneUe, hserved]
  dsimp only
  rw [← ueNoted, hspare']
  exact if_neg hpool

theorem laneUe_no_spare (hspare : spareLane s = none) : laneUe s n = abandonDead (ueNoted s c) n := by
  have hspare' := (ueNoted_spareLane s c).trans hspare
  rw [laneUe, hserved]
  dsimp only
  rw [← ueNoted, hspare']

end

/-! ### A lane without a spare (R303) -/

section
variable {s : State} {p : Nat}

/-- An abandoned update writes registers of legs and of channels alone, from 0x2000 up. -/
theorem withdrawWord_wordAt {l w : Nat} (hp : p < 0x2000) : wordAt (withdrawWord s l w).regs p = wordAt s.regs p := by
  unfold withdrawWord
  grind [wordAt_set]

theorem undoOut_wordAt {c : Nat} (hp : p < 0x2000) : wordAt (undoOut s c).regs p = wordAt s.regs p := by
  unfold undoOut
  grind [wordAt_set, State.legUp_regs, State.loopUp_regs, withdrawWord_wordAt]

theorem countOverrun_wordAt {c : Nat} (hp : p < 0x2000) : wordAt (countOverrun s c).regs p = wordAt s.regs p := by
  unfold countOverrun markEvent
  grind [wordAt_set, wordAt_raise, State.loopUp_regs]

theorem abandon_wordAt {n : Nat} (hp : p < 0x2000) : wordAt (abandon s n).regs p = wordAt s.regs p := by
  unfold abandon
  grind [State.laneUp_regs, countOverrun_wordAt, undoOut_wordAt]

theorem laneOverrun_wordAt {n : Nat} (hp : p < 0x2000) : wordAt (laneOverrun s n).regs p = wordAt s.regs p := by
  unfold laneOverrun
  grind [abandon_wordAt]

theorem abandonDead_get {n : Nat} {f : Fld} (hp : f.ptr < 0x2000) : (abandonDead s n).get f = s.get f := by
  have hword : wordAt (abandonDead s n).regs f.ptr = wordAt s.regs f.ptr := laneOverrun_wordAt hp
  rw [wordAt_regs, wordAt_regs] at hword
  unfold State.get
  rw [hword]

end

/-- Of a lane that abandons its update the elements go back, and it stays as dead as it is. -/
theorem abandon_dead {s : State} {n : Nat} (h : n < s.lanes.length) : ((abandon s n).lane n).dead = (s.lane n).dead := by
  have hlane := lane_laneUp_same (fun x : LaneSt => { x with r := x.snap, phase := 4, m := none, clamp := 0, ispRuns := [] }) h
  unfold abandon
  dsimp only
  split
  · have hlanes (t : State) (c : Nat) : (countOverrun (undoOut t c) c).lanes = t.lanes :=
      countOverrun_step _ _ (undoOut_only t c) (by decide) .lanes (by decide)
    rw [State.lane, hlanes, ← State.lane, hlane]
  · rw [hlane]

theorem abandonDead_dead {s : State} {n : Nat} (h : n < s.lanes.length) : ((abandonDead s n).lane n).dead = true := by
  have hlane := lane_laneUp_same (fun x : LaneSt => { x with dead := true }) h
  unfold abandonDead laneOverrun
  split
  · rw [abandon_dead (by rw [State.laneUp_lanes, List.length_modify]; exact h), hlane]
  · rw [hlane]

/-! ### An uncorrectable error in a serving lane (R303) -/

section
variable {s : State} {n c : Nat} (hserved : servedChan s n = some c)
include hserved

theorem laneUe_spare_changes {sp : Nat} (hspare : spareLane s = some sp) (hconfirm : s.lanePool.confirm = none) :
    (laneUe s n).get (F.LPE_STAT_LANE c) = sp ∧ (laneUe s n).get F.LANE_LAST_UE = 1 ∧ (laneUe s n).get F.LANE_LAST_CH = c ∧
      (laneUe s n).get F.LANE_LAST_LANE = n ∧ counted G.LANE_MISMATCH s (laneUe s n) ∧ counted G.LANE_LANE_SWAP s (laneUe s n) ∧
      (laneUe s n).lanePool.selfTest = some n ∧ Only [.regs, .banks, .conds, .lanes, .loops, .lanePool] s (laneUe s n) := by
  obtain ⟨hlane, hc⟩ := servedChan_some hserved
  obtain ⟨hue, hch, hln⟩ := countMismatch_ue_last s c hc
  rw [laneUe_spare hserved hspare hconfirm]
  generalize hready : spareReady (ueNoted s c) c n sp = u
  have honly : Only [.banks, .lanes] (ueNoted s c) u := hready ▸ spareReady_only _ c n sp
  have hregs : u.regs = (countMismatch s c true).regs := (honly .regs (by decide)).trans (ueNoted_regs s c)
  have hget {f : Fld} (hptr : f.ptr < 0x5000) (hpool : F.LANE_POOL_SPARE.disjoint f) (hshd : F.LANE_SHD_CONFIRM.disjoint f)
      (hflag : G.LANE_LANE_SWAP.flagField.disjoint f) (hcount : G.LANE_LANE_SWAP.countField.disjoint f) :
      (spareServes u c sp).get f = (countMismatch s c true).get f := by
    rw [spareServes_get, swapShown_get u c hptr hpool hshd hflag hcount, State.get_congr hregs]
  refine ⟨?_, ?_, ?_, ?_, ?_, ?_, ?_, ?_⟩
  · rw [spareServes_get, swapShown_lane u c (spareLane_lt hspare)]
  · rw [hget (by decide) (by decide) (by decide) (by decide) (by decide), hue]
  · rw [hget (by decide) (by decide) (by decide) (by decide) (by decide), hch]
  · rw [hget (by decide) (by decide) (by decide) (by decide) (by decide), hln, hlane]
  · exact counted_congr (countMismatch_counted s c true) rfl (hget (by decide) (by decide) (by decide) (by decide) (by decide))
      (hget (by decide) (by decide) (by decide) (by decide) (by decide))
  · refine counted_congr (swapShown_counted u c) ?_ (spareServes_get u c sp _) (spareServes_get u c sp _)
    rw [State.get_congr hregs, countMismatch_get s c true (by decide) (by decide) (by decide)]
  · have hsame : laneOf u c = n := by rw [laneOf, State.get_congr (honly .regs (by decide)), ← laneOf, ueNoted_laneOf, hlane]
    rw [spareServes_lanePool, hsame]
  · exact spareServes_step _ _ _ (((ueNoted_only s c).mono (by decide)).step honly (by decide)) (by decide)

theorem laneUe_no_spare_changes (hspare : spareLane s = none) (hn : n < s.lanes.length) :
    ((laneUe s n).lane n).dead = true ∧ (laneUe s n).get F.LANE_LAST_UE = 1 ∧ counted G.LANE_MISMATCH s (laneUe s n) ∧
      Only [.regs, .gates, .legs, .lanes, .loops] s (laneUe s n) := by
  obtain ⟨-, hc⟩ := servedChan_some hserved
  obtain ⟨hue, -, -⟩ := countMismatch_ue_last s c hc
  have hlanes : (ueNoted s c).lanes = s.lanes := ueNoted_only s c .lanes (by decide)
  have hget {f : Fld} (hptr : f.ptr < 0x2000) : (abandonDead (ueNoted s c) n).get f = (countMismatch s c true).get f :=
    (abandonDead_get hptr).trans (State.get_congr (ueNoted_regs s c) f)
  rw [laneUe_no_spare hserved hspare]
  exact ⟨abandonDead_dead (by rw [hlanes]; exact hn), (hget (by decide)).trans hue,
    counted_congr (countMismatch_counted s c true) rfl (hget (by decide)) (hget (by decide)),
    abandonDead_step _ _ ((ueNoted_only s c).mono (by decide)) (by decide)⟩

end

/-! ### A forced swap (R304) -/

theorem fswapRefused_granted (s : State) (p : Nat) : fswapRefused (granted s p) = fswapRefused s := by
  unfold fswapRefused spareLane
  simp only [granted_get, granted_on]

theorem forcedSwap_taken {s : State} (h : fswapRefused s = false) : forcedSwap s = s.set F.LANE_SHD_FSWAP 1 :=
  if_neg (by simp [h])

theorem forcedSwap_refused {s : State} (h : fswapRefused s = true) :
    forcedSwap s = (s.set F.LANE_SHD_FSWAP 0).raise G.LANE_FSWAP_REFUSED := if_pos h

theorem forcedSwap_refused_changes {s : State} (h : fswapRefused s = true) :
    (forcedSwap s).get F.LANE_SHD_FSWAP = 0 ∧ counted G.LANE_FSWAP_REFUSED s (forcedSwap s) ∧
      Changes [.regs] [R.LANE_SHD, G.LANE_FSWAP_REFUSED.ptr, G.LANE_FSWAP_REFUSED.cptr] s (forcedSwap s) := by
  rw [forcedSwap_refused h]
  refine ⟨?_, counted_congr (counted_raise (s.set F.LANE_SHD_FSWAP 0) _ (by decide) (by decide) (by decide))
    (State.get_set_disjoint _ _ (by decide)) rfl rfl, State.raise_step _ _ (State.set_only _ _ _) (by decide),
    ((OnlyRegs.refl _ s).set (by decide)).raise (by decide) (by decide)⟩
  rw [State.get_raise_disjoint _ (by decide) (by decide), State.get_set_same _ _ _ ⟨by decide, by decide⟩, Nat.zero_mod]

end Sys2Proof.Machine

open Sys2Proof Sys2Proof.Machine in
/-- Settles O24, a command and its case at a time: the slot of the self-test and that of a channel, a self-test passed and failed, the
end of the confirmation, an uncorrectable error with a spare and without, a forced swap taken and refused. -/
theorem spareLane : Obligations.SpareLane := by
  unfold Obligations.SpareLane
  refine fun s => ⟨fun sp hres hen hconfirm hclosed hspare hslot => ?_,
    fun sp sl hres hen hconfirm hclosed hspare hslot hlt hswitching hodd hsp hne => ?_,
    fun n hres htest hupds hswap => ?_, fun n hres htest hupds => ?_, fun hres hon htest hdue hblocks => ?_,
    fun n c sp hres hserved hspare hconfirm => ?_, fun n c hres hserved hspare hn => ?_, fun hw hok => ?_, fun hw hrefused => ?_⟩
  · obtain ⟨hshown, hpool, hchanges⟩ := shadowSlotOpen_tests_changes hen hconfirm hclosed hspare hslot
    exact ⟨_, awake_next _ hres, hshown, hpool, hchanges.queued⟩
  · obtain ⟨hshown, hlane, hprog, hpool, hchanges⟩ :=
      shadowSlotOpen_copies_changes hen hconfirm hclosed hspare hslot.symm hlt hswitching hodd hsp hne
    exact ⟨_, awake_next _ hres, hshown, hlane, hprog, hpool, hchanges.queued⟩
  · obtain ⟨hspare, hpool, honly⟩ := selfTestDone_passed_frees htest hupds n.isLt hswap
    exact ⟨_, awake_next _ hres, hspare, hpool, honly.queued⟩
  · obtain ⟨hretired, hcounted, hpool⟩ := selfTestDone_failed_retires htest hupds n.isLt
    exact ⟨_, awake_next _ hres, hretired, hcounted, hpool, (selfTestDone_only s n false).queued⟩
  · obtain ⟨hoff, hpool, hchanges⟩ := confirmEnd_due_changes hon htest hdue hblocks
    exact ⟨_, awake_next _ hres, hoff, hpool, hchanges.queued⟩
  · obtain ⟨hlane, hue, hch, hln, hmismatch, hswap, hpool, honly⟩ := laneUe_spare_changes hserved hspare hconfirm
    exact ⟨_, awake_next _ hres, hlane, hue, hch, hln, hmismatch, hswap, hpool, honly.queued⟩
  · obtain ⟨hdead, hue, hmismatch, honly⟩ := laneUe_no_spare_changes hserved hspare hn
    exact ⟨_, awake_next _ hres, hdead, hue, hmismatch, honly.queued⟩
  · rw [← fswapRefused_granted s R.LANE_SHD] at hok
    refine ⟨_, awake_fieldAt forcedSwap hw, ?_, ?_⟩ <;> rw [forcedSwap_taken hok]
    · exact State.get_set_same _ _ _ ⟨by decide, by decide⟩
    · exact ((set_changes _ _ _).mono_parts (by decide)).after_granted (by decide)
  · rw [← fswapRefused_granted s R.LANE_SHD] at hrefused
    obtain ⟨hoff, hcounted, hchanges⟩ := forcedSwap_refused_changes hrefused
    exact ⟨_, awake_fieldAt forcedSwap hw, hoff, counted_congr hcounted (granted_get s _ _) rfl rfl,
      (hchanges.mono_parts (by decide)).after_granted (by decide)⟩

end

section
/-! Load diagnosis: the end of a window, the latched results and the sweep window (R349, R353, R358 to R362, R369, R370, R374). -/

namespace Sys2Proof.Machine

/-! ### A read of a register, and what latches with it (R349, R370) -/

theorem awake_readAt {s : State} {path : Path} {p : Nat} (f : State → State) (h : readable s path p = true) :
    awake s (readAt s path p f) = .next ((f s).queued s.pending) := by
  rw [readAt_readable f h, awake_next _ (readable_awake h)]

/-- What leaves the registers leaves every one of them. -/
theorem Only.changes_no_register {l : List Part} {s t : State} (h : Only l s t) (hr : .regs ∉ l) : Changes l [] s t :=
  ⟨h, (OnlyRegs.refl [] s).of_only h hr⟩

@[simp] theorem State.queued_latchedWord (s : State) (l : List Instr) (side p : Nat) :
    latchedWord (s.queued l) side p = latchedWord s side p := rfl

/-- The word of a register latched for one side. -/
def wordLatched (s : State) (side k : Nat) : State :=
  { s with vent := { s.vent with latch := kvPut latchDefault s.vent.latch (side * 0x100000 + k) (s.rd k) } }

theorem wordLatched_rd (s : State) (side k q : Nat) : (wordLatched s side k).rd q = s.rd q :=
  State.rd_congr (only_with_vent s _ .regs (by decide)) q

theorem wordLatched_word (s : State) (side k q : Nat) :
    latchedWord (wordLatched s side k) side q = if q = k then s.rd q else latchedWord s side q := by
  unfold latchedWord wordLatched
  rw [kvGet_kvPut]
  simp only [Nat.add_left_cancel_iff]
  split
  · next h => rw [h]
  · rfl

/-- The n registers after p latched for one side. -/
def companionsLatched (s : State) (side p n : Nat) : State :=
  (List.range n).foldl (fun t j => wordLatched t side (p + 4 + 4 * j)) s

theorem latchRead_eq (s : State) (side p n : Nat) : latchRead s side p n = (companionsLatched s side p n).answer (s.rd p) := rfl

section
variable (s : State) (side p : Nat)

theorem companionsLatched_rd (n q : Nat) : (companionsLatched s side p n).rd q = s.rd q :=
  foldl_keeps (part := fun t : State => t.rd q) (fun t j => wordLatched_rd t side (p + 4 + 4 * j) q) _ s

theorem companionsLatched_succ (n : Nat) :
    companionsLatched s side p (n + 1) = wordLatched (companionsLatched s side p n) side (p + 4 + 4 * n) := by
  unfold companionsLatched
  rw [List.range_succ, List.foldl_append]
  rfl

theorem companionsLatched_word {n j : Nat} (h : j < n) :
    latchedWord (companionsLatched s side p n) side (p + 4 + 4 * j) = s.rd (p + 4 + 4 * j) := by
  induction n with
  | zero => omega
  | succ n ih =>
    rw [companionsLatched_succ, wordLatched_word]
    split
    · exact companionsLatched_rd s side p n _
    · exact ih (by omega)

/-- A read of a first register latches the word of each companion. -/
theorem latchRead_latches {n q : Nat} (j : Nat) (h : j < n) (hq : q = p + 4 + 4 * j) :
    latchedWord (latchRead s side p n) side q = s.rd q := by
  rw [hq, latchRead_eq]
  exact companionsLatched_word s side p h

theorem latchRead_changes (n : Nat) : Changes [.rdata, .vent] [] s (latchRead s side p n) :=
  (latchRead_only s side p n).changes_no_register (by decide)

end

/-! ### The sweep window (R374) -/

theorem sweepDataRead_pointer (s : State) (c : Nat) :
    (sweepDataRead s c).get (F.DIA_SWPTR_WPTR c) =
      if 191 ≤ s.get (F.DIA_SWPTR_WPTR c) then 0 else s.get (F.DIA_SWPTR_WPTR c) + 1 := by
  unfold sweepDataRead
  rw [State.get_set_same _ _ _ ⟨by simp, by simp⟩]
  exact Nat.mod_eq_of_lt (show _ < 256 by split <;> omega)

theorem sweepDataRead_changes (s : State) (c : Nat) : Changes [.regs, .rdata] [R.DIA_SWPTR c] s (sweepDataRead s c) :=
  ⟨sweepDataRead_only s c, ((OnlyRegs.refl _ s).of_only (State.answer_only s _) (by decide)).set (by simp)⟩

/-! ### The end of a window: what is left of it (R353, R358, R372) -/

/-- A channel has nothing of the window that ended, in its model and in the checkpoint of the unit that runs; a channel the list does not
hold reads as one that never had anything. -/
theorem windowClear_clears (s : State) (c : Nat) :
    ((windowClear s c).ventCh c).winBlocks = 0 ∧ ((windowClear s c).ventCh c).m.pairs = [] ∧
      ((windowClear s c).ventCh c).ck.pairs = [] ∧ ((windowClear s c).ventCh c).ck.xpk = 0 := by
  unfold windowClear State.modelBoth State.ventCh
  rw [State.ventUp_vent_chans, State.ventUp_vent_chans]
  cases hchan : s.vent.chans[c]? with
  | none => simp [hchan]
  | some x => simp [hchan]

/-- Telemetry of a window goes to GV2, whose source waits, so that no stall is counted. -/
theorem windowTelemetry_regs (s : State) (c : Nat) (x : Window) : (windowTelemetry s c x).regs = s.regs := by
  unfold windowTelemetry
  dsimp only
  split <;> rfl

theorem windowClear_regs (s : State) (c : Nat) : (windowClear s c).regs = s.regs := windowClear_only s c .regs (by decide)

/-! ### Published values fit their fields (R5, R6) -/

theorem clampI_mem {lo hi : Int} (x : Int) (h : lo ≤ hi) : lo ≤ clampI lo hi x ∧ clampI lo hi x ≤ hi := by
  unfold clampI
  split
  · omega
  · split <;> omega

theorem satU_lt (w : Nat) (x : Int) : satU w x < 2 ^ w := by
  have hw : (0 : Int) < 2 ^ w := Int.pow_pos (by decide)
  obtain ⟨hnonneg, hle⟩ := clampI_mem (lo := 0) (hi := 2 ^ w - 1) x (by omega)
  unfold satU
  rw [Int.toNat_lt hnonneg, Int.natCast_pow]
  exact Int.lt_of_le_sub_one hle

theorem pattern_lt (w : Nat) (x : Int) : pattern w x < 2 ^ w := by
  have hw : (0 : Int) < 2 ^ w := Int.pow_pos (by decide)
  have hlt := Int.emod_lt_of_pos x hw
  unfold pattern
  rw [Int.toNat_lt (Int.emod_nonneg _ (by omega)), Int.natCast_pow]
  exact hlt

theorem f32ToU_lt (x : Word) (w k : Nat) : f32ToU x w k < 2 ^ w := satU_lt w _
theorem f32ToS_lt (x : Word) (w k : Nat) : f32ToS x w k < 2 ^ w := pattern_lt w _

theorem nextSeq1_lt {q : Nat} (h : q < 2 ^ 16) : nextSeq1 q < 2 ^ 16 := by
  unfold nextSeq1
  split <;> omega

theorem State.get_set_fits (s : State) {f : Fld} {n : Nat} (hf : f.ok) (h : n < 2 ^ (f.hi + 1 - f.lo)) : (s.set f n).get f = n := by
  rw [State.get_set_same _ _ _ hf, Nat.mod_eq_of_lt h]

/-! ### The result registers of a window (R349, R353, R369) -/

theorem State.get_setB_disjoint (s : State) {f h : Fld} (b : Bool) (hd : f.disjoint h) : (s.setB f b).get h = s.get h :=
  State.get_set_disjoint s _ hd

section
variable (s : State) (c : Nat)

/-- Each result is the field's last write: what is published after it lies in other registers or in other bits. -/
theorem publishWindow_results :
    (publishWindow s c).get (F.SPK_TRES0_SEQ c) = (s.get (F.SPK_TRES0_SEQ c) + 1) % 65536 ∧
      (publishWindow s c).get (F.SPK_TRES0_TC c) = f32ToS (s.ventCh c).m.tc 16 4 ∧
      (publishWindow s c).get (F.SPK_TRES1_TM c) = f32ToS (s.ventCh c).m.tm 16 4 ∧
      (publishWindow s c).get (F.SPK_XRES_XPK c) = f32ToU (f32Mul (s.ventCh c).m.xpk c1000) 16 0 ∧
      (publishWindow s c).get (F.DIA_PRES0_SEQ c) = nextSeq1 (s.get (F.DIA_PRES0_SEQ c)) ∧
      (publishWindow s c).get (F.DIA_PRES0_GMIN c) = f32ToU (s.ventCh c).m.gmin 16 15 := by
  unfold publishWindow showTlim
  simp (disch := simp [Fld.disjoint]) only [State.get_setB_disjoint, State.get_cond_disjoint, State.get_set_disjoint]
  have fits {t : State} {f : Fld} {n : Nat} (hf : f.hi < 32 ∧ f.hi = f.lo + 15) (hn : n < 2 ^ 16) : (t.set f n).get f = n :=
    State.get_set_fits t ⟨by omega, hf.1⟩ (by rwa [hf.2, show f.lo + 15 + 1 - f.lo = 16 by omega])
  exact ⟨fits (by simp) (Nat.mod_lt _ (by decide)), fits (by simp) (f32ToS_lt _ 16 4), fits (by simp) (f32ToS_lt _ 16 4),
    fits (by simp) (f32ToU_lt _ 16 0), fits (by simp) (nextSeq1_lt (s.get_lt _)), fits (by simp) (f32ToU_lt _ 16 15)⟩

/-- What a window publishes is no load. -/
theorem publishWindow_load : (publishWindow s c).get (F.DIA_STAT_LOAD c) = s.get (F.DIA_STAT_LOAD c) := by
  unfold publishWindow showTlim
  simp (disch := simp [Fld.disjoint]) only [State.get_setB_disjoint, State.get_cond_disjoint, State.get_set_disjoint]

/-! ### The diagnosis of a window (R358 to R362) -/

/-- The registers of a channel that a diagnosis writes. -/
abbrev diagnosisRegs (c : Nat) : List Nat :=
  [R.DIA_STAT c, R.DIA_FLAG c, R.DIA_FCNT0 c, R.DIA_FCNT1 c, R.DIA_LRES0 c, R.DIA_LRES1 c]

theorem setLoad_onlyRegs (k : Nat × Nat) : OnlyRegs (diagnosisRegs c) s (setLoad s c k) := by
  have hload : OnlyRegs (diagnosisRegs c) s ((s.set (F.DIA_STAT_LOAD c) k.1).set (F.DIA_STAT_MISS c) k.2) :=
    ((OnlyRegs.refl _ s).set (by simp)).set (by simp)
  exact (hload.raise (by simp) (by simp)).ite ((hload.raise (by simp) (by simp)).ite ((hload.raise (by simp) (by simp)).ite hload))

theorem countClass_onlyRegs (k : Nat × Nat) : OnlyRegs (diagnosisRegs c) s (countClass s c k) := by
  have hrun (f : VentChan → VentChan) : OnlyRegs (diagnosisRegs c) s (s.ventUp c f) :=
    (OnlyRegs.refl _ s).of_only (State.ventUp_only s c f) (by decide)
  exact ((hrun _).trans (setLoad_onlyRegs _ c k)).ite (hrun _)

theorem rubJudge_onlyRegs (rub : Word) : OnlyRegs (diagnosisRegs c) s (rubJudge s c rub) :=
  (((OnlyRegs.refl _ s).of_only (State.ventUp_only s c _) (by decide)).setB (by simp)).raiseIf (by simp) (by simp)

theorem driftJudge_onlyRegs : OnlyRegs (diagnosisRegs c) s (driftJudge s c) :=
  ((OnlyRegs.refl _ s).setB (by simp)).raiseIf (by simp) (by simp)

end

theorem diagnose_onlyRegs (s : State) (c : Nat) (x : Window) : OnlyRegs (diagnosisRegs c) s (diagnose s c x) := by
  unfold diagnose
  dsimp only
  have hvalid : OnlyRegs (diagnosisRegs c) s
      ((s.setB (F.DIA_STAT_VALID c) (classify s c x).isSome).modelBoth c fun m => { m with hpTok := x.hp }) :=
    ((OnlyRegs.refl _ s).setB (by simp)).of_only (State.modelBoth_only _ _ _) (by decide)
  refine ((((OnlyRegs.trans ?_ (driftJudge_onlyRegs _ c)).set (by simp)).set (by simp)).set (by simp)).set (by simp)
  split
  case h_1 => exact hvalid
  case h_2 k _ =>
    exact ((hvalid.of_only (State.ventUp_only _ _ _) (by decide)).trans (countClass_onlyRegs _ c k)).trans (rubJudge_onlyRegs _ c _)

theorem diagnose_results (s : State) (c : Nat) (x : Window) :
    (diagnose s c x).get (F.DIA_LRES0_RHO c) = f32ToU x.rho 16 14 ∧ (diagnose s c x).get (F.DIA_LRES1_RUB c) = f32ToS x.rub 16 4 := by
  unfold diagnose
  dsimp only
  simp (disch := simp [Fld.disjoint]) only [State.get_set_disjoint]
  exact ⟨State.get_set_fits _ ⟨by simp, by simp⟩ (f32ToU_lt _ 16 14), State.get_set_fits _ ⟨by simp, by simp⟩ (f32ToS_lt _ 16 4)⟩

/-! ### The end of a window (R358, R372) -/

/-- A window's results published and, with LD_EN, its diagnosis; without LD_EN the window gives no class. -/
def windowJudged (s : State) (c : Nat) : State :=
  if s.inForceB (F.DIA_LCFG_LD_EN c) then diagnose (publishWindow s c) c (windowOf (s.ventCh c).m)
  else (publishWindow s c).set (F.DIA_STAT_VALID c) 0

section
variable {s : State} {c : Nat}

theorem windowJudged_disabled (h : s.inForce (F.DIA_LCFG_LD_EN c) = 0) :
    windowJudged s c = (publishWindow s c).set (F.DIA_STAT_VALID c) 0 := if_neg (by simp [State.inForceB, h])

theorem windowJudged_enabled (h : s.inForce (F.DIA_LCFG_LD_EN c) = 1) :
    windowJudged s c = diagnose (publishWindow s c) c (windowOf (s.ventCh c).m) := if_pos (by simp [State.inForceB, h])

theorem windowJudged_get {f : Fld} (hf : f.ptr ∉ diagnosisRegs c) : (windowJudged s c).get f = (publishWindow s c).get f := by
  have hregs : OnlyRegs (diagnosisRegs c) (publishWindow s c) (windowJudged s c) :=
    (diagnose_onlyRegs _ c _).ite ((OnlyRegs.refl _ _).set (by simp))
  unfold State.get
  rw [hregs _ hf]

theorem windowJudged_disabled_class (h : s.inForce (F.DIA_LCFG_LD_EN c) = 0) :
    (windowJudged s c).get (F.DIA_STAT_VALID c) = 0 ∧ (windowJudged s c).get (F.DIA_STAT_LOAD c) = s.get (F.DIA_STAT_LOAD c) := by
  rw [windowJudged_disabled h]
  exact ⟨State.get_set_fits _ ⟨by simp, by simp⟩ (by simp),
    (State.get_set_disjoint _ _ (by simp [Fld.disjoint])).trans (publishWindow_load s c)⟩

theorem loadWindowEnd_due (hblock : s.time.block % 12 = 0) (hwin : (s.ventCh c).winBlocks ≠ 0) :
    loadWindowEnd s c = windowClear (windowTelemetry (windowJudged s c) c (windowOf (s.ventCh c).m)) c :=
  if_neg (by simp [hblock, hwin])

theorem loadWindowEnd_get (hblock : s.time.block % 12 = 0) (hwin : (s.ventCh c).winBlocks ≠ 0) (f : Fld) :
    (loadWindowEnd s c).get f = (windowJudged s c).get f := by
  rw [loadWindowEnd_due hblock hwin]
  exact State.get_congr ((windowClear_regs _ c).trans (windowTelemetry_regs _ c _)) f

theorem loadWindowEnd_clears (hblock : s.time.block % 12 = 0) (hwin : (s.ventCh c).winBlocks ≠ 0) :
    ((loadWindowEnd s c).ventCh c).winBlocks = 0 ∧ ((loadWindowEnd s c).ventCh c).m.pairs = [] ∧
      ((loadWindowEnd s c).ventCh c).ck.pairs = [] ∧ ((loadWindowEnd s c).ventCh c).ck.xpk = 0 := by
  rw [loadWindowEnd_due hblock hwin]
  exact windowClear_clears _ c

end

end Sys2Proof.Machine

open Sys2Proof Sys2Proof.Machine in
/-- Settles O28, a command at a time: the end of a window with LD_EN and without, the reads of the three first result registers, the read of
the sweep window. -/
theorem loadDiagnosis : Obligations.LoadDiagnosis := by
  unfold Obligations.LoadDiagnosis
  refine fun s c => ⟨fun m hres hblock hwin hm => ?_, fun p hr => ?_, fun p hr => ?_, fun p hr => ?_, fun w hr hw => ?_⟩
  · subst hm
    have hget := loadWindowEnd_get hblock hwin
    have hshown (f : Fld) (hf : f.ptr ∉ diagnosisRegs c) : (loadWindowEnd s c).get f = (publishWindow s c).get f :=
      (hget f).trans (windowJudged_get hf)
    obtain ⟨hdone, hpairs, hckPairs, hckPeak⟩ := loadWindowEnd_clears hblock hwin
    obtain ⟨hseq, htc, htm, hxpk, hpseq, hgmin⟩ := publishWindow_results s c
    refine ⟨_, awake_next _ hres, hdone, hpairs, hckPairs, hckPeak, (hshown _ (by simp)).trans hseq, (hshown _ (by simp)).trans htc,
      (hshown _ (by simp)).trans htm, (hshown _ (by simp)).trans hxpk, (hshown _ (by simp)).trans hpseq,
      (hshown _ (by simp)).trans hgmin, fun hoff => ?_, fun hon => ?_, (loadWindowEnd_only s c).queued⟩
    · obtain ⟨hvalid, hload⟩ := windowJudged_disabled_class hoff
      exact ⟨(hget _).trans hvalid, (hget _).trans hload⟩
    · obtain ⟨hrho, hrub⟩ := diagnose_results (publishWindow s c) c (windowOf (s.ventCh c).m)
      rw [← windowJudged_enabled hon] at hrho hrub
      exact ⟨(hget _).trans hrho, (hget _).trans hrub⟩
  · refine ⟨_, awake_readAt (fun t => latchRead t (sideOf p) (R.DIA_PRES0 c) 2) hr, rfl, ?_, ?_, (latchRead_changes s _ _ 2).queued⟩ <;>
      rw [State.queued_latchedWord]
    · exact latchRead_latches s _ _ 0 (by decide) (by omega)
    · exact latchRead_latches s _ _ 1 (by decide) (by omega)
  · refine ⟨_, awake_readAt (fun t => latchRead t (sideOf p) (R.DIA_LRES0 c) 1) hr, rfl, ?_, (latchRead_changes s _ _ 1).queued⟩
    rw [State.queued_latchedWord]
    exact latchRead_latches s _ _ 0 (by decide) (by omega)
  · refine ⟨_, awake_readAt (fun t => latchRead t (sideOf p) (R.DIA_SWSUM0 c) 3) hr, rfl, fun j hj => ?_,
      (latchRead_changes s _ _ 3).queued⟩
    rw [State.queued_latchedWord]
    exact latchRead_latches s _ _ j hj rfl
  · subst hw
    exact ⟨_, awake_readAt (fun t => sweepDataRead t c) hr, rfl, sweepDataRead_pointer s c, (sweepDataRead_changes s c).queued⟩

end

section
/-! Impedance sweeps: START, ABORT and the ends of the phases (R363 to R368). -/

namespace Sys2Proof.Machine

/-! ### A channel's sweep -/

section
variable {s : State} {c : Nat}

/-- An update of the sweep of a channel that the list holds is what the channel then reads as. -/
theorem sweepOf_sweepUp (f : Sweep → Sweep) (hc : c < s.vent.chans.length) : (s.sweepUp c f).sweepOf c = f (s.sweepOf c) := by
  unfold State.sweepUp State.sweepOf State.ventCh
  rw [State.ventUp_vent_chans]
  simp [hc]

/-- A channel that the list does not hold reads as one without a sweep. -/
theorem chan_lt_of_phase (h : (s.sweepOf c).phase ≠ 0) : c < s.vent.chans.length := by
  refine Nat.lt_of_not_le fun hge => h ?_
  unfold State.sweepOf State.ventCh
  rw [List.getD_eq_getElem?_getD, List.getElem?_eq_none hge]
  rfl

@[simp] theorem State.set_sweepOf (s : State) (f : Fld) (n c : Nat) : (s.set f n).sweepOf c = s.sweepOf c := rfl

@[simp] theorem State.raise_sweepOf (s : State) (g : Flag) (c : Nat) : (s.raise g).sweepOf c = s.sweepOf c := rfl

theorem sweepOf_granted (s : State) (p c : Nat) : (granted s p).sweepOf c = s.sweepOf c := by
  unfold State.sweepOf State.ventCh
  rw [granted_vent]

/-- The access that a START is part of leaves what the START tests. -/
theorem sweepReason_granted (s : State) (p c : Nat) : sweepReason (granted s p) c = sweepReason s c := by
  unfold granted
  split <;> rfl

/-! ### START (R363, R364) -/

theorem sweepStart_accepted (h : sweepReason s c = 0) :
    sweepStart s c = ((s.set (F.DIA_SWCTRL_START c) 1).set (F.DIA_STAT_SW_RUN c) 1).sweepUp c fun x =>
      if x.phase = 7 then x else { sweepOver x with phase := 1 } := if_neg (by simp [h])

theorem sweepStart_refused (h : sweepReason s c ≠ 0) :
    sweepStart s c = ((s.set (F.DIA_SWSTAT_REASON c) (sweepReason s c)).raise (G.DIA_SW_REFUSED c)).setB (F.DIA_SWCTRL_START c)
      (sweepRuns s c) := if_pos (by simp [h])

theorem sweepStart_accepted_shown (h : sweepReason s c = 0) :
    (sweepStart s c).get (F.DIA_SWCTRL_START c) = 1 ∧ (sweepStart s c).get (F.DIA_STAT_SW_RUN c) = 1 := by
  rw [sweepStart_accepted h]
  simp (disch := simp [Fld.disjoint]) only [State.sweepUp_get, State.get_set_disjoint]
  exact ⟨State.get_set_fits _ ⟨by simp, by simp⟩ (by simp), State.get_set_fits _ ⟨by simp, by simp⟩ (by simp)⟩

theorem sweepStart_accepted_due (h : sweepReason s c = 0) (hidle : (s.sweepOf c).phase = 0) (hc : c < s.vent.chans.length) :
    (sweepStart s c).sweepOf c = { sweepOver (s.sweepOf c) with phase := 1 } := by
  rw [sweepStart_accepted h, sweepOf_sweepUp _ (by simpa using hc), State.set_sweepOf, State.set_sweepOf]
  exact if_neg (show (s.sweepOf c).phase ≠ 7 by omega)

theorem sweepStart_accepted_changes (h : sweepReason s c = 0) :
    Changes [.regs, .vent] [R.DIA_SWCTRL c, R.DIA_STAT c] s (sweepStart s c) := by
  refine ⟨sweepStart_only s c, ?_⟩
  rw [sweepStart_accepted h]
  exact (((OnlyRegs.refl _ s).set (by simp)).set (by simp)).of_only (State.sweepUp_only _ _ _) (by decide)

theorem sweepReason_lt (s : State) (c : Nat) : sweepReason s c < 8 := by
  unfold sweepReason
  repeat' split
  all_goals decide

theorem sweepStart_refused_shown (h : sweepReason s c ≠ 0) :
    (sweepStart s c).get (F.DIA_SWSTAT_REASON c) = sweepReason s c ∧ counted (G.DIA_SW_REFUSED c) s (sweepStart s c) := by
  rw [sweepStart_refused h]
  constructor
  · simp (disch := simp [Fld.disjoint]) only [State.get_setB_disjoint, State.get_raise_disjoint]
    exact State.get_set_fits _ ⟨by simp, by simp⟩ (sweepReason_lt s c)
  · refine counted_congr (counted_raise (s.set (F.DIA_SWSTAT_REASON c) (sweepReason s c)) _ (by simp) (by simp) (by simp)) ?_ ?_ ?_
    · exact State.get_set_disjoint _ _ (by simp [Fld.disjoint])
    · exact State.get_setB_disjoint _ _ (by simp [Fld.disjoint])
    · exact State.get_setB_disjoint _ _ (by simp [Fld.disjoint])

theorem sweepStart_refused_changes (h : sweepReason s c ≠ 0) :
    Changes [.regs] [R.DIA_SWCTRL c, R.DIA_SWSTAT c, (G.DIA_SW_REFUSED c).ptr, (G.DIA_SW_REFUSED c).cptr] s (sweepStart s c) := by
  rw [sweepStart_refused h]
  exact ⟨State.setB_step _ _ _ (State.raise_step _ _ (State.set_only _ _ _) (by decide)) (by decide),
    (((OnlyRegs.refl _ s).set (by simp)).raise (by simp) (by simp)).setB (by simp)⟩

/-! ### ABORT (R367) -/

theorem sweepRuns_of_phase (hpos : 1 ≤ (s.sweepOf c).phase) (hle : (s.sweepOf c).phase ≤ 6) : sweepRuns s c = true := by
  simp [sweepRuns, hpos, hle]

theorem sweepSounds_of_phase {x : Sweep} (hlo : 3 ≤ x.phase) (hhi : x.phase ≤ 6) : sweepSounds x = true := by
  simp only [sweepSounds, Bool.or_eq_true, decide_eq_true_eq]
  omega

/-- A sweep that sounds ramps out from the amplitude it has reached. -/
theorem sweepTail_of_sounds {x : Sweep} (h : sweepSounds x = true) (start : Int) :
    sweepTail x false start =
      { tailFrom := sweepAmp x (x.cnt - start), tailCnt := start, tailAcc := x.acc, tailInc := x.inc } := by
  simp [sweepTail, h]

theorem sweepAbort_running (h : sweepRuns s c = true) :
    sweepAbort s c = (((((s.set (F.DIA_SWSTAT_REASON c) 4).raise (G.DIA_SW_ABORT c)).set (F.DIA_SWCTRL_START c) 0).set
      (F.DIA_STAT_SW_RUN c) 0).sweepUp c fun x => if x.phase = 7 then x else sweepTail x false (-8)).set (F.DIA_SWSTAT_STATE c) 0 :=
  if_neg (by simp [h])

theorem sweepAbort_shown (h : sweepRuns s c = true) :
    (sweepAbort s c).get (F.DIA_SWSTAT_REASON c) = 4 ∧ counted (G.DIA_SW_ABORT c) s (sweepAbort s c) ∧
      (sweepAbort s c).get (F.DIA_SWCTRL_START c) = 0 ∧ (sweepAbort s c).get (F.DIA_STAT_SW_RUN c) = 0 ∧
      (sweepAbort s c).get (F.DIA_SWSTAT_STATE c) = 0 := by
  have hcount := counted_raise (s.set (F.DIA_SWSTAT_REASON c) 4) (G.DIA_SW_ABORT c) (by simp) (by simp) (by simp)
  have hfrom : (s.set (F.DIA_SWSTAT_REASON c) 4).get (G.DIA_SW_ABORT c).countField = s.get (G.DIA_SW_ABORT c).countField :=
    State.get_set_disjoint _ _ (by simp [Fld.disjoint])
  have zero (t : State) {f : Fld} (hf : f.ok) : (t.set f 0).get f = 0 := State.get_set_fits t hf (Nat.two_pow_pos _)
  rw [sweepAbort_running h]
  refine ⟨?_, counted_congr hcount hfrom ?_ ?_, ?_, ?_, zero _ ⟨by simp, by simp⟩⟩ <;>
    simp (disch := simp [Fld.disjoint]) only [State.get_set_disjoint, State.sweepUp_get, State.get_raise_disjoint]
  · exact State.get_set_fits _ ⟨by simp, by simp⟩ (by simp)
  · exact zero _ ⟨by simp, by simp⟩
  · exact zero _ ⟨by simp, by simp⟩

theorem sweepAbort_rampsOut (hlo : 3 ≤ (s.sweepOf c).phase) (hhi : (s.sweepOf c).phase ≤ 6) :
    (sweepAbort s c).sweepOf c =
      { tailFrom := sweepAmp (s.sweepOf c) ((s.sweepOf c).cnt + 8), tailCnt := -8, tailAcc := (s.sweepOf c).acc,
        tailInc := (s.sweepOf c).inc } := by
  have hc : c < s.vent.chans.length := chan_lt_of_phase (by omega)
  rw [sweepAbort_running (sweepRuns_of_phase (by omega) hhi), State.set_sweepOf, sweepOf_sweepUp _ (by simpa using hc)]
  have hrun : (s.sweepOf c).phase ≠ 7 := by omega
  simp only [State.set_sweepOf, State.raise_sweepOf, hrun, if_false]
  exact sweepTail_of_sounds (sweepSounds_of_phase hlo hhi) (-8)

/-! ### A phase begins (R364, R366) -/

variable (s c)

theorem enterPhase_sweepOf (phase point : Nat) (n : Int) (hc : c < s.vent.chans.length) :
    (enterPhase s c phase point n).sweepOf c =
      { s.sweepOf c with phase := phase, point := point, cnt := n, meas := 0, vDft := (0, 0), iDft := (0, 0) } :=
  sweepOf_sweepUp _ hc

theorem enterPhase_begins (phase point : Nat) (n : Int) (hc : c < s.vent.chans.length) :
    ((enterPhase s c phase point n).sweepOf c).phase = phase ∧ ((enterPhase s c phase point n).sweepOf c).point = point ∧
      ((enterPhase s c phase point n).sweepOf c).cnt = n ∧ ((enterPhase s c phase point n).sweepOf c).meas = 0 ∧
      ((enterPhase s c phase point n).sweepOf c).points = (s.sweepOf c).points := by
  rw [enterPhase_sweepOf s c phase point n hc]
  exact ⟨rfl, rfl, rfl, rfl, rfl⟩

theorem enterPhase_state (phase point : Nat) (n : Int) :
    (enterPhase s c phase point n).get (F.DIA_SWSTAT_STATE c) = if phase = 2 then 1 else if phase = 0 ∨ phase = 7 then 0 else 2 := by
  unfold enterPhase
  rw [State.sweepUp_get, State.get_set_disjoint _ _ (by simp [Fld.disjoint])]
  refine State.get_set_fits _ ⟨by simp, by simp⟩ (show _ < 4 from ?_)
  repeat' split
  all_goals decide

theorem enterPhase_onlyRegs (phase point : Nat) (n : Int) : OnlyRegs [R.DIA_SWSTAT c] s (enterPhase s c phase point n) :=
  (((OnlyRegs.refl _ s).set (by simp)).set (by simp)).of_only (State.sweepUp_only _ _ _) (by decide)

theorem enterPhase_changes (phase point : Nat) (n : Int) :
    Changes [.regs, .vent] [R.DIA_SWSTAT c] s (enterPhase s c phase point n) :=
  ⟨enterPhase_only s c phase point n, enterPhase_onlyRegs s c phase point n⟩

variable {s c}

/-! ### A phase ends (R364, R366) -/

/-- The measured point joins those of the sweep. -/
def pointTaken (s : State) (c : Nat) : State := s.sweepUp c fun y => { y with points := y.points ++ [pointOf s c] }

theorem pointTaken_sweepOf (hc : c < s.vent.chans.length) :
    (pointTaken s c).sweepOf c = { s.sweepOf c with points := (s.sweepOf c).points ++ [pointOf s c] } := sweepOf_sweepUp _ hc

theorem pointTaken_chans : (pointTaken s c).vent.chans.length = s.vent.chans.length := List.length_modify _ _ _

theorem sweepPhaseEnd_rampedIn (hphase : (s.sweepOf c).phase = 3) (hend : 960 ≤ (s.sweepOf c).cnt + 8) :
    sweepPhaseEnd s c = enterPhase s c 4 0 ((s.sweepOf c).cnt - 960) := by
  have hover : ¬ (s.sweepOf c).cnt - 960 + 8 < 0 := by omega
  simp [sweepPhaseEnd, phaseSamples, rampSamples, hphase, hover]

theorem sweepPhaseEnd_settled (hphase : (s.sweepOf c).phase = 4)
    (hend : (settleSamples (sweepFreq s c (s.sweepOf c).point) : Int) ≤ (s.sweepOf c).cnt + 8) :
    sweepPhaseEnd s c = enterPhase s c 5 (s.sweepOf c).point 0 := by
  have hover : ¬ (s.sweepOf c).cnt - settleSamples (sweepFreq s c (s.sweepOf c).point) + 8 < 0 := by omega
  simp [sweepPhaseEnd, phaseSamples, hphase, hover]

theorem sweepPhaseEnd_measured (hphase : (s.sweepOf c).phase = 5)
    (hend : measPeriods (sweepFreq s c (s.sweepOf c).point) ≤ (s.sweepOf c).meas) :
    sweepPhaseEnd s c =
      if (s.sweepOf c).point = s.get (F.DIA_SWCFG_NPTS_M1 c) then enterPhase (pointTaken s c) c 6 (s.sweepOf c).point (-8)
      else enterPhase (pointTaken s c) c 4 ((s.sweepOf c).point + 1) (-8) := by
  simp [sweepPhaseEnd, pointTaken, hphase, Nat.not_lt.mpr hend]

theorem sweepPhaseEnd_rampedOut (hphase : (s.sweepOf c).phase = 6) (hend : 960 ≤ (s.sweepOf c).cnt + 8) :
    sweepPhaseEnd s c =
      ((enterPhase s c 7 (s.sweepOf c).point 0).set (F.DIA_SWCTRL_START c) 0).set (F.DIA_STAT_SW_RUN c) 0 := by
  have hover : ¬ (s.sweepOf c).cnt - 960 + 8 < 0 := by omega
  simp [sweepPhaseEnd, phaseSamples, rampSamples, hphase, hover]

/-- What follows a measurement (R366), another point or the ramp out, has the measured point. -/
theorem enterPhase_pointTaken (phase point : Nat) (n : Int) (hc : c < s.vent.chans.length) :
    ((enterPhase (pointTaken s c) c phase point n).sweepOf c).phase = phase ∧
      ((enterPhase (pointTaken s c) c phase point n).sweepOf c).point = point ∧
      ((enterPhase (pointTaken s c) c phase point n).sweepOf c).points = (s.sweepOf c).points ++ [pointOf s c] ∧
      Changes [.regs, .vent] [R.DIA_SWSTAT c] s (enterPhase (pointTaken s c) c phase point n) := by
  have htaken : Only [.vent] s (pointTaken s c) := State.sweepUp_only s c _
  obtain ⟨hphase, hpoint, -, -, hpoints⟩ := enterPhase_begins (pointTaken s c) c phase point n (pointTaken_chans.symm ▸ hc)
  rw [pointTaken_sweepOf hc] at hpoints
  exact ⟨hphase, hpoint, hpoints, enterPhase_step _ _ _ _ _ (htaken.mono (by decide)) (by decide),
    ((OnlyRegs.refl _ s).of_only htaken (by decide)).trans (enterPhase_onlyRegs _ _ _ _ _)⟩

/-- After its ramp-out a sweep waits to be published and shows no run any more. -/
theorem sweepPhaseEnd_rampedOut_shown (hphase : (s.sweepOf c).phase = 6) (hend : 960 ≤ (s.sweepOf c).cnt + 8) :
    ((sweepPhaseEnd s c).sweepOf c).phase = 7 ∧ (sweepPhaseEnd s c).get (F.DIA_SWCTRL_START c) = 0 ∧
      (sweepPhaseEnd s c).get (F.DIA_STAT_SW_RUN c) = 0 ∧ (sweepPhaseEnd s c).get (F.DIA_SWSTAT_STATE c) = 0 ∧
      Changes [.regs, .vent] [R.DIA_SWSTAT c, R.DIA_SWCTRL c, R.DIA_STAT c] s (sweepPhaseEnd s c) := by
  have hc : c < s.vent.chans.length := chan_lt_of_phase (by omega)
  refine ⟨?_, ?_, ?_, ?_, sweepPhaseEnd_only s c, ?_⟩ <;> rw [sweepPhaseEnd_rampedOut hphase hend]
  · rw [State.set_sweepOf, State.set_sweepOf]
    exact (enterPhase_begins s c 7 _ 0 hc).1
  · rw [State.get_set_disjoint _ _ (by simp [Fld.disjoint])]
    exact State.get_set_fits _ ⟨by simp, by simp⟩ (by simp)
  · exact State.get_set_fits _ ⟨by simp, by simp⟩ (by simp)
  · rw [State.get_set_disjoint _ _ (by simp [Fld.disjoint]), State.get_set_disjoint _ _ (by simp [Fld.disjoint])]
    exact enterPhase_state s c 7 _ 0
  · exact (((enterPhase_onlyRegs _ _ _ _ _).mono (by simp)).set (by simp)).set (by simp)

end

end Sys2Proof.Machine

open Sys2Proof Sys2Proof.Machine in
/-- Settles O29, a command and its case at a time: START accepted and refused, ABORT, and the end of the ramp in, of a settling time, of a
measurement before the last point and at it, and of the ramp out. -/
theorem impedanceSweeps : Obligations.ImpedanceSweeps := by
  unfold Obligations.ImpedanceSweeps
  intro s c x hx
  subst hx
  have hchan : (s.sweepOf c).phase ≠ 0 → c.val < s.vent.chans.length := chan_lt_of_phase
  refine ⟨fun hw haccept hidle hc => ?_, fun hw hrefuse => ?_, fun hw hlo hhi => ?_, fun hres hphase hend => ?_,
    fun hres hphase hend => ?_, fun hres hphase hend hmore => ?_, fun hres hphase hend hlast => ?_, fun hres hphase hend => ?_⟩
  · rw [← sweepReason_granted s (R.DIA_SWCTRL c)] at haccept
    rw [← sweepOf_granted s (R.DIA_SWCTRL c)] at hidle ⊢
    rw [← granted_vent s (R.DIA_SWCTRL c)] at hc
    obtain ⟨hstart, hrun⟩ := sweepStart_accepted_shown haccept
    exact ⟨_, awake_fieldAt (sweepStart · c) hw, hstart, hrun, sweepStart_accepted_due haccept hidle hc,
      ((sweepStart_accepted_changes haccept).mono_parts (by decide)).after_granted (by decide)⟩
  · rw [← sweepReason_granted s (R.DIA_SWCTRL c)] at hrefuse ⊢
    obtain ⟨hreason, hcount⟩ := sweepStart_refused_shown hrefuse
    exact ⟨_, awake_fieldAt (sweepStart · c) hw, hreason, counted_congr hcount (granted_get _ _ _) rfl rfl,
      ((sweepStart_refused_changes hrefuse).mono_parts (by decide)).after_granted (by decide)⟩
  · rw [← sweepOf_granted s (R.DIA_SWCTRL c)] at hlo hhi ⊢
    obtain ⟨hreason, hcount, hstart, hrun, hstate⟩ := sweepAbort_shown (sweepRuns_of_phase (by omega) hhi)
    exact ⟨_, awake_fieldAt (sweepAbort · c) hw, hreason, counted_congr hcount (granted_get _ _ _) rfl rfl, hstart, hrun, hstate,
      sweepAbort_rampsOut hlo hhi, (((granted_only s _).mono (by decide)).step (sweepAbort_only _ _) (by decide)).queued⟩
  · obtain ⟨hnext, hpoint, hcnt, -, -⟩ := enterPhase_begins s c 4 0 ((s.sweepOf c).cnt - 960) (hchan (by omega))
    have hstate := enterPhase_state s c 4 0 ((s.sweepOf c).cnt - 960)
    have hchanges := enterPhase_changes s c 4 0 ((s.sweepOf c).cnt - 960)
    rw [← sweepPhaseEnd_rampedIn hphase hend] at hnext hpoint hcnt hstate hchanges
    exact ⟨_, awake_next _ hres, hnext, hpoint, hcnt, hstate, hchanges.queued⟩
  · obtain ⟨hnext, hpoint, -, hmeas, -⟩ := enterPhase_begins s c 5 (s.sweepOf c).point 0 (hchan (by omega))
    have hchanges := enterPhase_changes s c 5 (s.sweepOf c).point 0
    rw [← sweepPhaseEnd_settled hphase hend] at hnext hpoint hmeas hchanges
    exact ⟨_, awake_next _ hres, hnext, hpoint, hmeas, hchanges.queued⟩
  · obtain ⟨hnext, hpoint, hpoints, hchanges⟩ :=
      enterPhase_pointTaken 4 ((s.sweepOf c).point + 1) (-8) (hchan (by omega))
    rw [← (sweepPhaseEnd_measured hphase hend).trans (if_neg hmore)] at hnext hpoint hpoints hchanges
    exact ⟨_, awake_next _ hres, hnext, hpoint, hpoints, hchanges.queued⟩
  · obtain ⟨hnext, -, hpoints, hchanges⟩ :=
      enterPhase_pointTaken 6 (s.sweepOf c).point (-8) (hchan (by omega))
    rw [← (sweepPhaseEnd_measured hphase hend).trans (if_pos hlast)] at hnext hpoints hchanges
    exact ⟨_, awake_next _ hres, hnext, hpoints, hchanges.queued⟩
  · obtain ⟨hnext, hstart, hrun, hstate, hchanges⟩ := sweepPhaseEnd_rampedOut_shown hphase hend
    exact ⟨_, awake_next _ hres, hnext, hstart, hrun, hstate, hchanges.queued⟩

end

section
/-! The queue, and the canonical form of the memories (R510). -/

set_option Elab.async false

namespace Sys2Proof.Machine

/-! ### A step runs one command -/

/-- Every command that answers a next state keeps the memories in their canonical form. -/
theorem exec_wf {c : Instr} {s t : State} (h : exec c s = .next t) (hwf : Memory.wf s = true) : Memory.wf t = true := by
  cases c with
  | registerWrite => exact execRegisterWrite_wf (h := h) (h₀ := hwf)
  | w1cClear => exact execW1cClear_wf (h := h) (h₀ := hwf)
  | gateDeliver => exact execGateDeliver_wf (h := h) (h₀ := hwf)
  | updateBoundary => exact execUpdateBoundary_wf (h := h) (h₀ := hwf)
  | blockBoundary => exact execBlockBoundary_wf (h := h) (h₀ := hwf)
  | ptpAnnounceRx => exact execPtpAnnounceRx_wf (h := h) (h₀ := hwf)
  | ptpSyncRx => exact execPtpSyncRx_wf (h := h) (h₀ := hwf)
  | ptpFollowUpRx => exact execPtpFollowUpRx_wf (h := h) (h₀ := hwf)
  | ptpDelayRespRx => exact execPtpDelayRespRx_wf (h := h) (h₀ := hwf)
  | delayReqTx => exact execDelayReqTx_wf (h := h) (h₀ := hwf)
  | announceTimeout => exact execAnnounceTimeout_wf (h := h) (h₀ := hwf)
  | ppsInEdge => exact execPpsInEdge_wf (h := h) (h₀ := hwf)
  | ppsTimeout => exact execPpsTimeout_wf (h := h) (h₀ := hwf)
  | stepNow => exact execStepNow_wf (h := h) (h₀ := hwf)
  | ppsOutFall => exact execPpsOutFall_wf (h := h) (h₀ := hwf)
  | aes67PacketRx => exact execAes67PacketRx_wf (h := h) (h₀ := hwf)
  | ssrcTimeout => exact execSsrcTimeout_wf (h := h) (h₀ := hwf)
  | streamRxTimeout => exact execStreamRxTimeout_wf (h := h) (h₀ := hwf)
  | receiveRead => exact execReceiveRead_wf (h := h) (h₀ := hwf)
  | streamEnable => exact execStreamEnable_wf (h := h) (h₀ := hwf)
  | streamDisable => exact execStreamDisable_wf (h := h) (h₀ := hwf)
  | tdmFrameRx => exact execTdmFrameRx_wf (h := h) (h₀ := hwf)
  | tdmFsTimeout => exact execTdmFsTimeout_wf (h := h) (h₀ := hwf)
  | tdmLockLoss => exact execTdmLockLoss_wf (h := h) (h₀ := hwf)
  | tdmLockGain => exact execTdmLockGain_wf (h := h) (h₀ := hwf)
  | aes3SubframeRx => exact execAes3SubframeRx_wf (h := h) (h₀ := hwf)
  | aes3CsBlockRx => exact execAes3CsBlockRx_wf (h := h) (h₀ := hwf)
  | aes3Lock => exact execAes3Lock_wf (h := h) (h₀ := hwf)
  | aes3LockLoss => exact execAes3LockLoss_wf (h := h) (h₀ := hwf)
  | asrcLock => exact execAsrcLock_wf (h := h) (h₀ := hwf)
  | asrcUnlock => exact execAsrcUnlock_wf (h := h) (h₀ := hwf)
  | csSelect => exact execCsSelect_wf (h := h) (h₀ := hwf)
  | csDataRead => exact execCsDataRead_wf (h := h) (h₀ := hwf)
  | mixDataWrite => exact execMixDataWrite_wf (h := h) (h₀ := hwf)
  | mixDataRead => exact execMixDataRead_wf (h := h) (h₀ := hwf)
  | mbUnitComplete => exact execMbUnitComplete_wf (h := h) (h₀ := hwf)
  | laWrite => exact execLaWrite_wf (h := h) (h₀ := hwf)
  | bankWordWrite => exact execBankWordWrite_wf (h := h) (h₀ := hwf)
  | bankWordRead => exact execBankWordRead_wf (h := h) (h₀ := hwf)
  | sceneArm => exact execSceneArm_wf (h := h) (h₀ := hwf)
  | sceneAbort => exact execSceneAbort_wf (h := h) (h₀ := hwf)
  | blockIndexRead => exact execBlockIndexRead_wf (h := h) (h₀ := hwf)
  | mbCoreUe => exact execMbCoreUe_wf (h := h) (h₀ := hwf)
  | mbSwapRequest => exact execMbSwapRequest_wf (h := h) (h₀ := hwf)
  | kSelect => exact execKSelect_wf (h := h) (h₀ := hwf)
  | shadowWrite => exact execShadowWrite_wf (h := h) (h₀ := hwf)
  | hostCompareWrite => exact execHostCompareWrite_wf (h := h) (h₀ := hwf)
  | compareEdge => exact execCompareEdge_wf (h := h) (h₀ := hwf)
  | deadTimeEnd => exact execDeadTimeEnd_wf (h := h) (h₀ := hwf)
  | dlCalibrationStart => exact execDlCalibrationStart_wf (h := h) (h₀ := hwf)
  | dlCalibrationDone => exact execDlCalibrationDone_wf (h := h) (h₀ := hwf)
  | converterTrigger => exact execConverterTrigger_wf (h := h) (h₀ := hwf)
  | channelStart => exact execChannelStart_wf (h := h) (h₀ := hwf)
  | prechargeEnd => exact execPrechargeEnd_wf (h := h) (h₀ := hwf)
  | channelStop => exact execChannelStop_wf (h := h) (h₀ := hwf)
  | srcSwitch => exact execSrcSwitch_wf (h := h) (h₀ := hwf)
  | faultInputAccept => exact execFaultInputAccept_wf (h := h) (h₀ := hwf)
  | faultInputRelease => exact execFaultInputRelease_wf (h := h) (h₀ := hwf)
  | blankWindowEnd => exact execBlankWindowEnd_wf (h := h) (h₀ := hwf)
  | safeLoOn => exact execSafeLoOn_wf (h := h) (h₀ := hwf)
  | safeHoldEnd => exact execSafeHoldEnd_wf (h := h) (h₀ := hwf)
  | latchClear => exact execLatchClear_wf (h := h) (h₀ := hwf)
  | latchForce => exact execLatchForce_wf (h := h) (h₀ := hwf)
  | deviceSafeClear => exact execDeviceSafeClear_wf (h := h) (h₀ := hwf)
  | deviceSafeForce => exact execDeviceSafeForce_wf (h := h) (h₀ := hwf)
  | limitsLock => exact execLimitsLock_wf (h := h) (h₀ := hwf)
  | clockMonitorWindow => exact execClockMonitorWindow_wf (h := h) (h₀ := hwf)
  | pwmActivityTimeout => exact execPwmActivityTimeout_wf (h := h) (h₀ := hwf)
  | mediaPllUnlock => exact execMediaPllUnlock_wf (h := h) (h₀ := hwf)
  | dieTempMeasure => exact execDieTempMeasure_wf (h := h) (h₀ := hwf)
  | debugHalt => exact execDebugHalt_wf (h := h) (h₀ := hwf)
  | lockstepMismatch => exact execLockstepMismatch_wf (h := h) (h₀ := hwf)
  | conversionEnd => exact execConversionEnd_wf (h := h) (h₀ := hwf)
  | retryEnd => exact execRetryEnd_wf (h := h) (h₀ := hwf)
  | decimatorOutput => exact execDecimatorOutput_wf (h := h) (h₀ := hwf)
  | startupCalDone => exact execStartupCalDone_wf (h := h) (h₀ := hwf)
  | rotationStepStart => exact execRotationStepStart_wf (h := h) (h₀ := hwf)
  | rotationOverlapEnd => exact execRotationOverlapEnd_wf (h := h) (h₀ := hwf)
  | sliceCalDone => exact execSliceCalDone_wf (h := h) (h₀ := hwf)
  | railConversion => exact execRailConversion_wf (h := h) (h₀ := hwf)
  | calResultRead => exact execCalResultRead_wf (h := h) (h₀ := hwf)
  | nop => exact execNop_wf (h := h) (h₀ := hwf)
  | mac => exact execMac_wf (h := h) (h₀ := hwf)
  | macd => exact execMacd_wf (h := h) (h₀ := hwf)
  | intg => exact execIntg_wf (h := h) (h₀ := hwf)
  | wait => exact execWait_wf (h := h) (h₀ := hwf)
  | waitComplete => exact execWaitComplete_wf (h := h) (h₀ := hwf)
  | out => exact execOut_wf (h := h) (h₀ := hwf)
  | skipo => exact execSkipo_wf (h := h) (h₀ := hwf)
  | endProgram => exact execEndProgram_wf (h := h) (h₀ := hwf)
  | laneOverrun => exact execLaneOverrun_wf (h := h) (h₀ := hwf)
  | laneSwapnow => exact execLaneSwapnow_wf (h := h) (h₀ := hwf)
  | coefWrite => exact execCoefWrite_wf (h := h) (h₀ := hwf)
  | laneNextWrite => exact execLaneNextWrite_wf (h := h) (h₀ := hwf)
  | laneNextRead => exact execLaneNextRead_wf (h := h) (h₀ := hwf)
  | laneLiveRead => exact execLaneLiveRead_wf (h := h) (h₀ := hwf)
  | shadowSlotOpen => exact execShadowSlotOpen_wf (h := h) (h₀ := hwf)
  | selfTestDone => exact execSelfTestDone_wf (h := h) (h₀ := hwf)
  | confirmShadowEnd => exact execConfirmShadowEnd_wf (h := h) (h₀ := hwf)
  | laneUe => exact execLaneUe_wf (h := h) (h₀ := hwf)
  | forcedSwap => exact execForcedSwap_wf (h := h) (h₀ := hwf)
  | traceArm => exact execTraceArm_wf (h := h) (h₀ := hwf)
  | traceForce => exact execTraceForce_wf (h := h) (h₀ := hwf)
  | traceStop => exact execTraceStop_wf (h := h) (h₀ := hwf)
  | traceRead => exact execTraceRead_wf (h := h) (h₀ := hwf)
  | clrPk => exact execClrPk_wf (h := h) (h₀ := hwf)
  | clrMin => exact execClrMin_wf (h := h) (h₀ := hwf)
  | injectionToggle => exact execInjectionToggle_wf (h := h) (h₀ := hwf)
  | ventUnitComplete => exact execVentUnitComplete_wf (h := h) (h₀ := hwf)
  | coneStep => exact execConeStep_wf (h := h) (h₀ := hwf)
  | reEstimate => exact execReEstimate_wf (h := h) (h₀ := hwf)
  | idPublish => exact execIdPublish_wf (h := h) (h₀ := hwf)
  | ventCoreUe => exact execVentCoreUe_wf (h := h) (h₀ := hwf)
  | spkNextWrite => exact execSpkNextWrite_wf (h := h) (h₀ := hwf)
  | spkNextRead => exact execSpkNextRead_wf (h := h) (h₀ := hwf)
  | spkLiveRead => exact execSpkLiveRead_wf (h := h) (h₀ := hwf)
  | clrLoad => exact execClrLoad_wf (h := h) (h₀ := hwf)
  | tempResultRead => exact execTempResultRead_wf (h := h) (h₀ := hwf)
  | idResultRead => exact execIdResultRead_wf (h := h) (h₀ := hwf)
  | loadWindowEnd => exact execLoadWindowEnd_wf (h := h) (h₀ := hwf)
  | sweepStart => exact execSweepStart_wf (h := h) (h₀ := hwf)
  | sweepAbort => exact execSweepAbort_wf (h := h) (h₀ := hwf)
  | sweepPhaseEnd => exact execSweepPhaseEnd_wf (h := h) (h₀ := hwf)
  | diaResultRead => exact execDiaResultRead_wf (h := h) (h₀ := hwf)
  | sweepDataRead => exact execSweepDataRead_wf (h := h) (h₀ := hwf)
  | hbInEdge => exact execHbInEdge_wf (h := h) (h₀ := hwf)
  | hbTimeout => exact execHbTimeout_wf (h := h) (h₀ := hwf)
  | msgTimeout => exact execMsgTimeout_wf (h := h) (h₀ := hwf)
  | markRx => exact execMarkRx_wf (h := h) (h₀ := hwf)
  | hbmRx => exact execHbmRx_wf (h := h) (h₀ := hwf)
  | snapRx => exact execSnapRx_wf (h := h) (h₀ := hwf)
  | rsyncRx => exact execRsyncRx_wf (h := h) (h₀ := hwf)
  | rsreqRx => exact execRsreqRx_wf (h := h) (h₀ := hwf)
  | identRx => exact execIdentRx_wf (h := h) (h₀ := hwf)
  | refuseRx => exact execRefuseRx_wf (h := h) (h₀ := hwf)
  | identRepeat => exact execIdentRepeat_wf (h := h) (h₀ := hwf)
  | twinLaneFail => exact execTwinLaneFail_wf (h := h) (h₀ := hwf)
  | linkRetrain => exact execLinkRetrain_wf (h := h) (h₀ := hwf)
  | retrain => exact execRetrain_wf (h := h) (h₀ := hwf)
  | markerTimeout => exact execMarkerTimeout_wf (h := h) (h₀ := hwf)
  | cfgDigest => exact execCfgDigest_wf (h := h) (h₀ := hwf)
  | ownNHigh => exact execOwnNHigh_wf (h := h) (h₀ := hwf)
  | claimCheck => exact execClaimCheck_wf (h := h) (h₀ := hwf)
  | handover => exact execHandover_wf (h := h) (h₀ := hwf)
  | resyncRequest => exact execResyncRequest_wf (h := h) (h₀ := hwf)
  | settleEnd => exact execSettleEnd_wf (h := h) (h₀ := hwf)
  | ringFrameStart => exact execRingFrameStart_wf (h := h) (h₀ := hwf)
  | ringFrameRx => exact execRingFrameRx_wf (h := h) (h₀ := hwf)
  | ringFrameReturn => exact execRingFrameReturn_wf (h := h) (h₀ := hwf)
  | ringLostTimeout => exact execRingLostTimeout_wf (h := h) (h₀ := hwf)
  | strPortFail => exact execStrPortFail_wf (h := h) (h₀ := hwf)
  | strPortGood => exact execStrPortGood_wf (h := h) (h₀ := hwf)
  | addressTimeout => exact execAddressTimeout_wf (h := h) (h₀ := hwf)
  | strRegw => exact execStrRegw_wf (h := h) (h₀ := hwf)
  | strRingw => exact execStrRingw_wf (h := h) (h₀ := hwf)
  | strCommit => exact execStrCommit_wf (h := h) (h₀ := hwf)
  | strAbort => exact execStrAbort_wf (h := h) (h₀ := hwf)
  | unfold => exact execUnfold_wf (h := h) (h₀ := hwf)
  | assign => exact execAssign_wf (h := h) (h₀ := hwf)
  | cmdQueueGo => exact execCmdQueueGo_wf (h := h) (h₀ := hwf)
  | nodeSlotRead => exact execNodeSlotRead_wf (h := h) (h₀ := hwf)
  | cmdResultRead => exact execCmdResultRead_wf (h := h) (h₀ := hwf)
  | hostStart => exact execHostStart_wf (h := h) (h₀ := hwf)
  | hostAddress => exact execHostAddress_wf (h := h) (h₀ := hwf)
  | hostByteWrite => exact execHostByteWrite_wf (h := h) (h₀ := hwf)
  | hostByteRead => exact execHostByteRead_wf (h := h) (h₀ := hwf)
  | hostStop => exact execHostStop_wf (h := h) (h₀ := hwf)
  | hostRepeatedStart => exact execHostRepeatedStart_wf (h := h) (h₀ := hwf)
  | commitEnd => exact execCommitEnd_wf (h := h) (h₀ := hwf)
  | sclTimeout => exact execSclTimeout_wf (h := h) (h₀ := hwf)
  | sdaTimeout => exact execSdaTimeout_wf (h := h) (h₀ := hwf)
  | ibrStart => exact execIbrStart_wf (h := h) (h₀ := hwf)
  | ibrEnd => exact execIbrEnd_wf (h := h) (h₀ := hwf)
  | reqCollide => exact execReqCollide_wf (h := h) (h₀ := hwf)
  | ringStageWrite => exact execRingStageWrite_wf (h := h) (h₀ := hwf)
  | ringPush => exact execRingPush_wf (h := h) (h₀ := hwf)
  | ringFetch => exact execRingFetch_wf (h := h) (h₀ := hwf)
  | ringConsume => exact execRingConsume_wf (h := h) (h₀ := hwf)
  | ringConfig => exact execRingConfig_wf (h := h) (h₀ := hwf)
  | regw => exact execRegw_wf (h := h) (h₀ := hwf)
  | regw2 => exact execRegw2_wf (h := h) (h₀ := hwf)
  | fence => exact execFence_wf (h := h) (h₀ := hwf)
  | telEntryProduce => exact execTelEntryProduce_wf (h := h) (h₀ := hwf)
  | telemetryCollect => exact execTelemetryCollect_wf (h := h) (h₀ := hwf)
  | fabricGrant => exact execFabricGrant_wf (h := h) (h₀ := hwf)
  | fabricResponse => exact execFabricResponse_wf (h := h) (h₀ := hwf)
  | fabricTimeout => exact execFabricTimeout_wf (h := h) (h₀ := hwf)
  | portProbe => exact execPortProbe_wf (h := h) (h₀ := hwf)
  | masterReset => exact execMasterReset_wf (h := h) (h₀ := hwf)
  | fabElogRead => exact execFabElogRead_wf (h := h) (h₀ := hwf)
  | ceWriteback => exact execCeWriteback_wf (h := h) (h₀ := hwf)
  | scrubStep => exact execScrubStep_wf (h := h) (h₀ := hwf)
  | repairCopy => exact execRepairCopy_wf (h := h) (h₀ := hwf)
  | logStateRecord => exact execLogStateRecord_wf (h := h) (h₀ := hwf)
  | logEventRecords => exact execLogEventRecords_wf (h := h) (h₀ := hwf)
  | logFlush => exact execLogFlush_wf (h := h) (h₀ := hwf)
  | flashOpDone => exact execFlashOpDone_wf (h := h) (h₀ := hwf)
  | memElogRead => exact execMemElogRead_wf (h := h) (h₀ := hwf)
  | bkgLogRead => exact execBkgLogRead_wf (h := h) (h₀ := hwf)
  | errorInjectArm => exact execErrorInjectArm_wf (h := h) (h₀ := hwf)
  | qspiProgram => exact execQspiProgram_wf (h := h) (h₀ := hwf)
  | qspiErase => exact execQspiErase_wf (h := h) (h₀ := hwf)
  | qspiReadStatus => exact execQspiReadStatus_wf (h := h) (h₀ := hwf)
  | qspiBufferWrite => exact execQspiBufferWrite_wf (h := h) (h₀ := hwf)
  | qspiBufferRead => exact execQspiBufferRead_wf (h := h) (h₀ := hwf)
  | powerUp => exact execPowerUp_wf (h := h) (h₀ := hwf)
  | supplyFall => exact execSupplyFall_wf (h := h) (h₀ := hwf)
  | resetPin => exact execResetPin_wf (h := h) (h₀ := hwf)
  | softReset => exact execSoftReset_wf (h := h) (h₀ := hwf)
  | debugReset => exact execDebugReset_wf (h := h) (h₀ := hwf)
  | mgmtWatchdogReset => exact execMgmtWatchdogReset_wf (h := h) (h₀ := hwf)
  | resetRelease => exact execResetRelease_wf (h := h) (h₀ := hwf)
  | wipeComplete => exact execWipeComplete_wf (h := h) (h₀ := hwf)
  | scanComplete => exact execScanComplete_wf (h := h) (h₀ := hwf)
  | candidateLoadEnd => exact execCandidateLoadEnd_wf (h := h) (h₀ := hwf)
  | fwTimeout => exact execFwTimeout_wf (h := h) (h₀ := hwf)
  | relStart => exact execRelStart_wf (h := h) (h₀ := hwf)
  | lifecycleRequest => exact execLifecycleRequest_wf (h := h) (h₀ := hwf)
  | fuseBlowDone => exact execFuseBlowDone_wf (h := h) (h₀ := hwf)
  | credentialPresent => exact execCredentialPresent_wf (h := h) (h₀ := hwf)
  | fuseProgram => exact execFuseProgram_wf (h := h) (h₀ := hwf)
  | debugRelease => exact execDebugRelease_wf (h := h) (h₀ := hwf)
  | boundaryScanLoad => exact execBoundaryScanLoad_wf (h := h) (h₀ := hwf)
  | mediaPllLock => exact execMediaPllLock_wf (h := h) (h₀ := hwf)
  | pllLock => exact execPllLock_wf (h := h) (h₀ := hwf)
  | pllUnlock => exact execPllUnlock_wf (h := h) (h₀ := hwf)
  | twinPllLock => exact execTwinPllLock_wf (h := h) (h₀ := hwf)
  | safeWatchdogTrip => exact execSafeWatchdogTrip_wf (h := h) (h₀ := hwf)
  | clockMeasure => exact execClockMeasure_wf (h := h) (h₀ := hwf)
  | refSlewStep => exact execRefSlewStep_wf (h := h) (h₀ := hwf)
  | ownNLow => exact execOwnNLow_wf (h := h) (h₀ := hwf)
  | handoverHoldoffEnd => exact execHandoverHoldoffEnd_wf (h := h) (h₀ := hwf)
  | forwardingStart => exact execForwardingStart_wf (h := h) (h₀ := hwf)

/-- A step from a queue with a command in front runs it with the queue's rest. -/
theorem step_cons {s : State} {c : Instr} {q : List Instr} (h : s.pending = c :: q) : step s = exec c { s with pending := q } := by
  unfold step
  rw [h]

/-- A step from an empty queue leaves the state as it is (log entry 2). -/
theorem step_nil {s : State} (h : s.pending = []) : step s = .next s := by
  unfold step
  rw [h]

end Sys2Proof.Machine

open Sys2Proof Sys2Proof.Machine in
/-- Settles O57: an idle step changes nothing, and each command keeps the form. -/
theorem memoryFormKept : Obligations.MemoryFormKept := by
  unfold Obligations.MemoryFormKept
  intro s t hwf hstep
  cases hq : s.pending with
  | nil =>
    rw [step_nil hq] at hstep
    injection hstep with h
    exact h ▸ hwf
  | cons c q =>
    rw [step_cons hq] at hstep
    exact exec_wf hstep (wf_with_pending s q hwf)

open Sys2Proof Sys2Proof.Machine in
/-- Settles O55. -/
theorem stepRunsFront : Obligations.StepRunsFront := by
  unfold Obligations.StepRunsFront
  exact fun s c q => ⟨step_cons rfl, step_nil rfl⟩

namespace Sys2Proof.Machine

/-! ### Every command completes -/

theorem pending_set {s : State} {q : List Instr} (f : Fld) (n : Nat) (h : s.pending = q) : (s.set f n).pending = q := h
theorem pending_setB {s : State} {q : List Instr} (f : Fld) (b : Bool) (h : s.pending = q) : (s.setB f b).pending = q := h
theorem pending_wr {s : State} {q : List Instr} (p : Nat) (v : Word) (h : s.pending = q) : (s.wr p v).pending = q := h

/-- A command that has its effect out of reset completes and keeps the queue. -/
theorem awake_completes (s u : State) : ∃ t, awake s u = .next t ∧ t.pending = s.pending := by
  cases hres : s.sys.inReset with
  | true => exact ⟨s, awake_reset u hres, rfl⟩
  | false => exact ⟨_, awake_next u hres, rfl⟩

theorem resetRelease_pending (s : State) (x : Straps) : (resetRelease s x).pending = s.pending := by
  unfold resetRelease
  split
  · rfl
  · dsimp only
    repeat' (first | with_reducible apply pending_setB | with_reducible apply pending_set | with_reducible apply pending_wr)
    rfl

/-- A test register is one in BLANK and out of reset only (R635). -/
theorem testRegister_opens {s : State} {path : Path} {p : Nat} (h : testRegister s path p = true) :
    lcState s = lcBlank ∧ s.sys.inReset = false := by
  simp only [testRegister, Bool.and_eq_true, decide_eq_true_eq, Bool.not_eq_true'] at h
  obtain ⟨⟨-, hlc⟩, hres⟩ := h
  exact ⟨hlc, hres⟩

theorem reqTests_opens {s : State} {r : FabReq} (h : reqTests s r = true) : lcState s = lcBlank ∧ s.sys.inReset = false := by
  simp only [reqTests, Bool.and_eq_true, decide_eq_true_eq, Bool.not_eq_true'] at h
  obtain ⟨⟨-, hlc⟩, hres⟩ := h
  exact ⟨hlc, hres⟩

theorem fabricGrant_refused {s : State} {p : Fin 15} {rs : List FabReq}
    (h : (rs.filter (requestStands s p)).any (reqTests s) = true) : exec (.fabricGrant p rs) s = .refused .testRegister := if_pos h

theorem exec_fabricGrant {s : State} {p : Fin 15} {rs : List FabReq} (h : (rs.filter (requestStands s p)).any (reqTests s) = false) :
    exec (.fabricGrant p rs) s = awake s (fabricGrant s p rs) := if_neg (by simp [h])

end Sys2Proof.Machine

open Sys2Proof Sys2Proof.Machine in
/-- Settles O56: a command that is neither a reset's nor one of the two that can write a test register has its effect or, in reset, none. -/
theorem commandsComplete : Obligations.CommandsComplete := by
  unfold Obligations.CommandsComplete
  intro s c
  cases c with
  | registerWrite path p v =>
    cases ht : testRegister s path p.toNat with
    | true =>
      obtain ⟨hlc, hres⟩ := testRegister_opens ht
      exact .inr ⟨exec_registerWrite_testRegister v ht, hlc, hres, .inl ⟨path, p, v, rfl⟩⟩
    | false => exact .inl (exec_registerWrite v ht ▸ awake_completes _ _)
  | fabricGrant p rs =>
    cases ht : (rs.filter (requestStands s p)).any (reqTests s) with
    | true =>
      obtain ⟨r, -, hr⟩ := List.any_eq_true.mp ht
      obtain ⟨hlc, hres⟩ := reqTests_opens hr
      exact .inr ⟨fabricGrant_refused ht, hlc, hres, .inr ⟨p, rs, rfl⟩⟩
    | false => exact .inl (exec_fabricGrant ht ▸ awake_completes _ _)
  | powerUp => exact .inl ⟨_, rfl, rfl⟩
  | supplyFall => exact .inl ⟨_, rfl, rfl⟩
  | resetPin low => exact .inl ⟨_, rfl, by cases low <;> rfl⟩
  | resetRelease x => exact .inl ⟨_, rfl, resetRelease_pending s x⟩
  | _ => exact .inl (awake_completes _ _)
end

section
/-! Rules that follow a chain of register writes: what it leaves, and the events it counts (R15 to R19). -/

set_option Elab.async false

namespace Sys2Proof.Machine

/-- Out of reset a command answers its effect, however the effect is written. -/
theorem awake_runs {s u v : State} (hres : s.sys.inReset = false) (h : u = v) : awake s u = .next (v.queued s.pending) :=
  h ▸ awake_next u hres

/-- Out of reset a command ends with what its effect shows, where the queue does not count. -/
theorem awake_ends {s u v : State} {P : State → Prop} (hres : s.sys.inReset = false) (h : u = v) (hP : P v)
    (hqueue : ∀ w, P w → P (w.queued s.pending)) : ∃ t, awake s u = .next t ∧ P t := ⟨_, awake_runs hres h, hqueue v hP⟩

/-- A command whose effect is none leaves the state. -/
theorem awake_idle {s u : State} (h : u = s) : awake s u = .next s := by
  subst h
  unfold awake
  split <;> rfl

/-! ### Frames along a chain -/

section
variable {l m : List Part} {ps : List Nat} {s t u : State}

theorem Changes.refl (l : List Part) (ps : List Nat) (s : State) : Changes l ps s s := ⟨Only.refl l s, OnlyRegs.refl ps s⟩

theorem Changes.trans (h : Changes l ps s t) (k : Changes l ps t u) : Changes l ps s u := ⟨h.1.trans k.1, h.2.trans k.2⟩

theorem Changes.mono {qs : List Nat} (h : Changes m qs s t) (hm : m ⊆ l := by decide) (hq : qs ⊆ ps := by simp) : Changes l ps s t :=
  ⟨h.1.mono hm, h.2.mono hq⟩

/-- A further operation on other parts than the registers. -/
theorem Changes.part (h : Changes l ps s t) (k : Only m t u) (hm : m ⊆ l := by decide) (hr : .regs ∉ m := by decide) :
    Changes l ps s u := ⟨h.1.step k hm, h.2.of_only k hr⟩

theorem Changes.wr (h : Changes l ps s t) (p : Nat) (v : Word) (hr : .regs ∈ l := by decide) (hp : p ∈ ps := by simp) :
    Changes l ps s (t.wr p v) := ⟨State.wr_step _ _ _ h.1 (by simpa using hr), h.2.wr hp⟩

theorem Changes.set (h : Changes l ps s t) (f : Fld) (n : Nat) (hr : .regs ∈ l := by decide) (hp : f.ptr ∈ ps := by simp) :
    Changes l ps s (t.set f n) := h.wr _ _ hr hp

theorem Changes.setB (h : Changes l ps s t) (f : Fld) (b : Bool) (hr : .regs ∈ l := by decide) (hp : f.ptr ∈ ps := by simp) :
    Changes l ps s (t.setB f b) := h.wr _ _ hr hp

theorem Changes.raise (h : Changes l ps s t) (g : Flag) (hr : .regs ∈ l := by decide) (hp : g.ptr ∈ ps := by simp)
    (hc : g.cptr ∈ ps := by simp) : Changes l ps s (t.raise g) := (h.set _ _ hr hp).set _ _ hr hc

theorem Changes.cond (h : Changes l ps s t) (g : Flag) (b : Bool) (hl : [.regs, .conds] ⊆ l := by decide) (hp : g.ptr ∈ ps := by simp)
    (hc : g.cptr ∈ ps := by simp) : Changes l ps s (t.cond g b) := ⟨State.cond_step _ _ _ h.1 hl, h.2.cond hp hc⟩

theorem Changes.ite {c : Prop} [Decidable c] (h : Changes l ps s t) (k : Changes l ps s u) : Changes l ps s (if c then t else u) := by
  split
  · exact h
  · exact k

/-- A condition that ends leaves every register. -/
theorem Changes.condEnd (h : Changes l ps s t) (g : Flag) (hl : [.conds] ⊆ l := by decide) : Changes l ps s (t.cond g false) :=
  h.part (m := [.conds]) (only_with_conds t _) hl

end

/-! ### Fields along a chain -/

section
variable {s t : State} {f : Fld} {g : Flag}

/-- A field that lies in a word reads the low bits of what is put there. -/
theorem State.get_set_self (s : State) (n : Nat) (hf : f.lo ≤ f.hi ∧ f.hi < 32) : (s.set f n).get f = n % 2 ^ (f.hi + 1 - f.lo) :=
  State.get_set_same s f n hf

theorem State.get_set_lit (s : State) {n : Nat} (hf : f.lo ≤ f.hi ∧ f.hi < 32) (hn : n < 2 ^ (f.hi + 1 - f.lo)) :
    (s.set f n).get f = n := State.get_set_fits s hf hn

theorem State.get_setB_self (s : State) (b : Bool) (hf : f.lo ≤ f.hi ∧ f.hi < 32) : (s.setB f b).get f = if b then 1 else 0 :=
  State.get_setB_same s f b hf

/-- A condition that ends leaves every field. -/
@[simp] theorem State.get_condEnd (s : State) (g : Flag) (f : Fld) : (s.cond g false).get f = s.get f := State.get_congr rfl f

/-! Fields that an update of another part leaves, as lemmas that rewrite (a chain of updates is too long to compare by unfolding). -/

theorem State.get_ite {c : Prop} [Decidable c] (s t : State) (f : Fld) :
    (if c then s else t).get f = if c then s.get f else t.get f := by
  split <;> rfl

theorem State.get_twinUp (s : State) (k : Twin → Twin) (f : Fld) : (s.twinUp k).get f = s.get f := State.get_congr rfl f
theorem State.get_bkgUp (s : State) (k : Bkg → Bkg) (f : Fld) : (s.bkgUp k).get f = s.get f := State.get_congr rfl f
theorem State.get_sysUp (s : State) (k : Sys → Sys) (f : Fld) : (s.sysUp k).get f = s.get f := State.get_congr rfl f
theorem State.get_putBank (s : State) (k : Nat) (v : Word) (f : Fld) : (s.putBank k v).get f = s.get f := State.get_congr rfl f
theorem State.get_answer (s : State) (v : Word) (f : Fld) : (s.answer v).get f = s.get f := State.get_congr rfl f

/-- A flag and its counter lie in two registers, the counter in eight bits of its own. -/
abbrev Flag.ok (g : Flag) : Prop := g.ptr ≠ g.cptr ∧ g.bit < 32 ∧ g.clo < 25

/-- A set event counts from a state with the same count. -/
theorem counted_raise_of (h : t.get g.countField = s.get g.countField) (hg : g.ok := by decide) : counted g s (t.raise g) :=
  counted_congr (counted_raise t g hg.1 hg.2.1 hg.2.2) h rfl rfl

/-- A condition that begins counts one event (R19). -/
theorem State.cond_begins (h : s.conds.contains (g.ptr * 32 + g.bit) = false) :
    s.cond g true = ({ s with conds := (g.ptr * 32 + g.bit) :: s.conds } : State).raise g := by
  unfold State.cond
  simp only [if_true]
  rw [if_neg (by rw [h]; decide)]

theorem counted_cond_of (hc : t.conds.contains (g.ptr * 32 + g.bit) = false) (h : t.get g.countField = s.get g.countField)
    (hg : g.ok := by decide) : counted g s (t.cond g true) := by
  rw [State.cond_begins hc]
  exact counted_raise_of (t := { t with conds := _ }) h hg

/-- What follows a set event leaves it counted where it leaves the flag and the counter. -/
theorem counted.set (h : counted g s t) (f : Fld) (n : Nat) (hflag : f.disjoint g.flagField := by decide)
    (hcount : f.disjoint g.countField := by decide) : counted g s (t.set f n) :=
  counted_congr h rfl (State.get_set_disjoint _ _ hflag) (State.get_set_disjoint _ _ hcount)

theorem counted.setB (h : counted g s t) (f : Fld) (b : Bool) (hflag : f.disjoint g.flagField := by decide)
    (hcount : f.disjoint g.countField := by decide) : counted g s (t.setB f b) := h.set f _ hflag hcount

/-- A field of a register that may not differ reads as before. -/
theorem OnlyRegs.get {ps : List Nat} (h : OnlyRegs ps s t) (f : Fld) (hf : f.ptr ∉ ps := by decide) : t.get f = s.get f := by
  unfold State.get
  rw [h _ hf]

theorem counted.onlyRegs {u : State} {ps : List Nat} (h : counted g s t) (k : OnlyRegs ps t u) (hp : g.ptr ∉ ps := by decide)
    (hc : g.cptr ∉ ps := by decide) : counted g s u := counted_congr h rfl (k.get g.flagField hp) (k.get g.countField hc)

theorem counted.of_regs {u : State} (h : counted g s t) (k : u.regs = t.regs) : counted g s u :=
  counted_of_get h fun _ => State.get_congr k _

end

end Sys2Proof.Machine

end

section
/-! Lost locks (R585), the flash controller and its program buffer (R544 to R549). -/

set_option Elab.async false

namespace Sys2Proof.Machine

/-! ### Lost locks -/

section
variable {s : State} {g : Flag} {lock : Fld}

theorem Fld.disjoint.symm {f h : Fld} (d : f.disjoint h) : h.disjoint f := ⟨d.2.1, d.1, d.2.2.imp Ne.symm Or.symm⟩

/-- A lock that is lost shows 0 and counts one event. -/
theorem lockLost_shown (h : s.conds.contains (g.ptr * 32 + g.bit) = false) (hg : g.ok) (hflag : lock.disjoint g.flagField)
    (hcount : lock.disjoint g.countField) :
    ((s.set lock 0).cond g true).get lock = 0 ∧ counted g s ((s.set lock 0).cond g true) := by
  refine ⟨?_, counted_cond_of h (State.get_set_disjoint _ _ hcount) hg⟩
  rw [State.get_cond_disjoint _ _ hflag.symm hcount.symm, State.get_set_self _ _ hflag.1, Nat.zero_mod]

theorem lockLost_changes (s : State) (g : Flag) (lock : Fld) :
    Changes [.regs, .conds] [lock.ptr, g.ptr, g.cptr] s ((s.set lock 0).cond g true) :=
  ((Changes.refl _ _ s).set lock 0).cond g true

end

/-- What a link that goes down shows (R387). -/
theorem linkDown_shown (s : State) : (linkDown s).get F.TWN_STAT_LINK_UP = 0 ∧ (linkDown s).get F.TWN_STAT_LANE_OK = 0 := by
  unfold linkDown setPstate resyncEnds
  simp (disch := decide) only [State.get_set_disjoint, State.get_set_self, State.get_cond_disjoint, State.get_twinUp, State.get_ite,
    ite_self, Nat.zero_mod, and_self]

/-- A link that is up or trains goes down with its clock (R387, R585). -/
theorem linkUp_twinClockLost (s : State) : linkUp (twinClockLost s) = false := by
  unfold twinClockLost
  split
  next => exact on_of_get_zero (linkDown_shown s).1
  next h =>
    simp only [Bool.or_eq_true, not_or, Bool.not_eq_true] at h
    exact h.1

theorem resyncEnds_changes (s : State) : Changes [.regs, .twin] [R.TWN_STAT, R.TWN_CTRL] s (resyncEnds s) :=
  ((((Changes.refl _ _ s).set F.TWN_STAT_RESYNC_FAIL 1).ite (Changes.refl _ _ s)).set F.TWN_CTRL_RESYNC 0).part (State.twinUp_only _ _)

/-- A fall of the link writes the pair's state and counts LINK_DOWN, and no other register. -/
theorem linkDown_changes (s : State) :
    Changes [.regs, .conds, .twin] [R.TWN_STAT, R.TWN_CTRL, G.TWN_LINK_DOWN.ptr, G.TWN_LINK_DOWN.cptr] s (linkDown s) := by
  have hdown : Changes [.regs, .conds, .twin] [R.TWN_STAT, R.TWN_CTRL, G.TWN_LINK_DOWN.ptr, G.TWN_LINK_DOWN.cptr] s
      (((resyncEnds s).set F.TWN_STAT_LINK_UP 0).set F.TWN_STAT_LANE_OK 0) :=
    ((resyncEnds_changes s).mono.set _ _).set _ _
  exact ((((hdown.set F.TWN_STAT_PSTATE _).ite hdown).part (State.twinUp_only _ _)).cond G.TWN_LINK_DOWN true).condEnd _

theorem twinClockLost_onlyRegs (s : State) :
    OnlyRegs [R.TWN_STAT, R.TWN_CTRL, G.TWN_LINK_DOWN.ptr, G.TWN_LINK_DOWN.cptr] s (twinClockLost s) :=
  OnlyRegs.ite (linkDown_changes s).2 (OnlyRegs.refl _ s)

end Sys2Proof.Machine

open Sys2Proof Sys2Proof.Machine in
/-- Settles O54: each PLL's lock is lost alike, and that of Twin Link takes the link down after it. -/
theorem pllLockLoss : Obligations.PllLockLoss := by
  unfold Obligations.PllLockLoss
  intro s which lock g hres hmem hlock hconds
  have hon : s.on lock = true := by simp [State.on, hlock]
  simp only [List.mem_cons, Prod.mk.injEq, List.not_mem_nil, or_false] at hmem
  obtain ⟨rfl, rfl, rfl⟩ | ⟨rfl, rfl, rfl⟩ | ⟨rfl, rfl, rfl⟩ := hmem
  · obtain ⟨hoff, hcount⟩ := lockLost_shown (lock := F.CLK_STAT_NET_LOCK) hconds (by decide) (by decide) (by decide)
    exact ⟨_, awake_runs hres (if_pos hon), hoff, hcount, hcount.1, nofun, fun _ => (lockLost_changes s _ _).queued⟩
  · obtain ⟨hoff, hcount⟩ := lockLost_shown (lock := F.CLK_STAT_SYS_LOCK) hconds (by decide) (by decide) (by decide)
    exact ⟨_, awake_runs hres (if_pos hon), hoff, hcount, hcount.1, nofun, fun _ => (lockLost_changes s _ _).queued⟩
  · obtain ⟨hoff, hcount⟩ := lockLost_shown (lock := F.CLK_STAT_TWIN_LOCK) hconds (by decide) (by decide) (by decide)
    have hlost := hcount.onlyRegs (twinClockLost_onlyRegs _)
    exact ⟨_, awake_runs hres (congrArg twinClockLost (if_pos hon)), ((twinClockLost_onlyRegs _).get _).trans hoff, hlost, hlost.1,
      fun _ => linkUp_twinClockLost _, fun h => absurd rfl h⟩

end

section
/-! The flash controller (R530, R531, R544). -/

set_option Elab.async false

namespace Sys2Proof.Machine

/-! ### Starting an operation -/

section
variable {s : State} {op : Nat}

/-- The refusal code that the first reason of R544 gives a program (1), an erase (2) or a read of the status register (3). -/
def refusalOf (s : State) (op : Nat) : Nat :=
  if s.bkg.qspi.isSome || !s.bkg.ops.isEmpty then 1
  else if (op = 1 || op = 2) && protectedAddr s (s.get F.QSPI_ADDR_ADDR) then 2
  else if (op = 1 && s.get F.QSPI_ADDR_ADDR % 256 != 0) || (op = 2 && s.get F.QSPI_ADDR_ADDR % 4096 != 0) then 3
  else if (op = 1 || op = 2) && decide (flashBytes s ≤ s.get F.QSPI_ADDR_ADDR) then 4
  else 0

theorem protectedAddr_congr {t : State} (hslot : t.get F.IMG_STAT_SLOT = s.get F.IMG_STAT_SLOT)
    (hnsect : t.get F.BKG_LOG0_NSECT = s.get F.BKG_LOG0_NSECT) (hbkg : t.bkg = s.bkg) (a : Nat) : protectedAddr t a = protectedAddr s a := by
  unfold protectedAddr logSectors
  rw [hslot, hnsect, hbkg]

theorem refusalOf_congr {t : State} (hslot : t.get F.IMG_STAT_SLOT = s.get F.IMG_STAT_SLOT)
    (hnsect : t.get F.BKG_LOG0_NSECT = s.get F.BKG_LOG0_NSECT) (hbkg : t.bkg = s.bkg)
    (haddr : t.get F.QSPI_ADDR_ADDR = s.get F.QSPI_ADDR_ADDR) (hid : t.get F.QSPI_ID_ID = s.get F.QSPI_ID_ID) :
    refusalOf t op = refusalOf s op := by
  unfold refusalOf flashBytes
  rw [protectedAddr_congr hslot hnsect hbkg, hbkg, haddr, hid]

/-- The operation that GO names decides the reason. -/
theorem qspiReason_set_op (s : State) (h : op < 4) : qspiReason (s.set F.QSPI_CTRL_OP op) = refusalOf s op := by
  have hop : (s.set F.QSPI_CTRL_OP op).get F.QSPI_CTRL_OP = op := by
    rw [State.get_set_self _ _ (by decide)]
    exact Nat.mod_eq_of_lt h
  rw [← refusalOf_congr (t := s.set F.QSPI_CTRL_OP op) (State.get_set_disjoint _ _ (by decide))
    (State.get_set_disjoint _ _ (by decide)) rfl (State.get_set_disjoint _ _ (by decide)) (State.get_set_disjoint _ _ (by decide))]
  simp only [qspiReason, refusalOf, hop]

/-- The operation of a program or an erase. -/
def operation (s : State) (op : Nat) : FlashOp :=
  if op = 1 then .program (s.get F.QSPI_ADDR_ADDR) (qspiBuffer s) false else .erase (s.get F.QSPI_ADDR_ADDR / 4096)

/-- The registers of an operation that starts. -/
def startShown (s : State) (op : Nat) : State := ((s.set F.QSPI_CTRL_OP op).set F.QSPI_STAT_REASON 0).set F.QSPI_CTRL_GO 1

theorem qspiStart_taken (hop : op < 4) (h : refusalOf s op = 0) :
    qspiStart s op = showBusy ((startShown s op).bkgUp fun b => { b with qspi := some (operation s op) }) := by
  have haddr : (s.set F.QSPI_CTRL_OP op).get F.QSPI_ADDR_ADDR = s.get F.QSPI_ADDR_ADDR := State.get_set_disjoint _ _ (by decide)
  unfold qspiStart
  simp only [qspiReason_set_op s hop, h, ne_eq, not_true_eq_false, if_false, haddr]
  rfl

theorem qspiStart_refused (hop : op < 4) (h : refusalOf s op ≠ 0) :
    qspiStart s op = qspiRefuse (s.set F.QSPI_CTRL_OP op) (refusalOf s op) := by
  unfold qspiStart
  simp only [qspiReason_set_op s hop, h, ne_eq, not_false_eq_true, if_true]

/-- An operation that starts is in progress, with its reason cleared (R544). -/
theorem qspiStart_taken_shown (hop : op < 4) (h : refusalOf s op = 0) :
    (qspiStart s op).bkg = { s.bkg with qspi := some (operation s op) } ∧ (qspiStart s op).get F.QSPI_STAT_BUSY = 1 ∧
      (qspiStart s op).get F.QSPI_STAT_REASON = 0 ∧ (qspiStart s op).get F.QSPI_CTRL_GO = 1 ∧
      Changes [.regs, .bkg, .hst] [R.QSPI_CTRL, R.QSPI_STAT] s (qspiStart s op) := by
  rw [qspiStart_taken hop h]
  have hshown : Changes [.regs] [R.QSPI_CTRL, R.QSPI_STAT] s (startShown s op) :=
    (((Changes.refl _ _ s).set _ _).set _ _).set _ _
  have hbkg : (startShown s op).bkg = s.bkg := hshown.1 .bkg (by decide)
  refine ⟨?_, ?_, ?_, ?_, ((hshown.mono.part (State.bkgUp_only _ _)).setB _ _)⟩
  · rw [showBusy_only _ .bkg (by decide), State.bkgUp_bkg, hbkg]
  · rw [showBusy, State.get_setB_self _ _ (by decide), State.bkgUp_bkg]
    exact if_pos rfl
  · unfold showBusy startShown
    simp (disch := decide) only [State.get_setB_disjoint, State.get_bkgUp, State.get_set_disjoint, State.get_set_lit]
  · unfold showBusy startShown
    simp (disch := decide) only [State.get_setB_disjoint, State.get_bkgUp, State.get_set_lit]

theorem qspiRefuse_shown {reason : Nat} (hreason : reason < 16) (n : Nat) :
    counted G.IMG_QSPI_REFUSED s (qspiRefuse (s.set F.QSPI_CTRL_OP n) reason) ∧
      (qspiRefuse (s.set F.QSPI_CTRL_OP n) reason).get F.QSPI_STAT_REASON = reason ∧
      Changes [.regs, .hst] [R.QSPI_CTRL, R.QSPI_STAT, G.IMG_QSPI_REFUSED.ptr, G.IMG_QSPI_REFUSED.cptr] s
        (qspiRefuse (s.set F.QSPI_CTRL_OP n) reason) := by
  unfold qspiRefuse
  refine ⟨counted_raise_of ?_, ?_, ((((Changes.refl _ _ s).set _ _).set _ _).setB _ _).raise _⟩
  · simp (disch := decide) only [State.get_setB_disjoint, State.get_set_disjoint]
  · simp (disch := decide) only [State.get_raise_disjoint, State.get_setB_disjoint, State.get_set_self]
    exact Nat.mod_eq_of_lt hreason

theorem refusalOf_lt (s : State) (op : Nat) : refusalOf s op < 16 := by
  unfold refusalOf
  repeat' split
  all_goals decide

/-- Without an operation in work a read of the status register is not refused. -/
theorem qspiStatus_shown (sr1 : Byte) (hqspi : s.bkg.qspi = none) (hops : s.bkg.ops = []) :
    (qspiStatus s sr1).get F.QSPI_STAT_SR1 = sr1.toNat ∧ (qspiStatus s sr1).get F.QSPI_STAT_REASON = 0 ∧
      (qspiStatus s sr1).get F.QSPI_CTRL_GO = 0 ∧ Changes [.regs, .hst] [R.QSPI_CTRL, R.QSPI_STAT] s (qspiStatus s sr1) := by
  have hreason : qspiReason (s.set F.QSPI_CTRL_OP 3) = 0 := by
    rw [qspiReason_set_op s (by decide)]
    simp [refusalOf, hqspi, hops]
  have hstatus : qspiStatus s sr1 =
      (((s.set F.QSPI_CTRL_OP 3).set F.QSPI_STAT_REASON 0).set F.QSPI_STAT_SR1 sr1.toNat).set F.QSPI_CTRL_GO 0 := by
    unfold qspiStatus
    simp only [hreason, ne_eq, not_true_eq_false, if_false]
  rw [hstatus]
  refine ⟨?_, ?_, ?_, ((((Changes.refl _ _ s).set _ _).set _ _).set _ _).set _ _⟩
  · simp (disch := decide) only [State.get_set_disjoint, State.get_set_self]
    exact Nat.mod_eq_of_lt sr1.isLt
  · simp (disch := decide) only [State.get_set_disjoint, State.get_set_lit]
  · simp (disch := decide) only [State.get_set_lit]

end

/-! ### The reasons of R544 -/

section
variable {s : State} {a : Nat} (ha : a = s.get F.QSPI_ADDR_ADDR) (hqspi : s.bkg.qspi = none) (hops : s.bkg.ops = [])
include ha hqspi hops

theorem refusalOf_program_none (hprot : protectedAddr s a = false) (hbytes : a < flashBytes s) (hpage : a % 256 = 0) :
    refusalOf s 1 = 0 := by
  subst ha
  simp [refusalOf, hqspi, hops, hprot, hpage, Nat.not_le.mpr hbytes]

theorem refusalOf_erase_none (hprot : protectedAddr s a = false) (hbytes : a < flashBytes s) (hsector : a % 4096 = 0) :
    refusalOf s 2 = 0 := by
  subst ha
  simp [refusalOf, hqspi, hops, hprot, hsector, Nat.not_le.mpr hbytes]

end

/-- A program or an erase is refused with the first reason that holds. -/
theorem refusalOf_first {s : State} {op a reason : Nat} (ha : a = s.get F.QSPI_ADDR_ADDR) (hop : op = 1 ∨ op = 2)
    (h : (reason = 1 ∧ (s.bkg.qspi ≠ none ∨ s.bkg.ops ≠ [])) ∨
      (reason = 2 ∧ s.bkg.qspi = none ∧ s.bkg.ops = [] ∧ protectedAddr s a = true) ∨
      (reason = 3 ∧ s.bkg.qspi = none ∧ s.bkg.ops = [] ∧ protectedAddr s a = false ∧ a % 256 ≠ 0) ∨
      (reason = 4 ∧ s.bkg.qspi = none ∧ s.bkg.ops = [] ∧ protectedAddr s a = false ∧ a % 4096 = 0 ∧ flashBytes s ≤ a)) :
    refusalOf s op = reason := by
  subst ha
  obtain ⟨rfl, hbusy⟩ | ⟨rfl, hqspi, hops, hprot⟩ | ⟨rfl, hqspi, hops, hprot, hpage⟩ | ⟨rfl, hqspi, hops, hprot, hsector, hbytes⟩ := h
  · have h1 : (s.bkg.qspi.isSome || !s.bkg.ops.isEmpty) = true := by
      rcases hbusy with hq | ho
      · simp [Option.isSome_iff_ne_none.mpr hq]
      · simp [ho]
    simp only [refusalOf, h1, if_true]
  · rcases hop with rfl | rfl <;> simp [refusalOf, hqspi, hops, hprot]
  · have hsector : s.get F.QSPI_ADDR_ADDR % 4096 ≠ 0 := by omega
    rcases hop with rfl | rfl <;> simp [refusalOf, hqspi, hops, hprot, hpage, hsector]
  · have hpage : s.get F.QSPI_ADDR_ADDR % 256 = 0 := by omega
    rcases hop with rfl | rfl <;> simp [refusalOf, hqspi, hops, hprot, hpage, hsector, hbytes]

/-- The loaded slot A and the first 8 sectors of the log area are protected (R530, R544). -/
theorem protectedAddr_of_area {s : State} {a : Nat}
    (h : (s.get F.IMG_STAT_SLOT = 1 ∧ a < 0x400000) ∨ (0x800000 ≤ a ∧ a < 0x808000)) : protectedAddr s a = true := by
  rcases h with ⟨hslot, hlow⟩ | ⟨hlo, hhi⟩
  · simp [protectedAddr, hslot, hlow]
  · have hend : a < 0x800000 + max (logSectors s) 8 * 4096 := by omega
    simp [protectedAddr, hlo, hend]

/-! What the access that a command is leaves of what the controller reads. -/

theorem refusalOf_granted (s : State) (p op : Nat) : refusalOf (granted s p) op = refusalOf s op :=
  refusalOf_congr (granted_get _ _ _) (granted_get _ _ _) (granted_bkg _ _) (granted_get _ _ _) (granted_get _ _ _)

theorem operation_granted (s : State) (p op : Nat) : operation (granted s p) op = operation s op := by
  simp only [operation, qspiBuffer, State.bank, granted_get, granted_banks]

/-- A GO of a program or an erase that nothing stands against starts it. -/
theorem qspiStart_runs {s : State} {op : Nat} (hw : reached s R.QSPI_CTRL = true) (hop : op < 4) (h : refusalOf s op = 0) :
    ∃ t, awake s (fieldAt s .hostPrimary R.QSPI_CTRL fun u => qspiStart u op) = .next t ∧
      t.bkg = { s.bkg with qspi := some (operation s op) } ∧ t.get F.QSPI_STAT_BUSY = 1 ∧ t.get F.QSPI_STAT_REASON = 0 ∧
      t.get F.QSPI_CTRL_GO = 1 ∧ Changes [.regs, .bkg, .hst] [R.QSPI_CTRL, R.QSPI_STAT] s t := by
  rw [← refusalOf_granted s R.QSPI_CTRL] at h
  obtain ⟨hbkg, hbusy, hreason, hgo, hchanges⟩ := qspiStart_taken_shown hop h
  rw [operation_granted, granted_bkg] at hbkg
  exact ⟨_, awake_fieldAt _ hw, hbkg, hbusy, hreason, hgo, hchanges.after_granted (by decide)⟩

/-- A GO of a program or an erase that is refused counts, with its reason. -/
theorem qspiStart_refuses {s : State} {op : Nat} (hw : reached s R.QSPI_CTRL = true) (hop : op < 4) (h : refusalOf s op ≠ 0) :
    ∃ t, awake s (fieldAt s .hostPrimary R.QSPI_CTRL fun u => qspiStart u op) = .next t ∧ counted G.IMG_QSPI_REFUSED s t ∧
      t.get F.QSPI_STAT_REASON = refusalOf s op ∧
      Changes [.regs, .hst] [R.QSPI_CTRL, R.QSPI_STAT, G.IMG_QSPI_REFUSED.ptr, G.IMG_QSPI_REFUSED.cptr] s t := by
  rw [← refusalOf_granted s R.QSPI_CTRL] at h ⊢
  obtain ⟨hcount, hreason, hchanges⟩ := qspiRefuse_shown (s := granted s R.QSPI_CTRL) (refusalOf_lt _ op) op
  rw [← qspiStart_refused hop h] at hcount hreason hchanges
  exact ⟨_, awake_fieldAt _ hw, counted_congr hcount (granted_get _ _ _) rfl rfl, hreason, hchanges.after_granted (by decide)⟩

end Sys2Proof.Machine

open Sys2Proof Sys2Proof.Machine in
/-- Settles O48: a program, an erase and a read of the status register that start, and the reasons in the order of R544's table. -/
theorem flashController : Obligations.FlashController := by
  unfold Obligations.FlashController
  intro s a hres ha hw
  refine ⟨fun hqspi hops hprot hbytes => ⟨fun hpage => ?_, fun hsector => ?_⟩, fun sr1 hqspi hops => ?_, fun c reason hc hreason => ?_⟩
  · have hrun := qspiStart_runs hw (op := 1) (by decide) (refusalOf_program_none ha hqspi hops hprot hbytes hpage)
    rwa [operation, if_pos rfl, ← ha] at hrun
  · have hrun := qspiStart_runs hw (op := 2) (by decide) (refusalOf_erase_none ha hqspi hops hprot hbytes hsector)
    rwa [operation, if_neg (by decide), ← ha] at hrun
  · rw [← granted_bkg s R.QSPI_CTRL] at hqspi hops
    obtain ⟨hsr1, hreason, hgo, hchanges⟩ := qspiStatus_shown sr1 hqspi hops
    exact ⟨_, awake_fieldAt (qspiStatus · sr1) hw, hsr1, hreason, hgo, hchanges.after_granted (by decide)⟩
  · have hfirst (op : Nat) (hop : op = 1 ∨ op = 2) : refusalOf s op = reason :=
      refusalOf_first ha hop (hreason.imp_right (Or.imp_left fun ⟨hr, hq, ho, harea⟩ => ⟨hr, hq, ho, protectedAddr_of_area harea⟩))
    have hne : reason ≠ 0 := by omega
    rcases hc with rfl | rfl
    · have h := hfirst 1 (.inl rfl)
      rw [← h]
      exact qspiStart_refuses hw (by decide) (h ▸ hne)
    · have h := hfirst 2 (.inr rfl)
      rw [← h]
      exact qspiStart_refuses hw (by decide) (h ▸ hne)

end

section
/-! The program buffer (R549). -/

set_option Elab.async false

namespace Sys2Proof.Machine

/-! ### The aliases of the buffer -/

section
variable {s : State} {path : Path} {p : Nat}

/-- A pointer of a range is none outside it. -/
theorem ptr_ne_of_range {p q a b : Nat} (hp : a ≤ p ∧ p < b) (hq : q < a ∨ b ≤ q := by decide) : p ≠ q := by omega

/-- A write of any word of the window is a write of the buffer. -/
theorem regWrite_buffer (v : Word) (hp : 0x240 ≤ p ∧ p < 0x260) (hw : writable s path p = true) :
    regWrite s path p v = qspiBufWrite s v := by
  unfold regWrite
  rw [if_neg (by simp [hw]), if_pos (by omega)]
  unfold writeSystem
  iterate 4 rw [if_neg (ptr_ne_of_range hp)]
  rw [if_neg (not_or.mpr ⟨ptr_ne_of_range hp, by omega⟩)]
  iterate 4 rw [if_neg (ptr_ne_of_range hp)]
  rw [if_pos hp]

theorem windowRead_buffer (s : State) (host : Bool) (hp : 0x240 ≤ p ∧ p < 0x260) : windowRead s host p = some (qspiBufRead s) := by
  unfold windowRead
  rw [if_neg (ptr_ne_of_range hp)]
  iterate 2 rw [if_neg (by omega)]
  rw [if_pos hp]

theorem readable_answer (s : State) (path : Path) (p : Nat) (w : Word) : readable (s.answer w) path p = readable s path p := rfl

/-- A whole read of any word of the window is a read of the buffer. -/
theorem regRead_buffer (hp : 0x240 ≤ p ∧ p < 0x260) (hr : readable s path p = true) :
    regRead s path p = (qspiBufRead (s.answer (qspiBufRead s).rdata)).answer (qspiBufRead s).rdata := by
  simp only [regRead, regPeek, readEffect, readable_answer, hr, windowRead_buffer _ _ hp, Bool.not_true, Bool.false_eq_true, if_false]
  rfl

end

/-! ### A word of the buffer -/

section
variable {s : State}

/-- The index that follows one below 64 wraps from 63 to 0. -/
theorem wptr_next (s : State) :
    (s.get F.QSPI_BPTR_WPTR + 1) % 2 ^ (F.QSPI_BPTR_WPTR.hi + 1 - F.QSPI_BPTR_WPTR.lo) =
      if s.get F.QSPI_BPTR_WPTR = 63 then 0 else s.get F.QSPI_BPTR_WPTR + 1 := by
  have hlt : s.get F.QSPI_BPTR_WPTR < 64 := State.get_lt s F.QSPI_BPTR_WPTR
  show (s.get F.QSPI_BPTR_WPTR + 1) % 64 = _
  split <;> omega

theorem qspiBufWrite_idle (v : Word) (h : s.get F.QSPI_STAT_BUSY = 0) :
    qspiBufWrite s v = (s.putBank (qspiKey (s.get F.QSPI_BPTR_WPTR)) v).set F.QSPI_BPTR_WPTR (s.get F.QSPI_BPTR_WPTR + 1) :=
  if_neg (by simp [on_of_get_zero h])

theorem qspiBufWrite_busy (v : Word) (h : s.get F.QSPI_STAT_BUSY = 1) : qspiBufWrite s v = qspiRefuse s 1 :=
  if_pos (by simp [State.on, h])

/-- A whole write stores the word at WPTR and moves it on. -/
theorem qspiBufWrite_stores (v : Word) (h : s.get F.QSPI_STAT_BUSY = 0) :
    (∀ k, (qspiBufWrite s v).bank k = if k = qspiKey (s.get F.QSPI_BPTR_WPTR) then v else s.bank k) ∧
      (qspiBufWrite s v).get F.QSPI_BPTR_WPTR = (if s.get F.QSPI_BPTR_WPTR = 63 then 0 else s.get F.QSPI_BPTR_WPTR + 1) ∧
      Changes [.regs, .banks] [F.QSPI_BPTR_WPTR.ptr] s (qspiBufWrite s v) := by
  rw [qspiBufWrite_idle v h]
  refine ⟨fun k => ?_, ?_, ((Changes.refl _ _ s).part (State.putBank_only _ _ _)).set _ _⟩
  · rw [State.set_bank, State.bank_putBank]
  · rw [State.get_set_self _ _ (by decide), wptr_next]

/-- A write during an operation is refused with reason 1. -/
theorem qspiBufWrite_refused (v : Word) (h : s.get F.QSPI_STAT_BUSY = 1) :
    counted G.IMG_QSPI_REFUSED s (qspiBufWrite s v) ∧ (qspiBufWrite s v).get F.QSPI_STAT_REASON = 1 ∧
      Changes [.regs] [R.QSPI_CTRL, R.QSPI_STAT, G.IMG_QSPI_REFUSED.ptr, G.IMG_QSPI_REFUSED.cptr] s (qspiBufWrite s v) := by
  rw [qspiBufWrite_busy v h]
  unfold qspiRefuse
  refine ⟨counted_raise_of ?_, ?_, (((Changes.refl _ _ s).set _ _).setB _ _).raise _⟩
  · simp (disch := decide) only [State.get_setB_disjoint, State.get_set_disjoint]
  · simp (disch := decide) only [State.get_raise_disjoint, State.get_setB_disjoint, State.get_set_lit]

/-- A whole read returns the word at WPTR and moves it on. -/
theorem qspiBufRead_reads (s : State) :
    (qspiBufRead s).rdata = s.bank (qspiKey (s.get F.QSPI_BPTR_WPTR)) ∧
      (qspiBufRead s).get F.QSPI_BPTR_WPTR = (if s.get F.QSPI_BPTR_WPTR = 63 then 0 else s.get F.QSPI_BPTR_WPTR + 1) ∧
      Changes [.regs, .rdata] [F.QSPI_BPTR_WPTR.ptr] s (qspiBufRead s) := by
  refine ⟨rfl, ?_, ((Changes.refl _ _ s).part (State.answer_only _ _)).set _ _⟩
  rw [qspiBufRead, State.get_set_self _ _ (by decide), wptr_next]

end

/-! ### The commands that write the buffer -/

/-- The write has its effect after its access, whichever of the two commands it is: an access of the host's commit, or one on a path. -/
theorem bufferWrite_runs {s : State} {c : Instr} {v : Word}
    (h : (c = .qspiBufferWrite v ∧ reached s (aliasPtr s R.QSPI_BDATA) = true) ∨
      ∃ (path : Path) (j : Nat), j < 8 ∧ c = .registerWrite path (BitVec.ofNat 16 (R.QSPI_BDATA + 4 * j)) v ∧
        writable s path (R.QSPI_BDATA + 4 * j) = true) :
    ∃ u, Changes [.hst] [] s u ∧ exec c s = .next ((qspiBufWrite u v).queued s.pending) := by
  obtain ⟨rfl, hw⟩ | ⟨path, j, hj, rfl, hw⟩ := h
  · exact ⟨_, granted_changes s _, awake_fieldAt (qspiBufWrite · v) hw⟩
  · have hp : (BitVec.ofNat 16 (R.QSPI_BDATA + 4 * j)).toNat = R.QSPI_BDATA + 4 * j := by
      rw [BitVec.toNat_ofNat]
      exact Nat.mod_eq_of_lt (by show 0x240 + 4 * j < 2 ^ 16; omega)
    have hw' : writable s path (BitVec.ofNat 16 (R.QSPI_BDATA + 4 * j)).toNat = true := by rw [hp, hw]
    refine ⟨_, popCommit_changes s path (R.QSPI_BDATA + 4 * j) v, ?_⟩
    rw [exec_registerWrite v (testRegister_of_writable hw'), hp,
      regWrite_buffer v ⟨by show 0x240 ≤ 0x240 + 4 * j; omega, by show 0x240 + 4 * j < 0x260; omega⟩ (by simpa using hw),
      awake_next _ (writable_awake hw)]

end Sys2Proof.Machine

open Sys2Proof Sys2Proof.Machine in
/-- Settles O49: a write with BUSY at 0 and at 1, the command that reads the buffer, and a read on any path. -/
theorem programBuffer : Obligations.ProgramBuffer := by
  unfold Obligations.ProgramBuffer
  intro s n hres hn
  subst hn
  refine ⟨fun c v hc => ?_, fun hr => ?_, fun path j hj hr => ?_⟩
  · obtain ⟨u, hu, hrun⟩ := bufferWrite_runs hc
    have hget (f : Fld) : u.get f = s.get f := hu.2.get f (List.not_mem_nil)
    have hbank (k : Nat) : u.bank k = s.bank k := by
      unfold State.bank
      rw [hu.1 .banks (by decide)]
    refine ⟨fun hidle => ?_, fun hbusy => ?_⟩
    · obtain ⟨hstored, hptr, hchanges⟩ := qspiBufWrite_stores v ((hget _).trans hidle)
      rw [hget] at hptr
      refine ⟨_, hrun, ?_, fun k hk => ?_, hptr, (hu.mono.trans hchanges.mono).queued⟩
      · exact (hstored _).trans (if_pos (by rw [hget]))
      · exact (hstored k).trans ((if_neg (by rw [hget]; exact hk)).trans (hbank k))
    · obtain ⟨hcount, hreason, hchanges⟩ := qspiBufWrite_refused v ((hget _).trans hbusy)
      exact ⟨_, hrun, counted_congr hcount (hget _) rfl rfl, hreason, (hu.mono.trans hchanges.mono).queued⟩
  · obtain ⟨hdata, hptr, hchanges⟩ := qspiBufRead_reads s
    exact ⟨_, awake_readAt qspiBufRead hr, hdata, hptr, hchanges.queued⟩
  · have hp : 0x240 ≤ R.QSPI_BDATA + 4 * j ∧ R.QSPI_BDATA + 4 * j < 0x260 :=
      ⟨by show 0x240 ≤ 0x240 + 4 * j; omega, by show 0x240 + 4 * j < 0x260; omega⟩
    obtain ⟨hdata, -, -⟩ := qspiBufRead_reads s
    rw [regRead_buffer hp hr]
    refine ⟨hdata, ?_⟩
    rw [State.get_answer, (qspiBufRead_reads _).2.1, State.get_answer]

end

section
/-! The frames that the pair sends, the heartbeat, and the link's training and fall (R379 to R391). -/

set_option Elab.async false

namespace Sys2Proof.Machine

/-! ### Frames sent (R383, R385) -/

section
variable {s t : State}

/-- A frame is queued at GT1, which holds any number. -/
theorem sendFrame_eq (s : State) (type reason : Nat) (ws : List Quad) :
    sendFrame s type reason ws = { s with gates := s.gates.modify (gateIdx .gt1) (· ++ [framePayload s type reason ws]) } := rfl

theorem sendFrame_gatesOnly (s : State) (type reason : Nat) (ws : List Quad) : Only [.gates] s (sendFrame s type reason ws) :=
  only_with_gates s _

theorem State.get_sendFrame (s : State) (type reason : Nat) (ws : List Quad) (f : Fld) : (sendFrame s type reason ws).get f = s.get f :=
  State.get_congr rfl f

/-- What a frame shows of the unit: its role, its hold of OWN_N and its time. -/
theorem framePayload_congr (hrole : t.get F.TWN_STAT_ROLE = s.get F.TWN_STAT_ROLE) (hpins : t.pins = s.pins) (htime : t.time = s.time)
    (type reason : Nat) (ws : List Quad) : framePayload t type reason ws = framePayload s type reason ws := by
  unfold framePayload linkFlags
  rw [hrole, hpins, htime]

/-- IDENT shows the unit's role, its hold of OWN_N, and registers of its identity below those of the pair (R389). -/
theorem identWords_congr {ps : List Nat} (hrole : t.get F.TWN_STAT_ROLE = s.get F.TWN_STAT_ROLE) (hpins : t.pins = s.pins)
    (h : OnlyRegs ps s t) (hps : ∀ p ∈ ps, p = R.CLK_STAT ∨ p = R.CLK_FLAG ∨ p = 0x118 ∨ 0x600 ≤ p := by decide) : identWords t = identWords s := by
  have hrd (p : Nat) (h1 : p ≠ R.CLK_STAT := by decide) (h2 : p ≠ R.CLK_FLAG := by decide) (h3 : p ≠ 0x118 := by decide)
      (h4 : p < 0x600 := by decide) : t.rd p = s.rd p := by
    refine h p fun hp => ?_
    have := hps p hp
    omega
  have hdig : ((List.range 8).map fun i => t.rd (R.IMG_DIG0 + 4 * i)) = (List.range 8).map fun i => s.rd (R.IMG_DIG0 + 4 * i) := by
    refine List.map_congr_left fun i hi => ?_
    have hlt := List.mem_range.mp hi
    have hptr : R.IMG_DIG0 = 0x208 := rfl
    have hstat : R.CLK_STAT = 0x100 := rfl
    have hflag : R.CLK_FLAG = 0x114 := rfl
    exact hrd _ (by omega) (by omega) (by omega) (by omega)
  unfold identWords roleB owner lcState State.on
  rw [hdig, hrole, hpins, hrd R.SYS_ID, hrd R.SYS_DEVNUM_H, hrd R.SYS_DEVNUM_L]
  unfold State.get
  rw [hrd F.SYS_LC_STATE.ptr]

end

/-! ### Training (R389) -/

section
variable {s : State}

/-- Training has begun, before IDENT is sent. -/
def trainingBegun (s : State) : State :=
  ((setPstate (resyncEnds s) psTrain).set F.TWN_STAT_LINK_UP 0).twinUp fun t =>
    { t with train := 2, concluded := false, down := if t.attempted then t.down else 0, attempted := true, tx := idleLanes }

theorem startTraining_begins (hpair : pairEn s = true) (hprocs : s.sys.procs = true) (hlock : s.get F.CLK_STAT_TWIN_LOCK = 1) :
    startTraining s = sendFrame (trainingBegun s) frIdent 0 (identWords (trainingBegun s)) :=
  if_neg (by simp [hpair, hprocs, State.on, hlock])

theorem trainingBegun_changes (s : State) : Changes [.regs, .twin] [R.TWN_STAT, R.TWN_CTRL] s (trainingBegun s) :=
  (((resyncEnds_changes s).set F.TWN_STAT_PSTATE _).set _ _).part (State.twinUp_only _ _)

theorem trainingBegun_get (s : State) {f : Fld} (h1 : F.TWN_STAT_PSTATE.disjoint f := by decide)
    (h2 : F.TWN_STAT_LINK_UP.disjoint f := by decide) (h3 : F.TWN_STAT_RESYNC_FAIL.disjoint f := by decide)
    (h4 : F.TWN_CTRL_RESYNC.disjoint f := by decide) : (trainingBegun s).get f = s.get f := by
  unfold trainingBegun setPstate resyncEnds
  simp (disch := assumption) only [State.get_set_disjoint, State.get_twinUp, State.get_ite, ite_self]

/-- Training starts: the link is not up, and IDENT is sent as the unit stands (R389). -/
theorem startTraining_shown (hpair : pairEn s = true) (hprocs : s.sys.procs = true) (hlock : s.get F.CLK_STAT_TWIN_LOCK = 1) :
    pstate (startTraining s) = psTrain ∧ (startTraining s).get F.TWN_STAT_LINK_UP = 0 ∧
      (startTraining s).gates = s.gates.modify (gateIdx .gt1) (· ++ [framePayload s frIdent 0 (identWords s)]) ∧
      Changes [.regs, .gates, .twin] [R.TWN_STAT, R.TWN_CTRL] s (startTraining s) := by
  obtain ⟨hparts, hregs⟩ := trainingBegun_changes s
  have hrole := trainingBegun_get s (f := F.TWN_STAT_ROLE)
  have hpins : (trainingBegun s).pins = s.pins := hparts .pins (by decide)
  have hgates : (trainingBegun s).gates = s.gates := hparts .gates (by decide)
  have htime : (trainingBegun s).time = s.time := hparts .time (by decide)
  rw [startTraining_begins hpair hprocs hlock, identWords_congr hrole hpins hregs]
  refine ⟨?_, ?_, ?_, Changes.mono ⟨hparts, hregs⟩ |>.part (sendFrame_gatesOnly _ _ _ _)⟩
  · unfold pstate trainingBegun setPstate psTrain
    simp (disch := decide) only [State.get_sendFrame, State.get_twinUp, State.get_set_disjoint, State.get_set_lit]
  · unfold trainingBegun
    simp (disch := decide) only [State.get_sendFrame, State.get_twinUp, State.get_set_lit]
  · rw [sendFrame_eq, hgates, framePayload_congr hrole hpins htime]

end

/-! ### The fall of the link (R387) -/

/-- Both lanes fall, before PSTATE shows it. -/
def lanesFallen (s : State) : State := ((resyncEnds s).set F.TWN_STAT_LINK_UP 0).set F.TWN_STAT_LANE_OK 0

/-- The link has fallen, before its events. -/
def linkFallen (s : State) : State :=
  (if pairEn (lanesFallen s) then setPstate (lanesFallen s) (unpaired (lanesFallen s)) else lanesFallen s).twinUp
    fun t => { t with concluded := false, down := 0, train := 0 }

theorem linkDown_eq (s : State) : linkDown s = ((linkFallen s).cond G.TWN_LINK_DOWN true).cond G.TWN_LANE_DEGRADED false := rfl

theorem pairEn_lanesFallen (s : State) : pairEn (lanesFallen s) = pairEn s := by
  have hget : (lanesFallen s).get F.TWN_CFG_PAIR_EN = s.get F.TWN_CFG_PAIR_EN := (((resyncEnds_changes s).set _ _).set _ _).2.get _
  rw [pairEn, State.on, hget]
  rfl

theorem accepted_lanesFallen (s : State) : (lanesFallen s).twin.accepted = s.twin.accepted := by
  have hkept : (if pstate s = psResync then s.set F.TWN_STAT_RESYNC_FAIL 1 else s).twin = s.twin := by
    split
    · exact State.set_twin _ _ _
    · rfl
  rw [lanesFallen, State.set_twin, State.set_twin, resyncEnds, State.twinUp_twin, State.set_twin, hkept]

theorem linkFallen_pstate {s : State} (hpair : pairEn s = true) :
    (linkFallen s).get F.TWN_STAT_PSTATE = if s.twin.accepted then psFree else psAlone := by
  have hfits : (if s.twin.accepted then psFree else psAlone) < 8 := by split <;> decide
  rw [linkFallen, State.get_twinUp, if_pos ((pairEn_lanesFallen s).trans hpair), setPstate, unpaired, accepted_lanesFallen,
    State.get_set_lit _ (by decide) hfits]

/-- A link that goes down is without a partner. -/
theorem linkDown_pstate {s : State} (hpair : pairEn s = true) : pstate (linkDown s) = if s.twin.accepted then psFree else psAlone := by
  rw [linkDown_eq, pstate, State.get_condEnd, State.get_cond_disjoint _ _ (by decide) (by decide), linkFallen_pstate hpair]

end Sys2Proof.Machine

end

section
/-! The heartbeat and the commands of the link (R379 to R381, R385, R387, R389, R587). -/

set_option Elab.async false

namespace Sys2Proof.Machine

/-! ### The heartbeat (R380) -/

section
variable {s : State}

/-- The pair after the fourth edge in time. -/
def hbRestored (s : State) : State := ((s.twinUp fun t => { t with hbEdges := 0 }).set F.TWN_STAT_HB_OK 1).cond G.TWN_HB_LOST false

theorem hbRestored_ok (s : State) : (hbRestored s).get F.TWN_STAT_HB_OK = 1 := by
  unfold hbRestored
  rw [State.get_condEnd, State.get_set_lit _ (by decide) (by decide)]

theorem hbRestored_twin (s : State) : (hbRestored s).twin = { s.twin with hbEdges := 0 } := by
  unfold hbRestored
  rw [State.cond_twin, State.set_twin, State.twinUp_twin]

theorem hbRestored_changes (s : State) : Changes [.regs, .conds, .twin] [R.TWN_STAT] s (hbRestored s) :=
  (((Changes.refl _ _ s).part (State.twinUp_only _ _)).set _ _).condEnd _

/-- The fourth edge in time restores HB_OK. -/
theorem hbEdge_restores {g : Nat} (hlost : s.get F.TWN_STAT_HB_OK = 0) (hgap : g ≤ s.get F.TWN_CFG_HB_TMO) (hedges : 3 ≤ s.twin.hbEdges) :
    hbEdge s g = hbRestored s := by
  have hfour : 4 ≤ s.twin.hbEdges + 1 := by omega
  simp only [hbEdge, on_of_get_zero hlost, hgap, hfour, Bool.false_eq_true, if_false, if_true, hbRestored]

theorem hbEdge_counts {g : Nat} (hlost : s.get F.TWN_STAT_HB_OK = 0) (hgap : g ≤ s.get F.TWN_CFG_HB_TMO) (hedges : s.twin.hbEdges < 3) :
    hbEdge s g = s.twinUp fun t => { t with hbEdges := s.twin.hbEdges + 1 } := by
  have hfour : ¬ 4 ≤ s.twin.hbEdges + 1 := by omega
  simp only [hbEdge, on_of_get_zero hlost, hgap, hfour, Bool.false_eq_true, if_false, if_true]

/-- An edge that is missing takes HB_OK and counts HB_LOST. -/
theorem hbTimeout_shown (hconds : s.conds.contains (G.TWN_HB_LOST.ptr * 32 + G.TWN_HB_LOST.bit) = false) :
    (hbTimeout s).get F.TWN_STAT_HB_OK = 0 ∧ (hbTimeout s).twin = { s.twin with hbEdges := 0 } ∧ counted G.TWN_HB_LOST s (hbTimeout s) ∧
      Changes [.regs, .conds, .twin] [R.TWN_STAT, G.TWN_HB_LOST.ptr, G.TWN_HB_LOST.cptr] s (hbTimeout s) := by
  unfold hbTimeout
  refine ⟨?_, ?_, counted_cond_of (by rw [State.set_conds, State.twinUp_conds]; exact hconds) ?_, (((Changes.refl _ _ s).part (State.twinUp_only _ _)).set _ _).cond _ true⟩
  · rw [State.get_cond_disjoint _ _ (by decide) (by decide), State.get_set_lit _ (by decide) (by decide)]
  · rw [State.cond_twin, State.set_twin, State.twinUp_twin]
  · rw [State.get_set_disjoint _ _ (by decide), State.get_twinUp]

end

/-! ### Commands that start training -/

theorem linkRetrain_down {s : State} (hup : s.get F.TWN_STAT_LINK_UP = 0) : linkRetrain s = startTraining s := by
  rw [linkRetrain, linkUp, on_of_get_zero hup, if_neg Bool.false_ne_true]

section
variable {s : State} (hpair : pairEn s = true) (hprocs : s.sys.procs = true)
include hpair hprocs

/-- Training that starts after changes of the pair's own registers sends the IDENT of the unit as it stood before them. -/
theorem startTraining_after {u : State} {l : List Part} {ps : List Nat} (hu : Changes l ps s u)
    (hl : .gates ∉ l ∧ .pins ∉ l ∧ .time ∉ l ∧ .sys ∉ l) (hcfg : R.TWN_CFG ∉ ps)
    (hps : ∀ p ∈ ps, p = R.CLK_STAT ∨ p = R.CLK_FLAG ∨ p = 0x118 ∨ 0x600 ≤ p) (hrole : u.get F.TWN_STAT_ROLE = s.get F.TWN_STAT_ROLE)
    (hlock : u.get F.CLK_STAT_TWIN_LOCK = 1) :
    pstate (startTraining u) = psTrain ∧ (startTraining u).get F.TWN_STAT_LINK_UP = 0 ∧
      (startTraining u).gates = s.gates.modify (gateIdx .gt1) (· ++ [framePayload s frIdent 0 (identWords s)]) ∧
      Changes [.regs, .gates, .twin] [R.TWN_STAT, R.TWN_CTRL] u (startTraining u) := by
  obtain ⟨hgates, hpins, htime, hsys⟩ := hl
  have hen : pairEn u = true := by
    rw [pairEn, State.on, hu.2.get _ hcfg]
    exact hpair
  have hown := hu.1 .pins hpins
  obtain ⟨htrain, hdown, hsent, hchanges⟩ := startTraining_shown hen ((congrArg Sys.procs (hu.1 .sys hsys)).trans hprocs) hlock
  rw [identWords_congr hrole hown hu.2 hps, framePayload_congr hrole hown (hu.1 .time htime), hu.1 .gates hgates] at hsent
  exact ⟨htrain, hdown, hsent, hchanges⟩

/-- Without messages MSG_OK falls and the link trains again (R381). -/
theorem msgTimeout_trains (hlock : s.get F.CLK_STAT_TWIN_LOCK = 1) :
    (msgTimeout s).get F.TWN_STAT_MSG_OK = 0 ∧ (msgTimeout s).get F.TWN_STAT_LINK_UP = 0 ∧ pstate (msgTimeout s) = psTrain ∧
      (msgTimeout s).gates = s.gates.modify (gateIdx .gt1) (· ++ [framePayload s frIdent 0 (identWords s)]) ∧
      Only [.regs, .conds, .gates, .twin] s (msgTimeout s) := by
  have hlost : Changes [.regs, .conds] [R.TWN_STAT, G.TWN_MSG_LOST.ptr, G.TWN_MSG_LOST.cptr] s
      ((s.set F.TWN_STAT_MSG_OK 0).cond G.TWN_MSG_LOST true) := ((Changes.refl _ _ s).set _ _).cond _ true
  have hrole : ((s.set F.TWN_STAT_MSG_OK 0).cond G.TWN_MSG_LOST true).get F.TWN_STAT_ROLE = s.get F.TWN_STAT_ROLE := by
    rw [State.get_cond_disjoint _ _ (by decide) (by decide), State.get_set_disjoint _ _ (by decide)]
  have hlock' : ((s.set F.TWN_STAT_MSG_OK 0).cond G.TWN_MSG_LOST true).get F.CLK_STAT_TWIN_LOCK = 1 := (hlost.2.get _).trans hlock
  obtain ⟨htrain, hdown, hsent, hchanges⟩ :=
    startTraining_after hpair hprocs hlost (by decide) (by decide) (by decide) hrole hlock'
  refine ⟨?_, hdown, htrain, hsent, (hlost.1.mono (by decide)).step hchanges.1 (by decide)⟩
  have hen : pairEn ((s.set F.TWN_STAT_MSG_OK 0).cond G.TWN_MSG_LOST true) = true := by
    rw [pairEn, State.on, hlost.2.get F.TWN_CFG_PAIR_EN]
    exact hpair
  rw [msgTimeout, startTraining_begins hen ((congrArg Sys.procs (hlost.1 .sys (by decide))).trans hprocs) hlock', State.get_sendFrame,
    trainingBegun_get, State.get_cond_disjoint _ _ (by decide) (by decide), State.get_set_lit _ (by decide) (by decide)]

/-- RETRAIN stands while the link trains (R410). -/
theorem retrain_trains (hlock : s.get F.CLK_STAT_TWIN_LOCK = 1) :
    pstate (retrain s) = psTrain ∧ (retrain s).get F.TWN_CTRL_RETRAIN = 1 ∧
      (retrain s).gates = s.gates.modify (gateIdx .gt1) (· ++ [framePayload s frIdent 0 (identWords s)]) ∧
      Changes [.regs, .gates, .twin] [R.TWN_STAT, R.TWN_CTRL] s (retrain s) := by
  obtain ⟨htrain, -, hsent, hchanges⟩ := startTraining_shown hpair hprocs hlock
  have hretrain : retrain s = (startTraining s).set F.TWN_CTRL_RETRAIN 1 := if_pos htrain
  rw [hretrain]
  refine ⟨?_, State.get_set_lit _ (by decide) (by decide), ?_, hchanges.set _ _⟩
  · rw [pstate, State.get_set_disjoint _ _ (by decide)]
    exact htrain
  · rw [State.set_gates, hsent]

/-- The lock of its PLL starts the link's training (R587). -/
theorem twinPllLock_trains :
    (twinPllLock s).get F.CLK_STAT_TWIN_LOCK = 1 ∧ pstate (twinPllLock s) = psTrain ∧
      (twinPllLock s).gates = s.gates.modify (gateIdx .gt1) (· ++ [framePayload s frIdent 0 (identWords s)]) ∧
      Only [.regs, .conds, .gates, .twin] s (twinPllLock s) := by
  have hlocked : Changes [.regs, .conds] [R.CLK_STAT] s (pllLock s .twin) := ((Changes.refl _ _ s).set F.CLK_STAT_TWIN_LOCK 1).condEnd _
  have hlock : (pllLock s .twin).get F.CLK_STAT_TWIN_LOCK = 1 := by
    rw [pllLock, State.get_condEnd, State.get_set_lit _ (by decide) (by decide)]
  obtain ⟨htrain, -, hsent, hchanges⟩ :=
    startTraining_after hpair hprocs hlocked (by decide) (by decide) (by decide) (hlocked.2.get _) hlock
  rw [twinPllLock, if_pos hpair]
  exact ⟨(hchanges.2.get _).trans hlock, htrain, hsent, (hlocked.1.mono (by decide)).step hchanges.1 (by decide)⟩

end

/-! ### A lane that fails (R387) -/

section
variable {s : State} {n : Nat} (k : Nat)

/-- The code violations of a lane are counted. -/
def codesCounted (s : State) (k : Nat) : State := s.set F.TWN_LERR_CODE (s.get F.TWN_LERR_CODE + k)

theorem codesCounted_changes (s : State) (k : Nat) : Changes [.regs] [R.TWN_LERR] s (codesCounted s k) := (Changes.refl _ _ s).set _ _

theorem codesCounted_code (s : State) (k : Nat) : (codesCounted s k).get F.TWN_LERR_CODE = (s.get F.TWN_LERR_CODE + k) % 65536 :=
  State.get_set_self _ _ (by decide)

theorem laneFails_degrades (hpair : pairEn s = true) (hn : n < 2) (hlanes : s.get F.TWN_STAT_LANE_OK = 3) :
    laneFails s n k = ((codesCounted s k).set F.TWN_STAT_LANE_OK (3 - 2 ^ n)).cond G.TWN_LANE_DEGRADED true := by
  have hok : (codesCounted s k).get F.TWN_STAT_LANE_OK = 3 := ((codesCounted_changes s k).2.get _).trans hlanes
  unfold codesCounted at hok
  have hbit : bitN 3 n = true := by interval_cases n <;> rfl
  have hleft : ¬ 3 = 3 - 2 ^ n ∧ ¬ 3 - 2 ^ n = 0 := by interval_cases n <;> decide
  simp only [laneFails, hpair, hok, hbit, hleft, Bool.not_true, Bool.false_eq_true, if_false, if_true]
  rfl

theorem laneFails_downs (hpair : pairEn s = true) (hlanes : s.get F.TWN_STAT_LANE_OK = 2 ^ n) :
    laneFails s n k = linkDown (codesCounted s k) := by
  have hok : (codesCounted s k).get F.TWN_STAT_LANE_OK = 2 ^ n := ((codesCounted_changes s k).2.get _).trans hlanes
  unfold codesCounted at hok
  have hbit : bitN (2 ^ n) n = true := by rw [bitN_eq_testBit, Nat.testBit_two_pow_self]
  have hne : 2 ^ n ≠ 0 := (Nat.two_pow_pos n).ne'
  simp only [laneFails, hpair, hok, hbit, hne, Nat.sub_self, Bool.not_true, Bool.false_eq_true, if_false, if_true]
  rfl

/-- A first lane that fails degrades the link. -/
theorem laneFails_degrades_shown (hpair : pairEn s = true) (hn : n < 2) (hlanes : s.get F.TWN_STAT_LANE_OK = 3) :
    (laneFails s n k).get F.TWN_STAT_LANE_OK = 3 - 2 ^ n ∧ (laneFails s n k).get F.TWN_LERR_CODE = (s.get F.TWN_LERR_CODE + k) % 65536 ∧
      (laneFails s n k).get F.TWN_STAT_LINK_UP = s.get F.TWN_STAT_LINK_UP := by
  have hfits : 3 - 2 ^ n < 4 := Nat.lt_of_le_of_lt (Nat.sub_le _ _) (by decide)
  rw [laneFails_degrades k hpair hn hlanes]
  refine ⟨?_, ?_, ?_⟩ <;> rw [State.get_cond_disjoint _ _ (by decide) (by decide)]
  · exact State.get_set_lit _ (by decide) hfits
  · rw [State.get_set_disjoint _ _ (by decide), codesCounted_code]
  · rw [State.get_set_disjoint _ _ (by decide)]
    exact (codesCounted_changes s k).2.get _

/-- The last lane that fails takes the link down. -/
theorem laneFails_downs_shown (hpair : pairEn s = true) (hlanes : s.get F.TWN_STAT_LANE_OK = 2 ^ n) :
    (laneFails s n k).get F.TWN_STAT_LANE_OK = 0 ∧ (laneFails s n k).get F.TWN_STAT_LINK_UP = 0 ∧
      pstate (laneFails s n k) = if s.twin.accepted then psFree else psAlone := by
  have hcodes := codesCounted_changes s k
  have hen : pairEn (codesCounted s k) = true := by
    rw [pairEn, State.on, hcodes.2.get F.TWN_CFG_PAIR_EN]
    exact hpair
  obtain ⟨hup, hok⟩ := linkDown_shown (codesCounted s k)
  rw [laneFails_downs k hpair hlanes]
  exact ⟨hok, hup, (linkDown_pstate hen).trans (by rw [hcodes.1 .twin (by decide)])⟩

end

theorem pairEn_granted (s : State) (p : Nat) : pairEn (granted s p) = pairEn s := granted_on s p _

end Sys2Proof.Machine

open Sys2Proof Sys2Proof.Machine in
/-- Settles O30, a command at a time: an edge that is the fourth and one that is not, the two timeouts, the three commands and the lock that
start training, and a lane that fails beside a good one and as the last. -/
theorem twinLink : Obligations.TwinLink := by
  unfold Obligations.TwinLink
  intro s hres
  refine ⟨fun g hlost hgap hedges => ?_, fun g hlost hgap hedges => ?_, fun hconds => ?_, fun hpair hprocs hlock => ⟨?_, fun hup => ?_,
    fun hw => ?_⟩, fun hpair hprocs => ?_, fun n k hpair hlanes => ?_, fun n k hpair hlanes => ?_⟩
  · exact awake_ends hres (hbEdge_restores hlost hgap hedges) ⟨hbRestored_ok s, hbRestored_twin s, hbRestored_changes s⟩
      fun _ ⟨hok, htwin, hchanges⟩ => ⟨hok, htwin, hchanges.queued⟩
  · exact awake_ends hres (hbEdge_counts hlost hgap hedges) ⟨State.twinUp_twin s _, (Changes.refl _ _ s).part (State.twinUp_only _ _)⟩
      fun _ ⟨htwin, hchanges⟩ => ⟨htwin, hchanges.queued⟩
  · obtain ⟨hok, htwin, hcount, hchanges⟩ := hbTimeout_shown hconds
    exact ⟨_, awake_next _ hres, hok, htwin, hcount, hchanges.queued⟩
  · obtain ⟨hmsg, hup, htrain, hsent, honly⟩ := msgTimeout_trains hpair hprocs hlock
    exact ⟨_, awake_next _ hres, hmsg, hup, htrain, hsent, honly.queued⟩
  · obtain ⟨htrain, -, hsent, hchanges⟩ := startTraining_shown hpair hprocs hlock
    exact ⟨_, awake_runs hres (linkRetrain_down hup), htrain, hsent, hchanges.queued⟩
  · rw [← pairEn_granted s R.TWN_CTRL] at hpair
    rw [← granted_sys s R.TWN_CTRL] at hprocs
    rw [← granted_get s R.TWN_CTRL] at hlock
    obtain ⟨htrain, hretrain, hsent, hchanges⟩ := retrain_trains hpair hprocs hlock
    have hgr := granted_changes s R.TWN_CTRL
    rw [granted_gates, identWords_congr (granted_get _ _ _) (granted_pins _ _) hgr.2 (by decide),
      framePayload_congr (granted_get _ _ _) (granted_pins _ _) (granted_time _ _)] at hsent
    exact ⟨_, awake_fieldAt retrain hw, htrain, hretrain, hsent, (hchanges.mono_parts (by decide)).after_granted (by decide)⟩
  · obtain ⟨hlock, htrain, hsent, honly⟩ := twinPllLock_trains hpair hprocs
    exact ⟨_, awake_next _ hres, hlock, htrain, hsent, honly.queued⟩
  · obtain ⟨hok, hcode, hup⟩ := laneFails_degrades_shown k hpair n.isLt hlanes
    exact ⟨_, awake_next _ hres, hok, hcode, hup, (laneFails_only s n k).queued⟩
  · obtain ⟨hok, hup, hstate⟩ := laneFails_downs_shown k hpair hlanes
    exact ⟨_, awake_next _ hres, hok, hup, hstate, (laneFails_only s n k).queued⟩

end

section
/-! Frames received, and the pairing that they decide (R386, R389 to R391). -/

set_option Elab.async false

namespace Sys2Proof.Machine

/-! ### Frames received (R386) -/

section
variable {s : State} {type : Nat} {rx : LinkRx} {f : State → State}

theorem frameTake_clean (hgood : frameGood type rx = true) (herrs : rx.errs = []) : frameTake s type rx = (s, true) := by
  rw [frameTake, if_pos hgood, herrs]
  rfl

theorem frameTake_bad (hbad : frameGood type rx = false) : frameTake s type rx = (s, false) :=
  if_neg (by rw [hbad]; exact Bool.false_ne_true)

/-- A frame whose checks hold and whose words arrived without an error has its effect. -/
theorem frameUsed_clean (hgood : frameGood type rx = true) (herrs : rx.errs = []) (hpair : pairEn s = true) : frameUsed s type rx f = f s := by
  have hen : s.on F.TWN_CFG_PAIR_EN = true := hpair
  rw [frameUsed, frameTake_clean hgood herrs, hen]
  rfl

/-- A frame whose HCRC or index bytes fail has none. -/
theorem frameUsed_bad (hbad : frameGood type rx = false) : frameUsed s type rx f = s := by
  rw [frameUsed, frameTake_bad hbad]
  exact ite_self s

end

/-! ### Training that concludes (R387) -/

section
variable (s : State)

/-- Both lanes are in use. -/
def bothLanes (s : State) : State := ((s.set F.TWN_STAT_LINK_UP 1).set F.TWN_STAT_LANE_OK 3).set F.TWN_CTRL_RETRAIN 0

theorem bothLanes_changes : Changes [.regs] [R.TWN_STAT, R.TWN_CTRL] s (bothLanes s) := (((Changes.refl _ _ s).set _ _).set _ _).set _ _

theorem conclude_changes : Changes [.regs, .conds, .twin] [R.TWN_STAT, R.TWN_CTRL] s (conclude s) :=
  (((bothLanes_changes s).mono.condEnd _).condEnd _).part (State.twinUp_only _ _)

theorem conclude_twin : (conclude s).twin = { s.twin with concluded := true, train := 0, down := 0 } := by
  unfold conclude
  rw [State.twinUp_twin, State.cond_twin, State.cond_twin, State.set_twin, State.set_twin, State.set_twin]

theorem conclude_linkUp : (conclude s).get F.TWN_STAT_LINK_UP = 1 := by
  unfold conclude
  simp (disch := decide) only [State.get_twinUp, State.get_condEnd, State.get_set_disjoint, State.get_set_lit]

theorem conclude_laneOk : (conclude s).get F.TWN_STAT_LANE_OK = 3 := by
  unfold conclude
  simp (disch := decide) only [State.get_twinUp, State.get_condEnd, State.get_set_disjoint, State.get_set_lit]

theorem conclude_role : (conclude s).get F.TWN_STAT_ROLE = s.get F.TWN_STAT_ROLE := by
  unfold conclude
  simp (disch := decide) only [State.get_twinUp, State.get_condEnd, State.get_set_disjoint]

end

/-! ### A refusal (R391) -/

section
variable {s : State} {r : Nat}

/-- The reason of a refusal stands, before its event. -/
def refusalShown (s : State) (r : Nat) : State := (setPstate (conclude s) psRefused).set F.TWN_STAT_REFUSE r

theorem refusalShown_changes (s : State) (r : Nat) : Changes [.regs, .conds, .twin] [R.TWN_STAT, R.TWN_CTRL] s (refusalShown s r) :=
  ((conclude_changes s).set F.TWN_STAT_PSTATE _).set _ _

theorem refusePair_counts (hnew : pstate s ≠ psRefused) :
    refusePair s r = sendFrame ((refusalShown s r).raise G.TWN_PAIR_REFUSED) frRefuse r [] := by
  have hne : (pstate s != psRefused) = true := bne_iff_ne.mpr hnew
  rw [refusePair, hne]
  rfl

theorem refusalCounted_changes (s : State) (r : Nat) : Changes [.regs, .conds, .twin]
    [R.TWN_STAT, R.TWN_CTRL, G.TWN_PAIR_REFUSED.ptr, G.TWN_PAIR_REFUSED.cptr] s ((refusalShown s r).raise G.TWN_PAIR_REFUSED) :=
  (refusalShown_changes s r).mono.raise _

theorem refusalCounted_role (s : State) (r : Nat) :
    ((refusalShown s r).raise G.TWN_PAIR_REFUSED).get F.TWN_STAT_ROLE = s.get F.TWN_STAT_ROLE := by
  unfold refusalShown setPstate
  simp (disch := decide) only [State.get_raise_disjoint, State.get_set_disjoint, conclude_role]

theorem refusePair_pstate (hnew : pstate s ≠ psRefused) : pstate (refusePair s r) = psRefused := by
  rw [refusePair_counts hnew, pstate, State.get_sendFrame]
  unfold refusalShown setPstate psRefused
  simp (disch := decide) only [State.get_raise_disjoint, State.get_set_disjoint, State.get_set_lit]

theorem refusePair_reason (hnew : pstate s ≠ psRefused) (hr : r < 16) : (refusePair s r).get F.TWN_STAT_REFUSE = r := by
  rw [refusePair_counts hnew, State.get_sendFrame, State.get_raise_disjoint _ (by decide) (by decide), refusalShown,
    State.get_set_lit _ (by decide) hr]

theorem refusePair_counted (hnew : pstate s ≠ psRefused) : counted G.TWN_PAIR_REFUSED s (refusePair s r) := by
  rw [refusePair_counts hnew]
  exact (counted_raise_of ((refusalShown_changes s r).2.get _)).of_regs rfl

theorem refusePair_gates (hnew : pstate s ≠ psRefused) :
    (refusePair s r).gates = s.gates.modify (gateIdx .gt1) (· ++ [framePayload s frRefuse r []]) := by
  obtain ⟨hparts, -⟩ := refusalCounted_changes s r
  rw [refusePair_counts hnew, sendFrame_eq,
    framePayload_congr (refusalCounted_role s r) (hparts .pins (by decide)) (hparts .time (by decide)), hparts .gates (by decide)]

theorem refusePair_shows (hnew : pstate s ≠ psRefused) (hr : r < 16) :
    pstate (refusePair s r) = psRefused ∧ (refusePair s r).get F.TWN_STAT_REFUSE = r ∧ counted G.TWN_PAIR_REFUSED s (refusePair s r) ∧
      (refusePair s r).gates = s.gates.modify (gateIdx .gt1) (· ++ [framePayload s frRefuse r []]) ∧
      Only [.regs, .conds, .gates, .twin] s (refusePair s r) :=
  ⟨refusePair_pstate hnew, refusePair_reason hnew hr, refusePair_counted hnew, refusePair_gates hnew, refusePair_only s r⟩

end

/-! ### A resynchronization that is asked for (R407) -/

section
variable (s : State)

/-- The standby waits for a resynchronization, before RSREQ. -/
def resyncAwaited (s : State) : State := (setPstate s psResync).twinUp fun t => { t with bR := none, got := none, settle := 0 }

theorem resyncAwaited_changes : Changes [.regs, .twin] [R.TWN_STAT] s (resyncAwaited s) :=
  ((Changes.refl _ _ s).set F.TWN_STAT_PSTATE _).part (State.twinUp_only _ _)

theorem requestResync_eq : requestResync s = sendFrame (resyncAwaited s) frRsreq 0 [] := rfl

theorem requestResync_get {f : Fld} (hf : F.TWN_STAT_PSTATE.disjoint f) : (requestResync s).get f = s.get f := by
  rw [requestResync_eq, State.get_sendFrame, resyncAwaited, State.get_twinUp, setPstate, State.get_set_disjoint _ _ hf]

theorem requestResync_pstate : pstate (requestResync s) = psResync := by
  rw [requestResync_eq, pstate, State.get_sendFrame, resyncAwaited, State.get_twinUp, setPstate, State.get_set_lit _ (by decide) (by decide)]

theorem requestResync_twin : (requestResync s).twin = { s.twin with bR := none, got := none, settle := 0 } := by
  rw [requestResync_eq, (sendFrame_gatesOnly _ _ _ _) .twin (by decide), resyncAwaited, State.twinUp_twin, setPstate, State.set_twin]

theorem requestResync_gates :
    (requestResync s).gates = s.gates.modify (gateIdx .gt1) (· ++ [framePayload s frRsreq 0 []]) := by
  obtain ⟨hparts, -⟩ := resyncAwaited_changes s
  have hrole : (resyncAwaited s).get F.TWN_STAT_ROLE = s.get F.TWN_STAT_ROLE := by
    rw [resyncAwaited, State.get_twinUp, setPstate, State.get_set_disjoint _ _ (by decide)]
  rw [requestResync_eq, sendFrame_eq, framePayload_congr hrole (hparts .pins (by decide)) (hparts .time (by decide)),
    hparts .gates (by decide)]

theorem requestResync_changes : Changes [.regs, .gates, .twin] [R.TWN_STAT] s (requestResync s) :=
  (resyncAwaited_changes s).mono.part (sendFrame_gatesOnly _ _ _ _)

end

/-! ### A pairing that is accepted (R390) -/

section
variable {s : State} {x : Ident}

/-- The partner is accepted, before PSTATE shows it. -/
def partnerTaken (s : State) (x : Ident) : State :=
  ((conclude s).set F.TWN_STAT_REFUSE 0).twinUp fun t => { t with accepted := true, firstMark := true, pDevnum := x.devnum, diverged := 0 }

theorem partnerTaken_changes (s : State) (x : Ident) : Changes [.regs, .conds, .twin] [R.TWN_STAT, R.TWN_CTRL] s (partnerTaken s x) :=
  ((conclude_changes s).set _ _).part (State.twinUp_only _ _)

theorem partnerTaken_get (s : State) (x : Ident) {f : Fld} (hf : F.TWN_STAT_REFUSE.disjoint f) :
    (partnerTaken s x).get f = (conclude s).get f := by
  rw [partnerTaken, State.get_twinUp, State.get_set_disjoint _ _ hf]

theorem partnerTaken_refuse (s : State) (x : Ident) : (partnerTaken s x).get F.TWN_STAT_REFUSE = 0 := by
  rw [partnerTaken, State.get_twinUp, State.get_set_lit _ (by decide) (by decide)]

theorem partnerTaken_twin (s : State) (x : Ident) : (partnerTaken s x).twin =
    { (conclude s).twin with accepted := true, firstMark := true, pDevnum := x.devnum, diverged := 0 } := by
  rw [partnerTaken, State.twinUp_twin, State.set_twin]

/-- A partner that owns nothing makes a pair. -/
theorem acceptPair_pairs (howner : x.owner = false) : acceptPair s x = setPstate (partnerTaken s x) psPaired :=
  if_neg (by rw [howner]; exact Bool.false_ne_true)

/-- The standby of an owner asks for a resynchronization. -/
theorem acceptPair_resyncs (hpartner : x.owner = true) (howner : owner s = false) :
    acceptPair s x = requestResync (partnerTaken s x) := by
  unfold acceptPair
  rw [hpartner, howner]
  rfl

theorem identRx_decides (hpair : pairEn s = true) (htrain : pstate s = psTrain) :
    identRx s x = if pairReason s x = 0 then acceptPair s x else refusePair s (pairReason s x) := by
  have hrefused : ¬ psTrain = psRefused := by decide
  unfold identRx
  rw [hpair, htrain]
  dsimp only
  rw [if_neg hrefused]
  rfl

/-- The reason in the words of R390. -/
theorem pairReason_eq (s : State) (x : Ident) :
    pairReason s x = if x.role = roleB s then 1 else if x.sysId ≠ s.rd R.SYS_ID then 2 else if x.digest.toNat ≠ ownDigest s then 3 else 0 := by
  unfold pairReason
  simp only [beq_iff_eq, bne_iff_ne]

theorem pairReason_le (s : State) (x : Ident) : pairReason s x ≤ 3 := by
  rw [pairReason_eq]
  split_ifs <;> decide

theorem pairReason_zero (hrole : x.role ≠ roleB s) (hsys : x.sysId = s.rd R.SYS_ID) (hdigest : x.digest.toNat = ownDigest s) :
    pairReason s x = 0 := by
  rw [pairReason_eq, if_neg hrole, if_neg (not_not.mpr hsys), if_neg (not_not.mpr hdigest)]

end

end Sys2Proof.Machine

open Sys2Proof Sys2Proof.Machine in
/-- Settles O31, a frame at a time: an IDENT that is accepted by a pair and by the standby of an owner, one that is refused, a REFUSE, the two
frames whose checks fail, and the repetition. -/
theorem twinPairing : Obligations.TwinPairing := by
  unfold Obligations.TwinPairing
  intro s rx hres herrs
  refine ⟨fun x hgood hpair htrain hrole hsys hdigest howner => ?_, fun x hgood hpair htrain hrole hsys hdigest hpartner howner => ?_,
    fun x r hgood hpair htrain hr hreason => ?_, fun r hgood hr hpair hnew => ?_, fun x hbad => awake_idle (frameUsed_bad hbad),
    fun hbad => awake_idle (frameUsed_bad hbad), fun hrefused => ?_⟩
  · have hends := (frameUsed_clean (f := fun t => identRx t x) hgood herrs hpair).trans (identRx_decides hpair htrain)
    rw [if_pos (pairReason_zero hrole hsys hdigest), acceptPair_pairs howner] at hends
    have hkept {f : Fld} (hf : F.TWN_STAT_PSTATE.disjoint f) :
        (setPstate (partnerTaken s x) psPaired).get f = (partnerTaken s x).get f := State.get_set_disjoint _ _ hf
    refine awake_ends hres hends ⟨State.get_set_lit _ (by decide) (by decide), ?_, ?_, ?_, ?_, ?_, ?_, ?_⟩
      fun _ ⟨hstate, hup, hok, hrefuse, haccepted, hdevnum, hgates, honly⟩ =>
        ⟨hstate, hup, hok, hrefuse, haccepted, hdevnum, hgates, honly.queued⟩
    · rw [hkept (by decide), partnerTaken_get _ _ (by decide), conclude_linkUp]
    · rw [hkept (by decide), partnerTaken_get _ _ (by decide), conclude_laneOk]
    · rw [hkept (by decide), partnerTaken_refuse]
    · rw [setPstate, State.set_twin, partnerTaken_twin]
    · rw [setPstate, State.set_twin, partnerTaken_twin]
    · rw [setPstate, State.set_gates, (partnerTaken_changes s x).1 .gates (by decide)]
    · exact ((partnerTaken_changes s x).set F.TWN_STAT_PSTATE _).1
  · have hends := (frameUsed_clean (f := fun t => identRx t x) hgood herrs hpair).trans (identRx_decides hpair htrain)
    rw [if_pos (pairReason_zero hrole hsys hdigest), acceptPair_resyncs hpartner howner] at hends
    obtain ⟨hparts, -⟩ := partnerTaken_changes s x
    refine awake_ends hres hends ⟨requestResync_pstate _, ?_, ?_, ?_, ?_⟩
      fun _ ⟨hstate, hup, haccepted, hgates, honly⟩ => ⟨hstate, hup, haccepted, hgates, honly.queued⟩
    · rw [requestResync_get _ (by decide), partnerTaken_get _ _ (by decide), conclude_linkUp]
    · rw [requestResync_twin, partnerTaken_twin]
    · have hrole' := (partnerTaken_get s x (f := F.TWN_STAT_ROLE) (by decide)).trans (conclude_role s)
      rw [requestResync_gates, framePayload_congr hrole' (hparts .pins (by decide)) (hparts .time (by decide)), hparts .gates (by decide)]
    · exact (hparts.mono (by decide)).step (requestResync_changes _).1 (by decide)
  · rw [← pairReason_eq] at hreason
    subst hreason
    have hends := (frameUsed_clean (f := fun t => identRx t x) hgood herrs hpair).trans (identRx_decides hpair htrain)
    rw [if_neg hr] at hends
    have hnew : pstate s ≠ psRefused := htrain ▸ (by decide)
    exact awake_ends hres hends (refusePair_shows hnew (Nat.lt_of_le_of_lt (pairReason_le s x) (by decide)))
      fun _ ⟨hstate, hrefuse, hcount, hgates, honly⟩ => ⟨hstate, hrefuse, hcount, hgates, honly.queued⟩
  · have hends := frameUsed_clean (f := fun t => refuseRx t (rx.head.flags.toNat % 16)) hgood herrs hpair
    have hrefuses : refuseRx s (rx.head.flags.toNat % 16) = refusePair s r := by
      unfold refuseRx
      rw [hpair, decide_eq_false hnew, ← hr]
      rfl
    exact awake_ends hres (hends.trans hrefuses) (refusePair_shows hnew (hr ▸ Nat.mod_lt _ (by decide)))
      fun _ ⟨hstate, hrefuse, hcount, hgates, honly⟩ => ⟨hstate, hrefuse, hcount, hgates, honly.queued⟩
  · exact awake_ends hres (if_pos hrefused) ⟨congrArg State.gates (sendFrame_eq _ _ _ _), sendFrame_gatesOnly _ _ _ _, OnlyRegs.refl _ _⟩
      fun _ ⟨hgates, hchanges⟩ => ⟨hgates, hchanges.queued⟩

end

section
/-! Messages of the pair, the marker loop, and the configuration digest (R388, R392 to R395, R403). -/

set_option Elab.async false

namespace Sys2Proof.Machine

/-! ### Signed fields -/

/-- A pattern reads back as the integer it stands for, where the width holds it. -/
theorem signed_pattern {w : Nat} {x : Int} (hw : 0 < w) (hlo : -2 ^ (w - 1) ≤ x) (hhi : x < 2 ^ (w - 1)) : signed w (pattern w x) = x := by
  obtain ⟨k, rfl⟩ : ∃ k, w = k + 1 := ⟨w - 1, by omega⟩
  rw [Nat.add_sub_cancel] at hlo hhi
  have hpow : (2 : Int) ^ (k + 1) = 2 * 2 ^ k := by ring
  have hpowN : (2 : Nat) ^ (k + 1) = 2 * 2 ^ k := by ring
  have hcast : ((2 ^ k : Nat) : Int) = 2 ^ k := by push_cast; rfl
  have hlt := pattern_lt (k + 1) x
  have hsmall : pattern (k + 1) x % 2 ^ (k + 1) = pattern (k + 1) x := Nat.mod_eq_of_lt hlt
  unfold signed
  dsimp only
  rw [hsmall, Nat.add_sub_cancel]
  unfold pattern
  rw [hpow]
  rcases Int.lt_or_le x 0 with hneg | hpos
  · have hmod : x % (2 * 2 ^ k) = x + 2 * 2 ^ k := by
      have hshift := Int.add_mul_emod_self_left x (2 * 2 ^ k) 1
      rw [mul_one] at hshift
      rw [← hshift]
      exact Int.emod_eq_of_lt (by omega) (by omega)
    rw [hmod, if_neg (by omega)]
    omega
  · have hmod : x % (2 * 2 ^ k) = x := Int.emod_eq_of_lt hpos (by omega)
    rw [hmod, if_pos (by omega)]
    omega

theorem satS_of_fits {w : Nat} {x : Int} (hlo : -2 ^ (w - 1) ≤ x) (hhi : x < 2 ^ (w - 1)) : satS w x = x := by
  unfold satS clampI
  rw [if_neg (by omega), if_neg (by omega)]

/-! ### The heartbeat message (R388, R403) -/

section
variable {s : State} (w : Quad)

/-- The partner's state as its message gives it. -/
def partnerShown (s : State) (w : Quad) : State :=
  ((s.setB F.TWN_STAT_P_OWNER (w.toNat.testBit 79)).setB F.TWN_STAT_P_READY (w.toNat.testBit 77)).wr R.TWN_PDIG
    (BitVec.ofNat 32 (w.toNat / 2 ^ 32))

/-- A message received, before two owners are told apart. -/
def messageTaken (s : State) (w : Quad) : State :=
  (((partnerShown s w).set F.TWN_STAT_MSG_OK 1).cond G.TWN_MSG_LOST false).twinUp fun t =>
    { t with pSnapOk := w.toNat.testBit 76, pDevSafe := w.toNat.testBit 78,
             setBlock := t.setBlock.map fun _ => (w.toNat / 2 ^ 80 + 1) % 2 ^ 48 }

theorem partnerShown_changes (s : State) (w : Quad) : Changes [.regs] [R.TWN_STAT, R.TWN_PDIG] s (partnerShown s w) :=
  (((Changes.refl _ _ s).setB _ _).setB _ _).wr _ _

theorem messageTaken_changes (s : State) (w : Quad) : Changes [.regs, .conds, .twin] [R.TWN_STAT, R.TWN_PDIG] s (messageTaken s w) :=
  (((partnerShown_changes s w).mono.set _ _).condEnd _).part (State.twinUp_only _ _)

theorem partnerShown_get (s : State) (w : Quad) {f : Fld} (hf : f.ptr ≠ R.TWN_PDIG) :
    (partnerShown s w).get f = ((s.setB F.TWN_STAT_P_OWNER (w.toNat.testBit 79)).setB F.TWN_STAT_P_READY (w.toNat.testBit 77)).get f :=
  ((Changes.refl [.regs] [R.TWN_PDIG] _).wr _ _).2.get f (by simpa using hf)

theorem messageTaken_get (s : State) (w : Quad) {f : Fld} (hf : F.TWN_STAT_MSG_OK.disjoint f) :
    (messageTaken s w).get f = (partnerShown s w).get f := by
  rw [messageTaken, State.get_twinUp, State.get_condEnd, State.get_set_disjoint _ _ hf]

theorem messageTaken_owner (s : State) (w : Quad) :
    (messageTaken s w).get F.TWN_STAT_P_OWNER = if w.toNat.testBit 79 then 1 else 0 := by
  rw [messageTaken_get _ _ (by decide), partnerShown_get _ _ (by decide), State.get_setB_disjoint _ _ (by decide),
    State.get_setB_self _ _ (by decide)]

theorem messageTaken_ready (s : State) (w : Quad) :
    (messageTaken s w).get F.TWN_STAT_P_READY = if w.toNat.testBit 77 then 1 else 0 := by
  rw [messageTaken_get _ _ (by decide), partnerShown_get _ _ (by decide), State.get_setB_self _ _ (by decide)]

theorem messageTaken_role (s : State) (w : Quad) : (messageTaken s w).get F.TWN_STAT_ROLE = s.get F.TWN_STAT_ROLE := by
  rw [messageTaken_get _ _ (by decide), partnerShown_get _ _ (by decide), State.get_setB_disjoint _ _ (by decide),
    State.get_setB_disjoint _ _ (by decide)]

theorem messageTaken_msgOk (s : State) (w : Quad) : (messageTaken s w).get F.TWN_STAT_MSG_OK = 1 := by
  rw [messageTaken, State.get_twinUp, State.get_condEnd, State.get_set_lit _ (by decide) (by decide)]

theorem messageTaken_digest (s : State) (w : Quad) : (messageTaken s w).rd R.TWN_PDIG = BitVec.ofNat 32 (w.toNat / 2 ^ 32) := by
  have hkeeps : Changes [.regs, .conds, .twin] [R.TWN_STAT] (partnerShown s w) (messageTaken s w) :=
    (((Changes.refl _ _ _).set _ _).condEnd _).part (State.twinUp_only _ _)
  rw [hkeeps.2 R.TWN_PDIG (by decide)]
  exact State.rd_wr_same _ _ _

theorem messageTaken_twin (s : State) (w : Quad) : (messageTaken s w).twin =
    { s.twin with
      pSnapOk := w.toNat.testBit 76, pDevSafe := w.toNat.testBit 78
      setBlock := s.twin.setBlock.map fun _ => (w.toNat / 2 ^ 80 + 1) % 2 ^ 48 } := by
  rw [messageTaken, State.twinUp_twin, State.cond_twin, State.set_twin, (partnerShown_changes s w).1 .twin (by decide)]

theorem hbmRx_eq (hpair : pairEn s = true) (hup : linkUp s = true) (hstate : pstate s ≠ psRefused) :
    hbmRx s w = if owner s && w.toNat.testBit 79 then
      (if roleB s then giveUp ((messageTaken s w).raise G.TWN_DUAL_OWNER) else (messageTaken s w).raise G.TWN_DUAL_OWNER)
    else messageTaken s w := by
  have howner : owner (messageTaken s w) = owner s := congrArg Pins.own ((messageTaken_changes s w).1 .pins (by decide))
  have hrole : roleB ((messageTaken s w).raise G.TWN_DUAL_OWNER) = roleB s := by
    rw [roleB, State.on, State.get_raise_disjoint _ (by decide) (by decide), messageTaken_role]
    rfl
  have hgo : (!pairEn s || !linkUp s || decide (pstate s = psRefused)) = false := by
    rw [hpair, hup, decide_eq_false hstate]
    rfl
  rw [← howner, ← hrole]
  unfold hbmRx messageTaken partnerShown
  simp only [hgo, Bool.false_eq_true, if_false]

end

/-! ### The marker loop (R392 to R395) -/

section
variable {s : State} {low : Nat} {err : Int}

/-- A marker seen: its error shows, and the loop runs. -/
def markSeen (s : State) (err : Int) : State :=
  (s.set F.TWN_MARK_ERR (pattern 16 (satS 16 err))).twinUp fun t => { t with firstMark := false, marking := true, markAge := 0 }

theorem markSeen_changes (s : State) (err : Int) : Changes [.regs, .twin] [R.TWN_MARK] s (markSeen s err) :=
  ((Changes.refl _ _ s).set _ _).part (State.twinUp_only _ _)

theorem markSeen_err (s : State) (err : Int) : (markSeen s err).get F.TWN_MARK_ERR = pattern 16 (satS 16 err) := by
  rw [markSeen, State.get_twinUp, State.get_set_lit _ (by decide) (pattern_lt 16 _)]

theorem markSeen_twin (s : State) (err : Int) :
    (markSeen s err).twin = { s.twin with firstMark := false, marking := true, markAge := 0 } := by
  rw [markSeen, State.twinUp_twin, State.set_twin]

/-- The marker loop's correction, bounded (R394). -/
def markCorr (s : State) (err : Int) : Int := clampI (-10000) 10000 (signed 16 (markSeen s err).freshWord.toNat)

/-- A marker in range corrects the frequency. -/
def markCorrected (s : State) (err : Int) : State := ((markSeen s err).set F.TWN_MARK_CORR (pattern 16 (markCorr s err))).used

/-- A marker out of range asks for the block index. -/
def markMissed (s : State) (low : Nat) (err : Int) : State :=
  (markSeen s err).twinUp fun t => { t with setBlock := some ((nearestIndex s low + 1) % 2 ^ 48) }

theorem markRx_eq (hpair : pairEn s = true) (howner : owner s = false) (hconcluded : s.twin.concluded = true) (hstate : pstate s ≠ psRefused)
    (hfirst : s.twin.firstMark = false) :
    markRx s low err = if 1024 < err.natAbs then
      (if pstate (markMissed s low err) = psPaired then requestResync (markMissed s low err) else markMissed s low err)
    else (markCorrected s err).raiseIf (decide (32 < err.natAbs)) G.TWN_MARK_ERR := by
  have hfirst' : (s.set F.TWN_MARK_ERR (pattern 16 (satS 16 err))).twin.firstMark = false :=
    (congrArg Twin.firstMark (State.set_twin _ _ _)).trans hfirst
  have hnot : (!pairEn s || owner s || !s.twin.concluded || decide (pstate s = psRefused)) = false := by
    rw [hpair, howner, hconcluded, decide_eq_false hstate]
    rfl
  unfold markRx
  by_cases hfar : 1024 < err.natAbs
  · by_cases hpaired : pstate (markMissed s low err) = psPaired <;>
      simp only [markMissed, markSeen] at hpaired <;>
      simp only [hnot, hfirst', hfar, hpaired, Bool.false_or, decide_true, Bool.false_eq_true, if_false, if_true, markMissed, markSeen]
  · simp only [hnot, hfirst', hfar, Bool.false_or, decide_false, Bool.false_eq_true, if_false, markCorrected, markCorr, markSeen]

theorem markCorrected_changes (s : State) (err : Int) : Changes [.regs, .free, .twin] [R.TWN_MARK] s (markCorrected s err) :=
  ((markSeen_changes s err).mono.set _ _).part (State.used_only _)

theorem markCorr_mem (s : State) (err : Int) : -10000 ≤ markCorr s err ∧ markCorr s err ≤ 10000 := clampI_mem _ (by decide)

theorem markCorrected_corr (s : State) (err : Int) : (markCorrected s err).getS F.TWN_MARK_CORR = markCorr s err := by
  obtain ⟨hlo, hhi⟩ := markCorr_mem s err
  rw [markCorrected, State.used_getS, State.getS, State.get_set_lit _ (by decide) (pattern_lt 16 _)]
  exact signed_pattern (w := 16) (by decide) (by omega) (by omega)

theorem markCorrected_err (s : State) (err : Int) : (markCorrected s err).get F.TWN_MARK_ERR = pattern 16 (satS 16 err) := by
  rw [markCorrected, State.used_get, State.get_set_disjoint _ _ (by decide), markSeen_err]

theorem markCorrected_twin (s : State) (err : Int) :
    (markCorrected s err).twin = { s.twin with firstMark := false, marking := true, markAge := 0 } := by
  rw [markCorrected, State.used_twin, State.set_twin, markSeen_twin]

theorem State.raiseIf_changes (s : State) (b : Bool) (g : Flag) : Changes [.regs] [g.ptr, g.cptr] s (s.raiseIf b g) :=
  ((Changes.refl _ _ s).raise g).ite (Changes.refl _ _ s)

theorem State.get_raiseIf_disjoint {f : Fld} {g : Flag} (s : State) (b : Bool) (hflag : g.flagField.disjoint f)
    (hcount : g.countField.disjoint f) : (s.raiseIf b g).get f = s.get f := by
  unfold State.raiseIf
  rw [State.get_ite, State.get_raise_disjoint _ hflag hcount, ite_self]

theorem markMissed_changes (s : State) (low : Nat) (err : Int) : Changes [.regs, .twin] [R.TWN_MARK] s (markMissed s low err) :=
  (markSeen_changes s err).part (State.twinUp_only _ _)

theorem markMissed_err (s : State) (low : Nat) (err : Int) : (markMissed s low err).get F.TWN_MARK_ERR = pattern 16 (satS 16 err) := by
  rw [markMissed, State.get_twinUp, markSeen_err]

theorem markMissed_pstate (s : State) (low : Nat) (err : Int) : pstate (markMissed s low err) = pstate s :=
  (markMissed_changes s low err).2.get F.TWN_STAT_PSTATE

theorem markMissed_setBlock (s : State) (low : Nat) (err : Int) :
    (markMissed s low err).twin.setBlock = some ((nearestIndex s low + 1) % 2 ^ 48) := by
  rw [markMissed, State.twinUp_twin]

/-- A paired unit whose marker is out of range asks for a resynchronization too. -/
theorem markMissed_shows (s : State) (low : Nat) (err : Int) {t : State}
    (ht : t = if pstate (markMissed s low err) = psPaired then requestResync (markMissed s low err) else markMissed s low err) :
    t.get F.TWN_MARK_ERR = pattern 16 (satS 16 err) ∧ t.twin.setBlock = some ((nearestIndex s low + 1) % 2 ^ 48) ∧
      pstate t = (if pstate s = psPaired then psResync else pstate s) ∧ Changes [.regs, .gates, .twin] [R.TWN_MARK, R.TWN_STAT] s t := by
  rw [markMissed_pstate] at ht
  subst ht
  split
  · refine ⟨?_, ?_, requestResync_pstate _, ?_⟩
    · rw [requestResync_get _ (by decide), markMissed_err]
    · rw [requestResync_twin]
      exact markMissed_setBlock s low err
    · exact (markMissed_changes s low err).mono.trans (requestResync_changes _).mono
  · exact ⟨markMissed_err s low err, markMissed_setBlock s low err, markMissed_pstate s low err, (markMissed_changes s low err).mono⟩

end

/-! ### The configuration digest (R393) -/

section
variable {s : State}

/-- CFG_DIG stands in its register. -/
def digestShown (s : State) : State := s.wr R.TWN_CDIG (cfgDigest s)

theorem digestShown_changes (s : State) : Changes [.regs] [R.TWN_CDIG] s (digestShown s) := (Changes.refl _ _ s).wr _ _

theorem digestShown_digest (s : State) : (digestShown s).rd R.TWN_CDIG = cfgDigest s := State.rd_wr_same _ _ _

theorem pairEn_digestShown (s : State) : pairEn (digestShown s) = pairEn s := by
  rw [pairEn, State.on, (digestShown_changes s).2.get F.TWN_CFG_PAIR_EN]
  rfl

theorem linkUp_digestShown (s : State) : linkUp (digestShown s) = linkUp s := by
  rw [linkUp, State.on, (digestShown_changes s).2.get F.TWN_STAT_LINK_UP]
  rfl

theorem digestNow_alone (hpair : pairEn s = false) : digestNow s = digestShown s := by
  have hoff : pairEn (digestShown s) = false := (pairEn_digestShown s).trans hpair
  unfold digestShown at hoff
  rw [digestNow]
  dsimp only
  rw [hoff]
  rfl

/-- The differences in a row, with this comparison. -/
def digestRow (s : State) : Nat := if cfgDigest s = s.rd R.TWN_PDIG then 0 else s.twin.diverged + 1

/-- The comparison counts, before CFG_DIVERGED. -/
def digestCompared (s : State) : State := (digestShown s).twinUp fun t => { t with diverged := digestRow s }

theorem digestNow_compares (hpair : pairEn s = true) (hup : linkUp s = true) (hstate : pstate s ≠ psRefused) :
    digestNow s = (digestCompared s).cond G.TWN_CFG_DIVERGED (decide (2 ≤ digestRow s)) := by
  have hkept := (digestShown_changes s).2
  have hpair' : pairEn (digestShown s) = true := (pairEn_digestShown s).trans hpair
  have hup' : linkUp (digestShown s) = true := (linkUp_digestShown s).trans hup
  have hstate' : pstate (digestShown s) ≠ psRefused := fun h => hstate ((hkept.get F.TWN_STAT_PSTATE).symm.trans h)
  have hrow : (if (digestShown s).rd R.TWN_CDIG = (digestShown s).rd R.TWN_PDIG then 0 else (digestShown s).twin.diverged + 1) = digestRow s := by
    rw [digestShown_digest, hkept R.TWN_PDIG (by decide), (digestShown_changes s).1 .twin (by decide)]
    rfl
  have hgo : (!pairEn (digestShown s) || !linkUp (digestShown s) || decide (pstate (digestShown s) = psRefused)) = false := by
    rw [hpair', hup', decide_eq_false hstate']
    rfl
  unfold digestCompared
  rw [← hrow]
  exact if_neg (hgo ▸ Bool.false_ne_true)

theorem digestCompared_changes (s : State) : Changes [.regs, .twin] [R.TWN_CDIG] s (digestCompared s) :=
  (digestShown_changes s).mono.part (State.twinUp_only _ _)

theorem digestCompared_digest (s : State) : (digestCompared s).rd R.TWN_CDIG = cfgDigest s := by
  rw [digestCompared, State.twinUp_rd, digestShown_digest]

theorem digestCompared_twin (s : State) : (digestCompared s).twin = { s.twin with diverged := digestRow s } := by
  rw [digestCompared, State.twinUp_twin, (digestShown_changes s).1 .twin (by decide)]

end

/-! ### Giving OWN_N up (R403) -/

section
variable (s : State)

theorem releaseOwn_changes : Changes [.regs, .pins] [R.TWN_STAT] s (releaseOwn s) :=
  ((Changes.refl _ _ s).part (m := [.pins]) (only_with_pins s _)).setB _ _

theorem giveUp_changes : Changes [.regs, .pins, .twin] [R.TWN_STAT] s (giveUp s) :=
  (releaseOwn_changes s).mono.part (State.twinUp_only _ _)

theorem giveUp_pins : (giveUp s).pins = { s.pins with own := false, released := false } := by
  rw [giveUp, State.twinUp_pins]
  rfl

end

/-- Two owners: one event counts, and unit B alone gives OWN_N up. -/
theorem dualOwner_shows {s t : State} (w : Quad) (howner : owner s = true) (ht : t = if roleB s then
    giveUp ((messageTaken s w).raise G.TWN_DUAL_OWNER) else (messageTaken s w).raise G.TWN_DUAL_OWNER) :
    counted G.TWN_DUAL_OWNER s t ∧ t.pins.own = (!roleB s) ∧ (roleB s = true → s.sys.boundaryScan = false → gatesLow t = true) ∧
      Only [.regs, .conds, .pins, .twin] s t := by
  have htaken := messageTaken_changes s w
  have hraised : Changes [.regs, .conds, .twin] [R.TWN_STAT, R.TWN_PDIG, G.TWN_DUAL_OWNER.ptr, G.TWN_DUAL_OWNER.cptr] s
      ((messageTaken s w).raise G.TWN_DUAL_OWNER) := htaken.mono.raise _
  have hcount : counted G.TWN_DUAL_OWNER s ((messageTaken s w).raise G.TWN_DUAL_OWNER) := counted_raise_of (htaken.2.get _)
  have hsys := hraised.1 .sys (by decide)
  have hpins := hraised.1 .pins (by decide)
  subst ht
  by_cases hrole : roleB s = true
  · have hgave := giveUp_changes ((messageTaken s w).raise G.TWN_DUAL_OWNER)
    have hown : (giveUp ((messageTaken s w).raise G.TWN_DUAL_OWNER)).pins.own = false := congrArg Pins.own (giveUp_pins _)
    rw [if_pos hrole]
    refine ⟨hcount.onlyRegs hgave.2, hown.trans (by rw [hrole]; rfl), fun _ hscan => gatesLow_of_own_released ?_ hown, ?_⟩
    · exact (congrArg Sys.boundaryScan ((hgave.1 .sys (by decide)).trans hsys)).trans hscan
    · exact (hraised.1.mono (by decide)).step hgave.1 (by decide)
  · rw [if_neg hrole]
    refine ⟨hcount, ?_, fun h => absurd h hrole, hraised.1.mono (by decide)⟩
    rw [Bool.not_eq_true] at hrole
    exact (congrArg Pins.own hpins).trans (howner.trans (by rw [hrole]; rfl))

end Sys2Proof.Machine

open Sys2Proof Sys2Proof.Machine in
/-- Settles O32: the two frames that fail their checks, the heartbeat message with one owner and with two, the marker in and out of range, the
loop that freezes, and the digest alone and compared. -/
theorem twinMessages : Obligations.TwinMessages := by
  unfold Obligations.TwinMessages
  intro s rx hres herrs
  refine ⟨fun w hbad => awake_idle (frameUsed_bad hbad), fun e hbad => awake_idle (frameUsed_bad hbad),
    fun w hgood hpair hup hstate hone => ?_, fun w hgood hpair hup hstate hpartner howner => ?_,
    fun e hgood hpair howner hconcluded hstate hfirst herr => ?_, fun e hgood hpair howner hconcluded hstate hfirst herr => ?_, ?_,
    fun hpair => ?_, fun hpair hup hstate => ?_⟩
  · have hends := (frameUsed_clean (f := fun t => hbmRx t w) hgood herrs hpair).trans (hbmRx_eq w hpair hup hstate)
    have hnot : ¬ (owner s && w.toNat.testBit 79) = true := by
      rw [Bool.and_eq_true, not_and, Bool.not_eq_true]
      exact fun howner => hone.resolve_right (by rw [howner]; decide)
    rw [if_neg hnot] at hends
    exact awake_ends hres hends ⟨messageTaken_owner s w, messageTaken_ready s w, messageTaken_digest s w, messageTaken_msgOk s w,
      messageTaken_twin s w, messageTaken_changes s w⟩
      fun _ ⟨hshown, hready, hdigest, hok, htwin, hchanges⟩ => ⟨hshown, hready, hdigest, hok, htwin, hchanges.queued⟩
  · have hends := (frameUsed_clean (f := fun t => hbmRx t w) hgood herrs hpair).trans (hbmRx_eq w hpair hup hstate)
    rw [howner, hpartner, if_pos (by decide)] at hends
    exact awake_ends hres hends (dualOwner_shows w howner rfl)
      fun _ ⟨hcount, hown, hlow, honly⟩ => ⟨hcount, hown, hlow, honly.queued⟩
  · have hends := (frameUsed_clean (f := fun t => markRx t rx.head.blk.toNat e) hgood herrs hpair).trans
      (markRx_eq hpair howner hconcluded hstate hfirst)
    rw [if_neg (by omega)] at hends
    obtain ⟨hlo, hhi⟩ := markCorr_mem s e
    have hcorrected := markCorrected_changes s e
    have hraised := State.raiseIf_changes (markCorrected s e) (decide (32 < e.natAbs)) G.TWN_MARK_ERR
    have hcorr : ((markCorrected s e).raiseIf (decide (32 < e.natAbs)) G.TWN_MARK_ERR).getS F.TWN_MARK_CORR = markCorr s e := by
      rw [← markCorrected_corr, State.getS, hraised.2.get F.TWN_MARK_CORR]
      rfl
    have htwin := (hraised.1 .twin (by decide)).trans (markCorrected_twin s e)
    refine awake_ends hres hends ⟨?_, hlo.trans_eq hcorr.symm, hcorr.trans_le hhi, fun hbig => ?_, congrArg Twin.marking htwin, congrArg Twin.markAge htwin, ?_⟩
      fun _ ⟨hshown, hlow, hhigh, hcount, hmarking, hage, hchanges⟩ => ⟨hshown, hlow, hhigh, hcount, hmarking, hage, hchanges.queued⟩
    · rw [hraised.2.get F.TWN_MARK_ERR, markCorrected_err, satS_of_fits (by omega) (by omega)]
    · rw [decide_eq_true hbig]
      exact counted_raise_of (hcorrected.2.get _)
    · exact hcorrected.mono.trans hraised.mono
  · have hends := (frameUsed_clean (f := fun t => markRx t rx.head.blk.toNat e) hgood herrs hpair).trans
      (markRx_eq hpair howner hconcluded hstate hfirst)
    rw [if_pos herr] at hends
    exact awake_ends hres hends (markMissed_shows s _ e rfl)
      fun _ ⟨hshown, hblock, hnow, hchanges⟩ => ⟨hshown, hblock, hnow, hchanges.queued⟩
  · exact awake_ends hres (v := markerTimeout s) rfl ⟨State.twinUp_twin s _, (Changes.refl _ _ s).part (State.twinUp_only _ _)⟩
      fun _ ⟨htwin, hchanges⟩ => ⟨htwin, hchanges.queued⟩
  · exact awake_ends hres (digestNow_alone hpair) ⟨digestShown_digest s, digestShown_changes s⟩
      fun _ ⟨hdigest, hchanges⟩ => ⟨hdigest, hchanges.queued⟩
  · have hcompared := digestCompared_changes s
    refine awake_ends hres (digestNow_compares hpair hup hstate) ⟨?_, ?_, fun hdiffer hrow hconds => ?_, hcompared.mono.cond _ _⟩
      fun _ ⟨hdigest, htwin, hcount, hchanges⟩ => ⟨hdigest, htwin, hcount, hchanges.queued⟩
    · have hcond : Changes [.regs, .conds] [G.TWN_CFG_DIVERGED.ptr, G.TWN_CFG_DIVERGED.cptr] (digestCompared s)
          ((digestCompared s).cond G.TWN_CFG_DIVERGED (decide (2 ≤ digestRow s))) := (Changes.refl _ _ _).cond _ _
      rw [hcond.2 R.TWN_CDIG (by decide), digestCompared_digest]
    · rw [State.cond_twin, digestCompared_twin, digestRow]
    · have htwo : 2 ≤ digestRow s := by
        rw [digestRow, if_neg hdiffer]
        omega
      rw [decide_eq_true htwo]
      exact counted_cond_of (by rw [hcompared.1 .conds (by decide)]; exact hconds) (hcompared.2.get _)

end

section
/-! Ownership of the pair's output (R400 to R404, R407). -/

set_option Elab.async false

namespace Sys2Proof.Machine

section
variable {s : State}

/-! ### Who may claim (R400) -/

theorem ne_resync_of_eligible (h : eligible s = true) : pstate s ≠ psResync := by
  intro hresync
  simp [eligible, hresync] at h

theorem not_eligible_of_resyncFail (h : s.get F.TWN_STAT_RESYNC_FAIL = 1) : eligible s = false := by
  have hon : s.on F.TWN_STAT_RESYNC_FAIL = true := by simp [State.on, h]
  simp [eligible, hon]

/-- The end of a wait leaves a unit as eligible as it was. -/
theorem eligible_waitEnded (s : State) : eligible (s.twinUp fun t => { t with claim := false }) = eligible s := by
  simp only [eligible, deviceSafe, claimEn, ready, bstate, linkSettled, pairEn, pstate, State.twinUp_get, State.twinUp_on, State.twinUp_sys,
    State.twinUp_safe, State.twinUp_twin]
  rfl

/-! ### OWN_N high (R401, R407) -/

theorem ownHigh_waits (helig : eligible s = true) (howner : owner s = false) :
    ownHigh s = s.twinUp fun t => { t with claim := true } := by
  have hno : ¬ (pstate s = psResync ∧ s.twin.bR = none) := fun h => ne_resync_of_eligible helig h.1
  unfold ownHigh
  rw [if_neg hno]
  dsimp only
  rw [helig, howner]
  rfl

/-- A resynchronization fails with its owner. -/
def resyncFailed (s : State) : State := (setPstate (s.set F.TWN_STAT_RESYNC_FAIL 1) psFree).set F.TWN_CTRL_RESYNC 0

theorem resyncFailed_fail (s : State) : (resyncFailed s).get F.TWN_STAT_RESYNC_FAIL = 1 := by
  unfold resyncFailed setPstate
  simp (disch := decide) only [State.get_set_disjoint, State.get_set_lit]

theorem resyncFailed_pstate (s : State) : pstate (resyncFailed s) = psFree := by
  unfold resyncFailed setPstate pstate psFree
  simp (disch := decide) only [State.get_set_disjoint, State.get_set_lit]

theorem resyncFailed_resync (s : State) : (resyncFailed s).get F.TWN_CTRL_RESYNC = 0 := State.get_set_lit _ (by decide) (by decide)

theorem resyncFailed_changes (s : State) : Changes [.regs, .twin] [R.TWN_STAT, R.TWN_CTRL] s (resyncFailed s) :=
  (((Changes.refl _ _ s).set F.TWN_STAT_RESYNC_FAIL _).set F.TWN_STAT_PSTATE _).set _ _

theorem ownHigh_fails (hstate : pstate s = psResync) (hend : s.twin.bR = none) : ownHigh s = resyncFailed s := by
  have hnot : eligible (resyncFailed s) = false := not_eligible_of_resyncFail (resyncFailed_fail s)
  unfold resyncFailed at hnot
  unfold ownHigh
  rw [if_pos (And.intro hstate hend)]
  dsimp only
  rw [hnot]
  rfl

/-! ### The claim (R401) -/

/-- The end of the wait for a claim. -/
def waitEnded (s : State) : State := s.twinUp fun t => { t with claim := false }

/-- OWN_N is pulled low. -/
def ownPulled (s : State) : State := { waitEnded s with pins := { (waitEnded s).pins with own := true, released := false } }

/-- A takeover is counted. -/
def takenOver (s : State) : State :=
  (((ownPulled s).set F.TWN_STAT_FROZEN 0).raise G.TWN_TAKEOVER).twinUp fun t => { t with releaseDue := true }

theorem ownPulled_only (s : State) : Only [.pins, .twin] s (ownPulled s) :=
  (State.twinUp_only s _ |>.mono (by decide)).step (only_with_pins _ _) (by decide)

theorem takenOver_changes (s : State) : Changes [.regs, .pins, .twin, .str] [R.TWN_STAT, G.TWN_TAKEOVER.ptr, G.TWN_TAKEOVER.cptr] s (takenOver s) :=
  ((((Changes.refl _ _ s).part (ownPulled_only s)).set _ _).raise _).part (State.twinUp_only _ _)

theorem takenOver_counted (s : State) : counted G.TWN_TAKEOVER s (takenOver s) :=
  have hregs : (ownPulled s).regs = s.regs := ownPulled_only s .regs (by decide)
  (counted_raise_of ((State.get_set_disjoint _ _ (by decide)).trans (State.get_congr hregs _))).of_regs (State.twinUp_regs _ _)

theorem takenOver_frozen (s : State) : (takenOver s).get F.TWN_STAT_FROZEN = 0 := by
  rw [takenOver, State.get_twinUp, State.get_raise_disjoint _ (by decide) (by decide), State.get_set_lit _ (by decide) (by decide)]

theorem takenOver_pins (s : State) : (takenOver s).pins = { s.pins with own := true, released := false } := by
  rw [takenOver, State.twinUp_pins, State.raise_pins, State.set_pins]
  rfl

theorem takenOver_twin (s : State) : (takenOver s).twin = { s.twin with claim := false, releaseDue := true } := by
  rw [takenOver, State.twinUp_twin, State.raise_twin, State.set_twin]
  rfl

/-- A unit that never was paired only pulls OWN_N, and a manager starts anew. -/
theorem claimCheck_takes (hclaim : s.twin.claim = true) (helig : eligible s = true) (howner : owner s = false)
    (hnever : s.twin.accepted = false) :
    claimCheck s true = if (takenOver s).on F.STR_STAT_MGR then
      { takenOver s with str := { (takenOver s).str with startDue := true } } else takenOver s := by
  have helig' : eligible (waitEnded s) = true := (eligible_waitEnded s).trans helig
  have hgo : (!true || !eligible (waitEnded s) || owner (waitEnded s)) = false := by
    rw [helig', show owner (waitEnded s) = false from howner]
    rfl
  have hnever' : (takenOver s).twin.accepted = false := (congrArg Twin.accepted (takenOver_twin s)).trans hnever
  unfold claimCheck
  rw [hclaim]
  refine (if_neg (by decide)).trans ((if_neg (Bool.eq_false_iff.mp hgo)).trans (if_neg ?_))
  show ¬ (if (takenOver s).on F.STR_STAT_MGR then { takenOver s with str := { (takenOver s).str with startDue := true } } else takenOver s).twin.accepted = true
  rw [apply_ite State.twin, ite_self, hnever']
  exact Bool.false_ne_true

end

/-- The claim of a unit that never was paired. -/
theorem claim_shows {s t : State} (ht : t = if (takenOver s).on F.STR_STAT_MGR then
      { takenOver s with str := { (takenOver s).str with startDue := true } } else takenOver s) :
    t.pins = { s.pins with own := true, released := false } ∧ counted G.TWN_TAKEOVER s t ∧
      t.twin = { s.twin with claim := false, releaseDue := true } ∧ t.get F.TWN_STAT_FROZEN = 0 ∧
      Changes [.regs, .pins, .twin, .str] [R.TWN_STAT, G.TWN_TAKEOVER.ptr, G.TWN_TAKEOVER.cptr] s t := by
  have honly : Only [.str] (takenOver s) t := by
    subst ht
    exact Only.ite (only_with_str _ _) (Only.refl _ _)
  have hregs : t.regs = (takenOver s).regs := honly .regs (by decide)
  exact ⟨(honly .pins (by decide)).trans (takenOver_pins s), (takenOver_counted s).of_regs hregs,
    (honly .twin (by decide)).trans (takenOver_twin s), (State.get_congr hregs _).trans (takenOver_frozen s),
    (takenOver_changes s).part honly⟩

/-! ### Handover (R404) -/

section
variable {s : State}

/-- A handover waits for the block boundary. -/
def handoverTaken (s : State) : State := (s.set F.TWN_CTRL_HANDOVER 1).twinUp fun t => { t with handDue := true }

theorem handover_taken (howner : owner s = true) (hready : s.get F.TWN_STAT_P_READY = 1) (hsnap : s.twin.pSnapOk = true)
    (hstate : pstate s = psPaired) : handover s = handoverTaken s := by
  refine if_pos ?_
  rw [howner, State.on, hready, hsnap, hstate]
  decide

theorem handover_refused (h : owner s = false ∨ s.get F.TWN_STAT_P_READY = 0 ∨ s.twin.pSnapOk = false ∨ pstate s ≠ psPaired) :
    handover s = (s.set F.TWN_CTRL_HANDOVER 0).raise G.TWN_REQ_REFUSED := by
  refine if_neg ?_
  rcases h with h | h | h | h
  · simp [h]
  · simp [State.on, h]
  · simp [h]
  · simp [h]

/-- A request that is refused clears its bit and counts one event. -/
theorem refusedRequest_shows (s : State) {f : Fld} (hf : f.lo = f.hi ∧ f.hi < 32) (hptr : f.ptr = R.TWN_CTRL) :
    ((s.set f 0).raise G.TWN_REQ_REFUSED).get f = 0 ∧ counted G.TWN_REQ_REFUSED s ((s.set f 0).raise G.TWN_REQ_REFUSED) ∧
      Changes [.regs] [R.TWN_CTRL, G.TWN_REQ_REFUSED.ptr, G.TWN_REQ_REFUSED.cptr] s ((s.set f 0).raise G.TWN_REQ_REFUSED) := by
  have hset : Changes [.regs] [R.TWN_CTRL] s (s.set f 0) := (Changes.refl _ _ s).set _ _ (by decide) (hptr ▸ List.mem_singleton_self _)
  have hraise : Changes [.regs] [G.TWN_REQ_REFUSED.ptr, G.TWN_REQ_REFUSED.cptr] (s.set f 0) ((s.set f 0).raise G.TWN_REQ_REFUSED) :=
    (Changes.refl _ _ _).raise _
  refine ⟨?_, counted_raise_of (hset.2.get _), hset.mono.raise _⟩
  rw [hraise.2.get f (hptr ▸ by decide), State.get_set_lit _ ⟨hf.1.le, hf.2⟩ (Nat.two_pow_pos _)]

end

/-- What counts from the state that its access left counts from the state before it. -/
theorem counted.after_granted {s t : State} {g : Flag} {p : Nat} (h : counted g (granted s p) t) : counted g s t :=
  counted_congr h (granted_get _ _ _) rfl rfl

end Sys2Proof.Machine

open Sys2Proof Sys2Proof.Machine in
/-- Settles O33, a command at a time: OWN_N high for an eligible unit and in a resynchronization, the end of a wait with OWN_N high and low, a
handover taken and refused, and the end of the time held off. -/
theorem ownership : Obligations.Ownership := by
  unfold Obligations.Ownership
  intro s
  refine ⟨fun hres helig howner => ?_, fun hres hstate hend => ?_, fun hres hclaim helig howner hnever => ?_, fun hres hclaim => ?_,
    fun hres => ?_, fun hw howner hready hsnap hstate => ?_, fun hw hrefused => ?_, fun hres => ?_⟩
  · exact awake_ends hres (ownHigh_waits helig howner) ⟨State.twinUp_twin s _, (Changes.refl _ _ s).part (State.twinUp_only _ _)⟩
      fun _ ⟨htwin, hchanges⟩ => ⟨htwin, hchanges.queued⟩
  · exact awake_ends hres (ownHigh_fails hstate hend)
      ⟨resyncFailed_fail s, resyncFailed_pstate s, resyncFailed_resync s, resyncFailed_changes s⟩
      fun _ ⟨hfail, hfree, hresync, hchanges⟩ => ⟨hfail, hfree, hresync, hchanges.queued⟩
  · exact awake_ends hres (claimCheck_takes hclaim helig howner hnever) (claim_shows rfl)
      fun _ ⟨hpins, hcount, htwin, hfrozen, hchanges⟩ => ⟨hpins, hcount, htwin, hfrozen, hchanges.queued⟩
  · have hends : claimCheck s false = waitEnded s := by
      unfold claimCheck
      rw [hclaim]
      rfl
    exact awake_ends hres hends ⟨State.twinUp_twin s _, (Changes.refl _ _ s).part (State.twinUp_only _ _)⟩
      fun _ ⟨htwin, hchanges⟩ => ⟨htwin, hchanges.queued⟩
  · exact awake_ends hres (v := ownLow s) rfl ⟨State.twinUp_twin s _, (Changes.refl _ _ s).part (State.twinUp_only _ _)⟩
      fun _ ⟨htwin, hchanges⟩ => ⟨htwin, hchanges.queued⟩
  · have htaken : handover (granted s R.TWN_CTRL) = handoverTaken (granted s R.TWN_CTRL) :=
      handover_taken ((congrArg Pins.own (granted_pins _ _)).trans howner) ((granted_get _ _ _).trans hready)
        ((congrArg Twin.pSnapOk (granted_twin _ _)).trans hsnap) ((granted_get _ _ _).trans hstate)
    have hchanges : Changes [.regs, .twin, .hst] [R.TWN_CTRL] (granted s R.TWN_CTRL) (handoverTaken (granted s R.TWN_CTRL)) :=
      ((Changes.refl _ _ _).set _ _).part (State.twinUp_only _ _)
    refine ⟨_, awake_fieldAt handover hw, ?_⟩
    rw [htaken]
    refine ⟨State.get_set_lit _ (by decide) (by decide), ?_, hchanges.after_granted (by decide)⟩
    rw [State.queued_twin, handoverTaken, State.twinUp_twin, State.set_twin, granted_twin]
  · have hrefuse : handover (granted s R.TWN_CTRL) = ((granted s R.TWN_CTRL).set F.TWN_CTRL_HANDOVER 0).raise G.TWN_REQ_REFUSED := by
      refine handover_refused ?_
      rwa [owner, granted_pins, granted_get, granted_twin, pstate, granted_get]
    obtain ⟨hclear, hcount, hchanges⟩ := refusedRequest_shows (granted s R.TWN_CTRL) (f := F.TWN_CTRL_HANDOVER) (by decide) rfl
    refine ⟨_, awake_fieldAt handover hw, ?_⟩
    rw [hrefuse]
    exact ⟨(State.queued_get _ _ _).trans hclear, (hcount.of_regs (State.queued_regs _ _)).after_granted, hchanges.mono.after_granted (by decide)⟩
  · exact awake_ends hres (v := holdoffEnd s) rfl ⟨State.twinUp_twin s _, (Changes.refl _ _ s).part (State.twinUp_only _ _)⟩
      fun _ ⟨htwin, hchanges⟩ => ⟨htwin, hchanges.queued⟩

end

section
/-! Snapshots and resynchronization (R386, R396, R398, R407 to R409), with the errors in transit that they meet (R508). -/

set_option Elab.async false

namespace Sys2Proof.Machine

/-! ### Errors in transit (R508, R529) -/

section
variable {s : State} {b w : Nat} {e : BitVec 145}

theorem memLog_changes (s : State) (k : Check) (src b w : Nat) (e : BitVec 145) :
    Changes [.regs] [R.MEM_ELOG0, R.MEM_ELOG1] s (memLog s k src b w e) :=
  (((((Changes.refl _ _ s).set F.MEM_ELOG0_SEQ _).set F.MEM_ELOG0_KIND _).set F.MEM_ELOG0_SRC _).set F.MEM_ELOG0_BANK _).wr R.MEM_ELOG1 _

/-- The log's first word as its fields give it: the second word is another register. -/
theorem memLog_get (s : State) (k : Check) (src b w : Nat) (e : BitVec 145) {f : Fld} (hf : f.ptr ≠ R.MEM_ELOG1) :
    (memLog s k src b w e).get f =
      ((((s.set F.MEM_ELOG0_SEQ (nextSeq1 (s.get F.MEM_ELOG0_SEQ))).set F.MEM_ELOG0_KIND (kindCode k)).set F.MEM_ELOG0_SRC src).set
        F.MEM_ELOG0_BANK b).get f :=
  ((Changes.refl [.regs] [R.MEM_ELOG1] _).wr R.MEM_ELOG1 _).2.get f (by simpa using hf)

theorem memLog_src (s : State) (k : Check) {src : Nat} (b w : Nat) (e : BitVec 145) (hsrc : src < 4) :
    (memLog s k src b w e).get F.MEM_ELOG0_SRC = src := by
  rw [memLog_get _ _ _ _ _ _ (by decide), State.get_set_disjoint _ _ (by decide), State.get_set_lit _ (by decide) hsrc]

theorem memLog_bank (s : State) (k : Check) (src : Nat) {b : Nat} (w : Nat) (e : BitVec 145) (hb : b < 128) :
    (memLog s k src b w e).get F.MEM_ELOG0_BANK = b := by
  rw [memLog_get _ _ _ _ _ _ (by decide), State.get_set_lit _ (by decide) hb]

theorem State.setFree_changes (s : State) (f : Fld) : Changes [.regs, .free] [f.ptr] s (s.setFree f) :=
  ((Changes.refl _ _ s).set f _).part (State.used_only _)

/-- The event of an error in transit. -/
def transitFlag (k : Check) : Flag := if k = .ue then G.MEM_PATH_UE else G.MEM_PATH_CE

theorem transitFlag_ok (k : Check) : (transitFlag k).ok := by
  unfold transitFlag
  split <;> decide

theorem transitError_good (h : (checkWord e).1 = .good) : transitError s b w e = (s, false) := if_pos h

theorem transitError_ue (hbad : (checkWord e).1 ≠ .good) : (transitError s b w e).2 = decide ((checkWord e).1 = .ue) := by
  unfold transitError
  dsimp only
  rw [if_neg hbad]

/-- An error in transit is counted and logged. -/
theorem transitError_shows (hbad : (checkWord e).1 ≠ .good) (hb : b < 128) :
    counted (transitFlag (checkWord e).1) s (transitError s b w e).1 ∧ (transitError s b w e).1.get F.MEM_ELOG0_SRC = srcTransit ∧
      (transitError s b w e).1.get F.MEM_ELOG0_BANK = b ∧
      Changes [.regs, .free] [R.MEM_ELOG0, R.MEM_ELOG1, (transitFlag (checkWord e).1).ptr, (transitFlag (checkWord e).1).cptr] s
        (transitError s b w e).1 := by
  have hptrs : (transitFlag (checkWord e).1).ptr ∉ [R.MEM_ELOG0, R.MEM_ELOG1] ∧ (transitFlag (checkWord e).1).cptr ∉ [R.MEM_ELOG0, R.MEM_ELOG1] := by
    unfold transitFlag
    split <;> decide
  have hlog := memLog_changes (s.raise (transitFlag (checkWord e).1)) (checkWord e).1 srcTransit b w e
  have hcount := (counted_raise_of (g := transitFlag (checkWord e).1) (t := s) rfl (transitFlag_ok _)).onlyRegs hlog.2 hptrs.1 hptrs.2
  have hlogged : Changes [.regs, .free] [R.MEM_ELOG0, R.MEM_ELOG1, (transitFlag (checkWord e).1).ptr, (transitFlag (checkWord e).1).cptr] s
      (memLog (s.raise (transitFlag (checkWord e).1)) (checkWord e).1 srcTransit b w e) :=
    ((Changes.refl _ _ s).raise _).trans hlog.mono
  have hsrc := memLog_src (s.raise (transitFlag (checkWord e).1)) (checkWord e).1 b w e (src := srcTransit) (by decide)
  have hbank := memLog_bank (s.raise (transitFlag (checkWord e).1)) (checkWord e).1 srcTransit w e hb
  have heq : (transitError s b w e).1 = if b = noBank then
      (memLog (s.raise (transitFlag (checkWord e).1)) (checkWord e).1 srcTransit b w e).setFree F.MEM_ELOG1_WORD
      else memLog (s.raise (transitFlag (checkWord e).1)) (checkWord e).1 srcTransit b w e := by
    unfold transitError
    dsimp only
    rw [if_neg hbad]
    rfl
  rw [heq]
  split
  · have hfree := State.setFree_changes (memLog (s.raise (transitFlag (checkWord e).1)) (checkWord e).1 srcTransit b w e) F.MEM_ELOG1_WORD
    have hapart : (transitFlag (checkWord e).1).ptr ∉ [F.MEM_ELOG1_WORD.ptr] ∧ (transitFlag (checkWord e).1).cptr ∉ [F.MEM_ELOG1_WORD.ptr] := by
      unfold transitFlag
      split <;> decide
    exact ⟨hcount.onlyRegs hfree.2 hapart.1 hapart.2, (hfree.2.get _).trans hsrc, (hfree.2.get _).trans hbank, hlogged.trans hfree.mono⟩
  · exact ⟨hcount, hsrc, hbank, hlogged⟩

end

/-! ### Snapshot frames (R386, R396, R398) -/

section
variable {s : State} {type : Nat} {rx : LinkRx} {x : Snap} {e : BitVec 145}

theorem snapRx_standby (hpair : pairEn s = true) (hup : linkUp s = true) (howner : owner s = false) (hstate : pstate s ≠ psRefused)
    (late : Bool) : snapRx s rx x late = if !(frameTake s frSnap rx).2 then (frameTake s frSnap rx).1.raise G.TWN_SNAP_BAD
      else if late then (frameTake s frSnap rx).1.raise G.TWN_SNAP_LATE
      else (frameTake s frSnap rx).1.twinUp fun t => { t with got := some x } := by
  unfold snapRx
  rw [hpair, hup, howner, decide_eq_false hstate]
  rfl

/-- A frame with one word in error is used where the word was corrected. -/
theorem frameTake_single (hgood : frameGood type rx = true) (herrs : rx.errs = [e]) (hbad : (checkWord e).1 ≠ .good) :
    frameTake s type rx = (if (checkWord e).1 = .ue then (transitError s noBank 0 e).1
      else (transitError s noBank 0 e).1.set F.TWN_LERR_CORR ((transitError s noBank 0 e).1.get F.TWN_LERR_CORR + 1),
      !decide ((checkWord e).1 = .ue)) := by
  have hue := transitError_ue (s := s) (b := noBank) (w := 0) hbad
  rw [frameTake, if_pos hgood, herrs]
  unfold linkErrors
  simp only [List.foldl_cons, List.foldl_nil, hue, hbad, decide_false, Bool.false_or, decide_eq_true_eq]

/-- A frame whose one word in error was corrected. -/
def frameCorrected (s : State) (e : BitVec 145) : State :=
  (transitError s noBank 0 e).1.set F.TWN_LERR_CORR ((transitError s noBank 0 e).1.get F.TWN_LERR_CORR + 1)

theorem frameTake_corrected (hgood : frameGood type rx = true) (herrs : rx.errs = [e])
    (hce : (checkWord e).1 = .ce1 ∨ (checkWord e).1 = .ce2) : frameTake s type rx = (frameCorrected s e, true) := by
  rcases hce with h | h <;> rw [frameTake_single hgood herrs (by rw [h]; decide), h] <;> rfl

theorem transitFlag_ce {k : Check} (hce : k = .ce1 ∨ k = .ce2) : transitFlag k = G.MEM_PATH_CE := by
  rcases hce with rfl | rfl <;> rfl

theorem frameCorrected_shows (s : State) (hce : (checkWord e).1 = .ce1 ∨ (checkWord e).1 = .ce2) :
    (frameCorrected s e).get F.TWN_LERR_CORR = (s.get F.TWN_LERR_CORR + 1) % 65536 ∧ counted G.MEM_PATH_CE s (frameCorrected s e) ∧
      (frameCorrected s e).get F.MEM_ELOG0_SRC = srcTransit ∧ (frameCorrected s e).get F.MEM_ELOG0_BANK = noBank ∧
      Changes [.regs, .free] [R.TWN_LERR, R.MEM_ELOG0, R.MEM_ELOG1, G.MEM_PATH_CE.ptr, G.MEM_PATH_CE.cptr] s (frameCorrected s e) := by
  have hbad : (checkWord e).1 ≠ .good := by rcases hce with h | h <;> rw [h] <;> decide
  obtain ⟨hcount, hsrc, hbank, hchanges⟩ := transitError_shows (s := s) (b := noBank) (w := 0) hbad (by decide)
  rw [transitFlag_ce hce] at hcount hchanges
  have hset := set_changes (transitError s noBank 0 e).1 F.TWN_LERR_CORR ((transitError s noBank 0 e).1.get F.TWN_LERR_CORR + 1)
  refine ⟨?_, hcount.set _ _, (hset.2.get _).trans hsrc, (hset.2.get _).trans hbank, hchanges.mono.trans hset.mono⟩
  rw [frameCorrected, State.get_set_self _ _ (by decide), hchanges.2.get F.TWN_LERR_CORR]
  rfl

/-- A frame with a word that cannot be corrected is discarded, and the error counts. -/
theorem frameTake_uncorrectable (hgood : frameGood type rx = true) (herrs : rx.errs = [e]) (hue : (checkWord e).1 = .ue) :
    frameTake s type rx = ((transitError s noBank 0 e).1, false) := by
  rw [frameTake_single hgood herrs (by rw [hue]; decide), if_pos hue, decide_eq_true hue]
  rfl

theorem discarded_shows (s : State) (hue : (checkWord e).1 = .ue) :
    counted G.MEM_PATH_UE s ((transitError s noBank 0 e).1.raise G.TWN_SNAP_BAD) ∧
      counted G.TWN_SNAP_BAD s ((transitError s noBank 0 e).1.raise G.TWN_SNAP_BAD) ∧
      Changes [.regs, .free] [R.MEM_ELOG0, R.MEM_ELOG1, G.MEM_PATH_UE.ptr, G.MEM_PATH_UE.cptr, G.TWN_SNAP_BAD.ptr, G.TWN_SNAP_BAD.cptr] s
        ((transitError s noBank 0 e).1.raise G.TWN_SNAP_BAD) := by
  obtain ⟨hcount, -, -, hchanges⟩ := transitError_shows (s := s) (b := noBank) (w := 0) (e := e) (by rw [hue]; decide) (by decide)
  have hflag : transitFlag (checkWord e).1 = G.MEM_PATH_UE := by
    rw [hue]
    rfl
  rw [hflag] at hcount hchanges
  have hraise : Changes [.regs] [G.TWN_SNAP_BAD.ptr, G.TWN_SNAP_BAD.cptr] (transitError s noBank 0 e).1
      ((transitError s noBank 0 e).1.raise G.TWN_SNAP_BAD) := (Changes.refl _ _ _).raise _
  exact ⟨hcount.onlyRegs hraise.2, counted_raise_of (hchanges.2.get _), hchanges.mono.trans hraise.mono⟩

theorem raise_shows (s : State) (g : Flag) (hg : g.ok := by decide) : counted g s (s.raise g) ∧ Changes [.regs] [g.ptr, g.cptr] s (s.raise g) :=
  ⟨counted_raise_of rfl hg, (Changes.refl _ _ s).raise _⟩

end

/-! ### Requests and data (R407 to R409) -/

section
variable {s : State}

theorem resyncRequest_asks (howner : owner s = false) (hup : linkUp s = true) (hstate : pstate s ≠ psRefused) :
    resyncRequest s = requestResync (s.set F.TWN_CTRL_RESYNC 1) := by
  refine if_neg ?_
  rw [howner, hup, decide_eq_false hstate]
  decide

theorem resyncRequest_refused (h : owner s = true ∨ linkUp s = false ∨ pstate s = psRefused) :
    resyncRequest s = (s.set F.TWN_CTRL_RESYNC 0).raise G.TWN_REQ_REFUSED := by
  refine if_pos ?_
  rcases h with h | h | h <;> simp [h]

/-- A standby that may ask does so, and RESYNC stands. -/
theorem resyncRequest_shows (howner : owner s = false) (hup : linkUp s = true) (hstate : pstate s ≠ psRefused) :
    pstate (resyncRequest s) = psResync ∧ (resyncRequest s).get F.TWN_CTRL_RESYNC = 1 ∧
      (resyncRequest s).gates = s.gates.modify (gateIdx .gt1) (· ++ [framePayload s frRsreq 0 []]) ∧
      Changes [.regs, .gates, .twin] [R.TWN_STAT, R.TWN_CTRL] s (resyncRequest s) := by
  have hset := set_changes s F.TWN_CTRL_RESYNC 1
  rw [resyncRequest_asks howner hup hstate]
  refine ⟨requestResync_pstate _, ?_, ?_, hset.mono.trans (requestResync_changes _).mono⟩
  · rw [requestResync_get _ (by decide), State.get_set_lit _ (by decide) (by decide)]
  · rw [requestResync_gates, State.set_gates, framePayload_congr (hset.2.get _) (State.set_pins _ _ _) (State.set_time _ _ _)]

theorem rsreqRx_answers (howner : owner s = true) (hup : linkUp s = true) :
    rsreqRx s = s.twinUp fun t => { t with answering := answerBlocks, sent := [] } := if_pos (by rw [howner, hup]; rfl)

theorem rsyncRx_takes {rx : LinkRx} (hgood : frameGood frRsync rx = true) (herrs : rx.errs = []) (hpair : pairEn s = true)
    (hstate : pstate s = psResync) (howner : owner s = false) (x : Resync) : rsyncRx s rx x = rsyncData s x := by
  refine (if_neg ?_).trans (frameUsed_clean hgood herrs hpair)
  simp [hstate, howner]

/-- One word of a bank goes to its place. -/
theorem rsyncData_word (c : Chan) (nx : Bool) {o : Nat} (w : Word) (ho : o < 2224) :
    rsyncData s (.mbBank c nx o [w]) = s.putBank (mbKey c (xor (liveBankOf s c) nx) o) w := if_pos ho

theorem rsyncData_reg (p : Word16) (w : Word) :
    rsyncData s (.regs [(p, w)]) = if sharedRegs.contains p.toNat then s.wr p.toNat w else s := rfl

/-- END gives its boundary and the partner's digest. -/
def endTaken (s : State) (b : Nat) (w : Word) : State := ((s.wr R.TWN_PDIG w).set F.TWN_CTRL_RESYNC 0).twinUp fun t => { t with bR := some b }

theorem rsyncData_end (b : Nat) (w : Word) : rsyncData s (.endMark b w) = endTaken s b w := rfl

theorem endTaken_changes (s : State) (b : Nat) (w : Word) : Changes [.regs, .twin] [R.TWN_PDIG, R.TWN_CTRL] s (endTaken s b w) :=
  (((Changes.refl _ _ s).wr _ _).set _ _).part (State.twinUp_only _ _)

theorem endTaken_digest (s : State) (b : Nat) (w : Word) : (endTaken s b w).rd R.TWN_PDIG = w := by
  rw [endTaken, State.twinUp_rd, State.rd_set_other _ _ _ _ (by decide), State.rd_wr_same]

theorem endTaken_resync (s : State) (b : Nat) (w : Word) : (endTaken s b w).get F.TWN_CTRL_RESYNC = 0 := by
  rw [endTaken, State.get_twinUp, State.get_set_lit _ (by decide) (by decide)]

theorem endTaken_twin (s : State) (b : Nat) (w : Word) : (endTaken s b w).twin = { s.twin with bR := some b } := by
  rw [endTaken, State.twinUp_twin, State.set_twin, State.wr_twin]

/-- SETTLE is over. -/
def settled (s : State) : State := (setPstate s psPaired).twinUp fun t => { t with settle := 0 }

theorem settled_pstate (s : State) : pstate (settled s) = psPaired := by
  rw [settled, pstate, State.get_twinUp, setPstate, State.get_set_lit _ (by decide) (by decide)]

theorem settled_twin (s : State) : (settled s).twin = { s.twin with settle := 0 } := by
  rw [settled, State.twinUp_twin, setPstate, State.set_twin]

theorem settled_changes (s : State) : Changes [.regs, .twin] [R.TWN_STAT] s (settled s) :=
  (set_changes s F.TWN_STAT_PSTATE _).mono.part (State.twinUp_only _ _)

theorem putBank_changes (s : State) (k : Nat) (v : Word) : Changes [.regs, .banks] [] s (s.putBank k v) :=
  (Changes.refl _ _ s).part (State.putBank_only s k v)

end

end Sys2Proof.Machine

open Sys2Proof Sys2Proof.Machine in
/-- Settles O34: the five ends of a snapshot frame, a request that is taken and one refused, the answer, the data of a resynchronization, and
the end of SETTLE. -/
theorem resynchronization : Obligations.Resynchronization := by
  unfold Obligations.Resynchronization
  intro s
  refine ⟨fun x rx hres hpair hup howner hstate => ⟨fun hgood herrs => ?_, fun e hgood herrs hce => ?_, fun e hgood herrs hue => ?_,
    fun late hbad => ?_, fun hgood herrs => ?_⟩, fun hw howner hup hstate => ?_, fun hw hrefused => ?_,
    fun rx hres hgood herrs hpair howner hup => ?_,
    fun rx hres hgood herrs hpair hstate howner => ⟨fun c nx o w ho => ?_, fun p w hp => ?_, fun p w hp => ?_, fun b w => ?_⟩,
    fun hres hstate => ?_⟩
  · have hends := snapRx_standby (rx := rx) (x := x) hpair hup howner hstate false
    rw [frameTake_clean hgood herrs] at hends
    exact awake_ends hres hends ⟨State.twinUp_twin s _, (Changes.refl _ _ s).part (State.twinUp_only _ _)⟩
      fun _ ⟨htwin, hchanges⟩ => ⟨htwin, hchanges.queued⟩
  · have hends := snapRx_standby (rx := rx) (x := x) hpair hup howner hstate false
    rw [frameTake_corrected hgood herrs hce] at hends
    obtain ⟨hcorr, hcount, hsrc, hbank, hchanges⟩ := frameCorrected_shows s hce
    refine awake_ends hres (v := (frameCorrected s e).twinUp fun t => { t with got := some x }) hends ⟨?_, ?_, ?_, ?_, ?_, ?_⟩
      fun _ ⟨htwin, hcorr, hcount, hsrc, hbank, hchanges⟩ => ⟨htwin, hcorr, hcount, hsrc, hbank, hchanges.queued⟩
    · rw [State.twinUp_twin, hchanges.1 .twin (by decide)]
    · rw [State.get_twinUp, hcorr]
    · exact hcount.of_regs (State.twinUp_regs _ _)
    · rw [State.get_twinUp, hsrc]
      rfl
    · rw [State.get_twinUp, hbank]
      rfl
    · exact hchanges.mono.part (State.twinUp_only _ _)
  · have hends := snapRx_standby (rx := rx) (x := x) hpair hup howner hstate false
    rw [frameTake_uncorrectable hgood herrs hue] at hends
    exact awake_ends hres hends (discarded_shows s hue) fun _ ⟨hcount, hsnap, hchanges⟩ => ⟨hcount, hsnap, hchanges.queued⟩
  · have hends := snapRx_standby (rx := rx) (x := x) hpair hup howner hstate late
    rw [frameTake_bad hbad] at hends
    exact awake_ends hres hends (raise_shows s G.TWN_SNAP_BAD) fun _ ⟨hcount, hchanges⟩ => ⟨hcount, hchanges.queued⟩
  · have hends := snapRx_standby (rx := rx) (x := x) hpair hup howner hstate true
    rw [frameTake_clean hgood herrs] at hends
    exact awake_ends hres hends (raise_shows s G.TWN_SNAP_LATE) fun _ ⟨hcount, hchanges⟩ => ⟨hcount, hchanges.queued⟩
  · obtain ⟨hnow, hresync, hgates, hchanges⟩ := resyncRequest_shows (s := granted s R.TWN_CTRL)
      ((congrArg Pins.own (granted_pins _ _)).trans howner) ((granted_on _ _ _).trans hup)
      (fun h => hstate ((granted_get _ _ _).symm.trans h))
    rw [granted_gates, framePayload_congr (granted_get _ _ _) (granted_pins _ _) (granted_time _ _)] at hgates
    exact ⟨_, awake_fieldAt resyncRequest hw, hnow, hresync, hgates, (hchanges.mono_parts (by decide)).after_granted (by decide)⟩
  · have hrefuse : resyncRequest (granted s R.TWN_CTRL) = ((granted s R.TWN_CTRL).set F.TWN_CTRL_RESYNC 0).raise G.TWN_REQ_REFUSED := by
      refine resyncRequest_refused ?_
      rwa [owner, granted_pins, linkUp, granted_on, pstate, granted_get]
    obtain ⟨hclear, hcount, hchanges⟩ := refusedRequest_shows (granted s R.TWN_CTRL) (f := F.TWN_CTRL_RESYNC) (by decide) rfl
    refine ⟨_, awake_fieldAt resyncRequest hw, ?_⟩
    rw [hrefuse]
    exact ⟨(State.queued_get _ _ _).trans hclear, (hcount.of_regs (State.queued_regs _ _)).after_granted,
      hchanges.mono.after_granted (by decide)⟩
  · have hends := (frameUsed_clean (f := rsreqRx) hgood herrs hpair).trans (rsreqRx_answers howner hup)
    exact awake_ends hres hends ⟨State.twinUp_twin s _, (Changes.refl _ _ s).part (State.twinUp_only _ _)⟩
      fun _ ⟨htwin, hchanges⟩ => ⟨htwin, hchanges.queued⟩
  · have hends := (rsyncRx_takes hgood herrs hpair hstate howner _).trans (rsyncData_word c nx w ho)
    refine awake_ends hres hends ⟨?_, fun k hk => ?_, putBank_changes s _ w⟩
      fun _ ⟨hput, hother, hchanges⟩ => ⟨hput, hother, hchanges.queued⟩
    · rw [State.bank_putBank, if_pos rfl]
    · rw [State.bank_putBank, if_neg hk]
  · have hends := (rsyncRx_takes hgood herrs hpair hstate howner _).trans ((rsyncData_reg p w).trans (if_pos hp))
    exact awake_ends hres hends ⟨State.rd_wr_same s _ w, (Changes.refl _ _ s).wr _ _⟩ fun _ ⟨hrd, hchanges⟩ => ⟨hrd, hchanges.queued⟩
  · have hends := (rsyncRx_takes hgood herrs hpair hstate howner _).trans ((rsyncData_reg p w).trans (if_neg (Bool.eq_false_iff.mp hp)))
    exact awake_ends hres hends (Changes.refl _ _ s) fun _ hchanges => hchanges.queued
  · have hends := (rsyncRx_takes hgood herrs hpair hstate howner _).trans (rsyncData_end b w)
    exact awake_ends hres hends ⟨endTaken_digest s b w, endTaken_resync s b w, endTaken_twin s b w, endTaken_changes s b w⟩
      fun _ ⟨hdigest, hresync, htwin, hchanges⟩ => ⟨hdigest, hresync, htwin, hchanges.queued⟩
  · exact awake_ends hres (v := settled s) (if_pos hstate) ⟨settled_pstate s, settled_twin s, settled_changes s⟩
      fun _ ⟨hnow, htwin, hchanges⟩ => ⟨hnow, htwin, hchanges.queued⟩

end

section
/-! Ports and addresses of the Strings ring (R416, R417, R423, R424, R428, R438, R439). -/

set_option Elab.async false

namespace Sys2Proof.Machine

section
variable {s : State}

theorem State.get_strUp (s : State) (k : Str → Str) (f : Fld) : (s.strUp k).get f = s.get f := State.get_congr rfl f

/-! ### The ports as they show (R417) -/

theorem showPorts_changes (s : State) : Changes [.regs] [R.STR_STAT] s (showPorts s) := ((Changes.refl _ _ s).setB _ _).setB _ _

theorem showPorts_str (s : State) : (showPorts s).str = s.str := (showPorts_changes s).1 .str (by decide)

/-- The status bit of a port, its count of code violations, and whether it has failed. -/
def portOk (up : Bool) : Fld := if up then F.STR_STAT_UP_OK else F.STR_STAT_DOWN_OK
def portCodes (up : Bool) : Fld := if up then F.STR_LERR_UP_CV else F.STR_LERR_DOWN_CV
def portBad (x : Str) (up : Bool) : Bool := if up then x.upBad else x.downBad

theorem showPorts_shown (s : State) (up : Bool) :
    (showPorts s).get (portOk up) = if s.str.forwarding && !portBad s.str up then 1 else 0 := by
  unfold showPorts
  cases up
  · exact State.get_setB_self _ _ (by decide)
  · exact (State.get_setB_disjoint (h := F.STR_STAT_UP_OK) _ _ (by decide)).trans (State.get_setB_self _ _ (by decide))

/-! ### A port that fails (R417, R428, R438) -/

/-- A port is marked failed, its time without failure anew. -/
def markBad (up : Bool) (x : Str) : Str := if up then { x with upBad := true, upAge := 0 } else { x with downBad := true, downAge := 0 }

/-- A block's code violations on a port are counted. -/
def violationsCounted (s : State) (up : Bool) (k : Nat) : State := s.set (portCodes up) (s.get (portCodes up) + k)

/-- The failure of a port is counted where it is new, before STR_STAT shows it. -/
def portFailed (s : State) (up : Bool) (k : Nat) : State :=
  ((violationsCounted s up k).raiseIf (!portBad s.str up) G.STR_PORT_FAIL).strUp (markBad up)

theorem violationsCounted_changes (s : State) (up : Bool) (k : Nat) : Changes [.regs] [R.STR_LERR] s (violationsCounted s up k) :=
  (Changes.refl _ _ s).set _ _ (by decide) (by cases up <;> decide)

theorem violationsCounted_codes (s : State) (up : Bool) (k : Nat) :
    (violationsCounted s up k).get (portCodes up) = (s.get (portCodes up) + k) % 65536 := by
  cases up <;> exact State.get_set_self _ _ (by decide)

theorem portFail_counts {up : Bool} {k : Nat} (hk : k < 64) : portFail s up k false = violationsCounted s up k :=
  if_pos (by rw [decide_eq_true hk]; rfl)

theorem portFail_fails {up : Bool} {k : Nat} {lost : Bool} (h : 64 ≤ k ∨ lost = true) :
    portFail s up k lost = showPorts (portFailed s up k) := by
  refine if_neg ?_
  rcases h with h | h
  · rw [decide_eq_false (Nat.not_lt.mpr h)]
    exact Bool.false_ne_true
  · rw [h, Bool.not_true, Bool.and_false]
    exact Bool.false_ne_true

theorem portFailed_changes (s : State) (up : Bool) (k : Nat) :
    Changes [.regs, .str] [R.STR_LERR, G.STR_PORT_FAIL.ptr, G.STR_PORT_FAIL.cptr] s (portFailed s up k) :=
  ((violationsCounted_changes s up k).mono.trans (State.raiseIf_changes _ _ _).mono).part (m := [.str]) (only_with_str _ _)

theorem portFailed_str (s : State) (up : Bool) (k : Nat) : (portFailed s up k).str = markBad up s.str := by
  have hkept := (violationsCounted_changes s up k).1 .str (by decide)
  have hraised := (State.raiseIf_changes (violationsCounted s up k) (!portBad s.str up) G.STR_PORT_FAIL).1 .str (by decide)
  exact congrArg (markBad up) (hraised.trans hkept)

theorem portFailed_counted (s : State) {up : Bool} (k : Nat) (hnew : portBad s.str up = false) :
    counted G.STR_PORT_FAIL s (portFailed s up k) := by
  have hcount : counted G.STR_PORT_FAIL s ((violationsCounted s up k).raise G.STR_PORT_FAIL) :=
    counted_raise_of ((violationsCounted_changes s up k).2.get _)
  rw [portFailed, hnew]
  exact hcount.of_regs rfl

/-- A port that fails shows it, and its failure counts once. -/
theorem portFail_shows (s : State) (up : Bool) {k : Nat} {lost : Bool} (h : 64 ≤ k ∨ lost = true) :
    (portFail s up k lost).get (portOk up) = 0 ∧ (portFail s up k lost).str = markBad up s.str ∧
      (portFail s up k lost).get (portCodes up) = (s.get (portCodes up) + k) % 65536 ∧
      (portBad s.str up = false → counted G.STR_PORT_FAIL s (portFail s up k lost)) ∧
      Changes [.regs, .str] [R.STR_STAT, R.STR_LERR, G.STR_PORT_FAIL.ptr, G.STR_PORT_FAIL.cptr] s (portFail s up k lost) := by
  have hstr := portFailed_str s up k
  have hshow := showPorts_changes (portFailed s up k)
  have hbad : portBad (markBad up s.str) up = true := by cases up <;> rfl
  rw [portFail_fails h]
  refine ⟨?_, (showPorts_str _).trans hstr, ?_, fun hnew => (portFailed_counted s k hnew).onlyRegs hshow.2,
    (portFailed_changes s up k).mono.trans hshow.mono⟩
  · rw [showPorts_shown, hstr, hbad, Bool.not_true, Bool.and_false]
    rfl
  · have hraised := State.raiseIf_changes (violationsCounted s up k) (!portBad s.str up) G.STR_PORT_FAIL
    rw [hshow.2.get _ (by cases up <;> decide), portFailed, State.get_strUp, hraised.2.get _ (by cases up <;> decide),
      violationsCounted_codes]

/-! ### A port that is good again (R417) -/

/-- A port is marked good. -/
def markGood (up : Bool) (x : Str) : Str := if up then { x with upBad := false } else { x with downBad := false }

/-- The blocks a port has been without failure. -/
def portAge (x : Str) (up : Bool) : Nat := if up then x.upAge else x.downAge

theorem portGood_waits {up : Bool} (h : portAge s.str up < 12000) : portGood s up = s := if_pos h

theorem portGood_restores {up : Bool} (h : 12000 ≤ portAge s.str up) : portGood s up = showPorts (s.strUp (markGood up)) :=
  if_neg (Nat.not_lt.mpr h)

theorem portGood_shows {up : Bool} (hforward : s.str.forwarding = true) (h : 12000 ≤ portAge s.str up) :
    (portGood s up).get (portOk up) = 1 ∧ (portGood s up).str = markGood up s.str ∧
      Changes [.regs, .str] [R.STR_STAT] s (portGood s up) := by
  rw [portGood_restores h]
  refine ⟨?_, showPorts_str _, ((Changes.refl _ _ s).part (m := [.str]) (only_with_str _ _)).trans (showPorts_changes _).mono⟩
  have hgood : ((markGood up s.str).forwarding && !portBad (markGood up s.str) up) = true := by cases up <;> simp [markGood, portBad, hforward]
  rw [showPorts_shown]
  exact if_pos hgood

/-! ### Forwarding, a lost ring and addresses (R416, R423, R424) -/

theorem forwardingStart_shows (s : State) :
    (forwardingStart s).str = { s.str with forwarding := true } ∧
      (forwardingStart s).get F.STR_STAT_UP_OK = (if s.str.upBad then 0 else 1) ∧
      (forwardingStart s).get F.STR_STAT_DOWN_OK = (if s.str.downBad then 0 else 1) ∧
      Changes [.regs, .str] [R.STR_STAT] s (forwardingStart s) := by
  have hup := showPorts_shown (s.strUp fun x => { x with forwarding := true }) true
  have hdown := showPorts_shown (s.strUp fun x => { x with forwarding := true }) false
  refine ⟨showPorts_str _, hup.trans ?_, hdown.trans ?_,
    ((Changes.refl _ _ s).part (m := [.str]) (only_with_str _ _)).trans (showPorts_changes _).mono⟩
  · show (if (true && !s.str.upBad) = true then 1 else 0) = if s.str.upBad = true then 0 else 1
    cases s.str.upBad <;> rfl
  · show (if (true && !s.str.downBad) = true then 1 else 0) = if s.str.downBad = true then 0 else 1
    cases s.str.downBad <;> rfl

theorem ringLostTimeout_counts (hquiet : 4 ≤ s.str.quiet) : ringLostTimeout s = s.cond G.STR_RING_LOST true := if_neg (Nat.not_lt.mpr hquiet)

/-- The master frees an address. -/
def addressFreed (s : State) (n : Nat) : State := s.strUp fun x => { x with held := x.held.set n none, pairs := x.pairs.set n 0xFF }

theorem addressTimeout_frees {n a : Nat} (hmaster : s.str.master = true) (hheld : s.str.held.getD n none = some a) (hage : 24000 ≤ a) :
    addressTimeout s n = addressFreed s n := by
  unfold addressTimeout
  rw [if_pos hmaster, hheld]
  exact if_neg (Nat.not_lt.mpr hage)

theorem addressTimeout_drops {n : Nat} (hmaster : s.str.master = false) (haddr : strAddr s = n) (hquiet : 12000 ≤ s.str.quiet) :
    addressTimeout s n = s.set F.STR_STAT_ADDR noAddr := by
  unfold addressTimeout
  rw [if_neg (Bool.eq_false_iff.mp hmaster), if_pos ⟨haddr, hquiet⟩]

end

end Sys2Proof.Machine

open Sys2Proof Sys2Proof.Machine in
/-- Settles O35: each port alike, as it fails, counts and is good again, then the start of forwarding, the lost ring, and an address at the
master and at a node. -/
theorem stringsPorts : Obligations.StringsPorts := by
  unfold Obligations.StringsPorts
  intro s hres
  refine ⟨fun k lost h => ⟨?_, ?_⟩, fun k hk => ⟨?_, ?_⟩, fun hforward => ⟨fun hage => ?_, fun hage => ?_⟩,
    fun hage => awake_idle (portGood_waits hage), fun hage => awake_idle (portGood_waits hage), ?_, fun hquiet hconds => ?_,
    fun n a hmaster hheld hage => ?_, fun n hmaster haddr hquiet => ?_⟩
  · exact awake_ends hres rfl (portFail_shows s true h)
      fun _ ⟨hok, hstr, hcodes, hcount, hchanges⟩ => ⟨hok, hstr, hcodes, hcount, hchanges.queued⟩
  · exact awake_ends hres rfl (portFail_shows s false h)
      fun _ ⟨hok, hstr, hcodes, hcount, hchanges⟩ => ⟨hok, hstr, hcodes, hcount, hchanges.queued⟩
  · exact awake_ends hres (portFail_counts hk) ⟨violationsCounted_codes s true k, violationsCounted_changes s true k⟩
      fun _ ⟨hcodes, hchanges⟩ => ⟨hcodes, hchanges.queued⟩
  · exact awake_ends hres (portFail_counts hk) ⟨violationsCounted_codes s false k, violationsCounted_changes s false k⟩
      fun _ ⟨hcodes, hchanges⟩ => ⟨hcodes, hchanges.queued⟩
  · exact awake_ends hres rfl (portGood_shows (up := true) hforward hage)
      fun _ ⟨hok, hstr, hchanges⟩ => ⟨hok, hstr, hchanges.queued⟩
  · exact awake_ends hres rfl (portGood_shows (up := false) hforward hage)
      fun _ ⟨hok, hstr, hchanges⟩ => ⟨hok, hstr, hchanges.queued⟩
  · exact awake_ends hres rfl (forwardingStart_shows s)
      fun _ ⟨hstr, hup, hdown, hchanges⟩ => ⟨hstr, hup, hdown, hchanges.queued⟩
  · exact awake_ends hres (ringLostTimeout_counts hquiet) ⟨counted_cond_of hconds rfl, (Changes.refl _ _ s).cond _ _⟩
      fun _ ⟨hcount, hchanges⟩ => ⟨hcount, hchanges.queued⟩
  · exact awake_ends hres (addressTimeout_frees hmaster hheld hage)
      ⟨State.strUp_str s _, (Changes.refl _ _ s).part (m := [.str]) (only_with_str _ _)⟩ fun _ ⟨hstr, hchanges⟩ => ⟨hstr, hchanges.queued⟩
  · exact awake_ends hres (addressTimeout_drops hmaster haddr hquiet)
      ⟨State.get_set_lit _ (by decide) (by decide), set_changes s F.STR_STAT_ADDR noAddr⟩ fun _ ⟨hnone, hchanges⟩ => ⟨hnone, hchanges.queued⟩

end

section
/-! Frames of the Strings ring (R413, R414, R418, R421 to R425, R429). -/

set_option Elab.async false

namespace Sys2Proof.Machine

/-! ### What each stage of a frame leaves -/

section
variable {s t : State} {f : RingFrame}

theorem foldAtSof_changes (s : State) : Changes [.regs, .conds, .str] [G.STR_FOLD.ptr, G.STR_FOLD.cptr] s (foldAtSof s) :=
  ((Changes.refl _ _ s).part (m := [.str]) (only_with_str _ _)).cond _ _

theorem foldAtSof_str (s : State) : (foldAtSof s).str =
    { s.str with foldUp := s.str.foldUp || s.str.upBad, foldDown := s.str.foldDown || s.str.downBad } := by
  rw [foldAtSof, State.cond_str, State.strUp_str]

theorem foldAtSof_master (s : State) : (foldAtSof s).str.master = s.str.master := by rw [foldAtSof_str]

theorem foldAtSof_captured (s : State) : (foldAtSof s).str.captured = s.str.captured := by rw [foldAtSof_str]

/-- A field apart from the event of a fold reads as before. -/
theorem foldAtSof_get (s : State) (g : Fld) (hg : g.ptr ∉ [G.STR_FOLD.ptr, G.STR_FOLD.cptr] := by decide) : (foldAtSof s).get g = s.get g :=
  (foldAtSof_changes s).2.get g hg

theorem takesPart_congr (himage : t.str.image = s.str.image) (hen : t.get F.STR_CFG_RING_EN = s.get F.STR_CFG_RING_EN) :
    takesPart t = takesPart s := by
  rw [takesPart, State.on, himage, hen]
  rfl

theorem takesPart_foldAtSof (s : State) : takesPart (foldAtSof s) = takesPart s :=
  takesPart_congr (by rw [foldAtSof_str]) (foldAtSof_get s _)

theorem strAddr_foldAtSof (s : State) : strAddr (foldAtSof s) = strAddr s := foldAtSof_get s _

/-- The RUN slot holds what the block boundary captured. -/
theorem runSlot_foldAtSof (s : State) (n : Nat) : runSlot (foldAtSof s) n = runSlot s n := by
  rw [runSlot, foldAtSof_captured]
  rfl

theorem enumSlot_foldAtSof (s : State) (n : Nat) : enumSlot (foldAtSof s) n = enumSlot s n := by
  obtain ⟨hparts, hregs⟩ := foldAtSof_changes s
  have hpins : (foldAtSof s).pins = s.pins := hparts .pins (by decide)
  have htwin : (foldAtSof s).twin = s.twin := hparts .twin (by decide)
  have hrole : roleB (foldAtSof s) = roleB s := by
    rw [roleB, State.on, foldAtSof_get s F.TWN_STAT_ROLE]
    rfl
  have hmgr : (foldAtSof s).on F.STR_STAT_MGR = s.on F.STR_STAT_MGR := by
    rw [State.on, foldAtSof_get s F.STR_STAT_MGR]
    rfl
  have hpair : pairEn (foldAtSof s) = pairEn s := by
    rw [pairEn, State.on, foldAtSof_get s F.TWN_CFG_PAIR_EN]
    rfl
  have hup : linkUp (foldAtSof s) = linkUp s := by
    rw [linkUp, State.on, foldAtSof_get s F.TWN_STAT_LINK_UP]
    rfl
  unfold enumSlot owner
  rw [hrole, hpins, hmgr, hpair, hup, hregs R.SYS_DEVNUM_H (by decide), hregs R.SYS_DEVNUM_L (by decide), htwin]

end

/-! ### The master's frame (R418, R424) -/

section
variable {s : State} {enum : Bool}

theorem masterAddress_kept (haddr : strAddr s < 32) : masterAddress s enum = s := if_pos (by rw [decide_eq_true haddr]; rfl)

theorem takeCommand_none (hcur : s.str.cur = none) (hown : s.str.own = []) (hqueue : s.str.queue = []) : takeCommand s = s := by
  have hnext : nextCommand s = none := by
    rw [nextCommand, hown, hqueue]
    rfl
  rw [takeCommand, hcur, hnext]

/-- The ring's state as the master's frame leaves. -/
def frameOutStr (s : State) (enum : Bool) (x : Str) : Str :=
  { x with
    frameOut := true, frameEnum := enum, enumNext := false, copies := 0
    downGave := List.replicate 32 false, validNow := List.replicate 32 false
    enumSlots := if enum then List.replicate 32 [] else x.enumSlots
    carried := if x.cur.isSome then x.carried + 1 else x.carried
    lastSlot := if strAddr s < 32 then ownSlot s enum else x.lastSlot
    sent := ringBytes (masterFrame s enum), both := s.on F.STR_STAT_FOLDED }

/-- A master with an address and no command to carry sends its frame and does no more. -/
theorem frameStart_sends (horiginates : originates s = true) (haddr : strAddr s < 32) (hcur : s.str.cur = none) (hown : s.str.own = [])
    (hqueue : s.str.queue = []) (henum : (s.str.enumNext || decide (s.time.block % 12000 = 0)) = enum) :
    frameStart s = (foldAtSof s).strUp (frameOutStr (foldAtSof s) enum) := by
  have hstr := foldAtSof_str s
  have htime : (foldAtSof s).time = s.time := (foldAtSof_changes s).1 .time (by decide)
  have haddr' : strAddr (foldAtSof s) < 32 := strAddr_foldAtSof s ▸ haddr
  have hcur' : (foldAtSof s).str.cur = none := (congrArg Str.cur hstr).trans hcur
  have henum' : ((foldAtSof s).str.enumNext || decide ((foldAtSof s).time.block % 12000 = 0)) = enum := by
    rw [congrArg Str.enumNext hstr, htime]
    exact henum
  have htake : takeCommand (masterAddress (foldAtSof s) enum) = foldAtSof s := by
    rw [masterAddress_kept haddr']
    exact takeCommand_none hcur' ((congrArg Str.own hstr).trans hown) ((congrArg Str.queue hstr).trans hqueue)
  have hnone : ((foldAtSof s).strUp (frameOutStr (foldAtSof s) enum)).str.cur = none := (congrArg Str.cur (State.strUp_str _ _)).trans hcur'
  unfold frameStart
  rw [horiginates]
  dsimp only
  rw [henum', htake]
  rw [if_neg (by decide)]
  split
  · next c hsome => exact absurd (hnone.symm.trans hsome) nofun
  · rfl

theorem frameOut_lastSlot (haddr : strAddr s < 32) (enum : Bool) :
    (frameOutStr (foldAtSof s) enum (foldAtSof s).str).lastSlot = if enum then enumSlot s (strAddr s) else runSlot s (strAddr s) := by
  have haddr' : strAddr (foldAtSof s) < 32 := strAddr_foldAtSof s ▸ haddr
  refine (if_pos haddr').trans ?_
  rw [ownSlot, strAddr_foldAtSof, enumSlot_foldAtSof, runSlot_foldAtSof]

theorem frameOut_only (s : State) (enum : Bool) : Only [.regs, .conds, .str] s ((foldAtSof s).strUp (frameOutStr (foldAtSof s) enum)) :=
  (foldAtSof_only s).step (only_with_str _ _) (by decide)

end

/-! ### A frame at a node (R413, R416, R421 to R423) -/

section
variable {s : State} {f : RingFrame}

theorem writeSlot_own (haddr : strAddr s < 32) :
    writeSlot s f = s.strUp fun x => { x with lastSlot := if f.enum then enumSlot s (strAddr s) else runSlot s (strAddr s) } := if_pos haddr

/-- A node without an address joins at the lowest free slot of an ENUM frame on a straight ring. -/
theorem writeSlot_joins {n : Nat} (haddr : strAddr s = noAddr) (henum : f.enum = true) (hfold : f.fold = false)
    (hfree : (List.range 32).find? (fun n => slotByte0 f n == 0xFF) = some n) :
    writeSlot s f = (s.set F.STR_STAT_ADDR n).strUp fun x => { x with lastSlot := enumSlot s n } := by
  have hnone : ¬ strAddr s < 32 := by
    rw [haddr]
    decide
  unfold writeSlot
  dsimp only
  rw [if_neg hnone, henum, hfold, hfree]
  rfl

theorem writeSlot_changes (s : State) (f : RingFrame) :
    Changes [.regs, .str] [R.STR_STAT, G.STR_ENUM_OVER.ptr, G.STR_ENUM_OVER.cptr] s (writeSlot s f) := by
  unfold writeSlot
  dsimp only
  split
  · exact (Changes.refl _ _ s).part (m := [.str]) (only_with_str _ _)
  · split
    · exact Changes.refl _ _ s
    · split
      · exact (Changes.refl _ _ s).raise _
      · exact ((Changes.refl _ _ s).set _ _).part (m := [.str]) (only_with_str _ _)

/-- A field apart from the address and the event of a full enumeration reads as before. -/
theorem writeSlot_get (s : State) (f : RingFrame) {g : Fld} (haddr : F.STR_STAT_ADDR.disjoint g)
    (hflag : G.STR_ENUM_OVER.flagField.disjoint g) (hcount : G.STR_ENUM_OVER.countField.disjoint g) : (writeSlot s f).get g = s.get g := by
  unfold writeSlot
  dsimp only
  split
  · exact State.get_strUp _ _ _
  · split
    · rfl
    · split
      · exact State.get_raise_disjoint _ hflag hcount
      · rw [State.get_strUp, State.get_set_disjoint _ _ haddr]

theorem writeSlot_master (s : State) (f : RingFrame) : (writeSlot s f).str.master = s.str.master := by
  unfold writeSlot
  dsimp only
  split
  · rw [State.strUp_str]
  · split
    · rfl
    · split
      · rw [State.raise_str]
      · rw [State.strUp_str, State.set_str]

theorem forwardFrame_str (s : State) (f : RingFrame) (wrote : Bool) : ∃ b, (forwardFrame s f wrote).str = { s.str with sent := b } :=
  ⟨_, State.strUp_str _ _⟩

theorem forwardFrame_strOnly (s : State) (f : RingFrame) (wrote : Bool) : Only [.str] s (forwardFrame s f wrote) := only_with_str _ _

theorem forwardFrame_get (s : State) (f : RingFrame) (wrote : Bool) (g : Fld) : (forwardFrame s f wrote).get g = s.get g :=
  State.get_strUp _ _ _

/-- A damaged header goes on as it came. -/
theorem forwardFrame_damaged (hcrc : hcrcOk f = false) : (forwardFrame s f false).str.sent = ringBytes f := by
  have hturned : ¬ ((s.str.foldUp || s.str.foldDown) && hcrcOk f) = true := by
    rw [hcrc, Bool.and_false]
    exact Bool.false_ne_true
  unfold forwardFrame
  simp only [hturned, Bool.false_eq_true, if_false]
  rw [State.strUp_str]

/-- The frame concerns this node: its cluster takes part. -/
def frameMine (s : State) (f : RingFrame) : Bool := takesPart (foldAtSof s) && f.cluster.toNat == (foldAtSof s).get F.STR_CFG_CLUSTER

/-- The slot of a frame that concerns this node is written. -/
def slotWritten (s : State) (f : RingFrame) : State := if frameMine s f then writeSlot (foldAtSof s) f else foldAtSof s

/-- The frame has gone on. -/
def framePassed (s : State) (f : RingFrame) : State :=
  forwardFrame (slotWritten s f) f (frameMine s f && decide (strAddr (slotWritten s f) < 32))

/-- The block index and the cluster of the header are compared. -/
def frameCompared (s : State) (f : RingFrame) : State :=
  ((framePassed s f).raiseIf (f.blk.toNat != s.time.block) G.STR_BLK_SKEW).cond G.STR_CLUSTER_MISMATCH
    (f.cluster.toNat != (framePassed s f).get F.STR_CFG_CLUSTER)

theorem frameRx_damaged (hforward : s.str.forwarding = true) (hcrc : hcrcOk f = false) :
    frameRx s f = (forwardFrame (foldAtSof s) f false).raise G.STR_FRAME_BAD := by
  unfold frameRx
  rw [hforward, hcrc, if_neg (by decide)]
  dsimp only
  rw [if_pos (by decide)]

theorem frameRx_cut (hforward : s.str.forwarding = true) (hcrc : hcrcOk f = true) (hend : f.endOk = false) :
    frameRx s f = (frameCompared s f).raise G.STR_FRAME_BAD := by
  unfold frameRx
  rw [hforward, hcrc, hend, if_neg (by decide)]
  dsimp only
  rw [if_neg (by decide), if_pos (by decide)]
  unfold frameCompared framePassed slotWritten frameMine
  rfl

theorem frameRx_plain (hforward : s.str.forwarding = true) (hcrc : hcrcOk f = true) (hend : f.endOk = true)
    (hcmd : slotCommand f.cmd = none) : frameRx s f = originConflict (frameSeen (frameCompared s f) f) f := by
  unfold frameRx
  rw [hforward, hcrc, hend, hcmd, if_neg (by decide)]
  dsimp only
  rw [if_neg (by decide), if_neg (by decide)]
  unfold frameCompared framePassed slotWritten frameMine
  rfl

theorem frameMine_of (hpart : takesPart s = true) (hcluster : f.cluster.toNat = s.get F.STR_CFG_CLUSTER) : frameMine s f = true := by
  rw [frameMine, takesPart_foldAtSof, hpart, hcluster, foldAtSof_get s F.STR_CFG_CLUSTER]
  exact beq_self_eq_true _

/-! ### What the comparison leaves -/

theorem slotWritten_get (s : State) (f : RingFrame) {g : Fld} (hfold : g.ptr ∉ [G.STR_FOLD.ptr, G.STR_FOLD.cptr] ∨
      (G.STR_FOLD.flagField.disjoint g ∧ G.STR_FOLD.countField.disjoint g)) (haddr : F.STR_STAT_ADDR.disjoint g)
    (hflag : G.STR_ENUM_OVER.flagField.disjoint g) (hcount : G.STR_ENUM_OVER.countField.disjoint g) :
    (slotWritten s f).get g = s.get g := by
  have hkept : (foldAtSof s).get g = s.get g := by
    rcases hfold with h | ⟨h1, h2⟩
    · exact foldAtSof_get s g h
    · rw [foldAtSof, State.get_cond_disjoint _ _ h1 h2, State.get_strUp]
  rw [slotWritten, State.get_ite, writeSlot_get _ _ haddr hflag hcount, hkept, ite_self]

theorem slotWritten_master (s : State) (f : RingFrame) : (slotWritten s f).str.master = s.str.master := by
  unfold slotWritten
  split
  · rw [writeSlot_master, foldAtSof_master]
  · exact foldAtSof_master s

theorem slotWritten_only (s : State) (f : RingFrame) : Only [.regs, .conds, .str] s (slotWritten s f) := by
  unfold slotWritten
  split
  · exact writeSlot_step _ _ (foldAtSof_only s) (by decide)
  · exact foldAtSof_only s

theorem framePassed_only (s : State) (f : RingFrame) : Only [.regs, .conds, .str] s (framePassed s f) :=
  (slotWritten_only s f).step (forwardFrame_strOnly _ _ _) (by decide)

theorem frameCompared_only (s : State) (f : RingFrame) : Only [.regs, .conds, .str] s (frameCompared s f) :=
  State.cond_step _ _ _ (State.raiseIf_step _ _ _ (framePassed_only s f) (by decide)) (by decide)

theorem frameCompared_str (s : State) (f : RingFrame) : ∃ b, (frameCompared s f).str = { (slotWritten s f).str with sent := b } := by
  rw [frameCompared, State.cond_str, State.raiseIf_str]
  exact forwardFrame_str _ _ _

/-- A field apart from the two events of the comparison reads as the written slot left it. -/
theorem frameCompared_get (s : State) (f : RingFrame) {g : Fld}
    (hskew : G.STR_BLK_SKEW.flagField.disjoint g ∧ G.STR_BLK_SKEW.countField.disjoint g)
    (hmismatch : G.STR_CLUSTER_MISMATCH.flagField.disjoint g ∧ G.STR_CLUSTER_MISMATCH.countField.disjoint g) :
    (frameCompared s f).get g = (slotWritten s f).get g := by
  rw [frameCompared, State.get_cond_disjoint _ _ hmismatch.1 hmismatch.2, State.get_raiseIf_disjoint _ _ hskew.1 hskew.2, framePassed,
    forwardFrame_get]

/-- A frame of another block counts SKEW. -/
theorem frameCompared_counts (hskew : f.blk.toNat ≠ s.time.block) : counted G.STR_BLK_SKEW s (frameCompared s f) := by
  have hfrom : (framePassed s f).get G.STR_BLK_SKEW.countField = s.get G.STR_BLK_SKEW.countField := by
    rw [framePassed, forwardFrame_get]
    exact slotWritten_get s f (.inr (by decide)) (by decide) (by decide) (by decide)
  have hcount : counted G.STR_BLK_SKEW s ((framePassed s f).raise G.STR_BLK_SKEW) := counted_raise_of hfrom
  have hne : (f.blk.toNat != s.time.block) = true := bne_iff_ne.mpr hskew
  rw [frameCompared, hne]
  exact counted_congr hcount rfl (State.get_cond_disjoint _ _ (by decide) (by decide)) (State.get_cond_disjoint _ _ (by decide) (by decide))

/-- A frame that is damaged or cut is counted. -/
theorem frameRx_bad (hforward : s.str.forwarding = true) (hbad : hcrcOk f = false ∨ f.endOk = false) :
    counted G.STR_FRAME_BAD s (frameRx s f) ∧ (hcrcOk f = false → (frameRx s f).str.sent = ringBytes f) ∧
      Only [.regs, .conds, .str] s (frameRx s f) := by
  by_cases hcrc : hcrcOk f = true
  · rw [frameRx_cut hforward hcrc (hbad.resolve_left (by rw [hcrc]; decide))]
    refine ⟨counted_raise_of ?_, fun h => absurd (hcrc.symm.trans h) (by decide), State.raise_step _ _ (frameCompared_only s f) (by decide)⟩
    rw [frameCompared_get _ _ (by decide) (by decide)]
    exact slotWritten_get s f (.inr (by decide)) (by decide) (by decide) (by decide)
  · rw [Bool.not_eq_true] at hcrc
    rw [frameRx_damaged hforward hcrc]
    refine ⟨counted_raise_of ?_, fun _ => ?_, State.raise_step _ _ ((foldAtSof_only s).step (forwardFrame_strOnly _ _ _) (by decide)) (by decide)⟩
    · rw [forwardFrame_get, foldAtSof, State.get_cond_disjoint _ _ (by decide) (by decide), State.get_strUp]
    · rw [State.raise_str, forwardFrame_damaged hcrc]

/-! ### A frame that is valid (R421, R423) -/

/-- What the frame says to the node's registers. -/
def headShown (s : State) (f : RingFrame) : State :=
  ((s.set F.STR_STAT_NODES f.nodes.toNat).setB F.STR_STAT_FOLDED f.fold).cond G.STR_RING_LOST false

theorem frameSeen_get (s : State) (f : RingFrame) (g : Fld) : (frameSeen s f).get g = (headShown s f).get g := State.get_strUp _ _ _

theorem headShown_nodes (s : State) (f : RingFrame) : (headShown s f).get F.STR_STAT_NODES = f.nodes.toNat % 64 := by
  rw [headShown, State.get_condEnd, State.get_setB_disjoint _ _ (by decide), State.get_set_self _ _ (by decide)]
  rfl

theorem headShown_folded (s : State) (f : RingFrame) : (headShown s f).get F.STR_STAT_FOLDED = if f.fold then 1 else 0 := by
  rw [headShown, State.get_condEnd, State.get_setB_self _ _ (by decide)]

theorem headShown_get (s : State) (f : RingFrame) {g : Fld} (hnodes : F.STR_STAT_NODES.disjoint g) (hfolded : F.STR_STAT_FOLDED.disjoint g) :
    (headShown s f).get g = s.get g := by
  rw [headShown, State.get_condEnd, State.get_setB_disjoint _ _ hfolded, State.get_set_disjoint _ _ hnodes]

theorem frameSeen_str (s : State) (f : RingFrame) : (frameSeen s f).str.quiet = 0 ∧ (frameSeen s f).str.lastSlot = s.str.lastSlot ∧
    (frameSeen s f).str.master = s.str.master := by
  unfold frameSeen
  rw [State.strUp_str, State.cond_str, State.setB_str, State.set_str]
  exact ⟨rfl, rfl, rfl⟩

theorem originConflict_member (hmaster : s.str.master = false) : originConflict s f = s := by
  refine if_neg ?_
  rw [hmaster]
  exact Bool.false_ne_true

/-- A node that is no master takes what a valid frame says. -/
theorem frameRx_seen (hforward : s.str.forwarding = true) (hcrc : hcrcOk f = true) (hend : f.endOk = true)
    (hcmd : slotCommand f.cmd = none) (hmaster : s.str.master = false) : frameRx s f = frameSeen (frameCompared s f) f := by
  obtain ⟨b, hstr⟩ := frameCompared_str s f
  have hmember : (frameSeen (frameCompared s f) f).str.master = false := by
    rw [(frameSeen_str _ _).2.2, hstr]
    exact (slotWritten_master s f).trans hmaster
  rw [frameRx_plain hforward hcrc hend hcmd, originConflict_member hmember]

theorem frameSeen_compared_only (s : State) (f : RingFrame) : Only [.regs, .conds, .str] s (frameSeen (frameCompared s f) f) :=
  frameSeen_step _ _ (frameCompared_only s f) (by decide)

theorem strAddr_frameSeen (s : State) (f : RingFrame) : strAddr (frameSeen (frameCompared s f) f) = strAddr (slotWritten s f) := by
  rw [strAddr, frameSeen_get, headShown_get _ _ (by decide) (by decide), frameCompared_get _ _ (by decide) (by decide)]
  rfl

/-- A node with an address writes its own slot. -/
theorem slotWritten_own (hmine : frameMine s f = true) (haddr : strAddr s < 32) (henum : f.enum = false) :
    (slotWritten s f).str.lastSlot = runSlot s (strAddr s) ∧ strAddr (slotWritten s f) = strAddr s := by
  have haddr' : strAddr (foldAtSof s) < 32 := strAddr_foldAtSof s ▸ haddr
  have hwritten : slotWritten s f = writeSlot (foldAtSof s) f := if_pos hmine
  rw [hwritten, writeSlot_own haddr', henum, strAddr_foldAtSof]
  refine ⟨(congrArg Str.lastSlot (State.strUp_str _ _)).trans (runSlot_foldAtSof s _), ?_⟩
  exact (State.get_strUp _ _ _).trans (strAddr_foldAtSof s)

end

/-! ### The frame at the master again (R414, R422, R429) -/

section
variable {s : State} {f : RingFrame} {up : Bool}

/-- The words of a slot in the registers of its node. -/
def slotStored (bs : List Byte) (n m : Nat) (s : State) : State :=
  (List.range m).foldl (fun t j => t.wr (R.MGR_NODE (16 * n + j)) (BitVec.ofNat 32 (beAt bs (4 * j) 4))) s

theorem slotStored_succ (bs : List Byte) (n m : Nat) (s : State) :
    slotStored bs n (m + 1) s = (slotStored bs n m s).wr (R.MGR_NODE (16 * n + m)) (BitVec.ofNat 32 (beAt bs (4 * m) 4)) := by
  rw [slotStored, List.range_succ, List.foldl_append]
  rfl

theorem slotStored_rd (bs : List Byte) (n k : Nat) {m : Nat} (hm : m ≤ 16) (s : State) : (slotStored bs n m s).rd (R.MGR_NODE k) =
    if k / 16 = n ∧ k % 16 < m then BitVec.ofNat 32 (beAt bs (4 * (k % 16)) 4) else s.rd (R.MGR_NODE k) := by
  induction m with
  | zero => rw [if_neg (by omega)]; rfl
  | succ m ih =>
    rw [slotStored_succ, State.rd_wr, ih (by omega)]
    by_cases hk : k = 16 * n + m
    · subst hk
      have hdiv : (16 * n + m) / 16 = n ∧ (16 * n + m) % 16 = m := by omega
      rw [if_pos rfl, if_pos ⟨hdiv.1, by omega⟩, hdiv.2]
    · have hptr : ¬ R.MGR_NODE k = R.MGR_NODE (16 * n + m) := by
        show ¬ 0xb000 + 0x4 * k = 0xb000 + 0x4 * (16 * n + m)
        omega
      have hsame : (k / 16 = n ∧ k % 16 < m + 1) = (k / 16 = n ∧ k % 16 < m) := propext (by omega)
      rw [if_neg hptr]
      simp only [hsame]

/-- What the master notes when it takes slot n. -/
def slotNoted (f : RingFrame) (up : Bool) (n : Nat) (x : Str) : Str :=
  { x with
    held := if f.enum || (x.held.getD n none).isSome then x.held.set n (some 0) else x.held
    downGave := if up then x.downGave else x.downGave.set n true
    validNow := x.validNow.set n true
    enumSlots := if f.enum then x.enumSlots.set n (f.slots.getD n []) else x.enumSlots
    acked := match x.cur with
      | some c =>
        if !f.enum && beAt (f.slots.getD n []) 4 2 == c.cseq && x.targets.contains n && !x.acked.contains n then x.acked ++ [n] else x.acked
      | none => x.acked }

theorem takeSlot_run (f : RingFrame) (up : Bool) (s : State) (n : Nat) (henum : f.enum = false) :
    takeSlot f up s n = slotStored (f.slots.getD n []) n 16 (s.strUp (slotNoted f up n)) := by
  unfold takeSlot
  dsimp only
  rw [if_neg (Bool.eq_false_iff.mp henum)]
  rfl

theorem slotStored_str (bs : List Byte) (n m : Nat) (s : State) : (slotStored bs n m s).str = s.str :=
  foldl_keeps (part := State.str) (fun t _ => State.wr_str t _ _) _ s

/-- The ring's state after a slot of a RUN frame is taken. -/
theorem takeSlot_str (f : RingFrame) (up : Bool) (s : State) (n : Nat) (henum : f.enum = false) :
    (takeSlot f up s n).str.quiet = s.str.quiet ∧ (takeSlot f up s n).str.copies = s.str.copies ∧ (takeSlot f up s n).str.cur = s.str.cur := by
  rw [takeSlot_run _ _ _ _ henum, slotStored_str, State.strUp_str]
  exact ⟨rfl, rfl, rfl⟩

/-- A slot that is taken goes to the registers of its node alone. -/
theorem takeSlot_rd (f : RingFrame) (up : Bool) (s : State) (n k : Nat) (henum : f.enum = false) : (takeSlot f up s n).rd (R.MGR_NODE k) =
    if k / 16 = n then BitVec.ofNat 32 (beAt (f.slots.getD n []) (4 * (k % 16)) 4) else s.rd (R.MGR_NODE k) := by
  have hlow : k % 16 < 16 := Nat.mod_lt _ (by decide)
  rw [takeSlot_run _ _ _ _ henum, slotStored_rd _ n k (Nat.le_refl 16), State.strUp_rd]
  simp only [hlow, and_true]

theorem takeSlots_str (f : RingFrame) (up : Bool) (henum : f.enum = false) (l : List Nat) (s : State) :
    (l.foldl (takeSlot f up) s).str.quiet = s.str.quiet ∧ (l.foldl (takeSlot f up) s).str.copies = s.str.copies ∧
      (l.foldl (takeSlot f up) s).str.cur = s.str.cur :=
  ⟨foldl_keeps (part := fun t => t.str.quiet) (fun t n => (takeSlot_str f up t n henum).1) l s,
    foldl_keeps (part := fun t => t.str.copies) (fun t n => (takeSlot_str f up t n henum).2.1) l s,
    foldl_keeps (part := fun t => t.str.cur) (fun t n => (takeSlot_str f up t n henum).2.2) l s⟩

/-- The slots that are taken go to the registers of their nodes, and the registers of the others stay. -/
theorem takeSlots_rd (f : RingFrame) (up : Bool) (henum : f.enum = false) (k : Nat) (l : List Nat) (s : State) :
    (l.foldl (takeSlot f up) s).rd (R.MGR_NODE k) =
      if k / 16 ∈ l then BitVec.ofNat 32 (beAt (f.slots.getD (k / 16) []) (4 * (k % 16)) 4) else s.rd (R.MGR_NODE k) := by
  induction l generalizing s with
  | nil => rw [if_neg (List.not_mem_nil)]; rfl
  | cons n l ih =>
    rw [List.foldl_cons, ih, takeSlot_rd _ _ _ _ _ henum]
    by_cases hl : k / 16 ∈ l
    · rw [if_pos hl, if_pos (List.mem_cons_of_mem _ hl)]
    · rw [if_neg hl]
      by_cases hn : k / 16 = n
      · rw [if_pos hn, if_pos (hn ▸ List.mem_cons_self), hn]
      · rw [if_neg hn, if_neg (by simp [hl, hn])]

/-- A copy has returned, before its slots are taken. -/
def copyBack (s : State) (f : RingFrame) : State :=
  (((s.setB F.STR_STAT_FOLDED f.fold).set F.STR_STAT_NODES f.nodes.toNat).cond G.STR_RING_LOST false).strUp
    fun x => { x with quiet := 0, copies := x.copies + 1 }

/-- The slots of the copy are in the registers of their nodes. -/
def slotsStored (s : State) (f : RingFrame) (up : Bool) : State :=
  (goodSlots (copyBack s f).str f up).foldl (takeSlot f up) (copyBack s f)

/-- The nodes that have given a valid slot. -/
def validMask (s : State) : Nat := (List.range 32).foldl (fun a n => if s.str.validNow.getD n false then a + 2 ^ n else a) 0

/-- The slots of the copy are taken, and MGR_NVALID shows which. -/
def slotsTaken (s : State) (f : RingFrame) (up : Bool) : State :=
  ((slotsStored s f up).set F.MGR_NVALID_VALID (validMask (slotsStored s f up))).strUp fun x => { x with validLast := x.validNow }

theorem copyBack_changes (s : State) (f : RingFrame) : Changes [.regs, .conds, .str] [R.STR_STAT] s (copyBack s f) :=
  ((((Changes.refl _ _ s).setB _ _).set _ _).condEnd _).part (m := [.str]) (only_with_str _ _)

theorem copyBack_str (s : State) (f : RingFrame) : (copyBack s f).str = { s.str with quiet := 0, copies := s.str.copies + 1 } := by
  rw [copyBack, State.strUp_str, State.cond_str, State.set_str, State.setB_str]

theorem slotsTaken_state (s : State) (f : RingFrame) (up : Bool) :
    (slotsTaken s f up).str = { (slotsStored s f up).str with validLast := (slotsStored s f up).str.validNow } := by
  rw [slotsTaken, State.strUp_str, State.set_str]

theorem slotsTaken_str (s : State) (up : Bool) (henum : f.enum = false) : (slotsTaken s f up).str.quiet = 0 ∧
    (slotsTaken s f up).str.copies = s.str.copies + 1 ∧ (slotsTaken s f up).str.cur = s.str.cur := by
  obtain ⟨hquiet, hcopies, hcur⟩ := takeSlots_str f up henum (goodSlots (copyBack s f).str f up) (copyBack s f)
  have hback := copyBack_str s f
  rw [slotsTaken_state]
  exact ⟨hquiet.trans (by rw [hback]), hcopies.trans (by rw [hback]), hcur.trans (by rw [hback])⟩

theorem slotsTaken_rd (s : State) (up : Bool) (henum : f.enum = false) {k : Nat} (hk : k < 512) : (slotsTaken s f up).rd (R.MGR_NODE k) =
    if k / 16 ∈ goodSlots (copyBack s f).str f up then BitVec.ofNat 32 (beAt (f.slots.getD (k / 16) []) (4 * (k % 16)) 4)
      else s.rd (R.MGR_NODE k) := by
  have hvalid : R.MGR_NODE k ≠ F.MGR_NVALID_VALID.ptr := by
    show 0xb000 + 0x4 * k ≠ 0xb800
    omega
  have hstat : R.MGR_NODE k ∉ [R.STR_STAT] := by
    rw [List.mem_singleton]
    show ¬ 0xb000 + 0x4 * k = 0x710
    omega
  rw [slotsTaken, State.strUp_rd, State.rd_set_other _ _ _ _ hvalid, slotsStored, takeSlots_rd _ _ henum, (copyBack_changes s f).2 _ hstat]

theorem slotsTaken_only (s : State) (f : RingFrame) (up : Bool) : Only [.regs, .conds, .str] s (slotsTaken s f up) :=
  ((((copyBack_changes s f).1.trans (Only.foldl (fun t n => (takeSlot_only f up t n).mono (by decide)) (Only.refl _ _))).trans
    ((State.set_only _ _ _).mono (by decide))).step (only_with_str _ _) (by decide))

/-- How the master ends with a copy whose slots are taken. -/
def copyEnds (s : State) (f : RingFrame) : State :=
  if f.fold && (judgeCommand s).str.copies < 2 then judgeCommand s
  else if f.enum then enumerated (failCarried (judgeCommand s)) f else unfoldRing (failCarried (judgeCommand s)) f

theorem frameReturn_ends (hout : s.str.frameOut = true) (horigin : f.origin = ownOrigin s) (hcrc : hcrcOk f = true)
    (hend : f.endOk = true) (henum : f.enum = false) : frameReturn s f up = copyEnds (slotsTaken s f up) f := by
  have hmask : ∀ (u v : State), (if f.enum then u else v) = v := fun u v => if_neg (Bool.eq_false_iff.mp henum)
  unfold frameReturn
  rw [if_neg (by rw [hout]; decide), if_neg (not_not.mpr horigin), if_neg (by rw [hcrc, hend]; decide)]
  extract_lets s1 s2 s3 mask s4 s5 s6
  have hs4 : s4 = s3.set F.MGR_NVALID_VALID mask := hmask _ _
  have hs5 : s5 = judgeCommand (slotsTaken s f up) := congrArg (fun u : State => judgeCommand (u.strUp fun x => { x with validLast := x.validNow })) hs4
  have hs6 : s6 = failCarried s5 := rfl
  rw [copyEnds, ← hs5, hs6]

/-- On a straight ring with no command carried, a returned copy of a RUN frame does no more than bring its slots. -/
theorem copyEnds_straight (henum : f.enum = false) (hfold : f.fold = false) (hcur : s.str.cur = none) : copyEnds s f = s := by
  have hjudge : judgeCommand s = s := by
    rw [judgeCommand, hcur]
  have hcarried : failCarried s = s := by
    rw [failCarried, hcur]
  have hunfold : unfoldRing s f = s := by
    unfold unfoldRing
    rw [hfold]
    rfl
  rw [copyEnds, hjudge, hcarried, hunfold, hfold, henum]
  rfl

theorem frameReturn_takes (hout : s.str.frameOut = true) (horigin : f.origin = ownOrigin s) (hcrc : hcrcOk f = true)
    (hend : f.endOk = true) (henum : f.enum = false) (hfold : f.fold = false) (hcur : s.str.cur = none) :
    frameReturn s f up = slotsTaken s f up :=
  (frameReturn_ends hout horigin hcrc hend henum).trans
    (copyEnds_straight henum hfold ((slotsTaken_str s up henum).2.2.trans hcur))

theorem mem_goodSlots {x : Str} {n : Nat} : n ∈ goodSlots x f up ↔ n < 32 ∧ slotValid n (f.slots.getD n []) = true ∧
    (up = true → x.downGave.getD n false = false) := by
  unfold goodSlots
  rw [List.mem_filter, List.mem_range]
  cases up <;> simp

/-- Two masters: the one with the higher ORIGIN yields (R414). -/
theorem frameReturn_conflict (hout : s.str.frameOut = true) (hmaster : s.str.master = true) (hlower : f.origin.toNat < (ownOrigin s).toNat) :
    frameReturn s f up = (s.strUp fun x => { x with stopDue := true }).raise G.STR_MGR_CONFLICT := by
  have hne : f.origin ≠ ownOrigin s := fun h => by
    rw [h] at hlower
    exact Nat.lt_irrefl _ hlower
  unfold frameReturn originConflict
  rw [hout, hmaster, if_neg (by decide), if_pos hne, if_pos (by rw [bne_iff_ne.mpr hne]; rfl)]
  simp only [decide_eq_true hlower, Bool.or_true]

end

end Sys2Proof.Machine

open Sys2Proof Sys2Proof.Machine in
/-- Settles O36: the master's RUN and ENUM frame, the frame at a node that has an address and at one that joins, a damaged frame, the copy that
returns, and two masters. -/
theorem stringsFrames : Obligations.StringsFrames := by
  unfold Obligations.StringsFrames
  intro s hres
  refine ⟨fun horiginates haddr hcur hown hqueue htime henum => ?_, fun horiginates haddr hcur hown hqueue henum => ?_,
    fun f hforward hcrc hend hpart hcluster haddr henum hcmd hmaster => ?_,
    fun f n hforward hcrc hend hpart hcluster haddr henum hfold hcmd hmaster hfree => ?_, fun f hforward hbad => ?_,
    fun f up hout horigin hcrc hend henum hfold hcur hgave => ?_, fun f up hout hmaster hlower => ?_⟩
  · have hsends := frameStart_sends (enum := false) horiginates haddr hcur hown hqueue (by rw [henum, decide_eq_false htime]; rfl)
    exact awake_ends hres hsends ⟨rfl, rfl, frameOut_lastSlot haddr false, frameOut_only s false⟩
      fun _ ⟨hout, hrun, hslot, honly⟩ => ⟨hout, hrun, hslot, honly.queued⟩
  · have hsends := frameStart_sends (enum := true) horiginates haddr hcur hown hqueue (by rw [henum]; rfl)
    exact awake_ends hres hsends ⟨rfl, rfl, frameOut_lastSlot haddr true, rfl, frameOut_only s true⟩
      fun _ ⟨hout, hrun, hslot, hnext, honly⟩ => ⟨hout, hrun, hslot, hnext, honly.queued⟩
  · obtain ⟨b, hstr⟩ := frameCompared_str s f
    obtain ⟨hquiet, hslot, -⟩ := frameSeen_str (frameCompared s f) f
    obtain ⟨hown, hkept⟩ := slotWritten_own (frameMine_of hpart hcluster) haddr henum
    refine awake_ends hres (frameRx_seen hforward hcrc hend hcmd hmaster)
      ⟨hquiet, hslot.trans ?_, (frameSeen_get _ _ _).trans (headShown_nodes _ _), (frameSeen_get _ _ _).trans (headShown_folded _ _),
        (strAddr_frameSeen s f).trans hkept, fun hskew => ?_, frameSeen_compared_only s f⟩
      fun _ ⟨hquiet, hslot, hnodes, hfolded, haddr, hskew, honly⟩ => ⟨hquiet, hslot, hnodes, hfolded, haddr, hskew, honly.queued⟩
    · rw [hstr]
      exact hown
    · refine counted_congr (frameCompared_counts hskew) rfl ?_ ?_ <;>
        rw [frameSeen_get, headShown_get _ _ (by decide) (by decide)]
  · have haddr' : strAddr (foldAtSof s) = noAddr := (strAddr_foldAtSof s).trans haddr
    have hlt : n < 32 := List.mem_range.mp (List.mem_of_find?_eq_some hfree)
    refine awake_ends hres (frameRx_seen hforward hcrc hend hcmd hmaster)
      ⟨(strAddr_frameSeen s f).trans ?_, frameSeen_compared_only s f⟩ fun _ ⟨haddr, honly⟩ => ⟨haddr, honly.queued⟩
    rw [slotWritten, if_pos (frameMine_of hpart hcluster), writeSlot_joins haddr' henum hfold hfree, strAddr, State.get_strUp,
      State.get_set_lit _ (by decide) (Nat.lt_trans hlt (by decide))]
  · exact awake_ends hres rfl (frameRx_bad hforward hbad) fun _ ⟨hcount, hsent, honly⟩ => ⟨hcount, hsent, honly.queued⟩
  · obtain ⟨hquiet, hcopies, -⟩ := slotsTaken_str s up henum
    have hgave' : ∀ n < 32, up = true → (copyBack s f).str.downGave.getD n false = false := fun n hn hup => by
      rw [copyBack_str]
      exact hgave hup n hn
    refine awake_ends hres (frameReturn_takes hout horigin hcrc hend henum hfold hcur)
      ⟨hquiet, hcopies, fun n hn hvalid j hj => ?_, fun n hn hvalid j hj => ?_, slotsTaken_only s f up⟩
      fun _ ⟨hquiet, hcopies, hgood, hother, honly⟩ => ⟨hquiet, hcopies, hgood, hother, honly.queued⟩
    · have hdiv : (16 * n + j) / 16 = n ∧ (16 * n + j) % 16 = j := by omega
      rw [slotsTaken_rd s up henum (by omega), hdiv.1, hdiv.2, if_pos (mem_goodSlots.mpr ⟨hn, hvalid, hgave' n hn⟩)]
    · have hdiv : (16 * n + j) / 16 = n := by omega
      rw [slotsTaken_rd s up henum (by omega), hdiv, if_neg fun hgood => ?_]
      rw [(mem_goodSlots.mp hgood).2.1] at hvalid
      exact absurd hvalid (by decide)
  · have hconflict : Changes [.regs, .str] [G.STR_MGR_CONFLICT.ptr, G.STR_MGR_CONFLICT.cptr] s
        ((s.strUp fun x => { x with stopDue := true }).raise G.STR_MGR_CONFLICT) :=
      ((Changes.refl _ _ s).part (m := [.str]) (only_with_str _ _)).raise _
    exact awake_ends hres (frameReturn_conflict hout hmaster hlower)
      ⟨(State.raise_str _ _).trans (State.strUp_str _ _), counted_raise_of (State.get_strUp _ _ _), hconflict⟩
      fun _ ⟨hstr, hcount, hchanges⟩ => ⟨hstr, hcount, hchanges.queued⟩

end

section
/-! The command and telemetry rings: counts, entries and their store (R474 to R476, R478). -/

set_option Elab.async false

namespace Sys2Proof.Machine

/-- A word of a bank stays where the banks do. -/
theorem State.bank_of_only {l : List Part} {s t : State} (h : Only l s t) (k : Nat) (hb : .banks ∉ l := by decide) : t.bank k = s.bank k := by
  unfold State.bank
  rw [h .banks hb]

theorem State.queued_changes (s : State) (q : List Instr) : Changes [.pending] [] s (s.queued q) :=
  ⟨fun p hp => by cases p <;> first | rfl | exact absurd (List.mem_singleton_self _) hp, fun _ _ => rfl⟩

/-! ### Sizes and counts (R476) -/

section
variable {s t : State} {r n : Nat}

theorem sizeOfCode_bounds (c : Nat) : 0 < sizeOfCode c ∧ sizeOfCode c ≤ 1024 := by
  unfold sizeOfCode
  match c with
  | 0 | 1 | 2 | 3 => decide
  | n + 4 => rw [List.getD_eq_default _ _ (by show 4 ≤ n + 4; omega)]; decide

theorem ringSize_bounds (s : State) (r : Nat) : 0 < ringSize s r ∧ ringSize s r ≤ 1024 := sizeOfCode_bounds _

theorem ringSize_congr (h : t.get (F.RNG_CFG_SIZE r) = s.get (F.RNG_CFG_SIZE r)) : ringSize t r = ringSize s r := by
  rw [ringSize, h]
  rfl

theorem ringFull_congr (hsize : ringSize t r = ringSize s r) (hcount : ringCount t r = ringCount s r) : ringFull t r = ringFull s r := by
  rw [ringFull, hsize, hcount]
  rfl

theorem ringCount_lt_of_space (h : ringFull s r = false) : ringCount s r < 1024 :=
  Nat.lt_of_lt_of_le (Nat.not_le.mp (of_decide_eq_false h)) (ringSize_bounds s r).2

/-- COUNT, EMPTY and FULL show n entries. -/
def countShown (s : State) (r n : Nat) : State :=
  ((s.set (F.RNG_STAT_COUNT r) n).setB (F.RNG_STAT_EMPTY r) (n = 0)).setB (F.RNG_STAT_FULL r) (decide (ringSize s r ≤ n))

theorem setCount_eq (s : State) (r n : Nat) : ∃ q, setCount s r n = (countShown s r n).set (F.RNG_RPTR_RSEQ r) q := ⟨_, rfl⟩

theorem setCount_changes (s : State) (r n : Nat) : Changes [.regs] [R.RNG_RPTR r, R.RNG_STAT r] s (setCount s r n) := by
  obtain ⟨q, h⟩ := setCount_eq s r n
  rw [h]
  exact ((((Changes.refl _ _ s).set _ _).setB _ _).setB _ _).set _ _

theorem setCount_count (hn : n < 2048) : ringCount (setCount s r n) r = n := by
  obtain ⟨q, h⟩ := setCount_eq s r n
  rw [ringCount, h, State.get_set_disjoint _ _ (by simp [Fld.disjoint]), countShown, State.get_setB_disjoint _ _ (by simp [Fld.disjoint]),
    State.get_setB_disjoint _ _ (by simp [Fld.disjoint]), State.get_set_lit _ (by simp) hn]

theorem setCount_ridx (s : State) (r n : Nat) : (setCount s r n).get (F.RNG_RPTR_RIDX r) = s.get (F.RNG_RPTR_RIDX r) := by
  obtain ⟨q, h⟩ := setCount_eq s r n
  rw [h, State.get_set_disjoint _ _ (by simp [Fld.disjoint]), countShown, State.get_setB_disjoint _ _ (by simp [Fld.disjoint]),
    State.get_setB_disjoint _ _ (by simp [Fld.disjoint]), State.get_set_disjoint _ _ (by simp [Fld.disjoint])]

end

/-! ### The entry stored at WIDX (R474, R475) -/

section
variable {s : State} {r type ch : Nat} {payload : List Word}

theorem bankWritten_changes (s : State) (b w : Nat) : Changes [.regs, .mem] [R.MEM_INJ] s (bankWritten s b w) := by
  unfold bankWritten
  dsimp only
  split
  · exact ((Changes.refl _ _ s).part (setErr_only _ _ _)).set _ _
  · exact (Changes.refl _ _ s).part (setErr_only _ _ _)

/-- Word 0 of an entry: SEQ, TYPE and CH. -/
def entryHead (s : State) (r type ch : Nat) : Word := BitVec.ofNat 32 (s.get (F.RNG_WPTR_WSEQ r) * 65536 + type % 256 * 256 + ch % 256)

/-- The four words of the entry stand at index i. -/
def entryPut (s : State) (r i : Nat) (w0 : Word) (payload : List Word) : State :=
  (((s.putBank (ringKey r i 0) w0).putBank (ringKey r i 1) (payload.getD 0 0)).putBank (ringKey r i 2) (payload.getD 1 0)).putBank
    (ringKey r i 3) (payload.getD 2 0)

/-- The entry is stored, before the pointers move on. -/
def entryStored (s : State) (r type ch : Nat) (payload : List Word) : State :=
  bankWritten (entryPut s r (s.get (F.RNG_WPTR_WIDX r)) (entryHead s r type ch) payload)
    (ringErrKey r (s.get (F.RNG_WPTR_WIDX r)) / 16384) (ringErrKey r (s.get (F.RNG_WPTR_WIDX r)) % 16384)

theorem ringStore_eq (s : State) (r type ch : Nat) (payload : List Word) : ringStore s r type ch payload =
    setCount ((takeSeq (entryStored s r type ch payload) r).set (F.RNG_WPTR_WIDX r)
      ((s.get (F.RNG_WPTR_WIDX r) + 1) % ringSize s r)) r (ringCount s r + 1) := rfl

theorem entryPut_changes (s : State) (r i : Nat) (w0 : Word) (payload : List Word) : Changes [.banks] [] s (entryPut s r i w0 payload) :=
  ⟨State.putBank_step _ _ _ (State.putBank_step _ _ _ (State.putBank_step _ _ _ (State.putBank_only _ _ _) (by decide)) (by decide)) (by decide),
    fun _ _ => rfl⟩

theorem entryStored_changes (s : State) (r type ch : Nat) (payload : List Word) :
    Changes [.regs, .banks, .mem] [R.MEM_INJ] s (entryStored s r type ch payload) :=
  (entryPut_changes s r _ _ payload).mono.trans (bankWritten_changes _ _ _).mono

theorem entryPut_head (s : State) (r i : Nat) (w0 : Word) (payload : List Word) : (entryPut s r i w0 payload).bank (ringKey r i 0) = w0 := by
  unfold entryPut ringKey
  rw [State.bank_putBank, if_neg (by omega), State.bank_putBank, if_neg (by omega), State.bank_putBank, if_neg (by omega), State.bank_putBank,
    if_pos rfl]

theorem entryPut_word (s : State) (r i : Nat) (w0 : Word) (payload : List Word) {j : Nat} (hj : j < 3) :
    (entryPut s r i w0 payload).bank (ringKey r i (j + 1)) = payload.getD j 0 := by
  unfold entryPut ringKey
  simp only [State.bank_putBank]
  match j, hj with
  | 0, _ => rw [if_neg (by omega), if_neg (by omega), if_pos rfl]
  | 1, _ => rw [if_neg (by omega), if_pos rfl]
  | 2, _ => rw [if_pos rfl]

theorem ringStore_bank (k : Nat) : (ringStore s r type ch payload).bank k =
    (entryPut s r (s.get (F.RNG_WPTR_WIDX r)) (entryHead s r type ch) payload).bank k := by
  have hmoved : Only [.regs, .mem] (entryPut s r (s.get (F.RNG_WPTR_WIDX r)) (entryHead s r type ch) payload)
      (ringStore s r type ch payload) := by
    rw [ringStore_eq]
    exact setCount_step _ _ _ (State.set_step _ _ _ (takeSeq_step _ _ (bankWritten_only _ _ _) (by decide)) (by decide)) (by decide)
  exact State.bank_of_only hmoved k

theorem ringStore_head : (ringStore s r type ch payload).bank (ringKey r (s.get (F.RNG_WPTR_WIDX r)) 0) = entryHead s r type ch := by
  rw [ringStore_bank, entryPut_head]

theorem ringStore_word {j : Nat} (hj : j < 3) :
    (ringStore s r type ch payload).bank (ringKey r (s.get (F.RNG_WPTR_WIDX r)) (j + 1)) = payload.getD j 0 := by
  rw [ringStore_bank, entryPut_word _ _ _ _ _ hj]

theorem ringStore_count (hspace : ringFull s r = false) : ringCount (ringStore s r type ch payload) r = ringCount s r + 1 := by
  rw [ringStore_eq, setCount_count (Nat.lt_of_le_of_lt (ringCount_lt_of_space hspace) (by decide))]

theorem ringStore_widx : (ringStore s r type ch payload).get (F.RNG_WPTR_WIDX r) = (s.get (F.RNG_WPTR_WIDX r) + 1) % ringSize s r := by
  obtain ⟨hpos, hsize⟩ := ringSize_bounds s r
  have hlow : (s.get (F.RNG_WPTR_WIDX r) + 1) % ringSize s r < 1024 := Nat.lt_of_lt_of_le (Nat.mod_lt _ hpos) hsize
  rw [ringStore_eq, (setCount_changes _ _ _).2.get (F.RNG_WPTR_WIDX r) (by simp)]
  exact State.get_set_lit _ (by simp) hlow

theorem ringStore_wseq : (ringStore s r type ch payload).get (F.RNG_WPTR_WSEQ r) = (s.get (F.RNG_WPTR_WSEQ r) + 1) % 65536 := by
  have hkept : (entryStored s r type ch payload).get (F.RNG_WPTR_WSEQ r) = s.get (F.RNG_WPTR_WSEQ r) :=
    (entryStored_changes s r type ch payload).2.get _ (by
      rw [List.mem_singleton]
      show ¬ 0x9004 + 0x80 * r = 0x428
      omega)
  rw [ringStore_eq, (setCount_changes _ _ _).2.get (F.RNG_WPTR_WSEQ r) (by simp), State.get_set_disjoint _ _ (by simp [Fld.disjoint]),
    takeSeq, hkept]
  exact State.get_set_lit _ (by simp) (Nat.mod_lt _ (by decide))

theorem entryHead_toNat (s : State) {r type ch : Nat} (htype : type < 256) (hch : ch < 256) :
    (entryHead s r type ch).toNat = s.get (F.RNG_WPTR_WSEQ r) * 65536 + type * 256 + ch := by
  have hseq : s.get (F.RNG_WPTR_WSEQ r) < 65536 := State.get_lt _ _
  rw [entryHead, Nat.mod_eq_of_lt htype, Nat.mod_eq_of_lt hch, BitVec.toNat_ofNat, Nat.mod_eq_of_lt (by omega)]

end

/-! ### A push into a CMD ring (R478) -/

section
variable {s : State} {r : Nat} {ws : List Word}

/-- The entry of a push, with its mark where it came late for the coming boundary. -/
def pushedEntry (s : State) (r : Nat) (ws : List Word) : State :=
  ringStore s r ((ws.getD 0 0).toNat / 256 % 256) ((ws.getD 0 0).toNat % 256) (ws.drop 1)

/-- The mark of a push that came late for the coming boundary (R479). -/
def lateMarked (s : State) (r : Nat) (late : Bool) : State := if late then s.ringUp r fun x => { x with late := x.late + 1 } else s

theorem lateMarked_changes (s : State) (r : Nat) (late : Bool) : Changes [.rings] [] s (lateMarked s r late) := by
  unfold lateMarked
  split
  · exact (Changes.refl _ _ s).part (State.ringUp_only _ _ _)
  · exact Changes.refl _ _ s

theorem cmdPush_takes (hen : s.get (F.RNG_CFG_EN r) = 1) (hspace : ringFull s r = false) :
    cmdPush s r ws = (lateMarked (pushedEntry s r ws) r (pushLate s), true) := by
  have hopen : (!s.on (F.RNG_CFG_EN r) || ringFull s r) = false := by
    rw [State.on, hen, hspace]
    rfl
  unfold cmdPush lateMarked pushedEntry
  rw [if_neg (Bool.eq_false_iff.mp hopen)]

theorem cmdPush_refused (h : s.get (F.RNG_CFG_EN r) = 0 ∨ ringFull s r = true) : cmdPush s r ws = (s, false) := by
  refine if_pos ?_
  rcases h with hen | hfull
  · rw [State.on, hen]
    rfl
  · rw [hfull, Bool.or_true]

/-- Where the entry of a push stands, and the pointers after it. -/
theorem pushedEntry_shows (hspace : ringFull s r = false) : ringCount (pushedEntry s r ws) r = ringCount s r + 1 ∧
    (pushedEntry s r ws).get (F.RNG_WPTR_WSEQ r) = (s.get (F.RNG_WPTR_WSEQ r) + 1) % 65536 ∧
    (pushedEntry s r ws).get (F.RNG_WPTR_WIDX r) = (s.get (F.RNG_WPTR_WIDX r) + 1) % ringSize s r ∧
    ((pushedEntry s r ws).bank (ringKey r (s.get (F.RNG_WPTR_WIDX r)) 0)).toNat =
      s.get (F.RNG_WPTR_WSEQ r) * 65536 + (ws.getD 0 0).toNat % 65536 ∧
    ∀ j < 3, (pushedEntry s r ws).bank (ringKey r (s.get (F.RNG_WPTR_WIDX r)) (j + 1)) = ws.getD (j + 1) 0 := by
  refine ⟨ringStore_count hspace, ringStore_wseq, ringStore_widx, ?_, fun j hj => ?_⟩
  · rw [pushedEntry, ringStore_head, entryHead_toNat _ (Nat.mod_lt _ (by decide)) (Nat.mod_lt _ (by decide))]
    omega
  · rw [pushedEntry, ringStore_word hj, List.getD_eq_getElem?_getD, List.getElem?_drop, Nat.add_comm, ← List.getD_eq_getElem?_getD]

end

end Sys2Proof.Machine

end

section
/-! Commands of the Strings ring at a node and at the manager (R427, R430, R432 to R434, R436, R439). -/

set_option Elab.async false

namespace Sys2Proof.Machine

section
variable {s t : State} {q n r : Nat} {p : List Byte} {v : Word}

/-! ### A command is applied once (R433) -/

theorem onceOnly_repeated (h : s.str.ackSeq = q) (k : State → State) : onceOnly s q k = s := if_pos h

theorem onceOnly_new (h : s.str.ackSeq ≠ q) (k : State → State) : onceOnly s q k = k s := if_neg h

/-- A new command does what its effect does. -/
theorem onceOnly_applies {u : State} (h : s.str.ackSeq ≠ q) {k : State → State} (hk : k s = u) : onceOnly s q k = u :=
  (onceOnly_new h k).trans hk

theorem acknowledge_str (s : State) (q n : Nat) : (acknowledge s q n).str = { s.str with ackSeq := q, ack := n } := State.strUp_str _ _

theorem acknowledge_changes (s : State) (q n : Nat) : Changes [.str] [] s (acknowledge s q n) :=
  (Changes.refl _ _ s).part (acknowledge_only s q n)

theorem acknowledge_get (s : State) (q n : Nat) (f : Fld) : (acknowledge s q n).get f = s.get f := State.get_strUp _ _ _

/-! ### REGW and RINGW (R432, R478) -/

/-- The groups of a REGW that is illegal as a whole. -/
def regwIllegal (p : List Byte) : Prop := beAt p 0 1 = 0 ∨ 4 < beAt p 0 1 ∨
  (regwGroups p (beAt p 0 1)).any (fun g => decide (0xB000 ≤ g.1) || g.1 % 4 != 0) = true

theorem applyRegw_refuses (h : regwIllegal p) : applyRegw s q p = acknowledge s q 0x30 := if_pos h

theorem applyRegw_writes (h : ¬ regwIllegal p) :
    applyRegw s q p = acknowledge (regWrites s .ringEngine (regwGroups p (beAt p 0 1))) q 0 := if_neg h

/-- The entry that RINGW carries. -/
def ringwEntry (p : List Byte) : List Word := (List.range 4).map fun i => BitVec.ofNat 32 (beAt p (1 + 4 * i) 4)

theorem applyRingw_illegal (h : 16 ≤ beAt p 0 1) : applyRingw s q p = acknowledge s q 0x30 := if_pos h

theorem applyRingw_eq (hr : r = beAt p 0 1) (hlow : r < 16) : applyRingw s q p =
    if (cmdPush s r (ringwEntry p)).2 then acknowledge (cmdPush s r (ringwEntry p)).1 q 0
    else if ringFull s r && s.on (F.RNG_CFG_EN r) then s.raise (G.RNG_PUSH_REFUSED r)
    else acknowledge (s.raise (G.RNG_PUSH_REFUSED r)) q 0 := by
  subst hr
  unfold applyRingw ringwEntry ackApplied
  dsimp only
  rw [if_neg (Nat.not_le.mpr hlow)]

theorem applyRingw_takes (hr : r = beAt p 0 1) (hlow : r < 16) (hen : s.get (F.RNG_CFG_EN r) = 1) (hspace : ringFull s r = false) :
    applyRingw s q p = acknowledge (lateMarked (pushedEntry s r (ringwEntry p)) r (pushLate s)) q 0 := by
  rw [applyRingw_eq hr hlow, cmdPush_takes hen hspace, if_pos rfl]

theorem applyRingw_waits (hr : r = beAt p 0 1) (hlow : r < 16) (hen : s.get (F.RNG_CFG_EN r) = 1) (hfull : ringFull s r = true) :
    applyRingw s q p = s.raise (G.RNG_PUSH_REFUSED r) := by
  have hwaits : (ringFull s r && s.on (F.RNG_CFG_EN r)) = true := by
    rw [hfull, State.on, hen]
    rfl
  rw [applyRingw_eq hr hlow, cmdPush_refused (.inr hfull), if_neg Bool.false_ne_true, if_pos hwaits]

theorem ringwTaken_shows (s : State) (p : List Byte) (q : Nat) (hspace : ringFull s r = false) {t : State}
    (ht : t = acknowledge (lateMarked (pushedEntry s r (ringwEntry p)) r (pushLate s)) q 0) :
    ringCount t r = ringCount s r + 1 ∧ t.bank (ringKey r (s.get (F.RNG_WPTR_WIDX r)) 1) = BitVec.ofNat 32 (beAt p 5 4) ∧
      t.str = { s.str with ackSeq := q, ack := 0 } ∧ Only [.regs, .banks, .mem, .rings, .str] s t := by
  obtain ⟨hcount, -, -, -, hword⟩ := pushedEntry_shows (ws := ringwEntry p) hspace
  have hmarked := lateMarked_changes (pushedEntry s r (ringwEntry p)) r (pushLate s)
  have hentry : Only [.regs, .banks, .mem] s (pushedEntry s r (ringwEntry p)) := ringStore_only _ _ _ _ _
  subst ht
  refine ⟨?_, ?_, ?_, acknowledge_step _ _ _ ((hentry.mono (by decide)).trans (hmarked.1.mono (by decide))) (by decide)⟩
  · rw [ringCount, acknowledge_get, hmarked.2.get _ (List.not_mem_nil)]
    exact hcount
  · rw [State.bank_of_only (acknowledge_changes _ _ _).1, State.bank_of_only hmarked.1]
    exact hword 0 (by decide)
  · rw [acknowledge_str, hmarked.1 .str (by decide), hentry .str (by decide)]

/-! ### COMMIT, ABORT and ASSIGN (R427, R432, R434) -/

/-- The scene registers of a COMMIT are written and arming is asked for. -/
def commitArmed (s : State) (p : List Byte) : State :=
  regWrite (regWrites s .ringEngine
    [(R.SCN_CFG, BitVec.ofNat 32 (beAt p 6 2 * 65536 + beAt p 10 2)), (R.SCN_MASK, BitVec.ofNat 32 (beAt p 8 2)),
      (R.SCN_AT_H, BitVec.ofNat 32 (beAt p 0 6 / 2 ^ 32)), (R.SCN_AT_L, BitVec.ofNat 32 (beAt p 0 6 % 2 ^ 32))]) .ringEngine R.SCN_ARM 1

/-- The result of a COMMIT (R434). -/
def commitCode (s t : State) (p : List Byte) : Nat :=
  if t.get F.SCN_STAT_REASON ≠ 0 ∨ t.get F.SCN_STAT_STATE = 0 then 0x10 + t.get F.SCN_STAT_REASON % 16
  else if beAt p 0 6 ≤ s.time.block then 0x20 else 0

theorem applyCommit_eq (s : State) (q : Nat) (p : List Byte) :
    applyCommit s q p = acknowledge (commitArmed s p) q (commitCode s (commitArmed s p) p) := by
  unfold applyCommit commitCode commitArmed
  dsimp only
  split
  · rfl
  · simp only [decide_eq_true_eq]
    rfl

/-- The pair numbers that a node keeps for a takeover (R431). -/
def pairsKept (p : List Byte) (l : List Nat) : List Nat :=
  (List.range 16).foldl (fun l i => l.set (beAt p 0 1 + i) (beAt p (1 + i) 1)) l

theorem applyAssign_takes (haddr : strAddr s ≠ noAddr) (hlo : beAt p 0 1 ≤ strAddr s) (hhi : strAddr s < beAt p 0 1 + 16) :
    applyAssign s q p = acknowledge ((s.set F.STR_STAT_PAIR (beAt p (1 + (strAddr s - beAt p 0 1)) 1)).strUp
      fun x => { x with pairs := pairsKept p x.pairs }) q 0 := by
  unfold applyAssign
  dsimp only
  rw [if_pos ⟨haddr, hlo, hhi⟩]
  rfl

theorem beAt_byte_lt (p : List Byte) (k : Nat) : beAt p k 1 < 256 := by
  unfold beAt bytesAt beNat
  cases p.drop k with
  | nil => decide
  | cons b l =>
    simp only [List.take_succ_cons, List.take_zero, List.length_singleton, Nat.sub_self, List.replicate_zero, List.append_nil,
      List.foldl_cons, List.foldl_nil, Nat.zero_mul, Nat.zero_add]
    exact b.isLt

end

/-! ### The manager's queue (R436, R439) -/

section
variable {s : State} {v : Word}

/-- The command of MGR_CQHDR, with this payload. -/
def queuedCommand (s : State) (p : List Byte) : StrCmd := ⟨s.get F.MGR_CQHDR_DEST, s.get F.MGR_CQHDR_CTYPE, s.str.nextSeq, p⟩

/-- The queue holds one command more. -/
def commandQueued (s : State) (p : List Byte) : State :=
  (s.strUp fun x => { x with queue := x.queue ++ [queuedCommand s p], nextSeq := (x.nextSeq + 1) % 65536 }).set F.MGR_CQCTRL_CSEQ s.str.nextSeq

theorem commandQueued_str (s : State) (p : List Byte) :
    (commandQueued s p).str = { s.str with queue := s.str.queue ++ [queuedCommand s p], nextSeq := (s.str.nextSeq + 1) % 65536 } := by
  rw [commandQueued, State.set_str, State.strUp_str]

theorem commandQueued_cseq (s : State) (p : List Byte) : (commandQueued s p).get F.MGR_CQCTRL_CSEQ = s.str.nextSeq % 65536 :=
  State.get_set_self _ _ (by decide)

theorem commandQueued_changes (s : State) (p : List Byte) : Changes [.regs, .str] [R.MGR_CQCTRL] s (commandQueued s p) :=
  ((Changes.refl _ _ s).part (m := [.str]) (only_with_str _ _)).set _ _

/-- The payload of the command that GO queues: a COMMIT for a time has the block index of that time (R436). -/
def goPayload (s : State) : List Byte :=
  if s.get F.MGR_CQHDR_CTYPE = 3 ∧ s.on F.MGR_CQHDR_USE_TIME then
    beBytes 6 (timeToBlock (s.get F.MGR_CQT0_S * 2 ^ 32 + s.get F.MGR_CQT1_S) (s.get F.MGR_CQT2_NS)) ++ (cqPayload s).drop 6
  else cqPayload s

theorem queueGo_queues (hspace : queueLength s.str < 16) : queueGo s = commandQueued s (goPayload s) := if_neg (Nat.not_le.mpr hspace)

theorem queueGo_full (hfull : 16 ≤ queueLength s.str) : queueGo s = s.raise G.MGR_CQ_FULL := if_pos hfull

theorem goPayload_plain (htype : s.get F.MGR_CQHDR_CTYPE ≠ 3) : goPayload s = cqPayload s := if_neg fun h => htype h.1

theorem goPayload_timed (htype : s.get F.MGR_CQHDR_CTYPE = 3) (htime : s.get F.MGR_CQHDR_USE_TIME = 1) : goPayload s =
    beBytes 6 (timeToBlock (s.get F.MGR_CQT0_S * 2 ^ 32 + s.get F.MGR_CQT1_S) (s.get F.MGR_CQT2_NS)) ++ (cqPayload s).drop 6 :=
  if_pos ⟨htype, by rw [State.on, htime]; rfl⟩

theorem cqPayload_granted (s : State) (k : Nat) : cqPayload (granted s k) = cqPayload s := by
  unfold cqPayload
  simp only [granted_rd]

theorem queueLength_granted (s : State) (k : Nat) : queueLength (granted s k).str = queueLength s.str := by rw [granted_str]

theorem queuedCommand_granted (s : State) (k : Nat) (p : List Byte) : queuedCommand (granted s k) p = queuedCommand s p := by
  rw [queuedCommand, granted_get, granted_get, granted_str]
  rfl

/-- A write of GO that reaches MGR_CQCTRL. -/
theorem cmdQueueGo_runs (hw : writable s (pathAt s .hostManager R.MGR_CQCTRL) R.MGR_CQCTRL = true) (hgo : bitN v.toNat 0 = true) :
    fieldAt s .hostManager R.MGR_CQCTRL (fun t => writeCqctrl t v) = queueGo (granted s R.MGR_CQCTRL) := by
  have hwrites : writeCqctrl (granted s R.MGR_CQCTRL) v = queueGo (granted s R.MGR_CQCTRL) := if_pos hgo
  rw [← hwrites]
  exact if_pos hw

end

end Sys2Proof.Machine

open Sys2Proof Sys2Proof.Machine in
/-- Settles O37: each command at a node, new and repeated, then GO and the reads of a slot and of a result at the manager. -/
theorem stringsCommands : Obligations.StringsCommands := by
  unfold Obligations.StringsCommands
  refine ⟨fun s q hres => ⟨fun hseq p => ?_, fun hnew p => ⟨fun hbad => ?_, fun hlo hhi hgood => ?_, fun r hr hlow hen hspace => ?_,
    fun r hr hlow hen hfull => ?_, fun hhigh => ?_, ?_, ?_, ?_, fun haddr hlo hhi => ?_⟩⟩,
    fun s => ⟨fun v hw hgo hspace htype => ?_, fun v hw hgo hspace htype htime => ?_, fun v hw hgo hfull => ?_, fun n hr => ?_, fun hr => ?_⟩⟩
  · have hidle : ∀ k, awake s (onceOnly s q.toNat k) = .next s := fun k => awake_idle (onceOnly_repeated hseq k)
    exact ⟨hidle _, hidle _, hidle _, hidle _, hidle _, hidle _⟩
  · exact awake_ends hres (onceOnly_applies hnew (applyRegw_refuses hbad)) ⟨acknowledge_str _ _ _, acknowledge_changes _ _ _⟩
      fun _ ⟨hstr, hchanges⟩ => ⟨hstr, hchanges.queued⟩
  · have hlegal : ¬ regwIllegal p := by
      rintro (h | h | h)
      · omega
      · omega
      · rw [hgood] at h
        exact absurd h (by decide)
    have hstr := acknowledge_str (regWrites s .ringEngine (regwGroups p (beAt p 0 1))) q.toNat 0
    refine ⟨_, awake_runs hres (onceOnly_applies hnew (applyRegw_writes hlegal)), ?_, ?_, rfl, fun x => ?_⟩
    · rw [State.queued_str, hstr]
    · rw [State.queued_str, hstr]
    · rw [State.queued_rd, (acknowledge_changes _ _ _).2 x List.not_mem_nil]
  · exact awake_ends hres (onceOnly_applies hnew (applyRingw_takes hr hlow hen hspace)) (ringwTaken_shows s p _ hspace rfl)
      fun _ ⟨hcount, hword, hstr, honly⟩ => ⟨hcount, hword, hstr, honly.queued⟩
  · exact awake_ends hres (onceOnly_applies hnew (applyRingw_waits hr hlow hen hfull))
      ⟨counted_raise_of (g := G.RNG_PUSH_REFUSED r) rfl (by simp [Flag.ok]), (Changes.refl _ _ s).raise _⟩ fun _ ⟨hcount, hchanges⟩ => ⟨hcount, hchanges.queued⟩
  · exact awake_ends hres (onceOnly_applies hnew (applyRingw_illegal hhigh)) ⟨acknowledge_str _ _ _, acknowledge_changes _ _ _⟩
      fun _ ⟨hstr, hchanges⟩ => ⟨hstr, hchanges.queued⟩
  · have hstr := acknowledge_str (commitArmed s p) q.toNat (commitCode s (commitArmed s p) p)
    refine awake_ends hres (onceOnly_applies hnew (applyCommit_eq s _ p)) ⟨?_, fun hreason hstate => ?_, fun hrefused => ?_⟩ fun _ h => h
    · rw [hstr]
    · rw [acknowledge_get] at hreason hstate
      rw [hstr]
      exact if_neg fun h => h.elim (fun h => h hreason) hstate
    · rw [acknowledge_get, acknowledge_get] at hrefused
      rw [hstr, acknowledge_get]
      exact if_pos hrefused
  · have hstr := acknowledge_str (regWrite s .ringEngine R.SCN_ARM 2) q.toNat 0
    refine awake_ends hres (onceOnly_new hnew _) ⟨?_, ?_, fun x => (acknowledge_changes _ _ _).2 x List.not_mem_nil⟩ fun _ h => h
    · exact congrArg Str.ackSeq hstr
    · exact congrArg Str.ack hstr
  · refine awake_ends hres (onceOnly_new hnew _) ⟨?_, ?_⟩ fun _ ⟨hstr, hchanges⟩ => ⟨hstr, hchanges.queued⟩
    · rw [applyUnfold, acknowledge_str, State.strUp_str]
      rfl
    · exact (acknowledge_changes _ _ _).part (applyUnfold_only s _ _)
  · refine awake_ends hres (onceOnly_applies hnew (applyAssign_takes haddr hlo hhi)) ⟨?_, ?_, ?_, ?_⟩
      fun _ ⟨hpair, hseq, hack, hchanges⟩ => ⟨hpair, hseq, hack, hchanges.queued⟩
    · rw [acknowledge_get, State.get_strUp, State.get_set_lit _ (by decide) (beAt_byte_lt _ _)]
    · rw [acknowledge_str]
    · rw [acknowledge_str]
    · exact (((Changes.refl _ _ s).set _ _).part (m := [.str]) (only_with_str _ _)).trans (acknowledge_changes _ _ _).mono
  · have hspace' : queueLength (granted s R.MGR_CQCTRL).str < 16 := (queueLength_granted s _).symm ▸ hspace
    have hpayload : goPayload (granted s R.MGR_CQCTRL) = cqPayload s :=
      (goPayload_plain (by rw [granted_get]; exact htype)).trans (cqPayload_granted s _)
    refine awake_ends (writable_awake hw) ((cmdQueueGo_runs hw hgo).trans (queueGo_queues hspace'))
      ⟨?_, ?_, ((granted_changes s _).mono (l := [.regs, .str, .hst])).trans (commandQueued_changes _ _).mono⟩
      fun _ ⟨hstr, hseq, hchanges⟩ => ⟨hstr, hseq, hchanges.queued⟩
    · rw [commandQueued_str, hpayload, queuedCommand_granted, granted_str]
      rfl
    · rw [commandQueued_cseq, granted_str]
  · have hspace' : queueLength (granted s R.MGR_CQCTRL).str < 16 := (queueLength_granted s _).symm ▸ hspace
    have hpayload := goPayload_timed (s := granted s R.MGR_CQCTRL) (by rw [granted_get]; exact htype) (by rw [granted_get]; exact htime)
    simp only [granted_get, cqPayload_granted] at hpayload
    refine awake_ends (writable_awake hw) ((cmdQueueGo_runs hw hgo).trans (queueGo_queues hspace'))
      ⟨?_, ((granted_changes s _).mono (l := [.regs, .str, .hst])).trans (commandQueued_changes _ _).mono⟩
      fun _ ⟨hqueue, hchanges⟩ => ⟨hqueue, hchanges.queued⟩
    rw [commandQueued_str, hpayload, queuedCommand_granted, granted_str, queuedCommand, htype]
  · have hfull' : 16 ≤ queueLength (granted s R.MGR_CQCTRL).str := (queueLength_granted s _).symm ▸ hfull
    have hraised : Changes [.regs] [G.MGR_CQ_FULL.ptr, G.MGR_CQ_FULL.cptr] (granted s R.MGR_CQCTRL)
        ((granted s R.MGR_CQCTRL).raise G.MGR_CQ_FULL) := (Changes.refl _ _ _).raise _
    exact awake_ends (writable_awake hw) ((cmdQueueGo_runs hw hgo).trans (queueGo_full hfull'))
      ⟨counted_raise_of (granted_get _ _ _), ((granted_changes s _).mono (l := [.regs, .hst])).trans hraised.mono⟩
      fun _ ⟨hcount, hchanges⟩ => ⟨hcount, hchanges.queued⟩
  · exact ⟨_, awake_readAt _ hr, rfl, fun j hj => latchRead_latches s 0 _ j hj rfl, (latchRead_changes s 0 _ 15).queued⟩
  · exact ⟨_, awake_readAt _ hr, rfl, latchRead_latches s 0 _ 0 (by decide) rfl, latchRead_latches s 0 _ 1 (by decide) rfl,
      (latchRead_changes s 0 _ 2).queued⟩

end

section
/-! Errors that a read finds in a stored word (R508, R509). -/

set_option Elab.async false

namespace Sys2Proof.Machine

/-! ### What an error that is found changes -/

/-- The registers that an error found by a read changes: the events of memory and their log. -/
def memEventRegs : List Nat := [G.MEM_CE.ptr, G.MEM_CE.cptr, R.MEM_ELOG0, R.MEM_ELOG1]

section
variable {s : State} {src b w : Nat}

theorem checkWord_zero : checkWord 0 = (.good, 0) := by decide +kernel

/-- What an error does that a bank finds: its event, its log, its mark for the write-back and its count. -/
theorem noteError_changes (s : State) (src b w : Nat) : Changes [.regs, .mem] memEventRegs s (noteError s src b w).1 := by
  have hlog : ∀ (g : Flag) (k : Check), g.ptr = G.MEM_CE.ptr → g.cptr = G.MEM_CE.cptr →
      Changes [.regs, .mem] memEventRegs s (memLog (s.raise g) k src b w (errAt s (errKey b w))) := fun g k hptr hcptr =>
    ((Changes.refl _ _ s).raise g (by decide) (by simp [memEventRegs, hptr]) (by simp [memEventRegs, hcptr])).trans
      ((memLog_changes _ k src b w _).mono (by decide) (by simp [memEventRegs]))
  have hcount : ∀ (t : State) (k : Check), Changes [.regs, .mem] memEventRegs s t →
      Changes [.regs, .mem] memEventRegs s (if b < 48 then (t.bankUp b fun x => { x with ce := (x.ce + 1) % 65536 }, k)
        else (t.memUp fun m => { m with small := m.small.modify (b - 64) fun n => (n + 1) % 65536 }, k)).1 := fun t k h => by
    split
    · exact h.part (State.bankUp_only _ _ _)
    · exact h.part (State.memUp_only _ _)
  unfold noteError
  dsimp only
  generalize checkWord (errAt s (errKey b w)) = c
  obtain ⟨k, fix⟩ := c
  cases k with
  | good => exact Changes.refl _ _ s
  | ue => exact hlog _ _ rfl rfl
  | ce1 => exact hcount _ _ ((hlog _ _ rfl rfl).part (State.memUp_only _ _))
  | ce2 => exact hcount _ _ ((hlog _ _ rfl rfl).part (State.memUp_only _ _))

theorem noteError_check (s : State) (src b w : Nat) : (noteError s src b w).2 = (checkWord (errAt s (errKey b w))).1 := by
  unfold noteError
  dsimp only
  generalize checkWord (errAt s (errKey b w)) = c
  obtain ⟨k, fix⟩ := c
  cases k with
  | good | ue => rfl
  | ce1 | ce2 =>
    dsimp only
    split <;> rfl

theorem foundError_check (hb : b < 48) : (foundError s src b w).2 = (checkWord (errAt s (errKey b w))).1 := by
  rw [← noteError_check s src b w]
  unfold foundError
  dsimp only
  rw [if_neg (Nat.not_le.mpr hb)]
  split
  · rfl
  · next h => exact h.symm
  · rfl
  · rfl

theorem foundError_changes (hb : b < 48) : Changes [.regs, .mem] memEventRegs s (foundError s src b w).1 := by
  have hnote := noteError_changes s src b w
  have hcand : ∀ (t : State) (c : Prop) [Decidable c] (row reason : Nat), Changes [.regs, .mem] memEventRegs s t →
      Changes [.regs, .mem] memEventRegs s (if c then addCandidate t b row reason else t) := fun t c _ row reason h =>
    (h.part (addCandidate_only _ _ _ _)).ite h
  have hhist : Changes [.regs, .mem] memEventRegs s (historyStep (noteError s src b w).1 b w).1 := hnote.part (historyStep_only _ _ _)
  unfold foundError
  dsimp only
  rw [if_neg (Nat.not_le.mpr hb)]
  split
  · exact hnote
  · exact hcand _ _ _ _ hnote
  · exact hcand _ _ _ _ hhist
  · exact hcand _ _ _ _ hhist

end

/-! ### The head of a ring (R489) -/

section
variable {s : State} {r : Nat}

/-- The key of the word that stores the entry at RIDX. -/
def headKey (s : State) (r : Nat) : Nat := ringErrKey r (s.get (F.RNG_RPTR_RIDX r))

/-- The words of the entry at RIDX. -/
def headWords (s : State) (r : Nat) : List Word := (List.range 4).map fun w => s.bank (ringKey r (s.get (F.RNG_RPTR_RIDX r)) w)

theorem ringErrKey_bank (r i : Nat) : ringErrKey r i / 16384 < 48 := by
  unfold ringErrKey errKey
  dsimp only
  omega

theorem headKey_bank (s : State) (r : Nat) : headKey s r / 16384 < 48 := ringErrKey_bank _ _

theorem headEntry_clean (h : errAt s (headKey s r) = 0) : headEntry s r = (s, headWords s r, false) := if_pos h

theorem headEntry_bad (h : errAt s (headKey s r) ≠ 0) : headEntry s r =
    ((foundError s srcRead (headKey s r / 16384) (headKey s r % 16384)).1, headWords s r,
      (foundError s srcRead (headKey s r / 16384) (headKey s r % 16384)).2 == .ue) := if_neg h

theorem headEntry_words (s : State) (r : Nat) : (headEntry s r).2.1 = headWords s r := by
  by_cases h : errAt s (headKey s r) = 0
  · rw [headEntry_clean h]
  · rw [headEntry_bad h]

theorem headEntry_lost (s : State) (r : Nat) : (headEntry s r).2.2 = ((checkWord (errAt s (headKey s r))).1 == .ue) := by
  by_cases h : errAt s (headKey s r) = 0
  · rw [headEntry_clean h, h, checkWord_zero]
    rfl
  · have hkey : errKey (headKey s r / 16384) (headKey s r % 16384) = headKey s r := Nat.div_add_mod' _ _
    rw [headEntry_bad h, foundError_check (headKey_bank s r), hkey]

theorem headEntry_changes (s : State) (r : Nat) : Changes [.regs, .mem] memEventRegs s (headEntry s r).1 := by
  by_cases h : errAt s (headKey s r) = 0
  · rw [headEntry_clean h]
    exact Changes.refl _ _ s
  · rw [headEntry_bad h]
    exact foundError_changes (ringErrKey_bank _ _)

end

end Sys2Proof.Machine

end

section
/-! The window of a ring (R473 to R478, R485, R488, R489). -/

set_option Elab.async false

namespace Sys2Proof.Machine

section
variable {s t : State} {host : Bool} {r c n : Nat} {v : Word} {ws : List Word}

/-! ### Staging and pushing an entry (R478, R488) -/

theorem ringStage_rings (s : State) (host : Bool) (r n : Nat) (v : Word) : (ringStage s host r n v).rings =
    s.rings.modify r (fun x => if host then { x with stageH := x.stageH.set n v } else { x with stageF := x.stageF.set n v }) :=
  State.ringUp_rings _ _ _

theorem ringStage_changes (s : State) (host : Bool) (r n : Nat) (v : Word) : Changes [.rings] [] s (ringStage s host r n v) :=
  (State.ringUp_only s r _).changes_no_register (by decide)

/-- The staging entry of one side is empty again. -/
def stagingEmptied (host : Bool) (x : RingSt) : RingSt :=
  if host then { x with stageH := List.replicate 4 0 } else { x with stageF := List.replicate 4 0 }

/-- The push has taken the staging entry. -/
def stageCleared (s : State) (host : Bool) (r : Nat) : State := s.ringUp r (stagingEmptied host)

/-- The entry that a push of word 3 completes. -/
def pushWords (s : State) (host : Bool) (r : Nat) (v : Word) : List Word :=
  (if host then (s.ring r).stageH else (s.ring r).stageF).set 3 v

theorem stageCleared_changes (s : State) (host : Bool) (r : Nat) : Changes [.rings] [] s (stageCleared s host r) :=
  (State.ringUp_only s r _).changes_no_register (by decide)

theorem stageCleared_get (s : State) (host : Bool) (r : Nat) (f : Fld) : (stageCleared s host r).get f = s.get f :=
  (stageCleared_changes s host r).2.get f List.not_mem_nil

/-- An update of a ring that leaves a component of every ring leaves that of this one. -/
theorem ringUp_component {α : Type} (k : RingSt → α) {f : RingSt → RingSt} (hf : ∀ x, k (f x) = k x) (s : State) (r : Nat) :
    k ((s.ringUp r f).ring r) = k (s.ring r) := by
  rw [State.ring, State.ringUp_rings, State.ring, List.getD_eq_getElem?_getD, List.getD_eq_getElem?_getD, List.getElem?_modify]
  cases s.rings[r]? with
  | none => rfl
  | some x =>
    simp only [if_true]
    exact hf x

theorem stageCleared_lost (s : State) (host : Bool) (r : Nat) : ((stageCleared s host r).ring r).lost = (s.ring r).lost :=
  ringUp_component RingSt.lost (fun x => by unfold stagingEmptied; split <;> rfl) s r

theorem ringPush_cmd (hr : r < 16) : ringPush s host r v =
    if (cmdPush (stageCleared s host r) r (pushWords s host r v)).2 then (cmdPush (stageCleared s host r) r (pushWords s host r v)).1
    else (cmdPush (stageCleared s host r) r (pushWords s host r v)).1.raise (G.RNG_PUSH_REFUSED r) :=
  if_pos (decide_eq_true hr)

theorem ringPush_tel (hr : 16 ≤ r) : ringPush s host r v =
    if host then (stageCleared s host r).raise (G.RNG_PUSH_REFUSED r)
    else telProduce (stageCleared s host r) (r - 16) (((pushWords s host r v).getD 0 0).toNat / 256 % 256) ((pushWords s host r v).drop 1) :=
  if_neg (by rw [isCmd, decide_eq_false (Nat.not_lt.mpr hr)]; decide)

theorem ringPush_takes (hr : r < 16) (hen : s.get (F.RNG_CFG_EN r) = 1) (hspace : ringFull s r = false) : ringPush s host r v =
    lateMarked (pushedEntry (stageCleared s host r) r (pushWords s host r v)) r (pushLate (stageCleared s host r)) := by
  have hsize : ringSize (stageCleared s host r) r = ringSize s r := ringSize_congr (stageCleared_get _ _ _ _)
  have hspace' : ringFull (stageCleared s host r) r = false := (ringFull_congr hsize (stageCleared_get _ _ _ _)).trans hspace
  rw [ringPush_cmd hr, cmdPush_takes ((stageCleared_get _ _ _ _).trans hen) hspace', if_pos rfl]

theorem ringPush_refuses (hr : r < 16) (h : s.get (F.RNG_CFG_EN r) = 0 ∨ ringFull s r = true) :
    ringPush s host r v = (stageCleared s host r).raise (G.RNG_PUSH_REFUSED r) := by
  have hsize : ringSize (stageCleared s host r) r = ringSize s r := ringSize_congr (stageCleared_get _ _ _ _)
  have h' : (stageCleared s host r).get (F.RNG_CFG_EN r) = 0 ∨ ringFull (stageCleared s host r) r = true :=
    h.imp (stageCleared_get _ _ _ _).trans (ringFull_congr hsize (stageCleared_get _ _ _ _)).trans
  rw [ringPush_cmd hr, cmdPush_refused h', if_neg Bool.false_ne_true]

theorem stageRefused_shows (s : State) (host : Bool) (r : Nat) :
    counted (G.RNG_PUSH_REFUSED r) s ((stageCleared s host r).raise (G.RNG_PUSH_REFUSED r)) ∧
      Changes [.regs, .rings] [(G.RNG_PUSH_REFUSED r).ptr, (G.RNG_PUSH_REFUSED r).cptr] s
        ((stageCleared s host r).raise (G.RNG_PUSH_REFUSED r)) :=
  ⟨counted_raise_of (stageCleared_get _ _ _ _) (by simp [Flag.ok]), (stageCleared_changes s host r).mono.raise _⟩

theorem flushLoss_none (h : (s.ring r).lost = 0) : flushLoss s r = s := if_pos (by rw [h]; rfl)

/-- A telemetry entry is stored where its ring is enabled and has space, and nothing was lost before it (R475). -/
theorem telProduce_stores {ty : Nat} (hr : 16 + c = r) (hen : s.get (F.RNG_CFG_EN r) = 1) (hspace : ringFull s r = false)
    (hlost : (s.ring r).lost = 0) : telProduce s c ty ws = ringStore s r ty c ws := by
  subst hr
  unfold telProduce
  dsimp only
  rw [flushLoss_none hlost, if_pos]
  rw [State.on, hen, hspace, hlost]
  rfl

theorem ringPush_produces (hr : 16 ≤ r) (hen : s.get (F.RNG_CFG_EN r) = 1) (hspace : ringFull s r = false)
    (hlost : (s.ring r).lost = 0) : ringPush s false r v = ringStore (stageCleared s false r) r
      (((pushWords s false r v).getD 0 0).toNat / 256 % 256) (r - 16) ((pushWords s false r v).drop 1) := by
  have hsize : ringSize (stageCleared s false r) r = ringSize s r := ringSize_congr (stageCleared_get _ _ _ _)
  rw [ringPush_tel hr, if_neg Bool.false_ne_true]
  exact telProduce_stores (Nat.add_sub_cancel' hr) ((stageCleared_get _ _ _ _).trans hen)
    ((ringFull_congr hsize (stageCleared_get _ _ _ _)).trans hspace) ((stageCleared_lost _ _ _).trans hlost)

/-- The word of an entry after word 0. -/
theorem drop_one_getD (ws : List Word) (j : Nat) : (ws.drop 1).getD j 0 = ws.getD (j + 1) 0 := by
  rw [List.getD_eq_getElem?_getD, List.getElem?_drop, Nat.add_comm, ← List.getD_eq_getElem?_getD]

/-! ### Reading the head of a ring (R485, R488, R489) -/

theorem setLatch_changes (s : State) (host : Bool) (r : Nat) (ws : List Word) (held : Bool) : Changes [.rings] [] s (setLatch s host r ws held) :=
  (State.ringUp_only s r _).changes_no_register (by decide)

theorem setLatch_latch (ws : List Word) (held : Bool) (h : r < s.rings.length) :
    (if host then ((setLatch s host r ws held).ring r).latchH else ((setLatch s host r ws held).ring r).latchF) = ws := by
  unfold setLatch
  rw [State.ring, State.ringUp_rings, List.getD_eq_getElem?_getD, List.getElem?_modify, List.getElem?_eq_getElem h]
  simp only [if_true]
  cases host <;> rfl

theorem ringFetch_cmd (hr : r < 16) : ringFetch s host r = s.answer 0 := if_pos (decide_eq_true hr)

theorem ringFetch_stranger (hr : 16 ≤ r) (hown : ownsRing s host r = false) :
    ringFetch s host r = (s.raise (G.RNG_NOT_OWNER r)).answer 0 := by
  unfold ringFetch
  rw [isCmd, decide_eq_false (Nat.not_lt.mpr hr), hown, if_neg Bool.false_ne_true, if_pos (by decide)]

theorem ringFetch_empty (hr : 16 ≤ r) (hown : ownsRing s host r = true) (hempty : ringCount s r = 0) :
    ringFetch s host r = ((setLatch s host r (List.replicate 4 0) false).raise (G.RNG_RD_EMPTY r)).answer 0 := by
  unfold ringFetch
  rw [isCmd, decide_eq_false (Nat.not_lt.mpr hr), hown, if_neg Bool.false_ne_true, if_neg (by decide), if_pos hempty]

/-- The UE mark that stands for the head of ring r. -/
def lostMark (s : State) (r : Nat) : Word := BitVec.ofNat 32 (s.get (F.RNG_RPTR_RSEQ r) * 65536 + 0xFF * 256 + (r - 16))

theorem ringFetch_head (hr : 16 ≤ r) (hown : ownsRing s host r = true) (hcount : ringCount s r ≠ 0) : ringFetch s host r =
    if (headEntry s r).2.2 then
      ((setLatch (headEntry s r).1 host r [lostMark (headEntry s r).1 r, 0, 0, 0] true).raise (G.RNG_UE r)).answer (lostMark (headEntry s r).1 r)
    else (setLatch (headEntry s r).1 host r (headEntry s r).2.1 true).answer ((headEntry s r).2.1.getD 0 0) := by
  unfold ringFetch
  rw [isCmd, decide_eq_false (Nat.not_lt.mpr hr), hown, if_neg Bool.false_ne_true, if_neg (by decide), if_neg hcount]
  rfl

theorem ringFetch_reads (hr : 16 ≤ r) (hown : ownsRing s host r = true) (hcount : ringCount s r ≠ 0)
    (hgood : (checkWord (errAt s (headKey s r))).1 ≠ .ue) :
    ringFetch s host r = (setLatch (headEntry s r).1 host r (headWords s r) true).answer ((headWords s r).getD 0 0) := by
  have hlost : (headEntry s r).2.2 = false := (headEntry_lost s r).trans (beq_eq_false_iff_ne.mpr hgood)
  rw [ringFetch_head hr hown hcount, hlost, headEntry_words, if_neg Bool.false_ne_true]

theorem ringFetch_marks (hr : 16 ≤ r) (hown : ownsRing s host r = true) (hcount : ringCount s r ≠ 0)
    (hbad : (checkWord (errAt s (headKey s r))).1 = .ue) : ringFetch s host r =
      ((setLatch (headEntry s r).1 host r [lostMark (headEntry s r).1 r, 0, 0, 0] true).raise (G.RNG_UE r)).answer
        (lostMark (headEntry s r).1 r) := by
  have hlost : (headEntry s r).2.2 = true := (headEntry_lost s r).trans (beq_iff_eq.mpr hbad)
  rw [ringFetch_head hr hown hcount, hlost, if_pos rfl]

/-- The read of the head leaves the registers of the rings. -/
theorem headEntry_get (s : State) (r : Nat) {f : Fld} (hf : 0x9000 ≤ f.ptr) : (headEntry s r).1.get f = s.get f := by
  refine (headEntry_changes s r).2.get f fun h => ?_
  have hlow : ∀ q ∈ memEventRegs, q < 0x9000 := by decide
  exact absurd (hlow _ h) (Nat.not_lt.mpr hf)

/-! ### Taking the head out (R488) -/

theorem ringConsume_idle (h : r < 16 ∨ ownsRing s host r = false ∨ (if host then (s.ring r).heldH else (s.ring r).heldF) = false) :
    ringConsume s host r = s.answer (ringLatched s host r 3) := by
  refine if_pos ?_
  rcases h with h | h | h
  · rw [isCmd, decide_eq_true h]
    rfl
  · rw [h, Bool.not_false, Bool.or_true, Bool.true_or]
  · rw [h, Bool.not_false, Bool.or_true]

/-- The entry of one side's latch is taken. -/
def latchFreed (host : Bool) (x : RingSt) : RingSt := if host then { x with heldH := false } else { x with heldF := false }

theorem ringDrop_takes (h : ringCount s r ≠ 0) : ringDrop s r =
    setCount (s.set (F.RNG_RPTR_RIDX r) ((s.get (F.RNG_RPTR_RIDX r) + 1) % ringSize s r)) r (ringCount s r - 1) := if_neg h

theorem ringDrop_changes (s : State) (r : Nat) : Changes [.regs] [R.RNG_RPTR r, R.RNG_STAT r] s (ringDrop s r) := by
  unfold ringDrop
  split
  · exact Changes.refl _ _ s
  · exact ((Changes.refl _ _ s).set _ _).trans (setCount_changes _ _ _)

theorem ringDrop_shows (h : ringCount s r ≠ 0) : ringCount (ringDrop s r) r = ringCount s r - 1 ∧
    (ringDrop s r).get (F.RNG_RPTR_RIDX r) = (s.get (F.RNG_RPTR_RIDX r) + 1) % ringSize s r := by
  obtain ⟨hpos, hsize⟩ := ringSize_bounds s r
  have hlow : (s.get (F.RNG_RPTR_RIDX r) + 1) % ringSize s r < 1024 := Nat.lt_of_lt_of_le (Nat.mod_lt _ hpos) hsize
  have hcount : ringCount s r < 2048 := State.get_lt _ _
  rw [ringDrop_takes h]
  refine ⟨setCount_count (by omega), ?_⟩
  rw [setCount_ridx]
  exact State.get_set_lit _ (by simp) hlow

/-- What the head is taken out of: the answer is given and the latch is free. -/
def headRead (s : State) (host : Bool) (r : Nat) : State := (s.answer (ringLatched s host r 3)).ringUp r (latchFreed host)

theorem headRead_changes (s : State) (host : Bool) (r : Nat) : Changes [.rdata, .rings] [] s (headRead s host r) :=
  ((Changes.refl _ _ s).part (State.answer_only _ _)).part (State.ringUp_only _ _ _)

theorem headRead_get (s : State) (host : Bool) (r : Nat) (f : Fld) : (headRead s host r).get f = s.get f :=
  (headRead_changes s host r).2.get f List.not_mem_nil

theorem headRead_lost (s : State) (host : Bool) (r : Nat) : ((headRead s host r).ring r).lost = (s.ring r).lost :=
  (ringUp_component RingSt.lost (fun x => by unfold latchFreed; split <;> rfl) (s.answer _) r).trans rfl

theorem ringConsume_takes (hr : 16 ≤ r) (hown : ownsRing s host r = true) (hheld : (if host then (s.ring r).heldH else (s.ring r).heldF) = true)
    (hlost : (s.ring r).lost = 0) : ringConsume s host r = ringDrop (headRead s host r) r := by
  have hopen : (isCmd r || !ownsRing s host r || !(if host then (s.ring r).heldH else (s.ring r).heldF)) = false := by
    rw [isCmd, decide_eq_false (Nat.not_lt.mpr hr), hown, hheld]
    rfl
  have hkept : ((ringDrop (headRead s host r) r).ring r).lost = 0 := by
    rw [State.ring, (ringDrop_changes _ _).1 .rings (by decide)]
    exact (headRead_lost s host r).trans hlost
  exact (if_neg (Bool.eq_false_iff.mp hopen)).trans (flushLoss_none hkept)

theorem ringLatched_reads {k : Nat} (hr : 16 ≤ r) (hown : ownsRing s host r = true) :
    ringLatched s host r k = (if host then (s.ring r).latchH else (s.ring r).latchF).getD k 0 := by
  refine if_neg ?_
  rw [isCmd, decide_eq_false (Nat.not_lt.mpr hr), hown]
  decide

/-! ### RNG_CFG (R476, R477) -/

/-- RNG_CFG takes its fields from the write. -/
def ringCfgWord (old v : Word) : Word := (old &&& ~~~0x87010007#32) ||| (v &&& 0x87010007#32)

theorem rowOf_ringCfg (r : Fin 32) : ∃ x, rowOf (R.RNG_CFG r) = some (x, r.val) ∧ x.rw ||| x.rwl = 0x87010007 ∧ x.sc = 0 ∧ x.w1c = 0 := by
  have hrow : ∀ r : Fin 32, rowOf (R.RNG_CFG r) =
      some ({ base := 0x9000, stride := 0x80, count := 32, reset := 0x83000000, rw := 0x87010007 }, r.val) := by decide +kernel
  exact ⟨_, hrow r, rfl, rfl, rfl⟩

theorem ringCfg_stored (s : State) (r : Fin 32) (v : Word) : (storeCoded s (R.RNG_CFG r) v).rd (R.RNG_CFG r) = ringCfgWord (s.rd (R.RNG_CFG r)) v := by
  obtain ⟨x, hrow, hrw, hsc, hw1c⟩ := rowOf_ringCfg r
  rw [storeCoded_rd_same v hrow, hrw, hsc, hw1c, ringCfgWord]
  simp only [BitVec.and_zero, BitVec.or_zero, BitVec.not_zero, BitVec.and_allOnes]

theorem ringCfgWord_size (old v : Word) : (ringCfgWord old v).toNat % 8 = v.toNat % 8 := by
  have hbits : (ringCfgWord old v).extractLsb' 0 3 = v.extractLsb' 0 3 := by
    apply BitVec.eq_of_getLsbD_eq
    intro i hi
    unfold ringCfgWord
    interval_cases i <;> simp
  have h := congrArg BitVec.toNat hbits
  simpa using h

theorem ringCfgWord_en (old v : Word) : (ringCfgWord old v).toNat / 2 ^ 31 = v.toNat / 2 ^ 31 := by
  have hbits : (ringCfgWord old v).extractLsb' 31 1 = v.extractLsb' 31 1 := by
    apply BitVec.eq_of_getLsbD_eq
    intro i hi
    unfold ringCfgWord
    interval_cases i
    simp
  have h := congrArg BitVec.toNat hbits
  have h1 := (ringCfgWord old v).isLt
  have h2 := v.isLt
  simp only [BitVec.extractLsb'_toNat, Nat.shiftRight_eq_div_pow] at h
  omega

end

section
variable {s : State} {r : Fin 32} {v : Word}

/-- The stored RNG_CFG. -/
def ringCfgStored (s : State) (r : Nat) (v : Word) : State := storeCoded s (R.RNG_CFG r) v

theorem ringCfgStored_size (s : State) (r : Fin 32) (v : Word) : ringSize (ringCfgStored s r v) r = sizeOfCode (v.toNat % 8) := by
  have hbits : (ringCfgStored s r v).get (F.RNG_CFG_SIZE r) = (ringCfgWord (s.rd (R.RNG_CFG r)) v).toNat / 2 ^ 0 % 2 ^ 3 :=
    congrArg (fun w : Word => bitsN w.toNat 2 0) (ringCfg_stored s r v)
  rw [ringSize, hbits, Nat.pow_zero, Nat.div_one]
  exact congrArg sizeOfCode (ringCfgWord_size _ v)

theorem ringCfgStored_en (s : State) (r : Fin 32) (v : Word) : (ringCfgStored s r v).get (F.RNG_CFG_EN r) = v.toNat / 2 ^ 31 := by
  have hbits : (ringCfgStored s r v).get (F.RNG_CFG_EN r) = (ringCfgWord (s.rd (R.RNG_CFG r)) v).toNat / 2 ^ 31 % 2 ^ 1 :=
    congrArg (fun w : Word => bitsN w.toNat 31 31) (ringCfg_stored s r v)
  have hword := v.isLt
  rw [hbits, ringCfgWord_en]
  omega

theorem ringCfgStored_get (s : State) (r : Nat) (v : Word) {f : Fld} (hf : f.ptr ≠ R.RNG_CFG r) : (ringCfgStored s r v).get f = s.get f :=
  (storeCoded_onlyRegs s _ v).get f (by rwa [List.mem_singleton])

theorem ringConfig_refuses (h : (s.get (F.RNG_CFG_EN r) = 1 ∧ sizeOfCode (v.toNat % 8) ≠ ringSize s r) ∨ 24576 < sizeSum s r (v.toNat % 8)) :
    ringConfig s r v = s.raise (G.RNG_CFG_REFUSED r) := by
  refine if_pos ?_
  rcases h with ⟨hen, hsize⟩ | hsum
  · rw [State.on, hen, bne_iff_ne.mpr hsize]
    rfl
  · rw [decide_eq_true hsum, Bool.or_true]

/-- The ring is empty, with both of its pointers at 0. -/
def ringEmptied (s : State) (r : Nat) : State :=
  (setCount ((s.set (F.RNG_WPTR_WIDX r) 0).set (F.RNG_RPTR_RIDX r) 0) r 0).ringUp r fun x => { x with late := 0, heldH := false, heldF := false }

theorem ringConfig_stores (h : s.get (F.RNG_CFG_EN r) = 0 ∨ sizeOfCode (v.toNat % 8) = ringSize s r)
    (hsum : sizeSum s r (v.toNat % 8) ≤ 24576) : ringConfig s r v =
      if v.toNat < 2 ^ 31 then ringEmptied (ringCfgStored s r v) r else flushLoss (ringCfgStored s r v) r := by
  refine if_neg ?_
  rw [decide_eq_false (Nat.not_lt.mpr hsum), Bool.or_false]
  rcases h with hen | hsize
  · rw [State.on, hen]
    simp
  · rw [hsize, bne_self_eq_false]
    exact Bool.false_ne_true

theorem ringEmptied_changes (s : State) (r : Nat) :
    Changes [.regs, .rings] [R.RNG_WPTR r, R.RNG_RPTR r, R.RNG_STAT r] s (ringEmptied s r) :=
  ((((Changes.refl _ _ s).set _ _).set _ _).trans ((setCount_changes _ _ _).mono)).part (State.ringUp_only _ _ _)

theorem ringEmptied_get (s : State) (r : Nat) (f : Fld) :
    (ringEmptied s r).get f = (setCount ((s.set (F.RNG_WPTR_WIDX r) 0).set (F.RNG_RPTR_RIDX r) 0) r 0).get f :=
  State.get_congr (State.ringUp_regs _ _ _) f

theorem ringEmptied_count (s : State) (r : Nat) : ringCount (ringEmptied s r) r = 0 :=
  (ringEmptied_get s r _).trans (setCount_count (by decide))

theorem ringEmptied_widx (s : State) (r : Nat) : (ringEmptied s r).get (F.RNG_WPTR_WIDX r) = 0 := by
  rw [ringEmptied_get, (setCount_changes _ _ _).2.get (F.RNG_WPTR_WIDX r) (by simp), State.get_set_disjoint _ _ (by simp [Fld.disjoint])]
  exact State.get_set_lit _ (by simp) (Nat.two_pow_pos _)

theorem ringEmptied_ridx (s : State) (r : Nat) : (ringEmptied s r).get (F.RNG_RPTR_RIDX r) = 0 := by
  rw [ringEmptied_get, setCount_ridx]
  exact State.get_set_lit _ (by simp) (Nat.two_pow_pos _)

theorem ringEmptied_wseq (s : State) (r : Nat) : (ringEmptied s r).get (F.RNG_WPTR_WSEQ r) = s.get (F.RNG_WPTR_WSEQ r) := by
  rw [ringEmptied_get, (setCount_changes _ _ _).2.get (F.RNG_WPTR_WSEQ r) (by simp), State.get_set_disjoint _ _ (by simp [Fld.disjoint]),
    State.get_set_disjoint _ _ (by simp [Fld.disjoint])]

/-- The stored RNG_CFG of a ring that is emptied. -/
theorem ringEmptied_cfg (s : State) (r : Nat) {f : Fld} (hf : f.ptr = R.RNG_CFG r) : (ringEmptied s r).get f = s.get f :=
  (ringEmptied_changes s r).2.get f (by rw [hf]; simp)

theorem ringCfgStored_only (s : State) (r : Nat) (v : Word) : Only [.regs, .heldU, .heldB] s (ringCfgStored s r v) := storeCoded_only s _ v

/-- What the write that empties a ring shows. -/
theorem ringDisabled_shows (s : State) (r : Fin 32) (v : Word) :
    ringSize (ringEmptied (ringCfgStored s r v) r) r = sizeOfCode (v.toNat % 8) ∧ ringCount (ringEmptied (ringCfgStored s r v) r) r = 0 ∧
      (ringEmptied (ringCfgStored s r v) r).get (F.RNG_WPTR_WIDX r) = 0 ∧ (ringEmptied (ringCfgStored s r v) r).get (F.RNG_RPTR_RIDX r) = 0 ∧
      Only [.regs, .heldU, .heldB, .rings] s (ringEmptied (ringCfgStored s r v) r) :=
  ⟨(ringSize_congr (ringEmptied_cfg _ _ rfl)).trans (ringCfgStored_size s r v), ringEmptied_count _ _, ringEmptied_widx _ _, ringEmptied_ridx _ _,
    ((ringCfgStored_only s r v).mono (by decide)).trans ((ringEmptied_changes _ _).1.mono (by decide))⟩

end

/-! ### The access of each command -/

section
variable {s : State} {p : Nat}

theorem ring_granted (s : State) (p r : Nat) : (granted s p).ring r = s.ring r := by
  rw [State.ring, granted_rings]
  rfl

theorem ringCount_granted (s : State) (p r : Nat) : ringCount (granted s p) r = ringCount s r := granted_get _ _ _
theorem ringSize_granted (s : State) (p r : Nat) : ringSize (granted s p) r = ringSize s r := ringSize_congr (granted_get _ _ _)
theorem ringFull_granted (s : State) (p r : Nat) : ringFull (granted s p) r = ringFull s r :=
  ringFull_congr (ringSize_granted _ _ _) (ringCount_granted _ _ _)

theorem sizeSum_granted (s : State) (p r code : Nat) : sizeSum (granted s p) r code = sizeSum s r code := by
  unfold sizeSum
  simp only [ringSize_granted]

theorem pushWords_granted (s : State) (p : Nat) (host : Bool) (r : Nat) (v : Word) : pushWords (granted s p) host r v = pushWords s host r v := by
  rw [pushWords, ring_granted]
  rfl

theorem fieldAt_writes {d : Path} {k : State → State} {u : State} (hw : writable s (pathAt s d p) p = true) (hk : k (granted s p) = u) :
    fieldAt s d p k = u := (if_pos hw).trans hk

/-- A push that stores its entry, from the state of the command. -/
theorem ringStored_shows {r ty ch : Nat} (s : State) (host : Bool) (v : Word) (hty : ty < 256) (hch : ch < 256) (hspace : ringFull s r = false)
    {t : State} (ht : t = ringStore (stageCleared (granted s p) host r) r ty ch ((pushWords s host r v).drop 1)) :
    ringCount t r = ringCount s r + 1 ∧ t.get (F.RNG_WPTR_WSEQ r) = (s.get (F.RNG_WPTR_WSEQ r) + 1) % 65536 ∧
      t.get (F.RNG_WPTR_WIDX r) = (s.get (F.RNG_WPTR_WIDX r) + 1) % ringSize s r ∧
      (t.bank (ringKey r (s.get (F.RNG_WPTR_WIDX r)) 0)).toNat = s.get (F.RNG_WPTR_WSEQ r) * 65536 + ty * 256 + ch ∧
      (∀ j < 3, t.bank (ringKey r (s.get (F.RNG_WPTR_WIDX r)) (j + 1)) = (pushWords s host r v).getD (j + 1) 0) ∧
      Only [.regs, .banks, .mem, .rings, .hst] s t := by
  have hget : ∀ f, (stageCleared (granted s p) host r).get f = s.get f := fun f => (stageCleared_get _ _ _ f).trans (granted_get _ _ _)
  have hsize : ringSize (stageCleared (granted s p) host r) r = ringSize s r := ringSize_congr (hget _)
  have hspace' : ringFull (stageCleared (granted s p) host r) r = false := (ringFull_congr hsize (hget _)).trans hspace
  have hhead := entryHead_toNat (stageCleared (granted s p) host r) (r := r) hty hch
  have honly : Only [.regs, .banks, .mem, .rings, .hst] s (stageCleared (granted s p) host r) :=
    ((granted_changes s p).1.mono (by decide)).trans ((stageCleared_changes _ _ _).1.mono (by decide))
  subst ht
  refine ⟨?_, ?_, ?_, ?_, fun j hj => ?_, ringStore_step _ _ _ _ _ honly (by decide)⟩
  · rw [ringStore_count hspace', ringCount, hget]
    rfl
  · rw [ringStore_wseq, hget]
  · rw [ringStore_widx, hget, hsize]
  · rw [← hget (F.RNG_WPTR_WIDX r), ringStore_head, hhead, hget]
  · rw [← hget (F.RNG_WPTR_WIDX r), ringStore_word hj, drop_one_getD]

end

end Sys2Proof.Machine

open Sys2Proof Sys2Proof.Machine in
/-- Settles O44: staging and pushing, the reads of the head, its removal, and RNG_CFG. -/
theorem ringWindow : Obligations.RingWindow := by
  unfold Obligations.RingWindow
  intro s path r
  refine ⟨fun w v p hp hw => ?_, fun v ws hw hr hen hspace hws => ?_, fun v hw hr h => ?_, fun v hw hr hhost => ?_,
    fun v ws hw hr hhost hen hspace hlost hws => ?_, fun hread hr hown hcount hgood => ?_, fun hread hr hown hcount hbad => ?_,
    fun hread hr hown hcount hclean => ?_, fun hread hr hown hempty => ?_, fun hread hr hown => ?_, fun hread hr => ?_,
    fun hread hr hown hheld hcount hlost => ?_, fun hread h => ?_, fun v hw h => ?_, fun v hw hen hsum hlow => ?_,
    fun v hw hen hsum hhigh hlost => ?_, fun v hw hen hsize hsum hlow => ?_⟩
  · subst hp
    refine awake_ends (writable_awake hw) (fieldAt_writes hw rfl) ⟨?_, ((granted_changes s _).mono).trans (ringStage_changes _ _ _ _ _).mono⟩
      fun _ ⟨hrings, hchanges⟩ => ⟨hrings, hchanges.queued⟩
    rw [ringStage_rings, granted_rings]
  · have hen' : (granted s (R.RNG_WDATA3 r)).get (F.RNG_CFG_EN r) = 1 := (granted_get _ _ _).trans hen
    have hspace' : ringFull (granted s (R.RNG_WDATA3 r)) r = false := (ringFull_granted _ _ _).trans hspace
    have htakes := ringPush_takes (host := hostSide (pathAt s path (R.RNG_WDATA3 r))) (v := v) hr hen' hspace'
    rw [pushWords_granted, pushWords, ← hws] at htakes
    have hmarked := lateMarked_changes (pushedEntry (stageCleared (granted s (R.RNG_WDATA3 r)) (hostSide (pathAt s path (R.RNG_WDATA3 r))) r) r ws)
      r (pushLate (stageCleared (granted s (R.RNG_WDATA3 r)) (hostSide (pathAt s path (R.RNG_WDATA3 r))) r))
    obtain ⟨hcount, hseq, hidx, hhead, hword, honly⟩ := ringStored_shows (p := R.RNG_WDATA3 r) (ty := (ws.getD 0 0).toNat / 256 % 256)
      (ch := (ws.getD 0 0).toNat % 256) s (hostSide (pathAt s path (R.RNG_WDATA3 r))) v (Nat.mod_lt _ (by decide)) (Nat.mod_lt _ (by decide))
      hspace rfl
    rw [pushWords, ← hws] at hcount hseq hidx hhead hword honly
    refine awake_ends (writable_awake hw) (fieldAt_writes hw htakes) ⟨?_, ?_, ?_, ?_, fun j hj => ?_, honly.trans (hmarked.1.mono (by decide))⟩
      fun _ ⟨hcount, hseq, hidx, hhead, hword, honly⟩ => ⟨hcount, hseq, hidx, hhead, hword, honly.queued⟩
    · exact (hmarked.2.get _ List.not_mem_nil).trans hcount
    · exact (hmarked.2.get _ List.not_mem_nil).trans hseq
    · exact (hmarked.2.get _ List.not_mem_nil).trans hidx
    · rw [State.bank_of_only hmarked.1]
      refine hhead.trans ?_
      omega
    · rw [State.bank_of_only hmarked.1]
      exact hword j hj
  · have h' : (granted s (R.RNG_WDATA3 r)).get (F.RNG_CFG_EN r) = 0 ∨ ringFull (granted s (R.RNG_WDATA3 r)) r = true :=
      h.imp (granted_get _ _ _).trans (ringFull_granted _ _ _).trans
    obtain ⟨hcount, hchanges⟩ := stageRefused_shows (granted s (R.RNG_WDATA3 r)) (hostSide (pathAt s path (R.RNG_WDATA3 r))) r
    exact awake_ends (writable_awake hw) (fieldAt_writes hw (ringPush_refuses hr h'))
      ⟨hcount.after_granted, (granted_changes s _).mono.trans hchanges.mono⟩ fun _ ⟨hcount, hchanges⟩ => ⟨hcount, hchanges.queued⟩
  · have htel := ringPush_tel (s := granted s (R.RNG_WDATA3 r)) (host := hostSide (pathAt s path (R.RNG_WDATA3 r))) (v := v) hr
    rw [if_pos hhost] at htel
    obtain ⟨hcount, hchanges⟩ := stageRefused_shows (granted s (R.RNG_WDATA3 r)) (hostSide (pathAt s path (R.RNG_WDATA3 r))) r
    exact awake_ends (writable_awake hw) (fieldAt_writes hw htel)
      ⟨hcount.after_granted, (granted_changes s _).mono.trans hchanges.mono⟩ fun _ ⟨hcount, hchanges⟩ => ⟨hcount, hchanges.queued⟩
  · have hen' : (granted s (R.RNG_WDATA3 r)).get (F.RNG_CFG_EN r) = 1 := (granted_get _ _ _).trans hen
    have hspace' : ringFull (granted s (R.RNG_WDATA3 r)) r = false := (ringFull_granted _ _ _).trans hspace
    have hlost' : ((granted s (R.RNG_WDATA3 r)).ring r).lost = 0 := (congrArg RingSt.lost (ring_granted _ _ _)).trans hlost
    have hproduces := ringPush_produces (v := v) hr hen' hspace' hlost'
    have hshows := ringStored_shows (p := R.RNG_WDATA3 r) (ty := ((pushWords s false r v).getD 0 0).toNat / 256 % 256) (ch := r - 16) s false v
      (Nat.mod_lt _ (by decide)) (by omega) hspace rfl
    have hwords : pushWords s false r v = ws := hws.symm
    rw [pushWords_granted, hwords] at hproduces
    rw [hwords] at hshows
    rw [← hhost] at hproduces
    exact awake_ends (writable_awake hw) (fieldAt_writes hw hproduces) (hhost.symm ▸ hshows)
      fun _ ⟨hcount, hseq, hidx, hhead, hword, honly⟩ => ⟨hcount, hseq, hidx, hhead, hword, honly.queued⟩
  · have hkept := headEntry_changes s r
    have hlatch := setLatch_changes (headEntry s r).1 (hostSide path) r (headWords s r) true
    have hlen : (headEntry s r).1.rings.length = s.rings.length := congrArg List.length (hkept.1 .rings (by decide))
    refine awake_ends (readable_awake hread) ((readAt_readable _ hread).trans (ringFetch_reads hr hown hcount hgood))
      ⟨rfl, fun hlt => setLatch_latch _ _ (hlen.symm ▸ hlt), ?_, ?_⟩
      fun _ ⟨hword, hlatch, hcount, honly⟩ => ⟨hword, hlatch, hcount, honly.queued⟩
    · rw [ringCount, State.get_answer, hlatch.2.get _ List.not_mem_nil, headEntry_get _ _ (by simp; omega)]
      rfl
    · exact State.answer_step _ _ ((hkept.1.mono (by decide)).trans (hlatch.1.mono (by decide))) (by decide)
  · have hkept := headEntry_changes s r
    have hlatch := setLatch_changes (headEntry s r).1 (hostSide path) r [lostMark (headEntry s r).1 r, 0, 0, 0] true
    have hget : ∀ f : Fld, 0x9000 ≤ f.ptr → (setLatch (headEntry s r).1 (hostSide path) r [lostMark (headEntry s r).1 r, 0, 0, 0] true).get f =
        s.get f := fun f hf => (hlatch.2.get _ List.not_mem_nil).trans (headEntry_get _ _ hf)
    have hseq : s.get (F.RNG_RPTR_RSEQ r) < 65536 := State.get_lt _ _
    refine awake_ends (readable_awake hread) ((readAt_readable _ hread).trans (ringFetch_marks hr hown hcount hbad)) ⟨?_, ?_, ?_, ?_⟩
      fun _ ⟨hword, hcounted, hcount, honly⟩ => ⟨hword, hcounted, hcount, honly.queued⟩
    · rw [State.answer_rdata, lostMark, headEntry_get _ _ (by simp; omega), BitVec.toNat_ofNat, Nat.mod_eq_of_lt (by omega)]
    · exact counted.of_regs (counted_raise_of (hget _ (by simp; omega)) (by simp [Flag.ok])) rfl
    · rw [ringCount, State.get_answer, State.get_raise_disjoint _ (by simp [Fld.disjoint]) (by simp [Fld.disjoint]), hget _ (by simp; omega)]
      rfl
    · exact State.answer_step _ _ (State.raise_step _ _ ((hkept.1.mono (by decide)).trans (hlatch.1.mono (by decide))) (by decide)) (by decide)
  · have hgood : (checkWord (errAt s (headKey s r))).1 ≠ .ue := by
      have hzero : errAt s (headKey s r) = 0 := hclean
      rw [hzero, checkWord_zero]
      decide
    have hreads := ringFetch_reads hr hown hcount hgood
    rw [headEntry_clean hclean] at hreads
    refine awake_ends (readable_awake hread) ((readAt_readable _ hread).trans hreads) ⟨rfl, ?_⟩ fun _ ⟨hword, hchanges⟩ => ⟨hword, hchanges.queued⟩
    exact ((setLatch_changes _ _ _ _ _).mono).part (State.answer_only _ _)
  · refine awake_ends (readable_awake hread) ((readAt_readable _ hread).trans (ringFetch_empty hr hown hempty)) ⟨rfl, ?_, ?_⟩
      fun _ ⟨hword, hcounted, hchanges⟩ => ⟨hword, hcounted, hchanges.queued⟩
    · exact counted.of_regs (counted_raise_of ((setLatch_changes _ _ _ _ _).2.get _ List.not_mem_nil) (by simp [Flag.ok])) rfl
    · exact (((setLatch_changes _ _ _ _ _).mono).raise _).part (State.answer_only _ _)
  · refine awake_ends (readable_awake hread) ((readAt_readable _ hread).trans (ringFetch_stranger hr hown)) ⟨rfl, ?_, ?_⟩
      fun _ ⟨hword, hcounted, hchanges⟩ => ⟨hword, hcounted, hchanges.queued⟩
    · exact counted.of_regs (counted_raise_of rfl (by simp [Flag.ok])) rfl
    · exact ((Changes.refl _ _ s).raise _).part (State.answer_only _ _)
  · exact awake_ends (readable_awake hread) ((readAt_readable _ hread).trans (ringFetch_cmd hr)) ⟨rfl, (Changes.refl _ _ s).part (State.answer_only _ _)⟩
      fun _ ⟨hword, hchanges⟩ => ⟨hword, hchanges.queued⟩
  · have hread' := headRead_changes s (hostSide path) r
    have hcount' : ringCount (headRead s (hostSide path) r) r = ringCount s r := headRead_get _ _ _ _
    have hdrop := ringDrop_changes (headRead s (hostSide path) r) r
    obtain ⟨hleft, hidx⟩ := ringDrop_shows (hcount'.symm ▸ hcount)
    refine awake_ends (readable_awake hread) ((readAt_readable _ hread).trans (ringConsume_takes hr hown hheld hlost))
      ⟨?_, hleft.trans (by rw [hcount']), hidx.trans ?_, hread'.mono.trans hdrop.mono⟩
      fun _ ⟨hword, hcount, hidx, hchanges⟩ => ⟨hword, hcount, hidx, hchanges.queued⟩
    · rw [hdrop.1 .rdata (by decide)]
      exact ringLatched_reads hr hown
    · rw [headRead_get, ringSize_congr (headRead_get _ _ _ _)]
  · exact awake_ends (readable_awake hread) ((readAt_readable _ hread).trans (ringConsume_idle h)) ⟨rfl, (Changes.refl _ _ s).part (State.answer_only _ _)⟩
      fun _ ⟨hword, hchanges⟩ => ⟨hword, hchanges.queued⟩
  · have h' : ((granted s (R.RNG_CFG r)).get (F.RNG_CFG_EN r) = 1 ∧ sizeOfCode (v.toNat % 8) ≠ ringSize (granted s (R.RNG_CFG r)) r) ∨
        24576 < sizeSum (granted s (R.RNG_CFG r)) r (v.toNat % 8) := by
      rw [granted_get, ringSize_granted, sizeSum_granted]
      exact h
    exact awake_ends (reached_awake hw) (fieldAt_writes hw (ringConfig_refuses h'))
      ⟨counted_raise_of (granted_get _ _ _) (by simp [Flag.ok]), ((granted_changes s _).mono).raise _⟩
      fun _ ⟨hcount, hchanges⟩ => ⟨hcount, hchanges.queued⟩
  · have hstores := ringConfig_stores (s := granted s (R.RNG_CFG r)) (v := v) (.inl ((granted_get _ _ _).trans hen))
      ((sizeSum_granted _ _ _ _).symm ▸ hsum)
    rw [if_pos hlow] at hstores
    obtain ⟨hsize, hcount, hwidx, hridx, honly⟩ := ringDisabled_shows (granted s (R.RNG_CFG r)) r v
    exact awake_ends (reached_awake hw) (fieldAt_writes hw hstores)
      ⟨hsize, hcount, hwidx, hridx, ((granted_changes s _).1.mono (by decide)).trans (honly.mono (by decide))⟩
      fun _ ⟨hsize, hcount, hwidx, hridx, honly⟩ => ⟨hsize, hcount, hwidx, hridx, honly.queued⟩
  · have hstores := ringConfig_stores (s := granted s (R.RNG_CFG r)) (v := v) (.inl ((granted_get _ _ _).trans hen))
      ((sizeSum_granted _ _ _ _).symm ▸ hsum)
    have hkept := ringCfgStored_only (granted s (R.RNG_CFG r)) r v
    have hlost' : ((ringCfgStored (granted s (R.RNG_CFG r)) r v).ring r).lost = 0 := by
      rw [State.ring, hkept .rings (by decide)]
      exact (congrArg RingSt.lost (ring_granted _ _ _)).trans hlost
    rw [if_neg (Nat.not_lt.mpr hhigh), flushLoss_none hlost'] at hstores
    have hget : ∀ f : Fld, f.ptr ≠ R.RNG_CFG r → (ringCfgStored (granted s (R.RNG_CFG r)) r v).get f = s.get f := fun f hf =>
      (ringCfgStored_get _ _ _ hf).trans (granted_get _ _ _)
    have hword := v.isLt
    exact awake_ends (reached_awake hw) (fieldAt_writes hw hstores)
      ⟨ringCfgStored_size _ _ _, (ringCfgStored_en _ _ _).trans (by omega), hget _ (by simp), hget _ (by simp), hget _ (by simp),
        ((granted_changes s _).1.mono (by decide)).trans (hkept.mono (by decide))⟩
      fun _ ⟨hsize, hen, hcount, hwidx, hridx, honly⟩ => ⟨hsize, hen, hcount, hwidx, hridx, honly.queued⟩
  · have hstores := ringConfig_stores (s := granted s (R.RNG_CFG r)) (v := v) (.inr (hsize.trans (ringSize_granted _ _ _).symm))
      ((sizeSum_granted _ _ _ _).symm ▸ hsum)
    rw [if_pos hlow] at hstores
    obtain ⟨hsized, hcount, hwidx, hridx, honly⟩ := ringDisabled_shows (granted s (R.RNG_CFG r)) r v
    refine awake_ends (reached_awake hw) (fieldAt_writes hw hstores)
      ⟨(ringEmptied_cfg _ _ rfl).trans ((ringCfgStored_en _ _ _).trans (Nat.div_eq_of_lt hlow)), hsized.trans hsize, hcount, hwidx, hridx, ?_,
        ((granted_changes s _).1.mono (by decide)).trans (honly.mono (by decide))⟩
      fun _ ⟨hen, hsize, hcount, hwidx, hridx, hseq, honly⟩ => ⟨hen, hsize, hcount, hwidx, hridx, hseq, honly.queued⟩
    rw [ringEmptied_wseq, ringCfgStored_get _ _ _ (by simp), granted_get]

end

section
/-! A response on the fabric whose transaction names another master than the one it is outstanding for (R492, R493, R508). -/

set_option Elab.async false

namespace Sys2Proof.Machine

/-- A read of the first word of bank 32 that master 0 made and that is outstanding for master 1. -/
def strayRead : FabTxn :=
  { port := 1, req := { master := 0, addr := 0, write := false, beats := 1, data := [], strobes := [], waited := 0 }, done := 1 }

/-- A device out of reset whose fabric holds that read. -/
def strayState : State :=
  { ({} : State) with sys := { ({} : Sys) with inReset := false }, fab := { ({} : Fab) with out := (List.replicate 9 none).set 1 (some strayRead) } }

/-- The error response goes to the master that the request names. -/
theorem strayState_answers_other :
    (fabricResponse strayState 1 [] [poison]).fab.resp = (List.replicate 9 (false, [])).set 0 (true, [0]) := by decide +kernel

theorem strayState_reaches : reqTarget strayState strayRead.req = 1 := by decide

theorem strayState_sound : errAt strayState (errKey 32 (physWord strayState 32 0)) = 0 := by decide

end Sys2Proof.Machine

open Sys2Proof Sys2Proof.Machine in
/-- Refutes O43: an error response goes to the master that the request names, and nothing says that it is the master whose transaction
completes. With the read of master 0 outstanding for master 1, an uncorrectable error answers master 0. -/
theorem not_fabricResponses : ¬ Obligations.FabricResponses := by
  unfold Obligations.FabricResponses
  intro h
  obtain ⟨hread, -⟩ := h strayState
  have hone : 1 ≤ reqTarget strayState strayRead.req ∧ reqTarget strayState strayRead.req ≤ 5 := by rw [strayState_reaches]; decide
  obtain ⟨-, -, hue⟩ := hread 1 strayRead 32 0 rfl rfl rfl rfl hone.1 hone.2 rfl strayState_sound
  obtain ⟨t, hexec, hresp, -⟩ := hue poison Tests.test_poison
  have ht := Host.Outcome.next.inj (hexec.symm.trans (awake_next (s := strayState) (fabricResponse strayState 1 [] [poison]) rfl))
  rw [ht, State.queued_fab, strayState_answers_other] at hresp
  exact absurd hresp (by decide)

end

section
/-! What a read on the host bus captures, and that the bus's own bookkeeping does not reach it (R455, R456). -/

set_option Elab.async false

namespace Sys2Proof.Machine

section
variable {s : State} {k : Hst → Hst} {path : Path} {host : Bool} {p r : Nat}

/-! ### The word that a window answers -/

theorem mixRead_rdata (s : State) : (mixRead s).rdata = s.bank (mixKey (!s.mb.liveTab) (s.get F.AIN_MIXPTR_INDEX)) :=
  mixAdvance_only _ .rdata (by decide)

theorem bankRead_rdata (s : State) (c : Nat) : (bankRead s c).rdata = mbOther s c (s.get (F.CH_BPTR_OFFS c)) :=
  bankAdvance_only _ _ .rdata (by decide)

theorem traceRead_rdata (s : State) : (traceRead s).rdata = if trcBusy s (s.get F.TRC_RPTR_BUF) then 0
    else s.bank (traceKey (s.get F.TRC_RPTR_BUF) (s.get F.TRC_RPTR_ENTRY) (s.get F.TRC_RPTR_WORD)) := by
  unfold traceRead
  dsimp only
  split <;> split <;> rfl

theorem ringConsume_rdata (s : State) (host : Bool) (r : Nat) : (ringConsume s host r).rdata = ringLatched s host r 3 := by
  have hread : ∃ idle : Bool, ringConsume s host r =
      if idle then s.answer (ringLatched s host r 3) else flushLoss (ringDrop (headRead s host r) r) r := ⟨_, rfl⟩
  obtain ⟨idle, hread⟩ := hread
  rw [hread]
  cases idle with
  | true => rfl
  | false =>
    rw [if_neg Bool.false_ne_true, flushLoss_only _ _ .rdata (by decide), ringDrop_only _ _ .rdata (by decide)]
    rfl

/-- The word that a read of the head of a ring answers. -/
def headAnswer (s : State) (host : Bool) (r : Nat) : Word :=
  if r < 16 ∨ ownsRing s host r = false ∨ ringCount s r = 0 then 0
  else if (checkWord (errAt s (headKey s r))).1 = .ue then lostMark s r else (headWords s r).getD 0 0

theorem ringFetch_rdata (s : State) (host : Bool) (r : Nat) : (ringFetch s host r).rdata = headAnswer s host r := by
  unfold headAnswer
  split
  · next h =>
    rcases Nat.lt_or_ge r 16 with hr | hr
    · rw [ringFetch_cmd hr, State.answer_rdata]
    · cases hown : ownsRing s host r with
      | false => rw [ringFetch_stranger hr hown, State.answer_rdata]
      | true =>
        have hempty : ringCount s r = 0 := (h.resolve_left (Nat.not_lt.mpr hr)).resolve_left (by rw [hown]; decide)
        rw [ringFetch_empty hr hown hempty, State.answer_rdata]
  · next h =>
    obtain ⟨hr, hown, hcount⟩ : 16 ≤ r ∧ ownsRing s host r = true ∧ ringCount s r ≠ 0 := by
      refine ⟨Nat.not_lt.mp fun hr => h (.inl hr), ?_, fun hc => h (.inr (.inr hc))⟩
      rw [← Bool.not_eq_false]
      exact fun hown => h (.inr (.inl hown))
    split
    · next hbad => rw [ringFetch_marks hr hown hcount hbad, State.answer_rdata, lostMark, headEntry_get _ _ (by simp; omega)]; rfl
    · next hgood => rw [ringFetch_reads hr hown hcount hgood, State.answer_rdata]

/-! ### The bus's bookkeeping does not reach what a read captures -/

theorem some_read_congr {c : Prop} [Decidable c] {a b : State} {x y : Option State} (h : a.rdata = b.rdata)
    (hrest : x.map State.rdata = y.map State.rdata) : (if c then some a else x).map State.rdata = (if c then some b else y).map State.rdata := by
  split
  · exact congrArg some h
  · exact hrest

theorem windowRead_hstUp (s : State) (k : Hst → Hst) (host : Bool) (p : Nat) :
    (windowRead (s.hstUp k) host p).map State.rdata = (windowRead s host p).map State.rdata := by
  have hmix : (mixRead (s.hstUp k)).rdata = (mixRead s).rdata := (mixRead_rdata _).trans (mixRead_rdata s).symm
  have hbank : ∀ c, (bankRead (s.hstUp k) c).rdata = (bankRead s c).rdata := fun c => (bankRead_rdata _ c).trans (bankRead_rdata s c).symm
  have htrace : (traceRead (s.hstUp k)).rdata = (traceRead s).rdata := (traceRead_rdata _).trans (traceRead_rdata s).symm
  have hfetch : ∀ r, (ringFetch (s.hstUp k) host r).rdata = (ringFetch s host r).rdata := fun r =>
    (ringFetch_rdata _ _ r).trans (ringFetch_rdata s host r).symm
  have hconsume : ∀ r, (ringConsume (s.hstUp k) host r).rdata = (ringConsume s host r).rdata := fun r =>
    (ringConsume_rdata _ _ r).trans (ringConsume_rdata s host r).symm
  unfold windowRead
  exact some_read_congr rfl <| some_read_congr hmix <| some_read_congr rfl <| some_read_congr rfl <| some_read_congr (hbank _) <|
    some_read_congr rfl <| some_read_congr rfl <| some_read_congr rfl <| some_read_congr rfl <| some_read_congr rfl <|
    some_read_congr htrace <| some_read_congr (hfetch _) <| some_read_congr (hconsume _) <| some_read_congr rfl rfl

theorem hstStat_hstUp (hk : (k s.hst).timedOut = s.hst.timedOut) : hstStat (s.hstUp k) = hstStat s := by
  have hphase : hstPhase (s.hstUp k) = hstPhase s := by
    unfold hstPhase
    rw [State.hstUp_hst, hk]
    rfl
  unfold hstStat
  rw [hphase]
  rfl

theorem liveWord_hstUp (hk : (k s.hst).timedOut = s.hst.timedOut) (p : Nat) : liveWord (s.hstUp k) p = liveWord s p := by
  unfold liveWord
  rw [hstStat_hstUp hk]
  exact ite_congr rfl (fun _ => rfl) fun _ => ite_congr rfl (fun _ => rfl) fun _ => ite_congr rfl (fun _ => rfl) fun _ =>
    ite_congr rfl (fun _ => rfl) fun _ => ite_congr rfl (fun _ => rfl) fun _ => ite_congr rfl (fun _ => rfl) fun _ =>
    ite_congr rfl (fun _ => rfl) fun _ => ite_congr rfl (fun _ => rfl) fun _ => ite_congr rfl (fun _ => rfl) fun _ =>
    ite_congr rfl (fun _ => rfl) fun _ => ite_congr rfl (fun _ => rfl) fun _ => ite_congr rfl (fun _ => rfl) fun _ =>
    ite_congr rfl (fun _ => rfl) fun _ => rfl

theorem readable_hstUp (s : State) (k : Hst → Hst) (path : Path) (p : Nat) : readable (s.hstUp k) path p = readable s path p := rfl

/-- The word of a register that is no window. -/
def plainWord (s : State) (path : Path) (p : Nat) : Word :=
  if p = R.SCN_NOW_L then BitVec.ofNat 32 s.time.block
  else if p = R.SCN_NOW_H then s.scn.nowHigh
  else if p = R.SNS_CALR1 then s.sense.calLatch
  else if (latchedBy p).isSome then latchedWord s (sideOf path) p
  else (liveWord s p).getD (s.rd (canon s p))

theorem regPeek_eq (s : State) (path : Path) (p : Nat) : regPeek s path p =
    if !readable s path p then 0 else ((windowRead s (hostSide path) p).map State.rdata).getD (plainWord s path p) := by
  unfold regPeek plainWord
  cases windowRead s (hostSide path) p <;> rfl

theorem plainWord_hstUp (hk : (k s.hst).timedOut = s.hst.timedOut) (path : Path) (p : Nat) :
    plainWord (s.hstUp k) path p = plainWord s path p := by
  unfold plainWord
  rw [liveWord_hstUp hk]
  rfl

/-- A read captures the same word whatever the bus has noted since, its timeout apart. -/
theorem regPeek_hstUp (hk : (k s.hst).timedOut = s.hst.timedOut) (path : Path) (p : Nat) : regPeek (s.hstUp k) path p = regPeek s path p := by
  rw [regPeek_eq, regPeek_eq, readable_hstUp, windowRead_hstUp, plainWord_hstUp hk]

/-! ### The side effect of a read keeps the byte on its way (R456) -/

theorem readEffect_rdata (s : State) (path : Path) (p : Nat) (cap : List Word) : (readEffect s path p cap).rdata = s.rdata := by
  unfold readEffect
  split
  · rfl
  · split
    · rfl
    · split
      · rfl
      · exact latchWords_only _ _ _ _ .rdata (by decide)

end

end Sys2Proof.Machine

end

section
/-! Addresses on the host bus (R440 to R446, R451 to R453, R455, R457). -/

set_option Elab.async false

namespace Sys2Proof.Machine

/-- A command whose effect keeps the queue answers that effect. -/
theorem awake_answers {s u v : State} (hres : s.sys.inReset = false) (h : u = v) (hqueue : v.pending = s.pending) : awake s u = .next v := by
  rw [awake_runs hres h, ← hqueue]
  rfl

section
variable {s t : State} {b : Byte} {err : BitVec 145} {path : Path}

/-! ### A byte is heard (R472) -/

/-- The device has heard a byte: the lines have been high. -/
def heard (s : State) (b : Byte) : State := clocked s (b.toNat != 0)

theorem clocked_changes (s : State) (ones : Bool) : Changes [.conds] [] s (clocked s ones) := by
  unfold clocked
  dsimp only
  split
  · exact ((Changes.refl _ _ s).condEnd _).condEnd _
  · exact (Changes.refl _ _ s).condEnd _

theorem heard_changes (s : State) (b : Byte) : Changes [.conds] [] s (heard s b) := clocked_changes _ _

theorem heard_hst (s : State) (b : Byte) : (heard s b).hst = s.hst := (heard_changes s b).1 .hst (by decide)

theorem heard_get (s : State) (b : Byte) (f : Fld) : (heard s b).get f = s.get f := (heard_changes s b).2.get f List.not_mem_nil

theorem ready_heard (s : State) (b : Byte) : ready (heard s b) = ready s := by
  unfold ready bstate
  rw [heard_get]

theorem managerAnswers_heard (s : State) (b : Byte) : managerAnswers (heard s b) = managerAnswers s := by
  have hpins : (heard s b).pins = s.pins := (heard_changes s b).1 .pins (by decide)
  unfold managerAnswers owner State.on
  rw [ready_heard, heard_get, hpins]

theorem hostAddr_heard (s : State) (b : Byte) (a : Nat) : hostAddr (heard s b) a = hostAddr s a := by
  unfold hostAddr State.on
  simp only [heard_get]

/-! ### Whom an address names -/

theorem refuseAddr_hst (s : State) (deaf : Bool) : (refuseAddr s deaf).hst = { s.hst with phase := if deaf then hbDeaf else hbIgnore, acked := false } :=
  State.hstUp_hst _ _

theorem refuseAddr_changes (s : State) (deaf : Bool) : Changes [.hst] [] s (refuseAddr s deaf) :=
  (refuseAddr_only s deaf).changes_no_register (by decide)

theorem hostAddress_deaf (hphase : s.hst.phase = hbAddress) (h : ready s = false ∨ hostAddr s (b.toNat / 2) = .other ∨
    (hostAddr s (b.toNat / 2) = .manager ∧ managerAnswers s = false)) : hostAddress s b err = refuseAddr (heard s b) true := by
  unfold hostAddress
  rw [if_neg (not_not.mpr hphase)]
  dsimp only
  rw [← heard, ready_heard, hostAddr_heard]
  by_cases hready : ready s = true
  · rw [hready, if_neg (by decide)]
    rcases h with h | h | ⟨h, hmgr⟩
    · exact absurd (hready.symm.trans h) (by decide)
    · rw [h]
    · rw [h]
      dsimp only
      rw [managerAnswers_heard, hmgr, if_pos (by decide)]
  · rw [Bool.not_eq_true] at hready
    rw [hready, if_pos (by decide)]

theorem hostAddress_primary (hphase : s.hst.phase = hbAddress) (hready : ready s = true) (hkind : hostAddr s (b.toNat / 2) = .primary) :
    hostAddress s b err = if s.hst.committing then refuseAddr ((heard s b).raise G.HST_BUSY_NACK) false
      else acceptAddr (heard s b) .hostPrimary (decide (b.toNat % 2 = 1)) err := by
  unfold hostAddress
  rw [if_neg (not_not.mpr hphase)]
  dsimp only
  rw [← heard, ready_heard, hostAddr_heard, hready, if_neg (by decide), hkind]
  dsimp only
  rw [heard_hst]

theorem hostAddress_manager (hphase : s.hst.phase = hbAddress) (hready : ready s = true) (hkind : hostAddr s (b.toNat / 2) = .manager)
    (hmgr : managerAnswers s = true) : hostAddress s b err = if s.hst.committing then refuseAddr ((heard s b).raise G.HST_BUSY_NACK) false
      else acceptAddr (heard s b) .hostManager (decide (b.toNat % 2 = 1)) err := by
  unfold hostAddress
  rw [if_neg (not_not.mpr hphase)]
  dsimp only
  rw [← heard, ready_heard, hostAddr_heard, hready, if_neg (by decide), hkind]
  dsimp only
  rw [managerAnswers_heard, hmgr, if_neg (by decide), heard_hst]

theorem hostAddress_group (hphase : s.hst.phase = hbAddress) (hready : ready s = true) (hkind : hostAddr s (b.toNat / 2) = .group) :
    hostAddress s b err =
      if b.toNat % 2 = 1 then refuseAddr (((heard s b).raise G.HST_GRP_READ).raiseIf s.hst.committing G.HST_BUSY_NACK) false
      else if s.hst.committing then refuseAddr ((heard s b).raise G.HST_GRP_MISS) false
      else acceptAddr (heard s b) .hostGroup false err := by
  unfold hostAddress
  rw [if_neg (not_not.mpr hphase)]
  dsimp only
  rw [← heard, ready_heard, hostAddr_heard, hready, if_neg (by decide), hkind]
  dsimp only
  rw [heard_hst]

/-! ### An accepted address (R452, R455, R457) -/

/-- What the bus notes of an address that it accepts. -/
def accepted (path : Path) (read : Bool) (h : Hst) : Hst :=
  { h with path := path, phase := if read then hbRead else hbPtrHigh, count := 0, acked := true, isOver := false, lanes := [], formed := [] }

theorem acceptAddr_write (s : State) (path : Path) (err : BitVec 145) : acceptAddr s path false err = s.hstUp (accepted path false) := rfl

/-- What the bus notes of a fetch. -/
def fetchNoted (w : Word) (cap : List Word) (failed whole : Bool) (h : Hst) : Hst :=
  { h with fetched := w, captured := cap, failed := failed, whole := whole }

theorem hostFetch_good (hdown : islandDown s (hstPtr s / 4 * 4) = false) (hgood : (checkWord err).1 = .good) : hostFetch s err =
    s.hstUp (fetchNoted (regPeek s s.hst.path (hstPtr s / 4 * 4)) (regCapture s s.hst.path (hstPtr s / 4 * 4)) false (hstPtr s % 4 == 0)) := by
  have hmet : transitError s noBank 0 err = (s, false) := transitError_good hgood
  unfold hostFetch
  dsimp only
  rw [hdown, if_neg Bool.false_ne_true, hmet]
  rfl

/-- The state after an uncorrectable word, before the bus notes the fetch. -/
def fetchFailed (s : State) (err : BitVec 145) : State := (transitError s noBank 0 err).1.raise G.HST_RD_FAIL

theorem hostFetch_lost (hdown : islandDown s (hstPtr s / 4 * 4) = false) (hue : (checkWord err).1 = .ue) :
    hostFetch s err = (fetchFailed s err).hstUp (fetchNoted 0 [] true (hstPtr s % 4 == 0)) := by
  have hmet : (transitError s noBank 0 err).2 = true :=
    (transitError_ue (by rw [hue]; decide)).trans (decide_eq_true hue)
  unfold hostFetch
  dsimp only
  rw [hdown, if_neg Bool.false_ne_true, hmet]
  rfl

theorem fetchFailed_shows (hue : (checkWord err).1 = .ue) : counted G.HST_RD_FAIL s (fetchFailed s err) ∧ counted G.MEM_PATH_UE s (fetchFailed s err) ∧
    Changes [.regs, .free] [G.HST_RD_FAIL.ptr, G.HST_RD_FAIL.cptr, G.MEM_PATH_UE.ptr, G.MEM_PATH_UE.cptr, R.MEM_ELOG0, R.MEM_ELOG1] s
      (fetchFailed s err) := by
  obtain ⟨hcount, -, -, hchanges⟩ := transitError_shows (s := s) (b := noBank) (w := 0) (e := err) (by rw [hue]; decide) (by decide)
  have hflag : transitFlag (checkWord err).1 = G.MEM_PATH_UE := by
    rw [hue]
    rfl
  rw [hflag] at hcount hchanges
  have hraise : Changes [.regs] [G.HST_RD_FAIL.ptr, G.HST_RD_FAIL.cptr] (transitError s noBank 0 err).1 (fetchFailed s err) :=
    (Changes.refl _ _ _).raise _
  exact ⟨counted_raise_of (hchanges.2.get _), hcount.onlyRegs hraise.2, hchanges.mono.trans hraise.mono⟩

/-- The device is addressed for a read. -/
def readBegun (s : State) (b : Byte) (path : Path) : State := (heard s b).hstUp (accepted path true)

theorem readBegun_changes (s : State) (b : Byte) (path : Path) : Changes [.conds, .hst] [] s (readBegun s b path) :=
  (heard_changes s b).mono.part (State.hstUp_only _ _)

theorem readBegun_hst (s : State) (b : Byte) (path : Path) : (readBegun s b path).hst = accepted path true s.hst := by
  rw [readBegun, State.hstUp_hst, heard_hst]

theorem readBegun_get (s : State) (b : Byte) (path : Path) (f : Fld) : (readBegun s b path).get f = s.get f :=
  (readBegun_changes s b path).2.get f List.not_mem_nil

theorem hstPtr_readBegun (s : State) (b : Byte) (path : Path) : hstPtr (readBegun s b path) = hstPtr s := readBegun_get _ _ _ _

theorem islandDown_readBegun (s : State) (b : Byte) (path : Path) (p : Nat) : islandDown (readBegun s b path) p = islandDown s p := by
  unfold islandDown
  rw [readBegun_get]

theorem acceptAddr_read (s : State) (b : Byte) (path : Path) (err : BitVec 145) :
    acceptAddr (heard s b) path true err = hostFetch (readBegun s b path) err := rfl

/-- A read whose word arrives captures it. -/
theorem readBegun_fetches (b : Byte) (path : Path) (hdown : islandDown s (hstPtr s / 4 * 4) = false) (hgood : (checkWord err).1 = .good) :
    ∃ t, hostFetch (readBegun s b path) err = t ∧ t.hst.phase = hbRead ∧ t.hst.path = path ∧ t.hst.acked = true ∧ t.hst.failed = false ∧
      t.hst.whole = (hstPtr s % 4 == 0) ∧ t.hst.fetched = regPeek t path (hstPtr s / 4 * 4) ∧ Changes [.conds, .hst] [] s t := by
  have hdown' : islandDown (readBegun s b path) (hstPtr (readBegun s b path) / 4 * 4) = false := by
    rw [islandDown_readBegun, hstPtr_readBegun]
    exact hdown
  have hhst := readBegun_hst s b path
  have hpath : (readBegun s b path).hst.path = path := by
    rw [hhst]
    rfl
  have hfetch := hostFetch_good hdown' hgood
  rw [hstPtr_readBegun, hpath] at hfetch
  refine ⟨_, hfetch, ?_, ?_, ?_, ?_, ?_, ?_, (readBegun_changes s b _).part (State.hstUp_only _ _)⟩
  · rw [State.hstUp_hst, hhst]
    rfl
  · rw [State.hstUp_hst, hhst]
    rfl
  · rw [State.hstUp_hst, hhst]
    rfl
  · rw [State.hstUp_hst]
    rfl
  · rw [State.hstUp_hst]
    rfl
  · rw [State.hstUp_hst]
    exact (regPeek_hstUp rfl _ _).symm

/-- A read whose word is lost on its way answers zero, and both events count. -/
theorem readBegun_loses (b : Byte) (path : Path) (hdown : islandDown s (hstPtr s / 4 * 4) = false) (hue : (checkWord err).1 = .ue) :
    ∃ t, hostFetch (readBegun s b path) err = t ∧ t.hst.phase = hbRead ∧ t.hst.acked = true ∧ t.hst.failed = true ∧ t.hst.fetched = 0 ∧
      counted G.HST_RD_FAIL s t ∧ counted G.MEM_PATH_UE s t ∧
      Changes [.regs, .conds, .free, .hst]
        [G.HST_RD_FAIL.ptr, G.HST_RD_FAIL.cptr, G.MEM_PATH_UE.ptr, G.MEM_PATH_UE.cptr, R.MEM_ELOG0, R.MEM_ELOG1] s t := by
  have hdown' : islandDown (readBegun s b path) (hstPtr (readBegun s b path) / 4 * 4) = false := by
    rw [islandDown_readBegun, hstPtr_readBegun]
    exact hdown
  have hbegun := readBegun_changes s b path
  obtain ⟨hfail, hlost, hchanges⟩ := fetchFailed_shows (s := readBegun s b path) hue
  have hkept : (fetchFailed (readBegun s b path) err).hst = accepted path true s.hst :=
    (hchanges.1 .hst (by decide)).trans (readBegun_hst _ _ _)
  refine ⟨_, hostFetch_lost hdown' hue, ?_, ?_, ?_, ?_, ?_, ?_, ?_⟩
  · rw [State.hstUp_hst, hkept]
    rfl
  · rw [State.hstUp_hst, hkept]
    rfl
  · rw [State.hstUp_hst]
    rfl
  · rw [State.hstUp_hst]
    rfl
  · exact counted_congr hfail (readBegun_get _ _ _ _) (State.hstUp_get _ _ _) (State.hstUp_get _ _ _)
  · exact counted_congr hlost (readBegun_get _ _ _ _) (State.hstUp_get _ _ _) (State.hstUp_get _ _ _)
  · exact (hbegun.mono.trans hchanges.mono).part (State.hstUp_only _ _)

/-- An address that is turned away with one event. -/
theorem refused_shows (s : State) (b : Byte) (g : Flag) (hg : g.ok := by decide) :
    (refuseAddr ((heard s b).raise g) false).hst = { s.hst with phase := hbIgnore, acked := false } ∧
      counted g s (refuseAddr ((heard s b).raise g) false) ∧
      Changes [.regs, .conds, .hst] [g.ptr, g.cptr] s (refuseAddr ((heard s b).raise g) false) := by
  have hcount : counted g s ((heard s b).raise g) := counted_raise_of (heard_get _ _ _) hg
  refine ⟨?_, hcount.of_regs (refuseAddr_only _ _ .regs (by decide)), ?_⟩
  · rw [refuseAddr_hst, State.raise_hst, heard_hst]
    rfl
  · exact ((heard_changes s b).mono.raise g).trans (refuseAddr_changes _ _).mono

/-- An address that begins a write. -/
theorem accepted_shows (s : State) (b : Byte) (path : Path) (err : BitVec 145) :
    (acceptAddr (heard s b) path false err).hst = accepted path false s.hst ∧ Changes [.conds, .hst] [] s (acceptAddr (heard s b) path false err) := by
  rw [acceptAddr_write, State.hstUp_hst, heard_hst]
  exact ⟨rfl, (heard_changes s b).mono.part (State.hstUp_only _ _)⟩

end

end Sys2Proof.Machine

open Sys2Proof Sys2Proof.Machine in
/-- Settles O39: a START, then an address byte by what it names, whether a commit runs and whether it reads. -/
theorem hostAddresses : Obligations.HostAddresses := by
  unfold Obligations.HostAddresses
  intro s hres
  refine ⟨fun hrequest hphase => ?_, fun b err hphase hready hidle hkind hwrite => ?_, fun b err hphase hready hidle hkind hread hdown hgood => ?_,
    fun b err hphase hready hidle hkind hread hdown hue => ?_, fun b err hphase hready hbusy hkind => ?_,
    fun b err hphase hready hidle hkind hwrite => ?_, fun b err hphase hready hidle hkind hread => ?_,
    fun b err hphase hready hbusy hkind hread => ?_, fun b err hphase hready hbusy hkind hwrite => ?_,
    fun b err hphase hready hidle hkind hmgr hwrite => ?_, fun b err hphase h => ?_⟩
  · have hstarts : hostStart s = (linesHigh s).hstUp fun h => { h with phase := hbAddress } := by
      refine if_neg ?_
      rw [hrequest]
      rcases hphase with hphase | ⟨hout, hphase⟩
      · rw [hphase]
        simp
      · rw [hout, hphase]
        simp
    have hlines : Changes [.conds] [] s (linesHigh s) := ((Changes.refl _ _ s).condEnd _).condEnd _
    refine awake_ends hres hstarts ⟨?_, hlines.mono.part (State.hstUp_only _ _)⟩ fun _ ⟨hhst, hchanges⟩ => ⟨hhst, hchanges.queued⟩
    rw [State.hstUp_hst, hlines.1 .hst (by decide)]
  · have htakes := hostAddress_primary (err := err) hphase hready hkind
    rw [hidle, if_neg Bool.false_ne_true, decide_eq_false (by omega)] at htakes
    exact awake_ends hres htakes (accepted_shows s b _ err) fun _ ⟨hhst, hchanges⟩ => ⟨hhst, hchanges.queued⟩
  · have htakes := hostAddress_primary (err := err) hphase hready hkind
    rw [hidle, if_neg Bool.false_ne_true, decide_eq_true hread, acceptAddr_read] at htakes
    obtain ⟨t, hfetch, hphase, hpath, hacked, hfailed, hwhole, hword, hchanges⟩ := readBegun_fetches b .hostPrimary hdown hgood
    exact ⟨t, awake_answers hres (htakes.trans hfetch) (hchanges.1 .pending (by decide)), hphase, hpath, hacked, hfailed, hwhole, hword, hchanges⟩
  · have htakes := hostAddress_primary (err := err) hphase hready hkind
    rw [hidle, if_neg Bool.false_ne_true, decide_eq_true hread, acceptAddr_read] at htakes
    obtain ⟨t, hfetch, hphase, hacked, hfailed, hword, hfail, hlost, hchanges⟩ := readBegun_loses b .hostPrimary hdown hue
    exact ⟨t, awake_answers hres (htakes.trans hfetch) (hchanges.1 .pending (by decide)), hphase, hacked, hfailed, hword, hfail, hlost, hchanges⟩
  · have hrefuses := hostAddress_primary (err := err) hphase hready hkind
    rw [hbusy, if_pos rfl] at hrefuses
    exact awake_ends hres hrefuses (refused_shows s b _) fun _ ⟨hhst, hcount, hchanges⟩ => ⟨hhst, hcount, hchanges.queued⟩
  · have htakes := hostAddress_group (err := err) hphase hready hkind
    rw [if_neg (by omega), hidle, if_neg Bool.false_ne_true] at htakes
    obtain ⟨hhst, hchanges⟩ := accepted_shows s b .hostGroup err
    exact awake_ends hres htakes ⟨congrArg Hst.path hhst, congrArg Hst.acked hhst, congrArg Hst.phase hhst, hchanges⟩
      fun _ ⟨hpath, hacked, hphase, hchanges⟩ => ⟨hpath, hacked, hphase, hchanges.queued⟩
  · have hrefuses := hostAddress_group (err := err) hphase hready hkind
    rw [if_pos hread, hidle] at hrefuses
    exact awake_ends hres hrefuses (refused_shows s b _) fun _ ⟨hhst, hcount, hchanges⟩ => ⟨hhst, hcount, hchanges.queued⟩
  · have hrefuses := hostAddress_group (err := err) hphase hready hkind
    rw [if_pos hread, hbusy] at hrefuses
    have hread' : counted G.HST_GRP_READ s ((heard s b).raise G.HST_GRP_READ) := counted_raise_of (heard_get _ _ _)
    have hboth : counted G.HST_GRP_READ s (((heard s b).raise G.HST_GRP_READ).raise G.HST_BUSY_NACK) :=
      counted_congr hread' rfl (State.get_raise_disjoint _ (by decide) (by decide)) (State.get_raise_disjoint _ (by decide) (by decide))
    have hnack : counted G.HST_BUSY_NACK s (((heard s b).raise G.HST_GRP_READ).raise G.HST_BUSY_NACK) := by
      refine counted_raise_of ?_
      rw [State.get_raise_disjoint _ (by decide) (by decide), heard_get]
    have hkept : (refuseAddr (((heard s b).raise G.HST_GRP_READ).raise G.HST_BUSY_NACK) false).regs =
        (((heard s b).raise G.HST_GRP_READ).raise G.HST_BUSY_NACK).regs := refuseAddr_only _ _ .regs (by decide)
    refine awake_ends hres hrefuses ⟨?_, hboth.of_regs hkept, hnack.of_regs hkept, ?_⟩
      fun _ ⟨hhst, hread, hnack, hchanges⟩ => ⟨hhst, hread, hnack, hchanges.queued⟩
    · rw [refuseAddr_hst, State.raiseIf_hst, State.raise_hst, heard_hst]
      rfl
    · exact (((heard_changes s b).mono.raise _).raise _).trans (refuseAddr_changes _ _).mono
  · have hrefuses := hostAddress_group (err := err) hphase hready hkind
    rw [if_neg (by omega), hbusy, if_pos rfl] at hrefuses
    exact awake_ends hres hrefuses (refused_shows s b _) fun _ ⟨hhst, hcount, hchanges⟩ => ⟨hhst, hcount, hchanges.queued⟩
  · have htakes := hostAddress_manager (err := err) hphase hready hkind hmgr
    rw [hidle, if_neg Bool.false_ne_true, decide_eq_false (by omega)] at htakes
    obtain ⟨hhst, hchanges⟩ := accepted_shows s b .hostManager err
    exact awake_ends hres htakes ⟨congrArg Hst.path hhst, congrArg Hst.acked hhst, congrArg Hst.phase hhst, hchanges⟩
      fun _ ⟨hpath, hacked, hphase, hchanges⟩ => ⟨hpath, hacked, hphase, hchanges.queued⟩
  · refine awake_ends hres (hostAddress_deaf hphase h) ⟨?_, ?_⟩ fun _ ⟨hhst, hchanges⟩ => ⟨hhst, hchanges.queued⟩
    · rw [refuseAddr_hst, heard_hst]
      rfl
    · exact (heard_changes s b).mono.trans (refuseAddr_changes _ _).mono

end

section
/-! Bytes on the host bus (R447 to R449, R453, R454, R456, R458). -/

set_option Elab.async false

namespace Sys2Proof.Machine

section
variable {s t : State} {b : Byte} {err : BitVec 145} {ack : Bool} {p : Nat}

/-! ### A byte of a write (R447, R448) -/

/-- The device has heard a byte that it has not acknowledged. -/
def byteHeard (s : State) (b : Byte) : State := (heard s b).hstUp fun h => { h with acked := false }

theorem byteHeard_hst (s : State) (b : Byte) : (byteHeard s b).hst = { s.hst with acked := false } := by
  rw [byteHeard, State.hstUp_hst, heard_hst]

theorem byteHeard_changes (s : State) (b : Byte) : Changes [.conds, .hst] [] s (byteHeard s b) :=
  (heard_changes s b).mono.part (State.hstUp_only _ _)

theorem byteHeard_get (s : State) (b : Byte) (f : Fld) : (byteHeard s b).get f = s.get f := (byteHeard_changes s b).2.get f List.not_mem_nil

theorem byteHeard_phase {n : Nat} (h : s.hst.phase = n) : (byteHeard s b).hst.phase = n := by
  rw [byteHeard_hst]
  exact h

theorem byteHeard_count (s : State) (b : Byte) : (byteHeard s b).hst.count = s.hst.count := by rw [byteHeard_hst]

theorem hostByteWrite_high (hphase : s.hst.phase = hbPtrHigh) : hostByteWrite s b =
    (byteHeard s b).hstUp fun h => { h with ptrHigh := b.toNat, phase := hbPtrLow, acked := true } := if_pos (byteHeard_phase hphase)

theorem hostByteWrite_low (hphase : s.hst.phase = hbPtrLow) : hostByteWrite s b =
    ((byteHeard s b).set F.HST_STAT_PTR ((byteHeard s b).hst.ptrHigh * 256 + b.toNat)).hstUp fun h => { h with phase := hbData, acked := true } := by
  have hhigh : ¬ (byteHeard s b).hst.phase = hbPtrHigh := by
    rw [byteHeard_phase hphase]
    decide
  exact (if_neg hhigh).trans (if_pos (byteHeard_phase hphase))

/-- A data byte, by whether the transaction has taken 32 of them. -/
theorem hostByteWrite_data (hphase : s.hst.phase = hbData) : hostByteWrite s b =
    if s.hst.count < 32 then
      ((byteHeard s b).hstUp fun h => { storeByte h (hstPtr s) b with acked := true }).set F.HST_STAT_PTR (pageNext (hstPtr s))
    else if s.hst.isOver then byteHeard s b
    else ((byteHeard s b).hstUp fun h => { h with isOver := true }).raise G.HST_WR_OVER := by
  have hhigh : ¬ (byteHeard s b).hst.phase = hbPtrHigh := by
    rw [byteHeard_phase hphase]
    decide
  have hlow : ¬ (byteHeard s b).hst.phase = hbPtrLow := by
    rw [byteHeard_phase hphase]
    decide
  have hptr : hstPtr (byteHeard s b) = hstPtr s := byteHeard_get _ _ _
  have hover : (byteHeard s b).hst.isOver = s.hst.isOver := by rw [byteHeard_hst]
  have hfold : (clocked s (b.toNat != 0)).hstUp (fun h => { h with acked := false }) = byteHeard s b := rfl
  unfold hostByteWrite
  dsimp only
  rw [hfold, if_neg hhigh, if_neg hlow, if_pos (byteHeard_phase hphase), byteHeard_count, hptr, hover]

/-! ### The lanes of a register (R449) -/

theorem pageNext_lt (h : p < 65536) : pageNext p < 65536 := by
  unfold pageNext
  omega

theorem hstPtr_lt (s : State) : hstPtr s < 65536 := State.get_lt _ _

theorem storeByte_opens (h : Hst) (p : Nat) (b : Byte) (hnone : ∀ e ∈ h.lanes, e.1 ≠ p / 4 * 4) :
    storeByte h p b = { h with lanes := h.lanes ++ [(p / 4 * 4, [(p % 4, b)])], count := h.count + 1 } := by
  have hfind : h.lanes.find? (fun e => e.1 == p / 4 * 4) = none := by
    rw [List.find?_eq_none]
    intro e he heq
    exact hnone e he (beq_iff_eq.mp heq)
  have hrest : h.lanes.filter (fun e => e.1 != p / 4 * 4) = h.lanes :=
    List.filter_eq_self.mpr fun e he => bne_iff_ne.mpr (hnone e he)
  unfold storeByte
  dsimp only
  rw [hfind, hrest]
  rfl

theorem storeByte_fills (h : Hst) (p : Nat) (b : Byte) {l : List (Nat × Byte)}
    (hfind : h.lanes.find? (fun e => e.1 == p / 4 * 4) = some (p / 4 * 4, l)) (hfull : (fillLane l (p % 4) b).length = 4) :
    (storeByte h p b).formed = h.formed ++ [(p / 4 * 4, laneWord (fillLane l (p % 4) b))] := by
  unfold storeByte
  dsimp only
  rw [hfind]
  dsimp only [Option.map_some, Option.getD_some]
  rw [if_pos hfull]

/-- A data byte is taken, and the pointer moves on within its page. -/
def byteTaken (s : State) (b : Byte) : State :=
  ((byteHeard s b).hstUp fun h => { storeByte h (hstPtr s) b with acked := true }).set F.HST_STAT_PTR (pageNext (hstPtr s))

theorem byteTaken_hst (s : State) (b : Byte) : (byteTaken s b).hst =
    { storeByte { s.hst with acked := false } (hstPtr s) b with acked := true } := by
  rw [byteTaken, State.set_hst, State.hstUp_hst, byteHeard_hst]

theorem byteTaken_ptr (s : State) (b : Byte) : hstPtr (byteTaken s b) = hstPtr s / 32 * 32 + (hstPtr s + 1) % 32 :=
  State.get_set_lit _ (by decide) (pageNext_lt (hstPtr_lt s))

theorem byteTaken_changes (s : State) (b : Byte) : Changes [.regs, .conds, .hst] [R.HST_STAT] s (byteTaken s b) :=
  ((byteHeard_changes s b).mono.part (State.hstUp_only _ _)).set _ _

theorem hostByteWrite_takes (hphase : s.hst.phase = hbData) (hcount : s.hst.count < 32) : hostByteWrite s b = byteTaken s b := by
  rw [hostByteWrite_data hphase, if_pos hcount]
  rfl

/-! ### A byte of a read (R453, R455, R456) -/

/-- The bus has sent the byte of the latched register. -/
def byteSent (s : State) (ack : Bool) : State :=
  (clocked s (sentByte s != 0 || !ack)).answer (BitVec.ofNat 32 (sentByte s))

/-- The side effect of a register whose last byte is sent. -/
def lastSent (s : State) : State :=
  if hstPtr s % 4 = 3 && s.hst.whole && !s.hst.failed then readEffect s s.hst.path (hstPtr s / 4 * 4) s.hst.captured else s

/-- The pointer stands at the next byte. -/
def ptrMoved (s : State) (ack : Bool) : State := (lastSent (byteSent s ack)).set F.HST_STAT_PTR ((hstPtr s + 1) % 65536)

theorem byteSent_changes (s : State) (ack : Bool) : Changes [.rdata, .conds] [] s (byteSent s ack) :=
  ((clocked_changes s _).mono (l := [.rdata, .conds])).part (State.answer_only _ _)

theorem byteSent_hst (s : State) (ack : Bool) : (byteSent s ack).hst = s.hst := (byteSent_changes s ack).1 .hst (by decide)

theorem hstPtr_byteSent (s : State) (ack : Bool) : hstPtr (byteSent s ack) = hstPtr s := (byteSent_changes s ack).2.get _ List.not_mem_nil

theorem lastSent_rdata (s : State) : (lastSent s).rdata = s.rdata := by
  unfold lastSent
  split
  · exact readEffect_rdata _ _ _ _
  · rfl

theorem lastSent_within (h : hstPtr s % 4 ≠ 3) : lastSent s = s := if_neg (by simp [h])

theorem sentByte_congr (hptr : hstPtr t = hstPtr s) (hhst : t.hst = s.hst) : sentByte t = sentByte s := by
  rw [sentByte, hptr, hhst]
  rfl

theorem hostByteRead_eq (hphase : s.hst.phase = hbRead) : hostByteRead s ack err =
    if ack then (if hstPtr s % 4 = 3 then hostFetch (ptrMoved s ack) err else ptrMoved s ack)
    else (if hstPtr s % 4 = 3 then hostFetch (ptrMoved s ack) err else ptrMoved s ack).hstUp fun h => { h with phase := hbIgnore } := by
  have hclocked := clocked_changes s (sentByte s != 0 || !ack)
  have hptr : hstPtr (clocked s (sentByte s != 0 || !ack)) = hstPtr s := hclocked.2.get _ List.not_mem_nil
  have hhst : (clocked s (sentByte s != 0 || !ack)).hst = s.hst := hclocked.1 .hst (by decide)
  have hbyte : sentByte (clocked s (sentByte s != 0 || !ack)) = sentByte s := sentByte_congr hptr hhst
  unfold hostByteRead
  rw [if_neg (not_not.mpr hphase)]
  unfold ptrMoved lastSent
  rw [hstPtr_byteSent, byteSent_hst, byteSent]
  dsimp only
  rw [hptr, hhst, hbyte]

theorem transitError_changes (s : State) (b w : Nat) (e : BitVec 145) (hb : b < 128) :
    Changes [.regs, .free] memEventRegs s (transitError s b w e).1 := by
  by_cases hgood : (checkWord e).1 = .good
  · rw [transitError_good hgood]
    exact Changes.refl _ _ s
  · obtain ⟨-, -, -, hchanges⟩ := transitError_shows (s := s) (w := w) hgood hb
    have hregs : ∀ q ∈ [R.MEM_ELOG0, R.MEM_ELOG1, (transitFlag (checkWord e).1).ptr, (transitFlag (checkWord e).1).cptr], q ∈ memEventRegs := by
      unfold transitFlag
      split <;> decide
    exact hchanges.mono (by decide) hregs

/-- A fetch leaves the pointer and the byte on its way. -/
theorem hostFetch_keeps (s : State) (err : BitVec 145) : hstPtr (hostFetch s err) = hstPtr s ∧ (hostFetch s err).rdata = s.rdata := by
  refine ⟨?_, hostFetch_only s err .rdata (by decide)⟩
  unfold hostFetch hstPtr
  dsimp only
  rw [State.hstUp_get, State.get_raiseIf_disjoint _ _ (by decide) (by decide)]
  exact (transitError_changes s noBank 0 _ (by decide)).2.get _

theorem ptrMoved_rdata (s : State) (ack : Bool) : (ptrMoved s ack).rdata = BitVec.ofNat 32 (sentByte s) := by
  rw [ptrMoved, State.set_rdata, lastSent_rdata]
  rfl

theorem ptrMoved_ptr (s : State) (ack : Bool) : hstPtr (ptrMoved s ack) = (hstPtr s + 1) % 65536 :=
  State.get_set_lit _ (by decide) (Nat.mod_lt _ (by decide))

/-- The byte and the pointer after the ninth clock. -/
theorem hostByteRead_sends (hphase : s.hst.phase = hbRead) : (hostByteRead s ack err).rdata = BitVec.ofNat 32 (sentByte s) ∧
    hstPtr (hostByteRead s ack err) = (hstPtr s + 1) % 65536 := by
  have hnext : (if hstPtr s % 4 = 3 then hostFetch (ptrMoved s ack) err else ptrMoved s ack).rdata = BitVec.ofNat 32 (sentByte s) ∧
      hstPtr (if hstPtr s % 4 = 3 then hostFetch (ptrMoved s ack) err else ptrMoved s ack) = (hstPtr s + 1) % 65536 := by
    split
    · obtain ⟨hptr, hdata⟩ := hostFetch_keeps (ptrMoved s ack) err
      exact ⟨hdata.trans (ptrMoved_rdata _ _), hptr.trans (ptrMoved_ptr _ _)⟩
    · exact ⟨ptrMoved_rdata _ _, ptrMoved_ptr _ _⟩
  rw [hostByteRead_eq hphase]
  cases ack with
  | true => exact hnext
  | false => exact hnext

/-- Within a register no more than the pointer and the phase changes. -/
theorem hostByteRead_within (hphase : s.hst.phase = hbRead) (hptr : hstPtr s % 4 ≠ 3) :
    (hostByteRead s ack err).hst = { s.hst with phase := if ack then hbRead else hbIgnore } ∧
      Changes [.regs, .rdata, .conds, .hst] [R.HST_STAT] s (hostByteRead s ack err) := by
  have hmoved : ptrMoved s ack = (byteSent s ack).set F.HST_STAT_PTR ((hstPtr s + 1) % 65536) := by
    rw [ptrMoved, lastSent_within (by rw [hstPtr_byteSent]; exact hptr)]
  have hhst : (ptrMoved s ack).hst = s.hst := by rw [hmoved, State.set_hst, byteSent_hst]
  have hchanges : Changes [.regs, .rdata, .conds, .hst] [R.HST_STAT] s (ptrMoved s ack) := by
    rw [hmoved]
    exact (byteSent_changes s ack).mono.set _ _
  rw [hostByteRead_eq hphase, if_neg hptr]
  cases ack with
  | true =>
    rw [if_pos rfl, hhst]
    refine ⟨?_, hchanges⟩
    rw [if_pos rfl, ← hphase]
  | false =>
    rw [if_neg Bool.false_ne_true, State.hstUp_hst, hhst]
    exact ⟨rfl, hchanges.part (State.hstUp_only _ _)⟩

end

end Sys2Proof.Machine

open Sys2Proof Sys2Proof.Machine in
/-- Settles O40: the two pointer bytes, the data bytes and the bytes of a read. -/
theorem hostBytes : Obligations.HostBytes := by
  unfold Obligations.HostBytes
  intro s hres
  refine ⟨fun b hphase => ?_, fun b hphase => ?_, fun b p hphase hcount hp hnone => ?_, fun b p l hphase hcount hp hfind hfull => ?_,
    fun b hphase hcount hfirst => ?_, fun ack err hphase => ?_⟩
  · refine awake_ends hres (hostByteWrite_high hphase) ⟨?_, (byteHeard_changes s b).part (State.hstUp_only _ _)⟩
      fun _ ⟨hhst, hchanges⟩ => ⟨hhst, hchanges.queued⟩
    rw [State.hstUp_hst, byteHeard_hst]
  · refine awake_ends hres (hostByteWrite_low hphase) ⟨?_, ?_, ((byteHeard_changes s b).mono.set _ _).part (State.hstUp_only _ _)⟩
      fun _ ⟨hptr, hhst, hchanges⟩ => ⟨hptr, hhst, hchanges.queued⟩
    · rw [hstPtr, State.hstUp_get, State.get_set_self _ _ (by decide), byteHeard_hst]
      rfl
    · rw [State.hstUp_hst, State.set_hst, byteHeard_hst]
  · subst hp
    have hhst := byteTaken_hst s b
    rw [storeByte_opens { s.hst with acked := false } _ b hnone] at hhst
    refine awake_ends hres (hostByteWrite_takes hphase hcount) ⟨byteTaken_ptr s b, ?_, ?_, ?_, byteTaken_changes s b⟩
      fun _ ⟨hptr, hcount, hlanes, hformed, hchanges⟩ => ⟨hptr, hcount, hlanes, hformed, hchanges.queued⟩ <;> rw [hhst]
  · subst hp
    refine awake_ends hres (hostByteWrite_takes hphase hcount) ⟨byteTaken_ptr s b, ?_, byteTaken_changes s b⟩
      fun _ ⟨hptr, hformed, hchanges⟩ => ⟨hptr, hformed, hchanges.queued⟩
    rw [byteTaken_hst]
    exact storeByte_fills { s.hst with acked := false } _ b hfind hfull
  · have hover := hostByteWrite_data (b := b) hphase
    rw [if_neg (Nat.not_lt.mpr hcount), hfirst, if_neg Bool.false_ne_true] at hover
    refine awake_ends hres hover ⟨?_, counted_raise_of ((State.hstUp_get _ _ _).trans (byteHeard_get _ _ _)),
      ((byteHeard_changes s b).mono.part (State.hstUp_only _ _)).raise _⟩
      fun _ ⟨hhst, hcount, hchanges⟩ => ⟨hhst, hcount, hchanges.queued⟩
    rw [State.raise_hst, State.hstUp_hst, byteHeard_hst]
  · obtain ⟨hdata, hptr⟩ := hostByteRead_sends (ack := ack) (err := err) hphase
    exact awake_ends hres rfl ⟨hdata, hptr, hostByteRead_within hphase⟩
      fun _ ⟨hdata, hptr, hwithin⟩ => ⟨hdata, hptr, fun h => ⟨(hwithin h).1, (hwithin h).2.queued⟩⟩

end

section
/-! The end of a transaction, timeouts and in-band requests (R450, R451, R458, R461 to R468, R472). -/

set_option Elab.async false

namespace Sys2Proof.Machine

section
variable {s : State}

theorem linesHigh_changes (s : State) : Changes [.conds] [] s (linesHigh s) := ((Changes.refl _ _ s).condEnd _).condEnd _

/-- What was formed and what was filled is taken from the transaction. -/
def formedTaken (h : Hst) : Hst := { h with lanes := [], formed := [], count := 0, isOver := false }

/-- A commit of what was formed begins. -/
def commitBegun (h : Hst) (x : Hst) : Hst := { x with committing := true, commit := h.formed, commitPath := h.path }

theorem endWrite_commits (hlanes : s.hst.lanes = []) (hformed : s.hst.formed ≠ []) :
    endWrite s = (s.hstUp formedTaken).hstUp (commitBegun s.hst) := by
  have hsome : s.hst.formed.isEmpty = false := by
    rw [List.isEmpty_eq_false_iff]
    exact hformed
  unfold endWrite
  dsimp only
  rw [hlanes, hsome]
  rfl

theorem endWrite_none (hformed : s.hst.formed = []) :
    endWrite s = (s.hst.lanes.foldl (fun t _ => t.raise G.HST_PARTIAL) s).hstUp formedTaken := by
  unfold endWrite
  dsimp only
  rw [hformed]
  rfl

theorem discardByte_none (s : State) : discardByte s false = s := rfl

/-- The transaction's end with nothing filled in part begins the commit. -/
theorem endWrite_shows (hlanes : s.hst.lanes = []) (hformed : s.hst.formed ≠ []) :
    (endWrite (linesHigh s)).hst = commitBegun s.hst (formedTaken s.hst) ∧ Changes [.conds, .hst] [] s (endWrite (linesHigh s)) := by
  have hlines := linesHigh_changes s
  have hhst : (linesHigh s).hst = s.hst := hlines.1 .hst (by decide)
  rw [endWrite_commits (by rw [hhst]; exact hlanes) (by rw [hhst]; exact hformed), State.hstUp_hst, State.hstUp_hst, hhst]
  exact ⟨rfl, (hlines.mono.part (State.hstUp_only _ _)).part (State.hstUp_only _ _)⟩

/-- The target logic is idle. -/
def busIdle (h : Hst) : Hst := { h with phase := hbIdle, timedOut := false }

theorem hostStop_eq (s : State) (mid : Bool) : hostStop s mid = (endWrite (linesHigh (discardByte s mid))).hstUp busIdle := rfl

/-- A STOP after one register that is filled in part. -/
theorem hostStop_partial {l : Nat × List (Nat × Byte)} (hlanes : s.hst.lanes = [l]) (hformed : s.hst.formed = []) :
    hostStop s false = (((linesHigh s).raise G.HST_PARTIAL).hstUp formedTaken).hstUp busIdle := by
  have hhst : (linesHigh s).hst = s.hst := (linesHigh_changes s).1 .hst (by decide)
  rw [hostStop_eq, discardByte_none, endWrite_none (by rw [hhst]; exact hformed), hhst, hlanes]
  rfl

/-- A STOP within a byte. -/
theorem hostStop_discards (hlanes : s.hst.lanes = []) (hformed : s.hst.formed = []) (hphase : s.hst.phase = hbData) :
    hostStop s true = ((linesHigh (s.raise G.HST_BYTE_DISC)).hstUp formedTaken).hstUp busIdle := by
  have hdiscard : discardByte s true = s.raise G.HST_BYTE_DISC := if_pos (by rw [hphase]; decide)
  have hhst : (linesHigh (s.raise G.HST_BYTE_DISC)).hst = s.hst :=
    ((linesHigh_changes _).1 .hst (by decide)).trans (State.raise_hst _ _)
  rw [hostStop_eq, hdiscard, endWrite_none (by rw [hhst]; exact hformed), hhst, hlanes]
  rfl

/-! ### The end of a commit (R468, R550) -/

/-- The commit is over, and the filter setting of HST_CFG in force. -/
def commitOver (w : Word) (h : Hst) : Hst := { h with committing := false, commit := [], filter := w }

theorem commitEnd_eq (hcommitting : s.hst.committing = true) (hcommit : s.hst.commit = []) : commitEnd s =
    if s.hst.resetDue then enterReset (s.hstUp (commitOver (s.rd R.HST_CFG))) rstSoft else s.hstUp (commitOver (s.rd R.HST_CFG)) := by
  unfold commitEnd
  rw [hcommitting, if_neg (by decide), hcommit]
  rfl

/-! ### A line that is low (R466, R467) -/

/-- The transaction is abandoned. -/
def abandoned (h : Hst) : Hst :=
  { h with
    timedOut := true, phase := if h.phase = hbIdle ∨ h.phase = hbDeaf then h.phase else hbIgnore, lanes := [], formed := [], count := 0
    isOver := false }

theorem lineTimeout_watches (g : Flag) (h : hstPhase s = 1) : lineTimeout s g = s.cond g true := if_pos h

theorem lineTimeout_abandons (g : Flag) (h : hstPhase s ≠ 1) : lineTimeout s g = (s.cond g true).hstUp abandoned := if_neg h

theorem lineTimeout_shows (g : Flag) (h : hstPhase s ≠ 1) (hidle : s.hst.phase ≠ hbIdle) (hdeaf : s.hst.phase ≠ hbDeaf) (hconds : s.conds = [])
    (hg : g.ok := by decide) : (lineTimeout s g).hst.phase = hbIgnore ∧ (lineTimeout s g).hst.timedOut = true ∧
      (lineTimeout s g).hst.lanes = [] ∧ (lineTimeout s g).hst.formed = [] ∧ counted g s (lineTimeout s g) ∧
      Changes [.regs, .conds, .hst] [g.ptr, g.cptr] s (lineTimeout s g) := by
  have hhst : (lineTimeout s g).hst = abandoned s.hst := by rw [lineTimeout_abandons g h, State.hstUp_hst, State.cond_hst]
  have hphase : (abandoned s.hst).phase = hbIgnore := if_neg (not_or.mpr ⟨hidle, hdeaf⟩)
  rw [hhst, lineTimeout_abandons g h]
  refine ⟨hphase, rfl, rfl, rfl, ?_, ((Changes.refl _ _ s).cond g true).part (State.hstUp_only _ _)⟩
  exact counted.of_regs (counted_cond_of (by rw [hconds]; rfl) rfl hg) (State.hstUp_regs _ _)

end

end Sys2Proof.Machine

open Sys2Proof Sys2Proof.Machine in
/-- Settles O41: a STOP and a repeated START, the end of the commit, a line that is low, and in-band requests. -/
theorem hostTransactions : Obligations.HostTransactions := by
  unfold Obligations.HostTransactions
  intro s hres
  refine ⟨fun hlanes hformed => ⟨?_, fun hdeaf hidle => ?_⟩, fun l hlanes hformed => ?_, fun hlanes hformed hphase => ?_,
    fun hcommitting hcommit hdue => ?_, fun hcommitting hcommit hdue => ?_, fun hphase hidle hdeaf hconds => ⟨?_, ?_⟩, fun hphase => ⟨?_, ?_⟩,
    fun hen hpending hidle => ?_, ?_, fun hrequest => ?_⟩
  · obtain ⟨hhst, hchanges⟩ := endWrite_shows hlanes hformed
    have hstop : (hostStop s false).hst = busIdle (commitBegun s.hst (formedTaken s.hst)) := by
      rw [hostStop_eq, discardByte_none, State.hstUp_hst, hhst]
    refine awake_ends hres rfl ⟨?_, ?_, ?_, ?_, ?_, ?_, hchanges.part (State.hstUp_only _ _)⟩
      fun _ ⟨hphase, hout, hbusy, hcommit, hpath, hformed, hchanges⟩ => ⟨hphase, hout, hbusy, hcommit, hpath, hformed, hchanges.queued⟩ <;>
      rw [hstop] <;> rfl
  · obtain ⟨hhst, hchanges⟩ := endWrite_shows hlanes hformed
    have hstart : hostRepeatedStart s false = (endWrite (linesHigh s)).hstUp fun h => { h with phase := hbAddress } :=
      if_neg (not_or.mpr ⟨hdeaf, hidle⟩)
    refine awake_ends hres hstart ⟨?_, ?_, ?_, ?_, hchanges.part (State.hstUp_only _ _)⟩
      fun _ ⟨hphase, hbusy, hcommit, hpath, hchanges⟩ => ⟨hphase, hbusy, hcommit, hpath, hchanges.queued⟩ <;>
      rw [State.hstUp_hst, hhst] <;> rfl
  · have hlines := linesHigh_changes s
    refine awake_ends hres (hostStop_partial hlanes hformed) ⟨?_, ?_, ?_, ?_⟩
      fun _ ⟨hcount, hbusy, hphase, hchanges⟩ => ⟨hcount, hbusy, hphase, hchanges.queued⟩
    · have hcount : counted G.HST_PARTIAL s ((linesHigh s).raise G.HST_PARTIAL) := counted_raise_of (hlines.2.get _ List.not_mem_nil)
      exact (hcount.of_regs (State.hstUp_regs _ _)).of_regs (State.hstUp_regs _ _)
    · rw [State.hstUp_hst, State.hstUp_hst, State.raise_hst, hlines.1 .hst (by decide)]
      rfl
    · rw [State.hstUp_hst]
      rfl
    · exact ((hlines.mono.raise _).part (State.hstUp_only _ _)).part (State.hstUp_only _ _)
  · have hraised : Changes [.regs, .conds, .hst] [G.HST_BYTE_DISC.ptr, G.HST_BYTE_DISC.cptr] s (s.raise G.HST_BYTE_DISC) :=
      (Changes.refl _ _ s).raise _
    have hlines := linesHigh_changes (s.raise G.HST_BYTE_DISC)
    refine awake_ends hres (hostStop_discards hlanes hformed hphase) ⟨?_, ?_, ?_⟩
      fun _ ⟨hcount, hphase, hchanges⟩ => ⟨hcount, hphase, hchanges.queued⟩
    · have hcount : counted G.HST_BYTE_DISC s (linesHigh (s.raise G.HST_BYTE_DISC)) :=
        (counted_raise_of (t := s) rfl).of_regs (hlines.1 .regs (by decide))
      exact (hcount.of_regs (State.hstUp_regs _ _)).of_regs (State.hstUp_regs _ _)
    · rw [State.hstUp_hst]
      rfl
    · exact ((hraised.trans hlines.mono).part (State.hstUp_only _ _)).part (State.hstUp_only _ _)
  · have hends := commitEnd_eq hcommitting hcommit
    rw [hdue, if_neg Bool.false_ne_true] at hends
    refine awake_ends hres hends ⟨?_, (State.hstUp_only _ _).changes_no_register (by decide)⟩ fun _ ⟨hhst, hchanges⟩ => ⟨hhst, hchanges.queued⟩
    rw [State.hstUp_hst, commitOver, ← hcommit]
  · have hends := commitEnd_eq hcommitting hcommit
    rw [hdue, if_pos rfl] at hends
    exact ⟨_, awake_runs hres hends, rfl, rfl⟩
  · exact awake_ends hres rfl (lineTimeout_shows G.HST_SCL_TMO hphase hidle hdeaf hconds)
      fun _ ⟨hphase, hout, hlanes, hformed, hcount, hchanges⟩ => ⟨hphase, hout, hlanes, hformed, hcount, hchanges.queued⟩
  · exact awake_ends hres rfl (lineTimeout_shows G.HST_SDA_TMO hphase hidle hdeaf hconds)
      fun _ ⟨hphase, hout, hlanes, hformed, hcount, hchanges⟩ => ⟨hphase, hout, hlanes, hformed, hcount, hchanges.queued⟩
  · exact awake_ends hres (lineTimeout_watches _ hphase) ⟨State.cond_hst _ _ _, (Changes.refl _ _ s).cond _ _⟩
      fun _ ⟨hhst, hchanges⟩ => ⟨hhst, hchanges.queued⟩
  · exact awake_ends hres (lineTimeout_watches _ hphase) ⟨State.cond_hst _ _ _, (Changes.refl _ _ s).cond _ _⟩
      fun _ ⟨hhst, hchanges⟩ => ⟨hhst, hchanges.queued⟩
  · have hstarts : ibrStart s = s.hstUp fun h => { h with request := true } :=
      if_pos (by rw [State.on, hen, bne_iff_ne.mpr hpending, decide_eq_true hidle]; rfl)
    exact awake_ends hres hstarts ⟨State.hstUp_hst _ _, (State.hstUp_only _ _).changes_no_register (by decide)⟩
      fun _ ⟨hhst, hchanges⟩ => ⟨hhst, hchanges.queued⟩
  · exact awake_ends hres rfl ⟨State.hstUp_hst _ _, (State.hstUp_only _ _).changes_no_register (by decide)⟩
      fun _ ⟨hhst, hchanges⟩ => ⟨hhst, hchanges.queued⟩
  · have hyields : reqCollide s = (s.hstUp fun h => { h with request := false, phase := hbAddress }).raise G.HST_REQ_COLLIDE :=
      if_neg (by rw [hrequest]; decide)
    have hup : Changes [.regs, .hst] [G.HST_REQ_COLLIDE.ptr, G.HST_REQ_COLLIDE.cptr] s
        (s.hstUp fun h => { h with request := false, phase := hbAddress }) := (Changes.refl _ _ s).part (State.hstUp_only _ _)
    refine awake_ends hres hyields ⟨?_, counted_raise_of (State.hstUp_get _ _ _), hup.raise _⟩
      fun _ ⟨hhst, hcount, hchanges⟩ => ⟨hhst, hcount, hchanges.queued⟩
    rw [State.raise_hst, State.hstUp_hst]

end

section
/-! Grants of the fabric (R490 to R495, R498, R501, R635). -/

set_option Elab.async false

namespace Sys2Proof.Machine

/-! ### The queue of commands stays behind a register write (log entry 2) -/

section
variable {s : State} {path : Path} {p : Nat} {v : Word}

theorem writeCtrl_pending (s : State) (path : Path) (v : Word) : (writeCtrl s path v).pending = s.pending := by
  unfold writeCtrl
  split
  · split <;> rfl
  · exact writeSysCtrl_only s path v .pending (by decide)

theorem ite_pending {c : Prop} [Decidable c] {t u : State} (ht : t.pending = s.pending) (hu : u.pending = s.pending) :
    (if c then t else u).pending = s.pending := by
  split
  · exact ht
  · exact hu

theorem writeSystem_pending (s : State) (path : Path) (p : Nat) (v : Word) : (writeSystem s path p v).pending = s.pending := by
  have hstore : ∀ w, (storeCoded s p w).pending = s.pending := fun w => storeCoded_only s p w .pending (by decide)
  unfold writeSystem
  exact ite_pending (writeCtrl_pending _ _ _) <| ite_pending (lcRequest_only _ _ _ .pending (by decide)) <| ite_pending (hstore _) <|
    ite_pending (writeTsCtrl_only _ _ .pending (by decide)) <| ite_pending (writeLimit_only _ _ _ .pending (by decide)) <|
    ite_pending (writeRefAdj_only _ _ _ .pending (by decide)) <| ite_pending (kSelect_only _ _ .pending (by decide)) <|
    ite_pending (writeLaneShd_only _ _ .pending (by decide)) <| ite_pending (writeQspiCtrl_only _ _ .pending (by decide)) <|
    ite_pending (qspiBufWrite_only _ _ .pending (by decide)) <| ite_pending (writeHstCfg_only _ _ _ .pending (by decide)) <|
    ite_pending (hstore _) <| ite_pending (hstore _) <| ite_pending (injectArm_only _ _ .pending (by decide)) <|
    ite_pending (ite_pending (logFlush_only _ .pending (by decide)) rfl) <| ite_pending (writeTwnCfg_only _ _ .pending (by decide)) <|
    ite_pending (writeTwnCtrl_only _ _ .pending (by decide)) <| ite_pending (writeStrCfg_only _ _ .pending (by decide)) (hstore _)

theorem regWrite_pending (s : State) (path : Path) (p : Nat) (v : Word) : (regWrite s path p v).pending = s.pending := by
  unfold regWrite
  exact ite_pending rfl <| ite_pending (writeSystem_pending _ _ _ _) <| ite_pending (writeAudio_only _ _ _ .pending (by decide)) <|
    ite_pending (writeChannel_only _ _ _ .pending (by decide)) <| ite_pending (writeLeg_only _ _ _ .pending (by decide)) <|
    ite_pending (writeSense_only _ _ _ .pending (by decide)) <| ite_pending (writeLane_only _ _ _ .pending (by decide)) <|
    ite_pending (writeSpeaker_only _ _ _ .pending (by decide)) <| ite_pending (writeDiag_only _ _ _ .pending (by decide)) <|
    ite_pending (writeRing_only _ _ _ _ .pending (by decide)) <| ite_pending (writeTraceBlock_only _ _ _ .pending (by decide)) <|
    ite_pending (writeManager_only _ _ _ .pending (by decide)) (storeCoded_only _ _ _ .pending (by decide))

theorem writeRegs_pending (s : State) (m a : Nat) (q : Quad) (strobes : Word16) : (writeRegs s m a q strobes).pending = s.pending :=
  foldl_keeps (part := State.pending) (fun _ _ => ite_pending (regWrite_pending _ _ _ _) rfl) _ s

end

/-! ### A beat of a whole word into a bank (R502, R508) -/

section
variable {s : State} {m t a b w : Nat} {q : Quad} {err : BitVec 145}

theorem mergeBytes (q : Quad) {n : Nat} (hn : n ≤ 16) :
    (List.range n).foldl (fun a i => a * 256 + (beatByte q i).toNat) 0 = q.toNat / 2 ^ (8 * (16 - n)) := by
  induction n with
  | zero => exact (Nat.div_eq_of_lt q.isLt).symm
  | succ n ih =>
    have hpow : 2 ^ (8 * (16 - n)) = 2 ^ (8 * (15 - n)) * 256 := by
      rw [show 8 * (16 - n) = 8 * (15 - n) + 8 by omega, Nat.pow_add]
    have hbyte : (beatByte q n).toNat = q.toNat / 2 ^ (8 * (15 - n)) % 256 := BitVec.toNat_ofNat _ _
    rw [List.range_succ, List.foldl_append, ih (by omega), List.foldl_cons, List.foldl_nil, hbyte, hpow, ← Nat.div_div_eq_div_mul,
      show 16 - (n + 1) = 15 - n by omega]
    exact Nat.div_add_mod' _ _

/-- A beat with every strobe set is the new word. -/
theorem mergeBeat_full (old q : Quad) : mergeBeat old q 0xFFFF#16 = q := by
  have hall : (List.range 16).foldl (fun a i =>
      a * 256 + (if bitN (0xFFFF#16).toNat i then beatByte q i else beatByte old i).toNat) 0 =
      (List.range 16).foldl (fun a i => a * 256 + (beatByte q i).toNat) 0 :=
    List.foldl_ext _ _ _ fun a i hi => by
      have hbit : ∀ i < 16, bitN (0xFFFF#16).toNat i = true := by decide
      rw [if_pos (hbit i (List.mem_range.mp hi))]
  rw [mergeBeat, hall, mergeBytes q (Nat.le_refl 16), Nat.sub_self, Nat.mul_zero, Nat.pow_zero, Nat.div_one, BitVec.ofNat_toNat,
    BitVec.setWidth_eq]

/-- A word stands in its bank. -/
def wordStored (s : State) (b w : Nat) (q : Quad) : State :=
  bankWritten (s.memUp fun x => { x with words := kvPut quadDefault x.words (b * 8192 + w) q }) b w

/-- The word keeps the bits in error that it met on its way. -/
def errKept (s : State) (k : Nat) (err : BitVec 145) : State := if err = 0 then s else setErr s k (errAt s k ^^^ err)

theorem writeBeat_full (hlo : 1 ≤ t) (hhi : t ≤ 5) (hword : fabWord a = (b, w)) :
    writeBeat s m t a q 0xFFFF#16 err = errKept (wordStored s b w q) (errKey b (physWord s b w)) err := by
  have hreg : ¬ t = 13 := by omega
  unfold writeBeat errKept wordStored
  simp only [hlo, hhi, hword, hreg, mergeBeat_full, decide_true, Bool.true_and, beq_self_eq_true, Bool.true_or, if_true, bne_self_eq_false,
    Bool.false_and, Bool.false_eq_true, if_false, and_self]
  by_cases herr : err = 0
  · subst herr
    rfl
  · rw [if_neg (by decide), if_neg (by decide), if_pos (bne_iff_ne.mpr herr), if_neg herr]

theorem setErr_words (s : State) (k : Nat) (e : BitVec 145) : (setErr s k e).mem.words = s.mem.words := rfl

theorem bankWritten_words (s : State) (b w : Nat) : (bankWritten s b w).mem.words = s.mem.words := by
  unfold bankWritten
  dsimp only
  split
  · rw [State.set_mem, setErr_words]
  · rw [setErr_words]

theorem errKept_words (s : State) (k : Nat) (err : BitVec 145) : (errKept s k err).mem.words = s.mem.words := by
  unfold errKept
  split
  · rfl
  · exact setErr_words _ _ _

theorem wordStored_words (s : State) (b w : Nat) (q : Quad) :
    (wordStored s b w q).mem.words = kvPut quadDefault s.mem.words (b * 8192 + w) q := by
  rw [wordStored, bankWritten_words]
  rfl

theorem wordStored_changes (s : State) (b w k : Nat) (q : Quad) (err : BitVec 145) :
    Changes [.regs, .mem] [R.MEM_INJ] s (errKept (wordStored s b w q) k err) := by
  have hstored : Changes [.regs, .mem] [R.MEM_INJ] s (wordStored s b w q) :=
    ((Changes.refl _ _ s).part (State.memUp_only _ _)).trans (bankWritten_changes _ _ _)
  unfold errKept
  exact hstored.ite (hstored.part (setErr_only _ _ _))

/-- The queue of commands stays behind a beat. -/
theorem writeBeat_pending (s : State) (m t a : Nat) (q : Quad) (strobes : Word16) (err : BitVec 145) :
    (writeBeat s m t a q strobes err).pending = s.pending := by
  have hmet : ∀ (c : Prop) [Decidable c], (if c then (s, false) else transitError s noBank 0 err).1.pending = s.pending := fun c _ => by
    split
    · rfl
    · exact transitError_only s noBank 0 err .pending (by decide)
  have hread : ∀ (c : Prop) [Decidable c] (u : State) (k p : Nat), u.pending = s.pending →
      (if c then foundError u srcRead k p else (u, Check.good)).1.pending = s.pending := fun c _ u k p hu => by
    split
    · exact (foundError_only u srcRead k p .pending (by decide)).trans hu
    · exact hu
  have hstored : ∀ (u : State) (k n : Nat) (f : Mem → Mem), u.pending = s.pending → (bankWritten (u.memUp f) k n).pending = s.pending :=
    fun u k n f hu => (bankWritten_only _ k n .pending (by decide)).trans hu
  have hmarked : ∀ (u : State) (k : Nat) (e : BitVec 145), u.pending = s.pending → (setErr u k e).pending = s.pending := fun u k e hu =>
    (setErr_only u k e .pending (by decide)).trans hu
  have hbank : ∀ (c d : Prop) [Decidable c] [Decidable d] (u : State) (k k' : Nat) (e e' : BitVec 145), u.pending = s.pending →
      (if c then setErr u k e else if d then setErr u k' e' else u).pending = s.pending := fun c d _ _ u k k' e e' hu =>
    ite_pending (hmarked _ _ _ hu) (ite_pending (hmarked _ _ _ hu) hu)
  unfold writeBeat
  dsimp only
  exact ite_pending (hmet _) (ite_pending ((writeRegs_pending _ _ _ _ _).trans (hmet _))
    (ite_pending (hbank _ _ _ _ _ _ _ (hstored _ _ _ _ (hread _ _ _ _ (hmet _)))) (hmet _)))

end

/-! ### The request that is granted (R494) -/

section
variable {s : State} {p : Fin 15} {rs : List FabReq} {r : FabReq} {last : Nat}

theorem winner_none (h : winner last rs = none) : rs = [] := by
  cases rs with
  | nil => rfl
  | cons q rs =>
    rw [winner] at h
    split at h
    · exact absurd h nofun
    · split at h <;> exact absurd h nofun

/-- The request that wins is one of those that wait, and none ranks before it. -/
theorem winner_best (h : winner last rs = some r) : r ∈ rs ∧ ∀ q ∈ rs, rank last r ≤ rank last q := by
  induction rs generalizing r with
  | nil => exact absurd h nofun
  | cons q rs ih =>
    rw [winner] at h
    cases hrest : winner last rs with
    | none =>
      rw [hrest] at h
      obtain rfl : q = r := Option.some.inj h
      rw [winner_none hrest]
      exact ⟨List.mem_cons_self, fun q' hq' => Nat.le_of_eq (congrArg _ (List.mem_singleton.mp hq').symm)⟩
    | some b =>
      obtain ⟨hmem, hbest⟩ := ih hrest
      rw [hrest] at h
      dsimp only at h
      split at h
      · next hle =>
        obtain rfl : q = r := Option.some.inj h
        refine ⟨List.mem_cons_self, fun q' hq' => ?_⟩
        rcases List.mem_cons.mp hq' with rfl | hq'
        · exact Nat.le_refl _
        · exact Nat.le_trans hle (hbest q' hq')
      · next hgt =>
        obtain rfl : b = r := Option.some.inj h
        refine ⟨List.mem_cons_of_mem _ hmem, fun q' hq' => ?_⟩
        rcases List.mem_cons.mp hq' with rfl | hq'
        · exact Nat.le_of_lt (Nat.not_le.mp hgt)
        · exact hbest q' hq'

/-- The grant moves the port's round-robin and its parking. -/
def grantNoted (s : State) (p : Nat) (r : FabReq) : State :=
  s.fabUp fun f => { f with
    rr := if classOf r = 1 then f.rr.set p r.master.val else f.rr
    park := f.park.set p (if s.get F.FAB_CFG_PARK_DEF = 1 then some 0 else some r.master.val) }

/-- The granted request is outstanding. -/
def grantOut (s : State) (p : Nat) (r : FabReq) : State :=
  (grantNoted s p r).fabUp fun f => { f with out := f.out.set r.master.val (some { port := p, req := r, done := 1 }) }

theorem on_parkDef (s : State) : s.on F.FAB_CFG_PARK_DEF = decide (s.get F.FAB_CFG_PARK_DEF = 1) := by
  have hbit : s.get F.FAB_CFG_PARK_DEF < 2 := State.get_lt _ _
  unfold State.on
  interval_cases s.get F.FAB_CFG_PARK_DEF <;> rfl

theorem grantTo_eq (s : State) (p : Nat) (r : FabReq) : grantTo s p r =
    if reqTarget s r = 0 then errorResponse (fabLog ((grantNoted s p r).raise G.FAB_DECERR) r kindDecerr) r
    else if r.write then writeBeats (popGranted (grantOut s p r) r) (reqTarget s r) r 0 1 else grantOut s p r := by
  unfold grantTo grantOut grantNoted
  simp only [on_parkDef, decide_eq_true_eq]

theorem writeBeats_first (s : State) (t : Nat) (r : FabReq) : writeBeats s t r 0 1 = writeBeat s r.master.val t r.addr.toNat
    (r.data.getD 0 0) (r.strobes.getD 0 0xFFFF#16) (r.errs.getD 0 0) := by
  have haddr : beatAddr t r (0 + 0) = r.addr.toNat := by
    unfold beatAddr
    split <;> rfl
  have hbeat : writeBeats s t r 0 1 = writeBeat s r.master.val t (beatAddr t r (0 + 0)) (r.data.getD (0 + 0) 0)
      (r.strobes.getD (0 + 0) 0xFFFF#16) (r.errs.getD (0 + 0) 0) := rfl
  rw [hbeat, haddr]

/-- A free port that is up grants the request that wins. -/
theorem fabricGrant_grants (hup : bitN (s.get F.FAB_PORT_DOWN) p = false) (hfree : portBusy s p = false)
    (hwin : winner (s.fab.rr.getD p 6) (rs.filter (requestStands s p)) = some r) : fabricGrant s p rs = grantTo s p r := by
  unfold fabricGrant
  dsimp only
  rw [hup, hfree, if_neg Bool.false_ne_true, if_neg Bool.false_ne_true, hwin]

theorem fabricGrant_waits (hup : bitN (s.get F.FAB_PORT_DOWN) p = false) (hbusy : portBusy s p = true) : fabricGrant s p rs = s := by
  unfold fabricGrant
  dsimp only
  rw [hup, hbusy, if_neg Bool.false_ne_true, if_pos rfl]

theorem fabricGrant_down (hdown : bitN (s.get F.FAB_PORT_DOWN) p = true) (hone : rs.filter (requestStands s p) = [r]) :
    fabricGrant s p rs = errorResponse s r := by
  unfold fabricGrant
  dsimp only
  rw [hdown, if_pos rfl, hone]
  rfl

/-! ### What the grant shows -/

theorem grantNoted_changes (s : State) (p : Nat) (r : FabReq) : Changes [.fab] [] s (grantNoted s p r) :=
  (State.fabUp_only _ _).changes_no_register (by decide)

theorem grantOut_changes (s : State) (p : Nat) (r : FabReq) : Changes [.fab] [] s (grantOut s p r) :=
  (grantNoted_changes s p r).part (State.fabUp_only _ _)

theorem grantNoted_fab (s : State) (p : Nat) (r : FabReq) : (grantNoted s p r).fab =
    { s.fab with
      rr := if classOf r = 1 then s.fab.rr.set p r.master.val else s.fab.rr
      park := s.fab.park.set p (if s.get F.FAB_CFG_PARK_DEF = 1 then some 0 else some r.master.val) } := State.fabUp_fab _ _

theorem grantOut_fab (s : State) (p : Nat) (r : FabReq) : (grantOut s p r).fab =
    { s.fab with
      rr := if classOf r = 1 then s.fab.rr.set p r.master.val else s.fab.rr
      park := s.fab.park.set p (if s.get F.FAB_CFG_PARK_DEF = 1 then some 0 else some r.master.val)
      out := s.fab.out.set r.master.val (some { port := p, req := r, done := 1 }) } := by
  rw [grantOut, State.fabUp_fab, grantNoted_fab]

theorem grantOut_eq (s : State) (p : Nat) (r : FabReq) : grantOut s p r = { s with fab := (grantOut s p r).fab } := rfl

theorem errorResponse_fab (s : State) (r : FabReq) : (errorResponse s r).fab =
    { s.fab with
      out := s.fab.out.set r.master.val none
      resp := s.fab.resp.set r.master.val (true, if r.write then [] else List.replicate (beatCount r) 0) } := State.fabUp_fab _ _

theorem errorResponse_changes (s : State) (r : FabReq) : Changes [.fab] [] s (errorResponse s r) :=
  (State.fabUp_only _ _).changes_no_register (by decide)

theorem fabLog_changes (s : State) (r : FabReq) (kind : Nat) : Changes [.regs] [R.FAB_ELOG0, R.FAB_ELOG1] s (fabLog s r kind) := by
  unfold fabLog
  dsimp only
  exact ((((((Changes.refl _ _ s).set _ _).set _ _).set _ _).setB _ _).set _ _).wr _ _

theorem fabLog_addr (s : State) (r : FabReq) (kind : Nat) : (fabLog s r kind).rd R.FAB_ELOG1 = r.addr := State.rd_wr_same _ _ _

/-- FAB_ELOG0 shows the master and the kind. -/
theorem fabLog_shows (s : State) (r : FabReq) {kind : Nat} (hkind : kind < 4) :
    (fabLog s r kind).get F.FAB_ELOG0_MASTER = r.master.val ∧ (fabLog s r kind).get F.FAB_ELOG0_KIND = kind := by
  have hword : ∀ (u : State) (f : Fld), f.ptr = R.FAB_ELOG0 → (u.wr R.FAB_ELOG1 r.addr).get f = u.get f := fun u f hf =>
    ((Changes.refl [.regs] [R.FAB_ELOG1] u).wr R.FAB_ELOG1 r.addr).2.get f (by rw [hf]; decide)
  unfold fabLog
  dsimp only
  rw [hword _ _ rfl, hword _ _ rfl, State.get_set_disjoint _ _ (by decide), State.get_setB_disjoint _ _ (by decide),
    State.get_set_disjoint _ _ (by decide), State.get_set_lit _ (by decide) (Nat.lt_of_lt_of_le r.master.isLt (by decide))]
  exact ⟨rfl, State.get_set_lit _ (by decide) hkind⟩

end

end Sys2Proof.Machine

open Sys2Proof Sys2Proof.Machine in
/-- Settles O42: the refusal by name, the request that wins, and what a grant does by its target, its kind and its port. -/
theorem fabricGrants : Obligations.FabricGrants := by
  unfold Obligations.FabricGrants
  refine ⟨fun s p rs h => fabricGrant_refused h, fun last rs r h => winner_best h, fun s p rs r hres htests =>
    ⟨fun hup hfree hwin htarget hread => ?_, fun s1 hup hfree hwin htarget hwrite hs1 => ?_,
      fun b w hup hfree hwin hlo hhi hwrite hmaster hstrobes _ hword => ?_, fun hup hfree hwin htarget => ?_, fun hup hbusy => ?_,
      fun hdown hone => ?_⟩⟩ <;> rw [exec_fabricGrant htests]
  · have hgrants := (fabricGrant_grants hup hfree hwin).trans (grantTo_eq s p r)
    rw [if_neg htarget, hread, if_neg Bool.false_ne_true] at hgrants
    refine awake_ends hres hgrants ⟨?_, ?_, ?_, grantOut_changes s p r⟩
      fun _ ⟨hout, hresp, hpark, hchanges⟩ => ⟨hout, hresp, hpark, hchanges.queued⟩ <;> rw [grantOut_fab]
  · have hgrants := (fabricGrant_grants hup hfree hwin).trans (grantTo_eq s p r)
    have hout : grantOut s p r = s1 := by rw [grantOut_eq, grantOut_fab, hs1]
    rw [if_neg htarget, hwrite, if_pos rfl, writeBeats_first, hout] at hgrants
    refine awake_answers hres hgrants ?_
    rw [writeBeat_pending, popGranted_only _ _ .pending (by decide), ← hout]
    rfl
  · have hgrants := (fabricGrant_grants hup hfree hwin).trans (grantTo_eq s p r)
    have hfull : r.strobes.getD 0 0xFFFF#16 = 0xFFFF#16 := hstrobes
    have hkept : popGranted (grantOut s p r) r = grantOut s p r := if_neg fun h => hmaster (Fin.ext h.1)
    rw [if_neg (by omega), hwrite, if_pos rfl, writeBeats_first, hkept, hfull, writeBeat_full hlo hhi hword] at hgrants
    have hstored := wordStored_changes (grantOut s p r) b w (errKey b (physWord (grantOut s p r) b w)) (r.data.getD 0 0) (r.errs.getD 0 0)
    have hmem : (grantOut s p r).mem = s.mem := (grantOut_changes s p r).1 .mem (by decide)
    refine awake_ends hres hgrants ⟨?_, fun k hk => ?_, ?_, (grantOut_changes s p r).mono.trans hstored.mono⟩
      fun _ ⟨hword, hothers, hout, hchanges⟩ => ⟨hword, hothers, hout, hchanges.queued⟩
    · rw [errKept_words, wordStored_words, kvGet_kvPut, if_pos rfl]
    · rw [errKept_words, wordStored_words, kvGet_kvPut, if_neg hk, hmem]
    · rw [hstored.1 .fab (by decide), grantOut_fab]
  · have hgrants := (fabricGrant_grants hup hfree hwin).trans (grantTo_eq s p r)
    rw [if_pos htarget] at hgrants
    have hnoted := grantNoted_changes s p r
    have hlog := fabLog_changes ((grantNoted s p r).raise G.FAB_DECERR) r kindDecerr
    have hresp := errorResponse_changes (fabLog ((grantNoted s p r).raise G.FAB_DECERR) r kindDecerr) r
    have hfab : (fabLog ((grantNoted s p r).raise G.FAB_DECERR) r kindDecerr).fab = (grantNoted s p r).fab :=
      (hlog.1 .fab (by decide)).trans (State.raise_fab _ _)
    obtain ⟨hmaster, hkind⟩ := fabLog_shows ((grantNoted s p r).raise G.FAB_DECERR) r (kind := kindDecerr) (by decide)
    have hcount : counted G.FAB_DECERR s ((grantNoted s p r).raise G.FAB_DECERR) := counted_raise_of (hnoted.2.get _ List.not_mem_nil)
    refine awake_ends hres hgrants ⟨(hcount.onlyRegs hlog.2).onlyRegs hresp.2, ?_, ?_, ?_, ?_, ?_, ?_⟩
      fun _ ⟨hcount, haddr, hmaster, hkind, hout, hresp, hchanges⟩ => ⟨hcount, haddr, hmaster, hkind, hout, hresp, hchanges.queued⟩
    · exact (hresp.2 _ List.not_mem_nil).trans (fabLog_addr _ _ _)
    · exact (hresp.2.get _ List.not_mem_nil).trans hmaster
    · exact (hresp.2.get _ List.not_mem_nil).trans hkind
    · rw [errorResponse_fab, hfab, grantNoted_fab]
    · rw [errorResponse_fab, hfab, grantNoted_fab]
    · exact (((hnoted.mono.raise _).trans hlog.mono)).trans hresp.mono
  · exact awake_idle (fabricGrant_waits hup hbusy)
  · refine awake_ends hres (fabricGrant_down hdown hone) ⟨?_, ?_, errorResponse_changes s r⟩
      fun _ ⟨hout, hresp, hchanges⟩ => ⟨hout, hresp, hchanges.queued⟩ <;> rw [errorResponse_fab]

end

section
/-! The wipe's end, the log scan, the loading of an image and the start of the processors (R510 to R563). -/

set_option Elab.async false

namespace Sys2Proof.Machine

/-! ### Records for the log (R524, R526) -/

section
variable (s : State)

/-- A record that finds the queue full counts LOG_OVER, and no other writes a register. -/
theorem queueRecord_changes (r : LogRec) : Changes [.regs, .bkg] [G.BKG_LOG_OVER.ptr, G.BKG_LOG_OVER.cptr] s (queueRecord s r) := by
  refine ⟨queueRecord_only s r, ?_⟩
  unfold queueRecord
  exact OnlyRegs.ite (OnlyRegs.refl _ s) (OnlyRegs.ite (OnlyRegs.raise (OnlyRegs.refl _ s) (by simp) (by simp)) (OnlyRegs.refl _ s))

theorem queueRecord_get (r : LogRec) {f : Fld} (hflag : G.BKG_LOG_OVER.flagField.disjoint f) (hcount : G.BKG_LOG_OVER.countField.disjoint f) :
    (queueRecord s r).get f = s.get f := by
  unfold queueRecord
  split
  · rfl
  · split
    · exact State.get_raise_disjoint _ hflag hcount
    · rfl

theorem queueRetire_changes (kind n : Nat) :
    Changes [.regs, .bkg] [G.BKG_LOG_OVER.ptr, G.BKG_LOG_OVER.cptr] s (queueRetire s kind n) := queueRecord_changes s _

end

/-! ### The end of the wipe (R510, R511) -/

/-- The state in which the wipe has recorded its time. -/
def wipeTimed (s : State) (us : Nat) : State := s.set F.MEM_WIPE_US us

/-- The wipe has met a word that does not read back (R511). -/
def wipeMissed (s : State) (us : Nat) : State := (wipeTimed s us).raise G.MEM_VERIFY

/-- The state after the wipe: RETIRED is ready, any other goes on to the scan (R555, R559). -/
def wipeLeaves (s t : State) : State := if lcState s = lcRetired then becomeReady t bsRetired else t.set F.SYS_BOOT_BSTATE bsScan

section
variable {s t : State} {us : Nat}

theorem wipeMissed_counts : counted G.MEM_VERIFY s (wipeMissed s us) := counted_raise_of (State.get_set_disjoint _ _ (by decide))

theorem wipeMissed_changes : Changes [.regs] [F.MEM_WIPE_US.ptr, G.MEM_VERIFY.ptr, G.MEM_VERIFY.cptr] s (wipeMissed s us) :=
  ((Changes.refl _ _ s).set _ _).raise _

theorem wipeMissed_get {f : Fld} (htime : F.MEM_WIPE_US.disjoint f) (hflag : G.MEM_VERIFY.flagField.disjoint f)
    (hcount : G.MEM_VERIFY.countField.disjoint f) : (wipeMissed s us).get f = s.get f :=
  (State.get_raise_disjoint _ hflag hcount).trans (State.get_set_disjoint _ _ htime)

theorem becomeReady_changes (s : State) (b : Nat) : Changes [.regs, .free] [R.SYS_BOOT] s (becomeReady s b) :=
  ((Changes.refl _ _ s).set _ _).trans (State.setFree_changes _ _)

theorem bstate_becomeReady (s : State) {b : Nat} (hb : b < 8) : bstate (becomeReady s b) = b := by
  rw [bstate, becomeReady, State.setFree, State.get_congr (State.used_only _ .regs (by decide)), State.get_set_disjoint _ _ (by decide)]
  exact State.get_set_lit _ (by decide) hb

theorem wipeLeaves_changes (s t : State) : Changes [.regs, .free] [R.SYS_BOOT] t (wipeLeaves s t) :=
  (becomeReady_changes t bsRetired).ite ((Changes.refl _ _ t).set _ _)

theorem bstate_wipeLeaves (s t : State) : bstate (wipeLeaves s t) = if lcState s = lcRetired then bsRetired else bsScan := by
  unfold wipeLeaves
  split
  · exact bstate_becomeReady t (by decide)
  · exact State.get_set_lit _ (by decide) (by decide)

theorem wipeComplete_clean (hres : s.sys.inReset = false) (hwipe : bstate s = bsWipe) :
    wipeComplete s us [] = wipeLeaves s (wipeTimed s us) :=
  if_neg (by rw [hres, hwipe]; decide)

/-- A word of a bank that does not read back is counted, and its row repaired. -/
theorem wipeComplete_row {b w : Nat} (hres : s.sys.inReset = false) (hwipe : bstate s = bsWipe) (hb : b < 48) :
    wipeComplete s us [(b, w)] = wipeLeaves s (repairAtWipe (wipeMissed s us) b (w / 16)) := by
  have hrow : (if (b, w).1 < 48 then repairAtWipe (wipeMissed s us) b (w / 16)
      else if 64 ≤ (b, w).1 ∧ (b, w).1 < 88 then arrayFails (wipeMissed s us) b
      else wipeMissed s us) = repairAtWipe (wipeMissed s us) b (w / 16) := if_pos hb
  rw [← hrow]
  exact if_neg (by rw [hres, hwipe]; decide)

/-- A small array that does not read back is counted, and its owner taken out of use. -/
theorem wipeComplete_array {a : Nat} (hres : s.sys.inReset = false) (hwipe : bstate s = bsWipe) (hlo : 64 ≤ a) (hhi : a < 88) :
    wipeComplete s us [(a, 0)] = wipeLeaves s (arrayFails (wipeMissed s us) a) := by
  have harray : (if (a, 0).1 < 48 then repairAtWipe (wipeMissed s us) a (0 / 16)
      else if 64 ≤ (a, 0).1 ∧ (a, 0).1 < 88 then arrayFails (wipeMissed s us) a
      else wipeMissed s us) = arrayFails (wipeMissed s us) a := by
    rw [if_neg (show ¬ a < 48 by omega), if_pos ⟨hlo, hhi⟩]
  rw [← harray]
  exact if_neg (by rw [hres, hwipe]; decide)

theorem rowReplaced_congr (h : t.mem = s.mem) (b row : Nat) : rowReplaced t b row = rowReplaced s b row := by
  unfold rowReplaced spareFor State.bankSt
  rw [h]

theorem freeSpare_congr (h : t.mem = s.mem) (b : Nat) : freeSpare t b = freeSpare s b := by
  unfold freeSpare State.bankSt
  rw [h]

/-- The bank whose spare row k takes the place of a row. -/
def rowPlaced (s : State) (b k row : Nat) : State := s.bankUp b fun x => { x with spares := x.spares.set k (some row, false) }

theorem State.bankUp_bankSt (s : State) {b : Nat} (f : BankSt → BankSt) (hb : b < s.mem.banks.length) :
    (s.bankUp b f).bankSt b = f (s.bankSt b) := by
  simp [State.bankUp, State.bankSt, hb]

theorem rowPlaced_spares {b k row : Nat} (hb : b < s.mem.banks.length) :
    ((rowPlaced s b k row).bankSt b).spares = (s.bankSt b).spares.set k (some row, false) :=
  congrArg BankSt.spares (State.bankUp_bankSt s _ hb)

theorem repairAtWipe_repairs {b k row : Nat} (hrow : rowReplaced s b row = false) (hk : freeSpare s b = some k) :
    repairAtWipe s b row = queueRecord ((rowPlaced s b k row).raise G.MEM_REPAIR) (repairRecord (rowPlaced s b k row) b k row 3) := by
  unfold repairAtWipe
  rw [hrow, if_neg Bool.false_ne_true, hk]
  rfl

theorem repairAtWipe_shows {b k row : Nat} (hrow : rowReplaced s b row = false) (hk : freeSpare s b = some k)
    (hb : b < s.mem.banks.length) :
    counted G.MEM_REPAIR s (repairAtWipe s b row) ∧ ((repairAtWipe s b row).bankSt b).spares = (s.bankSt b).spares.set k (some row, false) := by
  have hplaced : Only [.mem] s (rowPlaced s b k row) := State.bankUp_only _ _ _
  rw [repairAtWipe_repairs hrow hk]
  have hqueued := queueRecord_changes ((rowPlaced s b k row).raise G.MEM_REPAIR) (repairRecord (rowPlaced s b k row) b k row 3)
  refine ⟨(counted_raise_of (State.get_congr (hplaced .regs (by decide)) _)).onlyRegs hqueued.2, ?_⟩
  rw [State.bankSt, hqueued.1 .mem (by decide), State.raise_mem]
  exact rowPlaced_spares hb

theorem repairAtWipe_get {b k row : Nat} (hrow : rowReplaced s b row = false) (hk : freeSpare s b = some k) {f : Fld}
    (hrep : G.MEM_REPAIR.flagField.disjoint f) (hrepc : G.MEM_REPAIR.countField.disjoint f)
    (hover : G.BKG_LOG_OVER.flagField.disjoint f) (hoverc : G.BKG_LOG_OVER.countField.disjoint f) :
    (repairAtWipe s b row).get f = s.get f := by
  rw [repairAtWipe_repairs hrow hk, queueRecord_get _ _ hover hoverc, State.get_raise_disjoint _ hrep hrepc]
  exact State.get_congr (State.bankUp_only _ _ _ .regs (by decide)) f

/-- The core whose small array failed is retired, and the other cores take up the logical ones (R131, R511). -/
theorem arrayFails_core (s : State) {p : Nat} (hp : p < 5) :
    arrayFails s (64 + p) =
      assignCores (queueRetire (s.set F.MB_CORE_RETIRED (s.get F.MB_CORE_RETIRED ||| 2 ^ p)) retireCore p) := by
  unfold arrayFails
  rw [if_pos (by omega)]
  dsimp only
  rw [Nat.add_sub_cancel_left]

theorem assignCores_changes (s : State) : Changes [.regs] [F.MB_CORE_MAP.ptr] s (assignCores s) :=
  ((Changes.refl _ _ s).set _ _).set _ _

theorem assignCores_retired (s : State) : (assignCores s).get F.MB_CORE_RETIRED = s.get F.MB_CORE_RETIRED := by
  unfold assignCores
  dsimp only
  rw [State.get_set_disjoint _ _ (by decide), State.get_set_disjoint _ _ (by decide)]

theorem arrayFails_retires (s : State) {p : Nat} (hp : p < 5) : bitN ((arrayFails s (64 + p)).get F.MB_CORE_RETIRED) p = true := by
  rw [arrayFails_core s hp, assignCores_retired, (queueRetire_changes _ _ _).2.get _, State.get_set_self _ _ (by decide)]
  exact bitN_or_two_pow _ hp

theorem arrayFails_onlyRegs (s : State) {p : Nat} (hp : p < 5) :
    OnlyRegs [F.MB_CORE_MAP.ptr, G.BKG_LOG_OVER.ptr, G.BKG_LOG_OVER.cptr] s (arrayFails s (64 + p)) := by
  rw [arrayFails_core s hp]
  exact (((OnlyRegs.refl _ s).set (by simp)).trans ((queueRetire_changes _ _ _).2.mono (by simp))).trans
    ((assignCores_changes _).2.mono (by simp))

end

/-! ### What the log scan writes (R522 to R527, R543) -/

/-- The registers that show which lanes serve, and whether a spare is left. -/
def laneRegs : List Nat :=
  [F.LANE_POOL_RETIRED.ptr, G.LANE_NO_SPARE.ptr, G.LANE_NO_SPARE.cptr] ++ (List.range 16).map fun c => (F.LPE_STAT_LANE c).ptr

/-- The registers that show the log and the units it takes out of use. -/
def scanRegs : List Nat :=
  [F.MB_CORE_MAP.ptr, F.SNS_RET_RETIRED.ptr, F.SNS_POOL_RETIRED.ptr, R.BKG_LOG0, R.BKG_LOG1, R.BKG_LOG2, G.BKG_LOG_OVER.ptr,
    G.BKG_LOG_OVER.cptr, G.BKG_LOG_EMPTY.cptr] ++ laneRegs

theorem lpeStat_mem_laneRegs {c : Nat} (hc : c < 16) : (F.LPE_STAT_LANE c).ptr ∈ laneRegs :=
  List.mem_append_right _ (List.mem_map.mpr ⟨c, List.mem_range.mpr hc, rfl⟩)

theorem laneRegs_subset : laneRegs ⊆ scanRegs := List.subset_append_right _ _

/-- The newest sector has no record that holds: the log falls back to an older one, and the writer opens a new sector (R527). -/
def logFallsBack (s : State) : State := (s.raise G.BKG_LOG_FALLBACK).bkgUp fun b => { b with newSector := true }

section
variable (s : State)

theorem restoreRetired_onlyRegs (kind n : Nat) : OnlyRegs scanRegs s (restoreRetired s kind n) := by
  unfold restoreRetired
  exact (OnlyRegs.refl _ s).set (by decide) |>.ite <| (((OnlyRegs.refl _ s).set (by decide)).ite ((OnlyRegs.refl _ s).set (by decide))).ite <|
    ((OnlyRegs.refl _ s).set (by decide)).ite (OnlyRegs.refl _ s)

theorem placeSpare_mem (b k row : Nat) (bad : Bool) : Only [.mem] s (placeSpare s b k row bad) := State.bankUp_only _ _ _

theorem placeSpare_onlyRegs (b k row : Nat) (bad : Bool) : OnlyRegs scanRegs s (placeSpare s b k row bad) :=
  OnlyRegs.of_only (OnlyRegs.refl _ s) (placeSpare_mem s b k row bad) (by decide)

theorem applyMap_onlyRegs (r : List Byte) : OnlyRegs scanRegs s (applyMap s r) := by
  unfold applyMap
  dsimp only
  refine OnlyRegs.foldl (fun t i => placeSpare_onlyRegs _ _ _ _ _) (OnlyRegs.foldl (fun t i => ?_) (OnlyRegs.refl _ s))
  exact OnlyRegs.ite (OnlyRegs.refl _ t) <| OnlyRegs.ite (restoreRetired_onlyRegs _ _ _) <|
    OnlyRegs.ite (restoreRetired_onlyRegs _ _ _) (restoreRetired_onlyRegs _ _ _)

theorem applyRecord_onlyRegs (r : List Byte) : OnlyRegs scanRegs s (applyRecord s r) := by
  unfold applyRecord
  exact OnlyRegs.ite (OnlyRegs.of_only (OnlyRegs.refl _ s) (State.bkgUp_only _ _) (by decide)) <|
    OnlyRegs.ite (placeSpare_onlyRegs _ _ _ _ _) <| OnlyRegs.ite (restoreRetired_onlyRegs _ _ _) <|
    OnlyRegs.ite (applyMap_onlyRegs _ _) (OnlyRegs.refl _ s)

/-- The writer's place in the log writes the registers that show it. -/
theorem logPlace_onlyRegs (sectors : List (List Byte)) (newest : Nat × Nat) (vs : List (Nat × Nat)) :
    OnlyRegs scanRegs s (logPlace s sectors newest vs) := by
  unfold logPlace
  dsimp only
  exact OnlyRegs.of_only (((((OnlyRegs.refl _ s).set (by decide)).set (by decide)).wr (by decide)).wr (by decide)) (State.bkgUp_only _ _)
    (by decide)

theorem recordsApplied_onlyRegs (rs : List (Nat × List Byte)) : OnlyRegs scanRegs s (rs.foldl (fun t r => applyRecord t r.2) s) :=
  OnlyRegs.foldl (fun t r => applyRecord_onlyRegs t r.2) (OnlyRegs.refl _ s)

theorem logResumes_onlyRegs (k : Bkg → Bkg) (n : Nat) : OnlyRegs scanRegs s ((s.bkgUp k).set F.BKG_LOG0_FREE n) :=
  (OnlyRegs.of_only (OnlyRegs.refl _ s) (State.bkgUp_only s k) (by decide)).set (by decide)

theorem logScan_onlyRegs (sectors : List (List Byte)) : OnlyRegs scanRegs s (logScan s sectors) := by
  unfold logScan
  dsimp only
  split
  · exact (OnlyRegs.refl _ s).raise (by decide) (by decide)
  next newest vs _ =>
    have hfallsBack (t : State) : OnlyRegs scanRegs t (logFallsBack t) :=
      OnlyRegs.of_only ((OnlyRegs.refl _ t).raise (by decide) (by decide)) (State.bkgUp_only _ _) (by decide)
    have hplaced (l : List (Nat × Nat)) := logPlace_onlyRegs s sectors newest l
    split
    · exact (hplaced _).ite ((hplaced _).trans (hfallsBack _))
    · exact (((hplaced _).ite ((hplaced _).trans (hfallsBack _))).trans (recordsApplied_onlyRegs _ _)).trans (logResumes_onlyRegs _ _ _)

/-- With no sector that holds the log is empty (R527). -/
theorem logScan_empty {sectors : List (List Byte)} (h : validSectors sectors = []) : logScan s sectors = s.raise G.BKG_LOG_EMPTY := by
  unfold logScan
  dsimp only
  rw [h]

/-- One row of the wipe's repairs is kept (log entry 59). -/
def keepRow (t : State) (e : Nat × Nat) : State :=
  if (spareFor t e.1 e.2).isSome then t
  else
    match freeSpare t e.1 with
    | some k => queueRecord (rowPlaced t e.1 k e.2) (repairRecord (rowPlaced t e.1 k e.2) e.1 k e.2 3)
    | none => t.bankUp e.1 fun x => { x with degraded := true }

/-- The state whose queue has lost the records of the wipe's repairs. -/
def wipeRecordsLeft (s : State) : State := s.bkgUp fun b => { b with queue := b.queue.filter fun r => !isVerifyRecord r }

theorem keepWipeRepairs_eq (rows : List (Nat × Nat)) : keepWipeRepairs s rows = rows.foldl keepRow (wipeRecordsLeft s) := rfl

theorem keepRow_get (e : Nat × Nat) {f : Fld} (hflag : G.BKG_LOG_OVER.flagField.disjoint f)
    (hcount : G.BKG_LOG_OVER.countField.disjoint f) : (keepRow s e).get f = s.get f := by
  unfold keepRow
  split
  · rfl
  · split
    · rw [queueRecord_get _ _ hflag hcount]
      exact State.get_congr (State.bankUp_only _ _ _ .regs (by decide)) f
    · exact State.get_congr (State.bankUp_only _ _ _ .regs (by decide)) f

theorem keepWipeRepairs_get (rows : List (Nat × Nat)) {f : Fld} (hflag : G.BKG_LOG_OVER.flagField.disjoint f)
    (hcount : G.BKG_LOG_OVER.countField.disjoint f) : (keepWipeRepairs s rows).get f = s.get f := by
  rw [keepWipeRepairs_eq, foldl_keeps (part := fun t => t.get f) (fun t e => keepRow_get t e hflag hcount)]
  exact State.get_bkgUp _ _ _

theorem keepRow_onlyRegs (e : Nat × Nat) : OnlyRegs scanRegs s (keepRow s e) := by
  unfold keepRow
  split
  · exact OnlyRegs.refl _ s
  · split
    · exact (OnlyRegs.of_only (OnlyRegs.refl _ s) (State.bankUp_only _ _ _) (by decide)).trans
        ((queueRecord_changes _ _).2.mono (by decide))
    · exact OnlyRegs.of_only (OnlyRegs.refl _ s) (State.bankUp_only _ _ _) (by decide)

theorem keepWipeRepairs_onlyRegs (rows : List (Nat × Nat)) : OnlyRegs scanRegs s (keepWipeRepairs s rows) :=
  OnlyRegs.foldl keepRow_onlyRegs (OnlyRegs.of_only (OnlyRegs.refl _ s) (State.bkgUp_only _ _) (by decide))

theorem degradeFull_only_mem : Only [.mem] s (degradeFull s) := State.memUp_only _ _

/-- One channel's lane after the scan: a retired one is served by the spare, or by none (R305, log entry 58). -/
def assignLane (t : State) (c : Nat) : State :=
  if bitN (t.get F.LANE_POOL_RETIRED) (laneOf t c) then
    match spareLane t with
    | some sp =>
      if bitN (t.get F.LANE_POOL_RETIRED) sp then t.laneUp (laneOf t c) fun x => { x with dead := true }
      else (t.set (F.LPE_STAT_LANE c) sp).set F.LANE_POOL_SPARE 0x1F
    | none => t.laneUp (laneOf t c) fun x => { x with dead := true }
  else t

theorem assignLanes_eq :
    assignLanes s = showSpare ((List.range 16).foldl assignLane (if bitN (s.get F.LANE_POOL_RETIRED) 16 then s.set F.LANE_POOL_SPARE 0x1F else s)) :=
  rfl

theorem assignLane_onlyRegs {c : Nat} (hc : c < 16) : OnlyRegs laneRegs s (assignLane s c) := by
  have hdead : OnlyRegs laneRegs s (s.laneUp (laneOf s c) fun x => { x with dead := true }) :=
    OnlyRegs.of_only (OnlyRegs.refl _ s) (State.laneUp_only _ _ _) (by decide)
  unfold assignLane
  refine OnlyRegs.ite ?_ (OnlyRegs.refl _ s)
  split
  · exact hdead.ite (((OnlyRegs.refl _ s).set (lpeStat_mem_laneRegs hc)).set (by decide))
  · exact hdead

theorem OnlyRegs.foldl_range {ps : List Nat} {f : State → Nat → State} (n : Nat) (hf : ∀ t, ∀ i < n, OnlyRegs ps t (f t i)) (t : State) :
    OnlyRegs ps t ((List.range n).foldl f t) := by
  induction n with
  | zero => exact OnlyRegs.refl _ t
  | succ n ih =>
    rw [List.range_succ, List.foldl_append]
    exact (ih fun t i hi => hf t i (Nat.lt_succ_of_lt hi)).trans (hf _ n (Nat.lt_succ_self n))

theorem assignLanes_onlyRegs : OnlyRegs laneRegs s (assignLanes s) := by
  rw [assignLanes_eq]
  have hstart : OnlyRegs laneRegs s (if bitN (s.get F.LANE_POOL_RETIRED) 16 then s.set F.LANE_POOL_SPARE 0x1F else s) :=
    ((OnlyRegs.refl _ s).set (by decide)).ite (OnlyRegs.refl _ s)
  exact (hstart.trans (OnlyRegs.foldl_range 16 (fun t _ hi => assignLane_onlyRegs t hi) _)).cond (by decide) (by decide)

end

/-! ### The end of the scan (R527, R531, R538, R539, R561) -/

/-- The state at the start of the scan: no row is placed, and the JEDEC ID stands. -/
def scanStarts (s : State) (id : Nat) : State :=
  (s.memUp fun m => { m with banks := m.banks.map fun x => { x with spares := List.replicate 8 (none, false) } }).set F.QSPI_ID_ID id

/-- The state after the log scan, with the wipe's repairs kept. -/
def logTaken (s : State) (id : Nat) (sectors : List (List Byte)) : State :=
  keepWipeRepairs (logScan (scanStarts s id) sectors) (mappedRows s)

/-- The state after the scan of the log, its units assigned. -/
def scanned (s : State) (id : Nat) (sectors : List (List Byte)) : State :=
  assignLanes (assignCores (degradeFull (logTaken s id sectors)))

/-- The codes of the slots are shown (R538). -/
def slotsShown (t : State) (id : Nat) (a b : List Byte) : State :=
  (t.set F.IMG_STAT_RSN_A (slotCode t (idOk id) a)).set F.IMG_STAT_RSN_B (slotCode t (idOk id) b)

/-- The candidates of the slots, in loading order. -/
def candidatesFound (t : State) (id : Nat) (a b : List Byte) : List Candidate :=
  loadOrder (slotsShown t id a b) (if slotCode t (idOk id) a = 0 then [candidateOf (slotsShown t id a b) false a] else [])
    (if slotCode t (idOk id) b = 0 then [candidateOf (slotsShown t id a b) true b] else [])

/-- The state that holds the candidates. -/
def candidatesHeld (t : State) (id : Nat) (a b : List Byte) : State :=
  (slotsShown t id a b).sysUp fun x => { x with candidates := candidatesFound t id a b }

/-- The state after the slots: the first candidate is loaded, or recovery is ready. -/
def imagesTaken (t : State) (id : Nat) (a b : List Byte) : State :=
  if (candidatesFound t id a b).isEmpty then becomeReady (candidatesHeld t id a b) bsRecovery
  else (candidatesHeld t id a b).set F.SYS_BOOT_BSTATE bsLoad

section
variable {s : State} {id : Nat} {sectors : List (List Byte)} {a b : List Byte}

theorem scanComplete_eq (hres : s.sys.inReset = false) (hscan : bstate s = bsScan) :
    scanComplete s id sectors a b =
      if bootSel (scanned s id sectors) = 1 then becomeReady (scanned s id sectors) bsRecovery else imagesTaken (scanned s id sectors) id a b := by
  unfold scanComplete
  rw [if_neg (by rw [hres, hscan]; decide)]
  rfl

theorem scanStarts_onlyRegs : OnlyRegs [F.QSPI_ID_ID.ptr] s (scanStarts s id) :=
  OnlyRegs.set (OnlyRegs.of_only (OnlyRegs.refl _ s) (State.memUp_only _ _) (by decide)) (by simp)

theorem logTaken_onlyRegs : OnlyRegs scanRegs (scanStarts s id) (logTaken s id sectors) :=
  (logScan_onlyRegs _ _).trans (keepWipeRepairs_onlyRegs _ _)

theorem degradeFull_regs (t : State) : (degradeFull t).regs = t.regs := degradeFull_only_mem t .regs (by decide)

/-- From the start of the scan on only the registers of the log and of the retired units change. -/
theorem scanned_onlyRegs : OnlyRegs scanRegs (scanStarts s id) (scanned s id sectors) :=
  ((OnlyRegs.of_only (logTaken_onlyRegs (s := s) (id := id) (sectors := sectors)) (degradeFull_only_mem _) (by decide)).trans
    ((assignCores_changes _).2.mono (by decide))).trans ((assignLanes_onlyRegs _).mono laneRegs_subset)

theorem scanned_rd {p : Nat} (hp : p ∉ scanRegs) (hid : p ≠ F.QSPI_ID_ID.ptr) : (scanned s id sectors).rd p = s.rd p :=
  (scanned_onlyRegs p hp).trans (scanStarts_onlyRegs p (by simpa using hid))

theorem scanned_get (f : Fld) (hp : f.ptr ∉ scanRegs := by decide) (hid : f.ptr ≠ F.QSPI_ID_ID.ptr := by decide) :
    (scanned s id sectors).get f = s.get f := by
  unfold State.get
  rw [scanned_rd hp hid]

theorem scanned_id (hid : id < 2 ^ 24) : (scanned s id sectors).get F.QSPI_ID_ID = id := by
  rw [scanned_onlyRegs.get F.QSPI_ID_ID]
  exact State.get_set_lit _ (by decide) hid

theorem scanned_sys : (scanned s id sectors).sys = s.sys := by
  have hcores : Only [.regs] (degradeFull (logTaken s id sectors)) (assignCores (degradeFull (logTaken s id sectors))) := (assignCores_changes _).1
  rw [scanned, assignLanes_only _ .sys (by decide), hcores .sys (by decide), degradeFull_only_mem _ .sys (by decide), logTaken,
    keepWipeRepairs_only _ _ .sys (by decide), logScan_only _ _ .sys (by decide)]
  rfl

theorem lcState_scanned : lcState (scanned s id sectors) = lcState s := scanned_get F.SYS_LC_STATE

theorem bootSel_scanned : bootSel (scanned s id sectors) = bootSel s := by
  unfold bootSel
  rw [lcState_scanned, scanned_get F.SYS_BOOT_BOOTSEL]

theorem slotCode_scanned (good : Bool) (bs : List Byte) : slotCode (scanned s id sectors) good bs = slotCode s good bs := by
  unfold slotCode signatureFails
  rw [lcState_scanned, scanned_sys, scanned_rd (by decide) (by decide)]

/-- An empty log is counted (R527). -/
theorem scanned_counts_empty (h : validSectors sectors = []) : counted G.BKG_LOG_EMPTY s (scanned s id sectors) := by
  have hraised : counted G.BKG_LOG_EMPTY s (logScan (scanStarts s id) sectors) := by
    rw [logScan_empty _ h]
    exact counted_raise_of (scanStarts_onlyRegs.get _)
  have hkept : counted G.BKG_LOG_EMPTY s (logTaken s id sectors) :=
    counted_congr hraised rfl (keepWipeRepairs_get _ _ (by decide) (by decide)) (keepWipeRepairs_get _ _ (by decide) (by decide))
  exact ((hkept.of_regs (degradeFull_regs _)).onlyRegs (assignCores_changes _).2).onlyRegs (assignLanes_onlyRegs _)

end

/-! ### The slots' codes (R538, R539) -/

section
variable {s t : State} {id : Nat} {a b : List Byte}

theorem ite_lt_of {c : Prop} [Decidable c] {m n k : Nat} (hm : m < k) (hn : n < k) : (if c then m else n) < k := by
  split <;> assumption

theorem slotCode_lt (s : State) (good : Bool) (bs : List Byte) : slotCode s good bs < 256 := by
  unfold slotCode
  dsimp only
  iterate 9 refine ite_lt_of (by decide) ?_
  decide

theorem slotCode_badId (s : State) (bs : List Byte) : slotCode s false bs = 1 := rfl

theorem slotsShown_codes (t : State) (id : Nat) (a b : List Byte) :
    (slotsShown t id a b).get F.IMG_STAT_RSN_A = slotCode t (idOk id) a ∧ (slotsShown t id a b).get F.IMG_STAT_RSN_B = slotCode t (idOk id) b := by
  unfold slotsShown
  constructor
  · rw [State.get_set_disjoint _ _ (by decide)]
    exact State.get_set_lit _ (by decide) (slotCode_lt _ _ _)
  · exact State.get_set_lit _ (by decide) (slotCode_lt _ _ _)

theorem imagesTaken_onlyRegs (t : State) (id : Nat) (a b : List Byte) : OnlyRegs [R.SYS_BOOT] (slotsShown t id a b) (imagesTaken t id a b) := by
  have hheld : OnlyRegs [R.SYS_BOOT] (slotsShown t id a b) (candidatesHeld t id a b) :=
    OnlyRegs.of_only (OnlyRegs.refl _ _) (State.sysUp_only _ _) (by decide)
  unfold imagesTaken
  exact (hheld.trans (becomeReady_changes _ _).2).ite (hheld.set (by simp))

theorem imagesTaken_codes (t : State) (id : Nat) (a b : List Byte) :
    (imagesTaken t id a b).get F.IMG_STAT_RSN_A = slotCode t (idOk id) a ∧ (imagesTaken t id a b).get F.IMG_STAT_RSN_B = slotCode t (idOk id) b := by
  rw [(imagesTaken_onlyRegs t id a b).get F.IMG_STAT_RSN_A, (imagesTaken_onlyRegs t id a b).get F.IMG_STAT_RSN_B]
  exact slotsShown_codes t id a b

theorem loadOrder_ne_nil {as bs : List Candidate} (h : as ≠ [] ∨ bs ≠ []) : loadOrder s as bs ≠ [] := by
  unfold loadOrder
  split
  · split <;> split <;> simp
  · simpa [or_iff_not_imp_left] using h

/-- A slot that holds is a candidate, and its loading begins (R539). -/
theorem imagesTaken_loads (h : slotCode t (idOk id) a = 0 ∨ slotCode t (idOk id) b = 0) :
    bstate (imagesTaken t id a b) = bsLoad ∧ (imagesTaken t id a b).sys.candidates ≠ [] := by
  have hfound : candidatesFound t id a b ≠ [] := loadOrder_ne_nil (h.imp (fun h => by simp [h]) fun h => by simp [h])
  have htaken : imagesTaken t id a b = (candidatesHeld t id a b).set F.SYS_BOOT_BSTATE bsLoad :=
    if_neg (by simpa using hfound)
  rw [htaken]
  exact ⟨State.get_set_lit _ (by decide) (by decide), hfound⟩

/-- With no slot that holds the device recovers (R539). -/
theorem imagesTaken_recovers (ha : slotCode t (idOk id) a ≠ 0) (hb : slotCode t (idOk id) b ≠ 0) :
    bstate (imagesTaken t id a b) = bsRecovery := by
  have hnone : candidatesFound t id a b = [] := by
    unfold candidatesFound
    rw [if_neg ha, if_neg hb]
    rfl
  have htaken : imagesTaken t id a b = becomeReady (candidatesHeld t id a b) bsRecovery := if_pos (by rw [hnone]; rfl)
  rw [htaken]
  exact bstate_becomeReady _ (by decide)

theorem imagesTaken_counted {g : Flag} (h : counted g s t) (hp : g.ptr ∉ [R.IMG_STAT, R.SYS_BOOT] := by decide)
    (hc : g.cptr ∉ [R.IMG_STAT, R.SYS_BOOT] := by decide) : counted g s (imagesTaken t id a b) := by
  refine h.onlyRegs (ps := [R.IMG_STAT, R.SYS_BOOT]) ?_ hp hc
  exact (((OnlyRegs.refl _ t).set (by simp)).set (by simp)).trans ((imagesTaken_onlyRegs t id a b).mono (by simp))

end

/-! ### The processors start (R57, R541) -/

/-- The registers of the servo of network time that its configuration writes. -/
def ptpRegs : List Nat :=
  [F.PTP_STAT_STATE.ptr, F.PTP_CTRL_STEP_NOW.ptr, R.PTP_GMID_H, R.PTP_GMID_L, F.CLK_REFADJ_SERVO.ptr, G.AIN_PTP_HOLD.ptr, G.AIN_PTP_HOLD.cptr,
    G.AIN_PTP_STEP.ptr, G.AIN_PTP_STEP.cptr]

section
variable (s : State)

theorem ptpEnter_onlyRegs (st : Nat) : OnlyRegs ptpRegs s (ptpEnter s st) := by
  unfold ptpEnter
  dsimp only
  have hentered (k : Ptp → Ptp) (x y : Bool) : OnlyRegs ptpRegs s ((((s.set F.PTP_STAT_STATE st).ptpUp k).cond G.AIN_PTP_HOLD x).cond G.AIN_PTP_STEP y) :=
    ((OnlyRegs.of_only ((OnlyRegs.refl _ s).set (by decide)) (State.ptpUp_only _ k) (by decide)).cond (by decide) (by decide)).cond
      (by decide) (by decide)
  exact ((hentered _ _ _).set (by decide)).ite (hentered _ _ _)

theorem ptpForget_onlyRegs : OnlyRegs ptpRegs s (ptpForget s) := OnlyRegs.of_only (OnlyRegs.refl _ s) (ptpForget_only s) (by decide)

theorem ptpSelect_onlyRegs : OnlyRegs ptpRegs s (ptpSelect s) := by
  unfold ptpSelect
  split
  · exact OnlyRegs.of_only (OnlyRegs.refl _ s) (State.ptpUp_only _ _) (by decide)
  next port a _ =>
    dsimp only
    have hchosen : OnlyRegs ptpRegs s (((((s.ptpUp fun p => { p with sel := some a }).set F.PTP_STAT_PORT (if port = .a then 0 else 1)).set
        F.PTP_STAT_STEPS_RM (min a.steps.toNat 255)).wr R.PTP_GMID_H (a.gm.extractLsb' 32 32)).wr R.PTP_GMID_L (a.gm.extractLsb' 0 32)) :=
      ((((OnlyRegs.of_only (OnlyRegs.refl _ s) (State.ptpUp_only _ _) (by decide)).set (by decide)).set (by decide)).wr (by decide)).wr (by decide)
    have hacquires := hchosen.trans (ptpEnter_onlyRegs _ ptpAcquire)
    exact hacquires.ite (hacquires.ite hchosen)

/-- The servo enters a state without a step, and forgets its masters. -/
theorem ptpRestarts_onlyRegs (st : Nat) : OnlyRegs ptpRegs s (ptpForget ((ptpEnter s st).set F.PTP_CTRL_STEP_NOW 0)) :=
  ((ptpEnter_onlyRegs s st).set (by decide)).trans (ptpForget_onlyRegs _)

theorem ptpConfigure_onlyRegs : OnlyRegs ptpRegs s (ptpConfigure s) := by
  have hsame := OnlyRegs.refl ptpRegs s
  unfold ptpConfigure
  dsimp only
  refine hsame.ite (OnlyRegs.ite (hsame.ite (ptpRestarts_onlyRegs s _)) (OnlyRegs.ite ?_ (OnlyRegs.ite ?_ (OnlyRegs.ite ?_ ?_))))
  · exact hsame.ite ((ptpRestarts_onlyRegs s _).ite ((ptpRestarts_onlyRegs s _).ite (ptpForget_onlyRegs s)))
  · exact (ptpEnter_onlyRegs s _).trans (ptpSelect_onlyRegs _)
  · exact ptpEnter_onlyRegs s _
  · exact ptpSelect_onlyRegs s

/-- The thermal states at the start (R331). -/
def thermalsStart (s : State) : State := (List.range 16).foldl thermalStart s

/-- The processors run, and none is held. -/
def processorsRun (s : State) : State :=
  ((thermalsStart s).set F.SYS_BOOT_BSTATE bsStart).sysUp fun x => { x with procs := true, held := false }

/-- The swaps of logical cores without a physical one are due (R131). -/
def swapsDue (s : State) : State := { s with mb := { s.mb with swapDue := s.mb.swapDue.mapIdx fun q d => d || (physOf s q).isNone } }

theorem startProcessors_eq : startProcessors s = ptpConfigure (swapsDue (processorsRun s)) := by
  unfold startProcessors swapsDue processorsRun thermalsStart
  dsimp only

theorem thermalsStart_only : Only [.vent] s (thermalsStart s) := Only.foldl (hg := fun t c => thermalStart_only t c) (Only.refl _ s)

theorem swapsDue_sys : (swapsDue s).sys = s.sys := rfl
theorem swapsDue_get (f : Fld) : (swapsDue s).get f = s.get f := State.get_congr rfl f

theorem processorsRun_sys : (processorsRun s).sys = { s.sys with procs := true, held := false } := by
  rw [processorsRun, State.sysUp_sys, State.set_sys, thermalsStart_only s .sys (by decide)]

theorem startProcessors_sys : (startProcessors s).sys = { s.sys with procs := true, held := false } := by
  rw [startProcessors_eq, ptpConfigure_only _ .sys (by decide), swapsDue_sys, processorsRun_sys]

theorem processorsRun_onlyRegs : OnlyRegs [R.SYS_BOOT] s (processorsRun s) :=
  OnlyRegs.of_only (OnlyRegs.set (OnlyRegs.of_only (OnlyRegs.refl _ s) (thermalsStart_only s) (by decide)) (by simp)) (State.sysUp_only _ _)
    (by decide)

theorem startProcessors_get (f : Fld) (hboot : f.ptr ≠ R.SYS_BOOT := by decide) (hptp : f.ptr ∉ ptpRegs := by decide) :
    (startProcessors s).get f = s.get f := by
  rw [startProcessors_eq, (ptpConfigure_onlyRegs _).get f hptp, swapsDue_get]
  exact (processorsRun_onlyRegs s).get f (by simpa using hboot)

theorem bstate_startProcessors : bstate (startProcessors s) = bsStart := by
  rw [startProcessors_eq, bstate, (ptpConfigure_onlyRegs _).get F.SYS_BOOT_BSTATE, swapsDue_get, processorsRun, State.get_sysUp]
  exact State.get_set_lit _ (by decide) (by decide)

end

/-! ### A candidate is loaded, or abandoned (R536 to R542) -/

/-- What the registers show of the image that is held, which no longer waits. -/
def imageTaken (s : State) (c : Candidate) : State :=
  (((s.set F.STR_CFG_CLUSTER (beAt c.header 23 1)).set F.SCN_STAT_LIVE_ID (beAt c.header 24 2)).strUp fun x => { x with image := true }).sysUp
    fun x => { x with candidates := [] }

section
variable {s : State} {c : Candidate} {rest : List Candidate} {bytes : List Byte}

theorem beNat_lt (bs : List Byte) : beNat bs < 256 ^ bs.length := by
  unfold beNat
  induction bs using List.reverseRecOn with
  | nil => decide
  | append_singleton bs x ih =>
    have hx := x.isLt
    rw [List.foldl_append, List.length_append, List.length_singleton, pow_succ, List.foldl_cons, List.foldl_nil]
    omega

theorem length_bytesAt (bs : List Byte) (o n : Nat) : (bytesAt bs o n).length = n := by
  unfold bytesAt
  dsimp only
  rw [List.length_append, List.length_replicate, List.length_take]
  omega

theorem beAt_lt (bs : List Byte) (o n : Nat) : beAt bs o n < 256 ^ n := by
  have h := beNat_lt (bytesAt bs o n)
  rwa [length_bytesAt] at h

theorem imageTaken_shows (s : State) (c : Candidate) :
    (imageTaken s c).get F.STR_CFG_CLUSTER = beAt c.header 23 1 ∧ (imageTaken s c).get F.SCN_STAT_LIVE_ID = beAt c.header 24 2 := by
  unfold imageTaken
  rw [State.get_sysUp, State.get_strUp, State.get_sysUp, State.get_strUp, State.get_set_disjoint _ _ (by decide)]
  exact ⟨State.get_set_lit _ (by decide) (beAt_lt _ _ _), State.get_set_lit _ (by decide) (beAt_lt _ _ _)⟩

theorem imageHeld_eq (s : State) (c : Candidate) : imageHeld s c =
    if bootSel (imageTaken s c) = 3 then ((imageTaken s c).set F.SYS_BOOT_BSTATE bsDbgwait).sysUp fun x => { x with held := true }
    else startProcessors (imageTaken s c) := rfl

/-- The held image shows its cluster and scene; the processors start, or wait for the debugger (R541, R561). -/
theorem imageHeld_shows (s : State) (c : Candidate) :
    (imageHeld s c).sys.candidates = [] ∧ (imageHeld s c).get F.STR_CFG_CLUSTER = beAt c.header 23 1 ∧
      (imageHeld s c).get F.SCN_STAT_LIVE_ID = beAt c.header 24 2 ∧
      ((bstate (imageHeld s c) = bsStart ∧ (imageHeld s c).sys.procs = true) ∨
        (bstate (imageHeld s c) = bsDbgwait ∧ (imageHeld s c).sys.held = true)) := by
  obtain ⟨hcluster, hscene⟩ := imageTaken_shows s c
  rw [imageHeld_eq]
  split
  · refine ⟨rfl, ?_, ?_, .inr ⟨?_, rfl⟩⟩
    · rwa [State.get_sysUp, State.get_set_disjoint _ _ (by decide)]
    · rwa [State.get_sysUp, State.get_set_disjoint _ _ (by decide)]
    · rw [bstate, State.get_sysUp]
      exact State.get_set_lit _ (by decide) (by decide)
  · refine ⟨?_, ?_, ?_, .inl ⟨bstate_startProcessors _, ?_⟩⟩
    · rw [startProcessors_sys]
      rfl
    · rwa [startProcessors_get _ F.STR_CFG_CLUSTER]
    · rwa [startProcessors_get _ F.SCN_STAT_LIVE_ID]
    · rw [startProcessors_sys]

theorem candidateLoadEnd_holds (hres : s.sys.inReset = false) (hload : bstate s = bsLoad) (hc : s.sys.candidates = c :: rest)
    (hcode : loadCode c bytes = 0) : candidateLoadEnd s bytes =
      imageHeld (applyStaged c bytes (showImage ((byOffset c.sections).foldl (loadSection bytes) s) c)) c := by
  unfold candidateLoadEnd
  rw [if_neg (by rw [hres, hload]; decide), hc]
  exact if_neg (not_not.mpr hcode)

theorem candidateLoadEnd_fails (hres : s.sys.inReset = false) (hload : bstate s = bsLoad) (hc : s.sys.candidates = c :: rest)
    (hcode : loadCode c bytes ≠ 0) : candidateLoadEnd s bytes = abandonCandidate s c rest (loadCode c bytes) := by
  unfold candidateLoadEnd
  rw [if_neg (by rw [hres, hload]; decide), hc]
  exact if_pos hcode

theorem loadCode_lt (c : Candidate) (bytes : List Byte) : loadCode c bytes < 256 :=
  ite_lt_of (by decide) (ite_lt_of (by decide) (by decide))

/-- The field of IMG_STAT that shows why a slot failed. -/
def slotField (slotB : Bool) : Fld := if slotB then F.IMG_STAT_RSN_B else F.IMG_STAT_RSN_A

/-- A candidate is given up, with its code shown. -/
def candidateDropped (s : State) (c : Candidate) (rest : List Candidate) (code : Nat) : State :=
  ((s.set (slotField c.slotB) code).raise G.IMG_SLOT_FALLBACK).sysUp fun x => { x with candidates := rest }

theorem abandonCandidate_eq (s : State) (c : Candidate) (rest : List Candidate) (code : Nat) : abandonCandidate s c rest code =
    if rest.isEmpty then becomeReady (candidateDropped s c rest code) bsRecovery else candidateDropped s c rest code := rfl

theorem slotField_ptr (slotB : Bool) : (slotField slotB).ptr = R.IMG_STAT := by cases slotB <;> rfl

theorem slotField_shows (s : State) (slotB : Bool) {code : Nat} (h : code < 256) : (s.set (slotField slotB) code).get (slotField slotB) = code := by
  cases slotB
  · exact State.get_set_lit (f := F.IMG_STAT_RSN_A) _ (by decide) h
  · exact State.get_set_lit (f := F.IMG_STAT_RSN_B) _ (by decide) h

theorem candidateDropped_changes (s : State) (c : Candidate) (rest : List Candidate) (code : Nat) :
    Changes [.regs, .free, .sys] [R.IMG_STAT, R.SYS_BOOT, G.IMG_SLOT_FALLBACK.ptr, G.IMG_SLOT_FALLBACK.cptr] s (candidateDropped s c rest code) :=
  (((Changes.refl _ _ s).set (slotField c.slotB) code (by decide) (by rw [slotField_ptr]; simp)).raise _).part (State.sysUp_only _ _)

/-- A dropped candidate is counted with its code, and those after it still wait (R538, R539). -/
theorem candidateDropped_shows (s : State) (c : Candidate) (rest : List Candidate) {code : Nat} (h : code < 256) :
    counted G.IMG_SLOT_FALLBACK s (candidateDropped s c rest code) ∧ (candidateDropped s c rest code).get (slotField c.slotB) = code ∧
      (candidateDropped s c rest code).sys = { s.sys with candidates := rest } ∧ bstate (candidateDropped s c rest code) = bstate s := by
  have hset : OnlyRegs [R.IMG_STAT] s (s.set (slotField c.slotB) code) := (OnlyRegs.refl _ s).set (by rw [slotField_ptr]; simp)
  have hflag : G.IMG_SLOT_FALLBACK.flagField.disjoint (slotField c.slotB) ∧ G.IMG_SLOT_FALLBACK.countField.disjoint (slotField c.slotB) := by
    cases c.slotB <;> decide
  refine ⟨(counted_raise_of (hset.get G.IMG_SLOT_FALLBACK.countField)).of_regs (State.sysUp_regs _ _), ?_, ?_, ?_⟩
  · rw [candidateDropped, State.get_sysUp, State.get_raise_disjoint _ hflag.1 hflag.2]
    exact slotField_shows s _ h
  · rw [candidateDropped, State.sysUp_sys, State.raise_sys, State.set_sys]
  · rw [bstate, candidateDropped, State.get_sysUp, State.get_raise_disjoint _ (by decide) (by decide)]
    exact hset.get F.SYS_BOOT_BSTATE

/-- With no other candidate the device recovers. -/
theorem abandonCandidate_shows (s : State) (c : Candidate) (rest : List Candidate) {code : Nat} (h : code < 256) :
    counted G.IMG_SLOT_FALLBACK s (abandonCandidate s c rest code) ∧ (abandonCandidate s c rest code).get (slotField c.slotB) = code ∧
      bstate (abandonCandidate s c rest code) = (if rest = [] then bsRecovery else bstate s) ∧
      (abandonCandidate s c rest code).sys = { s.sys with candidates := rest } ∧
      Changes [.regs, .free, .sys] [R.IMG_STAT, R.SYS_BOOT, G.IMG_SLOT_FALLBACK.ptr, G.IMG_SLOT_FALLBACK.cptr] s
        (abandonCandidate s c rest code) := by
  obtain ⟨hcount, hcode, hsys, hboot⟩ := candidateDropped_shows s c rest h
  have hdropped := candidateDropped_changes s c rest code
  rw [abandonCandidate_eq]
  cases rest with
  | nil =>
    rw [List.isEmpty_nil, if_pos rfl, if_pos rfl]
    have hready := becomeReady_changes (candidateDropped s c [] code) bsRecovery
    refine ⟨hcount.onlyRegs hready.2, ?_, bstate_becomeReady _ (by decide), ?_, hdropped.trans hready.mono⟩
    · rw [hready.2.get _ (by rw [slotField_ptr]; decide), hcode]
    · rw [hready.1 .sys (by decide), hsys]
  | cons x xs =>
    rw [List.isEmpty_cons, if_neg Bool.false_ne_true, if_neg (List.cons_ne_nil x xs)]
    exact ⟨hcount, hcode, hboot, hsys, hdropped⟩

end

/-! ### Readiness (R558, R563) -/

section
variable {s : State}

/-- The limits are locked, where they were not, and the timeout has passed. -/
def limitsTimedOut (s : State) : State := (if s.on F.TS_CTRL_LOCK then s else limitsLock s).sysUp fun x => { x with fwTmo := true }

theorem fwTimeout_passes (hprocs : s.sys.procs = true) (hstart : bstate s = bsStart) (htmo : s.sys.fwTmo = false) :
    fwTimeout s = (limitsTimedOut s).raise G.SYS_FW_TMO :=
  if_pos (by rw [hprocs, hstart, htmo]; decide)

theorem fwTimeout_idle (h : s.sys.procs = false ∨ bstate s ≠ bsStart ∨ s.sys.fwTmo = true) : fwTimeout s = s := by
  refine if_neg ?_
  simp only [Bool.and_eq_true, decide_eq_true_eq, Bool.not_eq_true', not_and, Bool.not_eq_false]
  rintro ⟨hprocs, hstart⟩
  obtain hoff | hother | htmo := h
  · simp [hprocs] at hoff
  · exact absurd hstart hother
  · exact htmo

theorem on_get_one {f : Fld} (hf : f.hi = f.lo) (h : s.on f = true) : s.get f = 1 := by
  have hlt := State.get_lt (s := s) f
  rw [hf, Nat.add_sub_cancel_left, pow_one] at hlt
  have hne : s.get f ≠ 0 := by simpa [State.on] using h
  omega

theorem limitsTimedOut_shows (s : State) : (limitsTimedOut s).get F.TS_CTRL_LOCK = 1 ∧ (limitsTimedOut s).sys = { s.sys with fwTmo := true } ∧
    Changes [.regs, .sys] [R.TS_CTRL, R.TS_STAT] s (limitsTimedOut s) := by
  have hlock : Changes [.regs, .sys] [R.TS_CTRL, R.TS_STAT] s (limitsLock s) :=
    ((Changes.refl _ _ s).set _ _).set _ _
  refine ⟨?_, ?_, ((Changes.refl _ _ s).ite hlock).part (State.sysUp_only _ _)⟩
  · rw [limitsTimedOut, State.get_sysUp]
    split
    next hon => exact on_get_one rfl hon
    · rw [limitsLock, State.get_set_disjoint _ _ (by decide)]
      exact State.get_set_lit _ (by decide) (by decide)
  · rw [limitsTimedOut, State.sysUp_sys]
    split
    · rfl
    · rw [limitsLock_only s .sys (by decide)]

end

end Sys2Proof.Machine

open Sys2Proof Sys2Proof.Machine in
/-- Settles O51: the wipe's end, the scan's outcome for each slot, a candidate that fails or holds, and the timeout of the firmware. -/
theorem bootSequence : Obligations.BootSequence := by
  unfold Obligations.BootSequence
  refine fun s hres => ⟨fun us hwipe hus => ?_, fun us b w k hwipe hlt hb _ hrow hk hlc => ?_, fun us p hwipe hp => ?_,
    fun id sectors a b hscan => ⟨fun hsel => ?_, fun hsel hid => ?_, fun hsel => ?_, fun hempty => ?_⟩,
    fun bytes c rest hload hc => ⟨fun hcode => ?_, fun hcode => ?_⟩, fun hprocs hstart htmo => ?_, fun hidle => ?_, fun c hreach => ?_⟩
  · have hleaves := wipeLeaves_changes s (wipeTimed s us)
    refine awake_ends hres (wipeComplete_clean hres hwipe) ⟨?_, bstate_wipeLeaves _ _, ((Changes.refl _ _ s).set _ _).trans hleaves.mono⟩
      fun _ ⟨htime, hboot, hchanges⟩ => ⟨htime, hboot, hchanges.queued⟩
    rw [hleaves.2.get F.MEM_WIPE_US]
    exact State.get_set_lit _ (by decide) hus
  · have hmem : (wipeMissed s us).mem = s.mem := wipeMissed_changes.1 .mem (by decide)
    have hrow' := (rowReplaced_congr hmem b (w / 16)).trans hrow
    have hk' := (freeSpare_congr hmem b).trans hk
    obtain ⟨hrepair, hspares⟩ := repairAtWipe_shows hrow' hk' (by rwa [hmem])
    have hleaves : wipeLeaves s (repairAtWipe (wipeMissed s us) b (w / 16)) =
        (repairAtWipe (wipeMissed s us) b (w / 16)).set F.SYS_BOOT_BSTATE bsScan := if_neg hlc
    have hverify : counted G.MEM_VERIFY s (repairAtWipe (wipeMissed s us) b (w / 16)) :=
      counted_congr wipeMissed_counts rfl (repairAtWipe_get hrow' hk' (by decide) (by decide) (by decide) (by decide))
        (repairAtWipe_get hrow' hk' (by decide) (by decide) (by decide) (by decide))
    refine awake_ends hres ((wipeComplete_row hres hwipe hlt).trans hleaves) ⟨hverify.set _ _,
      (counted_congr hrepair (wipeMissed_get (by decide) (by decide) (by decide)) rfl rfl).set _ _, ?_, ?_⟩
      fun _ ⟨hverify, hrepair, hspares, honly⟩ => ⟨hverify, hrepair, hspares, honly.queued⟩
    · rw [State.bankSt, State.set_mem]
      refine hspares.trans ?_
      rw [State.bankSt, hmem]
      rfl
    · exact ((wipeMissed_changes.1.mono (by decide)).trans (repairAtWipe_only _ _ _)).trans ((State.set_only _ _ _).mono (by decide))
  · have hleaves := wipeLeaves_changes s (arrayFails (wipeMissed s us) (64 + p))
    refine awake_ends hres (wipeComplete_array hres hwipe (by omega) (by omega)) ⟨?_, ?_⟩ fun _ h => h
    · rw [hleaves.2.get F.MB_CORE_RETIRED]
      exact arrayFails_retires _ hp
    · exact (wipeMissed_counts.onlyRegs (arrayFails_onlyRegs _ hp)).onlyRegs hleaves.2
  · have hscanned := (scanComplete_eq (id := id.toNat) (sectors := sectors) (a := a) (b := b) hres hscan).trans
      (if_pos (bootSel_scanned.trans hsel))
    refine awake_ends hres hscanned ⟨bstate_becomeReady _ (by decide), ?_⟩ fun _ h => h
    rw [(becomeReady_changes _ _).2.get F.QSPI_ID_ID]
    exact scanned_id id.isLt
  · have hscanned := (scanComplete_eq (id := id.toNat) (sectors := sectors) (a := a) (b := b) hres hscan).trans
      (if_neg (by rwa [bootSel_scanned]))
    obtain ⟨ha, hb⟩ := imagesTaken_codes (scanned s id.toNat sectors) id.toNat a b
    rw [hid, slotCode_badId] at ha hb
    refine awake_ends hres hscanned ⟨imagesTaken_recovers ?_ ?_, ha, hb⟩ fun _ h => h <;> rw [hid, slotCode_badId] <;> decide
  · have hscanned := (scanComplete_eq (id := id.toNat) (sectors := sectors) (a := a) (b := b) hres hscan).trans
      (if_neg (by rwa [bootSel_scanned]))
    obtain ⟨ha, hb⟩ := imagesTaken_codes (scanned s id.toNat sectors) id.toNat a b
    rw [slotCode_scanned] at ha hb
    refine awake_ends hres hscanned ⟨ha, hb, fun hholds => imagesTaken_loads ?_⟩ fun _ h => h
    rwa [slotCode_scanned, slotCode_scanned]
  · have hcount : counted G.BKG_LOG_EMPTY s (scanComplete s id.toNat sectors a b) := by
      rw [scanComplete_eq hres hscan]
      split
      · exact (scanned_counts_empty hempty).onlyRegs (becomeReady_changes _ _).2
      · exact imagesTaken_counted (scanned_counts_empty hempty)
    exact awake_ends hres rfl hcount fun _ h => h
  · obtain ⟨hcount, hshown, hboot, hsys, hchanges⟩ := abandonCandidate_shows s c rest (loadCode_lt c bytes)
    rw [hload] at hboot
    exact awake_ends hres (candidateLoadEnd_fails hres hload hc hcode) ⟨hcount, hshown, hboot, hsys, hchanges⟩
      fun _ ⟨hcount, hshown, hboot, hsys, hchanges⟩ => ⟨hcount, hshown, hboot, hsys, hchanges.queued⟩
  · exact awake_ends hres (candidateLoadEnd_holds hres hload hc hcode) (imageHeld_shows _ c) fun _ h => h
  · obtain ⟨hlock, hsys, hchanges⟩ := limitsTimedOut_shows s
    refine awake_ends hres (fwTimeout_passes hprocs hstart htmo) ⟨counted_raise_of (hchanges.2.get _), hsys, ?_, hchanges.mono.raise _⟩
      fun _ ⟨hcount, hsys, hlock, hchanges⟩ => ⟨hcount, hsys, hlock, hchanges.queued⟩
    rwa [State.get_raise_disjoint _ (by decide) (by decide)]
  · exact awake_idle (fwTimeout_idle hidle)
  · refine awake_ends (reached_awake hreach) (fieldAt_writes hreach rfl) ⟨?_, ((granted_changes s _).mono).part (State.sysUp_only _ _)⟩
      fun _ ⟨hsys, hchanges⟩ => ⟨hsys, hchanges.queued⟩
    rw [relStart, State.sysUp_sys, granted_sys]

end

section
/-! Errors in memory, scrubbing and spare rows (R503 to R517). -/

set_option Elab.async false

namespace Sys2Proof.Machine

/-! ### The check of a word (R506, R507) -/

/-- One bit in error is found and put right, whichever it is. -/
theorem checkWord_oneBit : ∀ i < 145, checkWord (BitVec.ofNat 145 (2 ^ i)) = (.ce1, BitVec.ofNat 145 (2 ^ i)) := by decide +kernel

theorem checkWord_poison : (checkWord poison).1 = .ue := by decide +kernel

theorem oneBit_ne_zero {i : Nat} (hi : i < 145) : BitVec.ofNat 145 (2 ^ i) ≠ 0 := fun h => by
  have hcheck := checkWord_oneBit i hi
  rw [h, checkWord_zero] at hcheck
  exact absurd (congrArg Prod.fst hcheck) (by decide)

/-! ### The words in error -/

section
variable {s t : State} {b w row : Nat}

theorem errAt_setErr (s : State) (k : Nat) (e : BitVec 145) (j : Nat) : errAt (setErr s k e) j = if j = k then e else errAt s j :=
  kvGet_kvPut _ _ _ _ _

theorem errAt_congr (h : t.mem.errs = s.mem.errs) (k : Nat) : errAt t k = errAt s k := by
  unfold errAt
  rw [h]

theorem errAt_sound (h : s.mem.errs = []) (k : Nat) : errAt s k = 0 := by
  unfold errAt
  rw [h]
  rfl

theorem errKey_inj {b c w v : Nat} (hw : w < 16384) (hv : v < 16384) (h : errKey b w = errKey c v) : b = c ∧ w = v := by
  unfold errKey at h
  omega

/-- A write-back puts a word right, and no longer waits (R509). -/
theorem writeBack_writes (hb : b < 48) (hwait : s.mem.back.contains (errKey b (physWord s b w)) = true) : writeBack s b w =
    setErr s (errKey b (physWord s b w)) (errAt s (errKey b (physWord s b w)) ^^^ (checkWord (errAt s (errKey b (physWord s b w)))).2) := by
  unfold writeBack
  dsimp only
  rw [if_pos hb]
  exact if_pos hwait

theorem writeBack_idle (hb : b < 48) (hwait : s.mem.back.contains (errKey b (physWord s b w)) = false) : writeBack s b w = s := by
  unfold writeBack
  dsimp only
  rw [if_pos hb]
  exact if_neg (by rw [hwait]; decide)

end

/-! ### What an error that is found leaves of the banks -/

/-- At most the waiting rows, the history and the count of bank b differ, and no word's errors. -/
structure MarksBank (b : Nat) (s t : State) : Prop where
  errs : t.mem.errs = s.mem.errs
  others : ∀ q, q ≠ b → t.bankSt q = s.bankSt q
  spares : (t.bankSt b).spares = (s.bankSt b).spares
  repair : (t.bankSt b).repair = (s.bankSt b).repair
  count : t.mem.banks.length = s.mem.banks.length

section
variable {s t u : State} {b w row : Nat}

theorem MarksBank.refl (b : Nat) (s : State) : MarksBank b s s := ⟨rfl, fun _ _ => rfl, rfl, rfl, rfl⟩

theorem MarksBank.trans (h : MarksBank b s t) (k : MarksBank b t u) : MarksBank b s u where
  errs := k.errs.trans h.errs
  others := fun q hq => (k.others q hq).trans (h.others q hq)
  spares := k.spares.trans h.spares
  repair := k.repair.trans h.repair
  count := k.count.trans h.count

theorem MarksBank.ite {c : Prop} [Decidable c] (h : MarksBank b s t) (k : MarksBank b s u) : MarksBank b s (if c then t else u) := by
  split <;> assumption

/-- The banks decide what is kept of them. -/
theorem MarksBank.of_mem (herrs : t.mem.errs = s.mem.errs) (hbanks : t.mem.banks = s.mem.banks) : MarksBank b s t := by
  have hst : ∀ q, t.bankSt q = s.bankSt q := fun q => by rw [State.bankSt, hbanks]; rfl
  exact ⟨herrs, fun q _ => hst q, by rw [hst], by rw [hst], by rw [hbanks]⟩

theorem MarksBank.of_only {l : List Part} (h : Only l s t) (hm : .mem ∉ l) : MarksBank b s t := by
  have hmem : t.mem = s.mem := h .mem hm
  exact MarksBank.of_mem (congrArg Mem.errs hmem) (congrArg Mem.banks hmem)

theorem MarksBank.memUp (s : State) (b : Nat) {f : Mem → Mem} (herrs : ∀ m, (f m).errs = m.errs) (hbanks : ∀ m, (f m).banks = m.banks) :
    MarksBank b s (s.memUp f) := MarksBank.of_mem (herrs _) (hbanks _)

theorem State.bankUp_other (s : State) {b q : Nat} (f : BankSt → BankSt) (hq : q ≠ b) : (s.bankUp b f).bankSt q = s.bankSt q := by
  simp [State.bankUp, State.bankSt, State.memUp, Ne.symm hq]

theorem State.bankUp_length (s : State) (b : Nat) (f : BankSt → BankSt) : (s.bankUp b f).mem.banks.length = s.mem.banks.length :=
  List.length_modify _ _ _

/-- A bank that is not there stays as it is. -/
theorem State.bankUp_absent (s : State) (f : BankSt → BankSt) (hb : s.mem.banks.length ≤ b) : (s.bankUp b f).bankSt b = s.bankSt b := by
  simp [State.bankUp, State.bankSt, State.memUp, hb]

theorem MarksBank.bankUp (s : State) (b : Nat) {f : BankSt → BankSt} (hspares : ∀ x, (f x).spares = x.spares)
    (hrepair : ∀ x, (f x).repair = x.repair) : MarksBank b s (s.bankUp b f) := by
  refine ⟨rfl, fun q hq => State.bankUp_other s f hq, ?_, ?_, State.bankUp_length s b f⟩ <;>
    by_cases hb : b < s.mem.banks.length
  · rw [State.bankUp_bankSt s f hb, hspares]
  · rw [State.bankUp_absent s f (Nat.le_of_not_lt hb)]
  · rw [State.bankUp_bankSt s f hb, hrepair]
  · rw [State.bankUp_absent s f (Nat.le_of_not_lt hb)]

/-- At most bank b differs, and no word's errors. -/
structure OnlyBank (b : Nat) (s t : State) : Prop where
  errs : t.mem.errs = s.mem.errs
  others : ∀ q, q ≠ b → t.bankSt q = s.bankSt q
  count : t.mem.banks.length = s.mem.banks.length

theorem OnlyBank.refl (b : Nat) (s : State) : OnlyBank b s s := ⟨rfl, fun _ _ => rfl, rfl⟩

theorem OnlyBank.bankUp (s : State) (b : Nat) (f : BankSt → BankSt) : OnlyBank b s (s.bankUp b f) :=
  ⟨rfl, fun _ hq => State.bankUp_other s f hq, State.bankUp_length s b f⟩

theorem OnlyBank.raise (h : OnlyBank b s t) (g : Flag) : OnlyBank b s (t.raise g) := ⟨h.errs, h.others, h.count⟩

theorem addCandidate_marks (s : State) (b row reason : Nat) : MarksBank b s (addCandidate s b row reason) := by
  unfold addCandidate
  exact MarksBank.bankUp s b (fun x => (apply_ite BankSt.spares _ x _).trans (ite_self _)) fun x => (apply_ite BankSt.repair _ x _).trans (ite_self _)

theorem historyStep_marks (s : State) (b w : Nat) : MarksBank b s (historyStep s b w).1 := by
  unfold historyStep
  exact MarksBank.bankUp s b (fun _ => rfl) fun _ => rfl

theorem noteError_marks (s : State) (src b w : Nat) : MarksBank b s (noteError s src b w).1 := by
  have hlog : ∀ (g : Flag) (k : Check), MarksBank b s (memLog (s.raise g) k src b w (errAt s (errKey b w))) := fun g k =>
    (MarksBank.of_only (State.raise_only s g) (by decide)).trans (MarksBank.of_only (memLog_only _ _ _ _ _ _) (by decide))
  have hcount : ∀ (t : State) (k : Check), MarksBank b s t →
      MarksBank b s (if b < 48 then (t.bankUp b fun x => { x with ce := (x.ce + 1) % 65536 }, k)
        else (t.memUp fun m => { m with small := m.small.modify (b - 64) fun n => (n + 1) % 65536 }, k)).1 := fun t k h => by
    split
    · exact h.trans (MarksBank.bankUp t b (fun _ => rfl) fun _ => rfl)
    · exact h.trans (MarksBank.memUp t b (f := fun m => { m with small := m.small.modify (b - 64) fun n => (n + 1) % 65536 }) (fun _ => rfl)
        fun _ => rfl)
  unfold noteError
  dsimp only
  generalize checkWord (errAt s (errKey b w)) = c
  obtain ⟨k, fix⟩ := c
  cases k with
  | good => exact MarksBank.refl b s
  | ue => exact hlog _ _
  | ce1 => exact hcount _ _ ((hlog _ _).trans (MarksBank.memUp _ _ (fun _ => rfl) fun _ => rfl))
  | ce2 => exact hcount _ _ ((hlog _ _).trans (MarksBank.memUp _ _ (fun _ => rfl) fun _ => rfl))

theorem foundError_marks (s : State) (src b w : Nat) : MarksBank b s (foundError s src b w).1 := by
  have hnote := noteError_marks s src b w
  have hcand : ∀ (t : State) (c : Prop) [Decidable c] (row reason : Nat), MarksBank b s t →
      MarksBank b s (if c then addCandidate t b row reason else t) := fun t c _ row reason h =>
    (h.trans (addCandidate_marks t b row reason)).ite h
  have hhist : MarksBank b s (historyStep (noteError s src b w).1 b w).1 := hnote.trans (historyStep_marks _ b w)
  unfold foundError
  dsimp only
  split
  · exact hnote
  · split
    · exact hnote
    · exact hcand _ _ _ _ hnote
    · exact hcand _ _ _ _ hhist
    · exact hcand _ _ _ _ hhist

theorem addCandidate_back (s : State) (b row reason : Nat) : (addCandidate s b row reason).mem.back = s.mem.back := rfl
theorem historyStep_back (s : State) (b w : Nat) : (historyStep s b w).1.mem.back = s.mem.back := rfl

/-- The judgement of a bank for repair writes no register and cancels no write-back. -/
theorem foundError_keeps (s : State) (src b w : Nat) : (foundError s src b w).1.regs = (noteError s src b w).1.regs ∧
    (foundError s src b w).1.mem.back = (noteError s src b w).1.mem.back := by
  have hcand : ∀ (t : State) (c : Prop) [Decidable c] (row reason : Nat),
      t.regs = (noteError s src b w).1.regs ∧ t.mem.back = (noteError s src b w).1.mem.back →
      (if c then addCandidate t b row reason else t).regs = (noteError s src b w).1.regs ∧
        (if c then addCandidate t b row reason else t).mem.back = (noteError s src b w).1.mem.back := fun t c _ row reason h => by
    split
    · rwa [addCandidate_only t b row reason .regs (by decide), addCandidate_back]
    · exact h
  have hhist : (historyStep (noteError s src b w).1 b w).1.regs = (noteError s src b w).1.regs :=
    historyStep_only _ b w .regs (by decide)
  have hboth := And.intro hhist (historyStep_back (noteError s src b w).1 b w)
  unfold foundError
  dsimp only
  split
  · exact ⟨rfl, rfl⟩
  · split
    · exact ⟨rfl, rfl⟩
    · exact hcand _ _ _ _ ⟨rfl, rfl⟩
    · exact hcand _ _ _ _ hboth
    · exact hcand _ _ _ _ hboth

/-- A correction is counted and logged. -/
def correctionLogged (s : State) (src b w : Nat) : State := memLog (s.raise G.MEM_CE) .ce1 src b w (errAt s (errKey b w))

/-- A word waits for its write-back. -/
def backWaits (s : State) (k : Nat) : State := s.memUp fun m => { m with back := if m.back.contains k then m.back else m.back ++ [k] }

theorem backWaits_contains (s : State) (k : Nat) : (backWaits s k).mem.back.contains k = true := by
  show (if s.mem.back.contains k then s.mem.back else s.mem.back ++ [k]).contains k = true
  split
  · assumption
  · simp

theorem noteError_corrects {fix : BitVec 145} {src : Nat} (hb : b < 48) (hcheck : checkWord (errAt s (errKey b w)) = (.ce1, fix))
    (hfix : fix ≠ 0) : (noteError s src b w).1 =
      (backWaits (correctionLogged s src b w) (errKey b w)).bankUp b fun x => { x with ce := (x.ce + 1) % 65536 } := by
  unfold noteError
  dsimp only
  rw [hcheck]
  dsimp only
  rw [if_pos hb]
  simp only [hfix, decide_false, Bool.false_or]
  rfl

/-- A bit in error that a bank corrects is counted, logged and marked for the write-back (R508, R509). -/
theorem foundError_corrects {fix : BitVec 145} {src : Nat} (hb : b < 48) (hsrc : src < 4)
    (hcheck : checkWord (errAt s (errKey b w)) = (.ce1, fix)) (hfix : fix ≠ 0) :
    counted G.MEM_CE s (foundError s src b w).1 ∧ (foundError s src b w).1.mem.back.contains (errKey b w) = true ∧
      (foundError s src b w).1.get F.MEM_ELOG0_SRC = src ∧ (foundError s src b w).1.get F.MEM_ELOG0_BANK = b ∧
      (foundError s src b w).1.get F.MEM_ELOG0_KIND = 0 := by
  obtain ⟨hregs, hback⟩ := foundError_keeps s src b w
  rw [noteError_corrects hb hcheck hfix] at hregs hback
  have hlogged : (foundError s src b w).1.regs = (correctionLogged s src b w).regs := by
    rw [hregs, State.bankUp_only _ _ _ .regs (by decide), backWaits, State.memUp_regs]
  have hget (f : Fld) : (foundError s src b w).1.get f = (correctionLogged s src b w).get f := State.get_congr hlogged f
  have hlog := memLog_changes (s.raise G.MEM_CE) .ce1 src b w (errAt s (errKey b w))
  have hraised : counted G.MEM_CE s (s.raise G.MEM_CE) := counted_raise_of rfl
  have hcount : counted G.MEM_CE s (correctionLogged s src b w) := by
    rw [correctionLogged]
    exact hraised.onlyRegs hlog.2
  refine ⟨hcount.of_regs hlogged, ?_, ?_, ?_, ?_⟩
  · rw [hback]
    exact backWaits_contains _ _
  · exact (hget _).trans (memLog_src _ _ _ _ _ hsrc)
  · exact (hget _).trans (memLog_bank _ _ _ _ _ (by omega))
  · rw [hget, correctionLogged, memLog_get _ _ _ _ _ _ (by decide), State.get_set_disjoint _ _ (by decide),
      State.get_set_disjoint _ _ (by decide), State.get_set_lit _ (by decide) (by decide)]
    rfl

end

/-! ### Folds over the indices below a number -/

section
variable {σ : Type} {P Q : σ → Prop} {f : σ → Nat → σ} {n b : Nat} {t : σ}

theorem foldl_range_keeps (hP : ∀ t q, q < n → P t → P (f t q)) (h : P t) : P ((List.range n).foldl f t) :=
  List.foldlRecOn (motive := P) _ f h fun _ ht q hq => hP _ q (List.mem_range.mp hq) ht

/-- What holds before the step at b becomes, by that step, what holds after it. -/
theorem foldl_range_passes (hb : b < n) (hP : ∀ t q, q < n → q ≠ b → P t → P (f t q)) (hat : ∀ t, P t → Q (f t b))
    (hQ : ∀ t q, q < n → q ≠ b → Q t → Q (f t q)) (h : P t) : Q ((List.range n).foldl f t) := by
  induction n with
  | zero => omega
  | succ n ih =>
    rw [List.range_succ, List.foldl_append, List.foldl_cons, List.foldl_nil]
    by_cases hn : b = n
    · subst hn
      exact hat _ (foldl_range_keeps (fun t q hq => hP t q (by omega) (by omega)) h)
    · exact hQ _ n (by omega) (Ne.symm hn) (ih (by omega) (fun t q hq => hP t q (by omega)) fun t q hq => hQ t q (by omega))

/-- A fold that acts at b alone acts there once. -/
theorem foldl_range_at {u : σ} (hb : b < n) (hbefore : ∀ q < n, q ≠ b → f t q = t) (hat : f t b = u) (hafter : ∀ q < n, q ≠ b → f u q = u) :
    (List.range n).foldl f t = u :=
  foldl_range_passes (P := (· = t)) (Q := (· = u)) hb (fun _ q hq hne ht => by rw [ht, hbefore q hq hne]) (fun _ ht => by rw [ht, hat])
    (fun _ q hq hne ht => by rw [ht, hafter q hq hne]) rfl

theorem foldl_range_idle (h : ∀ q < n, f t q = t) : (List.range n).foldl f t = t :=
  foldl_range_keeps (P := (· = t)) (fun _ q hq ht => by rw [ht, h q hq]) rfl

end

/-! ### A row that a bank scrubs (R513, R514) -/

/-- No word of the row is in error. -/
def rowClean (s : State) (b row : Nat) : Prop := ∀ i < 16, errAt s (errKey b (row * 16 + i)) = 0

/-- One word of a row is read. -/
def wordScrubbed (b row : Nat) (t : State) (i : Nat) : State :=
  if errAt t (errKey b (row * 16 + i)) = 0 then t else (foundError t srcScrub b (row * 16 + i)).1

/-- One word of a spare row that is not in use is read. -/
def wordNoted (b row : Nat) (t : State) (i : Nat) : State :=
  if errAt t (errKey b (row * 16 + i)) = 0 then t else (noteError t srcScrub b (row * 16 + i)).1

section
variable {s t : State} {b row : Nat}

theorem scrubRowOf_clean (h : rowClean s b row) : scrubRowOf s b row = s := by
  have hidle (g : State → Nat → State) :
      (List.range 16).foldl (fun t i => if errAt t (errKey b (row * 16 + i)) = 0 then t else g t i) s = s :=
    foldl_range_idle fun i hi => if_pos (h i hi)
  have hgood : ((List.range 16).any fun i => errAt s (errKey b (row * 16 + i)) != 0) = false := by
    simpa [rowClean] using h
  unfold scrubRowOf
  dsimp only
  rw [hidle, hidle, hgood]
  simp only [Bool.false_eq_true, if_false, ite_self]

theorem scrubRowOf_main (hrow : row < 512) (hfree : spareFor s b row = none) :
    scrubRowOf s b row = (List.range 16).foldl (wordScrubbed b row) s := by
  have hreplaced : rowReplaced s b row = false := by rw [rowReplaced, hfree]; simp
  unfold scrubRowOf
  rw [hreplaced, if_neg Bool.false_ne_true, decide_eq_false (Nat.not_le.mpr hrow)]
  rfl

theorem scrubRowOf_spare (hrow : 512 ≤ row) (hfree : (s.bankSt b).spares.getD (row - 512) (none, false) = (none, false))
    (hrepair : (s.bankSt b).repair = none) (hbad : ¬ rowClean s b row) : scrubRowOf s b row =
      ((List.range 16).foldl (wordNoted b row) s).bankUp b fun x => { x with spares := x.spares.set (row - 512) (none, true) } := by
  have hreplaced : rowReplaced s b row = false := by rw [rowReplaced, decide_eq_false (Nat.not_lt.mpr hrow), Bool.false_and]
  have hany : ((List.range 16).any fun i => errAt s (errKey b (row * 16 + i)) != 0) = true := by
    unfold rowClean at hbad
    push Not at hbad
    simpa using hbad
  unfold scrubRowOf
  rw [hreplaced, if_neg Bool.false_ne_true, decide_eq_true hrow, hfree, hrepair]
  dsimp only
  rw [hany]
  rfl

theorem wordScrubbed_marks (t : State) (i : Nat) : MarksBank b t (wordScrubbed b row t i) :=
  (MarksBank.refl b t).ite (foundError_marks t srcScrub b _)

theorem wordNoted_marks (t : State) (i : Nat) : MarksBank b t (wordNoted b row t i) :=
  (MarksBank.refl b t).ite (noteError_marks t srcScrub b _)

theorem MarksBank.foldl_range {n : Nat} {f : State → Nat → State} (hf : ∀ t i, MarksBank b t (f t i)) (s : State) :
    MarksBank b s ((List.range n).foldl f s) :=
  foldl_range_keeps (P := MarksBank b s) (fun t i _ h => h.trans (hf t i)) (MarksBank.refl b s)

end

/-! ### A scrub step (R513, R515) -/

/-- A pass over the rows starts with row 0. -/
def passStarts (s : State) : State := if s.mem.scrubRow = 0 then s.memUp fun m => { m with passStart := s.time.block } else s

/-- What one bank does in a scrub step: a repair goes on, a candidate starts one, else the row is read. -/
def scrubBank (row : Nat) (t : State) (b : Nat) : State :=
  if (t.bankSt b).repair.isSome then t
  else if (t.bankSt b).cand.isEmpty then scrubRowOf t b row
  else startRepair t b

/-- The banks have scrubbed. -/
def scrubbed (s : State) (l : List (Nat × Nat × BitVec 145)) : State :=
  (List.range 48).foldl (scrubBank (struckWords s l).mem.scrubRow) (passStarts (struckWords s l))

/-- The next row is due, and one step fewer. -/
def scrubMoves (row : Nat) (t : State) : State :=
  (t.memUp fun m => { m with scrubRow := (row + 1) % 520 }).bkgUp fun b => { b with scrubDue := b.scrubDue - 1 }

/-- A pass ends with the last row, and its time is shown. -/
def passEnds (row : Nat) (t : State) : State :=
  if row = 519 then
    (t.set F.BKG_SCRUB_SEQ (nextSeq1 (t.get F.BKG_SCRUB_SEQ))).set F.BKG_SCRUB_PASS_BLK (min (t.time.block + 64 - t.mem.passStart) 65535)
  else t

section
variable {s t : State} {l : List (Nat × Nat × BitVec 145)} {row b w : Nat}

theorem scrubStep_eq (hen : s.on F.BKG_CFG_SCRUB_EN = true) : scrubStep s l =
    passEnds (struckWords s l).mem.scrubRow (scrubMoves (struckWords s l).mem.scrubRow (scrubSmall (scrubbed s l))) := by
  have hon : (struckWords s l).on F.BKG_CFG_SCRUB_EN = true := by
    rw [State.on, State.get_congr (struckWords_only s l .regs (by decide))]
    exact hen
  unfold scrubStep
  dsimp only
  rw [hon, Bool.not_true, if_neg Bool.false_ne_true]
  unfold passEnds scrubMoves scrubbed passStarts scrubBank
  dsimp only

theorem scrubSmall_none (h : ∀ e ∈ s.mem.errs, e.1 < 64 * 16384) : scrubSmall s = s := by
  have hnone : s.mem.errs.filter (fun e => decide (64 * 16384 ≤ e.1)) = [] :=
    List.filter_eq_nil_iff.mpr fun e he => by simpa using h e he
  unfold scrubSmall
  rw [hnone]
  rfl

theorem struckWords_one (b w : Nat) {e : BitVec 145} (herrs : s.mem.errs = []) (he : e ≠ 0) :
    (struckWords s [(b, w, e)]).mem = { s.mem with errs := [(errKey b w, e)] } := by
  show ({ s.mem with errs := kvPut noError s.mem.errs (errKey b w) (errAt s (errKey b w) ^^^ e) } : Mem) = _
  have hxor : (0 : BitVec 145) ^^^ e = e := BitVec.zero_xor
  rw [errAt_sound herrs, herrs, hxor, kvPut, noError, if_neg he]
  rfl

theorem errAt_struck {k : Nat} {e : BitVec 145} (h : t.mem.errs = [(k, e)]) (j : Nat) : errAt t j = if j = k then e else 0 := by
  unfold errAt
  rw [h]
  simp [kvGet, noError, eq_comm]

theorem on_of_get_one {f : Fld} (h : s.get f = 1) : s.on f = true := by rw [State.on, h]; rfl

theorem passStarts_mem (s : State) : (passStarts s).mem =
    { s.mem with passStart := if s.mem.scrubRow = 0 then s.time.block else s.mem.passStart } := by
  unfold passStarts
  split <;> rfl

theorem passStarts_only (s : State) : Only [.mem] s (passStarts s) := (State.memUp_only _ _).ite (Only.refl _ s)

theorem passStarts_marks (b : Nat) (s : State) : MarksBank b s (passStarts s) :=
  MarksBank.of_mem (by rw [passStarts_mem]) (by rw [passStarts_mem])

theorem passStarts_bankSt (s : State) (b : Nat) : (passStarts s).bankSt b = s.bankSt b := by
  rw [State.bankSt, passStarts_mem]
  rfl

theorem scrubBank_only (row : Nat) (t : State) (b : Nat) : Only [.regs, .mem] t (scrubBank row t b) :=
  (Only.refl _ t).ite ((scrubRowOf_only t b row).ite (startRepair_only t b))

theorem scrubbed_only (s : State) (l : List (Nat × Nat × BitVec 145)) : Only [.regs, .mem] s (scrubbed s l) :=
  foldl_range_keeps (P := Only [.regs, .mem] s) (fun t b _ h => h.trans (scrubBank_only _ t b))
    ((struckWords_only s l).mono (by decide) |>.trans ((passStarts_only _).mono (by decide)))

theorem passEnds_changes (row : Nat) (t : State) : Changes [.regs] [F.BKG_SCRUB_SEQ.ptr] t (passEnds row t) :=
  (((Changes.refl _ _ t).set _ _).set _ _).ite (Changes.refl _ _ t)

theorem passEnds_seq (t : State) : (passEnds 519 t).get F.BKG_SCRUB_SEQ = nextSeq1 (t.get F.BKG_SCRUB_SEQ) := by
  rw [passEnds, if_pos rfl, State.get_set_disjoint _ _ (by decide)]
  exact State.get_set_lit _ (by decide) (nextSeq1_lt (State.get_lt (s := t) F.BKG_SCRUB_SEQ))

theorem scrubMoves_only (row : Nat) (t : State) : Only [.mem, .bkg] t (scrubMoves row t) :=
  ((State.memUp_only _ _).mono (by decide)).trans ((State.bkgUp_only _ _).mono (by decide))

theorem scrubMoves_shows (row : Nat) (t : State) : (scrubMoves row t).mem = { t.mem with scrubRow := (row + 1) % 520 } ∧
    (scrubMoves row t).bkg = { t.bkg with scrubDue := t.bkg.scrubDue - 1 } := ⟨rfl, rfl⟩

/-- The row in turn is no part of a bank. -/
theorem bankSt_of_scrubRow {u : State} {n : Nat} (h : t.mem = { u.mem with scrubRow := n }) (q : Nat) : t.bankSt q = u.bankSt q := by
  unfold State.bankSt
  rw [h]

theorem back_of_scrubRow {u : State} {n : Nat} (h : t.mem = { u.mem with scrubRow := n }) : t.mem.back = u.mem.back := by
  rw [h]

/-- What a scrub step leaves, from the state in which the banks have scrubbed. -/
theorem scrubStep_shows (hen : s.on F.BKG_CFG_SCRUB_EN = true) (hsmall : ∀ e ∈ (scrubbed s l).mem.errs, e.1 < 64 * 16384) :
    (scrubStep s l).mem = { (scrubbed s l).mem with scrubRow := ((struckWords s l).mem.scrubRow + 1) % 520 } ∧
      (scrubStep s l).bkg = { s.bkg with scrubDue := s.bkg.scrubDue - 1 } ∧
      OnlyRegs [F.BKG_SCRUB_SEQ.ptr] (scrubbed s l) (scrubStep s l) ∧
      ((struckWords s l).mem.scrubRow = 519 → (scrubStep s l).get F.BKG_SCRUB_SEQ = nextSeq1 ((scrubbed s l).get F.BKG_SCRUB_SEQ)) ∧
      Only [.regs, .mem, .bkg] s (scrubStep s l) := by
  rw [scrubStep_eq hen, scrubSmall_none hsmall]
  generalize (struckWords s l).mem.scrubRow = row
  have hbanks := scrubbed_only s l
  have hmoves := scrubMoves_only row (scrubbed s l)
  have hends := passEnds_changes row (scrubMoves row (scrubbed s l))
  obtain ⟨hmem, hbkg⟩ := scrubMoves_shows row (scrubbed s l)
  refine ⟨(hends.1 .mem (by decide)).trans hmem, ?_, (OnlyRegs.of_only (OnlyRegs.refl _ _) hmoves (by decide)).trans hends.2, fun hrow => ?_,
    ((hbanks.mono (by decide)).trans (hmoves.mono (by decide))).trans (hends.1.mono (by decide))⟩
  · rw [hends.1 .bkg (by decide), hbkg, hbanks .bkg (by decide)]
  · rw [hrow, passEnds_seq, State.get_congr (scrubMoves_only 519 (scrubbed s l) .regs (by decide))]

/-- A bank with nothing to repair reads a clean row. -/
theorem scrubBank_idle (hclean : rowClean t b row) (hcand : (t.bankSt b).cand = []) : scrubBank row t b = t := by
  unfold scrubBank
  split
  · rfl
  · rw [hcand, List.isEmpty_nil, if_pos rfl]
    exact scrubRowOf_clean hclean

theorem rowClean_sound (h : t.mem.errs = []) : rowClean t b row := fun _ _ => errAt_sound h _

/-- With no word in error and no candidate the banks read alone. -/
theorem scrubbed_sound (herrs : s.mem.errs = []) (hcand : ∀ q < 48, (s.bankSt q).cand = []) : scrubbed s [] = passStarts s :=
  foldl_range_idle fun q hq =>
    scrubBank_idle (rowClean_sound ((passStarts_marks q s).errs.trans herrs)) (by rw [passStarts_bankSt]; exact hcand q hq)

/-- A row of another bank than the struck one is clean. -/
theorem rowClean_other {e : BitVec 145} {q : Nat} (h : t.mem.errs = [(errKey b w, e)]) (hw : w < 16384) (hrow : row < 520) (hq : q ≠ b) :
    rowClean t q row := fun i hi => by
  rw [errAt_struck h]
  exact if_neg fun hkey => hq (errKey_inj (by omega) hw hkey).1

/-- A struck word of a row is found alone (R513). -/
theorem scrubRowOf_finds {e : BitVec 145} (h : t.mem.errs = [(errKey b w, e)]) (he : e ≠ 0) (hw : w < 8192) (hfree : spareFor t b (w / 16) = none) :
    scrubRowOf t b (w / 16) = (foundError t srcScrub b w).1 := by
  have hmod : w / 16 * 16 + w % 16 = w := by omega
  have hother : ∀ u : State, u.mem.errs = [(errKey b w, e)] → ∀ i < 16, i ≠ w % 16 → wordScrubbed b (w / 16) u i = u := fun u hu i hi hne =>
    if_pos (by
      rw [errAt_struck hu]
      exact if_neg fun hkey => hne (by have := (errKey_inj (by omega) (by omega) hkey).2; omega))
  rw [scrubRowOf_main (by omega) hfree]
  refine foldl_range_at (b := w % 16) (Nat.mod_lt _ (by decide)) (hother t h) ?_ (hother _ ((foundError_marks t srcScrub b w).errs.trans h))
  rw [wordScrubbed, hmod, errAt_struck h, if_pos rfl, if_neg he]

/-- A struck word of the row in turn is found by its bank (R513). -/
theorem scrubbed_finds {e : BitVec 145} (herrs : s.mem.errs = []) (hcand : ∀ q < 48, (s.bankSt q).cand = []) (hb : b < 48) (hw : w < 8192)
    (hrow : w / 16 = s.mem.scrubRow) (hrepair : (s.bankSt b).repair = none) (hfree : spareFor s b (w / 16) = none) (he : e ≠ 0)
    {u : State} (hu : u = passStarts (struckWords s [(b, w, e)])) : scrubbed s [(b, w, e)] = (foundError u srcScrub b w).1 ∧
      Only [.mem] s u ∧ u.mem.errs = [(errKey b w, e)] := by
  have hstruck := struckWords_one b w herrs he
  have hmem : u.mem.errs = [(errKey b w, e)] ∧ u.mem.banks = s.mem.banks := by
    rw [hu, passStarts_mem, hstruck]
    exact ⟨rfl, rfl⟩
  have hbank (q : Nat) : u.bankSt q = s.bankSt q := by
    unfold State.bankSt
    rw [hmem.2]
  have hfree' : spareFor u b (w / 16) = none := by
    rw [spareFor, hbank]
    exact hfree
  have hmarks := foundError_marks u srcScrub b w
  have hturn : (struckWords s [(b, w, e)]).mem.scrubRow = w / 16 := by rw [hstruck, hrow]
  refine ⟨?_, ?_, hmem.1⟩
  · rw [scrubbed, hturn, ← hu]
    refine foldl_range_at hb (fun q hq hne => ?_) ?_ fun q hq hne => ?_
    · exact scrubBank_idle (rowClean_other hmem.1 (by omega) (by omega) hne) (by rw [hbank]; exact hcand q hq)
    · rw [scrubBank, hbank, hrepair, hcand b hb]
      exact scrubRowOf_finds hmem.1 he hw hfree'
    · refine scrubBank_idle (rowClean_other (hmarks.errs.trans hmem.1) (by omega) (by omega) hne) ?_
      rw [hmarks.others q hne, hbank]
      exact hcand q hq
  · rw [hu]
    exact (struckWords_only s _).trans (passStarts_only _)

/-! ### A spare row in error (R514) -/

theorem startRepair_onlyBank (t : State) (q : Nat) : OnlyBank q t (startRepair t q) := by
  unfold startRepair
  split
  · exact OnlyBank.refl q t
  · split
    · exact OnlyBank.bankUp t q _
    · exact (OnlyBank.bankUp t q _).raise _

theorem scrubBank_onlyBank {q : Nat} (hclean : rowClean t q row) : OnlyBank q t (scrubBank row t q) := by
  unfold scrubBank
  split
  · exact OnlyBank.refl q t
  · split
    · rw [scrubRowOf_clean hclean]
      exact OnlyBank.refl q t
    · exact startRepair_onlyBank t q

/-- The one word in error, and a bank as a state has it. -/
structure StruckBank (b w : Nat) (e : BitVec 145) (x : BankSt) (n : Nat) (t : State) : Prop where
  errs : t.mem.errs = [(errKey b w, e)]
  bank : t.bankSt b = x
  count : t.mem.banks.length = n

theorem StruckBank.onlyBank {e : BitVec 145} {x : BankSt} {n q : Nat} {u : State} (h : StruckBank b w e x n t) (k : OnlyBank q t u) (hq : q ≠ b) :
    StruckBank b w e x n u := ⟨k.errs.trans h.errs, (k.others b (Ne.symm hq)).trans h.bank, k.count.trans h.count⟩

/-- A spare row not in use with a word in error is BAD. -/
theorem scrubBank_bad {k n : Nat} {e : BitVec 145} {x : BankSt} (h : StruckBank b w e x n t) (hb : b < n) (he : e ≠ 0) (hw : w / 16 = 512 + k)
    (hcand : x.cand = []) (hrepair : x.repair = none) (hfree : x.spares.getD k (none, false) = (none, false)) :
    ∃ y, StruckBank b w e y n (scrubBank (512 + k) t b) ∧ y.spares = x.spares.set k (none, true) := by
  have hmod : (512 + k) * 16 + w % 16 = w := by omega
  have hbad : ¬ rowClean t b (512 + k) := fun hclean => by
    have hword := hclean (w % 16) (Nat.mod_lt _ (by decide))
    rw [hmod, errAt_struck h.errs, if_pos rfl] at hword
    exact he hword
  have hrow : scrubBank (512 + k) t b = scrubRowOf t b (512 + k) := by
    rw [scrubBank, h.bank, hrepair, hcand]
    rfl
  have hnoted : MarksBank b t ((List.range 16).foldl (wordNoted b (512 + k)) t) := MarksBank.foldl_range wordNoted_marks t
  have hspare := scrubRowOf_spare (Nat.le_add_right 512 k) (by rwa [Nat.add_sub_cancel_left, h.bank]) (by rw [h.bank, hrepair]) hbad
  rw [Nat.add_sub_cancel_left] at hspare
  rw [hrow, hspare]
  generalize (List.range 16).foldl (wordNoted b (512 + k)) t = u at hnoted
  have hlen : u.mem.banks.length = n := hnoted.count.trans h.count
  have htouch := OnlyBank.bankUp u b fun x => { x with spares := x.spares.set k (none, true) }
  refine ⟨{ u.bankSt b with spares := (u.bankSt b).spares.set k (none, true) }, ⟨?_, ?_, htouch.count.trans hlen⟩, ?_⟩
  · rw [htouch.errs, hnoted.errs, h.errs]
  · exact State.bankUp_bankSt u _ (hb.trans_eq hlen.symm)
  · show (u.bankSt b).spares.set k (none, true) = _
    rw [hnoted.spares, h.bank]

theorem scrubbed_bad {k : Nat} (herrs : s.mem.errs = []) (hcand : (s.bankSt b).cand = []) (hb : b < 48) (hlen : b < s.mem.banks.length) (hk : k < 8)
    (hrow : s.mem.scrubRow = 512 + k) (hw : w / 16 = 512 + k) (hrepair : (s.bankSt b).repair = none)
    (hfree : (s.bankSt b).spares.getD k (none, false) = (none, false)) :
    (scrubbed s [(b, w, 1)]).mem.errs = [(errKey b w, 1)] ∧
      ((scrubbed s [(b, w, 1)]).bankSt b).spares = (s.bankSt b).spares.set k (none, true) := by
  have hone : (1 : BitVec 145) ≠ 0 := by decide
  have hstruck := struckWords_one b w herrs hone
  have hturn : (struckWords s [(b, w, 1)]).mem.scrubRow = 512 + k := by rw [hstruck, hrow]
  have hstart : StruckBank b w 1 (s.bankSt b) s.mem.banks.length (passStarts (struckWords s [(b, w, 1)])) := by
    refine ⟨?_, ?_, ?_⟩
    · rw [passStarts_mem, hstruck]
    · rw [passStarts_bankSt, State.bankSt, hstruck]
      rfl
    · rw [passStarts_mem, hstruck]
  have hothers : ∀ (x : BankSt) (t : State) (q : Nat), q ≠ b → StruckBank b w 1 x s.mem.banks.length t →
      StruckBank b w 1 x s.mem.banks.length (scrubBank (512 + k) t q) := fun x t q hq h =>
    h.onlyBank (scrubBank_onlyBank (rowClean_other h.errs (by omega) (by omega) hq)) hq
  have hpass : ∃ y, StruckBank b w 1 y s.mem.banks.length (scrubbed s [(b, w, 1)]) ∧ y.spares = (s.bankSt b).spares.set k (none, true) := by
    rw [scrubbed, hturn]
    refine foldl_range_passes (P := StruckBank b w 1 (s.bankSt b) s.mem.banks.length)
      (Q := fun t => ∃ y, StruckBank b w 1 y s.mem.banks.length t ∧ y.spares = (s.bankSt b).spares.set k (none, true)) hb
      (fun t q _ hq h => hothers _ t q hq h) (fun t h => scrubBank_bad h hlen hone hw hcand hrepair hfree) ?_ hstart
    rintro t q - hq ⟨y, h, hy⟩
    exact ⟨y, hothers y t q hq h, hy⟩
  obtain ⟨y, h, hy⟩ := hpass
  exact ⟨h.errs, by rw [h.bank, hy]⟩

/-! ### A repair starts (R515, R517) -/

theorem freeSpare_banks (h : t.bankSt b = s.bankSt b) : freeSpare t b = freeSpare s b := by
  unfold freeSpare
  rw [h]

theorem startRepair_starts {row reason k : Nat} {rest : List (Nat × Nat)} (hcand : (t.bankSt b).cand = (row, reason) :: rest)
    (hk : freeSpare t b = some k) : startRepair t b = t.bankUp b fun x => { x with cand := rest, repair := some (k, row, reason) } := by
  unfold startRepair
  rw [hcand]
  dsimp only
  rw [hk]

theorem startRepair_drops {row reason : Nat} {rest : List (Nat × Nat)} (hcand : (t.bankSt b).cand = (row, reason) :: rest)
    (hk : freeSpare t b = none) :
    startRepair t b = (t.bankUp b fun x => { x with cand := rest, degraded := true }).raise G.MEM_NO_SPARE_ROW := by
  unfold startRepair
  rw [hcand]
  dsimp only
  rw [hk]

/-- The one bank with a candidate takes it into repair in place of a scrub. -/
theorem scrubbed_repairs {c : Nat × Nat} (herrs : s.mem.errs = []) (hb : b < 48) (hcand : (s.bankSt b).cand = [c])
    (hrepair : (s.bankSt b).repair = none) (hothers : ∀ q < 48, q ≠ b → (s.bankSt q).cand = []) :
    scrubbed s [] = startRepair (passStarts s) b ∧ (scrubbed s []).mem.errs = [] := by
  have hstart : (passStarts s).mem.errs = [] := (passStarts_marks b s).errs.trans herrs
  have htouch := startRepair_onlyBank (passStarts s) b
  have hscrubbed : scrubbed s [] = startRepair (passStarts s) b := by
    refine foldl_range_at hb (fun q hq hne => ?_) ?_ fun q hq hne => ?_
    · exact scrubBank_idle (rowClean_sound hstart) (by rw [passStarts_bankSt]; exact hothers q hq hne)
    · show scrubBank _ (passStarts s) b = _
      rw [scrubBank, passStarts_bankSt, hrepair, hcand]
      rfl
    · refine scrubBank_idle (rowClean_sound (htouch.errs.trans hstart)) ?_
      rw [htouch.others q hne, passStarts_bankSt]
      exact hothers q hq hne
  exact ⟨hscrubbed, by rw [hscrubbed, htouch.errs, hstart]⟩

end

/-! ### A row is copied (R515, R516) -/

/-- A word of the row in repair is read. -/
def wordFound (t : State) (b w : Nat) : State × Check :=
  if errAt t (errKey b w) = 0 then (t, .good) else foundError t srcCopy b w

/-- The word of the spare row k that takes the place of word i. -/
def copyKey (b k i : Nat) : Nat := errKey b ((512 + k) * 16 + i)

/-- A word is copied: an uncorrectable one becomes the poison word (R507). -/
def wordCopied (b k row : Nat) (t : State) (i : Nat) : State :=
  setErr (wordFound t b (row * 16 + i)).1 (copyKey b k i) (if (wordFound t b (row * 16 + i)).2 = .ue then poison else 0)

/-- The row is copied. -/
def rowCopied (s : State) (b k row : Nat) : State := (List.range 16).foldl (wordCopied b k row) s

/-- What a copied word holds for the bits in error of its source. -/
def copiedErr (e : BitVec 145) : BitVec 145 := if (checkWord e).1 = .ue then poison else 0

section
variable {s t : State} {b k row w : Nat}

theorem copiedErr_zero : copiedErr 0 = 0 := by rw [copiedErr, checkWord_zero]; rfl
theorem copiedErr_poison : copiedErr poison = poison := if_pos checkWord_poison

/-- Of a word that no bank holds an error is noted, and no bank is judged. -/
theorem foundError_far {src : Nat} (hb : 48 ≤ b) : foundError s src b w = noteError s src b w := if_pos hb

theorem wordFound_check (t : State) (b w : Nat) : (wordFound t b w).2 = (checkWord (errAt t (errKey b w))).1 := by
  unfold wordFound
  split
  next h => rw [h, checkWord_zero]
  · by_cases hb : b < 48
    · exact foundError_check hb
    · rw [foundError_far (Nat.le_of_not_lt hb)]
      exact noteError_check t srcCopy b w

theorem wordFound_changes (t : State) (b w : Nat) : Changes [.regs, .mem] memEventRegs t (wordFound t b w).1 := by
  unfold wordFound
  split
  · exact Changes.refl _ _ t
  · by_cases hb : b < 48
    · exact foundError_changes hb
    · rw [foundError_far (Nat.le_of_not_lt hb)]
      exact noteError_changes t srcCopy b w

theorem wordFound_marks (t : State) (b w : Nat) : MarksBank b t (wordFound t b w).1 := by
  unfold wordFound
  split
  · exact MarksBank.refl b t
  · exact foundError_marks t srcCopy b w

theorem wordCopied_errAt (t : State) (i j : Nat) : errAt (wordCopied b k row t i) j =
    if j = copyKey b k i then copiedErr (errAt t (errKey b (row * 16 + i))) else errAt t j := by
  rw [wordCopied, errAt_setErr, wordFound_check, errAt_congr (wordFound_marks t b _).errs]
  rfl

/-- The source of a copy is no word of a spare row. -/
theorem copyKey_ne_source (hrow : row < 512) {i j : Nat} (hi : i < 16) : errKey b (row * 16 + i) ≠ copyKey b k j := by
  unfold copyKey errKey
  omega

theorem copyKey_inj {i j : Nat} (h : copyKey b k i = copyKey b k j) : i = j := by
  unfold copyKey errKey at h
  omega

/-- Each word of the spare row holds what its source gives. -/
theorem rowCopied_errAt (s : State) (hrow : row < 512) {i : Nat} (hi : i < 16) :
    errAt (rowCopied s b k row) (copyKey b k i) = copiedErr (errAt s (errKey b (row * 16 + i))) := by
  have hsource : ∀ (t : State) (q : Nat), errAt t (errKey b (row * 16 + i)) = errAt s (errKey b (row * 16 + i)) →
      errAt (wordCopied b k row t q) (errKey b (row * 16 + i)) = errAt s (errKey b (row * 16 + i)) := fun t q h => by
    rw [wordCopied_errAt, if_neg (copyKey_ne_source hrow hi), h]
  refine foldl_range_passes (P := fun t => errAt t (errKey b (row * 16 + i)) = errAt s (errKey b (row * 16 + i)))
    (Q := fun t => errAt t (copyKey b k i) = copiedErr (errAt s (errKey b (row * 16 + i)))) hi (fun t q _ _ h => hsource t q h) ?_ ?_ rfl
  · intro t h
    rw [wordCopied_errAt, if_pos rfl, h]
  · intro t q _ hne h
    rw [wordCopied_errAt, if_neg fun hkey => hne (copyKey_inj hkey).symm, h]

/-- A copy leaves the spare rows of its bank as they are placed. -/
theorem setErr_bankSt (t : State) (key : Nat) (e : BitVec 145) (q : Nat) : (setErr t key e).bankSt q = t.bankSt q := rfl
theorem setErr_length (t : State) (key : Nat) (e : BitVec 145) : (setErr t key e).mem.banks.length = t.mem.banks.length := rfl

theorem rowCopied_spares (s : State) (b k row : Nat) : ((rowCopied s b k row).bankSt b).spares = (s.bankSt b).spares :=
  foldl_keeps (part := fun t : State => (t.bankSt b).spares) (fun t i => by
    rw [wordCopied, setErr_bankSt, (wordFound_marks t b _).spares]) _ s

theorem rowCopied_length (s : State) (b k row : Nat) : (rowCopied s b k row).mem.banks.length = s.mem.banks.length :=
  foldl_keeps (part := fun t : State => t.mem.banks.length) (fun t i => by
    rw [wordCopied, setErr_length, (wordFound_marks t b _).count]) _ s

theorem wordCopied_changes (t : State) (i : Nat) : Changes [.regs, .mem] memEventRegs t (wordCopied b k row t i) :=
  (wordFound_changes t b _).part (setErr_only _ _ _)

theorem rowCopied_changes (s : State) (b k row : Nat) : Changes [.regs, .mem] memEventRegs s (rowCopied s b k row) :=
  foldl_range_keeps (P := Changes [.regs, .mem] memEventRegs s) (fun t i _ h => h.trans (wordCopied_changes t i)) (Changes.refl _ _ s)

/-- The map entry takes effect: the spare row takes the place of the row, which is no candidate any more. -/
def copyPlaced (t : State) (b k row : Nat) : State :=
  t.bankUp b fun x => { x with repair := none, cand := x.cand.filter (fun c => c.1 != row), spares := x.spares.set k (some row, false) }

theorem copyPlaced_errs (t : State) (b k row : Nat) : (copyPlaced t b k row).mem.errs = t.mem.errs := rfl

theorem copyPlaced_shows (hb : b < t.mem.banks.length) : ((copyPlaced t b k row).bankSt b).repair = none ∧
    ((copyPlaced t b k row).bankSt b).spares = (t.bankSt b).spares.set k (some row, false) := by
  have hbank := State.bankUp_bankSt t (fun x => { x with
    repair := none, cand := x.cand.filter (fun c => c.1 != row), spares := x.spares.set k (some row, false) }) hb
  exact ⟨congrArg BankSt.repair hbank, congrArg BankSt.spares hbank⟩

theorem repairCopy_eq {reason : Nat} (hrepair : (s.bankSt b).repair = some (k, row, reason)) (hrow : row < 512) : repairCopy s b =
    queueRecord ((copyPlaced (rowCopied s b k row) b k row).raise G.MEM_REPAIR)
      (repairRecord (copyPlaced (rowCopied s b k row) b k row) b k row reason) := by
  unfold repairCopy
  rw [hrepair]
  dsimp only
  simp only [if_neg (Nat.not_le.mpr hrow)]
  rfl

/-- A record is queued where the log takes records and has room (R526). -/
theorem queueRecord_appends (r : LogRec) (hen : s.get F.BKG_CFG_LOG_EN = 1) (hroom : s.bkg.queue.length < 16) :
    (queueRecord s r).bkg.queue = s.bkg.queue ++ [r] := by
  have hon : s.on F.BKG_CFG_LOG_EN = true := on_of_get_one hen
  unfold queueRecord
  rw [hon, Bool.not_true, if_neg Bool.false_ne_true, if_neg (Nat.not_le.mpr hroom)]

theorem repairRecord_congr (h : t.time = s.time) (b k row reason : Nat) : repairRecord t b k row reason = repairRecord s b k row reason := by
  rw [repairRecord, h]
  rfl

/-- The end of a copy, from the state in which the row is placed. -/
theorem repairCopy_shows {reason : Nat} (hb : b < s.mem.banks.length) (hrepair : (s.bankSt b).repair = some (k, row, reason))
    (hrow : row < 512) : counted G.MEM_REPAIR s (repairCopy s b) ∧ ((repairCopy s b).bankSt b).repair = none ∧
      ((repairCopy s b).bankSt b).spares = (s.bankSt b).spares.set k (some row, false) ∧
      (∀ i < 16, errAt (repairCopy s b) (copyKey b k i) = copiedErr (errAt s (errKey b (row * 16 + i)))) ∧
      (s.get F.BKG_CFG_LOG_EN = 1 → s.bkg.queue.length < 16 →
        (repairCopy s b).bkg.queue = s.bkg.queue ++ [repairRecord s b k row reason]) := by
  have hcopied := rowCopied_changes s b k row
  have hplaced : Only [.mem] (rowCopied s b k row) (copyPlaced (rowCopied s b k row) b k row) := State.bankUp_only _ _ _
  have hget (f : Fld) (hf : f.ptr ∉ memEventRegs) : (copyPlaced (rowCopied s b k row) b k row).get f = s.get f :=
    (State.get_congr (hplaced .regs (by decide)) f).trans (hcopied.2.get f hf)
  obtain ⟨hnone, hspares⟩ := copyPlaced_shows (t := rowCopied s b k row) (k := k) (row := row) (by rwa [rowCopied_length])
  have htime : (copyPlaced (rowCopied s b k row) b k row).time = s.time := (hplaced .time (by decide)).trans (hcopied.1 .time (by decide))
  have hbkg : (copyPlaced (rowCopied s b k row) b k row).bkg = s.bkg := (hplaced .bkg (by decide)).trans (hcopied.1 .bkg (by decide))
  have herrs (j : Nat) : errAt (copyPlaced (rowCopied s b k row) b k row) j = errAt (rowCopied s b k row) j := errAt_congr (copyPlaced_errs _ _ _ _) j
  rw [repairCopy_eq hrepair hrow, repairRecord_congr htime]
  generalize copyPlaced (rowCopied s b k row) b k row = u at *
  have hqueued := queueRecord_changes (u.raise G.MEM_REPAIR) (repairRecord s b k row reason)
  have hmem : (queueRecord (u.raise G.MEM_REPAIR) (repairRecord s b k row reason)).mem = u.mem :=
    (hqueued.1 .mem (by decide)).trans (State.raise_mem _ _)
  have hbank (q : Nat) : (queueRecord (u.raise G.MEM_REPAIR) (repairRecord s b k row reason)).bankSt q = u.bankSt q := by
    rw [State.bankSt, hmem]
    rfl
  refine ⟨(counted_raise_of (hget _ (by decide))).onlyRegs hqueued.2, by rw [hbank, hnone], ?_, fun i hi => ?_, fun hen hroom => ?_⟩
  · rw [hbank, hspares, rowCopied_spares]
  · rw [errAt_congr (congrArg Mem.errs hmem), herrs, rowCopied_errAt s hrow hi]
  · have hsame : (u.raise G.MEM_REPAIR).bkg = s.bkg := (State.raise_bkg _ _).trans hbkg
    rw [queueRecord_appends _ ?_ (by rwa [hsame]), hsame]
    rw [State.get_raise_disjoint _ (by decide) (by decide), hget _ (by decide), hen]

/-! ### Injected errors (R575) -/

/-- The word of MEM_INJ after a write. -/
def injWord (old v : Word) : Word := (old &&& ~~~(0x307F0000 : Word)) ||| (v &&& 0x307F0000) ||| (v &&& 0x80000000)

theorem rowOf_memInj : ∃ r, rowOf R.MEM_INJ = some (r, 0) ∧ r.rw = 0x307F0000 ∧ r.rwl = 0 ∧ r.sc = 0x80000000 ∧ r.w1c = 0 := by
  have hrow : rowOf R.MEM_INJ = some ({ base := 0x428, reset := 0x10000000, rw := 0x307f0000, sc := 0x80000000 }, 0) := by decide +kernel
  exact ⟨_, hrow, rfl, rfl, rfl, rfl⟩

theorem injStored (s : State) (v : Word) : (storeCoded s R.MEM_INJ v).rd R.MEM_INJ = injWord (s.rd R.MEM_INJ) v := by
  obtain ⟨r, hrow, hrw, hrwl, hsc, hw1c⟩ := rowOf_memInj
  rw [storeCoded_rd_same v hrow, hrw, hrwl, hsc, hw1c, injWord, Nat.or_zero]
  simp only [BitVec.and_zero, BitVec.not_zero, BitVec.and_allOnes]
  rfl

theorem injWord_fields (old v : Word) : (injWord old v).toNat / 2 ^ 28 % 4 = v.toNat / 2 ^ 28 % 4 ∧
    (injWord old v).toNat / 2 ^ 16 % 128 = v.toNat / 2 ^ 16 % 128 ∧ (v.toNat / 2 ^ 31 = 1 → (injWord old v).toNat / 2 ^ 31 % 2 = 1) := by
  have hfield : ∀ lo n : Nat, (injWord old v).extractLsb' lo n = v.extractLsb' lo n →
      (injWord old v).toNat / 2 ^ lo % 2 ^ n = v.toNat / 2 ^ lo % 2 ^ n := fun lo n h => by
    have hnat := congrArg BitVec.toNat h
    simpa [Nat.shiftRight_eq_div_pow] using hnat
  refine ⟨hfield 28 2 ?_, hfield 16 7 ?_, fun harm => ?_⟩
  · apply BitVec.eq_of_getLsbD_eq
    intro i hi
    unfold injWord
    interval_cases i <;> simp
  · apply BitVec.eq_of_getLsbD_eq
    intro i hi
    unfold injWord
    interval_cases i <;> simp
  · have hset : v.getLsbD 31 = true := by rw [BitVec.getLsbD, Nat.testBit_eq_decide_div_mod_eq, harm]; rfl
    have harmed : (injWord old v).getLsbD 31 = true := by simp [injWord, hset]
    have hlt := (injWord old v).isLt
    rw [BitVec.getLsbD, Nat.testBit_eq_decide_div_mod_eq, decide_eq_true_eq] at harmed
    omega

theorem injStored_changes (s : State) (v : Word) : Changes [.regs] [R.MEM_INJ] s (storeCoded s R.MEM_INJ v) := by
  obtain ⟨r, hrow, -, hrwl, -, -⟩ := rowOf_memInj
  refine ⟨?_, storeCoded_onlyRegs s _ v⟩
  unfold storeCoded
  rw [hrow]
  dsimp only
  rw [if_pos hrwl]
  exact State.wr_only _ _ _

theorem injectArm_allowed (v : Word) (h : s.get F.SYS_LC_STATE = 1 ∨ s.get F.SYS_LC_STATE = 3) : injectArm s v = storeCoded s R.MEM_INJ v :=
  if_pos h

theorem injectArm_ignored (v : Word) (h1 : s.get F.SYS_LC_STATE ≠ 1) (h3 : s.get F.SYS_LC_STATE ≠ 3) : injectArm s v = s :=
  if_neg (not_or.mpr ⟨h1, h3⟩)

end

end Sys2Proof.Machine

open Sys2Proof Sys2Proof.Machine in
/-- Settles O46: the write-back of a correction, what a scrub step finds in the row in turn, a repair from its start to its record, and the
injected errors. -/
theorem memoryCorrection : Obligations.MemoryCorrection := by
  unfold Obligations.MemoryCorrection
  refine fun s hres => ⟨fun b w k hb hk => ⟨fun hwait => ?_, fun hwait => ?_⟩, fun hdue hen herrs hcand => ?_,
    fun b w i hdue hen herrs hcand hb hw hrow hi hrepair hfree => ?_,
    fun b k w hdue hen herrs hcand hb hlen hk8 hlen' hrow hw hrepair hfree => ?_,
    fun b row reason hdue hen herrs hb hlen hcand hrepair hothers => ⟨fun k hk => ?_, fun hk => ?_⟩, fun hidle => ?_,
    fun b k row reason hlen hrepair hrow => ?_, fun v hreach hstate => ?_, fun v h1 h3 => ?_, fun hr => ?_, fun hr => ?_⟩
  · have herr := errAt_setErr s k (errAt s k ^^^ (checkWord (errAt s k)).2)
    refine awake_ends hres (hk ▸ writeBack_writes hb (hk ▸ hwait)) ⟨(herr k).trans (if_pos rfl), fun i hi hbit => ?_,
      fun j hj => (herr j).trans (if_neg hj), rfl, (setErr_only _ _ _).changes_no_register (by decide)⟩
      fun _ ⟨hsame, hfixed, hothers, hback, hchanges⟩ => ⟨hsame, hfixed, hothers, hback, hchanges.queued⟩
    rw [herr, if_pos rfl, hbit, checkWord_oneBit i hi]
    exact BitVec.xor_self
  · exact awake_idle (writeBack_idle hb (hk ▸ hwait))
  · have hscrubbed := scrubbed_sound herrs hcand
    have hon : s.on F.BKG_CFG_SCRUB_EN = true := on_of_get_one hen
    obtain ⟨hmem, hbkg, hregs, hseq, honly⟩ := scrubStep_shows (l := []) hon (by
      rw [hscrubbed, (passStarts_marks 0 s).errs, herrs]
      exact fun e he => absurd he List.not_mem_nil)
    rw [hscrubbed] at hmem hregs hseq
    have hkept : OnlyRegs [F.BKG_SCRUB_SEQ.ptr] s (passStarts s) := OnlyRegs.of_only (OnlyRegs.refl _ s) (passStarts_only s) (by decide)
    refine awake_ends hres (if_pos hdue) ⟨?_, hbkg, fun hrow => ?_, honly, hkept.trans hregs⟩
      fun _ ⟨hmem, hbkg, hseq, hchanges⟩ => ⟨hmem, hbkg, hseq, Changes.queued hchanges⟩
    · rw [hmem, passStarts_mem]
      rfl
    · rw [hseq hrow, State.get_congr (passStarts_only s .regs (by decide))]
  · have hbit := oneBit_ne_zero hi
    have hon : s.on F.BKG_CFG_SCRUB_EN = true := on_of_get_one hen
    obtain ⟨u, hu⟩ : ∃ u, u = passStarts (struckWords s [(b, w, BitVec.ofNat 145 (2 ^ i))]) := ⟨_, rfl⟩
    obtain ⟨hfound, hstart, hstruck⟩ := scrubbed_finds herrs hcand hb hw hrow hrepair hfree hbit hu
    have hcheck : checkWord (errAt u (errKey b w)) = (.ce1, BitVec.ofNat 145 (2 ^ i)) := by
      rw [errAt_struck hstruck, if_pos rfl]
      exact checkWord_oneBit i hi
    have hmarks := foundError_marks u srcScrub b w
    obtain ⟨hcount, hback, hsrc, hbank, hkind⟩ := foundError_corrects (src := srcScrub) hb (by decide) hcheck hbit
    rw [← hfound] at hcount hback hsrc hbank hkind hmarks
    obtain ⟨hmem, -, hregs, -, honly⟩ := scrubStep_shows (l := [(b, w, BitVec.ofNat 145 (2 ^ i))]) hon (by
      rw [hmarks.errs, hstruck]
      simp only [List.mem_singleton, forall_eq]
      unfold errKey
      omega)
    have hfrom : counted G.MEM_CE s (scrubbed s [(b, w, BitVec.ofNat 145 (2 ^ i))]) :=
      counted_congr hcount (State.get_congr (hstart .regs (by decide)) _) rfl rfl
    exact awake_ends hres (if_pos hdue) ⟨hfrom.onlyRegs hregs,
      (congrArg (List.contains · (errKey b w)) (back_of_scrubRow hmem)).trans hback, (hregs.get _).trans hsrc, (hregs.get _).trans hbank,
      (hregs.get _).trans hkind, honly⟩
      fun _ ⟨hcount, hback, hsrc, hbank, hkind, honly⟩ => ⟨hcount, hback, hsrc, hbank, hkind, honly.queued⟩
  · have hon : s.on F.BKG_CFG_SCRUB_EN = true := on_of_get_one hen
    have hspare : (s.bankSt b).spares.getD k (none, false) = (none, false) := by
      rw [← hfree, List.getD_eq_getElem _ _ hlen', List.getD_eq_getElem _ _ hlen']
    obtain ⟨herrs', hbad⟩ := scrubbed_bad (w := w) herrs hcand hb hlen hk8 hrow hw hrepair hspare
    obtain ⟨hmem, -, -, -, honly⟩ := scrubStep_shows (l := [(b, w, 1)]) hon (by
      rw [herrs']
      simp only [List.mem_singleton, forall_eq]
      unfold errKey
      omega)
    exact awake_ends hres (if_pos hdue) ⟨(congrArg BankSt.spares (bankSt_of_scrubRow hmem b)).trans hbad, honly⟩
      fun _ ⟨hspares, honly⟩ => ⟨hspares, honly.queued⟩
  · have hon : s.on F.BKG_CFG_SCRUB_EN = true := on_of_get_one hen
    obtain ⟨hscrubbed, hnone⟩ := scrubbed_repairs herrs hb hcand hrepair hothers
    obtain ⟨hmem, -, -, -, honly⟩ := scrubStep_shows (l := []) hon (by rw [hnone]; exact fun e he => absurd he List.not_mem_nil)
    have hstarts := startRepair_starts (t := passStarts s) (by rw [passStarts_bankSt]; exact hcand) ((freeSpare_banks (passStarts_bankSt s b)).trans hk)
    refine awake_ends hres (if_pos hdue) ⟨?_, honly⟩ fun _ ⟨hbank, honly⟩ => ⟨hbank, honly.queued⟩
    rw [bankSt_of_scrubRow hmem, hscrubbed, hstarts, State.bankUp_bankSt _ _ (by rwa [(passStarts_marks b s).count]), passStarts_bankSt]
  · have hon : s.on F.BKG_CFG_SCRUB_EN = true := on_of_get_one hen
    obtain ⟨hscrubbed, hnone⟩ := scrubbed_repairs herrs hb hcand hrepair hothers
    obtain ⟨hmem, -, hregs, -, honly⟩ := scrubStep_shows (l := []) hon (by rw [hnone]; exact fun e he => absurd he List.not_mem_nil)
    have hdrops := startRepair_drops (t := passStarts s) (by rw [passStarts_bankSt]; exact hcand) ((freeSpare_banks (passStarts_bankSt s b)).trans hk)
    refine awake_ends hres (if_pos hdue) ⟨?_, ?_, honly⟩ fun _ ⟨hbank, hcount, honly⟩ => ⟨hbank, hcount, honly.queued⟩
    · rw [bankSt_of_scrubRow hmem, hscrubbed, hdrops]
      refine (State.bankUp_bankSt _ _ (by rwa [(passStarts_marks b s).count])).trans ?_
      rw [passStarts_bankSt]
    · refine counted.onlyRegs ?_ hregs
      rw [hscrubbed, hdrops]
      exact counted_raise_of ((State.get_congr (State.bankUp_only _ _ _ .regs (by decide)) _).trans
        (State.get_congr (passStarts_only s .regs (by decide)) _))
  · have hstep : (if 0 < s.bkg.scrubDue then scrubStep s [] else struckWords s []) = s := by
      split
      next hdue =>
        obtain hoff | hnone := hidle
        · exact if_pos (by rw [State.on, State.get_congr (struckWords_only s [] .regs (by decide)), hoff]; rfl)
        · omega
      · rfl
    exact awake_idle hstep
  · obtain ⟨hcount, hnone, hspares, hwords, hqueue⟩ := repairCopy_shows hlen hrepair hrow
    refine awake_ends hres rfl ⟨hcount, hnone, hspares, fun i hi hclean => ?_, fun i hi hbad => ?_, hqueue, repairCopy_only s b⟩
      fun _ ⟨hcount, hnone, hspares, hclean, hbad, hqueue, honly⟩ => ⟨hcount, hnone, hspares, hclean, hbad, hqueue, honly.queued⟩
    · exact (hwords i hi).trans (by rw [hclean, copiedErr_zero])
    · exact (hwords i hi).trans (by rw [hbad, copiedErr_poison])
  · have harm : injectArm (granted s R.MEM_INJ) v = storeCoded (granted s R.MEM_INJ) R.MEM_INJ v :=
      injectArm_allowed v (by rwa [granted_get])
    have hword := injStored (granted s R.MEM_INJ) v
    obtain ⟨hbits, hbank, hset⟩ := injWord_fields ((granted s R.MEM_INJ).rd R.MEM_INJ) v
    rw [← hword] at hbits hbank hset
    refine awake_ends (reached_awake hreach) (fieldAt_writes hreach harm) ⟨hbits, hbank, hset,
      ((granted_changes s _).mono).trans (injStored_changes _ v).mono⟩
      fun _ ⟨hbits, hbank, hset, hchanges⟩ => ⟨hbits, hbank, hset, hchanges.queued⟩
  · have hidle : fieldAt s .hostPrimary R.MEM_INJ (fun t => injectArm t v) = granted s R.MEM_INJ := by
      have hsame : injectArm (granted s R.MEM_INJ) v = granted s R.MEM_INJ :=
        injectArm_ignored v (by rwa [granted_get]) (by rwa [granted_get])
      unfold fieldAt
      dsimp only
      rw [hsame, ite_self]
    exact awake_ends hres hidle (granted_changes s _) fun _ h => h.queued
  · exact ⟨_, awake_readAt _ hr, rfl, latchRead_latches s 0 _ 0 (by decide) rfl, (latchRead_changes s 0 _ 1).queued⟩
  · exact ⟨_, awake_readAt _ hr, rfl, latchRead_latches s 0 _ 0 (by decide) rfl, latchRead_latches s 0 _ 1 (by decide) rfl,
      (latchRead_changes s 0 _ 2).queued⟩

end
